-- ==== Sys2Proof/Word.lean ====
section
/-! DEFINITION. The words of the module: register words, bytes, the two worlds, the two keepers; and the types of the
operands that commands carry. -/

namespace Sys2Proof

/-- A register, chart or mirror word (R14, R105). -/
abbrev Word := BitVec 32

/-- A byte of a frame, buffer or envelope. -/
abbrev Byte := BitVec 8

/-- The world that every access carries (R499). -/
inductive World where
  | normal
  | secure
deriving DecidableEq, Repr

/-- The two keepers (R104). -/
inductive Keeper where
  | A
  | B
deriving DecidableEq, Repr

/-- Keeper A is 0 and keeper B is 1 wherever the spec numbers them. -/
def Keeper.idx : Keeper → Nat
  | .A => 0
  | .B => 1

/-- The other keeper. -/
def Keeper.other : Keeper → Keeper
  | .A => .B
  | .B => .A

/-- The two supply feeds and their power stage areas (R59). -/
inductive Feed where
  | A
  | B
deriving DecidableEq, Repr

/-- Feed A is 0 and feed B is 1. -/
def Feed.idx : Feed → Nat
  | .A => 0
  | .B => 1

/-- What a ground path of feed's side carries of the total return current over 10 ms, both in mA (R70): for a loss the most of the path and
the least of the total, for a return the least of the path and the most of the total. -/
structure GndReading where
  feed : Feed
  path : Nat
  total : Nat
deriving DecidableEq, Repr

/-- The voltage of a feed and its 100 µs running mean, in 4 mV units (R259). -/
structure SagReading where
  feed : Feed
  mean : BitVec 16
  volts : BitVec 16
deriving DecidableEq, Repr

/-- A leg over the 50 samples of a 10 µs mean (R308): the factory-calibrated current summed over the samples in which its high-side
switch was closed, divided by 50, in 100 µA, and the number of those samples. -/
structure LegShare where
  raw : Int
  closed : Nat
deriving DecidableEq, Repr

/-- The initiator of a register or memory access: its world and mooring (R499). -/
structure Source where
  world : World
  mooring : BitVec 12
deriving DecidableEq, Repr

/-- A supervisor command as it arrives on the management queue, without its CODE (R45): the sequence number, the target
node, the argument bytes and the MAC that the sender appended. LEN is the length of `args`. -/
structure Envelope where
  seq : BitVec 32
  node : BitVec 18
  args : List Byte
  mac : BitVec 128
deriving DecidableEq, Repr

/-- What check 1 of R46 can find wrong with a command envelope. -/
inductive EnvelopeFault where
  | len
  | rsvd
  | status
  | state
  | node
  | code
deriving DecidableEq, Repr

/-- What an Announce carries of a grandmaster (R392), in the order in which Clause 10 of IEEE 802.1AS compares it: priority1, class with
accuracy and variance, priority2, identity, steps removed, the identity of the sending port. -/
structure Master where
  priority1 : Byte
  quality : BitVec 32
  priority2 : Byte
  gm : BitVec 64
  steps : BitVec 16
  sender : BitVec 80
deriving DecidableEq, Repr

/-- What the time engine reads in a gPTP message (R385, R390, R392): an Announce with the UTC offset that it may carry; a valid Sync
with its Follow_Up, as the corrected time of its origin and the stamp of its reception (R381), both in 1/256 ns of network
time; the end of a peer-delay exchange with the mean link delay in 1/256 ns; every other message. -/
inductive PtpBody where
  | announce (master : Master) (utc : Option (BitVec 16))
  | syncFollowUp (origin stamp : Int)
  | linkDelay (mean : Int)
  | other
deriving DecidableEq, Repr

/-- A gPTP message and its domainNumber (R392). -/
structure PtpMessage where
  domain : Byte
  body : PtpBody
deriving DecidableEq, Repr

/-- The kinds of message that the time engine sends: those of a master port, and those of the link-delay service. -/
inductive PtpKind where
  | sync
  | followUp
  | announce
  | linkDelay
deriving DecidableEq, Repr

/-- A message that the time engine sends: its kind and its length. -/
structure PtpSend where
  kind : PtpKind
  octets : BitVec 11
deriving DecidableEq, Repr

/-- A source time of the gPTP instance in use (R386): the corrected time of its Sync's origin and the stamp of the reception, both in
1/256 ns. -/
structure SourceTime where
  origin : Int
  stamp : Int
deriving DecidableEq, Repr

/-- The two moments at which a port reports a received frame (R352): its reception begins, with the bytes that classification needs;
its reception ends, with or without a right FCS. -/
inductive Reception where
  | begins
  | ends (fcsOk : Bool)
deriving DecidableEq, Repr

/-- A clock of R30 as its monitor sees it in one window of R626: the cycles counted, the nominal number in hundredths (for
the always-on and application clocks, whose rate no rule fixes in a window), and whether the clock stopped. -/
structure ClockWindow where
  count : Nat
  nominal : Nat
  stopped : Bool
deriving DecidableEq, Repr

/-- What reading one stored word finds: no error, a corrected single-bit error, a double-bit error (R33, R627). -/
inductive EccResult where
  | clean
  | corrected
  | double
deriving DecidableEq, Repr

/-- The memories that the scrubber of R627 reads, by the fault source of their double-bit errors. -/
inductive ScrubTarget where
  | safety (core : BitVec 2) (addr : BitVec 16)
  | chart (k : Keeper)
  | table (k : Keeper)
  | other
deriving DecidableEq, Repr

/-- Who writes a register: firmware with its world and mooring, or a keeper (R14, R87, R681). -/
inductive Writer where
  | firmware (src : Source)
  | keeper (k : Keeper)
deriving DecidableEq, Repr

/-- Where in a leg a CSR is read (R480): how many of the core's cycles before the end of the primary pass, and after how many of the
leg's instructions. -/
structure LegPoint where
  cyclesBefore : Nat
  retired : Nat
deriving DecidableEq, Repr

/-- A result of a leg (R481): a register write, one of the value of a CSR that is read, a CSR write, a store with its size in bytes, or
a trap entry. In a second pass every value and address is complemented. -/
inductive LegResult where
  | reg (rd : BitVec 5) (value : Word)
  | csrRead (rd : BitVec 5) (num : BitVec 12) (point : LegPoint)
  | csr (num : BitVec 12) (value : Word)
  | store (addr : Word) (size : Nat) (value : Word)
  | trap (cause tval mstatus : Word)
deriving DecidableEq, Repr

/-- One pass of a leg (R476, R482): its results, how many instructions it has run, the next instruction address it reaches, and whether
it ends in time. -/
structure LegPass where
  results : List LegResult
  retired : Nat
  nextPc : Word
  timely : Bool
deriving DecidableEq, Repr

/-- What the delay buffer and the comparator pair show during a leg (R481, R487, R488): corrected single-bit errors, a
double-bit error, a pair that is not complementary. -/
structure LegChecks where
  corrected : Nat
  double : Bool
  comparator : Bool
deriving DecidableEq, Repr

/-- The instructions of the A extension that R472 names: LR, SC and the AMO operations. -/
inductive AmoOp where
  | lr
  | sc
  | swap
  | add
  | xor
  | and
  | or
  | min
  | max
  | minu
  | maxu
deriving DecidableEq, Repr

/-- An access-leg instruction (R479): a load into a register, a store, or an LR, SC or AMO of a word with its source value. -/
inductive LegAccess where
  | load (rd : BitVec 5) (signed : Bool)
  | store (value : Word)
  | atomic (op : AmoOp) (rd : BitVec 5) (value : Word)
deriving DecidableEq, Repr

/-- Privilege modes of the clusters (R470). -/
inductive Priv where
  | m
  | hs
  | u
  | vs
  | vu
deriving DecidableEq, Repr

/-- The privilege modes of the safety cluster (R470, R472). -/
inductive SafetyMode where
  | m
  | u
deriving DecidableEq, Repr

/-- A CAN frame (R419): its format (0 classical, 1 FD, 2 XL), its flags, its DLC, its identifier, the fields of an XL frame,
its data. -/
structure CanFrame where
  format : Nat
  ide : Bool
  rtr : Bool
  brs : Bool
  esi : Bool
  dlc : Nat
  ident : BitVec 29
  sdt : Byte
  vcid : Byte
  sec : Bool
  af : Word
  data : List Byte
deriving DecidableEq, Repr

/-- What the bus showed around an error flag (R428): whether a dominant bit was seen, during the passive error flag of a transmitter
or as the first bit after the error flag of a receiver, and how often ISO 11898-1 raises the counter by 8 more, for bit
errors in the flag and for dominant bits that follow it. -/
structure CanFlag where
  dominant : Bool
  extra : Nat
deriving DecidableEq, Repr

/-- How an attempt ends (R424, R425): without error, by arbitration loss, or by an error of cause 2 to 5 (bit, stuff, form,
ACK) in a field 0 to 5, with what its error flag met. -/
inductive CanEnd where
  | ok
  | lost
  | error (cause : Fin 4) (field : Fin 6) (flag : CanFlag)
deriving DecidableEq, Repr

/-- How a LIN response ends (R436): complete with its bytes and checksum, with a differing read-back, or with a dominant stop
bit, after the bytes sent or received until then (R438). -/
inductive LinEnd where
  | complete (data : List Byte) (checksum : Byte)
  | bitError (done : List Byte)
  | framing (done : List Byte)
deriving DecidableEq, Repr

/-- A header that a LIN responder has received (R434, R438): the bit time of its sync field and the time since its break began, in
ticks. -/
structure LinSync where
  bitTicks : Nat
  sinceBreak : Nat
deriving DecidableEq, Repr

/-- A LIN bus that stays dominant (R436): the channel, and the bytes of a running response sent or received until then. -/
structure LinShort where
  channel : Fin 6
  done : List Byte
deriving DecidableEq, Repr

/-- What an access does (R503): an instruction fetch needs read permission, an atomic access read and write permission and
writes its result. -/
inductive AccessKind where
  | read
  | fetch
  | write
  | atomic
deriving DecidableEq, Repr

/-- Where an access comes from (R497, R538): a hart of the application cluster or a safety hart, in a privilege mode. -/
inductive Initiator where
  | app (hart : Fin 8) (mode : Priv)
  | safety (hart : Fin 8) (mode : SafetyMode)
deriving DecidableEq, Repr

/-- A transaction that a PCIe device sends into H0 (R558): a posted write or a read. -/
structure PcieTxn where
  write : Bool
  addr : BitVec 64
  size : BitVec 10
  data : List Byte
deriving DecidableEq, Repr

/-- The amount of a shift (R128): a register or K. -/
inductive Amount where
  | reg (w : Fin 16)
  | imm (k : Fin 32)
deriving DecidableEq, Repr

/-- The ticket that CHKT or TKR names (R154): a register or TICKET. -/
inductive TicketArg where
  | reg (w : Fin 16)
  | imm (t : Fin 128)
deriving DecidableEq, Repr

/-- A channel page as an instruction names it (R112): bank and channel. -/
structure PageArg where
  bank : BitVec 4
  channel : BitVec 8
deriving DecidableEq, Repr

/-- A failing bit that memory BIST finds (R653): its row, its bit column, its word address. -/
structure BistFail where
  row : Nat
  bit : Nat
  addr : Nat
deriving DecidableEq, Repr

/-- The memory BIST of one instance (R653): the width of its words, the failures of the first run and those that the run after
soft repair still finds. -/
structure MemoryRun where
  inst : Fin 16
  width : Nat
  fails : List BistFail
  again : List BistFail
deriving DecidableEq, Repr

/-- What the BIST of a block finds (R651, R653): the failing scan domain with its signature, none where every domain passes, and
its memory instances; a BIST that the block does not receive finds nothing. -/
structure BlockBist where
  block : Fin 20
  logic : Option (Fin 64 × Word)
  memory : List MemoryRun
deriving DecidableEq, Repr

/-- What the wake detector of a CAN transceiver sees on the bus (R433): the wake-up pattern of ISO 11898-2, a valid frame at one
of the rates of RATE, or an error of frame detection. -/
inductive CanSeen where
  | pattern
  | frame (f : CanFrame) (rate : Fin 4)
  | error
deriving DecidableEq, Repr

/-- A level at the pin of an input in mV, and for how many ticks it has held without interruption on its side of the threshold
(R451). -/
structure WakeLevel where
  millivolts : Nat
  ticks : Nat
deriving DecidableEq, Repr

end Sys2Proof
end

