-- ==== Sys2Proof/Syntax.lean ====
section
/-! DEFINITION. The commands of the block: one constructor per row of the opcode table, with the row's operands. An
operand is an address, a value or a length that the sender gives, or a value that the outside world supplies at that
event (a measured current, a received frame, the outcome of an attempt). -/

namespace Sys2Proof

/-- The commands (spec/opcode_table.json), in the table's order. -/
inductive Instr where
  /-- REGISTER_WRITE (R14). -/
  | registerWrite (writer : Writer) (offset : BitVec 24) (size : BitVec 4) (mode : Fin 4) (value : BitVec 64)
  /-- RC_READ (R14). -/
  | rcRead (src : Source) (offset : BitVec 24) (size : BitVec 4)
  /-- PAGE_LOCK (R15). -/
  | pageLock (writer : Writer) (page : PageArg)
  /-- DCQ_PACKET_WRITE (R34). -/
  | dcqPacketWrite (queue : BitVec 16) (words : List Word) (complete : Bool)
  /-- DCQ_WORD_READ (R33). -/
  | dcqWordRead (queue : BitVec 16) (ecc : EccResult)
  /-- DCQ_CLOCK_STOP (R36). -/
  | dcqClockStop (queue : BitVec 16)
  /-- CLOCK_MONITOR_WINDOW (R626). -/
  | clockMonitorWindow (domain : Fin 10) (window : ClockWindow)
  /-- START_NOTICE (R44). -/
  | startNotice
  /-- START_NOTICE_REPEAT (R44). -/
  | startNoticeRepeat
  /-- GET_STATUS (R50). -/
  | getStatus (env : Envelope)
  /-- RESET (R670). -/
  | reset (env : Envelope)
  /-- BIND_SUPERVISOR (R608). -/
  | bindSupervisor (env : Envelope)
  /-- SET_PROFILE (R54). -/
  | setProfile (env : Envelope)
  /-- LOAD_TABLE (R230). -/
  | loadTable (env : Envelope) (stored : Option (List Byte))
  /-- COMMIT_TABLE (R232). -/
  | commitTable (env : Envelope)
  /-- ROLLBACK_TABLE (R233). -/
  | rollbackTable (env : Envelope)
  /-- WATCH_CHANGE (R234). -/
  | watchChange (env : Envelope)
  /-- SLEEP_REQUEST (R454). -/
  | sleepRequest (env : Envelope)
  /-- SCHEDULE_GLOBAL (R400). -/
  | scheduleGlobal (env : Envelope)
  /-- CANCEL_GLOBAL (R404). -/
  | cancelGlobal (env : Envelope)
  /-- FORCE_TIME_STEP (R391). -/
  | forceTimeStep (env : Envelope)
  /-- GRANT_RESOURCE (R518). -/
  | grantResource (env : Envelope)
  /-- KEY_ROLL (R605). -/
  | keyRoll (env : Envelope)
  /-- LOG_FREEZE (R582). -/
  | logFreeze (env : Envelope)
  /-- READ_START_REASONS (R671). -/
  | readStartReasons (env : Envelope)
  /-- CLEAR_START_COUNT (R672). -/
  | clearStartCount (env : Envelope)
  /-- EXIT_LIGHTSHIP (R669). -/
  | exitLightship (env : Envelope)
  /-- ENTER_TEST (R616). -/
  | enterTest (env : Envelope)
  /-- EXIT_TEST (R616). -/
  | exitTest (env : Envelope)
  /-- POWER_UP (R67). -/
  | powerUp
  /-- ORDERLY_RESET (R67). -/
  | orderlyReset
  /-- CRANK_HOLD_ENTRY (R66). -/
  | crankHoldEntry
  /-- CRANK_HOLD_EXIT (R66). -/
  | crankHoldExit
  /-- CRANK_ACC_CLEAR (R66). -/
  | crankAccClear
  /-- CRANK_LIMIT (R66). -/
  | crankLimit
  /-- SURGE_ENTRY (R65). -/
  | surgeEntry (feed : Feed) (volts : BitVec 16)
  /-- SURGE_LONG (R65). -/
  | surgeLong (feed : Feed)
  /-- SURGE_EXIT (R68). -/
  | surgeExit (feed : Feed) (volts : BitVec 16)
  /-- FEED_LOST (R65). -/
  | feedLost (feed : Feed) (volts : BitVec 16)
  /-- REVERSE_ENTRY (R65). -/
  | reverseEntry (feed : Feed) (volts : BitVec 16)
  /-- FEED_RETURN (R265). -/
  | feedReturn (feed : Feed) (volts : BitVec 16)
  /-- GND_LOST (R70). -/
  | gndLost (feed : GndReading)
  /-- GND_RESTORED (R70). -/
  | gndRestored (feed : GndReading)
  /-- FEED_OVERLOAD (R61). -/
  | feedOverload (avgA avgB : BitVec 16)
  /-- INPUT_SAMPLE (R83). -/
  | inputSample (input : Fin 32) (millivolts : Nat)
  /-- INPUT_LEVEL_CHANGE (R85). -/
  | inputLevelChange (input : Fin 32)
  /-- CAPTURE_RISE (R86). -/
  | captureRise (input : Fin 32)
  /-- CAPTURE_FALL (R86). -/
  | captureFall (input : Fin 32)
  /-- CAPTURE_TIMEOUT (R86). -/
  | captureTimeout (input : Fin 32)
  /-- IN_CFG_WRITE (R84). -/
  | inCfgWrite (writer : Writer) (input : Fin 32) (value : Word)
  /-- IN_THRESH_WRITE (R85). -/
  | inThreshWrite (writer : Writer) (input : Fin 32) (value : Word)
  /-- THERMAL_SAMPLE (R96). -/
  | thermalSample (base soc switchDie powerA powerB : BitVec 16)
  /-- ADD (R127). -/
  | opAdd (keeper : Keeper) (wd ws wt : Fin 16) (f : Bool)
  /-- SUB (R127). -/
  | opSub (keeper : Keeper) (wd ws wt : Fin 16) (f : Bool)
  /-- AND (R127). -/
  | opAnd (keeper : Keeper) (wd ws wt : Fin 16) (f : Bool)
  /-- OR (R127). -/
  | opOr (keeper : Keeper) (wd ws wt : Fin 16) (f : Bool)
  /-- XOR (R127). -/
  | opXor (keeper : Keeper) (wd ws wt : Fin 16) (f : Bool)
  /-- SHL (R128). -/
  | opShl (keeper : Keeper) (wd ws : Fin 16) (amount : Amount) (f : Bool)
  /-- SHR (R128). -/
  | opShr (keeper : Keeper) (wd ws : Fin 16) (amount : Amount) (f : Bool)
  /-- SRA (R128). -/
  | opSra (keeper : Keeper) (wd ws : Fin 16) (amount : Amount) (f : Bool)
  /-- MUL (R127). -/
  | opMul (keeper : Keeper) (wd ws wt : Fin 16) (f u : Bool)
  /-- MULH (R127). -/
  | opMulh (keeper : Keeper) (wd ws wt : Fin 16) (f u : Bool)
  /-- MIN (R127). -/
  | opMin (keeper : Keeper) (wd ws wt : Fin 16) (f u : Bool)
  /-- MAX (R127). -/
  | opMax (keeper : Keeper) (wd ws wt : Fin 16) (f u : Bool)
  /-- SAT (R129). -/
  | opSat (keeper : Keeper) (wd ws : Fin 16) (k : Fin 32) (f u : Bool)
  /-- ADDI (R131). -/
  | opAddi (keeper : Keeper) (wd ws : Fin 16) (f : Bool) (imm : BitVec 16)
  /-- ANDI (R131). -/
  | opAndi (keeper : Keeper) (wd ws : Fin 16) (f : Bool) (imm : BitVec 16)
  /-- ORI (R131). -/
  | opOri (keeper : Keeper) (wd ws : Fin 16) (f : Bool) (imm : BitVec 16)
  /-- XORI (R131). -/
  | opXori (keeper : Keeper) (wd ws : Fin 16) (f : Bool) (imm : BitVec 16)
  /-- LUI (R131). -/
  | opLui (keeper : Keeper) (wd : Fin 16) (imm : BitVec 16)
  /-- CMPI (R131). -/
  | opCmpi (keeper : Keeper) (ws : Fin 16) (imm : BitVec 16)
  /-- CMP (R132). -/
  | opCmp (keeper : Keeper) (ws wt : Fin 16)
  /-- TST (R132). -/
  | opTst (keeper : Keeper) (ws wt : Fin 16)
  /-- SKIP (R133). -/
  | opSkip (keeper : Keeper) (cc : Fin 15) (n : Fin 15)
  /-- LDC (R134). -/
  | opLdc (keeper : Keeper) (w : Fin 16) (addr : BitVec 14)
  /-- STC (R134). -/
  | opStc (keeper : Keeper) (w : Fin 16) (addr : BitVec 14)
  /-- LDCX (R135). -/
  | opLdcx (keeper : Keeper) (w wx : Fin 16) (addr : BitVec 14)
  /-- STCX (R135). -/
  | opStcx (keeper : Keeper) (w wx : Fin 16) (addr : BitVec 14)
  /-- MIRR (R136). -/
  | opMirr (keeper : Keeper) (wd : Fin 16)
  /-- CRD (R137). -/
  | opCrd (keeper : Keeper) (w : Fin 16) (page : PageArg) (word : BitVec 6)
  /-- CWR (R139). -/
  | opCwr (keeper : Keeper) (w : Fin 16) (page : PageArg) (word : BitVec 6)
  /-- CWR_SET (R139). -/
  | opCwrSet (keeper : Keeper) (w : Fin 16) (page : PageArg) (word : BitVec 6)
  /-- CWR_CLR (R139). -/
  | opCwrClr (keeper : Keeper) (w : Fin 16) (page : PageArg) (word : BitVec 6)
  /-- CWR_TGL (R139). -/
  | opCwrTgl (keeper : Keeper) (w : Fin 16) (page : PageArg) (word : BitVec 6)
  /-- COP (R146). -/
  | opCop (keeper : Keeper) (wd : Fin 16) (variant : BitVec 4) (page : PageArg) (word : BitVec 6)
  /-- CHKT (R152). -/
  | opChkt (keeper : Keeper) (ticket : TicketArg)
  /-- TKR (R153). -/
  | opTkr (keeper : Keeper) (wd : Fin 16) (ticket : TicketArg)
  /-- CRDX (R143). -/
  | opCrdx (keeper : Keeper) (wd wx : Fin 16) (page : PageArg) (arrives : Bool)
  /-- CWRX (R144). -/
  | opCwrx (keeper : Keeper) (w wx : Fin 16) (page : PageArg)
  /-- QPOP (R155). -/
  | opQpop (keeper : Keeper) (w : Fin 16) (queue : Fin 256)
  /-- QPUSH (R157). -/
  | opQpush (keeper : Keeper) (w : Fin 16) (queue : Fin 256)
  /-- QLEN (R158). -/
  | opQlen (keeper : Keeper) (wd : Fin 16) (event : Bool) (queue : Fin 256)
  /-- TNOW (R159). -/
  | opTnow (keeper : Keeper) (wd : Fin 16)
  /-- TSEC (R159). -/
  | opTsec (keeper : Keeper) (wd : Fin 16)
  /-- TSLOT (R159). -/
  | opTslot (keeper : Keeper) (wd : Fin 16)
  /-- EVT (R160). -/
  | opEvt (keeper : Keeper) (ws : Fin 16) (code : BitVec 16)
  /-- FLT (R161). -/
  | opFlt (keeper : Keeper) (ws : Fin 16) (code : BitVec 16)
  /-- NOP (R162). -/
  | opNop (keeper : Keeper)
  /-- END (R162). -/
  | opEnd (keeper : Keeper)
  /-- ECALL_ABSENT (R524). -/
  | ecallAbsent (hart : Fin 8)
  /-- BUDGET_OVERRUN (R120). -/
  | budgetOverrun (keeper : Keeper)
  /-- SELF_CHECK_FAILURE (R213). -/
  | selfCheckFailure (keeper : Keeper) (cause : Fin 7)
  /-- TICKET_COMPLETION (R149). -/
  | ticketCompletion (keeper : Keeper) (ticket : Fin 128) (serial : Nat) (status : Fin 7) (value : BitVec 16)
  /-- TICKET_TIMEOUT (R151). -/
  | ticketTimeout (keeper : Keeper)
  /-- SLOT_MARK (R119). -/
  | slotMark
  /-- ROUND_BOUNDARY (R169). -/
  | roundBoundary
  /-- REQUEST_POST (R552). -/
  | requestPost (queue : Fin 256) (src : Source) (word : Word)
  /-- FRAME_TIMEOUT (R178). -/
  | frameTimeout (queue : Fin 256)
  /-- EVENT_POP (R553). -/
  | eventPop (queue : Fin 256) (src : Source)
  /-- EVENT_QUEUE_NOTICE (R549). -/
  | eventQueueNotice (queue : Fin 256)
  /-- LOADER_VERDICT (R198). -/
  | loaderVerdict (keeper : Keeper)
  /-- BEACON_RECEIVE (R207). -/
  | beaconReceive (sender : Keeper) (errors : Word) (disturbed : List Nat)
  /-- LOCAL_MARK (R202). -/
  | localMark (keeper : Keeper)
  /-- FENCE_CONFIRM (R215). -/
  | fenceConfirm (keeper : Keeper)
  /-- HARD_ISOLATION (R215). -/
  | hardIsolation (keeper : Keeper)
  /-- STAGE_SILENT (R211). -/
  | stageSilent (stage : Fin 112)
  /-- MIRROR_FRAME_RECEIVE (R220). -/
  | mirrorFrameReceive (keeper : Keeper) (flips : List (Nat × Word)) (closingLost : Bool)
  /-- CH_CTRL_WRITE (R243). -/
  | chCtrlWrite (ch : Fin 48) (value : Word)
  /-- FAST_TRIP (R253). -/
  | fastTrip (ch : Fin 48) (peak : BitVec 16)
  /-- WARMUP_TRIP_TAKEN (R260). -/
  | warmupTripTaken (ch : Fin 48)
  /-- SOFT_LIMIT_TICK (R254). -/
  | softLimitTick (ch : Fin 48) (raw : BitVec 32)
  /-- JUNCTION_SAMPLE (R256). -/
  | junctionSample (ch : Fin 48) (temp : BitVec 16)
  /-- SPACING_END (R257). -/
  | spacingEnd (ch : Fin 48)
  /-- WINDOW_END (R257). -/
  | windowEnd (ch : Fin 48)
  /-- REFILL (R258). -/
  | refill (ch : Fin 48)
  /-- REVERSE_GAP_END (R250). -/
  | reverseGapEnd (ch : Fin 48)
  /-- FEED_SAG (R259). -/
  | feedSag (feed : SagReading)
  /-- OPEN_LOAD_FILTER (R270). -/
  | openLoadFilter (ch : Fin 48) (low high : BitVec 32)
  /-- SWITCH_FAULT_DETECT (R272). -/
  | switchFaultDetect (ch : Fin 48) (senseMin senseMax : BitVec 32) (voutMin voutMax feedV : BitVec 16)
  /-- CLEAR_RETRY (R273). -/
  | clearRetry (ch : Fin 48) (keeper : Keeper) (ticket : Fin 128)
  /-- OFF_DIAG (R273). -/
  | offDiag (ch : Fin 48) (keeper : Keeper) (ticket : Fin 128) (vout feedV : BitVec 16)
  /-- OFF_DIAG_DONE (R273). -/
  | offDiagDone (ch : Fin 48) (millivolts : Nat)
  /-- SNAPSHOT (R273). -/
  | snapshot (ch : Fin 48) (keeper : Keeper) (ticket : Fin 128)
  /-- GENERATOR_BOUNDARY (R284). -/
  | generatorBoundary (gen : Fin 16)
  /-- FOLLOW_BOUNDARY (R283). -/
  | followBoundary (ch : Fin 48)
  /-- CHAR_STAGED_WRITE (R284). -/
  | charStagedWrite (gen : Fin 16) (word : Fin 5) (value : Word)
  /-- STAGE_HOLD_WRITE (R285). -/
  | stageHoldWrite (gen : Fin 16) (hold : Bool)
  /-- CAL_EDGE (R300). -/
  | calEdge (ch : Fin 48) (rawPre rawPost shuntPre shuntPost elecPre elecPost : Int) (settled alone : Bool)
  /-- CAL_STALE (R305). -/
  | calStale (ch : Fin 48)
  /-- CAL_RESTART (R304). -/
  | calRestart (writer : Writer) (ch : Fin 48)
  /-- CAL_RECORD_WRITE (R307). -/
  | calRecordWrite
  /-- BALANCE_EVAL (R308). -/
  | balanceEval (shuntA shuntB elecA elecB : Int) (satA satB : Bool) (legs : List LegShare)
  /-- RING_UPDATE (R313). -/
  | ringUpdate
  /-- RING_RESTART (R315). -/
  | ringRestart (writer : Writer)
  /-- FRAME_RECEIVE (R326). -/
  | frameReceive (port : Fin 28) (frame : List Byte) (reception : Reception) (ticks : Nat)
  /-- LOSSLESS_ADMIT (R340). -/
  | losslessAdmit (ingress : Fin 32) (egress : Fin 32) (cls : Fin 8)
  /-- HOST_TX_FETCH (R341). -/
  | hostTxFetch (pair : Fin 1024)
  /-- HOST_RX_DELIVER (R364). -/
  | hostRxDeliver (port : Fin 2)
  /-- DOORBELL (R365). -/
  | doorbell (port : Fin 2) (src : Source) (pair : BitVec 10) (receive : Bool) (tail : BitVec 16)
  /-- CROSSBAR_SCHEDULE (R343). -/
  | crossbarSchedule (plca : BitVec 4) (ecc : List (Fin 32 × EccResult))
  /-- FRAME_TRANSMIT_START (R347). -/
  | frameTransmitStart (port : Fin 28) (plca : Bool) (skew : Fin 51)
  /-- GATE_ENTRY_CHANGE (R348). -/
  | gateEntryChange (port : Fin 32)
  /-- GATE_COMMIT (R349). -/
  | gateCommit (port : Fin 32)
  /-- STREAM_GATE_CHANGE (R334). -/
  | streamGateChange (gate : Fin 64)
  /-- AGE_CHECK (R355). -/
  | ageCheck
  /-- LINK_DOWN (R356). -/
  | linkDown (port : Fin 28)
  /-- LINK_UP (R356). -/
  | linkUp (port : Fin 28) (speed : Fin 3) (leader eee : Bool)
  /-- HOLD_EXPIRY (R356). -/
  | holdExpiry (port : Fin 28)
  /-- TABLE_WRITE (R330). -/
  | tableWrite (window : Fin 7) (keeper : Keeper) (ticket : Fin 128) (index : Word)
  /-- TABLE_READ (R330). -/
  | tableRead (window : Fin 7) (keeper : Keeper) (ticket : Fin 128) (index : Word)
  /-- TABLE_CLEAR (R330). -/
  | tableClear (window : Fin 7) (keeper : Keeper) (ticket : Fin 128) (index : Word)
  /-- ACF_SEND (R367). -/
  | acfSend (keeper : Keeper) (ticket : Fin 128) (arg : Word)
  /-- ACF_TAKE (R366). -/
  | acfTake (keeper : Keeper) (ticket : Fin 128) (arg : Word)
  /-- COUNTER_READ (R368). -/
  | counterRead (port : Fin 32) (offset : BitVec 12)
  /-- SA_INSTALL (R362). -/
  | saInstall (writer : Writer) (port : Fin 4) (assoc : Fin 20) (sci : BitVec 64) (an : BitVec 2) (slot : BitVec 8) (nextPn : BitVec 64)
  /-- FRER_RESET_TIMEOUT (R359). -/
  | frerResetTimeout (function : Fin 256)
  /-- SERVO_MEASUREMENT (R386). -/
  | servoMeasurement (sourceTime : SourceTime)
  /-- SOURCE_LOST (R388). -/
  | sourceLost (gptpInstance : Fin 2)
  /-- PTP_MESSAGE_RECEIVE (R394). -/
  | ptpMessageReceive (port : Fin 28) (ptpInstance : Fin 2) (msg : PtpMessage)
  /-- PTP_TRANSMIT (R394). -/
  | ptpTransmit (port : Fin 28) (ptpInstance : Fin 2) (msg : PtpSend)
  /-- PPS_EDGE (R397). -/
  | ppsEdge (stampNs : Nat)
  /-- PPS_LOST (R398). -/
  | ppsLost
  /-- INTEGRITY_CHECK (R379). -/
  | integrityCheck (ticks : Nat) (mismatch : Bool)
  /-- TSQ_POP (R383). -/
  | tsqPop (writer : Writer) (port : Fin 28)
  /-- TIME_SNAP (R407). -/
  | timeSnap (writer : Writer)
  /-- SERVO_SOURCE_WRITE (R385). -/
  | servoSourceWrite (writer : Writer) (source : BitVec 2)
  /-- FORCE_STEP_TIMEOUT (R391). -/
  | forceStepTimeout
  /-- GLOBAL_LOG_SNAPSHOT (R581). -/
  | globalLogSnapshot
  /-- GLOBAL_KEY_ROLL (R604). -/
  | globalKeyRoll
  /-- GLOBAL_RESET (R402). -/
  | globalReset
  /-- GLOBAL_PROFILE (R400). -/
  | globalProfile
  /-- GLOBAL_TABLE_MARK (R402). -/
  | globalTableMark
  /-- CAN_FRAME_RECEIVE (R420). -/
  | canFrameReceive (channel : Fin 16) (frame : CanFrame) (ticks : Nat)
  /-- RING_NOTICE (R418). -/
  | ringNotice (channel : Fin 24)
  /-- RX_ACK_WRITE (R416). -/
  | rxAckWrite (channel : Fin 24) (writer : Writer) (value : BitVec 9)
  /-- TX_START (R423). -/
  | txStart (channel : Fin 16) (keeper : Keeper) (ticket : Fin 128) (variant : BitVec 4) (arg : Word)
  /-- CAN_ARBITRATION (R423). -/
  | canArbitration (channel : Fin 16)
  /-- CAN_ATTEMPT_END (R424). -/
  | canAttemptEnd (channel : Fin 16) (result : CanEnd)
  /-- TX_EXPIRED (R426). -/
  | txExpired (channel : Fin 16)
  /-- RECOVER (R429). -/
  | recover (channel : Fin 16) (keeper : Keeper) (ticket : Fin 128)
  /-- RECOVERY_DONE (R429). -/
  | recoveryDone (channel : Fin 16)
  /-- RECOVERY_TIMEOUT (R429). -/
  | recoveryTimeout (channel : Fin 16)
  /-- ABORT_PENDING (R429). -/
  | abortPending (channel : Fin 16) (keeper : Keeper) (ticket : Fin 128)
  /-- TM_REFERENCE (R432). -/
  | tmReference (channel : Fin 4) (idle : Bool)
  /-- LIN_HEADER (R436). -/
  | linHeader (channel : Fin 6) (keeper : Keeper) (ticket : Fin 128) (arg : Word) (idle : Bool)
  /-- LIN_FRAME_END (R436). -/
  | linFrameEnd (channel : Fin 6) (result : LinEnd)
  /-- LIN_RESPONSE_TIMEOUT (R436). -/
  | linResponseTimeout (channel : Fin 6) (received : List Byte)
  /-- LIN_BUS_SHORT (R436). -/
  | linBusShort (short : LinShort)
  /-- LIN_WAKEUP (R436). -/
  | linWakeup (channel : Fin 6) (keeper : Keeper) (ticket : Fin 128) (idle : Bool)
  /-- LIN_WAKEUP_DONE (R436). -/
  | linWakeupDone (channel : Fin 6)
  /-- LIN_HEADER_RECEIVE (R437). -/
  | linHeaderReceive (channel : Fin 6) (ident : Fin 64) (parityOk : Bool) (sync : LinSync)
  /-- LIN_WAKE_RX (R439). -/
  | linWakeRx (channel : Fin 6) (micros : Nat)
  /-- SER_SEND (R441). -/
  | serSend (channel : Fin 2) (keeper : Keeper) (ticket : Fin 128) (arg : Word)
  /-- SER_ABORT (R441). -/
  | serAbort (channel : Fin 2) (keeper : Keeper) (ticket : Fin 128)
  /-- SER_SEND_START (R441). -/
  | serSendStart (channel : Fin 2)
  /-- SER_SEND_END (R441). -/
  | serSendEnd (channel : Fin 2)
  /-- SER_BUSY_EXPIRED (R441). -/
  | serBusyExpired (channel : Fin 2)
  /-- SER_CHAR_RECEIVE (R442). -/
  | serCharReceive (channel : Fin 2) (value : Byte) (parityBad framingBad : Bool) (heldTicks : Nat)
  /-- SER_PACKET_END (R442). -/
  | serPacketEnd (channel : Fin 2)
  /-- TRX_WATCHDOG_SERVE (R468). -/
  | trxWatchdogServe (channel : Fin 22)
  /-- TRX_FALLBACK (R468). -/
  | trxFallback (channel : Fin 22)
  /-- FALLBACK_WAKE (R468). -/
  | fallbackWake (channel : Fin 16) (seen : CanSeen)
  /-- DRAIN_END (R455). -/
  | drainEnd
  /-- COMMIT_POINT (R456). -/
  | commitPoint
  /-- SLEEP_ENTRY_COMPLETE (R455). -/
  | sleepEntryComplete
  /-- INPUT_WAKE (R451). -/
  | inputWake (input : Fin 16) (level : WakeLevel)
  /-- WAKE_POLL (R452). -/
  | wakePoll (input : Fin 16) (millivolts : Nat)
  /-- CAN_WAKE (R433). -/
  | canWake (channel : Fin 16) (seen : CanSeen)
  /-- ETH_WAKE (R453). -/
  | ethWake (port : Fin 12)
  /-- WAKE_TIMER (R450). -/
  | wakeTimer
  /-- WAKE_START (R459). -/
  | wakeStart
  /-- AWAKE_LIMIT (R466). -/
  | awakeLimit
  /-- KEEP_AWAKE (R465). -/
  | keepAwake (writer : Writer)
  /-- FALSE_WAKE_CHECK (R464). -/
  | falseWakeCheck
  /-- DUALPASS_LEG (R482). -/
  | dualpassLeg (core : Fin 4) (mode : SafetyMode) (native inverted : LegPass) (checks : LegChecks)
  /-- LEG_RERUN (R485). -/
  | legRerun (core : Fin 4) (mode : SafetyMode) (native inverted : LegPass) (checks : LegChecks)
  /-- ACCESS_LEG (R479). -/
  | accessLeg (core : Fin 4) (mode : SafetyMode) (access : LegAccess) (addr inverted : Word) (size : Fin 3) (flip nextPc : Word)
  /-- COMPARATOR_SELFTEST (R487). -/
  | comparatorSelftest (core : Fin 4) (ok : Bool)
  /-- DEBUG_ATTACH (R492). -/
  | debugAttach
  /-- ZDP_CLR_COUNTS (R495). -/
  | zdpClrCounts (core : Fin 4) (mode : SafetyMode) (value : Word)
  /-- ZDP_INJECT_ARM (R496). -/
  | zdpInjectArm (core : Fin 4) (mode : SafetyMode) (value : Word)
  /-- XZMR_WRITE (R498). -/
  | xzmrWrite (safety : Bool) (hart : Fin 8) (csr : BitVec 12) (mode : Priv) (value : BitVec 64)
  /-- WORLD_SWITCH (R509). -/
  | worldSwitch (hart : Fin 8) (world : World)
  /-- MEMORY_ACCESS (R503). -/
  | memoryAccess (initiator : Initiator) (kind : AccessKind) (addr : BitVec 64) (size : BitVec 7) (data : List Byte)
  /-- DMA_TRANSLATE (R513). -/
  | dmaTranslate (master : Fin 8) (src : Source) (addr : BitVec 64) (write walkUe : Bool)
  /-- TU_FAULT_POP (R516). -/
  | tuFaultPop (writer : Writer)
  /-- INVAL_ALL (R515). -/
  | invalAll (writer : Writer)
  /-- INVAL_MOORING (R515). -/
  | invalMooring (writer : Writer) (target : Source)
  /-- INVAL_PAGE (R515). -/
  | invalPage (writer : Writer) (target : Source)
  /-- INVAL_DONE (R515). -/
  | invalDone
  /-- FW_GRANT (R518). -/
  | fwGrant (src : Source) (args : List Byte)
  /-- FW_RELEASE (R518). -/
  | fwRelease (src : Source) (args : List Byte)
  /-- FW_TABLE_GRANT (R518). -/
  | fwTableGrant (src : Source) (args : List Byte)
  /-- GRANT_QUIESCE_END (R519). -/
  | grantQuiesceEnd
  /-- GRANT_TIMEOUT (R520). -/
  | grantTimeout
  /-- QUEUE_PAIR_ENABLE (R532). -/
  | queuePairEnable (src : Source) (pair : Fin 1024) (value : Word)
  /-- SWDT_KICK (R522). -/
  | swdtKick (src : Source)
  /-- SECURE_READY (R522). -/
  | secureReady (src : Source)
  /-- SWDT_EXPIRY (R522). -/
  | swdtExpiry
  /-- SECURE_READY_TIMEOUT (R525). -/
  | secureReadyTimeout
  /-- GATE_RUN (R526). -/
  | gateRun (world : World) (block : Fin 16)
  /-- GATE_CLOCK_OFF (R526). -/
  | gateClockOff (world : World) (block : Fin 16)
  /-- GATE_POWER_OFF (R526). -/
  | gatePowerOff (world : World) (block : Fin 16)
  /-- GATE_CHANGE_DONE (R526). -/
  | gateChangeDone (block : Fin 16)
  /-- HOLD_SET (R527). -/
  | holdSet (world : World) (mask : BitVec 16)
  /-- HOLD_CLR (R527). -/
  | holdClr (world : World) (mask : BitVec 16)
  /-- HINGE_FORWARD (R539). -/
  | hingeForward (hinge : Fin 3) (inbound posted : Bool) (arrival : Option PcieTxn)
  /-- HINGE_COMPLETION (R540). -/
  | hingeCompletion (hinge : Fin 3) (inbound : Bool) (tag : Fin 128) (late : Bool) (code : Fin 13) (data : List Byte) (lines : List (List Byte × Bool))
  /-- CPL_TIMEOUT (R545). -/
  | cplTimeout (hinge : Fin 3) (inbound : Bool) (tag : Fin 128)
  /-- H0_LINK_DOWN (R546). -/
  | h0LinkDown
  /-- H0_LINK_UP (R558). -/
  | h0LinkUp (speed : Fin 4) (width : Fin 3)
  /-- INTX_MESSAGE (R550). -/
  | intxMessage
  /-- ERR_POP (R544). -/
  | errPop (writer : Writer) (hinge : Fin 3)
  /-- DISC_POP (R555). -/
  | discPop (writer : Writer) (hinge : Fin 3)
  /-- PREFETCH_AGED (R555). -/
  | prefetchAged (hinge : Fin 2) (inbound : Bool) (line : BitVec 64)
  /-- COPY_START (R557). -/
  | copyStart (src : Source)
  /-- COPY_END (R557). -/
  | copyEnd
  /-- LOG_FRAME_INTAKE (R566). -/
  | logFrameIntake
  /-- POST_COMMIT (R567). -/
  | postCommit (stream : Fin 64) (src : Source) (length : BitVec 12)
  /-- POST_TAKEN (R567). -/
  | postTaken (stream : Fin 64)
  /-- MODULE_RECORD (R569). -/
  | moduleRecord
  /-- RECORD_HASH (R575). -/
  | recordHash (stream : Fin 64)
  /-- SEGMENT_TIME_CLOSE (R576). -/
  | segmentTimeClose (stream : Fin 64)
  /-- NVME_SUBMIT (R580). -/
  | nvmeSubmit
  /-- NVME_COMPLETION (R580). -/
  | nvmeCompletion (id : BitVec 16) (status : BitVec 15)
  /-- STORE_RESUME (R580). -/
  | storeResume (writer : Writer)
  /-- FREEZE_RELEASE (R582). -/
  | freezeRelease (writer : Writer) (mask : BitVec 4)
  /-- GCM_ENCRYPT (R598). -/
  | gcmEncrypt (win : BitVec 8) (src : Source) (flags : BitVec 24)
  /-- GCM_DECRYPT (R598). -/
  | gcmDecrypt (win : BitVec 8) (src : Source) (flags : BitVec 24)
  /-- MAC_GEN (R598). -/
  | macGen (win : BitVec 8) (src : Source) (flags : BitVec 24)
  /-- MAC_VERIFY (R598). -/
  | macVerify (win : BitVec 8) (src : Source) (flags : BitVec 24)
  /-- SIGN (R598). -/
  | sign (win : BitVec 8) (src : Source) (flags : BitVec 24)
  /-- VERIFY (R598). -/
  | verify (win : BitVec 8) (src : Source) (flags : BitVec 24)
  /-- HASH (R598). -/
  | hash (win : BitVec 8) (src : Source) (flags : BitVec 24)
  /-- KEY_WRITE (R598). -/
  | keyWrite (win : BitVec 8) (src : Source) (flags : BitVec 24)
  /-- DERIVE (R598). -/
  | derive (win : BitVec 8) (src : Source) (flags : BitVec 24)
  /-- KEY_CLEAR (R598). -/
  | keyClear (win : BitVec 8) (src : Source) (flags : BitVec 24)
  /-- WRAP (R603). -/
  | wrap (win : BitVec 8) (src : Source) (flags : BitVec 24)
  /-- UNWRAP (R603). -/
  | unwrap (win : BitVec 8) (src : Source) (flags : BitVec 24)
  /-- ATTEST (R609). -/
  | attest (win : BitVec 8) (src : Source) (flags : BitVec 24)
  /-- JOB_BEGIN (R599). -/
  | jobBegin
  /-- JOB_COMPLETE (R601). -/
  | jobComplete
  /-- KEYRING_RECORD_WRITE (R595). -/
  | keyringRecordWrite
  /-- LC_TO_FACTORY (R612). -/
  | lcToFactory (writer : Writer) (testPort : Bool)
  /-- LC_TO_FIELD (R612). -/
  | lcToField (writer : Writer) (testPort : Bool)
  /-- LC_TO_RETURN (R613). -/
  | lcToReturn (writer : Writer) (testPort : Bool)
  /-- LC_TO_SCRAP (R612). -/
  | lcToScrap (writer : Writer) (testPort : Bool)
  /-- LC_ADVANCE_DONE (R612). -/
  | lcAdvanceDone (verified : Fin 4)
  /-- DEBUG_OPEN_APP (R614). -/
  | debugOpenApp (writer : Writer)
  /-- DEBUG_OPEN_SAFETY (R614). -/
  | debugOpenSafety (writer : Writer)
  /-- FAULT_REPORT (R628). -/
  | faultReport (toA toB : Bool)
  /-- LANE_COMPARE (R624). -/
  | laneCompare
  /-- DEMAND_RELEASE (R630). -/
  | demandRelease (writer : Writer)
  /-- SAFETY_RESET (R631). -/
  | safetyReset
  /-- MONITOR_FENCE (R635). -/
  | monitorFence (keeper : Keeper)
  /-- ALARM_PERIOD (R636). -/
  | alarmPeriod (lane : Fin 2)
  /-- ALARM_TEST (R638). -/
  | alarmTest (writer : Writer) (lane : Fin 2)
  /-- ALARM_TEST_END (R638). -/
  | alarmTestEnd (lane : Fin 2)
  /-- ALARM_READBACK_CHECK (R639). -/
  | alarmReadbackCheck (lane : Fin 2) (pinHigh : Bool)
  /-- SAFE_LOG_POP (R640). -/
  | safeLogPop (writer : Writer)
  /-- SCRUB_READ (R627). -/
  | scrubRead (target : ScrubTarget) (ecc : EccResult) (progress : Fin 1000)
  /-- WINDOW_CONFIRM (R650). -/
  | windowConfirm (block : Fin 20)
  /-- WINDOW_TIMEOUT (R650). -/
  | windowTimeout (domain : Option (Fin 10))
  /-- BIST_WINDOW_ABORT (R650). -/
  | bistWindowAbort (block : Fin 20)
  /-- BIST_DONE (R655). -/
  | bistDone (results : List BlockBist)
  /-- BOOT_ROM_DONE (R648). -/
  | bootRomDone (record : Bool) (image : Option (List Byte))
  /-- LS_VERDICT (R657). -/
  | lsVerdict
  /-- BOOT_IMAGES_VERIFIED (R659). -/
  | bootImagesVerified (header secure safety : List Byte)
  /-- SERVICE_TABLE_VERDICT (R659). -/
  | serviceTableVerdict (image : Option (List Byte))
  /-- SAFETY_READY (R660). -/
  | safetyReady (writer : Writer)
  /-- START_COMPLETE (R660). -/
  | startComplete
  /-- START_DEADLINE (R661). -/
  | startDeadline
  /-- START_REPORT (R667). -/
  | startReport
  /-- LS_RAISE_FLOOR (R673). -/
  | lsRaiseFloor (writer : Writer)
  /-- LIFE_TIME_SAVE (R662). -/
  | lifeTimeSave
  /-- LOGIC_BIST_START (R651). -/
  | logicBistStart (writer : Writer) (block : BitVec 6) (failure : Option (Fin 64 × Word))
  /-- MEMORY_BIST_START (R653). -/
  | memoryBistStart (writer : Writer) (block : BitVec 6) (runs : List MemoryRun)
  /-- REPAIR_PROG (R654). -/
  | repairProg (writer : Writer) (good : Bool)
  /-- MALFORMED_COMMAND (R46). -/
  | malformedCommand (fault : EnvelopeFault)
  /-- GENERATOR_EDGE (R282). -/
  | generatorEdge (gen : Fin 16)
  /-- FRAME_TRANSMIT_END (R347). -/
  | frameTransmitEnd (port : Fin 28)
  /-- CAN_RECEIVE_ERROR (R428). -/
  | canReceiveError (channel : Fin 16) (flag : CanFlag)
  /-- SQI_LOW (R374). -/
  | sqiLow (port : Fin 28) (sqi : BitVec 3)
deriving DecidableEq, Repr

end Sys2Proof
end

