-- ==== Sys2Proof/Decode.lean ====
section
/-! DEFINITION. The command that a word spells by the bits of the opcode table. No row of the table gives bits, so no word
spells a command (log entry 5). -/

namespace Sys2Proof

/-- The command that the `nbits`-bit word `w` spells: none, since no row of the table gives bits. -/
def decodeTableWord (_nbits _w : Nat) : Option Instr := none

end Sys2Proof
end

