-- ==== Sys2Proof/Config.lean ====
section
/-! DEFINITION. What an implementation fixes and the values that the spec leaves open: opaque constants, so that nothing can
be proved about them. -/

namespace Sys2Proof.Config

/-- The n-th free value: a value that the spec leaves undefined or does not state (log entry 2). -/
opaque freeValue : Nat → BitVec 32

/-- The initialisation vector of a MACsec frame of an XPN suite: the suite of R374, the SCI, the PN and the SAK's slot. It depends on
a salt and a short identifier that the spec does not give (log entry 3). -/
opaque secIv : Nat → BitVec 64 → Nat → Nat → List Byte

/-- The SCI of the transmit secure channel of port p, which the spec does not give (log entry 3). -/
opaque portSci : Nat → BitVec 64

/-- The stated computations whose divisor is 0 in a case the spec does not describe: the operand gives the result (log
entry 2). -/
opaque divByZero : Int → Int

/-- The provisioning key in ROM (R659), which the spec does not give (log entry 3). -/
opaque provisioningKey : List Byte

/-- The number that fixes the depth 2^n of each dual-clock queue, with n from 2 to 12 (R32), where no rule names it (log entry
57). -/
opaque dcqSize : Nat → Nat

/-- The clockIdentity under which the module announces itself, and its clockAccuracy with offsetScaledLogVariance, which no rule
gives (R392). -/
opaque clockIdentity : BitVec 64
opaque clockAccuracy : BitVec 24

/-- Whether the calibration record in managed flash passes its integrity check at the start of a tick (R307). -/
opaque recordIntact : Nat → Bool

/-- The number that fixes the switching point of each threshold of the supply monitor within its guaranteed window (R64). -/
opaque supplyPoint : Nat → Nat

/-- The number that fixes the switching point of each wake comparator within its tolerance (R451). -/
opaque wakePoint : Nat → Nat

/-- The number that fixes the fast-trip threshold of each load output within the window of its class (R238). -/
opaque fastTripPoint : Nat → Nat

end Sys2Proof.Config
end

