-- ==== Sys2Proof/Machine/RegMap.lean ====
section
/-! DEFINITION. The register map of the module: every word of every channel page with its access masks and its reset
value (rules R25, R37, R38, R56, R57, R88, R98, R99, R236, R274, R292, R316 to R319, R370 to R374, R407 to R409,
R443 to R446, R469, R529 to R534, R560 to R563, R584, R585, R597, R619 to R621, R645, R646, R673 to R675), and the
position of every field.  Per-channel reset values that the tables call "see text" or "class" are in ResetVals.lean. -/

namespace Sys2Proof.Machine

/-- A field of a register page: byte offset, lowest bit, width (the register tables of the spec). -/
structure Fld where
  off : Nat
  lo : Nat
  w : Nat
deriving DecidableEq, Repr

/-- Field `f` of the k-th record of an array whose records lie `stride` bytes apart. -/
def Fld.nth (f : Fld) (stride k : Nat) : Fld := ⟨f.off + stride * k, f.lo, f.w⟩

/-- A register word, or an array of `n` words `stride` bytes apart, with one mask per access
code of R14, and the lowest bit and width of each field of access RC. -/
structure WordD where
  off : Nat
  n : Nat
  stride : Nat
  reset : Nat
  rw : Nat
  rwl : Nat
  kw : Nat
  w1c : Nat
  w1s : Nat
  rc : List (Nat × Nat)
  wo : Nat
deriving DecidableEq, Repr

/-- The kinds of channel page (R25): one constructor per register table of the spec. -/
inductive PageKind where
  | zone5
  | zone0
  | zone7
  | input
  | zone3
  | zone4
  | keeper
  | load
  | char
  | cal
  | shunt
  | bal
  | ring
  | sw0
  | swp
  | port
  | time0
  | time1
  | tsq
  | can
  | lin
  | ser
  | tu
  | regn
  | grant
  | qpr
  | hinge0
  | hinge1
  | hinge2
  | log0
  | stream
  | win
  | key0
  | slot
  | test2
  | safe0
  | alarm
  | zone6
  | test0
  | test1
  | sww
  | ownl
  | owns
  | empty
deriving DecidableEq, Repr

/-- Words of page kind ZONE5 (R37, R38, R534). -/
def wordsZone5 : List WordD := [
  ⟨0x0, 1, 0, 0x0, 0x0, 0x0, 0x0, 0x0, 0x0, [], 0x0⟩,
  ⟨0x4, 1, 0, 0x0, 0x0, 0x0, 0x0, 0x3ff, 0x0, [], 0x0⟩,
  ⟨0x8, 1, 0, 0x0, 0x0, 0x0, 0x0, 0x0, 0x0, [], 0x0⟩,
  ⟨0xc, 1, 0, 0x0, 0x0, 0x0, 0x0, 0x0, 0x0, [(0, 32)], 0x0⟩,
  ⟨0x20, 1, 0, 0x0, 0x0, 0x0, 0x0, 0x0, 0x0, [(0, 32)], 0x0⟩,
  ⟨0x24, 1, 0, 0x0, 0x0, 0x0, 0x0, 0x0, 0x0, [(0, 32)], 0x0⟩,
  ⟨0x28, 1, 0, 0x0, 0x0, 0x0, 0x0, 0x0, 0x0, [], 0x0⟩,
  ⟨0x40, 1, 0, 0x0, 0x3000f, 0x0, 0x0, 0x0, 0x0, [], 0x3000f⟩,
  ⟨0x44, 1, 0, 0x0, 0x0, 0x0, 0x0, 0x0, 0x0, [], 0x0⟩,
  ⟨0x48, 1, 0, 0x0, 0x0, 0x0, 0x0, 0x0, 0x0, [], 0x0⟩,
  ⟨0x4c, 1, 0, 0x1200, 0x0, 0x0, 0x0, 0x0, 0x0, [], 0x0⟩,
  ⟨0x50, 1, 0, 0x0, 0x0, 0x0, 0x0, 0x0, 0xffff, [], 0xffff⟩,
  ⟨0x54, 1, 0, 0x0, 0x0, 0x0, 0x0, 0x0, 0xffff, [], 0xffff⟩,
  ⟨0x58, 1, 0, 0x0, 0x0, 0x0, 0x0, 0x0, 0x0, [(0, 16), (16, 16)], 0x0⟩,
  ⟨0x60, 10, 4, 0x0, 0x0, 0x0, 0x0, 0x0, 0x0, [(0, 16)], 0x0⟩]

/-- Words of page kind ZONE0 (R56, R469). -/
def wordsZone0 : List WordD := [
  ⟨0x0, 1, 0, 0x10002, 0x0, 0x0, 0x0, 0x0, 0x0, [], 0x0⟩,
  ⟨0x4, 1, 0, 0x0, 0x0, 0x0, 0x0, 0x0, 0x0, [], 0x0⟩,
  ⟨0x8, 1, 0, 0x0, 0x0, 0x0, 0x0, 0x0, 0x0, [(0, 8), (8, 8), (16, 8), (24, 8)], 0x0⟩,
  ⟨0xc, 1, 0, 0x0, 0x0, 0x0, 0x0, 0x0, 0x0, [(0, 16)], 0x0⟩,
  ⟨0x10, 1, 0, 0x0, 0x0, 0x0, 0x0, 0x0, 0x0, [], 0x0⟩,
  ⟨0x14, 1, 0, 0x0, 0x0, 0x0, 0x0, 0x0, 0x0, [], 0x0⟩,
  ⟨0x40, 1, 0, 0xa20, 0x0, 0xfff30, 0x0, 0x0, 0x0, [], 0x0⟩,
  ⟨0x44, 1, 0, 0x0, 0x0, 0x0, 0x0, 0x0, 0x0, [], 0x0⟩,
  ⟨0x48, 1, 0, 0x0, 0x0, 0x0, 0x0, 0x0, 0x1, [], 0x1⟩,
  ⟨0x4c, 1, 0, 0x0, 0x0, 0x0, 0x0, 0x0, 0x0, [], 0x0⟩,
  ⟨0x50, 1, 0, 0x0, 0x0, 0x0, 0x0, 0x0, 0x0, [], 0x0⟩,
  ⟨0x54, 1, 0, 0x0, 0x0, 0x0, 0x0, 0xffffffff, 0x0, [], 0x0⟩,
  ⟨0x58, 1, 0, 0x0, 0x0, 0x0, 0x0, 0x1fff, 0x0, [], 0x0⟩,
  ⟨0x5c, 1, 0, 0x0, 0x0, 0x0, 0x0, 0x0, 0x0, [(0, 8), (8, 8), (16, 8), (24, 8)], 0x0⟩,
  ⟨0x60, 1, 0, 0x0, 0x0, 0x0, 0x0, 0x1f, 0x0, [], 0x0⟩,
  ⟨0x64, 1, 0, 0x0, 0x0, 0x0, 0x0, 0x0, 0x0, [(0, 16), (16, 16)], 0x0⟩,
  ⟨0x68, 1, 0, 0x0, 0x0, 0x0, 0x0, 0x0, 0x0, [(16, 8)], 0x0⟩,
  ⟨0x6c, 1, 0, 0x0, 0x0, 0x0, 0x0, 0xffff, 0x0, [], 0x0⟩,
  ⟨0x80, 16, 4, 0x180a4000, 0x0, 0xffffff07, 0x0, 0x0, 0x0, [], 0x0⟩,
  ⟨0xc0, 1, 0, 0x0, 0x0, 0xfff, 0x0, 0x0, 0x0, [], 0x0⟩,
  ⟨0xfc, 1, 0, 0x0, 0x0, 0x0, 0x0, 0x0, 0x1, [], 0x0⟩]

/-- Words of page kind ZONE7 (R57). -/
def wordsZone7 : List WordD := [
  ⟨0x0, 1, 0, 0x0, 0x3, 0x0, 0x0, 0x0, 0x0, [], 0x0⟩]

/-- Words of page kind INPUT (R88). -/
def wordsInput : List WordD := [
  ⟨0x0, 1, 0, 0xa00, 0x0, 0x1307ff00, 0x0, 0x0, 0x0, [], 0x0⟩,
  ⟨0x4, 1, 0, 0x2580190, 0x0, 0x1fff1fff, 0x0, 0x0, 0x0, [], 0x0⟩,
  ⟨0x8, 1, 0, 0x0, 0x0, 0x0, 0x0, 0x0, 0x0, [], 0x0⟩,
  ⟨0xc, 1, 0, 0x0, 0x0, 0x0, 0x0, 0x0, 0x0, [], 0x0⟩,
  ⟨0x10, 1, 0, 0x0, 0x0, 0x0, 0x0, 0x0, 0x0, [], 0x0⟩,
  ⟨0x14, 1, 0, 0x0, 0x0, 0x0, 0x0, 0x0, 0x0, [], 0x0⟩,
  ⟨0x18, 1, 0, 0x0, 0x0, 0x0, 0x0, 0x7, 0x0, [], 0x0⟩,
  ⟨0x1c, 1, 0, 0x0, 0x0, 0x0, 0x0, 0x0, 0x0, [(0, 16), (16, 16)], 0x0⟩,
  ⟨0xfc, 1, 0, 0x0, 0x0, 0x0, 0x0, 0x0, 0x1, [], 0x0⟩]

/-- Words of page kind ZONE3 (R98). -/
def wordsZone3 : List WordD := [
  ⟨0x0, 1, 0, 0x0, 0x0, 0x0, 0x0, 0x0, 0x0, [], 0x0⟩,
  ⟨0x4, 1, 0, 0x0, 0x0, 0x0, 0x0, 0x0, 0x0, [], 0x0⟩,
  ⟨0x8, 1, 0, 0x0, 0x0, 0x0, 0x0, 0x0, 0x0, [(16, 16)], 0x0⟩,
  ⟨0xc, 1, 0, 0x0, 0x0, 0x0, 0x0, 0xffff, 0x0, [], 0x0⟩,
  ⟨0x10, 1, 0, 0x0, 0x0, 0x0, 0x0, 0x0, 0x0, [(0, 16), (16, 16)], 0x0⟩]

/-- Words of page kind ZONE4 (R99). -/
def wordsZone4 : List WordD := [
  ⟨0x0, 1, 0, 0x0, 0x0, 0x0, 0x0, 0x0, 0x0, [], 0x0⟩,
  ⟨0x4, 1, 0, 0x0, 0x0, 0x0, 0x0, 0x0, 0x0, [], 0x0⟩,
  ⟨0x8, 1, 0, 0x0, 0x0, 0x0, 0x0, 0x0, 0x0, [], 0x0⟩,
  ⟨0xc, 1, 0, 0x0, 0x0, 0x0, 0x0, 0x0, 0x0, [], 0x0⟩,
  ⟨0x10, 1, 0, 0x0, 0x0, 0x0, 0x0, 0x0, 0x0, [], 0x0⟩,
  ⟨0x14, 1, 0, 0x730, 0x0, 0xffff, 0x0, 0x0, 0x0, [], 0x0⟩,
  ⟨0x18, 1, 0, 0x0, 0x0, 0x0, 0x0, 0x7, 0x0, [], 0x0⟩,
  ⟨0x1c, 1, 0, 0x0, 0x0, 0x0, 0x0, 0x0, 0x0, [], 0x0⟩]

/-- Words of page kind KEEPER (R236). -/
def wordsKeeper : List WordD := [
  ⟨0x0, 1, 0, 0x1, 0x0, 0x0, 0x0, 0x0, 0x0, [], 0x0⟩,
  ⟨0x4, 1, 0, 0x0, 0x0, 0x0, 0x0, 0x0, 0x0, [], 0x0⟩,
  ⟨0x8, 1, 0, 0x0, 0x0, 0x0, 0x0, 0x0, 0x0, [], 0x0⟩,
  ⟨0xc, 1, 0, 0x0, 0x0, 0x0, 0x0, 0x0, 0x0, [], 0x0⟩,
  ⟨0x10, 1, 0, 0x0, 0x0, 0x0, 0x0, 0x0, 0x0, [], 0x0⟩,
  ⟨0x14, 1, 0, 0x0, 0x0, 0x0, 0x0, 0x0, 0x0, [], 0x0⟩,
  ⟨0x18, 1, 0, 0x0, 0x0, 0x0, 0x0, 0x0, 0x0, [], 0x0⟩,
  ⟨0x1c, 1, 0, 0x6002710, 0x0, 0x70fffff, 0x0, 0x0, 0x0, [], 0x0⟩,
  ⟨0x20, 1, 0, 0x0, 0x0, 0x0, 0x0, 0x0, 0x0, [], 0x0⟩,
  ⟨0x24, 1, 0, 0x0, 0x0, 0x0, 0x0, 0x0, 0x0, [(0, 32)], 0x0⟩,
  ⟨0x28, 1, 0, 0x0, 0x0, 0x0, 0x0, 0x0, 0x0, [], 0x0⟩,
  ⟨0x2c, 1, 0, 0x0, 0x0, 0x0, 0x0, 0x0, 0x0, [(0, 16)], 0x0⟩,
  ⟨0x30, 1, 0, 0x0, 0x0, 0x0, 0x0, 0x0, 0x0, [(0, 16), (16, 16)], 0x0⟩,
  ⟨0x34, 1, 0, 0x0, 0x0, 0x0, 0x0, 0x0, 0x0, [(0, 16), (16, 16)], 0x0⟩,
  ⟨0x38, 1, 0, 0x0, 0x0, 0x0, 0x0, 0x0, 0x0, [(0, 16), (16, 8), (24, 8)], 0x0⟩,
  ⟨0x3c, 1, 0, 0x0, 0x0, 0x0, 0x0, 0x0, 0x0, [(0, 8), (8, 8), (16, 8), (24, 8)], 0x0⟩,
  ⟨0x40, 1, 0, 0x0, 0x0, 0x0, 0x0, 0x0, 0x0, [(0, 16), (16, 16)], 0x0⟩,
  ⟨0x44, 1, 0, 0x0, 0x0, 0x0, 0x0, 0x0, 0x0, [(0, 16)], 0x0⟩,
  ⟨0x48, 1, 0, 0x0, 0x0, 0x0, 0x0, 0x0, 0x0, [], 0x0⟩,
  ⟨0x4c, 1, 0, 0x0, 0x0, 0x0, 0x0, 0x0, 0x0, [], 0x0⟩,
  ⟨0x80, 1, 0, 0x11000, 0x0, 0x1ffff, 0x0, 0x0, 0x0, [], 0x0⟩,
  ⟨0x84, 1, 0, 0x0, 0x0, 0x0, 0x0, 0x0, 0x0, [(16, 16)], 0x0⟩,
  ⟨0x88, 1, 0, 0x0, 0x0, 0x0, 0x0, 0x0, 0x0, [(16, 16)], 0x0⟩,
  ⟨0x8c, 1, 0, 0x0, 0x0, 0x0, 0x0, 0x0, 0x0, [], 0x0⟩,
  ⟨0x90, 1, 0, 0x0, 0x0, 0x0, 0x0, 0x0, 0x0, [], 0x0⟩,
  ⟨0xfc, 1, 0, 0x0, 0x0, 0x0, 0x0, 0x0, 0x1, [], 0x0⟩]

/-- Words of page kind LOAD (R274). -/
def wordsLoad : List WordD := [
  ⟨0x0, 1, 0, 0x0, 0x0, 0x0, 0xff0f07, 0x0, 0x0, [], 0x0⟩,
  ⟨0x4, 1, 0, 0x700000, 0x0, 0x0, 0x0, 0x0, 0x0, [], 0x0⟩,
  ⟨0x8, 1, 0, 0x0, 0x0, 0x0, 0x0, 0x7fff, 0x0, [], 0x0⟩,
  ⟨0xc, 1, 0, 0x0, 0x0, 0x0, 0x0, 0x0, 0x0, [], 0x0⟩,
  ⟨0x10, 1, 0, 0x0, 0x0, 0x0, 0x0, 0x0, 0x0, [], 0x0⟩,
  ⟨0x14, 1, 0, 0x0, 0x0, 0x0, 0x0, 0x0, 0x0, [], 0x0⟩,
  ⟨0x18, 1, 0, 0x0, 0x0, 0x0, 0x0, 0x0, 0x0, [], 0x0⟩,
  ⟨0x1c, 1, 0, 0x0, 0x0, 0x0, 0x0, 0x0, 0x0, [], 0x0⟩,
  ⟨0x20, 1, 0, 0x100010a, 0x0, 0x3b30ffff, 0x0, 0x0, 0x0, [], 0x0⟩,
  ⟨0x24, 1, 0, 0x70414, 0x0, 0xf1f3f, 0x0, 0x0, 0x0, [], 0x0⟩,
  ⟨0x28, 1, 0, 0x0, 0x0, 0xffff, 0x0, 0x0, 0x0, [], 0x0⟩,
  ⟨0x2c, 1, 0, 0x0, 0x0, 0xffffff, 0x0, 0x0, 0x0, [], 0x0⟩,
  ⟨0x30, 1, 0, 0x104, 0x0, 0x8000ff1f, 0x0, 0x0, 0x0, [], 0x0⟩,
  ⟨0x34, 1, 0, 0x0, 0x0, 0x0, 0xffffffff, 0x0, 0x0, [], 0xffffffff⟩,
  ⟨0x38, 1, 0, 0xff0000, 0x0, 0x0, 0x0, 0x0, 0x0, [], 0x0⟩,
  ⟨0x3c, 1, 0, 0x0, 0x0, 0x0, 0x0, 0x0, 0x0, [(0, 8), (8, 8), (16, 8), (24, 8)], 0x0⟩,
  ⟨0x40, 1, 0, 0x0, 0x0, 0x0, 0x0, 0x0, 0x0, [(0, 16), (16, 16)], 0x0⟩,
  ⟨0xfc, 1, 0, 0x0, 0x0, 0x0, 0x0, 0x0, 0x1, [], 0x0⟩]

/-- Words of page kind CHAR (R292). -/
def wordsChar : List WordD := [
  ⟨0x0, 1, 0, 0x0, 0x0, 0x0, 0x3, 0x0, 0x0, [], 0x0⟩,
  ⟨0x4, 1, 0, 0x186a0, 0x0, 0x0, 0x1fffff, 0x0, 0x0, [], 0x0⟩,
  ⟨0x8, 1, 0, 0x0, 0x0, 0x0, 0xffffffff, 0x0, 0x0, [], 0x0⟩,
  ⟨0xc, 1, 0, 0x1, 0x0, 0x0, 0xffffffff, 0x0, 0x0, [], 0x0⟩,
  ⟨0x10, 1, 0, 0x1014d, 0x0, 0x0, 0x1f0fff, 0x0, 0x0, [], 0x0⟩,
  ⟨0x14, 1, 0, 0x0, 0x0, 0x0, 0x1, 0x0, 0x0, [], 0x0⟩,
  ⟨0x18, 1, 0, 0x0, 0x0, 0x0, 0x0, 0x0, 0x0, [], 0x0⟩,
  ⟨0x1c, 1, 0, 0x700186a0, 0x0, 0x0, 0x0, 0x0, 0x0, [], 0x0⟩,
  ⟨0x20, 1, 0, 0x0, 0x0, 0x0, 0x0, 0x7, 0x0, [], 0x0⟩,
  ⟨0x24, 1, 0, 0x0, 0x0, 0x0, 0x0, 0x0, 0x0, [(0, 8), (8, 8), (16, 16)], 0x0⟩]

/-- Words of page kind CAL (R316). -/
def wordsCal : List WordD := [
  ⟨0x0, 1, 0, 0x0, 0x0, 0x0, 0x0, 0x0, 0x0, [], 0x0⟩,
  ⟨0x4, 1, 0, 0x10000, 0x0, 0x0, 0x0, 0x0, 0x0, [], 0x0⟩,
  ⟨0x8, 1, 0, 0x0, 0x0, 0x0, 0x0, 0x0, 0x0, [], 0x0⟩,
  ⟨0xc, 1, 0, 0x0, 0x0, 0x0, 0x0, 0x0, 0x0, [], 0x0⟩,
  ⟨0x10, 1, 0, 0x0, 0x0, 0x0, 0x0, 0x0, 0x0, [], 0x0⟩,
  ⟨0x14, 1, 0, 0x1, 0x0, 0x1, 0x0, 0x0, 0x2, [], 0x2⟩,
  ⟨0x18, 1, 0, 0x0, 0x0, 0x0, 0x0, 0xf, 0x0, [], 0x0⟩,
  ⟨0x1c, 1, 0, 0x0, 0x0, 0x0, 0x0, 0x0, 0x0, [(0, 8), (8, 8), (16, 8), (24, 8)], 0x0⟩,
  ⟨0xfc, 1, 0, 0x0, 0x0, 0x0, 0x0, 0x0, 0x1, [], 0x0⟩]

/-- Words of page kind SHUNT (R317). -/
def wordsShunt : List WordD := [
  ⟨0x0, 1, 0, 0x0, 0x0, 0x0, 0x0, 0x0, 0x0, [], 0x0⟩,
  ⟨0x4, 1, 0, 0x0, 0x0, 0x0, 0x0, 0x0, 0x0, [], 0x0⟩,
  ⟨0x8, 1, 0, 0x0, 0x0, 0x0, 0x0, 0x0, 0x0, [], 0x0⟩,
  ⟨0xc, 1, 0, 0x0, 0x0, 0x0, 0x0, 0x0, 0x0, [], 0x0⟩,
  ⟨0x10, 1, 0, 0x0, 0x0, 0x0, 0x0, 0x0, 0x0, [], 0x0⟩,
  ⟨0x14, 1, 0, 0x0, 0x0, 0x0, 0x0, 0x0, 0x0, [(0, 16), (16, 16)], 0x0⟩]

/-- Words of page kind BAL (R318). -/
def wordsBal : List WordD := [
  ⟨0x0, 1, 0, 0xc, 0x0, 0x0, 0x0, 0x0, 0x0, [], 0x0⟩,
  ⟨0x4, 1, 0, 0x0, 0x0, 0x0, 0x0, 0x0, 0x0, [], 0x0⟩,
  ⟨0x8, 1, 0, 0x0, 0x0, 0x0, 0x0, 0x0, 0x0, [], 0x0⟩,
  ⟨0xc, 1, 0, 0x0, 0x0, 0x0, 0x0, 0x0, 0x0, [(0, 16), (16, 16)], 0x0⟩,
  ⟨0x10, 1, 0, 0x0, 0x0, 0x0, 0x0, 0x3, 0x0, [], 0x0⟩,
  ⟨0x14, 1, 0, 0x0, 0x0, 0x0, 0x0, 0x0, 0x0, [(0, 16), (16, 16)], 0x0⟩]

/-- Words of page kind RING (R319). -/
def wordsRing : List WordD := [
  ⟨0x0, 1, 0, 0x10, 0x0, 0x7f0133, 0x0, 0x0, 0x80000000, [], 0x80000000⟩,
  ⟨0x4, 1, 0, 0x0, 0x0, 0x0, 0x0, 0x0, 0x0, [], 0x0⟩,
  ⟨0x8, 1, 0, 0x0, 0x0, 0x0, 0x0, 0x0, 0x0, [], 0x0⟩,
  ⟨0xc, 1, 0, 0x0, 0x0, 0x0, 0x0, 0x0, 0x0, [], 0x0⟩,
  ⟨0x10, 1, 0, 0x0, 0x0, 0xffffffff, 0x0, 0x0, 0x0, [], 0x0⟩,
  ⟨0x14, 1, 0, 0x0, 0x0, 0xffffffff, 0x0, 0x0, 0x0, [], 0x0⟩,
  ⟨0x18, 1, 0, 0x0, 0x0, 0x0, 0x0, 0x0, 0x0, [], 0x0⟩,
  ⟨0x1c, 1, 0, 0x0, 0x0, 0x0, 0x0, 0x0, 0x0, [], 0x0⟩,
  ⟨0x20, 1, 0, 0x0, 0x0, 0x0, 0x0, 0x3, 0x0, [], 0x0⟩,
  ⟨0xfc, 1, 0, 0x0, 0x0, 0x0, 0x0, 0x0, 0x1, [], 0x0⟩]

/-- Words of page kind SW0 (R370). -/
def wordsSw0 : List WordD := [
  ⟨0x0, 1, 0, 0x404, 0x0, 0x0, 0x0, 0x0, 0x0, [], 0x0⟩,
  ⟨0x4, 1, 0, 0x0, 0x0, 0x0, 0x1, 0x0, 0x0, [], 0x0⟩,
  ⟨0x8, 1, 0, 0x0, 0x0, 0x0, 0x0, 0x0, 0x0, [], 0x0⟩,
  ⟨0xc, 1, 0, 0x0, 0x0, 0x0, 0x0, 0x0, 0x0, [], 0x0⟩,
  ⟨0x10, 1, 0, 0x0, 0x0, 0x0, 0x0, 0x3, 0x0, [], 0x0⟩,
  ⟨0x14, 1, 0, 0x0, 0x0, 0x0, 0x0, 0x0, 0x0, [(0, 16), (16, 16)], 0x0⟩,
  ⟨0x18, 1, 0, 0x0, 0x0, 0x0, 0x0, 0x0, 0x0, [(0, 16)], 0x0⟩,
  ⟨0x1c, 1, 0, 0x0, 0x0, 0x0, 0x7, 0x0, 0x0, [], 0x0⟩,
  ⟨0xfc, 1, 0, 0x0, 0x0, 0x0, 0x0, 0x0, 0x1, [], 0x0⟩]

/-- Words of page kind SWP (R365, R371, R372). -/
def wordsSwp : List WordD := [
  ⟨0x0, 1, 0, 0x12000, 0x0, 0x0, 0x8fffff00, 0x0, 0x0, [], 0x0⟩,
  ⟨0x4, 1, 0, 0xfac688, 0x0, 0x0, 0xffffff, 0x0, 0x0, [], 0x0⟩,
  ⟨0x8, 1, 0, 0x5f2, 0x0, 0x0, 0x3fff, 0x0, 0x0, [], 0x0⟩,
  ⟨0xc, 1, 0, 0xc8, 0x0, 0x0, 0xffff, 0x0, 0x0, [], 0x0⟩,
  ⟨0x10, 1, 0, 0x10000, 0x0, 0x0, 0xc0ff0000, 0x0, 0x0, [], 0x80000000⟩,
  ⟨0x14, 1, 0, 0xf4240, 0x0, 0x0, 0x3fffffff, 0x0, 0x0, [], 0x0⟩,
  ⟨0x18, 1, 0, 0x0, 0x0, 0x0, 0x3fffffff, 0x0, 0x0, [], 0x0⟩,
  ⟨0x1c, 1, 0, 0xff, 0x0, 0x0, 0x0, 0x0, 0x0, [], 0x0⟩,
  ⟨0x20, 8, 4, 0xc000000, 0x0, 0x0, 0xfcfff000, 0x0, 0x0, [], 0x0⟩,
  ⟨0x40, 8, 4, 0x320, 0x0, 0x0, 0xffff, 0x0, 0x0, [], 0x0⟩,
  ⟨0x60, 1, 0, 0x0, 0x0, 0x0, 0x0, 0x7f, 0x0, [], 0x0⟩,
  ⟨0x64, 1, 0, 0x0, 0x0, 0x0, 0x0, 0x0, 0x0, [], 0x0⟩,
  ⟨0x68, 1, 0, 0x400, 0x0, 0x0, 0x1ffff, 0x0, 0x0, [], 0x0⟩,
  ⟨0x6c, 1, 0, 0x0, 0x0, 0x0, 0x0, 0x0, 0x0, [], 0x0⟩,
  ⟨0xf8, 1, 0, 0x0, 0x0, 0x0, 0xffffffff, 0x0, 0x0, [], 0xffffffff⟩,
  ⟨0xfc, 1, 0, 0x0, 0x0, 0x0, 0x0, 0x0, 0x1, [], 0x0⟩,
  ⟨0x100, 8, 16, 0x0, 0x0, 0x0, 0xffffff, 0x0, 0x0, [], 0x0⟩,
  ⟨0x104, 8, 16, 0x0, 0x0, 0x0, 0x0, 0x0, 0x0, [], 0x0⟩,
  ⟨0x180, 8, 32, 0x0, 0x0, 0x0, 0xf, 0x0, 0x0, [], 0x0⟩,
  ⟨0x184, 8, 32, 0x1ffff, 0x0, 0x0, 0x1ffff, 0x0, 0x0, [], 0x0⟩,
  ⟨0x188, 8, 32, 0x1ffff, 0x0, 0x0, 0xff81ffff, 0x0, 0x0, [], 0x0⟩,
  ⟨0x18c, 8, 32, 0x1ffff, 0x0, 0x0, 0x1ffff, 0x0, 0x0, [], 0x0⟩,
  ⟨0x190, 8, 32, 0x1ffff, 0x0, 0x0, 0xff81ffff, 0x0, 0x0, [], 0x0⟩,
  ⟨0x194, 8, 32, 0x1ffff, 0x0, 0x0, 0x1ffff, 0x0, 0x0, [], 0x0⟩,
  ⟨0x198, 8, 32, 0x1ffff, 0x0, 0x0, 0xff81ffff, 0x0, 0x0, [], 0x0⟩,
  ⟨0x300, 11, 8, 0x0, 0x0, 0x0, 0x0, 0x0, 0x0, [], 0x0⟩,
  ⟨0x304, 11, 8, 0x0, 0x0, 0x0, 0x0, 0x0, 0x0, [], 0x0⟩,
  ⟨0x400, 160, 4, 0x0, 0x0, 0x0, 0x0, 0x0, 0x0, [], 0x0⟩,
  ⟨0x700, 64, 4, 0x0, 0x0, 0x0, 0x0, 0x0, 0x0, [], 0x0⟩,
  ⟨0x800, 128, 8, 0x0, 0x0, 0x0, 0xff, 0x0, 0x0, [], 0x0⟩,
  ⟨0x804, 128, 8, 0x0, 0x0, 0x0, 0xffffffff, 0x0, 0x0, [], 0x0⟩,
  ⟨0xc00, 128, 8, 0x0, 0x0, 0x0, 0xff, 0x0, 0x0, [], 0x0⟩,
  ⟨0xc04, 128, 8, 0x0, 0x0, 0x0, 0xffffffff, 0x0, 0x0, [], 0x0⟩]

/-- Words of page kind PORT (R374). -/
def wordsPort : List WordD := [
  ⟨0x0, 1, 0, 0x208030, 0x0, 0xffff3f, 0x0, 0x0, 0x0, [], 0x0⟩,
  ⟨0x4, 1, 0, 0x0, 0x0, 0x0, 0x0, 0x0, 0x0, [], 0x0⟩,
  ⟨0x8, 1, 0, 0x0, 0x0, 0x0, 0x0, 0x1f, 0x0, [], 0x0⟩,
  ⟨0xc, 1, 0, 0x0, 0x0, 0x0, 0x0, 0x0, 0x0, [(0, 16), (16, 16)], 0x0⟩,
  ⟨0x10, 1, 0, 0x3, 0x0, 0x7, 0x0, 0x0, 0x0, [], 0x0⟩,
  ⟨0x14, 1, 0, 0xe8, 0x0, 0xff, 0x0, 0x0, 0x0, [], 0x0⟩,
  ⟨0x18, 1, 0, 0x0, 0x0, 0xffffffff, 0x0, 0x0, 0x0, [], 0x0⟩,
  ⟨0xfc, 1, 0, 0x0, 0x0, 0x0, 0x0, 0x0, 0x1, [], 0x0⟩,
  ⟨0x100, 192, 4, 0x0, 0x0, 0x0, 0x0, 0x0, 0x0, [], 0x0⟩]

/-- Words of page kind TIME0 (R407). -/
def wordsTime0 : List WordD := [
  ⟨0x0, 1, 0, 0x30, 0x0, 0x0, 0x0, 0x0, 0x0, [], 0x0⟩,
  ⟨0x4, 1, 0, 0x640300, 0x0, 0xff0f07, 0x0, 0x0, 0x0, [], 0x0⟩,
  ⟨0x8, 1, 0, 0x3e8, 0x0, 0x3fffffff, 0x0, 0x0, 0x0, [], 0x0⟩,
  ⟨0xc, 1, 0, 0x3e8, 0x0, 0x3fffffff, 0x0, 0x0, 0x0, [], 0x0⟩,
  ⟨0x10, 1, 0, 0x0, 0x0, 0x0, 0x0, 0x0, 0x0, [], 0x0⟩,
  ⟨0x14, 1, 0, 0x0, 0x0, 0x0, 0x0, 0x0, 0x0, [], 0x0⟩,
  ⟨0x18, 1, 0, 0x0, 0x0, 0x0, 0x0, 0x0, 0x0, [], 0x0⟩,
  ⟨0x1c, 1, 0, 0x4, 0x0, 0x0, 0x0, 0x0, 0x0, [], 0x0⟩,
  ⟨0x20, 1, 0, 0x0, 0x0, 0x0, 0x0, 0x0, 0x0, [], 0x0⟩,
  ⟨0x24, 1, 0, 0x0, 0x0, 0x0, 0x0, 0x0, 0x0, [], 0x0⟩,
  ⟨0x28, 1, 0, 0x0, 0x0, 0x0, 0x0, 0x0, 0x1, [], 0x1⟩,
  ⟨0x2c, 1, 0, 0x0, 0x0, 0x0, 0x0, 0x0, 0x0, [], 0x0⟩,
  ⟨0x30, 1, 0, 0x0, 0x0, 0x0, 0x0, 0x0, 0x0, [], 0x0⟩,
  ⟨0x34, 1, 0, 0x0, 0x0, 0x0, 0x0, 0x0, 0x0, [], 0x0⟩,
  ⟨0x38, 1, 0, 0x0, 0x0, 0x0, 0x0, 0x0, 0x0, [], 0x0⟩,
  ⟨0x3c, 1, 0, 0x640000, 0x0, 0xffffffff, 0x0, 0x0, 0x0, [], 0x0⟩,
  ⟨0x40, 1, 0, 0x0, 0xffffffff, 0x0, 0x0, 0x0, 0x0, [], 0x0⟩,
  ⟨0x44, 1, 0, 0x0, 0xffff, 0x0, 0x0, 0x0, 0x0, [], 0x0⟩,
  ⟨0x48, 1, 0, 0x18000007, 0x0, 0xf8ff000f, 0x0, 0x0, 0x0, [], 0x0⟩,
  ⟨0x4c, 1, 0, 0x0, 0x0, 0xffffff, 0x0, 0x0, 0x0, [], 0x0⟩,
  ⟨0x50, 1, 0, 0x18000007, 0x0, 0xf8ff000f, 0x0, 0x0, 0x0, [], 0x0⟩,
  ⟨0x54, 1, 0, 0x0, 0x0, 0xffffff, 0x0, 0x0, 0x0, [], 0x0⟩,
  ⟨0x58, 1, 0, 0x0, 0x0, 0x0, 0x0, 0x0, 0x0, [], 0x0⟩,
  ⟨0x60, 1, 0, 0x0, 0x0, 0x0, 0x0, 0x0, 0x0, [], 0x0⟩,
  ⟨0x64, 1, 0, 0x0, 0x0, 0x0, 0x0, 0x0, 0x0, [], 0x0⟩,
  ⟨0x68, 1, 0, 0x0, 0x0, 0x0, 0x0, 0x0, 0x0, [], 0x0⟩,
  ⟨0x6c, 1, 0, 0x0, 0x0, 0x0, 0x0, 0x0, 0x0, [], 0x0⟩,
  ⟨0x70, 1, 0, 0x0, 0x0, 0x0, 0x0, 0x1ff, 0x0, [], 0x0⟩,
  ⟨0x74, 1, 0, 0x0, 0x0, 0x0, 0x0, 0x0, 0x0, [(0, 8), (8, 8), (16, 8), (24, 8)], 0x0⟩,
  ⟨0x78, 1, 0, 0x0, 0x0, 0x0, 0x0, 0x0, 0x0, [(0, 16), (16, 16)], 0x0⟩,
  ⟨0xfc, 1, 0, 0x0, 0x0, 0x0, 0x0, 0x0, 0x1, [], 0x0⟩]

/-- Words of page kind TIME1 (R408). -/
def wordsTime1 : List WordD := [
  ⟨0x0, 1, 0, 0x0, 0x0, 0x0, 0x0, 0x0, 0x0, [], 0x0⟩,
  ⟨0x4, 1, 0, 0x0, 0x0, 0x0, 0x0, 0x0, 0x0, [], 0x0⟩,
  ⟨0x8, 1, 0, 0x0, 0x0, 0x3ffff, 0x0, 0x0, 0x0, [], 0x0⟩,
  ⟨0xc, 1, 0, 0x0, 0x0, 0xffffffff, 0x0, 0x0, 0x0, [], 0x0⟩,
  ⟨0x10, 1, 0, 0x0, 0x0, 0x0, 0x0, 0x0, 0x0, [], 0x0⟩,
  ⟨0x14, 1, 0, 0x0, 0x0, 0x0, 0x0, 0xffff, 0x0, [], 0x0⟩,
  ⟨0x18, 1, 0, 0x0, 0x0, 0x0, 0x0, 0x0, 0x0, [(0, 8), (8, 8), (16, 8), (24, 8)], 0x0⟩,
  ⟨0xfc, 1, 0, 0x0, 0x0, 0x0, 0x0, 0x0, 0x1, [], 0x0⟩,
  ⟨0x100, 128, 4, 0x0, 0x0, 0x0, 0x0, 0x0, 0x0, [], 0x0⟩]

/-- Words of page kind TSQ (R409). -/
def wordsTsq : List WordD := [
  ⟨0x0, 1, 0, 0x0, 0x0, 0x0, 0x0, 0x0, 0x0, [], 0x0⟩,
  ⟨0x4, 1, 0, 0x0, 0x0, 0x0, 0x0, 0x0, 0x0, [], 0x0⟩,
  ⟨0x8, 1, 0, 0x0, 0x0, 0x0, 0x0, 0x0, 0x0, [], 0x0⟩,
  ⟨0xc, 1, 0, 0x0, 0x0, 0x0, 0x0, 0x0, 0x0, [], 0x0⟩,
  ⟨0x10, 1, 0, 0x0, 0x0, 0x0, 0x0, 0x0, 0x0, [], 0x0⟩,
  ⟨0x14, 1, 0, 0x0, 0x0, 0x0, 0x0, 0x0, 0x1, [], 0x1⟩,
  ⟨0x18, 1, 0, 0x0, 0x0, 0x0, 0x0, 0x1, 0x0, [], 0x0⟩,
  ⟨0x1c, 1, 0, 0x0, 0x0, 0x0, 0x0, 0x0, 0x0, [(0, 16), (16, 16)], 0x0⟩]

/-- Words of page kind CAN (R443, R444). -/
def wordsCan : List WordD := [
  ⟨0x0, 1, 0, 0x801f4, 0x0, 0x0, 0xf8ffffff, 0x0, 0x0, [], 0x0⟩,
  ⟨0x4, 1, 0, 0x264e2604, 0x0, 0x0, 0xffffffff, 0x0, 0x0, [], 0x0⟩,
  ⟨0x8, 1, 0, 0x49210064, 0x0, 0x0, 0xffffc0ff, 0x0, 0x0, [], 0x0⟩,
  ⟨0xc, 1, 0, 0x49200014, 0x0, 0x0, 0xffffc0ff, 0x0, 0x0, [], 0x0⟩,
  ⟨0x10, 1, 0, 0x0, 0x0, 0x0, 0x0, 0x0, 0x0, [], 0x0⟩,
  ⟨0x14, 1, 0, 0x0, 0x0, 0x0, 0x0, 0x1ff, 0x0, [], 0x0⟩,
  ⟨0x18, 1, 0, 0x0, 0x0, 0x0, 0xffffffff, 0x0, 0x0, [], 0xffffffff⟩,
  ⟨0x1c, 1, 0, 0x0, 0x0, 0x0, 0xffffffff, 0x0, 0x0, [], 0xffffffff⟩,
  ⟨0x20, 1, 0, 0x0, 0x0, 0x0, 0x0, 0x0, 0x0, [], 0x0⟩,
  ⟨0x24, 1, 0, 0x0, 0x1ff, 0x0, 0x0, 0x0, 0x0, [], 0x0⟩,
  ⟨0x28, 1, 0, 0x0, 0x0, 0x0, 0x0, 0x0, 0x0, [], 0x0⟩,
  ⟨0x2c, 1, 0, 0x0, 0x0, 0x0, 0x0, 0x0, 0x0, [], 0x0⟩,
  ⟨0x30, 1, 0, 0x0, 0x0, 0x0, 0x0, 0x0, 0x0, [], 0x0⟩,
  ⟨0x34, 1, 0, 0x0, 0x0, 0x0, 0x0, 0x0, 0x0, [], 0x0⟩,
  ⟨0x38, 1, 0, 0x0, 0x0, 0x0, 0x0, 0x0, 0x0, [], 0x0⟩,
  ⟨0x3c, 1, 0, 0x64, 0x0, 0xffff, 0x0, 0x0, 0x0, [], 0x0⟩,
  ⟨0x40, 1, 0, 0x0, 0x0, 0x0, 0x0, 0x0, 0x0, [(0, 8), (8, 8), (16, 16)], 0x0⟩,
  ⟨0x44, 1, 0, 0x0, 0x0, 0x0, 0x0, 0x0, 0x0, [(0, 32)], 0x0⟩,
  ⟨0x48, 1, 0, 0x0, 0x0, 0x0, 0x0, 0x0, 0x0, [(0, 16), (16, 16)], 0x0⟩,
  ⟨0x4c, 1, 0, 0x0, 0x0, 0x0, 0x0, 0x0, 0x0, [(0, 8), (8, 8), (16, 8), (24, 8)], 0x0⟩,
  ⟨0x50, 1, 0, 0x0, 0x0, 0x0, 0x0, 0x0, 0x0, [], 0x0⟩,
  ⟨0x54, 1, 0, 0x0, 0x0, 0x0, 0x0, 0x0, 0x0, [], 0x0⟩,
  ⟨0x58, 1, 0, 0x0, 0x0, 0x0, 0x0, 0x0, 0x0, [], 0x0⟩,
  ⟨0x5c, 1, 0, 0x0, 0x0, 0x0, 0xffffffff, 0x0, 0x0, [], 0x0⟩,
  ⟨0x60, 1, 0, 0x3e8, 0x0, 0x0, 0xfffff, 0x0, 0x0, [], 0x0⟩,
  ⟨0x64, 1, 0, 0x0, 0x0, 0x0, 0xfffff, 0x0, 0x0, [], 0x0⟩,
  ⟨0x68, 1, 0, 0x140003e8, 0x0, 0x0, 0xff0703ff, 0x0, 0x0, [], 0x0⟩,
  ⟨0x6c, 1, 0, 0x0, 0x0, 0x0, 0x0, 0x0, 0x0, [(0, 16), (16, 16)], 0x0⟩,
  ⟨0x70, 1, 0, 0x10000000, 0x0, 0xfc0f0000, 0x0, 0x0, 0x0, [], 0x0⟩,
  ⟨0x74, 1, 0, 0x0, 0x0, 0x1fffffff, 0x0, 0x0, 0x0, [], 0x0⟩,
  ⟨0x78, 1, 0, 0x0, 0x0, 0x1fffffff, 0x0, 0x0, 0x0, [], 0x0⟩,
  ⟨0x7c, 1, 0, 0x0, 0x0, 0xffffffff, 0x0, 0x0, 0x0, [], 0x0⟩,
  ⟨0x80, 1, 0, 0x0, 0x0, 0xffffffff, 0x0, 0x0, 0x0, [], 0x0⟩,
  ⟨0x84, 1, 0, 0x0, 0x0, 0x0, 0x0, 0x0, 0x0, [], 0x0⟩,
  ⟨0xfc, 1, 0, 0x0, 0x0, 0x0, 0x0, 0x0, 0x1, [], 0x0⟩,
  ⟨0x100, 24, 4, 0x0, 0x0, 0x0, 0xffffffff, 0x0, 0x0, [], 0x0⟩,
  ⟨0x200, 64, 4, 0x0, 0x0, 0x0, 0xffffffff, 0x0, 0x0, [], 0x0⟩,
  ⟨0x400, 24, 4, 0x0, 0x0, 0x0, 0x0, 0x0, 0x0, [], 0x0⟩]

/-- Words of page kind LIN (R435, R445). -/
def wordsLin : List WordD := [
  ⟨0x0, 1, 0, 0x3432dd, 0x0, 0x0, 0xc3ffffff, 0x0, 0x0, [], 0x0⟩,
  ⟨0x4, 1, 0, 0x0, 0x0, 0x0, 0x0, 0x0, 0x0, [], 0x0⟩,
  ⟨0x8, 1, 0, 0x0, 0x0, 0x0, 0x0, 0xf, 0x0, [], 0x0⟩,
  ⟨0xc, 1, 0, 0x0, 0x0, 0x0, 0xffffffff, 0x0, 0x0, [], 0xffffffff⟩,
  ⟨0x10, 1, 0, 0x0, 0x0, 0x0, 0x0, 0x0, 0x0, [], 0x0⟩,
  ⟨0x14, 1, 0, 0x0, 0x7f, 0x0, 0x0, 0x0, 0x0, [], 0x0⟩,
  ⟨0x18, 1, 0, 0x0, 0x0, 0x0, 0x0, 0x0, 0x0, [], 0x0⟩,
  ⟨0x1c, 1, 0, 0x0, 0x0, 0x0, 0x0, 0x0, 0x0, [], 0x0⟩,
  ⟨0x20, 1, 0, 0x0, 0x0, 0x0, 0x0, 0x0, 0x0, [], 0x0⟩,
  ⟨0x24, 1, 0, 0x0, 0x0, 0x0, 0x0, 0x0, 0x0, [], 0x0⟩,
  ⟨0x28, 1, 0, 0x0, 0x0, 0x0, 0x0, 0x0, 0x0, [], 0x0⟩,
  ⟨0x2c, 1, 0, 0x0, 0x0, 0x0, 0x0, 0x0, 0x0, [], 0x0⟩,
  ⟨0x30, 1, 0, 0x64, 0x0, 0xffff, 0x0, 0x0, 0x0, [], 0x0⟩,
  ⟨0x34, 1, 0, 0x0, 0x0, 0x0, 0x0, 0x0, 0x0, [(0, 8), (8, 8), (16, 16)], 0x0⟩,
  ⟨0xfc, 1, 0, 0x0, 0x0, 0x0, 0x0, 0x0, 0x1, [], 0x0⟩,
  ⟨0x100, 128, 4, 0x0, 0x0, 0x0, 0xffffffff, 0x0, 0x0, [], 0x0⟩,
  ⟨0x300, 64, 4, 0x8, 0x0, 0x0, 0xdf, 0x0, 0x0, [], 0x0⟩]

/-- Words of page kind SER (R446). -/
def wordsSer : List WordD := [
  ⟨0x0, 1, 0, 0x87a, 0x0, 0x0, 0xf8ffffff, 0x0, 0x0, [], 0x0⟩,
  ⟨0x4, 1, 0, 0x1010b07, 0x0, 0x0, 0xffffffff, 0x0, 0x0, [], 0x0⟩,
  ⟨0x8, 1, 0, 0x40000000, 0x0, 0x0, 0x0, 0x0, 0x0, [], 0x0⟩,
  ⟨0xc, 1, 0, 0x0, 0x0, 0x0, 0x0, 0x7, 0x0, [], 0x0⟩,
  ⟨0x10, 1, 0, 0x0, 0x0, 0x0, 0xffffffff, 0x0, 0x0, [], 0xffffffff⟩,
  ⟨0x14, 1, 0, 0x0, 0x7f, 0x0, 0x0, 0x0, 0x0, [], 0x0⟩,
  ⟨0x18, 1, 0, 0x0, 0x0, 0x0, 0x0, 0x0, 0x0, [], 0x0⟩,
  ⟨0x1c, 1, 0, 0x0, 0x0, 0x0, 0x0, 0x0, 0x0, [], 0x0⟩,
  ⟨0x20, 1, 0, 0x0, 0x0, 0x0, 0x0, 0x0, 0x0, [], 0x0⟩,
  ⟨0x24, 1, 0, 0x0, 0x0, 0x0, 0x0, 0x0, 0x0, [], 0x0⟩,
  ⟨0x28, 1, 0, 0x1f4, 0x0, 0x0, 0xffff, 0x0, 0x0, [], 0x0⟩,
  ⟨0x30, 1, 0, 0x64, 0x0, 0xffff, 0x0, 0x0, 0x0, [], 0x0⟩,
  ⟨0x34, 1, 0, 0x0, 0x0, 0x0, 0x0, 0x0, 0x0, [(0, 8), (8, 8), (16, 8), (24, 8)], 0x0⟩,
  ⟨0xfc, 1, 0, 0x0, 0x0, 0x0, 0x0, 0x0, 0x1, [], 0x0⟩,
  ⟨0x400, 68, 4, 0x0, 0x0, 0x0, 0x0, 0x0, 0x0, [], 0x0⟩]

/-- Words of page kind TU (R529). -/
def wordsTu : List WordD := [
  ⟨0x0, 1, 0, 0x0, 0x0, 0x1, 0x0, 0x0, 0x0, [], 0x0⟩,
  ⟨0x4, 1, 0, 0x0, 0x0, 0xfffe0000, 0x0, 0x0, 0x0, [], 0x0⟩,
  ⟨0x8, 1, 0, 0x0, 0x0, 0xff, 0x0, 0x0, 0x0, [], 0x0⟩,
  ⟨0xc, 1, 0, 0x0, 0xc0001fff, 0x0, 0x0, 0x0, 0x0, [], 0xc0001fff⟩,
  ⟨0x10, 1, 0, 0x0, 0xfffff000, 0x0, 0x0, 0x0, 0x0, [], 0x0⟩,
  ⟨0x14, 1, 0, 0x0, 0x7f, 0x0, 0x0, 0x0, 0x0, [], 0x0⟩,
  ⟨0x18, 1, 0, 0x0, 0x0, 0x0, 0x0, 0x0, 0x0, [], 0x0⟩,
  ⟨0x1c, 1, 0, 0x0, 0x0, 0x0, 0x0, 0x0, 0x0, [(0, 8), (8, 8), (16, 16)], 0x0⟩,
  ⟨0x20, 1, 0, 0x0, 0x0, 0x0, 0x0, 0x0, 0x0, [(0, 32)], 0x0⟩,
  ⟨0x24, 1, 0, 0x0, 0x0, 0x0, 0x0, 0x0, 0x1, [], 0x1⟩,
  ⟨0x28, 1, 0, 0x0, 0x0, 0x0, 0x0, 0x0, 0x0, [], 0x0⟩,
  ⟨0x2c, 1, 0, 0x0, 0x0, 0x0, 0x0, 0x0, 0x0, [], 0x0⟩,
  ⟨0x30, 1, 0, 0x0, 0x0, 0x0, 0x0, 0x0, 0x0, [], 0x0⟩,
  ⟨0x40, 1, 0, 0x200, 0x0, 0x701, 0x0, 0x0, 0x0, [], 0x0⟩,
  ⟨0x44, 1, 0, 0x0, 0x0, 0x0, 0x0, 0x0, 0x0, [(0, 32)], 0x0⟩,
  ⟨0x50, 1, 0, 0x64, 0x0, 0x3fff, 0x0, 0x0, 0x0, [], 0x0⟩,
  ⟨0x54, 1, 0, 0x0, 0x0, 0x0, 0x0, 0x0, 0x1, [], 0x1⟩,
  ⟨0x58, 1, 0, 0x0, 0x0, 0x0, 0x0, 0x0, 0x0, [], 0x0⟩,
  ⟨0x5c, 1, 0, 0x0, 0x0, 0x0, 0x0, 0x0, 0x1, [], 0x1⟩,
  ⟨0x60, 1, 0, 0x0, 0x0, 0x0, 0x0, 0x0, 0x0, [(0, 16), (16, 16)], 0x0⟩,
  ⟨0xfc, 1, 0, 0x0, 0x0, 0x0, 0x0, 0x0, 0x1, [], 0x0⟩,
  ⟨0x100, 64, 4, 0x0, 0x0, 0xfff0fff, 0x0, 0x0, 0x0, [], 0x0⟩]

/-- Words of page kind REGN (R530). -/
def wordsRegn : List WordD := [
  ⟨0x0, 1, 0, 0x0, 0x0, 0x0, 0x0, 0x40, 0x0, [], 0x0⟩,
  ⟨0x4, 1, 0, 0x0, 0x0, 0x0, 0x0, 0x0, 0x0, [(0, 32)], 0x0⟩,
  ⟨0x8, 1, 0, 0x0, 0x0, 0x0, 0x0, 0x0, 0x0, [], 0x0⟩,
  ⟨0xc, 1, 0, 0x0, 0x0, 0x0, 0x0, 0x0, 0x0, [], 0x0⟩,
  ⟨0x10, 1, 0, 0x0, 0x0, 0x0, 0x0, 0x0, 0x0, [], 0x0⟩,
  ⟨0xfc, 1, 0, 0x0, 0x0, 0x0, 0x0, 0x0, 0x1, [], 0x0⟩,
  ⟨0x100, 32, 16, 0x0, 0x0, 0xfffffff, 0x0, 0x0, 0x0, [], 0x0⟩,
  ⟨0x104, 32, 16, 0x0, 0x0, 0xfffffff, 0x0, 0x0, 0x0, [], 0x0⟩,
  ⟨0x108, 32, 16, 0x0, 0x0, 0x803f000f, 0x0, 0x0, 0x0, [], 0x0⟩]

/-- Words of page kind GRANT (R531). -/
def wordsGrant : List WordD := [
  ⟨0x0, 4, 4, 0x0, 0xffffffff, 0x0, 0x0, 0x0, 0x0, [], 0x0⟩,
  ⟨0x10, 1, 0, 0x0, 0x0, 0x0, 0x0, 0x0, 0x1, [], 0x1⟩,
  ⟨0x14, 1, 0, 0x0, 0x0, 0x0, 0x0, 0x0, 0x0, [], 0x0⟩,
  ⟨0x18, 1, 0, 0x0, 0x0, 0x0, 0x0, 0x0, 0x0, [(0, 8), (8, 8), (16, 16)], 0x0⟩]

/-- Words of page kind QPR (R532). -/
def wordsQpr : List WordD := [
  ⟨0x0, 128, 32, 0x0, 0x0, 0x0, 0x0, 0x0, 0x0, [], 0x0⟩,
  ⟨0x4, 128, 32, 0x0, 0x0, 0x0, 0x0, 0x0, 0x0, [], 0x0⟩,
  ⟨0x8, 128, 32, 0x0, 0x0, 0x0, 0x0, 0x0, 0x0, [], 0x0⟩,
  ⟨0xc, 128, 32, 0x0, 0xfffff000, 0x0, 0x0, 0x0, 0x0, [], 0x0⟩,
  ⟨0x10, 128, 32, 0x0, 0x7f, 0x0, 0x0, 0x0, 0x0, [], 0x0⟩,
  ⟨0x14, 128, 32, 0x0, 0xfffff000, 0x0, 0x0, 0x0, 0x0, [], 0x0⟩,
  ⟨0x18, 128, 32, 0x0, 0x7f, 0x0, 0x0, 0x0, 0x0, [], 0x0⟩,
  ⟨0x1c, 128, 32, 0x0, 0x80ff0000, 0x0, 0x0, 0x0, 0x0, [(0, 16)], 0x0⟩]

/-- Words of page kind HINGE (R560). -/
def wordsHinge : List WordD := [
  ⟨0x0, 1, 0, 0x0, 0x0, 0x0, 0x0, 0x0, 0x0, [], 0x0⟩,
  ⟨0x4, 1, 0, 0x0, 0x0, 0xffff, 0x0, 0x0, 0x0, [], 0x0⟩,
  ⟨0x8, 1, 0, 0x210, 0x0, 0xff33, 0x0, 0x0, 0x0, [], 0x0⟩,
  ⟨0xc, 1, 0, 0x0, 0x0, 0x0, 0x0, 0x0, 0x0, [], 0x0⟩,
  ⟨0x10, 1, 0, 0x0, 0x0, 0x0, 0x0, 0x0, 0x0, [], 0x0⟩,
  ⟨0x14, 1, 0, 0x0, 0x0, 0x0, 0x0, 0x0, 0x0, [], 0x0⟩,
  ⟨0x18, 1, 0, 0x0, 0x0, 0x0, 0x0, 0x0, 0x1, [], 0x1⟩,
  ⟨0x1c, 1, 0, 0x0, 0x0, 0x0, 0x0, 0x0, 0x0, [], 0x0⟩,
  ⟨0x20, 1, 0, 0x0, 0x0, 0x0, 0x0, 0x0, 0x0, [], 0x0⟩,
  ⟨0x24, 1, 0, 0x0, 0x0, 0x0, 0x0, 0x0, 0x0, [], 0x0⟩,
  ⟨0x28, 1, 0, 0x0, 0x0, 0x0, 0x0, 0x0, 0x1, [], 0x1⟩,
  ⟨0x2c, 1, 0, 0x0, 0x0, 0x0, 0x0, 0x0, 0x0, [(0, 16), (16, 16)], 0x0⟩,
  ⟨0x30, 1, 0, 0x0, 0x0, 0x0, 0x0, 0x0, 0x0, [(0, 8), (8, 8), (16, 16)], 0x0⟩,
  ⟨0x34, 1, 0, 0x0, 0x0, 0x0, 0x0, 0x0, 0x0, [(0, 32)], 0x0⟩,
  ⟨0x38, 1, 0, 0x0, 0x0, 0x0, 0x0, 0x0, 0x0, [(0, 32)], 0x0⟩,
  ⟨0x3c, 1, 0, 0x0, 0x0, 0x0, 0x0, 0x0, 0x0, [(0, 32)], 0x0⟩,
  ⟨0xfc, 1, 0, 0x0, 0x0, 0x0, 0x0, 0x0, 0x1, [], 0x0⟩]

/-- Words of page kind HINGE0 (R561). -/
def wordsHinge0 : List WordD := [
  ⟨0x40, 1, 0, 0x80000003, 0x0, 0xc0000003, 0x0, 0x0, 0x0, [], 0x0⟩,
  ⟨0x44, 1, 0, 0x0, 0x0, 0x0, 0x0, 0x0, 0x0, [], 0x0⟩,
  ⟨0x48, 1, 0, 0x1000, 0x0, 0x1fff, 0x0, 0x0, 0x0, [], 0x0⟩,
  ⟨0x4c, 1, 0, 0x0, 0x0, 0x0, 0x0, 0x0, 0x0, [(0, 16), (16, 16)], 0x0⟩]

/-- Words of page kind HINGE1 (R562). -/
def wordsHinge1 : List WordD := [
  ⟨0x40, 1, 0, 0x40, 0x0, 0x3ff, 0x0, 0x0, 0x0, [], 0x0⟩,
  ⟨0x60, 1, 0, 0x0, 0xffffffff, 0x0, 0x0, 0x0, 0x0, [], 0x0⟩,
  ⟨0x64, 1, 0, 0x0, 0xffffffff, 0x0, 0x0, 0x0, 0x0, [], 0x0⟩,
  ⟨0x68, 1, 0, 0x0, 0xffffffff, 0x0, 0x0, 0x0, 0x0, [], 0x0⟩,
  ⟨0x6c, 1, 0, 0x0, 0xffffffff, 0x0, 0x0, 0x0, 0x0, [], 0x0⟩,
  ⟨0x70, 1, 0, 0x0, 0x1fffff, 0x0, 0x0, 0x0, 0x0, [], 0x0⟩,
  ⟨0x74, 1, 0, 0x0, 0x0, 0x0, 0x0, 0x0, 0x1, [], 0x1⟩,
  ⟨0x78, 1, 0, 0x0, 0x0, 0x0, 0x0, 0x0, 0x0, [], 0x0⟩,
  ⟨0x7c, 1, 0, 0x0, 0x0, 0x0, 0x0, 0x0, 0x0, [(0, 16)], 0x0⟩,
  ⟨0x80, 1, 0, 0x0, 0x0, 0xffffffff, 0x0, 0x0, 0x0, [], 0x0⟩]

/-- Words of page kind HINGE2 (R563). -/
def wordsHinge2 : List WordD := [
  ⟨0x40, 1, 0, 0x0, 0x0, 0x0, 0x0, 0x0, 0x0, [], 0x0⟩,
  ⟨0x44, 1, 0, 0x0, 0x0, 0x0, 0x0, 0x0, 0x0, [(0, 16), (16, 16)], 0x0⟩,
  ⟨0x100, 256, 4, 0x0, 0x0, 0x0, 0x0, 0x0, 0x0, [(16, 8), (24, 8)], 0x0⟩,
  ⟨0x500, 256, 4, 0x0, 0x0, 0x0, 0x0, 0x0, 0x0, [(16, 8), (24, 8)], 0x0⟩,
  ⟨0x900, 256, 4, 0x0, 0x0, 0xffffffff, 0x0, 0x0, 0x0, [], 0x0⟩,
  ⟨0xd00, 24, 4, 0x0, 0x0, 0xffffffff, 0x0, 0x0, 0x0, [], 0x0⟩]

/-- Words of page kind LOG0 (R584). -/
def wordsLog0 : List WordD := [
  ⟨0x0, 1, 0, 0x0, 0x0, 0x1, 0x0, 0x0, 0x0, [], 0x0⟩,
  ⟨0x4, 1, 0, 0x0, 0x0, 0x0, 0x0, 0x0, 0x0, [], 0x0⟩,
  ⟨0x8, 1, 0, 0x0, 0x0, 0xff000000, 0x0, 0x0, 0x0, [], 0x0⟩,
  ⟨0xc, 1, 0, 0x0, 0x0, 0xffffffff, 0x0, 0x0, 0x0, [], 0x0⟩,
  ⟨0x10, 1, 0, 0x0, 0x0, 0x1ff, 0x0, 0x0, 0x0, [], 0x0⟩,
  ⟨0x14, 1, 0, 0x0, 0x0, 0x0, 0x0, 0x0, 0x0, [], 0x0⟩,
  ⟨0x18, 1, 0, 0x0, 0x0, 0x0, 0x0, 0x0, 0x0, [], 0x0⟩,
  ⟨0x1c, 1, 0, 0x1, 0x0, 0xffffffff, 0x0, 0x0, 0x0, [], 0x0⟩,
  ⟨0x20, 1, 0, 0x0, 0x0, 0xffffffff, 0x0, 0x0, 0x0, [], 0x0⟩,
  ⟨0x24, 1, 0, 0x0, 0x0, 0xffffffff, 0x0, 0x0, 0x0, [], 0x0⟩,
  ⟨0x28, 1, 0, 0x0, 0x0, 0xffffffff, 0x0, 0x0, 0x0, [], 0x0⟩,
  ⟨0x2c, 1, 0, 0x0, 0x0, 0xffffffff, 0x0, 0x0, 0x0, [], 0x0⟩,
  ⟨0x30, 1, 0, 0x1003f, 0x0, 0xffff03ff, 0x0, 0x0, 0x0, [], 0x0⟩,
  ⟨0x34, 1, 0, 0x0, 0x0, 0xffffffff, 0x0, 0x0, 0x0, [], 0x0⟩,
  ⟨0x38, 1, 0, 0x0, 0x0, 0xffffffff, 0x0, 0x0, 0x0, [], 0x0⟩,
  ⟨0x3c, 1, 0, 0x4, 0x0, 0x1fff, 0x0, 0x0, 0x0, [], 0x0⟩,
  ⟨0x40, 1, 0, 0x0, 0x0, 0xffffffff, 0x0, 0x0, 0x0, [], 0x0⟩,
  ⟨0x44, 1, 0, 0x0, 0x0, 0xffffffff, 0x0, 0x0, 0x0, [], 0x0⟩,
  ⟨0x48, 1, 0, 0x0, 0x0, 0xffffffff, 0x0, 0x0, 0x0, [], 0x0⟩,
  ⟨0x4c, 1, 0, 0x0, 0x0, 0x0, 0x0, 0x0, 0x0, [], 0x0⟩,
  ⟨0x50, 1, 0, 0x0, 0x0, 0x0, 0x0, 0x0, 0x1, [], 0x1⟩,
  ⟨0x54, 1, 0, 0x0, 0x0, 0x0, 0x0, 0x0, 0xf, [], 0xf⟩,
  ⟨0x58, 1, 0, 0x0, 0x0, 0x3f3f3f3f, 0x0, 0x0, 0x0, [], 0x0⟩,
  ⟨0x5c, 1, 0, 0x0, 0x0, 0x0, 0x0, 0x3f, 0x0, [], 0x0⟩,
  ⟨0x60, 1, 0, 0x0, 0x0, 0x0, 0x0, 0x0, 0x0, [(0, 16), (16, 16)], 0x0⟩,
  ⟨0x64, 1, 0, 0x0, 0x0, 0x0, 0x0, 0x0, 0x0, [(0, 32)], 0x0⟩,
  ⟨0x68, 1, 0, 0x0, 0x0, 0x0, 0x0, 0x0, 0x0, [], 0x0⟩,
  ⟨0x6c, 1, 0, 0x1, 0x0, 0x0, 0x0, 0x0, 0x0, [], 0x0⟩,
  ⟨0xfc, 1, 0, 0x0, 0x0, 0x0, 0x0, 0x0, 0x1, [], 0x0⟩,
  ⟨0x100, 16, 4, 0x0, 0x0, 0x0, 0x0, 0x0, 0x0, [], 0x0⟩,
  ⟨0x180, 32, 4, 0x0, 0x0, 0x0, 0x0, 0x0, 0x0, [], 0x0⟩]

/-- Words of page kind STREAM (R585). -/
def wordsStream : List WordD := [
  ⟨0x0, 1, 0, 0x0, 0x0, 0x3, 0x0, 0x0, 0x0, [], 0x0⟩,
  ⟨0x4, 1, 0, 0x0, 0x0, 0x0, 0x0, 0x0, 0x0, [], 0x0⟩,
  ⟨0x8, 1, 0, 0x0, 0x0, 0x0, 0x0, 0x0, 0x0, [], 0x0⟩,
  ⟨0xc, 1, 0, 0x0, 0x0, 0x0, 0x0, 0x0, 0x0, [], 0x0⟩,
  ⟨0x10, 1, 0, 0x0, 0xfff, 0x0, 0x0, 0x0, 0x0, [], 0xfff⟩,
  ⟨0x14, 1, 0, 0x0, 0x0, 0x0, 0x0, 0x0, 0x0, [], 0x0⟩,
  ⟨0x18, 1, 0, 0x0, 0x0, 0x0, 0x0, 0x0, 0x0, [(0, 16), (16, 16)], 0x0⟩,
  ⟨0x1c, 1, 0, 0x0, 0x0, 0x0, 0x0, 0x0, 0x0, [], 0x0⟩,
  ⟨0xfc, 1, 0, 0x0, 0x0, 0x0, 0x0, 0x0, 0x1, [], 0x0⟩,
  ⟨0x800, 512, 4, 0x0, 0xffffffff, 0x0, 0x0, 0x0, 0x0, [], 0xffffffff⟩]

/-- Words of page kind WIN (R597). -/
def wordsWin : List WordD := [
  ⟨0x0, 1, 0, 0x0, 0x3fff, 0x0, 0x0, 0x0, 0x0, [], 0x3fff⟩,
  ⟨0x4, 1, 0, 0x0, 0x0, 0x0, 0x0, 0x0, 0x0, [], 0x0⟩,
  ⟨0x8, 1, 0, 0x0, 0xfff0fff, 0x0, 0x0, 0x0, 0x0, [], 0x0⟩,
  ⟨0xc, 1, 0, 0x0, 0x1ff, 0x0, 0x0, 0x0, 0x0, [], 0x0⟩,
  ⟨0x10, 1, 0, 0x0, 0xffffffff, 0x0, 0x0, 0x0, 0x0, [], 0x0⟩,
  ⟨0x14, 1, 0, 0x0, 0xffffffff, 0x0, 0x0, 0x0, 0x0, [], 0x0⟩,
  ⟨0x18, 1, 0, 0xffffffff, 0xffffffff, 0x0, 0x0, 0x0, 0x0, [], 0x0⟩,
  ⟨0x1c, 1, 0, 0x0, 0x0, 0x0, 0x0, 0x0, 0x0, [], 0x0⟩,
  ⟨0x20, 3, 4, 0x0, 0xffffffff, 0x0, 0x0, 0x0, 0x0, [], 0x0⟩,
  ⟨0x40, 32, 4, 0x0, 0xffffffff, 0x0, 0x0, 0x0, 0x0, [], 0x0⟩,
  ⟨0x100, 512, 4, 0x0, 0xffffffff, 0x0, 0x0, 0x0, 0x0, [], 0x0⟩]

/-- Words of page kind KEY0 (R619). -/
def wordsKey0 : List WordD := [
  ⟨0x0, 1, 0, 0x0, 0x0, 0x0, 0x0, 0x0, 0x0, [], 0x0⟩,
  ⟨0x4, 1, 0, 0x0, 0x0, 0x0, 0x0, 0x0, 0x0, [(0, 16), (16, 16)], 0x0⟩,
  ⟨0x8, 1, 0, 0x0, 0x0, 0x0, 0x0, 0x0, 0x0, [(0, 16), (16, 16)], 0x0⟩,
  ⟨0xc, 1, 0, 0x0, 0x0, 0x0, 0x0, 0x0, 0x0, [(0, 16), (16, 16)], 0x0⟩,
  ⟨0x10, 1, 0, 0x0, 0x0, 0x0, 0x0, 0x0, 0x0, [], 0x0⟩,
  ⟨0x14, 1, 0, 0x0, 0x0, 0x0, 0x0, 0x0, 0x0, [], 0x0⟩,
  ⟨0x100, 16, 4, 0x0, 0x0, 0x0, 0x0, 0x0, 0x0, [], 0x0⟩,
  ⟨0x800, 512, 4, 0x0, 0x0, 0x0, 0x0, 0x0, 0x0, [], 0x0⟩]

/-- Words of page kind SLOT (R620). -/
def wordsSlot : List WordD := [
  ⟨0x0, 16, 256, 0x0, 0x0, 0x0, 0x0, 0x0, 0x0, [], 0x0⟩,
  ⟨0x4, 16, 256, 0x0, 0x0, 0x0, 0x0, 0x0, 0x0, [], 0x0⟩,
  ⟨0x8, 16, 256, 0x0, 0x0, 0x0, 0x0, 0x0, 0x0, [], 0x0⟩,
  ⟨0xc, 16, 256, 0x0, 0x0, 0x0, 0x0, 0x0, 0x0, [], 0x0⟩,
  ⟨0x10, 16, 256, 0x0, 0x0, 0x0, 0x0, 0x0, 0x0, [], 0x0⟩,
  ⟨0x14, 16, 256, 0x0, 0x0, 0x0, 0x0, 0x0, 0x0, [], 0x0⟩,
  ⟨0x20, 16, 256, 0x0, 0x0, 0x0, 0x0, 0x0, 0x0, [], 0x0⟩,
  ⟨0x24, 16, 256, 0x0, 0x0, 0x0, 0x0, 0x0, 0x0, [], 0x0⟩,
  ⟨0x28, 16, 256, 0x0, 0x0, 0x0, 0x0, 0x0, 0x0, [], 0x0⟩,
  ⟨0x2c, 16, 256, 0x0, 0x0, 0x0, 0x0, 0x0, 0x0, [], 0x0⟩,
  ⟨0x30, 16, 256, 0x0, 0x0, 0x0, 0x0, 0x0, 0x0, [], 0x0⟩,
  ⟨0x34, 16, 256, 0x0, 0x0, 0x0, 0x0, 0x0, 0x0, [], 0x0⟩,
  ⟨0x38, 16, 256, 0x0, 0x0, 0x0, 0x0, 0x0, 0x0, [], 0x0⟩,
  ⟨0x3c, 16, 256, 0x0, 0x0, 0x0, 0x0, 0x0, 0x0, [], 0x0⟩,
  ⟨0x40, 16, 256, 0x0, 0x0, 0x0, 0x0, 0x0, 0x0, [], 0x0⟩,
  ⟨0x44, 16, 256, 0x0, 0x0, 0x0, 0x0, 0x0, 0x0, [], 0x0⟩,
  ⟨0x48, 16, 256, 0x0, 0x0, 0x0, 0x0, 0x0, 0x0, [], 0x0⟩,
  ⟨0x4c, 16, 256, 0x0, 0x0, 0x0, 0x0, 0x0, 0x0, [], 0x0⟩,
  ⟨0x50, 16, 256, 0x0, 0x0, 0x0, 0x0, 0x0, 0x0, [], 0x0⟩,
  ⟨0x54, 16, 256, 0x0, 0x0, 0x0, 0x0, 0x0, 0x0, [], 0x0⟩,
  ⟨0x58, 16, 256, 0x0, 0x0, 0x0, 0x0, 0x0, 0x0, [], 0x0⟩,
  ⟨0x5c, 16, 256, 0x0, 0x0, 0x0, 0x0, 0x0, 0x0, [], 0x0⟩,
  ⟨0x60, 16, 256, 0x0, 0x0, 0x0, 0x0, 0x0, 0x0, [], 0x0⟩,
  ⟨0x64, 16, 256, 0x0, 0x0, 0x0, 0x0, 0x0, 0x0, [], 0x0⟩,
  ⟨0x68, 16, 256, 0x0, 0x0, 0x0, 0x0, 0x0, 0x0, [], 0x0⟩,
  ⟨0x6c, 16, 256, 0x0, 0x0, 0x0, 0x0, 0x0, 0x0, [], 0x0⟩,
  ⟨0x70, 16, 256, 0x0, 0x0, 0x0, 0x0, 0x0, 0x0, [], 0x0⟩,
  ⟨0x74, 16, 256, 0x0, 0x0, 0x0, 0x0, 0x0, 0x0, [], 0x0⟩,
  ⟨0x78, 16, 256, 0x0, 0x0, 0x0, 0x0, 0x0, 0x0, [], 0x0⟩,
  ⟨0x7c, 16, 256, 0x0, 0x0, 0x0, 0x0, 0x0, 0x0, [], 0x0⟩]

/-- Words of page kind TEST2 (R621). -/
def wordsTest2 : List WordD := [
  ⟨0x0, 1, 0, 0x0, 0x0, 0x0, 0x0, 0x0, 0x0, [], 0x0⟩,
  ⟨0x4, 1, 0, 0x0, 0x0, 0x0, 0x0, 0x0, 0x0, [], 0x0⟩,
  ⟨0x8, 1, 0, 0x0, 0x0, 0x0, 0x0, 0x0, 0x0, [], 0x0⟩,
  ⟨0xc, 1, 0, 0x0, 0x7, 0x0, 0x0, 0x0, 0x0, [], 0x7⟩,
  ⟨0x10, 1, 0, 0x0, 0x0, 0x0, 0x0, 0x0, 0x0, [], 0x0⟩,
  ⟨0x14, 1, 0, 0x0, 0x0, 0x0, 0x0, 0x0, 0x3, [], 0x0⟩,
  ⟨0x18, 1, 0, 0x0, 0x0, 0x0, 0x0, 0x0, 0x0, [], 0x0⟩,
  ⟨0x1c, 1, 0, 0x0, 0x0, 0x0, 0x0, 0x0, 0x0, [(0, 16)], 0x0⟩,
  ⟨0x20, 8, 4, 0x0, 0x0, 0x0, 0x0, 0x0, 0x0, [], 0x0⟩,
  ⟨0x100, 28, 4, 0x0, 0xffffffff, 0x0, 0x0, 0x0, 0x0, [], 0x0⟩,
  ⟨0x180, 24, 4, 0x0, 0xffffffff, 0x0, 0x0, 0x0, 0x0, [], 0x0⟩]

/-- Words of page kind SAFE0 (R645). -/
def wordsSafe0 : List WordD := [
  ⟨0x0, 1, 0, 0x0, 0x0, 0x0, 0x0, 0x0, 0x0, [], 0x0⟩,
  ⟨0x4, 1, 0, 0x0, 0x0, 0x0, 0x0, 0x0, 0x0, [], 0x0⟩,
  ⟨0x8, 1, 0, 0x0, 0x0, 0x0, 0x0, 0xffffffff, 0x0, [], 0x0⟩,
  ⟨0xc, 1, 0, 0x0, 0x0, 0x0, 0x0, 0x0, 0x0, [(0, 16), (16, 16)], 0x0⟩,
  ⟨0x10, 1, 0, 0x0, 0x0, 0xffffffff, 0x0, 0x0, 0x0, [], 0x0⟩,
  ⟨0x14, 1, 0, 0x0, 0x0, 0xffff, 0x0, 0x0, 0x0, [], 0x0⟩,
  ⟨0x18, 1, 0, 0x0, 0x0, 0x0, 0x0, 0x0, 0x1, [], 0x1⟩,
  ⟨0x1c, 1, 0, 0xa, 0x0, 0x7f, 0x0, 0x0, 0x0, [], 0x0⟩,
  ⟨0x20, 1, 0, 0x0, 0x0, 0x0, 0x0, 0x0, 0x0, [], 0x0⟩,
  ⟨0x24, 1, 0, 0x0, 0x0, 0x0, 0x0, 0x0, 0x0, [(0, 16), (16, 16)], 0x0⟩,
  ⟨0x28, 1, 0, 0x0, 0x0, 0x0, 0x0, 0x0, 0x0, [], 0x0⟩,
  ⟨0x2c, 1, 0, 0x0, 0x0, 0x0, 0x0, 0x0, 0x1, [], 0x1⟩,
  ⟨0x30, 1, 0, 0x0, 0x0, 0x0, 0x0, 0x0, 0x0, [], 0x0⟩,
  ⟨0x34, 1, 0, 0x0, 0x0, 0x0, 0x0, 0x0, 0x0, [], 0x0⟩,
  ⟨0x38, 1, 0, 0x0, 0x0, 0x0, 0x0, 0x0, 0x0, [], 0x0⟩,
  ⟨0x3c, 1, 0, 0x0, 0x0, 0x0, 0x0, 0x0, 0x0, [], 0x0⟩,
  ⟨0x40, 1, 0, 0x0, 0x0, 0x0, 0x0, 0x0, 0x0, [(0, 16), (16, 8), (24, 8)], 0x0⟩,
  ⟨0xfc, 1, 0, 0x0, 0x0, 0x0, 0x0, 0x0, 0x1, [], 0x0⟩,
  ⟨0x100, 28, 4, 0x0, 0x0, 0x7, 0x0, 0x0, 0x0, [], 0x0⟩,
  ⟨0x200, 28, 4, 0x0, 0x0, 0x0, 0x0, 0x0, 0x0, [(0, 16)], 0x0⟩]

/-- Words of page kind ALARM (R646). -/
def wordsAlarm : List WordD := [
  ⟨0x0, 1, 0, 0x80000000, 0x0, 0x0, 0x0, 0x0, 0x0, [], 0x0⟩,
  ⟨0x4, 1, 0, 0x14, 0x0, 0xff, 0x0, 0x0, 0x0, [], 0x0⟩,
  ⟨0x8, 1, 0, 0x0, 0x0, 0x0, 0x0, 0x0, 0x1, [], 0x1⟩,
  ⟨0xc, 1, 0, 0x0, 0x0, 0x0, 0x0, 0x7, 0x0, [], 0x0⟩,
  ⟨0x10, 1, 0, 0x0, 0x0, 0x0, 0x0, 0x0, 0x0, [(0, 16), (16, 8), (24, 8)], 0x0⟩,
  ⟨0xfc, 1, 0, 0x0, 0x0, 0x0, 0x0, 0x0, 0x1, [], 0x0⟩]

/-- Words of page kind ZONE6 (R673). -/
def wordsZone6 : List WordD := [
  ⟨0x0, 1, 0, 0x0, 0x0, 0x0, 0x0, 0x0, 0x0, [], 0x0⟩,
  ⟨0x4, 1, 0, 0x1, 0x0, 0x0, 0x0, 0x0, 0x0, [], 0x0⟩,
  ⟨0x8, 1, 0, 0x30007d0, 0x0, 0x700ffff, 0x0, 0x0, 0x0, [], 0x0⟩,
  ⟨0xc, 1, 0, 0x0, 0x0, 0x0, 0x0, 0x0, 0x0, [], 0x0⟩,
  ⟨0x10, 1, 0, 0x0, 0x0, 0x0, 0x0, 0x0, 0x0, [], 0x0⟩,
  ⟨0x14, 1, 0, 0x0, 0x0, 0x0, 0x0, 0x0, 0x1, [], 0x0⟩,
  ⟨0x18, 1, 0, 0x0, 0x0, 0x0, 0x0, 0x0, 0x0, [], 0x0⟩,
  ⟨0x1c, 1, 0, 0x0, 0x0, 0x0, 0x0, 0x0, 0x0, [], 0x0⟩,
  ⟨0x20, 1, 0, 0x0, 0x0, 0x0, 0x0, 0x0, 0x1, [], 0x1⟩,
  ⟨0x24, 1, 0, 0x800006f0, 0x0, 0x800007ff, 0x0, 0x0, 0x0, [], 0x0⟩,
  ⟨0x28, 1, 0, 0x0, 0x0, 0x0, 0x0, 0x0, 0x0, [], 0x0⟩,
  ⟨0x2c, 1, 0, 0x0, 0x0, 0x0, 0x0, 0x0, 0x0, [], 0x0⟩,
  ⟨0xfc, 1, 0, 0x0, 0x0, 0x0, 0x0, 0x0, 0x1, [], 0x0⟩,
  ⟨0x100, 64, 4, 0x0, 0x0, 0x0, 0x0, 0x0, 0x0, [], 0x0⟩]

/-- Words of page kind TEST0 (R674). -/
def wordsTest0 : List WordD := [
  ⟨0x0, 1, 0, 0x0, 0x0, 0x0, 0x0, 0x0, 0x0, [], 0x0⟩,
  ⟨0x4, 1, 0, 0x0, 0x13f, 0x0, 0x0, 0x0, 0x80000000, [], 0x8000013f⟩,
  ⟨0x8, 1, 0, 0x0, 0x0, 0x0, 0x0, 0x0, 0x0, [(0, 16), (16, 16)], 0x0⟩,
  ⟨0x100, 256, 4, 0x0, 0x0, 0x0, 0x0, 0x0, 0x0, [], 0x0⟩]

/-- Words of page kind TEST1 (R675). -/
def wordsTest1 : List WordD := [
  ⟨0x0, 1, 0, 0x0, 0x0, 0x0, 0x0, 0x0, 0x0, [], 0x0⟩,
  ⟨0x4, 1, 0, 0x0, 0xffffffff, 0x0, 0x0, 0x0, 0x0, [], 0x0⟩,
  ⟨0x8, 1, 0, 0x0, 0x0, 0x0, 0x0, 0x0, 0x1, [], 0x1⟩,
  ⟨0xc, 1, 0, 0x0, 0x0, 0x0, 0x0, 0x0, 0x0, [], 0x0⟩,
  ⟨0x100, 64, 4, 0x0, 0x0, 0x0, 0x0, 0x0, 0x0, [], 0x0⟩]

/-- Words of page kind SWW (R373). -/
def wordsSww : List WordD := [
  ⟨0x0, 8, 4, 0x0, 0x0, 0x0, 0xffffffff, 0x0, 0x0, [], 0x0⟩,
  ⟨0x20, 1, 0, 0x0, 0x0, 0x0, 0xffffffff, 0x0, 0x0, [], 0xffffffff⟩,
  ⟨0x40, 8, 4, 0x0, 0x0, 0x0, 0x0, 0x0, 0x0, [], 0x0⟩]

/-- Words of page kind OWNL (R533). -/
def wordsOwnl : List WordD := [
  ⟨0x0, 48, 4, 0x0, 0x0, 0x0, 0x0, 0x0, 0x0, [], 0x0⟩]

/-- Words of page kind OWNS (R533). -/
def wordsOwns : List WordD := [
  ⟨0x0, 64, 4, 0x0, 0x0, 0x0, 0x0, 0x0, 0x0, [], 0x0⟩]

/-- The words of a page of kind `k`. -/
def PageKind.words : PageKind → List WordD
  | .zone5 => wordsZone5
  | .zone0 => wordsZone0
  | .zone7 => wordsZone7
  | .input => wordsInput
  | .zone3 => wordsZone3
  | .zone4 => wordsZone4
  | .keeper => wordsKeeper
  | .load => wordsLoad
  | .char => wordsChar
  | .cal => wordsCal
  | .shunt => wordsShunt
  | .bal => wordsBal
  | .ring => wordsRing
  | .sw0 => wordsSw0
  | .swp => wordsSwp
  | .port => wordsPort
  | .time0 => wordsTime0
  | .time1 => wordsTime1
  | .tsq => wordsTsq
  | .can => wordsCan
  | .lin => wordsLin
  | .ser => wordsSer
  | .tu => wordsTu
  | .regn => wordsRegn
  | .grant => wordsGrant
  | .qpr => wordsQpr
  | .hinge0 => wordsHinge ++ wordsHinge0
  | .hinge1 => wordsHinge ++ wordsHinge1
  | .hinge2 => wordsHinge ++ wordsHinge2
  | .log0 => wordsLog0
  | .stream => wordsStream
  | .win => wordsWin
  | .key0 => wordsKey0
  | .slot => wordsSlot
  | .test2 => wordsTest2
  | .safe0 => wordsSafe0
  | .alarm => wordsAlarm
  | .zone6 => wordsZone6
  | .test0 => wordsTest0
  | .test1 => wordsTest1
  | .sww => wordsSww
  | .ownl => wordsOwnl
  | .owns => wordsOwns
  | .empty => []


/-! Fields of page kind ZONE5. -/

@[reducible] def Reg.ZONE5.DCQ_CE_TOTAL_COUNT : Fld := ⟨0x20, 0, 32⟩
@[reducible] def Reg.ZONE5.DCQ_UE_TOTAL_COUNT : Fld := ⟨0x24, 0, 32⟩
@[reducible] def Reg.ZONE5.DCQ_UE_LAST_QUEUE_ID : Fld := ⟨0x28, 0, 16⟩
@[reducible] def Reg.ZONE5.CLK_STATUS_STOPPED : Fld := ⟨0x0, 16, 10⟩
@[reducible] def Reg.ZONE5.CLK_STATUS_OUT_OF_WINDOW : Fld := ⟨0x0, 0, 10⟩
@[reducible] def Reg.ZONE5.CLK_EVENT_FAULT : Fld := ⟨0x4, 0, 10⟩
@[reducible] def Reg.ZONE5.CLK_LAST_DOMAIN : Fld := ⟨0x8, 28, 4⟩
@[reducible] def Reg.ZONE5.CLK_LAST_COUNT : Fld := ⟨0x8, 0, 16⟩
@[reducible] def Reg.ZONE5.CLK_COUNTS_TOTAL : Fld := ⟨0xc, 0, 32⟩
@[reducible] def Reg.ZONE5.CLK_DOMAIN_COUNT_COUNT : Fld := ⟨0x60, 0, 16⟩

/-! Fields of page kind ZONE0. -/

@[reducible] def Reg.ZONE0.STATE_ENTRY_CAUSE : Fld := ⟨0x0, 16, 8⟩
@[reducible] def Reg.ZONE0.STATE_PREV : Fld := ⟨0x0, 8, 3⟩
@[reducible] def Reg.ZONE0.STATE_SLEEP_PENDING : Fld := ⟨0x0, 3, 1⟩
@[reducible] def Reg.ZONE0.STATE_CURRENT : Fld := ⟨0x0, 0, 3⟩
@[reducible] def Reg.ZONE0.SUPV_BOUND : Fld := ⟨0x4, 8, 1⟩
@[reducible] def Reg.ZONE0.SUPV_SEQ_HIGH_LO : Fld := ⟨0x4, 0, 8⟩
@[reducible] def Reg.ZONE0.CMD_REJECT_STATE : Fld := ⟨0x8, 24, 8⟩
@[reducible] def Reg.ZONE0.CMD_REJECT_AUTH : Fld := ⟨0x8, 16, 8⟩
@[reducible] def Reg.ZONE0.CMD_REJECT_OTHER_NODE : Fld := ⟨0x8, 8, 8⟩
@[reducible] def Reg.ZONE0.CMD_REJECT_FORMAT : Fld := ⟨0x8, 0, 8⟩
@[reducible] def Reg.ZONE0.KW_REJECT_COUNT : Fld := ⟨0xc, 0, 16⟩
@[reducible] def Reg.ZONE0.KW_REJECT_ADDR_OFFSET : Fld := ⟨0x10, 0, 24⟩
@[reducible] def Reg.ZONE0.KW_REJECT_SRC_WORLD : Fld := ⟨0x14, 12, 1⟩
@[reducible] def Reg.ZONE0.KW_REJECT_SRC_MOORING : Fld := ⟨0x14, 0, 12⟩

/-! Fields of page kind ZONE7. -/

@[reducible] def Reg.ZONE7.PROFILE_ACTIVE : Fld := ⟨0x0, 4, 2⟩
@[reducible] def Reg.ZONE7.PROFILE_REQ : Fld := ⟨0x0, 0, 2⟩

/-! Fields of page kind INPUT. -/

@[reducible] def Reg.INPUT.IN_CFG_CAPTURE_EN : Fld := ⟨0x0, 28, 1⟩
@[reducible] def Reg.INPUT.IN_CFG_MODE : Fld := ⟨0x0, 24, 2⟩
@[reducible] def Reg.INPUT.IN_CFG_WETTING : Fld := ⟨0x0, 16, 3⟩
@[reducible] def Reg.INPUT.IN_CFG_FILTER : Fld := ⟨0x0, 8, 8⟩
@[reducible] def Reg.INPUT.IN_THRESH_RISE : Fld := ⟨0x4, 16, 13⟩
@[reducible] def Reg.INPUT.IN_THRESH_FALL : Fld := ⟨0x4, 0, 13⟩
@[reducible] def Reg.INPUT.STATE_CAP_SEQ : Fld := ⟨0x8, 8, 8⟩
@[reducible] def Reg.INPUT.STATE_CAP_VALID : Fld := ⟨0x8, 2, 1⟩
@[reducible] def Reg.INPUT.STATE_ACTIVE : Fld := ⟨0x8, 1, 1⟩
@[reducible] def Reg.INPUT.STATE_LEVEL : Fld := ⟨0x8, 0, 1⟩
@[reducible] def Reg.INPUT.VOLT_MV : Fld := ⟨0xc, 0, 16⟩
@[reducible] def Reg.INPUT.CAP_PERIOD_TICKS : Fld := ⟨0x10, 0, 32⟩
@[reducible] def Reg.INPUT.CAP_HIGH_TICKS : Fld := ⟨0x14, 0, 32⟩
@[reducible] def Reg.INPUT.IN_EVENT_CFG_REJECT : Fld := ⟨0x18, 2, 1⟩
@[reducible] def Reg.INPUT.IN_EVENT_FALL : Fld := ⟨0x18, 1, 1⟩
@[reducible] def Reg.INPUT.IN_EVENT_RISE : Fld := ⟨0x18, 0, 1⟩
@[reducible] def Reg.INPUT.IN_COUNTS_EDGES : Fld := ⟨0x1c, 16, 16⟩
@[reducible] def Reg.INPUT.IN_COUNTS_CFG_REJECT : Fld := ⟨0x1c, 0, 16⟩
@[reducible] def Reg.INPUT.LOCK_LOCK : Fld := ⟨0xfc, 0, 1⟩

/-! Fields of page kind ZONE3. -/

@[reducible] def Reg.ZONE3.SUPPLY_STATUS_CRANK_HOLD : Fld := ⟨0x0, 15, 1⟩
@[reducible] def Reg.ZONE3.SUPPLY_STATUS_GND_B_LOST : Fld := ⟨0x0, 13, 1⟩
@[reducible] def Reg.ZONE3.SUPPLY_STATUS_GND_A_LOST : Fld := ⟨0x0, 12, 1⟩
@[reducible] def Reg.ZONE3.SUPPLY_STATUS_BAND_B : Fld := ⟨0x0, 8, 3⟩
@[reducible] def Reg.ZONE3.SUPPLY_STATUS_BAND_A : Fld := ⟨0x0, 4, 3⟩
@[reducible] def Reg.ZONE3.FEED_V_BAT_B : Fld := ⟨0x4, 16, 16⟩
@[reducible] def Reg.ZONE3.FEED_V_BAT_A : Fld := ⟨0x4, 0, 16⟩
@[reducible] def Reg.ZONE3.CRANK_COUNT : Fld := ⟨0x8, 16, 16⟩
@[reducible] def Reg.ZONE3.CRANK_ACC : Fld := ⟨0x8, 0, 16⟩
@[reducible] def Reg.ZONE3.SUPPLY_EVENT_TOTAL_OVER : Fld := ⟨0xc, 15, 1⟩
@[reducible] def Reg.ZONE3.SUPPLY_EVENT_FEED_OVER_B : Fld := ⟨0xc, 14, 1⟩
@[reducible] def Reg.ZONE3.SUPPLY_EVENT_FEED_OVER_A : Fld := ⟨0xc, 13, 1⟩
@[reducible] def Reg.ZONE3.SUPPLY_EVENT_GND_B_LOST : Fld := ⟨0xc, 12, 1⟩
@[reducible] def Reg.ZONE3.SUPPLY_EVENT_GND_A_LOST : Fld := ⟨0xc, 11, 1⟩
@[reducible] def Reg.ZONE3.SUPPLY_EVENT_FEED_B_LOST : Fld := ⟨0xc, 10, 1⟩
@[reducible] def Reg.ZONE3.SUPPLY_EVENT_FEED_A_LOST : Fld := ⟨0xc, 9, 1⟩
@[reducible] def Reg.ZONE3.SUPPLY_EVENT_REVERSE_B : Fld := ⟨0xc, 8, 1⟩
@[reducible] def Reg.ZONE3.SUPPLY_EVENT_REVERSE_A : Fld := ⟨0xc, 7, 1⟩
@[reducible] def Reg.ZONE3.SUPPLY_EVENT_SURGE_LONG_B : Fld := ⟨0xc, 6, 1⟩
@[reducible] def Reg.ZONE3.SUPPLY_EVENT_SURGE_LONG_A : Fld := ⟨0xc, 5, 1⟩
@[reducible] def Reg.ZONE3.SUPPLY_EVENT_SURGE_END_B : Fld := ⟨0xc, 4, 1⟩
@[reducible] def Reg.ZONE3.SUPPLY_EVENT_SURGE_END_A : Fld := ⟨0xc, 3, 1⟩
@[reducible] def Reg.ZONE3.SUPPLY_EVENT_SURGE_B : Fld := ⟨0xc, 2, 1⟩
@[reducible] def Reg.ZONE3.SUPPLY_EVENT_SURGE_A : Fld := ⟨0xc, 1, 1⟩
@[reducible] def Reg.ZONE3.SUPPLY_EVENT_CRANK : Fld := ⟨0xc, 0, 1⟩
@[reducible] def Reg.ZONE3.SURGE_COUNT_B : Fld := ⟨0x10, 16, 16⟩
@[reducible] def Reg.ZONE3.SURGE_COUNT_A : Fld := ⟨0x10, 0, 16⟩

/-! Fields of page kind ZONE4. -/

@[reducible] def Reg.ZONE4.T_BASE_TEMP : Fld := ⟨0x0, 0, 16⟩
@[reducible] def Reg.ZONE4.T_SOC_TEMP : Fld := ⟨0x4, 0, 16⟩
@[reducible] def Reg.ZONE4.T_SWITCH_TEMP : Fld := ⟨0x8, 0, 16⟩
@[reducible] def Reg.ZONE4.T_POWER_A_TEMP : Fld := ⟨0xc, 0, 16⟩
@[reducible] def Reg.ZONE4.T_POWER_B_TEMP : Fld := ⟨0x10, 0, 16⟩
@[reducible] def Reg.ZONE4.THERM_CFG_WARN : Fld := ⟨0x14, 0, 16⟩
@[reducible] def Reg.ZONE4.THERM_EVENT_HALT : Fld := ⟨0x18, 2, 1⟩
@[reducible] def Reg.ZONE4.THERM_EVENT_THROTTLE : Fld := ⟨0x18, 1, 1⟩
@[reducible] def Reg.ZONE4.THERM_EVENT_WARN : Fld := ⟨0x18, 0, 1⟩
@[reducible] def Reg.ZONE4.THERM_STATUS_HALTED : Fld := ⟨0x1c, 1, 1⟩
@[reducible] def Reg.ZONE4.THERM_STATUS_THROTTLED : Fld := ⟨0x1c, 0, 1⟩

/-! Fields of page kind KEEPER. -/

@[reducible] def Reg.KEEPER.KSTATUS_CLAIM : Fld := ⟨0x0, 16, 8⟩
@[reducible] def Reg.KEEPER.KSTATUS_TRIAL_TAKEOVER : Fld := ⟨0x0, 14, 1⟩
@[reducible] def Reg.KEEPER.KSTATUS_MARK_LOCAL : Fld := ⟨0x0, 13, 1⟩
@[reducible] def Reg.KEEPER.KSTATUS_OTHER_LOST : Fld := ⟨0x0, 12, 1⟩
@[reducible] def Reg.KEEPER.KSTATUS_MIRROR_STALE : Fld := ⟨0x0, 11, 1⟩
@[reducible] def Reg.KEEPER.KSTATUS_MIRROR_UP : Fld := ⟨0x0, 10, 1⟩
@[reducible] def Reg.KEEPER.KSTATUS_ROLE : Fld := ⟨0x0, 0, 3⟩
@[reducible] def Reg.KEEPER.RUN_ID_TABLE_ID : Fld := ⟨0x4, 0, 32⟩
@[reducible] def Reg.KEEPER.RUN_VERSION_VERSION : Fld := ⟨0x8, 0, 32⟩
@[reducible] def Reg.KEEPER.RES_ID_TABLE_ID : Fld := ⟨0xc, 0, 32⟩
@[reducible] def Reg.KEEPER.RES_VERSION_VERSION : Fld := ⟨0x10, 0, 32⟩
@[reducible] def Reg.KEEPER.RES_STATE_STATE : Fld := ⟨0x14, 0, 2⟩
@[reducible] def Reg.KEEPER.LOAD_RESULT_CODE : Fld := ⟨0x18, 24, 8⟩
@[reducible] def Reg.KEEPER.LOAD_RESULT_DETAIL : Fld := ⟨0x18, 0, 24⟩
@[reducible] def Reg.KEEPER.CONFIG_MISS_LIMIT : Fld := ⟨0x1c, 24, 3⟩
@[reducible] def Reg.KEEPER.CONFIG_TICKET_TIMEOUT : Fld := ⟨0x1c, 0, 20⟩
@[reducible] def Reg.KEEPER.FAULT_CODE : Fld := ⟨0x20, 24, 8⟩
@[reducible] def Reg.KEEPER.FAULT_STEP : Fld := ⟨0x20, 12, 12⟩
@[reducible] def Reg.KEEPER.FAULT_INDEX : Fld := ⟨0x20, 0, 6⟩
@[reducible] def Reg.KEEPER.EXEC_FAULTS_COUNT : Fld := ⟨0x24, 0, 32⟩
@[reducible] def Reg.KEEPER.SELF_CHECK_CAUSE : Fld := ⟨0x28, 0, 8⟩
@[reducible] def Reg.KEEPER.TICKETS_IN_USE : Fld := ⟨0x2c, 16, 8⟩
@[reducible] def Reg.KEEPER.TICKETS_EXHAUSTED : Fld := ⟨0x2c, 0, 16⟩
@[reducible] def Reg.KEEPER.TICKET_EVENTS_LATE : Fld := ⟨0x30, 16, 16⟩
@[reducible] def Reg.KEEPER.TICKET_EVENTS_ABANDONED : Fld := ⟨0x30, 0, 16⟩
@[reducible] def Reg.KEEPER.SHADOW_COUNTS_FLT : Fld := ⟨0x34, 16, 16⟩
@[reducible] def Reg.KEEPER.SHADOW_COUNTS_WRITES : Fld := ⟨0x34, 0, 16⟩
@[reducible] def Reg.KEEPER.CLAIM_REFUSED_LATE : Fld := ⟨0x38, 24, 8⟩
@[reducible] def Reg.KEEPER.CLAIM_REFUSED_WATCH : Fld := ⟨0x38, 16, 8⟩
@[reducible] def Reg.KEEPER.CLAIM_REFUSED_SHADOW : Fld := ⟨0x38, 0, 16⟩
@[reducible] def Reg.KEEPER.MISC_COUNTS_CRDX_TIMEOUT : Fld := ⟨0x3c, 24, 8⟩
@[reducible] def Reg.KEEPER.MISC_COUNTS_EVT_DISCARD : Fld := ⟨0x3c, 16, 8⟩
@[reducible] def Reg.KEEPER.MISC_COUNTS_RESYNC : Fld := ⟨0x3c, 8, 8⟩
@[reducible] def Reg.KEEPER.MISC_COUNTS_CHART_CE : Fld := ⟨0x3c, 0, 8⟩
@[reducible] def Reg.KEEPER.MIRROR_STATUS_DISCARD : Fld := ⟨0x40, 16, 16⟩
@[reducible] def Reg.KEEPER.MIRROR_STATUS_PASSES : Fld := ⟨0x40, 0, 16⟩
@[reducible] def Reg.KEEPER.BEACON_OTHER_CLAIM : Fld := ⟨0x44, 16, 8⟩
@[reducible] def Reg.KEEPER.BEACON_MISSED : Fld := ⟨0x44, 0, 16⟩
@[reducible] def Reg.KEEPER.TRIAL_FAULTS : Fld := ⟨0x48, 16, 8⟩
@[reducible] def Reg.KEEPER.TRIAL_ROUNDS : Fld := ⟨0x48, 0, 16⟩
@[reducible] def Reg.KEEPER.FENCE_HARD : Fld := ⟨0x4c, 2, 1⟩
@[reducible] def Reg.KEEPER.FENCE_CONFIRMED : Fld := ⟨0x4c, 1, 1⟩
@[reducible] def Reg.KEEPER.FENCE_FENCED : Fld := ⟨0x4c, 0, 1⟩
@[reducible] def Reg.KEEPER.WATCH_CTRL_ENABLE : Fld := ⟨0x80, 16, 1⟩
@[reducible] def Reg.KEEPER.WATCH_CTRL_PERIOD : Fld := ⟨0x80, 0, 16⟩
@[reducible] def Reg.KEEPER.WATCH_COUNT_CHANGES : Fld := ⟨0x84, 16, 16⟩
@[reducible] def Reg.KEEPER.WATCH_COUNT_ROUNDS : Fld := ⟨0x84, 0, 16⟩
@[reducible] def Reg.KEEPER.WATCH_STATE_FAILOVERS : Fld := ⟨0x88, 16, 16⟩
@[reducible] def Reg.KEEPER.WATCH_STATE_DEFERRED : Fld := ⟨0x88, 8, 1⟩
@[reducible] def Reg.KEEPER.WATCH_STATE_HOLDER : Fld := ⟨0x88, 0, 1⟩
@[reducible] def Reg.KEEPER.FLOOR_SERVICE_VERSION : Fld := ⟨0x8c, 0, 32⟩
@[reducible] def Reg.KEEPER.FLOOR_LIGHTSHIP_VERSION : Fld := ⟨0x90, 0, 32⟩
@[reducible] def Reg.KEEPER.LOCK_LOCK : Fld := ⟨0xfc, 0, 1⟩

/-! Fields of page kind LOAD. -/

@[reducible] def Reg.LOAD.CH_CTRL_PHASE : Fld := ⟨0x0, 16, 8⟩
@[reducible] def Reg.LOAD.CH_CTRL_GEN : Fld := ⟨0x0, 8, 4⟩
@[reducible] def Reg.LOAD.CH_CTRL_REQ : Fld := ⟨0x0, 0, 3⟩
@[reducible] def Reg.LOAD.CH_STATUS_STATE : Fld := ⟨0x4, 28, 4⟩
@[reducible] def Reg.LOAD.CH_STATUS_CAUSE : Fld := ⟨0x4, 24, 4⟩
@[reducible] def Reg.LOAD.CH_STATUS_BUDGET : Fld := ⟨0x4, 20, 4⟩
@[reducible] def Reg.LOAD.CH_STATUS_RESTARTS : Fld := ⟨0x4, 16, 4⟩
@[reducible] def Reg.LOAD.CH_STATUS_LATCH : Fld := ⟨0x4, 15, 1⟩
@[reducible] def Reg.LOAD.CH_STATUS_SAFE_ACTIVE : Fld := ⟨0x4, 14, 1⟩
@[reducible] def Reg.LOAD.CH_STATUS_CONDUCTING : Fld := ⟨0x4, 13, 1⟩
@[reducible] def Reg.LOAD.CH_STATUS_FRESH : Fld := ⟨0x4, 12, 1⟩
@[reducible] def Reg.LOAD.CH_STATUS_OPEN_LOAD : Fld := ⟨0x4, 7, 1⟩
@[reducible] def Reg.LOAD.CH_STATUS_STUCK_ON : Fld := ⟨0x4, 6, 1⟩
@[reducible] def Reg.LOAD.CH_STATUS_STUCK_OFF : Fld := ⟨0x4, 5, 1⟩
@[reducible] def Reg.LOAD.CH_STATUS_SHORT_BAT : Fld := ⟨0x4, 4, 1⟩
@[reducible] def Reg.LOAD.CH_EVENT_REFILL : Fld := ⟨0x8, 14, 1⟩
@[reducible] def Reg.LOAD.CH_EVENT_SAFE_ENTER : Fld := ⟨0x8, 13, 1⟩
@[reducible] def Reg.LOAD.CH_EVENT_FEED_OPEN : Fld := ⟨0x8, 12, 1⟩
@[reducible] def Reg.LOAD.CH_EVENT_SHORT_BAT : Fld := ⟨0x8, 11, 1⟩
@[reducible] def Reg.LOAD.CH_EVENT_STUCK_OFF : Fld := ⟨0x8, 10, 1⟩
@[reducible] def Reg.LOAD.CH_EVENT_STUCK_ON : Fld := ⟨0x8, 9, 1⟩
@[reducible] def Reg.LOAD.CH_EVENT_OPEN_LOAD : Fld := ⟨0x8, 8, 1⟩
@[reducible] def Reg.LOAD.CH_EVENT_TRIPPED : Fld := ⟨0x8, 7, 1⟩
@[reducible] def Reg.LOAD.CH_EVENT_LOCKED_OUT : Fld := ⟨0x8, 6, 1⟩
@[reducible] def Reg.LOAD.CH_EVENT_EXCUSED : Fld := ⟨0x8, 5, 1⟩
@[reducible] def Reg.LOAD.CH_EVENT_RESTART : Fld := ⟨0x8, 4, 1⟩
@[reducible] def Reg.LOAD.CH_EVENT_THERMAL_RELEASE : Fld := ⟨0x8, 3, 1⟩
@[reducible] def Reg.LOAD.CH_EVENT_THERMAL_SET : Fld := ⟨0x8, 2, 1⟩
@[reducible] def Reg.LOAD.CH_EVENT_SOFT_TRIP : Fld := ⟨0x8, 1, 1⟩
@[reducible] def Reg.LOAD.CH_EVENT_FAST_TRIP : Fld := ⟨0x8, 0, 1⟩
@[reducible] def Reg.LOAD.CUR_CURRENT : Fld := ⟨0xc, 0, 32⟩
@[reducible] def Reg.LOAD.CUR_RAW_CURRENT : Fld := ⟨0x10, 0, 32⟩
@[reducible] def Reg.LOAD.TJ_TEMP : Fld := ⟨0x14, 0, 16⟩
@[reducible] def Reg.LOAD.VOUT_VOLT : Fld := ⟨0x18, 0, 16⟩
@[reducible] def Reg.LOAD.I2T_ACC_ACC : Fld := ⟨0x1c, 0, 24⟩
@[reducible] def Reg.LOAD.CH_CFG_SAFE : Fld := ⟨0x20, 28, 2⟩
@[reducible] def Reg.LOAD.CH_CFG_SURGE_HOLD : Fld := ⟨0x20, 27, 1⟩
@[reducible] def Reg.LOAD.CH_CFG_SLEW : Fld := ⟨0x20, 24, 2⟩
@[reducible] def Reg.LOAD.CH_CFG_OL_RANGE : Fld := ⟨0x20, 20, 2⟩
@[reducible] def Reg.LOAD.CH_CFG_OL_THRESH : Fld := ⟨0x20, 8, 8⟩
@[reducible] def Reg.LOAD.CH_CFG_OL_TIME : Fld := ⟨0x20, 0, 8⟩
@[reducible] def Reg.LOAD.WARMUP_CFG_RETRY_MAX : Fld := ⟨0x24, 16, 4⟩
@[reducible] def Reg.LOAD.WARMUP_CFG_SPACING : Fld := ⟨0x24, 8, 5⟩
@[reducible] def Reg.LOAD.WARMUP_CFG_WINDOW : Fld := ⟨0x24, 0, 6⟩
@[reducible] def Reg.LOAD.SOFT_CFG_I_NOM : Fld := ⟨0x28, 0, 16⟩
@[reducible] def Reg.LOAD.SOFT_LIMIT_LIMIT : Fld := ⟨0x2c, 0, 24⟩
@[reducible] def Reg.LOAD.BRIDGE_CFG_PAIR : Fld := ⟨0x30, 31, 1⟩
@[reducible] def Reg.LOAD.BRIDGE_CFG_REVERSE_GAP : Fld := ⟨0x30, 8, 8⟩
@[reducible] def Reg.LOAD.BRIDGE_CFG_DEAD_TIME : Fld := ⟨0x30, 0, 5⟩
@[reducible] def Reg.LOAD.OP_OP : Fld := ⟨0x34, 0, 32⟩
@[reducible] def Reg.LOAD.LAST_TRIP_SAG_SRC : Fld := ⟨0x38, 16, 8⟩
@[reducible] def Reg.LOAD.LAST_TRIP_PEAK : Fld := ⟨0x38, 0, 16⟩
@[reducible] def Reg.LOAD.COUNTS_FAST_TRIPS : Fld := ⟨0x3c, 24, 8⟩
@[reducible] def Reg.LOAD.COUNTS_THERMAL : Fld := ⟨0x3c, 16, 8⟩
@[reducible] def Reg.LOAD.COUNTS_LOCKOUTS : Fld := ⟨0x3c, 8, 8⟩
@[reducible] def Reg.LOAD.COUNTS_EXCUSED : Fld := ⟨0x3c, 0, 8⟩
@[reducible] def Reg.LOAD.MISC_COUNTS_BAD_REQ : Fld := ⟨0x40, 16, 16⟩
@[reducible] def Reg.LOAD.MISC_COUNTS_IGNORED : Fld := ⟨0x40, 0, 16⟩
@[reducible] def Reg.LOAD.LOCK_LOCK : Fld := ⟨0xfc, 0, 1⟩

/-! Fields of page kind CHAR. -/

@[reducible] def Reg.CHAR.GEN_CTRL_MODE : Fld := ⟨0x0, 0, 2⟩
@[reducible] def Reg.CHAR.PERIOD_PERIOD : Fld := ⟨0x4, 0, 21⟩
@[reducible] def Reg.CHAR.DUTY_FADE : Fld := ⟨0x8, 16, 16⟩
@[reducible] def Reg.CHAR.DUTY_DUTY : Fld := ⟨0x8, 0, 16⟩
@[reducible] def Reg.CHAR.PATTERN_PATTERN : Fld := ⟨0xc, 0, 32⟩
@[reducible] def Reg.CHAR.FLASH_CFG_LENGTH_M1 : Fld := ⟨0x10, 16, 5⟩
@[reducible] def Reg.CHAR.FLASH_CFG_STEP : Fld := ⟨0x10, 0, 12⟩
@[reducible] def Reg.CHAR.STAGE_HOLD : Fld := ⟨0x14, 0, 1⟩
@[reducible] def Reg.CHAR.GEN_STATUS_LEVEL : Fld := ⟨0x18, 31, 1⟩
@[reducible] def Reg.CHAR.GEN_STATUS_STAGED : Fld := ⟨0x18, 30, 1⟩
@[reducible] def Reg.CHAR.GEN_STATUS_MODE : Fld := ⟨0x18, 28, 2⟩
@[reducible] def Reg.CHAR.GEN_STATUS_STOPPED : Fld := ⟨0x18, 27, 1⟩
@[reducible] def Reg.CHAR.GEN_STATUS_PHASE_IDX : Fld := ⟨0x18, 22, 5⟩
@[reducible] def Reg.CHAR.GEN_STATUS_FOLLOWERS : Fld := ⟨0x18, 16, 6⟩
@[reducible] def Reg.CHAR.GEN_STATUS_DUTY_NOW : Fld := ⟨0x18, 0, 16⟩
@[reducible] def Reg.CHAR.APPLIED_RES_BITS : Fld := ⟨0x1c, 27, 5⟩
@[reducible] def Reg.CHAR.APPLIED_PERIOD : Fld := ⟨0x1c, 0, 21⟩
@[reducible] def Reg.CHAR.GEN_EVENT_STOPPED : Fld := ⟨0x20, 2, 1⟩
@[reducible] def Reg.CHAR.GEN_EVENT_RESYNC : Fld := ⟨0x20, 1, 1⟩
@[reducible] def Reg.CHAR.GEN_EVENT_APPLIED : Fld := ⟨0x20, 0, 1⟩
@[reducible] def Reg.CHAR.COUNTS_BAD_WRITE : Fld := ⟨0x24, 16, 16⟩
@[reducible] def Reg.CHAR.COUNTS_RESYNC : Fld := ⟨0x24, 8, 8⟩
@[reducible] def Reg.CHAR.COUNTS_STOPS : Fld := ⟨0x24, 0, 8⟩

/-! Fields of page kind CAL. -/

@[reducible] def Reg.CAL.CAL_STATUS_CONVERGED : Fld := ⟨0x0, 31, 1⟩
@[reducible] def Reg.CAL.CAL_STATUS_FROZEN : Fld := ⟨0x0, 30, 1⟩
@[reducible] def Reg.CAL.CAL_STATUS_FREEZE_CAUSE : Fld := ⟨0x0, 26, 3⟩
@[reducible] def Reg.CAL.CAL_STATUS_SMALL : Fld := ⟨0x0, 16, 2⟩
@[reducible] def Reg.CAL.CAL_STATUS_BLOCKS : Fld := ⟨0x0, 8, 8⟩
@[reducible] def Reg.CAL.CAL_STATUS_EDGES : Fld := ⟨0x0, 0, 8⟩
@[reducible] def Reg.CAL.GAIN_G : Fld := ⟨0x4, 0, 17⟩
@[reducible] def Reg.CAL.OFFSET_O : Fld := ⟨0x8, 0, 16⟩
@[reducible] def Reg.CAL.EST_GAIN_G_EST : Fld := ⟨0xc, 0, 17⟩
@[reducible] def Reg.CAL.EST_OFFSET_O_EST : Fld := ⟨0x10, 0, 16⟩
@[reducible] def Reg.CAL.CAL_CTRL_RESTART : Fld := ⟨0x14, 1, 1⟩
@[reducible] def Reg.CAL.CAL_CTRL_ENABLE : Fld := ⟨0x14, 0, 1⟩
@[reducible] def Reg.CAL.CAL_EVENT_STALE : Fld := ⟨0x18, 3, 1⟩
@[reducible] def Reg.CAL.CAL_EVENT_CONVERGED : Fld := ⟨0x18, 2, 1⟩
@[reducible] def Reg.CAL.CAL_EVENT_CAL_BOUND : Fld := ⟨0x18, 1, 1⟩
@[reducible] def Reg.CAL.CAL_EVENT_UPDATED : Fld := ⟨0x18, 0, 1⟩
@[reducible] def Reg.CAL.CAL_COUNTS_REJ_NEIGHBOUR : Fld := ⟨0x1c, 24, 8⟩
@[reducible] def Reg.CAL.CAL_COUNTS_REJ_SMALL : Fld := ⟨0x1c, 16, 8⟩
@[reducible] def Reg.CAL.CAL_COUNTS_REJ_OUTLIER : Fld := ⟨0x1c, 8, 8⟩
@[reducible] def Reg.CAL.CAL_COUNTS_REJ_STATE : Fld := ⟨0x1c, 0, 8⟩
@[reducible] def Reg.CAL.LOCK_LOCK : Fld := ⟨0xfc, 0, 1⟩

/-! Fields of page kind SHUNT. -/

@[reducible] def Reg.SHUNT.FEED_A_CURRENT : Fld := ⟨0x0, 0, 32⟩
@[reducible] def Reg.SHUNT.FEED_B_CURRENT : Fld := ⟨0x4, 0, 32⟩
@[reducible] def Reg.SHUNT.FEED_AVG_B : Fld := ⟨0x8, 16, 16⟩
@[reducible] def Reg.SHUNT.FEED_AVG_A : Fld := ⟨0x8, 0, 16⟩
@[reducible] def Reg.SHUNT.ELEC_B : Fld := ⟨0xc, 16, 16⟩
@[reducible] def Reg.SHUNT.ELEC_A : Fld := ⟨0xc, 0, 16⟩
@[reducible] def Reg.SHUNT.SHUNT_STATUS_RECORD_LOST : Fld := ⟨0x10, 2, 1⟩
@[reducible] def Reg.SHUNT.SHUNT_STATUS_SAT_B : Fld := ⟨0x10, 1, 1⟩
@[reducible] def Reg.SHUNT.SHUNT_STATUS_SAT_A : Fld := ⟨0x10, 0, 1⟩
@[reducible] def Reg.SHUNT.SHUNT_COUNTS_SAT_B : Fld := ⟨0x14, 16, 16⟩
@[reducible] def Reg.SHUNT.SHUNT_COUNTS_SAT_A : Fld := ⟨0x14, 0, 16⟩

/-! Fields of page kind BAL. -/

@[reducible] def Reg.BAL.BAL_STATUS_MARGIN_LOW_B : Fld := ⟨0x0, 5, 1⟩
@[reducible] def Reg.BAL.BAL_STATUS_MARGIN_LOW_A : Fld := ⟨0x0, 4, 1⟩
@[reducible] def Reg.BAL.BAL_STATUS_SUSP_B : Fld := ⟨0x0, 3, 1⟩
@[reducible] def Reg.BAL.BAL_STATUS_SUSP_A : Fld := ⟨0x0, 2, 1⟩
@[reducible] def Reg.BAL.BAL_STATUS_FAULT_B : Fld := ⟨0x0, 1, 1⟩
@[reducible] def Reg.BAL.BAL_STATUS_FAULT_A : Fld := ⟨0x0, 0, 1⟩
@[reducible] def Reg.BAL.RESIDUAL_B : Fld := ⟨0x4, 16, 16⟩
@[reducible] def Reg.BAL.RESIDUAL_A : Fld := ⟨0x4, 0, 16⟩
@[reducible] def Reg.BAL.UNCERTAINTY_B : Fld := ⟨0x8, 16, 16⟩
@[reducible] def Reg.BAL.UNCERTAINTY_A : Fld := ⟨0x8, 0, 16⟩
@[reducible] def Reg.BAL.PEAK_RESIDUAL_B : Fld := ⟨0xc, 16, 16⟩
@[reducible] def Reg.BAL.PEAK_RESIDUAL_A : Fld := ⟨0xc, 0, 16⟩
@[reducible] def Reg.BAL.BAL_EVENT_FAULT_B : Fld := ⟨0x10, 1, 1⟩
@[reducible] def Reg.BAL.BAL_EVENT_FAULT_A : Fld := ⟨0x10, 0, 1⟩
@[reducible] def Reg.BAL.BAL_COUNTS_B : Fld := ⟨0x14, 16, 16⟩
@[reducible] def Reg.BAL.BAL_COUNTS_A : Fld := ⟨0x14, 0, 16⟩

/-! Fields of page kind RING. -/

@[reducible] def Reg.RING.RING_CTRL_RESTART : Fld := ⟨0x0, 31, 1⟩
@[reducible] def Reg.RING.RING_CTRL_LINKS : Fld := ⟨0x0, 16, 7⟩
@[reducible] def Reg.RING.RING_CTRL_ENABLE : Fld := ⟨0x0, 8, 1⟩
@[reducible] def Reg.RING.RING_CTRL_EAST : Fld := ⟨0x0, 4, 2⟩
@[reducible] def Reg.RING.RING_CTRL_WEST : Fld := ⟨0x0, 0, 2⟩
@[reducible] def Reg.RING.RING_STATUS_RUNNING : Fld := ⟨0x4, 31, 1⟩
@[reducible] def Reg.RING.RING_STATUS_FROZEN : Fld := ⟨0x4, 30, 1⟩
@[reducible] def Reg.RING.RING_STATUS_UPDATES : Fld := ⟨0x4, 0, 16⟩
@[reducible] def Reg.RING.DISCREPANCY_D : Fld := ⟨0x8, 0, 32⟩
@[reducible] def Reg.RING.SHARE_S : Fld := ⟨0xc, 0, 32⟩
@[reducible] def Reg.RING.BASE_WEST_BASE : Fld := ⟨0x10, 0, 32⟩
@[reducible] def Reg.RING.BASE_EAST_BASE : Fld := ⟨0x14, 0, 32⟩
@[reducible] def Reg.RING.APPLIED_WEST_APPLIED : Fld := ⟨0x18, 0, 32⟩
@[reducible] def Reg.RING.APPLIED_EAST_APPLIED : Fld := ⟨0x1c, 0, 32⟩
@[reducible] def Reg.RING.RING_EVENT_RING_BOUND : Fld := ⟨0x20, 1, 1⟩
@[reducible] def Reg.RING.RING_EVENT_UPDATED : Fld := ⟨0x20, 0, 1⟩
@[reducible] def Reg.RING.LOCK_LOCK : Fld := ⟨0xfc, 0, 1⟩

/-! Fields of page kind SW0. -/

@[reducible] def Reg.SW0.SW_STATUS_CUT_THROUGH : Fld := ⟨0x0, 25, 1⟩
@[reducible] def Reg.SW0.SW_STATUS_PLAN : Fld := ⟨0x0, 24, 1⟩
@[reducible] def Reg.SW0.SW_STATUS_GRANT_CELLS : Fld := ⟨0x0, 8, 5⟩
@[reducible] def Reg.SW0.SW_STATUS_ACTIVE : Fld := ⟨0x0, 0, 6⟩
@[reducible] def Reg.SW0.SCHED_CFG_FORCE_FULL : Fld := ⟨0x4, 0, 1⟩
@[reducible] def Reg.SW0.BUF_FREE_FREE : Fld := ⟨0x8, 0, 18⟩
@[reducible] def Reg.SW0.BUF_GUAR_SUM : Fld := ⟨0xc, 0, 17⟩
@[reducible] def Reg.SW0.BUF_EVENT_POOL_EMPTY : Fld := ⟨0x10, 1, 1⟩
@[reducible] def Reg.SW0.BUF_EVENT_GUAR_REJECT : Fld := ⟨0x10, 0, 1⟩
@[reducible] def Reg.SW0.BUF_ECC_UE : Fld := ⟨0x14, 16, 16⟩
@[reducible] def Reg.SW0.BUF_ECC_CE : Fld := ⟨0x14, 0, 16⟩
@[reducible] def Reg.SW0.MISC_CFG_REJECT : Fld := ⟨0x18, 0, 16⟩
@[reducible] def Reg.SW0.MISS_MIRROR_EN : Fld := ⟨0x1c, 2, 1⟩
@[reducible] def Reg.SW0.MISS_MIRROR_SESSION : Fld := ⟨0x1c, 0, 2⟩
@[reducible] def Reg.SW0.LOCK_LOCK : Fld := ⟨0xfc, 0, 1⟩

/-! Fields of page kind SWP. -/

@[reducible] def Reg.SWP.PORT_CFG_ENABLE : Fld := ⟨0x0, 31, 1⟩
@[reducible] def Reg.SWP.PORT_CFG_PVID : Fld := ⟨0x0, 16, 12⟩
@[reducible] def Reg.SWP.PORT_CFG_ACCEPT : Fld := ⟨0x0, 14, 2⟩
@[reducible] def Reg.SWP.PORT_CFG_UNTAG_PVID : Fld := ⟨0x0, 13, 1⟩
@[reducible] def Reg.SWP.PORT_CFG_COLOUR_AWARE : Fld := ⟨0x0, 12, 1⟩
@[reducible] def Reg.SWP.PORT_CFG_MARK_DEI : Fld := ⟨0x0, 11, 1⟩
@[reducible] def Reg.SWP.PORT_CFG_DEFAULT_PCP : Fld := ⟨0x0, 8, 3⟩
@[reducible] def Reg.SWP.PCP_MAP_MAP : Fld := ⟨0x4, 0, 24⟩
@[reducible] def Reg.SWP.MAX_FRAME_BYTES : Fld := ⟨0x8, 0, 14⟩
@[reducible] def Reg.SWP.LINK_HOLD_HOLD : Fld := ⟨0xc, 0, 16⟩
@[reducible] def Reg.SWP.GATE_CTRL_COMMIT : Fld := ⟨0x10, 31, 1⟩
@[reducible] def Reg.SWP.GATE_CTRL_GATES_EN : Fld := ⟨0x10, 30, 1⟩
@[reducible] def Reg.SWP.GATE_CTRL_OPER_BANK : Fld := ⟨0x10, 24, 1⟩
@[reducible] def Reg.SWP.GATE_CTRL_STAGED_COUNT : Fld := ⟨0x10, 16, 8⟩
@[reducible] def Reg.SWP.GCL_CYCLE_CYCLE : Fld := ⟨0x14, 0, 30⟩
@[reducible] def Reg.SWP.GCL_OFFSET_OFFSET : Fld := ⟨0x18, 0, 30⟩
@[reducible] def Reg.SWP.GATE_STATUS_PENDING : Fld := ⟨0x1c, 31, 1⟩
@[reducible] def Reg.SWP.GATE_STATUS_INDEX : Fld := ⟨0x1c, 16, 8⟩
@[reducible] def Reg.SWP.GATE_STATUS_STATES : Fld := ⟨0x1c, 0, 8⟩
@[reducible] def Reg.SWP.TC_CFG_SCHEDULED : Fld := ⟨0x20, 31, 1⟩
@[reducible] def Reg.SWP.TC_CFG_CBS_EN : Fld := ⟨0x20, 30, 1⟩
@[reducible] def Reg.SWP.TC_CFG_WRED_EN : Fld := ⟨0x20, 29, 1⟩
@[reducible] def Reg.SWP.TC_CFG_ALPHA : Fld := ⟨0x20, 26, 3⟩
@[reducible] def Reg.SWP.TC_CFG_GUAR : Fld := ⟨0x20, 12, 12⟩
@[reducible] def Reg.SWP.TC_AGE_AGE : Fld := ⟨0x40, 0, 16⟩
@[reducible] def Reg.SWP.PORT_EVENT_CFG_REJECT : Fld := ⟨0x60, 6, 1⟩
@[reducible] def Reg.SWP.PORT_EVENT_GATE_RESYNC : Fld := ⟨0x60, 5, 1⟩
@[reducible] def Reg.SWP.PORT_EVENT_GATE_APPLIED : Fld := ⟨0x60, 4, 1⟩
@[reducible] def Reg.SWP.PORT_EVENT_GATE_REJECT : Fld := ⟨0x60, 3, 1⟩
@[reducible] def Reg.SWP.PORT_EVENT_HOLD_EXPIRED : Fld := ⟨0x60, 2, 1⟩
@[reducible] def Reg.SWP.PORT_EVENT_LINK_UP : Fld := ⟨0x60, 1, 1⟩
@[reducible] def Reg.SWP.PORT_EVENT_LINK_DOWN : Fld := ⟨0x60, 0, 1⟩
@[reducible] def Reg.SWP.PORT_STATE_HOLD_LEFT : Fld := ⟨0x64, 16, 16⟩
@[reducible] def Reg.SWP.PORT_STATE_LINK_STATE : Fld := ⟨0x64, 0, 2⟩
@[reducible] def Reg.SWP.INGRESS_LIMIT_CELLS : Fld := ⟨0x68, 0, 17⟩
@[reducible] def Reg.SWP.WAIT_CELLS_CELLS : Fld := ⟨0x6c, 0, 17⟩
@[reducible] def Reg.SWP.LOCK_LOCK : Fld := ⟨0xfc, 0, 1⟩

/-! Fields of page kind PORT. -/

@[reducible] def Reg.PORT.PHY_CFG_PLCA_TO : Fld := ⟨0x0, 16, 8⟩
@[reducible] def Reg.PORT.PHY_CFG_PLCA_COUNT : Fld := ⟨0x0, 12, 4⟩
@[reducible] def Reg.PORT.PHY_CFG_PLCA_ID : Fld := ⟨0x0, 8, 4⟩
@[reducible] def Reg.PORT.PHY_CFG_PLCA_EN : Fld := ⟨0x0, 5, 1⟩
@[reducible] def Reg.PORT.PHY_CFG_EEE_PERMIT : Fld := ⟨0x0, 4, 1⟩
@[reducible] def Reg.PORT.PHY_CFG_ROLE : Fld := ⟨0x0, 2, 2⟩
@[reducible] def Reg.PORT.PHY_CFG_SPEED : Fld := ⟨0x0, 0, 2⟩
@[reducible] def Reg.PORT.PHY_STATUS_PLCA_BEACON : Fld := ⟨0x4, 12, 1⟩
@[reducible] def Reg.PORT.PHY_STATUS_PLCA_ACTIVE : Fld := ⟨0x4, 11, 1⟩
@[reducible] def Reg.PORT.PHY_STATUS_SQI : Fld := ⟨0x4, 8, 3⟩
@[reducible] def Reg.PORT.PHY_STATUS_LPI : Fld := ⟨0x4, 6, 1⟩
@[reducible] def Reg.PORT.PHY_STATUS_ROLE_NOW : Fld := ⟨0x4, 4, 2⟩
@[reducible] def Reg.PORT.PHY_STATUS_SPEED_NOW : Fld := ⟨0x4, 1, 3⟩
@[reducible] def Reg.PORT.PHY_STATUS_LINK : Fld := ⟨0x4, 0, 1⟩
@[reducible] def Reg.PORT.PHY_EVENT_SA_REJECT : Fld := ⟨0x8, 4, 1⟩
@[reducible] def Reg.PORT.PHY_EVENT_PN_NEAR : Fld := ⟨0x8, 3, 1⟩
@[reducible] def Reg.PORT.PHY_EVENT_SQI_LOW : Fld := ⟨0x8, 2, 1⟩
@[reducible] def Reg.PORT.PHY_EVENT_LINK_DOWN : Fld := ⟨0x8, 1, 1⟩
@[reducible] def Reg.PORT.PHY_EVENT_LINK_UP : Fld := ⟨0x8, 0, 1⟩
@[reducible] def Reg.PORT.PHY_COUNTS_LINK_DOWNS : Fld := ⟨0xc, 16, 16⟩
@[reducible] def Reg.PORT.PHY_COUNTS_CFG_REJECT : Fld := ⟨0xc, 0, 16⟩
@[reducible] def Reg.PORT.SQI_WARN_LEVEL : Fld := ⟨0x10, 0, 3⟩
@[reducible] def Reg.PORT.MACSEC_CFG_PTP_BYPASS : Fld := ⟨0x14, 7, 1⟩
@[reducible] def Reg.PORT.MACSEC_CFG_REPLAY_PROTECT : Fld := ⟨0x14, 6, 1⟩
@[reducible] def Reg.PORT.MACSEC_CFG_VALIDATE : Fld := ⟨0x14, 4, 2⟩
@[reducible] def Reg.PORT.MACSEC_CFG_CONFIDENTIAL : Fld := ⟨0x14, 3, 1⟩
@[reducible] def Reg.PORT.MACSEC_CFG_CIPHER : Fld := ⟨0x14, 1, 2⟩
@[reducible] def Reg.PORT.MACSEC_CFG_EN : Fld := ⟨0x14, 0, 1⟩
@[reducible] def Reg.PORT.REPLAY_WINDOW_WINDOW : Fld := ⟨0x18, 0, 32⟩
@[reducible] def Reg.PORT.LOCK_LOCK : Fld := ⟨0xfc, 0, 1⟩

/-! Fields of page kind TIME0. -/

@[reducible] def Reg.TIME0.TIME_STATUS_INTEGRITY_FAULT : Fld := ⟨0x0, 12, 1⟩
@[reducible] def Reg.TIME0.TIME_STATUS_GM : Fld := ⟨0x0, 11, 1⟩
@[reducible] def Reg.TIME0.TIME_STATUS_PPS_SEEN : Fld := ⟨0x0, 10, 1⟩
@[reducible] def Reg.TIME0.TIME_STATUS_SLEWING : Fld := ⟨0x0, 9, 1⟩
@[reducible] def Reg.TIME0.TIME_STATUS_REFUSING : Fld := ⟨0x0, 8, 1⟩
@[reducible] def Reg.TIME0.TIME_STATUS_SOURCE_NOW : Fld := ⟨0x0, 4, 2⟩
@[reducible] def Reg.TIME0.TIME_STATUS_STATE : Fld := ⟨0x0, 0, 3⟩
@[reducible] def Reg.TIME0.SERVO_CFG_PHASE_PPM : Fld := ⟨0x4, 16, 8⟩
@[reducible] def Reg.TIME0.SERVO_CFG_REFUSE_COUNT : Fld := ⟨0x4, 8, 4⟩
@[reducible] def Reg.TIME0.SERVO_CFG_RING : Fld := ⟨0x4, 2, 1⟩
@[reducible] def Reg.TIME0.SERVO_CFG_SOURCE : Fld := ⟨0x4, 0, 2⟩
@[reducible] def Reg.TIME0.JUMP_THRESH_NS : Fld := ⟨0x8, 0, 30⟩
@[reducible] def Reg.TIME0.SLEW_LIMIT_NS : Fld := ⟨0xc, 0, 30⟩
@[reducible] def Reg.TIME0.OFFSET_NS : Fld := ⟨0x10, 0, 32⟩
@[reducible] def Reg.TIME0.REFUSED_OFFSET_NS : Fld := ⟨0x14, 0, 32⟩
@[reducible] def Reg.TIME0.INC_LO_INC : Fld := ⟨0x18, 0, 32⟩
@[reducible] def Reg.TIME0.INC_HI_INC : Fld := ⟨0x1c, 0, 8⟩
@[reducible] def Reg.TIME0.RATE_PPB : Fld := ⟨0x20, 0, 32⟩
@[reducible] def Reg.TIME0.HOLDOVER_MS_MS : Fld := ⟨0x24, 0, 32⟩
@[reducible] def Reg.TIME0.SNAP_SNAP : Fld := ⟨0x28, 0, 1⟩
@[reducible] def Reg.TIME0.SNAP_NS_NS : Fld := ⟨0x2c, 0, 32⟩
@[reducible] def Reg.TIME0.SNAP_SEC_LO_SEC : Fld := ⟨0x30, 0, 32⟩
@[reducible] def Reg.TIME0.SNAP_SEC_HI_FRAC : Fld := ⟨0x34, 16, 8⟩
@[reducible] def Reg.TIME0.SNAP_SEC_HI_SEC : Fld := ⟨0x34, 0, 16⟩
@[reducible] def Reg.TIME0.UTC_OFFSET_VALID : Fld := ⟨0x38, 16, 1⟩
@[reducible] def Reg.TIME0.UTC_OFFSET_SECONDS : Fld := ⟨0x38, 0, 16⟩
@[reducible] def Reg.TIME0.PPS_CFG_WINDOW : Fld := ⟨0x3c, 16, 16⟩
@[reducible] def Reg.TIME0.PPS_CFG_DELAY_NS : Fld := ⟨0x3c, 0, 16⟩
@[reducible] def Reg.TIME0.PPS_NEXT_SEC_LO_SEC : Fld := ⟨0x40, 0, 32⟩
@[reducible] def Reg.TIME0.PPS_NEXT_SEC_HI_SEC : Fld := ⟨0x44, 0, 16⟩
@[reducible] def Reg.TIME0.INST0_CFG_EN : Fld := ⟨0x48, 31, 1⟩
@[reducible] def Reg.TIME0.INST0_CFG_EXT : Fld := ⟨0x48, 30, 1⟩
@[reducible] def Reg.TIME0.INST0_CFG_SYNC_LOG : Fld := ⟨0x48, 27, 3⟩
@[reducible] def Reg.TIME0.INST0_CFG_DOMAIN : Fld := ⟨0x48, 16, 8⟩
@[reducible] def Reg.TIME0.INST0_CFG_CMLDS : Fld := ⟨0x48, 3, 1⟩
@[reducible] def Reg.TIME0.INST0_CFG_SLAVE_PORT : Fld := ⟨0x48, 0, 3⟩
@[reducible] def Reg.TIME0.INST0_MASTER_MASK : Fld := ⟨0x4c, 0, 24⟩
@[reducible] def Reg.TIME0.INST1_CFG_EN : Fld := ⟨0x50, 31, 1⟩
@[reducible] def Reg.TIME0.INST1_CFG_EXT : Fld := ⟨0x50, 30, 1⟩
@[reducible] def Reg.TIME0.INST1_CFG_SYNC_LOG : Fld := ⟨0x50, 27, 3⟩
@[reducible] def Reg.TIME0.INST1_CFG_DOMAIN : Fld := ⟨0x50, 16, 8⟩
@[reducible] def Reg.TIME0.INST1_CFG_CMLDS : Fld := ⟨0x50, 3, 1⟩
@[reducible] def Reg.TIME0.INST1_CFG_SLAVE_PORT : Fld := ⟨0x50, 0, 3⟩
@[reducible] def Reg.TIME0.INST1_MASTER_MASK : Fld := ⟨0x54, 0, 24⟩
@[reducible] def Reg.TIME0.INST_STATUS_LOCKED1 : Fld := ⟨0x58, 1, 1⟩
@[reducible] def Reg.TIME0.INST_STATUS_LOCKED0 : Fld := ⟨0x58, 0, 1⟩
@[reducible] def Reg.TIME0.GM0_LO_ID : Fld := ⟨0x60, 0, 32⟩
@[reducible] def Reg.TIME0.GM0_HI_ID : Fld := ⟨0x64, 0, 32⟩
@[reducible] def Reg.TIME0.GM1_LO_ID : Fld := ⟨0x68, 0, 32⟩
@[reducible] def Reg.TIME0.GM1_HI_ID : Fld := ⟨0x6c, 0, 32⟩
@[reducible] def Reg.TIME0.TIME_EVENT_ACQUIRED : Fld := ⟨0x70, 8, 1⟩
@[reducible] def Reg.TIME0.TIME_EVENT_SOURCE_SWITCH : Fld := ⟨0x70, 7, 1⟩
@[reducible] def Reg.TIME0.TIME_EVENT_INTEGRITY : Fld := ⟨0x70, 6, 1⟩
@[reducible] def Reg.TIME0.TIME_EVENT_PPS_LOST : Fld := ⟨0x70, 5, 1⟩
@[reducible] def Reg.TIME0.TIME_EVENT_GM_CHANGE : Fld := ⟨0x70, 4, 1⟩
@[reducible] def Reg.TIME0.TIME_EVENT_HOLDOVER_EXIT : Fld := ⟨0x70, 3, 1⟩
@[reducible] def Reg.TIME0.TIME_EVENT_HOLDOVER_ENTER : Fld := ⟨0x70, 2, 1⟩
@[reducible] def Reg.TIME0.TIME_EVENT_STEPPED : Fld := ⟨0x70, 1, 1⟩
@[reducible] def Reg.TIME0.TIME_EVENT_JUMP_REFUSED : Fld := ⟨0x70, 0, 1⟩
@[reducible] def Reg.TIME0.TIME_COUNTS_REFUSED : Fld := ⟨0x74, 24, 8⟩
@[reducible] def Reg.TIME0.TIME_COUNTS_STEPS : Fld := ⟨0x74, 16, 8⟩
@[reducible] def Reg.TIME0.TIME_COUNTS_HOLDOVERS : Fld := ⟨0x74, 8, 8⟩
@[reducible] def Reg.TIME0.TIME_COUNTS_GM_CHANGES : Fld := ⟨0x74, 0, 8⟩
@[reducible] def Reg.TIME0.PPS_COUNTS_OUTSIDE_WINDOW : Fld := ⟨0x78, 16, 16⟩
@[reducible] def Reg.TIME0.PPS_COUNTS_EDGES : Fld := ⟨0x78, 0, 16⟩
@[reducible] def Reg.TIME0.LOCK_LOCK : Fld := ⟨0xfc, 0, 1⟩

/-! Fields of page kind TIME1. -/

@[reducible] def Reg.TIME1.NODE_NODE : Fld := ⟨0x0, 0, 18⟩
@[reducible] def Reg.TIME1.DOMAIN_ID_ID : Fld := ⟨0x4, 0, 32⟩
@[reducible] def Reg.TIME1.NODE_NEXT_NODE : Fld := ⟨0x8, 0, 18⟩
@[reducible] def Reg.TIME1.DOMAIN_NEXT_ID : Fld := ⟨0xc, 0, 32⟩
@[reducible] def Reg.TIME1.GLOBAL_STATUS_PENDING : Fld := ⟨0x10, 0, 5⟩
@[reducible] def Reg.TIME1.GLOBAL_MARK_MARK : Fld := ⟨0x14, 0, 16⟩
@[reducible] def Reg.TIME1.GLOBAL_COUNTS_EXECUTED : Fld := ⟨0x18, 24, 8⟩
@[reducible] def Reg.TIME1.GLOBAL_COUNTS_CANCELLED : Fld := ⟨0x18, 16, 8⟩
@[reducible] def Reg.TIME1.GLOBAL_COUNTS_DISCARDED : Fld := ⟨0x18, 8, 8⟩
@[reducible] def Reg.TIME1.GLOBAL_COUNTS_TOO_LATE : Fld := ⟨0x18, 0, 8⟩
@[reducible] def Reg.TIME1.LOCK_LOCK : Fld := ⟨0xfc, 0, 1⟩

/-! Fields of page kind TSQ. -/

@[reducible] def Reg.TSQ.TSQ_STATUS_OVF : Fld := ⟨0x0, 8, 1⟩
@[reducible] def Reg.TSQ.TSQ_STATUS_LEVEL : Fld := ⟨0x0, 0, 5⟩
@[reducible] def Reg.TSQ.HEAD_TAG_VALID : Fld := ⟨0x4, 31, 1⟩
@[reducible] def Reg.TSQ.HEAD_TAG_PORT : Fld := ⟨0x4, 16, 5⟩
@[reducible] def Reg.TSQ.HEAD_TAG_TAG : Fld := ⟨0x4, 0, 16⟩
@[reducible] def Reg.TSQ.HEAD_NS_NS : Fld := ⟨0x8, 0, 32⟩
@[reducible] def Reg.TSQ.HEAD_SEC_LO_SEC : Fld := ⟨0xc, 0, 32⟩
@[reducible] def Reg.TSQ.HEAD_SEC_HI_FRAC : Fld := ⟨0x10, 16, 8⟩
@[reducible] def Reg.TSQ.HEAD_SEC_HI_SEC : Fld := ⟨0x10, 0, 16⟩
@[reducible] def Reg.TSQ.TSQ_POP_POP : Fld := ⟨0x14, 0, 1⟩
@[reducible] def Reg.TSQ.TSQ_EVENT_TSQ_OVF : Fld := ⟨0x18, 0, 1⟩
@[reducible] def Reg.TSQ.TSQ_COUNTS_STAMPED : Fld := ⟨0x1c, 16, 16⟩
@[reducible] def Reg.TSQ.TSQ_COUNTS_LOST : Fld := ⟨0x1c, 0, 16⟩

/-! Fields of page kind CAN. -/

@[reducible] def Reg.CAN.CHAN_CFG_EN : Fld := ⟨0x0, 31, 1⟩
@[reducible] def Reg.CAN.CHAN_CFG_FD_EN : Fld := ⟨0x0, 30, 1⟩
@[reducible] def Reg.CAN.CHAN_CFG_XL_EN : Fld := ⟨0x0, 29, 1⟩
@[reducible] def Reg.CAN.CHAN_CFG_LISTEN : Fld := ⟨0x0, 28, 1⟩
@[reducible] def Reg.CAN.CHAN_CFG_ACCEPT_ALL : Fld := ⟨0x0, 27, 1⟩
@[reducible] def Reg.CAN.CHAN_CFG_ALONE_LIMIT : Fld := ⟨0x0, 16, 8⟩
@[reducible] def Reg.CAN.CHAN_CFG_TX_EXPIRE : Fld := ⟨0x0, 0, 16⟩
@[reducible] def Reg.CAN.NBT_SJW : Fld := ⟨0x4, 25, 7⟩
@[reducible] def Reg.CAN.NBT_TSEG1 : Fld := ⟨0x4, 16, 9⟩
@[reducible] def Reg.CAN.NBT_TSEG2 : Fld := ⟨0x4, 9, 7⟩
@[reducible] def Reg.CAN.NBT_BRP : Fld := ⟨0x4, 0, 9⟩
@[reducible] def Reg.CAN.DBT_SJW : Fld := ⟨0x8, 28, 4⟩
@[reducible] def Reg.CAN.DBT_TSEG1 : Fld := ⟨0x8, 23, 5⟩
@[reducible] def Reg.CAN.DBT_TSEG2 : Fld := ⟨0x8, 19, 4⟩
@[reducible] def Reg.CAN.DBT_BRP : Fld := ⟨0x8, 14, 5⟩
@[reducible] def Reg.CAN.DBT_TDCO : Fld := ⟨0x8, 0, 8⟩
@[reducible] def Reg.CAN.XBT_SJW : Fld := ⟨0xc, 28, 4⟩
@[reducible] def Reg.CAN.XBT_TSEG1 : Fld := ⟨0xc, 23, 5⟩
@[reducible] def Reg.CAN.XBT_TSEG2 : Fld := ⟨0xc, 19, 4⟩
@[reducible] def Reg.CAN.XBT_BRP : Fld := ⟨0xc, 14, 5⟩
@[reducible] def Reg.CAN.XBT_TDCO : Fld := ⟨0xc, 0, 8⟩
@[reducible] def Reg.CAN.CHAN_STATUS_ERR_STATE : Fld := ⟨0x10, 30, 2⟩
@[reducible] def Reg.CAN.CHAN_STATUS_ALONE : Fld := ⟨0x10, 29, 1⟩
@[reducible] def Reg.CAN.CHAN_STATUS_TX_ACTIVE : Fld := ⟨0x10, 28, 1⟩
@[reducible] def Reg.CAN.CHAN_STATUS_PENDING : Fld := ⟨0x10, 24, 4⟩
@[reducible] def Reg.CAN.CHAN_STATUS_REC : Fld := ⟨0x10, 16, 8⟩
@[reducible] def Reg.CAN.CHAN_STATUS_TEC : Fld := ⟨0x10, 0, 9⟩
@[reducible] def Reg.CAN.CHAN_EVENT_CFG_REJECT : Fld := ⟨0x14, 8, 1⟩
@[reducible] def Reg.CAN.CHAN_EVENT_WAKE : Fld := ⟨0x14, 7, 1⟩
@[reducible] def Reg.CAN.CHAN_EVENT_REF_MISSED : Fld := ⟨0x14, 6, 1⟩
@[reducible] def Reg.CAN.CHAN_EVENT_DUP_ID_SUSPECT : Fld := ⟨0x14, 5, 1⟩
@[reducible] def Reg.CAN.CHAN_EVENT_RX_LOST : Fld := ⟨0x14, 4, 1⟩
@[reducible] def Reg.CAN.CHAN_EVENT_BUS_OFF : Fld := ⟨0x14, 3, 1⟩
@[reducible] def Reg.CAN.CHAN_EVENT_ERR_PASSIVE : Fld := ⟨0x14, 2, 1⟩
@[reducible] def Reg.CAN.CHAN_EVENT_ALONE : Fld := ⟨0x14, 1, 1⟩
@[reducible] def Reg.CAN.CHAN_EVENT_RX_TOO_LONG : Fld := ⟨0x14, 0, 1⟩
@[reducible] def Reg.CAN.TX_START_OP : Fld := ⟨0x18, 0, 32⟩
@[reducible] def Reg.CAN.CHAN_OP_OP : Fld := ⟨0x1c, 0, 32⟩
@[reducible] def Reg.CAN.RX_PTRS_ACK : Fld := ⟨0x20, 16, 9⟩
@[reducible] def Reg.CAN.RX_PTRS_FILL : Fld := ⟨0x20, 0, 9⟩
@[reducible] def Reg.CAN.RX_ACK_ACK : Fld := ⟨0x24, 0, 9⟩
@[reducible] def Reg.CAN.RX_CFG_OWNER_KIND : Fld := ⟨0x28, 30, 2⟩
@[reducible] def Reg.CAN.RX_CFG_ENTRY_SIZE : Fld := ⟨0x28, 29, 1⟩
@[reducible] def Reg.CAN.RX_CFG_WORLD : Fld := ⟨0x28, 12, 1⟩
@[reducible] def Reg.CAN.RX_CFG_MOORING : Fld := ⟨0x28, 0, 12⟩
@[reducible] def Reg.CAN.RX_BASE_LO_ADDR : Fld := ⟨0x2c, 0, 32⟩
@[reducible] def Reg.CAN.RX_BASE_HI_ADDR : Fld := ⟨0x30, 0, 32⟩
@[reducible] def Reg.CAN.RX_HEAD_ID_ID : Fld := ⟨0x34, 0, 32⟩
@[reducible] def Reg.CAN.RX_HEAD_FLAGS_FLAGS : Fld := ⟨0x38, 0, 32⟩
@[reducible] def Reg.CAN.RX_NOTICE_US : Fld := ⟨0x3c, 0, 16⟩
@[reducible] def Reg.CAN.RX_COUNTS_LOST : Fld := ⟨0x40, 16, 16⟩
@[reducible] def Reg.CAN.RX_COUNTS_TOO_LONG : Fld := ⟨0x40, 8, 8⟩
@[reducible] def Reg.CAN.RX_COUNTS_ACK_REJECT : Fld := ⟨0x40, 0, 8⟩
@[reducible] def Reg.CAN.RX_FILTERED_COUNT : Fld := ⟨0x44, 0, 32⟩
@[reducible] def Reg.CAN.TX_COUNTS_OK : Fld := ⟨0x48, 16, 16⟩
@[reducible] def Reg.CAN.TX_COUNTS_FAIL : Fld := ⟨0x48, 0, 16⟩
@[reducible] def Reg.CAN.ERR_COUNTS_BUS_OFF : Fld := ⟨0x4c, 24, 8⟩
@[reducible] def Reg.CAN.ERR_COUNTS_EXCEPTION : Fld := ⟨0x4c, 16, 8⟩
@[reducible] def Reg.CAN.ERR_COUNTS_ACK_ERR : Fld := ⟨0x4c, 8, 8⟩
@[reducible] def Reg.CAN.ERR_COUNTS_DUP_SUSPECT : Fld := ⟨0x4c, 0, 8⟩
@[reducible] def Reg.CAN.TX_LAST_LO_TIME : Fld := ⟨0x50, 0, 32⟩
@[reducible] def Reg.CAN.TX_LAST_HI_TIME : Fld := ⟨0x54, 0, 32⟩
@[reducible] def Reg.CAN.LAST_FAIL_VALUE : Fld := ⟨0x58, 0, 16⟩
@[reducible] def Reg.CAN.TM_CFG_EN : Fld := ⟨0x5c, 31, 1⟩
@[reducible] def Reg.CAN.TM_CFG_LEVEL2 : Fld := ⟨0x5c, 30, 1⟩
@[reducible] def Reg.CAN.TM_CFG_IDE : Fld := ⟨0x5c, 29, 1⟩
@[reducible] def Reg.CAN.TM_CFG_REF_ID : Fld := ⟨0x5c, 0, 29⟩
@[reducible] def Reg.CAN.TM_CYCLE_US : Fld := ⟨0x60, 0, 20⟩
@[reducible] def Reg.CAN.TM_OFFSET_US : Fld := ⟨0x64, 0, 20⟩
@[reducible] def Reg.CAN.TM_PARAM_GUARD : Fld := ⟨0x68, 24, 8⟩
@[reducible] def Reg.CAN.TM_PARAM_PRIO : Fld := ⟨0x68, 16, 3⟩
@[reducible] def Reg.CAN.TM_PARAM_NTU : Fld := ⟨0x68, 0, 10⟩
@[reducible] def Reg.CAN.TM_COUNTS_SENT : Fld := ⟨0x6c, 16, 16⟩
@[reducible] def Reg.CAN.TM_COUNTS_MISSED : Fld := ⟨0x6c, 0, 16⟩
@[reducible] def Reg.CAN.SW_CFG_WAKE_EN : Fld := ⟨0x70, 31, 1⟩
@[reducible] def Reg.CAN.SW_CFG_SW_EN : Fld := ⟨0x70, 30, 1⟩
@[reducible] def Reg.CAN.SW_CFG_IDE : Fld := ⟨0x70, 29, 1⟩
@[reducible] def Reg.CAN.SW_CFG_RATE : Fld := ⟨0x70, 27, 2⟩
@[reducible] def Reg.CAN.SW_CFG_DATA_EN : Fld := ⟨0x70, 26, 1⟩
@[reducible] def Reg.CAN.SW_CFG_DLC : Fld := ⟨0x70, 16, 4⟩
@[reducible] def Reg.CAN.SW_ID_ID : Fld := ⟨0x74, 0, 29⟩
@[reducible] def Reg.CAN.SW_ID_MASK_MASK : Fld := ⟨0x78, 0, 29⟩
@[reducible] def Reg.CAN.SW_DATA_LO_DATA : Fld := ⟨0x7c, 0, 32⟩
@[reducible] def Reg.CAN.SW_DATA_HI_DATA : Fld := ⟨0x80, 0, 32⟩
@[reducible] def Reg.CAN.SW_STATUS_WOKE : Fld := ⟨0x84, 8, 1⟩
@[reducible] def Reg.CAN.SW_STATUS_FEC : Fld := ⟨0x84, 0, 6⟩
@[reducible] def Reg.CAN.LOCK_LOCK : Fld := ⟨0xfc, 0, 1⟩

/-! Fields of page kind LIN. -/

@[reducible] def Reg.LIN.LIN_CFG_EN : Fld := ⟨0x0, 31, 1⟩
@[reducible] def Reg.LIN.LIN_CFG_ROLE : Fld := ⟨0x0, 30, 1⟩
@[reducible] def Reg.LIN.LIN_CFG_BREAK_BITS : Fld := ⟨0x0, 18, 8⟩
@[reducible] def Reg.LIN.LIN_CFG_DIV : Fld := ⟨0x0, 0, 18⟩
@[reducible] def Reg.LIN.LIN_STATUS_STATE : Fld := ⟨0x4, 30, 2⟩
@[reducible] def Reg.LIN.LIN_STATUS_BUS_SHORT : Fld := ⟨0x4, 29, 1⟩
@[reducible] def Reg.LIN.LIN_STATUS_LAST_ID : Fld := ⟨0x4, 0, 6⟩
@[reducible] def Reg.LIN.LIN_EVENT_ERROR : Fld := ⟨0x8, 3, 1⟩
@[reducible] def Reg.LIN.LIN_EVENT_RX_LOST : Fld := ⟨0x8, 2, 1⟩
@[reducible] def Reg.LIN.LIN_EVENT_BUS_SHORT : Fld := ⟨0x8, 1, 1⟩
@[reducible] def Reg.LIN.LIN_EVENT_WAKE_RX : Fld := ⟨0x8, 0, 1⟩
@[reducible] def Reg.LIN.LIN_OP_OP : Fld := ⟨0xc, 0, 32⟩
@[reducible] def Reg.LIN.RX_PTRS_ACK : Fld := ⟨0x10, 16, 7⟩
@[reducible] def Reg.LIN.RX_PTRS_FILL : Fld := ⟨0x10, 0, 7⟩
@[reducible] def Reg.LIN.RX_ACK_ACK : Fld := ⟨0x14, 0, 7⟩
@[reducible] def Reg.LIN.RX_CFG_OWNER_KIND : Fld := ⟨0x18, 30, 2⟩
@[reducible] def Reg.LIN.RX_CFG_WORLD : Fld := ⟨0x18, 12, 1⟩
@[reducible] def Reg.LIN.RX_CFG_MOORING : Fld := ⟨0x18, 0, 12⟩
@[reducible] def Reg.LIN.RX_BASE_LO_ADDR : Fld := ⟨0x1c, 0, 32⟩
@[reducible] def Reg.LIN.RX_BASE_HI_ADDR : Fld := ⟨0x20, 0, 32⟩
@[reducible] def Reg.LIN.RX_HEAD_HEAD : Fld := ⟨0x24, 0, 32⟩
@[reducible] def Reg.LIN.RX_HEAD_DATA_LO_DATA : Fld := ⟨0x28, 0, 32⟩
@[reducible] def Reg.LIN.RX_HEAD_DATA_HI_DATA : Fld := ⟨0x2c, 0, 32⟩
@[reducible] def Reg.LIN.RX_NOTICE_US : Fld := ⟨0x30, 0, 16⟩
@[reducible] def Reg.LIN.LIN_COUNTS_FRAMES_OK : Fld := ⟨0x34, 16, 16⟩
@[reducible] def Reg.LIN.LIN_COUNTS_ERRORS : Fld := ⟨0x34, 8, 8⟩
@[reducible] def Reg.LIN.LIN_COUNTS_RX_LOST : Fld := ⟨0x34, 0, 8⟩
@[reducible] def Reg.LIN.LOCK_LOCK : Fld := ⟨0xfc, 0, 1⟩

/-! Fields of page kind SER. -/

@[reducible] def Reg.SER.SER_CFG_EN : Fld := ⟨0x0, 31, 1⟩
@[reducible] def Reg.SER.SER_CFG_PARITY : Fld := ⟨0x0, 29, 2⟩
@[reducible] def Reg.SER.SER_CFG_STOP2 : Fld := ⟨0x0, 28, 1⟩
@[reducible] def Reg.SER.SER_CFG_DATA7 : Fld := ⟨0x0, 27, 1⟩
@[reducible] def Reg.SER.SER_CFG_DIV : Fld := ⟨0x0, 0, 24⟩
@[reducible] def Reg.SER.SER_TIMING_TX_LEAD : Fld := ⟨0x4, 24, 8⟩
@[reducible] def Reg.SER.SER_TIMING_TX_TAIL : Fld := ⟨0x4, 16, 8⟩
@[reducible] def Reg.SER.SER_TIMING_IDLE_TX : Fld := ⟨0x4, 8, 8⟩
@[reducible] def Reg.SER.SER_TIMING_GAP : Fld := ⟨0x4, 0, 8⟩
@[reducible] def Reg.SER.SER_STATUS_DRIVING : Fld := ⟨0x8, 31, 1⟩
@[reducible] def Reg.SER.SER_STATUS_LINE_IDLE : Fld := ⟨0x8, 30, 1⟩
@[reducible] def Reg.SER.SER_STATUS_PENDING : Fld := ⟨0x8, 0, 3⟩
@[reducible] def Reg.SER.SER_EVENT_RX_ERROR : Fld := ⟨0xc, 2, 1⟩
@[reducible] def Reg.SER.SER_EVENT_COLLISION : Fld := ⟨0xc, 1, 1⟩
@[reducible] def Reg.SER.SER_EVENT_RX_LOST : Fld := ⟨0xc, 0, 1⟩
@[reducible] def Reg.SER.SER_OP_OP : Fld := ⟨0x10, 0, 32⟩
@[reducible] def Reg.SER.SER_EXPIRE_WAIT : Fld := ⟨0x28, 0, 16⟩
@[reducible] def Reg.SER.SER_COUNTS_PARITY_ERR : Fld := ⟨0x34, 24, 8⟩
@[reducible] def Reg.SER.SER_COUNTS_FRAMING_ERR : Fld := ⟨0x34, 16, 8⟩
@[reducible] def Reg.SER.SER_COUNTS_COLLISIONS : Fld := ⟨0x34, 8, 8⟩
@[reducible] def Reg.SER.SER_COUNTS_RX_LOST : Fld := ⟨0x34, 0, 8⟩
@[reducible] def Reg.SER.LOCK_LOCK : Fld := ⟨0xfc, 0, 1⟩

/-! Fields of page kind ZONE0. -/

@[reducible] def Reg.ZONE0.SLEEP_CFG_AWAKE_LIMIT : Fld := ⟨0x40, 8, 12⟩
@[reducible] def Reg.ZONE0.SLEEP_CFG_DRAIN : Fld := ⟨0x40, 4, 2⟩
@[reducible] def Reg.ZONE0.SLEEP_STATUS_AWAKE_LEFT : Fld := ⟨0x44, 15, 17⟩
@[reducible] def Reg.ZONE0.SLEEP_STATUS_CAUSE : Fld := ⟨0x44, 0, 2⟩
@[reducible] def Reg.ZONE0.KEEP_AWAKE_KEEP : Fld := ⟨0x48, 0, 1⟩
@[reducible] def Reg.ZONE0.WAKE_TIMER_SECONDS : Fld := ⟨0x4c, 0, 24⟩
@[reducible] def Reg.ZONE0.WAKE_SRC_KIND : Fld := ⟨0x50, 28, 4⟩
@[reducible] def Reg.ZONE0.WAKE_SRC_INDEX : Fld := ⟨0x50, 8, 5⟩
@[reducible] def Reg.ZONE0.WAKE_SRC_LATE : Fld := ⟨0x50, 0, 1⟩
@[reducible] def Reg.ZONE0.WAKE_SEEN_CAN : Fld := ⟨0x54, 16, 16⟩
@[reducible] def Reg.ZONE0.WAKE_SEEN_INPUT : Fld := ⟨0x54, 0, 16⟩
@[reducible] def Reg.ZONE0.WAKE_SEEN_ETH_TIMER : Fld := ⟨0x58, 12, 1⟩
@[reducible] def Reg.ZONE0.WAKE_SEEN_ETH_PORT : Fld := ⟨0x58, 0, 12⟩
@[reducible] def Reg.ZONE0.SLEEP_COUNTS_CANCELLED : Fld := ⟨0x5c, 24, 8⟩
@[reducible] def Reg.ZONE0.SLEEP_COUNTS_LATE_WAKES : Fld := ⟨0x5c, 16, 8⟩
@[reducible] def Reg.ZONE0.SLEEP_COUNTS_FALSE_WAKES : Fld := ⟨0x5c, 8, 8⟩
@[reducible] def Reg.ZONE0.SLEEP_COUNTS_AWAKE_LIMIT : Fld := ⟨0x5c, 0, 8⟩
@[reducible] def Reg.ZONE0.SLEEP_EVENT_FALSE_WAKE : Fld := ⟨0x60, 4, 1⟩
@[reducible] def Reg.ZONE0.SLEEP_EVENT_LATE_WAKE : Fld := ⟨0x60, 3, 1⟩
@[reducible] def Reg.ZONE0.SLEEP_EVENT_CANCELLED : Fld := ⟨0x60, 2, 1⟩
@[reducible] def Reg.ZONE0.SLEEP_EVENT_AWAKE_LIMIT : Fld := ⟨0x60, 1, 1⟩
@[reducible] def Reg.ZONE0.SLEEP_EVENT_PENDING : Fld := ⟨0x60, 0, 1⟩
@[reducible] def Reg.ZONE0.SLEEP_MISC_KEEP_IGNORED : Fld := ⟨0x64, 16, 16⟩
@[reducible] def Reg.ZONE0.SLEEP_MISC_WAKES : Fld := ⟨0x64, 0, 16⟩
@[reducible] def Reg.ZONE0.TRX_FALLBACK_LIN_ACTIVE : Fld := ⟨0x68, 24, 6⟩
@[reducible] def Reg.ZONE0.TRX_FALLBACK_ENTRIES : Fld := ⟨0x68, 16, 8⟩
@[reducible] def Reg.ZONE0.TRX_FALLBACK_ACTIVE : Fld := ⟨0x68, 0, 16⟩
@[reducible] def Reg.ZONE0.TRX_WAKE_WAKE_SEEN : Fld := ⟨0x6c, 0, 16⟩
@[reducible] def Reg.ZONE0.IN_WAKE_THRESH : Fld := ⟨0x80, 24, 8⟩
@[reducible] def Reg.ZONE0.IN_WAKE_FILTER : Fld := ⟨0x80, 16, 8⟩
@[reducible] def Reg.ZONE0.IN_WAKE_POLL : Fld := ⟨0x80, 12, 4⟩
@[reducible] def Reg.ZONE0.IN_WAKE_WET_DIR : Fld := ⟨0x80, 11, 1⟩
@[reducible] def Reg.ZONE0.IN_WAKE_WETTING : Fld := ⟨0x80, 8, 3⟩
@[reducible] def Reg.ZONE0.IN_WAKE_MODE : Fld := ⟨0x80, 0, 3⟩
@[reducible] def Reg.ZONE0.ETH_WAKE_ARM : Fld := ⟨0xc0, 0, 12⟩
@[reducible] def Reg.ZONE0.LOCK_LOCK : Fld := ⟨0xfc, 0, 1⟩

/-! Fields of page kind TU. -/

@[reducible] def Reg.TU.TU_CTRL_EN : Fld := ⟨0x0, 0, 1⟩
@[reducible] def Reg.TU.CTX_BASE_LO_BASE : Fld := ⟨0x4, 17, 15⟩
@[reducible] def Reg.TU.CTX_BASE_HI_BASE : Fld := ⟨0x8, 0, 8⟩
@[reducible] def Reg.TU.INVAL_CMD_KIND : Fld := ⟨0xc, 30, 2⟩
@[reducible] def Reg.TU.INVAL_CMD_WORLD : Fld := ⟨0xc, 12, 1⟩
@[reducible] def Reg.TU.INVAL_CMD_MOORING : Fld := ⟨0xc, 0, 12⟩
@[reducible] def Reg.TU.INVAL_ADDR_LO_ADDR : Fld := ⟨0x10, 12, 20⟩
@[reducible] def Reg.TU.INVAL_ADDR_HI_ADDR : Fld := ⟨0x14, 0, 7⟩
@[reducible] def Reg.TU.TU_STATUS_INVAL_BUSY : Fld := ⟨0x18, 31, 1⟩
@[reducible] def Reg.TU.TU_STATUS_FAULT_OVF : Fld := ⟨0x18, 8, 1⟩
@[reducible] def Reg.TU.TU_STATUS_FAULT_LEVEL : Fld := ⟨0x18, 0, 5⟩
@[reducible] def Reg.TU.TU_COUNTS_FAULTS : Fld := ⟨0x1c, 16, 16⟩
@[reducible] def Reg.TU.TU_COUNTS_LOST : Fld := ⟨0x1c, 8, 8⟩
@[reducible] def Reg.TU.TU_COUNTS_INVAL_IGNORED : Fld := ⟨0x1c, 0, 8⟩
@[reducible] def Reg.TU.TC_MISSES_COUNT : Fld := ⟨0x20, 0, 32⟩
@[reducible] def Reg.TU.FAULT_POP_POP : Fld := ⟨0x24, 0, 1⟩
@[reducible] def Reg.TU.FAULT_ADDR_LO_ADDR : Fld := ⟨0x28, 0, 32⟩
@[reducible] def Reg.TU.FAULT_ADDR_HI_ADDR : Fld := ⟨0x2c, 0, 32⟩
@[reducible] def Reg.TU.FAULT_SRC_VALID : Fld := ⟨0x30, 31, 1⟩
@[reducible] def Reg.TU.FAULT_SRC_CAUSE : Fld := ⟨0x30, 28, 3⟩
@[reducible] def Reg.TU.FAULT_SRC_MASTER : Fld := ⟨0x30, 24, 4⟩
@[reducible] def Reg.TU.FAULT_SRC_WRITE : Fld := ⟨0x30, 16, 1⟩
@[reducible] def Reg.TU.FAULT_SRC_WORLD : Fld := ⟨0x30, 12, 1⟩
@[reducible] def Reg.TU.FAULT_SRC_MOORING : Fld := ⟨0x30, 0, 12⟩
@[reducible] def Reg.TU.PRED_CFG_WAYS_SECURE : Fld := ⟨0x40, 8, 3⟩
@[reducible] def Reg.TU.PRED_CFG_CLEAR_ON_MOORING : Fld := ⟨0x40, 0, 1⟩
@[reducible] def Reg.TU.PRED_COUNTS_CLEARS : Fld := ⟨0x44, 0, 32⟩
@[reducible] def Reg.TU.SWDT_CFG_TIMEOUT : Fld := ⟨0x50, 0, 14⟩
@[reducible] def Reg.TU.SWDT_KICK_KICK : Fld := ⟨0x54, 0, 1⟩
@[reducible] def Reg.TU.SECURE_STATE_FAILS : Fld := ⟨0x58, 8, 2⟩
@[reducible] def Reg.TU.SECURE_STATE_STATE : Fld := ⟨0x58, 0, 2⟩
@[reducible] def Reg.TU.SECURE_READY_READY : Fld := ⟨0x5c, 0, 1⟩
@[reducible] def Reg.TU.SECURE_COUNTS_ABSENT_CALLS : Fld := ⟨0x60, 16, 16⟩
@[reducible] def Reg.TU.SECURE_COUNTS_RESETS : Fld := ⟨0x60, 0, 16⟩
@[reducible] def Reg.TU.LOCK_LOCK : Fld := ⟨0xfc, 0, 1⟩

/-! Fields of page kind REGN. -/

@[reducible] def Reg.REGN.CTRL_INFO_CFG_IGNORED : Fld := ⟨0x0, 6, 1⟩
@[reducible] def Reg.REGN.CTRL_INFO_REGIONS : Fld := ⟨0x0, 0, 6⟩
@[reducible] def Reg.REGN.VIOL_COUNT_COUNT : Fld := ⟨0x4, 0, 32⟩
@[reducible] def Reg.REGN.VIOL_ADDR_LO_ADDR : Fld := ⟨0x8, 0, 32⟩
@[reducible] def Reg.REGN.VIOL_ADDR_HI_ADDR : Fld := ⟨0xc, 0, 8⟩
@[reducible] def Reg.REGN.VIOL_SRC_WRITE : Fld := ⟨0x10, 16, 1⟩
@[reducible] def Reg.REGN.VIOL_SRC_WORLD : Fld := ⟨0x10, 12, 1⟩
@[reducible] def Reg.REGN.VIOL_SRC_MOORING : Fld := ⟨0x10, 0, 12⟩
@[reducible] def Reg.REGN.LOCK_LOCK : Fld := ⟨0xfc, 0, 1⟩

/-! Fields of page kind GRANT. -/

@[reducible] def Reg.GRANT.GRANT_ARG_ARG : Fld := ⟨0x0, 0, 32⟩
@[reducible] def Reg.GRANT.GRANT_START_START : Fld := ⟨0x10, 0, 1⟩
@[reducible] def Reg.GRANT.GRANT_STATUS_BUSY : Fld := ⟨0x14, 31, 1⟩
@[reducible] def Reg.GRANT.GRANT_STATUS_SOURCE : Fld := ⟨0x14, 24, 2⟩
@[reducible] def Reg.GRANT.GRANT_STATUS_RESULT : Fld := ⟨0x14, 0, 8⟩
@[reducible] def Reg.GRANT.GRANT_COUNTS_DONE : Fld := ⟨0x18, 16, 16⟩
@[reducible] def Reg.GRANT.GRANT_COUNTS_TIMEOUTS : Fld := ⟨0x18, 8, 8⟩
@[reducible] def Reg.GRANT.GRANT_COUNTS_OWNER_REJECT : Fld := ⟨0x18, 0, 8⟩

/-! Fields of page kind QPR. -/

@[reducible] def Reg.QPR.OWNER_STATE : Fld := ⟨0x0, 30, 2⟩
@[reducible] def Reg.QPR.OWNER_WORLD : Fld := ⟨0x0, 12, 1⟩
@[reducible] def Reg.QPR.OWNER_MOORING : Fld := ⟨0x0, 0, 12⟩
@[reducible] def Reg.QPR.MAC_LO_MAC : Fld := ⟨0x4, 0, 32⟩
@[reducible] def Reg.QPR.MAC_HI_VID : Fld := ⟨0x8, 16, 12⟩
@[reducible] def Reg.QPR.MAC_HI_MAC : Fld := ⟨0x8, 0, 16⟩
@[reducible] def Reg.QPR.TX_BASE_LO_ADDR : Fld := ⟨0xc, 12, 20⟩
@[reducible] def Reg.QPR.TX_BASE_HI_ADDR : Fld := ⟨0x10, 0, 7⟩
@[reducible] def Reg.QPR.RX_BASE_LO_ADDR : Fld := ⟨0x14, 12, 20⟩
@[reducible] def Reg.QPR.RX_BASE_HI_ADDR : Fld := ⟨0x18, 0, 7⟩
@[reducible] def Reg.QPR.RING_CFG_ENABLE : Fld := ⟨0x1c, 31, 1⟩
@[reducible] def Reg.QPR.RING_CFG_TX_LOG2 : Fld := ⟨0x1c, 20, 4⟩
@[reducible] def Reg.QPR.RING_CFG_RX_LOG2 : Fld := ⟨0x1c, 16, 4⟩
@[reducible] def Reg.QPR.RING_CFG_DROPS : Fld := ⟨0x1c, 0, 16⟩

/-! Fields of page kind ZONE5. -/

@[reducible] def Reg.ZONE5.GATE_REQ_ACTION : Fld := ⟨0x40, 16, 2⟩
@[reducible] def Reg.ZONE5.GATE_REQ_BLOCK : Fld := ⟨0x40, 0, 4⟩
@[reducible] def Reg.ZONE5.GATE_RESULT_SW_STATUS : Fld := ⟨0x44, 8, 8⟩
@[reducible] def Reg.ZONE5.GATE_RESULT_NW_STATUS : Fld := ⟨0x44, 0, 8⟩
@[reducible] def Reg.ZONE5.GATE_STATE_STATE : Fld := ⟨0x48, 0, 32⟩
@[reducible] def Reg.ZONE5.HOLD_HOLD : Fld := ⟨0x4c, 0, 16⟩
@[reducible] def Reg.ZONE5.HOLD_SET_SET : Fld := ⟨0x50, 0, 16⟩
@[reducible] def Reg.ZONE5.HOLD_CLR_CLR : Fld := ⟨0x54, 0, 16⟩
@[reducible] def Reg.ZONE5.GATE_COUNTS_HELD : Fld := ⟨0x58, 16, 16⟩
@[reducible] def Reg.ZONE5.GATE_COUNTS_HOLD_IGNORED : Fld := ⟨0x58, 0, 16⟩

/-! Fields of page kind HINGE. -/

@[reducible] def Reg.HINGE.HSTATUS_NP_IN : Fld := ⟨0x0, 24, 8⟩
@[reducible] def Reg.HINGE.HSTATUS_NP_OUT : Fld := ⟨0x0, 16, 8⟩
@[reducible] def Reg.HINGE.HSTATUS_LINK_UP : Fld := ⟨0x0, 2, 1⟩
@[reducible] def Reg.HINGE.HSTATUS_DISC_OVF : Fld := ⟨0x0, 1, 1⟩
@[reducible] def Reg.HINGE.HSTATUS_ERR_OVF : Fld := ⟨0x0, 0, 1⟩
@[reducible] def Reg.HINGE.CPL_TIMEOUT_US : Fld := ⟨0x4, 0, 16⟩
@[reducible] def Reg.HINGE.PF_CFG_LIFE : Fld := ⟨0x8, 8, 8⟩
@[reducible] def Reg.HINGE.PF_CFG_DEPTH : Fld := ⟨0x8, 4, 2⟩
@[reducible] def Reg.HINGE.PF_CFG_EN_B : Fld := ⟨0x8, 1, 1⟩
@[reducible] def Reg.HINGE.PF_CFG_EN_A : Fld := ⟨0x8, 0, 1⟩
@[reducible] def Reg.HINGE.ERR_ADDR_LO_ADDR : Fld := ⟨0xc, 0, 32⟩
@[reducible] def Reg.HINGE.ERR_ADDR_HI_ADDR : Fld := ⟨0x10, 0, 32⟩
@[reducible] def Reg.HINGE.ERR_SRC_VALID : Fld := ⟨0x14, 31, 1⟩
@[reducible] def Reg.HINGE.ERR_SRC_CODE : Fld := ⟨0x14, 27, 4⟩
@[reducible] def Reg.HINGE.ERR_SRC_DIR : Fld := ⟨0x14, 26, 1⟩
@[reducible] def Reg.HINGE.ERR_SRC_NOTICE : Fld := ⟨0x14, 25, 1⟩
@[reducible] def Reg.HINGE.ERR_SRC_WORLD : Fld := ⟨0x14, 12, 1⟩
@[reducible] def Reg.HINGE.ERR_SRC_MOORING : Fld := ⟨0x14, 0, 12⟩
@[reducible] def Reg.HINGE.ERR_POP_POP : Fld := ⟨0x18, 0, 1⟩
@[reducible] def Reg.HINGE.DISC_ADDR_LO_ADDR : Fld := ⟨0x1c, 0, 32⟩
@[reducible] def Reg.HINGE.DISC_ADDR_HI_ADDR : Fld := ⟨0x20, 0, 32⟩
@[reducible] def Reg.HINGE.DISC_SRC_VALID : Fld := ⟨0x24, 31, 1⟩
@[reducible] def Reg.HINGE.DISC_SRC_CAUSE : Fld := ⟨0x24, 28, 3⟩
@[reducible] def Reg.HINGE.DISC_SRC_DIR : Fld := ⟨0x24, 26, 1⟩
@[reducible] def Reg.HINGE.DISC_SRC_WORLD : Fld := ⟨0x24, 12, 1⟩
@[reducible] def Reg.HINGE.DISC_SRC_MOORING : Fld := ⟨0x24, 0, 12⟩
@[reducible] def Reg.HINGE.DISC_POP_POP : Fld := ⟨0x28, 0, 1⟩
@[reducible] def Reg.HINGE.CPL_COUNTS_LATE_CPL : Fld := ⟨0x2c, 16, 16⟩
@[reducible] def Reg.HINGE.CPL_COUNTS_TIMEOUTS : Fld := ⟨0x2c, 0, 16⟩
@[reducible] def Reg.HINGE.LOG_COUNTS_ERR_LOGGED : Fld := ⟨0x30, 16, 16⟩
@[reducible] def Reg.HINGE.LOG_COUNTS_ERR_LOST : Fld := ⟨0x30, 8, 8⟩
@[reducible] def Reg.HINGE.LOG_COUNTS_DISC_LOST : Fld := ⟨0x30, 0, 8⟩
@[reducible] def Reg.HINGE.DISCARDS_COUNT : Fld := ⟨0x34, 0, 32⟩
@[reducible] def Reg.HINGE.PF_HITS_COUNT : Fld := ⟨0x38, 0, 32⟩
@[reducible] def Reg.HINGE.TAG_WAITS_COUNT : Fld := ⟨0x3c, 0, 32⟩
@[reducible] def Reg.HINGE.LOCK_LOCK : Fld := ⟨0xfc, 0, 1⟩
@[reducible] def Reg.HINGE.H0_CTRL_PERST : Fld := ⟨0x40, 31, 1⟩
@[reducible] def Reg.HINGE.H0_CTRL_LINK_EN : Fld := ⟨0x40, 30, 1⟩
@[reducible] def Reg.HINGE.H0_CTRL_TARGET_SPEED : Fld := ⟨0x40, 0, 2⟩
@[reducible] def Reg.HINGE.H0_LINK_SPEED_NOW : Fld := ⟨0x44, 28, 4⟩
@[reducible] def Reg.HINGE.H0_LINK_WIDTH : Fld := ⟨0x44, 24, 4⟩
@[reducible] def Reg.HINGE.H0_LINK_LTSSM : Fld := ⟨0x44, 0, 6⟩
@[reducible] def Reg.HINGE.H0_DMA_WORLD : Fld := ⟨0x48, 12, 1⟩
@[reducible] def Reg.HINGE.H0_DMA_MOORING : Fld := ⟨0x48, 0, 12⟩
@[reducible] def Reg.HINGE.H0_COUNTS_INTX : Fld := ⟨0x4c, 16, 16⟩
@[reducible] def Reg.HINGE.H0_COUNTS_LINK_DOWNS : Fld := ⟨0x4c, 0, 16⟩
@[reducible] def Reg.HINGE.H1_DRAM_BASE_BASE : Fld := ⟨0x40, 0, 10⟩
@[reducible] def Reg.HINGE.COPY_SRC_LO_ADDR : Fld := ⟨0x60, 0, 32⟩
@[reducible] def Reg.HINGE.COPY_SRC_HI_ADDR : Fld := ⟨0x64, 0, 32⟩
@[reducible] def Reg.HINGE.COPY_DST_LO_ADDR : Fld := ⟨0x68, 0, 32⟩
@[reducible] def Reg.HINGE.COPY_DST_HI_ADDR : Fld := ⟨0x6c, 0, 32⟩
@[reducible] def Reg.HINGE.COPY_LEN_BYTES : Fld := ⟨0x70, 0, 21⟩
@[reducible] def Reg.HINGE.COPY_CTRL_START : Fld := ⟨0x74, 0, 1⟩
@[reducible] def Reg.HINGE.COPY_STATUS_STATE : Fld := ⟨0x78, 28, 4⟩
@[reducible] def Reg.HINGE.COPY_STATUS_CODE : Fld := ⟨0x78, 24, 4⟩
@[reducible] def Reg.HINGE.COPY_STATUS_WORLD : Fld := ⟨0x78, 12, 1⟩
@[reducible] def Reg.HINGE.COPY_STATUS_MOORING : Fld := ⟨0x78, 0, 12⟩
@[reducible] def Reg.HINGE.COPY_REJECT_COUNT : Fld := ⟨0x7c, 0, 16⟩
@[reducible] def Reg.HINGE.COPY_ROUTE_ROUTE : Fld := ⟨0x80, 0, 32⟩
@[reducible] def Reg.HINGE.Q_LAST_REFUSED_CODE : Fld := ⟨0x40, 28, 4⟩
@[reducible] def Reg.HINGE.Q_LAST_REFUSED_QUEUE : Fld := ⟨0x40, 20, 8⟩
@[reducible] def Reg.HINGE.Q_LAST_REFUSED_WORLD : Fld := ⟨0x40, 12, 1⟩
@[reducible] def Reg.HINGE.Q_LAST_REFUSED_MOORING : Fld := ⟨0x40, 0, 12⟩
@[reducible] def Reg.HINGE.Q_COUNTS_POSTS_REFUSED : Fld := ⟨0x44, 16, 16⟩
@[reducible] def Reg.HINGE.Q_COUNTS_POPS_REFUSED : Fld := ⟨0x44, 0, 16⟩

/-! Fields of page kind LOG0. -/

@[reducible] def Reg.LOG0.LOG_CTRL_EN : Fld := ⟨0x0, 0, 1⟩
@[reducible] def Reg.LOG0.LOG_STATUS_RUNNING : Fld := ⟨0x4, 31, 1⟩
@[reducible] def Reg.LOG0.LOG_STATUS_STAGE_FULL : Fld := ⟨0x4, 30, 1⟩
@[reducible] def Reg.LOG0.LOG_STATUS_STORE_FULL : Fld := ⟨0x4, 29, 1⟩
@[reducible] def Reg.LOG0.LOG_STATUS_STORE_ERROR : Fld := ⟨0x4, 28, 1⟩
@[reducible] def Reg.LOG0.LOG_STATUS_FROZEN : Fld := ⟨0x4, 8, 4⟩
@[reducible] def Reg.LOG0.STAGE_BASE_LO_ADDR : Fld := ⟨0x8, 24, 8⟩
@[reducible] def Reg.LOG0.STAGE_BASE_HI_ADDR : Fld := ⟨0xc, 0, 32⟩
@[reducible] def Reg.LOG0.STAGE_SIZE_UNITS : Fld := ⟨0x10, 0, 9⟩
@[reducible] def Reg.LOG0.BACKLOG_HASH_KIB : Fld := ⟨0x14, 0, 32⟩
@[reducible] def Reg.LOG0.BACKLOG_STORE_KIB : Fld := ⟨0x18, 0, 32⟩
@[reducible] def Reg.LOG0.NVME_NSID_NSID : Fld := ⟨0x1c, 0, 32⟩
@[reducible] def Reg.LOG0.SQ_BASE_LO_ADDR : Fld := ⟨0x20, 0, 32⟩
@[reducible] def Reg.LOG0.SQ_BASE_HI_ADDR : Fld := ⟨0x24, 0, 32⟩
@[reducible] def Reg.LOG0.CQ_BASE_LO_ADDR : Fld := ⟨0x28, 0, 32⟩
@[reducible] def Reg.LOG0.CQ_BASE_HI_ADDR : Fld := ⟨0x2c, 0, 32⟩
@[reducible] def Reg.LOG0.NVME_QCFG_QID : Fld := ⟨0x30, 16, 16⟩
@[reducible] def Reg.LOG0.NVME_QCFG_QSIZE : Fld := ⟨0x30, 0, 10⟩
@[reducible] def Reg.LOG0.DB_LO_ADDR : Fld := ⟨0x34, 0, 32⟩
@[reducible] def Reg.LOG0.DB_HI_ADDR : Fld := ⟨0x38, 0, 32⟩
@[reducible] def Reg.LOG0.DB_STRIDE_BYTES : Fld := ⟨0x3c, 0, 13⟩
@[reducible] def Reg.LOG0.LBA_FIRST_LO_LBA : Fld := ⟨0x40, 0, 32⟩
@[reducible] def Reg.LOG0.LBA_FIRST_HI_LBA : Fld := ⟨0x44, 0, 32⟩
@[reducible] def Reg.LOG0.LBA_COUNT_BLOCKS : Fld := ⟨0x48, 0, 32⟩
@[reducible] def Reg.LOG0.WRITE_PTR_BLOCK : Fld := ⟨0x4c, 0, 32⟩
@[reducible] def Reg.LOG0.STORE_CTRL_RESUME : Fld := ⟨0x50, 0, 1⟩
@[reducible] def Reg.LOG0.FREEZE_RELEASE_RELEASE : Fld := ⟨0x54, 0, 4⟩
@[reducible] def Reg.LOG0.MIRROR_STREAM_S3 : Fld := ⟨0x58, 24, 6⟩
@[reducible] def Reg.LOG0.MIRROR_STREAM_S2 : Fld := ⟨0x58, 16, 6⟩
@[reducible] def Reg.LOG0.MIRROR_STREAM_S1 : Fld := ⟨0x58, 8, 6⟩
@[reducible] def Reg.LOG0.MIRROR_STREAM_S0 : Fld := ⟨0x58, 0, 6⟩
@[reducible] def Reg.LOG0.LOG_EVENT_SNAPSHOT : Fld := ⟨0x5c, 5, 1⟩
@[reducible] def Reg.LOG0.LOG_EVENT_FREEZE : Fld := ⟨0x5c, 4, 1⟩
@[reducible] def Reg.LOG0.LOG_EVENT_MODULE_LOST : Fld := ⟨0x5c, 3, 1⟩
@[reducible] def Reg.LOG0.LOG_EVENT_STORE_ERROR : Fld := ⟨0x5c, 2, 1⟩
@[reducible] def Reg.LOG0.LOG_EVENT_STORE_FULL : Fld := ⟨0x5c, 1, 1⟩
@[reducible] def Reg.LOG0.LOG_EVENT_STAGE_FULL : Fld := ⟨0x5c, 0, 1⟩
@[reducible] def Reg.LOG0.LOG_COUNTS_MISROUTED : Fld := ⟨0x60, 16, 16⟩
@[reducible] def Reg.LOG0.LOG_COUNTS_MODULE_LOST : Fld := ⟨0x60, 0, 16⟩
@[reducible] def Reg.LOG0.STORE_COUNTS_SEGMENTS : Fld := ⟨0x64, 0, 32⟩
@[reducible] def Reg.LOG0.NVME_LAST_LINK : Fld := ⟨0x68, 16, 1⟩
@[reducible] def Reg.LOG0.NVME_LAST_STATUS : Fld := ⟨0x68, 0, 15⟩
@[reducible] def Reg.LOG0.START_COUNT_COUNT : Fld := ⟨0x6c, 0, 32⟩
@[reducible] def Reg.LOG0.LOCK_LOCK : Fld := ⟨0xfc, 0, 1⟩

/-! Fields of page kind STREAM. -/

@[reducible] def Reg.STREAM.STREAM_CFG_SOURCE : Fld := ⟨0x0, 0, 2⟩
@[reducible] def Reg.STREAM.STREAM_STATUS_OPEN : Fld := ⟨0x4, 31, 1⟩
@[reducible] def Reg.STREAM.STREAM_STATUS_SEGMENT : Fld := ⟨0x4, 0, 24⟩
@[reducible] def Reg.STREAM.NEXT_SEQ_LO_SEQ : Fld := ⟨0x8, 0, 32⟩
@[reducible] def Reg.STREAM.NEXT_SEQ_HI_SEQ : Fld := ⟨0xc, 0, 32⟩
@[reducible] def Reg.STREAM.POST_COMMIT_LENGTH : Fld := ⟨0x10, 0, 12⟩
@[reducible] def Reg.STREAM.POST_STATUS_BUSY : Fld := ⟨0x14, 31, 1⟩
@[reducible] def Reg.STREAM.POST_STATUS_RESULT : Fld := ⟨0x14, 0, 8⟩
@[reducible] def Reg.STREAM.STREAM_COUNTS_REFUSED : Fld := ⟨0x18, 16, 16⟩
@[reducible] def Reg.STREAM.STREAM_COUNTS_REJECTED : Fld := ⟨0x18, 0, 16⟩
@[reducible] def Reg.STREAM.SNAP_SEGMENT_VALID : Fld := ⟨0x1c, 31, 1⟩
@[reducible] def Reg.STREAM.SNAP_SEGMENT_SEGMENT : Fld := ⟨0x1c, 0, 24⟩
@[reducible] def Reg.STREAM.LOCK_LOCK : Fld := ⟨0xfc, 0, 1⟩

/-! Fields of page kind WIN. -/

@[reducible] def Reg.WIN.OP_NEXT : Fld := ⟨0x0, 13, 1⟩
@[reducible] def Reg.WIN.OP_CONT : Fld := ⟨0x0, 12, 1⟩
@[reducible] def Reg.WIN.OP_VARIANT : Fld := ⟨0x0, 8, 4⟩
@[reducible] def Reg.WIN.OP_OPCODE : Fld := ⟨0x0, 0, 8⟩
@[reducible] def Reg.WIN.STATUS_BUSY : Fld := ⟨0x4, 31, 1⟩
@[reducible] def Reg.WIN.STATUS_RESULT : Fld := ⟨0x4, 0, 8⟩
@[reducible] def Reg.WIN.LENGTHS_AAD_LEN : Fld := ⟨0x8, 16, 12⟩
@[reducible] def Reg.WIN.LENGTHS_IN_LEN : Fld := ⟨0x8, 0, 12⟩
@[reducible] def Reg.WIN.SOURCE_SLOT : Fld := ⟨0xc, 0, 9⟩
@[reducible] def Reg.WIN.NEW_ATTR_ATTR : Fld := ⟨0x10, 0, 32⟩
@[reducible] def Reg.WIN.NEW_KEY_ID_KEY_ID : Fld := ⟨0x14, 0, 32⟩
@[reducible] def Reg.WIN.NEW_COUNT_COUNT : Fld := ⟨0x18, 0, 32⟩
@[reducible] def Reg.WIN.OUT_LEN_BYTES : Fld := ⟨0x1c, 0, 12⟩
@[reducible] def Reg.WIN.IV_IV : Fld := ⟨0x20, 0, 32⟩
@[reducible] def Reg.WIN.AUX_AUX : Fld := ⟨0x40, 0, 32⟩
@[reducible] def Reg.WIN.DATA_DATA : Fld := ⟨0x100, 0, 32⟩

/-! Fields of page kind KEY0. -/

@[reducible] def Reg.KEY0.ENGINE_STATUS_BUSY : Fld := ⟨0x0, 31, 1⟩
@[reducible] def Reg.KEY0.ENGINE_STATUS_QUEUED : Fld := ⟨0x0, 16, 6⟩
@[reducible] def Reg.KEY0.ENGINE_STATUS_STORE : Fld := ⟨0x0, 0, 2⟩
@[reducible] def Reg.KEY0.JOB_COUNTS_DONE : Fld := ⟨0x4, 16, 16⟩
@[reducible] def Reg.KEY0.JOB_COUNTS_FAILED : Fld := ⟨0x4, 0, 16⟩
@[reducible] def Reg.KEY0.ACCESS_COUNTS_IGNORED : Fld := ⟨0x8, 16, 16⟩
@[reducible] def Reg.KEY0.ACCESS_COUNTS_AUTH : Fld := ⟨0x8, 0, 16⟩
@[reducible] def Reg.KEY0.ROLL_COUNTS_ROLLED : Fld := ⟨0xc, 16, 16⟩
@[reducible] def Reg.KEY0.ROLL_COUNTS_SKIPPED : Fld := ⟨0xc, 0, 16⟩
@[reducible] def Reg.KEY0.PERSISTED_COUNT : Fld := ⟨0x10, 0, 9⟩
@[reducible] def Reg.KEY0.CERT_LEN_BYTES : Fld := ⟨0x14, 0, 12⟩

/-! Fields of page kind SLOT. -/

@[reducible] def Reg.SLOT.ATTR_ATTR : Fld := ⟨0x0, 0, 32⟩
@[reducible] def Reg.SLOT.KEY_ID_KEY_ID : Fld := ⟨0x4, 0, 32⟩
@[reducible] def Reg.SLOT.USE_COUNT_COUNT : Fld := ⟨0x8, 0, 32⟩
@[reducible] def Reg.SLOT.OWNER_OWNED : Fld := ⟨0xc, 31, 1⟩
@[reducible] def Reg.SLOT.OWNER_WORLD : Fld := ⟨0xc, 12, 1⟩
@[reducible] def Reg.SLOT.OWNER_MOORING : Fld := ⟨0xc, 0, 12⟩
@[reducible] def Reg.SLOT.SLOT_STATE_VALID : Fld := ⟨0x10, 31, 1⟩
@[reducible] def Reg.SLOT.SLOT_STATE_DISABLED : Fld := ⟨0x10, 30, 1⟩
@[reducible] def Reg.SLOT.SLOT_STATE_NEXT_VALID : Fld := ⟨0x10, 29, 1⟩
@[reducible] def Reg.SLOT.NEXT_COUNT_COUNT : Fld := ⟨0x14, 0, 32⟩

/-! Fields of page kind TEST2. -/

@[reducible] def Reg.TEST2.LC_STATE_STATE : Fld := ⟨0x0, 16, 3⟩
@[reducible] def Reg.TEST2.LC_STATE_SAFETY_MODE : Fld := ⟨0x0, 8, 2⟩
@[reducible] def Reg.TEST2.LC_STATE_ROOT_OK : Fld := ⟨0x0, 0, 1⟩
@[reducible] def Reg.TEST2.SERIAL_LO_SERIAL : Fld := ⟨0x4, 0, 32⟩
@[reducible] def Reg.TEST2.SERIAL_HI_SERIAL : Fld := ⟨0x8, 0, 32⟩
@[reducible] def Reg.TEST2.LC_ADVANCE_TARGET : Fld := ⟨0xc, 0, 3⟩
@[reducible] def Reg.TEST2.LC_RESULT_CODE : Fld := ⟨0x10, 0, 8⟩
@[reducible] def Reg.TEST2.DEBUG_OPEN_SAFETY : Fld := ⟨0x14, 1, 1⟩
@[reducible] def Reg.TEST2.DEBUG_OPEN_APP : Fld := ⟨0x14, 0, 1⟩
@[reducible] def Reg.TEST2.DEBUG_STATUS_SAFETY_ATTACHED : Fld := ⟨0x18, 1, 1⟩
@[reducible] def Reg.TEST2.DEBUG_STATUS_APP_ATTACHED : Fld := ⟨0x18, 0, 1⟩
@[reducible] def Reg.TEST2.FUSE_ECC_WEAK : Fld := ⟨0x1c, 0, 16⟩
@[reducible] def Reg.TEST2.LC_NONCE_LC_NONCE : Fld := ⟨0x20, 0, 32⟩

/-! Fields of page kind SAFE0. -/

@[reducible] def Reg.SAFE0.MON_STATUS_DEMAND_CLUSTER : Fld := ⟨0x0, 31, 1⟩
@[reducible] def Reg.SAFE0.MON_STATUS_DEMAND_ALL : Fld := ⟨0x0, 30, 1⟩
@[reducible] def Reg.SAFE0.MON_STATUS_RESET_PENDING : Fld := ⟨0x0, 29, 1⟩
@[reducible] def Reg.SAFE0.MON_STATUS_UNCHECKED : Fld := ⟨0x0, 28, 1⟩
@[reducible] def Reg.SAFE0.MON_STATUS_DUALPASS_OFF : Fld := ⟨0x0, 27, 1⟩
@[reducible] def Reg.SAFE0.MON_STATUS_LANE_MISMATCH : Fld := ⟨0x0, 26, 1⟩
@[reducible] def Reg.SAFE0.MON_STATUS_LOG_OVF : Fld := ⟨0x0, 25, 1⟩
@[reducible] def Reg.SAFE0.MON_STATUS_CODE : Fld := ⟨0x0, 16, 8⟩
@[reducible] def Reg.SAFE0.MON_STATUS_LAST : Fld := ⟨0x0, 0, 5⟩
@[reducible] def Reg.SAFE0.FAULT_ACTIVE_ACTIVE : Fld := ⟨0x4, 0, 32⟩
@[reducible] def Reg.SAFE0.FAULT_EVENT_EVENT : Fld := ⟨0x8, 0, 32⟩
@[reducible] def Reg.SAFE0.MON_COUNTS_TOTAL : Fld := ⟨0xc, 16, 16⟩
@[reducible] def Reg.SAFE0.MON_COUNTS_INJECTED : Fld := ⟨0xc, 0, 16⟩
@[reducible] def Reg.SAFE0.OWN_SAFETY_LO_CH : Fld := ⟨0x10, 0, 32⟩
@[reducible] def Reg.SAFE0.OWN_SAFETY_HI_CH : Fld := ⟨0x14, 0, 16⟩
@[reducible] def Reg.SAFE0.DEMAND_RELEASE_RELEASE : Fld := ⟨0x18, 0, 1⟩
@[reducible] def Reg.SAFE0.RESET_CFG_DELAY : Fld := ⟨0x1c, 0, 7⟩
@[reducible] def Reg.SAFE0.SCRUB_STATUS_PASSES : Fld := ⟨0x20, 16, 8⟩
@[reducible] def Reg.SAFE0.SCRUB_STATUS_PROGRESS : Fld := ⟨0x20, 0, 10⟩
@[reducible] def Reg.SAFE0.SCRUB_COUNTS_UE : Fld := ⟨0x24, 16, 16⟩
@[reducible] def Reg.SAFE0.SCRUB_COUNTS_CE : Fld := ⟨0x24, 0, 16⟩
@[reducible] def Reg.SAFE0.LOG_LEVEL_LEVEL : Fld := ⟨0x28, 0, 6⟩
@[reducible] def Reg.SAFE0.LOG_POP_POP : Fld := ⟨0x2c, 0, 1⟩
@[reducible] def Reg.SAFE0.LOG_HEAD_VALID : Fld := ⟨0x30, 31, 1⟩
@[reducible] def Reg.SAFE0.LOG_HEAD_INJECTED : Fld := ⟨0x30, 30, 1⟩
@[reducible] def Reg.SAFE0.LOG_HEAD_REACTION : Fld := ⟨0x30, 27, 3⟩
@[reducible] def Reg.SAFE0.LOG_HEAD_SOURCE : Fld := ⟨0x30, 0, 5⟩
@[reducible] def Reg.SAFE0.LOG_DETAIL_DETAIL : Fld := ⟨0x34, 0, 32⟩
@[reducible] def Reg.SAFE0.LOG_TIME_LO_TIME : Fld := ⟨0x38, 0, 32⟩
@[reducible] def Reg.SAFE0.LOG_TIME_HI_TIME : Fld := ⟨0x3c, 0, 32⟩
@[reducible] def Reg.SAFE0.MISC_COUNTS_LOG_LOST : Fld := ⟨0x40, 24, 8⟩
@[reducible] def Reg.SAFE0.MISC_COUNTS_MONITOR_FENCES : Fld := ⟨0x40, 16, 8⟩
@[reducible] def Reg.SAFE0.MISC_COUNTS_RELEASE_REFUSED : Fld := ⟨0x40, 0, 16⟩
@[reducible] def Reg.SAFE0.LOCK_LOCK : Fld := ⟨0xfc, 0, 1⟩

/-! Fields of page kind ALARM. -/

@[reducible] def Reg.ALARM.ALARM_STATUS_FAULT_SIGNAL : Fld := ⟨0x0, 31, 1⟩
@[reducible] def Reg.ALARM.ALARM_STATUS_TEST_ACTIVE : Fld := ⟨0x0, 30, 1⟩
@[reducible] def Reg.ALARM.ALARM_STATUS_READBACK_FAULT : Fld := ⟨0x0, 29, 1⟩
@[reducible] def Reg.ALARM.ALARM_STATUS_CODE : Fld := ⟨0x0, 16, 8⟩
@[reducible] def Reg.ALARM.ALARM_STATUS_FRAME_COUNT : Fld := ⟨0x0, 0, 2⟩
@[reducible] def Reg.ALARM.ALARM_CFG_TEST_MS : Fld := ⟨0x4, 0, 8⟩
@[reducible] def Reg.ALARM.ALARM_TEST_TEST : Fld := ⟨0x8, 0, 1⟩
@[reducible] def Reg.ALARM.ALARM_EVENT_TEST_DONE : Fld := ⟨0xc, 2, 1⟩
@[reducible] def Reg.ALARM.ALARM_EVENT_READBACK : Fld := ⟨0xc, 1, 1⟩
@[reducible] def Reg.ALARM.ALARM_EVENT_FAULT_SIGNAL : Fld := ⟨0xc, 0, 1⟩
@[reducible] def Reg.ALARM.ALARM_COUNTS_TEST_REFUSED : Fld := ⟨0x10, 24, 8⟩
@[reducible] def Reg.ALARM.ALARM_COUNTS_TESTS : Fld := ⟨0x10, 16, 8⟩
@[reducible] def Reg.ALARM.ALARM_COUNTS_READBACK_ERR : Fld := ⟨0x10, 0, 16⟩
@[reducible] def Reg.ALARM.LOCK_LOCK : Fld := ⟨0xfc, 0, 1⟩

/-! Fields of page kind ZONE6. -/

@[reducible] def Reg.ZONE6.START_STATUS_PHASE : Fld := ⟨0x0, 20, 4⟩
@[reducible] def Reg.ZONE6.START_STATUS_MAINTENANCE : Fld := ⟨0x0, 17, 1⟩
@[reducible] def Reg.ZONE6.START_STATUS_LS_ROM : Fld := ⟨0x0, 16, 1⟩
@[reducible] def Reg.ZONE6.START_STATUS_FAILED : Fld := ⟨0x0, 4, 5⟩
@[reducible] def Reg.ZONE6.START_COUNT_COUNT : Fld := ⟨0x4, 0, 32⟩
@[reducible] def Reg.ZONE6.START_CFG_LIMIT : Fld := ⟨0x8, 24, 3⟩
@[reducible] def Reg.ZONE6.START_CFG_DEADLINE : Fld := ⟨0x8, 0, 16⟩
@[reducible] def Reg.ZONE6.START_TIMES_T_SERVICE : Fld := ⟨0xc, 16, 16⟩
@[reducible] def Reg.ZONE6.START_TIMES_T_LEGAL : Fld := ⟨0xc, 0, 16⟩
@[reducible] def Reg.ZONE6.LAST_REASON_CODE : Fld := ⟨0x10, 24, 8⟩
@[reducible] def Reg.ZONE6.LAST_REASON_DETAIL : Fld := ⟨0x10, 0, 24⟩
@[reducible] def Reg.ZONE6.READY_SAFETY : Fld := ⟨0x14, 0, 1⟩
@[reducible] def Reg.ZONE6.LS_MAP_LO_MAP : Fld := ⟨0x18, 0, 32⟩
@[reducible] def Reg.ZONE6.LS_MAP_HI_MAP : Fld := ⟨0x1c, 0, 16⟩
@[reducible] def Reg.ZONE6.LS_CTRL_RAISE_FLOOR : Fld := ⟨0x20, 0, 1⟩
@[reducible] def Reg.ZONE6.REPORT_CFG_EN : Fld := ⟨0x24, 31, 1⟩
@[reducible] def Reg.ZONE6.REPORT_CFG_ID : Fld := ⟨0x24, 0, 11⟩
@[reducible] def Reg.ZONE6.LIFE_TIME_SECONDS : Fld := ⟨0x28, 0, 32⟩
@[reducible] def Reg.ZONE6.LAST_DETAIL_HI_DETAIL_HI : Fld := ⟨0x2c, 0, 8⟩
@[reducible] def Reg.ZONE6.LOCK_LOCK : Fld := ⟨0xfc, 0, 1⟩

/-! Fields of page kind TEST0. -/

@[reducible] def Reg.TEST0.BIST_STATUS_RUNNING : Fld := ⟨0x0, 31, 1⟩
@[reducible] def Reg.TEST0.BIST_STATUS_ALL_PASS : Fld := ⟨0x0, 30, 1⟩
@[reducible] def Reg.TEST0.BIST_STATUS_FAILED : Fld := ⟨0x0, 8, 8⟩
@[reducible] def Reg.TEST0.BIST_STATUS_TESTED : Fld := ⟨0x0, 0, 8⟩
@[reducible] def Reg.TEST0.BIST_CTRL_START : Fld := ⟨0x4, 31, 1⟩
@[reducible] def Reg.TEST0.BIST_CTRL_MEMORY : Fld := ⟨0x4, 8, 1⟩
@[reducible] def Reg.TEST0.BIST_CTRL_BLOCK : Fld := ⟨0x4, 0, 6⟩
@[reducible] def Reg.TEST0.BIST_COUNTS_WINDOW_ABORTS : Fld := ⟨0x8, 16, 16⟩
@[reducible] def Reg.TEST0.BIST_COUNTS_RUNS : Fld := ⟨0x8, 0, 16⟩

/-! Fields of page kind TEST1. -/

@[reducible] def Reg.TEST1.REPAIR_STATUS_SOFT_ROWS : Fld := ⟨0x0, 16, 8⟩
@[reducible] def Reg.TEST1.REPAIR_STATUS_SOFT_COLS : Fld := ⟨0x0, 8, 8⟩
@[reducible] def Reg.TEST1.REPAIR_STATUS_FUSE_ENTRIES : Fld := ⟨0x0, 0, 8⟩
@[reducible] def Reg.TEST1.REPAIR_ENTRY_ENTRY : Fld := ⟨0x4, 0, 32⟩
@[reducible] def Reg.TEST1.REPAIR_PROG_GO : Fld := ⟨0x8, 0, 1⟩
@[reducible] def Reg.TEST1.REPAIR_RESULT_CODE : Fld := ⟨0xc, 0, 8⟩

/-! Fields of page kind SER. -/

@[reducible] def Reg.SER.RX_PTRS_ACK : Fld := ⟨0x10, 16, 7⟩
@[reducible] def Reg.SER.RX_PTRS_FILL : Fld := ⟨0x10, 0, 7⟩
@[reducible] def Reg.SER.RX_ACK_ACK : Fld := ⟨0x14, 0, 7⟩
@[reducible] def Reg.SER.RX_CFG_OWNER_KIND : Fld := ⟨0x18, 30, 2⟩
@[reducible] def Reg.SER.RX_CFG_WORLD : Fld := ⟨0x18, 12, 1⟩
@[reducible] def Reg.SER.RX_CFG_MOORING : Fld := ⟨0x18, 0, 12⟩
@[reducible] def Reg.SER.RX_BASE_LO_ADDR : Fld := ⟨0x1c, 0, 32⟩
@[reducible] def Reg.SER.RX_BASE_HI_ADDR : Fld := ⟨0x20, 0, 32⟩
@[reducible] def Reg.SER.RX_NOTICE_US : Fld := ⟨0x30, 0, 16⟩
@[reducible] def Reg.SER.RX_HEAD_HEAD : Fld := ⟨0x24, 0, 32⟩

/-! Fields of page kind SWP. -/

@[reducible] def Reg.SWP.SHAPER_IDLE_SLOPE : Fld := ⟨0x100, 0, 24⟩
@[reducible] def Reg.SWP.SHAPER_CREDIT : Fld := ⟨0x104, 0, 32⟩
@[reducible] def Reg.SWP.WRED_W : Fld := ⟨0x180, 0, 4⟩
@[reducible] def Reg.SWP.WRED_GREEN_MIN : Fld := ⟨0x184, 0, 17⟩
@[reducible] def Reg.SWP.WRED_GREEN_MAX : Fld := ⟨0x188, 0, 17⟩
@[reducible] def Reg.SWP.WRED_GREEN_P_MAX : Fld := ⟨0x188, 23, 9⟩
@[reducible] def Reg.SWP.WRED_YELLOW_MIN : Fld := ⟨0x18c, 0, 17⟩
@[reducible] def Reg.SWP.WRED_YELLOW_MAX : Fld := ⟨0x190, 0, 17⟩
@[reducible] def Reg.SWP.WRED_YELLOW_P_MAX : Fld := ⟨0x190, 23, 9⟩
@[reducible] def Reg.SWP.WRED_RED_MIN : Fld := ⟨0x194, 0, 17⟩
@[reducible] def Reg.SWP.WRED_RED_MAX : Fld := ⟨0x198, 0, 17⟩
@[reducible] def Reg.SWP.WRED_RED_P_MAX : Fld := ⟨0x198, 23, 9⟩
@[reducible] def Reg.SWP.PORT_COUNTER_LO : Fld := ⟨0x300, 0, 32⟩
@[reducible] def Reg.SWP.PORT_COUNTER_HI : Fld := ⟨0x304, 0, 32⟩
@[reducible] def Reg.SWP.CLASS_COUNTER_WORD : Fld := ⟨0x400, 0, 32⟩
@[reducible] def Reg.SWP.PORT_SPECIFIC_WORD : Fld := ⟨0x700, 0, 32⟩
@[reducible] def Reg.SWP.ACF_OP_OP : Fld := ⟨0xf8, 0, 32⟩
@[reducible] def Reg.SWP.GATE0_STATES : Fld := ⟨0x800, 0, 8⟩
@[reducible] def Reg.SWP.GATE0_INTERVAL : Fld := ⟨0x804, 0, 32⟩
@[reducible] def Reg.SWP.GATE1_STATES : Fld := ⟨0xc00, 0, 8⟩
@[reducible] def Reg.SWP.GATE1_INTERVAL : Fld := ⟨0xc04, 0, 32⟩

/-! Fields of page kind SWW. -/

@[reducible] def Reg.SWW.DATA_WORD : Fld := ⟨0x0, 0, 32⟩
@[reducible] def Reg.SWW.OP_OP : Fld := ⟨0x20, 0, 32⟩
@[reducible] def Reg.SWW.RESULT_WORD : Fld := ⟨0x40, 0, 32⟩

/-! Fields of page kind PORT. -/

@[reducible] def Reg.PORT.SA_WORD : Fld := ⟨0x100, 0, 32⟩

/-! Fields of page kind TIME1. -/

@[reducible] def Reg.TIME1.SLOT_WORD : Fld := ⟨0x100, 0, 32⟩

/-! Fields of page kind CAN. -/

@[reducible] def Reg.CAN.COMPOSE_WORD : Fld := ⟨0x100, 0, 32⟩
@[reducible] def Reg.CAN.FILTER_WORD : Fld := ⟨0x200, 0, 32⟩
@[reducible] def Reg.CAN.HEAD_VIEW_WORD : Fld := ⟨0x400, 0, 32⟩

/-! Fields of page kind LIN. -/

@[reducible] def Reg.LIN.RESP_BUF_WORD : Fld := ⟨0x100, 0, 32⟩
@[reducible] def Reg.LIN.RESP_ENTRY_ACTION : Fld := ⟨0x300, 6, 2⟩
@[reducible] def Reg.LIN.RESP_ENTRY_ENHANCED : Fld := ⟨0x300, 4, 1⟩
@[reducible] def Reg.LIN.RESP_ENTRY_LENGTH : Fld := ⟨0x300, 0, 4⟩

/-! Fields of page kind SER. -/

@[reducible] def Reg.SER.HEAD_VIEW_WORD : Fld := ⟨0x400, 0, 32⟩

/-! Fields of page kind TU. -/

@[reducible] def Reg.TU.GROUP_MASK : Fld := ⟨0x100, 16, 12⟩
@[reducible] def Reg.TU.GROUP_VALUE : Fld := ⟨0x100, 0, 12⟩

/-! Fields of page kind REGN. -/

@[reducible] def Reg.REGN.REGION_BASE : Fld := ⟨0x100, 0, 28⟩
@[reducible] def Reg.REGN.REGION_LIMIT : Fld := ⟨0x104, 0, 28⟩
@[reducible] def Reg.REGN.REGION_EN : Fld := ⟨0x108, 31, 1⟩
@[reducible] def Reg.REGN.REGION_GROUP : Fld := ⟨0x108, 16, 6⟩
@[reducible] def Reg.REGN.REGION_NW_W : Fld := ⟨0x108, 3, 1⟩
@[reducible] def Reg.REGN.REGION_NW_R : Fld := ⟨0x108, 2, 1⟩
@[reducible] def Reg.REGN.REGION_S_W : Fld := ⟨0x108, 1, 1⟩
@[reducible] def Reg.REGN.REGION_S_R : Fld := ⟨0x108, 0, 1⟩

/-! Fields of page kind OWNL. -/

@[reducible] def Reg.OWNL.OWNER_OWNED : Fld := ⟨0x0, 31, 1⟩

/-! Fields of page kind OWNS. -/

@[reducible] def Reg.OWNS.OWNER_OWNED : Fld := ⟨0x0, 31, 1⟩

/-! Fields of page kind OWNL. -/

@[reducible] def Reg.OWNL.OWNER_WORLD : Fld := ⟨0x0, 12, 1⟩

/-! Fields of page kind OWNS. -/

@[reducible] def Reg.OWNS.OWNER_WORLD : Fld := ⟨0x0, 12, 1⟩

/-! Fields of page kind OWNL. -/

@[reducible] def Reg.OWNL.OWNER_MOORING : Fld := ⟨0x0, 0, 12⟩

/-! Fields of page kind OWNS. -/

@[reducible] def Reg.OWNS.OWNER_MOORING : Fld := ⟨0x0, 0, 12⟩

/-! Fields of page kind HINGE. -/

@[reducible] def Reg.HINGE.REQQ_REFUSED : Fld := ⟨0x100, 24, 8⟩
@[reducible] def Reg.HINGE.REQQ_DISCARDED : Fld := ⟨0x100, 16, 8⟩
@[reducible] def Reg.HINGE.REQQ_LEVEL : Fld := ⟨0x100, 0, 13⟩
@[reducible] def Reg.HINGE.EVQ_OVERFLOW : Fld := ⟨0x500, 24, 8⟩
@[reducible] def Reg.HINGE.EVQ_DROPPED : Fld := ⟨0x500, 16, 8⟩
@[reducible] def Reg.HINGE.EVQ_LEVEL : Fld := ⟨0x500, 0, 13⟩
@[reducible] def Reg.HINGE.EVQ_ROUTE_ROUTE : Fld := ⟨0x900, 0, 32⟩
@[reducible] def Reg.HINGE.RING_ROUTE_ROUTE : Fld := ⟨0xd00, 0, 32⟩

/-! Fields of page kind LOG0. -/

@[reducible] def Reg.LOG0.EVK_PUB_WORD : Fld := ⟨0x100, 0, 32⟩
@[reducible] def Reg.LOG0.EXTENT_WORD : Fld := ⟨0x180, 0, 32⟩

/-! Fields of page kind STREAM. -/

@[reducible] def Reg.STREAM.POST_DATA_WORD : Fld := ⟨0x800, 0, 32⟩

/-! Fields of page kind KEY0. -/

@[reducible] def Reg.KEY0.ATTEST_PUB_WORD : Fld := ⟨0x100, 0, 32⟩
@[reducible] def Reg.KEY0.CERT_WORD : Fld := ⟨0x800, 0, 32⟩

/-! Fields of page kind SLOT. -/

@[reducible] def Reg.SLOT.PUBKEY_WORD : Fld := ⟨0x20, 0, 32⟩

/-! Fields of page kind TEST2. -/

@[reducible] def Reg.TEST2.TOKEN_WORD : Fld := ⟨0x100, 0, 32⟩
@[reducible] def Reg.TEST2.RETURN_PUB_WORD : Fld := ⟨0x180, 0, 32⟩

/-! Fields of page kind SAFE0. -/

@[reducible] def Reg.SAFE0.REACT_REACTION : Fld := ⟨0x100, 0, 3⟩
@[reducible] def Reg.SAFE0.REACT_FLOOR : Fld := ⟨0x100, 4, 3⟩
@[reducible] def Reg.SAFE0.SRC_COUNT_COUNT : Fld := ⟨0x200, 0, 16⟩

/-! Fields of page kind ZONE6. -/

@[reducible] def Reg.ZONE6.RECORD_WORD : Fld := ⟨0x100, 0, 32⟩

/-! Fields of page kind TEST0. -/

@[reducible] def Reg.TEST0.RESULT_WORD : Fld := ⟨0x100, 0, 32⟩

/-! Fields of page kind TEST1. -/

@[reducible] def Reg.TEST1.FUSE_ENTRY_ENTRY : Fld := ⟨0x100, 0, 32⟩

end Sys2Proof.Machine
end

