-- ==== Sys2Proof/Machine/Bits.lean ====
section
/-! DEFINITION. Bit fields, signed values, saturation and byte order (R20, R45): the helpers every meaning uses. -/

namespace Sys2Proof.Machine

/-- The value of field `f` in word `w`. -/
def Fld.get (f : Fld) (w : Word) : Nat := (w.toNat >>> f.lo) % 2 ^ f.w

/-- Word `w` with field `f` set to `v` modulo the width of the field. -/
def Fld.put (f : Fld) (w : Word) (v : Nat) : Word :=
  (w &&& ~~~ (BitVec.ofNat 32 ((2 ^ f.w - 1) <<< f.lo))) ||| BitVec.ofNat 32 ((v % 2 ^ f.w) <<< f.lo)

/-- A `w`-bit pattern read as two's complement (R20). -/
def toSigned (w n : Nat) : Int := if n % 2 ^ w < 2 ^ (w - 1) then (n % 2 ^ w : Nat) else (n % 2 ^ w : Nat) - (2 ^ w : Nat)

/-- An integer as a `w`-bit two's-complement pattern, wrapping (R20). -/
def ofSigned (w : Nat) (i : Int) : Nat := (i % (2 ^ w : Nat)).toNat

/-- An integer saturated at the limits of a signed field of `w` bits. -/
def satSigned (w : Nat) (i : Int) : Int :=
  if (2 ^ (w - 1) : Nat) ≤ i then (2 ^ (w - 1) : Nat) - 1
  else if i < -(2 ^ (w - 1) : Nat) then -(2 ^ (w - 1) : Nat) else i

/-- A count saturated at the limit of an unsigned field of `w` bits. -/
def satU (w n : Nat) : Nat := min n (2 ^ w - 1)

/-- Bit `n` of a word. -/
def bitOf (w : Word) (n : Nat) : Bool := w.getLsbD n

/-- Word `w` with bit `n` set to `b`. -/
def withBit (w : Word) (n : Nat) (b : Bool) : Word :=
  if b then w ||| (1#32 <<< n) else w &&& ~~~ (1#32 <<< n)

/-- 1 for true. -/
def b2n (b : Bool) : Nat := if b then 1 else 0

/-- The `n` bytes of a number, little-endian. -/
def leBytes : Nat → Nat → List Byte
  | 0, _ => []
  | n + 1, v => BitVec.ofNat 8 v :: leBytes n (v / 256)

/-- The `n` bytes of a number, big-endian. -/
def beBytes (n v : Nat) : List Byte := (leBytes n v).reverse

/-- The number that big-endian bytes spell. -/
def beNat (l : List Byte) : Nat := l.foldl (fun n b => n * 256 + b.toNat) 0

/-- The number that little-endian bytes spell. -/
def leNat : List Byte → Nat
  | [] => 0
  | b :: r => b.toNat + 256 * leNat r

/-- The number that `n` bytes at offset `o` of `l` spell, little-endian; bytes past the end count as zero. -/
def leAt (l : List Byte) (o n : Nat) : Nat := leNat ((l.drop o).take n)

/-- `l` cut or zero-extended to `n` bytes. -/
def padTo (n : Nat) (l : List Byte) : List Byte := (l ++ List.replicate n 0#8).take n

/-- Entry `k` of a list, or `d`. -/
def nthD {α : Type} (l : List α) (k : Nat) (d : α) : α := l.getD k d

/-- The list with entry `k` replaced. -/
def setNth {α : Type} (l : List α) (k : Nat) (v : α) : List α := l.set k v

/-- The list without its `k`-th entry. -/
def dropNth {α : Type} (l : List α) (k : Nat) : List α := l.eraseIdx k

/-- The numbers below `n` that satisfy `p`, rising. -/
def numbers (n : Nat) (p : Nat → Bool) : List Nat := (List.range n).filter p

end Sys2Proof.Machine
end

