-- ==== Sys2Proof/Machine/ResetVals.lean ====
section
/-! DEFINITION. The populated pages (R25) and the reset value of every register word (R17), with the per-channel values
that the register tables leave to the text. -/

namespace Sys2Proof.Machine

/-- The key of a page: its address less 0x1_F000_0000 (R24). -/
@[reducible] def page (bank ch : Nat) : Nat := bank * 0x100000 + ch * 0x1000

@[reducible] def pZONE (n : Nat) : Nat := page 0 n
@[reducible] def pKEEPER (k : Keeper) : Nat := page 0 (1 + k.idx)
@[reducible] def pLOAD (n : Nat) : Nat := page 1 n
@[reducible] def pCHAR (n : Nat) : Nat := page 2 n
@[reducible] def pINPUT (n : Nat) : Nat := page 3 n
@[reducible] def pPORT (n : Nat) : Nat := page 4 n
/-- The page of the switch core itself. -/
@[reducible] def pSW : Nat := page 5 0
/-- The page of switch port p. -/
@[reducible] def pSWP (p : Nat) : Nat := page 5 (p + 1)
/-- The page of table window w, 64 to 70 (R373). -/
@[reducible] def pSWW (w : Nat) : Nat := page 5 w
@[reducible] def pCAN (n : Nat) : Nat := page 6 n
@[reducible] def pSER (n : Nat) : Nat := page 7 n
@[reducible] def pTIME : Nat := page 8 0
@[reducible] def pFLEET : Nat := page 8 1
@[reducible] def pTSQ (n : Nat) : Nat := page 8 (n + 2)
@[reducible] def pCAL (n : Nat) : Nat := page 9 n
@[reducible] def pSHUNT : Nat := page 9 48
@[reducible] def pBAL : Nat := page 9 49
@[reducible] def pRING : Nat := page 9 50
@[reducible] def pLOG : Nat := page 10 0
@[reducible] def pSTREAM (n : Nat) : Nat := page 10 (n + 1)
@[reducible] def pKEY : Nat := page 11 0
/-- The record of keyring slot n (R620). -/
@[reducible] def pSLOT (n : Nat) : Nat := page 11 (1 + n / 16) + (n % 16) * 0x100
@[reducible] def pHINGE (n : Nat) : Nat := page 12 n
@[reducible] def pSAFE : Nat := page 13 0
/-- The page of alarm output 0 ALARM_A or 1 ALARM_B. -/
@[reducible] def pALARM (n : Nat) : Nat := page 13 (n + 1)
@[reducible] def pTU : Nat := page 14 0
@[reducible] def pREGN (n : Nat) : Nat := page 14 n
@[reducible] def pGRANT : Nat := page 14 32
/-- The record of queue pair q (R532). -/
@[reducible] def pPAIR (q : Nat) : Nat := page 14 (33 + q / 128) + (q % 128) * 32
@[reducible] def pOWNL : Nat := page 14 41
@[reducible] def pOWNS : Nat := page 14 42
@[reducible] def pTEST (n : Nat) : Nat := page 15 n
/-- The operation window of keyring slot n at 0x1_F500_0000 + n × 0x1000 (R596). -/
@[reducible] def pWIN (n : Nat) : Nat := 0x5000000 + n * 0x1000

/-- The kind of a channel page, none where the page is not populated (R25). -/
def pageKind (bank ch : Nat) : Option PageKind :=
  match bank with
  | 0 => match ch with
    | 0 => some .zone0 | 1 => some .keeper | 2 => some .keeper | 3 => some .zone3 | 4 => some .zone4
    | 5 => some .zone5 | 6 => some .zone6 | 7 => some .zone7 | _ => none
  | 1 => if ch < 48 then some .load else none
  | 2 => if ch < 16 then some .char else none
  | 3 => if ch < 32 then some .input else none
  | 4 => if ch < 28 then some .port else none
  | 5 => if ch = 0 then some .sw0 else if ch ≤ 32 then some .swp
         else if 64 ≤ ch ∧ ch ≤ 70 then some .sww else if 64 ≤ ch ∧ ch ≤ 127 then some .empty else none
  | 6 => if ch < 16 then some .can else none
  | 7 => if ch < 6 then some .lin else if ch < 8 then some .ser else none
  | 8 => if ch = 0 then some .time0 else if ch = 1 then some .time1 else if ch ≤ 29 then some .tsq else none
  | 9 => if ch < 48 then some .cal else if ch = 48 then some .shunt else if ch = 49 then some .bal
         else if ch = 50 then some .ring else none
  | 10 => if ch = 0 then some .log0 else if ch ≤ 64 then some .stream else none
  | 11 => if ch = 0 then some .key0 else if ch ≤ 16 then some .slot else none
  | 12 => match ch with
    | 0 => some .hinge0 | 1 => some .hinge1 | 2 => some .hinge2 | _ => none
  | 13 => if ch = 0 then some .safe0 else if ch ≤ 2 then some .alarm else none
  | 14 => if ch = 0 then some .tu else if ch ≤ 13 then some .regn else if ch ≤ 31 then some .empty
          else if ch = 32 then some .grant else if ch ≤ 40 then some .qpr else if ch = 41 then some .ownl
          else if ch = 42 then some .owns else if ch ≤ 47 then some .empty else none
  | 15 => match ch with
    | 0 => some .test0 | 1 => some .test1 | 2 => some .test2 | _ => none
  | _ => if 0x50 ≤ bank ∧ bank ≤ 0x50 then some .win else none

/-- The bank, channel and offset of a register key. Operation windows lie above the register space, in bank 0x50. -/
def keyBank (k : Nat) : Nat := k / 0x100000
def keyChan (k : Nat) : Nat := k / 0x1000 % 256
def keyOff (k : Nat) : Nat := k % 0x1000
/-- The page key of a register key. -/
def keyPage (k : Nat) : Nat := k - k % 0x1000

/-- Whether descriptor `d` describes the word at offset `off`. -/
def WordD.covers (d : WordD) (off : Nat) : Bool :=
  if d.n ≤ 1 then off == d.off
  else decide (d.off ≤ off) && decide ((off - d.off) % d.stride = 0) && decide ((off - d.off) / d.stride < d.n)

/-- The descriptor of the word at offset `off` of a page of kind `k`, none where no register is defined there (R28). -/
def wordD (k : PageKind) (off : Nat) : Option WordD := k.words.find? (·.covers off)

/-- The classes of load output (R238). -/
inductive LoadClass where
  | h20
  | h8
  | h3
  | leg
deriving DecidableEq, Repr

/-- The class of load output n (R238). -/
def loadClass (n : Nat) : LoadClass :=
  if n < 8 then .h20 else if n < 24 then .h8 else if n < 40 then .h3 else .leg

/-- I_NOM at reset, in 10 mA units (R255). -/
def LoadClass.iNom : LoadClass → Nat
  | .h20 => 0x7D0 | .h8 => 0x320 | .h3 => 0x12C | .leg => 0x5DC

/-- SOFT_LIMIT at reset, in 0.001 A²s units (R255). -/
def LoadClass.softLimit : LoadClass → Nat
  | .h20 => 0x30D40 | .h8 => 0xC350 | .h3 => 0x1F40 | .leg => 0x249F0

/-- The largest SOFT_LIMIT (R255). -/
def LoadClass.softMax : LoadClass → Nat
  | .h20 => 800000 | .h8 => 200000 | .h3 => 32000 | .leg => 600000

/-- The default reaction of fault source n (R625). -/
def reactDefault (n : Nat) : Nat :=
  nthD [1, 4, 1, 3, 1, 0, 1, 2, 2, 1, 1, 1, 1, 1, 1, 1, 1, 2, 1, 1, 1, 1, 1, 1, 1, 3, 0, 1] n 0

/-- The floor of fault source n (R625); TABLE_FAULT has none. -/
def reactFloor (n : Nat) : Nat :=
  nthD [1, 3, 0, 2, 0, 0, 0, 1, 2, 1, 1, 1, 0, 0, 0, 1, 0, 1, 0, 0, 0, 0, 1, 1, 1, 3, 0, 1] n 0

/-- First and last 4 KiB page of the range of memory controller c, 1 to 13, as physical address [39:12] (R501). The H0
outbound window of controller 13 spans the three H0 ranges of R537. -/
def controllerRange (c : Nat) : Nat × Nat :=
  if c = 1 then (0x1000000, 0x13FFFFF)
  else if c ≤ 5 then (0x1E0000 + (c - 2) * 0x80, 0x1E0000 + (c - 2) * 0x80 + 0x7F)
  else if c ≤ 9 then (0x1E0200 + (c - 6) * 0x80, 0x1E0200 + (c - 6) * 0x80 + 0x7F)
  else if c = 10 then (0x1E0400, 0x1E04FF)
  else if c = 11 then (0x1C0000, 0x1DFFFF)
  else if c = 12 then (0x1F0000, 0x1F7FFF)
  else (0x190000, 0x2FFFFFF)

/-- The regions of controller c (R501). -/
def controllerRegions (c : Nat) : Nat := if c = 1 ∨ c = 12 then 32 else 8

/-- Reset values that the register tables leave to the text of their chapters, by page kind, channel and offset. -/
def resetSpecial (k : PageKind) (ch off : Nat) : Option Nat :=
  match k with
  | .load =>
    if off = 0x028 then some (loadClass ch).iNom
    else if off = 0x02C then some (loadClass ch).softLimit
    else if off = 0x030 ∧ ch < 40 then some 0
    else if off = 0x030 ∧ ch % 2 = 1 then some 0x004
    else none
  | .sw0 =>
    if off = 0x008 then some (131072 - 4608 - 9216) else if off = 0x00C then some 9216 else none
  | .swp =>
    if off = 0x000 ∧ 29 ≤ ch then some (0x80000000 + 0x0012000)
    else if 0x020 ≤ off ∧ off < 0x040 ∧ off % 4 = 0 then
      some (3 * 2 ^ 26 + (if 29 ≤ ch then 64 else 32) * 2 ^ 12)
    else if off = 0x064 then some (if 29 ≤ ch then 0 else 2)
    else none
  | .port => if 4 ≤ ch ∧ (off = 0x014 ∨ off = 0x018) then some 0 else none
  | .tsq => if off = 0x004 then some ((ch - 2) * 2 ^ 16) else none
  | .can => if 4 ≤ ch ∧ 0x05C ≤ off ∧ off ≤ 0x06C then some 0 else none
  | .tu => if 0x100 ≤ off ∧ off < 0x200 ∧ off % 4 = 0 then some (if off = 0x100 then 0 else 0xFFF * 2 ^ 16) else none
  | .regn =>
    if off = 0x000 then some (controllerRegions ch)
    else if off = 0x100 then some (controllerRange ch).1
    else if off = 0x104 then some (controllerRange ch).2
    else if off = 0x108 then some 0x80000003
    else none
  | .hinge0 => if off = 0x004 then some 10000 else none
  | .hinge1 => if off = 0x004 then some 1000 else if off = 0x000 then some 4 else none
  | .hinge2 =>
    if off = 0x004 then some 1000 else if off = 0x000 then some 4 else if off = 0x008 then some 0 else none
  | .stream => if off = 0x000 ∧ ch = 1 then some 3 else none
  | .keeper => if ch = 2 ∧ 0x080 ≤ off ∧ off ≤ 0x090 then some 0 else none
  | .safe0 =>
    if 0x100 ≤ off ∧ off < 0x170 ∧ off % 4 = 0 then
      some (reactDefault ((off - 0x100) / 4) + reactFloor ((off - 0x100) / 4) * 16)
    else none
  | _ => none

/-- The descriptor of the register word at key `k`. -/
def keyD (k : Nat) : Option (PageKind × WordD) :=
  match pageKind (keyBank k) (keyChan k) with
  | none => none
  | some p =>
    match wordD p (keyOff k) with
    | none => none
    | some d => some (p, d)

/-- The reset value of the register word at key `k` (R17); a word that no table defines reads zero (R28). -/
def resetWord (k : Nat) : Word :=
  match keyD k with
  | none => 0
  | some (p, d) =>
    match resetSpecial p (keyChan k) (keyOff k) with
    | some v => BitVec.ofNat 32 v
    | none => BitVec.ofNat 32 d.reset

end Sys2Proof.Machine
end

