-- ==== Sys2Proof/Machine/SMap.lean ====
section
/-! DEFINITION. Sparse maps in one canonical form: keys strictly rising, no entry equal to the default of its key. Every
array of the module that is large or sparse (the register file, chart memory, tables, pools) is held in this form, so
that equal contents are equal data. -/

namespace Sys2Proof.Machine

/-- A sparse array: the entries that differ from the default, by rising key. -/
abbrev SMap (α : Type) := List (Nat × α)

variable {α : Type}

/-- The entry at key `k`; an unlisted key reads as `d k`. -/
def SMap.get (d : Nat → α) (m : SMap α) (k : Nat) : α :=
  match m with
  | [] => d k
  | (j, v) :: r => if j = k then v else SMap.get d r k

/-- Remove every entry of key `k`. -/
def SMap.erase (m : SMap α) (k : Nat) : SMap α :=
  match m with
  | [] => []
  | (j, v) :: r => if j = k then SMap.erase r k else (j, v) :: SMap.erase r k

/-- Insert the pair (`k`, `v`) at its place in a map of rising keys, replacing an entry of `k`. -/
def SMap.insert (m : SMap α) (k : Nat) (v : α) : SMap α :=
  match m with
  | [] => [(k, v)]
  | (j, w) :: r =>
    if k < j then (k, v) :: (j, w) :: r
    else if k = j then (k, v) :: r
    else (j, w) :: SMap.insert r k v

/-- Write `v` at key `k`; writing the default removes the entry. -/
def SMap.set [DecidableEq α] (d : Nat → α) (m : SMap α) (k : Nat) (v : α) : SMap α :=
  if v = d k then SMap.erase m k else SMap.insert m k v

/-- Keys strictly rise above `lo` and no entry equals the default of its key. -/
def SMap.wfFrom [DecidableEq α] (d : Nat → α) (lo : Nat) (m : SMap α) : Bool :=
  match m with
  | [] => true
  | (j, v) :: r => decide (lo ≤ j) && (decide (v ≠ d j) && SMap.wfFrom d (j + 1) r)

/-- The canonical form. -/
def SMap.wf [DecidableEq α] (d : Nat → α) (m : SMap α) : Bool := SMap.wfFrom d 0 m

/-- Keep the entries whose key satisfies `p`. -/
def SMap.keep (p : Nat → Bool) (m : SMap α) : SMap α := List.filter (fun e => p e.1) m

end Sys2Proof.Machine
end

