-- ==== Sys2Proof/Machine/State.lean ====
section
/-! DEFINITION. The state of the module: the register file, which is the one home of every value that a register shows,
and the internal state of each part that no register shows; all of it plain data. -/

namespace Sys2Proof.Machine

/-- Why a command stops the machine with a fault. No command of this block stops it: the spec gives each an effect. -/
inductive Fault where
  /-- Raised by no command; kept so that the type is inhabited. Safe. -/
  | none
deriving DecidableEq, Repr

/-- Why a command is refused. -/
inductive Refusal where
  /-- Raised by exec for a command that has no meaning yet, by its mnemonic. Safe. -/
  | notModelled (mnemonic : String)
deriving DecidableEq, Repr

/-! ## Network time and the fleet domain -/

/-- The counter of R376: seconds, nanoseconds, and fraction in 2^-32 ns. -/
structure NetTime where
  sec : BitVec 48
  ns : BitVec 32
  frac : BitVec 32
deriving DecidableEq, Repr

/-- A time in the TS96 format of R380: SEC, NS, FRAC[31:24] and the time-state byte. -/
structure Stamp where
  sec : BitVec 48
  ns : BitVec 32
  frac : Byte
  state : Byte
deriving DecidableEq, Repr

/-- A FORCE_TIME_STEP of MODE 0 that waits for a measurement until `due` (R391). -/
structure WaitingStep where
  seq : BitVec 32
  due : Nat
deriving DecidableEq, Repr

/-- A change of the course of network time: its tick, and the counter in 2^-32 ns and its increment before it. -/
structure TimeMark where
  at_ : Nat
  total : Nat
  inc : Nat
deriving DecidableEq, Repr

/-- The time base and its servo (R376 to R398): the counter and its copy, whether the clock is stopped (R289), the always-on
counter with its fraction (R378), the rate and phase terms and the residue of R678, the last used measurement, the
measurements counted by R387, the rate terms of the last 16 s of LOCKED by tick, newest first, and the tick LOCKED began
(R388), the base state of R385, the waiting FORCE_TIME_STEP of each mode, the syncs of each instance with the tick of the
last, the offsets that the ring estimator pairs (R313), the measured link delays in 1/256 ns and the last Announce by instance and port,
the gPTP frames that the switch has handed over (R394), the tick of the last used 1PPS edge, the marks that CRD sees until
the slot of that number ends (R402), and the changes of the course of network time since START, newest first. -/
structure TimeSt where
  net : NetTime
  copy : NetTime
  stopped : Bool
  aon : Nat
  aonAcc : Nat
  lastStep : Option Nat
  base : Nat
  rateTerm : Int
  phaseTerm : Int
  resid : Int
  lastUsed : Option Nat
  excess : Nat
  good : Nat
  history : List (Nat × Int)
  lockedAt : Nat
  holdoverSince : Option Nat
  waiting : Option WaitingStep
  pendingStep : Option (BitVec 32 × Int)
  sleepNs : Nat
  residence : Nat
  syncs0 : Nat
  syncs1 : Nat
  syncAt0 : Nat
  syncAt1 : Nat
  ringOff0 : Option Int
  ringOff1 : Option Int
  ringSum : Int
  ringCount : Nat
  ringBroken : Bool
  ringSecond : Nat
  ppsUsed : Option Nat
  late : BitVec 16
  marked : Option (Nat × Word)
  delays : SMap Int
  masters : SMap (Option Master)
  inbox : List (Nat × List Byte)
  marks : List TimeMark
deriving DecidableEq, Repr

/-- An entry of a transmit-timestamp queue (R382). -/
structure TsqEntry where
  tag : BitVec 16
  sec : BitVec 48
  ns : BitVec 32
  frac : Byte
deriving DecidableEq, Repr

/-! ## Safety monitor -/

/-- A fault report on its way to the safety monitor (R623, R628). -/
structure Report where
  source : Nat
  detail : Word
  injected : Bool
  tick : Nat
  time : BitVec 64
deriving DecidableEq, Repr

/-- An entry of the fault log of R640. -/
structure FaultEntry where
  source : Nat
  reaction : Nat
  injected : Bool
  detail : Word
  time : BitVec 64
deriving DecidableEq, Repr

/-- One lane of the safety monitor (R623): the sources whose last report missed it, the demands it holds, whether they
cannot be released (R630). -/
structure Lane where
  missed : Word
  cluster : Bool
  all : Bool
  fixed : Bool
deriving DecidableEq, Repr

/-- One alarm output (R636 to R639): whether it toggles, the period of its frame, the code and counter of the frame, the
tick of the period's start and its low time, its readback runs and its test. -/
structure AlarmLane where
  toggling : Bool
  period : Nat
  code : Nat
  counter : Nat
  since : Nat
  lowUs : Nat
  wrong : Nat
  right : Nat
  testUntil : Option Nat
deriving DecidableEq, Repr

/-- The safety monitor's state that no register shows: the reports under way, the fault log, the sources that stay active
from their report (R680), the highest class of the TABLE_FAULT reports since it became active (R632), the lanes and alarm outputs, the comparisons that
differed, the pending reset with the source that demanded it, and the ticks of the last injected report, of the last DUALPASS_TRANSIENT and of each keeper's
FAIL verdict; and the windows that each clock monitor has judged bad and good in a row (R626). -/
structure SafetySt where
  latched : Word
  tableClass : Nat
  clockBad : SMap Nat
  clockGood : SMap Nat
  reports : List Report
  log : List FaultEntry
  laneA : Lane
  laneB : Lane
  mismatches : Nat
  resetDue : Option Nat
  resetSource : Nat
  alarmA : AlarmLane
  alarmB : AlarmLane
  injectedAt : Option Nat
  transientAt : Option Nat
  verdictA : Option Nat
  verdictB : Option Nat
deriving DecidableEq, Repr

/-! ## Records and the management queue -/

/-- A module record waiting for the logbook (R569, R571): its type, its time and its payload, and whether the logbook holds it in its own
buffer, because it did not run when the record was posted. -/
structure ModRecord where
  kind : Nat
  time : Stamp
  payload : List Byte
  held : Bool
deriving DecidableEq, Repr

/-- A response or notice sent on the management queue (R45, R44, R403). -/
structure Reply where
  code : Nat
  seq : BitVec 32
  node : Nat
  status : Nat
  state : Nat
  result : List Byte
  mac : BitVec 128
deriving DecidableEq, Repr

/-- A supervisor command that is executing (R48): its code, its SEQ, and whether its response is still to be sent. -/
structure Executing where
  code : Nat
  seq : BitVec 32
  answerDue : Bool
deriving DecidableEq, Repr

/-- The supervisor link (R42 to R51). -/
structure SupervisorSt where
  seqHigh : Option (BitVec 32)
  sessionKey : Option (List Byte)
  executing : List Executing
  replies : List Reply
  noticeDue : Option Nat
deriving DecidableEq, Repr

/-! ## Tickets -/

/-- The state of a ticket (R148). -/
inductive TicketState where
  | free
  | issued
  | done
deriving DecidableEq, Repr

/-- One ticket of a keeper: `serial` names the operation it was issued for, so that a late completion never lands on a
ticket that has been issued again (R150). -/
structure Ticket where
  state : TicketState
  serial : Nat
  issueSlot : Nat
  issueTick : Nat
  status : Nat
  age : Nat
  value : Nat
deriving DecidableEq, Repr

/-- The ticket that a completion belongs to. -/
structure TicketRef where
  keeper : Keeper
  num : Nat
  serial : Nat
deriving DecidableEq, Repr

/-! ## Pulse generators and load outputs -/

/-- An applied waveform (R276 to R281): its mode, its period, its on-time in PWM, its pattern, its phase length. -/
structure Wave where
  mode : Nat
  periodNs : Nat
  onNs : Nat
  pattern : Word
  stepNs : Nat
deriving DecidableEq, Repr

/-- A segment of a generator's history: from network time `since` on its level at T is that of `wave` at T + `offset` (R282,
R288). -/
structure Seg where
  since : Int
  offset : Int
  wave : Wave
deriving DecidableEq, Repr

/-- A pulse generator: the applied waveform, its history, newest first (a segment yet to begin stands first), the applied duty
target and fade, the phases of its pattern, its next boundary, and whether it follows no boundary until then (R288, R289). -/
structure GenSt where
  cur : Wave
  segs : List Seg
  duty : Nat
  fade : Nat
  length : Nat
  next : Nat
  holding : Bool
deriving DecidableEq, Repr

/-- A running OFF_DIAG (R273): its ticket, whether the output stood above half of the feed at its start, and its end. -/
structure OffDiag where
  ticket : TicketRef
  shorted : Bool
  due : Nat
deriving DecidableEq, Repr

/-- The controller of a load output: whether its switches (high side or the one switch, low side) are closed and the ticks at which
they last opened (R247), the ticks of the edges of the last 100 µs, newest first, true for the high side (R299), the ticks of the last steps of the accumulator and of the open-load filter, and the steps in a row below and above its threshold (R270), the accumulator of R254, its timers as ticks, what it applies of its request, and
the reasons for which its safe state is in force. -/
structure LoadSt where
  hi : Bool
  lo : Bool
  hiOff : Option Nat
  loOff : Option Nat
  edges : List (Nat × Bool)
  tickAt : Option Nat
  olAt : Option Nat
  below : Nat
  above : Nat
  acc : Nat
  windowEnd : Option Nat
  tripAt : Option Nat
  tripLeg : Nat
  firedAt : Option Nat
  spacingEnd : Option Nat
  zeroSince : Option Nat
  refilled : Bool
  applied : Nat
  gen : Nat
  phase : Nat
  followSince : Option Nat
  gapEnd : Option Nat
  silent : Bool
  demanded : Bool
  owed : Bool
  forced : Bool
  offDiag : Option OffDiag
deriving DecidableEq, Repr

/-- A feed-sag event (R259): its tick and the channel it is attributed to. -/
structure Sag where
  at_ : Nat
  channel : Option Nat
deriving DecidableEq, Repr

/-! ## Supply and inputs -/

/-- A feed as it is, whatever the monitor shows (R65, R69): the code of its band, the tick at which it rose above surge entry, and its
voltage at the last crossing in 4 mV units. -/
structure FeedSt where
  band : Nat
  surgeAt : Option Nat
  volts : Option (BitVec 16)
deriving DecidableEq, Repr

/-- The supply and the timers of its monitor (R65, R66): both feeds, whether the electronics supply lies in cranking hold, the time in
cranking hold in ticks, and the tick at which the supply rose above cranking hold exit. -/
structure SupplySt where
  feedA : FeedSt
  feedB : FeedSt
  low : Bool
  crankTicks : Nat
  aboveSince : Option Nat
deriving DecidableEq, Repr

/-- An input (R83 to R86): its last ten samples in mV, newest first, its candidate level and the tick it took it, and the
ticks of the last capture crossings. -/
structure InputSt where
  samples : List Nat
  candidate : Bool
  since : Nat
  lastRise : Option Nat
  lastFall : Option Nat
deriving DecidableEq, Repr

/-! ## Calibration and balance -/

/-- The block that a channel's estimator accumulates (R302), the tick of its last completed block (R305), the sums of a completed block
that waits for the next 10 µs boundary (R302, R304), and, after a change of gain and offset, the values before it with the boundary at
which the change takes effect (R298). -/
structure CalSt where
  sxx : Nat
  sxy : Int
  sz : Int
  lastBlock : Nat
  due : Option (Nat × Int × Int)
  held : Option (Nat × Int × Nat)
deriving DecidableEq, Repr

/-- One channel's values in the calibration record of managed flash (R307). -/
structure CalRec where
  gain : Nat
  offset : Nat
  frozen : Bool
  cause : Nat
deriving DecidableEq, Repr

/-- The calibration record, whether a value has changed since its last write, and the tick of that write (R307); the
balance check of each feed: the run of evaluations above 1.5 A, the tick since which the residual stays at or below 1.0 A,
and the tick at which the feed's band last changed (R309, R310). -/
structure BalSt where
  record : SMap CalRec
  changed : Bool
  written : Nat
  runA : Nat
  runB : Nat
  calmA : Option Nat
  calmB : Option Nat
  bandAtA : Option Nat
  bandAtB : Option Nat
deriving DecidableEq, Repr

/-! ## Tables, queues and keepers -/

/-- The binding of a queue (R176, R677): its world, mooring and depth. -/
structure QBind where
  world : World
  mooring : BitVec 12
  depth : Nat
deriving DecidableEq, Repr

/-- A queue declaration of a table (R193). -/
structure QDecl where
  event : Bool
  queue : Nat
  bind : QBind
deriving DecidableEq, Repr

/-- A step of a table (R188, R189). -/
structure StepD where
  start : Nat
  length : Nat
  mask : BitVec 64
deriving DecidableEq, Repr

/-- A range of the mirror declaration (R191). -/
structure MirrorRange where
  start : Nat
  count : Nat
  carry : Bool
deriving DecidableEq, Repr

/-- A loaded table in its internal form (R183, R186 to R193): the slot map lists slot and step, the chart initialisation
its first address and words. -/
structure Table where
  id : Word
  version : Word
  kind : Nat
  mode : Nat
  roundSlots : Nat
  code : List Word
  steps : List StepD
  slotMap : List (Nat × Nat)
  mirror : List MirrorRange
  init : List (Nat × List Word)
  queues : List QDecl
deriving DecidableEq, Repr

/-- A word of a request queue, and the slot marks counted when its frame became complete (R179). -/
structure QWord where
  word : Word
  mark : Nat
deriving DecidableEq, Repr

/-- A request queue (R176 to R180): its binding, its words, the words that each keeper has taken of them, the incomplete
frame with the words it still needs and the tick of its first word, and the words still to be refused with a refused
first word, those of the bound mooring and those of each source that is not (R552). -/
structure ReqQueue where
  bind : Option QBind
  words : List QWord
  posA : Nat
  posB : Nat
  frame : List Word
  need : Nat
  frameAt : Nat
  refuse : Nat
  aliens : List (Source × Nat)
deriving DecidableEq, Repr

/-- An event queue (R181), and whether it owes the notice of R549. -/
structure EvtQueue where
  bind : Option QBind
  words : List Word
  noticeDue : Bool
deriving DecidableEq, Repr

/-- A claim heard on a claim line, with its slot (R208). -/
structure Heard where
  slot : Nat
  claim : Nat
deriving DecidableEq, Repr

/-- A claim-checking stage (R208 to R211): the last valid beacons of each keeper, newest first, the issue slot of the last
command accepted from each, the tick of the last valid beacon, and whether it drives its safe state. -/
structure StageSt where
  heardA : List Heard
  heardB : List Heard
  acceptedA : Option Nat
  acceptedB : Option Nat
  lastHeard : Option Nat
  silent : Bool
deriving DecidableEq, Repr

/-- The mirror words of one slot on the link (R220, R222): the words in sending order, each with its group (none for a
refresh word) and its address, and the closing frame: the number of words, of groups, and the CRC-32. -/
structure MirrorFrame where
  slot : Nat
  words : List (Option Nat × Nat × Word)
  closing : Option (Nat × Nat × Word)
deriving DecidableEq, Repr

/-- What a keeper has heard of the other one: the slot of its last valid beacon, whether that one carried FAIL, the slots
missed in a row, and the valid beacons in a row, all of them and those with the hearer's own TABLE_TAG (R214, R226). -/
structure OtherSt where
  slot : Option Nat
  fail : Bool
  missed : Nat
  valid : Nat
  same : Nat
deriving DecidableEq, Repr

/-- A word that a keeper has written lately: its key, its value before, and the slot of the write (R138). -/
structure RecentWrite where
  key : Nat
  old : Word
  slot : Nat
deriving DecidableEq, Repr

/-- A keeper (R104 to R106, R183, R202 to R237): its working registers and flags, the cycles of the slot and the place in
the step it runs, the instructions still to pass over, its chart, the halves of its table memory and which one runs, the
open mirror group and the groups closed in the slot, its mirror link as sender and as receiver, its slot (network slot
number, tick of the mark, the time values of R159), its round length, the claim it has announced and the takeover beacons
left, its claim line, what it hears of the other keeper, a takeover in progress, the tick of a fence on it, the rounds
since it began its table, its run of refresh slots (R222), the words it wrote lately, and the operations whose tickets complete
with CLAIM in the next slot (R147). -/
structure KeeperSt where
  w : SMap Word
  z : Bool
  n : Bool
  c : Bool
  v : Bool
  cycles : Nat
  skip : Nat
  inStep : Bool
  step : Nat
  index : Nat
  chart : SMap Word
  half0 : Option Table
  half1 : Option Table
  runs : Option Bool
  group : List (Nat × Word)
  groups : List (List (Nat × Word))
  sent : Option MirrorFrame
  rx : Option MirrorFrame
  slotNo : Nat
  markAt : Option Nat
  round : Nat
  slot : Nat
  roundLen : Nat
  announced : Nat
  high : Nat
  beaconDue : Bool
  line : Option Word
  other : OtherSt
  taking : Bool
  holdNext : Bool
  fenceAt : Option Nat
  rounds : Nat
  passRun : Nat
  lastFrame : Option Nat
  recent : List RecentWrite
  dropped : List TicketRef
deriving DecidableEq, Repr

/-- The table change that waits for a round boundary: the begin of the loaded table by every healthy keeper (R657, R659, R665), a
trial (R231), a rollback (R233). -/
inductive TableChange where
  | start
  | trial
  | rollback
deriving DecidableEq, Repr

/-- A LOAD_TABLE in progress (R230): its command, its image, and the word of each keeper's verdict. -/
structure LoadCmd where
  seq : BitVec 32
  image : List Byte
  wordA : Option Nat
  wordB : Option Nat
deriving DecidableEq, Repr

/-- A scheduled watch change (R225, R232, R234): its command where it has one (code and SEQ), whether it commits the trial,
whether it raises the floor. -/
structure WatchSched where
  cmd : Option (Nat × BitVec 32)
  commit : Bool
  raise : Bool
deriving DecidableEq, Repr

/-- What both keepers share: a scheduled watch change, the change announced for the next mark, a table change scheduled for
the next boundary with its command, and the load in progress. -/
structure WatchSt where
  sched : Option WatchSched
  swap : Option WatchSched
  change : Option (TableChange × Option (BitVec 32))
  load : Option LoadCmd
deriving DecidableEq, Repr

/-! ## Switch -/

/-- A copy of a frame on its way to one egress port (R326, R337): the frame as it entered the switch, without FCS and without
MACsec, its ingress stamp and its time on the residence clock (R355), its classified VID and PCP, whether it entered with a
tag that stays, its colour (0 green, 1 yellow, 2 red), its stream, the sequence number that a generation function gave it,
the host pair or receive queue it is for, the frame tag of TS_REQ, whether it is a mirror copy and whether it waits (R340). -/
structure Copy where
  frame : List Byte
  arrived : Stamp
  stamp : Nat
  vid : Nat
  pcp : Nat
  tagged : Bool
  colour : Nat
  stream : Option Nat
  seq : Option Nat
  queue : Nat
  tsTag : Option (BitVec 16)
  mirror : Bool
  waiting : Bool
deriving DecidableEq, Repr

/-- What an egress side of the crossbar holds (R342): the copy it fetches, where from, the cells it has, and the frame on the
wire once transmission has begun; of a frame sent cut-through, whether its reception still runs, and whether it proved bad and ends
with an inverted FCS (R352). -/
structure EgressSt where
  ingress : Nat
  cls : Nat
  copy : Copy
  fetched : Nat
  sending : Option (List Byte)
  live : Bool
  spoiled : Bool
deriving DecidableEq, Repr

/-- A connection of the crossbar: its ingress side and the cells left in its burst. -/
structure Conn where
  ingress : Nat
  left : Nat
deriving DecidableEq, Repr

/-- A gate list in operation or committed: entries, cycle and offset. -/
structure GateList where
  count : Nat
  cycle : Nat
  offset : Nat
deriving DecidableEq, Repr

/-- The gate-control loader of a switch port (R348 to R350): the operating list, the list that a commit stages with the
network time at which it takes over, and after a step the boundary at which the list resumes with the states kept. -/
structure GateSt where
  oper : GateList
  pending : Option (Nat × GateList)
  held : Option (Nat × Nat)
deriving DecidableEq, Repr

/-- A stream gate (R334): the operating list's entries and control, a commit that waits, and whether LATCH_CLOSE holds it
closed. -/
structure StreamGate where
  entries : List (Word × Word)
  cycle : Nat
  offset : Nat
  pending : Option (Nat × GateList)
  latched : Bool
  shown : Word
deriving DecidableEq, Repr

/-- A flow meter's buckets in 10^-6 bytes, and the residence time of its last evaluation in ns (R335). -/
structure MeterSt where
  c : Nat
  e : Nat
  last : Nat
deriving DecidableEq, Repr

/-- A sequence recovery function (R359): whether it takes any number, the last number, its history, newest first, and the
tick of the last frame that restarted its timer. -/
structure RecovSt where
  takeAny : Bool
  seq : Nat
  history : List Bool
  at_ : Nat
deriving DecidableEq, Repr

/-- The credit of a shaped class in 10^-6 bit, and the tick up to which it is counted (R351). -/
structure CbsSt where
  credit : Int
  at_ : Nat
deriving DecidableEq, Repr

/-- A secure association of a SecY (R361, R362): SCI, AN, keyring slot, the SAK copied from it, next PN. -/
structure SecA where
  sci : BitVec 64
  an : Nat
  slot : Nat
  key : List Byte
  nextPn : Nat
deriving DecidableEq, Repr

/-- An ACF message in a receive queue of the AVTP engine (R366): its bus, its identifier, whether it is extended or remote, its
FD flags, its data. -/
structure AcfMsg where
  bus : Nat
  ident : Nat
  ext : Bool
  rtr : Bool
  fd : Bool
  brs : Bool
  data : List Byte
deriving DecidableEq, Repr

/-- The switch core (R320 to R375): the virtual output queues, oldest copy first, the egress sides, the connections and
pointers of the crossbar and whether its plan is to be chosen again, the table windows, the port and stream gates, the meters,
the recovery and generation functions, the AVTP templates' counters, the credits, the WRED averages and generators, the
statistics counters and latched upper words, the ends of link holds, the secure associations, the heads of the host rings,
the AVTP receive queues, the ticks at which a PLCA beacon was last seen, and whether
each link partner agrees to low-power idle. -/
structure SwitchSt where
  voqs : SMap (List Copy)
  egr : SMap (Option EgressSt)
  conns : SMap (Option Conn)
  ePtr : Nat
  inPtr : SMap Nat
  grantPtr : SMap Nat
  acceptPtr : SMap Nat
  dirty : Bool
  tables : SMap (List Word)
  gates : SMap GateSt
  sgates : SMap StreamGate
  meters : SMap MeterSt
  recov : SMap RecovSt
  genSeq : SMap Nat
  tmplSeq : SMap Nat
  credit : SMap CbsSt
  wred : SMap Nat
  lfsr : SMap Nat
  stats : SMap Nat
  latch : SMap (Option Word)
  holdEnd : SMap (Option Nat)
  secy : SMap (Option SecA)
  ringHead : SMap Nat
  ringTail : SMap Nat
  acfQ : SMap (List AcfMsg)
  beacons : SMap (Option Nat)
  eee : SMap Bool
deriving DecidableEq, Repr

/-! ## Buses -/

/-- A receive ring (R414 to R418): the entries stored, the entries of a TABLE ring by number, whether a notice is due and the
tick of the last one. FILL and ACK stand in RX_PTRS. -/
structure RingSt where
  seq : Nat
  entries : SMap (List Byte)
  noticeDue : Bool
  noticeAt : Option Nat
deriving DecidableEq, Repr

/-- A frame of a pending set (R423): the frame, whether it keeps contending, its ticket (none for the start reporter's, R667), the
tick of its arrival; a reference message of the time master (R432) takes the bus without having waited there. -/
structure CanPend where
  frame : CanFrame
  again : Bool
  ticket : Option TicketRef
  at_ : Nat
  reference : Bool
deriving DecidableEq, Repr

/-- A CAN channel (R423 to R432): its pending set in order of arrival, the attempt on the bus with the time of its SOF in ns,
the run of ACK errors, the RECOVER operations that wait, whether recovery runs, the number of the last reference time that
was handled, and the last reference message sent. -/
structure CanSt where
  pend : List CanPend
  active : Option (CanPend × Nat)
  ackRun : Nat
  recovers : List (TicketRef × Nat)
  recovering : Bool
  lastRef : Option Nat
  refSent : Option CanFrame
deriving DecidableEq, Repr

/-- A LIN header that runs (R436, R437): its identifier, its ticket in commander role, the tick and the time of its break, its
bit time in ticks, the tick at which the response begins, its response entry and the bytes it publishes. -/
structure LinHeader where
  ident : Nat
  ticket : Option TicketRef
  start : Nat
  startNs : Nat
  bit : Nat
  response : Nat
  action : Nat
  length : Nat
  enhanced : Bool
  bytes : List Byte
deriving DecidableEq, Repr

/-- A LIN channel: the header that runs, the wake-up pulse that it drives. -/
structure LinSt where
  cur : Option LinHeader
  pulse : Option (TicketRef × Nat)
deriving DecidableEq, Repr

/-- A queued send of an RS-485 channel (R441). -/
structure SerPend where
  data : List Byte
  ticket : TicketRef
  at_ : Nat
deriving DecidableEq, Repr

/-- A send that drives the line: the characters read back, whether one collided. -/
structure SerSend where
  item : SerPend
  done : Nat
  collided : Bool
deriving DecidableEq, Repr

/-- An RS-485 channel (R441, R442): its queued sends, the one that drives, the characters of the packet under reception with
its errors and the time of its first start bit, the tick of the last activity on the line since START. -/
structure SerSt where
  pend : List SerPend
  cur : Option SerSend
  chars : List Byte
  parity : Nat
  framing : Nat
  startNs : Nat
  lastAt : Option Nat
deriving DecidableEq, Repr

/-! ## Compute clusters -/

/-- A leg whose passes disagreed, waiting for its re-run (R485): its first instruction, whether the mismatch was injected,
whether it is an access leg (R479), what an access that has been issued read, the tick of the detection. -/
structure LegFault where
  pc : Word
  injected : Bool
  isAccess : Bool
  access : Option Word
  detected : Nat
deriving DecidableEq, Repr

/-- A safety core (R475 to R496): split or in single pass, halted, its program counter, registers and CSRs, what mcycle had counted at a
tick and minstret (R480), the Xzdp CSRs,
a leg waiting for its re-run, writes deferred to the leg boundary (R478), the tick of its last comparator self-test, the word that
an LR has reserved. -/
structure CoreSt where
  split : Bool
  single : Bool
  halted : Bool
  unchecked : Bool
  compFail : Bool
  dbFail : Bool
  transient : Nat
  dbCe : Nat
  injected : Nat
  inject : Word
  last : Word
  lastPc : Word
  pc : Word
  x : SMap Word
  csrs : SMap Word
  cycles : Nat
  cyclesFrom : Nat
  instret : Nat
  fault : Option LegFault
  deferred : List (Nat × Byte)
  tested : Nat
  reserved : Option Nat
deriving DecidableEq, Repr

/-- A hart's Xzmr CSRs (R497), its other CSRs (R471; of a safety hart 2n those of its core), the cause of the last exception that an access
or a write of a CSR raised, 0 for none, the world that the
hart executes in (R509), whether it stands at the secure boot entry (R523), and its registers, of which the ROM stub writes a0 and a1
(R524). -/
structure HartSt where
  secure : Bool
  base : BitVec 12
  limit : BitVec 12
  moorH : BitVec 12
  moorV : BitVec 12
  moorU : BitVec 12
  exception : Nat
  runs : World
  atBoot : Bool
  csrs : SMap (BitVec 64)
  x : SMap (BitVec 64)
deriving DecidableEq, Repr

/-! ## Worlds and moorings -/

/-- An entry of the translation cache (R514): its context, the page address over its size, whether it maps 2 MiB, the
physical page number, R and W. -/
structure TuEntry where
  src : Source
  page : Nat
  large : Bool
  ppn : Nat
  r : Bool
  w : Bool
deriving DecidableEq, Repr

/-- A record of the translation fault queue (R516). -/
structure TuFault where
  addr : Nat
  cause : Nat
  master : Nat
  write : Bool
  src : Source
deriving DecidableEq, Repr

/-- An invalidation that runs (R515): its kind, its context, its address. -/
structure Inval where
  kind : Nat
  src : Source
  addr : Nat
deriving DecidableEq, Repr

/-- The translation unit: cache, fault queue, the invalidation that runs. -/
structure TuSt where
  cache : List TuEntry
  faults : List TuFault
  inval : Option Inval
deriving DecidableEq, Repr

/-- The grant that runs (R519): its 16 argument bytes, the SEQ of the supervisor's command where it is one, the tick of its
start. -/
structure GrantRun where
  args : List Byte
  cmd : Option (BitVec 32)
  start : Nat
deriving DecidableEq, Repr

/-- The secure watchdog (R522 to R525): whether it is armed, the tick of the last kick, the tick of a secure-world reset that
waits for SECURE_READY. -/
structure SwdtSt where
  armed : Bool
  kickAt : Nat
  resetAt : Option Nat
deriving DecidableEq, Repr

/-! ## Access responses and hinges -/

/-- The response to a firmware access: an error code of R543, 0 for none, and the data of a read. -/
structure Resp where
  code : Nat
  data : Nat
deriving DecidableEq, Repr

/-- A record of a hinge's error log (R544) or discard log (R555): the address, the code or cause, the direction (1 IN),
whether it was a notice, and the source. -/
structure HingeRec where
  addr : Nat
  code : Nat
  inbound : Bool
  notice : Bool
  src : Source
deriving DecidableEq, Repr

/-- A transaction in a hinge's posted or non-posted queue, in order of its acceptance `seq` (R539, R541): a write or a read,
its direction, address, source, size and data, whether it crosses a prefetchable window. -/
structure HingeTxn where
  write : Bool
  inbound : Bool
  addr : Nat
  src : Source
  size : Nat
  data : List Byte
  prefetch : Bool
  seq : Nat
deriving DecidableEq, Repr

/-- An outstanding non-posted request of a hinge (R539): its tag, its transaction, the tick it was forwarded, and once its
target has answered the code, the data and its place in the order of the opposite direction. -/
structure HingeReq where
  tag : Nat
  txn : HingeTxn
  at_ : Nat
  answer : Option (Nat × List Byte × Nat)
deriving DecidableEq, Repr

/-- A prefetched line (R554, R555): its line address, direction, source, tick, content, and whether it has answered a read. -/
structure HeldLine where
  addr : Nat
  inbound : Bool
  src : Source
  at_ : Nat
  data : List Byte
  answered : Bool
deriving DecidableEq, Repr

/-- A transaction that waits at its initiator's port for room in a hinge's queue (R541): whether it is for the posted queue, and
whether the initiator waits for the answer that its write is accepted. -/
structure PortTxn where
  txn : HingeTxn
  posted : Bool
  answers : Bool
deriving DecidableEq, Repr

/-- One hinge (R539 to R555): its outstanding requests, its waiting requests and posted writes, the transactions that wait at
their initiators' ports, the requests that timed out before their completion came (direction and tag), its prefetched lines, its
error log and its discard log, the next place in the order of acceptance. -/
structure HingeSt where
  reqs : List HingeReq
  waiting : List HingeTxn
  posted : List HingeTxn
  port : List PortTxn
  expired : List (Bool × Nat)
  lines : List HeldLine
  errs : List HingeRec
  discs : List HingeRec
  next : Nat
deriving DecidableEq, Repr

/-! ## Logbook -/

/-- A record of the logbook (R570): its type, stream and SEQ, its time, the DOMAIN_ID, NODE and SOURCE words, its payload. -/
structure LogRec where
  kind : Nat
  stream : Nat
  seq : Nat
  time : Stamp
  domain : Word
  node : Word
  source : Word
  payload : List Byte
deriving DecidableEq, Repr

/-- What waits for the hash engine in a stream: a record, or the close of its segment with a cause of R572 (R576). -/
inductive LogItem where
  | entry (r : LogRec)
  | close (cause : Nat)
deriving DecidableEq, Repr

/-- A segment (R572): the fields of its header, its chain value, its records. -/
structure Segment where
  stream : Nat
  start : Word
  number : Nat
  domain : Word
  node : Word
  firstSeq : Nat
  openTime : Stamp
  prevSeal : List Byte
  chain : List Byte
  records : List LogRec
deriving DecidableEq, Repr

/-- A sealed segment in staging: its close, its signature, the block it is placed at, the blocks whose writes have been issued,
and whether a write of it failed (R580). -/
structure Sealed where
  seg : Segment
  cause : Nat
  closeTime : Stamp
  sig : List Byte
  place : Option Nat
  issued : Nat
  failed : Bool
deriving DecidableEq, Repr

/-- A post between its commit and its taking (R567): arrival, owner, LENGTH, payload. -/
structure Post where
  time : Stamp
  src : Source
  length : Nat
  payload : List Byte
deriving DecidableEq, Repr

/-- A stream (R565 to R576): what waits for the hash engine, the open segment, the seal digest of the last one, whether the
START record has been inserted, a post. -/
structure StreamSt where
  items : List LogItem
  opened : Option Segment
  lastSeal : List Byte
  started : Bool
  post : Option Post
deriving DecidableEq, Repr

/-- An outstanding NVMe Write command (R580): its identifier, the stream and number of its segment. -/
structure NvmeCmd where
  id : Nat
  stream : Nat
  number : Nat
deriving DecidableEq, Repr

/-- A stored segment (R582): its blocks from LBA_FIRST and its CLOSE_TIME in TS64. -/
structure Stored where
  block : Nat
  blocks : Nat
  closeNs : Nat
deriving DecidableEq, Repr

/-- The logbook: its streams, the module records lost since the last GAP record, the sealed segments in order of sealing, the
NVMe commands, the heads of its queue pair, what is stored. -/
structure LogSt where
  streams : SMap StreamSt
  lost : Nat
  sealed : List Sealed
  cmds : List NvmeCmd
  sqTail : Nat
  cqHead : Nat
  stored : List Stored
deriving DecidableEq, Repr

/-! ## Keyring, fuses and life-cycle -/

/-- A keyring slot (R591): ATTR, the current key, KEY_ID, USE_COUNT, the next key and its count, the owner. -/
structure KeySlot where
  attr : Word
  key : List Byte
  keyId : Word
  count : Word
  next : Option (List Byte × Word)
  owner : Option Source
deriving DecidableEq, Repr

/-- A crypto job (R601): the slot of its window, its issuer, the word written to OP. -/
structure Job where
  win : Nat
  src : Source
  op : Word
deriving DecidableEq, Repr

/-- The job that runs: its RESULT, the bytes it writes to AUX and to DATA from an offset with OUT_LEN, the slot it writes, and
whether its completion waits for a write of the keyring record (R595). -/
structure RunJob where
  job : Job
  code : Nat
  aux : Option (List Byte)
  data : Option (Nat × List Byte)
  outLen : Nat
  change : Option KeySlot
  need : Bool
deriving DecidableEq, Repr

/-- The keyring and the crypto engine: slots, the keyring record in flash (owners left out; none where none is stored), whether
a change of a persistent slot waits to be recorded, the jobs, the running hash of each window with its variant, the evidence
key, the certificate of R609, and the BIND_SUPERVISOR whose record is to be written: its SEQ and the result code. -/
structure KeyringSt where
  slots : SMap KeySlot
  record : Option (SMap KeySlot)
  dirty : Bool
  jobs : List Job
  run : Option RunJob
  hash : SMap (Option (Nat × List Byte))
  evidence : Option (List Byte)
  cert : List Byte
  bind : Option (BitVec 32)
deriving DecidableEq, Repr

/-- The fuses (R618, R611): SERIAL, ROOT, ROOT_CHECK, the blown copies of LC bit 0 FACTORY to 3 SCRAP, RETURN_AUTH,
SAFETY_MODE; the LC bit whose copies are being blown, and the fuse repair entries of R656. -/
structure FuseSt where
  serial : BitVec 64
  root : List Byte
  rootCheck : List Byte
  lc : SMap Nat
  returnAuth : List Byte
  safetyMode : Nat
  advancing : Option Nat
  repair : SMap Word
deriving DecidableEq, Repr

/-! ## Start, sleep and clock crossings -/

/-- A start record (R663): the start that the reason ended, the reason and its phase, whether it counts now and was counted
when recorded, its DETAIL word, its LIFE_TIME. -/
structure StartRec where
  count : Word
  reason : Nat
  phase : Nat
  counts : Bool
  countable : Bool
  detail : Word
  life : Word
deriving DecidableEq, Repr

/-- The start sequence (R648 to R669): the tick of the entry to START, whether phase 6 has released the clusters (R682), whether
START_COUNT is exhausted (R662), the blocks whose windows are confirmed (R650), whether phase 2 has been judged, what the
lightship partition gave when it was last read (R656), the version of the lightship table begun in this START, the tick of the
last entry to SERVICE (R663), the start records, newest first, and LIFE_TIME as start memory holds it with the ticks of the
running second (R662), the tick of the last report frame and the record that the next one tells (R667), the fuse repair entries in
effect (R654), the tick since which clocks and supply have held their windows (R650), the secure boot entry (R523, R659). -/
structure StartSt where
  entered : Nat
  released : Bool
  exhausted : Bool
  confirmed : List Nat
  judged : Bool
  partition : Option (List Byte)
  lsVersion : Option Word
  serviceAt : Option Nat
  records : List StartRec
  lifeSaved : Word
  lifeTicks : Nat
  savedAt : Nat
  reportAt : Option Nat
  reportIdx : Nat
  repair : SMap Word
  windowFrom : Nat
  entry : BitVec 64
deriving DecidableEq, Repr

/-- A source that woke (R458 to R460): the always-on cycle, the KIND and the index. -/
structure WakeLatch where
  aon : Nat
  kind : Nat
  index : Nat
deriving DecidableEq, Repr

/-- A TC10 signal that a port has sent (R453): a wake-up or a sleep request. -/
structure Tc10 where
  port : Nat
  wakeUp : Bool
deriving DecidableEq, Repr

/-- The always-on domain and the sleep sequence (R448 to R468): the phase of R455 (0 none, 1 drain, 2 arming, 3 entry, 4 in SLEEP)
and its tick, the reference level of each input, the run of its polls that show a wake, the always-on count of the last poll and the
wetting current in mA that it applied, sourced or (negative) sunk (R451, R452), the configuration copied at
the end of the drain (IN_WAKE words, CAN channels, ports, and the words SW_CFG to SW_DATA_HI of channel c under 8c and on), the
always-on count of the timer wake, the pair of R455 (network time and
always-on count), the wake that waits for the end of its always-on cycle or, from the commit point on, for the start, the tick at which
the awake timer began (R466), the kind of the wake of this start with the tick of
the first SERVICE or LIGHTSHIP after it and that of the first communication since (R464), the ports that have yet to send a TC10
wake-up, the TC10 signals sent in order, each external PHY (0 running, 1 in its low-power state, 2 powered down; R453), the tick at
which each transceiver's watchdog was last served (R468: CAN 0 to 15, LIN 16 to 21). -/
structure SleepSt where
  phase : Nat
  since : Nat
  refs : SMap Bool
  polls : SMap Nat
  polledAt : SMap (Option Nat)
  wetted : SMap Int
  inWake : SMap Word
  can : Nat
  eth : Nat
  sw : SMap Word
  timer : Option Nat
  pairNs : Nat
  pairAon : Nat
  latched : Option WakeLatch
  awakeFrom : Nat
  wakeKind : Nat
  firstAt : Option Nat
  heard : Option Nat
  wakeUps : Nat
  tc10 : List Tc10
  phys : SMap Nat
  served : SMap Nat
deriving DecidableEq, Repr

/-- A dual-clock queue (R32 to R36): the announced packets whose words are not yet read, the words stored beyond the last packet
notice, its two pointers, its corrected-error and uncorrectable-error counters. -/
structure DcqSt where
  packets : List (List Word)
  beyond : List Word
  wptr : Nat
  rptr : Nat
  ce : Nat
  ue : Nat
deriving DecidableEq, Repr

/-! ## The module -/

/-- Everything the spec gives the module. `regs` holds every register word that differs from its reset value; `mono`
counts 250 MHz ticks since the model began; `freeNext` numbers the free values (the model's own fields). -/
structure Zone where
  mono : Nat
  freeNext : Nat
  regs : SMap Word
  time : TimeSt
  safety : SafetySt
  records : List ModRecord
  supv : SupervisorSt
  tickets : SMap Ticket
  ticketSerial : Nat
  keeperSlots : Nat
  gens : SMap GenSt
  loads : SMap LoadSt
  sagsA : List Sag
  sagsB : List Sag
  supply : SupplySt
  inputs : SMap InputSt
  cals : SMap CalSt
  bal : BalSt
  tsq : SMap (List TsqEntry)
  switch : SwitchSt
  rings : SMap RingSt
  cans : SMap CanSt
  lins : SMap LinSt
  sers : SMap SerSt
  busMem : SMap (Option Byte)
  pauses : SMap (Option Nat)
  reqQs : SMap ReqQueue
  evtQs : SMap EvtQueue
  stages : SMap StageSt
  keeperA : KeeperSt
  keeperB : KeeperSt
  watch : WatchSt
  resp : Resp
  imsic : SMap Nat
  localIrq : SMap Nat
  tu : TuSt
  grant : Option GrantRun
  txBuffers : SMap Nat
  swdt : SwdtSt
  gateTo : SMap Nat
  hinges : SMap HingeSt
  cores : SMap CoreSt
  harts : SMap HartSt
  log : LogSt
  keyring : KeyringSt
  fuses : FuseSt
  start : StartSt
  sleep : SleepSt
  dcqs : SMap DcqSt
  pace : SMap Nat
  mem : SMap Byte
deriving DecidableEq, Repr

def Lane.init : Lane := ⟨0, false, false, false⟩
def AlarmLane.init : AlarmLane := ⟨false, 0, 0, 0, 0, 0, 0, 0, none⟩
def SafetySt.init : SafetySt :=
  { latched := 0, tableClass := 0, clockBad := [], clockGood := [], reports := [], log := [], laneA := .init, laneB := .init, mismatches := 0, resetDue := none, resetSource := 0, alarmA := .init,
    alarmB := .init, injectedAt := none, transientAt := none, verdictA := none, verdictB := none }
def TimeSt.init : TimeSt :=
  { net := ⟨0, 0, 0⟩, copy := ⟨0, 0, 0⟩, stopped := false, aon := 0, aonAcc := 0, lastStep := none, base := 0,
    rateTerm := 0, phaseTerm := 0, resid := 0, lastUsed := none, excess := 0, good := 0, history := [], lockedAt := 0,
    holdoverSince := none, waiting := none, pendingStep := none, sleepNs := 0, residence := 0, syncs0 := 0, syncs1 := 0,
    syncAt0 := 0, syncAt1 := 0, ringOff0 := none, ringOff1 := none, ringSum := 0, ringCount := 0, ringBroken := false,
    ringSecond := 0, ppsUsed := none, late := 0, marked := none, delays := [],
    masters := [], inbox := [], marks := [] }
def SupervisorSt.init : SupervisorSt :=
  { seqHigh := none, sessionKey := none, executing := [], replies := [], noticeDue := none }

def Ticket.init : Ticket := ⟨.free, 0, 0, 0, 0, 0, 0⟩
def Wave.off : Wave := ⟨0, 1000000, 0, 1, 333000000⟩
def GenSt.init : GenSt := ⟨.off, [], 0, 0, 2, 0, false⟩
def LoadSt.init : LoadSt :=
  { hi := false, lo := false, hiOff := none, loOff := none, edges := [], tickAt := none, olAt := none, below := 0, above := 0, acc := 0, windowEnd := none, tripAt := none, tripLeg := 0, firedAt := none, spacingEnd := none, zeroSince := none,
    refilled := false, applied := 0, gen := 0, phase := 0, followSince := none, gapEnd := none, silent := false,
    demanded := false, owed := false, forced := false, offDiag := none }

def FeedSt.init : FeedSt := ⟨0, none, none⟩
def SupplySt.init : SupplySt := ⟨.init, .init, false, 0, none⟩
def CalSt.init : CalSt := ⟨0, 0, 0, 0, none, none⟩
def CalRec.factory : CalRec := ⟨65536, 0, false, 0⟩
def BalSt.init : BalSt := ⟨[], false, 0, 0, 0, none, none, none, none⟩
def ReqQueue.init : ReqQueue := ⟨none, [], 0, 0, [], 0, 0, 0, []⟩
def EvtQueue.init : EvtQueue := ⟨none, [], false⟩
def StageSt.init : StageSt := ⟨[], [], none, none, none, false⟩
def KeeperSt.init : KeeperSt :=
  { w := [], z := false, n := false, c := false, v := false, cycles := 0, skip := 0, inStep := false, step := 0,
    index := 0, chart := [], half0 := none, half1 := none, runs := none, group := [], groups := [], sent := none,
    rx := none, slotNo := 0, markAt := none, round := 0, slot := 0, roundLen := 1000, announced := 0,
    high := 0, beaconDue := false, line := none, other := ⟨none, false, 0, 0, 0⟩, taking := false, holdNext := false,
    fenceAt := none, rounds := 0, passRun := 0, lastFrame := none, recent := [], dropped := [] }
def WatchSt.init : WatchSt := ⟨none, none, none, none⟩
def GateSt.init : GateSt := ⟨⟨1, 1000000, 0⟩, none, none⟩
def StreamGate.init : StreamGate := ⟨[], 0, 0, none, false, 0⟩
def MeterSt.init : MeterSt := ⟨0, 0, 0⟩
def RecovSt.init : RecovSt := ⟨true, 65535, [], 0⟩
def SwitchSt.init : SwitchSt :=
  { voqs := [], egr := [], conns := [], ePtr := 0, inPtr := [], grantPtr := [], acceptPtr := [], dirty := false,
    tables := [], gates := [], sgates := [], meters := [], recov := [], genSeq := [], tmplSeq := [], credit := [],
    wred := [], lfsr := [], stats := [], latch := [], holdEnd := [], secy := [], ringHead := [], ringTail := [],
    acfQ := [], beacons := [], eee := [] }
def RingSt.init : RingSt := ⟨0, [], false, none⟩
def CanSt.init : CanSt := ⟨[], none, 0, [], false, none, none⟩
def LinSt.init : LinSt := ⟨none, none⟩
def SerSt.init : SerSt := ⟨[], none, [], 0, 0, 0, none⟩
def CoreSt.init : CoreSt :=
  { split := false, single := false, halted := false, unchecked := false, compFail := false, dbFail := false,
    transient := 0, dbCe := 0, injected := 0, inject := 0, last := 0, lastPc := 0, pc := 0, x := [], csrs := [],
    cycles := 0, cyclesFrom := 0, instret := 0, fault := none, deferred := [], tested := 0, reserved := none }
def HartSt.init : HartSt := ⟨false, 0, 0, 0, 0, 0, 0, .secure, true, [], []⟩
def HingeSt.init : HingeSt := ⟨[], [], [], [], [], [], [], [], 0⟩
def StreamSt.init : StreamSt := ⟨[], none, List.replicate 32 0, false, none⟩
def LogSt.init : LogSt := ⟨[], 0, [], [], 0, 0, []⟩
def KeySlot.init : KeySlot := ⟨0, [], 0, 0, none, none⟩
def KeyringSt.init : KeyringSt := ⟨[], none, false, [], none, [], none, [], none⟩
/-- Fuses of a module in FIELD; what else they hold is a choice of the model (log entry 1). -/
def FuseSt.init : FuseSt := ⟨0, List.replicate 32 0, List.replicate 4 0, [(0, 3), (1, 3)], List.replicate 32 0, 0, none, []⟩
def StartSt.init : StartSt :=
  { entered := 0, released := false, exhausted := false, confirmed := [], judged := false, partition := none, lsVersion := none,
    serviceAt := none, records := [], lifeSaved := 0, lifeTicks := 0, savedAt := 0, reportAt := none, reportIdx := 0, repair := [], windowFrom := 0,
    entry := 0 }
def SleepSt.init : SleepSt :=
  { phase := 0, since := 0, refs := [], polls := [], polledAt := [], wetted := [], inWake := [], can := 0, eth := 0, sw := [],
    timer := none, pairNs := 0, pairAon := 0, latched := none, awakeFrom := 0, wakeKind := 0, firstAt := none, heard := none,
    wakeUps := 0, tc10 := [], phys := [], served := [] }
def DcqSt.init : DcqSt := ⟨[], [], 0, 0, 0, 0⟩
def InputSt.init : InputSt := ⟨[], false, 0, none, none⟩

/-- The state of the model: the commands that are waiting, first in, first out, and the module. -/
structure State where
  pending : List Instr
  zone : Zone
deriving DecidableEq, Repr

/-- The module right after it has entered START from OFF (R16, R658; log entry 1). -/
def Zone.reset : Zone :=
  { mono := 0, freeNext := 0, regs := [], time := .init, safety := .init, records := [],
    supv := .init, tickets := [], ticketSerial := 0, keeperSlots := 0, gens := [], loads := [], sagsA := [], sagsB := [],
    supply := .init, inputs := [], cals := [], bal := .init, tsq := [], switch := .init, rings := [], cans := [], lins := [], sers := [], busMem := [], pauses := [], reqQs := [], evtQs := [],
    stages := [], keeperA := .init, keeperB := .init, watch := .init, resp := ⟨0, 0⟩, imsic := [], localIrq := [],
    tu := ⟨[], [], none⟩, grant := none, txBuffers := [], swdt := ⟨false, 0, none⟩, gateTo := [], hinges := [], cores := [], harts := [],
    log := .init, keyring := .init, fuses := .init, start := .init, sleep := .init, dcqs := [], pace := [], mem := [] }

/-- The state right after reset: nothing waits. -/
def State.reset : State := { pending := [], zone := .reset }

end Sys2Proof.Machine
end

