-- ==== Sys2Proof/Machine/Ops.lean ====
section
/-! DEFINITION. The operations that every meaning is built from: register words and fields, saturating counters and event
bits, free values, the module state, times and stamps, module event records and fault reports. -/

namespace Sys2Proof.Machine

/-- The outcome of a command that has an effect. -/
abbrev Result := Host.Outcome State Fault Refusal

/-- Answer the next state in which the module has taken effect `f` and the queue is as it was. -/
def State.run (s : State) (f : Zone → Zone) : Result := .next { s with zone := f s.zone }

/-- The same for a command of firmware: no firmware runs before phase 6 of a start releases the clusters, nor in LIGHTSHIP
(R682). -/
def State.runFw (s : State) (f : Zone → Zone) : Result := s.run fun z => if z.start.released then f z else z

namespace Zone

/-! ### Registers -/

/-- The register word at key `k`. -/
def rd (s : Zone) (k : Nat) : Word := SMap.get resetWord s.regs k

/-- Set the register word at key `k`. -/
def wr (s : Zone) (k : Nat) (v : Word) : Zone := { s with regs := SMap.set resetWord s.regs k v }

/-- Field `f` of page `p`, as an unsigned number. -/
def fld (s : Zone) (p : Nat) (f : Fld) : Nat := f.get (s.rd (p + f.off))

/-- Field `f` of page `p`, as a signed number. -/
def fldS (s : Zone) (p : Nat) (f : Fld) : Int := toSigned f.w (s.fld p f)

/-- A one-bit field of page `p`. -/
def flag (s : Zone) (p : Nat) (f : Fld) : Bool := s.fld p f == 1

/-- Set field `f` of page `p` to `v`. -/
def setFld (s : Zone) (p : Nat) (f : Fld) (v : Nat) : Zone := s.wr (p + f.off) (f.put (s.rd (p + f.off)) v)

/-- A value that the spec leaves open, and the state with the next one ready (log entry 2). -/
def fresh (s : Zone) : Word × Zone := (Config.freeValue s.freeNext, { s with freeNext := s.freeNext + 1 })

/-- Set field `f` of page `p` to a signed value; of a value beyond the limits of the field the spec states no pattern, so
the field takes a free value (log entry 2). -/
def setFldS (s : Zone) (p : Nat) (f : Fld) (v : Int) : Zone :=
  if satSigned f.w v = v then s.setFld p f (ofSigned f.w v) else s.fresh.2.setFld p f s.fresh.1.toNat

/-- Set field `f` of page `p` to an unsigned value; of a value beyond the field it takes a free value (log entry 2). -/
def setFldU (s : Zone) (p : Nat) (f : Fld) (v : Nat) : Zone :=
  if v < 2 ^ f.w then s.setFld p f v else s.fresh.2.setFld p f s.fresh.1.toNat

/-- Set a one-bit field. -/
def setFlag (s : Zone) (p : Nat) (f : Fld) (b : Bool) : Zone := s.setFld p f (b2n b)

/-- Set an event bit (access W1C). -/
def event (s : Zone) (p : Nat) (f : Fld) : Zone := s.setFld p f 1

/-- Raise a saturating counter by `n`. -/
def countBy (s : Zone) (p : Nat) (f : Fld) (n : Nat) : Zone := s.setFld p f (satU f.w (s.fld p f + n))

/-- Raise a saturating counter by one. -/
def count (s : Zone) (p : Nat) (f : Fld) : Zone := s.countBy p f 1

/-- Bit `n` of field `f`. -/
def fldBit (s : Zone) (p : Nat) (f : Fld) (n : Nat) : Bool := (s.fld p f).testBit n

/-- Set bit `n` of field `f` to `b`. -/
def setFldBit (s : Zone) (p : Nat) (f : Fld) (n : Nat) (b : Bool) : Zone :=
  s.setFld p f (if b then s.fld p f ||| 2 ^ n else s.fld p f - (if (s.fld p f).testBit n then 2 ^ n else 0))

/-- Apply `f` to the state for each element of a list, in order. -/
def forEach {α : Type} (s : Zone) (l : List α) (f : Zone → α → Zone) : Zone := l.foldl f s

/-- Apply `f` where `b` holds. -/
def when (s : Zone) (b : Bool) (f : Zone → Zone) : Zone := if b then f s else s

/-! ### Time -/

/-- Ticks of the 250 MHz time base in one microsecond and in one millisecond. -/
@[reducible] def ticksPerUs : Nat := 250
@[reducible] def ticksPerMs : Nat := 250000

/-- The ns of one nominal tick of the time base. -/
@[reducible] def tickNs : Nat := 4

/-- Whether `n` ticks have passed since tick `t`. -/
def past (s : Zone) (t n : Nat) : Bool := decide (t + n ≤ s.mono)

/-- A periodic event of the hardware runs: it comes no sooner than `period` ticks after the one before it. The event is named by a key;
`pace` holds the tick after its last run. -/
def paced (s : Zone) (key period : Nat) (f : Zone → Zone) : Zone :=
  match SMap.get (fun _ => 0) s.pace key with
  | 0 => f { s with pace := SMap.set (fun _ => 0) s.pace key (s.mono + 1) }
  | t + 1 => if s.past t period then f { s with pace := SMap.set (fun _ => 0) s.pace key (s.mono + 1) } else s

/-- Network time as nanoseconds since the epoch (the TS64 value, before it is cut to 64 bits). -/
def nowNs (s : Zone) : Nat := s.time.net.sec.toNat * 1000000000 + s.time.net.ns.toNat

/-- INC, as INC_HI and INC_LO show it (R376). -/
def inc (s : Zone) : Nat := s.fld pTIME Reg.TIME0.INC_HI_INC * 2 ^ 32 + s.fld pTIME Reg.TIME0.INC_LO_INC

/-- What the counter of network time gains in a tick; nothing while the time-base clock is stopped (R289). -/
def netRate (s : Zone) : Nat := if s.time.stopped then 0 else s.inc

/-- The counter of network time in 2^-32 ns. -/
def netTotal (s : Zone) : Nat := s.nowNs * 2 ^ 32 + s.time.net.frac.toNat

/-- The course of network time changes at this tick: what it was until now is noted. -/
def markTime (s : Zone) : Zone :=
  { s with time := { s.time with marks := ⟨s.mono, s.netTotal, s.netRate⟩ :: s.time.marks } }

/-- Network time in ns at tick t, now or earlier: counted back from the first change after it, or from now. -/
def netAt (s : Zone) (t : Nat) : Nat :=
  match (s.time.marks.takeWhile fun m => decide (t < m.at_)).getLast? with
  | some m => (m.total - (m.at_ - t) * m.inc) / 2 ^ 32
  | none => (s.netTotal - (s.mono - t) * s.netRate) / 2 ^ 32

/-- Network time in TS64 (R380). -/
def ts64 (s : Zone) : BitVec 64 := BitVec.ofNat 64 s.nowNs

/-- The time-state byte of TS96 (R380): STATE in [2:0], and 1 in [3] within 10 s after a step. -/
def timeState (s : Zone) : Byte :=
  BitVec.ofNat 8 (s.fld pTIME Reg.TIME0.TIME_STATUS_STATE +
    (match s.time.lastStep with
     | some t => if s.mono < t + 10000 * ticksPerMs then 8 else 0
     | none => 0))

/-- Network time in TS96 (R380). -/
def stamp (s : Zone) : Stamp :=
  ⟨s.time.net.sec, s.time.net.ns, BitVec.ofNat 8 (s.time.net.frac.toNat / 2 ^ 24), s.timeState⟩

end Zone

/-- The twelve bytes of a TS96 (R380). -/
def Stamp.bytes (t : Stamp) : List Byte :=
  leBytes 6 t.sec.toNat ++ leBytes 4 t.ns.toNat ++ [t.frac, t.state]

/-- The module states, by their codes (R39). -/
inductive Mode where
  | off
  | sleep
  | start
  | service
  | lightship
  | test
deriving DecidableEq, Repr

/-- The code of a module state (R39). -/
def Mode.code : Mode → Nat
  | .off => 0 | .sleep => 1 | .start => 2 | .service => 3 | .lightship => 4 | .test => 5

/-- The module state of a code; the codes 6 and 7 do not occur and read as OFF. -/
def Mode.ofCode : Nat → Mode
  | 1 => .sleep | 2 => .start | 3 => .service | 4 => .lightship | 5 => .test | _ => .off

namespace Zone

/-- The current module state, ZONE.0.STATE.CURRENT. -/
def mode (s : Zone) : Mode := Mode.ofCode (s.fld (pZONE 0) Reg.ZONE0.STATE_CURRENT)

/-- The profile whose figures apply (R55): PROFILE.ACTIVE in SERVICE, those of BALANCED in every other state (R41). -/
def profile (s : Zone) : Nat := if s.mode = .service then s.fld (pZONE 7) Reg.ZONE7.PROFILE_ACTIVE else 0

/-- The figures of a profile (R55): whether scheduled classes cut through, the residence of a 1,518-byte scheduled frame between two
1000BASE-T1 ports in ns, cells per crossbar grant, the keeper round of tables that take the profile's in slots, the
application cluster's clock in MHz from least to greatest, the hashing bandwidth that the logbook reserves in Mb/s, the DRAM
bandwidth guaranteed to best-effort traffic of the safety cluster in MB/s, low-power idle, and the typical electronics power
in W. -/
structure ProfileFigures where
  cutThrough : Bool
  residenceNs : Nat
  cells : Nat
  roundSlots : Nat
  appLow : Nat
  appHigh : Nat
  hashMbps : Nat
  dramMBps : Nat
  lowPowerIdle : Bool
  watts : Nat
deriving DecidableEq, Repr

/-- The figures of R55 by the profile's code: 1 LATENCY, 2 THROUGHPUT, 3 FRUGAL, otherwise BALANCED. -/
def profileFigures (p : Nat) : ProfileFigures :=
  match p with
  | 1 => ⟨true, 2500, 4, 1000, 2000, 2000, 4000, 2000, false, 36⟩
  | 2 => ⟨false, 14700, 16, 1000, 800, 2000, 8000, 500, false, 34⟩
  | 3 => ⟨false, 14700, 4, 10000, 400, 1200, 2000, 1000, true, 18⟩
  | _ => ⟨false, 14700, 4, 1000, 800, 2000, 4000, 2000, false, 31⟩

/-- The figures of the profile in force. -/
def figures (s : Zone) : ProfileFigures := profileFigures s.profile

/-- Whether the module is in one of the given states. -/
def inMode (s : Zone) (l : List Mode) : Bool := l.contains s.mode

/-- Whether the module's logic runs: in START, SERVICE, LIGHTSHIP and TEST, not in SLEEP and OFF (R39). -/
def logicRuns (s : Zone) : Bool := s.inMode [.start, .service, .lightship, .test]

/-- Valid communication has reached the module; the first one stays (R464). -/
def heardBus (s : Zone) : Zone := { s with sleep := { s.sleep with heard := s.sleep.heard.or (some s.mono) } }

/-! ### Records and reports -/

/-- A module record is lost (R577). -/
def loseRecord (s : Zone) : Zone :=
  (({ s with log := { s.log with lost := s.log.lost + 1 } }).count pLOG Reg.LOG0.LOG_COUNTS_MODULE_LOST).event pLOG
    Reg.LOG0.LOG_EVENT_MODULE_LOST

/-- Whether the logbook runs (R577); LOG_STATUS.RUNNING shows it. In LIGHTSHIP it does not run (R666; log entry 50). -/
def logRuns (s : Zone) : Bool :=
  s.flag pLOG Reg.LOG0.LOG_CTRL_EN && decide (s.fld pLOG Reg.LOG0.STAGE_SIZE_UNITS ≠ 0) && s.inMode [.service]

/-- Add a module record to those waiting for the logbook, at most 256 (R569). -/
def addRecord (s : Zone) (kind : Nat) (time : Stamp) (payload : List Byte) : Zone :=
  if s.records.length < 256 then { s with records := s.records ++ [⟨kind, time, payload, !s.logRuns⟩] } else s.loseRecord

/-- The payload of a module event record (R571): the location, the word index and lowest bit of field `f` of page `p`, and
the value the posting rule names. -/
def eventPayload (p : Nat) (f : Fld) (data : Int) : List Byte :=
  leBytes 4 (keyBank p * 2 ^ 28 + keyChan p * 2 ^ 20) ++ leBytes 2 (f.off / 4) ++ leBytes 1 f.lo ++ [0#8] ++
    leBytes 8 (ofSigned 64 data)

/-- Post a module event record that carries a value (R571). -/
def postValue (s : Zone) (p : Nat) (f : Fld) (data : Int) : Zone :=
  s.addRecord 0x21 s.stamp (eventPayload p f data)

/-- Post a module event record that carries the register word after the event (R571). -/
def post (s : Zone) (p : Nat) (f : Fld) : Zone := s.postValue p f (s.rd (p + f.off)).toNat

/-- Send a report of a fault source to the safety monitor (R623). -/
def report (s : Zone) (source : Nat) (detail : Word) : Zone :=
  { s with safety := { s.safety with reports := s.safety.reports ++ [⟨source, detail, false, s.mono, s.ts64⟩] } }

/-- Send a report that carries the injected mark of R633. -/
def reportInjected (s : Zone) (source : Nat) (detail : Word) : Zone :=
  { s with safety := { s.safety with reports := s.safety.reports ++ [⟨source, detail, true, s.mono, s.ts64⟩] } }

end Zone

/-- Answer the next state of a command that acts only while the module's logic runs; in SLEEP and OFF it has no effect (R39,
R448). -/
def State.runOn (s : State) (f : Zone → Zone) : Result := s.run fun z => if z.logicRuns then f z else z

/-- The same for a command of a writer of registers: firmware once it runs, a keeper with the module's logic. -/
def State.runBy (s : State) (w : Writer) (f : Zone → Zone) : Result :=
  match w with
  | .firmware _ => s.runFw f
  | .keeper _ => s.runOn f

/-! ### Periodic events -/

/-! The keys of the periodic events: the samples of the inputs (R83), of the junction sensors (R256) and of the temperature sensors (R96),
the balance evaluation (R308), the lane comparison (R624), the period boundaries and the readback checks of the alarm lanes (R636, R639),
the windows of the clock monitors (R626). -/
namespace Pace
@[reducible] def input (k : Nat) : Nat := k
@[reducible] def junction (n : Nat) : Nat := 64 + n
@[reducible] def thermal : Nat := 128
@[reducible] def balance : Nat := 129
@[reducible] def lanes : Nat := 130
@[reducible] def alarm (a : Nat) : Nat := 132 + a
@[reducible] def readback (a : Nat) : Nat := 134 + a
@[reducible] def clock (d : Nat) : Nat := 140 + d
end Pace

/-! ### Fault sources (R625) -/
namespace Src
@[reducible] def keeperFail : Nat := 0
@[reducible] def keeperBoth : Nat := 1
@[reducible] def stageSilent : Nat := 2
@[reducible] def clockCritical : Nat := 3
@[reducible] def clockOther : Nat := 4
@[reducible] def supply : Nat := 5
@[reducible] def dualpassTransient : Nat := 6
@[reducible] def dualpassPermanent : Nat := 7
@[reducible] def checkerFail : Nat := 8
@[reducible] def dualpassOff : Nat := 9
@[reducible] def timeIntegrity : Nat := 10
@[reducible] def timeLocal : Nat := 11
@[reducible] def loadStuckOn : Nat := 12
@[reducible] def loadStuckOff : Nat := 13
@[reducible] def loadShortBat : Nat := 14
@[reducible] def balanceFault : Nat := 15
@[reducible] def calBound : Nat := 16
@[reducible] def eccSafety : Nat := 17
@[reducible] def eccOther : Nat := 18
@[reducible] def regionSafety : Nat := 19
@[reducible] def hingeH1 : Nat := 20
@[reducible] def secureReset : Nat := 21
@[reducible] def secureFailed : Nat := 22
@[reducible] def thermalHalt : Nat := 23
@[reducible] def alarmReadback : Nat := 24
@[reducible] def laneMismatch : Nat := 25
@[reducible] def tableFault : Nat := 26
@[reducible] def fenceHard : Nat := 27
end Src

end Sys2Proof.Machine
end

