-- ==== Sys2Proof/Machine/Tickets.lean ====
section
/-! DEFINITION. Tickets (R146 to R154): their allocation, completion and freeing. -/

namespace Sys2Proof.Machine.Zone

/-- The key of ticket `n` of keeper `k`. -/
def ticketKey (k : Keeper) (n : Nat) : Nat := k.idx * 128 + n

/-- Ticket `n` of keeper `k`. -/
def ticket (s : Zone) (k : Keeper) (n : Nat) : Ticket := SMap.get (fun _ => Ticket.init) s.tickets (ticketKey k n)

/-- Replace ticket `n` of keeper `k`, and show the tickets in use in TICKETS.IN_USE. -/
def setTicket (s : Zone) (k : Keeper) (n : Nat) (t : Ticket) : Zone :=
  let m := SMap.set (fun _ => Ticket.init) s.tickets (ticketKey k n) t
  let used := ((List.range 128).filter fun i => decide ((SMap.get (fun _ => Ticket.init) m (ticketKey k i)).state ≠ .free)).length
  ({ s with tickets := m }).setFld (pKEEPER k) Reg.KEEPER.TICKETS_IN_USE used

/-- The lowest-numbered free ticket of a keeper (R146). -/
def freeTicket (s : Zone) (k : Keeper) : Option Nat :=
  (List.range 128).find? fun i => decide ((s.ticket k i).state = .free)

/-- Name the operation that ticket `n` of keeper `k` stands for now. -/
def ticketRef (s : Zone) (k : Keeper) (n : Nat) : TicketRef := ⟨k, n, (s.ticket k n).serial⟩

/-- Issue ticket `n` of keeper `k` for a new operation (R146, R149), in a cycle that begins at tick `at_` (R151). -/
def issueTicket (s : Zone) (k : Keeper) (n at_ : Nat) : Zone :=
  ({ s with ticketSerial := s.ticketSerial + 1 }).setTicket k n
    { state := .issued, serial := s.ticketSerial + 1, issueSlot := s.keeperSlots, issueTick := at_, status := 0,
      age := 0, value := 0 }

/-- An outcome arrives for a ticket (R149): an ISSUED ticket of that operation becomes DONE; any other completion is late
and only counted (R150). -/
def complete (s : Zone) (r : TicketRef) (status value : Nat) : Zone :=
  let t := s.ticket r.keeper r.num
  if t.state = .issued ∧ t.serial = r.serial then
    s.setTicket r.keeper r.num
      { t with state := .done, status := status, age := min 4095 (s.keeperSlots - t.issueSlot), value := value % 65536 }
  else s.count (pKEEPER r.keeper) Reg.KEEPER.TICKET_EVENTS_LATE

/-- A completion with STATUS OK. -/
def completeOk (s : Zone) (r : TicketRef) (value : Nat) : Zone := s.complete r 0 value

/-- A completion with STATUS FAIL. -/
def completeFail (s : Zone) (r : TicketRef) (value : Nat) : Zone := s.complete r 1 value

/-- A completion with STATUS ABORT (VALUE 0, R148). -/
def completeAbort (s : Zone) (r : TicketRef) : Zone := s.complete r 4 0

end Sys2Proof.Machine.Zone
end

