-- ==== Sys2Proof/Machine/Waves.lean ====
section
/-! DEFINITION. The waveforms of the pulse generators as functions of network time (R276 to R282, R287 to R289). -/

namespace Sys2Proof.Machine

/-- floor(log2 n); 0 for n = 0. -/
def log2Floor (n : Nat) : Nat := Nat.log2 n

/-- The duty resolution in bits of a PERIOD in 10 ns units (R278): min(16, 14 + floor(log2(PERIOD / 100,000))), with the
quotient taken exactly for periods below 100,000. -/
def dutyBits (period : Nat) : Nat :=
  if 400000 ≤ period then 16 else if 200000 ≤ period then 15 else if 100000 ≤ period then 14
  else if 50000 ≤ period then 13 else if 25000 ≤ period then 12 else if 12500 ≤ period then 11
  else if 6250 ≤ period then 10 else 9

/-- The on-time of a PWM period (R279). -/
def onTime (duty bits periodNs : Nat) : Nat :=
  if duty = 65535 then periodNs else (duty >>> (16 - bits)) * periodNs / 2 ^ bits

/-- Whether a waveform is on at network time `t` in ns (R279, R281). -/
def Wave.on (w : Wave) (t : Nat) : Bool :=
  match w.mode with
  | 1 => decide (t % w.periodNs < w.onNs)
  | 2 => w.pattern.getLsbD (t % w.periodNs / w.stepNs)
  | _ => false

/-- The flash phase of a waveform at `t`; 0 outside FLASH (R281). -/
def Wave.phaseIdx (w : Wave) (t : Nat) : Nat := if w.mode = 2 then t % w.periodNs / w.stepNs else 0

/-- The first boundary after `t` (R277). -/
def Wave.nextBoundary (w : Wave) (t : Nat) : Nat := (t / w.periodNs + 1) * w.periodNs

/-- The first boundary at or after `t`. -/
def Wave.boundaryFrom (w : Wave) (t : Nat) : Nat := (t + w.periodNs - 1) / w.periodNs * w.periodNs

/-- How long the phase that holds at `t` has lasted and how long it lasts, in ns; a level without edges lasts on. -/
def Wave.phaseAt (w : Wave) (t : Nat) : Nat × Nat :=
  let endless := (t, t + 50000)
  match w.mode with
  | 1 =>
    let pos := t % w.periodNs
    if w.onNs = 0 ∨ w.periodNs ≤ w.onNs then endless
    else if pos < w.onNs then (pos, w.onNs) else (pos - w.onNs, w.periodNs - w.onNs)
  | 2 =>
    let pos := t % w.stepNs
    if w.on t = w.on (t + w.periodNs - w.stepNs) then (pos + w.stepNs, 2 * w.stepNs) else (pos, w.stepNs)
  | _ => endless

/-- The shift of a follower with offset `phase`: PHASE × P / 256 (R282). -/
def Wave.shift (w : Wave) (phase : Nat) : Nat := phase * w.periodNs / 256

/-- The segment of a generator's history that holds at network time `t` (R282). -/
def GenSt.segAt (x : GenSt) (t : Int) : Seg := (x.segs.find? fun y => decide (y.since ≤ t)).getD ⟨0, 0, .off⟩

/-- The level of a generator at network time `t`, by its history. -/
def GenSt.levelAt (x : GenSt) (t : Int) : Bool := (x.segAt t).wave.on (t + (x.segAt t).offset).toNat

/-- The longest period, and so the longest shift of a follower: 32 phases of 4,095 ms. -/
def longestNs : Nat := 131040000000

/-- A waveform holds from network time `since` on. What no follower can still show leaves the history. -/
def GenSt.push (x : GenSt) (now : Nat) (y : Seg) : GenSt :=
  let (recent, older) := (y :: x.segs.filter fun z => decide (z.since ≤ y.since)).span fun z =>
    decide ((now : Int) - longestNs < z.since)
  { x with segs := recent ++ older.take 1 }

namespace Zone

def gen (s : Zone) (g : Nat) : GenSt := SMap.get (fun _ => GenSt.init) s.gens g
def setGen (s : Zone) (g : Nat) (x : GenSt) : Zone := { s with gens := SMap.set (fun _ => GenSt.init) s.gens g x }

/-- Whether generator `g` is on at the moment that lies `back` ns of network time before now; while the time-base clock has
stopped it is off (R282, R289). -/
def genOn (s : Zone) (g : Nat) (back : Nat) : Bool :=
  !s.flag (pCHAR g) Reg.CHAR.GEN_STATUS_STOPPED && (s.gen g).levelAt ((s.nowNs : Int) - back)

/-- How long the phase that generator `g` showed `back` ns ago had lasted then, and how long it lasts (R270, R272). -/
def genPhase (s : Zone) (g : Nat) (back : Nat) : Nat × Nat :=
  let t := (s.nowNs : Int) - back
  let y := (s.gen g).segAt t
  let (since, length) := y.wave.phaseAt (t + y.offset).toNat
  let since' := min since (t - y.since).toNat
  (since', length - since + since')

end Zone

end Sys2Proof.Machine
end

