-- ==== Sys2Proof/Machine/Loads.lean ====
section
/-! DEFINITION. Load outputs (R238 to R275, R679): requests, half-bridge legs and paired bridges, the state machine of R262,
warm-up and the retry budget, safe states, forced openings, diagnostics. -/

namespace Sys2Proof.Machine

open Reg

/-! ### Classes, feeds and pairs -/

/-- The feed of load output n (R238). -/
def loadFeed (n : Nat) : Feed :=
  match loadClass n with
  | .h20 | .leg => .A
  | .h8 | .h3 => .B

/-- The even leg of the bridge that leg n could belong to (R248). -/
def evenLeg (n : Nat) : Nat := n - n % 2

/-! The states of R261 and the causes of CH_STATUS.CAUSE. -/
namespace LS
@[reducible] def off : Nat := 0
@[reducible] def warmup : Nat := 1
@[reducible] def on : Nat := 2
@[reducible] def restartWait : Nat := 3
@[reducible] def tripped : Nat := 4
@[reducible] def thermal : Nat := 5
@[reducible] def lockedOut : Nat := 6
@[reducible] def surgeOpen : Nat := 7
@[reducible] def unpowered : Nat := 8
end LS

/-- The raw current at which the comparator of channel n trips, in 100 mA units: R238 gives the class's window, the implementation
the point in it. -/
def fastTripAt (n : Nat) : Nat :=
  match loadClass n with
  | .h20 => 900 + Config.fastTripPoint n % 301
  | .h8 => 360 + Config.fastTripPoint n % 121
  | .h3 => 130 + Config.fastTripPoint n % 51
  | .leg => 600 + Config.fastTripPoint n % 201

/-- Legs as R246 drives them: high side, low side; `on` is the level of the generator followed. -/
def legDrive (req : Nat) (on : Bool) : Bool × Bool :=
  match req with
  | 1 => (true, false)
  | 2 => (false, true)
  | 3 => (on, !on)
  | 4 => (on, false)
  | _ => (false, false)

/-- The requests of the even and the odd leg that a request of a paired bridge stands for (R249). -/
def pairDrive (req : Nat) : Nat × Nat :=
  match req with
  | 1 => (1, 2)
  | 2 => (2, 1)
  | 3 => (2, 2)
  | 4 => (1, 1)
  | 5 => (3, 2)
  | 6 => (2, 3)
  | _ => (0, 0)

/-- The direction of a bridge request: 1 forward, 2 reverse, 0 neither (R250). -/
def bridgeDirection (req : Nat) : Nat :=
  match req with
  | 1 | 5 => 1
  | 2 | 6 => 2
  | _ => 0

namespace Zone

def load (s : Zone) (n : Nat) : LoadSt := SMap.get (fun _ => LoadSt.init) s.loads n
def setLoad (s : Zone) (n : Nat) (x : LoadSt) : Zone := { s with loads := SMap.set (fun _ => LoadSt.init) s.loads n x }

def cal (s : Zone) (n : Nat) : CalSt := SMap.get (fun _ => CalSt.init) s.cals n
def setCal (s : Zone) (n : Nat) (x : CalSt) : Zone := { s with cals := SMap.set (fun _ => CalSt.init) s.cals n x }

/-- The gain and offset of channel n that hold for the 10 µs mean which ends at tick `at_`: a change applies to the first mean after
its boundary (R298). -/
def calInForce (s : Zone) (n at_ : Nat) : Nat × Int :=
  match (s.cal n).held with
  | some (g, o, b) => if b + 10 * ticksPerUs ≤ at_ then (s.fld (pCAL n) CAL.GAIN_G, s.fldS (pCAL n) CAL.OFFSET_O) else (g, o)
  | none => (s.fld (pCAL n) CAL.GAIN_G, s.fldS (pCAL n) CAL.OFFSET_O)

/-- A factory-calibrated mean that ends now, in 100 µA units, after the gain and offset in force (R296, R298). -/
def calibrated (s : Zone) (n : Nat) (raw : Int) : Int :=
  Int.tdiv (raw * ((s.calInForce n s.mono).1 : Int)) 65536 + (s.calInForce n s.mono).2

/-- The band of a feed, by the encoding of R98. -/
def band (s : Zone) (f : Feed) : Nat :=
  match f with
  | .A => s.fld (pZONE 3) ZONE3.SUPPLY_STATUS_BAND_A
  | .B => s.fld (pZONE 3) ZONE3.SUPPLY_STATUS_BAND_B

/-- Whether leg n is one of a paired bridge (R248). -/
def paired (s : Zone) (n : Nat) : Bool := decide (40 ≤ n) && s.flag (pLOAD (evenLeg n)) LOAD.BRIDGE_CFG_PAIR

/-- The channel whose state machine drives channel n: its own, or the even leg's (R251). -/
def machine (s : Zone) (n : Nat) : Nat := if s.paired n then evenLeg n else n

/-- The channels that a state machine drives. -/
def members (s : Zone) (m : Nat) : List Nat := if s.paired m then [m, m + 1] else [m]

def lstate (s : Zone) (n : Nat) : Nat := s.fld (pLOAD n) LOAD.CH_STATUS_STATE

/-- Whether the thermal latch of a machine's channel is set. -/
def latched (s : Zone) (m : Nat) : Bool := (s.members m).any fun n => s.flag (pLOAD n) LOAD.CH_STATUS_LATCH

/-- The largest defined REQ (R241, R246, R249). -/
def reqMax (s : Zone) (n : Nat) : Nat := if s.paired n then 6 else if 40 ≤ n then 4 else 2

/-- Whether a request follows a pulse generator. -/
def follows (s : Zone) (n e : Nat) : Bool :=
  if s.paired n then e == 5 || e == 6 else if 40 ≤ n then e == 3 || e == 4 else e == 2

/-- The E of the configured safe state (R268). -/
def safeReq (s : Zone) (m : Nat) : Nat :=
  match s.fld (pLOAD m) LOAD.CH_CFG_SAFE with
  | 1 => if s.paired m then 3 else if 40 ≤ m then 2 else 1
  | 2 => s.fld (pLOAD m) LOAD.CH_CTRL_REQ
  | _ => 0

/-- The effective request E (R243, R679). -/
def effReq (s : Zone) (m : Nat) : Nat :=
  if (s.load m).forced then 0
  else if s.flag (pLOAD m) LOAD.CH_STATUS_SAFE_ACTIVE then s.safeReq m
  else s.fld (pLOAD m) LOAD.CH_CTRL_REQ

/-- The state into which the band of its feed opens a channel, none where the band leaves it (R264 to R267). -/
def bandState (s : Zone) (n : Nat) : Option Nat :=
  match s.band (loadFeed n) with
  | 1 => if decide (40 ≤ n) || !(s.flag (pLOAD n) LOAD.CH_CFG_SURGE_HOLD) then some LS.surgeOpen else none
  | 2 => some LS.surgeOpen
  | 3 | 4 => some LS.unpowered
  | _ => none

/-! ### What the switches do -/

/-- The level of the generator that channel n's machine follows, at the channel's own offset (R282). -/
def followLevel (s : Zone) (m : Nat) : Bool :=
  s.genOn (s.load m).gen ((s.gen (s.load m).gen).cur.shift (s.load m).phase)

/-- The band that a feed is in, whatever the monitor shows. -/
def feedBand (s : Zone) (f : Feed) : Nat :=
  match f with
  | .A => s.supply.feedA.band
  | .B => s.supply.feedB.band

/-- The switches of channel n that are to be closed: high side (or the one switch) and low side. A switch is closed by the
request in force in WARMUP and ON, never after a trip, and on a reversed feed by self-enhancement, whether the logic runs or not
(R69, R261, R266). -/
def outputs (s : Zone) (n : Nat) : Bool × Bool :=
  let m := s.machine n
  let c := loadClass n
  if s.feedBand (loadFeed n) = 3 then (decide (c = .h20 ∨ c = .h8), false)
  else if (s.lstate m = LS.warmup ∨ s.lstate m = LS.on) ∧ (s.load m).tripAt = none ∧ (s.load m).forced = false then
    let e := (s.load m).applied
    let lvl := s.followLevel m
    if s.paired n then legDrive (if n = m then (pairDrive e).1 else (pairDrive e).2) lvl
    else if 40 ≤ n then legDrive e lvl
    else match e with
      | 1 => (true, false)
      | 2 => (lvl, false)
      | _ => (false, false)
  else (false, false)

/-- The dead time of a leg in ticks, none for the channels of one switch (R247). -/
def deadTicks (s : Zone) (n : Nat) : Nat := if n < 40 then 0 else (s.fld (pLOAD n) LOAD.BRIDGE_CFG_DEAD_TIME + 1) * 25

/-- Whether `dead` ticks have passed since the moment given, where there was one. -/
def deadOver (s : Zone) (off : Option Nat) (dead : Nat) : Bool := off.all fun t => s.past t dead

/-- The switches of channel n after one that is to open has opened at once, and one that is to close has closed as soon as the
interlock lets it (R247); each action is an edge (R299). -/
def switched (s : Zone) (n : Nat) : LoadSt :=
  let x := s.load n
  let want := s.outputs n
  let x := { x with hi := x.hi && want.1, hiOff := if x.hi && !want.1 then some s.mono else x.hiOff,
                    lo := x.lo && want.2, loOff := if x.lo && !want.2 then some s.mono else x.loOff }
  let dead := s.deadTicks n
  let hi := want.1 && (x.hi || (!x.lo && s.deadOver x.loOff dead))
  let lo := want.2 && (x.lo || (!x.hi && s.deadOver x.hiOff dead))
  let recent := (s.load n).edges.filter fun e => decide (s.mono < e.1 + 100 * ticksPerUs)
  let e1 := if hi = (s.load n).hi then [] else [(s.mono, true)]
  let e2 := if lo = (s.load n).lo then [] else [(s.mono, false)]
  { x with hi := hi, lo := lo, edges := e1 ++ e2 ++ recent }

/-- Channel n switches, and CH_STATUS.CONDUCTING shows whether a switch of it is closed. -/
def settleSwitch (s : Zone) (n : Nat) : Zone :=
  let x := s.switched n
  (s.setLoad n x).setFlag (pLOAD n) LOAD.CH_STATUS_CONDUCTING (x.hi || x.lo)

/-- The channels of a machine switch. -/
def showLoad (s : Zone) (m : Nat) : Zone := s.forEach (s.members m) settleSwitch

/-- The half-bridge legs whose switches do not stand as they are to stand: at the end of the dead time they do (R247). -/
def settleLegs (s : Zone) : Zone :=
  s.forEach (((List.range 8).map (· + 40)).filter fun n => decide (((s.load n).hi, (s.load n).lo) ≠ s.outputs n)) settleSwitch

/-- Whether channel n follows generator g now. -/
def followsGen (s : Zone) (n g : Nat) : Bool :=
  decide (s.machine n = n) && s.follows n (s.load n).applied && decide ((s.load n).gen = g)

/-- How many channels follow generator g: those whose request in force is a FOLLOW of it (GEN_STATUS.FOLLOWERS, R282). -/
def followers (s : Zone) (g : Nat) : Nat :=
  ((List.range 48).filter fun n =>
    decide (s.machine n = n) && s.follows n (s.effReq n) && decide (s.fld (pLOAD n) LOAD.CH_CTRL_GEN = g)).length

/-- Show the state of a machine in every page it drives. -/
def setLState (s : Zone) (m st : Nat) : Zone :=
  s.forEach (s.members m) fun s n => s.setFld (pLOAD n) LOAD.CH_STATUS_STATE st

/-- Record the cause of an opening whose event arose in `leg`; the partner shows PARTNER (R251). -/
def setCause (s : Zone) (m leg cause : Nat) : Zone :=
  s.forEach (s.members m) fun s n => s.setFld (pLOAD n) LOAD.CH_STATUS_CAUSE (if n = leg then cause else 8)

/-- Record a cause that arises in every channel of the machine. -/
def setCauseAll (s : Zone) (m cause : Nat) : Zone :=
  s.forEach (s.members m) fun s n => s.setFld (pLOAD n) LOAD.CH_STATUS_CAUSE cause

/-! ### Applying a request -/

/-- Apply the mode, generator and offset of the effective request at once; during a reversal gap the bridge coasts. -/
def applyReq (s : Zone) (m : Nat) : Zone :=
  let x := s.load m
  let e := if x.gapEnd.isSome then 0 else s.effReq m
  (s.setLoad m { x with applied := e, gen := s.fld (pLOAD m) LOAD.CH_CTRL_GEN,
                        phase := s.fld (pLOAD m) LOAD.CH_CTRL_PHASE, followSince := none }).showLoad m

/-- Leave the conducting states: nothing is applied and no window, trip or spacing runs. A warm-up trip that has not been taken yet is
dropped: where another row of R262 opens the channel within the 10 µs of R260, the spec does not say that the trip is still
taken (log entry 91). -/
def stopDrive (s : Zone) (m : Nat) : Zone :=
  let x := s.load m
  (s.setLoad m { x with applied := 0, windowEnd := none, tripAt := none, spacingEnd := none, followSince := none }).showLoad m

/-- Go to OFF, or to the state of a band that opens the channel (R262). -/
def toOff (s : Zone) (m : Nat) : Zone := (s.setLState m ((s.bandState m).getD LS.off)).stopDrive m

/-- Go to an open state. -/
def toOpen (s : Zone) (m st : Nat) : Zone := (s.setLState m st).stopDrive m

/-- Start to conduct: open a warm-up window, or go straight to ON where WINDOW is 0 (R257); a band that opens the channel
takes it to its state instead (R262). -/
def startConducting (s : Zone) (m : Nat) : Zone :=
  match s.bandState m with
  | some b => s.toOpen m b
  | none =>
    let w := s.fld (pLOAD m) LOAD.WARMUP_CFG_WINDOW
    let s := s.setFld (pLOAD m) LOAD.CH_STATUS_RESTARTS 0
    let s := s.setLState m (if w = 0 then LS.on else LS.warmup)
    let s := s.setLoad m { s.load m with windowEnd := if w = 0 then none else some (s.mono + w * ticksPerMs),
                                         tripAt := none, spacingEnd := none }
    s.applyReq m

/-- Whether the request in force turns the direction that a bridge drives, with a gap to keep (R250). -/
def reverses (s : Zone) (m : Nat) : Bool :=
  let d := bridgeDirection (s.load m).applied
  let e := bridgeDirection (s.effReq m)
  s.paired m && decide (d ≠ 0 ∧ e ≠ 0 ∧ d ≠ e ∧ s.fld (pLOAD m) LOAD.BRIDGE_CFG_REVERSE_GAP ≠ 0)

/-- The gap of R250 begins: until it ends the bridge coasts. -/
def beginGap (s : Zone) (m : Nat) : Zone :=
  (s.setLoad m { s.load m with
    gapEnd := some (s.mono + s.fld (pLOAD m) LOAD.BRIDGE_CFG_REVERSE_GAP * ticksPerMs) }).applyReq m

/-- A REQUEST_ON to a channel that already conducts or waits to (R244, R245, R250, R283). One that waits for its restart applies
the request when it restarts. -/
def changeMode (s : Zone) (m : Nat) : Zone :=
  let x := s.load m
  let e := s.effReq m
  let g := s.fld (pLOAD m) LOAD.CH_CTRL_GEN
  let ph := s.fld (pLOAD m) LOAD.CH_CTRL_PHASE
  if x.gapEnd.isSome then s
  else if s.reverses m then s.beginGap m
  else if s.lstate m = LS.restartWait then s
  else if (s.follows m x.applied || s.follows m e) && decide (x.applied ≠ e ∨ x.gen ≠ g ∨ x.phase ≠ ph) then
    let governing := if s.follows m x.applied then x.gen else g
    if (s.gen governing).cur.mode = 0 then s.applyReq m
    else s.setLoad m { x with followSince := some s.nowNs }
  else s.applyReq m

/-- End a running OFF_DIAG of channel n with STATUS ABORT (R273, R679). -/
def abortDiag (s : Zone) (n : Nat) : Zone :=
  match (s.load n).offDiag with
  | none => s
  | some d => (s.setLoad n { s.load n with offDiag := none }).completeAbort d.ticket

/-- The refill timer of R258: it runs while E stays 0, and starts afresh when E becomes 0. -/
def refillTimer (s : Zone) (m : Nat) : Zone :=
  let x := s.load m
  if s.effReq m = 0 then
    match x.zeroSince with
    | some _ => s
    | none => s.setLoad m { x with zeroSince := some s.mono, refilled := false }
  else s.setLoad m { x with zeroSince := none, refilled := false }

/-- The event REQUEST of machine m (R243, R262); a REQUEST_ON ends a running OFF_DIAG (R273). -/
def request (s : Zone) (m : Nat) : Zone :=
  let s := s.refillTimer m
  let e := s.effReq m
  let s := s.when (decide (e ≠ 0)) fun s => s.forEach (s.members m) abortDiag
  match s.lstate m with
  | 1 | 2 | 3 => if e = 0 then s.toOff m else s.changeMode m
  | 0 =>
    if e = 0 then s
    else
      if s.latched m then (s.setLState m LS.thermal).setFld (pLOAD m) LOAD.CH_STATUS_FRESH 1
      else s.startConducting m
  | 4 => if e = 0 then s.toOff m else s
  | _ => s

/-! ### Safe states and forced openings -/

/-- SAFE_ACTIVE sets, which is a REQUEST with the E of the safe state (R269). The odd leg of a pair has none. -/
def enterSafe (s : Zone) (n : Nat) : Zone :=
  if s.machine n ≠ n then s
  else if s.flag (pLOAD n) LOAD.CH_STATUS_SAFE_ACTIVE then s
  else
    let s := s.setFld (pLOAD n) LOAD.CH_STATUS_SAFE_ACTIVE 1
    (s.event (pLOAD n) LOAD.CH_EVENT_SAFE_ENTER).request n

/-- The LOAD page's stage falls silent (R211, R269). -/
def loadSilent (s : Zone) (n : Nat) : Zone :=
  if (s.load n).forced then s else (s.setLoad n { s.load n with silent := true }).enterSafe n

/-- The safety monitor demands the safe state of channel n (R269, R628). -/
def loadDemand (s : Zone) (n : Nat) : Zone :=
  if (s.load n).forced then s
  else if (s.load n).demanded then s
  else (s.setLoad n { s.load n with demanded := true, owed := true }).enterSafe n

/-- The demand on channel n ends; SAFE_ACTIVE stays until the next accepted CH_CTRL write (R269). -/
def loadRelease (s : Zone) (n : Nat) : Zone := s.setLoad n { s.load n with demanded := false }

/-- An accepted command to the page of channel n ends a safe state that silence set, which is a REQUEST where E changes (R211, R243,
R269). The odd leg of a pair has no machine of its own (R251). -/
def loadAccepted (s : Zone) (n : Nat) : Zone :=
  let x := s.load n
  if !x.silent then s
  else
    let s := s.setLoad n { x with silent := false }
    if x.demanded || x.owed || !s.flag (pLOAD n) LOAD.CH_STATUS_SAFE_ACTIVE then s
    else
      let s' := s.setFld (pLOAD n) LOAD.CH_STATUS_SAFE_ACTIVE 0
      if s.machine n = n ∧ s'.effReq n ≠ s.effReq n then s'.request n else s'

/-- A forced opening (R679). -/
def forceOpen (s : Zone) (n : Nat) : Zone :=
  let s := s.abortDiag n
  let s := (s.setFld (pLOAD n) LOAD.CH_STATUS_SAFE_ACTIVE 0).setFld (pLOAD n) LOAD.CH_STATUS_FRESH 0
  let s := s.setFld (pLOAD n) LOAD.CH_STATUS_STATE LS.off
  let s := s.setLoad n { s.load n with forced := true, silent := false, demanded := false, owed := false, applied := 0,
                                       windowEnd := none, tripAt := none, spacingEnd := none, followSince := none,
                                       gapEnd := none }
  (s.refillTimer n).settleSwitch n

/-- A forced opening of every load output. -/
def forceOpenAll (s : Zone) : Zone := s.forEach (List.range 48) forceOpen

/-- The write of CH_CTRL that a claim check has accepted (R242, R243, R249, R269, R679). A write whose REQ is undefined changes no
field that it addresses, but it is an accepted command, so a safe state that silence set ends with it: R242 and R211 differ there,
and this is the model's reading (log entry 91). -/
def chCtrlWrite (s : Zone) (n : Nat) (v : Word) : Zone :=
  let req := LOAD.CH_CTRL_REQ.get v
  if (s.load n).forced then s.count (pLOAD n) LOAD.MISC_COUNTS_IGNORED
  else if s.machine n ≠ n then s.count (pLOAD n) LOAD.MISC_COUNTS_IGNORED
  else if (s.load n).demanded then s.count (pLOAD n) LOAD.MISC_COUNTS_IGNORED
  else if s.reqMax n < req then (s.count (pLOAD n) LOAD.MISC_COUNTS_BAD_REQ).loadAccepted n
  else
    let s := s.setFld (pLOAD n) LOAD.CH_CTRL_REQ req
    let s := s.setFld (pLOAD n) LOAD.CH_CTRL_GEN (LOAD.CH_CTRL_GEN.get v)
    let s := s.setFld (pLOAD n) LOAD.CH_CTRL_PHASE (LOAD.CH_CTRL_PHASE.get v)
    let s := s.setLoad n { s.load n with silent := false, owed := false }
    (s.setFld (pLOAD n) LOAD.CH_STATUS_SAFE_ACTIVE 0).request n

/-! ### Trips, latch, budget -/

/-- Set a CH_EVENT bit of machine m. -/
def chEvent (s : Zone) (m : Nat) (f : Fld) : Zone := s.event (pLOAD m) f

/-- The FAST_TRIP bit with its counter (R262). -/
def setFastTrip (s : Zone) (m : Nat) : Zone :=
  (s.chEvent m LOAD.CH_EVENT_FAST_TRIP).count (pLOAD m) LOAD.COUNTS_FAST_TRIPS

/-- The transition to LOCKED_OUT with its event, counter and record (R262). -/
def toLockedOut (s : Zone) (m leg : Nat) : Zone :=
  let s := (s.toOpen m LS.lockedOut).setCause m leg 5
  let s := (s.chEvent m LOAD.CH_EVENT_LOCKED_OUT).count (pLOAD m) LOAD.COUNTS_LOCKOUTS
  s.post (pLOAD m) LOAD.CH_EVENT_LOCKED_OUT

/-- The sags of a feed. -/
def sags (s : Zone) (f : Feed) : List Sag :=
  match f with
  | .A => s.sagsA
  | .B => s.sagsB

/-- The distance of two ticks. -/
def tickDist (a b : Nat) : Nat := (a - b) + (b - a)

/-- The one of a list of sags nearest to tick `t`; of two equally near, the earlier (R260). -/
def nearestSag (l : List Sag) (t : Nat) : Option Sag :=
  l.foldl (fun best x =>
    match best with
    | none => some x
    | some b => if tickDist x.at_ t < tickDist b.at_ t ∨ (tickDist x.at_ t = tickDist b.at_ t ∧ x.at_ < b.at_)
                then some x else some b) none

/-- The sags within 10 µs of a trip of channel `leg` at `t`, and those of them attributed to another channel (R260). -/
def tripSags (s : Zone) (leg t : Nat) : List Sag × List Sag :=
  let near := (s.sags (loadFeed leg)).filter fun x => decide (tickDist x.at_ t ≤ 10 * ticksPerUs)
  (near, near.filter fun x => match x.channel with
    | some c => decide (c ≠ leg)
    | none => false)

/-- What LAST_TRIP.SAG_SRC shows for a trip (R260). -/
def sagSource (s : Zone) (leg t : Nat) : Nat :=
  let (near, others) := s.tripSags leg t
  match nearestSag others t with
  | some x => x.channel.getD 0xFE
  | none =>
    match nearestSag near t with
    | some x => x.channel.getD 0xFE
    | none => 0xFF

/-- The restart spacing in ticks (R257). -/
def spacing (s : Zone) (m : Nat) : Nat := (s.fld (pLOAD m) LOAD.WARMUP_CFG_SPACING + 1) * 100 * ticksPerUs

/-- The FAST_TRIP rows of WARMUP for the trip that the hardware made at `t` in `leg` (R260, R262). -/
def takeWarmupTrip (s : Zone) (m leg t : Nat) : Zone :=
  let excused := !(s.tripSags leg t).2.isEmpty
  let s := s.setFld (pLOAD m) LOAD.LAST_TRIP_SAG_SRC (s.sagSource leg t)
  let restarts := s.fld (pLOAD m) LOAD.CH_STATUS_RESTARTS
  let wait (s : Zone) : Zone :=
    let s := s.setFld (pLOAD m) LOAD.CH_STATUS_RESTARTS (restarts + 1)
    let s := s.setLState m LS.restartWait
    (s.setLoad m { s.load m with tripAt := none, spacingEnd := some (t + s.spacing m) }).showLoad m
  let s := s.setFastTrip m
  if restarts = 15 ∨ (s.load m).windowEnd.getD 0 ≤ t + s.spacing m then
    ((s.toOpen m LS.tripped).setCause m leg 4).chEvent m LOAD.CH_EVENT_TRIPPED
  else if excused then
    ((wait s).chEvent m LOAD.CH_EVENT_EXCUSED).count (pLOAD m) LOAD.COUNTS_EXCUSED
  else if s.fld (pLOAD m) LOAD.CH_STATUS_BUDGET = 0 then s.toLockedOut m leg
  else (wait s).setFld (pLOAD m) LOAD.CH_STATUS_BUDGET (s.fld (pLOAD m) LOAD.CH_STATUS_BUDGET - 1)

/-- The raw current of channel n reaches `peak`; above the class's threshold its comparator fires (R238, R253, R260, R262). -/
def fastTrip (s : Zone) (n : Nat) (peak : Nat) : Zone :=
  if peak ≤ fastTripAt n ∨ s.flag (pLOAD n) LOAD.CH_STATUS_CONDUCTING = false then s
  else
    let m := s.machine n
    let s := s.setLoad n { s.load n with firedAt := some s.mono }
    match s.lstate m with
    | 1 =>
      let s := s.setFld (pLOAD n) LOAD.LAST_TRIP_PEAK peak
      (s.setLoad m { s.load m with tripAt := some s.mono, tripLeg := n }).showLoad m
    | 2 =>
      let s := s.setFld (pLOAD n) LOAD.LAST_TRIP_PEAK peak
      (((s.toOpen m LS.tripped).setCause m n 1).setFastTrip m).chEvent m LOAD.CH_EVENT_TRIPPED
    | _ => s

/-- The soft trip of a channel (R254, R262). -/
def softTrip (s : Zone) (n : Nat) : Zone :=
  let m := s.machine n
  match s.lstate m with
  | 1 | 2 =>
    (((s.toOpen m LS.tripped).setCause m n 2).chEvent m LOAD.CH_EVENT_SOFT_TRIP).chEvent m LOAD.CH_EVENT_TRIPPED
  | _ => s

/-- The latch of channel n sets (R256, R262). -/
def latchSet (s : Zone) (n : Nat) : Zone :=
  let m := s.machine n
  let s := s.setFld (pLOAD n) LOAD.CH_STATUS_LATCH 1
  let s := s.count (pLOAD m) LOAD.COUNTS_THERMAL
  match s.lstate m with
  | 1 | 2 | 3 =>
    let s := (s.toOpen m LS.thermal).setCause m n 3
    (s.setFld (pLOAD m) LOAD.CH_STATUS_FRESH 0).chEvent m LOAD.CH_EVENT_THERMAL_SET
  | _ => s

/-- The latch of channel n releases (R256, R262). -/
def latchRelease (s : Zone) (n : Nat) : Zone :=
  let m := s.machine n
  let s := s.setFld (pLOAD n) LOAD.CH_STATUS_LATCH 0
  if s.lstate m ≠ LS.thermal ∨ s.latched m then s
  else
    let fresh := s.flag (pLOAD m) LOAD.CH_STATUS_FRESH
    let s := (s.setFld (pLOAD m) LOAD.CH_STATUS_FRESH 0).chEvent m LOAD.CH_EVENT_THERMAL_RELEASE
    if s.effReq m = 0 then s.toOff m
    else if fresh then s.startConducting m
    else if s.fld (pLOAD m) LOAD.CH_STATUS_BUDGET = 0 then s.toLockedOut m n
    else if (s.bandState m).isSome then s.startConducting m
    else
      let s := s.setFld (pLOAD m) LOAD.CH_STATUS_BUDGET (s.fld (pLOAD m) LOAD.CH_STATUS_BUDGET - 1)
      (s.startConducting m).chEvent m LOAD.CH_EVENT_RESTART

/-- The state machine event CLEAR_RETRY with the budget it sets (R258, R262, R273). -/
def clearRetry (s : Zone) (m : Nat) : Zone :=
  let s := s.setFld (pLOAD m) LOAD.CH_STATUS_BUDGET (s.fld (pLOAD m) LOAD.WARMUP_CFG_RETRY_MAX)
  if s.lstate m ≠ LS.lockedOut then s
  else if s.effReq m = 0 then s.toOff m
  else if s.latched m then (s.setLState m LS.thermal).setFld (pLOAD m) LOAD.CH_STATUS_FRESH 1
  else s.startConducting m

/-- The band of its feed has changed: the FEED rows of R262 for machine m. -/
def feedBandChanged (s : Zone) (m : Nat) : Zone :=
  if (s.load m).forced then s.showLoad m
  else
    match s.bandState m with
    | some b =>
      if s.lstate m ≤ LS.restartWait then
        let s := (s.toOpen m b).setCauseAll m (if b = LS.surgeOpen then 6 else 7)
        s.chEvent m LOAD.CH_EVENT_FEED_OPEN
      else if s.lstate m = LS.surgeOpen ∨ s.lstate m = LS.unpowered then (s.setLState m b).showLoad m
      else s.showLoad m
    | none =>
      if (s.lstate m = LS.surgeOpen ∨ s.lstate m = LS.unpowered) ∧ s.band (loadFeed m) = 0 then
        (s.setLState m LS.off).showLoad m
      else s.showLoad m

/-- Every load output of a feed sees the new band of its feed (R264 to R267). -/
def feedBandAll (s : Zone) (f : Feed) : Zone :=
  s.forEach ((List.range 48).filter fun n => decide (loadFeed n = f) && decide (s.machine n = n)) feedBandChanged

/-- The channel of a feed whose comparator fired first within the 4 µs before now (R259). -/
def sagChannel (s : Zone) (f : Feed) : Option Nat :=
  (List.range 48).foldl (fun best n =>
    match (s.load n).firedAt with
    | some t =>
      if loadFeed n = f ∧ s.mono ≤ t + 4 * ticksPerUs then
        match best with
        | some b => if t < ((s.load b).firedAt.getD 0) then some n else some b
        | none => some n
      else best
    | none => best) none

end Zone

/-! ### Commands -/

def execChCtrlWrite (ch : Fin 48) (value : Word) (st : State) : Result := st.runOn fun s => (s.chCtrlWrite ch.val value)

def execFastTrip (ch : Fin 48) (peak : BitVec 16) (st : State) : Result := st.runOn fun s => (s.fastTrip ch.val peak.toNat)

/-- 10 µs after the trip time, and not before, the trip is taken (R260). -/
def execWarmupTripTaken (ch : Fin 48) (st : State) : Result := st.runOn fun s =>
  let m := ch.val
  match (s.load m).tripAt with
  | some t =>
    if s.lstate m = LS.warmup ∧ s.past t (10 * Zone.ticksPerUs) then (s.takeWarmupTrip m (s.load m).tripLeg t)
    else s
  | none => s

/-- Whether the open-load test samples channel n now: in ON, and of a FOLLOW only on-phases of at least 50 µs, from 20 µs on
(R270). -/
def Zone.olSampled (s : Zone) (n : Nat) : Bool :=
  let m := s.machine n
  let x := s.load m
  let (since, length) := s.genPhase x.gen ((s.gen x.gen).cur.shift x.phase)
  decide (s.lstate m = LS.on) && (!s.follows m x.applied || (s.followLevel m && decide (50000 ≤ length ∧ 20000 ≤ since)))

/-- The open-load threshold of channel n in 100 µA units, 0 where there is no test (R270). -/
def Zone.olThreshold (s : Zone) (n : Nat) : Nat :=
  let t := s.fld (pLOAD n) LOAD.CH_CFG_OL_THRESH
  match s.fld (pLOAD n) LOAD.CH_CFG_OL_RANGE with
  | 1 => t * 500
  | 2 => t * 5
  | _ => 0

/-- The least and the greatest magnitude of the calibrated current of channel n where the current before calibration lay between `low` and
`high` (R293, R297). -/
def Zone.magnitudes (s : Zone) (n : Nat) (low high : BitVec 32) : Nat × Nat :=
  let a := s.calibrated n low.toInt
  let b := s.calibrated n high.toInt
  (if (a ≤ 0 ∧ 0 ≤ b) ∨ (b ≤ 0 ∧ 0 ≤ a) then 0 else min a.natAbs b.natAbs, max a.natAbs b.natAbs)

/-- Every 10 µs the accumulator of R254 takes the calibrated current: `raw` is the mean with factory calibration only, in 100 µA
units. It runs in every state except OFF and SLEEP. Of an accumulator that exceeds the field, I2T_ACC shows a free value (log
entry 2). -/
def execSoftLimitTick (ch : Fin 48) (raw : BitVec 32) (st : State) : Result := st.runOn fun s =>
  let n := ch.val
  if !s.deadOver (s.load n).tickAt (10 * Zone.ticksPerUs) then s else
  let cur := s.calibrated n raw.toInt
  let s := (s.setFld (pLOAD n) LOAD.CUR_RAW_CURRENT raw.toNat).setFldS (pLOAD n) LOAD.CUR_CURRENT cur
  let i := cur.natAbs / 100
  let iNom := s.fld (pLOAD n) LOAD.SOFT_CFG_I_NOM
  let acc := (s.load n).acc + i * i - iNom * iNom
  let s := s.setLoad n { s.load n with acc := acc, tickAt := some s.mono }
  let s := s.setFldU (pLOAD n) LOAD.I2T_ACC_ACC (acc / 1000000)
  (if s.fld (pLOAD n) LOAD.SOFT_LIMIT_LIMIT * 1000000 ≤ acc then s.softTrip n else s)

/-- The junction sensor reads `temp`, in 1/16 °C (R256). -/
def execJunctionSample (ch : Fin 48) (temp : BitVec 16) (st : State) : Result := st.runOn fun s => s.paced (Pace.junction ch.val) 2500 fun s =>
  let n := ch.val
  let latch := s.flag (pLOAD n) LOAD.CH_STATUS_LATCH
  let s := s.setFld (pLOAD n) LOAD.TJ_TEMP temp.toNat
  (if 175 * 16 ≤ temp.toInt ∧ latch = false then s.latchSet n
    else if temp.toInt < 150 * 16 ∧ latch = true then s.latchRelease n else s)

/-- The restart spacing has passed; where the band of the feed opens the channel it goes to that band's state (R257, R262). -/
def execSpacingEnd (ch : Fin 48) (st : State) : Result := st.runOn fun s =>
  let m := ch.val
  match (s.load m).spacingEnd with
  | some t =>
    if s.lstate m = LS.restartWait ∧ t ≤ s.mono then
      match s.bandState m with
      | some b => s.toOpen m b
      | none =>
        let s := (s.setLState m LS.warmup).chEvent m LOAD.CH_EVENT_RESTART
        (s.setLoad m { s.load m with spacingEnd := none }).applyReq m
    else s
  | none => s

/-- The warm-up window has ended; a WINDOW_END between the trip time and the taking of the trip is discarded (R260). -/
def execWindowEnd (ch : Fin 48) (st : State) : Result := st.runOn fun s =>
  let m := ch.val
  match (s.load m).windowEnd with
  | some t =>
    if s.lstate m = LS.warmup ∧ t ≤ s.mono ∧ (s.load m).tripAt = none then
      match s.bandState m with
      | some b => s.toOpen m b
      | none => (s.setLoad m { s.load m with windowEnd := none }).setLState m LS.on
    else s
  | none => s

/-- 1 s ±1 % with E = 0: the earliest moment is taken as 0.99 s (R258). The odd leg of a pair has no budget of its own (R251). -/
def execRefill (ch : Fin 48) (st : State) : Result := st.runOn fun s =>
  let m := ch.val
  match (s.load m).zeroSince with
  | some t =>
    if s.machine m = m ∧ s.past t (990 * Zone.ticksPerMs) ∧ (s.load m).refilled = false then
      let s := s.setLoad m { s.load m with refilled := true }
      let s := s.setFld (pLOAD m) LOAD.CH_STATUS_BUDGET (s.fld (pLOAD m) LOAD.WARMUP_CFG_RETRY_MAX)
      let s := s.chEvent m LOAD.CH_EVENT_REFILL
      (if s.lstate m = LS.lockedOut then s.toOff m else s)
    else s
  | none => s

def execReverseGapEnd (ch : Fin 48) (st : State) : Result := st.runOn fun s =>
  let m := ch.val
  match (s.load m).gapEnd with
  | some t =>
    if t ≤ s.mono then
      let s := s.setLoad m { s.load m with gapEnd := none }
      (if s.lstate m = LS.warmup ∨ s.lstate m = LS.on then s.applyReq m else s)
    else s
  | none => s

/-- A feed falls below its 100 µs running mean; by 2.0 V or more it is an event (R259). -/
def execFeedSag (feed : SagReading) (st : State) : Result := st.runOn fun s =>
  if feed.mean.toInt < feed.volts.toInt + 500 then s else
  let e : Sag := ⟨s.mono, s.sagChannel feed.feed⟩
  let recent (l : List Sag) : List Sag := l.filter fun x => decide (s.mono ≤ x.at_ + Zone.ticksPerMs)
  (match feed.feed with
    | .A => { s with sagsA := recent s.sagsA ++ [e] }
    | .B => { s with sagsB := recent s.sagsB ++ [e] })

/-- A 10 µs step of the open-load filter, in which the current before calibration lay between `low` and `high`. OPEN_LOAD sets once the
calibrated current has stayed below the threshold for OL_TIME ms of sampled time, and clears once it has stayed above the
threshold plus 10 % for as long (R270, R297). Outside ON and without a test no time counts. -/
def execOpenLoadFilter (ch : Fin 48) (low high : BitVec 32) (st : State) : Result := st.runOn fun s =>
  let n := ch.val
  let x := s.load n
  let thr := s.olThreshold n
  let mag := s.magnitudes n low high
  if !s.deadOver x.olAt (10 * Zone.ticksPerUs) then s
  else if thr = 0 ∨ s.lstate (s.machine n) ≠ LS.on then s.setLoad n { x with olAt := some s.mono, below := 0, above := 0 }
  else if s.olSampled n = false then s.setLoad n { x with olAt := some s.mono }
  else
    let below := if mag.2 < thr then x.below + 1 else 0
    let above := if thr * 11 < mag.1 * 10 then x.above + 1 else 0
    let need := s.fld (pLOAD n) LOAD.CH_CFG_OL_TIME * 100
    let s := s.setLoad n { x with olAt := some s.mono, below := below, above := above }
    if need ≤ below ∧ s.flag (pLOAD n) LOAD.CH_STATUS_OPEN_LOAD = false then
      (s.setFld (pLOAD n) LOAD.CH_STATUS_OPEN_LOAD 1).event (pLOAD n) LOAD.CH_EVENT_OPEN_LOAD
    else if need ≤ above then s.setFld (pLOAD n) LOAD.CH_STATUS_OPEN_LOAD 0
    else s

/-- One switch fault of R272: set and reported at its onset, cleared when its condition has been absent. -/
def switchFault (s : Zone) (n : Nat) (status evt : Fld) (source : Nat) (present absent : Bool) : Zone :=
  if present && !(s.flag (pLOAD n) status) then
    ((s.setFld (pLOAD n) status 1).event (pLOAD n) evt).report source (BitVec.ofNat 32 n)
  else if absent then s.setFld (pLOAD n) status 0 else s

/-- The supply monitor's reading of a feed, in 4 mV units (FEED_V, R98). -/
def Zone.setFeedV (s : Zone) (f : Feed) (v : BitVec 16) : Zone :=
  match f with
  | .A => s.setFld (pZONE 3) ZONE3.FEED_V_BAT_A v.toNat
  | .B => s.setFld (pZONE 3) ZONE3.FEED_V_BAT_B v.toNat

/-- Whether the phase of a FOLLOW in which channel n stands is long enough to be judged (R272). -/
def Zone.phaseJudged (s : Zone) (n : Nat) : Bool :=
  let m := s.machine n
  let x := s.load m
  !s.follows m x.applied || decide (50000 ≤ (s.genPhase x.gen ((s.gen x.gen).cur.shift x.phase)).2)

/-- After the detection time, in which the sense read from `senseMin` to `senseMax` (100 µA units, before calibration) and the
output stood between `voutMin` and `voutMax` (4 mV units) on a feed of `feedV`, with the switch commanded the same way
throughout (R272, R297). Of a leg, a low side commanded closed is a switch commanded closed: R272 does not tell the sides apart
(log entry 91). -/
def execSwitchFaultDetect (ch : Fin 48) (senseMin senseMax : BitVec 32) (voutMin voutMax feedV : BitVec 16) (st : State) : Result := st.runOn fun s =>
  let n := ch.val
  if s.band (loadFeed n) ≠ 0 ∨ s.phaseJudged n = false then s
  else
    let s := s.setFeedV (loadFeed n) feedV
    let feedV := feedV.toInt
    let (least, most) := s.magnitudes n senseMin senseMax
    let closed := (s.outputs n).1 || (s.outputs n).2
    let lo := voutMin.toInt
    let hi := voutMax.toInt
    let s := s.setFld (pLOAD n) LOAD.VOUT_VOLT voutMax.toNat
    let s := switchFault s n LOAD.CH_STATUS_STUCK_ON LOAD.CH_EVENT_STUCK_ON Src.loadStuckOn
      (!closed && decide (500 < least)) (closed || decide (most ≤ 500))
    let s := switchFault s n LOAD.CH_STATUS_SHORT_BAT LOAD.CH_EVENT_SHORT_BAT Src.loadShortBat
      (!closed && decide (feedV < 2 * lo) && decide (most ≤ 500))
      (closed || decide (2 * hi ≤ feedV) || decide (500 < least))
    (switchFault s n LOAD.CH_STATUS_STUCK_OFF LOAD.CH_EVENT_STUCK_OFF Src.loadStuckOff
      (closed && decide (2 * hi < feedV)) (!closed || decide (feedV ≤ 2 * lo)))

/-- OP variant 0 of R273, for the ticket `r`. A channel that a forced opening holds ignores it (R679). -/
def Zone.opClearRetry (s : Zone) (n : Nat) (r : TicketRef) : Zone :=
  let m := s.machine n
  if (s.load m).forced then s.count (pLOAD n) LOAD.MISC_COUNTS_IGNORED
  else
    let s := (s.loadAccepted n).clearRetry m
    s.completeOk r (s.fld (pLOAD m) LOAD.CH_STATUS_BUDGET)

/-- OP variant 1 of R273; `shorted` tells whether the output stands above 50 % of the feed before sourcing. -/
def Zone.opOffDiag (s : Zone) (n : Nat) (r : TicketRef) (shorted : Bool) : Zone :=
  let m := s.machine n
  if (s.load m).forced then s.count (pLOAD n) LOAD.MISC_COUNTS_IGNORED
  else
    let s := s.loadAccepted n
    if (s.load n).offDiag.isSome then s.completeFail r 2
    else if s.lstate m ≠ LS.off ∨ s.effReq m ≠ 0 then s.completeFail r 1
    else s.setLoad n { s.load n with offDiag := some ⟨r, shorted, s.mono + Zone.ticksPerMs⟩ }

/-- OP variant 2 of R273: the magnitude of the calibrated current in 10 mA units. -/
def Zone.opSnapshot (s : Zone) (n : Nat) (r : TicketRef) : Zone :=
  if (s.load (s.machine n)).forced then s.count (pLOAD n) LOAD.MISC_COUNTS_IGNORED
  else
    let s := s.loadAccepted n
    s.completeOk r (min 0xFFFF ((s.fldS (pLOAD n) LOAD.CUR_CURRENT).natAbs / 100))

/-- OP variants 3 to 15: an accepted command without an operation (R269, R273). -/
def Zone.opLoadOther (s : Zone) (n : Nat) (r : TicketRef) : Zone :=
  if (s.load (s.machine n)).forced then s.count (pLOAD n) LOAD.MISC_COUNTS_IGNORED
  else (s.loadAccepted n).completeFail r 0x00FF

def execClearRetry (ch : Fin 48) (keeper : Keeper) (ticket : Fin 128) (st : State) : Result := st.runOn fun s =>
  s.opClearRetry ch.val (s.ticketRef keeper ticket.val)

/-- OFF_DIAG; `vout` is the output voltage before sourcing and `feedV` the feed, in 4 mV units. -/
def execOffDiag (ch : Fin 48) (keeper : Keeper) (ticket : Fin 128) (vout feedV : BitVec 16) (st : State) : Result := st.runOn fun s =>
  (s.setFeedV (loadFeed ch.val) feedV).opOffDiag ch.val (s.ticketRef keeper ticket.val) (decide (feedV.toInt < 2 * vout.toInt))

/-- The output reads `millivolts` after the 1 ms sourcing (R273). -/
def execOffDiagDone (ch : Fin 48) (millivolts : Nat) (st : State) : Result := st.runOn fun s =>
  let n := ch.val
  match (s.load n).offDiag with
  | some d =>
    if d.due ≤ s.mono then
      let v := if d.shorted then 2 else if millivolts < 1500 then 0 else if 3500 < millivolts then 1 else 3
      ((s.setLoad n { s.load n with offDiag := none }).completeOk d.ticket v)
    else s
  | none => s

def execSnapshot (ch : Fin 48) (keeper : Keeper) (ticket : Fin 128) (st : State) : Result := st.runOn fun s =>
  s.opSnapshot ch.val (s.ticketRef keeper ticket.val)

/-- The change of generator, offset or mode that waits takes effect at the first shifted boundary of the generator and
offset that govern it (R283). -/
def execFollowBoundary (ch : Fin 48) (st : State) : Result := st.runOn fun s =>
  let m := ch.val
  let x := s.load m
  match x.followSince with
  | some t0 =>
    let old := s.follows m x.applied
    let g := if old then x.gen else s.fld (pLOAD m) LOAD.CH_CTRL_GEN
    let ph := if old then x.phase else s.fld (pLOAD m) LOAD.CH_CTRL_PHASE
    let w := (s.gen g).cur
    let sh := w.shift ph
    if w.mode = 0 ∨ (t0 + w.periodNs - sh) / w.periodNs < (s.nowNs + w.periodNs - sh) / w.periodNs then (s.applyReq m)
    else s
  | none => s

end Sys2Proof.Machine
end

