-- ==== Sys2Proof/Machine/Chars.lean ====
section
/-! DEFINITION. The pulse generators (R276 to R292): staged words, their application at a boundary, fades, edges, time steps
and stops of the time-base clock. -/

namespace Sys2Proof.Machine

open Reg

/-- A waveform from applied values (R277 to R281): mode, PERIOD in 10 ns units, D, pattern, LENGTH and STEP in ms. -/
def Wave.make (mode period duty : Nat) (pattern : Word) (length step : Nat) : Wave :=
  match mode with
  | 1 => ⟨1, period * 10, onTime duty (dutyBits period) (period * 10), pattern, 1000000⟩
  | 2 => ⟨2, length * step * 1000000, 0, pattern, step * 1000000⟩
  | _ => .off

/-- D moved toward `target` by at most `fade`; a fade of 0 takes the target at once (R280). -/
def fadeStep (d target fade : Nat) : Nat :=
  if fade = 0 then target
  else if d ≤ target then min (d + fade) target
  else max (d - fade) target

/-- The time from `t` to the end of a waveform's phase in progress (R288). -/
def Wave.phaseLeft (w : Wave) (t : Nat) : Nat :=
  match w.mode with
  | 1 => if t % w.periodNs < w.onNs then w.onNs - t % w.periodNs else w.periodNs - t % w.periodNs
  | 2 => w.stepNs - t % w.stepNs
  | _ => 0

/-- The history of a generator in a numbering of network time that lies `o` ns ahead. -/
def GenSt.relabel (x : GenSt) (o : Int) : GenSt :=
  { x with segs := x.segs.map fun y => { y with since := y.since + o, offset := y.offset - o } }

/-- A generator after a step of network time from `old` to `now` (R288). Its history takes the new numbering; the phase in progress
ends as it would have, a phase that an earlier step left in progress too; the output is then off until the first boundary of
the stepped time. An output that is held off has no phase in progress. -/
def GenSt.stepped (x : GenSt) (old now : Nat) : GenSt :=
  let o : Int := (now : Int) - old
  let waits := x.holding && decide (old < x.next)
  let moved := ({ x with segs := x.segs.filter fun y => decide (y.since ≤ old) }).relabel o |>.segs
  let finish : Nat :=
    if waits then match (x.segs.filter fun y => decide ((old : Int) < y.since) && decide (y.wave.mode = 0)).head? with
      | some y => (y.since + o).toNat
      | none => now
    else now + x.cur.phaseLeft old
  let next := x.cur.boundaryFrom finish
  { x with segs := ⟨next, 0, x.cur⟩ :: (if waits && decide (finish = now) then moved else ⟨finish, 0, .off⟩ :: moved),
           next := next, holding := true }

namespace Zone

/-- The channels that follow generator g show its level at their own offsets. -/
def refreshFollowers (s : Zone) (g : Nat) : Zone :=
  s.forEach ((List.range 48).filter fun n => s.followsGen n g) showLoad

/-- Generator g takes its registers as the applied set, from network time `from_` on, with D moved by FADE in PWM; a generator
that was OFF and takes its set at no boundary leaves D for its next one (R280, R284, R287; log entry 60). -/
def applySet (s : Zone) (g from_ : Nat) : Zone :=
  let p := pCHAR g
  let x := s.gen g
  let mode := s.fld p CHAR.GEN_CTRL_MODE
  let period := s.fld p CHAR.PERIOD_PERIOD
  let target := s.fld p CHAR.DUTY_DUTY
  let fade := s.fld p CHAR.DUTY_FADE
  let length := s.fld p CHAR.FLASH_CFG_LENGTH_M1 + 1
  let now := s.fld p CHAR.GEN_STATUS_DUTY_NOW
  let still := decide (x.cur.mode = 0 ∧ fade ≠ 0 ∧ tickNs ≤ s.nowNs % (period * 10))
  let d := if mode ≠ 1 then target else if still then now else fadeStep now target fade
  let w := Wave.make mode period d (s.rd (p + 0x00C)) length (s.fld p CHAR.FLASH_CFG_STEP)
  let s := s.setGen g { x.push s.nowNs ⟨from_, 0, w⟩ with
    cur := w, duty := target, fade := fade, length := length, next := w.nextBoundary s.nowNs, holding := false }
  let s := s.setFld p CHAR.GEN_STATUS_MODE mode
  let s := s.setFld p CHAR.GEN_STATUS_DUTY_NOW d
  let s := s.setFld p CHAR.APPLIED_PERIOD period
  let s := s.setFld p CHAR.APPLIED_RES_BITS (dutyBits period)
  let s := s.setFld p CHAR.GEN_STATUS_STAGED 0
  (s.event p CHAR.GEN_EVENT_APPLIED).refreshFollowers g

/-- At a boundary without a staged set, a PWM generator moves D and otherwise keeps its waveform (R280). -/
def fadeOnly (s : Zone) (g from_ : Nat) : Zone :=
  let p := pCHAR g
  let x := s.gen g
  let d := if x.cur.mode = 1 then fadeStep (s.fld p CHAR.GEN_STATUS_DUTY_NOW) x.duty x.fade
           else s.fld p CHAR.GEN_STATUS_DUTY_NOW
  let w := if x.cur.mode = 1 then
      { x.cur with onNs := onTime d (dutyBits (s.fld p CHAR.APPLIED_PERIOD)) x.cur.periodNs } else x.cur
  let x' := if w = x.cur then x else x.push s.nowNs ⟨from_, 0, w⟩
  let s := s.setGen g { x' with cur := w, next := w.nextBoundary s.nowNs, holding := false }
  (s.setFld p CHAR.GEN_STATUS_DUTY_NOW d).refreshFollowers g

/-- While the applied MODE is OFF and the tick runs, a staged set that HOLD does not hold is applied at once (R284, R285). -/
def applyIfOff (s : Zone) (g : Nat) : Zone :=
  if (s.gen g).cur.mode = 0 ∧ s.flag (pCHAR g) CHAR.GEN_STATUS_STAGED ∧ s.flag (pCHAR g) CHAR.STAGE_HOLD = false
    ∧ s.flag (pCHAR g) CHAR.GEN_STATUS_STOPPED = false
  then s.applySet g s.nowNs else s

/-- A write of a staged word, 0 GEN_CTRL to 4 FLASH_CFG (R284, R286). -/
def stagedWrite (s : Zone) (g word : Nat) (v : Word) : Zone :=
  let p := pCHAR g
  let mask : Word := match word with
    | 0 => 0x3 | 1 => 0x1FFFFF | 4 => 0x1F0FFF | _ => 0xFFFFFFFF
  let period := CHAR.PERIOD_PERIOD.get v
  let bad := match word with
    | 0 => decide (CHAR.GEN_CTRL_MODE.get v = 3)
    | 1 => decide (period < 4000 ∨ 2000000 < period)
    | 4 => decide (CHAR.FLASH_CFG_STEP.get v = 0)
    | _ => false
  if bad then s.count p CHAR.COUNTS_BAD_WRITE
  else ((s.wr (p + 4 * word) (v &&& mask)).setFld p CHAR.GEN_STATUS_STAGED 1).applyIfOff g

/-- A write of STAGE.HOLD (R285). -/
def holdWrite (s : Zone) (g : Nat) (hold : Bool) : Zone := (s.setFlag (pCHAR g) CHAR.STAGE_HOLD hold).applyIfOff g

/-- A step of network time from `old` to the time the counter shows now (R288). -/
def gensStepped (s : Zone) (old : Nat) : Zone :=
  s.forEach (List.range 16) fun s g =>
    let x := s.gen g
    if x.cur.mode = 0 then s.setGen g (x.relabel ((s.nowNs : Int) - old))
    else
      let s := s.setGen g (x.stepped old s.nowNs)
      ((s.count (pCHAR g) CHAR.COUNTS_RESYNC).event (pCHAR g) CHAR.GEN_EVENT_RESYNC).refreshFollowers g

/-- A change of generator, offset or mode that waits for a boundary counts from the stepped time on (R283, R288). -/
def followsStepped (s : Zone) : Zone :=
  { s with loads := s.loads.map fun e => (e.1, { e.2 with followSince := e.2.followSince.map fun _ => s.nowNs }) }

/-- Every generator goes to OFF: at the sleep commit point, on entry to TEST and in an orderly reset (R276, R456, R617). -/
def gensOff (s : Zone) : Zone :=
  s.forEach (List.range 16) fun s g =>
    ((s.setGen g GenSt.init).setFld (pCHAR g) CHAR.GEN_STATUS_MODE 0).refreshFollowers g

/-- The time-base clock has stopped (R289). -/
def gensStopped (s : Zone) : Zone :=
  s.forEach (List.range 16) fun s g =>
    let s := (s.setFld (pCHAR g) CHAR.GEN_STATUS_STOPPED 1).event (pCHAR g) CHAR.GEN_EVENT_STOPPED
    (s.count (pCHAR g) CHAR.COUNTS_STOPS).refreshFollowers g

/-- The time-base clock runs again: as after a step, with no phase in progress, since the output was held off (R289). -/
def gensRestarted (s : Zone) : Zone :=
  s.forEach (List.range 16) fun s g =>
    let x := s.gen g
    let s := s.setFld (pCHAR g) CHAR.GEN_STATUS_STOPPED 0
    if x.cur.mode = 0 then s.applyIfOff g
    else
      let next := x.cur.boundaryFrom s.nowNs
      let s := s.setGen g { (x.push s.nowNs ⟨s.nowNs, 0, .off⟩).push s.nowNs ⟨next, 0, x.cur⟩ with next := next, holding := true }
      ((s.count (pCHAR g) CHAR.COUNTS_RESYNC).event (pCHAR g) CHAR.GEN_EVENT_RESYNC).refreshFollowers g

/-- The flash phase that GEN_STATUS.PHASE_IDX shows: that of the applied waveform at the present network time, also while the
generator finishes a phase or holds its output off after a step, where the spec names none (R281, R288; log entry 91). -/
def genPhaseIdx (s : Zone) (g : Nat) : Nat := (s.gen g).cur.phaseIdx s.nowNs

/-- GEN_STATUS as it is read: LEVEL, PHASE_IDX and FOLLOWERS are those of the moment (R276, R281, R282). -/
def genStatus (s : Zone) (g : Nat) : Word :=
  let w := CHAR.GEN_STATUS_LEVEL.put (s.rd (pCHAR g + CHAR.GEN_STATUS_LEVEL.off)) (b2n (s.genOn g 0))
  CHAR.GEN_STATUS_FOLLOWERS.put (CHAR.GEN_STATUS_PHASE_IDX.put w (s.genPhaseIdx g)) (s.followers g)

end Zone

/-! ### Commands -/

/-- A boundary of the applied waveform, once network time has reached it (R284). -/
def execGeneratorBoundary (gen : Fin 16) (st : State) : Result := st.runOn fun s =>
  let g := gen.val
  let x := s.gen g
  let p := pCHAR g
  if x.cur.mode = 0 ∨ s.flag p CHAR.GEN_STATUS_STOPPED ∨ s.nowNs < x.next then s
  else
    let b := s.nowNs / x.cur.periodNs * x.cur.periodNs
    if s.flag p CHAR.GEN_STATUS_STAGED ∧ s.flag p CHAR.STAGE_HOLD = false then (s.applySet g b)
    else (s.fadeOnly g b)

/-- An accepted write of a staged word. -/
def execCharStagedWrite (gen : Fin 16) (word : Fin 5) (value : Word) (st : State) : Result := st.runOn fun s =>
  (s.stagedWrite gen.val word.val value)

/-- An accepted write of STAGE. -/
def execStageHoldWrite (gen : Fin 16) (hold : Bool) (st : State) : Result := st.runOn fun s => (s.holdWrite gen.val hold)

/-- The tick places an edge of generator g or of its followers: they take the level of R282 at the present network time. -/
def execGeneratorEdge (gen : Fin 16) (st : State) : Result := st.runOn fun s => s.refreshFollowers gen.val

end Sys2Proof.Machine
end

