-- ==== Sys2Proof/Machine/Supply.lean ====
section
/-! DEFINITION. Supply bands, cranking hold, grounds and overloads (R61, R64 to R70), inputs (R83 to R88) and temperatures
(R95 to R97). -/

namespace Sys2Proof.Machine

open Reg

namespace Zone

def input (s : Zone) (k : Nat) : InputSt := SMap.get (fun _ => InputSt.init) s.inputs k
def setInput (s : Zone) (k : Nat) (x : InputSt) : Zone := { s with inputs := SMap.set (fun _ => InputSt.init) s.inputs k x }

/-- Whether keeper k holds the watch. -/
def holdsWatch (s : Zone) (k : Keeper) : Bool := s.fld (pKEEPER k) KEEPER.KSTATUS_ROLE == 3

/-- The keeper that holds the watch. -/
def holder (s : Zone) : Option Keeper :=
  if s.holdsWatch .A then some .A else if s.holdsWatch .B then some .B else none

/-- Whether a page's lock is set (R15). -/
def locked (s : Zone) (p : Nat) : Bool := (s.rd (p + 0x0FC)).getLsbD 0

/-- A write of a page without a claim-checking stage reaches its RWL and RW fields from secure-world firmware and from the
keeper that holds the watch (R87, R115). -/
def mayConfigure (s : Zone) (w : Writer) : Bool :=
  match w with
  | .firmware src => decide (src.world = .secure)
  | .keeper k => s.holdsWatch k

/-- A write of secure-world firmware. -/
def secureWriter : Writer → Bool
  | .firmware src => decide (src.world = .secure)
  | .keeper _ => false

/-- Report the supply source with SUPPLY_EVENT after the event (R640). -/
def reportSupply (s : Zone) : Zone := s.report Src.supply (s.rd (pZONE 3 + 0x00C))

/-- The BAND field and the event fields of a feed: surge, surge end, long surge, reverse, lost. -/
def bandFld : Feed → Fld
  | .A => ZONE3.SUPPLY_STATUS_BAND_A
  | .B => ZONE3.SUPPLY_STATUS_BAND_B

/-- The feed f as it is. -/
def feed (s : Zone) : Feed → FeedSt
  | .A => s.supply.feedA
  | .B => s.supply.feedB

def setFeed (s : Zone) (f : Feed) (x : FeedSt) : Zone :=
  match f with
  | .A => { s with supply := { s.supply with feedA := x } }
  | .B => { s with supply := { s.supply with feedB := x } }

/-- A clock or the supply leaves its window or returns into it (R650). -/
def windowMark (s : Zone) : Zone := { s with start := { s.start with windowFrom := s.mono } }

/-- A feed crosses a threshold at `volts` into a band (R65): what it is, whatever the monitor shows. -/
def feedCrosses (s : Zone) (f : Feed) (band : Nat) (volts : BitVec 16) : Zone :=
  s.windowMark.setFeed f ⟨band, if band = 1 then some s.mono else none, some volts⟩

/-- A feed takes a band, and its load outputs see it (R65, R262); the balance check notes the change (R310). -/
def setBand (s : Zone) (f : Feed) (code : Nat) : Zone :=
  let s := match f with
    | .A => { s with bal := { s.bal with bandAtA := some s.mono } }
    | .B => { s with bal := { s.bal with bandAtB := some s.mono } }
  (s.setFld (pZONE 3) (bandFld f) code).feedBandAll f

/-- Set the SUPPLY_EVENT bit of a feed. -/
def supplyEvent (s : Zone) (f : Feed) (a b : Fld) : Zone :=
  s.event (pZONE 3) (match f with | .A => a | .B => b)

/-- Whether a feed is in a surge band (R65). -/
def inSurge (s : Zone) (f : Feed) : Bool := s.feedBand f == 1 || s.feedBand f == 2

/-- The module leaves cranking hold: the accumulator stops and keeps its value (R66). -/
def leaveCrank (s : Zone) : Zone :=
  if s.supply.low then
    let s := { s.windowMark with supply := { s.supply with low := false, aboveSince := some s.mono } }
    s.setFld (pZONE 3) ZONE3.SUPPLY_STATUS_CRANK_HOLD 0
  else s

/-- A monitor that runs shows cranking hold and tells of its beginning (R65). -/
def showCrank (s : Zone) : Zone :=
  let s := s.setFld (pZONE 3) ZONE3.SUPPLY_STATUS_CRANK_HOLD 1
  ((s.event (pZONE 3) ZONE3.SUPPLY_EVENT_CRANK).count (pZONE 3) ZONE3.CRANK_COUNT).reportSupply

/-- A monitor that runs judges feed f: it shows the voltage, and where the feed is in another band than BAND_x shows it shows that band
with its event, counter and report (R65, R68, R98). -/
def judgeFeed (s : Zone) (f : Feed) : Zone :=
  let s := match (s.feed f).volts with | some v => s.setFeedV f v | none => s
  let new := s.feedBand f
  let old := s.band f
  if new = old then s
  else
    let s := s.when (decide ((old = 1 ∨ old = 2) ∧ new ≠ 1 ∧ new ≠ 2)) fun s =>
      s.supplyEvent f ZONE3.SUPPLY_EVENT_SURGE_END_A ZONE3.SUPPLY_EVENT_SURGE_END_B
    match new with
    | 1 =>
      let s := s.supplyEvent f ZONE3.SUPPLY_EVENT_SURGE_A ZONE3.SUPPLY_EVENT_SURGE_B
      ((s.count (pZONE 3) (match f with | .A => ZONE3.SURGE_COUNT_A | .B => ZONE3.SURGE_COUNT_B)).setBand f 1).reportSupply
    | 2 => ((s.supplyEvent f ZONE3.SUPPLY_EVENT_SURGE_LONG_A ZONE3.SUPPLY_EVENT_SURGE_LONG_B).setBand f 2).reportSupply
    | 3 => ((s.supplyEvent f ZONE3.SUPPLY_EVENT_REVERSE_A ZONE3.SUPPLY_EVENT_REVERSE_B).setBand f 3).reportSupply
    | 4 => ((s.supplyEvent f ZONE3.SUPPLY_EVENT_FEED_A_LOST ZONE3.SUPPLY_EVENT_FEED_B_LOST).setBand f 4).reportSupply
    | _ => s.setBand f 0

/-- A feed crosses a threshold; a monitor that runs judges it, and the others tell nothing (R65, R69). -/
def feedEvent (s : Zone) (f : Feed) (band : Nat) (volts : BitVec 16) : Zone :=
  let s := s.feedCrosses f band volts
  if s.logicRuns then s.judgeFeed f else s

/-- The monitor starts in START: it judges the feeds and the electronics supply as they are, and its first samples show them (R98, R266;
log entry 92). Outputs that the power stage has turned on by itself show it. -/
def judgeSupply (s : Zone) : Zone :=
  let s := (s.judgeFeed .A).judgeFeed .B
  let s := s.when (s.supply.low && !s.flag (pZONE 3) ZONE3.SUPPLY_STATUS_CRANK_HOLD) showCrank
  (s.feedBandAll .A).feedBandAll .B

/-- Whether the converters of the inputs run: from the end of phase 2 of a start (R83). In LIGHTSHIP they run also where the start that led
there failed before its phase 2 had ended: R83 gives no later moment for it (log entry 91). -/
def convertersRun (s : Zone) : Bool :=
  s.inMode [.service, .lightship, .test] ||
    (s.inMode [.start] && decide (3 ≤ s.fld (pZONE 6) ZONE6.START_STATUS_PHASE))

/-- STATE.ACTIVE follows MODE and LEVEL (R84), from the first sample on (R89). -/
def showActive (s : Zone) (k : Nat) : Zone :=
  let lvl := s.flag (pINPUT k) INPUT.STATE_LEVEL
  if (s.input k).samples.isEmpty then s else s.setFlag (pINPUT k) INPUT.STATE_ACTIVE (if s.fld (pINPUT k) INPUT.IN_CFG_MODE = 1 then !lvl else lvl)

/-- LEVEL takes the candidate (R85). -/
def takeLevel (s : Zone) (k : Nat) : Zone :=
  let c := (s.input k).candidate
  if s.flag (pINPUT k) INPUT.STATE_LEVEL = c then s
  else
    let s := s.setFlag (pINPUT k) INPUT.STATE_LEVEL c
    let s := s.event (pINPUT k) (if c then INPUT.IN_EVENT_RISE else INPUT.IN_EVENT_FALL)
    (s.count (pINPUT k) INPUT.IN_COUNTS_EDGES).showActive k

/-- A refused configuration write of an input (R84, R85). -/
def inReject (s : Zone) (k : Nat) : Zone :=
  (s.event (pINPUT k) INPUT.IN_EVENT_CFG_REJECT).count (pINPUT k) INPUT.IN_COUNTS_CFG_REJECT

/-- Capture has nothing to show (R86). -/
def clearCapture (s : Zone) (k : Nat) : Zone :=
  let s := s.setInput k { s.input k with lastRise := none, lastFall := none }
  ((s.setFld (pINPUT k) INPUT.STATE_CAP_VALID 0).setFld (pINPUT k) INPUT.CAP_PERIOD_TICKS 0).setFld (pINPUT k)
    INPUT.CAP_HIGH_TICKS 0

/-- The write of IN_CFG (R84, R86). -/
def inCfgWrite (s : Zone) (k : Nat) (v : Word) : Zone :=
  if s.locked (pINPUT k) then s
  else if INPUT.IN_CFG_MODE.get v = 3 ∨ 6 ≤ INPUT.IN_CFG_WETTING.get v then s.inReject k
  else
    let s := (s.wr (pINPUT k) (v &&& 0x1307FF00)).showActive k
    if INPUT.IN_CFG_CAPTURE_EN.get v = 0 then s.clearCapture k else s

/-- The write of IN_THRESH (R85). -/
def inThreshWrite (s : Zone) (k : Nat) (v : Word) : Zone :=
  let rise := INPUT.IN_THRESH_RISE.get v
  let fall := INPUT.IN_THRESH_FALL.get v
  if s.locked (pINPUT k) then s
  else if rise < fall ∨ rise < 100 ∨ 4000 < rise ∨ fall < 100 ∨ 4000 < fall then s.inReject k
  else s.wr (pINPUT k + 4) (v &&& 0x1FFF1FFF)

/-- The range of the application cluster's clock in MHz, none while it is stopped: the profile's, with at most 400 in cranking hold and at
most 800 while throttled (R55, R65, R96). -/
def appClock (s : Zone) : Option (Nat × Nat) :=
  let lim := if s.flag (pZONE 3) ZONE3.SUPPLY_STATUS_CRANK_HOLD then 400
    else if s.flag (pZONE 4) ZONE4.THERM_STATUS_THROTTLED then 800 else s.figures.appHigh
  if s.flag (pZONE 4) ZONE4.THERM_STATUS_HALTED then none else some (min s.figures.appLow lim, min s.figures.appHigh lim)

end Zone

/-! ### Thresholds (R64)

The rows of the electronics supply are its crossings themselves and carry no voltage; those of the feeds carry the voltage at the
stud, which is held against the switching point. -/

/-- The guaranteed windows of the thresholds in 4 mV units: least and greatest switching point. -/
inductive Threshold where
  | start
  | crankEntry
  | crankExit
  | reset
  | surgeEntry
  | surgeExit
  | feedLost
  | reverse
deriving DecidableEq, Repr

def Threshold.window : Threshold → Int × Nat
  | .start => (1450, 50)
  | .crankEntry => (1450, 50)
  | .crankExit => (1550, 50)
  | .reset => (1075, 50)
  | .surgeEntry => (14500, 250)
  | .surgeExit => (13875, 125)
  | .feedLost => (700, 100)
  | .reverse => (-325, 150)

def Threshold.index : Threshold → Nat
  | .start => 0 | .crankEntry => 1 | .crankExit => 2 | .reset => 3
  | .surgeEntry => 4 | .surgeExit => 5 | .feedLost => 6 | .reverse => 7

/-- The switching point of a threshold in 4 mV units: where in its window it lies the implementation fixes. -/
def Threshold.point (t : Threshold) : Int := t.window.1 + (Config.supplyPoint t.index % (t.window.2 + 1) : Nat)

/-- Whether a voltage lies above or below a threshold. -/
def Threshold.above (t : Threshold) (v : BitVec 16) : Bool := decide (t.point < v.toInt)
def Threshold.below (t : Threshold) (v : BitVec 16) : Bool := decide (v.toInt < t.point)

/-! ### Supply commands -/

/-- The electronics supply falls below cranking hold entry (R65, R66). While a feed is in surge the electronics supply lies above 58 V
and the module is in no cranking hold (R72). -/
def execCrankHoldEntry (st : State) : Result := st.run fun s =>
  if s.supply.low || s.inSurge .A || s.inSurge .B then s
  else
    let s := { s.windowMark with supply := { s.supply with low := true, aboveSince := none } }
    if s.logicRuns then s.showCrank else s

/-- The electronics supply rises above cranking hold exit (R66). -/
def execCrankHoldExit (st : State) : Result := st.run Zone.leaveCrank

/-- After 10 ms above cranking hold exit (R66). -/
def execCrankAccClear (st : State) : Result := st.run fun s =>
  match s.supply.aboveSince with
  | some t =>
    if s.past t (10 * Zone.ticksPerMs) then
      let s := s.setFld (pZONE 3) ZONE3.CRANK_ACC 0
      { s with supply := { s.supply with crankTicks := 0, aboveSince := none } }
    else s
  | none => s

/-- A feed rises above surge entry; the electronics then draw from it, and a cranking hold ends (R65, R72). -/
def execSurgeEntry (feed : Feed) (volts : BitVec 16) (st : State) : Result := st.run fun s =>
  if s.inSurge feed || !Threshold.surgeEntry.above volts then s else (s.feedEvent feed 1 volts).leaveCrank

/-- After more than 400 ms in surge (R65). -/
def execSurgeLong (feed : Feed) (st : State) : Result := st.run fun s =>
  match (s.feed feed).surgeAt with
  | some t =>
    if s.feedBand feed = 1 ∧ s.past t (400 * Zone.ticksPerMs + 1) then
      let s := s.setFeed feed { s.feed feed with band := 2 }
      if s.logicRuns then s.judgeFeed feed else s
    else s
  | none => s

/-- A feed falls below surge exit (R68). -/
def execSurgeExit (feed : Feed) (volts : BitVec 16) (st : State) : Result := st.run fun s =>
  if s.inSurge feed && Threshold.surgeExit.below volts then s.feedEvent feed 0 volts else s

/-- A feed comes to lie below feed lost and above reverse (R65). -/
def execFeedLost (feed : Feed) (volts : BitVec 16) (st : State) : Result := st.run fun s =>
  if s.feedBand feed == 4 || !Threshold.feedLost.below volts || Threshold.reverse.below volts then s
  else s.feedEvent feed 4 volts

/-- A feed falls below reverse (R65). -/
def execReverseEntry (feed : Feed) (volts : BitVec 16) (st : State) : Result := st.run fun s =>
  if s.feedBand feed == 3 || !Threshold.reverse.below volts then s else s.feedEvent feed 3 volts

/-- A lost or reversed feed returns to NORMAL (R265). -/
def execFeedReturn (feed : Feed) (volts : BitVec 16) (st : State) : Result := st.run fun s =>
  if (s.feedBand feed = 3 ∨ s.feedBand feed = 4) ∧ Threshold.feedLost.below volts = false then s.feedEvent feed 0 volts else s

/-- A ground path that has carried below 2 % of more than 10 A for 10 ms is lost (R70). -/
def execGndLost (feed : GndReading) (st : State) : Result := st.runOn fun s =>
  let f := match feed.feed with | .A => ZONE3.SUPPLY_STATUS_GND_A_LOST | .B => ZONE3.SUPPLY_STATUS_GND_B_LOST
  if s.flag (pZONE 3) f ∨ feed.total ≤ 10000 ∨ feed.total ≤ feed.path * 50 then s
  else
    let s := s.setFld (pZONE 3) f 1
    ((s.supplyEvent feed.feed ZONE3.SUPPLY_EVENT_GND_A_LOST ZONE3.SUPPLY_EVENT_GND_B_LOST).reportSupply)

/-- A ground path that has carried above 20 % of more than 10 A for 10 ms is back (R70). -/
def execGndRestored (feed : GndReading) (st : State) : Result := st.runOn fun s =>
  if feed.total ≤ 10000 ∨ feed.path * 5 ≤ feed.total then s
  else s.setFld (pZONE 3) (match feed.feed with | .A => ZONE3.SUPPLY_STATUS_GND_A_LOST | .B => ZONE3.SUPPLY_STATUS_GND_B_LOST) 0

/-- The 1 s averages of the feeds, in 10 mA units (R61). -/
def execFeedOverload (avgA avgB : BitVec 16) (st : State) : Result := st.runOn fun s =>
  let s := (s.setFld pSHUNT SHUNT.FEED_AVG_A avgA.toNat).setFld pSHUNT SHUNT.FEED_AVG_B avgB.toNat
  let s := s.when (decide (8000 < avgA.toNat)) (·.event (pZONE 3) ZONE3.SUPPLY_EVENT_FEED_OVER_A)
  let s := s.when (decide (8000 < avgB.toNat)) (·.event (pZONE 3) ZONE3.SUPPLY_EVENT_FEED_OVER_B)
  (s.when (decide (15000 < avgA.toNat + avgB.toNat)) (·.event (pZONE 3) ZONE3.SUPPLY_EVENT_TOTAL_OVER))

/-! ### Input commands -/

/-- A sample of input k (R83, R85). VOLT shows the mean of the last ten samples, of those there are before the tenth, without its fraction
of a mV: R83 states neither (log entry 91). -/
def execInputSample (input : Fin 32) (millivolts : Nat) (st : State) : Result := st.run fun s =>
  let k := input.val
  if !s.convertersRun then s
  else s.paced (Pace.input k) 2500 fun s =>
    let x := s.input k
    let l := (millivolts :: x.samples).take 10
    let c := if s.fld (pINPUT k) INPUT.IN_THRESH_RISE * 10 < millivolts then true
      else if millivolts < s.fld (pINPUT k) INPUT.IN_THRESH_FALL * 10 then false else x.candidate
    let s := s.setInput k { x with samples := l, candidate := c, since := if c = x.candidate then x.since else s.mono }
    let s := s.setFld (pINPUT k) INPUT.VOLT_MV (satU 16 (l.sum / l.length))
    let s := s.showActive k
    (if s.fld (pINPUT k) INPUT.IN_CFG_FILTER = 0 then s.takeLevel k else s)

/-- Once the candidate has held for FILTER × 100 µs (R85). -/
def execInputLevelChange (input : Fin 32) (st : State) : Result := st.run fun s =>
  let k := input.val
  if s.convertersRun && s.past (s.input k).since (s.fld (pINPUT k) INPUT.IN_CFG_FILTER * 100 * Zone.ticksPerUs)
  then (s.takeLevel k) else s

def execCaptureRise (input : Fin 32) (st : State) : Result := st.run fun s =>
  let k := input.val
  let x := s.input k
  if s.flag (pINPUT k) INPUT.IN_CFG_CAPTURE_EN = false || !s.convertersRun then s
  else
    let s' := s.setInput k { x with lastRise := some s.mono, lastFall := none }
    match x.lastRise, x.lastFall with
    | some r, some f =>
      let s := s'.setFld (pINPUT k) INPUT.CAP_PERIOD_TICKS (s.mono - r)
      let s := s.setFld (pINPUT k) INPUT.CAP_HIGH_TICKS (f - r)
      let s := s.setFld (pINPUT k) INPUT.STATE_CAP_VALID 1
      (s.setFld (pINPUT k) INPUT.STATE_CAP_SEQ (s.fld (pINPUT k) INPUT.STATE_CAP_SEQ + 1))
    | _, _ => s'

def execCaptureFall (input : Fin 32) (st : State) : Result := st.run fun s =>
  let k := input.val
  let x := s.input k
  if s.flag (pINPUT k) INPUT.IN_CFG_CAPTURE_EN && x.lastRise.isSome && s.convertersRun then (s.setInput k { x with lastFall := some s.mono })
  else s

/-- 10 s without a rising crossing (R86). -/
def execCaptureTimeout (input : Fin 32) (st : State) : Result := st.run fun s =>
  match (s.input input.val).lastRise with
  | some t => if s.convertersRun && s.past t (10000 * Zone.ticksPerMs) then (s.clearCapture input.val) else s
  | none => s

def execInCfgWrite (writer : Writer) (input : Fin 32) (value : Word) (st : State) : Result := st.runBy writer fun s =>
  (if s.mayConfigure writer then s.inCfgWrite input.val value else s)

def execInThreshWrite (writer : Writer) (input : Fin 32) (value : Word) (st : State) : Result := st.runBy writer fun s =>
  (if s.mayConfigure writer then s.inThreshWrite input.val value else s)

/-! ### Temperatures -/

/-- The five sensors, in 1/16 °C (R95, R96). A sample that comes in START shows at once: R99 gives the latest moment of the first one, and
none before which none may come (log entry 91). -/
def execThermalSample (base soc switchDie powerA powerB : BitVec 16) (st : State) : Result := st.runOn fun s => s.paced Pace.thermal 25000 fun s =>
  let z := pZONE 4
  let s := s.setFld z ZONE4.T_BASE_TEMP base.toNat
  let s := s.setFld z ZONE4.T_SOC_TEMP soc.toNat
  let s := s.setFld z ZONE4.T_SWITCH_TEMP switchDie.toNat
  let s := s.setFld z ZONE4.T_POWER_A_TEMP powerA.toNat
  let s := s.setFld z ZONE4.T_POWER_B_TEMP powerB.toNat
  let t := soc.toInt
  let halted := s.flag z ZONE4.THERM_STATUS_HALTED
  let s := s.when (decide (s.fldS z ZONE4.THERM_CFG_WARN ≤ t)) (·.event z ZONE4.THERM_EVENT_WARN)
  let s := s.when (decide (125 * 16 ≤ t)) fun s =>
    (s.event z ZONE4.THERM_EVENT_THROTTLE).setFld z ZONE4.THERM_STATUS_THROTTLED 1
  let s := s.when (decide (135 * 16 ≤ t)) fun s =>
    ((s.event z ZONE4.THERM_EVENT_HALT).setFld z ZONE4.THERM_STATUS_HALTED 1).when (!halted)
      (·.report Src.thermalHalt 0)
  (s.when (decide (t < 115 * 16)) fun s =>
    (s.setFld z ZONE4.THERM_STATUS_THROTTLED 0).setFld z ZONE4.THERM_STATUS_HALTED 0)

end Sys2Proof.Machine
end

