-- ==== Sys2Proof/Machine/Cal.lean ====
section
/-! DEFINITION. Balance calibration (R293 to R319): the estimator of each load output, the balance check of each feed, the
ring's delay asymmetry. -/

namespace Sys2Proof.Machine

open Reg

/-- Minimum step, offset bound per update, total offset bound and small offset change of a class, in 100 µA (R301). -/
def LoadClass.calBounds : LoadClass → Nat × Nat × Nat × Nat
  | .h20 => (5000, 250, 1000, 62)
  | .h8 => (2000, 100, 400, 25)
  | .h3 => (100, 20, 80, 5)
  | .leg => (5000, 200, 800, 50)

/-- The accuracy of a class's current sense, converged (R306) or as trimmed at the factory (R238): thousandths of the
reading, and an offset in 100 µA. -/
def LoadClass.accuracy (c : LoadClass) (converged : Bool) : Nat × Nat :=
  match c, converged with
  | .h20, true => (5, 250) | .h8, true => (5, 100) | .h3, true => (3, 2) | .leg, true => (5, 200)
  | .h20, false => (20, 1000) | .h8, false => (20, 400) | .h3, false => (20, 80) | .leg, false => (20, 800)

/-- The channels that a feed serves (R308). -/
def feedChannels (f : Feed) : List Nat := (List.range 48).filter fun n => decide (loadFeed n = f)

/-- The field of feed A or of feed B. -/
def byFeed (f : Feed) (a b : Fld) : Fld := match f with | .A => a | .B => b

namespace Zone

/-- A value of the calibration record has changed (R307). -/
def calDirty (s : Zone) : Zone := { s with bal := { s.bal with changed := true } }

/-- Discard the current block, and a completed one that waits for its boundary (R304, R307). -/
def discardBlock (s : Zone) (n : Nat) : Zone :=
  (s.setCal n { s.cal n with sxx := 0, sxy := 0, sz := 0, due := none }).setFld (pCAL n) CAL.CAL_STATUS_EDGES 0

/-- The 10 µs boundary that comes next, this moment included. -/
def calBoundary (s : Zone) : Nat := (s.mono + (10 * ticksPerUs - 1)) / (10 * ticksPerUs) * (10 * ticksPerUs)

/-- Gain and offset of channel n change together at the next 10 µs boundary; the mean that runs until then keeps the old values
(R298). -/
def setCalibration (s : Zone) (n g : Nat) (o : Int) : Zone :=
  let b := s.calBoundary
  let old := s.calInForce n b
  ((s.setCal n { s.cal n with held := some (old.1, old.2, b) }).setFld (pCAL n) CAL.GAIN_G g).setFldS (pCAL n) CAL.OFFSET_O o

/-- CONVERGED and its run of small updates clear (R305). -/
def unconverge (s : Zone) (n : Nat) : Zone :=
  (s.setFld (pCAL n) CAL.CAL_STATUS_CONVERGED 0).setFld (pCAL n) CAL.CAL_STATUS_SMALL 0

/-- A freeze (R303). -/
def calFreeze (s : Zone) (n cause : Nat) : Zone :=
  let s := s.setFld (pCAL n) CAL.CAL_STATUS_FROZEN 1
  let s := (s.setFld (pCAL n) CAL.CAL_STATUS_FREEZE_CAUSE cause).unconverge n
  let s := s.event (pCAL n) CAL.CAL_EVENT_CAL_BOUND
  ((s.post (pCAL n) CAL.CAL_EVENT_CAL_BOUND).report Src.calBound (BitVec.ofNat 32 n)).calDirty

/-- An accepted update (R302, R305). -/
def calAccept (s : Zone) (n : Nat) (gEst oEst dg dofs : Int) (small : Nat) : Zone :=
  let s := s.setCalibration n gEst.toNat oEst
  let s := (s.event (pCAL n) CAL.CAL_EVENT_UPDATED).calDirty
  if dg.natAbs ≤ 164 ∧ dofs.natAbs ≤ small then
    let k := min 2 (s.fld (pCAL n) CAL.CAL_STATUS_SMALL + 1)
    let s := s.setFld (pCAL n) CAL.CAL_STATUS_SMALL k
    if k = 2 ∧ s.flag (pCAL n) CAL.CAL_STATUS_CONVERGED = false then
      (s.setFld (pCAL n) CAL.CAL_STATUS_CONVERGED 1).event (pCAL n) CAL.CAL_EVENT_CONVERGED
    else s
  else s.unconverge n

/-- The block update of R302 over the sums of a completed block, at the 10 µs boundary after its last edge. -/
def calBlock (s : Zone) (n sxx : Nat) (sxy sz : Int) : Zone :=
  let b := (loadClass n).calBounds
  let gEst := (sxy * 65536).tdiv sxx
  let oEst := 0 - (gEst * sz).tdiv (256 * 65536)
  let dg := gEst - s.fld (pCAL n) CAL.GAIN_G
  let dofs := oEst - s.fldS (pCAL n) CAL.OFFSET_O
  let s := (s.setFldU (pCAL n) CAL.EST_GAIN_G_EST gEst.toNat).setFldS (pCAL n) CAL.EST_OFFSET_O_EST oEst
  let s := (s.count (pCAL n) CAL.CAL_STATUS_BLOCKS).setCal n { s.cal n with lastBlock := s.mono, due := none }
  if 1310 < dg.natAbs then s.calFreeze n 1
  else if 5242 < (gEst - 65536).natAbs then s.calFreeze n 2
  else if b.2.1 < dofs.natAbs then s.calFreeze n 3
  else if b.2.2.1 < oEst.natAbs then s.calFreeze n 4
  else s.calAccept n gEst oEst dg dofs b.2.2.2

/-- At a 10 µs boundary the completed blocks update their channels; a RESTART within the tick has discarded the block (R302,
R304, log entry 94). -/
def calUpdates (s : Zone) : Zone :=
  if s.mono % (10 * ticksPerUs) ≠ 0 then s
  else s.forEach (List.range 48) fun s n =>
    match (s.cal n).due with
    | some (sxx, sxy, sz) => s.calBlock n sxx sxy sz
    | none => s

/-- A clean edge (R302); z is the reading of the off side. The 256th completes the block. -/
def calClean (s : Zone) (n : Nat) (x y z : Int) : Zone :=
  let c := s.cal n
  let sxx := c.sxx + x.natAbs * x.natAbs
  let k := s.fld (pCAL n) CAL.CAL_STATUS_EDGES + 1
  if k = 256 then
    let s := s.discardBlock n
    s.setCal n { s.cal n with due := some (sxx, c.sxy + x * y, c.sz + z) }
  else (s.setCal n { c with sxx := sxx, sxy := c.sxy + x * y, sz := c.sz + z }).setFld (pCAL n) CAL.CAL_STATUS_EDGES k

/-- Whether condition 1 of R300 holds for channel n; `settled` is what only the windows of the edge show: no sample of them was
saturated, and the channel stood in OFF or ON before the edge. -/
def calState (s : Zone) (n : Nat) (settled : Bool) : Bool :=
  settled && !s.flag pSHUNT (byFeed (loadFeed n) SHUNT.SHUNT_STATUS_SAT_A SHUNT.SHUNT_STATUS_SAT_B) &&
    !(s.load n).lo && s.inMode [.service, .lightship] && s.flag (pCAL n) CAL.CAL_CTRL_ENABLE &&
    !s.flag (pCAL n) CAL.CAL_STATUS_FROZEN && decide (s.band (loadFeed n) = 0) &&
    !s.flag (pZONE 3) ZONE3.SUPPLY_STATUS_CRANK_HOLD && decide (s.lstate n = LS.off ∨ s.lstate n = LS.on)

/-- The time of an edge of channel n, in ticks, rounded up (R239). -/
def edgeTicks (s : Zone) (n : Nat) : Nat :=
  let slew := s.fld (pLOAD n) LOAD.CH_CFG_SLEW
  match loadClass n with
  | .h20 => [250, 500, 1250, 2500].getD slew 0
  | .h8 => [125, 250, 625, 1250].getD slew 0
  | .h3 => [63, 125, 250, 625].getD slew 0
  | .leg => [25, 50, 125, 250].getD slew 0

/-- Whether what the state shows satisfies condition 2 of R300 for the latest edge of channel n whose post window has passed: from 4 µs
before the edge to 4 µs after it no switch of another channel of the feed starts or ends an edge, no fast trip of the feed fires, and
the feed has no sag. -/
def calAlone (s : Zone) (n : Nat) : Bool :=
  let len := s.edgeTicks n
  match (s.load n).edges.find? fun e => e.2 && decide (e.1 + len + 600 ≤ s.mono) with
  | none => true
  | some (t, _) =>
    let inSpan (x : Nat) : Bool := decide (t ≤ x + 4 * ticksPerUs ∧ x ≤ t + len + 4 * ticksPerUs)
    let f := loadFeed n
    !((feedChannels f).any fun c => (s.load c).firedAt.any inSpan ||
        (decide (c ≠ n) && (s.load c).edges.any fun e => inSpan e.1 || inSpan (e.1 + s.edgeTicks c))) &&
      !((s.sags f).any fun x => inSpan x.at_)

/-- RESTART (R304). -/
def calRestart (s : Zone) (n : Nat) : Zone :=
  let s := s.setCalibration n 65536 0
  let s := (s.setFld (pCAL n) CAL.CAL_STATUS_FROZEN 0).setFld (pCAL n) CAL.CAL_STATUS_FREEZE_CAUSE 0
  ((s.discardBlock n).unconverge n).calDirty

/-- Write the calibration record (R307). -/
def calSave (s : Zone) : Zone :=
  let entry (n : Nat) : CalRec :=
    ⟨s.fld (pCAL n) CAL.GAIN_G, s.fld (pCAL n) CAL.OFFSET_O, s.flag (pCAL n) CAL.CAL_STATUS_FROZEN,
      s.fld (pCAL n) CAL.CAL_STATUS_FREEZE_CAUSE⟩
  { s with bal := { s.bal with
      record := (List.range 48).foldl (fun m n => SMap.set (fun _ => CalRec.factory) m n (entry n)) []
      changed := false
      written := s.mono } }

/-- On entry to START: discard the blocks and restore the record, or take the factory values where it fails its check
(R307); what the managed flash returns is the implementation's. -/
def calStart (s : Zone) : Zone :=
  let recordGood := Config.recordIntact s.mono
  let s := s.setFlag pSHUNT SHUNT.SHUNT_STATUS_RECORD_LOST (!recordGood)
  let s := s.forEach (List.range 48) fun s n =>
    let e := if recordGood then SMap.get (fun _ => CalRec.factory) s.bal.record n else CalRec.factory
    let s := ((s.setCal n CalSt.init).discardBlock n).unconverge n
    let s := (s.setFld (pCAL n) CAL.GAIN_G e.gain).setFld (pCAL n) CAL.OFFSET_O e.offset
    (s.setFlag (pCAL n) CAL.CAL_STATUS_FROZEN e.frozen).setFld (pCAL n) CAL.CAL_STATUS_FREEZE_CAUSE e.cause
  { s with bal := { s.bal with changed := !recordGood, written := s.mono, runA := 0, runB := 0, calmA := none,
                               calmB := none } }

/-! ### Balance check -/

def balRun (s : Zone) : Feed → Nat | .A => s.bal.runA | .B => s.bal.runB
def balCalm (s : Zone) : Feed → Option Nat | .A => s.bal.calmA | .B => s.bal.calmB
def bandAt (s : Zone) : Feed → Option Nat | .A => s.bal.bandAtA | .B => s.bal.bandAtB

def setBal (s : Zone) (f : Feed) (run : Nat) (calm : Option Nat) : Zone :=
  match f with
  | .A => { s with bal := { s.bal with runA := run, calmA := calm } }
  | .B => { s with bal := { s.bal with runB := run, calmB := calm } }

/-- Whether the check of a feed is suspended (R310). -/
def balSuspended (s : Zone) (f : Feed) : Bool :=
  !s.inMode [.service, .lightship] || decide (s.band f ≠ 0) ||
    (match s.bandAt f with | some t => !s.past t (10 * ticksPerMs) | none => false) ||
    s.flag (pZONE 3) ZONE3.SUPPLY_STATUS_CRANK_HOLD ||
    s.flag pSHUNT (byFeed f SHUNT.SHUNT_STATUS_SAT_A SHUNT.SHUNT_STATUS_SAT_B)

/-- The share of channel c: its calibrated current; of a leg its calibrated current summed over the samples in which its high side was
closed, over all samples of the mean (R308). -/
def balShare (s : Zone) (legs : List LegShare) (c : Nat) : Int :=
  if c < 40 then s.fldS (pLOAD c) LOAD.CUR_CURRENT
  else
    let x := nthD legs (c - 40) ⟨0, 0⟩
    let g := s.calInForce c s.mono
    if x.closed = 0 then 0 else (x.raw * (g.1 : Int)).tdiv 65536 + (g.2 * (min 50 x.closed : Nat)).tdiv 50

/-- The uncertainty of a feed's residual, in thousandths of 100 µA (R311). -/
def balUncertainty (s : Zone) (f : Feed) (shunt elec : Int) : Nat :=
  (feedChannels f).foldl (fun u c =>
    let a := (loadClass c).accuracy (s.flag (pCAL c) CAL.CAL_STATUS_CONVERGED)
    u + (s.fldS (pLOAD c) LOAD.CUR_CURRENT).natAbs * a.1 + a.2 * 1000)
    (shunt.natAbs + 300000 + elec.natAbs * 10 + 500000)

/-- BALANCE_FAULT of a feed (R309). -/
def balFault (s : Zone) (f : Feed) : Zone :=
  let s := s.setFld pBAL (byFeed f BAL.BAL_STATUS_FAULT_A BAL.BAL_STATUS_FAULT_B) 1
  let e := byFeed f BAL.BAL_EVENT_FAULT_A BAL.BAL_EVENT_FAULT_B
  let s := (s.event pBAL e).count pBAL (byFeed f BAL.BAL_COUNTS_A BAL.BAL_COUNTS_B)
  (s.post pBAL e).report Src.balanceFault (BitVec.ofNat 32 f.idx)

/-- One evaluation of a feed's residual r, in 100 µA (R308 to R310). A saturated mean is not used: it does not count as one at or below
1.0 A (R295). -/
def balJudge (s : Zone) (f : Feed) (r : Int) : Zone :=
  let susp := s.balSuspended f
  let s := s.setFlag pBAL (byFeed f BAL.BAL_STATUS_SUSP_A BAL.BAL_STATUS_SUSP_B) susp
  let pk := byFeed f BAL.PEAK_RESIDUAL_A BAL.PEAK_RESIDUAL_B
  let s := if !susp && decide (s.fld pBAL pk < r.natAbs / 100) then s.setFldU pBAL pk (r.natAbs / 100) else s
  let sat := s.flag pSHUNT (byFeed f SHUNT.SHUNT_STATUS_SAT_A SHUNT.SHUNT_STATUS_SAT_B)
  let calm := if r.natAbs ≤ 10000 ∧ sat = false then some ((s.balCalm f).getD s.mono) else none
  let run := if susp then 0 else if 15000 < r.natAbs then min 1001 (s.balRun f + 1) else 0
  let s := s.setBal f run calm
  let s := if run = 1000 then s.balFault f else s
  match calm with
  | some t =>
    if s.past t (100 * ticksPerMs) then s.setFld pBAL (byFeed f BAL.BAL_STATUS_FAULT_A BAL.BAL_STATUS_FAULT_B) 0 else s
  | none => s

/-- The evaluation of one feed (R295, R308 to R311). -/
def balEval (s : Zone) (f : Feed) (shunt elec : Int) (sat : Bool) (legs : List LegShare) : Zone :=
  let s := s.setFldS pSHUNT (byFeed f SHUNT.FEED_A_CURRENT SHUNT.FEED_B_CURRENT) (shunt.tdiv 10)
  let s := s.setFldU pSHUNT (byFeed f SHUNT.ELEC_A SHUNT.ELEC_B) (elec.toNat / 10)
  let s := s.setFlag pSHUNT (byFeed f SHUNT.SHUNT_STATUS_SAT_A SHUNT.SHUNT_STATUS_SAT_B) sat
  let s := s.when sat (·.count pSHUNT (byFeed f SHUNT.SHUNT_COUNTS_SAT_A SHUNT.SHUNT_COUNTS_SAT_B))
  let r := (feedChannels f).foldl (fun r c => r - s.balShare legs c) (shunt - elec)
  let u := s.balUncertainty f shunt elec
  let s := s.setFldS pBAL (byFeed f BAL.RESIDUAL_A BAL.RESIDUAL_B) (r.tdiv 100)
  let s := s.setFldU pBAL (byFeed f BAL.UNCERTAINTY_A BAL.UNCERTAINTY_B) (u / 100000)
  let s := s.setFlag pBAL (byFeed f BAL.BAL_STATUS_MARGIN_LOW_A BAL.BAL_STATUS_MARGIN_LOW_B) (decide (12000000 < u))
  s.balJudge f r

/-! ### Ring asymmetry -/

/-- Whether the ring estimator runs (R312). -/
def ringRuns (s : Zone) : Bool :=
  s.flag pRING RING.RING_CTRL_ENABLE && decide (3 ≤ s.fld pRING RING.RING_CTRL_LINKS) &&
    decide (s.fld pRING RING.RING_CTRL_LINKS ≤ 64) &&
    decide (s.fld pRING RING.RING_CTRL_WEST ≠ s.fld pRING RING.RING_CTRL_EAST) && !s.flag pTIME TIME0.TIME_STATUS_GM

/-- The corrections in force: the base of each port less and plus the share (R313). -/
def ringApply (s : Zone) : Zone :=
  let sh := s.fldS pRING RING.SHARE_S
  let s := s.setFldS pRING RING.APPLIED_WEST_APPLIED (s.fldS pRING RING.BASE_WEST_BASE - sh)
  s.setFldS pRING RING.APPLIED_EAST_APPLIED (s.fldS pRING RING.BASE_EAST_BASE + sh)

/-- Show whether the estimator runs; while it does not, the corrections follow the bases and the held share (R319). -/
def showRing (s : Zone) : Zone :=
  let s := s.setFlag pRING RING.RING_STATUS_RUNNING s.ringRuns
  if s.ringRuns then s else s.ringApply

/-- A write of RING_CTRL other than RESTART (R312, R315). -/
def ringCtrlWrite (s : Zone) (v : Word) : Zone :=
  let old := s.rd pRING
  let s := s.wr pRING (v &&& 0x007F0133)
  let same := RING.RING_CTRL_LINKS.get v == RING.RING_CTRL_LINKS.get old &&
    RING.RING_CTRL_WEST.get v == RING.RING_CTRL_WEST.get old && RING.RING_CTRL_EAST.get v == RING.RING_CTRL_EAST.get old
  (if same then s else s.setFld pRING RING.SHARE_S 0).showRing

/-- RESTART of the ring estimator (R315). -/
def ringRestart (s : Zone) : Zone :=
  ((s.setFld pRING RING.SHARE_S 0).setFld pRING RING.RING_STATUS_FROZEN 0).showRing

/-- Whether both ring ports are up (R313). -/
def ringPortsUp (s : Zone) : Bool :=
  s.flag (pPORT (s.fld pRING RING.RING_CTRL_WEST)) PORT.PHY_STATUS_LINK &&
    s.flag (pPORT (s.fld pRING RING.RING_CTRL_EAST)) PORT.PHY_STATUS_LINK

/-- The present second makes no update: a ring port went down, or time held over (R313). -/
def breakRing (s : Zone) : Zone := { s with time := { s.time with ringBroken := true } }

/-- The end of a second with enough values of mean `d` (R313, R315). -/
def ringUpdate (s : Zone) (d : Int) : Zone :=
  let n : Int := s.fld pRING RING.RING_CTRL_LINKS
  let step := max (-1024) (min 1024 (d.tdiv (2 * n)))
  let new := s.fldS pRING RING.SHARE_S + step
  let s := s.setFldS pRING RING.DISCREPANCY_D d
  if 64000 < new.natAbs then
    let s := (s.setFld pRING RING.RING_STATUS_FROZEN 1).event pRING RING.RING_EVENT_RING_BOUND
    (s.post pRING RING.RING_EVENT_RING_BOUND).ringApply
  else
    let s := (s.setFldS pRING RING.SHARE_S new).count pRING RING.RING_STATUS_UPDATES
    (s.event pRING RING.RING_EVENT_UPDATED).ringApply

end Zone

/-! ### Commands -/

/-- An edge of channel ch, after its post window (R299, R300, R302): the means of the windows in 100 µA; `settled`: the
channel stood in OFF or ON before it, a leg's low side stayed open, no window was saturated; `alone`: what only the module's own
observation of the span of condition 2 shows, up to 4 µs after the edge; beside both, the state is judged. -/
def execCalEdge (ch : Fin 48) (rawPre rawPost shuntPre shuntPost elecPre elecPost : Int) (settled alone : Bool)
    (st : State) : Result := st.runOn fun s =>
  let n := ch.val
  let x := rawPost - rawPre
  let y := (shuntPost - shuntPre) - (elecPost - elecPre)
  let rising := if 40 ≤ n then decide (rawPre.natAbs < rawPost.natAbs) else decide (rawPre < rawPost)
  if !s.calState n settled then s.count (pCAL n) CAL.CAL_COUNTS_REJ_STATE
  else if !alone || !s.calAlone n then s.count (pCAL n) CAL.CAL_COUNTS_REJ_NEIGHBOUR
  else if x.natAbs < (loadClass n).calBounds.1 then s.count (pCAL n) CAL.CAL_COUNTS_REJ_SMALL
  else if x.natAbs / 4 < (y - x).natAbs then s.count (pCAL n) CAL.CAL_COUNTS_REJ_OUTLIER
  else s.calClean n x y (if rising then rawPre else rawPost)

/-- 900 s without a completed block (R305). -/
def execCalStale (ch : Fin 48) (st : State) : Result := st.runOn fun s =>
  let n := ch.val
  if s.flag (pCAL n) CAL.CAL_STATUS_CONVERGED ∧ s.past (s.cal n).lastBlock (900000 * Zone.ticksPerMs) then
    (s.unconverge n).event (pCAL n) CAL.CAL_EVENT_STALE
  else s

def execCalRestart (writer : Writer) (ch : Fin 48) (st : State) : Result := st.runBy writer fun s =>
  if s.mayConfigure writer then s.calRestart ch.val else s

/-- Every 60 s in which a value has changed (R307). -/
def execCalRecordWrite (st : State) : Result := st.runOn fun s =>
  if s.bal.changed ∧ s.past s.bal.written (60000 * Zone.ticksPerMs) then s.calSave else s

/-- The evaluation of both feeds (R308): shunt and electronics currents in 100 µA, saturation, and what the legs 40 to 47
carried while their high side was closed. -/
def execBalanceEval (shuntA shuntB elecA elecB : Int) (satA satB : Bool) (legs : List LegShare) (st : State) : Result :=
  st.runOn fun s => s.paced Pace.balance 2500 fun s => (s.balEval .A shuntA elecA satA legs).balEval .B shuntB elecB satB legs

/-- The end of a second of network time (R313): the discrepancies taken in it are judged, and the next second begins. -/
def execRingUpdate (st : State) : Result := st.runOn fun s =>
  let t := s.time
  if t.net.sec.toNat ≤ t.ringSecond then s
  else
    let s := { s with time := { t with ringSecond := t.net.sec.toNat, ringSum := 0, ringCount := 0,
                                            ringBroken := !s.ringPortsUp || decide (s.fld pTIME TIME0.TIME_STATUS_STATE = 3) } }
    if s.ringRuns && !s.flag pRING RING.RING_STATUS_FROZEN && !t.ringBroken && !s.time.ringBroken && decide (8 ≤ t.ringCount) then s.ringUpdate (t.ringSum.tdiv t.ringCount)
    else s

def execRingRestart (writer : Writer) (st : State) : Result := st.runBy writer fun s =>
  if s.mayConfigure writer then s.ringRestart else s

end Sys2Proof.Machine
end

