-- ==== Sys2Proof/Machine/Frames.lean ====
section
/-! DEFINITION. Ethernet frames as bytes, from the destination address to the last byte before the FCS (R322, R327, R336,
R359): their addresses, tags and length, and the form in which a copy leaves a port. -/

namespace Sys2Proof.Machine

/-- The number that `n` bytes at offset `o` spell, big-endian; bytes past the end count as missing. -/
def beAt (l : List Byte) (o n : Nat) : Nat := beNat ((l.drop o).take n)

/-- A frame without its addresses and tags: the tag control of its first VLAN tag, the number of its R-TAG, and the rest from
the EtherType on. -/
structure Tags where
  vlan : Option Nat
  rtag : Option Nat
  rest : List Byte
deriving DecidableEq, Repr

namespace Frame

@[reducible] def typeVlan : Nat := 0x8100
@[reducible] def typeRtag : Nat := 0xF1C1
@[reducible] def typeSec : Nat := 0x88E5
@[reducible] def typePtp : Nat := 0x88F7
@[reducible] def typeAvtp : Nat := 0x22F0

def dst (f : List Byte) : Nat := beAt f 0 6
def src (f : List Byte) : Nat := beAt f 6 6

/-- The length of R322: with the FCS. -/
def len (f : List Byte) : Nat := f.length + 4

/-- Split the R-TAG off the bytes after the VLAN tag. -/
def splitRtag (r : List Byte) : Option Nat × List Byte :=
  if beAt r 0 2 = typeRtag then (some (beAt r 4 2), r.drop 6) else (none, r)

/-- The tags of a frame. -/
def tags (f : List Byte) : Tags :=
  let r := f.drop 12
  if beAt r 0 2 = typeVlan then
    let q := splitRtag (r.drop 4)
    ⟨some (beAt r 2 2), q.1, q.2⟩
  else
    let q := splitRtag r
    ⟨none, q.1, q.2⟩

/-- The EtherType after the tags. -/
def etherType (f : List Byte) : Nat := beAt (tags f).rest 0 2

/-- Put a frame together. -/
def build (addrs : List Byte) (t : Tags) : List Byte :=
  addrs.take 12 ++ (match t.vlan with | some c => beBytes 2 typeVlan ++ beBytes 2 c | none => []) ++
    (match t.rtag with | some n => beBytes 2 typeRtag ++ beBytes 2 0 ++ beBytes 2 n | none => []) ++ t.rest

/-- Tag control from PCP, DEI and VID. -/
def tci (pcp : Nat) (dei : Bool) (vid : Nat) : Nat := pcp % 8 * 0x2000 + b2n dei * 0x1000 + vid % 4096

/-- The cells of a frame of L bytes (R324). -/
def cells (l : Nat) : Nat := (l + 63) / 64

end Frame

/-- The cells of a copy (R324). -/
def Copy.cells (c : Copy) : Nat := Frame.cells (Frame.len c.frame)

/-- The form in which a copy leaves a port (R336, R359): `pvid` is the VID that leaves untagged, `markDei` the port's
MARK_DEI, `backbone` whether it is one of ports 0 to 3. A mirror copy leaves unchanged (R357). -/
def Copy.wire (c : Copy) (pvid : Option Nat) (markDei backbone : Bool) : List Byte :=
  if c.mirror then c.frame
  else
    let t := Frame.tags c.frame
    let dei := markDei && decide (1 ≤ c.colour)
    let kept := match t.vlan with
      | some v => if c.tagged then v else Frame.tci c.pcp false c.vid
      | none => Frame.tci c.pcp false c.vid
    let kept := if dei && !kept.testBit 12 then kept + 0x1000 else kept
    let rtag := if backbone then (match c.seq with | some n => some n | none => t.rtag) else none
    Frame.build c.frame ⟨if pvid = some c.vid then none else some kept, rtag, t.rest⟩

end Sys2Proof.Machine
end

