-- ==== Sys2Proof/Machine/Gates.lean ====
section
/-! DEFINITION. The egress side of the switch core as time moves it: its ports (R320, R321), its queues, the port gates (R348 to R350)
and the shapers (R351). -/

namespace Sys2Proof.Machine

open Reg

namespace Zone

def sw (s : Zone) (f : SwitchSt → SwitchSt) : Zone := { s with switch := f s.switch }

/-! ### Ports -/

/-- Whether switch port p is enabled; ports 28 to 31 always are (R371). -/
def swEnabled (s : Zone) (p : Nat) : Bool := decide (28 ≤ p) || s.flag (pSWP p) SWP.PORT_CFG_ENABLE

/-- The enabled switch ports in ascending order (R343). -/
def swActive (s : Zone) : List Nat := numbers 32 s.swEnabled

/-- Whether an external port is up (R321). -/
def portUp (s : Zone) (p : Nat) : Bool :=
  s.swEnabled p && (decide (24 ≤ p) || s.flag (pPORT p) PORT.PHY_STATUS_LINK)

/-- LINK_STATE as the loader acts on it (R356): 0 UP, 1 HOLD, 2 DOWN; ports 28 to 31 never go down. -/
def linkState (s : Zone) (p : Nat) : Nat := if 28 ≤ p then 0 else s.fld (pSWP p) SWP.PORT_STATE_LINK_STATE

/-- The rate of a port in kb/s (R320, R346): the speed in use on ports 0 to 3, the standard's on the other external ports, the
crossbar's on the internal ones. -/
def portRate (s : Zone) (p : Nat) : Nat :=
  if p < 4 then
    match s.fld (pPORT p) PORT.PHY_STATUS_SPEED_NOW with
    | 4 => 2500000 | 5 => 5000000 | _ => 10000000
  else if p < 16 then 1000000 else if p < 24 then 100000 else if p < 28 then 10000 else 50000000

def macsecOn (s : Zone) (p : Nat) : Bool := decide (p < 4) && s.flag (pPORT p) PORT.MACSEC_CFG_EN

def scheduled (s : Zone) (p t : Nat) : Bool := s.flag (pSWP p) (SWP.TC_CFG_SCHEDULED.nth 4 t)
def guar (s : Zone) (p t : Nat) : Nat := s.fld (pSWP p) (SWP.TC_CFG_GUAR.nth 4 t)

/-! ### Virtual output queues (R337) -/

def voqKey (i e t : Nat) : Nat := (e * 8 + t) * 32 + i
def voq (s : Zone) (i e t : Nat) : List Copy := SMap.get (fun _ => []) s.switch.voqs (voqKey i e t)
def setVoq (s : Zone) (i e t : Nat) (l : List Copy) : Zone :=
  s.sw fun w => { w with voqs := SMap.set (fun _ => []) w.voqs (voqKey i e t) l }

def egress (s : Zone) (e : Nat) : Option EgressSt := SMap.get (fun _ => none) s.switch.egr e
def setEgress (s : Zone) (e : Nat) (x : Option EgressSt) : Zone :=
  s.sw fun w => { w with egr := SMap.set (fun _ => none) w.egr e x }

/-- Every copy for egress queue (e, t), with its ingress port. -/
def queueCopies (s : Zone) (e t : Nat) : List (Nat × Copy) :=
  (List.range 32).flatMap fun i => (s.voq i e t).map fun c => (i, c)

/-! ### Gate lists (R348) -/

/-- The parts of one cycle of a gate list: start, end and states of each entry, cut at the cycle; the last entry's states hold
to its end. -/
def gateParts (cycle : Nat) : Nat → List (Nat × Nat) → List (Nat × Nat × Nat)
  | _, [] => []
  | at_, [(st, _)] => if at_ < cycle then [(at_, cycle, st)] else []
  | at_, (st, n) :: r => if at_ < cycle then (at_, min cycle (at_ + n), st) :: gateParts cycle (at_ + n) r else []

/-- The place of network time T in the cycle of a list. -/
def gatePos (cycle offset T : Nat) : Nat := ((T : Int) - offset).emod (if cycle = 0 then 1 else cycle) |>.toNat

/-- The index and states at a place of the cycle. -/
def gateAt (parts : List (Nat × Nat × Nat)) (pos : Nat) : Nat × Nat :=
  let k := parts.findIdx fun x => decide (x.1 ≤ pos ∧ pos < x.2.1)
  (k, (parts.getD k (0, 0, 0)).2.2)

/-- Whether states keep bit t set over [pos, pos + n) of a repeating cycle. -/
def gateOpenOver (parts : List (Nat × Nat × Nat)) (cycle pos n t : Nat) : Bool :=
  parts.all fun x => x.2.2.testBit t ||
    !(decide (cycle ≤ n) || (decide (x.1 < pos + n) && decide (pos < x.2.1)) || decide (x.1 + cycle < pos + n))

/-- The first boundary of a list at or after network time T. -/
def gateBoundary (cycle offset T : Nat) : Nat := if gatePos cycle offset T = 0 then T else T + cycle - gatePos cycle offset T

/-! ### Port gates (R348 to R350) -/

def gate (s : Zone) (p : Nat) : GateSt := SMap.get (fun _ => GateSt.init) s.switch.gates p
def setGate (s : Zone) (p : Nat) (g : GateSt) : Zone :=
  s.sw fun w => { w with gates := SMap.set (fun _ => GateSt.init) w.gates p g }

/-- Entry k of a gate bank: states and interval. -/
def bankEntry (s : Zone) (p bank k : Nat) : Nat × Nat :=
  if bank = 0 then (s.fld (pSWP p) (SWP.GATE0_STATES.nth 8 k), s.fld (pSWP p) (SWP.GATE0_INTERVAL.nth 8 k))
  else (s.fld (pSWP p) (SWP.GATE1_STATES.nth 8 k), s.fld (pSWP p) (SWP.GATE1_INTERVAL.nth 8 k))

def operBank (s : Zone) (p : Nat) : Nat := s.fld (pSWP p) SWP.GATE_CTRL_OPER_BANK

def listParts (s : Zone) (p bank : Nat) (l : GateList) : List (Nat × Nat × Nat) :=
  gateParts l.cycle 0 ((List.range l.count).map fun k => s.bankEntry p bank k)

/-- The classes that are scheduled, as a mask. -/
def schedMask (s : Zone) (p : Nat) : Nat := ((List.range 8).map fun t => b2n (s.scheduled p t) * 2 ^ t).sum

/-- The index and the gate states of port p now (R348, R350). -/
def gateNow (s : Zone) (p : Nat) : Nat × Nat :=
  let g := s.gate p
  if s.time.stopped then (0, 255 - s.schedMask p)
  else if !s.flag (pSWP p) SWP.GATE_CTRL_GATES_EN then (0, 255)
  else match g.held with
    | some (_, kept) => (0, kept)
    | none => gateAt (s.listParts p (s.operBank p) g.oper) (gatePos g.oper.cycle g.oper.offset s.nowNs)

/-! ### Shapers (R351) -/

def credit (s : Zone) (p t : Nat) : CbsSt := SMap.get (fun _ => ⟨0, 0⟩) s.switch.credit (p * 8 + t)

/-- The class that port p sends now. -/
def sendingClass (s : Zone) (p : Nat) : Option Nat :=
  match s.egress p with
  | some e => if e.sending.isSome then some e.cls else none
  | none => none

/-- Whether frames of class t wait at port p. -/
def classWaits (s : Zone) (p t : Nat) : Bool :=
  let head := match s.egress p with | some e => if e.sending.isNone && e.cls == t then 1 else 0 | none => 0
  let partlySent := match s.egress p with
    | some e => if e.sending.isSome && e.cls == t && decide (e.fetched < e.copy.cells) then 1 else 0 | none => 0
  decide (partlySent < (s.queueCopies p t).length + head)

/-- The credit of class t of port p after the time since it was last counted, with the gate as it was shown meanwhile. -/
def creditNow (s : Zone) (p t : Nat) : Int :=
  let x := s.credit p t
  let dt : Int := (s.mono - x.at_) * 4
  let idle : Int := s.fld (pSWP p) (SWP.SHAPER_IDLE_SLOPE.nth 16 t)
  if s.sendingClass p = some t then x.credit + (idle - s.portRate p) * dt
  else if !s.fldBit (pSWP p) SWP.GATE_STATUS_STATES t then x.credit
  else if s.classWaits p t then x.credit + idle * dt
  else if x.credit < 0 then min 0 (x.credit + idle * dt) else x.credit

/-- Count the credits of port p up to now and show them in bits. -/
def shape (s : Zone) (p : Nat) : Zone :=
  s.forEach (List.range 8) fun (s : Zone) (t : Nat) =>
    if s.flag (pSWP p) (SWP.TC_CFG_CBS_EN.nth 4 t) then
      let c := s.creditNow p t
      let s := s.sw fun w => { w with credit := SMap.set (fun _ => ⟨0, 0⟩) w.credit (p * 8 + t) ⟨c, s.mono⟩ }
      s.setFldS (pSWP p) (SWP.SHAPER_CREDIT.nth 16 t) (c / 1000000)
    else s

/-- A positive credit returns to 0 when its class has no waiting frame and is not being sent. -/
def settleCredit (s : Zone) (p : Nat) : Zone :=
  s.forEach (List.range 8) fun (s : Zone) (t : Nat) =>
    if decide (0 < (s.credit p t).credit) && !s.classWaits p t && s.sendingClass p != some t then
      let s := s.sw fun w => { w with credit := SMap.set (fun _ => ⟨0, 0⟩) w.credit (p * 8 + t) ⟨0, s.mono⟩ }
      s.setFld (pSWP p) (SWP.SHAPER_CREDIT.nth 16 t) 0
    else s

/-- Do `f`, which changes the queues or the transmission of port p, between two counts of its credits. -/
def shaped (s : Zone) (p : Nat) (f : Zone → Zone) : Zone := (f (s.shape p)).settleCredit p

/-! ### Gates in time -/

/-- Bring the gates of port p up to network time, its credits counted first with the states shown until now (R351): after a step the
list resumes at the first boundary of the stepped time (R350), a commit takes over at its boundary (R349), and the registers
show the index and the states. -/
def gateEval (s : Zone) (p : Nat) : Zone :=
  let s := s.shape p
  let g := s.gate p
  let s := match g.held with
    | some (b, _) => if b ≤ s.nowNs then s.setGate p { g with held := none } else s
    | none => s
  let g := s.gate p
  let s := match g.pending with
    | none => s
    | some (b, l) =>
      if b ≤ s.nowNs then
        let s := s.setGate p { g with oper := l, pending := none }
        let s := (s.setFld (pSWP p) SWP.GATE_CTRL_OPER_BANK (1 - s.operBank p)).event (pSWP p) SWP.PORT_EVENT_GATE_APPLIED
        s.setFld (pSWP p) SWP.GATE_STATUS_PENDING 0
      else s
  let x := s.gateNow p
  (s.setFld (pSWP p) SWP.GATE_STATUS_INDEX x.1).setFld (pSWP p) SWP.GATE_STATUS_STATES x.2

/-- Network time has stepped, and the gates of port p stood as the registers show: those of scheduled classes close at once and the others
stay as they are until the first boundary of the stepped time (R350). -/
def gateStepped (s : Zone) (p : Nat) : Zone :=
  let g := s.gate p
  let kept := s.fld (pSWP p) SWP.GATE_STATUS_STATES
  let kept := ((List.range 8).map fun c => b2n (kept.testBit c && !s.scheduled p c) * 2 ^ c).sum
  let s := s.setGate p { g with held := some (gateBoundary g.oper.cycle g.oper.offset s.nowNs, kept) }
  (s.gateEval p).event (pSWP p) SWP.PORT_EVENT_GATE_RESYNC

/-- Whether the gate of class t is open now and stays open for n ns (R347). -/
def gateFits (s : Zone) (p t n : Nat) : Bool :=
  let g := s.gate p
  if s.time.stopped then !s.scheduled p t
  else if !s.flag (pSWP p) SWP.GATE_CTRL_GATES_EN then true
  else
    let fits (T n : Nat) : Bool := gateOpenOver (s.listParts p (s.operBank p) g.oper) g.oper.cycle
      (gatePos g.oper.cycle g.oper.offset T) n t
    let now := s.nowNs
    match g.held, g.pending with
    | some (b, kept), _ => kept.testBit t && (decide (now + n ≤ b) || fits b (now + n - b))
    | none, some (b, l) =>
      if now + n ≤ b then fits now n
      else fits now (b - now) &&
        gateOpenOver (s.listParts p (1 - s.operBank p) l) l.cycle (gatePos l.cycle l.offset b) (now + n - b) t
    | none, none => fits now n

/-- A write of COMMIT (R349). -/
def gateCommit (s : Zone) (p : Nat) : Zone :=
  let pg := pSWP p
  let l : GateList := ⟨s.fld pg SWP.GATE_CTRL_STAGED_COUNT, s.fld pg SWP.GCL_CYCLE_CYCLE, s.fld pg SWP.GCL_OFFSET_OFFSET⟩
  let bank := 1 - s.operBank p
  let bad := decide (l.count = 0 ∨ 128 < l.count ∨ l.cycle < 10000 ∨ 1000000000 < l.cycle ∨ l.cycle ≤ l.offset) ||
    (List.range l.count).any fun k => decide ((s.bankEntry p bank k).2 < 100)
  if bad then s.event pg SWP.PORT_EVENT_GATE_REJECT
  else
    let b := gateBoundary l.cycle l.offset (s.nowNs + 1000)
    (s.setGate p { s.gate p with pending := some (b, l) }).setFld pg SWP.GATE_STATUS_PENDING 1

end Zone

end Sys2Proof.Machine
end

