-- ==== Sys2Proof/Machine/Crypto.lean ====
section
/-! DEFINITION. The published cryptographic standards that the spec names (R45, R575, R588, R589, R592, R598, R603): SHA-2 of
FIPS 180-4, HMAC of FIPS 198-1, AES of FIPS 197, AES-CMAC of NIST SP 800-38B, AES-GCM of NIST SP 800-38D, ECDSA on P-256 and
P-384 of FIPS 186-5 with the nonce of RFC 6979 (log entry 3). -/

namespace Sys2Proof.Machine

/-! ### SHA-2 and HMAC -/

/-- The round constants of SHA-512; those of SHA-256 are the upper halves of the first 64. -/
def shaK : List Nat :=
  [0x428a2f98d728ae22, 0x7137449123ef65cd, 0xb5c0fbcfec4d3b2f, 0xe9b5dba58189dbbc, 0x3956c25bf348b538] ++
  [0x59f111f1b605d019, 0x923f82a4af194f9b, 0xab1c5ed5da6d8118, 0xd807aa98a3030242, 0x12835b0145706fbe] ++
  [0x243185be4ee4b28c, 0x550c7dc3d5ffb4e2, 0x72be5d74f27b896f, 0x80deb1fe3b1696b1, 0x9bdc06a725c71235] ++
  [0xc19bf174cf692694, 0xe49b69c19ef14ad2, 0xefbe4786384f25e3, 0x0fc19dc68b8cd5b5, 0x240ca1cc77ac9c65] ++
  [0x2de92c6f592b0275, 0x4a7484aa6ea6e483, 0x5cb0a9dcbd41fbd4, 0x76f988da831153b5, 0x983e5152ee66dfab] ++
  [0xa831c66d2db43210, 0xb00327c898fb213f, 0xbf597fc7beef0ee4, 0xc6e00bf33da88fc2, 0xd5a79147930aa725] ++
  [0x06ca6351e003826f, 0x142929670a0e6e70, 0x27b70a8546d22ffc, 0x2e1b21385c26c926, 0x4d2c6dfc5ac42aed] ++
  [0x53380d139d95b3df, 0x650a73548baf63de, 0x766a0abb3c77b2a8, 0x81c2c92e47edaee6, 0x92722c851482353b] ++
  [0xa2bfe8a14cf10364, 0xa81a664bbc423001, 0xc24b8b70d0f89791, 0xc76c51a30654be30, 0xd192e819d6ef5218] ++
  [0xd69906245565a910, 0xf40e35855771202a, 0x106aa07032bbd1b8, 0x19a4c116b8d2d0c8, 0x1e376c085141ab53] ++
  [0x2748774cdf8eeb99, 0x34b0bcb5e19b48a8, 0x391c0cb3c5c95a63, 0x4ed8aa4ae3418acb, 0x5b9cca4f7763e373] ++
  [0x682e6ff3d6b2b8a3, 0x748f82ee5defb2fc, 0x78a5636f43172f60, 0x84c87814a1f0ab72, 0x8cc702081a6439ec] ++
  [0x90befffa23631e28, 0xa4506cebde82bde9, 0xbef9a3f7b2c67915, 0xc67178f2e372532b, 0xca273eceea26619c] ++
  [0xd186b8c721c0c207, 0xeada7dd6cde0eb1e, 0xf57d4f7fee6ed178, 0x06f067aa72176fba, 0x0a637dc5a2c898a6] ++
  [0x113f9804bef90dae, 0x1b710b35131c471b, 0x28db77f523047d84, 0x32caab7b40c72493, 0x3c9ebe0a15c9bebc] ++
  [0x431d67c49c100d4c, 0x4cc5d4becb3e42b6, 0x597f299cfc657e2a, 0x5fcb6fab3ad6faec, 0x6c44198c4a475817]

/-- The initial values of SHA-512; those of SHA-256 are their upper halves. -/
def shaInit : List Nat :=
  [0x6a09e667f3bcc908, 0xbb67ae8584caa73b, 0x3c6ef372fe94f82b, 0xa54ff53a5f1d36f1] ++
  [0x510e527fade682d1, 0x9b05688c2b3e6c1f, 0x1f83d9abfb41bd6b, 0x5be0cd19137e2179]

/-- The initial values of SHA-384. -/
def shaInit384 : List Nat :=
  [0xcbbb9d5dc1059ed8, 0x629a292a367cd507, 0x9159015a3070dd17, 0x152fecd8f70e5939] ++
  [0x67332667ffc00b31, 0x8eb44a8768581511, 0xdb0c2e0d64f98fa7, 0x47b5481dbefa4fa4]

/-- Three rotations of a word, combined. -/
def shaBig {w : Nat} (a b c : Nat) (x : BitVec w) : BitVec w := x.rotateRight a ^^^ x.rotateRight b ^^^ x.rotateRight c

/-- Two rotations and a shift of a word, combined. -/
def shaSmall {w : Nat} (a b c : Nat) (x : BitVec w) : BitVec w := x.rotateRight a ^^^ x.rotateRight b ^^^ (x >>> c)

/-- The rounds over one block: `m` holds the next 16 words of the message schedule. -/
def shaRounds {w : Nat} (wide : Bool) : List (BitVec w) → List (BitVec w) → List (BitVec w) → List (BitVec w)
  | k :: ks, m0 :: m, [a, b, c, d, e, f, g, h] =>
    let s0 := if wide then shaSmall 1 8 7 (m.getD 0 0) else shaSmall 7 18 3 (m.getD 0 0)
    let s1 := if wide then shaSmall 19 61 6 (m.getD 13 0) else shaSmall 17 19 10 (m.getD 13 0)
    let t1 := h + (if wide then shaBig 14 18 41 e else shaBig 6 11 25 e) + ((e &&& f) ^^^ (~~~e &&& g)) + k + m0
    let t2 := (if wide then shaBig 28 34 39 a else shaBig 2 13 22 a) + ((a &&& b) ^^^ (a &&& c) ^^^ (b &&& c))
    shaRounds wide ks (m ++ [m0 + s0 + m.getD 8 0 + s1]) [t1 + t2, a, b, c, d + t1, e, f, g]
  | _, _, v => v

/-- The words of w bits that a list of bytes spells, big-endian. -/
def shaWords (w : Nat) : Nat → List Byte → List (BitVec w)
  | 0, _ => []
  | n + 1, l => BitVec.ofNat w (beNat (l.take (w / 8))) :: shaWords w n (l.drop (w / 8))

/-- The hash value after n blocks of 16 words. -/
def shaBlocks {w : Nat} (wide : Bool) (ks : List (BitVec w)) : Nat → List Byte → List (BitVec w) → List (BitVec w)
  | 0, _, v => v
  | n + 1, l, v =>
    shaBlocks wide ks n (l.drop (2 * w)) (v.zipWith (· + ·) (shaRounds wide ks (shaWords w 16 (l.take (2 * w))) v))

/-- The hash of a message with words of w bits, from initial values. -/
def shaWith (w : Nat) (wide : Bool) (ks init : List (BitVec w)) (m : List Byte) : List Byte :=
  let n := m.length
  let tail := w / 4 + 1
  let blocks := (n + tail + 2 * w - 1) / (2 * w)
  let l := m ++ [0x80#8] ++ List.replicate (blocks * (2 * w) - n - tail) 0#8 ++ beBytes (w / 4) (8 * n)
  (shaBlocks wide ks blocks l init).flatMap fun x => beBytes (w / 8) x.toNat

/-- SHA-2: variant 0 SHA-256, 1 SHA-384, 2 SHA-512, as R598 numbers them. -/
def sha (variant : Nat) (m : List Byte) : List Byte :=
  if variant = 0 then
    shaWith 32 false ((shaK.take 64).map fun k => BitVec.ofNat 32 (k / 2 ^ 32)) (shaInit.map fun k => BitVec.ofNat 32 (k / 2 ^ 32)) m
  else if variant = 1 then (shaWith 64 true (shaK.map (BitVec.ofNat 64)) (shaInit384.map (BitVec.ofNat 64)) m).take 48
  else shaWith 64 true (shaK.map (BitVec.ofNat 64)) (shaInit.map (BitVec.ofNat 64)) m

/-- HMAC with the hash of a variant. -/
def hmac (variant : Nat) (key m : List Byte) : List Byte :=
  let block := if variant = 0 then 64 else 128
  let k := padTo block (if block < key.length then sha variant key else key)
  sha variant (k.map (· ^^^ 0x5C) ++ sha variant (k.map (· ^^^ 0x36) ++ m))

/-! ### AES -/

def aesBox : List Byte :=
  [0x63, 0x7c, 0x77, 0x7b, 0xf2, 0x6b, 0x6f, 0xc5, 0x30, 0x01, 0x67, 0x2b, 0xfe, 0xd7, 0xab, 0x76] ++
  [0xca, 0x82, 0xc9, 0x7d, 0xfa, 0x59, 0x47, 0xf0, 0xad, 0xd4, 0xa2, 0xaf, 0x9c, 0xa4, 0x72, 0xc0] ++
  [0xb7, 0xfd, 0x93, 0x26, 0x36, 0x3f, 0xf7, 0xcc, 0x34, 0xa5, 0xe5, 0xf1, 0x71, 0xd8, 0x31, 0x15] ++
  [0x04, 0xc7, 0x23, 0xc3, 0x18, 0x96, 0x05, 0x9a, 0x07, 0x12, 0x80, 0xe2, 0xeb, 0x27, 0xb2, 0x75] ++
  [0x09, 0x83, 0x2c, 0x1a, 0x1b, 0x6e, 0x5a, 0xa0, 0x52, 0x3b, 0xd6, 0xb3, 0x29, 0xe3, 0x2f, 0x84] ++
  [0x53, 0xd1, 0x00, 0xed, 0x20, 0xfc, 0xb1, 0x5b, 0x6a, 0xcb, 0xbe, 0x39, 0x4a, 0x4c, 0x58, 0xcf] ++
  [0xd0, 0xef, 0xaa, 0xfb, 0x43, 0x4d, 0x33, 0x85, 0x45, 0xf9, 0x02, 0x7f, 0x50, 0x3c, 0x9f, 0xa8] ++
  [0x51, 0xa3, 0x40, 0x8f, 0x92, 0x9d, 0x38, 0xf5, 0xbc, 0xb6, 0xda, 0x21, 0x10, 0xff, 0xf3, 0xd2] ++
  [0xcd, 0x0c, 0x13, 0xec, 0x5f, 0x97, 0x44, 0x17, 0xc4, 0xa7, 0x7e, 0x3d, 0x64, 0x5d, 0x19, 0x73] ++
  [0x60, 0x81, 0x4f, 0xdc, 0x22, 0x2a, 0x90, 0x88, 0x46, 0xee, 0xb8, 0x14, 0xde, 0x5e, 0x0b, 0xdb] ++
  [0xe0, 0x32, 0x3a, 0x0a, 0x49, 0x06, 0x24, 0x5c, 0xc2, 0xd3, 0xac, 0x62, 0x91, 0x95, 0xe4, 0x79] ++
  [0xe7, 0xc8, 0x37, 0x6d, 0x8d, 0xd5, 0x4e, 0xa9, 0x6c, 0x56, 0xf4, 0xea, 0x65, 0x7a, 0xae, 0x08] ++
  [0xba, 0x78, 0x25, 0x2e, 0x1c, 0xa6, 0xb4, 0xc6, 0xe8, 0xdd, 0x74, 0x1f, 0x4b, 0xbd, 0x8b, 0x8a] ++
  [0x70, 0x3e, 0xb5, 0x66, 0x48, 0x03, 0xf6, 0x0e, 0x61, 0x35, 0x57, 0xb9, 0x86, 0xc1, 0x1d, 0x9e] ++
  [0xe1, 0xf8, 0x98, 0x11, 0x69, 0xd9, 0x8e, 0x94, 0x9b, 0x1e, 0x87, 0xe9, 0xce, 0x55, 0x28, 0xdf] ++
  [0x8c, 0xa1, 0x89, 0x0d, 0xbf, 0xe6, 0x42, 0x68, 0x41, 0x99, 0x2d, 0x0f, 0xb0, 0x54, 0xbb, 0x16]

def aesSub (b : Byte) : Byte := aesBox.getD b.toNat 0

/-- Multiplication by x in the field of AES. -/
def aesDouble (b : Byte) : Byte := (b <<< 1) ^^^ (if b.getLsbD 7 then 0x1B else 0)

/-- The key schedule, newest word first: n more words after word number `i`. -/
def aesExpand (nk : Nat) : Nat → Nat → Byte → List (List Byte) → List (List Byte)
  | 0, _, _, ws => ws
  | n + 1, i, rcon, ws =>
    let prev := ws.headD []
    let t : List Byte :=
      if i % nk = 0 then ((prev.drop 1 ++ prev.take 1).map aesSub).zipWith (· ^^^ ·) [rcon, 0, 0, 0]
      else if nk = 8 ∧ i % nk = 4 then prev.map aesSub
      else prev
    aesExpand nk n (i + 1) (if i % nk = 0 then aesDouble rcon else rcon) ((ws.getD (nk - 1) []).zipWith (· ^^^ ·) t :: ws)

/-- A list of bytes in groups of n, at most `count` of them. -/
def groupsOf (n : Nat) : Nat → List Byte → List (List Byte)
  | 0, _ => []
  | c + 1, l => l.take n :: groupsOf n c (l.drop n)

/-- The round keys of a key of 16 or 32 bytes, 16 bytes each. -/
def aesKeys (key : List Byte) : List (List Byte) :=
  let nk := key.length / 4
  let words := (aesExpand nk (4 * (nk + 7) - nk) nk 1 (groupsOf 4 nk key).reverse).reverse
  groupsOf 16 (nk + 7) (words.flatMap id)

/-- The rows of the state rotate. -/
def aesShift (l : List Byte) : List Byte := (List.range 16).map fun i => l.getD ((i + 4 * (i % 4)) % 16) 0

/-- The columns of the state mix. -/
def aesMix (l : List Byte) : List Byte :=
  (List.range 16).map fun i =>
    let at_ (k : Nat) : Byte := l.getD (i / 4 * 4 + (i + k) % 4) 0
    aesDouble (at_ 0) ^^^ (aesDouble (at_ 1) ^^^ at_ 1) ^^^ at_ 2 ^^^ at_ 3

def aesRounds : List (List Byte) → List Byte → List Byte
  | [], b => b
  | [k], b => (aesShift (b.map aesSub)).zipWith (· ^^^ ·) k
  | k :: ks, b => aesRounds ks ((aesMix (aesShift (b.map aesSub))).zipWith (· ^^^ ·) k)

/-- AES of one block of 16 bytes, with the round keys. -/
def aesBlock (keys : List (List Byte)) (b : List Byte) : List Byte :=
  match keys with
  | [] => b
  | k :: ks => aesRounds ks (b.zipWith (· ^^^ ·) k)

def aes128 (keys : List (List Byte)) (x : BitVec 128) : BitVec 128 :=
  BitVec.ofNat 128 (beNat (aesBlock keys (beBytes 16 x.toNat)))

def blockOf (l : List Byte) : BitVec 128 := BitVec.ofNat 128 (beNat (padTo 16 l))

/-! ### AES-CMAC -/

/-- Doubling of a subkey of CMAC. -/
def cmacDouble (x : BitVec 128) : BitVec 128 := (x <<< 1) ^^^ (if x.getLsbD 127 then 0x87 else 0)

/-- The chain over n blocks of 16 bytes. -/
def cmacChain (keys : List (List Byte)) : Nat → List Byte → BitVec 128 → BitVec 128
  | 0, _, c => c
  | n + 1, l, c => cmacChain keys n (l.drop 16) (aes128 keys (c ^^^ blockOf (l.take 16)))

/-- AES-CMAC of a message under a key of 16 or 32 bytes. -/
def cmac (key m : List Byte) : BitVec 128 :=
  let keys := aesKeys key
  let n := (m.length + 15) / 16 - 1
  let last := m.drop (16 * n)
  let k1 := cmacDouble (aes128 keys 0)
  let end_ := if last.length = 16 then blockOf last ^^^ k1 else blockOf (last ++ [0x80#8]) ^^^ cmacDouble k1
  aes128 keys (cmacChain keys n m 0 ^^^ end_)

/-! ### AES-GCM -/

/-- Multiplication in the field of GHASH: `n` bits of `x` from its bit n − 1 down, `v` the other factor shifted so far. -/
def ghashMul (x : BitVec 128) : Nat → BitVec 128 → BitVec 128 → BitVec 128
  | 0, _, z => z
  | n + 1, v, z =>
    ghashMul x n ((v >>> 1) ^^^ (if v.getLsbD 0 then 0xE1#128 <<< 120 else 0)) (if x.getLsbD n then z ^^^ v else z)

/-- GHASH over n blocks. -/
def ghash (h : BitVec 128) : Nat → List Byte → BitVec 128 → BitVec 128
  | 0, _, y => y
  | n + 1, l, y => ghash h n (l.drop 16) (ghashMul (y ^^^ blockOf (l.take 16)) 128 h 0)

/-- Counter mode over n blocks, from a counter block on. -/
def gcmCtr (keys : List (List Byte)) : Nat → BitVec 128 → List Byte → List Byte
  | 0, _, _ => []
  | n + 1, c, l =>
    (l.take 16).zipWith (· ^^^ ·) (beBytes 16 (aes128 keys c).toNat) ++
      gcmCtr keys n (BitVec.ofNat 128 (c.toNat / 2 ^ 32 * 2 ^ 32 + (c.toNat + 1) % 2 ^ 32)) (l.drop 16)

/-- Bytes up to the next multiple of 16. -/
def pad16 (l : List Byte) : List Byte := padTo ((l.length + 15) / 16 * 16) l

/-- The tag over additional data and ciphertext, and the text in counter mode, for a 12-byte IV. -/
def gcmText (keys : List (List Byte)) (iv text : List Byte) : List Byte :=
  gcmCtr keys ((text.length + 15) / 16) (blockOf (iv.take 12 ++ [0, 0, 0, 2])) text

def gcmTag (keys : List (List Byte)) (iv aad cipher : List Byte) : List Byte :=
  let m := pad16 aad ++ pad16 cipher ++ beBytes 8 (8 * aad.length) ++ beBytes 8 (8 * cipher.length)
  beBytes 16 ((ghash (aes128 keys 0) (m.length / 16) m 0) ^^^ aes128 keys (blockOf (iv.take 12 ++ [0, 0, 0, 1]))).toNat

/-- AES-GCM encryption: key, IV, additional data, plaintext; ciphertext and tag. -/
def gcmEncrypt (key iv aad text : List Byte) : List Byte × List Byte :=
  let c := gcmText (aesKeys key) iv text
  (c, gcmTag (aesKeys key) iv aad c)

/-- AES-GCM decryption: key, IV, additional data, ciphertext; plaintext and the tag that it should have. -/
def gcmDecrypt (key iv aad cipher : List Byte) : List Byte × List Byte :=
  (gcmText (aesKeys key) iv cipher, gcmTag (aesKeys key) iv aad cipher)

/-! ### ECDSA -/

/-! The curves: field prime, coefficient b, order, base point. -/
def curveP (p384 : Bool) : Nat :=
  if p384 then 2 ^ 384 - 2 ^ 128 - 2 ^ 96 + 2 ^ 32 - 1 else 2 ^ 256 - 2 ^ 224 + 2 ^ 192 + 2 ^ 96 - 1
def curveB (p384 : Bool) : Nat :=
  if p384 then 0xB3312FA7E23EE7E4988E056BE3F82D19181D9C6EFE8141120314088F5013875AC656398D8A2ED19D2A85C8EDD3EC2AEF
  else 0x5AC635D8AA3A93E7B3EBBD55769886BC651D06B0CC53B0F63BCE3C3E27D2604B
def curveN (p384 : Bool) : Nat :=
  if p384 then 0xFFFFFFFFFFFFFFFFFFFFFFFFFFFFFFFFFFFFFFFFFFFFFFFFC7634D81F4372DDF581A0DB248B0A77AECEC196ACCC52973
  else 0xFFFFFFFF00000000FFFFFFFFFFFFFFFFBCE6FAADA7179E84F3B9CAC2FC632551
def curveG (p384 : Bool) : Nat × Nat :=
  if p384 then
    (0xAA87CA22BE8B05378EB1C71EF320AD746E1D3B628BA79B9859F741E082542A385502F25DBF55296C3A545E3872760AB7,
     0x3617DE4A96262C6F5D9E98BF9292DC29F8F41DBD289A147CE9DA3113B5F0B8C00A60B1CE1D7E819D7A431D7C90EA0E5F)
  else
    (0x6B17D1F2E12C4247F8BCE6E563A440F277037D812DEB33A0F4A13945D898C296,
     0x4FE342E2FE1A7F9B8EE7EB4A7C0F9E162BCE33576B315ECECBB6406837BF51F5)

/-- The bytes of a coordinate. -/
def curveLen (p384 : Bool) : Nat := if p384 then 48 else 32

/-- Whether a point, X then Y big-endian, lies on its curve. -/
def onCurve (p384 : Bool) (l : List Byte) : Bool :=
  let n := curveLen p384
  let x := beNat (l.take n)
  let y := beNat ((l.drop n).take n)
  let p := curveP p384
  decide (x < p ∧ y < p) && decide (y * y % p = (x * x % p * x + (p - 3) * x + curveB p384) % p)

/-- b to the power e modulo m, for e of at most `n` bits. -/
def powMod (m b : Nat) : Nat → Nat → Nat
  | 0, _ => 1 % m
  | n + 1, e =>
    let h := powMod m b n (e / 2)
    if e % 2 = 1 then h * h % m * b % m else h * h % m

/-- The inverse modulo a prime. -/
def invMod (m a : Nat) : Nat := powMod m (a % m) 384 (m - 2)

/-- Addition of points modulo p; none is the point at infinity. -/
def pointAdd (p : Nat) : Option (Nat × Nat) → Option (Nat × Nat) → Option (Nat × Nat)
  | none, q => q
  | q, none => q
  | some a, some b =>
    if a.1 = b.1 ∧ (a.2 + b.2) % p = 0 then none
    else
      let l := if a.1 = b.1 then (3 * a.1 * a.1 + (p - 3)) % p * invMod p (2 * a.2) % p
        else (b.2 + p - a.2) % p * invMod p (b.1 + p - a.1) % p
      let x := (l * l + 2 * p - a.1 - b.1) % p
      some (x, (l * (a.1 + p - x) + p - a.2) % p)

/-- k times a point, for k of at most `n` bits. -/
def pointMul (p : Nat) (g : Nat × Nat) : Nat → Nat → Option (Nat × Nat)
  | 0, _ => none
  | n + 1, k =>
    let h := pointMul p g n (k / 2)
    let d := pointAdd p h h
    if k % 2 = 1 then pointAdd p d (some g) else d

def pointTimes (p384 : Bool) (g : Nat × Nat) (k : Nat) : Option (Nat × Nat) := pointMul (curveP p384) g (8 * curveLen p384) k

/-- Whether the keys of a type are on P-384. -/
def isP384 (t : Nat) : Bool := decide (t = 5 ∨ t = 7)

/-- The public key, X then Y big-endian, of a private key of a type. -/
def publicKey (t : Nat) (key : List Byte) : List Byte :=
  let c := isP384 t
  match pointTimes c (curveG c) (beNat key) with
  | some a => beBytes (curveLen c) a.1 ++ beBytes (curveLen c) a.2
  | none => List.replicate (2 * curveLen c) 0

/-- The signature that the generator of RFC 6979 in state (k, v) leads to. -/
def signFrom (c : Bool) (d z : Nat) : Nat → List Byte → List Byte → List Byte
  | 0, _, _ => []
  | n + 1, k, v =>
    let h (k m : List Byte) : List Byte := hmac (if c then 1 else 0) k m
    let v := h k v
    let e := beNat v
    let q := curveN c
    let r := match pointTimes c (curveG c) e with | some a => a.1 % q | none => 0
    let s := invMod q e * ((z + r * d) % q) % q
    if 1 ≤ e ∧ e < q ∧ r ≠ 0 ∧ s ≠ 0 then beBytes (curveLen c) r ++ beBytes (curveLen c) s
    else signFrom c d z n (h k (v ++ [0])) (h (h k (v ++ [0])) v)

/-- ECDSA signature of a digest by a private key of a type: r then s, big-endian. -/
def ecdsaSign (t : Nat) (key digest : List Byte) : List Byte :=
  let c := isP384 t
  let n := curveLen c
  let z := beNat (digest.take n) % curveN c
  let h (k m : List Byte) : List Byte := hmac (if c then 1 else 0) k m
  let seed := padTo n key ++ beBytes n z
  let v := List.replicate n 1#8
  let k := h (List.replicate n 0#8) (v ++ [0] ++ seed)
  let v := h k v
  let k := h k (v ++ [1] ++ seed)
  signFrom c (beNat key) z 32 k (h k v)

/-- ECDSA verification of a signature over a digest by a public key of a type. -/
def ecdsaVerify (t : Nat) (pub digest sig : List Byte) : Bool :=
  let c := isP384 t
  let n := curveLen c
  let q := curveN c
  let r := beNat (sig.take n)
  let s := beNat ((sig.drop n).take n)
  let w := invMod q s
  let z := beNat (digest.take n) % q
  let g := pointTimes c (curveG c) (z * w % q)
  let a := pointTimes c (beNat (pub.take n), beNat ((pub.drop n).take n)) (r * w % q)
  decide (pub.length = 2 * n ∧ sig.length = 2 * n ∧ 1 ≤ r ∧ r < q ∧ 1 ≤ s ∧ s < q) && onCurve c pub &&
    (match pointAdd (curveP c) g a with | some x => x.1 % q == r | none => false)

end Sys2Proof.Machine
end

