-- ==== Sys2Proof/Machine/Envelope.lean ====
section
/-! DEFINITION. The envelope of the management queue (R45): responses and notices with their MAC. -/

namespace Sys2Proof.Machine

open Reg

/-- The bytes of an envelope that its MAC covers (R45). -/
def envelopeBytes (code seq node status state : Nat) (body : List Byte) : List Byte :=
  leBytes 2 code ++ leBytes 2 body.length ++ leBytes 4 seq ++ leBytes 4 node ++ leBytes 1 status ++ leBytes 1 state ++
    [0#8, 0#8] ++ body

namespace Zone

/-- The STATE byte of a response: the module state and SLEEP_PENDING (R45). -/
def stateByte (s : Zone) : Nat := (s.rd (pZONE 0)).toNat % 16

def node (s : Zone) : Nat := s.fld pFLEET TIME1.NODE_NODE

/-- Send a response or a notice. -/
def send (s : Zone) (code : Nat) (seq : BitVec 32) (status : Nat) (result : List Byte) : Zone :=
  let m := cmac (s.supv.sessionKey.getD []) (envelopeBytes code seq.toNat s.node status s.stateByte result)
  { s with supv := { s.supv with replies := s.supv.replies ++ [⟨code, seq, s.node, status, s.stateByte, result, m⟩] } }

/-- Send a notice, where a session key exists (R44, R614). -/
def notice (s : Zone) (code : Nat) (result : List Byte) : Zone :=
  if s.supv.sessionKey.isSome then s.send code 0 0 result else s

/-- Answer an executing command and end it (R48). -/
def answer (s : Zone) (code : Nat) (seq : BitVec 32) (status : Nat) (result : List Byte) : Zone :=
  let s := s.send code seq status result
  { s with supv := { s.supv with executing := s.supv.executing.filter fun e => !(e.code == code && e.seq == seq) } }

end Zone

end Sys2Proof.Machine
end

