-- ==== Sys2Proof/Machine/Segments.lean ====
section
/-! DEFINITION. The segments of the logbook (R570, R572, R575, R576): records as bytes, the hash chain, opening and closing. -/

namespace Sys2Proof.Machine

open Reg

/-- The bytes of a record (R570). -/
def LogRec.bytes (r : LogRec) : List Byte :=
  leBytes 2 r.kind ++ leBytes 1 r.stream ++ leBytes 1 0 ++ leBytes 4 r.payload.length ++ leBytes 8 r.seq ++ r.time.bytes ++
    leBytes 4 r.domain.toNat ++ leBytes 4 r.node.toNat ++ leBytes 4 r.source.toNat ++
    padTo ((r.payload.length + 7) / 8 * 8) r.payload

/-- The length of a record with a payload of n bytes (R570). -/
def recordLen (n : Nat) : Nat := 40 + 8 * ((n + 7) / 8)

/-- A time of the TS96 format in ns. -/
def Stamp.nanos (t : Stamp) : Nat := t.sec.toNat * 1000000000 + t.ns.toNat

namespace Segment

def bodyLen (g : Segment) : Nat := (g.records.map fun r => recordLen r.payload.length).sum

/-- The header of R572. -/
def header (g : Segment) : List Byte :=
  leBytes 4 0x4753474C ++ leBytes 2 1 ++ leBytes 1 g.stream ++ [0#8] ++ leBytes 4 g.start.toNat ++ leBytes 4 g.number ++
    leBytes 4 g.domain.toNat ++ leBytes 4 g.node.toNat ++ leBytes 8 g.firstSeq ++ leBytes 4 g.records.length ++
    leBytes 4 g.bodyLen ++ g.openTime.bytes ++ leBytes 4 0 ++ padTo 32 g.prevSeal ++ List.replicate 40 0#8

/-- Bytes 0 to 63 of the seal block (R572). -/
def sealHead (g : Segment) (cause : Nat) (close : Stamp) : List Byte :=
  leBytes 4 0x4C53474C ++ leBytes 1 cause ++ List.replicate 11 0#8 ++ close.bytes ++ leBytes 4 0 ++ padTo 32 g.chain

/-- SEAL_DIGEST (R575). -/
def digest (g : Segment) (cause : Nat) (close : Stamp) : List Byte := sha 0 (g.header ++ g.sealHead cause close)

/-- Whether a record closes the segment before it with cause TIME, 1, or SIZE, 2; 0 otherwise (R576). -/
def closedBy (g : Segment) (r : LogRec) : Nat :=
  if 1000000000 ≤ r.time.nanos - g.openTime.nanos then 1
  else if 16777216 < 256 + g.bodyLen + recordLen r.payload.length then 2
  else 0

end Segment

/-- The 4,096-byte blocks of a sealed segment's image (R580). -/
def Sealed.blocks (x : Sealed) : Nat := (256 + x.seg.bodyLen + 4095) / 4096

/-- The image of a sealed segment: header, body and seal, then zeros (R580). -/
def Sealed.image (x : Sealed) : List Byte :=
  padTo (x.blocks * 4096) (x.seg.header ++ x.seg.records.flatMap LogRec.bytes ++ x.seg.sealHead x.cause x.closeTime ++ x.sig)

namespace Zone

def stream (s : Zone) (n : Nat) : StreamSt := SMap.get (fun _ => StreamSt.init) s.log.streams n
def setStream (s : Zone) (n : Nat) (x : StreamSt) : Zone :=
  { s with log := { s.log with streams := SMap.set (fun _ => StreamSt.init) s.log.streams n x } }

def domainWord (s : Zone) : Word := s.rd (pFLEET + TIME1.DOMAIN_ID_ID.off)
def nodeWord (s : Zone) : Word := BitVec.ofNat 32 (s.fld pFLEET TIME1.NODE_NODE)

def nextSeq (s : Zone) (n : Nat) : Nat :=
  s.fld (pSTREAM n) STREAM.NEXT_SEQ_LO_SEQ + s.fld (pSTREAM n) STREAM.NEXT_SEQ_HI_SEQ * 2 ^ 32
def setNextSeq (s : Zone) (n v : Nat) : Zone :=
  (s.setFld (pSTREAM n) STREAM.NEXT_SEQ_LO_SEQ (v % 2 ^ 32)).setFld (pSTREAM n) STREAM.NEXT_SEQ_HI_SEQ (v / 2 ^ 32)

/-- Whether the hash engine, block 9, runs (R578). -/
def hashRuns (s : Zone) : Bool := decide (s.fld (pZONE 5) ZONE5.GATE_STATE_STATE / 4 ^ 9 % 4 = 0)

/-- Close the open segment of a stream (R575, R576), with its snapshot number (R581). -/
def closeSegment (s : Zone) (n cause : Nat) : Zone :=
  let x := s.stream n
  match x.opened with
  | none => s
  | some g =>
    let t := s.stamp
    let d := g.digest cause t
    let s := s.setStream n { x with opened := none, lastSeal := d }
    let z : Sealed := ⟨g, cause, t, ecdsaSign 4 (s.keyring.evidence.getD []) d, none, 0, false⟩
    let s := { s with log := { s.log with sealed := s.log.sealed ++ [z] } }
    let p := pSTREAM n
    let s := (s.setFld p STREAM.STREAM_STATUS_OPEN 0).setFld p STREAM.STREAM_STATUS_SEGMENT (g.number + 1)
    if cause = 3 then (s.setFld p STREAM.SNAP_SEGMENT_VALID 1).setFld p STREAM.SNAP_SEGMENT_SEGMENT g.number else s

/-- Chain a record into its stream's segment, opening one where none is open (R575). -/
def chainRecord (s : Zone) (n : Nat) (r : LogRec) : Zone :=
  let s := match (s.stream n).opened with
    | some g => if g.closedBy r = 0 then s else s.closeSegment n (g.closedBy r)
    | none => s
  let x := s.stream n
  let g : Segment := match x.opened with
    | some g => g
    | none =>
      let number := s.fld (pSTREAM n) STREAM.STREAM_STATUS_SEGMENT
      ⟨n, s.rd (pLOG + LOG0.START_COUNT_COUNT.off), number, s.domainWord, s.nodeWord, r.seq, r.time, x.lastSeal,
        if number = 0 then List.replicate 32 0 else x.lastSeal, []⟩
  let g := { g with chain := sha 0 (g.chain ++ r.bytes), records := g.records ++ [r] }
  (s.setStream n { x with opened := some g }).setFld (pSTREAM n) STREAM.STREAM_STATUS_OPEN 1

/-- The cause with which a close takes effect: a TIME or SIZE close of the record behind a STOP or STEP comes first (R576). -/
def closeCause (s : Zone) (n cause : Nat) (next : List LogItem) : Nat :=
  match (s.stream n).opened, next with
  | some g, .entry r :: _ => if 6 ≤ cause ∧ g.closedBy r ≠ 0 then g.closedBy r else cause
  | _, _ => cause

/-- Carry out the closes at the front of a stream's items. -/
def drainCloses (s : Zone) (n : Nat) : List LogItem → Zone
  | .close c :: rest => drainCloses ((s.closeSegment n (s.closeCause n c rest)).setStream n
      { (s.closeSegment n (s.closeCause n c rest)).stream n with items := rest }) n rest
  | _ => s

/-- Close a stream's segment once what it has taken is hashed; at once where nothing waits (R576, R579). -/
def closeAfter (s : Zone) (n cause : Nat) : Zone :=
  let x := s.stream n
  if x.items = [] ∧ x.opened = none then s
  else if x.items = [] ∧ s.hashRuns then s.closeSegment n cause
  else s.setStream n { x with items := x.items ++ [.close cause] }

/-- Close the segment of every stream (R576). -/
def closeAll (s : Zone) (cause : Nat) : Zone := s.forEach (List.range 64) fun (s : Zone) (n : Nat) => s.closeAfter n cause

/-- The hash engine takes the next item of a stream. -/
def hashNext (s : Zone) (n : Nat) : Zone :=
  if !s.hashRuns then s
  else
    match (s.stream n).items with
    | [] => s
    | .entry r :: rest =>
      let s := (s.setStream n { s.stream n with items := rest }).chainRecord n r
      s.drainCloses n rest
    | l => s.drainCloses n l

end Zone

end Sys2Proof.Machine
end

