-- ==== Sys2Proof/Machine/Time.lean ====
section
/-! DEFINITION. Network time (R376 to R398, R678), transmit-timestamp queues (R382 to R384) and the pending operations of
the fleet domain (R399 to R405). -/

namespace Sys2Proof.Machine

open Reg

/-! The codes of TIME_STATUS.STATE (R407). -/
namespace TS
@[reducible] def unset : Nat := 0
@[reducible] def coarse : Nat := 1
@[reducible] def locked : Nat := 2
@[reducible] def holdover : Nat := 3
@[reducible] def localRun : Nat := 4
end TS

/-- The nominal increment, and the limits of the servo (R376). -/
@[reducible] def incNominal : Nat := 0x400000000
@[reducible] def incMin : Nat := 0x3FF7CED92
@[reducible] def incMax : Nat := 0x40083126E

/-- One tick of the counter (R376). -/
def NetTime.tick (t : NetTime) (inc : Nat) : NetTime :=
  let total := t.ns.toNat * 4294967296 + t.frac.toNat + inc
  let ns := total / 4294967296
  if 1000000000 ≤ ns then ⟨t.sec + 1, BitVec.ofNat 32 (ns - 1000000000), BitVec.ofNat 32 (total % 4294967296)⟩
  else ⟨t.sec, BitVec.ofNat 32 ns, BitVec.ofNat 32 (total % 4294967296)⟩

/-- The counter moved by a number of ns; SEC wraps at 48 bits and FRAC stays. -/
def NetTime.step (t : NetTime) (o : Int) : NetTime :=
  let n := ((t.sec.toNat * 1000000000 + t.ns.toNat : Nat) + o) % (2 ^ 48 * 1000000000 : Nat)
  ⟨BitVec.ofNat 48 (n.toNat / 1000000000), BitVec.ofNat 32 (n.toNat % 1000000000), t.frac⟩

/-- INC for a rate and a phase term in parts per 10^9 (R678), clamped (R376). -/
def incOf (r ph : Int) : Nat := max incMin (min incMax ((incNominal * (1000000000 + r + ph)).tdiv 1000000000).toNat)

/-- The quotient that R678 forms over the time since the previous used measurement; of a divisor 0 the spec states no
result (log entry 2). -/
def servoDiv (n : Int) (t : Nat) : Int := if t = 0 then Config.divByZero n else n.tdiv t

/-- The key under which a keeper waits for the first boundary after a step. -/
def pauseKeeper (k : Keeper) : Nat := k.idx

/-- The key of GLOBAL_MARK (R408). -/
def markKey : Nat := pFLEET + TIME1.GLOBAL_MARK_MARK.off

namespace Zone

def tstate (s : Zone) : Nat := s.fld pTIME TIME0.TIME_STATUS_STATE
def setTState (s : Zone) (v : Nat) : Zone := s.setFld pTIME TIME0.TIME_STATUS_STATE v
def jumpThresh (s : Zone) : Nat := s.fld pTIME TIME0.JUMP_THRESH_NS
def slewLimit (s : Zone) : Nat := s.fld pTIME TIME0.SLEW_LIMIT_NS
def source (s : Zone) : Nat := s.fld pTIME TIME0.SERVO_CFG_SOURCE

/-- Set INC_HI and INC_LO. -/
def setInc (s : Zone) (v : Nat) : Zone :=
  (s.setFld pTIME TIME0.INC_LO_INC v).setFld pTIME TIME0.INC_HI_INC (v / 2 ^ 32)

/-- Set a field that shows a time in ns, saturated at 32 bits (R407). -/
def setNs (s : Zone) (f : Fld) (o : Int) : Zone := s.setFld pTIME f (ofSigned 32 (satSigned 32 o))

/-- Take a rate and a phase term: INC, RATE and SLEWING show them (R678). The history of R388 keeps the rate terms. -/
def setTerms (s : Zone) (r ph : Int) : Zone :=
  let keep := s.time.history.takeWhile fun e => decide (s.mono < e.1 + 16000 * ticksPerMs)
  let older := (s.time.history.drop keep.length).take 1
  let s := s.markTime
  let s := { s with time := { s.time with rateTerm := r, phaseTerm := ph, history := (s.mono, r) :: keep ++ older } }
  let s := (s.setInc (incOf r ph)).setFldS pTIME TIME0.RATE_PPB (r + ph)
  s.setFlag pTIME TIME0.TIME_STATUS_SLEWING (decide (ph ≠ 0))

/-- The mean rate term over the last 16 s of LOCKED (R388). -/
def meanRate (s : Zone) : Int :=
  let w := max s.time.lockedAt (s.mono - 16000 * ticksPerMs)
  let sums := s.time.history.foldl (fun (a : Int × Nat) e =>
    let from_ := max w e.1
    (a.1 + e.2 * ((a.2 - from_ : Nat) : Int), min a.2 from_)) (0, s.mono)
  if s.mono ≤ w then s.time.rateTerm else sums.1.tdiv ((s.mono - w : Nat) : Int)

/-- STATE becomes LOCKED; holdover ends where it was on (R386). -/
def toLocked (s : Zone) : Zone :=
  let s := if s.tstate = TS.holdover then s.event pTIME TIME0.TIME_EVENT_HOLDOVER_EXIT else s
  let s := if s.tstate = TS.locked then s else { s with time := { s.time with lockedAt := s.mono, history := [(s.mono, s.time.rateTerm)] } }
  { s.setTState TS.locked with time := { s.time with holdoverSince := none } }

/-- STATE becomes HOLDOVER, and the time in it starts to count (R388). -/
def beginHoldover (s : Zone) : Zone :=
  let s := (s.setTState TS.holdover).event pTIME TIME0.TIME_EVENT_HOLDOVER_ENTER
  let s := (s.count pTIME TIME0.TIME_COUNTS_HOLDOVERS).setFld pTIME TIME0.HOLDOVER_MS_MS 0
  { s with time := { s.time with holdoverSince := some s.mono, resid := 0, ringBroken := true } }

/-- Enter holdover from LOCKED; in the other states nothing changes (R388). -/
def enterHoldover (s : Zone) : Zone :=
  if s.tstate = TS.locked then
    let r := s.meanRate
    s.beginHoldover.setTerms r 0
  else s

/-! ### Pending operations -/

/-- Word w of pending-operation slot k (R408). -/
def slotWord (s : Zone) (k w : Nat) : Nat := (s.rd (pFLEET + 0x100 + 32 * k + 4 * w)).toNat
def setSlotWord (s : Zone) (k w v : Nat) : Zone := s.wr (pFLEET + 0x100 + 32 * k + 4 * w) (BitVec.ofNat 32 v)

def slotKind (s : Zone) (k : Nat) : Nat := s.slotWord k 1 % 65536
def slotState (s : Zone) (k : Nat) : Nat := s.slotWord k 1 / 65536 % 4

/-- AT of slot k in ns. -/
def slotAt (s : Zone) (k : Nat) : Nat :=
  (s.slotWord k 3 + s.slotWord k 4 % 65536 * 2 ^ 32) * 1000000000 + s.slotWord k 2

/-- The pending slots. -/
def pendingSlots (s : Zone) : List Nat := (List.range 16).filter fun k => decide (s.slotState k = 1)

/-- Slot k takes a state, and GLOBAL_STATUS.PENDING follows. -/
def setSlotState (s : Zone) (k v : Nat) : Zone :=
  let s := s.setSlotWord k 1 (s.slotKind k + v * 65536)
  s.setFld pFLEET TIME1.GLOBAL_STATUS_PENDING s.pendingSlots.length

/-- Whether slot k executes before slot j (R402): a RESET that a step has passed comes last of all, and a RESET comes last
among operations of one AT. -/
def slotBefore (s : Zone) (k j : Nat) : Bool :=
  let last (i : Nat) : Nat := b2n (s.slotKind i == 3 && s.time.late.getLsbD i)
  let key (i : Nat) : List Nat := [last i, s.slotAt i, b2n (s.slotKind i == 3), s.slotWord i 0]
  decide (key k < key j)

/-- The slot whose operation executes next, none where no pending operation is due (R402). -/
def dueSlot (s : Zone) : Option Nat :=
  (s.pendingSlots.filter fun k => decide (s.slotAt k ≤ s.nowNs)).foldl (fun b k =>
    match b with
    | none => some k
    | some j => if s.slotBefore k j then some k else some j) none

/-- The slot that executes now, where its operation is of the given kind. -/
def dueGlobal (s : Zone) (kind : Nat) : Option Nat :=
  if s.inMode [.service, .test] then
    match s.dueSlot with
    | some k => if s.slotKind k = kind then some k else none
    | none => none
  else none

/-- The operation of slot k executes: its slot, its count and its notice (R402, R403). -/
def globalExecuted (s : Zone) (k : Nat) : Zone :=
  let late := s.time.late.getLsbD k
  let op := s.slotWord k 0
  let s := (s.setSlotState k 2).count pFLEET TIME1.GLOBAL_COUNTS_EXECUTED
  s.notice 0x000A (leBytes 4 op ++ leBytes 4 (b2n late) ++ s.stamp.bytes)

/-- Discard every pending operation (R405). -/
def dropPending (s : Zone) : Zone := s.forEach s.pendingSlots fun s k =>
  (s.setSlotWord k 0 0).setSlotState k 0

/-! ### Steps -/

/-- Operations whose AT a forward step passes execute late (R402). -/
def markLate (s : Zone) (old : Nat) : Zone :=
  let m := s.pendingSlots.foldl (fun m k => if old < s.slotAt k ∧ s.slotAt k ≤ s.nowNs then m ||| (1#16 <<< k) else m) s.time.late
  { s with time := { s.time with late := m } }

/-- The time masters of CAN.0 to CAN.3 after a step: the reference time that the stepped time has passed is neither sent nor
counted, one that it reaches or that comes again is (R432). -/
def refsStepped (s : Zone) : Zone := s.forEach (List.range 4) fun s c =>
  let pos := gatePos (s.fld (pCAN c) CAN.TM_CYCLE_US * 1000) (s.fld (pCAN c) CAN.TM_OFFSET_US * 1000) s.nowNs
  let x := SMap.get (fun _ => CanSt.init) s.cans c
  { s with cans := SMap.set (fun _ => CanSt.init) s.cans c { x with lastRef := if pos = 0 then none else some (s.nowNs - pos) } }

/-- A step of network time by o (R389): both copies, the event, the counter and the record; keepers, generators, gates and time
masters resynchronise (R175, R288, R350, R432). -/
def timeStep (s : Zone) (o : Int) : Zone :=
  let old := s.nowNs
  let s := (s.forEach (List.range 32) gateEval).markTime
  let s := { s with time := { s.time with net := s.time.net.step o, copy := s.time.copy.step o, lastStep := some s.mono,
                                          resid := 0, lastUsed := s.time.lastUsed.map fun u => ((u : Int) + o).toNat } }
  let s := (s.setTerms s.time.rateTerm 0).event pTIME TIME0.TIME_EVENT_STEPPED
  let s := s.count pTIME TIME0.TIME_COUNTS_STEPS
  let s := ((s.postValue pTIME TIME0.TIME_EVENT_STEPPED o).gensStepped old).followsStepped.refsStepped
  let keys := [pauseKeeper .A, pauseKeeper .B]
  let s := { s with pauses := keys.foldl (fun m k => SMap.set (fun _ => none) m k (some s.nowNs)) s.pauses }
  ((s.forEach (List.range 32) gateStepped).markLate old).closeAll 7

/-- A step ends a refusal and its count (R391). -/
def clearRefusal (s : Zone) : Zone :=
  { s.setFld pTIME TIME0.TIME_STATUS_REFUSING 0 with time := { s.time with excess := 0, good := 0 } }

/-! ### The servo -/

/-- The slew of R678; t is the network time since the previous used measurement, steps aside. -/
def slew (s : Zone) (o : Int) : Zone :=
  let t := match s.time.lastUsed with | some u => s.nowNs - u | none => 0
  let r := s.time.rateTerm + (servoDiv ((o - s.time.resid) * 1000000000) t).tdiv 4
  let lim : Int := s.fld pTIME TIME0.SERVO_CFG_PHASE_PPM * 1000
  let ph := max (0 - lim) (min lim (servoDiv (o * 1000000000) t))
  let s := (s.setTerms r ph).toLocked
  { s with time := { s.time with resid := o - (ph * t).tdiv 1000000000, lastUsed := some s.nowNs } }

/-- A step at a measurement. -/
def servoStep (s : Zone) (o : Int) : Zone :=
  let s := s.timeStep o
  { s.toLocked with time := { s.toLocked.time with lastUsed := some s.nowNs } }

/-- The coarse window (R386). -/
def coarseWindow (s : Zone) : Nat := max s.jumpThresh (100000 + s.time.sleepNs / 10000)

/-- A refusal of the source (R387). -/
def refuse (s : Zone) (o : Int) : Zone :=
  let s := (s.setFld pTIME TIME0.TIME_STATUS_REFUSING 1).event pTIME TIME0.TIME_EVENT_JUMP_REFUSED
  let s := (s.setNs TIME0.REFUSED_OFFSET_NS o).count pTIME TIME0.TIME_COUNTS_REFUSED
  let s := { s with time := { s.time with good := 0 } }
  (s.postValue pTIME TIME0.TIME_EVENT_JUMP_REFUSED o).enterHoldover

/-- The table of R386; while excess measurements are counted INC has no phase term (R390). -/
def judge (s : Zone) (o : Int) : Zone :=
  let acquired (s : Zone) : Zone := (s.servoStep o).event pTIME TIME0.TIME_EVENT_ACQUIRED
  let within (s : Zone) : Zone := { s with time := { s.time with excess := 0 } }
  if s.tstate = TS.unset then (within s).clearRefusal |> acquired
  else if s.tstate = TS.coarse ∧ o.natAbs ≤ s.coarseWindow then acquired (within s)
  else if o.natAbs ≤ s.slewLimit then (within s).slew o
  else if o.natAbs ≤ s.jumpThresh then (within s).servoStep o
  else
    let s := { s with time := { s.time with excess := s.time.excess + 1 } }
    let s := if s.time.phaseTerm = 0 then s else s.setTerms s.time.rateTerm 0
    if s.fld pTIME TIME0.SERVO_CFG_REFUSE_COUNT ≤ s.time.excess then
      ({ s with time := { s.time with excess := 0 } }).refuse o
    else s

/-- A measurement with offset o from the selected source (R386, R387, R391). -/
def measure (s : Zone) (o : Int) : Zone :=
  let s := s.setNs TIME0.OFFSET_NS o
  match s.time.waiting with
  | some w =>
    let s := ({ s with time := { s.time with waiting := none } }).servoStep o
    s.clearRefusal.answer 0x000C w.seq 0 (leBytes 4 0 ++ leBytes 8 (ofSigned 64 o))
  | none =>
    if s.flag pTIME TIME0.TIME_STATUS_REFUSING then
      if o.natAbs ≤ s.jumpThresh then
        let s := { s with time := { s.time with good := s.time.good + 1 } }
        if s.fld pTIME TIME0.SERVO_CFG_REFUSE_COUNT ≤ s.time.good then s.clearRefusal.judge o else s
      else { s with time := { s.time with good := 0 } }
    else s.judge o

/-- What SOURCE selects at present (R385): instance 0, else instance 1 where RING is set, or a 1PPS whose edges are used. -/
def sourceNow (s : Zone) : Nat :=
  match s.source with
  | 0 => if s.flag pTIME TIME0.INST_STATUS_LOCKED0 then 0
         else if s.flag pTIME TIME0.SERVO_CFG_RING && s.flag pTIME TIME0.INST_STATUS_LOCKED1 then 1 else 3
  | 1 => if s.flag pTIME TIME0.TIME_STATUS_PPS_SEEN then 2 else 3
  | _ => 3

/-- Show the source in use. An exchange of the instances is counted (R390); a source that stops being locked leads to
holdover (R388). -/
def sourceCheck (s : Zone) : Zone :=
  let old := s.fld pTIME TIME0.TIME_STATUS_SOURCE_NOW
  let new := s.sourceNow
  let s := s.setFld pTIME TIME0.TIME_STATUS_SOURCE_NOW new
  let s := s.setFlag pTIME TIME0.TIME_STATUS_GM (decide (s.source = 1 ∨ s.source = 2))
  let s := if (old = 0 ∧ new = 1) ∨ (old = 1 ∧ new = 0) then
      let s := (s.event pTIME TIME0.TIME_EVENT_SOURCE_SWITCH).count pTIME TIME0.TIME_COUNTS_GM_CHANGES
      s.setTerms s.time.rateTerm 0
    else s
  (if new = 3 ∧ s.source < 2 then s.enterHoldover else s).showRing

/-- The state that STATE takes on leaving LOCAL (R385). -/
def leaveLocal (s : Zone) : Zone :=
  if s.tstate = TS.localRun then
    let s := s.setTerms s.time.rateTerm 0
    if s.time.base = TS.holdover then s.beginHoldover else s.setTState s.time.base
  else s

/-- A new SOURCE (R385); 3 is ignored. -/
def selectSource (s : Zone) (v : Nat) : Zone :=
  if v = 3 ∨ v = s.source then s
  else
    let s := s.setFld pTIME TIME0.SERVO_CFG_SOURCE v
    let s := { s with time := { s.time with excess := 0, good := 0, ppsUsed := if v = 1 then some s.mono else none } }
    let s := s.setFld pTIME TIME0.TIME_STATUS_PPS_SEEN 0
    if v = 2 then
      let t := s.tstate
      let s := { s with time := { s.time with base := if t = TS.locked then TS.holdover else t, holdoverSince := none } }
      let s := s.when (decide (t = TS.holdover)) (·.event pTIME TIME0.TIME_EVENT_HOLDOVER_EXIT)
      (s.setTState TS.localRun).sourceCheck
    else s.leaveLocal.sourceCheck

/-- The sync interval of an instance in ticks (R385). -/
def syncInterval (s : Zone) (i : Fin 2) : Nat :=
  250000000 / 2 ^ s.fld pTIME (if i = 0 then TIME0.INST0_CFG_SYNC_LOG else TIME0.INST1_CFG_SYNC_LOG)

/-- A valid Sync and Follow_Up of instance i (R385). A sync interval reaches half of it before and after the sync that fell in it: one
that comes within half an interval of the last falls in the same interval, one within one and a half in the next; three
intervals in a row lock the instance (log entry 95). -/
def ptpSync (s : Zone) (i : Fin 2) : Zone :=
  let t := s.time
  let old := if i = 0 then (t.syncs0, t.syncAt0) else (t.syncs1, t.syncAt1)
  let w := s.syncInterval i
  let (n, at_) :=
    if old.1 = 0 ∨ 2 * old.2 + 3 * w ≤ 2 * s.mono then (1, s.mono)
    else if 2 * s.mono < 2 * old.2 + w then old
    else (min 3 (old.1 + 1), s.mono)
  let s := { s with time := if i = 0 then { t with syncs0 := n, syncAt0 := at_ } else { t with syncs1 := n, syncAt1 := at_ } }
  (s.setFlag pTIME (if i = 0 then TIME0.INST_STATUS_LOCKED0 else TIME0.INST_STATUS_LOCKED1) (decide (n = 3))).sourceCheck

/-! ### Configuration writes (R386, R407) -/

def jumpWrite (s : Zone) (v : Word) : Zone :=
  let n := TIME0.JUMP_THRESH_NS.get v
  if 16 ≤ n ∧ n ≤ 1000000000 then
    let s := s.setFld pTIME TIME0.JUMP_THRESH_NS n
    if n < s.slewLimit then s.setFld pTIME TIME0.SLEW_LIMIT_NS n else s
  else s

def slewWrite (s : Zone) (v : Word) : Zone :=
  let n := TIME0.SLEW_LIMIT_NS.get v
  if 16 ≤ n then s.setFld pTIME TIME0.SLEW_LIMIT_NS (min n s.jumpThresh) else s

def servoCfgWrite (s : Zone) (v : Word) : Zone :=
  let ppm := TIME0.SERVO_CFG_PHASE_PPM.get v
  let rc := TIME0.SERVO_CFG_REFUSE_COUNT.get v
  let s := s.when (decide (1 ≤ ppm ∧ ppm ≤ 200)) (·.setFld pTIME TIME0.SERVO_CFG_PHASE_PPM ppm)
  let s := s.when (decide (1 ≤ rc)) (·.setFld pTIME TIME0.SERVO_CFG_REFUSE_COUNT rc)
  let s := s.setFld pTIME TIME0.SERVO_CFG_RING (TIME0.SERVO_CFG_RING.get v)
  if TIME0.SERVO_CFG_SOURCE.get v = 3 ∨ TIME0.SERVO_CFG_SOURCE.get v = s.source then s.sourceCheck
  else s.selectSource (TIME0.SERVO_CFG_SOURCE.get v)

/-- Capture network time (R407). -/
def timeSnap (s : Zone) : Zone :=
  let t := s.time.net
  let s := (s.setFld pTIME TIME0.SNAP_NS_NS t.ns.toNat).setFld pTIME TIME0.SNAP_SEC_LO_SEC t.sec.toNat
  (s.setFld pTIME TIME0.SNAP_SEC_HI_FRAC (t.frac.toNat / 2 ^ 24)).setFld pTIME TIME0.SNAP_SEC_HI_SEC (t.sec.toNat / 2 ^ 32)

/-! ### Transmit-timestamp queues -/

def tsQueue (s : Zone) (p : Nat) : List TsqEntry := SMap.get (fun _ => []) s.tsq p

/-- Show the head of port p's queue (R383). -/
def showTsq (s : Zone) (p : Nat) : Zone :=
  let g := pTSQ p
  let q := s.tsQueue p
  let e := q.headD ⟨0, 0, 0, 0⟩
  let s := (s.setFld g TSQ.TSQ_STATUS_LEVEL q.length).setFlag g TSQ.HEAD_TAG_VALID !q.isEmpty
  let s := s.when q.isEmpty (·.setFld g TSQ.TSQ_STATUS_OVF 0)
  let s := (s.setFld g TSQ.HEAD_TAG_TAG e.tag.toNat).setFld g TSQ.HEAD_NS_NS e.ns.toNat
  let s := (s.setFld g TSQ.HEAD_SEC_LO_SEC e.sec.toNat).setFld g TSQ.HEAD_SEC_HI_SEC (e.sec.toNat / 2 ^ 32)
  s.setFld g TSQ.HEAD_SEC_HI_FRAC e.frac.toNat

/-- Append the transmit stamp of a tagged frame to port p's queue (R382, R384). -/
def tsqAppend (s : Zone) (p : Nat) (e : TsqEntry) : Zone :=
  let g := pTSQ p
  let q := s.tsQueue p
  if q.length < 16 then
    let s := { s with tsq := SMap.set (fun _ => []) s.tsq p (q ++ [e]) }
    (s.count g TSQ.TSQ_COUNTS_STAMPED).showTsq p
  else
    let s := (s.setFld g TSQ.TSQ_STATUS_OVF 1).event g TSQ.TSQ_EVENT_TSQ_OVF
    s.count g TSQ.TSQ_COUNTS_LOST

/-- Remove the head of port p's queue (R383). -/
def tsqPop (s : Zone) (p : Nat) : Zone :=
  match s.tsQueue p with
  | [] => s
  | _ :: r => ({ s with tsq := SMap.set (fun _ => []) s.tsq p r }).showTsq p

end Zone

/-! ### Commands -/

/-- A sync interval has passed without a valid Sync and Follow_Up of the instance (R385, R388; log entry 95). -/
def execSourceLost (gptpInstance : Fin 2) (st : State) : Result := st.runOn fun s =>
  let at_ := if gptpInstance = 0 then s.time.syncAt0 else s.time.syncAt1
  if 2 * at_ + 3 * s.syncInterval gptpInstance ≤ 2 * s.mono then
    let s := { s with time := if gptpInstance = 0 then { s.time with syncs0 := 0 } else { s.time with syncs1 := 0 } }
    (s.setFld pTIME (if gptpInstance = 0 then TIME0.INST_STATUS_LOCKED0 else TIME0.INST_STATUS_LOCKED1) 0).sourceCheck
  else s

/-- A rising edge on PPS_IN, stamped in ns of network time (R397, R398). -/
def execPpsEdge (stampNs : Nat) (st : State) : Result := st.runOn fun s =>
  let next := s.fld pTIME TIME0.PPS_NEXT_SEC_LO_SEC + s.fld pTIME TIME0.PPS_NEXT_SEC_HI_SEC * 2 ^ 32
  let o : Int := ((next * 1000000000 : Nat) : Int) - (stampNs + s.fld pTIME TIME0.PPS_CFG_DELAY_NS : Nat)
  if s.source ≠ 1 then s
  else if (s.tstate = TS.locked ∨ s.tstate = TS.holdover) ∧ s.fld pTIME TIME0.PPS_CFG_WINDOW * 1000 < o.natAbs then
    s.count pTIME TIME0.PPS_COUNTS_OUTSIDE_WINDOW
  else
    let s := { s with time := { s.time with ppsUsed := some s.mono } }
    let s := ((s.setFld pTIME TIME0.TIME_STATUS_PPS_SEEN 1).count pTIME TIME0.PPS_COUNTS_EDGES).sourceCheck
    let s := (s.setFld pTIME TIME0.PPS_NEXT_SEC_LO_SEC (next + 1)).setFld pTIME TIME0.PPS_NEXT_SEC_HI_SEC ((next + 1) / 2 ^ 32)
    s.measure o

/-- 1.5 s without a used edge (R398). -/
def execPpsLost (st : State) : Result := st.runOn fun s =>
  match s.time.ppsUsed with
  | some t =>
    if s.source = 1 ∧ s.past t (1500 * Zone.ticksPerMs) then
      let s := { s with time := { s.time with ppsUsed := none } }
      ((s.setFld pTIME TIME0.TIME_STATUS_PPS_SEEN 0).event pTIME TIME0.TIME_EVENT_PPS_LOST).sourceCheck
    else s
  | none => s

/-- Every 1 ms: the ticks counted against keeper B's oscillator, and whether the copies differed at a tick (R379). -/
def execIntegrityCheck (ticks : Nat) (mismatch : Bool) (st : State) : Result := st.runOn fun s =>
  if mismatch ∨ s.time.net ≠ s.time.copy ∨ ticks < 249750 ∨ 250250 < ticks then
    let was := s.flag pTIME TIME0.TIME_STATUS_INTEGRITY_FAULT
    let s := (s.setFld pTIME TIME0.TIME_STATUS_INTEGRITY_FAULT 1).event pTIME TIME0.TIME_EVENT_INTEGRITY
    if was then s else s.report Src.timeIntegrity 0
  else s

def execTsqPop (writer : Writer) (port : Fin 28) (st : State) : Result := st.runBy writer fun s =>
  if s.mayConfigure writer then s.tsqPop port.val else s

def execTimeSnap (writer : Writer) (st : State) : Result := st.runBy writer fun s =>
  if s.mayConfigure writer then s.timeSnap else s

def execServoSourceWrite (writer : Writer) (source : BitVec 2) (st : State) : Result := st.runBy writer fun s =>
  if s.mayConfigure writer && !s.locked pTIME then s.selectSource source.toNat else s

/-- 2 s without a measurement (R391). -/
def execForceStepTimeout (st : State) : Result := st.runOn fun s =>
  match s.time.waiting with
  | some w =>
    if w.due ≤ s.mono then
      ({ s with time := { s.time with waiting := none } }).answer 0x000C w.seq 0 (leBytes 4 1 ++ leBytes 8 0)
    else s
  | none => s

def execGlobalProfile (st : State) : Result := st.runOn fun s =>
  match s.dueGlobal 4 with
  | some k => (s.setFld (pZONE 7) ZONE7.PROFILE_REQ (s.slotWord k 5)).globalExecuted k
  | none => s

def execGlobalTableMark (st : State) : Result := st.runOn fun s =>
  match s.dueGlobal 5 with
  | some k =>
    let seen := match s.time.marked with
      | some (n, w) => if n = s.keeperSlots then w else s.rd markKey
      | none => s.rd markKey
    let s := { s with time := { s.time with marked := some (s.keeperSlots, seen) } }
    (s.setFldBit pFLEET TIME1.GLOBAL_MARK_MARK (s.slotWord k 5 % 16) true).globalExecuted k
  | none => s

end Sys2Proof.Machine
end

