-- ==== Sys2Proof/Machine/Queues.lean ====
section
/-! DEFINITION. Notices (R547 to R549) and the request and event queues between moorings and tables (R176 to R182, R551 to
R553, R677). -/

namespace Sys2Proof.Machine

open Reg

/-- The largest number of words of a queue (R176). -/
@[reducible] def queueWordMax : Nat := 65536

/-- Whether a source is the one that a queue is bound to (R177, R181). -/
def QBind.admits (b : QBind) (src : Source) : Bool := b.world == src.world && b.mooring == src.mooring

/-- How many posted writes and how many requests a direction of a hinge queues (R539). -/
def hingeRoom (posted : Bool) : Nat := if posted then 64 else 32

/-- The queue of a kind of transaction. -/
def HingeSt.queue (x : HingeSt) (posted : Bool) : List HingeTxn := if posted then x.posted else x.waiting

/-- A transaction takes its place in a queue, in order of acceptance (R540). -/
def HingeSt.accept (x : HingeSt) (t : HingeTxn) (posted : Bool) : HingeSt :=
  let t := { t with seq := x.next }
  if posted then { x with posted := x.posted ++ [t], next := x.next + 1 }
  else { x with waiting := x.waiting ++ [t], next := x.next + 1 }

namespace Zone

/-! ### The queues of the hinges (R539, R541) -/

def hinge (s : Zone) (h : Nat) : HingeSt := SMap.get (fun _ => HingeSt.init) s.hinges h

/-- A source as the WORLD and MOORING fields of a record word. -/
def srcBits (src : Source) : Nat := (if src.world = .secure then 4096 else 0) + src.mooring.toNat

/-- Show the head records and the outstanding requests (R560). -/
def showHinge (s : Zone) (h : Nat) (x : HingeSt) : Zone :=
  let p := pHINGE h
  let w (s : Zone) (f : Fld) (v : Nat) : Zone := s.wr (p + f.off) (BitVec.ofNat 32 v)
  let s := (s.setFld p HINGE.HSTATUS_NP_IN (x.reqs.filter fun r => r.txn.inbound).length).setFld p HINGE.HSTATUS_NP_OUT
    (x.reqs.filter fun r => !r.txn.inbound).length
  let s := match x.errs with
    | e :: _ => w (w (w s HINGE.ERR_ADDR_LO_ADDR e.addr) HINGE.ERR_ADDR_HI_ADDR (e.addr / 2 ^ 32)) HINGE.ERR_SRC_VALID
        (2 ^ 31 + e.code % 16 * 2 ^ 27 + b2n e.inbound * 2 ^ 26 + b2n e.notice * 2 ^ 25 + srcBits e.src)
    | [] => (w (w (w s HINGE.ERR_ADDR_LO_ADDR 0) HINGE.ERR_ADDR_HI_ADDR 0) HINGE.ERR_SRC_VALID 0).setFld p HINGE.HSTATUS_ERR_OVF 0
  match x.discs with
  | e :: _ => w (w (w s HINGE.DISC_ADDR_LO_ADDR e.addr) HINGE.DISC_ADDR_HI_ADDR (e.addr / 2 ^ 32)) HINGE.DISC_SRC_VALID
      (2 ^ 31 + e.code % 8 * 2 ^ 28 + b2n e.inbound * 2 ^ 26 + srcBits e.src)
  | [] => (w (w (w s HINGE.DISC_ADDR_LO_ADDR 0) HINGE.DISC_ADDR_HI_ADDR 0) HINGE.DISC_SRC_VALID 0).setFld p HINGE.HSTATUS_DISC_OVF 0

def setHinge (s : Zone) (h : Nat) (x : HingeSt) : Zone :=
  { s with hinges := SMap.set (fun _ => HingeSt.init) s.hinges h x }.showHinge h x

/-- A transaction enters the queue of its kind and direction, or waits at its initiator's port while the queue is full (R541). -/
def hingeEnter (s : Zone) (h : Nat) (t : HingeTxn) (posted : Bool) : Zone :=
  let x := s.hinge h
  let same (u : HingeTxn) : Bool := u.inbound == t.inbound
  if ((x.queue posted).filter same).length < hingeRoom posted && !(x.port.any fun p => p.posted == posted && same p.txn) then
    s.setHinge h (x.accept t posted)
  else s.setHinge h { x with port := x.port ++ [⟨t, posted, false⟩] }

/-! ### Notices -/

/-- A notice reaches its target (R548): its identity becomes pending at the interrupt file or the local controller. -/
def noticeArrives (s : Zone) (route : Word) : Zone :=
  let r := route.toNat
  let kind := r / 2 ^ 30
  let hart := r / 2 ^ 27 % 8
  let file := r / 2 ^ 24 % 8
  let ident := r % 2 ^ 11
  let mark (m : SMap Nat) (k : Nat) : SMap Nat := SMap.set (fun _ => 0) m k (SMap.get (fun _ => 0) m k ||| 2 ^ ident)
  if kind = 1 ∧ file ≤ 6 ∧ 1 ≤ ident then { s with imsic := mark s.imsic (hart * 8 + file) }
  else if kind = 2 ∧ ident < 64 then { s with localIrq := mark s.localIrq hart }
  else s

/-- Send the notice of a route word: a posted write of its identity (R547, R548). One to a local controller of the safety cluster
crosses H1 in the posted queue; one to an interrupt file stays on the application fabric. -/
def sendNotice (s : Zone) (route : Word) : Zone :=
  let r := route.toNat
  if r / 2 ^ 30 = 2 then
    s.hingeEnter 1 ⟨true, false, 0x1F2080000 + r / 2 ^ 27 % 8 * 0x1000, ⟨.secure, 0⟩, 4, leBytes 4 (r % 2 ^ 11), false, 0⟩ true
  else s.noticeArrives route

/-! ### Keepers and tables -/

def keeper (s : Zone) (k : Keeper) : KeeperSt := match k with | .A => s.keeperA | .B => s.keeperB
def setKeeper (s : Zone) (k : Keeper) (x : KeeperSt) : Zone :=
  match k with
  | .A => { s with keeperA := x }
  | .B => { s with keeperB := x }

/-- The table that a keeper runs. -/
def runTable (s : Zone) (k : Keeper) : Option Table :=
  match (s.keeper k).runs with
  | none => none
  | some false => (s.keeper k).half0
  | some true => (s.keeper k).half1

/-- The table in the half that a keeper does not run. -/
def resTable (s : Zone) (k : Keeper) : Option Table :=
  match (s.keeper k).runs with
  | some false => (s.keeper k).half1
  | _ => (s.keeper k).half0

def role (s : Zone) (k : Keeper) : Nat := s.fld (pKEEPER k) KEEPER.KSTATUS_ROLE

/-- Whether a keeper runs steps: it stands by, tries a table or holds the watch, and no fence is on it. -/
def executes (s : Zone) (k : Keeper) : Bool := decide (2 ≤ s.role k ∧ s.role k ≤ 4)

/-! ### Queues -/

def reqQ (s : Zone) (q : Nat) : ReqQueue := SMap.get (fun _ => ReqQueue.init) s.reqQs q
def evtQ (s : Zone) (q : Nat) : EvtQueue := SMap.get (fun _ => EvtQueue.init) s.evtQs q

/-- The fields of a queue's word in HINGE.2 (R563). -/
def reqFld (q lo w : Nat) : Fld := ⟨0x100 + 4 * q, lo, w⟩
def evtFld (q lo w : Nat) : Fld := ⟨0x500 + 4 * q, lo, w⟩

/-- Replace request queue q and show its level, the words not yet left (R563). -/
def setReqQ (s : Zone) (q : Nat) (x : ReqQueue) : Zone :=
  ({ s with reqQs := SMap.set (fun _ => ReqQueue.init) s.reqQs q x }).setFld (pHINGE 2) (reqFld q 0 13)
    (x.words.length + x.frame.length)

def setEvtQ (s : Zone) (q : Nat) (x : EvtQueue) : Zone :=
  ({ s with evtQs := SMap.set (fun _ => EvtQueue.init) s.evtQs q x }).setFld (pHINGE 2) (evtFld q 0 13) x.words.length

/-- What a keeper's own table declares for a queue. -/
def declares (s : Zone) (k : Keeper) (event : Bool) (q : Nat) : Option QBind :=
  match s.runTable k with
  | none => none
  | some t => (t.queues.find? fun d => d.event == event && d.queue == q).map (·.bind)

/-- Whether keeper k reads request queue q as bound: its own table declares the queue with the queue's binding (R677). -/
def bindsReq (s : Zone) (k : Keeper) (q : Nat) : Bool :=
  (s.declares k false q).isSome && s.declares k false q == (s.reqQ q).bind

def bindsEvt (s : Zone) (k : Keeper) (q : Nat) : Bool :=
  (s.declares k true q).isSome && s.declares k true q == (s.evtQ q).bind

/-- Whether keeper k holds back the words of request queue q until it has taken them (R180). -/
def holdsBack (s : Zone) (k : Keeper) (q : Nat) : Bool := s.executes k && s.bindsReq k q

def ReqPos (x : ReqQueue) (k : Keeper) : Nat := match k with | .A => x.posA | .B => x.posB

/-- How many of the words of request queue q have left: those that no keeper holds back any more (R180). -/
def leftWords (s : Zone) (q : Nat) : Nat :=
  let x := s.reqQ q
  min (if s.holdsBack .A q then x.posA else x.words.length) (if s.holdsBack .B q then x.posB else x.words.length)

/-- The words in request queue q: those that have not left, and those of a frame that is not complete (R180, R563). -/
def reqLevel (s : Zone) (q : Nat) : Nat := (s.reqQ q).words.length - s.leftWords q + (s.reqQ q).frame.length

/-- Remove the words that have left request queue q (R180). -/
def dropLeft (s : Zone) (q : Nat) : Zone :=
  let x := s.reqQ q
  let n := s.leftWords q
  s.setReqQ q { x with words := x.words.drop n, posA := x.posA - n, posB := x.posB - n }

/-- The words of request queue q that keeper k sees and has not taken (R155, R179). -/
def unread (s : Zone) (k : Keeper) (q : Nat) : List QWord :=
  if s.bindsReq k q then
    ((s.reqQ q).words.drop (ReqPos (s.reqQ q) k)).filter fun w => decide (w.mark < s.keeperSlots)
  else []

/-- Keeper k takes the next word of request queue q. -/
def takeReq (s : Zone) (k : Keeper) (q : Nat) : Option Word × Zone :=
  match s.unread k q with
  | [] => (none, s)
  | w :: _ =>
    let x := s.reqQ q
    let x := match k with | .A => { x with posA := x.posA + 1 } | .B => { x with posB := x.posB + 1 }
    (some w.word, (s.setReqQ q x).dropLeft q)

/-- Whether event queue q, as keeper k's table declares it, is full or not bound (R157, R677). -/
def evtFull (s : Zone) (k : Keeper) (q : Nat) : Bool :=
  match (s.evtQ q).bind with
  | some b => !s.bindsEvt k q || decide (b.depth ≤ (s.evtQ q).words.length)
  | none => true

/-- QPUSH of the keeper that holds the watch (R157, R549). -/
def pushEvt (s : Zone) (k : Keeper) (q : Nat) (w : Word) : Zone :=
  if s.evtFull k q then s.countBy (pHINGE 2) (evtFld q 24 8) 1
  else
    let x := s.evtQ q
    s.setEvtQ q { x with words := x.words ++ [w], noticeDue := x.noticeDue || x.words.isEmpty }

/-- The binding of every queue follows the table of the keeper that holds the watch (R182, R677): a queue whose binding is
the same keeps its words and read positions; any other is emptied, and its words count as dropped. -/
def rebind (s : Zone) (h : Keeper) : Zone :=
  let decls : List QDecl := match s.runTable h with | some t => t.queues | none => []
  let reqs : List Nat := s.reqQs.map (·.1) ++ (decls.filter fun d => !d.event).map (·.queue)
  let evts : List Nat := s.evtQs.map (·.1) ++ (decls.filter fun d => d.event).map (·.queue)
  let s := s.forEach reqs fun (s : Zone) (q : Nat) =>
    let want : Option QBind := s.declares h false q
    let x := s.reqQ q
    if x.bind = want then s
    else
      let s := s.countBy (pHINGE 2) (reqFld q 16 8) (s.reqLevel q)
      s.setReqQ q { ReqQueue.init with bind := want }
  s.forEach evts fun (s : Zone) (q : Nat) =>
    let want : Option QBind := s.declares h true q
    let x := s.evtQ q
    if x.bind = want then s
    else (s.countBy (pHINGE 2) (evtFld q 16 8) x.words.length).setEvtQ q { EvtQueue.init with bind := want }

/-- A keeper that comes to declare a queue with its binding takes the read position of the holder (R182); `old` is the module before
the tables began. -/
def joinQueues (s old : Zone) (k h : Keeper) : Zone :=
  if k = h then s
  else s.forEach (s.reqQs.map (·.1)) fun (s : Zone) (q : Nat) =>
    if s.bindsReq k q && !old.bindsReq k q then
      let x := s.reqQ q
      s.setReqQ q (match k with | .A => { x with posA := x.posB } | .B => { x with posB := x.posA })
    else s

/-! ### Posts and pops of moorings -/

/-- Answer a firmware access. -/
def respond (s : Zone) (code data : Nat) : Zone := { s with resp := ⟨code, data⟩ }

/-- Record the last refused post or pop of H2 (R563). -/
def queueRefused (s : Zone) (q : Nat) (src : Source) (code : Nat) : Zone :=
  let p := pHINGE 2
  let s := (s.setFld p HINGE.Q_LAST_REFUSED_CODE code).setFld p HINGE.Q_LAST_REFUSED_QUEUE q
  (s.setFlag p HINGE.Q_LAST_REFUSED_WORLD (decide (src.world = .secure))).setFld p HINGE.Q_LAST_REFUSED_MOORING src.mooring.toNat

/-- A refused word of a post, and its frame where it begins one. -/
def postRefused (s : Zone) (q : Nat) (src : Source) (code : Nat) (frame : Bool) : Zone :=
  let s := (s.queueRefused q src code).count (pHINGE 2) HINGE.Q_COUNTS_POSTS_REFUSED
  (if frame then s.countBy (pHINGE 2) (reqFld q 24 8) 1 else s).respond code 0

/-- The frame that a word completes, or starts, or carries on (R178, R552). -/
def frameWord (s : Zone) (q : Nat) (w : Word) (need : Nat) (words : List Word) (since : Nat) : Zone :=
  let x := s.reqQ q
  if need = 0 then
    (s.setReqQ q { x with words := x.words ++ (words ++ [w]).map fun v => ⟨v, s.keeperSlots⟩, frame := [], need := 0 }).respond 0 0
  else (s.setReqQ q { x with frame := words ++ [w], need := need, frameAt := since }).respond 0 0

/-- The words free in request queue q (R180). -/
def reqFree (s : Zone) (q : Nat) : Nat :=
  match (s.reqQ q).bind with
  | some b => b.depth - s.reqLevel q
  | none => 0

/-- A word of a source that request queue q does not admit: a refused first word refuses the words that it announces, and the frame
counts once (R177, R552; log entry 90). -/
def alienWord (s : Zone) (q : Nat) (src : Source) (w : Word) : Zone :=
  let x := s.reqQ q
  let left := ((x.aliens.find? fun e => e.1 == src).map (·.2)).getD 0
  let next := if left = 0 then w.toNat / 2 ^ 30 else left - 1
  let others := x.aliens.filter fun e => e.1 != src
  let s := s.setReqQ q { x with aliens := if next = 0 then others else (src, next) :: others }
  s.postRefused q src 0xA (left == 0)

/-- A write to POST of request queue q, past its region check (R177, R178, R552). -/
def postWord (s : Zone) (q : Nat) (src : Source) (w : Word) : Zone :=
  let s := s.dropLeft q
  let x := s.reqQ q
  match x.bind with
  | none => s.alienWord q src w
  | some b =>
    if !b.admits src then s.alienWord q src w
    else if x.refuse ≠ 0 then
      (s.setReqQ q { x with refuse := x.refuse - 1 }).postRefused q src 9 false
    else if x.need ≠ 0 then s.frameWord q w (x.need - 1) x.frame x.frameAt
    else
      let n := w.toNat / 2 ^ 30
      if s.reqFree q < n + 1 then
        (s.setReqQ q { x with refuse := n }).postRefused q src 9 true
      else s.frameWord q w n [] s.mono

/-- A read of POP of event queue q, past its region check (R181, R553). -/
def popEvt (s : Zone) (q : Nat) (src : Source) : Zone :=
  let x := s.evtQ q
  let refused (s : Zone) : Zone :=
    ((s.queueRefused q src 0xA).count (pHINGE 2) HINGE.Q_COUNTS_POPS_REFUSED).respond 0xA 0
  match x.bind with
  | none => refused s
  | some b =>
    if !b.admits src then refused s
    else match x.words with
      | [] => s.respond 0xB 0
      | w :: r => (s.setEvtQ q { x with words := r }).respond 0 w.toNat

end Zone

/-! ### Commands -/

/-- 100 µs after its first word, an incomplete frame is discarded and counted (R178). -/
def execFrameTimeout (queue : Fin 256) (st : State) : Result := st.runOn fun s =>
  let q := queue.val
  let x := s.reqQ q
  if x.need ≠ 0 ∧ s.past x.frameAt (100 * Zone.ticksPerUs) then
    (s.setReqQ q { x with frame := [], need := 0 }).countBy (pHINGE 2) (Zone.reqFld q 16 8) 1
  else s

/-- An event queue that has gone from empty to non-empty sends the notice of its route (R549). -/
def execEventQueueNotice (queue : Fin 256) (st : State) : Result := st.runOn fun s =>
  let q := queue.val
  let x := s.evtQ q
  if x.noticeDue then (s.setEvtQ q { x with noticeDue := false }).sendNotice (s.rd (pHINGE 2 + 0x900 + 4 * q)) else s

end Sys2Proof.Machine
end

