-- ==== Sys2Proof/Machine/Keepers.lean ====
section
/-! DEFINITION. The two keepers: claims and beacons (R203 to R207), the claim check at every output stage (R208 to R210),
self-check failures, fences and fail-over (R212 to R219), and the mirror link (R220 to R224). -/

namespace Sys2Proof.Machine

open Reg

/-! The codes of KSTATUS.ROLE (R236). -/
namespace Role
@[reducible] def stopped : Nat := 0
@[reducible] def starting : Nat := 1
@[reducible] def standby : Nat := 2
@[reducible] def watch : Nat := 3
@[reducible] def trial : Nat := 4
@[reducible] def failed : Nat := 5
@[reducible] def fenced : Nat := 6
end Role

/-- The claim of a keeper at a priority (R203). -/
def claimOf (k : Keeper) (prio : Nat) : Nat := prio * 2 + k.idx

/-- The claim-checking stages (R115): LOAD 0 to 47, CHAR 0 to 15, CAN 0 to 15, SWITCH 1 to 32. -/
@[reducible] def stageCount : Nat := 112

/-- The stage of a page, none where the page carries none (R115). -/
def stageOf (p : Nat) : Option Nat :=
  let ch := keyChan p
  match keyBank p with
  | 1 => if ch < 48 then some ch else none
  | 2 => if ch < 16 then some (48 + ch) else none
  | 6 => if ch < 16 then some (64 + ch) else none
  | 5 => if 1 ≤ ch ∧ ch ≤ 32 then some (79 + ch) else none
  | _ => none

/-! ### Check codes -/

/-- One bit of a CRC-8 of polynomial 0x2F. -/
def crc8Bit (c : Nat) (bit : Bool) : Nat :=
  let top := decide (128 ≤ c)
  let c := c * 2 % 256
  if top != bit then c ^^^ 0x2F else c

/-- The CRC-8 of a beacon over bits [23:0], the highest bit first (R206). -/
def crc8 (w : Nat) : Nat :=
  255 - (List.range 24).foldl (fun c i => crc8Bit c (w.testBit (23 - i))) 255

/-- One byte of the CRC-32 of IEEE 802.3. -/
def crc32Byte (c : Nat) (b : Nat) : Nat :=
  (List.range 8).foldl (fun c _ => if c % 2 = 1 then (c / 2) ^^^ 0xEDB88320 else c / 2) (c ^^^ b)

/-- The CRC-32 of IEEE 802.3 over bytes. -/
def crc32 (l : List Byte) : Word :=
  BitVec.ofNat 32 ((l.foldl (fun c b => crc32Byte c b.toNat) 0xFFFFFFFF) ^^^ 0xFFFFFFFF)

/-- A beacon frame (R206). -/
def beaconFrame (tag slot : Nat) (trial watch fail : Bool) (claim : Nat) : Word :=
  let low := tag % 256 * 2 ^ 16 + slot % 16 * 2 ^ 12 + b2n trial * 2 ^ 11 + b2n watch * 2 ^ 10 + b2n fail * 2 ^ 8 + claim % 256
  BitVec.ofNat 32 (crc8 low * 2 ^ 24 + low)

/-- Whether a frame is a valid beacon of slot `slot` (R207). -/
def beaconValid (f : Word) (slot : Nat) : Bool :=
  let n := f.toNat
  n / 2 ^ 24 == crc8 (n % 2 ^ 24) && n / 2 ^ 12 % 16 == slot % 16 && decide (n / 2 ^ 8 % 4 ≤ 1)

/-- The closing frame of the mirror words of a slot (R220): words, groups, and the CRC-32. R220 does not say which bytes of a word the CRC
covers: the model takes the four of its value, the lowest first, without chart address and group number (log entry 91). -/
def closingFrame (words : List (Option Nat × Nat × Word)) (groups : Nat) : Nat × Nat × Word :=
  (words.length, groups, crc32 (words.flatMap fun w => leBytes 4 w.2.2.toNat))

namespace Zone

/-! ### Keeper pages -/

def missLimit (s : Zone) (k : Keeper) : Nat := s.fld (pKEEPER k) KEEPER.CONFIG_MISS_LIMIT
def setRole (s : Zone) (k : Keeper) (r : Nat) : Zone := s.setFld (pKEEPER k) KEEPER.KSTATUS_ROLE r
def claim (s : Zone) (k : Keeper) : Nat := s.fld (pKEEPER k) KEEPER.KSTATUS_CLAIM
def fencedNow (s : Zone) (k : Keeper) : Bool := s.flag (pKEEPER k) KEEPER.FENCE_FENCED

/-- Whether a keeper is failed or fenced (R636, R680). -/
def keeperDown (s : Zone) (k : Keeper) : Bool := decide (s.role k = Role.failed ∨ s.role k = Role.fenced) || s.fencedNow k

/-- Whether a keeper can deliver anything: it executes, and no fence gates its port (R213, R215). -/
def portOpen (s : Zone) (k : Keeper) : Bool := s.executes k && !s.fencedNow k

/-- TABLE_TAG of the table that a keeper runs; of a keeper that runs none the spec gives no tag, and it sends 0 (R206; log entry 91). -/
def tableTag (s : Zone) (k : Keeper) : Nat :=
  match s.runTable k with
  | some t => (t.id ^^^ t.version).toNat % 256
  | none => 0

/-! ### Failure, fences -/

/-- The detail of KEEPER_FAIL and FENCE_HARD (R640). -/
def keeperDetail (s : Zone) (k : Keeper) : Word := BitVec.ofNat 32 (k.idx + s.fld (pKEEPER k) KEEPER.SELF_CHECK_CAUSE * 256)

/-- Neither keeper can hold the watch (R216): KEEPER_BOTH, once until the next START. -/
def checkBoth (s : Zone) : Zone :=
  let out (k : Keeper) : Bool := s.keeperDown k || decide (s.role k = Role.stopped)
  if out .A && out .B && !s.safety.latched.getLsbD Src.keeperBoth then
    let s := s.report Src.keeperBoth 0
    { s with safety := { s.safety with latched := s.safety.latched ||| (1#32 <<< Src.keeperBoth) } }
  else s

def setVerdict (s : Zone) (k : Keeper) (t : Option Nat) : Zone :=
  match k with
  | .A => { s with safety := { s.safety with verdictA := t } }
  | .B => { s with safety := { s.safety with verdictB := t } }

def verdict (s : Zone) (k : Keeper) : Option Nat := match k with | .A => s.safety.verdictA | .B => s.safety.verdictB

/-- A self-check failure (R213): the keeper stops issuing and stays failed until the next START. -/
def selfCheck (s : Zone) (k : Keeper) (cause : Nat) : Zone :=
  if s.role k = Role.stopped ∨ s.role k = Role.failed ∨ s.role k = Role.fenced then s
  else
    let s := (s.setRole k Role.failed).setFld (pKEEPER k) KEEPER.SELF_CHECK_CAUSE cause
    let s := (s.setKeeper k { s.keeper k with inStep := false, group := [] }).setVerdict k (some s.mono)
    (s.report Src.keeperFail (s.keeperDetail k)).checkBoth

/-- Assert the fence on keeper k: its ROLE becomes FENCED at once (R215). -/
def fence (s : Zone) (k : Keeper) : Zone :=
  if s.fencedNow k then s
  else
    let s := (s.setFld (pKEEPER k) KEEPER.FENCE_FENCED 1).setRole k Role.fenced
    (s.setKeeper k { s.keeper k with fenceAt := some s.mono, line := none, sent := none, inStep := false, group := [] }).checkBoth

/-- The fence on keeper k confirms (R215). -/
def confirmFence (s : Zone) (k : Keeper) : Zone := s.setFld (pKEEPER k) KEEPER.FENCE_CONFIRMED 1

/-- A watch change that waits is dropped, and its command ends without a further response (R232). -/
def dropSched (s : Zone) : Zone :=
  let s := match s.watch.sched with
    | some ⟨some (code, seq), _, _⟩ =>
      { s with supv := { s.supv with executing := s.supv.executing.filter fun e => !(e.code == code && e.seq == seq) } }
    | _ => s
  let s := s.setFld (pZONE 1) KEEPER.WATCH_STATE_DEFERRED 0
  { s with watch := { s.watch with sched := none, swap := none } }

/-- Keeper i declares the other keeper failed (R214 to R217): it fences it at once; where it holds the watch it keeps it, and
otherwise it begins to take it. -/
def declareFailed (s : Zone) (i : Keeper) : Zone :=
  let j := i.other
  let s := if s.role j = Role.failed then s else s.report Src.keeperFail (s.keeperDetail j)
  let held := s.holdsWatch i
  let was := s.holder
  let s := (s.fence j).dropSched
  if held then s.setFld (pKEEPER i) KEEPER.KSTATUS_OTHER_LOST 1
  else if was = some j ∨ s.fld (pZONE 1) KEEPER.WATCH_STATE_HOLDER = j.idx then s.setKeeper i { s.keeper i with taking := true }
  else s

/-- At a mark, keeper i judges the other keeper's beacon of the slot before (R207, R214); at its first mark there was none. -/
def judgeOther (s : Zone) (i : Keeper) : Zone :=
  let x := s.keeper i
  if x.markAt.isNone then s
  else
    let j := i.other
    let heard := x.other.slot == some x.slotNo
    let s := if heard then s.setKeeper i { x with other := { x.other with missed := 0 } }
      else (s.setKeeper i { x with other := { x.other with missed := x.other.missed + 1, valid := 0, same := 0 } }).count
        (pKEEPER i) KEEPER.BEACON_MISSED
    let o := (s.keeper i).other
    if (heard && o.fail || decide (s.missLimit i ≤ o.missed)) && !s.fencedNow j && decide (s.role j ≠ Role.stopped) &&
        decide (1 ≤ s.role i ∧ s.role i ≤ 4) && !s.fencedNow i then s.declareFailed i
    else s

/-! ### The mirror link -/

/-- Whether the mirror link of keeper k is up (R223). -/
def mirrorUp (s : Zone) (k : Keeper) : Bool :=
  let x := s.keeper k
  let recent (t : Option Nat) : Bool := match t with | some u => decide (x.slotNo ≤ u + s.missLimit k) | none => false
  if s.holdsWatch k then recent x.other.slot && !s.fencedNow k.other else recent x.lastFrame

def showMirror (s : Zone) (k : Keeper) : Zone := s.setFlag (pKEEPER k) KEEPER.KSTATUS_MIRROR_UP (s.mirrorUp k)

/-- The mirror words that the keeper which holds the watch sends in a slot (R220, R222). -/
def mirrorWords (s : Zone) (k : Keeper) : List (Option Nat × Nat × Word) :=
  let x := s.keeper k
  let groups := ((List.range x.groups.length).zip x.groups).flatMap fun g => g.2.map fun w => (some g.1, w.1, w.2)
  let refresh := (List.range 8).map fun i =>
    let a := 0x3800 + 8 * (x.slotNo % 256) + i
    ((none : Option Nat), a, SMap.get (fun _ => 0) x.chart a)
  groups ++ refresh

/-- Whether a standby in trial applies a mirror word at an address (R224). -/
def mirrorTakes (s : Zone) (k : Keeper) (a : Nat) : Bool :=
  if s.role k = Role.trial then
    match s.runTable k with
    | some t => t.mirror.any fun r => r.carry && decide (r.start ≤ a ∧ a < r.start + r.count)
    | none => false
  else true

/-- Whether the received words of slot `slot` match their closing frame (R221). -/
def mirrorMatches (slot : Nat) (f : MirrorFrame) : Bool :=
  decide (f.slot = slot) && decide (f.closing = some (closingFrame f.words ((f.words.filterMap fun w => w.1).eraseDups).length))

/-- The standby checks the words of the slot before against the closing frame, and applies or discards them (R221, R222,
R224). -/
def mirrorApply (s : Zone) (k : Keeper) : Zone :=
  let x := s.keeper k
  match x.rx.filter (mirrorMatches x.slotNo) with
  | some f =>
    let words : List (Option Nat × Nat × Word) := (f.words.filter fun w => w.1.isNone) ++ f.words.filter fun w => w.1.isSome
    let chart := words.foldl (fun m w => if s.mirrorTakes k w.2.1 then SMap.set (fun _ => 0) m w.2.1 w.2.2 else m) x.chart
    let run := if x.slotNo % 256 = 0 then 1 else if x.passRun = 0 then 0 else x.passRun + 1
    let full := decide (x.slotNo % 256 = 255 ∧ run = 256)
    let s := s.setKeeper k { x with chart := chart, rx := none, lastFrame := some x.slotNo, passRun := if full then 0 else run }
    if full then (s.count (pKEEPER k) KEEPER.MIRROR_STATUS_PASSES).setFld (pKEEPER k) KEEPER.KSTATUS_MIRROR_STALE 0 else s
  | none =>
    let s := s.setKeeper k { x with rx := none, passRun := 0 }
    (s.count (pKEEPER k) KEEPER.MIRROR_STATUS_DISCARD).setFld (pKEEPER k) KEEPER.KSTATUS_MIRROR_STALE 1

/-! ### Beacons -/

/-- What keeper k announces in its beacon of this slot: the claim of the next slot and WATCH; it holds the watch at the next
mark where it takes it (R204, R205, R217, R227). A failed keeper announces 0: R213 says CLAIM 0, where the table of R203 has 0x01 for
a failed keeper B (log entry 91). -/
def announce (s : Zone) (k : Keeper) : Nat × Bool × KeeperSt :=
  let x := s.keeper k
  match s.role k with
  | 2 | 4 =>
    if x.taking && s.flag (pKEEPER k.other) KEEPER.FENCE_CONFIRMED then (claimOf k 110, true, { x with holdNext := true })
    else if s.watch.swap.isSome then (claimOf k 110, true, x)
    else (claimOf k 20, false, x)
  | 3 =>
    if s.watch.swap.isSome then (claimOf k 20, false, x)
    else if 0 < x.high then (claimOf k 110, true, { x with high := x.high - 1 })
    else (claimOf k 100, true, x)
  | 5 => (0, false, x)
  | _ => (claimOf k 0, false, x)

/-- Cycle 384 of the slot: keeper k puts its beacon and, with the watch, its mirror words and closing frame on its lines
(R206, R220, R222). A fence gates both (R215). -/
def sendBeacon (s : Zone) (k : Keeper) : Zone :=
  let x := s.keeper k
  if !x.beaconDue then s
  else
    let (c, w, y) := s.announce k
    let f := beaconFrame (s.tableTag k) x.slotNo (decide (s.role k = Role.trial)) w (decide (s.role k = Role.failed)) c
    let quiet := s.fencedNow k || decide (s.role k = Role.stopped)
    let words := s.mirrorWords k
    let sent : Option MirrorFrame :=
      if s.holdsWatch k && !s.fencedNow k then some ⟨x.slotNo, words, some (closingFrame words x.groups.length)⟩ else none
    s.setKeeper k { y with announced := c, beaconDue := false, line := if quiet then none else some f, sent := sent, groups := [] }

/-- What a frame tells a receiver: slot and claim, where it is valid. -/
def hear (f : Word) (slot : Nat) : Option Heard := if beaconValid f slot then some ⟨slot, f.toNat % 256⟩ else none

def stage (s : Zone) (i : Nat) : StageSt := SMap.get (fun _ => StageSt.init) s.stages i
def setStage (s : Zone) (i : Nat) (x : StageSt) : Zone := { s with stages := SMap.set (fun _ => StageSt.init) s.stages i x }

/-- Stage i takes keeper k's frame. -/
def stageHear (s : Zone) (k : Keeper) (slot : Nat) (f : Word) (i : Nat) : Zone :=
  match hear f slot with
  | none => s
  | some h =>
    let x := s.stage i
    s.setStage i (match k with
      | .A => { x with heardA := (h :: x.heardA).take 2, lastHeard := some s.mono }
      | .B => { x with heardB := (h :: x.heardB).take 2, lastHeard := some s.mono })

/-- The other keeper takes keeper k's frame. -/
def keeperHear (s : Zone) (k : Keeper) (slot : Nat) (f : Word) : Zone :=
  let i := k.other
  match hear f slot with
  | none => s
  | some h =>
    let x := s.keeper i
    let same := decide (f.toNat / 2 ^ 16 % 256 = s.tableTag i)
    let o := { x.other with slot := some slot, fail := decide (f.toNat / 2 ^ 8 % 4 = 1), valid := min 64 (x.other.valid + 1),
                            same := if same then min 64 (x.other.same + 1) else 0 }
    (s.setKeeper i { x with other := o }).setFld (pKEEPER i) KEEPER.BEACON_OTHER_CLAIM h.claim

/-! ### The claim check -/

/-- The slot in which a stage expects a beacon and a command arrives: that of the last mark of the time base, and with no such mark that
of the keeper whose mark came last (R207, R209; log entry 93). -/
def stageSlot (s : Zone) : Nat :=
  let based (k : Keeper) : Bool := (s.keeper k).markAt.isSome && !s.flag (pKEEPER k) KEEPER.KSTATUS_MARK_LOCAL
  let latest : Keeper := if (s.keeper .A).markAt.getD 0 < (s.keeper .B).markAt.getD 0 then .B else .A
  (s.keeper (match based .A, based .B with
    | true, false => .A
    | false, true => .B
    | _, _ => latest)).slotNo

/-- Why a stage refuses a command of keeper k, none where it accepts it (R208, R209): the number of the condition. -/
def claimRefusal (s : Zone) (i : Nat) (k : Keeper) : Option Nat :=
  let x := s.stage i
  let slot := (s.keeper k).slotNo
  let c := s.claim k
  let (heard, accepted) := match k with | .A => (x.heardB, x.acceptedB) | .B => (x.heardA, x.acceptedA)
  let h := match heard.filter fun h => decide (h.slot + 2 = slot ∨ h.slot + 1 = slot) with
    | [] => 0
    | a :: r => (r.foldl (fun m b => if m.slot < b.slot then b else m) a).claim
  if c / 2 < 100 then some 1
  else if c ≤ h then some 2
  else if accepted.any (fun a => slot < a) then some 3
  else if slot + 1 < s.stageSlot then some 4
  else none

/-- A refusal is counted against the issuing keeper (R210). -/
def countRefusal (s : Zone) (k : Keeper) (cond : Nat) : Zone :=
  let c := s.claim k
  let s := s.count (pKEEPER k) (if c / 2 = 100 ∨ c / 2 = 110 then KEEPER.CLAIM_REFUSED_WATCH else KEEPER.CLAIM_REFUSED_SHADOW)
  if cond = 3 ∨ cond = 4 then s.count (pKEEPER k) KEEPER.CLAIM_REFUSED_LATE else s

/-- The stage has accepted a command that keeper k issued in its slot (R209, R211). -/
def stageAccept (s : Zone) (i : Nat) (k : Keeper) : Zone :=
  let x := s.stage i
  let slot := some (s.keeper k).slotNo
  s.setStage i (match k with
    | .A => { x with acceptedA := slot, silent := false }
    | .B => { x with acceptedB := slot, silent := false })

end Zone

/-! ### Commands -/

/-- The checker of a keeper detects a cause of R212. -/
def execSelfCheckFailure (keeper : Keeper) (cause : Fin 7) (st : State) : Result := st.runOn fun s =>
  s.selfCheck keeper (cause.val + 1)

/-- Cycle 384 with steps unfinished (R120). -/
def execBudgetOverrun (keeper : Keeper) (st : State) : Result := st.runOn fun s =>
  if s.executes keeper then s.selfCheck keeper 3 else s

/-- The frame on a keeper's claim line reaches the stages and the other keeper (112) at the end of its slot; those in
`disturbed` receive it with the bits of `errors` flipped. Each receiver holds SLOT_TAG against the slot in which it expects the frame
(R206, R207). -/
def execBeaconReceive (sender : Keeper) (errors : Word) (disturbed : List Nat) (st : State) : Result := st.runOn fun s =>
  let s := s.sendBeacon sender
  match (s.keeper sender).line with
  | none => s
  | some f =>
    let slot := s.stageSlot
    let at_ (i : Nat) : Word := if disturbed.contains i then f ^^^ errors else f
    let s := s.forEach (List.range stageCount) fun s i => s.stageHear sender slot (at_ i) i
    let s := s.keeperHear sender (s.keeper sender.other).slotNo (at_ stageCount)
    s.setKeeper sender { s.keeper sender with line := none }

/-- The standby's mirror receiver takes the words and the closing frame of the slot: words with flipped bits, by their
position in sending order, and the closing frame unless it is lost (R220, R221). -/
def execMirrorFrameReceive (keeper : Keeper) (flips : List (Nat × Word)) (closingLost : Bool) (st : State) : Result :=
  st.runOn fun s =>
    let s := s.sendBeacon keeper.other
    match (s.keeper keeper.other).sent with
    | none => s
    | some f =>
      if s.holdsWatch keeper then s
      else
        let words := (List.range f.words.length).zip f.words |>.map fun e =>
          (e.2.1, e.2.2.1, (flips.filter fun x => x.1 == e.1).foldl (fun w x => w ^^^ x.2) e.2.2.2)
        s.setKeeper keeper { s.keeper keeper with
          rx := some ⟨f.slot, words, if closingLost then none else f.closing⟩ }

/-- The fence on a keeper confirms (R215). -/
def execFenceConfirm (keeper : Keeper) (st : State) : Result := st.runOn fun s =>
  if s.fencedNow keeper ∧ s.flag (pKEEPER keeper) KEEPER.FENCE_CONFIRMED = false then s.confirmFence keeper else s

/-- 10 µs after a fence was asserted without confirming (R215). -/
def execHardIsolation (keeper : Keeper) (st : State) : Result := st.runOn fun s =>
  match (s.keeper keeper).fenceAt with
  | some t =>
    if s.fencedNow keeper ∧ s.flag (pKEEPER keeper) KEEPER.FENCE_CONFIRMED = false ∧ s.past t (10 * Zone.ticksPerUs) then
      let s := (s.setFld (pKEEPER keeper) KEEPER.FENCE_HARD 1).confirmFence keeper
      s.report Src.fenceHard (s.keeperDetail keeper)
    else s
  | none => s

/-- 10 µs after a FAIL verdict without a confirmed fence on its sender (R635). -/
def execMonitorFence (keeper : Keeper) (st : State) : Result := st.runOn fun s =>
  match s.verdict keeper with
  | some t =>
    if s.past t (10 * Zone.ticksPerUs) ∧ s.flag (pKEEPER keeper) KEEPER.FENCE_CONFIRMED = false then
      ((s.setVerdict keeper none).fence keeper).count pSAFE SAFE0.MISC_COUNTS_MONITOR_FENCES
    else s
  | none => s

end Sys2Proof.Machine
end

