-- ==== Sys2Proof/Machine/Switch.lean ====
section
/-! DEFINITION. The switch core's state as operations: statistics counters, virtual output queues and the buffer (R337 to
R341, R368, R369), stream gates (R334), meters (R335), WRED (R353), sequence recovery (R359), ageing and link state (R355, R356), and the table windows (R330, R331, R373). -/

namespace Sys2Proof.Machine

open Reg

/-! ### Statistics counters (R368, R369) -/

/-- Keys of the statistics counters: those of a switch port at the offsets of its page (R372), and those that no page shows. -/
def statPort (p i : Nat) : Nat := p * 0x1000 + 0x300 + 8 * i
def statClass (p t i : Nat) : Nat := p * 0x1000 + 0x400 + 0x50 * t + 8 * i
def statHost (p i : Nat) : Nat := p * 0x1000 + 0x708 + 8 * i
def statStream (n i : Nat) : Nat := 0x100000 + n * 8 + i
def statRecov (f i : Nat) : Nat := 0x200000 + f * 8 + i
def statMirror (m i : Nat) : Nat := 0x300000 + m * 8 + i
def statSecy (p i : Nat) : Nat := 0x400000 + p * 8 + i
def statAvtp (i : Nat) : Nat := 0x500000 + i

/-! The port counters of R369 in the order listed. -/
namespace PortStat
@[reducible] def rxFrames : Nat := 0
@[reducible] def rxOctets : Nat := 1
@[reducible] def rxFcsErr : Nat := 2
@[reducible] def rxUndersize : Nat := 3
@[reducible] def rxOversize : Nat := 4
@[reducible] def rxFiltered : Nat := 5
@[reducible] def fdbMiss : Nat := 6
@[reducible] def ingressFull : Nat := 7
@[reducible] def txFrames : Nat := 8
@[reducible] def txOctets : Nat := 9
@[reducible] def ctBad : Nat := 10
end PortStat

/-! The class counters of R369 in the order listed. -/
namespace ClassStat
@[reducible] def enqueued : Nat := 0
@[reducible] def sent : Nat := 1
@[reducible] def admitDrop : Nat := 2
/-- WRED_DROP_G; the yellow and red ones follow. -/
@[reducible] def wredDrop : Nat := 3
@[reducible] def aged : Nat := 6
@[reducible] def flush : Nat := 7
@[reducible] def linkDownDrop : Nat := 8
end ClassStat

/-! The stream counters of R369 in the order listed. -/
namespace StreamStat
@[reducible] def matched : Nat := 0
@[reducible] def sduDrop : Nat := 1
@[reducible] def gateDrop : Nat := 2
/-- GREEN; YELLOW and RED follow. -/
@[reducible] def green : Nat := 3
@[reducible] def redDrop : Nat := 6
end StreamStat

/-! The recovery counters of R359 in the order listed. -/
namespace RecovStat
@[reducible] def passed : Nat := 0
@[reducible] def discarded : Nat := 1
@[reducible] def outOfOrder : Nat := 2
@[reducible] def lost : Nat := 3
@[reducible] def rogue : Nat := 4
@[reducible] def resets : Nat := 5
end RecovStat

/-! The MACsec counters of R362 in the order listed, and OUT_PKTS_PN_EXHAUSTED. -/
namespace SecStat
@[reducible] def inOk : Nat := 0
@[reducible] def inInvalid : Nat := 1
@[reducible] def inNotValid : Nat := 2
@[reducible] def inLate : Nat := 3
@[reducible] def inNoSa : Nat := 4
@[reducible] def outProtected : Nat := 5
@[reducible] def outEncrypted : Nat := 6
@[reducible] def pnExhausted : Nat := 7
end SecStat

namespace Zone

/-- Raise a statistics counter by n, saturating at 64 bits. -/
def statBy (s : Zone) (k n : Nat) : Zone :=
  s.sw fun w => { w with stats := SMap.set (fun _ => 0) w.stats k (satU 64 (SMap.get (fun _ => 0) w.stats k + n)) }
def stat (s : Zone) (k : Nat) : Zone := s.statBy k 1
def statVal (s : Zone) (k : Nat) : Nat := SMap.get (fun _ => 0) s.switch.stats k

/-- A refused configuration write (R371). -/
def swCfgReject (s : Zone) (p : Nat) : Zone :=
  (s.event (pSWP p) SWP.PORT_EVENT_CFG_REJECT).count pSW SW0.MISC_CFG_REJECT

/-! ### Virtual output queues and the buffer (R337, R338) -/

/-- The cells of the admitted copies of egress queue (e, t): occ of R338. -/
def occ (s : Zone) (e t : Nat) : Nat := (((s.queueCopies e t).filter fun x => !x.2.waiting).map fun x => x.2.cells).sum

/-- ΣGUAR over all queues (R337). -/
def guarSum (s : Zone) : Nat := ((List.range 32).map fun p => ((List.range 8).map fun t => s.guar p t).sum).sum

/-- The queues that hold a copy, as egress port and class. -/
def usedQueues (s : Zone) : List (Nat × Nat) := (s.switch.voqs.map fun x => (x.1 / 256, x.1 / 32 % 8)).dedup

/-- The shared cells that the copies of an egress queue are charged (R338, R340). -/
def sharedOf (s : Zone) (e t : Nat) : Nat :=
  (s.occ e t - s.guar e t) + (((s.queueCopies e t).filter fun x => x.2.waiting).map fun x => x.2.cells).sum

/-- The free cells of the shared pool (R337). -/
def bufFree (s : Zone) : Nat :=
  131072 - 4608 - s.guarSum - ((s.usedQueues.map fun q => s.sharedOf q.1 q.2).sum)

/-- Show the buffer's registers (R340, R370, R371); POOL_EMPTY when the pool reaches 0 free cells. -/
def showBuf (s : Zone) : Zone :=
  let free := s.bufFree
  let s := (s.setFld pSW SW0.BUF_GUAR_SUM s.guarSum).when
    (decide (free = 0 ∧ s.fld pSW SW0.BUF_FREE_FREE ≠ 0)) fun s => s.event pSW SW0.BUF_EVENT_POOL_EMPTY
  let s := s.setFld pSW SW0.BUF_FREE_FREE free
  s.forEach (List.range 32) fun (s : Zone) (i : Nat) =>
    s.setFld (pSWP i) SWP.WAIT_CELLS_CELLS
      ((s.usedQueues.map fun q => (((s.voq i q.1 q.2).filter fun c => c.waiting).map fun c => c.cells).sum).sum)

/-- The admission rule of R338. -/
def admits (free guar alpha occ c : Nat) : Bool :=
  let own := occ - guar
  let want := (occ + c - guar) - own
  decide (want = 0 ∨ (want ≤ free ∧ own + want ≤ free * 2 ^ alpha / 8))

/-- Whether R338 admits a copy of c cells to egress queue (e, t). -/
def admission (s : Zone) (e t c : Nat) : Bool :=
  admits s.bufFree (s.guar e t) (s.fld (pSWP e) (SWP.TC_CFG_ALPHA.nth 4 t)) (s.occ e t) c

/-- Whether a copy of c cells from ingress port i may wait (R340). -/
def mayWait (s : Zone) (i c : Nat) : Bool :=
  decide (s.fld (pSWP i) SWP.WAIT_CELLS_CELLS + c ≤ s.fld (pSWP i) SWP.INGRESS_LIMIT_CELLS ∧ c ≤ s.bufFree)

/-! ### WRED (R353) -/

/-- The next value of a port's generator: a Fibonacci LFSR with taps 16, 14, 13 and 11 (log entry 41). -/
def lfsrStep (l : Nat) : Nat :=
  l / 2 + 0x8000 * b2n (((l.testBit 0 != l.testBit 2) != l.testBit 3) != l.testBit 5)

def lfsrSeed (p : Nat) : Nat := (0xACE1 + p) % 65536

/-- One WRED decision for a copy of a colour to external port p, class t: whether it drops, and the state after (R353). -/
def wred (s : Zone) (p t colour : Nat) : Bool × Zone :=
  let pg := pSWP p
  let old : Int := (SMap.get (fun _ => 0) s.switch.wred (p * 8 + t) : Nat)
  let w := s.fld pg (SWP.WRED_W.nth 32 t)
  let q : Int := s.occ p t
  let avg := (old + (q * 256 - old) / (2 ^ w : Nat)).toNat
  let minF := match colour with | 0 => SWP.WRED_GREEN_MIN | 1 => SWP.WRED_YELLOW_MIN | _ => SWP.WRED_RED_MIN
  let maxF := match colour with | 0 => SWP.WRED_GREEN_MAX | 1 => SWP.WRED_YELLOW_MAX | _ => SWP.WRED_RED_MAX
  let pF := match colour with | 0 => SWP.WRED_GREEN_P_MAX | 1 => SWP.WRED_YELLOW_P_MAX | _ => SWP.WRED_RED_P_MAX
  let mn := s.fld pg (minF.nth 32 t)
  let mx := s.fld pg (maxF.nth 32 t)
  let pm := s.fld pg (pF.nth 32 t)
  let l := lfsrStep (SMap.get lfsrSeed s.switch.lfsr p)
  let drop :=
    if avg < mn * 256 then false
    else if mx * 256 ≤ avg then true
    else decide (l % 256 < pm * (avg - mn * 256) / ((mx - mn) * 256))
  let s := s.sw fun x => { x with wred := SMap.set (fun _ => 0) x.wred (p * 8 + t) avg, lfsr := SMap.set lfsrSeed x.lfsr p l }
  (drop && s.flag pg (SWP.TC_CFG_WRED_EN.nth 4 t), s)

/-! ### Enqueue, discard, flush -/

/-- Put a copy at the end of its virtual output queue. -/
def enqueue (s : Zone) (i e t : Nat) (c : Copy) : Zone :=
  let s := s.shaped e fun s => s.setVoq i e t (s.voq i e t ++ [c])
  (s.stat (statClass e t ClassStat.enqueued)).showBuf

/-- Steps 11 to 13 for one copy (R326, R338, R340, R353, R356, R358). -/
def submit (s : Zone) (i e t : Nat) (c : Copy) (session : Option Nat) : Zone :=
  let n := c.cells
  match session with
  | some m =>
    if s.linkState e = 2 || (s.linkState e == 1 && s.scheduled e t) then s.stat (statClass e t ClassStat.linkDownDrop)
    else if admits s.bufFree 0 0 (s.occ e t) n then
      (s.enqueue i e t { c with mirror := true }).stat (statMirror m 0)
    else s.stat (statMirror m 1)
  | none =>
    if s.linkState e = 2 || (s.linkState e == 1 && s.scheduled e t) then s.stat (statClass e t ClassStat.linkDownDrop)
    else if s.admission e t n then
      if e < 28 then
        let x := s.wred e t c.colour
        if x.1 then x.2.stat (statClass e t (ClassStat.wredDrop + min 2 c.colour)) else x.2.enqueue i e t c
      else s.enqueue i e t c
    else if e < 28 then s.stat (statClass e t ClassStat.admitDrop)
    else if s.mayWait i n then s.enqueue i e t { c with waiting := true }
    else s.stat (statPort i PortStat.ingressFull)

/-- The limit of R355 in ticks. -/
def ageLimit (s : Zone) (e t : Nat) : Nat := s.fld (pSWP e) (SWP.TC_AGE_AGE.nth 4 t) * 2500

def isAged (s : Zone) (e t : Nat) (c : Copy) : Bool := decide (s.ageLimit e t + c.stamp < s.time.residence)

/-- Discard the aged heads of queue (i, e, t); a head that is being fetched is not checked again (R355). -/
def ageQueue (s : Zone) (i e t : Nat) : Zone :=
  let l := s.voq i e t
  let first := match s.egress e with
    | some x => if x.ingress == i && x.cls == t && decide (x.fetched < x.copy.cells) then 1 else 0
    | none => 0
  let tail := if first = 0 then l.dropWhile (s.isAged e t) else l.drop 1
  let n := l.length - first - tail.length
  if n = 0 then s
  else ((s.shaped e fun s => s.setVoq i e t (l.take first ++ tail)).statBy (statClass e t ClassStat.aged) n).showBuf

/-- Flush the classes of port p that satisfy `f`, counting each copy in FLUSH (R356); a copy that the crossbar fetches goes
with its queue. -/
def flushPort (s : Zone) (p : Nat) (f : Nat → Bool) : Zone :=
  let s := s.shape p
  let s := s.forEach ((List.range 8).filter f) fun (s : Zone) (t : Nat) =>
    let held := match s.egress p with
      | some x => if x.cls = t ∧ x.copy.cells ≤ x.fetched ∧ x.sending = none then 1 else 0
      | none => 0
    let n := (s.queueCopies p t).length + held
    let s := s.forEach (List.range 32) fun (s : Zone) (i : Nat) => s.setVoq i p t []
    let s := match s.egress p with
      | some x => if x.cls = t then
          { s.setEgress p none with switch := { (s.setEgress p none).switch with
              conns := SMap.set (fun _ => none) s.switch.conns p none } } else s
      | none => s
    s.statBy (statClass p t ClassStat.flush) n
  (s.settleCredit p).showBuf

/-- Bring port p's link state into line with the port (R321, R356). -/
def portCheck (s : Zone) (p : Nat) : Zone :=
  let pg := pSWP p
  let setHold (s : Zone) (h : Option Nat) : Zone := s.sw fun w => { w with holdEnd := SMap.set (fun _ => none) w.holdEnd p h }
  if 28 ≤ p then s
  else if s.portUp p then
    if s.linkState p = 0 then s
    else ((setHold s none).setFld pg SWP.PORT_STATE_LINK_STATE 0 |>.setFld pg SWP.PORT_STATE_HOLD_LEFT 0).event pg
      SWP.PORT_EVENT_LINK_UP
  else if s.linkState p = 0 then
    let s := (s.event pg SWP.PORT_EVENT_LINK_DOWN).flushPort p (s.scheduled p)
    let hold := s.fld pg SWP.LINK_HOLD_HOLD
    if hold = 0 then (s.flushPort p fun t => !s.scheduled p t).setFld pg SWP.PORT_STATE_LINK_STATE 2
    else ((setHold s (some (s.mono + hold * 2500))).setFld pg SWP.PORT_STATE_LINK_STATE 1).setFld pg SWP.PORT_STATE_HOLD_LEFT hold
  else s

/-- Show ACTIVE, and have the plan chosen again (R345, R370). -/
def swEnableChanged (s : Zone) : Zone :=
  (s.setFld pSW SW0.SW_STATUS_ACTIVE s.swActive.length).sw fun w => { w with dirty := true }

/-! ### Table windows (R330, R331, R373) -/

def tabKey (w i : Nat) : Nat := w * 65536 + i
def tabEntry (s : Zone) (w i : Nat) : List Word := SMap.get (fun _ => []) s.switch.tables (tabKey w i)
def tabWord (s : Zone) (w i k : Nat) : Nat := ((s.tabEntry w i).getD k 0).toNat
def setEntry (s : Zone) (w i : Nat) (l : List Word) : Zone :=
  s.sw fun x => { x with tables := SMap.set (fun _ => []) x.tables (tabKey w i) l }

/-- The number of entries and of words of an entry of window w. -/
def winEntries (w : Nat) : Nat :=
  match w with | 64 => 16384 | 65 => 4096 | 66 => 2112 | 67 => 1024 | 68 => 512 | 69 => 4 | _ => 64
def winWords (w i : Nat) : Nat :=
  match w with | 64 => 4 | 65 => 3 | 66 => if i < 2048 then 2 else 3 | 67 => 5 | 68 => 1 | 69 => 1 | _ => 7

/-- The bucket of a VID and a MAC address (R328). -/
def fdbBucket (vid mac : Nat) : Nat := (crc32 (beBytes 2 vid ++ beBytes 6 mac)).toNat % 4096

/-- The key of a forwarding entry: type, VID, MAC. -/
def fdbKey (d0 d1 : Nat) : Nat × Nat × Nat := (d1 / 2 ^ 30 % 2, d1 / 65536 % 4096, d1 % 65536 * 2 ^ 32 + d0)

/-- The way of a bucket that holds a valid entry of a key. -/
def fdbFind (s : Zone) (type vid mac : Nat) : Option Nat :=
  let b := fdbBucket vid mac
  ((List.range 4).find? fun y =>
    (s.tabWord 64 (b * 4 + y) 1).testBit 31 &&
      decide (fdbKey (s.tabWord 64 (b * 4 + y) 0) (s.tabWord 64 (b * 4 + y) 1) = (type, vid, mac))).map (b * 4 + ·)

/-- The index at which a WRITE of a forwarding entry lands (R330). -/
def fdbPlace (s : Zone) (type vid mac : Nat) : Option Nat :=
  match s.fdbFind type vid mac with
  | some i => some i
  | none =>
    let b := fdbBucket vid mac
    ((List.range 4).find? fun y => !(s.tabWord 64 (b * 4 + y) 1).testBit 31).map (b * 4 + ·)

def sgate (s : Zone) (g : Nat) : StreamGate := SMap.get (fun _ => StreamGate.init) s.switch.sgates g
def setSgate (s : Zone) (g : Nat) (x : StreamGate) : Zone :=
  s.sw fun w => { w with sgates := SMap.set (fun _ => StreamGate.init) w.sgates g x }

/-- The staged entries of stream gate g. -/
def sgateStaged (s : Zone) (g n : Nat) : List (Word × Word) :=
  (List.range n).map fun k => ((s.tabEntry 66 (g * 32 + k)).getD 0 0, (s.tabEntry 66 (g * 32 + k)).getD 1 0)

/-- Bring stream gate g up to network time (R334): a commit takes over at its boundary and the lists exchange; `shown` is the
word of the entry in force, with OPEN cleared while LATCH_CLOSE holds the gate closed. A gate without a list has a free state
(log entry 2). -/
def sgateEval (s : Zone) (g : Nat) : Zone :=
  let x := s.sgate g
  let s := match x.pending with
    | none => s
    | some (b, l) =>
      if b ≤ s.nowNs then
        let staged := s.sgateStaged g l.count
        let s := s.forEach (List.range 32) fun (s : Zone) (k : Nat) =>
          match x.entries[k]? with
          | some e => s.setEntry 66 (g * 32 + k) [e.1, e.2]
          | none => s
        s.setSgate g { x with entries := staged, cycle := l.cycle, offset := l.offset, pending := none }
      else s
  let x := s.sgate g
  if x.entries = [] then
    let f := s.fresh
    f.2.setSgate g { x with shown := if x.latched then 0 else f.1 &&& 1 }
  else
    let parts := gateParts x.cycle 0 ((x.entries.mapIdx fun k e => (k, e.2.toNat)))
    let k := (gateAt parts (gatePos x.cycle x.offset s.nowNs)).2
    let w := (x.entries.getD k (0, 0)).1
    s.setSgate g { x with shown := if x.latched then w &&& ~~~1#32 else w }

/-- A committed stream-gate list is rejected by the rules of R349. -/
def sgateBad (s : Zone) (g count cycle offset : Nat) : Bool :=
  decide (count = 0 ∨ 32 < count ∨ cycle < 10000 ∨ 1000000000 < cycle ∨ cycle ≤ offset) ||
    (s.sgateStaged g count).any fun e => decide (e.2.toNat < 100)

/-- A flow meter's burst sizes in 10^-6 bytes. -/
def meterBurst (d : List Word) : Nat × Nat := ((d.getD 2 0).toNat % 2 ^ 24 * 1000000, (d.getD 3 0).toNat % 2 ^ 24 * 1000000)

def meter (s : Zone) (m : Nat) : MeterSt := SMap.get (fun _ => MeterSt.init) s.switch.meters m
def setMeter (s : Zone) (m : Nat) (x : MeterSt) : Zone :=
  s.sw fun w => { w with meters := SMap.set (fun _ => MeterSt.init) w.meters m x }

def recov (s : Zone) (f : Nat) : RecovSt := SMap.get (fun _ => RecovSt.init) s.switch.recov f
def setRecov (s : Zone) (f : Nat) (x : RecovSt) : Zone :=
  s.sw fun w => { w with recov := SMap.set (fun _ => RecovSt.init) w.recov f x }

/-- Reset a recovery function (R359). -/
def recovReset (s : Zone) (f : Nat) : Zone := (s.setRecov f RecovSt.init).stat (statRecov f RecovStat.resets)

/-- Whether a field of an entry lies outside its range (R373). -/
def entryBad (s : Zone) (w i : Nat) (d : List Word) : Bool :=
  let n (k : Nat) : Nat := (d.getD k 0).toNat
  decide (winEntries w ≤ i) ||
  match w with
  | 64 => (n 1).testBit 30 && decide (n 2 ≠ 0)
  | 66 => if i < 2048 then false
          else decide (32 < n 0 % 256) || ((n 0).testBit 9 && s.sgateBad (i - 2048) (n 0 % 256) (n 1) (n 2))
  | 68 => decide (256 ≤ i) && (decide (n 0 / 256 % 64 < 2 ∨ 32 < n 0 / 256 % 64) ||
            decide (n 0 / 65536 % 1024 < 1 ∨ 1000 < n 0 / 65536 % 1024))
  | 69 => decide (n 0 / 2 ^ 29 % 4 = 3) ||
          (decide (n 0 / 2 ^ 29 % 4 < 2) && decide (31 < n 0 / 65536 % 4096 ∨ n 0 / 65536 % 4096 = n 0 / 256 % 32))
  | _ => false

/-- The staging words of a window. -/
def winData (s : Zone) (w : Nat) : List Word := (List.range 8).map fun k => s.rd (pSWW w + 4 * k)

/-- What a WRITE does besides storing the entry (R331, R334, R335, R359, R367). -/
def entryWritten (s : Zone) (w i : Nat) (old : List Word) (d : List Word) : Zone :=
  match w with
  | 66 =>
    let g := if i < 2048 then i / 32 else i - 2048
    let s := s.setSgate g { s.sgate g with latched := false }
    if 2048 ≤ i ∧ (d.getD 0 0).toNat.testBit 9 then
      let l : GateList := ⟨(d.getD 0 0).toNat % 256, (d.getD 1 0).toNat, (d.getD 2 0).toNat⟩
      s.setSgate g { s.sgate g with pending := some (gateBoundary l.cycle l.offset (s.nowNs + 1000), l) }
    else s
  | 67 =>
    let b := meterBurst d
    if old = [] then s.setMeter i ⟨b.1, b.2, s.time.residence * 4⟩
    else s.setMeter i { s.meter i with c := min b.1 (s.meter i).c, e := min b.2 (s.meter i).e }
  | 68 =>
    if i < 256 then
      if (d.getD 0 0).toNat.testBit 0 then s.sw fun x => { x with genSeq := SMap.set (fun _ => 0) x.genSeq i 0 } else s
    else if old = [] then s.setRecov (i - 256) RecovSt.init else s
  | 70 => s.sw fun x => { x with tmplSeq := SMap.set (fun _ => 0) x.tmplSeq i 0 }
  | _ => s

/-- Variant 0 of R330 on window w: the status (0 OK, 1 FAIL), the value, the state. -/
def winWrite (s : Zone) (w index : Nat) : Nat × Nat × Zone :=
  let d := s.winData w
  if w = 64 then
    if s.entryBad 64 0 d then (1, 2, s)
    else
      let k := fdbKey (d.getD 0 0).toNat (d.getD 1 0).toNat
      match s.fdbPlace k.1 k.2.1 k.2.2 with
      | none => (1, 1, s)
      | some i => (0, i, s.setEntry 64 i (d.take 4))
  else if s.entryBad w index d then (1, 2, s)
  else
    let old := s.tabEntry w index
    let e := d.take (winWords w index)
    (0, index, (s.setEntry w index e).entryWritten w index old e)

/-- Variant 1 of R330: the entry into RESULT0 to RESULT7. -/
def winRead (s : Zone) (w index : Nat) : Nat × Nat × Zone :=
  if winEntries w ≤ index then (1, 2, s)
  else
    let e := s.tabEntry w index
    let s := s.forEach (List.range 8) fun (s : Zone) (k : Nat) => s.wr (pSWW w + 0x40 + 4 * k) (e.getD k 0)
    let s := if w = 70 then s.wr (pSWW w + 0x5C) (BitVec.ofNat 32 (SMap.get (fun _ => 0) s.switch.tmplSeq index)) else s
    (0, index, s)

/-- Variant 2 of R330. -/
def winClear (s : Zone) (w index : Nat) : Nat × Nat × Zone :=
  if w = 64 then
    let d := s.winData 64
    let k := fdbKey (d.getD 0 0).toNat (d.getD 1 0).toNat
    match s.fdbFind k.1 k.2.1 k.2.2 with
    | none => (1, 3, s)
    | some i => (0, i, s.setEntry 64 i [])
  else if winEntries w ≤ index then (1, 3, s)
  else
    let s := s.setEntry w index []
    let s := match w with
      | 66 => if index < 2048 then s.setSgate (index / 32) { s.sgate (index / 32) with latched := false }
              else s.setSgate (index - 2048) StreamGate.init
      | 67 => s.setMeter index MeterSt.init
      | 68 => if 256 ≤ index then s.setRecov (index - 256) RecovSt.init else s
      | _ => s
    (0, index, s)

/-- Run a window operation for a ticket. -/
def winOp (r : TicketRef) (x : Nat × Nat × Zone) : Zone := x.2.2.complete r x.1 x.2.1

end Zone

end Sys2Proof.Machine
end

