-- ==== Sys2Proof/Machine/Ingress.lean ====
section
/-! DEFINITION. The ingress steps of R326: MAC receive, MACsec (R361, R362), classification (R327), lookup (R328, R332),
recovery (R359, R360), stream filter, gate and meter (R333 to R335), destination mask (R329), admission and enqueue, with
mirror copies (R357, R358), cut-through (R352), and the messages of a frame for the AVTP engine (R366). -/

namespace Sys2Proof.Machine

open Reg

/-- What steps 3 to 10 find for a frame: its class, its egress ports, its copy, the MAX_SDU of its stream where one applies. -/
structure Route where
  cls : Nat
  ports : List Nat
  copy : Copy
  sdu : Option Nat
deriving DecidableEq, Repr

namespace Zone

/-- The stamp of a moment so many ticks ago (R381). -/
def stampBefore (s : Zone) (ticks : Nat) : Stamp :=
  let ns := s.netAt (s.mono - ticks)
  { s.stamp with sec := BitVec.ofNat 48 (ns / 1000000000), ns := BitVec.ofNat 32 (ns % 1000000000) }

/-! ### MACsec (R361, R362) -/

/-- Secure association n of port p: 0 to 3 transmit, then four for each receive channel. -/
def secA (s : Zone) (p n : Nat) : Option SecA := SMap.get (fun _ => none) s.switch.secy (p * 20 + n)

/-- Set secure association n of port p and show its record: slot, next PN, AN and in-use bit (R374; log entry 42). -/
def setSecA (s : Zone) (p n : Nat) (a : Option SecA) : Zone :=
  let s := s.sw fun w => { w with secy := SMap.set (fun _ => none) w.secy (p * 20 + n) a }
  let put (s : Zone) (k v : Nat) : Zone := s.wr (pPORT p + 0x100 + n * 32 + 4 * k) (BitVec.ofNat 32 v)
  match a with
  | some x => (((put s 0 x.slot |> fun s => put s 1 (x.nextPn % 2 ^ 32)) |> fun s => put s 2 (x.nextPn / 2 ^ 32)) |>
      fun s => put s 3 x.an) |> fun s => put s 4 1
  | none => put s 4 0

def xpn (s : Zone) (p : Nat) : Bool := decide (2 ≤ s.fld (pPORT p) PORT.MACSEC_CFG_CIPHER)

/-- The initialisation vector of a frame (IEEE 802.1AE): the SCI and the PN; for the XPN suites it depends on a salt and a short
identifier that the spec does not give (log entry 3). -/
def secIv (s : Zone) (p : Nat) (sci : BitVec 64) (pn slot : Nat) : List Byte :=
  if s.xpn p then Config.secIv (s.fld (pPORT p) PORT.MACSEC_CFG_CIPHER) sci pn slot else beBytes 8 sci.toNat ++ beBytes 4 pn

/-- Whether a frame bypasses the SecY: a PTP frame, tagged or not (R361). -/
def secBypass (s : Zone) (p : Nat) (f : List Byte) : Bool :=
  decide (Frame.etherType f = Frame.typePtp) && s.flag (pPORT p) PORT.MACSEC_CFG_PTP_BYPASS

/-- The full PN of a received 32-bit PN: for XPN the one nearest at or above the window of the next PN. -/
def fullPn (s : Zone) (p next low : Nat) : Nat :=
  if s.xpn p then
    let high := next / 2 ^ 32
    if low < next % 2 ^ 32 ∧ 2 ^ 31 ≤ next % 2 ^ 32 - low then (high + 1) * 2 ^ 32 + low else high * 2 ^ 32 + low
  else low

/-- Validation of a received frame (step 2): the frame without SecTAG and ICV, or none where it is discarded. -/
def secIn (s : Zone) (p : Nat) (f : List Byte) : Option (List Byte) × Zone :=
  let pg := pPORT p
  let strict := decide (s.fld pg PORT.MACSEC_CFG_VALIDATE = 2)
  let off := decide (s.fld pg PORT.MACSEC_CFG_VALIDATE = 0)
  if !s.macsecOn p || s.secBypass p f then (some f, s)
  else if beAt f 12 2 ≠ Frame.typeSec then (if strict then none else some f, s)
  else
    let tci := beAt f 14 1
    let enc := tci.testBit 3
    let changed := tci.testBit 2
    let an := tci % 4
    let head := if tci.testBit 5 then 28 else 20
    let body := (f.drop head).take (f.length - head - 16)
    let icv := f.drop (f.length - 16)
    let aad := if enc then f.take head else f.take (f.length - 16)
    let ours (a : SecA) : Bool := a.an == an && (!tci.testBit 5 || decide (a.sci.toNat = beAt f 20 8))
    let plain := f.take 12 ++ body
    match (List.range 16).find? (fun n => match s.secA p (4 + n) with | some a => ours a | none => false) with
    | none => (if strict || changed then none else some plain, s.stat (statSecy p SecStat.inNoSa))
    | some n =>
      match s.secA p (4 + n) with
      | none => (none, s)
      | some a =>
        let pn := s.fullPn p a.nextPn (beAt f 16 4)
        let late := s.flag pg PORT.MACSEC_CFG_REPLAY_PROTECT &&
          decide (pn + s.fld pg PORT.REPLAY_WINDOW_WINDOW < a.nextPn)
        let iv := s.secIv p a.sci pn a.slot
        let x := gcmDecrypt a.key iv aad (if enc then body else [])
        let out := if enc then f.take 12 ++ x.1 else plain
        if late then (none, s.stat (statSecy p SecStat.inLate))
        else if off then
          if changed then (none, s.stat (statSecy p SecStat.inNotValid)) else (some plain, s)
        else if x.2 = icv then
          (some out, (s.setSecA p (4 + n) (some { a with nextPn := max a.nextPn (pn + 1) })).stat (statSecy p SecStat.inOk))
        else if strict || changed then (none, s.stat (statSecy p SecStat.inNotValid))
        else (some out, s.stat (statSecy p SecStat.inInvalid))

/-- Protection of a frame for transmission (R362): the frame on the wire, or none where the SA has reached its last PN or no
transmit SA is installed. -/
def secOut (s : Zone) (p : Nat) (f : List Byte) : Option (List Byte) × Zone :=
  let pg := pPORT p
  if !s.macsecOn p || s.secBypass p f then (some f, s)
  else match (List.range 4).find? (fun n => (s.secA p n).isSome) with
    | none => (none, s)
    | some n =>
      match s.secA p n with
      | none => (none, s)
      | some a =>
        let width := if s.xpn p then 64 else 32
        if 2 ^ width - 1 ≤ a.nextPn then (none, s.stat (statSecy p SecStat.pnExhausted))
        else
          let conf := s.flag pg PORT.MACSEC_CFG_CONFIDENTIAL
          let body := f.drop 12
          let sl := if body.length < 48 then body.length else 0
          let head := f.take 12 ++ beBytes 2 Frame.typeSec ++
            [BitVec.ofNat 8 (0x20 + (if conf then 0xC else 0) + a.an), BitVec.ofNat 8 sl] ++ beBytes 4 (a.nextPn % 2 ^ 32) ++
            beBytes 8 (Config.portSci p).toNat
          let iv := s.secIv p (Config.portSci p) a.nextPn a.slot
          let x := gcmEncrypt a.key iv (if conf then head else head ++ body) (if conf then body else [])
          let s := s.setSecA p n (some { a with nextPn := a.nextPn + 1 })
          let s := if 2 ^ width - 2 ^ 24 ≤ a.nextPn + 1 then s.event pg PORT.PHY_EVENT_PN_NEAR else s
          (some (head ++ (if conf then x.1 else body) ++ x.2),
            s.stat (statSecy p (if conf then SecStat.outEncrypted else SecStat.outProtected)))

/-! ### Mirrors (R357, R358) -/

/-- Send a mirror copy to session m. -/
def mirrorTo (s : Zone) (m i : Nat) (c : Copy) : Zone :=
  let d := s.tabWord 69 m 0
  if d.testBit 31 then s.submit i (d / 256 % 32) (d % 8) { c with mirror := true, tsTag := none, queue := if d / 256 % 32 = 31 then m else c.queue } (some m) else s

/-- Copies for the sessions whose source is this one: kind 0 ingress port, 1 egress port, 2 stream. -/
def mirror (s : Zone) (kind source i : Nat) (c : Copy) : Zone :=
  s.forEach (List.range 4) fun (s : Zone) (m : Nat) =>
    let d := s.tabWord 69 m 0
    if d.testBit 31 ∧ d / 2 ^ 29 % 4 = kind ∧ d / 65536 % 4096 = source then s.mirrorTo m i c else s

/-! ### Sequence recovery (R359, R360; log entry 43) -/

/-- Shift a history of length n by one, counting a number that never came. -/
def shiftHistory (s : Zone) (f n : Nat) (b : Bool) (h : List Bool) : List Bool × Zone :=
  ((b :: h).take n, if (h.take n).length = n ∧ (h.getD (n - 1) true) = false then s.stat (statRecov f RecovStat.lost) else s)

/-- Run recovery function f on a sequence number: whether the frame passes. -/
def recover (s : Zone) (f : Nat) (num : Option Nat) : Bool × Zone :=
  let cfg := s.tabWord 68 (256 + f) 0
  let len := cfg / 256 % 64
  let x := s.recov f
  let drop (s : Zone) : Bool × Zone := (false, s.stat (statRecov f RecovStat.discarded))
  match num with
  | none => drop s
  | some n =>
    if x.takeAny then
      (true, (s.setRecov f ⟨false, n, if cfg.testBit 0 then [] else [true], s.mono⟩).stat (statRecov f RecovStat.passed))
    else
      let delta := toSigned 16 (ofSigned 16 ((n : Int) - x.seq))
      if cfg.testBit 0 then
        if delta = 0 then drop s
        else
          let s := if delta = 1 then s else s.stat (statRecov f RecovStat.outOfOrder)
          (true, (s.setRecov f { x with seq := n, at_ := s.mono }).stat (statRecov f RecovStat.passed))
      else if (len : Int) ≤ delta ∨ delta ≤ -(len : Int) then drop (s.stat (statRecov f RecovStat.rogue))
      else if delta ≤ 0 then
        let k := (0 - delta).toNat
        if x.history.getD k false then drop s
        else
          let h := (x.history ++ List.replicate (k + 1 - x.history.length) false).set k true
          (true, ((s.setRecov f { x with history := h, at_ := s.mono }).stat (statRecov f RecovStat.outOfOrder)).stat
            (statRecov f RecovStat.passed))
      else
        let s := if delta = 1 then s else s.stat (statRecov f RecovStat.outOfOrder)
        let y := (List.range (delta.toNat - 1)).foldl (fun (y : List Bool × Zone) _ => y.2.shiftHistory f len false y.1)
          (x.history, s)
        let y := y.2.shiftHistory f len true y.1
        (true, (y.2.setRecov f { x with seq := n, history := y.1, at_ := s.mono }).stat (statRecov f RecovStat.passed))

/-! ### Stream filter, gate and meter (R333 to R335) -/

/-- Run meter m on a frame of len bytes with an input colour: the colour. -/
def meterRun (s : Zone) (m len inColour : Nat) : Nat × Zone :=
  let d := s.tabEntry 67 m
  let b := meterBurst d
  let cir := (d.getD 0 0).toNat % 2 ^ 22
  let eir := (d.getD 1 0).toNat % 2 ^ 22
  let f := (d.getD 4 0).toNat
  let x := s.meter m
  let now := s.time.residence * 4
  let dt := now - x.last
  let spill := (x.c + cir * dt) - b.1
  let c := min b.1 (x.c + cir * dt)
  let e := min b.2 (x.e + eir * dt + (if f.testBit 0 then spill else 0))
  let need := len * 1000000
  let cm := f.testBit 1
  if f.testBit 3 then (2, s.setMeter m ⟨c, e, now⟩)
  else if (!cm || inColour == 0) && decide (need ≤ c) then (0, s.setMeter m ⟨c - need, e, now⟩)
  else if (!cm || inColour != 2) && decide (need ≤ e) then (1, s.setMeter m ⟨c, e - need, now⟩)
  else (2, s.setMeter m ⟨c, e, now⟩)

/-- Steps 7 to 9 for a frame of stream n: none where it is discarded, else its colour and the internal priority value. -/
def streamSteps (s : Zone) (n len colour : Nat) (lenient : Bool) : Option (Nat × Option Nat) × Zone :=
  let w0 := s.tabWord 65 n 0
  let w1 := s.tabWord 65 n 1
  if !w0.testBit 31 then (some (colour, none), s)
  else if !lenient && decide (0 < w0 % 2 ^ 14 ∧ w0 % 2 ^ 14 < len) then (none, s.stat (statStream n StreamStat.sduDrop))
  else
    let g := w1 / 65536 % 64
    let s := if w1.testBit 31 then s.sgateEval g else s
    let shown := (s.sgate g).shown.toNat
    if w1.testBit 31 && !shown.testBit 0 then
      let s := s.stat (statStream n StreamStat.gateDrop)
      (none, if (s.tabWord 66 (2048 + g) 0).testBit 8 then s.setSgate g { s.sgate g with latched := true } else s)
    else
      let ipv := if w1.testBit 31 && shown.testBit 4 then some (shown / 2 % 8) else none
      if w1.testBit 15 then
        let m := w1 % 1024
        let x := s.meterRun m len colour
        let s := x.2.stat (statStream n (StreamStat.green + x.1))
        if x.1 = 2 ∧ (s.tabWord 67 m 4).testBit 2 then (none, s.stat (statStream n StreamStat.redDrop))
        else (some (x.1, ipv), s)
      else (some (colour, ipv), s)

/-! ### Steps 3 to 10 -/

/-- Whether PORT_CFG.ACCEPT takes a frame (R327). -/
def accepts (s : Zone) (i : Nat) (vlan : Option Nat) : Bool :=
  let real := match vlan with | some c => decide (c % 4096 ≠ 0) | none => false
  match s.fld (pSWP i) SWP.PORT_CFG_ACCEPT with
  | 1 => real
  | 2 => !real
  | _ => true

/-- The class of a PCP (R327). -/
def pcpClass (s : Zone) (i pcp : Nat) : Nat := s.fld (pSWP i) SWP.PCP_MAP_MAP / 2 ^ (3 * pcp) % 8

/-- The destination mask less the ingress port and the ports that are not enabled (R329). -/
def egressPorts (s : Zone) (i mask : Nat) : List Nat :=
  numbers 32 fun p => mask.testBit p && s.swEnabled p && (p != i || p == 28 || p == 29)

/-- Steps 3 to 10 for a frame that entered at port i: the route, or none where it is discarded. -/
def resolve (s : Zone) (i : Nat) (f : List Byte) (arrived : Stamp) (stamp : Nat) (tsTag : Option (BitVec 16))
    (lenient : Bool) : Option Route × Zone :=
  let tg := Frame.tags f
  let len := Frame.len f
  if !s.accepts i tg.vlan then (none, s.stat (statPort i PortStat.rxFiltered))
  else
    let pg := pSWP i
    let pcp := match tg.vlan with | some c => c / 0x2000 % 8 | none => s.fld pg SWP.PORT_CFG_DEFAULT_PCP
    let tagVid := match tg.vlan with | some c => c % 4096 | none => 0
    let vid := if tagVid = 0 then s.fld pg SWP.PORT_CFG_PVID else tagVid
    let dei := match tg.vlan with | some c => c.testBit 12 | none => false
    let colour := b2n (dei && s.flag pg SWP.PORT_CFG_COLOUR_AWARE)
    let dest := s.fdbFind 0 vid (Frame.dst f)
    let queue := match dest with | some k => s.tabWord 64 k 3 % 1024 | none => 0
    let copy : Copy := ⟨f, arrived, stamp, vid, pcp, decide (tagVid ≠ 0), colour, none, none, queue, tsTag, false, false⟩
    let s := s.mirror 0 i i copy
    let srcE := s.fdbFind 1 vid (Frame.src f)
    let streamOf (e : Option Nat) : Option Nat := match e with
      | some k => if (s.tabWord 64 k 3).testBit 31 then some (s.tabWord 64 k 3 / 65536 % 4096) else none
      | none => none
    let stream := match streamOf srcE with | some n => some n | none => streamOf dest
    let copy := { copy with stream := stream }
    let s := match stream with
      | some n =>
        let s := (s.stat (statStream n StreamStat.matched)).mirror 2 n i copy
        let w := s.tabWord 65 n 0
        if w.testBit 31 && w.testBit 30 then s.mirrorTo (w / 2 ^ 28 % 4) i copy else s
      | none => s
    let sw2 := match stream with | some n => if (s.tabWord 65 n 0).testBit 31 then s.tabWord 65 n 2 else 0 | none => 0
    let r := if sw2.testBit 15 && decide (i < 4) then s.recover (sw2 % 256) tg.rtag else (true, s)
    if !r.1 then (none, r.2)
    else
      let x := match stream with
        | some n => r.2.streamSteps n len colour lenient
        | none => (some (colour, none), r.2)
      let s := x.2
      match x.1 with
      | none => (none, s)
      | some (colour, ipv) =>
        let copy := { copy with colour := colour }
        match dest with
        | none =>
          let s := s.stat (statPort i PortStat.fdbMiss)
          (none, if s.flag pSW SW0.MISS_MIRROR_EN then s.mirrorTo (s.fld pSW SW0.MISS_MIRROR_SESSION) i copy else s)
        | some k =>
          let ports := s.egressPorts i (s.tabWord 64 k 2)
          if ports = [] then (none, s.stat (statPort i PortStat.fdbMiss))
          else
            let w3 := s.tabWord 64 k 3
            let sw0 := match stream with | some n => s.tabWord 65 n 0 | none => 0
            let cls := match ipv with
              | some v => v
              | none =>
                if sw0.testBit 31 && sw0.testBit 27 then sw0 / 2 ^ 24 % 8
                else if w3.testBit 15 then w3 / 2 ^ 12 % 8 else s.pcpClass i pcp
            let gen := sw2 / 65536 % 256
            let n := SMap.get (fun _ => 0) s.switch.genSeq gen
            let y : Option Nat × Zone := if sw2.testBit 31 then
                (some n, s.sw fun w => { w with genSeq := SMap.set (fun _ => 0) w.genSeq gen ((n + 1) % 65536) })
              else (none, s)
            let sdu := if sw0.testBit 31 && decide (0 < sw0 % 2 ^ 14) then some (sw0 % 2 ^ 14) else none
            (some ⟨cls, ports, { copy with seq := y.1 }, sdu⟩, y.2)

/-! ### The AVTP engine's messages (R366; log entry 44) -/

def acfQueue (s : Zone) (q : Nat) : List AcfMsg := SMap.get (fun _ => []) s.switch.acfQ q
def setAcfQueue (s : Zone) (q : Nat) (l : List AcfMsg) : Zone :=
  let s := s.sw fun w => { w with acfQ := SMap.set (fun _ => []) w.acfQ q l }
  s.wr (pSWP 30 + 0x780 + 4 * q) (BitVec.ofNat 32 l.length)

/-- The ACF messages of a payload, with the number of other messages; `fuel` bounds the walk. -/
def acfParse : Nat → List Byte → List AcfMsg × Nat
  | 0, _ => ([], 0)
  | fuel + 1, l =>
    if l.length < 4 then ([], 0)
    else
      let type := beAt l 0 1 / 2
      let size := beAt l 0 2 % 512 * 4
      if size = 0 then ([], 0)
      else
        let r := acfParse fuel (l.drop size)
        let flags := beAt l 2 1
        let head := if type = 1 then 16 else 8
        let pad := flags / 64
        if type = 1 ∨ type = 2 then
          (⟨beAt l 3 1 % 32, beAt l (head - 4) 4 % 2 ^ 29, flags.testBit 3, flags.testBit 4, flags.testBit 1, flags.testBit 2,
            (l.drop head).take (size - head - pad)⟩ :: r.1, r.2)
        else (r.1, r.2 + 1)

/-- The ACF payload of a frame, where it is an NTSCF or TSCF frame. -/
def acfPayload (f : List Byte) : Option (List Byte) :=
  let r := (Frame.tags f).rest
  if beAt r 0 2 ≠ Frame.typeAvtp then none
  else if beAt r 2 1 = 0x82 then some ((r.drop 14).take (beAt r 3 2 % 2048))
  else if beAt r 2 1 = 0x05 then some ((r.drop 26).take (beAt r 22 2))
  else none

/-- Whether the messages of a frame for port 30 all fit their receive queue; a frame without ACF messages is discarded and always
fits (R366). -/
def acfFits (s : Zone) (c : Copy) : Bool :=
  match acfPayload c.frame with
  | none => true
  | some l => decide ((s.acfQueue (c.queue % 16)).length + (acfParse l.length l).1.length ≤ 128)

/-- The messages of a frame that the AVTP engine takes go to the receive queue of its QUEUE; other frames and messages are counted
(R366). -/
def acfSplit (s : Zone) (c : Copy) : Zone :=
  match acfPayload c.frame with
  | none => s.stat (statAvtp 0)
  | some l =>
    let x := acfParse l.length l
    (s.setAcfQueue (c.queue % 16) (s.acfQueue (c.queue % 16) ++ x.1)).statBy (statAvtp 1) x.2

/-! ### Transmission conditions (R347) -/

/-- The frame time in ns of L bytes at port p, with 32 more where MACsec protects the frame (R347). -/
def frameTime (s : Zone) (p l : Nat) (protect : Bool) : Nat :=
  ((l + (if protect then 32 else 0) + 20) * 8 * 1000000 + s.portRate p - 1) / s.portRate p

/-- Whether a frame of class t that takes n ns may start at port p; `plca` tells whether a port of 24 to 27 holds its transmit
opportunity. -/
def eligible (s : Zone) (p t n : Nat) (plca : Bool) : Bool :=
  s.gateFits p t n &&
  (!s.flag (pSWP p) (SWP.TC_CFG_CBS_EN.nth 4 t) || decide (0 ≤ s.creditNow p t)) &&
  (decide (p < 24 ∨ 28 ≤ p) || plca)

/-- The frame as it leaves port p. -/
def wireOf (s : Zone) (p : Nat) (c : Copy) : List Byte :=
  c.wire (if s.flag (pSWP p) SWP.PORT_CFG_UNTAG_PVID then some (s.fld (pSWP p) SWP.PORT_CFG_PVID) else none)
    (s.flag (pSWP p) SWP.PORT_CFG_MARK_DEI) (decide (p < 4))

/-- The frame time of a copy at port p, as it leaves there. -/
def copyTime (s : Zone) (p : Nat) (c : Copy) : Nat :=
  let f := s.wireOf p c
  s.frameTime p (Frame.len f) (s.macsecOn p && !s.secBypass p f)

/-- Whether a frame from port i is sent cut-through at port e, judged as its reception begins (R352). -/
def cutsThrough (s : Zone) (i e : Nat) (r : Route) : Bool :=
  s.flag pSW SW0.SW_STATUS_CUT_THROUGH && s.scheduled e r.cls && decide (s.portRate e ≤ s.portRate i) && decide (i < 28 ∧ e < 28) &&
    (s.queueCopies e r.cls == []) && (s.egress e).isNone && !s.macsecOn i && !s.macsecOn e && (s.linkState e == 0) &&
    s.eligible e r.cls (s.frameTime e (r.sdu.getD 1522) false) (decide (e < 24))

/-- Append a transmit stamp for a copy with TS_REQ that begins transmission at an external port (R382); `skew` ns of error
within the accuracy of R381. -/
def txStamp (s : Zone) (p : Nat) (c : Copy) (skew : Int) : Zone :=
  match c.tsTag with
  | none => s
  | some tag =>
    if p < 28 then
      let acc : Int := if p < 4 then 2 else if p < 16 then 4 else if p < 24 then 8 else 25
      let ns := ((s.nowNs : Int) + max (-acc) (min acc skew)).toNat
      s.tsqAppend p ⟨tag, BitVec.ofNat 48 (ns / 1000000000), BitVec.ofNat 32 (ns % 1000000000), (s.stamp).frac⟩
    else s

/-- Begin the transmission of a copy at port p (R347, R357, R362, R382). -/
def beginTx (s : Zone) (p : Nat) (x : EgressSt) (skew : Int) : Zone :=
  let f := s.wireOf p x.copy
  let s := if x.copy.mirror then s else s.mirror 1 p x.ingress { x.copy with frame := f }
  let y := s.secOut p f
  match y.1 with
  | some wire => (y.2.shape p |>.setEgress p (some { x with sending := some wire })).txStamp p x.copy skew
  | none => (y.2.shape p |>.setEgress p none).settleCredit p

/-- The egress ports at which the frame that port i receives is being sent cut-through. -/
def cutPorts (s : Zone) (i : Nat) : List Nat :=
  (List.range 28).filter fun e => match s.egress e with | some x => x.live && x.ingress == i | none => false

/-- The reception of a frame begins at port i: where R352 has it sent cut-through, transmission begins. What its steps change they change
as the reception ends. -/
def cutBegin (s : Zone) (i : Nat) (f : List Byte) : Zone :=
  if s.macsecOn i || s.cutPorts i != [] then s
  else match (s.resolve i f s.stamp s.time.residence none true).1 with
    | none => s
    | some r => s.forEach r.ports fun (s : Zone) (e : Nat) =>
        if s.cutsThrough i e r then
          (s.shape e).setEgress e (some ⟨i, r.cls, r.copy, r.copy.cells, some (s.wireOf e r.copy), true, false⟩)
        else s

/-- The reception of a frame ends that is being sent cut-through at port e: the whole frame follows, with its egress mirror copy (R357), or
it proves bad, ends with an inverted FCS and counts as CT_BAD (R352). -/
def cutEnd (s : Zone) (e : Nat) (good : Option Copy) : Zone :=
  match s.egress e, good with
  | some x, some c =>
    let f := s.wireOf e c
    (s.mirror 1 e x.ingress { c with frame := f }).setEgress e (some { x with copy := c, fetched := c.cells, sending := some f, live := false })
  | some x, none => (s.setEgress e (some { x with live := false, spoiled := true })).stat (statPort e PortStat.ctBad)
  | none, _ => s

/-- Hand a route's copies to their egress queues, the lowest port first, those of an internal source for lossless ports before
the others, so that none of them finds the pool taken by the same frame (R341); a copy that is being sent cut-through follows on its
wire. Whether any entered. -/
def dispatch (s : Zone) (i : Nat) (r : Route) : Bool × Zone :=
  let order := if 28 ≤ i then (r.ports.filter fun e => decide (28 ≤ e)) ++ r.ports.filter fun e => decide (e < 28) else r.ports
  let cut := s.cutPorts i
  let s := (cut.filter fun e => !r.ports.contains e).foldl (fun s e => s.cutEnd e none) s
  order.foldl (fun (y : Bool × Zone) (e : Nat) =>
    let s := y.2
    if cut.contains e then (true, s.cutEnd e (some r.copy))
    else
      let n := (s.voq i e r.cls).length
      let s := s.submit i e r.cls r.copy none
      (y.1 || decide (n < (s.voq i e r.cls).length), s)) (false, s)

/-- Whether a frame is taken away to the time engine after step 2 (R394). -/
def isGptp (i : Nat) (f : List Byte) : Bool :=
  decide (i < 24 ∧ Frame.dst f = 0x0180C200000E ∧ Frame.etherType f = Frame.typePtp)

/-- The length of a received frame without the SecTAG and the ICV that MACsec removes (R322). -/
def clearLen (s : Zone) (p : Nat) (f : List Byte) : Nat :=
  if s.macsecOn p && !s.secBypass p f && decide (beAt f 12 2 = Frame.typeSec) then
    Frame.len f - ((if (beAt f 14 1).testBit 5 then 16 else 8) + 16)
  else Frame.len f

/-- A frame at switch port i from step 1 on (R322, R326). -/
def receive (s : Zone) (i : Nat) (f : List Byte) (fcsOk : Bool) (ticks : Nat) : Zone :=
  let stamp := s.time.residence - ticks
  let arrived := s.stampBefore ticks
  let len := s.clearLen i f
  let spoil (s : Zone) : Zone := s.forEach (s.cutPorts i) fun s e => s.cutEnd e none
  if !fcsOk then spoil (s.stat (statPort i PortStat.rxFcsErr))
  else if len < 64 then spoil (s.stat (statPort i PortStat.rxUndersize))
  else if s.fld (pSWP i) SWP.MAX_FRAME_BYTES < len then spoil (s.stat (statPort i PortStat.rxOversize))
  else
    let y := s.secIn i f
    let s := y.2.stat (statPort i PortStat.rxFrames)
    match y.1 with
    | none => s.statBy (statPort i PortStat.rxOctets) len
    | some g =>
      if isGptp i g then { s with time := { s.time with inbox := s.time.inbox ++ [(i, g)] } }
      else
        let z := (s.statBy (statPort i PortStat.rxOctets) len).resolve i g arrived stamp none false
        match z.1 with
        | none => spoil z.2
        | some r => (z.2.dispatch i r).2

end Zone

/-! ### Commands -/

/-- A frame at an external port, as its reception begins or ends: its bytes from the destination address to before the FCS, and the ticks
since its reception began. A port that is down receives nothing (R321). Frames whose reception ends in one cell time come in
ascending order of their ports (R360; log entry 97). -/
def execFrameReceive (port : Fin 28) (frame : List Byte) (reception : Reception) (ticks : Nat) (st : State) : Result :=
  st.runOn fun s =>
    if s.portUp port.val then
      match reception with
      | .begins => s.cutBegin port.val frame
      | .ends fcsOk => (if fcsOk then s.heardBus else s).receive port.val frame fcsOk ticks
    else s

/-- A waiting copy is admitted when R338 allows; its own charge does not count against it (R340). -/
def execLosslessAdmit (ingress : Fin 32) (egress : Fin 32) (cls : Fin 8) (st : State) : Result := st.runOn fun s =>
  let i := ingress.val
  let e := egress.val
  let t := cls.val
  match s.voq i e t with
  | [] => s
  | c :: r =>
    if c.waiting && Zone.admits (s.bufFree + c.cells) (s.guar e t) (s.fld (pSWP e) (SWP.TC_CFG_ALPHA.nth 4 t)) (s.occ e t) c.cells then
      ((s.shaped e fun s => s.setVoq i e t ({ c with waiting := false } :: r)).showBuf)
    else s

end Sys2Proof.Machine
end

