-- ==== Sys2Proof/Machine/Egress.lean ====
section
/-! DEFINITION. The crossbar (R342 to R346), transmission (R347), the gates' and table windows' commands (R330, R334, R348,
R349), ageing and link state (R355, R356), counter reads (R368), recovery timeouts (R359) and signal quality (R374). -/

namespace Sys2Proof.Machine

open Reg

namespace Zone

/-! ### The crossbar -/

/-- The first element of a list at or after a pointer, in rotating order. -/
def fromPtr (l : List Nat) (ptr : Nat) : List Nat := l.filter (fun x => decide (ptr ≤ x)) ++ l.filter (fun x => decide (x < ptr))

/-- The element after x in rotating order. -/
def afterIn (l : List Nat) (x : Nat) : Nat := (fromPtr l (x + 1)).headD x

def conn (s : Zone) (e : Nat) : Option Conn := SMap.get (fun _ => none) s.switch.conns e
def setConn (s : Zone) (e : Nat) (c : Option Conn) : Zone :=
  s.sw fun w => { w with conns := SMap.set (fun _ => none) w.conns e c }

def ingressFree (s : Zone) (i : Nat) : Bool := s.switch.conns.all fun x => match x.2 with | some c => c.ingress != i | none => true

/-- Whether port e holds its PLCA transmit opportunity, ports 24 to 27 in order. -/
def plcaOf (plca : BitVec 4) (e : Nat) : Bool := decide (24 ≤ e) && plca.getLsbD (e - 24)

/-- Whether voq(i, e, t) holds a head that is ready and that transmission selection would send now. -/
def readyHead (s : Zone) (plca : BitVec 4) (i e t : Nat) : Bool :=
  match s.voq i e t with
  | [] => false
  | c :: _ => !c.waiting && s.eligible e t (s.copyTime e c) (plcaOf plca e) && (decide (e ≠ 30) || s.acfFits c)

/-- The class that egress side e requests, with the ingress sides that may serve it (R342). Port 30 takes a frame whose messages fit
(R366; log entry 44). -/
def xbarRequest (s : Zone) (plca : BitVec 4) (e : Nat) : Option (Nat × List Nat) :=
  if (s.conn e).isSome then none
  else match s.egress e with
    | some x => if x.fetched < x.copy.cells then some (x.cls, [x.ingress]) else none
    | none =>
      if s.linkState e ≠ 0 then none
      else match [7, 6, 5, 4, 3, 2, 1, 0].find? (fun t => (s.swActive).any fun i => s.readyHead plca i e t) with
        | some t => some (t, s.swActive.filter fun i => s.readyHead plca i e t)
        | none => none

/-- Connect ingress side i to egress side e for one burst. -/
def connect (s : Zone) (i e t : Nat) : Zone :=
  let s := match s.egress e, s.voq i e t with
    | none, c :: _ => (s.shape e).setEgress e (some ⟨i, t, c, 0, none, false, false⟩)
    | _, _ => s
  s.setConn e (some ⟨i, s.fld pSW SW0.SW_STATUS_GRANT_CELLS⟩)

/-- The compact plan (R343). -/
def compactPlan (s : Zone) (plca : BitVec 4) : Zone :=
  let act := s.swActive
  let n := act.length
  let s := s.forEach (List.range n) fun (s : Zone) (k : Nat) =>
    let e := act.getD ((s.switch.ePtr + k) % n) 0
    match s.xbarRequest plca e with
    | none => s
    | some (t, from_) =>
      match (fromPtr (from_.filter s.ingressFree) (SMap.get (fun _ => 0) s.switch.inPtr e)).head? with
      | none => s
      | some i => (s.connect i e t).sw fun w => { w with inPtr := SMap.set (fun _ => 0) w.inPtr e (afterIn act i) }
  s.sw fun w => { w with ePtr := (w.ePtr + 1) % n }

/-- One iteration of the full plan (R344); the pointers move only in the first. -/
def fullIteration (s : Zone) (plca : BitVec 4) (first : Bool) : Zone :=
  let act := s.swActive
  let grants : List (Nat × Nat × Nat) := act.filterMap fun e =>
    match s.xbarRequest plca e with
    | none => none
    | some (t, from_) =>
      ((fromPtr (from_.filter s.ingressFree) (SMap.get (fun _ => 0) s.switch.grantPtr e)).head?).map fun i => (i, e, t)
  s.forEach act fun (s : Zone) (i : Nat) =>
    let mine := grants.filter fun g => g.1 == i
    match (fromPtr (mine.map fun g => g.2.1) (SMap.get (fun _ => 0) s.switch.acceptPtr i)).head? with
    | none => s
    | some e =>
      let t := ((mine.find? fun g => g.2.1 == e).map fun g => g.2.2).getD 0
      let s := s.connect i e t
      if first then
        s.sw fun w => { w with grantPtr := SMap.set (fun _ => 0) w.grantPtr e ((i + 1) % 32),
                               acceptPtr := SMap.set (fun _ => 0) w.acceptPtr i ((e + 1) % 32) }
      else s

/-- The full plan (R344). -/
def fullPlan (s : Zone) (plca : BitVec 4) : Zone :=
  s.forEach [true, false, false, false] fun (s : Zone) (b : Bool) => s.fullIteration plca b

/-- Choose the plan again after a change; every pointer begins at the lowest active port (R345). -/
def choosePlan (s : Zone) : Zone :=
  if s.switch.dirty then
    let full := s.flag pSW SW0.SCHED_CFG_FORCE_FULL || decide (16 < s.swActive.length)
    (s.setFlag pSW SW0.SW_STATUS_PLAN full).sw fun w =>
      { w with dirty := false, ePtr := 0, inPtr := [], grantPtr := [], acceptPtr := [] }
  else s

/-- Discard the copy that egress side e fetches (R324). -/
def dropFetch (s : Zone) (e : Nat) (x : EgressSt) : Zone :=
  let s := if x.fetched < x.copy.cells then s.setVoq x.ingress e x.cls (s.voq x.ingress e x.cls).tail else s
  (((s.shape e).setEgress e none).setConn e none).settleCredit e |>.showBuf

/-- The end of a transmission at port e. -/
def endTx (s : Zone) (e : Nat) (x : EgressSt) : Zone :=
  let s := ((s.shape e).setEgress e none).settleCredit e
  let s := (s.stat (statClass e x.cls ClassStat.sent)).stat (statPort e PortStat.txFrames)
  s.statBy (statPort e PortStat.txOctets) (Frame.len (s.wireOf e x.copy))

/-- A copy leaves through an internal port e, where its transmission is its delivery; an egress mirror session of the port takes a copy
(R357). -/
def deliverTx (s : Zone) (e : Nat) (x : EgressSt) : Zone :=
  let s := if x.copy.mirror then s else s.mirror 1 e x.ingress { x.copy with frame := s.wireOf e x.copy }
  s.endTx e x

/-- The AVTP engine takes the frame that stands complete at port 30 where its messages fit (R366). -/
def avtpDrain (s : Zone) : Zone :=
  match s.egress 30 with
  | some x => if x.copy.cells ≤ x.fetched ∧ s.acfFits x.copy = true then (s.deliverTx 30 x).acfSplit x.copy else s
  | none => s

/-- Move one cell over each connection; a copy leaves its queue with its last cell (log entry 45). -/
def moveCells (s : Zone) (ecc : List (Fin 32 × EccResult)) : Zone :=
  s.forEach (List.range 32) fun (s : Zone) (e : Nat) =>
    match s.conn e, s.egress e with
    | some c, some x =>
      match ((ecc.find? fun (y : Fin 32 × EccResult) => y.1.val == e).map Prod.snd : Option EccResult) with
      | some .double => ((s.dropFetch e x).count pSW SW0.BUF_ECC_UE).report Src.eccOther 0
      | r =>
        let s := if r = some .corrected then s.count pSW SW0.BUF_ECC_CE else s
        let x' := { x with fetched := x.fetched + 1 }
        if x.copy.cells ≤ x'.fetched then
          (((s.shape e).setVoq x.ingress e x.cls (s.voq x.ingress e x.cls).tail).setEgress e (some x')).setConn e none |>.showBuf
        else (s.setEgress e (some x')).setConn e (if c.left ≤ 1 then none else some { c with left := c.left - 1 })
    | some _, none => s.setConn e none
    | none, _ => s

/-- The heads that the crossbar would fetch are checked for their age (R355). -/
def ageFetched (s : Zone) (plca : BitVec 4) : Zone :=
  s.forEach s.swActive fun (s : Zone) (e : Nat) =>
    if (s.egress e).isSome then s
    else match s.xbarRequest plca e with
      | some (t, from_) => s.forEach from_ fun (s : Zone) (i : Nat) => s.ageQueue i e t
      | none => s

/-- The scheduler of one cell time. -/
def crossbar (s : Zone) (plca : BitVec 4) (ecc : List (Fin 32 × EccResult)) : Zone :=
  let s := s.choosePlan.ageFetched plca
  let s := if s.flag pSW SW0.SW_STATUS_PLAN then s.fullPlan plca else s.compactPlan plca
  (s.moveCells ecc).avtpDrain

/-! ### Counters (R368) -/

/-- Whether a page offset holds a word of a statistics counter. -/
def isCounter (p off : Nat) : Bool :=
  (decide (0x300 ≤ off ∧ off < 0x358) || decide (0x400 ≤ off ∧ off < 0x680) ||
    (decide (p = 28 ∨ p = 29) && decide (0x708 ≤ off ∧ off < 0x720))) &&
  (decide (off < 0x400 ∨ 0x680 ≤ off) || decide ((off - 0x400) % 0x50 < 72))

/-- A read of a word of a statistics counter: the lower word latches the upper one for the next read of it. -/
def counterRead (s : Zone) (p off : Nat) : Nat × Zone :=
  let k := p * 0x1000 + off / 8 * 8
  let v := s.statVal k
  let setLatch (w : Option Word) : Zone := s.sw fun x => { x with latch := SMap.set (fun _ => none) x.latch k w }
  if off % 8 = 0 then (v % 2 ^ 32, setLatch (some (BitVec.ofNat 32 (v / 2 ^ 32))))
  else match SMap.get (fun _ => none) s.switch.latch k with
    | some w => (w.toNat, setLatch none)
    | none => (v / 2 ^ 32, s)

/-! ### PHY links -/

/-- Low-power idle is in use while FRUGAL applies and both ends agree (R321). -/
def showLpi (s : Zone) (p : Nat) : Zone :=
  s.setFlag (pPORT p) PORT.PHY_STATUS_LPI
    (decide (p < 16) && s.flag (pPORT p) PORT.PHY_STATUS_LINK && s.flag (pPORT p) PORT.PHY_CFG_EEE_PERMIT &&
      s.figures.lowPowerIdle && SMap.get (fun _ => false) s.switch.eee p)

/-- The figures of R55 that the switch holds: cells per burst, cut-through, low-power idle. -/
def showFigures (s : Zone) : Zone :=
  let v := s.figures
  let s := s.setFld pSW SW0.SW_STATUS_GRANT_CELLS v.cells
  let s := s.setFlag pSW SW0.SW_STATUS_CUT_THROUGH v.cutThrough
  s.forEach (List.range 24) showLpi

/-- PLCA runs on an enabled mixing segment, at 10 Mb/s (R320, R374). -/
def showPlca (s : Zone) (p : Nat) : Zone :=
  if 24 ≤ p ∧ p < 28 then
    (s.setFlag (pPORT p) PORT.PHY_STATUS_PLCA_ACTIVE (s.swEnabled p && s.flag (pPORT p) PORT.PHY_CFG_PLCA_EN)).setFld (pPORT p)
      PORT.PHY_STATUS_SPEED_NOW (b2n (s.swEnabled p))
  else s

/-- Port p holds its PLCA transmit opportunity, which a beacon of the coordinator has opened (R374; log entry 38). -/
def plcaTurn (s : Zone) (p : Nat) : Zone :=
  if s.flag (pPORT p) PORT.PHY_STATUS_PLCA_ACTIVE then
    s.sw fun w => { w with beacons := SMap.set (fun _ => none) w.beacons p (some s.mono) }
  else s

/-- Whether a beacon was seen in the last 4 ms on port p: the coordinator sends its own (R374; log entry 38). -/
def plcaBeacon (s : Zone) (p : Nat) : Bool :=
  s.flag (pPORT p) PORT.PHY_STATUS_PLCA_ACTIVE && (decide (s.fld (pPORT p) PORT.PHY_CFG_PLCA_ID = 0) ||
    (SMap.get (fun _ => none) s.switch.beacons p).any fun t => !s.past t (4 * ticksPerMs))

/-- The PHY of port p gains link (R320, R321, R374); `speed` and `leader` are what auto-negotiation resolves to. -/
def phyUp (s : Zone) (p : Nat) (speed : Nat) (leader eee : Bool) : Zone :=
  let pg := pPORT p
  if 24 ≤ p ∨ s.flag pg PORT.PHY_STATUS_LINK then s
  else
    let cfg := s.fld pg PORT.PHY_CFG_SPEED
    let now := if p < 4 then (if cfg = 0 then 4 + speed % 3 else 3 + cfg) else if p < 16 then 3 else 2
    let role := match s.fld pg PORT.PHY_CFG_ROLE with
      | 1 => 1
      | 2 => 2
      | _ => if 16 ≤ p then 2 else if leader then 1 else 2
    let s := ((s.setFld pg PORT.PHY_STATUS_LINK 1).setFld pg PORT.PHY_STATUS_SPEED_NOW now).setFld pg PORT.PHY_STATUS_ROLE_NOW role
    let s := (s.event pg PORT.PHY_EVENT_LINK_UP).sw fun w => { w with eee := SMap.set (fun _ => false) w.eee p eee }
    (s.showLpi p).portCheck p

/-- What an instance knew of the masters beyond port p is gone with the link (R392; log entry 96). -/
def dropMasters (s : Zone) (p : Nat) : Zone :=
  { s with time := { s.time with masters := SMap.set (fun _ => none) (SMap.set (fun _ => none) s.time.masters p none) (32 + p) none } }

/-- The PHY of port p loses link. -/
def phyDown (s : Zone) (p : Nat) : Zone :=
  let pg := pPORT p
  if s.flag pg PORT.PHY_STATUS_LINK then
    let s := ((s.setFld pg PORT.PHY_STATUS_LINK 0).setFld pg PORT.PHY_STATUS_SPEED_NOW 0).setFld pg PORT.PHY_STATUS_ROLE_NOW 0
    let s := (s.event pg PORT.PHY_EVENT_LINK_DOWN).count pg PORT.PHY_COUNTS_LINK_DOWNS
    let s := if p = s.fld pRING RING.RING_CTRL_WEST ∨ p = s.fld pRING RING.RING_CTRL_EAST then s.breakRing else s
    (((s.dropMasters p).showLpi p).portCheck p)
  else s

/-- The hold remaining of a port in HOLD, in 10 µs units (R371). -/
def showHold (s : Zone) (p : Nat) : Zone :=
  match SMap.get (fun _ => none) s.switch.holdEnd p with
  | some t => s.setFld (pSWP p) SWP.PORT_STATE_HOLD_LEFT ((t - s.mono + 2499) / 2500)
  | none => s

end Zone

/-! ### Commands -/

/-- One cell time of the crossbar; `plca` names the ports of 24 to 27 that hold a transmit opportunity, `ecc` what reading the
cells for an egress side finds. -/
def execCrossbarSchedule (plca : BitVec 4) (ecc : List (Fin 32 × EccResult)) (st : State) : Result :=
  st.runOn fun s =>
    let s := s.forEach ((List.range 4).filter plca.getLsbD) fun (s : Zone) (k : Nat) => s.plcaTurn (24 + k)
    s.crossbar plca ecc

/-- A frame of the egress side starts transmission when it is eligible (R347); `skew` is the stamp's error, 25 for none. -/
def execFrameTransmitStart (port : Fin 28) (plca : Bool) (skew : Fin 51) (st : State) : Result := st.runOn fun s =>
  let s := (s.when (plca && decide (24 ≤ port.val)) (·.plcaTurn port.val)).shape port.val
  match s.egress port.val with
  | none => s
  | some x =>
    if x.sending.isNone && decide (0 < x.fetched) && (s.linkState port.val == 0) &&
        s.eligible port.val x.cls (s.copyTime port.val x.copy) plca then
      s.beginTx port.val x ((skew.val : Int) - 25)
    else s

/-- A transmission ends when every cell has been fetched, of a frame sent cut-through when its reception has ended (R347, R352). -/
def execFrameTransmitEnd (port : Fin 28) (st : State) : Result := st.runOn fun s =>
  match s.egress port.val with
  | none => s
  | some x => if x.sending.isSome && decide (x.copy.cells ≤ x.fetched) && !x.live then s.endTx port.val x else s

def execGateEntryChange (port : Fin 32) (st : State) : Result := st.runOn fun s => (s.gateEval port.val)

/-- A write of 1 to COMMIT (R349). -/
def execGateCommit (port : Fin 32) (st : State) : Result := st.runOn fun s => (s.gateEval port.val).gateCommit port.val

def execStreamGateChange (gate : Fin 64) (st : State) : Result := st.runOn fun s => s.sgateEval gate.val

/-- The 10 µs check of every head (R355). -/
def execAgeCheck (st : State) : Result := st.runOn fun s =>
  let s := s.forEach s.usedQueues fun (s : Zone) (q : Nat × Nat) =>
    s.forEach (List.range 32) fun (s : Zone) (i : Nat) => s.ageQueue i q.1 q.2
  s.forEach (List.range 28) fun (s : Zone) (p : Nat) => s.showHold p

def execLinkDown (port : Fin 28) (st : State) : Result := st.runOn fun s => s.phyDown port.val

/-- A link comes up at a port that is not disabled: none runs in OFF, SLEEP or past a commit point, nor in BLANK or SCRAP, and
ports 4 to 27 are disabled in TEST (R50, R456, R614, R617). -/
def execLinkUp (port : Fin 28) (speed : Fin 3) (leader eee : Bool) (st : State) : Result := st.runOn fun s =>
  let blown (b : Nat) : Bool := decide (2 ≤ SMap.get (fun _ => 0) s.fuses.lc b)
  if s.inMode [.off, .sleep] || decide (3 ≤ s.sleep.phase) || (s.inMode [.test] && decide (4 ≤ port.val)) || !blown 0 || blown 3 then s
  else s.phyUp port.val speed.val leader eee

/-- The hold of a port that is still down ends, with the 10 µs evaluation in which it ends: a link-up within that evaluation is a return
within the hold (R356; log entry 97). -/
def execHoldExpiry (port : Fin 28) (st : State) : Result := st.runOn fun s =>
  let p := port.val
  match SMap.get (fun _ => none) s.switch.holdEnd p with
  | some t =>
    if t / 2500 < s.mono / 2500 ∧ s.linkState p = 1 then
      let s := (s.flushPort p fun _ => true).sw fun w => { w with holdEnd := SMap.set (fun _ => none) w.holdEnd p none }
      ((s.setFld (pSWP p) SWP.PORT_STATE_LINK_STATE 2).setFld (pSWP p) SWP.PORT_STATE_HOLD_LEFT 0).event (pSWP p)
        SWP.PORT_EVENT_HOLD_EXPIRED
    else s
  | none => s

/-- COP variant 0 of R330 on table window 64 + window: only the keeper that holds the watch delivers it. -/
def execTableWrite (window : Fin 7) (keeper : Keeper) (ticket : Fin 128) (index : Word) (st : State) : Result := st.runOn fun s =>
  if s.role keeper = Role.watch then Zone.winOp (s.ticketRef keeper ticket.val) (s.winWrite (64 + window.val) index.toNat)
  else s

/-- COP variant 1 of R330. -/
def execTableRead (window : Fin 7) (keeper : Keeper) (ticket : Fin 128) (index : Word) (st : State) : Result := st.runOn fun s =>
  if s.role keeper = Role.watch then Zone.winOp (s.ticketRef keeper ticket.val) (s.winRead (64 + window.val) index.toNat)
  else s

/-- COP variant 2 of R330. -/
def execTableClear (window : Fin 7) (keeper : Keeper) (ticket : Fin 128) (index : Word) (st : State) : Result := st.runOn fun s =>
  if s.role keeper = Role.watch then Zone.winOp (s.ticketRef keeper ticket.val) (s.winClear (64 + window.val) index.toNat)
  else s

/-- A read of a statistics counter's word (R368, R372). -/
def execCounterRead (port : Fin 32) (offset : BitVec 12) (st : State) : Result := st.runOn fun s =>
  let off := offset.toNat / 4 * 4
  if Zone.isCounter port.val off then
    let x := s.counterRead port.val off
    { x.2 with resp := ⟨0, x.1⟩ }
  else s

/-- A recovery function resets when no frame has restarted its timer for RESET_MS (R359). -/
def execFrerResetTimeout (function : Fin 256) (st : State) : Result := st.runOn fun s =>
  let f := function.val
  let ms := s.tabWord 68 (256 + f) 0 / 65536 % 1024
  if !(s.recov f).takeAny && s.past (s.recov f).at_ (ms * Zone.ticksPerMs) then s.recovReset f else s

/-- The signal quality of a PHY changes; SQI_LOW sets where it falls below SQI_WARN (R374). -/
def execSqiLow (port : Fin 28) (sqi : BitVec 3) (st : State) : Result := st.runOn fun s =>
  let pg := pPORT port.val
  let warn := s.fld pg PORT.SQI_WARN_LEVEL
  let was := s.fld pg PORT.PHY_STATUS_SQI
  let s := s.setFld pg PORT.PHY_STATUS_SQI sqi.toNat
  if sqi.toNat < warn ∧ warn ≤ was then s.event pg PORT.PHY_EVENT_SQI_LOW else s

end Sys2Proof.Machine
end

