-- ==== Sys2Proof/Machine/Monitor.lean ====
section
/-! DEFINITION. The safety monitor (R623 to R640, R680): active sources, reactions and demands, the alarm outputs, the fault
log, the scrubber. -/

namespace Sys2Proof.Machine

open Reg

/-- The event sources of R680 and the sources that stay active from their report until the next START. -/
def latchedSources : List Nat := [1, 6, 8, 9, 17, 18, 19, 20, 22, 25, 26, 27]

/-- The sources that no clearing of FAULT_EVENT releases before the next START (R680). -/
def startSources : List Nat := [1, 8, 9, 22, 25, 27]

namespace Zone

def core (s : Zone) (n : Nat) : CoreSt := SMap.get (fun _ => CoreSt.init) s.cores n
def setCore (s : Zone) (n : Nat) (x : CoreSt) : Zone := { s with cores := SMap.set (fun _ => CoreSt.init) s.cores n x }

def setSafety (s : Zone) (x : SafetySt) : Zone := { s with safety := x }

/-! ### Active sources -/

def anyLoad (s : Zone) (f : Fld) : Bool := (List.range 48).any fun n => s.flag (pLOAD n) f

/-- Whether the condition of a condition source holds (R680). -/
def condition (s : Zone) (n : Nat) : Bool :=
  let clocks (l : List Nat) : Bool := l.any fun d =>
    s.fldBit (pZONE 5) ZONE5.CLK_STATUS_STOPPED d || s.fldBit (pZONE 5) ZONE5.CLK_STATUS_OUT_OF_WINDOW d
  match n with
  | 0 => s.keeperDown .A || s.keeperDown .B
  | 2 => (List.range stageCount).any fun i => (s.stage i).silent
  | 3 => clocks [1, 2, 3, 4, 7]
  | 4 => clocks [0, 6, 8, 9]
  | 5 => decide (s.band .A ≠ 0) || decide (s.band .B ≠ 0) || s.flag (pZONE 3) ZONE3.SUPPLY_STATUS_CRANK_HOLD ||
      s.flag (pZONE 3) ZONE3.SUPPLY_STATUS_GND_A_LOST || s.flag (pZONE 3) ZONE3.SUPPLY_STATUS_GND_B_LOST
  | 7 => (List.range 4).any fun c => (s.core c).halted && (s.core c).fault.isSome
  | 10 => s.flag pTIME TIME0.TIME_STATUS_INTEGRITY_FAULT
  | 11 => s.flag (pZONE 1) KEEPER.KSTATUS_MARK_LOCAL || s.flag (pZONE 2) KEEPER.KSTATUS_MARK_LOCAL
  | 12 => s.anyLoad LOAD.CH_STATUS_STUCK_ON
  | 13 => s.anyLoad LOAD.CH_STATUS_STUCK_OFF
  | 14 => s.anyLoad LOAD.CH_STATUS_SHORT_BAT
  | 15 => s.flag pBAL BAL.BAL_STATUS_FAULT_A || s.flag pBAL BAL.BAL_STATUS_FAULT_B
  | 16 => (List.range 48).any fun c => s.flag (pCAL c) CAL.CAL_STATUS_FROZEN
  | 21 => decide (s.fld pTU TU.SECURE_STATE_STATE = 2)
  | 23 => s.flag (pZONE 4) ZONE4.THERM_STATUS_HALTED
  | 24 => s.flag (pALARM 0) ALARM.ALARM_STATUS_READBACK_FAULT || s.flag (pALARM 1) ALARM.ALARM_STATUS_READBACK_FAULT
  | _ => false

/-- Whether source n is active (FAULT_ACTIVE bit n). -/
def active (s : Zone) (n : Nat) : Bool :=
  if latchedSources.contains n then s.safety.latched.getLsbD n else s.condition n

/-- FAULT_ACTIVE (R680). -/
def faultActive (s : Zone) : Nat :=
  (List.range 28).foldl (fun w n => if s.active n then w + 2 ^ n else w) 0

/-- The reaction of source n (R625, R628, R632): the fixed ones apply their floor, TABLE_FAULT the highest class of
the codes reported since it became active (log entry 85). -/
def reaction (s : Zone) (n : Nat) : Nat :=
  if n = 8 ∨ n = 25 then reactFloor n
  else if n = 26 then s.safety.tableClass
  else s.fld pSAFE ⟨0x100 + 4 * n, 0, 3⟩

/-- The reaction that the monitor applies: none above WARN before the first SERVICE or LIGHTSHIP, and in TEST (R634). -/
def appliedClass (s : Zone) (r : Nat) : Nat := if s.inMode [.service, .lightship] then r else min 1 r

/-- The reaction that the monitor applies to source n. -/
def applied (s : Zone) (n : Nat) : Nat := s.appliedClass (s.reaction n)

/-! ### Demands -/

def demandCluster (s : Zone) : Bool := s.safety.laneA.cluster || s.safety.laneB.cluster
def demandAll (s : Zone) : Bool := s.safety.laneA.all || s.safety.laneB.all
def demandHeld (s : Zone) : Bool := s.demandCluster || s.demandAll

/-- Whether OWN_SAFETY marks load output n. -/
def ownSafety (s : Zone) (n : Nat) : Bool :=
  if n < 32 then s.fldBit pSAFE SAFE0.OWN_SAFETY_LO_CH n else s.fldBit pSAFE SAFE0.OWN_SAFETY_HI_CH (n - 32)

/-- The demand reaches the load controllers that it covers and leaves the others (R269, R628). -/
def applyDemand (s : Zone) : Zone :=
  let s := s.setFlag pSAFE SAFE0.MON_STATUS_DEMAND_CLUSTER s.demandCluster
  let s := s.setFlag pSAFE SAFE0.MON_STATUS_DEMAND_ALL s.demandAll
  s.forEach (List.range 48) fun (s : Zone) (n : Nat) =>
    if s.demandAll || (s.demandCluster && s.ownSafety n) then s.loadDemand n
    else if (s.load n).demanded then s.loadRelease n else s

/-! ### Alarm outputs -/

def alarm (s : Zone) (a : Fin 2) : AlarmLane := if a = 0 then s.safety.alarmA else s.safety.alarmB
def setAlarm (s : Zone) (a : Fin 2) (x : AlarmLane) : Zone :=
  s.setSafety (if a = 0 then { s.safety with alarmA := x } else { s.safety with alarmB := x })

/-- Whether alarm output a must be in fault signalling (R637, R638). -/
def mustSignal (s : Zone) (a : Fin 2) : Bool :=
  s.demandHeld || !s.inMode [.service, .lightship] || s.flag pSAFE SAFE0.MON_STATUS_RESET_PENDING || (s.alarm a).testUntil.isSome

/-- Begin fault signalling where it is due: the switch opens at once (R629, R637). It ends at a period boundary. -/
def beginSignals (s : Zone) : Zone :=
  s.forEach [(0 : Fin 2), 1] fun (s : Zone) (a : Fin 2) =>
    let p := pALARM a.val
    if s.mustSignal a && !s.flag p ALARM.ALARM_STATUS_FAULT_SIGNAL then
      let s := (s.setFld p ALARM.ALARM_STATUS_FAULT_SIGNAL 1).setAlarm a { s.alarm a with toggling := false, lowUs := 0 }
      if s.inMode [.start, .sleep, .test] then s else s.event p ALARM.ALARM_EVENT_FAULT_SIGNAL
    else s

/-- Whether an output's safety core runs split (R490). -/
def anySplit (s : Zone) : Bool := (List.range 4).any fun c => (s.core c).split

/-- Whether the condition of a status code holds on lane a (R636). A source with reaction RECORD raises no code. -/
def codeHolds (s : Zone) (a : Fin 2) (c : Nat) : Bool :=
  let shown (n : Nat) : Bool := decide (s.reaction n ≠ 0)
  let within (t : Option Nat) (ms : Nat) : Bool := match t with | some u => !s.past u (ms * ticksPerMs) | none => false
  match c with
  | 1 => (List.range 28).any fun n => !([0, 6, 9, 10, 11, 16, 21, 22, 24].contains n) && s.active n && shown n
  | 2 => within s.safety.injectedAt 1000
  | 3 => within s.safety.transientAt 10000 && shown 6
  | 4 => s.condition 16 && shown 16
  | 5 => s.flag pBAL BAL.BAL_STATUS_MARGIN_LOW_A || s.flag pBAL BAL.BAL_STATUS_MARGIN_LOW_B
  | 6 => (s.active 10 && shown 10) || (s.active 11 && shown 11) || decide (s.tstate = TS.holdover)
  | 7 => s.condition 0 && shown 0
  | 8 => (s.condition 21 && shown 21) || (decide (s.fld pTU TU.SECURE_STATE_STATE = 3) && shown 22)
  | 9 => s.flag (pALARM (1 - a.val)) ALARM.ALARM_STATUS_READBACK_FAULT && shown 24
  | 10 => s.anySplit
  | 11 => s.inMode [.lightship]
  | 12 => s.flag pSAFE SAFE0.MON_STATUS_DUALPASS_OFF && shown 9
  | _ => false

/-- The status code in force on lane a: the highest whose condition holds (R636). -/
def statusCode (s : Zone) (a : Fin 2) : Nat :=
  (List.range 13).foldl (fun b c => if s.codeHolds a c then c else b) 0

/-- The low time in µs of a period of a frame (R636). -/
def symbolUs (period code counter : Nat) : Nat :=
  let bit (b : Bool) : Nat := if b then 750 else 250
  if period = 0 then 500
  else if period ≤ 8 then bit (code.testBit (8 - period))
  else if period = 9 then bit (decide (((List.range 8).filter fun i => code.testBit i).length % 2 = 1))
  else bit (counter.testBit (11 - period))

/-- Whether the switch of alarm output a is closed now. -/
def alarmClosed (s : Zone) (a : Fin 2) : Bool :=
  (s.alarm a).toggling && decide (s.mono < (s.alarm a).since + (s.alarm a).lowUs * ticksPerUs)

/-! ### The fault log -/

/-- Show the head of the fault log (R645). -/
def showLog (s : Zone) : Zone :=
  let l := s.safety.log
  let e := l.headD ⟨0, 0, false, 0, 0⟩
  let s := (s.setFld pSAFE SAFE0.LOG_LEVEL_LEVEL l.length).setFlag pSAFE SAFE0.LOG_HEAD_VALID !l.isEmpty
  let s := (s.setFlag pSAFE SAFE0.LOG_HEAD_INJECTED e.injected).setFld pSAFE SAFE0.LOG_HEAD_REACTION e.reaction
  let s := (s.setFld pSAFE SAFE0.LOG_HEAD_SOURCE e.source).setFld pSAFE SAFE0.LOG_DETAIL_DETAIL e.detail.toNat
  let s := (s.setFld pSAFE SAFE0.LOG_TIME_LO_TIME e.time.toNat).setFld pSAFE SAFE0.LOG_TIME_HI_TIME (e.time.toNat / 2 ^ 32)
  s.when l.isEmpty (·.setFld pSAFE SAFE0.MON_STATUS_LOG_OVF 0)

/-- Append an entry, or lose it (R640). -/
def appendLog (s : Zone) (e : FaultEntry) : Zone :=
  if s.safety.log.length < 32 then (s.setSafety { s.safety with log := s.safety.log ++ [e] }).showLog
  else (s.setFld pSAFE SAFE0.MON_STATUS_LOG_OVF 1).count pSAFE SAFE0.MISC_COUNTS_LOG_LOST

def logPop (s : Zone) : Zone := (s.setSafety { s.safety with log := s.safety.log.drop 1 }).showLog

/-! ### Reactions -/

/-- A RESET reaction in SERVICE starts the delay of R631. -/
def demandReset (s : Zone) (n : Nat) : Zone :=
  match s.safety.resetDue with
  | some _ => s
  | none =>
    let t := s.mono + s.fld pSAFE SAFE0.RESET_CFG_DELAY * ticksPerMs
    (s.setSafety { s.safety with resetDue := some t, resetSource := n }).setFld pSAFE SAFE0.MON_STATUS_RESET_PENDING 1

/-- What a lane holds after a report of source n with reaction r (R628, R630, R631). -/
def Lane.react (l : Lane) (n r : Nat) (service : Bool) : Lane :=
  { l with cluster := l.cluster || decide (2 ≤ r), all := l.all || decide (3 ≤ r),
           fixed := l.fixed || (decide (2 ≤ r) && [1, 8, 25].contains n) || (decide (r = 4) && service) }

/-- Apply reaction r of source n in the lanes that the report reached. -/
def react (s : Zone) (n r : Nat) (toA toB : Bool) : Zone :=
  let service := s.inMode [.service]
  if s.flag pSAFE SAFE0.MON_STATUS_RESET_PENDING then s
  else if r < 2 then s
  else
    let s := s.setSafety { s.safety with
      laneA := if toA then Lane.react s.safety.laneA n r service else s.safety.laneA
      laneB := if toB then Lane.react s.safety.laneB n r service else s.safety.laneB }
    ((if r = 4 ∧ service then s.demandReset n else s).applyDemand).beginSignals

/-- At entry to SERVICE or LIGHTSHIP, every source that is still active takes its full reaction (R634). -/
def reactActive (s : Zone) : Zone :=
  s.forEach ((List.range 28).filter s.active) fun s n => s.react n (s.reaction n) true true

/-- The monitor takes one report (R623, R628, R632, R633, R640). -/
def takeReport (s : Zone) (r : Report) (toA toB : Bool) : Zone :=
  let n := r.source
  let bit : Word := 1#32 <<< n
  let cls := r.detail.toNat / 2 ^ 28 % 8
  let own := if n = 26 then (if cls ≤ 4 then cls else 0) else s.reaction n
  let a := if r.injected then 0 else s.appliedClass own
  let s := if n = 26 ∧ !r.injected then
      s.setSafety { s.safety with tableClass := if s.active 26 then max s.safety.tableClass own else own }
    else s
  let mark (l : Lane) (b : Bool) : Lane := { l with missed := if b then l.missed &&& ~~~bit else l.missed ||| bit }
  let s := s.setSafety { s.safety with
    latched := if latchedSources.contains n && !r.injected then s.safety.latched ||| bit else s.safety.latched
    laneA := mark s.safety.laneA toA
    laneB := mark s.safety.laneB toB
    injectedAt := if r.injected then some s.mono else s.safety.injectedAt
    transientAt := if n = 6 ∧ !r.injected then some s.mono else s.safety.transientAt }
  let s := (s.setFldBit pSAFE SAFE0.FAULT_EVENT_EVENT n true).setFld pSAFE SAFE0.MON_STATUS_LAST n
  let s := s.count pSAFE SAFE0.MON_COUNTS_TOTAL
  let s := s.when r.injected (·.count pSAFE SAFE0.MON_COUNTS_INJECTED)
  let s := s.countBy pSAFE ⟨0x200 + 4 * n, 0, 16⟩ 1
  let s := s.appendLog ⟨n, a, r.injected, r.detail, r.time⟩
  let s := s.postValue pSAFE ⟨0x008, n, 1⟩ r.detail.toNat
  s.react n a toA toB

/-- The next report to be taken: of those of the earliest cycle, the one with the lowest source (R640). -/
def nextReport (s : Zone) : Option Report :=
  match s.safety.reports with
  | [] => none
  | r :: l => some (l.foldl (fun b x => if x.tick = r.tick ∧ x.source < b.source then x else b) r)

/-- What a lane shows as active. -/
def laneActive (s : Zone) (l : Lane) : Nat := s.faultActive &&& (~~~l.missed).toNat

/-- A clearing of FAULT_EVENT bits releases the event sources (R680). -/
def clearFaultEvent (s : Zone) (v : Word) : Zone :=
  let keep := startSources.foldl (fun (w : Word) n => w ||| (1#32 <<< n)) 0
  let s := s.setFld pSAFE SAFE0.FAULT_EVENT_EVENT ((s.rd (pSAFE + 8)) &&& ~~~v).toNat
  s.setSafety { s.safety with latched := s.safety.latched &&& (~~~v ||| keep) }

/-- A write of DEMAND_RELEASE (R630). -/
def demandRelease (s : Zone) : Zone :=
  let fixed := s.safety.laneA.fixed || s.safety.laneB.fixed
  let high := (List.range 28).any fun n => s.active n && decide (2 ≤ s.reaction n)
  if fixed || high then s.count pSAFE SAFE0.MISC_COUNTS_RELEASE_REFUSED
  else
    let free (l : Lane) : Lane := { l with cluster := false, all := false }
    (s.setSafety { s.safety with laneA := free s.safety.laneA, laneB := free s.safety.laneB }).applyDemand

/-- A write of ALARM_TEST (R638). -/
def alarmTest (s : Zone) (a : Fin 2) : Zone :=
  let b : Fin 2 := if a = 0 then 1 else 0
  if s.flag (pALARM b.val) ALARM.ALARM_STATUS_FAULT_SIGNAL || (s.alarm b).testUntil.isSome then
    s.count (pALARM a.val) ALARM.ALARM_COUNTS_TEST_REFUSED
  else
    let ms := s.fld (pALARM a.val) ALARM.ALARM_CFG_TEST_MS
    let s := s.setAlarm a { s.alarm a with testUntil := some (s.mono + ms * ticksPerMs) }
    (s.setFld (pALARM a.val) ALARM.ALARM_STATUS_TEST_ACTIVE 1).beginSignals

end Zone

/-! ### Commands -/

/-- Every 100 µs (R624). -/
def execLaneCompare (st : State) : Result := st.runOn fun s => s.paced Pace.lanes 25000 fun s =>
  let a := s.safety.laneA
  let b := s.safety.laneB
  if s.laneActive a ≠ s.laneActive b ∨ a.cluster ≠ b.cluster ∨ a.all ≠ b.all then
    let s := s.setSafety { s.safety with mismatches := s.safety.mismatches + 1 }
    if 5 ≤ s.safety.mismatches ∧ s.flag pSAFE SAFE0.MON_STATUS_LANE_MISMATCH = false then
      (s.setFld pSAFE SAFE0.MON_STATUS_LANE_MISMATCH 1).report Src.laneMismatch 0
    else s
  else s.setSafety { s.safety with mismatches := 0 }

def execDemandRelease (writer : Writer) (st : State) : Result := st.runBy writer fun s =>
  if Zone.secureWriter writer then s.demandRelease else s

/-- Whether the clock of an alarm lane has stopped (R623, R637): lane A runs from the TCXO, as the time base does, lane B from keeper B's
oscillator. -/
def Zone.laneStopped (s : Zone) (a : Fin 2) : Bool := s.fldBit (pZONE 5) ZONE5.CLK_STATUS_STOPPED (if a = 0 then 1 else 3)

/-- A period boundary of an alarm lane, every 1 ms ± 0.1 % (R636, R637). -/
def execAlarmPeriod (lane : Fin 2) (st : State) : Result := st.runOn fun s => s.paced (Pace.alarm lane.val) 249750 fun s =>
  let p := pALARM lane.val
  if s.mustSignal lane || s.laneStopped lane then s
  else
    let x := s.alarm lane
    let s := s.setFld p ALARM.ALARM_STATUS_FAULT_SIGNAL 0
    let period := if x.toggling then (x.period + 1) % 12 else 0
    let code := if period = 0 then s.statusCode lane else x.code
    let frame := if period = 0 then x.counter else (x.counter + 3) % 4
    let s := (s.setFld p ALARM.ALARM_STATUS_CODE code).setFld p ALARM.ALARM_STATUS_FRAME_COUNT frame
    s.setAlarm lane { x with toggling := true, period := period, code := code, since := s.mono,
                             counter := if period = 0 then (x.counter + 1) % 4 else x.counter,
                             lowUs := Zone.symbolUs period code frame }

def execAlarmTest (writer : Writer) (lane : Fin 2) (st : State) : Result := st.runBy writer fun s =>
  if Zone.secureWriter writer then s.alarmTest lane else s

def execAlarmTestEnd (lane : Fin 2) (st : State) : Result := st.runOn fun s =>
  match (s.alarm lane).testUntil with
  | some t =>
    if t ≤ s.mono then
      let p := pALARM lane.val
      let s := s.setAlarm lane { s.alarm lane with testUntil := none }
      let s := (s.setFld p ALARM.ALARM_STATUS_TEST_ACTIVE 0).event p ALARM.ALARM_EVENT_TEST_DONE
      s.count p ALARM.ALARM_COUNTS_TESTS
    else s
  | none => s

/-- A half-period check of the pin against the driven state (R639). -/
def execAlarmReadbackCheck (lane : Fin 2) (pinHigh : Bool) (st : State) : Result := st.runOn fun s => s.paced (Pace.readback lane.val) 124875 fun s =>
  let p := pALARM lane.val
  let x := s.alarm lane
  if pinHigh = s.alarmClosed lane then
    let s := (s.setAlarm lane { x with wrong := min 3 (x.wrong + 1), right := 0 }).count p ALARM.ALARM_COUNTS_READBACK_ERR
    if 3 ≤ x.wrong + 1 ∧ s.flag p ALARM.ALARM_STATUS_READBACK_FAULT = false then
      let s := (s.setFld p ALARM.ALARM_STATUS_READBACK_FAULT 1).event p ALARM.ALARM_EVENT_READBACK
      s.report Src.alarmReadback (BitVec.ofNat 32 lane.val)
    else s
  else
    let s := s.setAlarm lane { x with wrong := 0, right := min 16 (x.right + 1) }
    if 16 ≤ x.right + 1 then s.setFld p ALARM.ALARM_STATUS_READBACK_FAULT 0 else s

def execSafeLogPop (writer : Writer) (st : State) : Result := st.runBy writer fun s =>
  if Zone.secureWriter writer then s.logPop else s

/-- The scrubber reads a word (R627); `progress` is how far its pass has come, in thousandths. -/
def execScrubRead (target : ScrubTarget) (ecc : EccResult) (progress : Fin 1000) (st : State) : Result := st.run fun s =>
  if !s.inMode [.service, .lightship] then s
  else
    let s := s.when (decide (progress.val < s.fld pSAFE SAFE0.SCRUB_STATUS_PROGRESS)) (·.count pSAFE SAFE0.SCRUB_STATUS_PASSES)
    let s := s.setFld pSAFE SAFE0.SCRUB_STATUS_PROGRESS progress.val
    match ecc with
    | .clean => s
    | .corrected =>
      let s := s.count pSAFE SAFE0.SCRUB_COUNTS_CE
      match target with
      | .chart k | .table k => s.count (pKEEPER k) KEEPER.MISC_COUNTS_CHART_CE
      | _ => s
    | .double =>
      let s := s.count pSAFE SAFE0.SCRUB_COUNTS_UE
      match target with
      | .chart k => s.selfCheck k 1
      | .table k => s.selfCheck k 2
      | .safety core addr => s.report Src.eccSafety (BitVec.ofNat 32 (core.toNat + addr.toNat * 65536))
      | .other => s.report Src.eccOther 0

end Sys2Proof.Machine
end

