-- ==== Sys2Proof/Machine/HingeBase.lean ====
section
/-! DEFINITION. What the hinges hold (R539, R544, R554, R555): their queues, their logs and their prefetched lines. -/

namespace Sys2Proof.Machine

open Reg

namespace Zone

/-- An error of H1 is reported to the safety monitor (R544), with no detail (R640). -/
def hingeReport (s : Zone) (h : Nat) : Zone := if h = 1 then s.report Src.hingeH1 0 else s

/-- Append a record to the error log (R544). -/
def hingeError (s : Zone) (h : Nat) (r : HingeRec) : Zone :=
  let x := s.hinge h
  let s := s.hingeReport h
  if x.errs.length < 16 then (s.setHinge h { x with errs := x.errs ++ [r] }).count (pHINGE h) HINGE.LOG_COUNTS_ERR_LOGGED
  else (s.setFld (pHINGE h) HINGE.HSTATUS_ERR_OVF 1).count (pHINGE h) HINGE.LOG_COUNTS_ERR_LOST

/-- Discard a prefetched line (R555); one that has answered a read leaves no record. -/
def discardLine (s : Zone) (h : Nat) (l : HeldLine) (cause : Nat) : Zone :=
  let x := s.hinge h
  let s := s.setHinge h { x with lines := x.lines.filter fun m => m != l }
  if l.answered then s
  else
    let s := s.count (pHINGE h) HINGE.DISCARDS_COUNT
    let x := s.hinge h
    if x.discs.length < 16 then s.setHinge h { x with discs := x.discs ++ [⟨l.addr, cause, l.inbound, false, l.src⟩] }
    else (s.setFld (pHINGE h) HINGE.HSTATUS_DISC_OVF 1).count (pHINGE h) HINGE.LOG_COUNTS_DISC_LOST

/-- A write reaches `n` bytes from address `a`: the prefetched lines that hold one of them are discarded, cause WRITTEN. -/
def lineWritten (s : Zone) (h a n : Nat) : Zone :=
  s.forEach ((s.hinge h).lines.filter fun l => decide (l.addr < a + n ∧ a < l.addr + 64)) fun (s : Zone) (l : HeldLine) =>
    s.discardLine h l 2

/-- Remove the head record of the error log or the discard log. -/
def errPop (s : Zone) (h : Nat) : Zone := let x := s.hinge h; s.setHinge h { x with errs := x.errs.tail }
def discPop (s : Zone) (h : Nat) : Zone := let x := s.hinge h; s.setHinge h { x with discs := x.discs.tail }

/-- A posted write enters a hinge, or waits at its port (R541). A write through H0 OUT discards the lines that it reaches
(R555). -/
def hingePost (s : Zone) (h : Nat) (t : HingeTxn) : Zone :=
  (if h = 0 ∧ !t.inbound then s.lineWritten 0 t.addr t.size else s).hingeEnter h t true

/-- A request enters a hinge, or waits at its port (R541). -/
def hingeRequest (s : Zone) (h : Nat) (t : HingeTxn) : Zone := s.hingeEnter h t false

/-- A place in a queue of a hinge has become free: the oldest transaction that waits for one takes it, and the initiator of a
posted write hears that it is accepted (R541). -/
def hingeAdmit (s : Zone) (h : Nat) (inbound posted : Bool) : Zone :=
  let x := s.hinge h
  match x.port.find? fun p => p.posted == posted && p.txn.inbound == inbound with
  | none => s
  | some p =>
    let s := s.setHinge h ({ x with port := x.port.erase p }.accept p.txn posted)
    if p.answers then s.respond 0 0 else s

/-! ### The H1 copy engine (R557) -/

/-- The value of two words as an address. -/
def pairAddr (s : Zone) (p : Nat) (lo hi : Fld) : Nat := (s.rd (p + lo.off)).toNat + (s.rd (p + hi.off)).toNat * 2 ^ 32

/-- A job ends in a state, with the notice of COPY_ROUTE. -/
def copyEnd (s : Zone) (state code : Nat) : Zone :=
  let p := pHINGE 1
  let s := (s.setFld p HINGE.COPY_STATUS_STATE state).setFld p HINGE.COPY_STATUS_CODE code
  s.sendNotice (s.rd (p + HINGE.COPY_ROUTE_ROUTE.off))

/-- A write of 1 to START: the job carries the world and mooring of the write; one of the secure world holds block 13 (R527). -/
def copyStart (s : Zone) (src : Source) : Zone :=
  let p := pHINGE 1
  let len := s.fld p HINGE.COPY_LEN_BYTES
  if s.fld p HINGE.COPY_STATUS_STATE = 1 then s.count p HINGE.COPY_REJECT_COUNT
  else
    let s := (s.setFlag p HINGE.COPY_STATUS_WORLD (src.world == .secure)).setFld p HINGE.COPY_STATUS_MOORING src.mooring.toNat
    if (s.pairAddr p HINGE.COPY_SRC_LO_ADDR HINGE.COPY_SRC_HI_ADDR) % 4 ≠ 0 ∨
        (s.pairAddr p HINGE.COPY_DST_LO_ADDR HINGE.COPY_DST_HI_ADDR) % 4 ≠ 0 ∨ len % 4 ≠ 0 ∨ len < 4 ∨ 1048576 < len then
      s.copyEnd 3 1
    else
      let s := (s.setFld p HINGE.COPY_STATUS_STATE 1).setFld p HINGE.COPY_STATUS_CODE 0
      if src.world = .secure then s.setFldBit (pZONE 5) ZONE5.HOLD_HOLD 13 true else s

end Zone

end Sys2Proof.Machine
end

