-- ==== Sys2Proof/Machine/Worlds.lean ====
section
/-! DEFINITION. Worlds and moorings: region registers and the region check (R501 to R507), memory, the translation unit (R511
to R516), world switches (R508, R509), the gating of blocks and SECURE_HOLD (R526 to R528). -/

namespace Sys2Proof.Machine

open Reg

/-! Error codes of an access (R543). -/
namespace Err
@[reducible] def none : Nat := 0
@[reducible] def align : Nat := 1
@[reducible] def decode : Nat := 2
@[reducible] def region : Nat := 3
@[reducible] def timeout : Nat := 4
@[reducible] def targetAbort : Nat := 5
@[reducible] def poison : Nat := 6
@[reducible] def ecc : Nat := 7
@[reducible] def linkDown : Nat := 8
@[reducible] def qFull : Nat := 9
@[reducible] def qBind : Nat := 10
@[reducible] def qEmpty : Nat := 11
@[reducible] def translation : Nat := 12
end Err

/-! DMA masters of FAULT_SRC (R529). -/
namespace Master
@[reducible] def port28 : Nat := 1
@[reducible] def port29 : Nat := 2
@[reducible] def bus : Nat := 3
@[reducible] def log : Nat := 4
@[reducible] def h0 : Nat := 5
@[reducible] def h1 : Nat := 6
@[reducible] def h2 : Nat := 7
end Master

/-- Secure world, mooring 0: the translation unit's own reads and the logbook engine (R499). -/
def sourceZero : Source := ⟨.secure, 0⟩

/-- The canonical form of addressed memory: addresses strictly rising, and no entry equal to what an unlisted address reads as. -/
abbrev Memory.wf (m : SMap Byte) : Bool := SMap.wf (fun _ => (0 : Byte)) m

namespace Zone

/-! ### Cores and memory -/

def hart (s : Zone) (h : Nat) : HartSt := SMap.get (fun _ => HartSt.init) s.harts h
def setHart (s : Zone) (h : Nat) (x : HartSt) : Zone := { s with harts := SMap.set (fun _ => HartSt.init) s.harts h x }

/-- The memory controller of an address (R501), by MOOR channel; none in no controller's range. A shadow is addressable only
while its core is split. -/
def controller (s : Zone) (a : Nat) : Option Nat :=
  if 0x1000000000 ≤ a ∧ a ≤ 0x13FFFFFFFF then some 1
  else if 0x1E0000000 ≤ a ∧ a < 0x1E0200000 then some (2 + (a - 0x1E0000000) / 0x80000)
  else if 0x1E0200000 ≤ a ∧ a < 0x1E0400000 then
    if (s.core ((a - 0x1E0200000) / 0x80000)).split then some (6 + (a - 0x1E0200000) / 0x80000) else none
  else if 0x1E0400000 ≤ a ∧ a < 0x1E0500000 then some 10
  else if 0x1C0000000 ≤ a ∧ a < 0x1E0000000 then some 11
  else if 0x1F0000000 ≤ a ∧ a < 0x1F8000000 then some 12
  else if (0x190000000 ≤ a ∧ a < 0x1C0000000) ∨ (0x2000000000 ≤ a ∧ a < 0x3000000000) then some 13
  else none

/-- The byte at a physical address; a byte that nothing has written reads zero (log entry 6). -/
def memByte (s : Zone) (a : Nat) : Byte := SMap.get (fun _ => 0) s.mem a
def setMemByte (s : Zone) (a : Nat) (b : Byte) : Zone := { s with mem := SMap.set (fun _ => 0) s.mem a b }

def memRead (s : Zone) (a n : Nat) : List Byte := (List.range n).map fun k => s.memByte (a + k)

/-- A write of a byte takes away the reservations of the words that hold it (log entry 72). -/
def unreserve (s : Zone) (a : Nat) : Zone :=
  s.forEach (List.range 4) fun (s : Zone) (n : Nat) =>
    match (s.core n).reserved with
    | some r => if r = a / 4 then s.setCore n { s.core n with reserved := none } else s
    | none => s

/-- Put a byte into memory. One that enters the TCM of a core in dual-pass writes its complement into the shadow (R477). -/
def putByte (s : Zone) (a : Nat) (b : Byte) : Zone :=
  let s := (s.setMemByte a b).unreserve a
  if 0x1E0000000 ≤ a ∧ a < 0x1E0200000 ∧ !(s.core ((a - 0x1E0000000) / 0x80000)).split then s.setMemByte (a + 0x200000) (~~~b) else s

/-- The safety core whose TCM holds an address and defers writes of other masters (R478): it waits for the re-run of a leg that
is not an access leg. -/
def deferringCore (s : Zone) (a : Nat) : Option Nat :=
  if 0x1E0000000 ≤ a ∧ a < 0x1E0200000 then
    let n := (a - 0x1E0000000) / 0x80000
    match (s.core n).fault with
    | some f => if f.isAccess || (s.core n).halted then none else some n
    | none => none
  else none

/-- Write a byte as a master other than the core of a TCM. -/
def storeByte (s : Zone) (a : Nat) (b : Byte) : Zone :=
  match s.deferringCore a with
  | some n => s.setCore n { s.core n with deferred := (s.core n).deferred ++ [(a, b)] }
  | none => s.putByte a b

def storeBytes (s : Zone) (a : Nat) : List Byte → Zone
  | [] => s
  | b :: r => storeBytes (s.storeByte a b) (a + 1) r

/-- Write bytes at a physical address; prefetched lines of H1 that hold one of them are discarded (R555). -/
def memWrite (s : Zone) (a : Nat) (l : List Byte) : Zone := (s.storeBytes a l).lineWritten 1 a l.length

/-- Whether an address is that of an IMSIC file or of a safety local controller, and the route word of a notice to it (R537,
R548). -/
def irqTarget (a : Nat) : Option Nat :=
  if 0x1F2000000 ≤ a ∧ a < 0x1F2040000 then
    let o := a - 0x1F2000000
    if o % 0x1000 = 0 ∧ o / 0x1000 % 8 ≤ 6 then some (2 ^ 30 + o / 0x8000 * 2 ^ 27 + o / 0x1000 % 8 * 2 ^ 24) else none
  else if 0x1F2080000 ≤ a ∧ a < 0x1F2088000 then
    let o := a - 0x1F2080000
    if o % 0x1000 = 0 then some (2 * 2 ^ 30 + o / 0x1000 * 2 ^ 27) else none
  else none

/-- Whether an address lies in the register space, or in the H0 outbound window (R501, R537). -/
def inSpace (a : Nat) : Bool := decide (0x1F0000000 ≤ a ∧ a < 0x1F8000000)
def inH0 (a : Nat) : Bool := decide ((0x190000000 ≤ a ∧ a < 0x1C0000000) ∨ (0x2000000000 ≤ a ∧ a < 0x3000000000))

/-- Whether an address lies in the root port's own configuration space (R559), which is inside the module: what its registers hold
is the published specification's, and the model leaves it open (log entry 76). -/
def rootConfig (a : Nat) : Bool := decide (0x190000000 ≤ a ∧ a < 0x190001000)

def h0Up (s : Zone) : Bool := s.flag (pHINGE 0) HINGE.HSTATUS_LINK_UP

/-- A write that enters the H0 outbound window (R541, R546): posted, or discarded and logged while the link is down. -/
def h0Write (s : Zone) (src : Source) (a : Nat) (l : List Byte) : Zone :=
  if s.h0Up then s.hingePost 0 ⟨true, false, a, src, l.length, l, false, 0⟩
  else s.hingeError 0 ⟨a, Err.linkDown, false, false, src⟩

/-- A DMA write to a physical address. In the register space it reaches the interrupt files only (R548, R550); other pages
answer DECODE (log entry 54). -/
def dmaStore (s : Zone) (src : Source) (a : Nat) (l : List Byte) : Nat × Zone :=
  if inSpace a then
    match irqTarget a with
    | some r => if l.length = 4 then (Err.none, s.sendNotice (BitVec.ofNat 32 (r + leNat l % 2048))) else (Err.decode, s)
    | none => (Err.decode, s)
  else if inH0 a then (Err.none, s.h0Write src a l)
  else (Err.none, s.memWrite a l)

/-- `n` values that the spec leaves open, as bytes (log entry 2). -/
def openBytes (s : Zone) : Nat → List Byte × Zone
  | 0 => ([], s)
  | n + 1 => let y := openBytes s.fresh.2 n; (s.fresh.1.setWidth 8 :: y.1, y.2)

/-- A DMA read of a physical address: what a device behind H0 answers comes from outside the module. -/
def dmaLoad (s : Zone) (a n : Nat) : List Byte × Zone := if inH0 a then s.openBytes n else (s.memRead a n, s)

/-! ### Regions (R502 to R504) -/

/-- Whether mooring m belongs to group g (R502). -/
def inGroup (s : Zone) (g m : Nat) : Bool :=
  (m &&& s.fld pTU (TU.GROUP_MASK.nth 4 g)) == s.fld pTU (TU.GROUP_VALUE.nth 4 g)

/-- Whether region k of controller c permits an access (R503). -/
def regionAllows (s : Zone) (c k : Nat) (src : Source) (rd wr : Bool) (a n : Nat) : Bool :=
  let p := pREGN c
  let f (x : Fld) : Fld := x.nth 16 k
  let secure := src.world == .secure
  s.flag p (f REGN.REGION_EN) &&
    decide (s.fld p (f REGN.REGION_BASE) ≤ a / 4096 ∧ (a + n - 1) / 4096 ≤ s.fld p (f REGN.REGION_LIMIT)) &&
    (!rd || s.flag p (f (if secure then REGN.REGION_S_R else REGN.REGION_NW_R))) &&
    (!wr || s.flag p (f (if secure then REGN.REGION_S_W else REGN.REGION_NW_W))) &&
    s.inGroup (s.fld p (f REGN.REGION_GROUP)) src.mooring.toNat

/-- Whether controller c permits an access: one enabled region does (R503). -/
def permitted (s : Zone) (c : Nat) (src : Source) (rd wr : Bool) (a n : Nat) : Bool :=
  (List.range (controllerRegions c)).any fun k => s.regionAllows c k src rd wr a n

/-- Count and record a refusal (R504); one at a safety-core TCM or shadow is reported. -/
def refuse_ (s : Zone) (c : Nat) (src : Source) (wr : Bool) (a : Nat) : Zone :=
  let p := pREGN c
  let s := if s.fld p REGN.VIOL_COUNT_COUNT = 0 then
      ((((s.setFld p REGN.VIOL_ADDR_LO_ADDR (a % 2 ^ 32)).setFld p REGN.VIOL_ADDR_HI_ADDR (a / 2 ^ 32)).setFlag p
        REGN.VIOL_SRC_WRITE wr).setFlag p REGN.VIOL_SRC_WORLD (src.world == .secure)).setFld p REGN.VIOL_SRC_MOORING
        src.mooring.toNat
    else s
  let s := s.count p REGN.VIOL_COUNT_COUNT
  if 2 ≤ c ∧ c ≤ 9 then s.report Src.regionSafety (BitVec.ofNat 32 ((c - 2) % 4 + a % 65536 * 65536)) else s

/-- The check of an access to memory: the code, and the state with a refusal recorded. -/
def regionCheck (s : Zone) (src : Source) (rd wr : Bool) (a n : Nat) : Nat × Zone :=
  match s.controller a with
  | none => (Err.decode, s)
  | some c => if s.permitted c src rd wr a n then (Err.none, s) else (Err.region, s.refuse_ c src wr a)

/-! ### The translation unit (R511 to R516) -/

def setTu (s : Zone) (t : TuSt) : Zone :=
  let s := { s with tu := t }
  let s := (s.setFld pTU TU.TU_STATUS_FAULT_LEVEL t.faults.length).setFlag pTU TU.TU_STATUS_INVAL_BUSY t.inval.isSome
  match t.faults with
  | f :: _ =>
    ((((((s.setFld pTU TU.FAULT_ADDR_LO_ADDR (f.addr % 2 ^ 32)).setFld pTU TU.FAULT_ADDR_HI_ADDR (f.addr / 2 ^ 32)).setFld pTU
      TU.FAULT_SRC_VALID 1).setFld pTU TU.FAULT_SRC_CAUSE f.cause).setFld pTU TU.FAULT_SRC_MASTER f.master).setFlag pTU
      TU.FAULT_SRC_WRITE f.write).setFlag pTU TU.FAULT_SRC_WORLD (f.src.world == .secure) |>.setFld pTU
      TU.FAULT_SRC_MOORING f.src.mooring.toNat
  | [] => (((s.setFld pTU TU.TU_STATUS_FAULT_OVF 0).wr (pTU + 0x028) 0).wr (pTU + 0x02C) 0).wr (pTU + 0x030) 0

/-- A translation fault (R516). -/
def tuFault (s : Zone) (f : TuFault) : Zone :=
  let s := s.count pTU TU.TU_COUNTS_FAULTS
  if s.tu.faults.length < 16 then s.setTu { s.tu with faults := s.tu.faults ++ [f] }
  else (s.setFld pTU TU.TU_STATUS_FAULT_OVF 1).count pTU TU.TU_COUNTS_LOST

/-- Remove the head fault record (R516). -/
def tuPop (s : Zone) : Zone := if s.tu.faults = [] then s else s.setTu { s.tu with faults := s.tu.faults.tail }


end Zone

/-- Whether a cache entry maps an address of a context. -/
def TuEntry.maps (e : TuEntry) (src : Source) (va : Nat) : Bool :=
  e.src == src && e.page == (if e.large then va / 2 ^ 21 else va / 2 ^ 12)

/-- The physical address of an address that the entry maps. -/
def TuEntry.pa (e : TuEntry) (va : Nat) : Nat := e.ppn * 4096 + (if e.large then va % 2 ^ 21 else va % 2 ^ 12)

/-- Whether an invalidation names an entry (R515). -/
def Inval.names (i : Inval) (e : TuEntry) : Bool :=
  match i.kind with
  | 1 => true
  | 2 => e.src == i.src
  | _ => e.maps i.src i.addr

/-- What a translation answers: the physical address, or the cause of R529. -/
inductive Translation where
  | pa (a : Nat)
  | fault (cause : Nat)
deriving DecidableEq, Repr

namespace Zone

/-- A read of the translation unit itself: with the secure world and mooring 0, refused or with an uncorrectable error none. -/
def walkRead (s : Zone) (a n : Nat) (walkUe : Bool) : Option (List Byte) × Zone :=
  let x := s.regionCheck sourceZero true false a n
  if x.1 ≠ Err.none ∨ walkUe then (none, x.2) else (some (x.2.memRead a n), x.2)

def ctxBase (s : Zone) : Nat := s.fld pTU TU.CTX_BASE_LO_BASE * 2 ^ 17 + s.fld pTU TU.CTX_BASE_HI_BASE * 2 ^ 32

/-- The walk of R513 from table address `a` at level `lvl`. -/
def walkFrom (s : Zone) (src : Source) (va : Nat) (wr walkUe : Bool) : Nat → Nat → Nat → Translation × Option TuEntry × Zone
  | 0, _, _ => (.fault 5, none, s)
  | fuel + 1, a, lvl =>
    let x := s.walkRead (a + va / 2 ^ (12 + 9 * lvl) % 512 * 8) 8 walkUe
    match x.1 with
    | none => (.fault 6, none, x.2)
    | some b =>
      let e := leNat b
      let s := x.2
      if !e.testBit 0 then (.fault 3, none, s)
      else if e / 2 ^ 3 % 2 ^ 7 ≠ 0 ∨ e / 2 ^ 38 ≠ 0 then (.fault 5, none, s)
      else
        let ppn := e / 2 ^ 10 % 2 ^ 28
        if !e.testBit 1 && !e.testBit 2 then
          if lvl = 0 then (.fault 5, none, s) else walkFrom s src va wr walkUe fuel (ppn * 4096) (lvl - 1)
        else if lvl = 2 then (.fault 5, none, s)
        else if lvl = 1 ∧ ppn % 512 ≠ 0 then (.fault 5, none, s)
        else if !wr && !e.testBit 1 then (.fault 4, none, s)
        else if wr && !e.testBit 2 then (.fault 4, none, s)
        else
          let t : TuEntry := ⟨src, va / 2 ^ (12 + 9 * lvl), lvl == 1, ppn, e.testBit 1, e.testBit 2⟩
          (.pa (t.pa va), some t, s)

/-- The context lookup and the walk (R512, R513). -/
def walk (s : Zone) (src : Source) (va : Nat) (wr walkUe : Bool) : Translation × Option TuEntry × Zone :=
  let w := if src.world = .secure then 1 else 0
  let x := s.walkRead (s.ctxBase + (w * 4096 + src.mooring.toNat) * 16) 16 walkUe
  match x.1 with
  | none => (.fault 6, none, x.2)
  | some b =>
    let c := leNat (b.take 8)
    let mode := c % 4
    if mode = 2 ∧ src.world = .secure then (.pa va, none, x.2)
    else if mode ≠ 1 then (.fault 1, none, x.2)
    else if va / 2 ^ 39 ≠ 0 then (.fault 2, none, x.2)
    else walkFrom x.2 src va wr walkUe 3 (c / 2 ^ 12 % 2 ^ 28 * 4096) 2

/-- Put an entry into the cache; a full cache loses an entry of which the spec does not say which (log entry 2). -/
def cacheAdd (s : Zone) (e : TuEntry) : Zone :=
  if s.tu.cache.length < 1024 then s.setTu { s.tu with cache := s.tu.cache ++ [e] }
  else
    let f := s.fresh
    f.2.setTu { f.2.tu with cache := dropNth f.2.tu.cache (f.1.toNat % 1024) ++ [e] }

/-- Translate an address of a DMA master (R511 to R514). While an invalidation runs, an entry that it names may still be used
or not (R515; log entry 2). A hit whose entry lacks the permission walks again, because faults are never cached. -/
def translate (s : Zone) (master : Nat) (src : Source) (va : Nat) (wr walkUe : Bool) : Translation × Zone :=
  if !s.flag pTU TU.TU_CTRL_EN then (.pa va, s)
  else
    let hit := s.tu.cache.find? fun e => e.maps src va && (if wr then e.w else e.r)
    let stale (e : TuEntry) : Bool := match s.tu.inval with | some i => i.names e | none => false
    let y : Bool × Zone := match hit with
      | some e => if stale e then (s.fresh.1.getLsbD 0, s.fresh.2) else (true, s)
      | none => (false, s)
    let s := y.2
    match (if y.1 then hit else none) with
    | some e => (.pa (e.pa va), s)
    | none =>
      let s := s.count pTU TU.TC_MISSES_COUNT
      let x := s.walk src va wr walkUe
      match x.1, x.2.1 with
      | .pa a, some e => (.pa a, if x.2.2.tu.cache.contains e then x.2.2 else x.2.2.cacheAdd e)
      | .pa a, none => (.pa a, x.2.2)
      | .fault c, _ => (.fault c, x.2.2.tuFault ⟨va, c, master, wr, src⟩)

/-- Where translation sends a DMA access to memory, page by page: the pieces (physical address, length) of the pages that
translate and pass the region check, and the code of the first that does not. -/
def dmaPieces (s : Zone) (master : Nat) (src : Source) (wr walkUe : Bool) : Nat → Nat → Nat → List (Nat × Nat) × Nat × Zone
  | 0, _, _ => ([], Err.none, s)
  | fuel + 1, va, n =>
    if n = 0 then ([], Err.none, s)
    else
      let k := min n (4096 - va % 4096)
      let x := s.translate master src va wr walkUe
      match x.1 with
      | .fault _ => ([], Err.translation, x.2)
      | .pa a =>
        let y := x.2.regionCheck src (!wr) wr a k
        if y.1 ≠ Err.none then ([], y.1, y.2)
        else if !wr && inSpace a then ([], Err.decode, y.2)
        else if !wr && inH0 a && !s.h0Up then ([], Err.linkDown, y.2)
        else
          let z := dmaPieces y.2 master src wr walkUe fuel (va + k) (n - k)
          ((a, k) :: z.1, z.2)

/-- A DMA read: the bytes, or the code of the failure. -/
def dmaRead (s : Zone) (master : Nat) (src : Source) (va n : Nat) : Option (List Byte) × Nat × Zone :=
  let x := s.dmaPieces master src false false (n / 4096 + 2) va n
  if x.2.1 ≠ Err.none then (none, x.2.1, x.2.2)
  else
    let y := x.1.foldl (fun (y : List Byte × Zone) p => let z := y.2.dmaLoad p.1 p.2; (y.1 ++ z.1, z.2)) ([], x.2.2)
    (some y.1, Err.none, y.2)

/-- A DMA write: the code and the state. Each page is written in turn (R514); the pages before a failing one are written. -/
def dmaWrite (s : Zone) (master : Nat) (src : Source) (va : Nat) (l : List Byte) : Nat × Zone :=
  let x := s.dmaPieces master src true false (l.length / 4096 + 2) va l.length
  let y := x.1.foldl (fun (y : List Byte × Nat × Zone) p =>
    let w := y.2.2.dmaStore src p.1 (y.1.take p.2)
    (y.1.drop p.2, (if y.2.1 = Err.none then w.1 else y.2.1), w.2)) (l, Err.none, x.2.2)
  (if y.2.1 = Err.none then x.2.1 else y.2.1, y.2.2)

/-- Begin an invalidation (R515); one that arrives while another runs is counted. -/
def invalidate (s : Zone) (kind : Nat) (src : Source) (addr : Nat) : Zone :=
  if s.tu.inval.isSome then s.count pTU TU.TU_COUNTS_INVAL_IGNORED else s.setTu { s.tu with inval := some ⟨kind, src, addr⟩ }

/-- The address of INVAL_ADDR. -/
def invalAddr (s : Zone) : Nat := s.fld pTU TU.INVAL_ADDR_LO_ADDR * 4096 + s.fld pTU TU.INVAL_ADDR_HI_ADDR * 2 ^ 32

/-! ### World switches (R509) -/

/-- Whether the secure world is away: from a secure-world reset until the next SECURE_READY (R524). -/
def secureAway (s : Zone) : Bool :=
  s.fld pTU TU.SECURE_STATE_STATE == 2 || s.fld pTU TU.SECURE_STATE_STATE == 3

/-- A hart of the application cluster executes in a world from now on; a change clears its untagged structures. While the
secure world is away, an undelegated exception holds its hart and an M-mode interrupt stays pending, so that no hart enters
it (R524). -/
def switchWorld (s : Zone) (h : Nat) (w : World) : Zone :=
  let x := s.hart h
  if x.runs = w ∨ (w = .secure ∧ s.secureAway) then s else (s.setHart h { x with runs := w, atBoot := false }).count pTU TU.PRED_COUNTS_CLEARS

/-! ### Gating (R526 to R528) -/

def gateState (s : Zone) (b : Nat) : Nat := s.fld (pZONE 5) ZONE5.GATE_STATE_STATE / 4 ^ b % 4
def setGateState (s : Zone) (b v : Nat) : Zone :=
  s.setFld (pZONE 5) ZONE5.GATE_STATE_STATE (s.fld (pZONE 5) ZONE5.GATE_STATE_STATE - s.gateState b * 4 ^ b + v * 4 ^ b)

def held (s : Zone) (b : Nat) : Bool := s.fldBit (pZONE 5) ZONE5.HOLD_HOLD b

/-- Show the status of a request in the requester's field. -/
def gateStatus (s : Zone) (w : World) (v : Nat) : Zone :=
  s.setFld (pZONE 5) (if w = .secure then ZONE5.GATE_RESULT_SW_STATUS else ZONE5.GATE_RESULT_NW_STATUS) v

/-- A GATE_REQ (R526, R527). -/
def gateReq (s : Zone) (w : World) (block action : Nat) : Zone :=
  if 14 ≤ block ∨ 3 ≤ action then s.gateStatus w 2
  else if w = .normal ∧ s.held block then (s.gateStatus w 1).count (pZONE 5) ZONE5.GATE_COUNTS_HELD
  else if s.gateState block = 3 then s.gateStatus w 3
  else
    let s := s.gateStatus w 0
    if s.gateState block = action then s
    else { s.setGateState block 3 with gateTo := SMap.set (fun _ => 0) s.gateTo block (action + 1) }

/-- A change in progress completes. -/
def gateDone (s : Zone) (block : Nat) : Zone :=
  match SMap.get (fun _ => 0) s.gateTo block with
  | 0 => s
  | a + 1 => { s.setGateState block a with gateTo := SMap.set (fun _ => 0) s.gateTo block 0 }

/-- Writes of HOLD_SET and HOLD_CLR (R527). -/
def secureHoldWrite (s : Zone) (w : World) (mask : Nat) (set : Bool) : Zone :=
  if w = .normal then s.count (pZONE 5) ZONE5.GATE_COUNTS_HOLD_IGNORED
  else
    let h := s.fld (pZONE 5) ZONE5.HOLD_HOLD
    s.setFld (pZONE 5) ZONE5.HOLD_HOLD (if set then h ||| mask else h &&& (0xFFFF - mask % 0x10000))

end Zone

/-! ### Commands -/

/-- A hart of the application cluster changes the world of its transactions (R509). -/
def execWorldSwitch (hart : Fin 8) (world : World) (st : State) : Result := st.runFw fun s => s.switchWorld hart.val world

/-- A DMA address is translated (R511 to R514); `walkUe` is an uncorrectable error of a walk read. The response holds the
physical address, or the code TRANSLATION. -/
def execDmaTranslate (master : Fin 8) (src : Source) (addr : BitVec 64) (write walkUe : Bool) (st : State) : Result :=
  st.runFw fun s =>
    let x := s.translate master.val src addr.toNat write walkUe
    match x.1 with
    | .pa a => { x.2 with resp := ⟨Err.none, a⟩ }
    | .fault _ => { x.2 with resp := ⟨Err.translation, 0⟩ }

/-- A write of FAULT_POP by secure-world firmware (R516, R529). -/
def execTuFaultPop (writer : Writer) (st : State) : Result := st.runBy writer fun s => if Zone.secureWriter writer then s.tuPop else s

def execInvalAll (writer : Writer) (st : State) : Result :=
  st.runBy writer fun s => if Zone.secureWriter writer then s.invalidate 1 sourceZero 0 else s

def execInvalMooring (writer : Writer) (target : Source) (st : State) : Result :=
  st.runBy writer fun s => if Zone.secureWriter writer then s.invalidate 2 target 0 else s

/-- A write of INVAL_CMD with KIND PAGE, for the address in INVAL_ADDR. -/
def execInvalPage (writer : Writer) (target : Source) (st : State) : Result :=
  st.runBy writer fun s => if Zone.secureWriter writer then s.invalidate 3 target s.invalAddr else s

/-- The invalidation ends: no entry that it names is left (R515). -/
def execInvalDone (st : State) : Result := st.runOn fun s =>
  match s.tu.inval with
  | none => s
  | some i => s.setTu { s.tu with inval := none, cache := s.tu.cache.filter fun e => !i.names e }

def execGateRun (world : World) (block : Fin 16) (st : State) : Result := st.runFw fun s => s.gateReq world block.val 0
def execGateClockOff (world : World) (block : Fin 16) (st : State) : Result := st.runFw fun s => s.gateReq world block.val 1
def execGatePowerOff (world : World) (block : Fin 16) (st : State) : Result := st.runFw fun s => s.gateReq world block.val 2
def execHoldSet (world : World) (mask : BitVec 16) (st : State) : Result := st.runFw fun s => s.secureHoldWrite world mask.toNat true
def execHoldClr (world : World) (mask : BitVec 16) (st : State) : Result := st.runFw fun s => s.secureHoldWrite world mask.toNat false

end Sys2Proof.Machine
end

