-- ==== Sys2Proof/Machine/Rings.lean ====
section
/-! DEFINITION. The receive rings of the CAN, LIN and RS-485 channels (R414 to R419, R438, R442) and the transmit buffer memory
of the bus channels (R421, R441, R447). A bus channel is numbered as INDEX of BUS_CHANNEL in R517. -/

namespace Sys2Proof.Machine

open Reg

namespace Zone

/-- The page of bus channel c. -/
def busPage (c : Nat) : Nat := if c < 16 then pCAN c else pSER (c - 16)

/-- The entries of a ring (R414). -/
def ringSize (c : Nat) : Nat := if c < 16 then 256 else 64

/-- The fields of a ring, which lie elsewhere on CAN pages. -/
def ringFill (c : Nat) : Fld := if c < 16 then CAN.RX_PTRS_FILL else LIN.RX_PTRS_FILL
def ringAck (c : Nat) : Fld := if c < 16 then CAN.RX_PTRS_ACK else LIN.RX_PTRS_ACK
def ringKindF (c : Nat) : Fld := if c < 16 then CAN.RX_CFG_OWNER_KIND else LIN.RX_CFG_OWNER_KIND
def ringWorldF (c : Nat) : Fld := if c < 16 then CAN.RX_CFG_WORLD else LIN.RX_CFG_WORLD
def ringMooringF (c : Nat) : Fld := if c < 16 then CAN.RX_CFG_MOORING else LIN.RX_CFG_MOORING
def ringBaseLo (c : Nat) : Fld := if c < 16 then CAN.RX_BASE_LO_ADDR else LIN.RX_BASE_LO_ADDR
def ringBaseHi (c : Nat) : Fld := if c < 16 then CAN.RX_BASE_HI_ADDR else LIN.RX_BASE_HI_ADDR
def ringNotice (c : Nat) : Fld := if c < 16 then CAN.RX_NOTICE_US else LIN.RX_NOTICE_US
def ringLost (c : Nat) : Fld :=
  if c < 16 then CAN.RX_COUNTS_LOST else if c < 22 then LIN.LIN_COUNTS_RX_LOST else SER.SER_COUNTS_RX_LOST
def ringLostEvent (c : Nat) : Fld :=
  if c < 16 then CAN.CHAN_EVENT_RX_LOST else if c < 22 then LIN.LIN_EVENT_RX_LOST else SER.SER_EVENT_RX_LOST

def ring (s : Zone) (c : Nat) : RingSt := SMap.get (fun _ => RingSt.init) s.rings c
def setRing (s : Zone) (c : Nat) (r : RingSt) : Zone := { s with rings := SMap.set (fun _ => RingSt.init) s.rings c r }

def ringKind (s : Zone) (c : Nat) : Nat := s.fld (busPage c) (ringKindF c)
def fillPtr (s : Zone) (c : Nat) : Nat := s.fld (busPage c) (ringFill c)
def ackPtr (s : Zone) (c : Nat) : Nat := s.fld (busPage c) (ringAck c)

/-- The entries that the owner holds. -/
def ringHeld (s : Zone) (c : Nat) : Nat := (s.fillPtr c + 2 * ringSize c - s.ackPtr c) % (2 * ringSize c)

/-- The owner of a mooring ring. -/
def ringOwner (s : Zone) (c : Nat) : Source :=
  ⟨if s.fld (busPage c) (ringWorldF c) = 1 then .secure else .normal, BitVec.ofNat 12 (s.fld (busPage c) (ringMooringF c))⟩

/-- The bytes of an entry (R419, R438, R442). -/
def entrySize (s : Zone) (c : Nat) : Nat :=
  if c < 16 then (if s.ringKind c = 1 ∧ s.flag (pCAN c) CAN.RX_CFG_ENTRY_SIZE then 2080 else 96)
  else if c < 22 then 32 else 272

/-- The entry at ACK of a TABLE ring; none when it is empty or not a TABLE ring. -/
def ringHead (s : Zone) (c : Nat) : Option (List Byte) :=
  if s.ringKind c = 2 ∧ 0 < s.ringHeld c then some (SMap.get (fun _ => []) (s.ring c).entries (s.ackPtr c % ringSize c)) else none

/-- Show the head registers and the head view (R443 to R446). -/
def showRingHead (s : Zone) (c : Nat) : Zone :=
  let e := (s.ringHead c).getD []
  let p := busPage c
  let put (s : Zone) (off k : Nat) : Zone := s.wr (p + off) (BitVec.ofNat 32 (leAt e k 4))
  if c < 16 then
    let s := put (put s 0x034 0) 0x038 4
    s.forEach (List.range 24) fun (s : Zone) (k : Nat) => put s (0x400 + 4 * k) (4 * k)
  else if c < 22 then put (put (put s 0x024 0) 0x028 0x10) 0x02C 0x14
  else
    let s := put s 0x024 0
    s.forEach (List.range 68) fun (s : Zone) (k : Nat) => put s (0x400 + 4 * k) (4 * k)

/-- Whether a grant of bus channel c runs (R519). -/
def busQuiesced (s : Zone) (c : Nat) : Bool :=
  match s.grant with
  | some g => decide (leAt g.args 0 2 = 2 ∧ leAt g.args 2 2 = c)
  | none => false

/-- An entry is lost (R415). -/
def ringLose (s : Zone) (c : Nat) : Zone := (s.count (busPage c) (ringLost c)).event (busPage c) (ringLostEvent c)

/-- Store an entry, its SEQ given by `mk` from the number of the entry (R414 to R417). -/
def ringStore (s : Zone) (c : Nat) (mk : Nat → List Byte) : Zone :=
  let n := ringSize c
  let kind := s.ringKind c
  let r := s.ring c
  let slot := s.fillPtr c % n
  let next := (s.fillPtr c + 1) % (2 * n)
  if kind = 0 ∧ !s.busQuiesced c then s.count (busPage c) (ringLost c)
  else if s.busQuiesced c ∨ s.ringHeld c = n then s.ringLose c
  else
    let e := mk (r.seq % 65536)
    if kind = 1 then
      let base := s.fld (busPage c) (ringBaseLo c) + s.fld (busPage c) (ringBaseHi c) * 2 ^ 32
      let x := s.dmaWrite Master.bus (s.ringOwner c) (base + slot * s.entrySize c) e
      if x.1 ≠ Err.none then x.2.ringLose c
      else (x.2.setRing c { r with seq := r.seq + 1, noticeDue := true }).setFld (busPage c) (ringFill c) next
    else
      let s := s.setRing c { r with seq := r.seq + 1, entries := SMap.set (fun _ => []) r.entries slot e }
      (s.setFld (busPage c) (ringFill c) next).showRingHead c

/-- Empty a ring (R417). -/
def ringEmpty (s : Zone) (c : Nat) : Zone :=
  let s := s.setRing c { s.ring c with entries := [], noticeDue := false }
  ((s.setFld (busPage c) (ringFill c) 0).setFld (busPage c) (ringAck c) 0).showRingHead c

/-- Whether a write of RX_ACK comes from the owner (R416). -/
def ringOwnedBy (s : Zone) (c : Nat) (w : Writer) : Bool :=
  match w with
  | .firmware src => s.ringKind c == 1 && src == s.ringOwner c && !s.busQuiesced c
  | .keeper k => s.ringKind c == 2 && !s.busQuiesced c && (decide (c < 16) || decide (s.role k = Role.watch))

/-- A write of RX_ACK (R416). -/
def rxAck (s : Zone) (c : Nat) (w : Writer) (v : Nat) : Zone :=
  let n := 2 * ringSize c
  if s.ringOwnedBy c w && decide (v < n ∧ (v + n - s.ackPtr c) % n ≤ s.ringHeld c) then
    ((s.setFld (busPage c) (ringAck c) v).setFld (busPage c) (if c < 16 then CAN.RX_ACK_ACK else LIN.RX_ACK_ACK) v).showRingHead c
  else if c < 16 then s.count (pCAN c) CAN.RX_COUNTS_ACK_REJECT else s

/-! ### Buffer memory (R421, R441, R447) -/

/-- Addresses of the bus buffers from 0x1_F400_0000 on; the compose area of CAN channel c lies at 0x100000 + c × 0x100. -/
def canBufAddr (c b : Nat) : Nat := c * 0x8000 + (if b < 56 then b * 96 else 0x1500 + (b - 56) * 2080)
def composeAddr (c : Nat) : Nat := 0x100000 + c * 0x100
def serBufAddr (ch k : Nat) : Nat := 0x80000 + ch * 0x2000 + k * 0x110

/-- A byte of the buffers; one that nothing has written is undefined (R447; log entry 2). -/
def busByte (s : Zone) (a : Nat) : Byte × Zone :=
  match SMap.get (fun _ => none) s.busMem a with
  | some b => (b, s)
  | none => (s.fresh.1.setWidth 8, s.fresh.2)

def busBytes (s : Zone) (a : Nat) : Nat → List Byte × Zone
  | 0 => ([], s)
  | n + 1 =>
    let x := s.busByte a
    let y := busBytes x.2 (a + 1) n
    (x.1 :: y.1, y.2)

/-- Write bytes of the buffers. -/
def busWrite (s : Zone) (a : Nat) : List Byte → Zone
  | [] => s
  | b :: r => busWrite { s with busMem := SMap.set (fun _ => none) s.busMem a (some b) } (a + 1) r

end Zone

/-! ### Commands -/

/-- A notice of a mooring's ring, at most once per RX_NOTICE µs (R418). -/
def execRingNotice (channel : Fin 24) (st : State) : Result := st.runOn fun s =>
  let c := channel.val
  let r := s.ring c
  let spacing := s.fld (Zone.busPage c) (Zone.ringNotice c) * Zone.ticksPerUs
  if r.noticeDue && s.ringKind c == 1 && (match r.noticeAt with | some t => s.past t spacing | none => true) then
    (s.setRing c { r with noticeDue := false, noticeAt := some s.mono }).sendNotice (s.rd (pHINGE 2 + 0xD00 + 4 * c))
  else s

/-- A write of RX_ACK (R416). -/
def execRxAckWrite (channel : Fin 24) (writer : Writer) (value : BitVec 9) (st : State) : Result :=
  st.runBy writer fun s => s.rxAck channel.val writer value.toNat

end Sys2Proof.Machine
end

