-- ==== Sys2Proof/Machine/Can.lean ====
section
/-! DEFINITION. The CAN channels (R411 to R433): reception and filters, one-shot transmission, error states, recovery, the time
master, and writes of their configuration. -/

namespace Sys2Proof.Machine

open Reg

/-! Causes of a failed TX_START (R425). -/
namespace CanCause
@[reducible] def arbLost : Nat := 0x01
@[reducible] def expired : Nat := 0x10
@[reducible] def busOff : Nat := 0x11
@[reducible] def buffer : Nat := 0x12
@[reducible] def pendingFull : Nat := 0x13
@[reducible] def notActive : Nat := 0x14
end CanCause

/-- The data bytes of a DLC of an FD frame; a classical frame has at most 8 (ISO 11898-1). -/
def dlcBytes (fd : Bool) (dlc : Nat) : Nat :=
  if dlc ≤ 8 then dlc else if fd then [12, 16, 20, 24, 32, 48, 64].getD (dlc - 9) 64 else 8

/-- The ID, FLAGS, XL and AF words of a frame (R419). -/
def canHeader (f : CanFrame) : List Byte :=
  let id := f.format % 8 * 2 ^ 29 + (if f.ide then f.ident.toNat else f.ident.toNat % 2048)
  let flags := b2n f.ide * 2 ^ 31 + b2n f.rtr * 2 ^ 30 + b2n f.brs * 2 ^ 29 + b2n f.esi * 2 ^ 28 +
    (if f.format = 2 then 0 else f.dlc % 16) * 2 ^ 24 + f.data.length
  let xl := if f.format = 2 then f.sdt.toNat * 2 ^ 24 + f.vcid.toNat * 2 ^ 16 + b2n f.sec * 2 ^ 15 else 0
  leBytes 4 id ++ leBytes 4 flags ++ leBytes 4 xl ++ leBytes 4 (if f.format = 2 then f.af.toNat else 0)

/-- The receive entry of a frame (R419). -/
def canEntry (f : CanFrame) (sofNs size seq : Nat) : List Byte :=
  canHeader f ++ leBytes 8 sofNs ++ leBytes 4 (seq * 65536) ++ leBytes 4 0 ++ padTo (size - 32) f.data

/-- The frame that a buffer's bytes describe: 32 bytes of header and its data (R421). -/
def canOfBytes (l : List Byte) : CanFrame :=
  let id := leAt l 0 4
  let flags := leAt l 4 4
  let xl := leAt l 8 4
  let fmt := id / 2 ^ 29
  let dlc := flags / 2 ^ 24 % 16
  { format := fmt, ide := flags.testBit 31 && fmt != 2, rtr := flags.testBit 30 && fmt == 0, brs := flags.testBit 29 && fmt == 1,
    esi := false, dlc := dlc, ident := BitVec.ofNat 29 id, sdt := BitVec.ofNat 8 (xl / 2 ^ 24),
    vcid := BitVec.ofNat 8 (xl / 2 ^ 16), sec := xl.testBit 15, af := BitVec.ofNat 32 (leAt l 12 4),
    data := (l.drop 32).take (if fmt = 2 then flags % 4096 else dlcBytes (fmt == 1) dlc) }

/-- The order of arbitration, the dominant value first (ISO 11898-1): base identifier, RTR or SRR, IDE, extension, RTR. -/
def canPriority (f : CanFrame) : Nat :=
  if f.ide then f.ident.toNat / 2 ^ 18 * 2 ^ 21 + 3 * 2 ^ 19 + f.ident.toNat % 2 ^ 18 * 2 + b2n f.rtr
  else f.ident.toNat % 2048 * 2 ^ 21 + b2n f.rtr * 2 ^ 20

namespace Zone

def can (s : Zone) (c : Nat) : CanSt := SMap.get (fun _ => CanSt.init) s.cans c

/-- The frames of the pending set, the one on the bus among them; a reference message was never pending. -/
def canCount (x : CanSt) : Nat := x.pend.length + (match x.active with | some (p, _) => b2n !p.reference | none => 0)

/-- Set a channel's state and show PENDING and TX_ACTIVE. -/
def setCan (s : Zone) (c : Nat) (x : CanSt) : Zone :=
  let s := { s with cans := SMap.set (fun _ => CanSt.init) s.cans c x }
  (s.setFld (pCAN c) CAN.CHAN_STATUS_PENDING (canCount x)).setFlag (pCAN c) CAN.CHAN_STATUS_TX_ACTIVE
    x.active.isSome

def canOn (s : Zone) (c : Nat) : Bool := s.flag (pCAN c) CAN.CHAN_CFG_EN && !s.inMode [.off, .sleep]
/-- Whether the transceiver of a channel reaches the bus: the channel is on and its transceiver not in fall-back (R468). -/
def canBus (s : Zone) (c : Nat) : Bool := s.canOn c && !s.fldBit (pZONE 0) ZONE0.TRX_FALLBACK_ACTIVE c
def canListen (s : Zone) (c : Nat) : Bool := s.flag (pCAN c) CAN.CHAN_CFG_LISTEN
def canBusOff (s : Zone) (c : Nat) : Bool := decide (s.fld (pCAN c) CAN.CHAN_STATUS_ERR_STATE = 2)

/-- A ticket ends FAIL with a cause, a field and the DUP_ID_SUSPECT bit (R425); of a frame without a ticket nothing is counted. -/
def canFail (s : Zone) (c : Nat) (r : Option TicketRef) (cause field : Nat) (dup : Bool) : Zone :=
  let v := cause + field * 2 ^ 8 + b2n dup * 2 ^ 12
  match r with
  | some r => ((s.count (pCAN c) CAN.TX_COUNTS_FAIL).setFld (pCAN c) CAN.LAST_FAIL_VALUE v).completeFail r v
  | none => s

/-- Remove every pending frame that has not begun its SOF with ABORT, and how many (R429, R430). -/
def canAbort (s : Zone) (c : Nat) : Nat × Zone :=
  let x := s.can c
  (x.pend.length, (s.setCan c { x with pend := [] }).forEach (x.pend.filterMap fun p => p.ticket) fun s r => s.completeAbort r)

/-! ### Error states (R428, R429) -/

/-- ALONE clears and its run returns to zero. -/
def canNotAlone (s : Zone) (c : Nat) : Zone := (s.setCan c { s.can c with ackRun := 0 }).setFld (pCAN c) CAN.CHAN_STATUS_ALONE 0

/-- Entering bus-off (R429). -/
def canEnterBusOff (s : Zone) (c : Nat) : Zone :=
  let p := pCAN c
  let s := ((s.setFld p CAN.CHAN_STATUS_ERR_STATE 2).event p CAN.CHAN_EVENT_BUS_OFF).count p CAN.ERR_COUNTS_BUS_OFF
  let x := s.can c
  (s.setCan c { x with pend := [] }).forEach x.pend fun s q => s.canFail c q.ticket CanCause.busOff 15 false

/-- Set TEC and REC, and the error state that follows from them. -/
def canErrors (s : Zone) (c tec rec_ : Nat) : Zone :=
  let p := pCAN c
  let was := s.fld p CAN.CHAN_STATUS_ERR_STATE
  let s := (s.setFld p CAN.CHAN_STATUS_TEC (min tec 511)).setFld p CAN.CHAN_STATUS_REC (min rec_ 255)
  if was = 2 then s
  else if 255 < tec then s.canEnterBusOff c
  else if 127 < tec ∨ 127 < rec_ then
    (s.setFld p CAN.CHAN_STATUS_ERR_STATE 1).when (was == 0) (·.event p CAN.CHAN_EVENT_ERR_PASSIVE)
  else s.setFld p CAN.CHAN_STATUS_ERR_STATE 0

/-- The channel is error-active again with its counters at 0, and the RECOVER operations that wait complete (R413, R429). -/
def canActive (s : Zone) (c : Nat) : Zone :=
  let p := pCAN c
  let x := s.can c
  let s := ((s.setFld p CAN.CHAN_STATUS_ERR_STATE 0).setFld p CAN.CHAN_STATUS_TEC 0).setFld p CAN.CHAN_STATUS_REC 0
  (s.setCan c { x with recovers := [], recovering := false }).forEach x.recovers fun s r => s.completeOk r.1 0

def canTec (s : Zone) (c : Nat) : Nat := s.fld (pCAN c) CAN.CHAN_STATUS_TEC
def canRec (s : Zone) (c : Nat) : Nat := s.fld (pCAN c) CAN.CHAN_STATUS_REC

/-! ### Reception (R413, R419, R420) -/

/-- Whether acceptance filter k matches a frame (R420). -/
def canFilter (s : Zone) (c k : Nat) (f : CanFrame) : Bool :=
  let w0 := (s.rd (pCAN c + 0x200 + 8 * k)).toNat
  let mask := (s.rd (pCAN c + 0x204 + 8 * k)).toNat % 2 ^ 29
  let id := if f.ide then f.ident.toNat else f.ident.toNat % 2048
  w0.testBit 31 && (w0.testBit 29 == f.ide) && decide ((id ^^^ (w0 % 2 ^ 29)) &&& mask = 0)

/-- After a frame received without error: REC by ISO 11898-1, which sets a REC above 127 to a value from 119 to 127 and leaves
open which (log entry 2). -/
def canReceived (s : Zone) (c : Nat) : Zone :=
  let r := s.canRec c
  if 127 < r then
    let f := s.fresh
    f.2.canErrors c (f.2.canTec c) (119 + f.1.toNat % 9)
  else s.canErrors c (s.canTec c) (r - 1)

def canReceive (s : Zone) (c : Nat) (f : CanFrame) (ticks : Nat) : Zone :=
  let p := pCAN c
  if !s.canBus c || s.canBusOff c then s
  else if (f.format = 1 ∧ !s.flag p CAN.CHAN_CFG_FD_EN) ∨ (f.format = 2 ∧ !s.flag p CAN.CHAN_CFG_XL_EN) then
    s.count p CAN.ERR_COUNTS_EXCEPTION
  else
    let s := ((s.canReceived c).canNotAlone c).heardBus
    if !(s.flag p CAN.CHAN_CFG_ACCEPT_ALL || (List.range 32).any fun k => s.canFilter c k f) then
      s.count p CAN.RX_FILTERED_COUNT
    else if s.ringKind c ≠ 0 ∧ s.entrySize c < f.data.length + 32 then
      (s.count p CAN.RX_COUNTS_TOO_LONG).event p CAN.CHAN_EVENT_RX_TOO_LONG
    else s.ringStore c (canEntry f (s.netAt (s.mono - ticks)) (s.entrySize c))

/-! ### Transmission (R423 to R427) -/

/-- The bytes of a frame source: 32 of header and its data. -/
def canSource (s : Zone) (c : Nat) (compose : Bool) (b : Nat) : List Byte × Zone :=
  s.busBytes (if compose then composeAddr c else canBufAddr c b) (32 + (if compose ∨ b < 56 then 64 else 2048))

/-- Whether a buffer's header is sendable (R425). -/
def canSendable (s : Zone) (c : Nat) (l : List Byte) (cap : Nat) : Bool :=
  let fmt := leAt l 0 4 / 2 ^ 29
  let len := leAt l 4 4 % 4096
  let dlc := leAt l 4 4 / 2 ^ 24 % 16
  (fmt == 0 || (fmt == 1 && s.flag (pCAN c) CAN.CHAN_CFG_FD_EN) || (fmt == 2 && s.flag (pCAN c) CAN.CHAN_CFG_XL_EN)) &&
    decide (len ≤ cap) && (if fmt = 2 then decide (0 < len) else decide (dlcBytes (fmt == 1) dlc ≤ cap))

/-- A TX_START at arrival (R423). -/
def txStart (s : Zone) (c : Nat) (r : TicketRef) (variant arg : Nat) : Zone :=
  if 4 ≤ variant then s.canFail c (some r) 0xFF 0 false
  else if !s.canOn c || s.canListen c then s.canFail c (some r) CanCause.notActive 15 false
  else if s.canBusOff c then s.canFail c (some r) CanCause.busOff 15 false
  else
    let compose := variant.testBit 0
    if if compose then arg ≠ 0 else 63 < arg then s.canFail c (some r) CanCause.buffer 15 false
    else
      let cap := if compose ∨ arg < 56 then 64 else 2048
      let y := s.canSource c compose arg
      let s := y.2
      if !s.canSendable c y.1 cap then s.canFail c (some r) CanCause.buffer 15 false
      else
        let x := s.can c
        if 8 ≤ canCount x then s.canFail c (some r) CanCause.pendingFull 15 false
        else s.setCan c { x with pend := x.pend ++ [⟨canOfBytes y.1, variant.testBit 1, some r, s.mono, false⟩] }

/-- The time in ns from now to the next reference of the time master (R431). -/
def tmNext (s : Zone) (c : Nat) : Nat :=
  let cyc := s.fld (pCAN c) CAN.TM_CYCLE_US * 1000
  let off := s.fld (pCAN c) CAN.TM_OFFSET_US * 1000
  gateBoundary cyc off s.nowNs - s.nowNs

/-- Whether the guard of the time master keeps pending frames out of arbitration (R432). -/
def tmGuarded (s : Zone) (c : Nat) : Bool :=
  decide (c < 4) && s.flag (pCAN c) CAN.TM_CFG_EN && decide (s.tmNext c ≤ s.fld (pCAN c) CAN.TM_PARAM_GUARD * 1000)

/-- An arbitration: the frame of the highest priority begins its attempt, the first to arrive among equals (R423). -/
def canArbitrate (s : Zone) (c : Nat) : Zone :=
  let x := s.can c
  if !s.canBus c || s.canListen c || s.canBusOff c || x.active.isSome || s.tmGuarded c then s
  else match x.pend with
    | [] => s
    | p :: r =>
      let best := r.foldl (fun (a : CanPend) b => if canPriority b.frame < canPriority a.frame then b else a) p
      s.setCan c { x with pend := x.pend.erase best, active := some (best, s.nowNs) }

/-- A frame returns to the pending set unchanged, at the place of its arrival (R424). -/
def canReturn (l : List CanPend) (p : CanPend) : List CanPend :=
  let before (q : CanPend) : Bool := match q.ticket, p.ticket with
    | some a, some b => decide (a.serial < b.serial)
    | _, _ => false
  (l.filter before) ++ p :: l.filter fun q => !before q

/-- The end of the attempt on the bus (R424 to R428). A reference message moves the error counters as any frame does (R428), and
has no ticket, no place in the pending set and no part in the counts of attempts (log entry 46). -/
def canEnd (s : Zone) (c : Nat) (e : CanEnd) : Zone :=
  let x := s.can c
  let pg := pCAN c
  match x.active with
  | none => s
  | some (p, sof) =>
    let s := s.setCan c { x with active := none }
    match e with
    | .ok =>
      let s := (s.canErrors c (s.canTec c - 1) (s.canRec c)).canNotAlone c
      if p.reference then s
      else
        let s := s.count pg CAN.TX_COUNTS_OK
        let s := (s.setFld pg CAN.TX_LAST_LO_TIME (sof % 2 ^ 32)).setFld pg CAN.TX_LAST_HI_TIME (sof / 2 ^ 32)
        (match p.ticket with
         | some r => s.completeOk r 0
         | none => s)
    | .lost =>
      if p.again then s.setCan c { x with active := none, pend := canReturn x.pend p }
      else s.canFail c p.ticket CanCause.arbLost 0 false
    | .error cause field flag =>
      let k := cause.val + 2
      let dup := decide (k = 2 ∧ 1 ≤ field.val ∧ field.val ≤ 3)
      let s := s.when dup fun s => (s.event pg CAN.CHAN_EVENT_DUP_ID_SUSPECT).count pg CAN.ERR_COUNTS_DUP_SUSPECT
      let s := if k = 5 then
          let run := x.ackRun + 1
          let s := (s.count pg CAN.ERR_COUNTS_ACK_ERR).setCan c { s.can c with ackRun := run }
          if s.fld pg CAN.CHAN_CFG_ALONE_LIMIT ≤ run ∧ !s.flag pg CAN.CHAN_STATUS_ALONE then
            (s.setFld pg CAN.CHAN_STATUS_ALONE 1).event pg CAN.CHAN_EVENT_ALONE
          else s
        else if 4 ≤ field.val then s.canNotAlone c else s
      let s := s.canFail c p.ticket k field.val dup
      let keep := (decide (k = 5) && decide (s.fld pg CAN.CHAN_STATUS_ERR_STATE = 1) && !flag.dominant) ||
        decide (k = 3 ∧ field.val = 0)
      s.canErrors c (s.canTec c + (if keep then 0 else 8) + 8 * flag.extra) (s.canRec c)

/-- Pending frames that have waited TX_EXPIRE (R426). -/
def canExpire (s : Zone) (c : Nat) : Zone :=
  let x := s.can c
  let limit := s.fld (pCAN c) CAN.CHAN_CFG_TX_EXPIRE * 2500
  let out := x.pend.filter fun p => s.past p.at_ limit
  (s.setCan c { x with pend := x.pend.filter fun p => !s.past p.at_ limit }).forEach out fun s p =>
    s.canFail c p.ticket CanCause.expired 15 false

/-! ### Time master (R431, R432) -/

/-- The reference message of network time T (R432; log entry 46). -/
def tmFrame (s : Zone) (c T : Nat) : CanFrame :=
  let p := pCAN c
  let cyc := s.fld p CAN.TM_CYCLE_US * 1000
  let n := (((T : Int) - s.fld p CAN.TM_OFFSET_US * 1000) / (cyc : Nat)) % 64 |>.toNat
  let mark := T / (max 1 (s.fld p CAN.TM_PARAM_NTU)) % 65536
  let data := if s.flag p CAN.TM_CFG_LEVEL2 then
      [BitVec.ofNat 8 n, BitVec.ofNat 8 (s.fld p CAN.TM_PARAM_PRIO), BitVec.ofNat 8 mark, BitVec.ofNat 8 (mark / 256)]
    else [BitVec.ofNat 8 n]
  { format := 0, ide := s.flag p CAN.TM_CFG_IDE, rtr := false, brs := false, esi := false, dlc := data.length,
    ident := BitVec.ofNat 29 (s.fld p CAN.TM_CFG_REF_ID), sdt := 0, vcid := 0, sec := false, af := 0, data := data }

/-- The tick at which network time reaches a reference time, less than one increment after it; `idle` tells whether the bus is
idle. The message takes the bus. -/
def tmReference (s : Zone) (c : Nat) (idle : Bool) : Zone :=
  let p := pCAN c
  let cyc := s.fld p CAN.TM_CYCLE_US * 1000
  let off := s.fld p CAN.TM_OFFSET_US * 1000
  let pos := gatePos cyc off s.nowNs
  let T := s.nowNs - pos
  let x := s.can c
  if !s.flag p CAN.TM_CFG_EN || s.time.stopped || decide (s.inc ≤ pos * 2 ^ 32 + s.time.net.frac.toNat) || x.lastRef == some T then s
  else
    let s := s.setCan c { x with lastRef := some T }
    if idle && s.canBus c && !s.canListen c && !s.canBusOff c && x.active.isNone then
      let f := s.tmFrame c T
      (s.setCan c { s.can c with refSent := some f, active := some (⟨f, false, none, s.mono, true⟩, s.nowNs) }).count p
        CAN.TM_COUNTS_SENT
    else (s.count p CAN.TM_COUNTS_MISSED).event p CAN.CHAN_EVENT_REF_MISSED

/-! ### Configuration writes (R412, R413, R443) -/

/-- A write of CHAN_CFG; a limit of 0 is ignored. -/
def chanCfgWrite (s : Zone) (c : Nat) (v : Word) : Zone :=
  let p := pCAN c
  let was := s.flag p CAN.CHAN_CFG_EN
  let keep (f : Fld) (w : Word) : Word := if f.get v = 0 then f.put w (s.fld p f) else w
  let s := s.wr p (keep CAN.CHAN_CFG_TX_EXPIRE (keep CAN.CHAN_CFG_ALONE_LIMIT (v &&& 0xF8FFFFFF#32)))
  let on := s.flag p CAN.CHAN_CFG_EN
  if was && !on then s.canNotAlone c
  else if !was && on then s.canActive c
  else s

/-- A write of NBT, DBT or XBT while the channel is on is ignored (R412). -/
def canTimingWrite (s : Zone) (c off : Nat) (v : Word) : Zone :=
  if s.flag (pCAN c) CAN.CHAN_CFG_EN then s.event (pCAN c) CAN.CHAN_EVENT_CFG_REJECT
  else s.wr (pCAN c + off) (if off = 4 then v else v &&& 0xFFFFC0FF#32)

end Zone

/-! ### Operations of keepers -/

namespace Zone

/-- An operation that a keeper starts on a channel: in LIGHTSHIP, CAN.0 belongs to the start reporter, and its gate completes
it with REFUSED (R666). -/
def canOp (s : Zone) (c : Nat) (r : TicketRef) (f : Zone → Zone) : Zone :=
  if c = 0 ∧ s.inMode [.lightship] then s.complete r 5 0 else f s

def opTxStart (s : Zone) (c : Nat) (r : TicketRef) (variant arg : Nat) : Zone := s.canOp c r fun s => s.txStart c r variant arg

/-- CHAN_OP variant 0 (R429). -/
def opRecover (s : Zone) (c : Nat) (r : TicketRef) : Zone := s.canOp c r fun s =>
  if !s.canBusOff c then s.completeFail r 1
  else s.setCan c { s.can c with recovers := (s.can c).recovers ++ [(r, s.mono)], recovering := true }

/-- CHAN_OP variant 1 (R429). -/
def opAbortPending (s : Zone) (c : Nat) (r : TicketRef) : Zone := s.canOp c r fun s =>
  let x := s.canAbort c
  x.2.completeOk r x.1

end Zone

/-! ### Commands -/

/-- A frame received without error from another node; `ticks` since the sample point of its SOF. -/
def execCanFrameReceive (channel : Fin 16) (frame : CanFrame) (ticks : Nat) (st : State) : Result :=
  st.runOn fun s => s.canReceive channel.val frame ticks

/-- A TX_START that the transmit gate has accepted. -/
def execTxStart (channel : Fin 16) (keeper : Keeper) (ticket : Fin 128) (variant : BitVec 4) (arg : Word) (st : State) : Result :=
  st.runOn fun s => s.opTxStart channel.val (s.ticketRef keeper ticket.val) variant.toNat arg.toNat

def execCanArbitration (channel : Fin 16) (st : State) : Result := st.runOn fun s => s.canArbitrate channel.val

def execCanAttemptEnd (channel : Fin 16) (result : CanEnd) (st : State) : Result := st.runOn fun s => s.canEnd channel.val result

/-- An error while receiving raises REC by 1, and by 8 more where a dominant bit is the first after the error flag
(ISO 11898-1; log entry 47). -/
def execCanReceiveError (channel : Fin 16) (flag : CanFlag) (st : State) : Result := st.runOn fun s =>
  let c := channel.val
  if s.canBus c && !s.canBusOff c then
    s.canErrors c (s.canTec c) (s.canRec c + 1 + (if flag.dominant then 8 else 0) + 8 * flag.extra)
  else s

def execTxExpired (channel : Fin 16) (st : State) : Result := st.runOn fun s => s.canExpire channel.val

def execRecover (channel : Fin 16) (keeper : Keeper) (ticket : Fin 128) (st : State) : Result := st.runOn fun s =>
  s.opRecover channel.val (s.ticketRef keeper ticket.val)

/-- 128 occurrences of 11 recessive bits have passed: the channel is error-active again (R429). -/
def execRecoveryDone (channel : Fin 16) (st : State) : Result := st.runOn fun s =>
  let c := channel.val
  if s.canBus c && s.canBusOff c && (s.can c).recovering then s.canActive c else s

/-- RECOVER operations 1 s old fail (R429). -/
def execRecoveryTimeout (channel : Fin 16) (st : State) : Result := st.runOn fun s =>
  let c := channel.val
  let x := s.can c
  let out := x.recovers.filter fun r => s.past r.2 (1000 * Zone.ticksPerMs)
  (s.setCan c { x with recovers := x.recovers.filter fun r => !s.past r.2 (1000 * Zone.ticksPerMs) }).forEach out fun s r =>
    s.completeFail r.1 2

def execAbortPending (channel : Fin 16) (keeper : Keeper) (ticket : Fin 128) (st : State) : Result := st.runOn fun s =>
  s.opAbortPending channel.val (s.ticketRef keeper ticket.val)

def execTmReference (channel : Fin 4) (idle : Bool) (st : State) : Result := st.runOn fun s => s.tmReference channel.val idle

end Sys2Proof.Machine
end

