-- ==== Sys2Proof/Machine/Keyring.lean ====
section
/-! DEFINITION. The keyring and the crypto engine (R587 to R606): derivation, slots, operation windows, jobs, the keyring
record, key rolls; the installation of MACsec associations (R362, R606). -/

namespace Sys2Proof.Machine

open Reg

/-- The bytes of an ASCII text. -/
def ascii (t : String) : List Byte := t.toList.map fun c => BitVec.ofNat 8 c.toNat

/-- The counter-mode KDF (R588): parent key, fixed input, output length in bits. -/
def kdf (parent fixed : List Byte) (bits : Nat) : List Byte :=
  (((List.range ((bits + 255) / 256)).flatMap fun i =>
    hmac 0 parent (beBytes 4 (i + 1) ++ fixed ++ beBytes 4 bits)).take (bits / 8))

/-- The fixed input of the module's own keys (R588). -/
def kdfFixed (label : String) (context : List Byte) : List Byte := ascii label ++ [0#8] ++ context

/-- An ECC private key from KDF output (R589). -/
def eccPrivate (p384 : Bool) (out : List Byte) : List Byte :=
  beBytes (if p384 then 48 else 32) (beNat out % (curveN p384 - 1) + 1)

/-- A derived ECC private key: the KDF gives 320 or 448 bits (R589). -/
def kdfPrivate (p384 : Bool) (parent fixed : List Byte) : List Byte :=
  eccPrivate p384 (kdf parent fixed (if p384 then 448 else 320))

/-! ### Types of keys (R591, R592) -/

def attrType (a : Word) : Nat := a.toNat / 2 ^ 28
def attrSet (a : Word) : Nat := a.toNat / 2 ^ 24 % 16
def attrExpire (a : Word) : Bool := a.getLsbD 23
def attrTable (a : Word) : Bool := a.getLsbD 22
def attrUses (a : Word) : Nat := a.toNat / 2 ^ 16 % 32

/-- ATTR with its reserved bits zero. -/
def attrMask (a : Word) : Word := a &&& 0xFFDF0000

/-- The key bytes of a type; 0 for the types without a key. -/
def typeLen : Nat → Nat
  | 1 => 16 | 2 => 32 | 3 => 32 | 4 => 32 | 5 => 48 | 6 => 64 | 7 => 96 | _ => 0

/-- The uses that a type allows: SIGN 1, MAC 2, ENCRYPT 4, DERIVE 8, WRAP 16. -/
def typeUses : Nat → Nat
  | 1 => 30 | 2 => 30 | 3 => 10 | 4 => 1 | 5 => 1 | 6 => 1 | 7 => 1 | _ => 0

/-- Whether R592 and R594 allow an ATTR to be written into a slot. -/
def attrOk (a : Word) (owned : Bool) : Bool :=
  decide (1 ≤ attrType a ∧ attrType a ≤ 7) && decide (attrUses a ||| typeUses (attrType a) = typeUses (attrType a)) &&
    (!attrTable a || decide (6 ≤ attrType a)) && !(attrTable a && owned)

/-- The ATTR that a slot takes: in an owned slot EXPIRE reads 1 (R594). -/
def attrStored (a : Word) (owned : Bool) : Word := if owned then withBit (attrMask a) 23 true else attrMask a

/-- L of R598. -/
def coordLen (t : Nat) : Nat := if isP384 t then 48 else 32

namespace KeySlot

def type (k : KeySlot) : Nat := attrType k.attr
def present (k : KeySlot) : Bool := decide (k.type ≠ 0)

/-- A slot that the keyring record holds (R595). -/
def persistent (k : KeySlot) : Bool := k.present && !attrExpire k.attr

/-- The public key that the slot's record shows (R620). -/
def pub (k : KeySlot) : List Byte :=
  match k.type with
  | 4 => publicKey 4 k.key
  | 5 => publicKey 5 k.key
  | 6 => k.key
  | 7 => k.key
  | _ => []

/-- The slot after CLEAR (R598): the owner is kept. -/
def cleared (k : KeySlot) : KeySlot := { k with attr := k.attr &&& 0x0FFFFFFF, key := [], next := none }

/-- The slot with one use less (R593). -/
def used (k : KeySlot) : KeySlot :=
  if k.count = 0xFFFFFFFF then k else { k with count := k.count - 1 }

/-- What the keyring record keeps of a slot: its count less 256 where it is limited, and no owner (R595). -/
def recorded (k : KeySlot) : KeySlot :=
  { k with owner := none, count := if k.count = 0xFFFFFFFF then k.count else BitVec.ofNat 32 (k.count.toNat - 256) }

/-- The slot after a roll (R604). -/
def rolled (k : KeySlot) : KeySlot :=
  match k.next with
  | some n => { k with key := n.1, count := n.2, next := none }
  | none => k

end KeySlot

/-! The codes of RESULT (R600). -/
namespace KeyResult
@[reducible] def ok : Nat := 0
@[reducible] def empty : Nat := 1
@[reducible] def use : Nat := 2
@[reducible] def disabled : Nat := 3
@[reducible] def access : Nat := 4
@[reducible] def world : Nat := 5
@[reducible] def arg : Nat := 6
@[reducible] def auth : Nat := 7
@[reducible] def type : Nat := 8
@[reducible] def queueFull : Nat := 9
@[reducible] def serviceAbsent : Nat := 10
@[reducible] def gated : Nat := 11
@[reducible] def aborted : Nat := 12
@[reducible] def lifecycle : Nat := 13
end KeyResult

namespace Zone

/-! ### Bytes in register words -/

/-- The bytes of a page from offset `off` on. -/
def pageBytes (s : Zone) (p off n : Nat) : List Byte :=
  (List.range n).map fun k => BitVec.ofNat 8 ((s.rd (p + (off + k) / 4 * 4)).toNat / 256 ^ ((off + k) % 4))

/-- Put one byte into a page. -/
def setPageByte (s : Zone) (p off : Nat) (b : Byte) : Zone :=
  s.wr (p + off / 4 * 4) ((⟨0, off % 4 * 8, 8⟩ : Fld).put (s.rd (p + off / 4 * 4)) b.toNat)

/-- Put bytes into a page. -/
def setPageBytes (s : Zone) (p : Nat) : Nat → List Byte → Zone
  | _, [] => s
  | off, b :: r => setPageBytes (s.setPageByte p off b) p (off + 1) r

/-- `n` bytes that the spec leaves open (log entry 2). -/
def freshBytes (s : Zone) : Nat → List Byte × Zone
  | 0 => ([], s)
  | n + 1 => let x := freshBytes s.fresh.2 n; (BitVec.ofNat 8 s.fresh.1.toNat :: x.1, x.2)

/-! ### Fuses and the module's own keys (R587 to R590, R614) -/

/-- The life-cycle state (R611): a bit is blown with two of its copies. -/
def lifeCycle (s : Zone) : Nat :=
  let blown (b : Nat) : Bool := decide (2 ≤ SMap.get (fun _ => 0) s.fuses.lc b)
  if blown 3 then 4 else if blown 2 then 3 else if blown 1 then 2 else if blown 0 then 1 else 0

/-- Whether the root matches ROOT_CHECK (R587). -/
def rootOk (s : Zone) : Bool := (sha 0 (s.fuses.root ++ ascii "FZ52/CHECK")).take 4 == s.fuses.rootCheck

/-- The root that derivation uses; none in BLANK and SCRAP (R614). -/
def root (s : Zone) : Option (List Byte) :=
  match s.lifeCycle with
  | 1 => some s.fuses.root
  | 2 => some s.fuses.root
  | 3 => some (hmac 0 s.fuses.root (ascii "FZ52/RETURN-ROOT"))
  | _ => none

def serialBytes (s : Zone) : List Byte := leBytes 8 s.fuses.serial.toNat
def startCountBytes (s : Zone) : List Byte := leBytes 4 (s.rd (pLOG + LOG0.START_COUNT_COUNT.off)).toNat

def attestKey (s : Zone) : List Byte := kdfPrivate false (s.root.getD []) (kdfFixed "FZ52/ATTEST" s.serialBytes)
def bindKey (s : Zone) : List Byte := kdf (s.root.getD []) (kdfFixed "FZ52/BIND" s.serialBytes) 256
def evidenceKey (s : Zone) : List Byte :=
  kdfPrivate false (s.root.getD []) (kdfFixed "FZ52/EVIDENCE" (s.startCountBytes ++ s.serialBytes))

/-! ### Slots -/

def keySlot (s : Zone) (n : Nat) : KeySlot := SMap.get (fun _ => KeySlot.init) s.keyring.slots n

/-- The session key of the present content of slot 0 (R590, R607). -/
def sessionKeyNow (s : Zone) : List Byte :=
  let parent := if (s.keySlot 0).present then (s.keySlot 0).key else s.bindKey
  kdf parent (kdfFixed "FZ52/SESSION" (s.startCountBytes ++ leBytes 4 s.nodeWord.toNat)) 256

/-- Show the record of a slot (R620). -/
def showSlot (s : Zone) (n : Nat) (k : KeySlot) : Zone :=
  let p := pSLOT n
  let w (s : Zone) (f : Fld) (v : Nat) : Zone := s.setFld p f v
  let s := if n = 0 then s else
    w (w (w s SLOT.ATTR_ATTR k.attr.toNat) SLOT.KEY_ID_KEY_ID k.keyId.toNat) SLOT.USE_COUNT_COUNT k.count.toNat
  let s := w (w (w s SLOT.OWNER_OWNED (b2n k.owner.isSome)) SLOT.OWNER_WORLD
    (match k.owner with | some ⟨.secure, _⟩ => 1 | _ => 0)) SLOT.OWNER_MOORING
    (match k.owner with | some o => o.mooring.toNat | none => 0)
  let s := w (w (w s SLOT.SLOT_STATE_VALID (b2n k.present)) SLOT.SLOT_STATE_DISABLED (b2n (k.count == 0)))
    SLOT.SLOT_STATE_NEXT_VALID (b2n k.next.isSome)
  let s := w s SLOT.NEXT_COUNT_COUNT (match k.next with | some x => x.2.toNat | none => 0)
  s.setPageBytes p 0x20 (padTo 96 k.pub)

def setKeyring (s : Zone) (f : KeyringSt → KeyringSt) : Zone := { s with keyring := f s.keyring }

/-- Set a slot, with what its record, KEY.0 and ZONE.0 show of it (R607, R619). -/
def setKeySlot (s : Zone) (n : Nat) (k : KeySlot) : Zone :=
  let s := s.setKeyring fun x => { x with slots := SMap.set (fun _ => KeySlot.init) x.slots n k }
  let s := (s.showSlot n k).setFld pKEY KEY0.PERSISTED_COUNT (s.keyring.slots.filter fun e => e.2.persistent).length
  if n = 0 then s.setFlag (pZONE 0) ZONE0.SUPV_BOUND k.present else s

/-- Show BUSY and QUEUED of KEY.0. -/
def showEngine (s : Zone) : Zone :=
  (s.setFlag pKEY KEY0.ENGINE_STATUS_BUSY s.keyring.run.isSome).setFld pKEY KEY0.ENGINE_STATUS_QUEUED s.keyring.jobs.length

/-- Write the keyring record (R595). -/
def writeRecord (s : Zone) : Zone :=
  (s.setKeyring fun x => { x with
    dirty := false
    record := some ((x.slots.filter fun e => e.2.persistent).map fun e => (e.1, e.2.recorded)) }).setFld pKEY
    KEY0.ENGINE_STATUS_STORE 1

/-- The count that the record holds of a slot; none where it holds no such slot. -/
def recordedCount (s : Zone) (n : Nat) : Option Nat :=
  ((s.keyring.record.getD []).find? fun e => e.1 == n).map fun e => e.2.count.toNat

/-! ### Windows and jobs -/

/-- End a job with a RESULT (R597, R600, R619). -/
def endJob (s : Zone) (j : Job) (code : Nat) : Zone :=
  let p := pWIN j.win
  let s := (s.setFld p WIN.STATUS_BUSY 0).setFld p WIN.STATUS_RESULT code
  let s := s.count pKEY (if code = 0 then KEY0.JOB_COUNTS_DONE else KEY0.JOB_COUNTS_FAILED)
  if code = KeyResult.auth then s.count pKEY KEY0.ACCESS_COUNTS_AUTH else s

/-- Whether an issuer may use a window (R596). -/
def windowOpen (s : Zone) (n : Nat) (src : Source) : Bool := src.world == .secure || (s.keySlot n).owner == some src

/-- Whether block 8, the crypto engine, runs (R602). -/
def engineRuns (s : Zone) : Bool := s.gateState 8 == 0

/-- A write of OP of window n (R596, R597, R601, R602). -/
def opWrite (s : Zone) (n : Nat) (src : Source) (word : Word) : Zone :=
  if n = 0 then { s with resp := ⟨Err.decode, 0⟩ }
  else if !s.windowOpen n src || s.flag (pWIN n) WIN.STATUS_BUSY then s.count pKEY KEY0.ACCESS_COUNTS_IGNORED
  else
    let j : Job := ⟨n, src, word⟩
    if !s.engineRuns then s.endJob j KeyResult.gated
    else if 32 ≤ s.keyring.jobs.length then s.endJob j KeyResult.queueFull
    else (({ s with keyring := { s.keyring with jobs := s.keyring.jobs ++ [j] } }).setFld (pWIN n) WIN.STATUS_BUSY 1).showEngine

/-- End every job that satisfies `p`, queued or running, with a RESULT. -/
def endJobs (s : Zone) (p : Job → Bool) (code : Nat) : Zone :=
  let gone := (match s.keyring.run with | some r => if p r.job then [r.job] else [] | none => []) ++ s.keyring.jobs.filter p
  let s := s.setKeyring fun x => { x with
    jobs := x.jobs.filter fun j => !p j
    run := match x.run with | some r => if p r.job then none else some r | none => none }
  (s.forEach gone fun (s : Zone) (j : Job) => s.endJob j code).showEngine

end Zone

/-! ### The checks of R599 -/

/-- Opcode, VARIANT, CONT and NEXT of an OP word. -/
def Job.code (j : Job) : Nat := j.op.toNat % 256
def Job.variant (j : Job) : Nat := j.op.toNat / 256 % 16
def Job.cont (j : Job) : Bool := j.op.getLsbD 12
def Job.nextKey (j : Job) : Bool := j.op.getLsbD 13

namespace Zone

def keyIn (s : Zone) (n : Nat) : Nat := s.fld (pWIN n) WIN.LENGTHS_IN_LEN
def keyAad (s : Zone) (n : Nat) : Nat := s.fld (pWIN n) WIN.LENGTHS_AAD_LEN
def keySource (s : Zone) (n : Nat) : Nat := s.fld (pWIN n) WIN.SOURCE_SLOT
def keyData (s : Zone) (n k : Nat) : List Byte := s.pageBytes (pWIN n) 0x100 k
def keyAux (s : Zone) (n k : Nat) : List Byte := s.pageBytes (pWIN n) 0x040 k
def keyIv (s : Zone) (n : Nat) : List Byte := s.pageBytes (pWIN n) 0x020 12
def keyAttr (s : Zone) (n : Nat) : Word := s.rd (pWIN n + WIN.NEW_ATTR_ATTR.off)

/-- The type that WRITE and DERIVE give the key: with NEXT the slot's own (R598). -/
def newType (s : Zone) (j : Job) : Nat := if j.nextKey then (s.keySlot j.win).type else attrType (s.keyAttr j.win)

/-- Check 2 of R599. -/
def argOk (s : Zone) (j : Job) : Bool :=
  let n := j.win
  let k := s.keySlot n
  let len := s.keyIn n
  let owned := k.owner.isSome
  decide (j.op.toNat < 2 ^ 14) && decide (len ≤ 2048 ∧ s.keyAad n ≤ len) &&
    (!j.nextKey || decide (j.code = 0x10 ∨ j.code = 0x11 ∨ j.code = 0x15)) &&
    (decide (j.code = 0x07) || !j.cont && decide (j.variant = 0)) &&
    match j.code with
    | 0x01 => true
    | 0x02 => true
    | 0x03 => true
    | 0x04 => true
    | 0x05 => true
    | 0x06 => !(decide (4 ≤ k.type ∧ k.type ≤ 7)) || decide (len = coordLen k.type)
    | 0x07 => decide (j.variant ≤ 2) && (!j.cont || decide (len % (if j.variant = 0 then 64 else 128) = 0))
    | 0x10 =>
      let t := s.newType j
      (if j.nextKey then decide (t ≠ 0) else attrOk (s.keyAttr n) owned) && decide (len = typeLen t) &&
        (!decide (t = 4 ∨ t = 5) || decide (1 ≤ beNat (s.keyData n len) ∧ beNat (s.keyData n len) < curveN (isP384 t))) &&
        (!decide (t = 6 ∨ t = 7) || onCurve (isP384 t) (s.keyData n len))
    | 0x11 => (if j.nextKey then k.present else attrOk (s.keyAttr n) owned) && decide (s.keySource n ≤ 0x100)
    | 0x12 => true
    | 0x14 => decide (s.keySource n < 0x100)
    | 0x15 => decide (s.keySource n < 0x100)
    | 0x20 => true
    | _ => false

/-- The slot that holds the key an operation uses; none where it uses no slot (R598). -/
def keyUsed (s : Zone) (j : Job) : Option Nat :=
  match j.code with
  | 0x01 => some j.win
  | 0x02 => some j.win
  | 0x03 => some j.win
  | 0x04 => some j.win
  | 0x05 => some j.win
  | 0x06 => some j.win
  | 0x11 => if s.keySource j.win = 0x100 then none else some (s.keySource j.win)
  | 0x14 => some j.win
  | 0x15 => some (s.keySource j.win)
  | _ => none

end Zone

/-- The types that suit an operation, and its use (R592, R598). -/
def opTypes : Nat → List Nat
  | 0x01 => [1, 2] | 0x02 => [1, 2] | 0x03 => [1, 2, 3] | 0x04 => [1, 2, 3] | 0x05 => [4, 5] | 0x06 => [4, 5, 6, 7]
  | 0x11 => [1, 2, 3] | 0x14 => [1, 2] | 0x15 => [1, 2] | _ => []
def opUse : Nat → Nat
  | 0x01 => 2 | 0x02 => 2 | 0x03 => 1 | 0x04 => 1 | 0x05 => 0 | 0x06 => 0 | 0x11 => 3 | 0x14 => 4 | 0x15 => 4 | _ => 5

/-- The operations marked secure (R598). -/
def opSecure (c : Nat) : Bool := decide (c = 0x10 ∨ c = 0x11 ∨ c = 0x12 ∨ c = 0x20)

namespace Zone

/-- Whether an operation reads SOURCE as a slot. -/
def sourceSlot (s : Zone) (j : Job) : Option Nat :=
  if (j.code = 0x11 ∧ s.keySource j.win ≠ 0x100) ∨ j.code = 0x14 ∨ j.code = 0x15 then some (s.keySource j.win) else none

/-- The checks of R599, in order: the code of the first that fails, 0 for none. -/
def jobCheck (s : Zone) (j : Job) : Nat :=
  let other (m : Nat) : Bool := decide (m = 0) || (s.keySlot m).owner != (s.keySlot j.win).owner
  let k : Option KeySlot := (s.keyUsed j).map s.keySlot
  if s.mode = .test ∧ j.code ≠ 0x07 then KeyResult.lifecycle
  else if !s.windowOpen j.win j.src then KeyResult.access
  else if opSecure j.code && j.src.world == .normal then KeyResult.world
  else if !s.argOk j then KeyResult.arg
  else if j.code = 0x11 ∧ s.keySource j.win = 0x100 ∧ s.keyData j.win 5 ≠ ascii "FZ52/" then KeyResult.arg
  else if s.sourceSlot j = some 0 then KeyResult.access
  else if (match k with | some k => !k.present | none => false) ||
      (match s.sourceSlot j with | some m => !(s.keySlot m).present | none => false) then KeyResult.empty
  else if (match s.sourceSlot j with | some m => other m | none => false) then KeyResult.access
  else match k with
    | none => KeyResult.ok
    | some k =>
      if !(opTypes j.code).contains k.type then KeyResult.type
      else if !(attrUses k.attr).testBit (opUse j.code) then KeyResult.use
      else if k.count = 0 then KeyResult.disabled
      else KeyResult.ok

end Zone

/-- The MAC of R592 under a slot's key. -/
def KeySlot.mac (k : KeySlot) (m : List Byte) : List Byte :=
  if k.type = 3 then hmac 0 k.key m else beBytes 16 (cmac k.key m).toNat

/-- The additional data of a wrap blob: its first 16 bytes (R603). -/
def blobHead (attr keyId count : Word) : List Byte :=
  leBytes 2 0x4B57 ++ leBytes 2 1 ++ leBytes 4 attr.toNat ++ leBytes 4 keyId.toNat ++ leBytes 4 count.toNat

namespace Zone

/-- A slot with a new key, or with NEXT a new next key (R598). -/
def keyInto (k : KeySlot) (next : Bool) (attr : Word) (key : List Byte) (keyId count : Word) : KeySlot :=
  if next then { k with next := some (key, count) }
  else { k with attr := attrStored attr k.owner.isSome, key := key, keyId := keyId, count := count, next := none }

/-- What a wrap blob unwraps to (R603): the RESULT and the slot. -/
def unwrap (s : Zone) (j : Job) : Nat × Option KeySlot :=
  let k := s.keySlot j.win
  let w := s.keySlot (s.keySource j.win)
  let b := s.keyData j.win (s.keyIn j.win)
  let attr : Word := BitVec.ofNat 32 (leAt b 4 4)
  let t := attrType attr
  if b.length < 4 ∨ leAt b 0 2 ≠ 0x4B57 ∨ leAt b 2 2 ≠ 1 ∨ !attrOk attr k.owner.isSome ∨ b.length ≠ 44 + typeLen t ∨
      (j.nextKey = true ∧ k.type ≠ t) then (KeyResult.arg, none)
  else
    let x := gcmDecrypt w.key ((b.drop 0x10).take 12) (b.take 16) ((b.drop 0x1C).take (typeLen t))
    if x.2 ≠ (b.drop (0x1C + typeLen t)).take 16 then (KeyResult.auth, none)
    else (KeyResult.ok, some (keyInto k j.nextKey attr x.1 (BitVec.ofNat 32 (leAt b 8 4)) (BitVec.ofNat 32 (leAt b 12 4))))

/-- What a job that has passed its checks does (R598): the job as it runs. -/
def jobRun (s : Zone) (j : Job) : RunJob × Zone :=
  let n := j.win
  let k := s.keySlot n
  let len := s.keyIn n
  let d := s.keyData n len
  let done (code : Nat) (aux : Option (List Byte)) : RunJob := ⟨j, code, aux, none, 0, none, false⟩
  match j.code with
  | 0x01 =>
    let x := gcmEncrypt k.key (s.keyIv n) (d.take (s.keyAad n)) (d.drop (s.keyAad n))
    (⟨j, 0, some x.2, some (s.keyAad n, x.1), len - s.keyAad n, none, false⟩, s)
  | 0x02 =>
    let x := gcmDecrypt k.key (s.keyIv n) (d.take (s.keyAad n)) (d.drop (s.keyAad n))
    if x.2 = s.keyAux n 16 then (⟨j, 0, none, some (s.keyAad n, x.1), len - s.keyAad n, none, false⟩, s)
    else (⟨j, KeyResult.auth, none, some (s.keyAad n, List.replicate (len - s.keyAad n) 0), 0, none, false⟩, s)
  | 0x03 => (done 0 (some (k.mac d)), s)
  | 0x04 => (done (if k.mac d = s.keyAux n (if k.type = 3 then 32 else 16) then 0 else KeyResult.auth) none, s)
  | 0x05 => (done 0 (some (ecdsaSign k.type k.key (s.keyAux n (coordLen k.type)))), s)
  | 0x06 =>
    let t := if isP384 k.type then 7 else 6
    (done (if ecdsaVerify t k.pub (s.keyData n (coordLen k.type)) (s.keyAux n (2 * coordLen k.type)) then 0
      else KeyResult.auth) none, s)
  | 0x07 =>
    let old := SMap.get (fun _ => none) s.keyring.hash n
    let setHash (s : Zone) (h : Option (Nat × List Byte)) : Zone :=
      s.setKeyring fun x => { x with hash := SMap.set (fun _ => none) x.hash n h }
    let acc := match old with | some h => h.2 | none => []
    if j.cont then (done 0 none, setHash s (some ((match old with | some h => if h.1 = j.variant then h.1 else 3 | none => j.variant), acc ++ d)))
    else if (match old with | some h => h.1 == j.variant | none => true) then
      (done 0 (some (sha j.variant (acc ++ d))), setHash s none)
    else
      let f := s.freshBytes (nthD [32, 48, 64] j.variant 32)
      (done 0 (some f.1), setHash f.2 none)
  | 0x10 =>
    (⟨j, 0, none, none, 0, some (keyInto k j.nextKey (s.keyAttr n) d (s.rd (pWIN n + WIN.NEW_KEY_ID_KEY_ID.off))
      (s.rd (pWIN n + WIN.NEW_COUNT_COUNT.off))), false⟩, s)
  | 0x11 =>
    let parent := if s.keySource n = 0x100 then s.root.getD [] else (s.keySlot (s.keySource n)).key
    let t := s.newType j
    let key := if t = 4 ∨ t = 5 then kdfPrivate (isP384 t) parent d else kdf parent d (typeLen t * 8)
    (⟨j, 0, none, none, 0, some (keyInto k j.nextKey (s.keyAttr n) key (s.rd (pWIN n + WIN.NEW_KEY_ID_KEY_ID.off))
      (s.rd (pWIN n + WIN.NEW_COUNT_COUNT.off))), false⟩, s)
  | 0x12 => (⟨j, 0, none, none, 0, some k.cleared, false⟩, s)
  | 0x14 =>
    let src := s.keySlot (s.keySource n)
    let iv := s.freshBytes 12
    let head := blobHead src.attr src.keyId src.count
    let x := gcmEncrypt k.key iv.1 head src.key
    (⟨j, 0, none, some (0, head ++ iv.1 ++ x.1 ++ x.2), 44 + src.key.length, none, false⟩, iv.2)
  | 0x15 =>
    let x := s.unwrap j
    (⟨j, x.1, none, none, 0, x.2, false⟩, s)
  | 0x20 =>
    let m := s.keyData n 64 ++ s.startCountBytes ++ leBytes 4 s.domainWord.toNat ++ leBytes 4 s.nodeWord.toNat ++
      leBytes 1 s.lifeCycle ++ [0#8, 0#8, 0#8]
    (done 0 (some (ecdsaSign 4 s.attestKey (sha 0 m))), s)
  | _ => (done KeyResult.arg none, s)

/-- Count a use of the key that a job uses; true where the job waits for the next record write (R593, R595). -/
def countUse (s : Zone) (j : Job) : Bool × Zone :=
  match s.keyUsed j with
  | none => (false, s)
  | some m =>
    let k := (s.keySlot m).used
    let s' := s.setKeySlot m k
    if k.persistent && k.count ≠ 0xFFFFFFFF &&
        (match s.recordedCount m with | some c => decide (k.count.toNat ≤ c) | none => true) then
      (true, s'.setKeyring fun x => { x with dirty := true })
    else (false, s')

/-- The engine begins the next job (R599, R601); a secure-world job sets the hold of block 8 (R527). -/
def jobBegin (s : Zone) : Zone :=
  if s.keyring.run.isSome || !s.engineRuns then s
  else
    match s.keyring.jobs with
    | [] => s
    | j :: rest =>
      let s := s.setKeyring fun x => { x with jobs := rest }
      let s := if j.src.world = .secure then s.setFldBit (pZONE 5) ZONE5.HOLD_HOLD 8 true else s
      let s := if j.code = 0x07 then s else s.setKeyring fun x => { x with hash := SMap.set (fun _ => none) x.hash j.win none }
      let c := s.jobCheck j
      if c ≠ 0 then (s.endJob j c).showEngine
      else
        let r := s.jobRun j
        let u := r.2.countUse j
        let persists := match r.1.change with
          | some k => k.persistent || (s.keySlot j.win).persistent
          | none => false
        let change := r.1.change.map fun (k : KeySlot) =>
          if (s.keyUsed j) = some j.win ∧ j.nextKey = true then { k with count := (u.2.keySlot j.win).count } else k
        (u.2.setKeyring fun x => { x with
          dirty := x.dirty || persists
          run := some { r.1 with change := change, need := u.1 || persists } }).showEngine

/-- Put the slot that the running job writes into place. -/
def commitChange (s : Zone) : Zone :=
  match s.keyring.run with
  | none => s
  | some r =>
    match r.change with
    | none => s
    | some k => (s.setKeySlot r.job.win k).setKeyring fun x => { x with run := some { r with change := none } }

/-- The keyring record is written (R595), with the change of the running job in it. -/
def recordWrite (s : Zone) : Zone :=
  if !s.keyring.dirty then s
  else
    let s := match s.keyring.run with
      | some r =>
        if r.need then s.commitChange.setKeyring fun x => { x with run := x.run.map fun (y : RunJob) => { y with need := false } }
        else s
      | none => s
    s.writeRecord

/-- The running job completes (R601); one that ends in TEST ends with LIFECYCLE unless it is HASH (R602). -/
def jobComplete (s : Zone) : Zone :=
  match s.keyring.run with
  | none => s
  | some r =>
    if r.need then s
    else
      let n := r.job.win
      let test := decide (s.mode = .test) && decide (r.job.code ≠ 0x07)
      let s := if test then s else s.commitChange
      let s := s.setKeyring fun x => { x with run := none }
      let s := if test then s else
        let s := match r.aux with | some a => s.setPageBytes (pWIN n) 0x040 a | none => s
        let s := match r.data with | some d => s.setPageBytes (pWIN n) (0x100 + d.1) d.2 | none => s
        s.setFld (pWIN n) WIN.OUT_LEN_BYTES r.outLen
      (s.endJob r.job (if test then KeyResult.lifecycle else r.code)).showEngine

/-! ### Rolls (R604, R605) -/

/-- Roll key set `set`: the slots rolled and skipped. -/
def rollSet (s : Zone) (set : Nat) : Nat × Nat × Zone :=
  (List.range 256).foldl (fun (x : Nat × Nat × Zone) n =>
    let k := x.2.2.keySlot n
    if attrSet k.attr ≠ set then x
    else if k.next.isSome then
      (x.1 + 1, x.2.1, ((x.2.2.setKeySlot n k.rolled).setKeyring fun y => { y with dirty := y.dirty || k.persistent }).count pKEY
        KEY0.ROLL_COUNTS_ROLLED)
    else (x.1, x.2.1 + 1, x.2.2.count pKEY KEY0.ROLL_COUNTS_SKIPPED)) (0, 0, s)

/-! ### START (R590, R595, R614, R622) -/

/-- Clear every slot and restore the keyring record; `good` tells whether the record passes its check (R595). -/
def restoreKeys (s : Zone) (good : Bool) : Zone :=
  let old := s.keyring
  let s := { s with keyring := { KeyringSt.init with
    record := if good then old.record else none
    cert := old.cert } }
  match old.record with
  | none => s.setFld pKEY KEY0.ENGINE_STATUS_STORE 0
  | some r =>
    if good then (s.forEach r fun (s : Zone) (e : Nat × KeySlot) => s.setKeySlot e.1 e.2).setFld pKEY KEY0.ENGINE_STATUS_STORE 1
    else s.setFld pKEY KEY0.ENGINE_STATUS_STORE 2

/-- Derive the evidence and session keys and show the public keys (R590, R574, R609); none in BLANK and SCRAP (R614). -/
def deriveKeys (s : Zone) : Zone :=
  let s := (s.setFld pKEY KEY0.CERT_LEN_BYTES s.keyring.cert.length).setPageBytes pKEY 0x800 s.keyring.cert
  if s.root.isNone then
    { s with keyring := { s.keyring with evidence := none }, supv := { s.supv with sessionKey := none } }
  else
    let s := { s with keyring := { s.keyring with evidence := some s.evidenceKey },
                      supv := { s.supv with sessionKey := some s.sessionKeyNow } }
    (s.setPageBytes pLOG 0x100 (padTo 64 (publicKey 4 s.evidenceKey))).setPageBytes pKEY 0x100
      (padTo 64 (publicKey 4 s.attestKey))

/-- Clear every slot with EXPIRE 1 and erase the evidence key, on entry to TEST (R616). -/
def expireKeys (s : Zone) : Zone :=
  let s := s.forEach (s.keyring.slots.filter fun e => !e.2.persistent) fun (s : Zone) (e : Nat × KeySlot) =>
    s.setKeySlot e.1 e.2.cleared
  s.setKeyring fun x => { x with evidence := none }

/-! ### MACsec associations (R362, R606) -/

/-- Install secure association n of port p with the SAK of a keyring slot. -/
def saInstall (s : Zone) (p n : Nat) (sci : BitVec 64) (an slot nextPn : Nat) : Zone :=
  let k := s.keySlot slot
  let wide := s.fld (pPORT p) PORT.MACSEC_CFG_CIPHER % 2
  if k.type = wide + 1 ∧ (attrUses k.attr).testBit 2 ∧ k.owner = none then
    s.setSecA p n (some ⟨sci, an, slot, k.key, nextPn⟩)
  else s.event (pPORT p) PORT.PHY_EVENT_SA_REJECT

end Zone

/-! ### Commands -/

/-- An OP write with a given opcode: `flags` is OP[31:8]. -/
def opWord (flags : BitVec 24) (code : Nat) : Word := BitVec.ofNat 32 (flags.toNat * 256 + code)

def execGcmEncrypt (win : BitVec 8) (src : Source) (flags : BitVec 24) (st : State) : Result :=
  st.runFw fun s => s.opWrite win.toNat src (opWord flags 0x01)
def execGcmDecrypt (win : BitVec 8) (src : Source) (flags : BitVec 24) (st : State) : Result :=
  st.runFw fun s => s.opWrite win.toNat src (opWord flags 0x02)
def execMacGen (win : BitVec 8) (src : Source) (flags : BitVec 24) (st : State) : Result :=
  st.runFw fun s => s.opWrite win.toNat src (opWord flags 0x03)
def execMacVerify (win : BitVec 8) (src : Source) (flags : BitVec 24) (st : State) : Result :=
  st.runFw fun s => s.opWrite win.toNat src (opWord flags 0x04)
def execSign (win : BitVec 8) (src : Source) (flags : BitVec 24) (st : State) : Result :=
  st.runFw fun s => s.opWrite win.toNat src (opWord flags 0x05)
def execVerify (win : BitVec 8) (src : Source) (flags : BitVec 24) (st : State) : Result :=
  st.runFw fun s => s.opWrite win.toNat src (opWord flags 0x06)
def execHash (win : BitVec 8) (src : Source) (flags : BitVec 24) (st : State) : Result :=
  st.runFw fun s => s.opWrite win.toNat src (opWord flags 0x07)
def execKeyWrite (win : BitVec 8) (src : Source) (flags : BitVec 24) (st : State) : Result :=
  st.runFw fun s => s.opWrite win.toNat src (opWord flags 0x10)
def execDerive (win : BitVec 8) (src : Source) (flags : BitVec 24) (st : State) : Result :=
  st.runFw fun s => s.opWrite win.toNat src (opWord flags 0x11)
def execKeyClear (win : BitVec 8) (src : Source) (flags : BitVec 24) (st : State) : Result :=
  st.runFw fun s => s.opWrite win.toNat src (opWord flags 0x12)
def execWrap (win : BitVec 8) (src : Source) (flags : BitVec 24) (st : State) : Result :=
  st.runFw fun s => s.opWrite win.toNat src (opWord flags 0x14)
def execUnwrap (win : BitVec 8) (src : Source) (flags : BitVec 24) (st : State) : Result :=
  st.runFw fun s => s.opWrite win.toNat src (opWord flags 0x15)
def execAttest (win : BitVec 8) (src : Source) (flags : BitVec 24) (st : State) : Result :=
  st.runFw fun s => s.opWrite win.toNat src (opWord flags 0x20)

/-- A change of a persistent slot is recorded; a BIND_SUPERVISOR that waited for it answers, and from the command after it the
module authenticates with the new session key (R595, R608). -/
def execKeyringRecordWrite (st : State) : Result := st.runOn fun s =>
  if !s.keyring.dirty then s
  else
    let s := s.recordWrite
    match s.keyring.bind with
    | none => s
    | some seq =>
      let s := (s.setKeyring fun x => { x with bind := none }).answer 0x0003 seq 0 (leBytes 4 0)
      { s with supv := { s.supv with sessionKey := some s.sessionKeyNow } }

def execJobBegin (st : State) : Result := st.runOn Zone.jobBegin
def execJobComplete (st : State) : Result := st.runOn Zone.jobComplete

/-- At AT, key set PARAM rolls (R402, R604). -/
def execGlobalKeyRoll (st : State) : Result := st.runOn fun s =>
  match s.dueGlobal 2 with
  | some k => (s.rollSet (s.slotWord k 5 % 16)).2.2.globalExecuted k
  | none => s

/-- Secure-world firmware installs an association: 0 to 3 transmit, then four for each receive channel. -/
def execSaInstall (writer : Writer) (port : Fin 4) (assoc : Fin 20) (sci : BitVec 64) (an : BitVec 2) (slot : BitVec 8)
    (nextPn : BitVec 64) (st : State) : Result := st.runBy writer fun s =>
  if Zone.secureWriter writer then s.saInstall port.val assoc.val sci an.toNat slot.toNat nextPn.toNat else s

/-- A change of a gated block completes (R526); with the crypto engine gated every job ends (R602). -/
def execGateChangeDone (block : Fin 16) (st : State) : Result := st.runOn fun s =>
  let s := s.gateDone block.val
  if block.val = 8 ∧ !s.engineRuns then s.endJobs (fun _ => true) KeyResult.gated else s

end Sys2Proof.Machine
end

