-- ==== Sys2Proof/Machine/Log.lean ====
section
/-! DEFINITION. The logbook (R565 to R582): intake, posts, module records, the storage writer, snapshot and freeze. -/

namespace Sys2Proof.Machine

open Reg

/-- The frame that stands complete at port 31: the egress side's copy. -/
def EgressSt.complete (x : EgressSt) : Bool := decide (x.copy.cells ≤ x.fetched)

namespace Zone

/-- Whether the logbook takes records: it runs, and the commit point of a sleep has not come (R577, R579). -/
def intakeRuns (s : Zone) : Bool := s.logRuns && decide (s.sleep.phase ≠ 3)

/-! ### Staging (R577) -/

def streamSource (s : Zone) (n : Nat) : Nat := s.fld (pSTREAM n) STREAM.STREAM_CFG_SOURCE

/-- The bytes of the records that a list of items holds. -/
def itemBytes (l : List LogItem) : Nat :=
  (l.map fun i => match i with | .entry r => recordLen r.payload.length | .close _ => 0).sum

/-- The bytes of records not yet hashed (BACKLOG_HASH). -/
def hashBacklog (s : Zone) : Nat := (s.log.streams.map fun e => itemBytes e.2.items).sum

/-- The bytes of the sealed segments not yet stored (BACKLOG_STORE). -/
def storeBacklog (s : Zone) : Nat := (s.log.sealed.map fun x => 256 + x.seg.bodyLen).sum

/-- The bytes of the staging area in use (log entry 50). -/
def stageUsed (s : Zone) : Nat :=
  s.hashBacklog + s.storeBacklog +
    (s.log.streams.map fun e => match e.2.opened with | some g => 256 + g.bodyLen | none => 0).sum

/-- Whether the staging area holds n more bytes; 1 MiB is reserved for module records. -/
def stageRoom (s : Zone) (n : Nat) (moduleRecord : Bool) : Bool :=
  decide (s.stageUsed + n + (if moduleRecord then 0 else 1048576) ≤ s.fld pLOG LOG0.STAGE_SIZE_UNITS * 16777216)

/-- A record was refused for space. -/
def stageFull (s : Zone) : Zone := (s.setFld pLOG LOG0.LOG_STATUS_STAGE_FULL 1).event pLOG LOG0.LOG_EVENT_STAGE_FULL

/-! ### Records -/

/-- The payload of a START record (R573). -/
def startPayload (s : Zone) : List Byte :=
  let head := s.startCountBytes ++ leBytes 1 (s.fld (pZONE 0) ZONE0.STATE_ENTRY_CAUSE) ++ [0#8, 0#8, 0#8] ++ [4#8] ++
    s.pageBytes pLOG 0x100 64 ++ List.replicate 7 0#8
  head ++ ecdsaSign 4 s.attestKey (sha 0 (head ++ leBytes 4 s.domainWord.toNat ++ leBytes 4 s.nodeWord.toNat))

/-- Append a record to a stream, with its next SEQ. -/
def appendRecord (s : Zone) (n kind : Nat) (time : Stamp) (source : Word) (payload : List Byte) : Zone :=
  let q := s.nextSeq n
  let x := s.stream n
  (s.setStream n { x with items := x.items ++ [.entry ⟨kind, n, q, time, s.domainWord, s.nodeWord, source, payload⟩] }).setNextSeq n
    (q + 1)

/-- The bytes that a record of a payload of k bytes takes, with the START record before the first one (R573). -/
def recordNeed (s : Zone) (n k : Nat) : Nat := recordLen k + (if (s.stream n).started then 0 else recordLen 144)

/-- Take a record into a stream; the START record goes before the first (R573). -/
def takeRecord (s : Zone) (n kind : Nat) (time : Stamp) (source : Word) (payload : List Byte) : Zone :=
  let s := if (s.stream n).started then s
    else
      let s := s.appendRecord n 0x0040 s.stamp 0 s.startPayload
      s.setStream n { s.stream n with started := true }
  s.appendRecord n kind time source payload

/-! ### Frames (R566) -/

/-- Take the frame that stands complete at port 31. -/
def frameIntake (s : Zone) : Zone :=
  match s.egress 31 with
  | none => s
  | some x =>
    if !(s.intakeRuns && x.complete) then s
    else
      let n := if x.copy.mirror then s.rd (pLOG + LOG0.MIRROR_STREAM_S0.off) |>.toNat |> fun w => w / 256 ^ (x.copy.queue % 4) % 64
        else x.copy.queue % 64
      let f := s.wireOf 31 x.copy
      if s.streamSource n ≠ 1 then (s.deliverTx 31 x).count pLOG LOG0.LOG_COUNTS_MISROUTED
      else if s.stageRoom (s.recordNeed n f.length) false then
        ((s.deliverTx 31 x).setFld pLOG LOG0.LOG_STATUS_STAGE_FULL 0).takeRecord n (if x.copy.mirror then 2 else 1) x.copy.arrived
          (BitVec.ofNat 32 (x.ingress * 65536)) f
      else s.stageFull

/-! ### Posts (R567, R568) -/

/-- The owner of a stream, as MOOR.42 shows it. -/
def streamOwner (s : Zone) (n : Nat) : Option Source :=
  let p := pOWNS + 4 * n
  if s.flag p OWNS.OWNER_OWNED then
    some ⟨if s.flag p OWNS.OWNER_WORLD then .secure else .normal, BitVec.ofNat 12 (s.fld p OWNS.OWNER_MOORING)⟩
  else none

/-- KIND and INDEX of a grant (R518). -/
def grantKind (g : GrantRun) : Nat := leAt g.args 0 2
def grantIndex (g : GrantRun) : Nat := leAt g.args 2 2

/-- Whether the quiesce of a LOG_STREAM grant of stream n has begun (R519). -/
def streamQuiesced (s : Zone) (n : Nat) : Bool :=
  match s.grant with
  | some g => grantKind g == 5 && grantIndex g == n
  | none => false

/-- Whether a source may write POST_DATA and POST_COMMIT of stream n. -/
def mayPost (s : Zone) (n : Nat) (src : Source) : Bool := s.streamOwner n == some src && !s.streamQuiesced n

/-- A write of POST_COMMIT. -/
def postCommit (s : Zone) (n : Nat) (src : Source) (len : Nat) : Zone :=
  let p := pSTREAM n
  if !s.mayPost n src || s.flag p STREAM.POST_STATUS_BUSY then s.count p STREAM.STREAM_COUNTS_REJECTED
  else
    (s.setStream n { s.stream n with post := some ⟨s.stamp, src, len, s.pageBytes p 0x800 (min len 2048)⟩ }).setFld p
      STREAM.POST_STATUS_BUSY 1

/-- The RESULT of a post. -/
def postResult (s : Zone) (n : Nat) (x : Post) : Nat :=
  if x.length = 0 ∨ 2048 < x.length then 2
  else if s.streamSource n ≠ 2 ∨ !s.intakeRuns then 3
  else if s.stageRoom (s.recordNeed n x.length) false then 0
  else 1

/-- The record of a post is taken or refused. -/
def postTaken (s : Zone) (n : Nat) : Zone :=
  let p := pSTREAM n
  match (s.stream n).post with
  | none => s
  | some x =>
    let r := s.postResult n x
    let s := ((s.setStream n { s.stream n with post := none }).setFld p STREAM.POST_STATUS_BUSY 0).setFld p
      STREAM.POST_STATUS_RESULT r
    if r = 0 then
      (s.setFld pLOG LOG0.LOG_STATUS_STAGE_FULL 0).takeRecord n 0x0010 x.time
        (BitVec.ofNat 32 (x.src.mooring.toNat + if x.src.world = .secure then 4096 else 0)) x.payload
    else (s.count p STREAM.STREAM_COUNTS_REFUSED).when (r == 1) stageFull

/-! ### Module records (R565, R569, R577) -/

/-- The stream that takes the module's own records. -/
def moduleStream (s : Zone) : Option Nat := (List.range 64).find? fun n => s.streamSource n == 3

/-- Take the oldest module record, with the GAP record before it where records have been lost. -/
def moduleRecord (s : Zone) : Zone :=
  if !s.intakeRuns then s
  else
    match s.records with
    | [] => s
    | r :: rest =>
      let s := { s with records := rest }
      match s.moduleStream with
      | none => s.loseRecord
      | some n =>
        let gap := if s.log.lost = 0 then 0 else recordLen 8
        if s.stageRoom (s.recordNeed n r.payload.length + gap) true then
          let s := if s.log.lost = 0 then s else
            { s.takeRecord n 0x0060 s.stamp 0 (leBytes 8 s.log.lost) with
              log := { (s.takeRecord n 0x0060 s.stamp 0 (leBytes 8 s.log.lost)).log with lost := 0 } }
          s.takeRecord n r.kind r.time 0 r.payload
        else s.loseRecord.stageFull

/-! ### Marks (R581, R582) -/

/-- Insert a MARK into every stream whose SOURCE is not OFF, and close each such segment after it. -/
def markStreams (s : Zone) (op : BitVec 32) (kind cause : Nat) : Zone :=
  s.forEach (List.range 64) fun (s : Zone) (n : Nat) =>
    if s.streamSource n = 0 then s
    else
      let s := s.takeRecord n 0x0050 s.stamp 0 (leBytes 4 op.toNat ++ leBytes 2 kind ++ [0#8, 0#8])
      s.setStream n { s.stream n with items := (s.stream n).items ++ [.close cause] }

/-- A LOG_SNAPSHOT executes. -/
def snapshot (s : Zone) (op : BitVec 32) : Zone :=
  if s.logRuns then (s.markStreams op 1 3).event pLOG LOG0.LOG_EVENT_SNAPSHOT else s

/-! ### Frozen extents (R582) -/

def extentPage (k : Nat) : Nat := pLOG + 0x180 + 32 * k
def extentActive (s : Zone) (k : Nat) : Bool := (s.rd (extentPage k + 16)).getLsbD 31
def extentFrom (s : Zone) (k : Nat) : Nat := (s.rd (extentPage k)).toNat + (s.rd (extentPage k + 4)).toNat * 2 ^ 32
def extentTo (s : Zone) (k : Nat) : Nat := (s.rd (extentPage k + 8)).toNat + (s.rd (extentPage k + 12)).toNat * 2 ^ 32

/-- Show an extent. -/
def setExtent (s : Zone) (k a b : Nat) (active : Bool) : Zone :=
  let w (s : Zone) (i v : Nat) : Zone := s.wr (extentPage k + 4 * i) (BitVec.ofNat 32 v)
  (w (w (w (w (w s 0 a) 1 (a / 2 ^ 32)) 2 b) 3 (b / 2 ^ 32)) 4 (b2n active * 2 ^ 31)).setFldBit pLOG LOG0.LOG_STATUS_FROZEN k active

/-- Execute LOG_FREEZE: the result code. An execution time below BEFORE_S gives FROM 0 (log entry 51). -/
def freeze (s : Zone) (before : Nat) : Nat × Zone :=
  if !s.logRuns then (0x61, s)
  else
    match (List.range 4).find? fun k => !s.extentActive k with
    | none => (0x60, s)
    | some k =>
      (0, ((s.markStreams 0 2 4).setExtent k ((s.nowNs - before * 1000000000) % 2 ^ 64) (s.nowNs % 2 ^ 64) true).event pLOG
        LOG0.LOG_EVENT_FREEZE)

/-- A write of FREEZE_RELEASE; the writer that waits for one continues (R580). -/
def freezeRelease (s : Zone) (mask : Nat) : Zone :=
  let active := (numbers 4 mask.testBit).filter s.extentActive
  let s := s.forEach (numbers 4 mask.testBit) fun (s : Zone) (k : Nat) => s.setExtent k 0 0 false
  if active.isEmpty then s else s.setFld pLOG LOG0.LOG_STATUS_STORE_FULL 0

/-- Whether the blocks of a stored segment are protected. -/
def frozen (s : Zone) (x : Stored) : Bool :=
  (List.range 4).any fun k => s.extentActive k && decide (s.extentFrom k ≤ x.closeNs ∧ x.closeNs ≤ s.extentTo k)

/-! ### The storage writer (R580) -/

/-- Whether blocks [a, a + n) lie in the storage area and touch no protected segment. -/
def placeFits (s : Zone) (a n : Nat) : Bool :=
  decide (a + n ≤ s.fld pLOG LOG0.LBA_COUNT_BLOCKS) &&
    s.log.stored.all fun x => !(s.frozen x && decide (x.block < a + n ∧ a < x.block + x.blocks))

/-- The position for an image of n blocks: WRITE_PTR, else the next one where it fits. -/
def findPlace (s : Zone) (n : Nat) : Option Nat :=
  let ptr := s.fld pLOG LOG0.WRITE_PTR_BLOCK
  let ends := (s.log.stored.filter s.frozen).map fun x => x.block + x.blocks
  let low (l : List Nat) : Option Nat := (l.filter fun a => s.placeFits a n).foldl (fun b a =>
    match b with | none => some a | some c => some (min a c)) none
  match low (ptr :: ends.filter fun a => decide (ptr ≤ a)) with
  | some a => some a
  | none => low (0 :: ends)

def writerRuns (s : Zone) : Bool :=
  s.flag pLOG LOG0.LOG_CTRL_EN && !s.flag pLOG LOG0.LOG_STATUS_STORE_FULL && !s.flag pLOG LOG0.LOG_STATUS_STORE_ERROR &&
    decide (8192 ≤ s.fld pLOG LOG0.LBA_COUNT_BLOCKS)

def addr64 (s : Zone) (p : Nat) (lo hi : Fld) : Nat := s.rd (p + lo.off) |>.toNat |> fun a => a + (s.rd (p + hi.off)).toNat * 2 ^ 32

/-- The writer stops (R580). -/
def storeError (s : Zone) : Zone := (s.setFld pLOG LOG0.LOG_STATUS_STORE_ERROR 1).event pLOG LOG0.LOG_EVENT_STORE_ERROR

/-- Whether a sealed segment is the one that a command writes. -/
def isOf (c : NvmeCmd) (x : Sealed) : Bool := c.stream == x.seg.stream && c.number == x.seg.number

/-- A LINK_DOWN of H0 stops the writer (R546, R580). -/
def logLinkDown (s : Zone) : Zone :=
  if !s.flag pLOG LOG0.LOG_CTRL_EN then s
  else
    let hit (x : Sealed) : Bool := s.log.cmds.any fun c => isOf c x
    let s := { s with log := { s.log with
      sealed := s.log.sealed.map fun x => if hit x then { x with failed := true } else x, cmds := [] } }
    (s.setFld pLOG LOG0.NVME_LAST_LINK 1).storeError

/-- A doorbell write of the logbook engine through H0 OUT; one that meets the link down stops the writer (R546, R580). -/
def doorbellWrite (s : Zone) (a : Nat) (v : Nat) : Zone :=
  let y := s.dmaWrite Master.log sourceZero a (leBytes 4 v)
  if s.h0Up then y.2 else y.2.logLinkDown

/-- The bytes of an NVMe Write command (log entry 52): its PRP entries stand for places that the spec leaves open. -/
def nvmeCommand (s : Zone) (id lba blocks : Nat) (fua : Bool) : List Byte × Zone :=
  let x := s.freshBytes 16
  (leBytes 2 1 ++ leBytes 2 id ++ leBytes 4 (s.fld pLOG LOG0.NVME_NSID_NSID) ++ leBytes 16 0 ++ x.1 ++ leBytes 8 lba ++
    leBytes 4 (blocks - 1 + b2n fua * 2 ^ 30) ++ leBytes 12 0, x.2)

def setSealed (s : Zone) (k : Nat) (x : Sealed) : Zone := { s with log := { s.log with sealed := s.log.sealed.set k x } }

/-- Place the k-th sealed segment; older segments in its place are overwritten. -/
def placeSegment (s : Zone) (k : Nat) (x : Sealed) : Zone :=
  match s.findPlace x.blocks with
  | none => (s.setFld pLOG LOG0.LOG_STATUS_STORE_FULL 1).event pLOG LOG0.LOG_EVENT_STORE_FULL
  | some a =>
    let s := { s with log := { s.log with
      stored := s.log.stored.filter fun y => !decide (y.block < a + x.blocks ∧ a < y.block + y.blocks) } }
    (s.setSealed k { x with place := some a }).setFld pLOG LOG0.WRITE_PTR_BLOCK (a + x.blocks)

/-- Issue the next command of the k-th sealed segment, at most 256 KiB. -/
def issueWrite (s : Zone) (k : Nat) (x : Sealed) (a : Nat) : Zone :=
  let n := min 64 (x.blocks - x.issued)
  let id := s.log.sqTail
  let lba := s.addr64 pLOG LOG0.LBA_FIRST_LO_LBA LOG0.LBA_FIRST_HI_LBA + a + x.issued
  let c := s.nvmeCommand id lba n (decide (x.issued + n = x.blocks))
  let s := (c.2.dmaWrite Master.log sourceZero (s.addr64 pLOG LOG0.SQ_BASE_LO_ADDR LOG0.SQ_BASE_HI_ADDR + 64 * s.log.sqTail) c.1).2
  let s := s.setSealed k { x with issued := x.issued + n }
  let tail := (s.log.sqTail + 1) % (s.fld pLOG LOG0.NVME_QCFG_QSIZE + 1)
  let s := { s with log := { s.log with cmds := s.log.cmds ++ [(⟨id, x.seg.stream, x.seg.number⟩ : NvmeCmd)], sqTail := tail } }
  s.doorbellWrite (s.addr64 pLOG LOG0.DB_LO_ADDR LOG0.DB_HI_ADDR) tail

/-- One step of the storage writer: a placement or a command of the oldest segment with blocks to write. -/
def storeStep (s : Zone) : Zone :=
  if !s.writerRuns then s
  else
    match s.log.sealed.findIdx? fun x => decide (x.issued < x.blocks) with
    | none => s
    | some k =>
      match s.log.sealed[k]? with
      | none => s
      | some x =>
        match x.place with
        | none => s.placeSegment k x
        | some a =>
          if s.log.cmds.length < min 64 (s.fld pLOG LOG0.NVME_QCFG_QSIZE) ∧ !(s.log.cmds.any fun c => c.id == s.log.sqTail) then
            s.issueWrite k x a
          else s

/-- The writer issues the commands that it may. -/
def nvmeSubmit (s : Zone) : Zone := s.forEach (List.range 128) fun (s : Zone) (_ : Nat) => s.storeStep

/-- A segment of which every command has completed with success counts as stored. -/
def segmentStored (s : Zone) (c : NvmeCmd) : Zone :=
  match s.log.sealed.find? (isOf c) with
  | none => s
  | some x =>
    if x.issued = x.blocks ∧ !x.failed ∧ !(s.log.cmds.any fun d => isOf d x) then
      { s with log := { s.log with
          sealed := s.log.sealed.filter fun y => !isOf c y
          stored := s.log.stored ++ [(⟨x.place.getD 0, x.blocks, x.closeTime.nanos % 2 ^ 64⟩ : Stored)] } }.count pLOG LOG0.STORE_COUNTS_SEGMENTS
    else s

/-- An NVMe completion. -/
def nvmeCompletion (s : Zone) (id status : Nat) : Zone :=
  match s.log.cmds.find? fun c => c.id == id with
  | none => s
  | some c =>
    let head := (s.log.cqHead + 1) % (s.fld pLOG LOG0.NVME_QCFG_QSIZE + 1)
    let s := { s with log := { s.log with cmds := s.log.cmds.filter fun d => d.id != id, cqHead := head } }
    let s := s.doorbellWrite (s.addr64 pLOG LOG0.DB_LO_ADDR LOG0.DB_HI_ADDR + s.fld pLOG LOG0.DB_STRIDE_BYTES) head
    if status = 0 then s.segmentStored c
    else
      let s := { s with log := { s.log with sealed := s.log.sealed.map fun x => if isOf c x then { x with failed := true } else x } }
      ((s.setFld pLOG LOG0.NVME_LAST_LINK 0).setFld pLOG LOG0.NVME_LAST_STATUS status).storeError

/-- A write of STORE_CTRL.RESUME: the affected segment is written again from its first block. -/
def storeResume (s : Zone) : Zone :=
  if s.flag pLOG LOG0.LOG_STATUS_STORE_ERROR then
    ({ s with log := { s.log with
      sealed := s.log.sealed.map fun (x : Sealed) => if x.failed then ({ x with failed := false, issued := 0 } : Sealed) else x } }).setFld pLOG
      LOG0.LOG_STATUS_STORE_ERROR 0
  else s

end Zone

/-! ### Commands -/

def execLogFrameIntake (st : State) : Result := st.runOn Zone.frameIntake

def execPostCommit (stream : Fin 64) (src : Source) (length : BitVec 12) (st : State) : Result :=
  st.runFw fun s => s.postCommit stream.val src length.toNat

def execPostTaken (stream : Fin 64) (st : State) : Result := st.runOn fun s => s.postTaken stream.val
def execModuleRecord (st : State) : Result := st.runOn Zone.moduleRecord
def execRecordHash (stream : Fin 64) (st : State) : Result := st.runOn fun s => s.hashNext stream.val

/-- A segment with no record waiting closes 1 s after its OPEN_TIME (R576). -/
def execSegmentTimeClose (stream : Fin 64) (st : State) : Result := st.runOn fun s =>
  match (s.stream stream.val).opened with
  | none => s
  | some g =>
    if (s.stream stream.val).items = [] ∧ s.hashRuns ∧ g.openTime.nanos + 1000000000 ≤ s.nowNs then s.closeSegment stream.val 1
    else s

def execNvmeSubmit (st : State) : Result := st.runOn Zone.nvmeSubmit

/-- An NVMe completion of the command with an identifier arrives, with its status field. -/
def execNvmeCompletion (id : BitVec 16) (status : BitVec 15) (st : State) : Result :=
  st.runOn fun s => s.nvmeCompletion id.toNat status.toNat

def execStoreResume (writer : Writer) (st : State) : Result :=
  st.runBy writer fun s => if s.mayConfigure writer then s.storeResume else s

def execFreezeRelease (writer : Writer) (mask : BitVec 4) (st : State) : Result :=
  st.runBy writer fun s => if s.mayConfigure writer then s.freezeRelease mask.toNat else s

/-- At AT, a snapshot executes (R402, R581). -/
def execGlobalLogSnapshot (st : State) : Result := st.runOn fun s =>
  match s.dueGlobal 1 with
  | some k => (s.snapshot (s.slotWord k 0)).globalExecuted k
  | none => s

end Sys2Proof.Machine
end

