-- ==== Sys2Proof/Machine/Lin.lean ====
section
/-! DEFINITION. The LIN channels, SERIAL.0 to SERIAL.5 (R434 to R439). -/

namespace Sys2Proof.Machine

open Reg

/-! Causes of a failed LIN frame (R436). -/
namespace LinCause
@[reducible] def noResponse : Nat := 0x01
@[reducible] def incomplete : Nat := 0x02
@[reducible] def checksum : Nat := 0x03
@[reducible] def bit : Nat := 0x04
@[reducible] def framing : Nat := 0x05
@[reducible] def busBusy : Nat := 0x06
@[reducible] def idReserved : Nat := 0x07
@[reducible] def busShort : Nat := 0x08
@[reducible] def notActive : Nat := 0x12
@[reducible] def role : Nat := 0x13
end LinCause

/-- The protected identifier of ISO 17987. -/
def linPid (i : Nat) : Nat :=
  let b (n : Nat) : Bool := i.testBit n
  i % 64 + 64 * b2n (((b 0 != b 1) != b 2) != b 4) + 128 * b2n (!(((b 1 != b 3) != b 4) != b 5))

/-- The checksum of ISO 17987: the inverted sum with carry, over the data, and over the protected identifier when enhanced. -/
def linChecksum (enhanced : Bool) (pid : Nat) (data : List Byte) : Nat :=
  255 - data.foldl (fun a b => if 255 < a + b.toNat then a + b.toNat - 255 else a + b.toNat) (if enhanced then pid else 0)

/-- A ring entry of R438. -/
def linEntry (cause kind bytes ident check : Nat) (ns : Nat) (data : List Byte) (seq : Nat) : List Byte :=
  leBytes 4 (cause * 2 ^ 24 + kind * 2 ^ 16 + bytes * 2 ^ 8 + ident) ++ leBytes 4 (check * 256 + (if kind = 3 then 0 else linPid ident)) ++ leBytes 8 ns ++
    padTo 8 data ++ leBytes 4 (seq * 65536) ++ leBytes 4 0

namespace Zone

def lin (s : Zone) (c : Nat) : LinSt := SMap.get (fun _ => LinSt.init) s.lins c

def setLin (s : Zone) (c : Nat) (x : LinSt) : Zone := { s with lins := SMap.set (fun _ => LinSt.init) s.lins c x }

/-- What LIN_STATUS.STATE reads (R445): 0 idle, 1 header, 2 response. -/
def linState (s : Zone) (c : Nat) : Nat :=
  match (s.lin c).cur with
  | some h => if h.action = 0 ∨ s.mono < h.response then 1 else 2
  | none => 0

def linOn (s : Zone) (c : Nat) : Bool := s.flag (pSER c) LIN.LIN_CFG_EN && !s.inMode [.off, .sleep] &&
  !s.fldBit (pZONE 0) ZONE0.TRX_FALLBACK_LIN_ACTIVE c
def linResponder (s : Zone) (c : Nat) : Bool := s.flag (pSER c) LIN.LIN_CFG_ROLE
def linDiv (s : Zone) (c : Nat) : Nat := s.fld (pSER c) LIN.LIN_CFG_DIV

/-- The response bytes of an identifier (R435). -/
def linBuffer (s : Zone) (c i n : Nat) : List Byte :=
  (leBytes 4 (s.rd (pSER c + 0x100 + 8 * i)).toNat ++ leBytes 4 (s.rd (pSER c + 0x104 + 8 * i)).toNat).take n

/-- The header of identifier i whose break began at tick `start` (R435, R436): identifiers 0x3E and 0x3F carry no response, 0x3C and
0x3D use the classic checksum. -/
def linHeader (s : Zone) (c i : Nat) (ticket : Option TicketRef) (start bit response : Nat) : LinHeader :=
  let p := pSER c
  let act := if 0x3E ≤ i then 0 else s.fld p (LIN.RESP_ENTRY_ACTION.nth 4 i)
  let n := s.fld p (LIN.RESP_ENTRY_LENGTH.nth 4 i)
  { ident := i, ticket := ticket, start := start, startNs := s.netAt start, bit := bit, response := response, action := act, length := n,
    enhanced := i < 0x3C && s.flag p (LIN.RESP_ENTRY_ENHANCED.nth 4 i),
    bytes := if act = 1 then s.linBuffer c i n else [] }

/-- Until its response begins, a publish follows the writes of its buffer (R435). -/
def linRefresh (s : Zone) (c : Nat) : Zone :=
  match (s.lin c).cur with
  | some h =>
    if h.action = 1 ∧ s.mono < h.response then
      s.setLin c { s.lin c with cur := some { h with bytes := s.linBuffer c h.ident h.length } }
    else s
  | none => s

/-- A frame ends with a cause (R436, R438, R445): event, counter, ticket, and the entry of a failed
response; a header with ACTION none has no response. -/
def linFail (s : Zone) (c : Nat) (h : LinHeader) (cause bytes check : Nat) (data : List Byte) : Zone :=
  let p := pSER c
  let s := ((s.setLin c { s.lin c with cur := none }).event p LIN.LIN_EVENT_ERROR).count p LIN.LIN_COUNTS_ERRORS
  let kind := if h.action = 2 then 0 else if h.action = 1 then 1 else 2
  let s := if h.action = 0 then s else s.ringStore (16 + c) (linEntry cause kind bytes h.ident check h.startNs data)
  match h.ticket with
  | some r => s.completeFail r cause
  | none => s

/-- A frame ends without a cause. -/
def linOk (s : Zone) (c : Nat) (h : LinHeader) (check : Nat) (data : List Byte) : Zone :=
  let s := (s.setLin c { s.lin c with cur := none }).count (pSER c) LIN.LIN_COUNTS_FRAMES_OK
  let kind := if h.action = 2 then 0 else if h.action = 1 then 1 else 2
  let s := if h.action = 2 ∨ s.linResponder c then
      s.ringStore (16 + c) (linEntry 0 kind data.length h.ident check h.startNs data) else s
  match h.ticket with
  | some r => s.completeOk r data.length
  | none => s

/-- The bytes of a response sent or received so far: those published, or as many as LENGTH of the ones received. -/
def linDone (h : LinHeader) (l : List Byte) : List Byte := if h.action = 1 then h.bytes.take l.length else l.take h.length

/-- T_frame_max of a header in ticks: 1.4 × (34 + 10 × (LENGTH + 1)) bit times (R436). -/
def linFrameMax (h : LinHeader) : Nat := 14 * (34 + 10 * (h.length + 1)) * h.bit / 10

/-- The end of a response (R436, R437). A subscribed one that is not complete by T_frame_max ends there, not here. -/
def linEnd (s : Zone) (c : Nat) (h : LinHeader) (e : LinEnd) : Zone :=
  if h.action = 2 ∧ h.start + linFrameMax h < s.mono then s
  else match e with
    | .bitError l => s.linFail c h LinCause.bit (linDone h l).length 0 (linDone h l)
    | .framing l => s.linFail c h LinCause.framing (linDone h l).length 0 (linDone h l)
    | .complete data sum =>
      match h.action with
      | 1 => s.linOk c h (linChecksum h.enhanced (linPid h.ident) h.bytes) h.bytes
      | 2 =>
        if data.length < h.length then s
        else
          let d := data.take h.length
          if sum.toNat = linChecksum h.enhanced (linPid h.ident) d then s.linOk c h sum.toNat d
          else s.linFail c h LinCause.checksum d.length sum.toNat d
      | _ => s.linOk c h 0 []

/-- Whether a command can begin: the cause that refuses it (R436). -/
def linRefusal (s : Zone) (c : Nat) (idle : Bool) : Option Nat :=
  if !s.linOn c then some LinCause.notActive
  else if !idle || (s.lin c).cur.isSome || (s.lin c).pulse.isSome then some LinCause.busBusy else none

/-- A write of LIN_CFG: ROLE changes only while the channel is off; BREAK_BITS and DIV within their ranges (R434, R445). -/
def linCfgWrite (s : Zone) (c : Nat) (v : Word) : Zone :=
  let p := pSER c
  let old := s.rd p
  let v := if LIN.LIN_CFG_EN.get old = 1 then LIN.LIN_CFG_ROLE.put v (LIN.LIN_CFG_ROLE.get old) else v
  let b := LIN.LIN_CFG_BREAK_BITS.get v
  let v := if 13 ≤ b ∧ b ≤ 26 then v else LIN.LIN_CFG_BREAK_BITS.put v (LIN.LIN_CFG_BREAK_BITS.get old)
  let d := LIN.LIN_CFG_DIV.get v
  let v := if 12500 ≤ d ∧ d ≤ 250000 then v else LIN.LIN_CFG_DIV.put v (LIN.LIN_CFG_DIV.get old)
  s.wr p (v &&& 0xC3FFFFFF#32)

/-- How long a header of the commander lasts: the break, a delimiter of one bit, the sync field and the protected identifier of ten
bits each (R436; log entry 98). -/
def linHeaderTicks (s : Zone) (c : Nat) : Nat := (s.fld (pSER c) LIN.LIN_CFG_BREAK_BITS + 21) * s.linDiv c

/-- LIN_OP variant 0, HEADER, for identifier i. -/
def opLinHeader (s : Zone) (c : Nat) (r : TicketRef) (i : Nat) (idle : Bool) : Zone :=
  match s.linRefusal c idle with
  | some cause =>
    if cause = LinCause.busBusy ∧ s.linResponder c then s.completeFail r LinCause.role else s.completeFail r cause
  | none =>
    if s.linResponder c then s.completeFail r LinCause.role
    else if 0x3E ≤ i then s.completeFail r LinCause.idReserved
    else
      let s := (s.setFld (pSER c) LIN.LIN_STATUS_BUS_SHORT 0).setFld (pSER c) LIN.LIN_STATUS_LAST_ID i
      s.setLin c { s.lin c with cur := some (s.linHeader c i (some r) s.mono (s.linDiv c) (s.mono + s.linHeaderTicks c)) }

/-- LIN_OP variant 1, WAKEUP. -/
def opLinWakeup (s : Zone) (c : Nat) (r : TicketRef) (idle : Bool) : Zone :=
  match s.linRefusal c idle with
  | some cause => s.completeFail r cause
  | none => s.setLin c { s.lin c with pulse := some (r, s.mono) }

end Zone

/-! ### Commands -/

/-- LIN_OP variant 0, HEADER (R436); `idle` tells whether the bus is idle at the start. -/
def execLinHeader (channel : Fin 6) (keeper : Keeper) (ticket : Fin 128) (arg : Word) (idle : Bool) (st : State) : Result :=
  st.runOn fun s => s.opLinHeader channel.val (s.ticketRef keeper ticket.val) (arg.toNat % 64) idle

def execLinFrameEnd (channel : Fin 6) (result : LinEnd) (st : State) : Result := st.runOn fun s =>
  match (s.lin channel.val).cur with
  | none => s
  | some h => s.linEnd channel.val h result

/-- T_frame_max passes without a complete response; `received` are the bytes of it (R436). -/
def execLinResponseTimeout (channel : Fin 6) (received : List Byte) (st : State) : Result := st.runOn fun s =>
  let c := channel.val
  match (s.lin c).cur with
  | none => s
  | some h =>
    if h.action = 2 ∧ s.past h.start (Zone.linFrameMax h) then
      if received = [] then s.linFail c h LinCause.noResponse 0 0 []
      else s.linFail c h LinCause.incomplete (min received.length h.length) 0 (received.take h.length)
    else s

/-- The bus stays dominant for more than 40 bit times outside a break (R436). -/
def execLinBusShort (short : LinShort) (st : State) : Result := st.runOn fun s =>
  let c := short.channel.val
  if !s.linOn c then s
  else
    let s := (s.setFld (pSER c) LIN.LIN_STATUS_BUS_SHORT 1).event (pSER c) LIN.LIN_EVENT_BUS_SHORT
    match (s.lin c).cur with
    | none => s
    | some h => s.linFail c h LinCause.busShort (Zone.linDone h short.done).length 0 (Zone.linDone h short.done)

/-- LIN_OP variant 1, WAKEUP (R436). -/
def execLinWakeup (channel : Fin 6) (keeper : Keeper) (ticket : Fin 128) (idle : Bool) (st : State) : Result := st.runOn fun s =>
  s.opLinWakeup channel.val (s.ticketRef keeper ticket.val) idle

def execLinWakeupDone (channel : Fin 6) (st : State) : Result := st.runOn fun s =>
  let c := channel.val
  match (s.lin c).pulse with
  | none => s
  | some (r, t) => if s.past t Zone.ticksPerMs then (s.setLin c { s.lin c with pulse := none }).completeOk r 0 else s

/-- A header received in responder role: its identifier, its parity bits, its sync field (R434, R437). The header ends a response
that still runs, without a response where it was awaited, by a differing bus where it was sent (log entry 98). -/
def execLinHeaderReceive (channel : Fin 6) (ident : Fin 64) (parityOk : Bool) (sync : LinSync) (st : State) : Result :=
  st.runOn fun s =>
    let c := channel.val
    let d := s.linDiv c
    let near := decide (100 * sync.bitTicks ≤ 114 * d ∧ 86 * d ≤ 100 * sync.bitTicks)
    if !s.linOn c || !s.linResponder c || !parityOk || !near then s
    else
      let s := match (s.lin c).cur with
        | some h => if h.action = 2 then s.linFail c h LinCause.noResponse 0 0 [] else s.linFail c h LinCause.bit 0 0 []
        | none => s
      let s := s.setFld (pSER c) LIN.LIN_STATUS_LAST_ID ident.val
      let h := s.linHeader c ident.val none (s.mono - sync.sinceBreak) sync.bitTicks s.mono
      if h.action = 0 then s.ringStore (16 + c) (linEntry 0 2 0 h.ident 0 h.startNs [])
      else s.setLin c { s.lin c with cur := some h }

/-- A dominant pulse on an idle bus has ended after so many µs (R439). -/
def execLinWakeRx (channel : Fin 6) (micros : Nat) (st : State) : Result := st.runOn fun s =>
  let c := channel.val
  if s.linOn c && (s.lin c).cur.isNone && decide (150 ≤ micros ∧ micros ≤ 5000) then
    (s.ringStore (16 + c) (linEntry 0 3 0 0 0 (s.netAt (s.mono - micros * Zone.ticksPerUs)) [])).event (pSER c) LIN.LIN_EVENT_WAKE_RX
  else s

end Sys2Proof.Machine
end

