-- ==== Sys2Proof/Machine/Serial.lean ====
section
/-! DEFINITION. The RS-485 channels, SERIAL.6 and SERIAL.7 (R440 to R442). -/

namespace Sys2Proof.Machine

open Reg

/-! Causes of a failed SEND (R441). -/
namespace SerCause
@[reducible] def collision : Nat := 0x01
@[reducible] def busyExpired : Nat := 0x02
@[reducible] def buffer : Nat := 0x03
@[reducible] def pendingFull : Nat := 0x04
@[reducible] def notActive : Nat := 0x12
end SerCause

/-- A ring entry of R442. -/
def serEntry (cont : Bool) (parity framing ns : Nat) (data : List Byte) (seq : Nat) : List Byte :=
  leBytes 4 (seq * 65536 + b2n cont * 2 ^ 15 + data.length) ++ leBytes 4 (min 255 parity * 2 ^ 24 + min 255 framing * 2 ^ 16) ++
    leBytes 8 ns ++ padTo 256 data

namespace Zone

/-- The page of RS-485 channel n, 0 for SERIAL.6. -/
def serPage (n : Nat) : Nat := pSER (6 + n)
def ser (s : Zone) (n : Nat) : SerSt := SMap.get (fun _ => SerSt.init) s.sers n

/-- Set an RS-485 channel's state and show PENDING and DRIVING. -/
def setSer (s : Zone) (n : Nat) (x : SerSt) : Zone :=
  let s := { s with sers := SMap.set (fun _ => SerSt.init) s.sers n x }
  (s.setFld (serPage n) SER.SER_STATUS_PENDING x.pend.length).setFlag (serPage n) SER.SER_STATUS_DRIVING x.cur.isSome

def serOn (s : Zone) (n : Nat) : Bool := s.flag (serPage n) SER.SER_CFG_EN && !s.inMode [.off, .sleep]
def serDiv (s : Zone) (n : Nat) : Nat := s.fld (serPage n) SER.SER_CFG_DIV

/-- The bits of a character (R440). -/
def serBits (s : Zone) (n : Nat) : Nat :=
  let p := serPage n
  1 + (8 - s.fld p SER.SER_CFG_DATA7) + b2n (decide (s.fld p SER.SER_CFG_PARITY ≠ 0)) + (1 + s.fld p SER.SER_CFG_STOP2)

/-- Whether the line has been idle for IDLE_TX bit times (R441, R446). -/
def serLineIdle (s : Zone) (n : Nat) : Bool :=
  (s.ser n).cur.isNone && (match (s.ser n).lastAt with
    | some t => s.past t (s.fld (serPage n) SER.SER_TIMING_IDLE_TX * s.serDiv n)
    | none => true)

/-- The LENGTH and the data of a transmit buffer (R441). -/
def serBuffer (s : Zone) (n k : Nat) : Nat × List Byte × Zone :=
  let x := s.busBytes (serBufAddr n k) 4
  let len := leNat x.1 % 512
  let y := x.2.busBytes (serBufAddr n k + 0x10) (min len 256)
  (len, y.1, y.2)

/-- SER_OP variant 0, SEND (R441). -/
def serSend (s : Zone) (n k : Nat) (r : TicketRef) : Zone :=
  if !s.serOn n then s.completeFail r SerCause.notActive
  else
    let x := s.serBuffer n k
    let s := x.2.2
    if x.1 = 0 ∨ 256 < x.1 then s.completeFail r SerCause.buffer
    else if 4 ≤ (s.ser n).pend.length then s.completeFail r SerCause.pendingFull
    else s.setSer n { s.ser n with pend := (s.ser n).pend ++ [⟨x.2.1, r, s.mono⟩] }

/-- SER_OP variant 1, ABORT. -/
def serAbort (s : Zone) (n : Nat) (r : TicketRef) : Zone :=
  let x := s.ser n
  let s := (s.setSer n { x with pend := [] }).forEach x.pend fun s p => s.completeAbort p.ticket
  s.completeOk r 0

/-- Store the packet under reception as an entry (R442). -/
def serStore (s : Zone) (n : Nat) (cont : Bool) : Zone :=
  let x := s.ser n
  if x.chars = [] then s
  else (s.setSer n { x with chars := [], parity := 0, framing := 0 }).ringStore (22 + n)
    (serEntry cont x.parity x.framing x.startNs x.chars)

/-- A character read back while the driver is enabled (R441). -/
def serReadBack (s : Zone) (n : Nat) (t : SerSend) (v : Byte) (framingBad : Bool) : Zone :=
  let x := s.ser n
  if t.collided ∨ t.item.data.length ≤ t.done then s
  else
    let want := t.item.data.getD t.done 0
    let want := if s.flag (serPage n) SER.SER_CFG_DATA7 then want &&& 0x7F#8 else want
    s.setSer n { x with cur := some { t with done := t.done + 1, collided := framingBad || v != want }, lastAt := some s.mono }

/-- A received character (R442), after which the line stayed low for so many ticks. -/
def serReceive (s : Zone) (n : Nat) (v : Byte) (parityBad framingBad : Bool) (heldTicks : Nat) : Zone :=
  let p := serPage n
  let heldLow := decide (0 < heldTicks)
  let bad := framingBad || heldLow
  let s := (s.when parityBad (·.count p SER.SER_COUNTS_PARITY_ERR)).when bad (·.count p SER.SER_COUNTS_FRAMING_ERR)
  let s := s.when (parityBad || bad) (·.event p SER.SER_EVENT_RX_ERROR)
  let s := if 256 ≤ (s.ser n).chars.length then s.serStore n true else s
  let x := s.ser n
  let start := if x.chars = [] then s.netAt (s.mono - heldTicks - s.serBits n * s.serDiv n) else x.startNs
  let s := s.setSer n { x with chars := x.chars ++ [v], parity := x.parity + b2n parityBad, framing := x.framing + b2n bad,
                               startNs := start, lastAt := some s.mono }
  if heldLow then s.serStore n false else s

/-- A write of SER_CFG within its ranges (R440, R446). -/
def serCfgWrite (s : Zone) (n : Nat) (v : Word) : Zone :=
  let p := serPage n
  let old := s.rd p
  let v := if SER.SER_CFG_PARITY.get v = 3 then SER.SER_CFG_PARITY.put v (SER.SER_CFG_PARITY.get old) else v
  let d := SER.SER_CFG_DIV.get v
  let v := if 25 ≤ d ∧ d ≤ 208334 then v else SER.SER_CFG_DIV.put v (SER.SER_CFG_DIV.get old)
  s.wr p (v &&& 0xF8FFFFFF#32)

/-- A write of SER_TIMING: GAP within its range. -/
def serTimingWrite (s : Zone) (n : Nat) (v : Word) : Zone :=
  let k := serPage n + 4
  s.wr k (if SER.SER_TIMING_GAP.get v < 2 then SER.SER_TIMING_GAP.put v (SER.SER_TIMING_GAP.get (s.rd k)) else v)

end Zone

/-! ### Commands -/

def execSerSend (channel : Fin 2) (keeper : Keeper) (ticket : Fin 128) (arg : Word) (st : State) : Result :=
  st.runOn fun s => s.serSend channel.val (arg.toNat % 16) (s.ticketRef keeper ticket.val)

def execSerAbort (channel : Fin 2) (keeper : Keeper) (ticket : Fin 128) (st : State) : Result :=
  st.runOn fun s => s.serAbort channel.val (s.ticketRef keeper ticket.val)

/-- The first queued send begins: the line has been idle for IDLE_TX and no reception is in progress (R441). -/
def execSerSendStart (channel : Fin 2) (st : State) : Result := st.runOn fun s =>
  let n := channel.val
  let x := s.ser n
  match x.pend with
  | [] => s
  | p :: r =>
    if s.serOn n && s.serLineIdle n && x.chars == [] then s.setSer n { x with pend := r, cur := some ⟨p, 0, false⟩ } else s

/-- The driver is released TX_TAIL bit times after the last stop bit: the last character has been read back, or one collided
(R441). -/
def execSerSendEnd (channel : Fin 2) (st : State) : Result := st.runOn fun s =>
  let n := channel.val
  let x := s.ser n
  let p := Zone.serPage n
  match x.cur with
  | none => s
  | some t =>
    let s' := s.setSer n { x with cur := none, lastAt := some s.mono }
    if !(match x.lastAt with
         | some a => s.past a (s.fld p SER.SER_TIMING_TX_TAIL * s.serDiv n)
         | none => true) then s
    else if t.collided then
      ((s'.event p SER.SER_EVENT_COLLISION).count p SER.SER_COUNTS_COLLISIONS).completeFail t.item.ticket SerCause.collision
    else if t.item.data.length ≤ t.done then s'.completeOk t.item.ticket t.item.data.length
    else s

/-- Queued sends that have waited SER_EXPIRE for an idle line fail (R441). -/
def execSerBusyExpired (channel : Fin 2) (st : State) : Result := st.runOn fun s =>
  let n := channel.val
  let x := s.ser n
  let limit := s.fld (Zone.serPage n) SER.SER_EXPIRE_WAIT * 2500
  let out := x.pend.filter fun p => s.past p.at_ limit
  (s.setSer n { x with pend := x.pend.filter fun p => !s.past p.at_ limit }).forEach out fun s p =>
    s.completeFail p.ticket SerCause.busyExpired

/-- A character ends on the line, read back or received; `heldTicks` is how much longer than it the line has stayed low. -/
def execSerCharReceive (channel : Fin 2) (value : Byte) (parityBad framingBad : Bool) (heldTicks : Nat) (st : State) : Result :=
  st.runOn fun s =>
    let n := channel.val
    let v := if s.flag (Zone.serPage n) SER.SER_CFG_DATA7 then value &&& 0x7F#8 else value
    match (s.ser n).cur with
    | some t => s.serReadBack n t v framingBad
    | none => if s.serOn n then s.serReceive n v parityBad framingBad heldTicks else s

/-- GAP half-character times of idle end a packet (R442). -/
def execSerPacketEnd (channel : Fin 2) (st : State) : Result := st.runOn fun s =>
  let n := channel.val
  let gap := s.fld (Zone.serPage n) SER.SER_TIMING_GAP * s.serBits n * s.serDiv n / 2
  match (s.ser n).lastAt with
  | some t => if s.past t gap then s.serStore n false else s
  | none => s

end Sys2Proof.Machine
end

