-- ==== Sys2Proof/Machine/HostPorts.lean ====
section
/-! DEFINITION. The host queue pairs of ports 28 and 29 (R363 to R365, R532) and the AVTP engine's SEND and TAKE (R366,
R367). -/

namespace Sys2Proof.Machine

open Reg

/-- A ring descriptor (R364). -/
structure Desc where
  addr : Nat
  len : Nat
  flags : Nat
  tag : Nat
deriving DecidableEq, Repr

def Desc.ofBytes (l : List Byte) : Desc := ⟨leAt l 0 8, leAt l 8 2, leAt l 10 2, leAt l 12 4⟩

namespace Zone

/-- The switch port of a pair (R363). -/
def pairPort (q : Nat) : Nat := if q < 896 then 28 else 29
def pairState (s : Zone) (q : Nat) : Nat := s.fld (pPAIR q) QPR.OWNER_STATE
def pairOwner (s : Zone) (q : Nat) : Source :=
  ⟨if s.flag (pPAIR q) QPR.OWNER_WORLD then .secure else .normal, BitVec.ofNat 12 (s.fld (pPAIR q) QPR.OWNER_MOORING)⟩

/-- Whether a source holds a pair: its owner, outside a grant (R365, R519, R532). -/
def pairHeldBy (s : Zone) (q : Nat) (src : Source) : Bool :=
  decide (s.pairState q = 1 ∨ s.pairState q = 2) && src == s.pairOwner q

def pairMaster (q : Nat) : Nat := if q < 896 then Master.port28 else Master.port29

/-- Head and tail of a pair's ring; kind 0 transmit, 1 receive. -/
def ringHeadIx (s : Zone) (q kind : Nat) : Nat := SMap.get (fun _ => 0) s.switch.ringHead (q * 2 + kind)
def ringTailIx (s : Zone) (q kind : Nat) : Nat := SMap.get (fun _ => 0) s.switch.ringTail (q * 2 + kind)
def setRingHead (s : Zone) (q kind v : Nat) : Zone :=
  s.sw fun w => { w with ringHead := SMap.set (fun _ => 0) w.ringHead (q * 2 + kind) v }
def setRingTail (s : Zone) (q kind v : Nat) : Zone :=
  s.sw fun w => { w with ringTail := SMap.set (fun _ => 0) w.ringTail (q * 2 + kind) v }

def ringDepth (s : Zone) (q kind : Nat) : Nat :=
  2 ^ s.fld (pPAIR q) (if kind = 0 then QPR.RING_CFG_TX_LOG2 else QPR.RING_CFG_RX_LOG2)

/-- The address of descriptor k of a ring, in the owner's translation space. -/
def descAddr (s : Zone) (q kind k : Nat) : Nat :=
  let p := pPAIR q
  (if kind = 0 then s.fld p QPR.TX_BASE_LO_ADDR * 4096 + s.fld p QPR.TX_BASE_HI_ADDR * 2 ^ 32
   else s.fld p QPR.RX_BASE_LO_ADDR * 4096 + s.fld p QPR.RX_BASE_HI_ADDR * 2 ^ 32) + k % s.ringDepth q kind * 16

/-- The next descriptor that the module holds of a ring: handed over by a doorbell, with OWN = 1. -/
def nextDesc (s : Zone) (q kind : Nat) : Option Desc × Zone :=
  let h := s.ringHeadIx q kind
  if h % s.ringDepth q kind = s.ringTailIx q kind % s.ringDepth q kind then (none, s)
  else
    let x := s.dmaRead (pairMaster q) (s.pairOwner q) (s.descAddr q kind h) 16
    match x.1 with
    | none => (none, x.2.2)
    | some l =>
      let d := Desc.ofBytes l
      (if d.flags.testBit 15 then some d else none, x.2.2)

/-- Return the head descriptor with new LEN, FLAGS and TAG, OWN = 0. -/
def returnDesc (s : Zone) (q kind : Nat) (len flags tag : Nat) : Zone :=
  let h := s.ringHeadIx q kind
  let x := s.dmaWrite (pairMaster q) (s.pairOwner q) (s.descAddr q kind h + 8) (leBytes 2 len ++ leBytes 2 flags ++ leBytes 4 tag)
  x.2.setRingHead q kind ((h + 1) % s.ringDepth q kind)

/-! ### Transmit (R341, R363, R364) -/

/-- Whether R340 allows every lossless copy of a route to wait (R341). -/
def mayFetch (s : Zone) (i : Nat) (r : Route) : Bool :=
  let n := (r.ports.filter fun e => decide (28 ≤ e)).length
  n == 0 || s.mayWait i (n * r.copy.cells)

/-- Send a frame of an internal source into the switch at port i: none where the source stalls, else whether any copy entered.
A frame longer than the port's MAX_FRAME is discarded (R322). -/
def inject (s : Zone) (i : Nat) (f : List Byte) (tsTag : Option (BitVec 16)) : Option Bool × Zone :=
  if s.fld (pSWP i) SWP.MAX_FRAME_BYTES < Frame.len f then (some false, s.stat (statPort i PortStat.rxOversize)) else
  let s1 := (s.stat (statPort i PortStat.rxFrames)).statBy (statPort i PortStat.rxOctets) (Frame.len f)
  let x := s1.resolve i f s.stamp s.time.residence tsTag false
  match x.1 with
  | none => (some false, x.2)
  | some r =>
    if s.mayFetch i r then
      let y := x.2.dispatch i r
      (some y.1, y.2)
    else (none, s)

/-- The MAC that a pair may send from. -/
def pairMac (s : Zone) (q : Nat) : Nat := s.fld (pPAIR q) QPR.MAC_HI_MAC * 2 ^ 32 + s.fld (pPAIR q) QPR.MAC_LO_MAC

/-- Whether a frame has the pair's permitted source address and VID (R363). -/
def pairMaySend (s : Zone) (q : Nat) (f : List Byte) : Bool :=
  let vid := match (Frame.tags f).vlan with | some c => c % 4096 | none => 0
  let vid := if vid = 0 then s.fld (pSWP (pairPort q)) SWP.PORT_CFG_PVID else vid
  decide (Frame.src f = s.pairMac q ∧ vid = s.fld (pPAIR q) QPR.MAC_HI_VID)

/-- Fetch the next transmit frame of a pair. -/
def txFetch (s : Zone) (q : Nat) : Zone :=
  let p := pairPort q
  if s.pairState q ≠ 2 then s
  else
    let x := s.nextDesc q 0
    match x.1 with
    | none => x.2
    | some d =>
      let done (s : Zone) (dropped : Bool) : Zone :=
        s.returnDesc q 0 d.len (d.flags % 2 ^ 15 - d.flags / 2 ^ 10 % 2 * 2 ^ 10 + b2n dropped * 2 ^ 10) d.tag
      if d.len < 14 then done (x.2.stat (statPort p PortStat.rxUndersize)) true
      else if 9212 < d.len then done (x.2.stat (statPort p PortStat.rxOversize)) true
      else
        let y := x.2.dmaRead (pairMaster q) (s.pairOwner q) d.addr d.len
        match y.1 with
        | none => done y.2.2 true
        | some b =>
          let f := if b.length < 60 then padTo 60 b else b
          if Frame.len f ≤ s.fld (pSWP p) SWP.MAX_FRAME_BYTES ∧ s.pairMaySend q f = false then done (y.2.2.stat (statHost p 1)) true
          else
            let z := y.2.2.inject p f (if d.flags.testBit 14 then some (BitVec.ofNat 16 d.tag) else none)
            match z.1 with
            | none => z.2
            | some entered => done z.2 (!entered)

/-! ### Receive (R363, R364, R519) -/

/-- Write a frame to the next descriptor whose buffer is long enough; too short ones go back with TOO_LONG. None where the copy
waits for a descriptor. -/
def rxWrite (s : Zone) (q : Nat) (f : List Byte) (flags tag : Nat) : Nat → Option Bool × Zone
  | 0 => (none, s)
  | fuel + 1 =>
    let x := s.nextDesc q 1
    match x.1 with
    | none => (none, x.2)
    | some d =>
      if d.len < f.length then rxWrite (x.2.returnDesc q 1 0 (2 ^ 10) d.tag) q f flags tag fuel
      else
        let y := x.2.dmaWrite (pairMaster q) (s.pairOwner q) d.addr f
        (some (y.1 == Err.none), y.2.returnDesc q 1 f.length flags tag)

/-- Deliver the copy that egress side e, 28 or 29, holds. -/
def rxDeliver (s : Zone) (e : Nat) : Zone :=
  match s.egress e with
  | none => s
  | some x =>
    if x.fetched < x.copy.cells then s
    else
      let own := pairPort x.copy.queue = e
      let q := if own then x.copy.queue else if e = 28 then 0 else 896
      let mismatch (s : Zone) : Zone := if own then s else s.stat (statHost e 0)
      if s.pairState q ≠ 2 then (mismatch ((s.shape e).setEgress e none |>.settleCredit e)).count (pPAIR q) QPR.RING_CFG_DROPS
      else
        let f := s.wireOf e x.copy
        let flags := min 2 x.copy.colour * 2 ^ 8 + x.cls * 2 ^ 5 + x.ingress
        let tag := match x.copy.stream with | some n => 2 ^ 12 + n | none => 0
        let y := s.rxWrite q f flags tag (s.ringDepth q 1)
        match y.1 with
        | none => y.2
        | some ok => (mismatch (y.2.deliverTx e x)).when (!ok) (·.count (pPAIR q) QPR.RING_CFG_DROPS)

/-- A DOORBELL write (R365). -/
def doorbell (s : Zone) (port : Nat) (src : Source) (q kind tail : Nat) : Zone :=
  if pairPort q = port ∧ s.pairHeldBy q src then s.setRingTail q kind tail else s.stat (statHost port 2)

/-- A write of a pair's RING_CFG (R532). While the pair runs, only a write that clears ENABLE has an effect (log entry 48). -/
def ringCfgWrite (s : Zone) (src : Source) (q : Nat) (v : Word) : Zone :=
  let p := pPAIR q
  let reject := s.count pGRANT GRANT.GRANT_COUNTS_OWNER_REJECT
  let en := QPR.RING_CFG_ENABLE.get v = 1
  let tx := QPR.RING_CFG_TX_LOG2.get v
  let rx := QPR.RING_CFG_RX_LOG2.get v
  if !s.pairHeldBy q src then reject
  else if s.flag p QPR.RING_CFG_ENABLE then
    if en then reject else (s.setFld p QPR.RING_CFG_ENABLE 0).setFld p QPR.OWNER_STATE 1
  else if en ∧ (tx < 4 ∨ 12 < tx ∨ rx < 4 ∨ 12 < rx) then reject
  else
    let s := (s.setFld p QPR.RING_CFG_TX_LOG2 tx).setFld p QPR.RING_CFG_RX_LOG2 rx
    if en then (s.setFld p QPR.RING_CFG_ENABLE 1).setFld p QPR.OWNER_STATE 2 else s

/-! ### AVTP SEND and TAKE (R366, R367; log entry 44) -/

/-- A word of AVTP template t. -/
def tmpl (s : Zone) (t k : Nat) : Nat := s.tabWord 70 t k

/-- The ACF message of a receive entry (R367). -/
def acfMessage (brief : Bool) (bus : Nat) (e : List Byte) : List Byte :=
  let fd := leAt e 0 4 / 2 ^ 29 = 1
  let flags := leAt e 4 4
  let data := (e.drop 32).take (flags % 4096)
  let pad := (4 - data.length % 4) % 4
  let size := ((if brief then 8 else 16) + data.length + pad) / 4
  let b1 := pad * 64 + b2n (!brief) * 32 + b2n (flags.testBit 30) * 16 + b2n (flags.testBit 31) * 8 + b2n (flags.testBit 29) * 4 +
    b2n fd * 2 + b2n (flags.testBit 28)
  beBytes 2 ((if brief then 2 else 1) * 512 + size) ++ [BitVec.ofNat 8 b1, BitVec.ofNat 8 bus] ++
    (if brief then [] else beBytes 8 (leAt e 16 8)) ++ beBytes 4 (leAt e 0 4 % 2 ^ 29) ++ data ++ List.replicate pad 0

/-- The frame that template t builds around a message (R367). -/
def avtpFrame (s : Zone) (t seq : Nat) (msg : List Byte) : List Byte :=
  let w1 := s.tmpl t 1
  let w6 := s.tmpl t 6
  let addrs := beBytes 6 (w1 % 65536 * 2 ^ 32 + s.tmpl t 0) ++ beBytes 6 (s.tmpl t 3 % 65536 * 2 ^ 32 + s.tmpl t 2)
  let tag := beBytes 2 Frame.typeVlan ++ beBytes 2 (Frame.tci (w1 / 2 ^ 28 % 8) false (w1 / 65536 % 4096))
  let id := beBytes 8 (s.tmpl t 5 * 2 ^ 32 + s.tmpl t 4)
  let tv := w6.testBit 0 && w6.testBit 2
  let head :=
    if w6.testBit 0 then
      beBytes 1 0x05 ++ beBytes 1 (0x80 + b2n tv) ++ beBytes 1 seq ++ [0#8] ++ id ++
        beBytes 4 (if tv then (s.nowNs + w6 / 65536 * 1000) % 2 ^ 32 else 0) ++ beBytes 4 0 ++ beBytes 2 msg.length ++ beBytes 2 0
    else beBytes 1 0x82 ++ beBytes 2 (0x8000 + msg.length % 2048) ++ beBytes 1 seq ++ id
  let f := addrs ++ tag ++ beBytes 2 Frame.typeAvtp ++ head ++ msg
  if f.length < 60 then padTo 60 f else f

/-- The receive entry k of CAN channel c while the table holds it. -/
def tableEntry (s : Zone) (c k : Nat) : Option (List Byte) :=
  if s.ringKind c = 2 ∧ (k + 256 - s.ackPtr c % 256) % 256 < s.ringHeld c then
    some (SMap.get (fun _ => []) (s.ring c).entries k)
  else none

/-- ACF_OP variant 0, SEND (R366, R367). -/
def acfSend (s : Zone) (r : TicketRef) (arg : Nat) : Zone :=
  let t := arg / 256 % 64
  match s.tableEntry (arg / 65536 % 16) (arg % 256) with
  | none => s.completeFail r 4
  | some e =>
    if !(s.tmpl t 1).testBit 31 then s.completeFail r 5
    else if leAt e 0 4 / 2 ^ 29 = 2 then s.completeFail r 6
    else
      let seq := SMap.get (fun _ => 0) s.switch.tmplSeq t
      let w6 := s.tmpl t 6
      let x := s.inject 30 (s.avtpFrame t seq (acfMessage (w6.testBit 1) (w6 / 256 % 32) e)) none
      match x.1 with
      | none => s.completeFail r 2
      | some _ => (x.2.sw fun w => { w with tmplSeq := SMap.set (fun _ => 0) w.tmplSeq t ((seq + 1) % 256) }).completeOk r seq

/-- The DLC of a data length (ISO 11898-1). -/
def lenDlc (n : Nat) : Nat := ((List.range 16).find? fun d => decide (n ≤ dlcBytes true d)).getD 15

/-- A message as a transmit buffer holds it (R421). -/
def acfBuffer (m : AcfMsg) : List Byte :=
  let f : CanFrame :=
    { format := b2n m.fd, ide := m.ext, rtr := m.rtr && !m.fd, brs := m.brs && m.fd, esi := false, dlc := lenDlc m.data.length,
      ident := BitVec.ofNat 29 m.ident, sdt := 0, vcid := 0, sec := false, af := 0, data := m.data }
  canHeader f ++ List.replicate 16 0 ++ m.data

/-- ACF_OP variant 1, TAKE (R366). Of a buffer that does not exist the spec states no result: FAIL with a free VALUE (log
entry 2). -/
def acfTake (s : Zone) (r : TicketRef) (arg : Nat) : Zone :=
  let q := arg % 16
  let b := arg / 256 % 256
  match s.acfQueue q with
  | [] => s.completeFail r 3
  | m :: l =>
    if 63 < b then s.fresh.2.completeFail r s.fresh.1.toNat
    else
      let s := (s.busWrite (canBufAddr (arg / 65536 % 16) b) (acfBuffer m)).setAcfQueue q l
      (s.avtpDrain).completeOk r l.length

end Zone

/-! ### Commands -/

def execHostTxFetch (pair : Fin 1024) (st : State) : Result := st.runOn fun s => s.txFetch pair.val

/-- The copy at port 28 (0) or 29 (1) is written to a receive descriptor. -/
def execHostRxDeliver (port : Fin 2) (st : State) : Result := st.runOn fun s => s.rxDeliver (28 + port.val)

def execDoorbell (port : Fin 2) (src : Source) (pair : BitVec 10) (receive : Bool) (tail : BitVec 16) (st : State) : Result :=
  st.runFw fun s => s.doorbell (28 + port.val) src pair.toNat (b2n receive) tail.toNat

/-- A write of a pair's RING_CFG (R532). -/
def execQueuePairEnable (src : Source) (pair : Fin 1024) (value : Word) (st : State) : Result :=
  st.runFw fun s => s.ringCfgWrite src pair.val value

def execAcfSend (keeper : Keeper) (ticket : Fin 128) (arg : Word) (st : State) : Result :=
  st.runOn fun s => s.acfSend (s.ticketRef keeper ticket.val) arg.toNat

def execAcfTake (keeper : Keeper) (ticket : Fin 128) (arg : Word) (st : State) : Result :=
  st.runOn fun s => s.acfTake (s.ticketRef keeper ticket.val) arg.toNat

end Sys2Proof.Machine
end

