-- ==== Sys2Proof/Machine/Grants.lean ====
section
/-! DEFINITION. The grant engine (R517 to R521, R531 to R533). -/

namespace Sys2Proof.Machine

open Reg

/-- The MODE, the owner and the OPTION and DATA of the 16 argument bytes (R518). -/
def grantMode (args : List Byte) : Nat := leAt args 4 2 / 2 ^ 13
def grantOwner (args : List Byte) : Source :=
  ⟨if (leAt args 4 2).testBit 12 then .secure else .normal, BitVec.ofNat 12 (leAt args 4 2)⟩
def grantOption (args : List Byte) : Nat := leAt args 6 2
def grantTxBuffers (args : List Byte) : Nat := grantOption args / 256 % 128
def grantRxBase (args : List Byte) : Nat := leAt args 8 8

/-- Whether the arguments are in range (R518). -/
def grantArgsOk (args : List Byte) : Bool :=
  let kind := leAt args 0 2
  let ix := leAt args 2 2
  let mode := grantMode args
  let opt := grantOption args
  decide (args.length = 16 ∧ 1 ≤ kind ∧ kind ≤ 5 ∧ mode ≤ 2) && (decide (mode ≠ 2) || decide (kind = 2)) &&
    (match kind with
     | 1 => decide (ix < 1024)
     | 2 => decide (ix < 24)
     | 3 => decide (ix < 48)
     | 4 => decide (1 ≤ ix ∧ ix < 256)
     | _ => decide (ix < 64)) &&
    (decide (mode ≠ 0) ||
      match kind with
      | 1 => decide (opt < 4096 ∧ leAt args 14 2 = 0)
      | 2 => decide (grantRxBase args % 4096 = 0 ∧ opt < 2 ^ 15 ∧ opt / 2 % 128 = 0 ∧
          grantTxBuffers args ≤ (if ix < 16 then 64 else if ix < 22 then 0 else 16))
      | _ => decide (opt = 0 ∧ grantRxBase args = 0))

namespace Zone

/-- The new owner that a grant gives; none on RELEASE. -/
def newOwner (args : List Byte) : Option Source := if grantMode args = 1 then none else some (grantOwner args)

/-! ### Quiesce -/

/-- Return every descriptor of a ring that the module holds. -/
def returnAll (s : Zone) (q kind : Nat) : Zone :=
  s.forEach (List.range (s.ringDepth q kind)) fun (s : Zone) (_ : Nat) =>
    match s.nextDesc q kind with
    | (some d, s') => if kind = 0 then s'.returnDesc q 0 d.len (d.flags % 2 ^ 15 - d.flags / 2 ^ 10 % 2 * 2 ^ 10 + 2 ^ 10) d.tag
        else s'.returnDesc q 1 0 (d.flags % 2 ^ 15) d.tag
    | (none, s') => s'

/-- The quiesce begins: the old owner's window closes (R519), and queued jobs of a key slot are aborted (R602). -/
def quiesce (s : Zone) (g : GrantRun) : Zone :=
  let i := grantIndex g
  let s := { s with grant := some g }.setFld pGRANT GRANT.GRANT_STATUS_BUSY 1 |>.setFld pGRANT GRANT.GRANT_STATUS_SOURCE
    (if g.cmd.isSome then 1 else 2)
  match grantKind g with
  | 1 => s.setFld (pPAIR i) QPR.OWNER_STATE 3
  | 4 =>
    let run := s.keyring.run
    let s := { s with keyring := { s.keyring with run := none } }.endJobs (fun j => j.win == i) KeyResult.aborted
    ({ s with keyring := { s.keyring with run := run } }).showEngine
  | _ => s

/-- Whether the resource has finished its work in progress. -/
def quiesced (s : Zone) (g : GrantRun) : Bool :=
  match grantKind g with
  | 4 => match s.keyring.run with | some r => r.job.win != grantIndex g | none => true
  | 5 => (s.stream (grantIndex g)).post.isNone
  | _ => true

/-! ### Reassign and resume -/

/-- A word that shows an owner (R533). -/
def ownerWord (s : Zone) (k : Nat) (o : Option Source) : Zone :=
  s.wr k (match o with | some x => BitVec.ofNat 32 (2 ^ 31 + srcBits x) | none => 0)

def reassignPair (s : Zone) (q : Nat) (args : List Byte) : Zone :=
  let p := pPAIR q
  let o := newOwner args
  let mac := if o.isSome then beAt args 8 6 else 0
  let s := (s.returnAll q 0).returnAll q 1
  let s := (s.wr (p + QPR.OWNER_STATE.off) (match o with | some x => BitVec.ofNat 32 (2 ^ 30 + srcBits x) | none => 0)).setFld p
    QPR.MAC_LO_MAC (mac % 2 ^ 32)
  let s := (s.setFld p QPR.MAC_HI_MAC (mac / 2 ^ 32)).setFld p QPR.MAC_HI_VID (if o.isSome then grantOption args else 0)
  let s := s.forEach [0x0C, 0x10, 0x14, 0x18] fun (s : Zone) (off : Nat) => s.wr (p + off) 0
  let s := ((s.setFld p QPR.RING_CFG_ENABLE 0).setFld p QPR.RING_CFG_TX_LOG2 0).setFld p QPR.RING_CFG_RX_LOG2 0
  s.forEach [0, 1] fun (s : Zone) (kind : Nat) => (s.setRingHead q kind 0).setRingTail q kind 0

/-- A bus channel takes OWNER_KIND 1 with its owner, 0 on RELEASE, 2 on TABLE (R519). -/
def reassignBus (s : Zone) (c : Nat) (args : List Byte) : Zone :=
  let p := busPage c
  let m := grantMode args
  let src := grantOwner args
  let s := (s.setFld p (ringKindF c) (if m = 0 then 1 else if m = 1 then 0 else 2)).setFld p (ringWorldF c)
    (if m = 0 ∧ src.world = .secure then 1 else 0)
  let s := (s.setFld p (ringMooringF c) (if m = 0 then src.mooring.toNat else 0)).setFld p (ringBaseLo c)
    (if m = 0 then grantRxBase args % 2 ^ 32 else 0)
  let s := s.setFld p (ringBaseHi c) (if m = 0 then grantRxBase args / 2 ^ 32 else 0)
  let s := if c < 16 then s.setFld p CAN.RX_CFG_ENTRY_SIZE (if m = 1 then 0 else grantOption args % 2) else s
  ({ s with txBuffers := SMap.set (fun _ => 0) s.txBuffers c (if m = 0 then grantTxBuffers args else 0) }).ringEmpty c

/-- Clear a key slot for a new owner (R519); EXPIRE of an owned slot reads 1 (R594). -/
def reassignSlot (s : Zone) (n : Nat) (o : Option Source) : Zone :=
  let old := s.keySlot n
  let s := s.setKeySlot n { KeySlot.init with attr := if o.isSome then 0x00800000 else 0, owner := o }
  if old.persistent then s.setKeyring fun x => { x with dirty := true } else s

/-- The resource takes its new owner and settings. -/
def reassign (s : Zone) (g : GrantRun) : Zone :=
  let i := grantIndex g
  let o := newOwner g.args
  match grantKind g with
  | 1 => s.reassignPair i g.args
  | 2 => s.reassignBus i g.args
  | 3 => s.ownerWord (pOWNL + 4 * i) o
  | 4 => s.reassignSlot i o
  | _ =>
    let s := s.ownerWord (pOWNS + 4 * i) o
    if s.intakeRuns ∧ s.streamSource i ≠ 0 then s.takeRecord i 0x0030 s.stamp 0 g.args else s

/-- A grant ends with a result code (R521, R531). -/
def grantEnd (s : Zone) (g : GrantRun) (code : Nat) : Zone :=
  let s := (({ s with grant := none }).setFld pGRANT GRANT.GRANT_STATUS_BUSY 0).setFld pGRANT GRANT.GRANT_STATUS_SOURCE 0
  let s := s.count pGRANT (if code = 0 then GRANT.GRANT_COUNTS_DONE else GRANT.GRANT_COUNTS_TIMEOUTS)
  let s := if code = 0 then s.postValue pGRANT GRANT.GRANT_ARG_ARG (toSigned 64 (leAt g.args 0 8)) else s
  match g.cmd with
  | some seq => s.answer 0x000D seq 0 (leBytes 4 code)
  | none => s.setFld pGRANT GRANT.GRANT_STATUS_RESULT code

/-- The quiesce ends, before the 10 ms of R520 are over: reassign and resume (R519, R520). -/
def quiesceEnd (s : Zone) : Zone :=
  match s.grant with
  | none => s
  | some g => if s.quiesced g && !s.past g.start (10 * ticksPerMs) then (s.reassign g).grantEnd g 0 else s

/-- Ten milliseconds after the start, the resource stays stopped without an owner (R520). -/
def grantTimeout (s : Zone) : Zone :=
  match s.grant with
  | none => s
  | some g =>
    if !s.past g.start (10 * ticksPerMs) then s
    else
      let i := grantIndex g
      let s := match grantKind g with
        | 1 => s.wr (pPAIR i) 0
        | 2 => (s.setFld (busPage i) (ringKindF i) 0).ringEmpty i
        | 3 => s.ownerWord (pOWNL + 4 * i) none
        | 4 => s.setKeySlot i { s.keySlot i with owner := none }
        | _ => s.ownerWord (pOWNS + 4 * i) none
      s.grantEnd g 0x51

/-- A write of 1 to GRANT_START by secure-world firmware (R518, R521, R531). -/
def fwGrantStart (s : Zone) : Zone :=
  let args := s.pageBytes pGRANT 0 16
  if s.grant.isSome then s.setFld pGRANT GRANT.GRANT_STATUS_RESULT 0x50
  else if !grantArgsOk args then s.setFld pGRANT GRANT.GRANT_STATUS_RESULT 9
  else s.quiesce ⟨args, none, s.mono⟩

/-- Secure-world firmware writes GRANT_ARG with a MODE, then GRANT_START. -/
def fwGrant (s : Zone) (src : Source) (args : List Byte) (mode : Nat) : Zone :=
  if src.world = .secure then
    let a := padTo 16 args
    let a := a.set 5 (BitVec.ofNat 8 (leAt a 5 1 % 32 + mode * 32))
    (s.setPageBytes pGRANT 0 a).fwGrantStart
  else s.refuse_ 12 src true (0x1F0000000 + pGRANT + 0x10)

end Zone

def execFwGrant (src : Source) (args : List Byte) (st : State) : Result := st.runFw fun s => s.fwGrant src args 0
def execFwRelease (src : Source) (args : List Byte) (st : State) : Result := st.runFw fun s => s.fwGrant src args 1
def execFwTableGrant (src : Source) (args : List Byte) (st : State) : Result := st.runFw fun s => s.fwGrant src args 2
def execGrantQuiesceEnd (st : State) : Result := st.runOn Zone.quiesceEnd
def execGrantTimeout (st : State) : Result := st.runOn Zone.grantTimeout

end Sys2Proof.Machine
end

