-- ==== Sys2Proof/Machine/Secure.lean ====
section
/-! DEFINITION. The secure watchdog and the secure-world reset (R522 to R525). -/

namespace Sys2Proof.Machine

open Reg

/-! SECURE_STATE (R529). -/
namespace SecState
@[reducible] def absent : Nat := 0
@[reducible] def ready : Nat := 1
@[reducible] def resetting : Nat := 2
@[reducible] def failed : Nat := 3
end SecState

namespace Zone

def secState (s : Zone) : Nat := s.fld pTU TU.SECURE_STATE_STATE

/-- A secure-world reset, in the order of R523. -/
def secureReset (s : Zone) : Zone :=
  let s := ((s.setFld pTU TU.SECURE_STATE_STATE SecState.resetting).count pTU TU.SECURE_COUNTS_RESETS).post pTU
    TU.SECURE_COUNTS_RESETS
  let s := s.report Src.secureReset 0
  let s := s.forEach (List.range 8) fun (s : Zone) (h : Nat) =>
    if (s.hart h).runs = .secure then s.setHart h { s.hart h with atBoot := true } else s
  let s := s.endJobs (fun j => j.src.world == .secure) KeyResult.serviceAbsent
  let s := if s.fld (pHINGE 1) HINGE.COPY_STATUS_STATE = 1 ∧ s.flag (pHINGE 1) HINGE.COPY_STATUS_WORLD then
    s.copyEnd 4 0 else s
  { s.setFld (pZONE 5) ZONE5.HOLD_HOLD 0x1200 with swdt := ⟨false, s.mono, some s.mono⟩ }

/-- A write of SWDT_KICK. -/
def swdtKick (s : Zone) (src : Source) : Zone :=
  if src.world = .secure then { s with swdt := { s.swdt with kickAt := s.mono } } else s

/-- A write of SECURE_READY; after FAILED nothing restores the secure world until START (R525). -/
def secureReady (s : Zone) (src : Source) : Zone :=
  if src.world = .secure ∧ s.secState ≠ SecState.failed then
    { (s.setFld pTU TU.SECURE_STATE_STATE SecState.ready).setFld pTU TU.SECURE_STATE_FAILS 0 with swdt := ⟨true, s.mono, none⟩ }
  else s

/-- TIMEOUT ms without a kick (R522). -/
def swdtExpiry (s : Zone) : Zone :=
  if s.swdt.armed && s.past s.swdt.kickAt (s.fld pTU TU.SWDT_CFG_TIMEOUT * ticksPerMs) then s.secureReset else s

/-- Two seconds after a reset without SECURE_READY (R525). -/
def readyTimeout (s : Zone) : Zone :=
  match s.swdt.resetAt with
  | none => s
  | some t =>
    if !s.past t (2000 * ticksPerMs) then s
    else
      let n := s.fld pTU TU.SECURE_STATE_FAILS + 1
      let s := s.setFld pTU TU.SECURE_STATE_FAILS n
      if n < 3 then s.secureReset
      else { (s.setFld pTU TU.SECURE_STATE_STATE SecState.failed).report Src.secureFailed 0 with swdt := ⟨false, s.mono, none⟩ }

/-- An ECALL of application hart h from a lower mode while the secure world is away: the ROM stub returns SERVICE_ABSENT in a0
and 0 in a1, and counts the call (R524). -/
def ecallAbsent (s : Zone) (h : Nat) : Zone :=
  if s.secureAway ∧ (s.hart h).runs = .normal then
    (s.setHart h { s.hart h with x := SMap.set (fun _ => 0) (SMap.set (fun _ => 0) (s.hart h).x 10 0xFFFFFFFFFFFFFFA5) 11 0 }).count pTU TU.SECURE_COUNTS_ABSENT_CALLS
  else s

end Zone

def execSwdtKick (src : Source) (st : State) : Result := st.runFw fun s => s.swdtKick src
def execSecureReady (src : Source) (st : State) : Result := st.runFw fun s => s.secureReady src
def execSwdtExpiry (st : State) : Result := st.runOn Zone.swdtExpiry
def execSecureReadyTimeout (st : State) : Result := st.runOn Zone.readyTimeout
def execEcallAbsent (hart : Fin 8) (st : State) : Result := st.runFw fun s => s.ecallAbsent hart.val

end Sys2Proof.Machine
end

