-- ==== Sys2Proof/Machine/Flags.lean ====
section
/-! DEFINITION. The flags of a keeper (R104, R125, R126): the condition codes, and Z, N, C and V after each kind of result. -/

namespace Sys2Proof.Machine

/-- The flags Z, N, C and V of a keeper (R104). -/
structure TFlags where
  z : Bool
  n : Bool
  c : Bool
  v : Bool
deriving DecidableEq, Repr

/-- A result with the flags that go with it (R126). -/
structure TResult where
  value : Word
  flags : TFlags
deriving DecidableEq, Repr

/-- The value of a word read as signed. -/
def sval (w : Word) : Int := w.toInt

/-- Whether an integer lies outside the signed range of 32 bits. -/
def beyondSigned (i : Int) : Bool := decide (i < -2147483648 ∨ 2147483647 < i)

/-- A result whose Z and N follow its value (R126). -/
def resultOf (r : Word) (c v : Bool) : TResult := ⟨r, ⟨decide (r = 0#32), r.msb, c, v⟩⟩

/-- ADD and ADDI (R126, R127). -/
def addResult (a b : Word) : TResult :=
  resultOf (a + b) (decide (4294967295 < a.toNat + b.toNat)) (beyondSigned (sval a + sval b))

/-- SUB, CMP and CMPI (R126, R127, R132). -/
def subResult (a b : Word) : TResult := resultOf (a - b) (decide (b.toNat ≤ a.toNat)) (beyondSigned (sval a - sval b))

/-- AND, OR, XOR, their immediate forms and TST, MULH, MIN and MAX: C and V are 0 (R126). -/
def plainResult (r : Word) : TResult := resultOf r false false

/-- SHL: the last bit shifted out is C, 0 for an amount of 0 (R126, R128). -/
def shlResult (a : Word) (n : Nat) : TResult := resultOf (a <<< n) (decide (0 < n) && a.getLsbD (32 - n)) false

/-- SHR (R126, R128). -/
def shrResult (a : Word) (n : Nat) : TResult := resultOf (a >>> n) (decide (0 < n) && a.getLsbD (n - 1)) false

/-- SRA (R126, R128). -/
def sraResult (a : Word) (n : Nat) : TResult := resultOf (a.sshiftRight n) (decide (0 < n) && a.getLsbD (n - 1)) false

/-- MUL: V when the full product does not fit 32 bits, in the signed or the unsigned view (R126, R127). -/
def mulResult (a b : Word) (u : Bool) : TResult :=
  resultOf (a * b) false (if u then decide (4294967295 < a.toNat * b.toNat) else beyondSigned (sval a * sval b))

/-- MULH: the high 32 bits of the 64-bit product (R127). -/
def mulhResult (a b : Word) (u : Bool) : TResult :=
  plainResult (if u then BitVec.ofNat 32 (a.toNat * b.toNat / 4294967296) else BitVec.ofInt 32 (sval a * sval b / 4294967296))

/-- Whether `a` is below `b` in the signed or the unsigned view. -/
def below (a b : Word) (u : Bool) : Bool := if u then decide (a.toNat < b.toNat) else decide (sval a < sval b)

/-- MIN and MAX (R127). -/
def minResult (a b : Word) (u : Bool) : TResult := plainResult (if below b a u then b else a)
def maxResult (a b : Word) (u : Bool) : TResult := plainResult (if below a b u then b else a)

/-- The bounds of SAT for w = k + 1 (R129). -/
def satLow (k : Nat) (u : Bool) : Int := if u then 0 else -(2 ^ k : Nat)
def satHigh (k : Nat) (u : Bool) : Int := if u then (2 ^ (k + 1) : Nat) - 1 else (2 ^ k : Nat) - 1

/-- SAT: Ws clamped to k + 1 bits; V when it was clamped (R126, R129). -/
def satResult (a : Word) (k : Nat) (u : Bool) : TResult :=
  let r := min (satHigh k u) (max (satLow k u) (sval a))
  resultOf (BitVec.ofInt 32 r) false (decide (r ≠ sval a))

/-- Whether condition code cc holds (R125). -/
def TFlags.holds (f : TFlags) (cc : Nat) : Bool :=
  match cc with
  | 0 => f.z
  | 1 => !f.z
  | 2 => f.c
  | 3 => !f.c
  | 4 => f.n
  | 5 => !f.n
  | 6 => f.v
  | 7 => !f.v
  | 8 => f.c && !f.z
  | 9 => !f.c || f.z
  | 10 => f.n == f.v
  | 11 => f.n != f.v
  | 12 => !f.z && f.n == f.v
  | 13 => f.z || f.n != f.v
  | 14 => true
  | _ => false

end Sys2Proof.Machine
end

