-- ==== Sys2Proof/Machine/Operands.lean ====
section
/-! DEFINITION. The words of the Tamva instruction set (R112, R123, R124, R166): their fields, which words are legal, which pages
they may name, what they cost (R163), and the instruction that a legal word stands for. -/

namespace Sys2Proof.Machine

/-! ### Fields (R123) -/

/-- Bits [lo + n − 1:lo] of an instruction word. -/
def tBits (w : Word) (lo n : Nat) : Nat := w.toNat / 2 ^ lo % 2 ^ n

def tOp (w : Word) : Nat := tBits w 26 6
def tWD (w : Word) : Fin 16 := Fin.ofNat 16 (tBits w 22 4)
def tWS (w : Word) : Fin 16 := Fin.ofNat 16 (tBits w 18 4)
def tWT (w : Word) : Fin 16 := Fin.ofNat 16 (tBits w 14 4)
def tCaddr (w : Word) : BitVec 14 := BitVec.ofNat 14 (tBits w 0 14)
def tPage (w : Word) : PageArg := ⟨BitVec.ofNat 4 (tBits w 14 4), BitVec.ofNat 8 (tBits w 6 8)⟩
def tWord (w : Word) : BitVec 6 := BitVec.ofNat 6 (tBits w 0 6)

/-! ### Legal words (R124, R130, R166) -/

/-- The options of a format A word other than CMP and TST: I only in shifts and SAT, which requires it, K and WT zero where they
are not used, U only where it is allowed (R130). -/
def formatA (w : Word) (shift sat unsigned : Bool) : Bool :=
  let i := decide (tBits w 11 1 = 1)
  decide (tBits w 5 6 = 0) && (!i || shift || sat) && (!sat || i) && (i || decide (tBits w 0 5 = 0)) &&
    (!i || decide (tBits w 14 4 = 0)) && (unsigned || decide (tBits w 12 1 = 0))

/-- Whether a word meets the items of R166 that concern its encoding alone: opcode, reserved bits, options, condition code, skip
count other than one that passes over END, chart, channel-mode, index, COP, ticket, queue and event forms. -/
def encodingOk (w : Word) : Bool :=
  let z (lo n : Nat) : Bool := decide (tBits w lo n = 0)
  match tOp w with
  | 0x01 | 0x02 | 0x03 | 0x04 | 0x05 => formatA w false false false
  | 0x06 | 0x07 | 0x08 => formatA w true false false
  | 0x09 | 0x0A | 0x0B | 0x0C => formatA w false false true
  | 0x0D => formatA w false true true
  | 0x18 | 0x19 => z 22 4 && z 0 14
  | 0x10 | 0x11 | 0x12 | 0x13 => z 16 1
  | 0x14 => z 16 1 && z 17 1 && z 18 4
  | 0x15 => z 16 1 && z 17 1 && z 22 4
  | 0x1A => !decide (tBits w 22 4 = 15) && z 4 18 && !z 0 4
  | 0x20 | 0x21 => z 14 8
  | 0x22 | 0x23 => z 14 4
  | 0x24 | 0x34 | 0x35 | 0x36 | 0x3E | 0x3F => z 0 22
  | 0x28 => z 18 4
  | 0x29 => decide (tBits w 18 4 ≤ 3)
  | 0x2A => !z 22 4
  | 0x2D | 0x2E => z 0 6
  | 0x2B => z 22 4 && z 7 10 && (if tBits w 17 1 = 1 then z 18 4 else z 0 7)
  | 0x2C => z 7 10 && (if tBits w 17 1 = 1 then z 18 4 else z 0 7)
  | 0x30 | 0x31 => z 8 14
  | 0x32 => z 9 13
  | 0x38 | 0x39 => z 16 6 && !z 0 16
  | _ => false

/-- Whether a page is closed to keeper writes: the keepers' own pages and those of the key and life-cycle banks (R166). -/
def protectedPage (g : PageArg) : Bool :=
  (g.bank == 0 && decide (g.channel.toNat ≤ 2)) || g.bank == 11 || g.bank == 15

/-- Whether R25 lists a page as populated. -/
def populated (g : PageArg) : Bool := (pageKind g.bank.toNat g.channel.toNat).isSome

/-- Whether an instruction that reads, or that writes, may name a page: the Channel page and Protected pages items of R166. -/
def pageAllowed (g : PageArg) (write : Bool) : Bool := populated g && !(write && protectedPage g)

/-- The Channel page and Protected pages items of R166 for a word. -/
def pageOk (w : Word) : Bool :=
  match tOp w with
  | 0x28 | 0x2D => pageAllowed (tPage w) false
  | 0x29 | 0x2A | 0x2E => pageAllowed (tPage w) true
  | _ => true

/-! ### Costs (R163) -/

/-- The cycles of an instruction by its opcode. -/
def tCycles (op : Nat) : Nat :=
  match op with
  | 0x09 | 0x0A => 3
  | 0x20 | 0x21 => 2
  | 0x22 | 0x23 => 3
  | 0x24 => 4
  | 0x28 => 6
  | 0x29 => 2
  | 0x2A => 4
  | 0x2B => 2
  | 0x2C => 3
  | 0x2D => 48
  | 0x2E => 4
  | 0x30 => 6
  | 0x31 => 4
  | 0x32 => 3
  | 0x38 | 0x39 => 4
  | _ => 1

def isEnd (w : Word) : Bool := tOp w == 0x3F
def isSkip (w : Word) : Bool := tOp w == 0x1A
def skipAlways (w : Word) : Bool := isSkip w && tBits w 22 4 == 14

/-- The words that an instruction enters into mirror groups at most (R195, R196). -/
def mirrorCost (w : Word) : Nat :=
  if tOp w = 0x23 ∨ (tOp w = 0x21 ∧ 0x3800 ≤ tBits w 0 14) then 1 else 0

/-! ### The instruction of a word -/

def tAmount (w : Word) : Amount := if tBits w 11 1 = 1 then .imm (Fin.ofNat 32 (tBits w 0 5)) else .reg (tWT w)
def tTicket (w : Word) : TicketArg := if tBits w 17 1 = 1 then .imm (Fin.ofNat 128 (tBits w 0 7)) else .reg (tWS w)

/-- The instruction that a legal word stands for in keeper k; `arrives` tells for a CRDX whether its word arrives in time (R143). -/
def tDecode (k : Keeper) (arrives : Bool) (w : Word) : Option Instr :=
  let d := tWD w
  let a := tWS w
  let b := tWT w
  let fA := decide (tBits w 13 1 = 1)
  let u := decide (tBits w 12 1 = 1)
  let fB := decide (tBits w 17 1 = 1)
  let imm := BitVec.ofNat 16 (tBits w 0 16)
  let q := Fin.ofNat 256 (tBits w 0 8)
  if !encodingOk w then none
  else match tOp w with
  | 0x01 => some (.opAdd k d a b fA)
  | 0x02 => some (.opSub k d a b fA)
  | 0x03 => some (.opAnd k d a b fA)
  | 0x04 => some (.opOr k d a b fA)
  | 0x05 => some (.opXor k d a b fA)
  | 0x06 => some (.opShl k d a (tAmount w) fA)
  | 0x07 => some (.opShr k d a (tAmount w) fA)
  | 0x08 => some (.opSra k d a (tAmount w) fA)
  | 0x09 => some (.opMul k d a b fA u)
  | 0x0A => some (.opMulh k d a b fA u)
  | 0x0B => some (.opMin k d a b fA u)
  | 0x0C => some (.opMax k d a b fA u)
  | 0x0D => some (.opSat k d a (Fin.ofNat 32 (tBits w 0 5)) fA u)
  | 0x10 => some (.opAddi k d a fB imm)
  | 0x11 => some (.opAndi k d a fB imm)
  | 0x12 => some (.opOri k d a fB imm)
  | 0x13 => some (.opXori k d a fB imm)
  | 0x14 => some (.opLui k d imm)
  | 0x15 => some (.opCmpi k a imm)
  | 0x18 => some (.opCmp k a b)
  | 0x19 => some (.opTst k a b)
  | 0x1A => some (.opSkip k (Fin.ofNat 15 (tBits w 22 4)) (Fin.ofNat 15 (tBits w 0 4 - 1)))
  | 0x20 => some (.opLdc k d (tCaddr w))
  | 0x21 => some (.opStc k d (tCaddr w))
  | 0x22 => some (.opLdcx k d a (tCaddr w))
  | 0x23 => some (.opStcx k d a (tCaddr w))
  | 0x24 => some (.opMirr k d)
  | 0x28 => some (.opCrd k d (tPage w) (tWord w))
  | 0x29 => some (match tBits w 18 4 with
      | 0 => .opCwr k d (tPage w) (tWord w)
      | 1 => .opCwrSet k d (tPage w) (tWord w)
      | 2 => .opCwrClr k d (tPage w) (tWord w)
      | _ => .opCwrTgl k d (tPage w) (tWord w))
  | 0x2A => some (.opCop k d (BitVec.ofNat 4 (tBits w 18 4)) (tPage w) (tWord w))
  | 0x2B => some (.opChkt k (tTicket w))
  | 0x2C => some (.opTkr k d (tTicket w))
  | 0x2D => some (.opCrdx k d a (tPage w) arrives)
  | 0x2E => some (.opCwrx k d a (tPage w))
  | 0x30 => some (.opQpop k d q)
  | 0x31 => some (.opQpush k d q)
  | 0x32 => some (.opQlen k d (decide (tBits w 8 1 = 1)) q)
  | 0x34 => some (.opTnow k d)
  | 0x35 => some (.opTsec k d)
  | 0x36 => some (.opTslot k d)
  | 0x38 => some (.opEvt k d imm)
  | 0x39 => some (.opFlt k d imm)
  | 0x3E => some (.opNop k)
  | 0x3F => some (.opEnd k)
  | _ => none

/-! ### The word of an instruction (R123, R124) -/

/-- A word of its opcode, the fields at bits 22, 18 and 14, and what lies below or across them. -/
def tFields (op : Nat) (d a b : Fin 16) (low : Nat) : Word :=
  BitVec.ofNat 32 (op * 2 ^ 26 + d.val * 2 ^ 22 + a.val * 2 ^ 18 + b.val * 2 ^ 14 + low)

def optF (f : Bool) : Nat := b2n f * 2 ^ 13
def optU (u : Bool) : Nat := b2n u * 2 ^ 12

/-- The channel operand of R112 in bits [17:0]. -/
def tOperand (g : PageArg) (n : BitVec 6) : Nat := g.bank.toNat * 2 ^ 14 + g.channel.toNat * 2 ^ 6 + n.toNat

/-- The word of a Tamva instruction, written from the formats of R123; none for the other commands, for a COP into W0 and for an
event code 0, which R166 does not admit. -/
def tEncode (c : Instr) : Option Word :=
  match c with
  | .opAdd _ d a b f => some (tFields 0x01 d a b (optF f))
  | .opSub _ d a b f => some (tFields 0x02 d a b (optF f))
  | .opAnd _ d a b f => some (tFields 0x03 d a b (optF f))
  | .opOr _ d a b f => some (tFields 0x04 d a b (optF f))
  | .opXor _ d a b f => some (tFields 0x05 d a b (optF f))
  | .opShl _ d a (.reg b) f => some (tFields 0x06 d a b (optF f))
  | .opShl _ d a (.imm k) f => some (tFields 0x06 d a 0 (optF f + 2048 + k.val))
  | .opShr _ d a (.reg b) f => some (tFields 0x07 d a b (optF f))
  | .opShr _ d a (.imm k) f => some (tFields 0x07 d a 0 (optF f + 2048 + k.val))
  | .opSra _ d a (.reg b) f => some (tFields 0x08 d a b (optF f))
  | .opSra _ d a (.imm k) f => some (tFields 0x08 d a 0 (optF f + 2048 + k.val))
  | .opMul _ d a b f u => some (tFields 0x09 d a b (optF f + optU u))
  | .opMulh _ d a b f u => some (tFields 0x0A d a b (optF f + optU u))
  | .opMin _ d a b f u => some (tFields 0x0B d a b (optF f + optU u))
  | .opMax _ d a b f u => some (tFields 0x0C d a b (optF f + optU u))
  | .opSat _ d a k f u => some (tFields 0x0D d a 0 (optF f + optU u + 2048 + k.val))
  | .opAddi _ d a f imm => some (tFields 0x10 d a 0 (b2n f * 2 ^ 17 + imm.toNat))
  | .opAndi _ d a f imm => some (tFields 0x11 d a 0 (b2n f * 2 ^ 17 + imm.toNat))
  | .opOri _ d a f imm => some (tFields 0x12 d a 0 (b2n f * 2 ^ 17 + imm.toNat))
  | .opXori _ d a f imm => some (tFields 0x13 d a 0 (b2n f * 2 ^ 17 + imm.toNat))
  | .opLui _ d imm => some (tFields 0x14 d 0 0 imm.toNat)
  | .opCmpi _ a imm => some (tFields 0x15 0 a 0 imm.toNat)
  | .opCmp _ a b => some (tFields 0x18 0 a b 0)
  | .opTst _ a b => some (tFields 0x19 0 a b 0)
  | .opSkip _ cc n => some (tFields 0x1A cc.castSucc 0 0 (n.val + 1))
  | .opLdc _ w c => some (tFields 0x20 w 0 0 c.toNat)
  | .opStc _ w c => some (tFields 0x21 w 0 0 c.toNat)
  | .opLdcx _ w x c => some (tFields 0x22 w x 0 c.toNat)
  | .opStcx _ w x c => some (tFields 0x23 w x 0 c.toNat)
  | .opMirr _ d => some (tFields 0x24 d 0 0 0)
  | .opCrd _ w g n => some (tFields 0x28 w 0 0 (tOperand g n))
  | .opCwr _ w g n => some (tFields 0x29 w 0 0 (tOperand g n))
  | .opCwrSet _ w g n => some (tFields 0x29 w 1 0 (tOperand g n))
  | .opCwrClr _ w g n => some (tFields 0x29 w 2 0 (tOperand g n))
  | .opCwrTgl _ w g n => some (tFields 0x29 w 3 0 (tOperand g n))
  | .opCop _ d v g n => if d = 0 then none else some (tFields 0x2A d (Fin.ofNat 16 v.toNat) 0 (tOperand g n))
  | .opChkt _ (.reg a) => some (tFields 0x2B 0 a 0 0)
  | .opChkt _ (.imm t) => some (tFields 0x2B 0 0 0 (2 ^ 17 + t.val))
  | .opTkr _ d (.reg a) => some (tFields 0x2C d a 0 0)
  | .opTkr _ d (.imm t) => some (tFields 0x2C d 0 0 (2 ^ 17 + t.val))
  | .opCrdx _ w x g _ => some (tFields 0x2D w x 0 (tOperand g 0))
  | .opCwrx _ w x g => some (tFields 0x2E w x 0 (tOperand g 0))
  | .opQpop _ w q => some (tFields 0x30 w 0 0 q.val)
  | .opQpush _ w q => some (tFields 0x31 w 0 0 q.val)
  | .opQlen _ w e q => some (tFields 0x32 w 0 0 (b2n e * 256 + q.val))
  | .opTnow _ d => some (tFields 0x34 d 0 0 0)
  | .opTsec _ d => some (tFields 0x35 d 0 0 0)
  | .opTslot _ d => some (tFields 0x36 d 0 0 0)
  | .opEvt _ a c => if c = 0 then none else some (tFields 0x38 a 0 0 c.toNat)
  | .opFlt _ a c => if c = 0 then none else some (tFields 0x39 a 0 0 c.toNat)
  | .opNop _ => some (tFields 0x3E 0 0 0 0)
  | .opEnd _ => some (tFields 0x3F 0 0 0 0)
  | _ => none

end Sys2Proof.Machine
end

