-- ==== Sys2Proof/Machine/Tables.lean ====
section
/-! DEFINITION. Table images (R185 to R194), the loader's computation of times and its checks (R195 to R198), table memory and the
begin of a table (R183, R184), the verdicts on a LOAD_TABLE (R229 to R231). -/

namespace Sys2Proof.Machine

open Reg

/-! ### The image -/

/-- A word of an image at byte offset o. -/
def imWord (l : List Byte) (o : Nat) : Nat := leAt l o 4

/-- Offset and size of section k, 0 CODE to 6 QUEUES, as the directory gives them (R186). -/
def imOff (l : List Byte) (k : Nat) : Nat := imWord l (0x30 + 8 * k)
def imSize (l : List Byte) (k : Nat) : Nat := imWord l (0x34 + 8 * k)

def imVersion (l : List Byte) : Nat := imWord l 0x10
def imRoundSlots (l : List Byte) : Nat := imWord l 0x14
def imMode (l : List Byte) : Nat := leAt l 0x18 1
def imKind (l : List Byte) : Nat := leAt l 0x19 1
def imSteps (l : List Byte) : Nat := leAt l 0x1A 2
def imQueues (l : List Byte) : Nat := leAt l 0x1C 2
def imRanges (l : List Byte) : Nat := leAt l 0x1E 2
def imPlacements (l : List Byte) : Nat := imWord l 0x20
def imCodeWords (l : List Byte) : Nat := imWord l 0x24
def imRecords (l : List Byte) : Nat := imWord l 0x28

/-- A number rounded up to a multiple of 8. -/
def up8 (n : Nat) : Nat := (n + 7) / 8 * 8

/-- Whether n bytes from offset o are zero. -/
def imZero (l : List Byte) (o n : Nat) : Bool := ((l.drop o).take n).all fun b => b == 0

/-- Instruction word i. -/
def imCode (l : List Byte) (i : Nat) : Word := BitVec.ofNat 32 (imWord l (imOff l 0 + 4 * i))

/-- The fields of the descriptor of step n (R188). -/
def imStart (l : List Byte) (n : Nat) : Nat := imWord l (imOff l 1 + 16 * n)
def imLength (l : List Byte) (n : Nat) : Nat := leAt l (imOff l 1 + 16 * n + 4) 1
def imPeriod (l : List Byte) (n : Nat) : Nat := leAt l (imOff l 1 + 16 * n + 5) 1
def imPhase (l : List Byte) (n : Nat) : Nat := leAt l (imOff l 1 + 16 * n + 6) 1
def imWcet (l : List Byte) (n : Nat) : Nat := leAt l (imOff l 1 + 16 * n + 8) 2
def imMirror (l : List Byte) (n : Nat) : Nat := leAt l (imOff l 1 + 16 * n + 10) 1
def imMask (l : List Byte) (n : Nat) : Nat := leAt l (imOff l 2 + 8 * n) 8

/-- The words of step n. -/
def imWords (l : List Byte) (n : Nat) : List Word := (List.range (imLength l n)).map fun i => imCode l (imStart l n + i)

/-- Slot and step of placement k (R190). -/
def imSlot (l : List Byte) (k : Nat) : Nat := imWord l (imOff l 3 + 8 * k)
def imStep (l : List Byte) (k : Nat) : Nat := leAt l (imOff l 3 + 8 * k + 4) 2
def imMap (l : List Byte) : List (Nat × Nat) := (List.range (imPlacements l)).map fun k => (imSlot l k, imStep l k)

/-- Mirror range k (R191). -/
def imRange (l : List Byte) (k : Nat) : MirrorRange :=
  let o := imOff l 4 + 8 * k
  ⟨leAt l o 2, leAt l (o + 2) 2, decide (leAt l (o + 4) 1 % 2 = 1)⟩

/-- The offset, first address and count of each of n chart records from offset o (R192). -/
def imChart (l : List Byte) : Nat → Nat → List (Nat × Nat × Nat)
  | 0, _ => []
  | n + 1, o => (o, leAt l o 2, leAt l (o + 2) 2) :: imChart l n (o + 4 + 4 * leAt l (o + 2) 2)

/-- Queue declaration k (R193). -/
def imQueue (l : List Byte) (k : Nat) : QDecl :=
  let o := imOff l 6 + 8 * k
  let owner := leAt l (o + 2) 2
  ⟨decide (leAt l o 1 = 1), leAt l (o + 1) 1,
   ⟨if owner / 4096 % 2 = 1 then .secure else .normal, BitVec.ofNat 12 owner, leAt l (o + 4) 2⟩⟩

/-- The round mask of a period code and a phase (R170). -/
def roundMask (p phase : Nat) : Nat :=
  (List.range 64).foldl (fun w r => if r % 2 ^ p = phase then w + 2 ^ r else w) 0

/-- The internal form of an image (R183). -/
def tableOf (l : List Byte) : Table :=
  { id := BitVec.ofNat 32 (imWord l 0x0C), version := BitVec.ofNat 32 (imVersion l), kind := imKind l, mode := imMode l,
    roundSlots := imRoundSlots l, code := (List.range (imCodeWords l)).map (imCode l),
    steps := (List.range (imSteps l)).map fun n => ⟨imStart l n, imLength l n, BitVec.ofNat 64 (imMask l n)⟩,
    slotMap := imMap l, mirror := (List.range (imRanges l)).map (imRange l),
    init := (imChart l (imRecords l) (imOff l 5)).map fun r =>
      (r.2.1, (List.range r.2.2).map fun i => BitVec.ofNat 32 (imWord l (r.1 + 4 + 4 * i))),
    queues := (List.range (imQueues l)).map (imQueue l) }

/-- The words of step n of a table. -/
def Table.words (t : Table) (n : Nat) : List Word :=
  match t.steps[n]? with
  | some d => (t.code.drop d.start).take d.length
  | none => []

/-- The load outputs whose pages a table names in any CWR, CWRX or COP (R656). -/
def Table.loads (t : Table) : List Nat :=
  let words : List Word := (List.range t.steps.length).flatMap t.words
  (List.range 48).filter fun n => words.any fun w =>
    (tOp w == 0x29 || tOp w == 0x2A || tOp w == 0x2E) && (tPage w).bank == 1 && decide ((tPage w).channel.toNat = n)

/-! ### Worst-case time and mirror count (R195) -/

/-- w(i) and m(i) of each instruction of a step. -/
def worst : List Word → List (Nat × Nat)
  | [] => []
  | x :: r =>
    let t := worst r
    let next := t.headD (0, 0)
    let far := t.getD (tBits x 0 4) (0, 0)
    let c := tCycles (tOp x)
    (if isEnd x then (c, 0)
     else if skipAlways x then (c + far.1, far.2)
     else if isSkip x then (c + max next.1 far.1, max next.2 far.2)
     else (c + next.1, mirrorCost x + next.2)) :: t

/-- WCET and MIRROR_WORDS of a step. -/
def stepWorst (l : List Word) : Nat × Nat := (worst l).headD (0, 0)

/-! ### The loader's checks (R198): each answers the detail with which it rejects -/

/-- 1 FORMAT. -/
def checkFormat (l : List Byte) : Bool := decide (imWord l 0 = 0x41564D54 ∧ leAt l 4 2 = 1 ∧ leAt l 6 2 = 0x80)

/-- 2 SIZE. -/
def checkSize (l : List Byte) : Bool :=
  decide (imWord l 8 = l.length ∧ 256 ≤ l.length ∧ l.length ≤ 524288 ∧ l.length % 8 = 0)

/-- The signature block (R194). -/
def sigBlock (l : List Byte) : List Byte := l.drop (l.length - 128)

/-- 3 SIG_FORMAT, but for the key. -/
def checkSigFormat (l : List Byte) : Bool :=
  let b := sigBlock l
  decide (imWord b 0 = 0x47495354) && (decide (leAt b 4 2 = 1) || decide (leAt b 4 2 = 2)) && imZero b 6 2 && imZero b 0xC 4 &&
    imZero b 0x70 16 && (decide (leAt b 4 2 = 2) || imZero b 0x50 32)

/-- 7 HEADER: the offset of the first field out of range. -/
def checkHeader (l : List Byte) : Option Nat :=
  (([(0x1A, imSteps l, 1, 4096), (0x1C, imQueues l, 0, 512), (0x1E, imRanges l, 0, 256), (0x20, imPlacements l, 1, 8192),
     (0x24, imCodeWords l, 1, 4294967295), (0x28, imRecords l, 0, 16384)] : List (Nat × Nat × Nat × Nat)).find? fun f =>
       decide (f.2.1 < f.2.2.1 ∨ f.2.2.2 < f.2.1)).map (·.1) <|> (if imZero l 0x68 24 then none else some 0x68)

/-- The size that section k must have (R187), none where the records of CHART_INIT pass the end of the image. -/
def wantSize (l : List Byte) (k : Nat) : Option Nat :=
  match k with
  | 0 => some (imCodeWords l * 4)
  | 1 => some (imSteps l * 16)
  | 2 => some (imSteps l * 8)
  | 3 => some (imPlacements l * 8)
  | 4 => some (imRanges l * 8)
  | 5 =>
    let n := (imChart l (imRecords l) (imOff l 5)).foldl (fun n r => n + (4 + 4 * r.2.2)) 0
    if imOff l 5 + n ≤ l.length - 128 then some n else none
  | _ => some (imQueues l * 8)

/-- 8 DIRECTORY: the first section whose offset, size or padding is wrong. -/
def checkDirectory (l : List Byte) : Option Nat :=
  (List.range 7).find? fun k =>
    let off := if k = 0 then 0x80 else up8 (imOff l (k - 1) + imSize l (k - 1))
    let stop := imOff l k + imSize l k
    let next := up8 stop
    decide (imOff l k ≠ off) || decide (some (imSize l k) ≠ wantSize l k) || decide (l.length - 128 < stop) ||
      (decide (k = 6) && decide (next ≠ l.length - 128)) || !imZero l stop (next - stop)

/-- 9 CAPACITY. -/
def checkCapacity (l : List Byte) : Bool :=
  decide (imCodeWords l * 4 + imSteps l * 8 + imPlacements l * 4 ≤ 131072)

/-- 10 ROUND. -/
def checkRound (l : List Byte) : Bool :=
  let n := imRoundSlots l
  match imMode l with
  | 0 => decide (100 ≤ n ∧ n ≤ 100000 ∧ 1000000 % n = 0)
  | 1 => decide (n = 0)
  | _ => false

/-- 11 STEP. -/
def checkStep (l : List Byte) : Option Nat :=
  (List.range (imSteps l)).find? fun n =>
    decide (imCodeWords l < imStart l n + imLength l n ∨ imLength l n < 1 ∨ 64 < imLength l n ∨ 6 < imPeriod l n ∨
      2 ^ imPeriod l n ≤ imPhase l n) || !imZero l (imOff l 1 + 16 * n + 7) 1 || !imZero l (imOff l 1 + 16 * n + 11) 1

/-- 12 MASK. -/
def checkMask (l : List Byte) : Option Nat :=
  (List.range (imSteps l)).find? fun n => decide (imMask l n ≠ roundMask (imPeriod l n) (imPhase l n))

/-- Whether code word i lies in a step. -/
def inStep (l : List Byte) (i : Nat) : Bool :=
  (List.range (imSteps l)).any fun n => decide (imStart l n ≤ i ∧ i < imStart l n + imLength l n)

/-- 13 ENCODING and 14 PAGE: the first code word of a step that is wrong. -/
def checkCode (l : List Byte) (ok : Word → Bool) : Option Nat :=
  (List.range (imCodeWords l)).find? fun i => inStep l i && !ok (imCode l i)

/-- Whether a step has its one END last, and no skip passes over it. -/
def shapeOk (ws : List Word) : Bool :=
  let n := ws.length
  decide (1 ≤ n ∧ n ≤ 64) && (ws.drop (n - 1)).all isEnd && (ws.take (n - 1)).all (fun w => !isEnd w) &&
    (((List.range n).zip ws).all fun e => !isSkip e.2 || decide (e.1 + tBits e.2 0 4 + 1 < n))

/-- 15 SHAPE. -/
def checkShape (l : List Byte) : Option Nat := (List.range (imSteps l)).find? fun n => !shapeOk (imWords l n)

/-- 16 SLOTMAP: an entry that is wrong, or a step never placed. -/
def checkSlotMap (l : List Byte) : Option Nat :=
  let top := if imMode l = 0 then imRoundSlots l else 1000
  let m := imMap l
  ((List.range (imPlacements l)).find? fun k =>
    decide (top ≤ imSlot l k ∨ imSteps l ≤ imStep l k) || !imZero l (imOff l 3 + 8 * k + 6) 2 ||
      decide (0 < k ∧ imSlot l k < imSlot l (k - 1)) || (m.take k).contains (imSlot l k, imStep l k)) <|>
    (List.range (imSteps l)).find? fun n => !m.any fun e => e.2 == n

/-- 17 STEP_TIME. -/
def checkStepTime (l : List Byte) : Option Nat :=
  (List.range (imSteps l)).find? fun n =>
    decide ((imWcet l n, imMirror l n) ≠ stepWorst (imWords l n)) || decide (384 < imWcet l n)

/-- 18 SLOT_TIME and 19 SLOT_MIRROR: the first slot and round whose placements together exceed a limit (R197). -/
def checkSlots (l : List Byte) (cost : Nat → Nat) (limit : Nat) : Option Nat :=
  ((imMap l).map (·.1)).eraseDups.findSome? fun slot =>
    ((List.range 64).find? fun r =>
      let at_ := (imMap l).filter fun e => e.1 == slot && (imMask l e.2).testBit r
      decide (limit < (at_.map fun e => cost e.2).sum)).map fun r => slot + r * 2 ^ 17

/-- 20 MIRROR_DECL: a range that is wrong, or a store to the mirror region outside the ranges. -/
def checkMirror (l : List Byte) : Option Nat :=
  let rs := (List.range (imRanges l)).map (imRange l)
  ((List.range (imRanges l)).find? fun k =>
    let r := imRange l k
    let before := if k = 0 then 0 else (imRange l (k - 1)).start + (imRange l (k - 1)).count
    decide (r.start < 0x3800 ∨ 0x3FFF < r.start ∨ r.count < 1 ∨ 2048 < r.count ∨ 0x4000 < r.start + r.count ∨ r.start < before) ||
      decide (2 ≤ leAt l (imOff l 4 + 8 * k + 4) 1) || !imZero l (imOff l 4 + 8 * k + 5) 3) <|>
    checkCode l fun w =>
      !((tOp w == 0x21 || tOp w == 0x23) && decide (0x3800 ≤ tBits w 0 14)) ||
        rs.any fun r => decide (r.start ≤ tBits w 0 14 ∧ tBits w 0 14 < r.start + r.count)

/-- 21 CHART_INIT. -/
def checkChart (l : List Byte) : Option Nat :=
  let rs := imChart l (imRecords l) (imOff l 5)
  (List.range rs.length).find? fun k =>
    let r := rs.getD k (0, 0, 0)
    let p := rs.getD (k - 1) (0, 0, 0)
    decide (0x3FFF < r.2.1 ∨ r.2.2 < 1 ∨ 16384 < r.2.2 ∨ 0x4000 < r.2.1 + r.2.2 ∨ (0 < k ∧ r.2.1 < p.2.1 + p.2.2))

/-- 22 QUEUES (R176, R193). -/
def checkQueues (l : List Byte) : Option Nat :=
  let qs := (List.range (imQueues l)).map (imQueue l)
  (List.range (imQueues l)).find? fun k =>
    let o := imOff l 6 + 8 * k
    let q := imQueue l k
    decide (2 ≤ leAt l o 1 ∨ 2 ^ 13 ≤ leAt l (o + 2) 2) || !imZero l (o + 6) 2 ||
      !([16, 32, 64, 128, 256, 512, 1024, 2048, 4096].contains q.bind.depth) ||
      ((qs.take k).any fun p => p.event == q.event && p.queue == q.queue) ||
      decide (65536 < ((qs.take (k + 1)).map fun p => p.bind.depth).sum)

namespace Zone

/-! ### The verdict of a loader -/

/-- The lowest table-signing key with a KEY_ID and a type (R610). -/
def signingKey (s : Zone) (type keyId : Nat) : Option KeySlot :=
  ((List.range 256).map s.keySlot).find? fun k =>
    attrTable k.attr && decide (k.type = type) && !k.key.isEmpty && decide (0 < k.count.toNat) && decide (k.keyId.toNat = keyId)

/-- The key of an image's signature block. -/
def imageKey (s : Zone) (l : List Byte) : Option KeySlot :=
  s.signingKey (leAt (sigBlock l) 4 2 + 5) (imWord (sigBlock l) 8)

/-- 4 SIGNATURE (R194). -/
def signatureOk (s : Zone) (l : List Byte) : Bool :=
  let alg := leAt (sigBlock l) 4 2
  match s.imageKey l with
  | some k => ecdsaVerify (alg + 5) k.key (sha (alg - 1) (l.take (l.length - 128)))
      (((sigBlock l).drop 0x10).take (if alg = 1 then 64 else 96))
  | none => false

/-- 5 VERSION: whether an image's version reaches the floor of its kind (R235). -/
def floorOk (s : Zone) (l : List Byte) : Bool :=
  match imKind l with
  | 0 => decide (s.fld (pZONE 1) KEEPER.FLOOR_SERVICE_VERSION ≤ imVersion l)
  | 1 => decide (s.fld (pZONE 1) KEEPER.FLOOR_LIGHTSHIP_VERSION ≤ imVersion l)
  | _ => true

/-- The loader's checks in order: the reject code and detail of the first that fails, none where the image passes (R198). -/
def loaderCheck (s : Zone) (kind : Nat) (l : List Byte) : Option (Nat × Nat) :=
  let no (ok : Bool) : Option Nat := if ok then none else some 0
  ([(1, fun _ => no (checkFormat l)), (2, fun _ => no (checkSize l)),
    (3, fun _ => no (checkSigFormat l && (s.imageKey l).isSome)), (4, fun _ => no (s.signatureOk l)),
    (5, fun _ => no (s.floorOk l)), (6, fun _ => no (decide (imKind l = kind ∧ kind ≤ 1))),
    (7, fun _ => checkHeader l), (8, fun _ => checkDirectory l), (9, fun _ => no (checkCapacity l)),
    (10, fun _ => no (checkRound l)), (11, fun _ => checkStep l), (12, fun _ => checkMask l),
    (13, fun _ => checkCode l encodingOk), (14, fun _ => checkCode l pageOk), (15, fun _ => checkShape l),
    (16, fun _ => checkSlotMap l), (17, fun _ => checkStepTime l), (18, fun _ => checkSlots l (imWcet l) 384),
    (19, fun _ => checkSlots l (imMirror l) 32), (20, fun _ => checkMirror l), (21, fun _ => checkChart l),
    (22, fun _ => checkQueues l)] : List (Nat × (Unit → Option Nat))).findSome? fun c => (c.2 ()).map fun d => (c.1, d % 2 ^ 24)

/-! ### Table memory (R183, R200, R236) -/

/-- Show the tables of keeper k's halves. -/
def showTables (s : Zone) (k : Keeper) : Zone :=
  let p := pKEEPER k
  let show_ (s : Zone) (a b : Fld) (t : Option Table) : Zone := match t with
    | some t => (s.setFld p a t.id.toNat).setFld p b t.version.toNat
    | none => (s.setFld p a 0).setFld p b 0
  show_ (show_ s KEEPER.RUN_ID_TABLE_ID KEEPER.RUN_VERSION_VERSION (s.runTable k)) KEEPER.RES_ID_TABLE_ID
    KEEPER.RES_VERSION_VERSION (s.resTable k)

/-- RES_STATE of keeper k: 0 EMPTY, 1 LOADED, 2 PREVIOUS, 3 UNUSABLE. -/
def resState (s : Zone) (k : Keeper) : Nat := s.fld (pKEEPER k) KEEPER.RES_STATE_STATE
def setResState (s : Zone) (k : Keeper) (v : Nat) : Zone := s.setFld (pKEEPER k) KEEPER.RES_STATE_STATE v

/-- Write a table into the half of keeper k that does not run (R200). -/
def loadHalf (s : Zone) (k : Keeper) (t : Table) : Zone :=
  let x := s.keeper k
  let s := s.setKeeper k (match x.runs with
    | some false => { x with half1 := some t }
    | _ => { x with half0 := some t })
  (s.setResState k 1).showTables k

/-- The round length of a table now: that of the profile for ROUND_MODE 1 (R173), 1,000 slots in START (R657). -/
def tableLen (s : Zone) (t : Table) : Nat :=
  if t.mode = 0 then t.roundSlots
  else if s.profile = 3 then 10000 else 1000

/-! ### The begin of a table (R184) -/

/-- Every ticket becomes FREE; those ISSUED count as abandoned (R149). -/
def freeTickets (s : Zone) (k : Keeper) : Zone :=
  let n := ((List.range 128).filter fun i => decide ((s.ticket k i).state = .issued)).length
  let s := s.countBy (pKEEPER k) KEEPER.TICKET_EVENTS_ABANDONED n
  let m := s.tickets.filter fun e => decide (e.1 / 128 ≠ k.idx)
  ({ s with tickets := m }).setFld (pKEEPER k) KEEPER.TICKETS_IN_USE 0

/-- The chart that a table begins with: its initialisation over zeros, and in a table change the mirror-region words of its CARRY
ranges as the keeper holds them. -/
def beginChart (t : Table) (old : SMap Word) (change : Bool) : SMap Word :=
  let put (m : SMap Word) (a : Nat) (w : Word) : SMap Word := SMap.set (fun _ => 0) m a w
  let init := t.init.foldl (fun m r => ((List.range r.2.length).zip r.2).foldl (fun m e => put m (r.1 + e.1) e.2) m) ([] : SMap Word)
  if change then
    (t.mirror.filter (·.carry)).foldl (fun m r => (List.range r.count).foldl (fun m i =>
      put m (r.start + i) (SMap.get (fun _ => 0) old (r.start + i))) m) init
  else init

/-- Keeper k begins the table of the half it did not run. A keeper that ran none has nothing to carry; a lightship table that a
service table follows becomes UNUSABLE (R659, R669). The queues follow once every keeper has begun what it begins here. -/
def beginTable (s : Zone) (k : Keeper) : Zone :=
  match s.resTable k with
  | none => s
  | some t =>
    let s := s.freeTickets k
    let x := s.keeper k
    let half := match x.runs with | some false => true | _ => false
    let s := s.setKeeper k { x with runs := some half, chart := beginChart t x.chart x.runs.isSome, roundLen := s.tableLen t, rounds := 0,
                                    group := [], inStep := false, skip := 0, recent := [], dropped := [] }
    let prior := s.resTable k
    let s := s.setResState k (match prior with | none => 0 | some p => if p.kind = 1 ∧ t.kind = 0 then 3 else 2)
    (s.showTables k).setFld (pZONE 1) KEEPER.WATCH_COUNT_ROUNDS 0

/-- After the tables of a boundary have begun or the watch has changed hands, queues are bound as the holder's table declares, and
read positions follow (R182, R677); `old` is the module before. -/
def settleQueues (s old : Zone) : Zone :=
  match s.holder with
  | some h => (s.rebind h).joinQueues old h.other h
  | none => s

/-! ### LOAD_TABLE (R229, R230, R231) -/

/-- The word of a result code and its detail (R230). -/
def loadWord (code detail : Nat) : Nat := code * 2 ^ 24 + detail

def setLoadResult (s : Zone) (k : Keeper) (w : Nat) : Zone :=
  (s.setFld (pKEEPER k) KEEPER.LOAD_RESULT_CODE (w / 2 ^ 24)).setFld (pKEEPER k) KEEPER.LOAD_RESULT_DETAIL w

/-- Answer LOAD_TABLE with both words. -/
def answerLoad (s : Zone) (seq : BitVec 32) (a b : Nat) : Zone :=
  (((s.setLoadResult .A a).setLoadResult .B b).answer 0x0005 seq 0 (leBytes 4 a ++ leBytes 4 b))

/-- Both verdicts are in: the image is accepted when both are DONE, and the standby begins it at the next boundary. -/
def loadDone (s : Zone) (c : LoadCmd) (a b : Nat) : Zone :=
  let s := { s with watch := { s.watch with load := none } }
  let s := s.answerLoad c.seq a b
  if a = 0 ∧ b = 0 then
    let t := tableOf c.image
    let s := (s.loadHalf .A t).loadHalf .B t
    { s with watch := { s.watch with change := some (.trial, none) } }
  else s

/-- Keeper k's loader has its verdict on the image of LOAD_TABLE. -/
def loaderVerdict (s : Zone) (k : Keeper) : Zone :=
  match s.watch.load with
  | none => s
  | some c =>
    let w := if s.keeperDown k || decide (s.role k = Role.stopped) then loadWord 0x20 0
      else match s.loaderCheck 0 c.image with
        | none => 0
        | some (code, detail) => loadWord code detail
    let c : LoadCmd := match k with
      | .A => { c with wordA := some w }
      | .B => { c with wordB := some w }
    let s := { s with watch := { s.watch with load := some c } }
    match c.wordA, c.wordB with
    | some a, some b => s.loadDone c a b
    | _, _ => s.setLoadResult k w

end Zone

/-! ### Commands -/

def execLoaderVerdict (keeper : Keeper) (st : State) : Result := st.runOn fun s => s.loaderVerdict keeper

end Sys2Proof.Machine
end

