-- ==== Sys2Proof/Machine/Start.lean ====
section
/-! DEFINITION. The module states and their transitions (R39), the start sequence (R648 to R661), start records and the
failed-start count (R662 to R664), LIGHTSHIP and its reporter (R665 to R668), and what takes a fault report in START. -/

namespace Sys2Proof.Machine

open Reg

/-! ENTRY_CAUSE (R56). -/
namespace Cause
@[reducible] def supply : Nat := 1
@[reducible] def wake : Nat := 2
@[reducible] def started : Nat := 3
@[reducible] def startRetry : Nat := 4
@[reducible] def startLimit : Nat := 5
@[reducible] def reset : Nat := 6
@[reducible] def sleepCommit : Nat := 7
@[reducible] def lightshipExit : Nat := 8
@[reducible] def testEntry : Nat := 9
@[reducible] def testExit : Nat := 10
@[reducible] def safetyReset : Nat := 11
end Cause

/-! Reason codes (R663). -/
namespace Reason
@[reducible] def supply : Nat := 0x01
@[reducible] def supervisorReset : Nat := 0x02
@[reducible] def safetyReset : Nat := 0x03
@[reducible] def globalReset : Nat := 0x04
@[reducible] def window : Nat := 0x10
@[reducible] def logicBist : Nat := 0x11
@[reducible] def memoryBist : Nat := 0x12
@[reducible] def keepers : Nat := 0x13
@[reducible] def lsImage : Nat := 0x20
@[reducible] def bootImage : Nat := 0x21
@[reducible] def serviceTable : Nat := 0x22
@[reducible] def deadline : Nat := 0x30
@[reducible] def watchLost : Nat := 0x31
end Reason

/-- The 16 bytes of a start record (R663). -/
def StartRec.bytes (r : StartRec) : List Byte :=
  leBytes 4 r.count.toNat ++ leBytes 1 r.reason ++ leBytes 1 r.phase ++ leBytes 1 (b2n r.counts + 2 * b2n r.countable) ++
    [0#8] ++ leBytes 4 r.detail.toNat ++ leBytes 4 r.life.toNat

namespace Zone

def setStart (s : Zone) (f : StartSt → StartSt) : Zone := { s with start := f s.start }

def phase (s : Zone) : Nat := s.fld (pZONE 6) ZONE6.START_STATUS_PHASE
def setPhase (s : Zone) (v : Nat) : Zone := s.setFld (pZONE 6) ZONE6.START_STATUS_PHASE v
def maintenance (s : Zone) : Bool := s.flag (pZONE 6) ZONE6.START_STATUS_MAINTENANCE

/-! ### Start records (R662 to R664) -/

def lifeTime (s : Zone) : Word := s.rd (pZONE 6 + ZONE6.LIFE_TIME_SECONDS.off)

/-- The failed-start count n (R664). -/
def failedCount (s : Zone) : Nat :=
  (s.start.records.filter fun r => r.counts && decide (s.lifeTime.toNat < r.life.toNat + 600)).length

/-- Show FAILED (R664). -/
def showFailed (s : Zone) : Zone := s.setFld (pZONE 6) ZONE6.START_STATUS_FAILED s.failedCount

/-- Show the start records and FAILED (R673). -/
def showRecords (s : Zone) : Zone :=
  (s.forEach (List.range 16) fun (s : Zone) (k : Nat) =>
    s.setPageBytes (pZONE 6) (0x100 + 16 * k) (padTo 16 ((s.start.records[k]?.map StartRec.bytes).getD []))).showFailed

/-- Write a start record and LAST_REASON; LIFE_TIME is written with it (R662, R663). -/
def addStartRecord (s : Zone) (reason : Nat) (detail : Word) (counted : Bool) : Zone :=
  let r : StartRec := ⟨s.rd (pZONE 6 + ZONE6.START_COUNT_COUNT.off), reason, s.phase, counted, counted, detail, s.lifeTime⟩
  let s := s.setStart fun x => { x with records := (r :: x.records).take 16, lifeSaved := s.lifeTime, savedAt := s.mono }
  let s := (s.setFld (pZONE 6) ZONE6.LAST_REASON_CODE reason).setFld (pZONE 6) ZONE6.LAST_REASON_DETAIL detail.toNat
  (s.setFld (pZONE 6) ZONE6.LAST_DETAIL_HI_DETAIL_HI (detail.toNat / 2 ^ 24)).showRecords

/-- Clear COUNTS in every record (R668, R672). -/
def clearCounts (s : Zone) : Zone :=
  (s.setStart fun x => { x with records := x.records.map fun r => { r with counts := false } }).showRecords

/-- The result of READ_START_REASONS (R671). -/
def startReasons (s : Zone) : List Byte :=
  leBytes 4 (s.failedCount + s.fld (pZONE 6) ZONE6.START_CFG_LIMIT * 256) ++ leBytes 4 s.start.records.length ++
    s.start.records.flatMap StartRec.bytes

/-! ### Transitions (R39, R51) -/

/-- STATE shows a transition in one write (R39, R40). -/
def setState (s : Zone) (m : Mode) (cause : Nat) : Zone :=
  let s := s.setFld (pZONE 0) ZONE0.STATE_PREV s.mode.code
  let s := (s.setFld (pZONE 0) ZONE0.STATE_ENTRY_CAUSE cause).setFld (pZONE 0) ZONE0.STATE_SLEEP_PENDING 0
  s.setFld (pZONE 0) ZONE0.STATE_CURRENT m.code

/-- A transition ends every executing command; those still to be answered get ABORTED, none on the way to OFF (R51). What waited to
answer one later does so no more. -/
def abortCommands (s : Zone) (toOff : Bool) : Zone :=
  let l := s.supv.executing.filter fun e => e.answerDue && !toOff
  let s := s.forEach l fun (s : Zone) (e : Executing) => s.send e.code e.seq 0x0A []
  { s with supv := { s.supv with executing := [] }, watch := WatchSt.init,
           time := { s.time with waiting := none, pendingStep := none },
           grant := s.grant.map fun g => { g with cmd := none }, keyring := { s.keyring with bind := none } }

/-- Whether the key of a register word keeps its value over an entry to START; from OFF the always-on fields of ZONE.0 and what
the supply monitor shows begin anew (R469, R663, R673, R399, R622, R237). The words that keep a part of theirs are in startShown. -/
def keptWord (off : Bool) (k : Nat) : Bool :=
  let o := keyOff k
  if keyPage k = pZONE 0 then o = 0 || (!off && decide (0x040 ≤ o ∧ o < 0x0FC))
  else if keyPage k = pZONE 1 then decide (o = KEEPER.FLOOR_SERVICE_VERSION.off ∨ o = KEEPER.FLOOR_LIGHTSHIP_VERSION.off)
  else if keyPage k = pZONE 3 then !off && decide (o = ZONE3.SUPPLY_STATUS_CRANK_HOLD.off)
  else if keyPage k = pZONE 6 then
    decide (o = 0x004 ∨ o = 0x008 ∨ o = 0x010 ∨ o = 0x024 ∨ o = 0x028 ∨ o = 0x02C ∨ 0x100 ≤ o)
  else if keyPage k = pFLEET then
    decide (o = TIME1.NODE_NEXT_NODE.off ∨ o = TIME1.DOMAIN_NEXT_ID.off ∨ o = TIME1.NODE_NODE.off ∨ o = TIME1.DOMAIN_ID_ID.off)
  else decide (k = pTEST 2 + TEST2.LC_RESULT_CODE.off)

/-- DRAM is unpowered and loses its content; what an unwritten byte reads is log entry 6. -/
def loseDram (s : Zone) : Zone :=
  { s with mem := SMap.keep (fun a => decide (a < 0x1000000000 ∨ 0x13FFFFFFFF < a)) s.mem }

/-- Network time on entry to START (R378, R410): `old` is the module as it left the state `m`. -/
def startTime (s old : Zone) (m : Mode) : Zone :=
  let t := old.time
  let fromZero : TimeSt := { TimeSt.init with aon := if m = .off then 0 else t.aon, aonAcc := if m = .off then 0 else t.aonAcc }
  let faulted := old.flag pTIME TIME0.TIME_STATUS_INTEGRITY_FAULT
  match m with
  | .off => { s with time := fromZero }
  | .sleep =>
    if faulted then { s with time := fromZero } else
    let ns := (t.aon - old.sleep.pairAon) * 1000000000 / 32768
    let now := old.sleep.pairNs + ns
    let net : NetTime := ⟨BitVec.ofNat 48 (now / 1000000000), BitVec.ofNat 32 (now % 1000000000), 0⟩
    ({ s with time := { fromZero with net := net, copy := net, sleepNs := ns } }).setTState TS.coarse
  | _ =>
    if faulted then { s with time := fromZero }
    else
      let o := old.enterHoldover.leaveLocal
      let s := { s with time := { TimeSt.init with
        net := t.net, copy := t.copy, stopped := t.stopped, aon := t.aon, aonAcc := t.aonAcc, lastStep := t.lastStep,
        rateTerm := o.time.rateTerm, lastUsed := t.lastUsed, sleepNs := t.sleepNs, residence := t.residence,
        holdoverSince := if o.tstate = TS.holdover then some s.mono else none } }
      ((s.setTState o.tstate).setInc (incOf o.time.rateTerm 0)).setFldS pTIME TIME0.RATE_PPB o.time.rateTerm

/-- What keeps its value on entry to START in a word of which the rest takes its reset value (R56, R66, R256, R433), and the parts of
the registers that follow the world or the fuses. -/
def startShown (s old : Zone) : Zone :=
  let s := s.forEach (List.range 48) fun (s : Zone) (n : Nat) =>
    s.when (old.flag (pLOAD n) LOAD.CH_STATUS_LATCH) (·.setFld (pLOAD n) LOAD.CH_STATUS_LATCH 1)
  let s := s.forEach (List.range 16) fun (s : Zone) (c : Nat) =>
    s.when (old.flag (pCAN c) CAN.SW_STATUS_WOKE) (·.setFld (pCAN c) CAN.SW_STATUS_WOKE 1)
  let s := s.setFlag (pZONE 0) ZONE0.SUPV_BOUND (old.flag (pZONE 0) ZONE0.SUPV_BOUND)
  let s := if old.mode = .off then s else s.setFld (pZONE 3) ZONE3.CRANK_ACC (old.fld (pZONE 3) ZONE3.CRANK_ACC)
  let s := s.setFld pFLEET TIME1.NODE_NODE (old.fld pFLEET TIME1.NODE_NEXT_NODE)
  let s := s.wr (pFLEET + TIME1.DOMAIN_ID_ID.off) (old.rd (pFLEET + TIME1.DOMAIN_NEXT_ID.off))
  let s := s.setFld pFLEET TIME1.GLOBAL_COUNTS_DISCARDED
    (if old.mode = .sleep then old.fld pFLEET TIME1.GLOBAL_COUNTS_DISCARDED else 0)
  let s := s.setFld (pTEST 2) TEST2.FUSE_ECC_WEAK (s.fuses.lc.filter fun e => decide (e.2 = 2)).length
  s.forEach (List.range 8) fun (s : Zone) (k : Nat) => s.fresh.2.wr (pTEST 2 + TEST2.LC_NONCE_LC_NONCE.off + 4 * k) s.fresh.1

/-- Every entry to START (R649, R662, R676): each page takes its reset values but for what its chapter keeps, every queue, ring,
ticket and record is empty, the outputs are open, the clusters are held in reset, and START_COUNT is raised. Prefetched lines
are discarded with cause RESET (R555). A START_COUNT of 0xFFFF_FFFF stops the start in phase 0. -/
def enterStart (s : Zone) (cause : Nat) (maint : Bool) : Zone :=
  let m := s.mode
  let off := decide (m = .off)
  let s := s.abortCommands off
  let count := s.rd (pZONE 6 + ZONE6.START_COUNT_COUNT.off)
  let exhausted := decide (count = 0xFFFFFFFF)
  let count := if exhausted then count else count + 1
  let z : Zone := { Zone.reset with
    mono := s.mono, freeNext := s.freeNext, ticketSerial := s.ticketSerial, regs := SMap.keep (keptWord off) s.regs, fuses := { s.fuses with advancing := none },
    keyring := { KeyringSt.init with record := s.keyring.record, cert := s.keyring.cert },
    supv := { SupervisorSt.init with replies := s.supv.replies },
    log := { LogSt.init with stored := s.log.stored }, bal := { BalSt.init with record := s.bal.record },
    supply := if off then { s.supply with low := false, crankTicks := 0, aboveSince := none } else s.supply, mem := s.mem,
    start := { StartSt.init with
      entered := s.mono, windowFrom := s.mono, exhausted := exhausted, partition := s.start.partition, records := s.start.records,
      lifeSaved := s.start.lifeSaved, lifeTicks := if off then 0 else s.start.lifeTicks, savedAt := s.mono,
      repair := s.fuses.repair },
    sleep := { s.sleep with
      phase := 0, timer := none, latched := none, awakeFrom := s.mono, firstAt := none, heard := none, served := [], phys := [],
      wakeKind := if cause = Cause.wake then s.sleep.wakeKind else 0 } }
  let z := ((z.setState .start cause).setFld (pZONE 0) ZONE0.SLEEP_STATUS_CAUSE 0).startTime s m
  let z := ((z.startShown s).calStart).judgeSupply
  let z := z.when (off || decide (m = .sleep ∨ m = .lightship)) loseDram
  let z := if off then z else z.forEach [0, 1] fun (z : Zone) (h : Nat) =>
    z.forEach (s.hinge h).lines fun (z : Zone) (l : HeldLine) => z.discardLine h l 5
  let z := z.when off (·.wr (pZONE 6 + ZONE6.LIFE_TIME_SECONDS.off) s.start.lifeSaved)
  let z := z.wr (pZONE 6 + ZONE6.START_COUNT_COUNT.off) count
  ((z.wr (pLOG + LOG0.START_COUNT_COUNT.off) count).setFlag (pZONE 6) ZONE6.START_STATUS_MAINTENANCE maint).showRecords

/-- The PHYs run from the end of BIST: each port that the sleep before a wake had armed sends a TC10 wake-up (R453; log entry 99). -/
def wakePorts (s : Zone) : Zone :=
  let due := (List.range 12).filter fun j => s.sleep.wakeUps.testBit j
  { s with sleep := { s.sleep with wakeUps := 0, tc10 := s.sleep.tc10 ++ due.map fun j => ⟨16 + j, true⟩ } }

/-! ### LIGHTSHIP (R665 to R667) -/

/-- The ROM lightship table (R665): one step of period 1 that writes MODE 0 to every CHAR page. What else its header holds the
spec does not give (log entry 56). -/
def romTable (id version : Word) : Table :=
  let code : List Word := ((List.range 16).map fun g =>
    BitVec.ofNat 32 (0x29 * 2 ^ 26 + 2 * 2 ^ 14 + g * 2 ^ 6 + CHAR.GEN_CTRL_MODE.off / 4)) ++ [BitVec.ofNat 32 (0x3F * 2 ^ 26)]
  { id := id, version := version, kind := 1, mode := 1, roundSlots := 0, code := code,
    steps := [⟨0, 17, BitVec.allOnes 64⟩], slotMap := [(0, 0)], mirror := [], init := [], queues := [] }

/-- Whether a keeper can begin a table. -/
def healthy (s : Zone) (k : Keeper) : Bool := !s.keeperDown k && decide (s.role k ≠ Role.stopped)

/-- Every healthy keeper takes a table into the half it does not run, and begins it at the next round boundary (R657, R659). -/
def loadHealthy (s : Zone) (t : Table) : Zone :=
  let s := s.forEach [Keeper.A, Keeper.B] fun (s : Zone) (k : Keeper) => s.when (s.healthy k) (·.loadHalf k t)
  { s with watch := { s.watch with change := some (.start, none) } }

/-- Take the lightship image that both loaders have accepted: the table and its map (R656, R657). -/
def loadLightship (s : Zone) (l : List Byte) : Zone :=
  let t := tableOf l
  let map := t.loads.foldl (fun w n => w + 2 ^ n) 0
  let s := (s.setFld (pZONE 6) ZONE6.LS_MAP_LO_MAP map).setFld (pZONE 6) ZONE6.LS_MAP_HI_MAP (map / 2 ^ 32)
  (s.setStart fun x => { x with lsVersion := some t.version }).loadHealthy t

/-- The lightship image with the verdict of both loaders: none where it is unreadable, otherwise its bytes and the check that
fails, if any. -/
def lsVerdict (s : Zone) : Option (List Byte × Option (Nat × Nat)) :=
  s.start.partition.map fun l => (l, s.loaderCheck 1 l)

/-- Settle the table of LIGHTSHIP (R665). -/
def settleLightship (s : Zone) : Zone :=
  let kinds := [Keeper.A, Keeper.B].filterMap fun k => if s.healthy k then (s.runTable k).map (·.kind) else none
  if kinds.contains 1 then s
  else if kinds.contains 0 then { s with watch := { s.watch with change := some (.start, none) } }
  else if !(s.healthy .A || s.healthy .B) then s
  else match s.lsVerdict with
    | some (l, none) => s.loadLightship l
    | _ =>
      let id := s.fresh
      let v := id.2.fresh
      ((v.2.setFld (pZONE 6) ZONE6.START_STATUS_LS_ROM 1).loadHealthy (romTable id.1 v.1))

/-- The frame of the start reporter (R667). -/
def reportFrame (s : Zone) (n : Nat) (k : Nat) (r : StartRec) : CanFrame :=
  { format := 0, ide := false, rtr := false, brs := false, esi := false, dlc := 8,
    ident := BitVec.ofNat 29 (s.fld (pZONE 6) ZONE6.REPORT_CFG_ID), sdt := 0, vcid := 0, sec := false, af := 0,
    data := [BitVec.ofNat 8 (min 15 n * 16 + k)] ++ leBytes 1 r.reason ++ leBytes 3 r.detail.toNat ++ leBytes 1 r.phase ++
      leBytes 2 r.count.toNat }

/-- The reporter sends the next record with COUNTS = 1 (R667). -/
def sendReport (s : Zone) : Zone :=
  let l := s.start.records.filter (·.counts)
  let s := s.setStart fun x => { x with reportAt := some s.mono }
  let k := if s.start.reportIdx < l.length then s.start.reportIdx else 0
  match l[k]? with
  | none => s
  | some r =>
    if !s.flag (pZONE 6) ZONE6.REPORT_CFG_EN then s
    else
      let x := s.can 0
      let s := s.setCan 0 { x with pend := x.pend ++ [⟨s.reportFrame l.length k r, false, none, s.mono, false⟩] }
      s.setStart fun x => { x with reportIdx := k + 1 }

/-- CAN.0 passes to the reporter: enabled with the reset bit timing, its ring without owner (R666); the lock of the page stays (R15). -/
def reporterTakes (s : Zone) : Zone :=
  let s := (s.canAbort 0).2
  let s := { s with regs := SMap.keep (fun k => decide (keyPage k ≠ pCAN 0 ∨ keyOff k = 0x0FC)) s.regs,
                    cans := SMap.set (fun _ => CanSt.init) s.cans 0 CanSt.init,
                    rings := SMap.set (fun _ => RingSt.init) s.rings 0 RingSt.init }
  s.setFld (pCAN 0) CAN.CHAN_CFG_EN 1

/-- The first entry to SERVICE or LIGHTSHIP after a start: the sources that are active react, and the alarm outputs follow
(R634, R637); the 500 ms of a wake begin (R464). -/
def firstEntry (s : Zone) : Zone :=
  let s := { s with sleep := { s.sleep with firstAt := if s.sleep.firstAt.isSome then s.sleep.firstAt else some s.mono, heard := none } }
  s.reactActive.beginSignals

/-- Restore the keyring and derive the keys, and announce the start (R595, R590, R44). -/
def bootKeys (s : Zone) (good : Bool) : Zone :=
  let s := (s.restoreKeys good).deriveKeys
  { s with supv := { s.supv with noticeDue := if s.supv.sessionKey.isSome then some 0 else none } }

/-- The entry to LIGHTSHIP (R39, R665, R666). -/
def enterLightship (s : Zone) : Zone :=
  let s := (s.abortCommands false).setState .lightship Cause.startLimit
  let s := s.when s.supv.sessionKey.isNone (·.bootKeys true)
  let s := s.settleLightship
  let s := { s with cores := [], harts := [], swdt := ⟨false, 0, none⟩,
                    start := { s.start with released := false, reportIdx := 0 } }
  let s := ((s.setFld pTU TU.SECURE_STATE_STATE SecState.absent).loseDram).reporterTakes
  (s.sendReport.notice 0x0010 s.startReasons).firstEntry

/-! ### Failed starts (R664) -/

/-- Whether a start can fail: in BLANK and SCRAP and with START_COUNT exhausted it stays in START and counts nothing (R614, R662). -/
def startCounts (s : Zone) : Bool := s.inMode [.start] && !s.start.exhausted && s.root.isSome

/-- A start fails with a counted reason. -/
def startFail (s : Zone) (reason : Nat) (detail : Word) : Zone :=
  if !s.startCounts then s
  else
    let s := s.addStartRecord reason detail true
    if s.fld (pZONE 6) ZONE6.START_CFG_LIMIT ≤ s.failedCount then s.enterLightship else s.enterStart Cause.startRetry false

/-- The DETAIL word of LS_IMAGE and SERVICE_TABLE (R663). -/
def imageDetail (e : Option (Nat × Nat)) : Word :=
  match e with
  | none => 0xFF0000
  | some (code, d) => BitVec.ofNat 32 (d / 2 ^ 16 % 256 * 2 ^ 24 + code * 2 ^ 16 + d % 2 ^ 16)

/-! ### OFF (R67) -/

/-- The orderly reset: every output opens, the keepers stop, the reason is written, a sleep ends (R461), and the module is in
OFF. -/
def orderlyReset (s : Zone) (detail : Word) : Zone :=
  let s := (s.forceOpenAll).addStartRecord Reason.supply detail false
  let s := (((s.setRole .A Role.stopped).setRole .B Role.stopped).abortCommands true).gensOff
  let s := { s with start := { s.start with released := false },
                    sleep := { s.sleep with
                      phase := 0, timer := none, latched := none, wakeKind := 0, firstAt := none, heard := none, wakeUps := 0 } }
  let s := s.setFld (pZONE 0) ZONE0.SLEEP_STATUS_CAUSE 0
  (s.setFld (pZONE 0) ZONE0.STATE_SLEEP_PENDING 0).setFld (pZONE 0) ZONE0.STATE_CURRENT Mode.off.code

end Zone

/-! ### Commands -/

/-- The next report reaches the lanes (R623, R628); a wire that fails keeps it from a lane. KEEPER_BOTH fails a start (R663). -/
def execFaultReport (toA toB : Bool) (st : State) : Result := st.runOn fun s =>
  match s.nextReport with
  | none => s
  | some r =>
    let s := s.setSafety { s.safety with reports := s.safety.reports.erase r }
    if toA || toB then
      let s := s.takeReport r toA toB
      if r.source = Src.keeperBoth ∧ !r.injected ∧ s.inMode [.start] then s.startFail Reason.watchLost 0 else s
    else s

/-- The deadline of a start (R661). -/
def execStartDeadline (st : State) : Result := st.run fun s =>
  if s.startCounts && s.past s.start.entered (s.fld (pZONE 6) ZONE6.START_CFG_DEADLINE * Zone.ticksPerMs) then
    s.startFail Reason.deadline (BitVec.ofNat 32 s.phase)
  else s

/-- Every 100 ms in LIGHTSHIP (R667). -/
def execStartReport (st : State) : Result := st.runOn fun s =>
  match s.start.reportAt with
  | some t => if s.inMode [.lightship] && s.past t (100 * Zone.ticksPerMs) then s.sendReport else s
  | none => s

/-- Every 60 s (R662). -/
def execLifeTimeSave (st : State) : Result := st.run fun s =>
  if !s.inMode [.off] && s.past s.start.savedAt (60000 * Zone.ticksPerMs) then
    s.setStart fun x => { x with lifeSaved := s.lifeTime, savedAt := s.mono }
  else s

/-- The end of RESET_CFG.DELAY (R631, R663). -/
def execSafetyReset (st : State) : Result := st.run fun s =>
  match s.safety.resetDue with
  | some t =>
    if s.inMode [.service] && decide (t ≤ s.mono) && decide (s.sleep.phase < 3) then
      let counted := match s.start.serviceAt with | some u => !s.past u (60000 * Zone.ticksPerMs) | none => false
      (s.addStartRecord Reason.safetyReset (BitVec.ofNat 32 s.safety.resetSource) counted).enterStart Cause.safetyReset false
    else s
  | none => s

/-- The electronics supply lies above start, with the orderly reset complete (R67, R71). -/
def execPowerUp (st : State) : Result := st.run fun s =>
  if s.inMode [.off] then s.enterStart Cause.supply false else s

/-- The electronics supply falls below reset, which it does too where both grounds are lost (R65, R67). -/
def execOrderlyReset (st : State) : Result := st.run fun s =>
  if s.inMode [.off] then s else s.orderlyReset 1

/-- Cranking hold has lasted more than 1 s (R66). -/
def execCrankLimit (st : State) : Result := st.run fun s =>
  if s.inMode [.off] || decide (s.supply.crankTicks ≤ 1000 * Zone.ticksPerMs) then s else s.orderlyReset 2

/-- A scheduled RESET executes (R402, R403, R663). -/
def execGlobalReset (st : State) : Result := st.runOn fun s =>
  match s.dueGlobal 3 with
  | some k =>
    let op := s.slotWord k 0
    ((s.globalExecuted k).addStartRecord Reason.globalReset (BitVec.ofNat 32 (op % 2 ^ 24)) false).enterStart Cause.reset false
  | none => s

end Sys2Proof.Machine
end

