-- ==== Sys2Proof/Machine/Boot.lean ====
section
/-! DEFINITION. The phases of a start: windows (R650), BIST and repair (R651 to R655), the boot ROM and the lightship table (R656,
R657), the boot images and the service table (R659), readiness (R660); the life-cycle (R611 to R614). -/

namespace Sys2Proof.Machine

open Reg

/-! ### Blocks (R651) -/

/-- Bank and channel of a block. -/
def blockPage : Nat → Nat × Nat
  | 0 => (0, 1) | 1 => (0, 2) | 2 => (13, 1) | 3 => (13, 2)
  | 4 => (15, 16) | 5 => (15, 17) | 6 => (15, 18) | 7 => (15, 19)
  | 8 => (1, 0) | 9 => (2, 0) | 10 => (6, 0) | 11 => (5, 1) | 12 => (8, 0)
  | 13 => (15, 24) | 14 => (5, 0) | 15 => (5, 0) | 16 => (15, 32) | 17 => (10, 0) | 18 => (11, 0)
  | _ => (15, 2)

def blockLogic (b : Nat) : Bool := decide (b ≤ 19 ∧ b ≠ 13 ∧ b ≠ 14)
def blockMemory (b : Nat) : Bool := [0, 1, 4, 5, 6, 7, 13, 14, 16, 18].contains b

/-- The blocks tested at every entry to START. -/
def startBlocks : List Nat := List.range 15

/-! ### Repair (R653, R654) -/

/-- Spares that the valid fuse entries of an instance use, rows or columns. -/
def fuseSpares (m : SMap Word) (block inst : Nat) (column : Bool) : Nat :=
  ((m.filter fun e => bitOf e.2 31 && (bitOf e.2 30 == column) && decide (e.2.toNat / 2 ^ 24 % 64 = block ∧
    e.2.toNat / 2 ^ 20 % 16 = inst)).map fun e => e.2.toNat / 2 ^ 16 % 16).eraseDups.length

/-- The rows that fail in a bit column. -/
def rowsIn (fails : List BistFail) (c : Nat) : List Nat := ((fails.filter fun f => f.bit == c).map (·.row)).eraseDups

/-- Allocate spares to the failures of an instance (R653): the columns and rows used, and whether rows run out. -/
def softRepair (width rows cols : Nat) (fails : List BistFail) : Nat × Nat × Bool :=
  let covered := (List.range width).foldl (fun (l : List Nat) c =>
    if 3 ≤ (rowsIn fails c).length ∧ l.length < cols then l ++ [c] else l) []
  let left := ((fails.filter fun f => !covered.contains f.bit).map (·.row)).eraseDups.length
  (covered.length, min left rows, decide (rows < left))

namespace Zone

/-! ### Windows (R650) -/

/-- The clock domains of START that a monitor finds outside their window or stopped. -/
def badClocks (s : Zone) : List Nat :=
  [0, 1, 2, 3, 4, 7].filter fun d =>
    s.fldBit (pZONE 5) ZONE5.CLK_STATUS_STOPPED d || s.fldBit (pZONE 5) ZONE5.CLK_STATUS_OUT_OF_WINDOW d

/-- Whether the electronics supply lies in its window: above cranking hold entry and outside surge. -/
def supplyInWindow (s : Zone) : Bool := !s.supply.low && !s.inSurge .A && !s.inSurge .B

/-- Whether clocks and supply have held their windows for 1 ms of this start; which clocks a block uses the spec does not say, and the
model takes all that run in START (log entry 101). -/
def windowsHeld (s : Zone) : Bool := s.badClocks.isEmpty && s.supplyInWindow && s.past s.start.windowFrom ticksPerMs

/-- What keeps the windows from being confirmed (R663): a domain, `d` where it is one of several, or 0xFF for the supply. -/
def windowDetail (s : Zone) (d : Option (Fin 10)) : Nat :=
  match s.badClocks, d with
  | [], some x => if s.supplyInWindow then x.val else 0xFF
  | [], none => 0xFF
  | b :: _, some x => if s.badClocks.contains x.val then x.val else b
  | b :: _, none => if s.supplyInWindow then b else 0xFF

/-! ### Results (R674) -/

def bistKey (b w : Nat) : Nat := pTEST 0 + 0x100 + 16 * b + 4 * w
def bistCode (s : Zone) (b : Nat) : Nat := (s.rd (bistKey b 0 + 4)).toNat / 2 ^ 28

/-- Show TESTED, FAILED and ALL_PASS. -/
def showBist (s : Zone) : Zone :=
  let n (p : Nat → Bool) : Nat := ((List.range 20).filter fun b => p (s.bistCode b)).length
  let s := (s.setFld (pTEST 0) TEST0.BIST_STATUS_TESTED (n fun c => c == 1 || c == 2 || c == 4)).setFld (pTEST 0)
    TEST0.BIST_STATUS_FAILED (n fun c => c == 2)
  s.setFlag (pTEST 0) TEST0.BIST_STATUS_ALL_PASS (decide (0 < n fun c => c == 1 || c == 4) && decide (n (fun c => c == 2) = 0))

/-- Write the result of a block: STATUS, KIND, spares, and where it failed with what. -/
def bistResult (s : Zone) (b status kind rows cols : Nat) (fail : Option (Nat × Nat × Nat × Nat)) : Zone :=
  let w (s : Zone) (i v : Nat) : Zone := s.wr (bistKey b i) (BitVec.ofNat 32 v)
  let (bank, chan) := blockPage b
  let s := w (s) 1 (status * 2 ^ 28 + kind * 2 ^ 24 + min 255 rows * 2 ^ 8 + min 255 cols)
  let s := match fail with
    | some (stage, element, word, bit) =>
      w (w (w s 0 (bank * 2 ^ 28 + chan * 2 ^ 20 + stage % 64 * 2 ^ 14 + element % 2 ^ 14)) 2 word) 3 (bit % 65536)
    | none => w (w (w s 0 0) 2 0) 3 0xFFFF
  s.showBist

/-- Memory BIST of a block (R653): the instance that fails, if any. -/
def memoryBist (s : Zone) (b : Nat) (runs : List MemoryRun) : Option Nat × Zone :=
  let done := runs.map fun r =>
    let x := softRepair r.width (8 - fuseSpares s.start.repair b r.inst.val false) (4 - fuseSpares s.start.repair b r.inst.val true) r.fails
    (r, x)
  let cols := (done.map fun e => e.2.1).sum
  let rows := (done.map fun e => e.2.2.1).sum
  let p := pTEST 1
  let s := (s.setFld p TEST1.REPAIR_STATUS_SOFT_ROWS (satU 8 (s.fld p TEST1.REPAIR_STATUS_SOFT_ROWS + rows))).setFld p
    TEST1.REPAIR_STATUS_SOFT_COLS (satU 8 (s.fld p TEST1.REPAIR_STATUS_SOFT_COLS + cols))
  match done.find? fun e => e.2.2.2 || !e.1.again.isEmpty with
  | some (r, _) =>
    let f := (r.again ++ r.fails).headD ⟨0, 0, 0⟩
    (some r.inst.val, s.bistResult b 2 1 rows cols (some (r.inst.val, f.row, f.addr, f.bit)))
  | none => (none, s.bistResult b (if rows + cols = 0 then 1 else 4) 1 rows cols none)

/-- Logic BIST of a block (R651). -/
def logicBist (s : Zone) (b : Nat) (failure : Option (Fin 64 × Word)) : Zone :=
  match failure with
  | some (domain, sig) => s.bistResult b 2 0 0 0 (some (domain.val, 0, sig.toNat, 0xFFFF))
  | none => s.bistResult b 1 0 0 0 none

/-- Memory filled with zeros (R652): the system SRAM and the TCM of each safety core. -/
def zeroMem (s : Zone) (lo n : Nat) : Zone := { s with mem := SMap.keep (fun a => decide (a < lo ∨ lo + n ≤ a)) s.mem }

/-- What the BIST of a block erases (R652). -/
def bistErases (s : Zone) (b : Nat) (memory : Bool) : Zone :=
  match b with
  | 0 => if memory then s.setKeeper .A { s.keeperA with chart := [], half0 := none, half1 := none, runs := none } else s
  | 1 => if memory then s.setKeeper .B { s.keeperB with chart := [], half0 := none, half1 := none, runs := none } else s
  | 13 => s.zeroMem 0x1E0400000 0x100000
  | 14 => { s with switch := { s.switch with voqs := [] } }
  | 17 => s.setKeyring fun x => { x with evidence := none }
  | 18 => s.forEach (List.range 256) fun (s : Zone) (n : Nat) => s.setKeySlot n KeySlot.init
  | n => if 4 ≤ n ∧ n ≤ 7 then (s.zeroMem (0x1E0000000 + (n - 4) * 0x80000) 0x80000).zeroMem (0x1E0200000 + (n - 4) * 0x80000) 0x80000 else s

/-- BIST of one block in START: whether its logic fails, and the instance that fails. -/
def startBist (s : Zone) (b : Nat) (x : BlockBist) : Bool × Option Nat × Zone :=
  let s := s.count (pTEST 0) TEST0.BIST_COUNTS_RUNS
  match (if blockLogic b then x.logic else none) with
  | some f => (true, none, s.logicBist b (some f))
  | none =>
    if blockMemory b then let r := s.memoryBist b x.memory; (false, r.1, r.2.bistErases b true)
    else (false, none, s.logicBist b none)

/-- A keeper fails its self-test: the other one fences it (R655). -/
def bistKeeper (s : Zone) (k : Keeper) : Zone :=
  ((s.setRole k Role.failed).report Src.keeperFail (BitVec.ofNat 32 k.idx)).fence k

/-- Phase 2 is judged (R655). -/
def judgeBist (s : Zone) (results : List BlockBist) : Zone :=
  let find (b : Nat) : BlockBist := (results.find? fun r => r.block.val == b).getD ⟨Fin.ofNat 20 b, none, []⟩
  let run := startBlocks.foldl (fun (x : List (Nat × Option Nat) × Zone) b =>
    match x.2.startBist b (find b) with
    | (true, _, s) => (x.1 ++ [(b, none)], s)
    | (false, some i, s) => (x.1 ++ [(b, some i)], s)
    | (false, none, s) => (x.1, s)) (([] : List (Nat × Option Nat)), s)
  let bad := run.1
  let s := (run.2.setFld (pTEST 0) TEST0.BIST_STATUS_RUNNING 0).setStart fun x => { x with judged := true }
  let failed (b : Nat) : Bool := bad.any fun e => e.1 == b
  if failed 0 && failed 1 then s.startFail Reason.keepers 0
  else match bad.find? fun e => decide (2 ≤ e.1) with
    | some (b, none) => s.startFail Reason.logicBist (BitVec.ofNat 32 b)
    | some (b, some i) => s.startFail Reason.memoryBist (BitVec.ofNat 32 (b * 256 + i))
    | none => ((s.when (failed 0) (·.bistKeeper .A)).when (failed 1) (·.bistKeeper .B)).wakePorts.setPhase 3

/-! ### Boot (R656 to R659) -/

/-- The fields of the boot header. -/
def bootSplit (h : List Byte) : Nat := leAt h 6 1
def bootSafetySize (h : List Byte) : Nat := leAt h 0x24 4

/-- Whether the boot header is in form (R659). -/
def bootFormat (h : List Byte) : Bool :=
  decide (h.length = 256 ∧ leAt h 0 4 = 0x54425A46 ∧ leAt h 4 2 = 1 ∧ bootSplit h < 16 ∧ leAt h 7 1 ≤ 15 ∧
    1 ≤ leAt h 0x0C 4 ∧ leAt h 0x0C 4 ≤ 67108864 ∧ 1 ≤ bootSafetySize h ∧ bootSafetySize h ≤ 2097152 ∧
    leAt h 0x2C 2 = 2) && imZero h 0x2E 2 && imZero h 0x90 16

/-- The key that verifies the boot header: the public key of the lowest slot that serves, or the provisioning key of the ROM in
FACTORY and RETURN where the keyring holds no TYPE 7 table-signing key at all. -/
def bootKey (s : Zone) (h : List Byte) : Option (List Byte) :=
  match s.signingKey 7 (leAt h 0x28 4) with
  | some k => some k.key
  | none =>
    let any := (List.range 256).any fun n => attrTable (s.keySlot n).attr && decide ((s.keySlot n).type = 7)
    if !any && (decide (s.lifeCycle = 1) || decide (s.lifeCycle = 3)) then some Config.provisioningKey else none

/-- The detail with which BOOT_IMAGE fails, none where header and images verify. -/
def bootCheck (s : Zone) (h secure safety : List Byte) : Option Nat :=
  if !bootFormat h then some 1
  else match s.bootKey h with
    | none => some 3
    | some key =>
      if !ecdsaVerify 7 key (sha 1 (h.take 0xA0)) (h.drop 0xA0) then some 2
      else if secure.length ≠ leAt h 0x0C 4 ∨ sha 1 secure ≠ (h.drop 0x30).take 48 then some 4
      else if safety.length ≠ bootSafetySize h ∨ sha 1 safety ≠ (h.drop 0x60).take 48 then some 5
      else none

/-- The boot ROM copies the images and releases the clusters (R659, R490); where a debugger has attached in this start, the cores
execute in single pass (R493). -/
def releaseClusters (s : Zone) (h secure safety : List Byte) : Zone :=
  let s := s.storeBytes (leAt h 0x10 8) secure
  let split (n : Nat) : Bool := match s.fuses.safetyMode with
    | 1 => false
    | 2 => true
    | _ => (bootSplit h).testBit n
  let s := s.forEach (List.range 4) fun (s : Zone) (n : Nat) =>
    s.setCore n { CoreSt.init with cyclesFrom := s.mono, split := split n, single := !split n && s.flag pSAFE SAFE0.MON_STATUS_DUALPASS_OFF }
  let s := (s.storeBytes 0x1E0000000 safety)
  { s with harts := SMap.set (fun _ => HartSt.init) [] 0 { HartSt.init with atBoot := true },
           start := { s.start with released := true, entry := BitVec.ofNat 64 (leAt h 0x18 8) } }

/-- The health that START_COMPLETE waits for (R660). -/
def startReady (s : Zone) : Bool :=
  match s.holder with
  | none => false
  | some k =>
    (s.runTable k).any (fun t => decide (t.kind = if s.maintenance then 1 else 0)) && decide (s.phase = 7 ∧ s.secState = SecState.ready) &&
      s.flag (pZONE 6) ZONE6.READY_SAFETY && decide ((s.keeper k).slot = 0)

/-- SERVICE begins (R39, R660). -/
def enterService (s : Zone) : Zone :=
  let s := (s.setState .service Cause.started).setPhase 8
  let s := s.setFld (pZONE 6) ZONE6.START_TIMES_T_SERVICE (satU 16 ((s.mono - s.start.entered) / ticksPerMs))
  (s.setStart fun x => { x with serviceAt := some s.mono }).showFigures.firstEntry

/-! ### Life-cycle (R612, R613) -/

/-- A refused request of the life-cycle. -/
def lcRefuse (s : Zone) (code : Nat) : Zone := s.setFld (pTEST 2) TEST2.LC_RESULT_CODE code

/-- Whether TEST.2 holds a valid return token (R613). -/
def tokenValid (s : Zone) : Bool :=
  let t := s.pageBytes (pTEST 2) 0x100 112
  let pub := s.pageBytes (pTEST 2) 0x180 96
  let nonce := s.pageBytes (pTEST 2) TEST2.LC_NONCE_LC_NONCE.off 32
  decide (t.take 8 = s.serialBytes) && imZero t 8 8 && decide (sha 0 pub = s.fuses.returnAuth) &&
    ecdsaVerify 7 pub (sha 1 (ascii "FZ52/RETURN" ++ s.serialBytes ++ nonce)) (t.drop 16)

/-- An accepted request: the fuses of a bit of LC are being blown. -/
def lcBlow (s : Zone) (bit : Nat) : Zone := { s with fuses := { s.fuses with advancing := some bit } }

/-- A request of the life-cycle for a state by its code (R612). -/
def lcRequest (s : Zone) (target : Nat) (testPort : Bool) : Zone :=
  let now := s.lifeCycle
  if !s.inMode [.start, .service, .lightship, .test] || s.fuses.advancing.isSome then s
  else match target with
    | 1 => if now = 0 ∧ testPort then (if s.rootOk then s.lcBlow 0 else s.lcRefuse 4) else s.lcRefuse 1
    | 2 => if now = 1 then s.lcBlow 1 else s.lcRefuse 1
    | 3 => if now = 2 ∧ !testPort then (if s.tokenValid then s.lcBlow 2 else s.lcRefuse 2) else s.lcRefuse 1
    | _ => if now = 4 then s.lcRefuse 1 else (s.setKeyring fun x => { x with record := none }).lcBlow 3

end Zone

/-! ### Windows and BIST -/

/-- The window of a block is confirmed; with those of every START block, phase 2 begins (R648, R650). -/
def execWindowConfirm (block : Fin 20) (st : State) : Result := st.run fun s =>
  if !s.inMode [.start] || s.start.exhausted || s.start.judged || !s.windowsHeld then s
  else
    let s := s.setStart fun x => { x with confirmed := if x.confirmed.contains block.val then x.confirmed else block.val :: x.confirmed }
    let s := s.when (decide (s.phase = 0)) (·.setPhase 1)
    if startBlocks.all s.start.confirmed.contains ∧ s.phase = 1 then
      (s.setPhase 2).setFld (pTEST 0) TEST0.BIST_STATUS_RUNNING 1
    else s

/-- 100 ms without the windows of phase 2 (R650); `domain` is none for the supply. -/
def execWindowTimeout (domain : Option (Fin 10)) (st : State) : Result := st.run fun s =>
  if s.start.judged || startBlocks.all s.start.confirmed.contains || !s.past s.start.entered (100 * Zone.ticksPerMs) then s
  else (s.when (decide (s.phase = 0) && s.startCounts) (·.setPhase 1)).startFail Reason.window
    (BitVec.ofNat 32 (s.windowDetail domain))

/-- A window is lost during a block's BIST (R650). -/
def execBistWindowAbort (block : Fin 20) (st : State) : Result := st.run fun s =>
  if s.inMode [.start] && s.start.confirmed.contains block.val && decide (s.phase = 2) then
    let s := s.setStart fun x => { x with confirmed := x.confirmed.erase block.val }
    (s.count (pTEST 0) TEST0.BIST_COUNTS_WINDOW_ABORTS).bistResult block.val 3 0 0 0 none
  else s

/-- Phase 2 is complete (R655). -/
def execBistDone (results : List BlockBist) (st : State) : Result := st.run fun s =>
  if s.inMode [.start] && decide (s.phase = 2) && startBlocks.all s.start.confirmed.contains then s.judgeBist results else s

/-- A write of BIST_CTRL.START with MEMORY 0 in TEST (R651, R652, R614). -/
def execLogicBistStart (writer : Writer) (block : BitVec 6) (failure : Option (Fin 64 × Word)) (st : State) : Result :=
  st.runBy writer fun s =>
    let b := block.toNat
    if !Zone.secureWriter writer || !s.inMode [.test] || !blockLogic b || (decide (18 ≤ b) && decide (s.lifeCycle ≠ 1 ∧ s.lifeCycle ≠ 3)) then s
    else ((s.bistErases b false).count (pTEST 0) TEST0.BIST_COUNTS_RUNS).logicBist b failure

/-- The same with MEMORY 1 (R653). -/
def execMemoryBistStart (writer : Writer) (block : BitVec 6) (runs : List MemoryRun) (st : State) : Result :=
  st.runBy writer fun s =>
    let b := block.toNat
    if !Zone.secureWriter writer || !s.inMode [.test] || !blockMemory b || (decide (18 ≤ b) && decide (s.lifeCycle ≠ 1 ∧ s.lifeCycle ≠ 3)) then s
    else ((s.count (pTEST 0) TEST0.BIST_COUNTS_RUNS).memoryBist b runs).2.bistErases b true

/-- A write of REPAIR_PROG.GO (R654); `good` tells whether the entry reads back. -/
def execRepairProg (writer : Writer) (good : Bool) (st : State) : Result := st.runBy writer fun s =>
  let e := s.rd (pTEST 1 + TEST1.REPAIR_ENTRY_ENTRY.off)
  let code (s : Zone) (c : Nat) : Zone := s.setFld (pTEST 1) TEST1.REPAIR_RESULT_CODE c
  let spare := e.toNat / 2 ^ 16 % 16
  if !Zone.secureWriter writer then s
  else if !s.inMode [.test] || decide (s.lifeCycle ≠ 1 ∧ s.lifeCycle ≠ 3) then code s 1
  else if 64 ≤ s.fuses.repair.length then code s 2
  else if !bitOf e 31 || !blockMemory (e.toNat / 2 ^ 24 % 64) || decide ((if bitOf e 30 then 3 else 7) < spare) then code s 3
  else if !good then code s 4
  else code { s with fuses := { s.fuses with repair := SMap.set (fun _ => 0) s.fuses.repair s.fuses.repair.length e } } 0

/-! ### Boot -/

/-- The end of phase 3: the keyring record (`record` tells whether it passes its check) and the lightship image, none where it
cannot be read (R648). In BLANK and SCRAP the boot ROM stops before any table loads (R614). -/
def execBootRomDone (record : Bool) (image : Option (List Byte)) (st : State) : Result := st.run fun s =>
  if !s.inMode [.start] || decide (s.phase ≠ 3) then s
  else if s.root.isNone then s.bootKeys record
  else ((s.bootKeys record).setStart fun x => { x with partition := image }).setPhase 4

/-- The end of phase 4 (R657). -/
def execLsVerdict (st : State) : Result := st.run fun s =>
  if !s.inMode [.start] || decide (s.phase ≠ 4) then s
  else match s.lsVerdict with
    | some (l, none) => (s.loadLightship l).setPhase 5
    | some (_, e) => s.startFail Reason.lsImage (Zone.imageDetail e)
    | none => s.startFail Reason.lsImage (Zone.imageDetail none)

/-- The boot ROM has read the header and both images (R659). -/
def execBootImagesVerified (header secure safety : List Byte) (st : State) : Result := st.run fun s =>
  if !s.inMode [.start] || decide (s.phase ≠ 6) || s.start.released then s
  else match s.bootCheck header secure safety with
    | some d => s.startFail Reason.bootImage (BitVec.ofNat 32 d)
    | none =>
      let s := s.releaseClusters header secure safety
      if s.maintenance then s.setPhase 7 else s

/-- Both loaders judge the service table (R659). -/
def execServiceTableVerdict (image : Option (List Byte)) (st : State) : Result := st.run fun s =>
  if !s.inMode [.start] || decide (s.phase ≠ 6) || !s.start.released || s.maintenance then s
  else match image with
    | none => s.startFail Reason.serviceTable (Zone.imageDetail none)
    | some l =>
      match s.loaderCheck 0 l with
      | some e => s.startFail Reason.serviceTable (Zone.imageDetail (some e))
      | none => (s.loadHealthy (tableOf l)).setPhase 7

/-- A write of READY.SAFETY (R660); ZONE.6 accepts writes of the secure world only. -/
def execSafetyReady (writer : Writer) (st : State) : Result := st.runBy writer fun s =>
  if Zone.secureWriter writer then s.setFld (pZONE 6) ZONE6.READY_SAFETY 1 else s

/-- A round boundary with every readiness met (R660). -/
def execStartComplete (st : State) : Result := st.run fun s =>
  if s.inMode [.start] && s.startReady then s.enterService else s

/-- A write of RAISE_FLOOR (R235, R673). -/
def Zone.lsRaiseFloor (s : Zone) : Zone :=
  match s.start.lsVersion with
  | some v =>
    if s.inMode [.service] then
      s.setFld (pZONE 1) KEEPER.FLOOR_LIGHTSHIP_VERSION (max v.toNat (s.fld (pZONE 1) KEEPER.FLOOR_LIGHTSHIP_VERSION))
    else s
  | none => s

/-- A write of LS_CTRL.RAISE_FLOOR (R673). -/
def execLsRaiseFloor (writer : Writer) (st : State) : Result := st.runBy writer fun s =>
  if Zone.secureWriter writer then s.lsRaiseFloor else s

/-! ### Life-cycle -/

/-- A write of LC_ADVANCE: by the test port, or by firmware of the secure world (R612). -/
def State.runLc (st : State) (writer : Writer) (testPort : Bool) (f : Zone → Zone) : Result :=
  if testPort then st.run f else st.runBy writer fun s => if Zone.secureWriter writer then f s else s

def execLcToFactory (writer : Writer) (testPort : Bool) (st : State) : Result :=
  st.runLc writer testPort fun s => s.lcRequest 1 testPort
def execLcToField (writer : Writer) (testPort : Bool) (st : State) : Result :=
  st.runLc writer testPort fun s => s.lcRequest 2 testPort
def execLcToReturn (writer : Writer) (testPort : Bool) (st : State) : Result :=
  st.runLc writer testPort fun s => s.lcRequest 3 testPort
def execLcToScrap (writer : Writer) (testPort : Bool) (st : State) : Result :=
  st.runLc writer testPort fun s => s.lcRequest 4 testPort

/-- The copies of the bit that verify; with fewer than two the state stays (R612, R611). -/
def execLcAdvanceDone (verified : Fin 4) (st : State) : Result := st.run fun s =>
  match s.fuses.advancing with
  | none => s
  | some b =>
    if !s.inMode [.start, .service, .lightship, .test] then s
    else
      let s := { s with fuses := { s.fuses with lc := SMap.set (fun _ => 0) s.fuses.lc b verified.val } }
      (s.when (decide (verified.val < 2)) (·.lcRefuse 3)).enterStart Cause.reset false

/-- Writes of DEBUG_OPEN (R614, R621). -/
def execDebugOpenApp (writer : Writer) (st : State) : Result := st.runBy writer fun s =>
  if Zone.secureWriter writer then s.setFld (pTEST 2) TEST2.DEBUG_OPEN_APP 1 else s
def execDebugOpenSafety (writer : Writer) (st : State) : Result := st.runBy writer fun s =>
  if Zone.secureWriter writer then s.setFld (pTEST 2) TEST2.DEBUG_OPEN_SAFETY 1 else s

end Sys2Proof.Machine
end

