-- ==== Sys2Proof/Machine/Sleep.lean ====
section
/-! DEFINITION. Sleep and wake: wake sources (R450 to R453), the sleep sequence (R455, R456), wakes that meet a sleep (R457 to
R462), what follows a wake (R463, R464), the awake timer (R465 to R467), transceiver fall-back (R468). -/

namespace Sys2Proof.Machine

open Reg

namespace Zone

def setSleep (s : Zone) (f : SleepSt → SleepSt) : Zone := { s with sleep := f s.sleep }

/-! ### Wake comparators (R451, R452) -/

/-- The wetting current of a code of WETTING in mA (R452). -/
def wettingMa (code : Nat) : Nat := [0, 1, 2, 5, 10, 15].getD code 0

/-- IN_WAKE of input k: the copy of the always-on domain once the drain has ended, and the register before (R455, R457). -/
def inWake (s : Zone) (k : Nat) : Word :=
  if 2 ≤ s.sleep.phase then SMap.get (fun _ => 0) s.sleep.inWake k else s.rd (pZONE 0 + ZONE0.IN_WAKE_MODE.off + 4 * k)

/-- The switching point of the comparator of input k in mV: THRESH × 0.25 V to ±5 % ±100 mV, where in that window it lies the
implementation fixes (R451). -/
def wakePoint (k : Nat) (w : Word) : Nat :=
  let t := ZONE0.IN_WAKE_THRESH.get w * 250
  let off := t / 20 + 100
  t - off + Config.wakePoint k % (2 * off + 1)

/-- Whether the comparator of input k shows a voltage as above its threshold. -/
def comparesAbove (s : Zone) (k mV : Nat) : Bool := decide (wakePoint k (s.inWake k) < mV)

/-- Whether the level of an input lies above the threshold of IN_WAKE, from its last sample; of an input without a sample the spec
gives no level (log entry 2). -/
def inputAbove (s : Zone) (k : Nat) : Bool × Zone :=
  match (s.input k).samples with
  | v :: _ => (s.comparesAbove k v, s)
  | [] => (s.fresh.1.getLsbD 0, s.fresh.2)

/-- The level of input k becomes its reference (R451). -/
def takeReference (s : Zone) (k : Nat) : Zone :=
  let x := s.inputAbove k
  x.2.setSleep fun y => { y with refs := SMap.set (fun _ => false) y.refs k x.1, polls := SMap.set (fun _ => 0) y.polls k 0 }

/-- Whether a level of input k is the condition of its MODE. -/
def wakeShows (s : Zone) (k : Nat) (above : Bool) : Bool :=
  let ref := SMap.get (fun _ => false) s.sleep.refs k
  match ZONE0.IN_WAKE_MODE.get (s.inWake k) with
  | 1 => above && !ref
  | 2 => !above && ref
  | 3 => above != ref
  | 4 => above
  | 5 => !above
  | _ => false

/-- A level that is no wake: an input that has left the side its MODE waits for can cross again (R451). -/
def wakeRearm (s : Zone) (k : Nat) (above : Bool) : Zone :=
  s.setSleep fun x => { x with refs := SMap.set (fun _ => false) x.refs k above }

/-! ### Wakes (R457 to R460) -/

/-- What WAKE_SEEN showed of the wake before is gone with a new one (R469). -/
def forgetSeen (s : Zone) : Zone :=
  (s.wr (pZONE 0 + ZONE0.WAKE_SEEN_INPUT.off) 0).wr (pZONE 0 + ZONE0.WAKE_SEEN_ETH_PORT.off) 0

/-- A source that woke shows in WAKE_SEEN. -/
def wakeSeen (s : Zone) (kind index : Nat) : Zone :=
  let p := pZONE 0
  match kind with
  | 1 => s.setFldBit p ZONE0.WAKE_SEEN_INPUT index true
  | 2 => s.setFldBit p ZONE0.WAKE_SEEN_CAN index true
  | 3 => s.setFldBit p ZONE0.WAKE_SEEN_ETH_PORT (index - 16) true
  | 4 => s.setFld p ZONE0.WAKE_SEEN_ETH_TIMER 1
  | _ => s

def setWakeSrc (s : Zone) (kind index : Nat) (late : Bool) : Zone :=
  ((s.setFld (pZONE 0) ZONE0.WAKE_SRC_KIND kind).setFld (pZONE 0) ZONE0.WAKE_SRC_INDEX index).setFlag (pZONE 0) ZONE0.WAKE_SRC_LATE late

/-- The channel that woke the module shows it (R433). -/
def wokeCan (s : Zone) (c : Nat) : Zone := (s.setFld (pCAN c) CAN.SW_STATUS_WOKE 1).event (pCAN c) CAN.CHAN_EVENT_WAKE

/-- The notice of R462. -/
def sleepNotice (s : Zone) (outcome : Nat) : Zone :=
  s.notice 0x0009 (leBytes 4 outcome ++ leBytes 4 (s.rd (pZONE 0 + ZONE0.WAKE_SRC_KIND.off)).toNat)

/-- A wake before the commit point cancels the sleep (R458). -/
def sleepCancel (s : Zone) (kind index : Nat) : Zone :=
  let p := pZONE 0
  let s := (s.setFld p ZONE0.STATE_SLEEP_PENDING 0).setFld p ZONE0.SLEEP_STATUS_CAUSE 0
  let s := (s.event p ZONE0.SLEEP_EVENT_CANCELLED).count p ZONE0.SLEEP_COUNTS_CANCELLED
  let s := (s.setWakeSrc kind index false).when (decide (kind = 2)) (·.wokeCan index)
  let s := s.setSleep fun x => { x with phase := 0, awakeFrom := s.mono, timer := none, latched := none }
  (s.post p ZONE0.SLEEP_EVENT_CANCELLED).sleepNotice 2

/-- A wake of the drain or the arming cancels the sleep at the end of its always-on cycle (R458, R460), unless the end of arming falls
in that cycle (R459; log entry 66). -/
def wakeCancels (s : Zone) : Zone :=
  match s.sleep.latched with
  | some w => if (s.sleep.phase = 1 ∨ s.sleep.phase = 2) ∧ w.aon < s.time.aon then s.sleepCancel w.kind w.index else s
  | none => s

/-- A wake from the commit point on (R459). -/
def wakeLate (s : Zone) (kind index : Nat) : Zone :=
  ((s.setWakeSrc kind index true).event (pZONE 0) ZONE0.SLEEP_EVENT_LATE_WAKE).count (pZONE 0) ZONE0.SLEEP_COUNTS_LATE_WAKES

/-- A source wakes: the always-on domain latches the first, and of one always-on cycle the one of lower KIND and index (R459, R460). -/
def wake (s : Zone) (kind index : Nat) : Zone :=
  if s.sleep.phase = 0 then s
  else
    let first := s.sleep.latched.isNone
    let before (w : WakeLatch) : Bool :=
      decide (w.aon = s.time.aon ∧ (kind < w.kind ∨ kind = w.kind ∧ index < w.index))
    let late := decide (3 ≤ s.sleep.phase)
    let lower := s.sleep.latched.any before
    let s := (s.when first forgetSeen).wakeSeen kind index
    if first || lower then
      let s := s.setSleep fun x => { x with latched := some ⟨s.time.aon, kind, index⟩ }
      if late && first then s.wakeLate kind index
      else s.when late (·.setWakeSrc kind index true)
    else s

/-- Whether the sources are watched: from the acknowledgement of a sleep on (R457), until START or a cancellation (R463). -/
def watches (s : Zone) : Bool := decide (1 ≤ s.sleep.phase)

/-! ### Selective wake (R433) -/

/-- Word j of the selective wake configuration of channel c, from SW_CFG on: the copy of the always-on domain once the drain has
ended, and the register before (R455, R457). -/
def swWord (s : Zone) (c j : Nat) : Word :=
  if 2 ≤ s.sleep.phase then SMap.get (fun _ => 0) s.sleep.sw (8 * c + j) else s.rd (pCAN c + CAN.SW_CFG_WAKE_EN.off + 4 * j)

/-- Whether a frame is the wake-up frame of a channel. -/
def swMatches (s : Zone) (c : Nat) (f : CanFrame) (rate : Nat) : Bool :=
  let cfg := s.swWord c 0
  let id := if f.ide then f.ident.toNat else f.ident.toNat % 2048
  let data := leBytes 4 (s.swWord c 3).toNat ++ leBytes 4 (s.swWord c 4).toNat
  f.format == 0 && decide (rate = CAN.SW_CFG_RATE.get cfg) && (f.ide == decide (CAN.SW_CFG_IDE.get cfg = 1)) &&
    decide ((id ^^^ CAN.SW_ID_ID.get (s.swWord c 1)) &&& CAN.SW_ID_MASK_MASK.get (s.swWord c 2) = 0) &&
    decide (f.dlc = CAN.SW_CFG_DLC.get cfg) &&
    (decide (CAN.SW_CFG_DATA_EN.get cfg = 0) || f.dlc == 0 || (f.data.zip data).any fun b => b.1 &&& b.2 != 0)

/-- The detector of a channel sees something: whether it wakes. FEC counts as ISO 11898-2:2016 gives, up by an error and down by
a frame, and stays at 32 (log entry 58). -/
def canSees (s : Zone) (c : Nat) (seen : CanSeen) : Bool × Zone :=
  let p := pCAN c
  let fec := s.fld p CAN.SW_STATUS_FEC
  let sw := decide (CAN.SW_CFG_SW_EN.get (s.swWord c 0) = 1)
  match seen with
  | .pattern => (!sw, s)
  | .frame f rate =>
    if !sw || f.format != 0 then (false, s)
    else (s.swMatches c f rate.val, if fec = 32 then s else s.setFld p CAN.SW_STATUS_FEC (fec - 1))
  | .error =>
    if !sw then (false, s)
    else (decide (31 ≤ fec), s.setFld p CAN.SW_STATUS_FEC (min 32 (fec + 1)))

/-! ### The sequence (R454 to R456) -/

/-- A sleep begins (R455): `cause` 1 SLEEP_REQUEST, 2 AWAKE_LIMIT. -/
def beginSleep (s : Zone) (cause wakeAfter : Nat) : Zone :=
  let p := pZONE 0
  let s := (s.setFld p ZONE0.STATE_SLEEP_PENDING 1).setFld p ZONE0.SLEEP_STATUS_CAUSE cause
  let s := (s.setFld p ZONE0.WAKE_TIMER_SECONDS wakeAfter).event p ZONE0.SLEEP_EVENT_PENDING
  let s := s.setSleep fun x => { x with phase := 1, since := s.mono, latched := none, timer := none }
  ((s.forEach (List.range 16) takeReference).post p ZONE0.SLEEP_EVENT_PENDING).closeAll 5

/-- A sleep of the awake limit ends by network management, source KIND 0 (R461). -/
def managementCancel (s : Zone) : Zone := (s.when s.sleep.latched.isNone forgetSeen).sleepCancel 0 0

/-- Valid network management (R465, R466, R461): it restarts the awake timer, and cancels a sleep of the awake limit before its
commit point. -/
def networkManagement (s : Zone) : Zone :=
  let s := s.heardBus
  match s.sleep.phase with
  | 0 => s.setSleep fun x => { x with awakeFrom := s.mono }
  | 1 => if s.fld (pZONE 0) ZONE0.SLEEP_STATUS_CAUSE = 2 then s.managementCancel else s
  | 2 => if s.fld (pZONE 0) ZONE0.SLEEP_STATUS_CAUSE = 2 then s.managementCancel else s
  | _ => s

/-- Whether some source besides the timer is configured to be armed (R450, R454). -/
def anyWakeSource (s : Zone) : Bool :=
  ((List.range 16).any fun k => decide (ZONE0.IN_WAKE_MODE.get (s.rd (pZONE 0 + ZONE0.IN_WAKE_MODE.off + 4 * k)) ≠ 0)) ||
    ((List.range 16).any fun c => s.flag (pCAN c) CAN.SW_CFG_WAKE_EN) || decide (s.fld (pZONE 0) ZONE0.ETH_WAKE_ARM ≠ 0)

/-- Whether port 16 + j is armed in this sleep. -/
def ethArmed (s : Zone) (j : Nat) : Bool := s.sleep.eth.testBit j

/-- The external PHYs at the commit point (R453): an armed port 16 to 23 with its link up sends the TC10 sleep request, armed ports go
to their low-power state, the others are powered down. -/
def ethSleep (s : Zone) : Zone :=
  let ask := (List.range 8).filter fun j => s.ethArmed j && s.flag (pPORT (16 + j)) PORT.PHY_STATUS_LINK
  let s := s.setSleep fun x => { x with
    tc10 := x.tc10 ++ ask.map fun j => ⟨16 + j, false⟩,
    phys := (List.range 28).foldl (fun m p => SMap.set (fun _ => 0) m p (if 16 ≤ p ∧ s.ethArmed (p - 16) = true then 1 else 2)) [] }
  s.forEach (List.range 28) phyDown

/-- The commit actions (R456). A wake that came in the always-on cycle of the commit point is a late one (R459). -/
def commitSleep (s : Zone) : Zone :=
  let s := s.forceOpenAll.gensOff
  let s := s.forEach (List.range 16) fun (s : Zone) (c : Nat) => ((s.canAbort c).2.setFld (pCAN c) CAN.CHAN_CFG_EN 0).canNotAlone c
  let s := s.ethSleep
  let s := (s.setRole .A Role.stopped).setRole .B Role.stopped
  let s := (s.setFld pFLEET TIME1.GLOBAL_COUNTS_DISCARDED s.pendingSlots.length).dropPending
  let s := s.calSave.closeAll 5
  let after := s.fld (pZONE 0) ZONE0.WAKE_TIMER_SECONDS
  let s := s.setSleep fun x => { x with phase := 3, since := s.mono, timer := if after = 0 then none else some (s.time.aon + after * 32768) }
  match s.sleep.latched with
  | some w => s.wakeLate w.kind w.index
  | none => s

/-- The current that the module may draw in SLEEP in nA, wetting included (R449). -/
def sleepLimit (s : Zone) : Nat :=
  let can := ((List.range 16).filter s.sleep.can.testBit).length
  let eth (l : List Nat) : Nat := (l.filter s.ethArmed).length
  150000 + 35000 * (can - 4) + 40000 * eth (List.range 8) + 30000 * eth [8, 9, 10, 11] +
    ((List.range 16).map fun k => wettingMa (ZONE0.IN_WAKE_WETTING.get (s.inWake k)) * 50000 / 2 ^ ZONE0.IN_WAKE_POLL.get (s.inWake k)).sum

end Zone

/-! ### Commands -/

/-- The drain ends: the wake configuration is copied, and network time and the always-on count are recorded together (R455). -/
def execDrainEnd (st : State) : Result := st.run fun s =>
  if s.inMode [.service, .lightship] ∧ s.sleep.phase = 1 ∧ s.past s.sleep.since (s.fld (pZONE 0) ZONE0.SLEEP_CFG_DRAIN * Zone.ticksPerMs) then
    let can := ((List.range 16).map fun c => if s.flag (pCAN c) CAN.SW_CFG_WAKE_EN then 2 ^ c else 0).sum
    s.setSleep fun x => { x with
      phase := 2, since := s.mono, can := can, eth := s.fld (pZONE 0) ZONE0.ETH_WAKE_ARM, pairNs := s.nowNs, pairAon := s.time.aon,
      inWake := (List.range 16).foldl (fun m k => SMap.set (fun _ => 0) m k (s.rd (pZONE 0 + ZONE0.IN_WAKE_MODE.off + 4 * k))) [],
      sw := (List.range 16).foldl (fun m c => (List.range 5).foldl (fun m j => SMap.set (fun _ => 0) m (8 * c + j) (s.swWord c j)) m) [] }
  else s

/-- The end of arming (R455, R456). -/
def execCommitPoint (st : State) : Result := st.run fun s =>
  if s.inMode [.service, .lightship] ∧ s.sleep.phase = 2 then s.commitSleep else s

/-- SLEEP is entered (R455, R39). -/
def execSleepEntryComplete (st : State) : Result := st.run fun s =>
  if s.inMode [.service, .lightship] ∧ s.sleep.phase = 3 then
    let s := ((s.abortCommands false).setState .sleep Cause.sleepCommit).setFld (pZONE 0) ZONE0.SLEEP_STATUS_CAUSE 0
    let s := (s.setSleep fun x => { x with phase := 4, since := s.mono }).loseDram
    { s with cores := [], harts := [], swdt := ⟨false, 0, none⟩, start := { s.start with released := false } }
  else s

/-- The comparator of an input without wetting; a condition counts once it has held for FILTER × 100 µs (R451). -/
def execInputWake (input : Fin 16) (level : WakeLevel) (st : State) : Result := st.run fun s =>
  let k := input.val
  let above := s.comparesAbove k level.millivolts
  if !s.watches || decide (ZONE0.IN_WAKE_WETTING.get (s.inWake k) ≠ 0) then s
  else if !s.wakeShows k above then s.wakeRearm k above
  else if ZONE0.IN_WAKE_FILTER.get (s.inWake k) * 100 * Zone.ticksPerUs ≤ level.ticks then s.wake 1 k else s

/-- A sample of a polled input at the end of an application of its wetting current, 2^POLL ms after the one before; a condition counts
once two consecutive samples show it (R452). -/
def execWakePoll (input : Fin 16) (millivolts : Nat) (st : State) : Result := st.run fun s =>
  let k := input.val
  let w := s.inWake k
  let code := ZONE0.IN_WAKE_WETTING.get w
  let above := s.comparesAbove k millivolts
  let early := match SMap.get (fun _ => none) s.sleep.polledAt k with
    | some t => decide (s.time.aon < t + 2 ^ ZONE0.IN_WAKE_POLL.get w * 32768 / 1000)
    | none => false
  if !s.watches || decide (code = 0) || early then s
  else
    let mA : Int := Zone.wettingMa code
    let s := s.setSleep fun x => { x with
      polledAt := SMap.set (fun _ => none) x.polledAt k (some s.time.aon),
      wetted := SMap.set (fun _ => 0) x.wetted k (if ZONE0.IN_WAKE_WET_DIR.get w = 0 then mA else -mA) }
    if s.wakeShows k above then
      let n := SMap.get (fun _ => 0) s.sleep.polls k + 1
      let s := s.setSleep fun x => { x with polls := SMap.set (fun _ => 0) x.polls k (min 2 n) }
      if 2 ≤ n then s.wake 1 k else s
    else (s.wakeRearm k above).setSleep fun x => { x with polls := SMap.set (fun _ => 0) x.polls k 0 }

/-- The detector of an armed channel sees something on the bus (R433). -/
def execCanWake (channel : Fin 16) (seen : CanSeen) (st : State) : Result := st.run fun s =>
  let c := channel.val
  let armed := if 2 ≤ s.sleep.phase then s.sleep.can.testBit c else s.flag (pCAN c) CAN.SW_CFG_WAKE_EN
  if !s.watches || !armed then s
  else
    let x := s.canSees c seen
    if x.1 then x.2.wake 2 c else x.2

/-- A TC10 wake-up at an armed port (R453). -/
def execEthWake (port : Fin 12) (st : State) : Result := st.run fun s =>
  let arm := if 2 ≤ s.sleep.phase then s.sleep.eth else s.fld (pZONE 0) ZONE0.ETH_WAKE_ARM
  if s.watches && arm.testBit port.val then s.wake 3 (16 + port.val) else s

/-- WAKE_AFTER seconds of the always-on counter after the commit point (R450). -/
def execWakeTimer (st : State) : Result := st.run fun s =>
  match s.sleep.timer with
  | some t => if 3 ≤ s.sleep.phase ∧ t ≤ s.time.aon then (s.setSleep fun x => { x with timer := none }).wake 4 0 else s
  | none => s

/-- The start after a latched wake (R459, R463): the ports that were armed are to send a TC10 wake-up (R453). -/
def execWakeStart (st : State) : Result := st.run fun s =>
  if s.inMode [.sleep] && s.sleep.latched.isSome then
    let kind := s.fld (pZONE 0) ZONE0.WAKE_SRC_KIND
    let index := s.fld (pZONE 0) ZONE0.WAKE_SRC_INDEX
    let s := s.count (pZONE 0) ZONE0.SLEEP_MISC_WAKES
    ((s.setSleep fun x => { x with wakeKind := kind, wakeUps := x.eth }).enterStart Cause.wake false).when (decide (kind = 2)) (·.wokeCan index)
  else s

/-- The awake timer reaches its limit (R466). -/
def execAwakeLimit (st : State) : Result := st.run fun s =>
  if s.inMode [.service, .lightship] && decide (s.sleep.phase = 0) &&
      s.past s.sleep.awakeFrom (s.fld (pZONE 0) ZONE0.SLEEP_CFG_AWAKE_LIMIT * 60000 * Zone.ticksPerMs) then
    let s := (s.event (pZONE 0) ZONE0.SLEEP_EVENT_AWAKE_LIMIT).count (pZONE 0) ZONE0.SLEEP_COUNTS_AWAKE_LIMIT
    (s.sleepNotice 1).beginSleep 2 0
  else s

/-- A write of KEEP_AWAKE by secure-world firmware (R465). -/
def Zone.keepAwake (s : Zone) : Zone :=
  if (s.sleep.phase = 1 ∨ s.sleep.phase = 2) ∧ s.fld (pZONE 0) ZONE0.SLEEP_STATUS_CAUSE = 1 then
    s.count (pZONE 0) ZONE0.SLEEP_MISC_KEEP_IGNORED
  else s.networkManagement

/-- A write of KEEP_AWAKE (R465, R461). -/
def execKeepAwake (writer : Writer) (st : State) : Result := st.runBy writer fun s =>
  if Zone.secureWriter writer then s.keepAwake else s

/-- 500 ms after the first entry to SERVICE or LIGHTSHIP that follows a wake (R464). -/
def execFalseWakeCheck (st : State) : Result := st.run fun s =>
  match s.sleep.firstAt with
  | some t =>
    if s.past t (500 * Zone.ticksPerMs) ∧ 1 ≤ s.sleep.wakeKind ∧ s.sleep.wakeKind ≤ 3 then
      let quiet := s.sleep.heard.all fun h => decide (t + 500 * Zone.ticksPerMs < h)
      let s := s.setSleep fun x => { x with wakeKind := 0 }
      s.when quiet fun s => (s.event (pZONE 0) ZONE0.SLEEP_EVENT_FALSE_WAKE).count (pZONE 0) ZONE0.SLEEP_COUNTS_FALSE_WAKES
    else s
  | none => s

/-! ### Transceiver fall-back (R468): channel 0 to 15 CAN, 16 to 21 LIN -/

namespace Zone

def inFallback (s : Zone) (n : Nat) : Bool :=
  if n < 16 then s.fldBit (pZONE 0) ZONE0.TRX_FALLBACK_ACTIVE n else s.fldBit (pZONE 0) ZONE0.TRX_FALLBACK_LIN_ACTIVE (n - 16)

def setFallback (s : Zone) (n : Nat) (b : Bool) : Zone :=
  if n < 16 then s.setFldBit (pZONE 0) ZONE0.TRX_FALLBACK_ACTIVE n b else s.setFldBit (pZONE 0) ZONE0.TRX_FALLBACK_LIN_ACTIVE (n - 16) b

/-- The tick of the last service of a transceiver's watchdog. -/
def servedAt (s : Zone) (n : Nat) : Nat := max s.start.entered (SMap.get (fun _ => 0) s.sleep.served n)

end Zone

/-- The controller serves the watchdog: a transceiver in fall-back returns, and a CAN controller integrates into its bus (R413). -/
def execTrxWatchdogServe (channel : Fin 22) (st : State) : Result := st.run fun s =>
  let n := channel.val
  if !s.logicRuns || s.time.stopped then s
  else
    let was := s.inFallback n
    let s := (s.setSleep fun x => { x with served := SMap.set (fun _ => 0) x.served n s.mono }).setFallback n false
    s.when (was && decide (n < 16)) (·.canActive n)

/-- 200 ms ±10 % unserved: no transceiver falls back before 180 ms. -/
def execTrxFallback (channel : Fin 22) (st : State) : Result := st.run fun s =>
  let n := channel.val
  if s.inMode [.off] || s.inFallback n || !s.past (s.servedAt n) (180 * Zone.ticksPerMs) then s
  else (s.setFallback n true).count (pZONE 0) ZONE0.TRX_FALLBACK_ENTRIES

def execFallbackWake (channel : Fin 16) (seen : CanSeen) (st : State) : Result := st.run fun s =>
  let c := channel.val
  if s.inFallback c && s.flag (pCAN c) CAN.SW_CFG_WAKE_EN then
    let x := s.canSees c seen
    if x.1 then x.2.setFldBit (pZONE 0) ZONE0.TRX_WAKE_WAKE_SEEN c true else x.2
  else s

end Sys2Proof.Machine
end

