-- ==== Sys2Proof/Machine/Supervisor.lean ====
section
/-! DEFINITION. The supervisor link (R42 to R51): the start notice, the checks of R46, and the twenty supervisor commands. -/

namespace Sys2Proof.Machine

open Reg

/-! Status codes (R47). -/
namespace Status
@[reducible] def ok : Nat := 0
@[reducible] def replay : Nat := 4
@[reducible] def unbound : Nat := 5
@[reducible] def state : Nat := 6
@[reducible] def lifecycle : Nat := 7
@[reducible] def busy : Nat := 8
@[reducible] def arg : Nat := 9
end Status

/-! Command codes (R50). -/
namespace Code
@[reducible] def getStatus : Nat := 0x01
@[reducible] def reset : Nat := 0x02
@[reducible] def bind : Nat := 0x03
@[reducible] def profile : Nat := 0x04
@[reducible] def load : Nat := 0x05
@[reducible] def commit : Nat := 0x06
@[reducible] def rollback : Nat := 0x07
@[reducible] def watch : Nat := 0x08
@[reducible] def sleep : Nat := 0x09
@[reducible] def schedule : Nat := 0x0A
@[reducible] def cancel : Nat := 0x0B
@[reducible] def force : Nat := 0x0C
@[reducible] def grant : Nat := 0x0D
@[reducible] def roll : Nat := 0x0E
@[reducible] def freeze : Nat := 0x0F
@[reducible] def reasons : Nat := 0x10
@[reducible] def clear : Nat := 0x11
@[reducible] def exitLightship : Nat := 0x12
@[reducible] def enterTest : Nat := 0x13
@[reducible] def exitTest : Nat := 0x14
end Code

/-- Whether a command is legal in a module state (R50). -/
def legalIn (code : Nat) (m : Mode) : Bool :=
  match m with
  | .start => [Code.getStatus, Code.reset].contains code
  | .service => !([Code.exitLightship, Code.exitTest].contains code)
  | .lightship => [Code.getStatus, Code.reset, Code.sleep, Code.force, Code.reasons, Code.clear, Code.exitLightship,
      Code.enterTest].contains code
  | .test => [Code.getStatus, Code.reset, Code.exitTest].contains code
  | _ => false

/-- The commands that alter tables or the watch, one of which excludes the others (R48). -/
@[reducible] def tableCodes : List Nat := [Code.load, Code.commit, Code.rollback, Code.watch]

namespace Zone

def setSupv (s : Zone) (f : SupervisorSt → SupervisorSt) : Zone := { s with supv := f s.supv }

/-- A command is accepted and executes from here on (R48). -/
def accept (s : Zone) (code : Nat) (seq : BitVec 32) (answerDue : Bool) : Zone :=
  s.setSupv fun x => { x with executing := x.executing ++ [⟨code, seq, answerDue⟩] }

/-! ### The management queue -/

/-- Whether a backbone port has its link. -/
def backboneUp (s : Zone) : Bool := (List.range 4).any fun p => s.flag (pPORT p) PORT.PHY_STATUS_LINK

/-- Whether the management queue runs: never in OFF, SLEEP or past a commit point, and in START with the backbone (R50). -/
def mgmtRuns (s : Zone) : Bool :=
  s.inMode [.start, .service, .lightship, .test] && decide (s.sleep.phase < 3) && (decide (s.mode ≠ .start) || s.backboneUp)

/-- The 16 bytes of GET_STATUS (R50). -/
def statusBytes (s : Zone) : List Byte :=
  leBytes 4 (s.rd (pZONE 0 + ZONE0.STATE_CURRENT.off)).toNat ++ leBytes 4 (s.rd (pZONE 0 + ZONE0.SUPV_BOUND.off)).toNat ++
    leBytes 4 (s.rd (pZONE 7 + ZONE7.PROFILE_REQ.off)).toNat ++ leBytes 4 s.failedCount

/-- The start notice (R44): due first as soon as the queue runs, then every second. -/
def startNotice (s : Zone) (again : Bool) : Zone :=
  match s.supv.noticeDue with
  | none => s
  | some t =>
    if s.mgmtRuns && (again == decide (t ≠ 0)) && decide (t ≤ s.mono) then
      let s := s.notice 0x0001 (leBytes 4 (s.rd (pZONE 6 + ZONE6.START_COUNT_COUNT.off)).toNat ++ s.statusBytes)
      s.setSupv fun x => { x with noticeDue := some (s.mono + 1000 * ticksPerMs) }
    else s

/-! ### The checks of R46 -/

/-- Whether a grant of a keyring slot by the supervisor runs (R48). -/
def slotGrantRuns (s : Zone) : Bool := s.grant.any fun g => g.cmd.isSome && decide (grantKind g = 4)

/-- Check 8: whether a command that executes conflicts with one that arrives (R48). -/
def conflicts (s : Zone) (code : Nat) : Bool :=
  let runs (l : List Nat) : Bool := s.supv.executing.any fun e => l.contains e.code
  if tableCodes.contains code then runs tableCodes
  else if code = Code.sleep then (s.supv.executing.any fun e => decide (e.code = Code.load) && e.answerDue) || runs [Code.force]
  else if code = Code.force then runs [Code.force]
  else if code = Code.grant then runs [Code.grant]
  else if code = Code.roll then runs [Code.bind] || s.slotGrantRuns
  else if code = Code.bind then runs [Code.bind] || s.slotGrantRuns
  else if code = Code.enterTest then !s.supv.executing.isEmpty
  else false

/-- Check 7 (R615). -/
def lifeCyclePermits (s : Zone) (code : Nat) : Bool :=
  if code = Code.enterTest then decide (s.lifeCycle = 1 ∨ s.lifeCycle = 3)
  else decide (1 ≤ s.lifeCycle ∧ s.lifeCycle ≤ 3)

/-- Checks 5 to 9 of R46, past the sequence check; `argOk` is check 9 and `effect` what the command does. -/
def judged (s : Zone) (code : Nat) (seq : BitVec 32) (argOk : Bool) (effect : Zone → Zone) : Zone :=
  let refuse (st : Nat) : Zone := s.send code seq st []
  if !s.flag (pZONE 0) ZONE0.SUPV_BOUND && !([Code.getStatus, Code.bind].contains code) then refuse Status.unbound
  else if !legalIn code s.mode || (s.flag (pZONE 0) ZONE0.STATE_SLEEP_PENDING && decide (code ≠ Code.getStatus)) then
    (refuse Status.state).count (pZONE 0) ZONE0.CMD_REJECT_STATE
  else if !s.lifeCyclePermits code then refuse Status.lifecycle
  else if s.conflicts code then refuse Status.busy
  else if !argOk then refuse Status.arg
  else effect s

/-- Check 3 of R46: the MAC verifies with the session key of this start. -/
def macOk (s : Zone) (code : Nat) (e : Envelope) : Bool :=
  match s.supv.sessionKey with
  | none => false
  | some k => e.mac == cmac k (envelopeBytes code e.seq.toNat e.node.toNat 0 0 e.args)

/-- A command that passes check 4 raises the highest accepted SEQ, and is valid network management (R46, R465). That comes before its own
check 6: a command that cancels a sleep of the awake limit is judged with SLEEP_PENDING 0; R50, R461 and R465 leave the order open
(log entry 91). -/
def seqAccepted (s : Zone) (seq : BitVec 32) : Zone :=
  ((s.setSupv fun x => { x with seqHigh := some seq }).setFld (pZONE 0) ZONE0.SUPV_SEQ_HIGH_LO seq.toNat).networkManagement

/-- A supervisor command arrives: the checks of R46 in their order, then its effect. -/
def command (s : Zone) (code : Nat) (e : Envelope) (argOk : Zone → Bool) (effect : Zone → Zone) : Zone :=
  let p := pZONE 0
  if !s.mgmtRuns then s
  else if 1024 < e.args.length then s.count p ZONE0.CMD_REJECT_FORMAT
  else if e.node.toNat ≠ s.node then s.count p ZONE0.CMD_REJECT_OTHER_NODE
  else if !s.macOk code e then s.count p ZONE0.CMD_REJECT_AUTH
  else
    let s := s.setSupv fun x => { x with noticeDue := none }
    if e.seq.toNat ≤ (s.supv.seqHigh.getD 0).toNat then s.send code e.seq Status.replay []
    else
      let s := s.seqAccepted e.seq
      s.judged code e.seq (argOk s) effect

/-! ### Arguments -/

/-- A command without arguments. -/
def noArgs (e : Envelope) : Zone → Bool := fun _ => e.args.isEmpty

/-- A command with one argument word that is at most `top`. -/
def wordArg (e : Envelope) (top : Nat) : Zone → Bool := fun _ => decide (e.args.length = 4 ∧ leAt e.args 0 4 ≤ top)

/-! ### Tables and the watch (R225 to R234) -/

/-- Whether a table is in trial, begun or about to begin (R231). -/
def inTrial (s : Zone) : Bool :=
  decide (s.role .A = Role.trial ∨ s.role .B = Role.trial) || (match s.watch.change with | some (.trial, _) => true | _ => false)

/-- Whether the standby is ready (R226); a commit waives the tag and finds the standby in trial (R232). -/
def standbyReady (s : Zone) (commit : Bool) : Bool :=
  match s.holder with
  | none => false
  | some h =>
    let i := h.other
    let p := pKEEPER i
    decide (s.role i = if commit then Role.trial else Role.standby) && s.mirrorUp i && !s.flag p KEEPER.KSTATUS_MIRROR_STALE &&
      decide (64 ≤ (if commit then (s.keeper h).other.valid else (s.keeper h).other.same)) &&
      decide (64 ≤ (s.keeper h).rounds ∧ 64 ≤ (s.keeper i).rounds)

/-- Answer a table command with a result word. -/
def tableResult (s : Zone) (code : Nat) (seq : BitVec 32) (word : Nat) : Zone := s.send code seq Status.ok (leBytes 4 word)

/-- LOAD_TABLE (R230); `stored` is the image at the index. -/
def loadTable (s : Zone) (seq : BitVec 32) (stored : Option (List Byte)) : Zone :=
  let both (c : Nat) : Zone := (s.accept Code.load seq true).answerLoad seq (loadWord c 0) (loadWord c 0)
  if s.inTrial then both 0x22
  else if !s.healthy .A || !s.healthy .B then both 0x20
  else match stored with
    | none => both 0x21
    | some l =>
      let s := s.accept Code.load seq true
      { s with watch := { s.watch with load := some ⟨seq, l, none, none⟩ } }

/-- A watch change is scheduled for a command, which stays executing until it takes effect (R232, R234). -/
def schedWatch (s : Zone) (code : Nat) (seq : BitVec 32) (commit raise : Bool) : Zone :=
  let s := (s.tableResult code seq 0).accept code seq false
  { s with watch := { s.watch with sched := some ⟨some (code, seq), commit, raise⟩ } }

/-- COMMIT_TABLE (R232). -/
def commitTable (s : Zone) (seq : BitVec 32) (arg : Nat) : Zone :=
  let k := if s.role .B = Role.trial then Keeper.B else Keeper.A
  let no (w : Nat) : Zone := s.tableResult Code.commit seq w
  let begun := decide (s.role k = Role.trial)
  if !s.inTrial then no 0x23
  else if !begun || decide (s.fld (pKEEPER k) KEEPER.TRIAL_ROUNDS < 64) then no 0x24
  else if 0 < s.fld (pKEEPER k) KEEPER.TRIAL_FAULTS ∧ ¬arg.testBit 1 then no 0x25
  else if !s.standbyReady true then no 0x28
  else s.schedWatch Code.commit seq true (arg.testBit 0)

/-- The resident table that a rollback outside a trial returns to, with its reject code where it cannot (R233). -/
def rollbackCheck (s : Zone) : Nat :=
  match s.holder with
  | none => 0x26
  | some h =>
    match s.resTable h with
    | none => 0x26
    | some t =>
      if s.resState h ≠ 2 then 0x26
      else if t.version.toNat < s.fld (pZONE 1) (if t.kind = 1 then KEEPER.FLOOR_LIGHTSHIP_VERSION else KEEPER.FLOOR_SERVICE_VERSION) then
        0x27
      else 0

/-- ROLLBACK_TABLE (R233). -/
def rollbackTable (s : Zone) (seq : BitVec 32) : Zone :=
  let w := if s.inTrial then 0 else s.rollbackCheck
  let s := s.tableResult Code.rollback seq w
  if w ≠ 0 then s
  else
    let s := s.accept Code.rollback seq false
    { s with watch := { s.watch with change := some (.rollback, some seq) } }

/-- WATCH_CHANGE (R234). -/
def watchChange (s : Zone) (seq : BitVec 32) : Zone :=
  if s.inTrial then s.tableResult Code.watch seq 0x22
  else if !s.standbyReady false then s.tableResult Code.watch seq 0x28
  else s.schedWatch Code.watch seq false false

/-! ### Fleet operations (R400, R401, R404) -/

/-- AT of the arguments of SCHEDULE_GLOBAL in ns. -/
def globalAt (args : List Byte) : Nat := leAt args 8 8 * 1000000000 + leAt args 16 4

/-- Check 9 of SCHEDULE_GLOBAL (R400). -/
def globalArgsOk (s : Zone) (args : List Byte) : Bool :=
  let param := leAt args 20 4
  decide (args.length = 24 ∧ leAt args 0 4 ≠ 0 ∧ leAt args 6 2 = 0 ∧ leAt args 8 8 < 2 ^ 48 ∧ leAt args 16 4 < 1000000000 ∧
    globalAt args ≤ s.nowNs + 86400 * 1000000000) &&
    (match leAt args 4 2 with
     | 1 => decide (param = 0)
     | 2 => decide (1 ≤ param ∧ param ≤ 15)
     | 3 => decide (param = 0)
     | 4 => decide (param ≤ 3)
     | 5 => decide (param ≤ 15)
     | _ => false)

/-- SCHEDULE_GLOBAL: the operation takes the lowest slot that is not pending (R401, R408). -/
def scheduleGlobal (s : Zone) (seq : BitVec 32) (args : List Byte) : Zone :=
  let res (s : Zone) (c : Nat) : Zone := s.send Code.schedule seq Status.ok (leBytes 4 c)
  let op := leAt args 0 4
  if s.tstate = TS.unset ∨ s.tstate = TS.coarse then res s 0x30
  else if globalAt args < s.nowNs + 2000000 then res (s.count pFLEET TIME1.GLOBAL_COUNTS_TOO_LATE) 0x31
  else if s.pendingSlots.any fun k => s.slotWord k 0 == op then res s 0x32
  else match (List.range 16).find? fun k => s.slotState k != 1 with
    | none => res s 0x33
    | some k =>
      let sec := leAt args 8 8
      let s := (s.setSlotWord k 0 op).setSlotWord k 1 (leAt args 4 2)
      let s := ((s.setSlotWord k 2 (leAt args 16 4)).setSlotWord k 3 (sec % 2 ^ 32)).setSlotWord k 4 (sec / 2 ^ 32)
      let s := (s.setSlotWord k 5 (leAt args 20 4)).setSlotState k 1
      let s := { s with time := { s.time with late := s.time.late &&& ~~~(1#16 <<< k) } }
      res s 0

/-- CANCEL_GLOBAL (R404). -/
def cancelGlobal (s : Zone) (seq : BitVec 32) (op : Nat) : Zone :=
  let res (s : Zone) (c : Nat) : Zone := s.send Code.cancel seq Status.ok (leBytes 4 c)
  match s.pendingSlots.find? fun k => s.slotWord k 0 == op with
  | some k => res ((s.setSlotState k 3).count pFLEET TIME1.GLOBAL_COUNTS_CANCELLED) 0
  | none => if (List.range 16).any fun k => s.slotState k == 2 && s.slotWord k 0 == op then res s 0x35 else res s 0x34

/-! ### Time (R391) -/

/-- STEP of the arguments of FORCE_TIME_STEP. -/
def forceStep (args : List Byte) : Int := toSigned 64 (leAt args 4 8)

def forceArgsOk (args : List Byte) : Bool :=
  decide (args.length = 12) &&
    (match leAt args 0 4 with
     | 0 => decide (leAt args 4 8 = 0)
     | 1 => decide (forceStep args ≠ 0 ∧ -1000000000000000 ≤ forceStep args ∧ forceStep args ≤ 1000000000000000)
     | _ => false)

/-- FORCE_TIME_STEP: MODE 0 waits for a measurement, MODE 1 for the next tick. -/
def forceTimeStep (s : Zone) (seq : BitVec 32) (args : List Byte) : Zone :=
  let s := s.accept Code.force seq true
  if leAt args 0 4 = 0 then { s with time := { s.time with waiting := some ⟨seq, s.mono + 2000 * ticksPerMs⟩ } }
  else { s with time := { s.time with pendingStep := some (seq, forceStep args) } }

/-! ### Keys (R608) -/

def bindArgsOk (args : List Byte) : Bool :=
  match leAt args 0 4 with
  | 0 => decide (args.length = 64)
  | 1 => decide (args.length = 4)
  | _ => false

/-- The new content of slot 0, the record of which is written before the response. -/
def bindSlot (s : Zone) (seq : BitVec 32) (k : KeySlot) : Zone :=
  ((s.accept Code.bind seq true).setKeySlot 0 k).setKeyring fun x => { x with dirty := true, bind := some seq }

/-- BIND_SUPERVISOR. A supervisor key takes TYPE 3, whose length is its own (log entry 59). -/
def bindSupervisor (s : Zone) (seq : BitVec 32) (args : List Byte) : Zone :=
  let res (c : Nat) : Zone := s.send Code.bind seq Status.ok (leBytes 4 c)
  if leAt args 0 4 = 1 then
    if s.flag (pZONE 0) ZONE0.SUPV_BOUND then s.bindSlot seq KeySlot.init else res 0x71
  else
    let wrap := kdf (s.supv.sessionKey.getD []) (kdfFixed "FZ52/BINDWRAP" (leBytes 4 seq.toNat)) 256
    let x := gcmDecrypt wrap ((args.drop 4).take 12) (args.take 4) ((args.drop 16).take 32)
    if x.2 = args.drop 48 then
      s.bindSlot seq { KeySlot.init with attr := 0x30000000, key := padTo 32 x.1, count := 0xFFFFFFFF }
    else res 0x70

/-! ### Module states -/

/-- RESET (R670, R631). -/
def supervisorReset (s : Zone) (seq : BitVec 32) : Zone :=
  if s.safety.resetDue.isSome then s.send Code.reset seq Status.ok []
  else
    let s := s.addStartRecord Reason.supervisorReset (BitVec.ofNat 32 s.mode.code) false
    (s.send Code.reset seq Status.ok []).enterStart Cause.reset false

/-- The entry to TEST (R616, R617); the keepers stop at their next round boundary. -/
def enterTest (s : Zone) : Zone :=
  let s := ((s.abortCommands false).setState .test Cause.testEntry).expireKeys
  let s := s.forceOpenAll.gensOff
  let s := s.forEach (List.range 16) fun (s : Zone) (c : Nat) => ((s.canAbort c).2.setFld (pCAN c) CAN.CHAN_CFG_EN 0).canNotAlone c
  let s := s.forEach (List.range 6) fun (s : Zone) (c : Nat) => s.setFld (pSER c) LIN.LIN_CFG_EN 0
  let s := s.forEach [0, 1] fun (s : Zone) (n : Nat) =>
    let x := s.ser n
    ((s.setSer n { x with pend := [] }).forEach x.pend fun s p => s.completeAbort p.ticket).setFld (serPage n) SER.SER_CFG_EN 0
  let s := s.forEach ((List.range 24).map (· + 4)) fun (s : Zone) (p : Nat) => (s.setFld (pSWP p) SWP.PORT_CFG_ENABLE 0).phyDown p
  s.swEnableChanged.showFigures.beginSignals

/-- EXIT_LIGHTSHIP (R669). -/
def exitLightship (s : Zone) (seq : BitVec 32) (maint : Bool) : Zone :=
  (s.send Code.exitLightship seq Status.ok []).clearCounts.enterStart Cause.lightshipExit maint

/-- GRANT_RESOURCE (R521). -/
def grantResource (s : Zone) (seq : BitVec 32) (args : List Byte) : Zone :=
  if s.grant.isSome then s.send Code.grant seq Status.ok (leBytes 4 0x50)
  else (s.accept Code.grant seq true).quiesce ⟨args, some seq, s.mono⟩

/-- SLEEP_REQUEST (R454, R455): the acknowledgement is sent before SLEEP_PENDING becomes 1. -/
def sleepRequest (s : Zone) (seq : BitVec 32) (after : Nat) : Zone :=
  if after = 0 ∧ !s.anyWakeSource then s.send Code.sleep seq Status.ok (leBytes 4 0x40)
  else (s.send Code.sleep seq Status.ok (leBytes 4 0)).beginSleep 1 after

end Zone

/-! ### Commands -/

/-- The start notice as the management queue first runs (R44). -/
def execStartNotice (st : State) : Result := st.run fun s => s.startNotice false

/-- The start notice again after 1 s. -/
def execStartNoticeRepeat (st : State) : Result := st.run fun s => s.startNotice true

/-- A frame that fails check 1 of R46. -/
def execMalformedCommand (_fault : EnvelopeFault) (st : State) : Result := st.run fun s =>
  s.when s.mgmtRuns (·.count (pZONE 0) ZONE0.CMD_REJECT_FORMAT)

def execGetStatus (env : Envelope) (st : State) : Result := st.run fun s =>
  s.command Code.getStatus env (Zone.noArgs env) fun s => s.send Code.getStatus env.seq Status.ok s.statusBytes

def execReset (env : Envelope) (st : State) : Result := st.run fun s =>
  s.command Code.reset env (Zone.noArgs env) fun s => s.supervisorReset env.seq

def execBindSupervisor (env : Envelope) (st : State) : Result := st.run fun s =>
  s.command Code.bind env (fun _ => Zone.bindArgsOk env.args) fun s => s.bindSupervisor env.seq env.args

/-- SET_PROFILE (R54). -/
def execSetProfile (env : Envelope) (st : State) : Result := st.run fun s =>
  s.command Code.profile env (Zone.wordArg env 3) fun s =>
    let v := leAt env.args 0 4
    (s.setFld (pZONE 7) ZONE7.PROFILE_REQ v).send Code.profile env.seq Status.ok
      (leBytes 4 (v + s.fld (pZONE 7) ZONE7.PROFILE_ACTIVE * 16))

/-- `stored` is the image at the index in the table store, none where it holds none. -/
def execLoadTable (env : Envelope) (stored : Option (List Byte)) (st : State) : Result := st.run fun s =>
  s.command Code.load env (Zone.wordArg env 15) fun s => s.loadTable env.seq stored

def execCommitTable (env : Envelope) (st : State) : Result := st.run fun s =>
  s.command Code.commit env (Zone.wordArg env 3) fun s => s.commitTable env.seq (leAt env.args 0 4)

def execRollbackTable (env : Envelope) (st : State) : Result := st.run fun s =>
  s.command Code.rollback env (Zone.noArgs env) fun s => s.rollbackTable env.seq

def execWatchChange (env : Envelope) (st : State) : Result := st.run fun s =>
  s.command Code.watch env (Zone.noArgs env) fun s => s.watchChange env.seq

def execSleepRequest (env : Envelope) (st : State) : Result := st.run fun s =>
  s.command Code.sleep env (Zone.wordArg env 0xFFFFFF) fun s => s.sleepRequest env.seq (leAt env.args 0 4)

def execScheduleGlobal (env : Envelope) (st : State) : Result := st.run fun s =>
  s.command Code.schedule env (fun s => s.globalArgsOk env.args) fun s => s.scheduleGlobal env.seq env.args

def execCancelGlobal (env : Envelope) (st : State) : Result := st.run fun s =>
  s.command Code.cancel env (Zone.wordArg env 0xFFFFFFFF) fun s => s.cancelGlobal env.seq (leAt env.args 0 4)

def execForceTimeStep (env : Envelope) (st : State) : Result := st.run fun s =>
  s.command Code.force env (fun _ => Zone.forceArgsOk env.args) fun s => s.forceTimeStep env.seq env.args

def execGrantResource (env : Envelope) (st : State) : Result := st.run fun s =>
  s.command Code.grant env (fun _ => grantArgsOk env.args) fun s => s.grantResource env.seq env.args

/-- KEY_ROLL (R605). -/
def execKeyRoll (env : Envelope) (st : State) : Result := st.run fun s =>
  s.command Code.roll env (fun s => Zone.wordArg env 15 s && decide (leAt env.args 0 4 ≠ 0)) fun s =>
    let x := s.rollSet (leAt env.args 0 4)
    x.2.2.send Code.roll env.seq Status.ok (leBytes 2 x.1 ++ leBytes 2 x.2.1)

/-- LOG_FREEZE (R582). -/
def execLogFreeze (env : Envelope) (st : State) : Result := st.run fun s =>
  s.command Code.freeze env (fun _ => decide (env.args.length = 8 ∧ leAt env.args 0 4 ≤ 3600 ∧ leAt env.args 4 4 = 0)) fun s =>
    let x := s.freeze (leAt env.args 0 4)
    x.2.send Code.freeze env.seq Status.ok (leBytes 4 x.1)

/-- READ_START_REASONS (R671). -/
def execReadStartReasons (env : Envelope) (st : State) : Result := st.run fun s =>
  s.command Code.reasons env (Zone.noArgs env) fun s => s.send Code.reasons env.seq Status.ok s.startReasons

/-- CLEAR_START_COUNT (R672). -/
def execClearStartCount (env : Envelope) (st : State) : Result := st.run fun s =>
  s.command Code.clear env (Zone.noArgs env) fun s =>
    s.clearCounts.send Code.clear env.seq Status.ok (leBytes 4 s.failedCount)

def execExitLightship (env : Envelope) (st : State) : Result := st.run fun s =>
  s.command Code.exitLightship env (Zone.wordArg env 1) fun s => s.exitLightship env.seq (decide (leAt env.args 0 4 = 1))

/-- ENTER_TEST: the response is sent before the entry (R616). -/
def execEnterTest (env : Envelope) (st : State) : Result := st.run fun s =>
  s.command Code.enterTest env (Zone.noArgs env) fun s => (s.send Code.enterTest env.seq Status.ok []).enterTest

def execExitTest (env : Envelope) (st : State) : Result := st.run fun s =>
  s.command Code.exitTest env (Zone.noArgs env) fun s =>
    (s.send Code.exitTest env.seq Status.ok []).enterStart Cause.testExit false

end Sys2Proof.Machine
end

