-- ==== Sys2Proof/Machine/Access.lean ====
section
/-! DEFINITION. Reads and writes of the register space (R14 to R16, R24 to R29, R115, R137 to R144): what each access code takes
of a value, what a page refuses, what a write sets off, and the checks of a firmware access (R501 to R505). -/

namespace Sys2Proof.Machine

open Reg

/-! ### What the access codes take of a value (R14, R139) -/

/-- Bits [lo + n − 1:lo] of a word. -/
def bitsMask (lo n : Nat) : Word := BitVec.ofNat 32 ((2 ^ n - 1) * 2 ^ lo)

/-- What a writer reaches on a page: its RW, RWL and W1S fields, its event bits, its counters of access RC, its KW fields. -/
structure Reach where
  cfg : Bool
  events : Bool
  counters : Bool
  kw : Bool
deriving DecidableEq, Repr

/-- The RW, RWL and KW bits that a write takes from its value; write-only bits among them are not stored. -/
def WordD.plain (d : WordD) (r : Reach) (lock : Bool) : Word :=
  ((if r.cfg then BitVec.ofNat 32 d.rw ||| (if lock then 0 else BitVec.ofNat 32 d.rwl) else 0) |||
    (if r.kw then BitVec.ofNat 32 d.kw else 0)) &&& ~~~ BitVec.ofNat 32 d.wo

/-- The RC bits that a value clears: those of the fields that it names with all bits 1. -/
def WordD.rcCleared (d : WordD) (v : Word) : Word :=
  d.rc.foldl (fun m f => if v &&& bitsMask f.1 f.2 = bitsMask f.1 f.2 then m ||| bitsMask f.1 f.2 else m) 0

/-- The word that a write leaves, before the ranges of its fields: in modes 1 to 3 every bit of another access code than RW, RWL
and KW is presented as zero (R139). -/
def WordD.merge (d : WordD) (r : Reach) (lock : Bool) (mode : Nat) (old v : Word) : Word :=
  let p := d.plain r lock
  match mode with
  | 0 =>
    let x := (old &&& ~~~p) ||| (v &&& p)
    let x := if r.events then x &&& ~~~ (v &&& BitVec.ofNat 32 d.w1c) else x
    let x := if r.cfg then x ||| (v &&& BitVec.ofNat 32 d.w1s &&& ~~~ BitVec.ofNat 32 d.wo) else x
    if r.counters then x &&& ~~~ d.rcCleared v else x
  | 1 => old ||| (v &&& p)
  | 2 => old &&& ~~~ (v &&& p)
  | _ => old ^^^ (v &&& p)

/-- The bits of a word that a writer reaches at all. -/
def WordD.reached (d : WordD) (r : Reach) : Word :=
  BitVec.ofNat 32 ((if r.cfg then d.rw ||| d.rwl ||| d.w1s else 0) ||| (if r.events then d.w1c else 0) |||
    (if r.kw then d.kw else 0)) ||| (if r.counters then d.rc.foldl (fun m f => m ||| bitsMask f.1 f.2) 0 else 0)

/-- The pages whose RW, RWL and W1S fields only secure-world firmware and the keepers write (R87, R236, R316, R370, R407, R443,
R469, R584, R673, R681). -/
def securePage : PageKind → Bool
  | .zone0 | .zone6 | .zone7 | .keeper | .input | .cal | .shunt | .bal | .ring | .port | .time0 | .time1 | .tsq | .can | .lin
  | .ser | .log0 | .stream | .safe0 | .alarm => true
  | _ => false

/-- What a writer reaches on a page of a kind. Keepers never reach ZONE.0 to ZONE.2, ZONE.6, MOOR, KEY and TEST (R166, R529,
R673); on SAFE pages they reach event bits alone, and the normal world nothing (R681). -/
def reachOf (kind : PageKind) (w : Writer) : Reach :=
  match w, kind with
  | .keeper _, .zone0 | .keeper _, .keeper | .keeper _, .zone6 | .keeper _, .tu | .keeper _, .regn | .keeper _, .grant
  | .keeper _, .qpr | .keeper _, .ownl | .keeper _, .owns | .keeper _, .empty | .keeper _, .key0 | .keeper _, .slot
  | .keeper _, .test0 | .keeper _, .test1 | .keeper _, .test2 | .keeper _, .win => ⟨false, false, false, false⟩
  | .keeper _, .safe0 | .keeper _, .alarm => ⟨false, true, false, false⟩
  | .keeper _, _ => ⟨true, true, true, true⟩
  | .firmware src, k =>
    let secure := src.world == .secure
    let closed := !secure && (k == .safe0 || k == .alarm || k == .zone6)
    ⟨secure || !securePage k, !closed, !closed, false⟩

/-- The operation registers, which a write does not change (R145). -/
def opRegister (kind : PageKind) (off : Nat) : Bool :=
  match kind with
  | .load => off == 0x034
  | .can => off == 0x018 || off == 0x01C
  | .lin => off == 0x00C
  | .ser => off == 0x010
  | .swp => off == 0x0F8
  | .sww => off == 0x020
  | _ => false

/-! ### Ranges of fields -/

/-- The fields of a word with a stated range: lowest bit, width, least and greatest value. -/
def fieldRanges (kind : PageKind) (ch off : Nat) : List (Nat × Nat × Nat × Nat) :=
  match kind with
  | .zone0 =>
    if off = 0x040 then [(8, 12, 1, 1440)]
    else if 0x080 ≤ off ∧ off < 0x0C0 then [(24, 8, 4, 160), (16, 8, 1, 255), (12, 4, 0, 6), (8, 3, 0, 5), (0, 3, 0, 5)]
    else []
  | .keeper =>
    if off = 0x01C then [(24, 3, 3, 7), (0, 20, 1000, 1000000)]
    else if off = 0x080 then [(0, 16, 64, 65535)] else []
  | .load => if off = 0x020 then [(28, 2, 0, 2), (0, 8, 1, 255)] else if off = 0x024 then [(0, 6, 0, 40)] else []
  | .swp =>
    if off = 0x000 then [(14, 2, 0, 2)]
    else if off = 0x008 then [(0, 14, 64, 9216)]
    else if 0x020 ≤ off ∧ off < 0x040 then [(26, 3, 0, 6)]
    else if 0x040 ≤ off ∧ off < 0x060 then [(0, 16, 10, 50000)]
    else if 0x180 ≤ off ∧ off < 0x280 ∧ off % 32 % 8 = 0 ∧ off % 32 ≠ 0 then [(23, 9, 0, 256)]
    else []
  | .port =>
    if off = 0x000 then (if 24 ≤ ch then [(12, 4, 2, 8), (8, 4, 0, 7)] else []) else if off = 0x014 then [(4, 2, 0, 2)] else []
  | .time0 =>
    if off = 0x03C then [(16, 16, 1, 65535)] else if off = 0x048 ∨ off = 0x050 then [(16, 8, 0, 127)] else []
  | .can =>
    if off = 0x060 then [(0, 20, 250, 1000000)] else if off = 0x068 then [(0, 10, 1, 1000)] else []
  | .lin => if 0x300 ≤ off ∧ off < 0x400 then [(6, 2, 0, 2), (0, 4, 1, 8)] else []
  | .tu => if off = 0x040 then [(8, 3, 0, 4)] else if off = 0x050 then [(0, 14, 1, 10000)] else []
  | .hinge0 | .hinge1 | .hinge2 =>
    if off = 0x004 then [(0, 16, 10, 50000)] else if off = 0x008 then [(8, 8, 1, 255)] else []
  | .log0 =>
    if off = 0x030 then [(0, 10, 15, 1023)] else if off = 0x03C then [(0, 13, 4, 4096)]
    else if off = 0x048 then [(0, 32, 8192, 4294967295)] else []
  | .win => if off = 0x008 then [(0, 12, 0, 2048)] else []
  | .safe0 => if off = 0x01C then [(0, 7, 0, 100)] else []
  | .alarm => if off = 0x004 then [(0, 8, 1, 255)] else []
  | .zone6 => if off = 0x008 then [(24, 3, 2, 7), (0, 16, 1200, 10000)] else []
  | _ => []

/-- Whether a field of a word lies within its range. -/
def inRange (w : Word) (f : Nat × Nat × Nat × Nat) : Bool :=
  let n := Fld.get ⟨0, f.1, f.2.1⟩ w
  decide (f.2.2.1 ≤ n ∧ n ≤ f.2.2.2)

/-- A write outside a stated range leaves the field unchanged. -/
def keepRanges (l : List (Nat × Nat × Nat × Nat)) (old new : Word) : Word :=
  l.foldl (fun w f => if inRange w f then w else Fld.put ⟨0, f.1, f.2.1⟩ w (Fld.get ⟨0, f.1, f.2.1⟩ old)) new

/-- Field [lo + n − 1:lo] of `new` as it was in `old`. -/
def keepField (lo n : Nat) (old new : Word) : Word := Fld.put ⟨0, lo, n⟩ new (Fld.get ⟨0, lo, n⟩ old)

/-- Whether a value is a route word (R548): KIND 0 to 2, and FILE and IDENTITY within the ranges of the KIND. -/
def routeOk (v : Word) : Bool :=
  let n := v.toNat
  let ident := n % 2 ^ 11
  match n / 2 ^ 30 with
  | 0 => true
  | 1 => decide (n / 2 ^ 24 % 8 ≤ 6 ∧ 1 ≤ ident)
  | 2 => decide (ident ≤ 63)
  | _ => false

/-- A write that has reached its page: who wrote, the value as the bits of other access codes than RW, RWL and KW see it, and the
word before and after it. -/
structure RegWrite where
  writer : Writer
  v : Word
  old : Word
  new : Word
deriving DecidableEq, Repr

namespace RegWrite

/-- The source of a firmware write. -/
def source (x : RegWrite) : Option Source := match x.writer with | .firmware src => some src | .keeper _ => none
/-- Bit n of the value. -/
def bit (x : RegWrite) (n : Nat) : Bool := x.v.getLsbD n

end RegWrite

namespace Zone

/-! ### What a write does, page by page -/

/-- Apply `f` with the source of a firmware write; a keeper's write does nothing. -/
def byFirmware (s : Zone) (x : RegWrite) (f : Zone → Source → Zone) : Zone :=
  match x.source with | some src => f s src | none => s

def writeZone0 (s : Zone) (off : Nat) (x : RegWrite) : Zone :=
  if off = 0x048 then s.when (x.bit 0) keepAwake
  else
    let s := s.wr (pZONE 0 + off) x.new
    if 0x080 ≤ off ∧ off < 0x0C0 ∧ s.sleep.phase = 1 ∧ s.locked (pZONE 0) = false ∧ ZONE0.IN_WAKE_MODE.get x.v ≤ 5 then
      s.takeReference ((off - 0x080) / 4)
    else s

/-- GATE_REQ, HOLD_SET and HOLD_CLR act for the world of a firmware write (R526, R527); a keeper has none. -/
def writeZone5 (s : Zone) (off : Nat) (x : RegWrite) : Zone :=
  match off with
  | 0x040 => s.byFirmware x fun s src => s.gateReq src.world (ZONE5.GATE_REQ_BLOCK.get x.v) (ZONE5.GATE_REQ_ACTION.get x.v)
  | 0x050 => s.byFirmware x fun s src => s.secureHoldWrite src.world (x.v.toNat % 65536) true
  | 0x054 => s.byFirmware x fun s src => s.secureHoldWrite src.world (x.v.toNat % 65536) false
  | _ => s.wr (pZONE 5 + off) x.new

/-- ZONE.2 has no WATCH_CTRL, WATCH_COUNT, WATCH_STATE and floors (R236). -/
def writeKeeper (s : Zone) (k : Nat) (x : RegWrite) : Zone :=
  if keyChan k = 2 ∧ 0x080 ≤ keyOff k ∧ keyOff k ≤ 0x090 then s else s.wr k x.new

/-- A write of BRIDGE_CFG: PAIR and REVERSE_GAP in even legs only, PAIR only while both legs are OFF with E = 0 (R248). -/
def writeBridge (s : Zone) (n : Nat) (x : RegWrite) : Zone :=
  if n < 40 then s
  else
    let odd := decide (n % 2 = 1)
    let idle (m : Nat) : Bool := decide (s.lstate m = LS.off ∧ s.effReq m = 0)
    let free := idle (s.machine (evenLeg n)) && idle (s.machine (evenLeg n + 1))
    let w := if odd then keepField 8 8 x.old x.new else x.new
    let w := if odd || !free then keepField 31 1 x.old w else w
    s.wr (pLOAD n + 0x030) w

/-- A write of CH_CFG: no SURGE_HOLD in half-bridge legs (R264); OL_RANGE and OL_THRESH together (R270). -/
def writeChCfg (s : Zone) (n : Nat) (x : RegWrite) : Zone :=
  let r := LOAD.CH_CFG_OL_RANGE.get x.new
  let t := LOAD.CH_CFG_OL_THRESH.get x.new
  let ok : Bool := match r with
    | 0 => true
    | 1 => decide (1 ≤ t ∧ t ≤ 32)
    | 2 => decide (4 ≤ t ∧ t ≤ 128) && loadClass n == .h3
    | _ => false
  let w := if ok then x.new else keepField 20 2 x.old (keepField 8 8 x.old x.new)
  s.wr (pLOAD n + 0x020) (if 40 ≤ n then keepField 27 1 x.old w else w)

def writeLoad (s : Zone) (n off : Nat) (x : RegWrite) : Zone :=
  match off with
  | 0x000 => s.chCtrlWrite n x.new
  | 0x020 => s.writeChCfg n x
  | 0x028 => s.wr (pLOAD n + off) (LOAD.SOFT_CFG_I_NOM.put x.new (min (loadClass n).iNom (LOAD.SOFT_CFG_I_NOM.get x.new)))
  | 0x02C => s.wr (pLOAD n + off) (LOAD.SOFT_LIMIT_LIMIT.put x.new (min (loadClass n).softMax (LOAD.SOFT_LIMIT_LIMIT.get x.new)))
  | 0x024 =>
    let s := s.wr (pLOAD n + off) x.new
    s.setFld (pLOAD n) LOAD.CH_STATUS_BUDGET (min (s.fld (pLOAD n) LOAD.CH_STATUS_BUDGET) (LOAD.WARMUP_CFG_RETRY_MAX.get x.new))
  | 0x030 => s.writeBridge n x
  | _ => s.wr (pLOAD n + off) x.new

def writeChar (s : Zone) (g off : Nat) (x : RegWrite) : Zone :=
  if off ≤ 0x010 then s.stagedWrite g (off / 4) x.new
  else if off = 0x014 then s.holdWrite g (x.new.getLsbD 0)
  else s.wr (pCHAR g + off) x.new

def writeRing (s : Zone) (off : Nat) (x : RegWrite) : Zone :=
  if off = 0 then
    let n := RING.RING_CTRL_LINKS.get x.new
    let w := if n = 0 ∨ (3 ≤ n ∧ n ≤ 64) then x.new else keepField 16 7 x.old x.new
    (s.ringCtrlWrite w).when (x.bit 31) ringRestart
  else
    let s := s.wr (pRING + off) x.new
    if off = 0x010 ∨ off = 0x014 then s.showRing else s

/-! #### Switch ports -/

/-- A write of PORT_CFG: ENABLE reads 1 on ports 28 to 31; a change chooses the plan again (R345, R371). -/
def writePortCfg (s : Zone) (p : Nat) (x : RegWrite) : Zone :=
  let s := s.wr (pSWP p) (if 28 ≤ p then keepField 31 1 x.old x.new else x.new)
  if x.old.getLsbD 31 == s.flag (pSWP p) SWP.PORT_CFG_ENABLE then s
  else ((s.portCheck p).swEnableChanged).showPlca p

/-- A write of GATE_CTRL (R348, R349). -/
def writeGateCtrl (s : Zone) (p : Nat) (x : RegWrite) : Zone :=
  let s := s.wr (pSWP p + 0x010) (keepField 31 1 x.old x.new)
  ((if x.new.getLsbD 31 then s.gateCommit p else s).gateEval p)

/-- A write of TC_CFG of class t; a GUAR that would raise ΣGUAR above 65,536 is refused (R339). A class takes up the shaper from
the credit it has. -/
def writeTcCfg (s : Zone) (p t : Nat) (x : RegWrite) : Zone :=
  let k := pSWP p + 0x020 + 4 * t
  let oldG := Fld.get ⟨0, 12, 12⟩ x.old
  let newG := Fld.get ⟨0, 12, 12⟩ x.new
  let tooMany := decide (oldG < newG ∧ 65536 < s.guarSum - oldG + newG)
  let s := s.when tooMany fun s => (s.event pSW SW0.BUF_EVENT_GUAR_REJECT).swCfgReject p
  let w := if tooMany then keepField 12 12 x.old x.new else x.new
  let begin_ (s : Zone) : Zone := if x.old.getLsbD 30 then s else
    s.sw fun y => { y with credit := SMap.set (fun _ => ⟨0, 0⟩) y.credit (p * 8 + t) ⟨(s.credit p t).credit, s.mono⟩ }
  ((s.shaped p fun s => (begin_ s).wr k w).showBuf).gateEval p

/-- A write of a gate entry; the bank that operates takes none. -/
def writeGateEntry (s : Zone) (p off : Nat) (x : RegWrite) : Zone :=
  if (off - 0x800) / 0x400 = s.operBank p then s.swCfgReject p else s.wr (pSWP p + off) x.new

/-- A DOORBELL of port 28 or 29 (R365). -/
def writeDoorbell (s : Zone) (p : Nat) (src : Source) (v : Word) : Zone :=
  if p = 28 ∨ p = 29 then s.doorbell p src (v.toNat % 1024) (v.toNat / 1024 % 2) (v.toNat / 65536) else s

def writeSwp (s : Zone) (p off : Nat) (x : RegWrite) : Zone :=
  if off = 0x000 then s.writePortCfg p x
  else if off = 0x010 then s.writeGateCtrl p x
  else if 0x020 ≤ off ∧ off < 0x040 then s.writeTcCfg p ((off - 0x020) / 4) x
  else if 0x100 ≤ off ∧ off < 0x180 then s.shaped p fun s => s.wr (pSWP p + off) x.new
  else if 0x800 ≤ off then s.writeGateEntry p off x
  else s.wr (pSWP p + off) x.new

def writeSw0 (s : Zone) (off : Nat) (x : RegWrite) : Zone :=
  let s := s.wr (pSW + off) x.new
  if off = 0x004 ∧ x.old ≠ x.new then s.swEnableChanged else s

/-- A write of PHY_CFG: a speed or role that the port's standard does not define is ignored and counted (R320, R321); the PLCA
fields are those of ports 24 to 27 (R374). -/
def writePhyCfg (s : Zone) (p : Nat) (x : RegWrite) : Zone :=
  let speed := PORT.PHY_CFG_SPEED.get x.new
  let role := PORT.PHY_CFG_ROLE.get x.new
  let badSpeed := decide ((if p < 4 then 3 else if p < 16 then 1 else 0) < speed)
  let badRole := decide ((if p < 24 then 2 else 0) < role)
  let w := if badSpeed then keepField 0 2 x.old x.new else x.new
  let w := if badRole then keepField 2 2 x.old w else w
  let w := if p < 24 then keepField 8 16 x.old (keepField 5 1 x.old w) else w
  let s := s.countBy (pPORT p) PORT.PHY_COUNTS_CFG_REJECT (b2n badSpeed + b2n badRole)
  (((s.wr (pPORT p) w)).showLpi p).showPlca p

def writePort (s : Zone) (p off : Nat) (x : RegWrite) : Zone :=
  if off = 0 then s.writePhyCfg p x
  else if (off = 0x014 ∨ off = 0x018) ∧ 4 ≤ p then s
  else s.wr (pPORT p + off) x.new

/-! #### Time, buses -/

/-- TIME.0 (R407); SLAVE_PORT is 0 to 3 or 7 (R393). -/
def writeTime0 (s : Zone) (off : Nat) (x : RegWrite) : Zone :=
  match off with
  | 0x004 => s.servoCfgWrite x.new
  | 0x008 => s.jumpWrite x.new
  | 0x00C => s.slewWrite x.new
  | 0x028 => s.when (x.bit 0) timeSnap
  | 0x048 | 0x050 =>
    let port := TIME0.INST0_CFG_SLAVE_PORT.get x.new
    s.wr (pTIME + off) (if port < 4 ∨ port = 7 then x.new else keepField 0 3 x.old x.new)
  | _ => s.wr (pTIME + off) x.new

/-- The TM words exist on CAN.0 to CAN.3 alone; a TM_OFFSET is written below TM_CYCLE (R443). -/
def writeTm (s : Zone) (c off : Nat) (x : RegWrite) : Zone :=
  let p := pCAN c
  if 4 ≤ c ∨ (off = 0x064 ∧ s.fld p CAN.TM_CYCLE_US ≤ CAN.TM_OFFSET_US.get x.new) then s else s.wr (p + off) x.new

def writeCan (s : Zone) (c off : Nat) (x : RegWrite) : Zone :=
  if off = 0 then s.chanCfgWrite c x.new
  else if off ≤ 0x00C then s.canTimingWrite c off x.new
  else if off = 0x024 then s.rxAck c x.writer (x.new.toNat % 512)
  else if 0x05C ≤ off ∧ off ≤ 0x068 then s.writeTm c off x
  else if 0x110 ≤ off ∧ off < 0x120 then s
  else if 0x100 ≤ off ∧ off < 0x160 then s.busWrite (composeAddr c + (off - 0x100)) (leBytes 4 x.v.toNat)
  else if 0x200 ≤ off ∧ off < 0x300 then s.wr (pCAN c + off) (x.new &&& (if off % 8 = 0 then 0xBFFFFFFF else 0x1FFFFFFF))
  else s.wr (pCAN c + off) x.new

def writeLin (s : Zone) (c off : Nat) (x : RegWrite) : Zone :=
  match off with
  | 0x000 => s.linCfgWrite c x.new
  | 0x014 => s.rxAck (16 + c) x.writer (x.new.toNat % 128)
  | _ => (s.wr (pSER c + off) x.new).linRefresh c

def writeSer (s : Zone) (n off : Nat) (x : RegWrite) : Zone :=
  match off with
  | 0x000 => s.serCfgWrite n x.new
  | 0x004 => s.serTimingWrite n x.new
  | 0x014 => s.rxAck (22 + n) x.writer (x.new.toNat % 128)
  | _ => s.wr (serPage n + off) x.new

/-! #### Worlds, hinges -/

def writeTu (s : Zone) (off : Nat) (x : RegWrite) : Zone :=
  let kind := TU.INVAL_CMD_KIND.get x.v
  match off with
  | 0x00C =>
    if kind = 0 then s
    else s.invalidate kind ⟨if x.bit 12 then .secure else .normal, BitVec.ofNat 12 (x.v.toNat % 4096)⟩ s.invalAddr
  | 0x024 => s.when (x.bit 0) tuPop
  | 0x054 => if x.bit 0 then s.byFirmware x swdtKick else s
  | 0x05C => if x.bit 0 then s.byFirmware x secureReady else s
  | _ => s.wr (pTU + off) x.new

/-- A region of controller c (R501, R507). -/
def writeRegn (s : Zone) (c off : Nat) (x : RegWrite) : Zone :=
  if off < 0x100 then s.wr (pREGN c + off) x.new
  else
    let k := (off - 0x100) / 16
    if controllerRegions c ≤ k then s
    else if off % 16 ≠ 8 ∧ s.flag (pREGN c) (REGN.REGION_EN.nth 16 k) then s.event (pREGN c) REGN.CTRL_INFO_CFG_IGNORED
    else s.wr (pREGN c + off) x.new

/-- A queue pair record takes writes of its owner alone; ring bases and sizes only while ENABLE is 0 (R532). -/
def writeQpr (s : Zone) (k : Nat) (src : Source) (x : RegWrite) : Zone :=
  let q := (keyChan k - 33) * 128 + keyOff k / 32
  let reject (s : Zone) : Zone := s.count pGRANT GRANT.GRANT_COUNTS_OWNER_REJECT
  if !s.pairHeldBy q src then reject s
  else match keyOff k % 32 with
    | 0x1C =>
      let s := s.ringCfgWrite src q x.v
      if x.v.toNat % 65536 = 65535 then s.setFld (pPAIR q) QPR.RING_CFG_DROPS 0 else s
    | 0x0C | 0x10 | 0x14 | 0x18 => if s.flag (pPAIR q) QPR.RING_CFG_ENABLE then reject s else s.wr k x.new
    | _ => s

def writeHinge (s : Zone) (h off : Nat) (x : RegWrite) : Zone :=
  let k := pHINGE h + off
  if off = 0x008 then (if h = 2 then s else s.wr k (if h = 0 then keepField 1 1 x.old x.new else x.new))
  else if off = 0x018 then s.when (x.bit 0) fun s => s.errPop h
  else if off = 0x028 then s.when (x.bit 0) fun s => s.discPop h
  else if h = 1 ∧ off = 0x074 then (if x.bit 0 then s.byFirmware x copyStart else s)
  else if (h = 1 ∧ off = 0x080) ∨ (h = 2 ∧ 0x900 ≤ off) then
    if routeOk x.new then s.wr k (keepField 11 13 0 x.new) else s
  else s.wr k x.new

/-! #### Logbook, life-cycle, safety -/

def writeLog (s : Zone) (off : Nat) (x : RegWrite) : Zone :=
  match off with
  | 0x010 =>
    let n := LOG0.STAGE_SIZE_UNITS.get x.new
    if n = 0 ∨ (16 ≤ n ∧ n ≤ 256) then s.wr (pLOG + off) x.new else s
  | 0x020 | 0x028 => if x.new.toNat % 4096 = 0 then s.wr (pLOG + off) x.new else s
  | 0x050 => s.when (x.bit 0) storeResume
  | 0x054 => s.freezeRelease (x.v.toNat % 16)
  | _ => s.wr (pLOG + off) x.new

/-- A stream's page; a change of SOURCE closes its segment with cause STOP (R576). -/
def writeStream (s : Zone) (n off : Nat) (x : RegWrite) : Zone :=
  if off = 0 then
    let s := if x.old = x.new then s else s.closeAfter n 6
    s.wr (pSTREAM n) x.new
  else s.wr (pSTREAM n + off) x.new

/-- POST_DATA and POST_COMMIT take the writes of the stream's owner alone, and none while BUSY (R567, R568). -/
def writePost (s : Zone) (n off : Nat) (src : Source) (v : Word) : Zone :=
  if off = 0x010 then s.postCommit n src (v.toNat % 4096)
  else if !s.mayPost n src || s.flag (pSTREAM n) STREAM.POST_STATUS_BUSY then s.count (pSTREAM n) STREAM.STREAM_COUNTS_REJECTED
  else s.wr (pSTREAM n + off) v

def writeSafe (s : Zone) (off : Nat) (x : RegWrite) : Zone :=
  match off with
  | 0x008 => s.clearFaultEvent x.v
  | 0x010 | 0x014 => (s.wr (pSAFE + off) x.new).applyDemand
  | 0x018 => s.when (x.bit 0) demandRelease
  | 0x02C => s.when (x.bit 0) logPop
  | _ =>
    if 0x100 ≤ off ∧ off < 0x200 then
      let r := SAFE0.REACT_REACTION.get x.new
      if reactFloor ((off - 0x100) / 4) ≤ r ∧ r ≤ 4 then s.wr (pSAFE + off) x.new else s
    else s.wr (pSAFE + off) x.new

def writeAlarm (s : Zone) (a : Fin 2) (off : Nat) (x : RegWrite) : Zone :=
  if off = 0x008 then s.when (x.bit 0) fun s => s.alarmTest a else s.wr (pALARM a.val + off) x.new

/-- The effect of a write that has reached a word of a page. LOGIC_BIST_START, MEMORY_BIST_START, REPAIR_PROG and SA_INSTALL are
commands of their own, because the world outside decides their outcome. -/
def writeEffect (s : Zone) (kind : PageKind) (k : Nat) (x : RegWrite) : Zone :=
  let ch := keyChan k
  let off := keyOff k
  match kind with
  | .zone0 => s.writeZone0 off x
  | .zone5 => s.writeZone5 off x
  | .zone6 => if off = 0x020 then s.when (x.bit 0) lsRaiseFloor else s.wr k x.new
  | .keeper => s.writeKeeper k x
  | .input => if off = 0 then s.inCfgWrite ch x.new else if off = 4 then s.inThreshWrite ch x.new else s.wr k x.new
  | .load => s.writeLoad ch off x
  | .char => s.writeChar ch off x
  | .cal => if off = 0x014 then (s.wr k x.new).when (x.bit 1) fun s => s.calRestart ch else s.wr k x.new
  | .ring => s.writeRing off x
  | .sw0 => s.writeSw0 off x
  | .swp => s.writeSwp (ch - 1) off x
  | .port => s.writePort ch off x
  | .time0 => s.writeTime0 off x
  | .tsq => if off = 0x014 then s.when (x.bit 0) fun s => s.tsqPop (ch - 2) else s.wr k x.new
  | .can => s.writeCan ch off x
  | .lin => s.writeLin ch off x
  | .ser => s.writeSer (ch - 6) off x
  | .tu => s.writeTu off x
  | .regn => s.writeRegn ch off x
  | .grant => if off = 0x010 then s.when (x.bit 0) fwGrantStart else s.wr k x.new
  | .qpr => s
  | .hinge0 | .hinge1 | .hinge2 => s.writeHinge ch off x
  | .log0 => s.writeLog off x
  | .stream => s.writeStream (ch - 1) off x
  | .test2 => if off = 0x00C then s.lcRequest (x.v.toNat % 8) false else s.wr k x.new
  | .safe0 => s.writeSafe off x
  | .alarm => s.writeAlarm (if ch = 1 then 0 else 1) off x
  | .test0 | .test1 => if off = 0x008 ∧ kind = .test1 then s else s.wr k x.new
  | _ => s.wr k x.new

/-- The refusal counters of a write outside the ranges of a switch port's fields (R371). -/
def rangeReject (s : Zone) (kind : PageKind) (k : Nat) : Zone := if kind = .swp then s.swCfgReject (keyChan k - 1) else s

/-! ### Writes -/

/-- Whether RX_ACK, which its owner alone writes (R416), or a register that an owner writes. -/
def ownerWord_ (kind : PageKind) (off : Nat) : Bool :=
  match kind with
  | .can => off == 0x024
  | .lin | .ser => off == 0x014
  | _ => false

/-- A write of value `v` in mode `mode` to the word at key `k` of page kind `kind`, past every check of its delivery. -/
def regWrite (s : Zone) (w : Writer) (kind : PageKind) (d : WordD) (k mode : Nat) (v : Word) : Zone :=
  let r := reachOf kind w
  let r : Reach := if ownerWord_ kind (keyOff k) then { r with cfg := true } else r
  if d.reached r = 0 ∨ opRegister kind (keyOff k) then s
  else
    let old := s.rd k
    let seen := if mode = 0 then v else 0
    let all := d.merge r (s.locked (keyPage k)) mode old v
    let ranges := fieldRanges kind (keyChan k) (keyOff k)
    let s := if ranges.all (inRange all) then s else s.rangeReject kind k
    s.writeEffect kind k ⟨w, seen, old, keepRanges ranges old all⟩

/-- A firmware write to a word with KW fields is counted, with its address and source (R29). -/
def kwReject (s : Zone) (k : Nat) (src : Source) : Zone :=
  let z := pZONE 0
  let s := (s.count z ZONE0.KW_REJECT_COUNT).setFld z ZONE0.KW_REJECT_ADDR_OFFSET k
  (s.setFlag z ZONE0.KW_REJECT_SRC_WORLD (src.world == .secure)).setFld z ZONE0.KW_REJECT_SRC_MOORING src.mooring.toNat

/-- A firmware write of a word of a populated page, past the checks of R501 to R505. -/
def fwWord (s : Zone) (src : Source) (kind : PageKind) (k : Nat) (v : Word) : Zone :=
  let off := keyOff k
  let ch := keyChan k
  match kind, wordD kind off with
  | _, none => s
  | .qpr, some d => s.writeQpr k src ⟨.firmware src, v, s.rd k, d.merge ⟨true, true, true, false⟩ false 0 (s.rd k) v⟩
  | .stream, some d => if off = 0x010 ∨ 0x800 ≤ off then s.writePost (ch - 1) off src v else s.regWrite (.firmware src) kind d k 0 v
  | .swp, some d =>
    if off = 0x700 then s.writeDoorbell (ch - 1) src v
    else (if d.kw = 0 then s else s.kwReject k src).regWrite (.firmware src) kind d k 0 v
  | _, some d => (if d.kw = 0 then s else s.kwReject k src).regWrite (.firmware src) kind d k 0 v

/-! ### Reads -/

/-- The value of a word, with what is computed when it is read; a compose area that nothing has written is undefined (R447). -/
def readWord (s : Zone) (k : Nat) : Word × Zone :=
  let off := keyOff k
  let ch := keyChan k
  match keyD k with
  | none => (0, s)
  | some (kind, d) =>
    let plain (s : Zone) : Word × Zone := (s.rd k &&& ~~~ BitVec.ofNat 32 d.wo, s)
    if opRegister kind off && !(kind == .ser) then (0, s)
    else match kind with
    | .can =>
      if 0x110 ≤ off ∧ off < 0x120 then (0, s)
      else if 0x100 ≤ off ∧ off < 0x160 then
        let x := s.busBytes (composeAddr ch + (off - 0x100)) 4
        (BitVec.ofNat 32 (leNat x.1), x.2)
      else plain s
    | .swp =>
      let p := ch - 1
      if isCounter p off then
        let x := s.counterRead p off
        (BitVec.ofNat 32 x.1, x.2)
      else if off = 0x01C ∨ off = 0x010 then plain (s.gateEval p)
      else if off = 0x064 then plain (s.showHold p)
      else if 0x100 ≤ off ∧ off < 0x180 then plain (s.shape p)
      else plain s
    | .port => if off = PORT.PHY_STATUS_PLCA_BEACON.off then plain (s.setFlag (pPORT ch) PORT.PHY_STATUS_PLCA_BEACON (s.plcaBeacon ch)) else plain s
    | .hinge2 =>
      if 0x100 ≤ off ∧ off < 0x500 then plain (s.setFld (pHINGE 2) (reqFld ((off - 0x100) / 4) 0 13) (s.reqLevel ((off - 0x100) / 4)))
      else plain s
    | .char => if off = CHAR.GEN_STATUS_LEVEL.off then (s.genStatus ch, s) else plain s
    | .lin => if off = 0x004 then plain (s.setFld (pSER ch) LIN.LIN_STATUS_STATE (s.linState ch)) else plain s
    | .ser => if off = 0x008 then plain (s.setFlag (serPage (ch - 6)) SER.SER_STATUS_LINE_IDLE (s.serLineIdle (ch - 6))) else plain s
    | .log0 =>
      match off with
      | 0x004 => plain (s.setFlag pLOG LOG0.LOG_STATUS_RUNNING s.logRuns)
      | 0x014 => (BitVec.ofNat 32 (s.hashBacklog / 1024), s)
      | 0x018 => (BitVec.ofNat 32 (s.storeBacklog / 1024), s)
      | _ => plain s
    | .safe0 =>
      match off with
      | 0x000 => plain (s.setFld pSAFE SAFE0.MON_STATUS_CODE (s.statusCode 0))
      | 0x004 => (BitVec.ofNat 32 s.faultActive, s)
      | _ => plain s
    | .test1 =>
      if off = 0x000 then plain (s.setFld (pTEST 1) TEST1.REPAIR_STATUS_FUSE_ENTRIES s.fuses.repair.length)
      else if 0x100 ≤ off then (SMap.get (fun _ => 0) s.fuses.repair ((off - 0x100) / 4), s) else plain s
    | .test2 =>
      match off with
      | 0x000 => (BitVec.ofNat 32 (s.lifeCycle * 2 ^ 16 + s.fuses.safetyMode * 2 ^ 8 + b2n s.rootOk), s)
      | 0x004 => (BitVec.ofNat 32 s.fuses.serial.toNat, s)
      | 0x008 => (BitVec.ofNat 32 (s.fuses.serial.toNat / 2 ^ 32), s)
      | _ => plain s
    | _ => plain s

/-- A read of a word by firmware: fields of access RC return their value and are cleared (R14); a statistics counter latches its
upper word (R357). -/
def fwRead (s : Zone) (kind : PageKind) (k : Nat) : Word × Zone :=
  match wordD kind (keyOff k) with
  | none => (0, s)
  | some d =>
    if kind = .swp ∧ isCounter (keyChan k - 1) (keyOff k) then
      let x := s.counterRead (keyChan k - 1) (keyOff k)
      (BitVec.ofNat 32 x.1, x.2)
    else
      let x := s.readWord k
      if d.rc = [] then x else (x.1, x.2.wr k (x.2.rd k &&& ~~~ d.rc.foldl (fun m f => m ||| bitsMask f.1 f.2) 0))

/-! ### Firmware accesses (R27, R28, R501 to R505, R517) -/

/-- Whether a LOAD_PAGE grant of load output n runs: the old owner's window has closed (R519). -/
def pageQuiesced (s : Zone) (n : Nat) : Bool := s.grant.any fun g => grantKind g == 3 && grantIndex g == n

/-- Whether an address offset of the register space lies in a grant window that a source owns, for a write or a read. A queue
pair's window stays addressed to its owner while a grant runs, and its record and doorbell refuse by themselves (R365, R519). -/
def grantWindow (s : Zone) (src : Source) (k : Nat) (write : Bool) (v : Word) : Bool :=
  let ch := keyChan k
  let off := keyOff k
  let owns (q : Nat) : Bool := decide (s.pairState q ≠ 0) && src == s.pairOwner q
  let ring (c : Nat) : Bool := s.ringKind c == 1 && src == s.ringOwner c && !s.busQuiesced c
  match keyBank k with
  | 14 => decide (33 ≤ ch ∧ ch ≤ 40) && owns ((ch - 33) * 128 + off / 32)
  | 5 => write && decide ((ch = 29 ∨ ch = 30) ∧ off = 0x700) && owns (v.toNat % 1024)
  | 6 => decide (ch < 16) && ring ch && (!write || decide (off = 0x024))
  | 7 => decide (ch < 8) && ring (16 + ch) && (!write || decide (off = 0x014))
  | 1 =>
    let w := s.rd (pOWNL + 4 * ch)
    decide (ch < 48) && !s.pageQuiesced ch && !write && OWNL.OWNER_OWNED.get w == 1 && OWNL.OWNER_WORLD.get w == (if src.world = .secure then 1 else 0) &&
      OWNL.OWNER_MOORING.get w == src.mooring.toNat
  | 10 =>
    decide (1 ≤ ch ∧ ch ≤ 64) && s.streamOwner (ch - 1) == some src && !s.streamQuiesced (ch - 1) &&
      (if write then decide (off = 0x010 ∨ 0x800 ≤ off) else decide (off = 0x014))
  | _ => false

/-- The check of a firmware access to a word of the register space: the code, the state with a refusal recorded. -/
def wordCheck (s : Zone) (src : Source) (k : Nat) (write : Bool) (v : Word) : Nat × Zone :=
  let a := 0x1F0000000 + k
  if (pageKind (keyBank k) (keyChan k)).isNone then (Err.decode, s)
  else if s.grantWindow src k write v then (Err.none, s)
  else if src.world = .normal ∧ (keyBank k = 11 ∨ keyBank k = 14 ∨ keyBank k = 15) then (Err.region, s.refuse_ 12 src write a)
  else s.regionCheck src (!write) write a 4

/-- A firmware write of one word of the register space: the code and the state. -/
def wordWrite (s : Zone) (src : Source) (k : Nat) (v : Word) : Nat × Zone :=
  let c := s.wordCheck src k true v
  if c.1 ≠ Err.none then c
  else match pageKind (keyBank k) (keyChan k) with
    | some kind => (Err.none, c.2.fwWord src kind k v)
    | none => c

/-- A firmware read of one word of the register space: the code, the value and the state. -/
def wordRead (s : Zone) (src : Source) (k : Nat) : Nat × Word × Zone :=
  let c := s.wordCheck src k false 0
  if c.1 ≠ Err.none then (c.1, 0, c.2)
  else match pageKind (keyBank k) (keyChan k) with
    | some kind => (Err.none, c.2.fwRead kind k)
    | none => (c.1, 0, c.2)

/-- Whether an access is a naturally aligned one of 32 or 64 bits (R27). -/
def alignedAccess (a size : Nat) : Bool := (size == 4 || size == 8) && a % size == 0

/-- A firmware write of 4 or 8 bytes at an offset of the register space; 8 bytes are two words, the lower one first (R27). A
prefetched line of H1 that it reaches is discarded (R555). -/
def spaceWrite (s : Zone) (src : Source) (k size v : Nat) : Nat × Zone :=
  if !alignedAccess k size then (Err.align, s)
  else
    let x := (s.lineWritten 1 (0x1F0000000 + k) size).wordWrite src k (BitVec.ofNat 32 v)
    if size = 4 then x
    else
      let y := x.2.wordWrite src (k + 4) (BitVec.ofNat 32 (v / 2 ^ 32))
      (if x.1 = Err.none then y.1 else x.1, y.2)

/-- A firmware read of 4 or 8 bytes at an offset of the register space. -/
def spaceRead (s : Zone) (src : Source) (k size : Nat) : Nat × Nat × Zone :=
  if !alignedAccess k size then (Err.align, 0, s)
  else
    let x := s.wordRead src k
    if size = 4 then (x.1, x.2.1.toNat, x.2.2)
    else
      let y := x.2.2.wordRead src (k + 4)
      (if x.1 = Err.none then y.1 else x.1, x.2.1.toNat + y.2.1.toNat * 2 ^ 32, y.2.2)

/-! ### Keeper writes (R115, R209, R210) -/

/-- Whether a keeper's commands reach a page at all: R166 closes some, R673 and the MOOR chapter drop others. -/
def keeperPage (k : Nat) : Bool :=
  (pageKind (keyBank k) (keyChan k)).isSome &&
    !((keyBank k == 0 && decide (keyChan k ≤ 2 ∨ keyChan k = 6)) || keyBank k == 11 || keyBank k == 14 || keyBank k == 15)

/-- How a command of keeper `w` fares at a page: delivered, refused by its claim, or dropped at its own channel port. -/
inductive Delivery where
  | delivered
  | refused
  | dropped
deriving DecidableEq, Repr

/-- Deliver a command of keeper `w` to the page of key `k` (R115, R208 to R211); nothing is delivered in TEST (R617). -/
def deliver (s : Zone) (w : Keeper) (k : Nat) : Delivery × Zone :=
  if s.mode = .test || !s.portOpen w then (.refused, s)
  else match stageOf (keyPage k) with
    | some i =>
      match s.claimRefusal i w with
      | some c => (.refused, s.countRefusal w c)
      | none => (.delivered, s.stageAccept i w)
    | none =>
      if s.holdsWatch w then (.delivered, s) else (.dropped, s.count (pKEEPER w) KEEPER.SHADOW_COUNTS_WRITES)

/-- An accepted command to a LOAD page ends a safe state of silence (R269); a write of CH_CTRL ends it by itself. -/
def pageAccepted (s : Zone) (k : Nat) : Zone :=
  if keyBank k = 1 ∧ keyChan k < 48 ∧ keyOff k ≠ 0 then s.loadAccepted (keyChan k) else s

/-- A write of keeper `w` (R139): in LIGHTSHIP, the gate of CAN.0 refuses keepers (R666). -/
def keeperWrite (s : Zone) (w : Keeper) (k mode : Nat) (v : Word) : Zone :=
  let x := s.deliver w k
  if x.1 ≠ .delivered ∨ !keeperPage k then x.2
  else if keyBank k = 6 ∧ keyChan k = 0 ∧ s.mode = .lightship then x.2
  else match keyD k with
    | some (kind, d) => (x.2.pageAccepted k).regWrite (.keeper w) kind d k mode v
    | none => x.2.pageAccepted k

end Zone

/-! ### Commands -/

/-- A write to the register space: by firmware, of `size` bytes, answered with a code; or by a keeper, of one word in the MODE
of R139. -/
def execRegisterWrite (writer : Writer) (offset : BitVec 24) (size : BitVec 4) (mode : Fin 4) (value : BitVec 64) (st : State) :
    Result := st.runBy writer fun s =>
  match writer with
  | .firmware src =>
    let x := s.spaceWrite src offset.toNat size.toNat value.toNat
    x.2.respond x.1 0
  | .keeper w => if offset.toNat % 4 = 0 then s.keeperWrite w offset.toNat mode.val (value.setWidth 32) else s

/-- A read of the register space by firmware. -/
def execRcRead (src : Source) (offset : BitVec 24) (size : BitVec 4) (st : State) : Result := st.runFw fun s =>
  let x := s.spaceRead src offset.toNat size.toNat
  x.2.2.respond x.1 x.2.1

/-- A write of 1 to a page's LOCK (R15), a W1S field at offset 0x0FC. -/
def execPageLock (writer : Writer) (page : PageArg) (st : State) : Result := st.runBy writer fun s =>
  let k := Sys2Proof.Machine.page page.bank.toNat page.channel.toNat + 0x0FC
  match writer with
  | .firmware src =>
    let x := s.spaceWrite src k 4 1
    x.2.respond x.1 0
  | .keeper w => s.keeperWrite w k 0 1

/-- 1,000 slots without a valid beacon at a stage (R211, R269, R290, R350, R430). -/
def execStageSilent (stage : Fin 112) (st : State) : Result := st.runOn fun s =>
  let i := stage.val
  let x := s.stage i
  match x.lastHeard with
  | none => s
  | some t =>
    if x.silent || !s.past t (1000 * Zone.ticksPerUs) || s.mode == .test || decide (3 ≤ s.sleep.phase) then s
    else
      let s := (s.setStage i { x with silent := true }).report Src.stageSilent 0
      if i < 48 then s.loadSilent i
      else if 64 ≤ i ∧ i < 80 then (s.canAbort (i - 64)).2
      else s

/-- The outcome of an operation arrives for the ticket that it was issued for (R149, R150). -/
def execTicketCompletion (keeper : Keeper) (ticket : Fin 128) (serial : Nat) (status : Fin 7) (value : BitVec 16) (st : State) :
    Result := st.runOn fun s =>
  s.complete ⟨keeper, ticket.val, serial⟩ status.val (if status.val = 0 ∨ status.val = 1 then value.toNat else 0)

namespace Zone

/-- Every ticket of keeper `k` whose timeout has passed ends with STATUS TIMEOUT (R151). -/
def ticketTimeouts (s : Zone) (k : Keeper) : Zone :=
  let limit := s.fld (pKEEPER k) KEEPER.CONFIG_TICKET_TIMEOUT * ticksPerUs
  s.forEach (List.range 128) fun (s : Zone) (n : Nat) =>
    let t := s.ticket k n
    if t.state = .issued ∧ s.past t.issueTick limit then s.complete (s.ticketRef k n) 3 0 else s

end Zone

/-- A slot mark of keeper k at which the ticket timeout has passed for tickets of it (R151). -/
def execTicketTimeout (keeper : Keeper) (st : State) : Result := st.runOn fun s =>
  if (s.keeper keeper).markAt = some s.mono then s.ticketTimeouts keeper else s

/-- A write to POST of a request queue: first the region check of MOOR.12, then the binding (R551, R552). -/
def execRequestPost (queue : Fin 256) (src : Source) (word : Word) (st : State) : Result := st.runFw fun s =>
  let x := s.regionCheck src false true (0x1F3000000 + queue.val * 0x1000) 4
  if x.1 ≠ Err.none then x.2.respond x.1 0 else x.2.postWord queue.val src word

/-- A read of POP of an event queue (R551, R553). -/
def execEventPop (queue : Fin 256) (src : Source) (st : State) : Result := st.runFw fun s =>
  let x := s.regionCheck src true false (0x1F3100000 + queue.val * 0x1000) 4
  if x.1 ≠ Err.none then x.2.respond x.1 0 else x.2.popEvt queue.val src

end Sys2Proof.Machine
end

