-- ==== Sys2Proof/Machine/Clocks.lean ====
section
/-! DEFINITION. The clock monitors (R38, R626) and the dual-clock queues (R32 to R37). -/

namespace Sys2Proof.Machine

open Reg

/-- The nominal count of domain d in a window of 1 µs, in hundredths (R30, R626); the rates that R30 leaves to the hardware stand
in the window, and the application cluster's, which firmware sets, lies within `range` in MHz (R55). -/
def nominalCount (d : Nat) (range : Nat × Nat) (w : ClockWindow) : Nat :=
  match d with
  | 6 => min (range.2 * 100) (max (range.1 * 100) w.nominal)
  | 1 => 25000 | 2 => 40000 | 3 => 40000 | 4 => 78125 | 7 => 80000 | 8 => 80000 | 9 => 25000
  | _ => w.nominal

/-- Whether a count lies outside the window of its domain: ±3 %, and ±0.5 % for the keepers (R626). -/
def outsideWindow (d : Nat) (range : Nat × Nat) (w : ClockWindow) : Bool :=
  let n := nominalCount d range w
  let off := if n ≤ w.count * 100 then w.count * 100 - n else n - w.count * 100
  decide ((if d = 2 ∨ d = 3 then 5 else 30) * n < off * 1000)

/-- Words that the queue of an identity holds: 2^n, with n from 2 to 12 (R32). -/
def dcqDepth (q : Nat) : Nat := 2 ^ (2 + Config.dcqSize q % 11)

namespace Zone

/-- Whether the clock of a domain runs in the present state (R30); a thermal halt stops the application cluster's (R96). -/
def clockRuns (s : Zone) (d : Nat) : Bool :=
  if d = 0 then !s.inMode [.off]
  else if d = 6 then s.inMode [.service, .test] && s.appClock.isSome
  else if d = 8 ∨ d = 9 then s.inMode [.service, .test]
  else s.inMode [.start, .service, .lightship, .test]

/-- A monitor reports its domain (R38, R626); that of a keeper fails the keeper's self-check with cause 7 (R212). -/
def clockReport (s : Zone) (d count : Nat) : Zone :=
  let p := pZONE 5
  let s := s.setFldBit p ZONE5.CLK_EVENT_FAULT d true
  let s := (s.setFld p ZONE5.CLK_LAST_DOMAIN d).setFld p ZONE5.CLK_LAST_COUNT count
  let s := (s.count p ZONE5.CLK_COUNTS_TOTAL).count p ⟨ZONE5.CLK_DOMAIN_COUNT_COUNT.off + 4 * d, 0, 16⟩
  let s := s.report (if [1, 2, 3, 4, 7].contains d then Src.clockCritical else Src.clockOther) (BitVec.ofNat 32 d)
  if d = 2 then s.selfCheck .A 7 else if d = 3 then s.selfCheck .B 7 else s

/-- The time-base clock stops or runs again (R289). -/
def timeClock (s : Zone) (stopped : Bool) : Zone :=
  let s := s.markTime
  let s := { s with time := { s.time with stopped := stopped } }
  if stopped then s.gensStopped else s.gensRestarted

def setClockRuns (s : Zone) (d bad good : Nat) : Zone :=
  s.setSafety { s.safety with clockBad := SMap.set (fun _ => 0) s.safety.clockBad d bad,
                              clockGood := SMap.set (fun _ => 0) s.safety.clockGood d good }

/-- The end of a window of domain d. -/
def clockWindow (s : Zone) (d : Nat) (w : ClockWindow) : Zone :=
  let p := pZONE 5
  let was := s.fldBit p ZONE5.CLK_STATUS_STOPPED d
  if w.stopped then
    if was then s
    else
      let s := (s.windowMark.setFldBit p ZONE5.CLK_STATUS_STOPPED d true).setClockRuns d 0 0
      (s.clockReport d 0).when (d == 1) (·.timeClock true)
  else
    let s := s.when was fun s => (s.windowMark.setFldBit p ZONE5.CLK_STATUS_STOPPED d false).when (d == 1) (·.timeClock false)
    let out := s.fldBit p ZONE5.CLK_STATUS_OUT_OF_WINDOW d
    if outsideWindow d (s.appClock.getD (0, 0)) w then
      let n := min 2 (SMap.get (fun _ => 0) s.safety.clockBad d + 1)
      let s := s.setClockRuns d n 0
      if n = 2 ∧ !out then (s.windowMark.setFldBit p ZONE5.CLK_STATUS_OUT_OF_WINDOW d true).clockReport d w.count else s
    else
      let n := min 2 (SMap.get (fun _ => 0) s.safety.clockGood d + 1)
      (s.setClockRuns d 0 n).when (n == 2 && out) (·.windowMark.setFldBit p ZONE5.CLK_STATUS_OUT_OF_WINDOW d false)

/-! ### Dual-clock queues -/

def dcq (s : Zone) (q : Nat) : DcqSt := SMap.get (fun _ => DcqSt.init) s.dcqs q
def setDcq (s : Zone) (q : Nat) (x : DcqSt) : Zone := { s with dcqs := SMap.set (fun _ => DcqSt.init) s.dcqs q x }

end Zone

/-- Words between the pointers of a queue of the given depth (R32). -/
def DcqSt.used (x : DcqSt) (depth : Nat) : Nat := (x.wptr + 2 * depth - x.rptr) % (2 * depth)

/-! ### Commands -/

def execClockMonitorWindow (domain : Fin 10) (window : ClockWindow) (st : State) : Result := st.runOn fun s =>
  if domain.val = 5 ∨ !s.clockRuns domain.val then s else s.paced (Pace.clock domain.val) 248 fun s => s.clockWindow domain.val window

/-- Words arrive at the writing side. Where they do not fit it holds its source, and a packet is never longer than half the depth
(R34, R35); with the last word of a packet its pointer is published. -/
def execDcqPacketWrite (queue : BitVec 16) (words : List Word) (complete : Bool) (st : State) : Result := st.runOn fun s =>
  let q := queue.toNat
  let x := s.dcq q
  let depth := dcqDepth q
  let packet := x.beyond ++ words
  if depth < x.used depth + words.length ∨ depth / 2 < packet.length then s
  else
    let x := { x with wptr := (x.wptr + words.length) % (2 * depth) }
    s.setDcq q (if complete ∧ packet ≠ [] then { x with packets := x.packets ++ [packet], beyond := [] } else { x with beyond := packet })

/-- The reading side reads a word (R33). -/
def execDcqWordRead (queue : BitVec 16) (ecc : EccResult) (st : State) : Result := st.runOn fun s =>
  let q := queue.toNat
  let x := s.dcq q
  let depth := dcqDepth q
  match x.packets with
  | [] => s
  | p :: rest =>
    match ecc with
    | .double =>
      let s := s.setDcq q { x with packets := rest, rptr := (x.rptr + p.length) % (2 * depth), ue := satU 16 (x.ue + 1) }
      let s := (s.count (pZONE 5) ZONE5.DCQ_UE_TOTAL_COUNT).setFld (pZONE 5) ZONE5.DCQ_UE_LAST_QUEUE_ID q
      s.report Src.eccOther 0
    | _ =>
      let fixed := ecc == .corrected
      let left := p.drop 1
      let s := s.setDcq q { x with packets := if left.isEmpty then rest else left :: rest, rptr := (x.rptr + 1) % (2 * depth),
                                   ce := if fixed then satU 16 (x.ce + 1) else x.ce }
      s.when fixed (·.count (pZONE 5) ZONE5.DCQ_CE_TOTAL_COUNT)

/-- The writing clock stops: every word beyond the last packet notice is discarded (R36). -/
def execDcqClockStop (queue : BitVec 16) (st : State) : Result := st.run fun s =>
  let q := queue.toNat
  let x := s.dcq q
  let depth := dcqDepth q
  s.setDcq q { x with wptr := (x.wptr + 2 * depth - x.beyond.length) % (2 * depth), beyond := [] }

end Sys2Proof.Machine
end

