-- ==== Sys2Proof/Machine/Harts.lean ====
section
/-! DEFINITION. What the harts of both clusters implement of the RISC-V specifications (R470 to R473, R480): the encodings they know,
their CSRs, physical memory protection, and the page-based and two-stage translation of the application cluster. What R471
and R472 name by the published Unprivileged ISA 20191213, the Privileged Architecture 1.12 and the Advanced Interrupt
Architecture is taken from them (log entry 100). -/

namespace Sys2Proof.Machine

open Reg

/-! ### Figures (R470) -/

/-- The figures of a cluster: cores, bits of a register, bytes of tightly coupled memory and of its shadow per core, bytes of each
level-1 cache and of the shared cache, the privilege modes. -/
structure ClusterFigures where
  cores : Nat
  xlen : Nat
  tcm : Nat
  l1 : Nat
  shared : Nat
  modes : List Priv
deriving DecidableEq, Repr

def appCluster : ClusterFigures := ⟨8, 64, 0, 32768, 4194304, [.m, .hs, .vs, .u, .vu]⟩
def safetyCluster : ClusterFigures := ⟨4, 32, 0x80000, 0, 0, [.m, .u]⟩

/-- misa (R473). -/
@[reducible] def misaApp : BitVec 64 := 0x80000000009411AD#64
@[reducible] def misaSafety : Word := 0x40901105#32

/-! ### Encodings (R471 to R473) -/

/-- Whether a 16-bit encoding is one of the C extension: RV32C without floating point, or RV64C with F and D; the encoding of zeros
and the reserved ones are not. -/
def knownShort (app : Bool) (w : Nat) : Bool :=
  let f3 := w / 2 ^ 13 % 8
  let rd := w / 2 ^ 7 % 32
  let imm6 := w / 2 ^ 12 % 2 * 32 + w / 4 % 32
  match w % 4 with
  | 0 =>
    match f3 with
    | 0 => decide (w / 2 ^ 5 % 256 ≠ 0)
    | 2 => true
    | 6 => true
    | 4 => false
    | _ => app
  | 1 =>
    match f3 with
    | 1 => !app || decide (rd ≠ 0)
    | 3 => decide (imm6 ≠ 0)
    | 4 =>
      match w / 2 ^ 10 % 4 with
      | 2 => true
      | 3 => decide (w / 2 ^ 12 % 2 = 0) || (app && decide (w / 2 ^ 5 % 4 ≤ 1))
      | _ => app || decide (w / 2 ^ 12 % 2 = 0)
    | _ => true
  | 2 =>
    match f3 with
    | 0 => app || decide (w / 2 ^ 12 % 2 = 0)
    | 2 => decide (rd ≠ 0)
    | 4 => decide (w / 2 ^ 12 % 2 = 1 ∨ rd ≠ 0 ∨ w / 4 % 32 ≠ 0)
    | 6 => true
    | 3 => app && decide (rd ≠ 0)
    | _ => app
  | _ => false

/-- Whether a 32-bit encoding of SYSTEM without a CSR is known: ECALL, EBREAK, MRET and WFI, and of the application cluster SRET and
the fences and accesses of supervisor and hypervisor. -/
def knownSystem (app : Bool) (w : Nat) : Bool :=
  let rd := w / 2 ^ 7 % 32
  let rs2 := w / 2 ^ 20 % 32
  let f7 := w / 2 ^ 25
  match w / 2 ^ 12 % 8 with
  | 0 => [0x00000073, 0x00100073, 0x30200073, 0x10500073].contains w ||
      (app && (w == 0x10200073 || ([0x09, 0x11, 0x31].contains f7 && rd == 0)))
  | 4 => app && (match f7 with
      | 0x30 => decide (rs2 ≤ 1)
      | 0x32 => decide (rs2 = 0 ∨ rs2 = 1 ∨ rs2 = 3)
      | 0x34 => decide (rs2 = 0 ∨ rs2 = 1 ∨ rs2 = 3)
      | 0x36 => decide (rs2 = 0)
      | _ => [0x31, 0x33, 0x35, 0x37].contains f7 && rd == 0)
  | _ => true

/-- Whether an encoding of OP-FP is one of F and D on RV64, with no reserved rounding mode. -/
def knownOpFp (w : Nat) : Bool :=
  let f7 := w / 2 ^ 25
  let f3 := w / 2 ^ 12 % 8
  let rs2 := w / 2 ^ 20 % 32
  let rm := decide (f3 ≠ 5 ∧ f3 ≠ 6)
  if 2 ≤ f7 % 4 then false
  else match f7 / 4 with
    | 0x00 => rm
    | 0x01 => rm
    | 0x02 => rm
    | 0x03 => rm
    | 0x0B => rm && rs2 == 0
    | 0x04 => decide (f3 ≤ 2)
    | 0x05 => decide (f3 ≤ 1)
    | 0x08 => rm && decide (rs2 = 1 - f7 % 4)
    | 0x14 => decide (f3 ≤ 2)
    | 0x18 => rm && decide (rs2 ≤ 3)
    | 0x1A => rm && decide (rs2 ≤ 3)
    | 0x1C => decide (f3 ≤ 1) && rs2 == 0
    | 0x1E => f3 == 0 && rs2 == 0
    | _ => false

/-- Whether a 32-bit encoding is one of the extensions that the cluster has: I, M, A, Zicsr and Zifencei of its base, and of the
application cluster F, D, S and H. -/
def knownLong (app : Bool) (w : Nat) : Bool :=
  let f3 := w / 2 ^ 12 % 8
  let f7 := w / 2 ^ 25
  let shift (f : Nat) : Bool := if app then decide (f / 2 = 0 ∨ (f / 2 = 0x10 ∧ f3 = 5)) else decide (f = 0 ∨ (f = 0x20 ∧ f3 = 5))
  match w % 128 with
  | 0x37 => true
  | 0x17 => true
  | 0x6F => true
  | 0x67 => f3 == 0
  | 0x63 => decide (f3 ≠ 2 ∧ f3 ≠ 3)
  | 0x03 => decide (f3 ≤ 2 ∨ f3 = 4 ∨ f3 = 5) || (app && decide (f3 = 3 ∨ f3 = 6))
  | 0x23 => decide (f3 ≤ 2) || (app && f3 == 3)
  | 0x13 => if f3 = 1 ∨ f3 = 5 then shift f7 else true
  | 0x33 => decide (f7 ≤ 1) || decide (f7 = 0x20 ∧ (f3 = 0 ∨ f3 = 5))
  | 0x1B => app && (f3 == 0 || (f3 == 1 && f7 == 0) || (f3 == 5 && (f7 == 0 || f7 == 0x20)))
  | 0x3B => app && ((f7 == 0 && [0, 1, 5].contains f3) || (f7 == 0x20 && [0, 5].contains f3) || (f7 == 1 && [0, 4, 5, 6, 7].contains f3))
  | 0x0F => decide (f3 ≤ 1)
  | 0x73 => knownSystem app w
  | 0x2F =>
    (f3 == 2 || (app && f3 == 3)) && (match f7 / 4 with
      | 2 => decide (w / 2 ^ 20 % 32 = 0)
      | n => [0, 1, 3, 4, 8, 0xC, 0x10, 0x14, 0x18, 0x1C].contains n)
  | 0x07 => app && decide (f3 = 2 ∨ f3 = 3)
  | 0x27 => app && decide (f3 = 2 ∨ f3 = 3)
  | 0x53 => app && knownOpFp w
  | _ => app && [0x43, 0x47, 0x4B, 0x4F].contains (w % 128) && decide (f7 % 4 ≤ 1 ∧ f3 ≠ 5 ∧ f3 ≠ 6)

/-- Whether the instruction that begins with a word is one of the extensions of R471 or R472; the encodings of all others raise
illegal-instruction exceptions (R473). -/
def knownInstr (app : Bool) (w : Word) : Bool :=
  if w.toNat % 4 = 3 then knownLong app w.toNat else knownShort app (w.toNat % 65536)

/-! ### CSRs (R471, R472, R480, R494) -/

/-- The CSRs that both clusters hold. -/
def csrBoth (n : Nat) : Bool :=
  [0x300, 0x301, 0x304, 0x305, 0x306, 0x30A, 0x320, 0x340, 0x341, 0x342, 0x343, 0x344, 0xF11, 0xF12, 0xF13, 0xF14, 0xF15,
    0x7D0].contains n || decide ((0x323 ≤ n ∧ n ≤ 0x33F) ∨ (0x3B0 ≤ n ∧ n ≤ 0x3BF) ∨ (0xB00 ≤ n ∧ n ≤ 0xB1F ∧ n ≠ 0xB01) ∨
      (0xC00 ≤ n ∧ n ≤ 0xC1F))

/-- The CSRs of a safety hart: also the high halves of RV32, its PMP configuration, and those of Xzdp and Xzmr. -/
def csrSafety (n : Nat) : Bool :=
  csrBoth n || [0x310, 0x31A, 0x3A0, 0x3A1, 0x3A2, 0x3A3, 0x7C0, 0x7C1, 0xFC0, 0xFC1, 0xFC3, 0xFC4, 0x7D2].contains n ||
    decide ((0xB80 ≤ n ∧ n ≤ 0xB9F ∧ n ≠ 0xB81) ∨ (0xC80 ≤ n ∧ n ≤ 0xC9F))

/-- The CSRs of an application hart: also floating point, supervisor, hypervisor, the Advanced Interrupt Architecture and Xzmr. -/
def csrApp (n : Nat) : Bool :=
  csrBoth n || [0x001, 0x002, 0x003, 0x100, 0x104, 0x105, 0x106, 0x10A, 0x140, 0x141, 0x142, 0x143, 0x144, 0x150, 0x151, 0x15C, 0x180,
    0x200, 0x204, 0x205, 0x240, 0x241, 0x242, 0x243, 0x244, 0x250, 0x251, 0x25C, 0x280, 0x302, 0x303, 0x308, 0x309, 0x34A, 0x34B,
    0x350, 0x351, 0x35C, 0x3A0, 0x3A2, 0x5D0, 0x5D1, 0x600, 0x602, 0x603, 0x604, 0x605, 0x606, 0x607, 0x608, 0x609, 0x60A, 0x643,
    0x644, 0x645, 0x646, 0x647, 0x64A, 0x680, 0x7D1, 0xDB0, 0xE12, 0xEB0, 0xFB0].contains n

/-- Whether a CSR is one of the module's extensions (R494). -/
def csrCustom (n : Nat) : Bool := [0x7C0, 0x7C1, 0xFC0, 0xFC1, 0xFC3, 0xFC4, 0x7D0, 0x7D1, 0x7D2, 0x5D0, 0x5D1].contains n

/-- The cause of the exception that an access of a mode to a CSR raises, none where the mode may make it (R494): 2 illegal
instruction, 22 virtual instruction. -/
def csrRefusal (app : Bool) (n : Nat) (mode : Priv) (write : Bool) : Option Nat :=
  let level := n / 256 % 4
  if !(if app then csrApp n else csrSafety n) || (write && decide (n / 1024 = 3)) then some 2
  else match mode with
    | .m => none
    | .hs => if level ≤ 2 then none else some 2
    | .u => if level = 0 then none else some 2
    | .vs => if csrCustom n then some 22 else match level with | 2 => some 22 | 3 => some 2 | _ => none
    | .vu => if csrCustom n then some 22 else match level with | 0 => none | 3 => some 2 | _ => some 22

/-- The CSR that a number names in a mode: in VS mode a supervisor CSR that has a copy of the guest is that copy. -/
def csrAlias (n : Nat) (mode : Priv) : Nat :=
  if mode = .vs ∧ [0x100, 0x104, 0x105, 0x140, 0x141, 0x142, 0x143, 0x144, 0x150, 0x151, 0x15C, 0x180].contains n = true then n + 0x100
  else n

/-! ### Physical memory protection (R471, R472) -/

/-- The number of bits of value 1 at the low end of n, below `fuel`. -/
def trailingOnes : Nat → Nat → Nat
  | 0, _ => 0
  | fuel + 1, n => if n % 2 = 1 then trailingOnes fuel (n / 2) + 1 else 0

/-- The bytes that a PMP entry names, of a granularity of 2^g bytes: its configuration, its address word and the one before. -/
def pmpRange (g cfg addr prev : Nat) : Option (Nat × Nat) :=
  match cfg / 8 % 4 with
  | 1 => some (prev * 4 / 2 ^ g * 2 ^ g, addr * 4 / 2 ^ g * 2 ^ g)
  | 3 =>
    let a := addr ||| (2 ^ (g - 3) - 1)
    let size := 2 ^ (trailingOnes 64 a + 3)
    some (a * 4 / size * size, a * 4 / size * size + size)
  | _ => none

/-- Whether an access is one that needs the given permission bits: 1 read, 2 write, 4 execute. -/
def permBits (kind : AccessKind) : Nat :=
  match kind with
  | .read => 1
  | .write => 2
  | .fetch => 4
  | .atomic => 3

/-- Whether the PMP entries permit an access to [a, a + n): the first that names one of its bytes decides, and must name all of them;
M mode passes by an unlocked entry, and where none names it. Each entry holds its configuration, its address word and the one before. -/
def pmpAllows (g : Nat) (machine : Bool) (kind : AccessKind) (a n : Nat) : List (Nat × Nat × Nat) → Bool
  | [] => machine
  | (cfg, addr, prev) :: r =>
    match pmpRange g cfg addr prev with
    | none => pmpAllows g machine kind a n r
    | some (lo, hi) =>
      if a + n ≤ lo ∨ hi ≤ a then pmpAllows g machine kind a n r
      else decide (lo ≤ a ∧ a + n ≤ hi) && ((machine && !cfg.testBit 7) || (cfg &&& permBits kind) == permBits kind)

/-- A byte of a PMP configuration after a write: a locked entry stays, W without R is reserved, and an entry of four bytes cannot be
selected at either granularity. -/
def pmpByte (old new : Nat) : Nat :=
  if old.testBit 7 then old
  else
    let n := new &&& 0x9F
    let n := if n / 8 % 4 = 2 then n - 16 + old / 8 % 4 * 8 else n
    if n.testBit 1 && !n.testBit 0 then n / 4 * 4 + old % 4 else n

/-- The bytes of a word of PMP configuration after a write. -/
def pmpWord (bytes old new : Nat) : Nat :=
  (List.range bytes).foldl (fun w k => w + pmpByte (old / 256 ^ k % 256) (new / 256 ^ k % 256) * 256 ^ k) 0

namespace Zone

/-! ### Reading CSRs -/

/-- A CSR of an application hart as it is stored. -/
def appCsr (s : Zone) (h n : Nat) : BitVec 64 := SMap.get (fun _ => 0) (s.hart h).csrs n

/-- A CSR of a safety hart as it is stored: of hart 2n in its core, of hart 2n + 1 beside it. -/
def safetyCsr_ (s : Zone) (h n : Nat) : Word :=
  if h % 2 = 0 then SMap.get (fun _ => 0) (s.core (h / 2)).csrs n else (SMap.get (fun _ => 0) (s.hart (8 + h)).csrs n).setWidth 32

/-- The sixteen PMP entries of a hart, eight or four to a word of configuration. -/
def pmpEntries (app : Bool) (csr : Nat → Nat) : List (Nat × Nat × Nat) :=
  (List.range 16).map fun i =>
    let cfg := if app then csr (0x3A0 + i / 8 * 2) / 256 ^ (i % 8) % 256 else csr (0x3A0 + i / 4) / 256 ^ (i % 4) % 256
    (cfg, csr (0x3B0 + i), if i = 0 then 0 else csr (0x3AF + i))

def appPmp (s : Zone) (h : Nat) (machine : Bool) (kind : AccessKind) (a n : Nat) : Bool :=
  pmpAllows 12 machine kind a n (pmpEntries true fun k => (s.appCsr h k).toNat)

def safetyPmp (s : Zone) (h : Nat) (machine : Bool) (kind : AccessKind) (a n : Nat) : Bool :=
  pmpAllows 5 machine kind a n (pmpEntries false fun k => (s.safetyCsr_ h k).toNat)

/-- The cycles of 800 MHz that mcycle of core n has counted; CY of mcountinhibit stops it. -/
def mcycle (s : Zone) (n : Nat) : Nat :=
  let c := s.core n
  c.cycles + (if (s.safetyCsr_ (2 * n) 0x320).getLsbD 0 then 0 else (s.mono - c.cyclesFrom) * 16 / 5)

/-- The instructions that minstret of core n has counted. -/
def minstret (s : Zone) (n : Nat) : Nat := (s.core n).instret

/-- mip of a safety hart: a pending source of its local controller is the machine external interrupt. -/
def safetyMip (s : Zone) (h : Nat) : Word := if SMap.get (fun _ => 0) s.localIrq h = 0 then 0 else 0x800

/-! ### Translation (R471) -/

/-- What translation answers: an address, or the cause of the exception, given for a load: 5 access, 13 page, 21 guest page. -/
inductive HartAddr where
  | pa (a : Nat)
  | fault (cause : Nat)
deriving DecidableEq, Repr

/-- The cause that an access of a kind raises in place of a load's. -/
def faultOf (kind : AccessKind) (cause : Nat) : Nat :=
  match kind with
  | .read => cause
  | .fetch => if cause = 5 then 1 else cause - 1
  | _ => cause + 2

/-- A table entry in main memory, read for hart h: none where protection or the region refuse it. -/
def pteRead (s : Zone) (h : Nat) (src : Source) (a : Nat) : Option Nat × Zone :=
  if s.controller a ≠ some 1 ∨ !s.appPmp h false .read a 8 then (none, s)
  else
    let x := s.regionCheck src true false a 8
    if x.1 ≠ Err.none then (none, x.2) else (some (leNat (x.2.memRead a 8)), x.2)

/-- What a leaf entry allows (Sv39, Sv48): `user` where U must be 1, else 0 unless `sum`; `mxr` lets executable pages be read. Accessed and
dirty bits that are 0 fault. -/
def leafAllows (e : Nat) (kind : AccessKind) (user sum mxr : Bool) : Bool :=
  let r := e.testBit 1 || (mxr && e.testBit 3)
  (match kind with
   | .read => r
   | .write => e.testBit 2
   | .fetch => e.testBit 3
   | .atomic => e.testBit 1 && e.testBit 2) &&
    (if user then e.testBit 4 else !e.testBit 4 || (sum && kind != .fetch)) &&
    e.testBit 6 && (e.testBit 7 || kind == .read || kind == .fetch)

/-- A walk of tables of 512 entries from table `a` at level `lvl`, the root with 2^`wide` times as many; `stage` gives the address at which an
entry stands. -/
def tableWalk (h : Nat) (src : Source) (va : Nat) (kind : AccessKind) (user sum mxr : Bool) (cause : Nat)
    (stage : Zone → Nat → HartAddr × Zone) : Nat → Nat → Nat → Nat → Zone → HartAddr × Zone
  | 0, _, _, _, s => (.fault cause, s)
  | fuel + 1, a, lvl, wide, s =>
    let x := stage s (a + va / 2 ^ (12 + 9 * lvl) % 2 ^ (9 + wide) * 8)
    match x.1 with
    | .fault c => (.fault c, x.2)
    | .pa b =>
      let y := x.2.pteRead h src b
      match y.1 with
      | none => (.fault 5, y.2)
      | some e =>
        let ppn := e / 2 ^ 10 % 2 ^ 44
        if !e.testBit 0 || (!e.testBit 1 && e.testBit 2) || decide (e / 2 ^ 54 ≠ 0) then (.fault cause, y.2)
        else if !e.testBit 1 && !e.testBit 3 then
          if lvl = 0 ∨ e / 16 % 16 / 4 ≠ 0 ∨ e.testBit 4 then (.fault cause, y.2)
          else tableWalk h src va kind user sum mxr cause stage fuel (ppn * 4096) (lvl - 1) 0 y.2
        else if ppn % 2 ^ (9 * lvl) ≠ 0 ∨ !leafAllows e kind user sum mxr then (.fault cause, y.2)
        else (.pa (ppn / 2 ^ (9 * lvl) * 2 ^ (12 + 9 * lvl) + va % 2 ^ (12 + 9 * lvl)), y.2)

/-- The levels of a translation mode, 8 Sv39 or Sv39x4 and 9 Sv48 or Sv48x4; none for Bare. -/
def modeLevels (atp : Nat) : Option Nat :=
  match atp / 2 ^ 60 with
  | 8 => some 3
  | 9 => some 4
  | _ => none

/-- The second stage: a guest-physical address under hgatp. -/
def guestStage (h : Nat) (src : Source) (kind : AccessKind) (mxr : Bool) (s : Zone) (ga : Nat) : HartAddr × Zone :=
  let atp := (s.appCsr h 0x680).toNat
  match modeLevels atp with
  | none => (.pa ga, s)
  | some l =>
    if ga / 2 ^ (14 + 9 * l) ≠ 0 then (.fault 21, s)
    else tableWalk h src ga kind true false mxr 21 (fun s a => (.pa a, s)) l (atp % 2 ^ 44 / 4 * 16384) (l - 1) 2 s

/-- Whether bits 63 down to the top bit of a translation mode are equal. -/
def signExtended (l va : Nat) : Bool := decide (va / 2 ^ (11 + 9 * l) = 0 ∨ va / 2 ^ (11 + 9 * l) = 2 ^ (53 - 9 * l) - 1)

/-- Where an address of application hart h leads in a mode. -/
def hartTranslate (s : Zone) (h : Nat) (src : Source) (mode : Priv) (kind : AccessKind) (va : Nat) : HartAddr × Zone :=
  let guest := decide (mode = .vs ∨ mode = .vu)
  let user := decide (mode = .u ∨ mode = .vu)
  if mode = .m then (.pa va, s)
  else
    let atp := (s.appCsr h (if guest then 0x280 else 0x180)).toNat
    let st := s.appCsr h (if guest then 0x200 else 0x300)
    let mxr := st.getLsbD 19 || (s.appCsr h 0x300).getLsbD 19
    let second (s : Zone) (k : AccessKind) (a : Nat) : HartAddr × Zone :=
      if guest then guestStage h src k ((s.appCsr h 0x300).getLsbD 19) s a else (.pa a, s)
    match modeLevels atp with
    | none => second s kind va
    | some l =>
      if !signExtended l va then (.fault 13, s)
      else
        let x := tableWalk h src (va % 2 ^ (12 + 9 * l)) kind user (st.getLsbD 18) mxr 13 (fun s a => second s .read a) l
          (atp % 2 ^ 44 * 4096) (l - 1) 0 s
        match x.1 with
        | .pa a => second x.2 kind a
        | f => (f, x.2)

/-! ### Sources and exceptions -/

/-- The world and mooring of the transactions of application hart h in a mode (R497). -/
def appSource (s : Zone) (h : Nat) (mode : Priv) : Source :=
  let x := s.hart h
  let w : World := if x.secure then .secure else .normal
  match mode with
  | .m => sourceZero
  | .hs => ⟨w, x.moorH⟩
  | .u => ⟨w, x.moorH⟩
  | .vs => ⟨w, x.moorV⟩
  | .vu => ⟨w, x.moorV⟩

/-- The same of safety hart h, in M or U mode (R497). -/
def safetySource (s : Zone) (h : Nat) (machine : Bool) : Source :=
  let x := s.hart (8 + h)
  if machine then sourceZero else ⟨if x.secure then .secure else .normal, x.moorU⟩

/-- Hart k, counted through both clusters, raises an exception; what follows is the published ISA's (log entry 78). -/
def setHartException (s : Zone) (k cause : Nat) : Zone := s.setHart k { s.hart k with exception := cause }

/-- The access of hart k, answered at once, has fetched a word: an encoding that its cluster does not know raises an illegal-instruction exception
(R473). -/
def checkFetched (s : Zone) (app : Bool) (k : Nat) (kind : AccessKind) : Zone :=
  s.when (kind == .fetch && s.resp.code == Err.none && !knownInstr app (BitVec.ofNat 32 s.resp.data)) (·.setHartException k 2)

/-! ### Writing CSRs -/

/-- The bits of mstatus that sstatus shows. -/
@[reducible] def sstatusMask : BitVec 64 := 0x80000003000DE762#64

/-- Whether a word of an address-translation CSR selects a mode of R471: Bare, Sv39 or Sv48, and their x4 modes. -/
def atpOk (v : BitVec 64) : Bool := [0, 8, 9].contains (v.toNat / 2 ^ 60)

/-- What a write of v leaves in CSR n of an application hart, from its old value; `get` reads the hart's CSRs. A PMP address that is
locked, or that bounds the locked range of the next entry, stays. What other fields take their legal values only is stored as written
(log entry 100). -/
def csrStored (app : Bool) (get : Nat → Nat) (n : Nat) (old v : BitVec 64) : BitVec 64 :=
  let cfg (i : Nat) : Nat := ((pmpEntries app get).getD i (0, 0, 0)).1
  if n = 0x301 then old
  else if [0x180, 0x280, 0x680].contains n then (if atpOk v then v else old)
  else if 0x3A0 ≤ n ∧ n ≤ 0x3A3 then BitVec.ofNat 64 (pmpWord (if app then 8 else 4) old.toNat v.toNat)
  else if 0x3B0 ≤ n ∧ n ≤ 0x3BF then
    let i := n - 0x3B0
    if (cfg i).testBit 7 ∨ (cfg (i + 1) / 8 % 4 = 1 ∧ (cfg (i + 1)).testBit 7) then old
    else if app then v &&& 0x3FFFFFFFFFFFFF else v
  else if (0xB0B ≤ n ∧ n ≤ 0xB1F) ∨ (0x32B ≤ n ∧ n ≤ 0x33F) then 0
  else if n = 0x341 ∨ n = 0x141 ∨ n = 0x241 then v &&& ~~~1#64
  else v

/-- A write of CSR n by an application hart, past the check of its mode. -/
def appCsrWrite (s : Zone) (h n : Nat) (v : BitVec 64) : Zone :=
  let put (k : Nat) (v : BitVec 64) : Zone :=
    s.setHart h { s.hart h with csrs := SMap.set (fun _ => 0) (s.hart h).csrs k (csrStored true (fun k => (s.appCsr h k).toNat) k (s.appCsr h k) v) }
  if n = 0x100 then put 0x300 ((s.appCsr h 0x300 &&& ~~~sstatusMask) ||| (v &&& sstatusMask)) else put n v

/-- Half of a counter of 64 bits, by the number of its CSR. -/
def counterHalf (n v : Nat) : Word := BitVec.ofNat 32 (if n / 128 % 2 = 1 then v / 2 ^ 32 else v)

/-- A counter of which one half has been written. -/
def counterPut (n old : Nat) (v : Word) : Nat :=
  if n / 128 % 2 = 1 then old % 2 ^ 32 + v.toNat * 2 ^ 32 else old / 2 ^ 32 * 2 ^ 32 + v.toNat

/-- A write of a CSR of the published ISA by core n of the safety cluster. -/
def safetyCsrWrite (s : Zone) (n num : Nat) (v : Word) : Zone :=
  let c := s.core n
  if num = 0xB00 ∨ num = 0xB80 then s.setCore n { c with cycles := counterPut num (s.mcycle n) v, cyclesFrom := s.mono }
  else if num = 0xB02 ∨ num = 0xB82 then s.setCore n { c with instret := counterPut num c.instret v }
  else
    let c := if num = 0x320 then { c with cycles := s.mcycle n, cyclesFrom := s.mono } else c
    let get (k : Nat) : Nat := (s.safetyCsr_ (2 * n) k).toNat
    let new := csrStored false get num ((s.safetyCsr_ (2 * n) num).setWidth 64) (v.setWidth 64)
    s.setCore n { c with csrs := SMap.set (fun _ => 0) c.csrs num (new.setWidth 32) }

/-- The same by hart 2n + 1 of a split core n. -/
def oddCsrWrite (s : Zone) (h num : Nat) (v : Word) : Zone :=
  let x := s.hart (8 + h)
  let get (k : Nat) : Nat := (s.safetyCsr_ h k).toNat
  let new := csrStored false get num ((s.safetyCsr_ h num).setWidth 64) (v.setWidth 64)
  s.setHart (8 + h) { x with csrs := SMap.set (fun _ => 0) x.csrs num (new &&& 0xFFFFFFFF) }

end Zone

end Sys2Proof.Machine
end

