-- ==== Sys2Proof/Machine/Hinges.lean ====
section
/-! DEFINITION. Memory accesses of the clusters and the hinges that they cross (R501, R503, R536 to R559). -/

namespace Sys2Proof.Machine

open Reg

/-- Whether an access of `n` bytes is a naturally aligned one that crosses H1 (R536). -/
def h1Aligned (a n : Nat) : Bool := [1, 2, 4, 8, 16, 32, 64].contains n && a % n == 0

namespace Zone

/-! ### The windows of the register space beyond its pages (R421, R441, R537, R551, R596) -/

/-- Whether a word at offset `b` of the buffer window lies in a buffer, and the bus channel that it belongs to. -/
def bufferChan (b : Nat) : Option Nat :=
  if b < 0x80000 then (if b % 0x8000 < 0x5600 then some (b / 0x8000) else none)
  else if b < 0x84000 then (if b % 0x2000 < 0x1100 then some (22 + (b - 0x80000) / 0x2000) else none)
  else none

/-- Whether a buffer word belongs to the transmit buffers that a source owns (R505, R517). -/
def ownsBuffer (s : Zone) (src : Source) (c b : Nat) : Bool :=
  let n := SMap.get (fun _ => 0) s.txBuffers c
  let last := if c < 16 then canBufAddr c n else serBufAddr (c - 22) n
  s.ringKind c == 1 && s.ringOwner c == src && !s.busQuiesced c && decide (b + 4 ≤ last)

/-- The region check of a window word. -/
def windowCheck (s : Zone) (src : Source) (k : Nat) (wr : Bool) : Nat × Zone := s.regionCheck src (!wr) wr (0x1F0000000 + k) 4

/-- A write of a word of a keyring window (R596, R597). -/
def keyWindowWrite (s : Zone) (src : Source) (n off : Nat) (v : Word) : Nat × Zone :=
  if n = 0 then (Err.decode, s)
  else
    let c := if (s.keySlot n).owner = some src then (Err.none, s) else s.windowCheck src (pWIN n + off) true
    if c.1 ≠ Err.none then c
    else
      let s := c.2
      if off = 0 then (Err.none, s.opWrite n src v)
      else if !s.windowOpen n src || s.flag (pWIN n) WIN.STATUS_BUSY then (Err.none, s.count pKEY KEY0.ACCESS_COUNTS_IGNORED)
      else match wordD .win off with
        | none => (Err.none, s)
        | some d =>
          let k := pWIN n + off
          let new := d.merge ⟨true, true, true, false⟩ false 0 (s.rd k) v
          (Err.none, s.wr k (keepRanges (fieldRanges .win 0 off) (s.rd k) new))

/-- A read of a word of a keyring window. -/
def keyWindowRead (s : Zone) (src : Source) (n off : Nat) : Nat × Word × Zone :=
  if n = 0 then (Err.decode, 0, s)
  else
    let c := if (s.keySlot n).owner = some src then (Err.none, s) else s.windowCheck src (pWIN n + off) false
    if c.1 ≠ Err.none then (c.1, 0, c.2)
    else
      let s := c.2
      if !s.windowOpen n src || (s.flag (pWIN n) WIN.STATUS_BUSY && decide (8 ≤ off)) then (Err.none, 0, s)
      else match wordD .win off with
        | none => (Err.none, 0, s)
        | some d => (Err.none, s.rd (pWIN n + off) &&& ~~~ BitVec.ofNat 32 d.wo, s)

/-- A write of a word at offset `k` of the register space, past its pages: interrupt files, queue windows, buffers, keyring
windows. -/
def windowWrite (s : Zone) (src : Source) (k : Nat) (v : Word) : Nat × Zone :=
  let b := k - 0x4000000
  if 0x2000000 ≤ k ∧ k < 0x2088000 then
    let c := s.windowCheck src k true
    if c.1 ≠ Err.none then c
    else match irqTarget (0x1F0000000 + k) with
      | none => (Err.decode, c.2)
      | some r =>
        if k < 0x2080000 then (Err.none, c.2.sendNotice (BitVec.ofNat 32 (r + v.toNat % 2048)))
        else (Err.none, c.2.hingePost 1 ⟨true, false, 0x1F0000000 + k, src, 4, leBytes 4 v.toNat, false, 0⟩)
  else if 0x3000000 ≤ k ∧ k < 0x3200000 then
    let c := s.windowCheck src k true
    if c.1 ≠ Err.none then c
    else if k < 0x3100000 ∧ k % 0x1000 = 0 then
      let z := c.2.postWord (k / 0x1000 % 256) src v
      (z.resp.code, z)
    else (Err.decode, c.2)
  else if 0x4000000 ≤ k ∧ k < 0x4084000 then
    match bufferChan b with
    | none => (Err.decode, s)
    | some c =>
      let x := if s.ownsBuffer src c b then (Err.none, s) else s.windowCheck src k true
      if x.1 ≠ Err.none then x else (Err.none, x.2.busWrite b (leBytes 4 v.toNat))
  else if 0x5000000 ≤ k ∧ k < 0x5100000 then s.keyWindowWrite src ((k - 0x5000000) / 0x1000) (k % 0x1000) v
  else (Err.decode, s)

/-- A read of a word past the pages. What an interrupt file or a local controller answers, the spec does not state (log entry 2). -/
def windowRead (s : Zone) (src : Source) (k : Nat) : Nat × Word × Zone :=
  let b := k - 0x4000000
  if 0x2000000 ≤ k ∧ k < 0x2088000 then
    let c := s.windowCheck src k false
    if c.1 ≠ Err.none then (c.1, 0, c.2)
    else match irqTarget (0x1F0000000 + k) with
      | none => (Err.decode, 0, c.2)
      | some _ => (Err.none, c.2.fresh.1, c.2.fresh.2)
  else if 0x3000000 ≤ k ∧ k < 0x3200000 then
    let c := s.windowCheck src k false
    let q := k / 0x1000 % 256
    if c.1 ≠ Err.none then (c.1, 0, c.2)
    else match decide (k < 0x3100000), k % 0x1000 with
      | true, 0 => (Err.none, 0, c.2)
      | true, 4 => (Err.none, BitVec.ofNat 32 (c.2.reqFree q), c.2)
      | false, 0 => let z := c.2.popEvt q src; (z.resp.code, BitVec.ofNat 32 z.resp.data, z)
      | false, 4 => (Err.none, BitVec.ofNat 32 (c.2.evtQ q).words.length, c.2)
      | _, _ => (Err.decode, 0, c.2)
  else if 0x4000000 ≤ k ∧ k < 0x4084000 then
    match bufferChan b with
    | none => (Err.decode, 0, s)
    | some c =>
      let x := if s.ownsBuffer src c b then (Err.none, s) else s.windowCheck src k false
      if x.1 ≠ Err.none then (x.1, 0, x.2)
      else let y := x.2.busBytes b 4; (Err.none, BitVec.ofNat 32 (leNat y.1), y.2)
  else if 0x5000000 ≤ k ∧ k < 0x5100000 then s.keyWindowRead src ((k - 0x5000000) / 0x1000) (k % 0x1000)
  else (Err.decode, 0, s)

/-! ### Targets on the application fabric (R27, R28, R501) -/

/-- A write to the register space and its windows. -/
def spaceStore (s : Zone) (src : Source) (a : Nat) (l : List Byte) : Nat × Zone :=
  let k := a - 0x1F0000000
  let n := l.length
  if !alignedAccess k n then (Err.align, s)
  else if k < 0x1000000 then s.spaceWrite src k n (leNat l)
  else
    let x := s.windowWrite src k (BitVec.ofNat 32 (leNat (l.take 4)))
    if n = 4 then x
    else
      let y := x.2.windowWrite src (k + 4) (BitVec.ofNat 32 (leNat (l.drop 4)))
      (if x.1 = Err.none then y.1 else x.1, y.2)

/-- A read of the register space and its windows. -/
def spaceLoad (s : Zone) (src : Source) (a n : Nat) : Nat × List Byte × Zone :=
  let k := a - 0x1F0000000
  if !alignedAccess k n then (Err.align, [], s)
  else if k < 0x1000000 then let x := s.spaceRead src k n; (x.1, leBytes n x.2.1, x.2.2)
  else
    let x := s.windowRead src k
    if n = 4 then (x.1, leBytes 4 x.2.1.toNat, x.2.2)
    else
      let y := x.2.2.windowRead src (k + 4)
      (if x.1 = Err.none then y.1 else x.1, leBytes 4 x.2.1.toNat ++ leBytes 4 y.2.1.toNat, y.2.2)

/-- A write by source `src` at an application-physical address: it reaches its target, or the hinge on the way. -/
def fabricStore (s : Zone) (src : Source) (a : Nat) (l : List Byte) : Nat × Zone :=
  match s.controller a with
  | none => (Err.decode, s)
  | some 12 => s.spaceStore src a l
  | some c =>
    if (2 ≤ c ∧ c ≤ 9) ∧ !h1Aligned a l.length then (Err.align, s)
    else
      let x := s.regionCheck src false true a l.length
      if x.1 ≠ Err.none then x
      else
        let s := x.2
        if rootConfig a then (Err.none, s)
        else if c = 13 then (Err.none, s.h0Write src a l)
        else if 2 ≤ c ∧ c ≤ 9 then
          (Err.none, (s.lineWritten 1 a l.length).hingePost 1 ⟨true, false, a, src, l.length, l, false, 0⟩)
        else (Err.none, s.memWrite a l)

/-- A read by source `src` at an application-physical address whose answer needs no hinge request of its own (log entry 70). -/
def fabricLoad (s : Zone) (src : Source) (a n : Nat) (write : Bool) : Nat × List Byte × Zone :=
  match s.controller a with
  | none => (Err.decode, [], s)
  | some 12 => s.spaceLoad src a n
  | some c =>
    if (2 ≤ c ∧ c ≤ 9) ∧ !h1Aligned a n then (Err.align, [], s)
    else
      let x := s.regionCheck src true write a n
      if x.1 ≠ Err.none then (x.1, [], x.2)
      else if c = 13 ∧ !x.2.h0Up then (Err.linkDown, [], x.2)
      else let y := x.2.dmaLoad a n; (Err.none, y.1, y.2)

/-- The hinge that a read crosses, where its address lies in a window of R537. -/
def crossing (s : Zone) (a : Nat) : Option Nat :=
  if 0x1F2080000 ≤ a ∧ a < 0x1F2088000 then some 1
  else match s.controller a with
    | some 13 => some 0
    | some c => if 2 ≤ c ∧ c ≤ 9 then some 1 else none
    | none => none

/-! ### Prefetched lines (R554) -/

/-- A held line that answers a read. -/
def lineFor (s : Zone) (h : Nat) (inbound : Bool) (src : Source) (a n : Nat) : Option HeldLine :=
  (s.hinge h).lines.find? fun l => l.inbound == inbound && l.src == src && decide (l.addr ≤ a ∧ a + n ≤ l.addr + 64)

/-- Hold a line; each direction holds 16, and the oldest makes place (R554, R555). -/
def holdLine (s : Zone) (h : Nat) (l : HeldLine) : Zone :=
  let mine := (s.hinge h).lines.filter fun m => m.inbound == l.inbound
  let same := mine.find? fun m => m.addr == l.addr && m.src == l.src
  let s := match same, mine with
    | some m, _ => s.discardLine h m 3
    | none, m :: _ => if mine.length < 16 then s else s.discardLine h m 3
    | none, [] => s
  let x := s.hinge h
  s.setHinge h { x with lines := x.lines ++ [l] }

/-- The lines that a prefetch reads: the one that holds the requested bytes and the next DEPTH lines of the same 4 KiB page. -/
def prefetchAddrs (s : Zone) (h a : Nat) : List Nat :=
  let l := a / 64 * 64
  ((List.range (s.fld (pHINGE h) HINGE.PF_CFG_DEPTH + 1)).map fun k => l + 64 * k).filter fun b => b / 4096 == l / 4096

/-- Answer from a held line. -/
def lineHit (s : Zone) (h : Nat) (l : HeldLine) (a n : Nat) : Zone :=
  let x := s.hinge h
  let s := s.setHinge h { x with lines := x.lines.map fun m => if m = l then { m with answered := true } else m }
  (s.count (pHINGE h) HINGE.PF_HITS_COUNT).respond Err.none (leNat ((l.data.drop (a - l.addr)).take n))

/-! ### Accesses of the clusters (R503, R537, R538) -/

/-- A request that waits for its tag and its completion (R539). -/
def ask (s : Zone) (h : Nat) (inbound : Bool) (src : Source) (a n : Nat) (prefetch : Bool) (atomic : Option (List Byte)) : Zone :=
  match (if prefetch && atomic.isNone then s.lineFor h inbound src a n else none) with
  | some l => s.lineHit h l a n
  | none => s.hingeRequest h ⟨atomic.isSome, inbound, a, src, n, atomic.getD [], prefetch && atomic.isNone, 0⟩

/-- A posted write answers its initiator, once a hinge that it crosses has accepted it (R541). -/
def writeAnswer (s before : Zone) (code : Nat) : Zone :=
  match [0, 1].find? fun h => (before.hinge h).port.length < (s.hinge h).port.length with
  | some h =>
    let x := s.hinge h
    s.setHinge h { x with port := x.port.dropLast ++ (x.port.drop (x.port.length - 1)).map fun p => { p with answers := true } }
  | none => s.respond code 0

/-- An access of the application cluster. A read that crosses a hinge is answered by HINGE_COMPLETION; its region check is that
of the near side. H0 carries no atomic access (R558). -/
def appAccess (s : Zone) (src : Source) (kind : AccessKind) (a n : Nat) (data : List Byte) : Zone :=
  let wr := kind == .write || kind == .atomic
  match kind, s.crossing a with
  | .write, _ => let x := s.fabricStore src a data; x.2.writeAnswer s x.1
  | .atomic, none =>
    let x := s.fabricLoad src a n true
    if x.1 ≠ Err.none then x.2.2.respond x.1 0
    else let y := x.2.2.fabricStore src a data; y.2.respond y.1 (leNat x.2.1)
  | _, none => let x := s.fabricLoad src a n false; x.2.2.respond x.1 (if x.1 = Err.none then leNat x.2.1 else 0)
  | _, some h =>
    if h = 1 ∧ !(if inSpace a then alignedAccess a n else h1Aligned a n) then s.respond Err.align 0
    else
      let x := s.regionCheck src true wr a n
      if x.1 ≠ Err.none then x.2.respond x.1 0
      else if h = 0 ∧ wr then x.2.respond Err.decode 0
      else if rootConfig a then let y := x.2.openBytes n; y.2.respond Err.none (leNat y.1)
      else if h = 0 ∧ !x.2.h0Up then x.2.respond Err.linkDown 0
      else
        let pf := h == 0 && decide (0x2000000000 ≤ a) && x.2.flag (pHINGE 0) HINGE.PF_CFG_EN_A
        x.2.ask h false src a n pf (if wr then some data else none)

/-- Where a safety hart's address leads across H1: the application address, whether the window is prefetchable while enabled. -/
def h1Window (s : Zone) (a : Nat) : Option (Nat × Bool) :=
  if 0x10000000 ≤ a ∧ a < 0x10100000 then some (0x1E0400000 + (a - 0x10000000), s.flag (pHINGE 1) HINGE.PF_CFG_EN_A)
  else if 0x40000000 ≤ a ∧ a < 0x80000000 then
    some (s.fld (pHINGE 1) HINGE.H1_DRAM_BASE_BASE * 2 ^ 30 + (a - 0x40000000), s.flag (pHINGE 1) HINGE.PF_CFG_EN_B)
  else if 0x80000000 ≤ a ∧ a < 0x88000000 then some (0x1F0000000 + (a - 0x80000000), false)
  else none

/-- The local memory of a safety hart: the TCM of its core, or the shadow array for hart 2n + 1 of a split core (R491, R538). -/
def localAddr (h a : Nat) : Nat := (if h % 2 = 0 then 0x1E0000000 else 0x1E0200000) + h / 2 * 0x80000 + a

/-- Whether safety core n executes in dual-pass. -/
def dualPass (s : Zone) (n : Nat) : Bool := !(s.core n).split && !(s.core n).single

/-- An instruction access fault of a safety hart (R474). -/
def fetchFault (s : Zone) (h : Nat) : Zone := s.setHartException (8 + h) 1

/-- An access of a safety hart. Hart 2n + 1 exists while core n is split. -/
def safetyAccess (s : Zone) (h : Nat) (src : Source) (kind : AccessKind) (a n : Nat) (data : List Byte) : Zone :=
  let wr := kind == .write || kind == .atomic
  if h % 2 = 1 ∧ !(s.core (h / 2)).split then s
  else if a + n ≤ 0x80000 then
    let b := localAddr h a
    let x := s.regionCheck src (kind != .write) wr b n
    if x.1 ≠ Err.none then x.2.respond x.1 0
    else
      let old := if kind = .write then 0 else leNat (x.2.memRead b n)
      let put (s : Zone) : Zone := (s.forEach ((List.range n).zip data) fun (s : Zone) (p : Nat × Byte) => s.putByte (b + p.1) p.2)
      ((x.2.when wr put).lineWritten 1 b (if wr then n else 0)).respond Err.none old
  else if kind = .fetch ∧ s.dualPass (h / 2) then s.fetchFault h
  else match s.h1Window a with
    | none => s.respond Err.decode 0
    | some (b, pf) =>
      if !h1Aligned b n then s.respond Err.align 0
      else if kind = .write then
        ((s.lineWritten 1 b n).hingePost 1 ⟨true, true, b, src, n, data, false, 0⟩).writeAnswer s Err.none
      else s.ask 1 true src b n pf (if wr then some data else none)

/-- An access of application hart h in a mode (R471, R497): translated, held against the PMP entries, and made with the source of the mode. A
translation or protection that refuses it raises the exception instead. -/
def appHartAccess (s : Zone) (h : Nat) (mode : Priv) (kind : AccessKind) (va n : Nat) (data : List Byte) : Zone :=
  let src := s.appSource h mode
  let x := s.hartTranslate h src mode kind va
  match x.1 with
  | .fault c => x.2.setHartException h (faultOf kind c)
  | .pa a =>
    if !x.2.appPmp h (mode == .m) kind a n then x.2.setHartException h (faultOf kind 5)
    else (x.2.appAccess src kind a n data).when (x.2.crossing a).isNone (·.checkFetched true h kind)

/-- An access of safety hart h in a mode (R472, R497). -/
def safetyHartAccess (s : Zone) (h : Nat) (mode : SafetyMode) (kind : AccessKind) (a n : Nat) (data : List Byte) : Zone :=
  let machine := mode == .m
  if h % 2 = 1 ∧ !(s.core (h / 2)).split then s
  else if !s.safetyPmp h machine kind a n then s.setHartException (8 + h) (faultOf kind 5)
  else if kind = .fetch ∧ s.dualPass (h / 2) ∧ 0x80000 < a + n then s.fetchFault h
  else (s.safetyAccess h (s.safetySource h machine) kind a n data).when (decide (a + n ≤ 0x80000)) (·.checkFetched false (8 + h) kind)

/-! ### Forwarding (R539, R540) -/

/-- Where a transaction of the safety fabric stands on the application fabric: translated unless it enters the register space by
its own window, which is no memory (R511). -/
def h1Target (s : Zone) (src : Source) (a : Nat) (wr : Bool) : Translation × Zone :=
  if inSpace a then (.pa a, s) else s.translate Master.h1 src a wr false

/-- A posted write reaches the far side (R544): a failure is logged there. -/
def forwardPosted (s : Zone) (h : Nat) (t : HingeTxn) : Zone :=
  let notice := (irqTarget t.addr).isSome
  let note (x : Nat × Zone) : Zone := if x.1 = Err.none then x.2 else x.2.hingeError h ⟨t.addr, x.1, t.inbound, notice, t.src⟩
  match h, t.inbound with
  | 0, true => note (s.dmaWrite Master.h0 t.src t.addr t.data)
  | 0, false => s
  | _, false =>
    match irqTarget t.addr with
    | some r => s.noticeArrives (BitVec.ofNat 32 (r + leNat t.data % 2048))
    | none => s.storeBytes t.addr t.data
  | _, true =>
    let x := s.h1Target t.src t.addr true
    match x.1 with
    | .fault _ => note (Err.translation, x.2)
    | .pa a => note (x.2.fabricStore t.src a t.data)

/-- A read that has crossed H1 from the safety fabric, with write permission too where `wr` asks for it; an atomic access writes its
result after it (R503, log entry 70). -/
def h1Load (s : Zone) (src : Source) (a n : Nat) (wr : Bool) (atomic : Option (List Byte)) : Nat × List Byte × Zone :=
  let x := s.h1Target src a wr
  match x.1 with
  | .fault _ => (Err.translation, [], x.2)
  | .pa b =>
    let y := x.2.fabricLoad src b n wr
    match atomic with
    | none => y
    | some l =>
      if y.1 ≠ Err.none then y
      else let z := y.2.2.fabricStore src b l; (z.1, y.2.1, z.2)

/-- The read of a 64-byte line by H1, in the register space word by word (R556). -/
def h1Line (s : Zone) (src : Source) (a : Nat) : Nat × List Byte × Zone :=
  if inSpace a then
    (List.range 16).foldl (fun (x : Nat × List Byte × Zone) k =>
      let y := x.2.2.h1Load src (a + 4 * k) 4 false none
      (if x.1 = Err.none then y.1 else x.1, x.2.1 ++ padTo 4 y.2.1, y.2.2)) (Err.none, [], s)
  else s.h1Load src a 64 false none

/-- The line reads of a prefetch by H1; the requested line has answered its read (R554, R555). -/
def h1Prefetch (s : Zone) (t : HingeTxn) : Nat × List Byte × Zone :=
  let x := s.h1Line t.src (t.addr / 64 * 64)
  if x.1 ≠ Err.none then (x.1, [], x.2.2)
  else
    let s := x.2.2.holdLine 1 ⟨t.addr / 64 * 64, true, t.src, s.mono, x.2.1, true⟩
    let s := s.forEach ((s.prefetchAddrs 1 t.addr).drop 1) fun (s : Zone) (b : Nat) =>
      let y := s.h1Line t.src b
      if y.1 = Err.none then y.2.2.holdLine 1 ⟨b, true, t.src, s.mono, y.2.1, false⟩
      else y.2.2.discardLine 1 ⟨b, true, t.src, s.mono, [], false⟩ 4
    (Err.none, (x.2.1.drop (t.addr % 64)).take t.size, s)

/-- What the far side answers a request that it can answer inside the module; none where the answer comes from a PCIe device. -/
def farAnswer (s : Zone) (h : Nat) (t : HingeTxn) : Option (Nat × List Byte) × Zone :=
  let out (x : Nat × List Byte × Zone) : Option (Nat × List Byte) × Zone := (some (x.1, x.2.1), x.2.2)
  match h, t.inbound with
  | 0, true => let x := s.dmaRead Master.h0 t.src t.addr t.size; out (x.2.1, x.1.getD [], x.2.2)
  | 0, false => (none, s)
  | _, false =>
    if inSpace t.addr then let x := s.openBytes t.size; out (Err.none, x.1, x.2)
    else out (Err.none, s.memRead t.addr t.size, if t.write then s.storeBytes t.addr t.data else s)
  | _, true => if t.prefetch then out (s.h1Prefetch t) else out (s.h1Load t.src t.addr t.size t.write (if t.write then some t.data else none))

/-- The lowest tag that no outstanding request of a direction holds. -/
def freeTag (x : HingeSt) (inbound : Bool) : Option Nat :=
  (List.range 128).find? fun n => x.reqs.all fun r => !(r.txn.inbound == inbound && r.tag == n)

/-- The oldest posted write of a direction crosses. -/
def forwardWrite (s : Zone) (h : Nat) (inbound : Bool) : Zone :=
  let x := s.hinge h
  match x.posted.find? fun t => t.inbound == inbound with
  | none => s
  | some t => ((s.setHinge h { x with posted := x.posted.erase t }).hingeAdmit h inbound true).forwardPosted h t

/-- The oldest request of a direction crosses, behind every posted write that was accepted before it and with a free tag. -/
def forwardRead (s : Zone) (h : Nat) (inbound : Bool) : Zone :=
  let x := s.hinge h
  match x.waiting.find? fun t => t.inbound == inbound with
  | none => s
  | some t =>
    if x.posted.any fun p => p.inbound == inbound && decide (p.seq < t.seq) then s
    else match freeTag x inbound with
      | none => s.count (pHINGE h) HINGE.TAG_WAITS_COUNT
      | some n =>
        let s := (s.setHinge h { x with waiting := x.waiting.erase t }).hingeAdmit h inbound false
        let y := s.farAnswer h t
        let x := y.2.hinge h
        y.2.setHinge h { x with
          reqs := x.reqs ++ [⟨n, t, s.mono, y.1.map fun p => (p.1, p.2, x.next)⟩], next := x.next + 1 }

/-- A transaction of a PCIe device enters H0 with the world and mooring of H0_DMA (R499, R559). -/
def pcieArrival (s : Zone) (p : PcieTxn) : Zone :=
  let src : Source := ⟨if s.flag (pHINGE 0) HINGE.H0_DMA_WORLD then .secure else .normal,
    BitVec.ofNat 12 (s.fld (pHINGE 0) HINGE.H0_DMA_MOORING)⟩
  let n := p.size.toNat
  let t : HingeTxn := ⟨false, true, p.addr.toNat, src, n, [], false, 0⟩
  if !s.h0Up || decide (n = 0 ∨ (if p.write then 256 else 512) < n) then s
  else if p.write then s.hingePost 0 { t with write := true, data := padTo n p.data }
  else s.hingeRequest 0 t

/-! ### Completions (R540, R544, R545) -/

/-- A request leaves with its outcome: the initiator inside the module takes the response (R544). -/
def endRequest (s : Zone) (h : Nat) (r : HingeReq) (code : Nat) (data : List Byte) : Zone :=
  let x := s.hinge h
  let s := s.setHinge h { x with reqs := x.reqs.erase r }
  let s := if code = Err.none then s else s.hingeReport h
  if h = 0 ∧ r.txn.inbound then s else s.respond code (if code = Err.none then leNat (padTo r.txn.size data) else 0)

/-- The lines of a prefetch through H0, as the device answers them: each is checked as the read was (R554). -/
def h0Lines (s : Zone) (t : HingeTxn) (lines : List (List Byte × Bool)) : Zone :=
  s.forEach ((s.prefetchAddrs 0 t.addr).zip lines) fun (s : Zone) (p : Nat × (List Byte × Bool)) =>
    let x := s.regionCheck t.src true false p.1 64
    let l : HeldLine := ⟨p.1, false, t.src, s.mono, padTo 64 p.2.1, p.1 == t.addr / 64 * 64⟩
    if x.1 = Err.none ∧ p.2.2 then x.2.holdLine 0 l else if l.answered then x.2 else x.2.discardLine 0 l 4

/-- A completion arrives for a tag, or for a request of that tag that timed out (R545). It waits behind the posted writes that
were ahead of it in its direction. -/
def completion (s : Zone) (h : Nat) (inbound : Bool) (tag : Nat) (late : Bool) (code : Nat) (data : List Byte)
    (lines : List (List Byte × Bool)) : Zone :=
  let x := s.hinge h
  if late then
    if x.expired.contains (inbound, tag) then
      (s.setHinge h { x with expired := x.expired.erase (inbound, tag) }).count (pHINGE h) HINGE.CPL_COUNTS_LATE_CPL
    else s
  else match x.reqs.find? fun r => r.txn.inbound == inbound && r.tag == tag with
  | none => s
  | some r =>
    match r.answer with
    | some (c, d, seq) =>
      if x.posted.any fun p => p.inbound != inbound && decide (p.seq < seq) then s
      else s.endRequest h r (if c = Err.none ∧ code = Err.ecc then code else c) d
    | none =>
      if x.posted.any fun p => p.inbound != inbound then s
      else (s.when (r.txn.prefetch && code == Err.none) fun s => s.h0Lines r.txn lines).endRequest h r code data

/-- The time limit of a request passes (R545). -/
def cplTimeout (s : Zone) (h : Nat) (inbound : Bool) (tag : Nat) : Zone :=
  match (s.hinge h).reqs.find? fun r => r.txn.inbound == inbound && r.tag == tag with
  | none => s
  | some r =>
    if s.past r.at_ (s.fld (pHINGE h) HINGE.CPL_TIMEOUT_US * ticksPerUs) then
      let s := (s.count (pHINGE h) HINGE.CPL_COUNTS_TIMEOUTS).endRequest h r Err.timeout []
      let x := s.hinge h
      s.setHinge h { x with expired := x.expired ++ [(inbound, tag)] }
    else s

/-! ### The H0 link (R546, R558) -/

def linkDown (s : Zone) : Zone :=
  if !s.h0Up then s
  else
    let p := pHINGE 0
    let s := (s.setFld p HINGE.HSTATUS_LINK_UP 0).setFld p HINGE.H0_LINK_SPEED_NOW 0
    let s := ((s.setFld p HINGE.H0_LINK_WIDTH 0).setFld p HINGE.H0_LINK_LTSSM 0).count p HINGE.H0_COUNTS_LINK_DOWNS
    let x := s.hinge 0
    let ended := (x.reqs.any fun r => !r.txn.inbound) || (x.waiting.any fun t => !t.inbound) ||
      x.port.any fun p => !p.txn.inbound && !p.posted
    let lost := (x.posted.filter fun t => !t.inbound) ++ ((x.port.filter fun p => p.posted && !p.txn.inbound).map fun p => p.txn)
    let s := s.setHinge 0 { x with reqs := x.reqs.filter fun r => r.txn.inbound, waiting := x.waiting.filter fun t => t.inbound,
                                   posted := x.posted.filter fun t => t.inbound, expired := x.expired.filter fun e => e.1,
                                   port := x.port.filter fun p => p.txn.inbound }
    let s := s.forEach lost fun (s : Zone) (t : HingeTxn) => s.hingeError 0 ⟨t.addr, Err.linkDown, false, false, t.src⟩
    (if ended then s.respond Err.linkDown 0 else s).logLinkDown

/-- The link trains up to a speed no higher than its target (R558, R561); in state L0 it is operational (log entry 53). -/
def linkUp (s : Zone) (speed width : Nat) : Zone :=
  let p := pHINGE 0
  if s.flag p HINGE.H0_CTRL_LINK_EN && !s.flag p HINGE.H0_CTRL_PERST && !s.h0Up then
    let s := (s.setFld p HINGE.HSTATUS_LINK_UP 1).setFld p HINGE.H0_LINK_SPEED_NOW
      (min speed (s.fld p HINGE.H0_CTRL_TARGET_SPEED) + 1)
    (s.setFld p HINGE.H0_LINK_WIDTH (2 ^ width)).setFld p HINGE.H0_LINK_LTSSM 4
  else s

/-- The copy job moves its bytes and ends (R557). While block 13 does not run, the job waits. -/
def copyRun (s : Zone) : Zone :=
  let p := pHINGE 1
  if s.fld p HINGE.COPY_STATUS_STATE ≠ 1 ∨ s.gateState 13 ≠ 0 then s
  else
    let src : Source := ⟨if s.flag p HINGE.COPY_STATUS_WORLD then .secure else .normal,
      BitVec.ofNat 12 (s.fld p HINGE.COPY_STATUS_MOORING)⟩
    let x := s.dmaRead Master.h1 src (s.pairAddr p HINGE.COPY_SRC_LO_ADDR HINGE.COPY_SRC_HI_ADDR) (s.fld p HINGE.COPY_LEN_BYTES)
    match x.1 with
    | none => x.2.2.copyEnd 3 x.2.1
    | some l =>
      let y := x.2.2.dmaWrite Master.h1 src (s.pairAddr p HINGE.COPY_DST_LO_ADDR HINGE.COPY_DST_HI_ADDR) l
      if y.1 = Err.none then y.2.copyEnd 2 0 else y.2.copyEnd 3 y.1

/-- A write of 1 to bit 0 of a word of the register space, by firmware or by a keeper. -/
def writeOne (s : Zone) (w : Writer) (k : Nat) : Zone :=
  match w with
  | .firmware src => let x := s.spaceWrite src k 4 1; x.2.respond x.1 0
  | .keeper a => s.keeperWrite a k 0 1

end Zone

/-! ### Commands -/

/-- A hart of a cluster makes an access of `size` bytes (R503, R537, R538); the response holds the outcome, that of a read across
a hinge once its completion arrives. A write carries `data`, an atomic access the value that it leaves. -/
def execMemoryAccess (initiator : Initiator) (kind : AccessKind) (addr : BitVec 64) (size : BitVec 7) (data : List Byte)
    (st : State) : Result := st.runFw fun s =>
  let n := size.toNat
  if n = 0 then s
  else match initiator with
    | .app h mode => s.appHartAccess h.val mode kind addr.toNat n (padTo n data)
    | .safety h mode => s.safetyHartAccess h.val mode kind addr.toNat n (padTo n data)

/-- The oldest posted write or the oldest request of a direction crosses its hinge (R539, R540), after a transaction that a PCIe
device may have sent into H0. Posts and pops across H2 are REQUEST_POST and EVENT_POP (log entry 71). -/
def execHingeForward (hinge : Fin 3) (inbound posted : Bool) (arrival : Option PcieTxn) (st : State) : Result := st.runOn fun s =>
  let s := match arrival with
    | some p => if hinge.val = 0 ∧ inbound then s.pcieArrival p else s
    | none => s
  if posted then s.forwardWrite hinge.val inbound else s.forwardRead hinge.val inbound

/-- A completion returns across a hinge (R540, R544, R545); `late` names one whose request has ended. The operands are what the far
side answers where that is not the module: a PCIe device with its lines, or an uncorrectable error at the target. -/
def execHingeCompletion (hinge : Fin 3) (inbound : Bool) (tag : Fin 128) (late : Bool) (code : Fin 13) (data : List Byte)
    (lines : List (List Byte × Bool)) (st : State) : Result := st.runOn fun s =>
  s.completion hinge.val inbound tag.val late code.val data lines

def execCplTimeout (hinge : Fin 3) (inbound : Bool) (tag : Fin 128) (st : State) : Result := st.runOn fun s =>
  s.cplTimeout hinge.val inbound tag.val

def execH0LinkDown (st : State) : Result := st.runOn Zone.linkDown
def execH0LinkUp (speed : Fin 4) (width : Fin 3) (st : State) : Result := st.runOn fun s => s.linkUp speed.val width.val

/-- An INTx message of a PCIe device (R550). -/
def execIntxMessage (st : State) : Result := st.runOn fun s =>
  if s.h0Up then s.count (pHINGE 0) HINGE.H0_COUNTS_INTX else s

def execErrPop (writer : Writer) (hinge : Fin 3) (st : State) : Result := st.runBy writer fun s =>
  s.writeOne writer (pHINGE hinge.val + HINGE.ERR_POP_POP.off)

def execDiscPop (writer : Writer) (hinge : Fin 3) (st : State) : Result := st.runBy writer fun s =>
  s.writeOne writer (pHINGE hinge.val + HINGE.DISC_POP_POP.off)

/-- LIFE µs have passed since the read of a held line (R555). -/
def execPrefetchAged (hinge : Fin 2) (inbound : Bool) (line : BitVec 64) (st : State) : Result := st.runOn fun s =>
  let h := hinge.val
  s.forEach ((s.hinge h).lines.filter fun l => l.inbound == inbound && l.addr == line.toNat &&
      s.past l.at_ (s.fld (pHINGE h) HINGE.PF_CFG_LIFE * Zone.ticksPerUs)) fun (s : Zone) (l : HeldLine) => s.discardLine h l 1

def execCopyStart (src : Source) (st : State) : Result := st.runFw fun s =>
  s.writeOne (.firmware src) (pHINGE 1 + HINGE.COPY_CTRL_START.off)

def execCopyEnd (st : State) : Result := st.runOn Zone.copyRun

end Sys2Proof.Machine
end

