-- ==== Sys2Proof/Machine/DualPass.lean ====
section
/-! DEFINITION. The safety cores: dual-pass legs, their mismatches and re-runs, access legs, the comparator self-test, the
attachment of a debugger (R475 to R496), and the Xzmr CSRs of both clusters (R494, R497, R498). -/

namespace Sys2Proof.Machine

open Reg

/-! ### Comparing two passes (R482, R495) -/

/-- Whether a primary result and a second-pass result agree. -/
def legAgrees : LegResult → LegResult → Bool
  | .reg r v, .reg r' v' => r == r' && v == ~~~v'
  | .csr n v, .csr n' v' => n == n' && v == ~~~v'
  | .store a z v, .store a' z' v' => a == ~~~a' && z == z' && v == ~~~v'
  | .trap c t m, .trap c' t' m' => c == ~~~c' && t == ~~~t' && m == ~~~m'
  | _, _ => false

/-- KIND of ZDP_LAST: 0 REGISTER, 1 STORE, 3 CONTROL. -/
def legKind : LegResult → Nat
  | .reg _ _ => 0
  | .csrRead _ _ _ => 0
  | .csr _ _ => 0
  | .store _ _ _ => 1
  | .trap _ _ _ => 3

/-- REG of ZDP_LAST; of a CSR write the spec gives no register number. -/
def legReg : LegResult → Option Nat
  | .reg r _ => some r.toNat
  | .csr _ _ => none
  | _ => some 0

/-- A mismatch: KIND, INDEX and REG of ZDP_LAST, none where the spec gives no number, and whether it was injected. -/
structure Mismatch where
  kind : Nat
  index : Option Nat
  reg : Option Nat
  injected : Bool
deriving DecidableEq, Repr

/-- The first result that disagrees, or that the injection at index `inj` corrupts. -/
def firstMismatch (inj : Option Nat) : Nat → List LegResult → List LegResult → Option Mismatch
  | i, p :: ps, q :: qs =>
    if inj = some i then some ⟨legKind p, some i, legReg p, true⟩
    else if legAgrees p q then firstMismatch inj (i + 1) ps qs
    else some ⟨legKind p, some i, legReg p, false⟩
  | _, _, _ => none

/-- What the comparator finds in a leg: its results, then their number, the next address and the time of the second pass. -/
def legMismatch (native inverted : LegPass) (inj : Option Nat) : Option Mismatch :=
  match firstMismatch inj 0 native.results inverted.results with
  | some m => some m
  | none =>
    if native.results.length = inverted.results.length ∧ native.nextPc = ~~~inverted.nextPc ∧ inverted.timely then none
    else some ⟨3, none, some 0, false⟩

/-- The result index that ZDP_INJECT names, where its bit `b` is set. -/
def injectIndex (w : Word) (b : Nat) : Option Nat := if w.getLsbD b then some (w.toNat / 2 ^ 8 % 64) else none

/-- Whether the results are those of one leg (R475, R479): a trap stands alone, a write to a CSR of the module's extensions ends the leg,
and no store is one of the device class. -/
def legForm (single : Bool) (l : List LegResult) : Bool :=
  let own (n : Nat) : Bool := [0x7C0, 0x7C1, 0x7D0, 0x7D2].contains n
  (single || l.length ≤ 1 || l.all fun r => match r with | .trap _ _ _ => false | _ => true) &&
    (l.dropLast.all fun r => match r with | .csr n _ => !own n.toNat | _ => true) &&
    (single || l.all fun r => match r with
      | .store a _ _ => decide (a.toNat < 0x80000 ∨ (0x10000000 ≤ a.toNat ∧ a.toNat < 0x10100000) ∨ (0x40000000 ≤ a.toNat ∧ a.toNat < 0x80000000))
      | _ => true)

namespace Zone

/-! ### A core's registers -/

def setReg (s : Zone) (n : Nat) (rd : BitVec 5) (v : Word) : Zone :=
  if rd = 0 then s else s.setCore n { s.core n with x := SMap.set (fun _ => 0) (s.core n).x rd.toNat v }

/-- A write of an Xzdp CSR of safety core n in M mode (R495). -/
def zdpWrite (s : Zone) (n num : Nat) (v : Word) : Zone :=
  let c := s.core n
  if c.split then s
  else if num = 0x7C0 then (if v.getLsbD 0 then s.setCore n { c with transient := 0, dbCe := 0, injected := 0 } else s)
  else if num = 0x7C1 then s.setCore n { c with inject := v &&& 0x3F03 }
  else s

/-- A write of an Xzmr CSR by a safety hart in M mode (R497); none for any other CSR. -/
def safetyXzmr (s : Zone) (k num : Nat) (v : Word) : Option Zone :=
  let x := s.hart k
  match num with
  | 0x7D0 => some (s.setHart k { x with secure := v.getLsbD 0 })
  | 0x7D2 => some (s.setHart k { x with moorU := v.setWidth 12 })
  | _ => none

/-- A CSR write that a leg of core n has committed; misa keeps its value (R473). -/
def commitCsr (s : Zone) (n num : Nat) (v : Word) : Zone :=
  if num = 0x7C0 ∨ num = 0x7C1 then s.zdpWrite n num v
  else match s.safetyXzmr (8 + 2 * n) num v with
    | some z => z
    | none => s.safetyCsrWrite n num v

/-- The world and mooring of a core's transactions in a mode (R497, R499). -/
def coreSource (s : Zone) (n : Nat) (mode : SafetyMode) : Source := s.safetySource (2 * n) (mode == .m)

/-- A trap entry of core n: its cause, its tval, the updated mstatus, the address of the leg in mepc (R472, R481). -/
def commitTrap (s : Zone) (n : Nat) (cause tval mstatus : Word) : Zone :=
  s.forEach [(0x342, cause), (0x343, tval), (0x300, mstatus), (0x341, (s.core n).pc)] fun (s : Zone) (p : Nat × Word) =>
    s.setCore n { s.core n with csrs := SMap.set (fun _ => 0) (s.core n).csrs p.1 p.2 }

/-- One result leaves the delay buffer (R483). -/
def commitResult (s : Zone) (n : Nat) (mode : SafetyMode) (r : LegResult) : Zone :=
  match r with
  | .reg rd v => s.setReg n rd v
  | .csrRead _ _ _ => s
  | .csr num v => s.commitCsr n num.toNat v
  | .store a z v => s.safetyAccess (2 * n) (s.coreSource n mode) .write a.toNat (min z 4) (leBytes (min z 4) v.toNat)
  | .trap c t m => s.commitTrap n c t m

/-- The leg boundary: the deferred writes are applied (R478). -/
def legBoundary (s : Zone) (n : Nat) : Zone :=
  let l := (s.core n).deferred
  (s.setCore n { s.core n with deferred := [] }).forEach l fun (s : Zone) (p : Nat × Byte) => s.putByte p.1 p.2

/-- minstret counts instructions, unless IR of mcountinhibit stops it. -/
def retire (s : Zone) (n k : Nat) : Zone :=
  if (s.safetyCsr_ (2 * n) 0x320).getLsbD 2 then s else s.setCore n { s.core n with instret := (s.core n).instret + k }

/-- A leg commits and the core stands at the next instruction. -/
def commitLeg (s : Zone) (n : Nat) (mode : SafetyMode) (native : LegPass) : Zone :=
  let s := s.forEach native.results fun (s : Zone) (r : LegResult) => s.commitResult n mode r
  ((s.setCore n { s.core n with pc := native.nextPc, fault := none }).retire n native.retired).legBoundary n

/-! ### CSR reads (R480, R495) -/

/-- ZDP_STATUS of safety core n (R495). -/
def zdpStatus (s : Zone) (n : Nat) : Word :=
  let c := s.core n
  if c.split then 0x40000000
  else BitVec.ofNat 32 ((if c.single then 2 ^ 31 else 0) + b2n c.unchecked * 2 ^ 29 +
    s.fld pSAFE SAFE0.MON_STATUS_DUALPASS_OFF * 2 ^ 28 + b2n c.compFail * 2 ^ 27 + b2n c.dbFail * 2 ^ 26)

/-- ZDP_COUNTS of safety core n (R495). -/
def zdpCounts (s : Zone) (n : Nat) : Word :=
  let c := s.core n
  if c.split then 0 else BitVec.ofNat 32 (c.transient * 2 ^ 16 + c.dbCe * 2 ^ 8 + c.injected)

/-- Core n reads a CSR at a point of a leg. The spec gives time no clock and the performance counters no events: what they read is open
(log entry 2). -/
def coreCsrRead (s : Zone) (n num : Nat) (p : LegPoint) : Word × Zone :=
  let open_ : Word × Zone := s.fresh
  let both (k : Nat) : Bool := num == k || num == k + 0x80
  let zmr := s.hart (8 + 2 * n)
  if both 0xB00 ∨ both 0xC00 then (counterHalf num (s.mcycle n - p.cyclesBefore), s)
  else if both 0xB02 ∨ both 0xC02 then (counterHalf num (s.minstret n + p.retired), s)
  else if both 0xC01 then open_
  else if (0xB03 ≤ num ∧ num ≤ 0xB0A) ∨ (0xB83 ≤ num ∧ num ≤ 0xB8A) ∨ (0xC03 ≤ num ∧ num ≤ 0xC0A) ∨ (0xC83 ≤ num ∧ num ≤ 0xC8A) then open_
  else match num with
    | 0x301 => (misaSafety, s)
    | 0x344 => (s.safetyMip (2 * n), s)
    | 0x7C0 => (0, s)
    | 0x7C1 => (if (s.core n).split then 0 else (s.core n).inject, s)
    | 0x7D0 => (BitVec.ofNat 32 (b2n zmr.secure), s)
    | 0x7D2 => (zmr.moorU.setWidth 32, s)
    | 0xF14 => (BitVec.ofNat 32 (2 * n), s)
    | 0xFC0 => (s.zdpStatus n, s)
    | 0xFC1 => (s.zdpCounts n, s)
    | 0xFC3 => (if (s.core n).split then 0 else (s.core n).last, s)
    | 0xFC4 => (if (s.core n).split then 0 else (s.core n).lastPc, s)
    | _ => (s.safetyCsr_ (2 * n) num, s)

/-- The primary pass reads its CSRs, each once: its results with the values read. -/
def readNative (s : Zone) (n : Nat) : List LegResult → List LegResult × Zone
  | [] => ([], s)
  | .csrRead rd num p :: r =>
    let v := s.coreCsrRead n num.toNat p
    let y := readNative v.2 n r
    (.reg rd v.1 :: y.1, y.2)
  | x :: r =>
    let y := readNative s n r
    (x :: y.1, y.2)

/-- The second pass receives, for a CSR that it reads, the complement of the value that the primary pass has read at that place (R480);
where the primary pass has read none there, it has no value. -/
def readInverted (given read : List LegResult) : List LegResult → List LegResult
  | [] => []
  | x :: r =>
    let y : LegResult := match x, given.head?, read.head? with
      | .csrRead rd num _, some (.csrRead _ num' _), some (.reg _ v) => if num = num' then .reg rd (~~~v) else x
      | _, _, _ => x
    y :: readInverted given.tail read.tail r

/-- Both passes of a leg with the CSRs that they read. -/
def readPasses (s : Zone) (n : Nat) (native inverted : LegPass) : LegPass × LegPass × Zone :=
  let y := s.readNative n native.results
  ({ native with results := y.1 }, { inverted with results := readInverted native.results y.1 inverted.results }, y.2)

/-! ### Mismatches (R485, R486) and failures of the checker (R487 to R489) -/

/-- The detail of a dual-pass report (R640). -/
def legDetail (s : Zone) (n : Nat) : Word := ((s.core n).last &&& 0xFFFF0000) ||| BitVec.ofNat 32 n

/-- Report a fault of core n, with the injected mark where the mismatch was injected (R496). -/
def reportLeg (s : Zone) (n source : Nat) (injected : Bool) : Zone :=
  if injected then s.reportInjected source (s.legDetail n) else s.report source (s.legDetail n)

/-- A leg mismatches for the first time: it is recorded and waits for its re-run. -/
def mismatch (s : Zone) (n : Nat) (m : Mismatch) (isAccess : Bool) (read : Option Word) : Zone :=
  let i := s.fresh
  let r := i.2.fresh
  let s := r.2
  let c := s.core n
  let last := m.kind * 2 ^ 30 + b2n m.injected * 2 ^ 29 + m.index.getD (i.1.toNat % 64) % 64 * 2 ^ 16 + m.reg.getD (r.1.toNat % 32) % 32
  s.setCore n { c with
    last := BitVec.ofNat 32 last, lastPc := c.pc, injected := satU 8 (c.injected + b2n m.injected)
    fault := some ⟨c.pc, m.injected, isAccess, read, s.mono⟩ }

/-- The re-run mismatches again: a permanent fault halts the core. -/
def permanent (s : Zone) (n : Nat) (f : LegFault) (m : Mismatch) : Zone :=
  let c := s.core n
  let s := s.setCore n { c with last := c.last ||| 0x10000000, injected := satU 8 (c.injected + b2n m.injected), halted := true }
  (s.reportLeg n Src.dualpassPermanent f.injected).legBoundary n

/-- The re-run agrees: a transient fault is counted and reported. -/
def transient (s : Zone) (n : Nat) (f : LegFault) : Zone :=
  (s.setCore n { s.core n with transient := satU 16 ((s.core n).transient + 1) }).reportLeg n Src.dualpassTransient f.injected

/-- A comparator failure, or a failure of the delay buffer, of core n (R489): the cluster is unchecked, and the core halts. -/
def checkerFailure (s : Zone) (n : Nat) (comparator : Bool) : Zone :=
  let s := s.forEach (List.range 4) fun (s : Zone) (m : Nat) => s.setCore m { s.core m with unchecked := true }
  let c := s.core n
  let s := s.setCore n { c with compFail := c.compFail || comparator, dbFail := c.dbFail || !comparator, halted := true, fault := none }
  ((s.setFld pSAFE SAFE0.MON_STATUS_UNCHECKED 1).report Src.checkerFail (s.legDetail n)).legBoundary n

/-- Both passes of a leg, or of its re-run `rerun`, have run. -/
def judgeLeg (s : Zone) (n : Nat) (mode : SafetyMode) (native inverted : LegPass) (checks : LegChecks) (inj : Option Nat)
    (rerun : Option LegFault) : Zone :=
  let (native, inverted, s) := s.readPasses n native inverted
  let s := s.setCore n { s.core n with dbCe := satU 8 ((s.core n).dbCe + checks.corrected) }
  if checks.comparator then s.checkerFailure n true
  else if checks.double then s.checkerFailure n false
  else match legMismatch native inverted inj, rerun with
    | some m, none => s.mismatch n m false none
    | some m, some f => s.permanent n f m
    | none, none => s.commitLeg n mode native
    | none, some f => (s.commitLeg n mode native).transient n f

/-- Whether a mode may have the results of a leg: each CSR that it reads or writes is one that the mode may access, a counter in U mode
under mcounteren, and the PMP entries let its stores pass, where no CSR write of the leg can have changed them (R472, R494). What a
mode may not do is a trap entry of its own. -/
def legAllowed (s : Zone) (n : Nat) (mode : SafetyMode) (l : List LegResult) : Bool :=
  let priv : Priv := match mode with | .m => .m | .u => .u
  let counts (k : Nat) : Bool := mode == .m || !decide (k / 256 = 0xC) || (s.safetyCsr_ (2 * n) 0x306).getLsbD (k % 32)
  let writes := l.any fun r => match r with | .csr _ _ => true | _ => false
  l.all fun r => match r with
    | .csrRead _ k _ => (csrRefusal false k.toNat priv false).isNone && counts k.toNat
    | .csr k _ => (csrRefusal false k.toNat priv true).isNone
    | .store a z _ => writes || s.safetyPmp (2 * n) (mode == .m) .write a.toNat (min z 4)
    | _ => true

/-- Whether core n can run a leg in a mode: it executes in dual-pass or single pass, is not halted, and its leg is one of R475. -/
def legRuns (s : Zone) (n : Nat) (mode : SafetyMode) (native : LegPass) : Bool :=
  !(s.core n).split && !(s.core n).halted && decide (native.results.length ≤ 64 ∧ native.retired ≤ 64) &&
    legForm (s.core n).single native.results && s.legAllowed n mode native.results

/-- A leg of core n (R482). In single pass nothing is compared (R492). An armed injection goes into the first leg with a result at
INDEX (R496). -/
def leg (s : Zone) (n : Nat) (mode : SafetyMode) (native inverted : LegPass) (checks : LegChecks) : Zone :=
  let c := s.core n
  if !s.legRuns n mode native || c.fault.isSome then s
  else if c.single then
    let x := s.readPasses n native inverted
    x.2.2.commitLeg n mode x.1
  else
    match injectIndex c.inject 0 with
    | some i =>
      if i < native.results.length then
        (s.setCore n { c with inject := c.inject &&& 0xFFFFFFFE }).judgeLeg n mode native inverted checks (some i) none
      else s.judgeLeg n mode native inverted checks none none
    | none => s.judgeLeg n mode native inverted checks none none

/-- The re-run of a leg, 8 cycles of 1.25 ns after the detection or later (R485). REPEAT corrupts it too. -/
def legRerun (s : Zone) (n : Nat) (mode : SafetyMode) (native inverted : LegPass) (checks : LegChecks) : Zone :=
  let c := s.core n
  match c.fault with
  | none => s
  | some f =>
    if f.isAccess || !s.legRuns n mode native || !s.past f.detected 3 then s
    else
      let inj := if f.injected then injectIndex c.inject 1 else none
      s.judgeLeg n mode native inverted checks (match inj with | some i => if i < native.results.length then some i else none | none => none) (some f)

/-! ### Access legs (R479) -/

/-- The posted writes of the safety fabric reach the application fabric before a read that follows them (R540). -/
def drainIn (s : Zone) : Zone :=
  s.forEach ((s.hinge 1).posted.filter fun t => t.inbound) fun (s : Zone) (_ : HingeTxn) => s.forwardWrite 1 true

/-- The value that an AMO leaves, of the value read and its source value. -/
def amoValue (op : AmoOp) (old v : Word) : Word :=
  match op with
  | .lr => old
  | .sc => v
  | .swap => v
  | .add => old + v
  | .xor => old ^^^ v
  | .and => old &&& v
  | .or => old ||| v
  | .min => if old.toInt ≤ v.toInt then old else v
  | .max => if old.toInt ≤ v.toInt then v else old
  | .minu => if old.toNat ≤ v.toNat then old else v
  | .maxu => if old.toNat ≤ v.toNat then v else old

/-- The application-physical address of a core's access, or none where nothing answers (R538). -/
def legTarget (s : Zone) (n a : Nat) : Option Nat := if a < 0x80000 then some (localAddr (2 * n) a) else (s.h1Window a).map (·.1)

/-- A read of a core, carried out at once: in its TCM, or across H1 behind its writes, with write permission too where `wr` asks for it
(R503). The code, the value, the state. -/
def legRead (s : Zone) (n : Nat) (src : Source) (a size : Nat) (wr : Bool) (atomic : Option (List Byte)) : Nat × Nat × Zone :=
  match s.legTarget n a with
  | none => (Err.decode, 0, s)
  | some b =>
    if !h1Aligned b size then (Err.align, 0, s)
    else if a < 0x80000 then
      let x := s.regionCheck src true wr b size
      if x.1 ≠ Err.none then (x.1, 0, x.2) else (Err.none, leNat (x.2.memRead b size), x.2)
    else
      let y := s.drainIn.h1Load src b size wr atomic
      if y.1 ≠ Err.none then (y.1, 0, y.2.2.hingeReport 1) else (Err.none, leNat y.2.1, y.2.2)

/-- The write of an atomic access: into the TCM at once, across H1 with the read. -/
def legWrite (s : Zone) (n : Nat) (src : Source) (a : Nat) (v : Word) : Nat × Zone :=
  if a < 0x80000 then
    let x := s.regionCheck src true true (localAddr (2 * n) a) 4
    if x.1 ≠ Err.none then x
    else (Err.none, x.2.forEach ((List.range 4).zip (leBytes 4 v.toNat)) fun (s : Zone) (p : Nat × Byte) =>
      s.putByte (localAddr (2 * n) a + p.1) p.2)
  else let x := s.legRead n src a 4 true (some (leBytes 4 v.toNat)); (x.1, x.2.2)

/-- An LR, SC or AMO of a word (R472, R479), which needs read and write permission (R503): the code, the value for the destination register, the state. -/
def legAtomic (s : Zone) (n : Nat) (src : Source) (op : AmoOp) (a : Nat) (v : Word) : Nat × Word × Zone :=
  let target := (s.legTarget n a).map (· / 4)
  match op with
  | .lr =>
    let x := s.legRead n src a 4 true none
    if x.1 ≠ Err.none then (x.1, 0, x.2.2)
    else (Err.none, BitVec.ofNat 32 x.2.1, x.2.2.setCore n { x.2.2.core n with reserved := target })
  | .sc =>
    let held := target.isSome && (s.core n).reserved == target
    let s := s.setCore n { s.core n with reserved := none }
    if held then let x := s.legWrite n src a v; (x.1, 0, x.2) else (Err.none, 1, s)
  | _ =>
    let x := s.legRead n src a 4 true none
    if x.1 ≠ Err.none then (x.1, 0, x.2.2)
    else let y := x.2.2.legWrite n src a (amoValue op (BitVec.ofNat 32 x.2.1) v); (y.1, BitVec.ofNat 32 x.2.1, y.2)

/-- The access of an access leg, once its address has compared: the code, the value read, the state. One that the PMP entries refuse
fails. -/
def legAccess (s : Zone) (n : Nat) (mode : SafetyMode) (access : LegAccess) (a size : Nat) : Nat × Word × Zone :=
  let src := s.coreSource n mode
  let kind : AccessKind := match access with
    | .load _ _ => .read
    | .store _ => .write
    | .atomic .lr _ _ => .read
    | .atomic .sc _ _ => .write
    | .atomic _ _ _ => .atomic
  if !s.safetyPmp (2 * n) (mode == .m) kind a size then (Err.region, 0, s)
  else match access with
  | .load _ signed =>
    let x := s.legRead n src a size false none
    (x.1, if signed then BitVec.ofNat 32 (ofSigned 32 (toSigned (8 * size) x.2.1)) else BitVec.ofNat 32 x.2.1, x.2.2)
  | .store v =>
    let z := s.safetyAccess (2 * n) src .write a size (leBytes size v.toNat)
    (z.resp.code, 0, z)
  | .atomic op _ v => s.legAtomic n src op a v

/-- Whether an access is one of R479: a load outside the TCM, a store of the device class, an atomic access. -/
def isAccessLeg (access : LegAccess) (a : Nat) : Bool :=
  let memory := decide ((0x10000000 ≤ a ∧ a < 0x10100000) ∨ (0x40000000 ≤ a ∧ a < 0x80000000))
  match access with
  | .load _ _ => decide (0x80000 ≤ a)
  | .store _ => decide (0x80000 ≤ a) && !memory
  | .atomic _ _ _ => true

/-- An access that fails raises an access fault (R472): a load's or LR's of cause 5, another's of cause 7. -/
def accessTrap (s : Zone) (n : Nat) (mode : SafetyMode) (access : LegAccess) (addr : Word) : Zone :=
  let cause : Word := match access with | .load _ _ => 5 | .atomic .lr _ _ => 5 | _ => 7
  let old := SMap.get (fun _ => 0) (s.core n).csrs 0x300
  let mpp : Word := if mode = .m then 0x1800 else 0
  let status := (old &&& ~~~0x1888) ||| mpp ||| (if old.getLsbD 3 then 0x80 else 0)
  let s := s.commitTrap n cause addr status
  let vec := SMap.get (fun _ => 0) (s.core n).csrs 0x305
  s.setCore n { s.core n with pc := vec &&& 0xFFFFFFFC }

/-- The destination register of an access, its only result (R481). -/
def accessReg : LegAccess → Option (BitVec 5)
  | .load rd _ => some rd
  | .store _ => none
  | .atomic _ rd _ => some rd

/-- An access leg, or its re-run: the addresses compare, the access is issued once, its value goes to both passes; `flip` is what
differs in the register write of the second pass. -/
def accessLeg (s : Zone) (n : Nat) (mode : SafetyMode) (access : LegAccess) (addr inverted : Word) (size : Nat) (flip nextPc : Word) : Zone :=
  let c := s.core n
  let rerun := c.fault
  let ready : Bool := match rerun with | none => true | some f => f.isAccess && s.past f.detected 3
  if c.split || c.halted || !ready || !isAccessLeg access addr.toNat then s
  else
    let fail (s : Zone) (m : Mismatch) (read : Option Word) : Zone := match rerun with
      | some f => s.permanent n f m
      | none => s.mismatch n m true read
    if !c.single && addr != ~~~inverted then fail s ⟨2, some 0, some 0, false⟩ none
    else
      let got : Nat × Word × Zone := match rerun.bind (·.access) with
        | some v => (Err.none, v, s)
        | none => s.legAccess n mode access addr.toNat size
      let finish (s : Zone) (s' : Zone → Zone) : Zone :=
        let s := s' s
        let s := ((s.setCore n { s.core n with fault := none }).retire n 1).legBoundary n
        match rerun with | some f => s.transient n f | none => s
      if got.1 ≠ Err.none then finish got.2.2 fun s => s.accessTrap n mode access addr
      else
        let s := got.2.2
        match accessReg access with
        | none => finish s fun s => s.setCore n { s.core n with pc := nextPc }
        | some rd =>
          let c := s.core n
          let bitOf := if rerun.isNone then 0 else 1
          let armed := !c.single && injectIndex c.inject bitOf == some 0 && (match rerun with | none => true | some f => f.injected)
          let s := if armed && rerun.isNone then s.setCore n { c with inject := c.inject &&& 0xFFFFFFFE } else s
          if armed then fail s ⟨0, some 0, some rd.toNat, true⟩ (some got.2.1)
          else if !c.single && flip != 0 then fail s ⟨0, some 0, some rd.toNat, false⟩ (some got.2.1)
          else finish s fun s => let s := s.setReg n rd got.2.1; s.setCore n { s.core n with pc := nextPc }

/-! ### Debug (R492) -/

/-- Whether the safety cluster's debug module accepts a connection (R614). -/
def safetyDebugOpen (s : Zone) : Bool :=
  match s.lifeCycle with
  | 2 => s.flag (pTEST 2) TEST2.DEBUG_OPEN_SAFETY
  | 4 => false
  | _ => true

/-- A debugger sets dmactive: every core in dual-pass goes on in single pass, after a re-run that is due. -/
def debugAttach (s : Zone) : Zone :=
  if !s.safetyDebugOpen || s.flag (pTEST 2) TEST2.DEBUG_STATUS_SAFETY_ATTACHED then s
  else
    let s := s.forEach (List.range 4) fun (s : Zone) (n : Nat) =>
      if (s.core n).split then s else s.setCore n { s.core n with single := true }
    let s := (s.setFld (pTEST 2) TEST2.DEBUG_STATUS_SAFETY_ATTACHED 1).setFld pSAFE SAFE0.MON_STATUS_DUALPASS_OFF 1
    s.report Src.dualpassOff 0

/-! ### CSR writes (R494, R497, R498) -/

/-- A CSR write of a mode to an Xzdp CSR of safety core n; below M mode it raises an illegal-instruction exception. -/
def zdpCsr (s : Zone) (n num : Nat) (mode : SafetyMode) (v : Word) : Zone :=
  if (s.core n).halted then s
  else if mode = .m then s.zdpWrite n num v
  else s.setHartException (8 + 2 * n) 2

/-- A write of ZMOOR_H or ZMOOR_V by an application hart: outside BASE to LIMIT it changes nothing and is an illegal instruction. A
change of the mooring of the current mode clears the hart's untagged structures (R509). -/
def moorWrite (s : Zone) (h : Nat) (v12 : BitVec 12) (virt : Bool) (mode : Priv) : Zone :=
  let x := s.hart h
  if v12 < x.base ∨ x.limit < v12 then s.setHartException h 2
  else if virt then s.setHart h { x with moorV := v12 }
  else
    let t := s.setHart h { x with moorH := v12 }
    if mode = .hs ∧ x.moorH ≠ v12 ∧ s.flag pTU TU.PRED_CFG_CLEAR_ON_MOORING then t.count pTU TU.PRED_COUNTS_CLEARS else t

/-- A write of a mode to a CSR of application hart h: of Xzmr, 0x7D0 and 0x7D1 take M mode, 0x5D0 and 0x5D1 HS mode or higher (R497);
of the others, the mode that their number permits (R471). -/
def appCsrOp (s : Zone) (h num : Nat) (mode : Priv) (v : BitVec 64) : Zone :=
  let x := s.hart h
  match csrRefusal true num mode true with
  | some cause => s.setHartException h cause
  | none =>
    match num with
    | 0x7D0 => s.setHart h { x with secure := v.getLsbD 0 }
    | 0x7D1 => s.setHart h { x with base := v.setWidth 12, limit := (v >>> 16).setWidth 12 }
    | 0x5D0 => s.moorWrite h (v.setWidth 12) false mode
    | 0x5D1 => s.moorWrite h (v.setWidth 12) true mode
    | _ => s.appCsrWrite h (csrAlias num mode) v

/-- A write of a mode to a CSR of safety hart h, which exists as hart 2n, or 2n + 1 of a split core n; the cluster has M and U mode
only (R472). -/
def safetyCsrOp (s : Zone) (h num : Nat) (mode : Priv) (v : Word) : Zone :=
  if (h % 2 = 1 ∧ !(s.core (h / 2)).split) ∨ !safetyCluster.modes.contains mode then s
  else match csrRefusal false num mode true with
    | some cause => s.setHartException (8 + h) cause
    | none =>
      match s.safetyXzmr (8 + h) num v with
      | some z => z
      | none => if h % 2 = 0 then s.commitCsr (h / 2) num v else if num = 0x7C0 ∨ num = 0x7C1 then s else s.oddCsrWrite h num v

end Zone

/-! ### Commands -/

/-- The data sizes 1, 2 and 4. -/
def sizeOf_ (size : Fin 3) : Nat := 2 ^ size.val

/-- A safety core has run a leg in both passes, in privilege mode `mode`: the passes and what the checks of the delay buffer and the
comparator saw. -/
def execDualpassLeg (core : Fin 4) (mode : SafetyMode) (native inverted : LegPass) (checks : LegChecks) (st : State) : Result :=
  st.runFw fun s => s.leg core.val mode native inverted checks

def execLegRerun (core : Fin 4) (mode : SafetyMode) (native inverted : LegPass) (checks : LegChecks) (st : State) : Result :=
  st.runFw fun s => s.legRerun core.val mode native inverted checks

/-- An access-leg instruction, or its re-run. -/
def execAccessLeg (core : Fin 4) (mode : SafetyMode) (access : LegAccess) (addr inverted : Word) (size : Fin 3) (flip nextPc : Word)
    (st : State) : Result := st.runFw fun s =>
  s.accessLeg core.val mode access addr inverted (match access with | .atomic _ _ _ => 4 | _ => sizeOf_ size) flip nextPc

/-- The forced test of the comparator at a leg boundary, 1 ms − 1 % after the last one or later (R487); `ok` tells whether it
reported the mismatch and only that. -/
def execComparatorSelftest (core : Fin 4) (ok : Bool) (st : State) : Result := st.runFw fun s =>
  let n := core.val
  let c := s.core n
  if !s.dualPass n || c.halted || c.fault.isSome || !s.past c.tested 247500 then s
  else
    let s := s.setCore n { c with tested := s.mono }
    if ok then s else s.checkerFailure n true

def execDebugAttach (st : State) : Result := st.runOn Zone.debugAttach

def execZdpClrCounts (core : Fin 4) (mode : SafetyMode) (value : Word) (st : State) : Result := st.runFw fun s =>
  s.zdpCsr core.val 0x7C0 mode value

def execZdpInjectArm (core : Fin 4) (mode : SafetyMode) (value : Word) (st : State) : Result := st.runFw fun s =>
  s.zdpCsr core.val 0x7C1 mode value

/-- A CSR write of a hart of either cluster: to an Xzmr CSR, and to any other that the hart holds or does not hold. -/
def execXzmrWrite (safety : Bool) (hart : Fin 8) (csr : BitVec 12) (mode : Priv) (value : BitVec 64) (st : State) : Result :=
  st.runFw fun s =>
    if safety then s.safetyCsrOp hart.val csr.toNat mode (value.setWidth 32) else s.appCsrOp hart.val csr.toNat mode value

end Sys2Proof.Machine
end

