-- ==== Sys2Proof/Machine/Gptp.lean ====
section
/-! DEFINITION. IEEE 802.1AS as the module runs it (R392 to R395): port roles, what the time engine takes from a message and what it
sends, the offsets that a Sync recovers, and the measurements of the servo (R386). -/

namespace Sys2Proof.Machine

open Reg

/-- The role of a port in an instance (R392, R393). -/
inductive PtpRole where
  | off
  | slave
  | master
  | passive
deriving DecidableEq, Repr

/-- A priority vector as Clause 10 compares it: the lesser is the better. -/
def masterKey (m : Master) : List Nat :=
  [m.priority1.toNat, m.quality.toNat, m.priority2.toNat, m.gm.toNat, m.steps.toNat, m.sender.toNat]

/-- The key of what an instance holds of a port. -/
def ptpKey (i : Fin 2) (p : Nat) : Nat := 32 * i.val + p

namespace Zone

/-- The field of instance 0 or of instance 1. -/
def ptpFld (s : Zone) (i : Fin 2) (a b : Fld) : Nat := s.fld pTIME (if i = 0 then a else b)

/-- Whether instance i is enabled. -/
def ptpOn (s : Zone) (i : Fin 2) : Bool := decide (s.ptpFld i TIME0.INST0_CFG_EN TIME0.INST1_CFG_EN = 1)

/-- Whether instance i runs with external port configuration (R393). -/
def ptpExternal (s : Zone) (i : Fin 2) : Bool := decide (s.ptpFld i TIME0.INST0_CFG_EXT TIME0.INST1_CFG_EXT = 1)

def ptpMaster (s : Zone) (i : Fin 2) (p : Nat) : Option Master := SMap.get (fun _ => none) s.time.masters (ptpKey i p)
def setPtpMaster (s : Zone) (i : Fin 2) (p : Nat) (m : Option Master) : Zone :=
  { s with time := { s.time with masters := SMap.set (fun _ => none) s.time.masters (ptpKey i p) m } }

/-- clockClass of the module as grandmaster (R392): 6 while locked to 1PPS, 7 in holdover after it, 248 with LOCAL; before a first lock
to 1PPS, which the rule leaves out, 248 (log entry 96). -/
def clockClass (s : Zone) : Nat :=
  if s.source = 1 ∧ s.tstate = TS.locked then 6 else if s.source = 1 ∧ s.tstate = TS.holdover then 7 else 248

/-- The priority vector of the module itself: as grandmaster with SOURCE 1 or 2 by R392; with SOURCE 0 it is no candidate, which
priority1 255 says (log entry 96). -/
def ownMaster (s : Zone) : Master :=
  ⟨if s.source = 1 ∨ s.source = 2 then 246 else 255,
    BitVec.ofNat 32 (s.clockClass * 2 ^ 24 + Config.clockAccuracy.toNat), 248, Config.clockIdentity, 0,
    BitVec.ofNat 80 (Config.clockIdentity.toNat * 65536)⟩

/-- The port of 0 to 3 whose grandmaster is best for instance i, where one is better than the module itself (R392, Clause 10). -/
def bestPort (s : Zone) (i : Fin 2) : Option Nat :=
  ([0, 1, 2, 3].filter s.portUp).foldl (fun b p =>
    match s.ptpMaster i p with
    | none => b
    | some m =>
      let least := match b.bind (s.ptpMaster i) with | some x => masterKey x | none => masterKey s.ownMaster
      if decide (masterKey m < least) then some p else b) none

/-- The slave port of instance i: with external port configuration SLAVE_PORT, which SOURCE 1 and 2 ignore; otherwise the port of the
best grandmaster (R392, R393). -/
def slavePort (s : Zone) (i : Fin 2) : Option Nat :=
  if !s.ptpOn i then none
  else if s.ptpExternal i then
    let p := s.ptpFld i TIME0.INST0_CFG_SLAVE_PORT TIME0.INST1_CFG_SLAVE_PORT
    if p < 4 ∧ s.source = 0 then some p else none
  else s.bestPort i

/-- Whether port p hears a grandmaster that is better than what the module would announce there (Clause 10). -/
def hearsBetter (s : Zone) (i : Fin 2) (p : Nat) : Bool :=
  match s.ptpMaster i p with
  | none => false
  | some m =>
    let root := ((s.bestPort i).bind (s.ptpMaster i)).map (fun x => { x with steps := x.steps + 1 }) |>.getD s.ownMaster
    decide (masterKey m < masterKey { root with sender := BitVec.ofNat 80 (Config.clockIdentity.toNat * 65536 + p + 1) })

/-- The role of port p in instance i (R392, R393). -/
def ptpRole (s : Zone) (i : Fin 2) (p : Nat) : PtpRole :=
  if !s.ptpOn i ∨ 24 ≤ p ∨ !s.portUp p then .off
  else if s.slavePort i = some p then .slave
  else if s.ptpExternal i then
    if (s.ptpFld i TIME0.INST0_MASTER_MASK TIME0.INST1_MASTER_MASK).testBit p then .master
    else if p < 4 then .passive else .off
  else if p < 4 ∧ s.hearsBetter i p then .passive else .master

/-- The key of a port's link delay: one per instance, or one for both where the instance uses the common service, on ports 0 to 3
(R392). -/
def delayKey (s : Zone) (i : Fin 2) (p : Nat) : Nat :=
  if p < 4 ∧ s.ptpFld i TIME0.INST0_CFG_CMLDS TIME0.INST1_CFG_CMLDS = 1 then 64 + p else ptpKey i p

/-- The correction of a ring port's link delay, none on the other ports (R312, R395). -/
def ringCorrection (s : Zone) (p : Nat) : Int :=
  if p = s.fld pRING RING.RING_CTRL_WEST then s.fldS pRING RING.APPLIED_WEST_APPLIED
  else if p = s.fld pRING RING.RING_CTRL_EAST then s.fldS pRING RING.APPLIED_EAST_APPLIED
  else 0

/-- The offset in 1/256 ns that a Sync received on port p recovers: the source time at its reception, with the measured link delay and
the port's correction, less network time (R386, R395). -/
def recovered (s : Zone) (i : Fin 2) (p : Nat) (origin stamp : Int) : Int :=
  origin + SMap.get (fun _ => 0) s.time.delays (s.delayKey i p) + s.ringCorrection p - stamp

/-- The discrepancy D of R313, at a sync interval in which both ring instances are locked, instance 0 on the WEST port and instance
1 on the EAST port, while the estimator runs. -/
def ringSample (s : Zone) (i : Fin 2) (p : Nat) (offset : Int) : Zone :=
  let port := s.fld pRING (if i = 0 then RING.RING_CTRL_WEST else RING.RING_CTRL_EAST)
  let t := if i = 0 then { s.time with ringOff0 := some offset } else { s.time with ringOff1 := some offset }
  if !s.ringRuns || decide (p ≠ port) then s
  else if s.flag pTIME TIME0.INST_STATUS_LOCKED0 && s.flag pTIME TIME0.INST_STATUS_LOCKED1 then
    match t.ringOff0, t.ringOff1 with
    | some w, some e =>
      { s with time := { t with ringOff0 := none, ringOff1 := none, ringSum := t.ringSum + (w - e), ringCount := t.ringCount + 1 } }
    | _, _ => { s with time := t }
  else { s with time := { t with ringOff0 := none, ringOff1 := none } }

/-- Show the grandmaster of instance i's slave port; a change is counted, and drops the phase term where the instance is the source in
use (R390). -/
def showMaster (s : Zone) (i : Fin 2) : Zone :=
  match (s.slavePort i).bind (s.ptpMaster i) with
  | none => s
  | some m =>
    let (lo, hi) := if i = 0 then (TIME0.GM0_LO_ID, TIME0.GM0_HI_ID) else (TIME0.GM1_LO_ID, TIME0.GM1_HI_ID)
    let old := s.fld pTIME hi * 2 ^ 32 + s.fld pTIME lo
    let s := (s.setFld pTIME lo m.gm.toNat).setFld pTIME hi (m.gm.toNat / 2 ^ 32)
    if old = m.gm.toNat then s
    else
      let s := (s.event pTIME TIME0.TIME_EVENT_GM_CHANGE).count pTIME TIME0.TIME_COUNTS_GM_CHANGES
      if s.fld pTIME TIME0.TIME_STATUS_SOURCE_NOW = i.val then s.setTerms s.time.rateTerm 0 else s

/-- An Announce on port p (R390, R392, R407). -/
def ptpAnnounce (s : Zone) (i : Fin 2) (p : Nat) (m : Master) (utc : Option (BitVec 16)) : Zone :=
  let s := (s.setPtpMaster i p (some m)).showMaster i
  match utc with
  | some u =>
    if s.slavePort i = some p then
      (s.setFld pTIME TIME0.UTC_OFFSET_VALID 1).setFld pTIME TIME0.UTC_OFFSET_SECONDS u.toNat
    else s
  | none => s

/-- A message that the time engine processes (R392 to R395): of an enabled instance and of its domain; time and grandmasters are taken
on ports 0 to 3 alone. The link-delay service is of no domain where it is common. -/
def ptpReceive (s : Zone) (p : Nat) (i : Fin 2) (msg : PtpMessage) : Zone :=
  let own := s.ptpOn i && decide (msg.domain.toNat = s.ptpFld i TIME0.INST0_CFG_DOMAIN TIME0.INST1_CFG_DOMAIN)
  match msg.body with
  | .announce m utc => if own && decide (p < 4) then s.ptpAnnounce i p m utc else s
  | .syncFollowUp origin stamp =>
    if own && decide (s.slavePort i = some p) then
      let s := s.ptpSync i
      s.ringSample i p (s.recovered i p origin stamp)
    else s
  | .linkDelay mean =>
    if own || (s.ptpOn i && decide (64 ≤ s.delayKey i p)) then
      { s with time := { s.time with delays := SMap.set (fun _ => 0) s.time.delays (s.delayKey i p) mean } }
    else s
  | .other => s

/-- Whether the time engine sends a message of a kind on port p (R392, R393): the messages of a master on its master ports, Sync with
time to pass on, the link-delay service on every port with a role. -/
def ptpMaySend (s : Zone) (i : Fin 2) (p : Nat) (kind : PtpKind) : Bool :=
  match kind with
  | .linkDelay => decide (s.ptpRole i p ≠ .off)
  | .announce => decide (s.ptpRole i p = .master)
  | .sync | .followUp => decide (s.ptpRole i p = .master) && (decide (s.source ≠ 0) || (s.slavePort i).isSome)

end Zone

/-! ### Commands -/

/-- A measurement from the gPTP instance in use, whose Sync came in on its slave port: the offset in ns, toward zero (R386,
R395). -/
def execServoMeasurement (sourceTime : SourceTime) (st : State) : Result := st.runOn fun s =>
  let now := s.fld pTIME TIME0.TIME_STATUS_SOURCE_NOW
  let i : Fin 2 := if now = 1 then 1 else 0
  match s.slavePort i with
  | some p =>
    if s.source = 0 ∧ now ≠ 3 then s.measure ((s.recovered i p sourceTime.origin sourceTime.stamp).tdiv 256) else s
  | none => s

/-- A gPTP frame received on a port of 0 to 23 is processed: one that the switch has handed over and counted already, or one that it
counts, in RX_FRAMES only, as it hands it over (R394). -/
def execPtpMessageReceive (port : Fin 28) (ptpInstance : Fin 2) (msg : PtpMessage) (st : State) : Result := st.runOn fun s =>
  let p := port.val
  match s.time.inbox.find? fun x => x.1 == p with
  | some x => ({ s with time := { s.time with inbox := s.time.inbox.erase x } }).ptpReceive p ptpInstance msg
  | none =>
    if s.portUp p && decide (p < 24) then (s.stat (statPort p PortStat.rxFrames)).ptpReceive p ptpInstance msg
    else s

/-- The time engine sends a message of its own at a frame boundary of the port, outside the gates and without a stamp in a
queue (R394), where the port's role in the instance has it sent (R392, R393). -/
def execPtpTransmit (port : Fin 28) (ptpInstance : Fin 2) (msg : PtpSend) (st : State) : Result := st.runOn fun s =>
  let p := port.val
  if s.ptpMaySend ptpInstance p msg.kind && (s.sendingClass p).isNone then
    (s.stat (statPort p PortStat.txFrames)).statBy (statPort p PortStat.txOctets) msg.octets.toNat
  else s

end Sys2Proof.Machine
end

