-- ==== Sys2Proof/Machine/Tamva.lean ====
section
/-! DEFINITION. The instructions of Tamva, as a keeper executes them (R104 to R167): each is a function on the state, which a
command of its own carries out and which the steps of a table carry out at a slot mark. -/

namespace Sys2Proof.Machine

open Reg

namespace Zone

/-! ### Registers, flags, chart -/

/-- Working register n, which reads zero for n = 0 (R105). -/
def getW (s : Zone) (k : Keeper) (n : Fin 16) : Word := if n = 0 then 0 else SMap.get (fun _ => 0) (s.keeper k).w n.val

/-- Write working register n; a write to W0 is discarded (R105). -/
def setW (s : Zone) (k : Keeper) (n : Fin 16) (v : Word) : Zone :=
  if n = 0 then s else s.setKeeper k { s.keeper k with w := SMap.set (fun _ => 0) (s.keeper k).w n.val v }

def flags (s : Zone) (k : Keeper) : TFlags := let x := s.keeper k; ⟨x.z, x.n, x.c, x.v⟩
def setFlags (s : Zone) (k : Keeper) (f : TFlags) : Zone :=
  s.setKeeper k { s.keeper k with z := f.z, n := f.n, c := f.c, v := f.v }

def chartGet (s : Zone) (k : Keeper) (a : Nat) : Word := SMap.get (fun _ => 0) (s.keeper k).chart a
def chartSet (s : Zone) (k : Keeper) (a : Nat) (v : Word) : Zone :=
  s.setKeeper k { s.keeper k with chart := SMap.set (fun _ => 0) (s.keeper k).chart a v }

/-- A store into the chart (R109, R110). In the mirror region, the keeper that holds the watch also enters the word into its open
group, and the other writes nothing. -/
def chartStore (s : Zone) (k : Keeper) (a : Nat) (v : Word) : Zone :=
  if a < 0x3800 then s.chartSet k a v
  else if s.holdsWatch k then
    let s := s.chartSet k a v
    s.setKeeper k { s.keeper k with group := (s.keeper k).group ++ [(a, v)] }
  else s

/-- Close the open mirror group (R109). -/
def closeGroup (s : Zone) (k : Keeper) : Zone :=
  let x := s.keeper k
  if x.group = [] then s else s.setKeeper k { x with groups := x.groups ++ [x.group], group := [] }

/-! ### Carrying out an instruction -/

/-- The first instruction of a step: W1 to W15 and the flags are zero (R106). -/
def beginStep (s : Zone) (k : Keeper) : Zone :=
  s.setKeeper k { s.keeper k with w := [], z := false, n := false, c := false, v := false, skip := 0, inStep := true, index := 0 }

/-- The step ends. -/
def endStep (s : Zone) (k : Keeper) : Zone := s.setKeeper k { s.keeper k with inStep := false, skip := 0 }

/-- An execution fault (R164). -/
def execFault (s : Zone) (k : Keeper) (code : Nat) : Zone :=
  let x := s.keeper k
  let p := pKEEPER k
  let s := ((s.closeGroup k).setFld p KEEPER.FAULT_CODE code).setFld p KEEPER.FAULT_STEP x.step
  let s := ((s.setFld p KEEPER.FAULT_INDEX x.index).count p KEEPER.EXEC_FAULTS_COUNT).post p KEEPER.FAULT_CODE
  (s.when (decide (s.role k = Role.trial)) (·.count p KEEPER.TRIAL_FAULTS)).endStep k

/-- A word that R166 excludes is fetched for execution: self-check failure 4 (R167, R212). -/
def illegal (s : Zone) (k : Keeper) : Zone := s.selfCheck k 4

/-- Keeper k comes to an instruction of `cycles` cycles with effect `f` (R116, R133). A keeper that does not execute does nothing; a
skipped instruction has no effect and costs nothing; `last` is END, which no skip passes over. -/
def perform (s : Zone) (k : Keeper) (cycles : Nat) (last : Bool) (f : Zone → Zone) : Zone :=
  if !s.executes k then s
  else
    let x := s.keeper k
    if x.inStep ∧ 0 < x.skip then
      if last then s.illegal k else s.setKeeper k { x with skip := x.skip - 1, index := x.index + 1 }
    else
      let s := if x.inStep then s else s.beginStep k
      let s := f (s.setKeeper k { s.keeper k with cycles := (s.keeper k).cycles + cycles })
      if (s.keeper k).inStep then s.setKeeper k { s.keeper k with index := (s.keeper k).index + 1 } else s

/-- A register instruction: its result goes to Wd, and its flags take effect where F is 1 (R127). -/
def result (s : Zone) (k : Keeper) (wd : Fin 16) (f : Bool) (r : TResult) : Zone :=
  let s := s.setW k wd r.value
  if f then s.setFlags k r.flags else s

/-- A register instruction of `cycles` cycles on the values of two registers. -/
def alu (s : Zone) (k : Keeper) (cycles : Nat) (wd ws wt : Fin 16) (f : Bool) (r : Word → Word → TResult) : Zone :=
  s.perform k cycles false fun s => s.result k wd f (r (s.getW k ws) (s.getW k wt))

/-- A register instruction on a register and a constant. -/
def aluImm (s : Zone) (k : Keeper) (wd ws : Fin 16) (f : Bool) (r : Word → TResult) : Zone :=
  s.perform k 1 false fun s => s.result k wd f (r (s.getW k ws))

/-- A shift amount (R128). -/
def amount (s : Zone) (k : Keeper) (a : Amount) : Nat :=
  match a with
  | .reg w => (s.getW k w).toNat % 32
  | .imm n => n.val

/-- A ticket operand, none where the register exceeds 127 (R154). -/
def ticketArg (s : Zone) (k : Keeper) (t : TicketArg) : Option Nat :=
  match t with
  | .reg w => if (s.getW k w).toNat ≤ 127 then some (s.getW k w).toNat else none
  | .imm n => some n.val

/-- The key of a word of a page. -/
def pageKey (g : PageArg) (word : Nat) : Nat := page g.bank.toNat g.channel.toNat + 4 * word

/-! ### Arithmetic and logic (R127 to R132) -/

def opAdd (s : Zone) (k : Keeper) (wd ws wt : Fin 16) (f : Bool) : Zone := s.alu k 1 wd ws wt f addResult
def opSub (s : Zone) (k : Keeper) (wd ws wt : Fin 16) (f : Bool) : Zone := s.alu k 1 wd ws wt f subResult
def opAnd (s : Zone) (k : Keeper) (wd ws wt : Fin 16) (f : Bool) : Zone := s.alu k 1 wd ws wt f fun a b => plainResult (a &&& b)
def opOr (s : Zone) (k : Keeper) (wd ws wt : Fin 16) (f : Bool) : Zone := s.alu k 1 wd ws wt f fun a b => plainResult (a ||| b)
def opXor (s : Zone) (k : Keeper) (wd ws wt : Fin 16) (f : Bool) : Zone := s.alu k 1 wd ws wt f fun a b => plainResult (a ^^^ b)

def opShl (s : Zone) (k : Keeper) (wd ws : Fin 16) (amount : Amount) (f : Bool) : Zone :=
  s.perform k 1 false fun s => s.result k wd f (shlResult (s.getW k ws) (s.amount k amount))
def opShr (s : Zone) (k : Keeper) (wd ws : Fin 16) (amount : Amount) (f : Bool) : Zone :=
  s.perform k 1 false fun s => s.result k wd f (shrResult (s.getW k ws) (s.amount k amount))
def opSra (s : Zone) (k : Keeper) (wd ws : Fin 16) (amount : Amount) (f : Bool) : Zone :=
  s.perform k 1 false fun s => s.result k wd f (sraResult (s.getW k ws) (s.amount k amount))

def opMul (s : Zone) (k : Keeper) (wd ws wt : Fin 16) (f u : Bool) : Zone := s.alu k 3 wd ws wt f fun a b => mulResult a b u
def opMulh (s : Zone) (k : Keeper) (wd ws wt : Fin 16) (f u : Bool) : Zone := s.alu k 3 wd ws wt f fun a b => mulhResult a b u
def opMin (s : Zone) (k : Keeper) (wd ws wt : Fin 16) (f u : Bool) : Zone := s.alu k 1 wd ws wt f fun a b => minResult a b u
def opMax (s : Zone) (k : Keeper) (wd ws wt : Fin 16) (f u : Bool) : Zone := s.alu k 1 wd ws wt f fun a b => maxResult a b u
def opSat (s : Zone) (k : Keeper) (wd ws : Fin 16) (w : Fin 32) (f u : Bool) : Zone := s.aluImm k wd ws f fun a => satResult a w.val u

/-- IMM extended with its sign, and with zeros (R131). -/
def immS (imm : BitVec 16) : Word := imm.signExtend 32
def immZ (imm : BitVec 16) : Word := imm.setWidth 32

def opAddi (s : Zone) (k : Keeper) (wd ws : Fin 16) (f : Bool) (imm : BitVec 16) : Zone :=
  s.aluImm k wd ws f fun a => addResult a (immS imm)
def opAndi (s : Zone) (k : Keeper) (wd ws : Fin 16) (f : Bool) (imm : BitVec 16) : Zone :=
  s.aluImm k wd ws f fun a => plainResult (a &&& immZ imm)
def opOri (s : Zone) (k : Keeper) (wd ws : Fin 16) (f : Bool) (imm : BitVec 16) : Zone :=
  s.aluImm k wd ws f fun a => plainResult (a ||| immZ imm)
def opXori (s : Zone) (k : Keeper) (wd ws : Fin 16) (f : Bool) (imm : BitVec 16) : Zone :=
  s.aluImm k wd ws f fun a => plainResult (a ^^^ immZ imm)
def opLui (s : Zone) (k : Keeper) (wd : Fin 16) (imm : BitVec 16) : Zone :=
  s.perform k 1 false fun s => s.setW k wd (immZ imm <<< 16)

def opCmpi (s : Zone) (k : Keeper) (ws : Fin 16) (imm : BitVec 16) : Zone :=
  s.perform k 1 false fun s => s.setFlags k (subResult (s.getW k ws) (immS imm)).flags
def opCmp (s : Zone) (k : Keeper) (ws wt : Fin 16) : Zone :=
  s.perform k 1 false fun s => s.setFlags k (subResult (s.getW k ws) (s.getW k wt)).flags
def opTst (s : Zone) (k : Keeper) (ws wt : Fin 16) : Zone :=
  s.perform k 1 false fun s => s.setFlags k (plainResult (s.getW k ws &&& s.getW k wt)).flags

/-- SKIP.cc #n + 1 (R133). -/
def opSkip (s : Zone) (k : Keeper) (cc n : Fin 15) : Zone := s.perform k 1 false fun s =>
  if (s.flags k).holds cc.val then s.setKeeper k { s.keeper k with skip := n.val + 1 } else s

/-! ### Chart (R134 to R136) -/

def opLdc (s : Zone) (k : Keeper) (w : Fin 16) (addr : BitVec 14) : Zone :=
  s.perform k 2 false fun s => s.setW k w (s.chartGet k addr.toNat)
def opStc (s : Zone) (k : Keeper) (w : Fin 16) (addr : BitVec 14) : Zone :=
  s.perform k 2 false fun s => s.chartStore k addr.toNat (s.getW k w)

/-- The effective address of LDCX and STCX (R135). -/
def chartAddr (s : Zone) (k : Keeper) (wx : Fin 16) (addr : BitVec 14) : Nat := addr.toNat + (s.getW k wx).toNat

def opLdcx (s : Zone) (k : Keeper) (w wx : Fin 16) (addr : BitVec 14) : Zone := s.perform k 3 false fun s =>
  let a := s.chartAddr k wx addr
  if 0x3FFF < a then s.execFault k 1 else s.setW k w (s.chartGet k a)
def opStcx (s : Zone) (k : Keeper) (w wx : Fin 16) (addr : BitVec 14) : Zone := s.perform k 3 false fun s =>
  let a := s.chartAddr k wx addr
  if 0x3FFF < a then s.execFault k 1 else s.chartStore k a (s.getW k w)

def opMirr (s : Zone) (k : Keeper) (wd : Fin 16) : Zone := s.perform k 4 false fun s =>
  let status : Word := (if s.mirrorUp k then 0x80000000 else 0) ||| (if s.holdsWatch k then 0x40000000 else 0)
  (if s.holdsWatch k then s.closeGroup k else s).setW k wd status

/-! ### Channel reads and writes (R137 to R144) -/

/-- What keeper k reads of a word: no read has a side effect. A word that it has written in this slot or the one before reads as it
was or as it is (R138; log entry 2); a mark of the fleet shows from the slot that begins after it (R402). -/
def keeperRead (s : Zone) (k : Keeper) (key : Nat) : Word × Zone :=
  let x := s.readWord key
  let now := (s.keeper k).slotNo
  match (s.keeper k).recent.find? fun r => r.key == key && decide (now ≤ r.slot + 1) with
  | some r => let f := x.2.fresh; (if f.1.getLsbD 0 then x.1 else r.old, f.2)
  | none =>
    match s.time.marked with
    | some (n, w) => if key = markKey ∧ n = s.keeperSlots then (x.1 &&& w, x.2) else x
    | none => x

/-- Issue a write of keeper k to a word, in mode `mode` (R139). One that is delivered leaves the value that a CRD may return for a
slot more (R138). -/
def sendWrite (s : Zone) (k : Keeper) (key mode : Nat) (v : Word) : Zone :=
  let x := s.keeper k
  let old := (s.readWord key).1
  let s := if (s.deliver k key).1 = .delivered then
      s.setKeeper k { x with recent := ⟨key, old, x.slotNo⟩ :: x.recent.filter fun r => decide (x.slotNo ≤ r.slot + 1) }
    else s
  s.keeperWrite k key mode v

def opCrd (s : Zone) (k : Keeper) (w : Fin 16) (g : PageArg) (word : BitVec 6) : Zone := s.perform k 6 false fun s =>
  if !pageAllowed g false then s.illegal k
  else let x := s.keeperRead k (pageKey g word.toNat); x.2.setW k w x.1

/-- CWR in one of its modes. -/
def cwr (s : Zone) (k : Keeper) (w : Fin 16) (mode : Nat) (g : PageArg) (word : BitVec 6) : Zone :=
  if !pageAllowed g true then s.illegal k else s.sendWrite k (pageKey g word.toNat) mode (s.getW k w)

def opCwr (s : Zone) (k : Keeper) (w : Fin 16) (g : PageArg) (word : BitVec 6) : Zone :=
  s.perform k 2 false fun s => s.cwr k w 0 g word
def opCwrSet (s : Zone) (k : Keeper) (w : Fin 16) (g : PageArg) (word : BitVec 6) : Zone :=
  s.perform k 2 false fun s => s.cwr k w 1 g word
def opCwrClr (s : Zone) (k : Keeper) (w : Fin 16) (g : PageArg) (word : BitVec 6) : Zone :=
  s.perform k 2 false fun s => s.cwr k w 2 g word
def opCwrTgl (s : Zone) (k : Keeper) (w : Fin 16) (g : PageArg) (word : BitVec 6) : Zone :=
  s.perform k 2 false fun s => s.cwr k w 3 g word

/-- CRDX; `arrives` tells whether the word arrives within 48 cycles (R143). -/
def opCrdx (s : Zone) (k : Keeper) (wd wx : Fin 16) (g : PageArg) (arrives : Bool) : Zone := s.perform k 48 false fun s =>
  let i := (s.getW k wx).toNat
  if !pageAllowed g false then s.illegal k
  else if 1023 < i then s.execFault k 2
  else if arrives then
    let x := s.keeperRead k (pageKey g i)
    (x.2.setW k wd x.1).setFlags k { x.2.flags k with c := true }
  else ((s.setW k wd 0).setFlags k { s.flags k with c := false }).count (pKEEPER k) KEEPER.MISC_COUNTS_CRDX_TIMEOUT

def opCwrx (s : Zone) (k : Keeper) (w wx : Fin 16) (g : PageArg) : Zone := s.perform k 4 false fun s =>
  let i := (s.getW k wx).toNat
  if !pageAllowed g true then s.illegal k
  else if 1023 < i then s.execFault k 2
  else s.sendWrite k (pageKey g i) 0 (s.getW k w)

/-! ### Operations (R145 to R147) -/

/-- The operation registers of the pages: LOAD.OP (R273), TX_START (R423), CHAN_OP (R429), LIN_OP (R436), SER_OP (R441), ACF_OP
(R366) and OP of a table window (R330). What an operation measures or finds on its bus is not the table's to know: its value is
open (log entry 2). -/
def operation (s : Zone) (kind : PageKind) (ch off : Nat) (r : TicketRef) (variant arg : Nat) : Zone :=
  let f := s.fresh
  let bit := f.1.getLsbD 0
  let none_ (s : Zone) : Zone := s.completeFail r 0x00FF
  match kind with
  | .load =>
    match variant with
    | 0 => s.opClearRetry ch r
    | 1 => f.2.opOffDiag ch r bit
    | 2 => s.opSnapshot ch r
    | _ => s.opLoadOther ch r
  | .can =>
    if off = 0x018 then s.opTxStart ch r variant arg
    else match variant with
      | 0 => s.opRecover ch r
      | 1 => s.opAbortPending ch r
      | _ => s.canOp ch r none_
  | .lin =>
    match variant with
    | 0 => f.2.opLinHeader ch r (arg % 64) bit
    | 1 => f.2.opLinWakeup ch r bit
    | _ => none_ s
  | .ser =>
    match variant with
    | 0 => s.serSend (ch - 6) (arg % 16) r
    | 1 => s.serAbort (ch - 6) r
    | _ => none_ s
  | .swp =>
    if ch ≠ 31 then s.complete r 5 0
    else match variant with
      | 0 => s.acfSend r arg
      | 1 => s.acfTake r arg
      | _ => none_ s
  | .sww =>
    match variant with
    | 0 => winOp r (s.winWrite ch arg)
    | 1 => winOp r (s.winRead ch arg)
    | 2 => winOp r (s.winClear ch arg)
    | _ => none_ s
  | _ => s.complete r 5 0

/-- A COP has its ticket and goes to its page. -/
def issueOp (s : Zone) (k : Keeper) (r : TicketRef) (key variant arg : Nat) : Zone :=
  let x := s.deliver k key
  match x.1 with
  | .refused => x.2.complete r 2 0
  | .dropped => x.2.setKeeper k { x.2.keeper k with dropped := (x.2.keeper k).dropped ++ [r] }
  | .delivered =>
    match pageKind (keyBank key) (keyChan key) with
    | some kind =>
      if opRegister kind (keyOff key) then x.2.operation kind (keyChan key) (keyOff key) r variant arg else x.2.complete r 5 0
    | none => x.2.complete r 5 0

/-- The tick at which the present cycle of keeper k has come, of a clock of 400 MHz (R104): the steps of a slot run one after the
other from its mark on. -/
def cycleTick (s : Zone) (k : Keeper) : Nat :=
  match (s.keeper k).markAt with
  | some t => max s.mono (t + ((s.keeper k).cycles * 5 + 7) / 8)
  | none => s.mono

def opCop (s : Zone) (k : Keeper) (wd : Fin 16) (variant : BitVec 4) (g : PageArg) (word : BitVec 6) : Zone :=
  s.perform k 4 false fun s =>
    if wd = 0 ∨ !pageAllowed g true then s.illegal k
    else match s.freeTicket k with
      | none =>
        ((s.setW k wd 0xFFFFFFFF).setFlags k { s.flags k with n := true, z := false }).count (pKEEPER k) KEEPER.TICKETS_EXHAUSTED
      | some n =>
        let arg := (s.getW k wd).toNat
        let s := s.issueTicket k n (s.cycleTick k)
        let s := (s.setW k wd (BitVec.ofNat 32 n)).setFlags k { s.flags k with n := false, z := false }
        s.issueOp k (s.ticketRef k n) (pageKey g word.toNat) variant.toNat arg

/-! ### Tickets (R148, R152 to R154) -/

/-- The result word of a ticket as a read returns it. -/
def ticketWord (s : Zone) (k : Keeper) (n : Nat) : Word :=
  let t := s.ticket k n
  match t.state with
  | .free => 0xE0000000
  | .issued => BitVec.ofNat 32 (15 * 2 ^ 28 + min 4095 (s.keeperSlots - t.issueSlot) * 2 ^ 16)
  | .done => BitVec.ofNat 32 (t.status * 2 ^ 28 + t.age * 2 ^ 16 + t.value)

/-- The flags of CHKT (R152). -/
def ticketFlags (s : Zone) (k : Keeper) (n : Nat) : TFlags :=
  let t := s.ticket k n
  ⟨decide (t.state = .done), decide (t.state = .free), decide (t.state = .done ∧ t.status = 0), false⟩

def opChkt (s : Zone) (k : Keeper) (ticket : TicketArg) : Zone := s.perform k 2 false fun s =>
  match s.ticketArg k ticket with
  | none => s.execFault k 3
  | some n => s.setFlags k (s.ticketFlags k n)

def opTkr (s : Zone) (k : Keeper) (wd : Fin 16) (ticket : TicketArg) : Zone := s.perform k 3 false fun s =>
  match s.ticketArg k ticket with
  | none => s.execFault k 3
  | some n =>
    let z := (s.setW k wd (s.ticketWord k n)).setFlags k (s.ticketFlags k n)
    if (s.ticket k n).state = .done then z.setTicket k n { s.ticket k n with state := .free } else z

/-! ### Queues (R155 to R158) -/

def opQpop (s : Zone) (k : Keeper) (w : Fin 16) (queue : Fin 256) : Zone := s.perform k 6 false fun s =>
  let x := s.takeReq k queue.val
  match x.1 with
  | some v => (x.2.setW k w v).setFlags k ⟨decide (v = 0), v.msb, true, false⟩
  | none => (x.2.setW k w 0).setFlags k ⟨true, false, false, false⟩

def opQpush (s : Zone) (k : Keeper) (w : Fin 16) (queue : Fin 256) : Zone := s.perform k 4 false fun s =>
  let full := s.evtFull k queue.val
  let z := if s.holdsWatch k && s.portOpen k then s.pushEvt k queue.val (s.getW k w) else s
  z.setFlags k { s.flags k with c := !full }

def opQlen (s : Zone) (k : Keeper) (wd : Fin 16) (event : Bool) (queue : Fin 256) : Zone := s.perform k 3 false fun s =>
  let n := if event then (if s.bindsEvt k queue.val then (s.evtQ queue.val).words.length else 0) else (s.unread k queue.val).length
  (s.setW k wd (BitVec.ofNat 32 n)).setFlags k { s.flags k with z := decide (n = 0) }

/-! ### Time (R159) -/

def opTnow (s : Zone) (k : Keeper) (wd : Fin 16) : Zone := s.perform k 1 false fun s =>
  s.setW k wd (BitVec.ofNat 32 ((s.keeper k).slotNo % 1000000 * 1000))
def opTsec (s : Zone) (k : Keeper) (wd : Fin 16) : Zone := s.perform k 1 false fun s =>
  s.setW k wd (BitVec.ofNat 32 ((s.keeper k).slotNo / 1000000))
def opTslot (s : Zone) (k : Keeper) (wd : Fin 16) : Zone := s.perform k 1 false fun s =>
  s.setW k wd (BitVec.ofNat 32 ((s.keeper k).round % 64 * 2 ^ 24 + (s.keeper k).slot % 2 ^ 17))

/-! ### Events and faults (R160, R161) -/

/-- The network time of a keeper's slot. -/
def slotStamp (s : Zone) (k : Keeper) : Stamp :=
  let n := (s.keeper k).slotNo
  ⟨BitVec.ofNat 48 (n / 1000000), BitVec.ofNat 32 (n % 1000000 * 1000), 0, s.timeState⟩

/-- The records in a keeper's event stream, at most 64 (R161): the logbook has not taken them, neither to a stream of its own nor to its
buffer (R569). -/
def keeperEvents (s : Zone) (k : Keeper) : Nat :=
  (s.records.filter fun r => r.kind == 0x20 && !r.held && r.payload.getD 2 0 == BitVec.ofNat 8 k.idx).length

def opEvt (s : Zone) (k : Keeper) (ws : Fin 16) (code : BitVec 16) : Zone := s.perform k 4 false fun s =>
  if code = 0 then s.illegal k
  else if !(s.holdsWatch k && s.portOpen k) then s
  else if 64 ≤ s.keeperEvents k then s.count (pKEEPER k) KEEPER.MISC_COUNTS_EVT_DISCARD
  else s.addRecord 0x20 (s.slotStamp k) (leBytes 2 code.toNat ++ leBytes 1 k.idx ++ [0#8] ++ leBytes 4 (s.getW k ws).toNat)

def opFlt (s : Zone) (k : Keeper) (ws : Fin 16) (code : BitVec 16) : Zone := s.perform k 4 false fun s =>
  if code = 0 then s.illegal k
  else if s.holdsWatch k && s.portOpen k then
    s.report Src.tableFault (BitVec.ofNat 32 (code.toNat * 65536 + (s.getW k ws).toNat % 65536))
  else s.count (pKEEPER k) KEEPER.SHADOW_COUNTS_FLT

/-! ### Control (R162) -/

def opNop (s : Zone) (k : Keeper) : Zone := s.perform k 1 false fun s => s
def opEnd (s : Zone) (k : Keeper) : Zone := s.perform k 1 true fun s => (s.closeGroup k).endStep k

/-! ### The instructions of a step -/

/-- Keeper k carries out an instruction of its table. -/
def carryOut (s : Zone) (i : Instr) : Zone :=
  match i with
  | .opAdd keeper wd ws wt f => s.opAdd keeper wd ws wt f
  | .opSub keeper wd ws wt f => s.opSub keeper wd ws wt f
  | .opAnd keeper wd ws wt f => s.opAnd keeper wd ws wt f
  | .opOr keeper wd ws wt f => s.opOr keeper wd ws wt f
  | .opXor keeper wd ws wt f => s.opXor keeper wd ws wt f
  | .opShl keeper wd ws amount f => s.opShl keeper wd ws amount f
  | .opShr keeper wd ws amount f => s.opShr keeper wd ws amount f
  | .opSra keeper wd ws amount f => s.opSra keeper wd ws amount f
  | .opMul keeper wd ws wt f u => s.opMul keeper wd ws wt f u
  | .opMulh keeper wd ws wt f u => s.opMulh keeper wd ws wt f u
  | .opMin keeper wd ws wt f u => s.opMin keeper wd ws wt f u
  | .opMax keeper wd ws wt f u => s.opMax keeper wd ws wt f u
  | .opSat keeper wd ws k f u => s.opSat keeper wd ws k f u
  | .opAddi keeper wd ws f imm => s.opAddi keeper wd ws f imm
  | .opAndi keeper wd ws f imm => s.opAndi keeper wd ws f imm
  | .opOri keeper wd ws f imm => s.opOri keeper wd ws f imm
  | .opXori keeper wd ws f imm => s.opXori keeper wd ws f imm
  | .opLui keeper wd imm => s.opLui keeper wd imm
  | .opCmpi keeper ws imm => s.opCmpi keeper ws imm
  | .opCmp keeper ws wt => s.opCmp keeper ws wt
  | .opTst keeper ws wt => s.opTst keeper ws wt
  | .opSkip keeper cc n => s.opSkip keeper cc n
  | .opLdc keeper w addr => s.opLdc keeper w addr
  | .opStc keeper w addr => s.opStc keeper w addr
  | .opLdcx keeper w wx addr => s.opLdcx keeper w wx addr
  | .opStcx keeper w wx addr => s.opStcx keeper w wx addr
  | .opMirr keeper wd => s.opMirr keeper wd
  | .opCrd keeper w page word => s.opCrd keeper w page word
  | .opCwr keeper w page word => s.opCwr keeper w page word
  | .opCwrSet keeper w page word => s.opCwrSet keeper w page word
  | .opCwrClr keeper w page word => s.opCwrClr keeper w page word
  | .opCwrTgl keeper w page word => s.opCwrTgl keeper w page word
  | .opCop keeper wd variant page word => s.opCop keeper wd variant page word
  | .opChkt keeper ticket => s.opChkt keeper ticket
  | .opTkr keeper wd ticket => s.opTkr keeper wd ticket
  | .opCrdx keeper wd wx page arrives => s.opCrdx keeper wd wx page arrives
  | .opCwrx keeper w wx page => s.opCwrx keeper w wx page
  | .opQpop keeper w queue => s.opQpop keeper w queue
  | .opQpush keeper w queue => s.opQpush keeper w queue
  | .opQlen keeper wd event queue => s.opQlen keeper wd event queue
  | .opTnow keeper wd => s.opTnow keeper wd
  | .opTsec keeper wd => s.opTsec keeper wd
  | .opTslot keeper wd => s.opTslot keeper wd
  | .opEvt keeper ws code => s.opEvt keeper ws code
  | .opFlt keeper ws code => s.opFlt keeper ws code
  | .opNop keeper => s.opNop keeper
  | .opEnd keeper => s.opEnd keeper
  | _ => s

/-- Keeper k fetches a word for execution; whether the word of a CRDX arrives in time is open (R143; log entry 2). A word that R166
excludes fails the keeper, unless it is passed over (R116, R167). -/
def fetchWord (s : Zone) (k : Keeper) (w : Word) : Zone :=
  let crdx := tOp w == 0x2D
  let arrives := s.fresh.1.getLsbD 0
  match tDecode k arrives w with
  | some i => (if crdx then s.fresh.2 else s).carryOut i
  | none => s.perform k 0 false fun s => s.illegal k

end Zone

/-! ### Commands -/

def execOpAdd (keeper : Keeper) (wd ws wt : Fin 16) (f : Bool) (st : State) : Result :=
  st.run fun s => s.opAdd keeper wd ws wt f
def execOpSub (keeper : Keeper) (wd ws wt : Fin 16) (f : Bool) (st : State) : Result :=
  st.run fun s => s.opSub keeper wd ws wt f
def execOpAnd (keeper : Keeper) (wd ws wt : Fin 16) (f : Bool) (st : State) : Result :=
  st.run fun s => s.opAnd keeper wd ws wt f
def execOpOr (keeper : Keeper) (wd ws wt : Fin 16) (f : Bool) (st : State) : Result := st.run fun s => s.opOr keeper wd ws wt f
def execOpXor (keeper : Keeper) (wd ws wt : Fin 16) (f : Bool) (st : State) : Result :=
  st.run fun s => s.opXor keeper wd ws wt f
def execOpShl (keeper : Keeper) (wd ws : Fin 16) (amount : Amount) (f : Bool) (st : State) : Result :=
  st.run fun s => s.opShl keeper wd ws amount f
def execOpShr (keeper : Keeper) (wd ws : Fin 16) (amount : Amount) (f : Bool) (st : State) : Result :=
  st.run fun s => s.opShr keeper wd ws amount f
def execOpSra (keeper : Keeper) (wd ws : Fin 16) (amount : Amount) (f : Bool) (st : State) : Result :=
  st.run fun s => s.opSra keeper wd ws amount f
def execOpMul (keeper : Keeper) (wd ws wt : Fin 16) (f u : Bool) (st : State) : Result :=
  st.run fun s => s.opMul keeper wd ws wt f u
def execOpMulh (keeper : Keeper) (wd ws wt : Fin 16) (f u : Bool) (st : State) : Result :=
  st.run fun s => s.opMulh keeper wd ws wt f u
def execOpMin (keeper : Keeper) (wd ws wt : Fin 16) (f u : Bool) (st : State) : Result :=
  st.run fun s => s.opMin keeper wd ws wt f u
def execOpMax (keeper : Keeper) (wd ws wt : Fin 16) (f u : Bool) (st : State) : Result :=
  st.run fun s => s.opMax keeper wd ws wt f u
def execOpSat (keeper : Keeper) (wd ws : Fin 16) (k : Fin 32) (f u : Bool) (st : State) : Result :=
  st.run fun s => s.opSat keeper wd ws k f u
def execOpAddi (keeper : Keeper) (wd ws : Fin 16) (f : Bool) (imm : BitVec 16) (st : State) : Result :=
  st.run fun s => s.opAddi keeper wd ws f imm
def execOpAndi (keeper : Keeper) (wd ws : Fin 16) (f : Bool) (imm : BitVec 16) (st : State) : Result :=
  st.run fun s => s.opAndi keeper wd ws f imm
def execOpOri (keeper : Keeper) (wd ws : Fin 16) (f : Bool) (imm : BitVec 16) (st : State) : Result :=
  st.run fun s => s.opOri keeper wd ws f imm
def execOpXori (keeper : Keeper) (wd ws : Fin 16) (f : Bool) (imm : BitVec 16) (st : State) : Result :=
  st.run fun s => s.opXori keeper wd ws f imm
def execOpLui (keeper : Keeper) (wd : Fin 16) (imm : BitVec 16) (st : State) : Result := st.run fun s => s.opLui keeper wd imm
def execOpCmpi (keeper : Keeper) (ws : Fin 16) (imm : BitVec 16) (st : State) : Result := st.run fun s => s.opCmpi keeper ws imm
def execOpCmp (keeper : Keeper) (ws wt : Fin 16) (st : State) : Result := st.run fun s => s.opCmp keeper ws wt
def execOpTst (keeper : Keeper) (ws wt : Fin 16) (st : State) : Result := st.run fun s => s.opTst keeper ws wt
def execOpSkip (keeper : Keeper) (cc : Fin 15) (n : Fin 15) (st : State) : Result := st.run fun s => s.opSkip keeper cc n
def execOpLdc (keeper : Keeper) (w : Fin 16) (addr : BitVec 14) (st : State) : Result := st.run fun s => s.opLdc keeper w addr
def execOpStc (keeper : Keeper) (w : Fin 16) (addr : BitVec 14) (st : State) : Result := st.run fun s => s.opStc keeper w addr
def execOpLdcx (keeper : Keeper) (w wx : Fin 16) (addr : BitVec 14) (st : State) : Result :=
  st.run fun s => s.opLdcx keeper w wx addr
def execOpStcx (keeper : Keeper) (w wx : Fin 16) (addr : BitVec 14) (st : State) : Result :=
  st.run fun s => s.opStcx keeper w wx addr
def execOpMirr (keeper : Keeper) (wd : Fin 16) (st : State) : Result := st.run fun s => s.opMirr keeper wd
def execOpCrd (keeper : Keeper) (w : Fin 16) (page : PageArg) (word : BitVec 6) (st : State) : Result :=
  st.run fun s => s.opCrd keeper w page word
def execOpCwr (keeper : Keeper) (w : Fin 16) (page : PageArg) (word : BitVec 6) (st : State) : Result :=
  st.run fun s => s.opCwr keeper w page word
def execOpCwrSet (keeper : Keeper) (w : Fin 16) (page : PageArg) (word : BitVec 6) (st : State) : Result :=
  st.run fun s => s.opCwrSet keeper w page word
def execOpCwrClr (keeper : Keeper) (w : Fin 16) (page : PageArg) (word : BitVec 6) (st : State) : Result :=
  st.run fun s => s.opCwrClr keeper w page word
def execOpCwrTgl (keeper : Keeper) (w : Fin 16) (page : PageArg) (word : BitVec 6) (st : State) : Result :=
  st.run fun s => s.opCwrTgl keeper w page word
def execOpCop (keeper : Keeper) (wd : Fin 16) (variant : BitVec 4) (page : PageArg) (word : BitVec 6) (st : State) : Result :=
  st.run fun s => s.opCop keeper wd variant page word
def execOpChkt (keeper : Keeper) (ticket : TicketArg) (st : State) : Result := st.run fun s => s.opChkt keeper ticket
def execOpTkr (keeper : Keeper) (wd : Fin 16) (ticket : TicketArg) (st : State) : Result :=
  st.run fun s => s.opTkr keeper wd ticket
def execOpCrdx (keeper : Keeper) (wd wx : Fin 16) (page : PageArg) (arrives : Bool) (st : State) : Result :=
  st.run fun s => s.opCrdx keeper wd wx page arrives
def execOpCwrx (keeper : Keeper) (w wx : Fin 16) (page : PageArg) (st : State) : Result :=
  st.run fun s => s.opCwrx keeper w wx page
def execOpQpop (keeper : Keeper) (w : Fin 16) (queue : Fin 256) (st : State) : Result := st.run fun s => s.opQpop keeper w queue
def execOpQpush (keeper : Keeper) (w : Fin 16) (queue : Fin 256) (st : State) : Result :=
  st.run fun s => s.opQpush keeper w queue
def execOpQlen (keeper : Keeper) (wd : Fin 16) (event : Bool) (queue : Fin 256) (st : State) : Result :=
  st.run fun s => s.opQlen keeper wd event queue
def execOpTnow (keeper : Keeper) (wd : Fin 16) (st : State) : Result := st.run fun s => s.opTnow keeper wd
def execOpTsec (keeper : Keeper) (wd : Fin 16) (st : State) : Result := st.run fun s => s.opTsec keeper wd
def execOpTslot (keeper : Keeper) (wd : Fin 16) (st : State) : Result := st.run fun s => s.opTslot keeper wd
def execOpEvt (keeper : Keeper) (ws : Fin 16) (code : BitVec 16) (st : State) : Result := st.run fun s => s.opEvt keeper ws code
def execOpFlt (keeper : Keeper) (ws : Fin 16) (code : BitVec 16) (st : State) : Result := st.run fun s => s.opFlt keeper ws code
def execOpNop (keeper : Keeper) (st : State) : Result := st.run fun s => s.opNop keeper
def execOpEnd (keeper : Keeper) (st : State) : Result := st.run fun s => s.opEnd keeper

end Sys2Proof.Machine
end

