-- ==== Sys2Proof/Machine/SlotMark.lean ====
section
/-! DEFINITION. Slot marks and round boundaries (R119, R168 to R175, R202): what a keeper does at the mark of a slot, and the changes
of profile, table and watch that wait for a boundary (R52, R184, R217, R225 to R237, R665). -/

namespace Sys2Proof.Machine

open Reg

namespace Zone

/-- A command that waited for its boundary ends (R48). -/
def endCommand (s : Zone) (code : Nat) (seq : BitVec 32) : Zone :=
  s.setSupv fun x => { x with executing := x.executing.filter fun e => !(e.code == code && e.seq == seq) }

/-- The keeper that WATCH_STATE.HOLDER names. -/
def namedHolder (s : Zone) : Keeper := if s.fld (pZONE 1) KEEPER.WATCH_STATE_HOLDER = 1 then .B else .A
def nameHolder (s : Zone) (k : Keeper) : Zone := s.setFld (pZONE 1) KEEPER.WATCH_STATE_HOLDER k.idx
def setClaim (s : Zone) (k : Keeper) (c : Nat) : Zone := s.setFld (pKEEPER k) KEEPER.KSTATUS_CLAIM c

/-- Round and slot of keeper k by its slot number (R169). -/
def place (s : Zone) (k : Keeper) : Zone :=
  let x := s.keeper k
  s.setKeeper k { x with round := x.slotNo / x.roundLen % 64, slot := x.slotNo % x.roundLen }

/-- Whether slot n begins a round of keeper k. -/
def startsRound (s : Zone) (k : Keeper) (n : Nat) : Bool := n % (s.keeper k).roundLen == 0

/-- The pause of keeper k after a step of network time (R175). -/
def pause (s : Zone) (k : Keeper) : Option Nat := SMap.get (fun _ => none) s.pauses (pauseKeeper k)
def endPause (s : Zone) (k : Keeper) : Zone := { s with pauses := SMap.set (fun _ => none) s.pauses (pauseKeeper k) none }

/-! ### The rounds of a keeper -/

/-- The mark of slot n ends a pause where it begins a round of the stepped time; a keeper that runs no table does not pause. -/
def resume (s : Zone) (k : Keeper) (n : Nat) : Zone :=
  match s.pause k with
  | none => s
  | some t =>
    if !s.executes k then s.endPause k
    else if s.startsRound k n && decide (t ≤ n * 1000) then (s.endPause k).count (pKEEPER k) KEEPER.MISC_COUNTS_RESYNC
    else s

/-- The mark of slot n counts a round of keeper k where it begins one: toward readiness (R226), in a trial (R231), and with the watch
toward PERIOD (R225). -/
def countRound (s : Zone) (k : Keeper) (n : Nat) : Zone :=
  let s := s.resume k n
  if s.executes k && s.startsRound k n then
    let s := s.setKeeper k { s.keeper k with rounds := (s.keeper k).rounds + 1 }
    let s := s.when (decide (s.role k = Role.trial)) (·.count (pKEEPER k) KEEPER.TRIAL_ROUNDS)
    s.when (s.holdsWatch k) (·.count (pZONE 1) KEEPER.WATCH_COUNT_ROUNDS)
  else s

/-! ### Fail-over and watch change -/

/-- A fail-over is counted and recorded (R219). -/
def countFailover (s : Zone) : Zone :=
  (s.count (pZONE 1) KEEPER.WATCH_STATE_FAILOVERS).post (pZONE 1) KEEPER.WATCH_STATE_FAILOVERS

/-- A resident lightship table is never returned to once a service table serves (R659, R669). -/
def buryLightship (s : Zone) : Zone := s.forEach [Keeper.A, Keeper.B] fun (s : Zone) (k : Keeper) =>
  match s.resTable k with
  | some t => if t.kind = 1 then s.setResState k 3 else s
  | none => s

/-- Keeper k holds the watch from this mark on: its mirror region is the source (R222), and it announces priority 110 in `n` more
beacons (R205). -/
def holdWatch (s : Zone) (k : Keeper) (n : Nat) : Zone :=
  let s := s.setKeeper k { s.keeper k with holdNext := false, taking := false, high := n }
  ((s.setRole k Role.watch).setFld (pKEEPER k) KEEPER.KSTATUS_MIRROR_STALE 0).nameHolder k

/-- The mark after the beacon of slot C: keeper k takes the watch, with a table in trial as if committed (R217, R218). -/
def takeover (s : Zone) (k : Keeper) : Zone :=
  let x := s.keeper k
  if !x.holdNext then s
  else if !s.portOpen k then s.setKeeper k { x with holdNext := false, taking := false }
  else
    let trial := decide (s.role k = Role.trial)
    let z := (s.holdWatch k 3).when trial fun s => (s.setFld (pKEEPER k) KEEPER.KSTATUS_TRIAL_TAKEOVER 1).buryLightship
    z.countFailover.settleQueues s

/-- The commit of a trial at boundary B (R232): the outgoing keeper o begins the new table, and the floor may rise. -/
def commitBegin (s : Zone) (o : Keeper) (raise : Bool) : Zone :=
  let s := if s.executes o then s.beginTable o else s
  let s := (s.setFld (pZONE 6) ZONE6.START_STATUS_MAINTENANCE 0).setFld (pZONE 1) KEEPER.WATCH_COUNT_ROUNDS 0
  match raise, s.runTable o.other with
  | true, some t => s.setFld (pZONE 1) KEEPER.FLOOR_SERVICE_VERSION (max t.version.toNat (s.fld (pZONE 1) KEEPER.FLOOR_SERVICE_VERSION))
  | _, _ => s

/-- The watch change announced in the slot before takes effect (R227, R232); where the outgoing keeper o has not heard the incoming
one well, it keeps the watch. -/
def watchSwap (s : Zone) : Zone :=
  match s.watch.swap with
  | none => s
  | some w =>
    let old := s
    let o := s.namedHolder
    let i := o.other
    let x := s.keeper o
    if s.holdsWatch o && !(x.other.slot == some x.slotNo && !x.other.fail) then
      let s := (s.declareFailed o).countFailover
      s.setKeeper o { s.keeper o with high := 4 }
    else if !s.portOpen i then s.dropSched
    else
      let s := s.holdWatch i 3
      let s := s.when (s.holdsWatch o) (·.setRole o Role.standby)
      let s := s.when w.commit (·.commitBegin o w.raise)
      let s := (s.count (pZONE 1) KEEPER.WATCH_COUNT_CHANGES).setFld (pZONE 1) KEEPER.WATCH_COUNT_ROUNDS 0
      s.dropSched.settleQueues old

/-- A mark that begins no round although the one before announced a swap, because network time has stepped: no keeper begins a table
there, and the change waits for the next boundary (R175, R184, R225). -/
def swapLapses (s : Zone) : Zone := { s with watch := { s.watch with swap := none } }

/-- Mark B − 1 of keeper h, which holds the watch: a change that waits, or a periodic one that is due, is announced where the standby
is ready, and otherwise deferred (R225, R226, R232, R234). -/
def prepareSwap (s : Zone) (h : Keeper) : Zone :=
  let due := s.flag (pZONE 1) KEEPER.WATCH_CTRL_ENABLE && !s.inTrial && s.healthy h.other &&
    decide (s.fld (pZONE 1) KEEPER.WATCH_CTRL_PERIOD ≤ s.fld (pZONE 1) KEEPER.WATCH_COUNT_ROUNDS + 1)
  let wait : Option WatchSched := match s.watch.sched with
    | some w => some w
    | none => if due then some ⟨none, false, false⟩ else none
  match wait with
  | none => s.setFld (pZONE 1) KEEPER.WATCH_STATE_DEFERRED 0
  | some w =>
    if s.standbyReady w.commit then { s with watch := { s.watch with swap := some w } }
    else s.setFld (pZONE 1) KEEPER.WATCH_STATE_DEFERRED 1

/-! ### What waits for a boundary -/

/-- PROFILE.REQ becomes ACTIVE, with the figures of R55 that the model holds. -/
def applyProfile (s : Zone) : Zone :=
  let v := s.fld (pZONE 7) ZONE7.PROFILE_REQ
  if v = s.fld (pZONE 7) ZONE7.PROFILE_ACTIVE then s
  else (s.setFld (pZONE 7) ZONE7.PROFILE_ACTIVE v).showFigures

/-- A ROUND_MODE 1 table takes the round of the profile at the first boundary of both lengths (R174). -/
def roundChange (s : Zone) (k : Keeper) : Zone :=
  match s.runTable k with
  | none => s
  | some t =>
    let x := s.keeper k
    let want := s.tableLen t
    if t.mode = 1 ∧ x.slotNo % x.roundLen = 0 ∧ x.slotNo % want = 0 then s.setKeeper k { x with roundLen := want } else s

/-- Every healthy keeper begins the table beside the one it runs, h with the watch (R657, R659, R665). -/
def beginAll (s : Zone) (h : Keeper) : Zone := s.forEach [Keeper.A, Keeper.B] fun (s : Zone) (k : Keeper) =>
  if s.healthy k && (s.resTable k).isSome then (s.beginTable k).setRole k (if k = h then Role.watch else Role.standby) else s

/-- The first table of a start: the keeper of R237 holds the watch at priority 100 from its first slot. -/
def beginFirst (s : Zone) : Zone :=
  let h := if s.healthy .A then Keeper.A else .B
  let z := ((s.beginAll h).nameHolder h).setClaim h (claimOf h 100)
  let z := z.when (s.healthy h.other) (·.setClaim h.other (claimOf h.other 20))
  { z with watch := { z.watch with change := none } }.settleQueues s

/-- The standby of keeper h begins the accepted table in trial (R231). -/
def beginTrial (s : Zone) (h : Keeper) : Zone :=
  let k := h.other
  if s.healthy k then
    let s := (s.beginTable k).setRole k Role.trial
    (s.setFld (pKEEPER k) KEEPER.TRIAL_ROUNDS 0).setFld (pKEEPER k) KEEPER.TRIAL_FAULTS 0
  else s

/-- Whether a table is accepted and not committed: in trial, or not begun yet. -/
def trialOpen (s : Zone) (h : Keeper) : Bool := decide (s.role h.other = Role.trial) || decide (s.resState h = 1)

/-- The boundary of a rollback (R233): a trial ends and its table is unusable in both keepers; otherwise every healthy keeper begins its
previous table. -/
def beginRollback (s : Zone) (h : Keeper) : Zone :=
  if s.trialOpen h then
    let k := h.other
    let s := s.when (decide (s.role k = Role.trial)) fun s => (s.beginTable k).setRole k Role.standby
    (s.setResState .A 3).setResState .B 3
  else s.forEach [Keeper.A, Keeper.B] fun (s : Zone) (k : Keeper) => s.when (s.healthy k && (s.resTable k).isSome) (·.beginTable k)

/-- The change of tables that waits takes effect at a boundary of keeper h, which holds the watch; a rollback's command ends. -/
def applyChange (s : Zone) (h : Keeper) : Zone :=
  match s.watch.change with
  | none => s
  | some (c, cmd) =>
    let z : Zone := { s with watch := { s.watch with change := none } }
    let z := match c with
      | .start => z.beginAll h
      | .trial => z.beginTrial h
      | .rollback => z.beginRollback h
    let z := match cmd with
      | some seq => z.endCommand Code.rollback seq
      | none => z
    z.settleQueues s

/-- The end of the lightship table's first round in START ends phase 5 (R658, R648). -/
def firstRound (s : Zone) (h : Keeper) : Zone :=
  if s.mode = .start ∧ s.phase = 5 ∧ 1 ≤ (s.keeper h).rounds ∧ (s.runTable h).any (fun t => t.kind = 1) then
    (s.setFld (pZONE 6) ZONE6.START_TIMES_T_LEGAL (satU 16 ((s.mono - s.start.entered) / (10 * ticksPerUs)))).setPhase 6
  else s

/-- A round boundary of the keeper that holds the watch: it brings the profile and the tables (R52, R184, R228). -/
def boundary (s : Zone) : Zone :=
  match s.holder with
  | none => s
  | some h => ((s.firstRound h).applyProfile).applyChange h

/-- No keeper runs a table, and one waits: it begins at the first boundary of its own round (R657). -/
def boundaryFirst (s : Zone) (n : Nat) : Zone :=
  if s.executes .A || s.executes .B then s
  else match s.watch.change, (if s.healthy .A then s.resTable .A else if s.healthy .B then s.resTable .B else none) with
    | some (.start, _), some t => if n % s.tableLen t = 0 then s.beginFirst else s
    | _, _ => s

/-- In TEST a keeper ends its table at the mark that begins a round, and stops (R617). -/
def stopInTest (s : Zone) (k : Keeper) (n : Nat) : Zone :=
  if s.mode = .test ∧ (s.role k = Role.starting ∨ (s.executes k ∧ s.startsRound k n)) then
    (s.setRole k Role.stopped).setKeeper k { s.keeper k with inStep := false, group := [], line := none, sent := none }
  else s

/-! ### The steps of a slot -/

/-- Whether word i of a step matches an item of R166 by its place: a skip that passes over END, an END before the last instruction, or a
step without END (R167). -/
def misplaced (l : List Word) (i : Nat) : Bool :=
  match tDecode .A false (l.getD i 0) with
  | some (.opSkip _ _ n) => decide (l.length ≤ i + n.val + 2)
  | some (.opEnd _) => decide (i + 1 < l.length)
  | _ => decide (i + 1 = l.length)

/-- Keeper k runs step n of its table (R106, R116, R167). -/
def runStep (s : Zone) (k : Keeper) (t : Table) (n : Nat) : Zone :=
  if !s.executes k then s
  else
    let s := (s.setKeeper k { s.keeper k with step := n }).beginStep k
    let l := t.words n
    let s := s.forEach (List.range l.length) fun (s : Zone) (i : Nat) =>
      s.when (s.executes k && (s.keeper k).inStep) fun s =>
        if misplaced l i && (s.keeper k).skip == 0 then s.illegal k else s.fetchWord k (l.getD i 0)
    s.when ((s.keeper k).inStep) (·.illegal k)

/-- Keeper k runs the steps that its slot map places in the slot and whose mask holds the round, in order (R170 to R172); none in a
pause. -/
def runSlot (s : Zone) (k : Keeper) : Zone :=
  match s.runTable k with
  | none => s
  | some t =>
    if (s.pause k).isSome || !s.executes k then s
    else
      let x := s.keeper k
      let fires (n : Nat) : Bool := (t.steps[n]?.map fun d => d.mask.getLsbD x.round).getD false
      s.forEach (t.slotMap.filter fun e => e.1 == x.slot && fires e.2) fun (s : Zone) (e : Nat × Nat) => s.runStep k t e.2

/-! ### The mark -/

/-- The end of the slot before: what keeper k has not sent or heard in it is lost. -/
def endSlot (s : Zone) (k : Keeper) : Zone :=
  let s := s.sendBeacon k
  s.setKeeper k { s.keeper k with line := none, sent := none }

/-- The standby applies the mirror words of the slot before (R221). -/
def receiveMirror (s : Zone) (k : Keeper) : Zone :=
  if (s.role k = Role.standby ∨ s.role k = Role.trial) ∧ (s.keeper k).markAt.isSome then s.mirrorApply k else s

/-- Keeper k is in slot n: its claim is the one it announced (R204), its tickets of dropped operations complete (R147), and its cycles
start anew. -/
def enterSlot (s : Zone) (k : Keeper) (n : Nat) (own : Bool) : Zone :=
  let x := s.keeper k
  let s := (s.setClaim k x.announced).setFlag (pKEEPER k) KEEPER.KSTATUS_MARK_LOCAL own
  let s := s.setKeeper k { x with slotNo := n, markAt := some s.mono, cycles := 0, beaconDue := true, dropped := [],
                                  recent := x.recent.filter fun r => decide (n ≤ r.slot + 1) }
  (s.forEach x.dropped fun (s : Zone) (r : TicketRef) => s.complete r 2 0).ticketTimeouts k

/-- The keeper by whose marks what both share advances: the holder of the watch, before the first table the one of R237. -/
def leader (s : Zone) : Keeper := s.holder.getD (if s.healthy .A then .A else .B)

/-- The slot marks of the keepers `ks`, keeper k beginning slot `next k`; `own` tells marks of their own clocks (R119, R202). A slot
counts once for both keepers. -/
def mark (s : Zone) (ks : List Keeper) (next : Keeper → Nat) (own : Bool) : Zone :=
  let o := s.namedHolder
  let b := ks.contains o && s.startsRound o (next o)
  let l := s.leader
  let s := s.forEach ks endSlot
  let s := s.forEach ks fun (s : Zone) (k : Keeper) => s.countRound k (next k)
  let s := s.forEach ks receiveMirror
  let s := s.when (ks.contains o) fun s => if b then s.watchSwap else s.swapLapses
  let s := s.forEach ks takeover
  let s := s.forEach ks judgeOther
  let s := s.when (ks.contains l) fun s => { s with keeperSlots := s.keeperSlots + 1 }
  let s := s.forEach ks fun (s : Zone) (k : Keeper) => s.enterSlot k (next k) own
  let s := s.forEach ks fun (s : Zone) (k : Keeper) => s.stopInTest k (next k)
  let s := (s.when b boundary).when (ks.contains l) (·.boundaryFirst (next l))
  let s := (s.forEach ks roundChange).forEach ks place
  let s := match s.holder with
    | some h => s.when (ks.contains h && s.startsRound h (next h + 1)) (·.prepareSwap h)
    | none => s
  (s.forEach ks runSlot).forEach [Keeper.A, Keeper.B] showMirror

/-- The number of the current slot of network time (R169). -/
def slotNow (s : Zone) : Nat := s.nowNs / 1000

/-- The keepers that have not had the mark of the current slot of network time. -/
def markDue (s : Zone) : List Keeper := [Keeper.A, Keeper.B].filter fun k =>
  !((s.keeper k).slotNo == s.slotNow && (s.keeper k).markAt.isSome && !s.flag (pKEEPER k) KEEPER.KSTATUS_MARK_LOCAL)

/-- Whether the time base gives marks: in every state but OFF and SLEEP, while it runs (R168). -/
def marksRun (s : Zone) : Bool := s.inMode [.start, .service, .lightship, .test] && !s.time.stopped

/-- The mark of the current slot, where it has not been yet. -/
def slotMark (s : Zone) : Zone :=
  if s.marksRun && !s.markDue.isEmpty then s.mark s.markDue (fun _ => s.slotNow) false else s

/-- Whether the current slot begins a round: of a keeper's table, or of a table that waits to begin first. -/
def roundStarts (s : Zone) : Bool :=
  [Keeper.A, Keeper.B].any fun k => s.startsRound k s.slotNow || (s.resTable k).any fun t => s.slotNow % s.tableLen t == 0

/-- The ticks from a keeper's last mark to its own next one: cycle 420 after a mark of the time base, 400 cycles after one of its own
(R202), of a clock of 400 MHz. -/
def localWait (s : Zone) (k : Keeper) : Nat := if s.flag (pKEEPER k) KEEPER.KSTATUS_MARK_LOCAL then 250 else 263

/-- Keeper k makes a mark of its own (R202). -/
def localMark (s : Zone) (k : Keeper) : Zone :=
  match (s.keeper k).markAt with
  | some t =>
    if s.inMode [.start, .service, .lightship, .test] && s.past t (s.localWait k) then
      let on := s.flag (pKEEPER .A) KEEPER.KSTATUS_MARK_LOCAL || s.flag (pKEEPER .B) KEEPER.KSTATUS_MARK_LOCAL
      (s.mark [k] (fun _ => (s.keeper k).slotNo + 1) true).when (!on) (·.report Src.timeLocal 0)
    else s
  | none => s

end Zone

/-! ### Commands -/

/-- A slot mark of the time base. -/
def execSlotMark (st : State) : Result := st.runOn fun s => s.slotMark

/-- The slot mark of a slot that begins a round. -/
def execRoundBoundary (st : State) : Result := st.runOn fun s => if s.roundStarts then s.slotMark else s

/-- A mark of a keeper's own clock. -/
def execLocalMark (keeper : Keeper) (st : State) : Result := st.runOn fun s => s.localMark keeper

end Sys2Proof.Machine
end

