-- ==== Sys2Proof/Machine/Dispatch.lean ====
section
/-! DEFINITION. The dispatch of a command to its meaning: one arm per constructor of Instr. -/

namespace Sys2Proof.Machine

def exec (i : Instr) (s : State) : Host.Outcome State Fault Refusal :=
  match i with
  | .registerWrite writer offset size mode value => Sys2Proof.Machine.execRegisterWrite writer offset size mode value s
  | .rcRead src offset size => Sys2Proof.Machine.execRcRead src offset size s
  | .pageLock writer page => Sys2Proof.Machine.execPageLock writer page s
  | .dcqPacketWrite queue words complete => Sys2Proof.Machine.execDcqPacketWrite queue words complete s
  | .dcqWordRead queue ecc => Sys2Proof.Machine.execDcqWordRead queue ecc s
  | .dcqClockStop queue => Sys2Proof.Machine.execDcqClockStop queue s
  | .clockMonitorWindow domain window => Sys2Proof.Machine.execClockMonitorWindow domain window s
  | .startNotice => Sys2Proof.Machine.execStartNotice s
  | .startNoticeRepeat => Sys2Proof.Machine.execStartNoticeRepeat s
  | .getStatus env => Sys2Proof.Machine.execGetStatus env s
  | .reset env => Sys2Proof.Machine.execReset env s
  | .bindSupervisor env => Sys2Proof.Machine.execBindSupervisor env s
  | .setProfile env => Sys2Proof.Machine.execSetProfile env s
  | .loadTable env stored => Sys2Proof.Machine.execLoadTable env stored s
  | .commitTable env => Sys2Proof.Machine.execCommitTable env s
  | .rollbackTable env => Sys2Proof.Machine.execRollbackTable env s
  | .watchChange env => Sys2Proof.Machine.execWatchChange env s
  | .sleepRequest env => Sys2Proof.Machine.execSleepRequest env s
  | .scheduleGlobal env => Sys2Proof.Machine.execScheduleGlobal env s
  | .cancelGlobal env => Sys2Proof.Machine.execCancelGlobal env s
  | .forceTimeStep env => Sys2Proof.Machine.execForceTimeStep env s
  | .grantResource env => Sys2Proof.Machine.execGrantResource env s
  | .keyRoll env => Sys2Proof.Machine.execKeyRoll env s
  | .logFreeze env => Sys2Proof.Machine.execLogFreeze env s
  | .readStartReasons env => Sys2Proof.Machine.execReadStartReasons env s
  | .clearStartCount env => Sys2Proof.Machine.execClearStartCount env s
  | .exitLightship env => Sys2Proof.Machine.execExitLightship env s
  | .enterTest env => Sys2Proof.Machine.execEnterTest env s
  | .exitTest env => Sys2Proof.Machine.execExitTest env s
  | .powerUp => Sys2Proof.Machine.execPowerUp s
  | .orderlyReset => Sys2Proof.Machine.execOrderlyReset s
  | .crankHoldEntry => Sys2Proof.Machine.execCrankHoldEntry s
  | .crankHoldExit => Sys2Proof.Machine.execCrankHoldExit s
  | .crankAccClear => Sys2Proof.Machine.execCrankAccClear s
  | .crankLimit => Sys2Proof.Machine.execCrankLimit s
  | .surgeEntry feed volts => Sys2Proof.Machine.execSurgeEntry feed volts s
  | .surgeLong feed => Sys2Proof.Machine.execSurgeLong feed s
  | .surgeExit feed volts => Sys2Proof.Machine.execSurgeExit feed volts s
  | .feedLost feed volts => Sys2Proof.Machine.execFeedLost feed volts s
  | .reverseEntry feed volts => Sys2Proof.Machine.execReverseEntry feed volts s
  | .feedReturn feed volts => Sys2Proof.Machine.execFeedReturn feed volts s
  | .gndLost feed => Sys2Proof.Machine.execGndLost feed s
  | .gndRestored feed => Sys2Proof.Machine.execGndRestored feed s
  | .feedOverload avgA avgB => Sys2Proof.Machine.execFeedOverload avgA avgB s
  | .inputSample input millivolts => Sys2Proof.Machine.execInputSample input millivolts s
  | .inputLevelChange input => Sys2Proof.Machine.execInputLevelChange input s
  | .captureRise input => Sys2Proof.Machine.execCaptureRise input s
  | .captureFall input => Sys2Proof.Machine.execCaptureFall input s
  | .captureTimeout input => Sys2Proof.Machine.execCaptureTimeout input s
  | .inCfgWrite writer input value => Sys2Proof.Machine.execInCfgWrite writer input value s
  | .inThreshWrite writer input value => Sys2Proof.Machine.execInThreshWrite writer input value s
  | .thermalSample base soc switchDie powerA powerB => Sys2Proof.Machine.execThermalSample base soc switchDie powerA powerB s
  | .opAdd keeper wd ws wt f => Sys2Proof.Machine.execOpAdd keeper wd ws wt f s
  | .opSub keeper wd ws wt f => Sys2Proof.Machine.execOpSub keeper wd ws wt f s
  | .opAnd keeper wd ws wt f => Sys2Proof.Machine.execOpAnd keeper wd ws wt f s
  | .opOr keeper wd ws wt f => Sys2Proof.Machine.execOpOr keeper wd ws wt f s
  | .opXor keeper wd ws wt f => Sys2Proof.Machine.execOpXor keeper wd ws wt f s
  | .opShl keeper wd ws amount f => Sys2Proof.Machine.execOpShl keeper wd ws amount f s
  | .opShr keeper wd ws amount f => Sys2Proof.Machine.execOpShr keeper wd ws amount f s
  | .opSra keeper wd ws amount f => Sys2Proof.Machine.execOpSra keeper wd ws amount f s
  | .opMul keeper wd ws wt f u => Sys2Proof.Machine.execOpMul keeper wd ws wt f u s
  | .opMulh keeper wd ws wt f u => Sys2Proof.Machine.execOpMulh keeper wd ws wt f u s
  | .opMin keeper wd ws wt f u => Sys2Proof.Machine.execOpMin keeper wd ws wt f u s
  | .opMax keeper wd ws wt f u => Sys2Proof.Machine.execOpMax keeper wd ws wt f u s
  | .opSat keeper wd ws k f u => Sys2Proof.Machine.execOpSat keeper wd ws k f u s
  | .opAddi keeper wd ws f imm => Sys2Proof.Machine.execOpAddi keeper wd ws f imm s
  | .opAndi keeper wd ws f imm => Sys2Proof.Machine.execOpAndi keeper wd ws f imm s
  | .opOri keeper wd ws f imm => Sys2Proof.Machine.execOpOri keeper wd ws f imm s
  | .opXori keeper wd ws f imm => Sys2Proof.Machine.execOpXori keeper wd ws f imm s
  | .opLui keeper wd imm => Sys2Proof.Machine.execOpLui keeper wd imm s
  | .opCmpi keeper ws imm => Sys2Proof.Machine.execOpCmpi keeper ws imm s
  | .opCmp keeper ws wt => Sys2Proof.Machine.execOpCmp keeper ws wt s
  | .opTst keeper ws wt => Sys2Proof.Machine.execOpTst keeper ws wt s
  | .opSkip keeper cc n => Sys2Proof.Machine.execOpSkip keeper cc n s
  | .opLdc keeper w addr => Sys2Proof.Machine.execOpLdc keeper w addr s
  | .opStc keeper w addr => Sys2Proof.Machine.execOpStc keeper w addr s
  | .opLdcx keeper w wx addr => Sys2Proof.Machine.execOpLdcx keeper w wx addr s
  | .opStcx keeper w wx addr => Sys2Proof.Machine.execOpStcx keeper w wx addr s
  | .opMirr keeper wd => Sys2Proof.Machine.execOpMirr keeper wd s
  | .opCrd keeper w page word => Sys2Proof.Machine.execOpCrd keeper w page word s
  | .opCwr keeper w page word => Sys2Proof.Machine.execOpCwr keeper w page word s
  | .opCwrSet keeper w page word => Sys2Proof.Machine.execOpCwrSet keeper w page word s
  | .opCwrClr keeper w page word => Sys2Proof.Machine.execOpCwrClr keeper w page word s
  | .opCwrTgl keeper w page word => Sys2Proof.Machine.execOpCwrTgl keeper w page word s
  | .opCop keeper wd variant page word => Sys2Proof.Machine.execOpCop keeper wd variant page word s
  | .opChkt keeper ticket => Sys2Proof.Machine.execOpChkt keeper ticket s
  | .opTkr keeper wd ticket => Sys2Proof.Machine.execOpTkr keeper wd ticket s
  | .opCrdx keeper wd wx page arrives => Sys2Proof.Machine.execOpCrdx keeper wd wx page arrives s
  | .opCwrx keeper w wx page => Sys2Proof.Machine.execOpCwrx keeper w wx page s
  | .opQpop keeper w queue => Sys2Proof.Machine.execOpQpop keeper w queue s
  | .opQpush keeper w queue => Sys2Proof.Machine.execOpQpush keeper w queue s
  | .opQlen keeper wd event queue => Sys2Proof.Machine.execOpQlen keeper wd event queue s
  | .opTnow keeper wd => Sys2Proof.Machine.execOpTnow keeper wd s
  | .opTsec keeper wd => Sys2Proof.Machine.execOpTsec keeper wd s
  | .opTslot keeper wd => Sys2Proof.Machine.execOpTslot keeper wd s
  | .opEvt keeper ws code => Sys2Proof.Machine.execOpEvt keeper ws code s
  | .opFlt keeper ws code => Sys2Proof.Machine.execOpFlt keeper ws code s
  | .opNop keeper => Sys2Proof.Machine.execOpNop keeper s
  | .opEnd keeper => Sys2Proof.Machine.execOpEnd keeper s
  | .ecallAbsent hart => Sys2Proof.Machine.execEcallAbsent hart s
  | .budgetOverrun keeper => Sys2Proof.Machine.execBudgetOverrun keeper s
  | .selfCheckFailure keeper cause => Sys2Proof.Machine.execSelfCheckFailure keeper cause s
  | .ticketCompletion keeper ticket serial status value => Sys2Proof.Machine.execTicketCompletion keeper ticket serial status value s
  | .ticketTimeout keeper => Sys2Proof.Machine.execTicketTimeout keeper s
  | .slotMark => Sys2Proof.Machine.execSlotMark s
  | .roundBoundary => Sys2Proof.Machine.execRoundBoundary s
  | .requestPost queue src word => Sys2Proof.Machine.execRequestPost queue src word s
  | .frameTimeout queue => Sys2Proof.Machine.execFrameTimeout queue s
  | .eventPop queue src => Sys2Proof.Machine.execEventPop queue src s
  | .eventQueueNotice queue => Sys2Proof.Machine.execEventQueueNotice queue s
  | .loaderVerdict keeper => Sys2Proof.Machine.execLoaderVerdict keeper s
  | .beaconReceive sender errors disturbed => Sys2Proof.Machine.execBeaconReceive sender errors disturbed s
  | .localMark keeper => Sys2Proof.Machine.execLocalMark keeper s
  | .fenceConfirm keeper => Sys2Proof.Machine.execFenceConfirm keeper s
  | .hardIsolation keeper => Sys2Proof.Machine.execHardIsolation keeper s
  | .stageSilent stage => Sys2Proof.Machine.execStageSilent stage s
  | .mirrorFrameReceive keeper flips closingLost => Sys2Proof.Machine.execMirrorFrameReceive keeper flips closingLost s
  | .chCtrlWrite ch value => Sys2Proof.Machine.execChCtrlWrite ch value s
  | .fastTrip ch peak => Sys2Proof.Machine.execFastTrip ch peak s
  | .warmupTripTaken ch => Sys2Proof.Machine.execWarmupTripTaken ch s
  | .softLimitTick ch raw => Sys2Proof.Machine.execSoftLimitTick ch raw s
  | .junctionSample ch temp => Sys2Proof.Machine.execJunctionSample ch temp s
  | .spacingEnd ch => Sys2Proof.Machine.execSpacingEnd ch s
  | .windowEnd ch => Sys2Proof.Machine.execWindowEnd ch s
  | .refill ch => Sys2Proof.Machine.execRefill ch s
  | .reverseGapEnd ch => Sys2Proof.Machine.execReverseGapEnd ch s
  | .feedSag feed => Sys2Proof.Machine.execFeedSag feed s
  | .openLoadFilter ch low high => Sys2Proof.Machine.execOpenLoadFilter ch low high s
  | .switchFaultDetect ch senseMin senseMax voutMin voutMax feedV => Sys2Proof.Machine.execSwitchFaultDetect ch senseMin senseMax voutMin voutMax feedV s
  | .clearRetry ch keeper ticket => Sys2Proof.Machine.execClearRetry ch keeper ticket s
  | .offDiag ch keeper ticket vout feedV => Sys2Proof.Machine.execOffDiag ch keeper ticket vout feedV s
  | .offDiagDone ch millivolts => Sys2Proof.Machine.execOffDiagDone ch millivolts s
  | .snapshot ch keeper ticket => Sys2Proof.Machine.execSnapshot ch keeper ticket s
  | .generatorBoundary gen => Sys2Proof.Machine.execGeneratorBoundary gen s
  | .followBoundary ch => Sys2Proof.Machine.execFollowBoundary ch s
  | .charStagedWrite gen word value => Sys2Proof.Machine.execCharStagedWrite gen word value s
  | .stageHoldWrite gen hold => Sys2Proof.Machine.execStageHoldWrite gen hold s
  | .calEdge ch rawPre rawPost shuntPre shuntPost elecPre elecPost settled alone => Sys2Proof.Machine.execCalEdge ch rawPre rawPost shuntPre shuntPost elecPre elecPost settled alone s
  | .calStale ch => Sys2Proof.Machine.execCalStale ch s
  | .calRestart writer ch => Sys2Proof.Machine.execCalRestart writer ch s
  | .calRecordWrite => Sys2Proof.Machine.execCalRecordWrite s
  | .balanceEval shuntA shuntB elecA elecB satA satB legs => Sys2Proof.Machine.execBalanceEval shuntA shuntB elecA elecB satA satB legs s
  | .ringUpdate => Sys2Proof.Machine.execRingUpdate s
  | .ringRestart writer => Sys2Proof.Machine.execRingRestart writer s
  | .frameReceive port frame fcsOk ticks => Sys2Proof.Machine.execFrameReceive port frame fcsOk ticks s
  | .losslessAdmit ingress egress cls => Sys2Proof.Machine.execLosslessAdmit ingress egress cls s
  | .hostTxFetch pair => Sys2Proof.Machine.execHostTxFetch pair s
  | .hostRxDeliver port => Sys2Proof.Machine.execHostRxDeliver port s
  | .doorbell port src pair receive tail => Sys2Proof.Machine.execDoorbell port src pair receive tail s
  | .crossbarSchedule plca ecc => Sys2Proof.Machine.execCrossbarSchedule plca ecc s
  | .frameTransmitStart port plca skew => Sys2Proof.Machine.execFrameTransmitStart port plca skew s
  | .gateEntryChange port => Sys2Proof.Machine.execGateEntryChange port s
  | .gateCommit port => Sys2Proof.Machine.execGateCommit port s
  | .streamGateChange gate => Sys2Proof.Machine.execStreamGateChange gate s
  | .ageCheck => Sys2Proof.Machine.execAgeCheck s
  | .linkDown port => Sys2Proof.Machine.execLinkDown port s
  | .linkUp port speed leader eee => Sys2Proof.Machine.execLinkUp port speed leader eee s
  | .holdExpiry port => Sys2Proof.Machine.execHoldExpiry port s
  | .tableWrite window keeper ticket index => Sys2Proof.Machine.execTableWrite window keeper ticket index s
  | .tableRead window keeper ticket index => Sys2Proof.Machine.execTableRead window keeper ticket index s
  | .tableClear window keeper ticket index => Sys2Proof.Machine.execTableClear window keeper ticket index s
  | .acfSend keeper ticket arg => Sys2Proof.Machine.execAcfSend keeper ticket arg s
  | .acfTake keeper ticket arg => Sys2Proof.Machine.execAcfTake keeper ticket arg s
  | .counterRead port offset => Sys2Proof.Machine.execCounterRead port offset s
  | .saInstall writer port assoc sci an slot nextPn => Sys2Proof.Machine.execSaInstall writer port assoc sci an slot nextPn s
  | .frerResetTimeout function => Sys2Proof.Machine.execFrerResetTimeout function s
  | .servoMeasurement sourceNs => Sys2Proof.Machine.execServoMeasurement sourceNs s
  | .sourceLost gptpInstance => Sys2Proof.Machine.execSourceLost gptpInstance s
  | .ptpMessageReceive port ptpInstance msg => Sys2Proof.Machine.execPtpMessageReceive port ptpInstance msg s
  | .ptpTransmit port ptpInstance octets => Sys2Proof.Machine.execPtpTransmit port ptpInstance octets s
  | .ppsEdge stampNs => Sys2Proof.Machine.execPpsEdge stampNs s
  | .ppsLost => Sys2Proof.Machine.execPpsLost s
  | .integrityCheck ticks mismatch => Sys2Proof.Machine.execIntegrityCheck ticks mismatch s
  | .tsqPop writer port => Sys2Proof.Machine.execTsqPop writer port s
  | .timeSnap writer => Sys2Proof.Machine.execTimeSnap writer s
  | .servoSourceWrite writer source => Sys2Proof.Machine.execServoSourceWrite writer source s
  | .forceStepTimeout => Sys2Proof.Machine.execForceStepTimeout s
  | .globalLogSnapshot => Sys2Proof.Machine.execGlobalLogSnapshot s
  | .globalKeyRoll => Sys2Proof.Machine.execGlobalKeyRoll s
  | .globalReset => Sys2Proof.Machine.execGlobalReset s
  | .globalProfile => Sys2Proof.Machine.execGlobalProfile s
  | .globalTableMark => Sys2Proof.Machine.execGlobalTableMark s
  | .canFrameReceive channel frame ticks => Sys2Proof.Machine.execCanFrameReceive channel frame ticks s
  | .ringNotice channel => Sys2Proof.Machine.execRingNotice channel s
  | .rxAckWrite channel writer value => Sys2Proof.Machine.execRxAckWrite channel writer value s
  | .txStart channel keeper ticket variant arg => Sys2Proof.Machine.execTxStart channel keeper ticket variant arg s
  | .canArbitration channel => Sys2Proof.Machine.execCanArbitration channel s
  | .canAttemptEnd channel result => Sys2Proof.Machine.execCanAttemptEnd channel result s
  | .txExpired channel => Sys2Proof.Machine.execTxExpired channel s
  | .recover channel keeper ticket => Sys2Proof.Machine.execRecover channel keeper ticket s
  | .recoveryDone channel => Sys2Proof.Machine.execRecoveryDone channel s
  | .recoveryTimeout channel => Sys2Proof.Machine.execRecoveryTimeout channel s
  | .abortPending channel keeper ticket => Sys2Proof.Machine.execAbortPending channel keeper ticket s
  | .tmReference channel idle => Sys2Proof.Machine.execTmReference channel idle s
  | .linHeader channel keeper ticket arg idle => Sys2Proof.Machine.execLinHeader channel keeper ticket arg idle s
  | .linFrameEnd channel result => Sys2Proof.Machine.execLinFrameEnd channel result s
  | .linResponseTimeout channel received => Sys2Proof.Machine.execLinResponseTimeout channel received s
  | .linBusShort short => Sys2Proof.Machine.execLinBusShort short s
  | .linWakeup channel keeper ticket idle => Sys2Proof.Machine.execLinWakeup channel keeper ticket idle s
  | .linWakeupDone channel => Sys2Proof.Machine.execLinWakeupDone channel s
  | .linHeaderReceive channel ident parityOk sync => Sys2Proof.Machine.execLinHeaderReceive channel ident parityOk sync s
  | .linWakeRx channel micros => Sys2Proof.Machine.execLinWakeRx channel micros s
  | .serSend channel keeper ticket arg => Sys2Proof.Machine.execSerSend channel keeper ticket arg s
  | .serAbort channel keeper ticket => Sys2Proof.Machine.execSerAbort channel keeper ticket s
  | .serSendStart channel => Sys2Proof.Machine.execSerSendStart channel s
  | .serSendEnd channel => Sys2Proof.Machine.execSerSendEnd channel s
  | .serBusyExpired channel => Sys2Proof.Machine.execSerBusyExpired channel s
  | .serCharReceive channel value parityBad framingBad heldTicks => Sys2Proof.Machine.execSerCharReceive channel value parityBad framingBad heldTicks s
  | .serPacketEnd channel => Sys2Proof.Machine.execSerPacketEnd channel s
  | .trxWatchdogServe channel => Sys2Proof.Machine.execTrxWatchdogServe channel s
  | .trxFallback channel => Sys2Proof.Machine.execTrxFallback channel s
  | .fallbackWake channel seen => Sys2Proof.Machine.execFallbackWake channel seen s
  | .drainEnd => Sys2Proof.Machine.execDrainEnd s
  | .commitPoint => Sys2Proof.Machine.execCommitPoint s
  | .sleepEntryComplete => Sys2Proof.Machine.execSleepEntryComplete s
  | .inputWake input level => Sys2Proof.Machine.execInputWake input level s
  | .wakePoll input millivolts => Sys2Proof.Machine.execWakePoll input millivolts s
  | .canWake channel seen => Sys2Proof.Machine.execCanWake channel seen s
  | .ethWake port => Sys2Proof.Machine.execEthWake port s
  | .wakeTimer => Sys2Proof.Machine.execWakeTimer s
  | .wakeStart => Sys2Proof.Machine.execWakeStart s
  | .awakeLimit => Sys2Proof.Machine.execAwakeLimit s
  | .keepAwake writer => Sys2Proof.Machine.execKeepAwake writer s
  | .falseWakeCheck => Sys2Proof.Machine.execFalseWakeCheck s
  | .dualpassLeg core mode native inverted checks => Sys2Proof.Machine.execDualpassLeg core mode native inverted checks s
  | .legRerun core mode native inverted checks => Sys2Proof.Machine.execLegRerun core mode native inverted checks s
  | .accessLeg core mode access addr inverted size flip nextPc => Sys2Proof.Machine.execAccessLeg core mode access addr inverted size flip nextPc s
  | .comparatorSelftest core ok => Sys2Proof.Machine.execComparatorSelftest core ok s
  | .debugAttach => Sys2Proof.Machine.execDebugAttach s
  | .zdpClrCounts core mode value => Sys2Proof.Machine.execZdpClrCounts core mode value s
  | .zdpInjectArm core mode value => Sys2Proof.Machine.execZdpInjectArm core mode value s
  | .xzmrWrite safety hart csr mode value => Sys2Proof.Machine.execXzmrWrite safety hart csr mode value s
  | .worldSwitch hart world => Sys2Proof.Machine.execWorldSwitch hart world s
  | .memoryAccess initiator kind addr size data => Sys2Proof.Machine.execMemoryAccess initiator kind addr size data s
  | .dmaTranslate master src addr write walkUe => Sys2Proof.Machine.execDmaTranslate master src addr write walkUe s
  | .tuFaultPop writer => Sys2Proof.Machine.execTuFaultPop writer s
  | .invalAll writer => Sys2Proof.Machine.execInvalAll writer s
  | .invalMooring writer target => Sys2Proof.Machine.execInvalMooring writer target s
  | .invalPage writer target => Sys2Proof.Machine.execInvalPage writer target s
  | .invalDone => Sys2Proof.Machine.execInvalDone s
  | .fwGrant src args => Sys2Proof.Machine.execFwGrant src args s
  | .fwRelease src args => Sys2Proof.Machine.execFwRelease src args s
  | .fwTableGrant src args => Sys2Proof.Machine.execFwTableGrant src args s
  | .grantQuiesceEnd => Sys2Proof.Machine.execGrantQuiesceEnd s
  | .grantTimeout => Sys2Proof.Machine.execGrantTimeout s
  | .queuePairEnable src pair value => Sys2Proof.Machine.execQueuePairEnable src pair value s
  | .swdtKick src => Sys2Proof.Machine.execSwdtKick src s
  | .secureReady src => Sys2Proof.Machine.execSecureReady src s
  | .swdtExpiry => Sys2Proof.Machine.execSwdtExpiry s
  | .secureReadyTimeout => Sys2Proof.Machine.execSecureReadyTimeout s
  | .gateRun world block => Sys2Proof.Machine.execGateRun world block s
  | .gateClockOff world block => Sys2Proof.Machine.execGateClockOff world block s
  | .gatePowerOff world block => Sys2Proof.Machine.execGatePowerOff world block s
  | .gateChangeDone block => Sys2Proof.Machine.execGateChangeDone block s
  | .holdSet world mask => Sys2Proof.Machine.execHoldSet world mask s
  | .holdClr world mask => Sys2Proof.Machine.execHoldClr world mask s
  | .hingeForward hinge inbound posted arrival => Sys2Proof.Machine.execHingeForward hinge inbound posted arrival s
  | .hingeCompletion hinge inbound tag late code data lines => Sys2Proof.Machine.execHingeCompletion hinge inbound tag late code data lines s
  | .cplTimeout hinge inbound tag => Sys2Proof.Machine.execCplTimeout hinge inbound tag s
  | .h0LinkDown => Sys2Proof.Machine.execH0LinkDown s
  | .h0LinkUp speed width => Sys2Proof.Machine.execH0LinkUp speed width s
  | .intxMessage => Sys2Proof.Machine.execIntxMessage s
  | .errPop writer hinge => Sys2Proof.Machine.execErrPop writer hinge s
  | .discPop writer hinge => Sys2Proof.Machine.execDiscPop writer hinge s
  | .prefetchAged hinge inbound line => Sys2Proof.Machine.execPrefetchAged hinge inbound line s
  | .copyStart src => Sys2Proof.Machine.execCopyStart src s
  | .copyEnd => Sys2Proof.Machine.execCopyEnd s
  | .logFrameIntake => Sys2Proof.Machine.execLogFrameIntake s
  | .postCommit stream src length => Sys2Proof.Machine.execPostCommit stream src length s
  | .postTaken stream => Sys2Proof.Machine.execPostTaken stream s
  | .moduleRecord => Sys2Proof.Machine.execModuleRecord s
  | .recordHash stream => Sys2Proof.Machine.execRecordHash stream s
  | .segmentTimeClose stream => Sys2Proof.Machine.execSegmentTimeClose stream s
  | .nvmeSubmit => Sys2Proof.Machine.execNvmeSubmit s
  | .nvmeCompletion id status => Sys2Proof.Machine.execNvmeCompletion id status s
  | .storeResume writer => Sys2Proof.Machine.execStoreResume writer s
  | .freezeRelease writer mask => Sys2Proof.Machine.execFreezeRelease writer mask s
  | .gcmEncrypt win src flags => Sys2Proof.Machine.execGcmEncrypt win src flags s
  | .gcmDecrypt win src flags => Sys2Proof.Machine.execGcmDecrypt win src flags s
  | .macGen win src flags => Sys2Proof.Machine.execMacGen win src flags s
  | .macVerify win src flags => Sys2Proof.Machine.execMacVerify win src flags s
  | .sign win src flags => Sys2Proof.Machine.execSign win src flags s
  | .verify win src flags => Sys2Proof.Machine.execVerify win src flags s
  | .hash win src flags => Sys2Proof.Machine.execHash win src flags s
  | .keyWrite win src flags => Sys2Proof.Machine.execKeyWrite win src flags s
  | .derive win src flags => Sys2Proof.Machine.execDerive win src flags s
  | .keyClear win src flags => Sys2Proof.Machine.execKeyClear win src flags s
  | .wrap win src flags => Sys2Proof.Machine.execWrap win src flags s
  | .unwrap win src flags => Sys2Proof.Machine.execUnwrap win src flags s
  | .attest win src flags => Sys2Proof.Machine.execAttest win src flags s
  | .jobBegin => Sys2Proof.Machine.execJobBegin s
  | .jobComplete => Sys2Proof.Machine.execJobComplete s
  | .keyringRecordWrite => Sys2Proof.Machine.execKeyringRecordWrite s
  | .lcToFactory writer testPort => Sys2Proof.Machine.execLcToFactory writer testPort s
  | .lcToField writer testPort => Sys2Proof.Machine.execLcToField writer testPort s
  | .lcToReturn writer testPort => Sys2Proof.Machine.execLcToReturn writer testPort s
  | .lcToScrap writer testPort => Sys2Proof.Machine.execLcToScrap writer testPort s
  | .lcAdvanceDone verified => Sys2Proof.Machine.execLcAdvanceDone verified s
  | .debugOpenApp writer => Sys2Proof.Machine.execDebugOpenApp writer s
  | .debugOpenSafety writer => Sys2Proof.Machine.execDebugOpenSafety writer s
  | .faultReport toA toB => Sys2Proof.Machine.execFaultReport toA toB s
  | .laneCompare => Sys2Proof.Machine.execLaneCompare s
  | .demandRelease writer => Sys2Proof.Machine.execDemandRelease writer s
  | .safetyReset => Sys2Proof.Machine.execSafetyReset s
  | .monitorFence keeper => Sys2Proof.Machine.execMonitorFence keeper s
  | .alarmPeriod lane => Sys2Proof.Machine.execAlarmPeriod lane s
  | .alarmTest writer lane => Sys2Proof.Machine.execAlarmTest writer lane s
  | .alarmTestEnd lane => Sys2Proof.Machine.execAlarmTestEnd lane s
  | .alarmReadbackCheck lane pinHigh => Sys2Proof.Machine.execAlarmReadbackCheck lane pinHigh s
  | .safeLogPop writer => Sys2Proof.Machine.execSafeLogPop writer s
  | .scrubRead target ecc progress => Sys2Proof.Machine.execScrubRead target ecc progress s
  | .windowConfirm block => Sys2Proof.Machine.execWindowConfirm block s
  | .windowTimeout domain => Sys2Proof.Machine.execWindowTimeout domain s
  | .bistWindowAbort block => Sys2Proof.Machine.execBistWindowAbort block s
  | .bistDone results => Sys2Proof.Machine.execBistDone results s
  | .bootRomDone record image => Sys2Proof.Machine.execBootRomDone record image s
  | .lsVerdict => Sys2Proof.Machine.execLsVerdict s
  | .bootImagesVerified header secure safety => Sys2Proof.Machine.execBootImagesVerified header secure safety s
  | .serviceTableVerdict image => Sys2Proof.Machine.execServiceTableVerdict image s
  | .safetyReady writer => Sys2Proof.Machine.execSafetyReady writer s
  | .startComplete => Sys2Proof.Machine.execStartComplete s
  | .startDeadline => Sys2Proof.Machine.execStartDeadline s
  | .startReport => Sys2Proof.Machine.execStartReport s
  | .lsRaiseFloor writer => Sys2Proof.Machine.execLsRaiseFloor writer s
  | .lifeTimeSave => Sys2Proof.Machine.execLifeTimeSave s
  | .logicBistStart writer block failure => Sys2Proof.Machine.execLogicBistStart writer block failure s
  | .memoryBistStart writer block runs => Sys2Proof.Machine.execMemoryBistStart writer block runs s
  | .repairProg writer good => Sys2Proof.Machine.execRepairProg writer good s
  | .malformedCommand fault => Sys2Proof.Machine.execMalformedCommand fault s
  | .generatorEdge gen => Sys2Proof.Machine.execGeneratorEdge gen s
  | .frameTransmitEnd port => Sys2Proof.Machine.execFrameTransmitEnd port s
  | .canReceiveError channel flag => Sys2Proof.Machine.execCanReceiveError channel flag s
  | .sqiLow port sqi => Sys2Proof.Machine.execSqiLow port sqi s

end Sys2Proof.Machine
end

