-- ==== Sys2Proof/Machine/Tick.lean ====
section
/-! DEFINITION. One tick of the 250 MHz time base, which an empty queue lets pass (log entry 4): network time (R376), the always-on
counter (R378), the end of an always-on cycle in which a source woke (R458), the cranking-hold accumulator (R66), the registers that count time, the interlock of the half-bridge legs (R247), and the updates of
calibration (R302). -/

namespace Sys2Proof.Machine

open Reg

namespace Zone

/-- Network time and its copy advance while the time base runs (R376, R379), with the clock of residence times (R355). -/
def tickNet (s : Zone) : Zone :=
  if s.inMode [.start, .service, .lightship, .test] && !s.time.stopped then
    { s with time := { s.time with net := s.time.net.tick s.inc, copy := s.time.copy.tick s.inc, residence := s.time.residence + 1 } }
  else s

/-- FORCE_TIME_STEP of MODE 1 steps at this tick, and is answered (R391); in LOCAL it makes the base state HOLDOVER (R385). -/
def tickStep (s : Zone) : Zone :=
  match s.time.pendingStep with
  | none => s
  | some (seq, o) =>
    let s := { s with time := { s.time with pendingStep := none } }
    let s := (s.timeStep o).clearRefusal
    let s :=
      if s.source = 2 then { s with time := { s.time with base := TS.holdover } }
      else if s.tstate = TS.holdover then s
      else if s.tstate = TS.locked then s.enterHoldover
      else s.beginHoldover
    s.answer 0x000C seq 0 (leBytes 4 0 ++ leBytes 8 (ofSigned 64 o))

/-- The always-on counter of 32,768 Hz counts in every state but OFF (R378). -/
def tickAon (s : Zone) : Zone :=
  let a := s.time.aonAcc + 32768
  if 250000000 ≤ a then { s with time := { s.time with aon := s.time.aon + 1, aonAcc := a - 250000000 } }
  else { s with time := { s.time with aonAcc := a } }

/-- LIFE_TIME counts the seconds outside OFF (R662), on which the failed-start count rests (R664). -/
def tickLife (s : Zone) : Zone :=
  let n := s.start.lifeTicks + 1
  if 250000000 ≤ n then
    let s := s.setStart fun x => { x with lifeTicks := 0 }
    (s.wr (pZONE 6 + ZONE6.LIFE_TIME_SECONDS.off) (s.lifeTime + 1)).showFailed
  else s.setStart fun x => { x with lifeTicks := n }

/-- The accumulator counts in cranking hold, and CRANK.ACC shows it in ms (R66). -/
def tickCrank (s : Zone) : Zone :=
  if s.supply.low then
    let s := { s with supply := { s.supply with crankTicks := s.supply.crankTicks + 1 } }
    s.setFld (pZONE 3) ZONE3.CRANK_ACC (satU 16 (s.supply.crankTicks / ticksPerMs))
  else s

/-- HOLDOVER_MS counts the present holdover (R388). -/
def tickHoldover (s : Zone) : Zone :=
  match s.time.holdoverSince with
  | some t => s.setFld pTIME TIME0.HOLDOVER_MS_MS (satU 32 ((s.mono - t) / ticksPerMs))
  | none => s

/-- SLEEP_STATUS.AWAKE_LEFT shows the seconds until the awake limit (R466). -/
def tickAwake (s : Zone) : Zone :=
  s.setFld (pZONE 0) ZONE0.SLEEP_STATUS_AWAKE_LEFT
    (s.fld (pZONE 0) ZONE0.SLEEP_CFG_AWAKE_LIMIT * 60 - (s.mono - s.sleep.awakeFrom) / (1000 * ticksPerMs))

/-- One tick of 4 ns. -/
def tick (s : Zone) : Zone :=
  let s := { s with mono := s.mono + 1 }
  if s.mode = .off then s
  else
    let s := s.tickAon.tickLife
    if s.mode = .sleep then s else s.wakeCancels.tickNet.tickStep.tickCrank.tickHoldover.tickAwake.settleLegs.calUpdates

end Zone

end Sys2Proof.Machine
end

