-- ==== Sys2Proof/Safety.lean ====
section
/-! DEFINITION. The words in which claims speak of runs: a command that completes with an effect, what it leaves alone, and the form
that every state of a run keeps. -/

namespace Sys2Proof.Machine

/-- Command `c` completes at `s`: its outcome is a next state, in which the queue is as it was and the module satisfies `P`. -/
def Completes (c : Instr) (s : State) (P : Zone → Prop) : Prop := ∃ z : Zone, exec c s = .next { s with zone := z } ∧ P z

/-- The result of an operation that is no command of its own satisfies `P`. -/
abbrev Gives (z : Zone) (P : Zone → Prop) : Prop := P z

/-- The parts of the module beside its register words and its addressed memory: one name for each field of `Zone`. -/
inductive Part where
  | mono
  | freeNext
  | time
  | safety
  | records
  | supv
  | tickets
  | ticketSerial
  | keeperSlots
  | gens
  | loads
  | sagsA
  | sagsB
  | supply
  | inputs
  | cals
  | bal
  | tsq
  | switch
  | rings
  | cans
  | lins
  | sers
  | busMem
  | pauses
  | reqQs
  | evtQs
  | stages
  | keeperA
  | keeperB
  | watch
  | resp
  | imsic
  | localIrq
  | tu
  | grant
  | txBuffers
  | swdt
  | gateTo
  | hinges
  | cores
  | harts
  | log
  | keyring
  | fuses
  | start
  | sleep
  | dcqs
  | pace
deriving DecidableEq, Repr

/-- Part `p` of the module is in `t` as in `s`. -/
def Part.Same (p : Part) (s t : Zone) : Prop :=
  match p with
  | .mono => t.mono = s.mono
  | .freeNext => t.freeNext = s.freeNext
  | .time => t.time = s.time
  | .safety => t.safety = s.safety
  | .records => t.records = s.records
  | .supv => t.supv = s.supv
  | .tickets => t.tickets = s.tickets
  | .ticketSerial => t.ticketSerial = s.ticketSerial
  | .keeperSlots => t.keeperSlots = s.keeperSlots
  | .gens => t.gens = s.gens
  | .loads => t.loads = s.loads
  | .sagsA => t.sagsA = s.sagsA
  | .sagsB => t.sagsB = s.sagsB
  | .supply => t.supply = s.supply
  | .inputs => t.inputs = s.inputs
  | .cals => t.cals = s.cals
  | .bal => t.bal = s.bal
  | .tsq => t.tsq = s.tsq
  | .switch => t.switch = s.switch
  | .rings => t.rings = s.rings
  | .cans => t.cans = s.cans
  | .lins => t.lins = s.lins
  | .sers => t.sers = s.sers
  | .busMem => t.busMem = s.busMem
  | .pauses => t.pauses = s.pauses
  | .reqQs => t.reqQs = s.reqQs
  | .evtQs => t.evtQs = s.evtQs
  | .stages => t.stages = s.stages
  | .keeperA => t.keeperA = s.keeperA
  | .keeperB => t.keeperB = s.keeperB
  | .watch => t.watch = s.watch
  | .resp => t.resp = s.resp
  | .imsic => t.imsic = s.imsic
  | .localIrq => t.localIrq = s.localIrq
  | .tu => t.tu = s.tu
  | .grant => t.grant = s.grant
  | .txBuffers => t.txBuffers = s.txBuffers
  | .swdt => t.swdt = s.swdt
  | .gateTo => t.gateTo = s.gateTo
  | .hinges => t.hinges = s.hinges
  | .cores => t.cores = s.cores
  | .harts => t.harts = s.harts
  | .log => t.log = s.log
  | .keyring => t.keyring = s.keyring
  | .fuses => t.fuses = s.fuses
  | .start => t.start = s.start
  | .sleep => t.sleep = s.sleep
  | .dcqs => t.dcqs = s.dcqs
  | .pace => t.pace = s.pace

namespace Zone

/-- Registers and memory are held in their one canonical form. -/
def canonical (s : Zone) : Bool := SMap.wf resetWord s.regs && Memory.wf s.mem

/-- Every register word outside the given banks reads in `t` as in `s`. -/
def SameOutside (banks : List Nat) (s t : Zone) : Prop := ∀ k : Nat, ¬ keyBank k ∈ banks → t.rd k = s.rd k

/-- Addressed memory reads in `t` as in `s`, byte by byte. -/
def SameMemory (s t : Zone) : Prop := ∀ a : Nat, t.memByte a = s.memByte a

/-- Every part of the module but the given ones is in `t` as in `s`. -/
def SameParts (parts : List Part) (s t : Zone) : Prop := ∀ p : Part, p ∉ parts → p.Same s t

/-- The frame of an effect: only the given register words and the given parts may differ; no byte of memory does. -/
def Frame (words : List Nat) (parts : List Part) (s t : Zone) : Prop :=
  (∀ k : Nat, k ∉ words → t.rd k = s.rd k) ∧ SameMemory s t ∧ SameParts parts s t

/-- The frame of an effect on whole banks of registers. -/
def BankFrame (banks : List Nat) (parts : List Part) (s t : Zone) : Prop :=
  SameOutside banks s t ∧ SameMemory s t ∧ SameParts parts s t

/-! ### What lets a command act -/

/-- The writer acts: firmware once the clusters are released, a keeper while the module's logic runs (R39, R682). -/
def writerActs (z : Zone) (w : Writer) : Bool :=
  match w with
  | .firmware _ => z.start.released
  | .keeper _ => z.logicRuns

/-- A periodic event of the hardware is due: it has not come yet, or its period has passed since. -/
def paceDue (z : Zone) (key period : Nat) : Bool :=
  match SMap.get (fun _ => 0) z.pace key with
  | 0 => true
  | t + 1 => z.past t period

/-- A fault report has joined those on their way to the safety monitor, and nothing else of the monitor has changed (R623). -/
abbrev Reports (s z : Zone) (source : Nat) (detail : Word) : Prop :=
  z.safety = { s.safety with reports := s.safety.reports ++ [⟨source, detail, false, s.mono, s.ts64⟩] }

/-! ### Accesses to the register space (R14, R27, R501) -/

/-- The words of a page that a write stores, and does nothing else: all but those to which the chapter of their page gives an effect of
its own. -/
def plainWord (kind : PageKind) (k : Nat) : Bool :=
  let off := keyOff k
  !opRegister kind off && !ownerWord_ kind off &&
  match kind with
  | .zone0 => decide (off ≠ 0x048 ∧ (off < 0x080 ∨ 0x0C0 ≤ off))
  | .zone5 => !([0x040, 0x050, 0x054].contains off)
  | .zone6 => decide (off ≠ 0x020)
  | .keeper => decide (keyChan k ≠ 2 ∨ off < 0x080 ∨ 0x090 < off)
  | .input => decide (8 ≤ off)
  | .load => !([0x000, 0x020, 0x024, 0x028, 0x02C, 0x030].contains off)
  | .char => decide (0x018 ≤ off)
  | .cal | .tsq => decide (off ≠ 0x014)
  | .ring => !([0x000, 0x010, 0x014].contains off)
  | .sw0 => decide (off ≠ 0x004)
  | .swp => (fieldRanges .swp 0 off).isEmpty && decide (off ≠ 0x010 ∧ (off < 0x100 ∨ 0x180 ≤ off) ∧ off < 0x700)
  | .port => !([0x000, 0x014, 0x018].contains off)
  | .time0 => !([0x004, 0x008, 0x00C, 0x028, 0x048, 0x050].contains off)
  | .can => decide (0x010 ≤ off ∧ (off < 0x05C ∨ 0x068 < off) ∧ (off < 0x100 ∨ 0x160 ≤ off) ∧ (off < 0x200 ∨ 0x300 ≤ off))
  | .lin | .qpr => false
  | .ser => decide (8 ≤ off)
  | .tu => !([0x00C, 0x024, 0x054, 0x05C].contains off)
  | .regn => decide (off < 0x100)
  | .grant => decide (off ≠ 0x010)
  | .hinge0 | .hinge1 | .hinge2 => !([0x008, 0x018, 0x028, 0x074, 0x080].contains off) && decide (off < 0x900)
  | .log0 => !([0x010, 0x020, 0x028, 0x050, 0x054].contains off)
  | .stream => decide (off ≠ 0 ∧ off ≠ 0x010 ∧ off < 0x800)
  | .test1 | .alarm => decide (off ≠ 0x008)
  | .test2 => decide (off ≠ 0x00C)
  | .safe0 => !([0x008, 0x010, 0x014, 0x018, 0x02C].contains off) && decide (off < 0x100 ∨ 0x200 ≤ off)
  | _ => true

/-- The words of a page that a read answers as they are stored: all but those that show what runs at the moment of the read. -/
def storedWord (kind : PageKind) (k : Nat) : Bool :=
  let off := keyOff k
  (!opRegister kind off || kind == .ser) &&
  match kind with
  | .can => decide (off < 0x100 ∨ 0x160 ≤ off)
  | .swp => !isCounter (keyChan k - 1) off && !([0x010, 0x01C, 0x064].contains off) && decide (off < 0x100 ∨ 0x180 ≤ off)
  | .port => off != Reg.PORT.PHY_STATUS_PLCA_BEACON.off
  | .hinge2 => decide (off < 0x100 ∨ 0x500 ≤ off)
  | .char => off != Reg.CHAR.GEN_STATUS_LEVEL.off
  | .lin => off != 0x004
  | .ser => off != 0x008
  | .log0 => !([0x004, 0x014, 0x018].contains off)
  | .safe0 => !([0x000, 0x004].contains off)
  | .test1 => decide (off ≠ 0 ∧ off < 0x100)
  | .test2 => decide (0x008 < off)
  | _ => true

/-- Firmware's access to `n` bytes at offset `k` of the register space is granted at word `k`, and no line that H1 has prefetched lies
there (R501, R517, R555). -/
abbrev Grants (z : Zone) (src : Source) (k n : Nat) (write : Bool) (v : Word) : Prop :=
  alignedAccess k n = true ∧ z.lineWritten 1 (0x1F0000000 + k) n = z ∧ z.wordCheck src k write v = (Err.none, z)

/-- A command of keeper w reaches a page that a claim-checking stage guards, or one without a stage whose configuration follows the watch;
the page is one that takes commands of keepers (R115, R166, R208). -/
abbrev Reaches (z : Zone) (w : Keeper) (k : Nat) : Prop :=
  keeperPage k = true ∧ (z.deliver w k).1 = Delivery.delivered ∧ (keyBank k = 6 ∧ keyChan k = 0 → z.mode ≠ Mode.lightship)

/-- What a write leaves in a word, bit by bit, where no range and no counter of access RC speaks: the bits that the writer configures take
the value (of access RWL only while the page is not locked), event bits clear and W1S bits set where the value is 1, every other
bit keeps its value (R14, R15). -/
abbrev Takes (d : WordD) (r : Reach) (locked : Bool) (old v new : Word) : Prop :=
  ∀ i : Fin 32, new.getLsbD i.val =
    ((((if (d.plain r locked).getLsbD i.val then v else old).getLsbD i.val &&
      !(r.events && d.w1c.testBit i.val && v.getLsbD i.val)) ||
      (r.cfg && d.w1s.testBit i.val && !d.wo.testBit i.val && v.getLsbD i.val)))

/-! ### Supervisor commands (R46, R50) -/

/-- A supervisor command passes checks 1 to 8 of R46 while no sleep is under way: the management queue runs, the envelope fits and is
for this node, its SEQ is new, the module is bound, module state, life cycle and the commands that execute permit it, and its MAC
verifies. -/
def Accepts (z : Zone) (code : Nat) (e : Envelope) : Prop :=
  (z.mgmtRuns = true ∧ e.args.length ≤ 1024 ∧ e.node.toNat = z.node ∧ (z.supv.seqHigh.getD 0).toNat < e.seq.toNat ∧
    z.flag (pZONE 0) Reg.ZONE0.SUPV_BOUND = true ∧ legalIn code z.mode = true ∧
    z.flag (pZONE 0) Reg.ZONE0.STATE_SLEEP_PENDING = false ∧ z.sleep.phase = 0 ∧ z.lifeCyclePermits code = true ∧
    z.conflicts code = false) ∧ z.macOk code e = true

/-- The command code, SEQ, status and result of the last response or notice that was sent. -/
def lastAnswer (z : Zone) : Option (Nat × BitVec 32 × Nat × List Byte) :=
  z.supv.replies.getLast?.map fun r => (r.code, r.seq, r.status, r.result)

/-- Among the responses sent since `s` is one for command `code` of sequence number `seq`, with this status and result. -/
def answered (s z : Zone) (code : Nat) (seq : BitVec 32) (status : Nat) (result : List Byte) : Bool :=
  (z.supv.replies.drop s.supv.replies.length).any fun r => r.code == code && r.seq == seq && r.status == status && r.result == result

/-- How many keyring slots of a key set have a next key (R605), or how many have none. -/
def slotsOfSet (z : Zone) (set : Nat) (next : Bool) : Nat :=
  ((List.range 256).filter fun n => attrSet (z.keySlot n).attr == set && (z.keySlot n).next.isSome == next).length

/-! ### Starts (R655, R664) -/

/-- A start fails with a counted reason: LAST_REASON shows it, and the module enters START again, or LIGHTSHIP where the failed-start
count has reached its limit. -/
def FailsStart (s z : Zone) (reason : Nat) (detail : Word) : Prop :=
  z.fld (pZONE 6) Reg.ZONE6.LAST_REASON_CODE = reason ∧ z.fld (pZONE 6) Reg.ZONE6.LAST_REASON_DETAIL = detail.toNat % 2 ^ 24 ∧
  z.SameMemory s ∧
  if s.fld (pZONE 6) Reg.ZONE6.START_CFG_LIMIT ≤ (s.addStartRecord reason detail true).failedCount then
    z.mode = .lightship ∧ z.fld (pZONE 0) Reg.ZONE0.STATE_ENTRY_CAUSE = 5 ∧ z.start.released = false
  else z.mode = .start ∧ z.fld (pZONE 0) Reg.ZONE0.STATE_ENTRY_CAUSE = 4 ∧ z.start.entered = s.mono ∧ z.phase = 0

/-- What BIST finds in a block of START: none where it passes, otherwise the memory instance that fails, none where it is the logic. -/
def bistVerdict (z : Zone) (results : List BlockBist) (b : Nat) : Option (Option Nat) :=
  match z.startBist b ((results.find? fun r => r.block.val == b).getD ⟨Fin.ofNat 20 b, none, []⟩) with
  | (true, _, _) => some none
  | (false, some i, _) => some (some i)
  | (false, none, _) => none

/-! ### Tamva (R104, R116, R133) -/

/-- Keeper k executes a step and passes over nothing. -/
abbrev InStep (s : Zone) (k : Keeper) : Prop := s.executes k = true ∧ (s.keeper k).inStep = true ∧ (s.keeper k).skip = 0

/-- The frame of an instruction that works on registers and flags alone, and its effect: working register wd takes v unless it is W0,
the flags take fl, the step is `cycles` further and one instruction on, and nothing else changes in the module. -/
def Computes (s z : Zone) (k : Keeper) (cycles : Nat) (wd : Fin 16) (v : Word) (fl : TFlags) : Prop :=
  (∀ n : Fin 16, z.getW k n = if n = wd ∧ n ≠ 0 then v else s.getW k n) ∧
  ∃ w : SMap Word, z = s.setKeeper k { s.keeper k with
    w := w, z := fl.z, n := fl.n, c := fl.c, v := fl.v, cycles := (s.keeper k).cycles + cycles, index := (s.keeper k).index + 1 }

end Zone

/-- The keeper of a Tamva instruction, none for the other commands. -/
def tamvaKeeper (c : Instr) : Option Keeper :=
  match c with
  | .opAdd k _ _ _ _ => some k
  | .opSub k _ _ _ _ => some k
  | .opAnd k _ _ _ _ => some k
  | .opOr k _ _ _ _ => some k
  | .opXor k _ _ _ _ => some k
  | .opShl k _ _ _ _ => some k
  | .opShr k _ _ _ _ => some k
  | .opSra k _ _ _ _ => some k
  | .opMul k _ _ _ _ _ => some k
  | .opMulh k _ _ _ _ _ => some k
  | .opMin k _ _ _ _ _ => some k
  | .opMax k _ _ _ _ _ => some k
  | .opSat k _ _ _ _ _ => some k
  | .opAddi k _ _ _ _ => some k
  | .opAndi k _ _ _ _ => some k
  | .opOri k _ _ _ _ => some k
  | .opXori k _ _ _ _ => some k
  | .opLui k _ _ => some k
  | .opCmpi k _ _ => some k
  | .opCmp k _ _ => some k
  | .opTst k _ _ => some k
  | .opSkip k _ _ => some k
  | .opLdc k _ _ => some k
  | .opStc k _ _ => some k
  | .opLdcx k _ _ _ => some k
  | .opStcx k _ _ _ => some k
  | .opMirr k _ => some k
  | .opCrd k _ _ _ => some k
  | .opCwr k _ _ _ => some k
  | .opCwrSet k _ _ _ => some k
  | .opCwrClr k _ _ _ => some k
  | .opCwrTgl k _ _ _ => some k
  | .opCop k _ _ _ _ => some k
  | .opChkt k _ => some k
  | .opTkr k _ _ => some k
  | .opCrdx k _ _ _ _ => some k
  | .opCwrx k _ _ _ => some k
  | .opQpop k _ _ => some k
  | .opQpush k _ _ => some k
  | .opQlen k _ _ _ => some k
  | .opTnow k _ => some k
  | .opTsec k _ => some k
  | .opTslot k _ => some k
  | .opEvt k _ _ => some k
  | .opFlt k _ _ => some k
  | .opNop k => some k
  | .opEnd k => some k
  | _ => none

/-- The code and the envelope of a supervisor command (R50). -/
def supervisorCommand (c : Instr) : Option (Nat × Envelope) :=
  match c with
  | .getStatus e => some (Code.getStatus, e)
  | .reset e => some (Code.reset, e)
  | .bindSupervisor e => some (Code.bind, e)
  | .setProfile e => some (Code.profile, e)
  | .loadTable e _ => some (Code.load, e)
  | .commitTable e => some (Code.commit, e)
  | .rollbackTable e => some (Code.rollback, e)
  | .watchChange e => some (Code.watch, e)
  | .sleepRequest e => some (Code.sleep, e)
  | .scheduleGlobal e => some (Code.schedule, e)
  | .cancelGlobal e => some (Code.cancel, e)
  | .forceTimeStep e => some (Code.force, e)
  | .grantResource e => some (Code.grant, e)
  | .keyRoll e => some (Code.roll, e)
  | .logFreeze e => some (Code.freeze, e)
  | .readStartReasons e => some (Code.reasons, e)
  | .clearStartCount e => some (Code.clear, e)
  | .exitLightship e => some (Code.exitLightship, e)
  | .enterTest e => some (Code.enterTest, e)
  | .exitTest e => some (Code.exitTest, e)
  | _ => none

end Sys2Proof.Machine
end

