-- ==== Sys2Proof/Certificates/Slice0/Obligations.lean ====
section
/-! DEFINITION. What is claimed of the model: one proposition for each statement of OBLIGATIONS.json. `Completes c s P` says that
command c answers a next state at s that satisfies P; `Frame` and `BankFrame` say what an effect leaves alone, word by word and part
by part. -/

open Sys2Proof Sys2Proof.Machine Reg

/-! ### Supply, inputs and temperatures -/

/-- R61, R64, R65, R66, R68, R69, R70, R72, R265: while the logic runs, cranking hold and ground loss show in SUPPLY_STATUS,
SUPPLY_EVENT and CRANK_COUNT with a report and end at their exits; 10 ms above exit clear the accumulator; the 1 s feed averages
raise the overload events; a surge, more than 400 ms of it, its end, loss, reverse polarity and return of a feed, each crossing of
a threshold's switching point, show the feed's voltage and its BAND 1, 2, 0, 4, 3 and 0, with the event, and a surge ends cranking
hold; while the logic rests the feed and the supply are in their band and no register tells of it; an output keeps nothing but
what the new band lets it. -/
def Obligations.SupplyEventsShowAndSetTheBands : Prop :=
  (∀ (s : State), s.zone.logicRuns = true → s.zone.supply.low = false → s.zone.inSurge .A = false → s.zone.inSurge .B = false →
    Completes (.crankHoldEntry) s fun z =>
      z.flag (pZONE 3) ZONE3.SUPPLY_STATUS_CRANK_HOLD = true ∧ z.flag (pZONE 3) ZONE3.SUPPLY_EVENT_CRANK = true ∧
      z.fld (pZONE 3) ZONE3.CRANK_COUNT = min (s.zone.fld (pZONE 3) ZONE3.CRANK_COUNT + 1) 0xFFFF ∧
      z.supply = { s.zone.supply with low := true, aboveSince := none } ∧ s.zone.Reports z Src.supply (z.rd (pZONE 3 + 0x00C)) ∧
      s.zone.Frame [pZONE 3 + ZONE3.SUPPLY_STATUS_CRANK_HOLD.off, pZONE 3 + ZONE3.SUPPLY_EVENT_CRANK.off, pZONE 3 + ZONE3.CRANK_COUNT.off] [.supply, .safety, .start] z) ∧
  (∀ (s : State), s.zone.logicRuns = false → s.zone.supply.low = false → s.zone.inSurge .A = false → s.zone.inSurge .B = false →
    Completes (.crankHoldEntry) s fun z =>
      z.supply = { s.zone.supply with low := true, aboveSince := none } ∧ s.zone.Frame [] [.supply, .start] z) ∧
  (∀ (s : State), s.zone.supply.low = true → Completes (.crankHoldExit) s fun z =>
      z.flag (pZONE 3) ZONE3.SUPPLY_STATUS_CRANK_HOLD = false ∧
      z.supply = { s.zone.supply with low := false, aboveSince := some s.zone.mono } ∧
      s.zone.Frame [pZONE 3 + ZONE3.SUPPLY_STATUS_CRANK_HOLD.off] [.supply, .start] z) ∧
  (∀ (s : State) (t : Nat), s.zone.supply.aboveSince = some t → t + 10 * 250000 ≤ s.zone.mono →
    Completes (.crankAccClear) s fun z =>
      z.fld (pZONE 3) ZONE3.CRANK_ACC = 0 ∧ z.supply = { s.zone.supply with crankTicks := 0, aboveSince := none } ∧
      s.zone.Frame [pZONE 3 + ZONE3.CRANK_ACC.off] [.supply] z) ∧
  (∀ (s : State) (r : GndReading), s.zone.logicRuns = true → r.feed = Feed.A → 10000 < r.total → r.path * 50 < r.total →
    s.zone.flag (pZONE 3) ZONE3.SUPPLY_STATUS_GND_A_LOST = false → Completes (.gndLost r) s fun z =>
      z.flag (pZONE 3) ZONE3.SUPPLY_STATUS_GND_A_LOST = true ∧ z.flag (pZONE 3) ZONE3.SUPPLY_EVENT_GND_A_LOST = true ∧
      s.zone.Reports z Src.supply (z.rd (pZONE 3 + 0x00C)) ∧
      s.zone.Frame [pZONE 3 + ZONE3.SUPPLY_STATUS_GND_A_LOST.off, pZONE 3 + ZONE3.SUPPLY_EVENT_GND_A_LOST.off] [.safety] z) ∧
  (∀ (s : State) (r : GndReading), s.zone.logicRuns = true → r.feed = Feed.B → 10000 < r.total → r.path * 50 < r.total →
    s.zone.flag (pZONE 3) ZONE3.SUPPLY_STATUS_GND_B_LOST = false → Completes (.gndLost r) s fun z =>
      z.flag (pZONE 3) ZONE3.SUPPLY_STATUS_GND_B_LOST = true ∧ z.flag (pZONE 3) ZONE3.SUPPLY_EVENT_GND_B_LOST = true ∧
      s.zone.Reports z Src.supply (z.rd (pZONE 3 + 0x00C)) ∧
      s.zone.Frame [pZONE 3 + ZONE3.SUPPLY_STATUS_GND_B_LOST.off, pZONE 3 + ZONE3.SUPPLY_EVENT_GND_B_LOST.off] [.safety] z) ∧
  (∀ (s : State) (r : GndReading), s.zone.logicRuns = true → 10000 < r.total → r.total < r.path * 5 →
    Completes (.gndRestored r) s fun z =>
      z.flag (pZONE 3) (match r.feed with | .A => ZONE3.SUPPLY_STATUS_GND_A_LOST | .B => ZONE3.SUPPLY_STATUS_GND_B_LOST) = false ∧
      z.flag (pZONE 3) (match r.feed with | .A => ZONE3.SUPPLY_STATUS_GND_B_LOST | .B => ZONE3.SUPPLY_STATUS_GND_A_LOST) = s.zone.flag (pZONE 3) (match r.feed with | .A => ZONE3.SUPPLY_STATUS_GND_B_LOST | .B => ZONE3.SUPPLY_STATUS_GND_A_LOST) ∧
      s.zone.Frame [pZONE 3 + ZONE3.SUPPLY_STATUS_GND_A_LOST.off] [] z) ∧
  (∀ (s : State) (r : GndReading), r.total ≤ 10000 → Completes (.gndLost r) s fun z =>
      s.zone.Frame [] [] z) ∧
  (∀ (s : State) (r : GndReading), r.total ≤ 10000 → Completes (.gndRestored r) s fun z =>
      s.zone.Frame [] [] z) ∧
  (∀ (s : State) (a b : BitVec 16), s.zone.logicRuns = true → Completes (.feedOverload a b) s fun z =>
      z.fld pSHUNT SHUNT.FEED_AVG_A = a.toNat ∧ z.fld pSHUNT SHUNT.FEED_AVG_B = b.toNat ∧
      z.flag (pZONE 3) ZONE3.SUPPLY_EVENT_FEED_OVER_A = (s.zone.flag (pZONE 3) ZONE3.SUPPLY_EVENT_FEED_OVER_A || decide (8000 < a.toNat)) ∧
      z.flag (pZONE 3) ZONE3.SUPPLY_EVENT_FEED_OVER_B = (s.zone.flag (pZONE 3) ZONE3.SUPPLY_EVENT_FEED_OVER_B || decide (8000 < b.toNat)) ∧
      z.flag (pZONE 3) ZONE3.SUPPLY_EVENT_TOTAL_OVER = (s.zone.flag (pZONE 3) ZONE3.SUPPLY_EVENT_TOTAL_OVER || decide (15000 < a.toNat + b.toNat)) ∧
      s.zone.Frame [pSHUNT + SHUNT.FEED_AVG_A.off, pSHUNT + SHUNT.FEED_AVG_B.off, pZONE 3 + ZONE3.SUPPLY_EVENT_TOTAL_OVER.off] [] z) ∧
  (∀ (s : State) (f : Feed) (v : BitVec 16), s.zone.logicRuns = true → s.zone.inSurge f = false →
    Threshold.surgeEntry.above v = true → Completes (.surgeEntry f v) s fun z =>
      z.band f = 1 ∧ z.feed f = ⟨1, some s.zone.mono, some v⟩ ∧
      z.fld (pZONE 3) (match f with | .A => ZONE3.FEED_V_BAT_A | .B => ZONE3.FEED_V_BAT_B) = v.toNat ∧
      (s.zone.band f ≠ 1 → z.flag (pZONE 3) (match f with | .A => ZONE3.SUPPLY_EVENT_SURGE_A | .B => ZONE3.SUPPLY_EVENT_SURGE_B) = true) ∧
      z.supply.low = false ∧ s.zone.BankFrame [0, 1] [.supply, .start, .bal, .loads, .safety] z) ∧
  (∀ (s : State) (f : Feed) (t : Nat), s.zone.logicRuns = true → s.zone.feed f = ⟨1, some t, (s.zone.feed f).volts⟩ →
    t + 400 * 250000 < s.zone.mono → Completes (.surgeLong f) s fun z =>
      z.band f = 2 ∧ z.feed f = ⟨2, some t, (s.zone.feed f).volts⟩ ∧
      (s.zone.band f ≠ 2 → z.flag (pZONE 3) (match f with | .A => ZONE3.SUPPLY_EVENT_SURGE_LONG_A | .B => ZONE3.SUPPLY_EVENT_SURGE_LONG_B) = true) ∧
      s.zone.BankFrame [0, 1] [.supply, .bal, .loads, .safety] z) ∧
  (∀ (s : State) (f : Feed) (v : BitVec 16), s.zone.logicRuns = true → s.zone.inSurge f = true →
    Threshold.surgeExit.below v = true → Completes (.surgeExit f v) s fun z =>
      z.band f = 0 ∧ z.feed f = ⟨0, none, some v⟩ ∧
      (s.zone.band f = 1 ∨ s.zone.band f = 2 → z.flag (pZONE 3) (match f with | .A => ZONE3.SUPPLY_EVENT_SURGE_END_A | .B => ZONE3.SUPPLY_EVENT_SURGE_END_B) = true) ∧
      s.zone.BankFrame [0, 1] [.supply, .start, .bal, .loads] z) ∧
  (∀ (s : State) (f : Feed) (v : BitVec 16), s.zone.logicRuns = true → s.zone.feedBand f ≠ 4 →
    Threshold.feedLost.below v = true → Threshold.reverse.below v = false → Completes (.feedLost f v) s fun z =>
      z.band f = 4 ∧ z.feed f = ⟨4, none, some v⟩ ∧
      (s.zone.band f ≠ 4 → z.flag (pZONE 3) (match f with | .A => ZONE3.SUPPLY_EVENT_FEED_A_LOST | .B => ZONE3.SUPPLY_EVENT_FEED_B_LOST) = true) ∧
      s.zone.BankFrame [0, 1] [.supply, .start, .bal, .loads, .safety] z) ∧
  (∀ (s : State) (f : Feed) (v : BitVec 16), s.zone.logicRuns = true → s.zone.feedBand f ≠ 3 → Threshold.reverse.below v = true →
    Completes (.reverseEntry f v) s fun z =>
      z.band f = 3 ∧ z.feed f = ⟨3, none, some v⟩ ∧
      (s.zone.band f ≠ 3 → z.flag (pZONE 3) (match f with | .A => ZONE3.SUPPLY_EVENT_REVERSE_A | .B => ZONE3.SUPPLY_EVENT_REVERSE_B) = true) ∧
      s.zone.BankFrame [0, 1] [.supply, .start, .bal, .loads, .safety] z) ∧
  (∀ (s : State) (f : Feed) (v : BitVec 16), s.zone.logicRuns = true → (s.zone.feedBand f = 3 ∨ s.zone.feedBand f = 4) →
    Threshold.feedLost.below v = false → Completes (.feedReturn f v) s fun z =>
      z.band f = 0 ∧ z.feed f = ⟨0, none, some v⟩ ∧ s.zone.BankFrame [0, 1] [.supply, .start, .bal, .loads] z) ∧
  (∀ (s : State) (f : Feed) (v : BitVec 16), s.zone.logicRuns = false → s.zone.inSurge f = false →
    Threshold.surgeEntry.above v = true → Completes (.surgeEntry f v) s fun z =>
      z.feed f = ⟨1, some s.zone.mono, some v⟩ ∧ z.supply.low = false ∧
      s.zone.Frame [pZONE 3 + ZONE3.SUPPLY_STATUS_CRANK_HOLD.off] [.supply, .start] z) ∧
  (∀ (s : State) (f : Feed) (v : BitVec 16), s.zone.logicRuns = false → s.zone.feedBand f ≠ 3 →
    Threshold.reverse.below v = true → Completes (.reverseEntry f v) s fun z =>
      z.feed f = ⟨3, none, some v⟩ ∧
      (∀ n : Fin 48, loadFeed n.val = f → z.outputs n.val = (decide (loadClass n.val = .h20 ∨ loadClass n.val = .h8), false)) ∧
      s.zone.Frame [] [.supply, .start] z)

/-- R83, R84, R85, R86, R87, R88, R95, R96: a sample shows the mean of the last ten samples in VOLT_MV and moves the candidate at
the thresholds; the level follows the candidate at once with FILTER 0, otherwise once it has held for FILTER × 100 µs, with its
event and count; capture measures period and high time between rising crossings and clears after 10 s; a legal configuration write
of secure-world firmware or of the keeper that holds the watch is taken, an illegal one is counted and changes nothing; a thermal
sample shows the five temperatures; at WARN the event sets, from 125 °C of the SoC the module is throttled, from 135 °C the
application cluster is halted, below 115 °C both end; nothing else changes. The mean before the tenth sample, and its truncation,
are the model's choice (log entry 91). -/
def Obligations.InputsAndTemperaturesAreFollowed : Prop :=
  (∀ (s : State) (k : Fin 32) (mv : Nat), s.zone.convertersRun = true → s.zone.paceDue (Pace.input k.val) 2500 = true →
    Completes (.inputSample k mv) s fun z =>
      (z.input k.val).samples = (mv :: (s.zone.input k.val).samples).take 10 ∧
      z.fld (pINPUT k.val) INPUT.VOLT_MV = min ((z.input k.val).samples.sum / (z.input k.val).samples.length) 65535 ∧
      (s.zone.fld (pINPUT k.val) INPUT.IN_THRESH_RISE * 10 < mv → (z.input k.val).candidate = true) ∧
      (mv < s.zone.fld (pINPUT k.val) INPUT.IN_THRESH_FALL * 10 → mv ≤ s.zone.fld (pINPUT k.val) INPUT.IN_THRESH_RISE * 10 → (z.input k.val).candidate = false) ∧
      (s.zone.fld (pINPUT k.val) INPUT.IN_THRESH_FALL * 10 ≤ mv → mv ≤ s.zone.fld (pINPUT k.val) INPUT.IN_THRESH_RISE * 10 → (z.input k.val).candidate = (s.zone.input k.val).candidate ∧ (z.input k.val).since = (s.zone.input k.val).since) ∧
      (z.flag (pINPUT k.val) INPUT.STATE_LEVEL = if s.zone.fld (pINPUT k.val) INPUT.IN_CFG_FILTER = 0 then (z.input k.val).candidate else s.zone.flag (pINPUT k.val) INPUT.STATE_LEVEL) ∧
      z.flag (pINPUT k.val) INPUT.STATE_ACTIVE = (z.flag (pINPUT k.val) INPUT.STATE_LEVEL != decide (s.zone.fld (pINPUT k.val) INPUT.IN_CFG_MODE = 1)) ∧
      s.zone.Frame [pINPUT k.val + INPUT.VOLT_MV.off, pINPUT k.val + INPUT.STATE_LEVEL.off, pINPUT k.val + INPUT.IN_EVENT_RISE.off, pINPUT k.val + INPUT.IN_COUNTS_EDGES.off] [.inputs, .pace] z) ∧
  (∀ (s : State) (k : Fin 32), s.zone.convertersRun = true →
    (s.zone.input k.val).since + s.zone.fld (pINPUT k.val) INPUT.IN_CFG_FILTER * 100 * 250 ≤ s.zone.mono →
    (s.zone.input k.val).candidate ≠ s.zone.flag (pINPUT k.val) INPUT.STATE_LEVEL → Completes (.inputLevelChange k) s fun z =>
      z.flag (pINPUT k.val) INPUT.STATE_LEVEL = (s.zone.input k.val).candidate ∧
      z.flag (pINPUT k.val) (if (s.zone.input k.val).candidate then INPUT.IN_EVENT_RISE else INPUT.IN_EVENT_FALL) = true ∧
      z.fld (pINPUT k.val) INPUT.IN_COUNTS_EDGES = min (s.zone.fld (pINPUT k.val) INPUT.IN_COUNTS_EDGES + 1) 0xFFFF ∧
      ((s.zone.input k.val).samples ≠ [] → z.flag (pINPUT k.val) INPUT.STATE_ACTIVE = ((s.zone.input k.val).candidate != decide (s.zone.fld (pINPUT k.val) INPUT.IN_CFG_MODE = 1))) ∧
      s.zone.Frame [pINPUT k.val + INPUT.STATE_LEVEL.off, pINPUT k.val + INPUT.IN_EVENT_RISE.off, pINPUT k.val + INPUT.IN_COUNTS_EDGES.off] [] z) ∧
  (∀ (s : State) (k : Fin 32) (r f : Nat), s.zone.convertersRun = true →
    s.zone.flag (pINPUT k.val) INPUT.IN_CFG_CAPTURE_EN = true → (s.zone.input k.val).lastRise = some r →
    (s.zone.input k.val).lastFall = some f → r ≤ f → f ≤ s.zone.mono → s.zone.mono - r < 2 ^ 32 →
    Completes (.captureRise k) s fun z =>
      z.fld (pINPUT k.val) INPUT.CAP_PERIOD_TICKS = s.zone.mono - r ∧ z.fld (pINPUT k.val) INPUT.CAP_HIGH_TICKS = f - r ∧
      z.flag (pINPUT k.val) INPUT.STATE_CAP_VALID = true ∧
      z.fld (pINPUT k.val) INPUT.STATE_CAP_SEQ = (s.zone.fld (pINPUT k.val) INPUT.STATE_CAP_SEQ + 1) % 256 ∧
      z.input k.val = { s.zone.input k.val with lastRise := some s.zone.mono, lastFall := none } ∧
      s.zone.Frame [pINPUT k.val + INPUT.CAP_PERIOD_TICKS.off, pINPUT k.val + INPUT.CAP_HIGH_TICKS.off, pINPUT k.val + INPUT.STATE_CAP_VALID.off] [.inputs] z) ∧
  (∀ (s : State) (k : Fin 32), s.zone.convertersRun = true → s.zone.flag (pINPUT k.val) INPUT.IN_CFG_CAPTURE_EN = true →
    ((s.zone.input k.val).lastRise = none ∨ (s.zone.input k.val).lastFall = none) → Completes (.captureRise k) s fun z =>
      z.input k.val = { s.zone.input k.val with lastRise := some s.zone.mono, lastFall := none } ∧ s.zone.Frame [] [.inputs] z) ∧
  (∀ (s : State) (k : Fin 32) (r : Nat), s.zone.convertersRun = true →
    s.zone.flag (pINPUT k.val) INPUT.IN_CFG_CAPTURE_EN = true → (s.zone.input k.val).lastRise = some r →
    Completes (.captureFall k) s fun z =>
      z.input k.val = { s.zone.input k.val with lastFall := some s.zone.mono } ∧ s.zone.Frame [] [.inputs] z) ∧
  (∀ (s : State) (k : Fin 32) (t : Nat), s.zone.convertersRun = true → (s.zone.input k.val).lastRise = some t →
    t + 10000 * 250000 ≤ s.zone.mono → Completes (.captureTimeout k) s fun z =>
      z.flag (pINPUT k.val) INPUT.STATE_CAP_VALID = false ∧ z.fld (pINPUT k.val) INPUT.CAP_PERIOD_TICKS = 0 ∧
      z.fld (pINPUT k.val) INPUT.CAP_HIGH_TICKS = 0 ∧
      z.input k.val = { s.zone.input k.val with lastRise := none, lastFall := none } ∧
      s.zone.Frame [pINPUT k.val + INPUT.CAP_PERIOD_TICKS.off, pINPUT k.val + INPUT.CAP_HIGH_TICKS.off, pINPUT k.val + INPUT.STATE_CAP_VALID.off] [.inputs] z) ∧
  (∀ (s : State) (x : Writer) (k : Fin 32) (v : Word), s.zone.writerActs x = true → s.zone.mayConfigure x = true →
    s.zone.locked (pINPUT k.val) = false → INPUT.IN_CFG_MODE.get v ≠ 3 → INPUT.IN_CFG_WETTING.get v < 6 →
    Completes (.inCfgWrite x k v) s fun z =>
      z.rd (pINPUT k.val + INPUT.IN_CFG_MODE.off) = v &&& 0x1307FF00 ∧
      ((s.zone.input k.val).samples ≠ [] → z.flag (pINPUT k.val) INPUT.STATE_ACTIVE = (s.zone.flag (pINPUT k.val) INPUT.STATE_LEVEL != decide (INPUT.IN_CFG_MODE.get v = 1))) ∧
      z.flag (pINPUT k.val) INPUT.STATE_LEVEL = s.zone.flag (pINPUT k.val) INPUT.STATE_LEVEL ∧
      s.zone.Frame [pINPUT k.val + INPUT.IN_CFG_MODE.off, pINPUT k.val + INPUT.STATE_LEVEL.off, pINPUT k.val + INPUT.CAP_PERIOD_TICKS.off, pINPUT k.val + INPUT.CAP_HIGH_TICKS.off] [.inputs] z) ∧
  (∀ (s : State) (x : Writer) (k : Fin 32) (v : Word), s.zone.writerActs x = true → s.zone.mayConfigure x = true →
    s.zone.locked (pINPUT k.val) = false → (INPUT.IN_CFG_MODE.get v = 3 ∨ 6 ≤ INPUT.IN_CFG_WETTING.get v) →
    Completes (.inCfgWrite x k v) s fun z =>
      z.flag (pINPUT k.val) INPUT.IN_EVENT_CFG_REJECT = true ∧
      z.fld (pINPUT k.val) INPUT.IN_COUNTS_CFG_REJECT = min (s.zone.fld (pINPUT k.val) INPUT.IN_COUNTS_CFG_REJECT + 1) 0xFFFF ∧
      s.zone.Frame [pINPUT k.val + INPUT.IN_EVENT_CFG_REJECT.off, pINPUT k.val + INPUT.IN_COUNTS_CFG_REJECT.off] [] z) ∧
  (∀ (s : State) (x : Writer) (k : Fin 32) (v : Word), s.zone.writerActs x = true → s.zone.mayConfigure x = true →
    s.zone.locked (pINPUT k.val) = false → INPUT.IN_THRESH_FALL.get v ≤ INPUT.IN_THRESH_RISE.get v →
    100 ≤ INPUT.IN_THRESH_FALL.get v → INPUT.IN_THRESH_RISE.get v ≤ 4000 → Completes (.inThreshWrite x k v) s fun z =>
      z.rd (pINPUT k.val + INPUT.IN_THRESH_FALL.off) = v &&& 0x1FFF1FFF ∧
      s.zone.Frame [pINPUT k.val + INPUT.IN_THRESH_FALL.off] [] z) ∧
  (∀ (s : State) (x : Writer) (k : Fin 32) (v : Word), s.zone.writerActs x = true → s.zone.mayConfigure x = true →
    s.zone.locked (pINPUT k.val) = false →
    (INPUT.IN_THRESH_RISE.get v < INPUT.IN_THRESH_FALL.get v ∨ INPUT.IN_THRESH_FALL.get v < 100 ∨ 4000 < INPUT.IN_THRESH_RISE.get v) →
    Completes (.inThreshWrite x k v) s fun z =>
      z.flag (pINPUT k.val) INPUT.IN_EVENT_CFG_REJECT = true ∧
      s.zone.Frame [pINPUT k.val + INPUT.IN_EVENT_CFG_REJECT.off, pINPUT k.val + INPUT.IN_COUNTS_CFG_REJECT.off] [] z) ∧
  (∀ (s : State) (base soc die a b : BitVec 16), s.zone.logicRuns = true → s.zone.paceDue Pace.thermal 25000 = true →
    Completes (.thermalSample base soc die a b) s fun z =>
      z.fld (pZONE 4) ZONE4.T_BASE_TEMP = base.toNat ∧ z.fld (pZONE 4) ZONE4.T_SOC_TEMP = soc.toNat ∧
      z.fld (pZONE 4) ZONE4.T_SWITCH_TEMP = die.toNat ∧ z.fld (pZONE 4) ZONE4.T_POWER_A_TEMP = a.toNat ∧
      z.fld (pZONE 4) ZONE4.T_POWER_B_TEMP = b.toNat ∧
      (s.zone.fldS (pZONE 4) ZONE4.THERM_CFG_WARN ≤ soc.toInt → z.flag (pZONE 4) ZONE4.THERM_EVENT_WARN = true) ∧
      (2000 ≤ soc.toInt → z.flag (pZONE 4) ZONE4.THERM_STATUS_THROTTLED = true ∧ z.flag (pZONE 4) ZONE4.THERM_EVENT_THROTTLE = true) ∧
      (2160 ≤ soc.toInt → z.flag (pZONE 4) ZONE4.THERM_STATUS_HALTED = true ∧ z.flag (pZONE 4) ZONE4.THERM_EVENT_HALT = true) ∧
      (2160 ≤ soc.toInt → s.zone.flag (pZONE 4) ZONE4.THERM_STATUS_HALTED = false → s.zone.Reports z Src.thermalHalt 0) ∧
      (soc.toInt < 2160 → z.safety = s.zone.safety) ∧
      (soc.toInt < 1840 → z.flag (pZONE 4) ZONE4.THERM_STATUS_THROTTLED = false ∧ z.flag (pZONE 4) ZONE4.THERM_STATUS_HALTED = false) ∧
      (1840 ≤ soc.toInt → soc.toInt < 2000 → z.flag (pZONE 4) ZONE4.THERM_STATUS_THROTTLED = s.zone.flag (pZONE 4) ZONE4.THERM_STATUS_THROTTLED) ∧
      (1840 ≤ soc.toInt → soc.toInt < 2160 → z.flag (pZONE 4) ZONE4.THERM_STATUS_HALTED = s.zone.flag (pZONE 4) ZONE4.THERM_STATUS_HALTED) ∧
      s.zone.BankFrame [0] [.safety, .pace] z)

/-! ### The register space, clocks and dual-clock queues -/

/-- R14, R15, R27, R29, R139, R501: a granted firmware write of any populated page is answered without error; a word that a write
only stores takes it bit by bit by its access codes, within the ranges of its fields, with nothing else changed, whether firmware
writes it (in 4 or 8 bytes) or a keeper whose command reaches the page, in each MODE; a firmware write of a word with KW fields is
counted with its address and source; a granted read answers the word's value and clears its RC fields; an access of another size
or alignment is answered ALIGN, one of no page DECODE, with no effect, one that no region permits REGION; a write of 1 to a page's
LOCK sets it, and a locked page keeps its RWL fields. -/
def Obligations.RegisterSpaceTakesAndAnswers : Prop :=
  (∀ (s : State) (src : Source) (k : BitVec 24) (m : Fin 4) (v : BitVec 64), s.zone.start.released = true →
    s.zone.Grants src k.toNat 4 true (v.setWidth 32) → Completes (.registerWrite (.firmware src) k 4 m v) s fun z =>
      z.resp = ⟨Err.none, 0⟩) ∧
  (∀ (s : State) (src : Source) (k : BitVec 24) (m : Fin 4) (v : BitVec 64) (kind : PageKind) (d : WordD),
    s.zone.start.released = true → s.zone.Grants src k.toNat 4 true (v.setWidth 32) → keyD k.toNat = some (kind, d) →
    Zone.plainWord kind k.toNat = true → d.kw = 0 → d.reached (reachOf kind (.firmware src)) ≠ 0 →
    Completes (.registerWrite (.firmware src) k 4 m v) s fun z =>
      z.resp = ⟨Err.none, 0⟩ ∧
      z.rd k.toNat = keepRanges (fieldRanges kind (keyChan k.toNat) (keyOff k.toNat)) (s.zone.rd k.toNat) (d.merge (reachOf kind (.firmware src)) (s.zone.locked (keyPage k.toNat)) 0 (s.zone.rd k.toNat) (v.setWidth 32)) ∧
      s.zone.Frame [k.toNat] [.resp] z) ∧
  (∀ (s : State) (src : Source) (k : BitVec 24) (m : Fin 4) (v : BitVec 64) (kind : PageKind) (d : WordD),
    s.zone.start.released = true → s.zone.Grants src k.toNat 4 true (v.setWidth 32) → keyD k.toNat = some (kind, d) →
    Zone.plainWord kind k.toNat = true → fieldRanges kind (keyChan k.toNat) (keyOff k.toNat) = [] → d.rc = [] → d.kw = 0 →
    Completes (.registerWrite (.firmware src) k 4 m v) s fun z =>
      Zone.Takes d (reachOf kind (.firmware src)) (s.zone.locked (keyPage k.toNat)) (s.zone.rd k.toNat) (v.setWidth 32) (z.rd k.toNat)) ∧
  (∀ (s : State) (src : Source) (k : BitVec 24) (m : Fin 4) (v : BitVec 64) (kind : PageKind) (d : WordD),
    s.zone.start.released = true → s.zone.Grants src k.toNat 4 true (v.setWidth 32) → keyD k.toNat = some (kind, d) →
    d.reached (reachOf kind (.firmware src)) = 0 → kind ≠ .stream → d.kw ≠ 0 →
    Completes (.registerWrite (.firmware src) k 4 m v) s fun z =>
      z.resp = ⟨Err.none, 0⟩ ∧
      z.fld (pZONE 0) ZONE0.KW_REJECT_COUNT = min (s.zone.fld (pZONE 0) ZONE0.KW_REJECT_COUNT + 1) 0xFFFF ∧
      z.fld (pZONE 0) ZONE0.KW_REJECT_ADDR_OFFSET = k.toNat ∧
      z.flag (pZONE 0) ZONE0.KW_REJECT_SRC_WORLD = decide (src.world = .secure) ∧
      z.fld (pZONE 0) ZONE0.KW_REJECT_SRC_MOORING = src.mooring.toNat ∧
      s.zone.Frame [pZONE 0 + ZONE0.KW_REJECT_COUNT.off, pZONE 0 + ZONE0.KW_REJECT_ADDR_OFFSET.off, pZONE 0 + ZONE0.KW_REJECT_SRC_WORLD.off] [.resp] z) ∧
  (∀ (s : State) (src : Source) (k : BitVec 24) (m : Fin 4) (v : BitVec 64) (kind kind' : PageKind) (d d' : WordD),
    s.zone.start.released = true → s.zone.Grants src k.toNat 8 true (v.setWidth 32) →
    s.zone.wordCheck src (k.toNat + 4) true ((v >>> 32).setWidth 32) = (Err.none, s.zone) → keyD k.toNat = some (kind, d) →
    keyD (k.toNat + 4) = some (kind', d') → Zone.plainWord kind k.toNat = true → Zone.plainWord kind' (k.toNat + 4) = true →
    [6, 7, 10, 14].contains (keyBank k.toNat) = false → d.kw = 0 → d'.kw = 0 → d.reached (reachOf kind (.firmware src)) ≠ 0 →
    d'.reached (reachOf kind' (.firmware src)) ≠ 0 → Completes (.registerWrite (.firmware src) k 8 m v) s fun z =>
      z.rd k.toNat = keepRanges (fieldRanges kind (keyChan k.toNat) (keyOff k.toNat)) (s.zone.rd k.toNat) (d.merge (reachOf kind (.firmware src)) (s.zone.locked (keyPage k.toNat)) 0 (s.zone.rd k.toNat) (v.setWidth 32)) ∧
      z.rd (k.toNat + 4) = keepRanges (fieldRanges kind' (keyChan (k.toNat + 4)) (keyOff (k.toNat + 4))) (s.zone.rd (k.toNat + 4)) (d'.merge (reachOf kind' (.firmware src)) (s.zone.locked (keyPage k.toNat)) 0 (s.zone.rd (k.toNat + 4)) ((v >>> 32).setWidth 32)) ∧
      s.zone.Frame [k.toNat, k.toNat + 4] [.resp] z) ∧
  (∀ (s : State) (x : Keeper) (k : BitVec 24) (n : BitVec 4) (m : Fin 4) (v : BitVec 64) (kind : PageKind) (d : WordD),
    s.zone.logicRuns = true → k.toNat % 4 = 0 → s.zone.Reaches x k.toNat → keyD k.toNat = some (kind, d) →
    Zone.plainWord kind k.toNat = true → d.reached (reachOf kind (.keeper x)) ≠ 0 →
    (keyBank k.toNat = 1 → (s.zone.load (keyChan k.toNat)).silent = false) →
    Completes (.registerWrite (.keeper x) k n m v) s fun z =>
      z.rd k.toNat = keepRanges (fieldRanges kind (keyChan k.toNat) (keyOff k.toNat)) (s.zone.rd k.toNat) (d.merge (reachOf kind (.keeper x)) (s.zone.locked (keyPage k.toNat)) m.val (s.zone.rd k.toNat) (v.setWidth 32)) ∧
      s.zone.Frame [k.toNat] [.stages] z) ∧
  (∀ (s : State) (x : Keeper) (k : BitVec 24) (n : BitVec 4) (m : Fin 4) (v : BitVec 64), s.zone.logicRuns = true →
    s.zone.mode ≠ Mode.test → s.zone.portOpen x = true → k.toNat % 4 = 0 → stageOf (keyPage k.toNat) = none →
    s.zone.holdsWatch x = false → Completes (.registerWrite (.keeper x) k n m v) s fun z =>
      z.fld (pKEEPER x) KEEPER.SHADOW_COUNTS_WRITES = min (s.zone.fld (pKEEPER x) KEEPER.SHADOW_COUNTS_WRITES + 1) (2 ^ KEEPER.SHADOW_COUNTS_WRITES.w - 1) ∧
      s.zone.Frame [pKEEPER x + KEEPER.SHADOW_COUNTS_WRITES.off] [] z) ∧
  (∀ (s : State) (src : Source) (k : BitVec 24) (n : BitVec 4) (m : Fin 4) (v : BitVec 64), s.zone.start.released = true →
    Zone.alignedAccess k.toNat n.toNat = false → Completes (.registerWrite (.firmware src) k n m v) s fun z =>
      z.resp = ⟨Err.align, 0⟩ ∧ s.zone.Frame [] [.resp] z) ∧
  (∀ (s : State) (src : Source) (k : BitVec 24) (m : Fin 4) (v : BitVec 64), s.zone.start.released = true →
    Zone.alignedAccess k.toNat 4 = true → s.zone.lineWritten 1 (0x1F0000000 + k.toNat) 4 = s.zone →
    pageKind (keyBank k.toNat) (keyChan k.toNat) = none → Completes (.registerWrite (.firmware src) k 4 m v) s fun z =>
      z.resp = ⟨Err.decode, 0⟩ ∧ s.zone.Frame [] [.resp] z) ∧
  (∀ (s : State) (src : Source) (k : BitVec 24) (m : Fin 4) (v : BitVec 64), s.zone.start.released = true →
    Zone.alignedAccess k.toNat 4 = true → s.zone.lineWritten 1 (0x1F0000000 + k.toNat) 4 = s.zone →
    pageKind (keyBank k.toNat) (keyChan k.toNat) ≠ none → s.zone.grantWindow src k.toNat true (v.setWidth 32) = false →
    s.zone.permitted 12 src false true (0x1F0000000 + k.toNat) 4 = false →
    Completes (.registerWrite (.firmware src) k 4 m v) s fun z =>
      z.resp = ⟨Err.region, 0⟩ ∧ s.zone.BankFrame [14] [.resp] z) ∧
  (∀ (s : State) (src : Source) (k : BitVec 24) (kind : PageKind) (d : WordD), s.zone.start.released = true →
    Zone.alignedAccess k.toNat 4 = true → s.zone.wordCheck src k.toNat false 0 = (Err.none, s.zone) →
    keyD k.toNat = some (kind, d) → kind ≠ .swp → (s.zone.readWord k.toNat).2 = s.zone → Completes (.rcRead src k 4) s fun z =>
      z.resp = ⟨Err.none, (s.zone.readWord k.toNat).1.toNat⟩ ∧
      z.rd k.toNat = s.zone.rd k.toNat &&& ~~~ d.rc.foldl (fun m f => m ||| bitsMask f.1 f.2) 0 ∧
      s.zone.Frame [k.toNat] [.resp] z) ∧
  (∀ (s : State) (src : Source) (k : BitVec 24), s.zone.start.released = true → Zone.alignedAccess k.toNat 4 = true →
    s.zone.wordCheck src k.toNat false 0 = (Err.none, s.zone) → Completes (.rcRead src k 4) s fun z =>
      z.resp.code = Err.none ∧ z.SameMemory s.zone) ∧
  (∀ (s : State) (src : Source), s.zone.start.released = true →
    s.zone.wordCheck src (pZONE 5 + ZONE5.DCQ_CE_TOTAL_COUNT.off) false 0 = (Err.none, s.zone) →
    Completes (.rcRead src (BitVec.ofNat 24 (pZONE 5 + ZONE5.DCQ_CE_TOTAL_COUNT.off)) 4) s fun z =>
      z.resp = ⟨Err.none, s.zone.fld (pZONE 5) ZONE5.DCQ_CE_TOTAL_COUNT⟩ ∧ z.fld (pZONE 5) ZONE5.DCQ_CE_TOTAL_COUNT = 0 ∧
      s.zone.Frame [pZONE 5 + ZONE5.DCQ_CE_TOTAL_COUNT.off] [.resp] z) ∧
  (∀ (s : State) (src : Source) (k : BitVec 24) (n : BitVec 4), s.zone.start.released = true →
    Zone.alignedAccess k.toNat n.toNat = false → Completes (.rcRead src k n) s fun z =>
      z.resp = ⟨Err.align, 0⟩ ∧ s.zone.Frame [] [.resp] z) ∧
  (∀ (s : State) (x : Keeper) (p : PageArg) (kind : PageKind) (d : WordD), s.zone.logicRuns = true →
    s.zone.Reaches x (page p.bank.toNat p.channel.toNat + 0xFC) →
    keyD (page p.bank.toNat p.channel.toNat + 0xFC) = some (kind, d) → d.w1s.testBit 0 = true →
    Zone.plainWord kind (page p.bank.toNat p.channel.toNat + 0xFC) = true → (reachOf kind (.keeper x)).cfg = true →
    (p.bank.toNat = 1 → (s.zone.load p.channel.toNat).silent = false) → Completes (.pageLock (.keeper x) p) s fun z =>
      z.locked (page p.bank.toNat p.channel.toNat) = true ∧ s.zone.Frame [page p.bank.toNat p.channel.toNat + 0xFC] [.stages] z) ∧
  (∀ (s : State) (src : Source) (p : PageArg) (kind : PageKind) (d : WordD), s.zone.start.released = true →
    s.zone.Grants src (page p.bank.toNat p.channel.toNat + 0xFC) 4 true 1 →
    keyD (page p.bank.toNat p.channel.toNat + 0xFC) = some (kind, d) → d.w1s.testBit 0 = true →
    Zone.plainWord kind (page p.bank.toNat p.channel.toNat + 0xFC) = true → (reachOf kind (.firmware src)).cfg = true →
    Completes (.pageLock (.firmware src) p) s fun z =>
      z.locked (page p.bank.toNat p.channel.toNat) = true ∧ s.zone.Frame [page p.bank.toNat p.channel.toNat + 0xFC] [.resp] z) ∧
  (∀ (s : State) (x : Writer) (k : Fin 32) (v : Word), s.zone.locked (pINPUT k.val) = true →
    Completes (.inThreshWrite x k v) s fun z =>
      s.zone.Frame [] [] z)

/-- R32, R33, R34, R35, R36, R37, R38, R626: at the end of a window of a domain whose clock is to run, a domain whose clock
stopped is shown in STOPPED and FAULT and counted, one outside its window for the second time in a row in OUT_OF_WINDOW and FAULT,
the second good window clears it, a clock that runs again clears STOPPED; beside the time base and the keepers, nothing else
changes; words that fit are written and a complete packet is published whole, words that do not fit change nothing; the reading
side takes the first word of the first packet and counts a corrected error; a double-bit error discards the packet and is counted;
a stopped writing clock discards the words beyond the last notice. -/
def Obligations.ClockMonitorsAndDualClockQueues : Prop :=
  (∀ (s : State) (d : Fin 10) (w : ClockWindow), s.zone.logicRuns = true → d.val ≠ 5 → s.zone.clockRuns d.val = true →
    s.zone.paceDue (Pace.clock d.val) 248 = true → w.stopped = true →
    s.zone.fldBit (pZONE 5) ZONE5.CLK_STATUS_STOPPED d.val = false → Completes (.clockMonitorWindow d w) s fun z =>
      z.fldBit (pZONE 5) ZONE5.CLK_STATUS_STOPPED d.val = true ∧ z.fldBit (pZONE 5) ZONE5.CLK_EVENT_FAULT d.val = true ∧
      z.fld (pZONE 5) ZONE5.CLK_LAST_DOMAIN = d.val ∧ z.fld (pZONE 5) ZONE5.CLK_LAST_COUNT = 0 ∧
      z.fld (pZONE 5) ZONE5.CLK_COUNTS_TOTAL = min (s.zone.fld (pZONE 5) ZONE5.CLK_COUNTS_TOTAL + 1) 0xFFFFFFFF ∧
      (d.val = 1 ∨ d.val = 2 ∨ d.val = 3 ∨ s.zone.BankFrame [0] [.start, .safety, .pace] z) ∧ z.SameMemory s.zone) ∧
  (∀ (s : State) (d : Fin 10) (w : ClockWindow), s.zone.logicRuns = true → d.val ≠ 5 → s.zone.clockRuns d.val = true →
    s.zone.paceDue (Pace.clock d.val) 248 = true → w.stopped = true →
    s.zone.fldBit (pZONE 5) ZONE5.CLK_STATUS_STOPPED d.val = true → Completes (.clockMonitorWindow d w) s fun z =>
      s.zone.Frame [] [.pace] z) ∧
  (∀ (s : State) (d : Fin 10) (w : ClockWindow), s.zone.logicRuns = true → d.val ≠ 5 → s.zone.clockRuns d.val = true →
    s.zone.paceDue (Pace.clock d.val) 248 = true → w.stopped = false →
    outsideWindow d.val (s.zone.appClock.getD (0, 0)) w = true → SMap.get (fun _ => 0) s.zone.safety.clockBad d.val = 1 →
    s.zone.fldBit (pZONE 5) ZONE5.CLK_STATUS_OUT_OF_WINDOW d.val = false → Completes (.clockMonitorWindow d w) s fun z =>
      z.fldBit (pZONE 5) ZONE5.CLK_STATUS_OUT_OF_WINDOW d.val = true ∧
      z.fldBit (pZONE 5) ZONE5.CLK_STATUS_STOPPED d.val = false ∧ z.fldBit (pZONE 5) ZONE5.CLK_EVENT_FAULT d.val = true ∧
      z.fld (pZONE 5) ZONE5.CLK_LAST_DOMAIN = d.val ∧ z.fld (pZONE 5) ZONE5.CLK_LAST_COUNT = w.count % 65536 ∧
      (d.val = 1 ∨ d.val = 2 ∨ d.val = 3 ∨ s.zone.BankFrame [0] [.start, .safety, .pace] z) ∧ z.SameMemory s.zone) ∧
  (∀ (s : State) (d : Fin 10) (w : ClockWindow), s.zone.logicRuns = true → d.val ≠ 5 → s.zone.clockRuns d.val = true →
    s.zone.paceDue (Pace.clock d.val) 248 = true → w.stopped = false →
    outsideWindow d.val (s.zone.appClock.getD (0, 0)) w = true → SMap.get (fun _ => 0) s.zone.safety.clockBad d.val = 0 →
    s.zone.fldBit (pZONE 5) ZONE5.CLK_STATUS_STOPPED d.val = false → Completes (.clockMonitorWindow d w) s fun z =>
      SMap.get (fun _ => 0) z.safety.clockBad d.val = 1 ∧ SMap.get (fun _ => 0) z.safety.clockGood d.val = 0 ∧
      s.zone.Frame [] [.safety, .pace] z) ∧
  (∀ (s : State) (d : Fin 10) (w : ClockWindow), s.zone.logicRuns = true → d.val ≠ 5 → s.zone.clockRuns d.val = true →
    s.zone.paceDue (Pace.clock d.val) 248 = true → w.stopped = false →
    outsideWindow d.val (s.zone.appClock.getD (0, 0)) w = false → SMap.get (fun _ => 0) s.zone.safety.clockGood d.val = 1 →
    s.zone.fldBit (pZONE 5) ZONE5.CLK_STATUS_OUT_OF_WINDOW d.val = true → Completes (.clockMonitorWindow d w) s fun z =>
      z.fldBit (pZONE 5) ZONE5.CLK_STATUS_OUT_OF_WINDOW d.val = false ∧
      z.fldBit (pZONE 5) ZONE5.CLK_STATUS_STOPPED d.val = false ∧ SMap.get (fun _ => 0) z.safety.clockBad d.val = 0 ∧
      z.SameMemory s.zone) ∧
  (∀ (s : State) (d : Fin 10) (w : ClockWindow), s.zone.logicRuns = true → d.val ≠ 5 → s.zone.clockRuns d.val = true →
    s.zone.paceDue (Pace.clock d.val) 248 = true → w.stopped = false →
    outsideWindow d.val (s.zone.appClock.getD (0, 0)) w = false →
    s.zone.fldBit (pZONE 5) ZONE5.CLK_STATUS_STOPPED d.val = false →
    s.zone.fldBit (pZONE 5) ZONE5.CLK_STATUS_OUT_OF_WINDOW d.val = false → Completes (.clockMonitorWindow d w) s fun z =>
      SMap.get (fun _ => 0) z.safety.clockBad d.val = 0 ∧
      SMap.get (fun _ => 0) z.safety.clockGood d.val = min 2 (SMap.get (fun _ => 0) s.zone.safety.clockGood d.val + 1) ∧
      s.zone.Frame [] [.safety, .pace] z) ∧
  (∀ (s : State) (q : BitVec 16) (l : List Word) (e : Bool), s.zone.logicRuns = true →
    (s.zone.dcq q.toNat).used (dcqDepth q.toNat) + l.length ≤ dcqDepth q.toNat →
    ((s.zone.dcq q.toNat).beyond ++ l).length ≤ dcqDepth q.toNat / 2 → Completes (.dcqPacketWrite q l e) s fun z =>
      (z.dcq q.toNat).packets = (s.zone.dcq q.toNat).packets ++ (if e = true ∧ (s.zone.dcq q.toNat).beyond ++ l ≠ [] then [(s.zone.dcq q.toNat).beyond ++ l] else []) ∧
      (z.dcq q.toNat).beyond = (if e = true then [] else (s.zone.dcq q.toNat).beyond ++ l) ∧
      (z.dcq q.toNat).wptr = ((s.zone.dcq q.toNat).wptr + l.length) % (2 * dcqDepth q.toNat) ∧
      (z.dcq q.toNat).rptr = (s.zone.dcq q.toNat).rptr ∧ s.zone.Frame [] [.dcqs] z) ∧
  (∀ (s : State) (q : BitVec 16) (l : List Word) (e : Bool), s.zone.logicRuns = true →
    (dcqDepth q.toNat < (s.zone.dcq q.toNat).used (dcqDepth q.toNat) + l.length ∨ dcqDepth q.toNat / 2 < ((s.zone.dcq q.toNat).beyond ++ l).length) →
    Completes (.dcqPacketWrite q l e) s fun z =>
      s.zone.Frame [] [] z) ∧
  (∀ (s : State) (q : BitVec 16) (e : EccResult) (p : List Word) (r : List (List Word)), s.zone.logicRuns = true →
    (s.zone.dcq q.toNat).packets = p :: r → e ≠ .double → Completes (.dcqWordRead q e) s fun z =>
      (z.dcq q.toNat).packets = (if (p.drop 1).isEmpty then r else p.drop 1 :: r) ∧
      (z.dcq q.toNat).rptr = ((s.zone.dcq q.toNat).rptr + 1) % (2 * dcqDepth q.toNat) ∧
      (z.dcq q.toNat).ce = (if e = EccResult.corrected then min ((s.zone.dcq q.toNat).ce + 1) 65535 else (s.zone.dcq q.toNat).ce) ∧
      z.fld (pZONE 5) ZONE5.DCQ_CE_TOTAL_COUNT = (if e = EccResult.corrected then min (s.zone.fld (pZONE 5) ZONE5.DCQ_CE_TOTAL_COUNT + 1) 0xFFFFFFFF else s.zone.fld (pZONE 5) ZONE5.DCQ_CE_TOTAL_COUNT) ∧
      s.zone.Frame [pZONE 5 + ZONE5.DCQ_CE_TOTAL_COUNT.off] [.dcqs] z) ∧
  (∀ (s : State) (q : BitVec 16) (p : List Word) (r : List (List Word)), s.zone.logicRuns = true →
    (s.zone.dcq q.toNat).packets = p :: r → Completes (.dcqWordRead q .double) s fun z =>
      (z.dcq q.toNat).packets = r ∧ (z.dcq q.toNat).rptr = ((s.zone.dcq q.toNat).rptr + p.length) % (2 * dcqDepth q.toNat) ∧
      z.fld (pZONE 5) ZONE5.DCQ_UE_TOTAL_COUNT = min (s.zone.fld (pZONE 5) ZONE5.DCQ_UE_TOTAL_COUNT + 1) 0xFFFFFFFF ∧
      z.fld (pZONE 5) ZONE5.DCQ_UE_LAST_QUEUE_ID = q.toNat ∧ s.zone.Reports z Src.eccOther 0 ∧
      s.zone.Frame [pZONE 5 + ZONE5.DCQ_UE_TOTAL_COUNT.off, pZONE 5 + ZONE5.DCQ_UE_LAST_QUEUE_ID.off] [.dcqs, .safety] z) ∧
  (∀ (s : State) (q : BitVec 16), Completes (.dcqClockStop q) s fun z =>
      (z.dcq q.toNat).beyond = [] ∧ (z.dcq q.toNat).packets = (s.zone.dcq q.toNat).packets ∧
      (z.dcq q.toNat).wptr = ((s.zone.dcq q.toNat).wptr + 2 * dcqDepth q.toNat - (s.zone.dcq q.toNat).beyond.length) % (2 * dcqDepth q.toNat) ∧
      s.zone.Frame [] [.dcqs] z)

/-! ### The supervisor link -/

/-- R44, R46, R50: while the management queue runs, a due start notice is sent with the start count and the status bytes, where
there is a session key, and the next is due after 1 s; a malformed frame is counted and changes nothing else; while the queue does
not run, nothing changes; an accepted GET_STATUS is answered with the 16 status bytes, raises the highest SEQ and changes no other
register. -/
def Obligations.StartNoticesAndStatus : Prop :=
  (∀ (s : State), s.zone.mgmtRuns = true → s.zone.supv.sessionKey.isSome = true → s.zone.supv.noticeDue = some 0 →
    Completes (.startNotice) s fun z =>
      z.lastAnswer = some (1, 0, 0, leBytes 4 (s.zone.rd (pZONE 6 + ZONE6.START_COUNT_COUNT.off)).toNat ++ s.zone.statusBytes) ∧
      z.supv.replies.length = s.zone.supv.replies.length + 1 ∧ z.supv.noticeDue = some (s.zone.mono + 250000000) ∧
      s.zone.Frame [] [.supv] z) ∧
  (∀ (s : State) (t : Nat), s.zone.mgmtRuns = true → s.zone.supv.sessionKey.isSome = true → s.zone.supv.noticeDue = some t →
    0 < t → t ≤ s.zone.mono → Completes (.startNoticeRepeat) s fun z =>
      z.lastAnswer = some (1, 0, 0, leBytes 4 (s.zone.rd (pZONE 6 + ZONE6.START_COUNT_COUNT.off)).toNat ++ s.zone.statusBytes) ∧
      z.supv.replies.length = s.zone.supv.replies.length + 1 ∧ z.supv.noticeDue = some (s.zone.mono + 250000000) ∧
      s.zone.Frame [] [.supv] z) ∧
  (∀ (s : State), s.zone.mgmtRuns = true → s.zone.supv.sessionKey = none → Completes (.startNotice) s fun z =>
      z.supv.replies = s.zone.supv.replies ∧ s.zone.Frame [] [.supv] z) ∧
  (∀ (s : State), s.zone.mgmtRuns = true → s.zone.supv.sessionKey = none → Completes (.startNoticeRepeat) s fun z =>
      z.supv.replies = s.zone.supv.replies ∧ s.zone.Frame [] [.supv] z) ∧
  (∀ (s : State) (x : EnvelopeFault), s.zone.mgmtRuns = true → Completes (.malformedCommand x) s fun z =>
      z.fld (pZONE 0) ZONE0.CMD_REJECT_FORMAT = min (s.zone.fld (pZONE 0) ZONE0.CMD_REJECT_FORMAT + 1) 255 ∧
      s.zone.Frame [pZONE 0 + ZONE0.CMD_REJECT_FORMAT.off] [] z) ∧
  (∀ (s : State) (x : EnvelopeFault), s.zone.mgmtRuns = false → Completes (.malformedCommand x) s fun z =>
      s.zone.Frame [] [] z) ∧
  (∀ (s : State) (e : Envelope), s.zone.Accepts Code.getStatus e → e.args = [] → Completes (.getStatus e) s fun z =>
      z.lastAnswer = some (Code.getStatus, e.seq, 0, z.statusBytes) ∧ z.supv.seqHigh = some e.seq ∧
      z.supv.executing = s.zone.supv.executing ∧ s.zone.Frame [pZONE 0 + ZONE0.SUPV_SEQ_HIGH_LO.off] [.supv, .sleep] z)

/-- R46, R47: while the management queue runs, a supervisor command for another node, or one whose MAC does not verify, raises its
counter of CMD_REJECT and changes nothing else: no response, no SEQ, no effect; one whose SEQ is not above the highest accepted is
answered REPLAY, and no register changes. -/
def Obligations.RefusedCommandsHaveNoEffect : Prop :=
  (∀ (s : State) (c : Instr) (code : Nat) (e : Envelope), supervisorCommand c = some (code, e) → s.zone.mgmtRuns = true →
    e.args.length ≤ 1024 → e.node.toNat ≠ s.zone.node → Completes c s fun z =>
      z.fld (pZONE 0) ZONE0.CMD_REJECT_OTHER_NODE = min (s.zone.fld (pZONE 0) ZONE0.CMD_REJECT_OTHER_NODE + 1) 255 ∧
      s.zone.Frame [pZONE 0 + ZONE0.CMD_REJECT_OTHER_NODE.off] [] z) ∧
  (∀ (s : State) (c : Instr) (code : Nat) (e : Envelope), supervisorCommand c = some (code, e) → s.zone.mgmtRuns = true →
    e.args.length ≤ 1024 → e.node.toNat = s.zone.node → s.zone.macOk code e = false → Completes c s fun z =>
      z.fld (pZONE 0) ZONE0.CMD_REJECT_AUTH = min (s.zone.fld (pZONE 0) ZONE0.CMD_REJECT_AUTH + 1) 255 ∧
      s.zone.Frame [pZONE 0 + ZONE0.CMD_REJECT_AUTH.off] [] z) ∧
  (∀ (s : State) (c : Instr) (code : Nat) (e : Envelope), supervisorCommand c = some (code, e) → s.zone.mgmtRuns = true →
    e.args.length ≤ 1024 → e.node.toNat = s.zone.node → s.zone.macOk code e = true →
    e.seq.toNat ≤ (s.zone.supv.seqHigh.getD 0).toNat → Completes c s fun z =>
      z.lastAnswer = some (code, e.seq, Status.replay, []) ∧ z.supv.seqHigh = s.zone.supv.seqHigh ∧
      z.supv.executing = s.zone.supv.executing ∧ s.zone.Frame [] [.supv] z)

/-- R51, R616, R669, R670: an accepted RESET with no safety reset due, EXIT_LIGHTSHIP or EXIT_TEST is answered OK and enters START
with its cause, EXIT_LIGHTSHIP also with its maintenance choice; no command executes after it; a RESET while a safety reset is due
is answered OK and that reset stays due; an accepted ENTER_TEST is answered OK and enters TEST, where every load output is held
open. -/
def Obligations.ResetsExitsAndTestChangeTheState : Prop :=
  (∀ (s : State) (e : Envelope), s.zone.Accepts Code.reset e → e.args = [] → s.zone.safety.resetDue = none →
    Completes (.reset e) s fun z =>
      z.mode = Mode.start ∧ z.fld (pZONE 0) ZONE0.STATE_ENTRY_CAUSE = 6 ∧ z.fld (pZONE 6) ZONE6.LAST_REASON_CODE = 2 ∧
      s.zone.answered z Code.reset e.seq 0 [] = true ∧ z.supv.executing = [] ∧ z.start.released = false ∧ z.SameMemory s.zone) ∧
  (∀ (s : State) (e : Envelope) (t : Nat), s.zone.Accepts Code.reset e → e.args = [] → s.zone.safety.resetDue = some t →
    Completes (.reset e) s fun z =>
      z.lastAnswer = some (Code.reset, e.seq, 0, []) ∧ z.safety = s.zone.safety ∧
      s.zone.Frame [pZONE 0 + ZONE0.SUPV_SEQ_HIGH_LO.off] [.supv, .sleep] z) ∧
  (∀ (s : State) (e : Envelope) (m : Fin 2), s.zone.Accepts Code.exitLightship e → e.args = leBytes 4 m.val →
    Completes (.exitLightship e) s fun z =>
      z.mode = Mode.start ∧ z.fld (pZONE 0) ZONE0.STATE_ENTRY_CAUSE = 8 ∧
      z.fld (pZONE 6) ZONE6.START_STATUS_MAINTENANCE = m.val ∧ s.zone.answered z Code.exitLightship e.seq 0 [] = true ∧
      z.failedCount = 0 ∧ z.supv.executing = []) ∧
  (∀ (s : State) (e : Envelope), s.zone.Accepts Code.enterTest e → e.args = [] → Completes (.enterTest e) s fun z =>
      z.mode = Mode.test ∧ z.fld (pZONE 0) ZONE0.STATE_ENTRY_CAUSE = 9 ∧ s.zone.answered z Code.enterTest e.seq 0 [] = true ∧
      (∀ n : Fin 48, (z.load n.val).forced = true) ∧ z.SameMemory s.zone) ∧
  (∀ (s : State) (e : Envelope), s.zone.Accepts Code.exitTest e → e.args = [] → Completes (.exitTest e) s fun z =>
      z.mode = Mode.start ∧ z.fld (pZONE 0) ZONE0.STATE_ENTRY_CAUSE = 10 ∧ s.zone.answered z Code.exitTest e.seq 0 [] = true ∧
      z.supv.executing = [])

/-- R230, R232, R233, R234: an accepted LOAD_TABLE of a stored image outside a trial, with both keepers healthy, starts the load,
otherwise both words answer TRIAL_ACTIVE, KEEPER_ABSENT or STORE_EMPTY; a commit of a passed trial and a watch change to a ready
standby are answered DONE and scheduled, otherwise the first condition that applies is answered; a rollback in a trial, or of a
resident table above the floor, waits for the next round, otherwise its reason is answered; no register beside the highest SEQ and
the load results changes. -/
def Obligations.TableCommandsStartTheirChange : Prop :=
  (∀ (s : State) (e : Envelope) (k : Fin 16) (l : List Byte), s.zone.Accepts Code.load e → e.args = leBytes 4 k.val →
    s.zone.inTrial = false → s.zone.healthy .A = true → s.zone.healthy .B = true → Completes (.loadTable e (some l)) s fun z =>
      z.watch.load = some ⟨e.seq, l, none, none⟩ ∧ z.supv.executing = s.zone.supv.executing ++ [⟨Code.load, e.seq, true⟩] ∧
      z.supv.replies = s.zone.supv.replies ∧ s.zone.Frame [pZONE 0 + ZONE0.SUPV_SEQ_HIGH_LO.off] [.supv, .sleep, .watch] z) ∧
  (∀ (s : State) (e : Envelope) (k : Fin 16) (l : Option (List Byte)) (c : Nat), s.zone.Accepts Code.load e →
    e.args = leBytes 4 k.val →
    (c = if s.zone.inTrial then 0x22 else if s.zone.healthy .A = false ∨ s.zone.healthy .B = false then 0x20 else 0x21) →
    (s.zone.inTrial = true ∨ s.zone.healthy .A = false ∨ s.zone.healthy .B = false ∨ l = none) →
    Completes (.loadTable e l) s fun z =>
      z.lastAnswer = some (Code.load, e.seq, 0, leBytes 4 (c * 2 ^ 24) ++ leBytes 4 (c * 2 ^ 24)) ∧ z.watch = s.zone.watch ∧
      s.zone.Frame [pZONE 0 + ZONE0.SUPV_SEQ_HIGH_LO.off, pKEEPER .A + KEEPER.LOAD_RESULT_CODE.off, pKEEPER .B + KEEPER.LOAD_RESULT_CODE.off] [.supv, .sleep] z) ∧
  (∀ (s : State) (e : Envelope) (f : Fin 4), s.zone.Accepts Code.commit e → e.args = leBytes 4 f.val →
    s.zone.role .B = Role.trial → 64 ≤ s.zone.fld (pKEEPER .B) KEEPER.TRIAL_ROUNDS →
    (s.zone.fld (pKEEPER .B) KEEPER.TRIAL_FAULTS = 0 ∨ f.val.testBit 1 = true) → s.zone.standbyReady true = true →
    Completes (.commitTable e) s fun z =>
      z.watch.sched = some ⟨some (Code.commit, e.seq), true, f.val.testBit 0⟩ ∧
      z.lastAnswer = some (Code.commit, e.seq, 0, leBytes 4 0) ∧
      z.supv.executing = s.zone.supv.executing ++ [⟨Code.commit, e.seq, false⟩] ∧
      s.zone.Frame [pZONE 0 + ZONE0.SUPV_SEQ_HIGH_LO.off] [.supv, .sleep, .watch] z) ∧
  (∀ (s : State) (e : Envelope) (f : Fin 4), s.zone.Accepts Code.commit e → e.args = leBytes 4 f.val →
    s.zone.role .B ≠ Role.trial → s.zone.role .A = Role.trial → 64 ≤ s.zone.fld (pKEEPER .A) KEEPER.TRIAL_ROUNDS →
    (s.zone.fld (pKEEPER .A) KEEPER.TRIAL_FAULTS = 0 ∨ f.val.testBit 1 = true) → s.zone.standbyReady true = true →
    Completes (.commitTable e) s fun z =>
      z.watch.sched = some ⟨some (Code.commit, e.seq), true, f.val.testBit 0⟩ ∧
      z.lastAnswer = some (Code.commit, e.seq, 0, leBytes 4 0) ∧
      z.supv.executing = s.zone.supv.executing ++ [⟨Code.commit, e.seq, false⟩] ∧
      s.zone.Frame [pZONE 0 + ZONE0.SUPV_SEQ_HIGH_LO.off] [.supv, .sleep, .watch] z) ∧
  (∀ (s : State) (e : Envelope) (f : Fin 4), s.zone.Accepts Code.commit e → e.args = leBytes 4 f.val → s.zone.inTrial = false →
    Completes (.commitTable e) s fun z =>
      z.lastAnswer = some (Code.commit, e.seq, 0, leBytes 4 0x23) ∧ z.supv.executing = s.zone.supv.executing ∧
      s.zone.Frame [pZONE 0 + ZONE0.SUPV_SEQ_HIGH_LO.off] [.supv, .sleep] z) ∧
  (∀ (s : State) (e : Envelope) (f : Fin 4), s.zone.Accepts Code.commit e → e.args = leBytes 4 f.val → s.zone.inTrial = true →
    (s.zone.role .B = Role.trial → s.zone.fld (pKEEPER .B) KEEPER.TRIAL_ROUNDS < 64) →
    (s.zone.role .B ≠ Role.trial → s.zone.role .A ≠ Role.trial ∨ s.zone.fld (pKEEPER .A) KEEPER.TRIAL_ROUNDS < 64) →
    Completes (.commitTable e) s fun z =>
      z.lastAnswer = some (Code.commit, e.seq, 0, leBytes 4 0x24) ∧ z.supv.executing = s.zone.supv.executing ∧
      s.zone.Frame [pZONE 0 + ZONE0.SUPV_SEQ_HIGH_LO.off] [.supv, .sleep] z) ∧
  (∀ (s : State) (e : Envelope) (f : Fin 4), s.zone.Accepts Code.commit e → e.args = leBytes 4 f.val →
    s.zone.role .B = Role.trial → 64 ≤ s.zone.fld (pKEEPER .B) KEEPER.TRIAL_ROUNDS →
    0 < s.zone.fld (pKEEPER .B) KEEPER.TRIAL_FAULTS → f.val.testBit 1 = false → Completes (.commitTable e) s fun z =>
      z.lastAnswer = some (Code.commit, e.seq, 0, leBytes 4 0x25) ∧ z.supv.executing = s.zone.supv.executing ∧
      s.zone.Frame [pZONE 0 + ZONE0.SUPV_SEQ_HIGH_LO.off] [.supv, .sleep] z) ∧
  (∀ (s : State) (e : Envelope) (f : Fin 4), s.zone.Accepts Code.commit e → e.args = leBytes 4 f.val →
    s.zone.role .B = Role.trial → 64 ≤ s.zone.fld (pKEEPER .B) KEEPER.TRIAL_ROUNDS →
    (s.zone.fld (pKEEPER .B) KEEPER.TRIAL_FAULTS = 0 ∨ f.val.testBit 1 = true) → s.zone.standbyReady true = false →
    Completes (.commitTable e) s fun z =>
      z.lastAnswer = some (Code.commit, e.seq, 0, leBytes 4 0x28) ∧ z.supv.executing = s.zone.supv.executing ∧
      s.zone.Frame [pZONE 0 + ZONE0.SUPV_SEQ_HIGH_LO.off] [.supv, .sleep] z) ∧
  (∀ (s : State) (e : Envelope), s.zone.Accepts Code.rollback e → e.args = [] →
    (s.zone.inTrial = true ∨ s.zone.rollbackCheck = 0) → Completes (.rollbackTable e) s fun z =>
      z.watch.change = some (.rollback, some e.seq) ∧ z.lastAnswer = some (Code.rollback, e.seq, 0, leBytes 4 0) ∧
      z.supv.executing = s.zone.supv.executing ++ [⟨Code.rollback, e.seq, false⟩] ∧
      s.zone.Frame [pZONE 0 + ZONE0.SUPV_SEQ_HIGH_LO.off] [.supv, .sleep, .watch] z) ∧
  (∀ (s : State) (e : Envelope), s.zone.Accepts Code.rollback e → e.args = [] → s.zone.inTrial = false →
    s.zone.rollbackCheck ≠ 0 → Completes (.rollbackTable e) s fun z =>
      z.lastAnswer = some (Code.rollback, e.seq, 0, leBytes 4 s.zone.rollbackCheck) ∧ z.supv.executing = s.zone.supv.executing ∧
      s.zone.Frame [pZONE 0 + ZONE0.SUPV_SEQ_HIGH_LO.off] [.supv, .sleep] z) ∧
  (∀ (s : State) (e : Envelope), s.zone.Accepts Code.watch e → e.args = [] → s.zone.inTrial = false →
    s.zone.standbyReady false = true → Completes (.watchChange e) s fun z =>
      z.watch.sched = some ⟨some (Code.watch, e.seq), false, false⟩ ∧ z.lastAnswer = some (Code.watch, e.seq, 0, leBytes 4 0) ∧
      z.supv.executing = s.zone.supv.executing ++ [⟨Code.watch, e.seq, false⟩] ∧
      s.zone.Frame [pZONE 0 + ZONE0.SUPV_SEQ_HIGH_LO.off] [.supv, .sleep, .watch] z) ∧
  (∀ (s : State) (e : Envelope), s.zone.Accepts Code.watch e → e.args = [] →
    (s.zone.inTrial = true ∨ s.zone.standbyReady false = false) → Completes (.watchChange e) s fun z =>
      z.lastAnswer = some (Code.watch, e.seq, 0, leBytes 4 (if s.zone.inTrial then 0x22 else 0x28)) ∧
      z.supv.executing = s.zone.supv.executing ∧ s.zone.Frame [pZONE 0 + ZONE0.SUPV_SEQ_HIGH_LO.off] [.supv, .sleep] z)

/-- R54, R391, R454, R455, R582, R605, R671, R672: each accepted command with an argument in range sets what its rule names and
answers: the requested profile with both profiles; a forced step for the next tick, or a wait of 2 s for a measurement; the
pending sleep with its cause and wake timer, or NO_WAKE_SOURCE with no effect; the numbers of rolled and skipped slots of a key
set; the first free freeze extent from the asked time before now to now, or the reason for none; the start reasons; and no failed
start counted after CLEAR_START_COUNT, which answers the number that was. -/
def Obligations.SupervisorSettingsTakeEffect : Prop :=
  (∀ (s : State) (e : Envelope) (v : Fin 4), s.zone.Accepts Code.profile e → e.args = leBytes 4 v.val →
    Completes (.setProfile e) s fun z =>
      z.fld (pZONE 7) ZONE7.PROFILE_REQ = v.val ∧
      z.fld (pZONE 7) ZONE7.PROFILE_ACTIVE = s.zone.fld (pZONE 7) ZONE7.PROFILE_ACTIVE ∧
      z.lastAnswer = some (Code.profile, e.seq, 0, leBytes 4 (v.val + s.zone.fld (pZONE 7) ZONE7.PROFILE_ACTIVE * 16)) ∧
      z.supv.executing = s.zone.supv.executing ∧
      s.zone.Frame [pZONE 0 + ZONE0.SUPV_SEQ_HIGH_LO.off, pZONE 7 + ZONE7.PROFILE_REQ.off] [.supv, .sleep] z) ∧
  (∀ (s : State) (e : Envelope) (d : BitVec 64), s.zone.Accepts Code.force e → e.args = leBytes 4 1 ++ leBytes 8 d.toNat →
    d.toInt ≠ 0 → -1000000000000000 ≤ d.toInt → d.toInt ≤ 1000000000000000 → Completes (.forceTimeStep e) s fun z =>
      z.time = { s.zone.time with pendingStep := some (e.seq, d.toInt) } ∧
      z.supv.executing = s.zone.supv.executing ++ [⟨Code.force, e.seq, true⟩] ∧ z.supv.replies = s.zone.supv.replies ∧
      s.zone.Frame [pZONE 0 + ZONE0.SUPV_SEQ_HIGH_LO.off] [.supv, .sleep, .time] z) ∧
  (∀ (s : State) (e : Envelope), s.zone.Accepts Code.force e → e.args = leBytes 4 0 ++ leBytes 8 0 →
    Completes (.forceTimeStep e) s fun z =>
      z.time = { s.zone.time with waiting := some ⟨e.seq, s.zone.mono + 2000 * 250000⟩ } ∧
      z.supv.executing = s.zone.supv.executing ++ [⟨Code.force, e.seq, true⟩] ∧ z.supv.replies = s.zone.supv.replies ∧
      s.zone.Frame [pZONE 0 + ZONE0.SUPV_SEQ_HIGH_LO.off] [.supv, .sleep, .time] z) ∧
  (∀ (s : State) (e : Envelope) (v : BitVec 24), s.zone.Accepts Code.sleep e → e.args = leBytes 4 v.toNat →
    (v ≠ 0 ∨ s.zone.anyWakeSource = true) → Completes (.sleepRequest e) s fun z =>
      z.flag (pZONE 0) ZONE0.STATE_SLEEP_PENDING = true ∧ z.flag (pZONE 0) ZONE0.SLEEP_EVENT_PENDING = true ∧
      z.fld (pZONE 0) ZONE0.SLEEP_STATUS_CAUSE = 1 ∧ z.fld (pZONE 0) ZONE0.WAKE_TIMER_SECONDS = v.toNat ∧ z.sleep.phase = 1 ∧
      z.sleep.since = s.zone.mono ∧ z.lastAnswer = some (Code.sleep, e.seq, 0, leBytes 4 0) ∧ z.mode = s.zone.mode ∧
      z.SameMemory s.zone) ∧
  (∀ (s : State) (e : Envelope), s.zone.Accepts Code.sleep e → e.args = leBytes 4 0 → s.zone.anyWakeSource = false →
    Completes (.sleepRequest e) s fun z =>
      z.lastAnswer = some (Code.sleep, e.seq, 0, leBytes 4 0x40) ∧ z.sleep.phase = 0 ∧
      s.zone.Frame [pZONE 0 + ZONE0.SUPV_SEQ_HIGH_LO.off] [.supv, .sleep] z) ∧
  (∀ (s : State) (e : Envelope) (k : Fin 15), s.zone.Accepts Code.roll e → e.args = leBytes 4 (k.val + 1) →
    Completes (.keyRoll e) s fun z =>
      z.lastAnswer = some (Code.roll, e.seq, 0, leBytes 2 (s.zone.slotsOfSet (k.val + 1) true) ++ leBytes 2 (s.zone.slotsOfSet (k.val + 1) false)) ∧
      (∀ n : Fin 256, z.keySlot n.val = if attrSet (s.zone.keySlot n.val).attr = k.val + 1 ∧ (s.zone.keySlot n.val).next.isSome then (s.zone.keySlot n.val).rolled else s.zone.keySlot n.val) ∧
      z.supv.executing = s.zone.supv.executing ∧ s.zone.BankFrame [0, 11] [.supv, .sleep, .keyring] z) ∧
  (∀ (s : State) (e : Envelope) (t : Nat) (k : Fin 4), s.zone.Accepts Code.freeze e → e.args = leBytes 4 t ++ leBytes 4 0 →
    t ≤ 3600 → s.zone.logRuns = true → s.zone.extentActive k.val = false →
    (∀ j : Fin 4, j.val < k.val → s.zone.extentActive j.val = true) → Completes (.logFreeze e) s fun z =>
      z.extentActive k.val = true ∧ z.rd (Zone.extentPage k.val) = BitVec.ofNat 32 ((s.zone.nowNs - t * 1000000000) % 2 ^ 64) ∧
      z.rd (Zone.extentPage k.val + 8) = BitVec.ofNat 32 (s.zone.nowNs % 2 ^ 64) ∧ z.flag pLOG LOG0.LOG_EVENT_FREEZE = true ∧
      z.lastAnswer = some (Code.freeze, e.seq, 0, leBytes 4 0) ∧ z.SameMemory s.zone) ∧
  (∀ (s : State) (e : Envelope) (t : Nat), s.zone.Accepts Code.freeze e → e.args = leBytes 4 t ++ leBytes 4 0 → t ≤ 3600 →
    (s.zone.logRuns = false ∨ ((List.range 4).all fun k => s.zone.extentActive k) = true) → Completes (.logFreeze e) s fun z =>
      z.lastAnswer = some (Code.freeze, e.seq, 0, leBytes 4 (if s.zone.logRuns then 0x60 else 0x61)) ∧
      s.zone.Frame [pZONE 0 + ZONE0.SUPV_SEQ_HIGH_LO.off] [.supv, .sleep] z) ∧
  (∀ (s : State) (e : Envelope), s.zone.Accepts Code.reasons e → e.args = [] → Completes (.readStartReasons e) s fun z =>
      z.lastAnswer = some (Code.reasons, e.seq, 0, s.zone.startReasons) ∧ z.start = s.zone.start ∧
      s.zone.Frame [pZONE 0 + ZONE0.SUPV_SEQ_HIGH_LO.off] [.supv, .sleep] z) ∧
  (∀ (s : State) (e : Envelope), s.zone.Accepts Code.clear e → e.args = [] → Completes (.clearStartCount e) s fun z =>
      z.failedCount = 0 ∧ z.lastAnswer = some (Code.clear, e.seq, 0, leBytes 4 s.zone.failedCount) ∧
      z.start.records = (s.zone.start.records.map fun r => { r with counts := false }) ∧
      s.zone.BankFrame [0] [.supv, .sleep, .start] z)

/-- R400, R401, R404, R518, R519, R521, R605, R608: an accepted unbinding of a bound module clears slot 0, a binding whose tag
verifies stores the unwrapped key there, and both wait for their record and execute until then; a binding whose tag fails is
answered so and changes no slot; an accepted GRANT_RESOURCE quiesces the resource, shows BUSY and executes, or is answered busy
while a grant runs; an accepted operation at least 2 ms ahead, with network time set, whose ID no pending slot holds, takes the
lowest slot that is not pending with its kind, time and parameter, otherwise the first reason against it is answered; a
cancellation of a pending operation marks its slot cancelled and counts it, otherwise it answers why not. That the record write
precedes the response is R595 as log entry 59 reads it. -/
def Obligations.BindingGrantsAndGlobalOperationsAreTaken : Prop :=
  (∀ (s : State) (e : Envelope), s.zone.Accepts Code.bind e → e.args = leBytes 4 1 → Completes (.bindSupervisor e) s fun z =>
      z.keySlot 0 = KeySlot.init ∧ z.flag (pZONE 0) ZONE0.SUPV_BOUND = false ∧ z.keyring.bind = some e.seq ∧
      z.supv.executing = s.zone.supv.executing ++ [⟨Code.bind, e.seq, true⟩] ∧ z.supv.replies = s.zone.supv.replies ∧
      z.SameMemory s.zone) ∧
  (∀ (s : State) (e : Envelope) (x : List Byte × List Byte), s.zone.Accepts Code.bind e → leAt e.args 0 4 = 0 →
    e.args.length = 64 →
    gcmDecrypt (kdf (s.zone.supv.sessionKey.getD []) (kdfFixed "FZ52/BINDWRAP" (leBytes 4 e.seq.toNat)) 256) ((e.args.drop 4).take 12) (e.args.take 4) ((e.args.drop 16).take 32) = x →
    Completes (.bindSupervisor e) s fun z =>
      (x.2 = e.args.drop 48 → (z.keySlot 0).key = padTo 32 x.1 ∧ z.flag (pZONE 0) ZONE0.SUPV_BOUND = true ∧ z.keyring.bind = some e.seq ∧ z.supv.executing = s.zone.supv.executing ++ [⟨Code.bind, e.seq, true⟩]) ∧
      (x.2 ≠ e.args.drop 48 → z.keyring = s.zone.keyring ∧ z.lastAnswer = some (Code.bind, e.seq, 0, leBytes 4 0x70)) ∧
      z.SameMemory s.zone) ∧
  (∀ (s : State) (e : Envelope), s.zone.Accepts Code.grant e → grantArgsOk e.args = true → s.zone.grant = none →
    Completes (.grantResource e) s fun z =>
      z.grant = some ⟨e.args, some e.seq, s.zone.mono⟩ ∧ z.flag pGRANT GRANT.GRANT_STATUS_BUSY = true ∧
      z.fld pGRANT GRANT.GRANT_STATUS_SOURCE = 1 ∧ z.supv.executing = s.zone.supv.executing ++ [⟨Code.grant, e.seq, true⟩] ∧
      z.supv.replies = s.zone.supv.replies ∧ z.SameMemory s.zone) ∧
  (∀ (s : State) (e : Envelope), s.zone.Accepts Code.grant e → grantArgsOk e.args = true → s.zone.grant.isSome = true →
    Completes (.grantResource e) s fun z =>
      z.lastAnswer = some (Code.grant, e.seq, 0, leBytes 4 0x50) ∧ z.supv.executing = s.zone.supv.executing ∧
      s.zone.Frame [pZONE 0 + ZONE0.SUPV_SEQ_HIGH_LO.off] [.supv, .sleep] z) ∧
  (∀ (s : State) (e : Envelope) (k : Fin 16), s.zone.Accepts Code.schedule e → s.zone.globalArgsOk e.args = true →
    s.zone.tstate ≠ TS.unset → s.zone.tstate ≠ TS.coarse → s.zone.nowNs + 2000000 ≤ Zone.globalAt e.args →
    ((List.range 16).all fun j => s.zone.slotState j != 1 || s.zone.slotWord j 0 != leAt e.args 0 4) = true →
    s.zone.slotState k.val ≠ 1 → (∀ j : Fin 16, j.val < k.val → s.zone.slotState j.val = 1) →
    Completes (.scheduleGlobal e) s fun z =>
      z.slotWord k.val 0 = leAt e.args 0 4 ∧ z.slotState k.val = 1 ∧ z.slotKind k.val = leAt e.args 4 2 ∧
      z.slotWord k.val 2 = leAt e.args 16 4 ∧ z.slotWord k.val 5 = leAt e.args 20 4 ∧
      z.lastAnswer = some (Code.schedule, e.seq, 0, leBytes 4 0) ∧ z.SameMemory s.zone) ∧
  (∀ (s : State) (e : Envelope), s.zone.Accepts Code.schedule e → s.zone.globalArgsOk e.args = true →
    (s.zone.tstate = TS.unset ∨ s.zone.tstate = TS.coarse) → Completes (.scheduleGlobal e) s fun z =>
      z.lastAnswer = some (Code.schedule, e.seq, 0, leBytes 4 0x30) ∧
      s.zone.Frame [pZONE 0 + ZONE0.SUPV_SEQ_HIGH_LO.off] [.supv, .sleep] z) ∧
  (∀ (s : State) (e : Envelope), s.zone.Accepts Code.schedule e → s.zone.globalArgsOk e.args = true → s.zone.tstate ≠ TS.unset →
    s.zone.tstate ≠ TS.coarse → Zone.globalAt e.args < s.zone.nowNs + 2000000 → Completes (.scheduleGlobal e) s fun z =>
      z.lastAnswer = some (Code.schedule, e.seq, 0, leBytes 4 0x31) ∧
      z.fld pFLEET TIME1.GLOBAL_COUNTS_TOO_LATE = min (s.zone.fld pFLEET TIME1.GLOBAL_COUNTS_TOO_LATE + 1) (2 ^ TIME1.GLOBAL_COUNTS_TOO_LATE.w - 1) ∧
      s.zone.Frame [pZONE 0 + ZONE0.SUPV_SEQ_HIGH_LO.off, pFLEET + TIME1.GLOBAL_COUNTS_TOO_LATE.off] [.supv, .sleep] z) ∧
  (∀ (s : State) (e : Envelope), s.zone.Accepts Code.schedule e → s.zone.globalArgsOk e.args = true → s.zone.tstate ≠ TS.unset →
    s.zone.tstate ≠ TS.coarse → s.zone.nowNs + 2000000 ≤ Zone.globalAt e.args →
    ((List.range 16).any fun j => s.zone.slotState j == 1 && s.zone.slotWord j 0 == leAt e.args 0 4) = true →
    Completes (.scheduleGlobal e) s fun z =>
      z.lastAnswer = some (Code.schedule, e.seq, 0, leBytes 4 0x32) ∧
      s.zone.Frame [pZONE 0 + ZONE0.SUPV_SEQ_HIGH_LO.off] [.supv, .sleep] z) ∧
  (∀ (s : State) (e : Envelope), s.zone.Accepts Code.schedule e → s.zone.globalArgsOk e.args = true → s.zone.tstate ≠ TS.unset →
    s.zone.tstate ≠ TS.coarse → s.zone.nowNs + 2000000 ≤ Zone.globalAt e.args →
    ((List.range 16).all fun j => s.zone.slotState j == 1 && s.zone.slotWord j 0 != leAt e.args 0 4) = true →
    Completes (.scheduleGlobal e) s fun z =>
      z.lastAnswer = some (Code.schedule, e.seq, 0, leBytes 4 0x33) ∧
      s.zone.Frame [pZONE 0 + ZONE0.SUPV_SEQ_HIGH_LO.off] [.supv, .sleep] z) ∧
  (∀ (s : State) (e : Envelope) (op : BitVec 32) (k : Fin 16), s.zone.Accepts Code.cancel e → e.args = leBytes 4 op.toNat →
    s.zone.slotState k.val = 1 → s.zone.slotWord k.val 0 = op.toNat →
    (∀ j : Fin 16, j.val < k.val → s.zone.slotState j.val ≠ 1 ∨ s.zone.slotWord j.val 0 ≠ op.toNat) →
    Completes (.cancelGlobal e) s fun z =>
      z.slotState k.val = 3 ∧
      z.fld pFLEET TIME1.GLOBAL_COUNTS_CANCELLED = min (s.zone.fld pFLEET TIME1.GLOBAL_COUNTS_CANCELLED + 1) 0xFF ∧
      z.lastAnswer = some (Code.cancel, e.seq, 0, leBytes 4 0) ∧ z.SameMemory s.zone) ∧
  (∀ (s : State) (e : Envelope) (op : BitVec 32), s.zone.Accepts Code.cancel e → e.args = leBytes 4 op.toNat →
    (∀ j : Fin 16, s.zone.slotState j.val ≠ 1 ∨ s.zone.slotWord j.val 0 ≠ op.toNat) → Completes (.cancelGlobal e) s fun z =>
      z.lastAnswer = some (Code.cancel, e.seq, 0, leBytes 4 (if ((List.range 16).any fun j => s.zone.slotState j == 2 && s.zone.slotWord j 0 == op.toNat) = true then 0x35 else 0x34)) ∧
      s.zone.Frame [pZONE 0 + ZONE0.SUPV_SEQ_HIGH_LO.off] [.supv, .sleep] z)

/-! ### Power, starts, test and boot -/

/-- R16, R39, R66, R67, R631, R663: power up enters START from OFF with cause SUPPLY; an orderly reset and more than 1 s of
cranking hold enter OFF with their reason recorded, the keepers and firmware stopped and every load output held open; a due safety
reset in SERVICE, before a sleep's commit point, enters START with its own cause; memory keeps its content but over OFF; a module
in OFF keeps its state. -/
def Obligations.PowerChangesTheModuleState : Prop :=
  (∀ (s : State), s.zone.mode = Mode.off → Completes (.powerUp) s fun z =>
      z.mode = Mode.start ∧ z.fld (pZONE 0) ZONE0.STATE_ENTRY_CAUSE = 1 ∧ z.start.released = false ∧
      z.start.entered = s.zone.mono) ∧
  (∀ (s : State), s.zone.mode ≠ Mode.off → Completes (.orderlyReset) s fun z =>
      z.mode = Mode.off ∧ z.start.released = false ∧ z.role .A = Role.stopped ∧ z.role .B = Role.stopped ∧
      z.fld (pZONE 6) ZONE6.LAST_REASON_CODE = 1 ∧ z.fld (pZONE 6) ZONE6.LAST_REASON_DETAIL = 1 ∧
      (∀ n : Fin 48, (z.load n.val).forced = true) ∧ z.SameMemory s.zone) ∧
  (∀ (s : State), s.zone.mode = Mode.off → Completes (.orderlyReset) s fun z =>
      s.zone.Frame [] [] z) ∧
  (∀ (s : State), s.zone.mode ≠ Mode.off → 250000000 < s.zone.supply.crankTicks → Completes (.crankLimit) s fun z =>
      z.mode = Mode.off ∧ z.start.released = false ∧ z.role .A = Role.stopped ∧ z.role .B = Role.stopped ∧
      z.fld (pZONE 6) ZONE6.LAST_REASON_CODE = 1 ∧ z.fld (pZONE 6) ZONE6.LAST_REASON_DETAIL = 2 ∧
      (∀ n : Fin 48, (z.load n.val).forced = true) ∧ z.SameMemory s.zone) ∧
  (∀ (s : State) (t : Nat), s.zone.safety.resetDue = some t → s.zone.mode = Mode.service → t ≤ s.zone.mono →
    s.zone.sleep.phase < 3 → Completes (.safetyReset) s fun z =>
      z.mode = Mode.start ∧ z.fld (pZONE 0) ZONE0.STATE_ENTRY_CAUSE = 11 ∧ z.fld (pZONE 6) ZONE6.LAST_REASON_CODE = 3 ∧
      z.fld (pZONE 6) ZONE6.LAST_REASON_DETAIL = s.zone.safety.resetSource % 2 ^ 24 ∧ z.start.released = false ∧
      z.SameMemory s.zone)

/-- R648, R650, R651, R652, R653, R655: while the windows hold, a confirmed window is noted and begins phase 1, the last one of
the START blocks phase 2; a lost window is shown as aborted; a BIST that passes begins phase 3, with a keeper that fails it marked
failed, and both keepers or another block that fail it fail the start with their reason; 100 ms without the windows fail the start
with reason WINDOW; a BIST run that secure firmware starts in TEST is counted and shows its result. Which clocks a window watches
is the model's choice (log entry 101). -/
def Obligations.WindowsAndBistOfAStart : Prop :=
  (∀ (s : State) (k : Fin 20), s.zone.mode = Mode.start → s.zone.start.exhausted = false → s.zone.start.judged = false →
    s.zone.windowsHeld = true → (s.zone.phase = 0 ∨ s.zone.phase = 1) → Completes (.windowConfirm k) s fun z =>
      (z.start.confirmed = if s.zone.start.confirmed.contains k.val then s.zone.start.confirmed else k.val :: s.zone.start.confirmed) ∧
      (z.phase = if startBlocks.all (k.val :: s.zone.start.confirmed).contains = true then 2 else 1) ∧
      z.flag (pTEST 0) TEST0.BIST_STATUS_RUNNING = (s.zone.flag (pTEST 0) TEST0.BIST_STATUS_RUNNING || startBlocks.all (k.val :: s.zone.start.confirmed).contains) ∧
      s.zone.Frame [pZONE 6 + ZONE6.START_STATUS_PHASE.off, pTEST 0 + TEST0.BIST_STATUS_RUNNING.off] [.start] z) ∧
  (∀ (s : State) (k : Fin 20), s.zone.mode = Mode.start → s.zone.start.confirmed.contains k.val = true → s.zone.phase = 2 →
    Completes (.bistWindowAbort k) s fun z =>
      z.start.confirmed = s.zone.start.confirmed.erase k.val ∧ z.bistCode k.val = 3 ∧
      z.fld (pTEST 0) TEST0.BIST_COUNTS_WINDOW_ABORTS = min (s.zone.fld (pTEST 0) TEST0.BIST_COUNTS_WINDOW_ABORTS + 1) 0xFFFF ∧
      s.zone.BankFrame [15] [.start] z) ∧
  (∀ (s : State) (l : List BlockBist), s.zone.mode = Mode.start → s.zone.phase = 2 →
    startBlocks.all s.zone.start.confirmed.contains = true → (∀ b : Fin 15, s.zone.bistVerdict l b.val = none) →
    Completes (.bistDone l) s fun z =>
      z.phase = 3 ∧ z.mode = Mode.start ∧ z.start.judged = true ∧ z.role .A = s.zone.role .A ∧ z.role .B = s.zone.role .B ∧
      z.flag (pTEST 0) TEST0.BIST_STATUS_RUNNING = false) ∧
  (∀ (s : State) (l : List BlockBist) (k : Keeper), s.zone.mode = Mode.start → s.zone.phase = 2 →
    startBlocks.all s.zone.start.confirmed.contains = true → s.zone.bistVerdict l k.idx ≠ none →
    (∀ b : Fin 15, b.val ≠ k.idx → s.zone.bistVerdict l b.val = none) → Completes (.bistDone l) s fun z =>
      z.phase = 3 ∧ z.mode = Mode.start ∧ z.start.judged = true ∧ (z.role k = Role.failed ∨ z.role k = Role.fenced) ∧
      z.flag (pTEST 0) TEST0.BIST_STATUS_RUNNING = false) ∧
  (∀ (s : State) (l : List BlockBist), s.zone.startCounts = true → s.zone.phase = 2 →
    startBlocks.all s.zone.start.confirmed.contains = true → s.zone.bistVerdict l 0 ≠ none → s.zone.bistVerdict l 1 ≠ none →
    Completes (.bistDone l) s fun z =>
      z.fld (pZONE 6) ZONE6.LAST_REASON_CODE = 0x13 ∧ (z.mode = Mode.start ∨ z.mode = Mode.lightship) ∧
      (z.start.judged = false ∨ z.mode = Mode.lightship)) ∧
  (∀ (s : State) (l : List BlockBist) (b : Fin 15) (i : Option Nat), s.zone.startCounts = true → s.zone.phase = 2 →
    startBlocks.all s.zone.start.confirmed.contains = true → (s.zone.bistVerdict l 0 = none ∨ s.zone.bistVerdict l 1 = none) →
    2 ≤ b.val → s.zone.bistVerdict l b.val = some i →
    (∀ c : Fin 15, 2 ≤ c.val → c.val < b.val → s.zone.bistVerdict l c.val = none) → Completes (.bistDone l) s fun z =>
      (z.fld (pZONE 6) ZONE6.LAST_REASON_CODE = if i.isSome then 0x12 else 0x11) ∧
      (z.fld (pZONE 6) ZONE6.LAST_REASON_DETAIL = match i with | some n => (b.val * 256 + n) % 2 ^ 24 | none => b.val) ∧
      (z.mode = Mode.start ∨ z.mode = Mode.lightship)) ∧
  (∀ (s : State) (d : Option (Fin 10)), s.zone.startCounts = true → s.zone.start.judged = false →
    startBlocks.all s.zone.start.confirmed.contains = false → s.zone.start.entered + 25000000 ≤ s.zone.mono →
    Completes (.windowTimeout d) s fun z =>
      (if s.zone.phase = 0 then s.zone.setPhase 1 else s.zone).FailsStart z 0x10 (BitVec.ofNat 32 (s.zone.windowDetail d))) ∧
  (∀ (s : State) (src : Source) (b : BitVec 6) (x : Option (Fin 64 × Word)), s.zone.start.released = true → src.world = .secure →
    s.zone.mode = Mode.test → blockLogic b.toNat = true → (b.toNat < 18 ∨ s.zone.lifeCycle = 1 ∨ s.zone.lifeCycle = 3) →
    Completes (.logicBistStart (.firmware src) b x) s fun z =>
      (z.bistCode b.toNat = if x.isSome then 2 else 1) ∧
      z.fld (pTEST 0) TEST0.BIST_COUNTS_RUNS = min (s.zone.fld (pTEST 0) TEST0.BIST_COUNTS_RUNS + 1) 0xFFFF ∧ z.mode = Mode.test) ∧
  (∀ (s : State) (src : Source) (b : BitVec 6) (l : List MemoryRun), s.zone.start.released = true → src.world = .secure →
    s.zone.mode = Mode.test → blockMemory b.toNat = true → (b.toNat < 18 ∨ s.zone.lifeCycle = 1 ∨ s.zone.lifeCycle = 3) →
    Completes (.memoryBistStart (.firmware src) b l) s fun z =>
      ((∀ r ∈ l, r.fails = [] ∧ r.again = []) → z.bistCode b.toNat = 1) ∧ ((∃ r ∈ l, r.again ≠ []) → z.bistCode b.toNat = 2) ∧
      (z.bistCode b.toNat = 1 ∨ z.bistCode b.toNat = 2 ∨ z.bistCode b.toNat = 4) ∧
      z.fld (pTEST 0) TEST0.BIST_COUNTS_RUNS = min (s.zone.fld (pTEST 0) TEST0.BIST_COUNTS_RUNS + 1) 0xFFFF ∧ z.mode = Mode.test)

/-- R654, R662, R667: in TEST of a FACTORY or RETURN module, a sound repair entry that reads back is appended to the fuses with
result 0, any other changes no fuse and shows its reason; every 60 s the life time is saved; in LIGHTSHIP every 100 ms the next
counted start record is sent on CAN.0 where the reporter is enabled. -/
def Obligations.RepairEntriesAreProgrammed : Prop :=
  (∀ (s : State) (src : Source), s.zone.start.released = true → src.world = .secure → s.zone.mode = Mode.test →
    (s.zone.lifeCycle = 1 ∨ s.zone.lifeCycle = 3) → s.zone.fuses.repair.length < 64 →
    bitOf (s.zone.rd (pTEST 1 + TEST1.REPAIR_ENTRY_ENTRY.off)) 31 = true →
    blockMemory ((s.zone.rd (pTEST 1 + TEST1.REPAIR_ENTRY_ENTRY.off)).toNat / 2 ^ 24 % 64) = true →
    ((s.zone.rd (pTEST 1 + TEST1.REPAIR_ENTRY_ENTRY.off)).toNat / 2 ^ 16 % 16 ≤ if bitOf (s.zone.rd (pTEST 1 + TEST1.REPAIR_ENTRY_ENTRY.off)) 30 then 3 else 7) →
    Completes (.repairProg (.firmware src) true) s fun z =>
      z.fuses = { s.zone.fuses with repair := SMap.set (fun _ => 0) s.zone.fuses.repair s.zone.fuses.repair.length (s.zone.rd (pTEST 1 + TEST1.REPAIR_ENTRY_ENTRY.off)) } ∧
      z.fld (pTEST 1) TEST1.REPAIR_RESULT_CODE = 0 ∧ s.zone.Frame [pTEST 1 + TEST1.REPAIR_RESULT_CODE.off] [.fuses] z) ∧
  (∀ (s : State) (src : Source) (g : Bool), s.zone.start.released = true → src.world = .secure →
    (g = false ∨ s.zone.mode ≠ Mode.test ∨ (s.zone.lifeCycle ≠ 1 ∧ s.zone.lifeCycle ≠ 3) ∨ 64 ≤ s.zone.fuses.repair.length ∨ bitOf (s.zone.rd (pTEST 1 + TEST1.REPAIR_ENTRY_ENTRY.off)) 31 = false ∨ blockMemory ((s.zone.rd (pTEST 1 + TEST1.REPAIR_ENTRY_ENTRY.off)).toNat / 2 ^ 24 % 64) = false ∨ (if bitOf (s.zone.rd (pTEST 1 + TEST1.REPAIR_ENTRY_ENTRY.off)) 30 then 3 else 7) < (s.zone.rd (pTEST 1 + TEST1.REPAIR_ENTRY_ENTRY.off)).toNat / 2 ^ 16 % 16) →
    Completes (.repairProg (.firmware src) g) s fun z =>
      (z.fld (pTEST 1) TEST1.REPAIR_RESULT_CODE = if s.zone.mode ≠ Mode.test ∨ (s.zone.lifeCycle ≠ 1 ∧ s.zone.lifeCycle ≠ 3) then 1 else if 64 ≤ s.zone.fuses.repair.length then 2 else if bitOf (s.zone.rd (pTEST 1 + TEST1.REPAIR_ENTRY_ENTRY.off)) 31 = false ∨ blockMemory ((s.zone.rd (pTEST 1 + TEST1.REPAIR_ENTRY_ENTRY.off)).toNat / 2 ^ 24 % 64) = false ∨ (if bitOf (s.zone.rd (pTEST 1 + TEST1.REPAIR_ENTRY_ENTRY.off)) 30 then 3 else 7) < (s.zone.rd (pTEST 1 + TEST1.REPAIR_ENTRY_ENTRY.off)).toNat / 2 ^ 16 % 16 then 3 else 4) ∧
      s.zone.Frame [pTEST 1 + TEST1.REPAIR_RESULT_CODE.off] [] z) ∧
  (∀ (s : State), s.zone.mode ≠ Mode.off → s.zone.start.savedAt + 15000000000 ≤ s.zone.mono → Completes (.lifeTimeSave) s fun z =>
      z.start = { s.zone.start with lifeSaved := s.zone.lifeTime, savedAt := s.zone.mono } ∧ s.zone.Frame [] [.start] z) ∧
  (∀ (s : State) (t k : Nat) (r : StartRec), s.zone.mode = Mode.lightship → s.zone.start.reportAt = some t →
    t + 25000000 ≤ s.zone.mono →
    (k = if s.zone.start.reportIdx < (s.zone.start.records.filter (·.counts)).length then s.zone.start.reportIdx else 0) →
    (s.zone.start.records.filter (·.counts))[k]? = some r → s.zone.flag (pZONE 6) ZONE6.REPORT_CFG_EN = true →
    Completes (.startReport) s fun z =>
      z.start = { s.zone.start with reportIdx := k + 1, reportAt := some s.zone.mono } ∧
      (z.can 0).pend = (s.zone.can 0).pend ++ [⟨s.zone.reportFrame (s.zone.start.records.filter (·.counts)).length k r, false, none, s.zone.mono, false⟩] ∧
      s.zone.Frame [pCAN 0 + CAN.CHAN_STATUS_PENDING.off] [.start, .cans] z) ∧
  (∀ (s : State) (t : Nat), s.zone.mode = Mode.lightship → s.zone.start.reportAt = some t → t + 25000000 ≤ s.zone.mono →
    (s.zone.flag (pZONE 6) ZONE6.REPORT_CFG_EN = false ∨ s.zone.start.records.filter (·.counts) = []) →
    Completes (.startReport) s fun z =>
      z.start = { s.zone.start with reportAt := some s.zone.mono } ∧ s.zone.Frame [] [.start] z)

/-- R648, R656, R657, R659, R660, R661: the boot ROM leads to phase 4, and stops in BLANK and SCRAP; an accepted lightship image
leads to phase 5, a refused one fails the start; verified boot images release the clusters at the entry they name and refused ones
fail the start; an accepted service table leads to phase 7, a refused or unreadable one fails the start; SERVICE begins at a round
boundary once everything is ready; the deadline fails a start; secure firmware reports itself ready. -/
def Obligations.BootPhasesFollowTheirVerdicts : Prop :=
  (∀ (s : State) (r : Bool) (l : Option (List Byte)), s.zone.mode = Mode.start → s.zone.phase = 3 → s.zone.root.isSome = true →
    Completes (.bootRomDone r l) s fun z =>
      z.phase = 4 ∧ z.mode = Mode.start ∧ z.start = { s.zone.start with partition := l } ∧
      (z.supv.noticeDue = if z.supv.sessionKey.isSome then some 0 else none) ∧ z.SameMemory s.zone) ∧
  (∀ (s : State) (r : Bool) (l : Option (List Byte)), s.zone.mode = Mode.start → s.zone.phase = 3 → s.zone.root = none →
    Completes (.bootRomDone r l) s fun z =>
      z.phase = 3 ∧ z.mode = Mode.start ∧ z.start = s.zone.start) ∧
  (∀ (s : State), s.zone.mode = Mode.start → s.zone.phase = 4 → s.zone.startCounts = true → Completes (.lsVerdict) s fun z =>
      (∀ l, s.zone.lsVerdict = some (l, none) → z.phase = 5 ∧ z.start.lsVersion = some (tableOf l).version ∧ z.watch.change = some (.start, none)) ∧
      ((∀ l, s.zone.lsVerdict ≠ some (l, none)) → s.zone.FailsStart z 0x20 (Zone.imageDetail (s.zone.lsVerdict.bind fun x => x.2)))) ∧
  (∀ (s : State) (h a b : List Byte), s.zone.mode = Mode.start → s.zone.phase = 6 → s.zone.start.released = false →
    s.zone.startCounts = true → Completes (.bootImagesVerified h a b) s fun z =>
      (s.zone.bootCheck h a b = none → z.start.released = true ∧ z.start.entry = BitVec.ofNat 64 (leAt h 0x18 8) ∧ z.phase = (if s.zone.maintenance then 7 else 6)) ∧
      (∀ d, s.zone.bootCheck h a b = some d → s.zone.FailsStart z 0x21 (BitVec.ofNat 32 d))) ∧
  (∀ (s : State) (l : List Byte), s.zone.mode = Mode.start → s.zone.phase = 6 → s.zone.start.released = true →
    s.zone.maintenance = false → s.zone.startCounts = true → Completes (.serviceTableVerdict (some l)) s fun z =>
      (s.zone.loaderCheck 0 l = none → z.phase = 7 ∧ z.watch.change = some (TableChange.start, none) ∧ z.SameMemory s.zone) ∧
      (∀ e, s.zone.loaderCheck 0 l = some e → s.zone.FailsStart z 0x22 (Zone.imageDetail (some e)))) ∧
  (∀ (s : State), s.zone.mode = Mode.start → s.zone.phase = 6 → s.zone.start.released = true → s.zone.maintenance = false →
    s.zone.startCounts = true → Completes (.serviceTableVerdict none) s fun z =>
      s.zone.FailsStart z 0x22 0xFF0000) ∧
  (∀ (s : State) (src : Source), s.zone.start.released = true → src.world = .secure →
    Completes (.safetyReady (.firmware src)) s fun z =>
      z.flag (pZONE 6) ZONE6.READY_SAFETY = true ∧ s.zone.Frame [pZONE 6 + ZONE6.READY_SAFETY.off] [] z) ∧
  (∀ (s : State), s.zone.mode = Mode.start → s.zone.startReady = true → Completes (.startComplete) s fun z =>
      z.mode = Mode.service ∧ z.phase = 8 ∧ z.fld (pZONE 0) ZONE0.STATE_ENTRY_CAUSE = 3 ∧ z.start.serviceAt = some s.zone.mono ∧
      z.fld (pZONE 6) ZONE6.START_TIMES_T_SERVICE = min ((s.zone.mono - s.zone.start.entered) / 250000) 65535 ∧
      z.SameMemory s.zone) ∧
  (∀ (s : State), s.zone.startCounts = true →
    s.zone.start.entered + s.zone.fld (pZONE 6) ZONE6.START_CFG_DEADLINE * 250000 ≤ s.zone.mono →
    Completes (.startDeadline) s fun z =>
      s.zone.FailsStart z 0x30 (BitVec.ofNat 32 s.zone.phase))

/-- R611, R612, R613, R614, R673: a request of the test port or of secure firmware for FACTORY (test port alone), FIELD, RETURN
(not the test port) or SCRAP from the state before it begins to blow its bit, any other shows code 1; FACTORY without its root
shows 4 and a RETURN without a valid token 2, each with no fuse changed; SCRAP erases the keyring record; once the copies are
blown START follows, with code 3 where fewer than two verify; DEBUG_OPEN bits and, in SERVICE, the lightship version floor take
the writes of secure firmware. -/
def Obligations.LifeCycleAndDebugAdvance : Prop :=
  (∀ (s : State) (w : Writer) (tp : Bool), (tp = true ∨ (s.zone.writerActs w = true ∧ Zone.secureWriter w = true)) →
    s.zone.logicRuns = true → s.zone.fuses.advancing = none → tp = true → s.zone.lifeCycle = 0 →
    Completes (.lcToFactory w tp) s fun z =>
      (s.zone.rootOk = true → z.fuses = { s.zone.fuses with advancing := some 0 } ∧ z.rd (pTEST 2 + TEST2.LC_RESULT_CODE.off) = s.zone.rd (pTEST 2 + TEST2.LC_RESULT_CODE.off)) ∧
      (s.zone.rootOk = false → z.fuses = s.zone.fuses ∧ z.fld (pTEST 2) TEST2.LC_RESULT_CODE = 4) ∧
      s.zone.Frame [pTEST 2 + TEST2.LC_RESULT_CODE.off] [.fuses] z) ∧
  (∀ (s : State) (w : Writer) (tp : Bool), (tp = true ∨ (s.zone.writerActs w = true ∧ Zone.secureWriter w = true)) →
    s.zone.logicRuns = true → s.zone.fuses.advancing = none → (s.zone.lifeCycle ≠ 0 ∨ tp = false) →
    Completes (.lcToFactory w tp) s fun z =>
      z.fld (pTEST 2) TEST2.LC_RESULT_CODE = 1 ∧ s.zone.Frame [pTEST 2 + TEST2.LC_RESULT_CODE.off] [] z) ∧
  (∀ (s : State) (w : Writer) (tp : Bool), (tp = true ∨ (s.zone.writerActs w = true ∧ Zone.secureWriter w = true)) →
    s.zone.logicRuns = true → s.zone.fuses.advancing = none → s.zone.lifeCycle = 1 → Completes (.lcToField w tp) s fun z =>
      z.fuses = { s.zone.fuses with advancing := some 1 } ∧ s.zone.Frame [] [.fuses] z) ∧
  (∀ (s : State) (w : Writer) (tp : Bool), (tp = true ∨ (s.zone.writerActs w = true ∧ Zone.secureWriter w = true)) →
    s.zone.logicRuns = true → s.zone.fuses.advancing = none → s.zone.lifeCycle ≠ 1 → Completes (.lcToField w tp) s fun z =>
      z.fld (pTEST 2) TEST2.LC_RESULT_CODE = 1 ∧ s.zone.Frame [pTEST 2 + TEST2.LC_RESULT_CODE.off] [] z) ∧
  (∀ (s : State) (w : Writer) (tp : Bool), (tp = true ∨ (s.zone.writerActs w = true ∧ Zone.secureWriter w = true)) →
    s.zone.logicRuns = true → s.zone.fuses.advancing = none → tp = false → s.zone.lifeCycle = 2 →
    Completes (.lcToReturn w tp) s fun z =>
      (s.zone.tokenValid = true → z.fuses = { s.zone.fuses with advancing := some 2 }) ∧
      (s.zone.tokenValid = false → z.fuses = s.zone.fuses ∧ z.fld (pTEST 2) TEST2.LC_RESULT_CODE = 2) ∧
      s.zone.Frame [pTEST 2 + TEST2.LC_RESULT_CODE.off] [.fuses] z) ∧
  (∀ (s : State) (w : Writer) (tp : Bool), (tp = true ∨ (s.zone.writerActs w = true ∧ Zone.secureWriter w = true)) →
    s.zone.logicRuns = true → s.zone.fuses.advancing = none → (s.zone.lifeCycle ≠ 2 ∨ tp = true) →
    Completes (.lcToReturn w tp) s fun z =>
      z.fld (pTEST 2) TEST2.LC_RESULT_CODE = 1 ∧ s.zone.Frame [pTEST 2 + TEST2.LC_RESULT_CODE.off] [] z) ∧
  (∀ (s : State) (w : Writer) (tp : Bool), (tp = true ∨ (s.zone.writerActs w = true ∧ Zone.secureWriter w = true)) →
    s.zone.logicRuns = true → s.zone.fuses.advancing = none → s.zone.lifeCycle ≠ 4 → Completes (.lcToScrap w tp) s fun z =>
      z.fuses = { s.zone.fuses with advancing := some 3 } ∧ z.keyring = { s.zone.keyring with record := none } ∧
      s.zone.Frame [] [.fuses, .keyring] z) ∧
  (∀ (s : State) (w : Writer) (tp : Bool), (tp = true ∨ (s.zone.writerActs w = true ∧ Zone.secureWriter w = true)) →
    s.zone.logicRuns = true → s.zone.fuses.advancing = none → s.zone.lifeCycle = 4 → Completes (.lcToScrap w tp) s fun z =>
      z.fld (pTEST 2) TEST2.LC_RESULT_CODE = 1 ∧ s.zone.Frame [pTEST 2 + TEST2.LC_RESULT_CODE.off] [] z) ∧
  (∀ (s : State) (b : Nat) (n : Fin 4), s.zone.fuses.advancing = some b → s.zone.logicRuns = true →
    Completes (.lcAdvanceDone n) s fun z =>
      z.mode = Mode.start ∧ z.fld (pZONE 0) ZONE0.STATE_ENTRY_CAUSE = 6 ∧ z.fuses.advancing = none ∧
      z.fuses.lc = SMap.set (fun _ => 0) s.zone.fuses.lc b n.val ∧ (n.val < 2 → z.fld (pTEST 2) TEST2.LC_RESULT_CODE = 3)) ∧
  (∀ (s : State) (src : Source), s.zone.start.released = true → src.world = .secure →
    Completes (.debugOpenApp (.firmware src)) s fun z =>
      z.flag (pTEST 2) TEST2.DEBUG_OPEN_APP = true ∧ s.zone.Frame [pTEST 2 + TEST2.DEBUG_OPEN_APP.off] [] z) ∧
  (∀ (s : State) (src : Source), s.zone.start.released = true → src.world = .secure →
    Completes (.debugOpenSafety (.firmware src)) s fun z =>
      z.flag (pTEST 2) TEST2.DEBUG_OPEN_SAFETY = true ∧ s.zone.Frame [pTEST 2 + TEST2.DEBUG_OPEN_SAFETY.off] [] z) ∧
  (∀ (s : State) (src : Source) (v : BitVec 32), s.zone.start.released = true → src.world = .secure →
    s.zone.mode = Mode.service → s.zone.start.lsVersion = some v → Completes (.lsRaiseFloor (.firmware src)) s fun z =>
      z.fld (pZONE 1) KEEPER.FLOOR_LIGHTSHIP_VERSION = max v.toNat (s.zone.fld (pZONE 1) KEEPER.FLOOR_LIGHTSHIP_VERSION) ∧
      s.zone.Frame [pZONE 1 + KEEPER.FLOOR_LIGHTSHIP_VERSION.off] [] z)

/-! ### Tamva -/

/-- R127, R128, R129: in a step, each format A instruction writes the result of its operation to Wd, or nowhere for W0, sets Z, N,
C and V where F is 1 and leaves them otherwise, costs its cycles, and changes nothing else. -/
def Obligations.FormatAComputes : Prop :=
  (∀ (s : State) (k : Keeper) (wd ws wt : Fin 16) (f : Bool) (a b : Word), s.zone.InStep k → s.zone.getW k ws = a →
    s.zone.getW k wt = b → Completes (.opAdd k wd ws wt f) s fun z =>
      s.zone.Computes z k 1 wd (a + b) (if f then ⟨decide (a + b = 0#32), BitVec.msb (a + b), decide (4294967295 < a.toNat + b.toNat), decide (a.toInt + b.toInt < -2147483648 ∨ 2147483647 < a.toInt + b.toInt)⟩ else s.zone.flags k)) ∧
  (∀ (s : State) (k : Keeper) (wd ws wt : Fin 16) (f : Bool) (a b : Word), s.zone.InStep k → s.zone.getW k ws = a →
    s.zone.getW k wt = b → Completes (.opSub k wd ws wt f) s fun z =>
      s.zone.Computes z k 1 wd (a - b) (if f then ⟨decide (a - b = 0#32), BitVec.msb (a - b), decide (b.toNat ≤ a.toNat), decide (a.toInt - b.toInt < -2147483648 ∨ 2147483647 < a.toInt - b.toInt)⟩ else s.zone.flags k)) ∧
  (∀ (s : State) (k : Keeper) (wd ws wt : Fin 16) (f : Bool) (a b : Word), s.zone.InStep k → s.zone.getW k ws = a →
    s.zone.getW k wt = b → Completes (.opAnd k wd ws wt f) s fun z =>
      s.zone.Computes z k 1 wd (a &&& b) (if f then ⟨decide (a &&& b = 0#32), BitVec.msb (a &&& b), false, false⟩ else s.zone.flags k)) ∧
  (∀ (s : State) (k : Keeper) (wd ws wt : Fin 16) (f : Bool) (a b : Word), s.zone.InStep k → s.zone.getW k ws = a →
    s.zone.getW k wt = b → Completes (.opOr k wd ws wt f) s fun z =>
      s.zone.Computes z k 1 wd (a ||| b) (if f then ⟨decide (a ||| b = 0#32), BitVec.msb (a ||| b), false, false⟩ else s.zone.flags k)) ∧
  (∀ (s : State) (k : Keeper) (wd ws wt : Fin 16) (f : Bool) (a b : Word), s.zone.InStep k → s.zone.getW k ws = a →
    s.zone.getW k wt = b → Completes (.opXor k wd ws wt f) s fun z =>
      s.zone.Computes z k 1 wd (a ^^^ b) (if f then ⟨decide (a ^^^ b = 0#32), BitVec.msb (a ^^^ b), false, false⟩ else s.zone.flags k)) ∧
  (∀ (s : State) (k : Keeper) (wd ws wt : Fin 16) (f u : Bool) (a b : Word), s.zone.InStep k → s.zone.getW k ws = a →
    s.zone.getW k wt = b → Completes (.opMul k wd ws wt f u) s fun z =>
      s.zone.Computes z k 3 wd (a * b) (if f then ⟨decide (a * b = 0#32), BitVec.msb (a * b), false, (if u then decide (4294967295 < a.toNat * b.toNat) else decide (a.toInt * b.toInt < -2147483648 ∨ 2147483647 < a.toInt * b.toInt))⟩ else s.zone.flags k)) ∧
  (∀ (s : State) (k : Keeper) (wd ws wt : Fin 16) (f u : Bool) (a b : Word), s.zone.InStep k → s.zone.getW k ws = a →
    s.zone.getW k wt = b → Completes (.opMulh k wd ws wt f u) s fun z =>
      s.zone.Computes z k 3 wd (if u then (a.setWidth 64 * b.setWidth 64).extractLsb' 32 32 else (a.signExtend 64 * b.signExtend 64).extractLsb' 32 32) (if f then ⟨decide ((if u then (a.setWidth 64 * b.setWidth 64).extractLsb' 32 32 else (a.signExtend 64 * b.signExtend 64).extractLsb' 32 32) = 0#32), BitVec.msb (if u then (a.setWidth 64 * b.setWidth 64).extractLsb' 32 32 else (a.signExtend 64 * b.signExtend 64).extractLsb' 32 32), false, false⟩ else s.zone.flags k)) ∧
  (∀ (s : State) (k : Keeper) (wd ws wt : Fin 16) (f u : Bool) (a b : Word), s.zone.InStep k → s.zone.getW k ws = a →
    s.zone.getW k wt = b → Completes (.opMin k wd ws wt f u) s fun z =>
      s.zone.Computes z k 1 wd (if (if u then a.toNat ≤ b.toNat else a.toInt ≤ b.toInt) then a else b) (if f then ⟨decide ((if (if u then a.toNat ≤ b.toNat else a.toInt ≤ b.toInt) then a else b) = 0#32), BitVec.msb (if (if u then a.toNat ≤ b.toNat else a.toInt ≤ b.toInt) then a else b), false, false⟩ else s.zone.flags k)) ∧
  (∀ (s : State) (k : Keeper) (wd ws wt : Fin 16) (f u : Bool) (a b : Word), s.zone.InStep k → s.zone.getW k ws = a →
    s.zone.getW k wt = b → Completes (.opMax k wd ws wt f u) s fun z =>
      s.zone.Computes z k 1 wd (if (if u then a.toNat ≤ b.toNat else a.toInt ≤ b.toInt) then b else a) (if f then ⟨decide ((if (if u then a.toNat ≤ b.toNat else a.toInt ≤ b.toInt) then b else a) = 0#32), BitVec.msb (if (if u then a.toNat ≤ b.toNat else a.toInt ≤ b.toInt) then b else a), false, false⟩ else s.zone.flags k)) ∧
  (∀ (s : State) (k : Keeper) (wd ws : Fin 16) (x : Amount) (f : Bool) (a : Word) (n : Nat), s.zone.InStep k →
    s.zone.getW k ws = a → n = (match x with | .reg w => (s.zone.getW k w).toNat % 32 | .imm i => i.val) →
    Completes (.opShl k wd ws x f) s fun z =>
      s.zone.Computes z k 1 wd (a <<< n) (if f then ⟨decide (a <<< n = 0#32), BitVec.msb (a <<< n), decide (0 < n) && a.getLsbD (32 - n), false⟩ else s.zone.flags k)) ∧
  (∀ (s : State) (k : Keeper) (wd ws : Fin 16) (x : Amount) (f : Bool) (a : Word) (n : Nat), s.zone.InStep k →
    s.zone.getW k ws = a → n = (match x with | .reg w => (s.zone.getW k w).toNat % 32 | .imm i => i.val) →
    Completes (.opShr k wd ws x f) s fun z =>
      s.zone.Computes z k 1 wd (a >>> n) (if f then ⟨decide (a >>> n = 0#32), BitVec.msb (a >>> n), decide (0 < n) && a.getLsbD (n - 1), false⟩ else s.zone.flags k)) ∧
  (∀ (s : State) (k : Keeper) (wd ws : Fin 16) (x : Amount) (f : Bool) (a : Word) (n : Nat), s.zone.InStep k →
    s.zone.getW k ws = a → n = (match x with | .reg w => (s.zone.getW k w).toNat % 32 | .imm i => i.val) →
    Completes (.opSra k wd ws x f) s fun z =>
      s.zone.Computes z k 1 wd (a.sshiftRight n) (if f then ⟨decide (a.sshiftRight n = 0#32), BitVec.msb (a.sshiftRight n), decide (0 < n) && a.getLsbD (n - 1), false⟩ else s.zone.flags k)) ∧
  (∀ (s : State) (k : Keeper) (wd ws : Fin 16) (i : Fin 32) (f u : Bool) (a : Word) (r : Int), s.zone.InStep k →
    s.zone.getW k ws = a →
    r = max (if u then 0 else -2 ^ i.val) (min (if u then 2 ^ (i.val + 1) - 1 else 2 ^ i.val - 1) a.toInt) →
    Completes (.opSat k wd ws i f u) s fun z =>
      s.zone.Computes z k 1 wd (BitVec.ofInt 32 r) (if f then ⟨decide (BitVec.ofInt 32 r = 0#32), BitVec.msb (BitVec.ofInt 32 r), false, decide (r ≠ a.toInt)⟩ else s.zone.flags k))

/-- R126, R131, R132: in a step, the format B instructions extend IMM as their rule says, write Wd, set the flags where F is 1
(CMPI, CMP and TST always, LUI never), and change nothing else. -/
def Obligations.ImmediatesAndComparesCompute : Prop :=
  (∀ (s : State) (k : Keeper) (wd ws : Fin 16) (f : Bool) (m : BitVec 16) (a : Word), s.zone.InStep k → s.zone.getW k ws = a →
    Completes (.opAddi k wd ws f m) s fun z =>
      s.zone.Computes z k 1 wd (a + m.signExtend 32) (if f then ⟨decide (a + m.signExtend 32 = 0#32), BitVec.msb (a + m.signExtend 32), decide (4294967295 < a.toNat + (m.signExtend 32).toNat), decide (a.toInt + m.toInt < -2147483648 ∨ 2147483647 < a.toInt + m.toInt)⟩ else s.zone.flags k)) ∧
  (∀ (s : State) (k : Keeper) (wd ws : Fin 16) (f : Bool) (m : BitVec 16) (a : Word), s.zone.InStep k → s.zone.getW k ws = a →
    Completes (.opAndi k wd ws f m) s fun z =>
      s.zone.Computes z k 1 wd (a &&& m.setWidth 32) (if f then ⟨decide (a &&& m.setWidth 32 = 0#32), BitVec.msb (a &&& m.setWidth 32), false, false⟩ else s.zone.flags k)) ∧
  (∀ (s : State) (k : Keeper) (wd ws : Fin 16) (f : Bool) (m : BitVec 16) (a : Word), s.zone.InStep k → s.zone.getW k ws = a →
    Completes (.opOri k wd ws f m) s fun z =>
      s.zone.Computes z k 1 wd (a ||| m.setWidth 32) (if f then ⟨decide (a ||| m.setWidth 32 = 0#32), BitVec.msb (a ||| m.setWidth 32), false, false⟩ else s.zone.flags k)) ∧
  (∀ (s : State) (k : Keeper) (wd ws : Fin 16) (f : Bool) (m : BitVec 16) (a : Word), s.zone.InStep k → s.zone.getW k ws = a →
    Completes (.opXori k wd ws f m) s fun z =>
      s.zone.Computes z k 1 wd (a ^^^ m.setWidth 32) (if f then ⟨decide (a ^^^ m.setWidth 32 = 0#32), BitVec.msb (a ^^^ m.setWidth 32), false, false⟩ else s.zone.flags k)) ∧
  (∀ (s : State) (k : Keeper) (wd : Fin 16) (m : BitVec 16), s.zone.InStep k → Completes (.opLui k wd m) s fun z =>
      s.zone.Computes z k 1 wd (m ++ 0#16) (s.zone.flags k)) ∧
  (∀ (s : State) (k : Keeper) (ws : Fin 16) (m : BitVec 16) (a : Word), s.zone.InStep k → s.zone.getW k ws = a →
    Completes (.opCmpi k ws m) s fun z =>
      s.zone.Computes z k 1 0 0 ⟨decide (a = m.signExtend 32), BitVec.msb (a - m.signExtend 32), decide ((m.signExtend 32).toNat ≤ a.toNat), decide (a.toInt - m.toInt < -2147483648 ∨ 2147483647 < a.toInt - m.toInt)⟩) ∧
  (∀ (s : State) (k : Keeper) (ws wt : Fin 16) (a b : Word), s.zone.InStep k → s.zone.getW k ws = a → s.zone.getW k wt = b →
    Completes (.opCmp k ws wt) s fun z =>
      s.zone.Computes z k 1 0 0 ⟨decide (a = b), BitVec.msb (a - b), decide (b.toNat ≤ a.toNat), decide (a.toInt - b.toInt < -2147483648 ∨ 2147483647 < a.toInt - b.toInt)⟩) ∧
  (∀ (s : State) (k : Keeper) (ws wt : Fin 16) (a b : Word), s.zone.InStep k → s.zone.getW k ws = a → s.zone.getW k wt = b →
    Completes (.opTst k ws wt) s fun z =>
      s.zone.Computes z k 1 0 0 ⟨decide (a &&& b = 0), BitVec.msb (a &&& b), false, false⟩)

/-- R109, R110, R134, R135, R136: LDC and LDCX read a chart word; STC and STCX write one, in the mirror region only with the
watch, which also enters it into the open group; an address past 0x3FFF raises CHART_RANGE, ends the step and moves no word; MIRR
closes the group of the watch and returns link and role. -/
def Obligations.ChartInstructionsMoveWords : Prop :=
  (∀ (s : State) (k : Keeper) (wd : Fin 16) (a : BitVec 14), s.zone.InStep k → Completes (.opLdc k wd a) s fun z =>
      s.zone.Computes z k 2 wd (s.zone.chartGet k a.toNat) (s.zone.flags k)) ∧
  (∀ (s : State) (k : Keeper) (ws : Fin 16) (a : BitVec 14), s.zone.InStep k → Completes (.opStc k ws a) s fun z =>
      (∀ n, z.chartGet k n = (if n = a.toNat ∧ (n < 0x3800 ∨ s.zone.holdsWatch k = true) then s.zone.getW k ws else s.zone.chartGet k n)) ∧
      (z.keeper k).group = (if 0x3800 ≤ a.toNat ∧ s.zone.holdsWatch k = true then (s.zone.keeper k).group ++ [(a.toNat, s.zone.getW k ws)] else (s.zone.keeper k).group) ∧
      (∀ n, z.getW k n = s.zone.getW k n) ∧ z.flags k = s.zone.flags k ∧ z.keeper k.other = s.zone.keeper k.other ∧
      s.zone.Frame [] [.keeperA, .keeperB] z) ∧
  (∀ (s : State) (k : Keeper) (wd wx : Fin 16) (a : BitVec 14), s.zone.InStep k → a.toNat + (s.zone.getW k wx).toNat ≤ 0x3FFF →
    Completes (.opLdcx k wd wx a) s fun z =>
      s.zone.Computes z k 3 wd (s.zone.chartGet k (a.toNat + (s.zone.getW k wx).toNat)) (s.zone.flags k)) ∧
  (∀ (s : State) (k : Keeper) (ws wx : Fin 16) (a : BitVec 14) (e : Nat), s.zone.InStep k →
    e = a.toNat + (s.zone.getW k wx).toNat → e ≤ 0x3FFF → Completes (.opStcx k ws wx a) s fun z =>
      (∀ n, z.chartGet k n = (if n = e ∧ (n < 0x3800 ∨ s.zone.holdsWatch k = true) then s.zone.getW k ws else s.zone.chartGet k n)) ∧
      (z.keeper k).group = (if 0x3800 ≤ e ∧ s.zone.holdsWatch k = true then (s.zone.keeper k).group ++ [(e, s.zone.getW k ws)] else (s.zone.keeper k).group) ∧
      (∀ n, z.getW k n = s.zone.getW k n) ∧ z.flags k = s.zone.flags k ∧ z.keeper k.other = s.zone.keeper k.other ∧
      s.zone.Frame [] [.keeperA, .keeperB] z) ∧
  (∀ (s : State) (k : Keeper) (ws wx : Fin 16) (a : BitVec 14), s.zone.InStep k → 0x3FFF < a.toNat + (s.zone.getW k wx).toNat →
    Completes (.opStcx k ws wx a) s fun z =>
      z.fld (pKEEPER k) KEEPER.FAULT_CODE = 1 ∧
      z.fld (pKEEPER k) KEEPER.EXEC_FAULTS_COUNT = min (s.zone.fld (pKEEPER k) KEEPER.EXEC_FAULTS_COUNT + 1) 0xFFFFFFFF ∧
      (z.keeper k).inStep = false ∧ (∀ n, z.chartGet k n = s.zone.chartGet k n) ∧ (∀ n, z.getW k n = s.zone.getW k n) ∧
      s.zone.BankFrame [0] [.keeperA, .keeperB, .records, .log] z) ∧
  (∀ (s : State) (k : Keeper) (wd wx : Fin 16) (a : BitVec 14), s.zone.InStep k → 0x3FFF < a.toNat + (s.zone.getW k wx).toNat →
    Completes (.opStcx k wd wx a) s fun z =>
      z.fld (pKEEPER k) KEEPER.FAULT_CODE = 1 ∧
      z.fld (pKEEPER k) KEEPER.EXEC_FAULTS_COUNT = min (s.zone.fld (pKEEPER k) KEEPER.EXEC_FAULTS_COUNT + 1) 0xFFFFFFFF ∧
      (z.keeper k).inStep = false ∧ (∀ n, z.getW k n = s.zone.getW k n) ∧
      s.zone.BankFrame [0] [.keeperA, .keeperB, .records, .log] z) ∧
  (∀ (s : State) (k : Keeper) (wd : Fin 16), s.zone.InStep k → Completes (.opMirr k wd) s fun z =>
      (∀ n, z.getW k n = (if n = wd ∧ n ≠ 0 then BitVec.ofNat 32 ((if s.zone.mirrorUp k then 2 ^ 31 else 0) + (if s.zone.holdsWatch k then 2 ^ 30 else 0)) else s.zone.getW k n)) ∧
      (z.keeper k).group = (if s.zone.holdsWatch k then [] else (s.zone.keeper k).group) ∧ z.flags k = s.zone.flags k ∧
      (z.keeper k).chart = (s.zone.keeper k).chart ∧ s.zone.Frame [] [.keeperA, .keeperB] z)

/-- R125, R133, R162: SKIP.cc arms the skip of n instructions exactly where its condition holds by the flags; NOP costs one cycle;
END closes the open mirror group and ends the step; none of them changes a register, a flag or anything else. -/
def Obligations.SkipNopAndEndControlAStep : Prop :=
  (∀ (s : State) (k : Keeper) (cc n : Fin 15) (f : TFlags), s.zone.InStep k → s.zone.flags k = f →
    Completes (.opSkip k cc n) s fun z =>
      (z.keeper k).skip = (if [f.z, !f.z, f.c, !f.c, f.n, !f.n, f.v, !f.v, f.c && !f.z, !f.c || f.z, f.n == f.v, f.n != f.v, !f.z && f.n == f.v, f.z || f.n != f.v, true].getD cc.val false then n.val + 1 else 0) ∧
      (∀ i, z.getW k i = s.zone.getW k i) ∧ z.flags k = f ∧ (z.keeper k).cycles = (s.zone.keeper k).cycles + 1 ∧
      (z.keeper k).index = (s.zone.keeper k).index + 1 ∧ s.zone.Frame [] [.keeperA, .keeperB] z) ∧
  (∀ (s : State) (k : Keeper), s.zone.InStep k → Completes (.opNop k) s fun z =>
      s.zone.Computes z k 1 0 0 (s.zone.flags k)) ∧
  (∀ (s : State) (k : Keeper), s.zone.InStep k → Completes (.opEnd k) s fun z =>
      (z.keeper k).inStep = false ∧ (z.keeper k).group = [] ∧
      (z.keeper k).groups = (if (s.zone.keeper k).group = [] then (s.zone.keeper k).groups else (s.zone.keeper k).groups ++ [(s.zone.keeper k).group]) ∧
      z.flags k = s.zone.flags k ∧ (z.keeper k).chart = (s.zone.keeper k).chart ∧ s.zone.Frame [] [.keeperA, .keeperB] z)

/-- R116, R133: every Tamva instruction but END that comes while a skip is armed only counts the skip down; every Tamva
instruction of a keeper that executes no table changes nothing. -/
def Obligations.SkippedInstructionsHaveNoEffect : Prop :=
  (∀ (s : State) (c : Instr) (k : Keeper), tamvaKeeper c = some k → c ≠ .opEnd k → s.zone.executes k = true →
    (s.zone.keeper k).inStep = true → 0 < (s.zone.keeper k).skip → Completes c s fun z =>
      z = s.zone.setKeeper k { s.zone.keeper k with skip := (s.zone.keeper k).skip - 1, index := (s.zone.keeper k).index + 1 }) ∧
  (∀ (s : State) (c : Instr) (k : Keeper), tamvaKeeper c = some k → s.zone.executes k = false →
    Completes c s fun z => z = s.zone)

/-- R115, R137, R138, R139, R142, R143, R144, R166: CRD and CRDX of a word that this keeper has not written in this slot or the
last return what the page shows then, a stored word as it is stored with nothing else changed; of a word it has just written, the
value now or before; CWR, CWR.SET, CWR.CLR, CWR.TGL and CWRX whose command reaches the page leave in a word that a write only
stores what mode 0 to 3 makes of its access codes, ranges and Ws, and nothing else; a keeper without the watch writes no page
without a stage and is counted; a write to a page closed to keepers fails the keeper with cause 4; CRDX sets C by whether the word
arrives; an index past 1023 raises fault 2. -/
def Obligations.ChannelAccessReadsAndWritesWords : Prop :=
  (∀ (s : State) (k : Keeper) (wd : Fin 16) (g : PageArg) (o : BitVec 6) (kind : PageKind) (d : WordD), s.zone.InStep k →
    pageAllowed g false = true → keyD (Zone.pageKey g o.toNat) = some (kind, d) →
    Zone.storedWord kind (Zone.pageKey g o.toNat) = true →
    (∀ r ∈ (s.zone.keeper k).recent, r.key = Zone.pageKey g o.toNat → r.slot + 1 < (s.zone.keeper k).slotNo) →
    Zone.pageKey g o.toNat ≠ markKey → Completes (.opCrd k wd g o) s fun z =>
      s.zone.Computes z k 6 wd (s.zone.rd (Zone.pageKey g o.toNat) &&& ~~~BitVec.ofNat 32 d.wo) (s.zone.flags k)) ∧
  (∀ (s : State) (k : Keeper) (wd : Fin 16) (g : PageArg) (o : BitVec 6), s.zone.InStep k → wd ≠ 0 → pageAllowed g false = true →
    (∀ r ∈ (s.zone.keeper k).recent, r.key = Zone.pageKey g o.toNat → r.slot + 1 < (s.zone.keeper k).slotNo) →
    s.zone.time.marked = none → Completes (.opCrd k wd g o) s fun z =>
      z.getW k wd = ((s.zone.setKeeper k { s.zone.keeper k with cycles := (s.zone.keeper k).cycles + 6 }).readWord (Zone.pageKey g o.toNat)).1 ∧
      z.flags k = s.zone.flags k ∧ z.keeper k.other = s.zone.keeper k.other) ∧
  (∀ (s : State) (k : Keeper) (wd : Fin 16) (g : PageArg) (o : BitVec 6) (q : RecentWrite) (kind : PageKind) (d : WordD),
    s.zone.InStep k → pageAllowed g false = true → keyD (Zone.pageKey g o.toNat) = some (kind, d) →
    Zone.storedWord kind (Zone.pageKey g o.toNat) = true → (s.zone.keeper k).recent = [q] → q.key = Zone.pageKey g o.toNat →
    (s.zone.keeper k).slotNo ≤ q.slot + 1 → Completes (.opCrd k wd g o) s fun z =>
      (wd ≠ 0 → z.getW k wd = s.zone.rd (Zone.pageKey g o.toNat) &&& ~~~BitVec.ofNat 32 d.wo ∨ z.getW k wd = q.old) ∧
      (∀ r, r ≠ wd → z.getW k r = s.zone.getW k r) ∧ z.flags k = s.zone.flags k ∧ z.keeper k.other = s.zone.keeper k.other ∧
      s.zone.Frame [] [.keeperA, .keeperB, .freeNext] z) ∧
  (∀ (s : State) (k : Keeper) (ws : Fin 16) (g : PageArg) (o : BitVec 6) (kind : PageKind) (d : WordD), s.zone.InStep k →
    pageAllowed g true = true → keyD (Zone.pageKey g o.toNat) = some (kind, d) → s.zone.Reaches k (Zone.pageKey g o.toNat) →
    Zone.plainWord kind (Zone.pageKey g o.toNat) = true → d.reached (reachOf kind (.keeper k)) ≠ 0 →
    (keyBank (Zone.pageKey g o.toNat) = 1 → (s.zone.load (keyChan (Zone.pageKey g o.toNat))).silent = false) →
    Completes (.opCwr k ws g o) s fun z =>
      z.rd (Zone.pageKey g o.toNat) = keepRanges (fieldRanges kind (keyChan (Zone.pageKey g o.toNat)) (keyOff (Zone.pageKey g o.toNat))) (s.zone.rd (Zone.pageKey g o.toNat)) (d.merge (reachOf kind (.keeper k)) (s.zone.locked (keyPage (Zone.pageKey g o.toNat))) 0 (s.zone.rd (Zone.pageKey g o.toNat)) (s.zone.getW k ws)) ∧
      (∀ r, z.getW k r = s.zone.getW k r) ∧ z.flags k = s.zone.flags k ∧ z.keeper k.other = s.zone.keeper k.other ∧
      s.zone.Frame [Zone.pageKey g o.toNat] [.keeperA, .keeperB, .stages] z) ∧
  (∀ (s : State) (k : Keeper) (ws : Fin 16) (g : PageArg) (o : BitVec 6) (kind : PageKind) (d : WordD), s.zone.InStep k →
    pageAllowed g true = true → keyD (Zone.pageKey g o.toNat) = some (kind, d) → s.zone.Reaches k (Zone.pageKey g o.toNat) →
    Zone.plainWord kind (Zone.pageKey g o.toNat) = true → d.reached (reachOf kind (.keeper k)) ≠ 0 →
    (keyBank (Zone.pageKey g o.toNat) = 1 → (s.zone.load (keyChan (Zone.pageKey g o.toNat))).silent = false) →
    Completes (.opCwrSet k ws g o) s fun z =>
      z.rd (Zone.pageKey g o.toNat) = keepRanges (fieldRanges kind (keyChan (Zone.pageKey g o.toNat)) (keyOff (Zone.pageKey g o.toNat))) (s.zone.rd (Zone.pageKey g o.toNat)) (d.merge (reachOf kind (.keeper k)) (s.zone.locked (keyPage (Zone.pageKey g o.toNat))) 1 (s.zone.rd (Zone.pageKey g o.toNat)) (s.zone.getW k ws)) ∧
      (∀ r, z.getW k r = s.zone.getW k r) ∧ z.flags k = s.zone.flags k ∧ z.keeper k.other = s.zone.keeper k.other ∧
      s.zone.Frame [Zone.pageKey g o.toNat] [.keeperA, .keeperB, .stages] z) ∧
  (∀ (s : State) (k : Keeper) (ws : Fin 16) (g : PageArg) (o : BitVec 6) (kind : PageKind) (d : WordD), s.zone.InStep k →
    pageAllowed g true = true → keyD (Zone.pageKey g o.toNat) = some (kind, d) → s.zone.Reaches k (Zone.pageKey g o.toNat) →
    Zone.plainWord kind (Zone.pageKey g o.toNat) = true → d.reached (reachOf kind (.keeper k)) ≠ 0 →
    (keyBank (Zone.pageKey g o.toNat) = 1 → (s.zone.load (keyChan (Zone.pageKey g o.toNat))).silent = false) →
    Completes (.opCwrClr k ws g o) s fun z =>
      z.rd (Zone.pageKey g o.toNat) = keepRanges (fieldRanges kind (keyChan (Zone.pageKey g o.toNat)) (keyOff (Zone.pageKey g o.toNat))) (s.zone.rd (Zone.pageKey g o.toNat)) (d.merge (reachOf kind (.keeper k)) (s.zone.locked (keyPage (Zone.pageKey g o.toNat))) 2 (s.zone.rd (Zone.pageKey g o.toNat)) (s.zone.getW k ws)) ∧
      (∀ r, z.getW k r = s.zone.getW k r) ∧ z.flags k = s.zone.flags k ∧ z.keeper k.other = s.zone.keeper k.other ∧
      s.zone.Frame [Zone.pageKey g o.toNat] [.keeperA, .keeperB, .stages] z) ∧
  (∀ (s : State) (k : Keeper) (ws : Fin 16) (g : PageArg) (o : BitVec 6) (kind : PageKind) (d : WordD), s.zone.InStep k →
    pageAllowed g true = true → keyD (Zone.pageKey g o.toNat) = some (kind, d) → s.zone.Reaches k (Zone.pageKey g o.toNat) →
    Zone.plainWord kind (Zone.pageKey g o.toNat) = true → d.reached (reachOf kind (.keeper k)) ≠ 0 →
    (keyBank (Zone.pageKey g o.toNat) = 1 → (s.zone.load (keyChan (Zone.pageKey g o.toNat))).silent = false) →
    Completes (.opCwrTgl k ws g o) s fun z =>
      z.rd (Zone.pageKey g o.toNat) = keepRanges (fieldRanges kind (keyChan (Zone.pageKey g o.toNat)) (keyOff (Zone.pageKey g o.toNat))) (s.zone.rd (Zone.pageKey g o.toNat)) (d.merge (reachOf kind (.keeper k)) (s.zone.locked (keyPage (Zone.pageKey g o.toNat))) 3 (s.zone.rd (Zone.pageKey g o.toNat)) (s.zone.getW k ws)) ∧
      (∀ r, z.getW k r = s.zone.getW k r) ∧ z.flags k = s.zone.flags k ∧ z.keeper k.other = s.zone.keeper k.other ∧
      s.zone.Frame [Zone.pageKey g o.toNat] [.keeperA, .keeperB, .stages] z) ∧
  (∀ (s : State) (k : Keeper) (ws wx : Fin 16) (g : PageArg) (o : BitVec 10) (kind : PageKind) (d : WordD),
    s.zone.getW k wx = o.setWidth 32 → s.zone.InStep k → pageAllowed g true = true →
    keyD (Zone.pageKey g o.toNat) = some (kind, d) → s.zone.Reaches k (Zone.pageKey g o.toNat) →
    Zone.plainWord kind (Zone.pageKey g o.toNat) = true → d.reached (reachOf kind (.keeper k)) ≠ 0 →
    (keyBank (Zone.pageKey g o.toNat) = 1 → (s.zone.load (keyChan (Zone.pageKey g o.toNat))).silent = false) →
    Completes (.opCwrx k ws wx g) s fun z =>
      z.rd (Zone.pageKey g o.toNat) = keepRanges (fieldRanges kind (keyChan (Zone.pageKey g o.toNat)) (keyOff (Zone.pageKey g o.toNat))) (s.zone.rd (Zone.pageKey g o.toNat)) (d.merge (reachOf kind (.keeper k)) (s.zone.locked (keyPage (Zone.pageKey g o.toNat))) 0 (s.zone.rd (Zone.pageKey g o.toNat)) (s.zone.getW k ws)) ∧
      (∀ r, z.getW k r = s.zone.getW k r) ∧ z.flags k = s.zone.flags k ∧ z.keeper k.other = s.zone.keeper k.other ∧
      s.zone.Frame [Zone.pageKey g o.toNat] [.keeperA, .keeperB, .stages] z) ∧
  (∀ (s : State) (k : Keeper) (ws wx : Fin 16) (g : PageArg), s.zone.InStep k → pageAllowed g true = true →
    1023 < (s.zone.getW k wx).toNat → Completes (.opCwrx k ws wx g) s fun z =>
      z.fld (pKEEPER k) KEEPER.FAULT_CODE = 2 ∧ (z.keeper k).inStep = false ∧ (∀ r, z.getW k r = s.zone.getW k r) ∧
      s.zone.BankFrame [0] [.keeperA, .keeperB, .records, .log] z) ∧
  (∀ (s : State) (k : Keeper) (ws : Fin 16) (g : PageArg) (o : BitVec 6), s.zone.InStep k → pageAllowed g true = true →
    stageOf (keyPage (Zone.pageKey g o.toNat)) = none → s.zone.mode ≠ Mode.test → s.zone.portOpen k = true →
    s.zone.holdsWatch k = false → Completes (.opCwr k ws g o) s fun z =>
      z.fld (pKEEPER k) KEEPER.SHADOW_COUNTS_WRITES = min (s.zone.fld (pKEEPER k) KEEPER.SHADOW_COUNTS_WRITES + 1) 0xFFFF ∧
      (∀ r, z.getW k r = s.zone.getW k r) ∧ z.flags k = s.zone.flags k ∧
      s.zone.Frame [pKEEPER k + KEEPER.SHADOW_COUNTS_WRITES.off] [.keeperA, .keeperB] z) ∧
  (∀ (s : State) (k : Keeper) (ws : Fin 16) (g : PageArg) (o : BitVec 6), s.zone.InStep k → pageAllowed g true = false →
    (s.zone.role k.other = Role.standby ∨ s.zone.role k.other = Role.watch) → s.zone.fencedNow k.other = false →
    Completes (.opCwr k ws g o) s fun z =>
      z.role k = Role.failed ∧ z.fld (pKEEPER k) KEEPER.SELF_CHECK_CAUSE = 4 ∧ (z.keeper k).inStep = false ∧
      z.safety = { (s.zone.setVerdict k (some s.zone.mono)).safety with reports := s.zone.safety.reports ++ [⟨0, BitVec.ofNat 32 (k.idx + 4 * 256), false, s.zone.mono, s.zone.ts64⟩] } ∧
      s.zone.Frame [pKEEPER k + KEEPER.KSTATUS_ROLE.off, pKEEPER k + KEEPER.SELF_CHECK_CAUSE.off] [.keeperA, .keeperB, .safety] z) ∧
  (∀ (s : State) (k : Keeper) (wd wx : Fin 16) (g : PageArg) (o : BitVec 10) (kind : PageKind) (d : WordD), s.zone.InStep k →
    pageAllowed g false = true → s.zone.getW k wx = o.setWidth 32 → keyD (Zone.pageKey g o.toNat) = some (kind, d) →
    Zone.storedWord kind (Zone.pageKey g o.toNat) = true →
    (∀ r ∈ (s.zone.keeper k).recent, r.key = Zone.pageKey g o.toNat → r.slot + 1 < (s.zone.keeper k).slotNo) →
    Zone.pageKey g o.toNat ≠ markKey → Completes (.opCrdx k wd wx g true) s fun z =>
      s.zone.Computes z k 48 wd (s.zone.rd (Zone.pageKey g o.toNat) &&& ~~~BitVec.ofNat 32 d.wo) { s.zone.flags k with c := true }) ∧
  (∀ (s : State) (k : Keeper) (wd wx : Fin 16) (g : PageArg), s.zone.InStep k → pageAllowed g false = true →
    (s.zone.getW k wx).toNat ≤ 1023 → Completes (.opCrdx k wd wx g false) s fun z =>
      (∀ n, z.getW k n = (if n = wd then 0 else s.zone.getW k n)) ∧ z.flags k = { s.zone.flags k with c := false } ∧
      z.fld (pKEEPER k) KEEPER.MISC_COUNTS_CRDX_TIMEOUT = min (s.zone.fld (pKEEPER k) KEEPER.MISC_COUNTS_CRDX_TIMEOUT + 1) 0xFF ∧
      s.zone.Frame [pKEEPER k + KEEPER.MISC_COUNTS_CRDX_TIMEOUT.off] [.keeperA, .keeperB] z) ∧
  (∀ (s : State) (k : Keeper) (wd wx : Fin 16) (g : PageArg) (y : Bool), s.zone.InStep k → pageAllowed g false = true →
    1023 < (s.zone.getW k wx).toNat → Completes (.opCrdx k wd wx g y) s fun z =>
      z.fld (pKEEPER k) KEEPER.FAULT_CODE = 2 ∧ (z.keeper k).inStep = false ∧ (∀ r, z.getW k r = s.zone.getW k r) ∧
      s.zone.BankFrame [0] [.keeperA, .keeperB, .records, .log] z)

/-- R145, R146, R147, R148, R149, R152, R153, R166: COP writes the number of the lowest free ticket to Wd with N and Z 0; the
ticket ends REFUSED at once at a word that is no operation register, CLAIM where a stage refuses the command, OK for a load
SNAPSHOT that is delivered, and stays issued where the port drops the command; with no ticket free Wd is 0xFFFFFFFF, N 1 and the
refusal counted, and no ticket changes; COP with WD 0 fails the keeper with cause 4; CHKT sets the flags by the ticket; TKR also
writes its result word, DONE, PENDING or FREE, and frees a DONE ticket; a number past 127 raises fault 3. -/
def Obligations.TicketsAreIssuedExaminedAndRead : Prop :=
  (∀ (s : State) (k : Keeper) (wd : Fin 16) (m : BitVec 4) (g : PageArg) (o : BitVec 6) (n : Nat) (kind : PageKind),
    s.zone.InStep k → wd ≠ 0 → pageAllowed g true = true → s.zone.freeTicket k = some n →
    (s.zone.deliver k (Zone.pageKey g o.toNat)).1 = Zone.Delivery.delivered →
    pageKind (keyBank (Zone.pageKey g o.toNat)) (keyChan (Zone.pageKey g o.toNat)) = some kind →
    opRegister kind (keyOff (Zone.pageKey g o.toNat)) = false → Completes (.opCop k wd m g o) s fun z =>
      (∀ r, z.getW k r = (if r = wd then BitVec.ofNat 32 n else s.zone.getW k r)) ∧
      z.flags k = { s.zone.flags k with n := false, z := false } ∧ (z.ticket k n).serial = s.zone.ticketSerial + 1 ∧
      (∀ j : Fin 128, j.val ≠ n → z.ticket k j = s.zone.ticket k j) ∧ (z.ticket k n).state = .done ∧ (z.ticket k n).status = 5 ∧
      (z.ticket k n).value = 0 ∧
      s.zone.Frame [pKEEPER k + KEEPER.TICKETS_IN_USE.off] [.keeperA, .keeperB, .tickets, .ticketSerial, .stages] z) ∧
  (∀ (s : State) (k : Keeper) (wd : Fin 16) (m : BitVec 4) (g : PageArg) (o : BitVec 6) (n i c : Nat), s.zone.InStep k → wd ≠ 0 →
    pageAllowed g true = true → s.zone.freeTicket k = some n → s.zone.mode ≠ Mode.test → s.zone.portOpen k = true →
    stageOf (keyPage (Zone.pageKey g o.toNat)) = some i → s.zone.claimRefusal i k = some c →
    Completes (.opCop k wd m g o) s fun z =>
      (∀ r, z.getW k r = (if r = wd then BitVec.ofNat 32 n else s.zone.getW k r)) ∧
      z.flags k = { s.zone.flags k with n := false, z := false } ∧ (z.ticket k n).serial = s.zone.ticketSerial + 1 ∧
      (∀ j : Fin 128, j.val ≠ n → z.ticket k j = s.zone.ticket k j) ∧ (z.ticket k n).state = .done ∧ (z.ticket k n).status = 2 ∧
      (z.ticket k n).value = 0 ∧ s.zone.BankFrame [0] [.keeperA, .keeperB, .tickets, .ticketSerial] z) ∧
  (∀ (s : State) (k : Keeper) (wd : Fin 16) (m : BitVec 4) (g : PageArg) (o : BitVec 6) (n : Nat), s.zone.InStep k → wd ≠ 0 →
    pageAllowed g true = true → s.zone.freeTicket k = some n → s.zone.mode ≠ Mode.test → s.zone.portOpen k = true →
    stageOf (keyPage (Zone.pageKey g o.toNat)) = none → s.zone.holdsWatch k = false → Completes (.opCop k wd m g o) s fun z =>
      (∀ r, z.getW k r = (if r = wd then BitVec.ofNat 32 n else s.zone.getW k r)) ∧
      z.flags k = { s.zone.flags k with n := false, z := false } ∧ (z.ticket k n).serial = s.zone.ticketSerial + 1 ∧
      (∀ j : Fin 128, j.val ≠ n → z.ticket k j = s.zone.ticket k j) ∧ (z.ticket k n).state = .issued ∧
      s.zone.Frame [pKEEPER k + KEEPER.TICKETS_IN_USE.off, pKEEPER k + KEEPER.SHADOW_COUNTS_WRITES.off] [.keeperA, .keeperB, .tickets, .ticketSerial] z) ∧
  (∀ (s : State) (k : Keeper) (wd : Fin 16) (i : Fin 48) (n : Nat), s.zone.InStep k → wd ≠ 0 → s.zone.freeTicket k = some n →
    s.zone.mode ≠ Mode.test → s.zone.portOpen k = true → s.zone.claimRefusal i.val k = none →
    (s.zone.load i.val).silent = false → Completes (.opCop k wd 2 ⟨1, BitVec.ofNat 8 i.val⟩ 13) s fun z =>
      (∀ r, z.getW k r = (if r = wd then BitVec.ofNat 32 n else s.zone.getW k r)) ∧
      z.flags k = { s.zone.flags k with n := false, z := false } ∧ (z.ticket k n).serial = s.zone.ticketSerial + 1 ∧
      (∀ j : Fin 128, j.val ≠ n → z.ticket k j = s.zone.ticket k j) ∧ (z.ticket k n).state = .done ∧ (z.ticket k n).status = 0 ∧
      s.zone.Frame [pKEEPER k + KEEPER.TICKETS_IN_USE.off] [.keeperA, .keeperB, .tickets, .ticketSerial, .stages] z) ∧
  (∀ (s : State) (k : Keeper) (wd : Fin 16) (m : BitVec 4) (g : PageArg) (o : BitVec 6), s.zone.InStep k → wd ≠ 0 →
    pageAllowed g true = true → s.zone.freeTicket k = none → Completes (.opCop k wd m g o) s fun z =>
      (∀ r, z.getW k r = (if r = wd then 0xFFFFFFFF else s.zone.getW k r)) ∧
      z.flags k = { s.zone.flags k with n := true, z := false } ∧
      z.fld (pKEEPER k) KEEPER.TICKETS_EXHAUSTED = min (s.zone.fld (pKEEPER k) KEEPER.TICKETS_EXHAUSTED + 1) 0xFFFF ∧
      s.zone.Frame [pKEEPER k + KEEPER.TICKETS_EXHAUSTED.off] [.keeperA, .keeperB] z) ∧
  (∀ (s : State) (k : Keeper) (wd : Fin 16) (m : BitVec 4) (g : PageArg) (o : BitVec 6), s.zone.InStep k →
    (wd = 0 ∨ pageAllowed g true = false) → (s.zone.role k.other = Role.standby ∨ s.zone.role k.other = Role.watch) →
    s.zone.fencedNow k.other = false → Completes (.opCop k wd m g o) s fun z =>
      z.role k = Role.failed ∧ z.fld (pKEEPER k) KEEPER.SELF_CHECK_CAUSE = 4 ∧ (z.keeper k).inStep = false ∧
      z.safety = { (s.zone.setVerdict k (some s.zone.mono)).safety with reports := s.zone.safety.reports ++ [⟨0, BitVec.ofNat 32 (k.idx + 4 * 256), false, s.zone.mono, s.zone.ts64⟩] } ∧
      s.zone.Frame [pKEEPER k + KEEPER.KSTATUS_ROLE.off, pKEEPER k + KEEPER.SELF_CHECK_CAUSE.off] [.keeperA, .keeperB, .safety] z) ∧
  (∀ (s : State) (k : Keeper) (a : TicketArg) (n : Nat), s.zone.InStep k → s.zone.ticketArg k a = some n →
    Completes (.opChkt k a) s fun z =>
      s.zone.Computes z k 2 0 0 ⟨decide ((s.zone.ticket k n).state = .done), decide ((s.zone.ticket k n).state = .free), decide ((s.zone.ticket k n).state = .done ∧ (s.zone.ticket k n).status = 0), false⟩) ∧
  (∀ (s : State) (k : Keeper) (w : Fin 16), s.zone.InStep k → 127 < (s.zone.getW k w).toNat →
    Completes (.opChkt k (.reg w)) s fun z =>
      z.fld (pKEEPER k) KEEPER.FAULT_CODE = 3 ∧ (z.keeper k).inStep = false ∧ z.tickets = s.zone.tickets ∧
      s.zone.BankFrame [0] [.keeperA, .keeperB, .records, .log] z) ∧
  (∀ (s : State) (k : Keeper) (wd w : Fin 16), s.zone.InStep k → 127 < (s.zone.getW k w).toNat →
    Completes (.opTkr k wd (.reg w)) s fun z =>
      z.fld (pKEEPER k) KEEPER.FAULT_CODE = 3 ∧ (z.keeper k).inStep = false ∧ z.tickets = s.zone.tickets ∧
      s.zone.BankFrame [0] [.keeperA, .keeperB, .records, .log] z) ∧
  (∀ (s : State) (k : Keeper) (wd : Fin 16) (a : TicketArg) (n : Nat) (t : Ticket), s.zone.InStep k →
    s.zone.ticketArg k a = some n → s.zone.ticket k n = t → t.state = .done → t.status < 16 → t.age < 4096 → t.value < 65536 →
    Completes (.opTkr k wd a) s fun z =>
      (∀ r, z.getW k r = (if r = wd ∧ r ≠ 0 then BitVec.ofNat 32 (t.status * 2 ^ 28 + t.age * 2 ^ 16 + t.value) else s.zone.getW k r)) ∧
      z.flags k = ⟨true, false, decide (t.status = 0), false⟩ ∧ (z.ticket k n).state = .free ∧
      (∀ j : Fin 128, j.val ≠ n → z.ticket k j = s.zone.ticket k j) ∧
      s.zone.Frame [pKEEPER k + KEEPER.TICKETS_IN_USE.off] [.keeperA, .keeperB, .tickets] z) ∧
  (∀ (s : State) (k : Keeper) (wd : Fin 16) (a : TicketArg) (n : Nat) (t : Ticket), s.zone.InStep k →
    s.zone.ticketArg k a = some n → s.zone.ticket k n = t → t.state ≠ .done → Completes (.opTkr k wd a) s fun z =>
      s.zone.Computes z k 3 wd (if t.state = .free then 0xE0000000 else BitVec.ofNat 32 (15 * 2 ^ 28 + min 4095 (s.zone.keeperSlots - t.issueSlot) * 2 ^ 16)) ⟨false, decide (t.state = .free), false, false⟩)

/-- R155, R156, R157, R158, R159, R160, R161, R166: QPOP takes the next word that the keeper has not taken and leaves the other
keeper's view, or sets Z where there is none; QPUSH of the watch appends to an event queue with room, else counts the overflow; a
shadow pushes nothing and sets C alike; QLEN counts a request or an event queue; TNOW, TSEC and TSLOT return the time of the slot;
EVT of the watch posts a record, or counts it discarded where the stream is full, and FLT posts a report; those of a shadow post
none, FLT is counted; EVT and FLT with code 0 fail the keeper with cause 4. -/
def Obligations.QueuesTimeAndEventsOfATable : Prop :=
  (∀ (s : State) (k : Keeper) (wd : Fin 16) (q : Fin 256) (w : QWord) (l : List QWord), s.zone.InStep k →
    s.zone.unread k q.val = w :: l → Completes (.opQpop k wd q) s fun z =>
      (∀ r, z.getW k r = (if r = wd ∧ r ≠ 0 then w.word else s.zone.getW k r)) ∧
      z.flags k = ⟨decide (w.word = 0), w.word.msb, true, false⟩ ∧ z.keeper k.other = s.zone.keeper k.other ∧
      (z.unread k q.val).length = l.length ∧ s.zone.Frame [] [.keeperA, .keeperB, .reqQs] z) ∧
  (∀ (s : State) (k : Keeper) (wd : Fin 16) (q : Fin 256), s.zone.InStep k → s.zone.unread k q.val = [] →
    Completes (.opQpop k wd q) s fun z =>
      s.zone.Computes z k 6 wd 0 ⟨true, false, false, false⟩) ∧
  (∀ (s : State) (k : Keeper) (ws : Fin 16) (q : Fin 256), s.zone.InStep k → s.zone.holdsWatch k = true →
    s.zone.portOpen k = true → s.zone.evtFull k q.val = false → Completes (.opQpush k ws q) s fun z =>
      (z.evtQ q.val).words = (s.zone.evtQ q.val).words ++ [s.zone.getW k ws] ∧ z.flags k = { s.zone.flags k with c := true } ∧
      (∀ r, z.getW k r = s.zone.getW k r) ∧ s.zone.Frame [pHINGE 2 + (0x500 + 4 * q.val)] [.keeperA, .keeperB, .evtQs] z) ∧
  (∀ (s : State) (k : Keeper) (ws : Fin 16) (q : Fin 256), s.zone.InStep k → s.zone.holdsWatch k = true →
    s.zone.portOpen k = true → s.zone.evtFull k q.val = true → Completes (.opQpush k ws q) s fun z =>
      z.evtQs = s.zone.evtQs ∧
      z.fld (pHINGE 2) (Zone.evtFld q.val 24 8) = min (s.zone.fld (pHINGE 2) (Zone.evtFld q.val 24 8) + 1) 255 ∧
      z.flags k = { s.zone.flags k with c := false } ∧ (∀ r, z.getW k r = s.zone.getW k r) ∧
      s.zone.Frame [pHINGE 2 + (0x500 + 4 * q.val)] [.keeperA, .keeperB] z) ∧
  (∀ (s : State) (k : Keeper) (ws : Fin 16) (q : Fin 256), s.zone.InStep k → s.zone.holdsWatch k = false →
    Completes (.opQpush k ws q) s fun z =>
      s.zone.Computes z k 4 0 0 { s.zone.flags k with c := !s.zone.evtFull k q.val }) ∧
  (∀ (s : State) (k : Keeper) (wd : Fin 16) (e : Bool) (q : Fin 256) (n : Nat), s.zone.InStep k →
    (n = if e then (if s.zone.bindsEvt k q.val then (s.zone.evtQ q.val).words.length else 0) else (s.zone.unread k q.val).length) →
    Completes (.opQlen k wd e q) s fun z =>
      s.zone.Computes z k 3 wd (BitVec.ofNat 32 n) { s.zone.flags k with z := decide (n = 0) }) ∧
  (∀ (s : State) (k : Keeper) (wd : Fin 16) (n : Nat), s.zone.InStep k → (s.zone.keeper k).slotNo = n →
    Completes (.opTnow k wd) s fun z =>
      s.zone.Computes z k 1 wd (BitVec.ofNat 32 (n % 1000000 * 1000)) (s.zone.flags k)) ∧
  (∀ (s : State) (k : Keeper) (wd : Fin 16) (n : Nat), s.zone.InStep k → (s.zone.keeper k).slotNo = n →
    Completes (.opTsec k wd) s fun z =>
      s.zone.Computes z k 1 wd (BitVec.ofNat 32 (n / 1000000)) (s.zone.flags k)) ∧
  (∀ (s : State) (k : Keeper) (wd : Fin 16) (r n : Nat), s.zone.InStep k → (s.zone.keeper k).round = r →
    (s.zone.keeper k).slot = n → r < 64 → n < 100000 → Completes (.opTslot k wd) s fun z =>
      s.zone.Computes z k 1 wd (BitVec.ofNat 32 (r * 2 ^ 24 + n)) (s.zone.flags k)) ∧
  (∀ (s : State) (k : Keeper) (ws : Fin 16) (c : BitVec 16), s.zone.InStep k → c ≠ 0 → s.zone.holdsWatch k = true →
    s.zone.portOpen k = true → s.zone.keeperEvents k < 64 → s.zone.records.length < 256 → Completes (.opEvt k ws c) s fun z =>
      z.records = s.zone.records ++ [⟨0x20, s.zone.slotStamp k, leBytes 2 c.toNat ++ leBytes 1 k.idx ++ [0#8] ++ leBytes 4 (s.zone.getW k ws).toNat, !s.zone.logRuns⟩] ∧
      z.flags k = s.zone.flags k ∧ (∀ r, z.getW k r = s.zone.getW k r) ∧ s.zone.Frame [] [.keeperA, .keeperB, .records] z) ∧
  (∀ (s : State) (k : Keeper) (ws : Fin 16) (c : BitVec 16), s.zone.InStep k → c ≠ 0 → s.zone.holdsWatch k = true →
    s.zone.portOpen k = true → 64 ≤ s.zone.keeperEvents k → Completes (.opEvt k ws c) s fun z =>
      z.fld (pKEEPER k) KEEPER.MISC_COUNTS_EVT_DISCARD = min (s.zone.fld (pKEEPER k) KEEPER.MISC_COUNTS_EVT_DISCARD + 1) (2 ^ KEEPER.MISC_COUNTS_EVT_DISCARD.w - 1) ∧
      z.flags k = s.zone.flags k ∧ (∀ r, z.getW k r = s.zone.getW k r) ∧
      s.zone.Frame [pKEEPER k + KEEPER.MISC_COUNTS_EVT_DISCARD.off] [.keeperA, .keeperB] z) ∧
  (∀ (s : State) (k : Keeper) (ws : Fin 16) (c : BitVec 16), s.zone.InStep k → c ≠ 0 → s.zone.holdsWatch k = false →
    Completes (.opEvt k ws c) s fun z =>
      s.zone.Computes z k 4 0 0 (s.zone.flags k)) ∧
  (∀ (s : State) (k : Keeper) (ws : Fin 16) (c : BitVec 16), s.zone.InStep k → c ≠ 0 → s.zone.holdsWatch k = true →
    s.zone.portOpen k = true → Completes (.opFlt k ws c) s fun z =>
      s.zone.Reports z 26 (BitVec.ofNat 32 (c.toNat * 65536 + (s.zone.getW k ws).toNat % 65536)) ∧ z.flags k = s.zone.flags k ∧
      (z.keeper k).inStep = true ∧ (∀ r, z.getW k r = s.zone.getW k r) ∧ s.zone.Frame [] [.keeperA, .keeperB, .safety] z) ∧
  (∀ (s : State) (k : Keeper) (ws : Fin 16) (c : BitVec 16), s.zone.InStep k → c ≠ 0 → s.zone.holdsWatch k = false →
    Completes (.opFlt k ws c) s fun z =>
      z.fld (pKEEPER k) KEEPER.SHADOW_COUNTS_FLT = min (s.zone.fld (pKEEPER k) KEEPER.SHADOW_COUNTS_FLT + 1) 0xFFFF ∧
      z.flags k = s.zone.flags k ∧ (∀ r, z.getW k r = s.zone.getW k r) ∧
      s.zone.Frame [pKEEPER k + KEEPER.SHADOW_COUNTS_FLT.off] [.keeperA, .keeperB] z) ∧
  (∀ (s : State) (k : Keeper) (ws : Fin 16), s.zone.InStep k →
    (s.zone.role k.other = Role.standby ∨ s.zone.role k.other = Role.watch) → s.zone.fencedNow k.other = false →
    Completes (.opEvt k ws 0) s fun z =>
      z.role k = Role.failed ∧ z.fld (pKEEPER k) KEEPER.SELF_CHECK_CAUSE = 4 ∧ (z.keeper k).inStep = false ∧
      z.safety = { (s.zone.setVerdict k (some s.zone.mono)).safety with reports := s.zone.safety.reports ++ [⟨0, BitVec.ofNat 32 (k.idx + 4 * 256), false, s.zone.mono, s.zone.ts64⟩] } ∧
      s.zone.Frame [pKEEPER k + KEEPER.KSTATUS_ROLE.off, pKEEPER k + KEEPER.SELF_CHECK_CAUSE.off] [.keeperA, .keeperB, .safety] z) ∧
  (∀ (s : State) (k : Keeper) (ws : Fin 16), s.zone.InStep k →
    (s.zone.role k.other = Role.standby ∨ s.zone.role k.other = Role.watch) → s.zone.fencedNow k.other = false →
    Completes (.opFlt k ws 0) s fun z =>
      z.role k = Role.failed ∧ z.fld (pKEEPER k) KEEPER.SELF_CHECK_CAUSE = 4 ∧ (z.keeper k).inStep = false ∧
      z.safety = { (s.zone.setVerdict k (some s.zone.mono)).safety with reports := s.zone.safety.reports ++ [⟨0, BitVec.ofNat 32 (k.idx + 4 * 256), false, s.zone.mono, s.zone.ts64⟩] } ∧
      s.zone.Frame [pKEEPER k + KEEPER.KSTATUS_ROLE.off, pKEEPER k + KEEPER.SELF_CHECK_CAUSE.off] [.keeperA, .keeperB, .safety] z)

/-! ### Keepers, the watch, slot marks, queues -/

/-- R120, R212, R213, R215, R216, R635: a self-check failure of a running keeper ends its step, makes its role FAILED with its
cause, starts its verdict and reports it, with KEEPER_BOTH reported once as well where the other keeper is out; one of a stopped,
failed or fenced keeper changes nothing; a budget overrun is cause 3 of an executing keeper; a fence confirms, after 10 µs without
confirmation by hard isolation, which is reported; the monitor fences a keeper whose verdict stands unconfirmed for 10 µs, makes
its role FENCED, silences it and counts; before those times nothing happens; the other keeper stays as it was. -/
def Obligations.KeeperFailuresAreFencedAndReported : Prop :=
  (∀ (s : State) (k : Keeper) (c : Fin 7), s.zone.logicRuns = true →
    s.zone.role k ≠ Role.stopped ∧ s.zone.role k ≠ Role.failed ∧ s.zone.role k ≠ Role.fenced →
    ((s.zone.role k.other = Role.stopped ∨ s.zone.role k.other = Role.failed ∨ s.zone.role k.other = Role.fenced ∨ s.zone.fencedNow k.other = true) → s.zone.safety.latched.getLsbD 1 = true) →
    Completes (.selfCheckFailure k c) s fun z =>
      z.fld (pKEEPER k) KEEPER.SELF_CHECK_CAUSE = c.val + 1 ∧
      z.safety = { (s.zone.setVerdict k (some s.zone.mono)).safety with reports := s.zone.safety.reports ++ [⟨0, BitVec.ofNat 32 (k.idx + (c.val + 1) * 256), false, s.zone.mono, s.zone.ts64⟩] } ∧
      z.role k = Role.failed ∧ (z.keeper k).inStep = false ∧ (z.keeper k).group = [] ∧ z.keeper k.other = s.zone.keeper k.other ∧
      s.zone.Frame [pKEEPER k + KEEPER.KSTATUS_ROLE.off, pKEEPER k + KEEPER.SELF_CHECK_CAUSE.off] [.keeperA, .keeperB, .safety] z) ∧
  (∀ (s : State) (k : Keeper) (c : Fin 7), s.zone.logicRuns = true →
    s.zone.role k ≠ Role.stopped ∧ s.zone.role k ≠ Role.failed ∧ s.zone.role k ≠ Role.fenced →
    (s.zone.role k.other = Role.stopped ∨ s.zone.role k.other = Role.failed ∨ s.zone.role k.other = Role.fenced ∨ s.zone.fencedNow k.other = true) →
    s.zone.safety.latched.getLsbD 1 = false → Completes (.selfCheckFailure k c) s fun z =>
      z.fld (pKEEPER k) KEEPER.SELF_CHECK_CAUSE = c.val + 1 ∧
      z.safety = { (s.zone.setVerdict k (some s.zone.mono)).safety with latched := s.zone.safety.latched ||| 2#32, reports := s.zone.safety.reports ++ [⟨0, BitVec.ofNat 32 (k.idx + (c.val + 1) * 256), false, s.zone.mono, s.zone.ts64⟩, ⟨1, 0, false, s.zone.mono, s.zone.ts64⟩] } ∧
      z.role k = Role.failed ∧ (z.keeper k).inStep = false ∧ (z.keeper k).group = [] ∧ z.keeper k.other = s.zone.keeper k.other ∧
      s.zone.Frame [pKEEPER k + KEEPER.KSTATUS_ROLE.off, pKEEPER k + KEEPER.SELF_CHECK_CAUSE.off] [.keeperA, .keeperB, .safety] z) ∧
  (∀ (s : State) (k : Keeper) (c : Fin 7),
    (s.zone.logicRuns = false ∨ s.zone.role k = Role.stopped ∨ s.zone.role k = Role.failed ∨ s.zone.role k = Role.fenced) →
    Completes (.selfCheckFailure k c) s fun z =>
      s.zone.Frame [] [] z) ∧
  (∀ (s : State) (k : Keeper), s.zone.logicRuns = true → s.zone.executes k = true →
    ((s.zone.role k.other = Role.stopped ∨ s.zone.role k.other = Role.failed ∨ s.zone.role k.other = Role.fenced ∨ s.zone.fencedNow k.other = true) → s.zone.safety.latched.getLsbD 1 = true) →
    Completes (.budgetOverrun k) s fun z =>
      z.fld (pKEEPER k) KEEPER.SELF_CHECK_CAUSE = 3 ∧
      z.safety = { (s.zone.setVerdict k (some s.zone.mono)).safety with reports := s.zone.safety.reports ++ [⟨0, BitVec.ofNat 32 (k.idx + 3 * 256), false, s.zone.mono, s.zone.ts64⟩] } ∧
      z.role k = Role.failed ∧ (z.keeper k).inStep = false ∧ (z.keeper k).group = [] ∧ z.keeper k.other = s.zone.keeper k.other ∧
      s.zone.Frame [pKEEPER k + KEEPER.KSTATUS_ROLE.off, pKEEPER k + KEEPER.SELF_CHECK_CAUSE.off] [.keeperA, .keeperB, .safety] z) ∧
  (∀ (s : State) (k : Keeper), s.zone.executes k = false → Completes (.budgetOverrun k) s fun z =>
      s.zone.Frame [] [] z) ∧
  (∀ (s : State) (k : Keeper), s.zone.logicRuns = true → s.zone.fencedNow k = true →
    s.zone.flag (pKEEPER k) KEEPER.FENCE_CONFIRMED = false → Completes (.fenceConfirm k) s fun z =>
      z.flag (pKEEPER k) KEEPER.FENCE_CONFIRMED = true ∧
      z.flag (pKEEPER k) KEEPER.FENCE_HARD = s.zone.flag (pKEEPER k) KEEPER.FENCE_HARD ∧
      s.zone.Frame [pKEEPER k + KEEPER.FENCE_CONFIRMED.off] [] z) ∧
  (∀ (s : State) (k : Keeper), s.zone.fencedNow k = false → Completes (.fenceConfirm k) s fun z =>
      s.zone.Frame [] [] z) ∧
  (∀ (s : State) (k : Keeper) (t : Nat), s.zone.logicRuns = true → (s.zone.keeper k).fenceAt = some t →
    s.zone.fencedNow k = true → s.zone.flag (pKEEPER k) KEEPER.FENCE_CONFIRMED = false → t + 2500 ≤ s.zone.mono →
    Completes (.hardIsolation k) s fun z =>
      z.flag (pKEEPER k) KEEPER.FENCE_HARD = true ∧ z.flag (pKEEPER k) KEEPER.FENCE_CONFIRMED = true ∧
      s.zone.Reports z 27 (BitVec.ofNat 32 (k.idx + s.zone.fld (pKEEPER k) KEEPER.SELF_CHECK_CAUSE * 256)) ∧
      s.zone.Frame [pKEEPER k + KEEPER.FENCE_HARD.off, pKEEPER k + KEEPER.FENCE_CONFIRMED.off] [.safety] z) ∧
  (∀ (s : State) (k : Keeper), (∀ t ∈ (s.zone.keeper k).fenceAt, s.zone.mono < t + 2500) → Completes (.hardIsolation k) s fun z =>
      s.zone.Frame [] [] z) ∧
  (∀ (s : State) (k : Keeper) (t : Nat), s.zone.logicRuns = true → s.zone.verdict k = some t → t + 2500 ≤ s.zone.mono →
    s.zone.flag (pKEEPER k) KEEPER.FENCE_CONFIRMED = false → s.zone.fencedNow k = false →
    ((s.zone.role k.other = Role.stopped ∨ s.zone.role k.other = Role.failed ∨ s.zone.role k.other = Role.fenced ∨ s.zone.fencedNow k.other = true) → s.zone.safety.latched.getLsbD 1 = true) →
    Completes (.monitorFence k) s fun z =>
      z.fencedNow k = true ∧ z.role k = Role.fenced ∧ (z.keeper k).fenceAt = some s.zone.mono ∧ (z.keeper k).line = none ∧
      (z.keeper k).sent = none ∧ (z.keeper k).inStep = false ∧ z.safety = (s.zone.setVerdict k none).safety ∧
      z.fld pSAFE SAFE0.MISC_COUNTS_MONITOR_FENCES = min (s.zone.fld pSAFE SAFE0.MISC_COUNTS_MONITOR_FENCES + 1) 0xFF ∧
      z.keeper k.other = s.zone.keeper k.other ∧
      s.zone.Frame [pKEEPER k + KEEPER.FENCE_FENCED.off, pKEEPER k + KEEPER.KSTATUS_ROLE.off, pSAFE + SAFE0.MISC_COUNTS_MONITOR_FENCES.off] [.keeperA, .keeperB, .safety] z) ∧
  (∀ (s : State) (k : Keeper), (∀ t ∈ s.zone.verdict k, s.zone.mono < t + 2500) → Completes (.monitorFence k) s fun z =>
      s.zone.Frame [] [] z)

/-- R149, R150, R151, R211, R269: a completion for an issued ticket of the same serial makes it DONE with its status, its value (0
but for OK and FAIL) and its age in slots; any other is counted late and changes no ticket; at a slot mark every issued ticket
past the timeout of its keeper ends with TIMEOUT, and between marks none; 1,000 µs without a valid beacon make a stage that has
heard one silent and report it; a load stage that turns silent enters its safe state, a CAN stage ends its waiting frames;
earlier, or in TEST, nothing changes. -/
def Obligations.TicketsCompleteAndTimeOut : Prop :=
  (∀ (s : State) (k : Keeper) (n : Fin 128) (st : Fin 7) (v : BitVec 16) (t : Ticket), s.zone.logicRuns = true →
    s.zone.ticket k n.val = t → t.state = .issued → Completes (.ticketCompletion k n t.serial st v) s fun z =>
      z.ticket k n.val = { t with state := .done, status := st.val, age := min 4095 (s.zone.keeperSlots - t.issueSlot), value := if st.val ≤ 1 then v.toNat else 0 } ∧
      (∀ j : Fin 128, j ≠ n → z.ticket k j.val = s.zone.ticket k j.val) ∧
      s.zone.Frame [pKEEPER k + KEEPER.TICKETS_IN_USE.off] [.tickets] z) ∧
  (∀ (s : State) (k : Keeper) (n : Fin 128) (ser : Nat) (st : Fin 7) (v : BitVec 16), s.zone.logicRuns = true →
    (ser ≠ (s.zone.ticket k n.val).serial ∨ (s.zone.ticket k n.val).state ≠ .issued) →
    Completes (.ticketCompletion k n ser st v) s fun z =>
      z.fld (pKEEPER k) KEEPER.TICKET_EVENTS_LATE = min (s.zone.fld (pKEEPER k) KEEPER.TICKET_EVENTS_LATE + 1) 0xFFFF ∧
      s.zone.Frame [pKEEPER k + KEEPER.TICKET_EVENTS_LATE.off] [] z) ∧
  (∀ (s : State) (k : Keeper) (n : Fin 128), s.zone.logicRuns = true → (s.zone.keeper k).markAt = some s.zone.mono →
    Completes (.ticketTimeout k) s fun z =>
      ((s.zone.ticket k n.val).state = .issued ∧ (s.zone.ticket k n.val).issueTick + s.zone.fld (pKEEPER k) KEEPER.CONFIG_TICKET_TIMEOUT * 250 ≤ s.zone.mono → z.ticket k n.val = { s.zone.ticket k n.val with state := .done, status := 3, age := min 4095 (s.zone.keeperSlots - (s.zone.ticket k n.val).issueSlot), value := 0 }) ∧
      ((s.zone.ticket k n.val).state ≠ .issued ∨ s.zone.mono < (s.zone.ticket k n.val).issueTick + s.zone.fld (pKEEPER k) KEEPER.CONFIG_TICKET_TIMEOUT * 250 → z.ticket k n.val = s.zone.ticket k n.val) ∧
      s.zone.Frame [pKEEPER k + KEEPER.TICKETS_IN_USE.off] [.tickets] z) ∧
  (∀ (s : State) (k : Keeper), (s.zone.keeper k).markAt ≠ some s.zone.mono → Completes (.ticketTimeout k) s fun z =>
      s.zone.Frame [] [] z) ∧
  (∀ (s : State) (i : Fin 112) (t : Nat), s.zone.logicRuns = true → (s.zone.stage i.val).lastHeard = some t →
    (s.zone.stage i.val).silent = false → t + 250000 ≤ s.zone.mono → s.zone.mode ≠ Mode.test → s.zone.sleep.phase < 3 →
    Completes (.stageSilent i) s fun z =>
      (z.stage i.val).silent = true ∧ (z.stage i.val).lastHeard = some t ∧
      (i.val < 48 → (s.zone.load i.val).forced = false → (z.load i.val).silent = true) ∧
      (i.val < 48 → (s.zone.load i.val).forced = false → s.zone.machine i.val = i.val → z.flag (pLOAD i.val) LOAD.CH_STATUS_SAFE_ACTIVE = true) ∧
      ((64 ≤ i.val ∧ i.val < 80) → (z.can (i.val - 64)).pend = []) ∧ s.zone.Reports z 2 0 ∧
      ((48 ≤ i.val ∧ i.val < 64) ∨ 80 ≤ i.val → s.zone.Frame [] [.stages, .safety] z) ∧
      (i.val < 48 → s.zone.BankFrame [1, 2] [.stages, .safety, .loads] z) ∧
      ((64 ≤ i.val ∧ i.val < 80) → s.zone.BankFrame [0, 6] [.stages, .safety, .cans, .tickets] z)) ∧
  (∀ (s : State) (i : Fin 112),
    ((s.zone.stage i.val).silent = true ∨ s.zone.mode = Mode.test ∨ ∀ t ∈ (s.zone.stage i.val).lastHeard, s.zone.mono < t + 250000) →
    Completes (.stageSilent i) s fun z =>
      s.zone.Frame [] [] z)

/-- R206, R207, R209, R220, R221: a beacon goes on the line once in its slot; one that is valid at the stages is heard by all 112
of them with its claim and slot, by the other keeper where it is valid in the slot that keeper counts, and leaves the line; a
stage that a disturbance reaches and where the frame is not valid hears nothing, as the other keeper; without a frame on the line
nothing is heard; the words and the closing frame of a slot reach the receiver of the keeper that does not hold the watch, with
their flipped bits, the holder receives none. -/
def Obligations.BeaconsAndMirrorFramesAreHeard : Prop :=
  (∀ (s : State) (k : Keeper) (x : Zone) (w e : Word) (h : Heard) (l : List Nat) (i : Fin 112), s.zone.logicRuns = true →
    x = s.zone.sendBeacon k → (x.keeper k).line = some w →
    Zone.hear (if l.contains i.val then w ^^^ e else w) s.zone.stageSlot = some h → Completes (.beaconReceive k e l) s fun z =>
      (z.stage i.val).lastHeard = some s.zone.mono ∧
      (match k with | .A => (z.stage i.val).heardA | .B => (z.stage i.val).heardB) = (h :: (match k with | .A => (s.zone.stage i.val).heardA | .B => (s.zone.stage i.val).heardB)).take 2 ∧
      (z.keeper k).line = none ∧ (z.keeper k).beaconDue = false ∧
      s.zone.Frame [pKEEPER k.other + KEEPER.BEACON_OTHER_CLAIM.off] [.keeperA, .keeperB, .stages] z) ∧
  (∀ (s : State) (k : Keeper) (x : Zone) (w e : Word) (h : Heard) (l : List Nat), s.zone.logicRuns = true →
    x = s.zone.sendBeacon k → (x.keeper k).line = some w →
    Zone.hear (if l.contains 112 then w ^^^ e else w) (s.zone.keeper k.other).slotNo = some h →
    Completes (.beaconReceive k e l) s fun z =>
      (z.keeper k.other).other.slot = some (s.zone.keeper k.other).slotNo ∧
      (z.keeper k.other).other.valid = min 64 ((s.zone.keeper k.other).other.valid + 1) ∧
      z.fld (pKEEPER k.other) KEEPER.BEACON_OTHER_CLAIM = h.claim ∧ (z.keeper k).line = none ∧
      s.zone.Frame [pKEEPER k.other + KEEPER.BEACON_OTHER_CLAIM.off] [.keeperA, .keeperB, .stages] z) ∧
  (∀ (s : State) (k : Keeper) (x : Zone) (w e : Word) (l : List Nat) (i : Fin 112), s.zone.logicRuns = true →
    x = s.zone.sendBeacon k → (x.keeper k).line = some w →
    Zone.hear (if l.contains i.val then w ^^^ e else w) s.zone.stageSlot = none → Completes (.beaconReceive k e l) s fun z =>
      z.stage i.val = s.zone.stage i.val ∧ (z.keeper k).line = none ∧
      ((Zone.hear (if l.contains 112 then w ^^^ e else w) (s.zone.keeper k.other).slotNo = none) → z.keeper k.other = s.zone.keeper k.other) ∧
      s.zone.Frame [pKEEPER k.other + KEEPER.BEACON_OTHER_CLAIM.off] [.keeperA, .keeperB, .stages] z) ∧
  (∀ (s : State) (k : Keeper) (e : Word) (l : List Nat), (s.zone.keeper k).beaconDue = false → (s.zone.keeper k).line = none →
    Completes (.beaconReceive k e l) s fun z =>
      s.zone.Frame [] [] z) ∧
  (∀ (s : State) (k : Keeper) (x : Zone) (f : MirrorFrame) (y : Bool) (l : List (Nat × Word)), s.zone.logicRuns = true →
    x = s.zone.sendBeacon k.other → (x.keeper k.other).sent = some f → s.zone.holdsWatch k = false →
    Completes (.mirrorFrameReceive k l y) s fun z =>
      (∃ ws, (z.keeper k).rx = some ⟨f.slot, ws, if y then none else f.closing⟩ ∧ ws.length = f.words.length ∧ (l = [] → ws = f.words) ∧ ∀ i : Fin ws.length, ∀ g ∈ f.words[i.val]?, (ws[i.val].1, ws[i.val].2.1) = (g.1, g.2.1) ∧ ∀ v : Word, l = [(i.val, v)] → ws[i.val].2.2 = g.2.2 ^^^ v) ∧
      (z.keeper k.other).sent = some f ∧ (z.keeper k).chart = (s.zone.keeper k).chart ∧ s.zone.Frame [] [.keeperA, .keeperB] z) ∧
  (∀ (s : State) (k : Keeper) (y : Bool) (l : List (Nat × Word)),
    (s.zone.holdsWatch k = true ∨ ((s.zone.keeper k.other).sent = none ∧ (s.zone.keeper k.other).beaconDue = false)) →
    Completes (.mirrorFrameReceive k l y) s fun z =>
      z.keeper k = s.zone.keeper k ∧ s.zone.Frame [] [.keeperA, .keeperB] z)

/-- R52, R119, R168, R169, R202, R203: a mark of the time base takes each keeper that has not yet marked the slot of network time
to it, with its round and slot by R169, a beacon due, its announced claim in force, the module's slot count one up where that
keeper leads, and every step that its table places there run to its end; with no keeper executing and no table waiting, nothing
but keeper pages and state changes; without a due mark nothing changes; a round boundary is such a mark; at one of the holder the
requested profile becomes active; a keeper that a mark does not reach in 420 cycles makes its own every 400, shows LOCAL and
reports it once. -/
def Obligations.SlotMarksAdvanceTheKeepers : Prop :=
  (∀ (s : State) (k : Keeper), s.zone.marksRun = true → s.zone.markDue.contains k = true → Completes (.slotMark) s fun z =>
      (z.keeper k).slotNo = s.zone.nowNs / 1000 ∧ (z.keeper k).markAt = some s.zone.mono ∧
      (z.keeper k).slot = s.zone.nowNs / 1000 % (z.keeper k).roundLen ∧
      (z.keeper k).round = s.zone.nowNs / 1000 / (z.keeper k).roundLen % 64 ∧ (z.keeper k).beaconDue = true ∧
      (s.zone.markDue.contains k.other = false → (z.keeper k.other).slotNo = (s.zone.keeper k.other).slotNo) ∧
      (z.keeperSlots = if s.zone.markDue.contains s.zone.leader then s.zone.keeperSlots + 1 else s.zone.keeperSlots)) ∧
  (∀ (s : State) (k : Keeper) (t : Table) (n i : Nat) (d : StepD), s.zone.marksRun = true → s.zone.mode ≠ Mode.test →
    s.zone.markDue.contains k = true → s.zone.executes k = true → s.zone.pause k = none → s.zone.watch = WatchSt.init →
    s.zone.runTable k = some t → t.mode = 0 → n = s.zone.nowNs / 1000 → (n % (s.zone.keeper k).roundLen, i) ∈ t.slotMap →
    t.steps[i]? = some d → d.mask.getLsbD (n / (s.zone.keeper k).roundLen % 64) = true → Completes (.slotMark) s fun z =>
      (z.executes k = true → (z.keeper k).inStep = false)) ∧
  (∀ (s : State), s.zone.marksRun = true → s.zone.mode ≠ Mode.test → s.zone.executes .A = false → s.zone.executes .B = false →
    s.zone.watch = WatchSt.init → Completes (.slotMark) s fun z =>
      s.zone.BankFrame [0] [.keeperA, .keeperB, .keeperSlots, .tickets, .pauses, .safety] z) ∧
  (∀ (s : State), (s.zone.marksRun = false ∨ s.zone.markDue = []) → Completes (.slotMark) s fun z =>
      s.zone.Frame [] [] z) ∧
  (∀ (s : State) (k : Keeper), s.zone.marksRun = true → s.zone.markDue.contains k = true → s.zone.roundStarts = true →
    Completes (.roundBoundary) s fun z =>
      (z.keeper k).slotNo = s.zone.nowNs / 1000 ∧ (z.keeper k).markAt = some s.zone.mono ∧
      (z.keeper k).slot = s.zone.nowNs / 1000 % (z.keeper k).roundLen ∧
      (z.keeper k).round = s.zone.nowNs / 1000 / (z.keeper k).roundLen % 64) ∧
  (∀ (s : State), s.zone.roundStarts = false → Completes (.roundBoundary) s fun z =>
      s.zone.Frame [] [] z) ∧
  (∀ (s : State) (t : Table) (k : Keeper), s.zone.marksRun = true → s.zone.mode = Mode.service →
    s.zone.markDue.contains k = true → s.zone.holdsWatch k = true → s.zone.fld (pZONE 1) KEEPER.WATCH_STATE_HOLDER = k.idx →
    s.zone.watch = WatchSt.init → s.zone.runTable k = some t → t.slotMap = [] → t.mode = 0 → s.zone.pause k = none →
    s.zone.executes k.other = false → s.zone.nowNs / 1000 % (s.zone.keeper k).roundLen = 0 → Completes (.roundBoundary) s fun z =>
      z.fld (pZONE 7) ZONE7.PROFILE_ACTIVE = s.zone.fld (pZONE 7) ZONE7.PROFILE_REQ ∧ (z.keeper k).slot = 0 ∧
      (z.keeper k).rounds = (s.zone.keeper k).rounds + 1 ∧ z.SameMemory s.zone) ∧
  (∀ (s : State) (k : Keeper) (t : Nat), s.zone.inMode [.start, .service, .lightship, .test] = true →
    (s.zone.keeper k).markAt = some t → t + s.zone.localWait k ≤ s.zone.mono → Completes (.localMark k) s fun z =>
      (z.keeper k).slotNo = (s.zone.keeper k).slotNo + 1 ∧ (z.keeper k).markAt = some s.zone.mono ∧
      z.flag (pKEEPER k) KEEPER.KSTATUS_MARK_LOCAL = true ∧
      (z.keeper k).slot = ((s.zone.keeper k).slotNo + 1) % (z.keeper k).roundLen ∧
      (z.keeper k.other).slotNo = (s.zone.keeper k.other).slotNo ∧
      ((s.zone.flag (pZONE 1) KEEPER.KSTATUS_MARK_LOCAL || s.zone.flag (pZONE 2) KEEPER.KSTATUS_MARK_LOCAL) = false → z.safety.reports.getLast? = some ⟨11, 0, false, z.mono, z.ts64⟩)) ∧
  (∀ (s : State) (k : Keeper),
    (∀ t ∈ (s.zone.keeper k).markAt, s.zone.mono < t + if s.zone.flag (pKEEPER k) KEEPER.KSTATUS_MARK_LOCAL then 250 else 263) →
    Completes (.localMark k) s fun z =>
      s.zone.Frame [] [] z)

/-- R177, R178, R181, R549, R552, R553: a permitted post of the bound mooring is answered 0: the last word of a frame appends the
whole frame to the words that no keeper still needs, another word waits in the incomplete frame; a first word without room for its
frame is refused QFULL and counted, with the words it announces; a post by any other source is answered QBIND, counted and
recorded, and stores nothing; a pop answers the oldest word and removes it, QEMPTY without one, QBIND to another source; a post or
pop that no region permits is answered REGION; an incomplete frame is discarded and counted after 100 µs; an owed notice is sent
once, by a kind 1 route to its IMSIC identity. -/
def Obligations.QueuesBetweenMooringsAndTables : Prop :=
  (∀ (s : State) (q : Fin 256) (src : Source) (w : Word) (b : QBind) (x : ReqQueue), s.zone.start.released = true →
    s.zone.permitted 12 src false true (0x1F3000000 + q.val * 0x1000) 4 = true → (s.zone.dropLeft q.val).reqQ q.val = x →
    x.bind = some b → b.admits src = true → x.refuse = 0 → x.need = 0 → w.toNat < 2 ^ 30 → s.zone.reqLevel q.val < b.depth →
    Completes (.requestPost q src w) s fun z =>
      (z.reqQ q.val).words = x.words ++ [⟨w, s.zone.keeperSlots⟩] ∧ (z.reqQ q.val).frame = [] ∧ z.resp = ⟨0, 0⟩ ∧
      s.zone.Frame [pHINGE 2 + (0x100 + 4 * q.val)] [.reqQs, .resp] z) ∧
  (∀ (s : State) (q : Fin 256) (src : Source) (w : Word) (b : QBind) (x : ReqQueue), s.zone.start.released = true →
    s.zone.permitted 12 src false true (0x1F3000000 + q.val * 0x1000) 4 = true → (s.zone.dropLeft q.val).reqQ q.val = x →
    x.bind = some b → b.admits src = true → x.refuse = 0 → x.need = 0 → 2 ^ 30 ≤ w.toNat →
    s.zone.reqLevel q.val + w.toNat / 2 ^ 30 + 1 ≤ b.depth → Completes (.requestPost q src w) s fun z =>
      (z.reqQ q.val).words = x.words ∧ (z.reqQ q.val).frame = [w] ∧ (z.reqQ q.val).need = w.toNat / 2 ^ 30 ∧
      (z.reqQ q.val).frameAt = s.zone.mono ∧ z.resp = ⟨0, 0⟩ ∧ s.zone.Frame [pHINGE 2 + (0x100 + 4 * q.val)] [.reqQs, .resp] z) ∧
  (∀ (s : State) (q : Fin 256) (src : Source) (w : Word) (b : QBind) (x : ReqQueue), s.zone.start.released = true →
    s.zone.permitted 12 src false true (0x1F3000000 + q.val * 0x1000) 4 = true → (s.zone.dropLeft q.val).reqQ q.val = x →
    x.bind = some b → b.admits src = true → x.refuse = 0 → x.need ≠ 0 → Completes (.requestPost q src w) s fun z =>
      (x.need = 1 → (z.reqQ q.val).words = x.words ++ (x.frame ++ [w]).map fun v => ⟨v, s.zone.keeperSlots⟩) ∧
      (x.need = 1 → (z.reqQ q.val).frame = [] ∧ (z.reqQ q.val).need = 0) ∧
      (1 < x.need → (z.reqQ q.val).words = x.words ∧ (z.reqQ q.val).frame = x.frame ++ [w] ∧ (z.reqQ q.val).need = x.need - 1) ∧
      z.resp = ⟨0, 0⟩ ∧ s.zone.Frame [pHINGE 2 + (0x100 + 4 * q.val)] [.reqQs, .resp] z) ∧
  (∀ (s : State) (q : Fin 256) (src : Source) (w : Word) (b : QBind) (x : ReqQueue), s.zone.start.released = true →
    s.zone.permitted 12 src false true (0x1F3000000 + q.val * 0x1000) 4 = true → (s.zone.dropLeft q.val).reqQ q.val = x →
    x.bind = some b → b.admits src = true → x.refuse = 0 → x.need = 0 → b.depth < s.zone.reqLevel q.val + w.toNat / 2 ^ 30 + 1 →
    Completes (.requestPost q src w) s fun z =>
      z.reqQ q.val = { x with refuse := w.toNat / 2 ^ 30 } ∧
      z.fld (pHINGE 2) (Zone.reqFld q.val 24 8) = min (s.zone.fld (pHINGE 2) (Zone.reqFld q.val 24 8) + 1) 255 ∧
      z.resp = ⟨9, 0⟩ ∧ z.fld (pHINGE 2) HINGE.Q_LAST_REFUSED_CODE = 9 ∧ z.fld (pHINGE 2) HINGE.Q_LAST_REFUSED_QUEUE = q.val ∧
      z.fld (pHINGE 2) HINGE.Q_COUNTS_POSTS_REFUSED = min (s.zone.fld (pHINGE 2) HINGE.Q_COUNTS_POSTS_REFUSED + 1) 65535 ∧
      s.zone.Frame [pHINGE 2 + (0x100 + 4 * q.val), pHINGE 2 + HINGE.Q_LAST_REFUSED_QUEUE.off, pHINGE 2 + HINGE.Q_COUNTS_POSTS_REFUSED.off] [.reqQs, .resp] z) ∧
  (∀ (s : State) (q : Fin 256) (src : Source) (w : Word) (b : QBind) (x : ReqQueue), s.zone.start.released = true →
    s.zone.permitted 12 src false true (0x1F3000000 + q.val * 0x1000) 4 = true → (s.zone.dropLeft q.val).reqQ q.val = x →
    x.bind = some b → b.admits src = true → x.refuse ≠ 0 → Completes (.requestPost q src w) s fun z =>
      z.reqQ q.val = { x with refuse := x.refuse - 1 } ∧ z.resp = ⟨9, 0⟩ ∧ z.fld (pHINGE 2) HINGE.Q_LAST_REFUSED_CODE = 9 ∧
      z.fld (pHINGE 2) HINGE.Q_LAST_REFUSED_QUEUE = q.val ∧
      z.fld (pHINGE 2) HINGE.Q_COUNTS_POSTS_REFUSED = min (s.zone.fld (pHINGE 2) HINGE.Q_COUNTS_POSTS_REFUSED + 1) 65535 ∧
      s.zone.Frame [pHINGE 2 + (0x100 + 4 * q.val), pHINGE 2 + HINGE.Q_LAST_REFUSED_QUEUE.off, pHINGE 2 + HINGE.Q_COUNTS_POSTS_REFUSED.off] [.reqQs, .resp] z) ∧
  (∀ (s : State) (q : Fin 256) (src : Source) (w : Word) (x : ReqQueue), s.zone.start.released = true →
    s.zone.permitted 12 src false true (0x1F3000000 + q.val * 0x1000) 4 = true → (s.zone.dropLeft q.val).reqQ q.val = x →
    (x.bind.any fun b => b.admits src) = false → Completes (.requestPost q src w) s fun z =>
      (z.reqQ q.val).words = x.words ∧ (z.reqQ q.val).frame = x.frame ∧ z.resp = ⟨0xA, 0⟩ ∧
      z.fld (pHINGE 2) HINGE.Q_LAST_REFUSED_CODE = 0xA ∧ z.fld (pHINGE 2) HINGE.Q_LAST_REFUSED_QUEUE = q.val ∧
      z.fld (pHINGE 2) HINGE.Q_COUNTS_POSTS_REFUSED = min (s.zone.fld (pHINGE 2) HINGE.Q_COUNTS_POSTS_REFUSED + 1) 65535 ∧
      s.zone.Frame [pHINGE 2 + (0x100 + 4 * q.val), pHINGE 2 + HINGE.Q_LAST_REFUSED_QUEUE.off, pHINGE 2 + HINGE.Q_COUNTS_POSTS_REFUSED.off] [.reqQs, .resp] z) ∧
  (∀ (s : State) (q : Fin 256) (src : Source) (w : Word), s.zone.start.released = true →
    s.zone.permitted 12 src false true (0x1F3000000 + q.val * 0x1000) 4 = false → Completes (.requestPost q src w) s fun z =>
      z.resp = ⟨Err.region, 0⟩ ∧ z.reqQs = s.zone.reqQs ∧ s.zone.BankFrame [14] [.resp] z) ∧
  (∀ (s : State) (q : Fin 256) (src : Source) (l : List Word) (b : QBind), s.zone.start.released = true →
    s.zone.permitted 12 src true false (0x1F3100000 + q.val * 0x1000) 4 = true → (s.zone.evtQ q.val).bind = some b →
    b.admits src = true → (s.zone.evtQ q.val).words = l → Completes (.eventPop q src) s fun z =>
      (z.evtQ q.val).words = l.drop 1 ∧ (z.resp = match l with | [] => ⟨0xB, 0⟩ | w :: _ => ⟨0, w.toNat⟩) ∧
      (z.evtQ q.val).bind = some b ∧ s.zone.Frame [pHINGE 2 + (0x500 + 4 * q.val)] [.evtQs, .resp] z) ∧
  (∀ (s : State) (q : Fin 256) (src : Source), s.zone.start.released = true →
    s.zone.permitted 12 src true false (0x1F3100000 + q.val * 0x1000) 4 = true →
    ((s.zone.evtQ q.val).bind.any fun b => b.admits src) = false → Completes (.eventPop q src) s fun z =>
      z.resp = ⟨0xA, 0⟩ ∧ z.fld (pHINGE 2) HINGE.Q_LAST_REFUSED_CODE = 0xA ∧
      z.fld (pHINGE 2) HINGE.Q_COUNTS_POPS_REFUSED = min (s.zone.fld (pHINGE 2) HINGE.Q_COUNTS_POPS_REFUSED + 1) 65535 ∧
      s.zone.Frame [pHINGE 2 + HINGE.Q_LAST_REFUSED_QUEUE.off, pHINGE 2 + HINGE.Q_COUNTS_POPS_REFUSED.off] [.resp] z) ∧
  (∀ (s : State) (q : Fin 256), s.zone.logicRuns = true → (s.zone.reqQ q.val).need ≠ 0 →
    (s.zone.reqQ q.val).frameAt + 25000 ≤ s.zone.mono → Completes (.frameTimeout q) s fun z =>
      z.reqQ q.val = { s.zone.reqQ q.val with frame := [], need := 0 } ∧
      z.fld (pHINGE 2) (Zone.reqFld q.val 16 8) = min (s.zone.fld (pHINGE 2) (Zone.reqFld q.val 16 8) + 1) 255 ∧
      s.zone.Frame [pHINGE 2 + (0x100 + 4 * q.val)] [.reqQs] z) ∧
  (∀ (s : State) (q : Fin 256), ((s.zone.reqQ q.val).need = 0 ∨ s.zone.mono < (s.zone.reqQ q.val).frameAt + 25000) →
    Completes (.frameTimeout q) s fun z =>
      s.zone.Frame [] [] z) ∧
  (∀ (s : State) (q : Fin 256) (h i : Fin 8) (n : BitVec 11), s.zone.logicRuns = true → (s.zone.evtQ q.val).noticeDue = true →
    (s.zone.rd (pHINGE 2 + 0x900 + 4 * q.val)).toNat = 2 ^ 30 + h.val * 2 ^ 27 + i.val * 2 ^ 24 + n.toNat → i.val ≤ 6 → n ≠ 0 →
    Completes (.eventQueueNotice q) s fun z =>
      (SMap.get (fun _ => 0) z.imsic (h.val * 8 + i.val)).testBit n.toNat = true ∧
      z.evtQ q.val = { s.zone.evtQ q.val with noticeDue := false } ∧
      s.zone.Frame [pHINGE 2 + (0x500 + 4 * q.val)] [.evtQs, .imsic] z) ∧
  (∀ (s : State) (q : Fin 256), s.zone.logicRuns = true → (s.zone.evtQ q.val).noticeDue = true →
    Completes (.eventQueueNotice q) s fun z =>
      z.evtQ q.val = { s.zone.evtQ q.val with noticeDue := false }) ∧
  (∀ (s : State) (q : Fin 256), (s.zone.evtQ q.val).noticeDue = false → Completes (.eventQueueNotice q) s fun z =>
      s.zone.Frame [] [] z)

/-- R198, R230: the first verdict of a healthy keeper on a load is kept and shown in its LOAD_RESULT as its loader's checks give
it, one of a keeper that is out is KEEPER_ABSENT; the second answers the command with both words and ends it, and where both
accept, both keepers hold the table and its trial waits for the next boundary; otherwise no table changes; without a load nothing
changes. -/
def Obligations.LoaderVerdictsCloseALoad : Prop :=
  (∀ (s : State) (k : Keeper) (c : LoadCmd) (v : Nat), s.zone.logicRuns = true → s.zone.watch.load = some c →
    (match k with | .A => c.wordB | .B => c.wordA) = none →
    v = (if s.zone.healthy k = true then (match s.zone.loaderCheck 0 c.image with | none => 0 | some (e, d) => Zone.loadWord e d) else Zone.loadWord 0x20 0) →
    Completes (.loaderVerdict k) s fun z =>
      z.rd (pKEEPER k + KEEPER.LOAD_RESULT_CODE.off) = BitVec.ofNat 32 v ∧
      z.watch = { s.zone.watch with load := some (match k with | .A => { c with wordA := some v } | .B => { c with wordB := some v }) } ∧
      s.zone.Frame [pKEEPER k + KEEPER.LOAD_RESULT_CODE.off] [.watch] z) ∧
  (∀ (s : State) (k : Keeper) (c : LoadCmd) (v o : Nat), s.zone.logicRuns = true → s.zone.watch.load = some c →
    (match k with | .A => c.wordB | .B => c.wordA) = some o →
    v = (if s.zone.healthy k = true then (match s.zone.loaderCheck 0 c.image with | none => 0 | some (e, d) => Zone.loadWord e d) else Zone.loadWord 0x20 0) →
    Completes (.loaderVerdict k) s fun z =>
      z.watch.load = none ∧
      z.lastAnswer = some (5, c.seq, 0, match k with | .A => leBytes 4 v ++ leBytes 4 o | .B => leBytes 4 o ++ leBytes 4 v) ∧
      (v = 0 ∧ o = 0 → z.watch.change = some (TableChange.trial, none) ∧ z.resTable .A = some (tableOf c.image) ∧ z.resTable .B = some (tableOf c.image)) ∧
      (v ≠ 0 ∨ o ≠ 0 → z.watch.change = s.zone.watch.change ∧ z.keeperA = s.zone.keeperA ∧ z.keeperB = s.zone.keeperB) ∧
      z.SameMemory s.zone) ∧
  (∀ (s : State) (k : Keeper), s.zone.watch.load = none → Completes (.loaderVerdict k) s fun z =>
      s.zone.Frame [] [] z)

/-! ### Load outputs -/

/-- R241, R242, R243, R244, R245, R249, R250, R257, R262, R263, R269, R283: an undefined REQ changes no field and is counted; a
write that a forced opening, a demand of the monitor or the pairing of an odd leg shuts out is counted as ignored; any other sets
REQ, GEN and PHASE and ends a safe state, and then: from OFF it opens a window (ON where WINDOW is 0), goes to THERMAL where the
latch is set, or to the state of a band that opens the channel; from WARMUP, ON and RESTART_WAIT REQ 0 opens the switches, another
request keeps state and window and takes effect at once, at the generator's boundary, after the restart or after the reversal gap;
TRIPPED goes to OFF with REQ 0; no other state moves. The boundary and the end of the gap apply what waits, not before. A write
with an undefined REQ also ends a safe state that silence set: the model's reading (log entry 91). -/
def Obligations.LoadRequestsAreApplied : Prop :=
  (∀ (s : State) (ch : Fin 48) (v : Word), s.zone.logicRuns = true → (s.zone.load ch.val).forced = false →
    s.zone.machine ch.val = ch.val → (s.zone.load ch.val).demanded = false → s.zone.reqMax ch.val < (v &&& 7#32).toNat →
    Completes (.chCtrlWrite ch v) s fun z =>
      z.fld (pLOAD ch.val) LOAD.MISC_COUNTS_BAD_REQ = min (s.zone.fld (pLOAD ch.val) LOAD.MISC_COUNTS_BAD_REQ + 1) 65535 ∧
      z.fld (pLOAD ch.val) LOAD.MISC_COUNTS_IGNORED = s.zone.fld (pLOAD ch.val) LOAD.MISC_COUNTS_IGNORED ∧
      z.rd (pLOAD ch.val) = s.zone.rd (pLOAD ch.val) ∧
      ((s.zone.load ch.val).silent = false → s.zone.Frame [(pLOAD ch.val) + LOAD.MISC_COUNTS_BAD_REQ.off] [] z) ∧
      (z.load ch.val).silent = false) ∧
  (∀ (s : State) (ch : Fin 48) (v : Word), s.zone.logicRuns = true →
    ((s.zone.load ch.val).forced = true ∨ (s.zone.load ch.val).demanded = true ∨ s.zone.machine ch.val ≠ ch.val) →
    Completes (.chCtrlWrite ch v) s fun z =>
      z.fld (pLOAD ch.val) LOAD.MISC_COUNTS_IGNORED = min (s.zone.fld (pLOAD ch.val) LOAD.MISC_COUNTS_IGNORED + 1) 65535 ∧
      z.fld (pLOAD ch.val) LOAD.MISC_COUNTS_BAD_REQ = s.zone.fld (pLOAD ch.val) LOAD.MISC_COUNTS_BAD_REQ ∧
      s.zone.Frame [(pLOAD ch.val) + LOAD.MISC_COUNTS_BAD_REQ.off] [] z) ∧
  (∀ (s : State) (ch : Fin 48) (v : Word) (r m : Nat), s.zone.logicRuns = true → m = ch.val → s.zone.machine ch.val = m →
    (s.zone.load ch.val).forced = false → (s.zone.load ch.val).demanded = false → r = (v &&& 7#32).toNat →
    r ≤ s.zone.reqMax ch.val → r ≠ 0 → s.zone.lstate m = 0 → s.zone.latched m = false → s.zone.bandState m = none →
    (s.zone.load ch.val).gapEnd = none → Completes (.chCtrlWrite ch v) s fun z =>
      z.fld (pLOAD ch.val) LOAD.CH_CTRL_REQ = r ∧ z.fld (pLOAD ch.val) LOAD.CH_CTRL_GEN = ((v >>> 8) &&& 15#32).toNat ∧
      z.fld (pLOAD ch.val) LOAD.CH_CTRL_PHASE = ((v >>> 16) &&& 255#32).toNat ∧
      z.flag (pLOAD ch.val) LOAD.CH_STATUS_SAFE_ACTIVE = false ∧ (z.load m).silent = false ∧ (z.load m).owed = false ∧
      (∀ i ∈ s.zone.members m, z.lstate i = if s.zone.fld (pLOAD ch.val) LOAD.WARMUP_CFG_WINDOW = 0 then 2 else 1) ∧
      z.fld (pLOAD ch.val) LOAD.CH_STATUS_RESTARTS = 0 ∧
      ((z.load m).windowEnd = if s.zone.fld (pLOAD ch.val) LOAD.WARMUP_CFG_WINDOW = 0 then none else some (s.zone.mono + s.zone.fld (pLOAD ch.val) LOAD.WARMUP_CFG_WINDOW * 250000)) ∧
      (z.load m).applied = r ∧ (z.load m).gen = ((v >>> 8) &&& 15#32).toNat ∧ (z.load m).phase = ((v >>> 16) &&& 255#32).toNat ∧
      (ch.val < 40 → z.flag (pLOAD ch.val) LOAD.CH_STATUS_CONDUCTING = (z.outputs ch.val).1) ∧
      (ch.val < 40 → r = 1 → z.outputs ch.val = (true, false) ∨ s.zone.feedBand (loadFeed ch.val) = 3) ∧
      s.zone.Frame ([pKEEPER .A + KEEPER.TICKETS_IN_USE.off, pKEEPER .B + KEEPER.TICKETS_IN_USE.off, pKEEPER .A + KEEPER.TICKET_EVENTS_LATE.off, pKEEPER .B + KEEPER.TICKET_EVENTS_LATE.off] ++ (s.zone.members m).flatMap fun i => [pLOAD i, pLOAD i + 4]) [.loads, .tickets] z) ∧
  (∀ (s : State) (ch : Fin 48) (v : Word) (r m : Nat), s.zone.logicRuns = true → m = ch.val → s.zone.machine ch.val = m →
    (s.zone.load ch.val).forced = false → (s.zone.load ch.val).demanded = false → r = (v &&& 7#32).toNat →
    r ≤ s.zone.reqMax ch.val → r ≠ 0 → s.zone.lstate m = 0 → s.zone.latched m = true → Completes (.chCtrlWrite ch v) s fun z =>
      z.fld (pLOAD ch.val) LOAD.CH_CTRL_REQ = r ∧ z.fld (pLOAD ch.val) LOAD.CH_CTRL_GEN = ((v >>> 8) &&& 15#32).toNat ∧
      z.fld (pLOAD ch.val) LOAD.CH_CTRL_PHASE = ((v >>> 16) &&& 255#32).toNat ∧
      z.flag (pLOAD ch.val) LOAD.CH_STATUS_SAFE_ACTIVE = false ∧ (z.load m).silent = false ∧ (z.load m).owed = false ∧
      (∀ i ∈ s.zone.members m, z.lstate i = 5) ∧ z.flag (pLOAD ch.val) LOAD.CH_STATUS_FRESH = true ∧
      (z.load m).hi = (s.zone.load ch.val).hi ∧
      s.zone.Frame ([pKEEPER .A + KEEPER.TICKETS_IN_USE.off, pKEEPER .B + KEEPER.TICKETS_IN_USE.off, pKEEPER .A + KEEPER.TICKET_EVENTS_LATE.off, pKEEPER .B + KEEPER.TICKET_EVENTS_LATE.off] ++ (s.zone.members m).flatMap fun i => [pLOAD i, pLOAD i + 4]) [.loads, .tickets] z) ∧
  (∀ (s : State) (ch : Fin 48) (v : Word) (r m b : Nat), s.zone.logicRuns = true → m = ch.val → s.zone.machine ch.val = m →
    (s.zone.load ch.val).forced = false → (s.zone.load ch.val).demanded = false → r = (v &&& 7#32).toNat →
    r ≤ s.zone.reqMax ch.val → r ≠ 0 → s.zone.lstate m = 0 → s.zone.latched m = false → s.zone.bandState m = some b →
    Completes (.chCtrlWrite ch v) s fun z =>
      z.fld (pLOAD ch.val) LOAD.CH_CTRL_REQ = r ∧ z.fld (pLOAD ch.val) LOAD.CH_CTRL_GEN = ((v >>> 8) &&& 15#32).toNat ∧
      z.fld (pLOAD ch.val) LOAD.CH_CTRL_PHASE = ((v >>> 16) &&& 255#32).toNat ∧
      z.flag (pLOAD ch.val) LOAD.CH_STATUS_SAFE_ACTIVE = false ∧ (z.load m).silent = false ∧ (z.load m).owed = false ∧
      (∀ i ∈ s.zone.members m, z.lstate i = b) ∧ (∀ i ∈ s.zone.members m, (z.load i).applied = 0 ∨ i ≠ m) ∧
      (s.zone.feedBand (loadFeed ch.val) ≠ 3 → ∀ i ∈ s.zone.members m, (z.load i).hi = false ∧ (z.load i).lo = false ∧ z.flag (pLOAD i) LOAD.CH_STATUS_CONDUCTING = false) ∧
      s.zone.Frame ([pKEEPER .A + KEEPER.TICKETS_IN_USE.off, pKEEPER .B + KEEPER.TICKETS_IN_USE.off, pKEEPER .A + KEEPER.TICKET_EVENTS_LATE.off, pKEEPER .B + KEEPER.TICKET_EVENTS_LATE.off] ++ (s.zone.members m).flatMap fun i => [pLOAD i, pLOAD i + 4]) [.loads, .tickets] z) ∧
  (∀ (s : State) (ch : Fin 48) (v : Word) (r m : Nat), s.zone.logicRuns = true → m = ch.val → s.zone.machine ch.val = m →
    (s.zone.load ch.val).forced = false → (s.zone.load ch.val).demanded = false → r = (v &&& 7#32).toNat →
    r ≤ s.zone.reqMax ch.val → r = 0 → (s.zone.lstate m = 1 ∨ s.zone.lstate m = 2 ∨ s.zone.lstate m = 3 ∨ s.zone.lstate m = 4) →
    Completes (.chCtrlWrite ch v) s fun z =>
      z.fld (pLOAD ch.val) LOAD.CH_CTRL_REQ = r ∧ z.fld (pLOAD ch.val) LOAD.CH_CTRL_GEN = ((v >>> 8) &&& 15#32).toNat ∧
      z.fld (pLOAD ch.val) LOAD.CH_CTRL_PHASE = ((v >>> 16) &&& 255#32).toNat ∧
      z.flag (pLOAD ch.val) LOAD.CH_STATUS_SAFE_ACTIVE = false ∧ (z.load m).silent = false ∧ (z.load m).owed = false ∧
      (∀ i ∈ s.zone.members m, z.lstate i = (s.zone.bandState m).getD 0) ∧
      z.fld (pLOAD ch.val) LOAD.CH_STATUS_CAUSE = s.zone.fld (pLOAD ch.val) LOAD.CH_STATUS_CAUSE ∧
      (∀ i ∈ s.zone.members m, (z.load i).applied = 0 ∨ i ≠ m) ∧
      (s.zone.feedBand (loadFeed ch.val) ≠ 3 → ∀ i ∈ s.zone.members m, (z.load i).hi = false ∧ (z.load i).lo = false ∧ z.flag (pLOAD i) LOAD.CH_STATUS_CONDUCTING = false) ∧
      s.zone.Frame ([pKEEPER .A + KEEPER.TICKETS_IN_USE.off, pKEEPER .B + KEEPER.TICKETS_IN_USE.off, pKEEPER .A + KEEPER.TICKET_EVENTS_LATE.off, pKEEPER .B + KEEPER.TICKET_EVENTS_LATE.off] ++ (s.zone.members m).flatMap fun i => [pLOAD i, pLOAD i + 4]) [.loads, .tickets] z) ∧
  (∀ (s : State) (ch : Fin 48) (v : Word) (r m e g p : Nat), s.zone.logicRuns = true → m = ch.val → s.zone.machine ch.val = m →
    (s.zone.load ch.val).forced = false → (s.zone.load ch.val).demanded = false → r = (v &&& 7#32).toNat →
    r ≤ s.zone.reqMax ch.val → r ≠ 0 → (s.zone.lstate m = 1 ∨ s.zone.lstate m = 2 ∨ s.zone.lstate m = 3) →
    e = (s.zone.load ch.val).applied → g = ((v >>> 8) &&& 15#32).toNat → p = ((v >>> 16) &&& 255#32).toNat →
    Completes (.chCtrlWrite ch v) s fun z =>
      z.fld (pLOAD ch.val) LOAD.CH_CTRL_REQ = r ∧ z.fld (pLOAD ch.val) LOAD.CH_CTRL_GEN = ((v >>> 8) &&& 15#32).toNat ∧
      z.fld (pLOAD ch.val) LOAD.CH_CTRL_PHASE = ((v >>> 16) &&& 255#32).toNat ∧
      z.flag (pLOAD ch.val) LOAD.CH_STATUS_SAFE_ACTIVE = false ∧ (z.load m).silent = false ∧ (z.load m).owed = false ∧
      z.lstate m = s.zone.lstate m ∧ (z.load m).windowEnd = (s.zone.load ch.val).windowEnd ∧
      (z.load m).spacingEnd = (s.zone.load ch.val).spacingEnd ∧
      z.fld (pLOAD ch.val) LOAD.CH_STATUS_RESTARTS = s.zone.fld (pLOAD ch.val) LOAD.CH_STATUS_RESTARTS ∧
      z.fld (pLOAD ch.val) LOAD.CH_STATUS_BUDGET = s.zone.fld (pLOAD ch.val) LOAD.CH_STATUS_BUDGET ∧
      ((s.zone.load ch.val).gapEnd.isSome = true → (z.load m).gapEnd = (s.zone.load ch.val).gapEnd ∧ (z.load m).applied = e) ∧
      ((s.zone.load ch.val).gapEnd = none ∧ s.zone.paired m = true ∧ bridgeDirection e ≠ 0 ∧ bridgeDirection r ≠ 0 ∧ bridgeDirection e ≠ bridgeDirection r ∧ s.zone.fld (pLOAD ch.val) LOAD.BRIDGE_CFG_REVERSE_GAP ≠ 0 → (z.load m).gapEnd = some (s.zone.mono + s.zone.fld (pLOAD ch.val) LOAD.BRIDGE_CFG_REVERSE_GAP * 250000) ∧ (z.load m).applied = 0) ∧
      ((s.zone.load ch.val).gapEnd = none ∧ s.zone.paired m = false ∧ s.zone.lstate m = 3 → (z.load m).applied = e) ∧
      ((s.zone.load ch.val).gapEnd = none ∧ s.zone.paired m = false ∧ s.zone.lstate m ≠ 3 ∧ s.zone.follows m e = false ∧ s.zone.follows m r = false → (z.load m).applied = r ∧ (z.load m).followSince = none) ∧
      ((s.zone.load ch.val).gapEnd = none ∧ s.zone.paired m = false ∧ s.zone.lstate m ≠ 3 ∧ (s.zone.follows m e = true ∨ s.zone.follows m r = true) ∧ (e ≠ r ∨ (s.zone.load ch.val).gen ≠ g ∨ (s.zone.load ch.val).phase ≠ p) → if (s.zone.gen (if s.zone.follows m e then (s.zone.load ch.val).gen else g)).cur.mode = 0 then (z.load m).applied = r ∧ (z.load m).gen = g ∧ (z.load m).phase = p else (z.load m).applied = e ∧ (z.load m).gen = (s.zone.load ch.val).gen ∧ (z.load m).followSince = some s.zone.nowNs) ∧
      s.zone.Frame ([pKEEPER .A + KEEPER.TICKETS_IN_USE.off, pKEEPER .B + KEEPER.TICKETS_IN_USE.off, pKEEPER .A + KEEPER.TICKET_EVENTS_LATE.off, pKEEPER .B + KEEPER.TICKET_EVENTS_LATE.off] ++ (s.zone.members m).flatMap fun i => [pLOAD i, pLOAD i + 4]) [.loads, .tickets] z) ∧
  (∀ (s : State) (ch : Fin 48) (v : Word) (r m : Nat), s.zone.logicRuns = true → m = ch.val → s.zone.machine ch.val = m →
    (s.zone.load ch.val).forced = false → (s.zone.load ch.val).demanded = false → r = (v &&& 7#32).toNat →
    r ≤ s.zone.reqMax ch.val → (5 ≤ s.zone.lstate m ∨ (s.zone.lstate m = 4 ∧ r ≠ 0) ∨ (s.zone.lstate m = 0 ∧ r = 0)) →
    Completes (.chCtrlWrite ch v) s fun z =>
      z.fld (pLOAD ch.val) LOAD.CH_CTRL_REQ = r ∧ z.fld (pLOAD ch.val) LOAD.CH_CTRL_GEN = ((v >>> 8) &&& 15#32).toNat ∧
      z.fld (pLOAD ch.val) LOAD.CH_CTRL_PHASE = ((v >>> 16) &&& 255#32).toNat ∧
      z.flag (pLOAD ch.val) LOAD.CH_STATUS_SAFE_ACTIVE = false ∧ (z.load m).silent = false ∧ (z.load m).owed = false ∧
      (∀ i ∈ s.zone.members m, z.lstate i = s.zone.lstate i) ∧
      (z.load m).hi = (s.zone.load ch.val).hi ∧ (z.load m).lo = (s.zone.load ch.val).lo ∧
      z.fld (pLOAD ch.val) LOAD.CH_STATUS_CAUSE = s.zone.fld (pLOAD ch.val) LOAD.CH_STATUS_CAUSE ∧
      s.zone.Frame ([pKEEPER .A + KEEPER.TICKETS_IN_USE.off, pKEEPER .B + KEEPER.TICKETS_IN_USE.off, pKEEPER .A + KEEPER.TICKET_EVENTS_LATE.off, pKEEPER .B + KEEPER.TICKET_EVENTS_LATE.off] ++ (s.zone.members m).flatMap fun i => [pLOAD i, pLOAD i + 4]) [.loads, .tickets] z) ∧
  (∀ (s : State) (ch : Fin 48) (v : Word) (r m : Nat) (d : OffDiag), s.zone.logicRuns = true → m = ch.val →
    s.zone.machine ch.val = m → (s.zone.load ch.val).forced = false → (s.zone.load ch.val).demanded = false →
    r = (v &&& 7#32).toNat → r ≤ s.zone.reqMax ch.val → r ≠ 0 → s.zone.members m = [m] → (s.zone.load ch.val).offDiag = some d →
    (s.zone.ticket d.ticket.keeper d.ticket.num).state = .issued →
    (s.zone.ticket d.ticket.keeper d.ticket.num).serial = d.ticket.serial → Completes (.chCtrlWrite ch v) s fun z =>
      (z.load m).offDiag = none ∧ (z.ticket d.ticket.keeper d.ticket.num).state = .done ∧
      (z.ticket d.ticket.keeper d.ticket.num).status = 4 ∧ (z.ticket d.ticket.keeper d.ticket.num).value = 0) ∧
  (∀ (s : State) (ch : Fin 48) (t : Nat), s.zone.logicRuns = true → (s.zone.load ch.val).gapEnd = some t → t ≤ s.zone.mono →
    Completes (.reverseGapEnd ch) s fun z =>
      (z.load ch.val).gapEnd = none ∧
      (s.zone.lstate ch.val = 1 ∨ s.zone.lstate ch.val = 2 → (z.load ch.val).applied = s.zone.effReq ch.val ∧ (z.load ch.val).gen = s.zone.fld (pLOAD ch.val) LOAD.CH_CTRL_GEN ∧ (z.load ch.val).phase = s.zone.fld (pLOAD ch.val) LOAD.CH_CTRL_PHASE) ∧
      (s.zone.lstate ch.val ≠ 1 ∧ s.zone.lstate ch.val ≠ 2 → z.load ch.val = { (s.zone.load ch.val) with gapEnd := none }) ∧
      z.lstate ch.val = s.zone.lstate ch.val ∧ s.zone.Frame ((s.zone.members ch.val).map fun i => pLOAD i + 4) [.loads] z) ∧
  (∀ (s : State) (ch : Fin 48), (∀ t ∈ (s.zone.load ch.val).gapEnd, s.zone.mono < t) → Completes (.reverseGapEnd ch) s fun z =>
      s.zone.Frame [] [] z) ∧
  (∀ (s : State) (ch : Fin 48) (t w : Nat) (g p : Nat), s.zone.logicRuns = true → (s.zone.load ch.val).followSince = some t →
    (s.zone.load ch.val).gapEnd = none →
    (g = if s.zone.follows ch.val (s.zone.load ch.val).applied then (s.zone.load ch.val).gen else s.zone.fld (pLOAD ch.val) LOAD.CH_CTRL_GEN) →
    (p = if s.zone.follows ch.val (s.zone.load ch.val).applied then (s.zone.load ch.val).phase else s.zone.fld (pLOAD ch.val) LOAD.CH_CTRL_PHASE) →
    w = (s.zone.gen g).cur.periodNs →
    ((s.zone.gen g).cur.mode = 0 ∨ (t + w - (s.zone.gen g).cur.shift p) / w < (s.zone.nowNs + w - (s.zone.gen g).cur.shift p) / w) →
    Completes (.followBoundary ch) s fun z =>
      (z.load ch.val).applied = s.zone.effReq ch.val ∧ (z.load ch.val).gen = s.zone.fld (pLOAD ch.val) LOAD.CH_CTRL_GEN ∧
      (z.load ch.val).phase = s.zone.fld (pLOAD ch.val) LOAD.CH_CTRL_PHASE ∧ (z.load ch.val).followSince = none ∧
      z.lstate ch.val = s.zone.lstate ch.val ∧ s.zone.Frame ((s.zone.members ch.val).map fun i => pLOAD i + 4) [.loads] z) ∧
  (∀ (s : State) (ch : Fin 48), (s.zone.load ch.val).followSince = none → Completes (.followBoundary ch) s fun z =>
      s.zone.Frame [] [] z)

/-- R251, R253, R254, R256, R257, R258, R259, R260, R262, R264: a current above the comparator's point trips a conducting channel
in ON at once, in WARMUP with the event taken 10 µs later: without a restart left, as WARMUP_END; excused by another channel's
sag, for no budget; without budget, as LOCKED_OUT with a record; else for one unit; the I²t accumulator follows its rule every 10
µs and trips WARMUP and ON at the limit; the latch sets at 175 °C and releases below 150 °C with the rows of its state; spacing,
window and 1 s of E = 0 end as the rules give; a sag of 2 V is recorded with its channel; a pair's legs share state, and a leg
where an event did not arise shows cause 8; below those points nothing trips. -/
def Obligations.LoadProtectionsOpenTheSwitch : Prop :=
  (∀ (s : State) (ch : Fin 48) (peak : BitVec 16) (m : Nat), s.zone.logicRuns = true → fastTripAt ch.val < peak.toNat →
    s.zone.flag (pLOAD ch.val) LOAD.CH_STATUS_CONDUCTING = true → m = s.zone.machine ch.val → s.zone.lstate m = 2 →
    Completes (.fastTrip ch peak) s fun z =>
      (∀ i ∈ s.zone.members m, z.lstate i = 4 ∧ z.fld (pLOAD i) LOAD.CH_STATUS_CAUSE = if i = ch.val then 1 else 8) ∧
      z.fld (pLOAD ch.val) LOAD.LAST_TRIP_PEAK = peak.toNat ∧ z.flag (pLOAD m) LOAD.CH_EVENT_FAST_TRIP = true ∧
      z.flag (pLOAD m) LOAD.CH_EVENT_TRIPPED = true ∧
      z.fld (pLOAD m) LOAD.COUNTS_FAST_TRIPS = min (s.zone.fld (pLOAD m) LOAD.COUNTS_FAST_TRIPS + 1) 255 ∧
      (∀ i ∈ s.zone.members m, (z.load i).applied = 0 ∨ i ≠ m) ∧
      (s.zone.feedBand (loadFeed ch.val) ≠ 3 → ∀ i ∈ s.zone.members m, (z.load i).hi = false ∧ (z.load i).lo = false ∧ z.flag (pLOAD i) LOAD.CH_STATUS_CONDUCTING = false) ∧
      s.zone.Frame ((s.zone.members m).flatMap fun i => [pLOAD i + 4, pLOAD i + 8, pLOAD i + 0x38, pLOAD i + 0x3C]) [.loads] z) ∧
  (∀ (s : State) (ch : Fin 48) (peak : BitVec 16) (m : Nat), s.zone.logicRuns = true → fastTripAt ch.val < peak.toNat →
    s.zone.flag (pLOAD ch.val) LOAD.CH_STATUS_CONDUCTING = true → m = s.zone.machine ch.val → s.zone.lstate m = 1 →
    Completes (.fastTrip ch peak) s fun z =>
      (∀ i ∈ s.zone.members m, z.lstate i = s.zone.lstate i) ∧ (z.load m).tripAt = some s.zone.mono ∧
      (z.load m).tripLeg = ch.val ∧ z.fld (pLOAD ch.val) LOAD.LAST_TRIP_PEAK = peak.toNat ∧
      z.fld (pLOAD m) LOAD.CH_STATUS_BUDGET = s.zone.fld (pLOAD m) LOAD.CH_STATUS_BUDGET ∧
      (s.zone.feedBand (loadFeed ch.val) ≠ 3 → ∀ i ∈ s.zone.members m, (z.load i).hi = false ∧ (z.load i).lo = false) ∧
      s.zone.Frame ((s.zone.members m).flatMap fun i => [pLOAD i + 4, pLOAD i + 0x38]) [.loads] z) ∧
  (∀ (s : State) (ch : Fin 48) (peak : BitVec 16),
    (peak.toNat ≤ fastTripAt ch.val ∨ s.zone.flag (pLOAD ch.val) LOAD.CH_STATUS_CONDUCTING = false) →
    Completes (.fastTrip ch peak) s fun z =>
      s.zone.Frame [] [] z) ∧
  (∀ (s : State) (ch : Fin 48) (t e m : Nat), s.zone.logicRuns = true → m = ch.val → s.zone.lstate m = 1 →
    (s.zone.load ch.val).tripAt = some t → t + 2500 ≤ s.zone.mono →
    e = t + (s.zone.fld (pLOAD ch.val) LOAD.WARMUP_CFG_SPACING + 1) * 25000 →
    (s.zone.fld (pLOAD ch.val) LOAD.CH_STATUS_RESTARTS = 15 ∨ (s.zone.load ch.val).windowEnd.getD 0 ≤ e) →
    Completes (.warmupTripTaken ch) s fun z =>
      (∀ i ∈ s.zone.members m, z.lstate i = 4 ∧ z.fld (pLOAD i) LOAD.CH_STATUS_CAUSE = if i = (s.zone.load ch.val).tripLeg then 4 else 8) ∧
      z.flag (pLOAD ch.val) LOAD.CH_EVENT_TRIPPED = true ∧
      z.fld (pLOAD ch.val) LOAD.CH_STATUS_BUDGET = s.zone.fld (pLOAD ch.val) LOAD.CH_STATUS_BUDGET ∧
      z.flag (pLOAD ch.val) LOAD.CH_EVENT_FAST_TRIP = true ∧
      z.fld (pLOAD ch.val) LOAD.COUNTS_FAST_TRIPS = min (s.zone.fld (pLOAD ch.val) LOAD.COUNTS_FAST_TRIPS + 1) 255 ∧
      z.fld (pLOAD ch.val) LOAD.LAST_TRIP_SAG_SRC = s.zone.sagSource (s.zone.load ch.val).tripLeg t ∧
      ((s.zone.tripSags (s.zone.load ch.val).tripLeg t).1 = [] → z.fld (pLOAD ch.val) LOAD.LAST_TRIP_SAG_SRC = 0xFF) ∧
      (z.load m).tripAt = none ∧ (∀ i ∈ s.zone.members m, (z.load i).applied = 0 ∨ i ≠ m) ∧
      (s.zone.feedBand (loadFeed ch.val) ≠ 3 → ∀ i ∈ s.zone.members m, (z.load i).hi = false ∧ (z.load i).lo = false ∧ z.flag (pLOAD i) LOAD.CH_STATUS_CONDUCTING = false) ∧
      s.zone.Frame ((s.zone.members m).flatMap fun i => [pLOAD i + 4, pLOAD i + 8, pLOAD i + 0x38, pLOAD i + 0x3C]) [.loads] z) ∧
  (∀ (s : State) (ch : Fin 48) (t e m : Nat), s.zone.logicRuns = true → m = ch.val → s.zone.lstate m = 1 →
    (s.zone.load ch.val).tripAt = some t → t + 2500 ≤ s.zone.mono →
    e = t + (s.zone.fld (pLOAD ch.val) LOAD.WARMUP_CFG_SPACING + 1) * 25000 →
    s.zone.fld (pLOAD ch.val) LOAD.CH_STATUS_RESTARTS ≠ 15 → e < (s.zone.load ch.val).windowEnd.getD 0 →
    (s.zone.tripSags (s.zone.load ch.val).tripLeg t).2 ≠ [] → Completes (.warmupTripTaken ch) s fun z =>
      (∀ i ∈ s.zone.members m, z.lstate i = 3) ∧
      z.fld (pLOAD ch.val) LOAD.CH_STATUS_RESTARTS = s.zone.fld (pLOAD ch.val) LOAD.CH_STATUS_RESTARTS + 1 ∧
      z.fld (pLOAD ch.val) LOAD.CH_STATUS_BUDGET = s.zone.fld (pLOAD ch.val) LOAD.CH_STATUS_BUDGET ∧
      (z.load m).spacingEnd = some e ∧ z.flag (pLOAD ch.val) LOAD.CH_EVENT_EXCUSED = true ∧
      z.fld (pLOAD ch.val) LOAD.COUNTS_EXCUSED = min (s.zone.fld (pLOAD ch.val) LOAD.COUNTS_EXCUSED + 1) 255 ∧
      z.flag (pLOAD ch.val) LOAD.CH_EVENT_FAST_TRIP = true ∧
      z.fld (pLOAD ch.val) LOAD.COUNTS_FAST_TRIPS = min (s.zone.fld (pLOAD ch.val) LOAD.COUNTS_FAST_TRIPS + 1) 255 ∧
      z.fld (pLOAD ch.val) LOAD.LAST_TRIP_SAG_SRC = s.zone.sagSource (s.zone.load ch.val).tripLeg t ∧
      ((s.zone.tripSags (s.zone.load ch.val).tripLeg t).1 = [] → z.fld (pLOAD ch.val) LOAD.LAST_TRIP_SAG_SRC = 0xFF) ∧
      (z.load m).tripAt = none ∧
      (s.zone.feedBand (loadFeed ch.val) ≠ 3 → ∀ i ∈ s.zone.members m, (z.load i).hi = false ∧ (z.load i).lo = false) ∧
      s.zone.Frame ((s.zone.members m).flatMap fun i => [pLOAD i + 4, pLOAD i + 8, pLOAD i + 0x38, pLOAD i + 0x3C]) [.loads] z) ∧
  (∀ (s : State) (ch : Fin 48) (t e m : Nat), s.zone.logicRuns = true → m = ch.val → s.zone.lstate m = 1 →
    (s.zone.load ch.val).tripAt = some t → t + 2500 ≤ s.zone.mono →
    e = t + (s.zone.fld (pLOAD ch.val) LOAD.WARMUP_CFG_SPACING + 1) * 25000 →
    s.zone.fld (pLOAD ch.val) LOAD.CH_STATUS_RESTARTS ≠ 15 → e < (s.zone.load ch.val).windowEnd.getD 0 →
    (s.zone.tripSags (s.zone.load ch.val).tripLeg t).2 = [] → s.zone.fld (pLOAD ch.val) LOAD.CH_STATUS_BUDGET ≠ 0 →
    Completes (.warmupTripTaken ch) s fun z =>
      (∀ i ∈ s.zone.members m, z.lstate i = 3) ∧
      z.fld (pLOAD ch.val) LOAD.CH_STATUS_BUDGET + 1 = s.zone.fld (pLOAD ch.val) LOAD.CH_STATUS_BUDGET ∧
      z.fld (pLOAD ch.val) LOAD.CH_STATUS_RESTARTS = s.zone.fld (pLOAD ch.val) LOAD.CH_STATUS_RESTARTS + 1 ∧
      (z.load m).spacingEnd = some e ∧ z.flag (pLOAD ch.val) LOAD.CH_EVENT_FAST_TRIP = true ∧
      z.fld (pLOAD ch.val) LOAD.COUNTS_FAST_TRIPS = min (s.zone.fld (pLOAD ch.val) LOAD.COUNTS_FAST_TRIPS + 1) 255 ∧
      z.fld (pLOAD ch.val) LOAD.LAST_TRIP_SAG_SRC = s.zone.sagSource (s.zone.load ch.val).tripLeg t ∧
      ((s.zone.tripSags (s.zone.load ch.val).tripLeg t).1 = [] → z.fld (pLOAD ch.val) LOAD.LAST_TRIP_SAG_SRC = 0xFF) ∧
      (z.load m).tripAt = none ∧
      (s.zone.feedBand (loadFeed ch.val) ≠ 3 → ∀ i ∈ s.zone.members m, (z.load i).hi = false ∧ (z.load i).lo = false) ∧
      s.zone.Frame ((s.zone.members m).flatMap fun i => [pLOAD i + 4, pLOAD i + 8, pLOAD i + 0x38, pLOAD i + 0x3C]) [.loads] z) ∧
  (∀ (s : State) (ch : Fin 48) (t e m : Nat), s.zone.logicRuns = true → m = ch.val → s.zone.lstate m = 1 →
    (s.zone.load ch.val).tripAt = some t → t + 2500 ≤ s.zone.mono →
    e = t + (s.zone.fld (pLOAD ch.val) LOAD.WARMUP_CFG_SPACING + 1) * 25000 →
    s.zone.fld (pLOAD ch.val) LOAD.CH_STATUS_RESTARTS ≠ 15 → e < (s.zone.load ch.val).windowEnd.getD 0 →
    (s.zone.tripSags (s.zone.load ch.val).tripLeg t).2 = [] → s.zone.fld (pLOAD ch.val) LOAD.CH_STATUS_BUDGET = 0 →
    Completes (.warmupTripTaken ch) s fun z =>
      (∀ i ∈ s.zone.members m, z.lstate i = 6 ∧ z.fld (pLOAD i) LOAD.CH_STATUS_CAUSE = if i = (s.zone.load ch.val).tripLeg then 5 else 8) ∧
      z.flag (pLOAD ch.val) LOAD.CH_EVENT_LOCKED_OUT = true ∧
      z.fld (pLOAD ch.val) LOAD.COUNTS_LOCKOUTS = min (s.zone.fld (pLOAD ch.val) LOAD.COUNTS_LOCKOUTS + 1) 255 ∧
      (s.zone.records.length < 256 → z.records.length = s.zone.records.length + 1) ∧
      z.flag (pLOAD ch.val) LOAD.CH_EVENT_FAST_TRIP = true ∧
      z.fld (pLOAD ch.val) LOAD.COUNTS_FAST_TRIPS = min (s.zone.fld (pLOAD ch.val) LOAD.COUNTS_FAST_TRIPS + 1) 255 ∧
      z.fld (pLOAD ch.val) LOAD.LAST_TRIP_SAG_SRC = s.zone.sagSource (s.zone.load ch.val).tripLeg t ∧
      ((s.zone.tripSags (s.zone.load ch.val).tripLeg t).1 = [] → z.fld (pLOAD ch.val) LOAD.LAST_TRIP_SAG_SRC = 0xFF) ∧
      (z.load m).tripAt = none ∧ (∀ i ∈ s.zone.members m, (z.load i).applied = 0 ∨ i ≠ m) ∧
      (s.zone.feedBand (loadFeed ch.val) ≠ 3 → ∀ i ∈ s.zone.members m, (z.load i).hi = false ∧ (z.load i).lo = false ∧ z.flag (pLOAD i) LOAD.CH_STATUS_CONDUCTING = false) ∧
      s.zone.BankFrame [1, 10] [.loads, .records, .log] z) ∧
  (∀ (s : State) (ch : Fin 48), (s.zone.lstate ch.val ≠ 1 ∨ ∀ t ∈ (s.zone.load ch.val).tripAt, s.zone.mono < t + 2500) →
    Completes (.warmupTripTaken ch) s fun z =>
      s.zone.Frame [] [] z) ∧
  (∀ (s : State) (ch : Fin 48) (raw : BitVec 32) (a : Nat) (cur : Int), s.zone.logicRuns = true →
    (∀ t ∈ (s.zone.load ch.val).tickAt, t + 2500 ≤ s.zone.mono) → (s.zone.cal ch.val).held = none →
    cur = Int.tdiv (raw.toInt * s.zone.fld (pCAL ch.val) CAL.GAIN_G) 65536 + s.zone.fldS (pCAL ch.val) CAL.OFFSET_O →
    a = (s.zone.load ch.val).acc + (cur.natAbs / 100) ^ 2 - s.zone.fld (pLOAD ch.val) LOAD.SOFT_CFG_I_NOM ^ 2 →
    (a < s.zone.fld (pLOAD ch.val) LOAD.SOFT_LIMIT_LIMIT * 1000000 ∨ (s.zone.lstate (s.zone.machine ch.val) ≠ 1 ∧ s.zone.lstate (s.zone.machine ch.val) ≠ 2)) →
    Completes (.softLimitTick ch raw) s fun z =>
      z.load ch.val = { (s.zone.load ch.val) with acc := a, tickAt := some s.zone.mono } ∧
      (a / 1000000 < 2 ^ 24 → z.fld (pLOAD ch.val) LOAD.I2T_ACC_ACC = a / 1000000) ∧
      z.rd ((pLOAD ch.val) + LOAD.CUR_RAW_CURRENT.off) = raw ∧
      (-2147483648 ≤ cur ∧ cur < 2147483648 → z.fldS (pLOAD ch.val) LOAD.CUR_CURRENT = cur) ∧
      s.zone.Frame [(pLOAD ch.val) + 0x0C, (pLOAD ch.val) + 0x10, (pLOAD ch.val) + 0x1C] [.loads, .freeNext] z) ∧
  (∀ (s : State) (ch : Fin 48) (raw : BitVec 32) (cur : Int) (m : Nat), s.zone.logicRuns = true →
    (∀ t ∈ (s.zone.load ch.val).tickAt, t + 2500 ≤ s.zone.mono) → (s.zone.cal ch.val).held = none →
    cur = Int.tdiv (raw.toInt * s.zone.fld (pCAL ch.val) CAL.GAIN_G) 65536 + s.zone.fldS (pCAL ch.val) CAL.OFFSET_O →
    s.zone.fld (pLOAD ch.val) LOAD.SOFT_LIMIT_LIMIT * 1000000 ≤ (s.zone.load ch.val).acc + (cur.natAbs / 100) ^ 2 - s.zone.fld (pLOAD ch.val) LOAD.SOFT_CFG_I_NOM ^ 2 →
    m = s.zone.machine ch.val → (s.zone.lstate m = 1 ∨ s.zone.lstate m = 2) → Completes (.softLimitTick ch raw) s fun z =>
      (∀ i ∈ s.zone.members m, z.lstate i = 4 ∧ z.fld (pLOAD i) LOAD.CH_STATUS_CAUSE = if i = ch.val then 2 else 8) ∧
      z.flag (pLOAD m) LOAD.CH_EVENT_SOFT_TRIP = true ∧ z.flag (pLOAD m) LOAD.CH_EVENT_TRIPPED = true ∧
      (∀ i ∈ s.zone.members m, (z.load i).applied = 0 ∨ i ≠ m) ∧
      (s.zone.feedBand (loadFeed ch.val) ≠ 3 → ∀ i ∈ s.zone.members m, (z.load i).hi = false ∧ (z.load i).lo = false ∧ z.flag (pLOAD i) LOAD.CH_STATUS_CONDUCTING = false) ∧
      s.zone.Frame ([(pLOAD ch.val) + 0x0C, (pLOAD ch.val) + 0x10, (pLOAD ch.val) + 0x1C] ++ (s.zone.members m).flatMap fun i => [pLOAD i + 4, pLOAD i + 8]) [.loads, .freeNext] z) ∧
  (∀ (s : State) (ch : Fin 48) (raw : BitVec 32) (t : Nat), (s.zone.load ch.val).tickAt = some t → s.zone.mono < t + 2500 →
    Completes (.softLimitTick ch raw) s fun z =>
      s.zone.Frame [] [] z) ∧
  (∀ (s : State) (ch : Fin 48) (temp : BitVec 16) (m : Nat), s.zone.logicRuns = true →
    s.zone.paceDue (Pace.junction ch.val) 2500 = true → m = s.zone.machine ch.val → 2800 ≤ temp.toInt →
    s.zone.flag (pLOAD ch.val) LOAD.CH_STATUS_LATCH = false → 1 ≤ s.zone.lstate m → s.zone.lstate m ≤ 3 →
    Completes (.junctionSample ch temp) s fun z =>
      z.flag (pLOAD ch.val) LOAD.CH_STATUS_LATCH = true ∧
      (∀ i ∈ s.zone.members m, z.lstate i = 5 ∧ z.fld (pLOAD i) LOAD.CH_STATUS_CAUSE = if i = ch.val then 3 else 8) ∧
      z.flag (pLOAD m) LOAD.CH_STATUS_FRESH = false ∧ z.flag (pLOAD m) LOAD.CH_EVENT_THERMAL_SET = true ∧
      z.fld (pLOAD m) LOAD.COUNTS_THERMAL = min (s.zone.fld (pLOAD m) LOAD.COUNTS_THERMAL + 1) 255 ∧
      (∀ i ∈ s.zone.members m, (z.load i).applied = 0 ∨ i ≠ m) ∧
      (s.zone.feedBand (loadFeed ch.val) ≠ 3 → ∀ i ∈ s.zone.members m, (z.load i).hi = false ∧ (z.load i).lo = false ∧ z.flag (pLOAD i) LOAD.CH_STATUS_CONDUCTING = false) ∧
      z.fld (pLOAD ch.val) LOAD.TJ_TEMP = temp.toNat ∧
      s.zone.Frame ([(pLOAD ch.val) + 0x14] ++ (s.zone.members m).flatMap fun i => [pLOAD i + 4, pLOAD i + 8, pLOAD i + 0x3C]) [.loads, .pace] z) ∧
  (∀ (s : State) (ch : Fin 48) (temp : BitVec 16) (m : Nat), s.zone.logicRuns = true →
    s.zone.paceDue (Pace.junction ch.val) 2500 = true → m = s.zone.machine ch.val → 2800 ≤ temp.toInt →
    s.zone.flag (pLOAD ch.val) LOAD.CH_STATUS_LATCH = false → (s.zone.lstate m = 0 ∨ 4 ≤ s.zone.lstate m) →
    Completes (.junctionSample ch temp) s fun z =>
      z.flag (pLOAD ch.val) LOAD.CH_STATUS_LATCH = true ∧ (∀ i ∈ s.zone.members m, z.lstate i = s.zone.lstate i) ∧
      z.fld (pLOAD m) LOAD.COUNTS_THERMAL = min (s.zone.fld (pLOAD m) LOAD.COUNTS_THERMAL + 1) 255 ∧ z.loads = s.zone.loads ∧
      z.fld (pLOAD ch.val) LOAD.TJ_TEMP = temp.toNat ∧
      s.zone.Frame ([(pLOAD ch.val) + 0x14] ++ (s.zone.members m).flatMap fun i => [pLOAD i + 4, pLOAD i + 8, pLOAD i + 0x3C]) [.pace] z) ∧
  (∀ (s : State) (ch : Fin 48) (temp : BitVec 16) (m : Nat), s.zone.logicRuns = true →
    s.zone.paceDue (Pace.junction ch.val) 2500 = true → m = s.zone.machine ch.val →
    ((2400 ≤ temp.toInt ∧ temp.toInt < 2800) ∨ (2400 ≤ temp.toInt ∧ s.zone.flag (pLOAD ch.val) LOAD.CH_STATUS_LATCH = true) ∨ (temp.toInt < 2800 ∧ s.zone.flag (pLOAD ch.val) LOAD.CH_STATUS_LATCH = false)) →
    Completes (.junctionSample ch temp) s fun z =>
      z.fld (pLOAD ch.val) LOAD.TJ_TEMP = temp.toNat ∧ s.zone.Frame [(pLOAD ch.val) + 0x14] [.pace] z) ∧
  (∀ (s : State) (ch : Fin 48) (temp : BitVec 16), s.zone.paceDue (Pace.junction ch.val) 2500 = false →
    Completes (.junctionSample ch temp) s fun z =>
      s.zone.Frame [] [] z) ∧
  (∀ (s : State) (ch : Fin 48) (temp : BitVec 16) (m : Nat), s.zone.logicRuns = true →
    s.zone.paceDue (Pace.junction ch.val) 2500 = true → m = s.zone.machine ch.val → temp.toInt < 2400 →
    s.zone.flag (pLOAD ch.val) LOAD.CH_STATUS_LATCH = true →
    (s.zone.lstate m ≠ 5 ∨ ∃ i ∈ s.zone.members m, i ≠ ch.val ∧ s.zone.flag (pLOAD i) LOAD.CH_STATUS_LATCH = true) →
    Completes (.junctionSample ch temp) s fun z =>
      z.flag (pLOAD ch.val) LOAD.CH_STATUS_LATCH = false ∧ (∀ i ∈ s.zone.members m, z.lstate i = s.zone.lstate i) ∧
      s.zone.Frame [(pLOAD ch.val) + 4, (pLOAD ch.val) + 0x14] [.pace] z) ∧
  (∀ (s : State) (ch : Fin 48) (temp : BitVec 16) (m : Nat), s.zone.logicRuns = true →
    s.zone.paceDue (Pace.junction ch.val) 2500 = true → m = s.zone.machine ch.val → temp.toInt < 2400 →
    s.zone.flag (pLOAD ch.val) LOAD.CH_STATUS_LATCH = true → s.zone.lstate m = 5 →
    (∀ i ∈ s.zone.members m, i ≠ ch.val → s.zone.flag (pLOAD i) LOAD.CH_STATUS_LATCH = false) → s.zone.effReq m = 0 →
    Completes (.junctionSample ch temp) s fun z =>
      (∀ i ∈ s.zone.members m, z.lstate i = (s.zone.bandState m).getD 0) ∧
      z.fld (pLOAD m) LOAD.CH_STATUS_BUDGET = s.zone.fld (pLOAD m) LOAD.CH_STATUS_BUDGET ∧
      z.flag (pLOAD ch.val) LOAD.CH_STATUS_LATCH = false ∧ z.flag (pLOAD m) LOAD.CH_STATUS_FRESH = false ∧
      z.flag (pLOAD m) LOAD.CH_EVENT_THERMAL_RELEASE = true ∧ z.fld (pLOAD ch.val) LOAD.TJ_TEMP = temp.toNat ∧
      s.zone.Frame ([(pLOAD ch.val) + 0x14] ++ (s.zone.members m).flatMap fun i => [pLOAD i + 4, pLOAD i + 8, pLOAD i + 0x3C]) [.loads, .pace] z) ∧
  (∀ (s : State) (ch : Fin 48) (temp : BitVec 16) (m : Nat), s.zone.logicRuns = true →
    s.zone.paceDue (Pace.junction ch.val) 2500 = true → m = s.zone.machine ch.val → temp.toInt < 2400 →
    s.zone.flag (pLOAD ch.val) LOAD.CH_STATUS_LATCH = true → s.zone.lstate m = 5 →
    (∀ i ∈ s.zone.members m, i ≠ ch.val → s.zone.flag (pLOAD i) LOAD.CH_STATUS_LATCH = false) → s.zone.effReq m ≠ 0 →
    (s.zone.flag (pLOAD m) LOAD.CH_STATUS_FRESH = true ∨ s.zone.fld (pLOAD m) LOAD.CH_STATUS_BUDGET ≠ 0) →
    s.zone.bandState m = none → Completes (.junctionSample ch temp) s fun z =>
      (∀ i ∈ s.zone.members m, z.lstate i = if s.zone.fld (pLOAD m) LOAD.WARMUP_CFG_WINDOW = 0 then 2 else 1) ∧
      ((z.load m).windowEnd = if s.zone.fld (pLOAD m) LOAD.WARMUP_CFG_WINDOW = 0 then none else some (s.zone.mono + s.zone.fld (pLOAD m) LOAD.WARMUP_CFG_WINDOW * 250000)) ∧
      z.fld (pLOAD m) LOAD.CH_STATUS_RESTARTS = 0 ∧
      z.fld (pLOAD m) LOAD.CH_STATUS_BUDGET + (if s.zone.flag (pLOAD m) LOAD.CH_STATUS_FRESH then 0 else 1) = s.zone.fld (pLOAD m) LOAD.CH_STATUS_BUDGET ∧
      (s.zone.flag (pLOAD m) LOAD.CH_STATUS_FRESH = false → z.flag (pLOAD m) LOAD.CH_EVENT_RESTART = true) ∧
      ((s.zone.load m).gapEnd = none → (z.load m).applied = s.zone.effReq m) ∧
      z.flag (pLOAD ch.val) LOAD.CH_STATUS_LATCH = false ∧ z.flag (pLOAD m) LOAD.CH_STATUS_FRESH = false ∧
      z.flag (pLOAD m) LOAD.CH_EVENT_THERMAL_RELEASE = true ∧ z.fld (pLOAD ch.val) LOAD.TJ_TEMP = temp.toNat ∧
      s.zone.Frame ([(pLOAD ch.val) + 0x14] ++ (s.zone.members m).flatMap fun i => [pLOAD i + 4, pLOAD i + 8, pLOAD i + 0x3C]) [.loads, .pace] z) ∧
  (∀ (s : State) (ch : Fin 48) (temp : BitVec 16) (m b : Nat), s.zone.logicRuns = true →
    s.zone.paceDue (Pace.junction ch.val) 2500 = true → m = s.zone.machine ch.val → temp.toInt < 2400 →
    s.zone.flag (pLOAD ch.val) LOAD.CH_STATUS_LATCH = true → s.zone.lstate m = 5 →
    (∀ i ∈ s.zone.members m, i ≠ ch.val → s.zone.flag (pLOAD i) LOAD.CH_STATUS_LATCH = false) → s.zone.effReq m ≠ 0 →
    (s.zone.flag (pLOAD m) LOAD.CH_STATUS_FRESH = true ∨ s.zone.fld (pLOAD m) LOAD.CH_STATUS_BUDGET ≠ 0) →
    s.zone.bandState m = some b → Completes (.junctionSample ch temp) s fun z =>
      (∀ i ∈ s.zone.members m, z.lstate i = b) ∧
      z.fld (pLOAD m) LOAD.CH_STATUS_BUDGET = s.zone.fld (pLOAD m) LOAD.CH_STATUS_BUDGET ∧
      z.flag (pLOAD ch.val) LOAD.CH_STATUS_LATCH = false ∧ z.flag (pLOAD m) LOAD.CH_STATUS_FRESH = false ∧
      z.flag (pLOAD m) LOAD.CH_EVENT_THERMAL_RELEASE = true ∧ z.fld (pLOAD ch.val) LOAD.TJ_TEMP = temp.toNat ∧
      s.zone.Frame ([(pLOAD ch.val) + 0x14] ++ (s.zone.members m).flatMap fun i => [pLOAD i + 4, pLOAD i + 8, pLOAD i + 0x3C]) [.loads, .pace] z) ∧
  (∀ (s : State) (ch : Fin 48) (temp : BitVec 16) (m : Nat), s.zone.logicRuns = true →
    s.zone.paceDue (Pace.junction ch.val) 2500 = true → m = s.zone.machine ch.val → temp.toInt < 2400 →
    s.zone.flag (pLOAD ch.val) LOAD.CH_STATUS_LATCH = true → s.zone.lstate m = 5 →
    (∀ i ∈ s.zone.members m, i ≠ ch.val → s.zone.flag (pLOAD i) LOAD.CH_STATUS_LATCH = false) → s.zone.effReq m ≠ 0 →
    s.zone.flag (pLOAD m) LOAD.CH_STATUS_FRESH = false → s.zone.fld (pLOAD m) LOAD.CH_STATUS_BUDGET = 0 →
    Completes (.junctionSample ch temp) s fun z =>
      (∀ i ∈ s.zone.members m, z.lstate i = 6 ∧ z.fld (pLOAD i) LOAD.CH_STATUS_CAUSE = if i = ch.val then 5 else 8) ∧
      z.flag (pLOAD m) LOAD.CH_EVENT_LOCKED_OUT = true ∧
      z.fld (pLOAD m) LOAD.COUNTS_LOCKOUTS = min (s.zone.fld (pLOAD m) LOAD.COUNTS_LOCKOUTS + 1) 255 ∧
      (s.zone.records.length < 256 → z.records.length = s.zone.records.length + 1) ∧
      z.flag (pLOAD ch.val) LOAD.CH_STATUS_LATCH = false ∧ z.flag (pLOAD m) LOAD.CH_STATUS_FRESH = false ∧
      z.flag (pLOAD m) LOAD.CH_EVENT_THERMAL_RELEASE = true ∧ s.zone.BankFrame [1, 10] [.loads, .records, .log, .pace] z) ∧
  (∀ (s : State) (ch : Fin 48) (t m : Nat), s.zone.logicRuns = true → m = ch.val → (s.zone.load ch.val).spacingEnd = some t →
    t ≤ s.zone.mono → s.zone.lstate m = 3 → Completes (.spacingEnd ch) s fun z =>
      (∀ i ∈ s.zone.members m, z.lstate i = (s.zone.bandState m).getD 1) ∧
      (s.zone.bandState m = none → z.flag (pLOAD ch.val) LOAD.CH_EVENT_RESTART = true ∧ (z.load m).windowEnd = (s.zone.load ch.val).windowEnd ∧ ((s.zone.load ch.val).gapEnd = none → (z.load m).applied = s.zone.effReq m)) ∧
      (z.load m).spacingEnd = none ∧
      z.fld (pLOAD ch.val) LOAD.CH_STATUS_RESTARTS = s.zone.fld (pLOAD ch.val) LOAD.CH_STATUS_RESTARTS ∧
      s.zone.Frame ((s.zone.members m).flatMap fun i => [pLOAD i + 4, pLOAD i + 8]) [.loads] z) ∧
  (∀ (s : State) (ch : Fin 48), (s.zone.lstate ch.val ≠ 3 ∨ ∀ t ∈ (s.zone.load ch.val).spacingEnd, s.zone.mono < t) →
    Completes (.spacingEnd ch) s fun z =>
      s.zone.Frame [] [] z) ∧
  (∀ (s : State) (ch : Fin 48) (t m : Nat), s.zone.logicRuns = true → m = ch.val → (s.zone.load ch.val).windowEnd = some t →
    t ≤ s.zone.mono → s.zone.lstate m = 1 → (s.zone.load ch.val).tripAt = none → Completes (.windowEnd ch) s fun z =>
      (∀ i ∈ s.zone.members m, z.lstate i = (s.zone.bandState m).getD 2) ∧
      (s.zone.bandState m = none → z.load m = { (s.zone.load ch.val) with windowEnd := none }) ∧
      s.zone.Frame ((s.zone.members m).map fun i => pLOAD i + 4) [.loads] z) ∧
  (∀ (s : State) (ch : Fin 48),
    (s.zone.lstate ch.val ≠ 1 ∨ (s.zone.load ch.val).tripAt ≠ none ∨ ∀ t ∈ (s.zone.load ch.val).windowEnd, s.zone.mono < t) →
    Completes (.windowEnd ch) s fun z =>
      s.zone.Frame [] [] z) ∧
  (∀ (s : State) (ch : Fin 48) (t m : Nat), s.zone.logicRuns = true → m = ch.val → s.zone.machine m = m →
    (s.zone.load ch.val).zeroSince = some t → t + 247500000 ≤ s.zone.mono → (s.zone.load ch.val).refilled = false →
    Completes (.refill ch) s fun z =>
      z.fld (pLOAD ch.val) LOAD.CH_STATUS_BUDGET = s.zone.fld (pLOAD ch.val) LOAD.WARMUP_CFG_RETRY_MAX ∧
      z.flag (pLOAD ch.val) LOAD.CH_EVENT_REFILL = true ∧
      (s.zone.lstate m = 6 → ∀ i ∈ s.zone.members m, z.lstate i = (s.zone.bandState m).getD 0) ∧
      (s.zone.lstate m ≠ 6 → z.lstate m = s.zone.lstate m ∧ z.load m = { (s.zone.load ch.val) with refilled := true }) ∧
      (z.load m).refilled = true ∧ s.zone.Frame ([(pLOAD ch.val) + 8] ++ (s.zone.members m).map fun i => pLOAD i + 4) [.loads] z) ∧
  (∀ (s : State) (ch : Fin 48),
    ((s.zone.load ch.val).refilled = true ∨ ∀ t ∈ (s.zone.load ch.val).zeroSince, s.zone.mono < t + 247500000) →
    Completes (.refill ch) s fun z =>
      s.zone.Frame [] [] z) ∧
  (∀ (s : State) (x : SagReading), s.zone.logicRuns = true → x.volts.toInt + 500 ≤ x.mean.toInt →
    Completes (.feedSag x) s fun z =>
      z.sags x.feed = ((s.zone.sags x.feed).filter fun y => decide (s.zone.mono ≤ y.at_ + 250000)) ++ [⟨s.zone.mono, s.zone.sagChannel x.feed⟩] ∧
      (x.feed = .A → z.sagsB = s.zone.sagsB) ∧ (x.feed = .B → z.sagsA = s.zone.sagsA) ∧
      (∀ n : Fin 48, s.zone.sagChannel x.feed = some n.val → loadFeed n.val = x.feed ∧ ∃ t ∈ (s.zone.load n.val).firedAt, s.zone.mono ≤ t + 1000) ∧
      s.zone.Frame [] [.sagsA, .sagsB] z) ∧
  (∀ (s : State) (x : SagReading), x.mean.toInt < x.volts.toInt + 500 → Completes (.feedSag x) s fun z =>
      s.zone.Frame [] [] z)

/-- R258, R262, R269, R270, R272, R273, R297, R679: every 10 µs of a sampled ON the calibrated current below the open-load
threshold, or above it by 10 %, counts toward OL_TIME, at which OPEN_LOAD sets with its event or clears; outside ON no time
counts, in an on-phase too short or too young it stands; each of the three faults of switch and harness sets with event and
report, clears when absent, and is not judged in a short phase or off NORMAL; CLEAR_RETRY sets the budget and runs its rows,
OFF_DIAG starts, fails or ends by its result, SNAPSHOT reads the current; each completes its ticket; a forced channel ignores and
counts them; an accepted operation ends a safe state of silence. -/
def Obligations.LoadDiagnosesAndOperations : Prop :=
  (∀ (s : State) (ch : Fin 48) (low high : BitVec 32), s.zone.logicRuns = true →
    (∀ t ∈ (s.zone.load ch.val).olAt, t + 2500 ≤ s.zone.mono) →
    (s.zone.olThreshold ch.val = 0 ∨ s.zone.lstate (s.zone.machine ch.val) ≠ 2) →
    Completes (.openLoadFilter ch low high) s fun z =>
      z.load ch.val = { (s.zone.load ch.val) with olAt := some s.zone.mono, below := 0, above := 0 } ∧ s.zone.Frame [] [.loads] z) ∧
  (∀ (s : State) (ch : Fin 48) (low high : BitVec 32), s.zone.logicRuns = true →
    (∀ t ∈ (s.zone.load ch.val).olAt, t + 2500 ≤ s.zone.mono) → s.zone.olThreshold ch.val ≠ 0 →
    s.zone.lstate (s.zone.machine ch.val) = 2 → s.zone.olSampled ch.val = false →
    Completes (.openLoadFilter ch low high) s fun z =>
      z.load ch.val = { (s.zone.load ch.val) with olAt := some s.zone.mono } ∧ s.zone.Frame [] [.loads] z) ∧
  (∀ (s : State) (ch : Fin 48) (low high : BitVec 32) (least most u : Nat), s.zone.logicRuns = true →
    (∀ t ∈ (s.zone.load ch.val).olAt, t + 2500 ≤ s.zone.mono) → s.zone.magnitudes ch.val low high = (least, most) →
    s.zone.olThreshold ch.val = u → u ≠ 0 → s.zone.olSampled ch.val = true → most < u →
    Completes (.openLoadFilter ch low high) s fun z =>
      z.load ch.val = { (s.zone.load ch.val) with olAt := some s.zone.mono, below := (s.zone.load ch.val).below + 1, above := 0 } ∧
      z.flag (pLOAD ch.val) LOAD.CH_STATUS_OPEN_LOAD = (s.zone.flag (pLOAD ch.val) LOAD.CH_STATUS_OPEN_LOAD && decide (s.zone.fld (pLOAD ch.val) LOAD.CH_CFG_OL_TIME ≠ 0) || decide (s.zone.fld (pLOAD ch.val) LOAD.CH_CFG_OL_TIME * 100 ≤ (s.zone.load ch.val).below + 1) && (!s.zone.flag (pLOAD ch.val) LOAD.CH_STATUS_OPEN_LOAD || decide (s.zone.fld (pLOAD ch.val) LOAD.CH_CFG_OL_TIME ≠ 0))) ∧
      (s.zone.flag (pLOAD ch.val) LOAD.CH_STATUS_OPEN_LOAD = false → s.zone.fld (pLOAD ch.val) LOAD.CH_CFG_OL_TIME * 100 ≤ (s.zone.load ch.val).below + 1 → z.flag (pLOAD ch.val) LOAD.CH_EVENT_OPEN_LOAD = true) ∧
      s.zone.Frame [(pLOAD ch.val) + 4, (pLOAD ch.val) + 8] [.loads] z) ∧
  (∀ (s : State) (ch : Fin 48) (low high : BitVec 32) (least most u : Nat), s.zone.logicRuns = true →
    (∀ t ∈ (s.zone.load ch.val).olAt, t + 2500 ≤ s.zone.mono) → s.zone.magnitudes ch.val low high = (least, most) →
    s.zone.olThreshold ch.val = u → u ≠ 0 → s.zone.olSampled ch.val = true → u * 11 < least * 10 → u ≤ most →
    Completes (.openLoadFilter ch low high) s fun z =>
      z.load ch.val = { (s.zone.load ch.val) with olAt := some s.zone.mono, below := 0, above := (s.zone.load ch.val).above + 1 } ∧
      (s.zone.fld (pLOAD ch.val) LOAD.CH_CFG_OL_TIME ≠ 0 → z.flag (pLOAD ch.val) LOAD.CH_STATUS_OPEN_LOAD = (s.zone.flag (pLOAD ch.val) LOAD.CH_STATUS_OPEN_LOAD && decide ((s.zone.load ch.val).above + 1 < s.zone.fld (pLOAD ch.val) LOAD.CH_CFG_OL_TIME * 100))) ∧
      s.zone.Frame [(pLOAD ch.val) + 4, (pLOAD ch.val) + 8] [.loads] z) ∧
  (∀ (s : State) (ch : Fin 48) (low high : BitVec 32) (t : Nat), (s.zone.load ch.val).olAt = some t → s.zone.mono < t + 2500 →
    Completes (.openLoadFilter ch low high) s fun z =>
      s.zone.Frame [] [] z) ∧
  (∀ (s : State) (ch : Fin 48) (senseMin senseMax : BitVec 32) (voutMin voutMax feedV : BitVec 16) (least most : Nat),
    s.zone.logicRuns = true → s.zone.band (loadFeed ch.val) = 0 → s.zone.phaseJudged ch.val = true →
    s.zone.magnitudes ch.val senseMin senseMax = (least, most) → s.zone.outputs ch.val = (false, false) → 500 < least →
    Completes (.switchFaultDetect ch senseMin senseMax voutMin voutMax feedV) s fun z =>
      z.flag (pLOAD ch.val) LOAD.CH_STATUS_STUCK_ON = true ∧ z.flag (pLOAD ch.val) LOAD.CH_STATUS_SHORT_BAT = false ∧
      z.flag (pLOAD ch.val) LOAD.CH_STATUS_STUCK_OFF = false ∧
      (s.zone.flag (pLOAD ch.val) LOAD.CH_STATUS_STUCK_ON = false → z.flag (pLOAD ch.val) LOAD.CH_EVENT_STUCK_ON = true ∧ s.zone.Reports z 12 (BitVec.ofNat 32 ch.val)) ∧
      (s.zone.flag (pLOAD ch.val) LOAD.CH_STATUS_STUCK_ON = true → z.safety = s.zone.safety) ∧
      z.fld (pLOAD ch.val) LOAD.VOUT_VOLT = voutMax.toNat ∧ z.lstate ch.val = s.zone.lstate ch.val ∧
      s.zone.Frame [(pLOAD ch.val) + 4, (pLOAD ch.val) + 8, (pLOAD ch.val) + 0x18, pZONE 3 + ZONE3.FEED_V_BAT_A.off, pZONE 3 + ZONE3.FEED_V_BAT_B.off] [.safety] z) ∧
  (∀ (s : State) (ch : Fin 48) (senseMin senseMax : BitVec 32) (voutMin voutMax feedV : BitVec 16) (least most : Nat),
    s.zone.logicRuns = true → s.zone.band (loadFeed ch.val) = 0 → s.zone.phaseJudged ch.val = true →
    s.zone.magnitudes ch.val senseMin senseMax = (least, most) → s.zone.outputs ch.val = (false, false) → most ≤ 500 →
    least ≤ most → feedV.toInt < 2 * voutMin.toInt → voutMin.toInt ≤ voutMax.toInt →
    Completes (.switchFaultDetect ch senseMin senseMax voutMin voutMax feedV) s fun z =>
      z.flag (pLOAD ch.val) LOAD.CH_STATUS_SHORT_BAT = true ∧ z.flag (pLOAD ch.val) LOAD.CH_STATUS_STUCK_ON = false ∧
      z.flag (pLOAD ch.val) LOAD.CH_STATUS_STUCK_OFF = false ∧
      (s.zone.flag (pLOAD ch.val) LOAD.CH_STATUS_SHORT_BAT = false → z.flag (pLOAD ch.val) LOAD.CH_EVENT_SHORT_BAT = true ∧ s.zone.Reports z 14 (BitVec.ofNat 32 ch.val)) ∧
      (s.zone.flag (pLOAD ch.val) LOAD.CH_STATUS_SHORT_BAT = true → z.safety = s.zone.safety) ∧
      z.fld (pLOAD ch.val) LOAD.VOUT_VOLT = voutMax.toNat ∧ z.lstate ch.val = s.zone.lstate ch.val ∧
      s.zone.Frame [(pLOAD ch.val) + 4, (pLOAD ch.val) + 8, (pLOAD ch.val) + 0x18, pZONE 3 + ZONE3.FEED_V_BAT_A.off, pZONE 3 + ZONE3.FEED_V_BAT_B.off] [.safety] z) ∧
  (∀ (s : State) (ch : Fin 48) (senseMin senseMax : BitVec 32) (voutMin voutMax feedV : BitVec 16) (least most : Nat),
    s.zone.logicRuns = true → s.zone.band (loadFeed ch.val) = 0 → s.zone.phaseJudged ch.val = true →
    s.zone.magnitudes ch.val senseMin senseMax = (least, most) →
    ((s.zone.outputs ch.val).1 || (s.zone.outputs ch.val).2) = true → 2 * voutMax.toInt < feedV.toInt →
    voutMin.toInt ≤ voutMax.toInt → Completes (.switchFaultDetect ch senseMin senseMax voutMin voutMax feedV) s fun z =>
      z.flag (pLOAD ch.val) LOAD.CH_STATUS_STUCK_OFF = true ∧ z.flag (pLOAD ch.val) LOAD.CH_STATUS_STUCK_ON = false ∧
      z.flag (pLOAD ch.val) LOAD.CH_STATUS_SHORT_BAT = false ∧
      (s.zone.flag (pLOAD ch.val) LOAD.CH_STATUS_STUCK_OFF = false → z.flag (pLOAD ch.val) LOAD.CH_EVENT_STUCK_OFF = true ∧ s.zone.Reports z 13 (BitVec.ofNat 32 ch.val)) ∧
      (s.zone.flag (pLOAD ch.val) LOAD.CH_STATUS_STUCK_OFF = true → z.safety = s.zone.safety) ∧
      z.fld (pLOAD ch.val) LOAD.VOUT_VOLT = voutMax.toNat ∧ z.lstate ch.val = s.zone.lstate ch.val ∧
      s.zone.Frame [(pLOAD ch.val) + 4, (pLOAD ch.val) + 8, (pLOAD ch.val) + 0x18, pZONE 3 + ZONE3.FEED_V_BAT_A.off, pZONE 3 + ZONE3.FEED_V_BAT_B.off] [.safety] z) ∧
  (∀ (s : State) (ch : Fin 48) (senseMin senseMax : BitVec 32) (voutMin voutMax feedV : BitVec 16) (least most : Nat),
    s.zone.logicRuns = true → s.zone.band (loadFeed ch.val) = 0 → s.zone.phaseJudged ch.val = true →
    s.zone.magnitudes ch.val senseMin senseMax = (least, most) → least ≤ most → voutMin.toInt ≤ voutMax.toInt →
    (if ((s.zone.outputs ch.val).1 || (s.zone.outputs ch.val).2) then feedV.toInt ≤ 2 * voutMin.toInt else most ≤ 500 ∧ 2 * voutMax.toInt ≤ feedV.toInt) →
    Completes (.switchFaultDetect ch senseMin senseMax voutMin voutMax feedV) s fun z =>
      z.flag (pLOAD ch.val) LOAD.CH_STATUS_STUCK_OFF = false ∧ z.flag (pLOAD ch.val) LOAD.CH_STATUS_STUCK_ON = false ∧
      z.flag (pLOAD ch.val) LOAD.CH_STATUS_SHORT_BAT = false ∧ z.safety = s.zone.safety ∧
      z.fld (pLOAD ch.val) LOAD.VOUT_VOLT = voutMax.toNat ∧ z.lstate ch.val = s.zone.lstate ch.val ∧
      s.zone.Frame [(pLOAD ch.val) + 4, (pLOAD ch.val) + 8, (pLOAD ch.val) + 0x18, pZONE 3 + ZONE3.FEED_V_BAT_A.off, pZONE 3 + ZONE3.FEED_V_BAT_B.off] [.safety] z) ∧
  (∀ (s : State) (ch : Fin 48) (senseMin senseMax : BitVec 32) (voutMin voutMax feedV : BitVec 16),
    (s.zone.band (loadFeed ch.val) ≠ 0 ∨ s.zone.phaseJudged ch.val = false) →
    Completes (.switchFaultDetect ch senseMin senseMax voutMin voutMax feedV) s fun z =>
      s.zone.Frame [] [] z) ∧
  (∀ (s : State) (ch : Fin 48) (k : Keeper) (n : Fin 128) (m : Nat), s.zone.logicRuns = true →
    (s.zone.load (s.zone.machine ch.val)).forced = false → (s.zone.load ch.val).silent = false → m = s.zone.machine ch.val →
    s.zone.lstate m ≠ 6 → Completes (.clearRetry ch k n) s fun z =>
      z.fld (pLOAD m) LOAD.CH_STATUS_BUDGET = s.zone.fld (pLOAD m) LOAD.WARMUP_CFG_RETRY_MAX ∧ z.lstate m = s.zone.lstate m ∧
      ((s.zone.ticket k n.val).state = .issued → (z.ticket k n.val).state = .done) ∧
      ((s.zone.ticket k n.val).state = .issued → (z.ticket k n.val).status = 0 ∧ (z.ticket k n.val).value = s.zone.fld (pLOAD m) LOAD.WARMUP_CFG_RETRY_MAX) ∧
      s.zone.Frame [pLOAD m + 4, pKEEPER k + KEEPER.TICKETS_IN_USE.off, pKEEPER k + KEEPER.TICKET_EVENTS_LATE.off] [.tickets] z) ∧
  (∀ (s : State) (ch : Fin 48) (k : Keeper) (n : Fin 128) (m : Nat), s.zone.logicRuns = true →
    (s.zone.load (s.zone.machine ch.val)).forced = false → (s.zone.load ch.val).silent = false → m = s.zone.machine ch.val →
    s.zone.lstate m = 6 → Completes (.clearRetry ch k n) s fun z =>
      z.fld (pLOAD m) LOAD.CH_STATUS_BUDGET = s.zone.fld (pLOAD m) LOAD.WARMUP_CFG_RETRY_MAX ∧
      (z.lstate m = if s.zone.effReq m = 0 then (s.zone.bandState m).getD 0 else if s.zone.latched m then 5 else (s.zone.bandState m).getD (if s.zone.fld (pLOAD m) LOAD.WARMUP_CFG_WINDOW = 0 then 2 else 1)) ∧
      (s.zone.effReq m ≠ 0 ∧ s.zone.latched m = true → z.flag (pLOAD m) LOAD.CH_STATUS_FRESH = true) ∧
      ((s.zone.ticket k n.val).state = .issued → (z.ticket k n.val).state = .done) ∧
      ((s.zone.ticket k n.val).state = .issued → (z.ticket k n.val).status = 0 ∧ (z.ticket k n.val).value = s.zone.fld (pLOAD m) LOAD.WARMUP_CFG_RETRY_MAX) ∧
      s.zone.Frame ([pKEEPER k + KEEPER.TICKETS_IN_USE.off, pKEEPER k + KEEPER.TICKET_EVENTS_LATE.off] ++ (s.zone.members m).map fun i => pLOAD i + 4) [.tickets, .loads] z) ∧
  (∀ (s : State) (ch : Fin 48) (k : Keeper) (n : Fin 128), s.zone.logicRuns = true →
    (s.zone.load (s.zone.machine ch.val)).forced = true → Completes (.clearRetry ch k n) s fun z =>
      z.fld (pLOAD ch.val) LOAD.MISC_COUNTS_IGNORED = min (s.zone.fld (pLOAD ch.val) LOAD.MISC_COUNTS_IGNORED + 1) 65535 ∧
      s.zone.Frame [(pLOAD ch.val) + LOAD.MISC_COUNTS_IGNORED.off] [] z) ∧
  (∀ (s : State) (ch : Fin 48) (k : Keeper) (n : Fin 128) (vout feedV : BitVec 16), s.zone.logicRuns = true →
    (s.zone.load (s.zone.machine ch.val)).forced = false → (s.zone.load ch.val).silent = false →
    (s.zone.load ch.val).offDiag = none → s.zone.lstate (s.zone.machine ch.val) = 0 → s.zone.effReq (s.zone.machine ch.val) = 0 →
    Completes (.offDiag ch k n vout feedV) s fun z =>
      z.load ch.val = { (s.zone.load ch.val) with offDiag := some ⟨s.zone.ticketRef k n.val, decide (feedV.toInt < 2 * vout.toInt), s.zone.mono + 250000⟩ } ∧
      z.ticket k n.val = s.zone.ticket k n.val ∧
      s.zone.Frame [pZONE 3 + ZONE3.FEED_V_BAT_A.off, pZONE 3 + ZONE3.FEED_V_BAT_B.off] [.loads] z) ∧
  (∀ (s : State) (ch : Fin 48) (k : Keeper) (n : Fin 128) (vout feedV : BitVec 16), s.zone.logicRuns = true →
    (s.zone.load (s.zone.machine ch.val)).forced = false → (s.zone.load ch.val).silent = false →
    ((s.zone.load ch.val).offDiag ≠ none ∨ s.zone.lstate (s.zone.machine ch.val) ≠ 0 ∨ s.zone.effReq (s.zone.machine ch.val) ≠ 0) →
    Completes (.offDiag ch k n vout feedV) s fun z =>
      z.loads = s.zone.loads ∧ ((s.zone.ticket k n.val).state = .issued → (z.ticket k n.val).state = .done) ∧
      ((s.zone.ticket k n.val).state = .issued → (z.ticket k n.val).status = 1 ∧ (z.ticket k n.val).value = if (s.zone.load ch.val).offDiag = none then 1 else 2) ∧
      s.zone.Frame [pZONE 3 + ZONE3.FEED_V_BAT_A.off, pZONE 3 + ZONE3.FEED_V_BAT_B.off, pKEEPER k + KEEPER.TICKETS_IN_USE.off, pKEEPER k + KEEPER.TICKET_EVENTS_LATE.off] [.tickets] z) ∧
  (∀ (s : State) (ch : Fin 48) (k : Keeper) (n : Fin 128) (vout feedV : BitVec 16), s.zone.logicRuns = true →
    (s.zone.load (s.zone.machine ch.val)).forced = true → Completes (.offDiag ch k n vout feedV) s fun z =>
      z.fld (pLOAD ch.val) LOAD.MISC_COUNTS_IGNORED = min (s.zone.fld (pLOAD ch.val) LOAD.MISC_COUNTS_IGNORED + 1) 65535 ∧
      s.zone.Frame [(pLOAD ch.val) + LOAD.MISC_COUNTS_IGNORED.off, pZONE 3 + ZONE3.FEED_V_BAT_A.off, pZONE 3 + ZONE3.FEED_V_BAT_B.off] [] z) ∧
  (∀ (s : State) (ch : Fin 48) (mv : Nat) (d : OffDiag), s.zone.logicRuns = true → (s.zone.load ch.val).offDiag = some d →
    d.due ≤ s.zone.mono → Completes (.offDiagDone ch mv) s fun z =>
      z.load ch.val = { (s.zone.load ch.val) with offDiag := none } ∧
      ((s.zone.ticket d.ticket.keeper d.ticket.num).state = .issued ∧ (s.zone.ticket d.ticket.keeper d.ticket.num).serial = d.ticket.serial → (z.ticket d.ticket.keeper d.ticket.num).state = .done ∧ (z.ticket d.ticket.keeper d.ticket.num).status = 0 ∧ (z.ticket d.ticket.keeper d.ticket.num).value = if d.shorted then 2 else if mv < 1500 then 0 else if 3500 < mv then 1 else 3) ∧
      s.zone.Frame [pKEEPER d.ticket.keeper + KEEPER.TICKETS_IN_USE.off, pKEEPER d.ticket.keeper + KEEPER.TICKET_EVENTS_LATE.off] [.tickets, .loads] z) ∧
  (∀ (s : State) (ch : Fin 48) (mv : Nat), (∀ d ∈ (s.zone.load ch.val).offDiag, s.zone.mono < d.due) →
    Completes (.offDiagDone ch mv) s fun z =>
      s.zone.Frame [] [] z) ∧
  (∀ (s : State) (ch : Fin 48) (k : Keeper) (n : Fin 128), s.zone.logicRuns = true →
    (s.zone.load (s.zone.machine ch.val)).forced = false → (s.zone.load ch.val).silent = false →
    Completes (.snapshot ch k n) s fun z =>
      ((s.zone.ticket k n.val).state = .issued → (z.ticket k n.val).state = .done) ∧
      ((s.zone.ticket k n.val).state = .issued → (z.ticket k n.val).status = 0 ∧ (z.ticket k n.val).value = min 65535 ((s.zone.fldS (pLOAD ch.val) LOAD.CUR_CURRENT).natAbs / 100)) ∧
      s.zone.Frame [pKEEPER k + KEEPER.TICKETS_IN_USE.off, pKEEPER k + KEEPER.TICKET_EVENTS_LATE.off] [.tickets] z) ∧
  (∀ (s : State) (ch : Fin 48) (k : Keeper) (n : Fin 128), s.zone.logicRuns = true → s.zone.machine ch.val = ch.val →
    (s.zone.load ch.val).forced = false → (s.zone.load ch.val).silent = true → (s.zone.load ch.val).demanded = false →
    (s.zone.load ch.val).owed = false → Completes (.snapshot ch k n) s fun z =>
      (z.load ch.val).silent = false ∧ z.flag (pLOAD ch.val) LOAD.CH_STATUS_SAFE_ACTIVE = false ∧
      z.fld (pLOAD ch.val) LOAD.CH_CTRL_REQ = s.zone.fld (pLOAD ch.val) LOAD.CH_CTRL_REQ ∧
      z.effReq ch.val = s.zone.fld (pLOAD ch.val) LOAD.CH_CTRL_REQ ∧
      ((z.effReq ch.val = s.zone.effReq ch.val) → z.lstate ch.val = s.zone.lstate ch.val)) ∧
  (∀ (s : State) (ch : Fin 48) (k : Keeper) (n : Fin 128), s.zone.logicRuns = true →
    (s.zone.load (s.zone.machine ch.val)).forced = true → Completes (.snapshot ch k n) s fun z =>
      z.fld (pLOAD ch.val) LOAD.MISC_COUNTS_IGNORED = min (s.zone.fld (pLOAD ch.val) LOAD.MISC_COUNTS_IGNORED + 1) 65535 ∧
      s.zone.Frame [(pLOAD ch.val) + LOAD.MISC_COUNTS_IGNORED.off] [] z)

/-- R246, R247, R249, R266: in no state of the module, reached by a run or not, is a half-bridge leg to close its high side and
its low side, paired or not, whatever it follows and whatever its feed does, and no other output has a second switch; switching a
leg whose switches are not both closed leaves them so, and closes a switch only when the other is open and was opened at least the
dead time ago. -/
def Obligations.LegSwitchesAreNeverClosedTogether : Prop :=
  (∀ (s : State) (ch : Fin 48), ((s.zone.outputs ch.val).1 && (s.zone.outputs ch.val).2) = false ∧
    (ch.val < 40 → (s.zone.outputs ch.val).2 = false)) ∧
  (∀ (z : Zone) (n : Nat), ((z.load n).hi && (z.load n).lo) = false →
    (((z.settleSwitch n).load n).hi && ((z.settleSwitch n).load n).lo) = false) ∧
  (∀ (z : Zone) (n : Nat), 40 ≤ n → (z.load n).hi = false → ((z.settleSwitch n).load n).hi = true →
    (z.load n).lo = false ∧ ∀ t ∈ (z.load n).loOff, t + z.deadTicks n ≤ z.mono) ∧
  (∀ (z : Zone) (n : Nat), 40 ≤ n → (z.load n).lo = false → ((z.settleSwitch n).load n).lo = true →
    (z.load n).hi = false ∧ ∀ t ∈ (z.load n).hiOff, t + z.deadTicks n ≤ z.mono)

/-! ### Pulse generators -/

/-- R276, R277, R278, R279, R280, R281, R282, R284, R285, R286, R287: a write outside its range (MODE 3, PERIOD, STEP 0) counts
and changes nothing else. Any other stages its word, with the bits its register has; unless HOLD is 1, the clock has stopped or
the generator runs, the set is applied at once. At a boundary not yet reached, in OFF and with the clock stopped nothing happens;
at one that is reached the set applies where one is staged and not held, and else a PWM generator moves D by at most FADE and the
others go on. An applied set gives the waveform of its mode, period, on-time and pattern from that boundary, D moved by at most
the new FADE, and leaves the earlier history. The edge shows every follower of one switch the level of R282 at its own offset;
GEN_STATUS reads LEVEL, PHASE_IDX and FOLLOWERS of the moment. D of a generator that leaves OFF at no boundary keeps its value
until the next one: the model's reading (log entry 60). -/
def Obligations.GeneratorsTakeStagedSetsAtBoundaries : Prop :=
  (∀ (s : State) (g : Fin 16) (word : Fin 5) (v : Word), s.zone.logicRuns = true →
    ((word.val = 0 ∧ (v &&& 3#32).toNat = 3) ∨ (word.val = 1 ∧ ((v &&& 0x1FFFFF#32).toNat < 4000 ∨ 2000000 < (v &&& 0x1FFFFF#32).toNat)) ∨ (word.val = 4 ∧ (v &&& 0xFFF#32).toNat = 0)) →
    Completes (.charStagedWrite g word v) s fun z =>
      z.fld (pCHAR g.val) CHAR.COUNTS_BAD_WRITE = min (s.zone.fld (pCHAR g.val) CHAR.COUNTS_BAD_WRITE + 1) 65535 ∧
      s.zone.Frame [(pCHAR g.val) + CHAR.COUNTS_BAD_WRITE.off] [] z) ∧
  (∀ (s : State) (g : Fin 16) (word : Fin 5) (v : Word), s.zone.logicRuns = true → (word.val ≠ 0 ∨ (v &&& 3#32).toNat ≠ 3) →
    (word.val ≠ 1 ∨ (4000 ≤ (v &&& 0x1FFFFF#32).toNat ∧ (v &&& 0x1FFFFF#32).toNat ≤ 2000000)) →
    (word.val ≠ 4 ∨ (v &&& 0xFFF#32).toNat ≠ 0) →
    ((s.zone.gen g.val).cur.mode ≠ 0 ∨ s.zone.flag (pCHAR g.val) CHAR.STAGE_HOLD = true ∨ s.zone.flag (pCHAR g.val) CHAR.GEN_STATUS_STOPPED = true) →
    Completes (.charStagedWrite g word v) s fun z =>
      z.rd ((pCHAR g.val) + 4 * word.val) = v &&& (match word.val with | 0 => 3#32 | 1 => 0x1FFFFF#32 | 4 => 0x1F0FFF#32 | _ => 0xFFFFFFFF#32) ∧
      z.flag (pCHAR g.val) CHAR.GEN_STATUS_STAGED = true ∧
      s.zone.Frame [(pCHAR g.val) + 4 * word.val, (pCHAR g.val) + CHAR.GEN_STATUS_STAGED.off] [] z) ∧
  (∀ (s : State) (g : Fin 16) (word : Fin 5) (v : Word), s.zone.logicRuns = true → (word.val ≠ 0 ∨ (v &&& 3#32).toNat ≠ 3) →
    (word.val ≠ 1 ∨ (4000 ≤ (v &&& 0x1FFFFF#32).toNat ∧ (v &&& 0x1FFFFF#32).toNat ≤ 2000000)) →
    (word.val ≠ 4 ∨ (v &&& 0xFFF#32).toNat ≠ 0) → (s.zone.gen g.val).cur.mode = 0 →
    s.zone.flag (pCHAR g.val) CHAR.STAGE_HOLD = false → s.zone.flag (pCHAR g.val) CHAR.GEN_STATUS_STOPPED = false →
    Completes (.charStagedWrite g word v) s fun z =>
      z.rd ((pCHAR g.val) + 4 * word.val) = v &&& (match word.val with | 0 => 3#32 | 1 => 0x1FFFFF#32 | 4 => 0x1F0FFF#32 | _ => 0xFFFFFFFF#32) ∧
      (∀ j : Fin 5, j ≠ word → z.rd ((pCHAR g.val) + 4 * j.val) = s.zone.rd ((pCHAR g.val) + 4 * j.val)) ∧
      z.fld (pCHAR g.val) CHAR.GEN_STATUS_MODE = z.fld (pCHAR g.val) CHAR.GEN_CTRL_MODE ∧
      (z.gen g.val).duty = z.fld (pCHAR g.val) CHAR.DUTY_DUTY ∧ (z.gen g.val).fade = z.fld (pCHAR g.val) CHAR.DUTY_FADE ∧
      z.fld (pCHAR g.val) CHAR.APPLIED_PERIOD = z.fld (pCHAR g.val) CHAR.PERIOD_PERIOD ∧
      z.fld (pCHAR g.val) CHAR.APPLIED_RES_BITS = dutyBits (z.fld (pCHAR g.val) CHAR.PERIOD_PERIOD) ∧
      z.flag (pCHAR g.val) CHAR.GEN_STATUS_STAGED = false ∧ z.flag (pCHAR g.val) CHAR.GEN_EVENT_APPLIED = true ∧
      (z.gen g.val).holding = false ∧
      (z.gen g.val).next = (s.zone.nowNs / (z.gen g.val).cur.periodNs + 1) * (z.gen g.val).cur.periodNs ∧
      (z.fld (pCHAR g.val) CHAR.GEN_CTRL_MODE = 0 → (z.gen g.val).cur.mode = 0) ∧
      (z.fld (pCHAR g.val) CHAR.GEN_CTRL_MODE = 1 → (z.gen g.val).cur.mode = 1 ∧ (z.gen g.val).cur.periodNs = z.fld (pCHAR g.val) CHAR.PERIOD_PERIOD * 10 ∧ (z.gen g.val).cur.onNs = onTime (z.fld (pCHAR g.val) CHAR.GEN_STATUS_DUTY_NOW) (dutyBits (z.fld (pCHAR g.val) CHAR.PERIOD_PERIOD)) (z.fld (pCHAR g.val) CHAR.PERIOD_PERIOD * 10)) ∧
      (z.fld (pCHAR g.val) CHAR.GEN_CTRL_MODE = 2 → (z.gen g.val).cur = ⟨2, (z.fld (pCHAR g.val) CHAR.FLASH_CFG_LENGTH_M1 + 1) * z.fld (pCHAR g.val) CHAR.FLASH_CFG_STEP * 1000000, 0, z.rd ((pCHAR g.val) + 12), z.fld (pCHAR g.val) CHAR.FLASH_CFG_STEP * 1000000⟩) ∧
      (z.fld (pCHAR g.val) CHAR.GEN_CTRL_MODE ≠ 1 ∨ z.fld (pCHAR g.val) CHAR.DUTY_FADE = 0 → z.fld (pCHAR g.val) CHAR.GEN_STATUS_DUTY_NOW = z.fld (pCHAR g.val) CHAR.DUTY_DUTY) ∧
      (z.fld (pCHAR g.val) CHAR.GEN_CTRL_MODE = 1 ∧ z.fld (pCHAR g.val) CHAR.DUTY_FADE ≠ 0 ∧ 4 ≤ s.zone.nowNs % (z.fld (pCHAR g.val) CHAR.PERIOD_PERIOD * 10) → z.fld (pCHAR g.val) CHAR.GEN_STATUS_DUTY_NOW = s.zone.fld (pCHAR g.val) CHAR.GEN_STATUS_DUTY_NOW) ∧
      (∀ k : Nat, s.zone.nowNs ≤ k → (z.gen g.val).levelAt k = (z.gen g.val).cur.on k) ∧
      (∀ k : Nat, s.zone.nowNs ≤ k + longestNs → k < s.zone.nowNs → (z.gen g.val).levelAt k = (s.zone.gen g.val).levelAt k) ∧
      s.zone.BankFrame [1, 2] [.gens, .loads] z) ∧
  (∀ (s : State) (g : Fin 16) (hold : Bool), s.zone.logicRuns = true →
    ((s.zone.gen g.val).cur.mode ≠ 0 ∨ s.zone.flag (pCHAR g.val) CHAR.GEN_STATUS_STAGED = false ∨ hold = true ∨ s.zone.flag (pCHAR g.val) CHAR.GEN_STATUS_STOPPED = true) →
    Completes (.stageHoldWrite g hold) s fun z =>
      z.flag (pCHAR g.val) CHAR.STAGE_HOLD = hold ∧ s.zone.Frame [(pCHAR g.val) + CHAR.STAGE_HOLD.off] [] z) ∧
  (∀ (s : State) (g : Fin 16), s.zone.logicRuns = true → (s.zone.gen g.val).cur.mode = 0 →
    s.zone.flag (pCHAR g.val) CHAR.GEN_STATUS_STAGED = true → s.zone.flag (pCHAR g.val) CHAR.GEN_STATUS_STOPPED = false →
    Completes (.stageHoldWrite g false) s fun z =>
      z.flag (pCHAR g.val) CHAR.STAGE_HOLD = false ∧
      (∀ j : Fin 5, z.rd ((pCHAR g.val) + 4 * j.val) = s.zone.rd ((pCHAR g.val) + 4 * j.val)) ∧
      z.fld (pCHAR g.val) CHAR.GEN_STATUS_MODE = z.fld (pCHAR g.val) CHAR.GEN_CTRL_MODE ∧
      (z.gen g.val).duty = z.fld (pCHAR g.val) CHAR.DUTY_DUTY ∧ (z.gen g.val).fade = z.fld (pCHAR g.val) CHAR.DUTY_FADE ∧
      z.fld (pCHAR g.val) CHAR.APPLIED_PERIOD = z.fld (pCHAR g.val) CHAR.PERIOD_PERIOD ∧
      z.fld (pCHAR g.val) CHAR.APPLIED_RES_BITS = dutyBits (z.fld (pCHAR g.val) CHAR.PERIOD_PERIOD) ∧
      z.flag (pCHAR g.val) CHAR.GEN_STATUS_STAGED = false ∧ z.flag (pCHAR g.val) CHAR.GEN_EVENT_APPLIED = true ∧
      (z.gen g.val).holding = false ∧
      (z.gen g.val).next = (s.zone.nowNs / (z.gen g.val).cur.periodNs + 1) * (z.gen g.val).cur.periodNs ∧
      (z.fld (pCHAR g.val) CHAR.GEN_CTRL_MODE = 0 → (z.gen g.val).cur.mode = 0) ∧
      (z.fld (pCHAR g.val) CHAR.GEN_CTRL_MODE = 1 → (z.gen g.val).cur.mode = 1 ∧ (z.gen g.val).cur.periodNs = z.fld (pCHAR g.val) CHAR.PERIOD_PERIOD * 10 ∧ (z.gen g.val).cur.onNs = onTime (z.fld (pCHAR g.val) CHAR.GEN_STATUS_DUTY_NOW) (dutyBits (z.fld (pCHAR g.val) CHAR.PERIOD_PERIOD)) (z.fld (pCHAR g.val) CHAR.PERIOD_PERIOD * 10)) ∧
      (z.fld (pCHAR g.val) CHAR.GEN_CTRL_MODE = 2 → (z.gen g.val).cur = ⟨2, (z.fld (pCHAR g.val) CHAR.FLASH_CFG_LENGTH_M1 + 1) * z.fld (pCHAR g.val) CHAR.FLASH_CFG_STEP * 1000000, 0, z.rd ((pCHAR g.val) + 12), z.fld (pCHAR g.val) CHAR.FLASH_CFG_STEP * 1000000⟩) ∧
      (z.fld (pCHAR g.val) CHAR.GEN_CTRL_MODE ≠ 1 ∨ z.fld (pCHAR g.val) CHAR.DUTY_FADE = 0 → z.fld (pCHAR g.val) CHAR.GEN_STATUS_DUTY_NOW = z.fld (pCHAR g.val) CHAR.DUTY_DUTY) ∧
      (z.fld (pCHAR g.val) CHAR.GEN_CTRL_MODE = 1 ∧ z.fld (pCHAR g.val) CHAR.DUTY_FADE ≠ 0 ∧ 4 ≤ s.zone.nowNs % (z.fld (pCHAR g.val) CHAR.PERIOD_PERIOD * 10) → z.fld (pCHAR g.val) CHAR.GEN_STATUS_DUTY_NOW = s.zone.fld (pCHAR g.val) CHAR.GEN_STATUS_DUTY_NOW) ∧
      (∀ k : Nat, s.zone.nowNs ≤ k → (z.gen g.val).levelAt k = (z.gen g.val).cur.on k) ∧
      (∀ k : Nat, s.zone.nowNs ≤ k + longestNs → k < s.zone.nowNs → (z.gen g.val).levelAt k = (s.zone.gen g.val).levelAt k) ∧
      s.zone.BankFrame [1, 2] [.gens, .loads] z) ∧
  (∀ (s : State) (g : Fin 16), s.zone.logicRuns = true →
    ((s.zone.gen g.val).cur.mode = 0 ∨ s.zone.flag (pCHAR g.val) CHAR.GEN_STATUS_STOPPED = true ∨ s.zone.nowNs < (s.zone.gen g.val).next) →
    Completes (.generatorBoundary g) s fun z =>
      s.zone.Frame [] [] z) ∧
  (∀ (s : State) (g : Fin 16) (d e : Nat), s.zone.logicRuns = true → (s.zone.gen g.val).cur.mode ≠ 0 →
    (s.zone.gen g.val).next ≤ s.zone.nowNs → s.zone.flag (pCHAR g.val) CHAR.GEN_STATUS_STOPPED = false →
    (s.zone.flag (pCHAR g.val) CHAR.GEN_STATUS_STAGED = false ∨ s.zone.flag (pCHAR g.val) CHAR.STAGE_HOLD = true) →
    e = s.zone.fld (pCHAR g.val) CHAR.GEN_STATUS_DUTY_NOW →
    d = (if (s.zone.gen g.val).cur.mode ≠ 1 then e else if (s.zone.gen g.val).fade = 0 then (s.zone.gen g.val).duty else if e ≤ (s.zone.gen g.val).duty then min (e + (s.zone.gen g.val).fade) (s.zone.gen g.val).duty else max (e - (s.zone.gen g.val).fade) (s.zone.gen g.val).duty) →
    Completes (.generatorBoundary g) s fun z =>
      z.fld (pCHAR g.val) CHAR.GEN_STATUS_DUTY_NOW = d % 65536 ∧
      (z.gen g.val).cur = (if (s.zone.gen g.val).cur.mode = 1 then { (s.zone.gen g.val).cur with onNs := onTime d (dutyBits (s.zone.fld (pCHAR g.val) CHAR.APPLIED_PERIOD)) (s.zone.gen g.val).cur.periodNs } else (s.zone.gen g.val).cur) ∧
      (z.gen g.val).duty = (s.zone.gen g.val).duty ∧ (z.gen g.val).fade = (s.zone.gen g.val).fade ∧ (z.gen g.val).holding = false ∧
      (z.gen g.val).next = (s.zone.nowNs / (s.zone.gen g.val).cur.periodNs + 1) * (s.zone.gen g.val).cur.periodNs ∧
      (∀ k : Nat, s.zone.nowNs ≤ k + longestNs → k < s.zone.nowNs / (s.zone.gen g.val).cur.periodNs * (s.zone.gen g.val).cur.periodNs → (z.gen g.val).levelAt k = (s.zone.gen g.val).levelAt k) ∧
      (∀ k : Nat, s.zone.nowNs / (s.zone.gen g.val).cur.periodNs * (s.zone.gen g.val).cur.periodNs ≤ k → (z.gen g.val).cur ≠ (s.zone.gen g.val).cur → (z.gen g.val).levelAt k = (z.gen g.val).cur.on k) ∧
      (∀ k : Nat, (z.gen g.val).cur = (s.zone.gen g.val).cur → (z.gen g.val).levelAt k = (s.zone.gen g.val).levelAt k) ∧
      z.rd (pCHAR g.val) = s.zone.rd (pCHAR g.val) ∧ z.flag (pCHAR g.val) CHAR.GEN_STATUS_STAGED = s.zone.flag (pCHAR g.val) CHAR.GEN_STATUS_STAGED ∧ z.fld (pCHAR g.val) CHAR.GEN_STATUS_MODE = s.zone.fld (pCHAR g.val) CHAR.GEN_STATUS_MODE ∧
      s.zone.BankFrame [1, 2] [.gens, .loads] z) ∧
  (∀ (s : State) (g : Fin 16) (d b : Nat), s.zone.logicRuns = true → (s.zone.gen g.val).cur.mode ≠ 0 →
    (s.zone.gen g.val).next ≤ s.zone.nowNs → s.zone.flag (pCHAR g.val) CHAR.GEN_STATUS_STOPPED = false →
    s.zone.flag (pCHAR g.val) CHAR.GEN_STATUS_STAGED = true → s.zone.flag (pCHAR g.val) CHAR.STAGE_HOLD = false →
    d = s.zone.fld (pCHAR g.val) CHAR.GEN_STATUS_DUTY_NOW →
    b = s.zone.nowNs / (s.zone.gen g.val).cur.periodNs * (s.zone.gen g.val).cur.periodNs →
    Completes (.generatorBoundary g) s fun z =>
      (∀ j : Fin 5, z.rd ((pCHAR g.val) + 4 * j.val) = s.zone.rd ((pCHAR g.val) + 4 * j.val)) ∧
      z.fld (pCHAR g.val) CHAR.GEN_STATUS_MODE = z.fld (pCHAR g.val) CHAR.GEN_CTRL_MODE ∧
      (z.gen g.val).duty = z.fld (pCHAR g.val) CHAR.DUTY_DUTY ∧ (z.gen g.val).fade = z.fld (pCHAR g.val) CHAR.DUTY_FADE ∧
      z.fld (pCHAR g.val) CHAR.APPLIED_PERIOD = z.fld (pCHAR g.val) CHAR.PERIOD_PERIOD ∧
      z.fld (pCHAR g.val) CHAR.APPLIED_RES_BITS = dutyBits (z.fld (pCHAR g.val) CHAR.PERIOD_PERIOD) ∧
      z.flag (pCHAR g.val) CHAR.GEN_STATUS_STAGED = false ∧ z.flag (pCHAR g.val) CHAR.GEN_EVENT_APPLIED = true ∧
      (z.gen g.val).holding = false ∧
      (z.gen g.val).next = (s.zone.nowNs / (z.gen g.val).cur.periodNs + 1) * (z.gen g.val).cur.periodNs ∧
      (z.fld (pCHAR g.val) CHAR.GEN_CTRL_MODE = 0 → (z.gen g.val).cur.mode = 0) ∧
      (z.fld (pCHAR g.val) CHAR.GEN_CTRL_MODE = 1 → (z.gen g.val).cur.mode = 1 ∧ (z.gen g.val).cur.periodNs = z.fld (pCHAR g.val) CHAR.PERIOD_PERIOD * 10 ∧ (z.gen g.val).cur.onNs = onTime (z.fld (pCHAR g.val) CHAR.GEN_STATUS_DUTY_NOW) (dutyBits (z.fld (pCHAR g.val) CHAR.PERIOD_PERIOD)) (z.fld (pCHAR g.val) CHAR.PERIOD_PERIOD * 10)) ∧
      (z.fld (pCHAR g.val) CHAR.GEN_CTRL_MODE = 2 → (z.gen g.val).cur = ⟨2, (z.fld (pCHAR g.val) CHAR.FLASH_CFG_LENGTH_M1 + 1) * z.fld (pCHAR g.val) CHAR.FLASH_CFG_STEP * 1000000, 0, z.rd ((pCHAR g.val) + 12), z.fld (pCHAR g.val) CHAR.FLASH_CFG_STEP * 1000000⟩) ∧
      (z.fld (pCHAR g.val) CHAR.GEN_CTRL_MODE ≠ 1 ∨ z.fld (pCHAR g.val) CHAR.DUTY_FADE = 0 → z.fld (pCHAR g.val) CHAR.GEN_STATUS_DUTY_NOW = z.fld (pCHAR g.val) CHAR.DUTY_DUTY) ∧
      (z.fld (pCHAR g.val) CHAR.GEN_CTRL_MODE = 1 ∧ z.fld (pCHAR g.val) CHAR.DUTY_FADE ≠ 0 → z.fld (pCHAR g.val) CHAR.GEN_STATUS_DUTY_NOW = if d ≤ z.fld (pCHAR g.val) CHAR.DUTY_DUTY then min (d + z.fld (pCHAR g.val) CHAR.DUTY_FADE) (z.fld (pCHAR g.val) CHAR.DUTY_DUTY) else max (d - z.fld (pCHAR g.val) CHAR.DUTY_FADE) (z.fld (pCHAR g.val) CHAR.DUTY_DUTY)) ∧
      (∀ k : Nat, b ≤ k → (z.gen g.val).levelAt k = (z.gen g.val).cur.on k) ∧
      (∀ k : Nat, s.zone.nowNs ≤ k + longestNs → k < b → (z.gen g.val).levelAt k = (s.zone.gen g.val).levelAt k) ∧
      s.zone.BankFrame [1, 2] [.gens, .loads] z) ∧
  (∀ (s : State) (g : Fin 16), s.zone.logicRuns = true → Completes (.generatorEdge g) s fun z =>
      (∀ j : Fin 40, s.zone.followsGen j.val g.val = true ∧ (s.zone.lstate j.val = 1 ∨ s.zone.lstate j.val = 2) ∧ (s.zone.load j.val).tripAt = none ∧ (s.zone.load j.val).forced = false ∧ (s.zone.load j.val).loOff = none ∧ s.zone.feedBand (loadFeed j.val) ≠ 3 → z.flag (pLOAD j.val) LOAD.CH_STATUS_CONDUCTING = (!s.zone.flag (pCHAR g.val) CHAR.GEN_STATUS_STOPPED && (s.zone.gen g.val).levelAt (s.zone.nowNs - ((s.zone.load j.val).phase * (s.zone.gen g.val).cur.periodNs / 256 : Nat)))) ∧
      (∀ j : Fin 48, s.zone.followsGen (s.zone.machine j.val) g.val = false → z.load j.val = s.zone.load j.val ∧ z.rd (pLOAD j.val + LOAD.CH_STATUS_CONDUCTING.off) = s.zone.rd (pLOAD j.val + LOAD.CH_STATUS_CONDUCTING.off)) ∧
      CHAR.GEN_STATUS_LEVEL.get (z.genStatus g.val) = (if s.zone.flag (pCHAR g.val) CHAR.GEN_STATUS_STOPPED = false ∧ (s.zone.gen g.val).levelAt s.zone.nowNs = true then 1 else 0) ∧
      CHAR.GEN_STATUS_PHASE_IDX.get (z.genStatus g.val) = (if (s.zone.gen g.val).cur.mode = 2 then s.zone.nowNs % (s.zone.gen g.val).cur.periodNs / (s.zone.gen g.val).cur.stepNs % 32 else 0) ∧
      CHAR.GEN_STATUS_FOLLOWERS.get (z.genStatus g.val) = s.zone.followers g.val ∧ s.zone.BankFrame [1] [.loads] z)

/-! ### Calibration -/

/-- R298, R299, R300, R301, R302, R303, R304, R305, R307: an edge counts under the first of the four conditions it fails (another
switch, a trip or a sag in its span fails the second) and changes nothing else; a clean one adds to the sums, and the 256th
completes the block, empties the sums and leaves the update due. At the 10 us boundary the update is made: estimates, count and
time of the block, and then either gain and offset, both for the means that begin there, with SMALL and CONVERGED by the size of
the change, or a freeze with its cause, a record and a report, gain and offset as they were. CONVERGED goes stale after 900 s and
not before; RESTART by a writer that may configure takes factory values, discards the block and releases the freeze; the record is
written after 60 s with a change and not before, with the values of every channel. That an update waits for the boundary after the
block is the model's reading (log entry 94). -/
def Obligations.CalibrationLearnsAndFreezes : Prop :=
  (∀ (s : State) (ch : Fin 48) (r0 r1 s0 s1 e0 e1 : Int) (settled alone : Bool), s.zone.logicRuns = true →
    (settled = false ∨ (s.zone.flag pSHUNT (byFeed (loadFeed ch.val) SHUNT.SHUNT_STATUS_SAT_A SHUNT.SHUNT_STATUS_SAT_B)) = true ∨ (s.zone.load ch.val).lo = true ∨ (s.zone.mode ≠ Mode.service ∧ s.zone.mode ≠ Mode.lightship) ∨ s.zone.flag (pCAL ch.val) CAL.CAL_CTRL_ENABLE = false ∨ s.zone.flag (pCAL ch.val) CAL.CAL_STATUS_FROZEN = true ∨ s.zone.band (loadFeed ch.val) ≠ 0 ∨ s.zone.flag (pZONE 3) ZONE3.SUPPLY_STATUS_CRANK_HOLD = true ∨ (s.zone.lstate ch.val ≠ 0 ∧ s.zone.lstate ch.val ≠ 2)) →
    Completes (.calEdge ch r0 r1 s0 s1 e0 e1 settled alone) s fun z =>
      z.fld (pCAL ch.val) CAL.CAL_COUNTS_REJ_STATE = min (s.zone.fld (pCAL ch.val) CAL.CAL_COUNTS_REJ_STATE + 1) (2 ^ CAL.CAL_COUNTS_REJ_STATE.w - 1) ∧
      CAL.CAL_COUNTS_REJ_STATE.put (z.rd ((pCAL ch.val) + CAL.CAL_COUNTS_REJ_STATE.off)) 0 = CAL.CAL_COUNTS_REJ_STATE.put (s.zone.rd ((pCAL ch.val) + CAL.CAL_COUNTS_REJ_STATE.off)) 0 ∧
      s.zone.Frame [(pCAL ch.val) + CAL.CAL_COUNTS_REJ_STATE.off] [] z) ∧
  (∀ (s : State) (ch : Fin 48) (r0 r1 s0 s1 e0 e1 : Int) (alone : Bool) (t : Nat), s.zone.logicRuns = true →
    s.zone.calState ch.val true = true → (s.zone.load ch.val).edges.head? = some (t, true) →
    t + s.zone.edgeTicks ch.val + 600 ≤ s.zone.mono →
    (alone = false ∨ (∃ j : Fin 48, j ≠ ch ∧ loadFeed j.val = loadFeed ch.val ∧ ∃ e ∈ (s.zone.load j.val).edges, (t ≤ e.1 + 1000 ∧ e.1 ≤ t + s.zone.edgeTicks ch.val + 1000) ∨ (t ≤ e.1 + s.zone.edgeTicks j.val + 1000 ∧ e.1 + s.zone.edgeTicks j.val ≤ t + s.zone.edgeTicks ch.val + 1000)) ∨ (∃ j : Fin 48, loadFeed j.val = loadFeed ch.val ∧ (s.zone.load j.val).firedAt.any (fun u => decide (t ≤ u + 1000 ∧ u ≤ t + s.zone.edgeTicks ch.val + 1000)) = true) ∨ ∃ e ∈ s.zone.sags (loadFeed ch.val), t ≤ e.at_ + 1000 ∧ e.at_ ≤ t + s.zone.edgeTicks ch.val + 1000) →
    Completes (.calEdge ch r0 r1 s0 s1 e0 e1 true alone) s fun z =>
      z.fld (pCAL ch.val) CAL.CAL_COUNTS_REJ_NEIGHBOUR = min (s.zone.fld (pCAL ch.val) CAL.CAL_COUNTS_REJ_NEIGHBOUR + 1) (2 ^ CAL.CAL_COUNTS_REJ_NEIGHBOUR.w - 1) ∧
      CAL.CAL_COUNTS_REJ_NEIGHBOUR.put (z.rd ((pCAL ch.val) + CAL.CAL_COUNTS_REJ_STATE.off)) 0 = CAL.CAL_COUNTS_REJ_NEIGHBOUR.put (s.zone.rd ((pCAL ch.val) + CAL.CAL_COUNTS_REJ_STATE.off)) 0 ∧
      s.zone.Frame [(pCAL ch.val) + CAL.CAL_COUNTS_REJ_STATE.off] [] z) ∧
  (∀ (s : State) (ch : Fin 48) (r0 r1 s0 s1 e0 e1 x y : Int), s.zone.logicRuns = true → s.zone.calState ch.val true = true →
    s.zone.calAlone ch.val = true → x = r1 - r0 → y = (s1 - s0) - (e1 - e0) →
    (x.natAbs < (loadClass ch.val).calBounds.1 ∨ x.natAbs / 4 < (y - x).natAbs) →
    Completes (.calEdge ch r0 r1 s0 s1 e0 e1 true true) s fun z =>
      (x.natAbs < (loadClass ch.val).calBounds.1 → z.fld (pCAL ch.val) CAL.CAL_COUNTS_REJ_SMALL = min (s.zone.fld (pCAL ch.val) CAL.CAL_COUNTS_REJ_SMALL + 1) (2 ^ CAL.CAL_COUNTS_REJ_SMALL.w - 1) ∧ CAL.CAL_COUNTS_REJ_SMALL.put (z.rd ((pCAL ch.val) + CAL.CAL_COUNTS_REJ_STATE.off)) 0 = CAL.CAL_COUNTS_REJ_SMALL.put (s.zone.rd ((pCAL ch.val) + CAL.CAL_COUNTS_REJ_STATE.off)) 0) ∧
      ((loadClass ch.val).calBounds.1 ≤ x.natAbs → z.fld (pCAL ch.val) CAL.CAL_COUNTS_REJ_OUTLIER = min (s.zone.fld (pCAL ch.val) CAL.CAL_COUNTS_REJ_OUTLIER + 1) (2 ^ CAL.CAL_COUNTS_REJ_OUTLIER.w - 1) ∧ CAL.CAL_COUNTS_REJ_OUTLIER.put (z.rd ((pCAL ch.val) + CAL.CAL_COUNTS_REJ_STATE.off)) 0 = CAL.CAL_COUNTS_REJ_OUTLIER.put (s.zone.rd ((pCAL ch.val) + CAL.CAL_COUNTS_REJ_STATE.off)) 0) ∧
      s.zone.Frame [(pCAL ch.val) + CAL.CAL_COUNTS_REJ_STATE.off] [] z) ∧
  (∀ (s : State) (ch : Fin 48) (r0 r1 s0 s1 e0 e1 x y w : Int), s.zone.logicRuns = true → s.zone.calState ch.val true = true →
    s.zone.calAlone ch.val = true → x = r1 - r0 → y = (s1 - s0) - (e1 - e0) → (loadClass ch.val).calBounds.1 ≤ x.natAbs →
    (y - x).natAbs ≤ x.natAbs / 4 →
    w = (if ch.val < 40 then (if r0 < r1 then r0 else r1) else (if r0.natAbs < r1.natAbs then r0 else r1)) →
    s.zone.fld (pCAL ch.val) CAL.CAL_STATUS_EDGES < 255 → Completes (.calEdge ch r0 r1 s0 s1 e0 e1 true true) s fun z =>
      z.cal ch.val = { (s.zone.cal ch.val) with sxx := (s.zone.cal ch.val).sxx + x.natAbs ^ 2, sxy := (s.zone.cal ch.val).sxy + x * y, sz := (s.zone.cal ch.val).sz + w } ∧
      z.fld (pCAL ch.val) CAL.CAL_STATUS_EDGES = s.zone.fld (pCAL ch.val) CAL.CAL_STATUS_EDGES + 1 ∧
      CAL.CAL_STATUS_EDGES.put (z.rd (pCAL ch.val)) 0 = CAL.CAL_STATUS_EDGES.put (s.zone.rd (pCAL ch.val)) 0 ∧
      s.zone.Frame [(pCAL ch.val)] [.cals] z) ∧
  (∀ (s : State) (ch : Fin 48) (r0 r1 s0 s1 e0 e1 x y w : Int), s.zone.logicRuns = true → s.zone.calState ch.val true = true →
    s.zone.calAlone ch.val = true → x = r1 - r0 → y = (s1 - s0) - (e1 - e0) → (loadClass ch.val).calBounds.1 ≤ x.natAbs →
    (y - x).natAbs ≤ x.natAbs / 4 →
    w = (if ch.val < 40 then (if r0 < r1 then r0 else r1) else (if r0.natAbs < r1.natAbs then r0 else r1)) →
    s.zone.fld (pCAL ch.val) CAL.CAL_STATUS_EDGES = 255 → Completes (.calEdge ch r0 r1 s0 s1 e0 e1 true true) s fun z =>
      z.cal ch.val = { (s.zone.cal ch.val) with sxx := 0, sxy := 0, sz := 0, due := some ((s.zone.cal ch.val).sxx + x.natAbs ^ 2, (s.zone.cal ch.val).sxy + x * y, (s.zone.cal ch.val).sz + w) } ∧
      z.fld (pCAL ch.val) CAL.CAL_STATUS_EDGES = 0 ∧
      CAL.CAL_STATUS_EDGES.put (z.rd (pCAL ch.val)) 0 = CAL.CAL_STATUS_EDGES.put (s.zone.rd (pCAL ch.val)) 0 ∧
      s.zone.Frame [(pCAL ch.val)] [.cals] z) ∧
  (∀ (s : State) (ch : Fin 48) (sxx b dg dq : Nat) (sxy sz g o : Int), sxx ≠ 0 → g = (sxy * 65536).tdiv sxx →
    o = - (g * sz).tdiv 16777216 → dg = (g - s.zone.fld (pCAL ch.val) CAL.GAIN_G).natAbs →
    dq = (o - s.zone.fldS (pCAL ch.val) CAL.OFFSET_O).natAbs →
    dg ≤ 1310 ∧ (g - 65536).natAbs ≤ 5242 ∧ dq ≤ (loadClass ch.val).calBounds.2.1 ∧ o.natAbs ≤ (loadClass ch.val).calBounds.2.2.1 →
    b = (s.zone.mono + 2499) / 2500 * 2500 → Gives (s.zone.calBlock ch.val sxx sxy sz) fun z =>
      z.fld (pCAL ch.val) CAL.CAL_STATUS_BLOCKS = min (s.zone.fld (pCAL ch.val) CAL.CAL_STATUS_BLOCKS + 1) 255 ∧
      (z.cal ch.val).lastBlock = s.zone.mono ∧ (z.cal ch.val).due = none ∧
      (z.cal ch.val).sxx = (s.zone.cal ch.val).sxx ∧ (z.cal ch.val).sxy = (s.zone.cal ch.val).sxy ∧ (z.cal ch.val).sz = (s.zone.cal ch.val).sz ∧
      (0 ≤ g ∧ g < 131072 → (z.fld (pCAL ch.val) CAL.EST_GAIN_G_EST : Int) = g) ∧
      (-32768 ≤ o ∧ o < 32768 → z.fldS (pCAL ch.val) CAL.EST_OFFSET_O_EST = o) ∧ z.bal = { s.zone.bal with changed := true } ∧
      (z.fld (pCAL ch.val) CAL.GAIN_G : Int) = g ∧ z.fldS (pCAL ch.val) CAL.OFFSET_O = o ∧
      (z.cal ch.val).held = some ((s.zone.calInForce ch.val b).1, (s.zone.calInForce ch.val b).2, b) ∧
      z.calInForce ch.val (b + 2499) = s.zone.calInForce ch.val b ∧ z.calInForce ch.val (b + 2500) = (g.toNat, o) ∧
      (dg ≤ 164 ∧ dq ≤ (loadClass ch.val).calBounds.2.2.2 → z.fld (pCAL ch.val) CAL.CAL_STATUS_SMALL = min 2 (s.zone.fld (pCAL ch.val) CAL.CAL_STATUS_SMALL + 1) ∧ z.flag (pCAL ch.val) CAL.CAL_STATUS_CONVERGED = (s.zone.flag (pCAL ch.val) CAL.CAL_STATUS_CONVERGED || decide (1 ≤ s.zone.fld (pCAL ch.val) CAL.CAL_STATUS_SMALL))) ∧
      (¬ (dg ≤ 164 ∧ dq ≤ (loadClass ch.val).calBounds.2.2.2) → z.fld (pCAL ch.val) CAL.CAL_STATUS_SMALL = 0 ∧ z.flag (pCAL ch.val) CAL.CAL_STATUS_CONVERGED = false) ∧
      z.flag (pCAL ch.val) CAL.CAL_EVENT_UPDATED = true ∧
      z.flag (pCAL ch.val) CAL.CAL_EVENT_CONVERGED = (s.zone.flag (pCAL ch.val) CAL.CAL_EVENT_CONVERGED || (z.flag (pCAL ch.val) CAL.CAL_STATUS_CONVERGED && !s.zone.flag (pCAL ch.val) CAL.CAL_STATUS_CONVERGED)) ∧
      z.flag (pCAL ch.val) CAL.CAL_STATUS_FROZEN = s.zone.flag (pCAL ch.val) CAL.CAL_STATUS_FROZEN ∧
      s.zone.BankFrame [9] [.cals, .bal] z) ∧
  (∀ (s : State) (ch : Fin 48) (sxx dg dq k : Nat) (sxy sz g o : Int), sxx ≠ 0 → g = (sxy * 65536).tdiv sxx →
    o = - (g * sz).tdiv 16777216 → dg = (g - s.zone.fld (pCAL ch.val) CAL.GAIN_G).natAbs →
    dq = (o - s.zone.fldS (pCAL ch.val) CAL.OFFSET_O).natAbs →
    k = (if 1310 < dg then 1 else if 5242 < (g - 65536).natAbs then 2 else if (loadClass ch.val).calBounds.2.1 < dq then 3 else if (loadClass ch.val).calBounds.2.2.1 < o.natAbs then 4 else 0) →
    k ≠ 0 → Gives (s.zone.calBlock ch.val sxx sxy sz) fun z =>
      z.fld (pCAL ch.val) CAL.CAL_STATUS_BLOCKS = min (s.zone.fld (pCAL ch.val) CAL.CAL_STATUS_BLOCKS + 1) 255 ∧
      (z.cal ch.val).lastBlock = s.zone.mono ∧ (z.cal ch.val).due = none ∧
      (z.cal ch.val).sxx = (s.zone.cal ch.val).sxx ∧ (z.cal ch.val).sxy = (s.zone.cal ch.val).sxy ∧ (z.cal ch.val).sz = (s.zone.cal ch.val).sz ∧
      (0 ≤ g ∧ g < 131072 → (z.fld (pCAL ch.val) CAL.EST_GAIN_G_EST : Int) = g) ∧
      (-32768 ≤ o ∧ o < 32768 → z.fldS (pCAL ch.val) CAL.EST_OFFSET_O_EST = o) ∧ z.bal = { s.zone.bal with changed := true } ∧
      z.flag (pCAL ch.val) CAL.CAL_STATUS_FROZEN = true ∧ z.fld (pCAL ch.val) CAL.CAL_STATUS_FREEZE_CAUSE = k ∧
      z.flag (pCAL ch.val) CAL.CAL_STATUS_CONVERGED = false ∧ z.fld (pCAL ch.val) CAL.CAL_STATUS_SMALL = 0 ∧
      z.flag (pCAL ch.val) CAL.CAL_EVENT_CAL_BOUND = true ∧
      z.fld (pCAL ch.val) CAL.GAIN_G = s.zone.fld (pCAL ch.val) CAL.GAIN_G ∧ z.rd ((pCAL ch.val) + CAL.OFFSET_O.off) = s.zone.rd ((pCAL ch.val) + CAL.OFFSET_O.off) ∧ (z.cal ch.val).held = (s.zone.cal ch.val).held ∧
      s.zone.Reports z 16 (BitVec.ofNat 32 ch.val) ∧
      (s.zone.records.length < 256 → z.records.length = s.zone.records.length + 1) ∧
      s.zone.BankFrame [9, 10] [.cals, .safety, .records, .bal, .freeNext, .log] z) ∧
  (∀ (s : State), (s.zone.mono % 2500 ≠ 0 ∨ ∀ j : Fin 48, (s.zone.cal j.val).due = none) → Gives (s.zone.calUpdates) fun z =>
      z = s.zone) ∧
  (∀ (s : State) (ch : Fin 48) (sxx : Nat) (sxy sz : Int), s.zone.mono % 2500 = 0 →
    (∀ j : Fin 48, j ≠ ch → (s.zone.cal j.val).due = none) → (s.zone.cal ch.val).due = some (sxx, sxy, sz) →
    Gives (s.zone.calUpdates) fun z =>
      z = s.zone.calBlock ch.val sxx sxy sz) ∧
  (∀ (s : State) (ch : Fin 48), s.zone.logicRuns = true → s.zone.flag (pCAL ch.val) CAL.CAL_STATUS_CONVERGED = true →
    (s.zone.cal ch.val).lastBlock + 225000000000 ≤ s.zone.mono → Completes (.calStale ch) s fun z =>
      z.flag (pCAL ch.val) CAL.CAL_STATUS_CONVERGED = false ∧ z.fld (pCAL ch.val) CAL.CAL_STATUS_SMALL = 0 ∧
      z.flag (pCAL ch.val) CAL.CAL_EVENT_STALE = true ∧
      z.flag (pCAL ch.val) CAL.CAL_STATUS_FROZEN = s.zone.flag (pCAL ch.val) CAL.CAL_STATUS_FROZEN ∧ z.fld (pCAL ch.val) CAL.CAL_STATUS_EDGES = s.zone.fld (pCAL ch.val) CAL.CAL_STATUS_EDGES ∧ z.fld (pCAL ch.val) CAL.CAL_STATUS_BLOCKS = s.zone.fld (pCAL ch.val) CAL.CAL_STATUS_BLOCKS ∧
      s.zone.Frame [(pCAL ch.val) + CAL.CAL_STATUS_SMALL.off, (pCAL ch.val) + CAL.CAL_EVENT_STALE.off] [] z) ∧
  (∀ (s : State) (ch : Fin 48), s.zone.logicRuns = true →
    (s.zone.flag (pCAL ch.val) CAL.CAL_STATUS_CONVERGED = false ∨ s.zone.mono < (s.zone.cal ch.val).lastBlock + 225000000000) →
    Completes (.calStale ch) s fun z =>
      s.zone.Frame [] [] z) ∧
  (∀ (s : State) (writer : Writer) (ch : Fin 48), s.zone.writerActs writer = true → s.zone.mayConfigure writer = true →
    Completes (.calRestart writer ch) s fun z =>
      z.fld (pCAL ch.val) CAL.GAIN_G = 65536 ∧ z.fldS (pCAL ch.val) CAL.OFFSET_O = 0 ∧
      z.flag (pCAL ch.val) CAL.CAL_STATUS_FROZEN = false ∧ z.fld (pCAL ch.val) CAL.CAL_STATUS_FREEZE_CAUSE = 0 ∧
      z.fld (pCAL ch.val) CAL.CAL_STATUS_EDGES = 0 ∧
      z.flag (pCAL ch.val) CAL.CAL_STATUS_CONVERGED = false ∧ z.fld (pCAL ch.val) CAL.CAL_STATUS_SMALL = 0 ∧
      (z.cal ch.val).sxx = 0 ∧ (z.cal ch.val).sxy = 0 ∧ (z.cal ch.val).sz = 0 ∧ (z.cal ch.val).due = none ∧ (z.cal ch.val).lastBlock = (s.zone.cal ch.val).lastBlock ∧
      z.fld (pCAL ch.val) CAL.CAL_STATUS_BLOCKS = s.zone.fld (pCAL ch.val) CAL.CAL_STATUS_BLOCKS ∧
      z.bal = { s.zone.bal with changed := true } ∧
      s.zone.Frame [(pCAL ch.val) + CAL.GAIN_G.off, (pCAL ch.val) + CAL.OFFSET_O.off, (pCAL ch.val) + CAL.CAL_STATUS_EDGES.off] [.cals, .bal] z) ∧
  (∀ (s : State) (writer : Writer) (ch : Fin 48), s.zone.mayConfigure writer = false →
    Completes (.calRestart writer ch) s fun z =>
      s.zone.Frame [] [] z) ∧
  (∀ (s : State), s.zone.logicRuns = true → s.zone.bal.changed = true → s.zone.bal.written + 15000000000 ≤ s.zone.mono →
    Completes (.calRecordWrite) s fun z =>
      (∀ n : Fin 48, SMap.get (fun _ => CalRec.factory) z.bal.record n.val = ⟨s.zone.fld (pCAL n.val) CAL.GAIN_G, s.zone.fld (pCAL n.val) CAL.OFFSET_O, s.zone.flag (pCAL n.val) CAL.CAL_STATUS_FROZEN, s.zone.fld (pCAL n.val) CAL.CAL_STATUS_FREEZE_CAUSE⟩) ∧
      z.bal.changed = false ∧ z.bal.written = s.zone.mono ∧
      { z.bal with record := s.zone.bal.record, changed := s.zone.bal.changed, written := s.zone.bal.written } = s.zone.bal ∧
      s.zone.Frame [] [.bal] z) ∧
  (∀ (s : State), s.zone.logicRuns = true → (s.zone.bal.changed = false ∨ s.zone.mono < s.zone.bal.written + 15000000000) →
    Completes (.calRecordWrite) s fun z =>
      s.zone.Frame [] [] z)

/-- R295, R308, R309, R310, R312, R313, R314, R315, R319: an evaluation no sooner than 10 us after the last shows each feed's
current, residual and saturation, counts a run of residuals above 1.5 A unless the check is suspended, raises the fault with its
event, count and report at the thousandth, and clears it after 100 ms at or below 1.0 A. The end of a second without eight values,
with a ring port down, in holdover, frozen or with the estimator not running only begins the next second; else the share moves by
at most 1,024 with the corrections of both ports, or freezes beyond its bound. RESTART by a writer that may configure takes the
share to 0 and releases the freeze. A saturated mean counts as none at or below 1.0 A: the model's reading (log entry 94). -/
def Obligations.BalanceAndRingAreJudged : Prop :=
  (∀ (s : State) (a b ea eb : Int) (sa sb : Bool) (legs : List LegShare), s.zone.logicRuns = true →
    s.zone.paceDue Pace.balance 2500 = false → Completes (.balanceEval a b ea eb sa sb legs) s fun z =>
      s.zone.Frame [] [] z) ∧
  (∀ (s : State) (f : Feed) (a b ea eb : Int) (sa sb sat susp : Bool) (legs : List LegShare) (i e r : Int) (run : Nat) (calm : Option Nat),
    s.zone.logicRuns = true → s.zone.paceDue Pace.balance 2500 = true → i = (match f with | .A => a | .B => b) →
    e = (match f with | .A => ea | .B => eb) → sat = (match f with | .A => sa | .B => sb) →
    r = (feedChannels f).foldl (fun r c => r - if c < 40 then s.zone.fldS (pLOAD c) LOAD.CUR_CURRENT else if (nthD legs (c - 40) ⟨0, 0⟩).closed = 0 then 0 else ((nthD legs (c - 40) ⟨0, 0⟩).raw * ((s.zone.calInForce c s.zone.mono).1 : Int)).tdiv 65536 + ((s.zone.calInForce c s.zone.mono).2 * (min 50 (nthD legs (c - 40) ⟨0, 0⟩).closed : Nat)).tdiv 50) (i - e) →
    susp = (sat || decide (s.zone.mode ≠ Mode.service ∧ s.zone.mode ≠ Mode.lightship) || decide (s.zone.band f ≠ 0) || (s.zone.bandAt f).any (fun t => decide (s.zone.mono < t + 2500000)) || s.zone.flag (pZONE 3) ZONE3.SUPPLY_STATUS_CRANK_HOLD) →
    run = (if susp = false ∧ 15000 < r.natAbs then min 1001 (s.zone.balRun f + 1) else 0) →
    calm = (if r.natAbs ≤ 10000 ∧ sat = false then some ((s.zone.balCalm f).getD s.zone.mono) else none) →
    Completes (.balanceEval a b ea eb sa sb legs) s fun z =>
      (-21474836480 ≤ i ∧ i ≤ 21474836470 → z.fldS pSHUNT (byFeed f SHUNT.FEED_A_CURRENT SHUNT.FEED_B_CURRENT) = i.tdiv 10) ∧
      z.flag pSHUNT (byFeed f SHUNT.SHUNT_STATUS_SAT_A SHUNT.SHUNT_STATUS_SAT_B) = sat ∧
      z.fld pSHUNT (byFeed f SHUNT.SHUNT_COUNTS_SAT_A SHUNT.SHUNT_COUNTS_SAT_B) = min (s.zone.fld pSHUNT (byFeed f SHUNT.SHUNT_COUNTS_SAT_A SHUNT.SHUNT_COUNTS_SAT_B) + if sat then 1 else 0) 65535 ∧
      (r.natAbs < 3276800 → z.fldS pBAL (byFeed f BAL.RESIDUAL_A BAL.RESIDUAL_B) = r.tdiv 100) ∧
      z.flag pBAL (byFeed f BAL.BAL_STATUS_SUSP_A BAL.BAL_STATUS_SUSP_B) = susp ∧
      (r.natAbs < 6553600 → z.fld pBAL (byFeed f BAL.PEAK_RESIDUAL_A BAL.PEAK_RESIDUAL_B) = if susp then s.zone.fld pBAL (byFeed f BAL.PEAK_RESIDUAL_A BAL.PEAK_RESIDUAL_B) else max (s.zone.fld pBAL (byFeed f BAL.PEAK_RESIDUAL_A BAL.PEAK_RESIDUAL_B)) (r.natAbs / 100)) ∧
      z.balRun f = run ∧ z.balCalm f = calm ∧
      (z.flag pBAL (byFeed f BAL.BAL_STATUS_FAULT_A BAL.BAL_STATUS_FAULT_B) = if run = 1000 then true else if calm.any (fun t => decide (t + 25000000 ≤ s.zone.mono)) then false else s.zone.flag pBAL (byFeed f BAL.BAL_STATUS_FAULT_A BAL.BAL_STATUS_FAULT_B)) ∧
      z.flag pBAL (byFeed f BAL.BAL_EVENT_FAULT_A BAL.BAL_EVENT_FAULT_B) = (decide (run = 1000) || s.zone.flag pBAL (byFeed f BAL.BAL_EVENT_FAULT_A BAL.BAL_EVENT_FAULT_B)) ∧
      z.fld pBAL (byFeed f BAL.BAL_COUNTS_A BAL.BAL_COUNTS_B) = min (s.zone.fld pBAL (byFeed f BAL.BAL_COUNTS_A BAL.BAL_COUNTS_B) + if run = 1000 then 1 else 0) 65535 ∧
      (run = 1000 → (⟨15, BitVec.ofNat 32 f.idx, false, s.zone.mono, s.zone.ts64⟩ : Report) ∈ z.safety.reports) ∧
      (z.balRun .A ≠ 1000 ∧ z.balRun .B ≠ 1000 → z.safety = s.zone.safety ∧ z.records = s.zone.records) ∧
      s.zone.BankFrame [9, 10] [.bal, .safety, .records, .freeNext, .log, .pace] z) ∧
  (∀ (s : State), s.zone.logicRuns = true → s.zone.time.net.sec.toNat ≤ s.zone.time.ringSecond →
    Completes (.ringUpdate) s fun z =>
      s.zone.Frame [] [] z) ∧
  (∀ (s : State), s.zone.logicRuns = true → s.zone.time.ringSecond < s.zone.time.net.sec.toNat →
    (s.zone.ringRuns = false ∨ s.zone.flag pRING RING.RING_STATUS_FROZEN = true ∨ s.zone.time.ringBroken = true ∨ s.zone.ringPortsUp = false ∨ s.zone.time.ringCount < 8 ∨ s.zone.fld pTIME TIME0.TIME_STATUS_STATE = 3) →
    Completes (.ringUpdate) s fun z =>
      z.time = { s.zone.time with ringSecond := s.zone.time.net.sec.toNat, ringSum := 0, ringCount := 0, ringBroken := (!s.zone.ringPortsUp || decide (s.zone.fld pTIME TIME0.TIME_STATUS_STATE = 3)) } ∧
      s.zone.Frame [] [.time] z) ∧
  (∀ (s : State) (d step k : Int), s.zone.logicRuns = true → s.zone.time.ringSecond < s.zone.time.net.sec.toNat →
    s.zone.ringRuns = true → s.zone.flag pRING RING.RING_STATUS_FROZEN = false → s.zone.time.ringBroken = false →
    s.zone.ringPortsUp = true → 8 ≤ s.zone.time.ringCount → s.zone.fld pTIME TIME0.TIME_STATUS_STATE ≠ 3 →
    d = s.zone.time.ringSum.tdiv s.zone.time.ringCount →
    step = max (-1024) (min 1024 (d.tdiv (2 * s.zone.fld pRING RING.RING_CTRL_LINKS))) →
    k = s.zone.fldS pRING RING.SHARE_S + step → k.natAbs ≤ 64000 → Completes (.ringUpdate) s fun z =>
      z.time = { s.zone.time with ringSecond := s.zone.time.net.sec.toNat, ringSum := 0, ringCount := 0, ringBroken := false } ∧
      (-2147483648 ≤ d ∧ d < 2147483648 → z.fldS pRING RING.DISCREPANCY_D = d) ∧ z.rd pRING = s.zone.rd pRING ∧
      z.fldS pRING RING.SHARE_S = k ∧
      z.fld pRING RING.RING_STATUS_UPDATES = min (s.zone.fld pRING RING.RING_STATUS_UPDATES + 1) (2 ^ RING.RING_STATUS_UPDATES.w - 1) ∧
      z.flag pRING RING.RING_EVENT_UPDATED = true ∧ z.flag pRING RING.RING_STATUS_FROZEN = false ∧
      (-2147483648 ≤ s.zone.fldS pRING RING.BASE_WEST_BASE - k ∧ s.zone.fldS pRING RING.BASE_WEST_BASE - k < 2147483648 → z.fldS pRING RING.APPLIED_WEST_APPLIED = s.zone.fldS pRING RING.BASE_WEST_BASE - k) ∧
      (-2147483648 ≤ s.zone.fldS pRING RING.BASE_EAST_BASE + k ∧ s.zone.fldS pRING RING.BASE_EAST_BASE + k < 2147483648 → z.fldS pRING RING.APPLIED_EAST_APPLIED = s.zone.fldS pRING RING.BASE_EAST_BASE + k) ∧
      s.zone.BankFrame [9] [.time, .freeNext] z) ∧
  (∀ (s : State) (d step k : Int), s.zone.logicRuns = true → s.zone.time.ringSecond < s.zone.time.net.sec.toNat →
    s.zone.ringRuns = true → s.zone.flag pRING RING.RING_STATUS_FROZEN = false → s.zone.time.ringBroken = false →
    s.zone.ringPortsUp = true → 8 ≤ s.zone.time.ringCount → s.zone.fld pTIME TIME0.TIME_STATUS_STATE ≠ 3 →
    d = s.zone.time.ringSum.tdiv s.zone.time.ringCount →
    step = max (-1024) (min 1024 (d.tdiv (2 * s.zone.fld pRING RING.RING_CTRL_LINKS))) → k = s.zone.fldS pRING RING.SHARE_S →
    64000 < (k + step).natAbs → Completes (.ringUpdate) s fun z =>
      z.time = { s.zone.time with ringSecond := s.zone.time.net.sec.toNat, ringSum := 0, ringCount := 0, ringBroken := false } ∧
      (-2147483648 ≤ d ∧ d < 2147483648 → z.fldS pRING RING.DISCREPANCY_D = d) ∧ z.rd pRING = s.zone.rd pRING ∧
      z.flag pRING RING.RING_STATUS_FROZEN = true ∧ z.flag pRING RING.RING_EVENT_RING_BOUND = true ∧
      z.fldS pRING RING.SHARE_S = k ∧ z.fld pRING RING.RING_STATUS_UPDATES = s.zone.fld pRING RING.RING_STATUS_UPDATES ∧
      (s.zone.records.length < 256 → z.records.length = s.zone.records.length + 1) ∧
      (-2147483648 ≤ s.zone.fldS pRING RING.BASE_WEST_BASE - k ∧ s.zone.fldS pRING RING.BASE_WEST_BASE - k < 2147483648 → z.fldS pRING RING.APPLIED_WEST_APPLIED = s.zone.fldS pRING RING.BASE_WEST_BASE - k) ∧
      (-2147483648 ≤ s.zone.fldS pRING RING.BASE_EAST_BASE + k ∧ s.zone.fldS pRING RING.BASE_EAST_BASE + k < 2147483648 → z.fldS pRING RING.APPLIED_EAST_APPLIED = s.zone.fldS pRING RING.BASE_EAST_BASE + k) ∧
      s.zone.BankFrame [9, 10] [.time, .freeNext, .records, .log] z) ∧
  (∀ (s : State) (writer : Writer) (k : Int), s.zone.writerActs writer = true → s.zone.mayConfigure writer = true → k = 0 →
    Completes (.ringRestart writer) s fun z =>
      z.fldS pRING RING.SHARE_S = k ∧ z.flag pRING RING.RING_STATUS_FROZEN = false ∧
      z.flag pRING RING.RING_STATUS_RUNNING = s.zone.ringRuns ∧
      z.rd pRING = s.zone.rd pRING ∧ z.rd (pRING + RING.DISCREPANCY_D.off) = s.zone.rd (pRING + RING.DISCREPANCY_D.off) ∧
      (s.zone.ringRuns = false → z.fldS pRING RING.APPLIED_WEST_APPLIED = s.zone.fldS pRING RING.BASE_WEST_BASE ∧ z.fldS pRING RING.APPLIED_EAST_APPLIED = s.zone.fldS pRING RING.BASE_EAST_BASE) ∧
      (s.zone.ringRuns = true → z.rd (pRING + RING.APPLIED_WEST_APPLIED.off) = s.zone.rd (pRING + RING.APPLIED_WEST_APPLIED.off) ∧ z.rd (pRING + RING.APPLIED_EAST_APPLIED.off) = s.zone.rd (pRING + RING.APPLIED_EAST_APPLIED.off)) ∧
      s.zone.BankFrame [9] [] z) ∧
  (∀ (s : State) (writer : Writer), s.zone.mayConfigure writer = false → Completes (.ringRestart writer) s fun z =>
      s.zone.Frame [] [] z)

/-! ### Ethernet switch -/

/-- R321, R322, R326, R327, R329, R338, R340, R342, R347, R352, R355, R368: a port that is down receives nothing. A frame with a
wrong FCS, too short or too long counts as such; one sent cut-through ends spoiled, as CT_BAD. A gPTP frame goes to the time
engine; one that the port, MACsec, sequence recovery or the stream filter discards counts so; one without a destination is a miss.
A frame without stream joins the queue of its one egress port, waits, or counts as the port's drop; with several ports each whose
guarantee has room takes it. Reception begins cut-through transmission where R352 allows, and its good end completes it. A waiting
copy is admitted when R338 allows, its own charge apart. Each connection moves one cell: a copy leaves its queue with its last, an
uncorrectable one is discarded and reported; an egress side that requests is connected to the first ready ingress side. A frame
starts where it is eligible, in the form of its port, stamped where requested; its end counts. Every aged head goes. Counters read
with their latch; recovery resets after its time. Frames of several ports in one cell time come in port order: the model's reading
(log entry 97). -/
def Obligations.FramesPassTheSwitch : Prop :=
  (∀ (s : State) (port : Fin 28) (frame : List Byte) (rx : Reception) (ticks : Nat),
    (s.zone.logicRuns = false ∨ s.zone.portUp port.val = false) → Completes (.frameReceive port frame rx ticks) s fun z =>
      s.zone.Frame [] [] z) ∧
  (∀ (s : State) (port : Fin 28) (frame : List Byte) (ticks k : Nat) (ok : Bool), s.zone.logicRuns = true →
    s.zone.portUp port.val = true → k = (if ok = false then 2 else if s.zone.clearLen port.val frame < 64 then 3 else 4) →
    (ok = true → s.zone.clearLen port.val frame < 64 ∨ s.zone.fld (pSWP port.val) SWP.MAX_FRAME_BYTES < s.zone.clearLen port.val frame) →
    Completes (.frameReceive port frame (.ends ok) ticks) s fun z =>
      z.statVal (statPort port.val k) = satU 64 (s.zone.statVal (statPort port.val k) + 1) ∧
      (∀ e : Fin 28, e.val ∈ s.zone.cutPorts port.val → z.egress e.val = (s.zone.egress e.val).map (fun x => { x with live := false, spoiled := true }) ∧ z.statVal (statPort e.val 10) = satU 64 (s.zone.statVal (statPort e.val 10) + 1)) ∧
      (∀ e : Fin 32, e.val ∉ s.zone.cutPorts port.val → z.egress e.val = s.zone.egress e.val) ∧
      z.switch.voqs = s.zone.switch.voqs ∧
      z.sleep = (if ok then { s.zone.sleep with heard := s.zone.sleep.heard.or (some s.zone.mono) } else s.zone.sleep) ∧
      s.zone.Frame [] [.switch, .sleep] z) ∧
  (∀ (s : State) (port : Fin 28) (frame : List Byte) (ticks : Nat), s.zone.logicRuns = true → s.zone.portUp port.val = true →
    s.zone.macsecOn port.val = true → s.zone.secBypass port.val frame = false →
    64 ≤ s.zone.clearLen port.val frame ∧ s.zone.clearLen port.val frame ≤ s.zone.fld (pSWP port.val) SWP.MAX_FRAME_BYTES →
    s.zone.fld (pPORT port.val) PORT.MACSEC_CFG_VALIDATE = 2 →
    (beAt frame 12 2 ≠ Frame.typeSec ∨ ∀ n : Fin 16, s.zone.secA port.val (4 + n.val) = none) →
    Completes (.frameReceive port frame (.ends true) ticks) s fun z =>
      z.statVal (statPort port.val 0) = satU 64 (s.zone.statVal (statPort port.val 0) + 1) ∧
      z.statVal (statSecy port.val 4) = satU 64 (s.zone.statVal (statSecy port.val 4) + if beAt frame 12 2 = Frame.typeSec then 1 else 0) ∧
      (∀ k : Nat, k ≠ statPort port.val 0 → k ≠ statSecy port.val 4 → z.statVal k = s.zone.statVal k) ∧
      z.switch.voqs = s.zone.switch.voqs ∧ z.switch.egr = s.zone.switch.egr ∧
      z.sleep = { s.zone.sleep with heard := s.zone.sleep.heard.or (some s.zone.mono) } ∧ s.zone.Frame [] [.switch, .sleep] z) ∧
  (∀ (s : State) (port : Fin 28) (frame : List Byte) (ticks : Nat), s.zone.logicRuns = true → s.zone.portUp port.val = true →
    60 ≤ frame.length → frame.length + 4 ≤ s.zone.fld (pSWP port.val) SWP.MAX_FRAME_BYTES → s.zone.macsecOn port.val = false →
    Zone.isGptp port.val frame = true → Completes (.frameReceive port frame (.ends true) ticks) s fun z =>
      z.statVal (statPort port.val 0) = satU 64 (s.zone.statVal (statPort port.val 0) + 1) ∧
      (∀ k : Nat, k ≠ statPort port.val 0 → z.statVal k = s.zone.statVal k) ∧
      z.time = { s.zone.time with inbox := s.zone.time.inbox ++ [(port.val, frame)] } ∧ z.switch.voqs = s.zone.switch.voqs ∧
      z.sleep = { s.zone.sleep with heard := s.zone.sleep.heard.or (some s.zone.mono) } ∧
      s.zone.Frame [] [.switch, .sleep, .time] z) ∧
  (∀ (s : State) (port : Fin 28) (frame : List Byte) (ticks : Nat), s.zone.logicRuns = true → s.zone.portUp port.val = true →
    60 ≤ frame.length → frame.length + 4 ≤ s.zone.fld (pSWP port.val) SWP.MAX_FRAME_BYTES → s.zone.macsecOn port.val = false →
    Zone.isGptp port.val frame = false → s.zone.cutPorts port.val = [] →
    ((s.zone.fld (pSWP port.val) SWP.PORT_CFG_ACCEPT = 1 ∧ (Frame.tags frame).vlan.all (fun c => decide (c % 4096 = 0)) = true) ∨ (s.zone.fld (pSWP port.val) SWP.PORT_CFG_ACCEPT = 2 ∧ (Frame.tags frame).vlan.any (fun c => decide (c % 4096 ≠ 0)) = true)) →
    Completes (.frameReceive port frame (.ends true) ticks) s fun z =>
      z.statVal (statPort port.val 0) = satU 64 (s.zone.statVal (statPort port.val 0) + 1) ∧
      z.statVal (statPort port.val 1) = satU 64 (s.zone.statVal (statPort port.val 1) + (frame.length + 4)) ∧
      z.statVal (statPort port.val 5) = satU 64 (s.zone.statVal (statPort port.val 5) + 1) ∧ z.switch.voqs = s.zone.switch.voqs ∧
      z.sleep = { s.zone.sleep with heard := s.zone.sleep.heard.or (some s.zone.mono) } ∧ s.zone.Frame [] [.switch, .sleep] z) ∧
  (∀ (s : State) (port : Fin 28) (frame : List Byte) (ticks v : Nat), s.zone.logicRuns = true → s.zone.portUp port.val = true →
    60 ≤ frame.length → frame.length + 4 ≤ s.zone.fld (pSWP port.val) SWP.MAX_FRAME_BYTES → s.zone.macsecOn port.val = false →
    Zone.isGptp port.val frame = false → s.zone.accepts port.val (Frame.tags frame).vlan = true → s.zone.cutPorts port.val = [] →
    (∀ m : Fin 4, (s.zone.tabWord 69 m.val 0).testBit 31 = false) →
    v = (match (Frame.tags frame).vlan with | some c => if c % 4096 = 0 then s.zone.fld (pSWP port.val) SWP.PORT_CFG_PVID else c % 4096 | none => s.zone.fld (pSWP port.val) SWP.PORT_CFG_PVID) →
    (((s.zone.fdbFind 1 v (Frame.src frame)).bind fun j => if (s.zone.tabWord 64 j 3).testBit 31 then some (s.zone.tabWord 64 j 3 / 65536 % 4096) else none).or ((s.zone.fdbFind 0 v (Frame.dst frame)).bind fun j => if (s.zone.tabWord 64 j 3).testBit 31 then some (s.zone.tabWord 64 j 3 / 65536 % 4096) else none)) = none →
    (s.zone.fdbFind 0 v (Frame.dst frame)).all (fun k => decide (s.zone.egressPorts port.val (s.zone.tabWord 64 k 2) = [])) = true →
    Completes (.frameReceive port frame (.ends true) ticks) s fun z =>
      z.statVal (statPort port.val 0) = satU 64 (s.zone.statVal (statPort port.val 0) + 1) ∧
      z.statVal (statPort port.val 1) = satU 64 (s.zone.statVal (statPort port.val 1) + (frame.length + 4)) ∧
      z.statVal (statPort port.val 6) = satU 64 (s.zone.statVal (statPort port.val 6) + 1) ∧ z.switch.voqs = s.zone.switch.voqs ∧
      z.sleep = { s.zone.sleep with heard := s.zone.sleep.heard.or (some s.zone.mono) } ∧ s.zone.Frame [] [.switch, .sleep] z) ∧
  (∀ (s : State) (port : Fin 28) (e : Fin 32) (frame : List Byte) (ticks v pcp k cls n : Nat) (c : Copy),
    s.zone.logicRuns = true → s.zone.portUp port.val = true → 60 ≤ frame.length →
    frame.length + 4 ≤ s.zone.fld (pSWP port.val) SWP.MAX_FRAME_BYTES → s.zone.macsecOn port.val = false →
    Zone.isGptp port.val frame = false → s.zone.accepts port.val (Frame.tags frame).vlan = true → s.zone.cutPorts port.val = [] →
    (∀ m : Fin 4, (s.zone.tabWord 69 m.val 0).testBit 31 = false) →
    v = (match (Frame.tags frame).vlan with | some c => if c % 4096 = 0 then s.zone.fld (pSWP port.val) SWP.PORT_CFG_PVID else c % 4096 | none => s.zone.fld (pSWP port.val) SWP.PORT_CFG_PVID) →
    (((s.zone.fdbFind 1 v (Frame.src frame)).bind fun j => if (s.zone.tabWord 64 j 3).testBit 31 then some (s.zone.tabWord 64 j 3 / 65536 % 4096) else none).or ((s.zone.fdbFind 0 v (Frame.dst frame)).bind fun j => if (s.zone.tabWord 64 j 3).testBit 31 then some (s.zone.tabWord 64 j 3 / 65536 % 4096) else none)) = none →
    s.zone.fdbFind 0 v (Frame.dst frame) = some k →
    pcp = (match (Frame.tags frame).vlan with | some c => c / 8192 % 8 | none => s.zone.fld (pSWP port.val) SWP.PORT_CFG_DEFAULT_PCP) →
    c = ⟨frame, s.zone.stampBefore ticks, s.zone.time.residence - ticks, v, pcp, (Frame.tags frame).vlan.any (fun x => decide (x % 4096 ≠ 0)), (if (Frame.tags frame).vlan.any (fun x => x.testBit 12) && s.zone.flag (pSWP port.val) SWP.PORT_CFG_COLOUR_AWARE then 1 else 0), none, none, s.zone.tabWord 64 k 3 % 1024, none, false, false⟩ →
    cls = (if (s.zone.tabWord 64 k 3).testBit 15 then s.zone.tabWord 64 k 3 / 4096 % 8 else s.zone.pcpClass port.val pcp) →
    s.zone.egressPorts port.val (s.zone.tabWord 64 k 2) = [e.val] → n = (frame.length + 4 + 63) / 64 →
    Completes (.frameReceive port frame (.ends true) ticks) s fun z =>
      z.statVal (statPort port.val 0) = satU 64 (s.zone.statVal (statPort port.val 0) + 1) ∧
      z.statVal (statPort port.val 1) = satU 64 (s.zone.statVal (statPort port.val 1) + (frame.length + 4)) ∧
      ((s.zone.linkState e.val = 2 ∨ (s.zone.linkState e.val = 1 ∧ s.zone.scheduled e.val cls = true)) → z.switch.voqs = s.zone.switch.voqs ∧ z.statVal (statClass e.val cls 8) = satU 64 (s.zone.statVal (statClass e.val cls 8) + 1)) ∧
      (¬ (s.zone.linkState e.val = 2 ∨ (s.zone.linkState e.val = 1 ∧ s.zone.scheduled e.val cls = true)) ∧ s.zone.admission e.val cls n = true ∧ (28 ≤ e.val ∨ (s.zone.wred e.val cls c.colour).1 = false) → z.voq port.val e.val cls = s.zone.voq port.val e.val cls ++ [c] ∧ z.statVal (statClass e.val cls 0) = satU 64 (s.zone.statVal (statClass e.val cls 0) + 1)) ∧
      (¬ (s.zone.linkState e.val = 2 ∨ (s.zone.linkState e.val = 1 ∧ s.zone.scheduled e.val cls = true)) ∧ s.zone.admission e.val cls n = true ∧ e.val < 28 ∧ (s.zone.wred e.val cls c.colour).1 = true → z.switch.voqs = s.zone.switch.voqs ∧ z.statVal (statClass e.val cls (3 + c.colour)) = satU 64 (s.zone.statVal (statClass e.val cls (3 + c.colour)) + 1)) ∧
      (¬ (s.zone.linkState e.val = 2 ∨ (s.zone.linkState e.val = 1 ∧ s.zone.scheduled e.val cls = true)) ∧ s.zone.admission e.val cls n = false ∧ e.val < 28 → z.switch.voqs = s.zone.switch.voqs ∧ z.statVal (statClass e.val cls 2) = satU 64 (s.zone.statVal (statClass e.val cls 2) + 1)) ∧
      (¬ (s.zone.linkState e.val = 2 ∨ (s.zone.linkState e.val = 1 ∧ s.zone.scheduled e.val cls = true)) ∧ s.zone.admission e.val cls n = false ∧ 28 ≤ e.val ∧ s.zone.mayWait port.val n = true → z.voq port.val e.val cls = s.zone.voq port.val e.val cls ++ [{ c with waiting := true }]) ∧
      (¬ (s.zone.linkState e.val = 2 ∨ (s.zone.linkState e.val = 1 ∧ s.zone.scheduled e.val cls = true)) ∧ s.zone.admission e.val cls n = false ∧ 28 ≤ e.val ∧ s.zone.mayWait port.val n = false → z.switch.voqs = s.zone.switch.voqs ∧ z.statVal (statPort port.val 7) = satU 64 (s.zone.statVal (statPort port.val 7) + 1)) ∧
      (∀ (i e' : Fin 32) (t : Fin 8), (i.val, e'.val, t.val) ≠ (port.val, e.val, cls) → z.voq i.val e'.val t.val = s.zone.voq i.val e'.val t.val) ∧
      z.sleep = { s.zone.sleep with heard := s.zone.sleep.heard.or (some s.zone.mono) } ∧
      s.zone.BankFrame [5] [.switch, .sleep, .freeNext] z) ∧
  (∀ (s : State) (port : Fin 28) (frame : List Byte) (ticks v pcp k cls n : Nat) (c : Copy), s.zone.logicRuns = true →
    s.zone.portUp port.val = true → 60 ≤ frame.length → frame.length + 4 ≤ s.zone.fld (pSWP port.val) SWP.MAX_FRAME_BYTES →
    s.zone.macsecOn port.val = false → Zone.isGptp port.val frame = false →
    s.zone.accepts port.val (Frame.tags frame).vlan = true → s.zone.cutPorts port.val = [] →
    (∀ m : Fin 4, (s.zone.tabWord 69 m.val 0).testBit 31 = false) →
    v = (match (Frame.tags frame).vlan with | some c => if c % 4096 = 0 then s.zone.fld (pSWP port.val) SWP.PORT_CFG_PVID else c % 4096 | none => s.zone.fld (pSWP port.val) SWP.PORT_CFG_PVID) →
    (((s.zone.fdbFind 1 v (Frame.src frame)).bind fun j => if (s.zone.tabWord 64 j 3).testBit 31 then some (s.zone.tabWord 64 j 3 / 65536 % 4096) else none).or ((s.zone.fdbFind 0 v (Frame.dst frame)).bind fun j => if (s.zone.tabWord 64 j 3).testBit 31 then some (s.zone.tabWord 64 j 3 / 65536 % 4096) else none)) = none →
    s.zone.fdbFind 0 v (Frame.dst frame) = some k →
    pcp = (match (Frame.tags frame).vlan with | some c => c / 8192 % 8 | none => s.zone.fld (pSWP port.val) SWP.PORT_CFG_DEFAULT_PCP) →
    c = ⟨frame, s.zone.stampBefore ticks, s.zone.time.residence - ticks, v, pcp, (Frame.tags frame).vlan.any (fun x => decide (x % 4096 ≠ 0)), (if (Frame.tags frame).vlan.any (fun x => x.testBit 12) && s.zone.flag (pSWP port.val) SWP.PORT_CFG_COLOUR_AWARE then 1 else 0), none, none, s.zone.tabWord 64 k 3 % 1024, none, false, false⟩ →
    cls = (if (s.zone.tabWord 64 k 3).testBit 15 then s.zone.tabWord 64 k 3 / 4096 % 8 else s.zone.pcpClass port.val pcp) →
    n = (frame.length + 4 + 63) / 64 →
    (∀ e ∈ s.zone.egressPorts port.val (s.zone.tabWord 64 k 2), s.zone.linkState e = 0 ∧ s.zone.flag (pSWP e) (SWP.TC_CFG_WRED_EN.nth 4 cls) = false ∧ s.zone.occ e cls + n ≤ s.zone.guar e cls) →
    Completes (.frameReceive port frame (.ends true) ticks) s fun z =>
      z.statVal (statPort port.val 0) = satU 64 (s.zone.statVal (statPort port.val 0) + 1) ∧
      z.statVal (statPort port.val 1) = satU 64 (s.zone.statVal (statPort port.val 1) + (frame.length + 4)) ∧
      (∀ e : Fin 32, e.val ∈ s.zone.egressPorts port.val (s.zone.tabWord 64 k 2) → z.voq port.val e.val cls = s.zone.voq port.val e.val cls ++ [c] ∧ z.statVal (statClass e.val cls 0) = satU 64 (s.zone.statVal (statClass e.val cls 0) + 1)) ∧
      (∀ (i e : Fin 32) (t : Fin 8), i.val ≠ port.val ∨ t.val ≠ cls ∨ e.val ∉ s.zone.egressPorts port.val (s.zone.tabWord 64 k 2) → z.voq i.val e.val t.val = s.zone.voq i.val e.val t.val) ∧
      z.sleep = { s.zone.sleep with heard := s.zone.sleep.heard.or (some s.zone.mono) } ∧
      s.zone.BankFrame [5] [.switch, .sleep, .freeNext] z) ∧
  (∀ (s : State) (port : Fin 28) (frame : List Byte) (ticks v n q : Nat), s.zone.logicRuns = true →
    s.zone.portUp port.val = true → 60 ≤ frame.length → frame.length + 4 ≤ s.zone.fld (pSWP port.val) SWP.MAX_FRAME_BYTES →
    s.zone.macsecOn port.val = false → Zone.isGptp port.val frame = false →
    s.zone.accepts port.val (Frame.tags frame).vlan = true → s.zone.cutPorts port.val = [] →
    (∀ m : Fin 4, (s.zone.tabWord 69 m.val 0).testBit 31 = false) →
    v = (match (Frame.tags frame).vlan with | some c => if c % 4096 = 0 then s.zone.fld (pSWP port.val) SWP.PORT_CFG_PVID else c % 4096 | none => s.zone.fld (pSWP port.val) SWP.PORT_CFG_PVID) →
    (((s.zone.fdbFind 1 v (Frame.src frame)).bind fun j => if (s.zone.tabWord 64 j 3).testBit 31 then some (s.zone.tabWord 64 j 3 / 65536 % 4096) else none).or ((s.zone.fdbFind 0 v (Frame.dst frame)).bind fun j => if (s.zone.tabWord 64 j 3).testBit 31 then some (s.zone.tabWord 64 j 3 / 65536 % 4096) else none)) = some n →
    (s.zone.tabWord 65 n 0).testBit 31 = true → q = s.zone.tabWord 65 n 2 % 256 →
    (s.zone.tabWord 65 n 2).testBit 15 = true ∧ port.val < 4 →
    ((Frame.tags frame).rtag = none ∨ ((s.zone.recov q).takeAny = false ∧ (Frame.tags frame).rtag = some (s.zone.recov q).seq ∧ (s.zone.recov q).seq < 65536 ∧ 1 ≤ s.zone.tabWord 68 (256 + q) 0 / 256 % 64 ∧ ((s.zone.tabWord 68 (256 + q) 0).testBit 0 = true ∨ (s.zone.recov q).history.head? = some true))) →
    Completes (.frameReceive port frame (.ends true) ticks) s fun z =>
      z.statVal (statPort port.val 0) = satU 64 (s.zone.statVal (statPort port.val 0) + 1) ∧
      z.statVal (statPort port.val 1) = satU 64 (s.zone.statVal (statPort port.val 1) + (frame.length + 4)) ∧
      z.statVal (statStream n 0) = satU 64 (s.zone.statVal (statStream n 0) + 1) ∧
      z.statVal (statRecov q 1) = satU 64 (s.zone.statVal (statRecov q 1) + 1) ∧ z.switch.voqs = s.zone.switch.voqs ∧
      z.switch.recov = s.zone.switch.recov ∧ z.sleep = { s.zone.sleep with heard := s.zone.sleep.heard.or (some s.zone.mono) } ∧
      s.zone.Frame [] [.switch, .sleep] z) ∧
  (∀ (s : State) (port : Fin 28) (frame : List Byte) (ticks v n g : Nat), s.zone.logicRuns = true →
    s.zone.portUp port.val = true → 60 ≤ frame.length → frame.length + 4 ≤ s.zone.fld (pSWP port.val) SWP.MAX_FRAME_BYTES →
    s.zone.macsecOn port.val = false → Zone.isGptp port.val frame = false →
    s.zone.accepts port.val (Frame.tags frame).vlan = true → s.zone.cutPorts port.val = [] →
    (∀ m : Fin 4, (s.zone.tabWord 69 m.val 0).testBit 31 = false) →
    v = (match (Frame.tags frame).vlan with | some c => if c % 4096 = 0 then s.zone.fld (pSWP port.val) SWP.PORT_CFG_PVID else c % 4096 | none => s.zone.fld (pSWP port.val) SWP.PORT_CFG_PVID) →
    (((s.zone.fdbFind 1 v (Frame.src frame)).bind fun j => if (s.zone.tabWord 64 j 3).testBit 31 then some (s.zone.tabWord 64 j 3 / 65536 % 4096) else none).or ((s.zone.fdbFind 0 v (Frame.dst frame)).bind fun j => if (s.zone.tabWord 64 j 3).testBit 31 then some (s.zone.tabWord 64 j 3 / 65536 % 4096) else none)) = some n →
    (s.zone.tabWord 65 n 0).testBit 31 = true → ((s.zone.tabWord 65 n 2).testBit 15 = false ∨ 4 ≤ port.val) →
    g = s.zone.tabWord 65 n 1 / 65536 % 64 →
    ((0 < s.zone.tabWord 65 n 0 % 16384 ∧ s.zone.tabWord 65 n 0 % 16384 < frame.length + 4) ∨ ((s.zone.tabWord 65 n 1).testBit 31 = true ∧ ((s.zone.sgateEval g).sgate g).shown.getLsbD 0 = false)) →
    Completes (.frameReceive port frame (.ends true) ticks) s fun z =>
      z.statVal (statPort port.val 0) = satU 64 (s.zone.statVal (statPort port.val 0) + 1) ∧
      z.statVal (statPort port.val 1) = satU 64 (s.zone.statVal (statPort port.val 1) + (frame.length + 4)) ∧
      z.statVal (statStream n 0) = satU 64 (s.zone.statVal (statStream n 0) + 1) ∧
      ((0 < s.zone.tabWord 65 n 0 % 16384 ∧ s.zone.tabWord 65 n 0 % 16384 < frame.length + 4) → z.statVal (statStream n 1) = satU 64 (s.zone.statVal (statStream n 1) + 1)) ∧
      (¬ (0 < s.zone.tabWord 65 n 0 % 16384 ∧ s.zone.tabWord 65 n 0 % 16384 < frame.length + 4) → z.statVal (statStream n 2) = satU 64 (s.zone.statVal (statStream n 2) + 1) ∧ ((s.zone.tabWord 66 (2048 + g) 0).testBit 8 = true → (z.sgate g).latched = true)) ∧
      z.switch.voqs = s.zone.switch.voqs ∧ z.sleep = { s.zone.sleep with heard := s.zone.sleep.heard.or (some s.zone.mono) } ∧
      s.zone.Frame [] [.switch, .sleep, .freeNext] z) ∧
  (∀ (s : State) (port : Fin 28) (frame : List Byte) (ticks : Nat), s.zone.logicRuns = true → s.zone.portUp port.val = true →
    (s.zone.macsecOn port.val = true ∨ s.zone.cutPorts port.val ≠ [] ∨ s.zone.flag pSW SW0.SW_STATUS_CUT_THROUGH = false) →
    Completes (.frameReceive port frame .begins ticks) s fun z =>
      s.zone.Frame [] [] z) ∧
  (∀ (s : State) (port e : Fin 28) (frame : List Byte) (ticks : Nat) (r : Route), s.zone.logicRuns = true →
    s.zone.portUp port.val = true → s.zone.macsecOn port.val = false → s.zone.cutPorts port.val = [] →
    (s.zone.resolve port.val frame s.zone.stamp s.zone.time.residence none true).1 = some r → e.val ∈ r.ports ∧ r.ports.Nodup →
    s.zone.flag pSW SW0.SW_STATUS_CUT_THROUGH = true → s.zone.scheduled e.val r.cls = true →
    s.zone.portRate e.val ≤ s.zone.portRate port.val →
    (s.zone.queueCopies e.val r.cls = []) ∧ s.zone.egress e.val = none ∧ s.zone.macsecOn e.val = false ∧ s.zone.linkState e.val = 0 →
    s.zone.eligible e.val r.cls (s.zone.frameTime e.val (r.sdu.getD 1522) false) (decide (e.val < 24)) = true →
    Completes (.frameReceive port frame .begins ticks) s fun z =>
      z.egress e.val = some ⟨port.val, r.cls, r.copy, r.copy.cells, some (s.zone.wireOf e.val r.copy), true, false⟩ ∧
      z.switch.voqs = s.zone.switch.voqs ∧ z.switch.stats = s.zone.switch.stats ∧ s.zone.BankFrame [5] [.switch, .freeNext] z) ∧
  (∀ (s : State) (port e : Fin 28) (frame : List Byte) (ticks v pcp k cls : Nat) (c : Copy) (x : EgressSt),
    s.zone.logicRuns = true → s.zone.portUp port.val = true → 60 ≤ frame.length →
    frame.length + 4 ≤ s.zone.fld (pSWP port.val) SWP.MAX_FRAME_BYTES → s.zone.macsecOn port.val = false →
    Zone.isGptp port.val frame = false → s.zone.accepts port.val (Frame.tags frame).vlan = true →
    (∀ m : Fin 4, (s.zone.tabWord 69 m.val 0).testBit 31 = false) →
    v = (match (Frame.tags frame).vlan with | some c => if c % 4096 = 0 then s.zone.fld (pSWP port.val) SWP.PORT_CFG_PVID else c % 4096 | none => s.zone.fld (pSWP port.val) SWP.PORT_CFG_PVID) →
    (((s.zone.fdbFind 1 v (Frame.src frame)).bind fun j => if (s.zone.tabWord 64 j 3).testBit 31 then some (s.zone.tabWord 64 j 3 / 65536 % 4096) else none).or ((s.zone.fdbFind 0 v (Frame.dst frame)).bind fun j => if (s.zone.tabWord 64 j 3).testBit 31 then some (s.zone.tabWord 64 j 3 / 65536 % 4096) else none)) = none →
    s.zone.fdbFind 0 v (Frame.dst frame) = some k →
    pcp = (match (Frame.tags frame).vlan with | some c => c / 8192 % 8 | none => s.zone.fld (pSWP port.val) SWP.PORT_CFG_DEFAULT_PCP) →
    c = ⟨frame, s.zone.stampBefore ticks, s.zone.time.residence - ticks, v, pcp, (Frame.tags frame).vlan.any (fun x => decide (x % 4096 ≠ 0)), (if (Frame.tags frame).vlan.any (fun x => x.testBit 12) && s.zone.flag (pSWP port.val) SWP.PORT_CFG_COLOUR_AWARE then 1 else 0), none, none, s.zone.tabWord 64 k 3 % 1024, none, false, false⟩ →
    cls = (if (s.zone.tabWord 64 k 3).testBit 15 then s.zone.tabWord 64 k 3 / 4096 % 8 else s.zone.pcpClass port.val pcp) →
    s.zone.egressPorts port.val (s.zone.tabWord 64 k 2) = [e.val] → s.zone.cutPorts port.val = [e.val] →
    s.zone.egress e.val = some x → Completes (.frameReceive port frame (.ends true) ticks) s fun z =>
      z.statVal (statPort port.val 0) = satU 64 (s.zone.statVal (statPort port.val 0) + 1) ∧
      z.statVal (statPort port.val 1) = satU 64 (s.zone.statVal (statPort port.val 1) + (frame.length + 4)) ∧
      z.egress e.val = some { x with copy := c, fetched := c.cells, sending := some (s.zone.wireOf e.val c), live := false } ∧
      z.switch.voqs = s.zone.switch.voqs ∧ z.sleep = { s.zone.sleep with heard := s.zone.sleep.heard.or (some s.zone.mono) } ∧
      s.zone.Frame [] [.switch, .sleep] z) ∧
  (∀ (s : State) (i e : Fin 32) (t : Fin 8) (x : Copy) (r : List Copy), s.zone.logicRuns = true →
    s.zone.voq i.val e.val t.val = x :: r → x.waiting = true →
    Zone.admits (s.zone.bufFree + x.cells) (s.zone.guar e.val t.val) (s.zone.fld (pSWP e.val) (SWP.TC_CFG_ALPHA.nth 4 t.val)) (s.zone.occ e.val t.val) x.cells = true →
    Completes (.losslessAdmit i e t) s fun z =>
      z.voq i.val e.val t.val = { x with waiting := false } :: r ∧
      (∀ (i' e' : Fin 32) (t' : Fin 8), (i', e', t') ≠ (i, e, t) → z.voq i'.val e'.val t'.val = s.zone.voq i'.val e'.val t'.val) ∧
      z.switch.egr = s.zone.switch.egr ∧ z.switch.stats = s.zone.switch.stats ∧ s.zone.BankFrame [5] [.switch, .freeNext] z) ∧
  (∀ (s : State) (i e : Fin 32) (t : Fin 8),
    (∀ x ∈ (s.zone.voq i.val e.val t.val).head?, x.waiting = false ∨ Zone.admits (s.zone.bufFree + x.cells) (s.zone.guar e.val t.val) (s.zone.fld (pSWP e.val) (SWP.TC_CFG_ALPHA.nth 4 t.val)) (s.zone.occ e.val t.val) x.cells = false) →
    Completes (.losslessAdmit i e t) s fun z =>
      s.zone.Frame [] [] z) ∧
  (∀ (s : State) (plca : BitVec 4) (ecc : List (Fin 32 × EccResult)) (e : Fin 32) (x : EgressSt) (k : Conn),
    s.zone.logicRuns = true → e ≠ 30 → s.zone.egress e.val = some x → s.zone.conn e.val = some k → x.ingress < 32 ∧ x.cls < 8 →
    Completes (.crossbarSchedule plca ecc) s fun z =>
      ((ecc.find? fun y => y.1 == e).map (·.2) = some .double → z.egress e.val = none ∧ z.conn e.val = none ∧ (x.fetched < x.copy.cells → z.voq x.ingress e.val x.cls = (s.zone.voq x.ingress e.val x.cls).tail) ∧ (⟨Src.eccOther, 0, false, s.zone.mono, s.zone.ts64⟩ : Report) ∈ z.safety.reports) ∧
      ((ecc.find? fun y => y.1 == e).map (·.2) ≠ some .double ∧ x.fetched + 1 < x.copy.cells → z.egress e.val = some { x with fetched := x.fetched + 1 } ∧ z.conn e.val = (if k.left ≤ 1 then none else some { k with left := k.left - 1 }) ∧ z.voq x.ingress e.val x.cls = s.zone.voq x.ingress e.val x.cls) ∧
      ((ecc.find? fun y => y.1 == e).map (·.2) ≠ some .double ∧ x.copy.cells ≤ x.fetched + 1 → z.egress e.val = some { x with fetched := x.fetched + 1 } ∧ z.conn e.val = none ∧ z.voq x.ingress e.val x.cls = (s.zone.voq x.ingress e.val x.cls).tail) ∧
      (ecc = [] → z.safety = s.zone.safety) ∧ s.zone.BankFrame [5] [.switch, .freeNext, .safety] z) ∧
  (∀ (s : State) (plca : BitVec 4) (e i : Fin 32) (t : Fin 8) (c : Copy) (l : List Copy) (n : Nat), s.zone.logicRuns = true →
    s.zone.switch.dirty = false → s.zone.ageFetched plca = s.zone → e ≠ 30 →
    s.zone.egress e.val = none ∧ s.zone.conn e.val = none ∧ s.zone.linkState e.val = 0 →
    ((∀ a : Fin 32, a ≠ e → s.zone.xbarRequest plca a.val = none) ∨ (s.zone.flag pSW SW0.SW_STATUS_PLAN = false ∧ e.val = s.zone.swActive.getD (s.zone.switch.ePtr % s.zone.swActive.length) 0)) →
    (∀ t' : Fin 8, t < t' → ∀ j ∈ s.zone.swActive, s.zone.readyHead plca j e.val t'.val = false) →
    (Zone.fromPtr ((s.zone.swActive.filter fun j => s.zone.readyHead plca j e.val t.val).filter s.zone.ingressFree) (SMap.get (fun _ => 0) (if s.zone.flag pSW SW0.SW_STATUS_PLAN then s.zone.switch.grantPtr else s.zone.switch.inPtr) e.val)).head? = some i.val →
    e.val ∈ s.zone.swActive → s.zone.voq i.val e.val t.val = c :: l → n = s.zone.fld pSW SW0.SW_STATUS_GRANT_CELLS →
    Completes (.crossbarSchedule plca []) s fun z =>
      z.egress e.val = some ⟨i.val, t.val, c, 1, none, false, false⟩ ∧
      (z.conn e.val = if c.cells ≤ 1 ∨ n ≤ 1 then none else some ⟨i.val, n - 1⟩) ∧
      (z.voq i.val e.val t.val = if c.cells ≤ 1 then l else c :: l) ∧
      (s.zone.flag pSW SW0.SW_STATUS_PLAN = true → SMap.get (fun _ => 0) z.switch.grantPtr e.val = (i.val + 1) % 32 ∧ SMap.get (fun _ => 0) z.switch.acceptPtr i.val = (e.val + 1) % 32) ∧
      (s.zone.flag pSW SW0.SW_STATUS_PLAN = false → SMap.get (fun _ => 0) z.switch.inPtr e.val = Zone.afterIn s.zone.swActive i.val ∧ z.switch.ePtr = (s.zone.switch.ePtr + 1) % s.zone.swActive.length) ∧
      s.zone.BankFrame [5] [.switch, .freeNext] z) ∧
  (∀ (s : State) (port : Fin 28) (plca : Bool) (skew : Fin 51) (x : EgressSt), s.zone.logicRuns = true →
    s.zone.egress port.val = some x → x.sending = none → 0 < x.fetched → s.zone.linkState port.val = 0 →
    s.zone.gateFits port.val x.cls (s.zone.copyTime port.val x.copy) = true →
    (s.zone.flag (pSWP port.val) (SWP.TC_CFG_CBS_EN.nth 4 x.cls) = true → 0 ≤ s.zone.creditNow port.val x.cls) → x.cls < 8 →
    (port.val < 24 ∨ plca = true) → Completes (.frameTransmitStart port plca skew) s fun z =>
      (s.zone.macsecOn port.val = false ∨ s.zone.secBypass port.val (s.zone.wireOf port.val x.copy) = true → z.egress port.val = some { x with sending := some (s.zone.wireOf port.val x.copy) }) ∧
      (s.zone.macsecOn port.val = true ∧ s.zone.secBypass port.val (s.zone.wireOf port.val x.copy) = false ∧ (∀ n : Fin 4, s.zone.secA port.val n.val = none) → z.egress port.val = none) ∧
      (x.copy.mirror = true ∨ ∀ m : Fin 4, (s.zone.tabWord 69 m.val 0).testBit 31 = false → z.switch.voqs = s.zone.switch.voqs) ∧
      (x.copy.tsTag = none → z.tsq = s.zone.tsq) ∧
      (x.copy.tsTag.isSome = true ∧ (s.zone.tsQueue port.val).length < 16 ∧ s.zone.macsecOn port.val = false → (z.tsQueue port.val).length = (s.zone.tsQueue port.val).length + 1 ∧ (z.tsQueue port.val).getLast?.map (fun y => some y.tag) = some x.copy.tsTag) ∧
      (∀ e : Fin 32, e.val ≠ port.val → z.egress e.val = s.zone.egress e.val) ∧
      s.zone.BankFrame [4, 5, 8] [.switch, .freeNext, .tsq] z) ∧
  (∀ (s : State) (port : Fin 28) (plca : Bool) (skew : Fin 51), s.zone.logicRuns = true →
    (∀ x ∈ s.zone.egress port.val, x.cls < 8 ∧ (x.sending.isSome = true ∨ x.fetched = 0 ∨ s.zone.linkState port.val ≠ 0 ∨ s.zone.gateFits port.val x.cls (s.zone.copyTime port.val x.copy) = false ∨ (s.zone.flag (pSWP port.val) (SWP.TC_CFG_CBS_EN.nth 4 x.cls) = true ∧ s.zone.creditNow port.val x.cls < 0) ∨ (24 ≤ port.val ∧ plca = false))) →
    Completes (.frameTransmitStart port plca skew) s fun z =>
      z.switch.egr = s.zone.switch.egr ∧ z.switch.voqs = s.zone.switch.voqs ∧ z.switch.stats = s.zone.switch.stats ∧
      s.zone.BankFrame [5] [.switch, .freeNext] z) ∧
  (∀ (s : State) (port : Fin 28) (x : EgressSt), s.zone.logicRuns = true → s.zone.egress port.val = some x →
    x.sending.isSome = true → x.copy.cells ≤ x.fetched → x.live = false → Completes (.frameTransmitEnd port) s fun z =>
      z.egress port.val = none ∧
      z.statVal (statClass port.val x.cls 1) = satU 64 (s.zone.statVal (statClass port.val x.cls 1) + 1) ∧
      (x.cls < 8 → z.statVal (statPort port.val 8) = satU 64 (s.zone.statVal (statPort port.val 8) + 1) ∧ z.statVal (statPort port.val 9) = satU 64 (s.zone.statVal (statPort port.val 9) + ((s.zone.wireOf port.val x.copy).length + 4))) ∧
      z.switch.voqs = s.zone.switch.voqs ∧ s.zone.BankFrame [5] [.switch, .freeNext] z) ∧
  (∀ (s : State) (port : Fin 28), (∀ x ∈ s.zone.egress port.val, x.sending = none ∨ x.fetched < x.copy.cells ∨ x.live = true) →
    Completes (.frameTransmitEnd port) s fun z =>
      s.zone.Frame [] [] z) ∧
  (∀ (s : State) (i e : Fin 32) (t : Fin 8) (busy : Bool), s.zone.logicRuns = true →
    busy = (s.zone.egress e.val).any (fun x => decide (x.ingress = i.val ∧ x.cls = t.val ∧ x.fetched < x.copy.cells)) →
    Completes (.ageCheck) s fun z =>
      (z.voq i.val e.val t.val = if busy then s.zone.voq i.val e.val t.val else (s.zone.voq i.val e.val t.val).dropWhile fun c => decide (s.zone.fld (pSWP e.val) (SWP.TC_AGE_AGE.nth 4 t.val) * 2500 + c.stamp < s.zone.time.residence)) ∧
      (s.zone.statVal (statClass e.val t.val 6) < 2 ^ 64 → z.statVal (statClass e.val t.val 6) = satU 64 (s.zone.statVal (statClass e.val t.val 6) + ((List.range 32).map fun j => (s.zone.voq j e.val t.val).length - (z.voq j e.val t.val).length).sum)) ∧
      z.switch.egr = s.zone.switch.egr ∧
      (∀ p : Fin 28, ∀ u ∈ SMap.get (fun _ => none) s.zone.switch.holdEnd p.val, z.fld (pSWP p.val) SWP.PORT_STATE_HOLD_LEFT = ((u - s.zone.mono + 2499) / 2500) % 65536) ∧
      s.zone.BankFrame [5] [.switch, .freeNext] z) ∧
  (∀ (s : State) (port : Fin 32) (off : BitVec 12) (o k : Nat), s.zone.logicRuns = true → o = off.toNat / 4 * 4 →
    Zone.isCounter port.val o = true → k = port.val * 4096 + o / 8 * 8 → Completes (.counterRead port off) s fun z =>
      (o % 8 = 0 → z.resp = ⟨0, s.zone.statVal k % 2 ^ 32⟩ ∧ SMap.get (fun _ => none) z.switch.latch k = some (BitVec.ofNat 32 (s.zone.statVal k / 2 ^ 32))) ∧
      (o % 8 = 4 → z.resp = ⟨0, ((SMap.get (fun _ => none) s.zone.switch.latch k).map BitVec.toNat).getD (s.zone.statVal k / 2 ^ 32)⟩ ∧ SMap.get (fun _ => none) z.switch.latch k = none) ∧
      (∀ a : Nat, a ≠ k → SMap.get (fun _ => none) z.switch.latch a = SMap.get (fun _ => none) s.zone.switch.latch a) ∧
      { z.switch with latch := s.zone.switch.latch } = s.zone.switch ∧ s.zone.Frame [] [.switch, .resp] z) ∧
  (∀ (s : State) (port : Fin 32) (off : BitVec 12), Zone.isCounter port.val (off.toNat / 4 * 4) = false →
    Completes (.counterRead port off) s fun z =>
      s.zone.Frame [] [] z) ∧
  (∀ (s : State) (q : Fin 256), s.zone.logicRuns = true → (s.zone.recov q.val).takeAny = false →
    (s.zone.recov q.val).at_ + s.zone.tabWord 68 (256 + q.val) 0 / 65536 % 1024 * 250000 ≤ s.zone.mono →
    Completes (.frerResetTimeout q) s fun z =>
      z.recov q.val = RecovSt.init ∧ z.statVal (statRecov q.val 5) = satU 64 (s.zone.statVal (statRecov q.val 5) + 1) ∧
      (∀ a : Nat, a ≠ q.val → z.recov a = s.zone.recov a) ∧
      z.switch.voqs = s.zone.switch.voqs ∧ z.switch.egr = s.zone.switch.egr ∧ s.zone.Frame [] [.switch] z) ∧
  (∀ (s : State) (q : Fin 256),
    ((s.zone.recov q.val).takeAny = true ∨ s.zone.mono < (s.zone.recov q.val).at_ + s.zone.tabWord 68 (256 + q.val) 0 / 65536 % 1024 * 250000) →
    Completes (.frerResetTimeout q) s fun z =>
      s.zone.Frame [] [] z)

/-- R321, R330, R331, R334, R348, R349, R350, R356, R361, R362, R373, R374: a gate change shows the index and states of the
operating list, all open without GATES_EN, the scheduled classes closed with the clock stopped, and kept states until the boundary
after a step; a commit whose boundary has come takes over. A commit is rejected by the rules of R349 and else waits for the first
boundary 1 us on. Stream gates do the same, one without a list with a free state (log entry 2). A link that goes clears its PHY,
flushes the scheduled classes and starts the hold, without one flushes all; one that comes where the module lets it shows its
speed and role and ends the hold, without a flush. A hold ends with the 10 us evaluation it falls in (log entry 97) and flushes;
else nothing. WRITE, READ and CLEAR of a window by the keeper that holds the watch store, show and remove the entry and complete
the ticket, or fail with their value; another keeper's has no effect. SQI and associations are shown; a key that does not fit is
rejected. -/
def Obligations.GatesLinksAndTablesOfTheSwitch : Prop :=
  (∀ (s : State) (port : Fin 32), s.zone.logicRuns = true →
    (s.zone.gate port.val).pending.all (fun y => decide (s.zone.nowNs < y.1)) = true →
    Completes (.gateEntryChange port) s fun z =>
      (z.gate port.val).oper = (s.zone.gate port.val).oper ∧ (z.gate port.val).pending = (s.zone.gate port.val).pending ∧
      z.fld (pSWP port.val) SWP.GATE_CTRL_OPER_BANK = s.zone.fld (pSWP port.val) SWP.GATE_CTRL_OPER_BANK ∧ z.flag (pSWP port.val) SWP.PORT_EVENT_GATE_APPLIED = s.zone.flag (pSWP port.val) SWP.PORT_EVENT_GATE_APPLIED ∧
      (s.zone.time.stopped = true → ∀ t : Fin 8, z.fldBit (pSWP port.val) SWP.GATE_STATUS_STATES t.val = !s.zone.scheduled port.val t.val) ∧
      (s.zone.time.stopped = false ∧ s.zone.flag (pSWP port.val) SWP.GATE_CTRL_GATES_EN = false → z.fld (pSWP port.val) SWP.GATE_STATUS_STATES = 255) ∧
      (s.zone.time.stopped = false ∧ s.zone.flag (pSWP port.val) SWP.GATE_CTRL_GATES_EN = true ∧ (z.gate port.val).held = none → z.fld (pSWP port.val) SWP.GATE_STATUS_INDEX = (Zone.gateAt (z.listParts port.val (z.operBank port.val) (z.gate port.val).oper) (Zone.gatePos (z.gate port.val).oper.cycle (z.gate port.val).oper.offset s.zone.nowNs)).1 % 256 ∧ z.fld (pSWP port.val) SWP.GATE_STATUS_STATES = (Zone.gateAt (z.listParts port.val (z.operBank port.val) (z.gate port.val).oper) (Zone.gatePos (z.gate port.val).oper.cycle (z.gate port.val).oper.offset s.zone.nowNs)).2 % 256) ∧
      (∀ y ∈ (z.gate port.val).held, s.zone.time.stopped = false ∧ s.zone.flag (pSWP port.val) SWP.GATE_CTRL_GATES_EN = true → z.fld (pSWP port.val) SWP.GATE_STATUS_STATES = y.2 % 256) ∧
      ((z.gate port.val).held = (s.zone.gate port.val).held.bind fun y => if y.1 ≤ s.zone.nowNs then none else some y) ∧
      z.switch.voqs = s.zone.switch.voqs ∧ z.switch.egr = s.zone.switch.egr ∧ z.switch.stats = s.zone.switch.stats ∧
      s.zone.BankFrame [5] [.switch, .freeNext] z) ∧
  (∀ (s : State) (port : Fin 32) (at_ : Nat) (l : GateList), s.zone.logicRuns = true →
    (s.zone.gate port.val).pending = some (at_, l) → at_ ≤ s.zone.nowNs → Completes (.gateEntryChange port) s fun z =>
      (z.gate port.val).oper = l ∧ (z.gate port.val).pending = none ∧
      z.fld (pSWP port.val) SWP.GATE_CTRL_OPER_BANK = 1 - s.zone.fld (pSWP port.val) SWP.GATE_CTRL_OPER_BANK ∧
      z.flag (pSWP port.val) SWP.PORT_EVENT_GATE_APPLIED = true ∧ z.flag (pSWP port.val) SWP.GATE_STATUS_PENDING = false ∧
      (s.zone.time.stopped = true → ∀ t : Fin 8, z.fldBit (pSWP port.val) SWP.GATE_STATUS_STATES t.val = !s.zone.scheduled port.val t.val) ∧
      (s.zone.time.stopped = false ∧ s.zone.flag (pSWP port.val) SWP.GATE_CTRL_GATES_EN = false → z.fld (pSWP port.val) SWP.GATE_STATUS_STATES = 255) ∧
      (s.zone.time.stopped = false ∧ s.zone.flag (pSWP port.val) SWP.GATE_CTRL_GATES_EN = true ∧ (z.gate port.val).held = none → z.fld (pSWP port.val) SWP.GATE_STATUS_INDEX = (Zone.gateAt (z.listParts port.val (z.operBank port.val) (z.gate port.val).oper) (Zone.gatePos (z.gate port.val).oper.cycle (z.gate port.val).oper.offset s.zone.nowNs)).1 % 256 ∧ z.fld (pSWP port.val) SWP.GATE_STATUS_STATES = (Zone.gateAt (z.listParts port.val (z.operBank port.val) (z.gate port.val).oper) (Zone.gatePos (z.gate port.val).oper.cycle (z.gate port.val).oper.offset s.zone.nowNs)).2 % 256) ∧
      (∀ y ∈ (z.gate port.val).held, s.zone.time.stopped = false ∧ s.zone.flag (pSWP port.val) SWP.GATE_CTRL_GATES_EN = true → z.fld (pSWP port.val) SWP.GATE_STATUS_STATES = y.2 % 256) ∧
      ((z.gate port.val).held = (s.zone.gate port.val).held.bind fun y => if y.1 ≤ s.zone.nowNs then none else some y) ∧
      z.switch.voqs = s.zone.switch.voqs ∧ z.switch.egr = s.zone.switch.egr ∧ z.switch.stats = s.zone.switch.stats ∧
      s.zone.BankFrame [5] [.switch, .freeNext] z) ∧
  (∀ (s : State) (port : Fin 32), s.zone.logicRuns = true →
    ((s.zone.gateEval port.val).fld (pSWP port.val) SWP.GATE_CTRL_STAGED_COUNT = 0 ∨ 128 < (s.zone.gateEval port.val).fld (pSWP port.val) SWP.GATE_CTRL_STAGED_COUNT ∨ (s.zone.gateEval port.val).fld (pSWP port.val) SWP.GCL_CYCLE_CYCLE < 10000 ∨ 1000000000 < (s.zone.gateEval port.val).fld (pSWP port.val) SWP.GCL_CYCLE_CYCLE ∨ (s.zone.gateEval port.val).fld (pSWP port.val) SWP.GCL_CYCLE_CYCLE ≤ (s.zone.gateEval port.val).fld (pSWP port.val) SWP.GCL_OFFSET_OFFSET ∨ ((List.range ((s.zone.gateEval port.val).fld (pSWP port.val) SWP.GATE_CTRL_STAGED_COUNT)).any fun j => decide (((s.zone.gateEval port.val).bankEntry port.val (1 - (s.zone.gateEval port.val).operBank port.val) j).2 < 100)) = true) →
    Completes (.gateCommit port) s fun z =>
      z.flag (pSWP port.val) SWP.PORT_EVENT_GATE_REJECT = true ∧ z.gate port.val = (s.zone.gateEval port.val).gate port.val ∧
      z.switch = (s.zone.gateEval port.val).switch ∧ s.zone.BankFrame [5] [.switch, .freeNext] z) ∧
  (∀ (s : State) (port : Fin 32) (l : GateList), s.zone.logicRuns = true →
    l = ⟨(s.zone.gateEval port.val).fld (pSWP port.val) SWP.GATE_CTRL_STAGED_COUNT, (s.zone.gateEval port.val).fld (pSWP port.val) SWP.GCL_CYCLE_CYCLE, (s.zone.gateEval port.val).fld (pSWP port.val) SWP.GCL_OFFSET_OFFSET⟩ →
    1 ≤ l.count → l.count ≤ 128 → 10000 ≤ l.cycle → l.cycle ≤ 1000000000 → l.offset < l.cycle →
    ((List.range l.count).all fun j => decide (100 ≤ ((s.zone.gateEval port.val).bankEntry port.val (1 - (s.zone.gateEval port.val).operBank port.val) j).2)) = true →
    Completes (.gateCommit port) s fun z =>
      z.gate port.val = { (s.zone.gateEval port.val).gate port.val with pending := some (Zone.gateBoundary l.cycle l.offset (s.zone.nowNs + 1000), l) } ∧
      z.flag (pSWP port.val) SWP.GATE_STATUS_PENDING = true ∧
      z.flag (pSWP port.val) SWP.PORT_EVENT_GATE_REJECT = (s.zone.gateEval port.val).flag (pSWP port.val) SWP.PORT_EVENT_GATE_REJECT ∧
      s.zone.BankFrame [5] [.switch, .freeNext] z) ∧
  (∀ (s : State) (g : Fin 64), s.zone.logicRuns = true →
    (s.zone.sgate g.val).pending.all (fun y => decide (s.zone.nowNs < y.1)) = true → Completes (.streamGateChange g) s fun z =>
      (z.sgate g.val) = { (s.zone.sgate g.val) with shown := (z.sgate g.val).shown } ∧
      ((s.zone.sgate g.val).entries ≠ [] → (z.sgate g.val).shown = (if (s.zone.sgate g.val).latched then ((s.zone.sgate g.val).entries.getD (Zone.gateAt (Zone.gateParts (z.sgate g.val).cycle 0 ((z.sgate g.val).entries.mapIdx fun k e => (k, e.2.toNat))) (Zone.gatePos (z.sgate g.val).cycle (z.sgate g.val).offset s.zone.nowNs)).2 (0, 0)).1 &&& 0xFFFFFFFE#32 else ((s.zone.sgate g.val).entries.getD (Zone.gateAt (Zone.gateParts (z.sgate g.val).cycle 0 ((z.sgate g.val).entries.mapIdx fun k e => (k, e.2.toNat))) (Zone.gatePos (z.sgate g.val).cycle (z.sgate g.val).offset s.zone.nowNs)).2 (0, 0)).1)) ∧
      ((s.zone.sgate g.val).entries = [] → (z.sgate g.val).shown = (if (s.zone.sgate g.val).latched then 0 else s.zone.fresh.1 &&& 1)) ∧
      { z.switch with sgates := s.zone.switch.sgates } = s.zone.switch ∧ s.zone.Frame [] [.switch, .freeNext] z) ∧
  (∀ (s : State) (g : Fin 64) (at_ : Nat) (l : GateList), s.zone.logicRuns = true →
    (s.zone.sgate g.val).pending = some (at_, l) → at_ ≤ s.zone.nowNs → 1 ≤ l.count → Completes (.streamGateChange g) s fun z =>
      (z.sgate g.val).entries = s.zone.sgateStaged g.val l.count ∧ (z.sgate g.val).cycle = l.cycle ∧ (z.sgate g.val).offset = l.offset ∧ (z.sgate g.val).pending = none ∧ (z.sgate g.val).latched = (s.zone.sgate g.val).latched ∧
      (∀ (j : Fin 32), ∀ e ∈ (s.zone.sgate g.val).entries[j.val]?, z.tabEntry 66 (g.val * 32 + j.val) = [e.1, e.2]) ∧
      (z.sgate g.val).shown = (if (s.zone.sgate g.val).latched then ((z.sgate g.val).entries.getD (Zone.gateAt (Zone.gateParts (z.sgate g.val).cycle 0 ((z.sgate g.val).entries.mapIdx fun k e => (k, e.2.toNat))) (Zone.gatePos (z.sgate g.val).cycle (z.sgate g.val).offset s.zone.nowNs)).2 (0, 0)).1 &&& 0xFFFFFFFE#32 else ((z.sgate g.val).entries.getD (Zone.gateAt (Zone.gateParts (z.sgate g.val).cycle 0 ((z.sgate g.val).entries.mapIdx fun k e => (k, e.2.toNat))) (Zone.gatePos (z.sgate g.val).cycle (z.sgate g.val).offset s.zone.nowNs)).2 (0, 0)).1) ∧
      { z.switch with sgates := s.zone.switch.sgates, tables := s.zone.switch.tables } = s.zone.switch ∧
      s.zone.Frame [] [.switch, .freeNext] z) ∧
  (∀ (s : State) (port : Fin 28), s.zone.flag (pPORT port.val) PORT.PHY_STATUS_LINK = false →
    Completes (.linkDown port) s fun z =>
      s.zone.Frame [] [] z) ∧
  (∀ (s : State) (port : Fin 28) (hold : Nat), s.zone.logicRuns = true → port.val < 24 →
    s.zone.flag (pPORT port.val) PORT.PHY_STATUS_LINK = true → hold = s.zone.fld (pSWP port.val) SWP.LINK_HOLD_HOLD →
    Completes (.linkDown port) s fun z =>
      z.flag (pPORT port.val) PORT.PHY_STATUS_LINK = false ∧
      z.fld (pPORT port.val) PORT.PHY_STATUS_SPEED_NOW = 0 ∧ z.fld (pPORT port.val) PORT.PHY_STATUS_ROLE_NOW = 0 ∧ z.flag (pPORT port.val) PORT.PHY_STATUS_LPI = false ∧
      z.flag (pPORT port.val) PORT.PHY_EVENT_LINK_DOWN = true ∧
      z.fld (pPORT port.val) PORT.PHY_COUNTS_LINK_DOWNS = min (s.zone.fld (pPORT port.val) PORT.PHY_COUNTS_LINK_DOWNS + 1) 65535 ∧
      z.time.ringBroken = (s.zone.time.ringBroken || decide (port.val = s.zone.fld pRING RING.RING_CTRL_WEST ∨ port.val = s.zone.fld pRING RING.RING_CTRL_EAST)) ∧
      (s.zone.linkState port.val = 0 → z.linkState port.val = (if hold = 0 then 2 else 1) ∧ z.flag (pSWP port.val) SWP.PORT_EVENT_LINK_DOWN = true ∧ (hold ≠ 0 → z.fld (pSWP port.val) SWP.PORT_STATE_HOLD_LEFT = hold ∧ SMap.get (fun _ => none) z.switch.holdEnd port.val = some (s.zone.mono + hold * 2500))) ∧
      (∀ (i : Fin 32) (t : Fin 8), s.zone.linkState port.val = 0 ∧ (s.zone.scheduled port.val t.val = true ∨ hold = 0) → z.voq i.val port.val t.val = []) ∧
      (∀ (i : Fin 32) (t : Fin 8), s.zone.linkState port.val ≠ 0 ∨ (s.zone.scheduled port.val t.val = false ∧ hold ≠ 0) → z.voq i.val port.val t.val = s.zone.voq i.val port.val t.val) ∧
      (∀ t : Fin 8, s.zone.linkState port.val = 0 ∧ s.zone.scheduled port.val t.val = true ∧ s.zone.egress port.val = none → s.zone.statVal (statClass port.val t.val 7) < 2 ^ 64 → z.statVal (statClass port.val t.val 7) = satU 64 (s.zone.statVal (statClass port.val t.val 7) + (s.zone.queueCopies port.val t.val).length)) ∧
      (s.zone.linkState port.val ≠ 0 → z.switch = s.zone.switch) ∧ s.zone.BankFrame [4, 5] [.switch, .freeNext, .time] z) ∧
  (∀ (s : State) (port : Fin 28) (speed : Fin 3) (leader eee : Bool),
    (s.zone.logicRuns = false ∨ 3 ≤ s.zone.sleep.phase ∨ (s.zone.mode = Mode.test ∧ 4 ≤ port.val) ∨ SMap.get (fun _ => 0) s.zone.fuses.lc 0 < 2 ∨ 2 ≤ SMap.get (fun _ => 0) s.zone.fuses.lc 3 ∨ s.zone.flag (pPORT port.val) PORT.PHY_STATUS_LINK = true ∨ 24 ≤ port.val) →
    Completes (.linkUp port speed leader eee) s fun z =>
      s.zone.Frame [] [] z) ∧
  (∀ (s : State) (port : Fin 28) (speed : Fin 3) (leader eee : Bool) (role : Nat), s.zone.logicRuns = true → port.val < 24 →
    (s.zone.mode = Mode.test → port.val < 4) → s.zone.sleep.phase < 3 → 2 ≤ SMap.get (fun _ => 0) s.zone.fuses.lc 0 →
    SMap.get (fun _ => 0) s.zone.fuses.lc 3 < 2 → s.zone.flag (pPORT port.val) PORT.PHY_STATUS_LINK = false →
    (s.zone.linkState port.val ≠ 0 ∨ s.zone.flag (pSWP port.val) SWP.PORT_CFG_ENABLE = true) →
    role = s.zone.fld (pPORT port.val) PORT.PHY_CFG_ROLE → Completes (.linkUp port speed leader eee) s fun z =>
      z.flag (pPORT port.val) PORT.PHY_STATUS_LINK = true ∧
      z.fld (pPORT port.val) PORT.PHY_STATUS_SPEED_NOW = (if port.val < 4 then (if s.zone.fld (pPORT port.val) PORT.PHY_CFG_SPEED = 0 then 4 + speed.val else 3 + s.zone.fld (pPORT port.val) PORT.PHY_CFG_SPEED) else if port.val < 16 then 3 else 2) ∧
      z.fld (pPORT port.val) PORT.PHY_STATUS_ROLE_NOW = (if role = 1 then 1 else if role = 2 then 2 else if 16 ≤ port.val then 2 else if leader then 1 else 2) ∧
      z.flag (pPORT port.val) PORT.PHY_STATUS_LPI = (decide (port.val < 16) && eee && s.zone.flag (pPORT port.val) PORT.PHY_CFG_EEE_PERMIT && s.zone.figures.lowPowerIdle) ∧
      z.flag (pPORT port.val) PORT.PHY_EVENT_LINK_UP = true ∧
      (s.zone.flag (pSWP port.val) SWP.PORT_CFG_ENABLE = true → z.linkState port.val = 0 ∧ z.portUp port.val = true) ∧
      (s.zone.flag (pSWP port.val) SWP.PORT_CFG_ENABLE = true ∧ s.zone.linkState port.val ≠ 0 → z.flag (pSWP port.val) SWP.PORT_EVENT_LINK_UP = true ∧ SMap.get (fun _ => none) z.switch.holdEnd port.val = none ∧ z.fld (pSWP port.val) SWP.PORT_STATE_HOLD_LEFT = 0) ∧
      (s.zone.flag (pSWP port.val) SWP.PORT_CFG_ENABLE = false → z.linkState port.val = s.zone.linkState port.val) ∧
      z.switch.voqs = s.zone.switch.voqs ∧ z.switch.egr = s.zone.switch.egr ∧ z.switch.stats = s.zone.switch.stats ∧
      s.zone.BankFrame [4, 5] [.switch] z) ∧
  (∀ (s : State) (port : Fin 28) (t : Nat), s.zone.logicRuns = true →
    SMap.get (fun _ => none) s.zone.switch.holdEnd port.val = some t → t / 2500 < s.zone.mono / 2500 →
    s.zone.linkState port.val = 1 → Completes (.holdExpiry port) s fun z =>
      z.linkState port.val = 2 ∧ z.fld (pSWP port.val) SWP.PORT_STATE_HOLD_LEFT = 0 ∧
      z.flag (pSWP port.val) SWP.PORT_EVENT_HOLD_EXPIRED = true ∧ SMap.get (fun _ => none) z.switch.holdEnd port.val = none ∧
      (∀ (i : Fin 32) (c : Fin 8), z.voq i.val port.val c.val = []) ∧
      (∀ (i e : Fin 32) (c : Fin 8), e.val ≠ port.val → z.voq i.val e.val c.val = s.zone.voq i.val e.val c.val) ∧
      (∀ c : Fin 8, s.zone.egress port.val = none → s.zone.statVal (statClass port.val c.val 7) < 2 ^ 64 → z.statVal (statClass port.val c.val 7) = satU 64 (s.zone.statVal (statClass port.val c.val 7) + (s.zone.queueCopies port.val c.val).length)) ∧
      s.zone.BankFrame [5] [.switch, .freeNext] z) ∧
  (∀ (s : State) (port : Fin 28),
    (s.zone.linkState port.val ≠ 1 ∨ ∀ t ∈ SMap.get (fun _ => none) s.zone.switch.holdEnd port.val, s.zone.mono / 2500 ≤ t / 2500) →
    Completes (.holdExpiry port) s fun z =>
      s.zone.Frame [] [] z) ∧
  (∀ (s : State) (o : Fin 3) (w : Fin 7) (k : Keeper) (n : Fin 128) (index : Word), s.zone.role k ≠ 3 →
    Completes ((if o.val = 0 then .tableWrite w k n index else if o.val = 1 then .tableRead w k n index else .tableClear w k n index)) s fun z =>
      s.zone.Frame [] [] z) ∧
  (∀ (s : State) (w : Fin 7) (k : Keeper) (n : Fin 128) (index : Word) (st v : Nat), s.zone.logicRuns = true →
    s.zone.role k = 3 →
    ((w ≠ 0 ∧ s.zone.entryBad (64 + w.val) index.toNat (s.zone.winData (64 + w.val)) = true ∧ v = 2) ∨ (w = 0 ∧ s.zone.entryBad 64 0 (s.zone.winData 64) = true ∧ v = 2) ∨ (w = 0 ∧ s.zone.entryBad 64 0 (s.zone.winData 64) = false ∧ v = 1 ∧ s.zone.fdbPlace (Zone.fdbKey ((s.zone.winData 64).getD 0 0).toNat ((s.zone.winData 64).getD 1 0).toNat).1 (Zone.fdbKey ((s.zone.winData 64).getD 0 0).toNat ((s.zone.winData 64).getD 1 0).toNat).2.1 (Zone.fdbKey ((s.zone.winData 64).getD 0 0).toNat ((s.zone.winData 64).getD 1 0).toNat).2.2 = none)) →
    st = 1 → Completes (.tableWrite w k n index) s fun z =>
      ((s.zone.ticket k n.val).state = .issued → (z.ticket k n.val).state = .done ∧ (z.ticket k n.val).status = st ∧ (z.ticket k n.val).value = v % 65536) ∧
      ((s.zone.ticket k n.val).state ≠ .issued → z.tickets = s.zone.tickets ∧ z.fld (pKEEPER k) KEEPER.TICKET_EVENTS_LATE = min (s.zone.fld (pKEEPER k) KEEPER.TICKET_EVENTS_LATE + 1) 65535) ∧
      s.zone.Frame [pKEEPER k + KEEPER.TICKETS_IN_USE.off, pKEEPER k + KEEPER.TICKET_EVENTS_LATE.off] [.tickets] z) ∧
  (∀ (s : State) (w : Fin 7) (k : Keeper) (n : Fin 128) (index : Word) (st v : Nat), s.zone.logicRuns = true →
    s.zone.role k = 3 → w ≠ 0 → s.zone.entryBad (64 + w.val) index.toNat (s.zone.winData (64 + w.val)) = false → st = 0 →
    v = index.toNat → Completes (.tableWrite w k n index) s fun z =>
      z.tabEntry (64 + w.val) v = (s.zone.winData (64 + w.val)).take (Zone.winWords (64 + w.val) v) ∧
      (∀ a : Nat, a ≠ v → z.tabEntry (64 + w.val) a = s.zone.tabEntry (64 + w.val) a) ∧
      (w = 2 → (z.sgate (if v < 2048 then v / 32 else v - 2048)).latched = false) ∧
      (w = 2 ∧ 2048 ≤ v ∧ ((s.zone.winData 66).getD 0 0).getLsbD 9 = true → (z.sgate (v - 2048)).pending = some (Zone.gateBoundary ((s.zone.winData 66).getD 1 0).toNat ((s.zone.winData 66).getD 2 0).toNat (s.zone.nowNs + 1000), ⟨((s.zone.winData 66).getD 0 0).toNat % 256, ((s.zone.winData 66).getD 1 0).toNat, ((s.zone.winData 66).getD 2 0).toNat⟩)) ∧
      (w = 3 ∧ s.zone.tabEntry 67 v = [] → z.meter v = ⟨((s.zone.winData 67).getD 2 0).toNat % 2 ^ 24 * 1000000, ((s.zone.winData 67).getD 3 0).toNat % 2 ^ 24 * 1000000, s.zone.time.residence * 4⟩) ∧
      (w = 4 ∧ v < 256 ∧ ((s.zone.winData 68).getD 0 0).getLsbD 0 = true → SMap.get (fun _ => 0) z.switch.genSeq v = 0) ∧
      (w = 4 ∧ 256 ≤ v → z.recov (v - 256) = if s.zone.tabEntry 68 v = [] then RecovSt.init else s.zone.recov (v - 256)) ∧
      (w = 6 → SMap.get (fun _ => 0) z.switch.tmplSeq v = 0) ∧
      z.switch.voqs = s.zone.switch.voqs ∧ z.switch.egr = s.zone.switch.egr ∧ z.switch.stats = s.zone.switch.stats ∧
      ((s.zone.ticket k n.val).state = .issued → (z.ticket k n.val).state = .done ∧ (z.ticket k n.val).status = st ∧ (z.ticket k n.val).value = v % 65536) ∧
      ((s.zone.ticket k n.val).state ≠ .issued → z.tickets = s.zone.tickets ∧ z.fld (pKEEPER k) KEEPER.TICKET_EVENTS_LATE = min (s.zone.fld (pKEEPER k) KEEPER.TICKET_EVENTS_LATE + 1) 65535) ∧
      s.zone.Frame [pKEEPER k + KEEPER.TICKETS_IN_USE.off, pKEEPER k + KEEPER.TICKET_EVENTS_LATE.off] [.tickets, .switch] z) ∧
  (∀ (s : State) (k : Keeper) (n : Fin 128) (index : Word) (d0 d1 i st v : Nat), s.zone.logicRuns = true → s.zone.role k = 3 →
    d0 = ((s.zone.winData 64).getD 0 0).toNat → d1 = ((s.zone.winData 64).getD 1 0).toNat →
    s.zone.entryBad 64 0 (s.zone.winData 64) = false →
    s.zone.fdbPlace (Zone.fdbKey d0 d1).1 (Zone.fdbKey d0 d1).2.1 (Zone.fdbKey d0 d1).2.2 = some i → st = 0 → v = i →
    Completes (.tableWrite 0 k n index) s fun z =>
      z.tabEntry 64 i = (s.zone.winData 64).take 4 ∧ (∀ a : Nat, a ≠ i → z.tabEntry 64 a = s.zone.tabEntry 64 a) ∧
      { z.switch with tables := s.zone.switch.tables } = s.zone.switch ∧
      ((s.zone.ticket k n.val).state = .issued → (z.ticket k n.val).state = .done ∧ (z.ticket k n.val).status = st ∧ (z.ticket k n.val).value = v % 65536) ∧
      ((s.zone.ticket k n.val).state ≠ .issued → z.tickets = s.zone.tickets ∧ z.fld (pKEEPER k) KEEPER.TICKET_EVENTS_LATE = min (s.zone.fld (pKEEPER k) KEEPER.TICKET_EVENTS_LATE + 1) 65535) ∧
      s.zone.Frame [pKEEPER k + KEEPER.TICKETS_IN_USE.off, pKEEPER k + KEEPER.TICKET_EVENTS_LATE.off] [.tickets, .switch] z) ∧
  (∀ (s : State) (w : Fin 7) (k : Keeper) (n : Fin 128) (index : Word) (j : Fin 7) (st v : Nat), s.zone.logicRuns = true →
    s.zone.role k = 3 → index.toNat < Zone.winEntries (64 + w.val) → st = 0 → v = index.toNat →
    Completes (.tableRead w k n index) s fun z =>
      z.rd (pSWW (64 + w.val) + 0x40 + 4 * j.val) = (s.zone.tabEntry (64 + w.val) v).getD j.val 0 ∧
      (z.rd (pSWW (64 + w.val) + 0x5C) = if w = 6 then BitVec.ofNat 32 (SMap.get (fun _ => 0) s.zone.switch.tmplSeq v) else (s.zone.tabEntry (64 + w.val) v).getD 7 0) ∧
      z.switch = s.zone.switch ∧
      ((s.zone.ticket k n.val).state = .issued → (z.ticket k n.val).state = .done ∧ (z.ticket k n.val).status = st ∧ (z.ticket k n.val).value = v % 65536) ∧
      ((s.zone.ticket k n.val).state ≠ .issued → z.tickets = s.zone.tickets ∧ z.fld (pKEEPER k) KEEPER.TICKET_EVENTS_LATE = min (s.zone.fld (pKEEPER k) KEEPER.TICKET_EVENTS_LATE + 1) 65535) ∧
      s.zone.Frame [pKEEPER k + KEEPER.TICKETS_IN_USE.off, pKEEPER k + KEEPER.TICKET_EVENTS_LATE.off, pSWW (64 + w.val) + 0x40, pSWW (64 + w.val) + 0x44, pSWW (64 + w.val) + 0x48, pSWW (64 + w.val) + 0x4C, pSWW (64 + w.val) + 0x50, pSWW (64 + w.val) + 0x54, pSWW (64 + w.val) + 0x58, pSWW (64 + w.val) + 0x5C] [.tickets] z) ∧
  (∀ (s : State) (w : Fin 7) (k : Keeper) (n : Fin 128) (index : Word) (st v : Nat), s.zone.logicRuns = true →
    s.zone.role k = 3 → Zone.winEntries (64 + w.val) ≤ index.toNat → st = 1 → v = 2 →
    Completes (.tableRead w k n index) s fun z =>
      ((s.zone.ticket k n.val).state = .issued → (z.ticket k n.val).state = .done ∧ (z.ticket k n.val).status = st ∧ (z.ticket k n.val).value = v % 65536) ∧
      ((s.zone.ticket k n.val).state ≠ .issued → z.tickets = s.zone.tickets ∧ z.fld (pKEEPER k) KEEPER.TICKET_EVENTS_LATE = min (s.zone.fld (pKEEPER k) KEEPER.TICKET_EVENTS_LATE + 1) 65535) ∧
      s.zone.Frame [pKEEPER k + KEEPER.TICKETS_IN_USE.off, pKEEPER k + KEEPER.TICKET_EVENTS_LATE.off] [.tickets] z) ∧
  (∀ (s : State) (w : Fin 7) (k : Keeper) (n : Fin 128) (index : Word) (st v : Nat), s.zone.logicRuns = true →
    s.zone.role k = 3 → w ≠ 0 → index.toNat < Zone.winEntries (64 + w.val) → st = 0 → v = index.toNat →
    Completes (.tableClear w k n index) s fun z =>
      z.tabEntry (64 + w.val) v = [] ∧ (∀ a : Nat, a ≠ v → z.tabEntry (64 + w.val) a = s.zone.tabEntry (64 + w.val) a) ∧
      (w = 2 → (if v < 2048 then (z.sgate (v / 32)).latched = false else z.sgate (v - 2048) = StreamGate.init)) ∧
      (w = 3 → z.meter v = MeterSt.init) ∧ (w = 4 ∧ 256 ≤ v → z.recov (v - 256) = RecovSt.init) ∧
      z.switch.voqs = s.zone.switch.voqs ∧ z.switch.egr = s.zone.switch.egr ∧ z.switch.stats = s.zone.switch.stats ∧
      ((s.zone.ticket k n.val).state = .issued → (z.ticket k n.val).state = .done ∧ (z.ticket k n.val).status = st ∧ (z.ticket k n.val).value = v % 65536) ∧
      ((s.zone.ticket k n.val).state ≠ .issued → z.tickets = s.zone.tickets ∧ z.fld (pKEEPER k) KEEPER.TICKET_EVENTS_LATE = min (s.zone.fld (pKEEPER k) KEEPER.TICKET_EVENTS_LATE + 1) 65535) ∧
      s.zone.Frame [pKEEPER k + KEEPER.TICKETS_IN_USE.off, pKEEPER k + KEEPER.TICKET_EVENTS_LATE.off] [.tickets, .switch] z) ∧
  (∀ (s : State) (k : Keeper) (n : Fin 128) (index : Word) (d0 d1 i st v : Nat), s.zone.logicRuns = true → s.zone.role k = 3 →
    d0 = ((s.zone.winData 64).getD 0 0).toNat → d1 = ((s.zone.winData 64).getD 1 0).toNat →
    s.zone.fdbFind (Zone.fdbKey d0 d1).1 (Zone.fdbKey d0 d1).2.1 (Zone.fdbKey d0 d1).2.2 = some i → st = 0 → v = i →
    Completes (.tableClear 0 k n index) s fun z =>
      z.tabEntry 64 i = [] ∧ (∀ a : Nat, a ≠ i → z.tabEntry 64 a = s.zone.tabEntry 64 a) ∧
      { z.switch with tables := s.zone.switch.tables } = s.zone.switch ∧
      ((s.zone.ticket k n.val).state = .issued → (z.ticket k n.val).state = .done ∧ (z.ticket k n.val).status = st ∧ (z.ticket k n.val).value = v % 65536) ∧
      ((s.zone.ticket k n.val).state ≠ .issued → z.tickets = s.zone.tickets ∧ z.fld (pKEEPER k) KEEPER.TICKET_EVENTS_LATE = min (s.zone.fld (pKEEPER k) KEEPER.TICKET_EVENTS_LATE + 1) 65535) ∧
      s.zone.Frame [pKEEPER k + KEEPER.TICKETS_IN_USE.off, pKEEPER k + KEEPER.TICKET_EVENTS_LATE.off] [.tickets, .switch] z) ∧
  (∀ (s : State) (w : Fin 7) (k : Keeper) (n : Fin 128) (index : Word) (st v : Nat), s.zone.logicRuns = true →
    s.zone.role k = 3 →
    ((w ≠ 0 ∧ Zone.winEntries (64 + w.val) ≤ index.toNat) ∨ (w = 0 ∧ s.zone.fdbFind (Zone.fdbKey ((s.zone.winData 64).getD 0 0).toNat ((s.zone.winData 64).getD 1 0).toNat).1 (Zone.fdbKey ((s.zone.winData 64).getD 0 0).toNat ((s.zone.winData 64).getD 1 0).toNat).2.1 (Zone.fdbKey ((s.zone.winData 64).getD 0 0).toNat ((s.zone.winData 64).getD 1 0).toNat).2.2 = none)) →
    st = 1 → v = 3 → Completes (.tableClear w k n index) s fun z =>
      ((s.zone.ticket k n.val).state = .issued → (z.ticket k n.val).state = .done ∧ (z.ticket k n.val).status = st ∧ (z.ticket k n.val).value = v % 65536) ∧
      ((s.zone.ticket k n.val).state ≠ .issued → z.tickets = s.zone.tickets ∧ z.fld (pKEEPER k) KEEPER.TICKET_EVENTS_LATE = min (s.zone.fld (pKEEPER k) KEEPER.TICKET_EVENTS_LATE + 1) 65535) ∧
      s.zone.Frame [pKEEPER k + KEEPER.TICKETS_IN_USE.off, pKEEPER k + KEEPER.TICKET_EVENTS_LATE.off] [.tickets] z) ∧
  (∀ (s : State) (port : Fin 28) (sqi : BitVec 3) (l : Nat), s.zone.logicRuns = true →
    l = s.zone.fld (pPORT port.val) PORT.SQI_WARN_LEVEL → Completes (.sqiLow port sqi) s fun z =>
      z.fld (pPORT port.val) PORT.PHY_STATUS_SQI = sqi.toNat ∧
      z.flag (pPORT port.val) PORT.PHY_EVENT_SQI_LOW = (decide (sqi.toNat < l ∧ l ≤ s.zone.fld (pPORT port.val) PORT.PHY_STATUS_SQI) || s.zone.flag (pPORT port.val) PORT.PHY_EVENT_SQI_LOW) ∧
      PORT.PHY_STATUS_SQI.put (z.rd (pPORT port.val + PORT.PHY_STATUS_SQI.off)) 0 = PORT.PHY_STATUS_SQI.put (s.zone.rd (pPORT port.val + PORT.PHY_STATUS_SQI.off)) 0 ∧
      s.zone.Frame [pPORT port.val + PORT.PHY_STATUS_SQI.off, pPORT port.val + PORT.PHY_EVENT_SQI_LOW.off] [] z) ∧
  (∀ (s : State) (writer : Writer) (port : Fin 4) (assoc : Fin 20) (sci nextPn : BitVec 64) (an : BitVec 2) (slot : BitVec 8),
    s.zone.writerActs writer = true → Zone.secureWriter writer = true →
    (s.zone.keySlot slot.toNat).type = s.zone.fld (pPORT port.val) PORT.MACSEC_CFG_CIPHER % 2 + 1 →
    (attrUses (s.zone.keySlot slot.toNat).attr).testBit 2 = true → (s.zone.keySlot slot.toNat).owner = none →
    Completes (.saInstall writer port assoc sci an slot nextPn) s fun z =>
      z.secA port.val assoc.val = some ⟨sci, an.toNat, slot.toNat, (s.zone.keySlot slot.toNat).key, nextPn.toNat⟩ ∧
      z.rd (pPORT port.val + 0x100 + assoc.val * 32) = BitVec.ofNat 32 slot.toNat ∧
      z.rd (pPORT port.val + 0x104 + assoc.val * 32) = BitVec.ofNat 32 nextPn.toNat ∧ z.rd (pPORT port.val + 0x108 + assoc.val * 32) = BitVec.ofNat 32 (nextPn.toNat / 2 ^ 32) ∧
      z.rd (pPORT port.val + 0x10C + assoc.val * 32) = BitVec.ofNat 32 an.toNat ∧ z.rd (pPORT port.val + 0x110 + assoc.val * 32) = 1 ∧
      { z.switch with secy := s.zone.switch.secy } = s.zone.switch ∧
      s.zone.Frame [pPORT port.val + 0x100 + assoc.val * 32, pPORT port.val + 0x104 + assoc.val * 32, pPORT port.val + 0x108 + assoc.val * 32, pPORT port.val + 0x10C + assoc.val * 32, pPORT port.val + 0x110 + assoc.val * 32] [.switch] z) ∧
  (∀ (s : State) (writer : Writer) (port : Fin 4) (assoc : Fin 20) (sci nextPn : BitVec 64) (an : BitVec 2) (slot : BitVec 8),
    s.zone.writerActs writer = true → Zone.secureWriter writer = true →
    ((s.zone.keySlot slot.toNat).type ≠ s.zone.fld (pPORT port.val) PORT.MACSEC_CFG_CIPHER % 2 + 1 ∨ (attrUses (s.zone.keySlot slot.toNat).attr).testBit 2 = false ∨ (s.zone.keySlot slot.toNat).owner ≠ none) →
    Completes (.saInstall writer port assoc sci an slot nextPn) s fun z =>
      z.flag (pPORT port.val) PORT.PHY_EVENT_SA_REJECT = true ∧ s.zone.Frame [pPORT port.val + PORT.PHY_EVENT_SA_REJECT.off] [] z) ∧
  (∀ (s : State) (writer : Writer) (port : Fin 4) (assoc : Fin 20) (sci nextPn : BitVec 64) (an : BitVec 2) (slot : BitVec 8),
    Zone.secureWriter writer = false → Completes (.saInstall writer port assoc sci an slot nextPn) s fun z =>
      s.zone.Frame [] [] z)

/-- R340, R341, R363, R364, R365, R366, R367, R532: a pair that runs fetches the frame of its next descriptor, pads it, and
returns the descriptor, marked dropped where the length, the permission or the switch refuses the frame or memory denies it, or
waits where its source stalls; without a descriptor and in another state nothing is fetched. A copy at port 28 or 29 is written to
a receive descriptor of its pair and sent, waits where there is none, and is dropped where the pair does not run; the wrong port
counts a mismatch. A doorbell moves the tail of a pair that its writer holds and else counts. RING_CFG of a held pair sets the
depths in range, starts the pair and stops it, and else is rejected; while the pair runs only a stop has an effect (log entry 48).
SEND injects the frame of its template with its sequence number, or fails with its reason; TAKE moves the message into the buffer,
or fails, with a free value for a buffer that does not exist (log entry 2). -/
def Obligations.HostPairsAndBridgesExchangeFrames : Prop :=
  (∀ (s : State) (q : Fin 1024),
    (s.zone.logicRuns = false ∨ s.zone.pairState q.val ≠ 2 ∨ s.zone.ringHeadIx q.val 0 % s.zone.ringDepth q.val 0 = s.zone.ringTailIx q.val 0 % s.zone.ringDepth q.val 0) →
    Completes (.hostTxFetch q) s fun z =>
      s.zone.Frame [] [] z) ∧
  (∀ (s : State) (q : Fin 1024) (d : Desc) (x : Zone), s.zone.logicRuns = true → s.zone.pairState q.val = 2 →
    s.zone.nextDesc q.val 0 = (some d, x) → (d.len < 14 ∨ 9212 < d.len) → Completes (.hostTxFetch q) s fun z =>
      z = (x.stat (statPort (Zone.pairPort q.val) (if d.len < 14 then 3 else 4))).returnDesc q.val 0 d.len ((d.flags % 2 ^ 15 - d.flags / 2 ^ 10 % 2 * 2 ^ 10) + 2 ^ 10) d.tag) ∧
  (∀ (s : State) (q : Fin 1024) (d : Desc) (x y : Zone) (n : Nat), s.zone.logicRuns = true → s.zone.pairState q.val = 2 →
    s.zone.nextDesc q.val 0 = (some d, x) → 14 ≤ d.len ∧ d.len ≤ 9212 →
    x.dmaRead (Zone.pairMaster q.val) (s.zone.pairOwner q.val) d.addr d.len = (none, n, y) → Completes (.hostTxFetch q) s fun z =>
      z = y.returnDesc q.val 0 d.len ((d.flags % 2 ^ 15 - d.flags / 2 ^ 10 % 2 * 2 ^ 10) + 2 ^ 10) d.tag) ∧
  (∀ (s : State) (q : Fin 1024) (d : Desc) (b f : List Byte) (x y : Zone) (n : Nat), s.zone.logicRuns = true →
    s.zone.pairState q.val = 2 → s.zone.nextDesc q.val 0 = (some d, x) → 14 ≤ d.len ∧ d.len ≤ 9212 →
    x.dmaRead (Zone.pairMaster q.val) (s.zone.pairOwner q.val) d.addr d.len = (some b, n, y) →
    f = (if b.length < 60 then padTo 60 b else b) → Completes (.hostTxFetch q) s fun z =>
      (f.length + 4 ≤ s.zone.fld (pSWP (Zone.pairPort q.val)) SWP.MAX_FRAME_BYTES ∧ s.zone.pairMaySend q.val f = false → z = (y.stat (statHost (Zone.pairPort q.val) 1)).returnDesc q.val 0 d.len ((d.flags % 2 ^ 15 - d.flags / 2 ^ 10 % 2 * 2 ^ 10) + 2 ^ 10) d.tag) ∧
      (s.zone.fld (pSWP (Zone.pairPort q.val)) SWP.MAX_FRAME_BYTES < f.length + 4 → z = (y.stat (statPort (Zone.pairPort q.val) 4)).returnDesc q.val 0 d.len ((d.flags % 2 ^ 15 - d.flags / 2 ^ 10 % 2 * 2 ^ 10) + 2 ^ 10) d.tag) ∧
      (f.length + 4 ≤ s.zone.fld (pSWP (Zone.pairPort q.val)) SWP.MAX_FRAME_BYTES ∧ s.zone.pairMaySend q.val f = true ∧ (y.inject (Zone.pairPort q.val) f (if d.flags.testBit 14 then some (BitVec.ofNat 16 d.tag) else none)).1 = none → z = y) ∧
      (f.length + 4 ≤ s.zone.fld (pSWP (Zone.pairPort q.val)) SWP.MAX_FRAME_BYTES ∧ s.zone.pairMaySend q.val f = true ∧ (y.inject (Zone.pairPort q.val) f (if d.flags.testBit 14 then some (BitVec.ofNat 16 d.tag) else none)).1 = some true → z = (y.inject (Zone.pairPort q.val) f (if d.flags.testBit 14 then some (BitVec.ofNat 16 d.tag) else none)).2.returnDesc q.val 0 d.len (d.flags % 2 ^ 15 - d.flags / 2 ^ 10 % 2 * 2 ^ 10) d.tag) ∧
      (f.length + 4 ≤ s.zone.fld (pSWP (Zone.pairPort q.val)) SWP.MAX_FRAME_BYTES ∧ s.zone.pairMaySend q.val f = true ∧ (y.inject (Zone.pairPort q.val) f (if d.flags.testBit 14 then some (BitVec.ofNat 16 d.tag) else none)).1 = some false → z = (y.inject (Zone.pairPort q.val) f (if d.flags.testBit 14 then some (BitVec.ofNat 16 d.tag) else none)).2.returnDesc q.val 0 d.len ((d.flags % 2 ^ 15 - d.flags / 2 ^ 10 % 2 * 2 ^ 10) + 2 ^ 10) d.tag)) ∧
  (∀ (s : State) (p : Fin 2), (s.zone.egress (28 + p.val)).all (fun x => decide (x.fetched < x.copy.cells)) = true →
    Completes (.hostRxDeliver p) s fun z =>
      s.zone.Frame [] [] z) ∧
  (∀ (s : State) (p : Fin 2) (x : EgressSt) (q : Nat), s.zone.logicRuns = true → s.zone.egress (28 + p.val) = some x →
    x.copy.cells ≤ x.fetched →
    q = (if Zone.pairPort x.copy.queue = 28 + p.val then x.copy.queue else if p.val = 0 then 0 else 896) →
    s.zone.pairState q ≠ 2 → Completes (.hostRxDeliver p) s fun z =>
      z.egress (28 + p.val) = none ∧
      z.fld (pPAIR q) QPR.RING_CFG_DROPS = min (s.zone.fld (pPAIR q) QPR.RING_CFG_DROPS + 1) (2 ^ QPR.RING_CFG_DROPS.w - 1) ∧
      (Zone.pairPort x.copy.queue ≠ 28 + p.val → z.statVal (statHost (28 + p.val) 0) = satU 64 (s.zone.statVal (statHost (28 + p.val) 0) + 1)) ∧
      z.switch.voqs = s.zone.switch.voqs ∧ s.zone.BankFrame [5, 14] [.switch, .freeNext] z) ∧
  (∀ (s : State) (p : Fin 2) (x : EgressSt) (q : Nat) (y : Zone), s.zone.logicRuns = true → s.zone.egress (28 + p.val) = some x →
    x.copy.cells ≤ x.fetched →
    q = (if Zone.pairPort x.copy.queue = 28 + p.val then x.copy.queue else if p.val = 0 then 0 else 896) →
    s.zone.pairState q = 2 →
    s.zone.rxWrite q (s.zone.wireOf (28 + p.val) x.copy) (min 2 x.copy.colour * 2 ^ 8 + x.cls * 2 ^ 5 + x.ingress) (match x.copy.stream with | some n => 2 ^ 12 + n | none => 0) (s.zone.ringDepth q 1) = (none, y) →
    Completes (.hostRxDeliver p) s fun z =>
      z = y) ∧
  (∀ (s : State) (p : Fin 2) (x : EgressSt) (q : Nat) (ok : Bool) (y : Zone), s.zone.logicRuns = true →
    s.zone.egress (28 + p.val) = some x → x.copy.cells ≤ x.fetched →
    q = (if Zone.pairPort x.copy.queue = 28 + p.val then x.copy.queue else if p.val = 0 then 0 else 896) →
    s.zone.pairState q = 2 →
    s.zone.rxWrite q (s.zone.wireOf (28 + p.val) x.copy) (min 2 x.copy.colour * 2 ^ 8 + x.cls * 2 ^ 5 + x.ingress) (match x.copy.stream with | some n => 2 ^ 12 + n | none => 0) (s.zone.ringDepth q 1) = (some ok, y) →
    Completes (.hostRxDeliver p) s fun z =>
      z.egress (28 + p.val) = none ∧
      (x.copy.mirror = true ∨ ∀ m : Fin 4, (s.zone.tabWord 69 m.val 0).testBit 31 = false → z.statVal (statClass (28 + p.val) x.cls 1) = satU 64 (y.statVal (statClass (28 + p.val) x.cls 1) + 1)) ∧
      (Zone.pairPort x.copy.queue ≠ 28 + p.val → z.statVal (statHost (28 + p.val) 0) = satU 64 (y.statVal (statHost (28 + p.val) 0) + 1)) ∧
      z.fld (pPAIR q) QPR.RING_CFG_DROPS = (if ok then y.fld (pPAIR q) QPR.RING_CFG_DROPS else min (y.fld (pPAIR q) QPR.RING_CFG_DROPS + 1) (2 ^ QPR.RING_CFG_DROPS.w - 1)) ∧
      (∀ a : Nat, z.memByte a = y.memByte a)) ∧
  (∀ (s : State) (p : Fin 2) (src : Source) (q : BitVec 10) (rx : Bool) (tail : BitVec 16), s.zone.start.released = true →
    Zone.pairPort q.toNat = 28 + p.val → s.zone.pairHeldBy q.toNat src = true → Completes (.doorbell p src q rx tail) s fun z =>
      z.ringTailIx q.toNat (b2n rx) = tail.toNat ∧
      (∀ a : Nat, a ≠ q.toNat * 2 + b2n rx → SMap.get (fun _ => 0) z.switch.ringTail a = SMap.get (fun _ => 0) s.zone.switch.ringTail a) ∧
      { z.switch with ringTail := s.zone.switch.ringTail } = s.zone.switch ∧ s.zone.Frame [] [.switch] z) ∧
  (∀ (s : State) (p : Fin 2) (src : Source) (q : BitVec 10) (rx : Bool) (tail : BitVec 16), s.zone.start.released = true →
    (Zone.pairPort q.toNat ≠ 28 + p.val ∨ s.zone.pairHeldBy q.toNat src = false) →
    Completes (.doorbell p src q rx tail) s fun z =>
      z.statVal (statHost (28 + p.val) 2) = satU 64 (s.zone.statVal (statHost (28 + p.val) 2) + 1) ∧
      { z.switch with stats := s.zone.switch.stats } = s.zone.switch ∧ s.zone.Frame [] [.switch] z) ∧
  (∀ (s : State) (src : Source) (q : Fin 1024) (v : Word), s.zone.start.released = true → s.zone.pairHeldBy q.val src = true →
    s.zone.flag (pPAIR q.val) QPR.RING_CFG_ENABLE = false → 0x80000000 ≤ v.toNat → 4 ≤ v.toNat / 2 ^ 20 % 16 →
    v.toNat / 2 ^ 20 % 16 ≤ 12 → 4 ≤ v.toNat / 2 ^ 16 % 16 → v.toNat / 2 ^ 16 % 16 ≤ 12 →
    Completes (.queuePairEnable src q v) s fun z =>
      z.pairState q.val = 2 ∧ z.flag (pPAIR q.val) QPR.RING_CFG_ENABLE = true ∧
      z.ringDepth q.val 0 = 2 ^ (v.toNat / 2 ^ 20 % 16) ∧ z.ringDepth q.val 1 = 2 ^ (v.toNat / 2 ^ 16 % 16) ∧
      z.pairOwner q.val = s.zone.pairOwner q.val ∧
      z.fld (pPAIR q.val) QPR.RING_CFG_DROPS = s.zone.fld (pPAIR q.val) QPR.RING_CFG_DROPS ∧
      s.zone.Frame [pPAIR q.val, pPAIR q.val + 0x1C] [] z) ∧
  (∀ (s : State) (src : Source) (q : Fin 1024) (v : Word) (on : Bool), s.zone.start.released = true →
    s.zone.pairHeldBy q.val src = true → v.toNat < 0x80000000 → on = s.zone.flag (pPAIR q.val) QPR.RING_CFG_ENABLE →
    Completes (.queuePairEnable src q v) s fun z =>
      z.flag (pPAIR q.val) QPR.RING_CFG_ENABLE = false ∧
      (on = true → z.pairState q.val = 1 ∧ z.ringDepth q.val 0 = s.zone.ringDepth q.val 0 ∧ z.ringDepth q.val 1 = s.zone.ringDepth q.val 1) ∧
      (on = false → z.pairState q.val = s.zone.pairState q.val ∧ z.ringDepth q.val 0 = 2 ^ (v.toNat / 2 ^ 20 % 16) ∧ z.ringDepth q.val 1 = 2 ^ (v.toNat / 2 ^ 16 % 16)) ∧
      z.pairOwner q.val = s.zone.pairOwner q.val ∧
      z.fld (pPAIR q.val) QPR.RING_CFG_DROPS = s.zone.fld (pPAIR q.val) QPR.RING_CFG_DROPS ∧
      s.zone.Frame [pPAIR q.val, pPAIR q.val + 0x1C] [] z) ∧
  (∀ (s : State) (src : Source) (q : Fin 1024) (v : Word), s.zone.start.released = true →
    (s.zone.pairHeldBy q.val src = false ∨ (0x80000000 ≤ v.toNat ∧ (s.zone.flag (pPAIR q.val) QPR.RING_CFG_ENABLE = true ∨ v.toNat / 2 ^ 20 % 16 < 4 ∨ 12 < v.toNat / 2 ^ 20 % 16 ∨ v.toNat / 2 ^ 16 % 16 < 4 ∨ 12 < v.toNat / 2 ^ 16 % 16))) →
    Completes (.queuePairEnable src q v) s fun z =>
      z.fld pGRANT GRANT.GRANT_COUNTS_OWNER_REJECT = min (s.zone.fld pGRANT GRANT.GRANT_COUNTS_OWNER_REJECT + 1) (2 ^ GRANT.GRANT_COUNTS_OWNER_REJECT.w - 1) ∧
      GRANT.GRANT_COUNTS_OWNER_REJECT.put (z.rd (pGRANT + GRANT.GRANT_COUNTS_OWNER_REJECT.off)) 0 = GRANT.GRANT_COUNTS_OWNER_REJECT.put (s.zone.rd (pGRANT + GRANT.GRANT_COUNTS_OWNER_REJECT.off)) 0 ∧
      s.zone.Frame [pGRANT + GRANT.GRANT_COUNTS_OWNER_REJECT.off] [] z) ∧
  (∀ (s : State) (k : Keeper) (n : Fin 128) (arg : Word) (e : Option (List Byte)) (t st v : Nat), s.zone.logicRuns = true →
    e = s.zone.tableEntry (arg.toNat / 65536 % 16) (arg.toNat % 256) → t = arg.toNat / 256 % 64 →
    (e = none ∨ (s.zone.tmpl t 1).testBit 31 = false ∨ e.any (fun l => decide (leAt l 0 4 / 2 ^ 29 = 2)) = true) → st = 1 →
    v = (if e = none then 4 else if (s.zone.tmpl t 1).testBit 31 = false then 5 else 6) → Completes (.acfSend k n arg) s fun z =>
      ((s.zone.ticket k n.val).state = .issued → (z.ticket k n.val).state = .done ∧ (z.ticket k n.val).status = st ∧ (z.ticket k n.val).value = v % 65536) ∧
      ((s.zone.ticket k n.val).state ≠ .issued → z.tickets = s.zone.tickets ∧ z.fld (pKEEPER k) KEEPER.TICKET_EVENTS_LATE = min (s.zone.fld (pKEEPER k) KEEPER.TICKET_EVENTS_LATE + 1) 65535) ∧
      s.zone.Frame [pKEEPER k + KEEPER.TICKETS_IN_USE.off, pKEEPER k + KEEPER.TICKET_EVENTS_LATE.off] [.tickets] z) ∧
  (∀ (s : State) (k : Keeper) (n : Fin 128) (arg : Word) (e : List Byte) (t seq st v : Nat), s.zone.logicRuns = true →
    s.zone.tableEntry (arg.toNat / 65536 % 16) (arg.toNat % 256) = some e → t = arg.toNat / 256 % 64 →
    (s.zone.tmpl t 1).testBit 31 = true → leAt e 0 4 / 2 ^ 29 ≠ 2 → seq = SMap.get (fun _ => 0) s.zone.switch.tmplSeq t →
    st = (if (s.zone.inject 30 (s.zone.avtpFrame t seq (Zone.acfMessage ((s.zone.tmpl t 6).testBit 1) (s.zone.tmpl t 6 / 256 % 32) e)) none).1 = none then 1 else 0) →
    v = (if (s.zone.inject 30 (s.zone.avtpFrame t seq (Zone.acfMessage ((s.zone.tmpl t 6).testBit 1) (s.zone.tmpl t 6 / 256 % 32) e)) none).1 = none then 2 else seq) →
    Completes (.acfSend k n arg) s fun z =>
      ((s.zone.ticket k n.val).state = .issued → (z.ticket k n.val).state = .done ∧ (z.ticket k n.val).status = st ∧ (z.ticket k n.val).value = v % 65536) ∧
      ((s.zone.ticket k n.val).state ≠ .issued → z.tickets = s.zone.tickets ∧ z.fld (pKEEPER k) KEEPER.TICKET_EVENTS_LATE = min (s.zone.fld (pKEEPER k) KEEPER.TICKET_EVENTS_LATE + 1) 65535) ∧
      ((s.zone.inject 30 (s.zone.avtpFrame t seq (Zone.acfMessage ((s.zone.tmpl t 6).testBit 1) (s.zone.tmpl t 6 / 256 % 32) e)) none).1 = none → z.switch = s.zone.switch) ∧
      ((s.zone.inject 30 (s.zone.avtpFrame t seq (Zone.acfMessage ((s.zone.tmpl t 6).testBit 1) (s.zone.tmpl t 6 / 256 % 32) e)) none).1 ≠ none → SMap.get (fun _ => 0) z.switch.tmplSeq t = (seq + 1) % 256 ∧ z.switch.voqs = (s.zone.inject 30 (s.zone.avtpFrame t seq (Zone.acfMessage ((s.zone.tmpl t 6).testBit 1) (s.zone.tmpl t 6 / 256 % 32) e)) none).2.switch.voqs ∧ z.switch.stats = (s.zone.inject 30 (s.zone.avtpFrame t seq (Zone.acfMessage ((s.zone.tmpl t 6).testBit 1) (s.zone.tmpl t 6 / 256 % 32) e)) none).2.switch.stats) ∧
      s.zone.BankFrame [0, 5] [.tickets, .switch, .freeNext] z) ∧
  (∀ (s : State) (k : Keeper) (n : Fin 128) (arg : Word) (m : AcfMsg) (l : List AcfMsg) (st v : Nat), s.zone.logicRuns = true →
    s.zone.acfQueue (arg.toNat % 16) = m :: l → arg.toNat / 256 % 256 ≤ 63 → st = 0 → v = l.length →
    Completes (.acfTake k n arg) s fun z =>
      l.isPrefixOf (z.acfQueue (arg.toNat % 16)) = true ∧
      ((s.zone.egress 30).all (fun x => decide (x.fetched < x.copy.cells)) = true → z.acfQueue (arg.toNat % 16) = l) ∧
      ((s.zone.ticket k n.val).state = .issued → (z.ticket k n.val).state = .done ∧ (z.ticket k n.val).status = st ∧ (z.ticket k n.val).value = v % 65536) ∧
      ((s.zone.ticket k n.val).state ≠ .issued → z.tickets = s.zone.tickets ∧ z.fld (pKEEPER k) KEEPER.TICKET_EVENTS_LATE = min (s.zone.fld (pKEEPER k) KEEPER.TICKET_EVENTS_LATE + 1) 65535) ∧
      (∀ j : Fin 32, SMap.get (fun _ => none) z.busMem (Zone.canBufAddr (arg.toNat / 65536 % 16) (arg.toNat / 256 % 256) + j.val) = (Zone.acfBuffer m)[j.val]?) ∧
      s.zone.BankFrame [0, 5] [.tickets, .switch, .busMem, .freeNext] z) ∧
  (∀ (s : State) (k : Keeper) (n : Fin 128) (arg : Word) (st v : Nat), s.zone.logicRuns = true →
    (s.zone.acfQueue (arg.toNat % 16) = [] ∨ 63 < arg.toNat / 256 % 256) → st = 1 →
    v = (if s.zone.acfQueue (arg.toNat % 16) = [] then 3 else s.zone.fresh.1.toNat) → Completes (.acfTake k n arg) s fun z =>
      ((s.zone.ticket k n.val).state = .issued → (z.ticket k n.val).state = .done ∧ (z.ticket k n.val).status = st ∧ (z.ticket k n.val).value = v % 65536) ∧
      ((s.zone.ticket k n.val).state ≠ .issued → z.tickets = s.zone.tickets ∧ z.fld (pKEEPER k) KEEPER.TICKET_EVENTS_LATE = min (s.zone.fld (pKEEPER k) KEEPER.TICKET_EVENTS_LATE + 1) 65535) ∧
      z.switch = s.zone.switch ∧ z.busMem = s.zone.busMem ∧
      s.zone.Frame [pKEEPER k + KEEPER.TICKETS_IN_USE.off, pKEEPER k + KEEPER.TICKET_EVENTS_LATE.off] [.tickets, .freeNext] z)

/-! ### Network time -/

/-- R379, R383, R385, R386, R387, R389, R390, R391, R394, R395, R397, R398: a measurement is judged where gPTP is the source in
use, with link delay and ring correction. UNSET and a COARSE offset in the window step and acquire, one within SLEW_LIMIT slews by
R678 (a quotient over no time is free, log entry 2), one within JUMP_THRESH steps, a larger counts without a phase term and at
REFUSE_COUNT is refused, with holdover; a refused source is judged again after REFUSE_COUNT good ones; a waiting FORCE_TIME_STEP
steps by any and is answered, or after 2 s without one. A lost instance or 1PPS leads to the fallback or to holdover, no sooner
than its time. Edges in the window are used, others count. A gPTP message of the instance and its domain gives grandmaster, lock
or delay; others only count; messages go out as the port's role has it. The integrity check sets and reports its fault once. Stamp
queues, snapshot and SOURCE act for a writer that may configure; leaving LOCAL takes the base state. Three sync intervals in a row
lock, centred on the syncs: the model's reading (log entry 95). -/
def Obligations.TimeFollowsItsSource : Prop :=
  (∀ (s : State) (q : SourceTime) (i : Fin 2) (n : Nat) (o : Int),
    (s.zone.logicRuns = false ∨ s.zone.source ≠ 0 ∨ s.zone.fld pTIME TIME0.TIME_STATUS_SOURCE_NOW = 3 ∨ s.zone.slavePort (if s.zone.fld pTIME TIME0.TIME_STATUS_SOURCE_NOW = 1 then 1 else 0) = none) →
    Completes (.servoMeasurement q) s fun z =>
      s.zone.Frame [] [] z) ∧
  (∀ (s : State) (q : SourceTime) (i : Fin 2) (n : Nat) (o : Int) (r p : Int) (t : Nat), s.zone.logicRuns = true →
    s.zone.source = 0 → s.zone.fld pTIME TIME0.TIME_STATUS_SOURCE_NOW ≠ 3 →
    i = (if s.zone.fld pTIME TIME0.TIME_STATUS_SOURCE_NOW = 1 then 1 else 0) → s.zone.slavePort i = some n →
    o = (q.origin + SMap.get (fun _ => 0) s.zone.time.delays (s.zone.delayKey i n) + s.zone.ringCorrection n - q.stamp).tdiv 256 →
    s.zone.time.waiting = none → s.zone.flag pTIME TIME0.TIME_STATUS_REFUSING = false → s.zone.tstate ≠ 0 →
    (s.zone.tstate = 1 → s.zone.coarseWindow < o.natAbs) → o.natAbs ≤ s.zone.slewLimit →
    t = (s.zone.time.lastUsed.map fun u => s.zone.nowNs - u).getD 0 →
    r = s.zone.time.rateTerm + (servoDiv ((o - s.zone.time.resid) * 1000000000) t).tdiv 4 →
    p = max (-(s.zone.fld pTIME TIME0.SERVO_CFG_PHASE_PPM * 1000 : Int)) (min (s.zone.fld pTIME TIME0.SERVO_CFG_PHASE_PPM * 1000 : Int) (servoDiv (o * 1000000000) t)) →
    Completes (.servoMeasurement q) s fun z =>
      z.tstate = 2 ∧ z.time.net = s.zone.time.net ∧ z.time.rateTerm = r ∧ z.time.phaseTerm = p ∧
      z.time.resid = o - (p * t).tdiv 1000000000 ∧ z.time.lastUsed = some s.zone.nowNs ∧ z.time.excess = 0 ∧ z.inc = incOf r p ∧
      z.flag pTIME TIME0.TIME_STATUS_SLEWING = decide (p ≠ 0) ∧
      (s.zone.tstate = 3 → z.flag pTIME TIME0.TIME_EVENT_HOLDOVER_EXIT = true ∧ z.time.holdoverSince = none) ∧
      z.fld pTIME TIME0.TIME_COUNTS_STEPS = s.zone.fld pTIME TIME0.TIME_COUNTS_STEPS ∧
      (-2147483648 ≤ o ∧ o < 2147483648 → z.fldS pTIME TIME0.OFFSET_NS = o) ∧ s.zone.BankFrame [8] [.time, .freeNext] z) ∧
  (∀ (s : State) (q : SourceTime) (i : Fin 2) (n : Nat) (o : Int) (k : Nat), s.zone.logicRuns = true → s.zone.source = 0 →
    s.zone.fld pTIME TIME0.TIME_STATUS_SOURCE_NOW ≠ 3 →
    i = (if s.zone.fld pTIME TIME0.TIME_STATUS_SOURCE_NOW = 1 then 1 else 0) → s.zone.slavePort i = some n →
    o = (q.origin + SMap.get (fun _ => 0) s.zone.time.delays (s.zone.delayKey i n) + s.zone.ringCorrection n - q.stamp).tdiv 256 →
    s.zone.time.waiting = none → s.zone.flag pTIME TIME0.TIME_STATUS_REFUSING = false →
    k = (if s.zone.tstate = 0 ∨ (s.zone.tstate = 1 ∧ o.natAbs ≤ s.zone.coarseWindow) then 1 else 0) →
    (k = 1 ∨ (s.zone.slewLimit < o.natAbs ∧ o.natAbs ≤ s.zone.jumpThresh)) → Completes (.servoMeasurement q) s fun z =>
      z.tstate = 2 ∧ z.time.net = s.zone.time.net.step o ∧ z.time.copy = s.zone.time.copy.step o ∧
      z.time.lastStep = some s.zone.mono ∧ z.time.phaseTerm = 0 ∧ z.time.rateTerm = s.zone.time.rateTerm ∧ z.time.resid = 0 ∧
      z.flag pTIME TIME0.TIME_EVENT_STEPPED = true ∧
      z.fld pTIME TIME0.TIME_COUNTS_STEPS = min (s.zone.fld pTIME TIME0.TIME_COUNTS_STEPS + 1) 255 ∧
      (z.nowNs = (s.zone.nowNs + o).toNat % (2 ^ 48 * 1000000000) ∨ s.zone.nowNs + o < 0 ∨ 2 ^ 48 * 1000000000 ≤ s.zone.nowNs + o) ∧
      SMap.get (fun _ => none) z.pauses (pauseKeeper .A) = some z.nowNs ∧ SMap.get (fun _ => none) z.pauses (pauseKeeper .B) = some z.nowNs ∧
      z.SameMemory s.zone ∧ z.time.lastUsed = some z.nowNs ∧ z.time.excess = 0 ∧
      (k = 1 → z.flag pTIME TIME0.TIME_EVENT_ACQUIRED = true) ∧
      (k = 0 → z.flag pTIME TIME0.TIME_EVENT_ACQUIRED = s.zone.flag pTIME TIME0.TIME_EVENT_ACQUIRED) ∧
      z.tickets = s.zone.tickets ∧ z.inputs = s.zone.inputs ∧ z.keyring = s.zone.keyring) ∧
  (∀ (s : State) (q : SourceTime) (i : Fin 2) (n : Nat) (o : Int), s.zone.logicRuns = true → s.zone.source = 0 →
    s.zone.fld pTIME TIME0.TIME_STATUS_SOURCE_NOW ≠ 3 →
    i = (if s.zone.fld pTIME TIME0.TIME_STATUS_SOURCE_NOW = 1 then 1 else 0) → s.zone.slavePort i = some n →
    o = (q.origin + SMap.get (fun _ => 0) s.zone.time.delays (s.zone.delayKey i n) + s.zone.ringCorrection n - q.stamp).tdiv 256 →
    s.zone.time.waiting = none → s.zone.flag pTIME TIME0.TIME_STATUS_REFUSING = false → s.zone.tstate ≠ 0 →
    (s.zone.tstate = 1 → s.zone.coarseWindow < o.natAbs) → s.zone.slewLimit < o.natAbs → s.zone.jumpThresh < o.natAbs →
    s.zone.time.excess + 1 < s.zone.fld pTIME TIME0.SERVO_CFG_REFUSE_COUNT → Completes (.servoMeasurement q) s fun z =>
      z.time.excess = s.zone.time.excess + 1 ∧
      z.time.net = s.zone.time.net ∧ z.time.phaseTerm = 0 ∧ z.time.rateTerm = s.zone.time.rateTerm ∧ z.time.lastUsed = s.zone.time.lastUsed ∧
      z.tstate = s.zone.tstate ∧
      (s.zone.time.phaseTerm ≠ 0 → z.inc = incOf s.zone.time.rateTerm 0 ∧ z.flag pTIME TIME0.TIME_STATUS_SLEWING = false) ∧
      z.flag pTIME TIME0.TIME_STATUS_REFUSING = false ∧ (-2147483648 ≤ o ∧ o < 2147483648 → z.fldS pTIME TIME0.OFFSET_NS = o) ∧
      s.zone.BankFrame [8] [.time, .freeNext] z) ∧
  (∀ (s : State) (q : SourceTime) (i : Fin 2) (n : Nat) (o : Int), s.zone.logicRuns = true → s.zone.source = 0 →
    s.zone.fld pTIME TIME0.TIME_STATUS_SOURCE_NOW ≠ 3 →
    i = (if s.zone.fld pTIME TIME0.TIME_STATUS_SOURCE_NOW = 1 then 1 else 0) → s.zone.slavePort i = some n →
    o = (q.origin + SMap.get (fun _ => 0) s.zone.time.delays (s.zone.delayKey i n) + s.zone.ringCorrection n - q.stamp).tdiv 256 →
    s.zone.time.waiting = none → s.zone.flag pTIME TIME0.TIME_STATUS_REFUSING = false → s.zone.tstate ≠ 0 →
    (s.zone.tstate = 1 → s.zone.coarseWindow < o.natAbs) → s.zone.slewLimit < o.natAbs → s.zone.jumpThresh < o.natAbs →
    s.zone.fld pTIME TIME0.SERVO_CFG_REFUSE_COUNT ≤ s.zone.time.excess + 1 → Completes (.servoMeasurement q) s fun z =>
      z.flag pTIME TIME0.TIME_STATUS_REFUSING = true ∧ z.flag pTIME TIME0.TIME_EVENT_JUMP_REFUSED = true ∧
      (-2147483648 ≤ o ∧ o < 2147483648 → z.fldS pTIME TIME0.REFUSED_OFFSET_NS = o) ∧
      z.fld pTIME TIME0.TIME_COUNTS_REFUSED = min (s.zone.fld pTIME TIME0.TIME_COUNTS_REFUSED + 1) 255 ∧
      z.time.net = s.zone.time.net ∧ z.time.excess = 0 ∧ z.time.good = 0 ∧ z.time.phaseTerm = 0 ∧
      z.tstate = (if s.zone.tstate = 2 then 3 else s.zone.tstate) ∧
      (s.zone.tstate = 2 → z.flag pTIME TIME0.TIME_EVENT_HOLDOVER_ENTER = true ∧ z.time.holdoverSince = some s.zone.mono) ∧
      (s.zone.records.length < 256 → z.records.length = s.zone.records.length + 1) ∧
      (-2147483648 ≤ o ∧ o < 2147483648 → z.fldS pTIME TIME0.OFFSET_NS = o) ∧
      s.zone.BankFrame [8, 10] [.time, .records, .log, .freeNext] z) ∧
  (∀ (s : State) (q : SourceTime) (i : Fin 2) (n : Nat) (o : Int) (g : Nat), s.zone.logicRuns = true → s.zone.source = 0 →
    s.zone.fld pTIME TIME0.TIME_STATUS_SOURCE_NOW ≠ 3 →
    i = (if s.zone.fld pTIME TIME0.TIME_STATUS_SOURCE_NOW = 1 then 1 else 0) → s.zone.slavePort i = some n →
    o = (q.origin + SMap.get (fun _ => 0) s.zone.time.delays (s.zone.delayKey i n) + s.zone.ringCorrection n - q.stamp).tdiv 256 →
    s.zone.time.waiting = none → s.zone.flag pTIME TIME0.TIME_STATUS_REFUSING = true → g = s.zone.time.good + 1 →
    (s.zone.jumpThresh < o.natAbs ∨ g < s.zone.fld pTIME TIME0.SERVO_CFG_REFUSE_COUNT) →
    Completes (.servoMeasurement q) s fun z =>
      z.time = { s.zone.time with good := if o.natAbs ≤ s.zone.jumpThresh then g else 0 } ∧
      z.flag pTIME TIME0.TIME_STATUS_REFUSING = true ∧ (-2147483648 ≤ o ∧ o < 2147483648 → z.fldS pTIME TIME0.OFFSET_NS = o) ∧
      s.zone.Frame [pTIME + TIME0.OFFSET_NS.off] [.time] z) ∧
  (∀ (s : State) (q : SourceTime) (i : Fin 2) (n : Nat) (o : Int), s.zone.logicRuns = true → s.zone.source = 0 →
    s.zone.fld pTIME TIME0.TIME_STATUS_SOURCE_NOW ≠ 3 →
    i = (if s.zone.fld pTIME TIME0.TIME_STATUS_SOURCE_NOW = 1 then 1 else 0) → s.zone.slavePort i = some n →
    o = (q.origin + SMap.get (fun _ => 0) s.zone.time.delays (s.zone.delayKey i n) + s.zone.ringCorrection n - q.stamp).tdiv 256 →
    s.zone.time.waiting = none → s.zone.flag pTIME TIME0.TIME_STATUS_REFUSING = true → o.natAbs ≤ s.zone.jumpThresh →
    s.zone.fld pTIME TIME0.SERVO_CFG_REFUSE_COUNT ≤ s.zone.time.good + 1 → s.zone.tstate = 3 →
    Completes (.servoMeasurement q) s fun z =>
      z.flag pTIME TIME0.TIME_STATUS_REFUSING = false ∧ z.tstate = 2 ∧ z.flag pTIME TIME0.TIME_EVENT_HOLDOVER_EXIT = true ∧
      (o.natAbs ≤ s.zone.slewLimit → z.time.net = s.zone.time.net ∧ z.time.lastUsed = some s.zone.nowNs) ∧
      (s.zone.slewLimit < o.natAbs → z.time.net = s.zone.time.net.step o ∧ z.flag pTIME TIME0.TIME_EVENT_STEPPED = true) ∧
      z.flag pTIME TIME0.TIME_EVENT_JUMP_REFUSED = s.zone.flag pTIME TIME0.TIME_EVENT_JUMP_REFUSED ∧ z.SameMemory s.zone) ∧
  (∀ (s : State) (q : SourceTime) (i : Fin 2) (n : Nat) (o : Int) (y : WaitingStep), s.zone.logicRuns = true →
    s.zone.source = 0 → s.zone.fld pTIME TIME0.TIME_STATUS_SOURCE_NOW ≠ 3 →
    i = (if s.zone.fld pTIME TIME0.TIME_STATUS_SOURCE_NOW = 1 then 1 else 0) → s.zone.slavePort i = some n →
    o = (q.origin + SMap.get (fun _ => 0) s.zone.time.delays (s.zone.delayKey i n) + s.zone.ringCorrection n - q.stamp).tdiv 256 →
    s.zone.time.waiting = some y → Completes (.servoMeasurement q) s fun z =>
      z.tstate = 2 ∧ z.time.net = s.zone.time.net.step o ∧ z.time.copy = s.zone.time.copy.step o ∧
      z.time.lastStep = some s.zone.mono ∧ z.time.phaseTerm = 0 ∧ z.time.rateTerm = s.zone.time.rateTerm ∧ z.time.resid = 0 ∧
      z.flag pTIME TIME0.TIME_EVENT_STEPPED = true ∧
      z.fld pTIME TIME0.TIME_COUNTS_STEPS = min (s.zone.fld pTIME TIME0.TIME_COUNTS_STEPS + 1) 255 ∧
      (z.nowNs = (s.zone.nowNs + o).toNat % (2 ^ 48 * 1000000000) ∨ s.zone.nowNs + o < 0 ∨ 2 ^ 48 * 1000000000 ≤ s.zone.nowNs + o) ∧
      SMap.get (fun _ => none) z.pauses (pauseKeeper .A) = some z.nowNs ∧ SMap.get (fun _ => none) z.pauses (pauseKeeper .B) = some z.nowNs ∧
      z.SameMemory s.zone ∧ z.time.waiting = none ∧ z.flag pTIME TIME0.TIME_STATUS_REFUSING = false ∧ z.time.excess = 0 ∧
      z.lastAnswer = some (12, y.seq, 0, leBytes 4 0 ++ leBytes 8 (ofSigned 64 o))) ∧
  (∀ (s : State) (i : Fin 2) (t : Nat), t = (if i = 0 then s.zone.time.syncAt0 else s.zone.time.syncAt1) →
    2 * s.zone.mono < 2 * t + 3 * s.zone.syncInterval i → Completes (.sourceLost i) s fun z =>
      s.zone.Frame [] [] z) ∧
  (∀ (s : State) (i : Fin 2) (t : Nat), s.zone.logicRuns = true →
    t = (if i = 0 then s.zone.time.syncAt0 else s.zone.time.syncAt1) → 2 * t + 3 * s.zone.syncInterval i ≤ 2 * s.zone.mono →
    Completes (.sourceLost i) s fun z =>
      z.flag pTIME (if i = 0 then TIME0.INST_STATUS_LOCKED0 else TIME0.INST_STATUS_LOCKED1) = false ∧
      z.flag pTIME (if i = 0 then TIME0.INST_STATUS_LOCKED1 else TIME0.INST_STATUS_LOCKED0) = s.zone.flag pTIME (if i = 0 then TIME0.INST_STATUS_LOCKED1 else TIME0.INST_STATUS_LOCKED0) ∧
      (if i = 0 then z.time.syncs0 else z.time.syncs1) = 0 ∧
      z.fld pTIME TIME0.TIME_STATUS_SOURCE_NOW = (if s.zone.source = 0 then (if z.flag pTIME TIME0.INST_STATUS_LOCKED0 then 0 else if s.zone.flag pTIME TIME0.SERVO_CFG_RING && z.flag pTIME TIME0.INST_STATUS_LOCKED1 then 1 else 3) else if s.zone.source = 1 then (if z.flag pTIME TIME0.TIME_STATUS_PPS_SEEN then 2 else 3) else 3) ∧
      z.flag pTIME TIME0.TIME_STATUS_GM = decide (s.zone.source = 1 ∨ s.zone.source = 2) ∧
      ((s.zone.fld pTIME TIME0.TIME_STATUS_SOURCE_NOW = 0 ∧ z.fld pTIME TIME0.TIME_STATUS_SOURCE_NOW = 1) ∨ (s.zone.fld pTIME TIME0.TIME_STATUS_SOURCE_NOW = 1 ∧ z.fld pTIME TIME0.TIME_STATUS_SOURCE_NOW = 0) → z.flag pTIME TIME0.TIME_EVENT_SOURCE_SWITCH = true ∧ z.fld pTIME TIME0.TIME_COUNTS_GM_CHANGES = min (s.zone.fld pTIME TIME0.TIME_COUNTS_GM_CHANGES + 1) 255 ∧ z.time.phaseTerm = 0) ∧
      z.tstate = (if z.fld pTIME TIME0.TIME_STATUS_SOURCE_NOW = 3 ∧ s.zone.source < 2 ∧ s.zone.tstate = 2 then 3 else s.zone.tstate) ∧
      (z.tstate = 3 ∧ s.zone.tstate = 2 → z.flag pTIME TIME0.TIME_EVENT_HOLDOVER_ENTER = true ∧ z.fld pTIME TIME0.TIME_COUNTS_HOLDOVERS = min (s.zone.fld pTIME TIME0.TIME_COUNTS_HOLDOVERS + 1) 255 ∧ z.time.phaseTerm = 0 ∧ z.time.holdoverSince = some s.zone.mono) ∧
      z.time.net = s.zone.time.net ∧ s.zone.BankFrame [8, 9] [.time, .freeNext] z) ∧
  (∀ (s : State) (stamp : Nat), s.zone.source ≠ 1 → Completes (.ppsEdge stamp) s fun z =>
      s.zone.Frame [] [] z) ∧
  (∀ (s : State) (stamp next : Nat) (o : Int), s.zone.logicRuns = true → s.zone.source = 1 →
    (s.zone.tstate = 2 ∨ s.zone.tstate = 3) →
    next = s.zone.fld pTIME TIME0.PPS_NEXT_SEC_LO_SEC + s.zone.fld pTIME TIME0.PPS_NEXT_SEC_HI_SEC * 2 ^ 32 →
    o = (next * 1000000000 : Nat) - (stamp + s.zone.fld pTIME TIME0.PPS_CFG_DELAY_NS : Nat) →
    s.zone.fld pTIME TIME0.PPS_CFG_WINDOW * 1000 < o.natAbs → Completes (.ppsEdge stamp) s fun z =>
      z.fld pTIME TIME0.PPS_COUNTS_OUTSIDE_WINDOW = min (s.zone.fld pTIME TIME0.PPS_COUNTS_OUTSIDE_WINDOW + 1) 65535 ∧
      z.fld pTIME TIME0.PPS_COUNTS_EDGES = s.zone.fld pTIME TIME0.PPS_COUNTS_EDGES ∧
      s.zone.Frame [pTIME + TIME0.PPS_COUNTS_EDGES.off] [] z) ∧
  (∀ (s : State) (stamp next : Nat) (o : Int), s.zone.logicRuns = true → s.zone.source = 1 →
    next = s.zone.fld pTIME TIME0.PPS_NEXT_SEC_LO_SEC + s.zone.fld pTIME TIME0.PPS_NEXT_SEC_HI_SEC * 2 ^ 32 →
    o = (next * 1000000000 : Nat) - (stamp + s.zone.fld pTIME TIME0.PPS_CFG_DELAY_NS : Nat) →
    ((s.zone.tstate ≠ 2 ∧ s.zone.tstate ≠ 3) ∨ o.natAbs ≤ s.zone.fld pTIME TIME0.PPS_CFG_WINDOW * 1000) →
    Completes (.ppsEdge stamp) s fun z =>
      z.flag pTIME TIME0.TIME_STATUS_PPS_SEEN = true ∧ z.fld pTIME TIME0.TIME_STATUS_SOURCE_NOW = 2 ∧
      z.fld pTIME TIME0.PPS_COUNTS_EDGES = min (s.zone.fld pTIME TIME0.PPS_COUNTS_EDGES + 1) 65535 ∧
      z.fld pTIME TIME0.PPS_NEXT_SEC_LO_SEC + z.fld pTIME TIME0.PPS_NEXT_SEC_HI_SEC * 2 ^ 32 = (next + 1) % 2 ^ 48 ∧
      z.time.ppsUsed = some s.zone.mono ∧
      (s.zone.flag pTIME TIME0.TIME_STATUS_REFUSING = false ∧ s.zone.time.waiting = none ∧ (s.zone.tstate = 2 ∨ s.zone.tstate = 3) ∧ o.natAbs ≤ s.zone.slewLimit → z.tstate = 2 ∧ z.time.net = s.zone.time.net ∧ z.time.lastUsed = some s.zone.nowNs) ∧
      (s.zone.flag pTIME TIME0.TIME_STATUS_REFUSING = false ∧ s.zone.time.waiting = none ∧ s.zone.tstate = 0 → z.tstate = 2 ∧ z.time.net = s.zone.time.net.step o) ∧
      (-2147483648 ≤ o ∧ o < 2147483648 → z.fldS pTIME TIME0.OFFSET_NS = o) ∧ z.SameMemory s.zone) ∧
  (∀ (s : State) (t : Nat), s.zone.logicRuns = true → s.zone.time.ppsUsed = some t → s.zone.source = 1 →
    t + 375000000 ≤ s.zone.mono → Completes (.ppsLost) s fun z =>
      z.flag pTIME TIME0.TIME_STATUS_PPS_SEEN = false ∧ z.flag pTIME TIME0.TIME_EVENT_PPS_LOST = true ∧ z.time.ppsUsed = none ∧
      z.fld pTIME TIME0.TIME_STATUS_SOURCE_NOW = (if s.zone.source = 0 then (if z.flag pTIME TIME0.INST_STATUS_LOCKED0 then 0 else if s.zone.flag pTIME TIME0.SERVO_CFG_RING && z.flag pTIME TIME0.INST_STATUS_LOCKED1 then 1 else 3) else if s.zone.source = 1 then (if z.flag pTIME TIME0.TIME_STATUS_PPS_SEEN then 2 else 3) else 3) ∧
      z.flag pTIME TIME0.TIME_STATUS_GM = decide (s.zone.source = 1 ∨ s.zone.source = 2) ∧
      ((s.zone.fld pTIME TIME0.TIME_STATUS_SOURCE_NOW = 0 ∧ z.fld pTIME TIME0.TIME_STATUS_SOURCE_NOW = 1) ∨ (s.zone.fld pTIME TIME0.TIME_STATUS_SOURCE_NOW = 1 ∧ z.fld pTIME TIME0.TIME_STATUS_SOURCE_NOW = 0) → z.flag pTIME TIME0.TIME_EVENT_SOURCE_SWITCH = true ∧ z.fld pTIME TIME0.TIME_COUNTS_GM_CHANGES = min (s.zone.fld pTIME TIME0.TIME_COUNTS_GM_CHANGES + 1) 255 ∧ z.time.phaseTerm = 0) ∧
      z.tstate = (if z.fld pTIME TIME0.TIME_STATUS_SOURCE_NOW = 3 ∧ s.zone.source < 2 ∧ s.zone.tstate = 2 then 3 else s.zone.tstate) ∧
      (z.tstate = 3 ∧ s.zone.tstate = 2 → z.flag pTIME TIME0.TIME_EVENT_HOLDOVER_ENTER = true ∧ z.fld pTIME TIME0.TIME_COUNTS_HOLDOVERS = min (s.zone.fld pTIME TIME0.TIME_COUNTS_HOLDOVERS + 1) 255 ∧ z.time.phaseTerm = 0 ∧ z.time.holdoverSince = some s.zone.mono) ∧
      z.time.net = s.zone.time.net ∧ s.zone.BankFrame [8, 9] [.time, .freeNext] z) ∧
  (∀ (s : State), (s.zone.time.ppsUsed.all (fun t => decide (s.zone.mono < t + 375000000)) = true ∨ s.zone.source ≠ 1) →
    Completes (.ppsLost) s fun z =>
      s.zone.Frame [] [] z) ∧
  (∀ (s : State) (port : Fin 28) (i : Fin 2) (m : PtpMessage), s.zone.time.inbox.find? (fun y => y.1 == port.val) = none →
    (s.zone.portUp port.val = false ∨ 24 ≤ port.val) → Completes (.ptpMessageReceive port i m) s fun z =>
      s.zone.Frame [] [] z) ∧
  (∀ (s : State) (port : Fin 28) (i : Fin 2) (m : PtpMessage) (x : Option (Nat × List Byte)), s.zone.logicRuns = true →
    x = s.zone.time.inbox.find? (fun y => y.1 == port.val) →
    (x.isSome = true ∨ (s.zone.portUp port.val = true ∧ port.val < 24)) →
    (m.body = .other ∨ (¬ (s.zone.ptpFld i TIME0.INST0_CFG_EN TIME0.INST1_CFG_EN = 1 ∧ m.domain.toNat = s.zone.ptpFld i TIME0.INST0_CFG_DOMAIN TIME0.INST1_CFG_DOMAIN) ∧ (s.zone.ptpFld i TIME0.INST0_CFG_EN TIME0.INST1_CFG_EN ≠ 1 ∨ s.zone.delayKey i port.val < 64 ∨ (match m.body with | .linkDelay _ => false | _ => true) = true))) →
    Completes (.ptpMessageReceive port i m) s fun z =>
      z.time.inbox = (match x with | some y => s.zone.time.inbox.erase y | none => s.zone.time.inbox) ∧
      z.statVal (statPort port.val 0) = (if x.isSome then s.zone.statVal (statPort port.val 0) else satU 64 (s.zone.statVal (statPort port.val 0) + 1)) ∧
      z.switch.voqs = s.zone.switch.voqs ∧ z.switch.egr = s.zone.switch.egr ∧ z.time.net = s.zone.time.net ∧
      { z.time with inbox := s.zone.time.inbox } = s.zone.time ∧ s.zone.Frame [] [.switch, .time] z) ∧
  (∀ (s : State) (port : Fin 28) (i : Fin 2) (m : PtpMessage) (x : Option (Nat × List Byte)) (a : Master) (u : Option (BitVec 16)) (id : Nat),
    s.zone.logicRuns = true → x = s.zone.time.inbox.find? (fun y => y.1 == port.val) →
    (x.isSome = true ∨ (s.zone.portUp port.val = true ∧ port.val < 24)) →
    (s.zone.ptpFld i TIME0.INST0_CFG_EN TIME0.INST1_CFG_EN = 1 ∧ m.domain.toNat = s.zone.ptpFld i TIME0.INST0_CFG_DOMAIN TIME0.INST1_CFG_DOMAIN) →
    m.body = .announce a u → port.val < 4 →
    id = s.zone.fld pTIME (if i = 0 then TIME0.GM0_HI_ID else TIME0.GM1_HI_ID) * 2 ^ 32 + s.zone.fld pTIME (if i = 0 then TIME0.GM0_LO_ID else TIME0.GM1_LO_ID) →
    Completes (.ptpMessageReceive port i m) s fun z =>
      z.time.inbox = (match x with | some y => s.zone.time.inbox.erase y | none => s.zone.time.inbox) ∧
      z.statVal (statPort port.val 0) = (if x.isSome then s.zone.statVal (statPort port.val 0) else satU 64 (s.zone.statVal (statPort port.val 0) + 1)) ∧
      z.switch.voqs = s.zone.switch.voqs ∧ z.switch.egr = s.zone.switch.egr ∧ z.time.net = s.zone.time.net ∧
      z.ptpMaster i port.val = some a ∧
      (z.slavePort i = some port.val → z.fld pTIME (if i = 0 then TIME0.GM0_HI_ID else TIME0.GM1_HI_ID) * 2 ^ 32 + z.fld pTIME (if i = 0 then TIME0.GM0_LO_ID else TIME0.GM1_LO_ID) = a.gm.toNat) ∧
      (z.slavePort i = some port.val ∧ id ≠ a.gm.toNat → z.flag pTIME TIME0.TIME_EVENT_GM_CHANGE = true ∧ z.fld pTIME TIME0.TIME_COUNTS_GM_CHANGES = min (s.zone.fld pTIME TIME0.TIME_COUNTS_GM_CHANGES + 1) 255 ∧ (s.zone.fld pTIME TIME0.TIME_STATUS_SOURCE_NOW = i.val → z.time.phaseTerm = 0)) ∧
      (∀ v ∈ u, z.slavePort i = some port.val → z.flag pTIME TIME0.UTC_OFFSET_VALID = true ∧ z.fld pTIME TIME0.UTC_OFFSET_SECONDS = v.toNat) ∧
      z.tstate = s.zone.tstate ∧ s.zone.BankFrame [8] [.switch, .time, .freeNext] z) ∧
  (∀ (s : State) (port : Fin 28) (i : Fin 2) (m : PtpMessage) (x : Option (Nat × List Byte)) (og st : Int) (n t k : Nat),
    s.zone.logicRuns = true → x = s.zone.time.inbox.find? (fun y => y.1 == port.val) →
    (x.isSome = true ∨ (s.zone.portUp port.val = true ∧ port.val < 24)) →
    (s.zone.ptpFld i TIME0.INST0_CFG_EN TIME0.INST1_CFG_EN = 1 ∧ m.domain.toNat = s.zone.ptpFld i TIME0.INST0_CFG_DOMAIN TIME0.INST1_CFG_DOMAIN) →
    m.body = .syncFollowUp og st → s.zone.slavePort i = some port.val →
    n = (if i = 0 then s.zone.time.syncs0 else s.zone.time.syncs1) →
    t = (if i = 0 then s.zone.time.syncAt0 else s.zone.time.syncAt1) →
    k = (if n = 0 ∨ 2 * t + 3 * s.zone.syncInterval i ≤ 2 * s.zone.mono then 1 else if 2 * s.zone.mono < 2 * t + s.zone.syncInterval i then n else min 3 (n + 1)) →
    Completes (.ptpMessageReceive port i m) s fun z =>
      z.time.inbox = (match x with | some y => s.zone.time.inbox.erase y | none => s.zone.time.inbox) ∧
      z.statVal (statPort port.val 0) = (if x.isSome then s.zone.statVal (statPort port.val 0) else satU 64 (s.zone.statVal (statPort port.val 0) + 1)) ∧
      z.switch.voqs = s.zone.switch.voqs ∧ z.switch.egr = s.zone.switch.egr ∧ z.time.net = s.zone.time.net ∧
      (if i = 0 then z.time.syncs0 else z.time.syncs1) = k ∧
      ((if i = 0 then z.time.syncAt0 else z.time.syncAt1) = if n ≠ 0 ∧ 2 * s.zone.mono < 2 * t + s.zone.syncInterval i then t else s.zone.mono) ∧
      z.flag pTIME (if i = 0 then TIME0.INST_STATUS_LOCKED0 else TIME0.INST_STATUS_LOCKED1) = decide (k = 3) ∧
      z.flag pTIME (if i = 0 then TIME0.INST_STATUS_LOCKED1 else TIME0.INST_STATUS_LOCKED0) = s.zone.flag pTIME (if i = 0 then TIME0.INST_STATUS_LOCKED1 else TIME0.INST_STATUS_LOCKED0) ∧
      z.fld pTIME TIME0.TIME_STATUS_SOURCE_NOW = (if s.zone.source = 0 then (if z.flag pTIME TIME0.INST_STATUS_LOCKED0 then 0 else if s.zone.flag pTIME TIME0.SERVO_CFG_RING && z.flag pTIME TIME0.INST_STATUS_LOCKED1 then 1 else 3) else if s.zone.source = 1 then (if z.flag pTIME TIME0.TIME_STATUS_PPS_SEEN then 2 else 3) else 3) ∧
      z.flag pTIME TIME0.TIME_STATUS_GM = decide (s.zone.source = 1 ∨ s.zone.source = 2) ∧
      ((s.zone.fld pTIME TIME0.TIME_STATUS_SOURCE_NOW = 0 ∧ z.fld pTIME TIME0.TIME_STATUS_SOURCE_NOW = 1) ∨ (s.zone.fld pTIME TIME0.TIME_STATUS_SOURCE_NOW = 1 ∧ z.fld pTIME TIME0.TIME_STATUS_SOURCE_NOW = 0) → z.flag pTIME TIME0.TIME_EVENT_SOURCE_SWITCH = true ∧ z.fld pTIME TIME0.TIME_COUNTS_GM_CHANGES = min (s.zone.fld pTIME TIME0.TIME_COUNTS_GM_CHANGES + 1) 255 ∧ z.time.phaseTerm = 0) ∧
      z.tstate = (if z.fld pTIME TIME0.TIME_STATUS_SOURCE_NOW = 3 ∧ s.zone.source < 2 ∧ s.zone.tstate = 2 then 3 else s.zone.tstate) ∧
      (z.tstate = 3 ∧ s.zone.tstate = 2 → z.flag pTIME TIME0.TIME_EVENT_HOLDOVER_ENTER = true ∧ z.fld pTIME TIME0.TIME_COUNTS_HOLDOVERS = min (s.zone.fld pTIME TIME0.TIME_COUNTS_HOLDOVERS + 1) 255 ∧ z.time.phaseTerm = 0 ∧ z.time.holdoverSince = some s.zone.mono) ∧
      s.zone.BankFrame [8, 9] [.switch, .time, .freeNext] z) ∧
  (∀ (s : State) (port : Fin 28) (i : Fin 2) (m : PtpMessage) (x : Option (Nat × List Byte)) (d : Int), s.zone.logicRuns = true →
    x = s.zone.time.inbox.find? (fun y => y.1 == port.val) →
    (x.isSome = true ∨ (s.zone.portUp port.val = true ∧ port.val < 24)) → m.body = .linkDelay d →
    ((s.zone.ptpFld i TIME0.INST0_CFG_EN TIME0.INST1_CFG_EN = 1 ∧ m.domain.toNat = s.zone.ptpFld i TIME0.INST0_CFG_DOMAIN TIME0.INST1_CFG_DOMAIN) ∨ (s.zone.ptpFld i TIME0.INST0_CFG_EN TIME0.INST1_CFG_EN = 1 ∧ 64 ≤ s.zone.delayKey i port.val)) →
    Completes (.ptpMessageReceive port i m) s fun z =>
      z.time.inbox = (match x with | some y => s.zone.time.inbox.erase y | none => s.zone.time.inbox) ∧
      z.statVal (statPort port.val 0) = (if x.isSome then s.zone.statVal (statPort port.val 0) else satU 64 (s.zone.statVal (statPort port.val 0) + 1)) ∧
      z.switch.voqs = s.zone.switch.voqs ∧ z.switch.egr = s.zone.switch.egr ∧ z.time.net = s.zone.time.net ∧
      SMap.get (fun _ => 0) z.time.delays (s.zone.delayKey i port.val) = d ∧
      { z.time with inbox := s.zone.time.inbox, delays := s.zone.time.delays } = s.zone.time ∧ s.zone.Frame [] [.switch, .time] z) ∧
  (∀ (s : State) (port : Fin 28) (i : Fin 2) (m : PtpSend), s.zone.logicRuns = true → s.zone.sendingClass port.val = none →
    (match m.kind with | .linkDelay => decide (s.zone.ptpRole i port.val ≠ .off) | .announce => decide (s.zone.ptpRole i port.val = .master) | _ => decide (s.zone.ptpRole i port.val = .master ∧ (s.zone.source ≠ 0 ∨ (s.zone.slavePort i).isSome = true))) = true →
    Completes (.ptpTransmit port i m) s fun z =>
      z.statVal (statPort port.val 8) = satU 64 (s.zone.statVal (statPort port.val 8) + 1) ∧
      z.statVal (statPort port.val 9) = satU 64 (s.zone.statVal (statPort port.val 9) + m.octets.toNat) ∧
      { z.switch with stats := s.zone.switch.stats } = s.zone.switch ∧ s.zone.Frame [] [.switch] z) ∧
  (∀ (s : State) (port : Fin 28) (i : Fin 2) (m : PtpSend),
    (s.zone.sendingClass port.val ≠ none ∨ s.zone.ptpRole i port.val = .off ∨ (m.kind ≠ .linkDelay ∧ s.zone.ptpRole i port.val ≠ .master) ∨ ((m.kind = .sync ∨ m.kind = .followUp) ∧ s.zone.source = 0 ∧ s.zone.slavePort i = none)) →
    Completes (.ptpTransmit port i m) s fun z =>
      s.zone.Frame [] [] z) ∧
  (∀ (s : State) (ticks : Nat) (bad : Bool), s.zone.logicRuns = true →
    (bad = true ∨ s.zone.time.net ≠ s.zone.time.copy ∨ ticks < 249750 ∨ 250250 < ticks) →
    Completes (.integrityCheck ticks bad) s fun z =>
      z.flag pTIME TIME0.TIME_STATUS_INTEGRITY_FAULT = true ∧ z.flag pTIME TIME0.TIME_EVENT_INTEGRITY = true ∧
      (s.zone.flag pTIME TIME0.TIME_STATUS_INTEGRITY_FAULT = false → s.zone.Reports z 10 0) ∧
      (s.zone.flag pTIME TIME0.TIME_STATUS_INTEGRITY_FAULT = true → z.safety = s.zone.safety) ∧ z.tstate = s.zone.tstate ∧
      s.zone.Frame [pTIME, pTIME + TIME0.TIME_EVENT_INTEGRITY.off] [.safety] z) ∧
  (∀ (s : State) (ticks : Nat), s.zone.time.net = s.zone.time.copy → 249750 ≤ ticks ∧ ticks ≤ 250250 →
    Completes (.integrityCheck ticks false) s fun z =>
      s.zone.Frame [] [] z) ∧
  (∀ (s : State) (writer : Writer) (port : Fin 28) (e : TsqEntry) (l : List TsqEntry), s.zone.writerActs writer = true →
    s.zone.mayConfigure writer = true → s.zone.tsQueue port.val = e :: l → l.length ≤ 16 →
    Completes (.tsqPop writer port) s fun z =>
      z.tsQueue port.val = l ∧ (∀ p : Fin 28, p ≠ port → z.tsQueue p.val = s.zone.tsQueue p.val) ∧
      z.fld (pTSQ port.val) TSQ.TSQ_STATUS_LEVEL = l.length ∧ z.flag (pTSQ port.val) TSQ.HEAD_TAG_VALID = !l.isEmpty ∧
      z.fld (pTSQ port.val) TSQ.HEAD_TAG_TAG = (l.headD ⟨0, 0, 0, 0⟩).tag.toNat ∧
      z.fld (pTSQ port.val) TSQ.HEAD_NS_NS = (l.headD ⟨0, 0, 0, 0⟩).ns.toNat ∧
      z.fld (pTSQ port.val) TSQ.HEAD_SEC_HI_SEC * 2 ^ 32 + z.fld (pTSQ port.val) TSQ.HEAD_SEC_LO_SEC = (l.headD ⟨0, 0, 0, 0⟩).sec.toNat ∧
      (l = [] → z.flag (pTSQ port.val) TSQ.TSQ_STATUS_OVF = false) ∧ s.zone.BankFrame [8] [.tsq] z) ∧
  (∀ (s : State) (writer : Writer) (port : Fin 28), (s.zone.mayConfigure writer = false ∨ s.zone.tsQueue port.val = []) →
    Completes (.tsqPop writer port) s fun z =>
      s.zone.Frame [] [] z) ∧
  (∀ (s : State) (writer : Writer), s.zone.writerActs writer = true → s.zone.mayConfigure writer = true →
    Completes (.timeSnap writer) s fun z =>
      z.fld pTIME TIME0.SNAP_NS_NS = s.zone.time.net.ns.toNat ∧
      z.fld pTIME TIME0.SNAP_SEC_LO_SEC = s.zone.time.net.sec.toNat % 2 ^ 32 ∧
      z.fld pTIME TIME0.SNAP_SEC_HI_SEC = s.zone.time.net.sec.toNat / 2 ^ 32 ∧
      z.fld pTIME TIME0.SNAP_SEC_HI_FRAC = s.zone.time.net.frac.toNat / 2 ^ 24 ∧
      s.zone.Frame [pTIME + TIME0.SNAP_NS_NS.off, pTIME + TIME0.SNAP_SEC_LO_SEC.off, pTIME + TIME0.SNAP_SEC_HI_SEC.off] [] z) ∧
  (∀ (s : State) (writer : Writer), s.zone.mayConfigure writer = false → Completes (.timeSnap writer) s fun z =>
      s.zone.Frame [] [] z) ∧
  (∀ (s : State) (writer : Writer) (v : BitVec 2),
    (s.zone.mayConfigure writer = false ∨ s.zone.locked pTIME = true ∨ v = 3 ∨ s.zone.source = v.toNat) →
    Completes (.servoSourceWrite writer v) s fun z =>
      s.zone.Frame [] [] z) ∧
  (∀ (s : State) (writer : Writer), s.zone.writerActs writer = true → s.zone.mayConfigure writer = true →
    s.zone.locked pTIME = false → s.zone.source ≠ 2 → Completes (.servoSourceWrite writer 2) s fun z =>
      z.source = 2 ∧ z.tstate = 4 ∧ z.flag pTIME TIME0.TIME_STATUS_GM = true ∧ z.fld pTIME TIME0.TIME_STATUS_SOURCE_NOW = 3 ∧
      z.time.base = (if s.zone.tstate = 2 then 3 else s.zone.tstate) ∧
      z.time.net = s.zone.time.net ∧ z.inc = s.zone.inc ∧ z.time.excess = 0 ∧ z.time.good = 0 ∧
      s.zone.BankFrame [8, 9] [.time, .freeNext] z) ∧
  (∀ (s : State) (writer : Writer) (v : BitVec 2) (b : Nat), s.zone.writerActs writer = true →
    s.zone.mayConfigure writer = true → s.zone.locked pTIME = false → v.toNat < 2 → s.zone.source ≠ v.toNat →
    b = (if s.zone.tstate = 4 then s.zone.time.base else s.zone.tstate) → b < 5 →
    Completes (.servoSourceWrite writer v) s fun z =>
      z.source = v.toNat ∧ z.tstate = (if b = 2 ∧ z.fld pTIME TIME0.TIME_STATUS_SOURCE_NOW = 3 then 3 else b) ∧
      (s.zone.tstate = 4 → z.time.phaseTerm = 0 ∧ z.time.rateTerm = s.zone.time.rateTerm) ∧
      z.flag pTIME TIME0.TIME_STATUS_GM = decide (v = 1) ∧
      z.fld pTIME TIME0.TIME_STATUS_SOURCE_NOW = (if v = 1 then 3 else if s.zone.flag pTIME TIME0.INST_STATUS_LOCKED0 then 0 else if s.zone.flag pTIME TIME0.SERVO_CFG_RING && s.zone.flag pTIME TIME0.INST_STATUS_LOCKED1 then 1 else 3) ∧
      z.time.net = s.zone.time.net ∧ z.time.excess = 0 ∧ z.time.good = 0 ∧ s.zone.BankFrame [8, 9] [.time, .freeNext] z) ∧
  (∀ (s : State) (w : WaitingStep), s.zone.logicRuns = true → s.zone.time.waiting = some w → w.due ≤ s.zone.mono →
    Completes (.forceStepTimeout) s fun z =>
      z.time = { s.zone.time with waiting := none } ∧ z.lastAnswer = some (12, w.seq, 0, [1, 0, 0, 0, 0, 0, 0, 0, 0, 0, 0, 0]) ∧
      s.zone.Frame [] [.time, .supv] z) ∧
  (∀ (s : State), s.zone.time.waiting.all (fun w => decide (s.zone.mono < w.due)) = true →
    Completes (.forceStepTimeout) s fun z =>
      s.zone.Frame [] [] z)

/-- R402, R403, R404, R408, R581, R608: the slot that executes is pending, its AT is reached and none executes before it. In
SERVICE and TEST such an operation executes: PROFILE requests its profile, TABLE_MARK sets its mark, KEY_ROLL rolls every slot of
its set, LOG_SNAPSHOT closes each stream of a running logbook, RESET enters START with a start record; its slot shows EXECUTED,
the count rises and a notice goes out where a session key stands. With no operation of its kind due, or in another state, the
event changes nothing. -/
def Obligations.GlobalOperationsExecuteAtTheirTime : Prop :=
  (∀ (s : State) (k : Nat), s.zone.dueSlot = some k → Gives (s.zone) fun z =>
      k < 16 ∧ s.zone.slotState k = 1 ∧ s.zone.slotAt k ≤ s.zone.nowNs ∧
      (∀ j : Fin 16, s.zone.slotState j.val = 1 → s.zone.slotAt j.val ≤ s.zone.nowNs → s.zone.slotBefore j.val k = false)) ∧
  (∀ (s : State) (c : Instr) (n : Nat),
    (c = .globalLogSnapshot ∧ n = 1 ∨ c = .globalKeyRoll ∧ n = 2 ∨ c = .globalReset ∧ n = 3 ∨ c = .globalProfile ∧ n = 4 ∨ c = .globalTableMark ∧ n = 5) →
    ((s.zone.mode ≠ Mode.service ∧ s.zone.mode ≠ Mode.test) ∨ s.zone.dueSlot.all (fun k => decide (s.zone.slotKind k ≠ n)) = true) →
    Completes (c) s fun z =>
      s.zone.Frame [] [] z) ∧
  (∀ (s : State) (k : Nat), (s.zone.mode = Mode.service ∨ s.zone.mode = Mode.test) → s.zone.dueSlot = some k →
    s.zone.slotKind k = 4 → Completes (.globalProfile) s fun z =>
      z.slotState k = 2 ∧ z.slotKind k = s.zone.slotKind k ∧ z.slotWord k 0 = s.zone.slotWord k 0 ∧
      z.fld pFLEET TIME1.GLOBAL_STATUS_PENDING = z.pendingSlots.length % 32 ∧
      (∀ j : Fin 16, j.val ≠ k → z.slotState j.val = s.zone.slotState j.val) ∧
      z.fld pFLEET TIME1.GLOBAL_COUNTS_EXECUTED = min (s.zone.fld pFLEET TIME1.GLOBAL_COUNTS_EXECUTED + 1) 255 ∧
      (s.zone.supv.sessionKey.isSome = true → z.lastAnswer = some (10, 0, 0, leBytes 4 (s.zone.slotWord k 0) ++ leBytes 4 (b2n (s.zone.time.late.getLsbD k)) ++ s.zone.stamp.bytes)) ∧
      (s.zone.supv.sessionKey = none → z.supv = s.zone.supv) ∧
      z.fld (pZONE 7) ZONE7.PROFILE_REQ = s.zone.slotWord k 5 % 2 ^ ZONE7.PROFILE_REQ.w ∧
      s.zone.Frame [pZONE 7 + ZONE7.PROFILE_REQ.off, pFLEET + 0x104 + 32 * k, pFLEET + TIME1.GLOBAL_STATUS_PENDING.off, pFLEET + TIME1.GLOBAL_COUNTS_EXECUTED.off] [.supv] z) ∧
  (∀ (s : State) (k : Nat), (s.zone.mode = Mode.service ∨ s.zone.mode = Mode.test) → s.zone.dueSlot = some k →
    s.zone.slotKind k = 5 → Completes (.globalTableMark) s fun z =>
      z.slotState k = 2 ∧ z.slotKind k = s.zone.slotKind k ∧ z.slotWord k 0 = s.zone.slotWord k 0 ∧
      z.fld pFLEET TIME1.GLOBAL_STATUS_PENDING = z.pendingSlots.length % 32 ∧
      (∀ j : Fin 16, j.val ≠ k → z.slotState j.val = s.zone.slotState j.val) ∧
      z.fld pFLEET TIME1.GLOBAL_COUNTS_EXECUTED = min (s.zone.fld pFLEET TIME1.GLOBAL_COUNTS_EXECUTED + 1) 255 ∧
      (s.zone.supv.sessionKey.isSome = true → z.lastAnswer = some (10, 0, 0, leBytes 4 (s.zone.slotWord k 0) ++ leBytes 4 (b2n (s.zone.time.late.getLsbD k)) ++ s.zone.stamp.bytes)) ∧
      (s.zone.supv.sessionKey = none → z.supv = s.zone.supv) ∧
      z.fldBit pFLEET TIME1.GLOBAL_MARK_MARK (s.zone.slotWord k 5 % 16) = true ∧
      (∀ j : Fin 16, j.val ≠ s.zone.slotWord k 5 % 16 → z.fldBit pFLEET TIME1.GLOBAL_MARK_MARK j.val = s.zone.fldBit pFLEET TIME1.GLOBAL_MARK_MARK j.val) ∧
      z.time = { s.zone.time with marked := z.time.marked } ∧
      s.zone.Frame [pFLEET + TIME1.GLOBAL_MARK_MARK.off, pFLEET + 0x104 + 32 * k, pFLEET + TIME1.GLOBAL_STATUS_PENDING.off, pFLEET + TIME1.GLOBAL_COUNTS_EXECUTED.off] [.supv, .time] z) ∧
  (∀ (s : State) (k : Nat) (n : Fin 256), (s.zone.mode = Mode.service ∨ s.zone.mode = Mode.test) → s.zone.dueSlot = some k →
    s.zone.slotKind k = 2 → Completes (.globalKeyRoll) s fun z =>
      z.slotState k = 2 ∧ z.slotKind k = s.zone.slotKind k ∧ z.slotWord k 0 = s.zone.slotWord k 0 ∧
      z.fld pFLEET TIME1.GLOBAL_STATUS_PENDING = z.pendingSlots.length % 32 ∧
      (∀ j : Fin 16, j.val ≠ k → z.slotState j.val = s.zone.slotState j.val) ∧
      z.fld pFLEET TIME1.GLOBAL_COUNTS_EXECUTED = min (s.zone.fld pFLEET TIME1.GLOBAL_COUNTS_EXECUTED + 1) 255 ∧
      (s.zone.supv.sessionKey.isSome = true → z.lastAnswer = some (10, 0, 0, leBytes 4 (s.zone.slotWord k 0) ++ leBytes 4 (b2n (s.zone.time.late.getLsbD k)) ++ s.zone.stamp.bytes)) ∧
      (s.zone.supv.sessionKey = none → z.supv = s.zone.supv) ∧
      ((s.zone.keySlot n.val).attr.toNat / 2 ^ 24 % 16 = s.zone.slotWord k 5 % 16 ∧ (s.zone.keySlot n.val).next.isSome = true → z.keySlot n.val = (s.zone.keySlot n.val).rolled) ∧
      ((s.zone.keySlot n.val).attr.toNat / 2 ^ 24 % 16 ≠ s.zone.slotWord k 5 % 16 ∨ (s.zone.keySlot n.val).next = none → z.keySlot n.val = s.zone.keySlot n.val) ∧
      s.zone.BankFrame [8, 11] [.supv, .keyring] z) ∧
  (∀ (s : State) (k : Nat) (n : Fin 64), (s.zone.mode = Mode.service ∨ s.zone.mode = Mode.test) → s.zone.dueSlot = some k →
    s.zone.slotKind k = 1 → Completes (.globalLogSnapshot) s fun z =>
      z.slotState k = 2 ∧ z.slotKind k = s.zone.slotKind k ∧ z.slotWord k 0 = s.zone.slotWord k 0 ∧
      z.fld pFLEET TIME1.GLOBAL_STATUS_PENDING = z.pendingSlots.length % 32 ∧
      (∀ j : Fin 16, j.val ≠ k → z.slotState j.val = s.zone.slotState j.val) ∧
      z.fld pFLEET TIME1.GLOBAL_COUNTS_EXECUTED = min (s.zone.fld pFLEET TIME1.GLOBAL_COUNTS_EXECUTED + 1) 255 ∧
      (s.zone.supv.sessionKey.isSome = true → z.lastAnswer = some (10, 0, 0, leBytes 4 (s.zone.slotWord k 0) ++ leBytes 4 (b2n (s.zone.time.late.getLsbD k)) ++ s.zone.stamp.bytes)) ∧
      (s.zone.supv.sessionKey = none → z.supv = s.zone.supv) ∧
      (s.zone.logRuns = true → z.flag pLOG LOG0.LOG_EVENT_SNAPSHOT = true) ∧
      (s.zone.logRuns = true ∧ s.zone.streamSource n.val ≠ 0 → (z.stream n.val).items.getLast? = some (.close 3)) ∧
      (s.zone.streamSource n.val = 0 → z.stream n.val = s.zone.stream n.val) ∧
      (s.zone.logRuns = false → s.zone.BankFrame [8] [.supv] z) ∧ z.SameMemory s.zone) ∧
  (∀ (s : State) (k : Nat), (s.zone.mode = Mode.service ∨ s.zone.mode = Mode.test) → s.zone.dueSlot = some k →
    s.zone.slotKind k = 3 → Completes (.globalReset) s fun z =>
      z.mode = Mode.start ∧ z.fld (pZONE 0) ZONE0.STATE_ENTRY_CAUSE = 6 ∧
      z.fld (pZONE 6) ZONE6.LAST_REASON_CODE = Reason.globalReset ∧ z.flag (pZONE 0) ZONE0.STATE_SLEEP_PENDING = false ∧
      z.start.released = false ∧ z.supv.executing = [] ∧ z.SameMemory s.zone)

/-! ### CAN, LIN and RS-485 -/

/-- R412, R413, R414, R415, R416, R417, R418, R419, R420, R428, R429: a frame whose format the channel takes lowers REC (above 127
ISO 11898-1 leaves the new value open, log entry 2: any of 119 to 127), ends ALONE and counts as traffic; one that a filter or
ACCEPT_ALL takes is stored in the ring as entry of R419 with the time of its SOF, one too long or filtered is counted, one of a
format not enabled only counts EXCEPTION; a channel that is off, in fall-back or bus-off takes none. The ring of any channel
stores in a TABLE ring at FILL, in a mooring's by a DMA write at BASE; full, quiesced or refused it loses the entry; without owner
it counts. RX_ACK of the owner within what it holds frees, shows the new head; another counts on CAN and changes nothing else. A
due notice of a mooring's ring is sent by its route. An error while receiving raises REC by 1, and by 8 more as ISO 11898-1 has it
(log entry 47). -/
def Obligations.CanFramesAreReceivedIntoTheirRing : Prop :=
  (∀ (s : State) (ch : Fin 16) (fr : CanFrame) (ticks : Nat), s.zone.logicRuns = true → s.zone.canBus ch.val = true →
    s.zone.canBusOff ch.val = false →
    (fr.format = 1 → s.zone.flag (pCAN ch.val) CAN.CHAN_CFG_FD_EN = true) ∧ (fr.format = 2 → s.zone.flag (pCAN ch.val) CAN.CHAN_CFG_XL_EN = true) →
    (s.zone.flag (pCAN ch.val) CAN.CHAN_CFG_ACCEPT_ALL = true ∨ (List.range 32).any (fun k => s.zone.canFilter ch.val k fr) = true) →
    (s.zone.ringKind ch.val = 0 ∨ fr.data.length + 32 ≤ s.zone.entrySize ch.val) →
    Completes (.canFrameReceive ch fr ticks) s fun z =>
      z = (((s.zone.canReceived ch.val).canNotAlone ch.val).heardBus).ringStore ch.val (canEntry fr (s.zone.netAt (s.zone.mono - ticks)) (s.zone.entrySize ch.val))) ∧
  (∀ (s : State) (ch : Fin 16) (fr : CanFrame) (ticks : Nat), s.zone.logicRuns = true → s.zone.canBus ch.val = true →
    s.zone.canBusOff ch.val = false →
    (fr.format = 1 → s.zone.flag (pCAN ch.val) CAN.CHAN_CFG_FD_EN = true) ∧ (fr.format = 2 → s.zone.flag (pCAN ch.val) CAN.CHAN_CFG_XL_EN = true) →
    (s.zone.flag (pCAN ch.val) CAN.CHAN_CFG_ACCEPT_ALL = true ∨ (List.range 32).any (fun k => s.zone.canFilter ch.val k fr) = true) →
    s.zone.ringKind ch.val = 2 → s.zone.ringHeld ch.val < 256 → s.zone.busQuiesced ch.val = false → fr.data.length ≤ 64 →
    Completes (.canFrameReceive ch fr ticks) s fun z =>
      z.fillPtr ch.val = (s.zone.fillPtr ch.val + 1) % 512 ∧
      SMap.get (fun _ => []) (z.ring ch.val).entries (s.zone.fillPtr ch.val % 256) = canEntry fr (s.zone.netAt (s.zone.mono - ticks)) 96 ((s.zone.ring ch.val).seq % 65536) ∧
      (z.ring ch.val).seq = (s.zone.ring ch.val).seq + 1 ∧
      (s.zone.canRec ch.val ≤ 127 → z.canRec ch.val = s.zone.canRec ch.val - 1) ∧
      (127 < s.zone.canRec ch.val → 119 ≤ z.canRec ch.val ∧ z.canRec ch.val ≤ 127) ∧
      (s.zone.canTec ch.val ≤ 255 → z.canTec ch.val = s.zone.canTec ch.val ∧ z.fld (pCAN ch.val) CAN.CHAN_STATUS_ERR_STATE = (if 127 < s.zone.canTec ch.val then 1 else 0)) ∧
      (z.can ch.val).ackRun = 0 ∧ z.flag (pCAN ch.val) CAN.CHAN_STATUS_ALONE = false ∧
      z.sleep = { s.zone.sleep with heard := s.zone.sleep.heard.or (some s.zone.mono) } ∧
      (s.zone.canTec ch.val ≤ 255 → z.tickets = s.zone.tickets) ∧
      s.zone.BankFrame [0, 6] [.rings, .cans, .sleep, .tickets, .freeNext] z) ∧
  (∀ (s : State) (ch : Fin 16) (fr : CanFrame) (ticks : Nat), s.zone.logicRuns = true → s.zone.canBus ch.val = true →
    s.zone.canBusOff ch.val = false →
    (fr.format = 1 → s.zone.flag (pCAN ch.val) CAN.CHAN_CFG_FD_EN = true) ∧ (fr.format = 2 → s.zone.flag (pCAN ch.val) CAN.CHAN_CFG_XL_EN = true) →
    ¬ (s.zone.flag (pCAN ch.val) CAN.CHAN_CFG_ACCEPT_ALL = true ∨ (List.range 32).any (fun k => s.zone.canFilter ch.val k fr) = true) →
    Completes (.canFrameReceive ch fr ticks) s fun z =>
      z.fld (pCAN ch.val) CAN.RX_FILTERED_COUNT = min (s.zone.fld (pCAN ch.val) CAN.RX_FILTERED_COUNT + 1) (2 ^ 32 - 1) ∧
      z.rings = s.zone.rings ∧ z.fillPtr ch.val = s.zone.fillPtr ch.val ∧
      (s.zone.canRec ch.val ≤ 127 → z.canRec ch.val = s.zone.canRec ch.val - 1) ∧
      (127 < s.zone.canRec ch.val → 119 ≤ z.canRec ch.val ∧ z.canRec ch.val ≤ 127) ∧
      (s.zone.canTec ch.val ≤ 255 → z.canTec ch.val = s.zone.canTec ch.val ∧ z.fld (pCAN ch.val) CAN.CHAN_STATUS_ERR_STATE = (if 127 < s.zone.canTec ch.val then 1 else 0)) ∧
      (z.can ch.val).ackRun = 0 ∧ z.flag (pCAN ch.val) CAN.CHAN_STATUS_ALONE = false ∧
      z.sleep = { s.zone.sleep with heard := s.zone.sleep.heard.or (some s.zone.mono) } ∧
      s.zone.BankFrame [0, 6] [.cans, .sleep, .tickets, .freeNext] z) ∧
  (∀ (s : State) (ch : Fin 16) (fr : CanFrame) (ticks : Nat), s.zone.logicRuns = true → s.zone.canBus ch.val = true →
    s.zone.canBusOff ch.val = false →
    (fr.format = 1 → s.zone.flag (pCAN ch.val) CAN.CHAN_CFG_FD_EN = true) ∧ (fr.format = 2 → s.zone.flag (pCAN ch.val) CAN.CHAN_CFG_XL_EN = true) →
    (s.zone.flag (pCAN ch.val) CAN.CHAN_CFG_ACCEPT_ALL = true ∨ (List.range 32).any (fun k => s.zone.canFilter ch.val k fr) = true) →
    s.zone.ringKind ch.val ≠ 0 → s.zone.entrySize ch.val < fr.data.length + 32 →
    Completes (.canFrameReceive ch fr ticks) s fun z =>
      z.fld (pCAN ch.val) CAN.RX_COUNTS_TOO_LONG = min (s.zone.fld (pCAN ch.val) CAN.RX_COUNTS_TOO_LONG + 1) 255 ∧
      z.flag (pCAN ch.val) CAN.CHAN_EVENT_RX_TOO_LONG = true ∧
      z.rings = s.zone.rings ∧ z.fillPtr ch.val = s.zone.fillPtr ch.val ∧
      (s.zone.canRec ch.val ≤ 127 → z.canRec ch.val = s.zone.canRec ch.val - 1) ∧
      (127 < s.zone.canRec ch.val → 119 ≤ z.canRec ch.val ∧ z.canRec ch.val ≤ 127) ∧
      (s.zone.canTec ch.val ≤ 255 → z.canTec ch.val = s.zone.canTec ch.val ∧ z.fld (pCAN ch.val) CAN.CHAN_STATUS_ERR_STATE = (if 127 < s.zone.canTec ch.val then 1 else 0)) ∧
      (z.can ch.val).ackRun = 0 ∧ z.flag (pCAN ch.val) CAN.CHAN_STATUS_ALONE = false ∧
      z.sleep = { s.zone.sleep with heard := s.zone.sleep.heard.or (some s.zone.mono) } ∧
      s.zone.BankFrame [0, 6] [.cans, .sleep, .tickets, .freeNext] z) ∧
  (∀ (s : State) (ch : Fin 16) (fr : CanFrame) (ticks : Nat), s.zone.logicRuns = true → s.zone.canBus ch.val = true →
    s.zone.canBusOff ch.val = false →
    ((fr.format = 1 ∧ s.zone.flag (pCAN ch.val) CAN.CHAN_CFG_FD_EN = false) ∨ (fr.format = 2 ∧ s.zone.flag (pCAN ch.val) CAN.CHAN_CFG_XL_EN = false)) →
    Completes (.canFrameReceive ch fr ticks) s fun z =>
      z.fld (pCAN ch.val) CAN.ERR_COUNTS_EXCEPTION = min (s.zone.fld (pCAN ch.val) CAN.ERR_COUNTS_EXCEPTION + 1) 255 ∧
      s.zone.Frame [(pCAN ch.val) + CAN.ERR_COUNTS_BUS_OFF.off] [] z) ∧
  (∀ (s : State) (ch : Fin 16) (fr : CanFrame) (ticks : Nat) (e : CanFlag),
    (s.zone.logicRuns = false ∨ s.zone.canBus ch.val = false ∨ s.zone.canBusOff ch.val = true) →
    Completes (.canFrameReceive ch fr ticks) s fun z =>
      s.zone.Frame [] [] z) ∧
  (∀ (s : State) (ch : Fin 16) (fr : CanFrame) (ticks : Nat) (e : CanFlag),
    (s.zone.logicRuns = false ∨ s.zone.canBus ch.val = false ∨ s.zone.canBusOff ch.val = true) →
    Completes (.canReceiveError ch e) s fun z =>
      s.zone.Frame [] [] z) ∧
  (∀ (s : State) (c : Fin 24) (mk : Nat → List Byte), s.zone.ringKind c.val = 2 → s.zone.ringHeld c.val ≠ Zone.ringSize c.val →
    s.zone.busQuiesced c.val = false → Gives (s.zone.ringStore c.val mk) fun z =>
      z.fillPtr c.val = (s.zone.fillPtr c.val + 1) % (2 * Zone.ringSize c.val) ∧ z.ackPtr c.val = s.zone.ackPtr c.val ∧
      SMap.get (fun _ => []) (z.ring c.val).entries (s.zone.fillPtr c.val % Zone.ringSize c.val) = mk ((s.zone.ring c.val).seq % 65536) ∧
      (z.ring c.val).seq = (s.zone.ring c.val).seq + 1 ∧ s.zone.BankFrame [6, 7] [.rings] z) ∧
  (∀ (s : State) (c : Fin 24) (mk : Nat → List Byte), s.zone.ringKind c.val = 1 → s.zone.ringHeld c.val ≠ Zone.ringSize c.val →
    s.zone.busQuiesced c.val = false → Gives (s.zone.ringStore c.val mk) fun z =>
      ((s.zone.dmaWrite Master.bus (s.zone.ringOwner c.val) (s.zone.fld (Zone.busPage c.val) (Zone.ringBaseLo c.val) + s.zone.fld (Zone.busPage c.val) (Zone.ringBaseHi c.val) * 2 ^ 32 + s.zone.fillPtr c.val % Zone.ringSize c.val * s.zone.entrySize c.val) (mk ((s.zone.ring c.val).seq % 65536))).1 = Err.none → z = ((s.zone.dmaWrite Master.bus (s.zone.ringOwner c.val) (s.zone.fld (Zone.busPage c.val) (Zone.ringBaseLo c.val) + s.zone.fld (Zone.busPage c.val) (Zone.ringBaseHi c.val) * 2 ^ 32 + s.zone.fillPtr c.val % Zone.ringSize c.val * s.zone.entrySize c.val) (mk ((s.zone.ring c.val).seq % 65536))).2.setRing c.val { s.zone.ring c.val with seq := (s.zone.ring c.val).seq + 1, noticeDue := true }).setFld (Zone.busPage c.val) (Zone.ringFill c.val) ((s.zone.fillPtr c.val + 1) % (2 * Zone.ringSize c.val))) ∧
      ((s.zone.dmaWrite Master.bus (s.zone.ringOwner c.val) (s.zone.fld (Zone.busPage c.val) (Zone.ringBaseLo c.val) + s.zone.fld (Zone.busPage c.val) (Zone.ringBaseHi c.val) * 2 ^ 32 + s.zone.fillPtr c.val % Zone.ringSize c.val * s.zone.entrySize c.val) (mk ((s.zone.ring c.val).seq % 65536))).1 ≠ Err.none → z = (s.zone.dmaWrite Master.bus (s.zone.ringOwner c.val) (s.zone.fld (Zone.busPage c.val) (Zone.ringBaseLo c.val) + s.zone.fld (Zone.busPage c.val) (Zone.ringBaseHi c.val) * 2 ^ 32 + s.zone.fillPtr c.val % Zone.ringSize c.val * s.zone.entrySize c.val) (mk ((s.zone.ring c.val).seq % 65536))).2.ringLose c.val)) ∧
  (∀ (s : State) (c : Fin 24) (mk : Nat → List Byte),
    (s.zone.busQuiesced c.val = true ∨ (s.zone.ringKind c.val ≠ 0 ∧ s.zone.ringHeld c.val = Zone.ringSize c.val)) →
    Gives (s.zone.ringStore c.val mk) fun z =>
      z.flag (Zone.busPage c.val) (Zone.ringLostEvent c.val) = true ∧
      z.fld (Zone.busPage c.val) (Zone.ringLost c.val) = min (s.zone.fld (Zone.busPage c.val) (Zone.ringLost c.val) + 1) (2 ^ (Zone.ringLost c.val).w - 1) ∧
      s.zone.Frame [Zone.busPage c.val + (Zone.ringLost c.val).off, Zone.busPage c.val + (Zone.ringLostEvent c.val).off] [] z) ∧
  (∀ (s : State) (c : Fin 24) (mk : Nat → List Byte), s.zone.busQuiesced c.val = false → s.zone.ringKind c.val = 0 →
    Gives (s.zone.ringStore c.val mk) fun z =>
      z.fld (Zone.busPage c.val) (Zone.ringLost c.val) = min (s.zone.fld (Zone.busPage c.val) (Zone.ringLost c.val) + 1) (2 ^ (Zone.ringLost c.val).w - 1) ∧
      s.zone.Frame [Zone.busPage c.val + (Zone.ringLost c.val).off] [] z) ∧
  (∀ (s : State) (q : Fin 24), s.zone.logicRuns = true → s.zone.ringKind q.val = 1 → (s.zone.ring q.val).noticeDue = true →
    ((s.zone.ring q.val).noticeAt).all (fun t => decide (t + s.zone.fld (Zone.busPage q.val) (Zone.ringNotice q.val) * 250 ≤ s.zone.mono)) = true →
    Completes (.ringNotice q) s fun z =>
      z = (s.zone.setRing q.val { s.zone.ring q.val with noticeDue := false, noticeAt := some s.zone.mono }).sendNotice (s.zone.rd (pHINGE 2 + 0xD00 + 4 * q.val))) ∧
  (∀ (s : State) (q : Fin 24) (hart : Fin 8) (i : Fin 7) (n : BitVec 11), s.zone.logicRuns = true → s.zone.ringKind q.val = 1 →
    (s.zone.ring q.val).noticeDue = true →
    ((s.zone.ring q.val).noticeAt).all (fun t => decide (t + s.zone.fld (Zone.busPage q.val) (Zone.ringNotice q.val) * 250 ≤ s.zone.mono)) = true →
    (s.zone.rd (pHINGE 2 + 0xD00 + 4 * q.val)).toNat = 2 ^ 30 + hart.val * 2 ^ 27 + i.val * 2 ^ 24 + n.toNat → n ≠ 0 →
    Completes (.ringNotice q) s fun z =>
      (SMap.get (fun _ => 0) z.imsic (hart.val * 8 + i.val)).testBit n.toNat = true ∧ s.zone.Frame [] [.rings, .imsic] z) ∧
  (∀ (s : State) (q : Fin 24),
    (s.zone.logicRuns = false ∨ s.zone.ringKind q.val ≠ 1 ∨ (s.zone.ring q.val).noticeDue = false ∨ ((s.zone.ring q.val).noticeAt).any (fun t => decide (s.zone.mono < t + s.zone.fld (Zone.busPage q.val) (Zone.ringNotice q.val) * 250)) = true) →
    Completes (.ringNotice q) s fun z =>
      s.zone.Frame [] [] z) ∧
  (∀ (s : State) (q : Fin 24) (writer : Writer) (v : BitVec 9), s.zone.writerActs writer = true →
    s.zone.ringOwnedBy q.val writer = true → v.toNat < 2 * Zone.ringSize q.val →
    (v.toNat + 2 * Zone.ringSize q.val - s.zone.ackPtr q.val) % (2 * Zone.ringSize q.val) ≤ s.zone.ringHeld q.val →
    Completes (.rxAckWrite q writer v) s fun z =>
      z.ackPtr q.val = v.toNat ∧ z.fillPtr q.val = s.zone.fillPtr q.val ∧
      (q.val < 16 → (List.range 24).all (fun j => z.rd (Zone.busPage q.val + 0x400 + 4 * j) == BitVec.ofNat 32 (leAt ((z.ringHead q.val).getD []) (4 * j) 4)) = true) ∧
      s.zone.BankFrame [6, 7] [] z) ∧
  (∀ (s : State) (q : Fin 24) (writer : Writer) (v : BitVec 9), s.zone.writerActs writer = true →
    (s.zone.ringOwnedBy q.val writer = false ∨ 2 * Zone.ringSize q.val ≤ v.toNat ∨ s.zone.ringHeld q.val < (v.toNat + 2 * Zone.ringSize q.val - s.zone.ackPtr q.val) % (2 * Zone.ringSize q.val)) →
    Completes (.rxAckWrite q writer v) s fun z =>
      (q.val < 16 → z.fld (pCAN q.val) CAN.RX_COUNTS_ACK_REJECT = min (s.zone.fld (pCAN q.val) CAN.RX_COUNTS_ACK_REJECT + 1) 255) ∧
      (16 ≤ q.val → z = s.zone) ∧ s.zone.Frame [pCAN q.val + CAN.RX_COUNTS_ACK_REJECT.off] [] z) ∧
  (∀ (s : State) (q : Fin 24) (writer : Writer) (v : BitVec 9), s.zone.writerActs writer = false →
    Completes (.rxAckWrite q writer v) s fun z =>
      s.zone.Frame [] [] z) ∧
  (∀ (s : State) (ch : Fin 16) (e : CanFlag) (tec rcv : Nat), s.zone.logicRuns = true → s.zone.canBus ch.val = true →
    s.zone.canBusOff ch.val = false → tec = s.zone.canTec ch.val →
    rcv = s.zone.canRec ch.val + 1 + (if e.dominant then 8 else 0) + 8 * e.extra → Completes (.canReceiveError ch e) s fun z =>
      z.canRec ch.val = min rcv 255 ∧
      (tec ≤ 255 → z.canTec ch.val = tec ∧ z.fld (pCAN ch.val) CAN.CHAN_STATUS_ERR_STATE = (if 127 < tec ∨ 127 < rcv then 1 else 0)) ∧
      (s.zone.fld (pCAN ch.val) CAN.CHAN_STATUS_ERR_STATE = 0 ∧ z.fld (pCAN ch.val) CAN.CHAN_STATUS_ERR_STATE = 1 → z.flag (pCAN ch.val) CAN.CHAN_EVENT_ERR_PASSIVE = true) ∧
      (tec ≤ 255 → z.cans = s.zone.cans ∧ z.tickets = s.zone.tickets) ∧ s.zone.BankFrame [0, 6] [.cans, .tickets] z)

/-- R423, R424, R425, R426, R427, R428, R429, R430, R431, R432, R666: TX_START of a sendable frame joins the pending set and fails
otherwise with its cause, counted; in LIGHTSHIP keepers get REFUSED on CAN.0. Arbitration begins the frame of the highest
priority, of equals the first. Success completes, lowers TEC, shows the time of its SOF; loss fails or contends again; an error
fails with cause and field, raises TEC, runs the ALONE count, marks a suspected double identifier. TEC above 255 enters bus-off
and fails all pending frames. Frames wait TX_EXPIRE at most. RECOVER waits for 128 idle sequences or fails after 1 s;
ABORT_PENDING aborts. A reference takes an idle bus in the tick that reaches its time, or counts missed; it has no ticket and is
not counted (log entry 46). Every waiting ticket meets its outcome once; one no longer ISSUED counts late. -/
def Obligations.CanTransmissionsEndOnceWithTheirCause : Prop :=
  (∀ (s : State) (ch : Fin 16) (k : Keeper) (n : Fin 128) (v : BitVec 4) (arg : Word), s.zone.logicRuns = true →
    (ch.val ≠ 0 ∨ s.zone.mode ≠ Mode.lightship) → v.toNat < 4 → s.zone.canOn ch.val = true → s.zone.canListen ch.val = false →
    s.zone.canBusOff ch.val = false → (if v.toNat.testBit 0 then arg.toNat = 0 else arg.toNat ≤ 63) →
    s.zone.canSendable ch.val (s.zone.canSource ch.val (v.toNat.testBit 0) arg.toNat).1 (if v.toNat.testBit 0 ∨ arg.toNat < 56 then 64 else 2048) = true →
    Zone.canCount (s.zone.can ch.val) < 8 → Completes (.txStart ch k n v arg) s fun z =>
      z.can ch.val = { (s.zone.can ch.val) with pend := (s.zone.can ch.val).pend ++ [⟨canOfBytes (s.zone.canSource ch.val (v.toNat.testBit 0) arg.toNat).1, v.toNat.testBit 1, some (s.zone.ticketRef k n.val), s.zone.mono, false⟩] } ∧
      z.fld (pCAN ch.val) CAN.CHAN_STATUS_PENDING = Zone.canCount (s.zone.can ch.val) + 1 ∧
      s.zone.Frame [(pCAN ch.val) + CAN.CHAN_STATUS_ERR_STATE.off] [.cans, .freeNext] z) ∧
  (∀ (s : State) (ch : Fin 16) (k : Keeper) (n : Fin 128) (w : BitVec 4) (arg : Word) (st v : Nat), s.zone.logicRuns = true →
    (ch.val ≠ 0 ∨ s.zone.mode ≠ Mode.lightship) → st = 1 →
    v = (if 4 ≤ w.toNat then 0xFF else if s.zone.canOn ch.val = false ∨ s.zone.canListen ch.val = true then 0xF14 else if s.zone.canBusOff ch.val = true then 0xF11 else if (if w.toNat.testBit 0 then arg.toNat ≠ 0 else 63 < arg.toNat) ∨ s.zone.canSendable ch.val (s.zone.canSource ch.val (w.toNat.testBit 0) arg.toNat).1 (if w.toNat.testBit 0 ∨ arg.toNat < 56 then 64 else 2048) = false then 0xF12 else if 8 ≤ Zone.canCount (s.zone.can ch.val) then 0xF13 else 0) →
    v ≠ 0 → Completes (.txStart ch k n w arg) s fun z =>
      ((s.zone.ticket k n.val).state = .issued → (z.ticket k n.val).state = .done ∧ (z.ticket k n.val).status = st ∧ (z.ticket k n.val).value = v % 65536) ∧
      ((s.zone.ticket k n.val).state ≠ .issued → z.tickets = s.zone.tickets ∧ z.fld (pKEEPER k) KEEPER.TICKET_EVENTS_LATE = min (s.zone.fld (pKEEPER k) KEEPER.TICKET_EVENTS_LATE + 1) 65535) ∧
      z.fld (pCAN ch.val) CAN.TX_COUNTS_FAIL = min (s.zone.fld (pCAN ch.val) CAN.TX_COUNTS_FAIL + 1) 65535 ∧
      z.fld (pCAN ch.val) CAN.LAST_FAIL_VALUE = v ∧
      s.zone.Frame [(pCAN ch.val) + CAN.TX_COUNTS_FAIL.off, (pCAN ch.val) + CAN.LAST_FAIL_VALUE.off, pKEEPER k + KEEPER.TICKETS_IN_USE.off, pKEEPER k + KEEPER.TICKET_EVENTS_LATE.off] [.tickets, .freeNext] z) ∧
  (∀ (s : State) (k : Keeper) (n : Fin 128) (w : BitVec 4) (arg : Word) (st v : Nat), s.zone.logicRuns = true →
    s.zone.mode = Mode.lightship → st = 5 → v = 0 → Completes (.txStart 0 k n w arg) s fun z =>
      ((s.zone.ticket k n.val).state = .issued → (z.ticket k n.val).state = .done ∧ (z.ticket k n.val).status = st ∧ (z.ticket k n.val).value = v % 65536) ∧
      ((s.zone.ticket k n.val).state ≠ .issued → z.tickets = s.zone.tickets ∧ z.fld (pKEEPER k) KEEPER.TICKET_EVENTS_LATE = min (s.zone.fld (pKEEPER k) KEEPER.TICKET_EVENTS_LATE + 1) 65535) ∧
      s.zone.Frame [pKEEPER k + KEEPER.TICKETS_IN_USE.off, pKEEPER k + KEEPER.TICKET_EVENTS_LATE.off] [.tickets] z) ∧
  (∀ (s : State) (k : Keeper) (n : Fin 128) (st v : Nat), s.zone.logicRuns = true → s.zone.mode = Mode.lightship → st = 5 →
    v = 0 → Completes (.recover 0 k n) s fun z =>
      ((s.zone.ticket k n.val).state = .issued → (z.ticket k n.val).state = .done ∧ (z.ticket k n.val).status = st ∧ (z.ticket k n.val).value = v % 65536) ∧
      ((s.zone.ticket k n.val).state ≠ .issued → z.tickets = s.zone.tickets ∧ z.fld (pKEEPER k) KEEPER.TICKET_EVENTS_LATE = min (s.zone.fld (pKEEPER k) KEEPER.TICKET_EVENTS_LATE + 1) 65535) ∧
      s.zone.Frame [pKEEPER k + KEEPER.TICKETS_IN_USE.off, pKEEPER k + KEEPER.TICKET_EVENTS_LATE.off] [.tickets] z) ∧
  (∀ (s : State) (k : Keeper) (n : Fin 128) (st v : Nat), s.zone.logicRuns = true → s.zone.mode = Mode.lightship → st = 5 →
    v = 0 → Completes (.abortPending 0 k n) s fun z =>
      ((s.zone.ticket k n.val).state = .issued → (z.ticket k n.val).state = .done ∧ (z.ticket k n.val).status = st ∧ (z.ticket k n.val).value = v % 65536) ∧
      ((s.zone.ticket k n.val).state ≠ .issued → z.tickets = s.zone.tickets ∧ z.fld (pKEEPER k) KEEPER.TICKET_EVENTS_LATE = min (s.zone.fld (pKEEPER k) KEEPER.TICKET_EVENTS_LATE + 1) 65535) ∧
      s.zone.Frame [pKEEPER k + KEEPER.TICKETS_IN_USE.off, pKEEPER k + KEEPER.TICKET_EVENTS_LATE.off] [.tickets] z) ∧
  (∀ (s : State) (ch : Fin 16) (q : CanPend) (l m : List CanPend), s.zone.logicRuns = true → s.zone.canBus ch.val = true →
    s.zone.canListen ch.val = false → s.zone.canBusOff ch.val = false → (s.zone.can ch.val).active = none →
    s.zone.tmGuarded ch.val = false → (s.zone.can ch.val).pend = l ++ q :: m →
    (∀ x ∈ l, canPriority q.frame < canPriority x.frame) → (∀ x ∈ m, canPriority q.frame ≤ canPriority x.frame) →
    Completes (.canArbitration ch) s fun z =>
      z.can ch.val = { (s.zone.can ch.val) with pend := l ++ m, active := some (q, s.zone.nowNs) } ∧
      z.flag (pCAN ch.val) CAN.CHAN_STATUS_TX_ACTIVE = true ∧
      s.zone.Frame [(pCAN ch.val) + CAN.CHAN_STATUS_ERR_STATE.off] [.cans] z) ∧
  (∀ (s : State) (ch : Fin 16),
    (s.zone.logicRuns = false ∨ s.zone.canBus ch.val = false ∨ s.zone.canListen ch.val = true ∨ s.zone.canBusOff ch.val = true ∨ (s.zone.can ch.val).active ≠ none ∨ s.zone.tmGuarded ch.val = true ∨ (s.zone.can ch.val).pend = []) →
    Completes (.canArbitration ch) s fun z =>
      s.zone.Frame [] [] z) ∧
  (∀ (s : State) (ch : Fin 16) (e : CanEnd), (s.zone.logicRuns = false ∨ (s.zone.can ch.val).active = none) →
    Completes (.canAttemptEnd ch e) s fun z =>
      s.zone.Frame [] [] z) ∧
  (∀ (s : State) (ch : Fin 16) (q : CanPend) (sof : Nat) (tec rcv : Nat), s.zone.logicRuns = true →
    (s.zone.can ch.val).active = some (q, sof) → tec = s.zone.canTec ch.val - 1 → rcv = s.zone.canRec ch.val →
    Completes (.canAttemptEnd ch .ok) s fun z =>
      (z.can ch.val).active = none ∧ (z.can ch.val).ackRun = 0 ∧ z.flag (pCAN ch.val) CAN.CHAN_STATUS_ALONE = false ∧ z.flag (pCAN ch.val) CAN.CHAN_STATUS_TX_ACTIVE = false ∧
      z.canTec ch.val = tec ∧ z.canRec ch.val = rcv ∧
      z.fld (pCAN ch.val) CAN.CHAN_STATUS_ERR_STATE = (if s.zone.canBusOff ch.val ∨ 255 < tec then 2 else if 127 < tec ∨ 127 < rcv then 1 else 0) ∧
      z.fld (pCAN ch.val) CAN.TX_COUNTS_OK = (if q.reference then s.zone.fld (pCAN ch.val) CAN.TX_COUNTS_OK else min (s.zone.fld (pCAN ch.val) CAN.TX_COUNTS_OK + 1) 65535) ∧
      (q.reference = false ∧ sof < 2 ^ 64 → z.fld (pCAN ch.val) CAN.TX_LAST_LO_TIME + z.fld (pCAN ch.val) CAN.TX_LAST_HI_TIME * 2 ^ 32 = sof) ∧
      (tec ≤ 255 → z.can ch.val = { (s.zone.can ch.val) with active := none, ackRun := 0 }) ∧
      (tec ≤ 255 ∧ (q.reference = true ∨ q.ticket = none) → z.tickets = s.zone.tickets) ∧
      (tec ≤ 255 → ∀ r ∈ q.ticket.toList, q.reference = false ∧ (s.zone.ticket r.keeper r.num).state = .issued ∧ (s.zone.ticket r.keeper r.num).serial = r.serial → (z.ticket r.keeper r.num).state = .done ∧ (z.ticket r.keeper r.num).status = 0 ∧ (z.ticket r.keeper r.num).value = 0) ∧
      s.zone.BankFrame [0, 6] [.cans, .tickets] z) ∧
  (∀ (s : State) (ch : Fin 16) (q : CanPend) (sof : Nat), s.zone.logicRuns = true → (s.zone.can ch.val).active = some (q, sof) →
    q.again = true → Completes (.canAttemptEnd ch .lost) s fun z =>
      z.can ch.val = { (s.zone.can ch.val) with active := none, pend := Zone.canReturn (s.zone.can ch.val).pend q } ∧
      (z.can ch.val).pend.Perm (q :: (s.zone.can ch.val).pend) ∧ z.canTec ch.val = s.zone.canTec ch.val ∧
      s.zone.Frame [(pCAN ch.val) + CAN.CHAN_STATUS_ERR_STATE.off] [.cans] z) ∧
  (∀ (s : State) (ch : Fin 16) (q : CanPend) (sof : Nat), s.zone.logicRuns = true → (s.zone.can ch.val).active = some (q, sof) →
    q.again = false → Completes (.canAttemptEnd ch .lost) s fun z =>
      z.can ch.val = { (s.zone.can ch.val) with active := none } ∧ z.canTec ch.val = s.zone.canTec ch.val ∧
      (q.ticket = none → z.tickets = s.zone.tickets ∧ z.fld (pCAN ch.val) CAN.TX_COUNTS_FAIL = s.zone.fld (pCAN ch.val) CAN.TX_COUNTS_FAIL) ∧
      (q.ticket ≠ none → z.fld (pCAN ch.val) CAN.TX_COUNTS_FAIL = min (s.zone.fld (pCAN ch.val) CAN.TX_COUNTS_FAIL + 1) 65535 ∧ z.fld (pCAN ch.val) CAN.LAST_FAIL_VALUE = 1) ∧
      (∀ r ∈ q.ticket.toList, (s.zone.ticket r.keeper r.num).state = .issued ∧ (s.zone.ticket r.keeper r.num).serial = r.serial → (z.ticket r.keeper r.num).state = .done ∧ (z.ticket r.keeper r.num).status = 1 ∧ (z.ticket r.keeper r.num).value = 1) ∧
      s.zone.Frame [(pCAN ch.val) + CAN.CHAN_STATUS_ERR_STATE.off, (pCAN ch.val) + CAN.TX_COUNTS_FAIL.off, (pCAN ch.val) + CAN.LAST_FAIL_VALUE.off, pKEEPER .A + KEEPER.TICKETS_IN_USE.off, pKEEPER .A + KEEPER.TICKET_EVENTS_LATE.off, pKEEPER .B + KEEPER.TICKETS_IN_USE.off, pKEEPER .B + KEEPER.TICKET_EVENTS_LATE.off] [.cans, .tickets] z) ∧
  (∀ (s : State) (ch : Fin 16) (q : CanPend) (sof : Nat) (cause : Fin 4) (field : Fin 6) (e : CanFlag) (tec rcv v : Nat) (dup : Bool),
    s.zone.logicRuns = true → (s.zone.can ch.val).active = some (q, sof) →
    dup = decide (cause.val = 0 ∧ 1 ≤ field.val ∧ field.val ≤ 3) →
    v = cause.val + 2 + field.val * 256 + (if dup then 4096 else 0) → rcv = s.zone.canRec ch.val →
    tec = s.zone.canTec ch.val + (if (cause.val = 3 ∧ s.zone.fld (pCAN ch.val) CAN.CHAN_STATUS_ERR_STATE = 1 ∧ e.dominant = false) ∨ (cause.val = 1 ∧ field.val = 0) then 0 else 8) + 8 * e.extra →
    Completes (.canAttemptEnd ch (.error cause field e)) s fun z =>
      (z.can ch.val).active = none ∧ z.canTec ch.val = min tec 511 ∧ z.canRec ch.val = rcv ∧
      z.fld (pCAN ch.val) CAN.CHAN_STATUS_ERR_STATE = (if s.zone.canBusOff ch.val ∨ 255 < tec then 2 else if 127 < tec ∨ 127 < rcv then 1 else 0) ∧
      (s.zone.canBusOff ch.val = false ∧ 255 < tec → z.flag (pCAN ch.val) CAN.CHAN_EVENT_BUS_OFF = true ∧ (z.can ch.val).pend = [] ∧ z.fld (pCAN ch.val) CAN.ERR_COUNTS_BUS_OFF = min (s.zone.fld (pCAN ch.val) CAN.ERR_COUNTS_BUS_OFF + 1) 255) ∧
      (s.zone.canBusOff ch.val = false ∧ 255 < tec → ∀ r ∈ (s.zone.can ch.val).pend.filterMap CanPend.ticket, q.ticket ≠ some r ∧ (s.zone.ticket r.keeper r.num).state = .issued ∧ (s.zone.ticket r.keeper r.num).serial = r.serial → (z.ticket r.keeper r.num).state = .done ∧ (z.ticket r.keeper r.num).status = 1 ∧ (z.ticket r.keeper r.num).value = 0xF11) ∧
      (∀ r ∈ q.ticket.toList, (s.zone.ticket r.keeper r.num).state = .issued ∧ (s.zone.ticket r.keeper r.num).serial = r.serial → (z.ticket r.keeper r.num).state = .done ∧ (z.ticket r.keeper r.num).status = 1 ∧ (z.ticket r.keeper r.num).value = v) ∧
      ((tec ≤ 255 ∨ s.zone.canBusOff ch.val = true) → (z.can ch.val).pend = (s.zone.can ch.val).pend ∧ (q.ticket ≠ none → z.fld (pCAN ch.val) CAN.LAST_FAIL_VALUE = v ∧ z.fld (pCAN ch.val) CAN.TX_COUNTS_FAIL = min (s.zone.fld (pCAN ch.val) CAN.TX_COUNTS_FAIL + 1) 65535)) ∧
      ((tec ≤ 255 ∨ s.zone.canBusOff ch.val = true) ∧ q.ticket = none → z.tickets = s.zone.tickets ∧ z.fld (pCAN ch.val) CAN.TX_COUNTS_FAIL = s.zone.fld (pCAN ch.val) CAN.TX_COUNTS_FAIL) ∧
      (z.can ch.val).ackRun = (if cause.val = 3 then (s.zone.can ch.val).ackRun + 1 else if 4 ≤ field.val then 0 else (s.zone.can ch.val).ackRun) ∧
      z.flag (pCAN ch.val) CAN.CHAN_STATUS_ALONE = (if cause.val = 3 then s.zone.flag (pCAN ch.val) CAN.CHAN_STATUS_ALONE || decide (s.zone.fld (pCAN ch.val) CAN.CHAN_CFG_ALONE_LIMIT ≤ (s.zone.can ch.val).ackRun + 1) else s.zone.flag (pCAN ch.val) CAN.CHAN_STATUS_ALONE && decide (field.val < 4)) ∧
      (s.zone.flag (pCAN ch.val) CAN.CHAN_STATUS_ALONE = false ∧ z.flag (pCAN ch.val) CAN.CHAN_STATUS_ALONE = true → z.flag (pCAN ch.val) CAN.CHAN_EVENT_ALONE = true) ∧
      z.fld (pCAN ch.val) CAN.ERR_COUNTS_ACK_ERR = (if cause.val = 3 then min (s.zone.fld (pCAN ch.val) CAN.ERR_COUNTS_ACK_ERR + 1) 255 else s.zone.fld (pCAN ch.val) CAN.ERR_COUNTS_ACK_ERR) ∧
      z.fld (pCAN ch.val) CAN.ERR_COUNTS_DUP_SUSPECT = (if dup then min (s.zone.fld (pCAN ch.val) CAN.ERR_COUNTS_DUP_SUSPECT + 1) 255 else s.zone.fld (pCAN ch.val) CAN.ERR_COUNTS_DUP_SUSPECT) ∧
      (dup = true → z.flag (pCAN ch.val) CAN.CHAN_EVENT_DUP_ID_SUSPECT = true) ∧
      s.zone.Frame [(pCAN ch.val) + CAN.CHAN_STATUS_ERR_STATE.off, (pCAN ch.val) + CAN.CHAN_EVENT_ALONE.off, (pCAN ch.val) + CAN.ERR_COUNTS_BUS_OFF.off, (pCAN ch.val) + CAN.TX_COUNTS_FAIL.off, (pCAN ch.val) + CAN.LAST_FAIL_VALUE.off, pKEEPER .A + KEEPER.TICKETS_IN_USE.off, pKEEPER .A + KEEPER.TICKET_EVENTS_LATE.off, pKEEPER .B + KEEPER.TICKETS_IN_USE.off, pKEEPER .B + KEEPER.TICKET_EVENTS_LATE.off] [.cans, .tickets] z) ∧
  (∀ (s : State) (ch : Fin 16) (l : List CanPend), s.zone.logicRuns = true →
    l = (s.zone.can ch.val).pend.filter (fun p => decide (p.at_ + s.zone.fld (pCAN ch.val) CAN.CHAN_CFG_TX_EXPIRE * 2500 ≤ s.zone.mono)) →
    Completes (.txExpired ch) s fun z =>
      z.can ch.val = { (s.zone.can ch.val) with pend := (s.zone.can ch.val).pend.filter (fun p => decide (s.zone.mono < p.at_ + s.zone.fld (pCAN ch.val) CAN.CHAN_CFG_TX_EXPIRE * 2500)) } ∧
      (∀ r ∈ l.filterMap CanPend.ticket, (s.zone.ticket r.keeper r.num).state = .issued ∧ (s.zone.ticket r.keeper r.num).serial = r.serial → (z.ticket r.keeper r.num).state = .done ∧ (z.ticket r.keeper r.num).status = 1 ∧ (z.ticket r.keeper r.num).value = 0xF10) ∧
      z.fld (pCAN ch.val) CAN.TX_COUNTS_FAIL = min (s.zone.fld (pCAN ch.val) CAN.TX_COUNTS_FAIL + (l.filterMap CanPend.ticket).length) 65535 ∧
      (l.filterMap CanPend.ticket ≠ [] → z.fld (pCAN ch.val) CAN.LAST_FAIL_VALUE = 0xF10) ∧
      (l.filterMap CanPend.ticket = [] → z.tickets = s.zone.tickets) ∧
      s.zone.Frame [(pCAN ch.val) + CAN.CHAN_STATUS_ERR_STATE.off, (pCAN ch.val) + CAN.TX_COUNTS_FAIL.off, (pCAN ch.val) + CAN.LAST_FAIL_VALUE.off, pKEEPER .A + KEEPER.TICKETS_IN_USE.off, pKEEPER .A + KEEPER.TICKET_EVENTS_LATE.off, pKEEPER .B + KEEPER.TICKETS_IN_USE.off, pKEEPER .B + KEEPER.TICKET_EVENTS_LATE.off] [.cans, .tickets] z) ∧
  (∀ (s : State) (ch : Fin 16) (k : Keeper) (n : Fin 128), s.zone.logicRuns = true →
    (ch.val ≠ 0 ∨ s.zone.mode ≠ Mode.lightship) → s.zone.canBusOff ch.val = true → Completes (.recover ch k n) s fun z =>
      z.can ch.val = { (s.zone.can ch.val) with recovers := (s.zone.can ch.val).recovers ++ [(s.zone.ticketRef k n.val, s.zone.mono)], recovering := true } ∧
      s.zone.Frame [(pCAN ch.val) + CAN.CHAN_STATUS_ERR_STATE.off] [.cans] z) ∧
  (∀ (s : State) (ch : Fin 16) (k : Keeper) (n : Fin 128) (st v : Nat), s.zone.logicRuns = true →
    (ch.val ≠ 0 ∨ s.zone.mode ≠ Mode.lightship) → s.zone.canBusOff ch.val = false → st = 1 → v = 1 →
    Completes (.recover ch k n) s fun z =>
      ((s.zone.ticket k n.val).state = .issued → (z.ticket k n.val).state = .done ∧ (z.ticket k n.val).status = st ∧ (z.ticket k n.val).value = v % 65536) ∧
      ((s.zone.ticket k n.val).state ≠ .issued → z.tickets = s.zone.tickets ∧ z.fld (pKEEPER k) KEEPER.TICKET_EVENTS_LATE = min (s.zone.fld (pKEEPER k) KEEPER.TICKET_EVENTS_LATE + 1) 65535) ∧
      s.zone.Frame [pKEEPER k + KEEPER.TICKETS_IN_USE.off, pKEEPER k + KEEPER.TICKET_EVENTS_LATE.off] [.tickets] z) ∧
  (∀ (s : State) (ch : Fin 16), s.zone.logicRuns = true → s.zone.canBus ch.val = true → s.zone.canBusOff ch.val = true →
    (s.zone.can ch.val).recovering = true → Completes (.recoveryDone ch) s fun z =>
      (∀ r ∈ (s.zone.can ch.val).recovers.map (·.1), (s.zone.ticket r.keeper r.num).state = .issued ∧ (s.zone.ticket r.keeper r.num).serial = r.serial → (z.ticket r.keeper r.num).state = .done ∧ (z.ticket r.keeper r.num).status = 0 ∧ (z.ticket r.keeper r.num).value = 0) ∧
      ((s.zone.can ch.val).recovers = [] → z.tickets = s.zone.tickets) ∧ z.fld (pCAN ch.val) CAN.CHAN_STATUS_ERR_STATE = 0 ∧
      z.canTec ch.val = 0 ∧ z.canRec ch.val = 0 ∧
      z.can ch.val = { (s.zone.can ch.val) with recovers := [], recovering := false } ∧
      s.zone.Frame [(pCAN ch.val) + CAN.CHAN_STATUS_ERR_STATE.off, pKEEPER .A + KEEPER.TICKETS_IN_USE.off, pKEEPER .A + KEEPER.TICKET_EVENTS_LATE.off, pKEEPER .B + KEEPER.TICKETS_IN_USE.off, pKEEPER .B + KEEPER.TICKET_EVENTS_LATE.off] [.cans, .tickets] z) ∧
  (∀ (s : State) (ch : Fin 16),
    (s.zone.logicRuns = false ∨ s.zone.canBus ch.val = false ∨ s.zone.canBusOff ch.val = false ∨ (s.zone.can ch.val).recovering = false) →
    Completes (.recoveryDone ch) s fun z =>
      s.zone.Frame [] [] z) ∧
  (∀ (s : State) (ch : Fin 16) (l : List TicketRef), s.zone.logicRuns = true →
    l = ((s.zone.can ch.val).recovers.filter (fun r => decide (r.2 + 250000000 ≤ s.zone.mono))).map (·.1) →
    Completes (.recoveryTimeout ch) s fun z =>
      (∀ r ∈ l, (s.zone.ticket r.keeper r.num).state = .issued ∧ (s.zone.ticket r.keeper r.num).serial = r.serial → (z.ticket r.keeper r.num).state = .done ∧ (z.ticket r.keeper r.num).status = 1 ∧ (z.ticket r.keeper r.num).value = 2) ∧
      z.can ch.val = { (s.zone.can ch.val) with recovers := (s.zone.can ch.val).recovers.filter (fun r => decide (s.zone.mono < r.2 + 250000000)) } ∧
      (l = [] → z.tickets = s.zone.tickets) ∧
      s.zone.Frame [(pCAN ch.val) + CAN.CHAN_STATUS_ERR_STATE.off, pKEEPER .A + KEEPER.TICKETS_IN_USE.off, pKEEPER .A + KEEPER.TICKET_EVENTS_LATE.off, pKEEPER .B + KEEPER.TICKETS_IN_USE.off, pKEEPER .B + KEEPER.TICKET_EVENTS_LATE.off] [.cans, .tickets] z) ∧
  (∀ (s : State) (ch : Fin 16) (k : Keeper) (n : Fin 128) (st v : Nat), s.zone.logicRuns = true →
    (ch.val ≠ 0 ∨ s.zone.mode ≠ Mode.lightship) → st = 0 → v = (s.zone.can ch.val).pend.length →
    Completes (.abortPending ch k n) s fun z =>
      (s.zone.ticketRef k n.val ∉ (s.zone.can ch.val).pend.filterMap CanPend.ticket → ((s.zone.ticket k n.val).state = .issued → (z.ticket k n.val).state = .done ∧ (z.ticket k n.val).status = st ∧ (z.ticket k n.val).value = v % 65536)) ∧
      (∀ r ∈ (s.zone.can ch.val).pend.filterMap CanPend.ticket, (s.zone.ticket r.keeper r.num).state = .issued ∧ (s.zone.ticket r.keeper r.num).serial = r.serial → (z.ticket r.keeper r.num).state = .done ∧ (z.ticket r.keeper r.num).status = 4 ∧ (z.ticket r.keeper r.num).value = 0) ∧
      z.can ch.val = { (s.zone.can ch.val) with pend := [] } ∧
      s.zone.Frame [(pCAN ch.val) + CAN.CHAN_STATUS_ERR_STATE.off, pKEEPER .A + KEEPER.TICKETS_IN_USE.off, pKEEPER .A + KEEPER.TICKET_EVENTS_LATE.off, pKEEPER .B + KEEPER.TICKETS_IN_USE.off, pKEEPER .B + KEEPER.TICKET_EVENTS_LATE.off] [.cans, .tickets] z) ∧
  (∀ (s : State) (ch : Fin 16) (k : Keeper) (n : Fin 128), s.zone.logicRuns = false → Completes (.txExpired ch) s fun z =>
      s.zone.Frame [] [] z) ∧
  (∀ (s : State) (ch : Fin 16) (k : Keeper) (n : Fin 128), s.zone.logicRuns = false → Completes (.recoveryTimeout ch) s fun z =>
      s.zone.Frame [] [] z) ∧
  (∀ (s : State) (c4 : Fin 4) (pos : Nat), s.zone.logicRuns = true → s.zone.flag (pCAN c4.val) CAN.TM_CFG_EN = true →
    s.zone.time.stopped = false →
    pos = Zone.gatePos (s.zone.fld (pCAN c4.val) CAN.TM_CYCLE_US * 1000) (s.zone.fld (pCAN c4.val) CAN.TM_OFFSET_US * 1000) s.zone.nowNs →
    pos * 2 ^ 32 + s.zone.time.net.frac.toNat < s.zone.inc → (s.zone.can c4.val).lastRef ≠ some (s.zone.nowNs - pos) →
    s.zone.canBus c4.val = true → s.zone.canListen c4.val = false → s.zone.canBusOff c4.val = false →
    (s.zone.can c4.val).active = none → Completes (.tmReference c4 true) s fun z =>
      z.can c4.val = { s.zone.can c4.val with lastRef := some (s.zone.nowNs - pos), refSent := some (s.zone.tmFrame c4.val (s.zone.nowNs - pos)), active := some (⟨s.zone.tmFrame c4.val (s.zone.nowNs - pos), false, none, s.zone.mono, true⟩, s.zone.nowNs) } ∧
      z.flag (pCAN c4.val) CAN.CHAN_STATUS_TX_ACTIVE = true ∧ z.fld (pCAN c4.val) CAN.CHAN_STATUS_PENDING = (s.zone.can c4.val).pend.length % 16 ∧
      z.fld (pCAN c4.val) CAN.TM_COUNTS_SENT = min (s.zone.fld (pCAN c4.val) CAN.TM_COUNTS_SENT + 1) 65535 ∧
      s.zone.Frame [pCAN c4.val + CAN.CHAN_STATUS_PENDING.off, pCAN c4.val + CAN.TM_COUNTS_SENT.off] [.cans] z) ∧
  (∀ (s : State) (c4 : Fin 4) (pos : Nat) (idle : Bool), s.zone.logicRuns = true →
    s.zone.flag (pCAN c4.val) CAN.TM_CFG_EN = true → s.zone.time.stopped = false →
    pos = Zone.gatePos (s.zone.fld (pCAN c4.val) CAN.TM_CYCLE_US * 1000) (s.zone.fld (pCAN c4.val) CAN.TM_OFFSET_US * 1000) s.zone.nowNs →
    pos * 2 ^ 32 + s.zone.time.net.frac.toNat < s.zone.inc → (s.zone.can c4.val).lastRef ≠ some (s.zone.nowNs - pos) →
    (idle = false ∨ s.zone.canBus c4.val = false ∨ s.zone.canListen c4.val = true ∨ s.zone.canBusOff c4.val = true ∨ (s.zone.can c4.val).active ≠ none) →
    Completes (.tmReference c4 idle) s fun z =>
      z.can c4.val = { s.zone.can c4.val with lastRef := some (s.zone.nowNs - pos) } ∧
      z.fld (pCAN c4.val) CAN.TM_COUNTS_MISSED = min (s.zone.fld (pCAN c4.val) CAN.TM_COUNTS_MISSED + 1) 65535 ∧
      z.flag (pCAN c4.val) CAN.CHAN_EVENT_REF_MISSED = true ∧
      s.zone.Frame [pCAN c4.val + CAN.CHAN_STATUS_PENDING.off, pCAN c4.val + CAN.TM_COUNTS_MISSED.off, pCAN c4.val + CAN.CHAN_EVENT_REF_MISSED.off] [.cans] z) ∧
  (∀ (s : State) (c4 : Fin 4) (pos : Nat) (idle : Bool),
    pos = Zone.gatePos (s.zone.fld (pCAN c4.val) CAN.TM_CYCLE_US * 1000) (s.zone.fld (pCAN c4.val) CAN.TM_OFFSET_US * 1000) s.zone.nowNs →
    (s.zone.logicRuns = false ∨ s.zone.flag (pCAN c4.val) CAN.TM_CFG_EN = false ∨ s.zone.time.stopped = true ∨ s.zone.inc ≤ pos * 2 ^ 32 + s.zone.time.net.frac.toNat ∨ (s.zone.can c4.val).lastRef = some (s.zone.nowNs - pos)) →
    Completes (.tmReference c4 idle) s fun z =>
      s.zone.Frame [] [] z)

/-- R434, R435, R436, R437, R438, R439, R445: HEADER begins the frame of its identifier with the entry's action, length and
checksum, and otherwise fails with its cause: off, busy (ROLE in a responder), ROLE, reserved identifier. A response ends with its
checksum compared, in time, published ones with the bytes sent; a differing read-back or framing error fails with the bytes done;
one never complete fails at T_frame_max as missing or incomplete. A bus dominant for more than 40 bit times shows and ends the
frame. Each end completes the ticket with the length or the cause, counts, and stores its entry (a commander those of subscribed
responses and every failed response). WAKEUP drives its pulse 1 ms. A responder takes a header with right parity and a sync within
14 percent; it ends a running frame (log entry 98). A received pulse of 150 us to 5 ms is recorded and shown. -/
def Obligations.LinFramesRunFromHeaderToResponse : Prop :=
  (∀ (s : State) (ch : Fin 6) (k : Keeper) (n : Fin 128) (arg : Word) (i : Nat), s.zone.logicRuns = true →
    s.zone.linOn ch.val = true → (s.zone.lin ch.val).cur = none → (s.zone.lin ch.val).pulse = none →
    s.zone.linResponder ch.val = false → i = arg.toNat % 64 → i < 0x3E → Completes (.linHeader ch k n arg true) s fun z =>
      z.lin ch.val = { (s.zone.lin ch.val) with cur := some (s.zone.linHeader ch.val i (some (s.zone.ticketRef k n.val)) s.zone.mono (s.zone.linDiv ch.val) (s.zone.mono + s.zone.linHeaderTicks ch.val)) } ∧
      z.fld (pSER ch.val) LIN.LIN_STATUS_LAST_ID = i ∧ z.flag (pSER ch.val) LIN.LIN_STATUS_BUS_SHORT = false ∧
      z.linState ch.val = (if (s.zone.linHeader ch.val i none 0 0 0).action = 0 ∨ 0 < s.zone.linHeaderTicks ch.val then 1 else 2) ∧
      s.zone.Frame [(pSER ch.val) + LIN.LIN_STATUS_LAST_ID.off, (pSER ch.val) + LIN.LIN_STATUS_BUS_SHORT.off] [.lins] z) ∧
  (∀ (s : State) (ch : Fin 6) (k : Keeper) (n : Fin 128) (arg : Word) (idle : Bool) (st v : Nat), s.zone.logicRuns = true →
    st = 1 →
    v = (if s.zone.linOn ch.val = false then 0x12 else if s.zone.linResponder ch.val = true then 0x13 else if idle = false ∨ (s.zone.lin ch.val).cur.isSome ∨ (s.zone.lin ch.val).pulse.isSome then 6 else if 0x3E ≤ arg.toNat % 64 then 7 else 0) →
    v ≠ 0 → Completes (.linHeader ch k n arg idle) s fun z =>
      ((s.zone.ticket k n.val).state = .issued → (z.ticket k n.val).state = .done ∧ (z.ticket k n.val).status = st ∧ (z.ticket k n.val).value = v % 65536) ∧
      ((s.zone.ticket k n.val).state ≠ .issued → z.tickets = s.zone.tickets ∧ z.fld (pKEEPER k) KEEPER.TICKET_EVENTS_LATE = min (s.zone.fld (pKEEPER k) KEEPER.TICKET_EVENTS_LATE + 1) 65535) ∧
      s.zone.Frame [pKEEPER k + KEEPER.TICKETS_IN_USE.off, pKEEPER k + KEEPER.TICKET_EVENTS_LATE.off] [.tickets] z) ∧
  (∀ (s : State) (ch : Fin 6) (e : LinEnd) (l : List Byte), (s.zone.logicRuns = false ∨ (s.zone.lin ch.val).cur = none) →
    Completes (.linFrameEnd ch e) s fun z =>
      s.zone.Frame [] [] z) ∧
  (∀ (s : State) (ch : Fin 6) (e : LinEnd) (l : List Byte), (s.zone.logicRuns = false ∨ (s.zone.lin ch.val).cur = none) →
    Completes (.linResponseTimeout ch l) s fun z =>
      s.zone.Frame [] [] z) ∧
  (∀ (s : State) (ch : Fin 6) (hd : LinHeader) (data : List Byte) (sum : Byte) (d : List Byte), s.zone.logicRuns = true →
    (s.zone.lin ch.val).cur = some hd → hd.action = 2 → s.zone.mono ≤ hd.start + Zone.linFrameMax hd → hd.length ≤ data.length →
    d = data.take hd.length → Completes (.linFrameEnd ch (.complete data sum)) s fun z =>
      (sum.toNat = linChecksum hd.enhanced (linPid hd.ident) d → z = s.zone.linOk ch.val hd sum.toNat d) ∧
      (sum.toNat ≠ linChecksum hd.enhanced (linPid hd.ident) d → z = s.zone.linFail ch.val hd 3 d.length sum.toNat d)) ∧
  (∀ (s : State) (ch : Fin 6) (hd : LinHeader) (e : LinEnd) (l : List Byte), s.zone.logicRuns = true →
    (s.zone.lin ch.val).cur = some hd → hd.action = 2 →
    (Zone.linFrameMax hd + hd.start < s.zone.mono ∨ (match e with | .complete data _ => decide (data.length < hd.length) | _ => false) = true) →
    Completes (.linFrameEnd ch e) s fun z =>
      s.zone.Frame [] [] z) ∧
  (∀ (s : State) (ch : Fin 6) (hd : LinHeader) (data : List Byte) (sum : Byte), s.zone.logicRuns = true →
    (s.zone.lin ch.val).cur = some hd → hd.action ≠ 2 → Completes (.linFrameEnd ch (.complete data sum)) s fun z =>
      (hd.action = 1 → z = s.zone.linOk ch.val hd (linChecksum hd.enhanced (linPid hd.ident) hd.bytes) hd.bytes) ∧
      (hd.action ≠ 1 → z = s.zone.linOk ch.val hd 0 [])) ∧
  (∀ (s : State) (ch : Fin 6) (hd : LinHeader) (d l : List Byte), s.zone.logicRuns = true → (s.zone.lin ch.val).cur = some hd →
    (hd.action ≠ 2 ∨ s.zone.mono ≤ hd.start + Zone.linFrameMax hd) →
    d = (if hd.action = 1 then hd.bytes.take l.length else l.take hd.length) →
    Completes (.linFrameEnd ch (.bitError l)) s fun z =>
      z = s.zone.linFail ch.val hd 4 d.length 0 d) ∧
  (∀ (s : State) (ch : Fin 6) (hd : LinHeader) (d l : List Byte), s.zone.logicRuns = true → (s.zone.lin ch.val).cur = some hd →
    (hd.action ≠ 2 ∨ s.zone.mono ≤ hd.start + Zone.linFrameMax hd) →
    d = (if hd.action = 1 then hd.bytes.take l.length else l.take hd.length) → Completes (.linFrameEnd ch (.framing l)) s fun z =>
      z = s.zone.linFail ch.val hd 5 d.length 0 d) ∧
  (∀ (s : State) (ch : Fin 6) (hd : LinHeader) (l : List Byte), s.zone.logicRuns = true → (s.zone.lin ch.val).cur = some hd →
    hd.action = 2 → hd.start + Zone.linFrameMax hd ≤ s.zone.mono → Completes (.linResponseTimeout ch l) s fun z =>
      (l = [] → z = s.zone.linFail ch.val hd 1 0 0 []) ∧
      (l ≠ [] → z = s.zone.linFail ch.val hd 2 (min l.length hd.length) 0 (l.take hd.length))) ∧
  (∀ (s : State) (ch : Fin 6) (hd : LinHeader) (l : List Byte), s.zone.logicRuns = true → (s.zone.lin ch.val).cur = some hd →
    (hd.action ≠ 2 ∨ s.zone.mono < hd.start + Zone.linFrameMax hd) → Completes (.linResponseTimeout ch l) s fun z =>
      s.zone.Frame [] [] z) ∧
  (∀ (s : State) (ch : Fin 6) (hd : LinHeader) (check : Nat) (data : List Byte) (kind : Nat) (kept : Bool),
    s.zone.ringKind (16 + ch.val) ≠ 1 → kind = (if hd.action = 2 then 0 else if hd.action = 1 then 1 else 2) →
    kept = (decide (hd.action = 2) || s.zone.linResponder ch.val) → Gives (s.zone.linOk ch.val hd check data) fun z =>
      (z.lin ch.val) = { (s.zone.lin ch.val) with cur := none } ∧
      z.fld (pSER ch.val) LIN.LIN_COUNTS_FRAMES_OK = min (s.zone.fld (pSER ch.val) LIN.LIN_COUNTS_FRAMES_OK + 1) 65535 ∧
      (kept = true ∧ s.zone.ringKind (16 + ch.val) = 2 ∧ s.zone.ringHeld (16 + ch.val) < 64 ∧ s.zone.busQuiesced (16 + ch.val) = false → SMap.get (fun _ => []) (z.ring (16 + ch.val)).entries (s.zone.fillPtr (16 + ch.val) % 64) = linEntry 0 kind data.length hd.ident check hd.startNs data ((s.zone.ring (16 + ch.val)).seq % 65536) ∧ z.fillPtr (16 + ch.val) = (s.zone.fillPtr (16 + ch.val) + 1) % 128) ∧
      (kept = false → z.rings = s.zone.rings ∧ z.fillPtr (16 + ch.val) = s.zone.fillPtr (16 + ch.val)) ∧
      (∀ r ∈ hd.ticket.toList, (s.zone.ticket r.keeper r.num).state = .issued ∧ (s.zone.ticket r.keeper r.num).serial = r.serial → (z.ticket r.keeper r.num).state = .done ∧ (z.ticket r.keeper r.num).status = 0 ∧ (z.ticket r.keeper r.num).value = data.length % 65536) ∧
      (hd.ticket = none → z.tickets = s.zone.tickets) ∧ s.zone.BankFrame [0, 7] [.lins, .rings, .tickets] z) ∧
  (∀ (s : State) (ch : Fin 6) (hd : LinHeader) (cause bytes check : Nat) (data : List Byte) (kind : Nat),
    s.zone.ringKind (16 + ch.val) ≠ 1 → kind = (if hd.action = 2 then 0 else if hd.action = 1 then 1 else 2) →
    Gives (s.zone.linFail ch.val hd cause bytes check data) fun z =>
      (z.lin ch.val) = { (s.zone.lin ch.val) with cur := none } ∧ z.flag (pSER ch.val) LIN.LIN_EVENT_ERROR = true ∧
      z.fld (pSER ch.val) LIN.LIN_COUNTS_ERRORS = min (s.zone.fld (pSER ch.val) LIN.LIN_COUNTS_ERRORS + 1) 255 ∧
      (hd.action ≠ 0 ∧ s.zone.ringKind (16 + ch.val) = 2 ∧ s.zone.ringHeld (16 + ch.val) < 64 ∧ s.zone.busQuiesced (16 + ch.val) = false → SMap.get (fun _ => []) (z.ring (16 + ch.val)).entries (s.zone.fillPtr (16 + ch.val) % 64) = linEntry cause kind bytes hd.ident check hd.startNs data ((s.zone.ring (16 + ch.val)).seq % 65536) ∧ z.fillPtr (16 + ch.val) = (s.zone.fillPtr (16 + ch.val) + 1) % 128) ∧
      (hd.action = 0 → z.rings = s.zone.rings ∧ z.fillPtr (16 + ch.val) = s.zone.fillPtr (16 + ch.val)) ∧
      (∀ r ∈ hd.ticket.toList, (s.zone.ticket r.keeper r.num).state = .issued ∧ (s.zone.ticket r.keeper r.num).serial = r.serial → (z.ticket r.keeper r.num).state = .done ∧ (z.ticket r.keeper r.num).status = 1 ∧ (z.ticket r.keeper r.num).value = cause % 65536) ∧
      (hd.ticket = none → z.tickets = s.zone.tickets) ∧ s.zone.BankFrame [0, 7] [.lins, .rings, .tickets] z) ∧
  (∀ (s : State) (sh : LinShort) (p : Nat) (y : Zone) (d : List Byte) (hd : LinHeader), s.zone.logicRuns = true →
    p = pSER sh.channel.val → s.zone.linOn sh.channel.val = true →
    y = (s.zone.setFld p LIN.LIN_STATUS_BUS_SHORT 1).event p LIN.LIN_EVENT_BUS_SHORT →
    (s.zone.lin sh.channel.val).cur = some hd →
    d = (if hd.action = 1 then hd.bytes.take sh.done.length else sh.done.take hd.length) → Completes (.linBusShort sh) s fun z =>
      z = y.linFail sh.channel.val hd 8 d.length 0 d) ∧
  (∀ (s : State) (sh : LinShort) (p : Nat), s.zone.logicRuns = true → p = pSER sh.channel.val →
    s.zone.linOn sh.channel.val = true → (s.zone.lin sh.channel.val).cur = none → Completes (.linBusShort sh) s fun z =>
      z.flag p LIN.LIN_STATUS_BUS_SHORT = true ∧ z.flag p LIN.LIN_EVENT_BUS_SHORT = true ∧
      s.zone.Frame [p + LIN.LIN_STATUS_BUS_SHORT.off, p + LIN.LIN_EVENT_BUS_SHORT.off] [] z) ∧
  (∀ (s : State) (sh : LinShort), (s.zone.logicRuns = false ∨ s.zone.linOn sh.channel.val = false) →
    Completes (.linBusShort sh) s fun z =>
      s.zone.Frame [] [] z) ∧
  (∀ (s : State) (ch : Fin 6) (k : Keeper) (n : Fin 128), s.zone.logicRuns = true → s.zone.linOn ch.val = true →
    (s.zone.lin ch.val).cur = none → (s.zone.lin ch.val).pulse = none → Completes (.linWakeup ch k n true) s fun z =>
      z.lin ch.val = { (s.zone.lin ch.val) with pulse := some (s.zone.ticketRef k n.val, s.zone.mono) } ∧
      s.zone.Frame [] [.lins] z) ∧
  (∀ (s : State) (ch : Fin 6) (k : Keeper) (n : Fin 128) (idle : Bool) (st v : Nat), s.zone.logicRuns = true → st = 1 →
    v = (if s.zone.linOn ch.val = false then 0x12 else if idle = false ∨ (s.zone.lin ch.val).cur.isSome ∨ (s.zone.lin ch.val).pulse.isSome then 6 else 0) →
    v ≠ 0 → Completes (.linWakeup ch k n idle) s fun z =>
      ((s.zone.ticket k n.val).state = .issued → (z.ticket k n.val).state = .done ∧ (z.ticket k n.val).status = st ∧ (z.ticket k n.val).value = v % 65536) ∧
      ((s.zone.ticket k n.val).state ≠ .issued → z.tickets = s.zone.tickets ∧ z.fld (pKEEPER k) KEEPER.TICKET_EVENTS_LATE = min (s.zone.fld (pKEEPER k) KEEPER.TICKET_EVENTS_LATE + 1) 65535) ∧
      s.zone.Frame [pKEEPER k + KEEPER.TICKETS_IN_USE.off, pKEEPER k + KEEPER.TICKET_EVENTS_LATE.off] [.tickets] z) ∧
  (∀ (s : State) (ch : Fin 6) (r : TicketRef) (t st v : Nat), s.zone.logicRuns = true → (s.zone.lin ch.val).pulse = some (r, t) →
    t + 250000 ≤ s.zone.mono → st = 0 → v = 0 → Completes (.linWakeupDone ch) s fun z =>
      ((s.zone.ticket r.keeper r.num).state = .issued ∧ (s.zone.ticket r.keeper r.num).serial = r.serial → (z.ticket r.keeper r.num).state = .done ∧ (z.ticket r.keeper r.num).status = st ∧ (z.ticket r.keeper r.num).value = v % 65536) ∧
      z.lin ch.val = { (s.zone.lin ch.val) with pulse := none } ∧
      s.zone.Frame [pKEEPER .A + KEEPER.TICKETS_IN_USE.off, pKEEPER .A + KEEPER.TICKET_EVENTS_LATE.off, pKEEPER .B + KEEPER.TICKETS_IN_USE.off, pKEEPER .B + KEEPER.TICKET_EVENTS_LATE.off] [.lins, .tickets] z) ∧
  (∀ (s : State) (ch : Fin 6),
    (s.zone.logicRuns = false ∨ (s.zone.lin ch.val).pulse.all (fun x => decide (s.zone.mono < x.2 + 250000)) = true) →
    Completes (.linWakeupDone ch) s fun z =>
      s.zone.Frame [] [] z) ∧
  (∀ (s : State) (ch : Fin 6) (i : Fin 64) (y : LinSync), s.zone.logicRuns = true → s.zone.linOn ch.val = true →
    s.zone.linResponder ch.val = true → 100 * y.bitTicks ≤ 114 * s.zone.linDiv ch.val →
    86 * s.zone.linDiv ch.val ≤ 100 * y.bitTicks → (s.zone.lin ch.val).cur = none →
    (s.zone.linHeader ch.val i.val none (s.zone.mono - y.sinceBreak) y.bitTicks s.zone.mono).action ≠ 0 →
    Completes (.linHeaderReceive ch i true y) s fun z =>
      z.lin ch.val = { (s.zone.lin ch.val) with cur := some (s.zone.linHeader ch.val i.val none (s.zone.mono - y.sinceBreak) y.bitTicks s.zone.mono) } ∧
      z.fld (pSER ch.val) LIN.LIN_STATUS_LAST_ID = i.val ∧ s.zone.Frame [(pSER ch.val) + LIN.LIN_STATUS_LAST_ID.off] [.lins] z) ∧
  (∀ (s : State) (ch : Fin 6) (i : Fin 64) (y : LinSync), s.zone.logicRuns = true → s.zone.linOn ch.val = true →
    s.zone.linResponder ch.val = true → 100 * y.bitTicks ≤ 114 * s.zone.linDiv ch.val →
    86 * s.zone.linDiv ch.val ≤ 100 * y.bitTicks → (s.zone.lin ch.val).cur = none →
    (s.zone.linHeader ch.val i.val none (s.zone.mono - y.sinceBreak) y.bitTicks s.zone.mono).action = 0 →
    Completes (.linHeaderReceive ch i true y) s fun z =>
      z = (s.zone.setFld (pSER ch.val) LIN.LIN_STATUS_LAST_ID i.val).ringStore (16 + ch.val) (linEntry 0 2 0 i.val 0 (s.zone.linHeader ch.val i.val none (s.zone.mono - y.sinceBreak) y.bitTicks s.zone.mono).startNs [])) ∧
  (∀ (s : State) (ch : Fin 6) (i : Fin 64) (y : LinSync) (hd : LinHeader), s.zone.logicRuns = true → s.zone.linOn ch.val = true →
    s.zone.linResponder ch.val = true → 100 * y.bitTicks ≤ 114 * s.zone.linDiv ch.val →
    86 * s.zone.linDiv ch.val ≤ 100 * y.bitTicks → (s.zone.lin ch.val).cur = some hd → s.zone.ringKind (16 + ch.val) ≠ 1 →
    Completes (.linHeaderReceive ch i true y) s fun z =>
      z.fld (pSER ch.val) LIN.LIN_STATUS_LAST_ID = i.val ∧
      z.fld (pSER ch.val) LIN.LIN_COUNTS_ERRORS = min (s.zone.fld (pSER ch.val) LIN.LIN_COUNTS_ERRORS + 1) 255 ∧
      z.flag (pSER ch.val) LIN.LIN_EVENT_ERROR = true ∧
      (z.lin ch.val).cur.all (fun x => x == s.zone.linHeader ch.val i.val none (s.zone.mono - y.sinceBreak) y.bitTicks s.zone.mono) = true ∧
      (hd.action ≠ 0 ∧ s.zone.ringKind (16 + ch.val) = 2 ∧ s.zone.ringHeld (16 + ch.val) < 64 ∧ s.zone.busQuiesced (16 + ch.val) = false → SMap.get (fun _ => []) (z.ring (16 + ch.val)).entries (s.zone.fillPtr (16 + ch.val) % 64) = linEntry (if hd.action = 2 then 1 else 4) (if hd.action = 2 then 0 else 1) 0 hd.ident 0 hd.startNs [] ((s.zone.ring (16 + ch.val)).seq % 65536) ∨ hd.action ≠ 1 ∧ hd.action ≠ 2) ∧
      s.zone.BankFrame [0, 7] [.lins, .rings, .tickets] z) ∧
  (∀ (s : State) (ch : Fin 6) (i : Fin 64) (parity : Bool) (y : LinSync),
    (s.zone.logicRuns = false ∨ s.zone.linOn ch.val = false ∨ s.zone.linResponder ch.val = false ∨ parity = false ∨ 114 * s.zone.linDiv ch.val < 100 * y.bitTicks ∨ 100 * y.bitTicks < 86 * s.zone.linDiv ch.val) →
    Completes (.linHeaderReceive ch i parity y) s fun z =>
      s.zone.Frame [] [] z) ∧
  (∀ (s : State) (ch : Fin 6) (us : Nat), s.zone.logicRuns = true → s.zone.linOn ch.val = true → (s.zone.lin ch.val).cur = none →
    150 ≤ us → us ≤ 5000 → Completes (.linWakeRx ch us) s fun z =>
      z = (s.zone.ringStore (16 + ch.val) (linEntry 0 3 0 0 0 (s.zone.netAt (s.zone.mono - us * 250)) [])).event (pSER ch.val) LIN.LIN_EVENT_WAKE_RX ∧
      z.flag (pSER ch.val) LIN.LIN_EVENT_WAKE_RX = true) ∧
  (∀ (s : State) (ch : Fin 6) (us : Nat), s.zone.logicRuns = true → s.zone.linOn ch.val = true → (s.zone.lin ch.val).cur = none →
    150 ≤ us → us ≤ 5000 →
    s.zone.ringKind (16 + ch.val) = 2 ∧ s.zone.ringHeld (16 + ch.val) < 64 ∧ s.zone.busQuiesced (16 + ch.val) = false →
    Completes (.linWakeRx ch us) s fun z =>
      SMap.get (fun _ => []) (z.ring (16 + ch.val)).entries (s.zone.fillPtr (16 + ch.val) % 64) = linEntry 0 3 0 0 0 (s.zone.netAt (s.zone.mono - us * 250)) [] ((s.zone.ring (16 + ch.val)).seq % 65536) ∧
      z.fillPtr (16 + ch.val) = (s.zone.fillPtr (16 + ch.val) + 1) % 128 ∧ s.zone.BankFrame [7] [.rings] z) ∧
  (∀ (s : State) (ch : Fin 6) (us : Nat),
    (s.zone.logicRuns = false ∨ s.zone.linOn ch.val = false ∨ (s.zone.lin ch.val).cur ≠ none ∨ us < 150 ∨ 5000 < us) →
    Completes (.linWakeRx ch us) s fun z =>
      s.zone.Frame [] [] z)

/-- R440, R441, R442, R446, R468: SEND queues its buffer's bytes and fails with its cause: off, LENGTH 0 or above 256, four
waiting; ABORT aborts what waits. The first begins on a line idle for IDLE_TX with no reception running; every character is read
back, the first that differs or has a framing error is a collision; TX_TAIL after the last the driver is released and the ticket
completes with the length or COLLISION. What waits EXPIRE fails. Received characters (DATA7 masks the top bit) collect with their
errors counted; 256 store a continued entry; a line held low after a character, and GAP half-characters of idle, store the packet
with the time of its first start bit. A channel that is off takes nothing. -/
def Obligations.Rs485SendsAndReceivesPackets : Prop :=
  (∀ (s : State) (ch : Fin 2) (k : Keeper) (n : Fin 128) (arg : Word), s.zone.logicRuns = true → s.zone.serOn ch.val = true →
    1 ≤ (s.zone.serBuffer ch.val (arg.toNat % 16)).1 → (s.zone.serBuffer ch.val (arg.toNat % 16)).1 ≤ 256 →
    (s.zone.ser ch.val).pend.length < 4 → Completes (.serSend ch k n arg) s fun z =>
      z.ser ch.val = { (s.zone.ser ch.val) with pend := (s.zone.ser ch.val).pend ++ [⟨(s.zone.serBuffer ch.val (arg.toNat % 16)).2.1, s.zone.ticketRef k n.val, s.zone.mono⟩] } ∧
      (s.zone.serBuffer ch.val (arg.toNat % 16)).2.1.length = (s.zone.serBuffer ch.val (arg.toNat % 16)).1 ∧
      z.fld (Zone.serPage ch.val) SER.SER_STATUS_PENDING = (s.zone.ser ch.val).pend.length + 1 ∧
      s.zone.Frame [(Zone.serPage ch.val) + SER.SER_STATUS_PENDING.off] [.sers, .freeNext] z) ∧
  (∀ (s : State) (ch : Fin 2) (k : Keeper) (n : Fin 128) (arg : Word) (st v : Nat), s.zone.logicRuns = true → st = 1 →
    v = (if s.zone.serOn ch.val = false then 0x12 else if (s.zone.serBuffer ch.val (arg.toNat % 16)).1 = 0 ∨ 256 < (s.zone.serBuffer ch.val (arg.toNat % 16)).1 then 3 else if 4 ≤ (s.zone.ser ch.val).pend.length then 4 else 0) →
    v ≠ 0 → Completes (.serSend ch k n arg) s fun z =>
      ((s.zone.ticket k n.val).state = .issued → (z.ticket k n.val).state = .done ∧ (z.ticket k n.val).status = st ∧ (z.ticket k n.val).value = v % 65536) ∧
      ((s.zone.ticket k n.val).state ≠ .issued → z.tickets = s.zone.tickets ∧ z.fld (pKEEPER k) KEEPER.TICKET_EVENTS_LATE = min (s.zone.fld (pKEEPER k) KEEPER.TICKET_EVENTS_LATE + 1) 65535) ∧
      s.zone.Frame [pKEEPER k + KEEPER.TICKETS_IN_USE.off, pKEEPER k + KEEPER.TICKET_EVENTS_LATE.off] [.tickets, .freeNext] z) ∧
  (∀ (s : State) (ch : Fin 2) (k : Keeper) (n : Fin 128) (st v : Nat), s.zone.logicRuns = true → st = 0 → v = 0 →
    Completes (.serAbort ch k n) s fun z =>
      (s.zone.ticketRef k n.val ∉ (s.zone.ser ch.val).pend.map (·.ticket) → ((s.zone.ticket k n.val).state = .issued → (z.ticket k n.val).state = .done ∧ (z.ticket k n.val).status = st ∧ (z.ticket k n.val).value = v % 65536)) ∧
      (∀ r ∈ (s.zone.ser ch.val).pend.map (·.ticket), (s.zone.ticket r.keeper r.num).state = .issued ∧ (s.zone.ticket r.keeper r.num).serial = r.serial → (z.ticket r.keeper r.num).state = .done ∧ (z.ticket r.keeper r.num).status = 4 ∧ (z.ticket r.keeper r.num).value = 0) ∧
      (z.ser ch.val) = { (s.zone.ser ch.val) with pend := [] } ∧
      s.zone.Frame [(Zone.serPage ch.val) + SER.SER_STATUS_PENDING.off, pKEEPER .A + KEEPER.TICKETS_IN_USE.off, pKEEPER .A + KEEPER.TICKET_EVENTS_LATE.off, pKEEPER .B + KEEPER.TICKETS_IN_USE.off, pKEEPER .B + KEEPER.TICKET_EVENTS_LATE.off] [.tickets, .sers] z) ∧
  (∀ (s : State) (ch : Fin 2) (q : SerPend) (l : List SerPend), s.zone.logicRuns = true → (s.zone.ser ch.val).pend = q :: l →
    s.zone.serOn ch.val = true → s.zone.serLineIdle ch.val = true → (s.zone.ser ch.val).chars = [] →
    Completes (.serSendStart ch) s fun z =>
      z.ser ch.val = { (s.zone.ser ch.val) with pend := l, cur := some ⟨q, 0, false⟩ } ∧
      z.flag (Zone.serPage ch.val) SER.SER_STATUS_DRIVING = true ∧
      (l.length < 8 → z.fld (Zone.serPage ch.val) SER.SER_STATUS_PENDING = l.length) ∧
      s.zone.Frame [(Zone.serPage ch.val) + SER.SER_STATUS_PENDING.off] [.sers] z) ∧
  (∀ (s : State) (ch : Fin 2),
    (s.zone.logicRuns = false ∨ (s.zone.ser ch.val).pend = [] ∨ s.zone.serOn ch.val = false ∨ s.zone.serLineIdle ch.val = false ∨ (s.zone.ser ch.val).chars ≠ []) →
    Completes (.serSendStart ch) s fun z =>
      s.zone.Frame [] [] z) ∧
  (∀ (s : State) (ch : Fin 2) (t : SerSend) (st v : Nat) (r : TicketRef), s.zone.logicRuns = true →
    (s.zone.ser ch.val).cur = some t → r = t.item.ticket →
    (s.zone.ser ch.val).lastAt.all (fun a => decide (a + s.zone.fld (Zone.serPage ch.val) SER.SER_TIMING_TX_TAIL * s.zone.serDiv ch.val ≤ s.zone.mono)) = true →
    (t.collided = true ∨ t.item.data.length ≤ t.done) → st = (if t.collided then 1 else 0) →
    v = (if t.collided then 1 else t.item.data.length) → Completes (.serSendEnd ch) s fun z =>
      ((s.zone.ticket r.keeper r.num).state = .issued ∧ (s.zone.ticket r.keeper r.num).serial = r.serial → (z.ticket r.keeper r.num).state = .done ∧ (z.ticket r.keeper r.num).status = st ∧ (z.ticket r.keeper r.num).value = v % 65536) ∧
      z.ser ch.val = { (s.zone.ser ch.val) with cur := none, lastAt := some s.zone.mono } ∧
      z.flag (Zone.serPage ch.val) SER.SER_STATUS_DRIVING = false ∧
      (t.collided = true → z.flag (Zone.serPage ch.val) SER.SER_EVENT_COLLISION = true ∧ z.fld (Zone.serPage ch.val) SER.SER_COUNTS_COLLISIONS = min (s.zone.fld (Zone.serPage ch.val) SER.SER_COUNTS_COLLISIONS + 1) 255) ∧
      (t.collided = false → z.fld (Zone.serPage ch.val) SER.SER_COUNTS_COLLISIONS = s.zone.fld (Zone.serPage ch.val) SER.SER_COUNTS_COLLISIONS ∧ z.flag (Zone.serPage ch.val) SER.SER_EVENT_COLLISION = s.zone.flag (Zone.serPage ch.val) SER.SER_EVENT_COLLISION) ∧
      s.zone.Frame [(Zone.serPage ch.val) + SER.SER_STATUS_PENDING.off, (Zone.serPage ch.val) + SER.SER_EVENT_COLLISION.off, (Zone.serPage ch.val) + SER.SER_COUNTS_COLLISIONS.off, pKEEPER .A + KEEPER.TICKETS_IN_USE.off, pKEEPER .A + KEEPER.TICKET_EVENTS_LATE.off, pKEEPER .B + KEEPER.TICKETS_IN_USE.off, pKEEPER .B + KEEPER.TICKET_EVENTS_LATE.off] [.tickets, .sers] z) ∧
  (∀ (s : State) (ch : Fin 2),
    (s.zone.logicRuns = false ∨ (s.zone.ser ch.val).cur = none ∨ (s.zone.ser ch.val).lastAt.any (fun a => decide (s.zone.mono < a + s.zone.fld (Zone.serPage ch.val) SER.SER_TIMING_TX_TAIL * s.zone.serDiv ch.val)) = true ∨ (s.zone.ser ch.val).cur.all (fun t => !t.collided && decide (t.done < t.item.data.length)) = true) →
    Completes (.serSendEnd ch) s fun z =>
      s.zone.Frame [] [] z) ∧
  (∀ (s : State) (ch : Fin 2) (l : List TicketRef), s.zone.logicRuns = true →
    l = ((s.zone.ser ch.val).pend.filter (fun p => decide (p.at_ + s.zone.fld (Zone.serPage ch.val) SER.SER_EXPIRE_WAIT * 2500 ≤ s.zone.mono))).map (·.ticket) →
    Completes (.serBusyExpired ch) s fun z =>
      (∀ r ∈ l, (s.zone.ticket r.keeper r.num).state = .issued ∧ (s.zone.ticket r.keeper r.num).serial = r.serial → (z.ticket r.keeper r.num).state = .done ∧ (z.ticket r.keeper r.num).status = 1 ∧ (z.ticket r.keeper r.num).value = 2) ∧
      z.ser ch.val = { (s.zone.ser ch.val) with pend := (s.zone.ser ch.val).pend.filter (fun p => decide (s.zone.mono < p.at_ + s.zone.fld (Zone.serPage ch.val) SER.SER_EXPIRE_WAIT * 2500)) } ∧
      (l = [] → z.tickets = s.zone.tickets) ∧
      s.zone.Frame [(Zone.serPage ch.val) + SER.SER_STATUS_PENDING.off, pKEEPER .A + KEEPER.TICKETS_IN_USE.off, pKEEPER .A + KEEPER.TICKET_EVENTS_LATE.off, pKEEPER .B + KEEPER.TICKETS_IN_USE.off, pKEEPER .B + KEEPER.TICKET_EVENTS_LATE.off] [.tickets, .sers] z) ∧
  (∀ (s : State) (ch : Fin 2) (k : Keeper) (n : Fin 128), s.zone.logicRuns = false → Completes (.serBusyExpired ch) s fun z =>
      s.zone.Frame [] [] z) ∧
  (∀ (s : State) (ch : Fin 2) (value v : Byte) (pb fb : Bool) (held : Nat), s.zone.logicRuns = true →
    (s.zone.ser ch.val).cur = none → s.zone.serOn ch.val = true →
    v = (if s.zone.flag (Zone.serPage ch.val) SER.SER_CFG_DATA7 then value &&& 0x7F else value) →
    (s.zone.ser ch.val).chars.length < 256 → held = 0 → Completes (.serCharReceive ch value pb fb held) s fun z =>
      z.ser ch.val = { (s.zone.ser ch.val) with chars := (s.zone.ser ch.val).chars ++ [v], parity := (s.zone.ser ch.val).parity + b2n pb, framing := (s.zone.ser ch.val).framing + b2n fb, startNs := if (s.zone.ser ch.val).chars = [] then s.zone.netAt (s.zone.mono - s.zone.serBits ch.val * s.zone.serDiv ch.val) else (s.zone.ser ch.val).startNs, lastAt := some s.zone.mono } ∧
      z.fld (Zone.serPage ch.val) SER.SER_COUNTS_PARITY_ERR = min (s.zone.fld (Zone.serPage ch.val) SER.SER_COUNTS_PARITY_ERR + b2n pb) 255 ∧
      z.fld (Zone.serPage ch.val) SER.SER_COUNTS_FRAMING_ERR = min (s.zone.fld (Zone.serPage ch.val) SER.SER_COUNTS_FRAMING_ERR + b2n fb) 255 ∧
      z.flag (Zone.serPage ch.val) SER.SER_EVENT_RX_ERROR = (s.zone.flag (Zone.serPage ch.val) SER.SER_EVENT_RX_ERROR || pb || fb) ∧
      s.zone.Frame [(Zone.serPage ch.val) + SER.SER_STATUS_PENDING.off, (Zone.serPage ch.val) + SER.SER_COUNTS_PARITY_ERR.off, (Zone.serPage ch.val) + SER.SER_EVENT_RX_ERROR.off] [.sers] z) ∧
  (∀ (s : State) (ch : Fin 2) (value v : Byte) (pb fb : Bool) (held : Nat) (y : SerSt) (e : Bool), s.zone.logicRuns = true →
    (s.zone.ser ch.val).cur = none → s.zone.serOn ch.val = true →
    v = (if s.zone.flag (Zone.serPage ch.val) SER.SER_CFG_DATA7 then value &&& 0x7F else value) →
    e = decide (256 ≤ (s.zone.ser ch.val).chars.length) →
    y = (if e then { (s.zone.ser ch.val) with chars := [], parity := 0, framing := 0 } else (s.zone.ser ch.val)) →
    s.zone.ringKind (22 + ch.val) = 2 → s.zone.ringHeld (22 + ch.val) < 63 → s.zone.busQuiesced (22 + ch.val) = false →
    (e = true ∨ 0 < held) → Completes (.serCharReceive ch value pb fb held) s fun z =>
      z.ser ch.val = (if held = 0 then { y with chars := y.chars ++ [v], parity := y.parity + b2n pb, framing := y.framing + b2n fb, startNs := (if y.chars = [] then s.zone.netAt (s.zone.mono - held - s.zone.serBits ch.val * s.zone.serDiv ch.val) else (s.zone.ser ch.val).startNs), lastAt := some s.zone.mono } else { y with chars := [], parity := 0, framing := 0, startNs := (if y.chars = [] then s.zone.netAt (s.zone.mono - held - s.zone.serBits ch.val * s.zone.serDiv ch.val) else (s.zone.ser ch.val).startNs), lastAt := some s.zone.mono }) ∧
      z.fillPtr (22 + ch.val) = (s.zone.fillPtr (22 + ch.val) + b2n e + b2n (decide (0 < held))) % 128 ∧
      (e = true → SMap.get (fun _ => []) (z.ring (22 + ch.val)).entries (s.zone.fillPtr (22 + ch.val) % 64) = serEntry true (s.zone.ser ch.val).parity (s.zone.ser ch.val).framing (s.zone.ser ch.val).startNs (s.zone.ser ch.val).chars ((s.zone.ring (22 + ch.val)).seq % 65536)) ∧
      (0 < held → SMap.get (fun _ => []) (z.ring (22 + ch.val)).entries ((s.zone.fillPtr (22 + ch.val) + b2n e) % 64) = serEntry false (y.parity + b2n pb) (y.framing + 1) (if y.chars = [] then s.zone.netAt (s.zone.mono - held - s.zone.serBits ch.val * s.zone.serDiv ch.val) else (s.zone.ser ch.val).startNs) (y.chars ++ [v]) (((s.zone.ring (22 + ch.val)).seq + b2n e) % 65536)) ∧
      (0 < held → z.fld (Zone.serPage ch.val) SER.SER_COUNTS_FRAMING_ERR = min (s.zone.fld (Zone.serPage ch.val) SER.SER_COUNTS_FRAMING_ERR + 1) 255) ∧
      s.zone.BankFrame [7] [.sers, .rings] z) ∧
  (∀ (s : State) (ch : Fin 2) (value v : Byte) (pb fb : Bool) (held : Nat) (t : SerSend), s.zone.logicRuns = true →
    (s.zone.ser ch.val).cur = some t → t.collided = false → t.done < t.item.data.length →
    v = (if s.zone.flag (Zone.serPage ch.val) SER.SER_CFG_DATA7 then value &&& 0x7F else value) →
    Completes (.serCharReceive ch value pb fb held) s fun z =>
      z.ser ch.val = { (s.zone.ser ch.val) with cur := some { t with done := t.done + 1, collided := fb || v != (if s.zone.flag (Zone.serPage ch.val) SER.SER_CFG_DATA7 then t.item.data.getD t.done 0 &&& 0x7F else t.item.data.getD t.done 0) }, lastAt := some s.zone.mono } ∧
      s.zone.Frame [(Zone.serPage ch.val) + SER.SER_STATUS_PENDING.off] [.sers] z) ∧
  (∀ (s : State) (ch : Fin 2) (value : Byte) (pb fb : Bool) (held : Nat),
    (s.zone.logicRuns = false ∨ ((s.zone.ser ch.val).cur = none ∧ s.zone.serOn ch.val = false) ∨ (s.zone.ser ch.val).cur.any (fun t => t.collided || decide (t.item.data.length ≤ t.done)) = true) →
    Completes (.serCharReceive ch value pb fb held) s fun z =>
      s.zone.Frame [] [] z) ∧
  (∀ (s : State) (ch : Fin 2), s.zone.logicRuns = true → (s.zone.ser ch.val).chars ≠ [] →
    (s.zone.ser ch.val).lastAt.any (fun t => decide (t + s.zone.fld (Zone.serPage ch.val) SER.SER_TIMING_GAP * s.zone.serBits ch.val * s.zone.serDiv ch.val / 2 ≤ s.zone.mono)) = true →
    Completes (.serPacketEnd ch) s fun z =>
      z = (s.zone.setSer ch.val { (s.zone.ser ch.val) with chars := [], parity := 0, framing := 0 }).ringStore (22 + ch.val) (serEntry false (s.zone.ser ch.val).parity (s.zone.ser ch.val).framing (s.zone.ser ch.val).startNs (s.zone.ser ch.val).chars)) ∧
  (∀ (s : State) (ch : Fin 2), s.zone.logicRuns = true → (s.zone.ser ch.val).chars ≠ [] →
    (s.zone.ser ch.val).lastAt.any (fun t => decide (t + s.zone.fld (Zone.serPage ch.val) SER.SER_TIMING_GAP * s.zone.serBits ch.val * s.zone.serDiv ch.val / 2 ≤ s.zone.mono)) = true →
    s.zone.ringKind (22 + ch.val) = 2 → s.zone.ringHeld (22 + ch.val) < 64 → s.zone.busQuiesced (22 + ch.val) = false →
    Completes (.serPacketEnd ch) s fun z =>
      SMap.get (fun _ => []) (z.ring (22 + ch.val)).entries (s.zone.fillPtr (22 + ch.val) % 64) = serEntry false (s.zone.ser ch.val).parity (s.zone.ser ch.val).framing (s.zone.ser ch.val).startNs (s.zone.ser ch.val).chars ((s.zone.ring (22 + ch.val)).seq % 65536) ∧
      (z.ser ch.val) = { (s.zone.ser ch.val) with chars := [], parity := 0, framing := 0 } ∧
      z.fillPtr (22 + ch.val) = (s.zone.fillPtr (22 + ch.val) + 1) % 128 ∧ s.zone.BankFrame [7] [.sers, .rings] z) ∧
  (∀ (s : State) (ch : Fin 2),
    (s.zone.logicRuns = false ∨ (s.zone.ser ch.val).chars = [] ∨ (s.zone.ser ch.val).lastAt.all (fun t => decide (s.zone.mono < t + s.zone.fld (Zone.serPage ch.val) SER.SER_TIMING_GAP * s.zone.serBits ch.val * s.zone.serDiv ch.val / 2)) = true) →
    Completes (.serPacketEnd ch) s fun z =>
      s.zone.Frame [] [] z)

/-! ### Sleep and wake -/

/-- R433, R451, R452, R453, R455, R456, R458, R459, R460, R464, R466, R468: the drain, once over, copies the wake configuration;
the commit point opens the loads, stops keepers, CAN channels and links, asks armed partners to sleep; the entry ends in SLEEP
without DRAM. A source in its condition (input levels held for FILTER, polls 2^POLL ms apart of which two show it, CAN patterns,
frames and errors, TC10, the timer) wakes: the first is latched and alone in WAKE_SEEN, of one always-on cycle the lower; before
the commit point the sleep is cancelled at the end of that cycle (the grid: log entry 66), after it WAKE_SRC shows LATE and the
module starts. The awake limit begins a sleep with a notice; KEEP_AWAKE of the secure world restarts the timer, cancels such a
sleep, is ignored in a requested one. A wake without communication for 500 ms counts. An unserved transceiver falls back (no
sooner than 180 ms) and returns when served. What is not due or not armed changes nothing. -/
def Obligations.SleepsRunTheirSequenceAndMeetWakes : Prop :=
  (∀ (s : State), (s.zone.mode = Mode.service ∨ s.zone.mode = Mode.lightship) → s.zone.sleep.phase = 1 →
    s.zone.sleep.since + s.zone.fld (pZONE 0) ZONE0.SLEEP_CFG_DRAIN * 250000 ≤ s.zone.mono → Completes (.drainEnd) s fun z =>
      z.sleep.phase = 2 ∧ z.sleep.since = s.zone.mono ∧ z.sleep.eth = s.zone.fld (pZONE 0) ZONE0.ETH_WAKE_ARM ∧
      z.sleep.pairNs = s.zone.nowNs ∧ z.sleep.pairAon = s.zone.time.aon ∧
      (∀ k : Fin 16, z.inWake k.val = s.zone.rd (pZONE 0 + ZONE0.IN_WAKE_MODE.off + 4 * k.val)) ∧
      (∀ k : Fin 16, z.sleep.can.testBit k.val = s.zone.flag (pCAN k.val) CAN.SW_CFG_WAKE_EN) ∧
      (∀ k : Fin 16, ∀ j : Fin 5, z.swWord k.val j.val = s.zone.rd (pCAN k.val + CAN.SW_CFG_WAKE_EN.off + 4 * j.val)) ∧
      z.sleep.latched = s.zone.sleep.latched ∧ z.sleep.refs = s.zone.sleep.refs ∧ z.sleep.timer = s.zone.sleep.timer ∧ z.sleep.awakeFrom = s.zone.sleep.awakeFrom ∧
      s.zone.Frame [] [.sleep] z) ∧
  (∀ (s : State),
    ((s.zone.mode ≠ Mode.service ∧ s.zone.mode ≠ Mode.lightship) ∨ s.zone.sleep.phase ≠ 1 ∨ s.zone.mono < s.zone.sleep.since + s.zone.fld (pZONE 0) ZONE0.SLEEP_CFG_DRAIN * 250000) →
    Completes (.drainEnd) s fun z =>
      s.zone.Frame [] [] z) ∧
  (∀ (s : State), (s.zone.mode = Mode.service ∨ s.zone.mode = Mode.lightship) → s.zone.sleep.phase = 2 →
    Completes (.commitPoint) s fun z =>
      z.sleep.phase = 3 ∧ z.sleep.since = s.zone.mono ∧ z.sleep.latched = s.zone.sleep.latched ∧
      (z.sleep.timer = if s.zone.fld (pZONE 0) ZONE0.WAKE_TIMER_SECONDS = 0 then none else some (s.zone.time.aon + s.zone.fld (pZONE 0) ZONE0.WAKE_TIMER_SECONDS * 32768)) ∧
      z.role .A = Role.stopped ∧ z.role .B = Role.stopped ∧
      (∀ c : Fin 16, z.flag (pCAN c.val) CAN.CHAN_CFG_EN = false ∧ (z.can c.val).pend = []) ∧
      (∀ n : Fin 48, (z.load n.val).forced = true ∧ (s.zone.band (loadFeed n.val) ≠ 3 → z.flag (pLOAD n.val) LOAD.CH_STATUS_CONDUCTING = false)) ∧
      (∀ p : Fin 28, z.flag (pPORT p.val) PORT.PHY_STATUS_LINK = false) ∧
      z.sleep.tc10 = s.zone.sleep.tc10 ++ (((List.range 8).filter fun j => s.zone.sleep.eth.testBit j && s.zone.flag (pPORT (16 + j)) PORT.PHY_STATUS_LINK).map fun j => ⟨16 + j, false⟩) ∧
      (∀ p : Fin 28, SMap.get (fun _ => 0) z.sleep.phys p.val = (if 16 ≤ p.val ∧ s.zone.sleep.eth.testBit (p.val - 16) = true then 1 else 2)) ∧
      z.pendingSlots = [] ∧
      (s.zone.sleep.latched ≠ none → z.flag (pZONE 0) ZONE0.WAKE_SRC_LATE = true ∧ z.flag (pZONE 0) ZONE0.SLEEP_EVENT_LATE_WAKE = true ∧ z.fld (pZONE 0) ZONE0.SLEEP_COUNTS_LATE_WAKES = satU 8 (s.zone.fld (pZONE 0) ZONE0.SLEEP_COUNTS_LATE_WAKES + 1)) ∧
      z.mode = s.zone.mode ∧ z.inputs = s.zone.inputs ∧ z.time.net = s.zone.time.net) ∧
  (∀ (s : State), ((s.zone.mode ≠ Mode.service ∧ s.zone.mode ≠ Mode.lightship) ∨ s.zone.sleep.phase ≠ 2) →
    Completes (.commitPoint) s fun z =>
      s.zone.Frame [] [] z) ∧
  (∀ (s : State), (s.zone.mode = Mode.service ∨ s.zone.mode = Mode.lightship) → s.zone.sleep.phase = 3 →
    Completes (.sleepEntryComplete) s fun z =>
      z.mode = Mode.sleep ∧ z.fld (pZONE 0) ZONE0.STATE_PREV = s.zone.mode.code ∧
      z.fld (pZONE 0) ZONE0.STATE_ENTRY_CAUSE = Cause.sleepCommit ∧ z.flag (pZONE 0) ZONE0.STATE_SLEEP_PENDING = false ∧
      z.sleep = { s.zone.sleep with phase := 4, since := s.zone.mono } ∧ z.supv.executing = [] ∧ z.start.released = false ∧
      (∀ a : Nat, z.memByte a = if 0x1000000000 ≤ a ∧ a ≤ 0x13FFFFFFFF then 0 else s.zone.memByte a) ∧
      z.rings = s.zone.rings ∧ z.loads = s.zone.loads ∧ z.records = s.zone.records ∧ z.tickets = s.zone.tickets ∧ z.time.aon = s.zone.time.aon) ∧
  (∀ (s : State), ((s.zone.mode ≠ Mode.service ∧ s.zone.mode ≠ Mode.lightship) ∨ s.zone.sleep.phase ≠ 3) →
    Completes (.sleepEntryComplete) s fun z =>
      s.zone.Frame [] [] z) ∧
  (∀ (s : State) (k : Fin 16) (l : WakeLevel), 1 ≤ s.zone.sleep.phase → ZONE0.IN_WAKE_WETTING.get (s.zone.inWake k.val) = 0 →
    s.zone.wakeShows k.val (s.zone.comparesAbove k.val l.millivolts) = true → Completes (.inputWake k l) s fun z =>
      (ZONE0.IN_WAKE_FILTER.get (s.zone.inWake k.val) * 25000 ≤ l.ticks → z = s.zone.wake 1 k.val) ∧
      (l.ticks < ZONE0.IN_WAKE_FILTER.get (s.zone.inWake k.val) * 25000 → z = s.zone)) ∧
  (∀ (s : State) (k : Fin 16) (l : WakeLevel), 1 ≤ s.zone.sleep.phase → ZONE0.IN_WAKE_WETTING.get (s.zone.inWake k.val) = 0 →
    s.zone.wakeShows k.val (s.zone.comparesAbove k.val l.millivolts) = false → Completes (.inputWake k l) s fun z =>
      z.sleep = { s.zone.sleep with refs := SMap.set (fun _ => false) s.zone.sleep.refs k.val (s.zone.comparesAbove k.val l.millivolts) } ∧
      s.zone.Frame [] [.sleep] z) ∧
  (∀ (s : State) (k : Fin 16) (l : WakeLevel), (s.zone.sleep.phase = 0 ∨ ZONE0.IN_WAKE_WETTING.get (s.zone.inWake k.val) ≠ 0) →
    Completes (.inputWake k l) s fun z =>
      s.zone.Frame [] [] z) ∧
  (∀ (s : State) (k : Fin 16) (above : Bool) (ref : Bool), ref = SMap.get (fun _ => false) s.zone.sleep.refs k.val →
    1 ≤ ZONE0.IN_WAKE_MODE.get (s.zone.inWake k.val) ∧ ZONE0.IN_WAKE_MODE.get (s.zone.inWake k.val) ≤ 5 → Gives (s.zone) fun z =>
      s.zone.wakeShows k.val above = (if ZONE0.IN_WAKE_MODE.get (s.zone.inWake k.val) = 1 then above && !ref else if ZONE0.IN_WAKE_MODE.get (s.zone.inWake k.val) = 2 then !above && ref else if ZONE0.IN_WAKE_MODE.get (s.zone.inWake k.val) = 3 then above != ref else if ZONE0.IN_WAKE_MODE.get (s.zone.inWake k.val) = 4 then above else !above)) ∧
  (∀ (s : State) (k : Fin 16) (mV n : Nat), 1 ≤ s.zone.sleep.phase → ZONE0.IN_WAKE_WETTING.get (s.zone.inWake k.val) ≠ 0 →
    (SMap.get (fun _ => none) s.zone.sleep.polledAt k.val).all (fun t => decide (t + 2 ^ ZONE0.IN_WAKE_POLL.get (s.zone.inWake k.val) * 32768 / 1000 ≤ s.zone.time.aon)) = true →
    s.zone.wakeShows k.val (s.zone.comparesAbove k.val mV) = true → n = SMap.get (fun _ => 0) s.zone.sleep.polls k.val + 1 →
    Completes (.wakePoll k mV) s fun z =>
      (n < 2 → z = s.zone.setSleep (fun _ => { { s.zone.sleep with polledAt := SMap.set (fun _ => none) s.zone.sleep.polledAt k.val (some s.zone.time.aon), wetted := SMap.set (fun _ => 0) s.zone.sleep.wetted k.val (if ZONE0.IN_WAKE_WET_DIR.get (s.zone.inWake k.val) = 0 then (Zone.wettingMa (ZONE0.IN_WAKE_WETTING.get (s.zone.inWake k.val)) : Int) else -(Zone.wettingMa (ZONE0.IN_WAKE_WETTING.get (s.zone.inWake k.val)) : Int)) } with polls := SMap.set (fun _ => 0) s.zone.sleep.polls k.val n })) ∧
      (2 ≤ n → z = (s.zone.setSleep (fun _ => { { s.zone.sleep with polledAt := SMap.set (fun _ => none) s.zone.sleep.polledAt k.val (some s.zone.time.aon), wetted := SMap.set (fun _ => 0) s.zone.sleep.wetted k.val (if ZONE0.IN_WAKE_WET_DIR.get (s.zone.inWake k.val) = 0 then (Zone.wettingMa (ZONE0.IN_WAKE_WETTING.get (s.zone.inWake k.val)) : Int) else -(Zone.wettingMa (ZONE0.IN_WAKE_WETTING.get (s.zone.inWake k.val)) : Int)) } with polls := SMap.set (fun _ => 0) s.zone.sleep.polls k.val 2 })).wake 1 k.val)) ∧
  (∀ (s : State) (k : Fin 16) (mV : Nat), 1 ≤ s.zone.sleep.phase → ZONE0.IN_WAKE_WETTING.get (s.zone.inWake k.val) ≠ 0 →
    (SMap.get (fun _ => none) s.zone.sleep.polledAt k.val).all (fun t => decide (t + 2 ^ ZONE0.IN_WAKE_POLL.get (s.zone.inWake k.val) * 32768 / 1000 ≤ s.zone.time.aon)) = true →
    s.zone.wakeShows k.val (s.zone.comparesAbove k.val mV) = false → Completes (.wakePoll k mV) s fun z =>
      z.sleep = { { s.zone.sleep with polledAt := SMap.set (fun _ => none) s.zone.sleep.polledAt k.val (some s.zone.time.aon), wetted := SMap.set (fun _ => 0) s.zone.sleep.wetted k.val (if ZONE0.IN_WAKE_WET_DIR.get (s.zone.inWake k.val) = 0 then (Zone.wettingMa (ZONE0.IN_WAKE_WETTING.get (s.zone.inWake k.val)) : Int) else -(Zone.wettingMa (ZONE0.IN_WAKE_WETTING.get (s.zone.inWake k.val)) : Int)) } with polls := SMap.set (fun _ => 0) s.zone.sleep.polls k.val 0, refs := SMap.set (fun _ => false) s.zone.sleep.refs k.val (s.zone.comparesAbove k.val mV) } ∧
      s.zone.Frame [] [.sleep] z) ∧
  (∀ (s : State) (k : Fin 16) (mV : Nat),
    (s.zone.sleep.phase = 0 ∨ ZONE0.IN_WAKE_WETTING.get (s.zone.inWake k.val) = 0 ∨ ¬ ((SMap.get (fun _ => none) s.zone.sleep.polledAt k.val).all (fun t => decide (t + 2 ^ ZONE0.IN_WAKE_POLL.get (s.zone.inWake k.val) * 32768 / 1000 ≤ s.zone.time.aon)) = true)) →
    Completes (.wakePoll k mV) s fun z =>
      s.zone.Frame [] [] z) ∧
  (∀ (s : State) (kind index : Nat), 1 ≤ kind ∧ kind ≤ 4 → index < 28 → (kind = 1 → index < 16) → (kind = 2 → index < 16) →
    (kind = 3 → 16 ≤ index) → (kind = 4 → index = 0) → (s.zone.sleep.phase = 3 ∨ s.zone.sleep.phase = 4) →
    s.zone.sleep.latched = none → Gives (s.zone.wake kind index) fun z =>
      z.sleep = { s.zone.sleep with latched := some ⟨s.zone.time.aon, kind, index⟩ } ∧
      z.fld (pZONE 0) ZONE0.WAKE_SRC_KIND = kind ∧ z.fld (pZONE 0) ZONE0.WAKE_SRC_INDEX = index ∧
      z.flag (pZONE 0) ZONE0.WAKE_SRC_LATE = true ∧ z.flag (pZONE 0) ZONE0.SLEEP_EVENT_LATE_WAKE = true ∧
      z.fld (pZONE 0) ZONE0.SLEEP_COUNTS_LATE_WAKES = satU 8 (s.zone.fld (pZONE 0) ZONE0.SLEEP_COUNTS_LATE_WAKES + 1) ∧
      z.rd ((pZONE 0) + ZONE0.WAKE_SEEN_INPUT.off) = (if kind = 1 then BitVec.ofNat 32 (2 ^ index) else if kind = 2 then BitVec.ofNat 32 (2 ^ (16 + index)) else 0) ∧
      z.rd ((pZONE 0) + ZONE0.WAKE_SEEN_ETH_PORT.off) = (if kind = 3 then BitVec.ofNat 32 (2 ^ (index - 16)) else if kind = 4 then BitVec.ofNat 32 (2 ^ ZONE0.WAKE_SEEN_ETH_TIMER.lo) else 0) ∧
      s.zone.Frame [pZONE 0 + ZONE0.WAKE_SRC_KIND.off, pZONE 0 + ZONE0.WAKE_SEEN_INPUT.off, pZONE 0 + ZONE0.WAKE_SEEN_ETH_PORT.off, pZONE 0 + ZONE0.SLEEP_EVENT_PENDING.off, pZONE 0 + ZONE0.SLEEP_COUNTS_CANCELLED.off] [.sleep] z) ∧
  (∀ (s : State) (kind index : Nat), 1 ≤ kind ∧ kind ≤ 4 → index < 28 → (kind = 1 → index < 16) → (kind = 2 → index < 16) →
    (kind = 3 → 16 ≤ index) → (kind = 4 → index = 0) → (s.zone.sleep.phase = 1 ∨ s.zone.sleep.phase = 2) →
    s.zone.sleep.latched = none → Gives (s.zone.wake kind index) fun z =>
      z.sleep = { s.zone.sleep with latched := some ⟨s.zone.time.aon, kind, index⟩ } ∧
      z.rd ((pZONE 0) + ZONE0.WAKE_SEEN_INPUT.off) = (if kind = 1 then BitVec.ofNat 32 (2 ^ index) else if kind = 2 then BitVec.ofNat 32 (2 ^ (16 + index)) else 0) ∧
      z.rd ((pZONE 0) + ZONE0.WAKE_SEEN_ETH_PORT.off) = (if kind = 3 then BitVec.ofNat 32 (2 ^ (index - 16)) else if kind = 4 then BitVec.ofNat 32 (2 ^ ZONE0.WAKE_SEEN_ETH_TIMER.lo) else 0) ∧
      z.rd ((pZONE 0) + ZONE0.WAKE_SRC_KIND.off) = s.zone.rd ((pZONE 0) + ZONE0.WAKE_SRC_KIND.off) ∧
      s.zone.Frame [(pZONE 0) + ZONE0.WAKE_SEEN_INPUT.off, (pZONE 0) + ZONE0.WAKE_SEEN_ETH_PORT.off] [.sleep] z) ∧
  (∀ (s : State) (kind index : Nat) (w : WakeLatch), 1 ≤ kind ∧ kind ≤ 4 → index < 28 → (kind = 1 → index < 16) →
    (kind = 2 → index < 16) → (kind = 3 → 16 ≤ index) → (kind = 4 → index = 0) → 1 ≤ s.zone.sleep.phase →
    s.zone.sleep.latched = some w → Gives (s.zone.wake kind index) fun z =>
      (kind = 1 → z.fldBit (pZONE 0) ZONE0.WAKE_SEEN_INPUT index = true) ∧ (kind = 2 → z.fldBit (pZONE 0) ZONE0.WAKE_SEEN_CAN index = true) ∧ (kind = 3 → z.fldBit (pZONE 0) ZONE0.WAKE_SEEN_ETH_PORT (index - 16) = true) ∧ (kind = 4 → z.flag (pZONE 0) ZONE0.WAKE_SEEN_ETH_TIMER = true) ∧
      (w.aon = s.zone.time.aon ∧ (kind < w.kind ∨ (kind = w.kind ∧ index < w.index)) → z.sleep = { s.zone.sleep with latched := some ⟨s.zone.time.aon, kind, index⟩ } ∧ (3 ≤ s.zone.sleep.phase → z.fld (pZONE 0) ZONE0.WAKE_SRC_KIND = kind ∧ z.fld (pZONE 0) ZONE0.WAKE_SRC_INDEX = index ∧ z.flag (pZONE 0) ZONE0.WAKE_SRC_LATE = true)) ∧
      (¬ (w.aon = s.zone.time.aon ∧ (kind < w.kind ∨ (kind = w.kind ∧ index < w.index))) → z.sleep = s.zone.sleep ∧ z.rd ((pZONE 0) + ZONE0.WAKE_SRC_KIND.off) = s.zone.rd ((pZONE 0) + ZONE0.WAKE_SRC_KIND.off)) ∧
      s.zone.Frame [(pZONE 0) + ZONE0.WAKE_SRC_KIND.off, (pZONE 0) + ZONE0.WAKE_SEEN_INPUT.off, (pZONE 0) + ZONE0.WAKE_SEEN_ETH_PORT.off] [.sleep] z) ∧
  (∀ (s : State) (w : WakeLatch), (s.zone.sleep.phase = 1 ∨ s.zone.sleep.phase = 2) → s.zone.sleep.latched = some w →
    w.kind < 8 → w.index < 32 → w.aon < s.zone.time.aon → Gives (s.zone.wakeCancels) fun z =>
      z.sleep = { s.zone.sleep with phase := 0, awakeFrom := s.zone.mono, timer := none, latched := none } ∧
      z.fld (pZONE 0) ZONE0.WAKE_SRC_KIND = w.kind ∧ z.fld (pZONE 0) ZONE0.WAKE_SRC_INDEX = w.index ∧
      z.flag (pZONE 0) ZONE0.STATE_SLEEP_PENDING = false ∧ z.fld (pZONE 0) ZONE0.SLEEP_STATUS_CAUSE = 0 ∧
      z.flag (pZONE 0) ZONE0.SLEEP_EVENT_CANCELLED = true ∧
      z.fld (pZONE 0) ZONE0.SLEEP_COUNTS_CANCELLED = satU 8 (s.zone.fld (pZONE 0) ZONE0.SLEEP_COUNTS_CANCELLED + 1) ∧
      z.flag (pZONE 0) ZONE0.WAKE_SRC_LATE = false ∧
      (s.zone.supv.sessionKey ≠ none → z.lastAnswer = some (0x0009, 0, 0, leBytes 4 2 ++ leBytes 4 (z.rd ((pZONE 0) + ZONE0.WAKE_SRC_KIND.off)).toNat)) ∧
      (s.zone.records.length < 256 → z.records.length = s.zone.records.length + 1) ∧
      z.role .A = s.zone.role .A ∧ z.role .B = s.zone.role .B ∧
      (w.kind = 2 → z.flag (pCAN w.index) CAN.SW_STATUS_WOKE = true ∧ z.flag (pCAN w.index) CAN.CHAN_EVENT_WAKE = true) ∧
      z.loads = s.zone.loads ∧ z.keeperA = s.zone.keeperA ∧ z.keeperB = s.zone.keeperB) ∧
  (∀ (s : State),
    ((s.zone.sleep.phase ≠ 1 ∧ s.zone.sleep.phase ≠ 2) ∨ s.zone.sleep.latched.all (fun w => decide (s.zone.time.aon ≤ w.aon)) = true) →
    Gives (s.zone.wakeCancels) fun z =>
      s.zone.Frame [] [] z) ∧
  (∀ (s : State) (ch : Fin 16) (seen : CanSeen),
    (if 2 ≤ s.zone.sleep.phase then s.zone.sleep.can.testBit ch.val else s.zone.flag (pCAN ch.val) CAN.SW_CFG_WAKE_EN) = true →
    1 ≤ s.zone.sleep.phase →
    ((seen = .pattern ∧ CAN.SW_CFG_SW_EN.get (s.zone.swWord ch.val 0) = 0) ∨ (seen = .error ∧ CAN.SW_CFG_SW_EN.get (s.zone.swWord ch.val 0) = 1 ∧ 31 ≤ s.zone.fld (pCAN ch.val) CAN.SW_STATUS_FEC)) →
    Completes (.canWake ch seen) s fun z =>
      (seen = .pattern → z = s.zone.wake 2 ch.val) ∧
      (seen = .error → z = (s.zone.setFld (pCAN ch.val) CAN.SW_STATUS_FEC 32).wake 2 ch.val)) ∧
  (∀ (s : State) (ch : Fin 16) (f : CanFrame) (rate : Fin 4),
    (if 2 ≤ s.zone.sleep.phase then s.zone.sleep.can.testBit ch.val else s.zone.flag (pCAN ch.val) CAN.SW_CFG_WAKE_EN) = true →
    1 ≤ s.zone.sleep.phase → CAN.SW_CFG_SW_EN.get (s.zone.swWord ch.val 0) = 1 → f.format = 0 →
    Completes (.canWake ch (.frame f rate)) s fun z =>
      (s.zone.swMatches ch.val f rate.val = true → z = (if s.zone.fld (pCAN ch.val) CAN.SW_STATUS_FEC = 32 then s.zone else s.zone.setFld (pCAN ch.val) CAN.SW_STATUS_FEC (s.zone.fld (pCAN ch.val) CAN.SW_STATUS_FEC - 1)).wake 2 ch.val) ∧
      (s.zone.swMatches ch.val f rate.val = false → z = (if s.zone.fld (pCAN ch.val) CAN.SW_STATUS_FEC = 32 then s.zone else s.zone.setFld (pCAN ch.val) CAN.SW_STATUS_FEC (s.zone.fld (pCAN ch.val) CAN.SW_STATUS_FEC - 1)))) ∧
  (∀ (s : State) (ch : Fin 16),
    (if 2 ≤ s.zone.sleep.phase then s.zone.sleep.can.testBit ch.val else s.zone.flag (pCAN ch.val) CAN.SW_CFG_WAKE_EN) = true →
    1 ≤ s.zone.sleep.phase → CAN.SW_CFG_SW_EN.get (s.zone.swWord ch.val 0) = 1 →
    s.zone.fld (pCAN ch.val) CAN.SW_STATUS_FEC < 31 → Completes (.canWake ch .error) s fun z =>
      z.fld (pCAN ch.val) CAN.SW_STATUS_FEC = s.zone.fld (pCAN ch.val) CAN.SW_STATUS_FEC + 1 ∧
      s.zone.Frame [pCAN ch.val + CAN.SW_STATUS_FEC.off] [] z) ∧
  (∀ (s : State) (ch : Fin 16) (seen : CanSeen),
    (s.zone.sleep.phase = 0 ∨ (if 2 ≤ s.zone.sleep.phase then s.zone.sleep.can.testBit ch.val else s.zone.flag (pCAN ch.val) CAN.SW_CFG_WAKE_EN) = false ∨ (CAN.SW_CFG_SW_EN.get (s.zone.swWord ch.val 0) = 1 ∧ seen = .pattern) ∨ (CAN.SW_CFG_SW_EN.get (s.zone.swWord ch.val 0) = 0 ∧ seen ≠ .pattern) ∨ (match seen with | .frame f _ => decide (f.format ≠ 0) | _ => false) = true) →
    Completes (.canWake ch seen) s fun z =>
      s.zone.Frame [] [] z) ∧
  (∀ (s : State) (port : Fin 12), 1 ≤ s.zone.sleep.phase →
    (if 2 ≤ s.zone.sleep.phase then s.zone.sleep.eth else s.zone.fld (pZONE 0) ZONE0.ETH_WAKE_ARM).testBit port.val = true →
    Completes (.ethWake port) s fun z =>
      z = s.zone.wake 3 (16 + port.val)) ∧
  (∀ (s : State) (port : Fin 12),
    (s.zone.sleep.phase = 0 ∨ (if 2 ≤ s.zone.sleep.phase then s.zone.sleep.eth else s.zone.fld (pZONE 0) ZONE0.ETH_WAKE_ARM).testBit port.val = false) →
    Completes (.ethWake port) s fun z =>
      s.zone.Frame [] [] z) ∧
  (∀ (s : State) (t : Nat), s.zone.sleep.timer = some t → 3 ≤ s.zone.sleep.phase → t ≤ s.zone.time.aon →
    Completes (.wakeTimer) s fun z =>
      z = (s.zone.setSleep (fun x => { x with timer := none })).wake 4 0) ∧
  (∀ (s : State), (s.zone.sleep.timer.all (fun t => decide (s.zone.time.aon < t)) = true ∨ s.zone.sleep.phase < 3) →
    Completes (.wakeTimer) s fun z =>
      s.zone.Frame [] [] z) ∧
  (∀ (s : State), s.zone.mode = Mode.sleep → s.zone.sleep.latched ≠ none → Completes (.wakeStart) s fun z =>
      z.mode = Mode.start ∧ z.fld (pZONE 0) ZONE0.STATE_PREV = Mode.sleep.code ∧
      z.fld (pZONE 0) ZONE0.STATE_ENTRY_CAUSE = Cause.wake ∧
      z.fld (pZONE 0) ZONE0.SLEEP_MISC_WAKES = satU 16 (s.zone.fld (pZONE 0) ZONE0.SLEEP_MISC_WAKES + 1) ∧
      z.rd (pZONE 0 + ZONE0.WAKE_SRC_KIND.off) = s.zone.rd (pZONE 0 + ZONE0.WAKE_SRC_KIND.off) ∧
      z.rd (pZONE 0 + ZONE0.WAKE_SEEN_INPUT.off) = s.zone.rd (pZONE 0 + ZONE0.WAKE_SEEN_INPUT.off) ∧
      z.sleep.phase = 0 ∧ z.sleep.timer = none ∧ z.sleep.latched = none ∧
      z.sleep.wakeKind = s.zone.fld (pZONE 0) ZONE0.WAKE_SRC_KIND ∧ z.sleep.wakeUps = s.zone.sleep.eth ∧
      (s.zone.fld (pZONE 0) ZONE0.WAKE_SRC_KIND = 2 ∧ s.zone.fld (pZONE 0) ZONE0.WAKE_SRC_INDEX < 16 → z.flag (pCAN (s.zone.fld (pZONE 0) ZONE0.WAKE_SRC_INDEX)) CAN.SW_STATUS_WOKE = true)) ∧
  (∀ (s : State), (s.zone.mode ≠ Mode.sleep ∨ s.zone.sleep.latched = none) → Completes (.wakeStart) s fun z =>
      s.zone.Frame [] [] z) ∧
  (∀ (s : State), (s.zone.mode = Mode.service ∨ s.zone.mode = Mode.lightship) → s.zone.sleep.phase = 0 →
    s.zone.sleep.awakeFrom + s.zone.fld (pZONE 0) ZONE0.SLEEP_CFG_AWAKE_LIMIT * 60000 * 250000 ≤ s.zone.mono →
    Completes (.awakeLimit) s fun z =>
      z.flag (pZONE 0) ZONE0.SLEEP_EVENT_AWAKE_LIMIT = true ∧
      z.fld (pZONE 0) ZONE0.SLEEP_COUNTS_AWAKE_LIMIT = satU 8 (s.zone.fld (pZONE 0) ZONE0.SLEEP_COUNTS_AWAKE_LIMIT + 1) ∧
      z.flag (pZONE 0) ZONE0.STATE_SLEEP_PENDING = true ∧ z.flag (pZONE 0) ZONE0.SLEEP_EVENT_PENDING = true ∧
      z.fld (pZONE 0) ZONE0.SLEEP_STATUS_CAUSE = 2 ∧ z.fld (pZONE 0) ZONE0.WAKE_TIMER_SECONDS = 0 ∧
      z.sleep.phase = 1 ∧ z.sleep.since = s.zone.mono ∧ z.sleep.latched = none ∧ z.sleep.timer = none ∧
      (s.zone.supv.sessionKey ≠ none → z.lastAnswer = some (0x0009, 0, 0, leBytes 4 1 ++ leBytes 4 (s.zone.rd (pZONE 0 + ZONE0.WAKE_SRC_KIND.off)).toNat)) ∧
      z.mode = s.zone.mode ∧ z.loads = s.zone.loads ∧ z.cans = s.zone.cans) ∧
  (∀ (s : State),
    ((s.zone.mode ≠ Mode.service ∧ s.zone.mode ≠ Mode.lightship) ∨ s.zone.sleep.phase ≠ 0 ∨ s.zone.mono < s.zone.sleep.awakeFrom + s.zone.fld (pZONE 0) ZONE0.SLEEP_CFG_AWAKE_LIMIT * 60000 * 250000) →
    Completes (.awakeLimit) s fun z =>
      s.zone.Frame [] [] z) ∧
  (∀ (s : State) (writer : Writer), s.zone.start.released = true → Zone.secureWriter writer = true →
    (s.zone.sleep.phase = 0 ∨ 3 ≤ s.zone.sleep.phase) → Completes (.keepAwake writer) s fun z =>
      z.sleep = { s.zone.sleep with heard := s.zone.sleep.heard.or (some s.zone.mono), awakeFrom := if s.zone.sleep.phase = 0 then s.zone.mono else s.zone.sleep.awakeFrom } ∧
      s.zone.Frame [] [.sleep] z) ∧
  (∀ (s : State) (writer : Writer), s.zone.start.released = true → Zone.secureWriter writer = true →
    (s.zone.sleep.phase = 1 ∨ s.zone.sleep.phase = 2) → s.zone.fld (pZONE 0) ZONE0.SLEEP_STATUS_CAUSE = 2 →
    Completes (.keepAwake writer) s fun z =>
      z.sleep = { s.zone.sleep with heard := s.zone.sleep.heard.or (some s.zone.mono), phase := 0, awakeFrom := s.zone.mono, timer := none, latched := none } ∧
      z.fld (pZONE 0) ZONE0.WAKE_SRC_KIND = 0 ∧ z.fld (pZONE 0) ZONE0.WAKE_SRC_INDEX = 0 ∧
      z.flag (pZONE 0) ZONE0.STATE_SLEEP_PENDING = false ∧ z.fld (pZONE 0) ZONE0.SLEEP_STATUS_CAUSE = 0 ∧
      z.flag (pZONE 0) ZONE0.SLEEP_EVENT_CANCELLED = true ∧
      z.fld (pZONE 0) ZONE0.SLEEP_COUNTS_CANCELLED = satU 8 (s.zone.fld (pZONE 0) ZONE0.SLEEP_COUNTS_CANCELLED + 1) ∧
      z.flag (pZONE 0) ZONE0.WAKE_SRC_LATE = false ∧
      (s.zone.supv.sessionKey ≠ none → z.lastAnswer = some (0x0009, 0, 0, leBytes 4 2 ++ leBytes 4 (z.rd ((pZONE 0) + ZONE0.WAKE_SRC_KIND.off)).toNat)) ∧
      (s.zone.records.length < 256 → z.records.length = s.zone.records.length + 1) ∧
      z.role .A = s.zone.role .A ∧ z.role .B = s.zone.role .B) ∧
  (∀ (s : State) (writer : Writer), s.zone.start.released = true → Zone.secureWriter writer = true →
    (s.zone.sleep.phase = 1 ∨ s.zone.sleep.phase = 2) → s.zone.fld (pZONE 0) ZONE0.SLEEP_STATUS_CAUSE = 1 →
    Completes (.keepAwake writer) s fun z =>
      z.fld (pZONE 0) ZONE0.SLEEP_MISC_KEEP_IGNORED = satU 16 (s.zone.fld (pZONE 0) ZONE0.SLEEP_MISC_KEEP_IGNORED + 1) ∧
      s.zone.Frame [pZONE 0 + ZONE0.SLEEP_MISC_KEEP_IGNORED.off] [] z) ∧
  (∀ (s : State) (writer : Writer), (Zone.secureWriter writer = false ∨ s.zone.start.released = false) →
    Completes (.keepAwake writer) s fun z =>
      s.zone.Frame [] [] z) ∧
  (∀ (s : State) (t : Nat), s.zone.sleep.firstAt = some t → t + 500 * 250000 ≤ s.zone.mono → 1 ≤ s.zone.sleep.wakeKind →
    s.zone.sleep.wakeKind ≤ 3 → Completes (.falseWakeCheck) s fun z =>
      z.sleep = { s.zone.sleep with wakeKind := 0 } ∧
      (s.zone.sleep.heard.all (fun h => decide (t + 500 * 250000 < h)) = true → z.flag (pZONE 0) ZONE0.SLEEP_EVENT_FALSE_WAKE = true ∧ z.fld (pZONE 0) ZONE0.SLEEP_COUNTS_FALSE_WAKES = satU 8 (s.zone.fld (pZONE 0) ZONE0.SLEEP_COUNTS_FALSE_WAKES + 1)) ∧
      (s.zone.sleep.heard.any (fun h => decide (h ≤ t + 500 * 250000)) = true → z.rd ((pZONE 0) + ZONE0.SLEEP_EVENT_PENDING.off) = s.zone.rd ((pZONE 0) + ZONE0.SLEEP_EVENT_PENDING.off) ∧ z.fld (pZONE 0) ZONE0.SLEEP_COUNTS_FALSE_WAKES = s.zone.fld (pZONE 0) ZONE0.SLEEP_COUNTS_FALSE_WAKES) ∧
      s.zone.Frame [pZONE 0 + ZONE0.SLEEP_EVENT_PENDING.off, pZONE 0 + ZONE0.SLEEP_COUNTS_CANCELLED.off] [.sleep] z) ∧
  (∀ (s : State),
    (s.zone.sleep.firstAt.all (fun t => decide (s.zone.mono < t + 500 * 250000)) = true ∨ s.zone.sleep.wakeKind = 0 ∨ 3 < s.zone.sleep.wakeKind) →
    Completes (.falseWakeCheck) s fun z =>
      s.zone.Frame [] [] z) ∧
  (∀ (s : State) (n : Fin 22), s.zone.logicRuns = true → s.zone.time.stopped = false → Completes (.trxWatchdogServe n) s fun z =>
      z.inFallback n.val = false ∧
      (s.zone.inFallback n.val = true ∧ n.val < 16 → z.fld (pCAN n.val) CAN.CHAN_STATUS_ERR_STATE = 0 ∧ z.canTec n.val = 0 ∧ z.canRec n.val = 0 ∧ (z.can n.val).recovers = []) ∧
      (¬ (s.zone.inFallback n.val = true ∧ n.val < 16) → z.cans = s.zone.cans ∧ z.tickets = s.zone.tickets) ∧
      z.sleep = { s.zone.sleep with served := SMap.set (fun _ => 0) s.zone.sleep.served n.val s.zone.mono } ∧
      s.zone.BankFrame [0, 6] [.sleep, .cans, .tickets] z) ∧
  (∀ (s : State) (n : Fin 22), (s.zone.logicRuns = false ∨ s.zone.time.stopped = true) →
    Completes (.trxWatchdogServe n) s fun z =>
      s.zone.Frame [] [] z) ∧
  (∀ (s : State) (n : Fin 22), s.zone.mode ≠ Mode.off → s.zone.inFallback n.val = false →
    s.zone.start.entered + 180 * 250000 ≤ s.zone.mono →
    SMap.get (fun _ => 0) s.zone.sleep.served n.val + 180 * 250000 ≤ s.zone.mono → Completes (.trxFallback n) s fun z =>
      z.inFallback n.val = true ∧
      z.fld (pZONE 0) ZONE0.TRX_FALLBACK_ENTRIES = satU 8 (s.zone.fld (pZONE 0) ZONE0.TRX_FALLBACK_ENTRIES + 1) ∧
      s.zone.Frame [pZONE 0 + ZONE0.TRX_FALLBACK_ACTIVE.off, pZONE 0 + ZONE0.TRX_FALLBACK_LIN_ACTIVE.off] [] z) ∧
  (∀ (s : State) (n : Fin 22),
    (s.zone.mode = Mode.off ∨ s.zone.inFallback n.val = true ∨ s.zone.mono < s.zone.start.entered + 180 * 250000 ∨ s.zone.mono < SMap.get (fun _ => 0) s.zone.sleep.served n.val + 180 * 250000) →
    Completes (.trxFallback n) s fun z =>
      s.zone.Frame [] [] z) ∧
  (∀ (s : State) (ch : Fin 16) (seen : CanSeen), s.zone.inFallback ch.val = true →
    s.zone.flag (pCAN ch.val) CAN.SW_CFG_WAKE_EN = true → Completes (.fallbackWake ch seen) s fun z =>
      ((s.zone.canSees ch.val seen).1 = true → z = (s.zone.canSees ch.val seen).2.setFldBit (pZONE 0) ZONE0.TRX_WAKE_WAKE_SEEN ch.val true) ∧
      ((s.zone.canSees ch.val seen).1 = false → z = (s.zone.canSees ch.val seen).2) ∧
      (seen = .pattern ∧ CAN.SW_CFG_SW_EN.get (s.zone.swWord ch.val 0) = 0 → z.fldBit (pZONE 0) ZONE0.TRX_WAKE_WAKE_SEEN ch.val = true) ∧
      s.zone.Frame [pZONE 0 + ZONE0.TRX_WAKE_WAKE_SEEN.off, pCAN ch.val + CAN.SW_STATUS_FEC.off] [] z) ∧
  (∀ (s : State) (ch : Fin 16) (seen : CanSeen),
    (s.zone.inFallback ch.val = false ∨ s.zone.flag (pCAN ch.val) CAN.SW_CFG_WAKE_EN = false) →
    Completes (.fallbackWake ch seen) s fun z =>
      s.zone.Frame [] [] z)

/-! ### Safety cores -/

/-- R473, R478, R479, R480, R482, R485, R487, R489, R492, R495, R496, R498: a leg of a running core reads its CSRs once, the
second pass getting the complements (R480), and commits where both passes agree: registers, CSRs (misa stays), traps, the next pc,
minstret. One that differs, or is injected, is recorded in ZDP_LAST and waits (an index or register the spec gives no number for
is free, log entry 2); a failed comparator or delay buffer makes the cluster unchecked and halts. A re-run 8 cycles later or more
that agrees counts and reports a transient fault, one that differs halts. In single pass nothing is compared. An access leg
compares its address, acts once, gives its value to both passes, takes an access fault on error, and keeps the value for its re-
run. The comparator test, the debugger, Xzdp and Xzmr act by their rules; a CSR not held, or not of the mode, raises its exception
(CSR lists of the published ISA: log entry 100). What is not due or cannot run changes nothing. -/
def Obligations.LegsCommitMismatchAndRerun : Prop :=
  (∀ (s : State) (n : Fin 4) (mode : SafetyMode) (native inverted : LegPass) (checks : LegChecks), s.zone.start.released = true →
    s.zone.legRuns n.val mode native = true → (s.zone.core n.val).fault = none → (s.zone.core n.val).single = false →
    checks.comparator = false → checks.double = false →
    (injectIndex (s.zone.core n.val).inject 0).all (fun i => decide (native.results.length ≤ i)) = true →
    (legMismatch (s.zone.readPasses n.val native inverted).1 (s.zone.readPasses n.val native inverted).2.1 none = none) →
    Completes (.dualpassLeg n mode native inverted checks) s fun z =>
      z = ((s.zone.readPasses n.val native inverted).2.2.setCore n.val { (s.zone.readPasses n.val native inverted).2.2.core n.val with dbCe := satU 8 (((s.zone.readPasses n.val native inverted).2.2.core n.val).dbCe + checks.corrected) }).commitLeg n.val mode (s.zone.readPasses n.val native inverted).1) ∧
  (∀ (s : State) (n : Fin 4) (mode : SafetyMode) (native : LegPass),
    native.results.all (fun r => match r with | .reg _ _ => true | _ => false) = true → (s.zone.core n.val).deferred = [] →
    Gives (s.zone.commitLeg n.val mode native) fun z =>
      z.core n.val = { (s.zone.core n.val) with x := native.results.foldl (fun m r => match r with | .reg rd v => if rd = 0 then m else SMap.set (fun _ => 0) m rd.toNat v | _ => m) (s.zone.core n.val).x, pc := native.nextPc, fault := none, instret := (if (s.zone.safetyCsr_ (2 * n.val) 0x320).getLsbD 2 then (s.zone.core n.val).instret else (s.zone.core n.val).instret + native.retired) } ∧
      s.zone.Frame [] [.cores] z) ∧
  (∀ (s : State) (n : Fin 4) (mode : SafetyMode) (native : LegPass) (cause tval ms : Word),
    native.results = [.trap cause tval ms] → (s.zone.core n.val).deferred = [] →
    Gives (s.zone.commitLeg n.val mode native) fun z =>
      z.core n.val = { (s.zone.core n.val) with csrs := SMap.set (fun _ => 0) (SMap.set (fun _ => 0) (SMap.set (fun _ => 0) (SMap.set (fun _ => 0) (s.zone.core n.val).csrs 0x342 cause) 0x343 tval) 0x300 ms) 0x341 (s.zone.core n.val).pc, pc := native.nextPc, fault := none, instret := (if (s.zone.safetyCsr_ (2 * n.val) 0x320).getLsbD 2 then (s.zone.core n.val).instret else (s.zone.core n.val).instret + native.retired) } ∧
      s.zone.Frame [] [.cores] z) ∧
  (∀ (s : State) (n : Fin 4) (mode : SafetyMode) (native : LegPass) (v : Word), native.results = [.csr 0x301 v] →
    (s.zone.core n.val).deferred = [] → Gives (s.zone.commitLeg n.val mode native) fun z =>
      (z.coreCsrRead n.val 0x301 ⟨0, 0⟩).1 = 0x40901105 ∧
      (z.core n.val).x = (s.zone.core n.val).x ∧ (z.core n.val).pc = native.nextPc ∧ s.zone.Frame [] [.cores] z) ∧
  (∀ (s : State) (n : Fin 4) (mode : SafetyMode) (native : LegPass) (num : BitVec 12) (v : Word), native.results = [.csr num v] →
    (s.zone.core n.val).deferred = [] → (num = 0x340 ∨ num = 0x305 ∨ num = 0x342) →
    Gives (s.zone.commitLeg n.val mode native) fun z =>
      (z.coreCsrRead n.val num.toNat ⟨0, 0⟩).1 = v ∧
      (z.core n.val).x = (s.zone.core n.val).x ∧ (z.core n.val).pc = native.nextPc ∧ s.zone.Frame [] [.cores] z) ∧
  (∀ (s : State) (n : Fin 4) (mode : SafetyMode) (native inverted : LegPass) (checks : LegChecks) (rd : BitVec 5) (num : BitVec 12) (p q : LegPoint) (v : Word),
    s.zone.start.released = true → s.zone.legRuns n.val mode native = true → (s.zone.core n.val).fault = none →
    (s.zone.core n.val).single = false → checks.comparator = false → checks.double = false →
    (s.zone.core n.val).inject.getLsbD 0 = false → (s.zone.core n.val).deferred = [] → native.results = [.csrRead rd num p] →
    inverted.results = [.csrRead rd num q] → native.nextPc = ~~~inverted.nextPc → inverted.timely = true →
    v = (s.zone.coreCsrRead n.val num.toNat p).1 → Completes (.dualpassLeg n mode native inverted checks) s fun z =>
      z.core n.val = { (s.zone.core n.val) with x := if rd = 0 then (s.zone.core n.val).x else SMap.set (fun _ => 0) (s.zone.core n.val).x rd.toNat v, pc := native.nextPc, dbCe := satU 8 ((s.zone.core n.val).dbCe + checks.corrected), instret := (if (s.zone.safetyCsr_ (2 * n.val) 0x320).getLsbD 2 then (s.zone.core n.val).instret else (s.zone.core n.val).instret + native.retired) } ∧
      (num = 0x301 → v = 0x40901105) ∧
      (num = 0xB02 ∨ num = 0xC02 → v = BitVec.ofNat 32 ((s.zone.core n.val).instret + p.retired)) ∧
      (num = 0xC82 ∨ num = 0xB82 → v = BitVec.ofNat 32 (((s.zone.core n.val).instret + p.retired) / 2 ^ 32)) ∧
      s.zone.Frame [] [.cores, .freeNext] z) ∧
  (∀ (s : State) (n : Fin 4) (mode : SafetyMode) (native inverted : LegPass) (checks : LegChecks), s.zone.start.released = true →
    s.zone.legRuns n.val mode native = true → (s.zone.core n.val).fault = none → (s.zone.core n.val).single = true →
    Completes (.dualpassLeg n mode native inverted checks) s fun z =>
      z = (s.zone.readPasses n.val native inverted).2.2.commitLeg n.val mode (s.zone.readPasses n.val native inverted).1) ∧
  (∀ (s : State) (n : Fin 4) (mode : SafetyMode) (native inverted : LegPass) (checks : LegChecks) (m : Mismatch),
    s.zone.start.released = true → s.zone.legRuns n.val mode native = true → (s.zone.core n.val).fault = none →
    (s.zone.core n.val).single = false → checks.comparator = false → checks.double = false →
    (injectIndex (s.zone.core n.val).inject 0).all (fun i => decide (native.results.length ≤ i)) = true →
    (legMismatch (s.zone.readPasses n.val native inverted).1 (s.zone.readPasses n.val native inverted).2.1 none = some m) →
    Completes (.dualpassLeg n mode native inverted checks) s fun z =>
      m.injected = false ∧
      z.core n.val = { (s.zone.core n.val) with last := (z.core n.val).last, lastPc := (s.zone.core n.val).pc, fault := some ⟨(s.zone.core n.val).pc, false, false, none, s.zone.mono⟩, dbCe := satU 8 ((s.zone.core n.val).dbCe + checks.corrected), injected := satU 8 (s.zone.core n.val).injected } ∧
      (z.core n.val).last.toNat / 2 ^ 28 = m.kind * 4 ∧
      (∀ i ∈ m.index.toList, (z.core n.val).last.toNat / 2 ^ 16 % 64 = i % 64) ∧
      (∀ r ∈ m.reg.toList, (z.core n.val).last.toNat % 2 ^ 16 = r % 32) ∧ s.zone.Frame [] [.cores, .freeNext] z) ∧
  (∀ (s : State) (p q : LegPass) (i : Nat), q.results.length = p.results.length → i < p.results.length →
    (List.range i).all (fun j => match p.results[j]?, q.results[j]? with | some a, some b => legAgrees a b | _, _ => false) = true →
    (match p.results[i]?, q.results[i]? with | some a, some b => !legAgrees a b | _, _ => false) = true → Gives (s.zone) fun z =>
      (legMismatch p q none = (p.results[i]?).map (fun r => ⟨legKind r, some i, legReg r, false⟩))) ∧
  (∀ (s : State) (n : Fin 4) (mode : SafetyMode) (native inverted : LegPass) (checks : LegChecks) (i : Nat) (r : LegResult),
    s.zone.start.released = true → s.zone.legRuns n.val mode native = true → (s.zone.core n.val).fault = none →
    (s.zone.core n.val).single = false → checks.comparator = false → checks.double = false →
    (s.zone.core n.val).inject.getLsbD 0 = true → i = (s.zone.core n.val).inject.toNat / 2 ^ 8 % 64 →
    (native.results[i]?) = some r → native.results.all (fun r => match r with | .csrRead _ _ _ => false | _ => true) = true →
    inverted.results.length = native.results.length →
    (List.range i).all (fun j => match native.results[j]?, inverted.results[j]? with | some a, some b => legAgrees a b | _, _ => false) = true →
    Completes (.dualpassLeg n mode native inverted checks) s fun z =>
      z.core n.val = { (s.zone.core n.val) with last := (z.core n.val).last, lastPc := (s.zone.core n.val).pc, inject := (s.zone.core n.val).inject &&& 0xFFFFFFFE, fault := some ⟨(s.zone.core n.val).pc, true, false, none, s.zone.mono⟩, dbCe := satU 8 ((s.zone.core n.val).dbCe + checks.corrected), injected := satU 8 ((s.zone.core n.val).injected + 1) } ∧
      (z.core n.val).last.toNat / 2 ^ 16 = legKind r * 2 ^ 14 + 2 ^ 13 + i ∧ s.zone.Frame [] [.cores, .freeNext] z) ∧
  (∀ (s : State) (n : Fin 4) (mode : SafetyMode) (native inverted : LegPass) (checks : LegChecks), s.zone.start.released = true →
    s.zone.legRuns n.val mode native = true → (s.zone.core n.val).fault = none → (s.zone.core n.val).single = false →
    (checks.comparator = true ∨ checks.double = true) → (s.zone.core n.val).deferred = [] →
    native.results.all (fun r => match r with | .csrRead _ _ _ => false | _ => true) = true →
    Completes (.dualpassLeg n mode native inverted checks) s fun z =>
      (z.core n.val).halted = true ∧ (z.core n.val).fault = none ∧ (z.core n.val).x = (s.zone.core n.val).x ∧ (z.core n.val).pc = (s.zone.core n.val).pc ∧
      (z.core n.val).compFail = ((s.zone.core n.val).compFail || checks.comparator) ∧ (z.core n.val).dbFail = ((s.zone.core n.val).dbFail || !checks.comparator) ∧
      (z.core n.val).dbCe = satU 8 ((s.zone.core n.val).dbCe + checks.corrected) ∧
      (∀ m : Fin 4, (z.core m.val).unchecked = true) ∧ z.fld pSAFE SAFE0.MON_STATUS_UNCHECKED = 1 ∧
      s.zone.Reports z Src.checkerFail (s.zone.legDetail n.val)) ∧
  (∀ (s : State) (n : Fin 4) (mode : SafetyMode) (native inverted : LegPass) (checks : LegChecks),
    (s.zone.start.released = false ∨ s.zone.legRuns n.val mode native = false ∨ (s.zone.core n.val).fault ≠ none) →
    Completes (.dualpassLeg n mode native inverted checks) s fun z =>
      s.zone.Frame [] [] z) ∧
  (∀ (s : State) (n : Fin 4) (mode : SafetyMode) (native inverted : LegPass) (checks : LegChecks),
    (s.zone.start.released = false ∨ s.zone.legRuns n.val mode native = false ∨ (s.zone.core n.val).fault.all (fun f => f.isAccess || decide (s.zone.mono < f.detected + 3)) = true) →
    Completes (.legRerun n mode native inverted checks) s fun z =>
      s.zone.Frame [] [] z) ∧
  (∀ (s : State) (n : Fin 4) (mode : SafetyMode) (native : LegPass),
    (64 < native.results.length ∨ 64 < native.retired ∨ (s.zone.core n.val).split = true ∨ (s.zone.core n.val).halted = true) →
    Gives (s.zone) fun z =>
      s.zone.legRuns n.val mode native = false) ∧
  (∀ (s : State) (n : Fin 4) (native : LegPass) (num : BitVec 12) (v : Word), native.results = [.csr num v] →
    num.toNat / 256 % 4 ≠ 0 → Gives (s.zone) fun z =>
      s.zone.legRuns n.val .u native = false) ∧
  (∀ (s : State) (n : Fin 4) (mode : SafetyMode) (native inverted : LegPass) (checks : LegChecks) (x : LegFault) (inj : Option Nat),
    s.zone.start.released = true → s.zone.legRuns n.val mode native = true → (s.zone.core n.val).fault = some x →
    x.isAccess = false → x.detected + 3 ≤ s.zone.mono →
    inj = (if x.injected then (injectIndex (s.zone.core n.val).inject 1).filter (fun i => decide (i < native.results.length)) else none) →
    (s.zone.core n.val).single = false → checks.comparator = false → checks.double = false →
    (legMismatch (s.zone.readPasses n.val native inverted).1 (s.zone.readPasses n.val native inverted).2.1 inj = none) →
    Completes (.legRerun n mode native inverted checks) s fun z =>
      z = (((s.zone.readPasses n.val native inverted).2.2.setCore n.val { (s.zone.readPasses n.val native inverted).2.2.core n.val with dbCe := satU 8 (((s.zone.readPasses n.val native inverted).2.2.core n.val).dbCe + checks.corrected) }).commitLeg n.val mode (s.zone.readPasses n.val native inverted).1).transient n.val x) ∧
  (∀ (s : State) (n : Fin 4) (mode : SafetyMode) (native inverted : LegPass) (checks : LegChecks) (x : LegFault) (inj : Option Nat),
    s.zone.start.released = true → s.zone.legRuns n.val mode native = true → (s.zone.core n.val).fault = some x →
    x.isAccess = false → x.detected + 3 ≤ s.zone.mono →
    inj = (if x.injected then (injectIndex (s.zone.core n.val).inject 1).filter (fun i => decide (i < native.results.length)) else none) →
    (s.zone.core n.val).single = false → checks.comparator = false → checks.double = false → inj = none →
    (s.zone.core n.val).deferred = [] → native.results.all (fun r => match r with | .reg _ _ => true | _ => false) = true →
    (legMismatch native inverted none = none) → x.injected = false →
    Completes (.legRerun n mode native inverted checks) s fun z =>
      z.core n.val = { (s.zone.core n.val) with x := native.results.foldl (fun m r => match r with | .reg rd v => if rd = 0 then m else SMap.set (fun _ => 0) m rd.toNat v | _ => m) (s.zone.core n.val).x, pc := native.nextPc, fault := none, transient := satU 16 ((s.zone.core n.val).transient + 1), dbCe := satU 8 ((s.zone.core n.val).dbCe + checks.corrected), instret := (if (s.zone.safetyCsr_ (2 * n.val) 0x320).getLsbD 2 then (s.zone.core n.val).instret else (s.zone.core n.val).instret + native.retired) } ∧
      s.zone.Reports z Src.dualpassTransient (s.zone.legDetail n.val)) ∧
  (∀ (s : State) (n : Fin 4) (mode : SafetyMode) (native inverted : LegPass) (checks : LegChecks) (x : LegFault) (inj : Option Nat) (m : Mismatch),
    s.zone.start.released = true → s.zone.legRuns n.val mode native = true → (s.zone.core n.val).fault = some x →
    x.isAccess = false → x.detected + 3 ≤ s.zone.mono →
    inj = (if x.injected then (injectIndex (s.zone.core n.val).inject 1).filter (fun i => decide (i < native.results.length)) else none) →
    (s.zone.core n.val).single = false → checks.comparator = false → checks.double = false →
    (legMismatch (s.zone.readPasses n.val native inverted).1 (s.zone.readPasses n.val native inverted).2.1 inj = some m) →
    (s.zone.core n.val).deferred = [] → Completes (.legRerun n mode native inverted checks) s fun z =>
      z.core n.val = { (s.zone.core n.val) with last := (s.zone.core n.val).last ||| 0x10000000, halted := true, dbCe := satU 8 ((s.zone.core n.val).dbCe + checks.corrected), injected := satU 8 ((s.zone.core n.val).injected + b2n m.injected) } ∧
      (x.injected = false → s.zone.Reports z Src.dualpassPermanent (z.legDetail n.val))) ∧
  (∀ (s : State) (n : Fin 4) (mode : SafetyMode) (access : LegAccess) (addr inverted flip nextPc : Word) (size : Fin 3),
    s.zone.start.released = true → (s.zone.core n.val).split = false → (s.zone.core n.val).halted = false →
    Zone.isAccessLeg access addr.toNat = true → (s.zone.core n.val).fault = none → (s.zone.core n.val).single = false →
    addr = ~~~inverted →
    (s.zone.legAccess n.val mode access addr.toNat (match access with | .atomic _ _ _ => 4 | _ => sizeOf_ size)).1 = Err.none →
    (flip = 0 ∨ Zone.accessReg access = none) → (s.zone.core n.val).inject.getLsbD 0 = false →
    ((s.zone.legAccess n.val mode access addr.toNat (match access with | .atomic _ _ _ => 4 | _ => sizeOf_ size)).2.2.core n.val).inject = (s.zone.core n.val).inject ∧ ((s.zone.legAccess n.val mode access addr.toNat (match access with | .atomic _ _ _ => 4 | _ => sizeOf_ size)).2.2.core n.val).single = false →
    Completes (.accessLeg n mode access addr inverted size flip nextPc) s fun z =>
      z = ((((match Zone.accessReg access with | some rd => (s.zone.legAccess n.val mode access addr.toNat (match access with | .atomic _ _ _ => 4 | _ => sizeOf_ size)).2.2.setReg n.val rd (s.zone.legAccess n.val mode access addr.toNat (match access with | .atomic _ _ _ => 4 | _ => sizeOf_ size)).2.1 | none => (s.zone.legAccess n.val mode access addr.toNat (match access with | .atomic _ _ _ => 4 | _ => sizeOf_ size)).2.2).setCore n.val { (match Zone.accessReg access with | some rd => (s.zone.legAccess n.val mode access addr.toNat (match access with | .atomic _ _ _ => 4 | _ => sizeOf_ size)).2.2.setReg n.val rd (s.zone.legAccess n.val mode access addr.toNat (match access with | .atomic _ _ _ => 4 | _ => sizeOf_ size)).2.1 | none => (s.zone.legAccess n.val mode access addr.toNat (match access with | .atomic _ _ _ => 4 | _ => sizeOf_ size)).2.2).core n.val with pc := nextPc }).setCore n.val { (match Zone.accessReg access with | some rd => (s.zone.legAccess n.val mode access addr.toNat (match access with | .atomic _ _ _ => 4 | _ => sizeOf_ size)).2.2.setReg n.val rd (s.zone.legAccess n.val mode access addr.toNat (match access with | .atomic _ _ _ => 4 | _ => sizeOf_ size)).2.1 | none => (s.zone.legAccess n.val mode access addr.toNat (match access with | .atomic _ _ _ => 4 | _ => sizeOf_ size)).2.2).core n.val with pc := nextPc, fault := none }).retire n.val 1).legBoundary n.val) ∧
  (∀ (s : State) (n : Fin 4) (mode : SafetyMode) (op : AmoOp) (rd : BitVec 5) (v addr nextPc : Word) (size : Fin 3) (old : Nat),
    s.zone.start.released = true → (s.zone.core n.val).split = false → (s.zone.core n.val).halted = false →
    (s.zone.core n.val).single = false → (s.zone.core n.val).fault = none → (s.zone.core n.val).inject.getLsbD 0 = false →
    (s.zone.core n.val).deferred = [] → (s.zone.core n.val).reserved = none → addr.toNat < 0x80000 → addr.toNat % 4 = 0 →
    op ≠ .lr ∧ op ≠ .sc → s.zone.safetyPmp (2 * n.val) (mode == .m) .atomic addr.toNat 4 = true →
    s.zone.permitted (2 + n.val) (s.zone.coreSource n.val mode) true true (Zone.localAddr (2 * n.val) addr.toNat) 4 = true →
    old = leNat (s.zone.memRead (Zone.localAddr (2 * n.val) addr.toNat) 4) →
    Completes (.accessLeg n mode (.atomic op rd v) addr (~~~addr) size 0 nextPc) s fun z =>
      z.memRead (Zone.localAddr (2 * n.val) addr.toNat) 4 = leBytes 4 (Zone.amoValue op (BitVec.ofNat 32 old) v).toNat ∧
      (∀ a : Nat, a < Zone.localAddr (2 * n.val) addr.toNat ∨ Zone.localAddr (2 * n.val) addr.toNat + 4 ≤ a → a < Zone.localAddr (2 * n.val) addr.toNat + 0x200000 ∨ Zone.localAddr (2 * n.val) addr.toNat + 0x200004 ≤ a → z.memByte a = s.zone.memByte a) ∧
      z.core n.val = { (s.zone.core n.val) with x := if rd = 0 then (s.zone.core n.val).x else SMap.set (fun _ => 0) (s.zone.core n.val).x rd.toNat (BitVec.ofNat 32 old), pc := nextPc, instret := if (s.zone.safetyCsr_ (2 * n.val) 0x320).getLsbD 2 then (s.zone.core n.val).instret else (s.zone.core n.val).instret + 1 } ∧
      s.zone.SameParts [.cores] z ∧ s.zone.SameOutside [] z) ∧
  (∀ (s : State) (n : Fin 4) (mode : SafetyMode) (access : LegAccess) (addr inverted flip nextPc : Word) (size : Fin 3),
    s.zone.start.released = true → (s.zone.core n.val).split = false → (s.zone.core n.val).halted = false →
    Zone.isAccessLeg access addr.toNat = true → (s.zone.core n.val).fault = none →
    ((s.zone.core n.val).single = true ∨ addr = ~~~inverted) →
    (s.zone.legAccess n.val mode access addr.toNat (match access with | .atomic _ _ _ => 4 | _ => sizeOf_ size)).1 ≠ Err.none →
    ((s.zone.legAccess n.val mode access addr.toNat (match access with | .atomic _ _ _ => 4 | _ => sizeOf_ size)).2.2.core n.val).deferred = [] →
    Completes (.accessLeg n mode access addr inverted size flip nextPc) s fun z =>
      SMap.get (fun _ => 0) (z.core n.val).csrs 0x342 = (match access with | .load _ _ => (5 : Word) | .atomic .lr _ _ => 5 | _ => 7) ∧
      SMap.get (fun _ => 0) (z.core n.val).csrs 0x343 = addr ∧ SMap.get (fun _ => 0) (z.core n.val).csrs 0x341 = ((s.zone.legAccess n.val mode access addr.toNat (match access with | .atomic _ _ _ => 4 | _ => sizeOf_ size)).2.2.core n.val).pc ∧
      (z.core n.val).pc = SMap.get (fun _ => (0 : Word)) ((s.zone.legAccess n.val mode access addr.toNat (match access with | .atomic _ _ _ => 4 | _ => sizeOf_ size)).2.2.core n.val).csrs 0x305 &&& 0xFFFFFFFC ∧
      (z.core n.val).x = ((s.zone.legAccess n.val mode access addr.toNat (match access with | .atomic _ _ _ => 4 | _ => sizeOf_ size)).2.2.core n.val).x ∧ (z.core n.val).fault = none) ∧
  (∀ (s : State) (n : Fin 4) (mode : SafetyMode) (access : LegAccess) (addr inverted flip nextPc : Word) (size : Fin 3),
    s.zone.start.released = true → (s.zone.core n.val).split = false → (s.zone.core n.val).halted = false →
    Zone.isAccessLeg access addr.toNat = true → (s.zone.core n.val).fault = none → (s.zone.core n.val).single = false →
    addr ≠ ~~~inverted → Completes (.accessLeg n mode access addr inverted size flip nextPc) s fun z =>
      z.core n.val = { (s.zone.core n.val) with last := 0x80000000, lastPc := (s.zone.core n.val).pc, injected := satU 8 (s.zone.core n.val).injected, fault := some ⟨(s.zone.core n.val).pc, false, true, none, s.zone.mono⟩ } ∧
      s.zone.Frame [] [.cores, .freeNext] z) ∧
  (∀ (s : State) (n : Fin 4) (mode : SafetyMode) (access : LegAccess) (addr inverted flip nextPc : Word) (size : Fin 3) (rd : BitVec 5),
    s.zone.start.released = true → (s.zone.core n.val).split = false → (s.zone.core n.val).halted = false →
    Zone.isAccessLeg access addr.toNat = true → (s.zone.core n.val).fault = none → (s.zone.core n.val).single = false →
    addr = ~~~inverted →
    (s.zone.legAccess n.val mode access addr.toNat (match access with | .atomic _ _ _ => 4 | _ => sizeOf_ size)).1 = Err.none →
    Zone.accessReg access = some rd →
    ((s.zone.legAccess n.val mode access addr.toNat (match access with | .atomic _ _ _ => 4 | _ => sizeOf_ size)).2.2.core n.val).inject = (s.zone.core n.val).inject ∧ ((s.zone.legAccess n.val mode access addr.toNat (match access with | .atomic _ _ _ => 4 | _ => sizeOf_ size)).2.2.core n.val).single = false →
    (flip ≠ 0 ∨ injectIndex (s.zone.core n.val).inject 0 = some 0) →
    Completes (.accessLeg n mode access addr inverted size flip nextPc) s fun z =>
      (z.core n.val).fault = some ⟨((s.zone.legAccess n.val mode access addr.toNat (match access with | .atomic _ _ _ => 4 | _ => sizeOf_ size)).2.2.core n.val).pc, decide (injectIndex (s.zone.core n.val).inject 0 = some 0), true, some (s.zone.legAccess n.val mode access addr.toNat (match access with | .atomic _ _ _ => 4 | _ => sizeOf_ size)).2.1, (s.zone.legAccess n.val mode access addr.toNat (match access with | .atomic _ _ _ => 4 | _ => sizeOf_ size)).2.2.mono⟩ ∧
      (z.core n.val).x = ((s.zone.legAccess n.val mode access addr.toNat (match access with | .atomic _ _ _ => 4 | _ => sizeOf_ size)).2.2.core n.val).x ∧ (z.core n.val).pc = ((s.zone.legAccess n.val mode access addr.toNat (match access with | .atomic _ _ _ => 4 | _ => sizeOf_ size)).2.2.core n.val).pc ∧
      (z.core n.val).last.toNat = b2n (decide (injectIndex (s.zone.core n.val).inject 0 = some 0)) * 2 ^ 29 + rd.toNat) ∧
  (∀ (s : State) (n : Fin 4) (mode : SafetyMode) (access : LegAccess) (addr inverted flip nextPc : Word) (size : Fin 3) (x : LegFault) (rd : BitVec 5) (v : Word),
    s.zone.start.released = true → (s.zone.core n.val).split = false → (s.zone.core n.val).halted = false →
    Zone.isAccessLeg access addr.toNat = true → (s.zone.core n.val).fault = some x → x.isAccess = true → x.injected = false →
    x.access = some v → x.detected + 3 ≤ s.zone.mono → (s.zone.core n.val).single = false → (s.zone.core n.val).deferred = [] →
    addr = ~~~inverted → Zone.accessReg access = some rd →
    Completes (.accessLeg n mode access addr inverted size flip nextPc) s fun z =>
      (flip = 0 → z.core n.val = { (s.zone.core n.val) with x := if rd = 0 then (s.zone.core n.val).x else SMap.set (fun _ => 0) (s.zone.core n.val).x rd.toNat v, pc := nextPc, fault := none, transient := satU 16 ((s.zone.core n.val).transient + 1), instret := if (s.zone.safetyCsr_ (2 * n.val) 0x320).getLsbD 2 then (s.zone.core n.val).instret else (s.zone.core n.val).instret + 1 }) ∧
      (flip = 0 → s.zone.Reports z Src.dualpassTransient (s.zone.legDetail n.val)) ∧
      (flip ≠ 0 → z.core n.val = { (s.zone.core n.val) with last := (s.zone.core n.val).last ||| 0x10000000, halted := true, injected := satU 8 (s.zone.core n.val).injected }) ∧
      (flip ≠ 0 → s.zone.Reports z Src.dualpassPermanent (z.legDetail n.val)) ∧ z.SameMemory s.zone) ∧
  (∀ (s : State) (n : Fin 4) (mode : SafetyMode) (access : LegAccess) (addr inverted flip nextPc : Word) (size : Fin 3),
    (s.zone.start.released = false ∨ (s.zone.core n.val).split = true ∨ (s.zone.core n.val).halted = true ∨ Zone.isAccessLeg access addr.toNat = false ∨ (s.zone.core n.val).fault.any (fun f => !f.isAccess || decide (s.zone.mono < f.detected + 3)) = true) →
    Completes (.accessLeg n mode access addr inverted size flip nextPc) s fun z =>
      s.zone.Frame [] [] z) ∧
  (∀ (s : State) (n : Fin 4), s.zone.start.released = true → s.zone.dualPass n.val = true → (s.zone.core n.val).halted = false →
    (s.zone.core n.val).fault = none → (s.zone.core n.val).tested + 247500 ≤ s.zone.mono →
    Completes (.comparatorSelftest n true) s fun z =>
      z.core n.val = { (s.zone.core n.val) with tested := s.zone.mono } ∧ s.zone.Frame [] [.cores] z) ∧
  (∀ (s : State) (n : Fin 4), s.zone.start.released = true → s.zone.dualPass n.val = true → (s.zone.core n.val).halted = false →
    (s.zone.core n.val).fault = none → (s.zone.core n.val).tested + 247500 ≤ s.zone.mono → (s.zone.core n.val).deferred = [] →
    Completes (.comparatorSelftest n false) s fun z =>
      z.core n.val = { (s.zone.core n.val) with tested := s.zone.mono, halted := true, unchecked := true, compFail := true } ∧
      (∀ m : Fin 4, (z.core m.val).unchecked = true) ∧ z.fld pSAFE SAFE0.MON_STATUS_UNCHECKED = 1 ∧
      s.zone.Reports z Src.checkerFail (s.zone.legDetail n.val)) ∧
  (∀ (s : State) (n : Fin 4) (ok : Bool),
    (s.zone.start.released = false ∨ s.zone.dualPass n.val = false ∨ (s.zone.core n.val).halted = true ∨ (s.zone.core n.val).fault ≠ none ∨ s.zone.mono < (s.zone.core n.val).tested + 247500) →
    Completes (.comparatorSelftest n ok) s fun z =>
      s.zone.Frame [] [] z) ∧
  (∀ (s : State), s.zone.logicRuns = true → s.zone.safetyDebugOpen = true →
    s.zone.flag (pTEST 2) TEST2.DEBUG_STATUS_SAFETY_ATTACHED = false → Completes (.debugAttach) s fun z =>
      (∀ m : Fin 4, z.core m.val = { s.zone.core m.val with single := !(s.zone.core m.val).split || (s.zone.core m.val).single }) ∧
      z.flag (pTEST 2) TEST2.DEBUG_STATUS_SAFETY_ATTACHED = true ∧ z.flag pSAFE SAFE0.MON_STATUS_DUALPASS_OFF = true ∧
      s.zone.Reports z Src.dualpassOff 0) ∧
  (∀ (s : State),
    (s.zone.logicRuns = false ∨ s.zone.safetyDebugOpen = false ∨ s.zone.flag (pTEST 2) TEST2.DEBUG_STATUS_SAFETY_ATTACHED = true) →
    Completes (.debugAttach) s fun z =>
      s.zone.Frame [] [] z) ∧
  (∀ (s : State) (n : Fin 4) (v : Word), s.zone.start.released = true → (s.zone.core n.val).halted = false →
    Completes (.zdpClrCounts n .m v) s fun z =>
      (z.core n.val = if v.getLsbD 0 ∧ (s.zone.core n.val).split = false then { (s.zone.core n.val) with transient := 0, dbCe := 0, injected := 0 } else (s.zone.core n.val)) ∧
      s.zone.Frame [] [.cores] z) ∧
  (∀ (s : State) (n : Fin 4) (v : Word), s.zone.start.released = true → (s.zone.core n.val).halted = false →
    Completes (.zdpInjectArm n .m v) s fun z =>
      (z.core n.val = if (s.zone.core n.val).split then (s.zone.core n.val) else { (s.zone.core n.val) with inject := v &&& 0x3F03 }) ∧
      s.zone.Frame [] [.cores] z) ∧
  (∀ (s : State) (n : Fin 4) (v : Word), s.zone.start.released = true → (s.zone.core n.val).halted = false →
    Completes (.zdpClrCounts n .u v) s fun z =>
      z.hart (8 + 2 * n.val) = { s.zone.hart (8 + 2 * n.val) with exception := 2 } ∧ s.zone.Frame [] [.harts] z) ∧
  (∀ (s : State) (n : Fin 4) (v : Word), s.zone.start.released = true → (s.zone.core n.val).halted = false →
    Completes (.zdpInjectArm n .u v) s fun z =>
      z.hart (8 + 2 * n.val) = { s.zone.hart (8 + 2 * n.val) with exception := 2 } ∧ s.zone.Frame [] [.harts] z) ∧
  (∀ (s : State) (n : Fin 4) (mode : SafetyMode) (v : Word),
    (s.zone.start.released = false ∨ (s.zone.core n.val).halted = true) → Completes (.zdpClrCounts n mode v) s fun z =>
      s.zone.Frame [] [] z) ∧
  (∀ (s : State) (n : Fin 4) (mode : SafetyMode) (v : Word),
    (s.zone.start.released = false ∨ (s.zone.core n.val).halted = true) → Completes (.zdpInjectArm n mode v) s fun z =>
      s.zone.Frame [] [] z) ∧
  (∀ (s : State) (n : Fin 8) (csr : BitVec 12) (pm : Priv) (v : BitVec 64) (cause : Nat), s.zone.start.released = true →
    csrRefusal true csr.toNat pm true = some cause → Completes (.xzmrWrite false n csr pm v) s fun z =>
      z.hart n.val = { s.zone.hart n.val with exception := cause } ∧ s.zone.Frame [] [.harts] z) ∧
  (∀ (s : State) (csr : BitVec 12) (pm : Priv), (csr = 0x7D0 ∨ csr = 0x7D1 ∨ csr = 0x5D0 ∨ csr = 0x5D1) → Gives (s.zone) fun z =>
      csrRefusal true csr.toNat pm true = (if pm = .vs ∨ pm = .vu then some 22 else if pm = .u ∨ (pm = .hs ∧ (csr = 0x7D0 ∨ csr = 0x7D1)) then some 2 else none)) ∧
  (∀ (s : State) (n : Fin 8) (v : BitVec 64), s.zone.start.released = true → Completes (.xzmrWrite false n 0x7D1 .m v) s fun z =>
      z.hart n.val = { s.zone.hart n.val with base := v.setWidth 12, limit := (v >>> 16).setWidth 12 } ∧
      s.zone.Frame [] [.harts] z) ∧
  (∀ (s : State) (n : Fin 8) (v : BitVec 64), s.zone.start.released = true → Completes (.xzmrWrite false n 0x7D0 .m v) s fun z =>
      z.hart n.val = { s.zone.hart n.val with secure := v.getLsbD 0 } ∧ s.zone.Frame [] [.harts] z) ∧
  (∀ (s : State) (n : Fin 8) (v : BitVec 64) (csr : BitVec 12) (pm : Priv), s.zone.start.released = true →
    (csr = 0x5D0 ∨ csr = 0x5D1) → (pm = .m ∨ pm = .hs) →
    (v.setWidth 12 < (s.zone.hart n.val).base ∨ (s.zone.hart n.val).limit < v.setWidth 12) →
    Completes (.xzmrWrite false n csr pm v) s fun z =>
      z.hart n.val = { s.zone.hart n.val with exception := 2 } ∧ s.zone.Frame [] [.harts] z) ∧
  (∀ (s : State) (n : Fin 8) (v : BitVec 64) (csr : BitVec 12) (pm : Priv), s.zone.start.released = true →
    (csr = 0x5D0 ∨ csr = 0x5D1) → (pm = .m ∨ pm = .hs) → (s.zone.hart n.val).base ≤ v.setWidth 12 →
    v.setWidth 12 ≤ (s.zone.hart n.val).limit → Completes (.xzmrWrite false n csr pm v) s fun z =>
      z.hart n.val = (if csr = 0x5D0 then { s.zone.hart n.val with moorH := v.setWidth 12 } else { s.zone.hart n.val with moorV := v.setWidth 12 }) ∧
      z.fld pTU TU.PRED_COUNTS_CLEARS = (if csr = 0x5D0 ∧ pm = .hs ∧ (s.zone.hart n.val).moorH ≠ v.setWidth 12 ∧ s.zone.flag pTU TU.PRED_CFG_CLEAR_ON_MOORING = true then satU 32 (s.zone.fld pTU TU.PRED_COUNTS_CLEARS + 1) else s.zone.fld pTU TU.PRED_COUNTS_CLEARS) ∧
      s.zone.Frame [pTU + TU.PRED_COUNTS_CLEARS.off] [.harts] z) ∧
  (∀ (s : State) (n : Fin 8) (v : BitVec 64) (csr : BitVec 12) (pm : Priv), s.zone.start.released = true →
    csrRefusal true csr.toNat pm true = none → csrCustom csr.toNat = false → Completes (.xzmrWrite false n csr pm v) s fun z =>
      z = s.zone.appCsrWrite n.val (csrAlias csr.toNat pm) v ∧ (csr = 0x340 → z.appCsr n.val 0x340 = v) ∧
      (csr = 0x301 → z.appCsr n.val 0x301 = s.zone.appCsr n.val 0x301) ∧
      (csr = 0x180 ∧ pm = .hs → z.appCsr n.val 0x180 = (if v.toNat / 2 ^ 60 = 0 ∨ v.toNat / 2 ^ 60 = 8 ∨ v.toNat / 2 ^ 60 = 9 then v else s.zone.appCsr n.val 0x180)) ∧
      (csr = 0x180 ∧ pm = .vs → z.appCsr n.val 0x180 = s.zone.appCsr n.val 0x180) ∧ s.zone.Frame [] [.harts] z) ∧
  (∀ (s : State) (h8 : Fin 8) (v : BitVec 64) (csr : BitVec 12) (pm : Priv),
    (s.zone.start.released = false ∨ (h8.val % 2 = 1 ∧ (s.zone.core (h8.val / 2)).split = false) ∨ (pm ≠ .m ∧ pm ≠ .u)) →
    Completes (.xzmrWrite true h8 csr pm v) s fun z =>
      s.zone.Frame [] [] z) ∧
  (∀ (s : State) (h8 : Fin 8) (v : BitVec 64) (csr : BitVec 12) (pm : Priv), s.zone.start.released = false →
    Completes (.xzmrWrite false h8 csr pm v) s fun z =>
      s.zone.Frame [] [] z) ∧
  (∀ (s : State) (h8 : Fin 8) (v : BitVec 64) (csr : BitVec 12) (pm : Priv) (cause : Nat), s.zone.start.released = true →
    (h8.val % 2 = 0 ∨ (s.zone.core (h8.val / 2)).split = true) → (pm = .m ∨ pm = .u) →
    csrRefusal false csr.toNat pm true = some cause → Completes (.xzmrWrite true h8 csr pm v) s fun z =>
      z.hart (8 + h8.val) = { s.zone.hart (8 + h8.val) with exception := cause } ∧ s.zone.Frame [] [.harts] z) ∧
  (∀ (s : State) (h8 : Fin 8) (v : BitVec 64) (csr : BitVec 12), s.zone.start.released = true →
    (h8.val % 2 = 0 ∨ (s.zone.core (h8.val / 2)).split = true) → (csr = 0x7D0 ∨ csr = 0x7D2) →
    Completes (.xzmrWrite true h8 csr .m v) s fun z =>
      z.hart (8 + h8.val) = (if csr = 0x7D0 then { s.zone.hart (8 + h8.val) with secure := v.getLsbD 0 } else { s.zone.hart (8 + h8.val) with moorU := v.setWidth 12 }) ∧
      s.zone.Frame [] [.harts] z) ∧
  (∀ (s : State) (h8 : Fin 8) (v : BitVec 64) (csr : BitVec 12), s.zone.start.released = true →
    (h8.val % 2 = 0 ∨ (s.zone.core (h8.val / 2)).split = true) → csrRefusal false csr.toNat .m true = none →
    csr ≠ 0x7D0 ∧ csr ≠ 0x7D2 → Completes (.xzmrWrite true h8 csr .m v) s fun z =>
      z = (if h8.val % 2 = 0 then s.zone.commitCsr (h8.val / 2) csr.toNat (v.setWidth 32) else if csr = 0x7C0 ∨ csr = 0x7C1 then s.zone else s.zone.oddCsrWrite h8.val csr.toNat (v.setWidth 32)) ∧
      (csr = 0x340 → z.safetyCsr_ h8.val 0x340 = v.setWidth 32) ∧ s.zone.Frame [] [.harts, .cores] z)

/-! ### Worlds and moorings -/

/-- R471, R472, R473, R501, R503, R504, R509, R511, R514, R515, R516, R526: a hart's access is translated and checked by PMP
(published ISA, log entry 100: an exception of its cause otherwise), then by the region of its controller: a permitted write
stores its bytes and no other, a permitted read answers them, an atomic does both, a refused one has no effect, answers REGION and
is recorded; a fetched encoding of no extension raises an illegal instruction. Safety harts reach their TCM, the shadow of a core
in dual-pass following with the complement, and beyond it the windows of H1; outside them DECODE, unaligned ALIGN. A DMA address
passes a disabled translation unit, hits the cache, or is walked: success answers it, a fault queues. Invalidations run one at a
time and leave no entry they name. A world switch clears and counts, and never enters an absent secure world. Gating requests and
holds act by world with their status. A writer without the right changes nothing. -/
def Obligations.AccessesAreCheckedTranslatedAndGated : Prop :=
  (∀ (s : State) (h8 : Fin 8) (pm : Priv) (kind : AccessKind) (addr : BitVec 64) (size : BitVec 7) (data : List Byte),
    (s.zone.start.released = false ∨ size = 0) → Completes (.memoryAccess (.app h8 pm) kind addr size data) s fun z =>
      s.zone.Frame [] [] z) ∧
  (∀ (s : State) (h8 : Fin 8) (mode : SafetyMode) (kind : AccessKind) (addr : BitVec 64) (size : BitVec 7) (data : List Byte),
    (s.zone.start.released = false ∨ size = 0 ∨ (h8.val % 2 = 1 ∧ (s.zone.core (h8.val / 2)).split = false)) →
    Completes (.memoryAccess (.safety h8 mode) kind addr size data) s fun z =>
      s.zone.Frame [] [] z) ∧
  (∀ (s : State) (h8 : Fin 8) (pm : Priv) (kind : AccessKind) (addr : BitVec 64) (size : BitVec 7) (data : List Byte) (cause : Nat),
    s.zone.start.released = true → size ≠ 0 →
    (s.zone.hartTranslate h8.val (s.zone.appSource h8.val pm) pm kind addr.toNat).1 = .fault cause →
    Completes (.memoryAccess (.app h8 pm) kind addr size data) s fun z =>
      z = (s.zone.hartTranslate h8.val (s.zone.appSource h8.val pm) pm kind addr.toNat).2.setHartException h8.val (Zone.faultOf kind cause)) ∧
  (∀ (s : State) (h8 : Fin 8) (pm : Priv) (kind : AccessKind) (addr : BitVec 64) (size : BitVec 7) (data : List Byte) (a : Nat),
    s.zone.start.released = true → size ≠ 0 →
    (s.zone.hartTranslate h8.val (s.zone.appSource h8.val pm) pm kind addr.toNat).1 = .pa a →
    (s.zone.hartTranslate h8.val (s.zone.appSource h8.val pm) pm kind addr.toNat).2.appPmp h8.val (pm == .m) kind a size.toNat = false →
    Completes (.memoryAccess (.app h8 pm) kind addr size data) s fun z =>
      z = (s.zone.hartTranslate h8.val (s.zone.appSource h8.val pm) pm kind addr.toNat).2.setHartException h8.val (Zone.faultOf kind 5)) ∧
  (∀ (s : State) (h8 : Fin 8) (pm : Priv) (kind : AccessKind) (addr : BitVec 64) (size : BitVec 7) (data : List Byte) (a : Nat),
    s.zone.start.released = true → size ≠ 0 →
    (s.zone.hartTranslate h8.val (s.zone.appSource h8.val pm) pm kind addr.toNat).1 = .pa a →
    (s.zone.hartTranslate h8.val (s.zone.appSource h8.val pm) pm kind addr.toNat).2.appPmp h8.val (pm == .m) kind a size.toNat = true →
    Completes (.memoryAccess (.app h8 pm) kind addr size data) s fun z =>
      z = ((s.zone.hartTranslate h8.val (s.zone.appSource h8.val pm) pm kind addr.toNat).2.appAccess (s.zone.appSource h8.val pm) kind a size.toNat (padTo size.toNat data)).when ((s.zone.hartTranslate h8.val (s.zone.appSource h8.val pm) pm kind addr.toNat).2.crossing a).isNone (·.checkFetched true h8.val kind)) ∧
  (∀ (s : State) (h8 : Fin 8) (pm : Priv) (kind : AccessKind) (src : Source) (va : Nat),
    (pm = .m ∨ ((pm = .hs ∨ pm = .u) ∧ (s.zone.appCsr h8.val 0x180).toNat / 2 ^ 60 ≠ 8 ∧ (s.zone.appCsr h8.val 0x180).toNat / 2 ^ 60 ≠ 9) ∨ (Zone.modeLevels (s.zone.appCsr h8.val 0x280).toNat = none ∧ Zone.modeLevels (s.zone.appCsr h8.val 0x680).toNat = none)) →
    (pm ≠ .m ∧ pm ≠ .hs ∧ pm ≠ .u ∨ pm = .m ∨ Zone.modeLevels (s.zone.appCsr h8.val 0x180).toNat = none) → Gives (s.zone) fun z =>
      s.zone.hartTranslate h8.val src pm kind va = (.pa va, s.zone)) ∧
  (∀ (s : State) (h8 : Fin 8) (pm : Priv) (kind : AccessKind) (addr : BitVec 64) (size : BitVec 7) (data : List Byte) (a : Nat),
    s.zone.start.released = true → size ≠ 0 →
    s.zone.hartTranslate h8.val (s.zone.appSource h8.val pm) pm kind addr.toNat = (.pa a, s.zone) →
    s.zone.appPmp h8.val (pm == .m) kind a size.toNat = true → 0x1000000000 ≤ a → a + size.toNat ≤ 0x1400000000 → kind = .write →
    data.length = size.toNat → s.zone.permitted 1 (s.zone.appSource h8.val pm) false true a size.toNat = true →
    Completes (.memoryAccess (.app h8 pm) kind addr size data) s fun z =>
      z.memRead a size.toNat = data ∧ (∀ k : Nat, k < a ∨ a + size.toNat ≤ k → z.memByte k = s.zone.memByte k) ∧
      z.resp = ⟨Err.none, 0⟩ ∧ s.zone.SameOutside [12] z ∧ s.zone.SameParts [.resp, .cores, .hinges] z) ∧
  (∀ (s : State) (h8 : Fin 8) (pm : Priv) (kind : AccessKind) (addr : BitVec 64) (size : BitVec 7) (data : List Byte) (a : Nat),
    s.zone.start.released = true → size ≠ 0 →
    s.zone.hartTranslate h8.val (s.zone.appSource h8.val pm) pm kind addr.toNat = (.pa a, s.zone) →
    s.zone.appPmp h8.val (pm == .m) kind a size.toNat = true → 0x1000000000 ≤ a → a + size.toNat ≤ 0x1400000000 →
    (kind = .read ∨ kind = .fetch) → s.zone.permitted 1 (s.zone.appSource h8.val pm) true false a size.toNat = true →
    Completes (.memoryAccess (.app h8 pm) kind addr size data) s fun z =>
      z.resp = ⟨Err.none, leNat (s.zone.memRead a size.toNat)⟩ ∧
      z.hart h8.val = (if kind = .fetch ∧ knownInstr true (BitVec.ofNat 32 (leNat (s.zone.memRead a size.toNat))) = false then { s.zone.hart h8.val with exception := 2 } else s.zone.hart h8.val) ∧
      s.zone.Frame [] [.resp, .harts] z) ∧
  (∀ (s : State) (h8 : Fin 8) (pm : Priv) (kind : AccessKind) (addr : BitVec 64) (size : BitVec 7) (data : List Byte) (a : Nat),
    s.zone.start.released = true → size ≠ 0 →
    s.zone.hartTranslate h8.val (s.zone.appSource h8.val pm) pm kind addr.toNat = (.pa a, s.zone) →
    s.zone.appPmp h8.val (pm == .m) kind a size.toNat = true → 0x1000000000 ≤ a → a + size.toNat ≤ 0x1400000000 →
    kind = .atomic → data.length = size.toNat → s.zone.permitted 1 (s.zone.appSource h8.val pm) true true a size.toNat = true →
    s.zone.permitted 1 (s.zone.appSource h8.val pm) false true a size.toNat = true →
    Completes (.memoryAccess (.app h8 pm) kind addr size data) s fun z =>
      z.resp = ⟨Err.none, leNat (s.zone.memRead a size.toNat)⟩ ∧ z.memRead a size.toNat = data ∧
      (∀ k : Nat, k < a ∨ a + size.toNat ≤ k → z.memByte k = s.zone.memByte k) ∧ s.zone.SameOutside [12] z ∧
      s.zone.SameParts [.resp, .cores, .hinges] z) ∧
  (∀ (s : State) (h8 : Fin 8) (pm : Priv) (kind : AccessKind) (addr : BitVec 64) (size : BitVec 7) (data : List Byte) (a c : Nat) (src : Source),
    s.zone.start.released = true → size ≠ 0 →
    s.zone.hartTranslate h8.val (s.zone.appSource h8.val pm) pm kind addr.toNat = (.pa a, s.zone) →
    s.zone.appPmp h8.val (pm == .m) kind a size.toNat = true → src = (s.zone.appSource h8.val pm) →
    s.zone.controller a = some c → (c = 1 ∨ c = 10 ∨ c = 11) →
    s.zone.permitted c src (kind != .write) (kind == .write || kind == .atomic) a size.toNat = false → data.length = size.toNat →
    Completes (.memoryAccess (.app h8 pm) kind addr size data) s fun z =>
      z.resp = ⟨Err.region, 0⟩ ∧
      z.fld (pREGN c) REGN.VIOL_COUNT_COUNT = satU REGN.VIOL_COUNT_COUNT.w (s.zone.fld (pREGN c) REGN.VIOL_COUNT_COUNT + 1) ∧
      (s.zone.fld (pREGN c) REGN.VIOL_COUNT_COUNT = 0 → z.fld (pREGN c) REGN.VIOL_ADDR_LO_ADDR = a % 2 ^ 32 ∧ z.fld (pREGN c) REGN.VIOL_ADDR_HI_ADDR = a / 2 ^ 32 % 2 ^ REGN.VIOL_ADDR_HI_ADDR.w ∧ z.fld (pREGN c) REGN.VIOL_SRC_MOORING = src.mooring.toNat ∧ z.flag (pREGN c) REGN.VIOL_SRC_WRITE = (kind == .write || kind == .atomic) ∧ z.flag (pREGN c) REGN.VIOL_SRC_WORLD = (src.world == .secure)) ∧
      s.zone.Frame [pREGN c + REGN.VIOL_COUNT_COUNT.off, pREGN c + REGN.VIOL_ADDR_LO_ADDR.off, pREGN c + REGN.VIOL_ADDR_HI_ADDR.off, pREGN c + REGN.VIOL_SRC_WRITE.off] [.resp] z) ∧
  (∀ (s : State) (h8 : Fin 8) (pm : Priv) (kind : AccessKind) (addr : BitVec 64) (size : BitVec 7) (data : List Byte) (a : Nat),
    s.zone.start.released = true → size ≠ 0 →
    s.zone.hartTranslate h8.val (s.zone.appSource h8.val pm) pm kind addr.toNat = (.pa a, s.zone) →
    s.zone.appPmp h8.val (pm == .m) kind a size.toNat = true → s.zone.controller a = none → s.zone.crossing a = none →
    Completes (.memoryAccess (.app h8 pm) kind addr size data) s fun z =>
      z.resp = ⟨Err.decode, 0⟩ ∧ s.zone.Frame [] [.resp] z) ∧
  (∀ (s : State) (h8 : Fin 8) (mode : SafetyMode) (kind : AccessKind) (addr : BitVec 64) (size : BitVec 7) (data : List Byte),
    s.zone.start.released = true → size ≠ 0 → (h8.val % 2 = 0 ∨ (s.zone.core (h8.val / 2)).split = true) →
    (s.zone.safetyPmp h8.val (mode == .m) kind addr.toNat size.toNat = false ∨ (kind = .fetch ∧ s.zone.dualPass (h8.val / 2) = true ∧ 0x80000 < addr.toNat + size.toNat)) →
    Completes (.memoryAccess (.safety h8 mode) kind addr size data) s fun z =>
      z.hart (8 + h8.val) = { s.zone.hart (8 + h8.val) with exception := Zone.faultOf kind 5 } ∧ s.zone.Frame [] [.harts] z) ∧
  (∀ (s : State) (h8 : Fin 8) (mode : SafetyMode) (kind : AccessKind) (addr : BitVec 64) (size : BitVec 7) (data : List Byte),
    s.zone.start.released = true → size ≠ 0 → (h8.val % 2 = 0 ∨ (s.zone.core (h8.val / 2)).split = true) →
    s.zone.safetyPmp h8.val (mode == .m) kind addr.toNat size.toNat = true → kind = .write → data.length = size.toNat →
    addr.toNat + size.toNat ≤ 0x80000 →
    (s.zone.regionCheck (s.zone.safetySource h8.val (mode == .m)) false true (Zone.localAddr h8.val addr.toNat) size.toNat).1 = Err.none →
    Completes (.memoryAccess (.safety h8 mode) kind addr size data) s fun z =>
      z.memRead (Zone.localAddr h8.val addr.toNat) size.toNat = data ∧
      ((s.zone.core (h8.val / 2)).split = false → z.memRead ((Zone.localAddr h8.val addr.toNat) + 0x200000) size.toNat = data.map (fun b => ~~~b)) ∧
      (∀ k : Nat, (k < (Zone.localAddr h8.val addr.toNat) ∨ (Zone.localAddr h8.val addr.toNat) + size.toNat ≤ k) → (k < (Zone.localAddr h8.val addr.toNat) + 0x200000 ∨ (Zone.localAddr h8.val addr.toNat) + 0x200000 + size.toNat ≤ k) → z.memByte k = s.zone.memByte k) ∧
      z.resp = ⟨Err.none, 0⟩ ∧ s.zone.SameOutside [12] z ∧ s.zone.SameParts [.resp, .cores, .hinges] z) ∧
  (∀ (s : State) (h8 : Fin 8) (mode : SafetyMode) (kind : AccessKind) (addr : BitVec 64) (size : BitVec 7) (data : List Byte),
    s.zone.start.released = true → size ≠ 0 → (h8.val % 2 = 0 ∨ (s.zone.core (h8.val / 2)).split = true) →
    s.zone.safetyPmp h8.val (mode == .m) kind addr.toNat size.toNat = true → (kind = .read ∨ kind = .fetch) →
    addr.toNat + size.toNat ≤ 0x80000 →
    (s.zone.regionCheck (s.zone.safetySource h8.val (mode == .m)) true false (Zone.localAddr h8.val addr.toNat) size.toNat).1 = Err.none →
    Completes (.memoryAccess (.safety h8 mode) kind addr size data) s fun z =>
      z.resp = ⟨Err.none, leNat (s.zone.memRead (Zone.localAddr h8.val addr.toNat) size.toNat)⟩ ∧
      z.hart (8 + h8.val) = (if kind = .fetch ∧ knownInstr false (BitVec.ofNat 32 (leNat (s.zone.memRead (Zone.localAddr h8.val addr.toNat) size.toNat))) = false then { s.zone.hart (8 + h8.val) with exception := 2 } else s.zone.hart (8 + h8.val)) ∧
      s.zone.Frame [] [.resp, .harts] z) ∧
  (∀ (s : State) (h8 : Fin 8) (mode : SafetyMode) (kind : AccessKind) (addr : BitVec 64) (size : BitVec 7) (data : List Byte) (a : Nat),
    s.zone.start.released = true → size ≠ 0 → (h8.val % 2 = 0 ∨ (s.zone.core (h8.val / 2)).split = true) →
    s.zone.safetyPmp h8.val (mode == .m) kind addr.toNat size.toNat = true → addr.toNat + size.toNat ≤ 0x80000 →
    a = (Zone.localAddr h8.val addr.toNat) →
    (s.zone.regionCheck (s.zone.safetySource h8.val (mode == .m)) (kind != .write) (kind == .write || kind == .atomic) a size.toNat).1 = Err.region →
    Completes (.memoryAccess (.safety h8 mode) kind addr size data) s fun z =>
      z.resp = ⟨Err.region, 0⟩ ∧
      (∀ c ∈ (s.zone.controller a).toList, z.fld (pREGN c) REGN.VIOL_COUNT_COUNT = satU REGN.VIOL_COUNT_COUNT.w (s.zone.fld (pREGN c) REGN.VIOL_COUNT_COUNT + 1) ∧ s.zone.Reports z Src.regionSafety (BitVec.ofNat 32 ((c - 2) % 4 + a % 65536 * 65536))) ∧
      z.SameMemory s.zone) ∧
  (∀ (s : State) (h8 : Fin 8) (mode : SafetyMode) (kind : AccessKind) (addr : BitVec 64) (size : BitVec 7) (data : List Byte),
    s.zone.start.released = true → size ≠ 0 → (h8.val % 2 = 0 ∨ (s.zone.core (h8.val / 2)).split = true) →
    s.zone.safetyPmp h8.val (mode == .m) kind addr.toNat size.toNat = true →
    ¬ (kind = .fetch ∧ s.zone.dualPass (h8.val / 2) = true) → 0x80000 < addr.toNat + size.toNat →
    (s.zone.h1Window addr.toNat).all (fun b => !h1Aligned b.1 size.toNat) = true →
    Completes (.memoryAccess (.safety h8 mode) kind addr size data) s fun z =>
      z.resp = ⟨if s.zone.h1Window addr.toNat = none then Err.decode else Err.align, 0⟩ ∧ s.zone.Frame [] [.resp] z) ∧
  (∀ (s : State) (n : Fin 8) (w : World), s.zone.start.released = true → (s.zone.hart n.val).runs ≠ w →
    (w = .normal ∨ s.zone.secureAway = false) → Completes (.worldSwitch n w) s fun z =>
      z.hart n.val = { s.zone.hart n.val with runs := w, atBoot := false } ∧
      z.fld pTU TU.PRED_COUNTS_CLEARS = satU TU.PRED_COUNTS_CLEARS.w (s.zone.fld pTU TU.PRED_COUNTS_CLEARS + 1) ∧
      s.zone.Frame [pTU + TU.PRED_COUNTS_CLEARS.off] [.harts] z) ∧
  (∀ (s : State) (n : Fin 8) (w : World),
    (s.zone.start.released = false ∨ (s.zone.hart n.val).runs = w ∨ (w = .secure ∧ s.zone.secureAway = true)) →
    Completes (.worldSwitch n w) s fun z =>
      s.zone.Frame [] [] z) ∧
  (∀ (s : State) (m : Fin 8) (src : Source) (addr : BitVec 64) (wr ue : Bool), s.zone.start.released = true →
    s.zone.flag pTU TU.TU_CTRL_EN = false → Completes (.dmaTranslate m src addr wr ue) s fun z =>
      z.resp = ⟨Err.none, addr.toNat⟩ ∧ s.zone.Frame [] [.resp] z) ∧
  (∀ (s : State) (m : Fin 8) (src : Source) (addr : BitVec 64) (wr ue : Bool), s.zone.start.released = false →
    Completes (.dmaTranslate m src addr wr ue) s fun z =>
      s.zone.Frame [] [] z) ∧
  (∀ (s : State) (m : Fin 8) (src : Source) (addr : BitVec 64) (wr ue : Bool) (e : TuEntry), s.zone.start.released = true →
    s.zone.flag pTU TU.TU_CTRL_EN = true →
    (s.zone.tu.cache.find? (fun e => e.maps src addr.toNat && (if wr then e.w else e.r))) = some e →
    s.zone.tu.inval.all (fun i => !i.names e) = true → Completes (.dmaTranslate m src addr wr ue) s fun z =>
      z.resp = ⟨Err.none, e.ppn * 4096 + addr.toNat % (if e.large then 2 ^ 21 else 2 ^ 12)⟩ ∧ s.zone.Frame [] [.resp] z) ∧
  (∀ (s : State) (m : Fin 8) (src : Source) (addr : BitVec 64) (wr ue : Bool) (e : TuEntry), s.zone.start.released = true →
    s.zone.flag pTU TU.TU_CTRL_EN = true →
    (s.zone.tu.cache.find? (fun e => e.maps src addr.toNat && (if wr then e.w else e.r))) = some e →
    s.zone.tu.inval.any (fun i => i.names e) = true → Completes (.dmaTranslate m src addr wr ue) s fun z =>
      (z.resp = ⟨Err.none, e.pa addr.toNat⟩ ∨ z.fld pTU TU.TC_MISSES_COUNT = satU TU.TC_MISSES_COUNT.w (s.zone.fld pTU TU.TC_MISSES_COUNT + 1)) ∧
      z.tu.inval = s.zone.tu.inval ∧ z.SameMemory s.zone) ∧
  (∀ (s : State) (m : Fin 8) (src : Source) (addr : BitVec 64) (wr ue : Bool) (a : Nat), s.zone.start.released = true →
    s.zone.flag pTU TU.TU_CTRL_EN = true →
    (s.zone.tu.cache.find? (fun e => e.maps src addr.toNat && (if wr then e.w else e.r))) = none →
    ((s.zone.count pTU TU.TC_MISSES_COUNT).walk src addr.toNat wr ue).1 = .pa a →
    Completes (.dmaTranslate m src addr wr ue) s fun z =>
      z.resp = ⟨Err.none, a⟩ ∧
      (s.zone.tu.cache.length < 1024 → z.tu.cache = s.zone.tu.cache ++ (((s.zone.count pTU TU.TC_MISSES_COUNT).walk src addr.toNat wr ue).2.1.toList.filter fun e => !s.zone.tu.cache.contains e)) ∧
      z.tu.faults = s.zone.tu.faults ∧
      z.fld pTU TU.TC_MISSES_COUNT = satU TU.TC_MISSES_COUNT.w (s.zone.fld pTU TU.TC_MISSES_COUNT + 1) ∧
      s.zone.BankFrame [14] [.tu, .resp, .freeNext] z) ∧
  (∀ (s : State) (m : Fin 8) (src : Source) (addr : BitVec 64) (wr ue : Bool) (cause : Nat), s.zone.start.released = true →
    s.zone.flag pTU TU.TU_CTRL_EN = true →
    (s.zone.tu.cache.find? (fun e => e.maps src addr.toNat && (if wr then e.w else e.r))) = none →
    ((s.zone.count pTU TU.TC_MISSES_COUNT).walk src addr.toNat wr ue).1 = .fault cause →
    Completes (.dmaTranslate m src addr wr ue) s fun z =>
      z.resp = ⟨Err.translation, 0⟩ ∧
      (s.zone.tu.faults.length < 16 → z.tu = { s.zone.tu with faults := s.zone.tu.faults ++ [⟨addr.toNat, cause, m.val, wr, src⟩] }) ∧
      (16 ≤ s.zone.tu.faults.length → z.tu = s.zone.tu ∧ z.flag pTU TU.TU_STATUS_FAULT_OVF = true ∧ z.fld pTU TU.TU_COUNTS_LOST = satU TU.TU_COUNTS_LOST.w (s.zone.fld pTU TU.TU_COUNTS_LOST + 1)) ∧
      z.fld pTU TU.TU_COUNTS_FAULTS = satU TU.TU_COUNTS_FAULTS.w (s.zone.fld pTU TU.TU_COUNTS_FAULTS + 1) ∧
      z.fld pTU TU.TC_MISSES_COUNT = satU TU.TC_MISSES_COUNT.w (s.zone.fld pTU TU.TC_MISSES_COUNT + 1) ∧
      s.zone.BankFrame [14] [.tu, .resp] z) ∧
  (∀ (s : State) (src : Source) (va c : Nat) (wr : Bool),
    (s.zone.regionCheck sourceZero true false (s.zone.ctxBase + ((if src.world = .secure then 1 else 0) * 4096 + src.mooring.toNat) * 16) 16).1 = Err.none →
    c = leNat (s.zone.memRead (s.zone.ctxBase + ((if src.world = .secure then 1 else 0) * 4096 + src.mooring.toNat) * 16) 8) →
    Gives (s.zone) fun z =>
      (c % 4 = 2 ∧ src.world = .secure → (s.zone.walk src va wr false).1 = .pa va) ∧
      (c % 4 = 0 ∨ c % 4 = 3 ∨ (c % 4 = 2 ∧ src.world = .normal) → (s.zone.walk src va wr false).1 = .fault 1) ∧
      (c % 4 = 1 ∧ 2 ^ 39 ≤ va → (s.zone.walk src va wr false).1 = .fault 2) ∧ (s.zone.walk src va wr true).1 = .fault 6) ∧
  (∀ (s : State) (writer : Writer) (x : TuFault) (l : List TuFault), s.zone.start.released = true →
    Zone.secureWriter writer = true → s.zone.tu.faults = x :: l → Completes (.tuFaultPop writer) s fun z =>
      z.tu = { s.zone.tu with faults := l } ∧ z.fld pTU TU.TU_STATUS_FAULT_LEVEL = l.length % 2 ^ TU.TU_STATUS_FAULT_LEVEL.w ∧
      (l = [] → z.flag pTU TU.FAULT_SRC_VALID = false ∧ z.flag pTU TU.TU_STATUS_FAULT_OVF = false) ∧
      (∀ y ∈ l.head?.toList, z.fld pTU TU.FAULT_SRC_MOORING = y.src.mooring.toNat ∧ z.flag pTU TU.FAULT_SRC_VALID = true ∧ z.fld pTU TU.FAULT_ADDR_LO_ADDR = y.addr % 2 ^ 32) ∧
      s.zone.BankFrame [14] [.tu] z) ∧
  (∀ (s : State) (writer : Writer), (s.zone.start.released = false ∨ Zone.secureWriter writer = false ∨ s.zone.tu.faults = []) →
    Completes (.tuFaultPop writer) s fun z =>
      s.zone.Frame [] [] z) ∧
  (∀ (s : State) (writer : Writer), s.zone.start.released = true → Zone.secureWriter writer = true → s.zone.tu.inval = none →
    Completes (.invalAll writer) s fun z =>
      z.tu = { s.zone.tu with inval := some ⟨1, sourceZero, 0⟩ } ∧ z.flag pTU TU.TU_STATUS_INVAL_BUSY = true ∧
      s.zone.BankFrame [14] [.tu] z) ∧
  (∀ (s : State) (writer : Writer), s.zone.start.released = true → Zone.secureWriter writer = true → s.zone.tu.inval ≠ none →
    Completes (.invalAll writer) s fun z =>
      z.fld pTU TU.TU_COUNTS_INVAL_IGNORED = satU TU.TU_COUNTS_INVAL_IGNORED.w (s.zone.fld pTU TU.TU_COUNTS_INVAL_IGNORED + 1) ∧
      s.zone.Frame [pTU + TU.TU_COUNTS_INVAL_IGNORED.off] [] z) ∧
  (∀ (s : State) (writer : Writer), (s.zone.start.released = false ∨ Zone.secureWriter writer = false) →
    Completes (.invalAll writer) s fun z =>
      s.zone.Frame [] [] z) ∧
  (∀ (s : State) (writer : Writer) (target : Source), s.zone.start.released = true → Zone.secureWriter writer = true →
    s.zone.tu.inval = none → Completes (.invalMooring writer target) s fun z =>
      z.tu = { s.zone.tu with inval := some ⟨2, target, 0⟩ } ∧ z.flag pTU TU.TU_STATUS_INVAL_BUSY = true ∧
      s.zone.BankFrame [14] [.tu] z) ∧
  (∀ (s : State) (writer : Writer) (target : Source), s.zone.start.released = true → Zone.secureWriter writer = true →
    s.zone.tu.inval ≠ none → Completes (.invalMooring writer target) s fun z =>
      z.fld pTU TU.TU_COUNTS_INVAL_IGNORED = satU TU.TU_COUNTS_INVAL_IGNORED.w (s.zone.fld pTU TU.TU_COUNTS_INVAL_IGNORED + 1) ∧
      s.zone.Frame [pTU + TU.TU_COUNTS_INVAL_IGNORED.off] [] z) ∧
  (∀ (s : State) (writer : Writer) (target : Source), (s.zone.start.released = false ∨ Zone.secureWriter writer = false) →
    Completes (.invalMooring writer target) s fun z =>
      s.zone.Frame [] [] z) ∧
  (∀ (s : State) (writer : Writer) (target : Source), s.zone.start.released = true → Zone.secureWriter writer = true →
    s.zone.tu.inval = none → Completes (.invalPage writer target) s fun z =>
      z.tu = { s.zone.tu with inval := some ⟨3, target, s.zone.invalAddr⟩ } ∧ z.flag pTU TU.TU_STATUS_INVAL_BUSY = true ∧
      s.zone.BankFrame [14] [.tu] z) ∧
  (∀ (s : State) (writer : Writer) (target : Source), s.zone.start.released = true → Zone.secureWriter writer = true →
    s.zone.tu.inval ≠ none → Completes (.invalPage writer target) s fun z =>
      z.fld pTU TU.TU_COUNTS_INVAL_IGNORED = satU TU.TU_COUNTS_INVAL_IGNORED.w (s.zone.fld pTU TU.TU_COUNTS_INVAL_IGNORED + 1) ∧
      s.zone.Frame [pTU + TU.TU_COUNTS_INVAL_IGNORED.off] [] z) ∧
  (∀ (s : State) (writer : Writer) (target : Source), (s.zone.start.released = false ∨ Zone.secureWriter writer = false) →
    Completes (.invalPage writer target) s fun z =>
      s.zone.Frame [] [] z) ∧
  (∀ (s : State) (i : Inval), s.zone.logicRuns = true → s.zone.tu.inval = some i → Completes (.invalDone) s fun z =>
      z.tu.inval = none ∧ (∀ e : TuEntry, e ∈ z.tu.cache ↔ e ∈ s.zone.tu.cache ∧ i.names e = false) ∧
      z.tu.faults = s.zone.tu.faults ∧ z.flag pTU TU.TU_STATUS_INVAL_BUSY = false ∧ s.zone.BankFrame [14] [.tu] z) ∧
  (∀ (s : State), (s.zone.logicRuns = false ∨ s.zone.tu.inval = none) → Completes (.invalDone) s fun z =>
      s.zone.Frame [] [] z) ∧
  (∀ (s : State) (w : World) (n : Fin 16) (st : Nat), s.zone.start.released = true →
    st = (if 14 ≤ n.val then 2 else if w = .normal ∧ s.zone.held n.val = true then 1 else if s.zone.gateState n.val = 3 then 3 else 0) →
    Completes (.gateRun w n) s fun z =>
      z.fld (pZONE 5) (if w = .secure then ZONE5.GATE_RESULT_SW_STATUS else ZONE5.GATE_RESULT_NW_STATUS) = st ∧
      z.fld (pZONE 5) (if w = .secure then ZONE5.GATE_RESULT_NW_STATUS else ZONE5.GATE_RESULT_SW_STATUS) = s.zone.fld (pZONE 5) (if w = .secure then ZONE5.GATE_RESULT_NW_STATUS else ZONE5.GATE_RESULT_SW_STATUS) ∧
      z.fld (pZONE 5) ZONE5.GATE_COUNTS_HELD = (if st = 1 then satU 16 (s.zone.fld (pZONE 5) ZONE5.GATE_COUNTS_HELD + 1) else s.zone.fld (pZONE 5) ZONE5.GATE_COUNTS_HELD) ∧
      (∀ m : Fin 14, z.gateState m.val = (if st = 0 ∧ m.val = n.val ∧ s.zone.gateState n.val ≠ 0 then 3 else s.zone.gateState m.val)) ∧
      z.gateTo = (if st = 0 ∧ s.zone.gateState n.val ≠ 0 then SMap.set (fun _ => 0) s.zone.gateTo n.val 1 else s.zone.gateTo) ∧
      s.zone.Frame [pZONE 5 + ZONE5.GATE_RESULT_SW_STATUS.off, pZONE 5 + ZONE5.GATE_STATE_STATE.off, pZONE 5 + ZONE5.GATE_COUNTS_HELD.off] [.gateTo] z) ∧
  (∀ (s : State) (w : World) (n : Fin 16), s.zone.start.released = false → Completes (.gateRun w n) s fun z =>
      s.zone.Frame [] [] z) ∧
  (∀ (s : State) (w : World) (n : Fin 16) (st : Nat), s.zone.start.released = true →
    st = (if 14 ≤ n.val then 2 else if w = .normal ∧ s.zone.held n.val = true then 1 else if s.zone.gateState n.val = 3 then 3 else 0) →
    Completes (.gateClockOff w n) s fun z =>
      z.fld (pZONE 5) (if w = .secure then ZONE5.GATE_RESULT_SW_STATUS else ZONE5.GATE_RESULT_NW_STATUS) = st ∧
      z.fld (pZONE 5) (if w = .secure then ZONE5.GATE_RESULT_NW_STATUS else ZONE5.GATE_RESULT_SW_STATUS) = s.zone.fld (pZONE 5) (if w = .secure then ZONE5.GATE_RESULT_NW_STATUS else ZONE5.GATE_RESULT_SW_STATUS) ∧
      z.fld (pZONE 5) ZONE5.GATE_COUNTS_HELD = (if st = 1 then satU 16 (s.zone.fld (pZONE 5) ZONE5.GATE_COUNTS_HELD + 1) else s.zone.fld (pZONE 5) ZONE5.GATE_COUNTS_HELD) ∧
      (∀ m : Fin 14, z.gateState m.val = (if st = 0 ∧ m.val = n.val ∧ s.zone.gateState n.val ≠ 1 then 3 else s.zone.gateState m.val)) ∧
      z.gateTo = (if st = 0 ∧ s.zone.gateState n.val ≠ 1 then SMap.set (fun _ => 0) s.zone.gateTo n.val 2 else s.zone.gateTo) ∧
      s.zone.Frame [pZONE 5 + ZONE5.GATE_RESULT_SW_STATUS.off, pZONE 5 + ZONE5.GATE_STATE_STATE.off, pZONE 5 + ZONE5.GATE_COUNTS_HELD.off] [.gateTo] z) ∧
  (∀ (s : State) (w : World) (n : Fin 16), s.zone.start.released = false → Completes (.gateClockOff w n) s fun z =>
      s.zone.Frame [] [] z) ∧
  (∀ (s : State) (w : World) (n : Fin 16) (st : Nat), s.zone.start.released = true →
    st = (if 14 ≤ n.val then 2 else if w = .normal ∧ s.zone.held n.val = true then 1 else if s.zone.gateState n.val = 3 then 3 else 0) →
    Completes (.gatePowerOff w n) s fun z =>
      z.fld (pZONE 5) (if w = .secure then ZONE5.GATE_RESULT_SW_STATUS else ZONE5.GATE_RESULT_NW_STATUS) = st ∧
      z.fld (pZONE 5) (if w = .secure then ZONE5.GATE_RESULT_NW_STATUS else ZONE5.GATE_RESULT_SW_STATUS) = s.zone.fld (pZONE 5) (if w = .secure then ZONE5.GATE_RESULT_NW_STATUS else ZONE5.GATE_RESULT_SW_STATUS) ∧
      z.fld (pZONE 5) ZONE5.GATE_COUNTS_HELD = (if st = 1 then satU 16 (s.zone.fld (pZONE 5) ZONE5.GATE_COUNTS_HELD + 1) else s.zone.fld (pZONE 5) ZONE5.GATE_COUNTS_HELD) ∧
      (∀ m : Fin 14, z.gateState m.val = (if st = 0 ∧ m.val = n.val ∧ s.zone.gateState n.val ≠ 2 then 3 else s.zone.gateState m.val)) ∧
      z.gateTo = (if st = 0 ∧ s.zone.gateState n.val ≠ 2 then SMap.set (fun _ => 0) s.zone.gateTo n.val 3 else s.zone.gateTo) ∧
      s.zone.Frame [pZONE 5 + ZONE5.GATE_RESULT_SW_STATUS.off, pZONE 5 + ZONE5.GATE_STATE_STATE.off, pZONE 5 + ZONE5.GATE_COUNTS_HELD.off] [.gateTo] z) ∧
  (∀ (s : State) (w : World) (n : Fin 16), s.zone.start.released = false → Completes (.gatePowerOff w n) s fun z =>
      s.zone.Frame [] [] z) ∧
  (∀ (s : State) (n : Fin 16) (a : Nat), s.zone.logicRuns = true → SMap.get (fun _ => 0) s.zone.gateTo n.val = a + 1 → a < 4 →
    n.val < 14 → (n.val ≠ 8 ∨ (s.zone.gateDone 8).engineRuns = true) → Completes (.gateChangeDone n) s fun z =>
      z.gateState n.val = a ∧ (∀ m : Fin 14, m.val ≠ n.val → z.gateState m.val = s.zone.gateState m.val) ∧
      z.gateTo = SMap.set (fun _ => 0) s.zone.gateTo n.val 0 ∧ s.zone.Frame [pZONE 5 + ZONE5.GATE_STATE_STATE.off] [.gateTo] z) ∧
  (∀ (s : State), s.zone.logicRuns = true → (s.zone.gateDone 8).engineRuns = false → Completes (.gateChangeDone 8) s fun z =>
      z = (s.zone.gateDone 8).endJobs (fun _ => true) KeyResult.gated ∧ z.keyring.jobs = [] ∧ z.keyring.run = none) ∧
  (∀ (s : State) (n : Fin 16), (s.zone.logicRuns = false ∨ (SMap.get (fun _ => 0) s.zone.gateTo n.val = 0 ∧ n.val ≠ 8)) →
    Completes (.gateChangeDone n) s fun z =>
      s.zone.Frame [] [] z) ∧
  (∀ (s : State) (mask : BitVec 16), s.zone.start.released = true → Completes (.holdSet .secure mask) s fun z =>
      (∀ n : Fin 16, z.held n.val = (s.zone.held n.val || mask.getLsbD n.val)) ∧
      s.zone.Frame [pZONE 5 + ZONE5.HOLD_HOLD.off] [] z) ∧
  (∀ (s : State) (mask : BitVec 16), s.zone.start.released = true → Completes (.holdClr .secure mask) s fun z =>
      (∀ n : Fin 16, z.held n.val = (s.zone.held n.val && !mask.getLsbD n.val)) ∧
      s.zone.Frame [pZONE 5 + ZONE5.HOLD_HOLD.off] [] z) ∧
  (∀ (s : State) (mask : BitVec 16), s.zone.start.released = true → Completes (.holdSet .normal mask) s fun z =>
      z.fld (pZONE 5) ZONE5.GATE_COUNTS_HOLD_IGNORED = satU 16 (s.zone.fld (pZONE 5) ZONE5.GATE_COUNTS_HOLD_IGNORED + 1) ∧
      s.zone.Frame [pZONE 5 + ZONE5.GATE_COUNTS_HOLD_IGNORED.off] [] z) ∧
  (∀ (s : State) (mask : BitVec 16), s.zone.start.released = true → Completes (.holdClr .normal mask) s fun z =>
      z.fld (pZONE 5) ZONE5.GATE_COUNTS_HOLD_IGNORED = satU 16 (s.zone.fld (pZONE 5) ZONE5.GATE_COUNTS_HOLD_IGNORED + 1) ∧
      s.zone.Frame [pZONE 5 + ZONE5.GATE_COUNTS_HOLD_IGNORED.off] [] z) ∧
  (∀ (s : State) (w : World) (mask : BitVec 16), s.zone.start.released = false → Completes (.holdSet w mask) s fun z =>
      s.zone.Frame [] [] z) ∧
  (∀ (s : State) (w : World) (mask : BitVec 16), s.zone.start.released = false → Completes (.holdClr w mask) s fun z =>
      s.zone.Frame [] [] z)

/-! ### Grants and the secure watchdog -/

/-- R517, R518, R519, R520, R521, R522, R523, R524, R525, R531, R532, R533: secure firmware writes GRANT_ARG with its MODE and
starts: busy answers 0x50, arguments out of range 9, else the quiesce of the resource begins, with a pair's state 3 and a slot's
queued jobs aborted; another world is refused and recorded, an absent one acts on nothing. A quiesce that ends within 10 ms gives
the resource its new owner and settings, counts, posts and answers its starter; after 10 ms it stays without an owner, 0x51. The
watchdog takes kicks and SECURE_READY of the secure world, resets it when they stop (harts to the boot entry, its jobs and copy
ended, holds set, reported), again after 2 s without SECURE_READY, and fails it after three; an ECALL meanwhile is answered
SERVICE_ABSENT. What is not due changes nothing. -/
def Obligations.GrantsMoveResourcesAndTheSecureWorldIsWatched : Prop :=
  (∀ (s : State) (src : Source) (args l : List Byte), s.zone.start.released = true → src.world = .secure →
    l = ((padTo 16 args).set 5 (BitVec.ofNat 8 (leAt (padTo 16 args) 5 1 % 32 + 0))) → s.zone.grant = none →
    grantArgsOk l = true → leAt l 0 2 ≠ 4 → Completes (.fwGrant src args) s fun z =>
      z.grant = some ⟨l, none, s.zone.mono⟩ ∧ z.flag pGRANT GRANT.GRANT_STATUS_BUSY = true ∧
      z.fld pGRANT GRANT.GRANT_STATUS_SOURCE = 2 ∧ z.pageBytes pGRANT 0 16 = l ∧
      (leAt l 0 2 = 1 → z.pairState (leAt l 2 2) = 3) ∧ s.zone.BankFrame [14] [.grant] z) ∧
  (∀ (s : State) (src : Source) (args l : List Byte), s.zone.start.released = true → src.world = .secure →
    l = ((padTo 16 args).set 5 (BitVec.ofNat 8 (leAt (padTo 16 args) 5 1 % 32 + 0))) → s.zone.grant = none →
    grantArgsOk l = true → leAt l 0 2 = 4 → Completes (.fwGrant src args) s fun z =>
      z.grant = some ⟨l, none, s.zone.mono⟩ ∧ z.flag pGRANT GRANT.GRANT_STATUS_BUSY = true ∧
      z.fld pGRANT GRANT.GRANT_STATUS_SOURCE = 2 ∧ z.keyring.jobs = s.zone.keyring.jobs.filter (fun j => j.win != leAt l 2 2) ∧
      z.keyring.run = s.zone.keyring.run ∧ z.keyring.slots = s.zone.keyring.slots) ∧
  (∀ (s : State) (src : Source) (args l : List Byte), s.zone.start.released = true → src.world = .secure →
    l = ((padTo 16 args).set 5 (BitVec.ofNat 8 (leAt (padTo 16 args) 5 1 % 32 + 0))) →
    (s.zone.grant ≠ none ∨ grantArgsOk l = false) → Completes (.fwGrant src args) s fun z =>
      z.fld pGRANT GRANT.GRANT_STATUS_RESULT = (if s.zone.grant = none then 9 else 0x50) ∧ z.pageBytes pGRANT 0 16 = l ∧
      s.zone.Frame [pGRANT + GRANT.GRANT_STATUS_RESULT.off, pGRANT + GRANT.GRANT_ARG_ARG.off, pGRANT + GRANT.GRANT_ARG_ARG.off + 4, pGRANT + GRANT.GRANT_ARG_ARG.off + 8, pGRANT + GRANT.GRANT_ARG_ARG.off + 12] [] z) ∧
  (∀ (s : State) (src : Source) (args : List Byte), s.zone.start.released = true → src.world = .normal →
    Completes (.fwGrant src args) s fun z =>
      z.fld (pREGN 12) REGN.VIOL_COUNT_COUNT = satU REGN.VIOL_COUNT_COUNT.w (s.zone.fld (pREGN 12) REGN.VIOL_COUNT_COUNT + 1) ∧
      s.zone.Frame [pREGN 12 + REGN.VIOL_COUNT_COUNT.off, pREGN 12 + REGN.VIOL_ADDR_LO_ADDR.off, pREGN 12 + REGN.VIOL_ADDR_HI_ADDR.off, pREGN 12 + REGN.VIOL_SRC_WRITE.off] [] z) ∧
  (∀ (s : State) (src : Source) (args : List Byte), s.zone.start.released = false → Completes (.fwGrant src args) s fun z =>
      s.zone.Frame [] [] z) ∧
  (∀ (s : State) (src : Source) (args l : List Byte), s.zone.start.released = true → src.world = .secure →
    l = ((padTo 16 args).set 5 (BitVec.ofNat 8 (leAt (padTo 16 args) 5 1 % 32 + 32))) → s.zone.grant = none →
    grantArgsOk l = true → leAt l 0 2 ≠ 4 → Completes (.fwRelease src args) s fun z =>
      z.grant = some ⟨l, none, s.zone.mono⟩ ∧ z.flag pGRANT GRANT.GRANT_STATUS_BUSY = true ∧
      z.fld pGRANT GRANT.GRANT_STATUS_SOURCE = 2 ∧ z.pageBytes pGRANT 0 16 = l ∧
      (leAt l 0 2 = 1 → z.pairState (leAt l 2 2) = 3) ∧ s.zone.BankFrame [14] [.grant] z) ∧
  (∀ (s : State) (src : Source) (args l : List Byte), s.zone.start.released = true → src.world = .secure →
    l = ((padTo 16 args).set 5 (BitVec.ofNat 8 (leAt (padTo 16 args) 5 1 % 32 + 32))) → s.zone.grant = none →
    grantArgsOk l = true → leAt l 0 2 = 4 → Completes (.fwRelease src args) s fun z =>
      z.grant = some ⟨l, none, s.zone.mono⟩ ∧ z.flag pGRANT GRANT.GRANT_STATUS_BUSY = true ∧
      z.fld pGRANT GRANT.GRANT_STATUS_SOURCE = 2 ∧ z.keyring.jobs = s.zone.keyring.jobs.filter (fun j => j.win != leAt l 2 2) ∧
      z.keyring.run = s.zone.keyring.run ∧ z.keyring.slots = s.zone.keyring.slots) ∧
  (∀ (s : State) (src : Source) (args l : List Byte), s.zone.start.released = true → src.world = .secure →
    l = ((padTo 16 args).set 5 (BitVec.ofNat 8 (leAt (padTo 16 args) 5 1 % 32 + 32))) →
    (s.zone.grant ≠ none ∨ grantArgsOk l = false) → Completes (.fwRelease src args) s fun z =>
      z.fld pGRANT GRANT.GRANT_STATUS_RESULT = (if s.zone.grant = none then 9 else 0x50) ∧ z.pageBytes pGRANT 0 16 = l ∧
      s.zone.Frame [pGRANT + GRANT.GRANT_STATUS_RESULT.off, pGRANT + GRANT.GRANT_ARG_ARG.off, pGRANT + GRANT.GRANT_ARG_ARG.off + 4, pGRANT + GRANT.GRANT_ARG_ARG.off + 8, pGRANT + GRANT.GRANT_ARG_ARG.off + 12] [] z) ∧
  (∀ (s : State) (src : Source) (args : List Byte), s.zone.start.released = true → src.world = .normal →
    Completes (.fwRelease src args) s fun z =>
      z.fld (pREGN 12) REGN.VIOL_COUNT_COUNT = satU REGN.VIOL_COUNT_COUNT.w (s.zone.fld (pREGN 12) REGN.VIOL_COUNT_COUNT + 1) ∧
      s.zone.Frame [pREGN 12 + REGN.VIOL_COUNT_COUNT.off, pREGN 12 + REGN.VIOL_ADDR_LO_ADDR.off, pREGN 12 + REGN.VIOL_ADDR_HI_ADDR.off, pREGN 12 + REGN.VIOL_SRC_WRITE.off] [] z) ∧
  (∀ (s : State) (src : Source) (args : List Byte), s.zone.start.released = false → Completes (.fwRelease src args) s fun z =>
      s.zone.Frame [] [] z) ∧
  (∀ (s : State) (src : Source) (args l : List Byte), s.zone.start.released = true → src.world = .secure →
    l = ((padTo 16 args).set 5 (BitVec.ofNat 8 (leAt (padTo 16 args) 5 1 % 32 + 64))) → s.zone.grant = none →
    grantArgsOk l = true → leAt l 0 2 ≠ 4 → Completes (.fwTableGrant src args) s fun z =>
      z.grant = some ⟨l, none, s.zone.mono⟩ ∧ z.flag pGRANT GRANT.GRANT_STATUS_BUSY = true ∧
      z.fld pGRANT GRANT.GRANT_STATUS_SOURCE = 2 ∧ z.pageBytes pGRANT 0 16 = l ∧
      (leAt l 0 2 = 1 → z.pairState (leAt l 2 2) = 3) ∧ s.zone.BankFrame [14] [.grant] z) ∧
  (∀ (s : State) (src : Source) (args l : List Byte), s.zone.start.released = true → src.world = .secure →
    l = ((padTo 16 args).set 5 (BitVec.ofNat 8 (leAt (padTo 16 args) 5 1 % 32 + 64))) →
    (s.zone.grant ≠ none ∨ grantArgsOk l = false) → Completes (.fwTableGrant src args) s fun z =>
      z.fld pGRANT GRANT.GRANT_STATUS_RESULT = (if s.zone.grant = none then 9 else 0x50) ∧ z.pageBytes pGRANT 0 16 = l ∧
      s.zone.Frame [pGRANT + GRANT.GRANT_STATUS_RESULT.off, pGRANT + GRANT.GRANT_ARG_ARG.off, pGRANT + GRANT.GRANT_ARG_ARG.off + 4, pGRANT + GRANT.GRANT_ARG_ARG.off + 8, pGRANT + GRANT.GRANT_ARG_ARG.off + 12] [] z) ∧
  (∀ (s : State) (src : Source) (args : List Byte), s.zone.start.released = true → src.world = .normal →
    Completes (.fwTableGrant src args) s fun z =>
      z.fld (pREGN 12) REGN.VIOL_COUNT_COUNT = satU REGN.VIOL_COUNT_COUNT.w (s.zone.fld (pREGN 12) REGN.VIOL_COUNT_COUNT + 1) ∧
      s.zone.Frame [pREGN 12 + REGN.VIOL_COUNT_COUNT.off, pREGN 12 + REGN.VIOL_ADDR_LO_ADDR.off, pREGN 12 + REGN.VIOL_ADDR_HI_ADDR.off, pREGN 12 + REGN.VIOL_SRC_WRITE.off] [] z) ∧
  (∀ (s : State) (src : Source) (args : List Byte), s.zone.start.released = false → Completes (.fwTableGrant src args) s fun z =>
      s.zone.Frame [] [] z) ∧
  (∀ (s : State) (g : GrantRun) (i code : Nat), s.zone.logicRuns = true → s.zone.grant = some g → i = Zone.grantIndex g →
    s.zone.quiesced g = true → s.zone.mono < g.start + 10 * 250000 → code = 0 → Zone.grantKind g = 1 → i < 1024 →
    Completes (.grantQuiesceEnd) s fun z =>
      z.rd (pPAIR i + QPR.OWNER_STATE.off) = (match Zone.newOwner g.args with | some x => BitVec.ofNat 32 (2 ^ 30 + Zone.srcBits x) | none => 0) ∧
      z.fld (pPAIR i) QPR.MAC_LO_MAC = (if Zone.newOwner g.args = none then 0 else beAt g.args 8 6 % 2 ^ 32) ∧
      z.fld (pPAIR i) QPR.RING_CFG_ENABLE = 0 ∧ z.fld (pPAIR i) QPR.RING_CFG_TX_LOG2 = 0 ∧ z.fld (pPAIR i) QPR.RING_CFG_RX_LOG2 = 0 ∧
      z.ringHeadIx i 0 = 0 ∧ z.ringHeadIx i 1 = 0 ∧ z.grant = none ∧ z.flag pGRANT GRANT.GRANT_STATUS_BUSY = false ∧
      z.fld pGRANT GRANT.GRANT_STATUS_SOURCE = 0 ∧
      (g.cmd = none → z.fld pGRANT GRANT.GRANT_STATUS_RESULT = code ∧ z.supv = s.zone.supv) ∧
      g.cmd.all (fun q => decide (s.zone.supv.sessionKey ≠ none → z.lastAnswer = some (0x000D, q, 0, leBytes 4 code))) = true ∧
      z.fld pGRANT GRANT.GRANT_COUNTS_DONE = satU 16 (s.zone.fld pGRANT GRANT.GRANT_COUNTS_DONE + 1)) ∧
  (∀ (s : State) (g : GrantRun) (i code : Nat), s.zone.logicRuns = true → s.zone.grant = some g → i = Zone.grantIndex g →
    s.zone.quiesced g = true → s.zone.mono < g.start + 10 * 250000 → code = 0 → Zone.grantKind g = 2 → i < 24 →
    grantArgsOk g.args = true → Completes (.grantQuiesceEnd) s fun z =>
      z.ringKind i = (if grantMode g.args = 0 then 1 else if grantMode g.args = 1 then 0 else 2) ∧
      (grantMode g.args = 0 → z.ringOwner i = grantOwner g.args ∧ z.fld (Zone.busPage i) (Zone.ringBaseLo i) + z.fld (Zone.busPage i) (Zone.ringBaseHi i) * 2 ^ 32 = grantRxBase g.args) ∧
      SMap.get (fun _ => 0) z.txBuffers i = (if grantMode g.args = 0 then grantTxBuffers g.args else 0) ∧
      (z.ring i).entries = [] ∧ z.fillPtr i = 0 ∧ z.ackPtr i = 0 ∧ z.grant = none ∧
      z.flag pGRANT GRANT.GRANT_STATUS_BUSY = false ∧ z.fld pGRANT GRANT.GRANT_STATUS_SOURCE = 0 ∧
      (g.cmd = none → z.fld pGRANT GRANT.GRANT_STATUS_RESULT = code ∧ z.supv = s.zone.supv) ∧
      g.cmd.all (fun q => decide (s.zone.supv.sessionKey ≠ none → z.lastAnswer = some (0x000D, q, 0, leBytes 4 code))) = true ∧
      z.fld pGRANT GRANT.GRANT_COUNTS_DONE = satU 16 (s.zone.fld pGRANT GRANT.GRANT_COUNTS_DONE + 1) ∧
      (s.zone.records.length < 256 → z.records.length = s.zone.records.length + 1) ∧
      s.zone.BankFrame [6, 7, 14] [.grant, .records, .rings, .txBuffers, .supv, .log] z) ∧
  (∀ (s : State) (g : GrantRun) (i code : Nat), s.zone.logicRuns = true → s.zone.grant = some g → i = Zone.grantIndex g →
    s.zone.quiesced g = true → s.zone.mono < g.start + 10 * 250000 → code = 0 → Zone.grantKind g = 3 → i < 48 →
    Completes (.grantQuiesceEnd) s fun z =>
      z.rd (pOWNL + 4 * i) = (match Zone.newOwner g.args with | some x => BitVec.ofNat 32 (2 ^ 31 + Zone.srcBits x) | none => 0) ∧
      z.grant = none ∧ z.flag pGRANT GRANT.GRANT_STATUS_BUSY = false ∧ z.fld pGRANT GRANT.GRANT_STATUS_SOURCE = 0 ∧
      (g.cmd = none → z.fld pGRANT GRANT.GRANT_STATUS_RESULT = code ∧ z.supv = s.zone.supv) ∧
      g.cmd.all (fun q => decide (s.zone.supv.sessionKey ≠ none → z.lastAnswer = some (0x000D, q, 0, leBytes 4 code))) = true ∧
      z.fld pGRANT GRANT.GRANT_COUNTS_DONE = satU 16 (s.zone.fld pGRANT GRANT.GRANT_COUNTS_DONE + 1) ∧
      (s.zone.records.length < 256 → z.records.length = s.zone.records.length + 1) ∧
      s.zone.BankFrame [14] [.grant, .records, .supv] z) ∧
  (∀ (s : State) (g : GrantRun) (i code : Nat), s.zone.logicRuns = true → s.zone.grant = some g → i = Zone.grantIndex g →
    s.zone.quiesced g = true → s.zone.mono < g.start + 10 * 250000 → code = 0 → Zone.grantKind g = 4 → 1 ≤ i ∧ i < 256 →
    Completes (.grantQuiesceEnd) s fun z =>
      z.keySlot i = { KeySlot.init with attr := if Zone.newOwner g.args = none then 0 else 0x00800000, owner := Zone.newOwner g.args } ∧
      ((s.zone.keySlot i).persistent = true → z.keyring.dirty = true) ∧
      (List.range 256).all (fun m => decide (m = i ∨ z.keySlot m = s.zone.keySlot m)) = true ∧ z.grant = none ∧
      z.flag pGRANT GRANT.GRANT_STATUS_BUSY = false ∧ z.fld pGRANT GRANT.GRANT_STATUS_SOURCE = 0 ∧
      (g.cmd = none → z.fld pGRANT GRANT.GRANT_STATUS_RESULT = code ∧ z.supv = s.zone.supv) ∧
      g.cmd.all (fun q => decide (s.zone.supv.sessionKey ≠ none → z.lastAnswer = some (0x000D, q, 0, leBytes 4 code))) = true ∧
      z.fld pGRANT GRANT.GRANT_COUNTS_DONE = satU 16 (s.zone.fld pGRANT GRANT.GRANT_COUNTS_DONE + 1) ∧
      (s.zone.records.length < 256 → z.records.length = s.zone.records.length + 1) ∧
      s.zone.BankFrame [0, 11, 14] [.grant, .records, .supv, .keyring] z) ∧
  (∀ (s : State) (g : GrantRun) (i code : Nat), s.zone.logicRuns = true → s.zone.grant = some g → i = Zone.grantIndex g →
    s.zone.quiesced g = true → s.zone.mono < g.start + 10 * 250000 → code = 0 → Zone.grantKind g = 5 → i < 64 →
    Completes (.grantQuiesceEnd) s fun z =>
      z.rd (pOWNS + 4 * i) = (match Zone.newOwner g.args with | some x => BitVec.ofNat 32 (2 ^ 31 + Zone.srcBits x) | none => 0) ∧
      z.grant = none ∧ z.flag pGRANT GRANT.GRANT_STATUS_BUSY = false ∧ z.fld pGRANT GRANT.GRANT_STATUS_SOURCE = 0 ∧
      (g.cmd = none → z.fld pGRANT GRANT.GRANT_STATUS_RESULT = code ∧ z.supv = s.zone.supv) ∧
      g.cmd.all (fun q => decide (s.zone.supv.sessionKey ≠ none → z.lastAnswer = some (0x000D, q, 0, leBytes 4 code))) = true ∧
      z.fld pGRANT GRANT.GRANT_COUNTS_DONE = satU 16 (s.zone.fld pGRANT GRANT.GRANT_COUNTS_DONE + 1) ∧
      (s.zone.intakeRuns = false ∨ s.zone.streamSource i = 0 → z.log = s.zone.log)) ∧
  (∀ (s : State),
    (s.zone.logicRuns = false ∨ s.zone.grant.all (fun g => !s.zone.quiesced g || decide (g.start + 10 * 250000 ≤ s.zone.mono)) = true) →
    Completes (.grantQuiesceEnd) s fun z =>
      s.zone.Frame [] [] z) ∧
  (∀ (s : State) (g : GrantRun) (i code : Nat), s.zone.logicRuns = true → s.zone.grant = some g → i = Zone.grantIndex g →
    g.start + 10 * 250000 ≤ s.zone.mono → code = 0x51 →
    ((Zone.grantKind g = 3 ∧ i < 48) ∨ (Zone.grantKind g = 5 ∧ i < 64) ∨ (Zone.grantKind g = 1 ∧ i < 1024)) →
    Completes (.grantTimeout) s fun z =>
      z.rd ((if Zone.grantKind g = 3 then pOWNL + 4 * i else if Zone.grantKind g = 5 then pOWNS + 4 * i else pPAIR i)) = 0 ∧
      z.grant = none ∧ z.flag pGRANT GRANT.GRANT_STATUS_BUSY = false ∧ z.fld pGRANT GRANT.GRANT_STATUS_SOURCE = 0 ∧
      (g.cmd = none → z.fld pGRANT GRANT.GRANT_STATUS_RESULT = code ∧ z.supv = s.zone.supv) ∧
      g.cmd.all (fun q => decide (s.zone.supv.sessionKey ≠ none → z.lastAnswer = some (0x000D, q, 0, leBytes 4 code))) = true ∧
      z.fld pGRANT GRANT.GRANT_COUNTS_TIMEOUTS = satU 8 (s.zone.fld pGRANT GRANT.GRANT_COUNTS_TIMEOUTS + 1) ∧
      z.fld pGRANT GRANT.GRANT_COUNTS_DONE = s.zone.fld pGRANT GRANT.GRANT_COUNTS_DONE ∧ z.records = s.zone.records ∧
      s.zone.BankFrame [14] [.grant, .supv] z) ∧
  (∀ (s : State) (g : GrantRun) (i code : Nat), s.zone.logicRuns = true → s.zone.grant = some g → i = Zone.grantIndex g →
    g.start + 10 * 250000 ≤ s.zone.mono → code = 0x51 → Zone.grantKind g = 2 → i < 24 → Completes (.grantTimeout) s fun z =>
      z.ringKind i = 0 ∧ (z.ring i).entries = [] ∧ z.fillPtr i = 0 ∧ z.ackPtr i = 0 ∧ z.grant = none ∧
      z.flag pGRANT GRANT.GRANT_STATUS_BUSY = false ∧ z.fld pGRANT GRANT.GRANT_STATUS_SOURCE = 0 ∧
      (g.cmd = none → z.fld pGRANT GRANT.GRANT_STATUS_RESULT = code ∧ z.supv = s.zone.supv) ∧
      g.cmd.all (fun q => decide (s.zone.supv.sessionKey ≠ none → z.lastAnswer = some (0x000D, q, 0, leBytes 4 code))) = true ∧
      z.fld pGRANT GRANT.GRANT_COUNTS_TIMEOUTS = satU 8 (s.zone.fld pGRANT GRANT.GRANT_COUNTS_TIMEOUTS + 1) ∧
      z.fld pGRANT GRANT.GRANT_COUNTS_DONE = s.zone.fld pGRANT GRANT.GRANT_COUNTS_DONE ∧ z.records = s.zone.records ∧
      s.zone.BankFrame [6, 7, 14] [.grant, .supv, .rings] z) ∧
  (∀ (s : State) (g : GrantRun) (i code : Nat), s.zone.logicRuns = true → s.zone.grant = some g → i = Zone.grantIndex g →
    g.start + 10 * 250000 ≤ s.zone.mono → code = 0x51 → Zone.grantKind g = 4 → 1 ≤ i ∧ i < 256 →
    Completes (.grantTimeout) s fun z =>
      z.keySlot i = { s.zone.keySlot i with owner := none } ∧ z.grant = none ∧ z.flag pGRANT GRANT.GRANT_STATUS_BUSY = false ∧
      z.fld pGRANT GRANT.GRANT_STATUS_SOURCE = 0 ∧
      (g.cmd = none → z.fld pGRANT GRANT.GRANT_STATUS_RESULT = code ∧ z.supv = s.zone.supv) ∧
      g.cmd.all (fun q => decide (s.zone.supv.sessionKey ≠ none → z.lastAnswer = some (0x000D, q, 0, leBytes 4 code))) = true ∧
      z.fld pGRANT GRANT.GRANT_COUNTS_TIMEOUTS = satU 8 (s.zone.fld pGRANT GRANT.GRANT_COUNTS_TIMEOUTS + 1) ∧
      z.fld pGRANT GRANT.GRANT_COUNTS_DONE = s.zone.fld pGRANT GRANT.GRANT_COUNTS_DONE ∧ z.records = s.zone.records ∧
      s.zone.BankFrame [11, 14] [.grant, .supv, .keyring] z) ∧
  (∀ (s : State), (s.zone.logicRuns = false ∨ s.zone.grant.all (fun g => decide (s.zone.mono < g.start + 10 * 250000)) = true) →
    Completes (.grantTimeout) s fun z =>
      s.zone.Frame [] [] z) ∧
  (∀ (s : State) (src : Source), s.zone.start.released = true → src.world = .secure → Completes (.swdtKick src) s fun z =>
      z.swdt = { s.zone.swdt with kickAt := s.zone.mono } ∧ s.zone.Frame [] [.swdt] z) ∧
  (∀ (s : State) (src : Source), (s.zone.start.released = false ∨ src.world = .normal) → Completes (.swdtKick src) s fun z =>
      s.zone.Frame [] [] z) ∧
  (∀ (s : State) (src : Source), s.zone.start.released = true → src.world = .secure → s.zone.secState ≠ SecState.failed →
    Completes (.secureReady src) s fun z =>
      z.secState = SecState.ready ∧ z.fld pTU TU.SECURE_STATE_FAILS = 0 ∧ z.swdt = ⟨true, s.zone.mono, none⟩ ∧
      s.zone.Frame [pTU + TU.SECURE_STATE_STATE.off] [.swdt] z) ∧
  (∀ (s : State) (src : Source), (s.zone.start.released = false ∨ src.world = .normal ∨ s.zone.secState = SecState.failed) →
    Completes (.secureReady src) s fun z =>
      s.zone.Frame [] [] z) ∧
  (∀ (s : State), s.zone.logicRuns = true → s.zone.swdt.armed = true →
    s.zone.swdt.kickAt + s.zone.fld pTU TU.SWDT_CFG_TIMEOUT * 250000 ≤ s.zone.mono → Completes (.swdtExpiry) s fun z =>
      z = s.zone.secureReset) ∧
  (∀ (s : State),
    (s.zone.logicRuns = false ∨ s.zone.swdt.armed = false ∨ s.zone.mono < s.zone.swdt.kickAt + s.zone.fld pTU TU.SWDT_CFG_TIMEOUT * 250000) →
    Completes (.swdtExpiry) s fun z =>
      s.zone.Frame [] [] z) ∧
  (∀ (s : State), Gives (s.zone.secureReset) fun z =>
      z.secState = SecState.resetting ∧
      z.fld pTU TU.SECURE_COUNTS_RESETS = satU 16 (s.zone.fld pTU TU.SECURE_COUNTS_RESETS + 1) ∧
      (∀ h : Fin 8, z.hart h.val = { s.zone.hart h.val with atBoot := (s.zone.hart h.val).atBoot || decide ((s.zone.hart h.val).runs = .secure) }) ∧
      z.keyring.jobs = s.zone.keyring.jobs.filter (fun j => j.src.world != .secure) ∧
      z.keyring.run.all (fun r => r.job.src.world == .normal) = true ∧
      (s.zone.flag (pHINGE 1) HINGE.COPY_STATUS_WORLD = true → z.fld (pHINGE 1) HINGE.COPY_STATUS_STATE ≠ 1) ∧
      z.fld (pZONE 5) ZONE5.HOLD_HOLD = 0x1200 ∧ z.swdt = ⟨false, s.zone.mono, some s.zone.mono⟩ ∧
      s.zone.Reports z Src.secureReset 0 ∧
      z.mode = s.zone.mode ∧ z.loads = s.zone.loads ∧ z.keeperA = s.zone.keeperA ∧ z.keeperB = s.zone.keeperB ∧ z.cans = s.zone.cans ∧ z.switch = s.zone.switch) ∧
  (∀ (s : State) (t n : Nat), s.zone.logicRuns = true → s.zone.swdt.resetAt = some t → t + 2000 * 250000 ≤ s.zone.mono →
    n = s.zone.fld pTU TU.SECURE_STATE_FAILS + 1 → n < 3 → Completes (.secureReadyTimeout) s fun z =>
      z = (s.zone.setFld pTU TU.SECURE_STATE_FAILS n).secureReset ∧ z.fld pTU TU.SECURE_STATE_FAILS = n) ∧
  (∀ (s : State) (t : Nat), s.zone.logicRuns = true → s.zone.swdt.resetAt = some t → t + 2000 * 250000 ≤ s.zone.mono →
    2 ≤ s.zone.fld pTU TU.SECURE_STATE_FAILS → Completes (.secureReadyTimeout) s fun z =>
      z.secState = SecState.failed ∧ z.swdt = ⟨false, s.zone.mono, none⟩ ∧ s.zone.Reports z Src.secureFailed 0 ∧
      z.harts = s.zone.harts ∧ z.keyring = s.zone.keyring) ∧
  (∀ (s : State),
    (s.zone.logicRuns = false ∨ s.zone.swdt.resetAt.all (fun t => decide (s.zone.mono < t + 2000 * 250000)) = true) →
    Completes (.secureReadyTimeout) s fun z =>
      s.zone.Frame [] [] z) ∧
  (∀ (s : State) (n : Fin 8), s.zone.start.released = true →
    (s.zone.secState = SecState.resetting ∨ s.zone.secState = SecState.failed) → (s.zone.hart n.val).runs = .normal →
    Completes (.ecallAbsent n) s fun z =>
      z.hart n.val = { s.zone.hart n.val with x := SMap.set (fun _ => 0) (SMap.set (fun _ => 0) (s.zone.hart n.val).x 10 0xFFFFFFFFFFFFFFA5) 11 0 } ∧
      z.fld pTU TU.SECURE_COUNTS_ABSENT_CALLS = satU 16 (s.zone.fld pTU TU.SECURE_COUNTS_ABSENT_CALLS + 1) ∧
      s.zone.Frame [pTU + TU.SECURE_COUNTS_ABSENT_CALLS.off] [.harts] z) ∧
  (∀ (s : State) (n : Fin 8),
    (s.zone.start.released = false ∨ (s.zone.secState ≠ SecState.resetting ∧ s.zone.secState ≠ SecState.failed) ∨ (s.zone.hart n.val).runs = .secure) →
    Completes (.ecallAbsent n) s fun z =>
      s.zone.Frame [] [] z)

/-! ### Hinges -/

/-- R539, R540, R541, R544, R545, R546, R548, R550, R555, R557, R558, R560: the oldest posted write of a direction crosses: to the
safety TCMs and, in dual-pass, its complement to the shadow; to a local controller as a notice; out of H0 to the device; in to
DRAM, or into the error log where the regions refuse it, which H1 reports. Its place goes to the oldest write that waits at its
port. The oldest request crosses with the lowest free tag behind the posted writes before it, else waits and counts. A completion
answers its request once, behind the posted writes ahead of it; a late one counts, any other does nothing; CPL_TIMEOUT ends a
request. A transaction of a PCIe device enters H0 while its link is up, at most 256 bytes of write or 512 of read. H0's link ends
all that goes out when it falls, and trains up to its target speed (LTSSM shows L0, log entry 53). Pops remove log heads, lines
age out, a copy job starts, ends and is refused as R557 says. -/
def Obligations.HingesCarryWritesReadsAndTheirErrors : Prop :=
  (∀ (s : State) (t : HingeTxn) (k : Nat) (inbound pq : Bool), s.zone.logicRuns = true → k = 1 ∧ inbound = false ∧ pq = true →
    (s.zone.hinge k).posted.find? (fun u => u.inbound == inbound) = some t →
    (∀ p ∈ (s.zone.hinge k).port, p.posted = pq → p.txn.inbound ≠ inbound) → 0x1E0000000 ≤ t.addr →
    t.addr + t.data.length ≤ 0x1E0200000 → (∀ m : Fin 4, (s.zone.core m.val).fault = none) →
    Completes (.hingeForward 1 false true none) s fun z =>
      z.hinge 1 = { (s.zone.hinge 1) with posted := (s.zone.hinge 1).posted.erase t } ∧ z.memRead t.addr t.data.length = t.data ∧
      (∀ a : Nat, a < t.addr ∨ t.addr + t.data.length ≤ a → a < t.addr + 0x200000 ∨ t.addr + 0x200000 + t.data.length ≤ a → z.memByte a = s.zone.memByte a) ∧
      s.zone.SameOutside [12] z ∧ s.zone.SameParts [.hinges, .cores] z ∧
      (∀ m : Fin 4, z.core m.val = s.zone.core m.val ∨ z.core m.val = { s.zone.core m.val with reserved := none })) ∧
  (∀ (s : State) (t : HingeTxn) (k n : Nat) (inbound pq : Bool), s.zone.logicRuns = true → k = 1 ∧ inbound = false ∧ pq = true →
    (s.zone.hinge k).posted.find? (fun u => u.inbound == inbound) = some t →
    (∀ p ∈ (s.zone.hinge k).port, p.posted = pq → p.txn.inbound ≠ inbound) → n < 8 → t.addr = 0x1F2080000 + n * 0x1000 →
    leNat t.data % 2048 < 64 → Completes (.hingeForward 1 false true none) s fun z =>
      z.hinge 1 = { (s.zone.hinge 1) with posted := (s.zone.hinge 1).posted.erase t } ∧
      SMap.get (fun _ => 0) z.localIrq n = SMap.get (fun _ => 0) s.zone.localIrq n ||| 2 ^ (leNat t.data % 2048) ∧
      (∀ m : Fin 8, m.val ≠ n → SMap.get (fun _ => 0) z.localIrq m.val = SMap.get (fun _ => 0) s.zone.localIrq m.val) ∧
      s.zone.BankFrame [12] [.hinges, .localIrq] z) ∧
  (∀ (s : State) (t : HingeTxn) (k : Nat) (inbound pq : Bool), s.zone.logicRuns = true → k = 0 ∧ inbound = false ∧ pq = true →
    (s.zone.hinge k).posted.find? (fun u => u.inbound == inbound) = some t →
    (∀ p ∈ (s.zone.hinge k).port, p.posted = pq → p.txn.inbound ≠ inbound) →
    Completes (.hingeForward 0 false true none) s fun z =>
      z.hinge 0 = { s.zone.hinge 0 with posted := (s.zone.hinge 0).posted.erase t } ∧ s.zone.BankFrame [12] [.hinges] z) ∧
  (∀ (s : State) (t : HingeTxn) (k : Nat) (inbound pq : Bool), s.zone.logicRuns = true → k = 1 ∧ inbound = true ∧ pq = true →
    (s.zone.hinge k).posted.find? (fun u => u.inbound == inbound) = some t →
    (∀ p ∈ (s.zone.hinge k).port, p.posted = pq → p.txn.inbound ≠ inbound) → s.zone.flag pTU TU.TU_CTRL_EN = false →
    0x1000000000 ≤ t.addr ∧ t.addr + t.data.length ≤ 0x1400000000 →
    t.data.length = t.size ∧ [1, 2, 4, 8, 16, 32, 64].contains t.size = true ∧ t.addr % t.size = 0 →
    s.zone.permitted 1 t.src false true t.addr t.size = true → (s.zone.hinge 1).lines = [] →
    Completes (.hingeForward 1 true true none) s fun z =>
      z.hinge 1 = { (s.zone.hinge 1) with posted := (s.zone.hinge 1).posted.erase t } ∧ z.memRead t.addr t.data.length = t.data ∧
      (∀ a : Nat, a < t.addr ∨ t.addr + t.data.length ≤ a → z.memByte a = s.zone.memByte a) ∧ s.zone.SameOutside [12] z ∧
      s.zone.SameParts [.hinges, .cores] z ∧
      (∀ m : Fin 4, z.core m.val = s.zone.core m.val ∨ z.core m.val = { s.zone.core m.val with reserved := none })) ∧
  (∀ (s : State) (t : HingeTxn) (k : Nat) (inbound pq : Bool), s.zone.logicRuns = true → k = 1 ∧ inbound = true ∧ pq = true →
    (s.zone.hinge k).posted.find? (fun u => u.inbound == inbound) = some t →
    (∀ p ∈ (s.zone.hinge k).port, p.posted = pq → p.txn.inbound ≠ inbound) → s.zone.flag pTU TU.TU_CTRL_EN = false →
    0x1000000000 ≤ t.addr ∧ t.addr + t.data.length ≤ 0x1400000000 →
    t.data.length = t.size ∧ [1, 2, 4, 8, 16, 32, 64].contains t.size = true ∧ t.addr % t.size = 0 →
    s.zone.permitted 1 t.src false true t.addr t.size = false → (s.zone.hinge 1).errs.length < 16 →
    Completes (.hingeForward 1 true true none) s fun z =>
      z.hinge 1 = { (s.zone.hinge 1) with posted := (s.zone.hinge 1).posted.erase t, errs := (s.zone.hinge 1).errs ++ [⟨t.addr, Err.region, true, false, t.src⟩] } ∧
      z.fld (pHINGE 1) HINGE.LOG_COUNTS_ERR_LOGGED = satU HINGE.LOG_COUNTS_ERR_LOGGED.w (s.zone.fld (pHINGE 1) HINGE.LOG_COUNTS_ERR_LOGGED + 1) ∧
      z.fld (pREGN 1) REGN.VIOL_COUNT_COUNT = satU REGN.VIOL_COUNT_COUNT.w (s.zone.fld (pREGN 1) REGN.VIOL_COUNT_COUNT + 1) ∧
      s.zone.Reports z Src.hingeH1 0 ∧ s.zone.BankFrame [12, 14] [.hinges, .safety] z) ∧
  (∀ (s : State) (t : HingeTxn) (k : Nat) (inbound pq : Bool), s.zone.logicRuns = true → k = 1 ∧ inbound = true ∧ pq = true →
    (s.zone.hinge k).posted.find? (fun u => u.inbound == inbound) = some t →
    (∀ p ∈ (s.zone.hinge k).port, p.posted = pq → p.txn.inbound ≠ inbound) → s.zone.flag pTU TU.TU_CTRL_EN = false →
    0x1000000000 ≤ t.addr ∧ t.addr + t.data.length ≤ 0x1400000000 →
    t.data.length = t.size ∧ [1, 2, 4, 8, 16, 32, 64].contains t.size = true ∧ t.addr % t.size = 0 →
    s.zone.permitted 1 t.src false true t.addr t.size = false → 16 ≤ (s.zone.hinge 1).errs.length →
    Completes (.hingeForward 1 true true none) s fun z =>
      (z.hinge 1).errs = (s.zone.hinge 1).errs ∧ (z.hinge 1).posted = (s.zone.hinge 1).posted.erase t ∧
      z.flag (pHINGE 1) HINGE.HSTATUS_ERR_OVF = true ∧
      z.fld (pHINGE 1) HINGE.LOG_COUNTS_ERR_LOST = satU HINGE.LOG_COUNTS_ERR_LOST.w (s.zone.fld (pHINGE 1) HINGE.LOG_COUNTS_ERR_LOST + 1) ∧
      s.zone.Reports z Src.hingeH1 0 ∧ s.zone.BankFrame [12, 14] [.hinges, .safety] z) ∧
  (∀ (s : State) (t : HingeTxn) (k : Nat) (inbound pq : Bool) (p : PortTxn), s.zone.logicRuns = true →
    k = 0 ∧ inbound = false ∧ pq = true → (s.zone.hinge k).posted.find? (fun u => u.inbound == inbound) = some t →
    (s.zone.hinge k).port.find? (fun p => p.posted == pq && p.txn.inbound == inbound) = some p →
    Completes (.hingeForward 0 false true none) s fun z =>
      z.hinge 0 = { s.zone.hinge 0 with posted := (s.zone.hinge 0).posted.erase t ++ [{ p.txn with seq := (s.zone.hinge 0).next }], port := (s.zone.hinge 0).port.erase p, next := (s.zone.hinge 0).next + 1 } ∧
      (z.resp = if p.answers then ⟨Err.none, 0⟩ else s.zone.resp) ∧ s.zone.BankFrame [12] [.hinges, .resp] z) ∧
  (∀ (s : State) (t : HingeTxn) (k n : Nat) (inbound pq : Bool), s.zone.logicRuns = true → k = 1 ∧ inbound = false ∧ pq = false →
    (s.zone.hinge k).waiting.find? (fun u => u.inbound == inbound) = some t →
    (∀ p ∈ (s.zone.hinge k).port, p.posted = pq → p.txn.inbound ≠ inbound) →
    (∀ p ∈ (s.zone.hinge 1).posted, p.inbound = false → t.seq < p.seq) → Zone.freeTag (s.zone.hinge 1) false = some n →
    t.write = false → t.addr < 0x1F0000000 → Completes (.hingeForward 1 false false none) s fun z =>
      z.hinge 1 = { (s.zone.hinge 1) with waiting := (s.zone.hinge 1).waiting.erase t, reqs := (s.zone.hinge 1).reqs ++ [⟨n, t, s.zone.mono, some (Err.none, s.zone.memRead t.addr t.size, (s.zone.hinge 1).next)⟩], next := (s.zone.hinge 1).next + 1 } ∧
      z.fld (pHINGE 1) HINGE.HSTATUS_NP_OUT = (((s.zone.hinge 1).reqs.filter fun r => !r.txn.inbound).length + 1) % 256 ∧
      (∀ r ∈ (s.zone.hinge 1).reqs, r.txn.inbound = false → r.tag ≠ n) ∧ s.zone.BankFrame [12] [.hinges] z) ∧
  (∀ (s : State) (t : HingeTxn) (k n : Nat) (inbound pq : Bool), s.zone.logicRuns = true → k = 0 ∧ inbound = false ∧ pq = false →
    (s.zone.hinge k).waiting.find? (fun u => u.inbound == inbound) = some t →
    (∀ p ∈ (s.zone.hinge k).port, p.posted = pq → p.txn.inbound ≠ inbound) →
    (∀ p ∈ (s.zone.hinge 0).posted, p.inbound = false → t.seq < p.seq) → Zone.freeTag (s.zone.hinge 0) false = some n →
    Completes (.hingeForward 0 false false none) s fun z =>
      z.hinge 0 = { s.zone.hinge 0 with waiting := (s.zone.hinge 0).waiting.erase t, reqs := (s.zone.hinge 0).reqs ++ [⟨n, t, s.zone.mono, none⟩], next := (s.zone.hinge 0).next + 1 } ∧
      s.zone.BankFrame [12] [.hinges] z) ∧
  (∀ (s : State) (t : HingeTxn) (k n : Nat) (inbound pq : Bool), s.zone.logicRuns = true → k = 1 ∧ inbound = true ∧ pq = false →
    (s.zone.hinge k).waiting.find? (fun u => u.inbound == inbound) = some t →
    (∀ p ∈ (s.zone.hinge k).port, p.posted = pq → p.txn.inbound ≠ inbound) →
    (∀ p ∈ (s.zone.hinge 1).posted, p.inbound = true → t.seq < p.seq) → Zone.freeTag (s.zone.hinge 1) true = some n →
    t.write = false ∧ t.prefetch = false → s.zone.flag pTU TU.TU_CTRL_EN = false →
    0x1000000000 ≤ t.addr ∧ t.addr + t.size ≤ 0x1400000000 →
    [1, 2, 4, 8, 16, 32, 64].contains t.size = true ∧ t.addr % t.size = 0 →
    s.zone.permitted 1 t.src true false t.addr t.size = true → Completes (.hingeForward 1 true false none) s fun z =>
      z.hinge 1 = { (s.zone.hinge 1) with waiting := (s.zone.hinge 1).waiting.erase t, reqs := (s.zone.hinge 1).reqs ++ [⟨n, t, s.zone.mono, some (Err.none, s.zone.memRead t.addr t.size, (s.zone.hinge 1).next)⟩], next := (s.zone.hinge 1).next + 1 } ∧
      s.zone.BankFrame [12] [.hinges] z) ∧
  (∀ (s : State) (t : HingeTxn) (k n : Nat) (inbound pq : Bool), s.zone.logicRuns = true → k = 1 ∧ inbound = true ∧ pq = false →
    (s.zone.hinge k).waiting.find? (fun u => u.inbound == inbound) = some t →
    (∀ p ∈ (s.zone.hinge k).port, p.posted = pq → p.txn.inbound ≠ inbound) →
    (∀ p ∈ (s.zone.hinge 1).posted, p.inbound = true → t.seq < p.seq) → Zone.freeTag (s.zone.hinge 1) true = some n →
    t.write = false ∧ t.prefetch = false → s.zone.flag pTU TU.TU_CTRL_EN = false →
    0x1000000000 ≤ t.addr ∧ t.addr + t.size ≤ 0x1400000000 →
    [1, 2, 4, 8, 16, 32, 64].contains t.size = true ∧ t.addr % t.size = 0 →
    s.zone.permitted 1 t.src true false t.addr t.size = false → Completes (.hingeForward 1 true false none) s fun z =>
      z.hinge 1 = { (s.zone.hinge 1) with waiting := (s.zone.hinge 1).waiting.erase t, reqs := (s.zone.hinge 1).reqs ++ [⟨n, t, s.zone.mono, some (Err.region, [], (s.zone.hinge 1).next)⟩], next := (s.zone.hinge 1).next + 1 } ∧
      z.fld (pREGN 1) REGN.VIOL_COUNT_COUNT = satU REGN.VIOL_COUNT_COUNT.w (s.zone.fld (pREGN 1) REGN.VIOL_COUNT_COUNT + 1) ∧
      s.zone.BankFrame [12, 14] [.hinges] z) ∧
  (∀ (s : State) (h : Fin 3) (inbound : Bool) (p t : HingeTxn),
    (s.zone.hinge h.val).waiting.find? (fun u => u.inbound == inbound) = some t → p ∈ (s.zone.hinge h.val).posted →
    p.inbound = inbound → p.seq < t.seq → Completes (.hingeForward h inbound false none) s fun z =>
      s.zone.Frame [] [] z) ∧
  (∀ (s : State) (h : Fin 3) (inbound : Bool) (t : HingeTxn), s.zone.logicRuns = true →
    (s.zone.hinge h.val).waiting.find? (fun u => u.inbound == inbound) = some t →
    (∀ p ∈ (s.zone.hinge h.val).posted, p.inbound = inbound → t.seq < p.seq) → Zone.freeTag (s.zone.hinge h.val) inbound = none →
    Completes (.hingeForward h inbound false none) s fun z =>
      z.fld (pHINGE h.val) HINGE.TAG_WAITS_COUNT = satU HINGE.TAG_WAITS_COUNT.w (s.zone.fld (pHINGE h.val) HINGE.TAG_WAITS_COUNT + 1) ∧
      s.zone.Frame [pHINGE h.val + HINGE.TAG_WAITS_COUNT.off] [] z) ∧
  (∀ (s : State) (h : Fin 3) (inbound posted : Bool),
    (s.zone.logicRuns = false ∨ ((if posted then (s.zone.hinge h.val).posted else (s.zone.hinge h.val).waiting).find? (fun u => u.inbound == inbound) = none)) →
    Completes (.hingeForward h inbound posted none) s fun z =>
      s.zone.Frame [] [] z) ∧
  (∀ (s : State) (p : PcieTxn) (src : Source), s.zone.logicRuns = true → s.zone.h0Up = true →
    (s.zone.hinge 0).waiting.find? (fun u => u.inbound == true) = none →
    (∀ q ∈ (s.zone.hinge 0).port, q.posted = true → q.txn.inbound = false) →
    ((s.zone.hinge 0).posted.filter fun u => u.inbound == true).length < 64 → p.write = true →
    1 ≤ p.size.toNat ∧ p.size.toNat ≤ 256 →
    src = ⟨if s.zone.flag (pHINGE 0) HINGE.H0_DMA_WORLD then .secure else .normal, BitVec.ofNat 12 (s.zone.fld (pHINGE 0) HINGE.H0_DMA_MOORING)⟩ →
    Completes (.hingeForward 0 true false (some p)) s fun z =>
      z.hinge 0 = { s.zone.hinge 0 with posted := (s.zone.hinge 0).posted ++ [⟨true, true, p.addr.toNat, src, p.size.toNat, padTo p.size.toNat p.data, false, (s.zone.hinge 0).next⟩], next := (s.zone.hinge 0).next + 1 } ∧
      s.zone.BankFrame [12] [.hinges] z) ∧
  (∀ (s : State) (p : PcieTxn) (src : Source), s.zone.logicRuns = true → s.zone.h0Up = true →
    (s.zone.hinge 0).posted.find? (fun u => u.inbound == true) = none →
    (∀ q ∈ (s.zone.hinge 0).port, q.posted = false → q.txn.inbound = false) →
    ((s.zone.hinge 0).waiting.filter fun u => u.inbound == true).length < 32 → p.write = false →
    1 ≤ p.size.toNat ∧ p.size.toNat ≤ 512 →
    src = ⟨if s.zone.flag (pHINGE 0) HINGE.H0_DMA_WORLD then .secure else .normal, BitVec.ofNat 12 (s.zone.fld (pHINGE 0) HINGE.H0_DMA_MOORING)⟩ →
    Completes (.hingeForward 0 true true (some p)) s fun z =>
      z.hinge 0 = { s.zone.hinge 0 with waiting := (s.zone.hinge 0).waiting ++ [⟨false, true, p.addr.toNat, src, p.size.toNat, [], false, (s.zone.hinge 0).next⟩], next := (s.zone.hinge 0).next + 1 } ∧
      s.zone.BankFrame [12] [.hinges] z) ∧
  (∀ (s : State) (h : Fin 3) (inbound posted : Bool) (p : PcieTxn),
    (s.zone.h0Up = false ∨ (p.write = true ∧ 256 < p.size.toNat) ∨ 512 < p.size.toNat ∨ p.size.toNat = 0 ∨ h.val ≠ 0 ∨ inbound = false) →
    ((if posted then (s.zone.hinge h.val).posted else (s.zone.hinge h.val).waiting).find? (fun u => u.inbound == inbound) = none) →
    Completes (.hingeForward h inbound posted (some p)) s fun z =>
      s.zone.Frame [] [] z) ∧
  (∀ (s : State) (h : Fin 3) (inbound : Bool) (n : Fin 128) (data : List Byte) (lines : List (List Byte × Bool)) (r : HingeReq) (d : List Byte) (seq : Nat) (code : Fin 13),
    s.zone.logicRuns = true → (s.zone.hinge h.val).reqs.find? (fun r => r.txn.inbound == inbound && r.tag == n.val) = some r →
    r.answer = some (Err.none, d, seq) → (∀ p ∈ (s.zone.hinge h.val).posted, p.inbound ≠ inbound → seq ≤ p.seq) →
    (h.val ≠ 0 ∨ inbound = false) → code.val ≠ Err.ecc → Completes (.hingeCompletion h inbound n false code data lines) s fun z =>
      z.resp = ⟨Err.none, leNat (padTo r.txn.size d)⟩ ∧
      z.hinge h.val = { s.zone.hinge h.val with reqs := (s.zone.hinge h.val).reqs.erase r } ∧
      s.zone.BankFrame [12] [.hinges, .resp] z) ∧
  (∀ (s : State) (inbound : Bool) (n : Fin 128) (data : List Byte) (lines : List (List Byte × Bool)) (r : HingeReq) (d : List Byte) (seq c : Nat) (code : Fin 13),
    s.zone.logicRuns = true → (s.zone.hinge 1).reqs.find? (fun r => r.txn.inbound == inbound && r.tag == n.val) = some r →
    r.answer = some (c, d, seq) → (∀ p ∈ (s.zone.hinge 1).posted, p.inbound ≠ inbound → seq ≤ p.seq) →
    (c ≠ Err.none ∨ code.val = Err.ecc) → Completes (.hingeCompletion 1 inbound n false code data lines) s fun z =>
      z.resp = ⟨if c = Err.none then Err.ecc else c, 0⟩ ∧
      z.hinge 1 = { (s.zone.hinge 1) with reqs := (s.zone.hinge 1).reqs.erase r } ∧ s.zone.Reports z Src.hingeH1 0 ∧
      s.zone.BankFrame [12] [.hinges, .resp, .safety] z) ∧
  (∀ (s : State) (n : Fin 128) (code : Fin 13) (data : List Byte) (lines : List (List Byte × Bool)) (r : HingeReq),
    s.zone.logicRuns = true → (s.zone.hinge 0).reqs.find? (fun r => r.txn.inbound == false && r.tag == n.val) = some r →
    r.answer = none → r.txn.prefetch = false → (∀ p ∈ (s.zone.hinge 0).posted, p.inbound = false) →
    Completes (.hingeCompletion 0 false n false code data lines) s fun z =>
      z.resp = ⟨code.val, if code.val = 0 then leNat (padTo r.txn.size data) else 0⟩ ∧
      z.hinge 0 = { s.zone.hinge 0 with reqs := (s.zone.hinge 0).reqs.erase r } ∧ s.zone.BankFrame [12] [.hinges, .resp] z) ∧
  (∀ (s : State) (h : Fin 3) (inbound : Bool) (n : Fin 128) (data : List Byte) (lines : List (List Byte × Bool)) (r : HingeReq) (p : HingeTxn) (code : Fin 13),
    (s.zone.hinge h.val).reqs.find? (fun r => r.txn.inbound == inbound && r.tag == n.val) = some r →
    p ∈ (s.zone.hinge h.val).posted → p.inbound ≠ inbound → (∀ x ∈ r.answer.toList, p.seq < x.2.2) →
    Completes (.hingeCompletion h inbound n false code data lines) s fun z =>
      s.zone.Frame [] [] z) ∧
  (∀ (s : State) (h : Fin 3) (inbound : Bool) (n : Fin 128) (code : Fin 13) (data : List Byte) (lines : List (List Byte × Bool)),
    s.zone.logicRuns = true → (inbound, n.val) ∈ (s.zone.hinge h.val).expired →
    Completes (.hingeCompletion h inbound n true code data lines) s fun z =>
      z.fld (pHINGE h.val) HINGE.CPL_COUNTS_LATE_CPL = satU 16 (s.zone.fld (pHINGE h.val) HINGE.CPL_COUNTS_LATE_CPL + 1) ∧
      z.hinge h.val = { s.zone.hinge h.val with expired := (s.zone.hinge h.val).expired.erase (inbound, n.val) } ∧
      s.zone.BankFrame [12] [.hinges] z) ∧
  (∀ (s : State) (h : Fin 3) (inbound late : Bool) (n : Fin 128) (code : Fin 13) (data : List Byte) (lines : List (List Byte × Bool)),
    (s.zone.logicRuns = false ∨ (late = true ∧ ¬ (inbound, n.val) ∈ (s.zone.hinge h.val).expired) ∨ (late = false ∧ (s.zone.hinge h.val).reqs.find? (fun r => r.txn.inbound == inbound && r.tag == n.val) = none)) →
    Completes (.hingeCompletion h inbound n late code data lines) s fun z =>
      s.zone.Frame [] [] z) ∧
  (∀ (s : State) (h : Fin 3) (inbound : Bool) (n : Fin 128) (r : HingeReq), s.zone.logicRuns = true →
    (s.zone.hinge h.val).reqs.find? (fun r => r.txn.inbound == inbound && r.tag == n.val) = some r →
    r.at_ + s.zone.fld (pHINGE h.val) HINGE.CPL_TIMEOUT_US * 250 ≤ s.zone.mono → Completes (.cplTimeout h inbound n) s fun z =>
      (z.resp = if h.val = 0 ∧ r.txn.inbound = true then s.zone.resp else ⟨Err.timeout, 0⟩) ∧
      z.hinge h.val = { s.zone.hinge h.val with reqs := (s.zone.hinge h.val).reqs.erase r, expired := (s.zone.hinge h.val).expired ++ [(inbound, n.val)] } ∧
      z.fld (pHINGE h.val) HINGE.CPL_COUNTS_TIMEOUTS = satU 16 (s.zone.fld (pHINGE h.val) HINGE.CPL_COUNTS_TIMEOUTS + 1) ∧
      (h.val = 1 → s.zone.Reports z Src.hingeH1 0) ∧ (h.val ≠ 1 → z.safety = s.zone.safety) ∧
      s.zone.BankFrame [12] [.hinges, .resp, .safety] z) ∧
  (∀ (s : State) (h : Fin 3) (inbound : Bool) (n : Fin 128),
    (s.zone.logicRuns = false ∨ ((s.zone.hinge h.val).reqs.find? (fun r => r.txn.inbound == inbound && r.tag == n.val)).all (fun r => decide (s.zone.mono < r.at_ + s.zone.fld (pHINGE h.val) HINGE.CPL_TIMEOUT_US * 250)) = true) →
    Completes (.cplTimeout h inbound n) s fun z =>
      s.zone.Frame [] [] z) ∧
  (∀ (s : State), s.zone.logicRuns = true → s.zone.h0Up = true → s.zone.flag pLOG LOG0.LOG_CTRL_EN = false →
    (s.zone.hinge 0).errs.length + (s.zone.hinge 0).posted.length + (s.zone.hinge 0).port.length ≤ 16 →
    Completes (.h0LinkDown) s fun z =>
      z.h0Up = false ∧ ((∃ r ∈ (s.zone.hinge 0).reqs, r.txn.inbound = false) → z.resp = ⟨Err.linkDown, 0⟩) ∧
      (z.hinge 0).reqs = (s.zone.hinge 0).reqs.filter (fun r => r.txn.inbound) ∧
      (z.hinge 0).waiting = (s.zone.hinge 0).waiting.filter (fun t => t.inbound) ∧
      (z.hinge 0).posted = (s.zone.hinge 0).posted.filter (fun t => t.inbound) ∧
      (z.hinge 0).port = (s.zone.hinge 0).port.filter (fun p => p.txn.inbound) ∧
      (z.hinge 0).errs = (s.zone.hinge 0).errs ++ (((s.zone.hinge 0).posted.filter fun t => !t.inbound) ++ (((s.zone.hinge 0).port.filter fun p => p.posted && !p.txn.inbound).map fun p => p.txn)).map (fun t : HingeTxn => (⟨t.addr, Err.linkDown, false, false, t.src⟩ : HingeRec)) ∧
      z.fld (pHINGE 0) HINGE.H0_COUNTS_LINK_DOWNS = satU 16 (s.zone.fld (pHINGE 0) HINGE.H0_COUNTS_LINK_DOWNS + 1) ∧
      z.fld (pHINGE 0) HINGE.H0_LINK_SPEED_NOW = 0 ∧ z.fld (pHINGE 0) HINGE.H0_LINK_WIDTH = 0 ∧
      s.zone.BankFrame [12] [.hinges, .resp] z) ∧
  (∀ (s : State), (s.zone.logicRuns = false ∨ s.zone.h0Up = false) → Completes (.h0LinkDown) s fun z =>
      s.zone.Frame [] [] z) ∧
  (∀ (s : State) (sp : Fin 4) (wd : Fin 3), s.zone.logicRuns = true → s.zone.h0Up = false →
    s.zone.flag (pHINGE 0) HINGE.H0_CTRL_LINK_EN = true → s.zone.flag (pHINGE 0) HINGE.H0_CTRL_PERST = false →
    Completes (.h0LinkUp sp wd) s fun z =>
      z.h0Up = true ∧
      z.fld (pHINGE 0) HINGE.H0_LINK_SPEED_NOW = min sp.val (s.zone.fld (pHINGE 0) HINGE.H0_CTRL_TARGET_SPEED) + 1 ∧
      z.fld (pHINGE 0) HINGE.H0_LINK_WIDTH = 2 ^ wd.val ∧ z.fld (pHINGE 0) HINGE.H0_LINK_LTSSM = 4 ∧
      s.zone.Frame [pHINGE 0 + HINGE.HSTATUS_LINK_UP.off, pHINGE 0 + HINGE.H0_LINK_WIDTH.off] [] z) ∧
  (∀ (s : State) (sp : Fin 4) (wd : Fin 3),
    (s.zone.logicRuns = false ∨ s.zone.h0Up = true ∨ s.zone.flag (pHINGE 0) HINGE.H0_CTRL_LINK_EN = false ∨ s.zone.flag (pHINGE 0) HINGE.H0_CTRL_PERST = true) →
    Completes (.h0LinkUp sp wd) s fun z =>
      s.zone.Frame [] [] z) ∧
  (∀ (s : State), s.zone.logicRuns = true → s.zone.h0Up = true → Completes (.intxMessage) s fun z =>
      z.fld (pHINGE 0) HINGE.H0_COUNTS_INTX = satU 16 (s.zone.fld (pHINGE 0) HINGE.H0_COUNTS_INTX + 1) ∧
      s.zone.Frame [pHINGE 0 + HINGE.H0_COUNTS_INTX.off] [] z) ∧
  (∀ (s : State), (s.zone.logicRuns = false ∨ s.zone.h0Up = false) → Completes (.intxMessage) s fun z =>
      s.zone.Frame [] [] z) ∧
  (∀ (s : State) (h : Fin 3) (src : Source), s.zone.start.released = true →
    s.zone.Grants src (pHINGE h.val + HINGE.ERR_POP_POP.off) 4 true 1 → Completes (.errPop (.firmware src) h) s fun z =>
      z.hinge h.val = { s.zone.hinge h.val with errs := (s.zone.hinge h.val).errs.tail } ∧
      ((z.hinge h.val).errs = [] → z.flag (pHINGE h.val) HINGE.ERR_SRC_VALID = false ∧ z.flag (pHINGE h.val) HINGE.HSTATUS_ERR_OVF = false) ∧
      z.resp = ⟨Err.none, 0⟩ ∧ s.zone.BankFrame [12] [.hinges, .resp] z) ∧
  (∀ (s : State) (h : Fin 3) (x : Keeper), s.zone.logicRuns = true → s.zone.Reaches x (pHINGE h.val + HINGE.ERR_POP_POP.off) →
    Completes (.errPop (.keeper x) h) s fun z =>
      z.hinge h.val = { s.zone.hinge h.val with errs := (s.zone.hinge h.val).errs.tail } ∧
      ((z.hinge h.val).errs = [] → z.flag (pHINGE h.val) HINGE.ERR_SRC_VALID = false ∧ z.flag (pHINGE h.val) HINGE.HSTATUS_ERR_OVF = false) ∧
      s.zone.BankFrame [12] [.hinges, .stages] z) ∧
  (∀ (s : State) (h : Fin 3) (src : Source), s.zone.start.released = true →
    s.zone.lineWritten 1 (0x1F0000000 + (pHINGE h.val + HINGE.ERR_POP_POP.off)) 4 = s.zone →
    s.zone.permitted 12 src false true (0x1F0000000 + (pHINGE h.val + HINGE.ERR_POP_POP.off)) 4 = false →
    Completes (.errPop (.firmware src) h) s fun z =>
      z.resp = ⟨Err.region, 0⟩ ∧
      z.fld (pREGN 12) REGN.VIOL_COUNT_COUNT = satU REGN.VIOL_COUNT_COUNT.w (s.zone.fld (pREGN 12) REGN.VIOL_COUNT_COUNT + 1) ∧
      s.zone.BankFrame [14] [.resp] z) ∧
  (∀ (s : State) (h : Fin 3) (x : Writer), s.zone.writerActs x = false → Completes (.errPop x h) s fun z =>
      s.zone.Frame [] [] z) ∧
  (∀ (s : State) (h : Fin 3) (src : Source), s.zone.start.released = true →
    s.zone.Grants src (pHINGE h.val + HINGE.DISC_POP_POP.off) 4 true 1 → Completes (.discPop (.firmware src) h) s fun z =>
      z.hinge h.val = { s.zone.hinge h.val with discs := (s.zone.hinge h.val).discs.tail } ∧
      ((z.hinge h.val).discs = [] → z.flag (pHINGE h.val) HINGE.DISC_SRC_VALID = false ∧ z.flag (pHINGE h.val) HINGE.HSTATUS_DISC_OVF = false) ∧
      z.resp = ⟨Err.none, 0⟩ ∧ s.zone.BankFrame [12] [.hinges, .resp] z) ∧
  (∀ (s : State) (h : Fin 3) (x : Keeper), s.zone.logicRuns = true → s.zone.Reaches x (pHINGE h.val + HINGE.DISC_POP_POP.off) →
    Completes (.discPop (.keeper x) h) s fun z =>
      z.hinge h.val = { s.zone.hinge h.val with discs := (s.zone.hinge h.val).discs.tail } ∧
      ((z.hinge h.val).discs = [] → z.flag (pHINGE h.val) HINGE.DISC_SRC_VALID = false ∧ z.flag (pHINGE h.val) HINGE.HSTATUS_DISC_OVF = false) ∧
      s.zone.BankFrame [12] [.hinges, .stages] z) ∧
  (∀ (s : State) (h : Fin 3) (src : Source), s.zone.start.released = true →
    s.zone.lineWritten 1 (0x1F0000000 + (pHINGE h.val + HINGE.DISC_POP_POP.off)) 4 = s.zone →
    s.zone.permitted 12 src false true (0x1F0000000 + (pHINGE h.val + HINGE.DISC_POP_POP.off)) 4 = false →
    Completes (.discPop (.firmware src) h) s fun z =>
      z.resp = ⟨Err.region, 0⟩ ∧
      z.fld (pREGN 12) REGN.VIOL_COUNT_COUNT = satU REGN.VIOL_COUNT_COUNT.w (s.zone.fld (pREGN 12) REGN.VIOL_COUNT_COUNT + 1) ∧
      s.zone.BankFrame [14] [.resp] z) ∧
  (∀ (s : State) (h : Fin 3) (x : Writer), s.zone.writerActs x = false → Completes (.discPop x h) s fun z =>
      s.zone.Frame [] [] z) ∧
  (∀ (s : State) (h : Fin 2) (inbound : Bool) (line : BitVec 64) (x : HeldLine), s.zone.logicRuns = true →
    (s.zone.hinge h.val).lines.filter (fun l => l.inbound == inbound && l.addr == line.toNat && decide (l.at_ + s.zone.fld (pHINGE h.val) HINGE.PF_CFG_LIFE * 250 ≤ s.zone.mono)) = [x] →
    x.answered = false → Completes (.prefetchAged h inbound line) s fun z =>
      (z.hinge h.val).lines = (s.zone.hinge h.val).lines.filter (fun m => m != x) ∧
      ((z.hinge h.val).discs = if (s.zone.hinge h.val).discs.length < 16 then (s.zone.hinge h.val).discs ++ [⟨x.addr, 1, x.inbound, false, x.src⟩] else (s.zone.hinge h.val).discs) ∧
      (16 ≤ (s.zone.hinge h.val).discs.length → z.flag (pHINGE h.val) HINGE.HSTATUS_DISC_OVF = true ∧ z.fld (pHINGE h.val) HINGE.LOG_COUNTS_DISC_LOST = satU HINGE.LOG_COUNTS_DISC_LOST.w (s.zone.fld (pHINGE h.val) HINGE.LOG_COUNTS_DISC_LOST + 1)) ∧
      z.fld (pHINGE h.val) HINGE.DISCARDS_COUNT = satU 32 (s.zone.fld (pHINGE h.val) HINGE.DISCARDS_COUNT + 1) ∧
      s.zone.BankFrame [12] [.hinges] z) ∧
  (∀ (s : State) (h : Fin 2) (inbound : Bool) (line : BitVec 64) (x : HeldLine), s.zone.logicRuns = true →
    (s.zone.hinge h.val).lines.filter (fun l => l.inbound == inbound && l.addr == line.toNat && decide (l.at_ + s.zone.fld (pHINGE h.val) HINGE.PF_CFG_LIFE * 250 ≤ s.zone.mono)) = [x] →
    x.answered = true → Completes (.prefetchAged h inbound line) s fun z =>
      z.hinge h.val = { s.zone.hinge h.val with lines := (s.zone.hinge h.val).lines.filter (fun m => m != x) } ∧
      s.zone.BankFrame [12] [.hinges] z) ∧
  (∀ (s : State) (h : Fin 2) (inbound : Bool) (line : BitVec 64),
    (s.zone.logicRuns = false ∨ (s.zone.hinge h.val).lines.filter (fun l => l.inbound == inbound && l.addr == line.toNat && decide (l.at_ + s.zone.fld (pHINGE h.val) HINGE.PF_CFG_LIFE * 250 ≤ s.zone.mono)) = []) →
    Completes (.prefetchAged h inbound line) s fun z =>
      s.zone.Frame [] [] z) ∧
  (∀ (s : State) (src : Source) (a d n : Nat), s.zone.start.released = true →
    s.zone.Grants src (pHINGE 1 + HINGE.COPY_CTRL_START.off) 4 true 1 →
    a = s.zone.pairAddr (pHINGE 1) HINGE.COPY_SRC_LO_ADDR HINGE.COPY_SRC_HI_ADDR →
    d = s.zone.pairAddr (pHINGE 1) HINGE.COPY_DST_LO_ADDR HINGE.COPY_DST_HI_ADDR →
    n = s.zone.fld (pHINGE 1) HINGE.COPY_LEN_BYTES → a % 4 = 0 ∧ d % 4 = 0 ∧ n % 4 = 0 ∧ 4 ≤ n ∧ n ≤ 1048576 →
    s.zone.fld (pHINGE 1) HINGE.COPY_STATUS_STATE ≠ 1 → Completes (.copyStart src) s fun z =>
      z.fld (pHINGE 1) HINGE.COPY_STATUS_STATE = 1 ∧ z.fld (pHINGE 1) HINGE.COPY_STATUS_CODE = 0 ∧
      z.flag (pHINGE 1) HINGE.COPY_STATUS_WORLD = decide (src.world = .secure) ∧
      z.fld (pHINGE 1) HINGE.COPY_STATUS_MOORING = src.mooring.toNat ∧
      z.held 13 = (s.zone.held 13 || decide (src.world = .secure)) ∧ z.resp = ⟨Err.none, 0⟩ ∧
      s.zone.Frame [pHINGE 1 + HINGE.COPY_STATUS_STATE.off, pZONE 5 + ZONE5.HOLD_HOLD.off] [.resp] z) ∧
  (∀ (s : State) (src : Source) (a d n : Nat), s.zone.start.released = true →
    s.zone.Grants src (pHINGE 1 + HINGE.COPY_CTRL_START.off) 4 true 1 →
    a = s.zone.pairAddr (pHINGE 1) HINGE.COPY_SRC_LO_ADDR HINGE.COPY_SRC_HI_ADDR →
    d = s.zone.pairAddr (pHINGE 1) HINGE.COPY_DST_LO_ADDR HINGE.COPY_DST_HI_ADDR →
    n = s.zone.fld (pHINGE 1) HINGE.COPY_LEN_BYTES → ¬ (a % 4 = 0 ∧ d % 4 = 0 ∧ n % 4 = 0 ∧ 4 ≤ n ∧ n ≤ 1048576) →
    s.zone.fld (pHINGE 1) HINGE.COPY_STATUS_STATE ≠ 1 → s.zone.rd (pHINGE 1 + HINGE.COPY_ROUTE_ROUTE.off) = 0 →
    Completes (.copyStart src) s fun z =>
      z.fld (pHINGE 1) HINGE.COPY_STATUS_STATE = 3 ∧ z.fld (pHINGE 1) HINGE.COPY_STATUS_CODE = Err.align ∧
      z.flag (pHINGE 1) HINGE.COPY_STATUS_WORLD = decide (src.world = .secure) ∧
      z.fld (pHINGE 1) HINGE.COPY_STATUS_MOORING = src.mooring.toNat ∧ z.resp = ⟨Err.none, 0⟩ ∧
      s.zone.Frame [pHINGE 1 + HINGE.COPY_STATUS_STATE.off] [.resp] z) ∧
  (∀ (s : State) (src : Source), s.zone.start.released = true →
    s.zone.Grants src (pHINGE 1 + HINGE.COPY_CTRL_START.off) 4 true 1 → s.zone.fld (pHINGE 1) HINGE.COPY_STATUS_STATE = 1 →
    Completes (.copyStart src) s fun z =>
      z.fld (pHINGE 1) HINGE.COPY_REJECT_COUNT = satU 16 (s.zone.fld (pHINGE 1) HINGE.COPY_REJECT_COUNT + 1) ∧
      z.resp = ⟨Err.none, 0⟩ ∧ s.zone.Frame [pHINGE 1 + HINGE.COPY_REJECT_COUNT.off] [.resp] z) ∧
  (∀ (s : State) (src : Source), s.zone.start.released = true →
    s.zone.lineWritten 1 (0x1F0000000 + (pHINGE 1 + HINGE.COPY_CTRL_START.off)) 4 = s.zone →
    s.zone.permitted 12 src false true (0x1F0000000 + (pHINGE 1 + HINGE.COPY_CTRL_START.off)) 4 = false →
    Completes (.copyStart src) s fun z =>
      z.resp = ⟨Err.region, 0⟩ ∧
      z.fld (pREGN 12) REGN.VIOL_COUNT_COUNT = satU REGN.VIOL_COUNT_COUNT.w (s.zone.fld (pREGN 12) REGN.VIOL_COUNT_COUNT + 1) ∧
      s.zone.BankFrame [14] [.resp] z) ∧
  (∀ (s : State) (src : Source), s.zone.start.released = false → Completes (.copyStart src) s fun z =>
      s.zone.Frame [] [] z) ∧
  (∀ (s : State) (src : Source) (a d n : Nat), s.zone.logicRuns = true →
    a = s.zone.pairAddr (pHINGE 1) HINGE.COPY_SRC_LO_ADDR HINGE.COPY_SRC_HI_ADDR →
    d = s.zone.pairAddr (pHINGE 1) HINGE.COPY_DST_LO_ADDR HINGE.COPY_DST_HI_ADDR →
    n = s.zone.fld (pHINGE 1) HINGE.COPY_LEN_BYTES → s.zone.fld (pHINGE 1) HINGE.COPY_STATUS_STATE = 1 →
    s.zone.gateState 13 = 0 →
    src = ⟨if s.zone.flag (pHINGE 1) HINGE.COPY_STATUS_WORLD then .secure else .normal, BitVec.ofNat 12 (s.zone.fld (pHINGE 1) HINGE.COPY_STATUS_MOORING)⟩ →
    s.zone.flag pTU TU.TU_CTRL_EN = false → 0x1000000000 ≤ a ∧ 0x1000000000 ≤ d ∧ a + n ≤ 0x1400000000 ∧ d + n ≤ 0x1400000000 →
    0 < n ∧ n ≤ 4096 ∧ a % 4096 + n ≤ 4096 ∧ d % 4096 + n ≤ 4096 → s.zone.permitted 1 src true false a n = true →
    s.zone.permitted 1 src false true d n = true → (s.zone.hinge 1).lines = [] →
    (∀ m : Fin 4, (s.zone.core m.val).reserved = none) → Completes (.copyEnd) s fun z =>
      z.fld (pHINGE 1) HINGE.COPY_STATUS_STATE = 2 ∧ z.fld (pHINGE 1) HINGE.COPY_STATUS_CODE = 0 ∧
      z.memRead d n = s.zone.memRead a n ∧ (∀ k : Nat, k < d ∨ d + n ≤ k → z.memByte k = s.zone.memByte k) ∧
      s.zone.SameOutside [12] z ∧ s.zone.SameParts [.imsic, .hinges] z) ∧
  (∀ (s : State) (src : Source) (a d n : Nat), s.zone.logicRuns = true →
    a = s.zone.pairAddr (pHINGE 1) HINGE.COPY_SRC_LO_ADDR HINGE.COPY_SRC_HI_ADDR →
    d = s.zone.pairAddr (pHINGE 1) HINGE.COPY_DST_LO_ADDR HINGE.COPY_DST_HI_ADDR →
    n = s.zone.fld (pHINGE 1) HINGE.COPY_LEN_BYTES → s.zone.fld (pHINGE 1) HINGE.COPY_STATUS_STATE = 1 →
    s.zone.gateState 13 = 0 →
    src = ⟨if s.zone.flag (pHINGE 1) HINGE.COPY_STATUS_WORLD then .secure else .normal, BitVec.ofNat 12 (s.zone.fld (pHINGE 1) HINGE.COPY_STATUS_MOORING)⟩ →
    s.zone.flag pTU TU.TU_CTRL_EN = false → 0x1000000000 ≤ a ∧ 0x1000000000 ≤ d ∧ a + n ≤ 0x1400000000 ∧ d + n ≤ 0x1400000000 →
    0 < n ∧ n ≤ 4096 ∧ a % 4096 + n ≤ 4096 ∧ d % 4096 + n ≤ 4096 → s.zone.permitted 1 src true false a n = false →
    s.zone.rd (pHINGE 1 + HINGE.COPY_ROUTE_ROUTE.off) = 0 → Completes (.copyEnd) s fun z =>
      z.fld (pHINGE 1) HINGE.COPY_STATUS_STATE = 3 ∧ z.fld (pHINGE 1) HINGE.COPY_STATUS_CODE = Err.region ∧
      z.fld (pREGN 1) REGN.VIOL_COUNT_COUNT = satU REGN.VIOL_COUNT_COUNT.w (s.zone.fld (pREGN 1) REGN.VIOL_COUNT_COUNT + 1) ∧
      s.zone.BankFrame [12, 14] [] z) ∧
  (∀ (s : State), (s.zone.logicRuns = false ∨ s.zone.fld (pHINGE 1) HINGE.COPY_STATUS_STATE ≠ 1 ∨ s.zone.gateState 13 ≠ 0) →
    Completes (.copyEnd) s fun z =>
      s.zone.Frame [] [] z)

/-! ### Logbook -/

/-- R566, R567, R568, R569, R570, R571, R573, R575, R576, R577, R580, R582: a frame or a mirror copy that port 31 holds complete,
a post and a module record join their stream with its next SEQ, a START record before the first, a GAP record after losses; a
misrouted frame, a refused and a rejected post count; a frame without room waits, a module record without room or stream is lost.
A hashed record extends the chain of its segment, which a TIME or SIZE cause closes before it; a segment closes 1 s after it
opened. The writer places the oldest sealed segment, issues its commands and stops where none fits; a completion with success
stores the segment after its last command, one with an error stops the writer; resume writes it again; a freeze release lets the
writer go on. What is not due, not permitted or names nothing changes nothing. -/
def Obligations.RecordsAreTakenHashedSealedAndStored : Prop :=
  (∀ (s : State) (n : Fin 64) (x : EgressSt), s.zone.logicRuns = true → s.zone.intakeRuns = true → s.zone.egress 31 = some x →
    x.complete = true →
    n.val = (if x.copy.mirror then (s.zone.rd (pLOG + LOG0.MIRROR_STREAM_S0.off)).toNat / 256 ^ (x.copy.queue % 4) % 64 else x.copy.queue % 64) →
    s.zone.streamSource n.val = 1 → (s.zone.stream n.val).started = true → s.zone.nextSeq n.val + 1 < 2 ^ 64 →
    s.zone.stageRoom (s.zone.recordNeed n.val (s.zone.wireOf 31 x.copy).length) false = true →
    Completes (.logFrameIntake) s fun z =>
      (z.stream n.val).items = (s.zone.stream n.val).items ++ [.entry (⟨if x.copy.mirror then 2 else 1, n.val, s.zone.nextSeq n.val, x.copy.arrived, s.zone.domainWord, s.zone.nodeWord, BitVec.ofNat 32 (x.ingress * 65536), s.zone.wireOf 31 x.copy⟩ : LogRec)] ∧
      z.nextSeq n.val = s.zone.nextSeq n.val + 1 ∧ z.egress 31 = none ∧ z.flag pLOG LOG0.LOG_STATUS_STAGE_FULL = false ∧
      (∀ m : Fin 64, m ≠ n → z.stream m.val = s.zone.stream m.val ∧ z.nextSeq m.val = s.zone.nextSeq m.val) ∧
      s.zone.BankFrame [4, 5, 10] [.switch, .log] z) ∧
  (∀ (s : State) (n : Fin 64) (x : EgressSt), s.zone.logicRuns = true → s.zone.intakeRuns = true → s.zone.egress 31 = some x →
    x.complete = true →
    n.val = (if x.copy.mirror then (s.zone.rd (pLOG + LOG0.MIRROR_STREAM_S0.off)).toNat / 256 ^ (x.copy.queue % 4) % 64 else x.copy.queue % 64) →
    s.zone.streamSource n.val = 1 → (s.zone.stream n.val).started = false → s.zone.nextSeq n.val + 2 < 2 ^ 64 →
    s.zone.stageRoom (s.zone.recordNeed n.val (s.zone.wireOf 31 x.copy).length) false = true →
    Completes (.logFrameIntake) s fun z =>
      (z.stream n.val).items.length = (s.zone.stream n.val).items.length + 2 ∧
      (z.stream n.val).items.take (s.zone.stream n.val).items.length = (s.zone.stream n.val).items ∧
      (z.stream n.val).items.getLast? = some (.entry { (⟨if x.copy.mirror then 2 else 1, n.val, s.zone.nextSeq n.val, x.copy.arrived, s.zone.domainWord, s.zone.nodeWord, BitVec.ofNat 32 (x.ingress * 65536), s.zone.wireOf 31 x.copy⟩ : LogRec) with seq := s.zone.nextSeq n.val + 1 }) ∧
      ((z.stream n.val).items.drop (s.zone.stream n.val).items.length).head?.any (fun i => match i with | .entry r => r.kind == 0x0040 && r.seq == s.zone.nextSeq n.val && r.payload.length == 144 && r.source == 0 | .close _ => false) = true ∧
      (z.stream n.val).started = true ∧ z.nextSeq n.val = s.zone.nextSeq n.val + 2 ∧ z.egress 31 = none ∧
      (∀ m : Fin 64, m ≠ n → z.stream m.val = s.zone.stream m.val ∧ z.nextSeq m.val = s.zone.nextSeq m.val) ∧
      s.zone.BankFrame [4, 5, 10] [.switch, .log] z) ∧
  (∀ (s : State) (n : Fin 64) (x : EgressSt), s.zone.logicRuns = true → s.zone.intakeRuns = true → s.zone.egress 31 = some x →
    x.complete = true →
    n.val = (if x.copy.mirror then (s.zone.rd (pLOG + LOG0.MIRROR_STREAM_S0.off)).toNat / 256 ^ (x.copy.queue % 4) % 64 else x.copy.queue % 64) →
    s.zone.streamSource n.val ≠ 1 → Completes (.logFrameIntake) s fun z =>
      z.egress 31 = none ∧ z.fld pLOG LOG0.LOG_COUNTS_MISROUTED = satU 16 (s.zone.fld pLOG LOG0.LOG_COUNTS_MISROUTED + 1) ∧
      s.zone.BankFrame [4, 5, 10] [.switch] z) ∧
  (∀ (s : State) (n : Fin 64) (x : EgressSt), s.zone.logicRuns = true → s.zone.intakeRuns = true → s.zone.egress 31 = some x →
    x.complete = true →
    n.val = (if x.copy.mirror then (s.zone.rd (pLOG + LOG0.MIRROR_STREAM_S0.off)).toNat / 256 ^ (x.copy.queue % 4) % 64 else x.copy.queue % 64) →
    s.zone.streamSource n.val = 1 → s.zone.stageRoom (s.zone.recordNeed n.val (s.zone.wireOf 31 x.copy).length) false = false →
    Completes (.logFrameIntake) s fun z =>
      z.flag pLOG LOG0.LOG_STATUS_STAGE_FULL = true ∧ z.flag pLOG LOG0.LOG_EVENT_STAGE_FULL = true ∧
      s.zone.Frame [pLOG + LOG0.LOG_STATUS_STAGE_FULL.off, pLOG + LOG0.LOG_EVENT_STAGE_FULL.off] [] z) ∧
  (∀ (s : State), (s.zone.logicRuns = false ∨ s.zone.intakeRuns = false ∨ (s.zone.egress 31).all (fun x => !x.complete) = true) →
    Completes (.logFrameIntake) s fun z =>
      s.zone.Frame [] [] z) ∧
  (∀ (s : State) (n : Fin 64) (src : Source) (len : BitVec 12), s.zone.start.released = true → s.zone.mayPost n.val src = true →
    s.zone.flag (pSTREAM n.val) STREAM.POST_STATUS_BUSY = false → Completes (.postCommit n src len) s fun z =>
      z.stream n.val = { (s.zone.stream n.val) with post := some ⟨s.zone.stamp, src, len.toNat, s.zone.pageBytes (pSTREAM n.val) 0x800 (min len.toNat 2048)⟩ } ∧
      z.flag (pSTREAM n.val) STREAM.POST_STATUS_BUSY = true ∧ (∀ m : Fin 64, m ≠ n → z.stream m.val = s.zone.stream m.val) ∧
      s.zone.Frame [pSTREAM n.val + STREAM.POST_STATUS_BUSY.off] [.log] z) ∧
  (∀ (s : State) (n : Fin 64) (src : Source) (len : BitVec 12), s.zone.start.released = true →
    (s.zone.mayPost n.val src = false ∨ s.zone.flag (pSTREAM n.val) STREAM.POST_STATUS_BUSY = true) →
    Completes (.postCommit n src len) s fun z =>
      z.fld (pSTREAM n.val) STREAM.STREAM_COUNTS_REJECTED = satU 16 (s.zone.fld (pSTREAM n.val) STREAM.STREAM_COUNTS_REJECTED + 1) ∧
      s.zone.Frame [pSTREAM n.val + STREAM.STREAM_COUNTS_REJECTED.off] [] z) ∧
  (∀ (s : State) (n : Fin 64) (src : Source) (len : BitVec 12), s.zone.start.released = false →
    Completes (.postCommit n src len) s fun z =>
      s.zone.Frame [] [] z) ∧
  (∀ (s : State) (n : Fin 64) (x : Post), s.zone.logicRuns = true → (s.zone.stream n.val).post = some x →
    (s.zone.stream n.val).started = true → s.zone.postResult n.val x = 0 → s.zone.nextSeq n.val + 1 < 2 ^ 64 →
    Completes (.postTaken n) s fun z =>
      z.stream n.val = { (s.zone.stream n.val) with post := none, items := (s.zone.stream n.val).items ++ [.entry ⟨0x0010, n.val, s.zone.nextSeq n.val, x.time, s.zone.domainWord, s.zone.nodeWord, BitVec.ofNat 32 (Zone.srcBits x.src), x.payload⟩] } ∧
      z.nextSeq n.val = s.zone.nextSeq n.val + 1 ∧ z.flag (pSTREAM n.val) STREAM.POST_STATUS_BUSY = false ∧
      z.fld (pSTREAM n.val) STREAM.POST_STATUS_RESULT = 0 ∧
      (∀ m : Fin 64, m ≠ n → z.stream m.val = s.zone.stream m.val ∧ z.nextSeq m.val = s.zone.nextSeq m.val) ∧
      s.zone.BankFrame [10] [.log] z) ∧
  (∀ (s : State) (n : Fin 64) (x : Post), s.zone.logicRuns = true → (s.zone.stream n.val).post = some x →
    (s.zone.stream n.val).started = false → s.zone.postResult n.val x = 0 → s.zone.nextSeq n.val + 2 < 2 ^ 64 →
    Completes (.postTaken n) s fun z =>
      (z.stream n.val).items.length = (s.zone.stream n.val).items.length + 2 ∧
      (z.stream n.val).items.getLast? = some (.entry ⟨0x0010, n.val, s.zone.nextSeq n.val + 1, x.time, s.zone.domainWord, s.zone.nodeWord, BitVec.ofNat 32 (Zone.srcBits x.src), x.payload⟩) ∧
      (z.stream n.val).started = true ∧ (z.stream n.val).post = none ∧ z.nextSeq n.val = s.zone.nextSeq n.val + 2 ∧
      z.fld (pSTREAM n.val) STREAM.POST_STATUS_RESULT = 0 ∧
      (∀ m : Fin 64, m ≠ n → z.stream m.val = s.zone.stream m.val ∧ z.nextSeq m.val = s.zone.nextSeq m.val) ∧
      s.zone.BankFrame [10] [.log] z) ∧
  (∀ (s : State) (n : Fin 64) (x : Post), s.zone.logicRuns = true → (s.zone.stream n.val).post = some x →
    s.zone.postResult n.val x ≠ 0 → Completes (.postTaken n) s fun z =>
      z.fld (pSTREAM n.val) STREAM.POST_STATUS_RESULT = s.zone.postResult n.val x ∧
      z.flag (pSTREAM n.val) STREAM.POST_STATUS_BUSY = false ∧
      z.fld (pSTREAM n.val) STREAM.STREAM_COUNTS_REFUSED = satU 16 (s.zone.fld (pSTREAM n.val) STREAM.STREAM_COUNTS_REFUSED + 1) ∧
      (s.zone.postResult n.val x = 1 → z.flag pLOG LOG0.LOG_STATUS_STAGE_FULL = true ∧ z.flag pLOG LOG0.LOG_EVENT_STAGE_FULL = true) ∧
      (s.zone.postResult n.val x ≠ 1 → z.flag pLOG LOG0.LOG_STATUS_STAGE_FULL = s.zone.flag pLOG LOG0.LOG_STATUS_STAGE_FULL) ∧
      z.stream n.val = { (s.zone.stream n.val) with post := none } ∧
      (∀ m : Fin 64, m ≠ n → z.stream m.val = s.zone.stream m.val ∧ z.nextSeq m.val = s.zone.nextSeq m.val) ∧
      s.zone.BankFrame [10] [.log] z) ∧
  (∀ (s : State) (n : Fin 64), (s.zone.logicRuns = false ∨ (s.zone.stream n.val).post = none) →
    Completes (.postTaken n) s fun z =>
      s.zone.Frame [] [] z) ∧
  (∀ (s : State) (n : Fin 64) (r : ModRecord) (rest : List ModRecord), s.zone.logicRuns = true → s.zone.intakeRuns = true →
    s.zone.records = r :: rest → s.zone.moduleStream = some n.val → (s.zone.stream n.val).started = true → s.zone.log.lost = 0 →
    s.zone.stageRoom (s.zone.recordNeed n.val r.payload.length) true = true → s.zone.nextSeq n.val + 1 < 2 ^ 64 →
    Completes (.moduleRecord) s fun z =>
      z.records = rest ∧
      z.stream n.val = { (s.zone.stream n.val) with items := (s.zone.stream n.val).items ++ [.entry ⟨r.kind, n.val, s.zone.nextSeq n.val, r.time, s.zone.domainWord, s.zone.nodeWord, 0, r.payload⟩] } ∧
      z.nextSeq n.val = s.zone.nextSeq n.val + 1 ∧
      (∀ m : Fin 64, m ≠ n → z.stream m.val = s.zone.stream m.val ∧ z.nextSeq m.val = s.zone.nextSeq m.val) ∧
      s.zone.BankFrame [10] [.log, .records] z) ∧
  (∀ (s : State) (n : Fin 64) (r : ModRecord) (rest : List ModRecord), s.zone.logicRuns = true → s.zone.intakeRuns = true →
    s.zone.records = r :: rest → s.zone.moduleStream = some n.val → (s.zone.stream n.val).started = true → s.zone.log.lost ≠ 0 →
    s.zone.stageRoom (s.zone.recordNeed n.val r.payload.length + recordLen 8) true = true → s.zone.nextSeq n.val + 2 < 2 ^ 64 →
    Completes (.moduleRecord) s fun z =>
      z.records = rest ∧
      z.stream n.val = { (s.zone.stream n.val) with items := (s.zone.stream n.val).items ++ [.entry ⟨0x0060, n.val, s.zone.nextSeq n.val, s.zone.stamp, s.zone.domainWord, s.zone.nodeWord, 0, leBytes 8 s.zone.log.lost⟩, .entry ⟨r.kind, n.val, s.zone.nextSeq n.val + 1, r.time, s.zone.domainWord, s.zone.nodeWord, 0, r.payload⟩] } ∧
      z.nextSeq n.val = s.zone.nextSeq n.val + 2 ∧ z.log.lost = 0 ∧
      (∀ m : Fin 64, m ≠ n → z.stream m.val = s.zone.stream m.val ∧ z.nextSeq m.val = s.zone.nextSeq m.val) ∧
      s.zone.BankFrame [10] [.log, .records] z) ∧
  (∀ (s : State) (r : ModRecord) (rest : List ModRecord), s.zone.logicRuns = true → s.zone.intakeRuns = true →
    s.zone.records = r :: rest →
    s.zone.moduleStream.all (fun n => !s.zone.stageRoom (s.zone.recordNeed n r.payload.length + (if s.zone.log.lost = 0 then 0 else recordLen 8)) true) = true →
    Completes (.moduleRecord) s fun z =>
      z.records = rest ∧ z.log = { s.zone.log with lost := s.zone.log.lost + 1 } ∧
      z.fld pLOG LOG0.LOG_COUNTS_MODULE_LOST = satU LOG0.LOG_COUNTS_MODULE_LOST.w (s.zone.fld pLOG LOG0.LOG_COUNTS_MODULE_LOST + 1) ∧
      z.flag pLOG LOG0.LOG_EVENT_MODULE_LOST = true ∧
      (s.zone.moduleStream ≠ none → z.flag pLOG LOG0.LOG_STATUS_STAGE_FULL = true ∧ z.flag pLOG LOG0.LOG_EVENT_STAGE_FULL = true) ∧
      s.zone.BankFrame [10] [.log, .records] z) ∧
  (∀ (s : State), (s.zone.logicRuns = false ∨ s.zone.intakeRuns = false ∨ s.zone.records = []) →
    Completes (.moduleRecord) s fun z =>
      s.zone.Frame [] [] z) ∧
  (∀ (s : State) (n : Fin 64) (r : LogRec) (rest : List LogItem), s.zone.logicRuns = true → s.zone.hashRuns = true →
    (s.zone.stream n.val).items = .entry r :: rest →
    rest.head?.all (fun i => match i with | .entry _ => true | .close _ => false) = true → (s.zone.stream n.val).opened = none →
    Completes (.recordHash n) s fun z =>
      z.stream n.val = { (s.zone.stream n.val) with items := rest, opened := some ⟨n.val, s.zone.rd (pLOG + LOG0.START_COUNT_COUNT.off), s.zone.fld (pSTREAM n.val) STREAM.STREAM_STATUS_SEGMENT, s.zone.domainWord, s.zone.nodeWord, r.seq, r.time, (s.zone.stream n.val).lastSeal, sha 0 ((if s.zone.fld (pSTREAM n.val) STREAM.STREAM_STATUS_SEGMENT = 0 then List.replicate 32 0 else (s.zone.stream n.val).lastSeal) ++ r.bytes), [r]⟩ } ∧
      z.flag (pSTREAM n.val) STREAM.STREAM_STATUS_OPEN = true ∧ (∀ m : Fin 64, m ≠ n → z.stream m.val = s.zone.stream m.val) ∧
      s.zone.Frame [pSTREAM n.val + STREAM.STREAM_STATUS_OPEN.off] [.log] z) ∧
  (∀ (s : State) (n : Fin 64) (r : LogRec) (g : Segment) (rest : List LogItem), s.zone.logicRuns = true →
    s.zone.hashRuns = true → (s.zone.stream n.val).items = .entry r :: rest →
    rest.head?.all (fun i => match i with | .entry _ => true | .close _ => false) = true →
    (s.zone.stream n.val).opened = some g → r.time.nanos < g.openTime.nanos + 1000000000 →
    256 + g.bodyLen + recordLen r.payload.length ≤ 16777216 → Completes (.recordHash n) s fun z =>
      z.stream n.val = { (s.zone.stream n.val) with items := rest, opened := some { g with chain := sha 0 (g.chain ++ r.bytes), records := g.records ++ [r] } } ∧
      z.log.sealed = s.zone.log.sealed ∧ (∀ m : Fin 64, m ≠ n → z.stream m.val = s.zone.stream m.val) ∧
      s.zone.Frame [pSTREAM n.val + STREAM.STREAM_STATUS_OPEN.off] [.log] z) ∧
  (∀ (s : State) (n : Fin 64) (r : LogRec) (g : Segment) (rest : List LogItem) (cause : Nat), s.zone.logicRuns = true →
    s.zone.hashRuns = true → (s.zone.stream n.val).items = .entry r :: rest →
    rest.head?.all (fun i => match i with | .entry _ => true | .close _ => false) = true →
    (s.zone.stream n.val).opened = some g →
    (g.openTime.nanos + 1000000000 ≤ r.time.nanos ∨ 16777216 < 256 + g.bodyLen + recordLen r.payload.length) →
    cause = (if g.openTime.nanos + 1000000000 ≤ r.time.nanos then 1 else 2) → g.number + 1 < 2 ^ 24 →
    Completes (.recordHash n) s fun z =>
      z.log.sealed = s.zone.log.sealed ++ [⟨g, cause, s.zone.stamp, ecdsaSign 4 (s.zone.keyring.evidence.getD []) (g.digest cause s.zone.stamp), none, 0, false⟩] ∧
      (z.stream n.val).lastSeal = g.digest cause s.zone.stamp ∧ (z.stream n.val).items = rest ∧
      (z.stream n.val).opened.map (fun o => (o.number, o.firstSeq, o.openTime, o.prevSeal, o.records)) = some (g.number + 1, r.seq, r.time, g.digest cause s.zone.stamp, [r]) ∧
      z.flag (pSTREAM n.val) STREAM.STREAM_STATUS_OPEN = true ∧ z.fld (pSTREAM n.val) STREAM.STREAM_STATUS_SEGMENT = g.number + 1 ∧
      (∀ m : Fin 64, m ≠ n → z.stream m.val = s.zone.stream m.val) ∧
      s.zone.Frame [pSTREAM n.val + STREAM.STREAM_STATUS_OPEN.off] [.log] z) ∧
  (∀ (s : State) (n : Fin 64), (s.zone.logicRuns = false ∨ s.zone.hashRuns = false ∨ (s.zone.stream n.val).items = []) →
    Completes (.recordHash n) s fun z =>
      s.zone.Frame [] [] z) ∧
  (∀ (s : State) (n : Fin 64) (g : Segment), s.zone.logicRuns = true → s.zone.hashRuns = true →
    (s.zone.stream n.val).items = [] → (s.zone.stream n.val).opened = some g → g.openTime.nanos + 1000000000 ≤ s.zone.nowNs →
    g.number + 1 < 2 ^ 24 → Completes (.segmentTimeClose n) s fun z =>
      z.stream n.val = { (s.zone.stream n.val) with opened := none, lastSeal := g.digest 1 s.zone.stamp } ∧
      z.log.sealed = s.zone.log.sealed ++ [⟨g, 1, s.zone.stamp, ecdsaSign 4 (s.zone.keyring.evidence.getD []) (g.digest 1 s.zone.stamp), none, 0, false⟩] ∧
      z.flag (pSTREAM n.val) STREAM.STREAM_STATUS_OPEN = false ∧
      z.fld (pSTREAM n.val) STREAM.STREAM_STATUS_SEGMENT = g.number + 1 ∧
      (∀ m : Fin 64, m ≠ n → z.stream m.val = s.zone.stream m.val) ∧
      s.zone.Frame [pSTREAM n.val + STREAM.STREAM_STATUS_OPEN.off] [.log] z) ∧
  (∀ (s : State) (n : Fin 64),
    (s.zone.logicRuns = false ∨ s.zone.hashRuns = false ∨ (s.zone.stream n.val).items ≠ [] ∨ (s.zone.stream n.val).opened.all (fun g => decide (s.zone.nowNs < g.openTime.nanos + 1000000000)) = true) →
    Completes (.segmentTimeClose n) s fun z =>
      s.zone.Frame [] [] z) ∧
  (∀ (s : State), s.zone.logicRuns = true → Completes (.nvmeSubmit) s fun z =>
      z = s.zone.forEach (List.range 128) fun s _ => s.storeStep) ∧
  (∀ (s : State), s.zone.logicRuns = false → Completes (.nvmeSubmit) s fun z =>
      s.zone.Frame [] [] z) ∧
  (∀ (s : State) (x : Sealed) (k a : Nat), s.zone.writerRuns = true →
    s.zone.log.sealed.findIdx? (fun x => decide (x.issued < x.blocks)) = some k → s.zone.log.sealed[k]? = some x →
    x.place = none → s.zone.findPlace x.blocks = some a → Gives (s.zone.storeStep) fun z =>
      z.log = { s.zone.log with sealed := s.zone.log.sealed.set k { x with place := some a }, stored := s.zone.log.stored.filter (fun y => !decide (y.block < a + x.blocks ∧ a < y.block + y.blocks)) } ∧
      z.rd (pLOG + LOG0.WRITE_PTR_BLOCK.off) = BitVec.ofNat 32 (a + x.blocks) ∧
      s.zone.Frame [pLOG + LOG0.WRITE_PTR_BLOCK.off] [.log] z) ∧
  (∀ (s : State) (x : Sealed) (k : Nat), s.zone.writerRuns = true →
    s.zone.log.sealed.findIdx? (fun x => decide (x.issued < x.blocks)) = some k → s.zone.log.sealed[k]? = some x →
    x.place = none → s.zone.findPlace x.blocks = none → Gives (s.zone.storeStep) fun z =>
      z.flag pLOG LOG0.LOG_STATUS_STORE_FULL = true ∧ z.flag pLOG LOG0.LOG_EVENT_STORE_FULL = true ∧
      s.zone.Frame [pLOG + LOG0.LOG_STATUS_STORE_FULL.off, pLOG + LOG0.LOG_EVENT_STORE_FULL.off] [] z) ∧
  (∀ (s : State) (x : Sealed) (k a : Nat), s.zone.writerRuns = true →
    s.zone.log.sealed.findIdx? (fun x => decide (x.issued < x.blocks)) = some k → s.zone.log.sealed[k]? = some x →
    x.place = some a → s.zone.log.cmds.length < min 64 (s.zone.fld pLOG LOG0.NVME_QCFG_QSIZE) →
    (∀ c ∈ s.zone.log.cmds, c.id ≠ s.zone.log.sqTail) → s.zone.h0Up = true → Gives (s.zone.storeStep) fun z =>
      z.log = { s.zone.log with sealed := s.zone.log.sealed.set k { x with issued := x.issued + min 64 (x.blocks - x.issued) }, cmds := s.zone.log.cmds ++ [⟨s.zone.log.sqTail, x.seg.stream, x.seg.number⟩], sqTail := (s.zone.log.sqTail + 1) % (s.zone.fld pLOG LOG0.NVME_QCFG_QSIZE + 1) }) ∧
  (∀ (s : State), (s.zone.writerRuns = false ∨ ∀ x ∈ s.zone.log.sealed, x.blocks ≤ x.issued) → Gives (s.zone.storeStep) fun z =>
      s.zone.Frame [] [] z) ∧
  (∀ (s : State) (x : Sealed) (k a : Nat), s.zone.writerRuns = true →
    s.zone.log.sealed.findIdx? (fun x => decide (x.issued < x.blocks)) = some k → s.zone.log.sealed[k]? = some x →
    x.place = some a → min 64 (s.zone.fld pLOG LOG0.NVME_QCFG_QSIZE) ≤ s.zone.log.cmds.length → Gives (s.zone.storeStep) fun z =>
      s.zone.Frame [] [] z) ∧
  (∀ (s : State) (x : Sealed) (id : BitVec 16) (d : NvmeCmd), s.zone.logicRuns = true →
    s.zone.log.cmds.find? (fun d => d.id == id.toNat) = some d →
    (s.zone.h0Up = true ∨ s.zone.flag pLOG LOG0.LOG_CTRL_EN = false) → s.zone.log.sealed.find? (Zone.isOf d) = some x →
    x.issued = x.blocks ∧ x.failed = false → (∀ e ∈ s.zone.log.cmds, e.id ≠ id.toNat → Zone.isOf e x = false) →
    Completes (.nvmeCompletion id 0) s fun z =>
      z.log = { s.zone.log with sealed := s.zone.log.sealed.filter (fun y => !Zone.isOf d y), cmds := s.zone.log.cmds.filter (fun e => e.id != id.toNat), cqHead := (s.zone.log.cqHead + 1) % (s.zone.fld pLOG LOG0.NVME_QCFG_QSIZE + 1), stored := s.zone.log.stored ++ [⟨x.place.getD 0, x.blocks, x.closeTime.nanos % 2 ^ 64⟩] } ∧
      z.fld pLOG LOG0.STORE_COUNTS_SEGMENTS = satU 32 (s.zone.fld pLOG LOG0.STORE_COUNTS_SEGMENTS + 1) ∧
      z.flag pLOG LOG0.LOG_STATUS_STORE_ERROR = s.zone.flag pLOG LOG0.LOG_STATUS_STORE_ERROR) ∧
  (∀ (s : State) (x : Sealed) (id : BitVec 16) (d : NvmeCmd), s.zone.logicRuns = true →
    s.zone.log.cmds.find? (fun d => d.id == id.toNat) = some d →
    (s.zone.h0Up = true ∨ s.zone.flag pLOG LOG0.LOG_CTRL_EN = false) → s.zone.log.sealed.find? (Zone.isOf d) = some x →
    (x.issued < x.blocks ∨ x.failed = true ∨ ∃ e ∈ s.zone.log.cmds, e.id ≠ id.toNat ∧ Zone.isOf e x = true) →
    Completes (.nvmeCompletion id 0) s fun z =>
      (x.issued ≤ x.blocks → z.log = { s.zone.log with cmds := s.zone.log.cmds.filter (fun e => e.id != id.toNat), cqHead := (s.zone.log.cqHead + 1) % (s.zone.fld pLOG LOG0.NVME_QCFG_QSIZE + 1) }) ∧
      (x.issued ≤ x.blocks → z.fld pLOG LOG0.STORE_COUNTS_SEGMENTS = s.zone.fld pLOG LOG0.STORE_COUNTS_SEGMENTS)) ∧
  (∀ (s : State) (id : BitVec 16) (status : BitVec 15) (d : NvmeCmd), s.zone.logicRuns = true →
    s.zone.log.cmds.find? (fun d => d.id == id.toNat) = some d →
    (s.zone.h0Up = true ∨ s.zone.flag pLOG LOG0.LOG_CTRL_EN = false) → status ≠ 0 →
    Completes (.nvmeCompletion id status) s fun z =>
      z.log = { s.zone.log with sealed := s.zone.log.sealed.map (fun x => if Zone.isOf d x then { x with failed := true } else x), cmds := s.zone.log.cmds.filter (fun e => e.id != id.toNat), cqHead := (s.zone.log.cqHead + 1) % (s.zone.fld pLOG LOG0.NVME_QCFG_QSIZE + 1) } ∧
      z.flag pLOG LOG0.LOG_STATUS_STORE_ERROR = true ∧ z.flag pLOG LOG0.LOG_EVENT_STORE_ERROR = true ∧
      z.fld pLOG LOG0.NVME_LAST_STATUS = status.toNat ∧ z.flag pLOG LOG0.NVME_LAST_LINK = false) ∧
  (∀ (s : State) (id : BitVec 16) (status : BitVec 15) (d : NvmeCmd), s.zone.logicRuns = true →
    s.zone.log.cmds.find? (fun d => d.id == id.toNat) = some d → s.zone.h0Up = false → s.zone.flag pLOG LOG0.LOG_CTRL_EN = true →
    Completes (.nvmeCompletion id status) s fun z =>
      z.log.cmds = [] ∧ z.flag pLOG LOG0.LOG_STATUS_STORE_ERROR = true ∧ z.flag pLOG LOG0.LOG_EVENT_STORE_ERROR = true ∧
      (status = 0 → z.flag pLOG LOG0.NVME_LAST_LINK = true)) ∧
  (∀ (s : State) (id : BitVec 16) (status : BitVec 15),
    (s.zone.logicRuns = false ∨ s.zone.log.cmds.find? (fun d => d.id == id.toNat) = none) →
    Completes (.nvmeCompletion id status) s fun z =>
      s.zone.Frame [] [] z) ∧
  (∀ (s : State) (writer : Writer), s.zone.writerActs writer = true → s.zone.mayConfigure writer = true →
    s.zone.flag pLOG LOG0.LOG_STATUS_STORE_ERROR = true → Completes (.storeResume writer) s fun z =>
      z.flag pLOG LOG0.LOG_STATUS_STORE_ERROR = false ∧
      z.log = { s.zone.log with sealed := s.zone.log.sealed.map (fun x => if x.failed then { x with failed := false, issued := 0 } else x) } ∧
      s.zone.Frame [pLOG + LOG0.LOG_STATUS_STORE_ERROR.off] [.log] z) ∧
  (∀ (s : State) (writer : Writer),
    (s.zone.writerActs writer = false ∨ s.zone.mayConfigure writer = false ∨ s.zone.flag pLOG LOG0.LOG_STATUS_STORE_ERROR = false) →
    Completes (.storeResume writer) s fun z =>
      s.zone.Frame [] [] z) ∧
  (∀ (s : State) (writer : Writer) (mask : BitVec 4), s.zone.writerActs writer = true → s.zone.mayConfigure writer = true →
    Completes (.freezeRelease writer mask) s fun z =>
      (∀ k : Fin 4, z.extentActive k.val = (s.zone.extentActive k.val && !mask.getLsbD k.val)) ∧
      (∀ k : Fin 4, mask.getLsbD k.val = false → z.extentFrom k.val = s.zone.extentFrom k.val ∧ z.extentTo k.val = s.zone.extentTo k.val) ∧
      ((∃ k : Fin 4, mask.getLsbD k.val = true ∧ s.zone.extentActive k.val = true) → z.flag pLOG LOG0.LOG_STATUS_STORE_FULL = false) ∧
      ((∀ k : Fin 4, mask.getLsbD k.val = true → s.zone.extentActive k.val = false) → z.flag pLOG LOG0.LOG_STATUS_STORE_FULL = s.zone.flag pLOG LOG0.LOG_STATUS_STORE_FULL) ∧
      s.zone.BankFrame [10] [] z) ∧
  (∀ (s : State) (writer : Writer) (mask : BitVec 4), (s.zone.writerActs writer = false ∨ s.zone.mayConfigure writer = false) →
    Completes (.freezeRelease writer mask) s fun z =>
      s.zone.Frame [] [] z)

/-! ### Keyring -/

/-- R527, R592, R593, R595, R597, R598, R599, R600, R601, R602, R603, R619: an OP write of each operation queues its job and shows
BUSY, or ends with QUEUE_FULL or GATED, or is ignored, or answers DECODE at window 0. The oldest job begins when its checks pass:
each operation's result is as R598 computes it (the random bytes of WRAP's IV and the digest of a HASH whose VARIANT changes
between parts are free values, log entry 2), the key loses a use unless unlimited, a persistent slot's count waits for the record
where the reserved ones are used up; it ends at once with the code of the check that fails. A completion writes AUX, DATA, OUT_LEN
and the slot, in TEST only LIFECYCLE; a dirty keyring is recorded and a waiting BIND_SUPERVISOR answered. What is not due changes
nothing. -/
def Obligations.KeyringJobsQueueRunAndEnd : Prop :=
  (∀ (s : State) (win : BitVec 8) (src : Source) (flags : BitVec 24) (p : Instr × Nat), s.zone.start.released = true →
    p ∈ ([(.gcmEncrypt win src flags, 0x01), (.gcmDecrypt win src flags, 0x02), (.macGen win src flags, 0x03), (.macVerify win src flags, 0x04), (.sign win src flags, 0x05), (.verify win src flags, 0x06), (.hash win src flags, 0x07), (.keyWrite win src flags, 0x10), (.derive win src flags, 0x11), (.keyClear win src flags, 0x12), (.wrap win src flags, 0x14), (.unwrap win src flags, 0x15), (.attest win src flags, 0x20)] : List (Instr × Nat)) →
    win ≠ 0 → s.zone.windowOpen win.toNat src = true → s.zone.flag (pWIN win.toNat) WIN.STATUS_BUSY = false →
    s.zone.engineRuns = true → s.zone.keyring.jobs.length < 32 → Completes (p.1) s fun z =>
      z.keyring = { s.zone.keyring with jobs := s.zone.keyring.jobs ++ [⟨win.toNat, src, opWord flags p.2⟩] } ∧
      z.flag (pWIN win.toNat) WIN.STATUS_BUSY = true ∧ z.fld pKEY KEY0.ENGINE_STATUS_QUEUED = s.zone.keyring.jobs.length + 1 ∧
      s.zone.Frame [pWIN win.toNat + WIN.STATUS_BUSY.off, pKEY + KEY0.ENGINE_STATUS_QUEUED.off] [.keyring] z) ∧
  (∀ (s : State) (win : BitVec 8) (src : Source) (flags : BitVec 24) (p : Instr × Nat), s.zone.start.released = true →
    p ∈ ([(.gcmEncrypt win src flags, 0x01), (.gcmDecrypt win src flags, 0x02), (.macGen win src flags, 0x03), (.macVerify win src flags, 0x04), (.sign win src flags, 0x05), (.verify win src flags, 0x06), (.hash win src flags, 0x07), (.keyWrite win src flags, 0x10), (.derive win src flags, 0x11), (.keyClear win src flags, 0x12), (.wrap win src flags, 0x14), (.unwrap win src flags, 0x15), (.attest win src flags, 0x20)] : List (Instr × Nat)) →
    win ≠ 0 → s.zone.windowOpen win.toNat src = true → s.zone.flag (pWIN win.toNat) WIN.STATUS_BUSY = false →
    s.zone.engineRuns = true → 32 ≤ s.zone.keyring.jobs.length → Completes (p.1) s fun z =>
      z.fld (pWIN win.toNat) WIN.STATUS_RESULT = KeyResult.queueFull ∧ z.flag (pWIN win.toNat) WIN.STATUS_BUSY = false ∧
      z.fld pKEY KEY0.JOB_COUNTS_FAILED = satU KEY0.JOB_COUNTS_FAILED.w (s.zone.fld pKEY KEY0.JOB_COUNTS_FAILED + 1) ∧
      s.zone.Frame [pWIN win.toNat + WIN.STATUS_BUSY.off, pKEY + KEY0.JOB_COUNTS_FAILED.off] [] z) ∧
  (∀ (s : State) (win : BitVec 8) (src : Source) (flags : BitVec 24) (p : Instr × Nat), s.zone.start.released = true →
    p ∈ ([(.gcmEncrypt win src flags, 0x01), (.gcmDecrypt win src flags, 0x02), (.macGen win src flags, 0x03), (.macVerify win src flags, 0x04), (.sign win src flags, 0x05), (.verify win src flags, 0x06), (.hash win src flags, 0x07), (.keyWrite win src flags, 0x10), (.derive win src flags, 0x11), (.keyClear win src flags, 0x12), (.wrap win src flags, 0x14), (.unwrap win src flags, 0x15), (.attest win src flags, 0x20)] : List (Instr × Nat)) →
    win ≠ 0 → s.zone.windowOpen win.toNat src = true → s.zone.flag (pWIN win.toNat) WIN.STATUS_BUSY = false →
    s.zone.engineRuns = false → Completes (p.1) s fun z =>
      z.fld (pWIN win.toNat) WIN.STATUS_RESULT = KeyResult.gated ∧ z.flag (pWIN win.toNat) WIN.STATUS_BUSY = false ∧
      z.fld pKEY KEY0.JOB_COUNTS_FAILED = satU KEY0.JOB_COUNTS_FAILED.w (s.zone.fld pKEY KEY0.JOB_COUNTS_FAILED + 1) ∧
      s.zone.Frame [pWIN win.toNat + WIN.STATUS_BUSY.off, pKEY + KEY0.JOB_COUNTS_FAILED.off] [] z) ∧
  (∀ (s : State) (win : BitVec 8) (src : Source) (flags : BitVec 24) (p : Instr × Nat), s.zone.start.released = true →
    p ∈ ([(.gcmEncrypt win src flags, 0x01), (.gcmDecrypt win src flags, 0x02), (.macGen win src flags, 0x03), (.macVerify win src flags, 0x04), (.sign win src flags, 0x05), (.verify win src flags, 0x06), (.hash win src flags, 0x07), (.keyWrite win src flags, 0x10), (.derive win src flags, 0x11), (.keyClear win src flags, 0x12), (.wrap win src flags, 0x14), (.unwrap win src flags, 0x15), (.attest win src flags, 0x20)] : List (Instr × Nat)) →
    win ≠ 0 → (s.zone.windowOpen win.toNat src = false ∨ s.zone.flag (pWIN win.toNat) WIN.STATUS_BUSY = true) →
    Completes (p.1) s fun z =>
      z.fld pKEY KEY0.ACCESS_COUNTS_IGNORED = satU KEY0.ACCESS_COUNTS_IGNORED.w (s.zone.fld pKEY KEY0.ACCESS_COUNTS_IGNORED + 1) ∧
      s.zone.Frame [pKEY + KEY0.ACCESS_COUNTS_IGNORED.off] [] z) ∧
  (∀ (s : State) (win : BitVec 8) (src : Source) (flags : BitVec 24) (p : Instr × Nat), s.zone.start.released = true →
    p ∈ ([(.gcmEncrypt win src flags, 0x01), (.gcmDecrypt win src flags, 0x02), (.macGen win src flags, 0x03), (.macVerify win src flags, 0x04), (.sign win src flags, 0x05), (.verify win src flags, 0x06), (.hash win src flags, 0x07), (.keyWrite win src flags, 0x10), (.derive win src flags, 0x11), (.keyClear win src flags, 0x12), (.wrap win src flags, 0x14), (.unwrap win src flags, 0x15), (.attest win src flags, 0x20)] : List (Instr × Nat)) →
    win = 0 → Completes (p.1) s fun z =>
      z.resp = ⟨Err.decode, 0⟩ ∧ s.zone.Frame [] [.resp] z) ∧
  (∀ (s : State) (win : BitVec 8) (src : Source) (flags : BitVec 24) (p : Instr × Nat), s.zone.start.released = false →
    p ∈ ([(.gcmEncrypt win src flags, 0x01), (.gcmDecrypt win src flags, 0x02), (.macGen win src flags, 0x03), (.macVerify win src flags, 0x04), (.sign win src flags, 0x05), (.verify win src flags, 0x06), (.hash win src flags, 0x07), (.keyWrite win src flags, 0x10), (.derive win src flags, 0x11), (.keyClear win src flags, 0x12), (.wrap win src flags, 0x14), (.unwrap win src flags, 0x15), (.attest win src flags, 0x20)] : List (Instr × Nat)) →
    Completes (p.1) s fun z =>
      s.zone.Frame [] [] z) ∧
  (∀ (s : State) (j : Job) (rest : List Job), s.zone.logicRuns = true → s.zone.keyring.run = none → s.zone.engineRuns = true →
    s.zone.keyring.jobs = j :: rest → s.zone.jobCheck j = 0 → j.code = 0x01 →
    (∀ m ∈ (s.zone.keyUsed j).toList, (s.zone.keySlot m).count = 0xFFFFFFFF) → Completes (.jobBegin) s fun z =>
      z.keyring.run = some ⟨j, 0, some (gcmEncrypt (s.zone.keySlot j.win).key (s.zone.keyIv j.win) ((s.zone.keyData j.win (s.zone.keyIn j.win)).take (s.zone.keyAad j.win)) ((s.zone.keyData j.win (s.zone.keyIn j.win)).drop (s.zone.keyAad j.win))).2, some (s.zone.keyAad j.win, (gcmEncrypt (s.zone.keySlot j.win).key (s.zone.keyIv j.win) ((s.zone.keyData j.win (s.zone.keyIn j.win)).take (s.zone.keyAad j.win)) ((s.zone.keyData j.win (s.zone.keyIn j.win)).drop (s.zone.keyAad j.win))).1), s.zone.keyIn j.win - s.zone.keyAad j.win, none, false⟩ ∧
      z.keyring.jobs = rest ∧ z.flag pKEY KEY0.ENGINE_STATUS_BUSY = true ∧ z.fld pKEY KEY0.ENGINE_STATUS_QUEUED = rest.length % 2 ^ KEY0.ENGINE_STATUS_QUEUED.w ∧
      (List.range 256).all (fun m => decide (z.keySlot m = s.zone.keySlot m)) = true ∧
      z.held 8 = (s.zone.held 8 || decide (j.src.world = .secure)) ∧
      z.keyring.record = s.zone.keyring.record ∧ z.keyring.bind = s.zone.keyring.bind ∧ z.keyring.evidence = s.zone.keyring.evidence ∧
      SMap.get (fun _ => none) z.keyring.hash j.win = none ∧ z.keyring.dirty = s.zone.keyring.dirty ∧
      s.zone.BankFrame [0, 11, 80] [.keyring] z) ∧
  (∀ (s : State) (j : Job) (rest : List Job), s.zone.logicRuns = true → s.zone.keyring.run = none → s.zone.engineRuns = true →
    s.zone.keyring.jobs = j :: rest → s.zone.jobCheck j = 0 → j.code = 0x02 →
    (∀ m ∈ (s.zone.keyUsed j).toList, (s.zone.keySlot m).count = 0xFFFFFFFF) → Completes (.jobBegin) s fun z =>
      z.keyring.run = some (if (gcmDecrypt (s.zone.keySlot j.win).key (s.zone.keyIv j.win) ((s.zone.keyData j.win (s.zone.keyIn j.win)).take (s.zone.keyAad j.win)) ((s.zone.keyData j.win (s.zone.keyIn j.win)).drop (s.zone.keyAad j.win))).2 = s.zone.keyAux j.win 16 then ⟨j, 0, none, some (s.zone.keyAad j.win, (gcmDecrypt (s.zone.keySlot j.win).key (s.zone.keyIv j.win) ((s.zone.keyData j.win (s.zone.keyIn j.win)).take (s.zone.keyAad j.win)) ((s.zone.keyData j.win (s.zone.keyIn j.win)).drop (s.zone.keyAad j.win))).1), s.zone.keyIn j.win - s.zone.keyAad j.win, none, false⟩ else ⟨j, KeyResult.auth, none, some (s.zone.keyAad j.win, List.replicate (s.zone.keyIn j.win - s.zone.keyAad j.win) 0), 0, none, false⟩) ∧
      z.keyring.jobs = rest ∧ z.flag pKEY KEY0.ENGINE_STATUS_BUSY = true ∧ z.fld pKEY KEY0.ENGINE_STATUS_QUEUED = rest.length % 2 ^ KEY0.ENGINE_STATUS_QUEUED.w ∧
      (List.range 256).all (fun m => decide (z.keySlot m = s.zone.keySlot m)) = true ∧
      z.held 8 = (s.zone.held 8 || decide (j.src.world = .secure)) ∧
      z.keyring.record = s.zone.keyring.record ∧ z.keyring.bind = s.zone.keyring.bind ∧ z.keyring.evidence = s.zone.keyring.evidence ∧
      SMap.get (fun _ => none) z.keyring.hash j.win = none ∧ z.keyring.dirty = s.zone.keyring.dirty ∧
      s.zone.BankFrame [0, 11, 80] [.keyring] z) ∧
  (∀ (s : State) (j : Job) (rest : List Job), s.zone.logicRuns = true → s.zone.keyring.run = none → s.zone.engineRuns = true →
    s.zone.keyring.jobs = j :: rest → s.zone.jobCheck j = 0 → j.code = 0x03 →
    (∀ m ∈ (s.zone.keyUsed j).toList, (s.zone.keySlot m).count = 0xFFFFFFFF) → Completes (.jobBegin) s fun z =>
      z.keyring.run = some ⟨j, 0, some (if (s.zone.keySlot j.win).type = 3 then hmac 0 (s.zone.keySlot j.win).key (s.zone.keyData j.win (s.zone.keyIn j.win)) else beBytes 16 (cmac (s.zone.keySlot j.win).key (s.zone.keyData j.win (s.zone.keyIn j.win))).toNat), none, 0, none, false⟩ ∧
      z.keyring.jobs = rest ∧ z.flag pKEY KEY0.ENGINE_STATUS_BUSY = true ∧ z.fld pKEY KEY0.ENGINE_STATUS_QUEUED = rest.length % 2 ^ KEY0.ENGINE_STATUS_QUEUED.w ∧
      (List.range 256).all (fun m => decide (z.keySlot m = s.zone.keySlot m)) = true ∧
      z.held 8 = (s.zone.held 8 || decide (j.src.world = .secure)) ∧
      z.keyring.record = s.zone.keyring.record ∧ z.keyring.bind = s.zone.keyring.bind ∧ z.keyring.evidence = s.zone.keyring.evidence ∧
      SMap.get (fun _ => none) z.keyring.hash j.win = none ∧ z.keyring.dirty = s.zone.keyring.dirty ∧
      s.zone.BankFrame [0, 11, 80] [.keyring] z) ∧
  (∀ (s : State) (j : Job) (rest : List Job), s.zone.logicRuns = true → s.zone.keyring.run = none → s.zone.engineRuns = true →
    s.zone.keyring.jobs = j :: rest → s.zone.jobCheck j = 0 → j.code = 0x04 →
    (∀ m ∈ (s.zone.keyUsed j).toList, (s.zone.keySlot m).count = 0xFFFFFFFF) → Completes (.jobBegin) s fun z =>
      z.keyring.run = some ⟨j, if (s.zone.keySlot j.win).mac (s.zone.keyData j.win (s.zone.keyIn j.win)) = s.zone.keyAux j.win (if (s.zone.keySlot j.win).type = 3 then 32 else 16) then 0 else KeyResult.auth, none, none, 0, none, false⟩ ∧
      z.keyring.jobs = rest ∧ z.flag pKEY KEY0.ENGINE_STATUS_BUSY = true ∧ z.fld pKEY KEY0.ENGINE_STATUS_QUEUED = rest.length % 2 ^ KEY0.ENGINE_STATUS_QUEUED.w ∧
      (List.range 256).all (fun m => decide (z.keySlot m = s.zone.keySlot m)) = true ∧
      z.held 8 = (s.zone.held 8 || decide (j.src.world = .secure)) ∧
      z.keyring.record = s.zone.keyring.record ∧ z.keyring.bind = s.zone.keyring.bind ∧ z.keyring.evidence = s.zone.keyring.evidence ∧
      SMap.get (fun _ => none) z.keyring.hash j.win = none ∧ z.keyring.dirty = s.zone.keyring.dirty ∧
      s.zone.BankFrame [0, 11, 80] [.keyring] z) ∧
  (∀ (s : State) (j : Job) (rest : List Job), s.zone.logicRuns = true → s.zone.keyring.run = none → s.zone.engineRuns = true →
    s.zone.keyring.jobs = j :: rest → s.zone.jobCheck j = 0 → j.code = 0x05 →
    (∀ m ∈ (s.zone.keyUsed j).toList, (s.zone.keySlot m).count = 0xFFFFFFFF) →
    ((s.zone.keySlot j.win).type = 4 ∨ (s.zone.keySlot j.win).type = 5) → Completes (.jobBegin) s fun z =>
      z.keyring.run = some ⟨j, 0, some (ecdsaSign (s.zone.keySlot j.win).type (s.zone.keySlot j.win).key (s.zone.keyAux j.win (if (s.zone.keySlot j.win).type = 5 then 48 else 32))), none, 0, none, false⟩ ∧
      z.keyring.jobs = rest ∧ z.flag pKEY KEY0.ENGINE_STATUS_BUSY = true ∧ z.fld pKEY KEY0.ENGINE_STATUS_QUEUED = rest.length % 2 ^ KEY0.ENGINE_STATUS_QUEUED.w ∧
      (List.range 256).all (fun m => decide (z.keySlot m = s.zone.keySlot m)) = true ∧
      z.held 8 = (s.zone.held 8 || decide (j.src.world = .secure)) ∧
      z.keyring.record = s.zone.keyring.record ∧ z.keyring.bind = s.zone.keyring.bind ∧ z.keyring.evidence = s.zone.keyring.evidence ∧
      SMap.get (fun _ => none) z.keyring.hash j.win = none ∧ z.keyring.dirty = s.zone.keyring.dirty ∧
      s.zone.BankFrame [0, 11, 80] [.keyring] z) ∧
  (∀ (s : State) (j : Job) (rest : List Job), s.zone.logicRuns = true → s.zone.keyring.run = none → s.zone.engineRuns = true →
    s.zone.keyring.jobs = j :: rest → s.zone.jobCheck j = 0 → j.code = 0x06 →
    (∀ m ∈ (s.zone.keyUsed j).toList, (s.zone.keySlot m).count = 0xFFFFFFFF) → Completes (.jobBegin) s fun z =>
      z.keyring.run = some ⟨j, if ecdsaVerify (if isP384 (s.zone.keySlot j.win).type then 7 else 6) (s.zone.keySlot j.win).pub (s.zone.keyData j.win (coordLen (s.zone.keySlot j.win).type)) (s.zone.keyAux j.win (2 * coordLen (s.zone.keySlot j.win).type)) then 0 else KeyResult.auth, none, none, 0, none, false⟩ ∧
      z.keyring.jobs = rest ∧ z.flag pKEY KEY0.ENGINE_STATUS_BUSY = true ∧ z.fld pKEY KEY0.ENGINE_STATUS_QUEUED = rest.length % 2 ^ KEY0.ENGINE_STATUS_QUEUED.w ∧
      (List.range 256).all (fun m => decide (z.keySlot m = s.zone.keySlot m)) = true ∧
      z.held 8 = (s.zone.held 8 || decide (j.src.world = .secure)) ∧
      z.keyring.record = s.zone.keyring.record ∧ z.keyring.bind = s.zone.keyring.bind ∧ z.keyring.evidence = s.zone.keyring.evidence ∧
      SMap.get (fun _ => none) z.keyring.hash j.win = none ∧ z.keyring.dirty = s.zone.keyring.dirty ∧
      s.zone.BankFrame [0, 11, 80] [.keyring] z) ∧
  (∀ (s : State) (j : Job) (rest : List Job), s.zone.logicRuns = true → s.zone.keyring.run = none → s.zone.engineRuns = true →
    s.zone.keyring.jobs = j :: rest → s.zone.jobCheck j = 0 → j.code = 0x07 → j.cont = true →
    (SMap.get (fun _ => none) s.zone.keyring.hash j.win).all (fun h => h.1 == j.variant) = true → Completes (.jobBegin) s fun z =>
      z.keyring.run = some ⟨j, 0, none, none, 0, none, false⟩ ∧
      SMap.get (fun _ => none) z.keyring.hash j.win = some (j.variant, match (SMap.get (fun _ => none) s.zone.keyring.hash j.win) with | some h => h.2 ++ (s.zone.keyData j.win (s.zone.keyIn j.win)) | none => (s.zone.keyData j.win (s.zone.keyIn j.win))) ∧
      z.keyring.jobs = rest ∧ z.flag pKEY KEY0.ENGINE_STATUS_BUSY = true ∧ z.fld pKEY KEY0.ENGINE_STATUS_QUEUED = rest.length % 2 ^ KEY0.ENGINE_STATUS_QUEUED.w ∧
      (List.range 256).all (fun m => decide (z.keySlot m = s.zone.keySlot m)) = true ∧
      z.held 8 = (s.zone.held 8 || decide (j.src.world = .secure)) ∧
      z.keyring.record = s.zone.keyring.record ∧ z.keyring.bind = s.zone.keyring.bind ∧ z.keyring.evidence = s.zone.keyring.evidence ∧
      z.keyring.dirty = s.zone.keyring.dirty ∧ s.zone.BankFrame [0, 11, 80] [.keyring] z) ∧
  (∀ (s : State) (j : Job) (rest : List Job), s.zone.logicRuns = true → s.zone.keyring.run = none → s.zone.engineRuns = true →
    s.zone.keyring.jobs = j :: rest → s.zone.jobCheck j = 0 → j.code = 0x07 → j.cont = false →
    (SMap.get (fun _ => none) s.zone.keyring.hash j.win).all (fun h => h.1 == j.variant) = true → Completes (.jobBegin) s fun z =>
      z.keyring.run = some ⟨j, 0, some (sha j.variant (match (SMap.get (fun _ => none) s.zone.keyring.hash j.win) with | some h => h.2 ++ (s.zone.keyData j.win (s.zone.keyIn j.win)) | none => (s.zone.keyData j.win (s.zone.keyIn j.win)))), none, 0, none, false⟩ ∧
      z.keyring.jobs = rest ∧ z.flag pKEY KEY0.ENGINE_STATUS_BUSY = true ∧ z.fld pKEY KEY0.ENGINE_STATUS_QUEUED = rest.length % 2 ^ KEY0.ENGINE_STATUS_QUEUED.w ∧
      (List.range 256).all (fun m => decide (z.keySlot m = s.zone.keySlot m)) = true ∧
      z.held 8 = (s.zone.held 8 || decide (j.src.world = .secure)) ∧
      z.keyring.record = s.zone.keyring.record ∧ z.keyring.bind = s.zone.keyring.bind ∧ z.keyring.evidence = s.zone.keyring.evidence ∧
      SMap.get (fun _ => none) z.keyring.hash j.win = none ∧ z.keyring.dirty = s.zone.keyring.dirty ∧
      s.zone.BankFrame [0, 11, 80] [.keyring] z) ∧
  (∀ (s : State) (j : Job) (rest : List Job) (h : Nat × List Byte), s.zone.logicRuns = true → s.zone.keyring.run = none →
    s.zone.engineRuns = true → s.zone.keyring.jobs = j :: rest → s.zone.jobCheck j = 0 → j.code = 0x07 → j.cont = false →
    (SMap.get (fun _ => none) s.zone.keyring.hash j.win) = some h → h.1 ≠ j.variant → Completes (.jobBegin) s fun z =>
      z.keyring.run.map (fun r => (r.job, r.code, r.aux.map List.length)) = some (j, 0, some (nthD [32, 48, 64] j.variant 32)) ∧
      z.keyring.run.map (fun r => (r.data, r.change, r.need)) = some (none, none, false) ∧
      z.keyring.jobs = rest ∧ z.flag pKEY KEY0.ENGINE_STATUS_BUSY = true ∧ z.fld pKEY KEY0.ENGINE_STATUS_QUEUED = rest.length % 2 ^ KEY0.ENGINE_STATUS_QUEUED.w ∧
      (List.range 256).all (fun m => decide (z.keySlot m = s.zone.keySlot m)) = true ∧
      z.held 8 = (s.zone.held 8 || decide (j.src.world = .secure)) ∧
      z.keyring.record = s.zone.keyring.record ∧ z.keyring.bind = s.zone.keyring.bind ∧ z.keyring.evidence = s.zone.keyring.evidence ∧
      SMap.get (fun _ => none) z.keyring.hash j.win = none ∧ z.keyring.dirty = s.zone.keyring.dirty ∧
      s.zone.BankFrame [0, 11, 80] [.keyring, .freeNext] z) ∧
  (∀ (s : State) (j : Job) (rest : List Job), s.zone.logicRuns = true → s.zone.keyring.run = none → s.zone.engineRuns = true →
    s.zone.keyring.jobs = j :: rest → s.zone.jobCheck j = 0 → j.code = 0x10 → Completes (.jobBegin) s fun z =>
      z.keyring.run = some ⟨j, 0, none, none, 0, some (if j.nextKey then { (s.zone.keySlot j.win) with next := some ((s.zone.keyData j.win (s.zone.keyIn j.win)), s.zone.rd ((pWIN j.win) + WIN.NEW_COUNT_COUNT.off)) } else { (s.zone.keySlot j.win) with attr := attrStored (s.zone.keyAttr j.win) (s.zone.keySlot j.win).owner.isSome, key := (s.zone.keyData j.win (s.zone.keyIn j.win)), keyId := s.zone.rd ((pWIN j.win) + WIN.NEW_KEY_ID_KEY_ID.off), count := s.zone.rd ((pWIN j.win) + WIN.NEW_COUNT_COUNT.off), next := none }), (if j.nextKey then { (s.zone.keySlot j.win) with next := some ((s.zone.keyData j.win (s.zone.keyIn j.win)), s.zone.rd ((pWIN j.win) + WIN.NEW_COUNT_COUNT.off)) } else { (s.zone.keySlot j.win) with attr := attrStored (s.zone.keyAttr j.win) (s.zone.keySlot j.win).owner.isSome, key := (s.zone.keyData j.win (s.zone.keyIn j.win)), keyId := s.zone.rd ((pWIN j.win) + WIN.NEW_KEY_ID_KEY_ID.off), count := s.zone.rd ((pWIN j.win) + WIN.NEW_COUNT_COUNT.off), next := none }).persistent || (s.zone.keySlot j.win).persistent⟩ ∧
      z.keyring.dirty = (s.zone.keyring.dirty || (if j.nextKey then { (s.zone.keySlot j.win) with next := some ((s.zone.keyData j.win (s.zone.keyIn j.win)), s.zone.rd ((pWIN j.win) + WIN.NEW_COUNT_COUNT.off)) } else { (s.zone.keySlot j.win) with attr := attrStored (s.zone.keyAttr j.win) (s.zone.keySlot j.win).owner.isSome, key := (s.zone.keyData j.win (s.zone.keyIn j.win)), keyId := s.zone.rd ((pWIN j.win) + WIN.NEW_KEY_ID_KEY_ID.off), count := s.zone.rd ((pWIN j.win) + WIN.NEW_COUNT_COUNT.off), next := none }).persistent || (s.zone.keySlot j.win).persistent) ∧
      z.keyring.jobs = rest ∧ z.flag pKEY KEY0.ENGINE_STATUS_BUSY = true ∧ z.fld pKEY KEY0.ENGINE_STATUS_QUEUED = rest.length % 2 ^ KEY0.ENGINE_STATUS_QUEUED.w ∧
      (List.range 256).all (fun m => decide (z.keySlot m = s.zone.keySlot m)) = true ∧
      z.held 8 = (s.zone.held 8 || decide (j.src.world = .secure)) ∧
      z.keyring.record = s.zone.keyring.record ∧ z.keyring.bind = s.zone.keyring.bind ∧ z.keyring.evidence = s.zone.keyring.evidence ∧
      SMap.get (fun _ => none) z.keyring.hash j.win = none ∧ s.zone.BankFrame [0, 11, 80] [.keyring] z) ∧
  (∀ (s : State) (j : Job) (rest : List Job) (r : List Byte), s.zone.logicRuns = true → s.zone.keyring.run = none →
    s.zone.engineRuns = true → s.zone.keyring.jobs = j :: rest → s.zone.jobCheck j = 0 → j.code = 0x11 →
    (∀ m ∈ (s.zone.keyUsed j).toList, (s.zone.keySlot m).count = 0xFFFFFFFF) → s.zone.keySource j.win = 0x100 →
    s.zone.root = some r → Completes (.jobBegin) s fun z =>
      z.keyring.run = some ⟨j, 0, none, none, 0, some (if j.nextKey then { (s.zone.keySlot j.win) with next := some ((if (if j.nextKey then (s.zone.keySlot j.win).type else attrType (s.zone.keyAttr j.win)) = 4 ∨ (if j.nextKey then (s.zone.keySlot j.win).type else attrType (s.zone.keyAttr j.win)) = 5 then kdfPrivate (isP384 (if j.nextKey then (s.zone.keySlot j.win).type else attrType (s.zone.keyAttr j.win))) r (s.zone.keyData j.win (s.zone.keyIn j.win)) else kdf r (s.zone.keyData j.win (s.zone.keyIn j.win)) (typeLen (if j.nextKey then (s.zone.keySlot j.win).type else attrType (s.zone.keyAttr j.win)) * 8)), s.zone.rd ((pWIN j.win) + WIN.NEW_COUNT_COUNT.off)) } else { (s.zone.keySlot j.win) with attr := attrStored (s.zone.keyAttr j.win) (s.zone.keySlot j.win).owner.isSome, key := (if (if j.nextKey then (s.zone.keySlot j.win).type else attrType (s.zone.keyAttr j.win)) = 4 ∨ (if j.nextKey then (s.zone.keySlot j.win).type else attrType (s.zone.keyAttr j.win)) = 5 then kdfPrivate (isP384 (if j.nextKey then (s.zone.keySlot j.win).type else attrType (s.zone.keyAttr j.win))) r (s.zone.keyData j.win (s.zone.keyIn j.win)) else kdf r (s.zone.keyData j.win (s.zone.keyIn j.win)) (typeLen (if j.nextKey then (s.zone.keySlot j.win).type else attrType (s.zone.keyAttr j.win)) * 8)), keyId := s.zone.rd ((pWIN j.win) + WIN.NEW_KEY_ID_KEY_ID.off), count := s.zone.rd ((pWIN j.win) + WIN.NEW_COUNT_COUNT.off), next := none }), (if j.nextKey then { (s.zone.keySlot j.win) with next := some ((if (if j.nextKey then (s.zone.keySlot j.win).type else attrType (s.zone.keyAttr j.win)) = 4 ∨ (if j.nextKey then (s.zone.keySlot j.win).type else attrType (s.zone.keyAttr j.win)) = 5 then kdfPrivate (isP384 (if j.nextKey then (s.zone.keySlot j.win).type else attrType (s.zone.keyAttr j.win))) r (s.zone.keyData j.win (s.zone.keyIn j.win)) else kdf r (s.zone.keyData j.win (s.zone.keyIn j.win)) (typeLen (if j.nextKey then (s.zone.keySlot j.win).type else attrType (s.zone.keyAttr j.win)) * 8)), s.zone.rd ((pWIN j.win) + WIN.NEW_COUNT_COUNT.off)) } else { (s.zone.keySlot j.win) with attr := attrStored (s.zone.keyAttr j.win) (s.zone.keySlot j.win).owner.isSome, key := (if (if j.nextKey then (s.zone.keySlot j.win).type else attrType (s.zone.keyAttr j.win)) = 4 ∨ (if j.nextKey then (s.zone.keySlot j.win).type else attrType (s.zone.keyAttr j.win)) = 5 then kdfPrivate (isP384 (if j.nextKey then (s.zone.keySlot j.win).type else attrType (s.zone.keyAttr j.win))) r (s.zone.keyData j.win (s.zone.keyIn j.win)) else kdf r (s.zone.keyData j.win (s.zone.keyIn j.win)) (typeLen (if j.nextKey then (s.zone.keySlot j.win).type else attrType (s.zone.keyAttr j.win)) * 8)), keyId := s.zone.rd ((pWIN j.win) + WIN.NEW_KEY_ID_KEY_ID.off), count := s.zone.rd ((pWIN j.win) + WIN.NEW_COUNT_COUNT.off), next := none }).persistent || (s.zone.keySlot j.win).persistent⟩ ∧
      z.keyring.dirty = (s.zone.keyring.dirty || (if j.nextKey then { (s.zone.keySlot j.win) with next := some ((if (if j.nextKey then (s.zone.keySlot j.win).type else attrType (s.zone.keyAttr j.win)) = 4 ∨ (if j.nextKey then (s.zone.keySlot j.win).type else attrType (s.zone.keyAttr j.win)) = 5 then kdfPrivate (isP384 (if j.nextKey then (s.zone.keySlot j.win).type else attrType (s.zone.keyAttr j.win))) r (s.zone.keyData j.win (s.zone.keyIn j.win)) else kdf r (s.zone.keyData j.win (s.zone.keyIn j.win)) (typeLen (if j.nextKey then (s.zone.keySlot j.win).type else attrType (s.zone.keyAttr j.win)) * 8)), s.zone.rd ((pWIN j.win) + WIN.NEW_COUNT_COUNT.off)) } else { (s.zone.keySlot j.win) with attr := attrStored (s.zone.keyAttr j.win) (s.zone.keySlot j.win).owner.isSome, key := (if (if j.nextKey then (s.zone.keySlot j.win).type else attrType (s.zone.keyAttr j.win)) = 4 ∨ (if j.nextKey then (s.zone.keySlot j.win).type else attrType (s.zone.keyAttr j.win)) = 5 then kdfPrivate (isP384 (if j.nextKey then (s.zone.keySlot j.win).type else attrType (s.zone.keyAttr j.win))) r (s.zone.keyData j.win (s.zone.keyIn j.win)) else kdf r (s.zone.keyData j.win (s.zone.keyIn j.win)) (typeLen (if j.nextKey then (s.zone.keySlot j.win).type else attrType (s.zone.keyAttr j.win)) * 8)), keyId := s.zone.rd ((pWIN j.win) + WIN.NEW_KEY_ID_KEY_ID.off), count := s.zone.rd ((pWIN j.win) + WIN.NEW_COUNT_COUNT.off), next := none }).persistent || (s.zone.keySlot j.win).persistent) ∧
      z.keyring.jobs = rest ∧ z.flag pKEY KEY0.ENGINE_STATUS_BUSY = true ∧ z.fld pKEY KEY0.ENGINE_STATUS_QUEUED = rest.length % 2 ^ KEY0.ENGINE_STATUS_QUEUED.w ∧
      (List.range 256).all (fun m => decide (z.keySlot m = s.zone.keySlot m)) = true ∧
      z.held 8 = (s.zone.held 8 || decide (j.src.world = .secure)) ∧
      z.keyring.record = s.zone.keyring.record ∧ z.keyring.bind = s.zone.keyring.bind ∧ z.keyring.evidence = s.zone.keyring.evidence ∧
      SMap.get (fun _ => none) z.keyring.hash j.win = none ∧ s.zone.BankFrame [0, 11, 80] [.keyring] z) ∧
  (∀ (s : State) (j : Job) (rest : List Job), s.zone.logicRuns = true → s.zone.keyring.run = none → s.zone.engineRuns = true →
    s.zone.keyring.jobs = j :: rest → s.zone.jobCheck j = 0 → j.code = 0x11 →
    (∀ m ∈ (s.zone.keyUsed j).toList, (s.zone.keySlot m).count = 0xFFFFFFFF) → s.zone.keySource j.win < 256 →
    Completes (.jobBegin) s fun z =>
      z.keyring.run = some ⟨j, 0, none, none, 0, some (if j.nextKey then { (s.zone.keySlot j.win) with next := some ((if (if j.nextKey then (s.zone.keySlot j.win).type else attrType (s.zone.keyAttr j.win)) = 4 ∨ (if j.nextKey then (s.zone.keySlot j.win).type else attrType (s.zone.keyAttr j.win)) = 5 then kdfPrivate (isP384 (if j.nextKey then (s.zone.keySlot j.win).type else attrType (s.zone.keyAttr j.win))) (s.zone.keySlot (s.zone.keySource j.win)).key (s.zone.keyData j.win (s.zone.keyIn j.win)) else kdf (s.zone.keySlot (s.zone.keySource j.win)).key (s.zone.keyData j.win (s.zone.keyIn j.win)) (typeLen (if j.nextKey then (s.zone.keySlot j.win).type else attrType (s.zone.keyAttr j.win)) * 8)), s.zone.rd ((pWIN j.win) + WIN.NEW_COUNT_COUNT.off)) } else { (s.zone.keySlot j.win) with attr := attrStored (s.zone.keyAttr j.win) (s.zone.keySlot j.win).owner.isSome, key := (if (if j.nextKey then (s.zone.keySlot j.win).type else attrType (s.zone.keyAttr j.win)) = 4 ∨ (if j.nextKey then (s.zone.keySlot j.win).type else attrType (s.zone.keyAttr j.win)) = 5 then kdfPrivate (isP384 (if j.nextKey then (s.zone.keySlot j.win).type else attrType (s.zone.keyAttr j.win))) (s.zone.keySlot (s.zone.keySource j.win)).key (s.zone.keyData j.win (s.zone.keyIn j.win)) else kdf (s.zone.keySlot (s.zone.keySource j.win)).key (s.zone.keyData j.win (s.zone.keyIn j.win)) (typeLen (if j.nextKey then (s.zone.keySlot j.win).type else attrType (s.zone.keyAttr j.win)) * 8)), keyId := s.zone.rd ((pWIN j.win) + WIN.NEW_KEY_ID_KEY_ID.off), count := s.zone.rd ((pWIN j.win) + WIN.NEW_COUNT_COUNT.off), next := none }), (if j.nextKey then { (s.zone.keySlot j.win) with next := some ((if (if j.nextKey then (s.zone.keySlot j.win).type else attrType (s.zone.keyAttr j.win)) = 4 ∨ (if j.nextKey then (s.zone.keySlot j.win).type else attrType (s.zone.keyAttr j.win)) = 5 then kdfPrivate (isP384 (if j.nextKey then (s.zone.keySlot j.win).type else attrType (s.zone.keyAttr j.win))) (s.zone.keySlot (s.zone.keySource j.win)).key (s.zone.keyData j.win (s.zone.keyIn j.win)) else kdf (s.zone.keySlot (s.zone.keySource j.win)).key (s.zone.keyData j.win (s.zone.keyIn j.win)) (typeLen (if j.nextKey then (s.zone.keySlot j.win).type else attrType (s.zone.keyAttr j.win)) * 8)), s.zone.rd ((pWIN j.win) + WIN.NEW_COUNT_COUNT.off)) } else { (s.zone.keySlot j.win) with attr := attrStored (s.zone.keyAttr j.win) (s.zone.keySlot j.win).owner.isSome, key := (if (if j.nextKey then (s.zone.keySlot j.win).type else attrType (s.zone.keyAttr j.win)) = 4 ∨ (if j.nextKey then (s.zone.keySlot j.win).type else attrType (s.zone.keyAttr j.win)) = 5 then kdfPrivate (isP384 (if j.nextKey then (s.zone.keySlot j.win).type else attrType (s.zone.keyAttr j.win))) (s.zone.keySlot (s.zone.keySource j.win)).key (s.zone.keyData j.win (s.zone.keyIn j.win)) else kdf (s.zone.keySlot (s.zone.keySource j.win)).key (s.zone.keyData j.win (s.zone.keyIn j.win)) (typeLen (if j.nextKey then (s.zone.keySlot j.win).type else attrType (s.zone.keyAttr j.win)) * 8)), keyId := s.zone.rd ((pWIN j.win) + WIN.NEW_KEY_ID_KEY_ID.off), count := s.zone.rd ((pWIN j.win) + WIN.NEW_COUNT_COUNT.off), next := none }).persistent || (s.zone.keySlot j.win).persistent⟩ ∧
      z.keyring.dirty = (s.zone.keyring.dirty || (if j.nextKey then { (s.zone.keySlot j.win) with next := some ((if (if j.nextKey then (s.zone.keySlot j.win).type else attrType (s.zone.keyAttr j.win)) = 4 ∨ (if j.nextKey then (s.zone.keySlot j.win).type else attrType (s.zone.keyAttr j.win)) = 5 then kdfPrivate (isP384 (if j.nextKey then (s.zone.keySlot j.win).type else attrType (s.zone.keyAttr j.win))) (s.zone.keySlot (s.zone.keySource j.win)).key (s.zone.keyData j.win (s.zone.keyIn j.win)) else kdf (s.zone.keySlot (s.zone.keySource j.win)).key (s.zone.keyData j.win (s.zone.keyIn j.win)) (typeLen (if j.nextKey then (s.zone.keySlot j.win).type else attrType (s.zone.keyAttr j.win)) * 8)), s.zone.rd ((pWIN j.win) + WIN.NEW_COUNT_COUNT.off)) } else { (s.zone.keySlot j.win) with attr := attrStored (s.zone.keyAttr j.win) (s.zone.keySlot j.win).owner.isSome, key := (if (if j.nextKey then (s.zone.keySlot j.win).type else attrType (s.zone.keyAttr j.win)) = 4 ∨ (if j.nextKey then (s.zone.keySlot j.win).type else attrType (s.zone.keyAttr j.win)) = 5 then kdfPrivate (isP384 (if j.nextKey then (s.zone.keySlot j.win).type else attrType (s.zone.keyAttr j.win))) (s.zone.keySlot (s.zone.keySource j.win)).key (s.zone.keyData j.win (s.zone.keyIn j.win)) else kdf (s.zone.keySlot (s.zone.keySource j.win)).key (s.zone.keyData j.win (s.zone.keyIn j.win)) (typeLen (if j.nextKey then (s.zone.keySlot j.win).type else attrType (s.zone.keyAttr j.win)) * 8)), keyId := s.zone.rd ((pWIN j.win) + WIN.NEW_KEY_ID_KEY_ID.off), count := s.zone.rd ((pWIN j.win) + WIN.NEW_COUNT_COUNT.off), next := none }).persistent || (s.zone.keySlot j.win).persistent) ∧
      z.keyring.jobs = rest ∧ z.flag pKEY KEY0.ENGINE_STATUS_BUSY = true ∧ z.fld pKEY KEY0.ENGINE_STATUS_QUEUED = rest.length % 2 ^ KEY0.ENGINE_STATUS_QUEUED.w ∧
      (List.range 256).all (fun m => decide (z.keySlot m = s.zone.keySlot m)) = true ∧
      z.held 8 = (s.zone.held 8 || decide (j.src.world = .secure)) ∧
      z.keyring.record = s.zone.keyring.record ∧ z.keyring.bind = s.zone.keyring.bind ∧ z.keyring.evidence = s.zone.keyring.evidence ∧
      SMap.get (fun _ => none) z.keyring.hash j.win = none ∧ s.zone.BankFrame [0, 11, 80] [.keyring] z) ∧
  (∀ (s : State) (j : Job) (rest : List Job), s.zone.logicRuns = true → s.zone.keyring.run = none → s.zone.engineRuns = true →
    s.zone.keyring.jobs = j :: rest → s.zone.jobCheck j = 0 → j.code = 0x12 → Completes (.jobBegin) s fun z =>
      z.keyring.run = some ⟨j, 0, none, none, 0, some { (s.zone.keySlot j.win) with attr := (s.zone.keySlot j.win).attr &&& 0x0FFFFFFF, key := [], next := none }, (s.zone.keySlot j.win).persistent⟩ ∧
      z.keyring.dirty = (s.zone.keyring.dirty || (s.zone.keySlot j.win).persistent) ∧
      z.keyring.jobs = rest ∧ z.flag pKEY KEY0.ENGINE_STATUS_BUSY = true ∧ z.fld pKEY KEY0.ENGINE_STATUS_QUEUED = rest.length % 2 ^ KEY0.ENGINE_STATUS_QUEUED.w ∧
      (List.range 256).all (fun m => decide (z.keySlot m = s.zone.keySlot m)) = true ∧
      z.held 8 = (s.zone.held 8 || decide (j.src.world = .secure)) ∧
      z.keyring.record = s.zone.keyring.record ∧ z.keyring.bind = s.zone.keyring.bind ∧ z.keyring.evidence = s.zone.keyring.evidence ∧
      SMap.get (fun _ => none) z.keyring.hash j.win = none ∧ s.zone.BankFrame [0, 11, 80] [.keyring] z) ∧
  (∀ (s : State) (j : Job) (rest : List Job), s.zone.logicRuns = true → s.zone.keyring.run = none → s.zone.engineRuns = true →
    s.zone.keyring.jobs = j :: rest → s.zone.jobCheck j = 0 → j.code = 0x14 →
    (∀ m ∈ (s.zone.keyUsed j).toList, (s.zone.keySlot m).count = 0xFFFFFFFF) → Completes (.jobBegin) s fun z =>
      z.keyring.run = some ⟨j, 0, none, some (0, (leBytes 2 0x4B57 ++ leBytes 2 1 ++ leBytes 4 (s.zone.keySlot (s.zone.keySource j.win)).attr.toNat ++ leBytes 4 (s.zone.keySlot (s.zone.keySource j.win)).keyId.toNat ++ leBytes 4 (s.zone.keySlot (s.zone.keySource j.win)).count.toNat) ++ (s.zone.freshBytes 12).1 ++ (gcmEncrypt (s.zone.keySlot j.win).key (s.zone.freshBytes 12).1 (leBytes 2 0x4B57 ++ leBytes 2 1 ++ leBytes 4 (s.zone.keySlot (s.zone.keySource j.win)).attr.toNat ++ leBytes 4 (s.zone.keySlot (s.zone.keySource j.win)).keyId.toNat ++ leBytes 4 (s.zone.keySlot (s.zone.keySource j.win)).count.toNat) (s.zone.keySlot (s.zone.keySource j.win)).key).1 ++ (gcmEncrypt (s.zone.keySlot j.win).key (s.zone.freshBytes 12).1 (leBytes 2 0x4B57 ++ leBytes 2 1 ++ leBytes 4 (s.zone.keySlot (s.zone.keySource j.win)).attr.toNat ++ leBytes 4 (s.zone.keySlot (s.zone.keySource j.win)).keyId.toNat ++ leBytes 4 (s.zone.keySlot (s.zone.keySource j.win)).count.toNat) (s.zone.keySlot (s.zone.keySource j.win)).key).2), 44 + (s.zone.keySlot (s.zone.keySource j.win)).key.length, none, false⟩ ∧
      z.keyring.jobs = rest ∧ z.flag pKEY KEY0.ENGINE_STATUS_BUSY = true ∧ z.fld pKEY KEY0.ENGINE_STATUS_QUEUED = rest.length % 2 ^ KEY0.ENGINE_STATUS_QUEUED.w ∧
      (List.range 256).all (fun m => decide (z.keySlot m = s.zone.keySlot m)) = true ∧
      z.held 8 = (s.zone.held 8 || decide (j.src.world = .secure)) ∧
      z.keyring.record = s.zone.keyring.record ∧ z.keyring.bind = s.zone.keyring.bind ∧ z.keyring.evidence = s.zone.keyring.evidence ∧
      SMap.get (fun _ => none) z.keyring.hash j.win = none ∧ z.keyring.dirty = s.zone.keyring.dirty ∧
      s.zone.BankFrame [0, 11, 80] [.keyring, .freeNext] z) ∧
  (∀ (s : State) (j : Job) (rest : List Job) (a i u : Word) (iv ct tag : List Byte), s.zone.logicRuns = true →
    s.zone.keyring.run = none → s.zone.engineRuns = true → s.zone.keyring.jobs = j :: rest → s.zone.jobCheck j = 0 →
    j.code = 0x15 → (∀ m ∈ (s.zone.keyUsed j).toList, (s.zone.keySlot m).count = 0xFFFFFFFF) →
    (s.zone.keyData j.win (s.zone.keyIn j.win)) = leBytes 2 0x4B57 ++ leBytes 2 1 ++ leBytes 4 a.toNat ++ leBytes 4 i.toNat ++ leBytes 4 u.toNat ++ iv ++ ct ++ tag →
    iv.length = 12 ∧ tag.length = 16 ∧ ct.length = typeLen (attrType a) → attrOk a (s.zone.keySlot j.win).owner.isSome = true →
    (j.nextKey = true → (s.zone.keySlot j.win).type = attrType a) →
    (gcmDecrypt (s.zone.keySlot (s.zone.keySource j.win)).key iv (leBytes 2 0x4B57 ++ leBytes 2 1 ++ leBytes 4 a.toNat ++ leBytes 4 i.toNat ++ leBytes 4 u.toNat) ct).2 = tag →
    Completes (.jobBegin) s fun z =>
      z.keyring.run = some ⟨j, 0, none, none, 0, some (if j.nextKey then { (s.zone.keySlot j.win) with next := some ((gcmDecrypt (s.zone.keySlot (s.zone.keySource j.win)).key iv (leBytes 2 0x4B57 ++ leBytes 2 1 ++ leBytes 4 a.toNat ++ leBytes 4 i.toNat ++ leBytes 4 u.toNat) ct).1, u) } else { (s.zone.keySlot j.win) with attr := attrStored a (s.zone.keySlot j.win).owner.isSome, key := (gcmDecrypt (s.zone.keySlot (s.zone.keySource j.win)).key iv (leBytes 2 0x4B57 ++ leBytes 2 1 ++ leBytes 4 a.toNat ++ leBytes 4 i.toNat ++ leBytes 4 u.toNat) ct).1, keyId := i, count := u, next := none }), (if j.nextKey then { (s.zone.keySlot j.win) with next := some ((gcmDecrypt (s.zone.keySlot (s.zone.keySource j.win)).key iv (leBytes 2 0x4B57 ++ leBytes 2 1 ++ leBytes 4 a.toNat ++ leBytes 4 i.toNat ++ leBytes 4 u.toNat) ct).1, u) } else { (s.zone.keySlot j.win) with attr := attrStored a (s.zone.keySlot j.win).owner.isSome, key := (gcmDecrypt (s.zone.keySlot (s.zone.keySource j.win)).key iv (leBytes 2 0x4B57 ++ leBytes 2 1 ++ leBytes 4 a.toNat ++ leBytes 4 i.toNat ++ leBytes 4 u.toNat) ct).1, keyId := i, count := u, next := none }).persistent || (s.zone.keySlot j.win).persistent⟩ ∧
      z.keyring.dirty = (s.zone.keyring.dirty || (if j.nextKey then { (s.zone.keySlot j.win) with next := some ((gcmDecrypt (s.zone.keySlot (s.zone.keySource j.win)).key iv (leBytes 2 0x4B57 ++ leBytes 2 1 ++ leBytes 4 a.toNat ++ leBytes 4 i.toNat ++ leBytes 4 u.toNat) ct).1, u) } else { (s.zone.keySlot j.win) with attr := attrStored a (s.zone.keySlot j.win).owner.isSome, key := (gcmDecrypt (s.zone.keySlot (s.zone.keySource j.win)).key iv (leBytes 2 0x4B57 ++ leBytes 2 1 ++ leBytes 4 a.toNat ++ leBytes 4 i.toNat ++ leBytes 4 u.toNat) ct).1, keyId := i, count := u, next := none }).persistent || (s.zone.keySlot j.win).persistent) ∧
      z.keyring.jobs = rest ∧ z.flag pKEY KEY0.ENGINE_STATUS_BUSY = true ∧ z.fld pKEY KEY0.ENGINE_STATUS_QUEUED = rest.length % 2 ^ KEY0.ENGINE_STATUS_QUEUED.w ∧
      (List.range 256).all (fun m => decide (z.keySlot m = s.zone.keySlot m)) = true ∧
      z.held 8 = (s.zone.held 8 || decide (j.src.world = .secure)) ∧
      z.keyring.record = s.zone.keyring.record ∧ z.keyring.bind = s.zone.keyring.bind ∧ z.keyring.evidence = s.zone.keyring.evidence ∧
      SMap.get (fun _ => none) z.keyring.hash j.win = none ∧ s.zone.BankFrame [0, 11, 80] [.keyring] z) ∧
  (∀ (s : State) (j : Job) (rest : List Job) (a i u : Word) (iv ct tag : List Byte), s.zone.logicRuns = true →
    s.zone.keyring.run = none → s.zone.engineRuns = true → s.zone.keyring.jobs = j :: rest → s.zone.jobCheck j = 0 →
    j.code = 0x15 → (∀ m ∈ (s.zone.keyUsed j).toList, (s.zone.keySlot m).count = 0xFFFFFFFF) →
    (s.zone.keyData j.win (s.zone.keyIn j.win)) = leBytes 2 0x4B57 ++ leBytes 2 1 ++ leBytes 4 a.toNat ++ leBytes 4 i.toNat ++ leBytes 4 u.toNat ++ iv ++ ct ++ tag →
    iv.length = 12 ∧ tag.length = 16 ∧ ct.length = typeLen (attrType a) → attrOk a (s.zone.keySlot j.win).owner.isSome = true →
    (j.nextKey = true → (s.zone.keySlot j.win).type = attrType a) →
    (gcmDecrypt (s.zone.keySlot (s.zone.keySource j.win)).key iv (leBytes 2 0x4B57 ++ leBytes 2 1 ++ leBytes 4 a.toNat ++ leBytes 4 i.toNat ++ leBytes 4 u.toNat) ct).2 ≠ tag →
    Completes (.jobBegin) s fun z =>
      z.keyring.run = some ⟨j, KeyResult.auth, none, none, 0, none, false⟩ ∧
      z.keyring.jobs = rest ∧ z.flag pKEY KEY0.ENGINE_STATUS_BUSY = true ∧ z.fld pKEY KEY0.ENGINE_STATUS_QUEUED = rest.length % 2 ^ KEY0.ENGINE_STATUS_QUEUED.w ∧
      (List.range 256).all (fun m => decide (z.keySlot m = s.zone.keySlot m)) = true ∧
      z.held 8 = (s.zone.held 8 || decide (j.src.world = .secure)) ∧
      z.keyring.record = s.zone.keyring.record ∧ z.keyring.bind = s.zone.keyring.bind ∧ z.keyring.evidence = s.zone.keyring.evidence ∧
      SMap.get (fun _ => none) z.keyring.hash j.win = none ∧ z.keyring.dirty = s.zone.keyring.dirty ∧
      s.zone.BankFrame [0, 11, 80] [.keyring] z) ∧
  (∀ (s : State) (j : Job) (rest : List Job), s.zone.logicRuns = true → s.zone.keyring.run = none → s.zone.engineRuns = true →
    s.zone.keyring.jobs = j :: rest → s.zone.jobCheck j = 0 → j.code = 0x15 →
    (∀ m ∈ (s.zone.keyUsed j).toList, (s.zone.keySlot m).count = 0xFFFFFFFF) →
    ((s.zone.keyData j.win (s.zone.keyIn j.win)).take 4 ≠ leBytes 2 0x4B57 ++ leBytes 2 1 ∨ attrOk (BitVec.ofNat 32 (leAt (s.zone.keyData j.win (s.zone.keyIn j.win)) 4 4)) (s.zone.keySlot j.win).owner.isSome = false ∨ (s.zone.keyData j.win (s.zone.keyIn j.win)).length ≠ 44 + typeLen (attrType (BitVec.ofNat 32 (leAt (s.zone.keyData j.win (s.zone.keyIn j.win)) 4 4))) ∨ (j.nextKey = true ∧ (s.zone.keySlot j.win).type ≠ attrType (BitVec.ofNat 32 (leAt (s.zone.keyData j.win (s.zone.keyIn j.win)) 4 4)))) →
    Completes (.jobBegin) s fun z =>
      z.keyring.run = some ⟨j, KeyResult.arg, none, none, 0, none, false⟩ ∧
      z.keyring.jobs = rest ∧ z.flag pKEY KEY0.ENGINE_STATUS_BUSY = true ∧ z.fld pKEY KEY0.ENGINE_STATUS_QUEUED = rest.length % 2 ^ KEY0.ENGINE_STATUS_QUEUED.w ∧
      (List.range 256).all (fun m => decide (z.keySlot m = s.zone.keySlot m)) = true ∧
      z.held 8 = (s.zone.held 8 || decide (j.src.world = .secure)) ∧
      z.keyring.record = s.zone.keyring.record ∧ z.keyring.bind = s.zone.keyring.bind ∧ z.keyring.evidence = s.zone.keyring.evidence ∧
      SMap.get (fun _ => none) z.keyring.hash j.win = none ∧ z.keyring.dirty = s.zone.keyring.dirty ∧
      s.zone.BankFrame [0, 11, 80] [.keyring] z) ∧
  (∀ (s : State) (j : Job) (rest : List Job), s.zone.logicRuns = true → s.zone.keyring.run = none → s.zone.engineRuns = true →
    s.zone.keyring.jobs = j :: rest → s.zone.jobCheck j = 0 → j.code = 0x20 → Completes (.jobBegin) s fun z =>
      z.keyring.run = some ⟨j, 0, some (ecdsaSign 4 s.zone.attestKey (sha 0 (s.zone.keyData j.win 64 ++ s.zone.startCountBytes ++ leBytes 4 s.zone.domainWord.toNat ++ leBytes 4 s.zone.nodeWord.toNat ++ leBytes 1 s.zone.lifeCycle ++ [0#8, 0#8, 0#8]))), none, 0, none, false⟩ ∧
      z.keyring.jobs = rest ∧ z.flag pKEY KEY0.ENGINE_STATUS_BUSY = true ∧ z.fld pKEY KEY0.ENGINE_STATUS_QUEUED = rest.length % 2 ^ KEY0.ENGINE_STATUS_QUEUED.w ∧
      (List.range 256).all (fun m => decide (z.keySlot m = s.zone.keySlot m)) = true ∧
      z.held 8 = (s.zone.held 8 || decide (j.src.world = .secure)) ∧
      z.keyring.record = s.zone.keyring.record ∧ z.keyring.bind = s.zone.keyring.bind ∧ z.keyring.evidence = s.zone.keyring.evidence ∧
      SMap.get (fun _ => none) z.keyring.hash j.win = none ∧ z.keyring.dirty = s.zone.keyring.dirty ∧
      s.zone.BankFrame [0, 11, 80] [.keyring] z) ∧
  (∀ (s : State) (j : Job) (rest : List Job) (m : Nat), s.zone.logicRuns = true → s.zone.keyring.run = none →
    s.zone.engineRuns = true → s.zone.keyring.jobs = j :: rest → s.zone.jobCheck j = 0 → s.zone.keyUsed j = some m →
    (j.code = 0x01 ∨ j.code = 0x03 ∨ j.code = 0x04 ∨ j.code = 0x05 ∨ j.code = 0x06 ∨ j.code = 0x14) →
    (s.zone.keySlot m).count ≠ 0xFFFFFFFF →
    ((s.zone.keySlot m).persistent = true → (s.zone.recordedCount m).any (fun c => decide (c + 1 < (s.zone.keySlot m).count.toNat)) = true) →
    Completes (.jobBegin) s fun z =>
      z.keySlot m = { s.zone.keySlot m with count := (s.zone.keySlot m).count - 1 } ∧
      (List.range 256).all (fun i => decide (i = m ∨ z.keySlot i = s.zone.keySlot i)) = true ∧ z.keyring.jobs = rest ∧
      z.keyring.run.map (fun r => (r.job, r.change, r.need)) = some (j, none, false) ∧ z.keyring.dirty = s.zone.keyring.dirty ∧
      s.zone.BankFrame [0, 11, 80] [.keyring, .freeNext] z) ∧
  (∀ (s : State) (j : Job) (rest : List Job) (m : Nat), s.zone.logicRuns = true → s.zone.keyring.run = none →
    s.zone.engineRuns = true → s.zone.keyring.jobs = j :: rest → s.zone.jobCheck j = 0 → s.zone.keyUsed j = some m →
    (j.code = 0x01 ∨ j.code = 0x03 ∨ j.code = 0x04 ∨ j.code = 0x05 ∨ j.code = 0x06 ∨ j.code = 0x14) →
    (s.zone.keySlot m).count ≠ 0xFFFFFFFF → (s.zone.keySlot m).persistent = true →
    (s.zone.recordedCount m).all (fun c => decide ((s.zone.keySlot m).count.toNat ≤ c + 1)) = true →
    Completes (.jobBegin) s fun z =>
      z.keySlot m = { s.zone.keySlot m with count := (s.zone.keySlot m).count - 1 } ∧ z.keyring.jobs = rest ∧
      z.keyring.run.map (fun r => (r.job, r.change, r.need)) = some (j, none, true) ∧ z.keyring.dirty = true ∧
      s.zone.BankFrame [0, 11, 80] [.keyring, .freeNext] z) ∧
  (∀ (s : State) (j : Job) (rest : List Job), s.zone.logicRuns = true → s.zone.keyring.run = none → s.zone.engineRuns = true →
    s.zone.keyring.jobs = j :: rest → s.zone.jobCheck j ≠ 0 → j.win < 256 → Completes (.jobBegin) s fun z =>
      z.keyring.run = none ∧ z.keyring.jobs = rest ∧ z.fld (pWIN j.win) WIN.STATUS_RESULT = s.zone.jobCheck j ∧
      z.flag (pWIN j.win) WIN.STATUS_BUSY = false ∧ z.keyring.slots = s.zone.keyring.slots ∧
      z.fld pKEY KEY0.JOB_COUNTS_FAILED = satU KEY0.JOB_COUNTS_FAILED.w (s.zone.fld pKEY KEY0.JOB_COUNTS_FAILED + 1) ∧
      s.zone.BankFrame [0, 11, 80] [.keyring] z) ∧
  (∀ (s : State), (s.zone.logicRuns = false ∨ s.zone.keyring.run ≠ none ∨ s.zone.engineRuns = false ∨ s.zone.keyring.jobs = []) →
    Completes (.jobBegin) s fun z =>
      s.zone.Frame [] [] z) ∧
  (∀ (s : State) (r : RunJob) (a d : List Byte) (o : Nat), s.zone.logicRuns = true → s.zone.keyring.run = some r →
    r.need = false → r.change = none → r.aux = some a → r.data = some (o, d) → (s.zone.mode ≠ Mode.test ∨ r.job.code = 0x07) →
    a.length ≤ 128 → o + d.length ≤ 2048 → r.outLen < 4096 → r.code < 256 → r.job.win < 256 → Completes (.jobComplete) s fun z =>
      z.keyring = { s.zone.keyring with run := none } ∧ z.pageBytes (pWIN r.job.win) 0x040 a.length = a ∧
      z.pageBytes (pWIN r.job.win) (0x100 + o) d.length = d ∧ z.fld (pWIN r.job.win) WIN.OUT_LEN_BYTES = r.outLen ∧
      z.fld (pWIN r.job.win) WIN.STATUS_RESULT = r.code ∧ z.flag (pWIN r.job.win) WIN.STATUS_BUSY = false ∧
      (r.code = 0 → z.fld pKEY KEY0.JOB_COUNTS_DONE = satU KEY0.JOB_COUNTS_DONE.w (s.zone.fld pKEY KEY0.JOB_COUNTS_DONE + 1)) ∧
      (r.code = KeyResult.auth → z.fld pKEY KEY0.ACCESS_COUNTS_AUTH = satU KEY0.ACCESS_COUNTS_AUTH.w (s.zone.fld pKEY KEY0.ACCESS_COUNTS_AUTH + 1)) ∧
      s.zone.BankFrame [11, 80] [.keyring] z) ∧
  (∀ (s : State) (r : RunJob), s.zone.logicRuns = true → s.zone.keyring.run = some r → r.need = false → r.job.win < 256 →
    (s.zone.mode ≠ Mode.test ∨ r.job.code = 0x07) → r.code < 256 →
    (r.aux.getD []).length ≤ 128 ∧ (r.data.all fun d => decide (d.1 + d.2.length ≤ 2048)) = true →
    Completes (.jobComplete) s fun z =>
      z.keyring.run = none ∧ z.keyring.jobs = s.zone.keyring.jobs ∧ z.keyring.dirty = s.zone.keyring.dirty ∧
      z.keySlot r.job.win = r.change.getD (s.zone.keySlot r.job.win) ∧
      (∀ n : Fin 256, n.val ≠ r.job.win → z.keySlot n.val = s.zone.keySlot n.val) ∧
      z.flag (pWIN r.job.win) WIN.STATUS_BUSY = false ∧ z.fld (pWIN r.job.win) WIN.STATUS_RESULT = r.code ∧
      (r.aux = none → z.pageBytes (pWIN r.job.win) 0x040 128 = s.zone.pageBytes (pWIN r.job.win) 0x040 128) ∧
      s.zone.BankFrame [0, 11, 80] [.keyring] z) ∧
  (∀ (s : State) (r : RunJob), s.zone.logicRuns = true → s.zone.keyring.run = some r → r.need = false → r.job.win < 256 →
    s.zone.mode = Mode.test → r.job.code ≠ 0x07 → Completes (.jobComplete) s fun z =>
      z.keyring = { s.zone.keyring with run := none } ∧ z.fld (pWIN r.job.win) WIN.STATUS_RESULT = KeyResult.lifecycle ∧
      z.flag (pWIN r.job.win) WIN.STATUS_BUSY = false ∧
      z.fld pKEY KEY0.JOB_COUNTS_FAILED = satU KEY0.JOB_COUNTS_FAILED.w (s.zone.fld pKEY KEY0.JOB_COUNTS_FAILED + 1) ∧
      s.zone.Frame [pWIN r.job.win + WIN.STATUS_BUSY.off, pKEY + KEY0.JOB_COUNTS_FAILED.off, pKEY + KEY0.ENGINE_STATUS_BUSY.off] [.keyring] z) ∧
  (∀ (s : State), (s.zone.logicRuns = false ∨ s.zone.keyring.run.all (fun r => r.need) = true) →
    Completes (.jobComplete) s fun z =>
      s.zone.Frame [] [] z) ∧
  (∀ (s : State), s.zone.logicRuns = true → s.zone.keyring.dirty = true → s.zone.keyring.bind = none →
    s.zone.keyring.run.all (fun r => !r.need) = true → Completes (.keyringRecordWrite) s fun z =>
      z.keyring = { s.zone.keyring with dirty := false, record := some ((s.zone.keyring.slots.filter fun e => e.2.persistent).map fun e => (e.1, e.2.recorded)) } ∧
      z.fld pKEY KEY0.ENGINE_STATUS_STORE = 1 ∧ s.zone.Frame [pKEY + KEY0.ENGINE_STATUS_STORE.off] [.keyring] z) ∧
  (∀ (s : State) (r : RunJob), s.zone.logicRuns = true → s.zone.keyring.dirty = true → s.zone.keyring.bind = none →
    s.zone.keyring.run = some r → r.need = true → Completes (.keyringRecordWrite) s fun z =>
      z.keyring.run = some { r with need := false, change := none } ∧
      z.keySlot r.job.win = r.change.getD (s.zone.keySlot r.job.win) ∧
      (∀ n : Fin 256, n.val ≠ r.job.win → z.keySlot n.val = s.zone.keySlot n.val) ∧
      z.keyring.dirty = false ∧ z.keyring.jobs = s.zone.keyring.jobs ∧
      z.keyring.record = some ((z.keyring.slots.filter fun e => e.2.persistent).map fun e => (e.1, e.2.recorded)) ∧
      z.fld pKEY KEY0.ENGINE_STATUS_STORE = 1 ∧ s.zone.BankFrame [0, 11, 80] [.keyring] z) ∧
  (∀ (s : State) (q : BitVec 32), s.zone.logicRuns = true → s.zone.keyring.dirty = true → s.zone.keyring.bind = some q →
    s.zone.supv.sessionKey ≠ none → Completes (.keyringRecordWrite) s fun z =>
      z.keyring.dirty = false ∧ z.keyring.bind = none ∧ z.lastAnswer = some (0x0003, q, 0, leBytes 4 0) ∧
      z.supv.sessionKey = some z.sessionKeyNow ∧
      z.keyring.record = some ((z.keyring.slots.filter fun e => e.2.persistent).map fun e => (e.1, e.2.recorded)) ∧
      s.zone.BankFrame [0, 11, 80] [.keyring, .supv] z) ∧
  (∀ (s : State), (s.zone.logicRuns = false ∨ s.zone.keyring.dirty = false) → Completes (.keyringRecordWrite) s fun z =>
      s.zone.Frame [] [] z)

/-! ### Safety monitor -/

/-- R623, R624, R627, R628, R630, R631, R633, R634, R636, R637, R639, R640: the report that comes next (of one tick the lowest
source) is logged with the reaction applied, counted, recorded and shown, or lost by a full log; below SAFE_CLUSTER, injected or
during a pending reset it demands nothing; SAFE_CLUSTER demands the loads OWN_SAFETY marks, SAFE_ALL every load, RESET in SERVICE
a reset after DELAY; the lanes that it reached hold the demand and both outputs signal; one that no lane hears is only gone;
KEEPER_BOTH fails a start that counts. Lanes compare every 100 µs and raise LANE_MISMATCH at the fifth difference. A demand is
released unless it is fixed or a source asks for it. Alarm outputs toggle through mark, code, parity and counter, are tested and
read back; a pop takes the log's head; scrubbed words count, and uncorrectable ones are reported or fail their keeper. What is not
due or permitted changes nothing. -/
def Obligations.ReportsReactDemandAndSignal : Prop :=
  (∀ (s : State) (r : Report) (toA toB : Bool) (a : Nat), s.zone.logicRuns = true → s.zone.nextReport = some r → r.source < 28 →
    ¬ (r.source = Src.keeperBoth ∧ r.injected = false ∧ s.zone.startCounts = true) →
    a = (if r.injected then 0 else s.zone.appliedClass (if r.source = 26 then (if r.detail.toNat / 2 ^ 28 % 8 ≤ 4 then r.detail.toNat / 2 ^ 28 % 8 else 0) else s.zone.reaction r.source)) →
    (toA = true ∨ toB = true) → (a < 2 ∨ s.zone.flag pSAFE SAFE0.MON_STATUS_RESET_PENDING = true) →
    Completes (.faultReport toA toB) s fun z =>
      z.safety.reports = s.zone.safety.reports.erase r ∧ z.fldBit pSAFE SAFE0.FAULT_EVENT_EVENT r.source = true ∧
      z.fld pSAFE SAFE0.MON_STATUS_LAST = r.source ∧
      z.fld pSAFE SAFE0.MON_COUNTS_TOTAL = satU 16 (s.zone.fld pSAFE SAFE0.MON_COUNTS_TOTAL + 1) ∧
      z.fld pSAFE ⟨0x200 + 4 * r.source, 0, 16⟩ = satU 16 (s.zone.fld pSAFE ⟨0x200 + 4 * r.source, 0, 16⟩ + 1) ∧
      (s.zone.records.length < 256 → z.records.length = s.zone.records.length + 1) ∧
      (s.zone.safety.log.length < 32 → z.safety.log = s.zone.safety.log ++ [(⟨r.source, a, r.injected, r.detail, r.time⟩ : FaultEntry)]) ∧
      (32 ≤ s.zone.safety.log.length → z.safety.log = s.zone.safety.log ∧ z.flag pSAFE SAFE0.MON_STATUS_LOG_OVF = true ∧ z.fld pSAFE SAFE0.MISC_COUNTS_LOG_LOST = satU SAFE0.MISC_COUNTS_LOG_LOST.w (s.zone.fld pSAFE SAFE0.MISC_COUNTS_LOG_LOST + 1)) ∧
      z.safety.latched = (if latchedSources.contains r.source && !r.injected then s.zone.safety.latched ||| 1#32 <<< r.source else s.zone.safety.latched) ∧
      z.safety.laneA.missed.getLsbD r.source = !toA ∧ z.safety.laneB.missed.getLsbD r.source = !toB ∧
      z.safety.laneA = { s.zone.safety.laneA with missed := z.safety.laneA.missed } ∧ z.safety.laneB = { s.zone.safety.laneB with missed := z.safety.laneB.missed } ∧
      z.safety.injectedAt = (if r.injected then some s.zone.mono else s.zone.safety.injectedAt) ∧
      (r.injected = true → z.fld pSAFE SAFE0.MON_COUNTS_INJECTED = satU 16 (s.zone.fld pSAFE SAFE0.MON_COUNTS_INJECTED + 1)) ∧
      z.safety.resetDue = s.zone.safety.resetDue ∧ z.safety.alarmA = s.zone.safety.alarmA ∧ z.safety.alarmB = s.zone.safety.alarmB ∧
      s.zone.BankFrame [10, 13] [.safety, .records, .log] z) ∧
  (∀ (s : State) (r : Report) (toA toB : Bool) (a : Nat), s.zone.logicRuns = true → s.zone.nextReport = some r → r.source < 28 →
    ¬ (r.source = Src.keeperBoth ∧ r.injected = false ∧ s.zone.startCounts = true) →
    a = (if r.injected then 0 else s.zone.appliedClass (if r.source = 26 then (if r.detail.toNat / 2 ^ 28 % 8 ≤ 4 then r.detail.toNat / 2 ^ 28 % 8 else 0) else s.zone.reaction r.source)) →
    (toA = true ∨ toB = true) → a = 2 → s.zone.flag pSAFE SAFE0.MON_STATUS_RESET_PENDING = false →
    Completes (.faultReport toA toB) s fun z =>
      z.safety.reports = s.zone.safety.reports.erase r ∧ z.fldBit pSAFE SAFE0.FAULT_EVENT_EVENT r.source = true ∧
      z.fld pSAFE SAFE0.MON_STATUS_LAST = r.source ∧
      z.fld pSAFE SAFE0.MON_COUNTS_TOTAL = satU 16 (s.zone.fld pSAFE SAFE0.MON_COUNTS_TOTAL + 1) ∧
      z.fld pSAFE ⟨0x200 + 4 * r.source, 0, 16⟩ = satU 16 (s.zone.fld pSAFE ⟨0x200 + 4 * r.source, 0, 16⟩ + 1) ∧
      (s.zone.records.length < 256 → z.records.length = s.zone.records.length + 1) ∧
      (s.zone.safety.log.length < 32 → z.safety.log = s.zone.safety.log ++ [(⟨r.source, a, r.injected, r.detail, r.time⟩ : FaultEntry)]) ∧
      (32 ≤ s.zone.safety.log.length → z.safety.log = s.zone.safety.log ∧ z.flag pSAFE SAFE0.MON_STATUS_LOG_OVF = true ∧ z.fld pSAFE SAFE0.MISC_COUNTS_LOG_LOST = satU SAFE0.MISC_COUNTS_LOG_LOST.w (s.zone.fld pSAFE SAFE0.MISC_COUNTS_LOG_LOST + 1)) ∧
      z.safety.latched = (if latchedSources.contains r.source && !r.injected then s.zone.safety.latched ||| 1#32 <<< r.source else s.zone.safety.latched) ∧
      z.safety.laneA.missed.getLsbD r.source = !toA ∧ z.safety.laneB.missed.getLsbD r.source = !toB ∧
      z.safety.laneA.cluster = (s.zone.safety.laneA.cluster || toA) ∧ z.safety.laneB.cluster = (s.zone.safety.laneB.cluster || toB) ∧
      z.safety.laneA.all = s.zone.safety.laneA.all ∧ z.safety.laneB.all = s.zone.safety.laneB.all ∧
      (toA = true → [1, 8, 25].contains r.source = true → z.safety.laneA.fixed = true) ∧
      z.flag pSAFE SAFE0.MON_STATUS_DEMAND_CLUSTER = true ∧
      (∀ n : Fin 48, s.zone.ownSafety n.val = true → (s.zone.load n.val).forced = false → (z.load n.val).demanded = true) ∧
      (s.zone.demandAll = false → ∀ n : Fin 48, s.zone.ownSafety n.val = false → (s.zone.load n.val).demanded = false → z.load n.val = s.zone.load n.val) ∧
      z.flag (pALARM 0) ALARM.ALARM_STATUS_FAULT_SIGNAL = true ∧ z.flag (pALARM 1) ALARM.ALARM_STATUS_FAULT_SIGNAL = true) ∧
  (∀ (s : State) (r : Report) (toA toB : Bool) (a : Nat), s.zone.logicRuns = true → s.zone.nextReport = some r → r.source < 28 →
    ¬ (r.source = Src.keeperBoth ∧ r.injected = false ∧ s.zone.startCounts = true) →
    a = (if r.injected then 0 else s.zone.appliedClass (if r.source = 26 then (if r.detail.toNat / 2 ^ 28 % 8 ≤ 4 then r.detail.toNat / 2 ^ 28 % 8 else 0) else s.zone.reaction r.source)) →
    (toA = true ∨ toB = true) → (a = 3 ∨ (a = 4 ∧ s.zone.mode ≠ Mode.service)) →
    s.zone.flag pSAFE SAFE0.MON_STATUS_RESET_PENDING = false → Completes (.faultReport toA toB) s fun z =>
      z.safety.reports = s.zone.safety.reports.erase r ∧ z.fldBit pSAFE SAFE0.FAULT_EVENT_EVENT r.source = true ∧
      z.fld pSAFE SAFE0.MON_STATUS_LAST = r.source ∧
      z.fld pSAFE SAFE0.MON_COUNTS_TOTAL = satU 16 (s.zone.fld pSAFE SAFE0.MON_COUNTS_TOTAL + 1) ∧
      z.fld pSAFE ⟨0x200 + 4 * r.source, 0, 16⟩ = satU 16 (s.zone.fld pSAFE ⟨0x200 + 4 * r.source, 0, 16⟩ + 1) ∧
      (s.zone.records.length < 256 → z.records.length = s.zone.records.length + 1) ∧
      (s.zone.safety.log.length < 32 → z.safety.log = s.zone.safety.log ++ [(⟨r.source, a, r.injected, r.detail, r.time⟩ : FaultEntry)]) ∧
      (32 ≤ s.zone.safety.log.length → z.safety.log = s.zone.safety.log ∧ z.flag pSAFE SAFE0.MON_STATUS_LOG_OVF = true ∧ z.fld pSAFE SAFE0.MISC_COUNTS_LOG_LOST = satU SAFE0.MISC_COUNTS_LOG_LOST.w (s.zone.fld pSAFE SAFE0.MISC_COUNTS_LOG_LOST + 1)) ∧
      z.safety.latched = (if latchedSources.contains r.source && !r.injected then s.zone.safety.latched ||| 1#32 <<< r.source else s.zone.safety.latched) ∧
      z.safety.laneA.missed.getLsbD r.source = !toA ∧ z.safety.laneB.missed.getLsbD r.source = !toB ∧
      z.safety.laneA.all = (s.zone.safety.laneA.all || toA) ∧ z.safety.laneB.all = (s.zone.safety.laneB.all || toB) ∧
      z.flag pSAFE SAFE0.MON_STATUS_DEMAND_ALL = true ∧
      (∀ n : Fin 48, (s.zone.load n.val).forced = false → (z.load n.val).demanded = true) ∧
      z.flag (pALARM 0) ALARM.ALARM_STATUS_FAULT_SIGNAL = true ∧ z.flag (pALARM 1) ALARM.ALARM_STATUS_FAULT_SIGNAL = true ∧
      z.safety.resetDue = s.zone.safety.resetDue ∧ z.flag pSAFE SAFE0.MON_STATUS_RESET_PENDING = false) ∧
  (∀ (s : State) (r : Report) (toA toB : Bool) (a : Nat), s.zone.logicRuns = true → s.zone.nextReport = some r → r.source < 28 →
    ¬ (r.source = Src.keeperBoth ∧ r.injected = false ∧ s.zone.startCounts = true) →
    a = (if r.injected then 0 else s.zone.appliedClass (if r.source = 26 then (if r.detail.toNat / 2 ^ 28 % 8 ≤ 4 then r.detail.toNat / 2 ^ 28 % 8 else 0) else s.zone.reaction r.source)) →
    (toA = true ∨ toB = true) → a = 4 → s.zone.mode = Mode.service → s.zone.flag pSAFE SAFE0.MON_STATUS_RESET_PENDING = false →
    s.zone.safety.resetDue = none → Completes (.faultReport toA toB) s fun z =>
      z.safety.reports = s.zone.safety.reports.erase r ∧ z.fldBit pSAFE SAFE0.FAULT_EVENT_EVENT r.source = true ∧
      z.fld pSAFE SAFE0.MON_STATUS_LAST = r.source ∧
      z.fld pSAFE SAFE0.MON_COUNTS_TOTAL = satU 16 (s.zone.fld pSAFE SAFE0.MON_COUNTS_TOTAL + 1) ∧
      z.fld pSAFE ⟨0x200 + 4 * r.source, 0, 16⟩ = satU 16 (s.zone.fld pSAFE ⟨0x200 + 4 * r.source, 0, 16⟩ + 1) ∧
      (s.zone.records.length < 256 → z.records.length = s.zone.records.length + 1) ∧
      (s.zone.safety.log.length < 32 → z.safety.log = s.zone.safety.log ++ [(⟨r.source, a, r.injected, r.detail, r.time⟩ : FaultEntry)]) ∧
      (32 ≤ s.zone.safety.log.length → z.safety.log = s.zone.safety.log ∧ z.flag pSAFE SAFE0.MON_STATUS_LOG_OVF = true ∧ z.fld pSAFE SAFE0.MISC_COUNTS_LOG_LOST = satU SAFE0.MISC_COUNTS_LOG_LOST.w (s.zone.fld pSAFE SAFE0.MISC_COUNTS_LOG_LOST + 1)) ∧
      z.safety.latched = (if latchedSources.contains r.source && !r.injected then s.zone.safety.latched ||| 1#32 <<< r.source else s.zone.safety.latched) ∧
      z.safety.resetDue = some (s.zone.mono + s.zone.fld pSAFE SAFE0.RESET_CFG_DELAY * 250000) ∧
      z.flag pSAFE SAFE0.MON_STATUS_RESET_PENDING = true ∧
      z.safety.laneA.all = (s.zone.safety.laneA.all || toA) ∧ z.safety.laneA.fixed = (s.zone.safety.laneA.fixed || toA) ∧ z.safety.laneB.all = (s.zone.safety.laneB.all || toB) ∧ z.safety.laneB.fixed = (s.zone.safety.laneB.fixed || toB) ∧
      z.safety.resetSource = r.source ∧ (∀ n : Fin 48, (s.zone.load n.val).forced = false → (z.load n.val).demanded = true) ∧
      z.flag (pALARM 0) ALARM.ALARM_STATUS_FAULT_SIGNAL = true ∧ z.flag (pALARM 1) ALARM.ALARM_STATUS_FAULT_SIGNAL = true) ∧
  (∀ (s : State) (r : Report) (toA toB : Bool), s.zone.logicRuns = true → s.zone.nextReport = some r →
    r.source = Src.keeperBoth ∧ r.injected = false ∧ s.zone.startCounts = true → (toA = true ∨ toB = true) →
    Completes (.faultReport toA toB) s fun z =>
      s.zone.FailsStart z Reason.watchLost 0) ∧
  (∀ (s : State) (r : Report), s.zone.logicRuns = true → s.zone.nextReport = some r →
    Completes (.faultReport false false) s fun z =>
      z.safety = { s.zone.safety with reports := s.zone.safety.reports.erase r } ∧ s.zone.Frame [] [.safety] z) ∧
  (∀ (s : State) (toA toB : Bool), (s.zone.logicRuns = false ∨ s.zone.safety.reports = []) →
    Completes (.faultReport toA toB) s fun z =>
      s.zone.Frame [] [] z) ∧
  (∀ (s : State) (r : Report), s.zone.nextReport = some r → Gives (s.zone) fun z =>
      r ∈ s.zone.safety.reports ∧
      (∀ x ∈ s.zone.safety.reports, x.tick = (s.zone.safety.reports.headD r).tick → r.source ≤ x.source)) ∧
  (∀ (s : State), s.zone.logicRuns = true → s.zone.paceDue Pace.lanes 25000 = true →
    (s.zone.laneActive s.zone.safety.laneA ≠ s.zone.laneActive s.zone.safety.laneB ∨ s.zone.safety.laneA.cluster ≠ s.zone.safety.laneB.cluster ∨ s.zone.safety.laneA.all ≠ s.zone.safety.laneB.all) →
    (s.zone.safety.mismatches < 4 ∨ s.zone.flag pSAFE SAFE0.MON_STATUS_LANE_MISMATCH = true) → Completes (.laneCompare) s fun z =>
      z.safety = { s.zone.safety with mismatches := s.zone.safety.mismatches + 1 } ∧ s.zone.Frame [] [.safety, .pace] z) ∧
  (∀ (s : State), s.zone.logicRuns = true → s.zone.paceDue Pace.lanes 25000 = true →
    (s.zone.laneActive s.zone.safety.laneA ≠ s.zone.laneActive s.zone.safety.laneB ∨ s.zone.safety.laneA.cluster ≠ s.zone.safety.laneB.cluster ∨ s.zone.safety.laneA.all ≠ s.zone.safety.laneB.all) →
    4 ≤ s.zone.safety.mismatches → s.zone.flag pSAFE SAFE0.MON_STATUS_LANE_MISMATCH = false → Completes (.laneCompare) s fun z =>
      z.flag pSAFE SAFE0.MON_STATUS_LANE_MISMATCH = true ∧
      z.safety = { s.zone.safety with mismatches := s.zone.safety.mismatches + 1, reports := s.zone.safety.reports ++ [⟨Src.laneMismatch, 0, false, s.zone.mono, s.zone.ts64⟩] } ∧
      s.zone.Frame [pSAFE + SAFE0.MON_STATUS_LANE_MISMATCH.off] [.safety, .pace] z) ∧
  (∀ (s : State), s.zone.logicRuns = true → s.zone.paceDue Pace.lanes 25000 = true →
    ¬ (s.zone.laneActive s.zone.safety.laneA ≠ s.zone.laneActive s.zone.safety.laneB ∨ s.zone.safety.laneA.cluster ≠ s.zone.safety.laneB.cluster ∨ s.zone.safety.laneA.all ≠ s.zone.safety.laneB.all) →
    Completes (.laneCompare) s fun z =>
      z.safety = { s.zone.safety with mismatches := 0 } ∧ s.zone.Frame [] [.safety, .pace] z) ∧
  (∀ (s : State), (s.zone.logicRuns = false ∨ s.zone.paceDue Pace.lanes 25000 = false) → Completes (.laneCompare) s fun z =>
      s.zone.Frame [] [] z) ∧
  (∀ (s : State) (writer : Writer), s.zone.writerActs writer = true → Zone.secureWriter writer = true →
    s.zone.safety.laneA.fixed = false → s.zone.safety.laneB.fixed = false →
    (∀ n : Fin 28, s.zone.active n.val = true → s.zone.reaction n.val < 2) → Completes (.demandRelease writer) s fun z =>
      z.safety = { s.zone.safety with laneA := { s.zone.safety.laneA with cluster := false, all := false }, laneB := { s.zone.safety.laneB with cluster := false, all := false } } ∧
      z.flag pSAFE SAFE0.MON_STATUS_DEMAND_ALL = false ∧ z.flag pSAFE SAFE0.MON_STATUS_DEMAND_CLUSTER = false ∧
      (∀ n : Fin 48, z.load n.val = { s.zone.load n.val with demanded := false }) ∧
      s.zone.Frame [pSAFE + SAFE0.MON_STATUS_DEMAND_ALL.off] [.loads, .safety] z) ∧
  (∀ (s : State) (writer : Writer), s.zone.writerActs writer = true → Zone.secureWriter writer = true →
    (s.zone.safety.laneA.fixed = true ∨ s.zone.safety.laneB.fixed = true ∨ ∃ n : Fin 28, s.zone.active n.val = true ∧ 2 ≤ s.zone.reaction n.val) →
    Completes (.demandRelease writer) s fun z =>
      z.fld pSAFE SAFE0.MISC_COUNTS_RELEASE_REFUSED = satU SAFE0.MISC_COUNTS_RELEASE_REFUSED.w (s.zone.fld pSAFE SAFE0.MISC_COUNTS_RELEASE_REFUSED + 1) ∧
      s.zone.Frame [pSAFE + SAFE0.MISC_COUNTS_RELEASE_REFUSED.off] [] z) ∧
  (∀ (s : State) (writer : Writer), (s.zone.writerActs writer = false ∨ Zone.secureWriter writer = false) →
    Completes (.demandRelease writer) s fun z =>
      s.zone.Frame [] [] z) ∧
  (∀ (s : State) (lane : Fin 2) (code : Nat), s.zone.logicRuns = true → s.zone.paceDue (Pace.alarm lane.val) 249750 = true →
    s.zone.mustSignal lane = false → s.zone.laneStopped lane = false →
    ((s.zone.alarm lane).toggling = false ∨ (s.zone.alarm lane).period = 11) → code = s.zone.statusCode lane →
    (s.zone.alarm lane).counter < 4 → Completes (.alarmPeriod lane) s fun z =>
      z.alarm lane = { (s.zone.alarm lane) with toggling := true, period := 0, code := code, since := s.zone.mono, counter := ((s.zone.alarm lane).counter + 1) % 4, lowUs := 500 } ∧
      z.flag (pALARM lane.val) ALARM.ALARM_STATUS_FAULT_SIGNAL = false ∧
      z.fld (pALARM lane.val) ALARM.ALARM_STATUS_CODE = code ∧ z.fld (pALARM lane.val) ALARM.ALARM_STATUS_FRAME_COUNT = (s.zone.alarm lane).counter ∧
      z.alarm (1 - lane) = s.zone.alarm (1 - lane) ∧
      s.zone.Frame [pALARM lane.val + ALARM.ALARM_STATUS_FAULT_SIGNAL.off] [.safety, .pace] z) ∧
  (∀ (s : State) (lane : Fin 2), s.zone.logicRuns = true → s.zone.paceDue (Pace.alarm lane.val) 249750 = true →
    s.zone.mustSignal lane = false → s.zone.laneStopped lane = false → (s.zone.alarm lane).toggling = true →
    (s.zone.alarm lane).period < 11 → (s.zone.alarm lane).code < 256 → (s.zone.alarm lane).counter < 4 →
    Completes (.alarmPeriod lane) s fun z =>
      z.alarm lane = { (s.zone.alarm lane) with period := (s.zone.alarm lane).period + 1, since := s.zone.mono, lowUs := if (if (s.zone.alarm lane).period < 8 then (s.zone.alarm lane).code.testBit (7 - (s.zone.alarm lane).period) else if (s.zone.alarm lane).period = 8 then decide (((List.range 8).filter fun i => (s.zone.alarm lane).code.testBit i).length % 2 = 1) else (((s.zone.alarm lane).counter + 3) % 4).testBit (10 - (s.zone.alarm lane).period)) then 750 else 250 } ∧
      z.flag (pALARM lane.val) ALARM.ALARM_STATUS_FAULT_SIGNAL = false ∧
      z.fld (pALARM lane.val) ALARM.ALARM_STATUS_CODE = (s.zone.alarm lane).code ∧ z.fld (pALARM lane.val) ALARM.ALARM_STATUS_FRAME_COUNT = ((s.zone.alarm lane).counter + 3) % 4 ∧
      z.alarm (1 - lane) = s.zone.alarm (1 - lane) ∧
      s.zone.Frame [pALARM lane.val + ALARM.ALARM_STATUS_FAULT_SIGNAL.off] [.safety, .pace] z) ∧
  (∀ (s : State) (lane : Fin 2), s.zone.logicRuns = true → s.zone.paceDue (Pace.alarm lane.val) 249750 = true →
    (s.zone.mustSignal lane = true ∨ s.zone.laneStopped lane = true) → Completes (.alarmPeriod lane) s fun z =>
      s.zone.Frame [] [.pace] z) ∧
  (∀ (s : State) (lane : Fin 2), (s.zone.logicRuns = false ∨ s.zone.paceDue (Pace.alarm lane.val) 249750 = false) →
    Completes (.alarmPeriod lane) s fun z =>
      s.zone.Frame [] [] z) ∧
  (∀ (s : State) (writer : Writer) (lane : Fin 2), s.zone.writerActs writer = true → Zone.secureWriter writer = true →
    s.zone.flag (pALARM (1 - lane.val)) ALARM.ALARM_STATUS_FAULT_SIGNAL = false → (s.zone.alarm (1 - lane)).testUntil = none →
    s.zone.mustSignal (1 - lane) = false → Completes (.alarmTest writer lane) s fun z =>
      (z.alarm lane).testUntil = some (s.zone.mono + s.zone.fld (pALARM lane.val) ALARM.ALARM_CFG_TEST_MS * 250000) ∧
      (s.zone.flag (pALARM lane.val) ALARM.ALARM_STATUS_FAULT_SIGNAL = false → (z.alarm lane).toggling = false) ∧
      z.flag (pALARM lane.val) ALARM.ALARM_STATUS_TEST_ACTIVE = true ∧
      z.flag (pALARM lane.val) ALARM.ALARM_STATUS_FAULT_SIGNAL = true ∧ z.alarm (1 - lane) = s.zone.alarm (1 - lane) ∧
      s.zone.Frame [pALARM lane.val + ALARM.ALARM_STATUS_FAULT_SIGNAL.off, pALARM lane.val + ALARM.ALARM_EVENT_FAULT_SIGNAL.off] [.safety] z) ∧
  (∀ (s : State) (writer : Writer) (lane : Fin 2), s.zone.writerActs writer = true → Zone.secureWriter writer = true →
    (s.zone.flag (pALARM (1 - lane.val)) ALARM.ALARM_STATUS_FAULT_SIGNAL = true ∨ (s.zone.alarm (1 - lane)).testUntil ≠ none) →
    Completes (.alarmTest writer lane) s fun z =>
      z.fld (pALARM lane.val) ALARM.ALARM_COUNTS_TEST_REFUSED = satU 8 (s.zone.fld (pALARM lane.val) ALARM.ALARM_COUNTS_TEST_REFUSED + 1) ∧
      s.zone.Frame [pALARM lane.val + ALARM.ALARM_COUNTS_TEST_REFUSED.off] [] z) ∧
  (∀ (s : State) (writer : Writer) (lane : Fin 2), (s.zone.writerActs writer = false ∨ Zone.secureWriter writer = false) →
    Completes (.alarmTest writer lane) s fun z =>
      s.zone.Frame [] [] z) ∧
  (∀ (s : State) (lane : Fin 2) (t : Nat), s.zone.logicRuns = true → (s.zone.alarm lane).testUntil = some t → t ≤ s.zone.mono →
    Completes (.alarmTestEnd lane) s fun z =>
      z.alarm lane = { (s.zone.alarm lane) with testUntil := none } ∧
      z.flag (pALARM lane.val) ALARM.ALARM_STATUS_TEST_ACTIVE = false ∧
      z.flag (pALARM lane.val) ALARM.ALARM_EVENT_TEST_DONE = true ∧
      z.fld (pALARM lane.val) ALARM.ALARM_COUNTS_TESTS = satU 8 (s.zone.fld (pALARM lane.val) ALARM.ALARM_COUNTS_TESTS + 1) ∧
      z.alarm (1 - lane) = s.zone.alarm (1 - lane) ∧
      s.zone.Frame [pALARM lane.val + ALARM.ALARM_STATUS_TEST_ACTIVE.off, pALARM lane.val + ALARM.ALARM_EVENT_TEST_DONE.off, pALARM lane.val + ALARM.ALARM_COUNTS_TESTS.off] [.safety] z) ∧
  (∀ (s : State) (lane : Fin 2),
    (s.zone.logicRuns = false ∨ (s.zone.alarm lane).testUntil.all (fun t => decide (s.zone.mono < t)) = true) →
    Completes (.alarmTestEnd lane) s fun z =>
      s.zone.Frame [] [] z) ∧
  (∀ (s : State) (lane : Fin 2) (pin : Bool), s.zone.logicRuns = true → s.zone.paceDue (Pace.readback lane.val) 124875 = true →
    pin = s.zone.alarmClosed lane → 2 ≤ (s.zone.alarm lane).wrong →
    s.zone.flag (pALARM lane.val) ALARM.ALARM_STATUS_READBACK_FAULT = false → Completes (.alarmReadbackCheck lane pin) s fun z =>
      z.flag (pALARM lane.val) ALARM.ALARM_STATUS_READBACK_FAULT = true ∧
      z.flag (pALARM lane.val) ALARM.ALARM_EVENT_READBACK = true ∧
      z.fld (pALARM lane.val) ALARM.ALARM_COUNTS_READBACK_ERR = satU ALARM.ALARM_COUNTS_READBACK_ERR.w (s.zone.fld (pALARM lane.val) ALARM.ALARM_COUNTS_READBACK_ERR + 1) ∧
      z.alarm lane = { (s.zone.alarm lane) with wrong := 3, right := 0 } ∧
      z.safety.reports = s.zone.safety.reports ++ [⟨Src.alarmReadback, BitVec.ofNat 32 lane.val, false, s.zone.mono, s.zone.ts64⟩] ∧
      s.zone.Frame [pALARM lane.val + ALARM.ALARM_STATUS_READBACK_FAULT.off, pALARM lane.val + ALARM.ALARM_EVENT_READBACK.off, pALARM lane.val + ALARM.ALARM_COUNTS_READBACK_ERR.off] [.safety, .pace] z) ∧
  (∀ (s : State) (lane : Fin 2) (pin : Bool), s.zone.logicRuns = true → s.zone.paceDue (Pace.readback lane.val) 124875 = true →
    pin = s.zone.alarmClosed lane →
    ((s.zone.alarm lane).wrong < 2 ∨ s.zone.flag (pALARM lane.val) ALARM.ALARM_STATUS_READBACK_FAULT = true) →
    Completes (.alarmReadbackCheck lane pin) s fun z =>
      z.alarm lane = { (s.zone.alarm lane) with wrong := min 3 ((s.zone.alarm lane).wrong + 1), right := 0 } ∧
      z.fld (pALARM lane.val) ALARM.ALARM_COUNTS_READBACK_ERR = satU ALARM.ALARM_COUNTS_READBACK_ERR.w (s.zone.fld (pALARM lane.val) ALARM.ALARM_COUNTS_READBACK_ERR + 1) ∧
      z.safety.reports = s.zone.safety.reports ∧
      s.zone.Frame [pALARM lane.val + ALARM.ALARM_COUNTS_READBACK_ERR.off] [.safety, .pace] z) ∧
  (∀ (s : State) (lane : Fin 2) (pin : Bool), s.zone.logicRuns = true → s.zone.paceDue (Pace.readback lane.val) 124875 = true →
    pin ≠ s.zone.alarmClosed lane → Completes (.alarmReadbackCheck lane pin) s fun z =>
      z.flag (pALARM lane.val) ALARM.ALARM_STATUS_READBACK_FAULT = (s.zone.flag (pALARM lane.val) ALARM.ALARM_STATUS_READBACK_FAULT && decide ((s.zone.alarm lane).right < 15)) ∧
      z.alarm lane = { (s.zone.alarm lane) with wrong := 0, right := min 16 ((s.zone.alarm lane).right + 1) } ∧
      z.safety.reports = s.zone.safety.reports ∧
      s.zone.Frame [pALARM lane.val + ALARM.ALARM_STATUS_READBACK_FAULT.off] [.safety, .pace] z) ∧
  (∀ (s : State) (lane : Fin 2) (pin : Bool),
    (s.zone.logicRuns = false ∨ s.zone.paceDue (Pace.readback lane.val) 124875 = false) →
    Completes (.alarmReadbackCheck lane pin) s fun z =>
      s.zone.Frame [] [] z) ∧
  (∀ (s : State) (writer : Writer), s.zone.writerActs writer = true → Zone.secureWriter writer = true →
    s.zone.safety.log.length ≤ 32 → Completes (.safeLogPop writer) s fun z =>
      z.safety = { s.zone.safety with log := s.zone.safety.log.drop 1 } ∧
      z.fld pSAFE SAFE0.LOG_LEVEL_LEVEL = (s.zone.safety.log.drop 1).length ∧
      z.flag pSAFE SAFE0.LOG_HEAD_VALID = !(s.zone.safety.log.drop 1).isEmpty ∧
      (∀ e ∈ (s.zone.safety.log.drop 1).head?.toList, e.source < 64 → z.fld pSAFE SAFE0.LOG_HEAD_SOURCE = e.source ∧ z.fld pSAFE SAFE0.LOG_DETAIL_DETAIL = e.detail.toNat ∧ z.flag pSAFE SAFE0.LOG_HEAD_INJECTED = e.injected) ∧
      z.flag pSAFE SAFE0.MON_STATUS_LOG_OVF = (s.zone.flag pSAFE SAFE0.MON_STATUS_LOG_OVF && !(s.zone.safety.log.drop 1).isEmpty) ∧
      s.zone.BankFrame [13] [.safety] z) ∧
  (∀ (s : State) (writer : Writer), (s.zone.writerActs writer = false ∨ Zone.secureWriter writer = false) →
    Completes (.safeLogPop writer) s fun z =>
      s.zone.Frame [] [] z) ∧
  (∀ (s : State) (p : Fin 1000) (t : ScrubTarget), (s.zone.mode = Mode.service ∨ s.zone.mode = Mode.lightship) →
    Completes (.scrubRead t .clean p) s fun z =>
      z.fld pSAFE SAFE0.SCRUB_STATUS_PROGRESS = p.val ∧
      z.fld pSAFE SAFE0.SCRUB_STATUS_PASSES = (if p.val < s.zone.fld pSAFE SAFE0.SCRUB_STATUS_PROGRESS then satU SAFE0.SCRUB_STATUS_PASSES.w (s.zone.fld pSAFE SAFE0.SCRUB_STATUS_PASSES + 1) else s.zone.fld pSAFE SAFE0.SCRUB_STATUS_PASSES) ∧
      s.zone.Frame [pSAFE + SAFE0.SCRUB_STATUS_PROGRESS.off] [] z) ∧
  (∀ (s : State) (p : Fin 1000), (s.zone.mode = Mode.service ∨ s.zone.mode = Mode.lightship) →
    Completes (.scrubRead .other .corrected p) s fun z =>
      z.fld pSAFE SAFE0.SCRUB_STATUS_PROGRESS = p.val ∧
      z.fld pSAFE SAFE0.SCRUB_STATUS_PASSES = (if p.val < s.zone.fld pSAFE SAFE0.SCRUB_STATUS_PROGRESS then satU SAFE0.SCRUB_STATUS_PASSES.w (s.zone.fld pSAFE SAFE0.SCRUB_STATUS_PASSES + 1) else s.zone.fld pSAFE SAFE0.SCRUB_STATUS_PASSES) ∧
      z.fld pSAFE SAFE0.SCRUB_COUNTS_CE = satU 16 (s.zone.fld pSAFE SAFE0.SCRUB_COUNTS_CE + 1) ∧
      s.zone.Frame [pSAFE + SAFE0.SCRUB_STATUS_PROGRESS.off, pSAFE + SAFE0.SCRUB_COUNTS_CE.off] [] z) ∧
  (∀ (s : State) (p : Fin 1000) (core : BitVec 2) (addr : BitVec 16),
    (s.zone.mode = Mode.service ∨ s.zone.mode = Mode.lightship) →
    Completes (.scrubRead (.safety core addr) .corrected p) s fun z =>
      z.fld pSAFE SAFE0.SCRUB_STATUS_PROGRESS = p.val ∧
      z.fld pSAFE SAFE0.SCRUB_STATUS_PASSES = (if p.val < s.zone.fld pSAFE SAFE0.SCRUB_STATUS_PROGRESS then satU SAFE0.SCRUB_STATUS_PASSES.w (s.zone.fld pSAFE SAFE0.SCRUB_STATUS_PASSES + 1) else s.zone.fld pSAFE SAFE0.SCRUB_STATUS_PASSES) ∧
      z.fld pSAFE SAFE0.SCRUB_COUNTS_CE = satU 16 (s.zone.fld pSAFE SAFE0.SCRUB_COUNTS_CE + 1) ∧
      s.zone.Frame [pSAFE + SAFE0.SCRUB_STATUS_PROGRESS.off, pSAFE + SAFE0.SCRUB_COUNTS_CE.off] [] z) ∧
  (∀ (s : State) (p : Fin 1000) (t : ScrubTarget) (k : Keeper), (s.zone.mode = Mode.service ∨ s.zone.mode = Mode.lightship) →
    (t = .chart k ∨ t = .table k) → Completes (.scrubRead t .corrected p) s fun z =>
      z.fld pSAFE SAFE0.SCRUB_STATUS_PROGRESS = p.val ∧
      z.fld pSAFE SAFE0.SCRUB_STATUS_PASSES = (if p.val < s.zone.fld pSAFE SAFE0.SCRUB_STATUS_PROGRESS then satU SAFE0.SCRUB_STATUS_PASSES.w (s.zone.fld pSAFE SAFE0.SCRUB_STATUS_PASSES + 1) else s.zone.fld pSAFE SAFE0.SCRUB_STATUS_PASSES) ∧
      z.fld pSAFE SAFE0.SCRUB_COUNTS_CE = satU 16 (s.zone.fld pSAFE SAFE0.SCRUB_COUNTS_CE + 1) ∧
      z.fld (pKEEPER k) KEEPER.MISC_COUNTS_CHART_CE = satU KEEPER.MISC_COUNTS_CHART_CE.w (s.zone.fld (pKEEPER k) KEEPER.MISC_COUNTS_CHART_CE + 1) ∧
      s.zone.Frame [pSAFE + SAFE0.SCRUB_STATUS_PROGRESS.off, pSAFE + SAFE0.SCRUB_COUNTS_CE.off, pKEEPER k + KEEPER.MISC_COUNTS_CHART_CE.off] [] z) ∧
  (∀ (s : State) (p : Fin 1000) (core : BitVec 2) (addr : BitVec 16),
    (s.zone.mode = Mode.service ∨ s.zone.mode = Mode.lightship) → Completes (.scrubRead (.safety core addr) .double p) s fun z =>
      z.fld pSAFE SAFE0.SCRUB_STATUS_PROGRESS = p.val ∧
      z.fld pSAFE SAFE0.SCRUB_STATUS_PASSES = (if p.val < s.zone.fld pSAFE SAFE0.SCRUB_STATUS_PROGRESS then satU SAFE0.SCRUB_STATUS_PASSES.w (s.zone.fld pSAFE SAFE0.SCRUB_STATUS_PASSES + 1) else s.zone.fld pSAFE SAFE0.SCRUB_STATUS_PASSES) ∧
      z.fld pSAFE SAFE0.SCRUB_COUNTS_UE = satU 16 (s.zone.fld pSAFE SAFE0.SCRUB_COUNTS_UE + 1) ∧
      s.zone.Reports z Src.eccSafety (BitVec.ofNat 32 (core.toNat + addr.toNat * 65536)) ∧
      s.zone.Frame [pSAFE + SAFE0.SCRUB_STATUS_PROGRESS.off, pSAFE + SAFE0.SCRUB_COUNTS_UE.off] [.safety] z) ∧
  (∀ (s : State) (p : Fin 1000), (s.zone.mode = Mode.service ∨ s.zone.mode = Mode.lightship) →
    Completes (.scrubRead .other .double p) s fun z =>
      z.fld pSAFE SAFE0.SCRUB_STATUS_PROGRESS = p.val ∧
      z.fld pSAFE SAFE0.SCRUB_STATUS_PASSES = (if p.val < s.zone.fld pSAFE SAFE0.SCRUB_STATUS_PROGRESS then satU SAFE0.SCRUB_STATUS_PASSES.w (s.zone.fld pSAFE SAFE0.SCRUB_STATUS_PASSES + 1) else s.zone.fld pSAFE SAFE0.SCRUB_STATUS_PASSES) ∧
      z.fld pSAFE SAFE0.SCRUB_COUNTS_UE = satU 16 (s.zone.fld pSAFE SAFE0.SCRUB_COUNTS_UE + 1) ∧
      s.zone.Reports z Src.eccOther 0 ∧
      s.zone.Frame [pSAFE + SAFE0.SCRUB_STATUS_PROGRESS.off, pSAFE + SAFE0.SCRUB_COUNTS_UE.off] [.safety] z) ∧
  (∀ (s : State) (p : Fin 1000) (t : ScrubTarget) (k : Keeper), (s.zone.mode = Mode.service ∨ s.zone.mode = Mode.lightship) →
    (t = .chart k ∨ t = .table k) → s.zone.role k ≠ Role.stopped ∧ s.zone.role k ≠ Role.failed ∧ s.zone.role k ≠ Role.fenced →
    Completes (.scrubRead t .double p) s fun z =>
      z.fld pSAFE SAFE0.SCRUB_STATUS_PROGRESS = p.val ∧
      z.fld pSAFE SAFE0.SCRUB_STATUS_PASSES = (if p.val < s.zone.fld pSAFE SAFE0.SCRUB_STATUS_PROGRESS then satU SAFE0.SCRUB_STATUS_PASSES.w (s.zone.fld pSAFE SAFE0.SCRUB_STATUS_PASSES + 1) else s.zone.fld pSAFE SAFE0.SCRUB_STATUS_PASSES) ∧
      z.fld pSAFE SAFE0.SCRUB_COUNTS_UE = satU 16 (s.zone.fld pSAFE SAFE0.SCRUB_COUNTS_UE + 1) ∧ z.role k = Role.failed ∧
      z.fld (pKEEPER k) KEEPER.SELF_CHECK_CAUSE = (if t = .chart k then 1 else 2) ∧ (z.keeper k).inStep = false ∧
      s.zone.safety.reports.length < z.safety.reports.length) ∧
  (∀ (s : State) (p : Fin 1000) (t : ScrubTarget) (e : EccResult), s.zone.mode ≠ Mode.service ∧ s.zone.mode ≠ Mode.lightship →
    Completes (.scrubRead t e p) s fun z =>
      s.zone.Frame [] [] z)

/-! ### Tamva words -/

/-- R124: a legal word with a listed opcode is that opcode's instruction, its fields read from the bits that its format gives; a
word with another opcode, the all-zero word among them, is no instruction; NOP is 0xF8000000 and END is 0xFC000000. -/
def Obligations.OpcodesSelectTheirInstruction : Prop :=
  (∀ (k : Keeper) (a : Bool) (w : Word) (c : Instr), tDecode k a w = some c →
    let d := Fin.ofNat 16 (w.extractLsb' 22 4).toNat
    let x := Fin.ofNat 16 (w.extractLsb' 18 4).toNat
    let y := Fin.ofNat 16 (w.extractLsb' 14 4).toNat
    let f := w.getLsbD 13
    let u := w.getLsbD 12
    let n := Fin.ofNat 32 (w.extractLsb' 0 5).toNat
    let m := if w.getLsbD 11 then Amount.imm n else Amount.reg y
    let i := w.extractLsb' 0 16
    let r := w.extractLsb' 0 14
    let g : PageArg := ⟨w.extractLsb' 14 4, w.extractLsb' 6 8⟩
    let o := w.extractLsb' 0 6
    let t := if w.getLsbD 17 then TicketArg.imm (Fin.ofNat 128 (w.extractLsb' 0 7).toNat) else TicketArg.reg x
    let q := Fin.ofNat 256 (w.extractLsb' 0 8).toNat
    let p := (w.extractLsb' 26 6).toNat
    (p = 0x01 ∧ c = .opAdd k d x y f) ∨ (p = 0x02 ∧ c = .opSub k d x y f) ∨ (p = 0x03 ∧ c = .opAnd k d x y f) ∨
    (p = 0x04 ∧ c = .opOr k d x y f) ∨ (p = 0x05 ∧ c = .opXor k d x y f) ∨ (p = 0x06 ∧ c = .opShl k d x m f) ∨
    (p = 0x07 ∧ c = .opShr k d x m f) ∨ (p = 0x08 ∧ c = .opSra k d x m f) ∨ (p = 0x09 ∧ c = .opMul k d x y f u) ∨
    (p = 0x0A ∧ c = .opMulh k d x y f u) ∨ (p = 0x0B ∧ c = .opMin k d x y f u) ∨ (p = 0x0C ∧ c = .opMax k d x y f u) ∨
    (p = 0x0D ∧ c = .opSat k d x n f u) ∨ (p = 0x10 ∧ c = .opAddi k d x (w.getLsbD 17) i) ∨
    (p = 0x11 ∧ c = .opAndi k d x (w.getLsbD 17) i) ∨ (p = 0x12 ∧ c = .opOri k d x (w.getLsbD 17) i) ∨
    (p = 0x13 ∧ c = .opXori k d x (w.getLsbD 17) i) ∨ (p = 0x14 ∧ c = .opLui k d i) ∨ (p = 0x15 ∧ c = .opCmpi k x i) ∨
    (p = 0x18 ∧ c = .opCmp k x y) ∨ (p = 0x19 ∧ c = .opTst k x y) ∨ (p = 0x20 ∧ c = .opLdc k d r) ∨
    (p = 0x21 ∧ c = .opStc k d r) ∨ (p = 0x22 ∧ c = .opLdcx k d x r) ∨ (p = 0x23 ∧ c = .opStcx k d x r) ∨
    (p = 0x24 ∧ c = .opMirr k d) ∨ (p = 0x28 ∧ c = .opCrd k d g o) ∨ (p = 0x2A ∧ c = .opCop k d (w.extractLsb' 18 4) g o) ∨
    (p = 0x2B ∧ c = .opChkt k t) ∨ (p = 0x2C ∧ c = .opTkr k d t) ∨ (p = 0x2D ∧ c = .opCrdx k d x g a) ∨
    (p = 0x2E ∧ c = .opCwrx k d x g) ∨ (p = 0x30 ∧ c = .opQpop k d q) ∨ (p = 0x31 ∧ c = .opQpush k d q) ∨
    (p = 0x32 ∧ c = .opQlen k d (w.getLsbD 8) q) ∨ (p = 0x34 ∧ c = .opTnow k d) ∨ (p = 0x35 ∧ c = .opTsec k d) ∨
    (p = 0x36 ∧ c = .opTslot k d) ∨ (p = 0x38 ∧ c = .opEvt k d i) ∨ (p = 0x39 ∧ c = .opFlt k d i) ∨ (p = 0x3E ∧ c = .opNop k) ∨
    (p = 0x3F ∧ c = .opEnd k) ∨
    (p = 0x29 ∧ c = (match (w.extractLsb' 18 4).toNat with | 0 => .opCwr k d g o | 1 => .opCwrSet k d g o | 2 => .opCwrClr k d g o | _ => .opCwrTgl k d g o)) ∨
    (p = 0x1A ∧ ∃ (cc m : Fin 15), cc.val = (w.extractLsb' 22 4).toNat ∧ m.val + 1 = (w.extractLsb' 0 4).toNat ∧ c = .opSkip k cc m)) ∧
  (∀ (k : Keeper) (a : Bool) (w : Word), ¬ (w.extractLsb' 26 6).toNat ∈
    [1, 2, 3, 4, 5, 6, 7, 8, 9, 0x0A, 0x0B, 0x0C, 0x0D, 0x10, 0x11, 0x12, 0x13, 0x14, 0x15, 0x18, 0x19, 0x1A, 0x20, 0x21, 0x22, 0x23,
     0x24, 0x28, 0x29, 0x2A, 0x2B, 0x2C, 0x2D, 0x2E, 0x30, 0x31, 0x32, 0x34, 0x35, 0x36, 0x38, 0x39, 0x3E, 0x3F] →
    tDecode k a w = none) ∧
  (∀ (k : Keeper) (a : Bool), tDecode k a 0 = none ∧ tDecode k a 0xF8000000#32 = some (.opNop k) ∧
    tDecode k a 0xFC000000#32 = some (.opEnd k))

/-- R112, R123, R124, R130, R166: for every Tamva instruction that has a word, with every operand at every value, the word decodes
in its keeper to that instruction (a CRDX up to whether its word arrives, which no bit says); and whatever a word decodes to has
that word and no other, NOP and END up to bits [25:22], whose WD no rule makes zero there. -/
def Obligations.TamvaWordsDecodeBack : Prop :=
  (∀ (c : Instr) (w : Word), tEncode c = some w → ∃ (k : Keeper) (a : Bool), tamvaKeeper c = some k ∧ tDecode k a w = some c) ∧
  (∀ (k : Keeper) (a : Bool) (w : Word) (c : Instr), tDecode k a w = some c → tamvaKeeper c = some k ∧
    (tEncode c = some w ∨ ((c = .opNop k ∨ c = .opEnd k) ∧ tEncode c = some (w &&& 0xFC3FFFFF#32)))) ∧
  (∀ (k : Keeper) (w : Word) (c c' : Instr), tDecode k true w = some c → tDecode k false w = some c' →
    c = c' ∨ ∃ d x g, c = .opCrdx k d x g true ∧ c' = .opCrdx k d x g false)

/-! ### The module -/

/-- R46, R376: for every command c and state s with c at the front of its queue, step of s is exec of c on s with the queue's
rest; with nothing waiting, one tick of the time base passes and the queue stays empty. -/
def Obligations.StepTakesTheFrontCommand : Prop :=
  (∀ (s : State) (c : Instr) (rest : List Instr), s.pending = c :: rest → step s = exec c { s with pending := rest }) ∧
  (∀ s : State, s.pending = [] → step s = .next { s with zone := s.zone.tick })

/-- R10, R46: for every command c and every state s, exec c s answers a next state whose queue is that of s: no command of this
block faults or is refused. -/
def Obligations.EveryCommandCompletes : Prop :=
  ∀ (c : Instr) (s : State), ∃ z : Zone, exec c s = .next { s with zone := z }

/-- R39, R44, R506, R664: at State.reset nothing waits, the module is in START, every register word has its reset value, memory
lists nothing, both hold their canonical form, and each memory controller has region 0 over its whole range for the secure world
and no other; what memory then reads as is log entry 6. -/
def Obligations.ResetIsTheEntryToStart : Prop :=
  State.reset.pending = [] ∧ State.reset.zone.mode = .start ∧ State.reset.zone.canonical = true ∧ State.reset.zone.mem = [] ∧
  (∀ k : Nat, State.reset.zone.rd k = resetWord k) ∧
  (∀ (c : Fin 13) (src : Source) (rd wr : Bool) (a n : Nat), src.world = .secure → (controllerRange (c.val + 1)).1 * 4096 ≤ a →
    a + n ≤ ((controllerRange (c.val + 1)).2 + 1) * 4096 → 0 < n →
    State.reset.zone.permitted (c.val + 1) src rd wr a n = true) ∧
  (∀ (c : Fin 13) (src : Source) (rd wr : Bool) (a n : Nat), src.world = .normal → (rd || wr) = true →
    State.reset.zone.permitted (c.val + 1) src rd wr a n = false)

/-- R14, R501: in every state whose register words and memory bytes are held in canonical form (addresses rising, nothing listed
that an unlisted address reads as), a step that answers a next state leaves them so; equal contents are therefore equal data. -/
def Obligations.CanonicalFormIsKept : Prop :=
  ∀ s t : State, s.zone.canonical = true → step s = .next t → t.zone.canonical = true

/-- R39, R461: in every state of the module, whatever command a step runs, the module state stays as it was, or goes to OFF, or
changes by a row of R39 with the ENTRY_CAUSE of that row. -/
def Obligations.StateChangesOnlyByTheTable : Prop :=
  ∀ s t : State, step s = .next t →
    t.zone.mode = s.zone.mode ∨ t.zone.mode = .off ∨
    (s.zone.mode, t.zone.mode, t.zone.fld (pZONE 0) ZONE0.STATE_ENTRY_CAUSE) ∈
      [(Mode.off, Mode.start, Cause.supply), (.sleep, .start, Cause.wake), (.start, .lightship, Cause.startLimit),
       (.start, .service, Cause.started), (.service, .sleep, Cause.sleepCommit), (.lightship, .sleep, Cause.sleepCommit),
       (.service, .start, Cause.safetyReset), (.service, .start, Cause.reset), (.lightship, .start, Cause.reset),
       (.test, .start, Cause.reset), (.lightship, .start, Cause.lightshipExit), (.service, .test, Cause.testEntry),
       (.lightship, .test, Cause.testEntry), (.test, .start, Cause.testExit)]
end

