-- ==== Sys2Proof/Laws/Bits.lean ====
section
/-! SUPPORT. The laws of bit fields: a field reads as it was put, and putting it leaves every field beside it alone. -/

namespace Sys2Proof.Machine

theorem Fld.get_eq (f : Fld) (w : Word) : f.get w = (w.extractLsb' f.lo f.w).toNat := by
  simp [Fld.get, BitVec.extractLsb'_toNat]

theorem Fld.testBit_get (f : Fld) (w : Word) (i : Nat) : (f.get w).testBit i = (decide (i < f.w) && w.getLsbD (f.lo + i)) := by
  simp [Fld.get, Nat.testBit_mod_two_pow, Nat.testBit_shiftRight, BitVec.getLsbD]

theorem Fld.getLsbD_put (f : Fld) (w : Word) (v i : Nat) (hi : i < 32) :
    (f.put w v).getLsbD i = if f.lo ≤ i ∧ i < f.lo + f.w then v.testBit (i - f.lo) else w.getLsbD i := by
  simp only [Fld.put, BitVec.getLsbD_or, BitVec.getLsbD_and, BitVec.getLsbD_not, BitVec.getLsbD_ofNat, Nat.testBit_shiftLeft,
    Nat.testBit_two_pow_sub_one, Nat.testBit_mod_two_pow, hi, decide_true, Bool.true_and, ge_iff_le]
  by_cases h1 : f.lo ≤ i
  · by_cases h2 : i < f.lo + f.w
    · have : i - f.lo < f.w := by omega
      simp [h1, h2, this]
    · have : ¬ i - f.lo < f.w := by omega
      simp [h1, h2, this]
  · simp [h1]

/-- A field of a word reads as it was put. -/
theorem Fld.get_put (f : Fld) (w : Word) (v : Nat) (h : f.lo + f.w ≤ 32) : f.get (f.put w v) = v % 2 ^ f.w := by
  apply Nat.eq_of_testBit_eq
  intro i
  rw [Fld.testBit_get, Nat.testBit_mod_two_pow]
  by_cases hi : i < f.w
  · rw [Fld.getLsbD_put f w v _ (by omega)]
    simp [hi]
  · simp [hi]

/-- Putting a field leaves a field beside it alone. -/
theorem Fld.get_put_ne (f g : Fld) (w : Word) (v : Nat) (hg : g.lo + g.w ≤ 32) (h : f.lo + f.w ≤ g.lo ∨ g.lo + g.w ≤ f.lo) :
    g.get (f.put w v) = g.get w := by
  apply Nat.eq_of_testBit_eq
  intro i
  rw [Fld.testBit_get, Fld.testBit_get]
  by_cases hi : i < g.w
  · rw [Fld.getLsbD_put f w v _ (by omega), if_neg (by omega)]
  · simp [hi]

theorem Fld.get_lt (f : Fld) (w : Word) : f.get w < 2 ^ f.w := Nat.mod_lt _ (Nat.two_pow_pos _)

theorem satU_le (w n : Nat) : satU w n ≤ 2 ^ w - 1 := Nat.min_le_right _ _

theorem satU_lt (w n : Nat) : satU w n < 2 ^ w := by
  have := satU_le w n
  have := Nat.two_pow_pos w
  omega

theorem b2n_lt (b : Bool) : b2n b < 2 := by cases b <;> decide

end Sys2Proof.Machine
end

