-- ==== Sys2Proof/Laws/SMap.lean ====
section
/-! SUPPORT. The laws of sparse maps: read after write, and every operation keeps the canonical form. -/

namespace Sys2Proof.Machine

variable {α : Type}

theorem SMap.get_insert_same (d : Nat → α) (m : SMap α) (k : Nat) (v : α) :
    SMap.get d (SMap.insert m k v) k = v := by
  induction m with
  | nil => simp [SMap.insert, SMap.get]
  | cons e r ih =>
    obtain ⟨j, w⟩ := e
    simp only [SMap.insert]
    split
    · simp [SMap.get]
    · split
      · simp [SMap.get]
      · simp only [SMap.get]
        split
        · omega
        · exact ih

theorem SMap.get_insert_ne (d : Nat → α) (m : SMap α) (k l : Nat) (v : α) (h : l ≠ k) :
    SMap.get d (SMap.insert m k v) l = SMap.get d m l := by
  induction m with
  | nil => simp [SMap.insert, SMap.get, Ne.symm h]
  | cons e r ih =>
    obtain ⟨j, w⟩ := e
    simp only [SMap.insert]
    split
    · simp [SMap.get, Ne.symm h]
    · split
      · rename_i _ hk
        simp [SMap.get, hk ▸ Ne.symm h, Ne.symm h]
      · simp only [SMap.get, ih]

theorem SMap.get_erase_ne (d : Nat → α) (m : SMap α) (k l : Nat) (h : l ≠ k) :
    SMap.get d (SMap.erase m k) l = SMap.get d m l := by
  induction m with
  | nil => rfl
  | cons e r ih =>
    obtain ⟨j, w⟩ := e
    simp only [SMap.erase]
    split
    · rename_i hj
      simp [SMap.get, hj, Ne.symm h, ih]
    · simp only [SMap.get, ih]

theorem SMap.wfFrom_mono [DecidableEq α] (d : Nat → α) (m : SMap α) (a b : Nat) (h : a ≤ b)
    (hw : SMap.wfFrom d b m = true) : SMap.wfFrom d a m = true := by
  cases m with
  | nil => rfl
  | cons e r =>
    obtain ⟨j, v⟩ := e
    simp only [SMap.wfFrom, Bool.and_eq_true, decide_eq_true_eq] at hw ⊢
    exact ⟨by omega, hw.2⟩

theorem SMap.get_of_lt [DecidableEq α] (d : Nat → α) (m : SMap α) (lo k : Nat) (h : k < lo)
    (hw : SMap.wfFrom d lo m = true) : SMap.get d m k = d k := by
  induction m generalizing lo with
  | nil => rfl
  | cons e r ih =>
    obtain ⟨j, v⟩ := e
    simp only [SMap.wfFrom, Bool.and_eq_true, decide_eq_true_eq] at hw
    simp only [SMap.get]
    rw [if_neg (by omega)]
    exact ih (j + 1) (by omega) hw.2.2

theorem SMap.get_erase_same (d : Nat → α) (m : SMap α) (k : Nat) :
    SMap.get d (SMap.erase m k) k = d k := by
  induction m with
  | nil => rfl
  | cons e r ih =>
    obtain ⟨j, v⟩ := e
    simp only [SMap.erase]
    split
    · exact ih
    · rename_i hj
      simp only [SMap.get, if_neg hj]
      exact ih

theorem SMap.wfFrom_erase [DecidableEq α] (d : Nat → α) (m : SMap α) (lo k : Nat)
    (hw : SMap.wfFrom d lo m = true) : SMap.wfFrom d lo (SMap.erase m k) = true := by
  induction m generalizing lo with
  | nil => rfl
  | cons e r ih =>
    obtain ⟨j, v⟩ := e
    simp only [SMap.wfFrom, Bool.and_eq_true, decide_eq_true_eq] at hw
    simp only [SMap.erase]
    split
    · exact SMap.wfFrom_mono d _ lo (j + 1) (by omega) (ih (j + 1) hw.2.2)
    · simp only [SMap.wfFrom, Bool.and_eq_true, decide_eq_true_eq]
      exact ⟨hw.1, hw.2.1, ih (j + 1) hw.2.2⟩

theorem SMap.wfFrom_insert [DecidableEq α] (d : Nat → α) (m : SMap α) (lo k : Nat) (v : α) (hk : lo ≤ k)
    (hv : v ≠ d k) (hw : SMap.wfFrom d lo m = true) : SMap.wfFrom d lo (SMap.insert m k v) = true := by
  induction m generalizing lo with
  | nil => simp [SMap.insert, SMap.wfFrom, hk, hv]
  | cons e r ih =>
    obtain ⟨j, w⟩ := e
    simp only [SMap.wfFrom, Bool.and_eq_true, decide_eq_true_eq] at hw
    simp only [SMap.insert]
    split
    · simp only [SMap.wfFrom, Bool.and_eq_true, decide_eq_true_eq]
      exact ⟨hk, hv, by omega, hw.2⟩
    · split
      · rename_i _ hj
        subst hj
        simp only [SMap.wfFrom, Bool.and_eq_true, decide_eq_true_eq]
        exact ⟨hk, hv, hw.2.2⟩
      · simp only [SMap.wfFrom, Bool.and_eq_true, decide_eq_true_eq]
        exact ⟨hw.1, hw.2.1, ih (j + 1) (by omega) hw.2.2⟩

/-- Every write keeps the canonical form. -/
theorem SMap.wf_set [DecidableEq α] (d : Nat → α) (m : SMap α) (k : Nat) (v : α)
    (hw : SMap.wf d m = true) : SMap.wf d (SMap.set d m k v) = true := by
  unfold SMap.set
  split
  · exact SMap.wfFrom_erase d m 0 k hw
  · rename_i hv
    exact SMap.wfFrom_insert d m 0 k v (Nat.zero_le k) hv hw

/-- A read after a write of the same key gives the value written. -/
theorem SMap.get_set_same [DecidableEq α] (d : Nat → α) (m : SMap α) (k : Nat) (v : α) : SMap.get d (SMap.set d m k v) k = v := by
  unfold SMap.set
  split
  · rename_i hv
    rw [hv]
    exact SMap.get_erase_same d m k
  · exact SMap.get_insert_same d m k v

/-- A write leaves every other key alone. -/
theorem SMap.get_set_ne [DecidableEq α] (d : Nat → α) (m : SMap α) (k l : Nat) (v : α) (h : l ≠ k) :
    SMap.get d (SMap.set d m k v) l = SMap.get d m l := by
  unfold SMap.set
  split
  · exact SMap.get_erase_ne d m k l h
  · exact SMap.get_insert_ne d m k l v h

theorem SMap.wfFrom_keep [DecidableEq α] (d : Nat → α) (p : Nat → Bool) (m : SMap α) (lo : Nat)
    (hw : SMap.wfFrom d lo m = true) : SMap.wfFrom d lo (SMap.keep p m) = true := by
  induction m generalizing lo with
  | nil => rfl
  | cons e r ih =>
    obtain ⟨j, v⟩ := e
    simp only [SMap.wfFrom, Bool.and_eq_true, decide_eq_true_eq] at hw
    have hr := ih (j + 1) hw.2.2
    simp only [SMap.keep] at hr ⊢
    rw [List.filter_cons]
    split
    · simp only [SMap.wfFrom, Bool.and_eq_true, decide_eq_true_eq]
      exact ⟨hw.1, hw.2.1, hr⟩
    · exact SMap.wfFrom_mono d _ lo (j + 1) (by omega) hr

/-- Restricting a map keeps the canonical form. -/
theorem SMap.wf_keep [DecidableEq α] (d : Nat → α) (p : Nat → Bool) (m : SMap α)
    (hw : SMap.wf d m = true) : SMap.wf d (SMap.keep p m) = true :=
  SMap.wfFrom_keep d p m 0 hw

end Sys2Proof.Machine
end

