-- ==== Sys2Proof/Laws/State.lean ====
section
/-! SUPPORT. What each update of the module leaves as it was: one lemma per part of the state and update, true by rfl, so that no
proof unfolds a record update. -/

namespace Sys2Proof.Machine.Zone

variable (s : Zone) (p k n : Nat) (f : Fld) (v : Nat) (w : Word) (b : Bool)

/-! ### wr -/

@[simp] theorem wr_mono : (s.wr k w).mono = s.mono := rfl
@[simp] theorem wr_freeNext : (s.wr k w).freeNext = s.freeNext := rfl
@[simp] theorem wr_time : (s.wr k w).time = s.time := rfl
@[simp] theorem wr_safety : (s.wr k w).safety = s.safety := rfl
@[simp] theorem wr_records : (s.wr k w).records = s.records := rfl
@[simp] theorem wr_supv : (s.wr k w).supv = s.supv := rfl
@[simp] theorem wr_tickets : (s.wr k w).tickets = s.tickets := rfl
@[simp] theorem wr_ticketSerial : (s.wr k w).ticketSerial = s.ticketSerial := rfl
@[simp] theorem wr_keeperSlots : (s.wr k w).keeperSlots = s.keeperSlots := rfl
@[simp] theorem wr_gens : (s.wr k w).gens = s.gens := rfl
@[simp] theorem wr_loads : (s.wr k w).loads = s.loads := rfl
@[simp] theorem wr_sagsA : (s.wr k w).sagsA = s.sagsA := rfl
@[simp] theorem wr_sagsB : (s.wr k w).sagsB = s.sagsB := rfl
@[simp] theorem wr_supply : (s.wr k w).supply = s.supply := rfl
@[simp] theorem wr_inputs : (s.wr k w).inputs = s.inputs := rfl
@[simp] theorem wr_cals : (s.wr k w).cals = s.cals := rfl
@[simp] theorem wr_bal : (s.wr k w).bal = s.bal := rfl
@[simp] theorem wr_tsq : (s.wr k w).tsq = s.tsq := rfl
@[simp] theorem wr_switch : (s.wr k w).switch = s.switch := rfl
@[simp] theorem wr_rings : (s.wr k w).rings = s.rings := rfl
@[simp] theorem wr_cans : (s.wr k w).cans = s.cans := rfl
@[simp] theorem wr_lins : (s.wr k w).lins = s.lins := rfl
@[simp] theorem wr_sers : (s.wr k w).sers = s.sers := rfl
@[simp] theorem wr_busMem : (s.wr k w).busMem = s.busMem := rfl
@[simp] theorem wr_pauses : (s.wr k w).pauses = s.pauses := rfl
@[simp] theorem wr_reqQs : (s.wr k w).reqQs = s.reqQs := rfl
@[simp] theorem wr_evtQs : (s.wr k w).evtQs = s.evtQs := rfl
@[simp] theorem wr_stages : (s.wr k w).stages = s.stages := rfl
@[simp] theorem wr_keeperA : (s.wr k w).keeperA = s.keeperA := rfl
@[simp] theorem wr_keeperB : (s.wr k w).keeperB = s.keeperB := rfl
@[simp] theorem wr_watch : (s.wr k w).watch = s.watch := rfl
@[simp] theorem wr_resp : (s.wr k w).resp = s.resp := rfl
@[simp] theorem wr_imsic : (s.wr k w).imsic = s.imsic := rfl
@[simp] theorem wr_localIrq : (s.wr k w).localIrq = s.localIrq := rfl
@[simp] theorem wr_tu : (s.wr k w).tu = s.tu := rfl
@[simp] theorem wr_grant : (s.wr k w).grant = s.grant := rfl
@[simp] theorem wr_txBuffers : (s.wr k w).txBuffers = s.txBuffers := rfl
@[simp] theorem wr_swdt : (s.wr k w).swdt = s.swdt := rfl
@[simp] theorem wr_gateTo : (s.wr k w).gateTo = s.gateTo := rfl
@[simp] theorem wr_hinges : (s.wr k w).hinges = s.hinges := rfl
@[simp] theorem wr_cores : (s.wr k w).cores = s.cores := rfl
@[simp] theorem wr_harts : (s.wr k w).harts = s.harts := rfl
@[simp] theorem wr_log : (s.wr k w).log = s.log := rfl
@[simp] theorem wr_keyring : (s.wr k w).keyring = s.keyring := rfl
@[simp] theorem wr_fuses : (s.wr k w).fuses = s.fuses := rfl
@[simp] theorem wr_start : (s.wr k w).start = s.start := rfl
@[simp] theorem wr_sleep : (s.wr k w).sleep = s.sleep := rfl
@[simp] theorem wr_dcqs : (s.wr k w).dcqs = s.dcqs := rfl
@[simp] theorem wr_pace : (s.wr k w).pace = s.pace := rfl
@[simp] theorem wr_mem : (s.wr k w).mem = s.mem := rfl

/-! ### setFld -/

@[simp] theorem setFld_mono : (s.setFld p f v).mono = s.mono := rfl
@[simp] theorem setFld_freeNext : (s.setFld p f v).freeNext = s.freeNext := rfl
@[simp] theorem setFld_time : (s.setFld p f v).time = s.time := rfl
@[simp] theorem setFld_safety : (s.setFld p f v).safety = s.safety := rfl
@[simp] theorem setFld_records : (s.setFld p f v).records = s.records := rfl
@[simp] theorem setFld_supv : (s.setFld p f v).supv = s.supv := rfl
@[simp] theorem setFld_tickets : (s.setFld p f v).tickets = s.tickets := rfl
@[simp] theorem setFld_ticketSerial : (s.setFld p f v).ticketSerial = s.ticketSerial := rfl
@[simp] theorem setFld_keeperSlots : (s.setFld p f v).keeperSlots = s.keeperSlots := rfl
@[simp] theorem setFld_gens : (s.setFld p f v).gens = s.gens := rfl
@[simp] theorem setFld_loads : (s.setFld p f v).loads = s.loads := rfl
@[simp] theorem setFld_sagsA : (s.setFld p f v).sagsA = s.sagsA := rfl
@[simp] theorem setFld_sagsB : (s.setFld p f v).sagsB = s.sagsB := rfl
@[simp] theorem setFld_supply : (s.setFld p f v).supply = s.supply := rfl
@[simp] theorem setFld_inputs : (s.setFld p f v).inputs = s.inputs := rfl
@[simp] theorem setFld_cals : (s.setFld p f v).cals = s.cals := rfl
@[simp] theorem setFld_bal : (s.setFld p f v).bal = s.bal := rfl
@[simp] theorem setFld_tsq : (s.setFld p f v).tsq = s.tsq := rfl
@[simp] theorem setFld_switch : (s.setFld p f v).switch = s.switch := rfl
@[simp] theorem setFld_rings : (s.setFld p f v).rings = s.rings := rfl
@[simp] theorem setFld_cans : (s.setFld p f v).cans = s.cans := rfl
@[simp] theorem setFld_lins : (s.setFld p f v).lins = s.lins := rfl
@[simp] theorem setFld_sers : (s.setFld p f v).sers = s.sers := rfl
@[simp] theorem setFld_busMem : (s.setFld p f v).busMem = s.busMem := rfl
@[simp] theorem setFld_pauses : (s.setFld p f v).pauses = s.pauses := rfl
@[simp] theorem setFld_reqQs : (s.setFld p f v).reqQs = s.reqQs := rfl
@[simp] theorem setFld_evtQs : (s.setFld p f v).evtQs = s.evtQs := rfl
@[simp] theorem setFld_stages : (s.setFld p f v).stages = s.stages := rfl
@[simp] theorem setFld_keeperA : (s.setFld p f v).keeperA = s.keeperA := rfl
@[simp] theorem setFld_keeperB : (s.setFld p f v).keeperB = s.keeperB := rfl
@[simp] theorem setFld_watch : (s.setFld p f v).watch = s.watch := rfl
@[simp] theorem setFld_resp : (s.setFld p f v).resp = s.resp := rfl
@[simp] theorem setFld_imsic : (s.setFld p f v).imsic = s.imsic := rfl
@[simp] theorem setFld_localIrq : (s.setFld p f v).localIrq = s.localIrq := rfl
@[simp] theorem setFld_tu : (s.setFld p f v).tu = s.tu := rfl
@[simp] theorem setFld_grant : (s.setFld p f v).grant = s.grant := rfl
@[simp] theorem setFld_txBuffers : (s.setFld p f v).txBuffers = s.txBuffers := rfl
@[simp] theorem setFld_swdt : (s.setFld p f v).swdt = s.swdt := rfl
@[simp] theorem setFld_gateTo : (s.setFld p f v).gateTo = s.gateTo := rfl
@[simp] theorem setFld_hinges : (s.setFld p f v).hinges = s.hinges := rfl
@[simp] theorem setFld_cores : (s.setFld p f v).cores = s.cores := rfl
@[simp] theorem setFld_harts : (s.setFld p f v).harts = s.harts := rfl
@[simp] theorem setFld_log : (s.setFld p f v).log = s.log := rfl
@[simp] theorem setFld_keyring : (s.setFld p f v).keyring = s.keyring := rfl
@[simp] theorem setFld_fuses : (s.setFld p f v).fuses = s.fuses := rfl
@[simp] theorem setFld_start : (s.setFld p f v).start = s.start := rfl
@[simp] theorem setFld_sleep : (s.setFld p f v).sleep = s.sleep := rfl
@[simp] theorem setFld_dcqs : (s.setFld p f v).dcqs = s.dcqs := rfl
@[simp] theorem setFld_pace : (s.setFld p f v).pace = s.pace := rfl
@[simp] theorem setFld_mem : (s.setFld p f v).mem = s.mem := rfl

/-! ### setFlag -/

@[simp] theorem setFlag_mono : (s.setFlag p f b).mono = s.mono := rfl
@[simp] theorem setFlag_freeNext : (s.setFlag p f b).freeNext = s.freeNext := rfl
@[simp] theorem setFlag_time : (s.setFlag p f b).time = s.time := rfl
@[simp] theorem setFlag_safety : (s.setFlag p f b).safety = s.safety := rfl
@[simp] theorem setFlag_records : (s.setFlag p f b).records = s.records := rfl
@[simp] theorem setFlag_supv : (s.setFlag p f b).supv = s.supv := rfl
@[simp] theorem setFlag_tickets : (s.setFlag p f b).tickets = s.tickets := rfl
@[simp] theorem setFlag_ticketSerial : (s.setFlag p f b).ticketSerial = s.ticketSerial := rfl
@[simp] theorem setFlag_keeperSlots : (s.setFlag p f b).keeperSlots = s.keeperSlots := rfl
@[simp] theorem setFlag_gens : (s.setFlag p f b).gens = s.gens := rfl
@[simp] theorem setFlag_loads : (s.setFlag p f b).loads = s.loads := rfl
@[simp] theorem setFlag_sagsA : (s.setFlag p f b).sagsA = s.sagsA := rfl
@[simp] theorem setFlag_sagsB : (s.setFlag p f b).sagsB = s.sagsB := rfl
@[simp] theorem setFlag_supply : (s.setFlag p f b).supply = s.supply := rfl
@[simp] theorem setFlag_inputs : (s.setFlag p f b).inputs = s.inputs := rfl
@[simp] theorem setFlag_cals : (s.setFlag p f b).cals = s.cals := rfl
@[simp] theorem setFlag_bal : (s.setFlag p f b).bal = s.bal := rfl
@[simp] theorem setFlag_tsq : (s.setFlag p f b).tsq = s.tsq := rfl
@[simp] theorem setFlag_switch : (s.setFlag p f b).switch = s.switch := rfl
@[simp] theorem setFlag_rings : (s.setFlag p f b).rings = s.rings := rfl
@[simp] theorem setFlag_cans : (s.setFlag p f b).cans = s.cans := rfl
@[simp] theorem setFlag_lins : (s.setFlag p f b).lins = s.lins := rfl
@[simp] theorem setFlag_sers : (s.setFlag p f b).sers = s.sers := rfl
@[simp] theorem setFlag_busMem : (s.setFlag p f b).busMem = s.busMem := rfl
@[simp] theorem setFlag_pauses : (s.setFlag p f b).pauses = s.pauses := rfl
@[simp] theorem setFlag_reqQs : (s.setFlag p f b).reqQs = s.reqQs := rfl
@[simp] theorem setFlag_evtQs : (s.setFlag p f b).evtQs = s.evtQs := rfl
@[simp] theorem setFlag_stages : (s.setFlag p f b).stages = s.stages := rfl
@[simp] theorem setFlag_keeperA : (s.setFlag p f b).keeperA = s.keeperA := rfl
@[simp] theorem setFlag_keeperB : (s.setFlag p f b).keeperB = s.keeperB := rfl
@[simp] theorem setFlag_watch : (s.setFlag p f b).watch = s.watch := rfl
@[simp] theorem setFlag_resp : (s.setFlag p f b).resp = s.resp := rfl
@[simp] theorem setFlag_imsic : (s.setFlag p f b).imsic = s.imsic := rfl
@[simp] theorem setFlag_localIrq : (s.setFlag p f b).localIrq = s.localIrq := rfl
@[simp] theorem setFlag_tu : (s.setFlag p f b).tu = s.tu := rfl
@[simp] theorem setFlag_grant : (s.setFlag p f b).grant = s.grant := rfl
@[simp] theorem setFlag_txBuffers : (s.setFlag p f b).txBuffers = s.txBuffers := rfl
@[simp] theorem setFlag_swdt : (s.setFlag p f b).swdt = s.swdt := rfl
@[simp] theorem setFlag_gateTo : (s.setFlag p f b).gateTo = s.gateTo := rfl
@[simp] theorem setFlag_hinges : (s.setFlag p f b).hinges = s.hinges := rfl
@[simp] theorem setFlag_cores : (s.setFlag p f b).cores = s.cores := rfl
@[simp] theorem setFlag_harts : (s.setFlag p f b).harts = s.harts := rfl
@[simp] theorem setFlag_log : (s.setFlag p f b).log = s.log := rfl
@[simp] theorem setFlag_keyring : (s.setFlag p f b).keyring = s.keyring := rfl
@[simp] theorem setFlag_fuses : (s.setFlag p f b).fuses = s.fuses := rfl
@[simp] theorem setFlag_start : (s.setFlag p f b).start = s.start := rfl
@[simp] theorem setFlag_sleep : (s.setFlag p f b).sleep = s.sleep := rfl
@[simp] theorem setFlag_dcqs : (s.setFlag p f b).dcqs = s.dcqs := rfl
@[simp] theorem setFlag_pace : (s.setFlag p f b).pace = s.pace := rfl
@[simp] theorem setFlag_mem : (s.setFlag p f b).mem = s.mem := rfl

/-! ### event -/

@[simp] theorem event_mono : (s.event p f).mono = s.mono := rfl
@[simp] theorem event_freeNext : (s.event p f).freeNext = s.freeNext := rfl
@[simp] theorem event_time : (s.event p f).time = s.time := rfl
@[simp] theorem event_safety : (s.event p f).safety = s.safety := rfl
@[simp] theorem event_records : (s.event p f).records = s.records := rfl
@[simp] theorem event_supv : (s.event p f).supv = s.supv := rfl
@[simp] theorem event_tickets : (s.event p f).tickets = s.tickets := rfl
@[simp] theorem event_ticketSerial : (s.event p f).ticketSerial = s.ticketSerial := rfl
@[simp] theorem event_keeperSlots : (s.event p f).keeperSlots = s.keeperSlots := rfl
@[simp] theorem event_gens : (s.event p f).gens = s.gens := rfl
@[simp] theorem event_loads : (s.event p f).loads = s.loads := rfl
@[simp] theorem event_sagsA : (s.event p f).sagsA = s.sagsA := rfl
@[simp] theorem event_sagsB : (s.event p f).sagsB = s.sagsB := rfl
@[simp] theorem event_supply : (s.event p f).supply = s.supply := rfl
@[simp] theorem event_inputs : (s.event p f).inputs = s.inputs := rfl
@[simp] theorem event_cals : (s.event p f).cals = s.cals := rfl
@[simp] theorem event_bal : (s.event p f).bal = s.bal := rfl
@[simp] theorem event_tsq : (s.event p f).tsq = s.tsq := rfl
@[simp] theorem event_switch : (s.event p f).switch = s.switch := rfl
@[simp] theorem event_rings : (s.event p f).rings = s.rings := rfl
@[simp] theorem event_cans : (s.event p f).cans = s.cans := rfl
@[simp] theorem event_lins : (s.event p f).lins = s.lins := rfl
@[simp] theorem event_sers : (s.event p f).sers = s.sers := rfl
@[simp] theorem event_busMem : (s.event p f).busMem = s.busMem := rfl
@[simp] theorem event_pauses : (s.event p f).pauses = s.pauses := rfl
@[simp] theorem event_reqQs : (s.event p f).reqQs = s.reqQs := rfl
@[simp] theorem event_evtQs : (s.event p f).evtQs = s.evtQs := rfl
@[simp] theorem event_stages : (s.event p f).stages = s.stages := rfl
@[simp] theorem event_keeperA : (s.event p f).keeperA = s.keeperA := rfl
@[simp] theorem event_keeperB : (s.event p f).keeperB = s.keeperB := rfl
@[simp] theorem event_watch : (s.event p f).watch = s.watch := rfl
@[simp] theorem event_resp : (s.event p f).resp = s.resp := rfl
@[simp] theorem event_imsic : (s.event p f).imsic = s.imsic := rfl
@[simp] theorem event_localIrq : (s.event p f).localIrq = s.localIrq := rfl
@[simp] theorem event_tu : (s.event p f).tu = s.tu := rfl
@[simp] theorem event_grant : (s.event p f).grant = s.grant := rfl
@[simp] theorem event_txBuffers : (s.event p f).txBuffers = s.txBuffers := rfl
@[simp] theorem event_swdt : (s.event p f).swdt = s.swdt := rfl
@[simp] theorem event_gateTo : (s.event p f).gateTo = s.gateTo := rfl
@[simp] theorem event_hinges : (s.event p f).hinges = s.hinges := rfl
@[simp] theorem event_cores : (s.event p f).cores = s.cores := rfl
@[simp] theorem event_harts : (s.event p f).harts = s.harts := rfl
@[simp] theorem event_log : (s.event p f).log = s.log := rfl
@[simp] theorem event_keyring : (s.event p f).keyring = s.keyring := rfl
@[simp] theorem event_fuses : (s.event p f).fuses = s.fuses := rfl
@[simp] theorem event_start : (s.event p f).start = s.start := rfl
@[simp] theorem event_sleep : (s.event p f).sleep = s.sleep := rfl
@[simp] theorem event_dcqs : (s.event p f).dcqs = s.dcqs := rfl
@[simp] theorem event_pace : (s.event p f).pace = s.pace := rfl
@[simp] theorem event_mem : (s.event p f).mem = s.mem := rfl

/-! ### countBy -/

@[simp] theorem countBy_mono : (s.countBy p f v).mono = s.mono := rfl
@[simp] theorem countBy_freeNext : (s.countBy p f v).freeNext = s.freeNext := rfl
@[simp] theorem countBy_time : (s.countBy p f v).time = s.time := rfl
@[simp] theorem countBy_safety : (s.countBy p f v).safety = s.safety := rfl
@[simp] theorem countBy_records : (s.countBy p f v).records = s.records := rfl
@[simp] theorem countBy_supv : (s.countBy p f v).supv = s.supv := rfl
@[simp] theorem countBy_tickets : (s.countBy p f v).tickets = s.tickets := rfl
@[simp] theorem countBy_ticketSerial : (s.countBy p f v).ticketSerial = s.ticketSerial := rfl
@[simp] theorem countBy_keeperSlots : (s.countBy p f v).keeperSlots = s.keeperSlots := rfl
@[simp] theorem countBy_gens : (s.countBy p f v).gens = s.gens := rfl
@[simp] theorem countBy_loads : (s.countBy p f v).loads = s.loads := rfl
@[simp] theorem countBy_sagsA : (s.countBy p f v).sagsA = s.sagsA := rfl
@[simp] theorem countBy_sagsB : (s.countBy p f v).sagsB = s.sagsB := rfl
@[simp] theorem countBy_supply : (s.countBy p f v).supply = s.supply := rfl
@[simp] theorem countBy_inputs : (s.countBy p f v).inputs = s.inputs := rfl
@[simp] theorem countBy_cals : (s.countBy p f v).cals = s.cals := rfl
@[simp] theorem countBy_bal : (s.countBy p f v).bal = s.bal := rfl
@[simp] theorem countBy_tsq : (s.countBy p f v).tsq = s.tsq := rfl
@[simp] theorem countBy_switch : (s.countBy p f v).switch = s.switch := rfl
@[simp] theorem countBy_rings : (s.countBy p f v).rings = s.rings := rfl
@[simp] theorem countBy_cans : (s.countBy p f v).cans = s.cans := rfl
@[simp] theorem countBy_lins : (s.countBy p f v).lins = s.lins := rfl
@[simp] theorem countBy_sers : (s.countBy p f v).sers = s.sers := rfl
@[simp] theorem countBy_busMem : (s.countBy p f v).busMem = s.busMem := rfl
@[simp] theorem countBy_pauses : (s.countBy p f v).pauses = s.pauses := rfl
@[simp] theorem countBy_reqQs : (s.countBy p f v).reqQs = s.reqQs := rfl
@[simp] theorem countBy_evtQs : (s.countBy p f v).evtQs = s.evtQs := rfl
@[simp] theorem countBy_stages : (s.countBy p f v).stages = s.stages := rfl
@[simp] theorem countBy_keeperA : (s.countBy p f v).keeperA = s.keeperA := rfl
@[simp] theorem countBy_keeperB : (s.countBy p f v).keeperB = s.keeperB := rfl
@[simp] theorem countBy_watch : (s.countBy p f v).watch = s.watch := rfl
@[simp] theorem countBy_resp : (s.countBy p f v).resp = s.resp := rfl
@[simp] theorem countBy_imsic : (s.countBy p f v).imsic = s.imsic := rfl
@[simp] theorem countBy_localIrq : (s.countBy p f v).localIrq = s.localIrq := rfl
@[simp] theorem countBy_tu : (s.countBy p f v).tu = s.tu := rfl
@[simp] theorem countBy_grant : (s.countBy p f v).grant = s.grant := rfl
@[simp] theorem countBy_txBuffers : (s.countBy p f v).txBuffers = s.txBuffers := rfl
@[simp] theorem countBy_swdt : (s.countBy p f v).swdt = s.swdt := rfl
@[simp] theorem countBy_gateTo : (s.countBy p f v).gateTo = s.gateTo := rfl
@[simp] theorem countBy_hinges : (s.countBy p f v).hinges = s.hinges := rfl
@[simp] theorem countBy_cores : (s.countBy p f v).cores = s.cores := rfl
@[simp] theorem countBy_harts : (s.countBy p f v).harts = s.harts := rfl
@[simp] theorem countBy_log : (s.countBy p f v).log = s.log := rfl
@[simp] theorem countBy_keyring : (s.countBy p f v).keyring = s.keyring := rfl
@[simp] theorem countBy_fuses : (s.countBy p f v).fuses = s.fuses := rfl
@[simp] theorem countBy_start : (s.countBy p f v).start = s.start := rfl
@[simp] theorem countBy_sleep : (s.countBy p f v).sleep = s.sleep := rfl
@[simp] theorem countBy_dcqs : (s.countBy p f v).dcqs = s.dcqs := rfl
@[simp] theorem countBy_pace : (s.countBy p f v).pace = s.pace := rfl
@[simp] theorem countBy_mem : (s.countBy p f v).mem = s.mem := rfl

/-! ### count -/

@[simp] theorem count_mono : (s.count p f).mono = s.mono := rfl
@[simp] theorem count_freeNext : (s.count p f).freeNext = s.freeNext := rfl
@[simp] theorem count_time : (s.count p f).time = s.time := rfl
@[simp] theorem count_safety : (s.count p f).safety = s.safety := rfl
@[simp] theorem count_records : (s.count p f).records = s.records := rfl
@[simp] theorem count_supv : (s.count p f).supv = s.supv := rfl
@[simp] theorem count_tickets : (s.count p f).tickets = s.tickets := rfl
@[simp] theorem count_ticketSerial : (s.count p f).ticketSerial = s.ticketSerial := rfl
@[simp] theorem count_keeperSlots : (s.count p f).keeperSlots = s.keeperSlots := rfl
@[simp] theorem count_gens : (s.count p f).gens = s.gens := rfl
@[simp] theorem count_loads : (s.count p f).loads = s.loads := rfl
@[simp] theorem count_sagsA : (s.count p f).sagsA = s.sagsA := rfl
@[simp] theorem count_sagsB : (s.count p f).sagsB = s.sagsB := rfl
@[simp] theorem count_supply : (s.count p f).supply = s.supply := rfl
@[simp] theorem count_inputs : (s.count p f).inputs = s.inputs := rfl
@[simp] theorem count_cals : (s.count p f).cals = s.cals := rfl
@[simp] theorem count_bal : (s.count p f).bal = s.bal := rfl
@[simp] theorem count_tsq : (s.count p f).tsq = s.tsq := rfl
@[simp] theorem count_switch : (s.count p f).switch = s.switch := rfl
@[simp] theorem count_rings : (s.count p f).rings = s.rings := rfl
@[simp] theorem count_cans : (s.count p f).cans = s.cans := rfl
@[simp] theorem count_lins : (s.count p f).lins = s.lins := rfl
@[simp] theorem count_sers : (s.count p f).sers = s.sers := rfl
@[simp] theorem count_busMem : (s.count p f).busMem = s.busMem := rfl
@[simp] theorem count_pauses : (s.count p f).pauses = s.pauses := rfl
@[simp] theorem count_reqQs : (s.count p f).reqQs = s.reqQs := rfl
@[simp] theorem count_evtQs : (s.count p f).evtQs = s.evtQs := rfl
@[simp] theorem count_stages : (s.count p f).stages = s.stages := rfl
@[simp] theorem count_keeperA : (s.count p f).keeperA = s.keeperA := rfl
@[simp] theorem count_keeperB : (s.count p f).keeperB = s.keeperB := rfl
@[simp] theorem count_watch : (s.count p f).watch = s.watch := rfl
@[simp] theorem count_resp : (s.count p f).resp = s.resp := rfl
@[simp] theorem count_imsic : (s.count p f).imsic = s.imsic := rfl
@[simp] theorem count_localIrq : (s.count p f).localIrq = s.localIrq := rfl
@[simp] theorem count_tu : (s.count p f).tu = s.tu := rfl
@[simp] theorem count_grant : (s.count p f).grant = s.grant := rfl
@[simp] theorem count_txBuffers : (s.count p f).txBuffers = s.txBuffers := rfl
@[simp] theorem count_swdt : (s.count p f).swdt = s.swdt := rfl
@[simp] theorem count_gateTo : (s.count p f).gateTo = s.gateTo := rfl
@[simp] theorem count_hinges : (s.count p f).hinges = s.hinges := rfl
@[simp] theorem count_cores : (s.count p f).cores = s.cores := rfl
@[simp] theorem count_harts : (s.count p f).harts = s.harts := rfl
@[simp] theorem count_log : (s.count p f).log = s.log := rfl
@[simp] theorem count_keyring : (s.count p f).keyring = s.keyring := rfl
@[simp] theorem count_fuses : (s.count p f).fuses = s.fuses := rfl
@[simp] theorem count_start : (s.count p f).start = s.start := rfl
@[simp] theorem count_sleep : (s.count p f).sleep = s.sleep := rfl
@[simp] theorem count_dcqs : (s.count p f).dcqs = s.dcqs := rfl
@[simp] theorem count_pace : (s.count p f).pace = s.pace := rfl
@[simp] theorem count_mem : (s.count p f).mem = s.mem := rfl

/-! ### setFldBit -/

@[simp] theorem setFldBit_mono : (s.setFldBit p f n b).mono = s.mono := rfl
@[simp] theorem setFldBit_freeNext : (s.setFldBit p f n b).freeNext = s.freeNext := rfl
@[simp] theorem setFldBit_time : (s.setFldBit p f n b).time = s.time := rfl
@[simp] theorem setFldBit_safety : (s.setFldBit p f n b).safety = s.safety := rfl
@[simp] theorem setFldBit_records : (s.setFldBit p f n b).records = s.records := rfl
@[simp] theorem setFldBit_supv : (s.setFldBit p f n b).supv = s.supv := rfl
@[simp] theorem setFldBit_tickets : (s.setFldBit p f n b).tickets = s.tickets := rfl
@[simp] theorem setFldBit_ticketSerial : (s.setFldBit p f n b).ticketSerial = s.ticketSerial := rfl
@[simp] theorem setFldBit_keeperSlots : (s.setFldBit p f n b).keeperSlots = s.keeperSlots := rfl
@[simp] theorem setFldBit_gens : (s.setFldBit p f n b).gens = s.gens := rfl
@[simp] theorem setFldBit_loads : (s.setFldBit p f n b).loads = s.loads := rfl
@[simp] theorem setFldBit_sagsA : (s.setFldBit p f n b).sagsA = s.sagsA := rfl
@[simp] theorem setFldBit_sagsB : (s.setFldBit p f n b).sagsB = s.sagsB := rfl
@[simp] theorem setFldBit_supply : (s.setFldBit p f n b).supply = s.supply := rfl
@[simp] theorem setFldBit_inputs : (s.setFldBit p f n b).inputs = s.inputs := rfl
@[simp] theorem setFldBit_cals : (s.setFldBit p f n b).cals = s.cals := rfl
@[simp] theorem setFldBit_bal : (s.setFldBit p f n b).bal = s.bal := rfl
@[simp] theorem setFldBit_tsq : (s.setFldBit p f n b).tsq = s.tsq := rfl
@[simp] theorem setFldBit_switch : (s.setFldBit p f n b).switch = s.switch := rfl
@[simp] theorem setFldBit_rings : (s.setFldBit p f n b).rings = s.rings := rfl
@[simp] theorem setFldBit_cans : (s.setFldBit p f n b).cans = s.cans := rfl
@[simp] theorem setFldBit_lins : (s.setFldBit p f n b).lins = s.lins := rfl
@[simp] theorem setFldBit_sers : (s.setFldBit p f n b).sers = s.sers := rfl
@[simp] theorem setFldBit_busMem : (s.setFldBit p f n b).busMem = s.busMem := rfl
@[simp] theorem setFldBit_pauses : (s.setFldBit p f n b).pauses = s.pauses := rfl
@[simp] theorem setFldBit_reqQs : (s.setFldBit p f n b).reqQs = s.reqQs := rfl
@[simp] theorem setFldBit_evtQs : (s.setFldBit p f n b).evtQs = s.evtQs := rfl
@[simp] theorem setFldBit_stages : (s.setFldBit p f n b).stages = s.stages := rfl
@[simp] theorem setFldBit_keeperA : (s.setFldBit p f n b).keeperA = s.keeperA := rfl
@[simp] theorem setFldBit_keeperB : (s.setFldBit p f n b).keeperB = s.keeperB := rfl
@[simp] theorem setFldBit_watch : (s.setFldBit p f n b).watch = s.watch := rfl
@[simp] theorem setFldBit_resp : (s.setFldBit p f n b).resp = s.resp := rfl
@[simp] theorem setFldBit_imsic : (s.setFldBit p f n b).imsic = s.imsic := rfl
@[simp] theorem setFldBit_localIrq : (s.setFldBit p f n b).localIrq = s.localIrq := rfl
@[simp] theorem setFldBit_tu : (s.setFldBit p f n b).tu = s.tu := rfl
@[simp] theorem setFldBit_grant : (s.setFldBit p f n b).grant = s.grant := rfl
@[simp] theorem setFldBit_txBuffers : (s.setFldBit p f n b).txBuffers = s.txBuffers := rfl
@[simp] theorem setFldBit_swdt : (s.setFldBit p f n b).swdt = s.swdt := rfl
@[simp] theorem setFldBit_gateTo : (s.setFldBit p f n b).gateTo = s.gateTo := rfl
@[simp] theorem setFldBit_hinges : (s.setFldBit p f n b).hinges = s.hinges := rfl
@[simp] theorem setFldBit_cores : (s.setFldBit p f n b).cores = s.cores := rfl
@[simp] theorem setFldBit_harts : (s.setFldBit p f n b).harts = s.harts := rfl
@[simp] theorem setFldBit_log : (s.setFldBit p f n b).log = s.log := rfl
@[simp] theorem setFldBit_keyring : (s.setFldBit p f n b).keyring = s.keyring := rfl
@[simp] theorem setFldBit_fuses : (s.setFldBit p f n b).fuses = s.fuses := rfl
@[simp] theorem setFldBit_start : (s.setFldBit p f n b).start = s.start := rfl
@[simp] theorem setFldBit_sleep : (s.setFldBit p f n b).sleep = s.sleep := rfl
@[simp] theorem setFldBit_dcqs : (s.setFldBit p f n b).dcqs = s.dcqs := rfl
@[simp] theorem setFldBit_pace : (s.setFldBit p f n b).pace = s.pace := rfl
@[simp] theorem setFldBit_mem : (s.setFldBit p f n b).mem = s.mem := rfl

/-! ### Updates of a part: the registers stay -/

@[simp] theorem rd_set_mono (x : Nat) : ({ s with mono := x } : Zone).rd k = s.rd k := rfl
@[simp] theorem fld_set_mono (x : Nat) : ({ s with mono := x } : Zone).fld p f = s.fld p f := rfl
@[simp] theorem rd_set_freeNext (x : Nat) : ({ s with freeNext := x } : Zone).rd k = s.rd k := rfl
@[simp] theorem fld_set_freeNext (x : Nat) : ({ s with freeNext := x } : Zone).fld p f = s.fld p f := rfl
@[simp] theorem rd_set_time (x : TimeSt) : ({ s with time := x } : Zone).rd k = s.rd k := rfl
@[simp] theorem fld_set_time (x : TimeSt) : ({ s with time := x } : Zone).fld p f = s.fld p f := rfl
@[simp] theorem rd_set_safety (x : SafetySt) : ({ s with safety := x } : Zone).rd k = s.rd k := rfl
@[simp] theorem fld_set_safety (x : SafetySt) : ({ s with safety := x } : Zone).fld p f = s.fld p f := rfl
@[simp] theorem rd_set_records (x : List ModRecord) : ({ s with records := x } : Zone).rd k = s.rd k := rfl
@[simp] theorem fld_set_records (x : List ModRecord) : ({ s with records := x } : Zone).fld p f = s.fld p f := rfl
@[simp] theorem rd_set_supv (x : SupervisorSt) : ({ s with supv := x } : Zone).rd k = s.rd k := rfl
@[simp] theorem fld_set_supv (x : SupervisorSt) : ({ s with supv := x } : Zone).fld p f = s.fld p f := rfl
@[simp] theorem rd_set_tickets (x : SMap Ticket) : ({ s with tickets := x } : Zone).rd k = s.rd k := rfl
@[simp] theorem fld_set_tickets (x : SMap Ticket) : ({ s with tickets := x } : Zone).fld p f = s.fld p f := rfl
@[simp] theorem rd_set_ticketSerial (x : Nat) : ({ s with ticketSerial := x } : Zone).rd k = s.rd k := rfl
@[simp] theorem fld_set_ticketSerial (x : Nat) : ({ s with ticketSerial := x } : Zone).fld p f = s.fld p f := rfl
@[simp] theorem rd_set_keeperSlots (x : Nat) : ({ s with keeperSlots := x } : Zone).rd k = s.rd k := rfl
@[simp] theorem fld_set_keeperSlots (x : Nat) : ({ s with keeperSlots := x } : Zone).fld p f = s.fld p f := rfl
@[simp] theorem rd_set_gens (x : SMap GenSt) : ({ s with gens := x } : Zone).rd k = s.rd k := rfl
@[simp] theorem fld_set_gens (x : SMap GenSt) : ({ s with gens := x } : Zone).fld p f = s.fld p f := rfl
@[simp] theorem rd_set_loads (x : SMap LoadSt) : ({ s with loads := x } : Zone).rd k = s.rd k := rfl
@[simp] theorem fld_set_loads (x : SMap LoadSt) : ({ s with loads := x } : Zone).fld p f = s.fld p f := rfl
@[simp] theorem rd_set_sagsA (x : List Sag) : ({ s with sagsA := x } : Zone).rd k = s.rd k := rfl
@[simp] theorem fld_set_sagsA (x : List Sag) : ({ s with sagsA := x } : Zone).fld p f = s.fld p f := rfl
@[simp] theorem rd_set_sagsB (x : List Sag) : ({ s with sagsB := x } : Zone).rd k = s.rd k := rfl
@[simp] theorem fld_set_sagsB (x : List Sag) : ({ s with sagsB := x } : Zone).fld p f = s.fld p f := rfl
@[simp] theorem rd_set_supply (x : SupplySt) : ({ s with supply := x } : Zone).rd k = s.rd k := rfl
@[simp] theorem fld_set_supply (x : SupplySt) : ({ s with supply := x } : Zone).fld p f = s.fld p f := rfl
@[simp] theorem rd_set_inputs (x : SMap InputSt) : ({ s with inputs := x } : Zone).rd k = s.rd k := rfl
@[simp] theorem fld_set_inputs (x : SMap InputSt) : ({ s with inputs := x } : Zone).fld p f = s.fld p f := rfl
@[simp] theorem rd_set_cals (x : SMap CalSt) : ({ s with cals := x } : Zone).rd k = s.rd k := rfl
@[simp] theorem fld_set_cals (x : SMap CalSt) : ({ s with cals := x } : Zone).fld p f = s.fld p f := rfl
@[simp] theorem rd_set_bal (x : BalSt) : ({ s with bal := x } : Zone).rd k = s.rd k := rfl
@[simp] theorem fld_set_bal (x : BalSt) : ({ s with bal := x } : Zone).fld p f = s.fld p f := rfl
@[simp] theorem rd_set_tsq (x : SMap (List TsqEntry)) : ({ s with tsq := x } : Zone).rd k = s.rd k := rfl
@[simp] theorem fld_set_tsq (x : SMap (List TsqEntry)) : ({ s with tsq := x } : Zone).fld p f = s.fld p f := rfl
@[simp] theorem rd_set_switch (x : SwitchSt) : ({ s with switch := x } : Zone).rd k = s.rd k := rfl
@[simp] theorem fld_set_switch (x : SwitchSt) : ({ s with switch := x } : Zone).fld p f = s.fld p f := rfl
@[simp] theorem rd_set_rings (x : SMap RingSt) : ({ s with rings := x } : Zone).rd k = s.rd k := rfl
@[simp] theorem fld_set_rings (x : SMap RingSt) : ({ s with rings := x } : Zone).fld p f = s.fld p f := rfl
@[simp] theorem rd_set_cans (x : SMap CanSt) : ({ s with cans := x } : Zone).rd k = s.rd k := rfl
@[simp] theorem fld_set_cans (x : SMap CanSt) : ({ s with cans := x } : Zone).fld p f = s.fld p f := rfl
@[simp] theorem rd_set_lins (x : SMap LinSt) : ({ s with lins := x } : Zone).rd k = s.rd k := rfl
@[simp] theorem fld_set_lins (x : SMap LinSt) : ({ s with lins := x } : Zone).fld p f = s.fld p f := rfl
@[simp] theorem rd_set_sers (x : SMap SerSt) : ({ s with sers := x } : Zone).rd k = s.rd k := rfl
@[simp] theorem fld_set_sers (x : SMap SerSt) : ({ s with sers := x } : Zone).fld p f = s.fld p f := rfl
@[simp] theorem rd_set_busMem (x : SMap (Option Byte)) : ({ s with busMem := x } : Zone).rd k = s.rd k := rfl
@[simp] theorem fld_set_busMem (x : SMap (Option Byte)) : ({ s with busMem := x } : Zone).fld p f = s.fld p f := rfl
@[simp] theorem rd_set_pauses (x : SMap (Option Nat)) : ({ s with pauses := x } : Zone).rd k = s.rd k := rfl
@[simp] theorem fld_set_pauses (x : SMap (Option Nat)) : ({ s with pauses := x } : Zone).fld p f = s.fld p f := rfl
@[simp] theorem rd_set_reqQs (x : SMap ReqQueue) : ({ s with reqQs := x } : Zone).rd k = s.rd k := rfl
@[simp] theorem fld_set_reqQs (x : SMap ReqQueue) : ({ s with reqQs := x } : Zone).fld p f = s.fld p f := rfl
@[simp] theorem rd_set_evtQs (x : SMap EvtQueue) : ({ s with evtQs := x } : Zone).rd k = s.rd k := rfl
@[simp] theorem fld_set_evtQs (x : SMap EvtQueue) : ({ s with evtQs := x } : Zone).fld p f = s.fld p f := rfl
@[simp] theorem rd_set_stages (x : SMap StageSt) : ({ s with stages := x } : Zone).rd k = s.rd k := rfl
@[simp] theorem fld_set_stages (x : SMap StageSt) : ({ s with stages := x } : Zone).fld p f = s.fld p f := rfl
@[simp] theorem rd_set_keeperA (x : KeeperSt) : ({ s with keeperA := x } : Zone).rd k = s.rd k := rfl
@[simp] theorem fld_set_keeperA (x : KeeperSt) : ({ s with keeperA := x } : Zone).fld p f = s.fld p f := rfl
@[simp] theorem rd_set_keeperB (x : KeeperSt) : ({ s with keeperB := x } : Zone).rd k = s.rd k := rfl
@[simp] theorem fld_set_keeperB (x : KeeperSt) : ({ s with keeperB := x } : Zone).fld p f = s.fld p f := rfl
@[simp] theorem rd_set_watch (x : WatchSt) : ({ s with watch := x } : Zone).rd k = s.rd k := rfl
@[simp] theorem fld_set_watch (x : WatchSt) : ({ s with watch := x } : Zone).fld p f = s.fld p f := rfl
@[simp] theorem rd_set_resp (x : Resp) : ({ s with resp := x } : Zone).rd k = s.rd k := rfl
@[simp] theorem fld_set_resp (x : Resp) : ({ s with resp := x } : Zone).fld p f = s.fld p f := rfl
@[simp] theorem rd_set_imsic (x : SMap Nat) : ({ s with imsic := x } : Zone).rd k = s.rd k := rfl
@[simp] theorem fld_set_imsic (x : SMap Nat) : ({ s with imsic := x } : Zone).fld p f = s.fld p f := rfl
@[simp] theorem rd_set_localIrq (x : SMap Nat) : ({ s with localIrq := x } : Zone).rd k = s.rd k := rfl
@[simp] theorem fld_set_localIrq (x : SMap Nat) : ({ s with localIrq := x } : Zone).fld p f = s.fld p f := rfl
@[simp] theorem rd_set_tu (x : TuSt) : ({ s with tu := x } : Zone).rd k = s.rd k := rfl
@[simp] theorem fld_set_tu (x : TuSt) : ({ s with tu := x } : Zone).fld p f = s.fld p f := rfl
@[simp] theorem rd_set_grant (x : Option GrantRun) : ({ s with grant := x } : Zone).rd k = s.rd k := rfl
@[simp] theorem fld_set_grant (x : Option GrantRun) : ({ s with grant := x } : Zone).fld p f = s.fld p f := rfl
@[simp] theorem rd_set_txBuffers (x : SMap Nat) : ({ s with txBuffers := x } : Zone).rd k = s.rd k := rfl
@[simp] theorem fld_set_txBuffers (x : SMap Nat) : ({ s with txBuffers := x } : Zone).fld p f = s.fld p f := rfl
@[simp] theorem rd_set_swdt (x : SwdtSt) : ({ s with swdt := x } : Zone).rd k = s.rd k := rfl
@[simp] theorem fld_set_swdt (x : SwdtSt) : ({ s with swdt := x } : Zone).fld p f = s.fld p f := rfl
@[simp] theorem rd_set_gateTo (x : SMap Nat) : ({ s with gateTo := x } : Zone).rd k = s.rd k := rfl
@[simp] theorem fld_set_gateTo (x : SMap Nat) : ({ s with gateTo := x } : Zone).fld p f = s.fld p f := rfl
@[simp] theorem rd_set_hinges (x : SMap HingeSt) : ({ s with hinges := x } : Zone).rd k = s.rd k := rfl
@[simp] theorem fld_set_hinges (x : SMap HingeSt) : ({ s with hinges := x } : Zone).fld p f = s.fld p f := rfl
@[simp] theorem rd_set_cores (x : SMap CoreSt) : ({ s with cores := x } : Zone).rd k = s.rd k := rfl
@[simp] theorem fld_set_cores (x : SMap CoreSt) : ({ s with cores := x } : Zone).fld p f = s.fld p f := rfl
@[simp] theorem rd_set_harts (x : SMap HartSt) : ({ s with harts := x } : Zone).rd k = s.rd k := rfl
@[simp] theorem fld_set_harts (x : SMap HartSt) : ({ s with harts := x } : Zone).fld p f = s.fld p f := rfl
@[simp] theorem rd_set_log (x : LogSt) : ({ s with log := x } : Zone).rd k = s.rd k := rfl
@[simp] theorem fld_set_log (x : LogSt) : ({ s with log := x } : Zone).fld p f = s.fld p f := rfl
@[simp] theorem rd_set_keyring (x : KeyringSt) : ({ s with keyring := x } : Zone).rd k = s.rd k := rfl
@[simp] theorem fld_set_keyring (x : KeyringSt) : ({ s with keyring := x } : Zone).fld p f = s.fld p f := rfl
@[simp] theorem rd_set_fuses (x : FuseSt) : ({ s with fuses := x } : Zone).rd k = s.rd k := rfl
@[simp] theorem fld_set_fuses (x : FuseSt) : ({ s with fuses := x } : Zone).fld p f = s.fld p f := rfl
@[simp] theorem rd_set_start (x : StartSt) : ({ s with start := x } : Zone).rd k = s.rd k := rfl
@[simp] theorem fld_set_start (x : StartSt) : ({ s with start := x } : Zone).fld p f = s.fld p f := rfl
@[simp] theorem rd_set_sleep (x : SleepSt) : ({ s with sleep := x } : Zone).rd k = s.rd k := rfl
@[simp] theorem fld_set_sleep (x : SleepSt) : ({ s with sleep := x } : Zone).fld p f = s.fld p f := rfl
@[simp] theorem rd_set_dcqs (x : SMap DcqSt) : ({ s with dcqs := x } : Zone).rd k = s.rd k := rfl
@[simp] theorem fld_set_dcqs (x : SMap DcqSt) : ({ s with dcqs := x } : Zone).fld p f = s.fld p f := rfl
@[simp] theorem rd_set_pace (x : SMap Nat) : ({ s with pace := x } : Zone).rd k = s.rd k := rfl
@[simp] theorem fld_set_pace (x : SMap Nat) : ({ s with pace := x } : Zone).fld p f = s.fld p f := rfl
@[simp] theorem rd_set_mem (x : SMap Byte) : ({ s with mem := x } : Zone).rd k = s.rd k := rfl
@[simp] theorem fld_set_mem (x : SMap Byte) : ({ s with mem := x } : Zone).fld p f = s.fld p f := rfl

/-! ### A free value -/

@[simp] theorem fresh_mono : s.fresh.2.mono = s.mono := rfl
@[simp] theorem fresh_regs : s.fresh.2.regs = s.regs := rfl
@[simp] theorem fresh_time : s.fresh.2.time = s.time := rfl
@[simp] theorem fresh_safety : s.fresh.2.safety = s.safety := rfl
@[simp] theorem fresh_records : s.fresh.2.records = s.records := rfl
@[simp] theorem fresh_supv : s.fresh.2.supv = s.supv := rfl
@[simp] theorem fresh_tickets : s.fresh.2.tickets = s.tickets := rfl
@[simp] theorem fresh_ticketSerial : s.fresh.2.ticketSerial = s.ticketSerial := rfl
@[simp] theorem fresh_keeperSlots : s.fresh.2.keeperSlots = s.keeperSlots := rfl
@[simp] theorem fresh_gens : s.fresh.2.gens = s.gens := rfl
@[simp] theorem fresh_loads : s.fresh.2.loads = s.loads := rfl
@[simp] theorem fresh_sagsA : s.fresh.2.sagsA = s.sagsA := rfl
@[simp] theorem fresh_sagsB : s.fresh.2.sagsB = s.sagsB := rfl
@[simp] theorem fresh_supply : s.fresh.2.supply = s.supply := rfl
@[simp] theorem fresh_inputs : s.fresh.2.inputs = s.inputs := rfl
@[simp] theorem fresh_cals : s.fresh.2.cals = s.cals := rfl
@[simp] theorem fresh_bal : s.fresh.2.bal = s.bal := rfl
@[simp] theorem fresh_tsq : s.fresh.2.tsq = s.tsq := rfl
@[simp] theorem fresh_switch : s.fresh.2.switch = s.switch := rfl
@[simp] theorem fresh_rings : s.fresh.2.rings = s.rings := rfl
@[simp] theorem fresh_cans : s.fresh.2.cans = s.cans := rfl
@[simp] theorem fresh_lins : s.fresh.2.lins = s.lins := rfl
@[simp] theorem fresh_sers : s.fresh.2.sers = s.sers := rfl
@[simp] theorem fresh_busMem : s.fresh.2.busMem = s.busMem := rfl
@[simp] theorem fresh_pauses : s.fresh.2.pauses = s.pauses := rfl
@[simp] theorem fresh_reqQs : s.fresh.2.reqQs = s.reqQs := rfl
@[simp] theorem fresh_evtQs : s.fresh.2.evtQs = s.evtQs := rfl
@[simp] theorem fresh_stages : s.fresh.2.stages = s.stages := rfl
@[simp] theorem fresh_keeperA : s.fresh.2.keeperA = s.keeperA := rfl
@[simp] theorem fresh_keeperB : s.fresh.2.keeperB = s.keeperB := rfl
@[simp] theorem fresh_watch : s.fresh.2.watch = s.watch := rfl
@[simp] theorem fresh_resp : s.fresh.2.resp = s.resp := rfl
@[simp] theorem fresh_imsic : s.fresh.2.imsic = s.imsic := rfl
@[simp] theorem fresh_localIrq : s.fresh.2.localIrq = s.localIrq := rfl
@[simp] theorem fresh_tu : s.fresh.2.tu = s.tu := rfl
@[simp] theorem fresh_grant : s.fresh.2.grant = s.grant := rfl
@[simp] theorem fresh_txBuffers : s.fresh.2.txBuffers = s.txBuffers := rfl
@[simp] theorem fresh_swdt : s.fresh.2.swdt = s.swdt := rfl
@[simp] theorem fresh_gateTo : s.fresh.2.gateTo = s.gateTo := rfl
@[simp] theorem fresh_hinges : s.fresh.2.hinges = s.hinges := rfl
@[simp] theorem fresh_cores : s.fresh.2.cores = s.cores := rfl
@[simp] theorem fresh_harts : s.fresh.2.harts = s.harts := rfl
@[simp] theorem fresh_log : s.fresh.2.log = s.log := rfl
@[simp] theorem fresh_keyring : s.fresh.2.keyring = s.keyring := rfl
@[simp] theorem fresh_fuses : s.fresh.2.fuses = s.fuses := rfl
@[simp] theorem fresh_start : s.fresh.2.start = s.start := rfl
@[simp] theorem fresh_sleep : s.fresh.2.sleep = s.sleep := rfl
@[simp] theorem fresh_dcqs : s.fresh.2.dcqs = s.dcqs := rfl
@[simp] theorem fresh_pace : s.fresh.2.pace = s.pace := rfl
@[simp] theorem fresh_mem : s.fresh.2.mem = s.mem := rfl
@[simp] theorem fresh_freeNext : s.fresh.2.freeNext = s.freeNext + 1 := rfl
@[simp] theorem rd_fresh : s.fresh.2.rd k = s.rd k := rfl
@[simp] theorem fld_fresh : s.fresh.2.fld p f = s.fld p f := rfl

end Sys2Proof.Machine.Zone
end

