-- ==== Sys2Proof/Laws/Ops.lean ====
section
/-! SUPPORT. The laws of the shared operations: what a register word, a field, a flag and a counter read after each update, and what
the three ways of running a command answer. -/

namespace Sys2Proof.Machine

/-! ### Running a command -/

theorem State.run_eq (s : State) (f : Zone → Zone) : s.run f = .next { s with zone := f s.zone } := rfl

/-- A command of firmware has its effect once the clusters are released (R682). -/
theorem State.runFw_released (s : State) (f : Zone → Zone) (h : s.zone.start.released = true) :
    s.runFw f = .next { s with zone := f s.zone } := by simp [State.runFw, State.run, h]

/-- And none before. -/
theorem State.runFw_held (s : State) (f : Zone → Zone) (h : s.zone.start.released = false) : s.runFw f = .next s := by
  simp [State.runFw, State.run, h]

/-- A command of the hardware has its effect while the module's logic runs (R39, R448). -/
theorem State.runOn_runs (s : State) (f : Zone → Zone) (h : s.zone.logicRuns = true) :
    s.runOn f = .next { s with zone := f s.zone } := by simp [State.runOn, State.run, h]

/-- And none in SLEEP and OFF. -/
theorem State.runOn_rests (s : State) (f : Zone → Zone) (h : s.zone.logicRuns = false) : s.runOn f = .next s := by
  simp [State.runOn, State.run, h]

theorem State.runBy_keeper (s : State) (k : Keeper) (f : Zone → Zone) (h : s.zone.logicRuns = true) :
    s.runBy (.keeper k) f = .next { s with zone := f s.zone } := State.runOn_runs s f h

theorem State.runBy_firmware (s : State) (src : Source) (f : Zone → Zone) (h : s.zone.start.released = true) :
    s.runBy (.firmware src) f = .next { s with zone := f s.zone } := State.runFw_released s f h

/-- Whoever writes, the queue stays as it was. -/
theorem State.runBy_next (s : State) (w : Writer) (f : Zone → Zone) : ∃ z, s.runBy w f = .next { s with zone := z } := by
  cases w with
  | firmware src => exact ⟨_, rfl⟩
  | keeper k => exact ⟨_, rfl⟩

namespace Zone

/-! ### Words -/

@[simp] theorem rd_wr_same (s : Zone) (k : Nat) (v : Word) : (s.wr k v).rd k = v := SMap.get_set_same _ _ _ _

theorem rd_wr_ne (s : Zone) (k l : Nat) (v : Word) (h : l ≠ k) : (s.wr k v).rd l = s.rd l := SMap.get_set_ne _ _ _ _ _ h

theorem rd_setFld_ne (s : Zone) (p : Nat) (f : Fld) (v l : Nat) (h : l ≠ p + f.off) : (s.setFld p f v).rd l = s.rd l :=
  rd_wr_ne _ _ _ _ h

/-! ### Registers alone decide what a word, a field and a flag read -/

theorem rd_congr {s t : Zone} (h : s.regs = t.regs) (k : Nat) : s.rd k = t.rd k := by unfold rd; rw [h]

theorem fld_congr {s t : Zone} (h : s.regs = t.regs) (p : Nat) (f : Fld) : s.fld p f = t.fld p f := by
  unfold fld; rw [rd_congr h]

theorem flag_congr {s t : Zone} (h : s.regs = t.regs) (p : Nat) (f : Fld) : s.flag p f = t.flag p f := by
  unfold flag; rw [fld_congr h]

theorem mode_congr {s t : Zone} (h : s.regs = t.regs) : s.mode = t.mode := by unfold mode; rw [fld_congr h]

/-! ### Fields -/

theorem fld_setFld_same (s : Zone) (p : Nat) (f : Fld) (v : Nat) (h : f.lo + f.w ≤ 32) :
    (s.setFld p f v).fld p f = v % 2 ^ f.w := by
  simp only [fld, setFld, rd_wr_same]
  exact Fld.get_put f _ v h

/-- Another field keeps its value: it lies in another word, or beside the one that is set. -/
theorem fld_setFld_ne (s : Zone) (p q : Nat) (f g : Fld) (v : Nat)
    (h : q + g.off ≠ p + f.off ∨ (g.lo + g.w ≤ 32 ∧ (f.lo + f.w ≤ g.lo ∨ g.lo + g.w ≤ f.lo))) :
    (s.setFld p f v).fld q g = s.fld q g := by
  simp only [fld, setFld]
  by_cases e : q + g.off = p + f.off
  · rw [e, rd_wr_same]
    rcases h with h | h
    · exact absurd e h
    · exact Fld.get_put_ne f g _ v h.1 h.2
  · rw [rd_wr_ne _ _ _ _ e]

theorem flag_setFlag_same (s : Zone) (p : Nat) (f : Fld) (b : Bool) (h : f.lo + f.w ≤ 32) (hw : f.w ≠ 0) :
    (s.setFlag p f b).flag p f = b := by
  have h2 : 2 ≤ 2 ^ f.w := by
    have := Nat.pow_le_pow_right (n := 2) (by omega) (show 1 ≤ f.w by omega)
    omega
  unfold flag setFlag
  rw [fld_setFld_same s p f _ h, Nat.mod_eq_of_lt (by have := b2n_lt b; omega)]
  cases b <;> rfl

theorem flag_event_same (s : Zone) (p : Nat) (f : Fld) (h : f.lo + f.w ≤ 32) (hw : f.w ≠ 0) :
    (s.event p f).flag p f = true := flag_setFlag_same s p f true h hw

theorem flag_setFld_ne (s : Zone) (p q : Nat) (f g : Fld) (v : Nat)
    (h : q + g.off ≠ p + f.off ∨ (g.lo + g.w ≤ 32 ∧ (f.lo + f.w ≤ g.lo ∨ g.lo + g.w ≤ f.lo))) :
    (s.setFld p f v).flag q g = s.flag q g := by
  unfold flag
  rw [fld_setFld_ne s p q f g v h]

/-- A saturating counter stops at its highest value. -/
theorem fld_countBy_same (s : Zone) (p : Nat) (f : Fld) (n : Nat) (h : f.lo + f.w ≤ 32) :
    (s.countBy p f n).fld p f = min (s.fld p f + n) (2 ^ f.w - 1) := by
  unfold countBy
  rw [fld_setFld_same s p f _ h, Nat.mod_eq_of_lt (satU_lt f.w _)]
  rfl

theorem fld_count_same (s : Zone) (p : Nat) (f : Fld) (h : f.lo + f.w ≤ 32) :
    (s.count p f).fld p f = min (s.fld p f + 1) (2 ^ f.w - 1) := fld_countBy_same s p f 1 h

theorem fld_lt (s : Zone) (p : Nat) (f : Fld) : s.fld p f < 2 ^ f.w := Fld.get_lt f _

/-! ### Conditions and loops -/

@[simp] theorem when_true (s : Zone) (f : Zone → Zone) : s.when true f = f s := rfl
@[simp] theorem when_false (s : Zone) (f : Zone → Zone) : s.when false f = s := rfl

@[simp] theorem forEach_nil {α : Type} (s : Zone) (f : Zone → α → Zone) : s.forEach [] f = s := rfl
@[simp] theorem forEach_cons {α : Type} (s : Zone) (a : α) (l : List α) (f : Zone → α → Zone) :
    s.forEach (a :: l) f = (f s a).forEach l f := rfl

/-- What every round of a loop keeps, the loop keeps. -/
theorem forEach_keeps {α : Type} (P : Zone → Prop) (l : List α) (f : Zone → α → Zone) (hf : ∀ z a, P z → P (f z a)) (s : Zone)
    (h : P s) : P (s.forEach l f) := by
  induction l generalizing s with
  | nil => exact h
  | cons a l ih => exact ih (f s a) (hf s a h)

end Zone

end Sys2Proof.Machine
end

