-- ==== Sys2Proof/Laws/Commands.lean ====
section
/-! SUPPORT. What a supervisor command does once it passes the checks of R46, said once for the twenty of them; how a command that
answers a next state completes. -/

namespace Sys2Proof.Machine

/-! ### Conditions -/

theorem State.runBy_runs (s : State) (w : Writer) (f : Zone → Zone) (h : s.zone.writerActs w = true) :
    s.runBy w f = .next { s with zone := f s.zone } := by
  cases w with
  | firmware src => exact s.runFw_released f h
  | keeper k => exact s.runOn_runs f h

theorem Zone.paced_due (z : Zone) (key period : Nat) (f : Zone → Zone) (h : z.paceDue key period = true) :
    z.paced key period f = f { z with pace := SMap.set (fun _ => 0) z.pace key (z.mono + 1) } := by
  unfold paceDue at h
  unfold paced
  split <;> simp_all

/-- A voltage above the window of a threshold lies above its switching point, one below the window below it (R64). -/
theorem Threshold.above_window (t : Threshold) (v : BitVec 16) (h : t.window.1 + t.window.2 < v.toInt) : t.above v = true := by
  have := Nat.mod_lt (Config.supplyPoint t.index) (show 0 < t.window.2 + 1 by omega)
  exact decide_eq_true (by unfold point; omega)

theorem Threshold.below_window (t : Threshold) (v : BitVec 16) (h : v.toInt < t.window.1) : t.below v = true := by
  exact decide_eq_true (by unfold point; omega)

theorem Threshold.not_below_window (t : Threshold) (v : BitVec 16) (h : t.window.1 + t.window.2 ≤ v.toInt) : t.below v = false := by
  have := Nat.mod_lt (Config.supplyPoint t.index) (show 0 < t.window.2 + 1 by omega)
  exact decide_eq_false (by unfold point; omega)

/-! ### Supervisor commands -/

/-- The module after an accepted command has raised the highest SEQ. -/
def Zone.seqTaken (z : Zone) (e : Envelope) : Zone := (z.setSupv fun x => { x with noticeDue := none }).seqAccepted e.seq

theorem Zone.seqTaken_eq (z : Zone) (e : Envelope) (h : z.sleep.phase = 0) :
    z.seqTaken e = { z.setFld (pZONE 0) Reg.ZONE0.SUPV_SEQ_HIGH_LO e.seq.toNat with
      supv := { z.supv with noticeDue := none, seqHigh := some e.seq },
      sleep := { z.sleep with heard := z.sleep.heard.or (some z.mono), awakeFrom := z.mono } } := by
  simp [seqTaken, seqAccepted, networkManagement, setSupv, heardBus, setSleep, h, setFld, wr, rd]

/-- An accepted command with a good argument has its effect. -/
theorem Zone.command_accepted (z : Zone) (code : Nat) (e : Envelope) (argOk : Zone → Bool) (effect : Zone → Zone)
    (h : z.Accepts code e) (ha : argOk (z.seqTaken e) = true) : z.command code e argOk effect = effect (z.seqTaken e) := by
  obtain ⟨⟨h1, h2, h3, h4, h5, h6, h7, h8, h9, h10⟩, h11⟩ := h
  have hs := z.seqTaken_eq e h8
  have hr : (z.seqTaken e).regs = (z.setFld (pZONE 0) Reg.ZONE0.SUPV_SEQ_HIGH_LO e.seq.toNat).regs := by rw [hs]
  have f1 : (z.seqTaken e).flag (pZONE 0) Reg.ZONE0.SUPV_BOUND = true := by
    rw [flag_congr hr, flag_setFld_ne _ _ _ _ _ _ (by decide), h5]
  have f2 : (z.seqTaken e).flag (pZONE 0) Reg.ZONE0.STATE_SLEEP_PENDING = false := by
    rw [flag_congr hr, flag_setFld_ne _ _ _ _ _ _ (by decide), h7]
  have f3 : (z.seqTaken e).mode = z.mode := by
    rw [mode_congr hr]; unfold mode; rw [fld_setFld_ne _ _ _ _ _ _ (by decide)]
  have f4 : (z.seqTaken e).lifeCyclePermits code = true := by rw [hs]; exact h9
  have f5 : (z.seqTaken e).conflicts code = false := by rw [hs]; exact h10
  have h2' : ¬ 1024 < e.args.length := by omega
  have h4' : ¬ e.seq.toNat ≤ (z.supv.seqHigh.getD 0).toNat := by omega
  have e1 : z.command code e argOk effect = (z.seqTaken e).judged code e.seq (argOk (z.seqTaken e)) effect := by
    unfold command
    rw [if_neg (by simp [h1]), if_neg h2', if_neg (by simp [h3]), if_neg (by simp [h11])]
    exact if_neg h4'
  rw [e1]
  unfold judged
  simp [f1, f2, f3, f4, f5, h6, ha]

/-- How a supervisor command completes. -/
theorem completes_command (c : Instr) (s : State) (code : Nat) (e : Envelope) (argOk : Zone → Bool) (effect : Zone → Zone)
    (P : Zone → Prop) (hc : exec c s = .next { s with zone := s.zone.command code e argOk effect }) (h : s.zone.Accepts code e)
    (ha : argOk (s.zone.seqTaken e) = true) (hp : P (effect (s.zone.seqTaken e))) : Completes c s P :=
  ⟨_, hc.trans (by rw [Zone.command_accepted _ _ _ _ _ h ha]), hp⟩

end Sys2Proof.Machine
end

