-- ==== Sys2Proof/Laws/Memory.lean ====
section
/-! SUPPORT. Addressed memory: what a read gives after a write, and that every operation on memory and on register words keeps the
one canonical form; the form holds at reset. -/

namespace Sys2Proof.Machine

namespace Zone

/-! ### Read after write -/

@[simp] theorem memByte_setMemByte_same (s : Zone) (a : Nat) (b : Byte) : (s.setMemByte a b).memByte a = b := SMap.get_set_same _ _ _ _

theorem memByte_setMemByte_ne (s : Zone) (a c : Nat) (b : Byte) (h : c ≠ a) : (s.setMemByte a b).memByte c = s.memByte c :=
  SMap.get_set_ne _ _ _ _ _ h

@[simp] theorem rd_setMemByte (s : Zone) (a k : Nat) (b : Byte) : (s.setMemByte a b).rd k = s.rd k := rfl

@[simp] theorem memByte_wr (s : Zone) (k a : Nat) (v : Word) : (s.wr k v).memByte a = s.memByte a := rfl

/-- Taking a reservation away touches neither registers nor memory. -/
theorem unreserve_keeps (s : Zone) (a : Nat) : (s.unreserve a).regs = s.regs ∧ (s.unreserve a).mem = s.mem := by
  unfold unreserve
  refine forEach_keeps (fun z => z.regs = s.regs ∧ z.mem = s.mem) _ _ (fun z n h => ?_) s ⟨rfl, rfl⟩
  dsimp only
  split
  · split <;> exact h
  · exact h

/-- A byte put into memory reads back, unless the complement of another TCM byte lies there. -/
theorem memByte_putByte_same (s : Zone) (a : Nat) (b : Byte) : (s.putByte a b).memByte a = b := by
  have h : ((s.setMemByte a b).unreserve a).memByte a = b := by
    unfold memByte
    rw [(unreserve_keeps _ a).2]
    exact memByte_setMemByte_same s a b
  unfold putByte
  dsimp only
  split
  · rw [memByte_setMemByte_ne _ _ _ _ (by omega)]
    exact h
  · exact h

/-! ### The canonical form -/

theorem canonical_congr {s t : Zone} (hr : t.regs = s.regs) (hm : t.mem = s.mem) : t.canonical = s.canonical := by
  unfold canonical
  rw [hr, hm]

theorem canonical_wr (s : Zone) (k : Nat) (v : Word) (h : s.canonical = true) : (s.wr k v).canonical = true := by
  simp only [canonical, Bool.and_eq_true] at h ⊢
  exact ⟨SMap.wf_set _ _ _ _ h.1, h.2⟩

theorem canonical_setFld (s : Zone) (p : Nat) (f : Fld) (v : Nat) (h : s.canonical = true) : (s.setFld p f v).canonical = true :=
  canonical_wr _ _ _ h

theorem canonical_setMemByte (s : Zone) (a : Nat) (b : Byte) (h : s.canonical = true) : (s.setMemByte a b).canonical = true := by
  simp only [canonical, Bool.and_eq_true] at h ⊢
  exact ⟨h.1, SMap.wf_set _ _ _ _ h.2⟩

theorem canonical_unreserve (s : Zone) (a : Nat) (h : s.canonical = true) : (s.unreserve a).canonical = true := by
  rw [canonical_congr (unreserve_keeps s a).1 (unreserve_keeps s a).2]
  exact h

theorem canonical_putByte (s : Zone) (a : Nat) (b : Byte) (h : s.canonical = true) : (s.putByte a b).canonical = true := by
  have h1 := canonical_unreserve _ a (canonical_setMemByte s a b h)
  unfold putByte
  dsimp only
  split
  · exact canonical_setMemByte _ _ _ h1
  · exact h1

theorem canonical_storeByte (s : Zone) (a : Nat) (b : Byte) (h : s.canonical = true) : (s.storeByte a b).canonical = true := by
  unfold storeByte
  split
  · exact h
  · exact canonical_putByte s a b h

theorem canonical_storeBytes (l : List Byte) (s : Zone) (a : Nat) (h : s.canonical = true) : (s.storeBytes a l).canonical = true := by
  induction l generalizing s a with
  | nil => exact h
  | cons b r ih => exact ih _ _ (canonical_storeByte s a b h)

/-- Memory of which a range is forgotten. -/
theorem canonical_keepMem (s : Zone) (p : Nat → Bool) (h : s.canonical = true) :
    ({ s with mem := SMap.keep p s.mem }).canonical = true := by
  simp only [canonical, Bool.and_eq_true] at h ⊢
  exact ⟨h.1, SMap.wf_keep _ _ _ h.2⟩

theorem canonical_loseDram (s : Zone) (h : s.canonical = true) : s.loseDram.canonical = true := canonical_keepMem s _ h

theorem canonical_zeroMem (s : Zone) (lo n : Nat) (h : s.canonical = true) : (s.zeroMem lo n).canonical = true := canonical_keepMem s _ h

end Zone

/-- Nothing is listed in memory at reset. -/
theorem reset_mem : State.reset.zone.mem = [] := by decide +kernel

end Sys2Proof.Machine
end

