-- ==== Sys2Proof/WellFormed.lean ====
section
/-! DEFINITION. Which commands are well-formed: the checks on operands whose type admits more than the spec does. A Tamva instruction
is well-formed where R166 lets a table hold it; exec gives every command an outcome, well-formed or not. -/

namespace Sys2Proof

open Sys2Proof.Machine

/-- The sizes of an access (R14, R501). -/
def accessSize (n : Nat) : Bool := decide (n = 1 ∨ n = 2 ∨ n = 4 ∨ n = 8)

/-- A write whose mode is that of R139 comes from a keeper. -/
def keeperWriter : Writer → Bool
  | .keeper _ => true
  | .firmware _ => false

/-- The format, identifier width and data length of a CAN frame (R419). -/
def canFrameOk (f : CanFrame) : Bool :=
  decide (f.format ≤ 2) && (f.ide || decide (f.ident.toNat < 2048)) &&
    decide (f.data.length ≤ (if f.format = 0 then 8 else if f.format = 1 then 64 else 2048))

/-- The stores of a leg are of 1, 2 or 4 bytes (R481). -/
def legResultOk : LegResult → Bool
  | .reg _ _ => true
  | .csrRead _ _ _ => true
  | .csr _ _ => true
  | .store _ size _ => decide (size = 1 ∨ size = 2 ∨ size = 4)
  | .trap _ _ _ => true

/-- Every result of a pass is well-formed. -/
def legPassOk (p : LegPass) : Bool := p.results.all legResultOk && decide (p.retired ≤ 64)

/-- The failing bits of a memory instance lie in its words (R653). -/
def memoryRunOk (r : MemoryRun) : Bool := (r.fails ++ r.again).all fun f => decide (f.bit < r.width)

/-- What a block's BIST finds is well-formed. -/
def blockBistOk (b : BlockBist) : Bool := b.memory.all memoryRunOk

/-- Whether a command is well-formed. -/
def wellFormed (c : Instr) : Bool :=
  match c with
  | .registerWrite writer _ size mode _ => accessSize size.toNat && (decide (mode = 0) || keeperWriter writer)
  | .rcRead _ _ size => accessSize size.toNat
  | .pageLock _ page => populated page
  | .dcqPacketWrite _ words _ => decide (words ≠ [])
  | .dcqWordRead _ _ => true
  | .dcqClockStop _ => true
  | .clockMonitorWindow _ window => decide (window.count < 2 ^ 32)
  | .startNotice => true
  | .startNoticeRepeat => true
  | .getStatus env => decide (env.args.length ≤ 1024)
  | .reset env => decide (env.args.length ≤ 1024)
  | .bindSupervisor env => decide (env.args.length ≤ 1024)
  | .setProfile env => decide (env.args.length ≤ 1024)
  | .loadTable env _ => decide (env.args.length ≤ 1024)
  | .commitTable env => decide (env.args.length ≤ 1024)
  | .rollbackTable env => decide (env.args.length ≤ 1024)
  | .watchChange env => decide (env.args.length ≤ 1024)
  | .sleepRequest env => decide (env.args.length ≤ 1024)
  | .scheduleGlobal env => decide (env.args.length ≤ 1024)
  | .cancelGlobal env => decide (env.args.length ≤ 1024)
  | .forceTimeStep env => decide (env.args.length ≤ 1024)
  | .grantResource env => decide (env.args.length ≤ 1024)
  | .keyRoll env => decide (env.args.length ≤ 1024)
  | .logFreeze env => decide (env.args.length ≤ 1024)
  | .readStartReasons env => decide (env.args.length ≤ 1024)
  | .clearStartCount env => decide (env.args.length ≤ 1024)
  | .exitLightship env => decide (env.args.length ≤ 1024)
  | .enterTest env => decide (env.args.length ≤ 1024)
  | .exitTest env => decide (env.args.length ≤ 1024)
  | .powerUp => true
  | .orderlyReset => true
  | .crankHoldEntry => true
  | .crankHoldExit => true
  | .crankAccClear => true
  | .crankLimit => true
  | .surgeEntry _ _ => true
  | .surgeLong _ => true
  | .surgeExit _ _ => true
  | .feedLost _ _ => true
  | .reverseEntry _ _ => true
  | .feedReturn _ _ => true
  | .gndLost _ => true
  | .gndRestored _ => true
  | .feedOverload _ _ => true
  | .inputSample _ millivolts => decide (millivolts < 2 ^ 16)
  | .inputLevelChange _ => true
  | .captureRise _ => true
  | .captureFall _ => true
  | .captureTimeout _ => true
  | .inCfgWrite _ _ _ => true
  | .inThreshWrite _ _ _ => true
  | .thermalSample _ _ _ _ _ => true
  | .opAdd _ _ _ _ _ => true
  | .opSub _ _ _ _ _ => true
  | .opAnd _ _ _ _ _ => true
  | .opOr _ _ _ _ _ => true
  | .opXor _ _ _ _ _ => true
  | .opShl _ _ _ _ _ => true
  | .opShr _ _ _ _ _ => true
  | .opSra _ _ _ _ _ => true
  | .opMul _ _ _ _ _ _ => true
  | .opMulh _ _ _ _ _ _ => true
  | .opMin _ _ _ _ _ _ => true
  | .opMax _ _ _ _ _ _ => true
  | .opSat _ _ _ _ _ _ => true
  | .opAddi _ _ _ _ _ => true
  | .opAndi _ _ _ _ _ => true
  | .opOri _ _ _ _ _ => true
  | .opXori _ _ _ _ _ => true
  | .opLui _ _ _ => true
  | .opCmpi _ _ _ => true
  | .opCmp _ _ _ => true
  | .opTst _ _ _ => true
  | .opSkip _ _ _ => true
  | .opLdc _ _ _ => true
  | .opStc _ _ _ => true
  | .opLdcx _ _ _ _ => true
  | .opStcx _ _ _ _ => true
  | .opMirr _ _ => true
  | .opCrd _ _ page _ => pageAllowed page false
  | .opCwr _ _ page _ => pageAllowed page true
  | .opCwrSet _ _ page _ => pageAllowed page true
  | .opCwrClr _ _ page _ => pageAllowed page true
  | .opCwrTgl _ _ page _ => pageAllowed page true
  | .opCop _ wd _ page _ => decide (wd ≠ 0) && pageAllowed page true
  | .opChkt _ _ => true
  | .opTkr _ _ _ => true
  | .opCrdx _ _ _ page _ => pageAllowed page false
  | .opCwrx _ _ _ page => pageAllowed page true
  | .opQpop _ _ _ => true
  | .opQpush _ _ _ => true
  | .opQlen _ _ _ _ => true
  | .opTnow _ _ => true
  | .opTsec _ _ => true
  | .opTslot _ _ => true
  | .opEvt _ _ code => decide (code ≠ 0)
  | .opFlt _ _ code => decide (code ≠ 0)
  | .opNop _ => true
  | .opEnd _ => true
  | .ecallAbsent _ => true
  | .budgetOverrun _ => true
  | .selfCheckFailure _ _ => true
  | .ticketCompletion _ _ _ _ _ => true
  | .ticketTimeout _ => true
  | .slotMark => true
  | .roundBoundary => true
  | .requestPost _ _ _ => true
  | .frameTimeout _ => true
  | .eventPop _ _ => true
  | .eventQueueNotice _ => true
  | .loaderVerdict _ => true
  | .beaconReceive _ _ disturbed => disturbed.all fun n => decide (n < 112)
  | .localMark _ => true
  | .fenceConfirm _ => true
  | .hardIsolation _ => true
  | .stageSilent _ => true
  | .mirrorFrameReceive _ _ _ => true
  | .chCtrlWrite _ _ => true
  | .fastTrip _ _ => true
  | .warmupTripTaken _ => true
  | .softLimitTick _ _ => true
  | .junctionSample _ _ => true
  | .spacingEnd _ => true
  | .windowEnd _ => true
  | .refill _ => true
  | .reverseGapEnd _ => true
  | .feedSag _ => true
  | .openLoadFilter _ low high => low.sle high
  | .switchFaultDetect _ senseMin senseMax voutMin voutMax _ => senseMin.sle senseMax && voutMin.sle voutMax
  | .clearRetry _ _ _ => true
  | .offDiag _ _ _ _ _ => true
  | .offDiagDone _ millivolts => decide (millivolts < 2 ^ 16)
  | .snapshot _ _ _ => true
  | .generatorBoundary _ => true
  | .followBoundary _ => true
  | .charStagedWrite _ _ _ => true
  | .stageHoldWrite _ _ => true
  | .calEdge _ _ _ _ _ _ _ _ _ => true
  | .calStale _ => true
  | .calRestart _ _ => true
  | .calRecordWrite => true
  | .balanceEval _ _ _ _ _ _ _ => true
  | .ringUpdate => true
  | .ringRestart _ => true
  | .frameReceive _ _ _ _ => true
  | .losslessAdmit _ _ _ => true
  | .hostTxFetch _ => true
  | .hostRxDeliver _ => true
  | .doorbell _ _ _ _ _ => true
  | .crossbarSchedule _ _ => true
  | .frameTransmitStart _ _ _ => true
  | .gateEntryChange _ => true
  | .gateCommit _ => true
  | .streamGateChange _ => true
  | .ageCheck => true
  | .linkDown _ => true
  | .linkUp _ _ _ _ => true
  | .holdExpiry _ => true
  | .tableWrite _ _ _ _ => true
  | .tableRead _ _ _ _ => true
  | .tableClear _ _ _ _ => true
  | .acfSend _ _ _ => true
  | .acfTake _ _ _ => true
  | .counterRead _ _ => true
  | .saInstall _ _ _ _ _ _ _ => true
  | .frerResetTimeout _ => true
  | .servoMeasurement _ => true
  | .sourceLost _ => true
  | .ptpMessageReceive _ _ _ => true
  | .ptpTransmit _ _ _ => true
  | .ppsEdge _ => true
  | .ppsLost => true
  | .integrityCheck _ _ => true
  | .tsqPop _ _ => true
  | .timeSnap _ => true
  | .servoSourceWrite _ _ => true
  | .forceStepTimeout => true
  | .globalLogSnapshot => true
  | .globalKeyRoll => true
  | .globalReset => true
  | .globalProfile => true
  | .globalTableMark => true
  | .canFrameReceive _ frame _ => canFrameOk frame
  | .ringNotice _ => true
  | .rxAckWrite _ _ _ => true
  | .txStart _ _ _ _ _ => true
  | .canArbitration _ => true
  | .canAttemptEnd _ _ => true
  | .txExpired _ => true
  | .recover _ _ _ => true
  | .recoveryDone _ => true
  | .recoveryTimeout _ => true
  | .abortPending _ _ _ => true
  | .tmReference _ _ => true
  | .linHeader _ _ _ _ _ => true
  | .linFrameEnd _ result =>
      match result with
      | .complete data _ => decide (1 ≤ data.length ∧ data.length ≤ 8)
      | .bitError done => decide (done.length ≤ 8)
      | .framing done => decide (done.length ≤ 8)
  | .linResponseTimeout _ received => decide (received.length ≤ 8)
  | .linBusShort short => decide (short.done.length ≤ 8)
  | .linWakeup _ _ _ _ => true
  | .linWakeupDone _ => true
  | .linHeaderReceive _ _ _ _ => true
  | .linWakeRx _ _ => true
  | .serSend _ _ _ _ => true
  | .serAbort _ _ _ => true
  | .serSendStart _ => true
  | .serSendEnd _ => true
  | .serBusyExpired _ => true
  | .serCharReceive _ _ _ _ _ => true
  | .serPacketEnd _ => true
  | .trxWatchdogServe _ => true
  | .trxFallback _ => true
  | .fallbackWake _ _ => true
  | .drainEnd => true
  | .commitPoint => true
  | .sleepEntryComplete => true
  | .inputWake _ _ => true
  | .wakePoll _ _ => true
  | .canWake _ _ => true
  | .ethWake _ => true
  | .wakeTimer => true
  | .wakeStart => true
  | .awakeLimit => true
  | .keepAwake _ => true
  | .falseWakeCheck => true
  | .dualpassLeg _ _ native inverted _ => legPassOk native && legPassOk inverted
  | .legRerun _ _ native inverted _ => legPassOk native && legPassOk inverted
  | .accessLeg _ _ _ _ _ _ _ _ => true
  | .comparatorSelftest _ _ => true
  | .debugAttach => true
  | .zdpClrCounts _ _ _ => true
  | .zdpInjectArm _ _ _ => true
  | .xzmrWrite _ _ _ _ _ => true
  | .worldSwitch _ _ => true
  | .memoryAccess _ kind _ size data =>
      decide (0 < size.toNat ∧ size.toNat ≤ 64) && (match kind with | .write => decide (data.length = size.toNat) | .atomic => decide (data.length = size.toNat) | .read => decide (data = []) | .fetch => decide (data = []))
  | .dmaTranslate _ _ _ _ _ => true
  | .tuFaultPop _ => true
  | .invalAll _ => true
  | .invalMooring _ _ => true
  | .invalPage _ _ => true
  | .invalDone => true
  | .fwGrant _ args => decide (args.length = 16 ∧ grantMode args = 0)
  | .fwRelease _ args => decide (args.length = 16 ∧ grantMode args = 1)
  | .fwTableGrant _ args => decide (args.length = 16 ∧ grantMode args = 2)
  | .grantQuiesceEnd => true
  | .grantTimeout => true
  | .queuePairEnable _ _ _ => true
  | .swdtKick _ => true
  | .secureReady _ => true
  | .swdtExpiry => true
  | .secureReadyTimeout => true
  | .gateRun _ _ => true
  | .gateClockOff _ _ => true
  | .gatePowerOff _ _ => true
  | .gateChangeDone _ => true
  | .holdSet _ _ => true
  | .holdClr _ _ => true
  | .hingeForward hinge inbound _ arrival =>
      arrival.all fun t => decide (hinge.val = 0 ∧ inbound = true ∧ 0 < t.size.toNat ∧ (t.write = true → t.data.length = t.size.toNat))
  | .hingeCompletion _ _ _ _ _ _ _ => true
  | .cplTimeout _ _ _ => true
  | .h0LinkDown => true
  | .h0LinkUp _ _ => true
  | .intxMessage => true
  | .errPop _ _ => true
  | .discPop _ _ => true
  | .prefetchAged _ _ _ => true
  | .copyStart _ => true
  | .copyEnd => true
  | .logFrameIntake => true
  | .postCommit _ _ _ => true
  | .postTaken _ => true
  | .moduleRecord => true
  | .recordHash _ => true
  | .segmentTimeClose _ => true
  | .nvmeSubmit => true
  | .nvmeCompletion _ _ => true
  | .storeResume _ => true
  | .freezeRelease _ _ => true
  | .gcmEncrypt _ _ _ => true
  | .gcmDecrypt _ _ _ => true
  | .macGen _ _ _ => true
  | .macVerify _ _ _ => true
  | .sign _ _ _ => true
  | .verify _ _ _ => true
  | .hash _ _ _ => true
  | .keyWrite _ _ _ => true
  | .derive _ _ _ => true
  | .keyClear _ _ _ => true
  | .wrap _ _ _ => true
  | .unwrap _ _ _ => true
  | .attest _ _ _ => true
  | .jobBegin => true
  | .jobComplete => true
  | .keyringRecordWrite => true
  | .lcToFactory _ _ => true
  | .lcToField _ _ => true
  | .lcToReturn _ _ => true
  | .lcToScrap _ _ => true
  | .lcAdvanceDone _ => true
  | .debugOpenApp _ => true
  | .debugOpenSafety _ => true
  | .faultReport _ _ => true
  | .laneCompare => true
  | .demandRelease _ => true
  | .safetyReset => true
  | .monitorFence _ => true
  | .alarmPeriod _ => true
  | .alarmTest _ _ => true
  | .alarmTestEnd _ => true
  | .alarmReadbackCheck _ _ => true
  | .safeLogPop _ => true
  | .scrubRead _ _ _ => true
  | .windowConfirm _ => true
  | .windowTimeout _ => true
  | .bistWindowAbort _ => true
  | .bistDone results => results.all blockBistOk
  | .bootRomDone _ _ => true
  | .lsVerdict => true
  | .bootImagesVerified _ _ _ => true
  | .serviceTableVerdict _ => true
  | .safetyReady _ => true
  | .startComplete => true
  | .startDeadline => true
  | .startReport => true
  | .lsRaiseFloor _ => true
  | .lifeTimeSave => true
  | .logicBistStart _ block _ => decide (block.toNat < 20)
  | .memoryBistStart _ block runs => decide (block.toNat < 20) && runs.all memoryRunOk
  | .repairProg _ _ => true
  | .malformedCommand _ => true
  | .generatorEdge _ => true
  | .frameTransmitEnd _ => true
  | .canReceiveError _ _ => true
  | .sqiLow _ _ => true

end Sys2Proof
end

