-- ==== Sys2Proof/Tests/Slice0.lean ====
section
/-! SUPPORT. Witnesses: for every clause of an obligation that has hypotheses, a state and operands that meet all of them. Then the
smoke test of WellFormed and single steps, with results worked out from the spec. -/

namespace Sys2Proof.Tests

open Sys2Proof Sys2Proof.Machine Reg

set_option maxRecDepth 100000
set_option Elab.async false
set_option linter.unusedVariables false
set_option maxHeartbeats 1000000

/-! ### States for witnesses -/

/-- A state with its module changed by `f`. -/
def on (s : State) (f : Zone → Zone) : State := { s with zone := f s.zone }

/-- The reset state in the module state of code m. -/
def wMode (m : Nat) : State := on State.reset fun z => z.setFld (pZONE 0) ZONE0.STATE_CURRENT m

/-- In SERVICE, firmware released, keeper A with the watch and B in standby. -/
def wSvc : State := on (wMode 3) fun z =>
  { (z.setFld (pKEEPER .A) KEEPER.KSTATUS_ROLE 3).setFld (pKEEPER .B) KEEPER.KSTATUS_ROLE 2 with start := { z.start with released := true }, mono := 10000000000 }

def secureSrc : Source := ⟨.secure, 4⟩

/-- In SERVICE, with region 0 of controller c open to everyone from page b to page e. -/
def wOpen (c b e : Nat) : State := on wSvc fun z =>
  ((z.setFld (pREGN c) REGN.REGION_BASE b).setFld (pREGN c) REGN.REGION_LIMIT e).wr (pREGN c + REGN.REGION_EN.off) 0x8000000F#32

/-- The same with the whole register space open. -/
def wRegs : State := wOpen 12 0x1F0000 0x1F7FFF

/-- In SERVICE with a session key and a bound supervisor. -/
def wBnd : State := on wSvc fun z => { z.setFld (pZONE 0) ZONE0.SUPV_BOUND 1 with supv := { z.supv with sessionKey := some [1, 2] } }

/-- A word of a kind of page. -/
def wordOf (kind : PageKind) (off : Nat) : WordD := (wordD kind off).getD ⟨0, 0, 0, 0, 0, 0, 0, 0, 0, [], 0⟩

/-- The envelope of a command for the node of s, with the MAC that its session key gives. -/
def envOf (s : State) (code : Nat) (args : List Byte) : Envelope :=
  ⟨7, BitVec.ofNat 18 s.zone.node, args,
    cmac (s.zone.supv.sessionKey.getD []) (envelopeBytes code 7 (BitVec.ofNat 18 s.zone.node).toNat 0 0 args)⟩

/-- The same with keeper B in trial and ready. -/
def wTrial : State := on wBnd fun z =>
  { (z.setFld (pKEEPER .B) KEEPER.KSTATUS_ROLE Role.trial).setFld (pKEEPER .B) KEEPER.TRIAL_ROUNDS 64 with
    keeperA := { z.keeperA with rounds := 64, other := { z.keeperA.other with slot := some 0, valid := 64 } },
    keeperB := { z.keeperB with rounds := 64, lastFrame := some 0 } }

/-- The same with keeper A in trial and keeper B at the watch. -/
def wTrialA : State := on wBnd fun z =>
  { (((z.setFld (pKEEPER .A) KEEPER.KSTATUS_ROLE Role.trial).setFld (pKEEPER .B) KEEPER.KSTATUS_ROLE Role.watch).setFld (pKEEPER .A)
      KEEPER.TRIAL_ROUNDS 64).setFld (pKEEPER .A) KEEPER.TRIAL_FAULTS 3 with
    keeperB := { z.keeperB with rounds := 64, other := { z.keeperB.other with slot := some 0, valid := 64 } },
    keeperA := { z.keeperA with rounds := 64, lastFrame := some 0 } }

/-- Keeper B in standby and ready. -/
def wReady : State := on wBnd fun z =>
  { z with keeperA := { z.keeperA with rounds := 64, other := { z.keeperA.other with same := 64 } },
           keeperB := { z.keeperB with rounds := 64, lastFrame := some 0 } }

/-- With the logbook running. -/
def wLog : State := on wBnd fun z => (z.setFld pLOG LOG0.LOG_CTRL_EN 1).setFld pLOG LOG0.STAGE_SIZE_UNITS 4

/-- In phase 7 of a start, everything ready, keeper A at slot 0 of a service table. -/
def wStarted : State := on State.reset fun z =>
  { (((z.setPhase 7).setFld (pZONE 6) ZONE6.READY_SAFETY 1).setFld pTU TU.SECURE_STATE_STATE SecState.ready).setFld (pKEEPER .A) KEEPER.KSTATUS_ROLE 3 with
    keeperA := { z.keeperA with half0 := some { Zone.romTable 1 1 with kind := 0 }, runs := some false } }

/-- Keeper A in a step, with W1 at its highest value and W2 at 1. -/
def wStep : State := on wSvc fun z => { z with keeperA := { z.keeperA with inStep := true, w := [(1, 0xFFFFFFFF), (2, 1)] } }

/-- The same with thresholds `old` at input 31 and W1 at v. -/
def wThresh (old v : Word) : State := on wStep fun z =>
  { z.wr (pINPUT 31 + 4) old with keeperA := { z.keeperA with w := [(1, v), (2, 1)] } }

/-- The same with the claim of the watch. -/
def wClaim : State := on wStep (·.setFld (pKEEPER .A) KEEPER.KSTATUS_CLAIM 200)

/-- The same with every ticket of keeper A issued. -/
def wNoTicket : State := on wStep fun z =>
  { z.setFld (pKEEPER .A) KEEPER.TICKETS_IN_USE 128 with tickets := (List.range 128).map fun n => (n, ⟨.issued, 1, 0, 0, 0, 0, 0⟩) }

/-- The same with ticket 127 of keeper A issued. -/
def wTicket : State := on wStep fun z => z.setTicket .A 127 ⟨.issued, 1, 0, 0, 0, 0, 0⟩

/-- The same with queue 255 declared as a request and as an event queue, and a word in the request queue. -/
def wQueues : State := on wStep fun z =>
  let b : QBind := ⟨.secure, 4, 8⟩
  { z with
    keeperA := { z.keeperA with
      half0 := some ⟨1, 1, 0, 0, 0, [], [], [], [], [], [⟨false, 255, b⟩, ⟨true, 255, b⟩]⟩, runs := some false },
    keeperSlots := 1, reqQs := [(255, { ReqQueue.init with bind := some b, words := [⟨7, 0⟩] })],
    evtQs := [(255, ⟨some b, [], false⟩)] }

/-- Keeper A holds the watch alone at a round boundary, with a table without steps. -/
def wAlone : State := on (wMode 3) fun z =>
  { ((z.setRole .A Role.watch).setFld (pZONE 7) ZONE7.PROFILE_REQ 2).setRole .B Role.stopped with
    keeperA := { z.keeperA with half0 := some ⟨1, 1, 0, 0, 1000, [], [], [], [], [], []⟩, runs := some false } }

theorem fastTripAt_lt (n : Nat) : fastTripAt n < 65535 := by
  unfold fastTripAt
  split <;> omega

/-! ### Supply, inputs and temperatures -/

theorem wit_supplyEventsShowAndSetTheBands_1 : ∃ (s : State), s.zone.logicRuns = true ∧ s.zone.supply.low = false ∧ s.zone.inSurge
    .A = false ∧ s.zone.inSurge .B = false :=
  ⟨wSvc, by decide +kernel⟩

theorem wit_supplyEventsShowAndSetTheBands_2 : ∃ (s : State), s.zone.logicRuns = false ∧ s.zone.supply.low = false ∧
    s.zone.inSurge .A = false ∧ s.zone.inSurge .B = false :=
  ⟨(wMode 1), by decide +kernel⟩

theorem wit_supplyEventsShowAndSetTheBands_3 : ∃ (s : State), s.zone.supply.low = true :=
  ⟨(on wSvc fun z => { z.setFld (pZONE 3) ZONE3.SUPPLY_STATUS_CRANK_HOLD 1 with supply := { z.supply with low := true } }), by
    decide +kernel⟩

theorem wit_supplyEventsShowAndSetTheBands_4 : ∃ (s : State) (t : Nat), s.zone.supply.aboveSince = some t ∧ t + 10 * 250000 ≤
    s.zone.mono :=
  ⟨(on wSvc fun z => { z with supply := { z.supply with aboveSince := some 9997500000 } }), 9997500000, by decide +kernel⟩

theorem wit_supplyEventsShowAndSetTheBands_5 : ∃ (s : State) (r : GndReading), s.zone.logicRuns = true ∧ r.feed = Feed.A ∧ 10000 <
    r.total ∧ r.path * 50 < r.total ∧ s.zone.flag (pZONE 3) ZONE3.SUPPLY_STATUS_GND_A_LOST = false :=
  ⟨wSvc, (⟨Feed.A, 200, 10001⟩), by decide +kernel⟩

theorem wit_supplyEventsShowAndSetTheBands_6 : ∃ (s : State) (r : GndReading), s.zone.logicRuns = true ∧ r.feed = Feed.B ∧ 10000 <
    r.total ∧ r.path * 50 < r.total ∧ s.zone.flag (pZONE 3) ZONE3.SUPPLY_STATUS_GND_B_LOST = false :=
  ⟨wSvc, (⟨Feed.B, 0, 10001⟩), by decide +kernel⟩

theorem wit_supplyEventsShowAndSetTheBands_7 : ∃ (s : State) (r : GndReading), s.zone.logicRuns = true ∧ 10000 < r.total ∧ r.total
    < r.path * 5 :=
  ⟨(on wSvc (·.setFld (pZONE 3) ZONE3.SUPPLY_STATUS_GND_A_LOST 1)), (⟨Feed.A, 2001, 10001⟩), by decide +kernel⟩

theorem wit_supplyEventsShowAndSetTheBands_8 : ∃ (s : State) (r : GndReading), r.total ≤ 10000 :=
  ⟨wSvc, (⟨Feed.A, 0, 10000⟩), by decide +kernel⟩

theorem wit_supplyEventsShowAndSetTheBands_9 : ∃ (s : State) (r : GndReading), r.total ≤ 10000 :=
  ⟨wSvc, (⟨Feed.A, 10000, 10000⟩), by decide +kernel⟩

theorem wit_supplyEventsShowAndSetTheBands_10 : ∃ (s : State) (a b : BitVec 16), s.zone.logicRuns = true :=
  ⟨wSvc, 8001, 7000, by decide +kernel⟩

theorem wit_supplyEventsShowAndSetTheBands_11 : ∃ (s : State) (f : Feed) (v : BitVec 16), s.zone.logicRuns = true ∧ s.zone.inSurge
    f = false ∧ Threshold.surgeEntry.above v = true :=
  ⟨wSvc, Feed.A, 0x39A8, ⟨by decide +kernel, by decide +kernel, Threshold.above_window _ _ (by decide +kernel)⟩⟩

theorem wit_supplyEventsShowAndSetTheBands_12 : ∃ (s : State) (f : Feed) (t : Nat), s.zone.logicRuns = true ∧ s.zone.feed f = ⟨1,
    some t, (s.zone.feed f).volts⟩ ∧ t + 400 * 250000 < s.zone.mono :=
  ⟨(on wSvc fun z => (z.setFld (pZONE 3) ZONE3.SUPPLY_STATUS_BAND_B 1).setFeed .B ⟨1, some 9899999999, none⟩), Feed.B, 9899999999,
    by decide +kernel⟩

theorem wit_supplyEventsShowAndSetTheBands_13 : ∃ (s : State) (f : Feed) (v : BitVec 16), s.zone.logicRuns = true ∧ s.zone.inSurge
    f = true ∧ Threshold.surgeExit.below v = true :=
  ⟨(on wSvc fun z => (z.setFld (pZONE 3) ZONE3.SUPPLY_STATUS_BAND_B 2).setFeed .B ⟨2, some 0, none⟩), Feed.B, 0x1234, ⟨by
    decide +kernel, by decide +kernel, Threshold.below_window _ _ (by decide +kernel)⟩⟩

theorem wit_supplyEventsShowAndSetTheBands_14 : ∃ (s : State) (f : Feed) (v : BitVec 16), s.zone.logicRuns = true ∧
    s.zone.feedBand f ≠ 4 ∧ Threshold.feedLost.below v = true ∧ Threshold.reverse.below v = false :=
  ⟨wSvc, Feed.B, 0, ⟨by decide +kernel, by decide +kernel, Threshold.below_window _ _ (by decide +kernel),
    Threshold.not_below_window _ _ (by decide +kernel)⟩⟩

theorem wit_supplyEventsShowAndSetTheBands_15 : ∃ (s : State) (f : Feed) (v : BitVec 16), s.zone.logicRuns = true ∧
    s.zone.feedBand f ≠ 3 ∧ Threshold.reverse.below v = true :=
  ⟨wSvc, Feed.A, 0x8000, ⟨by decide +kernel, by decide +kernel, Threshold.below_window _ _ (by decide +kernel)⟩⟩

theorem wit_supplyEventsShowAndSetTheBands_16 : ∃ (s : State) (f : Feed) (v : BitVec 16), s.zone.logicRuns = true ∧
    (s.zone.feedBand f = 3 ∨ s.zone.feedBand f = 4) ∧ Threshold.feedLost.below v = false :=
  ⟨(on wSvc fun z => (z.setFld (pZONE 3) ZONE3.SUPPLY_STATUS_BAND_A 4).setFeed .A ⟨4, none, none⟩), Feed.A, 0x1234, ⟨by
    decide +kernel, by decide +kernel, Threshold.not_below_window _ _ (by decide +kernel)⟩⟩

theorem wit_supplyEventsShowAndSetTheBands_17 : ∃ (s : State) (f : Feed) (v : BitVec 16), s.zone.logicRuns = false ∧
    s.zone.inSurge f = false ∧ Threshold.surgeEntry.above v = true :=
  ⟨(wMode 1), Feed.A, 0x39A8, ⟨by decide +kernel, by decide +kernel, Threshold.above_window _ _ (by decide +kernel)⟩⟩

theorem wit_supplyEventsShowAndSetTheBands_18 : ∃ (s : State) (f : Feed) (v : BitVec 16), s.zone.logicRuns = false ∧
    s.zone.feedBand f ≠ 3 ∧ Threshold.reverse.below v = true :=
  ⟨(wMode 1), Feed.A, 0x8000, ⟨by decide +kernel, by decide +kernel, Threshold.below_window _ _ (by decide +kernel)⟩⟩

theorem wit_inputsAndTemperaturesAreFollowed_1 : ∃ (s : State) (k : Fin 32) (mv : Nat), s.zone.convertersRun = true ∧
    s.zone.paceDue (Pace.input k.val) 2500 = true :=
  ⟨wSvc, 31, 65535, by decide +kernel⟩

theorem wit_inputsAndTemperaturesAreFollowed_2 : ∃ (s : State) (k : Fin 32), s.zone.convertersRun = true ∧ (s.zone.input
    k.val).since + s.zone.fld (pINPUT k.val) INPUT.IN_CFG_FILTER * 100 * 250 ≤ s.zone.mono ∧ (s.zone.input k.val).candidate ≠
    s.zone.flag (pINPUT k.val) INPUT.STATE_LEVEL :=
  ⟨(on wSvc fun z => (z.setFld (pINPUT 31) INPUT.IN_CFG_FILTER 1).setInput 31
    { z.input 31 with candidate := true, since := 9999975000 }), 31, by decide +kernel⟩

theorem wit_inputsAndTemperaturesAreFollowed_3 : ∃ (s : State) (k : Fin 32) (r f : Nat), s.zone.convertersRun = true ∧ s.zone.flag
    (pINPUT k.val) INPUT.IN_CFG_CAPTURE_EN = true ∧ (s.zone.input k.val).lastRise = some r ∧ (s.zone.input k.val).lastFall = some
    f ∧ r ≤ f ∧ f ≤ s.zone.mono ∧ s.zone.mono - r < 2 ^ 32 :=
  ⟨(on wSvc fun z => (z.setFld (pINPUT 0) INPUT.IN_CFG_CAPTURE_EN 1).setInput 0
    { z.input 0 with lastRise := some 5705032705, lastFall := some 10000000000 }), 0, 5705032705, 10000000000, by decide +kernel⟩

theorem wit_inputsAndTemperaturesAreFollowed_4 : ∃ (s : State) (k : Fin 32), s.zone.convertersRun = true ∧ s.zone.flag (pINPUT
    k.val) INPUT.IN_CFG_CAPTURE_EN = true ∧ ((s.zone.input k.val).lastRise = none ∨ (s.zone.input k.val).lastFall = none) :=
  ⟨(on wSvc (·.setFld (pINPUT 0) INPUT.IN_CFG_CAPTURE_EN 1)), 0, by decide +kernel⟩

theorem wit_inputsAndTemperaturesAreFollowed_5 : ∃ (s : State) (k : Fin 32) (r : Nat), s.zone.convertersRun = true ∧ s.zone.flag
    (pINPUT k.val) INPUT.IN_CFG_CAPTURE_EN = true ∧ (s.zone.input k.val).lastRise = some r :=
  ⟨(on wSvc fun z => (z.setFld (pINPUT 0) INPUT.IN_CFG_CAPTURE_EN 1).setInput 0 { z.input 0 with lastRise := some 5 }), 0, 5, by
    decide +kernel⟩

theorem wit_inputsAndTemperaturesAreFollowed_6 : ∃ (s : State) (k : Fin 32) (t : Nat), s.zone.convertersRun = true ∧ (s.zone.input
    k.val).lastRise = some t ∧ t + 10000 * 250000 ≤ s.zone.mono :=
  ⟨(on wSvc fun z => z.setInput 31 { z.input 31 with lastRise := some 7500000000 }), 31, 7500000000, by decide +kernel⟩

theorem wit_inputsAndTemperaturesAreFollowed_7 : ∃ (s : State) (x : Writer) (k : Fin 32) (v : Word), s.zone.writerActs x = true ∧
    s.zone.mayConfigure x = true ∧ s.zone.locked (pINPUT k.val) = false ∧ INPUT.IN_CFG_MODE.get v ≠ 3 ∧ INPUT.IN_CFG_WETTING.get v
    < 6 :=
  ⟨wSvc, (Writer.keeper .A), 31, 0x0502AA00, by decide +kernel⟩

theorem wit_inputsAndTemperaturesAreFollowed_8 : ∃ (s : State) (x : Writer) (k : Fin 32) (v : Word), s.zone.writerActs x = true ∧
    s.zone.mayConfigure x = true ∧ s.zone.locked (pINPUT k.val) = false ∧ (INPUT.IN_CFG_MODE.get v = 3 ∨ 6 ≤
    INPUT.IN_CFG_WETTING.get v) :=
  ⟨wSvc, (Writer.firmware secureSrc), 31, 0x03000000, by decide +kernel⟩

theorem wit_inputsAndTemperaturesAreFollowed_9 : ∃ (s : State) (x : Writer) (k : Fin 32) (v : Word), s.zone.writerActs x = true ∧
    s.zone.mayConfigure x = true ∧ s.zone.locked (pINPUT k.val) = false ∧ INPUT.IN_THRESH_FALL.get v ≤ INPUT.IN_THRESH_RISE.get v
    ∧ 100 ≤ INPUT.IN_THRESH_FALL.get v ∧ INPUT.IN_THRESH_RISE.get v ≤ 4000 :=
  ⟨wSvc, (Writer.firmware secureSrc), 31, 0x00640064, by decide +kernel⟩

theorem wit_inputsAndTemperaturesAreFollowed_10 : ∃ (s : State) (x : Writer) (k : Fin 32) (v : Word), s.zone.writerActs x = true ∧
    s.zone.mayConfigure x = true ∧ s.zone.locked (pINPUT k.val) = false ∧ (INPUT.IN_THRESH_RISE.get v < INPUT.IN_THRESH_FALL.get v
    ∨ INPUT.IN_THRESH_FALL.get v < 100 ∨ 4000 < INPUT.IN_THRESH_RISE.get v) :=
  ⟨wSvc, (Writer.keeper .A), 31, 0, by decide +kernel⟩

theorem wit_inputsAndTemperaturesAreFollowed_11 : ∃ (s : State) (base soc die a b : BitVec 16), s.zone.logicRuns = true ∧
    s.zone.paceDue Pace.thermal 25000 = true :=
  ⟨wSvc, 1, 2160, 3, 4, 5, by decide +kernel⟩


/-! ### The register space, clocks and dual-clock queues -/

theorem wit_registerSpaceTakesAndAnswers_1 : ∃ (s : State) (src : Source) (k : BitVec 24) (m : Fin 4) (v : BitVec 64),
    s.zone.start.released = true ∧ s.zone.Grants src k.toNat 4 true (v.setWidth 32) :=
  ⟨wRegs, secureSrc, 0x100000, 0, 1, by decide +kernel⟩

theorem wit_registerSpaceTakesAndAnswers_2 : ∃ (s : State) (src : Source) (k : BitVec 24) (m : Fin 4) (v : BitVec 64) (kind :
    PageKind) (d : WordD), s.zone.start.released = true ∧ s.zone.Grants src k.toNat 4 true (v.setWidth 32) ∧ keyD k.toNat = some
    (kind, d) ∧ Zone.plainWord kind k.toNat = true ∧ d.kw = 0 ∧ d.reached (reachOf kind (.firmware src)) ≠ 0 :=
  ⟨wRegs, secureSrc, 0x003008, 3, 0xFFFFFFFF00000000, PageKind.zone3, (wordOf .zone3 8), by decide +kernel⟩

theorem wit_registerSpaceTakesAndAnswers_3 : ∃ (s : State) (src : Source) (k : BitVec 24) (m : Fin 4) (v : BitVec 64) (kind :
    PageKind) (d : WordD), s.zone.start.released = true ∧ s.zone.Grants src k.toNat 4 true (v.setWidth 32) ∧ keyD k.toNat = some
    (kind, d) ∧ Zone.plainWord kind k.toNat = true ∧ fieldRanges kind (keyChan k.toNat) (keyOff k.toNat) = [] ∧ d.rc = [] ∧ d.kw =
    0 :=
  ⟨(on wRegs (·.wr (pZONE 3 + 0xC) 0xFFFF)), secureSrc, 0x00300C, 3, 0xFF, PageKind.zone3, (wordOf .zone3 0xC), by decide +kernel⟩

theorem wit_registerSpaceTakesAndAnswers_4 : ∃ (s : State) (src : Source) (k : BitVec 24) (m : Fin 4) (v : BitVec 64) (kind :
    PageKind) (d : WordD), s.zone.start.released = true ∧ s.zone.Grants src k.toNat 4 true (v.setWidth 32) ∧ keyD k.toNat = some
    (kind, d) ∧ d.reached (reachOf kind (.firmware src)) = 0 ∧ kind ≠ .stream ∧ d.kw ≠ 0 :=
  ⟨wRegs, secureSrc, 0x50001C, 0, 7, PageKind.sw0, (wordOf .sw0 0x1C), by decide +kernel⟩

theorem wit_registerSpaceTakesAndAnswers_5 : ∃ (s : State) (src : Source) (k : BitVec 24) (m : Fin 4) (v : BitVec 64) (kind kind'
    : PageKind) (d d' : WordD), s.zone.start.released = true ∧ s.zone.Grants src k.toNat 8 true (v.setWidth 32) ∧ s.zone.wordCheck
    src (k.toNat + 4) true ((v >>> 32).setWidth 32) = (Err.none, s.zone) ∧ keyD k.toNat = some (kind, d) ∧ keyD (k.toNat + 4) =
    some (kind', d') ∧ Zone.plainWord kind k.toNat = true ∧ Zone.plainWord kind' (k.toNat + 4) = true ∧ [6, 7, 10, 14].contains
    (keyBank k.toNat) = false ∧ d.kw = 0 ∧ d'.kw = 0 ∧ d.reached (reachOf kind (.firmware src)) ≠ 0 ∧ d'.reached (reachOf kind'
    (.firmware src)) ≠ 0 :=
  ⟨wRegs, secureSrc, 0x003008, 0, 0xFFFFFFFFFFFFFFFF, PageKind.zone3, PageKind.zone3, (wordOf .zone3 8), (wordOf .zone3 0xC), by
    decide +kernel⟩

theorem wit_registerSpaceTakesAndAnswers_6 : ∃ (s : State) (x : Keeper) (k : BitVec 24) (n : BitVec 4) (m : Fin 4) (v : BitVec 64)
    (kind : PageKind) (d : WordD), s.zone.logicRuns = true ∧ k.toNat % 4 = 0 ∧ s.zone.Reaches x k.toNat ∧ keyD k.toNat = some
    (kind, d) ∧ Zone.plainWord kind k.toNat = true ∧ d.reached (reachOf kind (.keeper x)) ≠ 0 ∧ (keyBank k.toNat = 1 →
    (s.zone.load (keyChan k.toNat)).silent = false) :=
  ⟨(on wSvc (·.wr (pZONE 3 + 0xC) 0xFFFF)), .A, 0x00300C, 0, 0, 0xFF, PageKind.zone3, (wordOf .zone3 0xC), by decide +kernel⟩

theorem wit_registerSpaceTakesAndAnswers_7 : ∃ (s : State) (x : Keeper) (k : BitVec 24) (n : BitVec 4) (m : Fin 4) (v : BitVec
    64), s.zone.logicRuns = true ∧ s.zone.mode ≠ Mode.test ∧ s.zone.portOpen x = true ∧ k.toNat % 4 = 0 ∧ stageOf (keyPage
    k.toNat) = none ∧ s.zone.holdsWatch x = false :=
  ⟨wSvc, .B, 0x300000, 0, 0, 0xFF, by decide +kernel⟩

theorem wit_registerSpaceTakesAndAnswers_8 : ∃ (s : State) (src : Source) (k : BitVec 24) (n : BitVec 4) (m : Fin 4) (v : BitVec
    64), s.zone.start.released = true ∧ Zone.alignedAccess k.toNat n.toNat = false :=
  ⟨wSvc, secureSrc, 2, 4, 0, 1, by decide +kernel⟩

theorem wit_registerSpaceTakesAndAnswers_9 : ∃ (s : State) (src : Source) (k : BitVec 24) (m : Fin 4) (v : BitVec 64),
    s.zone.start.released = true ∧ Zone.alignedAccess k.toNat 4 = true ∧ s.zone.lineWritten 1 (0x1F0000000 + k.toNat) 4 = s.zone ∧
    pageKind (keyBank k.toNat) (keyChan k.toNat) = none :=
  ⟨wSvc, secureSrc, 0xFFF000, 0, 1, by decide +kernel⟩

theorem wit_registerSpaceTakesAndAnswers_10 : ∃ (s : State) (src : Source) (k : BitVec 24) (m : Fin 4) (v : BitVec 64),
    s.zone.start.released = true ∧ Zone.alignedAccess k.toNat 4 = true ∧ s.zone.lineWritten 1 (0x1F0000000 + k.toNat) 4 = s.zone ∧
    pageKind (keyBank k.toNat) (keyChan k.toNat) ≠ none ∧ s.zone.grantWindow src k.toNat true (v.setWidth 32) = false ∧
    s.zone.permitted 12 src false true (0x1F0000000 + k.toNat) 4 = false :=
  ⟨wSvc, (⟨World.normal, 5⟩), 0x300004, 0, 1, by decide +kernel⟩

theorem wit_registerSpaceTakesAndAnswers_11 : ∃ (s : State) (src : Source) (k : BitVec 24) (kind : PageKind) (d : WordD),
    s.zone.start.released = true ∧ Zone.alignedAccess k.toNat 4 = true ∧ s.zone.wordCheck src k.toNat false 0 = (Err.none, s.zone)
    ∧ keyD k.toNat = some (kind, d) ∧ kind ≠ .swp ∧ (s.zone.readWord k.toNat).2 = s.zone :=
  ⟨(on wRegs (·.setFld (pZONE 5) ZONE5.DCQ_CE_TOTAL_COUNT 7)), secureSrc, 0x005020, PageKind.zone5, (wordOf .zone5 0x20), by
    decide +kernel⟩

theorem wit_registerSpaceTakesAndAnswers_12 : ∃ (s : State) (src : Source) (k : BitVec 24), s.zone.start.released = true ∧
    Zone.alignedAccess k.toNat 4 = true ∧ s.zone.wordCheck src k.toNat false 0 = (Err.none, s.zone) :=
  ⟨wRegs, secureSrc, 0x500300, by decide +kernel⟩

theorem wit_registerSpaceTakesAndAnswers_13 : ∃ (s : State) (src : Source), s.zone.start.released = true ∧ s.zone.wordCheck src
    (pZONE 5 + ZONE5.DCQ_CE_TOTAL_COUNT.off) false 0 = (Err.none, s.zone) :=
  ⟨(on wRegs (·.setFld (pZONE 5) ZONE5.DCQ_CE_TOTAL_COUNT 7)), secureSrc, by decide +kernel⟩

theorem wit_registerSpaceTakesAndAnswers_14 : ∃ (s : State) (src : Source) (k : BitVec 24) (n : BitVec 4), s.zone.start.released =
    true ∧ Zone.alignedAccess k.toNat n.toNat = false :=
  ⟨wSvc, secureSrc, 4, 8, by decide +kernel⟩

theorem wit_registerSpaceTakesAndAnswers_15 : ∃ (s : State) (x : Keeper) (p : PageArg) (kind : PageKind) (d : WordD),
    s.zone.logicRuns = true ∧ s.zone.Reaches x (page p.bank.toNat p.channel.toNat + 0xFC) ∧ keyD (page p.bank.toNat
    p.channel.toNat + 0xFC) = some (kind, d) ∧ d.w1s.testBit 0 = true ∧ Zone.plainWord kind (page p.bank.toNat p.channel.toNat +
    0xFC) = true ∧ (reachOf kind (.keeper x)).cfg = true ∧ (p.bank.toNat = 1 → (s.zone.load p.channel.toNat).silent = false) :=
  ⟨wSvc, .A, (⟨3, 31⟩), PageKind.input, (wordOf .input 0xFC), by decide +kernel⟩

theorem wit_registerSpaceTakesAndAnswers_16 : ∃ (s : State) (src : Source) (p : PageArg) (kind : PageKind) (d : WordD),
    s.zone.start.released = true ∧ s.zone.Grants src (page p.bank.toNat p.channel.toNat + 0xFC) 4 true 1 ∧ keyD (page p.bank.toNat
    p.channel.toNat + 0xFC) = some (kind, d) ∧ d.w1s.testBit 0 = true ∧ Zone.plainWord kind (page p.bank.toNat p.channel.toNat +
    0xFC) = true ∧ (reachOf kind (.firmware src)).cfg = true :=
  ⟨wRegs, secureSrc, (⟨3, 31⟩), PageKind.input, (wordOf .input 0xFC), by decide +kernel⟩

theorem wit_registerSpaceTakesAndAnswers_17 : ∃ (s : State) (x : Writer) (k : Fin 32) (v : Word), s.zone.locked (pINPUT k.val) =
    true :=
  ⟨(on wSvc (·.wr (pINPUT 31 + 0xFC) 1)), (.keeper .A), 31, 0x0FA00064, by decide +kernel⟩

theorem wit_clockMonitorsAndDualClockQueues_1 : ∃ (s : State) (d : Fin 10) (w : ClockWindow), s.zone.logicRuns = true ∧ d.val ≠ 5
    ∧ s.zone.clockRuns d.val = true ∧ s.zone.paceDue (Pace.clock d.val) 248 = true ∧ w.stopped = true ∧ s.zone.fldBit (pZONE 5)
    ZONE5.CLK_STATUS_STOPPED d.val = false :=
  ⟨wSvc, 9, (⟨0,25000,true⟩), by decide +kernel⟩

theorem wit_clockMonitorsAndDualClockQueues_2 : ∃ (s : State) (d : Fin 10) (w : ClockWindow), s.zone.logicRuns = true ∧ d.val ≠ 5
    ∧ s.zone.clockRuns d.val = true ∧ s.zone.paceDue (Pace.clock d.val) 248 = true ∧ w.stopped = true ∧ s.zone.fldBit (pZONE 5)
    ZONE5.CLK_STATUS_STOPPED d.val = true :=
  ⟨(on wSvc fun z => z.setFldBit (pZONE 5) ZONE5.CLK_STATUS_STOPPED 9 true), 9, (⟨0,25000,true⟩), by decide +kernel⟩

theorem wit_clockMonitorsAndDualClockQueues_3 : ∃ (s : State) (d : Fin 10) (w : ClockWindow), s.zone.logicRuns = true ∧ d.val ≠ 5
    ∧ s.zone.clockRuns d.val = true ∧ s.zone.paceDue (Pace.clock d.val) 248 = true ∧ w.stopped = false ∧ outsideWindow d.val
    (s.zone.appClock.getD (0, 0)) w = true ∧ SMap.get (fun _ => 0) s.zone.safety.clockBad d.val = 1 ∧ s.zone.fldBit (pZONE 5)
    ZONE5.CLK_STATUS_OUT_OF_WINDOW d.val = false :=
  ⟨(on wSvc fun z => z.setClockRuns 2 1 0), 2, (⟨397,0,false⟩), by decide +kernel⟩

theorem wit_clockMonitorsAndDualClockQueues_4 : ∃ (s : State) (d : Fin 10) (w : ClockWindow), s.zone.logicRuns = true ∧ d.val ≠ 5
    ∧ s.zone.clockRuns d.val = true ∧ s.zone.paceDue (Pace.clock d.val) 248 = true ∧ w.stopped = false ∧ outsideWindow d.val
    (s.zone.appClock.getD (0, 0)) w = true ∧ SMap.get (fun _ => 0) s.zone.safety.clockBad d.val = 0 ∧ s.zone.fldBit (pZONE 5)
    ZONE5.CLK_STATUS_STOPPED d.val = false :=
  ⟨wSvc, 2, (⟨397,0,false⟩), by decide +kernel⟩

theorem wit_clockMonitorsAndDualClockQueues_5 : ∃ (s : State) (d : Fin 10) (w : ClockWindow), s.zone.logicRuns = true ∧ d.val ≠ 5
    ∧ s.zone.clockRuns d.val = true ∧ s.zone.paceDue (Pace.clock d.val) 248 = true ∧ w.stopped = false ∧ outsideWindow d.val
    (s.zone.appClock.getD (0, 0)) w = false ∧ SMap.get (fun _ => 0) s.zone.safety.clockGood d.val = 1 ∧ s.zone.fldBit (pZONE 5)
    ZONE5.CLK_STATUS_OUT_OF_WINDOW d.val = true :=
  ⟨(on wSvc fun z => (z.setClockRuns 2 0 1).setFldBit (pZONE 5) ZONE5.CLK_STATUS_OUT_OF_WINDOW 2 true), 2, (⟨400,0,false⟩), by
    decide +kernel⟩

theorem wit_clockMonitorsAndDualClockQueues_6 : ∃ (s : State) (d : Fin 10) (w : ClockWindow), s.zone.logicRuns = true ∧ d.val ≠ 5
    ∧ s.zone.clockRuns d.val = true ∧ s.zone.paceDue (Pace.clock d.val) 248 = true ∧ w.stopped = false ∧ outsideWindow d.val
    (s.zone.appClock.getD (0, 0)) w = false ∧ s.zone.fldBit (pZONE 5) ZONE5.CLK_STATUS_STOPPED d.val = false ∧ s.zone.fldBit
    (pZONE 5) ZONE5.CLK_STATUS_OUT_OF_WINDOW d.val = false :=
  ⟨wSvc, 2, (⟨402,0,false⟩), by decide +kernel⟩

theorem wit_clockMonitorsAndDualClockQueues_9 : ∃ (s : State) (q : BitVec 16) (e : EccResult) (p : List Word) (r : List (List
    Word)), s.zone.logicRuns = true ∧ (s.zone.dcq q.toNat).packets = p :: r ∧ e ≠ .double :=
  ⟨(on wSvc fun z => z.setDcq 65535 { DcqSt.init with packets := [[1, 2]] }), 65535, EccResult.corrected, [1, 2], [], by
    decide +kernel⟩

theorem wit_clockMonitorsAndDualClockQueues_10 : ∃ (s : State) (q : BitVec 16) (p : List Word) (r : List (List Word)),
    s.zone.logicRuns = true ∧ (s.zone.dcq q.toNat).packets = p :: r :=
  ⟨(on wSvc fun z => z.setDcq 65535 { DcqSt.init with packets := [[1, 2]] }), 65535, [1, 2], [], by decide +kernel⟩

theorem dcqDepth_ge (q : Nat) : 4 ≤ dcqDepth q :=
  Nat.pow_le_pow_right (n := 2) (by decide) (Nat.le_add_right 2 _)

theorem wit_clockMonitorsAndDualClockQueues_7 : ∃ (s : State) (q : BitVec 16) (l : List Word) (_ : Bool), s.zone.logicRuns = true ∧
    (s.zone.dcq q.toNat).used (dcqDepth q.toNat) + l.length ≤ dcqDepth q.toNat ∧
    ((s.zone.dcq q.toNat).beyond ++ l).length ≤ dcqDepth q.toNat / 2 := by
  refine ⟨wSvc, 65535#16, [1, 2], true, by decide, ?_, ?_⟩
  · have h := dcqDepth_ge (65535#16).toNat
    have e : (wSvc.zone.dcq (65535#16).toNat).used (dcqDepth (65535#16).toNat) = 0 := by
      show (0 + 2 * _ - 0) % (2 * _) = 0
      rw [Nat.zero_add, Nat.sub_zero, Nat.mod_self]
    rw [e]
    exact Nat.le_trans (by decide) h
  · have h := dcqDepth_ge (65535#16).toNat
    exact Nat.le_trans (by decide : ([] ++ [(1 : Word), 2]).length ≤ 4 / 2) (Nat.div_le_div_right h)

theorem wit_clockMonitorsAndDualClockQueues_8 : ∃ (s : State) (q : BitVec 16) (l : List Word) (_ : Bool), s.zone.logicRuns = true ∧
    (dcqDepth q.toNat < (s.zone.dcq q.toNat).used (dcqDepth q.toNat) + l.length ∨
      dcqDepth q.toNat / 2 < ((s.zone.dcq q.toNat).beyond ++ l).length) := by
  refine ⟨wSvc, 65535#16, List.replicate (dcqDepth (65535#16).toNat + 1) 0#32, true, by decide, .inl ?_⟩
  rw [List.length_replicate]
  omega


/-! ### The supervisor link -/

theorem wit_startNoticesAndStatus_1 : ∃ (s : State), s.zone.mgmtRuns = true ∧ s.zone.supv.sessionKey.isSome = true ∧
    s.zone.supv.noticeDue = some 0 :=
  ⟨(on wBnd fun z => { z with supv := { z.supv with noticeDue := some 0 } }), by decide +kernel⟩

theorem wit_startNoticesAndStatus_2 : ∃ (s : State) (t : Nat), s.zone.mgmtRuns = true ∧ s.zone.supv.sessionKey.isSome = true ∧
    s.zone.supv.noticeDue = some t ∧ 0 < t ∧ t ≤ s.zone.mono :=
  ⟨(on wBnd fun z => { z with supv := { z.supv with noticeDue := some 10000000000 } }), 10000000000, by decide +kernel⟩

theorem wit_startNoticesAndStatus_3 : ∃ (s : State), s.zone.mgmtRuns = true ∧ s.zone.supv.sessionKey = none :=
  ⟨wSvc, by decide +kernel⟩

theorem wit_startNoticesAndStatus_4 : ∃ (s : State), s.zone.mgmtRuns = true ∧ s.zone.supv.sessionKey = none :=
  ⟨wSvc, by decide +kernel⟩

theorem wit_startNoticesAndStatus_5 : ∃ (s : State) (x : EnvelopeFault), s.zone.mgmtRuns = true :=
  ⟨wSvc, .len, by decide +kernel⟩

theorem wit_startNoticesAndStatus_6 : ∃ (s : State) (x : EnvelopeFault), s.zone.mgmtRuns = false :=
  ⟨(wMode 1), .len, by decide +kernel⟩

theorem wit_startNoticesAndStatus_7 : ∃ (s : State) (e : Envelope), s.zone.Accepts Code.getStatus e ∧ e.args = [] :=
  ⟨wBnd, (envOf wBnd Code.getStatus []), ⟨by decide +kernel, beq_self_eq_true _⟩, by decide +kernel⟩

theorem wit_refusedCommandsHaveNoEffect_1 : ∃ (s : State) (c : Instr) (code : Nat) (e : Envelope),
    supervisorCommand c = some (code, e) ∧ s.zone.mgmtRuns = true ∧ e.args.length ≤ 1024 ∧ e.node.toNat ≠ s.zone.node :=
  ⟨wSvc, .reset ⟨7, BitVec.ofNat 18 (wSvc.zone.node + 1), [], 0⟩, Code.reset, ⟨7, BitVec.ofNat 18 (wSvc.zone.node + 1), [], 0⟩, rfl,
    by decide⟩

theorem wit_refusedCommandsHaveNoEffect_2 : ∃ (s : State) (c : Instr) (code : Nat) (e : Envelope),
    supervisorCommand c = some (code, e) ∧ s.zone.mgmtRuns = true ∧ e.args.length ≤ 1024 ∧ e.node.toNat = s.zone.node ∧
    s.zone.macOk code e = false :=
  ⟨wSvc, .reset ⟨7, BitVec.ofNat 18 wSvc.zone.node, [], 0⟩, Code.reset, ⟨7, BitVec.ofNat 18 wSvc.zone.node, [], 0⟩, rfl, by decide⟩

theorem wit_refusedCommandsHaveNoEffect_3 : ∃ (s : State) (c : Instr) (code : Nat) (e : Envelope),
    supervisorCommand c = some (code, e) ∧ s.zone.mgmtRuns = true ∧ e.args.length ≤ 1024 ∧ e.node.toNat = s.zone.node ∧
    s.zone.macOk code e = true ∧ e.seq.toNat ≤ (s.zone.supv.seqHigh.getD 0).toNat :=
  ⟨on wBnd fun z => { z with supv := { z.supv with seqHigh := some 7 } }, .reset (envOf wBnd Code.reset []), Code.reset,
    envOf wBnd Code.reset [], rfl, by decide +kernel, by decide +kernel, by decide +kernel, beq_self_eq_true _, by decide +kernel⟩

theorem wit_resetsExitsAndTestChangeTheState_1 : ∃ (s : State) (e : Envelope), s.zone.Accepts Code.reset e ∧ e.args = [] ∧
    s.zone.safety.resetDue = none :=
  ⟨wBnd, (envOf wBnd Code.reset []), ⟨by decide +kernel, beq_self_eq_true _⟩, by decide +kernel⟩

theorem wit_resetsExitsAndTestChangeTheState_2 : ∃ (s : State) (e : Envelope) (t : Nat), s.zone.Accepts Code.reset e ∧ e.args = []
    ∧ s.zone.safety.resetDue = some t :=
  ⟨(on wBnd fun z => { z with safety := { z.safety with resetDue := some 5 } }), (envOf wBnd Code.reset []), 5, ⟨by
    decide +kernel, beq_self_eq_true _⟩, by decide +kernel⟩

theorem wit_resetsExitsAndTestChangeTheState_3 : ∃ (s : State) (e : Envelope) (m : Fin 2), s.zone.Accepts Code.exitLightship e ∧
    e.args = leBytes 4 m.val :=
  ⟨(on wBnd (·.setFld (pZONE 0) ZONE0.STATE_CURRENT 4)), (envOf wBnd Code.exitLightship (leBytes 4 1)), 1, ⟨by decide +kernel,
    beq_self_eq_true _⟩, by decide +kernel⟩

theorem wit_resetsExitsAndTestChangeTheState_4 : ∃ (s : State) (e : Envelope), s.zone.Accepts Code.enterTest e ∧ e.args = [] :=
  ⟨(on wBnd fun z => { z with fuses := { z.fuses with lc := [(0, 3)] } }), (envOf wBnd Code.enterTest []), ⟨by decide +kernel,
    beq_self_eq_true _⟩, by decide +kernel⟩

theorem wit_resetsExitsAndTestChangeTheState_5 : ∃ (s : State) (e : Envelope), s.zone.Accepts Code.exitTest e ∧ e.args = [] :=
  ⟨(on wBnd (·.setFld (pZONE 0) ZONE0.STATE_CURRENT 5)), (envOf wBnd Code.exitTest []), ⟨by decide +kernel, beq_self_eq_true _⟩,
    by decide +kernel⟩

theorem wit_tableCommandsStartTheirChange_1 : ∃ (s : State) (e : Envelope) (k : Fin 16) (l : List Byte), s.zone.Accepts Code.load
    e ∧ e.args = leBytes 4 k.val ∧ s.zone.inTrial = false ∧ s.zone.healthy .A = true ∧ s.zone.healthy .B = true :=
  ⟨wBnd, (envOf wBnd Code.load (leBytes 4 15)), 15, [1], ⟨by decide +kernel, beq_self_eq_true _⟩, by decide +kernel⟩

theorem wit_tableCommandsStartTheirChange_2 : ∃ (s : State) (e : Envelope) (k : Fin 16) (l : Option (List Byte)) (c : Nat),
    s.zone.Accepts Code.load e ∧ e.args = leBytes 4 k.val ∧ (c = if s.zone.inTrial then 0x22 else if s.zone.healthy .A = false ∨
    s.zone.healthy .B = false then 0x20 else 0x21) ∧ (s.zone.inTrial = true ∨ s.zone.healthy .A = false ∨ s.zone.healthy .B =
    false ∨ l = none) :=
  ⟨wBnd, (envOf wBnd Code.load (leBytes 4 15)), 15, none, 0x21, ⟨by decide +kernel, beq_self_eq_true _⟩, by decide +kernel⟩

theorem wit_tableCommandsStartTheirChange_3 : ∃ (s : State) (e : Envelope) (f : Fin 4), s.zone.Accepts Code.commit e ∧ e.args =
    leBytes 4 f.val ∧ s.zone.role .B = Role.trial ∧ 64 ≤ s.zone.fld (pKEEPER .B) KEEPER.TRIAL_ROUNDS ∧ (s.zone.fld (pKEEPER .B)
    KEEPER.TRIAL_FAULTS = 0 ∨ f.val.testBit 1 = true) ∧ s.zone.standbyReady true = true :=
  ⟨wTrial, (envOf wTrial Code.commit (leBytes 4 1)), 1, ⟨by decide +kernel, beq_self_eq_true _⟩, by decide +kernel⟩

theorem wit_tableCommandsStartTheirChange_4 : ∃ (s : State) (e : Envelope) (f : Fin 4), s.zone.Accepts Code.commit e ∧ e.args =
    leBytes 4 f.val ∧ s.zone.role .B ≠ Role.trial ∧ s.zone.role .A = Role.trial ∧ 64 ≤ s.zone.fld (pKEEPER .A) KEEPER.TRIAL_ROUNDS
    ∧ (s.zone.fld (pKEEPER .A) KEEPER.TRIAL_FAULTS = 0 ∨ f.val.testBit 1 = true) ∧ s.zone.standbyReady true = true :=
  ⟨wTrialA, (envOf wTrialA Code.commit (leBytes 4 3)), 3, ⟨by decide +kernel, beq_self_eq_true _⟩, by decide +kernel⟩

theorem wit_tableCommandsStartTheirChange_5 : ∃ (s : State) (e : Envelope) (f : Fin 4), s.zone.Accepts Code.commit e ∧ e.args =
    leBytes 4 f.val ∧ s.zone.inTrial = false :=
  ⟨wBnd, (envOf wBnd Code.commit (leBytes 4 0)), 0, ⟨by decide +kernel, beq_self_eq_true _⟩, by decide +kernel⟩

theorem wit_tableCommandsStartTheirChange_6 : ∃ (s : State) (e : Envelope) (f : Fin 4), s.zone.Accepts Code.commit e ∧ e.args =
    leBytes 4 f.val ∧ s.zone.inTrial = true ∧ (s.zone.role .B = Role.trial → s.zone.fld (pKEEPER .B) KEEPER.TRIAL_ROUNDS < 64) ∧
    (s.zone.role .B ≠ Role.trial → s.zone.role .A ≠ Role.trial ∨ s.zone.fld (pKEEPER .A) KEEPER.TRIAL_ROUNDS < 64) :=
  ⟨(on wTrial (·.setFld (pKEEPER .B) KEEPER.TRIAL_ROUNDS 63)), (envOf wTrial Code.commit (leBytes 4 0)), 0, ⟨by decide +kernel,
    beq_self_eq_true _⟩, by decide +kernel⟩

theorem wit_tableCommandsStartTheirChange_7 : ∃ (s : State) (e : Envelope) (f : Fin 4), s.zone.Accepts Code.commit e ∧ e.args =
    leBytes 4 f.val ∧ s.zone.role .B = Role.trial ∧ 64 ≤ s.zone.fld (pKEEPER .B) KEEPER.TRIAL_ROUNDS ∧ 0 < s.zone.fld (pKEEPER .B)
    KEEPER.TRIAL_FAULTS ∧ f.val.testBit 1 = false :=
  ⟨(on wTrial (·.setFld (pKEEPER .B) KEEPER.TRIAL_FAULTS 1)), (envOf wTrial Code.commit (leBytes 4 1)), 1, ⟨by decide +kernel,
    beq_self_eq_true _⟩, by decide +kernel⟩

theorem wit_tableCommandsStartTheirChange_8 : ∃ (s : State) (e : Envelope) (f : Fin 4), s.zone.Accepts Code.commit e ∧ e.args =
    leBytes 4 f.val ∧ s.zone.role .B = Role.trial ∧ 64 ≤ s.zone.fld (pKEEPER .B) KEEPER.TRIAL_ROUNDS ∧ (s.zone.fld (pKEEPER .B)
    KEEPER.TRIAL_FAULTS = 0 ∨ f.val.testBit 1 = true) ∧ s.zone.standbyReady true = false :=
  ⟨(on wTrial fun z => { z with keeperB := { z.keeperB with rounds := 63 } }), (envOf wTrial Code.commit (leBytes 4 0)), 0, ⟨by
    decide +kernel, beq_self_eq_true _⟩, by decide +kernel⟩

theorem wit_tableCommandsStartTheirChange_9 : ∃ (s : State) (e : Envelope), s.zone.Accepts Code.rollback e ∧ e.args = [] ∧
    (s.zone.inTrial = true ∨ s.zone.rollbackCheck = 0) :=
  ⟨wTrial, (envOf wTrial Code.rollback []), ⟨by decide +kernel, beq_self_eq_true _⟩, by decide +kernel⟩

theorem wit_tableCommandsStartTheirChange_10 : ∃ (s : State) (e : Envelope), s.zone.Accepts Code.rollback e ∧ e.args = [] ∧
    s.zone.inTrial = false ∧ s.zone.rollbackCheck ≠ 0 :=
  ⟨wBnd, (envOf wBnd Code.rollback []), ⟨by decide +kernel, beq_self_eq_true _⟩, by decide +kernel⟩

theorem wit_tableCommandsStartTheirChange_11 : ∃ (s : State) (e : Envelope), s.zone.Accepts Code.watch e ∧ e.args = [] ∧
    s.zone.inTrial = false ∧ s.zone.standbyReady false = true :=
  ⟨wReady, (envOf wReady Code.watch []), ⟨by decide +kernel, beq_self_eq_true _⟩, by decide +kernel⟩

theorem wit_tableCommandsStartTheirChange_12 : ∃ (s : State) (e : Envelope), s.zone.Accepts Code.watch e ∧ e.args = [] ∧
    (s.zone.inTrial = true ∨ s.zone.standbyReady false = false) :=
  ⟨wTrial, (envOf wTrial Code.watch []), ⟨by decide +kernel, beq_self_eq_true _⟩, by decide +kernel⟩

theorem wit_supervisorSettingsTakeEffect_1 : ∃ (s : State) (e : Envelope) (v : Fin 4), s.zone.Accepts Code.profile e ∧ e.args =
    leBytes 4 v.val :=
  ⟨wBnd, (envOf wBnd Code.profile (leBytes 4 3)), 3, ⟨by decide +kernel, beq_self_eq_true _⟩, by decide +kernel⟩

theorem wit_supervisorSettingsTakeEffect_2 : ∃ (s : State) (e : Envelope) (d : BitVec 64), s.zone.Accepts Code.force e ∧ e.args =
    leBytes 4 1 ++ leBytes 8 d.toNat ∧ d.toInt ≠ 0 ∧ -1000000000000000 ≤ d.toInt ∧ d.toInt ≤ 1000000000000000 :=
  ⟨wBnd, (envOf wBnd Code.force (leBytes 4 1 ++ leBytes 8 (2 ^ 64 - 1000000000000000))), (BitVec.ofNat 64 (2 ^ 64 -
    1000000000000000)), ⟨by decide +kernel, beq_self_eq_true _⟩, by decide +kernel⟩

theorem wit_supervisorSettingsTakeEffect_3 : ∃ (s : State) (e : Envelope), s.zone.Accepts Code.force e ∧ e.args = leBytes 4 0 ++
    leBytes 8 0 :=
  ⟨wBnd, (envOf wBnd Code.force (leBytes 4 0 ++ leBytes 8 0)), ⟨by decide +kernel, beq_self_eq_true _⟩, by decide +kernel⟩

theorem wit_supervisorSettingsTakeEffect_4 : ∃ (s : State) (e : Envelope) (v : BitVec 24), s.zone.Accepts Code.sleep e ∧ e.args =
    leBytes 4 v.toNat ∧ (v ≠ 0 ∨ s.zone.anyWakeSource = true) :=
  ⟨wBnd, (envOf wBnd Code.sleep (leBytes 4 0xFFFFFF)), 0xFFFFFF, ⟨by decide +kernel, beq_self_eq_true _⟩, by decide +kernel⟩

theorem wit_supervisorSettingsTakeEffect_5 : ∃ (s : State) (e : Envelope), s.zone.Accepts Code.sleep e ∧ e.args = leBytes 4 0 ∧
    s.zone.anyWakeSource = false :=
  ⟨wBnd, (envOf wBnd Code.sleep (leBytes 4 0)), ⟨by decide +kernel, beq_self_eq_true _⟩, by decide +kernel⟩

theorem wit_supervisorSettingsTakeEffect_6 : ∃ (s : State) (e : Envelope) (k : Fin 15), s.zone.Accepts Code.roll e ∧ e.args =
    leBytes 4 (k.val + 1) :=
  ⟨wBnd, (envOf wBnd Code.roll (leBytes 4 15)), 14, ⟨by decide +kernel, beq_self_eq_true _⟩, by decide +kernel⟩

theorem wit_supervisorSettingsTakeEffect_7 : ∃ (s : State) (e : Envelope) (t : Nat) (k : Fin 4), s.zone.Accepts Code.freeze e ∧
    e.args = leBytes 4 t ++ leBytes 4 0 ∧ t ≤ 3600 ∧ s.zone.logRuns = true ∧ s.zone.extentActive k.val = false ∧ (∀ j : Fin 4,
    j.val < k.val → s.zone.extentActive j.val = true) :=
  ⟨wLog, (envOf wLog Code.freeze (leBytes 4 3600 ++ leBytes 4 0)), 3600, 0, ⟨by decide +kernel, beq_self_eq_true _⟩, by
    decide +kernel⟩

theorem wit_supervisorSettingsTakeEffect_8 : ∃ (s : State) (e : Envelope) (t : Nat), s.zone.Accepts Code.freeze e ∧ e.args =
    leBytes 4 t ++ leBytes 4 0 ∧ t ≤ 3600 ∧ (s.zone.logRuns = false ∨ ((List.range 4).all fun k => s.zone.extentActive k) = true) :=
  ⟨wBnd, (envOf wBnd Code.freeze (leBytes 4 1 ++ leBytes 4 0)), 1, ⟨by decide +kernel, beq_self_eq_true _⟩, by decide +kernel⟩

theorem wit_supervisorSettingsTakeEffect_9 : ∃ (s : State) (e : Envelope), s.zone.Accepts Code.reasons e ∧ e.args = [] :=
  ⟨wBnd, (envOf wBnd Code.reasons []), ⟨by decide +kernel, beq_self_eq_true _⟩, by decide +kernel⟩

theorem wit_supervisorSettingsTakeEffect_10 : ∃ (s : State) (e : Envelope), s.zone.Accepts Code.clear e ∧ e.args = [] :=
  ⟨wBnd, (envOf wBnd Code.clear []), ⟨by decide +kernel, beq_self_eq_true _⟩, by decide +kernel⟩

theorem wit_bindingGrantsAndGlobalOperationsAreTaken_1 : ∃ (s : State) (e : Envelope), s.zone.Accepts Code.bind e ∧ e.args =
    leBytes 4 1 :=
  ⟨wBnd, (envOf wBnd Code.bind (leBytes 4 1)), ⟨by decide +kernel, beq_self_eq_true _⟩, by decide +kernel⟩

theorem wit_bindingGrantsAndGlobalOperationsAreTaken_3 : ∃ (s : State) (e : Envelope), s.zone.Accepts Code.grant e ∧ grantArgsOk
    e.args = true ∧ s.zone.grant = none :=
  ⟨wBnd, (envOf wBnd Code.grant (leBytes 2 2 ++ leBytes 2 23 ++ List.replicate 12 0)), ⟨by decide +kernel, beq_self_eq_true _⟩, by
    decide +kernel⟩

theorem wit_bindingGrantsAndGlobalOperationsAreTaken_4 : ∃ (s : State) (e : Envelope), s.zone.Accepts Code.grant e ∧ grantArgsOk
    e.args = true ∧ s.zone.grant.isSome = true :=
  ⟨(on wBnd fun z => { z with grant := some ⟨[], none, 0⟩ }), (envOf wBnd Code.grant (leBytes 2 2 ++ leBytes 2 23 ++
    List.replicate 12 0)), ⟨by decide +kernel, beq_self_eq_true _⟩, by decide +kernel⟩

theorem wit_bindingGrantsAndGlobalOperationsAreTaken_5 : ∃ (s : State) (e : Envelope) (k : Fin 16), s.zone.Accepts Code.schedule e
    ∧ s.zone.globalArgsOk e.args = true ∧ s.zone.tstate ≠ TS.unset ∧ s.zone.tstate ≠ TS.coarse ∧ s.zone.nowNs + 2000000 ≤
    Zone.globalAt e.args ∧ ((List.range 16).all fun j => s.zone.slotState j != 1 || s.zone.slotWord j 0 != leAt e.args 0 4) = true
    ∧ s.zone.slotState k.val ≠ 1 ∧ (∀ j : Fin 16, j.val < k.val → s.zone.slotState j.val = 1) :=
  ⟨(on wBnd (·.setFld pTIME TIME0.TIME_STATUS_STATE 3)), (envOf wBnd Code.schedule (leBytes 4 9 ++ leBytes 2 2 ++ leBytes 2 0 ++
    leBytes 8 0 ++ leBytes 4 2000000 ++ leBytes 4 15)), 0, ⟨by decide +kernel, beq_self_eq_true _⟩, by decide +kernel⟩

theorem wit_bindingGrantsAndGlobalOperationsAreTaken_6 : ∃ (s : State) (e : Envelope), s.zone.Accepts Code.schedule e ∧
    s.zone.globalArgsOk e.args = true ∧ (s.zone.tstate = TS.unset ∨ s.zone.tstate = TS.coarse) :=
  ⟨wBnd, (envOf wBnd Code.schedule (leBytes 4 9 ++ leBytes 2 2 ++ leBytes 2 0 ++ leBytes 8 0 ++ leBytes 4 2000000 ++ leBytes 4
    15)), ⟨by decide +kernel, beq_self_eq_true _⟩, by decide +kernel⟩

theorem wit_bindingGrantsAndGlobalOperationsAreTaken_7 : ∃ (s : State) (e : Envelope), s.zone.Accepts Code.schedule e ∧
    s.zone.globalArgsOk e.args = true ∧ s.zone.tstate ≠ TS.unset ∧ s.zone.tstate ≠ TS.coarse ∧ Zone.globalAt e.args < s.zone.nowNs
    + 2000000 :=
  ⟨(on wBnd (·.setFld pTIME TIME0.TIME_STATUS_STATE 3)), (envOf wBnd Code.schedule (leBytes 4 9 ++ leBytes 2 2 ++ leBytes 2 0 ++
    leBytes 8 0 ++ leBytes 4 1999999 ++ leBytes 4 15)), ⟨by decide +kernel, beq_self_eq_true _⟩, by decide +kernel⟩

theorem wit_bindingGrantsAndGlobalOperationsAreTaken_8 : ∃ (s : State) (e : Envelope), s.zone.Accepts Code.schedule e ∧
    s.zone.globalArgsOk e.args = true ∧ s.zone.tstate ≠ TS.unset ∧ s.zone.tstate ≠ TS.coarse ∧ s.zone.nowNs + 2000000 ≤
    Zone.globalAt e.args ∧ ((List.range 16).any fun j => s.zone.slotState j == 1 && s.zone.slotWord j 0 == leAt e.args 0 4) = true
    :=
  ⟨(on wBnd fun z => ((z.setFld pTIME TIME0.TIME_STATUS_STATE 3).setSlotWord 7 0 9).setSlotWord 7 1 0x10002), (envOf wBnd
    Code.schedule (leBytes 4 9 ++ leBytes 2 2 ++ leBytes 2 0 ++ leBytes 8 0 ++ leBytes 4 2000000 ++ leBytes 4 15)), ⟨by
    decide +kernel, beq_self_eq_true _⟩, by decide +kernel⟩

theorem wit_bindingGrantsAndGlobalOperationsAreTaken_9 : ∃ (s : State) (e : Envelope), s.zone.Accepts Code.schedule e ∧
    s.zone.globalArgsOk e.args = true ∧ s.zone.tstate ≠ TS.unset ∧ s.zone.tstate ≠ TS.coarse ∧ s.zone.nowNs + 2000000 ≤
    Zone.globalAt e.args ∧ ((List.range 16).all fun j => s.zone.slotState j == 1 && s.zone.slotWord j 0 != leAt e.args 0 4) = true
    :=
  ⟨(on wBnd fun z => (z.setFld pTIME TIME0.TIME_STATUS_STATE 3).forEach (List.range 16) fun z k => z.setSlotWord k 1 0x10002),
    (envOf wBnd Code.schedule (leBytes 4 9 ++ leBytes 2 2 ++ leBytes 2 0 ++ leBytes 8 0 ++ leBytes 4 2000000 ++ leBytes 4 15)),
    ⟨by decide +kernel, beq_self_eq_true _⟩, by decide +kernel⟩

theorem wit_bindingGrantsAndGlobalOperationsAreTaken_10 : ∃ (s : State) (e : Envelope) (op : BitVec 32) (k : Fin 16),
    s.zone.Accepts Code.cancel e ∧ e.args = leBytes 4 op.toNat ∧ s.zone.slotState k.val = 1 ∧ s.zone.slotWord k.val 0 = op.toNat ∧
    (∀ j : Fin 16, j.val < k.val → s.zone.slotState j.val ≠ 1 ∨ s.zone.slotWord j.val 0 ≠ op.toNat) :=
  ⟨(on wBnd fun z => (z.setSlotWord 15 0 0xFFFFFFFF).setSlotWord 15 1 0x10002), (envOf wBnd Code.cancel (leBytes 4 0xFFFFFFFF)),
    0xFFFFFFFF, 15, ⟨by decide +kernel, beq_self_eq_true _⟩, by decide +kernel⟩

theorem wit_bindingGrantsAndGlobalOperationsAreTaken_11 : ∃ (s : State) (e : Envelope) (op : BitVec 32), s.zone.Accepts
    Code.cancel e ∧ e.args = leBytes 4 op.toNat ∧ (∀ j : Fin 16, s.zone.slotState j.val ≠ 1 ∨ s.zone.slotWord j.val 0 ≠ op.toNat) :=
  ⟨wBnd, (envOf wBnd Code.cancel (leBytes 4 7)), 7, ⟨by decide +kernel, beq_self_eq_true _⟩, by decide +kernel⟩

theorem wit_bindingAndGrantsAreTaken_2 : ∃ (s : State) (e : Envelope) (x : List Byte × List Byte), s.zone.Accepts Code.bind e ∧
    leAt e.args 0 4 = 0 ∧ e.args.length = 64 ∧
    gcmDecrypt (kdf (s.zone.supv.sessionKey.getD []) (kdfFixed "FZ52/BINDWRAP" (leBytes 4 e.seq.toNat)) 256)
      ((e.args.drop 4).take 12) (e.args.take 4) ((e.args.drop 16).take 32) = x :=
  ⟨wBnd, envOf wBnd Code.bind (List.replicate 64 0), _, ⟨by decide, beq_self_eq_true _⟩, by decide, by decide, rfl⟩


/-! ### Power, starts, test and boot -/

theorem wit_powerChangesTheModuleState_1 : ∃ (s : State), s.zone.mode = Mode.off :=
  ⟨(wMode 0), by decide +kernel⟩

theorem wit_powerChangesTheModuleState_2 : ∃ (s : State), s.zone.mode ≠ Mode.off :=
  ⟨wSvc, by decide +kernel⟩

theorem wit_powerChangesTheModuleState_3 : ∃ (s : State), s.zone.mode = Mode.off :=
  ⟨(wMode 0), by decide +kernel⟩

theorem wit_powerChangesTheModuleState_4 : ∃ (s : State), s.zone.mode ≠ Mode.off ∧ 250000000 < s.zone.supply.crankTicks :=
  ⟨(on wSvc fun z => { z with supply := { z.supply with crankTicks := 250000001 } }), by decide +kernel⟩

theorem wit_powerChangesTheModuleState_5 : ∃ (s : State) (t : Nat), s.zone.safety.resetDue = some t ∧ s.zone.mode = Mode.service ∧
    t ≤ s.zone.mono ∧ s.zone.sleep.phase < 3 :=
  ⟨(on wSvc fun z => { z with safety := { z.safety with resetDue := some 10000000000 } }), 10000000000, by decide +kernel⟩

theorem wit_windowsAndBistOfAStart_1 : ∃ (s : State) (k : Fin 20), s.zone.mode = Mode.start ∧ s.zone.start.exhausted = false ∧
    s.zone.start.judged = false ∧ s.zone.windowsHeld = true ∧ (s.zone.phase = 0 ∨ s.zone.phase = 1) :=
  ⟨(on State.reset fun z => { z.setPhase 1 with mono := 250000, start := { z.start with confirmed := List.range 14 } }), 14, by
    decide +kernel⟩

theorem wit_windowsAndBistOfAStart_2 : ∃ (s : State) (k : Fin 20), s.zone.mode = Mode.start ∧ s.zone.start.confirmed.contains
    k.val = true ∧ s.zone.phase = 2 :=
  ⟨(on State.reset fun z => { z.setPhase 2 with start := { z.start with confirmed := List.range 15 } }), 14, by decide +kernel⟩

theorem wit_windowsAndBistOfAStart_3 : ∃ (s : State) (l : List BlockBist), s.zone.mode = Mode.start ∧ s.zone.phase = 2 ∧
    startBlocks.all s.zone.start.confirmed.contains = true ∧ (∀ b : Fin 15, s.zone.bistVerdict l b.val = none) :=
  ⟨(on State.reset fun z => { z.setPhase 2 with start := { z.start with confirmed := List.range 15 } }), [], by decide +kernel⟩

theorem wit_windowsAndBistOfAStart_4 : ∃ (s : State) (l : List BlockBist) (k : Keeper), s.zone.mode = Mode.start ∧ s.zone.phase =
    2 ∧ startBlocks.all s.zone.start.confirmed.contains = true ∧ s.zone.bistVerdict l k.idx ≠ none ∧ (∀ b : Fin 15, b.val ≠ k.idx
    → s.zone.bistVerdict l b.val = none) :=
  ⟨(on State.reset fun z => { z.setPhase 2 with start := { z.start with confirmed := List.range 15 } }), [⟨1, some (3, 5), []⟩],
    Keeper.B, by decide +kernel⟩

theorem wit_windowsAndBistOfAStart_5 : ∃ (s : State) (l : List BlockBist), s.zone.startCounts = true ∧ s.zone.phase = 2 ∧
    startBlocks.all s.zone.start.confirmed.contains = true ∧ s.zone.bistVerdict l 0 ≠ none ∧ s.zone.bistVerdict l 1 ≠ none :=
  ⟨(on State.reset fun z => { z.setPhase 2 with start := { z.start with confirmed := List.range 15 } }), [⟨0, some (3, 5), []⟩,
    ⟨1, some (3, 5), []⟩], by decide +kernel⟩

theorem wit_windowsAndBistOfAStart_6 : ∃ (s : State) (l : List BlockBist) (b : Fin 15) (i : Option Nat), s.zone.startCounts = true
    ∧ s.zone.phase = 2 ∧ startBlocks.all s.zone.start.confirmed.contains = true ∧ (s.zone.bistVerdict l 0 = none ∨
    s.zone.bistVerdict l 1 = none) ∧ 2 ≤ b.val ∧ s.zone.bistVerdict l b.val = some i ∧ (∀ c : Fin 15, 2 ≤ c.val → c.val < b.val →
    s.zone.bistVerdict l c.val = none) :=
  ⟨(on State.reset fun z => { z.setPhase 2 with start := { z.start with confirmed := List.range 15 } }), [⟨8, some (3, 5), []⟩],
    8, none, by decide +kernel⟩

theorem wit_windowsAndBistOfAStart_7 : ∃ (s : State) (d : Option (Fin 10)), s.zone.startCounts = true ∧ s.zone.start.judged =
    false ∧ startBlocks.all s.zone.start.confirmed.contains = false ∧ s.zone.start.entered + 25000000 ≤ s.zone.mono :=
  ⟨(on State.reset fun z => { z with mono := 25000000 }), none, by decide +kernel⟩

theorem wit_windowsAndBistOfAStart_8 : ∃ (s : State) (src : Source) (b : BitVec 6) (x : Option (Fin 64 × Word)),
    s.zone.start.released = true ∧ src.world = .secure ∧ s.zone.mode = Mode.test ∧ blockLogic b.toNat = true ∧ (b.toNat < 18 ∨
    s.zone.lifeCycle = 1 ∨ s.zone.lifeCycle = 3) :=
  ⟨(on wSvc (·.setFld (pZONE 0) ZONE0.STATE_CURRENT 5)), secureSrc, 16, (some (63, 7)), by decide +kernel⟩

theorem wit_windowsAndBistOfAStart_9 : ∃ (s : State) (src : Source) (b : BitVec 6) (l : List MemoryRun), s.zone.start.released =
    true ∧ src.world = .secure ∧ s.zone.mode = Mode.test ∧ blockMemory b.toNat = true ∧ (b.toNat < 18 ∨ s.zone.lifeCycle = 1 ∨
    s.zone.lifeCycle = 3) :=
  ⟨(on wSvc (·.setFld (pZONE 0) ZONE0.STATE_CURRENT 5)), secureSrc, 16, [⟨3, 32, [⟨1, 2, 3⟩], []⟩], by decide +kernel⟩

theorem wit_repairEntriesAreProgrammed_1 : ∃ (s : State) (src : Source), s.zone.start.released = true ∧ src.world = .secure ∧
    s.zone.mode = Mode.test ∧ (s.zone.lifeCycle = 1 ∨ s.zone.lifeCycle = 3) ∧ s.zone.fuses.repair.length < 64 ∧ bitOf (s.zone.rd
    (pTEST 1 + TEST1.REPAIR_ENTRY_ENTRY.off)) 31 = true ∧ blockMemory ((s.zone.rd (pTEST 1 + TEST1.REPAIR_ENTRY_ENTRY.off)).toNat
    / 2 ^ 24 % 64) = true ∧ ((s.zone.rd (pTEST 1 + TEST1.REPAIR_ENTRY_ENTRY.off)).toNat / 2 ^ 16 % 16 ≤ if bitOf (s.zone.rd (pTEST
    1 + TEST1.REPAIR_ENTRY_ENTRY.off)) 30 then 3 else 7) :=
  ⟨(on wSvc fun z =>
    { (z.setFld (pZONE 0) ZONE0.STATE_CURRENT 5).wr (pTEST 1 + TEST1.REPAIR_ENTRY_ENTRY.off) 0x92070000#32 with fuses := { z.fuses with lc := [(0, 3)] } }),
    secureSrc, by decide +kernel⟩

theorem wit_repairEntriesAreProgrammed_2 : ∃ (s : State) (src : Source) (g : Bool), s.zone.start.released = true ∧ src.world =
    .secure ∧ (g = false ∨ s.zone.mode ≠ Mode.test ∨ (s.zone.lifeCycle ≠ 1 ∧ s.zone.lifeCycle ≠ 3) ∨ 64 ≤
    s.zone.fuses.repair.length ∨ bitOf (s.zone.rd (pTEST 1 + TEST1.REPAIR_ENTRY_ENTRY.off)) 31 = false ∨ blockMemory ((s.zone.rd
    (pTEST 1 + TEST1.REPAIR_ENTRY_ENTRY.off)).toNat / 2 ^ 24 % 64) = false ∨ (if bitOf (s.zone.rd (pTEST 1 +
    TEST1.REPAIR_ENTRY_ENTRY.off)) 30 then 3 else 7) < (s.zone.rd (pTEST 1 + TEST1.REPAIR_ENTRY_ENTRY.off)).toNat / 2 ^ 16 % 16) :=
  ⟨wSvc, secureSrc, true, by decide +kernel⟩

theorem wit_repairEntriesAreProgrammed_3 : ∃ (s : State), s.zone.mode ≠ Mode.off ∧ s.zone.start.savedAt + 15000000000 ≤
    s.zone.mono :=
  ⟨(on wSvc fun z => { z with mono := 15000000000 }), by decide +kernel⟩

theorem wit_repairEntriesAreProgrammed_4 : ∃ (s : State) (t k : Nat) (r : StartRec), s.zone.mode = Mode.lightship ∧
    s.zone.start.reportAt = some t ∧ t + 25000000 ≤ s.zone.mono ∧ (k = if s.zone.start.reportIdx < (s.zone.start.records.filter
    (·.counts)).length then s.zone.start.reportIdx else 0) ∧ (s.zone.start.records.filter (·.counts))[k]? = some r ∧ s.zone.flag
    (pZONE 6) ZONE6.REPORT_CFG_EN = true :=
  ⟨(on (wMode 4) fun z =>
    { z.setFld (pZONE 6) ZONE6.REPORT_CFG_EN 1 with mono := 25000000, start := { z.start with reportAt := some 0, records := [⟨1, 16, 1, true, true, 0, 0⟩] } }),
    0, 0, ⟨1,16,1,true,true,0,0⟩, by decide +kernel⟩

theorem wit_repairEntriesAreProgrammed_5 : ∃ (s : State) (t : Nat), s.zone.mode = Mode.lightship ∧ s.zone.start.reportAt = some t
    ∧ t + 25000000 ≤ s.zone.mono ∧ (s.zone.flag (pZONE 6) ZONE6.REPORT_CFG_EN = false ∨ s.zone.start.records.filter (·.counts) =
    []) :=
  ⟨(on (wMode 4) fun z => { z with mono := 25000000, start := { z.start with reportAt := some 0 } }), 0, by decide +kernel⟩

theorem wit_bootPhasesFollowTheirVerdicts_1 : ∃ (s : State) (r : Bool) (l : Option (List Byte)), s.zone.mode = Mode.start ∧
    s.zone.phase = 3 ∧ s.zone.root.isSome = true :=
  ⟨(on State.reset (·.setPhase 3)), true, none, by decide +kernel⟩

theorem wit_bootPhasesFollowTheirVerdicts_2 : ∃ (s : State) (r : Bool) (l : Option (List Byte)), s.zone.mode = Mode.start ∧
    s.zone.phase = 3 ∧ s.zone.root = none :=
  ⟨(on State.reset fun z => { z.setPhase 3 with fuses := { z.fuses with lc := [] } }), true, none, by decide +kernel⟩

theorem wit_bootPhasesFollowTheirVerdicts_3 : ∃ (s : State), s.zone.mode = Mode.start ∧ s.zone.phase = 4 ∧ s.zone.startCounts =
    true :=
  ⟨(on State.reset (·.setPhase 4)), by decide +kernel⟩

theorem wit_bootPhasesFollowTheirVerdicts_4 : ∃ (s : State) (h a b : List Byte), s.zone.mode = Mode.start ∧ s.zone.phase = 6 ∧
    s.zone.start.released = false ∧ s.zone.startCounts = true :=
  ⟨(on State.reset (·.setPhase 6)), [], [], [], by decide +kernel⟩

theorem wit_bootPhasesFollowTheirVerdicts_5 : ∃ (s : State) (l : List Byte), s.zone.mode = Mode.start ∧ s.zone.phase = 6 ∧
    s.zone.start.released = true ∧ s.zone.maintenance = false ∧ s.zone.startCounts = true :=
  ⟨(on State.reset fun z => { z.setPhase 6 with start := { z.start with released := true } }), [], by decide +kernel⟩

theorem wit_bootPhasesFollowTheirVerdicts_6 : ∃ (s : State), s.zone.mode = Mode.start ∧ s.zone.phase = 6 ∧ s.zone.start.released =
    true ∧ s.zone.maintenance = false ∧ s.zone.startCounts = true :=
  ⟨(on State.reset fun z => { z.setPhase 6 with start := { z.start with released := true } }), by decide +kernel⟩

theorem wit_bootPhasesFollowTheirVerdicts_7 : ∃ (s : State) (src : Source), s.zone.start.released = true ∧ src.world = .secure :=
  ⟨wSvc, secureSrc, by decide +kernel⟩

theorem wit_bootPhasesFollowTheirVerdicts_8 : ∃ (s : State), s.zone.mode = Mode.start ∧ s.zone.startReady = true :=
  ⟨wStarted, by decide +kernel⟩

theorem wit_bootPhasesFollowTheirVerdicts_9 : ∃ (s : State), s.zone.startCounts = true ∧ s.zone.start.entered + s.zone.fld (pZONE
    6) ZONE6.START_CFG_DEADLINE * 250000 ≤ s.zone.mono :=
  ⟨(on State.reset fun z => { z with mono := 10000 * 250000 }), by decide +kernel⟩

theorem wit_lifeCycleAndDebugAdvance_1 : ∃ (s : State) (w : Writer) (tp : Bool), (tp = true ∨ (s.zone.writerActs w = true ∧
    Zone.secureWriter w = true)) ∧ s.zone.logicRuns = true ∧ s.zone.fuses.advancing = none ∧ tp = true ∧ s.zone.lifeCycle = 0 :=
  ⟨(on State.reset fun z => { z with fuses := { z.fuses with lc := [] } }), (.firmware secureSrc), true, by decide +kernel⟩

theorem wit_lifeCycleAndDebugAdvance_2 : ∃ (s : State) (w : Writer) (tp : Bool), (tp = true ∨ (s.zone.writerActs w = true ∧
    Zone.secureWriter w = true)) ∧ s.zone.logicRuns = true ∧ s.zone.fuses.advancing = none ∧ (s.zone.lifeCycle ≠ 0 ∨ tp = false) :=
  ⟨wSvc, (.firmware secureSrc), false, by decide +kernel⟩

theorem wit_lifeCycleAndDebugAdvance_3 : ∃ (s : State) (w : Writer) (tp : Bool), (tp = true ∨ (s.zone.writerActs w = true ∧
    Zone.secureWriter w = true)) ∧ s.zone.logicRuns = true ∧ s.zone.fuses.advancing = none ∧ s.zone.lifeCycle = 1 :=
  ⟨(on wSvc fun z => { z with fuses := { z.fuses with lc := [(0, 2)] } }), (.firmware secureSrc), false, by decide +kernel⟩

theorem wit_lifeCycleAndDebugAdvance_4 : ∃ (s : State) (w : Writer) (tp : Bool), (tp = true ∨ (s.zone.writerActs w = true ∧
    Zone.secureWriter w = true)) ∧ s.zone.logicRuns = true ∧ s.zone.fuses.advancing = none ∧ s.zone.lifeCycle ≠ 1 :=
  ⟨wSvc, (.firmware secureSrc), true, by decide +kernel⟩

theorem wit_lifeCycleAndDebugAdvance_5 : ∃ (s : State) (w : Writer) (tp : Bool), (tp = true ∨ (s.zone.writerActs w = true ∧
    Zone.secureWriter w = true)) ∧ s.zone.logicRuns = true ∧ s.zone.fuses.advancing = none ∧ tp = false ∧ s.zone.lifeCycle = 2 :=
  ⟨wSvc, (.firmware secureSrc), false, by decide +kernel⟩

theorem wit_lifeCycleAndDebugAdvance_6 : ∃ (s : State) (w : Writer) (tp : Bool), (tp = true ∨ (s.zone.writerActs w = true ∧
    Zone.secureWriter w = true)) ∧ s.zone.logicRuns = true ∧ s.zone.fuses.advancing = none ∧ (s.zone.lifeCycle ≠ 2 ∨ tp = true) :=
  ⟨wSvc, (.firmware secureSrc), true, by decide +kernel⟩

theorem wit_lifeCycleAndDebugAdvance_7 : ∃ (s : State) (w : Writer) (tp : Bool), (tp = true ∨ (s.zone.writerActs w = true ∧
    Zone.secureWriter w = true)) ∧ s.zone.logicRuns = true ∧ s.zone.fuses.advancing = none ∧ s.zone.lifeCycle ≠ 4 :=
  ⟨wSvc, (.firmware secureSrc), false, by decide +kernel⟩

theorem wit_lifeCycleAndDebugAdvance_8 : ∃ (s : State) (w : Writer) (tp : Bool), (tp = true ∨ (s.zone.writerActs w = true ∧
    Zone.secureWriter w = true)) ∧ s.zone.logicRuns = true ∧ s.zone.fuses.advancing = none ∧ s.zone.lifeCycle = 4 :=
  ⟨(on wSvc fun z => { z with fuses := { z.fuses with lc := [(3, 3)] } }), (.firmware secureSrc), false, by decide +kernel⟩

theorem wit_lifeCycleAndDebugAdvance_9 : ∃ (s : State) (b : Nat) (n : Fin 4), s.zone.fuses.advancing = some b ∧ s.zone.logicRuns =
    true :=
  ⟨(on wSvc fun z => { z with fuses := { z.fuses with advancing := some 1 } }), 1, 1, by decide +kernel⟩

theorem wit_lifeCycleAndDebugAdvance_10 : ∃ (s : State) (src : Source), s.zone.start.released = true ∧ src.world = .secure :=
  ⟨wSvc, secureSrc, by decide +kernel⟩

theorem wit_lifeCycleAndDebugAdvance_11 : ∃ (s : State) (src : Source), s.zone.start.released = true ∧ src.world = .secure :=
  ⟨wSvc, secureSrc, by decide +kernel⟩

theorem wit_lifeCycleAndDebugAdvance_12 : ∃ (s : State) (src : Source) (v : BitVec 32), s.zone.start.released = true ∧ src.world =
    .secure ∧ s.zone.mode = Mode.service ∧ s.zone.start.lsVersion = some v :=
  ⟨(on wSvc fun z => { z with start := { z.start with lsVersion := some 5 } }), secureSrc, 5, by decide +kernel⟩


/-! ### Tamva -/

theorem wit_formatAComputes_1 : ∃ (s : State) (k : Keeper) (wd ws wt : Fin 16) (f : Bool) (a b : Word), s.zone.InStep k ∧
    s.zone.getW k ws = a ∧ s.zone.getW k wt = b :=
  ⟨wStep, .A, 3, 1, 2, true, 0xFFFFFFFF, 1, by decide +kernel⟩

theorem wit_formatAComputes_2 : ∃ (s : State) (k : Keeper) (wd ws wt : Fin 16) (f : Bool) (a b : Word), s.zone.InStep k ∧
    s.zone.getW k ws = a ∧ s.zone.getW k wt = b :=
  ⟨wStep, .A, 3, 1, 2, true, 0xFFFFFFFF, 1, by decide +kernel⟩

theorem wit_formatAComputes_3 : ∃ (s : State) (k : Keeper) (wd ws wt : Fin 16) (f : Bool) (a b : Word), s.zone.InStep k ∧
    s.zone.getW k ws = a ∧ s.zone.getW k wt = b :=
  ⟨wStep, .A, 3, 1, 2, true, 0xFFFFFFFF, 1, by decide +kernel⟩

theorem wit_formatAComputes_4 : ∃ (s : State) (k : Keeper) (wd ws wt : Fin 16) (f : Bool) (a b : Word), s.zone.InStep k ∧
    s.zone.getW k ws = a ∧ s.zone.getW k wt = b :=
  ⟨wStep, .A, 3, 1, 2, true, 0xFFFFFFFF, 1, by decide +kernel⟩

theorem wit_formatAComputes_5 : ∃ (s : State) (k : Keeper) (wd ws wt : Fin 16) (f : Bool) (a b : Word), s.zone.InStep k ∧
    s.zone.getW k ws = a ∧ s.zone.getW k wt = b :=
  ⟨wStep, .A, 3, 1, 2, true, 0xFFFFFFFF, 1, by decide +kernel⟩

theorem wit_formatAComputes_6 : ∃ (s : State) (k : Keeper) (wd ws wt : Fin 16) (f u : Bool) (a b : Word), s.zone.InStep k ∧
    s.zone.getW k ws = a ∧ s.zone.getW k wt = b :=
  ⟨wStep, .A, 3, 1, 2, true, true, 0xFFFFFFFF, 1, by decide +kernel⟩

theorem wit_formatAComputes_7 : ∃ (s : State) (k : Keeper) (wd ws wt : Fin 16) (f u : Bool) (a b : Word), s.zone.InStep k ∧
    s.zone.getW k ws = a ∧ s.zone.getW k wt = b :=
  ⟨wStep, .A, 3, 1, 2, true, true, 0xFFFFFFFF, 1, by decide +kernel⟩

theorem wit_formatAComputes_8 : ∃ (s : State) (k : Keeper) (wd ws wt : Fin 16) (f u : Bool) (a b : Word), s.zone.InStep k ∧
    s.zone.getW k ws = a ∧ s.zone.getW k wt = b :=
  ⟨wStep, .A, 3, 1, 2, true, true, 0xFFFFFFFF, 1, by decide +kernel⟩

theorem wit_formatAComputes_9 : ∃ (s : State) (k : Keeper) (wd ws wt : Fin 16) (f u : Bool) (a b : Word), s.zone.InStep k ∧
    s.zone.getW k ws = a ∧ s.zone.getW k wt = b :=
  ⟨wStep, .A, 3, 1, 2, true, true, 0xFFFFFFFF, 1, by decide +kernel⟩

theorem wit_formatAComputes_10 : ∃ (s : State) (k : Keeper) (wd ws : Fin 16) (x : Amount) (f : Bool) (a : Word) (n : Nat),
    s.zone.InStep k ∧ s.zone.getW k ws = a ∧ n = (match x with | .reg w => (s.zone.getW k w).toNat % 32 | .imm i => i.val) :=
  ⟨wStep, .A, 3, 1, (.imm 31), true, 0xFFFFFFFF, 31, by decide +kernel⟩

theorem wit_formatAComputes_11 : ∃ (s : State) (k : Keeper) (wd ws : Fin 16) (x : Amount) (f : Bool) (a : Word) (n : Nat),
    s.zone.InStep k ∧ s.zone.getW k ws = a ∧ n = (match x with | .reg w => (s.zone.getW k w).toNat % 32 | .imm i => i.val) :=
  ⟨wStep, .A, 3, 1, (.imm 31), true, 0xFFFFFFFF, 31, by decide +kernel⟩

theorem wit_formatAComputes_12 : ∃ (s : State) (k : Keeper) (wd ws : Fin 16) (x : Amount) (f : Bool) (a : Word) (n : Nat),
    s.zone.InStep k ∧ s.zone.getW k ws = a ∧ n = (match x with | .reg w => (s.zone.getW k w).toNat % 32 | .imm i => i.val) :=
  ⟨wStep, .A, 3, 1, (.imm 31), true, 0xFFFFFFFF, 31, by decide +kernel⟩

theorem wit_formatAComputes_13 : ∃ (s : State) (k : Keeper) (wd ws : Fin 16) (i : Fin 32) (f u : Bool) (a : Word) (r : Int),
    s.zone.InStep k ∧ s.zone.getW k ws = a ∧ r = max (if u then 0 else -2 ^ i.val) (min (if u then 2 ^ (i.val + 1) - 1 else 2 ^
    i.val - 1) a.toInt) :=
  ⟨wStep, .A, 3, 1, 31, true, true, 0xFFFFFFFF, 0, by decide +kernel⟩

theorem wit_immediatesAndComparesCompute_1 : ∃ (s : State) (k : Keeper) (wd ws : Fin 16) (f : Bool) (m : BitVec 16) (a : Word),
    s.zone.InStep k ∧ s.zone.getW k ws = a :=
  ⟨wStep, .A, 0, 1, true, 0x8000, 0xFFFFFFFF, by decide +kernel⟩

theorem wit_immediatesAndComparesCompute_2 : ∃ (s : State) (k : Keeper) (wd ws : Fin 16) (f : Bool) (m : BitVec 16) (a : Word),
    s.zone.InStep k ∧ s.zone.getW k ws = a :=
  ⟨wStep, .A, 0, 1, true, 0x8000, 0xFFFFFFFF, by decide +kernel⟩

theorem wit_immediatesAndComparesCompute_3 : ∃ (s : State) (k : Keeper) (wd ws : Fin 16) (f : Bool) (m : BitVec 16) (a : Word),
    s.zone.InStep k ∧ s.zone.getW k ws = a :=
  ⟨wStep, .A, 0, 1, true, 0x8000, 0xFFFFFFFF, by decide +kernel⟩

theorem wit_immediatesAndComparesCompute_4 : ∃ (s : State) (k : Keeper) (wd ws : Fin 16) (f : Bool) (m : BitVec 16) (a : Word),
    s.zone.InStep k ∧ s.zone.getW k ws = a :=
  ⟨wStep, .A, 0, 1, true, 0x8000, 0xFFFFFFFF, by decide +kernel⟩

theorem wit_immediatesAndComparesCompute_5 : ∃ (s : State) (k : Keeper) (wd : Fin 16) (m : BitVec 16), s.zone.InStep k :=
  ⟨wStep, .A, 15, 0x8000, by decide +kernel⟩

theorem wit_immediatesAndComparesCompute_6 : ∃ (s : State) (k : Keeper) (ws : Fin 16) (m : BitVec 16) (a : Word), s.zone.InStep k
    ∧ s.zone.getW k ws = a :=
  ⟨wStep, .A, 1, 0xFFFF, 0xFFFFFFFF, by decide +kernel⟩

theorem wit_immediatesAndComparesCompute_7 : ∃ (s : State) (k : Keeper) (ws wt : Fin 16) (a b : Word), s.zone.InStep k ∧
    s.zone.getW k ws = a ∧ s.zone.getW k wt = b :=
  ⟨wStep, .A, 1, 2, 0xFFFFFFFF, 1, by decide +kernel⟩

theorem wit_immediatesAndComparesCompute_8 : ∃ (s : State) (k : Keeper) (ws wt : Fin 16) (a b : Word), s.zone.InStep k ∧
    s.zone.getW k ws = a ∧ s.zone.getW k wt = b :=
  ⟨wStep, .A, 1, 2, 0xFFFFFFFF, 1, by decide +kernel⟩

theorem wit_chartInstructionsMoveWords_1 : ∃ (s : State) (k : Keeper) (wd : Fin 16) (a : BitVec 14), s.zone.InStep k :=
  ⟨wStep, .A, 1, 0x3FFF, by decide +kernel⟩

theorem wit_chartInstructionsMoveWords_2 : ∃ (s : State) (k : Keeper) (ws : Fin 16) (a : BitVec 14), s.zone.InStep k :=
  ⟨wStep, .A, 1, 0x3800, by decide +kernel⟩

theorem wit_chartInstructionsMoveWords_3 : ∃ (s : State) (k : Keeper) (wd wx : Fin 16) (a : BitVec 14), s.zone.InStep k ∧ a.toNat
    + (s.zone.getW k wx).toNat ≤ 0x3FFF :=
  ⟨wStep, .A, 1, 2, 0x3FFE, by decide +kernel⟩

theorem wit_chartInstructionsMoveWords_4 : ∃ (s : State) (k : Keeper) (ws wx : Fin 16) (a : BitVec 14) (e : Nat), s.zone.InStep k
    ∧ e = a.toNat + (s.zone.getW k wx).toNat ∧ e ≤ 0x3FFF :=
  ⟨wStep, .A, 1, 2, 0x37FF, 0x3800, by decide +kernel⟩

theorem wit_chartInstructionsMoveWords_5 : ∃ (s : State) (k : Keeper) (ws wx : Fin 16) (a : BitVec 14), s.zone.InStep k ∧ 0x3FFF <
    a.toNat + (s.zone.getW k wx).toNat :=
  ⟨wStep, .A, 1, 2, 0x3FFF, by decide +kernel⟩

theorem wit_chartInstructionsMoveWords_6 : ∃ (s : State) (k : Keeper) (wd wx : Fin 16) (a : BitVec 14), s.zone.InStep k ∧ 0x3FFF <
    a.toNat + (s.zone.getW k wx).toNat :=
  ⟨wStep, .A, 1, 2, 0x3FFF, by decide +kernel⟩

theorem wit_chartInstructionsMoveWords_7 : ∃ (s : State) (k : Keeper) (wd : Fin 16), s.zone.InStep k :=
  ⟨wStep, .A, 1, by decide +kernel⟩

theorem wit_skipNopAndEndControlAStep_1 : ∃ (s : State) (k : Keeper) (cc n : Fin 15) (f : TFlags), s.zone.InStep k ∧ s.zone.flags
    k = f :=
  ⟨wStep, .A, 14, 14, ⟨false,false,false,false⟩, by decide +kernel⟩

theorem wit_skipNopAndEndControlAStep_2 : ∃ (s : State) (k : Keeper), s.zone.InStep k :=
  ⟨wStep, .A, by decide +kernel⟩

theorem wit_skipNopAndEndControlAStep_3 : ∃ (s : State) (k : Keeper), s.zone.InStep k :=
  ⟨wStep, .A, by decide +kernel⟩

theorem wit_skippedInstructionsHaveNoEffect_1 : ∃ (s : State) (c : Instr) (k : Keeper), tamvaKeeper c = some k ∧ c ≠ .opEnd k ∧
    s.zone.executes k = true ∧ (s.zone.keeper k).inStep = true ∧ 0 < (s.zone.keeper k).skip :=
  ⟨on wStep fun z => z.setKeeper .A { z.keeperA with skip := 15 }, .opNop .A, .A, by decide⟩

theorem wit_skippedInstructionsHaveNoEffect_2 : ∃ (s : State) (c : Instr) (k : Keeper), tamvaKeeper c = some k ∧
    s.zone.executes k = false := ⟨State.reset, .opEnd .B, .B, by decide⟩

theorem wit_channelAccessReadsAndWritesWords_1 : ∃ (s : State) (k : Keeper) (wd : Fin 16) (g : PageArg) (o : BitVec 6) (kind :
    PageKind) (d : WordD), s.zone.InStep k ∧ pageAllowed g false = true ∧ keyD (Zone.pageKey g o.toNat) = some (kind, d) ∧
    Zone.storedWord kind (Zone.pageKey g o.toNat) = true ∧ (∀ r ∈ (s.zone.keeper k).recent, r.key = Zone.pageKey g o.toNat →
    r.slot + 1 < (s.zone.keeper k).slotNo) ∧ Zone.pageKey g o.toNat ≠ markKey :=
  ⟨wStep, .A, 1, ⟨3,31⟩, 5, PageKind.input, (wordOf .input 20), by decide +kernel⟩

theorem wit_channelAccessReadsAndWritesWords_2 : ∃ (s : State) (k : Keeper) (wd : Fin 16) (g : PageArg) (o : BitVec 6),
    s.zone.InStep k ∧ wd ≠ 0 ∧ pageAllowed g false = true ∧ (∀ r ∈ (s.zone.keeper k).recent, r.key = Zone.pageKey g o.toNat →
    r.slot + 1 < (s.zone.keeper k).slotNo) ∧ s.zone.time.marked = none :=
  ⟨wStep, .A, 1, ⟨2,15⟩, 5, by decide +kernel⟩

theorem wit_channelAccessReadsAndWritesWords_3 : ∃ (s : State) (k : Keeper) (wd : Fin 16) (g : PageArg) (o : BitVec 6) (q :
    RecentWrite) (kind : PageKind) (d : WordD), s.zone.InStep k ∧ pageAllowed g false = true ∧ keyD (Zone.pageKey g o.toNat) =
    some (kind, d) ∧ Zone.storedWord kind (Zone.pageKey g o.toNat) = true ∧ (s.zone.keeper k).recent = [q] ∧ q.key = Zone.pageKey
    g o.toNat ∧ (s.zone.keeper k).slotNo ≤ q.slot + 1 :=
  ⟨(on wStep fun z => z.setKeeper .A { z.keeperA with recent := [⟨pINPUT 31 + 20, 7, 0⟩] }), .A, 1, ⟨3,31⟩, 5, ⟨pINPUT 31 + 20, 7,
    0⟩, PageKind.input, (wordOf .input 20), by decide +kernel⟩

theorem wit_channelAccessReadsAndWritesWords_4 : ∃ (s : State) (k : Keeper) (ws : Fin 16) (g : PageArg) (o : BitVec 6) (kind :
    PageKind) (d : WordD), s.zone.InStep k ∧ pageAllowed g true = true ∧ keyD (Zone.pageKey g o.toNat) = some (kind, d) ∧
    s.zone.Reaches k (Zone.pageKey g o.toNat) ∧ Zone.plainWord kind (Zone.pageKey g o.toNat) = true ∧ d.reached (reachOf kind
    (.keeper k)) ≠ 0 ∧ (keyBank (Zone.pageKey g o.toNat) = 1 → (s.zone.load (keyChan (Zone.pageKey g o.toNat))).silent = false) :=
  ⟨(on wStep fun z => { z with keeperA := { z.keeperA with w := [(1, 0xFFFFFFFF)] } }), .A, 1, ⟨0,3⟩, 3, PageKind.zone3, (wordOf
    .zone3 0xC), by decide +kernel⟩

theorem wit_channelAccessReadsAndWritesWords_5 : ∃ (s : State) (k : Keeper) (ws : Fin 16) (g : PageArg) (o : BitVec 6) (kind :
    PageKind) (d : WordD), s.zone.InStep k ∧ pageAllowed g true = true ∧ keyD (Zone.pageKey g o.toNat) = some (kind, d) ∧
    s.zone.Reaches k (Zone.pageKey g o.toNat) ∧ Zone.plainWord kind (Zone.pageKey g o.toNat) = true ∧ d.reached (reachOf kind
    (.keeper k)) ≠ 0 ∧ (keyBank (Zone.pageKey g o.toNat) = 1 → (s.zone.load (keyChan (Zone.pageKey g o.toNat))).silent = false) :=
  ⟨wStep, .A, 1, ⟨0,3⟩, 2, PageKind.zone3, (wordOf .zone3 8), by decide +kernel⟩

theorem wit_channelAccessReadsAndWritesWords_6 : ∃ (s : State) (k : Keeper) (ws : Fin 16) (g : PageArg) (o : BitVec 6) (kind :
    PageKind) (d : WordD), s.zone.InStep k ∧ pageAllowed g true = true ∧ keyD (Zone.pageKey g o.toNat) = some (kind, d) ∧
    s.zone.Reaches k (Zone.pageKey g o.toNat) ∧ Zone.plainWord kind (Zone.pageKey g o.toNat) = true ∧ d.reached (reachOf kind
    (.keeper k)) ≠ 0 ∧ (keyBank (Zone.pageKey g o.toNat) = 1 → (s.zone.load (keyChan (Zone.pageKey g o.toNat))).silent = false) :=
  ⟨wStep, .A, 1, ⟨0,3⟩, 2, PageKind.zone3, (wordOf .zone3 8), by decide +kernel⟩

theorem wit_channelAccessReadsAndWritesWords_7 : ∃ (s : State) (k : Keeper) (ws : Fin 16) (g : PageArg) (o : BitVec 6) (kind :
    PageKind) (d : WordD), s.zone.InStep k ∧ pageAllowed g true = true ∧ keyD (Zone.pageKey g o.toNat) = some (kind, d) ∧
    s.zone.Reaches k (Zone.pageKey g o.toNat) ∧ Zone.plainWord kind (Zone.pageKey g o.toNat) = true ∧ d.reached (reachOf kind
    (.keeper k)) ≠ 0 ∧ (keyBank (Zone.pageKey g o.toNat) = 1 → (s.zone.load (keyChan (Zone.pageKey g o.toNat))).silent = false) :=
  ⟨wStep, .A, 1, ⟨0,3⟩, 2, PageKind.zone3, (wordOf .zone3 8), by decide +kernel⟩

theorem wit_channelAccessReadsAndWritesWords_8 : ∃ (s : State) (k : Keeper) (ws wx : Fin 16) (g : PageArg) (o : BitVec 10) (kind :
    PageKind) (d : WordD), s.zone.getW k wx = o.setWidth 32 ∧ s.zone.InStep k ∧ pageAllowed g true = true ∧ keyD (Zone.pageKey g
    o.toNat) = some (kind, d) ∧ s.zone.Reaches k (Zone.pageKey g o.toNat) ∧ Zone.plainWord kind (Zone.pageKey g o.toNat) = true ∧
    d.reached (reachOf kind (.keeper k)) ≠ 0 ∧ (keyBank (Zone.pageKey g o.toNat) = 1 → (s.zone.load (keyChan (Zone.pageKey g
    o.toNat))).silent = false) :=
  ⟨(on wStep fun z => { z with keeperA := { z.keeperA with w := [(1, 0xFFFF), (2, 3)] } }), .A, 1, 2, ⟨0,3⟩, 3, PageKind.zone3,
    (wordOf .zone3 0xC), by decide +kernel⟩

theorem wit_channelAccessReadsAndWritesWords_9 : ∃ (s : State) (k : Keeper) (ws wx : Fin 16) (g : PageArg), s.zone.InStep k ∧
    pageAllowed g true = true ∧ 1023 < (s.zone.getW k wx).toNat :=
  ⟨(wThresh 0 1024), .A, 1, 1, ⟨3,31⟩, by decide +kernel⟩

theorem wit_channelAccessReadsAndWritesWords_10 : ∃ (s : State) (k : Keeper) (ws : Fin 16) (g : PageArg) (o : BitVec 6),
    s.zone.InStep k ∧ pageAllowed g true = true ∧ stageOf (keyPage (Zone.pageKey g o.toNat)) = none ∧ s.zone.mode ≠ Mode.test ∧
    s.zone.portOpen k = true ∧ s.zone.holdsWatch k = false :=
  ⟨(on wStep fun z => { z.setFld (pKEEPER .B) KEEPER.KSTATUS_ROLE 2 with keeperB := { z.keeperB with inStep := true } }), .B, 1,
    ⟨3,31⟩, 1, by decide +kernel⟩

theorem wit_channelAccessReadsAndWritesWords_11 : ∃ (s : State) (k : Keeper) (ws : Fin 16) (g : PageArg) (o : BitVec 6),
    s.zone.InStep k ∧ pageAllowed g true = false ∧ (s.zone.role k.other = Role.standby ∨ s.zone.role k.other = Role.watch) ∧
    s.zone.fencedNow k.other = false :=
  ⟨wStep, .A, 1, ⟨11,0⟩, 0, by decide +kernel⟩

theorem wit_channelAccessReadsAndWritesWords_12 : ∃ (s : State) (k : Keeper) (wd wx : Fin 16) (g : PageArg) (o : BitVec 10) (kind
    : PageKind) (d : WordD), s.zone.InStep k ∧ pageAllowed g false = true ∧ s.zone.getW k wx = o.setWidth 32 ∧ keyD (Zone.pageKey
    g o.toNat) = some (kind, d) ∧ Zone.storedWord kind (Zone.pageKey g o.toNat) = true ∧ (∀ r ∈ (s.zone.keeper k).recent, r.key =
    Zone.pageKey g o.toNat → r.slot + 1 < (s.zone.keeper k).slotNo) ∧ Zone.pageKey g o.toNat ≠ markKey :=
  ⟨wStep, .A, 1, 2, ⟨3,31⟩, 1, PageKind.input, (wordOf .input 4), by decide +kernel⟩

theorem wit_channelAccessReadsAndWritesWords_13 : ∃ (s : State) (k : Keeper) (wd wx : Fin 16) (g : PageArg), s.zone.InStep k ∧
    pageAllowed g false = true ∧ (s.zone.getW k wx).toNat ≤ 1023 :=
  ⟨wStep, .A, 1, 2, ⟨3,31⟩, by decide +kernel⟩

theorem wit_channelAccessReadsAndWritesWords_14 : ∃ (s : State) (k : Keeper) (wd wx : Fin 16) (g : PageArg) (y : Bool),
    s.zone.InStep k ∧ pageAllowed g false = true ∧ 1023 < (s.zone.getW k wx).toNat :=
  ⟨(wThresh 0 1024), .A, 1, 1, ⟨3,31⟩, true, by decide +kernel⟩

theorem wit_ticketsAreIssuedExaminedAndRead_1 : ∃ (s : State) (k : Keeper) (wd : Fin 16) (m : BitVec 4) (g : PageArg) (o : BitVec
    6) (n : Nat) (kind : PageKind), s.zone.InStep k ∧ wd ≠ 0 ∧ pageAllowed g true = true ∧ s.zone.freeTicket k = some n ∧
    (s.zone.deliver k (Zone.pageKey g o.toNat)).1 = Zone.Delivery.delivered ∧ pageKind (keyBank (Zone.pageKey g o.toNat)) (keyChan
    (Zone.pageKey g o.toNat)) = some kind ∧ opRegister kind (keyOff (Zone.pageKey g o.toNat)) = false :=
  ⟨wClaim, .A, 1, 2, ⟨1,47⟩, 0, 0, PageKind.load, by decide +kernel⟩

theorem wit_ticketsAreIssuedExaminedAndRead_2 : ∃ (s : State) (k : Keeper) (wd : Fin 16) (m : BitVec 4) (g : PageArg) (o : BitVec
    6) (n i c : Nat), s.zone.InStep k ∧ wd ≠ 0 ∧ pageAllowed g true = true ∧ s.zone.freeTicket k = some n ∧ s.zone.mode ≠
    Mode.test ∧ s.zone.portOpen k = true ∧ stageOf (keyPage (Zone.pageKey g o.toNat)) = some i ∧ s.zone.claimRefusal i k = some c :=
  ⟨wStep, .A, 1, 2, ⟨1,47⟩, 13, 0, 47, 1, by decide +kernel⟩

theorem wit_ticketsAreIssuedExaminedAndRead_3 : ∃ (s : State) (k : Keeper) (wd : Fin 16) (m : BitVec 4) (g : PageArg) (o : BitVec
    6) (n : Nat), s.zone.InStep k ∧ wd ≠ 0 ∧ pageAllowed g true = true ∧ s.zone.freeTicket k = some n ∧ s.zone.mode ≠ Mode.test ∧
    s.zone.portOpen k = true ∧ stageOf (keyPage (Zone.pageKey g o.toNat)) = none ∧ s.zone.holdsWatch k = false :=
  ⟨(on wStep fun z => { z.setFld (pKEEPER .B) KEEPER.KSTATUS_ROLE 2 with keeperB := { z.keeperB with inStep := true } }), .B, 1,
    0, ⟨3,31⟩, 62, 0, by decide +kernel⟩

theorem wit_ticketsAreIssuedExaminedAndRead_4 : ∃ (s : State) (k : Keeper) (wd : Fin 16) (i : Fin 48) (n : Nat), s.zone.InStep k ∧
    wd ≠ 0 ∧ s.zone.freeTicket k = some n ∧ s.zone.mode ≠ Mode.test ∧ s.zone.portOpen k = true ∧ s.zone.claimRefusal i.val k =
    none ∧ (s.zone.load i.val).silent = false :=
  ⟨wClaim, .A, 1, 47, 0, by decide +kernel⟩

theorem wit_ticketsAreIssuedExaminedAndRead_5 : ∃ (s : State) (k : Keeper) (wd : Fin 16) (m : BitVec 4) (g : PageArg) (o : BitVec
    6), s.zone.InStep k ∧ wd ≠ 0 ∧ pageAllowed g true = true ∧ s.zone.freeTicket k = none :=
  ⟨wNoTicket, .A, 1, 2, ⟨1,0⟩, 13, by decide +kernel⟩

theorem wit_ticketsAreIssuedExaminedAndRead_6 : ∃ (s : State) (k : Keeper) (wd : Fin 16) (m : BitVec 4) (g : PageArg) (o : BitVec
    6), s.zone.InStep k ∧ (wd = 0 ∨ pageAllowed g true = false) ∧ (s.zone.role k.other = Role.standby ∨ s.zone.role k.other =
    Role.watch) ∧ s.zone.fencedNow k.other = false :=
  ⟨wStep, .A, 0, 2, ⟨1,47⟩, 13, by decide +kernel⟩

theorem wit_ticketsAreIssuedExaminedAndRead_7 : ∃ (s : State) (k : Keeper) (a : TicketArg) (n : Nat), s.zone.InStep k ∧
    s.zone.ticketArg k a = some n :=
  ⟨wStep, .A, (.imm 127), 127, by decide +kernel⟩

theorem wit_ticketsAreIssuedExaminedAndRead_8 : ∃ (s : State) (k : Keeper) (w : Fin 16), s.zone.InStep k ∧ 127 < (s.zone.getW k
    w).toNat :=
  ⟨wStep, .A, 1, by decide +kernel⟩

theorem wit_ticketsAreIssuedExaminedAndRead_9 : ∃ (s : State) (k : Keeper) (wd w : Fin 16), s.zone.InStep k ∧ 127 < (s.zone.getW k
    w).toNat :=
  ⟨wStep, .A, 1, 1, by decide +kernel⟩

theorem wit_ticketsAreIssuedExaminedAndRead_10 : ∃ (s : State) (k : Keeper) (wd : Fin 16) (a : TicketArg) (n : Nat) (t : Ticket),
    s.zone.InStep k ∧ s.zone.ticketArg k a = some n ∧ s.zone.ticket k n = t ∧ t.state = .done ∧ t.status < 16 ∧ t.age < 4096 ∧
    t.value < 65536 :=
  ⟨(on wStep fun z => z.setTicket .A 127 ⟨.done, 1, 1, 1, 15, 4095, 65535⟩), .A, 1, (.imm 127), 127, ⟨.done, 1, 1, 1, 15, 4095,
    65535⟩, by decide +kernel⟩

theorem wit_ticketsAreIssuedExaminedAndRead_11 : ∃ (s : State) (k : Keeper) (wd : Fin 16) (a : TicketArg) (n : Nat) (t : Ticket),
    s.zone.InStep k ∧ s.zone.ticketArg k a = some n ∧ s.zone.ticket k n = t ∧ t.state ≠ .done :=
  ⟨(on wStep fun z => z.setTicket .A 127 ⟨.issued, 1, 1, 1, 0, 0, 0⟩), .A, 1, (.imm 127), 127, ⟨.issued, 1, 1, 1, 0, 0, 0⟩, by
    decide +kernel⟩

theorem wit_queuesTimeAndEventsOfATable_1 : ∃ (s : State) (k : Keeper) (wd : Fin 16) (q : Fin 256) (w : QWord) (l : List QWord),
    s.zone.InStep k ∧ s.zone.unread k q.val = w :: l :=
  ⟨wQueues, .A, 1, 255, ⟨7,0⟩, [], by decide +kernel⟩

theorem wit_queuesTimeAndEventsOfATable_2 : ∃ (s : State) (k : Keeper) (wd : Fin 16) (q : Fin 256), s.zone.InStep k ∧
    s.zone.unread k q.val = [] :=
  ⟨wStep, .A, 1, 255, by decide +kernel⟩

theorem wit_queuesTimeAndEventsOfATable_3 : ∃ (s : State) (k : Keeper) (ws : Fin 16) (q : Fin 256), s.zone.InStep k ∧
    s.zone.holdsWatch k = true ∧ s.zone.portOpen k = true ∧ s.zone.evtFull k q.val = false :=
  ⟨wQueues, .A, 1, 255, by decide +kernel⟩

theorem wit_queuesTimeAndEventsOfATable_4 : ∃ (s : State) (k : Keeper) (ws : Fin 16) (q : Fin 256), s.zone.InStep k ∧
    s.zone.holdsWatch k = true ∧ s.zone.portOpen k = true ∧ s.zone.evtFull k q.val = true :=
  ⟨wStep, .A, 1, 255, by decide +kernel⟩

theorem wit_queuesTimeAndEventsOfATable_5 : ∃ (s : State) (k : Keeper) (ws : Fin 16) (q : Fin 256), s.zone.InStep k ∧
    s.zone.holdsWatch k = false :=
  ⟨(on wStep fun z => { z.setFld (pKEEPER .B) KEEPER.KSTATUS_ROLE 2 with keeperB := { z.keeperB with inStep := true } }), .B, 1,
    255, by decide +kernel⟩

theorem wit_queuesTimeAndEventsOfATable_6 : ∃ (s : State) (k : Keeper) (wd : Fin 16) (e : Bool) (q : Fin 256) (n : Nat),
    s.zone.InStep k ∧ (n = if e then (if s.zone.bindsEvt k q.val then (s.zone.evtQ q.val).words.length else 0) else (s.zone.unread
    k q.val).length) :=
  ⟨wStep, .A, 1, false, 255, 0, by decide +kernel⟩

theorem wit_queuesTimeAndEventsOfATable_7 : ∃ (s : State) (k : Keeper) (wd : Fin 16) (n : Nat), s.zone.InStep k ∧ (s.zone.keeper
    k).slotNo = n :=
  ⟨wStep, .A, 1, 0, by decide +kernel⟩

theorem wit_queuesTimeAndEventsOfATable_8 : ∃ (s : State) (k : Keeper) (wd : Fin 16) (n : Nat), s.zone.InStep k ∧ (s.zone.keeper
    k).slotNo = n :=
  ⟨wStep, .A, 1, 0, by decide +kernel⟩

theorem wit_queuesTimeAndEventsOfATable_9 : ∃ (s : State) (k : Keeper) (wd : Fin 16) (r n : Nat), s.zone.InStep k ∧ (s.zone.keeper
    k).round = r ∧ (s.zone.keeper k).slot = n ∧ r < 64 ∧ n < 100000 :=
  ⟨(on wStep fun z => z.setKeeper .A { z.keeperA with round := 63, slot := 99999 }), .A, 1, 63, 99999, by decide +kernel⟩

theorem wit_queuesTimeAndEventsOfATable_10 : ∃ (s : State) (k : Keeper) (ws : Fin 16) (c : BitVec 16), s.zone.InStep k ∧ c ≠ 0 ∧
    s.zone.holdsWatch k = true ∧ s.zone.portOpen k = true ∧ s.zone.keeperEvents k < 64 ∧ s.zone.records.length < 256 :=
  ⟨wStep, .A, 1, 0xFFFF, by decide +kernel⟩

theorem wit_queuesTimeAndEventsOfATable_11 : ∃ (s : State) (k : Keeper) (ws : Fin 16) (c : BitVec 16), s.zone.InStep k ∧ c ≠ 0 ∧
    s.zone.holdsWatch k = true ∧ s.zone.portOpen k = true ∧ 64 ≤ s.zone.keeperEvents k :=
  ⟨(on wStep fun z => { z with records := List.replicate 64 ⟨0x20, ⟨0, 0, 0, 0⟩, [0, 0, 0], false⟩ }), .A, 1, 0xFFFF, by
    decide +kernel⟩

theorem wit_queuesTimeAndEventsOfATable_12 : ∃ (s : State) (k : Keeper) (ws : Fin 16) (c : BitVec 16), s.zone.InStep k ∧ c ≠ 0 ∧
    s.zone.holdsWatch k = false :=
  ⟨(on wStep fun z => { z.setFld (pKEEPER .B) KEEPER.KSTATUS_ROLE 2 with keeperB := { z.keeperB with inStep := true } }), .B, 1,
    1, by decide +kernel⟩

theorem wit_queuesTimeAndEventsOfATable_13 : ∃ (s : State) (k : Keeper) (ws : Fin 16) (c : BitVec 16), s.zone.InStep k ∧ c ≠ 0 ∧
    s.zone.holdsWatch k = true ∧ s.zone.portOpen k = true :=
  ⟨wStep, .A, 1, 1, by decide +kernel⟩

theorem wit_queuesTimeAndEventsOfATable_14 : ∃ (s : State) (k : Keeper) (ws : Fin 16) (c : BitVec 16), s.zone.InStep k ∧ c ≠ 0 ∧
    s.zone.holdsWatch k = false :=
  ⟨(on wStep fun z => { z.setFld (pKEEPER .B) KEEPER.KSTATUS_ROLE 2 with keeperB := { z.keeperB with inStep := true } }), .B, 1,
    1, by decide +kernel⟩

theorem wit_queuesTimeAndEventsOfATable_15 : ∃ (s : State) (k : Keeper) (ws : Fin 16), s.zone.InStep k ∧ (s.zone.role k.other =
    Role.standby ∨ s.zone.role k.other = Role.watch) ∧ s.zone.fencedNow k.other = false :=
  ⟨wStep, .A, 1, by decide +kernel⟩

theorem wit_queuesTimeAndEventsOfATable_16 : ∃ (s : State) (k : Keeper) (ws : Fin 16), s.zone.InStep k ∧ (s.zone.role k.other =
    Role.standby ∨ s.zone.role k.other = Role.watch) ∧ s.zone.fencedNow k.other = false :=
  ⟨wStep, .A, 1, by decide +kernel⟩


/-! ### Keepers, the watch, slot marks, queues -/

theorem wit_keeperFailuresAreFencedAndReported_1 : ∃ (s : State) (k : Keeper) (c : Fin 7), s.zone.logicRuns = true ∧ s.zone.role k
    ≠ Role.stopped ∧ s.zone.role k ≠ Role.failed ∧ s.zone.role k ≠ Role.fenced ∧ ((s.zone.role k.other = Role.stopped ∨
    s.zone.role k.other = Role.failed ∨ s.zone.role k.other = Role.fenced ∨ s.zone.fencedNow k.other = true) →
    s.zone.safety.latched.getLsbD 1 = true) :=
  ⟨wStep, .A, 6, by decide +kernel⟩

theorem wit_keeperFailuresAreFencedAndReported_2 : ∃ (s : State) (k : Keeper) (c : Fin 7), s.zone.logicRuns = true ∧ s.zone.role k
    ≠ Role.stopped ∧ s.zone.role k ≠ Role.failed ∧ s.zone.role k ≠ Role.fenced ∧ (s.zone.role k.other = Role.stopped ∨ s.zone.role
    k.other = Role.failed ∨ s.zone.role k.other = Role.fenced ∨ s.zone.fencedNow k.other = true) ∧ s.zone.safety.latched.getLsbD 1
    = false :=
  ⟨(on wStep (·.setFld (pKEEPER .B) KEEPER.KSTATUS_ROLE 0)), .A, 6, by decide +kernel⟩

theorem wit_keeperFailuresAreFencedAndReported_3 : ∃ (s : State) (k : Keeper) (c : Fin 7), (s.zone.logicRuns = false ∨ s.zone.role
    k = Role.stopped ∨ s.zone.role k = Role.failed ∨ s.zone.role k = Role.fenced) :=
  ⟨(on wStep (·.setFld (pKEEPER .B) KEEPER.KSTATUS_ROLE 0)), .B, 6, by decide +kernel⟩

theorem wit_keeperFailuresAreFencedAndReported_4 : ∃ (s : State) (k : Keeper), s.zone.logicRuns = true ∧ s.zone.executes k = true
    ∧ ((s.zone.role k.other = Role.stopped ∨ s.zone.role k.other = Role.failed ∨ s.zone.role k.other = Role.fenced ∨
    s.zone.fencedNow k.other = true) → s.zone.safety.latched.getLsbD 1 = true) :=
  ⟨wStep, .A, by decide +kernel⟩

theorem wit_keeperFailuresAreFencedAndReported_5 : ∃ (s : State) (k : Keeper), s.zone.executes k = false :=
  ⟨(on wStep (·.setFld (pKEEPER .B) KEEPER.KSTATUS_ROLE 0)), .B, by decide +kernel⟩

theorem wit_keeperFailuresAreFencedAndReported_6 : ∃ (s : State) (k : Keeper), s.zone.logicRuns = true ∧ s.zone.fencedNow k = true
    ∧ s.zone.flag (pKEEPER k) KEEPER.FENCE_CONFIRMED = false :=
  ⟨(on wStep (·.setFld (pKEEPER .A) KEEPER.FENCE_FENCED 1)), .A, by decide +kernel⟩

theorem wit_keeperFailuresAreFencedAndReported_7 : ∃ (s : State) (k : Keeper), s.zone.fencedNow k = false :=
  ⟨wStep, .A, by decide +kernel⟩

theorem wit_keeperFailuresAreFencedAndReported_8 : ∃ (s : State) (k : Keeper) (t : Nat), s.zone.logicRuns = true ∧ (s.zone.keeper
    k).fenceAt = some t ∧ s.zone.fencedNow k = true ∧ s.zone.flag (pKEEPER k) KEEPER.FENCE_CONFIRMED = false ∧ t + 2500 ≤
    s.zone.mono :=
  ⟨(on wStep fun z =>
    { z.setFld (pKEEPER .B) KEEPER.FENCE_FENCED 1 with keeperB := { z.keeperB with fenceAt := some 9999997500 } }), .B,
    9999997500, by decide +kernel⟩

theorem wit_keeperFailuresAreFencedAndReported_9 : ∃ (s : State) (k : Keeper), (∀ t ∈ (s.zone.keeper k).fenceAt, s.zone.mono < t +
    2500) :=
  ⟨(on wStep fun z =>
    { z.setFld (pKEEPER .B) KEEPER.FENCE_FENCED 1 with keeperB := { z.keeperB with fenceAt := some 9999997501 } }), .B, by
    decide +kernel⟩

theorem wit_keeperFailuresAreFencedAndReported_10 : ∃ (s : State) (k : Keeper) (t : Nat), s.zone.logicRuns = true ∧ s.zone.verdict
    k = some t ∧ t + 2500 ≤ s.zone.mono ∧ s.zone.flag (pKEEPER k) KEEPER.FENCE_CONFIRMED = false ∧ s.zone.fencedNow k = false ∧
    ((s.zone.role k.other = Role.stopped ∨ s.zone.role k.other = Role.failed ∨ s.zone.role k.other = Role.fenced ∨
    s.zone.fencedNow k.other = true) → s.zone.safety.latched.getLsbD 1 = true) :=
  ⟨(on wStep fun z => { z with safety := { z.safety with verdictB := some 9999997500 } }), .B, 9999997500, by decide +kernel⟩

theorem wit_keeperFailuresAreFencedAndReported_11 : ∃ (s : State) (k : Keeper), (∀ t ∈ s.zone.verdict k, s.zone.mono < t + 2500) :=
  ⟨(on wStep fun z => { z with safety := { z.safety with verdictB := some 9999997501 } }), .B, by decide +kernel⟩

theorem wit_ticketsCompleteAndTimeOut_1 : ∃ (s : State) (k : Keeper) (n : Fin 128) (st : Fin 7) (v : BitVec 16) (t : Ticket),
    s.zone.logicRuns = true ∧ s.zone.ticket k n.val = t ∧ t.state = .issued :=
  ⟨wNoTicket, .A, 127, 6, 0xFFFF, ⟨.issued,1,0,0,0,0,0⟩, by decide +kernel⟩

theorem wit_ticketsCompleteAndTimeOut_2 : ∃ (s : State) (k : Keeper) (n : Fin 128) (ser : Nat) (st : Fin 7) (v : BitVec 16),
    s.zone.logicRuns = true ∧ (ser ≠ (s.zone.ticket k n.val).serial ∨ (s.zone.ticket k n.val).state ≠ .issued) :=
  ⟨wNoTicket, .A, 127, 2, 0, 0, by decide +kernel⟩

theorem wit_ticketsCompleteAndTimeOut_3 : ∃ (s : State) (k : Keeper) (n : Fin 128), s.zone.logicRuns = true ∧ (s.zone.keeper
    k).markAt = some s.zone.mono :=
  ⟨(on wStep fun z =>
    { (z.setFld (pKEEPER .A) KEEPER.CONFIG_TICKET_TIMEOUT 1000).setTicket .A 127 ⟨.issued,1,0,9999750000,0,0,0⟩ with keeperA := { z.keeperA with markAt := some 10000000000 } }),
    .A, 127, by decide +kernel⟩

theorem wit_ticketsCompleteAndTimeOut_4 : ∃ (s : State) (k : Keeper), (s.zone.keeper k).markAt ≠ some s.zone.mono :=
  ⟨wStep, .A, by decide +kernel⟩

theorem wit_ticketsCompleteAndTimeOut_5 : ∃ (s : State) (i : Fin 112) (t : Nat), s.zone.logicRuns = true ∧ (s.zone.stage
    i.val).lastHeard = some t ∧ (s.zone.stage i.val).silent = false ∧ t + 250000 ≤ s.zone.mono ∧ s.zone.mode ≠ Mode.test ∧
    s.zone.sleep.phase < 3 :=
  ⟨(on wSvc fun z => { z with stages := [(111, { StageSt.init with lastHeard := some 9999750000 })] }), 111, 9999750000, by
    decide +kernel⟩

theorem wit_ticketsCompleteAndTimeOut_6 : ∃ (s : State) (i : Fin 112), ((s.zone.stage i.val).silent = true ∨ s.zone.mode =
    Mode.test ∨ ∀ t ∈ (s.zone.stage i.val).lastHeard, s.zone.mono < t + 250000) :=
  ⟨wSvc, 0, by decide +kernel⟩

theorem wit_beaconsAndMirrorFramesAreHeard_1 : ∃ (s : State) (k : Keeper) (x : Zone) (w e : Word) (h : Heard) (l : List Nat) (i :
    Fin 112), s.zone.logicRuns = true ∧ x = s.zone.sendBeacon k ∧ (x.keeper k).line = some w ∧ Zone.hear (if l.contains i.val then
    w ^^^ e else w) s.zone.stageSlot = some h :=
  ⟨(on wStep fun z => { z with keeperA := { z.keeperA with line := some (beaconFrame 7 0 false true false 200) } }), .A, ((on
    wStep fun z => { z with keeperA := { z.keeperA with line := some (beaconFrame 7 0 false true false 200) } }).zone.sendBeacon
    .A), (beaconFrame 7 0 false true false 200), 0, ⟨0,200⟩, [], 111, by decide +kernel⟩

theorem wit_beaconsAndMirrorFramesAreHeard_2 : ∃ (s : State) (k : Keeper) (x : Zone) (w e : Word) (h : Heard) (l : List Nat),
    s.zone.logicRuns = true ∧ x = s.zone.sendBeacon k ∧ (x.keeper k).line = some w ∧ Zone.hear (if l.contains 112 then w ^^^ e
    else w) (s.zone.keeper k.other).slotNo = some h :=
  ⟨(on wStep fun z => { z with keeperA := { z.keeperA with line := some (beaconFrame 7 0 false true false 200) } }), .A, ((on
    wStep fun z => { z with keeperA := { z.keeperA with line := some (beaconFrame 7 0 false true false 200) } }).zone.sendBeacon
    .A), (beaconFrame 7 0 false true false 200), 0, ⟨0,200⟩, [], by decide +kernel⟩

theorem wit_beaconsAndMirrorFramesAreHeard_3 : ∃ (s : State) (k : Keeper) (x : Zone) (w e : Word) (l : List Nat) (i : Fin 112),
    s.zone.logicRuns = true ∧ x = s.zone.sendBeacon k ∧ (x.keeper k).line = some w ∧ Zone.hear (if l.contains i.val then w ^^^ e
    else w) s.zone.stageSlot = none :=
  ⟨(on wStep fun z => { z with keeperA := { z.keeperA with line := some (beaconFrame 7 0 false true false 200) } }), .A, ((on
    wStep fun z => { z with keeperA := { z.keeperA with line := some (beaconFrame 7 0 false true false 200) } }).zone.sendBeacon
    .A), (beaconFrame 7 0 false true false 200), 1, [111], 111, by decide +kernel⟩

theorem wit_beaconsAndMirrorFramesAreHeard_4 : ∃ (s : State) (k : Keeper) (e : Word) (l : List Nat), (s.zone.keeper k).beaconDue =
    false ∧ (s.zone.keeper k).line = none :=
  ⟨wStep, .A, 1, [], by decide +kernel⟩

theorem wit_beaconsAndMirrorFramesAreHeard_5 : ∃ (s : State) (k : Keeper) (x : Zone) (f : MirrorFrame) (y : Bool) (l : List (Nat ×
    Word)), s.zone.logicRuns = true ∧ x = s.zone.sendBeacon k.other ∧ (x.keeper k.other).sent = some f ∧ s.zone.holdsWatch k =
    false :=
  ⟨(on wStep fun z => { z with keeperA := { z.keeperA with sent := some ⟨0, [(none, 0x3800, 5)], some (1, 0, 0)⟩ } }), .B, ((on
    wStep fun z => { z with keeperA := { z.keeperA with sent := some ⟨0, [(none, 0x3800, 5)], some (1, 0, 0)⟩ } }).zone.sendBeacon
    .A), ⟨0, [(none, 0x3800, 5)], some (1, 0, 0)⟩, false, [(0, 1)], by decide +kernel⟩

theorem wit_beaconsAndMirrorFramesAreHeard_6 : ∃ (s : State) (k : Keeper) (y : Bool) (l : List (Nat × Word)), (s.zone.holdsWatch k
    = true ∨ ((s.zone.keeper k.other).sent = none ∧ (s.zone.keeper k.other).beaconDue = false)) :=
  ⟨wStep, .A, false, [], by decide +kernel⟩

theorem wit_slotMarksAdvanceTheKeepers_1 : ∃ (s : State) (k : Keeper), s.zone.marksRun = true ∧ s.zone.markDue.contains k = true :=
  ⟨State.reset, .A, by decide +kernel⟩

theorem wit_slotMarksAdvanceTheKeepers_2 : ∃ (s : State) (k : Keeper) (t : Table) (n i : Nat) (d : StepD), s.zone.marksRun = true
    ∧ s.zone.mode ≠ Mode.test ∧ s.zone.markDue.contains k = true ∧ s.zone.executes k = true ∧ s.zone.pause k = none ∧ s.zone.watch
    = WatchSt.init ∧ s.zone.runTable k = some t ∧ t.mode = 0 ∧ n = s.zone.nowNs / 1000 ∧ (n % (s.zone.keeper k).roundLen, i) ∈
    t.slotMap ∧ t.steps[i]? = some d ∧ d.mask.getLsbD (n / (s.zone.keeper k).roundLen % 64) = true :=
  ⟨(on wAlone fun z =>
    { z with keeperA := { z.keeperA with half0 := some ⟨1, 1, 0, 0, 1000, [0xFC000000], [⟨0, 1, 0xFFFFFFFFFFFFFFFF⟩], [(0, 0)], [], [], []⟩ } }),
    .A, ⟨1, 1, 0, 0, 1000, [0xFC000000], [⟨0, 1, 0xFFFFFFFFFFFFFFFF⟩], [(0, 0)], [], [], []⟩, 0, 0, ⟨0, 1, 0xFFFFFFFFFFFFFFFF⟩, by
    decide +kernel⟩

theorem wit_slotMarksAdvanceTheKeepers_3 : ∃ (s : State), s.zone.marksRun = true ∧ s.zone.mode ≠ Mode.test ∧ s.zone.executes .A =
    false ∧ s.zone.executes .B = false ∧ s.zone.watch = WatchSt.init :=
  ⟨State.reset, by decide +kernel⟩

theorem wit_slotMarksAdvanceTheKeepers_4 : ∃ (s : State), (s.zone.marksRun = false ∨ s.zone.markDue = []) :=
  ⟨(wMode 0), by decide +kernel⟩

theorem wit_slotMarksAdvanceTheKeepers_5 : ∃ (s : State) (k : Keeper), s.zone.marksRun = true ∧ s.zone.markDue.contains k = true ∧
    s.zone.roundStarts = true :=
  ⟨wAlone, .A, by decide +kernel⟩

theorem wit_slotMarksAdvanceTheKeepers_6 : ∃ (s : State), s.zone.roundStarts = false :=
  ⟨(on wAlone fun z => { z with time := { z.time with net := { z.time.net with ns := 1000 } } }), by decide +kernel⟩

theorem wit_slotMarksAdvanceTheKeepers_7 : ∃ (s : State) (t : Table) (k : Keeper), s.zone.marksRun = true ∧ s.zone.mode =
    Mode.service ∧ s.zone.markDue.contains k = true ∧ s.zone.holdsWatch k = true ∧ s.zone.fld (pZONE 1) KEEPER.WATCH_STATE_HOLDER
    = k.idx ∧ s.zone.watch = WatchSt.init ∧ s.zone.runTable k = some t ∧ t.slotMap = [] ∧ t.mode = 0 ∧ s.zone.pause k = none ∧
    s.zone.executes k.other = false ∧ s.zone.nowNs / 1000 % (s.zone.keeper k).roundLen = 0 :=
  ⟨wAlone, ⟨1, 1, 0, 0, 1000, [], [], [], [], [], []⟩, .A, by decide +kernel⟩

theorem wit_slotMarksAdvanceTheKeepers_8 : ∃ (s : State) (k : Keeper) (t : Nat), s.zone.inMode [.start, .service, .lightship,
    .test] = true ∧ (s.zone.keeper k).markAt = some t ∧ t + s.zone.localWait k ≤ s.zone.mono :=
  ⟨(on State.reset fun z => { z.setRole .B Role.stopped with mono := 263, keeperA := { z.keeperA with markAt := some 0 } }), .A,
    0, by decide +kernel⟩

theorem wit_slotMarksAdvanceTheKeepers_9 : ∃ (s : State) (k : Keeper), (∀ t ∈ (s.zone.keeper k).markAt, s.zone.mono < t + if
    s.zone.flag (pKEEPER k) KEEPER.KSTATUS_MARK_LOCAL then 250 else 263) :=
  ⟨(on State.reset fun z => { z.setRole .B Role.stopped with mono := 262, keeperA := { z.keeperA with markAt := some 0 } }), .A,
    by decide +kernel⟩

theorem wit_queuesBetweenMooringsAndTables_1 : ∃ (s : State) (q : Fin 256) (src : Source) (w : Word) (b : QBind) (x : ReqQueue),
    s.zone.start.released = true ∧ s.zone.permitted 12 src false true (0x1F3000000 + q.val * 0x1000) 4 = true ∧ (s.zone.dropLeft
    q.val).reqQ q.val = x ∧ x.bind = some b ∧ b.admits src = true ∧ x.refuse = 0 ∧ x.need = 0 ∧ w.toNat < 2 ^ 30 ∧ s.zone.reqLevel
    q.val < b.depth :=
  ⟨(on (wOpen 12 0x1F3000 0x1F31FF) fun z => { z with reqQs := [(255, { ReqQueue.init with bind := some ⟨.secure, 4, 1⟩ })] }),
    255, secureSrc, 0x3FFFFFFF, ⟨.secure,4,1⟩, ({ ReqQueue.init with bind := some ⟨.secure, 4, 1⟩ } : ReqQueue), by decide +kernel⟩

theorem wit_queuesBetweenMooringsAndTables_2 : ∃ (s : State) (q : Fin 256) (src : Source) (w : Word) (b : QBind) (x : ReqQueue),
    s.zone.start.released = true ∧ s.zone.permitted 12 src false true (0x1F3000000 + q.val * 0x1000) 4 = true ∧ (s.zone.dropLeft
    q.val).reqQ q.val = x ∧ x.bind = some b ∧ b.admits src = true ∧ x.refuse = 0 ∧ x.need = 0 ∧ 2 ^ 30 ≤ w.toNat ∧ s.zone.reqLevel
    q.val + w.toNat / 2 ^ 30 + 1 ≤ b.depth :=
  ⟨(on (wOpen 12 0x1F3000 0x1F31FF) fun z => { z with reqQs := [(255, { ReqQueue.init with bind := some ⟨.secure, 4, 4⟩ })] }),
    255, secureSrc, 0xC0000000, ⟨.secure,4,4⟩, ({ ReqQueue.init with bind := some ⟨.secure, 4, 4⟩ } : ReqQueue), by decide +kernel⟩

theorem wit_queuesBetweenMooringsAndTables_3 : ∃ (s : State) (q : Fin 256) (src : Source) (w : Word) (b : QBind) (x : ReqQueue),
    s.zone.start.released = true ∧ s.zone.permitted 12 src false true (0x1F3000000 + q.val * 0x1000) 4 = true ∧ (s.zone.dropLeft
    q.val).reqQ q.val = x ∧ x.bind = some b ∧ b.admits src = true ∧ x.refuse = 0 ∧ x.need ≠ 0 :=
  ⟨(on (wOpen 12 0x1F3000 0x1F31FF) fun z =>
    { z with reqQs := [(255, { ReqQueue.init with bind := some ⟨.secure, 4, 4⟩, frame := [0x40000000], need := 1 })] }), 255,
    secureSrc, 0xC0000000, ⟨.secure,4,4⟩, ({ ReqQueue.init with bind := some ⟨.secure, 4, 4⟩, frame := [0x40000000], need := 1 } :
    ReqQueue), by decide +kernel⟩

theorem wit_queuesBetweenMooringsAndTables_4 : ∃ (s : State) (q : Fin 256) (src : Source) (w : Word) (b : QBind) (x : ReqQueue),
    s.zone.start.released = true ∧ s.zone.permitted 12 src false true (0x1F3000000 + q.val * 0x1000) 4 = true ∧ (s.zone.dropLeft
    q.val).reqQ q.val = x ∧ x.bind = some b ∧ b.admits src = true ∧ x.refuse = 0 ∧ x.need = 0 ∧ b.depth < s.zone.reqLevel q.val +
    w.toNat / 2 ^ 30 + 1 :=
  ⟨(on (wOpen 12 0x1F3000 0x1F31FF) fun z => { z with reqQs := [(255, { ReqQueue.init with bind := some ⟨.secure, 4, 3⟩ })] }),
    255, secureSrc, 0xC0000000, ⟨.secure,4,3⟩, ({ ReqQueue.init with bind := some ⟨.secure, 4, 3⟩ } : ReqQueue), by decide +kernel⟩

theorem wit_queuesBetweenMooringsAndTables_5 : ∃ (s : State) (q : Fin 256) (src : Source) (w : Word) (b : QBind) (x : ReqQueue),
    s.zone.start.released = true ∧ s.zone.permitted 12 src false true (0x1F3000000 + q.val * 0x1000) 4 = true ∧ (s.zone.dropLeft
    q.val).reqQ q.val = x ∧ x.bind = some b ∧ b.admits src = true ∧ x.refuse ≠ 0 :=
  ⟨(on (wOpen 12 0x1F3000 0x1F31FF) fun z =>
    { z with reqQs := [(255, { ReqQueue.init with bind := some ⟨.secure, 4, 4⟩, refuse := 3 })] }), 255, secureSrc, 0xC0000000,
    ⟨.secure,4,4⟩, ({ ReqQueue.init with bind := some ⟨.secure, 4, 4⟩, refuse := 3 } : ReqQueue), by decide +kernel⟩

theorem wit_queuesBetweenMooringsAndTables_6 : ∃ (s : State) (q : Fin 256) (src : Source) (w : Word) (x : ReqQueue),
    s.zone.start.released = true ∧ s.zone.permitted 12 src false true (0x1F3000000 + q.val * 0x1000) 4 = true ∧ (s.zone.dropLeft
    q.val).reqQ q.val = x ∧ (x.bind.any fun b => b.admits src) = false :=
  ⟨(on (wOpen 12 0x1F3000 0x1F31FF) fun z => { z with reqQs := [(255, { ReqQueue.init with bind := some ⟨.secure, 4, 1⟩ })] }),
    255, ⟨.secure, 5⟩, 0x80000000, ({ ReqQueue.init with bind := some ⟨.secure, 4, 1⟩ } : ReqQueue), by decide +kernel⟩

theorem wit_queuesBetweenMooringsAndTables_7 : ∃ (s : State) (q : Fin 256) (src : Source) (w : Word), s.zone.start.released = true
    ∧ s.zone.permitted 12 src false true (0x1F3000000 + q.val * 0x1000) 4 = false :=
  ⟨wSvc, 255, ⟨.normal, 5⟩, 0x80000000, by decide +kernel⟩

theorem wit_queuesBetweenMooringsAndTables_8 : ∃ (s : State) (q : Fin 256) (src : Source) (l : List Word) (b : QBind),
    s.zone.start.released = true ∧ s.zone.permitted 12 src true false (0x1F3100000 + q.val * 0x1000) 4 = true ∧ (s.zone.evtQ
    q.val).bind = some b ∧ b.admits src = true ∧ (s.zone.evtQ q.val).words = l :=
  ⟨(on (wOpen 12 0x1F3000 0x1F31FF) fun z => { z with evtQs := [(255, ⟨some ⟨.secure, 4, 1⟩, [9], false⟩)] }), 255, secureSrc,
    [9], ⟨.secure,4,1⟩, by decide +kernel⟩

theorem wit_queuesBetweenMooringsAndTables_9 : ∃ (s : State) (q : Fin 256) (src : Source), s.zone.start.released = true ∧
    s.zone.permitted 12 src true false (0x1F3100000 + q.val * 0x1000) 4 = true ∧ ((s.zone.evtQ q.val).bind.any fun b => b.admits
    src) = false :=
  ⟨(on (wOpen 12 0x1F3000 0x1F31FF) fun z => { z with evtQs := [(255, ⟨some ⟨.secure, 4, 1⟩, [9], false⟩)] }), 255, ⟨.secure, 5⟩,
    by decide +kernel⟩

theorem wit_queuesBetweenMooringsAndTables_10 : ∃ (s : State) (q : Fin 256), s.zone.logicRuns = true ∧ (s.zone.reqQ q.val).need ≠
    0 ∧ (s.zone.reqQ q.val).frameAt + 25000 ≤ s.zone.mono :=
  ⟨(on wSvc fun z => { z with reqQs := [(255, { ReqQueue.init with frame := [1], need := 1, frameAt := 9999975000 })] }), 255, by
    decide +kernel⟩

theorem wit_queuesBetweenMooringsAndTables_11 : ∃ (s : State) (q : Fin 256), ((s.zone.reqQ q.val).need = 0 ∨ s.zone.mono <
    (s.zone.reqQ q.val).frameAt + 25000) :=
  ⟨wSvc, 255, by decide +kernel⟩

theorem wit_queuesBetweenMooringsAndTables_12 : ∃ (s : State) (q : Fin 256) (h i : Fin 8) (n : BitVec 11), s.zone.logicRuns = true
    ∧ (s.zone.evtQ q.val).noticeDue = true ∧ (s.zone.rd (pHINGE 2 + 0x900 + 4 * q.val)).toNat = 2 ^ 30 + h.val * 2 ^ 27 + i.val *
    2 ^ 24 + n.toNat ∧ i.val ≤ 6 ∧ n ≠ 0 :=
  ⟨(on wSvc fun z => { z.wr (pHINGE 2 + 0x900 + 4 * 255) 0x7E0007FF with evtQs := [(255, ⟨none, [9], true⟩)] }), 255, 7, 6, 0x7FF,
    by decide +kernel⟩

theorem wit_queuesBetweenMooringsAndTables_13 : ∃ (s : State) (q : Fin 256), s.zone.logicRuns = true ∧ (s.zone.evtQ
    q.val).noticeDue = true :=
  ⟨(on wSvc fun z => { z.wr (pHINGE 2 + 0x900 + 4 * 255) 0x800007FF with evtQs := [(255, ⟨none, [9], true⟩)] }), 255, by
    decide +kernel⟩

theorem wit_queuesBetweenMooringsAndTables_14 : ∃ (s : State) (q : Fin 256), (s.zone.evtQ q.val).noticeDue = false :=
  ⟨wSvc, 255, by decide +kernel⟩

theorem wit_loaderVerdictsCloseALoad_1 : ∃ (s : State) (k : Keeper) (c : LoadCmd) (v : Nat), s.zone.logicRuns = true ∧
    s.zone.watch.load = some c ∧ (match k with | .A => c.wordB | .B => c.wordA) = none ∧ v = (if s.zone.healthy k = true then
    (match s.zone.loaderCheck 0 c.image with | none => 0 | some (e, d) => Zone.loadWord e d) else Zone.loadWord 0x20 0) :=
  ⟨(on wReady fun z => { z with watch := { z.watch with load := some ⟨9, [], none, none⟩ } }), .A, ⟨9,[],none,none⟩, 0x01000000,
    by decide +kernel⟩

theorem wit_loaderVerdictsCloseALoad_2 : ∃ (s : State) (k : Keeper) (c : LoadCmd) (v o : Nat), s.zone.logicRuns = true ∧
    s.zone.watch.load = some c ∧ (match k with | .A => c.wordB | .B => c.wordA) = some o ∧ v = (if s.zone.healthy k = true then
    (match s.zone.loaderCheck 0 c.image with | none => 0 | some (e, d) => Zone.loadWord e d) else Zone.loadWord 0x20 0) :=
  ⟨(on wReady fun z => { z with watch := { z.watch with load := some ⟨9, [], some 0, none⟩ } }), .B, ⟨9,[],some 0,none⟩,
    0x01000000, 0, by decide +kernel⟩

theorem wit_loaderVerdictsCloseALoad_3 : ∃ (s : State) (k : Keeper), s.zone.watch.load = none :=
  ⟨wSvc, .A, by decide +kernel⟩


/-! ### Load outputs -/

theorem wit_loadRequestsAreApplied_1 : ∃ (s : State) (ch : Fin 48) (v : Word), s.zone.logicRuns = true ∧ (s.zone.load
    ch.val).forced = false ∧ s.zone.machine ch.val = ch.val ∧ (s.zone.load ch.val).demanded = false ∧ s.zone.reqMax ch.val < (v
    &&& 7#32).toNat :=
  ⟨wSvc, 47, 5, by decide +kernel⟩

theorem wit_loadRequestsAreApplied_2 : ∃ (s : State) (ch : Fin 48) (v : Word), s.zone.logicRuns = true ∧ ((s.zone.load
    ch.val).forced = true ∨ (s.zone.load ch.val).demanded = true ∨ s.zone.machine ch.val ≠ ch.val) :=
  ⟨(on wSvc fun z => z.setFld (pLOAD 40) LOAD.BRIDGE_CFG_PAIR 1), 41, 1, by decide +kernel⟩

theorem wit_loadRequestsAreApplied_3 : ∃ (s : State) (ch : Fin 48) (v : Word) (r m : Nat), s.zone.logicRuns = true ∧ m = ch.val ∧
    s.zone.machine ch.val = m ∧ (s.zone.load ch.val).forced = false ∧ (s.zone.load ch.val).demanded = false ∧ r = (v &&&
    7#32).toNat ∧ r ≤ s.zone.reqMax ch.val ∧ r ≠ 0 ∧ s.zone.lstate m = 0 ∧ s.zone.latched m = false ∧ s.zone.bandState m = none ∧
    (s.zone.load ch.val).gapEnd = none :=
  ⟨(on wSvc fun z => z.setFld (pLOAD 47) LOAD.CH_STATUS_SAFE_ACTIVE 1), 47, 0x00FF0F01, 1, 47, by decide +kernel⟩

theorem wit_loadRequestsAreApplied_4 : ∃ (s : State) (ch : Fin 48) (v : Word) (r m : Nat), s.zone.logicRuns = true ∧ m = ch.val ∧
    s.zone.machine ch.val = m ∧ (s.zone.load ch.val).forced = false ∧ (s.zone.load ch.val).demanded = false ∧ r = (v &&&
    7#32).toNat ∧ r ≤ s.zone.reqMax ch.val ∧ r ≠ 0 ∧ s.zone.lstate m = 0 ∧ s.zone.latched m = true :=
  ⟨(on wSvc fun z => z.setFld (pLOAD 47) LOAD.CH_STATUS_LATCH 1), 47, 1, 1, 47, by decide +kernel⟩

theorem wit_loadRequestsAreApplied_5 : ∃ (s : State) (ch : Fin 48) (v : Word) (r m b : Nat), s.zone.logicRuns = true ∧ m = ch.val
    ∧ s.zone.machine ch.val = m ∧ (s.zone.load ch.val).forced = false ∧ (s.zone.load ch.val).demanded = false ∧ r = (v &&&
    7#32).toNat ∧ r ≤ s.zone.reqMax ch.val ∧ r ≠ 0 ∧ s.zone.lstate m = 0 ∧ s.zone.latched m = false ∧ s.zone.bandState m = some b :=
  ⟨(on wSvc fun z => z.setFld (pZONE 3) ZONE3.SUPPLY_STATUS_BAND_A 2), 47, 1, 1, 47, 7, by decide +kernel⟩

theorem wit_loadRequestsAreApplied_6 : ∃ (s : State) (ch : Fin 48) (v : Word) (r m : Nat), s.zone.logicRuns = true ∧ m = ch.val ∧
    s.zone.machine ch.val = m ∧ (s.zone.load ch.val).forced = false ∧ (s.zone.load ch.val).demanded = false ∧ r = (v &&&
    7#32).toNat ∧ r ≤ s.zone.reqMax ch.val ∧ r = 0 ∧ (s.zone.lstate m = 1 ∨ s.zone.lstate m = 2 ∨ s.zone.lstate m = 3 ∨
    s.zone.lstate m = 4) :=
  ⟨(on wSvc fun z => (z.setFld (pLOAD 0) LOAD.CH_STATUS_STATE 4)), 0, 0, 0, 0, by decide +kernel⟩

theorem wit_loadRequestsAreApplied_7 : ∃ (s : State) (ch : Fin 48) (v : Word) (r m e g p : Nat), s.zone.logicRuns = true ∧ m =
    ch.val ∧ s.zone.machine ch.val = m ∧ (s.zone.load ch.val).forced = false ∧ (s.zone.load ch.val).demanded = false ∧ r = (v &&&
    7#32).toNat ∧ r ≤ s.zone.reqMax ch.val ∧ r ≠ 0 ∧ (s.zone.lstate m = 1 ∨ s.zone.lstate m = 2 ∨ s.zone.lstate m = 3) ∧ e =
    (s.zone.load ch.val).applied ∧ g = ((v >>> 8) &&& 15#32).toNat ∧ p = ((v >>> 16) &&& 255#32).toNat :=
  ⟨(on wSvc fun z => (z.setFld (pLOAD 46) LOAD.CH_STATUS_STATE 2).setLoad 46 { LoadSt.init with applied := 1 }), 46, 0x00030203,
    3, 46, 1, 2, 3, by decide +kernel⟩

theorem wit_loadRequestsAreApplied_8 : ∃ (s : State) (ch : Fin 48) (v : Word) (r m : Nat), s.zone.logicRuns = true ∧ m = ch.val ∧
    s.zone.machine ch.val = m ∧ (s.zone.load ch.val).forced = false ∧ (s.zone.load ch.val).demanded = false ∧ r = (v &&&
    7#32).toNat ∧ r ≤ s.zone.reqMax ch.val ∧ (5 ≤ s.zone.lstate m ∨ (s.zone.lstate m = 4 ∧ r ≠ 0) ∨ (s.zone.lstate m = 0 ∧ r = 0))
    :=
  ⟨(on wSvc fun z => (z.setFld (pLOAD 0) LOAD.CH_STATUS_STATE 4)), 0, 1, 1, 0, by decide +kernel⟩

theorem wit_loadRequestsAreApplied_9 : ∃ (s : State) (ch : Fin 48) (v : Word) (r m : Nat) (d : OffDiag), s.zone.logicRuns = true ∧
    m = ch.val ∧ s.zone.machine ch.val = m ∧ (s.zone.load ch.val).forced = false ∧ (s.zone.load ch.val).demanded = false ∧ r = (v
    &&& 7#32).toNat ∧ r ≤ s.zone.reqMax ch.val ∧ r ≠ 0 ∧ s.zone.members m = [m] ∧ (s.zone.load ch.val).offDiag = some d ∧
    (s.zone.ticket d.ticket.keeper d.ticket.num).state = .issued ∧ (s.zone.ticket d.ticket.keeper d.ticket.num).serial =
    d.ticket.serial :=
  ⟨(on wTicket fun z => z.setLoad 47 { LoadSt.init with offDiag := some ⟨⟨.A,127,1⟩, false, 9⟩ }), 47, 1, 1, 47,
    ⟨⟨.A,127,1⟩,false,9⟩, by decide +kernel⟩

theorem wit_loadRequestsAreApplied_10 : ∃ (s : State) (ch : Fin 48) (t : Nat), s.zone.logicRuns = true ∧ (s.zone.load
    ch.val).gapEnd = some t ∧ t ≤ s.zone.mono :=
  ⟨(on wSvc fun z => ((z.setFld (pLOAD 46) LOAD.CH_STATUS_STATE 2).setFld (pLOAD 46) LOAD.CH_CTRL_REQ 2).setLoad 46
    { LoadSt.init with gapEnd := some 9 }), 46, 9, by decide +kernel⟩

theorem wit_loadRequestsAreApplied_11 : ∃ (s : State) (ch : Fin 48), (∀ t ∈ (s.zone.load ch.val).gapEnd, s.zone.mono < t) :=
  ⟨wSvc, 46, by decide +kernel⟩

theorem wit_loadRequestsAreApplied_12 : ∃ (s : State) (ch : Fin 48) (t w : Nat) (g p : Nat), s.zone.logicRuns = true ∧
    (s.zone.load ch.val).followSince = some t ∧ (s.zone.load ch.val).gapEnd = none ∧ (g = if s.zone.follows ch.val (s.zone.load
    ch.val).applied then (s.zone.load ch.val).gen else s.zone.fld (pLOAD ch.val) LOAD.CH_CTRL_GEN) ∧ (p = if s.zone.follows ch.val
    (s.zone.load ch.val).applied then (s.zone.load ch.val).phase else s.zone.fld (pLOAD ch.val) LOAD.CH_CTRL_PHASE) ∧ w =
    (s.zone.gen g).cur.periodNs ∧ ((s.zone.gen g).cur.mode = 0 ∨ (t + w - (s.zone.gen g).cur.shift p) / w < (s.zone.nowNs + w -
    (s.zone.gen g).cur.shift p) / w) :=
  ⟨(on wSvc fun z => ((z.setFld (pLOAD 46) LOAD.CH_STATUS_STATE 2).setFld (pLOAD 46) LOAD.CH_CTRL_REQ 3).setLoad 46
    { LoadSt.init with followSince := some 9 }), 46, 9, ((on wSvc fun z => ((z.setFld (pLOAD 46) LOAD.CH_STATUS_STATE 2).setFld
    (pLOAD 46) LOAD.CH_CTRL_REQ 3).setLoad 46 { LoadSt.init with followSince := some 9 }).zone.gen 0).cur.periodNs, 0, 0, by
    decide +kernel⟩

theorem wit_loadRequestsAreApplied_13 : ∃ (s : State) (ch : Fin 48), (s.zone.load ch.val).followSince = none :=
  ⟨wSvc, 46, by decide +kernel⟩

theorem wit_loadProtectionsOpenTheSwitch_1 : ∃ (s : State) (ch : Fin 48) (peak : BitVec 16) (m : Nat), s.zone.logicRuns = true ∧
    fastTripAt ch.val < peak.toNat ∧ s.zone.flag (pLOAD ch.val) LOAD.CH_STATUS_CONDUCTING = true ∧ m = s.zone.machine ch.val ∧
    s.zone.lstate m = 2 :=
  ⟨(on wSvc fun z => (z.setFld (pLOAD 47) LOAD.CH_STATUS_STATE 2).setFld (pLOAD 47) LOAD.CH_STATUS_CONDUCTING 1), 47, 0xFFFF, 47,
    ⟨by decide +kernel, fastTripAt_lt 47, by decide +kernel⟩⟩

theorem wit_loadProtectionsOpenTheSwitch_2 : ∃ (s : State) (ch : Fin 48) (peak : BitVec 16) (m : Nat), s.zone.logicRuns = true ∧
    fastTripAt ch.val < peak.toNat ∧ s.zone.flag (pLOAD ch.val) LOAD.CH_STATUS_CONDUCTING = true ∧ m = s.zone.machine ch.val ∧
    s.zone.lstate m = 1 :=
  ⟨(on wSvc fun z => (z.setFld (pLOAD 0) LOAD.CH_STATUS_STATE 1).setFld (pLOAD 0) LOAD.CH_STATUS_CONDUCTING 1), 0, 0xFFFF, 0, ⟨by
    decide +kernel, fastTripAt_lt 0, by decide +kernel⟩⟩

theorem wit_loadProtectionsOpenTheSwitch_3 : ∃ (s : State) (ch : Fin 48) (peak : BitVec 16), (peak.toNat ≤ fastTripAt ch.val ∨
    s.zone.flag (pLOAD ch.val) LOAD.CH_STATUS_CONDUCTING = false) :=
  ⟨wSvc, 0, 0, .inl (Nat.zero_le _)⟩

theorem wit_loadProtectionsOpenTheSwitch_4 : ∃ (s : State) (ch : Fin 48) (t e m : Nat), s.zone.logicRuns = true ∧ m = ch.val ∧
    s.zone.lstate m = 1 ∧ (s.zone.load ch.val).tripAt = some t ∧ t + 2500 ≤ s.zone.mono ∧ e = t + (s.zone.fld (pLOAD ch.val)
    LOAD.WARMUP_CFG_SPACING + 1) * 25000 ∧ (s.zone.fld (pLOAD ch.val) LOAD.CH_STATUS_RESTARTS = 15 ∨ (s.zone.load
    ch.val).windowEnd.getD 0 ≤ e) :=
  ⟨(on (on wSvc fun z => (z.setFld (pLOAD 47) LOAD.CH_STATUS_STATE 1).setLoad 47
    { LoadSt.init with tripAt := some 5, tripLeg := 47, windowEnd := some 125006 }) (·.setFld (pLOAD 47) LOAD.CH_STATUS_RESTARTS
    15)), 47, 5, 125005, 47, by decide +kernel⟩

theorem wit_loadProtectionsOpenTheSwitch_5 : ∃ (s : State) (ch : Fin 48) (t e m : Nat), s.zone.logicRuns = true ∧ m = ch.val ∧
    s.zone.lstate m = 1 ∧ (s.zone.load ch.val).tripAt = some t ∧ t + 2500 ≤ s.zone.mono ∧ e = t + (s.zone.fld (pLOAD ch.val)
    LOAD.WARMUP_CFG_SPACING + 1) * 25000 ∧ s.zone.fld (pLOAD ch.val) LOAD.CH_STATUS_RESTARTS ≠ 15 ∧ e < (s.zone.load
    ch.val).windowEnd.getD 0 ∧ (s.zone.tripSags (s.zone.load ch.val).tripLeg t).2 ≠ [] :=
  ⟨(on (on wSvc fun z => (z.setFld (pLOAD 47) LOAD.CH_STATUS_STATE 1).setLoad 47
    { LoadSt.init with tripAt := some 5, tripLeg := 47, windowEnd := some 125006 }) fun z =>
    { z with sagsA := [⟨2505, some 40⟩] }), 47, 5, 125005, 47, by decide +kernel⟩

theorem wit_loadProtectionsOpenTheSwitch_6 : ∃ (s : State) (ch : Fin 48) (t e m : Nat), s.zone.logicRuns = true ∧ m = ch.val ∧
    s.zone.lstate m = 1 ∧ (s.zone.load ch.val).tripAt = some t ∧ t + 2500 ≤ s.zone.mono ∧ e = t + (s.zone.fld (pLOAD ch.val)
    LOAD.WARMUP_CFG_SPACING + 1) * 25000 ∧ s.zone.fld (pLOAD ch.val) LOAD.CH_STATUS_RESTARTS ≠ 15 ∧ e < (s.zone.load
    ch.val).windowEnd.getD 0 ∧ (s.zone.tripSags (s.zone.load ch.val).tripLeg t).2 = [] ∧ s.zone.fld (pLOAD ch.val)
    LOAD.CH_STATUS_BUDGET ≠ 0 :=
  ⟨(on wSvc fun z => (z.setFld (pLOAD 47) LOAD.CH_STATUS_STATE 1).setLoad 47
    { LoadSt.init with tripAt := some 5, tripLeg := 47, windowEnd := some 125006 }), 47, 5, 125005, 47, by decide +kernel⟩

theorem wit_loadProtectionsOpenTheSwitch_7 : ∃ (s : State) (ch : Fin 48) (t e m : Nat), s.zone.logicRuns = true ∧ m = ch.val ∧
    s.zone.lstate m = 1 ∧ (s.zone.load ch.val).tripAt = some t ∧ t + 2500 ≤ s.zone.mono ∧ e = t + (s.zone.fld (pLOAD ch.val)
    LOAD.WARMUP_CFG_SPACING + 1) * 25000 ∧ s.zone.fld (pLOAD ch.val) LOAD.CH_STATUS_RESTARTS ≠ 15 ∧ e < (s.zone.load
    ch.val).windowEnd.getD 0 ∧ (s.zone.tripSags (s.zone.load ch.val).tripLeg t).2 = [] ∧ s.zone.fld (pLOAD ch.val)
    LOAD.CH_STATUS_BUDGET = 0 :=
  ⟨(on (on wSvc fun z => (z.setFld (pLOAD 47) LOAD.CH_STATUS_STATE 1).setLoad 47
    { LoadSt.init with tripAt := some 5, tripLeg := 47, windowEnd := some 125006 }) (·.setFld (pLOAD 47) LOAD.CH_STATUS_BUDGET
    0)), 47, 5, 125005, 47, by decide +kernel⟩

theorem wit_loadProtectionsOpenTheSwitch_8 : ∃ (s : State) (ch : Fin 48), (s.zone.lstate ch.val ≠ 1 ∨ ∀ t ∈ (s.zone.load
    ch.val).tripAt, s.zone.mono < t + 2500) :=
  ⟨wSvc, 47, by decide +kernel⟩

theorem wit_loadProtectionsOpenTheSwitch_9 : ∃ (s : State) (ch : Fin 48) (raw : BitVec 32) (a : Nat) (cur : Int), s.zone.logicRuns
    = true ∧ (∀ t ∈ (s.zone.load ch.val).tickAt, t + 2500 ≤ s.zone.mono) ∧ (s.zone.cal ch.val).held = none ∧ cur = Int.tdiv
    (raw.toInt * s.zone.fld (pCAL ch.val) CAL.GAIN_G) 65536 + s.zone.fldS (pCAL ch.val) CAL.OFFSET_O ∧ a = (s.zone.load
    ch.val).acc + (cur.natAbs / 100) ^ 2 - s.zone.fld (pLOAD ch.val) LOAD.SOFT_CFG_I_NOM ^ 2 ∧ (a < s.zone.fld (pLOAD ch.val)
    LOAD.SOFT_LIMIT_LIMIT * 1000000 ∨ (s.zone.lstate (s.zone.machine ch.val) ≠ 1 ∧ s.zone.lstate (s.zone.machine ch.val) ≠ 2)) :=
  ⟨wSvc, 0, -300000, 5000000, -300000, by decide +kernel⟩

theorem wit_loadProtectionsOpenTheSwitch_10 : ∃ (s : State) (ch : Fin 48) (raw : BitVec 32) (cur : Int) (m : Nat),
    s.zone.logicRuns = true ∧ (∀ t ∈ (s.zone.load ch.val).tickAt, t + 2500 ≤ s.zone.mono) ∧ (s.zone.cal ch.val).held = none ∧ cur
    = Int.tdiv (raw.toInt * s.zone.fld (pCAL ch.val) CAL.GAIN_G) 65536 + s.zone.fldS (pCAL ch.val) CAL.OFFSET_O ∧ s.zone.fld
    (pLOAD ch.val) LOAD.SOFT_LIMIT_LIMIT * 1000000 ≤ (s.zone.load ch.val).acc + (cur.natAbs / 100) ^ 2 - s.zone.fld (pLOAD ch.val)
    LOAD.SOFT_CFG_I_NOM ^ 2 ∧ m = s.zone.machine ch.val ∧ (s.zone.lstate m = 1 ∨ s.zone.lstate m = 2) :=
  ⟨(on wSvc fun z => (z.setFld (pLOAD 0) LOAD.CH_STATUS_STATE 2).setLoad 0 { LoadSt.init with acc := 199995000000 }), 0, -300000,
    -300000, 0, by decide +kernel⟩

theorem wit_loadProtectionsOpenTheSwitch_11 : ∃ (s : State) (ch : Fin 48) (raw : BitVec 32) (t : Nat), (s.zone.load ch.val).tickAt
    = some t ∧ s.zone.mono < t + 2500 :=
  ⟨(on wSvc fun z => z.setLoad 0 { LoadSt.init with tickAt := some 9999999999 }), 0, 0, 9999999999, by decide +kernel⟩

theorem wit_loadProtectionsOpenTheSwitch_12 : ∃ (s : State) (ch : Fin 48) (temp : BitVec 16) (m : Nat), s.zone.logicRuns = true ∧
    s.zone.paceDue (Pace.junction ch.val) 2500 = true ∧ m = s.zone.machine ch.val ∧ 2800 ≤ temp.toInt ∧ s.zone.flag (pLOAD ch.val)
    LOAD.CH_STATUS_LATCH = false ∧ 1 ≤ s.zone.lstate m ∧ s.zone.lstate m ≤ 3 :=
  ⟨(on wSvc fun z => (z.setFld (pLOAD 47) LOAD.CH_STATUS_STATE 3)), 47, 2800, 47, by decide +kernel⟩

theorem wit_loadProtectionsOpenTheSwitch_13 : ∃ (s : State) (ch : Fin 48) (temp : BitVec 16) (m : Nat), s.zone.logicRuns = true ∧
    s.zone.paceDue (Pace.junction ch.val) 2500 = true ∧ m = s.zone.machine ch.val ∧ 2800 ≤ temp.toInt ∧ s.zone.flag (pLOAD ch.val)
    LOAD.CH_STATUS_LATCH = false ∧ (s.zone.lstate m = 0 ∨ 4 ≤ s.zone.lstate m) :=
  ⟨wSvc, 47, 2800, 47, by decide +kernel⟩

theorem wit_loadProtectionsOpenTheSwitch_14 : ∃ (s : State) (ch : Fin 48) (temp : BitVec 16) (m : Nat), s.zone.logicRuns = true ∧
    s.zone.paceDue (Pace.junction ch.val) 2500 = true ∧ m = s.zone.machine ch.val ∧ ((2400 ≤ temp.toInt ∧ temp.toInt < 2800) ∨
    (2400 ≤ temp.toInt ∧ s.zone.flag (pLOAD ch.val) LOAD.CH_STATUS_LATCH = true) ∨ (temp.toInt < 2800 ∧ s.zone.flag (pLOAD ch.val)
    LOAD.CH_STATUS_LATCH = false)) :=
  ⟨wSvc, 47, 2799, 47, by decide +kernel⟩

theorem wit_loadProtectionsOpenTheSwitch_15 : ∃ (s : State) (ch : Fin 48) (temp : BitVec 16), s.zone.paceDue (Pace.junction
    ch.val) 2500 = false :=
  ⟨(on wSvc fun z => { z with pace := [(Pace.junction 47, 9999999999)] }), 47, 2799, by decide +kernel⟩

theorem wit_loadProtectionsOpenTheSwitch_16 : ∃ (s : State) (ch : Fin 48) (temp : BitVec 16) (m : Nat), s.zone.logicRuns = true ∧
    s.zone.paceDue (Pace.junction ch.val) 2500 = true ∧ m = s.zone.machine ch.val ∧ temp.toInt < 2400 ∧ s.zone.flag (pLOAD ch.val)
    LOAD.CH_STATUS_LATCH = true ∧ (s.zone.lstate m ≠ 5 ∨ ∃ i ∈ s.zone.members m, i ≠ ch.val ∧ s.zone.flag (pLOAD i)
    LOAD.CH_STATUS_LATCH = true) :=
  ⟨(on wSvc fun z => z.setFld (pLOAD 47) LOAD.CH_STATUS_LATCH 1), 47, 2399, 47, by decide +kernel⟩

theorem wit_loadProtectionsOpenTheSwitch_17 : ∃ (s : State) (ch : Fin 48) (temp : BitVec 16) (m : Nat), s.zone.logicRuns = true ∧
    s.zone.paceDue (Pace.junction ch.val) 2500 = true ∧ m = s.zone.machine ch.val ∧ temp.toInt < 2400 ∧ s.zone.flag (pLOAD ch.val)
    LOAD.CH_STATUS_LATCH = true ∧ s.zone.lstate m = 5 ∧ (∀ i ∈ s.zone.members m, i ≠ ch.val → s.zone.flag (pLOAD i)
    LOAD.CH_STATUS_LATCH = false) ∧ s.zone.effReq m = 0 :=
  ⟨(on (on wSvc fun z => ((z.setFld (pLOAD 47) LOAD.CH_STATUS_STATE 5).setFld (pLOAD 47) LOAD.CH_STATUS_LATCH 1).setFld (pLOAD 47)
    LOAD.CH_CTRL_REQ 1) (·.setFld (pLOAD 47) LOAD.CH_CTRL_REQ 0)), 47, 2399, 47, by decide +kernel⟩

theorem wit_loadProtectionsOpenTheSwitch_18 : ∃ (s : State) (ch : Fin 48) (temp : BitVec 16) (m : Nat), s.zone.logicRuns = true ∧
    s.zone.paceDue (Pace.junction ch.val) 2500 = true ∧ m = s.zone.machine ch.val ∧ temp.toInt < 2400 ∧ s.zone.flag (pLOAD ch.val)
    LOAD.CH_STATUS_LATCH = true ∧ s.zone.lstate m = 5 ∧ (∀ i ∈ s.zone.members m, i ≠ ch.val → s.zone.flag (pLOAD i)
    LOAD.CH_STATUS_LATCH = false) ∧ s.zone.effReq m ≠ 0 ∧ (s.zone.flag (pLOAD m) LOAD.CH_STATUS_FRESH = true ∨ s.zone.fld (pLOAD
    m) LOAD.CH_STATUS_BUDGET ≠ 0) ∧ s.zone.bandState m = none :=
  ⟨(on wSvc fun z => ((z.setFld (pLOAD 47) LOAD.CH_STATUS_STATE 5).setFld (pLOAD 47) LOAD.CH_STATUS_LATCH 1).setFld (pLOAD 47)
    LOAD.CH_CTRL_REQ 1), 47, 2399, 47, by decide +kernel⟩

theorem wit_loadProtectionsOpenTheSwitch_19 : ∃ (s : State) (ch : Fin 48) (temp : BitVec 16) (m b : Nat), s.zone.logicRuns = true
    ∧ s.zone.paceDue (Pace.junction ch.val) 2500 = true ∧ m = s.zone.machine ch.val ∧ temp.toInt < 2400 ∧ s.zone.flag (pLOAD
    ch.val) LOAD.CH_STATUS_LATCH = true ∧ s.zone.lstate m = 5 ∧ (∀ i ∈ s.zone.members m, i ≠ ch.val → s.zone.flag (pLOAD i)
    LOAD.CH_STATUS_LATCH = false) ∧ s.zone.effReq m ≠ 0 ∧ (s.zone.flag (pLOAD m) LOAD.CH_STATUS_FRESH = true ∨ s.zone.fld (pLOAD
    m) LOAD.CH_STATUS_BUDGET ≠ 0) ∧ s.zone.bandState m = some b :=
  ⟨(on (on wSvc fun z => ((z.setFld (pLOAD 47) LOAD.CH_STATUS_STATE 5).setFld (pLOAD 47) LOAD.CH_STATUS_LATCH 1).setFld (pLOAD 47)
    LOAD.CH_CTRL_REQ 1) fun z => z.setFld (pZONE 3) ZONE3.SUPPLY_STATUS_BAND_A 2), 47, 2399, 47, 7, by decide +kernel⟩

theorem wit_loadProtectionsOpenTheSwitch_20 : ∃ (s : State) (ch : Fin 48) (temp : BitVec 16) (m : Nat), s.zone.logicRuns = true ∧
    s.zone.paceDue (Pace.junction ch.val) 2500 = true ∧ m = s.zone.machine ch.val ∧ temp.toInt < 2400 ∧ s.zone.flag (pLOAD ch.val)
    LOAD.CH_STATUS_LATCH = true ∧ s.zone.lstate m = 5 ∧ (∀ i ∈ s.zone.members m, i ≠ ch.val → s.zone.flag (pLOAD i)
    LOAD.CH_STATUS_LATCH = false) ∧ s.zone.effReq m ≠ 0 ∧ s.zone.flag (pLOAD m) LOAD.CH_STATUS_FRESH = false ∧ s.zone.fld (pLOAD
    m) LOAD.CH_STATUS_BUDGET = 0 :=
  ⟨(on (on wSvc fun z => ((z.setFld (pLOAD 47) LOAD.CH_STATUS_STATE 5).setFld (pLOAD 47) LOAD.CH_STATUS_LATCH 1).setFld (pLOAD 47)
    LOAD.CH_CTRL_REQ 1) (·.setFld (pLOAD 47) LOAD.CH_STATUS_BUDGET 0)), 47, 2399, 47, by decide +kernel⟩

theorem wit_loadProtectionsOpenTheSwitch_21 : ∃ (s : State) (ch : Fin 48) (t m : Nat), s.zone.logicRuns = true ∧ m = ch.val ∧
    (s.zone.load ch.val).spacingEnd = some t ∧ t ≤ s.zone.mono ∧ s.zone.lstate m = 3 :=
  ⟨(on wSvc fun z => (z.setFld (pLOAD 47) LOAD.CH_STATUS_STATE 3).setLoad 47 { LoadSt.init with spacingEnd := some 7 }), 47, 7,
    47, by decide +kernel⟩

theorem wit_loadProtectionsOpenTheSwitch_22 : ∃ (s : State) (ch : Fin 48), (s.zone.lstate ch.val ≠ 3 ∨ ∀ t ∈ (s.zone.load
    ch.val).spacingEnd, s.zone.mono < t) :=
  ⟨wSvc, 47, by decide +kernel⟩

theorem wit_loadProtectionsOpenTheSwitch_23 : ∃ (s : State) (ch : Fin 48) (t m : Nat), s.zone.logicRuns = true ∧ m = ch.val ∧
    (s.zone.load ch.val).windowEnd = some t ∧ t ≤ s.zone.mono ∧ s.zone.lstate m = 1 ∧ (s.zone.load ch.val).tripAt = none :=
  ⟨(on wSvc fun z => (z.setFld (pLOAD 47) LOAD.CH_STATUS_STATE 1).setLoad 47 { LoadSt.init with windowEnd := some 7 }), 47, 7, 47,
    by decide +kernel⟩

theorem wit_loadProtectionsOpenTheSwitch_24 : ∃ (s : State) (ch : Fin 48), (s.zone.lstate ch.val ≠ 1 ∨ (s.zone.load ch.val).tripAt
    ≠ none ∨ ∀ t ∈ (s.zone.load ch.val).windowEnd, s.zone.mono < t) :=
  ⟨wSvc, 47, by decide +kernel⟩

theorem wit_loadProtectionsOpenTheSwitch_25 : ∃ (s : State) (ch : Fin 48) (t m : Nat), s.zone.logicRuns = true ∧ m = ch.val ∧
    s.zone.machine m = m ∧ (s.zone.load ch.val).zeroSince = some t ∧ t + 247500000 ≤ s.zone.mono ∧ (s.zone.load ch.val).refilled =
    false :=
  ⟨(on wSvc fun z => (z.setFld (pLOAD 47) LOAD.CH_STATUS_STATE 6).setLoad 47 { LoadSt.init with zeroSince := some 0 }), 47, 0, 47,
    by decide +kernel⟩

theorem wit_loadProtectionsOpenTheSwitch_26 : ∃ (s : State) (ch : Fin 48), ((s.zone.load ch.val).refilled = true ∨ ∀ t ∈
    (s.zone.load ch.val).zeroSince, s.zone.mono < t + 247500000) :=
  ⟨(on wSvc fun z => z.setLoad 47 { LoadSt.init with refilled := true }), 47, by decide +kernel⟩

theorem wit_loadProtectionsOpenTheSwitch_27 : ∃ (s : State) (x : SagReading), s.zone.logicRuns = true ∧ x.volts.toInt + 500 ≤
    x.mean.toInt :=
  ⟨wSvc, ⟨.A, 3000, 2500⟩, by decide +kernel⟩

theorem wit_loadProtectionsOpenTheSwitch_28 : ∃ (s : State) (x : SagReading), x.mean.toInt < x.volts.toInt + 500 :=
  ⟨wSvc, ⟨.A, 3000, 2501⟩, by decide +kernel⟩

theorem wit_loadDiagnosesAndOperations_1 : ∃ (s : State) (ch : Fin 48) (low high : BitVec 32), s.zone.logicRuns = true ∧ (∀ t ∈
    (s.zone.load ch.val).olAt, t + 2500 ≤ s.zone.mono) ∧ (s.zone.olThreshold ch.val = 0 ∨ s.zone.lstate (s.zone.machine ch.val) ≠
    2) :=
  ⟨wSvc, 24, 0, 4, by decide +kernel⟩

theorem wit_loadDiagnosesAndOperations_2 : ∃ (s : State) (ch : Fin 48) (low high : BitVec 32), s.zone.logicRuns = true ∧ (∀ t ∈
    (s.zone.load ch.val).olAt, t + 2500 ≤ s.zone.mono) ∧ s.zone.olThreshold ch.val ≠ 0 ∧ s.zone.lstate (s.zone.machine ch.val) = 2
    ∧ s.zone.olSampled ch.val = false :=
  ⟨(on wSvc fun z => ((z.setFld (pLOAD 24) LOAD.CH_STATUS_STATE 2).setFld (pLOAD 24) LOAD.CH_CFG_OL_RANGE 2).setLoad 24
    { LoadSt.init with applied := 2 }), 24, 0, 4, by decide +kernel⟩

theorem wit_loadDiagnosesAndOperations_3 : ∃ (s : State) (ch : Fin 48) (low high : BitVec 32) (least most u : Nat),
    s.zone.logicRuns = true ∧ (∀ t ∈ (s.zone.load ch.val).olAt, t + 2500 ≤ s.zone.mono) ∧ s.zone.magnitudes ch.val low high =
    (least, most) ∧ s.zone.olThreshold ch.val = u ∧ u ≠ 0 ∧ s.zone.olSampled ch.val = true ∧ most < u :=
  ⟨(on wSvc fun z => ((z.setFld (pLOAD 24) LOAD.CH_STATUS_STATE 2).setFld (pLOAD 24) LOAD.CH_CFG_OL_RANGE 2).setLoad 24
    { LoadSt.init with below := 999 }), 24, 0, 4, 0, 4, 5, by decide +kernel⟩

theorem wit_loadDiagnosesAndOperations_4 : ∃ (s : State) (ch : Fin 48) (low high : BitVec 32) (least most u : Nat),
    s.zone.logicRuns = true ∧ (∀ t ∈ (s.zone.load ch.val).olAt, t + 2500 ≤ s.zone.mono) ∧ s.zone.magnitudes ch.val low high =
    (least, most) ∧ s.zone.olThreshold ch.val = u ∧ u ≠ 0 ∧ s.zone.olSampled ch.val = true ∧ u * 11 < least * 10 ∧ u ≤ most :=
  ⟨(on wSvc fun z => ((z.setFld (pLOAD 24) LOAD.CH_STATUS_STATE 2).setFld (pLOAD 24) LOAD.CH_CFG_OL_RANGE 2).setLoad 24
    { LoadSt.init with above := 999 }), 24, 6, 9, 6, 9, 5, by decide +kernel⟩

theorem wit_loadDiagnosesAndOperations_5 : ∃ (s : State) (ch : Fin 48) (low high : BitVec 32) (t : Nat), (s.zone.load ch.val).olAt
    = some t ∧ s.zone.mono < t + 2500 :=
  ⟨(on wSvc fun z => z.setLoad 0 { LoadSt.init with olAt := some 9999999999 }), 0, 0, 0, 9999999999, by decide +kernel⟩

theorem wit_loadDiagnosesAndOperations_6 : ∃ (s : State) (ch : Fin 48) (senseMin senseMax : BitVec 32) (voutMin voutMax feedV :
    BitVec 16) (least most : Nat), s.zone.logicRuns = true ∧ s.zone.band (loadFeed ch.val) = 0 ∧ s.zone.phaseJudged ch.val = true
    ∧ s.zone.magnitudes ch.val senseMin senseMax = (least, most) ∧ s.zone.outputs ch.val = (false, false) ∧ 500 < least :=
  ⟨wSvc, 47, 501, 501, 0, 0, 6000, 501, 501, by decide +kernel⟩

theorem wit_loadDiagnosesAndOperations_7 : ∃ (s : State) (ch : Fin 48) (senseMin senseMax : BitVec 32) (voutMin voutMax feedV :
    BitVec 16) (least most : Nat), s.zone.logicRuns = true ∧ s.zone.band (loadFeed ch.val) = 0 ∧ s.zone.phaseJudged ch.val = true
    ∧ s.zone.magnitudes ch.val senseMin senseMax = (least, most) ∧ s.zone.outputs ch.val = (false, false) ∧ most ≤ 500 ∧ least ≤
    most ∧ feedV.toInt < 2 * voutMin.toInt ∧ voutMin.toInt ≤ voutMax.toInt :=
  ⟨wSvc, 47, 0, 500, 3001, 3001, 6000, 0, 500, by decide +kernel⟩

theorem wit_loadDiagnosesAndOperations_8 : ∃ (s : State) (ch : Fin 48) (senseMin senseMax : BitVec 32) (voutMin voutMax feedV :
    BitVec 16) (least most : Nat), s.zone.logicRuns = true ∧ s.zone.band (loadFeed ch.val) = 0 ∧ s.zone.phaseJudged ch.val = true
    ∧ s.zone.magnitudes ch.val senseMin senseMax = (least, most) ∧ ((s.zone.outputs ch.val).1 || (s.zone.outputs ch.val).2) = true
    ∧ 2 * voutMax.toInt < feedV.toInt ∧ voutMin.toInt ≤ voutMax.toInt :=
  ⟨(on wSvc fun z => (z.setFld (pLOAD 47) LOAD.CH_STATUS_STATE 2).setLoad 47 { LoadSt.init with applied := 1 }), 47, 0, 500, 2999,
    2999, 6000, 0, 500, by decide +kernel⟩

theorem wit_loadDiagnosesAndOperations_9 : ∃ (s : State) (ch : Fin 48) (senseMin senseMax : BitVec 32) (voutMin voutMax feedV :
    BitVec 16) (least most : Nat), s.zone.logicRuns = true ∧ s.zone.band (loadFeed ch.val) = 0 ∧ s.zone.phaseJudged ch.val = true
    ∧ s.zone.magnitudes ch.val senseMin senseMax = (least, most) ∧ least ≤ most ∧ voutMin.toInt ≤ voutMax.toInt ∧ (if
    ((s.zone.outputs ch.val).1 || (s.zone.outputs ch.val).2) then feedV.toInt ≤ 2 * voutMin.toInt else most ≤ 500 ∧ 2 *
    voutMax.toInt ≤ feedV.toInt) :=
  ⟨wSvc, 47, 0, 500, 2999, 2999, 6000, 0, 500, by decide +kernel⟩

theorem wit_loadDiagnosesAndOperations_10 : ∃ (s : State) (ch : Fin 48) (senseMin senseMax : BitVec 32) (voutMin voutMax feedV :
    BitVec 16), (s.zone.band (loadFeed ch.val) ≠ 0 ∨ s.zone.phaseJudged ch.val = false) :=
  ⟨(on wSvc fun z => z.setFld (pZONE 3) ZONE3.SUPPLY_STATUS_BAND_A 1), 47, 501, 501, 0, 0, 6000, by decide +kernel⟩

theorem wit_loadDiagnosesAndOperations_11 : ∃ (s : State) (ch : Fin 48) (k : Keeper) (n : Fin 128) (m : Nat), s.zone.logicRuns =
    true ∧ (s.zone.load (s.zone.machine ch.val)).forced = false ∧ (s.zone.load ch.val).silent = false ∧ m = s.zone.machine ch.val
    ∧ s.zone.lstate m ≠ 6 :=
  ⟨(on wTicket fun z => z.setFld (pLOAD 47) LOAD.CH_STATUS_BUDGET 0), 47, .A, 127, 47, by decide +kernel⟩

theorem wit_loadDiagnosesAndOperations_12 : ∃ (s : State) (ch : Fin 48) (k : Keeper) (n : Fin 128) (m : Nat), s.zone.logicRuns =
    true ∧ (s.zone.load (s.zone.machine ch.val)).forced = false ∧ (s.zone.load ch.val).silent = false ∧ m = s.zone.machine ch.val
    ∧ s.zone.lstate m = 6 :=
  ⟨(on wTicket fun z => z.setFld (pLOAD 47) LOAD.CH_STATUS_STATE 6), 47, .A, 127, 47, by decide +kernel⟩

theorem wit_loadDiagnosesAndOperations_13 : ∃ (s : State) (ch : Fin 48) (k : Keeper) (n : Fin 128), s.zone.logicRuns = true ∧
    (s.zone.load (s.zone.machine ch.val)).forced = true :=
  ⟨(on wTicket fun z => z.setLoad 47 { LoadSt.init with forced := true }), 47, .A, 127, by decide +kernel⟩

theorem wit_loadDiagnosesAndOperations_14 : ∃ (s : State) (ch : Fin 48) (k : Keeper) (n : Fin 128) (vout feedV : BitVec 16),
    s.zone.logicRuns = true ∧ (s.zone.load (s.zone.machine ch.val)).forced = false ∧ (s.zone.load ch.val).silent = false ∧
    (s.zone.load ch.val).offDiag = none ∧ s.zone.lstate (s.zone.machine ch.val) = 0 ∧ s.zone.effReq (s.zone.machine ch.val) = 0 :=
  ⟨wTicket, 47, .A, 127, 3001, 6000, by decide +kernel⟩

theorem wit_loadDiagnosesAndOperations_15 : ∃ (s : State) (ch : Fin 48) (k : Keeper) (n : Fin 128) (vout feedV : BitVec 16),
    s.zone.logicRuns = true ∧ (s.zone.load (s.zone.machine ch.val)).forced = false ∧ (s.zone.load ch.val).silent = false ∧
    ((s.zone.load ch.val).offDiag ≠ none ∨ s.zone.lstate (s.zone.machine ch.val) ≠ 0 ∨ s.zone.effReq (s.zone.machine ch.val) ≠ 0) :=
  ⟨(on wTicket fun z => z.setFld (pLOAD 47) LOAD.CH_STATUS_STATE 2), 47, .A, 127, 3001, 6000, by decide +kernel⟩

theorem wit_loadDiagnosesAndOperations_16 : ∃ (s : State) (ch : Fin 48) (k : Keeper) (n : Fin 128) (vout feedV : BitVec 16),
    s.zone.logicRuns = true ∧ (s.zone.load (s.zone.machine ch.val)).forced = true :=
  ⟨(on wTicket fun z => z.setLoad 47 { LoadSt.init with forced := true }), 47, .A, 127, 0, 0, by decide +kernel⟩

theorem wit_loadDiagnosesAndOperations_17 : ∃ (s : State) (ch : Fin 48) (mv : Nat) (d : OffDiag), s.zone.logicRuns = true ∧
    (s.zone.load ch.val).offDiag = some d ∧ d.due ≤ s.zone.mono :=
  ⟨(on wTicket fun z => z.setLoad 47 { LoadSt.init with offDiag := some ⟨⟨.A,127,1⟩, false, 9⟩ }), 47, 3500, ⟨⟨.A,127,1⟩,false,9⟩,
    by decide +kernel⟩

theorem wit_loadDiagnosesAndOperations_18 : ∃ (s : State) (ch : Fin 48) (mv : Nat), (∀ d ∈ (s.zone.load ch.val).offDiag,
    s.zone.mono < d.due) :=
  ⟨wSvc, 47, 0, by decide +kernel⟩

theorem wit_loadDiagnosesAndOperations_19 : ∃ (s : State) (ch : Fin 48) (k : Keeper) (n : Fin 128), s.zone.logicRuns = true ∧
    (s.zone.load (s.zone.machine ch.val)).forced = false ∧ (s.zone.load ch.val).silent = false :=
  ⟨(on wTicket fun z => z.wr (pLOAD 47 + 0xC) 0x80000000), 47, .A, 127, by decide +kernel⟩

theorem wit_loadDiagnosesAndOperations_20 : ∃ (s : State) (ch : Fin 48) (k : Keeper) (n : Fin 128), s.zone.logicRuns = true ∧
    s.zone.machine ch.val = ch.val ∧ (s.zone.load ch.val).forced = false ∧ (s.zone.load ch.val).silent = true ∧ (s.zone.load
    ch.val).demanded = false ∧ (s.zone.load ch.val).owed = false :=
  ⟨(on wTicket fun z => (z.setFld (pLOAD 47) LOAD.CH_STATUS_SAFE_ACTIVE 1).setLoad 47 { LoadSt.init with silent := true }), 47,
    .A, 127, by decide +kernel⟩

theorem wit_loadDiagnosesAndOperations_21 : ∃ (s : State) (ch : Fin 48) (k : Keeper) (n : Fin 128), s.zone.logicRuns = true ∧
    (s.zone.load (s.zone.machine ch.val)).forced = true :=
  ⟨(on wTicket fun z => z.setLoad 47 { LoadSt.init with forced := true }), 47, .A, 127, by decide +kernel⟩

theorem wit_legSwitchesAreNeverClosedTogether_2 : ∃ (z : Zone) (n : Nat), ((z.load n).hi && (z.load n).lo) = false :=
  ⟨State.reset.zone, 47, by decide⟩

theorem wit_legSwitchesAreNeverClosedTogether_3 : ∃ (z : Zone) (n : Nat), 40 ≤ n ∧ (z.load n).hi = false ∧
    ((z.settleSwitch n).load n).hi = true :=
  ⟨(on wSvc fun z => (z.setFld (pLOAD 47) LOAD.CH_STATUS_STATE 2).setLoad 47 { LoadSt.init with applied := 1 }).zone, 47, by decide⟩

theorem wit_legSwitchesAreNeverClosedTogether_4 : ∃ (z : Zone) (n : Nat), 40 ≤ n ∧ (z.load n).lo = false ∧
    ((z.settleSwitch n).load n).lo = true :=
  ⟨(on wSvc fun z => (z.setFld (pLOAD 47) LOAD.CH_STATUS_STATE 2).setLoad 47 { LoadSt.init with applied := 2 }).zone, 47, by decide⟩


/-! ### Pulse generators -/

theorem wit_generatorsTakeStagedSetsAtBoundaries_1 : ∃ (s : State) (g : Fin 16) (word : Fin 5) (v : Word), s.zone.logicRuns = true
    ∧ ((word.val = 0 ∧ (v &&& 3#32).toNat = 3) ∨ (word.val = 1 ∧ ((v &&& 0x1FFFFF#32).toNat < 4000 ∨ 2000000 < (v &&&
    0x1FFFFF#32).toNat)) ∨ (word.val = 4 ∧ (v &&& 0xFFF#32).toNat = 0)) :=
  ⟨wSvc, 15, 1, 2000001, by decide +kernel⟩

theorem wit_generatorsTakeStagedSetsAtBoundaries_2 : ∃ (s : State) (g : Fin 16) (word : Fin 5) (v : Word), s.zone.logicRuns = true
    ∧ (word.val ≠ 0 ∨ (v &&& 3#32).toNat ≠ 3) ∧ (word.val ≠ 1 ∨ (4000 ≤ (v &&& 0x1FFFFF#32).toNat ∧ (v &&& 0x1FFFFF#32).toNat ≤
    2000000)) ∧ (word.val ≠ 4 ∨ (v &&& 0xFFF#32).toNat ≠ 0) ∧ ((s.zone.gen g.val).cur.mode ≠ 0 ∨ s.zone.flag (pCHAR g.val)
    CHAR.STAGE_HOLD = true ∨ s.zone.flag (pCHAR g.val) CHAR.GEN_STATUS_STOPPED = true) :=
  ⟨(on wSvc fun z => z.setFld (pCHAR 15) CHAR.STAGE_HOLD 1), 15, 1, 2000000, by decide +kernel⟩

theorem wit_generatorsTakeStagedSetsAtBoundaries_3 : ∃ (s : State) (g : Fin 16) (word : Fin 5) (v : Word), s.zone.logicRuns = true
    ∧ (word.val ≠ 0 ∨ (v &&& 3#32).toNat ≠ 3) ∧ (word.val ≠ 1 ∨ (4000 ≤ (v &&& 0x1FFFFF#32).toNat ∧ (v &&& 0x1FFFFF#32).toNat ≤
    2000000)) ∧ (word.val ≠ 4 ∨ (v &&& 0xFFF#32).toNat ≠ 0) ∧ (s.zone.gen g.val).cur.mode = 0 ∧ s.zone.flag (pCHAR g.val)
    CHAR.STAGE_HOLD = false ∧ s.zone.flag (pCHAR g.val) CHAR.GEN_STATUS_STOPPED = false :=
  ⟨wSvc, 15, 0, 5, by decide +kernel⟩

theorem wit_generatorsTakeStagedSetsAtBoundaries_4 : ∃ (s : State) (g : Fin 16) (hold : Bool), s.zone.logicRuns = true ∧
    ((s.zone.gen g.val).cur.mode ≠ 0 ∨ s.zone.flag (pCHAR g.val) CHAR.GEN_STATUS_STAGED = false ∨ hold = true ∨ s.zone.flag (pCHAR
    g.val) CHAR.GEN_STATUS_STOPPED = true) :=
  ⟨wSvc, 15, true, by decide +kernel⟩

theorem wit_generatorsTakeStagedSetsAtBoundaries_5 : ∃ (s : State) (g : Fin 16), s.zone.logicRuns = true ∧ (s.zone.gen
    g.val).cur.mode = 0 ∧ s.zone.flag (pCHAR g.val) CHAR.GEN_STATUS_STAGED = true ∧ s.zone.flag (pCHAR g.val)
    CHAR.GEN_STATUS_STOPPED = false :=
  ⟨(on wSvc fun z => (z.setFld (pCHAR 15) CHAR.STAGE_HOLD 1).setFld (pCHAR 15) CHAR.GEN_STATUS_STAGED 1), 15, by decide +kernel⟩

theorem wit_generatorsTakeStagedSetsAtBoundaries_6 : ∃ (s : State) (g : Fin 16), s.zone.logicRuns = true ∧ ((s.zone.gen
    g.val).cur.mode = 0 ∨ s.zone.flag (pCHAR g.val) CHAR.GEN_STATUS_STOPPED = true ∨ s.zone.nowNs < (s.zone.gen g.val).next) :=
  ⟨wSvc, 15, by decide +kernel⟩

theorem wit_generatorsTakeStagedSetsAtBoundaries_7 : ∃ (s : State) (g : Fin 16) (d e : Nat), s.zone.logicRuns = true ∧ (s.zone.gen
    g.val).cur.mode ≠ 0 ∧ (s.zone.gen g.val).next ≤ s.zone.nowNs ∧ s.zone.flag (pCHAR g.val) CHAR.GEN_STATUS_STOPPED = false ∧
    (s.zone.flag (pCHAR g.val) CHAR.GEN_STATUS_STAGED = false ∨ s.zone.flag (pCHAR g.val) CHAR.STAGE_HOLD = true) ∧ e = s.zone.fld
    (pCHAR g.val) CHAR.GEN_STATUS_DUTY_NOW ∧ d = (if (s.zone.gen g.val).cur.mode ≠ 1 then e else if (s.zone.gen g.val).fade = 0
    then (s.zone.gen g.val).duty else if e ≤ (s.zone.gen g.val).duty then min (e + (s.zone.gen g.val).fade) (s.zone.gen
    g.val).duty else max (e - (s.zone.gen g.val).fade) (s.zone.gen g.val).duty) :=
  ⟨(on wSvc fun z => z.setGen 15 { GenSt.init with cur := ⟨1, 1000000, 0, 1, 1000000⟩, duty := 65535, fade := 65534 }), 15, 65534,
    0, by decide +kernel⟩

theorem wit_generatorsTakeStagedSetsAtBoundaries_8 : ∃ (s : State) (g : Fin 16) (d b : Nat), s.zone.logicRuns = true ∧ (s.zone.gen
    g.val).cur.mode ≠ 0 ∧ (s.zone.gen g.val).next ≤ s.zone.nowNs ∧ s.zone.flag (pCHAR g.val) CHAR.GEN_STATUS_STOPPED = false ∧
    s.zone.flag (pCHAR g.val) CHAR.GEN_STATUS_STAGED = true ∧ s.zone.flag (pCHAR g.val) CHAR.STAGE_HOLD = false ∧ d = s.zone.fld
    (pCHAR g.val) CHAR.GEN_STATUS_DUTY_NOW ∧ b = s.zone.nowNs / (s.zone.gen g.val).cur.periodNs * (s.zone.gen g.val).cur.periodNs :=
  ⟨(on wSvc fun z => ((z.setFld (pCHAR 15) CHAR.GEN_CTRL_MODE 2).setFld (pCHAR 15) CHAR.GEN_STATUS_STAGED 1).setGen 15
    { GenSt.init with cur := ⟨1, 1000000, 0, 1, 1000000⟩ }), 15, 0, 0, by decide +kernel⟩

theorem wit_generatorsTakeStagedSetsAtBoundaries_9 : ∃ (s : State) (g : Fin 16), s.zone.logicRuns = true :=
  ⟨(on wSvc fun z => (((z.setFld (pLOAD 39) LOAD.CH_STATUS_STATE 2).setFld (pLOAD 39) LOAD.CH_CTRL_REQ 2).setLoad 39
    { LoadSt.init with applied := 2, gen := 15 }).setGen 15 { GenSt.init with cur := ⟨1, 1000000, 1000000, 1, 1000000⟩ }), 15, by
    decide +kernel⟩


/-! ### Calibration -/

theorem wit_calibrationLearnsAndFreezes_1 : ∃ (s : State) (ch : Fin 48) (r0 r1 s0 s1 e0 e1 : Int) (settled alone : Bool),
    s.zone.logicRuns = true ∧ (settled = false ∨ (s.zone.flag pSHUNT (byFeed (loadFeed ch.val) SHUNT.SHUNT_STATUS_SAT_A
    SHUNT.SHUNT_STATUS_SAT_B)) = true ∨ (s.zone.load ch.val).lo = true ∨ (s.zone.mode ≠ Mode.service ∧ s.zone.mode ≠
    Mode.lightship) ∨ s.zone.flag (pCAL ch.val) CAL.CAL_CTRL_ENABLE = false ∨ s.zone.flag (pCAL ch.val) CAL.CAL_STATUS_FROZEN =
    true ∨ s.zone.band (loadFeed ch.val) ≠ 0 ∨ s.zone.flag (pZONE 3) ZONE3.SUPPLY_STATUS_CRANK_HOLD = true ∨ (s.zone.lstate ch.val
    ≠ 0 ∧ s.zone.lstate ch.val ≠ 2)) :=
  ⟨wSvc, 47, 0, 0, 0, 0, 0, 0, false, true, by decide +kernel⟩

theorem wit_calibrationLearnsAndFreezes_2 : ∃ (s : State) (ch : Fin 48) (r0 r1 s0 s1 e0 e1 : Int) (alone : Bool) (t : Nat),
    s.zone.logicRuns = true ∧ s.zone.calState ch.val true = true ∧ (s.zone.load ch.val).edges.head? = some (t, true) ∧ t +
    s.zone.edgeTicks ch.val + 600 ≤ s.zone.mono ∧ (alone = false ∨ (∃ j : Fin 48, j ≠ ch ∧ loadFeed j.val = loadFeed ch.val ∧ ∃ e
    ∈ (s.zone.load j.val).edges, (t ≤ e.1 + 1000 ∧ e.1 ≤ t + s.zone.edgeTicks ch.val + 1000) ∨ (t ≤ e.1 + s.zone.edgeTicks j.val +
    1000 ∧ e.1 + s.zone.edgeTicks j.val ≤ t + s.zone.edgeTicks ch.val + 1000)) ∨ (∃ j : Fin 48, loadFeed j.val = loadFeed ch.val ∧
    (s.zone.load j.val).firedAt.any (fun u => decide (t ≤ u + 1000 ∧ u ≤ t + s.zone.edgeTicks ch.val + 1000)) = true) ∨ ∃ e ∈
    s.zone.sags (loadFeed ch.val), t ≤ e.at_ + 1000 ∧ e.at_ ≤ t + s.zone.edgeTicks ch.val + 1000) :=
  ⟨(on wSvc fun z => (z.setFld (pCAL 39) CAL.CAL_CTRL_ENABLE 1).setLoad 39 { LoadSt.init with edges := [(9999000000, true)] }),
    39, 0, 100, 0, 125, 0, 0, false, 9999000000, by decide +kernel⟩

theorem wit_calibrationLearnsAndFreezes_3 : ∃ (s : State) (ch : Fin 48) (r0 r1 s0 s1 e0 e1 x y : Int), s.zone.logicRuns = true ∧
    s.zone.calState ch.val true = true ∧ s.zone.calAlone ch.val = true ∧ x = r1 - r0 ∧ y = (s1 - s0) - (e1 - e0) ∧ (x.natAbs <
    (loadClass ch.val).calBounds.1 ∨ x.natAbs / 4 < (y - x).natAbs) :=
  ⟨(on wSvc fun z => z.setFld (pCAL 39) CAL.CAL_CTRL_ENABLE 1), 39, 0, 100, 0, 126, 0, 0, 100, 126, by decide +kernel⟩

theorem wit_calibrationLearnsAndFreezes_4 : ∃ (s : State) (ch : Fin 48) (r0 r1 s0 s1 e0 e1 x y w : Int), s.zone.logicRuns = true ∧
    s.zone.calState ch.val true = true ∧ s.zone.calAlone ch.val = true ∧ x = r1 - r0 ∧ y = (s1 - s0) - (e1 - e0) ∧ (loadClass
    ch.val).calBounds.1 ≤ x.natAbs ∧ (y - x).natAbs ≤ x.natAbs / 4 ∧ w = (if ch.val < 40 then (if r0 < r1 then r0 else r1) else
    (if r0.natAbs < r1.natAbs then r0 else r1)) ∧ s.zone.fld (pCAL ch.val) CAL.CAL_STATUS_EDGES < 255 :=
  ⟨(on wSvc fun z => (z.setFld (pCAL 47) CAL.CAL_CTRL_ENABLE 1).setFld (pLOAD 47) LOAD.CH_STATUS_STATE 2), 47, 0, -5000, 0, -6250,
    0, 0, -5000, -6250, 0, by decide +kernel⟩

theorem wit_calibrationLearnsAndFreezes_5 : ∃ (s : State) (ch : Fin 48) (r0 r1 s0 s1 e0 e1 x y w : Int), s.zone.logicRuns = true ∧
    s.zone.calState ch.val true = true ∧ s.zone.calAlone ch.val = true ∧ x = r1 - r0 ∧ y = (s1 - s0) - (e1 - e0) ∧ (loadClass
    ch.val).calBounds.1 ≤ x.natAbs ∧ (y - x).natAbs ≤ x.natAbs / 4 ∧ w = (if ch.val < 40 then (if r0 < r1 then r0 else r1) else
    (if r0.natAbs < r1.natAbs then r0 else r1)) ∧ s.zone.fld (pCAL ch.val) CAL.CAL_STATUS_EDGES = 255 :=
  ⟨(on wSvc fun z => (z.setFld (pCAL 39) CAL.CAL_CTRL_ENABLE 1).setFld (pCAL 39) CAL.CAL_STATUS_EDGES 255), 39, 0, 100, 0, 125, 0,
    0, 100, 125, 0, by decide +kernel⟩

theorem wit_calibrationLearnsAndFreezes_6 : ∃ (s : State) (ch : Fin 48) (sxx b dg dq : Nat) (sxy sz g o : Int), sxx ≠ 0 ∧ g = (sxy
    * 65536).tdiv sxx ∧ o = - (g * sz).tdiv 16777216 ∧ dg = (g - s.zone.fld (pCAL ch.val) CAL.GAIN_G).natAbs ∧ dq = (o -
    s.zone.fldS (pCAL ch.val) CAL.OFFSET_O).natAbs ∧ dg ≤ 1310 ∧ (g - 65536).natAbs ≤ 5242 ∧ dq ≤ (loadClass ch.val).calBounds.2.1
    ∧ o.natAbs ≤ (loadClass ch.val).calBounds.2.2.1 ∧ b = (s.zone.mono + 2499) / 2500 * 2500 :=
  ⟨(on wSvc fun z => z.setFld (pCAL 39) CAL.CAL_CTRL_ENABLE 1), 39, 1000000, 10000000000, 6, 0, 1000100, -10, 65542, 0, by
    decide +kernel⟩

theorem wit_calibrationLearnsAndFreezes_7 : ∃ (s : State) (ch : Fin 48) (sxx dg dq k : Nat) (sxy sz g o : Int), sxx ≠ 0 ∧ g = (sxy
    * 65536).tdiv sxx ∧ o = - (g * sz).tdiv 16777216 ∧ dg = (g - s.zone.fld (pCAL ch.val) CAL.GAIN_G).natAbs ∧ dq = (o -
    s.zone.fldS (pCAL ch.val) CAL.OFFSET_O).natAbs ∧ k = (if 1310 < dg then 1 else if 5242 < (g - 65536).natAbs then 2 else if
    (loadClass ch.val).calBounds.2.1 < dq then 3 else if (loadClass ch.val).calBounds.2.2.1 < o.natAbs then 4 else 0) ∧ k ≠ 0 :=
  ⟨wSvc, 47, 1000000, 6553, 0, 1, 1100000, -10, 72089, 0, by decide +kernel⟩

theorem wit_calibrationLearnsAndFreezes_8 : ∃ (s : State), (s.zone.mono % 2500 ≠ 0 ∨ ∀ j : Fin 48, (s.zone.cal j.val).due = none) :=
  ⟨wSvc, by decide +kernel⟩

theorem wit_calibrationLearnsAndFreezes_9 : ∃ (s : State) (ch : Fin 48) (sxx : Nat) (sxy sz : Int), s.zone.mono % 2500 = 0 ∧ (∀ j
    : Fin 48, j ≠ ch → (s.zone.cal j.val).due = none) ∧ (s.zone.cal ch.val).due = some (sxx, sxy, sz) :=
  ⟨(on wSvc fun z => { z.setCal 47 { CalSt.init with due := some (1, 1, 1) } with mono := 2500 }), 47, 1, 1, 1, by decide +kernel⟩

theorem wit_calibrationLearnsAndFreezes_10 : ∃ (s : State) (ch : Fin 48), s.zone.logicRuns = true ∧ s.zone.flag (pCAL ch.val)
    CAL.CAL_STATUS_CONVERGED = true ∧ (s.zone.cal ch.val).lastBlock + 225000000000 ≤ s.zone.mono :=
  ⟨(on wSvc fun z => { z.setFld (pCAL 47) CAL.CAL_STATUS_CONVERGED 1 with mono := 225000000000 }), 47, by decide +kernel⟩

theorem wit_calibrationLearnsAndFreezes_11 : ∃ (s : State) (ch : Fin 48), s.zone.logicRuns = true ∧ (s.zone.flag (pCAL ch.val)
    CAL.CAL_STATUS_CONVERGED = false ∨ s.zone.mono < (s.zone.cal ch.val).lastBlock + 225000000000) :=
  ⟨wSvc, 47, by decide +kernel⟩

theorem wit_calibrationLearnsAndFreezes_12 : ∃ (s : State) (writer : Writer) (ch : Fin 48), s.zone.writerActs writer = true ∧
    s.zone.mayConfigure writer = true :=
  ⟨wSvc, (.firmware secureSrc), 47, by decide +kernel⟩

theorem wit_calibrationLearnsAndFreezes_13 : ∃ (s : State) (writer : Writer) (ch : Fin 48), s.zone.mayConfigure writer = false :=
  ⟨wSvc, (.keeper .B), 47, by decide +kernel⟩

theorem wit_calibrationLearnsAndFreezes_14 : ∃ (s : State), s.zone.logicRuns = true ∧ s.zone.bal.changed = true ∧
    s.zone.bal.written + 15000000000 ≤ s.zone.mono :=
  ⟨(on wSvc fun z => { z with bal := { z.bal with changed := true }, mono := 15000000000 }), by decide +kernel⟩

theorem wit_calibrationLearnsAndFreezes_15 : ∃ (s : State), s.zone.logicRuns = true ∧ (s.zone.bal.changed = false ∨ s.zone.mono <
    s.zone.bal.written + 15000000000) :=
  ⟨wSvc, by decide +kernel⟩

theorem wit_balanceAndRingAreJudged_1 : ∃ (s : State) (a b ea eb : Int) (sa sb : Bool) (legs : List LegShare), s.zone.logicRuns =
    true ∧ s.zone.paceDue Pace.balance 2500 = false :=
  ⟨(on wSvc fun z => { z with pace := [(Pace.balance, 9999999999)] }), 15001, 0, 0, 0, false, false, [], by decide +kernel⟩

theorem wit_balanceAndRingAreJudged_2 : ∃ (s : State) (f : Feed) (a b ea eb : Int) (sa sb sat susp : Bool) (legs : List LegShare)
    (i e r : Int) (run : Nat) (calm : Option Nat), s.zone.logicRuns = true ∧ s.zone.paceDue Pace.balance 2500 = true ∧ i =
    (match f with | .A => a | .B => b) ∧ e = (match f with | .A => ea | .B => eb) ∧ sat = (match f with | .A => sa | .B => sb) ∧ r
    = (feedChannels f).foldl (fun r c => r - if c < 40 then s.zone.fldS (pLOAD c) LOAD.CUR_CURRENT else if (nthD legs (c - 40) ⟨0,
    0⟩).closed = 0 then 0 else ((nthD legs (c - 40) ⟨0, 0⟩).raw * ((s.zone.calInForce c s.zone.mono).1 : Int)).tdiv 65536 +
    ((s.zone.calInForce c s.zone.mono).2 * (min 50 (nthD legs (c - 40) ⟨0, 0⟩).closed : Nat)).tdiv 50) (i - e) ∧ susp = (sat ||
    decide (s.zone.mode ≠ Mode.service ∧ s.zone.mode ≠ Mode.lightship) || decide (s.zone.band f ≠ 0) || (s.zone.bandAt f).any (fun
    t => decide (s.zone.mono < t + 2500000)) || s.zone.flag (pZONE 3) ZONE3.SUPPLY_STATUS_CRANK_HOLD) ∧ run = (if susp = false ∧
    15000 < r.natAbs then min 1001 (s.zone.balRun f + 1) else 0) ∧ calm = (if r.natAbs ≤ 10000 ∧ sat = false then some
    ((s.zone.balCalm f).getD s.zone.mono) else none) :=
  ⟨(on wSvc fun z => { z with bal := { z.bal with runB := 999 } }), .B, 0, 15001, 0, 0, false, false, false, false, [], 15001, 0,
    15001, 1000, none, by decide +kernel⟩

theorem wit_balanceAndRingAreJudged_3 : ∃ (s : State), s.zone.logicRuns = true ∧ s.zone.time.net.sec.toNat ≤
    s.zone.time.ringSecond :=
  ⟨wSvc, by decide +kernel⟩

theorem wit_balanceAndRingAreJudged_4 : ∃ (s : State), s.zone.logicRuns = true ∧ s.zone.time.ringSecond <
    s.zone.time.net.sec.toNat ∧ (s.zone.ringRuns = false ∨ s.zone.flag pRING RING.RING_STATUS_FROZEN = true ∨
    s.zone.time.ringBroken = true ∨ s.zone.ringPortsUp = false ∨ s.zone.time.ringCount < 8 ∨ s.zone.fld pTIME
    TIME0.TIME_STATUS_STATE = 3) :=
  ⟨(on wSvc fun z => { z with time := { z.time with net := ⟨9, 0, 0⟩ } }), by decide +kernel⟩

theorem wit_balanceAndRingAreJudged_5 : ∃ (s : State) (d step k : Int), s.zone.logicRuns = true ∧ s.zone.time.ringSecond <
    s.zone.time.net.sec.toNat ∧ s.zone.ringRuns = true ∧ s.zone.flag pRING RING.RING_STATUS_FROZEN = false ∧
    s.zone.time.ringBroken = false ∧ s.zone.ringPortsUp = true ∧ 8 ≤ s.zone.time.ringCount ∧ s.zone.fld pTIME
    TIME0.TIME_STATUS_STATE ≠ 3 ∧ d = s.zone.time.ringSum.tdiv s.zone.time.ringCount ∧ step = max (-1024) (min 1024 (d.tdiv (2 *
    s.zone.fld pRING RING.RING_CTRL_LINKS))) ∧ k = s.zone.fldS pRING RING.SHARE_S + step ∧ k.natAbs ≤ 64000 :=
  ⟨(on wSvc fun z =>
    { ((((z.setFld pRING RING.RING_CTRL_ENABLE 1).setFld pRING RING.RING_CTRL_LINKS 3).setFld pRING RING.RING_CTRL_EAST 1).setFld (pPORT 0) PORT.PHY_STATUS_LINK 1).setFld (pPORT 1) PORT.PHY_STATUS_LINK 1 with time := { z.time with net := ⟨9, 0, 0⟩, ringSum := -80000, ringCount := 8 } }),
    -10000, -1024, -1024, by decide +kernel⟩

theorem wit_balanceAndRingAreJudged_6 : ∃ (s : State) (d step k : Int), s.zone.logicRuns = true ∧ s.zone.time.ringSecond <
    s.zone.time.net.sec.toNat ∧ s.zone.ringRuns = true ∧ s.zone.flag pRING RING.RING_STATUS_FROZEN = false ∧
    s.zone.time.ringBroken = false ∧ s.zone.ringPortsUp = true ∧ 8 ≤ s.zone.time.ringCount ∧ s.zone.fld pTIME
    TIME0.TIME_STATUS_STATE ≠ 3 ∧ d = s.zone.time.ringSum.tdiv s.zone.time.ringCount ∧ step = max (-1024) (min 1024 (d.tdiv (2 *
    s.zone.fld pRING RING.RING_CTRL_LINKS))) ∧ k = s.zone.fldS pRING RING.SHARE_S ∧ 64000 < (k + step).natAbs :=
  ⟨(on wSvc fun z =>
    { (((((z.setFld pRING RING.RING_CTRL_ENABLE 1).setFld pRING RING.RING_CTRL_LINKS 3).setFld pRING RING.RING_CTRL_EAST 1).setFld (pPORT 0) PORT.PHY_STATUS_LINK 1).setFld (pPORT 1) PORT.PHY_STATUS_LINK 1).setFldS pRING RING.SHARE_S (-64000) with time := { z.time with net := ⟨9, 0, 0⟩, ringSum := -80000, ringCount := 8 } }),
    -10000, -1024, -64000, by decide +kernel⟩

theorem wit_balanceAndRingAreJudged_7 : ∃ (s : State) (writer : Writer) (k : Int), s.zone.writerActs writer = true ∧
    s.zone.mayConfigure writer = true ∧ k = 0 :=
  ⟨wSvc, (.keeper .A), 0, by decide +kernel⟩

theorem wit_balanceAndRingAreJudged_8 : ∃ (s : State) (writer : Writer), s.zone.mayConfigure writer = false :=
  ⟨wSvc, (.keeper .B), by decide +kernel⟩


/-! ### Ethernet switch -/

/-- A state in which a frame from port 3 may be sent cut-through at port 23. -/
def wCut : State := on wSvc fun z =>
  let z := (((z.setFld (pSWP 3) SWP.PORT_CFG_ENABLE 1).setFld (pPORT 3) PORT.PHY_STATUS_LINK 1).setFld (pSWP 23) SWP.PORT_CFG_ENABLE 1).setFld
    (pSWP 23) SWP.PORT_STATE_LINK_STATE 0
  let z := (z.setFld pSW SW0.SW_STATUS_CUT_THROUGH 1).setFld (pSWP 23) (SWP.TC_CFG_SCHEDULED.nth 4 7) 1
  z.setEntry 64 (Zone.fdbBucket 1 0x010101010101 * 4) [0x01010101, 0x80010101, 0x00800000, 0xF000]
theorem wit_framesPassTheSwitch_12 : ∃ (s : State) (port e : Fin 28) (frame : List Byte) (ticks : Nat) (r : Route),
    s.zone.logicRuns = true ∧ s.zone.portUp port.val = true ∧ s.zone.macsecOn port.val = false ∧ s.zone.cutPorts port.val = [] ∧
    (s.zone.resolve port.val frame s.zone.stamp s.zone.time.residence none true).1 = some r ∧ (e.val ∈ r.ports ∧ r.ports.Nodup) ∧
    s.zone.flag pSW SW0.SW_STATUS_CUT_THROUGH = true ∧ s.zone.scheduled e.val r.cls = true ∧
    s.zone.portRate e.val ≤ s.zone.portRate port.val ∧
    (s.zone.queueCopies e.val r.cls = [] ∧ s.zone.egress e.val = none ∧ s.zone.macsecOn e.val = false ∧ s.zone.linkState e.val = 0) ∧
    s.zone.eligible e.val r.cls (s.zone.frameTime e.val (r.sdu.getD 1522) false) (decide (e.val < 24)) = true :=
  ⟨wCut, 3, 23, List.replicate 60 1, 0, ⟨7, [23], ⟨List.replicate 60 1, wCut.zone.stamp, 0, 1, 0, false, 0, none, none, 0, none, false, false⟩,
    none⟩, by decide +kernel⟩

/-- A state in which port 28 holds a copy for port 29. -/
def wHead : State := on wSvc fun z => { z with switch := { z.switch with dirty := false, voqs := [(Zone.voqKey 28 29 7,
  [⟨List.replicate 60 1, ⟨0, 0, 0, 0⟩, 0, 1, 0, false, 0, none, none, 0, none, false, false⟩])] } }
theorem wit_framesPassTheSwitch_17 : ∃ (s : State) (plca : BitVec 4) (e i : Fin 32) (t : Fin 8) (c : Copy) (l : List Copy) (n : Nat),
    s.zone.logicRuns = true ∧ s.zone.switch.dirty = false ∧ s.zone.ageFetched plca = s.zone ∧ e ≠ 30 ∧
    (s.zone.egress e.val = none ∧ s.zone.conn e.val = none ∧ s.zone.linkState e.val = 0) ∧
    ((∀ a : Fin 32, a ≠ e → s.zone.xbarRequest plca a.val = none) ∨ (s.zone.flag pSW SW0.SW_STATUS_PLAN = false ∧
      e.val = s.zone.swActive.getD (s.zone.switch.ePtr % s.zone.swActive.length) 0)) ∧
    (∀ t' : Fin 8, t < t' → ∀ j ∈ s.zone.swActive, s.zone.readyHead plca j e.val t'.val = false) ∧
    (Zone.fromPtr ((s.zone.swActive.filter fun j => s.zone.readyHead plca j e.val t.val).filter s.zone.ingressFree)
      (SMap.get (fun _ => 0) (if s.zone.flag pSW SW0.SW_STATUS_PLAN then s.zone.switch.grantPtr else s.zone.switch.inPtr) e.val)).head? =
      some i.val ∧
    e.val ∈ s.zone.swActive ∧ s.zone.voq i.val e.val t.val = c :: l ∧ n = s.zone.fld pSW SW0.SW_STATUS_GRANT_CELLS :=
  ⟨wHead, 0, 29, 28, 7, ⟨List.replicate 60 1, ⟨0, 0, 0, 0⟩, 0, 1, 0, false, 0, none, none, 0, none, false, false⟩, [], 4,
    by decide +kernel⟩

theorem wit_framesPassTheSwitch_1 : ∃ (s : State) (port : Fin 28) (frame : List Byte) (rx : Reception) (ticks : Nat),
    (s.zone.logicRuns = false ∨ s.zone.portUp port.val = false) :=
  ⟨wSvc, 27, [1], (.ends true), 9, by decide +kernel⟩

theorem wit_framesPassTheSwitch_2 : ∃ (s : State) (port : Fin 28) (frame : List Byte) (ticks k : Nat) (ok : Bool),
    s.zone.logicRuns = true ∧ s.zone.portUp port.val = true ∧ k = (if ok = false then 2 else if s.zone.clearLen port.val frame <
    64 then 3 else 4) ∧ (ok = true → s.zone.clearLen port.val frame < 64 ∨ s.zone.fld (pSWP port.val) SWP.MAX_FRAME_BYTES <
    s.zone.clearLen port.val frame) :=
  ⟨(on wSvc fun z => z.setFld (pSWP 27) SWP.PORT_CFG_ENABLE 1), 27, [1], 9, 2, false, by decide +kernel⟩

theorem wit_framesPassTheSwitch_3 : ∃ (s : State) (port : Fin 28) (frame : List Byte) (ticks : Nat), s.zone.logicRuns = true ∧
    s.zone.portUp port.val = true ∧ s.zone.macsecOn port.val = true ∧ s.zone.secBypass port.val frame = false ∧ 64 ≤
    s.zone.clearLen port.val frame ∧ s.zone.clearLen port.val frame ≤ s.zone.fld (pSWP port.val) SWP.MAX_FRAME_BYTES ∧ s.zone.fld
    (pPORT port.val) PORT.MACSEC_CFG_VALIDATE = 2 ∧ (beAt frame 12 2 ≠ Frame.typeSec ∨ ∀ n : Fin 16, s.zone.secA port.val (4 +
    n.val) = none) :=
  ⟨(on wSvc fun z => (((z.setFld (pSWP 3) SWP.PORT_CFG_ENABLE 1).setFld (pPORT 3) PORT.PHY_STATUS_LINK 1).setFld (pPORT 3)
    PORT.MACSEC_CFG_EN 1).setFld (pPORT 3) PORT.MACSEC_CFG_VALIDATE 2), 3, (List.replicate 60 1), 9, by decide +kernel⟩

theorem wit_framesPassTheSwitch_4 : ∃ (s : State) (port : Fin 28) (frame : List Byte) (ticks : Nat), s.zone.logicRuns = true ∧
    s.zone.portUp port.val = true ∧ 60 ≤ frame.length ∧ frame.length + 4 ≤ s.zone.fld (pSWP port.val) SWP.MAX_FRAME_BYTES ∧
    s.zone.macsecOn port.val = false ∧ Zone.isGptp port.val frame = true :=
  ⟨(on wSvc fun z => (z.setFld (pSWP 3) SWP.PORT_CFG_ENABLE 1).setFld (pPORT 3) PORT.PHY_STATUS_LINK 1), 3, ([0x01, 0x80, 0xC2, 0,
    0, 0x0E, 1, 1, 1, 1, 1, 1, 0x88, 0xF7] ++ List.replicate 46 0), 9, by decide +kernel⟩

theorem wit_framesPassTheSwitch_5 : ∃ (s : State) (port : Fin 28) (frame : List Byte) (ticks : Nat), s.zone.logicRuns = true ∧
    s.zone.portUp port.val = true ∧ 60 ≤ frame.length ∧ frame.length + 4 ≤ s.zone.fld (pSWP port.val) SWP.MAX_FRAME_BYTES ∧
    s.zone.macsecOn port.val = false ∧ Zone.isGptp port.val frame = false ∧ s.zone.cutPorts port.val = [] ∧ ((s.zone.fld (pSWP
    port.val) SWP.PORT_CFG_ACCEPT = 1 ∧ (Frame.tags frame).vlan.all (fun c => decide (c % 4096 = 0)) = true) ∨ (s.zone.fld (pSWP
    port.val) SWP.PORT_CFG_ACCEPT = 2 ∧ (Frame.tags frame).vlan.any (fun c => decide (c % 4096 ≠ 0)) = true)) :=
  ⟨(on wSvc fun z => (z.setFld (pSWP 27) SWP.PORT_CFG_ENABLE 1).setFld (pSWP 27) SWP.PORT_CFG_ACCEPT 1), 27, (List.replicate 60
    1), 9, by decide +kernel⟩

theorem wit_framesPassTheSwitch_6 : ∃ (s : State) (port : Fin 28) (frame : List Byte) (ticks v : Nat), s.zone.logicRuns = true ∧
    s.zone.portUp port.val = true ∧ 60 ≤ frame.length ∧ frame.length + 4 ≤ s.zone.fld (pSWP port.val) SWP.MAX_FRAME_BYTES ∧
    s.zone.macsecOn port.val = false ∧ Zone.isGptp port.val frame = false ∧ s.zone.accepts port.val (Frame.tags frame).vlan = true
    ∧ s.zone.cutPorts port.val = [] ∧ (∀ m : Fin 4, (s.zone.tabWord 69 m.val 0).testBit 31 = false) ∧ v =
    (match (Frame.tags frame).vlan with | some c => if c % 4096 = 0 then s.zone.fld (pSWP port.val) SWP.PORT_CFG_PVID else c % 4096 | none => s.zone.fld (pSWP port.val) SWP.PORT_CFG_PVID)
    ∧ (((s.zone.fdbFind 1 v (Frame.src frame)).bind fun j => if (s.zone.tabWord 64 j 3).testBit 31 then some (s.zone.tabWord 64 j
    3 / 65536 % 4096) else none).or ((s.zone.fdbFind 0 v (Frame.dst frame)).bind fun j => if (s.zone.tabWord 64 j 3).testBit 31
    then some (s.zone.tabWord 64 j 3 / 65536 % 4096) else none)) = none ∧ (s.zone.fdbFind 0 v (Frame.dst frame)).all (fun k =>
    decide (s.zone.egressPorts port.val (s.zone.tabWord 64 k 2) = [])) = true :=
  ⟨(on wSvc fun z => z.setFld (pSWP 27) SWP.PORT_CFG_ENABLE 1), 27, (List.replicate 60 1), 9, 1, by decide +kernel⟩

theorem wit_framesPassTheSwitch_7 : ∃ (s : State) (port : Fin 28) (e : Fin 32) (frame : List Byte) (ticks v pcp k cls n : Nat) (c
    : Copy), s.zone.logicRuns = true ∧ s.zone.portUp port.val = true ∧ 60 ≤ frame.length ∧ frame.length + 4 ≤ s.zone.fld (pSWP
    port.val) SWP.MAX_FRAME_BYTES ∧ s.zone.macsecOn port.val = false ∧ Zone.isGptp port.val frame = false ∧ s.zone.accepts
    port.val (Frame.tags frame).vlan = true ∧ s.zone.cutPorts port.val = [] ∧ (∀ m : Fin 4, (s.zone.tabWord 69 m.val 0).testBit 31
    = false) ∧ v =
    (match (Frame.tags frame).vlan with | some c => if c % 4096 = 0 then s.zone.fld (pSWP port.val) SWP.PORT_CFG_PVID else c % 4096 | none => s.zone.fld (pSWP port.val) SWP.PORT_CFG_PVID)
    ∧ (((s.zone.fdbFind 1 v (Frame.src frame)).bind fun j => if (s.zone.tabWord 64 j 3).testBit 31 then some (s.zone.tabWord 64 j
    3 / 65536 % 4096) else none).or ((s.zone.fdbFind 0 v (Frame.dst frame)).bind fun j => if (s.zone.tabWord 64 j 3).testBit 31
    then some (s.zone.tabWord 64 j 3 / 65536 % 4096) else none)) = none ∧ s.zone.fdbFind 0 v (Frame.dst frame) = some k ∧ pcp =
    (match (Frame.tags frame).vlan with | some c => c / 8192 % 8 | none => s.zone.fld (pSWP port.val) SWP.PORT_CFG_DEFAULT_PCP) ∧
    c = ⟨frame, s.zone.stampBefore ticks, s.zone.time.residence - ticks, v, pcp, (Frame.tags frame).vlan.any (fun x => decide (x %
    4096 ≠ 0)), (if (Frame.tags frame).vlan.any (fun x => x.testBit 12) && s.zone.flag (pSWP port.val) SWP.PORT_CFG_COLOUR_AWARE
    then 1 else 0), none, none, s.zone.tabWord 64 k 3 % 1024, none, false, false⟩ ∧ cls = (if (s.zone.tabWord 64 k 3).testBit 15
    then s.zone.tabWord 64 k 3 / 4096 % 8 else s.zone.pcpClass port.val pcp) ∧ s.zone.egressPorts port.val (s.zone.tabWord 64 k 2)
    = [e.val] ∧ n = (frame.length + 4 + 63) / 64 :=
  ⟨(on wSvc fun z => (((z.setFld (pSWP 27) SWP.PORT_CFG_ENABLE 1).setFld (pSWP 26) SWP.PORT_CFG_ENABLE 1).setFld (pSWP 26)
    SWP.PORT_STATE_LINK_STATE 0).setEntry 64 (Zone.fdbBucket 1 0x010101010101 * 4) [0x01010101, 0x80010101, 0x04000000, 0xF000]),
    27, 26, (List.replicate 60 1), 9, 1, 0, (Zone.fdbBucket 1 0x010101010101 * 4), 7, 1, ⟨List.replicate 60 1, (on wSvc fun z =>
    (((z.setFld (pSWP 27) SWP.PORT_CFG_ENABLE 1).setFld (pSWP 26) SWP.PORT_CFG_ENABLE 1).setFld (pSWP 26)
    SWP.PORT_STATE_LINK_STATE 0).setEntry 64 (Zone.fdbBucket 1 0x010101010101 * 4) [0x01010101, 0x80010101, 0x04000000,
    0xF000]).zone.stampBefore 9, 0, 1, 0, false, 0, none, none, 0, none, false, false⟩, by decide +kernel⟩

theorem wit_framesPassTheSwitch_8 : ∃ (s : State) (port : Fin 28) (frame : List Byte) (ticks v pcp k cls n : Nat) (c : Copy),
    s.zone.logicRuns = true ∧ s.zone.portUp port.val = true ∧ 60 ≤ frame.length ∧ frame.length + 4 ≤ s.zone.fld (pSWP port.val)
    SWP.MAX_FRAME_BYTES ∧ s.zone.macsecOn port.val = false ∧ Zone.isGptp port.val frame = false ∧ s.zone.accepts port.val
    (Frame.tags frame).vlan = true ∧ s.zone.cutPorts port.val = [] ∧ (∀ m : Fin 4, (s.zone.tabWord 69 m.val 0).testBit 31 = false)
    ∧ v =
    (match (Frame.tags frame).vlan with | some c => if c % 4096 = 0 then s.zone.fld (pSWP port.val) SWP.PORT_CFG_PVID else c % 4096 | none => s.zone.fld (pSWP port.val) SWP.PORT_CFG_PVID)
    ∧ (((s.zone.fdbFind 1 v (Frame.src frame)).bind fun j => if (s.zone.tabWord 64 j 3).testBit 31 then some (s.zone.tabWord 64 j
    3 / 65536 % 4096) else none).or ((s.zone.fdbFind 0 v (Frame.dst frame)).bind fun j => if (s.zone.tabWord 64 j 3).testBit 31
    then some (s.zone.tabWord 64 j 3 / 65536 % 4096) else none)) = none ∧ s.zone.fdbFind 0 v (Frame.dst frame) = some k ∧ pcp =
    (match (Frame.tags frame).vlan with | some c => c / 8192 % 8 | none => s.zone.fld (pSWP port.val) SWP.PORT_CFG_DEFAULT_PCP) ∧
    c = ⟨frame, s.zone.stampBefore ticks, s.zone.time.residence - ticks, v, pcp, (Frame.tags frame).vlan.any (fun x => decide (x %
    4096 ≠ 0)), (if (Frame.tags frame).vlan.any (fun x => x.testBit 12) && s.zone.flag (pSWP port.val) SWP.PORT_CFG_COLOUR_AWARE
    then 1 else 0), none, none, s.zone.tabWord 64 k 3 % 1024, none, false, false⟩ ∧ cls = (if (s.zone.tabWord 64 k 3).testBit 15
    then s.zone.tabWord 64 k 3 / 4096 % 8 else s.zone.pcpClass port.val pcp) ∧ n = (frame.length + 4 + 63) / 64 ∧ (∀ e ∈
    s.zone.egressPorts port.val (s.zone.tabWord 64 k 2), s.zone.linkState e = 0 ∧ s.zone.flag (pSWP e) (SWP.TC_CFG_WRED_EN.nth 4
    cls) = false ∧ s.zone.occ e cls + n ≤ s.zone.guar e cls) :=
  ⟨(on wSvc fun z => ((((z.setFld (pSWP 27) SWP.PORT_CFG_ENABLE 1).setFld (pSWP 26) SWP.PORT_CFG_ENABLE 1).setFld (pSWP 26)
    SWP.PORT_STATE_LINK_STATE 0).setFld (pSWP 26) (SWP.TC_CFG_GUAR.nth 4 7) 9).setEntry 64 (Zone.fdbBucket 1 0x010101010101 * 4)
    [0x01010101, 0x80010101, 0x84000000, 0xF000]), 27, (List.replicate 60 1), 9, 1, 0, (Zone.fdbBucket 1 0x010101010101 * 4), 7,
    1, ⟨List.replicate 60 1, (on wSvc fun z => (((z.setFld (pSWP 27) SWP.PORT_CFG_ENABLE 1).setFld (pSWP 26) SWP.PORT_CFG_ENABLE
    1).setFld (pSWP 26) SWP.PORT_STATE_LINK_STATE 0).setEntry 64 (Zone.fdbBucket 1 0x010101010101 * 4) [0x01010101, 0x80010101,
    0x04000000, 0xF000]).zone.stampBefore 9, 0, 1, 0, false, 0, none, none, 0, none, false, false⟩, by decide +kernel⟩

theorem wit_framesPassTheSwitch_9 : ∃ (s : State) (port : Fin 28) (frame : List Byte) (ticks v n q : Nat), s.zone.logicRuns = true
    ∧ s.zone.portUp port.val = true ∧ 60 ≤ frame.length ∧ frame.length + 4 ≤ s.zone.fld (pSWP port.val) SWP.MAX_FRAME_BYTES ∧
    s.zone.macsecOn port.val = false ∧ Zone.isGptp port.val frame = false ∧ s.zone.accepts port.val (Frame.tags frame).vlan = true
    ∧ s.zone.cutPorts port.val = [] ∧ (∀ m : Fin 4, (s.zone.tabWord 69 m.val 0).testBit 31 = false) ∧ v =
    (match (Frame.tags frame).vlan with | some c => if c % 4096 = 0 then s.zone.fld (pSWP port.val) SWP.PORT_CFG_PVID else c % 4096 | none => s.zone.fld (pSWP port.val) SWP.PORT_CFG_PVID)
    ∧ (((s.zone.fdbFind 1 v (Frame.src frame)).bind fun j => if (s.zone.tabWord 64 j 3).testBit 31 then some (s.zone.tabWord 64 j
    3 / 65536 % 4096) else none).or ((s.zone.fdbFind 0 v (Frame.dst frame)).bind fun j => if (s.zone.tabWord 64 j 3).testBit 31
    then some (s.zone.tabWord 64 j 3 / 65536 % 4096) else none)) = some n ∧ (s.zone.tabWord 65 n 0).testBit 31 = true ∧ q =
    s.zone.tabWord 65 n 2 % 256 ∧ (s.zone.tabWord 65 n 2).testBit 15 = true ∧ port.val < 4 ∧ ((Frame.tags frame).rtag = none ∨
    ((s.zone.recov q).takeAny = false ∧ (Frame.tags frame).rtag = some (s.zone.recov q).seq ∧ (s.zone.recov q).seq < 65536 ∧ 1 ≤
    s.zone.tabWord 68 (256 + q) 0 / 256 % 64 ∧ ((s.zone.tabWord 68 (256 + q) 0).testBit 0 = true ∨ (s.zone.recov q).history.head?
    = some true))) :=
  ⟨(on wSvc fun z => (((z.setFld (pSWP 3) SWP.PORT_CFG_ENABLE 1).setFld (pPORT 3) PORT.PHY_STATUS_LINK 1).setEntry 64
    (Zone.fdbBucket 1 0x010101010101 * 4) [0x01010101, 0xC0010101, 0, 0x80000000]).setEntry 65 0 [0x80000000, 0, 0x8000]), 3,
    (List.replicate 60 1), 9, 1, 0, 0, by decide +kernel⟩

theorem wit_framesPassTheSwitch_10 : ∃ (s : State) (port : Fin 28) (frame : List Byte) (ticks v n g : Nat), s.zone.logicRuns =
    true ∧ s.zone.portUp port.val = true ∧ 60 ≤ frame.length ∧ frame.length + 4 ≤ s.zone.fld (pSWP port.val) SWP.MAX_FRAME_BYTES ∧
    s.zone.macsecOn port.val = false ∧ Zone.isGptp port.val frame = false ∧ s.zone.accepts port.val (Frame.tags frame).vlan = true
    ∧ s.zone.cutPorts port.val = [] ∧ (∀ m : Fin 4, (s.zone.tabWord 69 m.val 0).testBit 31 = false) ∧ v =
    (match (Frame.tags frame).vlan with | some c => if c % 4096 = 0 then s.zone.fld (pSWP port.val) SWP.PORT_CFG_PVID else c % 4096 | none => s.zone.fld (pSWP port.val) SWP.PORT_CFG_PVID)
    ∧ (((s.zone.fdbFind 1 v (Frame.src frame)).bind fun j => if (s.zone.tabWord 64 j 3).testBit 31 then some (s.zone.tabWord 64 j
    3 / 65536 % 4096) else none).or ((s.zone.fdbFind 0 v (Frame.dst frame)).bind fun j => if (s.zone.tabWord 64 j 3).testBit 31
    then some (s.zone.tabWord 64 j 3 / 65536 % 4096) else none)) = some n ∧ (s.zone.tabWord 65 n 0).testBit 31 = true ∧
    ((s.zone.tabWord 65 n 2).testBit 15 = false ∨ 4 ≤ port.val) ∧ g = s.zone.tabWord 65 n 1 / 65536 % 64 ∧ ((0 < s.zone.tabWord 65
    n 0 % 16384 ∧ s.zone.tabWord 65 n 0 % 16384 < frame.length + 4) ∨ ((s.zone.tabWord 65 n 1).testBit 31 = true ∧
    ((s.zone.sgateEval g).sgate g).shown.getLsbD 0 = false)) :=
  ⟨(on wSvc fun z => (((z.setFld (pSWP 3) SWP.PORT_CFG_ENABLE 1).setFld (pPORT 3) PORT.PHY_STATUS_LINK 1).setEntry 64
    (Zone.fdbBucket 1 0x010101010101 * 4) [0x01010101, 0xC0010101, 0, 0x80000000]).setEntry 65 0 [0x8000003F, 0, 0]), 3,
    (List.replicate 60 1), 9, 1, 0, 0, by decide +kernel⟩

theorem wit_framesPassTheSwitch_11 : ∃ (s : State) (port : Fin 28) (frame : List Byte) (ticks : Nat), s.zone.logicRuns = true ∧
    s.zone.portUp port.val = true ∧ (s.zone.macsecOn port.val = true ∨ s.zone.cutPorts port.val ≠ [] ∨ s.zone.flag pSW
    SW0.SW_STATUS_CUT_THROUGH = false) :=
  ⟨(on wSvc fun z => z.setFld (pSWP 27) SWP.PORT_CFG_ENABLE 1), 27, (List.replicate 60 1), 9, by decide +kernel⟩

theorem wit_framesPassTheSwitch_13 : ∃ (s : State) (port e : Fin 28) (frame : List Byte) (ticks v pcp k cls : Nat) (c : Copy) (x :
    EgressSt), s.zone.logicRuns = true ∧ s.zone.portUp port.val = true ∧ 60 ≤ frame.length ∧ frame.length + 4 ≤ s.zone.fld (pSWP
    port.val) SWP.MAX_FRAME_BYTES ∧ s.zone.macsecOn port.val = false ∧ Zone.isGptp port.val frame = false ∧ s.zone.accepts
    port.val (Frame.tags frame).vlan = true ∧ (∀ m : Fin 4, (s.zone.tabWord 69 m.val 0).testBit 31 = false) ∧ v =
    (match (Frame.tags frame).vlan with | some c => if c % 4096 = 0 then s.zone.fld (pSWP port.val) SWP.PORT_CFG_PVID else c % 4096 | none => s.zone.fld (pSWP port.val) SWP.PORT_CFG_PVID)
    ∧ (((s.zone.fdbFind 1 v (Frame.src frame)).bind fun j => if (s.zone.tabWord 64 j 3).testBit 31 then some (s.zone.tabWord 64 j
    3 / 65536 % 4096) else none).or ((s.zone.fdbFind 0 v (Frame.dst frame)).bind fun j => if (s.zone.tabWord 64 j 3).testBit 31
    then some (s.zone.tabWord 64 j 3 / 65536 % 4096) else none)) = none ∧ s.zone.fdbFind 0 v (Frame.dst frame) = some k ∧ pcp =
    (match (Frame.tags frame).vlan with | some c => c / 8192 % 8 | none => s.zone.fld (pSWP port.val) SWP.PORT_CFG_DEFAULT_PCP) ∧
    c = ⟨frame, s.zone.stampBefore ticks, s.zone.time.residence - ticks, v, pcp, (Frame.tags frame).vlan.any (fun x => decide (x %
    4096 ≠ 0)), (if (Frame.tags frame).vlan.any (fun x => x.testBit 12) && s.zone.flag (pSWP port.val) SWP.PORT_CFG_COLOUR_AWARE
    then 1 else 0), none, none, s.zone.tabWord 64 k 3 % 1024, none, false, false⟩ ∧ cls = (if (s.zone.tabWord 64 k 3).testBit 15
    then s.zone.tabWord 64 k 3 / 4096 % 8 else s.zone.pcpClass port.val pcp) ∧ s.zone.egressPorts port.val (s.zone.tabWord 64 k 2)
    = [e.val] ∧ s.zone.cutPorts port.val = [e.val] ∧ s.zone.egress e.val = some x :=
  ⟨(on wSvc fun z => ((((z.setFld (pSWP 27) SWP.PORT_CFG_ENABLE 1).setFld (pSWP 26) SWP.PORT_CFG_ENABLE 1).setFld (pSWP 26)
    SWP.PORT_STATE_LINK_STATE 0).setEntry 64 (Zone.fdbBucket 1 0x010101010101 * 4) [0x01010101, 0x80010101, 0x04000000,
    0xF000]).setEgress 26 (some ⟨27, 7, ⟨[1], ⟨0,0,0,0⟩, 0, 1, 0, false, 0, none, none, 0, none, false, false⟩, 1, some [], true,
    false⟩)), 27, 26, (List.replicate 60 1), 9, 1, 0, (Zone.fdbBucket 1 0x010101010101 * 4), 7, ⟨List.replicate 60 1, (on wSvc fun
    z => (((z.setFld (pSWP 27) SWP.PORT_CFG_ENABLE 1).setFld (pSWP 26) SWP.PORT_CFG_ENABLE 1).setFld (pSWP 26)
    SWP.PORT_STATE_LINK_STATE 0).setEntry 64 (Zone.fdbBucket 1 0x010101010101 * 4) [0x01010101, 0x80010101, 0x04000000,
    0xF000]).zone.stampBefore 9, 0, 1, 0, false, 0, none, none, 0, none, false, false⟩, ⟨27, 7, ⟨[1], ⟨0,0,0,0⟩, 0, 1, 0, false,
    0, none, none, 0, none, false, false⟩, 1, some [], true, false⟩, by decide +kernel⟩

theorem wit_framesPassTheSwitch_14 : ∃ (s : State) (i e : Fin 32) (t : Fin 8) (x : Copy) (r : List Copy), s.zone.logicRuns = true
    ∧ s.zone.voq i.val e.val t.val = x :: r ∧ x.waiting = true ∧ Zone.admits (s.zone.bufFree + x.cells) (s.zone.guar e.val t.val)
    (s.zone.fld (pSWP e.val) (SWP.TC_CFG_ALPHA.nth 4 t.val)) (s.zone.occ e.val t.val) x.cells = true :=
  ⟨(on wSvc fun z => z.setVoq 31 29 7 [⟨[1], ⟨0,0,0,0⟩, 0, 1, 0, false, 0, none, none, 0, none, false, true⟩]), 31, 29, 7, ⟨[1],
    ⟨0,0,0,0⟩, 0, 1, 0, false, 0, none, none, 0, none, false, true⟩, [], by decide +kernel⟩

theorem wit_framesPassTheSwitch_15 : ∃ (s : State) (i e : Fin 32) (t : Fin 8), (∀ x ∈ (s.zone.voq i.val e.val t.val).head?,
    x.waiting = false ∨ Zone.admits (s.zone.bufFree + x.cells) (s.zone.guar e.val t.val) (s.zone.fld (pSWP e.val)
    (SWP.TC_CFG_ALPHA.nth 4 t.val)) (s.zone.occ e.val t.val) x.cells = false) :=
  ⟨wSvc, 31, 29, 7, by decide +kernel⟩

theorem wit_framesPassTheSwitch_16 : ∃ (s : State) (plca : BitVec 4) (ecc : List (Fin 32 × EccResult)) (e : Fin 32) (x : EgressSt)
    (k : Conn), s.zone.logicRuns = true ∧ e ≠ 30 ∧ s.zone.egress e.val = some x ∧ s.zone.conn e.val = some k ∧ x.ingress < 32 ∧
    x.cls < 8 :=
  ⟨(on wSvc fun z =>
    { z with switch := { z.switch with dirty := false, voqs := [(Zone.voqKey 0 29 7, [⟨List.replicate 100 1, ⟨0,0,0,0⟩, 0, 1, 0, false, 0, none, none, 0, none, false, false⟩])], conns := [(29, some ⟨0, 2⟩)], egr := [(29, some ⟨0, 7, ⟨List.replicate 100 1, ⟨0,0,0,0⟩, 0, 1, 0, false, 0, none, none, 0, none, false, false⟩, 0, none, false, false⟩)] } }),
    0, [], 29, ⟨0, 7, ⟨List.replicate 100 1, ⟨0,0,0,0⟩, 0, 1, 0, false, 0, none, none, 0, none, false, false⟩, 0, none, false,
    false⟩, ⟨0,2⟩, by decide +kernel⟩

theorem wit_framesPassTheSwitch_18 : ∃ (s : State) (port : Fin 28) (plca : Bool) (skew : Fin 51) (x : EgressSt), s.zone.logicRuns
    = true ∧ s.zone.egress port.val = some x ∧ x.sending = none ∧ 0 < x.fetched ∧ s.zone.linkState port.val = 0 ∧ s.zone.gateFits
    port.val x.cls (s.zone.copyTime port.val x.copy) = true ∧ (s.zone.flag (pSWP port.val) (SWP.TC_CFG_CBS_EN.nth 4 x.cls) = true
    → 0 ≤ s.zone.creditNow port.val x.cls) ∧ x.cls < 8 ∧ (port.val < 24 ∨ plca = true) :=
  ⟨(on wSvc fun z => (z.setFld (pSWP 27) SWP.PORT_STATE_LINK_STATE 0).setEgress 27 (some ⟨0, 7, ⟨List.replicate 60 1, ⟨0,0,0,0⟩,
    0, 1, 0, false, 0, none, none, 0, none, false, false⟩, 1, none, false, false⟩)), 27, true, 50, ⟨0, 7, ⟨List.replicate 60 1,
    ⟨0,0,0,0⟩, 0, 1, 0, false, 0, none, none, 0, none, false, false⟩, 1, none, false, false⟩, by decide +kernel⟩

theorem wit_framesPassTheSwitch_19 : ∃ (s : State) (port : Fin 28) (plca : Bool) (skew : Fin 51), s.zone.logicRuns = true ∧ (∀ x ∈
    s.zone.egress port.val, x.cls < 8 ∧ (x.sending.isSome = true ∨ x.fetched = 0 ∨ s.zone.linkState port.val ≠ 0 ∨ s.zone.gateFits
    port.val x.cls (s.zone.copyTime port.val x.copy) = false ∨ (s.zone.flag (pSWP port.val) (SWP.TC_CFG_CBS_EN.nth 4 x.cls) = true
    ∧ s.zone.creditNow port.val x.cls < 0) ∨ (24 ≤ port.val ∧ plca = false))) :=
  ⟨wSvc, 27, true, 0, by decide +kernel⟩

theorem wit_framesPassTheSwitch_20 : ∃ (s : State) (port : Fin 28) (x : EgressSt), s.zone.logicRuns = true ∧ s.zone.egress
    port.val = some x ∧ x.sending.isSome = true ∧ x.copy.cells ≤ x.fetched ∧ x.live = false :=
  ⟨(on wSvc fun z => z.setEgress 27 (some ⟨0, 7, ⟨List.replicate 60 1, ⟨0,0,0,0⟩, 0, 1, 0, false, 0, none, none, 0, none, false,
    false⟩, 1, some [1], false, false⟩)), 27, ⟨0, 7, ⟨List.replicate 60 1, ⟨0,0,0,0⟩, 0, 1, 0, false, 0, none, none, 0, none,
    false, false⟩, 1, some [1], false, false⟩, by decide +kernel⟩

theorem wit_framesPassTheSwitch_21 : ∃ (s : State) (port : Fin 28), (∀ x ∈ s.zone.egress port.val, x.sending = none ∨ x.fetched <
    x.copy.cells ∨ x.live = true) :=
  ⟨wSvc, 27, by decide +kernel⟩

theorem wit_framesPassTheSwitch_22 : ∃ (s : State) (i e : Fin 32) (t : Fin 8) (busy : Bool), s.zone.logicRuns = true ∧ busy =
    (s.zone.egress e.val).any (fun x => decide (x.ingress = i.val ∧ x.cls = t.val ∧ x.fetched < x.copy.cells)) :=
  ⟨(on wSvc fun z =>
    { z with switch := { z.switch with voqs := [(Zone.voqKey 31 29 7, [⟨[1], ⟨0,0,0,0⟩, 0, 1, 0, false, 0, none, none, 0, none, false, false⟩])] }, time := { z.time with residence := 1000000000 } }),
    31, 29, 7, false, by decide +kernel⟩

theorem wit_framesPassTheSwitch_23 : ∃ (s : State) (port : Fin 32) (off : BitVec 12) (o k : Nat), s.zone.logicRuns = true ∧ o =
    off.toNat / 4 * 4 ∧ Zone.isCounter port.val o = true ∧ k = port.val * 4096 + o / 8 * 8 :=
  ⟨(on wSvc fun z => z.statBy (statPort 31 10) 0xFFFFFFFFFFFFFFFF), 31, 0x352, 0x350, (31 * 4096 + 0x350), by decide +kernel⟩

theorem wit_framesPassTheSwitch_24 : ∃ (s : State) (port : Fin 32) (off : BitVec 12), Zone.isCounter port.val (off.toNat / 4 * 4)
    = false :=
  ⟨wSvc, 31, 0x700, by decide +kernel⟩

theorem wit_framesPassTheSwitch_25 : ∃ (s : State) (q : Fin 256), s.zone.logicRuns = true ∧ (s.zone.recov q.val).takeAny = false ∧
    (s.zone.recov q.val).at_ + s.zone.tabWord 68 (256 + q.val) 0 / 65536 % 1024 * 250000 ≤ s.zone.mono :=
  ⟨(on wSvc fun z => z.setRecov 255 ⟨false, 7, [true], 0⟩), 255, by decide +kernel⟩

theorem wit_framesPassTheSwitch_26 : ∃ (s : State) (q : Fin 256), ((s.zone.recov q.val).takeAny = true ∨ s.zone.mono <
    (s.zone.recov q.val).at_ + s.zone.tabWord 68 (256 + q.val) 0 / 65536 % 1024 * 250000) :=
  ⟨wSvc, 255, by decide +kernel⟩

theorem wit_gatesLinksAndTablesOfTheSwitch_1 : ∃ (s : State) (port : Fin 32), s.zone.logicRuns = true ∧ (s.zone.gate
    port.val).pending.all (fun y => decide (s.zone.nowNs < y.1)) = true :=
  ⟨wSvc, 31, by decide +kernel⟩

theorem wit_gatesLinksAndTablesOfTheSwitch_2 : ∃ (s : State) (port : Fin 32) (at_ : Nat) (l : GateList), s.zone.logicRuns = true ∧
    (s.zone.gate port.val).pending = some (at_, l) ∧ at_ ≤ s.zone.nowNs :=
  ⟨(on wSvc fun z => z.setGate 31 { GateSt.init with pending := some (0, ⟨1, 10000, 0⟩) }), 31, 0, ⟨1,10000,0⟩, by decide +kernel⟩

theorem wit_gatesLinksAndTablesOfTheSwitch_3 : ∃ (s : State) (port : Fin 32), s.zone.logicRuns = true ∧ ((s.zone.gateEval
    port.val).fld (pSWP port.val) SWP.GATE_CTRL_STAGED_COUNT = 0 ∨ 128 < (s.zone.gateEval port.val).fld (pSWP port.val)
    SWP.GATE_CTRL_STAGED_COUNT ∨ (s.zone.gateEval port.val).fld (pSWP port.val) SWP.GCL_CYCLE_CYCLE < 10000 ∨ 1000000000 <
    (s.zone.gateEval port.val).fld (pSWP port.val) SWP.GCL_CYCLE_CYCLE ∨ (s.zone.gateEval port.val).fld (pSWP port.val)
    SWP.GCL_CYCLE_CYCLE ≤ (s.zone.gateEval port.val).fld (pSWP port.val) SWP.GCL_OFFSET_OFFSET ∨ ((List.range ((s.zone.gateEval
    port.val).fld (pSWP port.val) SWP.GATE_CTRL_STAGED_COUNT)).any fun j => decide (((s.zone.gateEval port.val).bankEntry port.val
    (1 - (s.zone.gateEval port.val).operBank port.val) j).2 < 100)) = true) :=
  ⟨(on wSvc fun z => z.setFld (pSWP 31) SWP.GATE_CTRL_STAGED_COUNT 129), 31, by decide +kernel⟩

theorem wit_gatesLinksAndTablesOfTheSwitch_4 : ∃ (s : State) (port : Fin 32) (l : GateList), s.zone.logicRuns = true ∧ l =
    ⟨(s.zone.gateEval port.val).fld (pSWP port.val) SWP.GATE_CTRL_STAGED_COUNT, (s.zone.gateEval port.val).fld (pSWP port.val)
    SWP.GCL_CYCLE_CYCLE, (s.zone.gateEval port.val).fld (pSWP port.val) SWP.GCL_OFFSET_OFFSET⟩ ∧ 1 ≤ l.count ∧ l.count ≤ 128 ∧
    10000 ≤ l.cycle ∧ l.cycle ≤ 1000000000 ∧ l.offset < l.cycle ∧ ((List.range l.count).all fun j => decide (100 ≤
    ((s.zone.gateEval port.val).bankEntry port.val (1 - (s.zone.gateEval port.val).operBank port.val) j).2)) = true :=
  ⟨(on wSvc fun z => ((z.setFld (pSWP 31) SWP.GATE_CTRL_STAGED_COUNT 1).setFld (pSWP 31) SWP.GCL_CYCLE_CYCLE 10000).setFld (pSWP
    31) (SWP.GATE1_INTERVAL.nth 8 0) 100), 31, ⟨1,10000,0⟩, by decide +kernel⟩

theorem wit_gatesLinksAndTablesOfTheSwitch_5 : ∃ (s : State) (g : Fin 64), s.zone.logicRuns = true ∧ (s.zone.sgate
    g.val).pending.all (fun y => decide (s.zone.nowNs < y.1)) = true :=
  ⟨(on wSvc fun z => z.setSgate 63 ⟨[(1, 100)], 10000, 0, none, true, 1⟩), 63, by decide +kernel⟩

theorem wit_gatesLinksAndTablesOfTheSwitch_6 : ∃ (s : State) (g : Fin 64) (at_ : Nat) (l : GateList), s.zone.logicRuns = true ∧
    (s.zone.sgate g.val).pending = some (at_, l) ∧ at_ ≤ s.zone.nowNs ∧ 1 ≤ l.count :=
  ⟨(on wSvc fun z => (z.setEntry 66 2016 [17, 200]).setSgate 63 ⟨[(1, 100)], 10000, 0, some (0, ⟨1, 20000, 0⟩), true, 1⟩), 63, 0,
    ⟨1, 20000, 0⟩, by decide +kernel⟩

theorem wit_gatesLinksAndTablesOfTheSwitch_7 : ∃ (s : State) (port : Fin 28), s.zone.flag (pPORT port.val) PORT.PHY_STATUS_LINK =
    false :=
  ⟨wSvc, 27, by decide +kernel⟩

theorem wit_gatesLinksAndTablesOfTheSwitch_8 : ∃ (s : State) (port : Fin 28) (hold : Nat), s.zone.logicRuns = true ∧ port.val < 24
    ∧ s.zone.flag (pPORT port.val) PORT.PHY_STATUS_LINK = true ∧ hold = s.zone.fld (pSWP port.val) SWP.LINK_HOLD_HOLD :=
  ⟨(on wSvc fun z => (((z.setFld (pPORT 23) PORT.PHY_STATUS_LINK 1).setFld (pSWP 23) SWP.PORT_CFG_ENABLE 1).setFld (pSWP 23)
    SWP.LINK_HOLD_HOLD 65535).setFld (pSWP 23) SWP.PORT_STATE_LINK_STATE 0), 23, 65535, by decide +kernel⟩

theorem wit_gatesLinksAndTablesOfTheSwitch_9 : ∃ (s : State) (port : Fin 28) (speed : Fin 3) (leader eee : Bool),
    (s.zone.logicRuns = false ∨ 3 ≤ s.zone.sleep.phase ∨ (s.zone.mode = Mode.test ∧ 4 ≤ port.val) ∨ SMap.get (fun _ => 0)
    s.zone.fuses.lc 0 < 2 ∨ 2 ≤ SMap.get (fun _ => 0) s.zone.fuses.lc 3 ∨ s.zone.flag (pPORT port.val) PORT.PHY_STATUS_LINK = true
    ∨ 24 ≤ port.val) :=
  ⟨wSvc, 27, 2, true, false, by decide +kernel⟩

theorem wit_gatesLinksAndTablesOfTheSwitch_10 : ∃ (s : State) (port : Fin 28) (speed : Fin 3) (leader eee : Bool) (role : Nat),
    s.zone.logicRuns = true ∧ port.val < 24 ∧ (s.zone.mode = Mode.test → port.val < 4) ∧ s.zone.sleep.phase < 3 ∧ 2 ≤ SMap.get
    (fun _ => 0) s.zone.fuses.lc 0 ∧ SMap.get (fun _ => 0) s.zone.fuses.lc 3 < 2 ∧ s.zone.flag (pPORT port.val)
    PORT.PHY_STATUS_LINK = false ∧ (s.zone.linkState port.val ≠ 0 ∨ s.zone.flag (pSWP port.val) SWP.PORT_CFG_ENABLE = true) ∧ role
    = s.zone.fld (pPORT port.val) PORT.PHY_CFG_ROLE :=
  ⟨(on wSvc fun z => (z.setFld (pSWP 3) SWP.PORT_CFG_ENABLE 1).setFld (pSWP 3) SWP.PORT_STATE_LINK_STATE 1), 3, 2, true, false, 0,
    by decide +kernel⟩

theorem wit_gatesLinksAndTablesOfTheSwitch_11 : ∃ (s : State) (port : Fin 28) (t : Nat), s.zone.logicRuns = true ∧ SMap.get (fun _
    => none) s.zone.switch.holdEnd port.val = some t ∧ t / 2500 < s.zone.mono / 2500 ∧ s.zone.linkState port.val = 1 :=
  ⟨(on wSvc fun z =>
    { z.setFld (pSWP 27) SWP.PORT_STATE_LINK_STATE 1 with switch := { z.switch with holdEnd := [(27, some 9)] } }), 27, 9, by
    decide +kernel⟩

theorem wit_gatesLinksAndTablesOfTheSwitch_12 : ∃ (s : State) (port : Fin 28), (s.zone.linkState port.val ≠ 1 ∨ ∀ t ∈ SMap.get
    (fun _ => none) s.zone.switch.holdEnd port.val, s.zone.mono / 2500 ≤ t / 2500) :=
  ⟨wSvc, 27, by decide +kernel⟩

theorem wit_gatesLinksAndTablesOfTheSwitch_14 : ∃ (s : State) (w : Fin 7) (k : Keeper) (n : Fin 128) (index : Word) (st v : Nat),
    s.zone.logicRuns = true ∧ s.zone.role k = 3 ∧ ((w ≠ 0 ∧ s.zone.entryBad (64 + w.val) index.toNat (s.zone.winData (64 + w.val))
    = true ∧ v = 2) ∨ (w = 0 ∧ s.zone.entryBad 64 0 (s.zone.winData 64) = true ∧ v = 2) ∨ (w = 0 ∧ s.zone.entryBad 64 0
    (s.zone.winData 64) = false ∧ v = 1 ∧ s.zone.fdbPlace (Zone.fdbKey ((s.zone.winData 64).getD 0 0).toNat ((s.zone.winData
    64).getD 1 0).toNat).1 (Zone.fdbKey ((s.zone.winData 64).getD 0 0).toNat ((s.zone.winData 64).getD 1 0).toNat).2.1
    (Zone.fdbKey ((s.zone.winData 64).getD 0 0).toNat ((s.zone.winData 64).getD 1 0).toNat).2.2 = none)) ∧ st = 1 :=
  ⟨wTicket, 6, .A, 127, 64, 1, 2, by decide +kernel⟩

theorem wit_gatesLinksAndTablesOfTheSwitch_15 : ∃ (s : State) (w : Fin 7) (k : Keeper) (n : Fin 128) (index : Word) (st v : Nat),
    s.zone.logicRuns = true ∧ s.zone.role k = 3 ∧ w ≠ 0 ∧ s.zone.entryBad (64 + w.val) index.toNat (s.zone.winData (64 + w.val)) =
    false ∧ st = 0 ∧ v = index.toNat :=
  ⟨wTicket, 6, .A, 127, 63, 0, 63, by decide +kernel⟩

theorem wit_gatesLinksAndTablesOfTheSwitch_16 : ∃ (s : State) (k : Keeper) (n : Fin 128) (index : Word) (d0 d1 i st v : Nat),
    s.zone.logicRuns = true ∧ s.zone.role k = 3 ∧ d0 = ((s.zone.winData 64).getD 0 0).toNat ∧ d1 = ((s.zone.winData 64).getD 1
    0).toNat ∧ s.zone.entryBad 64 0 (s.zone.winData 64) = false ∧ s.zone.fdbPlace (Zone.fdbKey d0 d1).1 (Zone.fdbKey d0 d1).2.1
    (Zone.fdbKey d0 d1).2.2 = some i ∧ st = 0 ∧ v = i :=
  ⟨(on wTicket fun z => z.wr (pSWW 64 + 4) 0x80000000), .A, 127, 63, 0, 0x80000000, (Zone.fdbBucket 0 0 * 4), 0, (Zone.fdbBucket 0
    0 * 4), by decide +kernel⟩

theorem wit_gatesLinksAndTablesOfTheSwitch_17 : ∃ (s : State) (w : Fin 7) (k : Keeper) (n : Fin 128) (index : Word) (j : Fin 7)
    (st v : Nat), s.zone.logicRuns = true ∧ s.zone.role k = 3 ∧ index.toNat < Zone.winEntries (64 + w.val) ∧ st = 0 ∧ v =
    index.toNat :=
  ⟨(on wTicket fun z => z.setEntry 64 16383 [1, 2, 3, 4]), 0, .A, 127, 16383, 3, 0, 16383, by decide +kernel⟩

theorem wit_gatesLinksAndTablesOfTheSwitch_18 : ∃ (s : State) (w : Fin 7) (k : Keeper) (n : Fin 128) (index : Word) (st v : Nat),
    s.zone.logicRuns = true ∧ s.zone.role k = 3 ∧ Zone.winEntries (64 + w.val) ≤ index.toNat ∧ st = 1 ∧ v = 2 :=
  ⟨wTicket, 6, .A, 127, 64, 1, 2, by decide +kernel⟩

theorem wit_gatesLinksAndTablesOfTheSwitch_19 : ∃ (s : State) (w : Fin 7) (k : Keeper) (n : Fin 128) (index : Word) (st v : Nat),
    s.zone.logicRuns = true ∧ s.zone.role k = 3 ∧ w ≠ 0 ∧ index.toNat < Zone.winEntries (64 + w.val) ∧ st = 0 ∧ v = index.toNat :=
  ⟨(on wTicket fun z => z.setEntry 70 63 [1, 2, 3, 4]), 6, .A, 127, 63, 0, 63, by decide +kernel⟩

theorem wit_gatesLinksAndTablesOfTheSwitch_20 : ∃ (s : State) (k : Keeper) (n : Fin 128) (index : Word) (d0 d1 i st v : Nat),
    s.zone.logicRuns = true ∧ s.zone.role k = 3 ∧ d0 = ((s.zone.winData 64).getD 0 0).toNat ∧ d1 = ((s.zone.winData 64).getD 1
    0).toNat ∧ s.zone.fdbFind (Zone.fdbKey d0 d1).1 (Zone.fdbKey d0 d1).2.1 (Zone.fdbKey d0 d1).2.2 = some i ∧ st = 0 ∧ v = i :=
  ⟨(on wTicket fun z => z.setEntry 64 (Zone.fdbBucket 0 0 * 4) [0, 0x80000000]), .A, 127, 63, 0, 0, (Zone.fdbBucket 0 0 * 4), 0,
    (Zone.fdbBucket 0 0 * 4), by decide +kernel⟩

theorem wit_gatesLinksAndTablesOfTheSwitch_21 : ∃ (s : State) (w : Fin 7) (k : Keeper) (n : Fin 128) (index : Word) (st v : Nat),
    s.zone.logicRuns = true ∧ s.zone.role k = 3 ∧ ((w ≠ 0 ∧ Zone.winEntries (64 + w.val) ≤ index.toNat) ∨ (w = 0 ∧ s.zone.fdbFind
    (Zone.fdbKey ((s.zone.winData 64).getD 0 0).toNat ((s.zone.winData 64).getD 1 0).toNat).1 (Zone.fdbKey ((s.zone.winData
    64).getD 0 0).toNat ((s.zone.winData 64).getD 1 0).toNat).2.1 (Zone.fdbKey ((s.zone.winData 64).getD 0 0).toNat
    ((s.zone.winData 64).getD 1 0).toNat).2.2 = none)) ∧ st = 1 ∧ v = 3 :=
  ⟨wTicket, 6, .A, 127, 64, 1, 3, by decide +kernel⟩

theorem wit_gatesLinksAndTablesOfTheSwitch_22 : ∃ (s : State) (port : Fin 28) (sqi : BitVec 3) (l : Nat), s.zone.logicRuns = true
    ∧ l = s.zone.fld (pPORT port.val) PORT.SQI_WARN_LEVEL :=
  ⟨wSvc, 27, 7, 3, by decide +kernel⟩

theorem wit_gatesLinksAndTablesOfTheSwitch_23 : ∃ (s : State) (writer : Writer) (port : Fin 4) (assoc : Fin 20) (sci nextPn :
    BitVec 64) (an : BitVec 2) (slot : BitVec 8), s.zone.writerActs writer = true ∧ Zone.secureWriter writer = true ∧
    (s.zone.keySlot slot.toNat).type = s.zone.fld (pPORT port.val) PORT.MACSEC_CFG_CIPHER % 2 + 1 ∧ (attrUses (s.zone.keySlot
    slot.toNat).attr).testBit 2 = true ∧ (s.zone.keySlot slot.toNat).owner = none :=
  ⟨(on wSvc fun z => { z with keyring := { z.keyring with slots := [(255, { KeySlot.init with attr := 0x10040000 })] } }),
    (.firmware secureSrc), 3, 19, 9, 1, 3, 255, by decide +kernel⟩

theorem wit_gatesLinksAndTablesOfTheSwitch_24 : ∃ (s : State) (writer : Writer) (port : Fin 4) (assoc : Fin 20) (sci nextPn :
    BitVec 64) (an : BitVec 2) (slot : BitVec 8), s.zone.writerActs writer = true ∧ Zone.secureWriter writer = true ∧
    ((s.zone.keySlot slot.toNat).type ≠ s.zone.fld (pPORT port.val) PORT.MACSEC_CFG_CIPHER % 2 + 1 ∨ (attrUses (s.zone.keySlot
    slot.toNat).attr).testBit 2 = false ∨ (s.zone.keySlot slot.toNat).owner ≠ none) :=
  ⟨wSvc, (.firmware secureSrc), 3, 19, 9, 1, 3, 255, by decide +kernel⟩

theorem wit_gatesLinksAndTablesOfTheSwitch_25 : ∃ (s : State) (writer : Writer) (port : Fin 4) (assoc : Fin 20) (sci nextPn :
    BitVec 64) (an : BitVec 2) (slot : BitVec 8), Zone.secureWriter writer = false :=
  ⟨wSvc, (.keeper .A), 3, 19, 9, 1, 3, 255, by decide +kernel⟩

theorem wit_gatesLinksAndTablesOfTheSwitch_13 : ∃ (s : State) (o : Fin 3) (w : Fin 7) (k : Keeper) (n : Fin 128) (index : Word),
    s.zone.role k ≠ 3 :=
  ⟨wSvc, 2, 6, .B, 127, 63, by decide +kernel⟩

/-- A state in which pair 0 runs, its rings at 0x1000000000, with one transmit descriptor of length n for the buffer at address a. -/
def wPair (n a : Nat) : State := on (wOpen 1 0x1000000 0x1000000) fun z =>
  let p := pPAIR 0
  let z := ((((z.setFld p QPR.OWNER_STATE 2).setFld p QPR.OWNER_WORLD 1).setFld p QPR.OWNER_MOORING 4).setFld p QPR.TX_BASE_HI_ADDR 16).setFld
    p QPR.RX_BASE_HI_ADDR 16
  let z := (((z.setFld p QPR.RING_CFG_TX_LOG2 4).setFld p QPR.RING_CFG_RX_LOG2 4).setFld p QPR.MAC_LO_MAC 0x01010101).setFld p
    QPR.MAC_HI_MAC 0x0101
  let z := ((z.setFld p QPR.MAC_HI_VID 1).setRingTail 0 0 1).setRingTail 0 1 1
  z.storeBytes 0x1000000000 (leBytes 8 a ++ leBytes 2 n ++ [0, 0x80, 7, 0, 0, 0] ++ List.replicate 60 (1 : Byte))
theorem wit_hostPairsAndBridgesExchangeFrames_2 : ∃ (s : State) (q : Fin 1024) (d : Desc) (x : Zone),
    s.zone.logicRuns = true ∧ s.zone.pairState q.val = 2 ∧ s.zone.nextDesc q.val 0 = (some d, x) ∧ (d.len < 14 ∨ 9212 < d.len) :=
  ⟨wPair 13 0x1000000100, 0, ⟨0x1000000100, 13, 0x8000, 7⟩, ((wPair 13 0x1000000100).zone.nextDesc 0 0).2, by decide +kernel⟩
theorem wit_hostPairsAndBridgesExchangeFrames_3 : ∃ (s : State) (q : Fin 1024) (d : Desc) (x y : Zone) (n : Nat),
    s.zone.logicRuns = true ∧ s.zone.pairState q.val = 2 ∧ s.zone.nextDesc q.val 0 = (some d, x) ∧ (14 ≤ d.len ∧ d.len ≤ 9212) ∧
    x.dmaRead (Zone.pairMaster q.val) (s.zone.pairOwner q.val) d.addr d.len = (none, n, y) :=
  ⟨wPair 60 0x2000000000, 0, ⟨0x2000000000, 60, 0x8000, 7⟩, ((wPair 60 0x2000000000).zone.nextDesc 0 0).2,
    (((wPair 60 0x2000000000).zone.nextDesc 0 0).2.dmaRead (Zone.pairMaster 0) ((wPair 60 0x2000000000).zone.pairOwner 0) 0x2000000000 60).2.2,
    (((wPair 60 0x2000000000).zone.nextDesc 0 0).2.dmaRead (Zone.pairMaster 0) ((wPair 60 0x2000000000).zone.pairOwner 0) 0x2000000000 60).2.1,
    by decide +kernel⟩
theorem wit_hostPairsAndBridgesExchangeFrames_4 : ∃ (s : State) (q : Fin 1024) (d : Desc) (b f : List Byte) (x y : Zone) (n : Nat),
    s.zone.logicRuns = true ∧ s.zone.pairState q.val = 2 ∧ s.zone.nextDesc q.val 0 = (some d, x) ∧ (14 ≤ d.len ∧ d.len ≤ 9212) ∧
    x.dmaRead (Zone.pairMaster q.val) (s.zone.pairOwner q.val) d.addr d.len = (some b, n, y) ∧
    f = (if b.length < 60 then padTo 60 b else b) :=
  ⟨wPair 14 0x1000000010, 0, ⟨0x1000000010, 14, 0x8000, 7⟩, List.replicate 14 1, padTo 60 (List.replicate 14 1),
    ((wPair 14 0x1000000010).zone.nextDesc 0 0).2,
    (((wPair 14 0x1000000010).zone.nextDesc 0 0).2.dmaRead (Zone.pairMaster 0) ((wPair 14 0x1000000010).zone.pairOwner 0) 0x1000000010 14).2.2,
    0, by decide +kernel⟩

/-- A state in which port 28 holds a copy for pair 0, whose receive ring holds no descriptor where `dry` holds. -/
def wRx (dry : Bool) : State := on (wPair 60 0x1000000100) fun z =>
  (z.setRingTail 0 1 (if dry then 0 else 1)).setEgress 28
    (some ⟨0, 7, ⟨List.replicate 60 1, ⟨0, 0, 0, 0⟩, 0, 1, 0, false, 0, none, none, 0, none, false, false⟩, 1, none, false, false⟩)
theorem wit_hostPairsAndBridgesExchangeFrames_7 : ∃ (s : State) (p : Fin 2) (x : EgressSt) (q : Nat) (y : Zone),
    s.zone.logicRuns = true ∧ s.zone.egress (28 + p.val) = some x ∧ x.copy.cells ≤ x.fetched ∧
    q = (if Zone.pairPort x.copy.queue = 28 + p.val then x.copy.queue else if p.val = 0 then 0 else 896) ∧ s.zone.pairState q = 2 ∧
    s.zone.rxWrite q (s.zone.wireOf (28 + p.val) x.copy) (min 2 x.copy.colour * 2 ^ 8 + x.cls * 2 ^ 5 + x.ingress)
      (match x.copy.stream with | some n => 2 ^ 12 + n | none => 0) (s.zone.ringDepth q 1) = (none, y) :=
  ⟨wRx true, 0, ⟨0, 7, ⟨List.replicate 60 1, ⟨0, 0, 0, 0⟩, 0, 1, 0, false, 0, none, none, 0, none, false, false⟩, 1, none, false, false⟩, 0,
    (wRx true).zone, by decide +kernel⟩
theorem wit_hostPairsAndBridgesExchangeFrames_8 : ∃ (s : State) (p : Fin 2) (x : EgressSt) (q : Nat) (ok : Bool) (y : Zone),
    s.zone.logicRuns = true ∧ s.zone.egress (28 + p.val) = some x ∧ x.copy.cells ≤ x.fetched ∧
    q = (if Zone.pairPort x.copy.queue = 28 + p.val then x.copy.queue else if p.val = 0 then 0 else 896) ∧ s.zone.pairState q = 2 ∧
    s.zone.rxWrite q (s.zone.wireOf (28 + p.val) x.copy) (min 2 x.copy.colour * 2 ^ 8 + x.cls * 2 ^ 5 + x.ingress)
      (match x.copy.stream with | some n => 2 ^ 12 + n | none => 0) (s.zone.ringDepth q 1) = (some ok, y) :=
  ⟨wRx false, 0, ⟨0, 7, ⟨List.replicate 60 1, ⟨0, 0, 0, 0⟩, 0, 1, 0, false, 0, none, none, 0, none, false, false⟩, 1, none, false, false⟩, 0,
    true, ((wRx false).zone.rxWrite 0 ((wRx false).zone.wireOf 28 ⟨List.replicate 60 1, ⟨0, 0, 0, 0⟩, 0, 1, 0, false, 0, none, none, 0, none,
      false, false⟩) 0xE0 0 16).2, by decide +kernel⟩

/-- Keeper A with a ticket, template 0 in use and an entry in the TABLE ring of CAN channel 15. -/
def wAcf : State := on wTicket fun z =>
  let z := ((z.setFld (pCAN 15) CAN.RX_CFG_OWNER_KIND 2).setFld (pCAN 15) CAN.RX_PTRS_FILL 1).setRing 15
    { RingSt.init with entries := [(0, List.replicate 32 0)] }
  z.setEntry 70 0 [0, 0x80000000]
theorem wit_hostPairsAndBridgesExchangeFrames_15 : ∃ (s : State) (k : Keeper) (n : Fin 128) (arg : Word) (e : List Byte)
    (t seq st v : Nat), s.zone.logicRuns = true ∧ s.zone.tableEntry (arg.toNat / 65536 % 16) (arg.toNat % 256) = some e ∧
    t = arg.toNat / 256 % 64 ∧ (s.zone.tmpl t 1).testBit 31 = true ∧ leAt e 0 4 / 2 ^ 29 ≠ 2 ∧
    seq = SMap.get (fun _ => 0) s.zone.switch.tmplSeq t ∧
    st = (if (s.zone.inject 30 (s.zone.avtpFrame t seq (Zone.acfMessage ((s.zone.tmpl t 6).testBit 1) (s.zone.tmpl t 6 / 256 % 32) e))
      none).1 = none then 1 else 0) ∧
    v = (if (s.zone.inject 30 (s.zone.avtpFrame t seq (Zone.acfMessage ((s.zone.tmpl t 6).testBit 1) (s.zone.tmpl t 6 / 256 % 32) e))
      none).1 = none then 2 else seq) :=
  ⟨wAcf, .A, 127, 0xF0000, List.replicate 32 0, 0, 0, 0, 0, by decide +kernel⟩

theorem wit_hostPairsAndBridgesExchangeFrames_1 : ∃ (s : State) (q : Fin 1024), (s.zone.logicRuns = false ∨ s.zone.pairState q.val
    ≠ 2 ∨ s.zone.ringHeadIx q.val 0 % s.zone.ringDepth q.val 0 = s.zone.ringTailIx q.val 0 % s.zone.ringDepth q.val 0) :=
  ⟨wSvc, 1023, by decide +kernel⟩

theorem wit_hostPairsAndBridgesExchangeFrames_5 : ∃ (s : State) (p : Fin 2), (s.zone.egress (28 + p.val)).all (fun x => decide
    (x.fetched < x.copy.cells)) = true :=
  ⟨wSvc, 1, by decide +kernel⟩

theorem wit_hostPairsAndBridgesExchangeFrames_6 : ∃ (s : State) (p : Fin 2) (x : EgressSt) (q : Nat), s.zone.logicRuns = true ∧
    s.zone.egress (28 + p.val) = some x ∧ x.copy.cells ≤ x.fetched ∧ q = (if Zone.pairPort x.copy.queue = 28 + p.val then
    x.copy.queue else if p.val = 0 then 0 else 896) ∧ s.zone.pairState q ≠ 2 :=
  ⟨(on wSvc fun z => z.setEgress 29 (some ⟨0, 7, ⟨List.replicate 60 1, ⟨0,0,0,0⟩, 0, 1, 0, false, 0, none, none, 5, none, false,
    false⟩, 1, none, false, false⟩)), 1, ⟨0, 7, ⟨List.replicate 60 1, ⟨0,0,0,0⟩, 0, 1, 0, false, 0, none, none, 5, none, false,
    false⟩, 1, none, false, false⟩, 896, by decide +kernel⟩

theorem wit_hostPairsAndBridgesExchangeFrames_9 : ∃ (s : State) (p : Fin 2) (src : Source) (q : BitVec 10) (rx : Bool) (tail :
    BitVec 16), s.zone.start.released = true ∧ Zone.pairPort q.toNat = 28 + p.val ∧ s.zone.pairHeldBy q.toNat src = true :=
  ⟨(on wSvc fun z => (z.setFld (pPAIR 1023) QPR.OWNER_STATE 1).setFld (pPAIR 1023) QPR.OWNER_MOORING 4095), 1, ⟨.normal,4095⟩,
    1023, true, 0xFFFF, by decide +kernel⟩

theorem wit_hostPairsAndBridgesExchangeFrames_10 : ∃ (s : State) (p : Fin 2) (src : Source) (q : BitVec 10) (rx : Bool) (tail :
    BitVec 16), s.zone.start.released = true ∧ (Zone.pairPort q.toNat ≠ 28 + p.val ∨ s.zone.pairHeldBy q.toNat src = false) :=
  ⟨wSvc, 1, ⟨.normal,4095⟩, 895, true, 0xFFFF, by decide +kernel⟩

theorem wit_hostPairsAndBridgesExchangeFrames_11 : ∃ (s : State) (src : Source) (q : Fin 1024) (v : Word), s.zone.start.released =
    true ∧ s.zone.pairHeldBy q.val src = true ∧ s.zone.flag (pPAIR q.val) QPR.RING_CFG_ENABLE = false ∧ 0x80000000 ≤ v.toNat ∧ 4 ≤
    v.toNat / 2 ^ 20 % 16 ∧ v.toNat / 2 ^ 20 % 16 ≤ 12 ∧ 4 ≤ v.toNat / 2 ^ 16 % 16 ∧ v.toNat / 2 ^ 16 % 16 ≤ 12 :=
  ⟨(on wSvc fun z => (z.setFld (pPAIR 1023) QPR.OWNER_STATE 1).setFld (pPAIR 1023) QPR.OWNER_MOORING 4095), ⟨.normal,4095⟩, 1023,
    0x80C40000, by decide +kernel⟩

theorem wit_hostPairsAndBridgesExchangeFrames_12 : ∃ (s : State) (src : Source) (q : Fin 1024) (v : Word) (on : Bool),
    s.zone.start.released = true ∧ s.zone.pairHeldBy q.val src = true ∧ v.toNat < 0x80000000 ∧ on = s.zone.flag (pPAIR q.val)
    QPR.RING_CFG_ENABLE :=
  ⟨(on wSvc fun z => ((z.setFld (pPAIR 1023) QPR.OWNER_STATE 2).setFld (pPAIR 1023) QPR.RING_CFG_ENABLE 1).setFld (pPAIR 1023)
    QPR.OWNER_MOORING 4095), ⟨.normal,4095⟩, 1023, 0x0CC40000, true, by decide +kernel⟩

theorem wit_hostPairsAndBridgesExchangeFrames_13 : ∃ (s : State) (src : Source) (q : Fin 1024) (v : Word), s.zone.start.released =
    true ∧ (s.zone.pairHeldBy q.val src = false ∨ (0x80000000 ≤ v.toNat ∧ (s.zone.flag (pPAIR q.val) QPR.RING_CFG_ENABLE = true ∨
    v.toNat / 2 ^ 20 % 16 < 4 ∨ 12 < v.toNat / 2 ^ 20 % 16 ∨ v.toNat / 2 ^ 16 % 16 < 4 ∨ 12 < v.toNat / 2 ^ 16 % 16))) :=
  ⟨wSvc, ⟨.normal,4095⟩, 1023, 0x80D40000, by decide +kernel⟩

theorem wit_hostPairsAndBridgesExchangeFrames_14 : ∃ (s : State) (k : Keeper) (n : Fin 128) (arg : Word) (e : Option (List Byte))
    (t st v : Nat), s.zone.logicRuns = true ∧ e = s.zone.tableEntry (arg.toNat / 65536 % 16) (arg.toNat % 256) ∧ t = arg.toNat /
    256 % 64 ∧ (e = none ∨ (s.zone.tmpl t 1).testBit 31 = false ∨ e.any (fun l => decide (leAt l 0 4 / 2 ^ 29 = 2)) = true) ∧ st =
    1 ∧ v = (if e = none then 4 else if (s.zone.tmpl t 1).testBit 31 = false then 5 else 6) :=
  ⟨wTicket, .A, 127, 0, none, 0, 1, 4, by decide +kernel⟩

theorem wit_hostPairsAndBridgesExchangeFrames_16 : ∃ (s : State) (k : Keeper) (n : Fin 128) (arg : Word) (m : AcfMsg) (l : List
    AcfMsg) (st v : Nat), s.zone.logicRuns = true ∧ s.zone.acfQueue (arg.toNat % 16) = m :: l ∧ arg.toNat / 256 % 256 ≤ 63 ∧ st =
    0 ∧ v = l.length :=
  ⟨(on wTicket fun z => z.setAcfQueue 15 [⟨3, 5, false, false, true, true, [1, 2]⟩]), .A, 127, 0x000F3F0F, ⟨3, 5, false, false,
    true, true, [1, 2]⟩, [], 0, 0, by decide +kernel⟩

theorem wit_hostPairsAndBridgesExchangeFrames_17 : ∃ (s : State) (k : Keeper) (n : Fin 128) (arg : Word) (st v : Nat),
    s.zone.logicRuns = true ∧ (s.zone.acfQueue (arg.toNat % 16) = [] ∨ 63 < arg.toNat / 256 % 256) ∧ st = 1 ∧ v = (if
    s.zone.acfQueue (arg.toNat % 16) = [] then 3 else s.zone.fresh.1.toNat) :=
  ⟨wTicket, .A, 127, 15, 1, 3, by decide +kernel⟩


/-! ### Network time -/

theorem wit_timeFollowsItsSource_1 : ∃ (s : State) (q : SourceTime) (i : Fin 2) (n : Nat) (o : Int), (s.zone.logicRuns = false ∨
    s.zone.source ≠ 0 ∨ s.zone.fld pTIME TIME0.TIME_STATUS_SOURCE_NOW = 3 ∨ s.zone.slavePort (if s.zone.fld pTIME
    TIME0.TIME_STATUS_SOURCE_NOW = 1 then 1 else 0) = none) :=
  ⟨wSvc, ⟨5,3⟩, 0, 0, 0, by decide +kernel⟩

theorem wit_timeFollowsItsSource_2 : ∃ (s : State) (q : SourceTime) (i : Fin 2) (n : Nat) (o : Int) (r p : Int) (t : Nat),
    s.zone.logicRuns = true ∧ s.zone.source = 0 ∧ s.zone.fld pTIME TIME0.TIME_STATUS_SOURCE_NOW ≠ 3 ∧ i = (if s.zone.fld pTIME
    TIME0.TIME_STATUS_SOURCE_NOW = 1 then 1 else 0) ∧ s.zone.slavePort i = some n ∧ o = (q.origin + SMap.get (fun _ => 0)
    s.zone.time.delays (s.zone.delayKey i n) + s.zone.ringCorrection n - q.stamp).tdiv 256 ∧ s.zone.time.waiting = none ∧
    s.zone.flag pTIME TIME0.TIME_STATUS_REFUSING = false ∧ s.zone.tstate ≠ 0 ∧ (s.zone.tstate = 1 → s.zone.coarseWindow <
    o.natAbs) ∧ o.natAbs ≤ s.zone.slewLimit ∧ t = (s.zone.time.lastUsed.map fun u => s.zone.nowNs - u).getD 0 ∧ r =
    s.zone.time.rateTerm + (servoDiv ((o - s.zone.time.resid) * 1000000000) t).tdiv 4 ∧ p = max (-(s.zone.fld pTIME
    TIME0.SERVO_CFG_PHASE_PPM * 1000 : Int)) (min (s.zone.fld pTIME TIME0.SERVO_CFG_PHASE_PPM * 1000 : Int) (servoDiv (o *
    1000000000) t)) :=
  ⟨(on wSvc fun z =>
    { (((((z.setFld pTIME TIME0.TIME_STATUS_STATE 2).setFld pTIME TIME0.TIME_STATUS_SOURCE_NOW 0).setFld pTIME TIME0.INST0_CFG_EN 1).setFld pTIME TIME0.INST0_CFG_EXT 1).setFld pTIME TIME0.INST0_CFG_SLAVE_PORT 3) with time := { z.time with net := ⟨1, 0, 0⟩, lastUsed := some 875000000 } }),
    ⟨4096,0⟩, 0, 3, 16, 32, 128, 125000000, by decide +kernel⟩

theorem wit_timeFollowsItsSource_3 : ∃ (s : State) (q : SourceTime) (i : Fin 2) (n : Nat) (o : Int) (k : Nat), s.zone.logicRuns =
    true ∧ s.zone.source = 0 ∧ s.zone.fld pTIME TIME0.TIME_STATUS_SOURCE_NOW ≠ 3 ∧ i = (if s.zone.fld pTIME
    TIME0.TIME_STATUS_SOURCE_NOW = 1 then 1 else 0) ∧ s.zone.slavePort i = some n ∧ o = (q.origin + SMap.get (fun _ => 0)
    s.zone.time.delays (s.zone.delayKey i n) + s.zone.ringCorrection n - q.stamp).tdiv 256 ∧ s.zone.time.waiting = none ∧
    s.zone.flag pTIME TIME0.TIME_STATUS_REFUSING = false ∧ k = (if s.zone.tstate = 0 ∨ (s.zone.tstate = 1 ∧ o.natAbs ≤
    s.zone.coarseWindow) then 1 else 0) ∧ (k = 1 ∨ (s.zone.slewLimit < o.natAbs ∧ o.natAbs ≤ s.zone.jumpThresh)) :=
  ⟨(on wSvc fun z => (((((z.setFld pTIME TIME0.TIME_STATUS_STATE 2).setFld pTIME TIME0.TIME_STATUS_SOURCE_NOW 0).setFld pTIME
    TIME0.INST0_CFG_EN 1).setFld pTIME TIME0.INST0_CFG_EXT 1).setFld pTIME TIME0.INST0_CFG_SLAVE_PORT 3).setFld pTIME
    TIME0.TIME_STATUS_STATE 0), ⟨256000000000000000004096,0⟩, 0, 3, 1000000000000000000016, 1, by decide +kernel⟩

theorem wit_timeFollowsItsSource_4 : ∃ (s : State) (q : SourceTime) (i : Fin 2) (n : Nat) (o : Int), s.zone.logicRuns = true ∧
    s.zone.source = 0 ∧ s.zone.fld pTIME TIME0.TIME_STATUS_SOURCE_NOW ≠ 3 ∧ i = (if s.zone.fld pTIME TIME0.TIME_STATUS_SOURCE_NOW
    = 1 then 1 else 0) ∧ s.zone.slavePort i = some n ∧ o = (q.origin + SMap.get (fun _ => 0) s.zone.time.delays (s.zone.delayKey i
    n) + s.zone.ringCorrection n - q.stamp).tdiv 256 ∧ s.zone.time.waiting = none ∧ s.zone.flag pTIME TIME0.TIME_STATUS_REFUSING =
    false ∧ s.zone.tstate ≠ 0 ∧ (s.zone.tstate = 1 → s.zone.coarseWindow < o.natAbs) ∧ s.zone.slewLimit < o.natAbs ∧
    s.zone.jumpThresh < o.natAbs ∧ s.zone.time.excess + 1 < s.zone.fld pTIME TIME0.SERVO_CFG_REFUSE_COUNT :=
  ⟨(on wSvc fun z => (((((z.setFld pTIME TIME0.TIME_STATUS_STATE 2).setFld pTIME TIME0.TIME_STATUS_SOURCE_NOW 0).setFld pTIME
    TIME0.INST0_CFG_EN 1).setFld pTIME TIME0.INST0_CFG_EXT 1).setFld pTIME TIME0.INST0_CFG_SLAVE_PORT 3)), ⟨256000004096,0⟩, 0, 3,
    1000000016, by decide +kernel⟩

theorem wit_timeFollowsItsSource_5 : ∃ (s : State) (q : SourceTime) (i : Fin 2) (n : Nat) (o : Int), s.zone.logicRuns = true ∧
    s.zone.source = 0 ∧ s.zone.fld pTIME TIME0.TIME_STATUS_SOURCE_NOW ≠ 3 ∧ i = (if s.zone.fld pTIME TIME0.TIME_STATUS_SOURCE_NOW
    = 1 then 1 else 0) ∧ s.zone.slavePort i = some n ∧ o = (q.origin + SMap.get (fun _ => 0) s.zone.time.delays (s.zone.delayKey i
    n) + s.zone.ringCorrection n - q.stamp).tdiv 256 ∧ s.zone.time.waiting = none ∧ s.zone.flag pTIME TIME0.TIME_STATUS_REFUSING =
    false ∧ s.zone.tstate ≠ 0 ∧ (s.zone.tstate = 1 → s.zone.coarseWindow < o.natAbs) ∧ s.zone.slewLimit < o.natAbs ∧
    s.zone.jumpThresh < o.natAbs ∧ s.zone.fld pTIME TIME0.SERVO_CFG_REFUSE_COUNT ≤ s.zone.time.excess + 1 :=
  ⟨(on wSvc fun z =>
    { (((((z.setFld pTIME TIME0.TIME_STATUS_STATE 2).setFld pTIME TIME0.TIME_STATUS_SOURCE_NOW 0).setFld pTIME TIME0.INST0_CFG_EN 1).setFld pTIME TIME0.INST0_CFG_EXT 1).setFld pTIME TIME0.INST0_CFG_SLAVE_PORT 3) with time := { z.time with excess := 14 } }),
    ⟨256000004096,0⟩, 0, 3, 1000000016, by decide +kernel⟩

theorem wit_timeFollowsItsSource_6 : ∃ (s : State) (q : SourceTime) (i : Fin 2) (n : Nat) (o : Int) (g : Nat), s.zone.logicRuns =
    true ∧ s.zone.source = 0 ∧ s.zone.fld pTIME TIME0.TIME_STATUS_SOURCE_NOW ≠ 3 ∧ i = (if s.zone.fld pTIME
    TIME0.TIME_STATUS_SOURCE_NOW = 1 then 1 else 0) ∧ s.zone.slavePort i = some n ∧ o = (q.origin + SMap.get (fun _ => 0)
    s.zone.time.delays (s.zone.delayKey i n) + s.zone.ringCorrection n - q.stamp).tdiv 256 ∧ s.zone.time.waiting = none ∧
    s.zone.flag pTIME TIME0.TIME_STATUS_REFUSING = true ∧ g = s.zone.time.good + 1 ∧ (s.zone.jumpThresh < o.natAbs ∨ g <
    s.zone.fld pTIME TIME0.SERVO_CFG_REFUSE_COUNT) :=
  ⟨(on wSvc fun z => (((((z.setFld pTIME TIME0.TIME_STATUS_STATE 2).setFld pTIME TIME0.TIME_STATUS_SOURCE_NOW 0).setFld pTIME
    TIME0.INST0_CFG_EN 1).setFld pTIME TIME0.INST0_CFG_EXT 1).setFld pTIME TIME0.INST0_CFG_SLAVE_PORT 3).setFld pTIME
    TIME0.TIME_STATUS_REFUSING 1), ⟨256000004096,0⟩, 0, 3, 1000000016, 1, by decide +kernel⟩

theorem wit_timeFollowsItsSource_7 : ∃ (s : State) (q : SourceTime) (i : Fin 2) (n : Nat) (o : Int), s.zone.logicRuns = true ∧
    s.zone.source = 0 ∧ s.zone.fld pTIME TIME0.TIME_STATUS_SOURCE_NOW ≠ 3 ∧ i = (if s.zone.fld pTIME TIME0.TIME_STATUS_SOURCE_NOW
    = 1 then 1 else 0) ∧ s.zone.slavePort i = some n ∧ o = (q.origin + SMap.get (fun _ => 0) s.zone.time.delays (s.zone.delayKey i
    n) + s.zone.ringCorrection n - q.stamp).tdiv 256 ∧ s.zone.time.waiting = none ∧ s.zone.flag pTIME TIME0.TIME_STATUS_REFUSING =
    true ∧ o.natAbs ≤ s.zone.jumpThresh ∧ s.zone.fld pTIME TIME0.SERVO_CFG_REFUSE_COUNT ≤ s.zone.time.good + 1 ∧ s.zone.tstate = 3
    :=
  ⟨(on wSvc fun z =>
    { (((((((z.setFld pTIME TIME0.TIME_STATUS_STATE 2).setFld pTIME TIME0.TIME_STATUS_SOURCE_NOW 0).setFld pTIME TIME0.INST0_CFG_EN 1).setFld pTIME TIME0.INST0_CFG_EXT 1).setFld pTIME TIME0.INST0_CFG_SLAVE_PORT 3).setFld pTIME TIME0.TIME_STATUS_STATE 3).setFld pTIME TIME0.TIME_STATUS_REFUSING 1) with time := { z.time with net := ⟨1, 0, 0⟩, lastUsed := some 875000000, good := 14 } }),
    ⟨4096,0⟩, 0, 3, 16, by decide +kernel⟩

theorem wit_timeFollowsItsSource_8 : ∃ (s : State) (q : SourceTime) (i : Fin 2) (n : Nat) (o : Int) (y : WaitingStep),
    s.zone.logicRuns = true ∧ s.zone.source = 0 ∧ s.zone.fld pTIME TIME0.TIME_STATUS_SOURCE_NOW ≠ 3 ∧ i = (if s.zone.fld pTIME
    TIME0.TIME_STATUS_SOURCE_NOW = 1 then 1 else 0) ∧ s.zone.slavePort i = some n ∧ o = (q.origin + SMap.get (fun _ => 0)
    s.zone.time.delays (s.zone.delayKey i n) + s.zone.ringCorrection n - q.stamp).tdiv 256 ∧ s.zone.time.waiting = some y :=
  ⟨(on wSvc fun z =>
    { (((((z.setFld pTIME TIME0.TIME_STATUS_STATE 2).setFld pTIME TIME0.TIME_STATUS_SOURCE_NOW 0).setFld pTIME TIME0.INST0_CFG_EN 1).setFld pTIME TIME0.INST0_CFG_EXT 1).setFld pTIME TIME0.INST0_CFG_SLAVE_PORT 3) with time := { z.time with waiting := some ⟨7, 9⟩ } }),
    ⟨4096,0⟩, 0, 3, 16, ⟨7,9⟩, by decide +kernel⟩

theorem wit_timeFollowsItsSource_9 : ∃ (s : State) (i : Fin 2) (t : Nat), t = (if i = 0 then s.zone.time.syncAt0 else
    s.zone.time.syncAt1) ∧ 2 * s.zone.mono < 2 * t + 3 * s.zone.syncInterval i :=
  ⟨(on wSvc fun z => { z with time := { z.time with syncAt1 := 10000000000 } }), 1, 10000000000, by decide +kernel⟩

theorem wit_timeFollowsItsSource_10 : ∃ (s : State) (i : Fin 2) (t : Nat), s.zone.logicRuns = true ∧ t = (if i = 0 then
    s.zone.time.syncAt0 else s.zone.time.syncAt1) ∧ 2 * t + 3 * s.zone.syncInterval i ≤ 2 * s.zone.mono :=
  ⟨(on wSvc fun z => (z.setFld pTIME TIME0.TIME_STATUS_STATE 2).setFld pTIME TIME0.INST_STATUS_LOCKED0 1), 0, 0, by decide +kernel⟩

theorem wit_timeFollowsItsSource_11 : ∃ (s : State) (stamp : Nat), s.zone.source ≠ 1 :=
  ⟨wSvc, 9, by decide +kernel⟩

theorem wit_timeFollowsItsSource_12 : ∃ (s : State) (stamp next : Nat) (o : Int), s.zone.logicRuns = true ∧ s.zone.source = 1 ∧
    (s.zone.tstate = 2 ∨ s.zone.tstate = 3) ∧ next = s.zone.fld pTIME TIME0.PPS_NEXT_SEC_LO_SEC + s.zone.fld pTIME
    TIME0.PPS_NEXT_SEC_HI_SEC * 2 ^ 32 ∧ o = (next * 1000000000 : Nat) - (stamp + s.zone.fld pTIME TIME0.PPS_CFG_DELAY_NS : Nat) ∧
    s.zone.fld pTIME TIME0.PPS_CFG_WINDOW * 1000 < o.natAbs :=
  ⟨(on wSvc fun z => (z.setFld pTIME TIME0.TIME_STATUS_STATE 2).setFld pTIME TIME0.SERVO_CFG_SOURCE 1), 1000000000, 0,
    -1000000000, by decide +kernel⟩

theorem wit_timeFollowsItsSource_13 : ∃ (s : State) (stamp next : Nat) (o : Int), s.zone.logicRuns = true ∧ s.zone.source = 1 ∧
    next = s.zone.fld pTIME TIME0.PPS_NEXT_SEC_LO_SEC + s.zone.fld pTIME TIME0.PPS_NEXT_SEC_HI_SEC * 2 ^ 32 ∧ o = (next *
    1000000000 : Nat) - (stamp + s.zone.fld pTIME TIME0.PPS_CFG_DELAY_NS : Nat) ∧ ((s.zone.tstate ≠ 2 ∧ s.zone.tstate ≠ 3) ∨
    o.natAbs ≤ s.zone.fld pTIME TIME0.PPS_CFG_WINDOW * 1000) :=
  ⟨(on wSvc fun z =>
    { ((z.setFld pTIME TIME0.TIME_STATUS_STATE 2).setFld pTIME TIME0.SERVO_CFG_SOURCE 1).setFld pTIME TIME0.TIME_STATUS_SOURCE_NOW 2 with time := { z.time with net := ⟨1, 0, 0⟩, lastUsed := some 0 } }),
    16, 0, -16, by decide +kernel⟩

theorem wit_timeFollowsItsSource_14 : ∃ (s : State) (t : Nat), s.zone.logicRuns = true ∧ s.zone.time.ppsUsed = some t ∧
    s.zone.source = 1 ∧ t + 375000000 ≤ s.zone.mono :=
  ⟨(on wSvc fun z =>
    { (z.setFld pTIME TIME0.TIME_STATUS_STATE 2).setFld pTIME TIME0.SERVO_CFG_SOURCE 1 with time := { z.time with ppsUsed := some 9 } }),
    9, by decide +kernel⟩

theorem wit_timeFollowsItsSource_15 : ∃ (s : State), (s.zone.time.ppsUsed.all (fun t => decide (s.zone.mono < t + 375000000)) =
    true ∨ s.zone.source ≠ 1) :=
  ⟨wSvc, by decide +kernel⟩

theorem wit_timeFollowsItsSource_16 : ∃ (s : State) (port : Fin 28) (i : Fin 2) (m : PtpMessage), s.zone.time.inbox.find? (fun y
    => y.1 == port.val) = none ∧ (s.zone.portUp port.val = false ∨ 24 ≤ port.val) :=
  ⟨wSvc, 27, 0, ⟨0,.other⟩, by decide +kernel⟩

theorem wit_timeFollowsItsSource_17 : ∃ (s : State) (port : Fin 28) (i : Fin 2) (m : PtpMessage) (x : Option (Nat × List Byte)),
    s.zone.logicRuns = true ∧ x = s.zone.time.inbox.find? (fun y => y.1 == port.val) ∧ (x.isSome = true ∨ (s.zone.portUp port.val
    = true ∧ port.val < 24)) ∧ (m.body = .other ∨ (¬ (s.zone.ptpFld i TIME0.INST0_CFG_EN TIME0.INST1_CFG_EN = 1 ∧ m.domain.toNat =
    s.zone.ptpFld i TIME0.INST0_CFG_DOMAIN TIME0.INST1_CFG_DOMAIN) ∧ (s.zone.ptpFld i TIME0.INST0_CFG_EN TIME0.INST1_CFG_EN ≠ 1 ∨
    s.zone.delayKey i port.val < 64 ∨ (match m.body with | .linkDelay _ => false | _ => true) = true))) :=
  ⟨(on wSvc fun z => (z.setFld (pSWP 3) SWP.PORT_CFG_ENABLE 1).setFld (pPORT 3) PORT.PHY_STATUS_LINK 1), 3, 0, ⟨9,.other⟩, none,
    by decide +kernel⟩

theorem wit_timeFollowsItsSource_18 : ∃ (s : State) (port : Fin 28) (i : Fin 2) (m : PtpMessage) (x : Option (Nat × List Byte)) (a
    : Master) (u : Option (BitVec 16)) (id : Nat), s.zone.logicRuns = true ∧ x = s.zone.time.inbox.find? (fun y => y.1 ==
    port.val) ∧ (x.isSome = true ∨ (s.zone.portUp port.val = true ∧ port.val < 24)) ∧ (s.zone.ptpFld i TIME0.INST0_CFG_EN
    TIME0.INST1_CFG_EN = 1 ∧ m.domain.toNat = s.zone.ptpFld i TIME0.INST0_CFG_DOMAIN TIME0.INST1_CFG_DOMAIN) ∧ m.body = .announce
    a u ∧ port.val < 4 ∧ id = s.zone.fld pTIME (if i = 0 then TIME0.GM0_HI_ID else TIME0.GM1_HI_ID) * 2 ^ 32 + s.zone.fld pTIME
    (if i = 0 then TIME0.GM0_LO_ID else TIME0.GM1_LO_ID) :=
  ⟨(on wSvc fun z => ((((z.setFld (pSWP 3) SWP.PORT_CFG_ENABLE 1).setFld (pPORT 3) PORT.PHY_STATUS_LINK 1).setFld pTIME
    TIME0.INST0_CFG_EN 1).setFld pTIME TIME0.INST0_CFG_EXT 1).setFld pTIME TIME0.INST0_CFG_SLAVE_PORT 3), 3, 0, ⟨0,.announce
    ⟨1,2,3,0xFFFFFFFFFFFFFFFF,4,5⟩ (some 37)⟩, none, ⟨1,2,3,0xFFFFFFFFFFFFFFFF,4,5⟩, (some 37), 0, by decide +kernel⟩

theorem wit_timeFollowsItsSource_19 : ∃ (s : State) (port : Fin 28) (i : Fin 2) (m : PtpMessage) (x : Option (Nat × List Byte))
    (og st : Int) (n t k : Nat), s.zone.logicRuns = true ∧ x = s.zone.time.inbox.find? (fun y => y.1 == port.val) ∧ (x.isSome =
    true ∨ (s.zone.portUp port.val = true ∧ port.val < 24)) ∧ (s.zone.ptpFld i TIME0.INST0_CFG_EN TIME0.INST1_CFG_EN = 1 ∧
    m.domain.toNat = s.zone.ptpFld i TIME0.INST0_CFG_DOMAIN TIME0.INST1_CFG_DOMAIN) ∧ m.body = .syncFollowUp og st ∧
    s.zone.slavePort i = some port.val ∧ n = (if i = 0 then s.zone.time.syncs0 else s.zone.time.syncs1) ∧ t = (if i = 0 then
    s.zone.time.syncAt0 else s.zone.time.syncAt1) ∧ k = (if n = 0 ∨ 2 * t + 3 * s.zone.syncInterval i ≤ 2 * s.zone.mono then 1
    else if 2 * s.zone.mono < 2 * t + s.zone.syncInterval i then n else min 3 (n + 1)) :=
  ⟨(on wSvc fun z =>
    { ((((z.setFld (pSWP 3) SWP.PORT_CFG_ENABLE 1).setFld (pPORT 3) PORT.PHY_STATUS_LINK 1).setFld pTIME TIME0.INST0_CFG_EN 1).setFld pTIME TIME0.INST0_CFG_EXT 1).setFld pTIME TIME0.INST0_CFG_SLAVE_PORT 3 with time := { z.time with syncs0 := 2, syncAt0 := 9940000000 } }),
    3, 0, ⟨0,.syncFollowUp 9 8⟩, none, 9, 8, 2, 9940000000, 1, by decide +kernel⟩

theorem wit_timeFollowsItsSource_20 : ∃ (s : State) (port : Fin 28) (i : Fin 2) (m : PtpMessage) (x : Option (Nat × List Byte)) (d
    : Int), s.zone.logicRuns = true ∧ x = s.zone.time.inbox.find? (fun y => y.1 == port.val) ∧ (x.isSome = true ∨ (s.zone.portUp
    port.val = true ∧ port.val < 24)) ∧ m.body = .linkDelay d ∧ ((s.zone.ptpFld i TIME0.INST0_CFG_EN TIME0.INST1_CFG_EN = 1 ∧
    m.domain.toNat = s.zone.ptpFld i TIME0.INST0_CFG_DOMAIN TIME0.INST1_CFG_DOMAIN) ∨ (s.zone.ptpFld i TIME0.INST0_CFG_EN
    TIME0.INST1_CFG_EN = 1 ∧ 64 ≤ s.zone.delayKey i port.val)) :=
  ⟨(on wSvc fun z => ((((z.setFld (pSWP 3) SWP.PORT_CFG_ENABLE 1).setFld (pPORT 3) PORT.PHY_STATUS_LINK 1).setFld pTIME
    TIME0.INST0_CFG_EN 1).setFld pTIME TIME0.INST0_CFG_EXT 1).setFld pTIME TIME0.INST0_CFG_SLAVE_PORT 3), 3, 0, ⟨0,.linkDelay 9⟩,
    none, 9, by decide +kernel⟩

theorem wit_timeFollowsItsSource_21 : ∃ (s : State) (port : Fin 28) (i : Fin 2) (m : PtpSend), s.zone.logicRuns = true ∧
    s.zone.sendingClass port.val = none ∧
    (match m.kind with | .linkDelay => decide (s.zone.ptpRole i port.val ≠ .off) | .announce => decide (s.zone.ptpRole i port.val = .master) | _ => decide (s.zone.ptpRole i port.val = .master ∧ (s.zone.source ≠ 0 ∨ (s.zone.slavePort i).isSome = true)))
    = true :=
  ⟨(on wSvc fun z => ((z.setFld (pSWP 23) SWP.PORT_CFG_ENABLE 1).setFld (pPORT 23) PORT.PHY_STATUS_LINK 1).setFld pTIME
    TIME0.INST0_CFG_EN 1), 23, 0, ⟨.linkDelay,0x7FF⟩, by decide +kernel⟩

theorem wit_timeFollowsItsSource_22 : ∃ (s : State) (port : Fin 28) (i : Fin 2) (m : PtpSend), (s.zone.sendingClass port.val ≠
    none ∨ s.zone.ptpRole i port.val = .off ∨ (m.kind ≠ .linkDelay ∧ s.zone.ptpRole i port.val ≠ .master) ∨ ((m.kind = .sync ∨
    m.kind = .followUp) ∧ s.zone.source = 0 ∧ s.zone.slavePort i = none)) :=
  ⟨wSvc, 23, 0, ⟨.sync,0x7FF⟩, by decide +kernel⟩

theorem wit_timeFollowsItsSource_23 : ∃ (s : State) (ticks : Nat) (bad : Bool), s.zone.logicRuns = true ∧ (bad = true ∨
    s.zone.time.net ≠ s.zone.time.copy ∨ ticks < 249750 ∨ 250250 < ticks) :=
  ⟨wSvc, 250251, false, by decide +kernel⟩

theorem wit_timeFollowsItsSource_24 : ∃ (s : State) (ticks : Nat), s.zone.time.net = s.zone.time.copy ∧ 249750 ≤ ticks ∧ ticks ≤
    250250 :=
  ⟨wSvc, 250250, by decide +kernel⟩

theorem wit_timeFollowsItsSource_25 : ∃ (s : State) (writer : Writer) (port : Fin 28) (e : TsqEntry) (l : List TsqEntry),
    s.zone.writerActs writer = true ∧ s.zone.mayConfigure writer = true ∧ s.zone.tsQueue port.val = e :: l ∧ l.length ≤ 16 :=
  ⟨(on wSvc fun z => { z with tsq := [(27, [⟨1, 2, 3, 4⟩])] }), (.firmware secureSrc), 27, ⟨1,2,3,4⟩, [], by decide +kernel⟩

theorem wit_timeFollowsItsSource_26 : ∃ (s : State) (writer : Writer) (port : Fin 28), (s.zone.mayConfigure writer = false ∨
    s.zone.tsQueue port.val = []) :=
  ⟨wSvc, (.keeper .B), 27, by decide +kernel⟩

theorem wit_timeFollowsItsSource_27 : ∃ (s : State) (writer : Writer), s.zone.writerActs writer = true ∧ s.zone.mayConfigure
    writer = true :=
  ⟨wSvc, (.firmware secureSrc), by decide +kernel⟩

theorem wit_timeFollowsItsSource_28 : ∃ (s : State) (writer : Writer), s.zone.mayConfigure writer = false :=
  ⟨wSvc, (.keeper .B), by decide +kernel⟩

theorem wit_timeFollowsItsSource_29 : ∃ (s : State) (writer : Writer) (v : BitVec 2), (s.zone.mayConfigure writer = false ∨
    s.zone.locked pTIME = true ∨ v = 3 ∨ s.zone.source = v.toNat) :=
  ⟨wSvc, (.keeper .A), 3, by decide +kernel⟩

theorem wit_timeFollowsItsSource_30 : ∃ (s : State) (writer : Writer), s.zone.writerActs writer = true ∧ s.zone.mayConfigure
    writer = true ∧ s.zone.locked pTIME = false ∧ s.zone.source ≠ 2 :=
  ⟨wSvc, (.keeper .A), by decide +kernel⟩

theorem wit_timeFollowsItsSource_31 : ∃ (s : State) (writer : Writer) (v : BitVec 2) (b : Nat), s.zone.writerActs writer = true ∧
    s.zone.mayConfigure writer = true ∧ s.zone.locked pTIME = false ∧ v.toNat < 2 ∧ s.zone.source ≠ v.toNat ∧ b = (if
    s.zone.tstate = 4 then s.zone.time.base else s.zone.tstate) ∧ b < 5 :=
  ⟨(on wSvc fun z => ({ z with time := { z.time with base := 3 } }.setFld pTIME TIME0.TIME_STATUS_STATE 4).setFld pTIME
    TIME0.SERVO_CFG_SOURCE 2), (.keeper .A), 1, 3, by decide +kernel⟩

theorem wit_timeFollowsItsSource_32 : ∃ (s : State) (w : WaitingStep), s.zone.logicRuns = true ∧ s.zone.time.waiting = some w ∧
    w.due ≤ s.zone.mono :=
  ⟨(on wSvc fun z => { z with time := { z.time with waiting := some ⟨7, 9⟩ } }), ⟨7,9⟩, by decide +kernel⟩

theorem wit_timeFollowsItsSource_33 : ∃ (s : State), s.zone.time.waiting.all (fun w => decide (s.zone.mono < w.due)) = true :=
  ⟨wSvc, by decide +kernel⟩

theorem wit_globalOperationsExecuteAtTheirTime_1 : ∃ (s : State) (k : Nat), s.zone.dueSlot = some k :=
  ⟨(on wBnd fun z => z.setSlotWord 15 1 0x10004), 15, by decide +kernel⟩

theorem wit_globalOperationsExecuteAtTheirTime_3 : ∃ (s : State) (k : Nat), (s.zone.mode = Mode.service ∨ s.zone.mode = Mode.test)
    ∧ s.zone.dueSlot = some k ∧ s.zone.slotKind k = 4 :=
  ⟨(on wBnd fun z => (z.setSlotWord 15 5 3).setSlotWord 15 1 0x10004), 15, by decide +kernel⟩

theorem wit_globalOperationsExecuteAtTheirTime_4 : ∃ (s : State) (k : Nat), (s.zone.mode = Mode.service ∨ s.zone.mode = Mode.test)
    ∧ s.zone.dueSlot = some k ∧ s.zone.slotKind k = 5 :=
  ⟨(on wBnd fun z => (z.setSlotWord 15 5 15).setSlotWord 15 1 0x10005), 15, by decide +kernel⟩

theorem wit_globalOperationsExecuteAtTheirTime_5 : ∃ (s : State) (k : Nat) (n : Fin 256), (s.zone.mode = Mode.service ∨
    s.zone.mode = Mode.test) ∧ s.zone.dueSlot = some k ∧ s.zone.slotKind k = 2 :=
  ⟨(on wBnd fun z =>
    { (z.setSlotWord 15 5 15).setSlotWord 15 1 0x10002 with keyring := { z.keyring with slots := [(255, ⟨0x1F040000, [1], 1, 0, some ([2], 3), none⟩)] } }),
    15, 255, by decide +kernel⟩

theorem wit_globalOperationsExecuteAtTheirTime_6 : ∃ (s : State) (k : Nat) (n : Fin 64), (s.zone.mode = Mode.service ∨ s.zone.mode
    = Mode.test) ∧ s.zone.dueSlot = some k ∧ s.zone.slotKind k = 1 :=
  ⟨(on wLog fun z => z.setSlotWord 15 1 0x10001), 15, 63, by decide +kernel⟩

theorem wit_globalOperationsExecuteAtTheirTime_7 : ∃ (s : State) (k : Nat), (s.zone.mode = Mode.service ∨ s.zone.mode = Mode.test)
    ∧ s.zone.dueSlot = some k ∧ s.zone.slotKind k = 3 :=
  ⟨(on wBnd fun z => z.setSlotWord 15 1 0x10003), 15, by decide +kernel⟩

theorem wit_globalOperationsExecuteAtTheirTime_2 : ∃ (s : State) (c : Instr) (n : Nat),
    (c = .globalLogSnapshot ∧ n = 1 ∨ c = .globalKeyRoll ∧ n = 2 ∨ c = .globalReset ∧ n = 3 ∨ c = .globalProfile ∧ n = 4 ∨
      c = .globalTableMark ∧ n = 5) ∧
    ((s.zone.mode ≠ .service ∧ s.zone.mode ≠ .test) ∨ s.zone.dueSlot.all (fun k => decide (s.zone.slotKind k ≠ n)) = true) :=
  ⟨wBnd, .globalReset, 3, by decide +kernel⟩


/-! ### CAN, LIN and RS-485 -/

theorem wit_canFramesAreReceivedIntoTheirRing_1 : ∃ (s : State) (ch : Fin 16) (fr : CanFrame) (ticks : Nat), s.zone.logicRuns =
    true ∧ s.zone.canBus ch.val = true ∧ s.zone.canBusOff ch.val = false ∧ (fr.format = 1 → s.zone.flag (pCAN ch.val)
    CAN.CHAN_CFG_FD_EN = true) ∧ (fr.format = 2 → s.zone.flag (pCAN ch.val) CAN.CHAN_CFG_XL_EN = true) ∧ (s.zone.flag (pCAN
    ch.val) CAN.CHAN_CFG_ACCEPT_ALL = true ∨ (List.range 32).any (fun k => s.zone.canFilter ch.val k fr) = true) ∧
    (s.zone.ringKind ch.val = 0 ∨ fr.data.length + 32 ≤ s.zone.entrySize ch.val) :=
  ⟨(on wSvc fun z => ((z.setFld (pCAN 15) CAN.CHAN_CFG_EN 1).setFld (pCAN 15) CAN.CHAN_CFG_ACCEPT_ALL 1).setFld (pCAN 15)
    CAN.RX_CFG_OWNER_KIND 2), 15,
    ({ format := 0, ide := false, rtr := false, brs := false, esi := false, dlc := 2, ident := 0x7FF, sdt := 0, vcid := 0, sec := false, af := 0, data := [1, 2] }
    : CanFrame), 0, by decide +kernel⟩

theorem wit_canFramesAreReceivedIntoTheirRing_2 : ∃ (s : State) (ch : Fin 16) (fr : CanFrame) (ticks : Nat), s.zone.logicRuns =
    true ∧ s.zone.canBus ch.val = true ∧ s.zone.canBusOff ch.val = false ∧ (fr.format = 1 → s.zone.flag (pCAN ch.val)
    CAN.CHAN_CFG_FD_EN = true) ∧ (fr.format = 2 → s.zone.flag (pCAN ch.val) CAN.CHAN_CFG_XL_EN = true) ∧ (s.zone.flag (pCAN
    ch.val) CAN.CHAN_CFG_ACCEPT_ALL = true ∨ (List.range 32).any (fun k => s.zone.canFilter ch.val k fr) = true) ∧ s.zone.ringKind
    ch.val = 2 ∧ s.zone.ringHeld ch.val < 256 ∧ s.zone.busQuiesced ch.val = false ∧ fr.data.length ≤ 64 :=
  ⟨(on wSvc fun z => (((z.setFld (pCAN 15) CAN.CHAN_CFG_EN 1).setFld (pCAN 15) CAN.CHAN_CFG_ACCEPT_ALL 1).setFld (pCAN 15)
    CAN.RX_CFG_OWNER_KIND 2).setFld (pCAN 15) CAN.RX_PTRS_FILL 255), 15,
    ({ format := 0, ide := false, rtr := false, brs := false, esi := false, dlc := 2, ident := 0x7FF, sdt := 0, vcid := 0, sec := false, af := 0, data := [1, 2] }
    : CanFrame), 0, by decide +kernel⟩

theorem wit_canFramesAreReceivedIntoTheirRing_3 : ∃ (s : State) (ch : Fin 16) (fr : CanFrame) (ticks : Nat), s.zone.logicRuns =
    true ∧ s.zone.canBus ch.val = true ∧ s.zone.canBusOff ch.val = false ∧ (fr.format = 1 → s.zone.flag (pCAN ch.val)
    CAN.CHAN_CFG_FD_EN = true) ∧ (fr.format = 2 → s.zone.flag (pCAN ch.val) CAN.CHAN_CFG_XL_EN = true) ∧ ¬ (s.zone.flag (pCAN
    ch.val) CAN.CHAN_CFG_ACCEPT_ALL = true ∨ (List.range 32).any (fun k => s.zone.canFilter ch.val k fr) = true) :=
  ⟨(on wSvc fun z => z.setFld (pCAN 15) CAN.CHAN_CFG_EN 1), 15,
    ({ format := 0, ide := false, rtr := false, brs := false, esi := false, dlc := 2, ident := 0x7FF, sdt := 0, vcid := 0, sec := false, af := 0, data := [1, 2] }
    : CanFrame), 0, by decide +kernel⟩

theorem wit_canFramesAreReceivedIntoTheirRing_4 : ∃ (s : State) (ch : Fin 16) (fr : CanFrame) (ticks : Nat), s.zone.logicRuns =
    true ∧ s.zone.canBus ch.val = true ∧ s.zone.canBusOff ch.val = false ∧ (fr.format = 1 → s.zone.flag (pCAN ch.val)
    CAN.CHAN_CFG_FD_EN = true) ∧ (fr.format = 2 → s.zone.flag (pCAN ch.val) CAN.CHAN_CFG_XL_EN = true) ∧ (s.zone.flag (pCAN
    ch.val) CAN.CHAN_CFG_ACCEPT_ALL = true ∨ (List.range 32).any (fun k => s.zone.canFilter ch.val k fr) = true) ∧ s.zone.ringKind
    ch.val ≠ 0 ∧ s.zone.entrySize ch.val < fr.data.length + 32 :=
  ⟨(on wSvc fun z => ((z.setFld (pCAN 15) CAN.CHAN_CFG_EN 1).setFld (pCAN 15) CAN.CHAN_CFG_ACCEPT_ALL 1).setFld (pCAN 15)
    CAN.RX_CFG_OWNER_KIND 2), 15,
    { ({ format := 0, ide := false, rtr := false, brs := false, esi := false, dlc := 2, ident := 0x7FF, sdt := 0, vcid := 0, sec := false, af := 0, data := [1, 2] } : CanFrame) with data := List.replicate 65 7 },
    0, by decide +kernel⟩

theorem wit_canFramesAreReceivedIntoTheirRing_5 : ∃ (s : State) (ch : Fin 16) (fr : CanFrame) (ticks : Nat), s.zone.logicRuns =
    true ∧ s.zone.canBus ch.val = true ∧ s.zone.canBusOff ch.val = false ∧ ((fr.format = 1 ∧ s.zone.flag (pCAN ch.val)
    CAN.CHAN_CFG_FD_EN = false) ∨ (fr.format = 2 ∧ s.zone.flag (pCAN ch.val) CAN.CHAN_CFG_XL_EN = false)) :=
  ⟨(on wSvc fun z => z.setFld (pCAN 15) CAN.CHAN_CFG_EN 1), 15,
    { ({ format := 0, ide := false, rtr := false, brs := false, esi := false, dlc := 2, ident := 0x7FF, sdt := 0, vcid := 0, sec := false, af := 0, data := [1, 2] } : CanFrame) with format := 2 },
    0, by decide +kernel⟩

theorem wit_canFramesAreReceivedIntoTheirRing_6 : ∃ (s : State) (ch : Fin 16) (fr : CanFrame) (ticks : Nat) (e : CanFlag),
    (s.zone.logicRuns = false ∨ s.zone.canBus ch.val = false ∨ s.zone.canBusOff ch.val = true) :=
  ⟨wSvc, 15,
    ({ format := 0, ide := false, rtr := false, brs := false, esi := false, dlc := 2, ident := 0x7FF, sdt := 0, vcid := 0, sec := false, af := 0, data := [1, 2] }
    : CanFrame), 0, ⟨true,0⟩, by decide +kernel⟩

theorem wit_canFramesAreReceivedIntoTheirRing_7 : ∃ (s : State) (ch : Fin 16) (fr : CanFrame) (ticks : Nat) (e : CanFlag),
    (s.zone.logicRuns = false ∨ s.zone.canBus ch.val = false ∨ s.zone.canBusOff ch.val = true) :=
  ⟨wSvc, 15,
    ({ format := 0, ide := false, rtr := false, brs := false, esi := false, dlc := 2, ident := 0x7FF, sdt := 0, vcid := 0, sec := false, af := 0, data := [1, 2] }
    : CanFrame), 0, ⟨true,0⟩, by decide +kernel⟩

theorem wit_canFramesAreReceivedIntoTheirRing_8 : ∃ (s : State) (c : Fin 24) (mk : Nat → List Byte), s.zone.ringKind c.val = 2 ∧
    s.zone.ringHeld c.val ≠ Zone.ringSize c.val ∧ s.zone.busQuiesced c.val = false :=
  ⟨(on wSvc fun z => (z.setFld (pSER 7) LIN.RX_CFG_OWNER_KIND 2).setFld (pSER 7) LIN.RX_PTRS_FILL 63), 23, (fun n => [BitVec.ofNat
    8 n]), by decide +kernel⟩

theorem wit_canFramesAreReceivedIntoTheirRing_9 : ∃ (s : State) (c : Fin 24) (mk : Nat → List Byte), s.zone.ringKind c.val = 1 ∧
    s.zone.ringHeld c.val ≠ Zone.ringSize c.val ∧ s.zone.busQuiesced c.val = false :=
  ⟨(on wSvc fun z => z.setFld (pSER 7) LIN.RX_CFG_OWNER_KIND 1), 23, (fun n => [BitVec.ofNat 8 n]), by decide +kernel⟩

theorem wit_canFramesAreReceivedIntoTheirRing_10 : ∃ (s : State) (c : Fin 24) (mk : Nat → List Byte), (s.zone.busQuiesced c.val =
    true ∨ (s.zone.ringKind c.val ≠ 0 ∧ s.zone.ringHeld c.val = Zone.ringSize c.val)) :=
  ⟨(on wSvc fun z => (z.setFld (pSER 7) LIN.RX_CFG_OWNER_KIND 2).setFld (pSER 7) LIN.RX_PTRS_FILL 64), 23, (fun n => [BitVec.ofNat
    8 n]), by decide +kernel⟩

theorem wit_canFramesAreReceivedIntoTheirRing_11 : ∃ (s : State) (c : Fin 24) (mk : Nat → List Byte), s.zone.busQuiesced c.val =
    false ∧ s.zone.ringKind c.val = 0 :=
  ⟨wSvc, 23, (fun n => [BitVec.ofNat 8 n]), by decide +kernel⟩

theorem wit_canFramesAreReceivedIntoTheirRing_12 : ∃ (s : State) (q : Fin 24), s.zone.logicRuns = true ∧ s.zone.ringKind q.val = 1
    ∧ (s.zone.ring q.val).noticeDue = true ∧ ((s.zone.ring q.val).noticeAt).all (fun t => decide (t + s.zone.fld (Zone.busPage
    q.val) (Zone.ringNotice q.val) * 250 ≤ s.zone.mono)) = true :=
  ⟨(on wSvc fun z => ((z.setFld (pSER 7) LIN.RX_CFG_OWNER_KIND 1).setRing 23
    { RingSt.init with noticeDue := true, noticeAt := some 9 }).wr (pHINGE 2 + 0xD00 + 4 * 23) 0x7E0007FF), 23, by decide +kernel⟩

theorem wit_canFramesAreReceivedIntoTheirRing_13 : ∃ (s : State) (q : Fin 24) (hart : Fin 8) (i : Fin 7) (n : BitVec 11),
    s.zone.logicRuns = true ∧ s.zone.ringKind q.val = 1 ∧ (s.zone.ring q.val).noticeDue = true ∧ ((s.zone.ring
    q.val).noticeAt).all (fun t => decide (t + s.zone.fld (Zone.busPage q.val) (Zone.ringNotice q.val) * 250 ≤ s.zone.mono)) =
    true ∧ (s.zone.rd (pHINGE 2 + 0xD00 + 4 * q.val)).toNat = 2 ^ 30 + hart.val * 2 ^ 27 + i.val * 2 ^ 24 + n.toNat ∧ n ≠ 0 :=
  ⟨(on wSvc fun z => ((z.setFld (pSER 7) LIN.RX_CFG_OWNER_KIND 1).setRing 23
    { RingSt.init with noticeDue := true, noticeAt := some 9 }).wr (pHINGE 2 + 0xD00 + 4 * 23) 0x7E0007FF), 23, 7, 6, 0x7FF, by
    decide +kernel⟩

theorem wit_canFramesAreReceivedIntoTheirRing_14 : ∃ (s : State) (q : Fin 24), (s.zone.logicRuns = false ∨ s.zone.ringKind q.val ≠
    1 ∨ (s.zone.ring q.val).noticeDue = false ∨ ((s.zone.ring q.val).noticeAt).any (fun t => decide (s.zone.mono < t + s.zone.fld
    (Zone.busPage q.val) (Zone.ringNotice q.val) * 250)) = true) :=
  ⟨wSvc, 23, by decide +kernel⟩

theorem wit_canFramesAreReceivedIntoTheirRing_15 : ∃ (s : State) (q : Fin 24) (writer : Writer) (v : BitVec 9), s.zone.writerActs
    writer = true ∧ s.zone.ringOwnedBy q.val writer = true ∧ v.toNat < 2 * Zone.ringSize q.val ∧ (v.toNat + 2 * Zone.ringSize
    q.val - s.zone.ackPtr q.val) % (2 * Zone.ringSize q.val) ≤ s.zone.ringHeld q.val :=
  ⟨(on wSvc fun z => (z.setFld (pCAN 15) CAN.RX_CFG_OWNER_KIND 2).setFld (pCAN 15) CAN.RX_PTRS_FILL 256), 15, (.keeper .B), 256,
    by decide +kernel⟩

theorem wit_canFramesAreReceivedIntoTheirRing_16 : ∃ (s : State) (q : Fin 24) (writer : Writer) (v : BitVec 9), s.zone.writerActs
    writer = true ∧ (s.zone.ringOwnedBy q.val writer = false ∨ 2 * Zone.ringSize q.val ≤ v.toNat ∨ s.zone.ringHeld q.val <
    (v.toNat + 2 * Zone.ringSize q.val - s.zone.ackPtr q.val) % (2 * Zone.ringSize q.val)) :=
  ⟨(on wSvc fun z => (z.setFld (pCAN 15) CAN.RX_CFG_OWNER_KIND 2).setFld (pCAN 15) CAN.RX_PTRS_FILL 255), 15, (.keeper .B), 256,
    by decide +kernel⟩

theorem wit_canFramesAreReceivedIntoTheirRing_17 : ∃ (s : State) (q : Fin 24) (writer : Writer) (v : BitVec 9), s.zone.writerActs
    writer = false :=
  ⟨State.reset, 23, (.firmware secureSrc), 0, by decide +kernel⟩

theorem wit_canFramesAreReceivedIntoTheirRing_18 : ∃ (s : State) (ch : Fin 16) (e : CanFlag) (tec rcv : Nat), s.zone.logicRuns =
    true ∧ s.zone.canBus ch.val = true ∧ s.zone.canBusOff ch.val = false ∧ tec = s.zone.canTec ch.val ∧ rcv = s.zone.canRec ch.val
    + 1 + (if e.dominant then 8 else 0) + 8 * e.extra :=
  ⟨(on wSvc fun z => (z.setFld (pCAN 15) CAN.CHAN_CFG_EN 1).setFld (pCAN 15) CAN.CHAN_STATUS_REC 118), 15, ⟨true,0⟩, 0, 127, by
    decide +kernel⟩

theorem wit_canTransmissionsEndOnceWithTheirCause_1 : ∃ (s : State) (ch : Fin 16) (k : Keeper) (n : Fin 128) (v : BitVec 4) (arg :
    Word), s.zone.logicRuns = true ∧ (ch.val ≠ 0 ∨ s.zone.mode ≠ Mode.lightship) ∧ v.toNat < 4 ∧ s.zone.canOn ch.val = true ∧
    s.zone.canListen ch.val = false ∧ s.zone.canBusOff ch.val = false ∧ (if v.toNat.testBit 0 then arg.toNat = 0 else arg.toNat ≤
    63) ∧ s.zone.canSendable ch.val (s.zone.canSource ch.val (v.toNat.testBit 0) arg.toNat).1 (if v.toNat.testBit 0 ∨ arg.toNat <
    56 then 64 else 2048) = true ∧ Zone.canCount (s.zone.can ch.val) < 8 :=
  ⟨(on wTicket fun z => (z.setFld (pCAN 15) CAN.CHAN_CFG_EN 1).busWrite (Zone.composeAddr 15) (List.replicate 96 0)), 15, .A, 127,
    3, 0, by decide +kernel⟩

theorem wit_canTransmissionsEndOnceWithTheirCause_2 : ∃ (s : State) (ch : Fin 16) (k : Keeper) (n : Fin 128) (w : BitVec 4) (arg :
    Word) (st v : Nat), s.zone.logicRuns = true ∧ (ch.val ≠ 0 ∨ s.zone.mode ≠ Mode.lightship) ∧ st = 1 ∧ v = (if 4 ≤ w.toNat then
    0xFF else if s.zone.canOn ch.val = false ∨ s.zone.canListen ch.val = true then 0xF14 else if s.zone.canBusOff ch.val = true
    then 0xF11 else if (if w.toNat.testBit 0 then arg.toNat ≠ 0 else 63 < arg.toNat) ∨ s.zone.canSendable ch.val (s.zone.canSource
    ch.val (w.toNat.testBit 0) arg.toNat).1 (if w.toNat.testBit 0 ∨ arg.toNat < 56 then 64 else 2048) = false then 0xF12 else if 8
    ≤ Zone.canCount (s.zone.can ch.val) then 0xF13 else 0) ∧ v ≠ 0 :=
  ⟨wTicket, 15, .A, 127, 3, 0, 1, 0xF14, by decide +kernel⟩

theorem wit_canTransmissionsEndOnceWithTheirCause_3 : ∃ (s : State) (k : Keeper) (n : Fin 128) (w : BitVec 4) (arg : Word) (st v :
    Nat), s.zone.logicRuns = true ∧ s.zone.mode = Mode.lightship ∧ st = 5 ∧ v = 0 :=
  ⟨(on wTicket fun z => z.setFld (pZONE 0) ZONE0.STATE_CURRENT 4), .A, 127, 3, 0, 5, 0, by decide +kernel⟩

theorem wit_canTransmissionsEndOnceWithTheirCause_4 : ∃ (s : State) (k : Keeper) (n : Fin 128) (st v : Nat), s.zone.logicRuns =
    true ∧ s.zone.mode = Mode.lightship ∧ st = 5 ∧ v = 0 :=
  ⟨(on wTicket fun z => z.setFld (pZONE 0) ZONE0.STATE_CURRENT 4), .A, 127, 5, 0, by decide +kernel⟩

theorem wit_canTransmissionsEndOnceWithTheirCause_5 : ∃ (s : State) (k : Keeper) (n : Fin 128) (st v : Nat), s.zone.logicRuns =
    true ∧ s.zone.mode = Mode.lightship ∧ st = 5 ∧ v = 0 :=
  ⟨(on wTicket fun z => z.setFld (pZONE 0) ZONE0.STATE_CURRENT 4), .A, 127, 5, 0, by decide +kernel⟩

theorem wit_canTransmissionsEndOnceWithTheirCause_6 : ∃ (s : State) (ch : Fin 16) (q : CanPend) (l m : List CanPend),
    s.zone.logicRuns = true ∧ s.zone.canBus ch.val = true ∧ s.zone.canListen ch.val = false ∧ s.zone.canBusOff ch.val = false ∧
    (s.zone.can ch.val).active = none ∧ s.zone.tmGuarded ch.val = false ∧ (s.zone.can ch.val).pend = l ++ q :: m ∧ (∀ x ∈ l,
    canPriority q.frame < canPriority x.frame) ∧ (∀ x ∈ m, canPriority q.frame ≤ canPriority x.frame) :=
  ⟨(on wSvc fun z => (z.setFld (pCAN 15) CAN.CHAN_CFG_EN 1).setCan 15
    { CanSt.init with pend := [⟨canOfBytes (leBytes 4 9), false, none, 1, false⟩, ⟨canOfBytes (leBytes 4 8), false, none, 2, false⟩, ⟨canOfBytes (leBytes 4 8), true, none, 3, false⟩] }),
    15, ⟨canOfBytes (leBytes 4 8), false, none, 2, false⟩, [⟨canOfBytes (leBytes 4 9), false, none, 1, false⟩], [⟨canOfBytes
    (leBytes 4 8), true, none, 3, false⟩], by decide +kernel⟩

theorem wit_canTransmissionsEndOnceWithTheirCause_7 : ∃ (s : State) (ch : Fin 16), (s.zone.logicRuns = false ∨ s.zone.canBus
    ch.val = false ∨ s.zone.canListen ch.val = true ∨ s.zone.canBusOff ch.val = true ∨ (s.zone.can ch.val).active ≠ none ∨
    s.zone.tmGuarded ch.val = true ∨ (s.zone.can ch.val).pend = []) :=
  ⟨(on wSvc fun z => (z.setFld (pCAN 15) CAN.CHAN_CFG_EN 1)), 15, by decide +kernel⟩

theorem wit_canTransmissionsEndOnceWithTheirCause_8 : ∃ (s : State) (ch : Fin 16) (e : CanEnd), (s.zone.logicRuns = false ∨
    (s.zone.can ch.val).active = none) :=
  ⟨wSvc, 15, .ok, by decide +kernel⟩

theorem wit_canTransmissionsEndOnceWithTheirCause_9 : ∃ (s : State) (ch : Fin 16) (q : CanPend) (sof : Nat) (tec rcv : Nat),
    s.zone.logicRuns = true ∧ (s.zone.can ch.val).active = some (q, sof) ∧ tec = s.zone.canTec ch.val - 1 ∧ rcv = s.zone.canRec
    ch.val :=
  ⟨(on wTicket fun z => z.setCan 15
    { CanSt.init with active := some (⟨canOfBytes (leBytes 4 9), false, some ⟨.A, 127, 1⟩, 1, false⟩, 0xFFFFFFFFFFFFFFFF), ackRun := 3 }),
    15, ⟨canOfBytes (leBytes 4 9), false, some ⟨.A, 127, 1⟩, 1, false⟩, 0xFFFFFFFFFFFFFFFF, 0, 0, by decide +kernel⟩

theorem wit_canTransmissionsEndOnceWithTheirCause_10 : ∃ (s : State) (ch : Fin 16) (q : CanPend) (sof : Nat), s.zone.logicRuns =
    true ∧ (s.zone.can ch.val).active = some (q, sof) ∧ q.again = true :=
  ⟨(on wTicket fun z => z.setCan 15
    { CanSt.init with active := some (⟨canOfBytes (leBytes 4 9), true, some ⟨.A, 127, 1⟩, 1, false⟩, 5) }), 15, ⟨canOfBytes
    (leBytes 4 9), true, some ⟨.A, 127, 1⟩, 1, false⟩, 5, by decide +kernel⟩

theorem wit_canTransmissionsEndOnceWithTheirCause_11 : ∃ (s : State) (ch : Fin 16) (q : CanPend) (sof : Nat), s.zone.logicRuns =
    true ∧ (s.zone.can ch.val).active = some (q, sof) ∧ q.again = false :=
  ⟨(on wTicket fun z => z.setCan 15
    { CanSt.init with active := some (⟨canOfBytes (leBytes 4 9), false, some ⟨.A, 127, 1⟩, 1, false⟩, 5) }), 15, ⟨canOfBytes
    (leBytes 4 9), false, some ⟨.A, 127, 1⟩, 1, false⟩, 5, by decide +kernel⟩

theorem wit_canTransmissionsEndOnceWithTheirCause_12 : ∃ (s : State) (ch : Fin 16) (q : CanPend) (sof : Nat) (cause : Fin 4)
    (field : Fin 6) (e : CanFlag) (tec rcv v : Nat) (dup : Bool), s.zone.logicRuns = true ∧ (s.zone.can ch.val).active = some (q,
    sof) ∧ dup = decide (cause.val = 0 ∧ 1 ≤ field.val ∧ field.val ≤ 3) ∧ v = cause.val + 2 + field.val * 256 + (if dup then 4096
    else 0) ∧ rcv = s.zone.canRec ch.val ∧ tec = s.zone.canTec ch.val + (if (cause.val = 3 ∧ s.zone.fld (pCAN ch.val)
    CAN.CHAN_STATUS_ERR_STATE = 1 ∧ e.dominant = false) ∨ (cause.val = 1 ∧ field.val = 0) then 0 else 8) + 8 * e.extra :=
  ⟨(on wTicket fun z => (z.setFld (pCAN 15) CAN.CHAN_STATUS_TEC 240).setCan 15
    { CanSt.init with active := some (⟨canOfBytes (leBytes 4 9), false, some ⟨.A, 127, 1⟩, 1, false⟩, 5), pend := [⟨canOfBytes (leBytes 4 7), false, some ⟨.A, 126, 1⟩, 1, false⟩] }),
    15, ⟨canOfBytes (leBytes 4 9), false, some ⟨.A, 127, 1⟩, 1, false⟩, 5, 0, 3, ⟨true,1⟩, 256, 0, 4866, true, by decide +kernel⟩

theorem wit_canTransmissionsEndOnceWithTheirCause_13 : ∃ (s : State) (ch : Fin 16) (l : List CanPend), s.zone.logicRuns = true ∧ l
    = (s.zone.can ch.val).pend.filter (fun p => decide (p.at_ + s.zone.fld (pCAN ch.val) CAN.CHAN_CFG_TX_EXPIRE * 2500 ≤
    s.zone.mono)) :=
  ⟨(on wTicket fun z => z.setCan 15
    { CanSt.init with pend := [⟨canOfBytes (leBytes 4 9), true, some ⟨.A, 127, 1⟩, 1, false⟩, ⟨canOfBytes (leBytes 4 9), true, some ⟨.A, 126, 1⟩, 99999999999, false⟩] }),
    15, [⟨canOfBytes (leBytes 4 9), true, some ⟨.A, 127, 1⟩, 1, false⟩], by decide +kernel⟩

theorem wit_canTransmissionsEndOnceWithTheirCause_14 : ∃ (s : State) (ch : Fin 16) (k : Keeper) (n : Fin 128), s.zone.logicRuns =
    true ∧ (ch.val ≠ 0 ∨ s.zone.mode ≠ Mode.lightship) ∧ s.zone.canBusOff ch.val = true :=
  ⟨(on wTicket fun z => z.setFld (pCAN 15) CAN.CHAN_STATUS_ERR_STATE 2), 15, .A, 127, by decide +kernel⟩

theorem wit_canTransmissionsEndOnceWithTheirCause_15 : ∃ (s : State) (ch : Fin 16) (k : Keeper) (n : Fin 128) (st v : Nat),
    s.zone.logicRuns = true ∧ (ch.val ≠ 0 ∨ s.zone.mode ≠ Mode.lightship) ∧ s.zone.canBusOff ch.val = false ∧ st = 1 ∧ v = 1 :=
  ⟨wTicket, 15, .A, 127, 1, 1, by decide +kernel⟩

theorem wit_canTransmissionsEndOnceWithTheirCause_16 : ∃ (s : State) (ch : Fin 16), s.zone.logicRuns = true ∧ s.zone.canBus ch.val
    = true ∧ s.zone.canBusOff ch.val = true ∧ (s.zone.can ch.val).recovering = true :=
  ⟨(on wTicket fun z => ((z.setFld (pCAN 15) CAN.CHAN_STATUS_ERR_STATE 2).setFld (pCAN 15) CAN.CHAN_CFG_EN 1).setCan 15
    { CanSt.init with recovers := [(⟨.A, 127, 1⟩, 9)], recovering := true }), 15, by decide +kernel⟩

theorem wit_canTransmissionsEndOnceWithTheirCause_17 : ∃ (s : State) (ch : Fin 16), (s.zone.logicRuns = false ∨ s.zone.canBus
    ch.val = false ∨ s.zone.canBusOff ch.val = false ∨ (s.zone.can ch.val).recovering = false) :=
  ⟨wSvc, 15, by decide +kernel⟩

theorem wit_canTransmissionsEndOnceWithTheirCause_18 : ∃ (s : State) (ch : Fin 16) (l : List TicketRef), s.zone.logicRuns = true ∧
    l = ((s.zone.can ch.val).recovers.filter (fun r => decide (r.2 + 250000000 ≤ s.zone.mono))).map (·.1) :=
  ⟨(on wTicket fun z => (z.setFld (pCAN 15) CAN.CHAN_STATUS_ERR_STATE 2).setCan 15
    { CanSt.init with recovers := [(⟨.A, 127, 1⟩, 9)], recovering := true }), 15, [⟨.A,127,1⟩], by decide +kernel⟩

theorem wit_canTransmissionsEndOnceWithTheirCause_19 : ∃ (s : State) (ch : Fin 16) (k : Keeper) (n : Fin 128) (st v : Nat),
    s.zone.logicRuns = true ∧ (ch.val ≠ 0 ∨ s.zone.mode ≠ Mode.lightship) ∧ st = 0 ∧ v = (s.zone.can ch.val).pend.length :=
  ⟨(on wTicket fun z => z.setCan 15 { CanSt.init with pend := [⟨canOfBytes (leBytes 4 9), true, none, 1, false⟩] }), 15, .A, 127,
    0, 1, by decide +kernel⟩

theorem wit_canTransmissionsEndOnceWithTheirCause_20 : ∃ (s : State) (ch : Fin 16) (k : Keeper) (n : Fin 128), s.zone.logicRuns =
    false :=
  ⟨(wMode 6), 15, .A, 127, by decide +kernel⟩

theorem wit_canTransmissionsEndOnceWithTheirCause_21 : ∃ (s : State) (ch : Fin 16) (k : Keeper) (n : Fin 128), s.zone.logicRuns =
    false :=
  ⟨(wMode 6), 15, .A, 127, by decide +kernel⟩

theorem wit_canTransmissionsEndOnceWithTheirCause_22 : ∃ (s : State) (c4 : Fin 4) (pos : Nat), s.zone.logicRuns = true ∧
    s.zone.flag (pCAN c4.val) CAN.TM_CFG_EN = true ∧ s.zone.time.stopped = false ∧ pos = Zone.gatePos (s.zone.fld (pCAN c4.val)
    CAN.TM_CYCLE_US * 1000) (s.zone.fld (pCAN c4.val) CAN.TM_OFFSET_US * 1000) s.zone.nowNs ∧ pos * 2 ^ 32 +
    s.zone.time.net.frac.toNat < s.zone.inc ∧ (s.zone.can c4.val).lastRef ≠ some (s.zone.nowNs - pos) ∧ s.zone.canBus c4.val =
    true ∧ s.zone.canListen c4.val = false ∧ s.zone.canBusOff c4.val = false ∧ (s.zone.can c4.val).active = none :=
  ⟨(on wSvc fun z => ((z.setFld (pCAN 3) CAN.TM_CFG_EN 1).setFld (pCAN 3) CAN.CHAN_CFG_EN 1).setFld (pCAN 3) CAN.TM_CYCLE_US
    1000), 3, 0, by decide +kernel⟩

theorem wit_canTransmissionsEndOnceWithTheirCause_23 : ∃ (s : State) (c4 : Fin 4) (pos : Nat) (idle : Bool), s.zone.logicRuns =
    true ∧ s.zone.flag (pCAN c4.val) CAN.TM_CFG_EN = true ∧ s.zone.time.stopped = false ∧ pos = Zone.gatePos (s.zone.fld (pCAN
    c4.val) CAN.TM_CYCLE_US * 1000) (s.zone.fld (pCAN c4.val) CAN.TM_OFFSET_US * 1000) s.zone.nowNs ∧ pos * 2 ^ 32 +
    s.zone.time.net.frac.toNat < s.zone.inc ∧ (s.zone.can c4.val).lastRef ≠ some (s.zone.nowNs - pos) ∧ (idle = false ∨
    s.zone.canBus c4.val = false ∨ s.zone.canListen c4.val = true ∨ s.zone.canBusOff c4.val = true ∨ (s.zone.can c4.val).active ≠
    none) :=
  ⟨(on wSvc fun z => (z.setFld (pCAN 3) CAN.TM_CFG_EN 1).setFld (pCAN 3) CAN.TM_CYCLE_US 1000), 3, 0, true, by decide +kernel⟩

theorem wit_canTransmissionsEndOnceWithTheirCause_24 : ∃ (s : State) (c4 : Fin 4) (pos : Nat) (idle : Bool), pos = Zone.gatePos
    (s.zone.fld (pCAN c4.val) CAN.TM_CYCLE_US * 1000) (s.zone.fld (pCAN c4.val) CAN.TM_OFFSET_US * 1000) s.zone.nowNs ∧
    (s.zone.logicRuns = false ∨ s.zone.flag (pCAN c4.val) CAN.TM_CFG_EN = false ∨ s.zone.time.stopped = true ∨ s.zone.inc ≤ pos *
    2 ^ 32 + s.zone.time.net.frac.toNat ∨ (s.zone.can c4.val).lastRef = some (s.zone.nowNs - pos)) :=
  ⟨wSvc, 3, 0, true, by decide +kernel⟩

theorem wit_linFramesRunFromHeaderToResponse_1 : ∃ (s : State) (ch : Fin 6) (k : Keeper) (n : Fin 128) (arg : Word) (i : Nat),
    s.zone.logicRuns = true ∧ s.zone.linOn ch.val = true ∧ (s.zone.lin ch.val).cur = none ∧ (s.zone.lin ch.val).pulse = none ∧
    s.zone.linResponder ch.val = false ∧ i = arg.toNat % 64 ∧ i < 0x3E :=
  ⟨(on wTicket fun z => z.setFld (pSER 5) LIN.LIN_CFG_EN 1), 5, .A, 127, 0x3D, 0x3D, by decide +kernel⟩

theorem wit_linFramesRunFromHeaderToResponse_2 : ∃ (s : State) (ch : Fin 6) (k : Keeper) (n : Fin 128) (arg : Word) (idle : Bool)
    (st v : Nat), s.zone.logicRuns = true ∧ st = 1 ∧ v = (if s.zone.linOn ch.val = false then 0x12 else if s.zone.linResponder
    ch.val = true then 0x13 else if idle = false ∨ (s.zone.lin ch.val).cur.isSome ∨ (s.zone.lin ch.val).pulse.isSome then 6 else
    if 0x3E ≤ arg.toNat % 64 then 7 else 0) ∧ v ≠ 0 :=
  ⟨(on wTicket fun z => z.setFld (pSER 5) LIN.LIN_CFG_EN 1), 5, .A, 127, 0x3F, true, 1, 7, by decide +kernel⟩

theorem wit_linFramesRunFromHeaderToResponse_3 : ∃ (s : State) (ch : Fin 6) (e : LinEnd) (l : List Byte), (s.zone.logicRuns =
    false ∨ (s.zone.lin ch.val).cur = none) :=
  ⟨wTicket, 5, (.framing []), [], by decide +kernel⟩

theorem wit_linFramesRunFromHeaderToResponse_4 : ∃ (s : State) (ch : Fin 6) (e : LinEnd) (l : List Byte), (s.zone.logicRuns =
    false ∨ (s.zone.lin ch.val).cur = none) :=
  ⟨wTicket, 5, (.framing []), [], by decide +kernel⟩

theorem wit_linFramesRunFromHeaderToResponse_5 : ∃ (s : State) (ch : Fin 6) (hd : LinHeader) (data : List Byte) (sum : Byte) (d :
    List Byte), s.zone.logicRuns = true ∧ (s.zone.lin ch.val).cur = some hd ∧ hd.action = 2 ∧ s.zone.mono ≤ hd.start +
    Zone.linFrameMax hd ∧ hd.length ≤ data.length ∧ d = data.take hd.length :=
  ⟨(on wTicket fun z =>
    { (z.setFld (pSER 5) LIN.RX_CFG_OWNER_KIND 2).setLin 5 ⟨some (⟨0x10, some ⟨.A, 127, 1⟩, 0, 0, 13021, 0, 2, 2, false, []⟩ : LinHeader), none⟩ with mono := 14 * 64 * 13021 / 10 }),
    5, (⟨0x10, some ⟨.A, 127, 1⟩, 0, 0, 13021, 0, 2, 2, false, []⟩ : LinHeader), [0xFF, 1], 0xFE, [0xFF, 1], by decide +kernel⟩

theorem wit_linFramesRunFromHeaderToResponse_6 : ∃ (s : State) (ch : Fin 6) (hd : LinHeader) (e : LinEnd) (l : List Byte),
    s.zone.logicRuns = true ∧ (s.zone.lin ch.val).cur = some hd ∧ hd.action = 2 ∧ (Zone.linFrameMax hd + hd.start < s.zone.mono ∨
    (match e with | .complete data _ => decide (data.length < hd.length) | _ => false) = true) :=
  ⟨(on wTicket fun z => (z.setFld (pSER 5) LIN.RX_CFG_OWNER_KIND 2).setLin 5 ⟨some (⟨0x10, some ⟨.A, 127, 1⟩, 0, 0, 13021, 0, 2,
    2, false, []⟩ : LinHeader), none⟩), 5, (⟨0x10, some ⟨.A, 127, 1⟩, 0, 0, 13021, 0, 2, 2, false, []⟩ : LinHeader), (.complete
    [1] 2), [], by decide +kernel⟩

theorem wit_linFramesRunFromHeaderToResponse_7 : ∃ (s : State) (ch : Fin 6) (hd : LinHeader) (data : List Byte) (sum : Byte),
    s.zone.logicRuns = true ∧ (s.zone.lin ch.val).cur = some hd ∧ hd.action ≠ 2 :=
  ⟨(on wTicket fun z => z.setLin 5 ⟨some
    { (⟨0x10, some ⟨.A, 127, 1⟩, 0, 0, 13021, 0, 2, 2, false, []⟩ : LinHeader) with action := 1, bytes := [1, 2] }, none⟩), 5,
    { (⟨0x10, some ⟨.A, 127, 1⟩, 0, 0, 13021, 0, 2, 2, false, []⟩ : LinHeader) with action := 1, bytes := [1, 2] }, [1, 2], 0xFC,
    by decide +kernel⟩

theorem wit_linFramesRunFromHeaderToResponse_8 : ∃ (s : State) (ch : Fin 6) (hd : LinHeader) (d l : List Byte), s.zone.logicRuns =
    true ∧ (s.zone.lin ch.val).cur = some hd ∧ (hd.action ≠ 2 ∨ s.zone.mono ≤ hd.start + Zone.linFrameMax hd) ∧ d = (if hd.action
    = 1 then hd.bytes.take l.length else l.take hd.length) :=
  ⟨(on wTicket fun z => z.setLin 5 ⟨some
    { (⟨0x10, some ⟨.A, 127, 1⟩, 0, 0, 13021, 0, 2, 2, false, []⟩ : LinHeader) with action := 1, bytes := [1, 2] }, none⟩), 5,
    { (⟨0x10, some ⟨.A, 127, 1⟩, 0, 0, 13021, 0, 2, 2, false, []⟩ : LinHeader) with action := 1, bytes := [1, 2] }, [1], [9], by
    decide +kernel⟩

theorem wit_linFramesRunFromHeaderToResponse_9 : ∃ (s : State) (ch : Fin 6) (hd : LinHeader) (d l : List Byte), s.zone.logicRuns =
    true ∧ (s.zone.lin ch.val).cur = some hd ∧ (hd.action ≠ 2 ∨ s.zone.mono ≤ hd.start + Zone.linFrameMax hd) ∧ d = (if hd.action
    = 1 then hd.bytes.take l.length else l.take hd.length) :=
  ⟨(on wTicket fun z => z.setLin 5 ⟨some
    { (⟨0x10, some ⟨.A, 127, 1⟩, 0, 0, 13021, 0, 2, 2, false, []⟩ : LinHeader) with action := 1, bytes := [1, 2] }, none⟩), 5,
    { (⟨0x10, some ⟨.A, 127, 1⟩, 0, 0, 13021, 0, 2, 2, false, []⟩ : LinHeader) with action := 1, bytes := [1, 2] }, [1], [9], by
    decide +kernel⟩

theorem wit_linFramesRunFromHeaderToResponse_10 : ∃ (s : State) (ch : Fin 6) (hd : LinHeader) (l : List Byte), s.zone.logicRuns =
    true ∧ (s.zone.lin ch.val).cur = some hd ∧ hd.action = 2 ∧ hd.start + Zone.linFrameMax hd ≤ s.zone.mono :=
  ⟨(on wTicket fun z => (z.setFld (pSER 5) LIN.RX_CFG_OWNER_KIND 2).setLin 5 ⟨some (⟨0x10, some ⟨.A, 127, 1⟩, 0, 0, 13021, 0, 2,
    2, false, []⟩ : LinHeader), none⟩), 5, (⟨0x10, some ⟨.A, 127, 1⟩, 0, 0, 13021, 0, 2, 2, false, []⟩ : LinHeader), [], by
    decide +kernel⟩

theorem wit_linFramesRunFromHeaderToResponse_11 : ∃ (s : State) (ch : Fin 6) (hd : LinHeader) (l : List Byte), s.zone.logicRuns =
    true ∧ (s.zone.lin ch.val).cur = some hd ∧ (hd.action ≠ 2 ∨ s.zone.mono < hd.start + Zone.linFrameMax hd) :=
  ⟨(on wTicket fun z => z.setLin 5 ⟨some
    { (⟨0x10, some ⟨.A, 127, 1⟩, 0, 0, 13021, 0, 2, 2, false, []⟩ : LinHeader) with action := 1 }, none⟩), 5,
    { (⟨0x10, some ⟨.A, 127, 1⟩, 0, 0, 13021, 0, 2, 2, false, []⟩ : LinHeader) with action := 1 }, [], by decide +kernel⟩

theorem wit_linFramesRunFromHeaderToResponse_12 : ∃ (s : State) (ch : Fin 6) (hd : LinHeader) (check : Nat) (data : List Byte)
    (kind : Nat) (kept : Bool), s.zone.ringKind (16 + ch.val) ≠ 1 ∧ kind = (if hd.action = 2 then 0 else if hd.action = 1 then 1
    else 2) ∧ kept = (decide (hd.action = 2) || s.zone.linResponder ch.val) :=
  ⟨(on wTicket fun z => (z.setFld (pSER 5) LIN.RX_CFG_OWNER_KIND 2).setLin 5 ⟨some (⟨0x10, some ⟨.A, 127, 1⟩, 0, 0, 13021, 0, 2,
    2, false, []⟩ : LinHeader), none⟩), 5, (⟨0x10, some ⟨.A, 127, 1⟩, 0, 0, 13021, 0, 2, 2, false, []⟩ : LinHeader), 0xFE, [0xFF,
    1], 0, true, by decide +kernel⟩

theorem wit_linFramesRunFromHeaderToResponse_13 : ∃ (s : State) (ch : Fin 6) (hd : LinHeader) (cause bytes check : Nat) (data :
    List Byte) (kind : Nat), s.zone.ringKind (16 + ch.val) ≠ 1 ∧ kind = (if hd.action = 2 then 0 else if hd.action = 1 then 1 else
    2) :=
  ⟨(on wTicket fun z => (z.setFld (pSER 5) LIN.RX_CFG_OWNER_KIND 2).setLin 5 ⟨some (⟨0x10, some ⟨.A, 127, 1⟩, 0, 0, 13021, 0, 2,
    2, false, []⟩ : LinHeader), none⟩), 5, (⟨0x10, some ⟨.A, 127, 1⟩, 0, 0, 13021, 0, 2, 2, false, []⟩ : LinHeader), 5, 1, 0,
    [0xFF], 0, by decide +kernel⟩

theorem wit_linFramesRunFromHeaderToResponse_14 : ∃ (s : State) (sh : LinShort) (p : Nat) (y : Zone) (d : List Byte) (hd :
    LinHeader), s.zone.logicRuns = true ∧ p = pSER sh.channel.val ∧ s.zone.linOn sh.channel.val = true ∧ y = (s.zone.setFld p
    LIN.LIN_STATUS_BUS_SHORT 1).event p LIN.LIN_EVENT_BUS_SHORT ∧ (s.zone.lin sh.channel.val).cur = some hd ∧ d = (if hd.action =
    1 then hd.bytes.take sh.done.length else sh.done.take hd.length) :=
  ⟨(on wTicket fun z => (z.setFld (pSER 5) LIN.LIN_CFG_EN 1).setLin 5 ⟨some (⟨0x10, some ⟨.A, 127, 1⟩, 0, 0, 13021, 0, 2, 2,
    false, []⟩ : LinHeader), none⟩), ⟨5,[7]⟩, (pSER 5), (((on wTicket fun z => (z.setFld (pSER 5) LIN.LIN_CFG_EN 1).setLin 5 ⟨some
    (⟨0x10, some ⟨.A, 127, 1⟩, 0, 0, 13021, 0, 2, 2, false, []⟩ : LinHeader), none⟩).zone.setFld (pSER 5) LIN.LIN_STATUS_BUS_SHORT
    1).event (pSER 5) LIN.LIN_EVENT_BUS_SHORT), [7], (⟨0x10, some ⟨.A, 127, 1⟩, 0, 0, 13021, 0, 2, 2, false, []⟩ : LinHeader), by
    decide +kernel⟩

theorem wit_linFramesRunFromHeaderToResponse_15 : ∃ (s : State) (sh : LinShort) (p : Nat), s.zone.logicRuns = true ∧ p = pSER
    sh.channel.val ∧ s.zone.linOn sh.channel.val = true ∧ (s.zone.lin sh.channel.val).cur = none :=
  ⟨(on wTicket fun z => z.setFld (pSER 5) LIN.LIN_CFG_EN 1), ⟨5,[]⟩, (pSER 5), by decide +kernel⟩

theorem wit_linFramesRunFromHeaderToResponse_16 : ∃ (s : State) (sh : LinShort), (s.zone.logicRuns = false ∨ s.zone.linOn
    sh.channel.val = false) :=
  ⟨wTicket, ⟨5,[]⟩, by decide +kernel⟩

theorem wit_linFramesRunFromHeaderToResponse_17 : ∃ (s : State) (ch : Fin 6) (k : Keeper) (n : Fin 128), s.zone.logicRuns = true ∧
    s.zone.linOn ch.val = true ∧ (s.zone.lin ch.val).cur = none ∧ (s.zone.lin ch.val).pulse = none :=
  ⟨(on wTicket fun z => z.setFld (pSER 5) LIN.LIN_CFG_EN 1), 5, .A, 127, by decide +kernel⟩

theorem wit_linFramesRunFromHeaderToResponse_18 : ∃ (s : State) (ch : Fin 6) (k : Keeper) (n : Fin 128) (idle : Bool) (st v :
    Nat), s.zone.logicRuns = true ∧ st = 1 ∧ v = (if s.zone.linOn ch.val = false then 0x12 else if idle = false ∨ (s.zone.lin
    ch.val).cur.isSome ∨ (s.zone.lin ch.val).pulse.isSome then 6 else 0) ∧ v ≠ 0 :=
  ⟨(on wTicket fun z => z.setFld (pSER 5) LIN.LIN_CFG_EN 1), 5, .A, 127, false, 1, 6, by decide +kernel⟩

theorem wit_linFramesRunFromHeaderToResponse_19 : ∃ (s : State) (ch : Fin 6) (r : TicketRef) (t st v : Nat), s.zone.logicRuns =
    true ∧ (s.zone.lin ch.val).pulse = some (r, t) ∧ t + 250000 ≤ s.zone.mono ∧ st = 0 ∧ v = 0 :=
  ⟨(on wTicket fun z => z.setLin 5 ⟨none, some (⟨.A, 127, 1⟩, 9)⟩), 5, ⟨.A,127,1⟩, 9, 0, 0, by decide +kernel⟩

theorem wit_linFramesRunFromHeaderToResponse_20 : ∃ (s : State) (ch : Fin 6), (s.zone.logicRuns = false ∨ (s.zone.lin
    ch.val).pulse.all (fun x => decide (s.zone.mono < x.2 + 250000)) = true) :=
  ⟨wTicket, 5, by decide +kernel⟩

theorem wit_linFramesRunFromHeaderToResponse_21 : ∃ (s : State) (ch : Fin 6) (i : Fin 64) (y : LinSync), s.zone.logicRuns = true ∧
    s.zone.linOn ch.val = true ∧ s.zone.linResponder ch.val = true ∧ 100 * y.bitTicks ≤ 114 * s.zone.linDiv ch.val ∧ 86 *
    s.zone.linDiv ch.val ≤ 100 * y.bitTicks ∧ (s.zone.lin ch.val).cur = none ∧ (s.zone.linHeader ch.val i.val none (s.zone.mono -
    y.sinceBreak) y.bitTicks s.zone.mono).action ≠ 0 :=
  ⟨(on wTicket fun z => ((z.setFld (pSER 5) LIN.LIN_CFG_EN 1).setFld (pSER 5) LIN.LIN_CFG_ROLE 1).setFld (pSER 5)
    (LIN.RESP_ENTRY_ACTION.nth 4 61) 2), 5, 61, ⟨13021,400000⟩, by decide +kernel⟩

theorem wit_linFramesRunFromHeaderToResponse_22 : ∃ (s : State) (ch : Fin 6) (i : Fin 64) (y : LinSync), s.zone.logicRuns = true ∧
    s.zone.linOn ch.val = true ∧ s.zone.linResponder ch.val = true ∧ 100 * y.bitTicks ≤ 114 * s.zone.linDiv ch.val ∧ 86 *
    s.zone.linDiv ch.val ≤ 100 * y.bitTicks ∧ (s.zone.lin ch.val).cur = none ∧ (s.zone.linHeader ch.val i.val none (s.zone.mono -
    y.sinceBreak) y.bitTicks s.zone.mono).action = 0 :=
  ⟨(on wTicket fun z => ((z.setFld (pSER 5) LIN.LIN_CFG_EN 1).setFld (pSER 5) LIN.LIN_CFG_ROLE 1)), 5, 63, ⟨13021,400000⟩, by
    decide +kernel⟩

theorem wit_linFramesRunFromHeaderToResponse_23 : ∃ (s : State) (ch : Fin 6) (i : Fin 64) (y : LinSync) (hd : LinHeader),
    s.zone.logicRuns = true ∧ s.zone.linOn ch.val = true ∧ s.zone.linResponder ch.val = true ∧ 100 * y.bitTicks ≤ 114 *
    s.zone.linDiv ch.val ∧ 86 * s.zone.linDiv ch.val ≤ 100 * y.bitTicks ∧ (s.zone.lin ch.val).cur = some hd ∧ s.zone.ringKind (16
    + ch.val) ≠ 1 :=
  ⟨(on wTicket fun z => (((z.setFld (pSER 5) LIN.LIN_CFG_EN 1).setFld (pSER 5) LIN.LIN_CFG_ROLE 1).setFld (pSER 5)
    (LIN.RESP_ENTRY_ACTION.nth 4 61) 2).setLin 5 ⟨some
    { (⟨0x10, some ⟨.A, 127, 1⟩, 0, 0, 13021, 0, 2, 2, false, []⟩ : LinHeader) with ticket := none }, none⟩), 5, 61,
    ⟨13021,400000⟩, { (⟨0x10, some ⟨.A, 127, 1⟩, 0, 0, 13021, 0, 2, 2, false, []⟩ : LinHeader) with ticket := none }, by
    decide +kernel⟩

theorem wit_linFramesRunFromHeaderToResponse_24 : ∃ (s : State) (ch : Fin 6) (i : Fin 64) (parity : Bool) (y : LinSync),
    (s.zone.logicRuns = false ∨ s.zone.linOn ch.val = false ∨ s.zone.linResponder ch.val = false ∨ parity = false ∨ 114 *
    s.zone.linDiv ch.val < 100 * y.bitTicks ∨ 100 * y.bitTicks < 86 * s.zone.linDiv ch.val) :=
  ⟨wTicket, 5, 61, true, ⟨13021,400000⟩, by decide +kernel⟩

theorem wit_linFramesRunFromHeaderToResponse_25 : ∃ (s : State) (ch : Fin 6) (us : Nat), s.zone.logicRuns = true ∧ s.zone.linOn
    ch.val = true ∧ (s.zone.lin ch.val).cur = none ∧ 150 ≤ us ∧ us ≤ 5000 :=
  ⟨(on wTicket fun z => (z.setFld (pSER 5) LIN.LIN_CFG_EN 1).setFld (pSER 5) LIN.RX_CFG_OWNER_KIND 2), 5, 5000, by decide +kernel⟩

theorem wit_linFramesRunFromHeaderToResponse_26 : ∃ (s : State) (ch : Fin 6) (us : Nat), s.zone.logicRuns = true ∧ s.zone.linOn
    ch.val = true ∧ (s.zone.lin ch.val).cur = none ∧ 150 ≤ us ∧ us ≤ 5000 ∧ s.zone.ringKind (16 + ch.val) = 2 ∧ s.zone.ringHeld
    (16 + ch.val) < 64 ∧ s.zone.busQuiesced (16 + ch.val) = false :=
  ⟨(on wTicket fun z => (z.setFld (pSER 5) LIN.LIN_CFG_EN 1).setFld (pSER 5) LIN.RX_CFG_OWNER_KIND 2), 5, 5000, by decide +kernel⟩

theorem wit_linFramesRunFromHeaderToResponse_27 : ∃ (s : State) (ch : Fin 6) (us : Nat), (s.zone.logicRuns = false ∨ s.zone.linOn
    ch.val = false ∨ (s.zone.lin ch.val).cur ≠ none ∨ us < 150 ∨ 5000 < us) :=
  ⟨wTicket, 5, 5000, by decide +kernel⟩

theorem wit_rs485SendsAndReceivesPackets_1 : ∃ (s : State) (ch : Fin 2) (k : Keeper) (n : Fin 128) (arg : Word), s.zone.logicRuns
    = true ∧ s.zone.serOn ch.val = true ∧ 1 ≤ (s.zone.serBuffer ch.val (arg.toNat % 16)).1 ∧ (s.zone.serBuffer ch.val (arg.toNat %
    16)).1 ≤ 256 ∧ (s.zone.ser ch.val).pend.length < 4 :=
  ⟨(on wTicket fun z => (z.setFld (Zone.serPage 1) SER.SER_CFG_EN 1).busWrite (Zone.serBufAddr 1 15) ([2] ++ List.replicate 20
    0)), 1, .A, 127, 15, by decide +kernel⟩

theorem wit_rs485SendsAndReceivesPackets_2 : ∃ (s : State) (ch : Fin 2) (k : Keeper) (n : Fin 128) (arg : Word) (st v : Nat),
    s.zone.logicRuns = true ∧ st = 1 ∧ v = (if s.zone.serOn ch.val = false then 0x12 else if (s.zone.serBuffer ch.val (arg.toNat %
    16)).1 = 0 ∨ 256 < (s.zone.serBuffer ch.val (arg.toNat % 16)).1 then 3 else if 4 ≤ (s.zone.ser ch.val).pend.length then 4 else
    0) ∧ v ≠ 0 :=
  ⟨wTicket, 1, .A, 127, 15, 1, 0x12, by decide +kernel⟩

theorem wit_rs485SendsAndReceivesPackets_3 : ∃ (s : State) (ch : Fin 2) (k : Keeper) (n : Fin 128) (st v : Nat), s.zone.logicRuns
    = true ∧ st = 0 ∧ v = 0 :=
  ⟨(on wTicket fun z => z.setSer 1 { SerSt.init with pend := [⟨[1, 2], ⟨.A, 126, 1⟩, 9⟩] }), 1, .A, 127, 0, 0, by decide +kernel⟩

theorem wit_rs485SendsAndReceivesPackets_4 : ∃ (s : State) (ch : Fin 2) (q : SerPend) (l : List SerPend), s.zone.logicRuns = true
    ∧ (s.zone.ser ch.val).pend = q :: l ∧ s.zone.serOn ch.val = true ∧ s.zone.serLineIdle ch.val = true ∧ (s.zone.ser
    ch.val).chars = [] :=
  ⟨(on wTicket fun z => (z.setFld (Zone.serPage 1) SER.SER_CFG_EN 1).setSer 1
    { SerSt.init with pend := [⟨[1, 2], ⟨.A, 127, 1⟩, 9⟩] }), 1, ⟨[1, 2], ⟨.A, 127, 1⟩, 9⟩, [], by decide +kernel⟩

theorem wit_rs485SendsAndReceivesPackets_5 : ∃ (s : State) (ch : Fin 2), (s.zone.logicRuns = false ∨ (s.zone.ser ch.val).pend = []
    ∨ s.zone.serOn ch.val = false ∨ s.zone.serLineIdle ch.val = false ∨ (s.zone.ser ch.val).chars ≠ []) :=
  ⟨wTicket, 1, by decide +kernel⟩

theorem wit_rs485SendsAndReceivesPackets_6 : ∃ (s : State) (ch : Fin 2) (t : SerSend) (st v : Nat) (r : TicketRef),
    s.zone.logicRuns = true ∧ (s.zone.ser ch.val).cur = some t ∧ r = t.item.ticket ∧ (s.zone.ser ch.val).lastAt.all (fun a =>
    decide (a + s.zone.fld (Zone.serPage ch.val) SER.SER_TIMING_TX_TAIL * s.zone.serDiv ch.val ≤ s.zone.mono)) = true ∧
    (t.collided = true ∨ t.item.data.length ≤ t.done) ∧ st = (if t.collided then 1 else 0) ∧ v = (if t.collided then 1 else
    t.item.data.length) :=
  ⟨(on wTicket fun z => z.setSer 1 { SerSt.init with cur := some ⟨⟨[1, 2], ⟨.A, 127, 1⟩, 9⟩, 2, false⟩ }), 1, ⟨⟨[1, 2], ⟨.A, 127,
    1⟩, 9⟩, 2, false⟩, 0, 2, ⟨.A,127,1⟩, by decide +kernel⟩

theorem wit_rs485SendsAndReceivesPackets_7 : ∃ (s : State) (ch : Fin 2), (s.zone.logicRuns = false ∨ (s.zone.ser ch.val).cur =
    none ∨ (s.zone.ser ch.val).lastAt.any (fun a => decide (s.zone.mono < a + s.zone.fld (Zone.serPage ch.val)
    SER.SER_TIMING_TX_TAIL * s.zone.serDiv ch.val)) = true ∨ (s.zone.ser ch.val).cur.all (fun t => !t.collided && decide (t.done <
    t.item.data.length)) = true) :=
  ⟨wTicket, 1, by decide +kernel⟩

theorem wit_rs485SendsAndReceivesPackets_8 : ∃ (s : State) (ch : Fin 2) (l : List TicketRef), s.zone.logicRuns = true ∧ l =
    ((s.zone.ser ch.val).pend.filter (fun p => decide (p.at_ + s.zone.fld (Zone.serPage ch.val) SER.SER_EXPIRE_WAIT * 2500 ≤
    s.zone.mono))).map (·.ticket) :=
  ⟨(on wTicket fun z => z.setSer 1 { SerSt.init with pend := [⟨[1, 2], ⟨.A, 127, 1⟩, 9⟩] }), 1, [⟨.A,127,1⟩], by decide +kernel⟩

theorem wit_rs485SendsAndReceivesPackets_9 : ∃ (s : State) (ch : Fin 2) (k : Keeper) (n : Fin 128), s.zone.logicRuns = false :=
  ⟨(wMode 6), 1, .A, 127, by decide +kernel⟩

theorem wit_rs485SendsAndReceivesPackets_10 : ∃ (s : State) (ch : Fin 2) (value v : Byte) (pb fb : Bool) (held : Nat),
    s.zone.logicRuns = true ∧ (s.zone.ser ch.val).cur = none ∧ s.zone.serOn ch.val = true ∧ v = (if s.zone.flag (Zone.serPage
    ch.val) SER.SER_CFG_DATA7 then value &&& 0x7F else value) ∧ (s.zone.ser ch.val).chars.length < 256 ∧ held = 0 :=
  ⟨(on wTicket fun z => z.setFld (Zone.serPage 1) SER.SER_CFG_EN 1), 1, 0xFF, 0xFF, true, false, 0, by decide +kernel⟩

theorem wit_rs485SendsAndReceivesPackets_11 : ∃ (s : State) (ch : Fin 2) (value v : Byte) (pb fb : Bool) (held : Nat) (y : SerSt)
    (e : Bool), s.zone.logicRuns = true ∧ (s.zone.ser ch.val).cur = none ∧ s.zone.serOn ch.val = true ∧ v = (if s.zone.flag
    (Zone.serPage ch.val) SER.SER_CFG_DATA7 then value &&& 0x7F else value) ∧ e = decide (256 ≤ (s.zone.ser ch.val).chars.length)
    ∧ y = (if e then { (s.zone.ser ch.val) with chars := [], parity := 0, framing := 0 } else (s.zone.ser ch.val)) ∧
    s.zone.ringKind (22 + ch.val) = 2 ∧ s.zone.ringHeld (22 + ch.val) < 63 ∧ s.zone.busQuiesced (22 + ch.val) = false ∧ (e = true
    ∨ 0 < held) :=
  ⟨(on wTicket fun z => (z.setFld (Zone.serPage 1) SER.SER_CFG_EN 1).setFld (Zone.serPage 1) LIN.RX_CFG_OWNER_KIND 2), 1, 0xFF,
    0xFF, true, false, 7, SerSt.init, false, by decide +kernel⟩

theorem wit_rs485SendsAndReceivesPackets_12 : ∃ (s : State) (ch : Fin 2) (value v : Byte) (pb fb : Bool) (held : Nat) (t :
    SerSend), s.zone.logicRuns = true ∧ (s.zone.ser ch.val).cur = some t ∧ t.collided = false ∧ t.done < t.item.data.length ∧ v =
    (if s.zone.flag (Zone.serPage ch.val) SER.SER_CFG_DATA7 then value &&& 0x7F else value) :=
  ⟨(on wTicket fun z => z.setSer 1 { SerSt.init with cur := some ⟨⟨[1, 2], ⟨.A, 127, 1⟩, 9⟩, 1, false⟩ }), 1, 0xFF, 0xFF, false,
    false, 0, ⟨⟨[1, 2], ⟨.A, 127, 1⟩, 9⟩, 1, false⟩, by decide +kernel⟩

theorem wit_rs485SendsAndReceivesPackets_13 : ∃ (s : State) (ch : Fin 2) (value : Byte) (pb fb : Bool) (held : Nat),
    (s.zone.logicRuns = false ∨ ((s.zone.ser ch.val).cur = none ∧ s.zone.serOn ch.val = false) ∨ (s.zone.ser ch.val).cur.any (fun
    t => t.collided || decide (t.item.data.length ≤ t.done)) = true) :=
  ⟨wTicket, 1, 0xFF, false, false, 0, by decide +kernel⟩

theorem wit_rs485SendsAndReceivesPackets_14 : ∃ (s : State) (ch : Fin 2), s.zone.logicRuns = true ∧ (s.zone.ser ch.val).chars ≠ []
    ∧ (s.zone.ser ch.val).lastAt.any (fun t => decide (t + s.zone.fld (Zone.serPage ch.val) SER.SER_TIMING_GAP * s.zone.serBits
    ch.val * s.zone.serDiv ch.val / 2 ≤ s.zone.mono)) = true :=
  ⟨(on wTicket fun z => (z.setFld (Zone.serPage 1) LIN.RX_CFG_OWNER_KIND 2).setSer 1
    { SerSt.init with chars := [1, 2], lastAt := some 0 }), 1, by decide +kernel⟩

theorem wit_rs485SendsAndReceivesPackets_15 : ∃ (s : State) (ch : Fin 2), s.zone.logicRuns = true ∧ (s.zone.ser ch.val).chars ≠ []
    ∧ (s.zone.ser ch.val).lastAt.any (fun t => decide (t + s.zone.fld (Zone.serPage ch.val) SER.SER_TIMING_GAP * s.zone.serBits
    ch.val * s.zone.serDiv ch.val / 2 ≤ s.zone.mono)) = true ∧ s.zone.ringKind (22 + ch.val) = 2 ∧ s.zone.ringHeld (22 + ch.val) <
    64 ∧ s.zone.busQuiesced (22 + ch.val) = false :=
  ⟨(on wTicket fun z => (z.setFld (Zone.serPage 1) LIN.RX_CFG_OWNER_KIND 2).setSer 1
    { SerSt.init with chars := [1, 2], lastAt := some 0 }), 1, by decide +kernel⟩

theorem wit_rs485SendsAndReceivesPackets_16 : ∃ (s : State) (ch : Fin 2), (s.zone.logicRuns = false ∨ (s.zone.ser ch.val).chars =
    [] ∨ (s.zone.ser ch.val).lastAt.all (fun t => decide (s.zone.mono < t + s.zone.fld (Zone.serPage ch.val) SER.SER_TIMING_GAP *
    s.zone.serBits ch.val * s.zone.serDiv ch.val / 2)) = true) :=
  ⟨wTicket, 1, by decide +kernel⟩


/-! ### Sleep and wake -/

/-- Module arming is over and input 15 watches for a high level with IN_WAKE word v. -/
def wHigh (v : Word) (n : Nat) : State :=
  on wSvc fun z => { z with sleep := { z.sleep with phase := 3, inWake := [(15, v)], polls := [(15, n)] } }
theorem wHigh_above (v : Word) (n : Nat) (h : ZONE0.IN_WAKE_THRESH.get v = 0) : (wHigh v n).zone.comparesAbove 15 65535 = true := by
  have e : (wHigh v n).zone.inWake 15 = v := rfl
  have m : Config.wakePoint 15 % (2 * (0 * 250 / 20 + 100) + 1) < 2 * (0 * 250 / 20 + 100) + 1 := Nat.mod_lt _ (by decide)
  unfold Zone.comparesAbove Zone.wakePoint
  rw [e, h]
  refine decide_eq_true ?_
  dsimp only
  omega
theorem wit_sleepsRunTheirSequenceAndMeetWakes_7 : ∃ (s : State) (k : Fin 16) (l : WakeLevel), 1 ≤ s.zone.sleep.phase ∧
    ZONE0.IN_WAKE_WETTING.get (s.zone.inWake k.val) = 0 ∧ s.zone.wakeShows k.val (s.zone.comparesAbove k.val l.millivolts) = true := by
  refine ⟨wHigh 4 0, 15, ⟨65535, 25000000⟩, by decide +kernel, by decide +kernel, ?_⟩
  show (wHigh 4 0).zone.wakeShows 15 ((wHigh 4 0).zone.comparesAbove 15 65535) = true
  rw [wHigh_above 4 0 (by decide)]
  decide +kernel
theorem wit_sleepsRunTheirSequenceAndMeetWakes_11 : ∃ (s : State) (k : Fin 16) (mV n : Nat), 1 ≤ s.zone.sleep.phase ∧
    ZONE0.IN_WAKE_WETTING.get (s.zone.inWake k.val) ≠ 0 ∧
    (SMap.get (fun _ => none) s.zone.sleep.polledAt k.val).all
      (fun t => decide (t + 2 ^ ZONE0.IN_WAKE_POLL.get (s.zone.inWake k.val) * 32768 / 1000 ≤ s.zone.time.aon)) = true ∧
    s.zone.wakeShows k.val (s.zone.comparesAbove k.val mV) = true ∧ n = SMap.get (fun _ => 0) s.zone.sleep.polls k.val + 1 := by
  refine ⟨wHigh 0x0104 1, 15, 65535, 2, by decide +kernel, by decide +kernel, by decide +kernel, ?_, by decide +kernel⟩
  show (wHigh 0x0104 1).zone.wakeShows 15 ((wHigh 0x0104 1).zone.comparesAbove 15 65535) = true
  rw [wHigh_above 0x0104 1 (by decide)]
  decide +kernel
theorem wit_sleepsRunTheirSequenceAndMeetWakes_12 : ∃ (s : State) (k : Fin 16) (mV : Nat), 1 ≤ s.zone.sleep.phase ∧
    ZONE0.IN_WAKE_WETTING.get (s.zone.inWake k.val) ≠ 0 ∧
    (SMap.get (fun _ => none) s.zone.sleep.polledAt k.val).all
      (fun t => decide (t + 2 ^ ZONE0.IN_WAKE_POLL.get (s.zone.inWake k.val) * 32768 / 1000 ≤ s.zone.time.aon)) = true ∧
    s.zone.wakeShows k.val (s.zone.comparesAbove k.val mV) = false := by
  refine ⟨wHigh 0x0105 1, 15, 65535, by decide +kernel, by decide +kernel, by decide +kernel, ?_⟩
  show (wHigh 0x0105 1).zone.wakeShows 15 ((wHigh 0x0105 1).zone.comparesAbove 15 65535) = false
  rw [wHigh_above 0x0105 1 (by decide)]
  decide +kernel

theorem wit_sleepsRunTheirSequenceAndMeetWakes_1 : ∃ (s : State), (s.zone.mode = Mode.service ∨ s.zone.mode = Mode.lightship) ∧
    s.zone.sleep.phase = 1 ∧ s.zone.sleep.since + s.zone.fld (pZONE 0) ZONE0.SLEEP_CFG_DRAIN * 250000 ≤ s.zone.mono :=
  ⟨(on wSvc fun z =>
    { (z.setFld (pCAN 15) CAN.SW_CFG_WAKE_EN 1).setFld (pZONE 0) (⟨ZONE0.IN_WAKE_MODE.off + 60, 0, 3⟩) 3 with sleep := { z.sleep with phase := 1, since := 9999250000 } }),
    by decide +kernel⟩

theorem wit_sleepsRunTheirSequenceAndMeetWakes_2 : ∃ (s : State), ((s.zone.mode ≠ Mode.service ∧ s.zone.mode ≠ Mode.lightship) ∨
    s.zone.sleep.phase ≠ 1 ∨ s.zone.mono < s.zone.sleep.since + s.zone.fld (pZONE 0) ZONE0.SLEEP_CFG_DRAIN * 250000) :=
  ⟨wSvc, by decide +kernel⟩

theorem wit_sleepsRunTheirSequenceAndMeetWakes_3 : ∃ (s : State), (s.zone.mode = Mode.service ∨ s.zone.mode = Mode.lightship) ∧
    s.zone.sleep.phase = 2 :=
  ⟨(on wSvc fun z =>
    { (z.setFld (pZONE 0) ZONE0.WAKE_TIMER_SECONDS 1) with sleep := { z.sleep with phase := 2, eth := 0x801, latched := some ⟨0, 1, 3⟩ } }),
    by decide +kernel⟩

theorem wit_sleepsRunTheirSequenceAndMeetWakes_4 : ∃ (s : State), ((s.zone.mode ≠ Mode.service ∧ s.zone.mode ≠ Mode.lightship) ∨
    s.zone.sleep.phase ≠ 2) :=
  ⟨wSvc, by decide +kernel⟩

theorem wit_sleepsRunTheirSequenceAndMeetWakes_5 : ∃ (s : State), (s.zone.mode = Mode.service ∨ s.zone.mode = Mode.lightship) ∧
    s.zone.sleep.phase = 3 :=
  ⟨(on wSvc fun z => { z with sleep := { z.sleep with phase := 3 } }), by decide +kernel⟩

theorem wit_sleepsRunTheirSequenceAndMeetWakes_6 : ∃ (s : State), ((s.zone.mode ≠ Mode.service ∧ s.zone.mode ≠ Mode.lightship) ∨
    s.zone.sleep.phase ≠ 3) :=
  ⟨wSvc, by decide +kernel⟩

theorem wit_sleepsRunTheirSequenceAndMeetWakes_8 : ∃ (s : State) (k : Fin 16) (l : WakeLevel), 1 ≤ s.zone.sleep.phase ∧
    ZONE0.IN_WAKE_WETTING.get (s.zone.inWake k.val) = 0 ∧ s.zone.wakeShows k.val (s.zone.comparesAbove k.val l.millivolts) = false
    :=
  ⟨(on wSvc fun z => { z with sleep := { z.sleep with phase := 3, inWake := [(15, 0)] } }), 15, ⟨0,25000000⟩, by decide +kernel⟩

theorem wit_sleepsRunTheirSequenceAndMeetWakes_9 : ∃ (s : State) (k : Fin 16) (l : WakeLevel), (s.zone.sleep.phase = 0 ∨
    ZONE0.IN_WAKE_WETTING.get (s.zone.inWake k.val) ≠ 0) :=
  ⟨wSvc, 15, ⟨0,25000000⟩, by decide +kernel⟩

theorem wit_sleepsRunTheirSequenceAndMeetWakes_10 : ∃ (s : State) (k : Fin 16) (above : Bool) (ref : Bool), ref = SMap.get (fun _
    => false) s.zone.sleep.refs k.val ∧ 1 ≤ ZONE0.IN_WAKE_MODE.get (s.zone.inWake k.val) ∧ ZONE0.IN_WAKE_MODE.get (s.zone.inWake
    k.val) ≤ 5 :=
  ⟨(on wSvc fun z => { z with sleep := { z.sleep with phase := 3, inWake := [(15, 4)] } }), 15, true, false, by decide +kernel⟩

theorem wit_sleepsRunTheirSequenceAndMeetWakes_13 : ∃ (s : State) (k : Fin 16) (mV : Nat), (s.zone.sleep.phase = 0 ∨
    ZONE0.IN_WAKE_WETTING.get (s.zone.inWake k.val) = 0 ∨ ¬ ((SMap.get (fun _ => none) s.zone.sleep.polledAt k.val).all (fun t =>
    decide (t + 2 ^ ZONE0.IN_WAKE_POLL.get (s.zone.inWake k.val) * 32768 / 1000 ≤ s.zone.time.aon)) = true)) :=
  ⟨wSvc, 15, 65535, by decide +kernel⟩

theorem wit_sleepsRunTheirSequenceAndMeetWakes_14 : ∃ (s : State) (kind index : Nat), 1 ≤ kind ∧ kind ≤ 4 ∧ index < 28 ∧ (kind = 1
    → index < 16) ∧ (kind = 2 → index < 16) ∧ (kind = 3 → 16 ≤ index) ∧ (kind = 4 → index = 0) ∧ (s.zone.sleep.phase = 3 ∨
    s.zone.sleep.phase = 4) ∧ s.zone.sleep.latched = none :=
  ⟨(on wSvc fun z => { z with sleep := { z.sleep with phase := 4 } }), 3, 27, by decide +kernel⟩

theorem wit_sleepsRunTheirSequenceAndMeetWakes_15 : ∃ (s : State) (kind index : Nat), 1 ≤ kind ∧ kind ≤ 4 ∧ index < 28 ∧ (kind = 1
    → index < 16) ∧ (kind = 2 → index < 16) ∧ (kind = 3 → 16 ≤ index) ∧ (kind = 4 → index = 0) ∧ (s.zone.sleep.phase = 1 ∨
    s.zone.sleep.phase = 2) ∧ s.zone.sleep.latched = none :=
  ⟨(on wSvc fun z => { z with sleep := { z.sleep with phase := 1 } }), 2, 15, by decide +kernel⟩

theorem wit_sleepsRunTheirSequenceAndMeetWakes_16 : ∃ (s : State) (kind index : Nat) (w : WakeLatch), 1 ≤ kind ∧ kind ≤ 4 ∧ index
    < 28 ∧ (kind = 1 → index < 16) ∧ (kind = 2 → index < 16) ∧ (kind = 3 → 16 ≤ index) ∧ (kind = 4 → index = 0) ∧ 1 ≤
    s.zone.sleep.phase ∧ s.zone.sleep.latched = some w :=
  ⟨(on wSvc fun z => { z with sleep := { z.sleep with phase := 4, latched := some ⟨0, 3, 20⟩ } }), 3, 19, ⟨0, 3, 20⟩, by
    decide +kernel⟩

theorem wit_sleepsRunTheirSequenceAndMeetWakes_17 : ∃ (s : State) (w : WakeLatch), (s.zone.sleep.phase = 1 ∨ s.zone.sleep.phase =
    2) ∧ s.zone.sleep.latched = some w ∧ w.kind < 8 ∧ w.index < 32 ∧ w.aon < s.zone.time.aon :=
  ⟨(on wBnd fun z =>
    { z with sleep := { z.sleep with phase := 1, latched := some ⟨0, 2, 15⟩ }, time := { z.time with aon := 1 } }), ⟨0, 2, 15⟩, by
    decide +kernel⟩

theorem wit_sleepsRunTheirSequenceAndMeetWakes_18 : ∃ (s : State), ((s.zone.sleep.phase ≠ 1 ∧ s.zone.sleep.phase ≠ 2) ∨
    s.zone.sleep.latched.all (fun w => decide (s.zone.time.aon ≤ w.aon)) = true) :=
  ⟨wSvc, by decide +kernel⟩

theorem wit_sleepsRunTheirSequenceAndMeetWakes_19 : ∃ (s : State) (ch : Fin 16) (seen : CanSeen), (if 2 ≤ s.zone.sleep.phase then
    s.zone.sleep.can.testBit ch.val else s.zone.flag (pCAN ch.val) CAN.SW_CFG_WAKE_EN) = true ∧ 1 ≤ s.zone.sleep.phase ∧ ((seen =
    .pattern ∧ CAN.SW_CFG_SW_EN.get (s.zone.swWord ch.val 0) = 0) ∨ (seen = .error ∧ CAN.SW_CFG_SW_EN.get (s.zone.swWord ch.val 0)
    = 1 ∧ 31 ≤ s.zone.fld (pCAN ch.val) CAN.SW_STATUS_FEC)) :=
  ⟨(on wSvc fun z => { z with sleep := { z.sleep with phase := 3, can := 0x8000 } }), 15, .pattern, by decide +kernel⟩

theorem wit_sleepsRunTheirSequenceAndMeetWakes_20 : ∃ (s : State) (ch : Fin 16) (f : CanFrame) (rate : Fin 4), (if 2 ≤
    s.zone.sleep.phase then s.zone.sleep.can.testBit ch.val else s.zone.flag (pCAN ch.val) CAN.SW_CFG_WAKE_EN) = true ∧ 1 ≤
    s.zone.sleep.phase ∧ CAN.SW_CFG_SW_EN.get (s.zone.swWord ch.val 0) = 1 ∧ f.format = 0 :=
  ⟨(on wSvc fun z =>
    { z.setFld (pCAN 15) CAN.SW_STATUS_FEC 5 with sleep := { z.sleep with phase := 3, can := 0x8000, sw := [(120, 0x40000000)] } }),
    15, { format := 0, ide := false, rtr := false, brs := false, esi := false, dlc := 0, ident := 0, sdt := 0, vcid := 0, sec := false, af := 0, data := [] },
    0, by decide +kernel⟩

theorem wit_sleepsRunTheirSequenceAndMeetWakes_21 : ∃ (s : State) (ch : Fin 16), (if 2 ≤ s.zone.sleep.phase then
    s.zone.sleep.can.testBit ch.val else s.zone.flag (pCAN ch.val) CAN.SW_CFG_WAKE_EN) = true ∧ 1 ≤ s.zone.sleep.phase ∧
    CAN.SW_CFG_SW_EN.get (s.zone.swWord ch.val 0) = 1 ∧ s.zone.fld (pCAN ch.val) CAN.SW_STATUS_FEC < 31 :=
  ⟨(on wSvc fun z => { z with sleep := { z.sleep with phase := 3, can := 0x8000, sw := [(120, 0x40000000)] } }), 15, by
    decide +kernel⟩

theorem wit_sleepsRunTheirSequenceAndMeetWakes_22 : ∃ (s : State) (ch : Fin 16) (seen : CanSeen), (s.zone.sleep.phase = 0 ∨ (if 2
    ≤ s.zone.sleep.phase then s.zone.sleep.can.testBit ch.val else s.zone.flag (pCAN ch.val) CAN.SW_CFG_WAKE_EN) = false ∨
    (CAN.SW_CFG_SW_EN.get (s.zone.swWord ch.val 0) = 1 ∧ seen = .pattern) ∨ (CAN.SW_CFG_SW_EN.get (s.zone.swWord ch.val 0) = 0 ∧
    seen ≠ .pattern) ∨ (match seen with | .frame f _ => decide (f.format ≠ 0) | _ => false) = true) :=
  ⟨wSvc, 15, .pattern, by decide +kernel⟩

theorem wit_sleepsRunTheirSequenceAndMeetWakes_23 : ∃ (s : State) (port : Fin 12), 1 ≤ s.zone.sleep.phase ∧ (if 2 ≤
    s.zone.sleep.phase then s.zone.sleep.eth else s.zone.fld (pZONE 0) ZONE0.ETH_WAKE_ARM).testBit port.val = true :=
  ⟨(on wSvc fun z => { z with sleep := { z.sleep with phase := 4, eth := 0x800 } }), 11, by decide +kernel⟩

theorem wit_sleepsRunTheirSequenceAndMeetWakes_24 : ∃ (s : State) (port : Fin 12), (s.zone.sleep.phase = 0 ∨ (if 2 ≤
    s.zone.sleep.phase then s.zone.sleep.eth else s.zone.fld (pZONE 0) ZONE0.ETH_WAKE_ARM).testBit port.val = false) :=
  ⟨wSvc, 11, by decide +kernel⟩

theorem wit_sleepsRunTheirSequenceAndMeetWakes_25 : ∃ (s : State) (t : Nat), s.zone.sleep.timer = some t ∧ 3 ≤ s.zone.sleep.phase
    ∧ t ≤ s.zone.time.aon :=
  ⟨(on wSvc fun z => { z with sleep := { z.sleep with phase := 4, timer := some 32768 }, time := { z.time with aon := 32768 } }),
    32768, by decide +kernel⟩

theorem wit_sleepsRunTheirSequenceAndMeetWakes_26 : ∃ (s : State), (s.zone.sleep.timer.all (fun t => decide (s.zone.time.aon < t))
    = true ∨ s.zone.sleep.phase < 3) :=
  ⟨wSvc, by decide +kernel⟩

theorem wit_sleepsRunTheirSequenceAndMeetWakes_27 : ∃ (s : State), s.zone.mode = Mode.sleep ∧ s.zone.sleep.latched ≠ none :=
  ⟨(on (wMode Mode.sleep.code) fun z =>
    { z.setFld (pZONE 0) ZONE0.WAKE_SRC_KIND 3 with sleep := { z.sleep with phase := 4, latched := some ⟨0, 3, 20⟩, eth := 16 } }),
    by decide +kernel⟩

theorem wit_sleepsRunTheirSequenceAndMeetWakes_28 : ∃ (s : State), (s.zone.mode ≠ Mode.sleep ∨ s.zone.sleep.latched = none) :=
  ⟨wSvc, by decide +kernel⟩

theorem wit_sleepsRunTheirSequenceAndMeetWakes_29 : ∃ (s : State), (s.zone.mode = Mode.service ∨ s.zone.mode = Mode.lightship) ∧
    s.zone.sleep.phase = 0 ∧ s.zone.sleep.awakeFrom + s.zone.fld (pZONE 0) ZONE0.SLEEP_CFG_AWAKE_LIMIT * 60000 * 250000 ≤
    s.zone.mono :=
  ⟨(on wBnd fun z => { (z.setFld (pZONE 0) ZONE0.SLEEP_CFG_AWAKE_LIMIT 1) with mono := 15000000000 }), by decide +kernel⟩

theorem wit_sleepsRunTheirSequenceAndMeetWakes_30 : ∃ (s : State), ((s.zone.mode ≠ Mode.service ∧ s.zone.mode ≠ Mode.lightship) ∨
    s.zone.sleep.phase ≠ 0 ∨ s.zone.mono < s.zone.sleep.awakeFrom + s.zone.fld (pZONE 0) ZONE0.SLEEP_CFG_AWAKE_LIMIT * 60000 *
    250000) :=
  ⟨(wMode 6), by decide +kernel⟩

theorem wit_sleepsRunTheirSequenceAndMeetWakes_31 : ∃ (s : State) (writer : Writer), s.zone.start.released = true ∧
    Zone.secureWriter writer = true ∧ (s.zone.sleep.phase = 0 ∨ 3 ≤ s.zone.sleep.phase) :=
  ⟨wSvc, (.firmware secureSrc), by decide +kernel⟩

theorem wit_sleepsRunTheirSequenceAndMeetWakes_32 : ∃ (s : State) (writer : Writer), s.zone.start.released = true ∧
    Zone.secureWriter writer = true ∧ (s.zone.sleep.phase = 1 ∨ s.zone.sleep.phase = 2) ∧ s.zone.fld (pZONE 0)
    ZONE0.SLEEP_STATUS_CAUSE = 2 :=
  ⟨(on wBnd fun z => { (z.setFld (pZONE 0) ZONE0.SLEEP_STATUS_CAUSE 2) with sleep := { z.sleep with phase := 2 } }), (.firmware
    secureSrc), by decide +kernel⟩

theorem wit_sleepsRunTheirSequenceAndMeetWakes_33 : ∃ (s : State) (writer : Writer), s.zone.start.released = true ∧
    Zone.secureWriter writer = true ∧ (s.zone.sleep.phase = 1 ∨ s.zone.sleep.phase = 2) ∧ s.zone.fld (pZONE 0)
    ZONE0.SLEEP_STATUS_CAUSE = 1 :=
  ⟨(on wSvc fun z => { (z.setFld (pZONE 0) ZONE0.SLEEP_STATUS_CAUSE 1) with sleep := { z.sleep with phase := 2 } }), (.firmware
    secureSrc), by decide +kernel⟩

theorem wit_sleepsRunTheirSequenceAndMeetWakes_34 : ∃ (s : State) (writer : Writer), (Zone.secureWriter writer = false ∨
    s.zone.start.released = false) :=
  ⟨wSvc, (.keeper .A), by decide +kernel⟩

theorem wit_sleepsRunTheirSequenceAndMeetWakes_35 : ∃ (s : State) (t : Nat), s.zone.sleep.firstAt = some t ∧ t + 500 * 250000 ≤
    s.zone.mono ∧ 1 ≤ s.zone.sleep.wakeKind ∧ s.zone.sleep.wakeKind ≤ 3 :=
  ⟨(on wSvc fun z => { z with sleep := { z.sleep with firstAt := some 9875000000, wakeKind := 3 } }), 9875000000, by decide +kernel⟩

theorem wit_sleepsRunTheirSequenceAndMeetWakes_36 : ∃ (s : State), (s.zone.sleep.firstAt.all (fun t => decide (s.zone.mono < t +
    500 * 250000)) = true ∨ s.zone.sleep.wakeKind = 0 ∨ 3 < s.zone.sleep.wakeKind) :=
  ⟨wSvc, by decide +kernel⟩

theorem wit_sleepsRunTheirSequenceAndMeetWakes_37 : ∃ (s : State) (n : Fin 22), s.zone.logicRuns = true ∧ s.zone.time.stopped =
    false :=
  ⟨(on wSvc fun z => (z.setFldBit (pZONE 0) ZONE0.TRX_FALLBACK_ACTIVE 15 true).setFld (pCAN 15) CAN.CHAN_STATUS_TEC 9), 15, by
    decide +kernel⟩

theorem wit_sleepsRunTheirSequenceAndMeetWakes_38 : ∃ (s : State) (n : Fin 22), (s.zone.logicRuns = false ∨ s.zone.time.stopped =
    true) :=
  ⟨(wMode 6), 15, by decide +kernel⟩

theorem wit_sleepsRunTheirSequenceAndMeetWakes_39 : ∃ (s : State) (n : Fin 22), s.zone.mode ≠ Mode.off ∧ s.zone.inFallback n.val =
    false ∧ s.zone.start.entered + 180 * 250000 ≤ s.zone.mono ∧ SMap.get (fun _ => 0) s.zone.sleep.served n.val + 180 * 250000 ≤
    s.zone.mono :=
  ⟨(on wSvc fun z => { z with sleep := { z.sleep with served := [(21, 9955000000)] } }), 21, by decide +kernel⟩

theorem wit_sleepsRunTheirSequenceAndMeetWakes_40 : ∃ (s : State) (n : Fin 22), (s.zone.mode = Mode.off ∨ s.zone.inFallback n.val
    = true ∨ s.zone.mono < s.zone.start.entered + 180 * 250000 ∨ s.zone.mono < SMap.get (fun _ => 0) s.zone.sleep.served n.val +
    180 * 250000) :=
  ⟨(wMode 6), 21, by decide +kernel⟩

theorem wit_sleepsRunTheirSequenceAndMeetWakes_41 : ∃ (s : State) (ch : Fin 16) (seen : CanSeen), s.zone.inFallback ch.val = true
    ∧ s.zone.flag (pCAN ch.val) CAN.SW_CFG_WAKE_EN = true :=
  ⟨(on wSvc fun z => (z.setFldBit (pZONE 0) ZONE0.TRX_FALLBACK_ACTIVE 15 true).setFld (pCAN 15) CAN.SW_CFG_WAKE_EN 1), 15,
    .pattern, by decide +kernel⟩

theorem wit_sleepsRunTheirSequenceAndMeetWakes_42 : ∃ (s : State) (ch : Fin 16) (seen : CanSeen), (s.zone.inFallback ch.val =
    false ∨ s.zone.flag (pCAN ch.val) CAN.SW_CFG_WAKE_EN = false) :=
  ⟨wSvc, 15, .pattern, by decide +kernel⟩


/-! ### Safety cores -/

theorem wit_legsCommitMismatchAndRerun_1 : ∃ (s : State) (n : Fin 4) (mode : SafetyMode) (native inverted : LegPass) (checks :
    LegChecks), s.zone.start.released = true ∧ s.zone.legRuns n.val mode native = true ∧ (s.zone.core n.val).fault = none ∧
    (s.zone.core n.val).single = false ∧ checks.comparator = false ∧ checks.double = false ∧ (injectIndex (s.zone.core
    n.val).inject 0).all (fun i => decide (native.results.length ≤ i)) = true ∧ (legMismatch (s.zone.readPasses n.val native
    inverted).1 (s.zone.readPasses n.val native inverted).2.1 none = none) :=
  ⟨wSvc, 3, .u, ⟨[.reg 31 5], 1, 0x100, true⟩, ⟨[.reg 31 (~~~5)], 1, ~~~0x100, true⟩, ⟨1, false, false⟩, by decide +kernel⟩

theorem wit_legsCommitMismatchAndRerun_2 : ∃ (s : State) (n : Fin 4) (mode : SafetyMode) (native : LegPass), native.results.all
    (fun r => match r with | .reg _ _ => true | _ => false) = true ∧ (s.zone.core n.val).deferred = [] :=
  ⟨wSvc, 3, .u, ⟨[.reg 31 5, .reg 0 9, .reg 31 6], 3, 0x100, true⟩, by decide +kernel⟩

theorem wit_legsCommitMismatchAndRerun_3 : ∃ (s : State) (n : Fin 4) (mode : SafetyMode) (native : LegPass) (cause tval ms :
    Word), native.results = [.trap cause tval ms] ∧ (s.zone.core n.val).deferred = [] :=
  ⟨wSvc, 3, .u, ⟨[.trap 11 0 0x1800], 0, 0x100, true⟩, 11, 0, 0x1800, by decide +kernel⟩

theorem wit_legsCommitMismatchAndRerun_4 : ∃ (s : State) (n : Fin 4) (mode : SafetyMode) (native : LegPass) (v : Word),
    native.results = [.csr 0x301 v] ∧ (s.zone.core n.val).deferred = [] :=
  ⟨wSvc, 3, .m, ⟨[.csr 0x301 0], 1, 0x100, true⟩, 0, by decide +kernel⟩

theorem wit_legsCommitMismatchAndRerun_5 : ∃ (s : State) (n : Fin 4) (mode : SafetyMode) (native : LegPass) (num : BitVec 12) (v :
    Word), native.results = [.csr num v] ∧ (s.zone.core n.val).deferred = [] ∧ (num = 0x340 ∨ num = 0x305 ∨ num = 0x342) :=
  ⟨wSvc, 3, .m, ⟨[.csr 0x340 7], 1, 0x100, true⟩, 0x340, 7, by decide +kernel⟩

theorem wit_legsCommitMismatchAndRerun_6 : ∃ (s : State) (n : Fin 4) (mode : SafetyMode) (native inverted : LegPass) (checks :
    LegChecks) (rd : BitVec 5) (num : BitVec 12) (p q : LegPoint) (v : Word), s.zone.start.released = true ∧ s.zone.legRuns n.val
    mode native = true ∧ (s.zone.core n.val).fault = none ∧ (s.zone.core n.val).single = false ∧ checks.comparator = false ∧
    checks.double = false ∧ (s.zone.core n.val).inject.getLsbD 0 = false ∧ (s.zone.core n.val).deferred = [] ∧ native.results =
    [.csrRead rd num p] ∧ inverted.results = [.csrRead rd num q] ∧ native.nextPc = ~~~inverted.nextPc ∧ inverted.timely = true ∧ v
    = (s.zone.coreCsrRead n.val num.toNat p).1 :=
  ⟨wSvc, 3, .m, ⟨[.csrRead 31 0x301 ⟨0, 0⟩], 1, 0x100, true⟩, ⟨[.csrRead 31 0x301 ⟨9, 0⟩], 1, ~~~0x100, true⟩, ⟨0, false, false⟩,
    31, 0x301, ⟨0, 0⟩, ⟨9, 0⟩, 0x40901105, by decide +kernel⟩

theorem wit_legsCommitMismatchAndRerun_7 : ∃ (s : State) (n : Fin 4) (mode : SafetyMode) (native inverted : LegPass) (checks :
    LegChecks), s.zone.start.released = true ∧ s.zone.legRuns n.val mode native = true ∧ (s.zone.core n.val).fault = none ∧
    (s.zone.core n.val).single = true :=
  ⟨(on wSvc fun z => z.setCore 3 { z.core 3 with single := true }), 3, .m, ⟨[], 1, 0x104, true⟩, ⟨[], 0, 0, false⟩, ⟨0, false,
    false⟩, by decide +kernel⟩

theorem wit_legsCommitMismatchAndRerun_8 : ∃ (s : State) (n : Fin 4) (mode : SafetyMode) (native inverted : LegPass) (checks :
    LegChecks) (m : Mismatch), s.zone.start.released = true ∧ s.zone.legRuns n.val mode native = true ∧ (s.zone.core n.val).fault
    = none ∧ (s.zone.core n.val).single = false ∧ checks.comparator = false ∧ checks.double = false ∧ (injectIndex (s.zone.core
    n.val).inject 0).all (fun i => decide (native.results.length ≤ i)) = true ∧ (legMismatch (s.zone.readPasses n.val native
    inverted).1 (s.zone.readPasses n.val native inverted).2.1 none = some m) :=
  ⟨wSvc, 3, .u, ⟨[.reg 31 5], 1, 0x100, true⟩, ⟨[.reg 31 5], 1, 0x100, true⟩, ⟨0, false, false⟩, ⟨0, some 0, some 31, false⟩, by
    decide +kernel⟩

theorem wit_legsCommitMismatchAndRerun_9 : ∃ (s : State) (p q : LegPass) (i : Nat), q.results.length = p.results.length ∧ i <
    p.results.length ∧ (List.range i).all
    (fun j => match p.results[j]?, q.results[j]? with | some a, some b => legAgrees a b | _, _ => false) = true ∧
    (match p.results[i]?, q.results[i]? with | some a, some b => !legAgrees a b | _, _ => false) = true :=
  ⟨wSvc, ⟨[.reg 1 2, .store 0 4 7], 2, 0x100, true⟩, ⟨[.reg 1 (~~~2), .store 0 4 7], 2, 0x100, true⟩, 1, by decide +kernel⟩

theorem wit_legsCommitMismatchAndRerun_10 : ∃ (s : State) (n : Fin 4) (mode : SafetyMode) (native inverted : LegPass) (checks :
    LegChecks) (i : Nat) (r : LegResult), s.zone.start.released = true ∧ s.zone.legRuns n.val mode native = true ∧ (s.zone.core
    n.val).fault = none ∧ (s.zone.core n.val).single = false ∧ checks.comparator = false ∧ checks.double = false ∧ (s.zone.core
    n.val).inject.getLsbD 0 = true ∧ i = (s.zone.core n.val).inject.toNat / 2 ^ 8 % 64 ∧ (native.results[i]?) = some r ∧
    native.results.all (fun r => match r with | .csrRead _ _ _ => false | _ => true) = true ∧ inverted.results.length =
    native.results.length ∧ (List.range i).all
    (fun j => match native.results[j]?, inverted.results[j]? with | some a, some b => legAgrees a b | _, _ => false) = true :=
  ⟨(on wSvc fun z => z.setCore 3 { z.core 3 with inject := 1 }), 3, .u, ⟨[.reg 31 5], 1, 0x100, true⟩, ⟨[.reg 31 (~~~5)], 1,
    ~~~0x100, true⟩, ⟨0, false, false⟩, 0, (.reg 31 5), by decide +kernel⟩

theorem wit_legsCommitMismatchAndRerun_11 : ∃ (s : State) (n : Fin 4) (mode : SafetyMode) (native inverted : LegPass) (checks :
    LegChecks), s.zone.start.released = true ∧ s.zone.legRuns n.val mode native = true ∧ (s.zone.core n.val).fault = none ∧
    (s.zone.core n.val).single = false ∧ (checks.comparator = true ∨ checks.double = true) ∧ (s.zone.core n.val).deferred = [] ∧
    native.results.all (fun r => match r with | .csrRead _ _ _ => false | _ => true) = true :=
  ⟨wSvc, 3, .u, ⟨[], 1, 0x100, true⟩, ⟨[], 1, ~~~0x100, true⟩, ⟨0, true, false⟩, by decide +kernel⟩

theorem wit_legsCommitMismatchAndRerun_12 : ∃ (s : State) (n : Fin 4) (mode : SafetyMode) (native inverted : LegPass) (checks :
    LegChecks), (s.zone.start.released = false ∨ s.zone.legRuns n.val mode native = false ∨ (s.zone.core n.val).fault ≠ none) :=
  ⟨State.reset, 3, .u, ⟨[], 1, 0x100, true⟩, ⟨[], 1, ~~~0x100, true⟩, ⟨0, false, false⟩, by decide +kernel⟩

theorem wit_legsCommitMismatchAndRerun_13 : ∃ (s : State) (n : Fin 4) (mode : SafetyMode) (native inverted : LegPass) (checks :
    LegChecks), (s.zone.start.released = false ∨ s.zone.legRuns n.val mode native = false ∨ (s.zone.core n.val).fault.all (fun f
    => f.isAccess || decide (s.zone.mono < f.detected + 3)) = true) :=
  ⟨wSvc, 3, .u, ⟨[], 1, 0x100, true⟩, ⟨[], 1, ~~~0x100, true⟩, ⟨0, false, false⟩, by decide +kernel⟩

theorem wit_legsCommitMismatchAndRerun_14 : ∃ (s : State) (n : Fin 4) (mode : SafetyMode) (native : LegPass), (64 <
    native.results.length ∨ 64 < native.retired ∨ (s.zone.core n.val).split = true ∨ (s.zone.core n.val).halted = true) :=
  ⟨wSvc, 3, .u, ⟨[], 65, 0x100, true⟩, by decide +kernel⟩

theorem wit_legsCommitMismatchAndRerun_15 : ∃ (s : State) (n : Fin 4) (native : LegPass) (num : BitVec 12) (v : Word),
    native.results = [.csr num v] ∧ num.toNat / 256 % 4 ≠ 0 :=
  ⟨wSvc, 3, ⟨[.csr 0x300 0], 1, 0x100, true⟩, 0x300, 0, by decide +kernel⟩

theorem wit_legsCommitMismatchAndRerun_16 : ∃ (s : State) (n : Fin 4) (mode : SafetyMode) (native inverted : LegPass) (checks :
    LegChecks) (x : LegFault) (inj : Option Nat), s.zone.start.released = true ∧ s.zone.legRuns n.val mode native = true ∧
    (s.zone.core n.val).fault = some x ∧ x.isAccess = false ∧ x.detected + 3 ≤ s.zone.mono ∧ inj = (if x.injected then
    (injectIndex (s.zone.core n.val).inject 1).filter (fun i => decide (i < native.results.length)) else none) ∧ (s.zone.core
    n.val).single = false ∧ checks.comparator = false ∧ checks.double = false ∧ (legMismatch (s.zone.readPasses n.val native
    inverted).1 (s.zone.readPasses n.val native inverted).2.1 inj = none) :=
  ⟨(on wSvc fun z => z.setCore 3 { z.core 3 with fault := some ⟨0x80, false, false, none, 9999999997⟩ }), 3, .u, ⟨[.reg 31 5], 1,
    0x100, true⟩, ⟨[.reg 31 (~~~5)], 1, ~~~0x100, true⟩, ⟨0, false, false⟩, ⟨0x80, false, false, none, 9999999997⟩, none, by
    decide +kernel⟩

theorem wit_legsCommitMismatchAndRerun_17 : ∃ (s : State) (n : Fin 4) (mode : SafetyMode) (native inverted : LegPass) (checks :
    LegChecks) (x : LegFault) (inj : Option Nat), s.zone.start.released = true ∧ s.zone.legRuns n.val mode native = true ∧
    (s.zone.core n.val).fault = some x ∧ x.isAccess = false ∧ x.detected + 3 ≤ s.zone.mono ∧ inj = (if x.injected then
    (injectIndex (s.zone.core n.val).inject 1).filter (fun i => decide (i < native.results.length)) else none) ∧ (s.zone.core
    n.val).single = false ∧ checks.comparator = false ∧ checks.double = false ∧ inj = none ∧ (s.zone.core n.val).deferred = [] ∧
    native.results.all (fun r => match r with | .reg _ _ => true | _ => false) = true ∧ (legMismatch native inverted none = none)
    ∧ x.injected = false :=
  ⟨(on wSvc fun z => z.setCore 3 { z.core 3 with fault := some ⟨0x80, false, false, none, 9999999997⟩ }), 3, .u, ⟨[.reg 31 5], 1,
    0x100, true⟩, ⟨[.reg 31 (~~~5)], 1, ~~~0x100, true⟩, ⟨0, false, false⟩, ⟨0x80, false, false, none, 9999999997⟩, none, by
    decide +kernel⟩

theorem wit_legsCommitMismatchAndRerun_18 : ∃ (s : State) (n : Fin 4) (mode : SafetyMode) (native inverted : LegPass) (checks :
    LegChecks) (x : LegFault) (inj : Option Nat) (m : Mismatch), s.zone.start.released = true ∧ s.zone.legRuns n.val mode native =
    true ∧ (s.zone.core n.val).fault = some x ∧ x.isAccess = false ∧ x.detected + 3 ≤ s.zone.mono ∧ inj = (if x.injected then
    (injectIndex (s.zone.core n.val).inject 1).filter (fun i => decide (i < native.results.length)) else none) ∧ (s.zone.core
    n.val).single = false ∧ checks.comparator = false ∧ checks.double = false ∧ (legMismatch (s.zone.readPasses n.val native
    inverted).1 (s.zone.readPasses n.val native inverted).2.1 inj = some m) ∧ (s.zone.core n.val).deferred = [] :=
  ⟨(on wSvc fun z => z.setCore 3 { z.core 3 with fault := some ⟨0x80, false, false, none, 9999999997⟩ }), 3, .u, ⟨[.reg 31 5], 1,
    0x100, true⟩, ⟨[.reg 31 5], 1, 0x100, true⟩, ⟨0, false, false⟩, ⟨0x80, false, false, none, 9999999997⟩, none, ⟨0, some 0, some
    31, false⟩, by decide +kernel⟩

theorem wit_legsCommitMismatchAndRerun_19 : ∃ (s : State) (n : Fin 4) (mode : SafetyMode) (access : LegAccess) (addr inverted flip
    nextPc : Word) (size : Fin 3), s.zone.start.released = true ∧ (s.zone.core n.val).split = false ∧ (s.zone.core n.val).halted =
    false ∧ Zone.isAccessLeg access addr.toNat = true ∧ (s.zone.core n.val).fault = none ∧ (s.zone.core n.val).single = false ∧
    addr = ~~~inverted ∧ (s.zone.legAccess n.val mode access addr.toNat
    (match access with | .atomic _ _ _ => 4 | _ => sizeOf_ size)).1 = Err.none ∧ (flip = 0 ∨ Zone.accessReg access = none) ∧
    (s.zone.core n.val).inject.getLsbD 0 = false ∧ ((s.zone.legAccess n.val mode access addr.toNat
    (match access with | .atomic _ _ _ => 4 | _ => sizeOf_ size)).2.2.core n.val).inject = (s.zone.core n.val).inject ∧
    ((s.zone.legAccess n.val mode access addr.toNat (match access with | .atomic _ _ _ => 4 | _ => sizeOf_ size)).2.2.core
    n.val).single = false :=
  ⟨(wOpen 5 0x1E0180 0x1E01FF), 3, .m, (.atomic .add 31 0xFFFFFFFF), 0x7FFFC, (~~~0x7FFFC), 0, 0x104, 2, by decide +kernel⟩

theorem wit_legsCommitMismatchAndRerun_20 : ∃ (s : State) (n : Fin 4) (mode : SafetyMode) (op : AmoOp) (rd : BitVec 5) (v addr
    nextPc : Word) (size : Fin 3) (old : Nat), s.zone.start.released = true ∧ (s.zone.core n.val).split = false ∧ (s.zone.core
    n.val).halted = false ∧ (s.zone.core n.val).single = false ∧ (s.zone.core n.val).fault = none ∧ (s.zone.core
    n.val).inject.getLsbD 0 = false ∧ (s.zone.core n.val).deferred = [] ∧ (s.zone.core n.val).reserved = none ∧ addr.toNat <
    0x80000 ∧ addr.toNat % 4 = 0 ∧ op ≠ .lr ∧ op ≠ .sc ∧ s.zone.safetyPmp (2 * n.val) (mode == .m) .atomic addr.toNat 4 = true ∧
    s.zone.permitted (2 + n.val) (s.zone.coreSource n.val mode) true true (Zone.localAddr (2 * n.val) addr.toNat) 4 = true ∧ old =
    leNat (s.zone.memRead (Zone.localAddr (2 * n.val) addr.toNat) 4) :=
  ⟨(wOpen 5 0x1E0180 0x1E01FF), 3, .m, .add, 31, 0xFFFFFFFF, 0x7FFFC, 0x104, 2, 0, by decide +kernel⟩

theorem wit_legsCommitMismatchAndRerun_21 : ∃ (s : State) (n : Fin 4) (mode : SafetyMode) (access : LegAccess) (addr inverted flip
    nextPc : Word) (size : Fin 3), s.zone.start.released = true ∧ (s.zone.core n.val).split = false ∧ (s.zone.core n.val).halted =
    false ∧ Zone.isAccessLeg access addr.toNat = true ∧ (s.zone.core n.val).fault = none ∧ ((s.zone.core n.val).single = true ∨
    addr = ~~~inverted) ∧ (s.zone.legAccess n.val mode access addr.toNat
    (match access with | .atomic _ _ _ => 4 | _ => sizeOf_ size)).1 ≠ Err.none ∧ ((s.zone.legAccess n.val mode access addr.toNat
    (match access with | .atomic _ _ _ => 4 | _ => sizeOf_ size)).2.2.core n.val).deferred = [] :=
  ⟨wSvc, 3, .m, (.load 31 false), 0x90000, (~~~0x90000), 0, 0x104, 2, by decide +kernel⟩

theorem wit_legsCommitMismatchAndRerun_22 : ∃ (s : State) (n : Fin 4) (mode : SafetyMode) (access : LegAccess) (addr inverted flip
    nextPc : Word) (size : Fin 3), s.zone.start.released = true ∧ (s.zone.core n.val).split = false ∧ (s.zone.core n.val).halted =
    false ∧ Zone.isAccessLeg access addr.toNat = true ∧ (s.zone.core n.val).fault = none ∧ (s.zone.core n.val).single = false ∧
    addr ≠ ~~~inverted :=
  ⟨wSvc, 3, .m, (.load 31 false), 0x80000, 0, 0, 0x104, 2, by decide +kernel⟩

theorem wit_legsCommitMismatchAndRerun_23 : ∃ (s : State) (n : Fin 4) (mode : SafetyMode) (access : LegAccess) (addr inverted flip
    nextPc : Word) (size : Fin 3) (rd : BitVec 5), s.zone.start.released = true ∧ (s.zone.core n.val).split = false ∧ (s.zone.core
    n.val).halted = false ∧ Zone.isAccessLeg access addr.toNat = true ∧ (s.zone.core n.val).fault = none ∧ (s.zone.core
    n.val).single = false ∧ addr = ~~~inverted ∧ (s.zone.legAccess n.val mode access addr.toNat
    (match access with | .atomic _ _ _ => 4 | _ => sizeOf_ size)).1 = Err.none ∧ Zone.accessReg access = some rd ∧
    ((s.zone.legAccess n.val mode access addr.toNat (match access with | .atomic _ _ _ => 4 | _ => sizeOf_ size)).2.2.core
    n.val).inject = (s.zone.core n.val).inject ∧ ((s.zone.legAccess n.val mode access addr.toNat
    (match access with | .atomic _ _ _ => 4 | _ => sizeOf_ size)).2.2.core n.val).single = false ∧ (flip ≠ 0 ∨ injectIndex
    (s.zone.core n.val).inject 0 = some 0) :=
  ⟨(wOpen 5 0x1E0180 0x1E01FF), 3, .m, (.atomic .add 31 0xFFFFFFFF), 0x7FFFC, (~~~0x7FFFC), 1, 0x104, 2, 31, by decide +kernel⟩

theorem wit_legsCommitMismatchAndRerun_24 : ∃ (s : State) (n : Fin 4) (mode : SafetyMode) (access : LegAccess) (addr inverted flip
    nextPc : Word) (size : Fin 3) (x : LegFault) (rd : BitVec 5) (v : Word), s.zone.start.released = true ∧ (s.zone.core
    n.val).split = false ∧ (s.zone.core n.val).halted = false ∧ Zone.isAccessLeg access addr.toNat = true ∧ (s.zone.core
    n.val).fault = some x ∧ x.isAccess = true ∧ x.injected = false ∧ x.access = some v ∧ x.detected + 3 ≤ s.zone.mono ∧
    (s.zone.core n.val).single = false ∧ (s.zone.core n.val).deferred = [] ∧ addr = ~~~inverted ∧ Zone.accessReg access = some rd :=
  ⟨(on wSvc fun z => z.setCore 3 { z.core 3 with fault := some ⟨0x80, false, true, some 7, 9999999997⟩ }), 3, .m, (.load 31
    false), 0x90000, (~~~0x90000), 0, 0x104, 2, ⟨0x80, false, true, some 7, 9999999997⟩, 31, 7, by decide +kernel⟩

theorem wit_legsCommitMismatchAndRerun_25 : ∃ (s : State) (n : Fin 4) (mode : SafetyMode) (access : LegAccess) (addr inverted flip
    nextPc : Word) (size : Fin 3), (s.zone.start.released = false ∨ (s.zone.core n.val).split = true ∨ (s.zone.core n.val).halted
    = true ∨ Zone.isAccessLeg access addr.toNat = false ∨ (s.zone.core n.val).fault.any (fun f => !f.isAccess || decide
    (s.zone.mono < f.detected + 3)) = true) :=
  ⟨wSvc, 3, .m, (.load 31 false), 0x100, 0, 0, 0x104, 2, by decide +kernel⟩

theorem wit_legsCommitMismatchAndRerun_26 : ∃ (s : State) (n : Fin 4), s.zone.start.released = true ∧ s.zone.dualPass n.val = true
    ∧ (s.zone.core n.val).halted = false ∧ (s.zone.core n.val).fault = none ∧ (s.zone.core n.val).tested + 247500 ≤ s.zone.mono :=
  ⟨wSvc, 3, by decide +kernel⟩

theorem wit_legsCommitMismatchAndRerun_27 : ∃ (s : State) (n : Fin 4), s.zone.start.released = true ∧ s.zone.dualPass n.val = true
    ∧ (s.zone.core n.val).halted = false ∧ (s.zone.core n.val).fault = none ∧ (s.zone.core n.val).tested + 247500 ≤ s.zone.mono ∧
    (s.zone.core n.val).deferred = [] :=
  ⟨wSvc, 3, by decide +kernel⟩

theorem wit_legsCommitMismatchAndRerun_28 : ∃ (s : State) (n : Fin 4) (ok : Bool), (s.zone.start.released = false ∨
    s.zone.dualPass n.val = false ∨ (s.zone.core n.val).halted = true ∨ (s.zone.core n.val).fault ≠ none ∨ s.zone.mono <
    (s.zone.core n.val).tested + 247500) :=
  ⟨State.reset, 3, false, by decide +kernel⟩

theorem wit_legsCommitMismatchAndRerun_29 : ∃ (s : State), s.zone.logicRuns = true ∧ s.zone.safetyDebugOpen = true ∧ s.zone.flag
    (pTEST 2) TEST2.DEBUG_STATUS_SAFETY_ATTACHED = false :=
  ⟨(on wSvc fun z => { z with fuses := { z.fuses with lc := [(0, 1), (1, 1)] } }), by decide +kernel⟩

theorem wit_legsCommitMismatchAndRerun_30 : ∃ (s : State), (s.zone.logicRuns = false ∨ s.zone.safetyDebugOpen = false ∨
    s.zone.flag (pTEST 2) TEST2.DEBUG_STATUS_SAFETY_ATTACHED = true) :=
  ⟨(wMode 6), by decide +kernel⟩

theorem wit_legsCommitMismatchAndRerun_31 : ∃ (s : State) (n : Fin 4) (v : Word), s.zone.start.released = true ∧ (s.zone.core
    n.val).halted = false :=
  ⟨(on wSvc fun z => z.setCore 3 { z.core 3 with transient := 9 }), 3, 1, by decide +kernel⟩

theorem wit_legsCommitMismatchAndRerun_32 : ∃ (s : State) (n : Fin 4) (v : Word), s.zone.start.released = true ∧ (s.zone.core
    n.val).halted = false :=
  ⟨wSvc, 3, 0xFFFFFFFF, by decide +kernel⟩

theorem wit_legsCommitMismatchAndRerun_33 : ∃ (s : State) (n : Fin 4) (v : Word), s.zone.start.released = true ∧ (s.zone.core
    n.val).halted = false :=
  ⟨wSvc, 3, 1, by decide +kernel⟩

theorem wit_legsCommitMismatchAndRerun_34 : ∃ (s : State) (n : Fin 4) (v : Word), s.zone.start.released = true ∧ (s.zone.core
    n.val).halted = false :=
  ⟨wSvc, 3, 1, by decide +kernel⟩

theorem wit_legsCommitMismatchAndRerun_35 : ∃ (s : State) (n : Fin 4) (mode : SafetyMode) (v : Word), (s.zone.start.released =
    false ∨ (s.zone.core n.val).halted = true) :=
  ⟨State.reset, 3, .m, 1, by decide +kernel⟩

theorem wit_legsCommitMismatchAndRerun_36 : ∃ (s : State) (n : Fin 4) (mode : SafetyMode) (v : Word), (s.zone.start.released =
    false ∨ (s.zone.core n.val).halted = true) :=
  ⟨State.reset, 3, .m, 1, by decide +kernel⟩

theorem wit_legsCommitMismatchAndRerun_37 : ∃ (s : State) (n : Fin 8) (csr : BitVec 12) (pm : Priv) (v : BitVec 64) (cause : Nat),
    s.zone.start.released = true ∧ csrRefusal true csr.toNat pm true = some cause :=
  ⟨wSvc, 7, 0x7D1, .hs, 1, 2, by decide +kernel⟩

theorem wit_legsCommitMismatchAndRerun_38 : ∃ (s : State) (csr : BitVec 12) (pm : Priv), (csr = 0x7D0 ∨ csr = 0x7D1 ∨ csr = 0x5D0
    ∨ csr = 0x5D1) :=
  ⟨wSvc, 0x5D1, .vs, by decide +kernel⟩

theorem wit_legsCommitMismatchAndRerun_39 : ∃ (s : State) (n : Fin 8) (v : BitVec 64), s.zone.start.released = true :=
  ⟨wSvc, 7, 0x0FFF0FFF, by decide +kernel⟩

theorem wit_legsCommitMismatchAndRerun_40 : ∃ (s : State) (n : Fin 8) (v : BitVec 64), s.zone.start.released = true :=
  ⟨wSvc, 7, 1, by decide +kernel⟩

theorem wit_legsCommitMismatchAndRerun_41 : ∃ (s : State) (n : Fin 8) (v : BitVec 64) (csr : BitVec 12) (pm : Priv),
    s.zone.start.released = true ∧ (csr = 0x5D0 ∨ csr = 0x5D1) ∧ (pm = .m ∨ pm = .hs) ∧ (v.setWidth 12 < (s.zone.hart n.val).base
    ∨ (s.zone.hart n.val).limit < v.setWidth 12) :=
  ⟨wSvc, 7, 1, 0x5D1, .hs, by decide +kernel⟩

theorem wit_legsCommitMismatchAndRerun_42 : ∃ (s : State) (n : Fin 8) (v : BitVec 64) (csr : BitVec 12) (pm : Priv),
    s.zone.start.released = true ∧ (csr = 0x5D0 ∨ csr = 0x5D1) ∧ (pm = .m ∨ pm = .hs) ∧ (s.zone.hart n.val).base ≤ v.setWidth 12 ∧
    v.setWidth 12 ≤ (s.zone.hart n.val).limit :=
  ⟨(on wSvc fun z => z.setHart 7 { z.hart 7 with limit := 0xFFF }), 7, 0xFFF, 0x5D0, .hs, by decide +kernel⟩

theorem wit_legsCommitMismatchAndRerun_43 : ∃ (s : State) (n : Fin 8) (v : BitVec 64) (csr : BitVec 12) (pm : Priv),
    s.zone.start.released = true ∧ csrRefusal true csr.toNat pm true = none ∧ csrCustom csr.toNat = false :=
  ⟨wSvc, 7, 0x8000000000000005, 0x180, .hs, by decide +kernel⟩

theorem wit_legsCommitMismatchAndRerun_44 : ∃ (s : State) (h8 : Fin 8) (v : BitVec 64) (csr : BitVec 12) (pm : Priv),
    (s.zone.start.released = false ∨ (h8.val % 2 = 1 ∧ (s.zone.core (h8.val / 2)).split = false) ∨ (pm ≠ .m ∧ pm ≠ .u)) :=
  ⟨wSvc, 7, 1, 0x7D2, .m, by decide +kernel⟩

theorem wit_legsCommitMismatchAndRerun_45 : ∃ (s : State) (h8 : Fin 8) (v : BitVec 64) (csr : BitVec 12) (pm : Priv),
    s.zone.start.released = false :=
  ⟨State.reset, 7, 1, 0x7D2, .m, by decide +kernel⟩

theorem wit_legsCommitMismatchAndRerun_46 : ∃ (s : State) (h8 : Fin 8) (v : BitVec 64) (csr : BitVec 12) (pm : Priv) (cause :
    Nat), s.zone.start.released = true ∧ (h8.val % 2 = 0 ∨ (s.zone.core (h8.val / 2)).split = true) ∧ (pm = .m ∨ pm = .u) ∧
    csrRefusal false csr.toNat pm true = some cause :=
  ⟨wSvc, 6, 1, 0x7D1, .m, 2, by decide +kernel⟩

theorem wit_legsCommitMismatchAndRerun_47 : ∃ (s : State) (h8 : Fin 8) (v : BitVec 64) (csr : BitVec 12), s.zone.start.released =
    true ∧ (h8.val % 2 = 0 ∨ (s.zone.core (h8.val / 2)).split = true) ∧ (csr = 0x7D0 ∨ csr = 0x7D2) :=
  ⟨wSvc, 6, 0xFFF, 0x7D2, by decide +kernel⟩

theorem wit_legsCommitMismatchAndRerun_48 : ∃ (s : State) (h8 : Fin 8) (v : BitVec 64) (csr : BitVec 12), s.zone.start.released =
    true ∧ (h8.val % 2 = 0 ∨ (s.zone.core (h8.val / 2)).split = true) ∧ csrRefusal false csr.toNat .m true = none ∧ csr ≠ 0x7D0 ∧
    csr ≠ 0x7D2 :=
  ⟨wSvc, 6, 0xFFF, 0x340, by decide +kernel⟩


/-! ### Worlds and moorings -/

theorem wit_accessesAreCheckedTranslatedAndGated_1 : ∃ (s : State) (h8 : Fin 8) (pm : Priv) (kind : AccessKind) (addr : BitVec 64)
    (size : BitVec 7) (data : List Byte), (s.zone.start.released = false ∨ size = 0) :=
  ⟨State.reset, 7, .m, .write, 0x1000000000, 1, [1], by decide +kernel⟩

theorem wit_accessesAreCheckedTranslatedAndGated_2 : ∃ (s : State) (h8 : Fin 8) (mode : SafetyMode) (kind : AccessKind) (addr :
    BitVec 64) (size : BitVec 7) (data : List Byte), (s.zone.start.released = false ∨ size = 0 ∨ (h8.val % 2 = 1 ∧ (s.zone.core
    (h8.val / 2)).split = false)) :=
  ⟨wSvc, 7, .m, .write, 0, 1, [1], by decide +kernel⟩

theorem wit_accessesAreCheckedTranslatedAndGated_3 : ∃ (s : State) (h8 : Fin 8) (pm : Priv) (kind : AccessKind) (addr : BitVec 64)
    (size : BitVec 7) (data : List Byte) (cause : Nat), s.zone.start.released = true ∧ size ≠ 0 ∧ (s.zone.hartTranslate h8.val
    (s.zone.appSource h8.val pm) pm kind addr.toNat).1 = .fault cause :=
  ⟨(on wSvc fun z => z.setHart 7 { z.hart 7 with csrs := [(0x180, 0x8000000001000000#64)] }), 7, .hs, .write, 0x4000000000, 1,
    [1], 13, by decide +kernel⟩

theorem wit_accessesAreCheckedTranslatedAndGated_4 : ∃ (s : State) (h8 : Fin 8) (pm : Priv) (kind : AccessKind) (addr : BitVec 64)
    (size : BitVec 7) (data : List Byte) (a : Nat), s.zone.start.released = true ∧ size ≠ 0 ∧ (s.zone.hartTranslate h8.val
    (s.zone.appSource h8.val pm) pm kind addr.toNat).1 = .pa a ∧ (s.zone.hartTranslate h8.val (s.zone.appSource h8.val pm) pm kind
    addr.toNat).2.appPmp h8.val (pm == .m) kind a size.toNat = false :=
  ⟨wSvc, 7, .u, .fetch, 0x1000000000, 4, [], 0x1000000000, by decide +kernel⟩

theorem wit_accessesAreCheckedTranslatedAndGated_5 : ∃ (s : State) (h8 : Fin 8) (pm : Priv) (kind : AccessKind) (addr : BitVec 64)
    (size : BitVec 7) (data : List Byte) (a : Nat), s.zone.start.released = true ∧ size ≠ 0 ∧ (s.zone.hartTranslate h8.val
    (s.zone.appSource h8.val pm) pm kind addr.toNat).1 = .pa a ∧ (s.zone.hartTranslate h8.val (s.zone.appSource h8.val pm) pm kind
    addr.toNat).2.appPmp h8.val (pm == .m) kind a size.toNat = true :=
  ⟨wSvc, 7, .m, .write, 0x13FFFFFFFD, 3, [1,2,3], 0x13FFFFFFFD, by decide +kernel⟩

theorem wit_accessesAreCheckedTranslatedAndGated_6 : ∃ (s : State) (h8 : Fin 8) (pm : Priv) (kind : AccessKind) (src : Source) (va
    : Nat), (pm = .m ∨ ((pm = .hs ∨ pm = .u) ∧ (s.zone.appCsr h8.val 0x180).toNat / 2 ^ 60 ≠ 8 ∧ (s.zone.appCsr h8.val
    0x180).toNat / 2 ^ 60 ≠ 9) ∨ (Zone.modeLevels (s.zone.appCsr h8.val 0x280).toNat = none ∧ Zone.modeLevels (s.zone.appCsr
    h8.val 0x680).toNat = none)) ∧ (pm ≠ .m ∧ pm ≠ .hs ∧ pm ≠ .u ∨ pm = .m ∨ Zone.modeLevels (s.zone.appCsr h8.val 0x180).toNat =
    none) :=
  ⟨wSvc, 7, .vs, .read, secureSrc, 9, by decide +kernel⟩

theorem wit_accessesAreCheckedTranslatedAndGated_7 : ∃ (s : State) (h8 : Fin 8) (pm : Priv) (kind : AccessKind) (addr : BitVec 64)
    (size : BitVec 7) (data : List Byte) (a : Nat), s.zone.start.released = true ∧ size ≠ 0 ∧ s.zone.hartTranslate h8.val
    (s.zone.appSource h8.val pm) pm kind addr.toNat = (.pa a, s.zone) ∧ s.zone.appPmp h8.val (pm == .m) kind a size.toNat = true ∧
    0x1000000000 ≤ a ∧ a + size.toNat ≤ 0x1400000000 ∧ kind = .write ∧ data.length = size.toNat ∧ s.zone.permitted 1
    (s.zone.appSource h8.val pm) false true a size.toNat = true :=
  ⟨wSvc, 7, .m, .write, 0x13FFFFFFFD, 3, [1,2,3], 0x13FFFFFFFD, by decide +kernel⟩

theorem wit_accessesAreCheckedTranslatedAndGated_8 : ∃ (s : State) (h8 : Fin 8) (pm : Priv) (kind : AccessKind) (addr : BitVec 64)
    (size : BitVec 7) (data : List Byte) (a : Nat), s.zone.start.released = true ∧ size ≠ 0 ∧ s.zone.hartTranslate h8.val
    (s.zone.appSource h8.val pm) pm kind addr.toNat = (.pa a, s.zone) ∧ s.zone.appPmp h8.val (pm == .m) kind a size.toNat = true ∧
    0x1000000000 ≤ a ∧ a + size.toNat ≤ 0x1400000000 ∧ (kind = .read ∨ kind = .fetch) ∧ s.zone.permitted 1 (s.zone.appSource
    h8.val pm) true false a size.toNat = true :=
  ⟨(on wSvc (·.setMemByte 0x13FFFFFFFF 7)), 7, .m, .read, 0x13FFFFFFF8, 8, [], 0x13FFFFFFF8, by decide +kernel⟩

theorem wit_accessesAreCheckedTranslatedAndGated_9 : ∃ (s : State) (h8 : Fin 8) (pm : Priv) (kind : AccessKind) (addr : BitVec 64)
    (size : BitVec 7) (data : List Byte) (a : Nat), s.zone.start.released = true ∧ size ≠ 0 ∧ s.zone.hartTranslate h8.val
    (s.zone.appSource h8.val pm) pm kind addr.toNat = (.pa a, s.zone) ∧ s.zone.appPmp h8.val (pm == .m) kind a size.toNat = true ∧
    0x1000000000 ≤ a ∧ a + size.toNat ≤ 0x1400000000 ∧ kind = .atomic ∧ data.length = size.toNat ∧ s.zone.permitted 1
    (s.zone.appSource h8.val pm) true true a size.toNat = true ∧ s.zone.permitted 1 (s.zone.appSource h8.val pm) false true a
    size.toNat = true :=
  ⟨(on wSvc (·.setMemByte 0x13FFFFFFFF 7)), 7, .m, .atomic, 0x13FFFFFFF8, 8, [1,2,3,4,5,6,7,8], 0x13FFFFFFF8, by decide +kernel⟩

theorem wit_accessesAreCheckedTranslatedAndGated_10 : ∃ (s : State) (h8 : Fin 8) (pm : Priv) (kind : AccessKind) (addr : BitVec
    64) (size : BitVec 7) (data : List Byte) (a c : Nat) (src : Source), s.zone.start.released = true ∧ size ≠ 0 ∧
    s.zone.hartTranslate h8.val (s.zone.appSource h8.val pm) pm kind addr.toNat = (.pa a, s.zone) ∧ s.zone.appPmp h8.val (pm ==
    .m) kind a size.toNat = true ∧ src = (s.zone.appSource h8.val pm) ∧ s.zone.controller a = some c ∧ (c = 1 ∨ c = 10 ∨ c = 11) ∧
    s.zone.permitted c src (kind != .write) (kind == .write || kind == .atomic) a size.toNat = false ∧ data.length = size.toNat :=
  ⟨(on wSvc fun z => z.setHart 7 { z.hart 7 with moorH := 0xFFF, csrs := [(0x3A0, 0x1F), (0x3B0, 0x3FFFFFFFFFFFFF)] }), 7, .hs,
    .atomic, 0x13FFFFFFFC, 4, [1,2,3,4], 0x13FFFFFFFC, 1, ⟨.normal, 0xFFF⟩, by decide +kernel⟩

theorem wit_accessesAreCheckedTranslatedAndGated_11 : ∃ (s : State) (h8 : Fin 8) (pm : Priv) (kind : AccessKind) (addr : BitVec
    64) (size : BitVec 7) (data : List Byte) (a : Nat), s.zone.start.released = true ∧ size ≠ 0 ∧ s.zone.hartTranslate h8.val
    (s.zone.appSource h8.val pm) pm kind addr.toNat = (.pa a, s.zone) ∧ s.zone.appPmp h8.val (pm == .m) kind a size.toNat = true ∧
    s.zone.controller a = none ∧ s.zone.crossing a = none :=
  ⟨wSvc, 7, .m, .read, 0x10, 4, [], 0x10, by decide +kernel⟩

theorem wit_accessesAreCheckedTranslatedAndGated_12 : ∃ (s : State) (h8 : Fin 8) (mode : SafetyMode) (kind : AccessKind) (addr :
    BitVec 64) (size : BitVec 7) (data : List Byte), s.zone.start.released = true ∧ size ≠ 0 ∧ (h8.val % 2 = 0 ∨ (s.zone.core
    (h8.val / 2)).split = true) ∧ (s.zone.safetyPmp h8.val (mode == .m) kind addr.toNat size.toNat = false ∨ (kind = .fetch ∧
    s.zone.dualPass (h8.val / 2) = true ∧ 0x80000 < addr.toNat + size.toNat)) :=
  ⟨wSvc, 6, .u, .write, 0, 1, [1], by decide +kernel⟩

theorem wit_accessesAreCheckedTranslatedAndGated_13 : ∃ (s : State) (h8 : Fin 8) (mode : SafetyMode) (kind : AccessKind) (addr :
    BitVec 64) (size : BitVec 7) (data : List Byte), s.zone.start.released = true ∧ size ≠ 0 ∧ (h8.val % 2 = 0 ∨ (s.zone.core
    (h8.val / 2)).split = true) ∧ s.zone.safetyPmp h8.val (mode == .m) kind addr.toNat size.toNat = true ∧ kind = .write ∧
    data.length = size.toNat ∧ addr.toNat + size.toNat ≤ 0x80000 ∧ (s.zone.regionCheck (s.zone.safetySource h8.val (mode == .m))
    false true (Zone.localAddr h8.val addr.toNat) size.toNat).1 = Err.none :=
  ⟨(wOpen 5 0x1E0180 0x1E01FF), 6, .m, .write, 0x7FFFC, 4, [1,2,3,4], by decide +kernel⟩

theorem wit_accessesAreCheckedTranslatedAndGated_14 : ∃ (s : State) (h8 : Fin 8) (mode : SafetyMode) (kind : AccessKind) (addr :
    BitVec 64) (size : BitVec 7) (data : List Byte), s.zone.start.released = true ∧ size ≠ 0 ∧ (h8.val % 2 = 0 ∨ (s.zone.core
    (h8.val / 2)).split = true) ∧ s.zone.safetyPmp h8.val (mode == .m) kind addr.toNat size.toNat = true ∧ (kind = .read ∨ kind =
    .fetch) ∧ addr.toNat + size.toNat ≤ 0x80000 ∧ (s.zone.regionCheck (s.zone.safetySource h8.val (mode == .m)) true false
    (Zone.localAddr h8.val addr.toNat) size.toNat).1 = Err.none :=
  ⟨(wOpen 5 0x1E0180 0x1E01FF), 6, .m, .fetch, 0x7FFFC, 4, [], by decide +kernel⟩

theorem wit_accessesAreCheckedTranslatedAndGated_15 : ∃ (s : State) (h8 : Fin 8) (mode : SafetyMode) (kind : AccessKind) (addr :
    BitVec 64) (size : BitVec 7) (data : List Byte) (a : Nat), s.zone.start.released = true ∧ size ≠ 0 ∧ (h8.val % 2 = 0 ∨
    (s.zone.core (h8.val / 2)).split = true) ∧ s.zone.safetyPmp h8.val (mode == .m) kind addr.toNat size.toNat = true ∧ addr.toNat
    + size.toNat ≤ 0x80000 ∧ a = (Zone.localAddr h8.val addr.toNat) ∧ (s.zone.regionCheck (s.zone.safetySource h8.val (mode ==
    .m)) (kind != .write) (kind == .write || kind == .atomic) a size.toNat).1 = Err.region :=
  ⟨(on wSvc fun z => (z.setHart 14 { z.hart 14 with moorU := 0xFFF }).setCore 3
    { z.core 3 with csrs := [(0x3A0, 0x1F), (0x3B0, 0xFFFFFFFF)] }), 6, .u, .write, 0x7FFFC, 4, [1,2,3,4], 0x1E01FFFFC, by
    decide +kernel⟩

theorem wit_accessesAreCheckedTranslatedAndGated_16 : ∃ (s : State) (h8 : Fin 8) (mode : SafetyMode) (kind : AccessKind) (addr :
    BitVec 64) (size : BitVec 7) (data : List Byte), s.zone.start.released = true ∧ size ≠ 0 ∧ (h8.val % 2 = 0 ∨ (s.zone.core
    (h8.val / 2)).split = true) ∧ s.zone.safetyPmp h8.val (mode == .m) kind addr.toNat size.toNat = true ∧ ¬ (kind = .fetch ∧
    s.zone.dualPass (h8.val / 2) = true) ∧ 0x80000 < addr.toNat + size.toNat ∧ (s.zone.h1Window addr.toNat).all (fun b =>
    !h1Aligned b.1 size.toNat) = true :=
  ⟨wSvc, 6, .m, .read, 0x90000, 4, [], by decide +kernel⟩

theorem wit_accessesAreCheckedTranslatedAndGated_17 : ∃ (s : State) (n : Fin 8) (w : World), s.zone.start.released = true ∧
    (s.zone.hart n.val).runs ≠ w ∧ (w = .normal ∨ s.zone.secureAway = false) :=
  ⟨wSvc, 7, .normal, by decide +kernel⟩

theorem wit_accessesAreCheckedTranslatedAndGated_18 : ∃ (s : State) (n : Fin 8) (w : World), (s.zone.start.released = false ∨
    (s.zone.hart n.val).runs = w ∨ (w = .secure ∧ s.zone.secureAway = true)) :=
  ⟨wSvc, 7, .secure, by decide +kernel⟩

theorem wit_accessesAreCheckedTranslatedAndGated_19 : ∃ (s : State) (m : Fin 8) (src : Source) (addr : BitVec 64) (wr ue : Bool),
    s.zone.start.released = true ∧ s.zone.flag pTU TU.TU_CTRL_EN = false :=
  ⟨wSvc, 7, secureSrc, 0xFFFFFFFFFFFFFFFF, true, false, by decide +kernel⟩

theorem wit_accessesAreCheckedTranslatedAndGated_20 : ∃ (s : State) (m : Fin 8) (src : Source) (addr : BitVec 64) (wr ue : Bool),
    s.zone.start.released = false :=
  ⟨State.reset, 7, secureSrc, 0xFFFFFFFFFFFFFFFF, true, false, by decide +kernel⟩

theorem wit_accessesAreCheckedTranslatedAndGated_21 : ∃ (s : State) (m : Fin 8) (src : Source) (addr : BitVec 64) (wr ue : Bool)
    (e : TuEntry), s.zone.start.released = true ∧ s.zone.flag pTU TU.TU_CTRL_EN = true ∧ (s.zone.tu.cache.find? (fun e => e.maps
    src addr.toNat && (if wr then e.w else e.r))) = some e ∧ s.zone.tu.inval.all (fun i => !i.names e) = true :=
  ⟨(on wSvc fun z =>
    { z.setFld pTU TU.TU_CTRL_EN 1 with tu := ⟨[⟨⟨.normal, 0xFFF⟩, 0x7FFF, true, 0x200, false, true⟩], [], none⟩ }), 7, ⟨.normal,
    0xFFF⟩, 0xFFFFFFFFF, true, false, ⟨⟨.normal, 0xFFF⟩, 0x7FFF, true, 0x200, false, true⟩, by decide +kernel⟩

theorem wit_accessesAreCheckedTranslatedAndGated_22 : ∃ (s : State) (m : Fin 8) (src : Source) (addr : BitVec 64) (wr ue : Bool)
    (e : TuEntry), s.zone.start.released = true ∧ s.zone.flag pTU TU.TU_CTRL_EN = true ∧ (s.zone.tu.cache.find? (fun e => e.maps
    src addr.toNat && (if wr then e.w else e.r))) = some e ∧ s.zone.tu.inval.any (fun i => i.names e) = true :=
  ⟨(on wSvc fun z =>
    { z.setFld pTU TU.TU_CTRL_EN 1 with tu := ⟨[⟨⟨.normal, 0xFFF⟩, 0x7FFF, true, 0x200, false, true⟩], [], some ⟨1, secureSrc, 0⟩⟩ }),
    7, ⟨.normal, 0xFFF⟩, 0xFFFFFFFFF, true, false, ⟨⟨.normal, 0xFFF⟩, 0x7FFF, true, 0x200, false, true⟩, by decide +kernel⟩

theorem wit_accessesAreCheckedTranslatedAndGated_23 : ∃ (s : State) (m : Fin 8) (src : Source) (addr : BitVec 64) (wr ue : Bool)
    (a : Nat), s.zone.start.released = true ∧ s.zone.flag pTU TU.TU_CTRL_EN = true ∧ (s.zone.tu.cache.find? (fun e => e.maps src
    addr.toNat && (if wr then e.w else e.r))) = none ∧ ((s.zone.count pTU TU.TC_MISSES_COUNT).walk src addr.toNat wr ue).1 = .pa a
    :=
  ⟨(on (wOpen 1 0x1000000 0x13FFFFF) fun z => ((z.setFld pTU TU.TU_CTRL_EN 1).setFld pTU TU.CTX_BASE_HI_BASE 0x10).setMemByte
    0x100001FFF0 2), 7, ⟨.secure, 0xFFF⟩, 0xFFFFFFFFF, false, false, 0xFFFFFFFFF, by decide +kernel⟩

theorem wit_accessesAreCheckedTranslatedAndGated_24 : ∃ (s : State) (m : Fin 8) (src : Source) (addr : BitVec 64) (wr ue : Bool)
    (cause : Nat), s.zone.start.released = true ∧ s.zone.flag pTU TU.TU_CTRL_EN = true ∧ (s.zone.tu.cache.find? (fun e => e.maps
    src addr.toNat && (if wr then e.w else e.r))) = none ∧ ((s.zone.count pTU TU.TC_MISSES_COUNT).walk src addr.toNat wr ue).1 =
    .fault cause :=
  ⟨(on wSvc fun z => (z.setFld pTU TU.TU_CTRL_EN 1).setFld pTU TU.CTX_BASE_HI_BASE 0x10), 7, ⟨.normal, 0xFFF⟩, 0xFFFFFFFFF, false,
    false, 1, by decide +kernel⟩

theorem wit_accessesAreCheckedTranslatedAndGated_25 : ∃ (s : State) (src : Source) (va c : Nat) (wr : Bool), (s.zone.regionCheck
    sourceZero true false (s.zone.ctxBase + ((if src.world = .secure then 1 else 0) * 4096 + src.mooring.toNat) * 16) 16).1 =
    Err.none ∧ c = leNat (s.zone.memRead (s.zone.ctxBase + ((if src.world = .secure then 1 else 0) * 4096 + src.mooring.toNat) *
    16) 8) :=
  ⟨(on (wOpen 1 0x1000000 0x13FFFFF) fun z => (z.setFld pTU TU.CTX_BASE_HI_BASE 0x10).setMemByte 0x100000FFF0 1), ⟨.normal,
    0xFFF⟩, 0x8000000000, 1, false, by decide +kernel⟩

theorem wit_accessesAreCheckedTranslatedAndGated_26 : ∃ (s : State) (writer : Writer) (x : TuFault) (l : List TuFault),
    s.zone.start.released = true ∧ Zone.secureWriter writer = true ∧ s.zone.tu.faults = x :: l :=
  ⟨(on wSvc fun z => { z with tu := ⟨[], [⟨1, 1, 1, false, secureSrc⟩, ⟨2, 1, 1, false, secureSrc⟩], none⟩ }), (.firmware
    secureSrc), ⟨1, 1, 1, false, secureSrc⟩, [⟨2, 1, 1, false, secureSrc⟩], by decide +kernel⟩

theorem wit_accessesAreCheckedTranslatedAndGated_27 : ∃ (s : State) (writer : Writer), (s.zone.start.released = false ∨
    Zone.secureWriter writer = false ∨ s.zone.tu.faults = []) :=
  ⟨wSvc, (.keeper .A), by decide +kernel⟩

theorem wit_accessesAreCheckedTranslatedAndGated_28 : ∃ (s : State) (writer : Writer), s.zone.start.released = true ∧
    Zone.secureWriter writer = true ∧ s.zone.tu.inval = none :=
  ⟨wSvc, (.firmware secureSrc), by decide +kernel⟩

theorem wit_accessesAreCheckedTranslatedAndGated_29 : ∃ (s : State) (writer : Writer), s.zone.start.released = true ∧
    Zone.secureWriter writer = true ∧ s.zone.tu.inval ≠ none :=
  ⟨(on wSvc fun z => { z with tu := ⟨[], [], some ⟨1, secureSrc, 0⟩⟩ }), (.firmware secureSrc), by decide +kernel⟩

theorem wit_accessesAreCheckedTranslatedAndGated_30 : ∃ (s : State) (writer : Writer), (s.zone.start.released = false ∨
    Zone.secureWriter writer = false) :=
  ⟨wSvc, (.firmware ⟨.normal, 9⟩), by decide +kernel⟩

theorem wit_accessesAreCheckedTranslatedAndGated_31 : ∃ (s : State) (writer : Writer) (target : Source), s.zone.start.released =
    true ∧ Zone.secureWriter writer = true ∧ s.zone.tu.inval = none :=
  ⟨wSvc, (.firmware secureSrc), ⟨.normal, 0xFFF⟩, by decide +kernel⟩

theorem wit_accessesAreCheckedTranslatedAndGated_32 : ∃ (s : State) (writer : Writer) (target : Source), s.zone.start.released =
    true ∧ Zone.secureWriter writer = true ∧ s.zone.tu.inval ≠ none :=
  ⟨(on wSvc fun z => { z with tu := ⟨[], [], some ⟨1, secureSrc, 0⟩⟩ }), (.firmware secureSrc), ⟨.normal, 0xFFF⟩, by decide +kernel⟩

theorem wit_accessesAreCheckedTranslatedAndGated_33 : ∃ (s : State) (writer : Writer) (target : Source), (s.zone.start.released =
    false ∨ Zone.secureWriter writer = false) :=
  ⟨wSvc, (.firmware ⟨.normal, 9⟩), ⟨.normal, 0xFFF⟩, by decide +kernel⟩

theorem wit_accessesAreCheckedTranslatedAndGated_34 : ∃ (s : State) (writer : Writer) (target : Source), s.zone.start.released =
    true ∧ Zone.secureWriter writer = true ∧ s.zone.tu.inval = none :=
  ⟨wSvc, (.firmware secureSrc), ⟨.normal, 0xFFF⟩, by decide +kernel⟩

theorem wit_accessesAreCheckedTranslatedAndGated_35 : ∃ (s : State) (writer : Writer) (target : Source), s.zone.start.released =
    true ∧ Zone.secureWriter writer = true ∧ s.zone.tu.inval ≠ none :=
  ⟨(on wSvc fun z => { z with tu := ⟨[], [], some ⟨1, secureSrc, 0⟩⟩ }), (.firmware secureSrc), ⟨.normal, 0xFFF⟩, by decide +kernel⟩

theorem wit_accessesAreCheckedTranslatedAndGated_36 : ∃ (s : State) (writer : Writer) (target : Source), (s.zone.start.released =
    false ∨ Zone.secureWriter writer = false) :=
  ⟨wSvc, (.firmware ⟨.normal, 9⟩), ⟨.normal, 0xFFF⟩, by decide +kernel⟩

theorem wit_accessesAreCheckedTranslatedAndGated_37 : ∃ (s : State) (i : Inval), s.zone.logicRuns = true ∧ s.zone.tu.inval = some
    i :=
  ⟨(on wSvc fun z => { z with tu := ⟨[⟨secureSrc, 5, false, 7, true, true⟩], [], some ⟨1, secureSrc, 0⟩⟩ }), ⟨1, secureSrc, 0⟩, by
    decide +kernel⟩

theorem wit_accessesAreCheckedTranslatedAndGated_38 : ∃ (s : State), (s.zone.logicRuns = false ∨ s.zone.tu.inval = none) :=
  ⟨wSvc, by decide +kernel⟩

theorem wit_accessesAreCheckedTranslatedAndGated_39 : ∃ (s : State) (w : World) (n : Fin 16) (st : Nat), s.zone.start.released =
    true ∧ st = (if 14 ≤ n.val then 2 else if w = .normal ∧ s.zone.held n.val = true then 1 else if s.zone.gateState n.val = 3
    then 3 else 0) :=
  ⟨(on wSvc (·.setGateState 13 1)), .normal, 13, 0, by decide +kernel⟩

theorem wit_accessesAreCheckedTranslatedAndGated_40 : ∃ (s : State) (w : World) (n : Fin 16), s.zone.start.released = false :=
  ⟨State.reset, .secure, 12, by decide +kernel⟩

theorem wit_accessesAreCheckedTranslatedAndGated_41 : ∃ (s : State) (w : World) (n : Fin 16) (st : Nat), s.zone.start.released =
    true ∧ st = (if 14 ≤ n.val then 2 else if w = .normal ∧ s.zone.held n.val = true then 1 else if s.zone.gateState n.val = 3
    then 3 else 0) :=
  ⟨wSvc, .secure, 12, 0, by decide +kernel⟩

theorem wit_accessesAreCheckedTranslatedAndGated_42 : ∃ (s : State) (w : World) (n : Fin 16), s.zone.start.released = false :=
  ⟨State.reset, .secure, 12, by decide +kernel⟩

theorem wit_accessesAreCheckedTranslatedAndGated_43 : ∃ (s : State) (w : World) (n : Fin 16) (st : Nat), s.zone.start.released =
    true ∧ st = (if 14 ≤ n.val then 2 else if w = .normal ∧ s.zone.held n.val = true then 1 else if s.zone.gateState n.val = 3
    then 3 else 0) :=
  ⟨wSvc, .normal, 12, 1, by decide +kernel⟩

theorem wit_accessesAreCheckedTranslatedAndGated_44 : ∃ (s : State) (w : World) (n : Fin 16), s.zone.start.released = false :=
  ⟨State.reset, .secure, 12, by decide +kernel⟩

theorem wit_accessesAreCheckedTranslatedAndGated_45 : ∃ (s : State) (n : Fin 16) (a : Nat), s.zone.logicRuns = true ∧ SMap.get
    (fun _ => 0) s.zone.gateTo n.val = a + 1 ∧ a < 4 ∧ n.val < 14 ∧ (n.val ≠ 8 ∨ (s.zone.gateDone 8).engineRuns = true) :=
  ⟨(on wSvc fun z => { z.setGateState 13 3 with gateTo := [(13, 3)] }), 13, 2, by decide +kernel⟩

theorem wit_accessesAreCheckedTranslatedAndGated_46 : ∃ (s : State), s.zone.logicRuns = true ∧ (s.zone.gateDone 8).engineRuns =
    false :=
  ⟨(on wSvc fun z => { z.setGateState 8 3 with gateTo := [(8, 3)] }), by decide +kernel⟩

theorem wit_accessesAreCheckedTranslatedAndGated_47 : ∃ (s : State) (n : Fin 16), (s.zone.logicRuns = false ∨ (SMap.get (fun _ =>
    0) s.zone.gateTo n.val = 0 ∧ n.val ≠ 8)) :=
  ⟨wSvc, 15, by decide +kernel⟩

theorem wit_accessesAreCheckedTranslatedAndGated_48 : ∃ (s : State) (mask : BitVec 16), s.zone.start.released = true :=
  ⟨wSvc, 0x8001, by decide +kernel⟩

theorem wit_accessesAreCheckedTranslatedAndGated_49 : ∃ (s : State) (mask : BitVec 16), s.zone.start.released = true :=
  ⟨wSvc, 0x9001, by decide +kernel⟩

theorem wit_accessesAreCheckedTranslatedAndGated_50 : ∃ (s : State) (mask : BitVec 16), s.zone.start.released = true :=
  ⟨wSvc, 0x8001, by decide +kernel⟩

theorem wit_accessesAreCheckedTranslatedAndGated_51 : ∃ (s : State) (mask : BitVec 16), s.zone.start.released = true :=
  ⟨wSvc, 0x8001, by decide +kernel⟩

theorem wit_accessesAreCheckedTranslatedAndGated_52 : ∃ (s : State) (w : World) (mask : BitVec 16), s.zone.start.released = false :=
  ⟨State.reset, .secure, 0x8001, by decide +kernel⟩

theorem wit_accessesAreCheckedTranslatedAndGated_53 : ∃ (s : State) (w : World) (mask : BitVec 16), s.zone.start.released = false :=
  ⟨State.reset, .secure, 0x8001, by decide +kernel⟩


/-! ### Grants and the secure watchdog -/

theorem wit_grantsMoveResourcesAndTheSecureWorldIsWatched_1 : ∃ (s : State) (src : Source) (args l : List Byte),
    s.zone.start.released = true ∧ src.world = .secure ∧ l = ((padTo 16 args).set 5 (BitVec.ofNat 8 (leAt (padTo 16 args) 5 1 % 32
    + 0))) ∧ s.zone.grant = none ∧ grantArgsOk l = true ∧ leAt l 0 2 ≠ 4 :=
  ⟨wSvc, secureSrc, [3,0,47,0,0xFF,0x0F,0,0,0,0,0,0,0,0,0,0], [3,0,47,0,0xFF,0x0F,0,0,0,0,0,0,0,0,0,0], by decide +kernel⟩

theorem wit_grantsMoveResourcesAndTheSecureWorldIsWatched_2 : ∃ (s : State) (src : Source) (args l : List Byte),
    s.zone.start.released = true ∧ src.world = .secure ∧ l = ((padTo 16 args).set 5 (BitVec.ofNat 8 (leAt (padTo 16 args) 5 1 % 32
    + 0))) ∧ s.zone.grant = none ∧ grantArgsOk l = true ∧ leAt l 0 2 = 4 :=
  ⟨wSvc, secureSrc, [4,0,255,0], [4,0,255,0,0,0,0,0,0,0,0,0,0,0,0,0], by decide +kernel⟩

theorem wit_grantsMoveResourcesAndTheSecureWorldIsWatched_3 : ∃ (s : State) (src : Source) (args l : List Byte),
    s.zone.start.released = true ∧ src.world = .secure ∧ l = ((padTo 16 args).set 5 (BitVec.ofNat 8 (leAt (padTo 16 args) 5 1 % 32
    + 0))) ∧ (s.zone.grant ≠ none ∨ grantArgsOk l = false) :=
  ⟨(on wSvc fun z => { z with grant := some ⟨[], none, 0⟩ }), secureSrc, [3,0,47,0,0xFF,0x0F,0,0,0,0,0,0,0,0,0,0],
    [3,0,47,0,0xFF,0x0F,0,0,0,0,0,0,0,0,0,0], by decide +kernel⟩

theorem wit_grantsMoveResourcesAndTheSecureWorldIsWatched_4 : ∃ (s : State) (src : Source) (args : List Byte),
    s.zone.start.released = true ∧ src.world = .normal :=
  ⟨wSvc, ⟨.normal, 5⟩, [], by decide +kernel⟩

theorem wit_grantsMoveResourcesAndTheSecureWorldIsWatched_5 : ∃ (s : State) (src : Source) (args : List Byte),
    s.zone.start.released = false :=
  ⟨State.reset, secureSrc, [], by decide +kernel⟩

theorem wit_grantsMoveResourcesAndTheSecureWorldIsWatched_6 : ∃ (s : State) (src : Source) (args l : List Byte),
    s.zone.start.released = true ∧ src.world = .secure ∧ l = ((padTo 16 args).set 5 (BitVec.ofNat 8 (leAt (padTo 16 args) 5 1 % 32
    + 32))) ∧ s.zone.grant = none ∧ grantArgsOk l = true ∧ leAt l 0 2 ≠ 4 :=
  ⟨wSvc, secureSrc, [5,0,63,0,0,0,0,0,0,0,0,0,0,0,0,0], [5,0,63,0,0,32,0,0,0,0,0,0,0,0,0,0], by decide +kernel⟩

theorem wit_grantsMoveResourcesAndTheSecureWorldIsWatched_7 : ∃ (s : State) (src : Source) (args l : List Byte),
    s.zone.start.released = true ∧ src.world = .secure ∧ l = ((padTo 16 args).set 5 (BitVec.ofNat 8 (leAt (padTo 16 args) 5 1 % 32
    + 32))) ∧ s.zone.grant = none ∧ grantArgsOk l = true ∧ leAt l 0 2 = 4 :=
  ⟨wSvc, secureSrc, [4,0,255,0], [4,0,255,0,0,32,0,0,0,0,0,0,0,0,0,0], by decide +kernel⟩

theorem wit_grantsMoveResourcesAndTheSecureWorldIsWatched_8 : ∃ (s : State) (src : Source) (args l : List Byte),
    s.zone.start.released = true ∧ src.world = .secure ∧ l = ((padTo 16 args).set 5 (BitVec.ofNat 8 (leAt (padTo 16 args) 5 1 % 32
    + 32))) ∧ (s.zone.grant ≠ none ∨ grantArgsOk l = false) :=
  ⟨(on wSvc fun z => { z with grant := some ⟨[], none, 0⟩ }), secureSrc, [5,0,63,0,0,0,0,0,0,0,0,0,0,0,0,0],
    [5,0,63,0,0,32,0,0,0,0,0,0,0,0,0,0], by decide +kernel⟩

theorem wit_grantsMoveResourcesAndTheSecureWorldIsWatched_9 : ∃ (s : State) (src : Source) (args : List Byte),
    s.zone.start.released = true ∧ src.world = .normal :=
  ⟨wSvc, ⟨.normal, 5⟩, [], by decide +kernel⟩

theorem wit_grantsMoveResourcesAndTheSecureWorldIsWatched_10 : ∃ (s : State) (src : Source) (args : List Byte),
    s.zone.start.released = false :=
  ⟨State.reset, secureSrc, [], by decide +kernel⟩

theorem wit_grantsMoveResourcesAndTheSecureWorldIsWatched_11 : ∃ (s : State) (src : Source) (args l : List Byte),
    s.zone.start.released = true ∧ src.world = .secure ∧ l = ((padTo 16 args).set 5 (BitVec.ofNat 8 (leAt (padTo 16 args) 5 1 % 32
    + 64))) ∧ s.zone.grant = none ∧ grantArgsOk l = true ∧ leAt l 0 2 ≠ 4 :=
  ⟨wSvc, secureSrc, [2,0,23,0,0,0,0,0,0,0,0,0,0,0,0,0], [2,0,23,0,0,64,0,0,0,0,0,0,0,0,0,0], by decide +kernel⟩

theorem wit_grantsMoveResourcesAndTheSecureWorldIsWatched_12 : ∃ (s : State) (src : Source) (args l : List Byte),
    s.zone.start.released = true ∧ src.world = .secure ∧ l = ((padTo 16 args).set 5 (BitVec.ofNat 8 (leAt (padTo 16 args) 5 1 % 32
    + 64))) ∧ (s.zone.grant ≠ none ∨ grantArgsOk l = false) :=
  ⟨(on wSvc fun z => { z with grant := some ⟨[], none, 0⟩ }), secureSrc, [2,0,23,0,0,0,0,0,0,0,0,0,0,0,0,0],
    [2,0,23,0,0,64,0,0,0,0,0,0,0,0,0,0], by decide +kernel⟩

theorem wit_grantsMoveResourcesAndTheSecureWorldIsWatched_13 : ∃ (s : State) (src : Source) (args : List Byte),
    s.zone.start.released = true ∧ src.world = .normal :=
  ⟨wSvc, ⟨.normal, 5⟩, [], by decide +kernel⟩

theorem wit_grantsMoveResourcesAndTheSecureWorldIsWatched_14 : ∃ (s : State) (src : Source) (args : List Byte),
    s.zone.start.released = false :=
  ⟨State.reset, secureSrc, [], by decide +kernel⟩

theorem wit_grantsMoveResourcesAndTheSecureWorldIsWatched_15 : ∃ (s : State) (g : GrantRun) (i code : Nat), s.zone.logicRuns =
    true ∧ s.zone.grant = some g ∧ i = Zone.grantIndex g ∧ s.zone.quiesced g = true ∧ s.zone.mono < g.start + 10 * 250000 ∧ code =
    0 ∧ Zone.grantKind g = 1 ∧ i < 1024 :=
  ⟨(on wSvc fun z => { z with grant := some ⟨[1,0,255,3,0xFF,0x1F,5,0,1,2,3,4,5,6,0,0], none, 9999999990⟩ }),
    ⟨[1,0,255,3,0xFF,0x1F,5,0,1,2,3,4,5,6,0,0], none, 9999999990⟩, 1023, 0, by decide +kernel⟩

theorem wit_grantsMoveResourcesAndTheSecureWorldIsWatched_16 : ∃ (s : State) (g : GrantRun) (i code : Nat), s.zone.logicRuns =
    true ∧ s.zone.grant = some g ∧ i = Zone.grantIndex g ∧ s.zone.quiesced g = true ∧ s.zone.mono < g.start + 10 * 250000 ∧ code =
    0 ∧ Zone.grantKind g = 2 ∧ i < 24 ∧ grantArgsOk g.args = true :=
  ⟨(on wSvc fun z => { z with grant := some ⟨[2,0,15,0,0xFF,0x0F,1,64,0,0x10,0,0,0,0,0,0], none, 9999999990⟩ }),
    ⟨[2,0,15,0,0xFF,0x0F,1,64,0,0x10,0,0,0,0,0,0], none, 9999999990⟩, 15, 0, by decide +kernel⟩

theorem wit_grantsMoveResourcesAndTheSecureWorldIsWatched_17 : ∃ (s : State) (g : GrantRun) (i code : Nat), s.zone.logicRuns =
    true ∧ s.zone.grant = some g ∧ i = Zone.grantIndex g ∧ s.zone.quiesced g = true ∧ s.zone.mono < g.start + 10 * 250000 ∧ code =
    0 ∧ Zone.grantKind g = 3 ∧ i < 48 :=
  ⟨(on wSvc fun z => { z with grant := some ⟨[3,0,47,0,0xFF,0x1F,0,0,0,0,0,0,0,0,0,0], none, 9999999990⟩ }),
    ⟨[3,0,47,0,0xFF,0x1F,0,0,0,0,0,0,0,0,0,0], none, 9999999990⟩, 47, 0, by decide +kernel⟩

theorem wit_grantsMoveResourcesAndTheSecureWorldIsWatched_18 : ∃ (s : State) (g : GrantRun) (i code : Nat), s.zone.logicRuns =
    true ∧ s.zone.grant = some g ∧ i = Zone.grantIndex g ∧ s.zone.quiesced g = true ∧ s.zone.mono < g.start + 10 * 250000 ∧ code =
    0 ∧ Zone.grantKind g = 4 ∧ 1 ≤ i ∧ i < 256 :=
  ⟨(on wSvc fun z => { z with grant := some ⟨[4,0,255,0,0xFF,0x1F,0,0,0,0,0,0,0,0,0,0], none, 9999999990⟩ }),
    ⟨[4,0,255,0,0xFF,0x1F,0,0,0,0,0,0,0,0,0,0], none, 9999999990⟩, 255, 0, by decide +kernel⟩

theorem wit_grantsMoveResourcesAndTheSecureWorldIsWatched_19 : ∃ (s : State) (g : GrantRun) (i code : Nat), s.zone.logicRuns =
    true ∧ s.zone.grant = some g ∧ i = Zone.grantIndex g ∧ s.zone.quiesced g = true ∧ s.zone.mono < g.start + 10 * 250000 ∧ code =
    0 ∧ Zone.grantKind g = 5 ∧ i < 64 :=
  ⟨(on wSvc fun z => { z with grant := some ⟨[5,0,63,0,0xFF,0x1F,0,0,0,0,0,0,0,0,0,0], none, 9999999990⟩ }),
    ⟨[5,0,63,0,0xFF,0x1F,0,0,0,0,0,0,0,0,0,0], none, 9999999990⟩, 63, 0, by decide +kernel⟩

theorem wit_grantsMoveResourcesAndTheSecureWorldIsWatched_20 : ∃ (s : State), (s.zone.logicRuns = false ∨ s.zone.grant.all (fun g
    => !s.zone.quiesced g || decide (g.start + 10 * 250000 ≤ s.zone.mono)) = true) :=
  ⟨wSvc, by decide +kernel⟩

theorem wit_grantsMoveResourcesAndTheSecureWorldIsWatched_21 : ∃ (s : State) (g : GrantRun) (i code : Nat), s.zone.logicRuns =
    true ∧ s.zone.grant = some g ∧ i = Zone.grantIndex g ∧ g.start + 10 * 250000 ≤ s.zone.mono ∧ code = 0x51 ∧ ((Zone.grantKind g
    = 3 ∧ i < 48) ∨ (Zone.grantKind g = 5 ∧ i < 64) ∨ (Zone.grantKind g = 1 ∧ i < 1024)) :=
  ⟨(on wSvc fun z =>
    { z.wr (pOWNL + 188) 0x80000005 with grant := some ⟨[3,0,47,0,0xFF,0x0F,0,0,0,0,0,0,0,0,0,0], none, 9997500000⟩ }),
    ⟨[3,0,47,0,0xFF,0x0F,0,0,0,0,0,0,0,0,0,0], none, 9997500000⟩, 47, 0x51, by decide +kernel⟩

theorem wit_grantsMoveResourcesAndTheSecureWorldIsWatched_22 : ∃ (s : State) (g : GrantRun) (i code : Nat), s.zone.logicRuns =
    true ∧ s.zone.grant = some g ∧ i = Zone.grantIndex g ∧ g.start + 10 * 250000 ≤ s.zone.mono ∧ code = 0x51 ∧ Zone.grantKind g =
    2 ∧ i < 24 :=
  ⟨(on wSvc fun z => { z.setFld (pCAN 15) CAN.RX_CFG_OWNER_KIND 1 with grant := some ⟨[2,0,15,0], none, 9997500000⟩ }),
    ⟨[2,0,15,0], none, 9997500000⟩, 15, 0x51, by decide +kernel⟩

theorem wit_grantsMoveResourcesAndTheSecureWorldIsWatched_23 : ∃ (s : State) (g : GrantRun) (i code : Nat), s.zone.logicRuns =
    true ∧ s.zone.grant = some g ∧ i = Zone.grantIndex g ∧ g.start + 10 * 250000 ≤ s.zone.mono ∧ code = 0x51 ∧ Zone.grantKind g =
    4 ∧ 1 ≤ i ∧ i < 256 :=
  ⟨(on wSvc fun z => { z with grant := some ⟨[4,0,255,0], none, 9997500000⟩ }), ⟨[4,0,255,0], none, 9997500000⟩, 255, 0x51, by
    decide +kernel⟩

theorem wit_grantsMoveResourcesAndTheSecureWorldIsWatched_24 : ∃ (s : State), (s.zone.logicRuns = false ∨ s.zone.grant.all (fun g
    => decide (s.zone.mono < g.start + 10 * 250000)) = true) :=
  ⟨wSvc, by decide +kernel⟩

theorem wit_grantsMoveResourcesAndTheSecureWorldIsWatched_25 : ∃ (s : State) (src : Source), s.zone.start.released = true ∧
    src.world = .secure :=
  ⟨wSvc, secureSrc, by decide +kernel⟩

theorem wit_grantsMoveResourcesAndTheSecureWorldIsWatched_26 : ∃ (s : State) (src : Source), (s.zone.start.released = false ∨
    src.world = .normal) :=
  ⟨wSvc, ⟨.normal, 0⟩, by decide +kernel⟩

theorem wit_grantsMoveResourcesAndTheSecureWorldIsWatched_27 : ∃ (s : State) (src : Source), s.zone.start.released = true ∧
    src.world = .secure ∧ s.zone.secState ≠ SecState.failed :=
  ⟨wSvc, secureSrc, by decide +kernel⟩

theorem wit_grantsMoveResourcesAndTheSecureWorldIsWatched_28 : ∃ (s : State) (src : Source), (s.zone.start.released = false ∨
    src.world = .normal ∨ s.zone.secState = SecState.failed) :=
  ⟨wSvc, ⟨.normal, 0⟩, by decide +kernel⟩

theorem wit_grantsMoveResourcesAndTheSecureWorldIsWatched_29 : ∃ (s : State), s.zone.logicRuns = true ∧ s.zone.swdt.armed = true ∧
    s.zone.swdt.kickAt + s.zone.fld pTU TU.SWDT_CFG_TIMEOUT * 250000 ≤ s.zone.mono :=
  ⟨(on wSvc fun z =>
    { (z.setHart 7 { z.hart 7 with atBoot := false }).setFld pTU TU.SWDT_CFG_TIMEOUT 1 with swdt := ⟨true, 9999750000, none⟩ }),
    by decide +kernel⟩

theorem wit_grantsMoveResourcesAndTheSecureWorldIsWatched_30 : ∃ (s : State), (s.zone.logicRuns = false ∨ s.zone.swdt.armed =
    false ∨ s.zone.mono < s.zone.swdt.kickAt + s.zone.fld pTU TU.SWDT_CFG_TIMEOUT * 250000) :=
  ⟨wSvc, by decide +kernel⟩

theorem wit_grantsMoveResourcesAndTheSecureWorldIsWatched_32 : ∃ (s : State) (t n : Nat), s.zone.logicRuns = true ∧
    s.zone.swdt.resetAt = some t ∧ t + 2000 * 250000 ≤ s.zone.mono ∧ n = s.zone.fld pTU TU.SECURE_STATE_FAILS + 1 ∧ n < 3 :=
  ⟨(on wSvc fun z => { z.setFld pTU TU.SECURE_STATE_FAILS 1 with swdt := ⟨false, 0, some 9500000000⟩ }), 9500000000, 2, by
    decide +kernel⟩

theorem wit_grantsMoveResourcesAndTheSecureWorldIsWatched_33 : ∃ (s : State) (t : Nat), s.zone.logicRuns = true ∧
    s.zone.swdt.resetAt = some t ∧ t + 2000 * 250000 ≤ s.zone.mono ∧ 2 ≤ s.zone.fld pTU TU.SECURE_STATE_FAILS :=
  ⟨(on wSvc fun z => { z.setFld pTU TU.SECURE_STATE_FAILS 2 with swdt := ⟨false, 0, some 9500000000⟩ }), 9500000000, by
    decide +kernel⟩

theorem wit_grantsMoveResourcesAndTheSecureWorldIsWatched_34 : ∃ (s : State), (s.zone.logicRuns = false ∨ s.zone.swdt.resetAt.all
    (fun t => decide (s.zone.mono < t + 2000 * 250000)) = true) :=
  ⟨wSvc, by decide +kernel⟩

theorem wit_grantsMoveResourcesAndTheSecureWorldIsWatched_35 : ∃ (s : State) (n : Fin 8), s.zone.start.released = true ∧
    (s.zone.secState = SecState.resetting ∨ s.zone.secState = SecState.failed) ∧ (s.zone.hart n.val).runs = .normal :=
  ⟨(on wSvc fun z => (z.setHart 7 { z.hart 7 with runs := .normal }).setFld pTU TU.SECURE_STATE_STATE 3), 7, by decide +kernel⟩

theorem wit_grantsMoveResourcesAndTheSecureWorldIsWatched_36 : ∃ (s : State) (n : Fin 8), (s.zone.start.released = false ∨
    (s.zone.secState ≠ SecState.resetting ∧ s.zone.secState ≠ SecState.failed) ∨ (s.zone.hart n.val).runs = .secure) :=
  ⟨wSvc, 7, by decide +kernel⟩


/-! ### Hinges -/

theorem wit_hingesCarryWritesReadsAndTheirErrors_1 : ∃ (s : State) (t : HingeTxn) (k : Nat) (inbound pq : Bool), s.zone.logicRuns
    = true ∧ k = 1 ∧ inbound = false ∧ pq = true ∧ (s.zone.hinge k).posted.find? (fun u => u.inbound == inbound) = some t ∧ (∀ p ∈
    (s.zone.hinge k).port, p.posted = pq → p.txn.inbound ≠ inbound) ∧ 0x1E0000000 ≤ t.addr ∧ t.addr + t.data.length ≤ 0x1E0200000
    ∧ (∀ m : Fin 4, (s.zone.core m.val).fault = none) :=
  ⟨(on wSvc fun z => z.setHinge 1
    { z.hinge 1 with posted := [⟨true, true, 0x1E0000000, secureSrc, 1, [5], false, 0⟩, ⟨true, false, 0x1E01FFFFE, secureSrc, 2, [5, 6], false, 0⟩] }),
    ⟨true, false, 0x1E01FFFFE, secureSrc, 2, [5, 6], false, 0⟩, 1, false, true, by decide +kernel⟩

theorem wit_hingesCarryWritesReadsAndTheirErrors_2 : ∃ (s : State) (t : HingeTxn) (k n : Nat) (inbound pq : Bool),
    s.zone.logicRuns = true ∧ k = 1 ∧ inbound = false ∧ pq = true ∧ (s.zone.hinge k).posted.find? (fun u => u.inbound == inbound)
    = some t ∧ (∀ p ∈ (s.zone.hinge k).port, p.posted = pq → p.txn.inbound ≠ inbound) ∧ n < 8 ∧ t.addr = 0x1F2080000 + n * 0x1000
    ∧ leNat t.data % 2048 < 64 :=
  ⟨(on wSvc fun z => z.setHinge 1
    { z.hinge 1 with posted := [⟨true, false, 0x1F2087000, secureSrc, 4, [63, 0, 0, 0], false, 0⟩] }), ⟨true, false, 0x1F2087000,
    secureSrc, 4, [63, 0, 0, 0], false, 0⟩, 1, 7, false, true, by decide +kernel⟩

theorem wit_hingesCarryWritesReadsAndTheirErrors_3 : ∃ (s : State) (t : HingeTxn) (k : Nat) (inbound pq : Bool), s.zone.logicRuns
    = true ∧ k = 0 ∧ inbound = false ∧ pq = true ∧ (s.zone.hinge k).posted.find? (fun u => u.inbound == inbound) = some t ∧ (∀ p ∈
    (s.zone.hinge k).port, p.posted = pq → p.txn.inbound ≠ inbound) :=
  ⟨(on wSvc fun z => z.setHinge 0 { z.hinge 0 with posted := [⟨true, false, 0x2000000000, secureSrc, 1, [9], false, 2⟩] }), ⟨true,
    false, 0x2000000000, secureSrc, 1, [9], false, 2⟩, 0, false, true, by decide +kernel⟩

theorem wit_hingesCarryWritesReadsAndTheirErrors_4 : ∃ (s : State) (t : HingeTxn) (k : Nat) (inbound pq : Bool), s.zone.logicRuns
    = true ∧ k = 1 ∧ inbound = true ∧ pq = true ∧ (s.zone.hinge k).posted.find? (fun u => u.inbound == inbound) = some t ∧ (∀ p ∈
    (s.zone.hinge k).port, p.posted = pq → p.txn.inbound ≠ inbound) ∧ s.zone.flag pTU TU.TU_CTRL_EN = false ∧ 0x1000000000 ≤
    t.addr ∧ t.addr + t.data.length ≤ 0x1400000000 ∧ t.data.length = t.size ∧ [1, 2, 4, 8, 16, 32, 64].contains t.size = true ∧
    t.addr % t.size = 0 ∧ s.zone.permitted 1 t.src false true t.addr t.size = true ∧ (s.zone.hinge 1).lines = [] :=
  ⟨(on (wOpen 1 0x1000000 0x13FFFFF) fun z => z.setHinge 1
    { z.hinge 1 with posted := [⟨true, true, 0x13FFFFFFFE, secureSrc, 2, [5, 6], false, 0⟩] }), ⟨true, true, 0x13FFFFFFFE,
    secureSrc, 2, [5, 6], false, 0⟩, 1, true, true, by decide +kernel⟩

theorem wit_hingesCarryWritesReadsAndTheirErrors_5 : ∃ (s : State) (t : HingeTxn) (k : Nat) (inbound pq : Bool), s.zone.logicRuns
    = true ∧ k = 1 ∧ inbound = true ∧ pq = true ∧ (s.zone.hinge k).posted.find? (fun u => u.inbound == inbound) = some t ∧ (∀ p ∈
    (s.zone.hinge k).port, p.posted = pq → p.txn.inbound ≠ inbound) ∧ s.zone.flag pTU TU.TU_CTRL_EN = false ∧ 0x1000000000 ≤
    t.addr ∧ t.addr + t.data.length ≤ 0x1400000000 ∧ t.data.length = t.size ∧ [1, 2, 4, 8, 16, 32, 64].contains t.size = true ∧
    t.addr % t.size = 0 ∧ s.zone.permitted 1 t.src false true t.addr t.size = false ∧ (s.zone.hinge 1).errs.length < 16 :=
  ⟨(on wSvc fun z => z.setHinge 1 { z.hinge 1 with posted := [⟨true, true, 0x13FFFFFFFE, ⟨.normal, 5⟩, 2, [5, 6], false, 0⟩] }),
    ⟨true, true, 0x13FFFFFFFE, ⟨.normal, 5⟩, 2, [5, 6], false, 0⟩, 1, true, true, by decide +kernel⟩

theorem wit_hingesCarryWritesReadsAndTheirErrors_6 : ∃ (s : State) (t : HingeTxn) (k : Nat) (inbound pq : Bool), s.zone.logicRuns
    = true ∧ k = 1 ∧ inbound = true ∧ pq = true ∧ (s.zone.hinge k).posted.find? (fun u => u.inbound == inbound) = some t ∧ (∀ p ∈
    (s.zone.hinge k).port, p.posted = pq → p.txn.inbound ≠ inbound) ∧ s.zone.flag pTU TU.TU_CTRL_EN = false ∧ 0x1000000000 ≤
    t.addr ∧ t.addr + t.data.length ≤ 0x1400000000 ∧ t.data.length = t.size ∧ [1, 2, 4, 8, 16, 32, 64].contains t.size = true ∧
    t.addr % t.size = 0 ∧ s.zone.permitted 1 t.src false true t.addr t.size = false ∧ 16 ≤ (s.zone.hinge 1).errs.length :=
  ⟨(on wSvc fun z => z.setHinge 1
    { z.hinge 1 with posted := [⟨true, true, 0x13FFFFFFFE, ⟨.normal, 5⟩, 2, [5, 6], false, 0⟩], errs := List.replicate 16 ⟨5, 1, true, false, secureSrc⟩ }),
    ⟨true, true, 0x13FFFFFFFE, ⟨.normal, 5⟩, 2, [5, 6], false, 0⟩, 1, true, true, by decide +kernel⟩

theorem wit_hingesCarryWritesReadsAndTheirErrors_7 : ∃ (s : State) (t : HingeTxn) (k : Nat) (inbound pq : Bool) (p : PortTxn),
    s.zone.logicRuns = true ∧ k = 0 ∧ inbound = false ∧ pq = true ∧ (s.zone.hinge k).posted.find? (fun u => u.inbound == inbound)
    = some t ∧ (s.zone.hinge k).port.find? (fun p => p.posted == pq && p.txn.inbound == inbound) = some p :=
  ⟨(on wSvc fun z => z.setHinge 0
    { z.hinge 0 with posted := List.replicate 64 ⟨true, false, 0x2000000000, secureSrc, 1, [9], false, 2⟩, port := [⟨⟨true, false, 0x2000000008, secureSrc, 1, [7], false, 0⟩, true, true⟩], next := 77 }),
    ⟨true, false, 0x2000000000, secureSrc, 1, [9], false, 2⟩, 0, false, true, ⟨⟨true, false, 0x2000000008, secureSrc, 1, [7],
    false, 0⟩, true, true⟩, by decide +kernel⟩

theorem wit_hingesCarryWritesReadsAndTheirErrors_8 : ∃ (s : State) (t : HingeTxn) (k n : Nat) (inbound pq : Bool),
    s.zone.logicRuns = true ∧ k = 1 ∧ inbound = false ∧ pq = false ∧ (s.zone.hinge k).waiting.find? (fun u => u.inbound ==
    inbound) = some t ∧ (∀ p ∈ (s.zone.hinge k).port, p.posted = pq → p.txn.inbound ≠ inbound) ∧ (∀ p ∈ (s.zone.hinge 1).posted,
    p.inbound = false → t.seq < p.seq) ∧ Zone.freeTag (s.zone.hinge 1) false = some n ∧ t.write = false ∧ t.addr < 0x1F0000000 :=
  ⟨(on wSvc fun z => z.setHinge 1
    { z.hinge 1 with waiting := [⟨false, false, 0x1E0000000, secureSrc, 2, [], false, 5⟩], posted := [⟨true, false, 0x1E0000000, secureSrc, 1, [9], false, 6⟩], reqs := [⟨0, ⟨false, false, 0x1E0000000, secureSrc, 2, [], false, 5⟩, 5, none⟩], next := 9 }),
    ⟨false, false, 0x1E0000000, secureSrc, 2, [], false, 5⟩, 1, 1, false, false, by decide +kernel⟩

theorem wit_hingesCarryWritesReadsAndTheirErrors_9 : ∃ (s : State) (t : HingeTxn) (k n : Nat) (inbound pq : Bool),
    s.zone.logicRuns = true ∧ k = 0 ∧ inbound = false ∧ pq = false ∧ (s.zone.hinge k).waiting.find? (fun u => u.inbound ==
    inbound) = some t ∧ (∀ p ∈ (s.zone.hinge k).port, p.posted = pq → p.txn.inbound ≠ inbound) ∧ (∀ p ∈ (s.zone.hinge 0).posted,
    p.inbound = false → t.seq < p.seq) ∧ Zone.freeTag (s.zone.hinge 0) false = some n :=
  ⟨(on wSvc fun z => z.setHinge 0 { z.hinge 0 with waiting := [⟨false, false, 0x2000000000, secureSrc, 8, [], false, 1⟩] }),
    ⟨false, false, 0x2000000000, secureSrc, 8, [], false, 1⟩, 0, 0, false, false, by decide +kernel⟩

theorem wit_hingesCarryWritesReadsAndTheirErrors_10 : ∃ (s : State) (t : HingeTxn) (k n : Nat) (inbound pq : Bool),
    s.zone.logicRuns = true ∧ k = 1 ∧ inbound = true ∧ pq = false ∧ (s.zone.hinge k).waiting.find? (fun u => u.inbound == inbound)
    = some t ∧ (∀ p ∈ (s.zone.hinge k).port, p.posted = pq → p.txn.inbound ≠ inbound) ∧ (∀ p ∈ (s.zone.hinge 1).posted, p.inbound
    = true → t.seq < p.seq) ∧ Zone.freeTag (s.zone.hinge 1) true = some n ∧ t.write = false ∧ t.prefetch = false ∧ s.zone.flag pTU
    TU.TU_CTRL_EN = false ∧ 0x1000000000 ≤ t.addr ∧ t.addr + t.size ≤ 0x1400000000 ∧ [1, 2, 4, 8, 16, 32, 64].contains t.size =
    true ∧ t.addr % t.size = 0 ∧ s.zone.permitted 1 t.src true false t.addr t.size = true :=
  ⟨(on (wOpen 1 0x1000000 0x13FFFFF) fun z => z.setHinge 1
    { z.hinge 1 with waiting := [⟨false, true, 0x13FFFFFFF8, secureSrc, 8, [], false, 0⟩] }), ⟨false, true, 0x13FFFFFFF8,
    secureSrc, 8, [], false, 0⟩, 1, 0, true, false, by decide +kernel⟩

theorem wit_hingesCarryWritesReadsAndTheirErrors_11 : ∃ (s : State) (t : HingeTxn) (k n : Nat) (inbound pq : Bool),
    s.zone.logicRuns = true ∧ k = 1 ∧ inbound = true ∧ pq = false ∧ (s.zone.hinge k).waiting.find? (fun u => u.inbound == inbound)
    = some t ∧ (∀ p ∈ (s.zone.hinge k).port, p.posted = pq → p.txn.inbound ≠ inbound) ∧ (∀ p ∈ (s.zone.hinge 1).posted, p.inbound
    = true → t.seq < p.seq) ∧ Zone.freeTag (s.zone.hinge 1) true = some n ∧ t.write = false ∧ t.prefetch = false ∧ s.zone.flag pTU
    TU.TU_CTRL_EN = false ∧ 0x1000000000 ≤ t.addr ∧ t.addr + t.size ≤ 0x1400000000 ∧ [1, 2, 4, 8, 16, 32, 64].contains t.size =
    true ∧ t.addr % t.size = 0 ∧ s.zone.permitted 1 t.src true false t.addr t.size = false :=
  ⟨(on wSvc fun z => z.setHinge 1 { z.hinge 1 with waiting := [⟨false, true, 0x13FFFFFFF8, ⟨.normal, 5⟩, 8, [], false, 0⟩] }),
    ⟨false, true, 0x13FFFFFFF8, ⟨.normal, 5⟩, 8, [], false, 0⟩, 1, 0, true, false, by decide +kernel⟩

theorem wit_hingesCarryWritesReadsAndTheirErrors_12 : ∃ (s : State) (h : Fin 3) (inbound : Bool) (p t : HingeTxn), (s.zone.hinge
    h.val).waiting.find? (fun u => u.inbound == inbound) = some t ∧ p ∈ (s.zone.hinge h.val).posted ∧ p.inbound = inbound ∧ p.seq
    < t.seq :=
  ⟨(on wSvc fun z => z.setHinge 1
    { z.hinge 1 with posted := [⟨true, false, 0x1E01FFFFE, secureSrc, 2, [5, 6], false, 0⟩], waiting := [⟨false, false, 0x1E0000000, secureSrc, 2, [], false, 5⟩] }),
    1, false, ⟨true, false, 0x1E01FFFFE, secureSrc, 2, [5, 6], false, 0⟩, ⟨false, false, 0x1E0000000, secureSrc, 2, [], false, 5⟩,
    by decide +kernel⟩

theorem wit_hingesCarryWritesReadsAndTheirErrors_13 : ∃ (s : State) (h : Fin 3) (inbound : Bool) (t : HingeTxn), s.zone.logicRuns
    = true ∧ (s.zone.hinge h.val).waiting.find? (fun u => u.inbound == inbound) = some t ∧ (∀ p ∈ (s.zone.hinge h.val).posted,
    p.inbound = inbound → t.seq < p.seq) ∧ Zone.freeTag (s.zone.hinge h.val) inbound = none :=
  ⟨(on wSvc fun z => z.setHinge 1
    { z.hinge 1 with waiting := [⟨false, false, 0x1E0000000, secureSrc, 2, [], false, 5⟩], reqs := (List.range 128).map fun n => ⟨n, ⟨false, false, 0x1E0000000, secureSrc, 2, [], false, 5⟩, 5, none⟩ }),
    1, false, ⟨false, false, 0x1E0000000, secureSrc, 2, [], false, 5⟩, by decide +kernel⟩

theorem wit_hingesCarryWritesReadsAndTheirErrors_14 : ∃ (s : State) (h : Fin 3) (inbound posted : Bool), (s.zone.logicRuns = false
    ∨ ((if posted then (s.zone.hinge h.val).posted else (s.zone.hinge h.val).waiting).find? (fun u => u.inbound == inbound) =
    none)) :=
  ⟨wSvc, 2, true, true, by decide +kernel⟩

theorem wit_hingesCarryWritesReadsAndTheirErrors_15 : ∃ (s : State) (p : PcieTxn) (src : Source), s.zone.logicRuns = true ∧
    s.zone.h0Up = true ∧ (s.zone.hinge 0).waiting.find? (fun u => u.inbound == true) = none ∧ (∀ q ∈ (s.zone.hinge 0).port,
    q.posted = true → q.txn.inbound = false) ∧ ((s.zone.hinge 0).posted.filter fun u => u.inbound == true).length < 64 ∧ p.write =
    true ∧ 1 ≤ p.size.toNat ∧ p.size.toNat ≤ 256 ∧ src = ⟨if s.zone.flag (pHINGE 0) HINGE.H0_DMA_WORLD then .secure else .normal,
    BitVec.ofNat 12 (s.zone.fld (pHINGE 0) HINGE.H0_DMA_MOORING)⟩ :=
  ⟨(on wSvc fun z => z.setFld (pHINGE 0) HINGE.HSTATUS_LINK_UP 1), (⟨true, 0x1000000000, 4, [1,2,3,4]⟩), ⟨.secure, 0⟩, by
    decide +kernel⟩

theorem wit_hingesCarryWritesReadsAndTheirErrors_16 : ∃ (s : State) (p : PcieTxn) (src : Source), s.zone.logicRuns = true ∧
    s.zone.h0Up = true ∧ (s.zone.hinge 0).posted.find? (fun u => u.inbound == true) = none ∧ (∀ q ∈ (s.zone.hinge 0).port,
    q.posted = false → q.txn.inbound = false) ∧ ((s.zone.hinge 0).waiting.filter fun u => u.inbound == true).length < 32 ∧ p.write
    = false ∧ 1 ≤ p.size.toNat ∧ p.size.toNat ≤ 512 ∧ src = ⟨if s.zone.flag (pHINGE 0) HINGE.H0_DMA_WORLD then .secure else
    .normal, BitVec.ofNat 12 (s.zone.fld (pHINGE 0) HINGE.H0_DMA_MOORING)⟩ :=
  ⟨(on wSvc fun z => z.setFld (pHINGE 0) HINGE.HSTATUS_LINK_UP 1), (⟨false, 0x1000000000, 512, []⟩), ⟨.secure, 0⟩, by
    decide +kernel⟩

theorem wit_hingesCarryWritesReadsAndTheirErrors_17 : ∃ (s : State) (h : Fin 3) (inbound posted : Bool) (p : PcieTxn),
    (s.zone.h0Up = false ∨ (p.write = true ∧ 256 < p.size.toNat) ∨ 512 < p.size.toNat ∨ p.size.toNat = 0 ∨ h.val ≠ 0 ∨ inbound =
    false) ∧ ((if posted then (s.zone.hinge h.val).posted else (s.zone.hinge h.val).waiting).find? (fun u => u.inbound == inbound)
    = none) :=
  ⟨(on wSvc fun z => z.setFld (pHINGE 0) HINGE.HSTATUS_LINK_UP 1), 0, true, true, (⟨true, 0x1000000000, 257, []⟩), by
    decide +kernel⟩

theorem wit_hingesCarryWritesReadsAndTheirErrors_18 : ∃ (s : State) (h : Fin 3) (inbound : Bool) (n : Fin 128) (data : List Byte)
    (lines : List (List Byte × Bool)) (r : HingeReq) (d : List Byte) (seq : Nat) (code : Fin 13), s.zone.logicRuns = true ∧
    (s.zone.hinge h.val).reqs.find? (fun r => r.txn.inbound == inbound && r.tag == n.val) = some r ∧ r.answer = some (Err.none, d,
    seq) ∧ (∀ p ∈ (s.zone.hinge h.val).posted, p.inbound ≠ inbound → seq ≤ p.seq) ∧ (h.val ≠ 0 ∨ inbound = false) ∧ code.val ≠
    Err.ecc :=
  ⟨(on wSvc fun z => z.setHinge 1
    { z.hinge 1 with reqs := [⟨127, ⟨false, false, 0x1E0000000, secureSrc, 2, [], false, 5⟩, 5, some (0, [1, 2], 2)⟩] }), 1,
    false, 127, [], [], ⟨127, ⟨false, false, 0x1E0000000, secureSrc, 2, [], false, 5⟩, 5, some (0, [1, 2], 2)⟩, [1,2], 2, 0, by
    decide +kernel⟩

theorem wit_hingesCarryWritesReadsAndTheirErrors_19 : ∃ (s : State) (inbound : Bool) (n : Fin 128) (data : List Byte) (lines :
    List (List Byte × Bool)) (r : HingeReq) (d : List Byte) (seq c : Nat) (code : Fin 13), s.zone.logicRuns = true ∧ (s.zone.hinge
    1).reqs.find? (fun r => r.txn.inbound == inbound && r.tag == n.val) = some r ∧ r.answer = some (c, d, seq) ∧ (∀ p ∈
    (s.zone.hinge 1).posted, p.inbound ≠ inbound → seq ≤ p.seq) ∧ (c ≠ Err.none ∨ code.val = Err.ecc) :=
  ⟨(on wSvc fun z => z.setHinge 1
    { z.hinge 1 with reqs := [⟨127, ⟨false, false, 0x1E0000000, secureSrc, 2, [], false, 5⟩, 5, some (0, [1, 2], 2)⟩] }), false,
    127, [], [], ⟨127, ⟨false, false, 0x1E0000000, secureSrc, 2, [], false, 5⟩, 5, some (0, [1, 2], 2)⟩, [1,2], 2, 0, 7, by
    decide +kernel⟩

theorem wit_hingesCarryWritesReadsAndTheirErrors_20 : ∃ (s : State) (n : Fin 128) (code : Fin 13) (data : List Byte) (lines : List
    (List Byte × Bool)) (r : HingeReq), s.zone.logicRuns = true ∧ (s.zone.hinge 0).reqs.find? (fun r => r.txn.inbound == false &&
    r.tag == n.val) = some r ∧ r.answer = none ∧ r.txn.prefetch = false ∧ (∀ p ∈ (s.zone.hinge 0).posted, p.inbound = false) :=
  ⟨(on wSvc fun z => z.setHinge 0
    { z.hinge 0 with reqs := [⟨127, ⟨false, false, 0x2000000000, secureSrc, 4, [], false, 0⟩, 5, none⟩] }), 127, 0, [1,2,3,4,5],
    [], ⟨127, ⟨false, false, 0x2000000000, secureSrc, 4, [], false, 0⟩, 5, none⟩, by decide +kernel⟩

theorem wit_hingesCarryWritesReadsAndTheirErrors_21 : ∃ (s : State) (h : Fin 3) (inbound : Bool) (n : Fin 128) (data : List Byte)
    (lines : List (List Byte × Bool)) (r : HingeReq) (p : HingeTxn) (code : Fin 13), (s.zone.hinge h.val).reqs.find? (fun r =>
    r.txn.inbound == inbound && r.tag == n.val) = some r ∧ p ∈ (s.zone.hinge h.val).posted ∧ p.inbound ≠ inbound ∧ (∀ x ∈
    r.answer.toList, p.seq < x.2.2) :=
  ⟨(on wSvc fun z => z.setHinge 1
    { z.hinge 1 with posted := [⟨true, true, 0x1000000000, secureSrc, 1, [9], false, 1⟩], reqs := [⟨127, ⟨false, false, 0x1E0000000, secureSrc, 2, [], false, 5⟩, 5, some (0, [1, 2], 2)⟩] }),
    1, false, 127, [], [], ⟨127, ⟨false, false, 0x1E0000000, secureSrc, 2, [], false, 5⟩, 5, some (0, [1, 2], 2)⟩, ⟨true, true,
    0x1000000000, secureSrc, 1, [9], false, 1⟩, 0, by decide +kernel⟩

theorem wit_hingesCarryWritesReadsAndTheirErrors_22 : ∃ (s : State) (h : Fin 3) (inbound : Bool) (n : Fin 128) (code : Fin 13)
    (data : List Byte) (lines : List (List Byte × Bool)), s.zone.logicRuns = true ∧ (inbound, n.val) ∈ (s.zone.hinge
    h.val).expired :=
  ⟨(on wSvc fun z => z.setHinge 2 { z.hinge 2 with expired := [(true, 127)] }), 2, true, 127, 12, [], [], by decide +kernel⟩

theorem wit_hingesCarryWritesReadsAndTheirErrors_23 : ∃ (s : State) (h : Fin 3) (inbound late : Bool) (n : Fin 128) (code : Fin
    13) (data : List Byte) (lines : List (List Byte × Bool)), (s.zone.logicRuns = false ∨ (late = true ∧ ¬ (inbound, n.val) ∈
    (s.zone.hinge h.val).expired) ∨ (late = false ∧ (s.zone.hinge h.val).reqs.find? (fun r => r.txn.inbound == inbound && r.tag ==
    n.val) = none)) :=
  ⟨wSvc, 2, true, true, 127, 12, [], [], by decide +kernel⟩

theorem wit_hingesCarryWritesReadsAndTheirErrors_24 : ∃ (s : State) (h : Fin 3) (inbound : Bool) (n : Fin 128) (r : HingeReq),
    s.zone.logicRuns = true ∧ (s.zone.hinge h.val).reqs.find? (fun r => r.txn.inbound == inbound && r.tag == n.val) = some r ∧
    r.at_ + s.zone.fld (pHINGE h.val) HINGE.CPL_TIMEOUT_US * 250 ≤ s.zone.mono :=
  ⟨(on wSvc fun z => z.setHinge 0
    { z.hinge 0 with reqs := [⟨127, ⟨false, false, 0x2000000000, secureSrc, 2, [], false, 1⟩, 9997500000, none⟩] }), 0, false,
    127, ⟨127, ⟨false, false, 0x2000000000, secureSrc, 2, [], false, 1⟩, 9997500000, none⟩, by decide +kernel⟩

theorem wit_hingesCarryWritesReadsAndTheirErrors_25 : ∃ (s : State) (h : Fin 3) (inbound : Bool) (n : Fin 128), (s.zone.logicRuns
    = false ∨ ((s.zone.hinge h.val).reqs.find? (fun r => r.txn.inbound == inbound && r.tag == n.val)).all (fun r => decide
    (s.zone.mono < r.at_ + s.zone.fld (pHINGE h.val) HINGE.CPL_TIMEOUT_US * 250)) = true) :=
  ⟨wSvc, 1, false, 127, by decide +kernel⟩

theorem wit_hingesCarryWritesReadsAndTheirErrors_26 : ∃ (s : State), s.zone.logicRuns = true ∧ s.zone.h0Up = true ∧ s.zone.flag
    pLOG LOG0.LOG_CTRL_EN = false ∧ (s.zone.hinge 0).errs.length + (s.zone.hinge 0).posted.length + (s.zone.hinge 0).port.length ≤
    16 :=
  ⟨(on wSvc fun z => (z.setFld (pHINGE 0) HINGE.HSTATUS_LINK_UP 1).setHinge 0
    { z.hinge 0 with reqs := [⟨0, ⟨false, false, 0x2000000000, secureSrc, 2, [], false, 1⟩, 5, none⟩], posted := [⟨true, false, 0x2000000000, secureSrc, 1, [9], false, 2⟩], port := [⟨⟨true, false, 0x2000000001, secureSrc, 1, [8], false, 0⟩, true, true⟩] }),
    by decide +kernel⟩

theorem wit_hingesCarryWritesReadsAndTheirErrors_27 : ∃ (s : State), (s.zone.logicRuns = false ∨ s.zone.h0Up = false) :=
  ⟨wSvc, by decide +kernel⟩

theorem wit_hingesCarryWritesReadsAndTheirErrors_28 : ∃ (s : State) (sp : Fin 4) (wd : Fin 3), s.zone.logicRuns = true ∧
    s.zone.h0Up = false ∧ s.zone.flag (pHINGE 0) HINGE.H0_CTRL_LINK_EN = true ∧ s.zone.flag (pHINGE 0) HINGE.H0_CTRL_PERST = false
    :=
  ⟨(on wSvc fun z => (z.setFld (pHINGE 0) HINGE.H0_CTRL_LINK_EN 1).setFld (pHINGE 0) HINGE.H0_CTRL_PERST 0), 3, 2, by
    decide +kernel⟩

theorem wit_hingesCarryWritesReadsAndTheirErrors_29 : ∃ (s : State) (sp : Fin 4) (wd : Fin 3), (s.zone.logicRuns = false ∨
    s.zone.h0Up = true ∨ s.zone.flag (pHINGE 0) HINGE.H0_CTRL_LINK_EN = false ∨ s.zone.flag (pHINGE 0) HINGE.H0_CTRL_PERST = true)
    :=
  ⟨wSvc, 3, 2, by decide +kernel⟩

theorem wit_hingesCarryWritesReadsAndTheirErrors_30 : ∃ (s : State), s.zone.logicRuns = true ∧ s.zone.h0Up = true :=
  ⟨(on wSvc fun z => z.setFld (pHINGE 0) HINGE.HSTATUS_LINK_UP 1), by decide +kernel⟩

theorem wit_hingesCarryWritesReadsAndTheirErrors_31 : ∃ (s : State), (s.zone.logicRuns = false ∨ s.zone.h0Up = false) :=
  ⟨wSvc, by decide +kernel⟩

theorem wit_hingesCarryWritesReadsAndTheirErrors_32 : ∃ (s : State) (h : Fin 3) (src : Source), s.zone.start.released = true ∧
    s.zone.Grants src (pHINGE h.val + HINGE.ERR_POP_POP.off) 4 true 1 :=
  ⟨(on wSvc fun z => z.setHinge 2 { z.hinge 2 with errs := [⟨5, 1, true, false, secureSrc⟩] }), 2, secureSrc, by decide +kernel⟩

theorem wit_hingesCarryWritesReadsAndTheirErrors_33 : ∃ (s : State) (h : Fin 3) (x : Keeper), s.zone.logicRuns = true ∧
    s.zone.Reaches x (pHINGE h.val + HINGE.ERR_POP_POP.off) :=
  ⟨(on wSvc fun z => z.setHinge 2 { z.hinge 2 with errs := [⟨5, 1, true, false, secureSrc⟩, ⟨6, 1, true, false, secureSrc⟩] }), 2,
    .A, by decide +kernel⟩

theorem wit_hingesCarryWritesReadsAndTheirErrors_34 : ∃ (s : State) (h : Fin 3) (src : Source), s.zone.start.released = true ∧
    s.zone.lineWritten 1 (0x1F0000000 + (pHINGE h.val + HINGE.ERR_POP_POP.off)) 4 = s.zone ∧ s.zone.permitted 12 src false true
    (0x1F0000000 + (pHINGE h.val + HINGE.ERR_POP_POP.off)) 4 = false :=
  ⟨wSvc, 2, ⟨.normal, 5⟩, by decide +kernel⟩

theorem wit_hingesCarryWritesReadsAndTheirErrors_35 : ∃ (s : State) (h : Fin 3) (x : Writer), s.zone.writerActs x = false :=
  ⟨State.reset, 2, (.firmware secureSrc), by decide +kernel⟩

theorem wit_hingesCarryWritesReadsAndTheirErrors_36 : ∃ (s : State) (h : Fin 3) (src : Source), s.zone.start.released = true ∧
    s.zone.Grants src (pHINGE h.val + HINGE.DISC_POP_POP.off) 4 true 1 :=
  ⟨(on wSvc fun z => z.setHinge 2 { z.hinge 2 with discs := [⟨5, 1, true, false, secureSrc⟩] }), 2, secureSrc, by decide +kernel⟩

theorem wit_hingesCarryWritesReadsAndTheirErrors_37 : ∃ (s : State) (h : Fin 3) (x : Keeper), s.zone.logicRuns = true ∧
    s.zone.Reaches x (pHINGE h.val + HINGE.DISC_POP_POP.off) :=
  ⟨(on wSvc fun z => z.setHinge 2 { z.hinge 2 with discs := [⟨5, 1, true, false, secureSrc⟩, ⟨6, 1, true, false, secureSrc⟩] }),
    2, .A, by decide +kernel⟩

theorem wit_hingesCarryWritesReadsAndTheirErrors_38 : ∃ (s : State) (h : Fin 3) (src : Source), s.zone.start.released = true ∧
    s.zone.lineWritten 1 (0x1F0000000 + (pHINGE h.val + HINGE.DISC_POP_POP.off)) 4 = s.zone ∧ s.zone.permitted 12 src false true
    (0x1F0000000 + (pHINGE h.val + HINGE.DISC_POP_POP.off)) 4 = false :=
  ⟨wSvc, 2, ⟨.normal, 5⟩, by decide +kernel⟩

theorem wit_hingesCarryWritesReadsAndTheirErrors_39 : ∃ (s : State) (h : Fin 3) (x : Writer), s.zone.writerActs x = false :=
  ⟨State.reset, 2, (.firmware secureSrc), by decide +kernel⟩

theorem wit_hingesCarryWritesReadsAndTheirErrors_40 : ∃ (s : State) (h : Fin 2) (inbound : Bool) (line : BitVec 64) (x :
    HeldLine), s.zone.logicRuns = true ∧ (s.zone.hinge h.val).lines.filter (fun l => l.inbound == inbound && l.addr == line.toNat
    && decide (l.at_ + s.zone.fld (pHINGE h.val) HINGE.PF_CFG_LIFE * 250 ≤ s.zone.mono)) = [x] ∧ x.answered = false :=
  ⟨(on wSvc fun z => (z.setFld (pHINGE 1) HINGE.PF_CFG_LIFE 4).setHinge 1
    { z.hinge 1 with lines := [⟨0x1E0400000, true, secureSrc, 9999999000, [], false⟩, ⟨0x1E0400000, false, secureSrc, 9999999000, [], false⟩] }),
    1, true, 0x1E0400000, ⟨0x1E0400000, true, secureSrc, 9999999000, [], false⟩, by decide +kernel⟩

theorem wit_hingesCarryWritesReadsAndTheirErrors_41 : ∃ (s : State) (h : Fin 2) (inbound : Bool) (line : BitVec 64) (x :
    HeldLine), s.zone.logicRuns = true ∧ (s.zone.hinge h.val).lines.filter (fun l => l.inbound == inbound && l.addr == line.toNat
    && decide (l.at_ + s.zone.fld (pHINGE h.val) HINGE.PF_CFG_LIFE * 250 ≤ s.zone.mono)) = [x] ∧ x.answered = true :=
  ⟨(on wSvc fun z => (z.setFld (pHINGE 1) HINGE.PF_CFG_LIFE 4).setHinge 1
    { z.hinge 1 with lines := [⟨0x1E0400000, true, secureSrc, 9999999000, [], true⟩] }), 1, true, 0x1E0400000, ⟨0x1E0400000, true,
    secureSrc, 9999999000, [], true⟩, by decide +kernel⟩

theorem wit_hingesCarryWritesReadsAndTheirErrors_42 : ∃ (s : State) (h : Fin 2) (inbound : Bool) (line : BitVec 64),
    (s.zone.logicRuns = false ∨ (s.zone.hinge h.val).lines.filter (fun l => l.inbound == inbound && l.addr == line.toNat && decide
    (l.at_ + s.zone.fld (pHINGE h.val) HINGE.PF_CFG_LIFE * 250 ≤ s.zone.mono)) = []) :=
  ⟨(on wSvc fun z => z.setHinge 1 { z.hinge 1 with lines := [⟨0x1E0400000, true, secureSrc, 9999999999, [], false⟩] }), 1, true,
    0x1E0400000, by decide +kernel⟩

theorem wit_hingesCarryWritesReadsAndTheirErrors_43 : ∃ (s : State) (src : Source) (a d n : Nat), s.zone.start.released = true ∧
    s.zone.Grants src (pHINGE 1 + HINGE.COPY_CTRL_START.off) 4 true 1 ∧ a = s.zone.pairAddr (pHINGE 1) HINGE.COPY_SRC_LO_ADDR
    HINGE.COPY_SRC_HI_ADDR ∧ d = s.zone.pairAddr (pHINGE 1) HINGE.COPY_DST_LO_ADDR HINGE.COPY_DST_HI_ADDR ∧ n = s.zone.fld (pHINGE
    1) HINGE.COPY_LEN_BYTES ∧ a % 4 = 0 ∧ d % 4 = 0 ∧ n % 4 = 0 ∧ 4 ≤ n ∧ n ≤ 1048576 ∧ s.zone.fld (pHINGE 1)
    HINGE.COPY_STATUS_STATE ≠ 1 :=
  ⟨(on wSvc fun z => (z.wr (pHINGE 1 + HINGE.COPY_LEN_BYTES.off) 0x100000).wr (pHINGE 1 + HINGE.COPY_SRC_HI_ADDR.off) 0x10),
    secureSrc, 0x1000000000, 0, 0x100000, by decide +kernel⟩

theorem wit_hingesCarryWritesReadsAndTheirErrors_44 : ∃ (s : State) (src : Source) (a d n : Nat), s.zone.start.released = true ∧
    s.zone.Grants src (pHINGE 1 + HINGE.COPY_CTRL_START.off) 4 true 1 ∧ a = s.zone.pairAddr (pHINGE 1) HINGE.COPY_SRC_LO_ADDR
    HINGE.COPY_SRC_HI_ADDR ∧ d = s.zone.pairAddr (pHINGE 1) HINGE.COPY_DST_LO_ADDR HINGE.COPY_DST_HI_ADDR ∧ n = s.zone.fld (pHINGE
    1) HINGE.COPY_LEN_BYTES ∧ ¬ (a % 4 = 0 ∧ d % 4 = 0 ∧ n % 4 = 0 ∧ 4 ≤ n ∧ n ≤ 1048576) ∧ s.zone.fld (pHINGE 1)
    HINGE.COPY_STATUS_STATE ≠ 1 ∧ s.zone.rd (pHINGE 1 + HINGE.COPY_ROUTE_ROUTE.off) = 0 :=
  ⟨(on wSvc fun z => (z.wr (pHINGE 1 + HINGE.COPY_LEN_BYTES.off) 0x100004).wr (pHINGE 1 + HINGE.COPY_SRC_HI_ADDR.off) 0x10),
    secureSrc, 0x1000000000, 0, 0x100004, by decide +kernel⟩

theorem wit_hingesCarryWritesReadsAndTheirErrors_45 : ∃ (s : State) (src : Source), s.zone.start.released = true ∧ s.zone.Grants
    src (pHINGE 1 + HINGE.COPY_CTRL_START.off) 4 true 1 ∧ s.zone.fld (pHINGE 1) HINGE.COPY_STATUS_STATE = 1 :=
  ⟨(on wSvc fun z => z.setFld (pHINGE 1) HINGE.COPY_STATUS_STATE 1), secureSrc, by decide +kernel⟩

theorem wit_hingesCarryWritesReadsAndTheirErrors_46 : ∃ (s : State) (src : Source), s.zone.start.released = true ∧
    s.zone.lineWritten 1 (0x1F0000000 + (pHINGE 1 + HINGE.COPY_CTRL_START.off)) 4 = s.zone ∧ s.zone.permitted 12 src false true
    (0x1F0000000 + (pHINGE 1 + HINGE.COPY_CTRL_START.off)) 4 = false :=
  ⟨wSvc, ⟨.normal, 5⟩, by decide +kernel⟩

theorem wit_hingesCarryWritesReadsAndTheirErrors_47 : ∃ (s : State) (src : Source), s.zone.start.released = false :=
  ⟨State.reset, secureSrc, by decide +kernel⟩

theorem wit_hingesCarryWritesReadsAndTheirErrors_48 : ∃ (s : State) (src : Source) (a d n : Nat), s.zone.logicRuns = true ∧ a =
    s.zone.pairAddr (pHINGE 1) HINGE.COPY_SRC_LO_ADDR HINGE.COPY_SRC_HI_ADDR ∧ d = s.zone.pairAddr (pHINGE 1)
    HINGE.COPY_DST_LO_ADDR HINGE.COPY_DST_HI_ADDR ∧ n = s.zone.fld (pHINGE 1) HINGE.COPY_LEN_BYTES ∧ s.zone.fld (pHINGE 1)
    HINGE.COPY_STATUS_STATE = 1 ∧ s.zone.gateState 13 = 0 ∧ src = ⟨if s.zone.flag (pHINGE 1) HINGE.COPY_STATUS_WORLD then .secure
    else .normal, BitVec.ofNat 12 (s.zone.fld (pHINGE 1) HINGE.COPY_STATUS_MOORING)⟩ ∧ s.zone.flag pTU TU.TU_CTRL_EN = false ∧
    0x1000000000 ≤ a ∧ 0x1000000000 ≤ d ∧ a + n ≤ 0x1400000000 ∧ d + n ≤ 0x1400000000 ∧ 0 < n ∧ n ≤ 4096 ∧ a % 4096 + n ≤ 4096 ∧ d
    % 4096 + n ≤ 4096 ∧ s.zone.permitted 1 src true false a n = true ∧ s.zone.permitted 1 src false true d n = true ∧
    (s.zone.hinge 1).lines = [] ∧ (∀ m : Fin 4, (s.zone.core m.val).reserved = none) :=
  ⟨(on wSvc fun z => (((((((z.wr (pHINGE 1 + HINGE.COPY_LEN_BYTES.off) 8).wr (pHINGE 1 + HINGE.COPY_SRC_HI_ADDR.off) 0x10).wr
    (pHINGE 1 + HINGE.COPY_DST_HI_ADDR.off) 0x13).wr (pHINGE 1 + HINGE.COPY_DST_LO_ADDR.off) 0xFFFFFFF8).setFld (pHINGE 1)
    HINGE.COPY_STATUS_STATE 1).setFld (pHINGE 1) HINGE.COPY_STATUS_WORLD 1).setMemByte 0x1000000007 9)), sourceZero, 0x1000000000,
    0x13FFFFFFF8, 8, by decide +kernel⟩

theorem wit_hingesCarryWritesReadsAndTheirErrors_49 : ∃ (s : State) (src : Source) (a d n : Nat), s.zone.logicRuns = true ∧ a =
    s.zone.pairAddr (pHINGE 1) HINGE.COPY_SRC_LO_ADDR HINGE.COPY_SRC_HI_ADDR ∧ d = s.zone.pairAddr (pHINGE 1)
    HINGE.COPY_DST_LO_ADDR HINGE.COPY_DST_HI_ADDR ∧ n = s.zone.fld (pHINGE 1) HINGE.COPY_LEN_BYTES ∧ s.zone.fld (pHINGE 1)
    HINGE.COPY_STATUS_STATE = 1 ∧ s.zone.gateState 13 = 0 ∧ src = ⟨if s.zone.flag (pHINGE 1) HINGE.COPY_STATUS_WORLD then .secure
    else .normal, BitVec.ofNat 12 (s.zone.fld (pHINGE 1) HINGE.COPY_STATUS_MOORING)⟩ ∧ s.zone.flag pTU TU.TU_CTRL_EN = false ∧
    0x1000000000 ≤ a ∧ 0x1000000000 ≤ d ∧ a + n ≤ 0x1400000000 ∧ d + n ≤ 0x1400000000 ∧ 0 < n ∧ n ≤ 4096 ∧ a % 4096 + n ≤ 4096 ∧ d
    % 4096 + n ≤ 4096 ∧ s.zone.permitted 1 src true false a n = false ∧ s.zone.rd (pHINGE 1 + HINGE.COPY_ROUTE_ROUTE.off) = 0 :=
  ⟨(on wSvc fun z => (((((z.wr (pHINGE 1 + HINGE.COPY_LEN_BYTES.off) 8).wr (pHINGE 1 + HINGE.COPY_SRC_HI_ADDR.off) 0x10).wr
    (pHINGE 1 + HINGE.COPY_DST_HI_ADDR.off) 0x13).setFld (pHINGE 1) HINGE.COPY_STATUS_STATE 1).setFld (pHINGE 1)
    HINGE.COPY_STATUS_WORLD 0).setFld (pHINGE 1) HINGE.COPY_STATUS_MOORING 5), ⟨.normal, 5⟩, 0x1000000000, 0x1300000000, 8, by
    decide +kernel⟩

theorem wit_hingesCarryWritesReadsAndTheirErrors_50 : ∃ (s : State), (s.zone.logicRuns = false ∨ s.zone.fld (pHINGE 1)
    HINGE.COPY_STATUS_STATE ≠ 1 ∨ s.zone.gateState 13 ≠ 0) :=
  ⟨wSvc, by decide +kernel⟩


/-! ### Logbook -/

theorem wit_recordsAreTakenHashedSealedAndStored_1 : ∃ (s : State) (n : Fin 64) (x : EgressSt), s.zone.logicRuns = true ∧
    s.zone.intakeRuns = true ∧ s.zone.egress 31 = some x ∧ x.complete = true ∧ n.val = (if x.copy.mirror then (s.zone.rd (pLOG +
    LOG0.MIRROR_STREAM_S0.off)).toNat / 256 ^ (x.copy.queue % 4) % 64 else x.copy.queue % 64) ∧ s.zone.streamSource n.val = 1 ∧
    (s.zone.stream n.val).started = true ∧ s.zone.nextSeq n.val + 1 < 2 ^ 64 ∧ s.zone.stageRoom (s.zone.recordNeed n.val
    (s.zone.wireOf 31 x.copy).length) false = true :=
  ⟨(on wLog fun z => (((z.setStream 63 { z.stream 63 with started := true }).setFld (pSTREAM 63) STREAM.STREAM_CFG_SOURCE
    1).setEgress 31 (some ⟨0, 7, ⟨List.replicate 60 1, ⟨0,0,0,0⟩, 0, 1, 0, false, 0, none, none, 63, none, false, false⟩, 1, none,
    false, false⟩))), 63, ⟨0, 7, ⟨List.replicate 60 1, ⟨0,0,0,0⟩, 0, 1, 0, false, 0, none, none, 63, none, false, false⟩, 1, none,
    false, false⟩, by decide +kernel⟩

theorem wit_recordsAreTakenHashedSealedAndStored_2 : ∃ (s : State) (n : Fin 64) (x : EgressSt), s.zone.logicRuns = true ∧
    s.zone.intakeRuns = true ∧ s.zone.egress 31 = some x ∧ x.complete = true ∧ n.val = (if x.copy.mirror then (s.zone.rd (pLOG +
    LOG0.MIRROR_STREAM_S0.off)).toNat / 256 ^ (x.copy.queue % 4) % 64 else x.copy.queue % 64) ∧ s.zone.streamSource n.val = 1 ∧
    (s.zone.stream n.val).started = false ∧ s.zone.nextSeq n.val + 2 < 2 ^ 64 ∧ s.zone.stageRoom (s.zone.recordNeed n.val
    (s.zone.wireOf 31 x.copy).length) false = true :=
  ⟨(on wLog fun z => ((z.wr (pLOG + LOG0.MIRROR_STREAM_S0.off) 0x3F000000).setFld (pSTREAM 63) STREAM.STREAM_CFG_SOURCE
    1).setEgress 31 (some ⟨0, 7, ⟨List.replicate 60 1, ⟨0,0,0,0⟩, 0, 1, 0, false, 0, none, none, 3, none, true, false⟩, 1, none,
    false, false⟩)), 63, ⟨0, 7, ⟨List.replicate 60 1, ⟨0,0,0,0⟩, 0, 1, 0, false, 0, none, none, 3, none, true, false⟩, 1, none,
    false, false⟩, by decide +kernel⟩

theorem wit_recordsAreTakenHashedSealedAndStored_3 : ∃ (s : State) (n : Fin 64) (x : EgressSt), s.zone.logicRuns = true ∧
    s.zone.intakeRuns = true ∧ s.zone.egress 31 = some x ∧ x.complete = true ∧ n.val = (if x.copy.mirror then (s.zone.rd (pLOG +
    LOG0.MIRROR_STREAM_S0.off)).toNat / 256 ^ (x.copy.queue % 4) % 64 else x.copy.queue % 64) ∧ s.zone.streamSource n.val ≠ 1 :=
  ⟨(on wLog fun z => z.setEgress 31 (some ⟨0, 7, ⟨List.replicate 60 1, ⟨0,0,0,0⟩, 0, 1, 0, false, 0, none, none, 63, none, false,
    false⟩, 1, none, false, false⟩)), 63, ⟨0, 7, ⟨List.replicate 60 1, ⟨0,0,0,0⟩, 0, 1, 0, false, 0, none, none, 63, none, false,
    false⟩, 1, none, false, false⟩, by decide +kernel⟩

theorem wit_recordsAreTakenHashedSealedAndStored_4 : ∃ (s : State) (n : Fin 64) (x : EgressSt), s.zone.logicRuns = true ∧
    s.zone.intakeRuns = true ∧ s.zone.egress 31 = some x ∧ x.complete = true ∧ n.val = (if x.copy.mirror then (s.zone.rd (pLOG +
    LOG0.MIRROR_STREAM_S0.off)).toNat / 256 ^ (x.copy.queue % 4) % 64 else x.copy.queue % 64) ∧ s.zone.streamSource n.val = 1 ∧
    s.zone.stageRoom (s.zone.recordNeed n.val (s.zone.wireOf 31 x.copy).length) false = false :=
  ⟨(on wLog fun z =>
    { ((z.setFld pLOG LOG0.STAGE_SIZE_UNITS 1).setFld (pSTREAM 63) STREAM.STREAM_CFG_SOURCE 1).setEgress 31 (some ⟨0, 7, ⟨List.replicate 60 1, ⟨0,0,0,0⟩, 0, 1, 0, false, 0, none, none, 63, none, false, false⟩, 1, none, false, false⟩) with log := { z.log with sealed := List.replicate 31 ⟨⟨63, 1, 7, 0, 0, 5, ⟨5,0,0,0⟩, [], [], List.replicate 256 ⟨1, 63, 5, ⟨5,0,0,0⟩, 0, 0, 0, List.replicate 2048 7⟩⟩, 1, ⟨6,0,0,0⟩, [], some 9, 0, false⟩ } }),
    63, ⟨0, 7, ⟨List.replicate 60 1, ⟨0,0,0,0⟩, 0, 1, 0, false, 0, none, none, 63, none, false, false⟩, 1, none, false, false⟩, by
    decide +kernel⟩

theorem wit_recordsAreTakenHashedSealedAndStored_5 : ∃ (s : State), (s.zone.logicRuns = false ∨ s.zone.intakeRuns = false ∨
    (s.zone.egress 31).all (fun x => !x.complete) = true) :=
  ⟨wLog, by decide +kernel⟩

theorem wit_recordsAreTakenHashedSealedAndStored_6 : ∃ (s : State) (n : Fin 64) (src : Source) (len : BitVec 12),
    s.zone.start.released = true ∧ s.zone.mayPost n.val src = true ∧ s.zone.flag (pSTREAM n.val) STREAM.POST_STATUS_BUSY = false :=
  ⟨(on wLog fun z => z.wr (pOWNS + 252) 0x80000FFF), 63, ⟨.normal, 0xFFF⟩, 4, by decide +kernel⟩

theorem wit_recordsAreTakenHashedSealedAndStored_7 : ∃ (s : State) (n : Fin 64) (src : Source) (len : BitVec 12),
    s.zone.start.released = true ∧ (s.zone.mayPost n.val src = false ∨ s.zone.flag (pSTREAM n.val) STREAM.POST_STATUS_BUSY = true)
    :=
  ⟨wLog, 63, secureSrc, 4, by decide +kernel⟩

theorem wit_recordsAreTakenHashedSealedAndStored_8 : ∃ (s : State) (n : Fin 64) (src : Source) (len : BitVec 12),
    s.zone.start.released = false :=
  ⟨State.reset, 63, secureSrc, 4, by decide +kernel⟩

theorem wit_recordsAreTakenHashedSealedAndStored_9 : ∃ (s : State) (n : Fin 64) (x : Post), s.zone.logicRuns = true ∧
    (s.zone.stream n.val).post = some x ∧ (s.zone.stream n.val).started = true ∧ s.zone.postResult n.val x = 0 ∧ s.zone.nextSeq
    n.val + 1 < 2 ^ 64 :=
  ⟨(on wLog fun z => (z.setStream 63
    { z.stream 63 with started := true, post := some ⟨⟨0,0,0,0⟩, ⟨.secure, 0xFFF⟩, 1, [7]⟩ }).setFld (pSTREAM 63)
    STREAM.STREAM_CFG_SOURCE 2), 63, ⟨⟨0,0,0,0⟩, ⟨.secure, 0xFFF⟩, 1, [7]⟩, by decide +kernel⟩

theorem wit_recordsAreTakenHashedSealedAndStored_10 : ∃ (s : State) (n : Fin 64) (x : Post), s.zone.logicRuns = true ∧
    (s.zone.stream n.val).post = some x ∧ (s.zone.stream n.val).started = false ∧ s.zone.postResult n.val x = 0 ∧ s.zone.nextSeq
    n.val + 2 < 2 ^ 64 :=
  ⟨(on wLog fun z => (z.setStream 63 { z.stream 63 with post := some ⟨⟨0,0,0,0⟩, ⟨.secure, 0xFFF⟩, 1, [7]⟩ }).setFld (pSTREAM 63)
    STREAM.STREAM_CFG_SOURCE 2), 63, ⟨⟨0,0,0,0⟩, ⟨.secure, 0xFFF⟩, 1, [7]⟩, by decide +kernel⟩

theorem wit_recordsAreTakenHashedSealedAndStored_11 : ∃ (s : State) (n : Fin 64) (x : Post), s.zone.logicRuns = true ∧
    (s.zone.stream n.val).post = some x ∧ s.zone.postResult n.val x ≠ 0 :=
  ⟨(on wLog fun z => z.setStream 63 { z.stream 63 with post := some ⟨⟨0,0,0,0⟩, ⟨.secure, 0xFFF⟩, 2049, []⟩ }), 63, ⟨⟨0,0,0,0⟩,
    ⟨.secure, 0xFFF⟩, 2049, []⟩, by decide +kernel⟩

theorem wit_recordsAreTakenHashedSealedAndStored_12 : ∃ (s : State) (n : Fin 64), (s.zone.logicRuns = false ∨ (s.zone.stream
    n.val).post = none) :=
  ⟨wLog, 63, by decide +kernel⟩

theorem wit_recordsAreTakenHashedSealedAndStored_13 : ∃ (s : State) (n : Fin 64) (r : ModRecord) (rest : List ModRecord),
    s.zone.logicRuns = true ∧ s.zone.intakeRuns = true ∧ s.zone.records = r :: rest ∧ s.zone.moduleStream = some n.val ∧
    (s.zone.stream n.val).started = true ∧ s.zone.log.lost = 0 ∧ s.zone.stageRoom (s.zone.recordNeed n.val r.payload.length) true
    = true ∧ s.zone.nextSeq n.val + 1 < 2 ^ 64 :=
  ⟨(on wLog fun z => { z.setStream 0 { z.stream 0 with started := true } with records := [⟨0x21, ⟨0,0,0,0⟩, [1], false⟩] }), 0,
    ⟨0x21, ⟨0,0,0,0⟩, [1], false⟩, [], by decide +kernel⟩

theorem wit_recordsAreTakenHashedSealedAndStored_14 : ∃ (s : State) (n : Fin 64) (r : ModRecord) (rest : List ModRecord),
    s.zone.logicRuns = true ∧ s.zone.intakeRuns = true ∧ s.zone.records = r :: rest ∧ s.zone.moduleStream = some n.val ∧
    (s.zone.stream n.val).started = true ∧ s.zone.log.lost ≠ 0 ∧ s.zone.stageRoom (s.zone.recordNeed n.val r.payload.length +
    recordLen 8) true = true ∧ s.zone.nextSeq n.val + 2 < 2 ^ 64 :=
  ⟨(on wLog fun z =>
    { z.setStream 0 { z.stream 0 with started := true } with records := [⟨0x21, ⟨0,0,0,0⟩, [1], false⟩], log := { (z.setStream 0 { z.stream 0 with started := true }).log with lost := 3 } }),
    0, ⟨0x21, ⟨0,0,0,0⟩, [1], false⟩, [], by decide +kernel⟩

theorem wit_recordsAreTakenHashedSealedAndStored_15 : ∃ (s : State) (r : ModRecord) (rest : List ModRecord), s.zone.logicRuns =
    true ∧ s.zone.intakeRuns = true ∧ s.zone.records = r :: rest ∧ s.zone.moduleStream.all (fun n => !s.zone.stageRoom
    (s.zone.recordNeed n r.payload.length + (if s.zone.log.lost = 0 then 0 else recordLen 8)) true) = true :=
  ⟨(on wLog fun z => { z.setFld (pSTREAM 0) STREAM.STREAM_CFG_SOURCE 0 with records := [⟨0x21, ⟨0,0,0,0⟩, [1], false⟩] }), ⟨0x21,
    ⟨0,0,0,0⟩, [1], false⟩, [], by decide +kernel⟩

theorem wit_recordsAreTakenHashedSealedAndStored_16 : ∃ (s : State), (s.zone.logicRuns = false ∨ s.zone.intakeRuns = false ∨
    s.zone.records = []) :=
  ⟨wLog, by decide +kernel⟩

theorem wit_recordsAreTakenHashedSealedAndStored_17 : ∃ (s : State) (n : Fin 64) (r : LogRec) (rest : List LogItem),
    s.zone.logicRuns = true ∧ s.zone.hashRuns = true ∧ (s.zone.stream n.val).items = .entry r :: rest ∧ rest.head?.all
    (fun i => match i with | .entry _ => true | .close _ => false) = true ∧ (s.zone.stream n.val).opened = none :=
  ⟨(on wLog fun z => (z.setStream 63 { z.stream 63 with items := [.entry ⟨1, 63, 5, ⟨0,0,0,0⟩, 0, 0, 0, [7]⟩] }).setFld (pSTREAM
    63) STREAM.STREAM_STATUS_SEGMENT 7), 63, ⟨1, 63, 5, ⟨0,0,0,0⟩, 0, 0, 0, [7]⟩, [], by decide +kernel⟩

theorem wit_recordsAreTakenHashedSealedAndStored_18 : ∃ (s : State) (n : Fin 64) (r : LogRec) (g : Segment) (rest : List LogItem),
    s.zone.logicRuns = true ∧ s.zone.hashRuns = true ∧ (s.zone.stream n.val).items = .entry r :: rest ∧ rest.head?.all
    (fun i => match i with | .entry _ => true | .close _ => false) = true ∧ (s.zone.stream n.val).opened = some g ∧ r.time.nanos <
    g.openTime.nanos + 1000000000 ∧ 256 + g.bodyLen + recordLen r.payload.length ≤ 16777216 :=
  ⟨(on wLog fun z => z.setStream 63
    { z.stream 63 with items := [.entry ⟨1, 63, 5, ⟨5,999999999,0,0⟩, 0, 0, 0, [7]⟩, .entry ⟨1, 63, 6, ⟨5,999999999,0,0⟩, 0, 0, 0, [7]⟩], opened := some ⟨63, 1, 7, 0, 0, 5, ⟨5,0,0,0⟩, [], [], []⟩ }),
    63, ⟨1, 63, 5, ⟨5,999999999,0,0⟩, 0, 0, 0, [7]⟩, ⟨63, 1, 7, 0, 0, 5, ⟨5,0,0,0⟩, [], [], []⟩, [.entry ⟨1, 63, 6,
    ⟨5,999999999,0,0⟩, 0, 0, 0, [7]⟩], by decide +kernel⟩

theorem wit_recordsAreTakenHashedSealedAndStored_19 : ∃ (s : State) (n : Fin 64) (r : LogRec) (g : Segment) (rest : List LogItem)
    (cause : Nat), s.zone.logicRuns = true ∧ s.zone.hashRuns = true ∧ (s.zone.stream n.val).items = .entry r :: rest ∧
    rest.head?.all (fun i => match i with | .entry _ => true | .close _ => false) = true ∧ (s.zone.stream n.val).opened = some g ∧
    (g.openTime.nanos + 1000000000 ≤ r.time.nanos ∨ 16777216 < 256 + g.bodyLen + recordLen r.payload.length) ∧ cause = (if
    g.openTime.nanos + 1000000000 ≤ r.time.nanos then 1 else 2) ∧ g.number + 1 < 2 ^ 24 :=
  ⟨(on wLog fun z => z.setStream 63
    { z.stream 63 with items := [.entry ⟨1, 63, 5, ⟨6,0,0,0⟩, 0, 0, 0, [7]⟩], opened := some ⟨63, 1, 7, 0, 0, 5, ⟨5,0,0,0⟩, [], [], []⟩ }),
    63, ⟨1, 63, 5, ⟨6,0,0,0⟩, 0, 0, 0, [7]⟩, ⟨63, 1, 7, 0, 0, 5, ⟨5,0,0,0⟩, [], [], []⟩, [], 1, by decide +kernel⟩

theorem wit_recordsAreTakenHashedSealedAndStored_20 : ∃ (s : State) (n : Fin 64), (s.zone.logicRuns = false ∨ s.zone.hashRuns =
    false ∨ (s.zone.stream n.val).items = []) :=
  ⟨wLog, 63, by decide +kernel⟩

theorem wit_recordsAreTakenHashedSealedAndStored_21 : ∃ (s : State) (n : Fin 64) (g : Segment), s.zone.logicRuns = true ∧
    s.zone.hashRuns = true ∧ (s.zone.stream n.val).items = [] ∧ (s.zone.stream n.val).opened = some g ∧ g.openTime.nanos +
    1000000000 ≤ s.zone.nowNs ∧ g.number + 1 < 2 ^ 24 :=
  ⟨(on wLog fun z =>
    { z.setStream 63 { z.stream 63 with opened := some ⟨63, 1, 7, 0, 0, 5, ⟨5,0,0,0⟩, [], [], []⟩ } with time := { z.time with net := { z.time.net with sec := 6 } } }),
    63, ⟨63, 1, 7, 0, 0, 5, ⟨5,0,0,0⟩, [], [], []⟩, by decide +kernel⟩

theorem wit_recordsAreTakenHashedSealedAndStored_22 : ∃ (s : State) (n : Fin 64), (s.zone.logicRuns = false ∨ s.zone.hashRuns =
    false ∨ (s.zone.stream n.val).items ≠ [] ∨ (s.zone.stream n.val).opened.all (fun g => decide (s.zone.nowNs < g.openTime.nanos
    + 1000000000)) = true) :=
  ⟨wLog, 63, by decide +kernel⟩

theorem wit_recordsAreTakenHashedSealedAndStored_23 : ∃ (s : State), s.zone.logicRuns = true :=
  ⟨(on wLog fun z =>
    { (z.setFld pLOG LOG0.LBA_COUNT_BLOCKS 8192).setFld pLOG LOG0.NVME_QCFG_QSIZE 1 with log := { z.log with sealed := [⟨⟨63, 1, 7, 0, 0, 5, ⟨5,0,0,0⟩, [], [], []⟩, 1, ⟨6,0,0,0⟩, [], some 9, 0, false⟩] } }),
    by decide +kernel⟩

theorem wit_recordsAreTakenHashedSealedAndStored_24 : ∃ (s : State), s.zone.logicRuns = false :=
  ⟨(wMode 0), by decide +kernel⟩

theorem wit_recordsAreTakenHashedSealedAndStored_25 : ∃ (s : State) (x : Sealed) (k a : Nat), s.zone.writerRuns = true ∧
    s.zone.log.sealed.findIdx? (fun x => decide (x.issued < x.blocks)) = some k ∧ s.zone.log.sealed[k]? = some x ∧ x.place = none
    ∧ s.zone.findPlace x.blocks = some a :=
  ⟨(on wLog fun z =>
    { (z.setFld pLOG LOG0.LBA_COUNT_BLOCKS 8192).setFld pLOG LOG0.WRITE_PTR_BLOCK 8191 with log := { z.log with sealed := [⟨⟨63, 1, 7, 0, 0, 5, ⟨5,0,0,0⟩, [], [], []⟩, 1, ⟨6,0,0,0⟩, [], none, 0, false⟩], stored := [⟨8191, 1, 5⟩, ⟨8190, 1, 5⟩] } }),
    ⟨⟨63, 1, 7, 0, 0, 5, ⟨5,0,0,0⟩, [], [], []⟩, 1, ⟨6,0,0,0⟩, [], none, 0, false⟩, 0, 8191, by decide +kernel⟩

theorem wit_recordsAreTakenHashedSealedAndStored_26 : ∃ (s : State) (x : Sealed) (k : Nat), s.zone.writerRuns = true ∧
    s.zone.log.sealed.findIdx? (fun x => decide (x.issued < x.blocks)) = some k ∧ s.zone.log.sealed[k]? = some x ∧ x.place = none
    ∧ s.zone.findPlace x.blocks = none :=
  ⟨(on wLog fun z =>
    { (z.setFld pLOG LOG0.LBA_COUNT_BLOCKS 8192).setExtent 3 0 9 true with log := { z.log with sealed := [⟨⟨63, 1, 7, 0, 0, 5, ⟨5,0,0,0⟩, [], [], []⟩, 1, ⟨6,0,0,0⟩, [], none, 0, false⟩], stored := [⟨0, 8192, 5⟩] } }),
    ⟨⟨63, 1, 7, 0, 0, 5, ⟨5,0,0,0⟩, [], [], []⟩, 1, ⟨6,0,0,0⟩, [], none, 0, false⟩, 0, by decide +kernel⟩

theorem wit_recordsAreTakenHashedSealedAndStored_27 : ∃ (s : State) (x : Sealed) (k a : Nat), s.zone.writerRuns = true ∧
    s.zone.log.sealed.findIdx? (fun x => decide (x.issued < x.blocks)) = some k ∧ s.zone.log.sealed[k]? = some x ∧ x.place = some
    a ∧ s.zone.log.cmds.length < min 64 (s.zone.fld pLOG LOG0.NVME_QCFG_QSIZE) ∧ (∀ c ∈ s.zone.log.cmds, c.id ≠ s.zone.log.sqTail)
    ∧ s.zone.h0Up = true :=
  ⟨(on wLog fun z =>
    { ((z.setFld pLOG LOG0.LBA_COUNT_BLOCKS 8192).setFld pLOG LOG0.NVME_QCFG_QSIZE 1).setFld (pHINGE 0) HINGE.HSTATUS_LINK_UP 1 with log := { z.log with sealed := [⟨⟨63, 1, 7, 0, 0, 5, ⟨5,0,0,0⟩, [], [], []⟩, 1, ⟨6,0,0,0⟩, [], some 9, 0, false⟩] } }),
    ⟨⟨63, 1, 7, 0, 0, 5, ⟨5,0,0,0⟩, [], [], []⟩, 1, ⟨6,0,0,0⟩, [], some 9, 0, false⟩, 0, 9, by decide +kernel⟩

theorem wit_recordsAreTakenHashedSealedAndStored_28 : ∃ (s : State), (s.zone.writerRuns = false ∨ ∀ x ∈ s.zone.log.sealed,
    x.blocks ≤ x.issued) :=
  ⟨(on wLog fun z =>
    { z.setFld pLOG LOG0.LBA_COUNT_BLOCKS 8192 with log := { z.log with sealed := [⟨⟨63, 1, 7, 0, 0, 5, ⟨5,0,0,0⟩, [], [], []⟩, 1, ⟨6,0,0,0⟩, [], some 9, 1, false⟩] } }),
    by decide +kernel⟩

theorem wit_recordsAreTakenHashedSealedAndStored_29 : ∃ (s : State) (x : Sealed) (k a : Nat), s.zone.writerRuns = true ∧
    s.zone.log.sealed.findIdx? (fun x => decide (x.issued < x.blocks)) = some k ∧ s.zone.log.sealed[k]? = some x ∧ x.place = some
    a ∧ min 64 (s.zone.fld pLOG LOG0.NVME_QCFG_QSIZE) ≤ s.zone.log.cmds.length :=
  ⟨(on wLog fun z =>
    { (z.setFld pLOG LOG0.LBA_COUNT_BLOCKS 8192).setFld pLOG LOG0.NVME_QCFG_QSIZE 1 with log := { z.log with cmds := [⟨0, 63, 6⟩], sealed := [⟨⟨63, 1, 7, 0, 0, 5, ⟨5,0,0,0⟩, [], [], []⟩, 1, ⟨6,0,0,0⟩, [], some 9, 0, false⟩] } }),
    ⟨⟨63, 1, 7, 0, 0, 5, ⟨5,0,0,0⟩, [], [], []⟩, 1, ⟨6,0,0,0⟩, [], some 9, 0, false⟩, 0, 9, by decide +kernel⟩

theorem wit_recordsAreTakenHashedSealedAndStored_30 : ∃ (s : State) (x : Sealed) (id : BitVec 16) (d : NvmeCmd), s.zone.logicRuns
    = true ∧ s.zone.log.cmds.find? (fun d => d.id == id.toNat) = some d ∧ (s.zone.h0Up = true ∨ s.zone.flag pLOG LOG0.LOG_CTRL_EN
    = false) ∧ s.zone.log.sealed.find? (Zone.isOf d) = some x ∧ x.issued = x.blocks ∧ x.failed = false ∧ (∀ e ∈ s.zone.log.cmds,
    e.id ≠ id.toNat → Zone.isOf e x = false) :=
  ⟨(on wLog fun z =>
    { z.setFld (pHINGE 0) HINGE.HSTATUS_LINK_UP 1 with log := { z.log with sealed := [⟨⟨63, 1, 7, 0, 0, 5, ⟨5,0,0,0⟩, [], [], []⟩, 1, ⟨6,0,0,0⟩, [], some 9, 1, false⟩], cmds := [⟨5, 63, 7⟩, ⟨6, 63, 8⟩] } }),
    ⟨⟨63, 1, 7, 0, 0, 5, ⟨5,0,0,0⟩, [], [], []⟩, 1, ⟨6,0,0,0⟩, [], some 9, 1, false⟩, 5, ⟨5, 63, 7⟩, by decide +kernel⟩

theorem wit_recordsAreTakenHashedSealedAndStored_31 : ∃ (s : State) (x : Sealed) (id : BitVec 16) (d : NvmeCmd), s.zone.logicRuns
    = true ∧ s.zone.log.cmds.find? (fun d => d.id == id.toNat) = some d ∧ (s.zone.h0Up = true ∨ s.zone.flag pLOG LOG0.LOG_CTRL_EN
    = false) ∧ s.zone.log.sealed.find? (Zone.isOf d) = some x ∧ (x.issued < x.blocks ∨ x.failed = true ∨ ∃ e ∈ s.zone.log.cmds,
    e.id ≠ id.toNat ∧ Zone.isOf e x = true) :=
  ⟨(on wLog fun z =>
    { z.setFld (pHINGE 0) HINGE.HSTATUS_LINK_UP 1 with log := { z.log with sealed := [⟨⟨63, 1, 7, 0, 0, 5, ⟨5,0,0,0⟩, [], [], []⟩, 1, ⟨6,0,0,0⟩, [], some 9, 1, false⟩], cmds := [⟨5, 63, 7⟩, ⟨6, 63, 7⟩] } }),
    ⟨⟨63, 1, 7, 0, 0, 5, ⟨5,0,0,0⟩, [], [], []⟩, 1, ⟨6,0,0,0⟩, [], some 9, 1, false⟩, 5, ⟨5, 63, 7⟩, by decide +kernel⟩

theorem wit_recordsAreTakenHashedSealedAndStored_32 : ∃ (s : State) (id : BitVec 16) (status : BitVec 15) (d : NvmeCmd),
    s.zone.logicRuns = true ∧ s.zone.log.cmds.find? (fun d => d.id == id.toNat) = some d ∧ (s.zone.h0Up = true ∨ s.zone.flag pLOG
    LOG0.LOG_CTRL_EN = false) ∧ status ≠ 0 :=
  ⟨(on wLog fun z =>
    { z.setFld (pHINGE 0) HINGE.HSTATUS_LINK_UP 1 with log := { z.log with sealed := [⟨⟨63, 1, 7, 0, 0, 5, ⟨5,0,0,0⟩, [], [], []⟩, 1, ⟨6,0,0,0⟩, [], some 9, 1, false⟩], cmds := [⟨5, 63, 7⟩] } }),
    5, 0x7FFF, ⟨5, 63, 7⟩, by decide +kernel⟩

theorem wit_recordsAreTakenHashedSealedAndStored_33 : ∃ (s : State) (id : BitVec 16) (status : BitVec 15) (d : NvmeCmd),
    s.zone.logicRuns = true ∧ s.zone.log.cmds.find? (fun d => d.id == id.toNat) = some d ∧ s.zone.h0Up = false ∧ s.zone.flag pLOG
    LOG0.LOG_CTRL_EN = true :=
  ⟨(on wLog fun z =>
    { z with log := { z.log with sealed := [⟨⟨63, 1, 7, 0, 0, 5, ⟨5,0,0,0⟩, [], [], []⟩, 1, ⟨6,0,0,0⟩, [], some 9, 1, false⟩], cmds := [⟨5, 63, 7⟩] } }),
    5, 0, ⟨5, 63, 7⟩, by decide +kernel⟩

theorem wit_recordsAreTakenHashedSealedAndStored_34 : ∃ (s : State) (id : BitVec 16) (status : BitVec 15), (s.zone.logicRuns =
    false ∨ s.zone.log.cmds.find? (fun d => d.id == id.toNat) = none) :=
  ⟨wLog, 5, 0, by decide +kernel⟩

theorem wit_recordsAreTakenHashedSealedAndStored_35 : ∃ (s : State) (writer : Writer), s.zone.writerActs writer = true ∧
    s.zone.mayConfigure writer = true ∧ s.zone.flag pLOG LOG0.LOG_STATUS_STORE_ERROR = true :=
  ⟨(on wLog fun z =>
    { z.setFld pLOG LOG0.LOG_STATUS_STORE_ERROR 1 with log := { z.log with sealed := [⟨⟨63, 1, 7, 0, 0, 5, ⟨5,0,0,0⟩, [], [], []⟩, 1, ⟨6,0,0,0⟩, [], some 9, 1, true⟩] } }),
    (.firmware secureSrc), by decide +kernel⟩

theorem wit_recordsAreTakenHashedSealedAndStored_36 : ∃ (s : State) (writer : Writer), (s.zone.writerActs writer = false ∨
    s.zone.mayConfigure writer = false ∨ s.zone.flag pLOG LOG0.LOG_STATUS_STORE_ERROR = false) :=
  ⟨(on wLog fun z => z.setFld pLOG LOG0.LOG_STATUS_STORE_ERROR 1), (.firmware ⟨.normal, 1⟩), by decide +kernel⟩

theorem wit_recordsAreTakenHashedSealedAndStored_37 : ∃ (s : State) (writer : Writer) (mask : BitVec 4), s.zone.writerActs writer
    = true ∧ s.zone.mayConfigure writer = true :=
  ⟨(on wLog fun z => (z.setExtent 3 5 9 true).setFld pLOG LOG0.LOG_STATUS_STORE_FULL 1), (.firmware secureSrc), 8, by
    decide +kernel⟩

theorem wit_recordsAreTakenHashedSealedAndStored_38 : ∃ (s : State) (writer : Writer) (mask : BitVec 4), (s.zone.writerActs writer
    = false ∨ s.zone.mayConfigure writer = false) :=
  ⟨(on wLog fun z => z.setExtent 3 5 9 true), (.keeper .B), 8, by decide +kernel⟩


/-! ### Keyring -/

theorem wit_keyringJobsQueueRunAndEnd_1 : ∃ (s : State) (win : BitVec 8) (src : Source) (flags : BitVec 24) (p : Instr × Nat),
    s.zone.start.released = true ∧ p ∈ ([(.gcmEncrypt win src flags, 0x01), (.gcmDecrypt win src flags, 0x02), (.macGen win src
    flags, 0x03), (.macVerify win src flags, 0x04), (.sign win src flags, 0x05), (.verify win src flags, 0x06), (.hash win src
    flags, 0x07), (.keyWrite win src flags, 0x10), (.derive win src flags, 0x11), (.keyClear win src flags, 0x12), (.wrap win src
    flags, 0x14), (.unwrap win src flags, 0x15), (.attest win src flags, 0x20)] : List (Instr × Nat)) ∧ win ≠ 0 ∧
    s.zone.windowOpen win.toNat src = true ∧ s.zone.flag (pWIN win.toNat) WIN.STATUS_BUSY = false ∧ s.zone.engineRuns = true ∧
    s.zone.keyring.jobs.length < 32 :=
  ⟨wSvc, 255, secureSrc, 0, (.attest 255 secureSrc 0, 0x20), by decide +kernel⟩

theorem wit_keyringJobsQueueRunAndEnd_2 : ∃ (s : State) (win : BitVec 8) (src : Source) (flags : BitVec 24) (p : Instr × Nat),
    s.zone.start.released = true ∧ p ∈ ([(.gcmEncrypt win src flags, 0x01), (.gcmDecrypt win src flags, 0x02), (.macGen win src
    flags, 0x03), (.macVerify win src flags, 0x04), (.sign win src flags, 0x05), (.verify win src flags, 0x06), (.hash win src
    flags, 0x07), (.keyWrite win src flags, 0x10), (.derive win src flags, 0x11), (.keyClear win src flags, 0x12), (.wrap win src
    flags, 0x14), (.unwrap win src flags, 0x15), (.attest win src flags, 0x20)] : List (Instr × Nat)) ∧ win ≠ 0 ∧
    s.zone.windowOpen win.toNat src = true ∧ s.zone.flag (pWIN win.toNat) WIN.STATUS_BUSY = false ∧ s.zone.engineRuns = true ∧ 32
    ≤ s.zone.keyring.jobs.length :=
  ⟨(on wSvc fun z => { z with keyring := { z.keyring with jobs := List.replicate 32 ⟨1, secureSrc, 3⟩ } }), 255, secureSrc, 0,
    (.macGen 255 secureSrc 0, 0x03), by decide +kernel⟩

theorem wit_keyringJobsQueueRunAndEnd_3 : ∃ (s : State) (win : BitVec 8) (src : Source) (flags : BitVec 24) (p : Instr × Nat),
    s.zone.start.released = true ∧ p ∈ ([(.gcmEncrypt win src flags, 0x01), (.gcmDecrypt win src flags, 0x02), (.macGen win src
    flags, 0x03), (.macVerify win src flags, 0x04), (.sign win src flags, 0x05), (.verify win src flags, 0x06), (.hash win src
    flags, 0x07), (.keyWrite win src flags, 0x10), (.derive win src flags, 0x11), (.keyClear win src flags, 0x12), (.wrap win src
    flags, 0x14), (.unwrap win src flags, 0x15), (.attest win src flags, 0x20)] : List (Instr × Nat)) ∧ win ≠ 0 ∧
    s.zone.windowOpen win.toNat src = true ∧ s.zone.flag (pWIN win.toNat) WIN.STATUS_BUSY = false ∧ s.zone.engineRuns = false :=
  ⟨(on wSvc fun z => z.setGateState 8 1), 255, secureSrc, 0, (.sign 255 secureSrc 0, 0x05), by decide +kernel⟩

theorem wit_keyringJobsQueueRunAndEnd_4 : ∃ (s : State) (win : BitVec 8) (src : Source) (flags : BitVec 24) (p : Instr × Nat),
    s.zone.start.released = true ∧ p ∈ ([(.gcmEncrypt win src flags, 0x01), (.gcmDecrypt win src flags, 0x02), (.macGen win src
    flags, 0x03), (.macVerify win src flags, 0x04), (.sign win src flags, 0x05), (.verify win src flags, 0x06), (.hash win src
    flags, 0x07), (.keyWrite win src flags, 0x10), (.derive win src flags, 0x11), (.keyClear win src flags, 0x12), (.wrap win src
    flags, 0x14), (.unwrap win src flags, 0x15), (.attest win src flags, 0x20)] : List (Instr × Nat)) ∧ win ≠ 0 ∧
    (s.zone.windowOpen win.toNat src = false ∨ s.zone.flag (pWIN win.toNat) WIN.STATUS_BUSY = true) :=
  ⟨wSvc, 255, ⟨.normal, 5⟩, 0, (.sign 255 ⟨.normal, 5⟩ 0, 0x05), by decide +kernel⟩

theorem wit_keyringJobsQueueRunAndEnd_5 : ∃ (s : State) (win : BitVec 8) (src : Source) (flags : BitVec 24) (p : Instr × Nat),
    s.zone.start.released = true ∧ p ∈ ([(.gcmEncrypt win src flags, 0x01), (.gcmDecrypt win src flags, 0x02), (.macGen win src
    flags, 0x03), (.macVerify win src flags, 0x04), (.sign win src flags, 0x05), (.verify win src flags, 0x06), (.hash win src
    flags, 0x07), (.keyWrite win src flags, 0x10), (.derive win src flags, 0x11), (.keyClear win src flags, 0x12), (.wrap win src
    flags, 0x14), (.unwrap win src flags, 0x15), (.attest win src flags, 0x20)] : List (Instr × Nat)) ∧ win = 0 :=
  ⟨wSvc, 0, secureSrc, 0, (.hash 0 secureSrc 0, 0x07), by decide +kernel⟩

theorem wit_keyringJobsQueueRunAndEnd_6 : ∃ (s : State) (win : BitVec 8) (src : Source) (flags : BitVec 24) (p : Instr × Nat),
    s.zone.start.released = false ∧ p ∈ ([(.gcmEncrypt win src flags, 0x01), (.gcmDecrypt win src flags, 0x02), (.macGen win src
    flags, 0x03), (.macVerify win src flags, 0x04), (.sign win src flags, 0x05), (.verify win src flags, 0x06), (.hash win src
    flags, 0x07), (.keyWrite win src flags, 0x10), (.derive win src flags, 0x11), (.keyClear win src flags, 0x12), (.wrap win src
    flags, 0x14), (.unwrap win src flags, 0x15), (.attest win src flags, 0x20)] : List (Instr × Nat)) :=
  ⟨State.reset, 255, secureSrc, 0, (.sign 255 secureSrc 0, 0x05), by decide +kernel⟩

theorem wit_keyringJobsQueueRunAndEnd_7 : ∃ (s : State) (j : Job) (rest : List Job), s.zone.logicRuns = true ∧ s.zone.keyring.run
    = none ∧ s.zone.engineRuns = true ∧ s.zone.keyring.jobs = j :: rest ∧ s.zone.jobCheck j = 0 ∧ j.code = 0x01 ∧ (∀ m ∈
    (s.zone.keyUsed j).toList, (s.zone.keySlot m).count = 0xFFFFFFFF) :=
  ⟨(on wSvc fun z =>
    { (z.setFld (pWIN 255) WIN.LENGTHS_IN_LEN 5 |>.setFld (pWIN 255) WIN.LENGTHS_AAD_LEN 2) with keyring := { z.keyring with slots := [(255, ⟨0x109E0000, List.replicate 16 7, 0, 0xFFFFFFFF, none, none⟩)], jobs := [⟨255, secureSrc, 1⟩] } }),
    ⟨255, secureSrc, 1⟩, [], by decide +kernel⟩

theorem wit_keyringJobsQueueRunAndEnd_8 : ∃ (s : State) (j : Job) (rest : List Job), s.zone.logicRuns = true ∧ s.zone.keyring.run
    = none ∧ s.zone.engineRuns = true ∧ s.zone.keyring.jobs = j :: rest ∧ s.zone.jobCheck j = 0 ∧ j.code = 0x02 ∧ (∀ m ∈
    (s.zone.keyUsed j).toList, (s.zone.keySlot m).count = 0xFFFFFFFF) :=
  ⟨(on wSvc fun z =>
    { (z.setFld (pWIN 255) WIN.LENGTHS_IN_LEN 5 |>.setFld (pWIN 255) WIN.LENGTHS_AAD_LEN 2) with keyring := { z.keyring with slots := [(255, ⟨0x109E0000, List.replicate 16 7, 0, 0xFFFFFFFF, none, none⟩)], jobs := [⟨255, secureSrc, 2⟩] } }),
    ⟨255, secureSrc, 2⟩, [], by decide +kernel⟩

theorem wit_keyringJobsQueueRunAndEnd_9 : ∃ (s : State) (j : Job) (rest : List Job), s.zone.logicRuns = true ∧ s.zone.keyring.run
    = none ∧ s.zone.engineRuns = true ∧ s.zone.keyring.jobs = j :: rest ∧ s.zone.jobCheck j = 0 ∧ j.code = 0x03 ∧ (∀ m ∈
    (s.zone.keyUsed j).toList, (s.zone.keySlot m).count = 0xFFFFFFFF) :=
  ⟨(on wSvc fun z =>
    { (z) with keyring := { z.keyring with slots := [(255, ⟨0x109E0000, List.replicate 16 7, 0, 0xFFFFFFFF, none, none⟩)], jobs := [⟨255, secureSrc, 3⟩] } }),
    ⟨255, secureSrc, 3⟩, [], by decide +kernel⟩

theorem wit_keyringJobsQueueRunAndEnd_10 : ∃ (s : State) (j : Job) (rest : List Job), s.zone.logicRuns = true ∧ s.zone.keyring.run
    = none ∧ s.zone.engineRuns = true ∧ s.zone.keyring.jobs = j :: rest ∧ s.zone.jobCheck j = 0 ∧ j.code = 0x04 ∧ (∀ m ∈
    (s.zone.keyUsed j).toList, (s.zone.keySlot m).count = 0xFFFFFFFF) :=
  ⟨(on wSvc fun z =>
    { (z) with keyring := { z.keyring with slots := [(255, ⟨0x109E0000, List.replicate 16 7, 0, 0xFFFFFFFF, none, none⟩)], jobs := [⟨255, secureSrc, 4⟩] } }),
    ⟨255, secureSrc, 4⟩, [], by decide +kernel⟩

theorem wit_keyringJobsQueueRunAndEnd_11 : ∃ (s : State) (j : Job) (rest : List Job), s.zone.logicRuns = true ∧ s.zone.keyring.run
    = none ∧ s.zone.engineRuns = true ∧ s.zone.keyring.jobs = j :: rest ∧ s.zone.jobCheck j = 0 ∧ j.code = 0x05 ∧ (∀ m ∈
    (s.zone.keyUsed j).toList, (s.zone.keySlot m).count = 0xFFFFFFFF) ∧ ((s.zone.keySlot j.win).type = 4 ∨ (s.zone.keySlot
    j.win).type = 5) :=
  ⟨(on wSvc fun z =>
    { (z) with keyring := { z.keyring with slots := [(255, ⟨0x40810000, List.replicate 32 7, 0, 0xFFFFFFFF, none, none⟩)], jobs := [⟨255, secureSrc, 5⟩] } }),
    ⟨255, secureSrc, 5⟩, [], by decide +kernel⟩

theorem wit_keyringJobsQueueRunAndEnd_12 : ∃ (s : State) (j : Job) (rest : List Job), s.zone.logicRuns = true ∧ s.zone.keyring.run
    = none ∧ s.zone.engineRuns = true ∧ s.zone.keyring.jobs = j :: rest ∧ s.zone.jobCheck j = 0 ∧ j.code = 0x06 ∧ (∀ m ∈
    (s.zone.keyUsed j).toList, (s.zone.keySlot m).count = 0xFFFFFFFF) :=
  ⟨(on wSvc fun z =>
    { (z.setFld (pWIN 255) WIN.LENGTHS_IN_LEN 32) with keyring := { z.keyring with slots := [(255, ⟨0x60810000, List.replicate 64 7, 0, 0xFFFFFFFF, none, none⟩)], jobs := [⟨255, secureSrc, 6⟩] } }),
    ⟨255, secureSrc, 6⟩, [], by decide +kernel⟩

theorem wit_keyringJobsQueueRunAndEnd_13 : ∃ (s : State) (j : Job) (rest : List Job), s.zone.logicRuns = true ∧ s.zone.keyring.run
    = none ∧ s.zone.engineRuns = true ∧ s.zone.keyring.jobs = j :: rest ∧ s.zone.jobCheck j = 0 ∧ j.code = 0x07 ∧ j.cont = true ∧
    (SMap.get (fun _ => none) s.zone.keyring.hash j.win).all (fun h => h.1 == j.variant) = true :=
  ⟨(on wSvc fun z =>
    { (z.setFld (pWIN 255) WIN.LENGTHS_IN_LEN 64) with keyring := { z.keyring with slots := [(255, ⟨0x109E0000, List.replicate 16 7, 0, 0xFFFFFFFF, none, none⟩)], jobs := [⟨255, secureSrc, 0x1007⟩] } }),
    ⟨255, secureSrc, 0x1007⟩, [], by decide +kernel⟩

theorem wit_keyringJobsQueueRunAndEnd_14 : ∃ (s : State) (j : Job) (rest : List Job), s.zone.logicRuns = true ∧ s.zone.keyring.run
    = none ∧ s.zone.engineRuns = true ∧ s.zone.keyring.jobs = j :: rest ∧ s.zone.jobCheck j = 0 ∧ j.code = 0x07 ∧ j.cont = false ∧
    (SMap.get (fun _ => none) s.zone.keyring.hash j.win).all (fun h => h.1 == j.variant) = true :=
  ⟨(on wSvc fun z =>
    { (z) with keyring := { z.keyring with slots := [(255, ⟨0x109E0000, List.replicate 16 7, 0, 0xFFFFFFFF, none, none⟩)], jobs := [⟨255, secureSrc, 0x107⟩] } }),
    ⟨255, secureSrc, 0x107⟩, [], by decide +kernel⟩

theorem wit_keyringJobsQueueRunAndEnd_15 : ∃ (s : State) (j : Job) (rest : List Job) (h : Nat × List Byte), s.zone.logicRuns =
    true ∧ s.zone.keyring.run = none ∧ s.zone.engineRuns = true ∧ s.zone.keyring.jobs = j :: rest ∧ s.zone.jobCheck j = 0 ∧ j.code
    = 0x07 ∧ j.cont = false ∧ (SMap.get (fun _ => none) s.zone.keyring.hash j.win) = some h ∧ h.1 ≠ j.variant :=
  ⟨(on wSvc fun z =>
    { z with keyring := { z.keyring with hash := SMap.set (fun _ => none) [] 255 (some (1, [])), jobs := [⟨255, secureSrc, 7⟩] } }),
    ⟨255, secureSrc, 7⟩, [], (1,[]), by decide +kernel⟩

theorem wit_keyringJobsQueueRunAndEnd_16 : ∃ (s : State) (j : Job) (rest : List Job), s.zone.logicRuns = true ∧ s.zone.keyring.run
    = none ∧ s.zone.engineRuns = true ∧ s.zone.keyring.jobs = j :: rest ∧ s.zone.jobCheck j = 0 ∧ j.code = 0x10 :=
  ⟨(on wSvc fun z =>
    { (z.setFld (pWIN 255) WIN.LENGTHS_IN_LEN 16 |>.wr (pWIN 255 + WIN.NEW_ATTR_ATTR.off) 0x109E0000) with keyring := { z.keyring with slots := [(255, ⟨0x209E0000, List.replicate 16 7, 0, 0xFFFFFFFF, none, none⟩)], jobs := [⟨255, secureSrc, 0x10⟩] } }),
    ⟨255, secureSrc, 0x10⟩, [], by decide +kernel⟩

theorem wit_keyringJobsQueueRunAndEnd_17 : ∃ (s : State) (j : Job) (rest : List Job) (r : List Byte), s.zone.logicRuns = true ∧
    s.zone.keyring.run = none ∧ s.zone.engineRuns = true ∧ s.zone.keyring.jobs = j :: rest ∧ s.zone.jobCheck j = 0 ∧ j.code = 0x11
    ∧ (∀ m ∈ (s.zone.keyUsed j).toList, (s.zone.keySlot m).count = 0xFFFFFFFF) ∧ s.zone.keySource j.win = 0x100 ∧ s.zone.root =
    some r :=
  ⟨(on wSvc fun z =>
    { (z.setFld (pWIN 255) WIN.LENGTHS_IN_LEN 5 |>.wr (pWIN 255 + WIN.NEW_ATTR_ATTR.off) 0x109E0000 |>.setFld (pWIN 255) WIN.SOURCE_SLOT 256 |>.setPageBytes (pWIN 255) 0x100 (ascii "FZ52/")) with fuses := { z.fuses with root := List.replicate 32 3, lc := SMap.set (fun _ => 0) z.fuses.lc 0 3 }, keyring := { z.keyring with jobs := [⟨255, secureSrc, 0x11⟩] } }),
    ⟨255, secureSrc, 0x11⟩, [], (List.replicate 32 3), by decide +kernel⟩

theorem wit_keyringJobsQueueRunAndEnd_18 : ∃ (s : State) (j : Job) (rest : List Job), s.zone.logicRuns = true ∧ s.zone.keyring.run
    = none ∧ s.zone.engineRuns = true ∧ s.zone.keyring.jobs = j :: rest ∧ s.zone.jobCheck j = 0 ∧ j.code = 0x11 ∧ (∀ m ∈
    (s.zone.keyUsed j).toList, (s.zone.keySlot m).count = 0xFFFFFFFF) ∧ s.zone.keySource j.win < 256 :=
  ⟨(on wSvc fun z =>
    { (z.setFld (pWIN 255) WIN.LENGTHS_IN_LEN 5 |>.wr (pWIN 255 + WIN.NEW_ATTR_ATTR.off) 0x109E0000 |>.setFld (pWIN 255) WIN.SOURCE_SLOT 254) with keyring := { z.keyring with slots := [(254, ⟨0x108A0000, List.replicate 16 9, 0, 0xFFFFFFFF, none, none⟩), (255, ⟨0x109E0000, List.replicate 16 7, 0, 0xFFFFFFFF, none, none⟩)], jobs := [⟨255, secureSrc, 0x11⟩] } }),
    ⟨255, secureSrc, 0x11⟩, [], by decide +kernel⟩

theorem wit_keyringJobsQueueRunAndEnd_19 : ∃ (s : State) (j : Job) (rest : List Job), s.zone.logicRuns = true ∧ s.zone.keyring.run
    = none ∧ s.zone.engineRuns = true ∧ s.zone.keyring.jobs = j :: rest ∧ s.zone.jobCheck j = 0 ∧ j.code = 0x12 :=
  ⟨(on wSvc fun z =>
    { (z) with keyring := { z.keyring with slots := [(255, ⟨0x101E0000, List.replicate 16 7, 0, 0xFFFFFFFF, none, none⟩)], jobs := [⟨255, secureSrc, 0x12⟩] } }),
    ⟨255, secureSrc, 0x12⟩, [], by decide +kernel⟩

theorem wit_keyringJobsQueueRunAndEnd_20 : ∃ (s : State) (j : Job) (rest : List Job), s.zone.logicRuns = true ∧ s.zone.keyring.run
    = none ∧ s.zone.engineRuns = true ∧ s.zone.keyring.jobs = j :: rest ∧ s.zone.jobCheck j = 0 ∧ j.code = 0x14 ∧ (∀ m ∈
    (s.zone.keyUsed j).toList, (s.zone.keySlot m).count = 0xFFFFFFFF) :=
  ⟨(on wSvc fun z =>
    { (z.setFld (pWIN 255) WIN.SOURCE_SLOT 254) with keyring := { z.keyring with slots := [(254, ⟨0x108A0000, List.replicate 16 9, 0, 0xFFFFFFFF, none, none⟩), (255, ⟨0x109E0000, List.replicate 16 7, 0, 0xFFFFFFFF, none, none⟩)], jobs := [⟨255, secureSrc, 0x14⟩] } }),
    ⟨255, secureSrc, 0x14⟩, [], by decide +kernel⟩

theorem wit_keyringJobsQueueRunAndEnd_21 : ∃ (s : State) (j : Job) (rest : List Job) (a i u : Word) (iv ct tag : List Byte),
    s.zone.logicRuns = true ∧ s.zone.keyring.run = none ∧ s.zone.engineRuns = true ∧ s.zone.keyring.jobs = j :: rest ∧
    s.zone.jobCheck j = 0 ∧ j.code = 0x15 ∧ (∀ m ∈ (s.zone.keyUsed j).toList, (s.zone.keySlot m).count = 0xFFFFFFFF) ∧
    (s.zone.keyData j.win (s.zone.keyIn j.win)) = leBytes 2 0x4B57 ++ leBytes 2 1 ++ leBytes 4 a.toNat ++ leBytes 4 i.toNat ++
    leBytes 4 u.toNat ++ iv ++ ct ++ tag ∧ iv.length = 12 ∧ tag.length = 16 ∧ ct.length = typeLen (attrType a) ∧ attrOk a
    (s.zone.keySlot j.win).owner.isSome = true ∧ (j.nextKey = true → (s.zone.keySlot j.win).type = attrType a) ∧ (gcmDecrypt
    (s.zone.keySlot (s.zone.keySource j.win)).key iv (leBytes 2 0x4B57 ++ leBytes 2 1 ++ leBytes 4 a.toNat ++ leBytes 4 i.toNat ++
    leBytes 4 u.toNat) ct).2 = tag :=
  ⟨(on wSvc fun z =>
    { (z.setFld (pWIN 255) WIN.SOURCE_SLOT 254 |>.setFld (pWIN 255) WIN.LENGTHS_IN_LEN 60 |>.setPageBytes (pWIN 255) 0x100 ((leBytes 2 0x4B57 ++ leBytes 2 1 ++ leBytes 4 0x108A0000 ++ leBytes 4 5 ++ leBytes 4 6) ++ List.replicate 12 1 ++ (gcmEncrypt (List.replicate 16 9) (List.replicate 12 1) (leBytes 2 0x4B57 ++ leBytes 2 1 ++ leBytes 4 0x108A0000 ++ leBytes 4 5 ++ leBytes 4 6) (List.replicate 16 4)).1 ++ (gcmEncrypt (List.replicate 16 9) (List.replicate 12 1) (leBytes 2 0x4B57 ++ leBytes 2 1 ++ leBytes 4 0x108A0000 ++ leBytes 4 5 ++ leBytes 4 6) (List.replicate 16 4)).2)) with keyring := { z.keyring with slots := [(254, ⟨0x109E0000, List.replicate 16 9, 0, 0xFFFFFFFF, none, none⟩)], jobs := [⟨255, secureSrc, 0x15⟩] } }),
    ⟨255, secureSrc, 0x15⟩, [], 0x108A0000, 5, 6, (List.replicate 12 1), (gcmEncrypt (List.replicate 16 9) (List.replicate 12 1)
    (leBytes 2 0x4B57 ++ leBytes 2 1 ++ leBytes 4 0x108A0000 ++ leBytes 4 5 ++ leBytes 4 6) (List.replicate 16 4)).1, (gcmEncrypt
    (List.replicate 16 9) (List.replicate 12 1) (leBytes 2 0x4B57 ++ leBytes 2 1 ++ leBytes 4 0x108A0000 ++ leBytes 4 5 ++ leBytes
    4 6) (List.replicate 16 4)).2, by decide +kernel⟩

theorem wit_keyringJobsQueueRunAndEnd_22 : ∃ (s : State) (j : Job) (rest : List Job) (a i u : Word) (iv ct tag : List Byte),
    s.zone.logicRuns = true ∧ s.zone.keyring.run = none ∧ s.zone.engineRuns = true ∧ s.zone.keyring.jobs = j :: rest ∧
    s.zone.jobCheck j = 0 ∧ j.code = 0x15 ∧ (∀ m ∈ (s.zone.keyUsed j).toList, (s.zone.keySlot m).count = 0xFFFFFFFF) ∧
    (s.zone.keyData j.win (s.zone.keyIn j.win)) = leBytes 2 0x4B57 ++ leBytes 2 1 ++ leBytes 4 a.toNat ++ leBytes 4 i.toNat ++
    leBytes 4 u.toNat ++ iv ++ ct ++ tag ∧ iv.length = 12 ∧ tag.length = 16 ∧ ct.length = typeLen (attrType a) ∧ attrOk a
    (s.zone.keySlot j.win).owner.isSome = true ∧ (j.nextKey = true → (s.zone.keySlot j.win).type = attrType a) ∧ (gcmDecrypt
    (s.zone.keySlot (s.zone.keySource j.win)).key iv (leBytes 2 0x4B57 ++ leBytes 2 1 ++ leBytes 4 a.toNat ++ leBytes 4 i.toNat ++
    leBytes 4 u.toNat) ct).2 ≠ tag :=
  ⟨(on wSvc fun z =>
    { (z.setFld (pWIN 255) WIN.SOURCE_SLOT 254 |>.setFld (pWIN 255) WIN.LENGTHS_IN_LEN 60 |>.setPageBytes (pWIN 255) 0x100 ((leBytes 2 0x4B57 ++ leBytes 2 1 ++ leBytes 4 0x108A0000 ++ leBytes 4 5 ++ leBytes 4 6) ++ List.replicate 44 1)) with keyring := { z.keyring with slots := [(254, ⟨0x109E0000, List.replicate 16 9, 0, 0xFFFFFFFF, none, none⟩)], jobs := [⟨255, secureSrc, 0x15⟩] } }),
    ⟨255, secureSrc, 0x15⟩, [], 0x108A0000, 5, 6, (List.replicate 12 1), (List.replicate 16 1), (List.replicate 16 1), by
    decide +kernel⟩

theorem wit_keyringJobsQueueRunAndEnd_23 : ∃ (s : State) (j : Job) (rest : List Job), s.zone.logicRuns = true ∧ s.zone.keyring.run
    = none ∧ s.zone.engineRuns = true ∧ s.zone.keyring.jobs = j :: rest ∧ s.zone.jobCheck j = 0 ∧ j.code = 0x15 ∧ (∀ m ∈
    (s.zone.keyUsed j).toList, (s.zone.keySlot m).count = 0xFFFFFFFF) ∧ ((s.zone.keyData j.win (s.zone.keyIn j.win)).take 4 ≠
    leBytes 2 0x4B57 ++ leBytes 2 1 ∨ attrOk (BitVec.ofNat 32 (leAt (s.zone.keyData j.win (s.zone.keyIn j.win)) 4 4))
    (s.zone.keySlot j.win).owner.isSome = false ∨ (s.zone.keyData j.win (s.zone.keyIn j.win)).length ≠ 44 + typeLen (attrType
    (BitVec.ofNat 32 (leAt (s.zone.keyData j.win (s.zone.keyIn j.win)) 4 4))) ∨ (j.nextKey = true ∧ (s.zone.keySlot j.win).type ≠
    attrType (BitVec.ofNat 32 (leAt (s.zone.keyData j.win (s.zone.keyIn j.win)) 4 4)))) :=
  ⟨(on wSvc fun z =>
    { (z.setFld (pWIN 255) WIN.SOURCE_SLOT 254 |>.setFld (pWIN 255) WIN.LENGTHS_IN_LEN 60 |>.setPageBytes (pWIN 255) 0x100 (List.replicate 60 1)) with keyring := { z.keyring with slots := [(254, ⟨0x109E0000, List.replicate 16 9, 0, 0xFFFFFFFF, none, none⟩)], jobs := [⟨255, secureSrc, 0x15⟩] } }),
    ⟨255, secureSrc, 0x15⟩, [], by decide +kernel⟩

theorem wit_keyringJobsQueueRunAndEnd_24 : ∃ (s : State) (j : Job) (rest : List Job), s.zone.logicRuns = true ∧ s.zone.keyring.run
    = none ∧ s.zone.engineRuns = true ∧ s.zone.keyring.jobs = j :: rest ∧ s.zone.jobCheck j = 0 ∧ j.code = 0x20 :=
  ⟨(on wSvc fun z =>
    { (z) with keyring := { z.keyring with slots := [(255, ⟨0x109E0000, List.replicate 16 7, 0, 0xFFFFFFFF, none, none⟩)], jobs := [⟨255, secureSrc, 0x20⟩] } }),
    ⟨255, secureSrc, 0x20⟩, [], by decide +kernel⟩

theorem wit_keyringJobsQueueRunAndEnd_25 : ∃ (s : State) (j : Job) (rest : List Job) (m : Nat), s.zone.logicRuns = true ∧
    s.zone.keyring.run = none ∧ s.zone.engineRuns = true ∧ s.zone.keyring.jobs = j :: rest ∧ s.zone.jobCheck j = 0 ∧
    s.zone.keyUsed j = some m ∧ (j.code = 0x01 ∨ j.code = 0x03 ∨ j.code = 0x04 ∨ j.code = 0x05 ∨ j.code = 0x06 ∨ j.code = 0x14) ∧
    (s.zone.keySlot m).count ≠ 0xFFFFFFFF ∧ ((s.zone.keySlot m).persistent = true → (s.zone.recordedCount m).any (fun c => decide
    (c + 1 < (s.zone.keySlot m).count.toNat)) = true) :=
  ⟨(on wSvc fun z =>
    { (z) with keyring := { z.keyring with slots := [(255, ⟨0x109E0000, List.replicate 16 7, 0, 1, none, none⟩)], jobs := [⟨255, secureSrc, 4⟩] } }),
    ⟨255, secureSrc, 4⟩, [], 255, by decide +kernel⟩

theorem wit_keyringJobsQueueRunAndEnd_26 : ∃ (s : State) (j : Job) (rest : List Job) (m : Nat), s.zone.logicRuns = true ∧
    s.zone.keyring.run = none ∧ s.zone.engineRuns = true ∧ s.zone.keyring.jobs = j :: rest ∧ s.zone.jobCheck j = 0 ∧
    s.zone.keyUsed j = some m ∧ (j.code = 0x01 ∨ j.code = 0x03 ∨ j.code = 0x04 ∨ j.code = 0x05 ∨ j.code = 0x06 ∨ j.code = 0x14) ∧
    (s.zone.keySlot m).count ≠ 0xFFFFFFFF ∧ (s.zone.keySlot m).persistent = true ∧ (s.zone.recordedCount m).all (fun c => decide
    ((s.zone.keySlot m).count.toNat ≤ c + 1)) = true :=
  ⟨(on wSvc fun z =>
    { (z) with keyring := { z.keyring with slots := [(255, ⟨0x101E0000, List.replicate 16 7, 0, 256, none, none⟩)], jobs := [⟨255, secureSrc, 4⟩] } }),
    ⟨255, secureSrc, 4⟩, [], 255, by decide +kernel⟩

theorem wit_keyringJobsQueueRunAndEnd_27 : ∃ (s : State) (j : Job) (rest : List Job), s.zone.logicRuns = true ∧ s.zone.keyring.run
    = none ∧ s.zone.engineRuns = true ∧ s.zone.keyring.jobs = j :: rest ∧ s.zone.jobCheck j ≠ 0 ∧ j.win < 256 :=
  ⟨(on wSvc fun z => { z with keyring := { z.keyring with jobs := [⟨255, secureSrc, 3⟩] } }), ⟨255, secureSrc, 3⟩, [], by
    decide +kernel⟩

theorem wit_keyringJobsQueueRunAndEnd_28 : ∃ (s : State), (s.zone.logicRuns = false ∨ s.zone.keyring.run ≠ none ∨
    s.zone.engineRuns = false ∨ s.zone.keyring.jobs = []) :=
  ⟨wSvc, by decide +kernel⟩

theorem wit_keyringJobsQueueRunAndEnd_29 : ∃ (s : State) (r : RunJob) (a d : List Byte) (o : Nat), s.zone.logicRuns = true ∧
    s.zone.keyring.run = some r ∧ r.need = false ∧ r.change = none ∧ r.aux = some a ∧ r.data = some (o, d) ∧ (s.zone.mode ≠
    Mode.test ∨ r.job.code = 0x07) ∧ a.length ≤ 128 ∧ o + d.length ≤ 2048 ∧ r.outLen < 4096 ∧ r.code < 256 ∧ r.job.win < 256 :=
  ⟨(on wSvc fun z =>
    { z with keyring := { z.keyring with run := some ⟨⟨255, secureSrc, 1⟩, 0, some [1, 2], some (2045, [3, 4, 5]), 3, none, false⟩ } }),
    ⟨⟨255, secureSrc, 1⟩, 0, some [1, 2], some (2045, [3, 4, 5]), 3, none, false⟩, [1,2], [3,4,5], 2045, by decide +kernel⟩

theorem wit_keyringJobsQueueRunAndEnd_30 : ∃ (s : State) (r : RunJob), s.zone.logicRuns = true ∧ s.zone.keyring.run = some r ∧
    r.need = false ∧ r.job.win < 256 ∧ (s.zone.mode ≠ Mode.test ∨ r.job.code = 0x07) ∧ r.code < 256 ∧ (r.aux.getD []).length ≤ 128
    ∧ (r.data.all fun d => decide (d.1 + d.2.length ≤ 2048)) = true :=
  ⟨(on wSvc fun z =>
    { z with keyring := { z.keyring with run := some ⟨⟨255, secureSrc, 1⟩, 0, none, none, 3, some ⟨0, [], 0, 0, none, none⟩, false⟩ } }),
    ⟨⟨255, secureSrc, 1⟩, 0, none, none, 3, some ⟨0, [], 0, 0, none, none⟩, false⟩, by decide +kernel⟩

theorem wit_keyringJobsQueueRunAndEnd_31 : ∃ (s : State) (r : RunJob), s.zone.logicRuns = true ∧ s.zone.keyring.run = some r ∧
    r.need = false ∧ r.job.win < 256 ∧ s.zone.mode = Mode.test ∧ r.job.code ≠ 0x07 :=
  ⟨(on (wMode 5) fun z =>
    { z with keyring := { z.keyring with run := some ⟨⟨255, secureSrc, 3⟩, 0, some [1], none, 3, none, false⟩ } }), ⟨⟨255,
    secureSrc, 3⟩, 0, some [1], none, 3, none, false⟩, by decide +kernel⟩

theorem wit_keyringJobsQueueRunAndEnd_32 : ∃ (s : State), (s.zone.logicRuns = false ∨ s.zone.keyring.run.all (fun r => r.need) =
    true) :=
  ⟨(on wSvc fun z =>
    { z with keyring := { z.keyring with run := some ⟨⟨255, secureSrc, 1⟩, 0, none, none, 3, some ⟨0, [], 0, 0, none, none⟩, true⟩ } }),
    by decide +kernel⟩

theorem wit_keyringJobsQueueRunAndEnd_33 : ∃ (s : State), s.zone.logicRuns = true ∧ s.zone.keyring.dirty = true ∧
    s.zone.keyring.bind = none ∧ s.zone.keyring.run.all (fun r => !r.need) = true :=
  ⟨(on wSvc fun z =>
    { z with keyring := { z.keyring with dirty := true, slots := [(255, ⟨0x101E0000, List.replicate 16 7, 0, 500, none, none⟩)] } }),
    by decide +kernel⟩

theorem wit_keyringJobsQueueRunAndEnd_34 : ∃ (s : State) (r : RunJob), s.zone.logicRuns = true ∧ s.zone.keyring.dirty = true ∧
    s.zone.keyring.bind = none ∧ s.zone.keyring.run = some r ∧ r.need = true :=
  ⟨(on wSvc fun z =>
    { z with keyring := { z.keyring with dirty := true, run := some ⟨⟨255, secureSrc, 0x10⟩, 0, none, none, 0, some ⟨0x101E0000, List.replicate 16 7, 0, 500, none, none⟩, true⟩ } }),
    ⟨⟨255, secureSrc, 0x10⟩, 0, none, none, 0, some ⟨0x101E0000, List.replicate 16 7, 0, 500, none, none⟩, true⟩, by decide +kernel⟩

theorem wit_keyringJobsQueueRunAndEnd_35 : ∃ (s : State) (q : BitVec 32), s.zone.logicRuns = true ∧ s.zone.keyring.dirty = true ∧
    s.zone.keyring.bind = some q ∧ s.zone.supv.sessionKey ≠ none :=
  ⟨(on wBnd fun z => { z with keyring := { z.keyring with dirty := true, bind := some 7 } }), 7, by decide +kernel⟩

theorem wit_keyringJobsQueueRunAndEnd_36 : ∃ (s : State), (s.zone.logicRuns = false ∨ s.zone.keyring.dirty = false) :=
  ⟨wSvc, by decide +kernel⟩


/-! ### Safety monitor -/

theorem wit_reportsReactDemandAndSignal_1 : ∃ (s : State) (r : Report) (toA toB : Bool) (a : Nat), s.zone.logicRuns = true ∧
    s.zone.nextReport = some r ∧ r.source < 28 ∧ ¬ (r.source = Src.keeperBoth ∧ r.injected = false ∧ s.zone.startCounts = true) ∧
    a = (if r.injected then 0 else s.zone.appliedClass (if r.source = 26 then (if r.detail.toNat / 2 ^ 28 % 8 ≤ 4 then
    r.detail.toNat / 2 ^ 28 % 8 else 0) else s.zone.reaction r.source)) ∧ (toA = true ∨ toB = true) ∧ (a < 2 ∨ s.zone.flag pSAFE
    SAFE0.MON_STATUS_RESET_PENDING = true) :=
  ⟨(on wSvc fun z =>
    { z with safety := { z.safety with reports := [⟨6, 5, true, 10000000000, 0⟩, ⟨7, 5, true, 10000000000, 0⟩] } }), ⟨6, 5, true,
    10000000000, 0⟩, true, false, 0, by decide +kernel⟩

theorem wit_reportsReactDemandAndSignal_2 : ∃ (s : State) (r : Report) (toA toB : Bool) (a : Nat), s.zone.logicRuns = true ∧
    s.zone.nextReport = some r ∧ r.source < 28 ∧ ¬ (r.source = Src.keeperBoth ∧ r.injected = false ∧ s.zone.startCounts = true) ∧
    a = (if r.injected then 0 else s.zone.appliedClass (if r.source = 26 then (if r.detail.toNat / 2 ^ 28 % 8 ≤ 4 then
    r.detail.toNat / 2 ^ 28 % 8 else 0) else s.zone.reaction r.source)) ∧ (toA = true ∨ toB = true) ∧ a = 2 ∧ s.zone.flag pSAFE
    SAFE0.MON_STATUS_RESET_PENDING = false :=
  ⟨(on wSvc fun z => ((z.setFld pSAFE (⟨0x100 + 4 * 13, 0, 3⟩ : Fld) 2).wr (pSAFE + SAFE0.OWN_SAFETY_HI_CH.off) 0x8000).report 13
    5), (⟨13, 5, false, 10000000000, 0⟩ : Report), false, true, 2, by decide +kernel⟩

theorem wit_reportsReactDemandAndSignal_3 : ∃ (s : State) (r : Report) (toA toB : Bool) (a : Nat), s.zone.logicRuns = true ∧
    s.zone.nextReport = some r ∧ r.source < 28 ∧ ¬ (r.source = Src.keeperBoth ∧ r.injected = false ∧ s.zone.startCounts = true) ∧
    a = (if r.injected then 0 else s.zone.appliedClass (if r.source = 26 then (if r.detail.toNat / 2 ^ 28 % 8 ≤ 4 then
    r.detail.toNat / 2 ^ 28 % 8 else 0) else s.zone.reaction r.source)) ∧ (toA = true ∨ toB = true) ∧ (a = 3 ∨ (a = 4 ∧
    s.zone.mode ≠ Mode.service)) ∧ s.zone.flag pSAFE SAFE0.MON_STATUS_RESET_PENDING = false :=
  ⟨(on wSvc fun z => (z.setFld pSAFE (⟨0x100 + 4 * 13, 0, 3⟩ : Fld) 3).report 13 5), (⟨13, 5, false, 10000000000, 0⟩ : Report),
    true, true, 3, by decide +kernel⟩

theorem wit_reportsReactDemandAndSignal_4 : ∃ (s : State) (r : Report) (toA toB : Bool) (a : Nat), s.zone.logicRuns = true ∧
    s.zone.nextReport = some r ∧ r.source < 28 ∧ ¬ (r.source = Src.keeperBoth ∧ r.injected = false ∧ s.zone.startCounts = true) ∧
    a = (if r.injected then 0 else s.zone.appliedClass (if r.source = 26 then (if r.detail.toNat / 2 ^ 28 % 8 ≤ 4 then
    r.detail.toNat / 2 ^ 28 % 8 else 0) else s.zone.reaction r.source)) ∧ (toA = true ∨ toB = true) ∧ a = 4 ∧ s.zone.mode =
    Mode.service ∧ s.zone.flag pSAFE SAFE0.MON_STATUS_RESET_PENDING = false ∧ s.zone.safety.resetDue = none :=
  ⟨(on wSvc fun z => z.report 26 0x4234abcd), (⟨26, 0x4234abcd, false, 10000000000, 0⟩ : Report), true, true, 4, by decide +kernel⟩

theorem wit_reportsReactDemandAndSignal_5 : ∃ (s : State) (r : Report) (toA toB : Bool), s.zone.logicRuns = true ∧
    s.zone.nextReport = some r ∧ r.source = Src.keeperBoth ∧ r.injected = false ∧ s.zone.startCounts = true ∧ (toA = true ∨ toB =
    true) :=
  ⟨(on State.reset fun z => { z with safety := { z.safety with reports := [⟨1, 0, false, 0, 0⟩] } }), ⟨1, 0, false, 0, 0⟩, true,
    true, by decide +kernel⟩

theorem wit_reportsReactDemandAndSignal_6 : ∃ (s : State) (r : Report), s.zone.logicRuns = true ∧ s.zone.nextReport = some r :=
  ⟨(on wSvc fun z => { z with safety := { z.safety with reports := [⟨6, 5, false, 10000000000, 0⟩] } }), ⟨6, 5, false,
    10000000000, 0⟩, by decide +kernel⟩

theorem wit_reportsReactDemandAndSignal_7 : ∃ (s : State) (toA toB : Bool), (s.zone.logicRuns = false ∨ s.zone.safety.reports =
    []) :=
  ⟨wSvc, true, true, by decide +kernel⟩

theorem wit_reportsReactDemandAndSignal_8 : ∃ (s : State) (r : Report), s.zone.nextReport = some r :=
  ⟨(on wSvc fun z =>
    { z with safety := { z.safety with reports := [⟨6, 5, false, 7, 0⟩, ⟨5, 5, false, 7, 0⟩, ⟨4, 5, false, 8, 0⟩] } }), ⟨5, 5,
    false, 7, 0⟩, by decide +kernel⟩

theorem wit_reportsReactDemandAndSignal_9 : ∃ (s : State), s.zone.logicRuns = true ∧ s.zone.paceDue Pace.lanes 25000 = true ∧
    (s.zone.laneActive s.zone.safety.laneA ≠ s.zone.laneActive s.zone.safety.laneB ∨ s.zone.safety.laneA.cluster ≠
    s.zone.safety.laneB.cluster ∨ s.zone.safety.laneA.all ≠ s.zone.safety.laneB.all) ∧ (s.zone.safety.mismatches < 4 ∨ s.zone.flag
    pSAFE SAFE0.MON_STATUS_LANE_MISMATCH = true) :=
  ⟨(on wSvc fun z => { z with safety := { z.safety with mismatches := 3, laneA := { z.safety.laneA with cluster := true } } }), by
    decide +kernel⟩

theorem wit_reportsReactDemandAndSignal_10 : ∃ (s : State), s.zone.logicRuns = true ∧ s.zone.paceDue Pace.lanes 25000 = true ∧
    (s.zone.laneActive s.zone.safety.laneA ≠ s.zone.laneActive s.zone.safety.laneB ∨ s.zone.safety.laneA.cluster ≠
    s.zone.safety.laneB.cluster ∨ s.zone.safety.laneA.all ≠ s.zone.safety.laneB.all) ∧ 4 ≤ s.zone.safety.mismatches ∧ s.zone.flag
    pSAFE SAFE0.MON_STATUS_LANE_MISMATCH = false :=
  ⟨(on wSvc fun z => { z with safety := { z.safety with mismatches := 4, laneA := { z.safety.laneA with all := true } } }), by
    decide +kernel⟩

theorem wit_reportsReactDemandAndSignal_11 : ∃ (s : State), s.zone.logicRuns = true ∧ s.zone.paceDue Pace.lanes 25000 = true ∧ ¬
    (s.zone.laneActive s.zone.safety.laneA ≠ s.zone.laneActive s.zone.safety.laneB ∨ s.zone.safety.laneA.cluster ≠
    s.zone.safety.laneB.cluster ∨ s.zone.safety.laneA.all ≠ s.zone.safety.laneB.all) :=
  ⟨(on wSvc fun z => { z with safety := { z.safety with mismatches := 4 } }), by decide +kernel⟩

theorem wit_reportsReactDemandAndSignal_12 : ∃ (s : State), (s.zone.logicRuns = false ∨ s.zone.paceDue Pace.lanes 25000 = false) :=
  ⟨(on wSvc fun z => { z with pace := SMap.set (fun _ => 0) z.pace Pace.lanes 9999999999 }), by decide +kernel⟩

theorem wit_reportsReactDemandAndSignal_13 : ∃ (s : State) (writer : Writer), s.zone.writerActs writer = true ∧ Zone.secureWriter
    writer = true ∧ s.zone.safety.laneA.fixed = false ∧ s.zone.safety.laneB.fixed = false ∧ (∀ n : Fin 28, s.zone.active n.val =
    true → s.zone.reaction n.val < 2) :=
  ⟨(on wSvc fun z => { z with safety := { z.safety with laneA := { z.safety.laneA with all := true } } }), (.firmware secureSrc),
    by decide +kernel⟩

theorem wit_reportsReactDemandAndSignal_14 : ∃ (s : State) (writer : Writer), s.zone.writerActs writer = true ∧ Zone.secureWriter
    writer = true ∧ (s.zone.safety.laneA.fixed = true ∨ s.zone.safety.laneB.fixed = true ∨ ∃ n : Fin 28, s.zone.active n.val =
    true ∧ 2 ≤ s.zone.reaction n.val) :=
  ⟨(on wSvc fun z => { z with safety := { z.safety with laneA := { z.safety.laneA with fixed := true } } }), (.firmware
    secureSrc), by decide +kernel⟩

theorem wit_reportsReactDemandAndSignal_15 : ∃ (s : State) (writer : Writer), (s.zone.writerActs writer = false ∨
    Zone.secureWriter writer = false) :=
  ⟨wSvc, (.keeper .A), by decide +kernel⟩

theorem wit_reportsReactDemandAndSignal_16 : ∃ (s : State) (lane : Fin 2) (code : Nat), s.zone.logicRuns = true ∧ s.zone.paceDue
    (Pace.alarm lane.val) 249750 = true ∧ s.zone.mustSignal lane = false ∧ s.zone.laneStopped lane = false ∧ ((s.zone.alarm
    lane).toggling = false ∨ (s.zone.alarm lane).period = 11) ∧ code = s.zone.statusCode lane ∧ (s.zone.alarm lane).counter < 4 :=
  ⟨(on wSvc fun z => z.setAlarm 1 { z.alarm 1 with toggling := true, period := 11, counter := 3 }), 1, 0, by decide +kernel⟩

theorem wit_reportsReactDemandAndSignal_17 : ∃ (s : State) (lane : Fin 2), s.zone.logicRuns = true ∧ s.zone.paceDue (Pace.alarm
    lane.val) 249750 = true ∧ s.zone.mustSignal lane = false ∧ s.zone.laneStopped lane = false ∧ (s.zone.alarm lane).toggling =
    true ∧ (s.zone.alarm lane).period < 11 ∧ (s.zone.alarm lane).code < 256 ∧ (s.zone.alarm lane).counter < 4 :=
  ⟨(on wSvc fun z => z.setAlarm 1 { z.alarm 1 with toggling := true, period := 10, code := 129, counter := 2 }), 1, by
    decide +kernel⟩

theorem wit_reportsReactDemandAndSignal_18 : ∃ (s : State) (lane : Fin 2), s.zone.logicRuns = true ∧ s.zone.paceDue (Pace.alarm
    lane.val) 249750 = true ∧ (s.zone.mustSignal lane = true ∨ s.zone.laneStopped lane = true) :=
  ⟨(wMode 2), 1, by decide +kernel⟩

theorem wit_reportsReactDemandAndSignal_19 : ∃ (s : State) (lane : Fin 2), (s.zone.logicRuns = false ∨ s.zone.paceDue (Pace.alarm
    lane.val) 249750 = false) :=
  ⟨(on wSvc fun z => { z with pace := SMap.set (fun _ => 0) z.pace (Pace.alarm 1) 9999999999 }), 1, by decide +kernel⟩

theorem wit_reportsReactDemandAndSignal_20 : ∃ (s : State) (writer : Writer) (lane : Fin 2), s.zone.writerActs writer = true ∧
    Zone.secureWriter writer = true ∧ s.zone.flag (pALARM (1 - lane.val)) ALARM.ALARM_STATUS_FAULT_SIGNAL = false ∧ (s.zone.alarm
    (1 - lane)).testUntil = none ∧ s.zone.mustSignal (1 - lane) = false :=
  ⟨(on wSvc fun z => (z.setFld (pALARM 0) ALARM.ALARM_STATUS_FAULT_SIGNAL 0).setFld (pALARM 1) ALARM.ALARM_STATUS_FAULT_SIGNAL 0),
    (.firmware secureSrc), 1, by decide +kernel⟩

theorem wit_reportsReactDemandAndSignal_21 : ∃ (s : State) (writer : Writer) (lane : Fin 2), s.zone.writerActs writer = true ∧
    Zone.secureWriter writer = true ∧ (s.zone.flag (pALARM (1 - lane.val)) ALARM.ALARM_STATUS_FAULT_SIGNAL = true ∨ (s.zone.alarm
    (1 - lane)).testUntil ≠ none) :=
  ⟨(on wSvc fun z => z.setFld (pALARM 0) ALARM.ALARM_STATUS_FAULT_SIGNAL 1), (.firmware secureSrc), 1, by decide +kernel⟩

theorem wit_reportsReactDemandAndSignal_22 : ∃ (s : State) (writer : Writer) (lane : Fin 2), (s.zone.writerActs writer = false ∨
    Zone.secureWriter writer = false) :=
  ⟨wSvc, (.keeper .A), 1, by decide +kernel⟩

theorem wit_reportsReactDemandAndSignal_23 : ∃ (s : State) (lane : Fin 2) (t : Nat), s.zone.logicRuns = true ∧ (s.zone.alarm
    lane).testUntil = some t ∧ t ≤ s.zone.mono :=
  ⟨(on wSvc fun z => z.setAlarm 1 { z.alarm 1 with testUntil := some 10000000000 }), 1, 10000000000, by decide +kernel⟩

theorem wit_reportsReactDemandAndSignal_24 : ∃ (s : State) (lane : Fin 2), (s.zone.logicRuns = false ∨ (s.zone.alarm
    lane).testUntil.all (fun t => decide (s.zone.mono < t)) = true) :=
  ⟨(on wSvc fun z => z.setAlarm 1 { z.alarm 1 with testUntil := some 10000000001 }), 1, by decide +kernel⟩

theorem wit_reportsReactDemandAndSignal_25 : ∃ (s : State) (lane : Fin 2) (pin : Bool), s.zone.logicRuns = true ∧ s.zone.paceDue
    (Pace.readback lane.val) 124875 = true ∧ pin = s.zone.alarmClosed lane ∧ 2 ≤ (s.zone.alarm lane).wrong ∧ s.zone.flag (pALARM
    lane.val) ALARM.ALARM_STATUS_READBACK_FAULT = false :=
  ⟨(on wSvc fun z => z.setAlarm 1 { z.alarm 1 with wrong := 2 }), 1, false, by decide +kernel⟩

theorem wit_reportsReactDemandAndSignal_26 : ∃ (s : State) (lane : Fin 2) (pin : Bool), s.zone.logicRuns = true ∧ s.zone.paceDue
    (Pace.readback lane.val) 124875 = true ∧ pin = s.zone.alarmClosed lane ∧ ((s.zone.alarm lane).wrong < 2 ∨ s.zone.flag (pALARM
    lane.val) ALARM.ALARM_STATUS_READBACK_FAULT = true) :=
  ⟨(on wSvc fun z => z.setAlarm 1 { z.alarm 1 with wrong := 1 }), 1, false, by decide +kernel⟩

theorem wit_reportsReactDemandAndSignal_27 : ∃ (s : State) (lane : Fin 2) (pin : Bool), s.zone.logicRuns = true ∧ s.zone.paceDue
    (Pace.readback lane.val) 124875 = true ∧ pin ≠ s.zone.alarmClosed lane :=
  ⟨(on wSvc fun z => (z.setAlarm 1 { z.alarm 1 with right := 15 }).setFld (pALARM 1) ALARM.ALARM_STATUS_READBACK_FAULT 1), 1,
    true, by decide +kernel⟩

theorem wit_reportsReactDemandAndSignal_28 : ∃ (s : State) (lane : Fin 2) (pin : Bool), (s.zone.logicRuns = false ∨ s.zone.paceDue
    (Pace.readback lane.val) 124875 = false) :=
  ⟨(on wSvc fun z => { z with pace := SMap.set (fun _ => 0) z.pace (Pace.readback 1) 9999999999 }), 1, true, by decide +kernel⟩

theorem wit_reportsReactDemandAndSignal_29 : ∃ (s : State) (writer : Writer), s.zone.writerActs writer = true ∧ Zone.secureWriter
    writer = true ∧ s.zone.safety.log.length ≤ 32 :=
  ⟨(on wSvc fun z => { z with safety := { z.safety with log := [⟨5, 0, false, 7, 0⟩, ⟨27, 1, true, 8, 0⟩] } }), (.firmware
    secureSrc), by decide +kernel⟩

theorem wit_reportsReactDemandAndSignal_30 : ∃ (s : State) (writer : Writer), (s.zone.writerActs writer = false ∨
    Zone.secureWriter writer = false) :=
  ⟨(on wSvc fun z => { z with safety := { z.safety with log := [⟨5, 0, false, 7, 0⟩, ⟨27, 1, true, 8, 0⟩] } }), (.keeper .A), by
    decide +kernel⟩

theorem wit_reportsReactDemandAndSignal_31 : ∃ (s : State) (p : Fin 1000) (t : ScrubTarget), (s.zone.mode = Mode.service ∨
    s.zone.mode = Mode.lightship) :=
  ⟨(on wSvc fun z => z.setFld pSAFE SAFE0.SCRUB_STATUS_PROGRESS 999), 0, .other, by decide +kernel⟩

theorem wit_reportsReactDemandAndSignal_32 : ∃ (s : State) (p : Fin 1000), (s.zone.mode = Mode.service ∨ s.zone.mode =
    Mode.lightship) :=
  ⟨(on wSvc fun z => z.setFld pSAFE SAFE0.SCRUB_STATUS_PROGRESS 999), 0, by decide +kernel⟩

theorem wit_reportsReactDemandAndSignal_33 : ∃ (s : State) (p : Fin 1000) (core : BitVec 2) (addr : BitVec 16), (s.zone.mode =
    Mode.service ∨ s.zone.mode = Mode.lightship) :=
  ⟨wSvc, 999, 3, 0xFFFC, by decide +kernel⟩

theorem wit_reportsReactDemandAndSignal_34 : ∃ (s : State) (p : Fin 1000) (t : ScrubTarget) (k : Keeper), (s.zone.mode =
    Mode.service ∨ s.zone.mode = Mode.lightship) ∧ (t = .chart k ∨ t = .table k) :=
  ⟨wSvc, 999, (.table .B), .B, by decide +kernel⟩

theorem wit_reportsReactDemandAndSignal_35 : ∃ (s : State) (p : Fin 1000) (core : BitVec 2) (addr : BitVec 16), (s.zone.mode =
    Mode.service ∨ s.zone.mode = Mode.lightship) :=
  ⟨wSvc, 999, 3, 0xFFFC, by decide +kernel⟩

theorem wit_reportsReactDemandAndSignal_36 : ∃ (s : State) (p : Fin 1000), (s.zone.mode = Mode.service ∨ s.zone.mode =
    Mode.lightship) :=
  ⟨wSvc, 999, by decide +kernel⟩

theorem wit_reportsReactDemandAndSignal_37 : ∃ (s : State) (p : Fin 1000) (t : ScrubTarget) (k : Keeper), (s.zone.mode =
    Mode.service ∨ s.zone.mode = Mode.lightship) ∧ (t = .chart k ∨ t = .table k) ∧ s.zone.role k ≠ Role.stopped ∧ s.zone.role k ≠
    Role.failed ∧ s.zone.role k ≠ Role.fenced :=
  ⟨wSvc, 999, (.chart .A), .A, by decide +kernel⟩

theorem wit_reportsReactDemandAndSignal_38 : ∃ (s : State) (p : Fin 1000) (t : ScrubTarget) (e : EccResult), s.zone.mode ≠
    Mode.service ∧ s.zone.mode ≠ Mode.lightship :=
  ⟨State.reset, 999, .other, .double, by decide +kernel⟩


/-! ### Tamva words -/

theorem wit_opcodes_1 : (tDecode .A false 0x05CC6000#32).isSome = true ∧ (tDecode .A false 0x1B000009#32).isNone = true ∧
    (tDecode .A false 0x37CC281F#32).isSome = true := by decide +kernel

theorem wit_tamvaWords_1 : (tEncode (.opCop .B 15 15 ⟨7, 255⟩ 63)).isSome = true ∧
    (tDecode .B false 0xABFDFFFF#32).isSome = true ∧ (tDecode .B true 0xB7FC3FC0#32).isSome = true := by decide +kernel


/-! ### The module -/

theorem wit_stepTakes_1 : ∃ (s : State) (c : Instr) (rest : List Instr), s.pending = c :: rest :=
  ⟨{ State.reset with pending := [.drainEnd, .commitPoint] }, .drainEnd, [.commitPoint], by decide +kernel⟩
theorem wit_stepTakes_2 : State.reset.pending = [] := by decide +kernel

theorem wit_reset_1 : State.reset.zone.mode = .start ∧ State.reset.zone.canonical = true ∧
    State.reset.zone.permitted 12 ⟨.secure, 5⟩ true true 0x1F7FFF000 4096 = true ∧
    State.reset.zone.permitted 12 ⟨.normal, 5⟩ true false 0x1F7FFF000 4 = false := by decide +kernel

theorem wit_canonical_1 : ∃ s t : State, s.zone.canonical = true ∧ step s = .next t :=
  ⟨{ wSvc with pending := [.drainEnd] }, _, by decide +kernel, rfl⟩

theorem wit_stateChanges_1 : ∃ s t : State, step s = .next t ∧ t.zone.mode ≠ s.zone.mode :=
  ⟨{ on (wMode 3) (fun z => { z with sleep := { z.sleep with phase := 3 } }) with pending := [.sleepEntryComplete] }, _, rfl, by decide +kernel⟩


/-! ### WellFormed refuses an ill-formed term of each check, and takes a well-formed one -/

theorem test_illFormed_1 : ([.registerWrite (.firmware ⟨.secure, 4⟩) 0 3 0 0,
    .registerWrite (.firmware ⟨.secure, 4⟩) 0 4 1 0,
    .rcRead ⟨.secure, 4⟩ 0 0,
    .pageLock (.keeper .A) ⟨15, 255⟩,
    .dcqPacketWrite 0 [] true,
    .clockMonitorWindow 0 ⟨2 ^ 32, 0, false⟩,
    .getStatus ⟨0, 0, List.replicate 1025 0, 0⟩,
    .reset ⟨0, 0, List.replicate 1025 0, 0⟩] : List Instr).all (fun c => !wellFormed c) = true := by
  decide +kernel

theorem test_illFormed_2 : ([.bindSupervisor ⟨0, 0, List.replicate 1025 0, 0⟩,
    .setProfile ⟨0, 0, List.replicate 1025 0, 0⟩,
    .loadTable ⟨0, 0, List.replicate 1025 0, 0⟩ none,
    .commitTable ⟨0, 0, List.replicate 1025 0, 0⟩,
    .rollbackTable ⟨0, 0, List.replicate 1025 0, 0⟩,
    .watchChange ⟨0, 0, List.replicate 1025 0, 0⟩,
    .sleepRequest ⟨0, 0, List.replicate 1025 0, 0⟩,
    .scheduleGlobal ⟨0, 0, List.replicate 1025 0, 0⟩] : List Instr).all (fun c => !wellFormed c) = true := by
  decide +kernel

theorem test_illFormed_3 : ([.cancelGlobal ⟨0, 0, List.replicate 1025 0, 0⟩,
    .forceTimeStep ⟨0, 0, List.replicate 1025 0, 0⟩,
    .grantResource ⟨0, 0, List.replicate 1025 0, 0⟩,
    .keyRoll ⟨0, 0, List.replicate 1025 0, 0⟩,
    .logFreeze ⟨0, 0, List.replicate 1025 0, 0⟩,
    .readStartReasons ⟨0, 0, List.replicate 1025 0, 0⟩,
    .clearStartCount ⟨0, 0, List.replicate 1025 0, 0⟩,
    .exitLightship ⟨0, 0, List.replicate 1025 0, 0⟩] : List Instr).all (fun c => !wellFormed c) = true := by
  decide +kernel

theorem test_illFormed_4 : ([.enterTest ⟨0, 0, List.replicate 1025 0, 0⟩,
    .exitTest ⟨0, 0, List.replicate 1025 0, 0⟩,
    .inputSample 31 65536,
    .opCrd .A 1 ⟨15, 255⟩ 0,
    .opCwr .A 1 ⟨0, 0⟩ 0,
    .opCwrSet .A 1 ⟨0, 0⟩ 0,
    .opCwrClr .A 1 ⟨0, 0⟩ 0,
    .opCwrTgl .A 1 ⟨0, 0⟩ 0] : List Instr).all (fun c => !wellFormed c) = true := by
  decide +kernel

theorem test_illFormed_5 : ([.opCop .A 0 0 ⟨1, 0⟩ 13,
    .opCop .A 1 0 ⟨0, 0⟩ 13,
    .opCrdx .A 1 1 ⟨15, 255⟩ true,
    .opCwrx .A 1 1 ⟨0, 0⟩,
    .opEvt .A 1 0,
    .opFlt .A 1 0,
    .beaconReceive .A 0 [112],
    .openLoadFilter 0 2 1] : List Instr).all (fun c => !wellFormed c) = true := by
  decide +kernel

theorem test_illFormed_6 : ([.switchFaultDetect 0 2 1 0 0 0,
    .offDiagDone 0 65536,
    .canFrameReceive 0 ⟨3, false, false, false, false, 0, 0, 0, 0, false, 0, []⟩ 0,
    .canFrameReceive 0 ⟨0, false, false, false, false, 0, 2048, 0, 0, false, 0, []⟩ 0,
    .canFrameReceive 0 ⟨0, false, false, false, false, 0, 0, 0, 0, false, 0, List.replicate 9 0⟩ 0,
    .linFrameEnd 0 (.complete [] 0),
    .linResponseTimeout 0 (List.replicate 9 0),
    .dualpassLeg 0 .m ⟨[.store 0 3 0], 0, 0, true⟩ ⟨[], 0, 0, true⟩ ⟨0, false, false⟩] : List Instr).all (fun c => !wellFormed c) = true := by
  decide +kernel

theorem test_illFormed_7 : ([.legRerun 0 .m ⟨[], 0, 0, true⟩ ⟨[.store 0 0 0], 0, 0, true⟩ ⟨0, false, false⟩,
    .memoryAccess (.app 0 .m) .read 0 0 [],
    .memoryAccess (.app 0 .m) .write 0 4 [0],
    .fwGrant ⟨.secure, 4⟩ [],
    .fwRelease ⟨.secure, 4⟩ (List.replicate 16 0),
    .fwTableGrant ⟨.secure, 4⟩ (List.replicate 16 0),
    .hingeForward 1 true true (some ⟨true, 0, 1, [0]⟩),
    .hingeForward 0 true true (some ⟨true, 0, 4, [0]⟩)] : List Instr).all (fun c => !wellFormed c) = true := by
  decide +kernel

theorem test_illFormed_8 : ([.bistDone [⟨0, none, [⟨0, 8, [⟨0, 8, 0⟩], []⟩]⟩],
    .logicBistStart (.firmware ⟨.secure, 4⟩) 63 none,
    .memoryBistStart (.firmware ⟨.secure, 4⟩) 20 [],
    .memoryBistStart (.firmware ⟨.secure, 4⟩) 0 [⟨0, 0, [⟨0, 0, 0⟩], []⟩]] : List Instr).all (fun c => !wellFormed c) = true := by
  decide +kernel

theorem test_wellFormed : ([.registerWrite (.keeper .A) 4 4 3 7, .opCop .B 15 15 ⟨1, 47⟩ 63, .opCwr .A 0 ⟨1, 47⟩ 0, .getStatus ⟨0, 0, List.replicate 1024 0, 0⟩,
    .fwTableGrant ⟨.secure, 4⟩ [2, 0, 0, 0, 0, 64, 0, 0, 0, 0, 0, 0, 0, 0, 0, 0],
    .canFrameReceive 15 ⟨2, false, false, false, false, 0, 2047, 0, 0, false, 0, List.replicate 2048 0⟩ 1,
    .memoryAccess (.safety 7 .m) .atomic 0x1000000000 4 [1, 2, 3, 4]] : List Instr).all wellFormed = true := by
  decide +kernel

/-! ### Single steps and encodings, with the results of the spec's worked examples -/

/-- The command run at a state, where it answers a next state. -/
def after (s : State) (c : Instr) : Zone :=
  match step { s with pending := [c] } with
  | .next t => t.zone
  | .fault _ => s.zone
  | .refused _ => s.zone

/-- The words of the example of an encoded step (spec/03_tamva_instruction_set.md). -/
theorem test_encodedStep :
    [tEncode (.opCrd .A 1 ⟨0, 3⟩ 3), tEncode (.opAndi .A 2 1 true 8), tEncode (.opSkip .A 0 2), tEncode (.opCwr .A 2 ⟨0, 3⟩ 3),
      tEncode (.opQpush .A 2 7), tEncode (.opStc .A 2 0x3810), tEncode (.opEnd .A)] =
    [some 0xA04000C3#32, some 0x44860008#32, some 0x68000003#32, some 0xA48000C3#32, some 0xC4800007#32, some 0x84803810#32,
      some 0xFC000000#32] := by decide +kernel

theorem test_decodedStep :
    [0xA04000C3#32, 0x44860008#32, 0x68000003#32, 0xA48000C3#32, 0xC4800007#32, 0x84803810#32, 0xFC000000#32].map
      (tDecode .B false) =
    [some (.opCrd .B 1 ⟨0, 3⟩ 3), some (.opAndi .B 2 1 true 8), some (.opSkip .B 0 2), some (.opCwr .B 2 ⟨0, 3⟩ 3),
      some (.opQpush .B 2 7), some (.opStc .B 2 0x3810), some (.opEnd .B)] := by decide +kernel

/-- Undefined words: the all-zero word, CC 15, a skip of 0, COP into W0, MODE 4 in CWR, a non-zero reserved bit (R124, R125, R166). -/
theorem test_undefinedWords :
    [0x00000000#32, 0x6BC00001#32, 0x68000000#32, 0xA8000000#32, 0xA4900000#32, 0x0040_0400#32].map (tDecode .A false) =
    List.replicate 6 none := by decide +kernel

/-- Word 3 of the page of switch port 28 (the example of R30): offset 0x51_D00C, keeper operand 0x1_4743. -/
theorem test_switchPortPage : pSWP 28 + 12 = 0x51D00C ∧ tEncode (.opCrd .A 0 ⟨5, 29⟩ 3) = some 0xA0014743#32 := by decide +kernel

/-- SUB W3, W2, W1 with W1 = 0xFFFFFFFF and W2 = 1: 2 with a borrow, no signed overflow (R127). -/
theorem test_sub : (after wStep (.opSub .A 3 2 1 true)).getW .A 3 = 2 ∧ (after wStep (.opSub .A 3 2 1 true)).flags .A = ⟨false, false, false, false⟩ := by
  decide +kernel

/-- MULH of −1 and 1, signed and unsigned. -/
theorem test_mulh : (after wStep (.opMulh .A 3 1 2 false false)).getW .A 3 = 0xFFFFFFFF ∧
    (after wStep (.opMulh .A 3 1 2 false true)).getW .A 3 = 0 := by decide +kernel

/-- SAT of −1 to 0 .. 255 (U = 1, K = 7) gives 0; to −128 .. 127 it stays. -/
theorem test_sat : (after wStep (.opSat .A 3 1 7 false true)).getW .A 3 = 0 ∧ (after wStep (.opSat .A 3 1 7 false false)).getW .A 3 = 0xFFFFFFFF := by
  decide +kernel

/-- W0 reads zero and discards what is written to it (R104). -/
theorem test_w0 : (after wStep (.opAdd .A 0 1 2 false)).getW .A 0 = 0 := by decide +kernel

/-- A reading of 1,985 with G = 66,560 and O = 16 is 203.2 mA (the example of a saloon strip in spec/08_balance_calibration.md). -/
theorem test_calibratedCurrent : (after (on wSvc fun z => (z.setFld (pCAL 26) CAL.GAIN_G 66560).setFldS (pCAL 26) CAL.OFFSET_O 16)
    (.softLimitTick 26 1985)).fldS (pLOAD 26) LOAD.CUR_CURRENT = 2032 := by decide +kernel

/-- An off-side reading of −15 becomes 0.1 mA (the same example). -/
theorem test_calibratedOffset : (after (on wSvc fun z => (z.setFld (pCAL 26) CAL.GAIN_G 66560).setFldS (pCAL 26) CAL.OFFSET_O 16)
    (.softLimitTick 26 (-15))).fldS (pLOAD 26) LOAD.CUR_CURRENT = 1 := by decide +kernel

/-- The on-times of the saloon strips at 1 kHz, and the hazard flashers at second 10^9: phase 1, next boundary in 332 ms
(spec/07_characteristics.md). -/
theorem test_waves : dutyBits 100000 = 14 ∧ onTime 0x4000 14 1000000 = 250000 ∧ onTime 0x4800 14 1000000 = 281250 ∧
    (Wave.mk 2 666000000 0 1 333000000).phaseIdx 1000000000000000000 = 1 ∧
    (Wave.mk 2 666000000 0 1 333000000).nextBoundary 1000000000000000000 = 1000000000332000000 := by decide +kernel

/-- The third measurement 37 µs away is refused (the example of a new grandmaster in spec/10_network_time.md). -/
theorem test_jumpRefused :
    let z := after (on wSvc fun z => { ((((((z.setFld pTIME TIME0.TIME_STATUS_STATE 2).setFld pTIME TIME0.TIME_STATUS_SOURCE_NOW 0).setFld
      pTIME TIME0.SERVO_CFG_REFUSE_COUNT 3).setFld pTIME TIME0.INST0_CFG_EN 1).setFld pTIME TIME0.INST0_CFG_EXT 1).setFld
      pTIME TIME0.INST0_CFG_SLAVE_PORT 3) with time := { z.time with excess := 2, net := ⟨5, 0, 0⟩ } })
      (.servoMeasurement ⟨37000 * 256, 0⟩)
    z.tstate = 3 ∧ z.rd (pTIME + TIME0.REFUSED_OFFSET_NS.off) = 37000 ∧ z.flag pTIME TIME0.TIME_EVENT_JUMP_REFUSED = true := by decide +kernel

/-- Attempt 17 of a node alone on the bus: an ACK error while error-passive, no dominant bit in the flag: TEC stays 128
(spec/11_can_lin_serial.md). -/
theorem test_aloneOnTheBus :
    let z := after (on wTicket fun z => { (((z.setFld (pCAN 5) CAN.CHAN_STATUS_TEC 128).setFld (pCAN 5) CAN.CHAN_STATUS_ERR_STATE 1)) with
      cans := (z.setCan 5 { CanSt.init with active := some (⟨canOfBytes (leBytes 4 9), false, some ⟨.A, 127, 1⟩, 1, false⟩, 5) }).cans })
      (.canAttemptEnd 5 (.error 3 4 ⟨false, 0⟩))
    z.canTec 5 = 128 ∧ (z.ticket .A 127).value = 0x0405 := by decide +kernel

/-- The record of the ticketing tenant, byte by byte (spec/16_logbook.md). -/
theorem test_ticketRecord :
    (LogRec.bytes ⟨0x10, 5, 0x4B7, ⟨0x66FF3000, 0x0EE6B280, 0x40, 2⟩, 0x2A17, 0x3442, 0x31, List.replicate 52 7⟩).take 40 =
    [0x10, 0, 5, 0, 0x34, 0, 0, 0, 0xB7, 4, 0, 0, 0, 0, 0, 0, 0, 0x30, 0xFF, 0x66, 0, 0, 0x80, 0xB2, 0xE6, 0x0E, 0x40, 2,
      0x17, 0x2A, 0, 0, 0x42, 0x34, 0, 0, 0x31, 0, 0, 0] ∧ recordLen 52 = 96 := by decide +kernel

/-- A flipped bit in result 17 for x28: ZDP_LAST shows KIND REGISTER, INDEX 17 and REG 28, and nothing leaves the core
(spec/13_dual_pass_execution.md). -/
theorem test_flippedBit :
    let l := List.replicate 17 (LegResult.reg 0 0)
    let m := List.replicate 17 (LegResult.reg 0 0xFFFFFFFF)
    let z := after wSvc (.dualpassLeg 2 .m ⟨l ++ [.reg 28 0x120], 18, 0x100, true⟩ ⟨m ++ [.reg 28 0xFFFFFEFF], 18, 0xFFFFFEFF, true⟩ ⟨0, false, false⟩)
    (z.core 2).last = 0x0011001C ∧ SMap.get (fun _ => 0#32) (z.core 2).x 28 = 0#32 ∧
      (z.core 2).fault.isSome = true := by decide +kernel

/-- A wake after the commit point is latched with LATE = 1 and counted (the example of a door contact in
spec/12_sleep_and_wake.md). -/
theorem test_lateWake :
    let z := after (on wSvc fun z => { (z.setFld (pZONE 0) (⟨ZONE0.IN_WAKE_MODE.off + 16, 0, 3⟩) 2) with
      sleep := { z.sleep with phase := 3, refs := [(4, true)], inWake := [(4, z.rd (pZONE 0 + ZONE0.IN_WAKE_MODE.off + 16) ||| 2)] } })
      (.inputWake 4 ⟨0, 25000000⟩)
    z.flag (pZONE 0) ZONE0.WAKE_SRC_LATE = true ∧ z.fld (pZONE 0) ZONE0.SLEEP_COUNTS_LATE_WAKES = 1 := by decide +kernel

/-- Cranking hold 4 ms after its end goes on counting, and 10 ms after it the accumulator returns to 0 (the example of a long crank in
spec/02_feeds_connectors_housing.md). -/
theorem test_crank :
    let s := on wSvc fun z => { z with supply := { z.supply with crankTicks := 100000000, aboveSince := some 9999000000 } }
    (after s .crankHoldEntry).supply.crankTicks = 100000000 ∧
      (after (on s fun z => { z with mono := 10001500000 }) .crankAccClear).supply.crankTicks = 0 := by decide +kernel

/-- A forced mismatch that is not reported halts core 1 and marks the cluster unchecked (spec/18_safety_mechanisms.md). -/
theorem test_comparatorFailure : ((after wSvc (.comparatorSelftest 1 false)).core 1).halted = true ∧
    ((after wSvc (.comparatorSelftest 1 false)).core 1).compFail = true := by decide +kernel

/-- Reset stands in START, entered because the supply rose (R39). -/
theorem test_reset : State.reset.zone.fld (pZONE 0) ZONE0.STATE_CURRENT = 2 ∧ State.reset.zone.fld (pZONE 0) ZONE0.STATE_ENTRY_CAUSE = 1 := by
  decide +kernel

/-- No row of the opcode table has bits. -/
theorem test_noTableWord : decodeTableWord 32 0 = none ∧ State.reset.withFetchWord 32 0 = State.reset := by decide

end Sys2Proof.Tests
end

