-- ==== Sys2Proof/Proofs/CanonicalParts.lean ====
section
/-! SUPPORT. The canonical form of registers and memory through every operation of the model, in the order of the model's files: one
lemma per operation, each following the branches of its definition. -/

namespace Sys2Proof.Machine

open Reg

/-- Register words and memory bytes are held in canonical form: what `Zone.canonical` tests, as two facts. -/
structure Zone.Canonical (s : Zone) : Prop where
  regs : SMap.wf resetWord s.regs = true
  mem : Memory.wf s.mem = true

theorem Zone.canonical_iff {s : Zone} : s.canonical = true ↔ s.Canonical := by
  unfold Zone.canonical
  rw [Bool.and_eq_true]
  exact ⟨fun h => ⟨h.1, h.2⟩, fun h => ⟨h.regs, h.mem⟩⟩

namespace Zone.Canonical

variable {s t : Zone}

/-! ### Shapes of a meaning -/

/-- An update of any parts beside registers and memory keeps the form: one rule for all of them. -/
theorem parts
    {mono freeNext time safety records supv tickets ticketSerial keeperSlots gens loads sagsA sagsB supply inputs cals
    bal tsq switch rings cans lins sers busMem pauses reqQs evtQs stages keeperA keeperB watch resp imsic localIrq tu
    grant txBuffers swdt gateTo hinges cores harts log keyring fuses start sleep dcqs pace}
    (h : s.Canonical) :
    (Zone.mk
      mono freeNext s.regs time safety records supv tickets ticketSerial keeperSlots gens loads sagsA sagsB supply
      inputs cals bal tsq switch rings cans lins sers busMem pauses reqQs evtQs stages keeperA keeperB watch resp imsic
      localIrq tu grant txBuffers swdt gateTo hinges cores harts log keyring fuses start sleep dcqs pace s.mem).Canonical :=
  ⟨h.regs, h.mem⟩

theorem ite {c : Prop} [Decidable c] (hs : s.Canonical) (ht : t.Canonical) : (if c then s else t).Canonical := by
  split <;> assumption

theorem pair {α : Type} {a : α} (h : s.Canonical) : (a, s).2.Canonical := h

theorem triple {α β : Type} {a : α} {b : β} (h : s.Canonical) : (a, b, s).2.2.Canonical := h

theorem iteSnd {α : Type} {c : Prop} [Decidable c] {a b : α} (hs : s.Canonical) (ht : t.Canonical) :
    (if c then (a, s) else (b, t)).2.Canonical := by
  split <;> assumption

theorem iteSndSnd {α β : Type} {c : Prop} [Decidable c] {a a' : α} {b b' : β}
    (hs : s.Canonical) (ht : t.Canonical) :
    (if c then (a, b, s) else (a', b', t)).2.2.Canonical := by
  split <;> assumption

theorem when {b : Bool} {f : Zone → Zone} (h : s.Canonical) (hf : ∀ z, z.Canonical → (f z).Canonical) :
    (s.when b f).Canonical :=
  .ite (hf s h) h

theorem forEach {α : Type} {l : List α} {f : Zone → α → Zone} (h : s.Canonical)
    (hf : ∀ z a, z.Canonical → (f z a).Canonical) : (s.forEach l f).Canonical :=
  forEach_keeps Zone.Canonical l f hf s h

/-- The zone that an answer ends in has the form. As a structure, unlike `x.2.Canonical` itself, it is compared without
running `x`: the kernel would otherwise evaluate a walk of the tables or a window to find its second part. -/
structure Ends {α : Type} (x : α × Zone) : Prop where
  of ::
  zone : x.2.Canonical

/-- `Ends` for an answer of three parts. -/
structure Ends₂ {α β : Type} (x : α × β × Zone) : Prop where
  of ::
  zone : x.2.2.Canonical

theorem Ends.pair {α : Type} {a : α} (h : s.Canonical) : Ends (a, s) := ⟨h⟩

theorem Ends₂.triple {α β : Type} {a : α} {b : β} (h : s.Canonical) : Ends₂ (a, b, s) := ⟨h⟩

theorem Ends.ite {α : Type} {c : Prop} [Decidable c] {x y : α × Zone} (hx : Ends x) (hy : Ends y) :
    Ends (if c then x else y) := by
  split <;> assumption

theorem Ends₂.ite {α β : Type} {c : Prop} [Decidable c] {x y : α × β × Zone} (hx : Ends₂ x) (hy : Ends₂ y) :
    Ends₂ (if c then x else y) := by
  split <;> assumption

/-! ### Machine/Ops -/

theorem wr {k v} (h : s.Canonical) : (s.wr k v).Canonical :=
  canonical_iff.1 (canonical_wr s k v (canonical_iff.2 h))

theorem setFld {p f v} (h : s.Canonical) : (s.setFld p f v).Canonical := h.wr

theorem fresh (h : s.Canonical) : (s.fresh).2.Canonical := .pair h.parts

theorem setFldS {p f v} (h : s.Canonical) : (s.setFldS p f v).Canonical := .ite h.setFld h.fresh.setFld

theorem setFldU {p f v} (h : s.Canonical) : (s.setFldU p f v).Canonical := .ite h.setFld h.fresh.setFld

theorem setFlag {p f b} (h : s.Canonical) : (s.setFlag p f b).Canonical := h.setFld

theorem event {p f} (h : s.Canonical) : (s.event p f).Canonical := h.setFld

theorem countBy {p f n} (h : s.Canonical) : (s.countBy p f n).Canonical := h.setFld

theorem count {p f} (h : s.Canonical) : (s.count p f).Canonical := h.countBy

theorem setFldBit {p f n b} (h : s.Canonical) : (s.setFldBit p f n b).Canonical := h.setFld

theorem paced {key period} {f : Zone → Zone} (h : s.Canonical) (hf : ∀ z, z.Canonical → (f z).Canonical) :
    (s.paced key period f).Canonical := by
  unfold Zone.paced
  split
  · exact hf _ h.parts
  · exact .ite (hf _ h.parts) h

theorem markTime (h : s.Canonical) : s.markTime.Canonical := h.parts

theorem heardBus (h : s.Canonical) : s.heardBus.Canonical := h.parts

theorem loseRecord (h : s.Canonical) : s.loseRecord.Canonical := h.parts.count.event

theorem addRecord {kind time payload} (h : s.Canonical) : (s.addRecord kind time payload).Canonical :=
  .ite h.parts h.loseRecord

theorem postValue {p f data} (h : s.Canonical) : (s.postValue p f data).Canonical := h.addRecord

theorem post {p f} (h : s.Canonical) : (s.post p f).Canonical := h.postValue

theorem report {source detail} (h : s.Canonical) : (s.report source detail).Canonical := h.parts

theorem reportInjected {source detail} (h : s.Canonical) : (s.reportInjected source detail).Canonical := h.parts

/-! ### Machine/Tickets -/

theorem setTicket {k n t} (h : s.Canonical) : (s.setTicket k n t).Canonical := h.parts.setFld

theorem issueTicket {k n at_} (h : s.Canonical) : (s.issueTicket k n at_).Canonical := h.parts.setTicket

theorem complete {r status value} (h : s.Canonical) : (s.complete r status value).Canonical :=
  .ite h.setTicket h.count

theorem completeOk {r value} (h : s.Canonical) : (s.completeOk r value).Canonical := h.complete

theorem completeFail {r value} (h : s.Canonical) : (s.completeFail r value).Canonical := h.complete

theorem completeAbort {r} (h : s.Canonical) : (s.completeAbort r).Canonical := h.complete

/-! ### Machine/Waves -/

theorem setGen {g x} (h : s.Canonical) : (s.setGen g x).Canonical := h.parts

/-! ### Machine/Loads -/

theorem setLoad {n x} (h : s.Canonical) : (s.setLoad n x).Canonical := h.parts

theorem setCal {n x} (h : s.Canonical) : (s.setCal n x).Canonical := h.parts

theorem settleSwitch {n} (h : s.Canonical) : (s.settleSwitch n).Canonical := h.setLoad.setFlag

theorem showLoad {m} (h : s.Canonical) : (s.showLoad m).Canonical := h.forEach fun _ _ h => h.settleSwitch

theorem settleLegs (h : s.Canonical) : s.settleLegs.Canonical := h.forEach fun _ _ h => h.settleSwitch

theorem setLState {m st} (h : s.Canonical) : (s.setLState m st).Canonical := h.forEach fun _ _ h => h.setFld

theorem setCause {m leg cause} (h : s.Canonical) : (s.setCause m leg cause).Canonical :=
  h.forEach fun _ _ h => h.setFld

theorem setCauseAll {m cause} (h : s.Canonical) : (s.setCauseAll m cause).Canonical := h.forEach fun _ _ h => h.setFld

theorem applyReq {m} (h : s.Canonical) : (s.applyReq m).Canonical := h.setLoad.showLoad

theorem stopDrive {m} (h : s.Canonical) : (s.stopDrive m).Canonical := h.setLoad.showLoad

theorem toOff {m} (h : s.Canonical) : (s.toOff m).Canonical := h.setLState.stopDrive

theorem toOpen {m st} (h : s.Canonical) : (s.toOpen m st).Canonical := h.setLState.stopDrive

theorem startConducting {m} (h : s.Canonical) : (s.startConducting m).Canonical := by
  unfold Zone.startConducting
  dsimp only
  split
  · exact h.toOpen
  · exact h.setFld.setLState.setLoad.applyReq

theorem beginGap {m} (h : s.Canonical) : (s.beginGap m).Canonical := h.setLoad.applyReq

theorem changeMode {m} (h : s.Canonical) : (s.changeMode m).Canonical :=
  .ite h (.ite h.beginGap (.ite h (.ite (.ite h.applyReq h.setLoad) h.applyReq)))

theorem abortDiag {n} (h : s.Canonical) : (s.abortDiag n).Canonical := by
  unfold Zone.abortDiag
  dsimp only
  split
  · exact h
  · exact h.setLoad.completeAbort

theorem refillTimer {m} (h : s.Canonical) : (s.refillTimer m).Canonical := by
  unfold Zone.refillTimer
  dsimp only
  split
  · split
    · exact h
    · exact h.setLoad
  · exact h.setLoad

theorem request {m} (h : s.Canonical) : (s.request m).Canonical := by
  unfold Zone.request
  dsimp only
  split
  · exact .ite
        (h.refillTimer.when (fun _ h => h.forEach fun _ _ h => h.abortDiag)).toOff
        (h.refillTimer.when (fun _ h => h.forEach fun _ _ h => h.abortDiag)).changeMode
  · exact .ite
        (h.refillTimer.when (fun _ h => h.forEach fun _ _ h => h.abortDiag)).toOff
        (h.refillTimer.when (fun _ h => h.forEach fun _ _ h => h.abortDiag)).changeMode
  · exact .ite
        (h.refillTimer.when (fun _ h => h.forEach fun _ _ h => h.abortDiag)).toOff
        (h.refillTimer.when (fun _ h => h.forEach fun _ _ h => h.abortDiag)).changeMode
  · exact .ite
        (h.refillTimer.when (fun _ h => h.forEach fun _ _ h => h.abortDiag))
        (.ite
           (h.refillTimer.when (fun _ h => h.forEach fun _ _ h => h.abortDiag)).setLState.setFld
           (h.refillTimer.when (fun _ h => h.forEach fun _ _ h => h.abortDiag)).startConducting)
  · exact .ite
        (h.refillTimer.when (fun _ h => h.forEach fun _ _ h => h.abortDiag)).toOff
        (h.refillTimer.when (fun _ h => h.forEach fun _ _ h => h.abortDiag))
  · exact h.refillTimer.when fun _ h => h.forEach fun _ _ h => h.abortDiag

theorem enterSafe {n} (h : s.Canonical) : (s.enterSafe n).Canonical := .ite h (.ite h h.setFld.event.request)

theorem loadSilent {n} (h : s.Canonical) : (s.loadSilent n).Canonical := .ite h h.setLoad.enterSafe

theorem loadDemand {n} (h : s.Canonical) : (s.loadDemand n).Canonical := .ite h (.ite h h.setLoad.enterSafe)

theorem loadRelease {n} (h : s.Canonical) : (s.loadRelease n).Canonical := h.setLoad

theorem loadAccepted {n} (h : s.Canonical) : (s.loadAccepted n).Canonical :=
  .ite h (.ite h.setLoad (.ite h.setLoad.setFld.request h.setLoad.setFld))

theorem forceOpen {n} (h : s.Canonical) : (s.forceOpen n).Canonical :=
  h.abortDiag.setFld.setFld.setFld.setLoad.refillTimer.settleSwitch

theorem forceOpenAll (h : s.Canonical) : s.forceOpenAll.Canonical := h.forEach fun _ _ h => h.forceOpen

theorem chCtrlWrite {n v} (h : s.Canonical) : (s.chCtrlWrite n v).Canonical :=
  .ite h.count (.ite h.count (.ite h.count (.ite h.count.loadAccepted h.setFld.setFld.setFld.setLoad.setFld.request)))

theorem chEvent {m f} (h : s.Canonical) : (s.chEvent m f).Canonical := h.event

theorem setFastTrip {m} (h : s.Canonical) : (s.setFastTrip m).Canonical := h.chEvent.count

theorem toLockedOut {m leg} (h : s.Canonical) : (s.toLockedOut m leg).Canonical :=
  h.toOpen.setCause.chEvent.count.post

theorem takeWarmupTrip {m leg t} (h : s.Canonical) : (s.takeWarmupTrip m leg t).Canonical :=
  .ite h.setFld.setFastTrip.toOpen.setCause.chEvent
    (.ite
       h.setFld.setFastTrip.setFld.setLState.setLoad.showLoad.chEvent.count
       (.ite h.setFld.setFastTrip.toLockedOut h.setFld.setFastTrip.setFld.setLState.setLoad.showLoad.setFld))

theorem fastTrip {n peak} (h : s.Canonical) : (s.fastTrip n peak).Canonical := by
  unfold Zone.fastTrip
  dsimp only
  split
  · exact h
  · split
    · exact h.setLoad.setFld.setLoad.showLoad
    · exact h.setLoad.setFld.toOpen.setCause.setFastTrip.chEvent
    · exact h.setLoad

theorem softTrip {n} (h : s.Canonical) : (s.softTrip n).Canonical := by
  unfold Zone.softTrip
  dsimp only
  split
  · exact h.toOpen.setCause.chEvent.chEvent
  · exact h.toOpen.setCause.chEvent.chEvent
  · exact h

theorem latchSet {n} (h : s.Canonical) : (s.latchSet n).Canonical := by
  unfold Zone.latchSet
  dsimp only
  split
  · exact h.setFld.count.toOpen.setCause.setFld.chEvent
  · exact h.setFld.count.toOpen.setCause.setFld.chEvent
  · exact h.setFld.count.toOpen.setCause.setFld.chEvent
  · exact h.setFld.count

theorem latchRelease {n} (h : s.Canonical) : (s.latchRelease n).Canonical :=
  .ite h.setFld
    (.ite h.setFld.setFld.chEvent.toOff
       (.ite h.setFld.setFld.chEvent.startConducting
          (.ite h.setFld.setFld.chEvent.toLockedOut
             (.ite h.setFld.setFld.chEvent.startConducting h.setFld.setFld.chEvent.setFld.startConducting.chEvent))))

theorem clearRetry {m} (h : s.Canonical) : (s.clearRetry m).Canonical :=
  .ite h.setFld (.ite h.setFld.toOff (.ite h.setFld.setLState.setFld h.setFld.startConducting))

theorem feedBandChanged {m} (h : s.Canonical) : (s.feedBandChanged m).Canonical := by
  unfold Zone.feedBandChanged
  dsimp only
  split
  · exact h.showLoad
  · split
    · exact .ite h.toOpen.setCauseAll.chEvent (.ite h.setLState.showLoad h.showLoad)
    · exact .ite h.setLState.showLoad h.showLoad

theorem feedBandAll {f} (h : s.Canonical) : (s.feedBandAll f).Canonical := h.forEach fun _ _ h => h.feedBandChanged

theorem switchFault {s n status evt source present absent} (h : s.Canonical) :
    (Machine.switchFault s n status evt source present absent).Canonical :=
  .ite h.setFld.event.report (.ite h.setFld h)

theorem setFeedV {f v} (h : s.Canonical) : (s.setFeedV f v).Canonical := by
  unfold Zone.setFeedV
  split
  · exact h.setFld
  · exact h.setFld

theorem opClearRetry {n r} (h : s.Canonical) : (s.opClearRetry n r).Canonical :=
  .ite h.count h.loadAccepted.clearRetry.completeOk

theorem opOffDiag {n r shorted} (h : s.Canonical) : (s.opOffDiag n r shorted).Canonical :=
  .ite h.count (.ite h.loadAccepted.completeFail (.ite h.loadAccepted.completeFail h.loadAccepted.setLoad))

theorem opSnapshot {n r} (h : s.Canonical) : (s.opSnapshot n r).Canonical := .ite h.count h.loadAccepted.completeOk

theorem opLoadOther {n r} (h : s.Canonical) : (s.opLoadOther n r).Canonical :=
  .ite h.count h.loadAccepted.completeFail

/-! ### Machine/Chars -/

theorem refreshFollowers {g} (h : s.Canonical) : (s.refreshFollowers g).Canonical := h.forEach fun _ _ h => h.showLoad

theorem applySet {g from_} (h : s.Canonical) : (s.applySet g from_).Canonical :=
  h.setGen.setFld.setFld.setFld.setFld.setFld.event.refreshFollowers

theorem fadeOnly {g from_} (h : s.Canonical) : (s.fadeOnly g from_).Canonical := h.setGen.setFld.refreshFollowers

theorem applyIfOff {g} (h : s.Canonical) : (s.applyIfOff g).Canonical := .ite h.applySet h

theorem stagedWrite {g word v} (h : s.Canonical) : (s.stagedWrite g word v).Canonical :=
  .ite h.count h.wr.setFld.applyIfOff

theorem holdWrite {g hold} (h : s.Canonical) : (s.holdWrite g hold).Canonical := h.setFlag.applyIfOff

theorem gensStepped {old} (h : s.Canonical) : (s.gensStepped old).Canonical :=
  h.forEach fun _ _ h => .ite h.setGen h.setGen.count.event.refreshFollowers

theorem followsStepped (h : s.Canonical) : s.followsStepped.Canonical := h.parts

theorem gensOff (h : s.Canonical) : s.gensOff.Canonical := h.forEach fun _ _ h => h.setGen.setFld.refreshFollowers

theorem gensStopped (h : s.Canonical) : s.gensStopped.Canonical :=
  h.forEach fun _ _ h => h.setFld.event.count.refreshFollowers

theorem gensRestarted (h : s.Canonical) : s.gensRestarted.Canonical :=
  h.forEach fun _ _ h => .ite h.setFld.applyIfOff h.setFld.setGen.count.event.refreshFollowers

/-! ### Machine/Supply -/

theorem setInput {k x} (h : s.Canonical) : (s.setInput k x).Canonical := h.parts

theorem reportSupply (h : s.Canonical) : s.reportSupply.Canonical := h.report

theorem setFeed {f x} (h : s.Canonical) : (s.setFeed f x).Canonical := by
  unfold Zone.setFeed
  dsimp only
  split
  · exact h.parts
  · exact h.parts

theorem windowMark (h : s.Canonical) : s.windowMark.Canonical := h.parts

theorem feedCrosses {f band volts} (h : s.Canonical) : (s.feedCrosses f band volts).Canonical := h.windowMark.setFeed

theorem setBand {f code} (h : s.Canonical) : (s.setBand f code).Canonical := by
  unfold Zone.setBand
  dsimp only
  refine .feedBandAll ?_
  refine .setFld ?_
  split
  · exact h.parts
  · exact h.parts

theorem supplyEvent {f a b} (h : s.Canonical) : (s.supplyEvent f a b).Canonical := h.event

theorem leaveCrank (h : s.Canonical) : s.leaveCrank.Canonical := .ite h.windowMark.parts.setFld h

theorem showCrank (h : s.Canonical) : s.showCrank.Canonical := h.setFld.event.count.reportSupply

theorem judgeFeed {f} (h : s.Canonical) : (s.judgeFeed f).Canonical := by
  unfold Zone.judgeFeed
  extract_lets s₁ new old s₂ s₃
  have h₁ : s₁.Canonical := by
    dsimp only [s₁]
    split
    · exact h.setFeedV
    · exact h
  have h₂ : s₂.Canonical := h₁.when fun _ h => h.supplyEvent
  refine .ite h₁ ?_
  dsimp only [new]
  split
  · exact h₂.supplyEvent.count.setBand.reportSupply
  · exact h₂.supplyEvent.setBand.reportSupply
  · exact h₂.supplyEvent.setBand.reportSupply
  · exact h₂.supplyEvent.setBand.reportSupply
  · exact h₂.setBand

theorem feedEvent {f band volts} (h : s.Canonical) : (s.feedEvent f band volts).Canonical :=
  .ite h.feedCrosses.judgeFeed h.feedCrosses

theorem judgeSupply (h : s.Canonical) : s.judgeSupply.Canonical :=
  (h.judgeFeed.judgeFeed.when (fun _ h => h.showCrank)).feedBandAll.feedBandAll

theorem showActive {k} (h : s.Canonical) : (s.showActive k).Canonical := .ite h h.setFlag

theorem takeLevel {k} (h : s.Canonical) : (s.takeLevel k).Canonical := .ite h h.setFlag.event.count.showActive

theorem inReject {k} (h : s.Canonical) : (s.inReject k).Canonical := h.event.count

theorem clearCapture {k} (h : s.Canonical) : (s.clearCapture k).Canonical := h.setInput.setFld.setFld.setFld

theorem inCfgWrite {k v} (h : s.Canonical) : (s.inCfgWrite k v).Canonical :=
  .ite h (.ite h.inReject (.ite h.wr.showActive.clearCapture h.wr.showActive))

theorem inThreshWrite {k v} (h : s.Canonical) : (s.inThreshWrite k v).Canonical := .ite h (.ite h.inReject h.wr)

/-! ### Machine/Cal -/

theorem calDirty (h : s.Canonical) : s.calDirty.Canonical := h.parts

theorem discardBlock {n} (h : s.Canonical) : (s.discardBlock n).Canonical := h.setCal.setFld

theorem setCalibration {n g o} (h : s.Canonical) : (s.setCalibration n g o).Canonical := h.setCal.setFld.setFldS

theorem unconverge {n} (h : s.Canonical) : (s.unconverge n).Canonical := h.setFld.setFld

theorem calFreeze {n cause} (h : s.Canonical) : (s.calFreeze n cause).Canonical :=
  h.setFld.setFld.unconverge.event.post.report.calDirty

theorem calAccept {n gEst oEst dg dofs small} (h : s.Canonical) : (s.calAccept n gEst oEst dg dofs small).Canonical :=
  .ite
    (.ite h.setCalibration.event.calDirty.setFld.setFld.event h.setCalibration.event.calDirty.setFld)
    h.setCalibration.event.calDirty.unconverge

theorem calBlock {n sxx sxy sz} (h : s.Canonical) : (s.calBlock n sxx sxy sz).Canonical :=
  .ite h.setFldU.setFldS.count.setCal.calFreeze
    (.ite h.setFldU.setFldS.count.setCal.calFreeze
       (.ite h.setFldU.setFldS.count.setCal.calFreeze
          (.ite h.setFldU.setFldS.count.setCal.calFreeze h.setFldU.setFldS.count.setCal.calAccept)))

theorem calUpdates (h : s.Canonical) : s.calUpdates.Canonical := by
  unfold Zone.calUpdates
  split
  · exact h
  · refine h.forEach fun _ _ h => ?_
    split
    · exact h.calBlock
    · exact h

theorem calClean {n x y z} (h : s.Canonical) : (s.calClean n x y z).Canonical :=
  .ite h.discardBlock.setCal h.setCal.setFld

theorem calRestart {n} (h : s.Canonical) : (s.calRestart n).Canonical :=
  h.setCalibration.setFld.setFld.discardBlock.unconverge.calDirty

theorem calSave (h : s.Canonical) : s.calSave.Canonical := h.parts

theorem calStart (h : s.Canonical) : s.calStart.Canonical :=
  (h.setFlag.forEach (fun _ _ h => h.setCal.discardBlock.unconverge.setFld.setFld.setFlag.setFld)).parts

theorem setBal {f run calm} (h : s.Canonical) : (s.setBal f run calm).Canonical := by
  unfold Zone.setBal
  dsimp only
  split
  · exact h.parts
  · exact h.parts

theorem balFault {f} (h : s.Canonical) : (s.balFault f).Canonical := h.setFld.event.count.post.report

theorem balJudge {f r} (h : s.Canonical) : (s.balJudge f r).Canonical := by
  unfold Zone.balJudge
  dsimp only
  split
  · exact .ite
        (.setFld
           (.ite (.balFault (.setBal (.ite h.setFlag.setFldU h.setFlag))) (.setBal (.ite h.setFlag.setFldU h.setFlag))))
        (.ite (.balFault (.setBal (.ite h.setFlag.setFldU h.setFlag))) (.setBal (.ite h.setFlag.setFldU h.setFlag)))
  · exact .ite (.balFault (.setBal (.ite h.setFlag.setFldU h.setFlag))) (.setBal (.ite h.setFlag.setFldU h.setFlag))

theorem balEval {f shunt elec sat legs} (h : s.Canonical) : (s.balEval f shunt elec sat legs).Canonical :=
  (h.setFldS.setFldU.setFlag.when (fun _ h => h.count)).setFldS.setFldU.setFlag.balJudge

theorem ringApply (h : s.Canonical) : s.ringApply.Canonical := h.setFldS.setFldS

theorem showRing (h : s.Canonical) : s.showRing.Canonical := .ite h.setFlag h.setFlag.ringApply

theorem ringCtrlWrite {v} (h : s.Canonical) : (s.ringCtrlWrite v).Canonical := .showRing (.ite h.wr h.wr.setFld)

theorem ringRestart (h : s.Canonical) : s.ringRestart.Canonical := h.setFld.setFld.showRing

theorem breakRing (h : s.Canonical) : s.breakRing.Canonical := h.parts

theorem ringUpdate {d} (h : s.Canonical) : (s.ringUpdate d).Canonical :=
  .ite h.setFldS.setFld.event.post.ringApply h.setFldS.setFldS.count.event.ringApply

/-! ### Machine/Gates -/

theorem sw {f : SwitchSt → SwitchSt} (h : s.Canonical) : (s.sw f).Canonical := h.parts

theorem setVoq {i e t l} (h : s.Canonical) : (s.setVoq i e t l).Canonical := h.sw

theorem setEgress {e x} (h : s.Canonical) : (s.setEgress e x).Canonical := h.sw

theorem setGate {p g} (h : s.Canonical) : (s.setGate p g).Canonical := h.sw

theorem shape {p} (h : s.Canonical) : (s.shape p).Canonical := h.forEach fun _ _ h => .ite h.sw.setFldS h

theorem settleCredit {p} (h : s.Canonical) : (s.settleCredit p).Canonical := h.forEach fun _ _ h => .ite h.sw.setFld h

theorem shaped {p} {f : Zone → Zone} (h : s.Canonical) (hf : ∀ z, z.Canonical → (f z).Canonical) :
    (s.shaped p f).Canonical :=
  (hf _ h.shape).settleCredit

theorem gateEval {p} (h : s.Canonical) : (s.gateEval p).Canonical := by
  unfold Zone.gateEval
  extract_lets s₁ g s₂ g' s₃ x
  have h₂ : s₂.Canonical := by
    dsimp only [s₂]
    split
    · exact .ite h.shape.setGate h.shape
    · exact h.shape
  have h₃ : s₃.Canonical := by
    dsimp only [s₃]
    split
    · exact h₂
    · exact .ite h₂.setGate.setFld.event.setFld h₂
  exact h₃.setFld.setFld

theorem gateStepped {p} (h : s.Canonical) : (s.gateStepped p).Canonical := h.setGate.gateEval.event

theorem gateCommit {p} (h : s.Canonical) : (s.gateCommit p).Canonical := .ite h.event h.setGate.setFld

/-! ### Machine/Envelope -/

theorem send {code seq status result} (h : s.Canonical) : (s.send code seq status result).Canonical := h.parts

theorem notice {code result} (h : s.Canonical) : (s.notice code result).Canonical := .ite h.send h

theorem answer {code seq status result} (h : s.Canonical) : (s.answer code seq status result).Canonical :=
  h.send.parts

/-! ### Machine/Segments -/

theorem setStream {n x} (h : s.Canonical) : (s.setStream n x).Canonical := h.parts

theorem setNextSeq {n v} (h : s.Canonical) : (s.setNextSeq n v).Canonical := h.setFld.setFld

theorem closeSegment {n cause} (h : s.Canonical) : (s.closeSegment n cause).Canonical := by
  unfold Zone.closeSegment
  dsimp only
  split
  · exact h
  · exact .ite h.setStream.parts.setFld.setFld.setFld.setFld h.setStream.parts.setFld.setFld

theorem chainRecord {n r} (h : s.Canonical) : (s.chainRecord n r).Canonical := by
  unfold Zone.chainRecord
  dsimp only
  refine .setFld ?_
  refine .setStream ?_
  split
  · exact .ite h h.closeSegment
  · exact h

theorem drainCloses {n l} (h : s.Canonical) : (s.drainCloses n l).Canonical := by
  induction l generalizing s with
  | nil => exact h
  | cons x r ih =>
    cases x with
    | close c => exact ih h.closeSegment.setStream
    | _ => exact h

theorem closeAfter {n cause} (h : s.Canonical) : (s.closeAfter n cause).Canonical :=
  .ite h (.ite h.closeSegment h.setStream)

theorem closeAll {cause} (h : s.Canonical) : (s.closeAll cause).Canonical := h.forEach fun _ _ h => h.closeAfter

theorem hashNext {n} (h : s.Canonical) : (s.hashNext n).Canonical := by
  unfold Zone.hashNext
  dsimp only
  split
  · exact h
  · split
    · exact h
    · exact h.setStream.chainRecord.drainCloses
    · exact h.drainCloses

/-! ### Machine/Time -/

theorem setTState {v} (h : s.Canonical) : (s.setTState v).Canonical := h.setFld

theorem setInc {v} (h : s.Canonical) : (s.setInc v).Canonical := h.setFld.setFld

theorem setNs {f o} (h : s.Canonical) : (s.setNs f o).Canonical := h.setFld

theorem setTerms {r ph} (h : s.Canonical) : (s.setTerms r ph).Canonical := h.markTime.parts.setInc.setFldS.setFlag

theorem toLocked (h : s.Canonical) : s.toLocked.Canonical :=
  .parts (.setTState (.ite (.ite h.event h) (.parts (.ite h.event h))))

theorem beginHoldover (h : s.Canonical) : s.beginHoldover.Canonical := h.setTState.event.count.setFld.parts

theorem enterHoldover (h : s.Canonical) : s.enterHoldover.Canonical := .ite h.beginHoldover.setTerms h

theorem setSlotWord {k w v} (h : s.Canonical) : (s.setSlotWord k w v).Canonical := h.wr

theorem setSlotState {k v} (h : s.Canonical) : (s.setSlotState k v).Canonical := h.setSlotWord.setFld

theorem globalExecuted {k} (h : s.Canonical) : (s.globalExecuted k).Canonical := h.setSlotState.count.notice

theorem dropPending (h : s.Canonical) : s.dropPending.Canonical := h.forEach fun _ _ h => h.setSlotWord.setSlotState

theorem markLate {old} (h : s.Canonical) : (s.markLate old).Canonical := h.parts

theorem refsStepped (h : s.Canonical) : s.refsStepped.Canonical := h.forEach fun _ _ h => h.parts

theorem timeStep {o} (h : s.Canonical) : (s.timeStep o).Canonical :=
  h.forEach (fun _ _ h => h.gateEval)
    |>.markTime.parts.setTerms.event.count.postValue.gensStepped.followsStepped.refsStepped.parts.forEach (fun _ _ h =>
         h.gateStepped)
    |>.markLate.closeAll

theorem clearRefusal (h : s.Canonical) : s.clearRefusal.Canonical := h.setFld.parts

theorem slew {o} (h : s.Canonical) : (s.slew o).Canonical := h.setTerms.toLocked.parts

theorem servoStep {o} (h : s.Canonical) : (s.servoStep o).Canonical := h.timeStep.toLocked.parts

theorem refuse {o} (h : s.Canonical) : (s.refuse o).Canonical :=
  h.setFld.event.setNs.count.parts.postValue.enterHoldover

theorem judge {o} (h : s.Canonical) : (s.judge o).Canonical :=
  .ite h.parts.clearRefusal.servoStep.event
    (.ite h.parts.servoStep.event
       (.ite h.parts.slew
          (.ite h.parts.servoStep
             (.ite (.refuse (.parts (.ite h.parts h.parts.setTerms))) (.ite h.parts h.parts.setTerms)))))

theorem measure {o} (h : s.Canonical) : (s.measure o).Canonical := by
  unfold Zone.measure
  dsimp only
  split
  · exact h.setNs.parts.servoStep.clearRefusal.answer
  · exact .ite (.ite (.ite h.setNs.parts.clearRefusal.judge h.setNs.parts) h.setNs.parts) h.setNs.judge

theorem sourceCheck (h : s.Canonical) : s.sourceCheck.Canonical :=
  .showRing
    (.ite
       (.enterHoldover (.ite h.setFld.setFlag.event.count.setTerms h.setFld.setFlag))
       (.ite h.setFld.setFlag.event.count.setTerms h.setFld.setFlag))

theorem leaveLocal (h : s.Canonical) : s.leaveLocal.Canonical :=
  .ite (.ite h.setTerms.beginHoldover h.setTerms.setTState) h

theorem selectSource {v} (h : s.Canonical) : (s.selectSource v).Canonical :=
  .ite h
    (.ite
       (h.setFld.parts.setFld.parts.when (fun _ h => h.event)).setTState.sourceCheck
       h.setFld.parts.setFld.leaveLocal.sourceCheck)

theorem ptpSync {i} (h : s.Canonical) : (s.ptpSync i).Canonical := by
  unfold Zone.ptpSync
  exact h.parts.setFlag.sourceCheck

theorem jumpWrite {v} (h : s.Canonical) : (s.jumpWrite v).Canonical := .ite (.ite h.setFld.setFld h.setFld) h

theorem slewWrite {v} (h : s.Canonical) : (s.slewWrite v).Canonical := .ite h.setFld h

theorem servoCfgWrite {v} (h : s.Canonical) : (s.servoCfgWrite v).Canonical :=
  .ite
    ((h.when (fun _ h => h.setFld)).when (fun _ h => h.setFld)).setFld.sourceCheck
    ((h.when (fun _ h => h.setFld)).when (fun _ h => h.setFld)).setFld.selectSource

theorem timeSnap (h : s.Canonical) : s.timeSnap.Canonical := h.setFld.setFld.setFld.setFld

theorem showTsq {p} (h : s.Canonical) : (s.showTsq p).Canonical :=
  (h.setFld.setFlag.when (fun _ h => h.setFld)).setFld.setFld.setFld.setFld.setFld

theorem tsqAppend {p e} (h : s.Canonical) : (s.tsqAppend p e).Canonical :=
  .ite h.parts.count.showTsq h.setFld.event.count

theorem tsqPop {p} (h : s.Canonical) : (s.tsqPop p).Canonical := by
  unfold Zone.tsqPop
  split
  · exact h
  · exact h.parts.showTsq

/-! ### Machine/Queues -/

theorem showHinge {j x} (h : s.Canonical) : (s.showHinge j x).Canonical := by
  unfold Zone.showHinge
  dsimp only
  split
  · refine .wr ?_
    refine .wr ?_
    refine .wr ?_
    split
    · exact h.setFld.setFld.wr.wr.wr
    · exact h.setFld.setFld.wr.wr.wr.setFld
  · refine .setFld ?_
    refine .wr ?_
    refine .wr ?_
    refine .wr ?_
    split
    · exact h.setFld.setFld.wr.wr.wr
    · exact h.setFld.setFld.wr.wr.wr.setFld

theorem setHinge {j x} (h : s.Canonical) : (s.setHinge j x).Canonical := h.parts.showHinge

theorem hingeEnter {j t posted} (h : s.Canonical) : (s.hingeEnter j t posted).Canonical := .ite h.setHinge h.setHinge

theorem noticeArrives {route} (h : s.Canonical) : (s.noticeArrives route).Canonical := .ite h.parts (.ite h.parts h)

theorem sendNotice {route} (h : s.Canonical) : (s.sendNotice route).Canonical := .ite h.hingeEnter h.noticeArrives

theorem setKeeper {k x} (h : s.Canonical) : (s.setKeeper k x).Canonical := by
  unfold Zone.setKeeper
  split
  · exact h.parts
  · exact h.parts

theorem setReqQ {q x} (h : s.Canonical) : (s.setReqQ q x).Canonical := h.parts.setFld

theorem setEvtQ {q x} (h : s.Canonical) : (s.setEvtQ q x).Canonical := h.parts.setFld

theorem dropLeft {q} (h : s.Canonical) : (s.dropLeft q).Canonical := h.setReqQ

theorem takeReq {k q} (h : s.Canonical) : (s.takeReq k q).2.Canonical := by
  unfold Zone.takeReq
  dsimp only
  split
  · exact h
  · exact .pair h.setReqQ.dropLeft

theorem pushEvt {k q w} (h : s.Canonical) : (s.pushEvt k q w).Canonical := .ite h.countBy h.setEvtQ

theorem rebind {j} (h : s.Canonical) : (s.rebind j).Canonical :=
  (h.forEach (fun _ _ h => .ite h h.countBy.setReqQ)).forEach fun _ _ h => .ite h h.countBy.setEvtQ

theorem joinQueues {old k j} (h : s.Canonical) : (s.joinQueues old k j).Canonical :=
  .ite h (h.forEach (fun _ _ h => .ite h.setReqQ h))

theorem respond {code data} (h : s.Canonical) : (s.respond code data).Canonical := h.parts

theorem queueRefused {q src code} (h : s.Canonical) : (s.queueRefused q src code).Canonical :=
  h.setFld.setFld.setFlag.setFld

theorem postRefused {q src code frame} (h : s.Canonical) : (s.postRefused q src code frame).Canonical :=
  .respond (.ite h.queueRefused.count.countBy h.queueRefused.count)

theorem frameWord {q w need words since} (h : s.Canonical) : (s.frameWord q w need words since).Canonical :=
  .ite h.setReqQ.respond h.setReqQ.respond

theorem alienWord {q src w} (h : s.Canonical) : (s.alienWord q src w).Canonical := h.setReqQ.postRefused

theorem postWord {q src w} (h : s.Canonical) : (s.postWord q src w).Canonical := by
  unfold Zone.postWord
  dsimp only
  split
  · exact h.dropLeft.alienWord
  · exact .ite h.dropLeft.alienWord
        (.ite h.dropLeft.setReqQ.postRefused
           (.ite h.dropLeft.frameWord (.ite h.dropLeft.setReqQ.postRefused h.dropLeft.frameWord)))

theorem popEvt {q src} (h : s.Canonical) : (s.popEvt q src).Canonical := by
  unfold Zone.popEvt
  dsimp only
  split
  · exact h.queueRefused.count.respond
  · split
    · exact h.queueRefused.count.respond
    · split
      · exact h.respond
      · exact h.setEvtQ.respond

/-! ### Machine/Keepers -/

theorem setRole {k r} (h : s.Canonical) : (s.setRole k r).Canonical := h.setFld

theorem checkBoth (h : s.Canonical) : s.checkBoth.Canonical := .ite h.report.parts h

theorem setVerdict {k t} (h : s.Canonical) : (s.setVerdict k t).Canonical := by
  unfold Zone.setVerdict
  dsimp only
  split
  · exact h.parts
  · exact h.parts

theorem selfCheck {k cause} (h : s.Canonical) : (s.selfCheck k cause).Canonical :=
  .ite h h.setRole.setFld.setKeeper.setVerdict.report.checkBoth

theorem fence {k} (h : s.Canonical) : (s.fence k).Canonical := .ite h h.setFld.setRole.setKeeper.checkBoth

theorem confirmFence {k} (h : s.Canonical) : (s.confirmFence k).Canonical := h.setFld

theorem dropSched (h : s.Canonical) : s.dropSched.Canonical := by
  unfold Zone.dropSched
  dsimp only
  refine .parts ?_
  refine .setFld ?_
  split
  · exact h.parts
  · exact h

theorem declareFailed {i} (h : s.Canonical) : (s.declareFailed i).Canonical :=
  .ite (.setFld (.dropSched (.fence (.ite h h.report))))
    (.ite (.setKeeper (.dropSched (.fence (.ite h h.report)))) (.dropSched (.fence (.ite h h.report))))

theorem judgeOther {i} (h : s.Canonical) : (s.judgeOther i).Canonical :=
  .ite h (.ite (.declareFailed (.ite h.setKeeper h.setKeeper.count)) (.ite h.setKeeper h.setKeeper.count))

theorem showMirror {k} (h : s.Canonical) : (s.showMirror k).Canonical := h.setFlag

theorem mirrorApply {k} (h : s.Canonical) : (s.mirrorApply k).Canonical := by
  unfold Zone.mirrorApply
  dsimp only
  split
  · exact .ite h.setKeeper.count.setFld h.setKeeper
  · exact h.setKeeper.count.setFld

theorem sendBeacon {k} (h : s.Canonical) : (s.sendBeacon k).Canonical := by
  unfold Zone.sendBeacon
  exact .ite h h.setKeeper

theorem setStage {i x} (h : s.Canonical) : (s.setStage i x).Canonical := h.parts

theorem stageHear {k slot f i} (h : s.Canonical) : (s.stageHear k slot f i).Canonical := by
  unfold Zone.stageHear
  dsimp only
  split
  · exact h
  · exact h.setStage

theorem keeperHear {k slot f} (h : s.Canonical) : (s.keeperHear k slot f).Canonical := by
  unfold Zone.keeperHear
  dsimp only
  split
  · exact h
  · exact h.setKeeper.setFld

theorem countRefusal {k cond} (h : s.Canonical) : (s.countRefusal k cond).Canonical := .ite h.count.count h.count

theorem stageAccept {i k} (h : s.Canonical) : (s.stageAccept i k).Canonical := h.setStage

/-! ### Machine/Switch -/

theorem statBy {k n} (h : s.Canonical) : (s.statBy k n).Canonical := h.sw

theorem stat {k} (h : s.Canonical) : (s.stat k).Canonical := h.statBy

theorem swCfgReject {p} (h : s.Canonical) : (s.swCfgReject p).Canonical := h.event.count

theorem showBuf (h : s.Canonical) : s.showBuf.Canonical :=
  (h.setFld.when (fun _ h => h.event)).setFld.forEach fun _ _ h => h.setFld

theorem wred {p t colour} (h : s.Canonical) : (s.wred p t colour).2.Canonical := .pair h.sw

theorem enqueue {i e t c} (h : s.Canonical) : (s.enqueue i e t c).Canonical :=
  (h.shaped (fun _ h => h.setVoq)).stat.showBuf

theorem submit {i e t c session} (h : s.Canonical) : (s.submit i e t c session).Canonical := by
  unfold Zone.submit
  dsimp only
  split
  · exact .ite h.stat (.ite h.enqueue.stat h.stat)
  · exact .ite h.stat (.ite (.ite (.ite h.wred.stat h.wred.enqueue) h.enqueue) (.ite h.stat (.ite h.enqueue h.stat)))

theorem ageQueue {i e t} (h : s.Canonical) : (s.ageQueue i e t).Canonical :=
  .ite h (h.shaped (fun _ h => h.setVoq)).statBy.showBuf

theorem flushPort {p} {f : Nat → Bool} (h : s.Canonical) : (s.flushPort p f).Canonical := by
  refine .showBuf (.settleCredit (h.shape.forEach fun _ _ h => .statBy ?_))
  dsimp only
  split
  · exact .ite (.parts (h.forEach fun _ _ h => h.setVoq).setEgress) (h.forEach fun _ _ h => h.setVoq)
  · exact h.forEach fun _ _ h => h.setVoq

theorem portCheck {p} (h : s.Canonical) : (s.portCheck p).Canonical :=
  .ite h
    (.ite (.ite h h.sw.setFld.setFld.event)
       (.ite (.ite h.event.flushPort.flushPort.setFld h.event.flushPort.sw.setFld.setFld) h))

theorem swEnableChanged (h : s.Canonical) : s.swEnableChanged.Canonical := h.setFld.sw

theorem setEntry {w i l} (h : s.Canonical) : (s.setEntry w i l).Canonical := h.sw

theorem setSgate {g x} (h : s.Canonical) : (s.setSgate g x).Canonical := h.sw

theorem sgateEval {g} (h : s.Canonical) : (s.sgateEval g).Canonical := by
  unfold Zone.sgateEval
  extract_lets x s₁ s₂
  have h₂ : s₂.Canonical := by
    dsimp only [s₂]
    split
    · exact h
    · refine .ite (.setSgate (h.forEach fun _ _ h => ?_)) h
      split
      · exact h.setEntry
      · exact h
  exact .ite h₂.fresh.setSgate h₂.setSgate

theorem setMeter {m x} (h : s.Canonical) : (s.setMeter m x).Canonical := h.sw

theorem setRecov {f x} (h : s.Canonical) : (s.setRecov f x).Canonical := h.sw

theorem recovReset {f} (h : s.Canonical) : (s.recovReset f).Canonical := h.setRecov.stat

theorem entryWritten {w i old d} (h : s.Canonical) : (s.entryWritten w i old d).Canonical := by
  unfold Zone.entryWritten
  dsimp only
  split
  · exact .ite h.setSgate.setSgate h.setSgate
  · exact .ite h.setMeter h.setMeter
  · exact .ite (.ite h.sw h) (.ite h.setRecov h)
  · exact h.sw
  · exact h

theorem winWrite {w index} (h : s.Canonical) : (s.winWrite w index).2.2.Canonical := by
  unfold Zone.winWrite
  dsimp only
  split
  · split
    · exact h
    · split
      · exact h
      · exact .triple h.setEntry
  · exact .iteSndSnd h h.setEntry.entryWritten

theorem winRead {w index} (h : s.Canonical) : (s.winRead w index).2.2.Canonical :=
  .iteSndSnd h (.ite (h.forEach (fun _ _ h => h.wr)).wr (h.forEach (fun _ _ h => h.wr)))

theorem winClear {w index} (h : s.Canonical) : (s.winClear w index).2.2.Canonical := by
  unfold Zone.winClear
  dsimp only
  split
  · split
    · exact h
    · exact .triple h.setEntry
  · split
    · exact h
    · split
      · exact .ite h.setEntry.setSgate h.setEntry.setSgate
      · exact h.setEntry.setMeter
      · exact .ite h.setEntry.setRecov h.setEntry
      · exact h.setEntry

theorem winOp {r} {x : Nat × Nat × Zone} (h : x.2.2.Canonical) : (Zone.winOp r x).Canonical := h.complete

/-! ### Machine/Ingress -/

theorem setSecA {p n a} (h : s.Canonical) : (s.setSecA p n a).Canonical := by
  unfold Zone.setSecA
  dsimp only
  split
  · exact h.sw.wr.wr.wr.wr.wr
  · exact h.sw.wr

theorem secIn {p f} (h : s.Canonical) : (s.secIn p f).2.Canonical := by
  unfold Zone.secIn
  dsimp only
  split
  · exact h
  · split
    · exact h
    · split
      · exact .pair h.stat
      · split
        · exact h
        · exact .iteSnd h.stat (.iteSnd (.iteSnd h.stat h) (.iteSnd h.setSecA.stat (.iteSnd h.stat h.stat)))

theorem secOut {p f} (h : s.Canonical) : (s.secOut p f).2.Canonical := by
  unfold Zone.secOut
  dsimp only
  split
  · exact h
  · split
    · exact h
    · split
      · exact h
      · exact .iteSnd h.stat (.stat (.ite h.setSecA.event h.setSecA))

theorem mirrorTo {m i c} (h : s.Canonical) : (s.mirrorTo m i c).Canonical := .ite h.submit h

theorem mirror {kind source i c} (h : s.Canonical) : (s.mirror kind source i c).Canonical :=
  h.forEach fun _ _ h => .ite h.mirrorTo h

theorem shiftHistory {f n b j} (h : s.Canonical) : (s.shiftHistory f n b j).2.Canonical := .pair (.ite h.stat h)

theorem recover {f num} (h : s.Canonical) : (s.recover f num).2.Canonical := by
  unfold Zone.recover
  extract_lets cfg len x drop
  have hdrop {z : Zone} (h : z.Canonical) : (drop z).2.Canonical := h.stat
  split
  · exact hdrop h
  · refine .iteSnd h.setRecov.stat (.iteSnd (.iteSnd (hdrop h) ?_) (.iteSnd (hdrop h.stat) (.iteSnd (.iteSnd (hdrop h) ?_) ?_)))
    · exact (Canonical.ite h h.stat).setRecov.stat
    · exact h.setRecov.stat.stat
    · exact .stat (.setRecov (.shiftHistory (List.foldlRecOn (motive := fun y : List Bool × Zone => y.2.Canonical) _ _
        (.ite h h.stat) fun _ h _ _ => h.shiftHistory)))

theorem meterRun {m len inColour} (h : s.Canonical) : (s.meterRun m len inColour).2.Canonical :=
  .iteSnd h.setMeter (.iteSnd h.setMeter (.iteSnd h.setMeter h.setMeter))

theorem streamSteps {n len colour lenient} (h : s.Canonical) : (s.streamSteps n len colour lenient).2.Canonical :=
  .iteSnd h
    (.iteSnd h.stat
       (.iteSnd
          (.ite (.setSgate (.stat (.ite h.sgateEval h))) (.stat (.ite h.sgateEval h)))
          (.iteSnd
             (.iteSnd (.stat (.stat (.meterRun (.ite h.sgateEval h)))) (.stat (.meterRun (.ite h.sgateEval h))))
             (.ite h.sgateEval h))))

theorem resolve {i f arrived stamp tsTag lenient} (h : s.Canonical) :
    (s.resolve i f arrived stamp tsTag lenient).2.Canonical := by
  unfold Zone.resolve
  extract_lets tg len pg pcp tagVid vid dei colour dest queue copy s₁ srcE streamOf stream copy' s₂ sw2 r x s₃
  have h₁ : s₁.Canonical := h.mirror
  have h₂ : s₂.Canonical := by
    dsimp only [s₂, stream]
    split
    · exact .ite h₁.stat.mirror.mirrorTo h₁.stat.mirror
    · exact h₁
  have hr : r.2.Canonical := by
    dsimp only [r]
    split
    · exact h₂.recover
    · exact h₂
  have hx : x.2.Canonical := by
    dsimp only [x, stream]
    split
    · exact hr.streamSteps
    · exact hr
  split
  · exact h.stat
  · split
    · exact hr
    · split
      · exact hx
      · dsimp only [dest]
        split
        · exact .pair (.ite hx.stat.mirrorTo hx.stat)
        · exact .iteSnd hx.stat (.pair (.iteSnd hx.sw hx))

theorem setAcfQueue {q l} (h : s.Canonical) : (s.setAcfQueue q l).Canonical := h.sw.wr

theorem acfSplit {c} (h : s.Canonical) : (s.acfSplit c).Canonical := by
  unfold Zone.acfSplit
  dsimp only
  split
  · exact h.stat
  · exact h.setAcfQueue.statBy

theorem txStamp {p c skew} (h : s.Canonical) : (s.txStamp p c skew).Canonical := by
  unfold Zone.txStamp
  dsimp only
  split
  · exact h
  · exact .ite h.tsqAppend h

theorem beginTx {p x skew} (h : s.Canonical) : (s.beginTx p x skew).Canonical := by
  unfold Zone.beginTx
  dsimp only
  split
  · exact .txStamp (.setEgress (.shape (.secOut (.ite h h.mirror))))
  · exact .settleCredit (.setEgress (.shape (.secOut (.ite h h.mirror))))

theorem cutBegin {i f} (h : s.Canonical) : (s.cutBegin i f).Canonical := by
  unfold Zone.cutBegin
  split
  · exact h
  · split
    · exact h
    · exact h.forEach fun _ _ h => .ite h.shape.setEgress h

theorem cutEnd {e good} (h : s.Canonical) : (s.cutEnd e good).Canonical := by
  unfold Zone.cutEnd
  dsimp only
  split
  · exact h.mirror.setEgress
  · exact h.setEgress.stat
  · exact h

theorem dispatch {i r} (h : s.Canonical) : (s.dispatch i r).2.Canonical :=
  List.foldlRecOn (motive := fun y : Bool × Zone => y.2.Canonical) _ _
    (List.foldlRecOn (motive := Zone.Canonical) _ _ h fun _ h _ _ => h.cutEnd) fun _ h _ _ => .iteSnd h.cutEnd h.submit

theorem receive {i f fcsOk ticks} (h : s.Canonical) : (s.receive i f fcsOk ticks).Canonical := by
  unfold Zone.receive
  dsimp only
  split
  · exact h.stat.forEach fun _ _ h => h.cutEnd
  · split
    · exact h.stat.forEach fun _ _ h => h.cutEnd
    · split
      · exact h.stat.forEach fun _ _ h => h.cutEnd
      · split
        · exact h.secIn.stat.statBy
        · split
          · exact h.secIn.stat.parts
          · split
            · exact h.secIn.stat.statBy.resolve.forEach fun _ _ h => h.cutEnd
            · exact h.secIn.stat.statBy.resolve.dispatch

/-! ### Machine/Egress -/

theorem setConn {e c} (h : s.Canonical) : (s.setConn e c).Canonical := h.sw

theorem connect {i e t} (h : s.Canonical) : (s.connect i e t).Canonical := by
  unfold Zone.connect
  dsimp only
  refine .setConn ?_
  split
  · exact h.shape.setEgress
  · exact h

theorem compactPlan {plca} (h : s.Canonical) : (s.compactPlan plca).Canonical := by
  unfold Zone.compactPlan
  refine .sw (h.forEach fun _ _ h => ?_)
  extract_lets e
  split
  · exact h
  · split
    · exact h
    · exact h.connect.sw

theorem fullIteration {plca first} (h : s.Canonical) : (s.fullIteration plca first).Canonical := by
  unfold Zone.fullIteration
  dsimp only
  refine h.forEach fun _ _ h => ?_
  split
  · exact h
  · exact .ite h.connect.sw h.connect

theorem fullPlan {plca} (h : s.Canonical) : (s.fullPlan plca).Canonical := h.forEach fun _ _ h => h.fullIteration

theorem choosePlan (h : s.Canonical) : s.choosePlan.Canonical := .ite h.setFlag.sw h

theorem dropFetch {e x} (h : s.Canonical) : (s.dropFetch e x).Canonical :=
  .showBuf (.settleCredit (.setConn (.setEgress (.shape (.ite h.setVoq h)))))

theorem endTx {e x} (h : s.Canonical) : (s.endTx e x).Canonical := h.shape.setEgress.settleCredit.stat.stat.statBy

theorem deliverTx {e x} (h : s.Canonical) : (s.deliverTx e x).Canonical := .endTx (.ite h h.mirror)

theorem avtpDrain (h : s.Canonical) : s.avtpDrain.Canonical := by
  unfold Zone.avtpDrain
  split
  · exact .ite h.deliverTx.acfSplit h
  · exact h

theorem moveCells {ecc} (h : s.Canonical) : (s.moveCells ecc).Canonical := by
  unfold Zone.moveCells
  dsimp only
  refine h.forEach fun _ _ h => ?_
  split
  · split
    · exact h.dropFetch.count.report
    · exact .ite
          (.showBuf (.setConn (.setEgress (.setVoq (.shape (.ite h.count h))))))
          (.setConn (.setEgress (.ite h.count h)))
  · exact h.setConn
  · exact h

theorem ageFetched {plca} (h : s.Canonical) : (s.ageFetched plca).Canonical := by
  unfold Zone.ageFetched
  refine h.forEach fun _ _ h => ?_
  split
  · exact h
  · split
    · exact h.forEach fun _ _ h => h.ageQueue
    · exact h

theorem crossbar {plca ecc} (h : s.Canonical) : (s.crossbar plca ecc).Canonical := by
  have h₁ : (s.choosePlan.ageFetched plca).Canonical := h.choosePlan.ageFetched
  unfold Zone.crossbar
  exact .avtpDrain (.moveCells (.ite h₁.fullPlan h₁.compactPlan))

theorem counterRead {p off} (h : s.Canonical) : (s.counterRead p off).2.Canonical := by
  unfold Zone.counterRead
  dsimp only
  split
  · exact .pair h.sw
  · split
    · exact .pair h.sw
    · exact h

theorem showLpi {p} (h : s.Canonical) : (s.showLpi p).Canonical := h.setFlag

theorem showFigures (h : s.Canonical) : s.showFigures.Canonical := h.setFld.setFlag.forEach fun _ _ h => h.showLpi

theorem showPlca {p} (h : s.Canonical) : (s.showPlca p).Canonical := .ite h.setFlag.setFld h

theorem plcaTurn {p} (h : s.Canonical) : (s.plcaTurn p).Canonical := .ite h.sw h

theorem phyUp {p speed leader eee} (h : s.Canonical) : (s.phyUp p speed leader eee).Canonical :=
  .ite h h.setFld.setFld.setFld.event.sw.showLpi.portCheck

theorem dropMasters {p} (h : s.Canonical) : (s.dropMasters p).Canonical := h.parts

theorem phyDown {p} (h : s.Canonical) : (s.phyDown p).Canonical :=
  .ite
    (.portCheck
       (.showLpi (.dropMasters (.ite h.setFld.setFld.setFld.event.count.breakRing h.setFld.setFld.setFld.event.count))))
    h

theorem showHold {p} (h : s.Canonical) : (s.showHold p).Canonical := by
  unfold Zone.showHold
  split
  · exact h.setFld
  · exact h

/-! ### Machine/Monitor -/

theorem setCore {n x} (h : s.Canonical) : (s.setCore n x).Canonical := h.parts

theorem setSafety {x} (h : s.Canonical) : (s.setSafety x).Canonical := h.parts

theorem applyDemand (h : s.Canonical) : s.applyDemand.Canonical :=
  h.setFlag.setFlag.forEach fun _ _ h => .ite h.loadDemand (.ite h.loadRelease h)

theorem setAlarm {a x} (h : s.Canonical) : (s.setAlarm a x).Canonical := h.setSafety

theorem beginSignals (h : s.Canonical) : s.beginSignals.Canonical :=
  h.forEach fun _ _ h => .ite (.ite h.setFld.setAlarm h.setFld.setAlarm.event) h

theorem showLog (h : s.Canonical) : s.showLog.Canonical := by
  unfold Zone.showLog
  exact h.setFld.setFlag.setFlag.setFld.setFld.setFld.setFld.setFld.when fun _ h => h.setFld

theorem appendLog {e} (h : s.Canonical) : (s.appendLog e).Canonical := .ite h.setSafety.showLog h.setFld.count

theorem logPop (h : s.Canonical) : s.logPop.Canonical := h.setSafety.showLog

theorem demandReset {n} (h : s.Canonical) : (s.demandReset n).Canonical := by
  unfold Zone.demandReset
  dsimp only
  split
  · exact h
  · exact h.setSafety.setFld

theorem react {n r toA toB} (h : s.Canonical) : (s.react n r toA toB).Canonical :=
  .ite h (.ite h (.beginSignals (.applyDemand (.ite h.setSafety.demandReset h.setSafety))))

theorem reactActive (h : s.Canonical) : s.reactActive.Canonical := h.forEach fun _ _ h => h.react

theorem takeReport {r toA toB} (h : s.Canonical) : (s.takeReport r toA toB).Canonical :=
  .react
    (.postValue
       (.appendLog
          (.countBy (.when (.count (.setFld (.setFldBit (.setSafety (.ite h.setSafety h))))) (fun _ h => h.count)))))

theorem clearFaultEvent {v} (h : s.Canonical) : (s.clearFaultEvent v).Canonical := h.setFld.setSafety

theorem demandRelease (h : s.Canonical) : s.demandRelease.Canonical := .ite h.count h.setSafety.applyDemand

theorem alarmTest {a} (h : s.Canonical) : (s.alarmTest a).Canonical := .ite h.count h.setAlarm.setFld.beginSignals

/-! ### Machine/HingeBase -/

theorem hingeReport {j} (h : s.Canonical) : (s.hingeReport j).Canonical := .ite h.report h

theorem hingeError {j r} (h : s.Canonical) : (s.hingeError j r).Canonical :=
  .ite h.hingeReport.setHinge.count h.hingeReport.setFld.count

theorem discardLine {j l cause} (h : s.Canonical) : (s.discardLine j l cause).Canonical :=
  .ite h.setHinge (.ite h.setHinge.count.setHinge h.setHinge.count.setFld.count)

theorem lineWritten {j a n} (h : s.Canonical) : (s.lineWritten j a n).Canonical :=
  h.forEach fun _ _ h => h.discardLine

theorem errPop {j} (h : s.Canonical) : (s.errPop j).Canonical := h.setHinge

theorem discPop {j} (h : s.Canonical) : (s.discPop j).Canonical := h.setHinge

theorem hingePost {j t} (h : s.Canonical) : (s.hingePost j t).Canonical := .hingeEnter (.ite h.lineWritten h)

theorem hingeRequest {j t} (h : s.Canonical) : (s.hingeRequest j t).Canonical := h.hingeEnter

theorem hingeAdmit {j inbound posted} (h : s.Canonical) : (s.hingeAdmit j inbound posted).Canonical := by
  unfold Zone.hingeAdmit
  dsimp only
  split
  · exact h
  · exact .ite h.setHinge.respond h.setHinge

theorem copyEnd {state code} (h : s.Canonical) : (s.copyEnd state code).Canonical := h.setFld.setFld.sendNotice

theorem copyStart {src} (h : s.Canonical) : (s.copyStart src).Canonical :=
  .ite h.count
    (.ite h.setFlag.setFld.copyEnd (.ite h.setFlag.setFld.setFld.setFld.setFldBit h.setFlag.setFld.setFld.setFld))

/-! ### Machine/Worlds -/

theorem setHart {j x} (h : s.Canonical) : (s.setHart j x).Canonical := h.parts

theorem setMemByte {a b} (h : s.Canonical) : (s.setMemByte a b).Canonical :=
  canonical_iff.1 (canonical_setMemByte s a b (canonical_iff.2 h))

theorem unreserve {a} (h : s.Canonical) : (s.unreserve a).Canonical :=
  canonical_iff.1 (canonical_unreserve s a (canonical_iff.2 h))

theorem putByte {a b} (h : s.Canonical) : (s.putByte a b).Canonical :=
  canonical_iff.1 (canonical_putByte s a b (canonical_iff.2 h))

theorem storeByte {a b} (h : s.Canonical) : (s.storeByte a b).Canonical :=
  canonical_iff.1 (canonical_storeByte s a b (canonical_iff.2 h))

theorem storeBytes {a l} (h : s.Canonical) : (s.storeBytes a l).Canonical :=
  canonical_iff.1 (canonical_storeBytes l s a (canonical_iff.2 h))

theorem memWrite {a l} (h : s.Canonical) : (s.memWrite a l).Canonical := h.storeBytes.lineWritten

theorem h0Write {src a l} (h : s.Canonical) : (s.h0Write src a l).Canonical := .ite h.hingePost h.hingeError

theorem dmaStore {src a l} (h : s.Canonical) : (s.dmaStore src a l).2.Canonical := by
  unfold Zone.dmaStore
  split
  · split
    · exact .iteSnd h.sendNotice h
    · exact h
  · exact .iteSnd h.h0Write h.memWrite

theorem openBytes {n} (h : s.Canonical) : (s.openBytes n).2.Canonical := by
  induction n generalizing s with
  | zero => exact h
  | succ n ih => exact ih h.fresh

theorem dmaLoad {a n} (h : s.Canonical) : (s.dmaLoad a n).2.Canonical := .iteSnd h.openBytes h

theorem refuse_ {c src wr a} (h : s.Canonical) : (s.refuse_ c src wr a).Canonical :=
  .ite
    (.report (.count (.ite h.setFld.setFld.setFlag.setFlag.setFld h)))
    (.count (.ite h.setFld.setFld.setFlag.setFlag.setFld h))

theorem regionCheck {src rd wr a n} (h : s.Canonical) : (s.regionCheck src rd wr a n).2.Canonical := by
  unfold Zone.regionCheck
  split
  · exact h
  · exact .iteSnd h h.refuse_

theorem setTu {t} (h : s.Canonical) : (s.setTu t).Canonical := by
  unfold Zone.setTu
  dsimp only
  split
  · exact h.parts.setFld.setFlag.setFld.setFld.setFld.setFld.setFld.setFlag.setFlag.setFld
  · exact h.parts.setFld.setFlag.setFld.wr.wr.wr

theorem tuFault {f} (h : s.Canonical) : (s.tuFault f).Canonical := .ite h.count.setTu h.count.setFld.count

theorem tuPop (h : s.Canonical) : s.tuPop.Canonical := .ite h h.setTu

theorem walkRead {a n walkUe} (h : s.Canonical) : (s.walkRead a n walkUe).2.Canonical :=
  .iteSnd h.regionCheck h.regionCheck

theorem walkFrom {src va wr walkUe fuel a lvl} (h : s.Canonical) :
    (s.walkFrom src va wr walkUe fuel a lvl).2.2.Canonical := by
  induction fuel generalizing s a lvl with
  | zero => exact h
  | succ fuel ih =>
    unfold Zone.walkFrom
    extract_lets x
    have hx : x.2.Canonical := h.walkRead
    split
    · exact hx
    · exact .iteSndSnd hx (.iteSndSnd hx (.iteSndSnd (.iteSndSnd hx (ih hx))
        (.iteSndSnd hx (.iteSndSnd hx (.iteSndSnd hx (.iteSndSnd hx hx))))))

theorem walk {src va wr walkUe} (h : s.Canonical) : (s.walk src va wr walkUe).2.2.Canonical := by
  refine Ends₂.zone ?_
  generalize hf : @Zone.walk = f
  unfold Zone.walk at hf
  subst hf
  beta_reduce
  extract_lets w x
  have hx : Ends x := (Ends.of h.walkRead :)
  split
  · exact .triple hx.zone
  · extract_lets c mode
    split
    · exact .triple hx.zone
    · split
      · exact .triple hx.zone
      · split
        · exact .triple hx.zone
        · exact (Ends₂.of hx.zone.walkFrom :)

theorem cacheAdd {e} (h : s.Canonical) : (s.cacheAdd e).Canonical := .ite h.setTu h.fresh.setTu

theorem translate {master src va wr walkUe} (h : s.Canonical) :
    (s.translate master src va wr walkUe).2.Canonical := by
  refine Ends.zone ?_
  generalize hf : @Zone.translate = f
  unfold Zone.translate at hf
  subst hf
  beta_reduce
  extract_lets hit stale y s₁ s₂ x
  have hy : Ends y := by
    dsimp only [y, hit]
    split
    · split
      · exact .pair h.fresh
      · exact .pair h
    · exact .pair h
  have hx : Ends₂ x := (Ends₂.of hy.zone.count.walk :)
  obtain ⟨x', hx'⟩ : ∃ x', x' = x := ⟨_, rfl⟩
  rw [← hx'] at hx ⊢
  split
  · exact .pair h
  · split
    · exact .pair hy.zone
    · split
      · exact .pair (.ite hx.zone hx.zone.cacheAdd)
      · exact .pair hx.zone
      · exact .pair hx.zone.tuFault

theorem dmaPieces {master src wr walkUe fuel va n} (h : s.Canonical) :
    (s.dmaPieces master src wr walkUe fuel va n).2.2.Canonical := by
  induction fuel generalizing s va n with
  | zero => exact h
  | succ fuel ih =>
    unfold Zone.dmaPieces
    split
    · exact h
    · dsimp only
      split
      · exact h.translate
      · have hx := h.translate (master := master) (src := src) (va := va) (wr := wr) (walkUe := walkUe)
        exact .iteSndSnd hx.regionCheck (.iteSndSnd hx.regionCheck (.iteSndSnd hx.regionCheck (ih hx.regionCheck)))

theorem dmaRead {master src va n} (h : s.Canonical) : (s.dmaRead master src va n).2.2.Canonical :=
  .iteSndSnd h.dmaPieces
    (List.foldlRecOn (motive := fun y : List Byte × Zone => y.2.Canonical) _ _ h.dmaPieces fun _ h _ _ => h.dmaLoad)

theorem dmaWrite {master src va l} (h : s.Canonical) : (s.dmaWrite master src va l).2.Canonical :=
  List.foldlRecOn (motive := fun y : List Byte × Nat × Zone => y.2.2.Canonical) _ _ h.dmaPieces fun _ h _ _ => h.dmaStore

theorem invalidate {kind src addr} (h : s.Canonical) : (s.invalidate kind src addr).Canonical := .ite h.count h.setTu

theorem switchWorld {j w} (h : s.Canonical) : (s.switchWorld j w).Canonical := .ite h h.setHart.count

theorem setGateState {b v} (h : s.Canonical) : (s.setGateState b v).Canonical := h.setFld

theorem gateStatus {w v} (h : s.Canonical) : (s.gateStatus w v).Canonical := h.setFld

theorem gateReq {w block action} (h : s.Canonical) : (s.gateReq w block action).Canonical :=
  .ite h.gateStatus (.ite h.gateStatus.count (.ite h.gateStatus (.ite h.gateStatus h.gateStatus.setGateState.parts)))

theorem gateDone {block} (h : s.Canonical) : (s.gateDone block).Canonical := by
  unfold Zone.gateDone
  dsimp only
  split
  · exact h
  · exact h.setGateState.parts

theorem secureHoldWrite {w mask set} (h : s.Canonical) : (s.secureHoldWrite w mask set).Canonical :=
  .ite h.count h.setFld

/-! ### Machine/Rings -/

theorem setRing {c r} (h : s.Canonical) : (s.setRing c r).Canonical := h.parts

theorem showRingHead {c} (h : s.Canonical) : (s.showRingHead c).Canonical :=
  .ite (h.wr.wr.forEach (fun _ _ h => h.wr)) (.ite h.wr.wr.wr (h.wr.forEach (fun _ _ h => h.wr)))

theorem ringLose {c} (h : s.Canonical) : (s.ringLose c).Canonical := h.count.event

theorem ringStore {c} {mk : ℕ → List Sys2Proof.Byte} (h : s.Canonical) : (s.ringStore c mk).Canonical :=
  .ite h.count
    (.ite h.ringLose (.ite (.ite h.dmaWrite.ringLose h.dmaWrite.setRing.setFld) h.setRing.setFld.showRingHead))

theorem ringEmpty {c} (h : s.Canonical) : (s.ringEmpty c).Canonical := h.setRing.setFld.setFld.showRingHead

theorem rxAck {c w v} (h : s.Canonical) : (s.rxAck c w v).Canonical :=
  .ite h.setFld.setFld.showRingHead (.ite h.count h)

theorem busByte {a} (h : s.Canonical) : (s.busByte a).2.Canonical := by
  unfold Zone.busByte
  split
  · exact h
  · exact h.fresh

theorem busBytes {a n} (h : s.Canonical) : (s.busBytes a n).2.Canonical := by
  induction n generalizing s a with
  | zero => exact h
  | succ n ih => exact ih h.busByte

theorem busWrite {a l} (h : s.Canonical) : (s.busWrite a l).Canonical := by
  induction l generalizing s a with
  | nil => exact h
  | cons b r ih => exact ih (h.parts)

/-! ### Machine/Can -/

theorem setCan {c x} (h : s.Canonical) : (s.setCan c x).Canonical := h.parts.setFld.setFlag

theorem canFail {c r cause field dup} (h : s.Canonical) : (s.canFail c r cause field dup).Canonical := by
  unfold Zone.canFail
  dsimp only
  split
  · exact h.count.setFld.completeFail
  · exact h

theorem canAbort {c} (h : s.Canonical) : (s.canAbort c).2.Canonical :=
  .pair (h.setCan.forEach (fun _ _ h => h.completeAbort))

theorem canNotAlone {c} (h : s.Canonical) : (s.canNotAlone c).Canonical := h.setCan.setFld

theorem canEnterBusOff {c} (h : s.Canonical) : (s.canEnterBusOff c).Canonical :=
  h.setFld.event.count.setCan.forEach fun _ _ h => h.canFail

theorem canErrors {c tec rec_} (h : s.Canonical) : (s.canErrors c tec rec_).Canonical :=
  .ite h.setFld.setFld
    (.ite h.setFld.setFld.canEnterBusOff
       (.ite (h.setFld.setFld.setFld.when (fun _ h => h.event)) h.setFld.setFld.setFld))

theorem canActive {c} (h : s.Canonical) : (s.canActive c).Canonical :=
  h.setFld.setFld.setFld.setCan.forEach fun _ _ h => h.completeOk

theorem canReceived {c} (h : s.Canonical) : (s.canReceived c).Canonical := .ite h.fresh.canErrors h.canErrors

theorem canReceive {c f ticks} (h : s.Canonical) : (s.canReceive c f ticks).Canonical :=
  .ite h
    (.ite h.count
       (.ite h.canReceived.canNotAlone.heardBus.count
          (.ite h.canReceived.canNotAlone.heardBus.count.event h.canReceived.canNotAlone.heardBus.ringStore)))

theorem canSource {c compose b} (h : s.Canonical) : (s.canSource c compose b).2.Canonical := h.busBytes

theorem txStart {c r variant arg} (h : s.Canonical) : (s.txStart c r variant arg).Canonical :=
  .ite h.canFail
    (.ite h.canFail
       (.ite h.canFail (.ite h.canFail (.ite h.canSource.canFail (.ite h.canSource.canFail h.canSource.setCan)))))

theorem canArbitrate {c} (h : s.Canonical) : (s.canArbitrate c).Canonical := by
  unfold Zone.canArbitrate
  dsimp only
  split
  · exact h
  · split
    · exact h
    · exact h.setCan

theorem canEnd {c e} (h : s.Canonical) : (s.canEnd c e).Canonical := by
  unfold Zone.canEnd
  dsimp only
  split
  · exact h
  · split
    · split
      · exact h.setCan.canErrors.canNotAlone
      · split
        · exact h.setCan.canErrors.canNotAlone.count.setFld.setFld.completeOk
        · exact h.setCan.canErrors.canNotAlone.count.setFld.setFld
    · exact .ite h.setCan.setCan h.setCan.canFail
    · exact .canErrors
          (.canFail
             (.ite
                (.ite
                   (h.setCan.when (fun _ h => h.event.count)).count.setCan.setFld.event
                   (h.setCan.when (fun _ h => h.event.count)).count.setCan)
                (.ite
                   (h.setCan.when (fun _ h => h.event.count)).canNotAlone
                   (h.setCan.when (fun _ h => h.event.count)))))

theorem canExpire {c} (h : s.Canonical) : (s.canExpire c).Canonical := h.setCan.forEach fun _ _ h => h.canFail

theorem tmReference {c idle} (h : s.Canonical) : (s.tmReference c idle).Canonical :=
  .ite h (.ite h.setCan.setCan.count h.setCan.count.event)

theorem chanCfgWrite {c v} (h : s.Canonical) : (s.chanCfgWrite c v).Canonical :=
  .ite h.wr.canNotAlone (.ite h.wr.canActive h.wr)

theorem canTimingWrite {c off v} (h : s.Canonical) : (s.canTimingWrite c off v).Canonical := .ite h.event h.wr

theorem canOp {c r} {f : Zone → Zone} (h : s.Canonical) (hf : ∀ z, z.Canonical → (f z).Canonical) :
    (s.canOp c r f).Canonical :=
  .ite h.complete (hf _ h)

theorem opTxStart {c r variant arg} (h : s.Canonical) : (s.opTxStart c r variant arg).Canonical :=
  h.canOp fun _ h => h.txStart

theorem opRecover {c r} (h : s.Canonical) : (s.opRecover c r).Canonical :=
  h.canOp fun _ h => .ite h.completeFail h.setCan

theorem opAbortPending {c r} (h : s.Canonical) : (s.opAbortPending c r).Canonical :=
  h.canOp fun _ h => h.canAbort.completeOk

/-! ### Machine/Keyring -/

theorem setPageByte {p off b} (h : s.Canonical) : (s.setPageByte p off b).Canonical := h.wr

theorem setPageBytes {p off l} (h : s.Canonical) : (s.setPageBytes p off l).Canonical := by
  induction l generalizing s off with
  | nil => exact h
  | cons b r ih => exact ih h.setPageByte

theorem freshBytes {n} (h : s.Canonical) : (s.freshBytes n).2.Canonical := by
  induction n generalizing s with
  | zero => exact h
  | succ n ih => exact ih h.fresh

theorem showSlot {n k} (h : s.Canonical) : (s.showSlot n k).Canonical :=
  .setPageBytes (.setFld (.setFld (.setFld (.setFld (.setFld (.setFld (.setFld (.ite h h.setFld.setFld.setFld))))))))

theorem setKeyring {f : KeyringSt → KeyringSt} (h : s.Canonical) : (s.setKeyring f).Canonical := h.parts

theorem setKeySlot {n k} (h : s.Canonical) : (s.setKeySlot n k).Canonical :=
  .ite h.setKeyring.showSlot.setFld.setFlag h.setKeyring.showSlot.setFld

theorem showEngine (h : s.Canonical) : s.showEngine.Canonical := h.setFlag.setFld

theorem writeRecord (h : s.Canonical) : s.writeRecord.Canonical := h.setKeyring.setFld

theorem endJob {j code} (h : s.Canonical) : (s.endJob j code).Canonical :=
  .ite h.setFld.setFld.count.count h.setFld.setFld.count

theorem opWrite {n src word} (h : s.Canonical) : (s.opWrite n src word).Canonical :=
  .ite h.parts (.ite h.count (.ite h.endJob (.ite h.endJob h.parts.setFld.showEngine)))

theorem endJobs {p : Job → Bool} {code} (h : s.Canonical) : (s.endJobs p code).Canonical :=
  (h.setKeyring.forEach (fun _ _ h => h.endJob)).showEngine

theorem jobRun {j} (h : s.Canonical) : (s.jobRun j).2.Canonical := by
  unfold Zone.jobRun
  dsimp only
  split
  · exact h
  · exact .iteSnd h h
  · exact h
  · exact h
  · exact h
  · exact h
  · exact .iteSnd h.setKeyring (.iteSnd h.setKeyring h.freshBytes.setKeyring)
  · exact h
  · exact h
  · exact h
  · exact h.freshBytes
  · exact h
  · exact h
  · exact h

theorem countUse {j} (h : s.Canonical) : (s.countUse j).2.Canonical := by
  unfold Zone.countUse
  dsimp only
  split
  · exact h
  · exact .iteSnd h.setKeySlot.setKeyring h.setKeySlot

theorem jobBegin (h : s.Canonical) : s.jobBegin.Canonical := by
  unfold Zone.jobBegin
  dsimp only
  split
  · exact h
  · split
    · exact h
    · exact .ite
          (.showEngine
             (.endJob
                (.ite
                   (.ite h.setKeyring.setFldBit h.setKeyring)
                   (.setKeyring (.ite h.setKeyring.setFldBit h.setKeyring)))))
          (.showEngine
             (.setKeyring
                (.countUse
                   (.jobRun
                      (.ite
                         (.ite h.setKeyring.setFldBit h.setKeyring)
                         (.setKeyring (.ite h.setKeyring.setFldBit h.setKeyring)))))))

theorem commitChange (h : s.Canonical) : s.commitChange.Canonical := by
  unfold Zone.commitChange
  split
  · exact h
  · split
    · exact h
    · exact h.setKeySlot.setKeyring

theorem recordWrite (h : s.Canonical) : s.recordWrite.Canonical := by
  unfold Zone.recordWrite
  dsimp only
  split
  · exact h
  · refine .writeRecord ?_
    split
    · exact .ite h.commitChange.setKeyring h
    · exact h

theorem jobComplete (h : s.Canonical) : s.jobComplete.Canonical := by
  unfold Zone.jobComplete
  split
  · exact h
  · refine .ite h ?_
    extract_lets n test s₁ s₂ s₃ s₄ s₅
    have h₂ : s₂.Canonical := (Canonical.ite h h.commitChange : s₁.Canonical).setKeyring
    have h₃ : s₃.Canonical := by
      dsimp only [s₃]
      split
      · exact h₂.setPageBytes
      · exact h₂
    have h₄ : s₄.Canonical := by
      dsimp only [s₄]
      split
      · exact h₃.setPageBytes
      · exact h₃
    exact .showEngine (.endJob (.ite h₂ h₄.setFld))

theorem rollSet {set} (h : s.Canonical) : (s.rollSet set).2.2.Canonical :=
  List.foldlRecOn (motive := fun x : Nat × Nat × Zone => x.2.2.Canonical) _ _ h fun _ h _ _ =>
    .iteSndSnd h (.iteSndSnd h.setKeySlot.setKeyring.count h.count)

theorem restoreKeys {good} (h : s.Canonical) : (s.restoreKeys good).Canonical := by
  unfold Zone.restoreKeys
  dsimp only
  split
  · exact h.parts.setFld
  · exact .ite (h.parts.forEach (fun _ _ h => h.setKeySlot)).setFld h.parts.setFld

theorem deriveKeys (h : s.Canonical) : s.deriveKeys.Canonical :=
  .ite h.setFld.setPageBytes.parts h.setFld.setPageBytes.parts.setPageBytes.setPageBytes

theorem expireKeys (h : s.Canonical) : s.expireKeys.Canonical := by
  unfold Zone.expireKeys
  exact (h.forEach fun _ _ h => h.setKeySlot).setKeyring

theorem saInstall {p n sci an slot nextPn} (h : s.Canonical) : (s.saInstall p n sci an slot nextPn).Canonical :=
  .ite h.setSecA h.event

/-! ### Machine/Log -/

theorem stageFull (h : s.Canonical) : s.stageFull.Canonical := h.setFld.event

theorem appendRecord {n kind time source payload} (h : s.Canonical) :
    (s.appendRecord n kind time source payload).Canonical :=
  h.setStream.setNextSeq

theorem takeRecord {n kind time source payload} (h : s.Canonical) :
    (s.takeRecord n kind time source payload).Canonical :=
  .appendRecord (.ite h h.appendRecord.setStream)

theorem frameIntake (h : s.Canonical) : s.frameIntake.Canonical := by
  unfold Zone.frameIntake
  dsimp only
  split
  · exact h
  · exact .ite h (.ite h.deliverTx.count (.ite h.deliverTx.setFld.takeRecord h.stageFull))

theorem postCommit {n src len} (h : s.Canonical) : (s.postCommit n src len).Canonical :=
  .ite h.count h.setStream.setFld

theorem postTaken {n} (h : s.Canonical) : (s.postTaken n).Canonical := by
  unfold Zone.postTaken
  dsimp only
  split
  · exact h
  · exact .ite h.setStream.setFld.setFld.setFld.takeRecord
        (h.setStream.setFld.setFld.count.when (fun _ h => h.stageFull))

theorem moduleRecord (h : s.Canonical) : s.moduleRecord.Canonical := by
  unfold Zone.moduleRecord
  dsimp only
  split
  · exact h
  · split
    · exact h
    · split
      · exact h.parts.loseRecord
      · exact .ite (.takeRecord (.ite h.parts h.parts.takeRecord.parts)) h.parts.loseRecord.stageFull

theorem markStreams {op kind cause} (h : s.Canonical) : (s.markStreams op kind cause).Canonical :=
  h.forEach fun _ _ h => .ite h h.takeRecord.setStream

theorem snapshot {op} (h : s.Canonical) : (s.snapshot op).Canonical := .ite h.markStreams.event h

theorem setExtent {k a b active} (h : s.Canonical) : (s.setExtent k a b active).Canonical :=
  h.wr.wr.wr.wr.wr.setFldBit

theorem freeze {before} (h : s.Canonical) : (s.freeze before).2.Canonical := by
  unfold Zone.freeze
  split
  · exact h
  · split
    · exact h
    · exact .pair h.markStreams.setExtent.event

theorem freezeRelease {mask} (h : s.Canonical) : (s.freezeRelease mask).Canonical :=
  .ite (h.forEach (fun _ _ h => h.setExtent)) (h.forEach (fun _ _ h => h.setExtent)).setFld

theorem storeError (h : s.Canonical) : s.storeError.Canonical := h.setFld.event

theorem logLinkDown (h : s.Canonical) : s.logLinkDown.Canonical := .ite h h.parts.setFld.storeError

theorem doorbellWrite {a v} (h : s.Canonical) : (s.doorbellWrite a v).Canonical :=
  .ite h.dmaWrite h.dmaWrite.logLinkDown

theorem nvmeCommand {id lba blocks fua} (h : s.Canonical) : (s.nvmeCommand id lba blocks fua).2.Canonical :=
  h.freshBytes

theorem setSealed {k x} (h : s.Canonical) : (s.setSealed k x).Canonical := h.parts

theorem placeSegment {k x} (h : s.Canonical) : (s.placeSegment k x).Canonical := by
  unfold Zone.placeSegment
  dsimp only
  split
  · exact h.setFld.event
  · exact h.parts.setSealed.setFld

theorem issueWrite {k x a} (h : s.Canonical) : (s.issueWrite k x a).Canonical :=
  h.nvmeCommand.dmaWrite.setSealed.parts.doorbellWrite

theorem storeStep (h : s.Canonical) : s.storeStep.Canonical := by
  unfold Zone.storeStep
  split
  · exact h
  · split
    · exact h
    · split
      · exact h
      · split
        · exact h.placeSegment
        · exact .ite h.issueWrite h

theorem nvmeSubmit (h : s.Canonical) : s.nvmeSubmit.Canonical := h.forEach fun _ _ h => h.storeStep

theorem segmentStored {c} (h : s.Canonical) : (s.segmentStored c).Canonical := by
  unfold Zone.segmentStored
  dsimp only
  split
  · exact h
  · exact .ite h.parts.count h

theorem nvmeCompletion {id status} (h : s.Canonical) : (s.nvmeCompletion id status).Canonical := by
  unfold Zone.nvmeCompletion
  dsimp only
  split
  · exact h
  · exact .ite h.parts.doorbellWrite.segmentStored h.parts.doorbellWrite.parts.setFld.setFld.storeError

theorem storeResume (h : s.Canonical) : s.storeResume.Canonical := .ite h.parts.setFld h

/-! ### Machine/Lin -/

theorem setLin {c x} (h : s.Canonical) : (s.setLin c x).Canonical := h.parts

theorem linRefresh {c} (h : s.Canonical) : (s.linRefresh c).Canonical := by
  unfold Zone.linRefresh
  dsimp only
  split
  · exact .ite h.setLin h
  · exact h

theorem linFail {c j cause bytes check data} (h : s.Canonical) :
    (s.linFail c j cause bytes check data).Canonical := by
  unfold Zone.linFail
  dsimp only
  split
  · exact .completeFail (.ite h.setLin.event.count h.setLin.event.count.ringStore)
  · exact .ite h.setLin.event.count h.setLin.event.count.ringStore

theorem linOk {c j check data} (h : s.Canonical) : (s.linOk c j check data).Canonical := by
  unfold Zone.linOk
  dsimp only
  split
  · exact .completeOk (.ite h.setLin.count.ringStore h.setLin.count)
  · exact .ite h.setLin.count.ringStore h.setLin.count

theorem linEnd {c j e} (h : s.Canonical) : (s.linEnd c j e).Canonical := by
  unfold Zone.linEnd
  dsimp only
  split
  · exact h
  · split
    · exact h.linFail
    · exact h.linFail
    · split
      · exact h.linOk
      · exact .ite h (.ite h.linOk h.linFail)
      · exact h.linOk

theorem linCfgWrite {c v} (h : s.Canonical) : (s.linCfgWrite c v).Canonical := h.wr

theorem opLinHeader {c r i idle} (h : s.Canonical) : (s.opLinHeader c r i idle).Canonical := by
  unfold Zone.opLinHeader
  dsimp only
  split
  · exact .ite h.completeFail h.completeFail
  · exact .ite h.completeFail (.ite h.completeFail h.setFld.setFld.setLin)

theorem opLinWakeup {c r idle} (h : s.Canonical) : (s.opLinWakeup c r idle).Canonical := by
  unfold Zone.opLinWakeup
  dsimp only
  split
  · exact h.completeFail
  · exact h.setLin

/-! ### Machine/Serial -/

theorem setSer {n x} (h : s.Canonical) : (s.setSer n x).Canonical := h.parts.setFld.setFlag

theorem serBuffer {n k} (h : s.Canonical) : (s.serBuffer n k).2.2.Canonical := h.busBytes.busBytes

theorem serSend {n k r} (h : s.Canonical) : (s.serSend n k r).Canonical :=
  .ite h.completeFail (.ite h.serBuffer.completeFail (.ite h.serBuffer.completeFail h.serBuffer.setSer))

theorem serAbort {n r} (h : s.Canonical) : (s.serAbort n r).Canonical :=
  (h.setSer.forEach (fun _ _ h => h.completeAbort)).completeOk

theorem serStore {n cont} (h : s.Canonical) : (s.serStore n cont).Canonical := .ite h h.setSer.ringStore

theorem serReadBack {n t v framingBad} (h : s.Canonical) : (s.serReadBack n t v framingBad).Canonical :=
  .ite h h.setSer

theorem serReceive {n v parityBad framingBad heldTicks} (h : s.Canonical) :
    (s.serReceive n v parityBad framingBad heldTicks).Canonical :=
  .ite
    (.serStore
       (.setSer
          (.ite
             (((h.when (fun _ h => h.count)).when (fun _ h => h.count)).when (fun _ h => h.event)).serStore
             (((h.when (fun _ h => h.count)).when (fun _ h => h.count)).when (fun _ h => h.event)))))
    (.setSer
       (.ite
          (((h.when (fun _ h => h.count)).when (fun _ h => h.count)).when (fun _ h => h.event)).serStore
          (((h.when (fun _ h => h.count)).when (fun _ h => h.count)).when (fun _ h => h.event))))

theorem serCfgWrite {n v} (h : s.Canonical) : (s.serCfgWrite n v).Canonical := h.wr

theorem serTimingWrite {n v} (h : s.Canonical) : (s.serTimingWrite n v).Canonical := h.wr

/-! ### Machine/HostPorts -/

theorem setRingHead {q kind v} (h : s.Canonical) : (s.setRingHead q kind v).Canonical := h.sw

theorem setRingTail {q kind v} (h : s.Canonical) : (s.setRingTail q kind v).Canonical := h.sw

theorem nextDesc {q kind} (h : s.Canonical) : (s.nextDesc q kind).2.Canonical := by
  unfold Zone.nextDesc
  dsimp only
  split
  · exact h
  · split
    · exact h.dmaRead
    · exact h.dmaRead

theorem returnDesc {q kind len flags tag} (h : s.Canonical) : (s.returnDesc q kind len flags tag).Canonical :=
  h.dmaWrite.setRingHead

theorem inject {i f tsTag} (h : s.Canonical) : (s.inject i f tsTag).2.Canonical := by
  unfold Zone.inject
  dsimp only
  split
  · exact .pair h.stat
  · split
    · exact h.stat.statBy.resolve
    · exact .iteSnd h.stat.statBy.resolve.dispatch h

theorem txFetch {q} (h : s.Canonical) : (s.txFetch q).Canonical := by
  unfold Zone.txFetch
  extract_lets p x
  have hx : x.2.Canonical := h.nextDesc
  refine .ite h ?_
  split
  · exact hx
  · extract_lets done y
    have hy : y.2.2.Canonical := hx.dmaRead
    have hdone {z : Zone} {b} (h : z.Canonical) : (done z b).Canonical := h.returnDesc
    refine .ite (hdone hx.stat) (.ite (hdone hx.stat) ?_)
    split
    · exact hdone hy
    · extract_lets f z
      have hz : z.2.Canonical := hy.inject
      refine .ite (hdone hy.stat) ?_
      split
      · exact hz
      · exact hdone hz

theorem rxWrite {q f flags tag fuel} (h : s.Canonical) : (s.rxWrite q f flags tag fuel).2.Canonical := by
  induction fuel generalizing s with
  | zero => exact h
  | succ fuel ih =>
    unfold Zone.rxWrite
    dsimp only
    split
    · exact h.nextDesc
    · exact .iteSnd (ih h.nextDesc.returnDesc) h.nextDesc.dmaWrite.returnDesc

theorem rxDeliver {e} (h : s.Canonical) : (s.rxDeliver e).Canonical := by
  unfold Zone.rxDeliver
  split
  · exact h
  · extract_lets own q mismatch f flags tag y
    have hmismatch {z : Zone} (h : z.Canonical) : (mismatch z).Canonical := .ite h h.stat
    have hy : y.2.Canonical := h.rxWrite
    refine .ite h (.ite (hmismatch h.shape.setEgress.settleCredit).count ?_)
    split
    · exact hy
    · exact (hmismatch hy.deliverTx).when fun _ h => h.count

theorem doorbell {port src q kind tail} (h : s.Canonical) : (s.doorbell port src q kind tail).Canonical :=
  .ite h.setRingTail h.stat

theorem ringCfgWrite {src q v} (h : s.Canonical) : (s.ringCfgWrite src q v).Canonical :=
  .ite h.count
    (.ite (.ite h.count h.setFld.setFld) (.ite h.count (.ite h.setFld.setFld.setFld.setFld h.setFld.setFld)))

theorem acfSend {r arg} (h : s.Canonical) : (s.acfSend r arg).Canonical := by
  unfold Zone.acfSend
  dsimp only
  split
  · exact h.completeFail
  · split
    · exact h.completeFail
    · split
      · exact h.completeFail
      · split
        · exact h.completeFail
        · exact h.inject.sw.completeOk

theorem acfTake {r arg} (h : s.Canonical) : (s.acfTake r arg).Canonical := by
  unfold Zone.acfTake
  dsimp only
  split
  · exact h.completeFail
  · exact .ite h.fresh.completeFail h.busWrite.setAcfQueue.avtpDrain.completeOk

/-! ### Machine/Grants -/

theorem returnAll {q kind} (h : s.Canonical) : (s.returnAll q kind).Canonical := by
  refine h.forEach fun z _ h => ?_
  have hd := h.nextDesc (q := q) (kind := kind)
  split
  · rename_i heq
    rw [heq] at hd
    exact .ite hd.returnDesc hd.returnDesc
  · rename_i heq
    rw [heq] at hd
    exact hd

theorem quiesce {g} (h : s.Canonical) : (s.quiesce g).Canonical := by
  unfold Zone.quiesce
  dsimp only
  split
  · exact h.parts.setFld.setFld.setFld
  · exact h.parts.setFld.setFld.parts.endJobs.parts.showEngine
  · exact h.parts.setFld.setFld

theorem ownerWord {k o} (h : s.Canonical) : (s.ownerWord k o).Canonical := h.wr

theorem reassignPair {q args} (h : s.Canonical) : (s.reassignPair q args).Canonical :=
  h.returnAll.returnAll.wr.setFld.setFld.setFld.forEach (fun _ _ h => h.wr)
    |>.setFld.setFld.setFld.forEach (fun _ _ h => h.setRingHead.setRingTail)

theorem reassignBus {c args} (h : s.Canonical) : (s.reassignBus c args).Canonical :=
  .ringEmpty (.parts (.ite h.setFld.setFld.setFld.setFld.setFld.setFld h.setFld.setFld.setFld.setFld.setFld))

theorem reassignSlot {n o} (h : s.Canonical) : (s.reassignSlot n o).Canonical :=
  .ite h.setKeySlot.setKeyring h.setKeySlot

theorem reassign {g} (h : s.Canonical) : (s.reassign g).Canonical := by
  unfold Zone.reassign
  dsimp only
  split
  · exact h.reassignPair
  · exact h.reassignBus
  · exact h.ownerWord
  · exact h.reassignSlot
  · exact .ite h.ownerWord.takeRecord h.ownerWord

theorem grantEnd {g code} (h : s.Canonical) : (s.grantEnd g code).Canonical := by
  unfold Zone.grantEnd
  dsimp only
  split
  · exact .answer (.ite h.parts.setFld.setFld.count.postValue h.parts.setFld.setFld.count)
  · exact .setFld (.ite h.parts.setFld.setFld.count.postValue h.parts.setFld.setFld.count)

theorem quiesceEnd (h : s.Canonical) : s.quiesceEnd.Canonical := by
  unfold Zone.quiesceEnd
  split
  · exact h
  · exact .ite h.reassign.grantEnd h

theorem grantTimeout (h : s.Canonical) : s.grantTimeout.Canonical := by
  unfold Zone.grantTimeout
  dsimp only
  split
  · exact h
  · split
    · exact h
    · refine .grantEnd ?_
      split
      · exact h.wr
      · exact h.setFld.ringEmpty
      · exact h.ownerWord
      · exact h.setKeySlot
      · exact h.ownerWord

theorem fwGrantStart (h : s.Canonical) : s.fwGrantStart.Canonical := .ite h.setFld (.ite h.setFld h.quiesce)

theorem fwGrant {src args mode} (h : s.Canonical) : (s.fwGrant src args mode).Canonical :=
  .ite h.setPageBytes.fwGrantStart h.refuse_

/-! ### Machine/Secure -/

theorem secureReset (h : s.Canonical) : s.secureReset.Canonical :=
  .parts
    (.setFld
       (.ite
          (h.setFld.count.post.report.forEach (fun _ _ h => .ite h.setHart h)).endJobs.copyEnd
          (h.setFld.count.post.report.forEach (fun _ _ h => .ite h.setHart h)).endJobs))

theorem swdtKick {src} (h : s.Canonical) : (s.swdtKick src).Canonical := .ite h.parts h

theorem secureReady {src} (h : s.Canonical) : (s.secureReady src).Canonical := .ite h.setFld.setFld.parts h

theorem swdtExpiry (h : s.Canonical) : s.swdtExpiry.Canonical := .ite h.secureReset h

theorem readyTimeout (h : s.Canonical) : s.readyTimeout.Canonical := by
  unfold Zone.readyTimeout
  dsimp only
  split
  · exact h
  · exact .ite h (.ite h.setFld.secureReset h.setFld.setFld.report.parts)

theorem ecallAbsent {j} (h : s.Canonical) : (s.ecallAbsent j).Canonical := .ite h.setHart.count h

/-! ### Machine/Tables -/

theorem showTables {k} (h : s.Canonical) : (s.showTables k).Canonical := by
  unfold Zone.showTables
  dsimp only
  split
  · refine .setFld ?_
    refine .setFld ?_
    split
    · exact h.setFld.setFld
    · exact h.setFld.setFld
  · refine .setFld ?_
    refine .setFld ?_
    split
    · exact h.setFld.setFld
    · exact h.setFld.setFld

theorem setResState {k v} (h : s.Canonical) : (s.setResState k v).Canonical := h.setFld

theorem loadHalf {k t} (h : s.Canonical) : (s.loadHalf k t).Canonical := h.setKeeper.setResState.showTables

theorem freeTickets {k} (h : s.Canonical) : (s.freeTickets k).Canonical := h.countBy.parts.setFld

theorem beginTable {k} (h : s.Canonical) : (s.beginTable k).Canonical := by
  unfold Zone.beginTable
  dsimp only
  split
  · exact h
  · exact h.freeTickets.setKeeper.setResState.showTables.setFld

theorem settleQueues {old} (h : s.Canonical) : (s.settleQueues old).Canonical := by
  unfold Zone.settleQueues
  split
  · exact h.rebind.joinQueues
  · exact h

theorem setLoadResult {k w} (h : s.Canonical) : (s.setLoadResult k w).Canonical := h.setFld.setFld

theorem answerLoad {seq a b} (h : s.Canonical) : (s.answerLoad seq a b).Canonical :=
  h.setLoadResult.setLoadResult.answer

theorem loadDone {c a b} (h : s.Canonical) : (s.loadDone c a b).Canonical :=
  .ite h.parts.answerLoad.loadHalf.loadHalf.parts h.parts.answerLoad

theorem loaderVerdict {k} (h : s.Canonical) : (s.loaderVerdict k).Canonical := by
  unfold Zone.loaderVerdict
  dsimp only
  split
  · exact h
  · split
    · exact h.parts.loadDone
    · exact h.parts.setLoadResult

/-! ### Machine/Start -/

theorem setStart {f : StartSt → StartSt} (h : s.Canonical) : (s.setStart f).Canonical := h.parts

theorem setPhase {v} (h : s.Canonical) : (s.setPhase v).Canonical := h.setFld

theorem showFailed (h : s.Canonical) : s.showFailed.Canonical := h.setFld

theorem showRecords (h : s.Canonical) : s.showRecords.Canonical :=
  (h.forEach (fun _ _ h => h.setPageBytes)).showFailed

theorem addStartRecord {reason detail counted} (h : s.Canonical) :
    (s.addStartRecord reason detail counted).Canonical :=
  h.setStart.setFld.setFld.setFld.showRecords

theorem clearCounts (h : s.Canonical) : s.clearCounts.Canonical := h.setStart.showRecords

theorem setState {m cause} (h : s.Canonical) : (s.setState m cause).Canonical := h.setFld.setFld.setFld.setFld

theorem abortCommands {toOff} (h : s.Canonical) : (s.abortCommands toOff).Canonical :=
  (h.forEach (fun _ _ h => h.send)).parts

theorem loseDram (h : s.Canonical) : s.loseDram.Canonical :=
  canonical_iff.1 (canonical_loseDram s (canonical_iff.2 h))

theorem startTime {old m} (h : s.Canonical) : (s.startTime old m).Canonical := by
  unfold Zone.startTime
  dsimp only
  split
  · exact h.parts
  · exact .ite h.parts h.parts.setTState
  · exact .ite h.parts h.parts.setTState.setInc.setFldS

theorem startShown {old} (h : s.Canonical) : (s.startShown old).Canonical :=
  .forEach
    (.setFld
       (.setFld
          (.wr
             (.setFld
                (.ite
                   (h.forEach (fun _ _ h => h.when fun _ h => h.setFld)
                      |>.forEach (fun _ _ h => h.when fun _ h => h.setFld)
                      |>.setFlag)
                   (h.forEach (fun _ _ h => h.when fun _ h => h.setFld)
                      |>.forEach (fun _ _ h => h.when fun _ h => h.setFld)
                      |>.setFlag.setFld))))))
    (fun _ _ h => h.fresh.wr)

theorem enterStart {cause maint} (h : s.Canonical) : (s.enterStart cause maint).Canonical := by
  have hm := h.abortCommands (toOff := decide (s.mode = .off))
  unfold Zone.enterStart
  refine .showRecords (.setFlag (.wr (.wr (.when (.ite ?_ (.forEach ?_ fun _ _ h => h.forEach fun _ _ h => h.discardLine))
    fun _ h => h.wr))))
  all_goals
    refine .when (.judgeSupply (.calStart (.startShown (.startTime (.setFld (.setState ?_)))))) fun _ h => h.loseDram
    exact ⟨SMap.wf_keep _ _ _ hm.regs, hm.mem⟩

theorem wakePorts (h : s.Canonical) : s.wakePorts.Canonical := h.parts

theorem loadHealthy {t} (h : s.Canonical) : (s.loadHealthy t).Canonical :=
  (h.forEach (fun _ _ h => h.when fun _ h => h.loadHalf)).parts

theorem loadLightship {l} (h : s.Canonical) : (s.loadLightship l).Canonical := h.setFld.setFld.setStart.loadHealthy

theorem settleLightship (h : s.Canonical) : s.settleLightship.Canonical := by
  unfold Zone.settleLightship
  dsimp only
  split
  · exact h
  · split
    · exact h.parts
    · split
      · exact h
      · split
        · exact h.loadLightship
        · exact h.fresh.fresh.setFld.loadHealthy

theorem sendReport (h : s.Canonical) : s.sendReport.Canonical := by
  unfold Zone.sendReport
  dsimp only
  split
  · exact h.setStart
  · exact .ite h.setStart h.setStart.setCan.setStart

theorem reporterTakes (h : s.Canonical) : s.reporterTakes.Canonical := by
  have hc := h.canAbort (c := 0)
  unfold Zone.reporterTakes
  refine .setFld ?_
  exact ⟨SMap.wf_keep resetWord (fun k => decide (keyPage k ≠ pCAN 0 ∨ keyOff k = 0x0FC)) _ hc.regs, hc.mem⟩

theorem firstEntry (h : s.Canonical) : s.firstEntry.Canonical := h.parts.reactActive.beginSignals

theorem bootKeys {good} (h : s.Canonical) : (s.bootKeys good).Canonical := h.restoreKeys.deriveKeys.parts

theorem enterLightship (h : s.Canonical) : s.enterLightship.Canonical :=
  h.abortCommands.setState.when (fun _ h => h.bootKeys)
    |>.settleLightship.parts.setFld.loseDram.reporterTakes.sendReport.notice.firstEntry

theorem startFail {reason detail} (h : s.Canonical) : (s.startFail reason detail).Canonical :=
  .ite h (.ite h.addStartRecord.enterLightship h.addStartRecord.enterStart)

theorem orderlyReset {detail} (h : s.Canonical) : (s.orderlyReset detail).Canonical :=
  h.forceOpenAll.addStartRecord.setRole.setRole.abortCommands.gensOff.parts.setFld.setFld.setFld

/-! ### Machine/Boot -/

theorem showBist (h : s.Canonical) : s.showBist.Canonical := h.setFld.setFld.setFlag

theorem bistResult {b status kind rows cols fail} (h : s.Canonical) :
    (s.bistResult b status kind rows cols fail).Canonical := by
  unfold Zone.bistResult
  extract_lets w
  have hw {z : Zone} {i v} (h : z.Canonical) : (w z i v).Canonical := h.wr
  split
  refine .showBist ?_
  split
  · exact hw (hw (hw (hw h)))
  · exact hw (hw (hw (hw h)))

theorem memoryBist {b runs} (h : s.Canonical) : (s.memoryBist b runs).2.Canonical := by
  unfold Zone.memoryBist
  dsimp only
  split
  · exact .pair h.setFld.setFld.bistResult
  · exact .pair h.setFld.setFld.bistResult

theorem logicBist {b failure} (h : s.Canonical) : (s.logicBist b failure).Canonical := by
  unfold Zone.logicBist
  split
  · exact h.bistResult
  · exact h.bistResult

theorem zeroMem {lo n} (h : s.Canonical) : (s.zeroMem lo n).Canonical :=
  canonical_iff.1 (canonical_zeroMem s lo n (canonical_iff.2 h))

theorem bistErases {b memory} (h : s.Canonical) : (s.bistErases b memory).Canonical := by
  unfold Zone.bistErases
  dsimp only
  split
  · exact .ite h.setKeeper h
  · exact .ite h.setKeeper h
  · exact h.zeroMem
  · exact h.parts
  · exact h.setKeyring
  · exact h.forEach fun _ _ h => h.setKeySlot
  · exact .ite h.zeroMem.zeroMem h

theorem startBist {b x} (h : s.Canonical) : (s.startBist b x).2.2.Canonical := by
  unfold Zone.startBist
  dsimp only
  split
  · exact .triple h.count.logicBist
  · exact .iteSndSnd h.count.memoryBist.bistErases h.count.logicBist

theorem bistKeeper {k} (h : s.Canonical) : (s.bistKeeper k).Canonical := h.setRole.report.fence

/-- The blocks of a start are judged one after the other. -/
theorem startBists {l : List Nat} {find : Nat → BlockBist} {x : List (Nat × Option Nat) × Zone} (h : x.2.Canonical) :
    (l.foldl (fun (x : List (Nat × Option Nat) × Zone) b =>
      match x.2.startBist b (find b) with
      | (true, _, s) => (x.1 ++ [(b, none)], s)
      | (false, some i, s) => (x.1 ++ [(b, some i)], s)
      | (false, none, s) => (x.1, s)) x).2.Canonical := by
  refine List.foldlRecOn (motive := fun x : List (Nat × Option Nat) × Zone => x.2.Canonical) _ _ h fun x h b _ => ?_
  have hb := h.startBist (b := b) (x := find b)
  split
  all_goals
    rename_i heq
    rw [heq] at hb
    exact hb

theorem judgeBist {results} (h : s.Canonical) : (s.judgeBist results).Canonical := by
  unfold Zone.judgeBist
  refine .ite h.startBists.setFld.setStart.startFail ?_
  split
  · exact h.startBists.setFld.setStart.startFail
  · exact h.startBists.setFld.setStart.startFail
  · exact h.startBists.setFld.setStart.when (fun _ h => h.bistKeeper)
        |>.when (fun _ h => h.bistKeeper)
        |>.wakePorts.setPhase

theorem releaseClusters {j secure safety} (h : s.Canonical) : (s.releaseClusters j secure safety).Canonical :=
  (h.storeBytes.forEach (fun _ _ h => h.setCore)).storeBytes.parts

theorem enterService (h : s.Canonical) : s.enterService.Canonical :=
  h.setState.setPhase.setFld.setStart.showFigures.firstEntry

theorem lcRefuse {code} (h : s.Canonical) : (s.lcRefuse code).Canonical := h.setFld

theorem lcBlow {bit} (h : s.Canonical) : (s.lcBlow bit).Canonical := h.parts

theorem lcRequest {target testPort} (h : s.Canonical) : (s.lcRequest target testPort).Canonical := by
  unfold Zone.lcRequest
  dsimp only
  split
  · exact h
  · split
    · exact .ite (.ite h.lcBlow h.lcRefuse) h.lcRefuse
    · exact .ite h.lcBlow h.lcRefuse
    · exact .ite (.ite h.lcBlow h.lcRefuse) h.lcRefuse
    · exact .ite h.lcRefuse h.setKeyring.lcBlow

theorem lsRaiseFloor (h : s.Canonical) : s.lsRaiseFloor.Canonical := by
  unfold Zone.lsRaiseFloor
  split
  · exact .ite h.setFld h
  · exact h

/-! ### Machine/Sleep -/

theorem setSleep {f : SleepSt → SleepSt} (h : s.Canonical) : (s.setSleep f).Canonical := h.parts

theorem inputAbove {k} (h : s.Canonical) : (s.inputAbove k).2.Canonical := by
  unfold Zone.inputAbove
  split
  · exact h
  · exact h.fresh

theorem takeReference {k} (h : s.Canonical) : (s.takeReference k).Canonical := by
  unfold Zone.takeReference
  exact h.inputAbove.setSleep

theorem wakeRearm {k above} (h : s.Canonical) : (s.wakeRearm k above).Canonical := h.setSleep

theorem forgetSeen (h : s.Canonical) : s.forgetSeen.Canonical := h.wr.wr

theorem wakeSeen {kind index} (h : s.Canonical) : (s.wakeSeen kind index).Canonical := by
  unfold Zone.wakeSeen
  dsimp only
  split
  · exact h.setFldBit
  · exact h.setFldBit
  · exact h.setFldBit
  · exact h.setFld
  · exact h

theorem setWakeSrc {kind index late} (h : s.Canonical) : (s.setWakeSrc kind index late).Canonical :=
  h.setFld.setFld.setFlag

theorem wokeCan {c} (h : s.Canonical) : (s.wokeCan c).Canonical := h.setFld.event

theorem sleepNotice {outcome} (h : s.Canonical) : (s.sleepNotice outcome).Canonical := h.notice

theorem sleepCancel {kind index} (h : s.Canonical) : (s.sleepCancel kind index).Canonical :=
  (h.setFld.setFld.event.count.setWakeSrc.when (fun _ h => h.wokeCan)).setSleep.post.sleepNotice

theorem wakeCancels (h : s.Canonical) : s.wakeCancels.Canonical := by
  unfold Zone.wakeCancels
  split
  · exact .ite h.sleepCancel h
  · exact h

theorem wakeLate {kind index} (h : s.Canonical) : (s.wakeLate kind index).Canonical := h.setWakeSrc.event.count

theorem wake {kind index} (h : s.Canonical) : (s.wake kind index).Canonical :=
  .ite h
    (.ite
       (.ite
          (h.when (fun _ h => h.forgetSeen)).wakeSeen.setSleep.wakeLate
          ((h.when (fun _ h => h.forgetSeen)).wakeSeen.setSleep.when (fun _ h => h.setWakeSrc)))
       (h.when (fun _ h => h.forgetSeen)).wakeSeen)

theorem canSees {c seen} (h : s.Canonical) : (s.canSees c seen).2.Canonical := by
  unfold Zone.canSees
  dsimp only
  split
  · exact h
  · exact .iteSnd h (.ite h h.setFld)
  · exact .iteSnd h h.setFld

theorem beginSleep {cause wakeAfter} (h : s.Canonical) : (s.beginSleep cause wakeAfter).Canonical :=
  (h.setFld.setFld.setFld.event.setSleep.forEach (fun _ _ h => h.takeReference)).post.closeAll

theorem managementCancel (h : s.Canonical) : s.managementCancel.Canonical :=
  (h.when (fun _ h => h.forgetSeen)).sleepCancel

theorem networkManagement (h : s.Canonical) : s.networkManagement.Canonical := by
  unfold Zone.networkManagement
  dsimp only
  split
  · exact h.heardBus.setSleep
  · exact .ite h.heardBus.managementCancel h.heardBus
  · exact .ite h.heardBus.managementCancel h.heardBus
  · exact h.heardBus

theorem ethSleep (h : s.Canonical) : s.ethSleep.Canonical := h.setSleep.forEach fun _ _ h => h.phyDown

theorem commitSleep (h : s.Canonical) : s.commitSleep.Canonical := by
  unfold Zone.commitSleep
  dsimp only
  split
  · exact h.forceOpenAll.gensOff.forEach (fun _ _ h => h.canAbort.setFld.canNotAlone)
        |>.ethSleep.setRole.setRole.setFld.dropPending.calSave.closeAll.setSleep.wakeLate
  · exact h.forceOpenAll.gensOff.forEach (fun _ _ h => h.canAbort.setFld.canNotAlone)
        |>.ethSleep.setRole.setRole.setFld.dropPending.calSave.closeAll.setSleep

theorem keepAwake (h : s.Canonical) : s.keepAwake.Canonical := .ite h.count h.networkManagement

theorem setFallback {n b} (h : s.Canonical) : (s.setFallback n b).Canonical := .ite h.setFldBit h.setFldBit

/-! ### Machine/Supervisor -/

theorem setSupv {f : SupervisorSt → SupervisorSt} (h : s.Canonical) : (s.setSupv f).Canonical := h.parts

theorem accept {code seq answerDue} (h : s.Canonical) : (s.accept code seq answerDue).Canonical := h.setSupv

theorem startNotice {again} (h : s.Canonical) : (s.startNotice again).Canonical := by
  unfold Zone.startNotice
  dsimp only
  split
  · exact h
  · exact .ite h.notice.setSupv h

theorem judged {code seq argOk} {effect : Zone → Zone} (h : s.Canonical)
    (heffect : ∀ z, z.Canonical → (effect z).Canonical) :
    (s.judged code seq argOk effect).Canonical :=
  .ite h.send (.ite h.send.count (.ite h.send (.ite h.send (.ite h.send (heffect _ h)))))

theorem seqAccepted {seq} (h : s.Canonical) : (s.seqAccepted seq).Canonical := h.setSupv.setFld.networkManagement

theorem command {code e} {argOk : Zone → Bool} {effect : Zone → Zone} (h : s.Canonical)
    (heffect : ∀ z, z.Canonical → (effect z).Canonical) :
    (s.command code e argOk effect).Canonical :=
  .ite h
    (.ite h.count
       (.ite h.count (.ite h.count (.ite h.setSupv.send (h.setSupv.seqAccepted.judged (fun _ h => heffect _ h))))))

theorem tableResult {code seq word} (h : s.Canonical) : (s.tableResult code seq word).Canonical := h.send

theorem loadTable {seq stored} (h : s.Canonical) : (s.loadTable seq stored).Canonical := by
  unfold Zone.loadTable
  dsimp only
  split
  · exact h.accept.answerLoad
  · split
    · exact h.accept.answerLoad
    · split
      · exact h.accept.answerLoad
      · exact h.accept.parts

theorem schedWatch {code seq commit raise} (h : s.Canonical) : (s.schedWatch code seq commit raise).Canonical :=
  h.tableResult.accept.parts

theorem commitTable {seq arg} (h : s.Canonical) : (s.commitTable seq arg).Canonical :=
  .ite h.tableResult (.ite h.tableResult (.ite h.tableResult (.ite h.tableResult h.schedWatch)))

theorem rollbackTable {seq} (h : s.Canonical) : (s.rollbackTable seq).Canonical :=
  .ite h.tableResult h.tableResult.accept.parts

theorem watchChange {seq} (h : s.Canonical) : (s.watchChange seq).Canonical :=
  .ite h.tableResult (.ite h.tableResult h.schedWatch)

theorem scheduleGlobal {seq args} (h : s.Canonical) : (s.scheduleGlobal seq args).Canonical := by
  unfold Zone.scheduleGlobal
  dsimp only
  split
  · exact h.send
  · split
    · exact h.count.send
    · split
      · exact h.send
      · split
        · exact h.send
        · exact h.setSlotWord.setSlotWord.setSlotWord.setSlotWord.setSlotWord.setSlotWord.setSlotState.parts.send

theorem cancelGlobal {seq op} (h : s.Canonical) : (s.cancelGlobal seq op).Canonical := by
  unfold Zone.cancelGlobal
  dsimp only
  split
  · exact h.setSlotState.count.send
  · exact .ite h.send h.send

theorem forceTimeStep {seq args} (h : s.Canonical) : (s.forceTimeStep seq args).Canonical :=
  .ite h.accept.parts h.accept.parts

theorem bindSlot {seq k} (h : s.Canonical) : (s.bindSlot seq k).Canonical := h.accept.setKeySlot.setKeyring

theorem bindSupervisor {seq args} (h : s.Canonical) : (s.bindSupervisor seq args).Canonical :=
  .ite (.ite h.bindSlot h.send) (.ite h.bindSlot h.send)

theorem supervisorReset {seq} (h : s.Canonical) : (s.supervisorReset seq).Canonical :=
  .ite h.send h.addStartRecord.send.enterStart

theorem enterTest (h : s.Canonical) : s.enterTest.Canonical :=
  h.abortCommands.setState.expireKeys.forceOpenAll.gensOff.forEach (fun _ _ h => h.canAbort.setFld.canNotAlone)
    |>.forEach (fun _ _ h => h.setFld)
    |>.forEach (fun _ _ h => (h.setSer.forEach (fun _ _ h => h.completeAbort)).setFld)
    |>.forEach (fun _ _ h => h.setFld.phyDown)
    |>.swEnableChanged.showFigures.beginSignals

theorem exitLightship {seq maint} (h : s.Canonical) : (s.exitLightship seq maint).Canonical :=
  h.send.clearCounts.enterStart

theorem grantResource {seq args} (h : s.Canonical) : (s.grantResource seq args).Canonical :=
  .ite h.send h.accept.quiesce

theorem sleepRequest {seq after} (h : s.Canonical) : (s.sleepRequest seq after).Canonical :=
  .ite h.send h.send.beginSleep

/-! ### Machine/Access -/

theorem byFirmware {x} {f : Zone → Source → Zone} (h : s.Canonical) (hf : ∀ z a1, z.Canonical → (f z a1).Canonical) :
    (s.byFirmware x f).Canonical := by
  unfold Zone.byFirmware
  split
  · exact hf _ _ h
  · exact h

theorem writeZone0 {off x} (h : s.Canonical) : (s.writeZone0 off x).Canonical :=
  .ite (h.when (fun _ h => h.keepAwake)) (.ite h.wr.takeReference h.wr)

theorem writeZone5 {off x} (h : s.Canonical) : (s.writeZone5 off x).Canonical := by
  unfold Zone.writeZone5
  split
  · exact h.byFirmware fun _ _ h => h.gateReq
  · exact h.byFirmware fun _ _ h => h.secureHoldWrite
  · exact h.byFirmware fun _ _ h => h.secureHoldWrite
  · exact h.wr

theorem writeKeeper {k x} (h : s.Canonical) : (s.writeKeeper k x).Canonical := .ite h h.wr

theorem writeBridge {n x} (h : s.Canonical) : (s.writeBridge n x).Canonical := .ite h h.wr

theorem writeChCfg {n x} (h : s.Canonical) : (s.writeChCfg n x).Canonical := h.wr

theorem writeLoad {n off x} (h : s.Canonical) : (s.writeLoad n off x).Canonical := by
  unfold Zone.writeLoad
  dsimp only
  split
  · exact h.chCtrlWrite
  · exact h.writeChCfg
  · exact h.wr
  · exact h.wr
  · exact h.wr.setFld
  · exact h.writeBridge
  · exact h.wr

theorem writeChar {g off x} (h : s.Canonical) : (s.writeChar g off x).Canonical :=
  .ite h.stagedWrite (.ite h.holdWrite h.wr)

theorem writeRing {off x} (h : s.Canonical) : (s.writeRing off x).Canonical :=
  .ite (h.ringCtrlWrite.when (fun _ h => h.ringRestart)) (.ite h.wr.showRing h.wr)

theorem writePortCfg {p x} (h : s.Canonical) : (s.writePortCfg p x).Canonical :=
  .ite h.wr h.wr.portCheck.swEnableChanged.showPlca

theorem writeGateCtrl {p x} (h : s.Canonical) : (s.writeGateCtrl p x).Canonical :=
  .gateEval (.ite h.wr.gateCommit h.wr)

theorem writeTcCfg {p t x} (h : s.Canonical) : (s.writeTcCfg p t x).Canonical :=
  ((h.when (fun _ h => h.event.swCfgReject)).shaped (fun _ h => .wr (.ite h h.sw))).showBuf.gateEval

theorem writeGateEntry {p off x} (h : s.Canonical) : (s.writeGateEntry p off x).Canonical := .ite h.swCfgReject h.wr

theorem writeDoorbell {p src v} (h : s.Canonical) : (s.writeDoorbell p src v).Canonical := .ite h.doorbell h

theorem writeSwp {p off x} (h : s.Canonical) : (s.writeSwp p off x).Canonical :=
  .ite h.writePortCfg
    (.ite h.writeGateCtrl (.ite h.writeTcCfg (.ite (h.shaped (fun _ h => h.wr)) (.ite h.writeGateEntry h.wr))))

theorem writeSw0 {off x} (h : s.Canonical) : (s.writeSw0 off x).Canonical := .ite h.wr.swEnableChanged h.wr

theorem writePhyCfg {p x} (h : s.Canonical) : (s.writePhyCfg p x).Canonical := h.countBy.wr.showLpi.showPlca

theorem writePort {p off x} (h : s.Canonical) : (s.writePort p off x).Canonical := .ite h.writePhyCfg (.ite h h.wr)

theorem writeTime0 {off x} (h : s.Canonical) : (s.writeTime0 off x).Canonical := by
  unfold Zone.writeTime0
  dsimp only
  split
  · exact h.servoCfgWrite
  · exact h.jumpWrite
  · exact h.slewWrite
  · exact h.when fun _ h => h.timeSnap
  · exact h.wr
  · exact h.wr
  · exact h.wr

theorem writeTm {c off x} (h : s.Canonical) : (s.writeTm c off x).Canonical := .ite h h.wr

theorem writeCan {c off x} (h : s.Canonical) : (s.writeCan c off x).Canonical :=
  .ite h.chanCfgWrite
    (.ite h.canTimingWrite (.ite h.rxAck (.ite h.writeTm (.ite h (.ite h.busWrite (.ite h.wr h.wr))))))

theorem writeLin {c off x} (h : s.Canonical) : (s.writeLin c off x).Canonical := by
  unfold Zone.writeLin
  split
  · exact h.linCfgWrite
  · exact h.rxAck
  · exact h.wr.linRefresh

theorem writeSer {n off x} (h : s.Canonical) : (s.writeSer n off x).Canonical := by
  unfold Zone.writeSer
  split
  · exact h.serCfgWrite
  · exact h.serTimingWrite
  · exact h.rxAck
  · exact h.wr

theorem writeTu {off x} (h : s.Canonical) : (s.writeTu off x).Canonical := by
  unfold Zone.writeTu
  dsimp only
  split
  · exact .ite h h.invalidate
  · exact h.when fun _ h => h.tuPop
  · exact .ite (h.byFirmware (fun _ _ h => h.swdtKick)) h
  · exact .ite (h.byFirmware (fun _ _ h => h.secureReady)) h
  · exact h.wr

theorem writeRegn {c off x} (h : s.Canonical) : (s.writeRegn c off x).Canonical :=
  .ite h.wr (.ite h (.ite h.event h.wr))

theorem writeQpr {k src x} (h : s.Canonical) : (s.writeQpr k src x).Canonical := by
  unfold Zone.writeQpr
  dsimp only
  split
  · exact h.count
  · split
    · exact .ite h.ringCfgWrite.setFld h.ringCfgWrite
    · exact .ite h.count h.wr
    · exact .ite h.count h.wr
    · exact .ite h.count h.wr
    · exact .ite h.count h.wr
    · exact h

theorem writeHinge {j off x} (h : s.Canonical) : (s.writeHinge j off x).Canonical :=
  .ite (.ite h h.wr)
    (.ite (h.when (fun _ h => h.errPop))
       (.ite (h.when (fun _ h => h.discPop))
          (.ite (.ite (h.byFirmware (fun _ _ h => h.copyStart)) h) (.ite (.ite h.wr h) h.wr))))

theorem writeLog {off x} (h : s.Canonical) : (s.writeLog off x).Canonical := by
  unfold Zone.writeLog
  dsimp only
  split
  · exact .ite h.wr h
  · exact .ite h.wr h
  · exact .ite h.wr h
  · exact h.when fun _ h => h.storeResume
  · exact h.freezeRelease
  · exact h.wr

theorem writeStream {n off x} (h : s.Canonical) : (s.writeStream n off x).Canonical :=
  .ite (.wr (.ite h h.closeAfter)) h.wr

theorem writePost {n off src v} (h : s.Canonical) : (s.writePost n off src v).Canonical :=
  .ite h.postCommit (.ite h.count h.wr)

theorem writeSafe {off x} (h : s.Canonical) : (s.writeSafe off x).Canonical := by
  unfold Zone.writeSafe
  dsimp only
  split
  · exact h.clearFaultEvent
  · exact h.wr.applyDemand
  · exact h.wr.applyDemand
  · exact h.when fun _ h => h.demandRelease
  · exact h.when fun _ h => h.logPop
  · exact .ite (.ite h.wr h) h.wr

theorem writeAlarm {a off x} (h : s.Canonical) : (s.writeAlarm a off x).Canonical :=
  .ite (h.when (fun _ h => h.alarmTest)) h.wr

theorem writeEffect {kind k x} (h : s.Canonical) : (s.writeEffect kind k x).Canonical := by
  unfold Zone.writeEffect
  dsimp only
  split
  · exact h.writeZone0
  · exact h.writeZone5
  · exact .ite (h.when (fun _ h => h.lsRaiseFloor)) h.wr
  · exact h.writeKeeper
  · exact .ite h.inCfgWrite (.ite h.inThreshWrite h.wr)
  · exact h.writeLoad
  · exact h.writeChar
  · exact .ite (h.wr.when (fun _ h => h.calRestart)) h.wr
  · exact h.writeRing
  · exact h.writeSw0
  · exact h.writeSwp
  · exact h.writePort
  · exact h.writeTime0
  · exact .ite (h.when (fun _ h => h.tsqPop)) h.wr
  · exact h.writeCan
  · exact h.writeLin
  · exact h.writeSer
  · exact h.writeTu
  · exact h.writeRegn
  · exact .ite (h.when (fun _ h => h.fwGrantStart)) h.wr
  · exact h
  · exact h.writeHinge
  · exact h.writeHinge
  · exact h.writeHinge
  · exact h.writeLog
  · exact h.writeStream
  · exact .ite h.lcRequest h.wr
  · exact h.writeSafe
  · exact h.writeAlarm
  · exact .ite h h.wr
  · exact .ite h h.wr
  · exact h.wr

theorem rangeReject {kind k} (h : s.Canonical) : (s.rangeReject kind k).Canonical := .ite h.swCfgReject h

theorem regWrite {w kind d k mode v} (h : s.Canonical) : (s.regWrite w kind d k mode v).Canonical :=
  .ite h (.writeEffect (.ite h h.rangeReject))

theorem kwReject {k src} (h : s.Canonical) : (s.kwReject k src).Canonical := h.count.setFld.setFlag.setFld

theorem fwWord {src kind k v} (h : s.Canonical) : (s.fwWord src kind k v).Canonical := by
  unfold Zone.fwWord
  dsimp only
  split
  · exact h
  · exact h.writeQpr
  · exact .ite h.writePost h.regWrite
  · exact .ite h.writeDoorbell (.regWrite (.ite h h.kwReject))
  · exact .regWrite (.ite h h.kwReject)

theorem readWord {k} (h : s.Canonical) : (s.readWord k).2.Canonical := by
  unfold Zone.readWord
  dsimp only
  split
  · exact h
  · split
    · exact h
    · split
      · exact .iteSnd h (.iteSnd h.busBytes h)
      · exact .iteSnd h.counterRead (.iteSnd h.gateEval (.iteSnd h.showHold (.iteSnd h.shape h)))
      · exact .iteSnd h.setFlag h
      · exact .iteSnd h.setFld h
      · exact .iteSnd h h
      · exact .iteSnd h.setFld h
      · exact .iteSnd h.setFlag h
      · split
        · exact .pair h.setFlag
        · exact h
        · exact h
        · exact h
      · split
        · exact .pair h.setFld
        · exact h
        · exact h
      · exact .iteSnd h.setFld (.iteSnd h h)
      · split
        · exact h
        · exact h
        · exact h
        · exact h
      · exact h

theorem fwRead {kind k} (h : s.Canonical) : (s.fwRead kind k).2.Canonical := by
  unfold Zone.fwRead
  dsimp only
  split
  · exact h
  · exact .iteSnd h.counterRead (.iteSnd h.readWord h.readWord.wr)

theorem wordCheck {src k write v} (h : s.Canonical) : (s.wordCheck src k write v).2.Canonical :=
  .iteSnd h (.iteSnd h (.iteSnd h.refuse_ h.regionCheck))

theorem wordWrite {src k v} (h : s.Canonical) : (s.wordWrite src k v).2.Canonical := by
  unfold Zone.wordWrite
  dsimp only
  split
  · exact h.wordCheck
  · split
    · exact .pair h.wordCheck.fwWord
    · exact h.wordCheck

theorem wordRead {src k} (h : s.Canonical) : (s.wordRead src k).2.2.Canonical := by
  unfold Zone.wordRead
  dsimp only
  split
  · exact h.wordCheck
  · split
    · exact h.wordCheck.fwRead
    · exact h.wordCheck

theorem spaceWrite {src k size v} (h : s.Canonical) : (s.spaceWrite src k size v).2.Canonical :=
  .iteSnd h (.iteSnd h.lineWritten.wordWrite h.lineWritten.wordWrite.wordWrite)

theorem spaceRead {src k size} (h : s.Canonical) : (s.spaceRead src k size).2.2.Canonical :=
  .iteSndSnd h (.iteSndSnd h.wordRead h.wordRead.wordRead)

theorem deliver {w k} (h : s.Canonical) : (s.deliver w k).2.Canonical := by
  unfold Zone.deliver
  split
  · exact h
  · split
    · split
      · exact .pair h.countRefusal
      · exact .pair h.stageAccept
    · exact .iteSnd h h.count

theorem pageAccepted {k} (h : s.Canonical) : (s.pageAccepted k).Canonical := .ite h.loadAccepted h

theorem keeperWrite {w k mode v} (h : s.Canonical) : (s.keeperWrite w k mode v).Canonical := by
  unfold Zone.keeperWrite
  dsimp only
  split
  · exact h.deliver
  · split
    · exact h.deliver
    · split
      · exact h.deliver.pageAccepted.regWrite
      · exact h.deliver.pageAccepted

theorem ticketTimeouts {k} (h : s.Canonical) : (s.ticketTimeouts k).Canonical :=
  h.forEach fun _ _ h => .ite h.complete h

/-! ### Machine/Clocks -/

theorem clockReport {d count} (h : s.Canonical) : (s.clockReport d count).Canonical :=
  .ite
    h.setFldBit.setFld.setFld.count.count.report.selfCheck
    (.ite h.setFldBit.setFld.setFld.count.count.report.selfCheck h.setFldBit.setFld.setFld.count.count.report)

theorem timeClock {stopped} (h : s.Canonical) : (s.timeClock stopped).Canonical :=
  .ite h.markTime.parts.gensStopped h.markTime.parts.gensRestarted

theorem setClockRuns {d bad good} (h : s.Canonical) : (s.setClockRuns d bad good).Canonical := h.setSafety

theorem clockWindow {d w} (h : s.Canonical) : (s.clockWindow d w).Canonical :=
  .ite
    (.ite h (h.windowMark.setFldBit.setClockRuns.clockReport.when (fun _ h => h.timeClock)))
    (.ite
       (.ite
          (h.when (fun _ h => h.windowMark.setFldBit.when fun _ h => h.timeClock)
             |>.setClockRuns.windowMark.setFldBit.clockReport)
          (h.when (fun _ h => h.windowMark.setFldBit.when fun _ h => h.timeClock)).setClockRuns)
       (h.when (fun _ h => h.windowMark.setFldBit.when fun _ h => h.timeClock)
          |>.setClockRuns.when (fun _ h => h.windowMark.setFldBit)))

theorem setDcq {q x} (h : s.Canonical) : (s.setDcq q x).Canonical := h.parts

/-! ### Machine/Harts -/

theorem pteRead {j src a} (h : s.Canonical) : (s.pteRead j src a).2.Canonical :=
  .iteSnd h (.iteSnd h.regionCheck h.regionCheck)

theorem tableWalk {h src va kind user sum mxr cause fuel a lvl wide} {stage : Zone → Nat → Zone.HartAddr × Zone}
    (hs : s.Canonical) (hstage : ∀ z n, z.Canonical → (stage z n).2.Canonical) :
    (Zone.tableWalk h src va kind user sum mxr cause stage fuel a lvl wide s).2.Canonical := by
  induction fuel generalizing s a lvl wide with
  | zero => exact hs
  | succ fuel ih =>
    unfold Zone.tableWalk
    dsimp only
    split
    · exact hstage _ _ hs
    · split
      · exact (hstage _ _ hs).pteRead
      · exact .iteSnd (hstage _ _ hs).pteRead (.iteSnd
          (.iteSnd (hstage _ _ hs).pteRead (ih (hstage _ _ hs).pteRead))
          (.iteSnd (hstage _ _ hs).pteRead (hstage _ _ hs).pteRead))

theorem guestStage {h src kind mxr ga} (hs : s.Canonical) : (Zone.guestStage h src kind mxr s ga).2.Canonical := by
  unfold Zone.guestStage
  dsimp only
  split
  · exact hs
  · exact .iteSnd hs (hs.tableWalk fun _ _ h => h)

theorem hartTranslate {k src mode kind va} (h : s.Canonical) : (s.hartTranslate k src mode kind va).2.Canonical := by
  unfold Zone.hartTranslate
  extract_lets guest user atp st mxr second
  have hsecond {z : Zone} {kind a} (h : z.Canonical) : (second z kind a).2.Canonical := .iteSnd h.guestStage h
  split
  · exact h
  · split
    · exact hsecond h
    · split
      · exact h
      · extract_lets x
        have hx : x.2.Canonical := h.tableWalk fun _ _ h => hsecond h
        split
        · exact hsecond hx
        · exact hx

theorem setHartException {k cause} (h : s.Canonical) : (s.setHartException k cause).Canonical := h.setHart

theorem checkFetched {app k kind} (h : s.Canonical) : (s.checkFetched app k kind).Canonical :=
  h.when fun _ h => h.setHartException

theorem appCsrWrite {j n v} (h : s.Canonical) : (s.appCsrWrite j n v).Canonical := .ite h.setHart h.setHart

theorem safetyCsrWrite {n num v} (h : s.Canonical) : (s.safetyCsrWrite n num v).Canonical :=
  .ite h.setCore (.ite h.setCore h.setCore)

theorem oddCsrWrite {j num v} (h : s.Canonical) : (s.oddCsrWrite j num v).Canonical := h.setHart

/-! ### Machine/Hinges -/

theorem windowCheck {src k wr} (h : s.Canonical) : (s.windowCheck src k wr).2.Canonical := h.regionCheck

theorem keyWindowWrite {src n off v} (h : s.Canonical) : (s.keyWindowWrite src n off v).2.Canonical := by
  unfold Zone.keyWindowWrite
  extract_lets c s₁ k
  have hc : c.2.Canonical := .iteSnd h h.windowCheck
  refine .iteSnd h (.iteSnd hc (.iteSnd hc.opWrite (.iteSnd hc.count ?_)))
  split
  · exact hc
  · exact .pair hc.wr

theorem keyWindowRead {src n off} (h : s.Canonical) : (s.keyWindowRead src n off).2.2.Canonical := by
  unfold Zone.keyWindowRead
  extract_lets c s₁
  have hc : c.2.Canonical := .iteSnd h h.windowCheck
  refine .iteSndSnd h (.iteSndSnd hc (.iteSndSnd hc ?_))
  split
  · exact hc
  · exact hc

theorem windowWrite {src k v} (h : s.Canonical) : (s.windowWrite src k v).2.Canonical := by
  have hw : Ends (s.windowCheck src k true) := ⟨h.windowCheck⟩
  refine Ends.zone ?_
  unfold Zone.windowWrite
  extract_lets b c z
  refine .ite (.ite hw ?_) (.ite (.ite hw (.ite (.pair hw.zone.postWord) (.pair hw.zone))) (.ite ?_ ?_))
  · split
    · exact .pair hw.zone
    · exact .ite (.pair hw.zone.sendNotice) (.pair hw.zone.hingePost)
  · split
    · exact .pair h
    · extract_lets x
      have hx : Ends x := .ite (.pair h) hw
      exact .ite hx (.pair hx.zone.busWrite)
  · exact .ite (Ends.of h.keyWindowWrite :) (.pair h)

theorem windowRead {src k} (h : s.Canonical) : (s.windowRead src k).2.2.Canonical := by
  have hw : Ends (s.windowCheck src k false) := ⟨h.windowCheck⟩
  refine Ends₂.zone ?_
  unfold Zone.windowRead
  extract_lets b c q z
  refine .ite (.ite (.triple hw.zone) ?_) (.ite (.ite (.triple hw.zone) ?_) (.ite ?_ ?_))
  · split
    · exact .triple hw.zone
    · exact .triple hw.zone.fresh
  · split
    · exact .triple hw.zone
    · exact .triple hw.zone
    · exact .triple hw.zone.popEvt
    · exact .triple hw.zone
    · exact .triple hw.zone
  · split
    · exact .triple h
    · extract_lets x y
      have hx : Ends x := .ite (.pair h) hw
      exact .ite (.triple hx.zone) (.triple hx.zone.busBytes)
  · exact .ite (Ends₂.of h.keyWindowRead :) (.triple h)

theorem spaceStore {src a l} (h : s.Canonical) : (s.spaceStore src a l).2.Canonical := by
  refine Ends.zone ?_
  unfold Zone.spaceStore
  extract_lets k n x y
  have hx : Ends x := (Ends.of h.windowWrite :)
  have hy : Ends y := (Ends.of hx.zone.windowWrite :)
  split
  · exact .pair h
  · split
    · exact (Ends.of h.spaceWrite :)
    · split
      · exact hx
      · exact .pair hy.zone

theorem spaceLoad {src a n} (h : s.Canonical) : (s.spaceLoad src a n).2.2.Canonical := by
  refine Ends₂.zone ?_
  unfold Zone.spaceLoad
  extract_lets k x x' y
  have hx : Ends₂ x := (Ends₂.of h.spaceRead :)
  have hx' : Ends₂ x' := (Ends₂.of h.windowRead :)
  have hy : Ends₂ y := (Ends₂.of hx'.zone.windowRead :)
  split
  · exact .triple h
  · split
    · exact .triple hx.zone
    · split
      · exact .triple hx'.zone
      · exact .triple hy.zone

theorem fabricStore {src a l} (h : s.Canonical) : (s.fabricStore src a l).2.Canonical := by
  unfold Zone.fabricStore
  dsimp only
  split
  · exact h
  · exact h.spaceStore
  · exact .iteSnd h
        (.iteSnd h.regionCheck
           (.iteSnd h.regionCheck
              (.iteSnd h.regionCheck.h0Write (.iteSnd h.regionCheck.lineWritten.hingePost h.regionCheck.memWrite))))

theorem fabricLoad {src a n write} (h : s.Canonical) : (s.fabricLoad src a n write).2.2.Canonical := by
  unfold Zone.fabricLoad
  dsimp only
  split
  · exact h
  · exact h.spaceLoad
  · exact .iteSndSnd h (.iteSndSnd h.regionCheck (.iteSndSnd h.regionCheck h.regionCheck.dmaLoad))

theorem holdLine {j l} (h : s.Canonical) : (s.holdLine j l).Canonical := by
  unfold Zone.holdLine
  dsimp only
  refine .setHinge ?_
  split
  · exact h.discardLine
  · exact .ite h h.discardLine
  · exact h

theorem lineHit {j l a n} (h : s.Canonical) : (s.lineHit j l a n).Canonical := h.setHinge.count.respond

theorem ask {j inbound src a n prefetch atomic} (h : s.Canonical) :
    (s.ask j inbound src a n prefetch atomic).Canonical := by
  unfold Zone.ask
  split
  · exact h.lineHit
  · exact h.hingeRequest

theorem writeAnswer {before code} (h : s.Canonical) : (s.writeAnswer before code).Canonical := by
  unfold Zone.writeAnswer
  dsimp only
  split
  · exact h.setHinge
  · exact h.respond

theorem appAccess {src kind a n data} (h : s.Canonical) : (s.appAccess src kind a n data).Canonical := by
  unfold Zone.appAccess
  dsimp only
  split
  · exact h.fabricStore.writeAnswer
  · exact .ite h.fabricLoad.respond h.fabricLoad.fabricStore.respond
  · exact h.fabricLoad.respond
  · exact .ite h.respond
        (.ite h.regionCheck.respond
           (.ite h.regionCheck.respond
              (.ite h.regionCheck.openBytes.respond (.ite h.regionCheck.respond h.regionCheck.ask))))

theorem fetchFault {j} (h : s.Canonical) : (s.fetchFault j).Canonical := h.setHartException

theorem safetyAccess {j src kind a n data} (h : s.Canonical) : (s.safetyAccess j src kind a n data).Canonical := by
  unfold Zone.safetyAccess
  dsimp only
  split
  · exact h
  · split
    · exact .ite h.regionCheck.respond
          (h.regionCheck.when (fun _ h => h.forEach fun _ _ h => h.putByte)).lineWritten.respond
    · split
      · exact h.fetchFault
      · split
        · exact h.respond
        · exact .ite h.respond (.ite h.lineWritten.hingePost.writeAnswer h.ask)

theorem appHartAccess {j mode kind va n data} (h : s.Canonical) :
    (s.appHartAccess j mode kind va n data).Canonical := by
  unfold Zone.appHartAccess
  dsimp only
  split
  · exact h.hartTranslate.setHartException
  · exact .ite h.hartTranslate.setHartException (h.hartTranslate.appAccess.when (fun _ h => h.checkFetched))

theorem safetyHartAccess {j mode kind a n data} (h : s.Canonical) :
    (s.safetyHartAccess j mode kind a n data).Canonical :=
  .ite h (.ite h.setHartException (.ite h.fetchFault (h.safetyAccess.when (fun _ h => h.checkFetched))))

theorem h1Target {src a wr} (h : s.Canonical) : (s.h1Target src a wr).2.Canonical := .iteSnd h h.translate

theorem forwardPosted {j t} (h : s.Canonical) : (s.forwardPosted j t).Canonical := by
  unfold Zone.forwardPosted
  dsimp only
  split
  · exact .ite h.dmaWrite h.dmaWrite.hingeError
  · exact h
  · split
    · exact h.noticeArrives
    · exact h.storeBytes
  · split
    · exact .ite h.h1Target h.h1Target.hingeError
    · exact .ite h.h1Target.fabricStore h.h1Target.fabricStore.hingeError

theorem h1Load {src a n wr atomic} (h : s.Canonical) : (s.h1Load src a n wr atomic).2.2.Canonical := by
  unfold Zone.h1Load
  dsimp only
  split
  · exact h.h1Target
  · split
    · exact h.h1Target.fabricLoad
    · exact .iteSndSnd h.h1Target.fabricLoad h.h1Target.fabricLoad.fabricStore

theorem h1Line {src a} (h : s.Canonical) : (s.h1Line src a).2.2.Canonical := by
  unfold Zone.h1Line
  generalize 16 = n
  split
  · exact List.foldlRecOn (motive := fun x : Nat × List Byte × Zone => x.2.2.Canonical) _ _ h fun _ h _ _ => h.h1Load
  · exact h.h1Load

theorem h1Prefetch {t} (h : s.Canonical) : (s.h1Prefetch t).2.2.Canonical :=
  .iteSndSnd h.h1Line (h.h1Line.holdLine.forEach (fun _ _ h => .ite h.h1Line.holdLine h.h1Line.discardLine))

theorem farAnswer {j t} (h : s.Canonical) : (s.farAnswer j t).2.Canonical := by
  unfold Zone.farAnswer
  dsimp only
  split
  · exact h.dmaRead
  · exact h
  · exact .iteSnd h.openBytes (.ite h.storeBytes h)
  · exact .iteSnd h.h1Prefetch h.h1Load

theorem forwardWrite {j inbound} (h : s.Canonical) : (s.forwardWrite j inbound).Canonical := by
  unfold Zone.forwardWrite
  dsimp only
  split
  · exact h
  · exact h.setHinge.hingeAdmit.forwardPosted

theorem forwardRead {j inbound} (h : s.Canonical) : (s.forwardRead j inbound).Canonical := by
  unfold Zone.forwardRead
  dsimp only
  split
  · exact h
  · split
    · exact h
    · split
      · exact h.count
      · exact h.setHinge.hingeAdmit.farAnswer.setHinge

theorem pcieArrival {p} (h : s.Canonical) : (s.pcieArrival p).Canonical := .ite h (.ite h.hingePost h.hingeRequest)

theorem endRequest {j r code data} (h : s.Canonical) : (s.endRequest j r code data).Canonical :=
  .ite (.ite h.setHinge h.setHinge.hingeReport) (.respond (.ite h.setHinge h.setHinge.hingeReport))

theorem h0Lines {t lines} (h : s.Canonical) : (s.h0Lines t lines).Canonical :=
  h.forEach fun _ _ h => .ite h.regionCheck.holdLine (.ite h.regionCheck h.regionCheck.discardLine)

theorem completion {j inbound tag late code data lines} (h : s.Canonical) :
    (s.completion j inbound tag late code data lines).Canonical := by
  unfold Zone.completion
  dsimp only
  split
  · exact .ite h.setHinge.count h
  · split
    · exact h
    · split
      · exact .ite h h.endRequest
      · exact .ite h (h.when (fun _ h => h.h0Lines)).endRequest

theorem cplTimeout {j inbound tag} (h : s.Canonical) : (s.cplTimeout j inbound tag).Canonical := by
  unfold Zone.cplTimeout
  dsimp only
  split
  · exact h
  · exact .ite h.count.endRequest.setHinge h

theorem linkDown (h : s.Canonical) : s.linkDown.Canonical :=
  .ite h
    (.logLinkDown
       (.ite
          (h.setFld.setFld.setFld.setFld.count.setHinge.forEach (fun _ _ h => h.hingeError)).respond
          (h.setFld.setFld.setFld.setFld.count.setHinge.forEach (fun _ _ h => h.hingeError))))

theorem linkUp {speed width} (h : s.Canonical) : (s.linkUp speed width).Canonical :=
  .ite h.setFld.setFld.setFld.setFld h

theorem copyRun (h : s.Canonical) : s.copyRun.Canonical := by
  unfold Zone.copyRun
  dsimp only
  split
  · exact h
  · split
    · exact h.dmaRead.copyEnd
    · exact .ite h.dmaRead.dmaWrite.copyEnd h.dmaRead.dmaWrite.copyEnd

theorem writeOne {w k} (h : s.Canonical) : (s.writeOne w k).Canonical := by
  unfold Zone.writeOne
  dsimp only
  split
  · exact h.spaceWrite.respond
  · exact h.keeperWrite

/-! ### Machine/DualPass -/

theorem setReg {n rd v} (h : s.Canonical) : (s.setReg n rd v).Canonical := .ite h h.setCore

theorem of_safetyXzmr {k num v z} (h : s.Canonical) (hz : s.safetyXzmr k num v = some z) : z.Canonical := by
  unfold Zone.safetyXzmr at hz
  dsimp only at hz
  split at hz
  · exact Option.some.inj hz ▸ h.setHart
  · exact Option.some.inj hz ▸ h.setHart
  · cases hz

theorem zdpWrite {n num v} (h : s.Canonical) : (s.zdpWrite n num v).Canonical :=
  .ite h (.ite (.ite h.setCore h) (.ite h.setCore h))

theorem commitCsr {n num v} (h : s.Canonical) : (s.commitCsr n num v).Canonical := by
  refine .ite h.zdpWrite ?_
  split
  · exact h.of_safetyXzmr ‹_›
  · exact h.safetyCsrWrite

theorem commitTrap {n cause tval mstatus} (h : s.Canonical) : (s.commitTrap n cause tval mstatus).Canonical :=
  h.forEach fun _ _ h => h.setCore

theorem commitResult {n mode r} (h : s.Canonical) : (s.commitResult n mode r).Canonical := by
  unfold Zone.commitResult
  split
  · exact h.setReg
  · exact h
  · exact h.commitCsr
  · exact h.safetyAccess
  · exact h.commitTrap

theorem legBoundary {n} (h : s.Canonical) : (s.legBoundary n).Canonical := h.setCore.forEach fun _ _ h => h.putByte

theorem retire {n k} (h : s.Canonical) : (s.retire n k).Canonical := .ite h h.setCore

theorem commitLeg {n mode native} (h : s.Canonical) : (s.commitLeg n mode native).Canonical :=
  (h.forEach (fun _ _ h => h.commitResult)).setCore.retire.legBoundary

theorem coreCsrRead {n num p} (h : s.Canonical) : (s.coreCsrRead n num p).2.Canonical := by
  unfold Zone.coreCsrRead
  dsimp only
  split
  · exact h
  · split
    · exact h
    · split
      · exact h.fresh
      · split
        · exact h.fresh
        · split
          · exact h
          · exact h
          · exact h
          · exact h
          · exact h
          · exact h
          · exact h
          · exact h
          · exact h
          · exact h
          · exact h
          · exact h

theorem readNative {n l} (h : s.Canonical) : (s.readNative n l).2.Canonical := by
  induction l generalizing s with
  | nil => exact h
  | cons x r ih =>
    cases x with
    | csrRead => exact ih h.coreCsrRead
    | _ => exact ih h

theorem readPasses {n native inverted} (h : s.Canonical) : (s.readPasses n native inverted).2.2.Canonical :=
  h.readNative

theorem reportLeg {n source injected} (h : s.Canonical) : (s.reportLeg n source injected).Canonical :=
  .ite h.reportInjected h.report

theorem mismatch {n m isAccess read} (h : s.Canonical) : (s.mismatch n m isAccess read).Canonical :=
  h.fresh.fresh.setCore

theorem permanent {n f m} (h : s.Canonical) : (s.permanent n f m).Canonical := h.setCore.reportLeg.legBoundary

theorem transient {n f} (h : s.Canonical) : (s.transient n f).Canonical := h.setCore.reportLeg

theorem checkerFailure {n comparator} (h : s.Canonical) : (s.checkerFailure n comparator).Canonical :=
  (h.forEach (fun _ _ h => h.setCore)).setCore.setFld.report.legBoundary

theorem judgeLeg {n mode native inverted checks inj rerun} (h : s.Canonical) :
    (s.judgeLeg n mode native inverted checks inj rerun).Canonical := by
  have hs : (s.readPasses n native inverted).2.2.Canonical := h.readPasses
  unfold Zone.judgeLeg
  split
  rename_i heq
  rw [heq] at hs
  refine .ite hs.setCore.checkerFailure (.ite hs.setCore.checkerFailure ?_)
  split
  · exact hs.setCore.mismatch
  · exact hs.setCore.permanent
  · exact hs.setCore.commitLeg
  · exact hs.setCore.commitLeg.transient

theorem leg {n mode native inverted checks} (h : s.Canonical) : (s.leg n mode native inverted checks).Canonical := by
  unfold Zone.leg
  dsimp only
  split
  · exact h
  · split
    · exact h.readPasses.commitLeg
    · split
      · exact .ite h.setCore.judgeLeg h.judgeLeg
      · exact h.judgeLeg

theorem legRerun {n mode native inverted checks} (h : s.Canonical) :
    (s.legRerun n mode native inverted checks).Canonical := by
  unfold Zone.legRerun
  dsimp only
  split
  · exact h
  · exact .ite h h.judgeLeg

theorem drainIn (h : s.Canonical) : s.drainIn.Canonical := h.forEach fun _ _ h => h.forwardWrite

theorem legRead {n src a size wr atomic} (h : s.Canonical) : (s.legRead n src a size wr atomic).2.2.Canonical := by
  unfold Zone.legRead
  split
  · exact h
  · exact .iteSndSnd h (.iteSndSnd (.iteSndSnd h.regionCheck h.regionCheck)
      (.iteSndSnd h.drainIn.h1Load.hingeReport h.drainIn.h1Load))

theorem legWrite {n src a v} (h : s.Canonical) : (s.legWrite n src a v).2.Canonical :=
  .iteSnd (.iteSnd h.regionCheck (h.regionCheck.forEach (fun _ _ h => h.putByte))) h.legRead

theorem legAtomic {n src op a v} (h : s.Canonical) : (s.legAtomic n src op a v).2.2.Canonical := by
  unfold Zone.legAtomic
  dsimp only
  split
  · exact .iteSndSnd h.legRead h.legRead.setCore
  · exact .iteSndSnd h.setCore.legWrite h.setCore
  · exact .iteSndSnd h.legRead h.legRead.legWrite

theorem legAccess {n mode access a size} (h : s.Canonical) : (s.legAccess n mode access a size).2.2.Canonical := by
  unfold Zone.legAccess
  extract_lets src kind
  split
  · exact h
  · split
    · exact h.legRead
    · exact h.safetyAccess
    · exact h.legAtomic

theorem accessTrap {n mode access addr} (h : s.Canonical) : (s.accessTrap n mode access addr).Canonical :=
  h.commitTrap.setCore

theorem accessLeg {n mode access addr inverted size flip nextPc} (h : s.Canonical) :
    (s.accessLeg n mode access addr inverted size flip nextPc).Canonical := by
  unfold Zone.accessLeg
  extract_lets c rerun ready fail got finish s₁ c' bitOf armed s₂
  have hfail {z : Zone} {m read} (h : z.Canonical) : (fail z m read).Canonical := by
    dsimp only [fail, rerun]
    split
    · exact h.permanent
    · exact h.mismatch
  have hgot : s₁.Canonical := by
    dsimp only [s₁, got, rerun]
    split
    · exact h
    · exact h.legAccess
  have hfinish {z : Zone} {f} (h : z.Canonical) (hf : ∀ z, z.Canonical → (f z).Canonical) : (finish z f).Canonical := by
    dsimp only [finish, rerun]
    split
    · exact (hf _ h).setCore.retire.legBoundary.transient
    · exact (hf _ h).setCore.retire.legBoundary
  have h₂ : s₂.Canonical := .ite hgot.setCore hgot
  clear_value s₂ got finish fail
  split
  · exact h
  · split
    · exact hfail h
    · split
      · exact hfinish hgot fun _ h => h.accessTrap
      · split
        · exact hfinish hgot fun _ h => h.setCore
        · exact .ite (hfail h₂) (.ite (hfail h₂) (hfinish h₂ fun _ h => h.setReg.setCore))

theorem debugAttach (h : s.Canonical) : s.debugAttach.Canonical :=
  .ite h (h.forEach (fun _ _ h => .ite h h.setCore)).setFld.setFld.report

theorem zdpCsr {n num mode v} (h : s.Canonical) : (s.zdpCsr n num mode v).Canonical :=
  .ite h (.ite h.zdpWrite h.setHartException)

theorem moorWrite {j v12 virt mode} (h : s.Canonical) : (s.moorWrite j v12 virt mode).Canonical :=
  .ite h.setHartException (.ite h.setHart (.ite h.setHart.count h.setHart))

theorem appCsrOp {j num mode v} (h : s.Canonical) : (s.appCsrOp j num mode v).Canonical := by
  unfold Zone.appCsrOp
  dsimp only
  split
  · exact h.setHartException
  · split
    · exact h.setHart
    · exact h.setHart
    · exact h.moorWrite
    · exact h.moorWrite
    · exact h.appCsrWrite

theorem safetyCsrOp {k num mode v} (h : s.Canonical) : (s.safetyCsrOp k num mode v).Canonical := by
  refine .ite h ?_
  split
  · exact h.setHartException
  · split
    · exact h.of_safetyXzmr ‹_›
    · exact .ite h.commitCsr (.ite h h.oddCsrWrite)

/-! ### Machine/Gptp -/

theorem setPtpMaster {i p m} (h : s.Canonical) : (s.setPtpMaster i p m).Canonical := h.parts

theorem ringSample {i p offset} (h : s.Canonical) : (s.ringSample i p offset).Canonical := by
  unfold Zone.ringSample
  refine .ite h (.ite ?_ h.parts)
  split
  · exact h.parts
  · exact h.parts

theorem showMaster {i} (h : s.Canonical) : (s.showMaster i).Canonical := by
  unfold Zone.showMaster
  split
  · exact h
  · split
    exact .ite h.setFld.setFld (.ite h.setFld.setFld.event.count.setTerms h.setFld.setFld.event.count)

theorem ptpAnnounce {i p m utc} (h : s.Canonical) : (s.ptpAnnounce i p m utc).Canonical := by
  unfold Zone.ptpAnnounce
  dsimp only
  split
  · exact .ite h.setPtpMaster.showMaster.setFld.setFld h.setPtpMaster.showMaster
  · exact h.setPtpMaster.showMaster

theorem ptpReceive {p i msg} (h : s.Canonical) : (s.ptpReceive p i msg).Canonical := by
  unfold Zone.ptpReceive
  dsimp only
  split
  · exact .ite h.ptpAnnounce h
  · exact .ite h.ptpSync.ringSample h
  · exact .ite h.parts h
  · exact h

/-! ### Machine/Tamva -/

theorem setW {k n v} (h : s.Canonical) : (s.setW k n v).Canonical := .ite h h.setKeeper

theorem setFlags {k f} (h : s.Canonical) : (s.setFlags k f).Canonical := h.setKeeper

theorem chartSet {k a v} (h : s.Canonical) : (s.chartSet k a v).Canonical := h.setKeeper

theorem chartStore {k a v} (h : s.Canonical) : (s.chartStore k a v).Canonical :=
  .ite h.chartSet (.ite h.chartSet.setKeeper h)

theorem closeGroup {k} (h : s.Canonical) : (s.closeGroup k).Canonical := .ite h h.setKeeper

theorem beginStep {k} (h : s.Canonical) : (s.beginStep k).Canonical := h.setKeeper

theorem endStep {k} (h : s.Canonical) : (s.endStep k).Canonical := h.setKeeper

theorem execFault {k code} (h : s.Canonical) : (s.execFault k code).Canonical :=
  (h.closeGroup.setFld.setFld.setFld.count.post.when (fun _ h => h.count)).endStep

theorem illegal {k} (h : s.Canonical) : (s.illegal k).Canonical := h.selfCheck

theorem perform {k cycles last} {f : Zone → Zone} (h : s.Canonical) (hf : ∀ z, z.Canonical → (f z).Canonical) :
    (s.perform k cycles last f).Canonical :=
  .ite h
    (.ite (.ite h.illegal h.setKeeper)
       (.ite (hf _ (.setKeeper (.ite h h.beginStep))).setKeeper (hf _ (.setKeeper (.ite h h.beginStep)))))

theorem result {k wd f r} (h : s.Canonical) : (s.result k wd f r).Canonical := .ite h.setW.setFlags h.setW

theorem alu {k cycles wd ws wt f} {r : Sys2Proof.Word → Sys2Proof.Word → TResult} (h : s.Canonical) :
    (s.alu k cycles wd ws wt f r).Canonical :=
  h.perform fun _ h => h.result

theorem aluImm {k wd ws f} {r : Sys2Proof.Word → TResult} (h : s.Canonical) : (s.aluImm k wd ws f r).Canonical :=
  h.perform fun _ h => h.result

theorem opAdd {k wd ws wt f} (h : s.Canonical) : (s.opAdd k wd ws wt f).Canonical := h.alu

theorem opSub {k wd ws wt f} (h : s.Canonical) : (s.opSub k wd ws wt f).Canonical := h.alu

theorem opAnd {k wd ws wt f} (h : s.Canonical) : (s.opAnd k wd ws wt f).Canonical := h.alu

theorem opOr {k wd ws wt f} (h : s.Canonical) : (s.opOr k wd ws wt f).Canonical := h.alu

theorem opXor {k wd ws wt f} (h : s.Canonical) : (s.opXor k wd ws wt f).Canonical := h.alu

theorem opShl {k wd ws amount f} (h : s.Canonical) : (s.opShl k wd ws amount f).Canonical :=
  h.perform fun _ h => h.result

theorem opShr {k wd ws amount f} (h : s.Canonical) : (s.opShr k wd ws amount f).Canonical :=
  h.perform fun _ h => h.result

theorem opSra {k wd ws amount f} (h : s.Canonical) : (s.opSra k wd ws amount f).Canonical :=
  h.perform fun _ h => h.result

theorem opMul {k wd ws wt f u} (h : s.Canonical) : (s.opMul k wd ws wt f u).Canonical := h.alu

theorem opMulh {k wd ws wt f u} (h : s.Canonical) : (s.opMulh k wd ws wt f u).Canonical := h.alu

theorem opMin {k wd ws wt f u} (h : s.Canonical) : (s.opMin k wd ws wt f u).Canonical := h.alu

theorem opMax {k wd ws wt f u} (h : s.Canonical) : (s.opMax k wd ws wt f u).Canonical := h.alu

theorem opSat {k wd ws w f u} (h : s.Canonical) : (s.opSat k wd ws w f u).Canonical := h.aluImm

theorem opAddi {k wd ws f imm} (h : s.Canonical) : (s.opAddi k wd ws f imm).Canonical := h.aluImm

theorem opAndi {k wd ws f imm} (h : s.Canonical) : (s.opAndi k wd ws f imm).Canonical := h.aluImm

theorem opOri {k wd ws f imm} (h : s.Canonical) : (s.opOri k wd ws f imm).Canonical := h.aluImm

theorem opXori {k wd ws f imm} (h : s.Canonical) : (s.opXori k wd ws f imm).Canonical := h.aluImm

theorem opLui {k wd imm} (h : s.Canonical) : (s.opLui k wd imm).Canonical := h.perform fun _ h => h.setW

theorem opCmpi {k ws imm} (h : s.Canonical) : (s.opCmpi k ws imm).Canonical := h.perform fun _ h => h.setFlags

theorem opCmp {k ws wt} (h : s.Canonical) : (s.opCmp k ws wt).Canonical := h.perform fun _ h => h.setFlags

theorem opTst {k ws wt} (h : s.Canonical) : (s.opTst k ws wt).Canonical := h.perform fun _ h => h.setFlags

theorem opSkip {k cc n} (h : s.Canonical) : (s.opSkip k cc n).Canonical := h.perform fun _ h => .ite h.setKeeper h

theorem opLdc {k w addr} (h : s.Canonical) : (s.opLdc k w addr).Canonical := h.perform fun _ h => h.setW

theorem opStc {k w addr} (h : s.Canonical) : (s.opStc k w addr).Canonical := h.perform fun _ h => h.chartStore

theorem opLdcx {k w wx addr} (h : s.Canonical) : (s.opLdcx k w wx addr).Canonical :=
  h.perform fun _ h => .ite h.execFault h.setW

theorem opStcx {k w wx addr} (h : s.Canonical) : (s.opStcx k w wx addr).Canonical :=
  h.perform fun _ h => .ite h.execFault h.chartStore

theorem opMirr {k wd} (h : s.Canonical) : (s.opMirr k wd).Canonical :=
  h.perform fun _ h => .setW (.ite h.closeGroup h)

theorem keeperRead {k key} (h : s.Canonical) : (s.keeperRead k key).2.Canonical := by
  unfold Zone.keeperRead
  dsimp only
  split
  · exact h.readWord.fresh
  · split
    · exact .iteSnd h.readWord h.readWord
    · exact h.readWord

theorem sendWrite {k key mode v} (h : s.Canonical) : (s.sendWrite k key mode v).Canonical :=
  .keeperWrite (.ite h.setKeeper h)

theorem opCrd {k w g word} (h : s.Canonical) : (s.opCrd k w g word).Canonical :=
  h.perform fun _ h => .ite h.illegal h.keeperRead.setW

theorem cwr {k w mode g word} (h : s.Canonical) : (s.cwr k w mode g word).Canonical := .ite h.illegal h.sendWrite

theorem opCwr {k w g word} (h : s.Canonical) : (s.opCwr k w g word).Canonical := h.perform fun _ h => h.cwr

theorem opCwrSet {k w g word} (h : s.Canonical) : (s.opCwrSet k w g word).Canonical := h.perform fun _ h => h.cwr

theorem opCwrClr {k w g word} (h : s.Canonical) : (s.opCwrClr k w g word).Canonical := h.perform fun _ h => h.cwr

theorem opCwrTgl {k w g word} (h : s.Canonical) : (s.opCwrTgl k w g word).Canonical := h.perform fun _ h => h.cwr

theorem opCrdx {k wd wx g arrives} (h : s.Canonical) : (s.opCrdx k wd wx g arrives).Canonical :=
  h.perform fun _ h => .ite h.illegal (.ite h.execFault (.ite h.keeperRead.setW.setFlags h.setW.setFlags.count))

theorem opCwrx {k w wx g} (h : s.Canonical) : (s.opCwrx k w wx g).Canonical :=
  h.perform fun _ h => .ite h.illegal (.ite h.execFault h.sendWrite)

theorem operation {kind ch off r variant arg} (h : s.Canonical) :
    (s.operation kind ch off r variant arg).Canonical := by
  unfold Zone.operation
  dsimp only
  split
  · split
    · exact h.opClearRetry
    · exact h.fresh.opOffDiag
    · exact h.opSnapshot
    · exact h.opLoadOther
  · refine .ite h.opTxStart ?_
    split
    · exact h.opRecover
    · exact h.opAbortPending
    · exact h.canOp fun _ h => h.completeFail
  · split
    · exact h.fresh.opLinHeader
    · exact h.fresh.opLinWakeup
    · exact h.completeFail
  · split
    · exact h.serSend
    · exact h.serAbort
    · exact h.completeFail
  · refine .ite h.complete ?_
    split
    · exact h.acfSend
    · exact h.acfTake
    · exact h.completeFail
  · split
    · exact .winOp h.winWrite
    · exact .winOp h.winRead
    · exact .winOp h.winClear
    · exact h.completeFail
  · exact h.complete

theorem issueOp {k r key variant arg} (h : s.Canonical) : (s.issueOp k r key variant arg).Canonical := by
  unfold Zone.issueOp
  dsimp only
  split
  · exact h.deliver.complete
  · exact h.deliver.setKeeper
  · split
    · exact .ite h.deliver.operation h.deliver.complete
    · exact h.deliver.complete

theorem opCop {k wd variant g word} (h : s.Canonical) : (s.opCop k wd variant g word).Canonical := by
  unfold Zone.opCop
  dsimp only
  refine h.perform fun _ h => ?_
  split
  · exact h.illegal
  · split
    · exact h.setW.setFlags.count
    · exact h.issueTicket.setW.setFlags.issueOp

theorem opChkt {k ticket} (h : s.Canonical) : (s.opChkt k ticket).Canonical := by
  unfold Zone.opChkt
  refine h.perform fun _ h => ?_
  split
  · exact h.execFault
  · exact h.setFlags

theorem opTkr {k wd ticket} (h : s.Canonical) : (s.opTkr k wd ticket).Canonical := by
  unfold Zone.opTkr
  dsimp only
  refine h.perform fun _ h => ?_
  split
  · exact h.execFault
  · exact .ite h.setW.setFlags.setTicket h.setW.setFlags

theorem opQpop {k w queue} (h : s.Canonical) : (s.opQpop k w queue).Canonical := by
  unfold Zone.opQpop
  dsimp only
  refine h.perform fun _ h => ?_
  split
  · exact h.takeReq.setW.setFlags
  · exact h.takeReq.setW.setFlags

theorem opQpush {k w queue} (h : s.Canonical) : (s.opQpush k w queue).Canonical :=
  h.perform fun _ h => .setFlags (.ite h.pushEvt h)

theorem opQlen {k wd event queue} (h : s.Canonical) : (s.opQlen k wd event queue).Canonical :=
  h.perform fun _ h => h.setW.setFlags

theorem opTnow {k wd} (h : s.Canonical) : (s.opTnow k wd).Canonical := h.perform fun _ h => h.setW

theorem opTsec {k wd} (h : s.Canonical) : (s.opTsec k wd).Canonical := h.perform fun _ h => h.setW

theorem opTslot {k wd} (h : s.Canonical) : (s.opTslot k wd).Canonical := h.perform fun _ h => h.setW

theorem opEvt {k ws code} (h : s.Canonical) : (s.opEvt k ws code).Canonical :=
  h.perform fun _ h => .ite h.illegal (.ite h (.ite h.count h.addRecord))

theorem opFlt {k ws code} (h : s.Canonical) : (s.opFlt k ws code).Canonical :=
  h.perform fun _ h => .ite h.illegal (.ite h.report h.count)

theorem opNop {k} (h : s.Canonical) : (s.opNop k).Canonical := h.perform fun _ h => h

theorem opEnd {k} (h : s.Canonical) : (s.opEnd k).Canonical := h.perform fun _ h => h.closeGroup.endStep

theorem carryOut {i} (h : s.Canonical) : (s.carryOut i).Canonical := by
  unfold Zone.carryOut
  split
  · exact h.opAdd
  · exact h.opSub
  · exact h.opAnd
  · exact h.opOr
  · exact h.opXor
  · exact h.opShl
  · exact h.opShr
  · exact h.opSra
  · exact h.opMul
  · exact h.opMulh
  · exact h.opMin
  · exact h.opMax
  · exact h.opSat
  · exact h.opAddi
  · exact h.opAndi
  · exact h.opOri
  · exact h.opXori
  · exact h.opLui
  · exact h.opCmpi
  · exact h.opCmp
  · exact h.opTst
  · exact h.opSkip
  · exact h.opLdc
  · exact h.opStc
  · exact h.opLdcx
  · exact h.opStcx
  · exact h.opMirr
  · exact h.opCrd
  · exact h.opCwr
  · exact h.opCwrSet
  · exact h.opCwrClr
  · exact h.opCwrTgl
  · exact h.opCop
  · exact h.opChkt
  · exact h.opTkr
  · exact h.opCrdx
  · exact h.opCwrx
  · exact h.opQpop
  · exact h.opQpush
  · exact h.opQlen
  · exact h.opTnow
  · exact h.opTsec
  · exact h.opTslot
  · exact h.opEvt
  · exact h.opFlt
  · exact h.opNop
  · exact h.opEnd
  · exact h

theorem fetchWord {k w} (h : s.Canonical) : (s.fetchWord k w).Canonical := by
  unfold Zone.fetchWord
  dsimp only
  split
  · exact .carryOut (.ite h.fresh h)
  · exact h.perform fun _ h => h.illegal

/-! ### Machine/SlotMark -/

theorem endCommand {code seq} (h : s.Canonical) : (s.endCommand code seq).Canonical := h.setSupv

theorem nameHolder {k} (h : s.Canonical) : (s.nameHolder k).Canonical := h.setFld

theorem setClaim {k c} (h : s.Canonical) : (s.setClaim k c).Canonical := h.setFld

theorem place {k} (h : s.Canonical) : (s.place k).Canonical := h.setKeeper

theorem endPause {k} (h : s.Canonical) : (s.endPause k).Canonical := h.parts

theorem resume {k n} (h : s.Canonical) : (s.resume k n).Canonical := by
  unfold Zone.resume
  split
  · exact h
  · exact .ite h.endPause (.ite h.endPause.count h)

theorem countRound {k n} (h : s.Canonical) : (s.countRound k n).Canonical :=
  .ite ((h.resume.setKeeper.when (fun _ h => h.count)).when (fun _ h => h.count)) h.resume

theorem countFailover (h : s.Canonical) : s.countFailover.Canonical := h.count.post

theorem buryLightship (h : s.Canonical) : s.buryLightship.Canonical := by
  unfold Zone.buryLightship
  refine h.forEach fun _ _ h => ?_
  split
  · exact .ite h.setResState h
  · exact h

theorem holdWatch {k n} (h : s.Canonical) : (s.holdWatch k n).Canonical := h.setKeeper.setRole.setFld.nameHolder

theorem takeover {k} (h : s.Canonical) : (s.takeover k).Canonical :=
  .ite h (.ite h.setKeeper (h.holdWatch.when (fun _ h => h.setFld.buryLightship)).countFailover.settleQueues)

theorem commitBegin {o raise} (h : s.Canonical) : (s.commitBegin o raise).Canonical := by
  unfold Zone.commitBegin
  dsimp only
  split
  · exact .setFld (.setFld (.setFld (.ite h.beginTable h)))
  · exact .setFld (.setFld (.ite h.beginTable h))

theorem watchSwap (h : s.Canonical) : s.watchSwap.Canonical := by
  unfold Zone.watchSwap
  dsimp only
  split
  · exact h
  · exact .ite h.declareFailed.countFailover.setKeeper
        (.ite h.dropSched
           (h.holdWatch.when (fun _ h => h.setRole)
              |>.when (fun _ h => h.commitBegin)
              |>.count.setFld.dropSched.settleQueues))

theorem swapLapses (h : s.Canonical) : s.swapLapses.Canonical := h.parts

theorem prepareSwap {j} (h : s.Canonical) : (s.prepareSwap j).Canonical := by
  unfold Zone.prepareSwap
  dsimp only
  split
  · exact h.setFld
  · exact .ite h.parts h.setFld

theorem applyProfile (h : s.Canonical) : s.applyProfile.Canonical := .ite h h.setFld.showFigures

theorem roundChange {k} (h : s.Canonical) : (s.roundChange k).Canonical := by
  unfold Zone.roundChange
  dsimp only
  split
  · exact h
  · exact .ite h.setKeeper h

theorem beginAll {j} (h : s.Canonical) : (s.beginAll j).Canonical :=
  h.forEach fun _ _ h => .ite h.beginTable.setRole h

theorem beginFirst (h : s.Canonical) : s.beginFirst.Canonical :=
  (h.beginAll.nameHolder.setClaim.when (fun _ h => h.setClaim)).parts.settleQueues

theorem beginTrial {j} (h : s.Canonical) : (s.beginTrial j).Canonical := .ite h.beginTable.setRole.setFld.setFld h

theorem beginRollback {j} (h : s.Canonical) : (s.beginRollback j).Canonical :=
  .ite
    (h.when (fun _ h => h.beginTable.setRole)).setResState.setResState
    (h.forEach (fun _ _ h => h.when fun _ h => h.beginTable))

theorem applyChange {j} (h : s.Canonical) : (s.applyChange j).Canonical := by
  unfold Zone.applyChange
  dsimp only
  split
  · exact h
  · refine .settleQueues ?_
    split
    · refine .endCommand ?_
      split
      · exact h.parts.beginAll
      · exact h.parts.beginTrial
      · exact h.parts.beginRollback
    · split
      · exact h.parts.beginAll
      · exact h.parts.beginTrial
      · exact h.parts.beginRollback

theorem firstRound {j} (h : s.Canonical) : (s.firstRound j).Canonical := .ite h.setFld.setPhase h

theorem boundary (h : s.Canonical) : s.boundary.Canonical := by
  unfold Zone.boundary
  split
  · exact h
  · exact h.firstRound.applyProfile.applyChange

theorem boundaryFirst {n} (h : s.Canonical) : (s.boundaryFirst n).Canonical := by
  unfold Zone.boundaryFirst
  split
  · exact h
  · split
    · exact .ite h.beginFirst h
    · exact h

theorem stopInTest {k n} (h : s.Canonical) : (s.stopInTest k n).Canonical := .ite h.setRole.setKeeper h

theorem runStep {k t n} (h : s.Canonical) : (s.runStep k t n).Canonical :=
  .ite h
    (h.setKeeper.beginStep.forEach (fun _ _ h => h.when fun _ h => .ite h.illegal h.fetchWord)
       |>.when (fun _ h => h.illegal))

theorem runSlot {k} (h : s.Canonical) : (s.runSlot k).Canonical := by
  unfold Zone.runSlot
  dsimp only
  split
  · exact h
  · exact .ite h (h.forEach (fun _ _ h => h.runStep))

theorem endSlot {k} (h : s.Canonical) : (s.endSlot k).Canonical := h.sendBeacon.setKeeper

theorem receiveMirror {k} (h : s.Canonical) : (s.receiveMirror k).Canonical := .ite h.mirrorApply h

theorem enterSlot {k n own} (h : s.Canonical) : (s.enterSlot k n own).Canonical :=
  (h.setClaim.setFlag.setKeeper.forEach (fun _ _ h => h.complete)).ticketTimeouts

theorem mark {ks} {next : Sys2Proof.Keeper → ℕ} {own} (h : s.Canonical) : (s.mark ks next own).Canonical := by
  unfold Zone.mark
  dsimp only
  refine .forEach ?_ (fun _ _ h => h.showMirror)
  refine .forEach ?_ (fun _ _ h => h.runSlot)
  split
  · exact h.forEach (fun _ _ h => h.endSlot)
        |>.forEach (fun _ _ h => h.countRound)
        |>.forEach (fun _ _ h => h.receiveMirror)
        |>.when (fun _ h => .ite h.watchSwap h.swapLapses)
        |>.forEach (fun _ _ h => h.takeover)
        |>.forEach (fun _ _ h => h.judgeOther)
        |>.when (fun _ h => h.parts)
        |>.forEach (fun _ _ h => h.enterSlot)
        |>.forEach (fun _ _ h => h.stopInTest)
        |>.when (fun _ h => h.boundary)
        |>.when (fun _ h => h.boundaryFirst)
        |>.forEach (fun _ _ h => h.roundChange)
        |>.forEach (fun _ _ h => h.place)
        |>.when (fun _ h => h.prepareSwap)
  · exact h.forEach (fun _ _ h => h.endSlot)
        |>.forEach (fun _ _ h => h.countRound)
        |>.forEach (fun _ _ h => h.receiveMirror)
        |>.when (fun _ h => .ite h.watchSwap h.swapLapses)
        |>.forEach (fun _ _ h => h.takeover)
        |>.forEach (fun _ _ h => h.judgeOther)
        |>.when (fun _ h => h.parts)
        |>.forEach (fun _ _ h => h.enterSlot)
        |>.forEach (fun _ _ h => h.stopInTest)
        |>.when (fun _ h => h.boundary)
        |>.when (fun _ h => h.boundaryFirst)
        |>.forEach (fun _ _ h => h.roundChange)
        |>.forEach (fun _ _ h => h.place)

theorem slotMark (h : s.Canonical) : s.slotMark.Canonical := .ite h.mark h

theorem localMark {k} (h : s.Canonical) : (s.localMark k).Canonical := by
  unfold Zone.localMark
  dsimp only
  split
  · exact .ite (h.mark.when (fun _ h => h.report)) h
  · exact h

/-! ### Machine/Tick -/

theorem tickNet (h : s.Canonical) : s.tickNet.Canonical := .ite h.parts h

theorem tickStep (h : s.Canonical) : s.tickStep.Canonical := by
  unfold Zone.tickStep
  dsimp only
  split
  · exact h
  · exact .answer
        (.ite h.parts.timeStep.clearRefusal.parts
           (.ite h.parts.timeStep.clearRefusal
              (.ite h.parts.timeStep.clearRefusal.enterHoldover h.parts.timeStep.clearRefusal.beginHoldover)))

theorem tickAon (h : s.Canonical) : s.tickAon.Canonical := by
  unfold Zone.tickAon
  exact .ite h.parts h.parts

theorem tickLife (h : s.Canonical) : s.tickLife.Canonical := .ite h.setStart.wr.showFailed h.setStart

theorem tickCrank (h : s.Canonical) : s.tickCrank.Canonical := .ite h.parts.setFld h

theorem tickHoldover (h : s.Canonical) : s.tickHoldover.Canonical := by
  unfold Zone.tickHoldover
  split
  · exact h.setFld
  · exact h

theorem tickAwake (h : s.Canonical) : s.tickAwake.Canonical := h.setFld

theorem tick (h : s.Canonical) : s.tick.Canonical :=
  .ite h.parts
    (.ite h.parts.tickAon.tickLife
       h.parts.tickAon.tickLife.wakeCancels.tickNet.tickStep.tickCrank.tickHoldover.tickAwake.settleLegs.calUpdates)

end Zone.Canonical

end Sys2Proof.Machine
end

