-- ==== Sys2Proof/Proofs/CanonicalSteps.lean ====
section
/-! SUPPORT. Every command answers a next state and keeps the canonical form (O57, O59). -/

namespace Sys2Proof.Machine

open Reg

/-- `r` answers a next state with the queue of `st`, and with registers and memory in canonical form if those of `st` are. -/
def KeepsForm (st : State) (r : Result) : Prop :=
  ∃ z : Zone, r = .next { st with zone := z } ∧ (st.zone.Canonical → z.Canonical)

namespace KeepsForm

variable {st : State} {f : Zone → Zone}

theorem run (hf : ∀ z, z.Canonical → (f z).Canonical) : KeepsForm st (st.run f) := ⟨f st.zone, rfl, hf st.zone⟩

theorem runFw (hf : ∀ z, z.Canonical → (f z).Canonical) : KeepsForm st (st.runFw f) := run fun z h => .ite (hf z h) h

theorem runOn (hf : ∀ z, z.Canonical → (f z).Canonical) : KeepsForm st (st.runOn f) := run fun z h => .ite (hf z h) h

theorem runBy {w : Writer} (hf : ∀ z, z.Canonical → (f z).Canonical) : KeepsForm st (st.runBy w f) := by
  cases w with
  | firmware src => exact runFw hf
  | keeper k => exact runOn hf

theorem runLc {w : Writer} {testPort : Bool} (hf : ∀ z, z.Canonical → (f z).Canonical) :
    KeepsForm st (st.runLc w testPort f) := by
  unfold State.runLc
  split
  · exact run hf
  · exact runBy fun z h => .ite (hf z h) h

theorem registerWrite {writer offset size mode value st} :
    KeepsForm st (execRegisterWrite writer offset size mode value st) := by
  refine .runBy fun _ h => ?_
  dsimp only
  split
  · exact h.spaceWrite.respond
  · exact .ite h.keeperWrite h

theorem rcRead {src offset size st} : KeepsForm st (execRcRead src offset size st) :=
  .runFw fun _ h => h.spaceRead.respond

theorem pageLock {writer page st} : KeepsForm st (execPageLock writer page st) := by
  refine .runBy fun _ h => ?_
  dsimp only
  split
  · exact h.spaceWrite.respond
  · exact h.keeperWrite

theorem dcqPacketWrite {queue words complete st} : KeepsForm st (execDcqPacketWrite queue words complete st) :=
  .runOn fun _ h => .ite h h.setDcq

theorem dcqWordRead {queue ecc st} : KeepsForm st (execDcqWordRead queue ecc st) := by
  refine .runOn fun _ h => ?_
  dsimp only
  split
  · exact h
  · split
    · exact h.setDcq.count.setFld.report
    · exact h.setDcq.when fun _ h => h.count

theorem dcqClockStop {queue st} : KeepsForm st (execDcqClockStop queue st) := .run fun _ h => h.setDcq

theorem clockMonitorWindow {domain window st} : KeepsForm st (execClockMonitorWindow domain window st) :=
  .runOn fun _ h => .ite h (h.paced (fun _ h => h.clockWindow))

theorem startNotice {st} : KeepsForm st (execStartNotice st) := .run fun _ h => h.startNotice

theorem startNoticeRepeat {st} : KeepsForm st (execStartNoticeRepeat st) := .run fun _ h => h.startNotice

theorem getStatus {env st} : KeepsForm st (execGetStatus env st) := .run fun _ h => h.command fun _ h => h.send

theorem reset {env st} : KeepsForm st (execReset env st) := .run fun _ h => h.command fun _ h => h.supervisorReset

theorem bindSupervisor {env st} : KeepsForm st (execBindSupervisor env st) :=
  .run fun _ h => h.command fun _ h => h.bindSupervisor

theorem setProfile {env st} : KeepsForm st (execSetProfile env st) :=
  .run fun _ h => h.command fun _ h => h.setFld.send

theorem loadTable {env stored st} : KeepsForm st (execLoadTable env stored st) :=
  .run fun _ h => h.command fun _ h => h.loadTable

theorem commitTable {env st} : KeepsForm st (execCommitTable env st) :=
  .run fun _ h => h.command fun _ h => h.commitTable

theorem rollbackTable {env st} : KeepsForm st (execRollbackTable env st) :=
  .run fun _ h => h.command fun _ h => h.rollbackTable

theorem watchChange {env st} : KeepsForm st (execWatchChange env st) :=
  .run fun _ h => h.command fun _ h => h.watchChange

theorem sleepRequest {env st} : KeepsForm st (execSleepRequest env st) :=
  .run fun _ h => h.command fun _ h => h.sleepRequest

theorem scheduleGlobal {env st} : KeepsForm st (execScheduleGlobal env st) :=
  .run fun _ h => h.command fun _ h => h.scheduleGlobal

theorem cancelGlobal {env st} : KeepsForm st (execCancelGlobal env st) :=
  .run fun _ h => h.command fun _ h => h.cancelGlobal

theorem forceTimeStep {env st} : KeepsForm st (execForceTimeStep env st) :=
  .run fun _ h => h.command fun _ h => h.forceTimeStep

theorem grantResource {env st} : KeepsForm st (execGrantResource env st) :=
  .run fun _ h => h.command fun _ h => h.grantResource

theorem keyRoll {env st} : KeepsForm st (execKeyRoll env st) := .run fun _ h => h.command fun _ h => h.rollSet.send

theorem logFreeze {env st} : KeepsForm st (execLogFreeze env st) := .run fun _ h => h.command fun _ h => h.freeze.send

theorem readStartReasons {env st} : KeepsForm st (execReadStartReasons env st) :=
  .run fun _ h => h.command fun _ h => h.send

theorem clearStartCount {env st} : KeepsForm st (execClearStartCount env st) :=
  .run fun _ h => h.command fun _ h => h.clearCounts.send

theorem exitLightship {env st} : KeepsForm st (execExitLightship env st) :=
  .run fun _ h => h.command fun _ h => h.exitLightship

theorem enterTest {env st} : KeepsForm st (execEnterTest env st) :=
  .run fun _ h => h.command fun _ h => h.send.enterTest

theorem exitTest {env st} : KeepsForm st (execExitTest env st) :=
  .run fun _ h => h.command fun _ h => h.send.enterStart

theorem powerUp {st} : KeepsForm st (execPowerUp st) := .run fun _ h => .ite h.enterStart h

theorem orderlyReset {st} : KeepsForm st (execOrderlyReset st) := .run fun _ h => .ite h h.orderlyReset

theorem crankHoldEntry {st} : KeepsForm st (execCrankHoldEntry st) :=
  .run fun _ h => .ite h (.ite h.windowMark.parts.showCrank h.windowMark.parts)

theorem crankHoldExit {st} : KeepsForm st (execCrankHoldExit st) := .run fun _ h => h.leaveCrank

theorem crankAccClear {st} : KeepsForm st (execCrankAccClear st) := by
  refine .run fun _ h => ?_
  dsimp only
  split
  · exact .ite h.setFld.parts h
  · exact h

theorem crankLimit {st} : KeepsForm st (execCrankLimit st) := .run fun _ h => .ite h h.orderlyReset

theorem surgeEntry {feed volts st} : KeepsForm st (execSurgeEntry feed volts st) :=
  .run fun _ h => .ite h h.feedEvent.leaveCrank

theorem surgeLong {feed st} : KeepsForm st (execSurgeLong feed st) := by
  refine .run fun _ h => ?_
  dsimp only
  split
  · exact .ite (.ite h.setFeed.judgeFeed h.setFeed) h
  · exact h

theorem surgeExit {feed volts st} : KeepsForm st (execSurgeExit feed volts st) := .run fun _ h => .ite h.feedEvent h

theorem feedLost {feed volts st} : KeepsForm st (execFeedLost feed volts st) := .run fun _ h => .ite h h.feedEvent

theorem reverseEntry {feed volts st} : KeepsForm st (execReverseEntry feed volts st) :=
  .run fun _ h => .ite h h.feedEvent

theorem feedReturn {feed volts st} : KeepsForm st (execFeedReturn feed volts st) := .run fun _ h => .ite h.feedEvent h

theorem gndLost {feed st} : KeepsForm st (execGndLost feed st) :=
  .runOn fun _ h => .ite h h.setFld.supplyEvent.reportSupply

theorem gndRestored {feed st} : KeepsForm st (execGndRestored feed st) := .runOn fun _ h => .ite h h.setFld

theorem feedOverload {avgA avgB st} : KeepsForm st (execFeedOverload avgA avgB st) :=
  .runOn fun _ h => ((h.setFld.setFld.when (fun _ h => h.event)).when (fun _ h => h.event)).when fun _ h => h.event

theorem inputSample {input millivolts st} : KeepsForm st (execInputSample input millivolts st) :=
  .run fun _ h =>
    .ite h (h.paced (fun _ h => .ite h.setInput.setFld.showActive.takeLevel h.setInput.setFld.showActive))

theorem inputLevelChange {input st} : KeepsForm st (execInputLevelChange input st) :=
  .run fun _ h => .ite h.takeLevel h

theorem captureRise {input st} : KeepsForm st (execCaptureRise input st) := by
  refine .run fun _ h => ?_
  dsimp only
  split
  · exact h
  · split
    · exact h.setInput.setFld.setFld.setFld.setFld
    · exact h.setInput

theorem captureFall {input st} : KeepsForm st (execCaptureFall input st) := .run fun _ h => .ite h.setInput h

theorem captureTimeout {input st} : KeepsForm st (execCaptureTimeout input st) := by
  refine .run fun _ h => ?_
  split
  · exact .ite h.clearCapture h
  · exact h

theorem inCfgWrite {writer input value st} : KeepsForm st (execInCfgWrite writer input value st) :=
  .runBy fun _ h => .ite h.inCfgWrite h

theorem inThreshWrite {writer input value st} : KeepsForm st (execInThreshWrite writer input value st) :=
  .runBy fun _ h => .ite h.inThreshWrite h

theorem thermalSample {base soc switchDie powerA powerB st} :
    KeepsForm st (execThermalSample base soc switchDie powerA powerB st) :=
  .runOn fun _ h =>
    h.paced fun _ h =>
      h.setFld.setFld.setFld.setFld.setFld.when (fun _ h => h.event)
        |>.when (fun _ h => h.event.setFld)
        |>.when (fun _ h => h.event.setFld.when fun _ h => h.report)
        |>.when (fun _ h => h.setFld.setFld)

theorem opAdd {keeper wd ws wt f st} : KeepsForm st (execOpAdd keeper wd ws wt f st) := .run fun _ h => h.opAdd

theorem opSub {keeper wd ws wt f st} : KeepsForm st (execOpSub keeper wd ws wt f st) := .run fun _ h => h.opSub

theorem opAnd {keeper wd ws wt f st} : KeepsForm st (execOpAnd keeper wd ws wt f st) := .run fun _ h => h.opAnd

theorem opOr {keeper wd ws wt f st} : KeepsForm st (execOpOr keeper wd ws wt f st) := .run fun _ h => h.opOr

theorem opXor {keeper wd ws wt f st} : KeepsForm st (execOpXor keeper wd ws wt f st) := .run fun _ h => h.opXor

theorem opShl {keeper wd ws amount f st} : KeepsForm st (execOpShl keeper wd ws amount f st) :=
  .run fun _ h => h.opShl

theorem opShr {keeper wd ws amount f st} : KeepsForm st (execOpShr keeper wd ws amount f st) :=
  .run fun _ h => h.opShr

theorem opSra {keeper wd ws amount f st} : KeepsForm st (execOpSra keeper wd ws amount f st) :=
  .run fun _ h => h.opSra

theorem opMul {keeper wd ws wt f u st} : KeepsForm st (execOpMul keeper wd ws wt f u st) := .run fun _ h => h.opMul

theorem opMulh {keeper wd ws wt f u st} : KeepsForm st (execOpMulh keeper wd ws wt f u st) := .run fun _ h => h.opMulh

theorem opMin {keeper wd ws wt f u st} : KeepsForm st (execOpMin keeper wd ws wt f u st) := .run fun _ h => h.opMin

theorem opMax {keeper wd ws wt f u st} : KeepsForm st (execOpMax keeper wd ws wt f u st) := .run fun _ h => h.opMax

theorem opSat {keeper wd ws k f u st} : KeepsForm st (execOpSat keeper wd ws k f u st) := .run fun _ h => h.opSat

theorem opAddi {keeper wd ws f imm st} : KeepsForm st (execOpAddi keeper wd ws f imm st) := .run fun _ h => h.opAddi

theorem opAndi {keeper wd ws f imm st} : KeepsForm st (execOpAndi keeper wd ws f imm st) := .run fun _ h => h.opAndi

theorem opOri {keeper wd ws f imm st} : KeepsForm st (execOpOri keeper wd ws f imm st) := .run fun _ h => h.opOri

theorem opXori {keeper wd ws f imm st} : KeepsForm st (execOpXori keeper wd ws f imm st) := .run fun _ h => h.opXori

theorem opLui {keeper wd imm st} : KeepsForm st (execOpLui keeper wd imm st) := .run fun _ h => h.opLui

theorem opCmpi {keeper ws imm st} : KeepsForm st (execOpCmpi keeper ws imm st) := .run fun _ h => h.opCmpi

theorem opCmp {keeper ws wt st} : KeepsForm st (execOpCmp keeper ws wt st) := .run fun _ h => h.opCmp

theorem opTst {keeper ws wt st} : KeepsForm st (execOpTst keeper ws wt st) := .run fun _ h => h.opTst

theorem opSkip {keeper cc n st} : KeepsForm st (execOpSkip keeper cc n st) := .run fun _ h => h.opSkip

theorem opLdc {keeper w addr st} : KeepsForm st (execOpLdc keeper w addr st) := .run fun _ h => h.opLdc

theorem opStc {keeper w addr st} : KeepsForm st (execOpStc keeper w addr st) := .run fun _ h => h.opStc

theorem opLdcx {keeper w wx addr st} : KeepsForm st (execOpLdcx keeper w wx addr st) := .run fun _ h => h.opLdcx

theorem opStcx {keeper w wx addr st} : KeepsForm st (execOpStcx keeper w wx addr st) := .run fun _ h => h.opStcx

theorem opMirr {keeper wd st} : KeepsForm st (execOpMirr keeper wd st) := .run fun _ h => h.opMirr

theorem opCrd {keeper w page word st} : KeepsForm st (execOpCrd keeper w page word st) := .run fun _ h => h.opCrd

theorem opCwr {keeper w page word st} : KeepsForm st (execOpCwr keeper w page word st) := .run fun _ h => h.opCwr

theorem opCwrSet {keeper w page word st} : KeepsForm st (execOpCwrSet keeper w page word st) :=
  .run fun _ h => h.opCwrSet

theorem opCwrClr {keeper w page word st} : KeepsForm st (execOpCwrClr keeper w page word st) :=
  .run fun _ h => h.opCwrClr

theorem opCwrTgl {keeper w page word st} : KeepsForm st (execOpCwrTgl keeper w page word st) :=
  .run fun _ h => h.opCwrTgl

theorem opCop {keeper wd variant page word st} : KeepsForm st (execOpCop keeper wd variant page word st) :=
  .run fun _ h => h.opCop

theorem opChkt {keeper ticket st} : KeepsForm st (execOpChkt keeper ticket st) := .run fun _ h => h.opChkt

theorem opTkr {keeper wd ticket st} : KeepsForm st (execOpTkr keeper wd ticket st) := .run fun _ h => h.opTkr

theorem opCrdx {keeper wd wx page arrives st} : KeepsForm st (execOpCrdx keeper wd wx page arrives st) :=
  .run fun _ h => h.opCrdx

theorem opCwrx {keeper w wx page st} : KeepsForm st (execOpCwrx keeper w wx page st) := .run fun _ h => h.opCwrx

theorem opQpop {keeper w queue st} : KeepsForm st (execOpQpop keeper w queue st) := .run fun _ h => h.opQpop

theorem opQpush {keeper w queue st} : KeepsForm st (execOpQpush keeper w queue st) := .run fun _ h => h.opQpush

theorem opQlen {keeper wd event queue st} : KeepsForm st (execOpQlen keeper wd event queue st) :=
  .run fun _ h => h.opQlen

theorem opTnow {keeper wd st} : KeepsForm st (execOpTnow keeper wd st) := .run fun _ h => h.opTnow

theorem opTsec {keeper wd st} : KeepsForm st (execOpTsec keeper wd st) := .run fun _ h => h.opTsec

theorem opTslot {keeper wd st} : KeepsForm st (execOpTslot keeper wd st) := .run fun _ h => h.opTslot

theorem opEvt {keeper ws code st} : KeepsForm st (execOpEvt keeper ws code st) := .run fun _ h => h.opEvt

theorem opFlt {keeper ws code st} : KeepsForm st (execOpFlt keeper ws code st) := .run fun _ h => h.opFlt

theorem opNop {keeper st} : KeepsForm st (execOpNop keeper st) := .run fun _ h => h.opNop

theorem opEnd {keeper st} : KeepsForm st (execOpEnd keeper st) := .run fun _ h => h.opEnd

theorem ecallAbsent {hart st} : KeepsForm st (execEcallAbsent hart st) := .runFw fun _ h => h.ecallAbsent

theorem budgetOverrun {keeper st} : KeepsForm st (execBudgetOverrun keeper st) := .runOn fun _ h => .ite h.selfCheck h

theorem selfCheckFailure {keeper cause st} : KeepsForm st (execSelfCheckFailure keeper cause st) :=
  .runOn fun _ h => h.selfCheck

theorem ticketCompletion {keeper ticket serial status value st} :
    KeepsForm st (execTicketCompletion keeper ticket serial status value st) :=
  .runOn fun _ h => h.complete

theorem ticketTimeout {keeper st} : KeepsForm st (execTicketTimeout keeper st) :=
  .runOn fun _ h => .ite h.ticketTimeouts h

theorem slotMark {st} : KeepsForm st (execSlotMark st) := .runOn fun _ h => h.slotMark

theorem roundBoundary {st} : KeepsForm st (execRoundBoundary st) := .runOn fun _ h => .ite h.slotMark h

theorem requestPost {queue src word st} : KeepsForm st (execRequestPost queue src word st) :=
  .runFw fun _ h => .ite h.regionCheck.respond h.regionCheck.postWord

theorem frameTimeout {queue st} : KeepsForm st (execFrameTimeout queue st) :=
  .runOn fun _ h => .ite h.setReqQ.countBy h

theorem eventPop {queue src st} : KeepsForm st (execEventPop queue src st) :=
  .runFw fun _ h => .ite h.regionCheck.respond h.regionCheck.popEvt

theorem eventQueueNotice {queue st} : KeepsForm st (execEventQueueNotice queue st) :=
  .runOn fun _ h => .ite h.setEvtQ.sendNotice h

theorem loaderVerdict {keeper st} : KeepsForm st (execLoaderVerdict keeper st) := .runOn fun _ h => h.loaderVerdict

theorem beaconReceive {sender errors disturbed st} : KeepsForm st (execBeaconReceive sender errors disturbed st) := by
  refine .runOn fun _ h => ?_
  dsimp only
  split
  · exact h.sendBeacon
  · exact (h.sendBeacon.forEach (fun _ _ h => h.stageHear)).keeperHear.setKeeper

theorem localMark {keeper st} : KeepsForm st (execLocalMark keeper st) := .runOn fun _ h => h.localMark

theorem fenceConfirm {keeper st} : KeepsForm st (execFenceConfirm keeper st) :=
  .runOn fun _ h => .ite h.confirmFence h

theorem hardIsolation {keeper st} : KeepsForm st (execHardIsolation keeper st) := by
  refine .runOn fun _ h => ?_
  dsimp only
  split
  · exact .ite h.setFld.confirmFence.report h
  · exact h

theorem stageSilent {stage st} : KeepsForm st (execStageSilent stage st) := by
  refine .runOn fun _ h => ?_
  dsimp only
  split
  · exact h
  · exact .ite h (.ite h.setStage.report.loadSilent (.ite h.setStage.report.canAbort h.setStage.report))

theorem mirrorFrameReceive {keeper flips closingLost st} :
    KeepsForm st (execMirrorFrameReceive keeper flips closingLost st) := by
  refine .runOn fun _ h => ?_
  dsimp only
  split
  · exact h.sendBeacon
  · exact .ite h.sendBeacon h.sendBeacon.setKeeper

theorem chCtrlWrite {ch value st} : KeepsForm st (execChCtrlWrite ch value st) := .runOn fun _ h => h.chCtrlWrite

theorem fastTrip {ch peak st} : KeepsForm st (execFastTrip ch peak st) := .runOn fun _ h => h.fastTrip

theorem warmupTripTaken {ch st} : KeepsForm st (execWarmupTripTaken ch st) := by
  refine .runOn fun _ h => ?_
  dsimp only
  split
  · exact .ite h.takeWarmupTrip h
  · exact h

theorem softLimitTick {ch raw st} : KeepsForm st (execSoftLimitTick ch raw st) :=
  .runOn fun _ h => .ite h (.ite h.setFld.setFldS.setLoad.setFldU.softTrip h.setFld.setFldS.setLoad.setFldU)

theorem junctionSample {ch temp st} : KeepsForm st (execJunctionSample ch temp st) :=
  .runOn fun _ h => h.paced fun _ h => .ite h.setFld.latchSet (.ite h.setFld.latchRelease h.setFld)

theorem spacingEnd {ch st} : KeepsForm st (execSpacingEnd ch st) := by
  refine .runOn fun _ h => ?_
  dsimp only
  split
  · split
    · split
      · exact h.toOpen
      · exact h.setLState.chEvent.setLoad.applyReq
    · exact h
  · exact h

theorem windowEnd {ch st} : KeepsForm st (execWindowEnd ch st) := by
  refine .runOn fun _ h => ?_
  dsimp only
  split
  · split
    · split
      · exact h.toOpen
      · exact h.setLoad.setLState
    · exact h
  · exact h

theorem refill {ch st} : KeepsForm st (execRefill ch st) := by
  refine .runOn fun _ h => ?_
  dsimp only
  split
  · exact .ite (.ite h.setLoad.setFld.chEvent.toOff h.setLoad.setFld.chEvent) h
  · exact h

theorem reverseGapEnd {ch st} : KeepsForm st (execReverseGapEnd ch st) := by
  refine .runOn fun _ h => ?_
  dsimp only
  split
  · exact .ite (.ite h.setLoad.applyReq h.setLoad) h
  · exact h

theorem feedSag {feed st} : KeepsForm st (execFeedSag feed st) := by
  refine .runOn fun _ h => ?_
  dsimp only
  split
  · exact h
  · split
    · exact h.parts
    · exact h.parts

theorem openLoadFilter {ch low high st} : KeepsForm st (execOpenLoadFilter ch low high st) :=
  .runOn fun _ h =>
    .ite h (.ite h.setLoad (.ite h.setLoad (.ite h.setLoad.setFld.event (.ite h.setLoad.setFld h.setLoad))))

theorem switchFaultDetect {ch senseMin senseMax voutMin voutMax feedV st} :
    KeepsForm st (execSwitchFaultDetect ch senseMin senseMax voutMin voutMax feedV st) :=
  .runOn fun _ h => .ite h h.setFeedV.setFld.switchFault.switchFault.switchFault

theorem clearRetry {ch keeper ticket st} : KeepsForm st (execClearRetry ch keeper ticket st) :=
  .runOn fun _ h => h.opClearRetry

theorem offDiag {ch keeper ticket vout feedV st} : KeepsForm st (execOffDiag ch keeper ticket vout feedV st) :=
  .runOn fun _ h => h.setFeedV.opOffDiag

theorem offDiagDone {ch millivolts st} : KeepsForm st (execOffDiagDone ch millivolts st) := by
  refine .runOn fun _ h => ?_
  dsimp only
  split
  · exact .ite h.setLoad.completeOk h
  · exact h

theorem snapshot {ch keeper ticket st} : KeepsForm st (execSnapshot ch keeper ticket st) :=
  .runOn fun _ h => h.opSnapshot

theorem generatorBoundary {gen st} : KeepsForm st (execGeneratorBoundary gen st) :=
  .runOn fun _ h => .ite h (.ite h.applySet h.fadeOnly)

theorem followBoundary {ch st} : KeepsForm st (execFollowBoundary ch st) := by
  refine .runOn fun _ h => ?_
  dsimp only
  split
  · exact .ite h.applyReq h
  · exact h

theorem charStagedWrite {gen word value st} : KeepsForm st (execCharStagedWrite gen word value st) :=
  .runOn fun _ h => h.stagedWrite

theorem stageHoldWrite {gen hold st} : KeepsForm st (execStageHoldWrite gen hold st) := .runOn fun _ h => h.holdWrite

theorem calEdge {ch rawPre rawPost shuntPre shuntPost elecPre elecPost settled alone st} :
    KeepsForm st (execCalEdge ch rawPre rawPost shuntPre shuntPost elecPre elecPost settled alone st) :=
  .runOn fun _ h => .ite h.count (.ite h.count (.ite h.count (.ite h.count h.calClean)))

theorem calStale {ch st} : KeepsForm st (execCalStale ch st) := .runOn fun _ h => .ite h.unconverge.event h

theorem calRestart {writer ch st} : KeepsForm st (execCalRestart writer ch st) :=
  .runBy fun _ h => .ite h.calRestart h

theorem calRecordWrite {st} : KeepsForm st (execCalRecordWrite st) := .runOn fun _ h => .ite h.calSave h

theorem balanceEval {shuntA shuntB elecA elecB satA satB legs st} :
    KeepsForm st (execBalanceEval shuntA shuntB elecA elecB satA satB legs st) :=
  .runOn fun _ h => h.paced fun _ h => h.balEval.balEval

theorem ringUpdate {st} : KeepsForm st (execRingUpdate st) :=
  .runOn fun _ h => .ite h (.ite h.parts.ringUpdate h.parts)

theorem ringRestart {writer st} : KeepsForm st (execRingRestart writer st) := .runBy fun _ h => .ite h.ringRestart h

theorem frameReceive {port frame reception ticks st} :
    KeepsForm st (execFrameReceive port frame reception ticks st) := by
  refine .runOn fun _ h => ?_
  split
  · split
    · exact h.cutBegin
    · exact .receive (.ite h.heardBus h)
  · exact h

theorem losslessAdmit {ingress egress cls st} : KeepsForm st (execLosslessAdmit ingress egress cls st) := by
  refine .runOn fun _ h => ?_
  dsimp only
  split
  · exact h
  · exact .ite (h.shaped (fun _ h => h.setVoq)).showBuf h

theorem hostTxFetch {pair st} : KeepsForm st (execHostTxFetch pair st) := .runOn fun _ h => h.txFetch

theorem hostRxDeliver {port st} : KeepsForm st (execHostRxDeliver port st) := .runOn fun _ h => h.rxDeliver

theorem doorbell {port src pair receive tail st} : KeepsForm st (execDoorbell port src pair receive tail st) :=
  .runFw fun _ h => h.doorbell

theorem crossbarSchedule {plca ecc st} : KeepsForm st (execCrossbarSchedule plca ecc st) :=
  .runOn fun _ h => (h.forEach (fun _ _ h => h.plcaTurn)).crossbar

theorem frameTransmitStart {port plca skew st} : KeepsForm st (execFrameTransmitStart port plca skew st) := by
  refine .runOn fun _ h => ?_
  dsimp only
  split
  · exact (h.when (fun _ h => h.plcaTurn)).shape
  · exact .ite (h.when (fun _ h => h.plcaTurn)).shape.beginTx (h.when (fun _ h => h.plcaTurn)).shape

theorem gateEntryChange {port st} : KeepsForm st (execGateEntryChange port st) := .runOn fun _ h => h.gateEval

theorem gateCommit {port st} : KeepsForm st (execGateCommit port st) := .runOn fun _ h => h.gateEval.gateCommit

theorem streamGateChange {gate st} : KeepsForm st (execStreamGateChange gate st) := .runOn fun _ h => h.sgateEval

theorem ageCheck {st} : KeepsForm st (execAgeCheck st) :=
  .runOn fun _ h => (h.forEach (fun _ _ h => h.forEach fun _ _ h => h.ageQueue)).forEach fun _ _ h => h.showHold

theorem linkDown {port st} : KeepsForm st (execLinkDown port st) := .runOn fun _ h => h.phyDown

theorem linkUp {port speed leader eee st} : KeepsForm st (execLinkUp port speed leader eee st) :=
  .runOn fun _ h => .ite h h.phyUp

theorem holdExpiry {port st} : KeepsForm st (execHoldExpiry port st) := by
  refine .runOn fun _ h => ?_
  dsimp only
  split
  · exact .ite h.flushPort.sw.setFld.setFld.event h
  · exact h

theorem tableWrite {window keeper ticket index st} : KeepsForm st (execTableWrite window keeper ticket index st) :=
  .runOn fun _ h => .ite (.winOp h.winWrite) h

theorem tableRead {window keeper ticket index st} : KeepsForm st (execTableRead window keeper ticket index st) :=
  .runOn fun _ h => .ite (.winOp h.winRead) h

theorem tableClear {window keeper ticket index st} : KeepsForm st (execTableClear window keeper ticket index st) :=
  .runOn fun _ h => .ite (.winOp h.winClear) h

theorem acfSend {keeper ticket arg st} : KeepsForm st (execAcfSend keeper ticket arg st) :=
  .runOn fun _ h => h.acfSend

theorem acfTake {keeper ticket arg st} : KeepsForm st (execAcfTake keeper ticket arg st) :=
  .runOn fun _ h => h.acfTake

theorem counterRead {port offset st} : KeepsForm st (execCounterRead port offset st) :=
  .runOn fun _ h => .ite h.counterRead.parts h

theorem saInstall {writer port assoc sci an slot nextPn st} :
    KeepsForm st (execSaInstall writer port assoc sci an slot nextPn st) :=
  .runBy fun _ h => .ite h.saInstall h

theorem frerResetTimeout {function st} : KeepsForm st (execFrerResetTimeout function st) :=
  .runOn fun _ h => .ite h.recovReset h

theorem servoMeasurement {sourceTime st} : KeepsForm st (execServoMeasurement sourceTime st) := by
  refine .runOn fun _ h => ?_
  dsimp only
  split
  · exact .ite h.measure h
  · exact h

theorem sourceLost {gptpInstance st} : KeepsForm st (execSourceLost gptpInstance st) :=
  .runOn fun _ h => .ite h.parts.setFld.sourceCheck h

theorem ptpMessageReceive {port ptpInstance msg st} :
    KeepsForm st (execPtpMessageReceive port ptpInstance msg st) := by
  refine .runOn fun _ h => ?_
  dsimp only
  split
  · exact h.parts.ptpReceive
  · exact .ite h.stat.ptpReceive h

theorem ptpTransmit {port ptpInstance msg st} : KeepsForm st (execPtpTransmit port ptpInstance msg st) :=
  .runOn fun _ h => .ite h.stat.statBy h

theorem ppsEdge {stampNs st} : KeepsForm st (execPpsEdge stampNs st) :=
  .runOn fun _ h => .ite h (.ite h.count h.parts.setFld.count.sourceCheck.setFld.setFld.measure)

theorem ppsLost {st} : KeepsForm st (execPpsLost st) := by
  refine .runOn fun _ h => ?_
  dsimp only
  split
  · exact .ite h.parts.setFld.event.sourceCheck h
  · exact h

theorem integrityCheck {ticks mismatch st} : KeepsForm st (execIntegrityCheck ticks mismatch st) :=
  .runOn fun _ h => .ite (.ite h.setFld.event h.setFld.event.report) h

theorem tsqPop {writer port st} : KeepsForm st (execTsqPop writer port st) := .runBy fun _ h => .ite h.tsqPop h

theorem timeSnap {writer st} : KeepsForm st (execTimeSnap writer st) := .runBy fun _ h => .ite h.timeSnap h

theorem servoSourceWrite {writer source st} : KeepsForm st (execServoSourceWrite writer source st) :=
  .runBy fun _ h => .ite h.selectSource h

theorem forceStepTimeout {st} : KeepsForm st (execForceStepTimeout st) := by
  refine .runOn fun _ h => ?_
  dsimp only
  split
  · exact .ite h.parts.answer h
  · exact h

theorem globalLogSnapshot {st} : KeepsForm st (execGlobalLogSnapshot st) := by
  refine .runOn fun _ h => ?_
  split
  · exact h.snapshot.globalExecuted
  · exact h

theorem globalKeyRoll {st} : KeepsForm st (execGlobalKeyRoll st) := by
  refine .runOn fun _ h => ?_
  split
  · exact h.rollSet.globalExecuted
  · exact h

theorem globalReset {st} : KeepsForm st (execGlobalReset st) := by
  refine .runOn fun _ h => ?_
  dsimp only
  split
  · exact h.globalExecuted.addStartRecord.enterStart
  · exact h

theorem globalProfile {st} : KeepsForm st (execGlobalProfile st) := by
  refine .runOn fun _ h => ?_
  split
  · exact h.setFld.globalExecuted
  · exact h

theorem globalTableMark {st} : KeepsForm st (execGlobalTableMark st) := by
  refine .runOn fun _ h => ?_
  dsimp only
  split
  · exact h.parts.setFldBit.globalExecuted
  · exact h

theorem canFrameReceive {channel frame ticks st} : KeepsForm st (execCanFrameReceive channel frame ticks st) :=
  .runOn fun _ h => h.canReceive

theorem ringNotice {channel st} : KeepsForm st (execRingNotice channel st) :=
  .runOn fun _ h => .ite h.setRing.sendNotice h

theorem rxAckWrite {channel writer value st} : KeepsForm st (execRxAckWrite channel writer value st) :=
  .runBy fun _ h => h.rxAck

theorem txStart {channel keeper ticket variant arg st} :
    KeepsForm st (execTxStart channel keeper ticket variant arg st) :=
  .runOn fun _ h => h.opTxStart

theorem canArbitration {channel st} : KeepsForm st (execCanArbitration channel st) := .runOn fun _ h => h.canArbitrate

theorem canAttemptEnd {channel result st} : KeepsForm st (execCanAttemptEnd channel result st) :=
  .runOn fun _ h => h.canEnd

theorem txExpired {channel st} : KeepsForm st (execTxExpired channel st) := .runOn fun _ h => h.canExpire

theorem recover {channel keeper ticket st} : KeepsForm st (execRecover channel keeper ticket st) :=
  .runOn fun _ h => h.opRecover

theorem recoveryDone {channel st} : KeepsForm st (execRecoveryDone channel st) := .runOn fun _ h => .ite h.canActive h

theorem recoveryTimeout {channel st} : KeepsForm st (execRecoveryTimeout channel st) :=
  .runOn fun _ h => h.setCan.forEach fun _ _ h => h.completeFail

theorem abortPending {channel keeper ticket st} : KeepsForm st (execAbortPending channel keeper ticket st) :=
  .runOn fun _ h => h.opAbortPending

theorem tmReference {channel idle st} : KeepsForm st (execTmReference channel idle st) :=
  .runOn fun _ h => h.tmReference

theorem linHeader {channel keeper ticket arg idle st} :
    KeepsForm st (execLinHeader channel keeper ticket arg idle st) :=
  .runOn fun _ h => h.opLinHeader

theorem linFrameEnd {channel result st} : KeepsForm st (execLinFrameEnd channel result st) := by
  refine .runOn fun _ h => ?_
  split
  · exact h
  · exact h.linEnd

theorem linResponseTimeout {channel received st} : KeepsForm st (execLinResponseTimeout channel received st) := by
  refine .runOn fun _ h => ?_
  dsimp only
  split
  · exact h
  · exact .ite (.ite h.linFail h.linFail) h

theorem linBusShort {short st} : KeepsForm st (execLinBusShort short st) := by
  refine .runOn fun _ h => ?_
  dsimp only
  split
  · exact h
  · split
    · exact h.setFld.event
    · exact h.setFld.event.linFail

theorem linWakeup {channel keeper ticket idle st} : KeepsForm st (execLinWakeup channel keeper ticket idle st) :=
  .runOn fun _ h => h.opLinWakeup

theorem linWakeupDone {channel st} : KeepsForm st (execLinWakeupDone channel st) := by
  refine .runOn fun _ h => ?_
  dsimp only
  split
  · exact h
  · exact .ite h.setLin.completeOk h

theorem linHeaderReceive {channel ident parityOk sync st} :
    KeepsForm st (execLinHeaderReceive channel ident parityOk sync st) := by
  refine .runOn fun s h => .ite h ?_
  extract_lets s₁ s₂ header
  have hs₁ : s₁.Canonical := by
    dsimp only [s₁]
    split
    · exact .ite h.linFail h.linFail
    · exact h
  have hs₂ : s₂.Canonical := hs₁.setFld
  split
  · exact hs₂.ringStore
  · exact hs₂.setLin

theorem linWakeRx {channel micros st} : KeepsForm st (execLinWakeRx channel micros st) :=
  .runOn fun _ h => .ite h.ringStore.event h

theorem serSend {channel keeper ticket arg st} : KeepsForm st (execSerSend channel keeper ticket arg st) :=
  .runOn fun _ h => h.serSend

theorem serAbort {channel keeper ticket st} : KeepsForm st (execSerAbort channel keeper ticket st) :=
  .runOn fun _ h => h.serAbort

theorem serSendStart {channel st} : KeepsForm st (execSerSendStart channel st) := by
  refine .runOn fun _ h => ?_
  dsimp only
  split
  · exact h
  · exact .ite h.setSer h

theorem serSendEnd {channel st} : KeepsForm st (execSerSendEnd channel st) := by
  refine .runOn fun _ h => ?_
  dsimp only
  split
  · exact h
  · exact .ite h (.ite h.setSer.event.count.completeFail (.ite h.setSer.completeOk h))

theorem serBusyExpired {channel st} : KeepsForm st (execSerBusyExpired channel st) :=
  .runOn fun _ h => h.setSer.forEach fun _ _ h => h.completeFail

theorem serCharReceive {channel value parityBad framingBad heldTicks st} :
    KeepsForm st (execSerCharReceive channel value parityBad framingBad heldTicks st) := by
  refine .runOn fun _ h => ?_
  dsimp only
  split
  · exact h.serReadBack
  · exact .ite h.serReceive h

theorem serPacketEnd {channel st} : KeepsForm st (execSerPacketEnd channel st) := by
  refine .runOn fun _ h => ?_
  dsimp only
  split
  · exact .ite h.serStore h
  · exact h

theorem trxWatchdogServe {channel st} : KeepsForm st (execTrxWatchdogServe channel st) :=
  .run fun _ h => .ite h (h.setSleep.setFallback.when (fun _ h => h.canActive))

theorem trxFallback {channel st} : KeepsForm st (execTrxFallback channel st) :=
  .run fun _ h => .ite h h.setFallback.count

theorem fallbackWake {channel seen st} : KeepsForm st (execFallbackWake channel seen st) :=
  .run fun _ h => .ite (.ite h.canSees.setFldBit h.canSees) h

theorem drainEnd {st} : KeepsForm st (execDrainEnd st) := .run fun _ h => .ite h.setSleep h

theorem commitPoint {st} : KeepsForm st (execCommitPoint st) := .run fun _ h => .ite h.commitSleep h

theorem sleepEntryComplete {st} : KeepsForm st (execSleepEntryComplete st) :=
  .run fun _ h => .ite h.abortCommands.setState.setFld.setSleep.loseDram.parts h

theorem inputWake {input level st} : KeepsForm st (execInputWake input level st) :=
  .run fun _ h => .ite h (.ite h.wakeRearm (.ite h.wake h))

theorem wakePoll {input millivolts st} : KeepsForm st (execWakePoll input millivolts st) :=
  .run fun _ h => .ite h (.ite (.ite h.setSleep.setSleep.wake h.setSleep.setSleep) h.setSleep.wakeRearm.setSleep)

theorem canWake {channel seen st} : KeepsForm st (execCanWake channel seen st) :=
  .run fun _ h => .ite h (.ite h.canSees.wake h.canSees)

theorem ethWake {port st} : KeepsForm st (execEthWake port st) := .run fun _ h => .ite h.wake h

theorem wakeTimer {st} : KeepsForm st (execWakeTimer st) := by
  refine .run fun _ h => ?_
  split
  · exact .ite h.setSleep.wake h
  · exact h

theorem wakeStart {st} : KeepsForm st (execWakeStart st) :=
  .run fun _ h => .ite (h.count.setSleep.enterStart.when (fun _ h => h.wokeCan)) h

theorem awakeLimit {st} : KeepsForm st (execAwakeLimit st) :=
  .run fun _ h => .ite h.event.count.sleepNotice.beginSleep h

theorem keepAwake {writer st} : KeepsForm st (execKeepAwake writer st) := .runBy fun _ h => .ite h.keepAwake h

theorem falseWakeCheck {st} : KeepsForm st (execFalseWakeCheck st) := by
  refine .run fun _ h => ?_
  dsimp only
  split
  · exact .ite (h.setSleep.when (fun _ h => h.event.count)) h
  · exact h

theorem dualpassLeg {core mode native inverted checks st} :
    KeepsForm st (execDualpassLeg core mode native inverted checks st) :=
  .runFw fun _ h => h.leg

theorem legRerun {core mode native inverted checks st} :
    KeepsForm st (execLegRerun core mode native inverted checks st) :=
  .runFw fun _ h => h.legRerun

theorem accessLeg {core mode access addr inverted size flip nextPc st} :
    KeepsForm st (execAccessLeg core mode access addr inverted size flip nextPc st) :=
  .runFw fun _ h => h.accessLeg

theorem comparatorSelftest {core ok st} : KeepsForm st (execComparatorSelftest core ok st) :=
  .runFw fun _ h => .ite h (.ite h.setCore h.setCore.checkerFailure)

theorem debugAttach {st} : KeepsForm st (execDebugAttach st) := .runOn fun _ h => h.debugAttach

theorem zdpClrCounts {core mode value st} : KeepsForm st (execZdpClrCounts core mode value st) :=
  .runFw fun _ h => h.zdpCsr

theorem zdpInjectArm {core mode value st} : KeepsForm st (execZdpInjectArm core mode value st) :=
  .runFw fun _ h => h.zdpCsr

theorem xzmrWrite {safety hart csr mode value st} : KeepsForm st (execXzmrWrite safety hart csr mode value st) :=
  .runFw fun _ h => .ite h.safetyCsrOp h.appCsrOp

theorem worldSwitch {hart world st} : KeepsForm st (execWorldSwitch hart world st) := .runFw fun _ h => h.switchWorld

theorem memoryAccess {initiator kind addr size data st} :
    KeepsForm st (execMemoryAccess initiator kind addr size data st) := by
  refine .runFw fun _ h => ?_
  dsimp only
  split
  · exact h
  · split
    · exact h.appHartAccess
    · exact h.safetyHartAccess

theorem dmaTranslate {master src addr write walkUe st} :
    KeepsForm st (execDmaTranslate master src addr write walkUe st) := by
  refine .runFw fun _ h => ?_
  dsimp only
  split
  · exact h.translate.parts
  · exact h.translate.parts

theorem tuFaultPop {writer st} : KeepsForm st (execTuFaultPop writer st) := .runBy fun _ h => .ite h.tuPop h

theorem invalAll {writer st} : KeepsForm st (execInvalAll writer st) := .runBy fun _ h => .ite h.invalidate h

theorem invalMooring {writer target st} : KeepsForm st (execInvalMooring writer target st) :=
  .runBy fun _ h => .ite h.invalidate h

theorem invalPage {writer target st} : KeepsForm st (execInvalPage writer target st) :=
  .runBy fun _ h => .ite h.invalidate h

theorem invalDone {st} : KeepsForm st (execInvalDone st) := by
  refine .runOn fun _ h => ?_
  dsimp only
  split
  · exact h
  · exact h.setTu

theorem fwGrant {src args st} : KeepsForm st (execFwGrant src args st) := .runFw fun _ h => h.fwGrant

theorem fwRelease {src args st} : KeepsForm st (execFwRelease src args st) := .runFw fun _ h => h.fwGrant

theorem fwTableGrant {src args st} : KeepsForm st (execFwTableGrant src args st) := .runFw fun _ h => h.fwGrant

theorem grantQuiesceEnd {st} : KeepsForm st (execGrantQuiesceEnd st) := .runOn fun _ h => h.quiesceEnd

theorem grantTimeout {st} : KeepsForm st (execGrantTimeout st) := .runOn fun _ h => h.grantTimeout

theorem queuePairEnable {src pair value st} : KeepsForm st (execQueuePairEnable src pair value st) :=
  .runFw fun _ h => h.ringCfgWrite

theorem swdtKick {src st} : KeepsForm st (execSwdtKick src st) := .runFw fun _ h => h.swdtKick

theorem secureReady {src st} : KeepsForm st (execSecureReady src st) := .runFw fun _ h => h.secureReady

theorem swdtExpiry {st} : KeepsForm st (execSwdtExpiry st) := .runOn fun _ h => h.swdtExpiry

theorem secureReadyTimeout {st} : KeepsForm st (execSecureReadyTimeout st) := .runOn fun _ h => h.readyTimeout

theorem gateRun {world block st} : KeepsForm st (execGateRun world block st) := .runFw fun _ h => h.gateReq

theorem gateClockOff {world block st} : KeepsForm st (execGateClockOff world block st) := .runFw fun _ h => h.gateReq

theorem gatePowerOff {world block st} : KeepsForm st (execGatePowerOff world block st) := .runFw fun _ h => h.gateReq

theorem gateChangeDone {block st} : KeepsForm st (execGateChangeDone block st) :=
  .runOn fun _ h => .ite h.gateDone.endJobs h.gateDone

theorem holdSet {world mask st} : KeepsForm st (execHoldSet world mask st) := .runFw fun _ h => h.secureHoldWrite

theorem holdClr {world mask st} : KeepsForm st (execHoldClr world mask st) := .runFw fun _ h => h.secureHoldWrite

theorem hingeForward {hinge inbound posted arrival st} :
    KeepsForm st (execHingeForward hinge inbound posted arrival st) := by
  refine .runOn fun _ h => ?_
  dsimp only
  split
  · refine .forwardWrite ?_
    split
    · exact .ite h.pcieArrival h
    · exact h
  · refine .forwardRead ?_
    split
    · exact .ite h.pcieArrival h
    · exact h

theorem hingeCompletion {hinge inbound tag late code data lines st} :
    KeepsForm st (execHingeCompletion hinge inbound tag late code data lines st) :=
  .runOn fun _ h => h.completion

theorem cplTimeout {hinge inbound tag st} : KeepsForm st (execCplTimeout hinge inbound tag st) :=
  .runOn fun _ h => h.cplTimeout

theorem h0LinkDown {st} : KeepsForm st (execH0LinkDown st) := .runOn fun _ h => h.linkDown

theorem h0LinkUp {speed width st} : KeepsForm st (execH0LinkUp speed width st) := .runOn fun _ h => h.linkUp

theorem intxMessage {st} : KeepsForm st (execIntxMessage st) := .runOn fun _ h => .ite h.count h

theorem errPop {writer hinge st} : KeepsForm st (execErrPop writer hinge st) := .runBy fun _ h => h.writeOne

theorem discPop {writer hinge st} : KeepsForm st (execDiscPop writer hinge st) := .runBy fun _ h => h.writeOne

theorem prefetchAged {hinge inbound line st} : KeepsForm st (execPrefetchAged hinge inbound line st) :=
  .runOn fun _ h => h.forEach fun _ _ h => h.discardLine

theorem copyStart {src st} : KeepsForm st (execCopyStart src st) := .runFw fun _ h => h.writeOne

theorem copyEnd {st} : KeepsForm st (execCopyEnd st) := .runOn fun _ h => h.copyRun

theorem logFrameIntake {st} : KeepsForm st (execLogFrameIntake st) := .runOn fun _ h => h.frameIntake

theorem postCommit {stream src length st} : KeepsForm st (execPostCommit stream src length st) :=
  .runFw fun _ h => h.postCommit

theorem postTaken {stream st} : KeepsForm st (execPostTaken stream st) := .runOn fun _ h => h.postTaken

theorem moduleRecord {st} : KeepsForm st (execModuleRecord st) := .runOn fun _ h => h.moduleRecord

theorem recordHash {stream st} : KeepsForm st (execRecordHash stream st) := .runOn fun _ h => h.hashNext

theorem segmentTimeClose {stream st} : KeepsForm st (execSegmentTimeClose stream st) := by
  refine .runOn fun _ h => ?_
  split
  · exact h
  · exact .ite h.closeSegment h

theorem nvmeSubmit {st} : KeepsForm st (execNvmeSubmit st) := .runOn fun _ h => h.nvmeSubmit

theorem nvmeCompletion {id status st} : KeepsForm st (execNvmeCompletion id status st) :=
  .runOn fun _ h => h.nvmeCompletion

theorem storeResume {writer st} : KeepsForm st (execStoreResume writer st) := .runBy fun _ h => .ite h.storeResume h

theorem freezeRelease {writer mask st} : KeepsForm st (execFreezeRelease writer mask st) :=
  .runBy fun _ h => .ite h.freezeRelease h

theorem gcmEncrypt {win src flags st} : KeepsForm st (execGcmEncrypt win src flags st) := .runFw fun _ h => h.opWrite

theorem gcmDecrypt {win src flags st} : KeepsForm st (execGcmDecrypt win src flags st) := .runFw fun _ h => h.opWrite

theorem macGen {win src flags st} : KeepsForm st (execMacGen win src flags st) := .runFw fun _ h => h.opWrite

theorem macVerify {win src flags st} : KeepsForm st (execMacVerify win src flags st) := .runFw fun _ h => h.opWrite

theorem sign {win src flags st} : KeepsForm st (execSign win src flags st) := .runFw fun _ h => h.opWrite

theorem verify {win src flags st} : KeepsForm st (execVerify win src flags st) := .runFw fun _ h => h.opWrite

theorem hash {win src flags st} : KeepsForm st (execHash win src flags st) := .runFw fun _ h => h.opWrite

theorem keyWrite {win src flags st} : KeepsForm st (execKeyWrite win src flags st) := .runFw fun _ h => h.opWrite

theorem derive {win src flags st} : KeepsForm st (execDerive win src flags st) := .runFw fun _ h => h.opWrite

theorem keyClear {win src flags st} : KeepsForm st (execKeyClear win src flags st) := .runFw fun _ h => h.opWrite

theorem wrap {win src flags st} : KeepsForm st (execWrap win src flags st) := .runFw fun _ h => h.opWrite

theorem unwrap {win src flags st} : KeepsForm st (execUnwrap win src flags st) := .runFw fun _ h => h.opWrite

theorem attest {win src flags st} : KeepsForm st (execAttest win src flags st) := .runFw fun _ h => h.opWrite

theorem jobBegin {st} : KeepsForm st (execJobBegin st) := .runOn fun _ h => h.jobBegin

theorem jobComplete {st} : KeepsForm st (execJobComplete st) := .runOn fun _ h => h.jobComplete

theorem keyringRecordWrite {st} : KeepsForm st (execKeyringRecordWrite st) := by
  refine .runOn fun _ h => ?_
  dsimp only
  split
  · exact h
  · split
    · exact h.recordWrite
    · exact h.recordWrite.setKeyring.answer.parts

theorem lcToFactory {writer testPort st} : KeepsForm st (execLcToFactory writer testPort st) :=
  .runLc fun _ h => h.lcRequest

theorem lcToField {writer testPort st} : KeepsForm st (execLcToField writer testPort st) :=
  .runLc fun _ h => h.lcRequest

theorem lcToReturn {writer testPort st} : KeepsForm st (execLcToReturn writer testPort st) :=
  .runLc fun _ h => h.lcRequest

theorem lcToScrap {writer testPort st} : KeepsForm st (execLcToScrap writer testPort st) :=
  .runLc fun _ h => h.lcRequest

theorem lcAdvanceDone {verified st} : KeepsForm st (execLcAdvanceDone verified st) := by
  refine .run fun _ h => ?_
  dsimp only
  split
  · exact h
  · exact .ite h (h.parts.when (fun _ h => h.lcRefuse)).enterStart

theorem debugOpenApp {writer st} : KeepsForm st (execDebugOpenApp writer st) := .runBy fun _ h => .ite h.setFld h

theorem debugOpenSafety {writer st} : KeepsForm st (execDebugOpenSafety writer st) :=
  .runBy fun _ h => .ite h.setFld h

theorem faultReport {toA toB st} : KeepsForm st (execFaultReport toA toB st) := by
  refine .runOn fun _ h => ?_
  dsimp only
  split
  · exact h
  · exact .ite (.ite h.setSafety.takeReport.startFail h.setSafety.takeReport) h.setSafety

theorem laneCompare {st} : KeepsForm st (execLaneCompare st) :=
  .runOn fun _ h => h.paced fun _ h => .ite (.ite h.setSafety.setFld.report h.setSafety) h.setSafety

theorem demandRelease {writer st} : KeepsForm st (execDemandRelease writer st) :=
  .runBy fun _ h => .ite h.demandRelease h

theorem safetyReset {st} : KeepsForm st (execSafetyReset st) := by
  refine .run fun _ h => ?_
  dsimp only
  split
  · exact .ite h.addStartRecord.enterStart h
  · exact h

theorem monitorFence {keeper st} : KeepsForm st (execMonitorFence keeper st) := by
  refine .runOn fun _ h => ?_
  split
  · exact .ite h.setVerdict.fence.count h
  · exact h

theorem alarmPeriod {lane st} : KeepsForm st (execAlarmPeriod lane st) :=
  .runOn fun _ h => h.paced fun _ h => .ite h h.setFld.setFld.setFld.setAlarm

theorem alarmTest {writer lane st} : KeepsForm st (execAlarmTest writer lane st) :=
  .runBy fun _ h => .ite h.alarmTest h

theorem alarmTestEnd {lane st} : KeepsForm st (execAlarmTestEnd lane st) := by
  refine .runOn fun _ h => ?_
  dsimp only
  split
  · exact .ite h.setAlarm.setFld.event.count h
  · exact h

theorem alarmReadbackCheck {lane pinHigh st} : KeepsForm st (execAlarmReadbackCheck lane pinHigh st) :=
  .runOn fun _ h =>
    h.paced fun _ h =>
      .ite (.ite h.setAlarm.count.setFld.event.report h.setAlarm.count) (.ite h.setAlarm.setFld h.setAlarm)

theorem safeLogPop {writer st} : KeepsForm st (execSafeLogPop writer st) := .runBy fun _ h => .ite h.logPop h

theorem scrubRead {target ecc progress st} : KeepsForm st (execScrubRead target ecc progress st) := by
  refine .run fun _ h => ?_
  dsimp only
  split
  · exact h
  · split
    · exact (h.when (fun _ h => h.count)).setFld
    · split
      · exact (h.when (fun _ h => h.count)).setFld.count.count
      · exact (h.when (fun _ h => h.count)).setFld.count.count
      · exact (h.when (fun _ h => h.count)).setFld.count
    · split
      · exact (h.when (fun _ h => h.count)).setFld.count.selfCheck
      · exact (h.when (fun _ h => h.count)).setFld.count.selfCheck
      · exact (h.when (fun _ h => h.count)).setFld.count.report
      · exact (h.when (fun _ h => h.count)).setFld.count.report

theorem windowConfirm {block st} : KeepsForm st (execWindowConfirm block st) :=
  .run fun _ h =>
    .ite h (.ite (h.setStart.when (fun _ h => h.setPhase)).setPhase.setFld (h.setStart.when (fun _ h => h.setPhase)))

theorem windowTimeout {domain st} : KeepsForm st (execWindowTimeout domain st) :=
  .run fun _ h => .ite h (h.when (fun _ h => h.setPhase)).startFail

theorem bistWindowAbort {block st} : KeepsForm st (execBistWindowAbort block st) :=
  .run fun _ h => .ite h.setStart.count.bistResult h

theorem bistDone {results st} : KeepsForm st (execBistDone results st) := .run fun _ h => .ite h.judgeBist h

theorem bootRomDone {record image st} : KeepsForm st (execBootRomDone record image st) :=
  .run fun _ h => .ite h (.ite h.bootKeys h.bootKeys.setStart.setPhase)

theorem lsVerdict {st} : KeepsForm st (execLsVerdict st) := by
  refine .run fun _ h => ?_
  split
  · exact h
  · split
    · exact h.loadLightship.setPhase
    · exact h.startFail
    · exact h.startFail

theorem bootImagesVerified {header secure safety st} :
    KeepsForm st (execBootImagesVerified header secure safety st) := by
  refine .run fun _ h => ?_
  dsimp only
  split
  · exact h
  · split
    · exact h.startFail
    · exact .ite h.releaseClusters.setPhase h.releaseClusters

theorem serviceTableVerdict {image st} : KeepsForm st (execServiceTableVerdict image st) := by
  refine .run fun _ h => ?_
  split
  · exact h
  · split
    · exact h.startFail
    · split
      · exact h.startFail
      · exact h.loadHealthy.setPhase

theorem safetyReady {writer st} : KeepsForm st (execSafetyReady writer st) := .runBy fun _ h => .ite h.setFld h

theorem startComplete {st} : KeepsForm st (execStartComplete st) := .run fun _ h => .ite h.enterService h

theorem startDeadline {st} : KeepsForm st (execStartDeadline st) := .run fun _ h => .ite h.startFail h

theorem startReport {st} : KeepsForm st (execStartReport st) := by
  refine .runOn fun _ h => ?_
  split
  · exact .ite h.sendReport h
  · exact h

theorem lsRaiseFloor {writer st} : KeepsForm st (execLsRaiseFloor writer st) :=
  .runBy fun _ h => .ite h.lsRaiseFloor h

theorem lifeTimeSave {st} : KeepsForm st (execLifeTimeSave st) := .run fun _ h => .ite h.setStart h

theorem logicBistStart {writer block failure st} : KeepsForm st (execLogicBistStart writer block failure st) :=
  .runBy fun _ h => .ite h h.bistErases.count.logicBist

theorem memoryBistStart {writer block runs st} : KeepsForm st (execMemoryBistStart writer block runs st) :=
  .runBy fun _ h => .ite h h.count.memoryBist.bistErases

theorem repairProg {writer good st} : KeepsForm st (execRepairProg writer good st) :=
  .runBy fun _ h => .ite h (.ite h.setFld (.ite h.setFld (.ite h.setFld (.ite h.setFld h.parts.setFld))))

theorem malformedCommand {_fault st} : KeepsForm st (execMalformedCommand _fault st) :=
  .run fun _ h => h.when fun _ h => h.count

theorem generatorEdge {gen st} : KeepsForm st (execGeneratorEdge gen st) := .runOn fun _ h => h.refreshFollowers

theorem frameTransmitEnd {port st} : KeepsForm st (execFrameTransmitEnd port st) := by
  refine .runOn fun _ h => ?_
  split
  · exact h
  · exact .ite h.endTx h

theorem canReceiveError {channel flag st} : KeepsForm st (execCanReceiveError channel flag st) :=
  .runOn fun _ h => .ite h.canErrors h

theorem sqiLow {port sqi st} : KeepsForm st (execSqiLow port sqi st) := .runOn fun _ h => .ite h.setFld.event h.setFld

end KeepsForm

theorem exec_keepsForm (c : Instr) (st : State) : KeepsForm st (exec c st) :=
  match c with
  | .registerWrite .. => KeepsForm.registerWrite
  | .rcRead .. => KeepsForm.rcRead
  | .pageLock .. => KeepsForm.pageLock
  | .dcqPacketWrite .. => KeepsForm.dcqPacketWrite
  | .dcqWordRead .. => KeepsForm.dcqWordRead
  | .dcqClockStop .. => KeepsForm.dcqClockStop
  | .clockMonitorWindow .. => KeepsForm.clockMonitorWindow
  | .startNotice .. => KeepsForm.startNotice
  | .startNoticeRepeat .. => KeepsForm.startNoticeRepeat
  | .getStatus .. => KeepsForm.getStatus
  | .reset .. => KeepsForm.reset
  | .bindSupervisor .. => KeepsForm.bindSupervisor
  | .setProfile .. => KeepsForm.setProfile
  | .loadTable .. => KeepsForm.loadTable
  | .commitTable .. => KeepsForm.commitTable
  | .rollbackTable .. => KeepsForm.rollbackTable
  | .watchChange .. => KeepsForm.watchChange
  | .sleepRequest .. => KeepsForm.sleepRequest
  | .scheduleGlobal .. => KeepsForm.scheduleGlobal
  | .cancelGlobal .. => KeepsForm.cancelGlobal
  | .forceTimeStep .. => KeepsForm.forceTimeStep
  | .grantResource .. => KeepsForm.grantResource
  | .keyRoll .. => KeepsForm.keyRoll
  | .logFreeze .. => KeepsForm.logFreeze
  | .readStartReasons .. => KeepsForm.readStartReasons
  | .clearStartCount .. => KeepsForm.clearStartCount
  | .exitLightship .. => KeepsForm.exitLightship
  | .enterTest .. => KeepsForm.enterTest
  | .exitTest .. => KeepsForm.exitTest
  | .powerUp .. => KeepsForm.powerUp
  | .orderlyReset .. => KeepsForm.orderlyReset
  | .crankHoldEntry .. => KeepsForm.crankHoldEntry
  | .crankHoldExit .. => KeepsForm.crankHoldExit
  | .crankAccClear .. => KeepsForm.crankAccClear
  | .crankLimit .. => KeepsForm.crankLimit
  | .surgeEntry .. => KeepsForm.surgeEntry
  | .surgeLong .. => KeepsForm.surgeLong
  | .surgeExit .. => KeepsForm.surgeExit
  | .feedLost .. => KeepsForm.feedLost
  | .reverseEntry .. => KeepsForm.reverseEntry
  | .feedReturn .. => KeepsForm.feedReturn
  | .gndLost .. => KeepsForm.gndLost
  | .gndRestored .. => KeepsForm.gndRestored
  | .feedOverload .. => KeepsForm.feedOverload
  | .inputSample .. => KeepsForm.inputSample
  | .inputLevelChange .. => KeepsForm.inputLevelChange
  | .captureRise .. => KeepsForm.captureRise
  | .captureFall .. => KeepsForm.captureFall
  | .captureTimeout .. => KeepsForm.captureTimeout
  | .inCfgWrite .. => KeepsForm.inCfgWrite
  | .inThreshWrite .. => KeepsForm.inThreshWrite
  | .thermalSample .. => KeepsForm.thermalSample
  | .opAdd .. => KeepsForm.opAdd
  | .opSub .. => KeepsForm.opSub
  | .opAnd .. => KeepsForm.opAnd
  | .opOr .. => KeepsForm.opOr
  | .opXor .. => KeepsForm.opXor
  | .opShl .. => KeepsForm.opShl
  | .opShr .. => KeepsForm.opShr
  | .opSra .. => KeepsForm.opSra
  | .opMul .. => KeepsForm.opMul
  | .opMulh .. => KeepsForm.opMulh
  | .opMin .. => KeepsForm.opMin
  | .opMax .. => KeepsForm.opMax
  | .opSat .. => KeepsForm.opSat
  | .opAddi .. => KeepsForm.opAddi
  | .opAndi .. => KeepsForm.opAndi
  | .opOri .. => KeepsForm.opOri
  | .opXori .. => KeepsForm.opXori
  | .opLui .. => KeepsForm.opLui
  | .opCmpi .. => KeepsForm.opCmpi
  | .opCmp .. => KeepsForm.opCmp
  | .opTst .. => KeepsForm.opTst
  | .opSkip .. => KeepsForm.opSkip
  | .opLdc .. => KeepsForm.opLdc
  | .opStc .. => KeepsForm.opStc
  | .opLdcx .. => KeepsForm.opLdcx
  | .opStcx .. => KeepsForm.opStcx
  | .opMirr .. => KeepsForm.opMirr
  | .opCrd .. => KeepsForm.opCrd
  | .opCwr .. => KeepsForm.opCwr
  | .opCwrSet .. => KeepsForm.opCwrSet
  | .opCwrClr .. => KeepsForm.opCwrClr
  | .opCwrTgl .. => KeepsForm.opCwrTgl
  | .opCop .. => KeepsForm.opCop
  | .opChkt .. => KeepsForm.opChkt
  | .opTkr .. => KeepsForm.opTkr
  | .opCrdx .. => KeepsForm.opCrdx
  | .opCwrx .. => KeepsForm.opCwrx
  | .opQpop .. => KeepsForm.opQpop
  | .opQpush .. => KeepsForm.opQpush
  | .opQlen .. => KeepsForm.opQlen
  | .opTnow .. => KeepsForm.opTnow
  | .opTsec .. => KeepsForm.opTsec
  | .opTslot .. => KeepsForm.opTslot
  | .opEvt .. => KeepsForm.opEvt
  | .opFlt .. => KeepsForm.opFlt
  | .opNop .. => KeepsForm.opNop
  | .opEnd .. => KeepsForm.opEnd
  | .ecallAbsent .. => KeepsForm.ecallAbsent
  | .budgetOverrun .. => KeepsForm.budgetOverrun
  | .selfCheckFailure .. => KeepsForm.selfCheckFailure
  | .ticketCompletion .. => KeepsForm.ticketCompletion
  | .ticketTimeout .. => KeepsForm.ticketTimeout
  | .slotMark .. => KeepsForm.slotMark
  | .roundBoundary .. => KeepsForm.roundBoundary
  | .requestPost .. => KeepsForm.requestPost
  | .frameTimeout .. => KeepsForm.frameTimeout
  | .eventPop .. => KeepsForm.eventPop
  | .eventQueueNotice .. => KeepsForm.eventQueueNotice
  | .loaderVerdict .. => KeepsForm.loaderVerdict
  | .beaconReceive .. => KeepsForm.beaconReceive
  | .localMark .. => KeepsForm.localMark
  | .fenceConfirm .. => KeepsForm.fenceConfirm
  | .hardIsolation .. => KeepsForm.hardIsolation
  | .stageSilent .. => KeepsForm.stageSilent
  | .mirrorFrameReceive .. => KeepsForm.mirrorFrameReceive
  | .chCtrlWrite .. => KeepsForm.chCtrlWrite
  | .fastTrip .. => KeepsForm.fastTrip
  | .warmupTripTaken .. => KeepsForm.warmupTripTaken
  | .softLimitTick .. => KeepsForm.softLimitTick
  | .junctionSample .. => KeepsForm.junctionSample
  | .spacingEnd .. => KeepsForm.spacingEnd
  | .windowEnd .. => KeepsForm.windowEnd
  | .refill .. => KeepsForm.refill
  | .reverseGapEnd .. => KeepsForm.reverseGapEnd
  | .feedSag .. => KeepsForm.feedSag
  | .openLoadFilter .. => KeepsForm.openLoadFilter
  | .switchFaultDetect .. => KeepsForm.switchFaultDetect
  | .clearRetry .. => KeepsForm.clearRetry
  | .offDiag .. => KeepsForm.offDiag
  | .offDiagDone .. => KeepsForm.offDiagDone
  | .snapshot .. => KeepsForm.snapshot
  | .generatorBoundary .. => KeepsForm.generatorBoundary
  | .followBoundary .. => KeepsForm.followBoundary
  | .charStagedWrite .. => KeepsForm.charStagedWrite
  | .stageHoldWrite .. => KeepsForm.stageHoldWrite
  | .calEdge .. => KeepsForm.calEdge
  | .calStale .. => KeepsForm.calStale
  | .calRestart .. => KeepsForm.calRestart
  | .calRecordWrite .. => KeepsForm.calRecordWrite
  | .balanceEval .. => KeepsForm.balanceEval
  | .ringUpdate .. => KeepsForm.ringUpdate
  | .ringRestart .. => KeepsForm.ringRestart
  | .frameReceive .. => KeepsForm.frameReceive
  | .losslessAdmit .. => KeepsForm.losslessAdmit
  | .hostTxFetch .. => KeepsForm.hostTxFetch
  | .hostRxDeliver .. => KeepsForm.hostRxDeliver
  | .doorbell .. => KeepsForm.doorbell
  | .crossbarSchedule .. => KeepsForm.crossbarSchedule
  | .frameTransmitStart .. => KeepsForm.frameTransmitStart
  | .gateEntryChange .. => KeepsForm.gateEntryChange
  | .gateCommit .. => KeepsForm.gateCommit
  | .streamGateChange .. => KeepsForm.streamGateChange
  | .ageCheck .. => KeepsForm.ageCheck
  | .linkDown .. => KeepsForm.linkDown
  | .linkUp .. => KeepsForm.linkUp
  | .holdExpiry .. => KeepsForm.holdExpiry
  | .tableWrite .. => KeepsForm.tableWrite
  | .tableRead .. => KeepsForm.tableRead
  | .tableClear .. => KeepsForm.tableClear
  | .acfSend .. => KeepsForm.acfSend
  | .acfTake .. => KeepsForm.acfTake
  | .counterRead .. => KeepsForm.counterRead
  | .saInstall .. => KeepsForm.saInstall
  | .frerResetTimeout .. => KeepsForm.frerResetTimeout
  | .servoMeasurement .. => KeepsForm.servoMeasurement
  | .sourceLost .. => KeepsForm.sourceLost
  | .ptpMessageReceive .. => KeepsForm.ptpMessageReceive
  | .ptpTransmit .. => KeepsForm.ptpTransmit
  | .ppsEdge .. => KeepsForm.ppsEdge
  | .ppsLost .. => KeepsForm.ppsLost
  | .integrityCheck .. => KeepsForm.integrityCheck
  | .tsqPop .. => KeepsForm.tsqPop
  | .timeSnap .. => KeepsForm.timeSnap
  | .servoSourceWrite .. => KeepsForm.servoSourceWrite
  | .forceStepTimeout .. => KeepsForm.forceStepTimeout
  | .globalLogSnapshot .. => KeepsForm.globalLogSnapshot
  | .globalKeyRoll .. => KeepsForm.globalKeyRoll
  | .globalReset .. => KeepsForm.globalReset
  | .globalProfile .. => KeepsForm.globalProfile
  | .globalTableMark .. => KeepsForm.globalTableMark
  | .canFrameReceive .. => KeepsForm.canFrameReceive
  | .ringNotice .. => KeepsForm.ringNotice
  | .rxAckWrite .. => KeepsForm.rxAckWrite
  | .txStart .. => KeepsForm.txStart
  | .canArbitration .. => KeepsForm.canArbitration
  | .canAttemptEnd .. => KeepsForm.canAttemptEnd
  | .txExpired .. => KeepsForm.txExpired
  | .recover .. => KeepsForm.recover
  | .recoveryDone .. => KeepsForm.recoveryDone
  | .recoveryTimeout .. => KeepsForm.recoveryTimeout
  | .abortPending .. => KeepsForm.abortPending
  | .tmReference .. => KeepsForm.tmReference
  | .linHeader .. => KeepsForm.linHeader
  | .linFrameEnd .. => KeepsForm.linFrameEnd
  | .linResponseTimeout .. => KeepsForm.linResponseTimeout
  | .linBusShort .. => KeepsForm.linBusShort
  | .linWakeup .. => KeepsForm.linWakeup
  | .linWakeupDone .. => KeepsForm.linWakeupDone
  | .linHeaderReceive .. => KeepsForm.linHeaderReceive
  | .linWakeRx .. => KeepsForm.linWakeRx
  | .serSend .. => KeepsForm.serSend
  | .serAbort .. => KeepsForm.serAbort
  | .serSendStart .. => KeepsForm.serSendStart
  | .serSendEnd .. => KeepsForm.serSendEnd
  | .serBusyExpired .. => KeepsForm.serBusyExpired
  | .serCharReceive .. => KeepsForm.serCharReceive
  | .serPacketEnd .. => KeepsForm.serPacketEnd
  | .trxWatchdogServe .. => KeepsForm.trxWatchdogServe
  | .trxFallback .. => KeepsForm.trxFallback
  | .fallbackWake .. => KeepsForm.fallbackWake
  | .drainEnd .. => KeepsForm.drainEnd
  | .commitPoint .. => KeepsForm.commitPoint
  | .sleepEntryComplete .. => KeepsForm.sleepEntryComplete
  | .inputWake .. => KeepsForm.inputWake
  | .wakePoll .. => KeepsForm.wakePoll
  | .canWake .. => KeepsForm.canWake
  | .ethWake .. => KeepsForm.ethWake
  | .wakeTimer .. => KeepsForm.wakeTimer
  | .wakeStart .. => KeepsForm.wakeStart
  | .awakeLimit .. => KeepsForm.awakeLimit
  | .keepAwake .. => KeepsForm.keepAwake
  | .falseWakeCheck .. => KeepsForm.falseWakeCheck
  | .dualpassLeg .. => KeepsForm.dualpassLeg
  | .legRerun .. => KeepsForm.legRerun
  | .accessLeg .. => KeepsForm.accessLeg
  | .comparatorSelftest .. => KeepsForm.comparatorSelftest
  | .debugAttach .. => KeepsForm.debugAttach
  | .zdpClrCounts .. => KeepsForm.zdpClrCounts
  | .zdpInjectArm .. => KeepsForm.zdpInjectArm
  | .xzmrWrite .. => KeepsForm.xzmrWrite
  | .worldSwitch .. => KeepsForm.worldSwitch
  | .memoryAccess .. => KeepsForm.memoryAccess
  | .dmaTranslate .. => KeepsForm.dmaTranslate
  | .tuFaultPop .. => KeepsForm.tuFaultPop
  | .invalAll .. => KeepsForm.invalAll
  | .invalMooring .. => KeepsForm.invalMooring
  | .invalPage .. => KeepsForm.invalPage
  | .invalDone .. => KeepsForm.invalDone
  | .fwGrant .. => KeepsForm.fwGrant
  | .fwRelease .. => KeepsForm.fwRelease
  | .fwTableGrant .. => KeepsForm.fwTableGrant
  | .grantQuiesceEnd .. => KeepsForm.grantQuiesceEnd
  | .grantTimeout .. => KeepsForm.grantTimeout
  | .queuePairEnable .. => KeepsForm.queuePairEnable
  | .swdtKick .. => KeepsForm.swdtKick
  | .secureReady .. => KeepsForm.secureReady
  | .swdtExpiry .. => KeepsForm.swdtExpiry
  | .secureReadyTimeout .. => KeepsForm.secureReadyTimeout
  | .gateRun .. => KeepsForm.gateRun
  | .gateClockOff .. => KeepsForm.gateClockOff
  | .gatePowerOff .. => KeepsForm.gatePowerOff
  | .gateChangeDone .. => KeepsForm.gateChangeDone
  | .holdSet .. => KeepsForm.holdSet
  | .holdClr .. => KeepsForm.holdClr
  | .hingeForward .. => KeepsForm.hingeForward
  | .hingeCompletion .. => KeepsForm.hingeCompletion
  | .cplTimeout .. => KeepsForm.cplTimeout
  | .h0LinkDown .. => KeepsForm.h0LinkDown
  | .h0LinkUp .. => KeepsForm.h0LinkUp
  | .intxMessage .. => KeepsForm.intxMessage
  | .errPop .. => KeepsForm.errPop
  | .discPop .. => KeepsForm.discPop
  | .prefetchAged .. => KeepsForm.prefetchAged
  | .copyStart .. => KeepsForm.copyStart
  | .copyEnd .. => KeepsForm.copyEnd
  | .logFrameIntake .. => KeepsForm.logFrameIntake
  | .postCommit .. => KeepsForm.postCommit
  | .postTaken .. => KeepsForm.postTaken
  | .moduleRecord .. => KeepsForm.moduleRecord
  | .recordHash .. => KeepsForm.recordHash
  | .segmentTimeClose .. => KeepsForm.segmentTimeClose
  | .nvmeSubmit .. => KeepsForm.nvmeSubmit
  | .nvmeCompletion .. => KeepsForm.nvmeCompletion
  | .storeResume .. => KeepsForm.storeResume
  | .freezeRelease .. => KeepsForm.freezeRelease
  | .gcmEncrypt .. => KeepsForm.gcmEncrypt
  | .gcmDecrypt .. => KeepsForm.gcmDecrypt
  | .macGen .. => KeepsForm.macGen
  | .macVerify .. => KeepsForm.macVerify
  | .sign .. => KeepsForm.sign
  | .verify .. => KeepsForm.verify
  | .hash .. => KeepsForm.hash
  | .keyWrite .. => KeepsForm.keyWrite
  | .derive .. => KeepsForm.derive
  | .keyClear .. => KeepsForm.keyClear
  | .wrap .. => KeepsForm.wrap
  | .unwrap .. => KeepsForm.unwrap
  | .attest .. => KeepsForm.attest
  | .jobBegin .. => KeepsForm.jobBegin
  | .jobComplete .. => KeepsForm.jobComplete
  | .keyringRecordWrite .. => KeepsForm.keyringRecordWrite
  | .lcToFactory .. => KeepsForm.lcToFactory
  | .lcToField .. => KeepsForm.lcToField
  | .lcToReturn .. => KeepsForm.lcToReturn
  | .lcToScrap .. => KeepsForm.lcToScrap
  | .lcAdvanceDone .. => KeepsForm.lcAdvanceDone
  | .debugOpenApp .. => KeepsForm.debugOpenApp
  | .debugOpenSafety .. => KeepsForm.debugOpenSafety
  | .faultReport .. => KeepsForm.faultReport
  | .laneCompare .. => KeepsForm.laneCompare
  | .demandRelease .. => KeepsForm.demandRelease
  | .safetyReset .. => KeepsForm.safetyReset
  | .monitorFence .. => KeepsForm.monitorFence
  | .alarmPeriod .. => KeepsForm.alarmPeriod
  | .alarmTest .. => KeepsForm.alarmTest
  | .alarmTestEnd .. => KeepsForm.alarmTestEnd
  | .alarmReadbackCheck .. => KeepsForm.alarmReadbackCheck
  | .safeLogPop .. => KeepsForm.safeLogPop
  | .scrubRead .. => KeepsForm.scrubRead
  | .windowConfirm .. => KeepsForm.windowConfirm
  | .windowTimeout .. => KeepsForm.windowTimeout
  | .bistWindowAbort .. => KeepsForm.bistWindowAbort
  | .bistDone .. => KeepsForm.bistDone
  | .bootRomDone .. => KeepsForm.bootRomDone
  | .lsVerdict .. => KeepsForm.lsVerdict
  | .bootImagesVerified .. => KeepsForm.bootImagesVerified
  | .serviceTableVerdict .. => KeepsForm.serviceTableVerdict
  | .safetyReady .. => KeepsForm.safetyReady
  | .startComplete .. => KeepsForm.startComplete
  | .startDeadline .. => KeepsForm.startDeadline
  | .startReport .. => KeepsForm.startReport
  | .lsRaiseFloor .. => KeepsForm.lsRaiseFloor
  | .lifeTimeSave .. => KeepsForm.lifeTimeSave
  | .logicBistStart .. => KeepsForm.logicBistStart
  | .memoryBistStart .. => KeepsForm.memoryBistStart
  | .repairProg .. => KeepsForm.repairProg
  | .malformedCommand fault => KeepsForm.malformedCommand (_fault := fault)
  | .generatorEdge .. => KeepsForm.generatorEdge
  | .frameTransmitEnd .. => KeepsForm.frameTransmitEnd
  | .canReceiveError .. => KeepsForm.canReceiveError
  | .sqiLow .. => KeepsForm.sqiLow

/-- Settles O57. Every command is one of the five ways of running an effect on the zone, and each answers a next state. -/
theorem everyCommandCompletes : Obligations.EveryCommandCompletes := by
  unfold Obligations.EveryCommandCompletes
  intro c s
  obtain ⟨z, hz, -⟩ := exec_keepsForm c s
  exact ⟨z, hz⟩

/-- What a step answers has its registers and memory in canonical form if the state had. -/
theorem step_keepsForm {s t : State} (h : s.zone.Canonical) (ht : step s = .next t) : t.zone.Canonical := by
  unfold step at ht
  split at ht
  · cases ht
    exact h.tick
  · next c rest _ =>
    obtain ⟨z, hz, hc⟩ := exec_keepsForm c { s with pending := rest }
    cases hz.symm.trans ht
    exact hc h

/-- Settles O59: every part of a command and of a tick keeps the form (`Zone.Canonical`), so a step does. -/
theorem canonicalFormIsKept : Obligations.CanonicalFormIsKept := by
  unfold Obligations.CanonicalFormIsKept
  intro s t h ht
  rw [Zone.canonical_iff] at h ⊢
  exact step_keepsForm h ht

end Sys2Proof.Machine
end

