-- ==== Sys2Proof/Proofs/Transitions.lean ====
section
/-! SUPPORT. What the module shows of itself (state, last reason, roles), its start, its memory and the loads held open, through the
operations of an entry to a state. -/

namespace Sys2Proof.Machine

open Reg

theorem SMap.get_keep {α : Type} (d : Nat → α) (p : Nat → Bool) (m : SMap α) (k : Nat) (h : p k = true) :
    SMap.get d (SMap.keep p m) k = SMap.get d m k := by
  induction m with
  | nil => rfl
  | cons e m ih =>
    unfold SMap.keep at ih ⊢
    simp only [List.filter_cons]
    by_cases hk : e.1 = k
    · simp [hk, h, SMap.get]
    · cases p e.1 <;> simp [SMap.get, hk, ih]

/-! ### What stands over an entry to a state -/

/-- The words that show the module state, the reason of the last start and the roles of the keepers. -/
def standWords : List Nat :=
  [pZONE 0 + ZONE0.STATE_CURRENT.off, pZONE 6 + ZONE6.LAST_REASON_CODE.off, pKEEPER .A + KEEPER.KSTATUS_ROLE.off,
   pKEEPER .B + KEEPER.KSTATUS_ROLE.off]

theorem not_standWords_of_le {k : Nat} (h : 0x6100 ≤ k) : k ∉ standWords := by
  have hlt : ∀ j ∈ standWords, j < 0x6100 := by decide
  exact fun hk => absurd (hlt k hk) (by omega)

/-- No word of the pages past bank 0 is among them. -/
theorem not_standWords_page {b c off : Nat} : page (b + 1) c + off ∉ standWords :=
  not_standWords_of_le (by unfold page; omega)

/-- `t` shows the module state, the last reason and the roles of `s`, has its start and its memory, and holds every load open that
`s` holds open. -/
structure Zone.Stands (s t : Zone) : Prop where
  rd : ∀ k ∈ standWords, t.rd k = s.rd k
  start : t.start = s.start
  mem : t.mem = s.mem
  forced : ∀ n, (s.load n).forced = true → (t.load n).forced = true

namespace Zone.Stands

variable {w s t : Zone}

theorem refl : s.Stands s := ⟨fun _ _ => rfl, rfl, rfl, fun _ => id⟩

theorem trans (h : w.Stands s) (h' : s.Stands t) : w.Stands t :=
  ⟨fun k hk => (h'.rd k hk).trans (h.rd k hk), h'.start.trans h.start, h'.mem.trans h.mem, fun n hn => h'.forced n (h.forced n hn)⟩

/-- An update of any parts beside registers, the start, the loads and memory: one rule for all of them. -/
theorem parts
    {mono freeNext time safety records supv tickets ticketSerial keeperSlots gens sagsA sagsB supply inputs cals bal tsq
    switch rings cans lins sers busMem pauses reqQs evtQs stages keeperA keeperB watch resp imsic localIrq tu grant
    txBuffers swdt gateTo hinges cores harts log keyring fuses sleep dcqs pace}
    (h : w.Stands s) :
    w.Stands (Zone.mk
      mono freeNext s.regs time safety records supv tickets ticketSerial keeperSlots gens s.loads sagsA sagsB supply
      inputs cals bal tsq switch rings cans lins sers busMem pauses reqQs evtQs stages keeperA keeperB watch resp imsic
      localIrq tu grant txBuffers swdt gateTo hinges cores harts log keyring fuses s.start sleep dcqs pace s.mem) :=
  h.trans ⟨fun _ _ => rfl, rfl, rfl, fun _ => id⟩

theorem wr {k v} (h : w.Stands s) (hk : k ∉ standWords) : w.Stands (s.wr k v) :=
  h.trans ⟨fun _ hl => rd_wr_ne _ _ _ _ fun e => hk (e ▸ hl), rfl, rfl, fun _ => id⟩

section Fields

variable {p : Nat} {f : Fld} (hk : p + f.off ∉ standWords)

include hk

theorem setFld {v} (h : w.Stands s) : w.Stands (s.setFld p f v) := h.wr hk
theorem setFlag {b} (h : w.Stands s) : w.Stands (s.setFlag p f b) := h.wr hk
theorem event (h : w.Stands s) : w.Stands (s.event p f) := h.wr hk
theorem countBy {n} (h : w.Stands s) : w.Stands (s.countBy p f n) := h.wr hk
theorem count (h : w.Stands s) : w.Stands (s.count p f) := h.wr hk

theorem setFldS {v} (h : w.Stands s) : w.Stands (s.setFldS p f v) := by
  unfold Zone.setFldS
  split
  · exact h.setFld hk
  · exact (h.parts : w.Stands s.fresh.2).setFld hk

end Fields

theorem ite {c : Prop} [Decidable c] (hs : w.Stands s) (ht : w.Stands t) : w.Stands (if c then s else t) := by
  split <;> assumption

theorem when {b : Bool} {f : Zone → Zone} (h : w.Stands s) (hf : ∀ z, w.Stands z → w.Stands (f z)) : w.Stands (s.when b f) :=
  .ite (hf s h) h

theorem forEach {α : Type} {l : List α} {f : Zone → α → Zone} (h : w.Stands s)
    (hf : ∀ z a, w.Stands z → w.Stands (f z a)) : w.Stands (s.forEach l f) :=
  forEach_keeps w.Stands l f hf s h

theorem setPageBytes {p off l} (h : w.Stands s) (hp : 0x6100 ≤ p + off / 4 * 4) : w.Stands (s.setPageBytes p off l) := by
  induction l generalizing s off with
  | nil => exact h
  | cons b l ih => exact ih (h.wr (not_standWords_of_le hp)) (by omega)

/-! ### Loads -/

/-- A channel whose state is replaced by one that is held open if the old one was. -/
theorem setLoad {n x} (h : w.Stands s) (hx : (s.load n).forced = true → x.forced = true := by exact id) : w.Stands (s.setLoad n x) := by
  refine h.trans ⟨fun _ _ => rfl, rfl, rfl, fun m hm => ?_⟩
  unfold Zone.setLoad Zone.load
  by_cases e : m = n
  · subst e
    rw [SMap.get_set_same]
    exact hx hm
  · rw [SMap.get_set_ne _ _ _ _ _ e]
    exact hm

theorem settleSwitch {n} (h : w.Stands s) : w.Stands (s.settleSwitch n) := (h.setLoad).setFlag not_standWords_page

theorem showLoad {m} (h : w.Stands s) : w.Stands (s.showLoad m) := h.forEach fun _ _ h => h.settleSwitch

theorem setLState {m v} (h : w.Stands s) : w.Stands (s.setLState m v) := h.forEach fun _ _ h => h.setFld not_standWords_page

theorem setCauseAll {m c} (h : w.Stands s) : w.Stands (s.setCauseAll m c) := h.forEach fun _ _ h => h.setFld not_standWords_page

theorem stopDrive {m} (h : w.Stands s) : w.Stands (s.stopDrive m) := (h.setLoad).showLoad

theorem toOpen {m st} (h : w.Stands s) : w.Stands (s.toOpen m st) := h.setLState.stopDrive

theorem chEvent {m f} (h : w.Stands s) : w.Stands (s.chEvent m f) := h.event not_standWords_page

theorem refillTimer {m} (h : w.Stands s) : w.Stands (s.refillTimer m) := by
  unfold Zone.refillTimer
  dsimp only
  split
  · split
    · exact h
    · exact h.setLoad
  · exact h.setLoad

theorem setTicket {k n t} (h : w.Stands s) : w.Stands (s.setTicket k n t) :=
  h.parts.setFld (by cases k <;> decide)

theorem complete {r status value} (h : w.Stands s) : w.Stands (s.complete r status value) :=
  .ite h.setTicket (h.count (by cases r.keeper <;> decide))

theorem abortDiag {n} (h : w.Stands s) : w.Stands (s.abortDiag n) := by
  unfold Zone.abortDiag
  split
  · exact h
  · exact (h.setLoad).complete

theorem setGen {g x} (h : w.Stands s) : w.Stands (s.setGen g x) := h.parts

theorem gensOff (h : w.Stands s) : w.Stands s.gensOff :=
  h.forEach fun _ _ h => (h.setGen.setFld not_standWords_page).forEach fun _ _ h => h.showLoad

/-! ### The supply -/

theorem feedBandChanged {m} (h : w.Stands s) : w.Stands (s.feedBandChanged m) := by
  unfold Zone.feedBandChanged
  split
  · exact h.showLoad
  · split
    · exact .ite h.toOpen.setCauseAll.chEvent (.ite h.setLState.showLoad h.showLoad)
    · exact .ite h.setLState.showLoad h.showLoad

theorem feedBandAll {f} (h : w.Stands s) : w.Stands (s.feedBandAll f) := h.forEach fun _ _ h => h.feedBandChanged

theorem setFeedV {f v} (h : w.Stands s) : w.Stands (s.setFeedV f v) := by
  cases f with
  | A => exact h.setFld (by decide)
  | B => exact h.setFld (by decide)

theorem setBand {f code} (h : w.Stands s) : w.Stands (s.setBand f code) := by
  cases f with
  | A => exact (h.parts.setFld (by decide)).feedBandAll
  | B => exact (h.parts.setFld (by decide)).feedBandAll

theorem reportSupply (h : w.Stands s) : w.Stands s.reportSupply := h.parts

theorem showCrank (h : w.Stands s) : w.Stands s.showCrank :=
  (((h.setFld (by decide)).event (by decide)).count (by decide)).reportSupply

/-- An event of a feed in SUPPLY_EVENT. -/
theorem supplyEvent {f a b} (h : w.Stands s) (ha : pZONE 3 + a.off ∉ standWords) (hb : pZONE 3 + b.off ∉ standWords) :
    w.Stands (s.supplyEvent f a b) := by
  cases f with
  | A => exact h.event ha
  | B => exact h.event hb

theorem judgeFeed {f} (h : w.Stands s) : w.Stands (s.judgeFeed f) := by
  unfold Zone.judgeFeed
  extract_lets s₁ new old s₂ s₃
  have h₁ : w.Stands s₁ := by
    dsimp only [s₁]
    split
    · exact h.setFeedV
    · exact h
  have h₂ : w.Stands s₂ := h₁.when fun _ h => h.supplyEvent (by decide) (by decide)
  have h₃ : w.Stands s₃ := h₂.supplyEvent (by decide) (by decide)
  clear_value s₃ s₂
  refine .ite h₁ ?_
  dsimp only [new]
  split
  · exact (h₃.count (by cases f <;> decide)).setBand.reportSupply
  · exact (h₂.supplyEvent (by decide) (by decide)).setBand.reportSupply
  · exact (h₂.supplyEvent (by decide) (by decide)).setBand.reportSupply
  · exact (h₂.supplyEvent (by decide) (by decide)).setBand.reportSupply
  · exact h₂.setBand

theorem judgeSupply (h : w.Stands s) : w.Stands s.judgeSupply :=
  (h.judgeFeed.judgeFeed.when fun _ h => h.showCrank).feedBandAll.feedBandAll

/-! ### Time, calibration and prefetched lines -/

theorem setTState {v} (h : w.Stands s) : w.Stands (s.setTState v) := h.setFld not_standWords_page

theorem setInc {v} (h : w.Stands s) : w.Stands (s.setInc v) := (h.setFld not_standWords_page).setFld not_standWords_page

theorem startTime {old m} (h : w.Stands s) : w.Stands (s.startTime old m) := by
  unfold Zone.startTime
  dsimp only
  split
  · exact h.parts
  · exact .ite h.parts h.parts.setTState
  · exact .ite h.parts (h.parts.setTState.setInc.setFldS not_standWords_page)

theorem calStart (h : w.Stands s) : w.Stands s.calStart := by
  have page {n off} : pCAL n + off ∉ standWords := not_standWords_page
  unfold Zone.calStart
  refine parts (.forEach (h.setFlag not_standWords_page) fun z n h => ?_)
  have hz : w.Stands (((z.setCal n CalSt.init).discardBlock n).unconverge n) :=
    (((h.parts : w.Stands (z.setCal n CalSt.init)).parts : w.Stands (Zone.setCal _ n _)).setFld page).setFld page |>.setFld page
  exact (((hz.setFld page).setFld page).setFlag page).setFld page

theorem showHinge {j x} (h : w.Stands s) : w.Stands (s.showHinge j x) := by
  have page {off} : pHINGE j + off ∉ standWords := not_standWords_page
  unfold Zone.showHinge
  extract_lets p put s₁ s₂
  have hput {z f v} (h : w.Stands z) : w.Stands (put z f v) := h.wr page
  have h₁ : w.Stands s₁ := (h.setFld page).setFld page
  have h₂ : w.Stands s₂ := by
    dsimp only [s₂]
    split
    · exact hput (hput (hput h₁))
    · exact (hput (hput (hput h₁))).setFld page
  split
  · exact hput (hput (hput h₂))
  · exact (hput (hput (hput h₂))).setFld page

theorem setHinge {j x} (h : w.Stands s) : w.Stands (s.setHinge j x) := showHinge h.parts

theorem discardLine {j l cause} (h : w.Stands s) : w.Stands (s.discardLine j l cause) :=
  .ite h.setHinge (.ite (h.setHinge.count not_standWords_page).setHinge
    (((h.setHinge.count not_standWords_page).setFld not_standWords_page).count not_standWords_page))

/-! ### Records -/

theorem showRecords (h : w.Stands s) : w.Stands s.showRecords :=
  (h.forEach fun _ _ h => h.setPageBytes (by unfold pZONE page; omega)).setFld (by decide)

theorem startShown {old} (h : w.Stands s) : w.Stands (s.startShown old) := by
  unfold Zone.startShown
  extract_lets s₁ s₂ s₃ s₄ s₅ s₆ s₇ s₈
  have h₁ : w.Stands s₁ := h.forEach fun _ _ h => h.when fun _ h => h.setFld not_standWords_page
  have h₂ : w.Stands s₂ := h₁.forEach fun _ _ h => h.when fun _ h => h.setFld not_standWords_page
  have h₃ : w.Stands s₃ := h₂.setFlag (by decide)
  have h₄ : w.Stands s₄ := .ite h₃ (h₃.setFld (by decide))
  have h₈ : w.Stands s₈ := (((h₄.setFld (by decide)).wr (by decide)).setFld (by decide)).setFld (by decide)
  exact h₈.forEach fun z k h => (h.parts : w.Stands z.fresh.2).wr (not_standWords_of_le (by unfold pTEST page; omega))

end Zone.Stands
end Sys2Proof.Machine
end

