-- ==== Sys2Proof/Proofs/Power.lean ====
section
/-! SUPPORT. The entry to START, start records and the orderly reset, and O11. -/

namespace Sys2Proof.Machine

open Reg

namespace Zone

namespace Stands

variable {w s t : Zone}

/-- A field of one of the words reads the same. -/
theorem fld {p f} (h : s.Stands t) (hk : p + f.off ∈ standWords := by decide) : t.fld p f = s.fld p f :=
  congrArg f.get (h.rd _ hk)

theorem mode (h : s.Stands t) : t.mode = s.mode := congrArg Mode.ofCode h.fld

theorem role (h : s.Stands t) (k : Keeper) : t.role k = s.role k := by cases k <;> exact h.fld

theorem send {code seq status result} (h : w.Stands s) : w.Stands (s.send code seq status result) := h.parts

theorem abortCommands {off} (h : w.Stands s) : w.Stands (s.abortCommands off) := (h.forEach fun _ _ h => h.send).parts

end Stands

theorem mono_abortCommands (s : Zone) (off : Bool) : (s.abortCommands off).mono = s.mono := by
  unfold abortCommands
  exact forEach_keeps (·.mono = s.mono) _ (fun (z : Zone) (e : Executing) => z.send e.code e.seq 0x0A []) (fun _ _ h => h) s rfl

/-! ### The module state -/

/-- Another field than CURRENT says nothing of the state. -/
theorem mode_setFld_ne (s : Zone) (p : Nat) (f : Fld) (v : Nat)
    (h : pZONE 0 + ZONE0.STATE_CURRENT.off ≠ p + f.off ∨ f.lo + f.w ≤ ZONE0.STATE_CURRENT.lo ∨ 3 ≤ f.lo) :
    (s.setFld p f v).mode = s.mode :=
  congrArg Mode.ofCode (fld_setFld_ne _ _ _ _ _ _ (h.imp_right fun h => ⟨by decide, h⟩))

theorem mode_setState (s : Zone) (m : Mode) (c : Nat) : (s.setState m c).mode = m := by
  unfold setState mode
  rw [fld_setFld_same _ _ _ _ (by decide)]
  cases m <;> rfl

theorem entryCause_setState (s : Zone) (m : Mode) (c : Nat) :
    (s.setState m c).fld (pZONE 0) ZONE0.STATE_ENTRY_CAUSE = c % 2 ^ 8 := by
  unfold setState
  rw [fld_setFld_ne _ _ _ _ _ _ (by decide), fld_setFld_ne _ _ _ _ _ _ (by decide), fld_setFld_same _ _ _ _ (by decide)]

theorem rd_setState (s : Zone) (m : Mode) (c : Nat) {k : Nat} (hk : k ≠ pZONE 0 + ZONE0.STATE_CURRENT.off) :
    (s.setState m c).rd k = s.rd k := by
  unfold setState
  rw [rd_setFld_ne _ (pZONE 0) ZONE0.STATE_CURRENT _ _ hk, rd_setFld_ne _ (pZONE 0) ZONE0.STATE_SLEEP_PENDING _ _ hk,
    rd_setFld_ne _ (pZONE 0) ZONE0.STATE_ENTRY_CAUSE _ _ hk, rd_setFld_ne _ (pZONE 0) ZONE0.STATE_PREV _ _ hk]

/-- What an entry to START by a cause leaves of the module `s`. -/
structure EntersStart (s : Zone) (cause : Nat) (t : Zone) : Prop where
  mode : t.mode = .start
  cause : t.fld (pZONE 0) ZONE0.STATE_ENTRY_CAUSE = cause % 2 ^ 8
  released : t.start.released = false
  entered : t.start.entered = s.mono
  reason : t.rd (pZONE 6 + ZONE6.LAST_REASON_CODE.off) = s.rd (pZONE 6 + ZONE6.LAST_REASON_CODE.off)
  mem : s.mode ≠ .off → s.mode ≠ .sleep → s.mode ≠ .lightship → t.mem = s.mem

/-- What the entry makes anew does not undo what it shows. -/
theorem EntersStart.of_stands {s t u : Zone} {cause : Nat} (h : s.EntersStart cause t) (ht : t.Stands u) :
    s.EntersStart cause u where
  mode := ht.mode.trans h.mode
  cause := ht.fld.trans h.cause
  released := by rw [ht.start]; exact h.released
  entered := by rw [ht.start]; exact h.entered
  reason := (ht.rd _ (by decide)).trans h.reason
  mem ho hs hl := ht.mem.trans (h.mem ho hs hl)

/-- Losing DRAM on the entry from OFF, SLEEP or LIGHTSHIP leaves the rest of it. -/
theorem EntersStart.loseDram {s t : Zone} {cause : Nat} {b : Bool} (h : s.EntersStart cause t)
    (hb : s.mode ≠ .off → s.mode ≠ .sleep → s.mode ≠ .lightship → b = false) : s.EntersStart cause (t.when b Zone.loseDram) := by
  cases b with
  | false => exact h
  | true => exact ⟨h.mode, h.cause, h.released, h.entered, h.reason, fun ho hs hl => absurd (hb ho hs hl) (by decide)⟩

theorem enterStart_entersStart (s : Zone) (cause : Nat) (maint : Bool) : s.EntersStart cause (s.enterStart cause maint) := by
  unfold enterStart
  extract_lets m off s₁ count exhausted count' _ _ _ _ _ _ _ _ _ z₀ z₁ z₂ z₃ z₄ z₅ z₆
  have h₁ : s.Stands s₁ := Stands.refl.abortCommands
  have h₀ : s.EntersStart cause ((z₀.setState .start cause).setFld (pZONE 0) ZONE0.SLEEP_STATUS_CAUSE 0) :=
    { mode := (mode_setFld_ne _ _ _ _ (by decide)).trans (mode_setState _ _ _)
      cause := (fld_setFld_ne _ _ _ _ _ _ (by decide)).trans (entryCause_setState _ _ _)
      released := rfl
      entered := mono_abortCommands s off
      reason := by
        rw [rd_setFld_ne _ _ _ _ _ (by decide), rd_setState _ _ _ (by decide), ← h₁.rd _ (by decide)]
        exact SMap.get_keep _ _ _ _ (by cases off <;> decide)
      mem := fun _ _ _ => h₁.mem }
  have h₂ : s.EntersStart cause z₂ := h₀.of_stands Stands.refl.startTime.startShown.calStart.judgeSupply
  have h₃ : s.EntersStart cause z₃ := h₂.loseDram fun ho hs hl => by simp [off, m, ho, hs, hl]
  have h₄ : z₃.Stands z₄ := .ite .refl (.forEach .refl fun _ _ h => h.forEach fun _ _ h => h.discardLine)
  have h₅ : z₃.Stands z₅ := h₄.when fun _ h => h.wr (by decide)
  exact h₃.of_stands (((h₅.wr (by decide)).wr not_standWords_page).setFlag (by decide)).showRecords

/-! ### Start records -/

/-- A start record shows its reason in LAST_REASON and leaves the rest. -/
structure Records (s : Zone) (reason detail : Nat) (t : Zone) : Prop where
  mode : t.mode = s.mode
  code : t.fld (pZONE 6) ZONE6.LAST_REASON_CODE = reason % 2 ^ 8
  detail : t.fld (pZONE 6) ZONE6.LAST_REASON_DETAIL = detail % 2 ^ 24
  mem : t.mem = s.mem
  forced : ∀ n, (s.load n).forced = true → (t.load n).forced = true

theorem Records.of_stands {s t u : Zone} {reason detail : Nat} (h : s.Records reason detail t) (ht : t.Stands u) :
    s.Records reason detail u where
  mode := ht.mode.trans h.mode
  code := ht.fld.trans h.code
  detail := ht.fld.trans h.detail
  mem := ht.mem.trans h.mem
  forced n hn := ht.forced n (h.forced n hn)

theorem addStartRecord_records (s : Zone) (reason : Nat) (detail : Word) (counted : Bool) :
    s.Records reason detail.toNat (s.addStartRecord reason detail counted) := by
  unfold addStartRecord
  extract_lets r z₁ z₂
  have h₂ : s.Records reason detail.toNat z₂ :=
    { mode := (mode_setFld_ne _ _ _ _ (by decide)).trans (mode_setFld_ne _ _ _ _ (by decide))
      code := (fld_setFld_ne _ _ _ _ _ _ (by decide)).trans (fld_setFld_same _ _ _ _ (by decide))
      detail := fld_setFld_same _ _ _ _ (by decide)
      mem := rfl
      forced := fun _ => id }
  exact h₂.of_stands (Stands.refl.setFld (by decide)).showRecords

/-! ### The orderly reset -/

theorem sameMemory_of_mem {s t : Zone} (h : t.mem = s.mem) : t.SameMemory s := fun a => by unfold memByte; rw [h]

theorem load_congr {s t : Zone} (h : s.loads = t.loads) (n : Nat) : s.load n = t.load n := by unfold load; rw [h]

theorem load_setLoad_same (s : Zone) (n : Nat) (x : LoadSt) : (s.setLoad n x).load n = x := SMap.get_set_same _ _ _ _

/-- A load that is forced open is held open, and every other stands as it did. -/
theorem forceOpen_stands (s : Zone) (n : Nat) : s.Stands (s.forceOpen n) ∧ ((s.forceOpen n).load n).forced = true := by
  unfold forceOpen
  extract_lets s₁ s₂ s₃ _ s₄
  have page {off} : pLOAD n + off ∉ standWords := not_standWords_page
  have h₃ : s.Stands s₃ := ((Stands.refl.abortDiag.setFld page).setFld page).setFld page
  have h₄ : s₃.Stands s₄ := Stands.refl.setLoad fun _ => rfl
  have forced₄ : (s₄.load n).forced = true := congrArg LoadSt.forced (load_setLoad_same _ _ _)
  have h₅ : s₄.Stands ((s₄.refillTimer n).settleSwitch n) := Stands.refl.refillTimer.settleSwitch
  exact ⟨(h₃.trans h₄).trans h₅, h₅.forced n forced₄⟩

theorem forceOpen_forEach_forced (l : List Nat) (s : Zone) (n : Nat) (h : n ∈ l ∨ (s.load n).forced = true) :
    ((s.forEach l forceOpen).load n).forced = true := by
  induction l generalizing s with
  | nil => simpa using h
  | cons m l ih =>
    obtain ⟨hs, hm⟩ := s.forceOpen_stands m
    refine ih _ ?_
    rcases h with h | h
    · rcases List.mem_cons.mp h with rfl | h
      · exact .inr hm
      · exact .inl h
    · exact .inr (hs.forced n h)

theorem forceOpenAll_stands (s : Zone) : s.Stands s.forceOpenAll :=
  .forEach .refl fun z n h => h.trans (z.forceOpen_stands n).1

/-- What the orderly reset leaves of the module `s`. -/
structure EntersOff (s : Zone) (detail : Nat) (t : Zone) : Prop where
  mode : t.mode = .off
  released : t.start.released = false
  role : ∀ k, t.role k = Role.stopped
  code : t.fld (pZONE 6) ZONE6.LAST_REASON_CODE = Reason.supply
  detail : t.fld (pZONE 6) ZONE6.LAST_REASON_DETAIL = detail % 2 ^ 24
  forced : ∀ n : Fin 48, (t.load n.val).forced = true
  mem : t.SameMemory s

theorem role_setRole_same (s : Zone) (k : Keeper) (r : Nat) : (s.setRole k r).role k = r % 2 ^ 3 :=
  fld_setFld_same _ _ _ _ (by decide)

theorem stop_keepers_role (s : Zone) (k : Keeper) :
    ((s.setRole .A Role.stopped).setRole .B Role.stopped).role k = Role.stopped := by
  cases k with
  | A => exact (fld_setFld_ne _ _ _ _ _ _ (by decide)).trans (role_setRole_same _ _ _)
  | B => exact role_setRole_same _ _ _

theorem orderlyReset_entersOff (s : Zone) (detail : Word) : s.EntersOff detail.toNat (s.orderlyReset detail) := by
  have hr := addStartRecord_records s.forceOpenAll Reason.supply detail false
  unfold orderlyReset
  extract_lets s₁ s₂ _ _ s₃ s₄
  have hs₂ : ((s₁.setRole .A Role.stopped).setRole .B Role.stopped).Stands s₂ := Stands.refl.abortCommands.gensOff
  have hs₃ : s₃.regs = s₂.regs := by dsimp only [s₃]
  have keeps {k} (hk : k ∈ standWords) (hne : k ≠ pZONE 0 + ZONE0.STATE_CURRENT.off) :
      ((s₄.setFld (pZONE 0) ZONE0.STATE_SLEEP_PENDING 0).setFld (pZONE 0) ZONE0.STATE_CURRENT Mode.off.code).rd k = s₂.rd k := by
    have hcause : k ≠ pZONE 0 + ZONE0.SLEEP_STATUS_CAUSE.off := fun e => absurd (e ▸ hk) (by decide)
    rw [rd_setFld_ne _ (pZONE 0) ZONE0.STATE_CURRENT _ _ hne, rd_setFld_ne _ (pZONE 0) ZONE0.STATE_SLEEP_PENDING _ _ hne]
    exact (rd_setFld_ne _ _ _ _ _ hcause).trans (rd_congr hs₃ k)
  have reason {f} (hf : pZONE 6 + f.off = pZONE 6 + ZONE6.LAST_REASON_CODE.off) :
      ((s₄.setFld (pZONE 0) ZONE0.STATE_SLEEP_PENDING 0).setFld (pZONE 0) ZONE0.STATE_CURRENT Mode.off.code).fld (pZONE 6) f =
        s₁.fld (pZONE 6) f := by
    refine congrArg f.get ?_
    rw [hf, keeps (by decide) (by decide), hs₂.rd _ (by decide)]
    exact (rd_setFld_ne _ _ _ _ _ (by decide)).trans (rd_setFld_ne _ _ _ _ _ (by decide))
  have hkeeper (k : Keeper) := keeps (k := pKEEPER k + KEEPER.KSTATUS_ROLE.off) (by cases k <;> decide) (by cases k <;> decide)
  exact
    { mode := congrArg Mode.ofCode (fld_setFld_same _ _ _ _ (by decide))
      released := rfl
      role := fun k => (congrArg KEEPER.KSTATUS_ROLE.get (hkeeper k)).trans <| (hs₂.role k).trans (stop_keepers_role s₁ k)
      code := (reason (f := ZONE6.LAST_REASON_CODE) rfl).trans hr.code
      detail := (reason (f := ZONE6.LAST_REASON_DETAIL) rfl).trans hr.detail
      forced := fun n => by
        have h₁ : (s₁.load n).forced = true :=
          hr.forced n (forceOpen_forEach_forced (List.range 48) s n (.inl (List.mem_range.mpr n.isLt)))
        rw [load_congr (t := s₂) (by simp only [setFld_loads, s₄, s₃])]
        refine hs₂.forced n ?_
        rw [load_congr (t := s₁) (by simp only [setRole, setFld_loads])]
        exact h₁
      mem := sameMemory_of_mem <| by
        simp only [setFld_mem, s₄, s₃]
        rw [hs₂.mem]
        simp only [setRole, setFld_mem]
        exact hr.mem.trans s.forceOpenAll_stands.mem }

end Zone

/-! ### The obligation -/

theorem completes_powerUp (s : State) (h : s.zone.mode = .off) :
    Completes .powerUp s (s.zone.EntersStart Cause.supply) := by
  refine ⟨s.zone.enterStart Cause.supply false, ?_, s.zone.enterStart_entersStart _ _⟩
  change execPowerUp s = _
  unfold execPowerUp
  rw [State.run_eq, if_pos (by simp [Zone.inMode, h])]

theorem completes_orderlyReset (s : State) (h : s.zone.mode ≠ .off) : Completes .orderlyReset s (s.zone.EntersOff 1) := by
  refine ⟨s.zone.orderlyReset 1, ?_, s.zone.orderlyReset_entersOff 1⟩
  change execOrderlyReset s = _
  unfold execOrderlyReset
  rw [State.run_eq, if_neg (by simpa [Zone.inMode] using h)]

theorem completes_orderlyReset_off (s : State) (h : s.zone.mode = .off) : Completes .orderlyReset s (s.zone.Frame [] []) := by
  refine ⟨s.zone, ?_, fun _ _ => rfl, fun _ => rfl, fun p _ => by cases p <;> rfl⟩
  change execOrderlyReset s = _
  unfold execOrderlyReset
  rw [State.run_eq, if_pos (by simp [Zone.inMode, h])]

theorem completes_crankLimit (s : State) (h : s.zone.mode ≠ .off) (ht : 250000000 < s.zone.supply.crankTicks) :
    Completes .crankLimit s (s.zone.EntersOff 2) := by
  refine ⟨s.zone.orderlyReset 2, ?_, s.zone.orderlyReset_entersOff 2⟩
  change execCrankLimit s = _
  unfold execCrankLimit
  rw [State.run_eq, if_neg (by simpa [Zone.inMode, h, Zone.ticksPerMs] using ht)]

theorem completes_safetyReset (s : State) (t : Nat) (hd : s.zone.safety.resetDue = some t) (hm : s.zone.mode = .service)
    (ht : t ≤ s.zone.mono) (hp : s.zone.sleep.phase < 3) : Completes .safetyReset s fun z =>
      ∃ u : Zone, s.zone.Records Reason.safetyReset (BitVec.ofNat 32 s.zone.safety.resetSource).toNat u ∧
        u.EntersStart Cause.safetyReset z := by
  have he : ∃ counted, exec .safetyReset s = .next { s with
      zone := (s.zone.addStartRecord Reason.safetyReset (BitVec.ofNat 32 s.zone.safety.resetSource) counted).enterStart
        Cause.safetyReset false } := by
    apply Exists.intro
    change execSafetyReset s = _
    unfold execSafetyReset
    rw [State.run_eq]
    simp only [hd]
    rw [if_pos (by simp [Zone.inMode, hm, ht, hp])]
  obtain ⟨counted, he⟩ := he
  exact ⟨_, he, _, s.zone.addStartRecord_records _ _ counted, Zone.enterStart_entersStart _ _ false⟩

/-- What a completed command leaves may be said in other words. -/
theorem Completes.imp {c : Instr} {s : State} {P Q : Zone → Prop} (h : Completes c s P) (hPQ : ∀ z, P z → Q z) :
    Completes c s Q := by
  obtain ⟨z, hz, hP⟩ := h
  exact ⟨z, hz, hPQ z hP⟩

/-- Settles O11: the words that show state, reason and roles, the start, memory and the loads held open are followed through
every operation of a transition (`Zone.Stands`). -/
theorem powerChangesTheModuleState : Obligations.PowerChangesTheModuleState := by
  unfold Obligations.PowerChangesTheModuleState
  refine ⟨fun s h => (completes_powerUp s h).imp fun z hz => ⟨hz.mode, hz.cause, hz.released, hz.entered⟩,
    fun s h => (completes_orderlyReset s h).imp fun z hz =>
      ⟨hz.mode, hz.released, hz.role .A, hz.role .B, hz.code, hz.detail, hz.forced, hz.mem⟩,
    completes_orderlyReset_off,
    fun s h ht => (completes_crankLimit s h ht).imp fun z hz =>
      ⟨hz.mode, hz.released, hz.role .A, hz.role .B, hz.code, hz.detail, hz.forced, hz.mem⟩,
    fun s t hd hm ht hp => (completes_safetyReset s t hd hm ht hp).imp fun z ⟨u, hu, hz⟩ => ?_⟩
  have hmode : u.mode = .service := hu.mode.trans hm
  have hmem : z.mem = s.zone.mem := (hz.mem (by simp [hmode]) (by simp [hmode]) (by simp [hmode])).trans hu.mem
  have hreason (f : Fld) (hf : pZONE 6 + f.off = pZONE 6 + ZONE6.LAST_REASON_CODE.off) : z.fld (pZONE 6) f = u.fld (pZONE 6) f :=
    congrArg f.get (by rw [hf, hz.reason])
  have hdetail : (BitVec.ofNat 32 s.zone.safety.resetSource).toNat % 2 ^ 24 = s.zone.safety.resetSource % 2 ^ 24 := by
    rw [BitVec.toNat_ofNat]
    omega
  exact ⟨hz.mode, hz.cause, (hreason _ rfl).trans hu.code, (hreason ZONE6.LAST_REASON_DETAIL rfl).trans (hu.detail.trans hdetail), hz.released,
    Zone.sameMemory_of_mem hmem⟩

end Sys2Proof.Machine
end

