-- ==== Sys2Proof/Proofs/PlainWords.lean ====
section
/-! SUPPORT. The keys of the register space, and the words of each page that a write stores and does nothing else (R14). -/

namespace Sys2Proof.Machine

open Reg

/-! ### Keys and pages -/

theorem key_eq (k : Nat) : k = page (keyBank k) (keyChan k) + keyOff k := by
  unfold page keyBank keyChan keyOff
  omega

/-- The bank of the pages of a kind. -/
def kindBank : PageKind → Nat
  | .zone5 | .zone0 | .zone7 | .zone3 | .zone4 | .keeper | .zone6 => 0
  | .load => 1
  | .char => 2
  | .input => 3
  | .port => 4
  | .sw0 | .swp | .sww => 5
  | .can => 6
  | .lin | .ser => 7
  | .time0 | .time1 | .tsq => 8
  | .cal | .shunt | .bal | .ring => 9
  | .log0 | .stream => 10
  | .key0 | .slot => 11
  | .hinge0 | .hinge1 | .hinge2 => 12
  | .safe0 | .alarm => 13
  | .tu | .regn | .grant | .qpr | .ownl | .owns | .empty => 14
  | .test0 | .test1 | .test2 => 15
  | .win => 0x50

/-- The bank and channel of a page of one kind; empty pages, which hold no word, lie in two banks. -/
theorem pageKind_eq_some {b c : Nat} {kind : PageKind} (h : pageKind b c = some kind) :
    (kind ≠ .empty → b = kindBank kind) ∧
      match kind with
      | .zone0 | .sw0 | .time0 | .log0 | .safe0 | .tu | .hinge0 | .test0 => c = 0
      | .hinge1 | .test1 => c = 1
      | .hinge2 | .test2 => c = 2
      | .zone5 => c = 5
      | .ring => c = 50
      | .swp | .stream => 1 ≤ c
      | .ser => 6 ≤ c
      | .alarm => c = 1 ∨ c = 2
      | _ => True := by
  unfold pageKind at h
  split at h
  all_goals repeat' split at h
  all_goals cases h
  all_goals simp_all [kindBank]
  all_goals omega


/-- No word of an empty page is defined. -/
theorem wordD_empty (off : Nat) : wordD .empty off = none := rfl

theorem keyD_eq_some {k : Nat} {kind : PageKind} {d : WordD} (h : keyD k = some (kind, d)) :
    pageKind (keyBank k) (keyChan k) = some kind ∧ wordD kind (keyOff k) = some d := by
  unfold keyD at h
  split at h
  · cases h
  · split at h
    · cases h
    · cases h
      exact ⟨‹_›, ‹_›⟩

theorem keyBank_of_keyD {k : Nat} {kind : PageKind} {d : WordD} (h : keyD k = some (kind, d)) : keyBank k = kindBank kind := by
  obtain ⟨hp, hw⟩ := keyD_eq_some h
  refine (pageKind_eq_some hp).1 fun he => ?_
  subst he
  rw [wordD_empty] at hw
  cases hw

namespace Zone

/-! ### What a write of a plain word does -/

section PlainWord

variable {s : Zone} {k off : Nat} {x : RegWrite}

theorem writeZone0_plain (h : off ≠ 0x048) (h' : off < 0x080 ∨ 0x0C0 ≤ off) : s.writeZone0 off x = s.wr (pZONE 0 + off) x.new := by
  unfold writeZone0
  rw [if_neg h, if_neg (by omega)]

theorem writeZone5_plain (h : off ∉ [0x040, 0x050, 0x054]) : s.writeZone5 off x = s.wr (pZONE 5 + off) x.new := by
  unfold writeZone5
  split <;> simp_all

theorem writeKeeper_plain (h : keyChan k ≠ 2 ∨ keyOff k < 0x080 ∨ 0x090 < keyOff k) : s.writeKeeper k x = s.wr k x.new := by
  unfold writeKeeper
  rw [if_neg (by omega)]

theorem writeLoad_plain {n} (h : off ∉ [0x000, 0x020, 0x024, 0x028, 0x02C, 0x030]) :
    s.writeLoad n off x = s.wr (pLOAD n + off) x.new := by
  unfold writeLoad
  split <;> simp_all

theorem writeChar_plain {g} (h : 0x018 ≤ off) : s.writeChar g off x = s.wr (pCHAR g + off) x.new := by
  unfold writeChar
  rw [if_neg (by omega), if_neg (by omega)]

theorem writeRing_plain (h : off ∉ [0x000, 0x010, 0x014]) : s.writeRing off x = s.wr (pRING + off) x.new := by
  simp only [List.mem_cons, List.not_mem_nil, not_or, or_false] at h
  unfold writeRing
  rw [if_neg h.1, if_neg (by omega)]

theorem writeSw0_plain (h : off ≠ 0x004) : s.writeSw0 off x = s.wr (pSW + off) x.new := by
  unfold writeSw0
  rw [if_neg (by omega)]

theorem writeSwp_plain {p} (h : fieldRanges .swp 0 off = []) (h' : off ≠ 0x010 ∧ (off < 0x100 ∨ 0x180 ≤ off) ∧ off < 0x700) :
    s.writeSwp p off x = s.wr (pSWP p + off) x.new := by
  have h₀ : off ≠ 0 := by
    rintro rfl
    simp [fieldRanges] at h
  have h₁ : ¬ (0x020 ≤ off ∧ off < 0x040) := by
    intro ho
    simp only [fieldRanges, if_neg h₀, if_pos ho] at h
    split at h <;> simp at h
  unfold writeSwp
  rw [if_neg h₀, if_neg (by omega), if_neg h₁, if_neg (by omega), if_neg (by omega)]

theorem writePort_plain {p} (h : off ∉ [0x000, 0x014, 0x018]) : s.writePort p off x = s.wr (pPORT p + off) x.new := by
  simp only [List.mem_cons, List.not_mem_nil, not_or, or_false] at h
  unfold writePort
  rw [if_neg h.1, if_neg (by omega)]

theorem writeTime0_plain (h : off ∉ [0x004, 0x008, 0x00C, 0x028, 0x048, 0x050]) :
    s.writeTime0 off x = s.wr (pTIME + off) x.new := by
  unfold writeTime0
  split <;> simp_all

theorem writeCan_plain {c} (h : 0x010 ≤ off) (ha : off ≠ 0x024) (ht : off < 0x05C ∨ 0x068 < off) (hc : off < 0x100 ∨ 0x160 ≤ off)
    (hf : off < 0x200 ∨ 0x300 ≤ off) : s.writeCan c off x = s.wr (pCAN c + off) x.new := by
  unfold writeCan
  rw [if_neg (by omega), if_neg (by omega), if_neg ha, if_neg (by omega), if_neg (by omega), if_neg (by omega), if_neg (by omega)]

theorem writeSer_plain {n} (h : 8 ≤ off) (ha : off ≠ 0x014) : s.writeSer n off x = s.wr (serPage n + off) x.new := by
  unfold writeSer
  split <;> simp_all

theorem writeTu_plain (h : off ∉ [0x00C, 0x024, 0x054, 0x05C]) : s.writeTu off x = s.wr (pTU + off) x.new := by
  unfold writeTu
  dsimp only
  split <;> simp_all

theorem writeRegn_plain {c} (h : off < 0x100) : s.writeRegn c off x = s.wr (pREGN c + off) x.new := by
  unfold writeRegn
  rw [if_pos h]

theorem writeHinge_plain {j} (h : off ∉ [0x008, 0x018, 0x028, 0x074, 0x080]) (h' : off < 0x900) :
    s.writeHinge j off x = s.wr (pHINGE j + off) x.new := by
  simp only [List.mem_cons, List.not_mem_nil, not_or, or_false] at h
  unfold writeHinge
  rw [if_neg h.1, if_neg h.2.1, if_neg h.2.2.1, if_neg (by omega), if_neg (by omega)]

theorem writeLog_plain (h : off ∉ [0x010, 0x020, 0x028, 0x050, 0x054]) : s.writeLog off x = s.wr (pLOG + off) x.new := by
  unfold writeLog
  split <;> simp_all

theorem writeStream_plain {n} (h : off ≠ 0) : s.writeStream n off x = s.wr (pSTREAM n + off) x.new := by
  unfold writeStream
  rw [if_neg h]

theorem writeSafe_plain (h : off ∉ [0x008, 0x010, 0x014, 0x018, 0x02C]) (h' : off < 0x100 ∨ 0x200 ≤ off) :
    s.writeSafe off x = s.wr (pSAFE + off) x.new := by
  unfold writeSafe
  split
  all_goals simp_all
  omega

theorem writeAlarm_plain {a} (h : off ≠ 0x008) : s.writeAlarm a off x = s.wr (pALARM a.val + off) x.new := by
  unfold writeAlarm
  rw [if_neg h]

end PlainWord

end Zone

end Sys2Proof.Machine
end

