-- ==== Sys2Proof/Proofs/RegisterWrites.lean ====
section
/-! SUPPORT. What a write of a plain word does, whoever writes it (R14, R15). -/

namespace Sys2Proof.Machine

open Reg

namespace Zone

/-- A write of a plain word stores it, whatever its page. -/
theorem writeEffect_plain {s : Zone} {kind : PageKind} {d : WordD} {k : Nat} {x : RegWrite} (hd : keyD k = some (kind, d))
    (hp : plainWord kind k = true) : s.writeEffect kind k x = s.wr k x.new := by
  have hb := keyBank_of_keyD hd
  have hc := (pageKind_eq_some (keyD_eq_some hd).1).2
  have stored {b c : Nat} (hb : keyBank k = b) (hc : keyChan k = c) : s.wr (page b c + keyOff k) x.new = s.wr k x.new := by
    rw [← hb, ← hc, ← key_eq k]
  unfold plainWord at hp
  rw [Bool.and_eq_true] at hp
  obtain ⟨hw, hoff⟩ := hp
  unfold writeEffect
  cases kind with
  | zone0 =>
    simp at hoff
    exact (writeZone0_plain hoff.1 hoff.2).trans (stored hb hc)
  | zone5 => exact (writeZone5_plain (by simpa using hoff)).trans (stored hb hc)
  | zone6 => exact if_neg (by simpa using hoff)
  | keeper => exact writeKeeper_plain (by simpa using hoff)
  | input =>
    simp at hoff
    exact (if_neg (by omega)).trans (if_neg (by omega))
  | load => exact (writeLoad_plain (by simpa using hoff)).trans (stored hb rfl)
  | char => exact (writeChar_plain (by simpa using hoff)).trans (stored hb rfl)
  | cal => exact if_neg (by simpa using hoff)
  | tsq => exact if_neg (by simpa using hoff)
  | ring => exact (writeRing_plain (by simpa using hoff)).trans (stored hb hc)
  | sw0 => exact (writeSw0_plain (by simpa using hoff)).trans (stored hb hc)
  | swp =>
    simp at hoff
    exact (writeSwp_plain hoff.1 hoff.2).trans (stored hb (by dsimp only at hc; omega))
  | port => exact (writePort_plain (by simpa using hoff)).trans (stored hb rfl)
  | time0 => exact (writeTime0_plain (by simpa using hoff)).trans (stored hb hc)
  | can =>
    simp [ownerWord_] at hoff hw
    obtain ⟨h, ht, hc', hf⟩ := hoff
    exact (writeCan_plain h hw.2 ht hc' hf).trans (stored hb rfl)
  | ser =>
    simp [ownerWord_] at hoff hw
    exact (writeSer_plain hoff hw.2).trans (stored hb (by dsimp only at hc; omega))
  | tu => exact (writeTu_plain (by simpa using hoff)).trans (stored hb hc)
  | regn => exact (writeRegn_plain (by simpa using hoff)).trans (stored hb rfl)
  | grant => exact if_neg (by simpa using hoff)
  | hinge0 | hinge1 | hinge2 =>
    simp at hoff
    exact (writeHinge_plain (by simpa using hoff.1) hoff.2).trans (stored hb rfl)
  | log0 => exact (writeLog_plain (by simpa using hoff)).trans (stored hb hc)
  | stream =>
    simp at hoff
    exact (writeStream_plain hoff.1).trans (stored hb (by dsimp only at hc; omega))
  | test0 => exact if_neg (by simp)
  | test1 => exact if_neg (by simpa using hoff)
  | test2 => exact if_neg (by simpa using hoff)
  | safe0 =>
    simp at hoff
    exact (writeSafe_plain (by simpa using hoff.1) hoff.2).trans (stored hb hc)
  | alarm =>
    refine (writeAlarm_plain (by simpa using hoff)).trans (stored hb ?_)
    rcases hc with h | h <;> rw [h] <;> rfl
  | lin | qpr => cases hoff
  | zone7 | zone3 | zone4 | shunt | bal | sww | time1 | win | key0 | slot | ownl | owns | empty => rfl

/-! ### What a write of a register does -/

/-- A word that is written past its ranges is refused and counted only on the switch ports' pages, and none of theirs that is plain has
a range. -/
theorem rangeReject_plain {s : Zone} {kind : PageKind} {k : Nat} {v : Word} (hp : plainWord kind k = true) :
    (if (fieldRanges kind (keyChan k) (keyOff k)).all (inRange v) then s else s.rangeReject kind k) = s := by
  unfold rangeReject
  by_cases hk : kind = .swp
  · subst hk
    have : fieldRanges .swp (keyChan k) (keyOff k) = [] := by
      simp [plainWord] at hp
      exact hp.2.1
    simp [this]
  · simp [hk]

/-- The value that a write of a plain word leaves. -/
def written (s : Zone) (w : Writer) (kind : PageKind) (d : WordD) (k mode : Nat) (v : Word) : Word :=
  keepRanges (fieldRanges kind (keyChan k) (keyOff k)) (s.rd k) (d.merge (reachOf kind w) (s.locked (keyPage k)) mode (s.rd k) v)

theorem regWrite_plain {s : Zone} {w : Writer} {kind : PageKind} {d : WordD} {k mode : Nat} {v : Word} (hd : keyD k = some (kind, d))
    (hp : plainWord kind k = true) (hr : d.reached (reachOf kind w) ≠ 0) :
    s.regWrite w kind d k mode v = s.wr k (s.written w kind d k mode v) := by
  have hop : opRegister kind (keyOff k) = false ∧ ownerWord_ kind (keyOff k) = false := by
    unfold plainWord at hp
    simp only [Bool.and_eq_true, Bool.not_eq_true'] at hp
    exact hp.1
  unfold regWrite
  simp only [hop.1, hop.2, Bool.false_eq_true, or_false, if_false, if_neg hr]
  rw [rangeReject_plain hp, writeEffect_plain hd hp]
  rfl

/-- A write of a word of which the writer reaches nothing has no effect. -/
theorem regWrite_unreached {s : Zone} {w : Writer} {kind : PageKind} {d : WordD} {k mode : Nat} {v : Word}
    (ho : ownerWord_ kind (keyOff k) = false) (hr : d.reached (reachOf kind w) = 0) : s.regWrite w kind d k mode v = s := by
  unfold regWrite
  simp only [ho, Bool.false_eq_true, if_false]
  exact if_pos (.inl hr)

/-! ### What a firmware write of a word does -/

theorem fwWord_plain {s : Zone} {src : Source} {kind : PageKind} {d : WordD} {k : Nat} {v : Word} (hd : keyD k = some (kind, d))
    (hp : plainWord kind k = true) (hw : d.kw = 0) :
    s.fwWord src kind k v = s.regWrite (.firmware src) kind d k 0 v := by
  have hword := (keyD_eq_some hd).2
  unfold fwWord
  simp only [hword]
  cases kind with
  | qpr => simp [plainWord] at hp
  | stream =>
    simp [plainWord] at hp
    exact if_neg (by omega)
  | swp =>
    simp [plainWord] at hp
    exact (if_neg (by omega)).trans (by rw [if_pos hw])
  | _ => dsimp only; rw [if_pos hw]

end Zone

end Sys2Proof.Machine
end

