-- ==== Sys2Proof/Proofs/Accesses.lean ====
section
/-! SUPPORT. Frames, the checks of firmware's accesses, and the commands that access the register space (R27, R501). -/

namespace Sys2Proof.Machine

open Reg

namespace Zone

/-! ### Frames -/

section Frames

variable {s z : Zone} {words banks : List Nat} {parts : List Part}

theorem Frame.refl : s.Frame words parts s := ⟨fun _ _ => rfl, fun _ => rfl, fun p _ => by cases p <;> rfl⟩

theorem Frame.wr {k v} (h : s.Frame words parts z) (hk : k ∈ words) : s.Frame words parts (z.wr k v) := by
  obtain ⟨hw, hm, hp⟩ := h
  refine ⟨fun j hj => (rd_wr_ne _ _ _ _ fun e => hj (by rw [e]; exact hk)).trans (hw j hj), hm, fun p h => ?_⟩
  have := hp p h
  cases p <;> exact this

theorem Frame.respond {code data} (h : s.Frame words parts z) (hr : .resp ∈ parts) : s.Frame words parts (z.respond code data) := by
  obtain ⟨hw, hm, hp⟩ := h
  refine ⟨hw, hm, fun p h => ?_⟩
  have := hp p h
  cases p
  case resp => exact absurd hr h
  all_goals exact this

theorem Frame.setStage {i x} (h : s.Frame words parts z) (hr : .stages ∈ parts) : s.Frame words parts (z.setStage i x) := by
  obtain ⟨hw, hm, hp⟩ := h
  refine ⟨hw, hm, fun p h => ?_⟩
  have := hp p h
  cases p
  case stages => exact absurd hr h
  all_goals exact this

theorem BankFrame.refl : s.BankFrame banks parts s := ⟨fun _ _ => rfl, fun _ => rfl, fun p _ => by cases p <;> rfl⟩

theorem BankFrame.wr {k v} (h : s.BankFrame banks parts z) (hk : keyBank k ∈ banks) : s.BankFrame banks parts (z.wr k v) := by
  obtain ⟨hw, hm, hp⟩ := h
  refine ⟨fun j hj => (rd_wr_ne _ _ _ _ fun e => hj (by rw [e]; exact hk)).trans (hw j hj), hm, fun p h => ?_⟩
  have := hp p h
  cases p <;> exact this

theorem BankFrame.respond {code data} (h : s.BankFrame banks parts z) (hr : .resp ∈ parts) :
    s.BankFrame banks parts (z.respond code data) := by
  obtain ⟨hw, hm, hp⟩ := h
  refine ⟨hw, hm, fun p h => ?_⟩
  have := hp p h
  cases p
  case resp => exact absurd hr h
  all_goals exact this

end Frames

/-! ### Firmware accesses -/

theorem wordCheck_unpopulated {s : Zone} {src : Source} {k : Nat} {write : Bool} {v : Word}
    (h : pageKind (keyBank k) (keyChan k) = none) : s.wordCheck src k write v = (Err.decode, s) := by
  unfold wordCheck
  rw [if_pos (by simp [h])]

/-- A word at which an access is granted lies in a populated page. -/
theorem populated_of_wordCheck {s : Zone} {src : Source} {k : Nat} {write : Bool} {v : Word}
    (h : s.wordCheck src k write v = (Err.none, s)) : ∃ kind, pageKind (keyBank k) (keyChan k) = some kind := by
  cases hp : pageKind (keyBank k) (keyChan k) with
  | some kind => exact ⟨kind, rfl⟩
  | none =>
    rw [wordCheck_unpopulated hp] at h
    cases h

theorem wordWrite_granted {s : Zone} {src : Source} {k : Nat} {v : Word} {kind : PageKind}
    (h : s.wordCheck src k true v = (Err.none, s)) (hp : pageKind (keyBank k) (keyChan k) = some kind) :
    s.wordWrite src k v = (Err.none, s.fwWord src kind k v) := by
  unfold wordWrite
  simp [h, hp]

theorem wordRead_granted {s : Zone} {src : Source} {k : Nat} {kind : PageKind}
    (h : s.wordCheck src k false 0 = (Err.none, s)) (hp : pageKind (keyBank k) (keyChan k) = some kind) :
    s.wordRead src k = (Err.none, s.fwRead kind k) := by
  unfold wordRead
  rw [h, hp]
  rfl

theorem spaceWrite_misaligned {s : Zone} {src : Source} {k n v : Nat} (h : alignedAccess k n = false) :
    s.spaceWrite src k n v = (Err.align, s) := by
  unfold spaceWrite
  simp [h]

theorem spaceRead_misaligned {s : Zone} {src : Source} {k n : Nat} (h : alignedAccess k n = false) :
    s.spaceRead src k n = (Err.align, 0, s) := by
  unfold spaceRead
  simp [h]

theorem spaceWrite_word {s : Zone} {src : Source} {k v : Nat} (ha : alignedAccess k 4 = true)
    (hl : s.lineWritten 1 (0x1F0000000 + k) 4 = s) : s.spaceWrite src k 4 v = s.wordWrite src k (BitVec.ofNat 32 v) := by
  unfold spaceWrite
  rw [hl]
  simp [ha]

theorem spaceWrite_words {s : Zone} {src : Source} {k v : Nat} (ha : alignedAccess k 8 = true)
    (hl : s.lineWritten 1 (0x1F0000000 + k) 8 = s) :
    s.spaceWrite src k 8 v =
      let x := s.wordWrite src k (BitVec.ofNat 32 v)
      let y := x.2.wordWrite src (k + 4) (BitVec.ofNat 32 (v / 2 ^ 32))
      (if x.1 = Err.none then y.1 else x.1, y.2) := by
  unfold spaceWrite
  rw [hl]
  simp [ha]

theorem spaceRead_word {s : Zone} {src : Source} {k : Nat} (ha : alignedAccess k 4 = true) :
    s.spaceRead src k 4 = ((s.wordRead src k).1, (s.wordRead src k).2.1.toNat, (s.wordRead src k).2.2) := by
  unfold spaceRead
  simp [ha]

/-- A granted write of a word is its effect on the page. -/
theorem spaceWrite_granted {s : Zone} {src : Source} {k v : Nat} {kind : PageKind}
    (h : s.Grants src k 4 true (BitVec.ofNat 32 v)) (hp : pageKind (keyBank k) (keyChan k) = some kind) :
    s.spaceWrite src k 4 v = (Err.none, s.fwWord src kind k (BitVec.ofNat 32 v)) := by
  obtain ⟨ha, hl, hc⟩ := h
  rw [spaceWrite_word ha hl, wordWrite_granted hc hp]

end Zone

/-! ### The commands -/

section Commands

variable {s : State} {src : Source} {x : Keeper} {k : BitVec 24} {n : BitVec 4} {m : Fin 4} {v : BitVec 64}

theorem exec_registerWrite_firmware {c : Nat} {z : Zone} (h : s.zone.start.released = true)
    (hw : s.zone.spaceWrite src k.toNat n.toNat v.toNat = (c, z)) :
    exec (.registerWrite (.firmware src) k n m v) s = .next { s with zone := z.respond c 0 } := by
  change execRegisterWrite (.firmware src) k n m v s = _
  unfold execRegisterWrite
  simp only [State.runBy, State.runFw_released s _ h, hw]

theorem exec_registerWrite_keeper (h : s.zone.logicRuns = true) (hk : k.toNat % 4 = 0) :
    exec (.registerWrite (.keeper x) k n m v) s =
      .next { s with zone := s.zone.keeperWrite x k.toNat m.val (v.setWidth 32) } := by
  change execRegisterWrite (.keeper x) k n m v s = _
  unfold execRegisterWrite
  simp only [State.runBy, State.runOn_runs s _ h, if_pos hk]

theorem exec_rcRead {c data : Nat} {z : Zone} (h : s.zone.start.released = true)
    (hr : s.zone.spaceRead src k.toNat n.toNat = (c, data, z)) :
    exec (.rcRead src k n) s = .next { s with zone := z.respond c data } := by
  change execRcRead src k n s = _
  unfold execRcRead
  simp only [State.runFw_released s _ h, hr]

theorem exec_pageLock_firmware {p : PageArg} {c : Nat} {z : Zone} (h : s.zone.start.released = true)
    (hw : s.zone.spaceWrite src (page p.bank.toNat p.channel.toNat + 0xFC) 4 1 = (c, z)) :
    exec (.pageLock (.firmware src) p) s = .next { s with zone := z.respond c 0 } := by
  change execPageLock (.firmware src) p s = _
  unfold execPageLock
  simp only [State.runBy, State.runFw_released s _ h, hw]

theorem exec_pageLock_keeper {p : PageArg} (h : s.zone.logicRuns = true) : exec (.pageLock (.keeper x) p) s =
    .next { s with zone := s.zone.keeperWrite x (page p.bank.toNat p.channel.toNat + 0xFC) 0 1 } := by
  change execPageLock (.keeper x) p s = _
  unfold execPageLock
  simp only [State.runBy, State.runOn_runs s _ h]

/-- A granted write of firmware answers without error and has the effect of its page. -/
theorem exec_registerWrite_granted {kind : PageKind} (h : s.zone.start.released = true)
    (hg : s.zone.Grants src k.toNat 4 true (v.setWidth 32)) (hp : pageKind (keyBank k.toNat) (keyChan k.toNat) = some kind) :
    exec (.registerWrite (.firmware src) k 4 m v) s =
      .next { s with zone := (s.zone.fwWord src kind k.toNat (v.setWidth 32)).respond Err.none 0 } := by
  rw [← BitVec.ofNat_toNat] at hg ⊢
  exact exec_registerWrite_firmware h (Zone.spaceWrite_granted hg hp)

theorem exec_registerWrite_plain {kind : PageKind} {d : WordD} (h : s.zone.start.released = true)
    (hg : s.zone.Grants src k.toNat 4 true (v.setWidth 32)) (hd : keyD k.toNat = some (kind, d))
    (hp : Zone.plainWord kind k.toNat = true) (hw : d.kw = 0) :
    exec (.registerWrite (.firmware src) k 4 m v) s =
      .next { s with zone := (s.zone.regWrite (.firmware src) kind d k.toNat 0 (v.setWidth 32)).respond Err.none 0 } := by
  rw [exec_registerWrite_granted h hg (keyD_eq_some hd).1, Zone.fwWord_plain hd hp hw]

end Commands

end Sys2Proof.Machine
end

