-- ==== Sys2Proof/Proofs/RegisterRules.lean ====
section
/-! SUPPORT. Words bit by bit, what the checks of an access read, and the writes of keepers (R15, R115, R166). -/

namespace Sys2Proof.Machine

open Reg

/-! ### What a write leaves, bit by bit -/

theorem testBit_word (n : Nat) (i : Fin 32) : (BitVec.ofNat 32 n).getLsbD i.val = n.testBit i.val := by
  rw [BitVec.getLsbD_ofNat, decide_eq_true i.isLt, Bool.true_and]

/-- Without ranges and counters of access RC, a write takes a word as its access codes say. -/
theorem WordD.merge_takes (d : WordD) (r : Reach) (locked : Bool) (old v : Word) (hrc : d.rc = []) :
    Zone.Takes d r locked old v (d.merge r locked 0 old v) := by
  intro i
  have hcleared : d.rcCleared v = 0 := by simp [rcCleared, hrc]
  have hi := i.isLt
  simp only [merge, hcleared, apply_ite (BitVec.getLsbD · i.val), BitVec.getLsbD_or, BitVec.getLsbD_and, BitVec.getLsbD_not,
    testBit_word, hi, decide_true, Bool.true_and]
  grind

/-- A word of which the writer reaches nothing stays as it is. -/
theorem WordD.takes_unreached (d : WordD) (r : Reach) (locked : Bool) (old v : Word) (hr : d.reached r = 0) :
    Zone.Takes d r locked old v old := by
  intro i
  have h : (d.reached r).getLsbD i.val = false := by rw [hr]; simp
  have hi := i.isLt
  simp only [reached, BitVec.getLsbD_or, testBit_word, Bool.or_eq_false_iff, Nat.testBit_or, apply_ite (Nat.testBit · i.val)] at h
  simp only [plain, apply_ite (BitVec.getLsbD · i.val), BitVec.getLsbD_or, BitVec.getLsbD_and, BitVec.getLsbD_not,
    testBit_word, hi, decide_true, Bool.true_and]
  grind
namespace Zone

variable {s t : Zone}

/-! ### What the checks of an access read -/

theorem inGroup_congr (h : ∀ j, keyBank j = 14 → t.rd j = s.rd j) {g m : Nat} (hg : g < 64) : t.inGroup g m = s.inGroup g m := by
  have hk {f : Fld} (hf : f.off = TU.GROUP_MASK.off) : t.fld pTU (f.nth 4 g) = s.fld pTU (f.nth 4 g) := by
    refine congrArg (f.nth 4 g).get (h _ ?_)
    simp only [Fld.nth, hf, keyBank, pTU, page]
    omega
  unfold inGroup
  rw [hk (f := TU.GROUP_MASK) rfl, hk (f := TU.GROUP_VALUE) rfl]

theorem regionAllows_congr (h : ∀ j, keyBank j = 14 → t.rd j = s.rd j) {c k : Nat} {src : Source} {rd wr : Bool} {a n : Nat}
    (hc : c < 16) (hk : k < 64) : t.regionAllows c k src rd wr a n = s.regionAllows c k src rd wr a n := by
  have hf {f : Fld} (hf : f.off < 0x200) : t.fld (pREGN c) (f.nth 16 k) = s.fld (pREGN c) (f.nth 16 k) := by
    refine congrArg (f.nth 16 k).get (h _ ?_)
    simp only [Fld.nth, keyBank, pREGN, page]
    omega
  have hflag {f : Fld} (hf' : f.off < 0x200) : t.flag (pREGN c) (f.nth 16 k) = s.flag (pREGN c) (f.nth 16 k) := by
    unfold flag
    rw [hf hf']
  unfold regionAllows
  dsimp only
  rw [hf (by decide), hf (by decide), hf (by decide), hflag (by decide), hflag (by split <;> decide), hflag (by split <;> decide),
    inGroup_congr h (fld_lt s _ _)]

theorem permitted_congr (h : ∀ j, keyBank j = 14 → t.rd j = s.rd j) {c : Nat} {src : Source} {rd wr : Bool} {a n : Nat}
    (hc : c < 16) : t.permitted c src rd wr a n = s.permitted c src rd wr a n := by
  have hregions : controllerRegions c ≤ 64 := by
    unfold controllerRegions
    split <;> decide
  unfold permitted
  rw [Bool.eq_iff_iff, List.any_eq_true, List.any_eq_true]
  refine exists_congr fun k => and_congr_right fun hk => ?_
  rw [regionAllows_congr h hc (Nat.lt_of_lt_of_le (List.mem_range.mp hk) hregions)]

/-- The register space is behind controller 12. -/
theorem controller_registers (s : Zone) (k : Nat) (h : k < 0x8000000) : s.controller (0x1F0000000 + k) = some 12 := by
  unfold controller
  rw [if_neg (by omega), if_neg (by omega), if_neg (by omega), if_neg (by omega), if_neg (by omega), if_pos (by omega)]

/-- Outside of the banks whose words say who owns a grant window, a write to a page falls into no window or into one of a queue pair. -/
theorem grantWindow_congr (h : ∀ j, keyBank j = 14 → t.rd j = s.rd j) {src : Source} {k : Nat} {v : Word}
    (hb : keyBank k ∉ [6, 7, 10, 14]) : t.grantWindow src k true v = s.grantWindow src k true v := by
  have hq : v.toNat % 1024 < 1024 := Nat.mod_lt _ (by decide)
  have hpair {f : Fld} (hf : f.off < 0x20) : t.fld (pPAIR (v.toNat % 1024)) f = s.fld (pPAIR (v.toNat % 1024)) f := by
    refine congrArg f.get (h _ ?_)
    simp only [keyBank, pPAIR, page]
    omega
  unfold grantWindow
  dsimp only
  split
  · simp_all
  · have hstate : t.pairState (v.toNat % 1024) = s.pairState (v.toNat % 1024) := hpair (by decide)
    have howner : t.pairOwner (v.toNat % 1024) = s.pairOwner (v.toNat % 1024) := by
      unfold pairOwner flag
      rw [hpair (by decide), hpair (by decide)]
    rw [hstate, howner]
  · simp_all
  · simp_all
  · simp
  · simp_all
  · rfl

/-- A write that is granted stays so while the words of MOOR and those of the grant windows stay. -/
theorem wordCheck_congr (h : ∀ j, keyBank j = 14 → t.rd j = s.rd j) {src : Source} {k : Nat} {v : Word}
    (hb : keyBank k ∉ [6, 7, 10, 14]) (hk : k < 0x8000000) (hs : s.wordCheck src k true v = (Err.none, s)) :
    t.wordCheck src k true v = (Err.none, t) := by
  unfold wordCheck at hs ⊢
  unfold regionCheck at hs ⊢
  rw [grantWindow_congr h hb]
  simp only [controller_registers _ _ hk] at hs ⊢
  rw [permitted_congr h (by decide)]
  split at hs
  · cases hs
  · rw [if_neg ‹_›]
    split at hs
    · rw [if_pos ‹_›]
    · rw [if_neg ‹_›]
      split at hs
      · cases hs
      · rw [if_neg ‹_›]
        split at hs
        · rw [if_pos ‹_›]
        · cases hs

/-- What no region permits is refused and recorded (R501, R504). -/
theorem wordCheck_refused {src : Source} {k : Nat} {v : Word} (hk : k < 0x8000000)
    (hp : pageKind (keyBank k) (keyChan k) ≠ none) (hw : s.grantWindow src k true v = false)
    (hr : s.permitted 12 src false true (0x1F0000000 + k) 4 = false) :
    s.wordCheck src k true v = (Err.region, s.refuse_ 12 src true (0x1F0000000 + k)) := by
  unfold wordCheck
  rw [if_neg (by simpa using hp), if_neg (by simp [hw])]
  split
  · rfl
  · unfold regionCheck
    simp only [controller_registers _ _ hk]
    rw [if_neg (by simpa using hr)]

theorem refuse_bankFrame (s : Zone) (src : Source) (write : Bool) (a : Nat) (parts : List Part) :
    s.BankFrame [14] parts (s.refuse_ 12 src write a) := by
  have hv (f : Fld) (hf : f.off < 0x1000) : keyBank (pREGN 12 + f.off) ∈ [14] := by
    simp only [keyBank, pREGN, page, List.mem_singleton]
    omega
  unfold refuse_
  extract_lets p s₁ s₂
  have h₁ : s.BankFrame [14] parts s₁ := by
    dsimp only [s₁]
    split
    · exact ((((BankFrame.refl.wr (hv _ (by decide))).wr (hv _ (by decide))).wr (hv _ (by decide))).wr (hv _ (by decide))).wr
        (hv _ (by decide))
    · exact .refl
  rw [if_neg (by decide)]
  exact h₁.wr (hv _ (by decide))

/-! ### Writes of keepers -/

/-- A command of a keeper that reaches a page leaves no more than a mark at the stage it passed. -/
theorem deliver_delivered {x : Keeper} {k : Nat} (h : (s.deliver x k).1 = .delivered) :
    (s.deliver x k).2 = s ∨ ∃ i st, (s.deliver x k).2 = s.setStage i st := by
  unfold deliver at h ⊢
  split at h
  · cases h
  · rw [if_neg ‹_›]
    split at h
    · split at h
      · cases h
      · exact .inr ⟨_, _, rfl⟩
    · split at h
      · rw [if_pos ‹_›]
        exact .inl rfl
      · cases h

theorem pageAccepted_of_heard {k : Nat} (h : keyBank k = 1 → (s.load (keyChan k)).silent = false) : s.pageAccepted k = s := by
  unfold pageAccepted
  split
  · next hk =>
    unfold loadAccepted
    simp [h hk.1]
  · rfl

theorem keeperWrite_reaches {x : Keeper} {k mode : Nat} {v : Word} {kind : PageKind} {d : WordD} (h : s.Reaches x k)
    (hd : keyD k = some (kind, d)) (hs : keyBank k = 1 → (s.load (keyChan k)).silent = false) :
    ∃ z : Zone, s.Frame [] [.stages] z ∧ z.regs = s.regs ∧ s.keeperWrite x k mode v = z.regWrite (.keeper x) kind d k mode v := by
  obtain ⟨hp, hdel, hcan⟩ := h
  have hz : s.Frame [] [.stages] (s.deliver x k).2 ∧ (s.deliver x k).2.regs = s.regs ∧ (s.deliver x k).2.loads = s.loads := by
    rcases deliver_delivered hdel with e | ⟨i, st, e⟩ <;> rw [e]
    · exact ⟨.refl, rfl, rfl⟩
    · exact ⟨Frame.refl.setStage (by decide), rfl, rfl⟩
  obtain ⟨hframe, hregs, hloads⟩ := hz
  refine ⟨_, hframe, hregs, ?_⟩
  have hacc : (s.deliver x k).2.pageAccepted k = (s.deliver x k).2 :=
    pageAccepted_of_heard (by unfold load at hs ⊢; rw [hloads]; exact hs)
  unfold keeperWrite
  dsimp only
  rw [if_neg (by simp [hdel, hp]), if_neg fun h => hcan ⟨h.1, h.2.1⟩ h.2.2, hd]
  dsimp only
  rw [hacc]

theorem written_congr (h : t.regs = s.regs) {w : Writer} {kind : PageKind} {d : WordD} {k mode : Nat} {v : Word} :
    t.written w kind d k mode v = s.written w kind d k mode v := by
  unfold written locked
  rw [rd_congr h, rd_congr h]

/-- A keeper's write of a plain word stores it. -/
theorem keeperWrite_plain {x : Keeper} {k mode : Nat} {v : Word} {kind : PageKind} {d : WordD} (h : s.Reaches x k)
    (hd : keyD k = some (kind, d)) (hp : plainWord kind k = true) (hr : d.reached (reachOf kind (.keeper x)) ≠ 0)
    (hs : keyBank k = 1 → (s.load (keyChan k)).silent = false) :
    (s.keeperWrite x k mode v).rd k = s.written (.keeper x) kind d k mode v ∧
      s.Frame [k] [.stages] (s.keeperWrite x k mode v) := by
  obtain ⟨z, ⟨hw, hm, hparts⟩, hregs, he⟩ := keeperWrite_reaches (mode := mode) (v := v) h hd hs
  rw [he, regWrite_plain hd hp hr, written_congr hregs]
  exact ⟨rd_wr_same _ _ _, Frame.wr ⟨fun j _ => hw j (by simp), hm, hparts⟩ (by simp)⟩

/-- A keeper without the watch writes nothing where no stage checks its claim; the write is counted. -/
theorem keeperWrite_shadow {x : Keeper} {k mode : Nat} {v : Word} (hm : s.mode ≠ .test) (ho : s.portOpen x = true)
    (hst : stageOf (keyPage k) = none) (hw : s.holdsWatch x = false) :
    s.keeperWrite x k mode v = s.count (pKEEPER x) KEEPER.SHADOW_COUNTS_WRITES := by
  have hd : s.deliver x k = (.dropped, s.count (pKEEPER x) KEEPER.SHADOW_COUNTS_WRITES) := by
    unfold deliver
    rw [if_neg (by simp [hm, ho]), hst]
    dsimp only
    rw [if_neg (by simp [hw])]
  unfold keeperWrite
  rw [hd]
  exact if_pos (.inl (by simp))

/-! ### Reads -/

theorem spaceRead_granted {src : Source} {k : Nat} {kind : PageKind} (ha : alignedAccess k 4 = true)
    (hc : s.wordCheck src k false 0 = (Err.none, s)) (hp : pageKind (keyBank k) (keyChan k) = some kind) :
    s.spaceRead src k 4 = (Err.none, (s.fwRead kind k).1.toNat, (s.fwRead kind k).2) := by
  rw [spaceRead_word ha, wordRead_granted hc hp]

/-- A read of a word that nothing computes anew answers it and clears its fields of access RC. -/
theorem fwRead_stored {k : Nat} {kind : PageKind} {d : WordD} (hd : keyD k = some (kind, d)) (hk : kind ≠ .swp)
    (hr : (s.readWord k).2 = s) :
    (s.fwRead kind k).1 = (s.readWord k).1 ∧ s.Frame [k] [] (s.fwRead kind k).2 ∧
      (s.fwRead kind k).2.rd k = s.rd k &&& ~~~ d.rc.foldl (fun m f => m ||| bitsMask f.1 f.2) 0 := by
  unfold fwRead
  simp only [(keyD_eq_some hd).2, hk, false_and, if_false]
  split
  · next h =>
    rw [hr]
    exact ⟨rfl, .refl, by rw [h]; exact BitVec.and_allOnes.symm⟩
  · rw [hr]
    exact ⟨rfl, Frame.refl.wr (by simp), rd_wr_same _ _ _⟩

end Zone

end Sys2Proof.Machine
end

