-- ==== Sys2Proof/Proofs/RegisterReads.lean ====
section
/-! SUPPORT. Rows of the register tables with locks and KW fields, writes of two words, and reads, which leave memory (R27, R29). -/

namespace Sys2Proof.Machine

open Reg

/-! ### Rows of the register tables -/

/-- A word with a LOCK is a plain one besides: nothing of it is cleared by reading, write-only or for keepers alone. -/
theorem wordD_lock {kind : PageKind} {d : WordD} (h : wordD kind 0xFC = some d) (hl : d.w1s.testBit 0 = true) :
    d.rc = [] ∧ d.wo = 0 ∧ d.kw = 0 := by
  have key : (wordD kind 0xFC).all (fun d => !d.w1s.testBit 0 || (d.rc == [] && d.wo == 0 && d.kw == 0)) = true := by
    cases kind <;> decide
  simp only [h, Option.all_some, hl, Bool.not_true, Bool.false_or] at key
  simpa [and_assoc] using key

theorem fieldRanges_lock (kind : PageKind) (ch : Nat) : fieldRanges kind ch 0xFC = [] := by
  cases kind <;> simp [fieldRanges]

/-- Words with KW fields lie outside of the queue pairs, and are neither doorbells nor acknowledged by their owner. -/
theorem wordD_kw {kind : PageKind} {off : Nat} {d : WordD} (h : wordD kind off = some d) (hk : d.kw ≠ 0) :
    kind ≠ .qpr ∧ (kind = .swp → off ≠ 0x700) ∧ Zone.ownerWord_ kind off = false := by
  refine ⟨?_, ?_, ?_⟩
  · rintro rfl
    have hall : ∀ d ∈ PageKind.qpr.words, d.kw = 0 := by decide
    exact hk (hall d (List.mem_of_find?_eq_some h))
  · rintro rfl rfl
    have : (wordD .swp 0x700).all (·.kw == 0) = true := by decide
    rw [h] at this
    simp [hk] at this
  · by_contra hne
    have ho : Zone.ownerWord_ kind off = true := by simpa using hne
    have hall : (wordD kind off).all (·.kw == 0) = true := by
      unfold Zone.ownerWord_ at ho
      split at ho
      · rw [beq_iff_eq.mp ho]
        decide
      · rw [beq_iff_eq.mp ho]
        decide
      · rw [beq_iff_eq.mp ho]
        decide
      · cases ho
    rw [h] at hall
    simp [hk] at hall

namespace Zone

variable {s t : Zone}

/-! ### Writes of firmware -/

/-- A write of firmware to a word with KW fields of which it reaches nothing else is counted, and no more (R29). -/
theorem fwWord_kw {src : Source} {kind : PageKind} {d : WordD} {k : Nat} {v : Word} (hd : keyD k = some (kind, d))
    (hr : d.reached (reachOf kind (.firmware src)) = 0) (hs : kind ≠ .stream) (hk : d.kw ≠ 0) :
    s.fwWord src kind k v = s.kwReject k src := by
  have hword := (keyD_eq_some hd).2
  obtain ⟨hq, hp, ho⟩ := wordD_kw hword hk
  unfold fwWord
  simp only [hword]
  cases kind with
  | qpr => exact absurd rfl hq
  | stream => exact absurd rfl hs
  | swp => exact (if_neg (hp rfl)).trans (by rw [if_neg hk, regWrite_unreached ho hr])
  | _ => dsimp only; rw [if_neg hk, regWrite_unreached ho hr]

theorem kwReject_frame {k : Nat} {src : Source} {parts : List Part} :
    s.Frame [pZONE 0 + ZONE0.KW_REJECT_COUNT.off, pZONE 0 + ZONE0.KW_REJECT_ADDR_OFFSET.off, pZONE 0 + ZONE0.KW_REJECT_SRC_WORLD.off]
      parts (s.kwReject k src) :=
  (((Frame.refl.wr (by simp)).wr (by simp)).wr (by simp)).wr (by simp)

/-- Firmware's write of two plain words stores both, the lower one first. -/
theorem spaceWrite_two_plain {src : Source} {k v : Nat} {kind kind' : PageKind} {d d' : WordD} (hk : k < 2 ^ 24)
    (hg : s.Grants src k 8 true (BitVec.ofNat 32 v))
    (hc : s.wordCheck src (k + 4) true (BitVec.ofNat 32 (v / 2 ^ 32)) = (Err.none, s))
    (hd : keyD k = some (kind, d)) (hd' : keyD (k + 4) = some (kind', d')) (hp : plainWord kind k = true)
    (hp' : plainWord kind' (k + 4) = true) (hb : keyBank k ∉ [6, 7, 10, 14]) (hw : d.kw = 0) (hw' : d'.kw = 0)
    (hr : d.reached (reachOf kind (.firmware src)) ≠ 0) (hr' : d'.reached (reachOf kind' (.firmware src)) ≠ 0) :
    s.spaceWrite src k 8 v = (Err.none,
      (s.wr k (s.written (.firmware src) kind d k 0 (BitVec.ofNat 32 v))).wr (k + 4)
        (s.written (.firmware src) kind' d' (k + 4) 0 (BitVec.ofNat 32 (v / 2 ^ 32)))) := by
  obtain ⟨ha, hl, hc₀⟩ := hg
  have h8 : k % 8 = 0 := by simpa [alignedAccess] using ha
  have hbank : keyBank (k + 4) = keyBank k := by unfold keyBank; omega
  have hmoor : keyBank k ≠ 14 := fun e => hb (by simp [e])
  have hlock : keyPage (k + 4) + 0xFC ≠ k := by unfold keyPage; omega
  have hfirst : s.wordWrite src k (BitVec.ofNat 32 v) =
      (Err.none, s.wr k (s.written (.firmware src) kind d k 0 (BitVec.ofNat 32 v))) := by
    rw [wordWrite_granted hc₀ (keyD_eq_some hd).1, fwWord_plain hd hp hw, regWrite_plain hd hp hr]
  rw [spaceWrite_words ha hl, hfirst]
  generalize s.written (.firmware src) kind d k 0 (BitVec.ofNat 32 v) = u
  have hc' := wordCheck_congr (t := s.wr k u) (fun j hj => rd_wr_ne _ _ _ _ fun e => hmoor (e ▸ hj)) (by rw [hbank]; exact hb)
    (by omega) hc
  have hsame : (s.wr k u).written (.firmware src) kind' d' (k + 4) 0 (BitVec.ofNat 32 (v / 2 ^ 32)) =
      s.written (.firmware src) kind' d' (k + 4) 0 (BitVec.ofNat 32 (v / 2 ^ 32)) := by
    unfold written locked
    rw [rd_wr_ne _ _ _ _ (by omega), rd_wr_ne _ _ _ _ hlock]
  dsimp only
  rw [wordWrite_granted hc' (keyD_eq_some hd').1, fwWord_plain hd' hp' hw', regWrite_plain hd' hp' hr', hsame]
  rfl

/-! ### Reads leave memory -/

theorem mem_busBytes (s : Zone) (a n : Nat) : (s.busBytes a n).2.mem = s.mem := by
  induction n generalizing s a with
  | zero => rfl
  | succ n ih =>
    refine (ih _ _).trans ?_
    unfold busByte
    split <;> rfl

theorem mem_setFldS (s : Zone) (p : Nat) (f : Fld) (v : Int) : (s.setFldS p f v).mem = s.mem := by
  unfold setFldS
  split <;> rfl

theorem mem_shape (s : Zone) (p : Nat) : (s.shape p).mem = s.mem := by
  refine forEach_keeps (·.mem = s.mem) _ _ (fun z _n h => ?_) s rfl
  split
  · exact (mem_setFldS _ _ _ _).trans h
  · exact h

theorem mem_gateEval (s : Zone) (p : Nat) : (s.gateEval p).mem = s.mem := by
  unfold gateEval
  extract_lets s₁ g s₂ g' s₃ x
  have h₂ : s₂.mem = s₁.mem := by
    dsimp only [s₂]
    split
    · split <;> rfl
    · rfl
  have h₃ : s₃.mem = s₂.mem := by
    dsimp only [s₃]
    split
    · rfl
    · split
      · simp only [setFld_mem, event_mem]
        rfl
      · rfl
  rw [setFld_mem, setFld_mem, h₃, h₂]
  exact mem_shape s p

theorem mem_showHold (s : Zone) (p : Nat) : (s.showHold p).mem = s.mem := by
  unfold showHold
  split <;> rfl

theorem mem_counterRead (s : Zone) (p off : Nat) : (s.counterRead p off).2.mem = s.mem := by
  unfold counterRead
  dsimp only
  split
  · rfl
  · split <;> rfl

theorem mem_ite_snd {α : Type} {c : Prop} [Decidable c] {a b : α × Zone} {l : SMap Byte} (ha : a.2.mem = l) (hb : b.2.mem = l) :
    (if c then a else b).2.mem = l := by
  split
  · exact ha
  · exact hb

theorem mem_readWord (s : Zone) (k : Nat) : (s.readWord k).2.mem = s.mem := by
  unfold readWord
  dsimp only
  split
  · rfl
  · refine mem_ite_snd rfl ?_
    split
    · exact mem_ite_snd rfl (mem_ite_snd (mem_busBytes _ _ _) rfl)
    · exact mem_ite_snd (mem_counterRead _ _ _)
        (mem_ite_snd (mem_gateEval _ _) (mem_ite_snd (mem_showHold _ _) (mem_ite_snd (mem_shape _ _) rfl)))
    · exact mem_ite_snd rfl rfl
    · exact mem_ite_snd rfl rfl
    · exact mem_ite_snd rfl rfl
    · exact mem_ite_snd rfl rfl
    · exact mem_ite_snd rfl rfl
    · split <;> rfl
    · split <;> rfl
    · exact mem_ite_snd rfl (mem_ite_snd rfl rfl)
    · split <;> rfl
    · rfl

theorem mem_fwRead (s : Zone) (kind : PageKind) (k : Nat) : (s.fwRead kind k).2.mem = s.mem := by
  unfold fwRead
  split
  · rfl
  · split
    · exact mem_counterRead _ _ _
    · dsimp only
      split
      · exact mem_readWord s k
      · exact mem_readWord s k

end Zone

end Sys2Proof.Machine
end

