-- ==== Sys2Proof/Proofs/RegisterSpace.lean ====
section
/-! SUPPORT. What each access completes, and O3. -/

namespace Sys2Proof.Machine

open Reg

/-! ### Locks -/

theorem keyBank_lock (p : PageArg) : keyBank (page p.bank.toNat p.channel.toNat + 0xFC) = p.bank.toNat := by
  unfold keyBank page
  omega

theorem keyChan_lock (p : PageArg) : keyChan (page p.bank.toNat p.channel.toNat + 0xFC) = p.channel.toNat := by
  unfold keyChan page
  omega

theorem keyOff_lock (b c : Nat) : keyOff (page b c + 0xFC) = 0xFC := by
  unfold keyOff page
  omega

/-- Who configures a page reaches its LOCK. -/
theorem reached_lock {d : WordD} {r : Reach} (hl : d.w1s.testBit 0 = true) (hc : r.cfg = true) : d.reached r ≠ 0 := by
  have hbit : (d.reached r).getLsbD 0 = true := by
    simp only [WordD.reached, BitVec.getLsbD_or, BitVec.getLsbD_ofNat, Nat.testBit_or, hc, if_true, hl, Bool.or_true, Bool.true_or]
    rfl
  intro h
  rw [h] at hbit
  cases hbit

/-- A write of 1 to LOCK sets it (R15). -/
theorem Zone.written_lock (s : Zone) {w : Writer} {kind : PageKind} {d : WordD} {b c : Nat}
    (hd : keyD (page b c + 0xFC) = some (kind, d)) (hl : d.w1s.testBit 0 = true) (hc : (reachOf kind w).cfg = true) :
    (s.written w kind d (page b c + 0xFC) 0 1).getLsbD 0 = true := by
  have hword := (keyD_eq_some hd).2
  rw [keyOff_lock] at hword
  obtain ⟨hrc, hwo, -⟩ := wordD_lock hword hl
  unfold written
  rw [keyOff_lock, fieldRanges_lock]
  refine (WordD.merge_takes d _ _ _ _ hrc 0).trans ?_
  simp [hl, hc, hwo]

theorem Zone.locked_respond (s : Zone) (code data p : Nat) : (s.respond code data).locked p = s.locked p := rfl

theorem Zone.locked_wr_lock (s : Zone) (p : Nat) (v : Word) : (s.wr (p + 0xFC) v).locked p = v.getLsbD 0 := by
  unfold locked
  rw [rd_wr_same]

/-! ### The words that count refused writes of KW fields -/

theorem Zone.kwReject_fields (s : Zone) (src : Source) (k : BitVec 24) :
    (s.kwReject k.toNat src).fld (pZONE 0) ZONE0.KW_REJECT_COUNT = min (s.fld (pZONE 0) ZONE0.KW_REJECT_COUNT + 1) 0xFFFF ∧
      (s.kwReject k.toNat src).fld (pZONE 0) ZONE0.KW_REJECT_ADDR_OFFSET = k.toNat ∧
      (s.kwReject k.toNat src).flag (pZONE 0) ZONE0.KW_REJECT_SRC_WORLD = decide (src.world = .secure) ∧
      (s.kwReject k.toNat src).fld (pZONE 0) ZONE0.KW_REJECT_SRC_MOORING = src.mooring.toNat := by
  unfold kwReject setFlag
  dsimp only
  refine ⟨?_, ?_, ?_, ?_⟩
  · rw [fld_setFld_ne _ _ _ _ _ _ (by decide), fld_setFld_ne _ _ _ _ _ _ (by decide), fld_setFld_ne _ _ _ _ _ _ (by decide)]
    exact fld_count_same _ _ _ (by decide)
  · rw [fld_setFld_ne _ _ _ _ _ _ (by decide), fld_setFld_ne _ _ _ _ _ _ (by decide), fld_setFld_same _ _ _ _ (by decide)]
    exact Nat.mod_eq_of_lt k.isLt
  · rw [flag_setFld_ne _ _ _ _ _ _ (by decide)]
    exact (flag_setFlag_same _ _ _ _ (by decide) (by decide)).trans (beq_eq_decide _ _)
  · rw [fld_setFld_same _ _ _ _ (by decide)]
    exact Nat.mod_eq_of_lt src.mooring.isLt

/-! ### What firmware's writes and reads complete -/

section Firmware

variable {s : State} {src : Source} {k : BitVec 24} {n : BitVec 4} {m : Fin 4} {v : BitVec 64} {kind kind' : PageKind} {d d' : WordD}

theorem firmwareWrite_answers (h : s.zone.start.released = true) (hg : s.zone.Grants src k.toNat 4 true (v.setWidth 32)) :
    Completes (.registerWrite (.firmware src) k 4 m v) s fun z => z.resp = ⟨Err.none, 0⟩ := by
  have ⟨_, _, hc⟩ := hg
  obtain ⟨kind, hp⟩ := Zone.populated_of_wordCheck hc
  exact ⟨_, exec_registerWrite_granted h hg hp, rfl⟩

theorem firmwareWrite_stores (h : s.zone.start.released = true) (hg : s.zone.Grants src k.toNat 4 true (v.setWidth 32))
    (hd : keyD k.toNat = some (kind, d)) (hp : Zone.plainWord kind k.toNat = true) (hw : d.kw = 0)
    (hr : d.reached (reachOf kind (.firmware src)) ≠ 0) : Completes (.registerWrite (.firmware src) k 4 m v) s fun z =>
      z.resp = ⟨Err.none, 0⟩ ∧ z.rd k.toNat = s.zone.written (.firmware src) kind d k.toNat 0 (v.setWidth 32) ∧
      s.zone.Frame [k.toNat] [.resp] z := by
  refine ⟨_, exec_registerWrite_plain h hg hd hp hw, ?_⟩
  rw [Zone.regWrite_plain hd hp hr]
  exact ⟨rfl, Zone.rd_wr_same _ _ _, (Zone.Frame.refl.wr (by simp)).respond (by simp)⟩

theorem firmwareWrite_takes (h : s.zone.start.released = true) (hg : s.zone.Grants src k.toNat 4 true (v.setWidth 32))
    (hd : keyD k.toNat = some (kind, d)) (hp : Zone.plainWord kind k.toNat = true)
    (hf : fieldRanges kind (keyChan k.toNat) (keyOff k.toNat) = []) (hrc : d.rc = []) (hw : d.kw = 0) :
    Completes (.registerWrite (.firmware src) k 4 m v) s fun z => Zone.Takes d (reachOf kind (.firmware src))
      (s.zone.locked (keyPage k.toNat)) (s.zone.rd k.toNat) (v.setWidth 32) (z.rd k.toNat) := by
  by_cases hr : d.reached (reachOf kind (.firmware src)) = 0
  · have ho : Zone.ownerWord_ kind (keyOff k.toNat) = false := by
      unfold Zone.plainWord at hp
      simp only [Bool.and_eq_true, Bool.not_eq_true'] at hp
      exact hp.1.2
    refine ⟨_, exec_registerWrite_plain h hg hd hp hw, ?_⟩
    rw [Zone.regWrite_unreached ho hr]
    exact d.takes_unreached _ _ _ _ hr
  · obtain ⟨z, he, -, hz, -⟩ := firmwareWrite_stores h hg hd hp hw hr
    refine ⟨z, he, ?_⟩
    dsimp only
    rw [hz, Zone.written, hf]
    exact d.merge_takes _ _ _ _ hrc

theorem firmwareWrite_kw (h : s.zone.start.released = true) (hg : s.zone.Grants src k.toNat 4 true (v.setWidth 32))
    (hd : keyD k.toNat = some (kind, d)) (hr : d.reached (reachOf kind (.firmware src)) = 0) (hs : kind ≠ .stream) (hk : d.kw ≠ 0) :
    exec (.registerWrite (.firmware src) k 4 m v) s = .next { s with zone := (s.zone.kwReject k.toNat src).respond Err.none 0 } := by
  rw [exec_registerWrite_granted h hg (keyD_eq_some hd).1, Zone.fwWord_kw hd hr hs hk]

/-- The two words of an access to 8 bytes lie in one page. -/
theorem keyPage_next {w : Bool} {u : Word} (hg : s.zone.Grants src k.toNat 8 w u) : keyPage (k.toNat + 4) = keyPage k.toNat := by
  obtain ⟨ha, -, -⟩ := hg
  have h8 : k.toNat % 8 = 0 := by simpa [Zone.alignedAccess] using ha
  unfold keyPage
  omega

theorem firmwareWrite_two (h : s.zone.start.released = true) (hg : s.zone.Grants src k.toNat 8 true (v.setWidth 32))
    (hc : s.zone.wordCheck src (k.toNat + 4) true ((v >>> 32).setWidth 32) = (Err.none, s.zone)) (hd : keyD k.toNat = some (kind, d))
    (hd' : keyD (k.toNat + 4) = some (kind', d')) (hp : Zone.plainWord kind k.toNat = true)
    (hp' : Zone.plainWord kind' (k.toNat + 4) = true) (hb : [6, 7, 10, 14].contains (keyBank k.toNat) = false) (hw : d.kw = 0)
    (hw' : d'.kw = 0) (hr : d.reached (reachOf kind (.firmware src)) ≠ 0) (hr' : d'.reached (reachOf kind' (.firmware src)) ≠ 0) :
    Completes (.registerWrite (.firmware src) k 8 m v) s fun z =>
      z.rd k.toNat = s.zone.written (.firmware src) kind d k.toNat 0 (v.setWidth 32) ∧
      z.rd (k.toNat + 4) = s.zone.written (.firmware src) kind' d' (k.toNat + 4) 0 ((v >>> 32).setWidth 32) ∧
      s.zone.Frame [k.toNat, k.toNat + 4] [.resp] z := by
  have hlow : v.setWidth 32 = BitVec.ofNat 32 v.toNat := (BitVec.ofNat_toNat ..).symm
  have hhigh : (v >>> 32).setWidth 32 = BitVec.ofNat 32 (v.toNat / 2 ^ 32) := by
    rw [← BitVec.ofNat_toNat, BitVec.toNat_ushiftRight, Nat.shiftRight_eq_div_pow]
  rw [hlow] at hg ⊢
  rw [hhigh] at hc ⊢
  refine ⟨_, exec_registerWrite_firmware h
    (Zone.spaceWrite_two_plain k.isLt hg hc hd hd' hp hp' (by simpa using hb) hw hw' hr hr'), ?_, ?_, ?_⟩
  · exact (Zone.rd_wr_ne _ _ _ _ (by omega)).trans (Zone.rd_wr_same _ _ _)
  · exact Zone.rd_wr_same _ _ _
  · exact ((Zone.Frame.refl.wr (by simp)).wr (by simp)).respond (by simp)

theorem firmwareWrite_misaligned (h : s.zone.start.released = true) (ha : Zone.alignedAccess k.toNat n.toNat = false) :
    Completes (.registerWrite (.firmware src) k n m v) s fun z => z.resp = ⟨Err.align, 0⟩ ∧ s.zone.Frame [] [.resp] z :=
  ⟨_, exec_registerWrite_firmware h (Zone.spaceWrite_misaligned ha), rfl, Zone.Frame.refl.respond (by simp)⟩

/-- A write whose check refuses it answers the code of the check and leaves what the check has recorded. -/
theorem firmwareWrite_refused {c : Nat} {z : Zone} (h : s.zone.start.released = true) (ha : Zone.alignedAccess k.toNat 4 = true)
    (hl : s.zone.lineWritten 1 (0x1F0000000 + k.toNat) 4 = s.zone) (hn : c ≠ Err.none)
    (hc : s.zone.wordCheck src k.toNat true (v.setWidth 32) = (c, z)) :
    exec (.registerWrite (.firmware src) k 4 m v) s = .next { s with zone := z.respond c 0 } := by
  refine exec_registerWrite_firmware h ((Zone.spaceWrite_word ha hl).trans ?_)
  rw [BitVec.ofNat_toNat]
  unfold Zone.wordWrite
  rw [hc]
  exact if_pos hn

theorem firmwareRead_stored (h : s.zone.start.released = true) (ha : Zone.alignedAccess k.toNat 4 = true)
    (hc : s.zone.wordCheck src k.toNat false 0 = (Err.none, s.zone)) (hd : keyD k.toNat = some (kind, d)) (hk : kind ≠ .swp)
    (hr : (s.zone.readWord k.toNat).2 = s.zone) : Completes (.rcRead src k 4) s fun z =>
      z.resp = ⟨Err.none, (s.zone.readWord k.toNat).1.toNat⟩ ∧
      z.rd k.toNat = s.zone.rd k.toNat &&& ~~~ d.rc.foldl (fun m f => m ||| bitsMask f.1 f.2) 0 ∧
      s.zone.Frame [k.toNat] [.resp] z := by
  obtain ⟨hv, ⟨hwords, hmem, hparts⟩, hrd⟩ := Zone.fwRead_stored hd hk hr
  refine ⟨_, exec_rcRead h (Zone.spaceRead_granted ha hc (keyD_eq_some hd).1), ?_, hrd,
    Zone.Frame.respond ⟨hwords, hmem, fun p _ => hparts p (by simp)⟩ (by simp)⟩
  rw [← hv]
  rfl

theorem firmwareRead_keeps_memory (h : s.zone.start.released = true) (ha : Zone.alignedAccess k.toNat 4 = true)
    (hc : s.zone.wordCheck src k.toNat false 0 = (Err.none, s.zone)) :
    Completes (.rcRead src k 4) s fun z => z.resp.code = Err.none ∧ z.SameMemory s.zone := by
  obtain ⟨kind, hp⟩ := Zone.populated_of_wordCheck hc
  exact ⟨_, exec_rcRead h (Zone.spaceRead_granted ha hc hp), rfl, Zone.sameMemory_of_mem (Zone.mem_fwRead _ _ _)⟩

theorem firmwareLock_sets {p : PageArg} (h : s.zone.start.released = true)
    (hg : s.zone.Grants src (page p.bank.toNat p.channel.toNat + 0xFC) 4 true 1)
    (hd : keyD (page p.bank.toNat p.channel.toNat + 0xFC) = some (kind, d)) (hl : d.w1s.testBit 0 = true)
    (hp : Zone.plainWord kind (page p.bank.toNat p.channel.toNat + 0xFC) = true) (hc : (reachOf kind (.firmware src)).cfg = true) :
    Completes (.pageLock (.firmware src) p) s fun z => z.locked (page p.bank.toNat p.channel.toNat) = true ∧
      s.zone.Frame [page p.bank.toNat p.channel.toNat + 0xFC] [.resp] z := by
  have hword := (keyD_eq_some hd).2
  rw [keyOff_lock] at hword
  obtain ⟨-, -, hw⟩ := wordD_lock hword hl
  have he := Zone.spaceWrite_granted hg (keyD_eq_some hd).1
  rw [Zone.fwWord_plain hd hp hw, Zone.regWrite_plain hd hp (reached_lock hl hc)] at he
  refine ⟨_, exec_pageLock_firmware h he, ?_, (Zone.Frame.refl.wr (by simp)).respond (by simp)⟩
  rw [Zone.locked_respond, Zone.locked_wr_lock]
  exact s.zone.written_lock hd hl hc

end Firmware

/-! ### What the keepers' writes complete -/

section Keepers

variable {s : State} {x : Keeper} {k : BitVec 24} {n : BitVec 4} {m : Fin 4} {v : BitVec 64} {kind : PageKind} {d : WordD}

theorem keeperWrite_counts (h : s.zone.logicRuns = true) (hm : s.zone.mode ≠ .test) (ho : s.zone.portOpen x = true)
    (hk : k.toNat % 4 = 0) (hst : stageOf (keyPage k.toNat) = none) (hw : s.zone.holdsWatch x = false) :
    Completes (.registerWrite (.keeper x) k n m v) s fun z =>
      z.fld (pKEEPER x) KEEPER.SHADOW_COUNTS_WRITES =
        min (s.zone.fld (pKEEPER x) KEEPER.SHADOW_COUNTS_WRITES + 1) (2 ^ KEEPER.SHADOW_COUNTS_WRITES.w - 1) ∧
      s.zone.Frame [pKEEPER x + KEEPER.SHADOW_COUNTS_WRITES.off] [] z := by
  refine ⟨_, exec_registerWrite_keeper h hk, ?_⟩
  rw [Zone.keeperWrite_shadow hm ho hst hw]
  exact ⟨Zone.fld_count_same _ _ _ (by decide), Zone.Frame.refl.wr (by simp)⟩

theorem keeperLock_sets {p : PageArg} (h : s.zone.logicRuns = true)
    (hx : s.zone.Reaches x (page p.bank.toNat p.channel.toNat + 0xFC))
    (hd : keyD (page p.bank.toNat p.channel.toNat + 0xFC) = some (kind, d)) (hl : d.w1s.testBit 0 = true)
    (hp : Zone.plainWord kind (page p.bank.toNat p.channel.toNat + 0xFC) = true) (hc : (reachOf kind (.keeper x)).cfg = true)
    (hs : p.bank.toNat = 1 → (s.zone.load p.channel.toNat).silent = false) :
    Completes (.pageLock (.keeper x) p) s fun z => z.locked (page p.bank.toNat p.channel.toNat) = true ∧
      s.zone.Frame [page p.bank.toNat p.channel.toNat + 0xFC] [.stages] z := by
  obtain ⟨hrd, hframe⟩ := Zone.keeperWrite_plain (mode := 0) (v := 1) hx hd hp (reached_lock hl hc)
    (by rw [keyBank_lock, keyChan_lock]; exact hs)
  refine ⟨_, exec_pageLock_keeper h, ?_, hframe⟩
  rw [Zone.locked, hrd]
  exact s.zone.written_lock hd hl hc

end Keepers

/-- A write of a locked page's IN_THRESH leaves the page as it is, whoever writes. -/
theorem exec_inThreshWrite_locked {s : State} {x : Writer} {k : Fin 32} {v : Word} (h : s.zone.locked (pINPUT k.val) = true) :
    exec (.inThreshWrite x k v) s = .next s := by
  have hz : (if s.zone.mayConfigure x then s.zone.inThreshWrite k.val v else s.zone) = s.zone := by
    unfold Zone.inThreshWrite
    simp only [h, if_true, ite_self]
  change execInThreshWrite x k v s = _
  unfold execInThreshWrite
  cases x with
  | firmware src =>
    cases hr : s.zone.start.released with
    | true => rw [State.runBy_firmware _ _ _ hr, hz]
    | false => exact State.runFw_held _ _ hr
  | keeper x =>
    cases hr : s.zone.logicRuns with
    | true => rw [State.runBy_keeper _ _ _ hr, hz]
    | false => exact State.runOn_rests _ _ hr

/-- The word of the total of corrected errors is one field of access RC. -/
theorem keyD_dcqTotal : keyD (pZONE 5 + ZONE5.DCQ_CE_TOTAL_COUNT.off) = some (.zone5,
    { off := 32, n := 1, stride := 0, reset := 0, rw := 0, rwl := 0, kw := 0, w1c := 0, w1s := 0, rc := [(0, 32)], wo := 0 }) := by
  decide

theorem Zone.readWord_dcqTotal (s : Zone) : s.readWord (pZONE 5 + ZONE5.DCQ_CE_TOTAL_COUNT.off) =
    (s.rd (pZONE 5 + ZONE5.DCQ_CE_TOTAL_COUNT.off) &&& ~~~ 0, s) := by
  unfold readWord
  rw [keyD_dcqTotal]
  rfl

theorem Zone.fld_dcqTotal (s : Zone) :
    s.fld (pZONE 5) ZONE5.DCQ_CE_TOTAL_COUNT = (s.rd (pZONE 5 + ZONE5.DCQ_CE_TOTAL_COUNT.off)).toNat := by
  unfold fld Fld.get
  simp
  omega

/-- A read of the total of corrected errors answers it and clears it. -/
theorem firmwareRead_dcqTotal {s : State} {src : Source} (h : s.zone.start.released = true)
    (hc : s.zone.wordCheck src (pZONE 5 + ZONE5.DCQ_CE_TOTAL_COUNT.off) false 0 = (Err.none, s.zone)) :
    Completes (.rcRead src (BitVec.ofNat 24 (pZONE 5 + ZONE5.DCQ_CE_TOTAL_COUNT.off)) 4) s fun z =>
      z.resp = ⟨Err.none, s.zone.fld (pZONE 5) ZONE5.DCQ_CE_TOTAL_COUNT⟩ ∧ z.fld (pZONE 5) ZONE5.DCQ_CE_TOTAL_COUNT = 0 ∧
      s.zone.Frame [pZONE 5 + ZONE5.DCQ_CE_TOTAL_COUNT.off] [.resp] z := by
  have hk : (BitVec.ofNat 24 (pZONE 5 + ZONE5.DCQ_CE_TOTAL_COUNT.off)).toNat = pZONE 5 + ZONE5.DCQ_CE_TOTAL_COUNT.off := by decide
  obtain ⟨z, he, hresp, hrd, hframe⟩ := firmwareRead_stored (k := BitVec.ofNat 24 (pZONE 5 + ZONE5.DCQ_CE_TOTAL_COUNT.off)) h
    (by decide) (by rw [hk]; exact hc) (by rw [hk]; exact keyD_dcqTotal) (by decide) (by rw [hk, Zone.readWord_dcqTotal])
  rw [hk] at hresp hrd hframe
  refine ⟨z, he, ?_, ?_, hframe⟩
  · rw [hresp, Zone.readWord_dcqTotal, Zone.fld_dcqTotal, show ~~~ (0 : Word) = BitVec.allOnes 32 from rfl, BitVec.and_allOnes]
  · rw [Zone.fld_dcqTotal, hrd]
    have hmask : ~~~ [(0, 32)].foldl (fun (m : Word) f => m ||| bitsMask f.1 f.2) 0 = 0 := by decide
    rw [hmask]
    exact congrArg BitVec.toNat BitVec.and_zero

/-- Settles O3: what each access does is said by the lemmas on firmware's and keepers' accesses, clause by clause. -/
theorem registerSpaceTakesAndAnswers : Obligations.RegisterSpaceTakesAndAnswers := by
  unfold Obligations.RegisterSpaceTakesAndAnswers
  refine ⟨?_, ?_, ?_, ?_, ?_, ?_, ?_, ?_, ?_, ?_, ?_, ?_, ?_, ?_, ?_, ?_, ?_⟩
  · exact fun s src k m v h hg => firmwareWrite_answers h hg
  · exact fun s src k m v kind d h hg hd hp hw hr => firmwareWrite_stores h hg hd hp hw hr
  · exact fun s src k m v kind d h hg hd hp hf hrc hw => firmwareWrite_takes h hg hd hp hf hrc hw
  · intro s src k m v kind d h hg hd hr hs hk
    obtain ⟨hcount, haddr, hworld, hmooring⟩ := s.zone.kwReject_fields src k
    exact ⟨_, firmwareWrite_kw h hg hd hr hs hk, rfl, hcount, haddr, hworld, hmooring, Zone.kwReject_frame.respond (by simp)⟩
  · intro s src k m v kind kind' d d' h hg hc hd hd' hp hp' hb hw hw' hr hr'
    have hwords := firmwareWrite_two (m := m) h hg hc hd hd' hp hp' hb hw hw' hr hr'
    unfold Zone.written at hwords
    rwa [keyPage_next hg] at hwords
  · intro s x k n m v kind d h hk hx hd hp hr hs
    exact ⟨_, exec_registerWrite_keeper h hk, Zone.keeperWrite_plain hx hd hp hr hs⟩
  · exact fun s x k n m v h hm ho hk hst hw => keeperWrite_counts h hm ho hk hst hw
  · exact fun s src k n m v h ha => firmwareWrite_misaligned h ha
  · intro s src k m v h ha hl hp
    exact ⟨_, firmwareWrite_refused h ha hl (by decide) (Zone.wordCheck_unpopulated hp), rfl, Zone.Frame.refl.respond (by simp)⟩
  · intro s src k m v h ha hl hp hg hr
    exact ⟨_, firmwareWrite_refused h ha hl (by decide) (Zone.wordCheck_refused (by omega) hp hg hr), rfl,
      (Zone.refuse_bankFrame _ _ _ _ _).respond (by simp)⟩
  · exact fun s src k kind d h ha hc hd hk hr => firmwareRead_stored h ha hc hd hk hr
  · exact fun s src k h ha hc => firmwareRead_keeps_memory h ha hc
  · exact fun s src h hc => firmwareRead_dcqTotal h hc
  · exact fun s src k n h ha =>
      ⟨_, exec_rcRead h (Zone.spaceRead_misaligned ha), rfl, Zone.Frame.refl.respond (by simp)⟩
  · exact fun s x p kind d h hx hd hl hp hc hs => keeperLock_sets h hx hd hl hp hc hs
  · exact fun s src p kind d h hg hd hl hp hc => firmwareLock_sets h hg hd hl hp hc
  · exact fun s x k v h => ⟨_, exec_inThreshWrite_locked h, .refl⟩

end Sys2Proof.Machine
end

