-- ==== Sys2Proof/Proofs/ResetState.lean ====
section
/-! SUPPORT. What a step does by the queue, and the memory controllers at reset (R502 to R504), with O56 and O58. -/

namespace Sys2Proof.Machine

open Reg

-- One theorem after the other: the stacks of parallel ones together pass the memory limit of the check.
set_option Elab.async false

/-- Settles O56: `step` splits on the queue. -/
theorem stepTakesTheFrontCommand : Obligations.StepTakesTheFrontCommand := by
  unfold Obligations.StepTakesTheFrontCommand
  constructor
  · intro s c rest h
    unfold step
    rw [h]
  · intro s h
    unfold step
    rw [h]

/-! ### The memory controllers at reset -/

/-- Field `f` of region `k` of controller `c` at reset. -/
def resetRegion (c k : Nat) (f : Fld) : Nat := State.reset.zone.fld (pREGN c) (f.nth 16 k)

/-- Region 0 of each controller spans the controller's range, open to the secure world, for every mooring (group 0). -/
theorem resetRegion_first (c : Fin 13) :
    resetRegion (c.val + 1) 0 REGN.REGION_EN = 1 ∧
    resetRegion (c.val + 1) 0 REGN.REGION_BASE = (controllerRange (c.val + 1)).1 ∧
    resetRegion (c.val + 1) 0 REGN.REGION_LIMIT = (controllerRange (c.val + 1)).2 ∧
    resetRegion (c.val + 1) 0 REGN.REGION_S_R = 1 ∧ resetRegion (c.val + 1) 0 REGN.REGION_S_W = 1 ∧
    resetRegion (c.val + 1) 0 REGN.REGION_GROUP = 0 := by
  revert c
  decide +kernel

/-- No region is open to the normal world. -/
theorem resetRegion_normal (c : Fin 13) (k : Fin 32) :
    resetRegion (c.val + 1) k.val REGN.REGION_NW_R = 0 ∧ resetRegion (c.val + 1) k.val REGN.REGION_NW_W = 0 := by
  revert c k
  decide +kernel

theorem controllerRegions_pos (c : Nat) : 0 < controllerRegions c := by unfold controllerRegions; split <;> decide

theorem controllerRegions_le (c : Nat) : controllerRegions c ≤ 32 := by unfold controllerRegions; split <;> decide

theorem reset_inGroup_zero (m : Nat) : State.reset.zone.inGroup 0 m = true := by
  have hmask : State.reset.zone.fld pTU (TU.GROUP_MASK.nth 4 0) = 0 := by decide +kernel
  have hvalue : State.reset.zone.fld pTU (TU.GROUP_VALUE.nth 4 0) = 0 := by decide +kernel
  unfold Zone.inGroup
  rw [hmask, hvalue, Nat.and_zero]
  rfl

/-- The secure world reaches the whole range of every controller. -/
theorem reset_permits_secure (c : Fin 13) (src : Source) (rd wr : Bool) {a n : Nat} (hs : src.world = .secure)
    (hlo : (controllerRange (c.val + 1)).1 * 4096 ≤ a) (hhi : a + n ≤ ((controllerRange (c.val + 1)).2 + 1) * 4096) (_hn : 0 < n) :
    State.reset.zone.permitted (c.val + 1) src rd wr a n = true := by
  obtain ⟨hen, hbase, hlimit, hr, hw, hg⟩ := resetRegion_first c
  simp only [resetRegion] at hen hbase hlimit hr hw hg
  refine List.any_eq_true.mpr ⟨0, List.mem_range.mpr (controllerRegions_pos _), ?_⟩
  have hspan : (controllerRange (c.val + 1)).1 ≤ a / 4096 ∧ (a + n - 1) / 4096 ≤ (controllerRange (c.val + 1)).2 := by omega
  simp [Zone.regionAllows, Zone.flag, hs, hen, hbase, hlimit, hr, hw, hg, hspan, reset_inGroup_zero]

/-- The normal world reaches nothing. -/
theorem reset_refuses_normal (c : Fin 13) (src : Source) (rd wr : Bool) (a n : Nat) (hs : src.world = .normal)
    (hrw : (rd || wr) = true) : State.reset.zone.permitted (c.val + 1) src rd wr a n = false := by
  refine List.any_eq_false.mpr fun k hk => ?_
  have hlt : k < 32 := Nat.lt_of_lt_of_le (List.mem_range.mp hk) (controllerRegions_le _)
  obtain ⟨hr, hw⟩ := resetRegion_normal c ⟨k, hlt⟩
  simp only [resetRegion] at hr hw
  cases rd <;> cases wr <;> simp_all [Zone.regionAllows, Zone.flag]

/-- Settles O58: the register file lists nothing at reset, and the regions are those of `resetRegion_first` and
`resetRegion_normal`. -/
theorem resetIsTheEntryToStart : Obligations.ResetIsTheEntryToStart := by
  unfold Obligations.ResetIsTheEntryToStart
  refine ⟨rfl, by decide +kernel, rfl, reset_mem, fun _ => rfl, ?_, ?_⟩
  · exact fun c src rd wr a n hs hlo hhi hn => reset_permits_secure c src rd wr hs hlo hhi hn
  · exact fun c src rd wr a n hs hrw => reset_refuses_normal c src rd wr a n hs hrw

end Sys2Proof.Machine
end

