-- ==== Sys2Proof/Proofs/SupervisorLink.lean ====
section
/-! SUPPORT. The supervisor link: frames of its effects, the start notice, what refused commands do, and GET_STATUS (R44 to R50),
with O5 and O6. -/

namespace Sys2Proof.Machine

open Reg

set_option Elab.async false

namespace Zone

/-! ### Frames -/

section Frames

variable {s z : Zone} {words banks : List Nat} {parts : List Part}

theorem Frame.setFld {p f v} (h : s.Frame words parts z) (hk : p + f.off ∈ words) : s.Frame words parts (z.setFld p f v) := h.wr hk

theorem Frame.count {p f} (h : s.Frame words parts z) (hk : p + f.off ∈ words) : s.Frame words parts (z.count p f) := h.wr hk

/-- An update of the supervisor link. -/
theorem Frame.supv {x} (h : s.Frame words parts z) (hp : .supv ∈ parts) : s.Frame words parts { z with supv := x } := by
  obtain ⟨hw, hm, hparts⟩ := h
  refine ⟨hw, hm, fun p hn => ?_⟩
  have := hparts p hn
  cases p
  case supv => exact absurd hp hn
  all_goals exact this

theorem Frame.send {code seq status result} (h : s.Frame words parts z) (hp : .supv ∈ parts) :
    s.Frame words parts (z.send code seq status result) := h.supv hp

end Frames

/-! ### Responses -/

/-- What is sent last is the last answer. -/
theorem lastAnswer_send (s : Zone) (code : Nat) (seq : BitVec 32) (status : Nat) (result : List Byte) :
    (s.send code seq status result).lastAnswer = some (code, seq, status, result) := by
  simp [lastAnswer, send]

theorem notice_eq_send (s : Zone) (code : Nat) (result : List Byte) (h : s.supv.sessionKey.isSome = true) :
    s.notice code result = s.send code 0 0 result := if_pos h

theorem notice_eq_self (s : Zone) (code : Nat) (result : List Byte) (h : s.supv.sessionKey = none) :
    s.notice code result = s := if_neg (by simp [h])

/-! ### The start notice -/

/-- A due start notice is the notice, and the next one is due in 1 s. -/
theorem startNotice_due (s : Zone) (again : Bool) (t : Nat) (hd : s.supv.noticeDue = some t) (hm : s.mgmtRuns = true)
    (ha : again = decide (t ≠ 0)) (ht : t ≤ s.mono) :
    s.startNotice again =
      (s.notice 0x0001 (leBytes 4 (s.rd (pZONE 6 + ZONE6.START_COUNT_COUNT.off)).toNat ++ s.statusBytes)).setSupv
        fun x => { x with noticeDue := some (s.mono + 250000000) } := by
  unfold startNotice
  rw [hd]
  refine (if_pos (by simp [hm, ha, ht])).trans ?_
  unfold notice send
  split <;> rfl

/-- What a due start notice leaves where there is a session key. -/
structure SendsNotice (s z : Zone) : Prop where
  answer : z.lastAnswer = some (1, 0, 0, leBytes 4 (s.rd (pZONE 6 + ZONE6.START_COUNT_COUNT.off)).toNat ++ s.statusBytes)
  one : z.supv.replies.length = s.supv.replies.length + 1
  due : z.supv.noticeDue = some (s.mono + 250000000)
  frame : s.Frame [] [.supv] z

theorem startNotice_sends (s : Zone) (again : Bool) (t : Nat) (hd : s.supv.noticeDue = some t) (hm : s.mgmtRuns = true)
    (hk : s.supv.sessionKey.isSome = true) (ha : again = decide (t ≠ 0)) (ht : t ≤ s.mono) :
    s.SendsNotice (s.startNotice again) := by
  rw [startNotice_due s again t hd hm ha ht, notice_eq_send _ _ _ hk]
  exact
    { answer := lastAnswer_send s _ _ _ _
      one := by simp [send, setSupv]
      due := rfl
      frame := (Frame.refl.send (by decide)).supv (by decide) }

/-- Without a session key nothing is sent. -/
theorem startNotice_keyless (s : Zone) (again : Bool) (hk : s.supv.sessionKey = none) :
    (s.startNotice again).supv.replies = s.supv.replies ∧ s.Frame [] [.supv] (s.startNotice again) := by
  unfold startNotice
  split
  · exact ⟨rfl, .refl⟩
  · rw [notice_eq_self _ _ _ hk]
    split
    · exact ⟨rfl, Frame.refl.supv (by decide)⟩
    · exact ⟨rfl, .refl⟩

/-! ### Commands that fail a check -/

section Refused

variable (s : Zone) (code : Nat) (e : Envelope) (argOk : Zone → Bool) (effect : Zone → Zone) (hm : s.mgmtRuns = true)
  (hl : e.args.length ≤ 1024)

include hm hl

theorem command_otherNode (hn : e.node.toNat ≠ s.node) :
    s.command code e argOk effect = s.count (pZONE 0) ZONE0.CMD_REJECT_OTHER_NODE := by
  unfold command
  rw [if_neg (by simp [hm]), if_neg (by omega), if_pos hn]

theorem command_badMac (hn : e.node.toNat = s.node) (hmac : s.macOk code e = false) :
    s.command code e argOk effect = s.count (pZONE 0) ZONE0.CMD_REJECT_AUTH := by
  unfold command
  rw [if_neg (by simp [hm]), if_neg (by omega), if_neg (by simp [hn]), if_pos (by simp [hmac])]

theorem command_replay (hn : e.node.toNat = s.node) (hmac : s.macOk code e = true)
    (hs : e.seq.toNat ≤ (s.supv.seqHigh.getD 0).toNat) :
    s.command code e argOk effect = (s.setSupv fun x => { x with noticeDue := none }).send code e.seq Status.replay [] := by
  unfold command
  rw [if_neg (by simp [hm]), if_neg (by omega), if_neg (by simp [hn]), if_neg (by simp [hmac])]
  exact if_pos hs

end Refused

end Zone

/-! ### The commands -/

/-- Each supervisor command runs the checks of R46 for its code. -/
theorem exec_supervisorCommand {c : Instr} {code : Nat} {e : Envelope} (h : supervisorCommand c = some (code, e)) (s : State) :
    ∃ argOk effect, exec c s = .next { s with zone := s.zone.command code e argOk effect } := by
  cases c
  case getStatus | reset | bindSupervisor | setProfile | loadTable | commitTable | rollbackTable | watchChange | sleepRequest |
      scheduleGlobal | cancelGlobal | forceTimeStep | grantResource | keyRoll | logFreeze | readStartReasons | clearStartCount |
      exitLightship | enterTest | exitTest =>
    cases h
    exact ⟨_, _, rfl⟩
  all_goals cases h

theorem completes_malformed (s : State) (x : EnvelopeFault) (h : s.zone.mgmtRuns = true) :
    Completes (.malformedCommand x) s (· = s.zone.count (pZONE 0) ZONE0.CMD_REJECT_FORMAT) := by
  refine ⟨_, ?_, rfl⟩
  change execMalformedCommand x s = _
  unfold execMalformedCommand
  rw [State.run_eq, h, Zone.when_true]

theorem completes_malformed_idle (s : State) (x : EnvelopeFault) (h : s.zone.mgmtRuns = false) :
    Completes (.malformedCommand x) s (· = s.zone) := by
  refine ⟨_, ?_, rfl⟩
  change execMalformedCommand x s = _
  unfold execMalformedCommand
  rw [State.run_eq, h, Zone.when_false]

/-- An accepted command without arguments has its effect. -/
theorem completes_noArgs {c : Instr} {s : State} {code : Nat} {e : Envelope} {effect : Zone → Zone}
    (hc : exec c s = .next { s with zone := s.zone.command code e (Zone.noArgs e) effect }) (h : s.zone.Accepts code e)
    (ha : e.args = []) : Completes c s (· = effect (s.zone.seqTaken e)) :=
  completes_command c s code e _ effect _ hc h (by simp [Zone.noArgs, ha]) rfl

theorem Zone.Accepts.awake {z : Zone} {code : Nat} {e : Envelope} (h : z.Accepts code e) : z.sleep.phase = 0 := by
  obtain ⟨⟨-, -, -, -, -, -, -, hp, -⟩, -⟩ := h
  exact hp

/-- Raising the highest SEQ touches its field, the link and the awake timer alone. -/
theorem Zone.seqTaken_frame {z : Zone} {code : Nat} {e : Envelope} (h : z.Accepts code e) :
    z.Frame [pZONE 0 + ZONE0.SUPV_SEQ_HIGH_LO.off] [.supv, .sleep] (z.seqTaken e) := by
  rw [z.seqTaken_eq e h.awake]
  refine ⟨fun k hk => Zone.rd_setFld_ne z (pZONE 0) ZONE0.SUPV_SEQ_HIGH_LO _ k (by simpa using hk), fun _ => rfl, fun p hp => ?_⟩
  cases p
  case supv | sleep => exact absurd (by decide) hp
  all_goals rfl

/-- Settles O5. -/
theorem startNoticesAndStatus : Obligations.StartNoticesAndStatus := by
  unfold Obligations.StartNoticesAndStatus
  refine ⟨?_, ?_, ?_, ?_, ?_, ?_, ?_⟩
  · intro s hm hk hd
    have h := s.zone.startNotice_sends false 0 hd hm hk rfl (Nat.zero_le _)
    exact ⟨_, rfl, h.answer, h.one, h.due, h.frame⟩
  · intro s t hm hk hd hpos ht
    have h := s.zone.startNotice_sends true t hd hm hk (by simp; omega) ht
    exact ⟨_, rfl, h.answer, h.one, h.due, h.frame⟩
  · exact fun s _ hk => ⟨_, rfl, s.zone.startNotice_keyless false hk⟩
  · exact fun s _ hk => ⟨_, rfl, s.zone.startNotice_keyless true hk⟩
  · exact fun s x hm => (completes_malformed s x hm).imp fun z hz => by
      subst hz
      exact ⟨Zone.fld_count_same _ _ _ (by decide), Zone.Frame.refl.count (by decide)⟩
  · exact fun s x hm => (completes_malformed_idle s x hm).imp fun z hz => by
      subst hz
      exact .refl
  · exact fun s e h ha => (completes_noArgs rfl h ha).imp fun z hz => by
      subst hz
      have htaken := s.zone.seqTaken_eq e h.awake
      refine ⟨Zone.lastAnswer_send _ _ _ _ _, ?_, ?_, (Zone.seqTaken_frame h).send (by decide)⟩
      · rw [htaken]; rfl
      · rw [htaken]; rfl

/-- Settles O6: a command that fails a check of `Zone.command` takes no further branch of it. -/
theorem refusedCommandsHaveNoEffect : Obligations.RefusedCommandsHaveNoEffect := by
  unfold Obligations.RefusedCommandsHaveNoEffect
  refine ⟨?_, ?_, ?_⟩
  · intro s c code e hc hm hl hn
    obtain ⟨argOk, effect, he⟩ := exec_supervisorCommand hc s
    rw [Zone.command_otherNode _ _ _ _ _ hm hl hn] at he
    exact ⟨_, he, Zone.fld_count_same _ _ _ (by decide), Zone.Frame.refl.count (by decide)⟩
  · intro s c code e hc hm hl hn hmac
    obtain ⟨argOk, effect, he⟩ := exec_supervisorCommand hc s
    rw [Zone.command_badMac _ _ _ _ _ hm hl hn hmac] at he
    exact ⟨_, he, Zone.fld_count_same _ _ _ (by decide), Zone.Frame.refl.count (by decide)⟩
  · intro s c code e hc hm hl hn hmac hs
    obtain ⟨argOk, effect, he⟩ := exec_supervisorCommand hc s
    rw [Zone.command_replay _ _ _ _ _ hm hl hn hmac hs] at he
    exact ⟨_, he, Zone.lastAnswer_send _ _ _ _ _, rfl, rfl, (Zone.Frame.refl.supv (by decide)).send (by decide)⟩

end Sys2Proof.Machine
end

