-- ==== Sys2Proof/Proofs/LeavingLightship.lean ====
section
/-! SUPPORT. A RESET that leaves LIGHTSHIP loses DRAM, which refutes O7. -/

namespace Sys2Proof.Machine

open Reg

set_option Elab.async false

/-- A key that is not kept reads its default. -/
theorem SMap.get_keep_of_not {α : Type} (d : Nat → α) (p : Nat → Bool) (m : SMap α) (k : Nat) (h : p k = false) :
    SMap.get d (SMap.keep p m) k = d k := by
  induction m with
  | nil => rfl
  | cons e m ih =>
    unfold SMap.keep at ih ⊢
    simp only [List.filter_cons]
    by_cases hk : e.1 = k
    · simp [hk, h, ih]
    · cases p e.1 <;> simp [SMap.get, hk, ih]

namespace Zone

/-! ### Memory over an entry to START -/

/-- An entry to START from OFF, SLEEP or LIGHTSHIP has lost the content of DRAM. -/
theorem enterStart_mem_of_unpowered (s : Zone) (cause : Nat) (maint : Bool) (h : s.mode = .off ∨ s.mode = .sleep ∨ s.mode = .lightship) :
    (s.enterStart cause maint).mem = s.loseDram.mem := by
  unfold enterStart
  extract_lets m off s₁ count exhausted count' _ _ _ _ _ _ _ _ _ z₀ z₁ z₂ z₃ z₄ z₅ z₆
  have hcond : (off || decide (m = .sleep ∨ m = .lightship)) = true := by
    simp only [off, m, ← Bool.decide_or, h, decide_true]
  have h₂ : z₂.mem = s.mem :=
    have h₁ : s.Stands s₁ := Stands.refl.abortCommands
    have hz : ((z₀.setState .start cause).setFld (pZONE 0) ZONE0.SLEEP_STATUS_CAUSE 0).mem = s.mem := h₁.mem
    (Stands.refl.startTime.startShown.calStart.judgeSupply : Stands _ z₂).mem.trans hz
  have h₃ : z₃.mem = s.loseDram.mem := by
    simp only [z₃, hcond, when_true]
    unfold loseDram
    rw [h₂]
  have h₄ : z₃.Stands z₄ := .ite .refl (.forEach .refl fun _ _ h => h.forEach fun _ _ h => h.discardLine)
  have h₅ : z₃.Stands z₅ := h₄.when fun _ h => h.wr (by decide)
  exact ((((h₅.wr (by decide)).wr not_standWords_page).setFlag (by decide)).showRecords).mem.trans h₃

/-- A byte of DRAM that is lost reads as one that was never written. -/
theorem memByte_loseDram (s : Zone) (a : Nat) (hlo : 0x1000000000 ≤ a) (hhi : a ≤ 0x13FFFFFFFF) : s.loseDram.memByte a = 0 :=
  SMap.get_keep_of_not (fun _ => 0) (fun a => decide (a < 0x1000000000 ∨ 0x13FFFFFFFF < a)) s.mem a (decide_eq_false (by omega))

/-- A RESET with no safety reset due loses DRAM where the module leaves OFF, SLEEP or LIGHTSHIP. -/
theorem supervisorReset_mem_of_unpowered (s : Zone) (seq : BitVec 32) (hdue : s.safety.resetDue = none)
    (h : s.mode = .off ∨ s.mode = .sleep ∨ s.mode = .lightship) : (s.supervisorReset seq).mem = s.loseDram.mem := by
  have hrec := s.addStartRecord_records Reason.supervisorReset (BitVec.ofNat 32 s.mode.code) false
  generalize hr : s.addStartRecord Reason.supervisorReset (BitVec.ofNat 32 s.mode.code) false = r at hrec
  have hsend : (r.send Code.reset seq Status.ok []).mode = .off ∨ (r.send Code.reset seq Status.ok []).mode = .sleep ∨
      (r.send Code.reset seq Status.ok []).mode = .lightship := by
    have hm : (r.send Code.reset seq Status.ok []).mode = r.mode := rfl
    rwa [hm, hrec.mode]
  unfold supervisorReset
  rw [if_neg (by simp [hdue]), hr, enterStart_mem_of_unpowered _ _ _ hsend]
  exact congrArg (SMap.keep fun a => decide (a < 0x1000000000 ∨ 0x13FFFFFFFF < a)) hrec.mem

end Zone

/-- What a command completes with is what it runs to. -/
theorem Completes.result {c : Instr} {s : State} {P : Zone → Prop} {w : Zone} (h : Completes c s P) (hw : Completes c s (· = w)) :
    P w := by
  obtain ⟨z, hz, hp⟩ := h
  obtain ⟨z', hz', rfl⟩ := hw
  have hsame : z = z' := congrArg State.zone (Host.Outcome.next.inj (hz.symm.trans hz'))
  exact hsame ▸ hp

/-! ### A RESET in LIGHTSHIP -/

/-- A bound module in LIGHTSHIP with a session key, whose DRAM holds 1 at its first byte. -/
def lightshipAboutToReset : Zone :=
  { Zone.reset with
    regs := [(0, 4), (4, 256)]
    supv := { SupervisorSt.init with sessionKey := some [] }
    mem := [(0x1000000000, 1)] }

/-- Its supervisor's RESET. -/
def resetEnvelope : Envelope := ⟨1, 0, [], cmac [] (envelopeBytes Code.reset 1 0 0 0 [])⟩

theorem lightshipAboutToReset_accepts : lightshipAboutToReset.Accepts Code.reset resetEnvelope := by
  refine ⟨?_, beq_self_eq_true _⟩
  unfold resetEnvelope
  decide +kernel

theorem lightshipAboutToReset_mode : lightshipAboutToReset.mode = .lightship := by decide +kernel

theorem lightshipAboutToReset_byte :
    ((lightshipAboutToReset.seqTaken resetEnvelope).supervisorReset 1).memByte 0x1000000000 = 0 := by
  have hmode : (lightshipAboutToReset.seqTaken resetEnvelope).mode = .lightship := by
    rw [lightshipAboutToReset.seqTaken_eq _ rfl]
    exact (lightshipAboutToReset.mode_setFld_ne (pZONE 0) ZONE0.SUPV_SEQ_HIGH_LO 1 (by decide)).trans lightshipAboutToReset_mode
  unfold Zone.memByte
  rw [Zone.supervisorReset_mem_of_unpowered _ _ rfl (.inr (.inr hmode))]
  exact Zone.memByte_loseDram _ _ (by decide) (by decide)

/-- Refutes O7: RESET is legal in LIGHTSHIP (R50), and the entry to START from there loses the content of DRAM, so memory is not what
it was. -/
theorem not_resetsExitsAndTestChangeTheState : ¬ Obligations.ResetsExitsAndTestChangeTheState := by
  unfold Obligations.ResetsExitsAndTestChangeTheState
  rintro ⟨hreset, -⟩
  have hruns := completes_noArgs (c := .reset resetEnvelope) (s := ⟨[], lightshipAboutToReset⟩)
    (effect := fun s => s.supervisorReset resetEnvelope.seq) rfl lightshipAboutToReset_accepts rfl
  obtain ⟨-, -, -, -, -, -, hmem⟩ :=
    (hreset ⟨[], lightshipAboutToReset⟩ resetEnvelope lightshipAboutToReset_accepts rfl rfl).result hruns
  have hafter := lightshipAboutToReset_byte
  have hbefore : lightshipAboutToReset.memByte 0x1000000000 = 1 := by decide +kernel
  have hsame := hmem 0x1000000000
  dsimp only at hsame
  rw [show resetEnvelope.seq = 1 from rfl, hafter, hbefore] at hsame
  exact absurd hsame (by decide)

end Sys2Proof.Machine
end

