-- ==== Sys2Proof/Proofs/StartingKeeperJudges.lean ====
section
/-! SUPPORT. A STARTING keeper that fences the holder of the watch at a round boundary, which refutes O27. -/

namespace Sys2Proof.Machine

open Reg

set_option Elab.async false

/-- A round boundary is a slot mark. -/
theorem completes_roundBoundary (s : State) (hl : s.zone.logicRuns = true) (hr : s.zone.roundStarts = true) :
    Completes .roundBoundary s (· = s.zone.slotMark) := by
  refine ⟨_, ?_, rfl⟩
  change execRoundBoundary s = _
  unfold execRoundBoundary
  rw [State.runOn_runs _ _ hl, if_pos hr]

/-- A round of 64 slots without steps. -/
def emptyRound : Table :=
  { id := 0, version := 0, kind := 0, mode := 0, roundSlots := 64, code := [], steps := [], slotMap := [], mirror := [], init := [],
    queues := [] }

/-- In SERVICE keeper A holds the watch and runs a table, and profile 1 is requested while 0 is active; keeper B is STARTING (role 1,
its reset value), has marked slot 5 and has missed 100 beacons of A. -/
def starterAboutToFence : Zone :=
  { Zone.reset with
    regs := [(0, 3), (0x1000, 3), (0x7000, 1)]
    keeperA := { KeeperSt.init with runs := some false, half0 := some emptyRound }
    keeperB := { KeeperSt.init with slotNo := 5, markAt := some 0, other := { KeeperSt.init.other with missed := 100 } } }

/-- At the mark of slot 0 keeper B declares A failed and fences it before the boundary. -/
theorem starterAboutToFence_fences : starterAboutToFence.slotMark.role .A = Role.fenced := by decide +kernel

/-- With the holder fenced nothing makes the requested profile active. -/
theorem starterAboutToFence_profile : starterAboutToFence.slotMark.fld (pZONE 7) ZONE7.PROFILE_ACTIVE = 0 := by decide +kernel

theorem starterAboutToFence_requested : starterAboutToFence.fld (pZONE 7) ZONE7.PROFILE_REQ = 1 := by decide +kernel

theorem starterAboutToFence_roundStarts : starterAboutToFence.roundStarts = true := by decide +kernel

/-- Refutes O27: a keeper that does not execute can still be STARTING, and a STARTING keeper judges the other one's beacons; where it
fences the holder at the round boundary, the requested profile does not become active. -/
theorem not_slotMarksAdvanceTheKeepers : ¬ Obligations.SlotMarksAdvanceTheKeepers := by
  unfold Obligations.SlotMarksAdvanceTheKeepers
  rintro ⟨-, -, -, -, -, -, hprofile, -⟩
  have hruns : Completes .roundBoundary ⟨[], starterAboutToFence⟩ (· = starterAboutToFence.slotMark) :=
    completes_roundBoundary ⟨[], starterAboutToFence⟩ (by decide +kernel) starterAboutToFence_roundStarts
  obtain ⟨hactive, -⟩ := (hprofile ⟨[], starterAboutToFence⟩ emptyRound .A (by decide +kernel) (by decide +kernel) (by decide +kernel)
    (by decide +kernel) (by decide +kernel) (by decide +kernel) rfl rfl rfl rfl (by decide +kernel) (by decide +kernel)).result hruns
  exact absurd (starterAboutToFence_profile.symm.trans (hactive.trans starterAboutToFence_requested)) (by decide)

end Sys2Proof.Machine
end

