-- ==== Sys2Proof/Proofs/FrameRules.lean ====
section
/-! SUPPORT. How frames compose: an update of one part, a loop, a field of a page, and what a framed module still reads. -/

namespace Sys2Proof.Machine

open Reg

set_option Elab.async false

theorem keyBank_page {b c off : Nat} (hc : c < 256) (ho : off < 4096) : keyBank (page b c + off) = b := by
  unfold keyBank page
  omega

namespace Zone

/-! ### Updates of one part -/

section Updates

variable {s z z' : Zone} {parts : List Part}

theorem SameParts.refl : s.SameParts parts s := fun p _ => by cases p <;> rfl

theorem SameParts.trans (h : s.SameParts parts z) (h' : z.SameParts parts z') : s.SameParts parts z' := fun p hp => by
  have h₁ := h p hp
  have h₂ := h' p hp
  cases p <;> exact Eq.trans h₂ h₁

theorem SameParts.log {x} (h : .log ∈ parts) : s.SameParts parts { s with log := x } := fun p hn => by
  cases p <;> simp_all [Part.Same]

theorem SameParts.records {x} (h : .records ∈ parts) : s.SameParts parts { s with records := x } := fun p hn => by
  cases p <;> simp_all [Part.Same]

theorem SameParts.sleep {x} (h : .sleep ∈ parts) : s.SameParts parts { s with sleep := x } := fun p hn => by
  cases p <;> simp_all [Part.Same]

theorem SameParts.supv {x} (h : .supv ∈ parts) : s.SameParts parts { s with supv := x } := fun p hn => by
  cases p <;> simp_all [Part.Same]

theorem SameParts.time {x} (h : .time ∈ parts) : s.SameParts parts { s with time := x } := fun p hn => by
  cases p <;> simp_all [Part.Same]

theorem SameParts.keyring {x} (h : .keyring ∈ parts) : s.SameParts parts { s with keyring := x } := fun p hn => by
  cases p <;> simp_all [Part.Same]

theorem SameParts.start {x} (h : .start ∈ parts) : s.SameParts parts { s with start := x } := fun p hn => by
  cases p <;> simp_all [Part.Same]

theorem SameParts.freeNext {x} (h : .freeNext ∈ parts) : s.SameParts parts { s with freeNext := x } := fun p hn => by
  cases p <;> simp_all [Part.Same]

theorem SameParts.safety {x} (h : .safety ∈ parts) : s.SameParts parts { s with safety := x } := fun p hn => by
  cases p <;> simp_all [Part.Same]

theorem SameParts.pace {x} (h : .pace ∈ parts) : s.SameParts parts { s with pace := x } := fun p hn => by
  cases p <;> simp_all [Part.Same]

theorem SameParts.dcqs {x} (h : .dcqs ∈ parts) : s.SameParts parts { s with dcqs := x } := fun p hn => by
  cases p <;> simp_all [Part.Same]

end Updates

/-! ### Frames of words -/

section Words

variable {s z z' : Zone} {words : List Nat} {ps : List Part}

/-- An update of parts that the frame names. -/
theorem Frame.parts (h : s.Frame words ps z) (hr : z'.regs = z.regs) (hm : z'.mem = z.mem) (hp : z.SameParts ps z') :
    s.Frame words ps z' := by
  obtain ⟨hw, hmem, hparts⟩ := h
  refine ⟨fun k hk => (rd_congr hr k).trans (hw k hk), fun a => ?_, SameParts.trans hparts hp⟩
  rw [← hmem a]
  unfold memByte
  rw [hm]

theorem Frame.trans (h : s.Frame words ps z) (h' : z.Frame words ps z') : s.Frame words ps z' := by
  obtain ⟨hw, hm, hp⟩ := h
  obtain ⟨hw', hm', hp'⟩ := h'
  exact ⟨fun k hk => (hw' k hk).trans (hw k hk), fun a => (hm' a).trans (hm a), SameParts.trans hp hp'⟩

theorem Frame.setFldBit {p f n b} (h : s.Frame words ps z) (hk : p + f.off ∈ words) : s.Frame words ps (z.setFldBit p f n b) := h.wr hk

theorem Frame.report {source detail} (h : s.Frame words ps z) (hp : .safety ∈ ps) : s.Frame words ps (z.report source detail) :=
  h.parts rfl rfl (SameParts.safety hp)

theorem Frame.rd (h : s.Frame words ps z) {k : Nat} (hk : k ∉ words) : z.rd k = s.rd k := h.1 k hk

theorem Frame.fld (h : s.Frame words ps z) {p f} (hk : p + f.off ∉ words) : z.fld p f = s.fld p f := by
  unfold Zone.fld
  rw [h.rd hk]

theorem Frame.flag (h : s.Frame words ps z) {p f} (hk : p + f.off ∉ words) : z.flag p f = s.flag p f := by
  unfold Zone.flag
  rw [h.fld hk]

theorem Frame.mode (h : s.Frame words ps z) (hk : 0 ∉ words) : z.mode = s.mode := congrArg Mode.ofCode (h.fld hk)

/-- A part that the frame does not name. -/
theorem Frame.part (h : s.Frame words ps z) (p : Part) (hp : p ∉ ps) : p.Same s z := h.2.2 p hp

theorem Frame.memory (h : s.Frame words ps z) : z.SameMemory s := fun a => (h.2.1 a).symm

end Words

/-! ### Frames of banks -/

section Banks

variable {s z z' : Zone} {words bs : List Nat} {ps : List Part}

theorem BankFrame.parts (h : s.BankFrame bs ps z) (hr : z'.regs = z.regs) (hm : z'.mem = z.mem) (hp : z.SameParts ps z') :
    s.BankFrame bs ps z' := by
  obtain ⟨hw, hmem, hparts⟩ := h
  refine ⟨fun k hk => (rd_congr hr k).trans (hw k hk), fun a => ?_, SameParts.trans hparts hp⟩
  rw [← hmem a]
  unfold memByte
  rw [hm]

theorem BankFrame.trans (h : s.BankFrame bs ps z) (h' : z.BankFrame bs ps z') : s.BankFrame bs ps z' := by
  obtain ⟨hw, hm, hp⟩ := h
  obtain ⟨hw', hm', hp'⟩ := h'
  exact ⟨fun k hk => (hw' k hk).trans (hw k hk), fun a => (hm' a).trans (hm a), SameParts.trans hp hp'⟩

/-- A frame of banks is one of more banks and parts. -/
theorem BankFrame.mono (h : s.BankFrame bs ps z) {bs' ps'} (hb : ∀ b ∈ bs, b ∈ bs') (hp : ∀ p ∈ ps, p ∈ ps') :
    s.BankFrame bs' ps' z :=
  ⟨fun k hk => h.1 k fun hin => hk (hb _ hin), h.2.1, fun p hn => h.2.2 p fun hin => hn (hp _ hin)⟩

/-- A frame of words is one of more words and parts. -/
theorem Frame.mono (h : s.Frame words ps z) {words' ps'} (hw : ∀ k ∈ words, k ∈ words') (hp : ∀ p ∈ ps, p ∈ ps') :
    s.Frame words' ps' z :=
  ⟨fun k hk => h.1 k fun hin => hk (hw _ hin), h.2.1, fun p hn => h.2.2 p fun hin => hn (hp _ hin)⟩

/-- A frame of words is one of their banks. -/
theorem Frame.banks (h : s.Frame words ps z) {ps'} (hb : ∀ k ∈ words, keyBank k ∈ bs) (hp : ∀ p ∈ ps, p ∈ ps') :
    s.BankFrame bs ps' z :=
  ⟨fun k hk => h.1 k fun hin => hk (hb _ hin), h.2.1, fun p hn => h.2.2 p fun hin => hn (hp _ hin)⟩

theorem BankFrame.setFld {p f v} (h : s.BankFrame bs ps z) (hk : keyBank (p + f.off) ∈ bs) :
    s.BankFrame bs ps (z.setFld p f v) := h.wr hk

theorem BankFrame.setFlag {p f b} (h : s.BankFrame bs ps z) (hk : keyBank (p + f.off) ∈ bs) :
    s.BankFrame bs ps (z.setFlag p f b) := h.wr hk

theorem BankFrame.event {p f} (h : s.BankFrame bs ps z) (hk : keyBank (p + f.off) ∈ bs) :
    s.BankFrame bs ps (z.event p f) := h.wr hk

theorem BankFrame.count {p f} (h : s.BankFrame bs ps z) (hk : keyBank (p + f.off) ∈ bs) :
    s.BankFrame bs ps (z.count p f) := h.wr hk

theorem BankFrame.setFldBit {p f n b} (h : s.BankFrame bs ps z) (hk : keyBank (p + f.off) ∈ bs) :
    s.BankFrame bs ps (z.setFldBit p f n b) := h.wr hk

theorem BankFrame.report {source detail} (h : s.BankFrame bs ps z) (hp : .safety ∈ ps) : s.BankFrame bs ps (z.report source detail) :=
  h.parts rfl rfl (SameParts.safety hp)

theorem BankFrame.forEach {α : Type} {l : List α} {f : Zone → α → Zone} (h : s.BankFrame bs ps z)
    (hf : ∀ z a, a ∈ l → s.BankFrame bs ps z → s.BankFrame bs ps (f z a)) : s.BankFrame bs ps (z.forEach l f) := by
  induction l generalizing z with
  | nil => exact h
  | cons a l ih => exact ih (hf z a (.head _) h) fun z b hb => hf z b (.tail _ hb)

theorem BankFrame.setPageBytes {p off l} {z : Zone} (h : s.BankFrame bs ps z) (hp : ∀ o < off + l.length, keyBank (p + o) ∈ bs) :
    s.BankFrame bs ps (z.setPageBytes p off l) := by
  induction l generalizing z off with
  | nil => exact h
  | cons x l ih =>
    rw [List.length_cons] at hp
    exact ih (h.wr (hp _ (by omega))) fun o ho => hp o (by omega)

theorem BankFrame.rd (h : s.BankFrame bs ps z) {k : Nat} (hk : keyBank k ∉ bs) : z.rd k = s.rd k := h.1 k hk

theorem BankFrame.fld (h : s.BankFrame bs ps z) {p f} (hk : keyBank (p + f.off) ∉ bs) : z.fld p f = s.fld p f := by
  unfold Zone.fld
  rw [h.rd hk]

theorem BankFrame.flag (h : s.BankFrame bs ps z) {p f} (hk : keyBank (p + f.off) ∉ bs) : z.flag p f = s.flag p f := by
  unfold Zone.flag
  rw [h.fld hk]

theorem BankFrame.mode (h : s.BankFrame bs ps z) (hk : 0 ∉ bs) : z.mode = s.mode := congrArg Mode.ofCode (h.fld hk)

theorem BankFrame.part (h : s.BankFrame bs ps z) (p : Part) (hp : p ∉ ps) : p.Same s z := h.2.2 p hp

theorem BankFrame.memory (h : s.BankFrame bs ps z) : z.SameMemory s := fun a => (h.2.1 a).symm

end Banks

end Zone

end Sys2Proof.Machine
end

