-- ==== Sys2Proof/Proofs/LogbookFrames.lean ====
section
/-! SUPPORT. What the logbook's streams, module records, key slots, start records and wake references leave unchanged. -/

namespace Sys2Proof.Machine

open Reg

set_option Elab.async false

namespace Zone

variable {s z : Zone}

/-! ### Streams (R573 to R576) -/

theorem keyBank_stream {n : Nat} {f : Fld} (hn : n < 64) (hf : f.off < 4096) : keyBank (pSTREAM n + f.off) = 10 :=
  keyBank_page (by omega) hf

theorem BankFrame.setStream {n x} (h : s.BankFrame [10] [.log] z) : s.BankFrame [10] [.log] (z.setStream n x) :=
  h.parts rfl rfl (SameParts.log (by decide))

theorem BankFrame.setStreamFld {n f v} (h : s.BankFrame [10] [.log] z) (hn : n < 64) (hf : f.off < 4096) :
    s.BankFrame [10] [.log] (z.setFld (pSTREAM n) f v) := h.setFld (by rw [keyBank_stream hn hf]; decide)

theorem BankFrame.closeSegment {n cause} (h : s.BankFrame [10] [.log] z) (hn : n < 64) :
    s.BankFrame [10] [.log] (z.closeSegment n cause) := by
  have hset {z : Zone} {f v} (h : s.BankFrame [10] [.log] z) (hf : f.off < 4096) := h.setStreamFld (f := f) (v := v) hn hf
  have hlog {z : Zone} {x} (h : s.BankFrame [10] [.log] z) : s.BankFrame [10] [.log] { z with log := x } :=
    h.parts rfl rfl (SameParts.log (by decide))
  unfold Zone.closeSegment
  dsimp only
  split
  · exact h
  · split
    · exact hset (hset (hset (hset (hlog h.setStream) (by decide)) (by decide)) (by decide)) (by decide)
    · exact hset (hset (hlog h.setStream) (by decide)) (by decide)

theorem BankFrame.closeAfter {n cause} (h : s.BankFrame [10] [.log] z) (hn : n < 64) :
    s.BankFrame [10] [.log] (z.closeAfter n cause) := by
  unfold Zone.closeAfter
  dsimp only
  split
  · exact h
  · split
    · exact h.closeSegment hn
    · exact h.setStream

theorem closeAll_frame (s : Zone) (cause : Nat) : s.BankFrame [10] [.log] (s.closeAll cause) :=
  BankFrame.refl.forEach fun _ _ hn h => h.closeAfter (List.mem_range.mp hn)

theorem BankFrame.appendRecord {n kind time source payload} (h : s.BankFrame [10] [.log] z) (hn : n < 64) :
    s.BankFrame [10] [.log] (z.appendRecord n kind time source payload) :=
  (h.setStream.setStreamFld hn (by decide)).setStreamFld hn (by decide)

theorem BankFrame.takeRecord {n kind time source payload} (h : s.BankFrame [10] [.log] z) (hn : n < 64) :
    s.BankFrame [10] [.log] (z.takeRecord n kind time source payload) := by
  unfold Zone.takeRecord
  split
  · exact h.appendRecord hn
  · exact (h.appendRecord hn).setStream.appendRecord hn

theorem markStreams_frame (s : Zone) (op : BitVec 32) (kind cause : Nat) : s.BankFrame [10] [.log] (s.markStreams op kind cause) := by
  refine BankFrame.refl.forEach fun z n hn h => ?_
  have hn := List.mem_range.mp hn
  split
  · exact h
  · exact (h.takeRecord hn).setStream

/-! ### Module records (R569, R577) -/

theorem post_frame (s : Zone) (p : Nat) (f : Fld) : s.BankFrame [10] [.log, .records] (s.post p f) := by
  unfold post postValue addRecord
  split
  · exact BankFrame.refl.parts rfl rfl (SameParts.records (by decide))
  · have hlost : s.BankFrame [10] [.log, .records] { s with log := { s.log with lost := s.log.lost + 1 } } :=
      BankFrame.refl.parts rfl rfl (SameParts.log (by decide))
    exact (hlost.count (by decide)).event (by decide)

/-! ### Wake references (R451) -/

theorem BankFrame.takeReference {k} (h : s.BankFrame [] [.sleep, .freeNext] z) :
    s.BankFrame [] [.sleep, .freeNext] (z.takeReference k) := by
  unfold Zone.takeReference inputAbove
  split
  · exact h.parts rfl rfl (SameParts.sleep (by decide))
  · exact (h.parts rfl rfl (SameParts.freeNext (by decide)) : s.BankFrame _ _ z.fresh.2).parts rfl rfl (SameParts.sleep (by decide))

/-- Taking a reference leaves where the sleep stands. -/
theorem takeReference_sleep (s : Zone) (k : Nat) :
    (s.takeReference k).sleep.phase = s.sleep.phase ∧ (s.takeReference k).sleep.since = s.sleep.since := by
  unfold takeReference inputAbove
  split
  · exact ⟨rfl, rfl⟩
  · exact ⟨rfl, rfl⟩

/-! ### Key slots (R607, R619, R620) -/

theorem keyBank_slot {n o : Nat} (hn : n < 256) (ho : o < 256) : keyBank (pSLOT n + o) = 11 := by
  unfold keyBank pSLOT page
  omega

theorem BankFrame.showSlot {n k} (h : s.BankFrame [11] [] z) (hn : n < 256) : s.BankFrame [11] [] (z.showSlot n k) := by
  have hset {z : Zone} {f v} (h : s.BankFrame [11] [] z) (hf : f.off < 256) : s.BankFrame [11] [] (z.setFld (pSLOT n) f v) :=
    h.setFld (by rw [keyBank_slot hn hf]; decide)
  unfold Zone.showSlot
  extract_lets p w s₁ s₂ s₃ s₄
  have h₁ : s.BankFrame [11] [] s₁ := by
    dsimp only [s₁]
    split
    · exact h
    · exact hset (hset (hset h (by decide)) (by decide)) (by decide)
  have h₄ : s.BankFrame [11] [] s₄ := hset (hset (hset (hset (hset (hset (hset h₁ (by decide)) (by decide)) (by decide)) (by decide))
    (by decide)) (by decide)) (by decide)
  refine h₄.setPageBytes fun o ho => ?_
  have hlen : (padTo 96 k.pub).length = 96 := by simp [padTo]
  rw [keyBank_slot hn (by omega)]
  decide

theorem setKeySlot_frame (s : Zone) {n : Nat} (k : KeySlot) (hn : n < 256) : s.BankFrame [0, 11] [.keyring] (s.setKeySlot n k) := by
  unfold setKeySlot
  extract_lets s₁ s₂
  have h₁ : s.BankFrame [0, 11] [.keyring] s₁ := BankFrame.refl.parts rfl rfl (SameParts.keyring (by decide))
  have h₂ : s.BankFrame [0, 11] [.keyring] s₂ :=
    (h₁.trans ((BankFrame.refl.showSlot hn).mono (by decide) (by decide))).setFld (by decide)
  split
  · exact h₂.setFlag (by decide)
  · exact h₂

theorem keyring_setKeySlot (s : Zone) {n : Nat} (k : KeySlot) (hn : n < 256) :
    (s.setKeySlot n k).keyring = { s.keyring with slots := SMap.set (fun _ => KeySlot.init) s.keyring.slots n k } := by
  have hshow : ((s.setKeyring fun x => { x with slots := SMap.set (fun _ => KeySlot.init) x.slots n k }).showSlot n k).keyring = _ :=
    (BankFrame.refl.showSlot hn).part .keyring (by decide)
  unfold setKeySlot
  split <;> exact hshow

theorem keySlot_setKeySlot_same (s : Zone) {n : Nat} (k : KeySlot) (hn : n < 256) : (s.setKeySlot n k).keySlot n = k := by
  unfold keySlot
  rw [s.keyring_setKeySlot k hn]
  exact SMap.get_set_same _ _ _ _

theorem keySlot_setKeySlot_ne (s : Zone) {n m : Nat} (k : KeySlot) (hn : n < 256) (h : m ≠ n) :
    (s.setKeySlot n k).keySlot m = s.keySlot m := by
  unfold keySlot
  rw [s.keyring_setKeySlot k hn]
  exact SMap.get_set_ne _ _ _ _ _ h

/-! ### Start records (R673) -/

theorem showRecords_frame (s : Zone) : s.BankFrame [0] [] s.showRecords := by
  unfold showRecords showFailed
  refine (BankFrame.refl.forEach fun z k hk h => h.setPageBytes fun o ho => ?_).setFld (by decide)
  have hk := List.mem_range.mp hk
  have hlen (l : List Byte) : (padTo 16 l).length = 16 := by simp [padTo]
  rw [hlen] at ho
  rw [keyBank_page (by decide) (by omega)]
  decide

end Zone

end Sys2Proof.Machine
end

