-- ==== Sys2Proof/Proofs/SupervisorSettings.lean ====
section
/-! SUPPORT. The supervisor's settings: profile, forced time step, sleep, key roll, freeze, start reasons (R54, R391, R454, R582, R605,
R671, R672), with O9. -/

namespace Sys2Proof.Machine

open Reg

set_option Elab.async false

/-! ### Argument bytes -/

theorem length_leBytes (n v : Nat) : (leBytes n v).length = n := by
  induction n generalizing v with
  | zero => rfl
  | succ n ih => simp [leBytes, ih]

theorem leNat_leBytes (n v : Nat) : leNat (leBytes n v) = v % 256 ^ n := by
  induction n generalizing v with
  | zero => simp [leBytes, leNat, Nat.mod_one]
  | succ n ih =>
    have h8 : (BitVec.ofNat 8 v).toNat = v % 256 := BitVec.toNat_ofNat v 8
    rw [leBytes, leNat, ih, h8, Nat.pow_succ', Nat.mod_mul]

/-- The argument at the front. -/
theorem leAt_leBytes (n v : Nat) (l : List Byte) : leAt (leBytes n v ++ l) 0 n = v % 256 ^ n := by
  unfold leAt
  rw [List.drop_zero, List.take_left' (length_leBytes n v), leNat_leBytes]

/-- The argument behind the first one. -/
theorem leAt_leBytes_next (n v m u : Nat) : leAt (leBytes n v ++ leBytes m u) n m = u % 256 ^ m := by
  unfold leAt
  rw [List.drop_left' (length_leBytes n v), List.take_of_length_le (length_leBytes m u).le, leNat_leBytes]

theorem leAt_word {v : Nat} (h : v < 2 ^ 32) : leAt (leBytes 4 v) 0 4 = v := by
  have := leAt_leBytes 4 v []
  rw [List.append_nil] at this
  rw [this, Nat.mod_eq_of_lt (by omega)]

namespace Zone

variable {s : Zone}

theorem wordArg_of_leBytes {e : Envelope} {v top : Nat} (ha : e.args = leBytes 4 v) (hv : v < 2 ^ 32) (ht : v ≤ top) (z : Zone) :
    wordArg e top z = true := by
  unfold wordArg
  rw [ha, leAt_word hv]
  exact decide_eq_true ⟨length_leBytes 4 v, ht⟩

/-! ### A sleep that begins (R455) -/

/-- Where a sleep begins: its cause, its timer and its phase. -/
structure BeginsSleep (s : Zone) (cause after : Nat) (z : Zone) : Prop where
  pending : z.flag (pZONE 0) ZONE0.STATE_SLEEP_PENDING = true
  event : z.flag (pZONE 0) ZONE0.SLEEP_EVENT_PENDING = true
  cause : z.fld (pZONE 0) ZONE0.SLEEP_STATUS_CAUSE = cause % 4
  timer : z.fld (pZONE 0) ZONE0.WAKE_TIMER_SECONDS = after % 2 ^ 24
  phase : z.sleep.phase = 1
  since : z.sleep.since = s.mono
  supv : z.supv = s.supv
  mode : z.mode = s.mode
  memory : z.SameMemory s

/-- The words that show a sleep as it begins. -/
def sleepShown (s : Zone) (cause after : Nat) : Zone :=
  (((s.setFld (pZONE 0) ZONE0.STATE_SLEEP_PENDING 1).setFld (pZONE 0) ZONE0.SLEEP_STATUS_CAUSE cause).setFld (pZONE 0)
    ZONE0.WAKE_TIMER_SECONDS after).event (pZONE 0) ZONE0.SLEEP_EVENT_PENDING

section Shown

variable (s : Zone) (cause after : Nat)

theorem sleepShown_pending : (s.sleepShown cause after).flag (pZONE 0) ZONE0.STATE_SLEEP_PENDING = true := by
  unfold sleepShown event
  rw [flag_setFld_ne _ _ _ _ _ _ (by decide), flag_setFld_ne _ _ _ _ _ _ (by decide), flag_setFld_ne _ _ _ _ _ _ (by decide)]
  exact flag_event_same s _ _ (by decide) (by decide)

theorem sleepShown_event : (s.sleepShown cause after).flag (pZONE 0) ZONE0.SLEEP_EVENT_PENDING = true :=
  flag_event_same _ _ _ (by decide) (by decide)

theorem sleepShown_cause : (s.sleepShown cause after).fld (pZONE 0) ZONE0.SLEEP_STATUS_CAUSE = cause % 4 := by
  unfold sleepShown event
  rw [fld_setFld_ne _ _ _ _ _ _ (by decide), fld_setFld_ne _ _ _ _ _ _ (by decide)]
  exact fld_setFld_same _ _ _ _ (by decide)

theorem sleepShown_timer : (s.sleepShown cause after).fld (pZONE 0) ZONE0.WAKE_TIMER_SECONDS = after % 2 ^ 24 := by
  unfold sleepShown event
  rw [fld_setFld_ne _ _ _ _ _ _ (by decide)]
  exact fld_setFld_same _ _ _ _ (by decide)

theorem sleepShown_mode : (s.sleepShown cause after).mode = s.mode := by
  unfold sleepShown event
  rw [mode_setFld_ne _ _ _ _ (by decide), mode_setFld_ne _ _ _ _ (by decide), mode_setFld_ne _ _ _ _ (by decide),
    mode_setFld_ne _ _ _ _ (by decide)]

end Shown

/-- What follows the words that show a sleep: the references of the inputs, the event's record and the closing segments. -/
def settleSleep (s : Zone) : Zone := ((s.forEach (List.range 16) takeReference).post (pZONE 0) ZONE0.SLEEP_EVENT_PENDING).closeAll 5

theorem settleSleep_frame (s : Zone) : s.BankFrame [10] [.sleep, .freeNext, .log, .records] s.settleSleep := by
  have hloop : s.BankFrame [] [.sleep, .freeNext] (s.forEach (List.range 16) takeReference) :=
    BankFrame.refl.forEach fun _ _ _ h => h.takeReference
  exact ((hloop.mono (by decide) (by decide)).trans ((post_frame _ _ _).mono (by decide) (by decide))).trans
    ((closeAll_frame _ 5).mono (by decide) (by decide))

theorem settleSleep_sleep (s : Zone) : s.settleSleep.sleep.phase = s.sleep.phase ∧ s.settleSleep.sleep.since = s.sleep.since := by
  have hloop := forEach_keeps (fun z => z.sleep.phase = s.sleep.phase ∧ z.sleep.since = s.sleep.since) (List.range 16) takeReference
    (fun z k h => ⟨(z.takeReference_sleep k).1.trans h.1, (z.takeReference_sleep k).2.trans h.2⟩) s ⟨rfl, rfl⟩
  have hkept : s.settleSleep.sleep = (s.forEach (List.range 16) takeReference).sleep :=
    ((closeAll_frame _ 5).part .sleep (by decide)).trans ((post_frame _ _ _).part .sleep (by decide))
  rwa [hkept]

/-- A sleep as it begins, before the references are taken. -/
def sleepBegun (s : Zone) (cause after : Nat) : Zone :=
  (s.sleepShown cause after).setSleep fun x => { x with phase := 1, since := s.mono, latched := none, timer := none }

theorem beginSleep_eq (s : Zone) (cause after : Nat) : s.beginSleep cause after = (s.sleepBegun cause after).settleSleep := rfl

theorem beginSleep_beginsSleep (s : Zone) (cause after : Nat) : s.BeginsSleep cause after (s.beginSleep cause after) := by
  rw [beginSleep_eq]
  generalize hz : s.sleepBegun cause after = z
  have hregs : z.regs = (s.sleepShown cause after).regs := by rw [← hz]; rfl
  have hframe := z.settleSleep_frame
  obtain ⟨hphase, hsince⟩ := z.settleSleep_sleep
  exact
    { pending := (hframe.flag (by decide)).trans ((flag_congr hregs _ _).trans (s.sleepShown_pending cause after))
      event := (hframe.flag (by decide)).trans ((flag_congr hregs _ _).trans (s.sleepShown_event cause after))
      cause := (hframe.fld (by decide)).trans ((fld_congr hregs _ _).trans (s.sleepShown_cause cause after))
      timer := (hframe.fld (by decide)).trans ((fld_congr hregs _ _).trans (s.sleepShown_timer cause after))
      phase := by rw [hphase, ← hz]; rfl
      since := by rw [hsince, ← hz]; rfl
      supv := (hframe.part .supv (by decide)).trans (by rw [← hz]; rfl)
      mode := (hframe.mode (by decide)).trans ((mode_congr hregs).trans (s.sleepShown_mode cause after))
      memory := fun a => (show s.memByte a = z.memByte a by rw [← hz]; rfl).trans (hframe.memory a) }

/-! ### The roll of a key set (R605) -/

/-- Slot `n` rolls where it belongs to the set and has a next key, and is skipped where it has none. -/
def rollStep (set : Nat) (x : Nat × Nat × Zone) (n : Nat) : Nat × Nat × Zone :=
  let k := x.2.2.keySlot n
  if attrSet k.attr ≠ set then x
  else if k.next.isSome then
    (x.1 + 1, x.2.1, ((x.2.2.setKeySlot n k.rolled).setKeyring fun y => { y with dirty := y.dirty || k.persistent }).count pKEY
      KEY0.ROLL_COUNTS_ROLLED)
  else (x.1, x.2.1 + 1, x.2.2.count pKEY KEY0.ROLL_COUNTS_SKIPPED)

theorem rollSet_eq (s : Zone) (set : Nat) : s.rollSet set = (List.range 256).foldl (rollStep set) (0, 0, s) := rfl

/-- Whether slot `n` belongs to a set and has (`next`) or lacks a next key. -/
def inSet (z : Zone) (set : Nat) (next : Bool) (n : Nat) : Bool :=
  attrSet (z.keySlot n).attr == set && (z.keySlot n).next.isSome == next

/-- What slot `n` holds after the roll of its set. -/
def slotAfterRoll (z : Zone) (set n : Nat) : KeySlot := if z.inSet set true n then (z.keySlot n).rolled else z.keySlot n

/-- What the roll of the slots `l` leaves. -/
structure Rolls (set : Nat) (l : List Nat) (x y : Nat × Nat × Zone) : Prop where
  rolled : y.1 = x.1 + (l.filter (x.2.2.inSet set true)).length
  skipped : y.2.1 = x.2.1 + (l.filter (x.2.2.inSet set false)).length
  slots : ∀ n, y.2.2.keySlot n = if n ∈ l then x.2.2.slotAfterRoll set n else x.2.2.keySlot n
  frame : x.2.2.BankFrame [0, 11] [.keyring] y.2.2

theorem slotAfterRoll_of_not (z : Zone) {set n : Nat} (h : z.inSet set true n = false) : z.slotAfterRoll set n = z.keySlot n :=
  if_neg (by simp [h])

/-- A slot outside the set stays. -/
theorem rolls_outside {set : Nat} {x : Nat × Nat × Zone} {n : Nat} (h : attrSet (x.2.2.keySlot n).attr ≠ set) : Rolls set [n] x x := by
  have hin (b : Bool) : x.2.2.inSet set b n = false := by simp [inSet, h]
  exact
    { rolled := by simp [hin]
      skipped := by simp [hin]
      slots := fun m => by
        split
        case isTrue hm => rw [List.mem_singleton.mp hm, slotAfterRoll_of_not _ (hin true)]
        case isFalse => rfl
      frame := .refl }

/-- A slot of the set without a next key is skipped. -/
theorem rolls_skipped {set : Nat} {x : Nat × Nat × Zone} {n : Nat} (h : attrSet (x.2.2.keySlot n).attr = set)
    (hnext : (x.2.2.keySlot n).next.isSome = false) :
    Rolls set [n] x (x.1, x.2.1 + 1, x.2.2.count pKEY KEY0.ROLL_COUNTS_SKIPPED) := by
  have hin (b : Bool) : x.2.2.inSet set b n = !b := by simp [inSet, h, hnext]
  exact
    { rolled := by simp [hin]
      skipped := by simp [hin]
      slots := fun m => by
        split
        case isTrue hm => rw [List.mem_singleton.mp hm, slotAfterRoll_of_not _ (hin true)]; rfl
        case isFalse => rfl
      frame := BankFrame.refl.count (by decide) }

/-- A slot of the set with a next key rolls. -/
theorem rolls_rolled {set : Nat} {x : Nat × Nat × Zone} {n : Nat} (hn : n < 256) (h : attrSet (x.2.2.keySlot n).attr = set)
    (hnext : (x.2.2.keySlot n).next.isSome = true) (f : KeyringSt → Bool) :
    Rolls set [n] x (x.1 + 1, x.2.1, ((x.2.2.setKeySlot n (x.2.2.keySlot n).rolled).setKeyring fun y => { y with dirty := f y }).count
      pKEY KEY0.ROLL_COUNTS_ROLLED) := by
  have hin (b : Bool) : x.2.2.inSet set b n = b := by simp [inSet, h, hnext]
  exact
    { rolled := by simp [hin]
      skipped := by simp [hin]
      slots := fun m => by
        split
        case isTrue hm =>
          rw [List.mem_singleton.mp hm, slotAfterRoll, if_pos (hin true)]
          exact keySlot_setKeySlot_same _ _ hn
        case isFalse hm => exact keySlot_setKeySlot_ne _ _ hn fun e => hm (List.mem_singleton.mpr e)
      frame := ((setKeySlot_frame _ _ hn).parts rfl rfl (SameParts.keyring (by decide)) :
        x.2.2.BankFrame _ _ ((x.2.2.setKeySlot n _).setKeyring _)).count (by decide) }

theorem rollStep_rolls (set : Nat) (x : Nat × Nat × Zone) {n : Nat} (hn : n < 256) : Rolls set [n] x (rollStep set x n) := by
  unfold rollStep
  dsimp only
  split
  case isTrue h => exact rolls_outside h
  case isFalse h =>
    split
    case isTrue hnext => exact rolls_rolled hn (not_not.mp h) hnext _
    case isFalse hnext => exact rolls_skipped (not_not.mp h) (Bool.eq_false_iff.mpr hnext)

/-- A slot outside the rolled ones is judged as before. -/
theorem Rolls.inSet_eq {set : Nat} {l : List Nat} {x y : Nat × Nat × Zone} (h : Rolls set l x y) {n : Nat} (hn : n ∉ l) (b : Bool) :
    y.2.2.inSet set b n = x.2.2.inSet set b n := by
  unfold inSet
  rw [h.slots, if_neg hn]

/-- The rolls of distinct slots compose. -/
theorem Rolls.cons {set n : Nat} {l : List Nat} {x y z : Nat × Nat × Zone} (h : Rolls set [n] x y) (h' : Rolls set l y z)
    (hn : n ∉ l) : Rolls set (n :: l) x z := by
  have hin (b : Bool) : l.filter (y.2.2.inSet set b) = l.filter (x.2.2.inSet set b) :=
    List.filter_congr fun m hm => h.inSet_eq (fun e => hn (List.mem_singleton.mp e ▸ hm)) b
  have hsplit (b : Bool) : (List.filter (x.2.2.inSet set b) (n :: l)).length =
      (List.filter (x.2.2.inSet set b) [n]).length + (l.filter (x.2.2.inSet set b)).length := by
    rw [← List.length_append, ← List.filter_append, List.singleton_append]
  exact
    { rolled := by rw [h'.rolled, h.rolled, hin, hsplit]; omega
      skipped := by rw [h'.skipped, h.skipped, hin, hsplit]; omega
      slots := fun m => by
        rw [h'.slots m]
        by_cases hm : m ∈ l
        · have hmn : m ∉ [n] := fun e => hn (List.mem_singleton.mp e ▸ hm)
          rw [if_pos hm, if_pos (List.mem_cons_of_mem n hm)]
          unfold slotAfterRoll
          rw [h.inSet_eq hmn, h.slots m, if_neg hmn]
        · rw [if_neg hm, h.slots m]
          simp [hm]
      frame := h.frame.trans h'.frame }

theorem foldl_rollStep_rolls (set : Nat) (l : List Nat) (x : Nat × Nat × Zone) (hd : l.Nodup) (hl : ∀ n ∈ l, n < 256) :
    Rolls set l x (l.foldl (rollStep set) x) := by
  induction l generalizing x with
  | nil => exact ⟨rfl, rfl, fun _ => rfl, .refl⟩
  | cons n l ih =>
    obtain ⟨hn, hd⟩ := List.nodup_cons.mp hd
    exact (rollStep_rolls set x (hl n (.head _))).cons (ih _ hd fun m hm => hl m (.tail _ hm)) hn

theorem rollSet_rolls (s : Zone) (set : Nat) : Rolls set (List.range 256) (0, 0, s) (s.rollSet set) :=
  foldl_rollStep_rolls set _ _ List.nodup_range fun _ => List.mem_range.mp

/-! ### A freeze (R582) -/

theorem extentWord_ne {k i : Nat} (hk : k < 4) (hi : i < 8) {f : Fld} (hf : f.off < 0x180) : extentPage k + 4 * i ≠ pLOG + f.off := by
  unfold extentPage
  omega

theorem setExtent_frame (s : Zone) {k : Nat} (a b : Nat) (active : Bool) (hk : k < 4) : s.BankFrame [10] [] (s.setExtent k a b active) := by
  have hbank (i : Nat) (hi : i < 8) : keyBank (extentPage k + 4 * i) ∈ [10] := by
    unfold extentPage
    rw [Nat.add_assoc, Nat.add_assoc, keyBank_page (by decide) (by omega)]
    decide
  exact (((((BankFrame.refl.wr (hbank 0 (by decide))).wr (hbank 1 (by decide))).wr (hbank 2 (by decide))).wr (hbank 3 (by decide))).wr
    (hbank 4 (by decide))).setFldBit (by decide)

/-- What an extent that is set shows. -/
structure ShowsExtent (z : Zone) (k a b : Nat) : Prop where
  start : z.rd (extentPage k) = BitVec.ofNat 32 a
  finish : z.rd (extentPage k + 8) = BitVec.ofNat 32 b
  active : z.extentActive k = true

/-- The words of an extent. -/
def extentWords (s : Zone) (k a b : Nat) (active : Bool) : Zone :=
  ((((s.wr (extentPage k + 4 * 0) (BitVec.ofNat 32 a)).wr (extentPage k + 4 * 1) (BitVec.ofNat 32 (a / 2 ^ 32))).wr (extentPage k + 4 * 2)
    (BitVec.ofNat 32 b)).wr (extentPage k + 4 * 3) (BitVec.ofNat 32 (b / 2 ^ 32))).wr (extentPage k + 4 * 4)
    (BitVec.ofNat 32 (b2n active * 2 ^ 31))

theorem setExtent_eq (s : Zone) (k a b : Nat) (active : Bool) :
    s.setExtent k a b active = (s.extentWords k a b active).setFldBit pLOG LOG0.LOG_STATUS_FROZEN k active := rfl

theorem setExtent_shows (s : Zone) {k : Nat} (a b : Nat) (hk : k < 4) : (s.setExtent k a b true).ShowsExtent k a b := by
  have hstatus (i : Nat) (hi : i < 8) : (s.setExtent k a b true).rd (extentPage k + 4 * i) =
      (s.extentWords k a b true).rd (extentPage k + 4 * i) := by
    rw [setExtent_eq]
    exact rd_setFld_ne _ _ _ _ _ (extentWord_ne hk hi (by decide))
  have hwr (z : Zone) (i j : Nat) (v : Word) (h : i ≠ j) : (z.wr (extentPage k + 4 * j) v).rd (extentPage k + 4 * i) =
      z.rd (extentPage k + 4 * i) := rd_wr_ne _ _ _ _ (by omega)
  have hstart : (s.extentWords k a b true).rd (extentPage k + 4 * 0) = BitVec.ofNat 32 a := by
    unfold extentWords
    rw [hwr _ 0 4 _ (by decide), hwr _ 0 3 _ (by decide), hwr _ 0 2 _ (by decide), hwr _ 0 1 _ (by decide), rd_wr_same]
  have hfinish : (s.extentWords k a b true).rd (extentPage k + 4 * 2) = BitVec.ofNat 32 b := by
    unfold extentWords
    rw [hwr _ 2 4 _ (by decide), hwr _ 2 3 _ (by decide), rd_wr_same]
  have hactive : (s.extentWords k a b true).rd (extentPage k + 4 * 4) = BitVec.ofNat 32 (2 ^ 31) := rd_wr_same _ _ _
  exact
    { start := (hstatus 0 (by decide)).trans hstart
      finish := (hstatus 2 (by decide)).trans hfinish
      active := by
        have hword := (hstatus 4 (by decide)).trans hactive
        unfold extentActive
        rw [show extentPage k + 16 = extentPage k + 4 * 4 from rfl, hword]
        decide }

theorem ShowsExtent.event {k a b : Nat} {z : Zone} (h : z.ShowsExtent k a b) (hk : k < 4) :
    (z.event pLOG LOG0.LOG_EVENT_FREEZE).ShowsExtent k a b := by
  have hrd (i : Nat) (hi : i < 8) : (z.event pLOG LOG0.LOG_EVENT_FREEZE).rd (extentPage k + 4 * i) = z.rd (extentPage k + 4 * i) :=
    rd_setFld_ne _ _ _ _ _ (extentWord_ne hk hi (by decide))
  obtain ⟨hstart, hfinish, hactive⟩ := h
  exact
    { start := (hrd 0 (by decide)).trans hstart
      finish := (hrd 2 (by decide)).trans hfinish
      active := (congrArg (fun w : Word => w.getLsbD 31) (hrd 4 (by decide))).trans hactive }

/-- The first free extent is set. -/
theorem freeze_free (s : Zone) (t : Nat) {k : Nat} (hk : k < 4) (hr : s.logRuns = true) (hf : s.extentActive k = false)
    (hmin : ∀ j < k, s.extentActive j = true) :
    s.freeze t = (0, ((s.markStreams 0 2 4).setExtent k ((s.nowNs - t * 1000000000) % 2 ^ 64) (s.nowNs % 2 ^ 64) true).event pLOG
      LOG0.LOG_EVENT_FREEZE) := by
  have hfind : (List.range 4).find? (fun k => !s.extentActive k) = some k := by
    rw [List.find?_range_eq_some]
    exact ⟨by simp [hf], List.mem_range.mpr hk, fun j hj => by simp [hmin j hj]⟩
  unfold freeze
  simp only [hr, Bool.not_true, Bool.false_eq_true, if_false, hfind]

/-- Where the logbook does not run, or no extent is free, nothing is set. -/
theorem freeze_refused (s : Zone) (t : Nat) (h : s.logRuns = false ∨ ((List.range 4).all fun k => s.extentActive k) = true) :
    s.freeze t = (if s.logRuns then 0x60 else 0x61, s) := by
  unfold freeze
  cases hr : s.logRuns with
  | false => rfl
  | true =>
    have hall := h.resolve_left (by simp [hr])
    have hnone : (List.range 4).find? (fun k => !s.extentActive k) = none := by
      simpa using hall
    rw [hnone]
    rfl

/-! ### The failed-start count (R672) -/

theorem clearCounts_frame (s : Zone) : s.BankFrame [0] [.start] s.clearCounts := by
  have hstart (x : StartSt) : s.BankFrame [0] [.start] { s with start := x } :=
    BankFrame.refl.parts rfl rfl (SameParts.start (by decide))
  unfold clearCounts
  exact (hstart _).trans ((showRecords_frame _).mono (by decide) (by decide))

theorem clearCounts_start (s : Zone) :
    s.clearCounts.start = { s.start with records := s.start.records.map fun r => { r with counts := false } } := by
  unfold clearCounts
  exact (showRecords_frame _).part .start (by decide)

theorem clearCounts_failedCount (s : Zone) : s.clearCounts.failedCount = 0 := by
  unfold failedCount
  rw [clearCounts_start]
  simp

end Zone

/-! ### Commands with one word -/

theorem completes_word {c : Instr} {s : State} {code : Nat} {e : Envelope} {top v : Nat} {effect : Zone → Zone}
    (hc : exec c s = .next { s with zone := s.zone.command code e (Zone.wordArg e top) effect }) (h : s.zone.Accepts code e)
    (ha : e.args = leBytes 4 v) (hv : v < 2 ^ 32) (ht : v ≤ top) : Completes c s (· = effect (s.zone.seqTaken e)) :=
  completes_command c s code e _ effect _ hc h (Zone.wordArg_of_leBytes ha hv ht _) rfl

theorem Zone.seqTaken_executing {z : Zone} {code : Nat} {e : Envelope} (h : z.Accepts code e) :
    (z.seqTaken e).supv.executing = z.supv.executing := by rw [z.seqTaken_eq e h.awake]

theorem Zone.seqTaken_replies {z : Zone} {code : Nat} {e : Envelope} (h : z.Accepts code e) :
    (z.seqTaken e).supv.replies = z.supv.replies := by rw [z.seqTaken_eq e h.awake]

theorem Zone.seqTaken_mono {z : Zone} {code : Nat} {e : Envelope} (h : z.Accepts code e) : (z.seqTaken e).mono = z.mono :=
  (Zone.seqTaken_frame h).part .mono (by decide)

theorem Zone.keySlot_congr {s z : Zone} (h : z.keyring = s.keyring) (n : Nat) : z.keySlot n = s.keySlot n := by
  unfold keySlot
  rw [h]

theorem Zone.lastAnswer_congr {s z : Zone} (h : z.supv = s.supv) : z.lastAnswer = s.lastAnswer := by
  unfold lastAnswer
  rw [h]

/-! ### What the commands find as it was -/

section Taken

variable {z : Zone} {code : Nat} {e : Envelope} (h : z.Accepts code e)

include h

theorem Zone.seqTaken_anyWakeSource : (z.seqTaken e).anyWakeSource = z.anyWakeSource := by
  have hw := Zone.seqTaken_frame h
  have hin (k : Nat) : (z.seqTaken e).rd (pZONE 0 + ZONE0.IN_WAKE_MODE.off + 4 * k) = z.rd (pZONE 0 + ZONE0.IN_WAKE_MODE.off + 4 * k) :=
    hw.rd (by simp; omega)
  have hcan (c : Nat) : (z.seqTaken e).flag (pCAN c) CAN.SW_CFG_WAKE_EN = z.flag (pCAN c) CAN.SW_CFG_WAKE_EN :=
    hw.flag (by simp)
  unfold anyWakeSource
  simp only [hin, hcan]
  rw [hw.fld (by decide)]

theorem Zone.seqTaken_logRuns : (z.seqTaken e).logRuns = z.logRuns := by
  have hw := Zone.seqTaken_frame h
  unfold logRuns inMode
  rw [hw.flag (by decide), hw.fld (by decide), hw.mode (by decide)]

theorem Zone.seqTaken_extentActive (k : Nat) : (z.seqTaken e).extentActive k = z.extentActive k := by
  unfold extentActive
  rw [(Zone.seqTaken_frame h).rd (by unfold extentPage; simp)]

theorem Zone.seqTaken_failedCount : (z.seqTaken e).failedCount = z.failedCount := by
  have hw := Zone.seqTaken_frame h
  have hstart : (z.seqTaken e).start = z.start := hw.part .start (by decide)
  unfold failedCount lifeTime
  rw [hstart, hw.rd (by decide)]

theorem Zone.seqTaken_startReasons : (z.seqTaken e).startReasons = z.startReasons := by
  have hw := Zone.seqTaken_frame h
  have hstart : (z.seqTaken e).start = z.start := hw.part .start (by decide)
  unfold startReasons
  rw [Zone.seqTaken_failedCount h, hw.fld (by decide), hstart]

end Taken

/-! ### The effects -/

section Effects

variable {s : State} {e : Envelope}

theorem completes_setProfile (v : Fin 4) (h : s.zone.Accepts Code.profile e) (ha : e.args = leBytes 4 v.val) :
    Completes (.setProfile e) s fun z =>
      z.fld (pZONE 7) ZONE7.PROFILE_REQ = v.val ∧
      z.fld (pZONE 7) ZONE7.PROFILE_ACTIVE = s.zone.fld (pZONE 7) ZONE7.PROFILE_ACTIVE ∧
      z.lastAnswer = some (Code.profile, e.seq, 0, leBytes 4 (v.val + s.zone.fld (pZONE 7) ZONE7.PROFILE_ACTIVE * 16)) ∧
      z.supv.executing = s.zone.supv.executing ∧
      s.zone.Frame [pZONE 0 + ZONE0.SUPV_SEQ_HIGH_LO.off, pZONE 7 + ZONE7.PROFILE_REQ.off] [.supv, .sleep] z := by
  refine (completes_word rfl h ha (by omega) (by omega)).imp fun z hz => ?_
  have hw := Zone.seqTaken_frame h
  have hactive := hw.fld (p := pZONE 7) (f := ZONE7.PROFILE_ACTIVE) (by decide)
  rw [ha, leAt_word (by omega)] at hz
  dsimp only at hz
  rw [hactive] at hz
  subst hz
  have hset := Zone.fld_setFld_same (s.zone.seqTaken e) (pZONE 7) ZONE7.PROFILE_REQ v.val (by decide)
  have hother := Zone.fld_setFld_ne (s.zone.seqTaken e) (pZONE 7) (pZONE 7) ZONE7.PROFILE_REQ ZONE7.PROFILE_ACTIVE v.val (by decide)
  rw [show v.val % 2 ^ ZONE7.PROFILE_REQ.w = v.val from Nat.mod_eq_of_lt v.isLt] at hset
  exact ⟨(Zone.fld_congr rfl _ _).trans hset, (Zone.fld_congr rfl _ _).trans (hother.trans hactive), Zone.lastAnswer_send _ _ _ _ _,
    Zone.seqTaken_executing h, ((hw.mono (by decide) (by decide)).setFld (by decide)).send (by decide)⟩

theorem toSigned_toNat (d : BitVec 64) : toSigned 64 d.toNat = d.toInt := by
  have hd := d.isLt
  unfold toSigned
  rw [BitVec.toInt_eq_toNat_cond, Nat.mod_eq_of_lt hd]
  split <;> split <;> omega

/-- An accepted FORCE_TIME_STEP of good arguments executes. -/
theorem completes_forceTimeStep (h : s.zone.Accepts Code.force e) (hok : Zone.forceArgsOk e.args = true) :
    Completes (.forceTimeStep e) s (· = (s.zone.seqTaken e).forceTimeStep e.seq e.args) :=
  completes_command _ s Code.force e (fun _ => Zone.forceArgsOk e.args) _ _ rfl h hok rfl

/-- A command that executes, with a change of the time. -/
theorem Zone.accept_time {z : Zone} {code : Nat} (h : z.Accepts code e) (t : TimeSt) :
    let w := { (z.seqTaken e).accept Code.force e.seq true with time := t }
    w.time = t ∧ w.supv.executing = z.supv.executing ++ [⟨Code.force, e.seq, true⟩] ∧ w.supv.replies = z.supv.replies ∧
      z.Frame [pZONE 0 + ZONE0.SUPV_SEQ_HIGH_LO.off] [.supv, .sleep, .time] w := by
  have hframe : z.Frame [pZONE 0 + ZONE0.SUPV_SEQ_HIGH_LO.off] [.supv, .sleep, .time] ((z.seqTaken e).accept Code.force e.seq true) :=
    ((Zone.seqTaken_frame h).mono (by decide) (by decide)).supv (by decide)
  refine ⟨rfl, ?_, Zone.seqTaken_replies h, hframe.parts rfl rfl (Zone.SameParts.time (by decide))⟩
  exact congrArg (· ++ _) (Zone.seqTaken_executing h)

/-- The MODE and the step of FORCE_TIME_STEP, as its arguments spell them. -/
theorem leAt_force {e : Envelope} {m d : Nat} (ha : e.args = leBytes 4 m ++ leBytes 8 d) (hm : m < 2 ^ 32) (hd : d < 2 ^ 64) :
    e.args.length = 12 ∧ leAt e.args 0 4 = m ∧ leAt e.args 4 8 = d := by
  rw [ha]
  refine ⟨by simp [length_leBytes], ?_, ?_⟩
  · rw [leAt_leBytes, Nat.mod_eq_of_lt (by omega)]
  · rw [leAt_leBytes_next, Nat.mod_eq_of_lt (by omega)]

theorem completes_forceStep (d : BitVec 64) (h : s.zone.Accepts Code.force e) (ha : e.args = leBytes 4 1 ++ leBytes 8 d.toNat)
    (hne : d.toInt ≠ 0) (hlo : -1000000000000000 ≤ d.toInt) (hhi : d.toInt ≤ 1000000000000000) :
    Completes (.forceTimeStep e) s fun z =>
      z.time = { s.zone.time with pendingStep := some (e.seq, d.toInt) } ∧
      z.supv.executing = s.zone.supv.executing ++ [⟨Code.force, e.seq, true⟩] ∧ z.supv.replies = s.zone.supv.replies ∧
      s.zone.Frame [pZONE 0 + ZONE0.SUPV_SEQ_HIGH_LO.off] [.supv, .sleep, .time] z := by
  obtain ⟨hlen, hmode, hstep⟩ := leAt_force ha (by decide) d.isLt
  have hsigned : Zone.forceStep e.args = d.toInt := by
    unfold Zone.forceStep
    rw [hstep, toSigned_toNat]
  have hok : Zone.forceArgsOk e.args = true := by
    simp [Zone.forceArgsOk, hlen, hmode, hsigned, hne, hlo, hhi]
  refine (completes_forceTimeStep h hok).imp fun z hz => ?_
  have htime : (s.zone.seqTaken e).time = s.zone.time := (Zone.seqTaken_frame h).part .time (by decide)
  rw [Zone.forceTimeStep, if_neg (by simp [hmode]), hsigned] at hz
  subst hz
  rw [← htime]
  exact Zone.accept_time h _

theorem completes_forceMeasure (h : s.zone.Accepts Code.force e) (ha : e.args = leBytes 4 0 ++ leBytes 8 0) :
    Completes (.forceTimeStep e) s fun z =>
      z.time = { s.zone.time with waiting := some ⟨e.seq, s.zone.mono + 2000 * 250000⟩ } ∧
      z.supv.executing = s.zone.supv.executing ++ [⟨Code.force, e.seq, true⟩] ∧ z.supv.replies = s.zone.supv.replies ∧
      s.zone.Frame [pZONE 0 + ZONE0.SUPV_SEQ_HIGH_LO.off] [.supv, .sleep, .time] z := by
  obtain ⟨hlen, hmode, hstep⟩ := leAt_force ha (by decide) (by decide)
  have hok : Zone.forceArgsOk e.args = true := by
    simp [Zone.forceArgsOk, hlen, hmode, hstep]
  refine (completes_forceTimeStep h hok).imp fun z hz => ?_
  have htime : (s.zone.seqTaken e).time = s.zone.time := (Zone.seqTaken_frame h).part .time (by decide)
  rw [Zone.forceTimeStep, if_pos hmode] at hz
  subst hz
  rw [← htime, ← Zone.seqTaken_mono h]
  exact Zone.accept_time h _

theorem completes_sleepRequest (v : BitVec 24) (h : s.zone.Accepts Code.sleep e) (ha : e.args = leBytes 4 v.toNat)
    (hv : v ≠ 0 ∨ s.zone.anyWakeSource = true) : Completes (.sleepRequest e) s fun z =>
      z.flag (pZONE 0) ZONE0.STATE_SLEEP_PENDING = true ∧ z.flag (pZONE 0) ZONE0.SLEEP_EVENT_PENDING = true ∧
      z.fld (pZONE 0) ZONE0.SLEEP_STATUS_CAUSE = 1 ∧ z.fld (pZONE 0) ZONE0.WAKE_TIMER_SECONDS = v.toNat ∧ z.sleep.phase = 1 ∧
      z.sleep.since = s.zone.mono ∧ z.lastAnswer = some (Code.sleep, e.seq, 0, leBytes 4 0) ∧ z.mode = s.zone.mode ∧
      z.SameMemory s.zone := by
  have hlt := v.isLt
  refine (completes_word rfl h ha (by omega) (by omega)).imp fun z hz => ?_
  have hw := Zone.seqTaken_frame h
  have hgo : ¬(v.toNat = 0 ∧ (!(s.zone.seqTaken e).anyWakeSource) = true) := by
    rintro ⟨h0, hany⟩
    rw [Zone.seqTaken_anyWakeSource h] at hany
    exact hv.elim (fun hne => hne (BitVec.eq_of_toNat_eq h0)) fun ht => by simp [ht] at hany
  rw [ha, leAt_word (by omega), Zone.sleepRequest, if_neg hgo] at hz
  obtain ⟨hpending, hevent, hcause, htimer, hphase, hsince, hsupv, hmode, hmem⟩ :=
    hz ▸ Zone.beginSleep_beginsSleep ((s.zone.seqTaken e).send Code.sleep e.seq Status.ok (leBytes 4 0)) 1 v.toNat
  exact ⟨hpending, hevent, hcause, htimer.trans (Nat.mod_eq_of_lt hlt), hphase, hsince.trans (Zone.seqTaken_mono h),
    (Zone.lastAnswer_congr hsupv).trans (Zone.lastAnswer_send _ _ _ _ _), hmode.trans (hw.mode (by decide)),
    fun a => (hw.memory a).trans (hmem a)⟩

theorem completes_sleepRefused (h : s.zone.Accepts Code.sleep e) (ha : e.args = leBytes 4 0) (hn : s.zone.anyWakeSource = false) :
    Completes (.sleepRequest e) s fun z =>
      z.lastAnswer = some (Code.sleep, e.seq, 0, leBytes 4 0x40) ∧ z.sleep.phase = 0 ∧
      s.zone.Frame [pZONE 0 + ZONE0.SUPV_SEQ_HIGH_LO.off] [.supv, .sleep] z := by
  refine (completes_word rfl h ha (by decide) (by decide)).imp fun z hz => ?_
  rw [ha, leAt_word (by decide), Zone.sleepRequest, if_pos ⟨rfl, by rw [Zone.seqTaken_anyWakeSource h, hn]; rfl⟩] at hz
  subst hz
  refine ⟨Zone.lastAnswer_send _ _ _ _ _, ?_, (Zone.seqTaken_frame h).send (by decide)⟩
  have hphase : (s.zone.seqTaken e).sleep.phase = 0 := by
    rw [s.zone.seqTaken_eq e h.awake]
    exact h.awake
  exact hphase

theorem completes_keyRoll (k : Fin 15) (h : s.zone.Accepts Code.roll e) (ha : e.args = leBytes 4 (k.val + 1)) :
    Completes (.keyRoll e) s fun z =>
      z.lastAnswer = some (Code.roll, e.seq, 0, leBytes 2 (s.zone.slotsOfSet (k.val + 1) true) ++
        leBytes 2 (s.zone.slotsOfSet (k.val + 1) false)) ∧
      (∀ n : Fin 256, z.keySlot n.val = if attrSet (s.zone.keySlot n.val).attr = k.val + 1 ∧ (s.zone.keySlot n.val).next.isSome then
        (s.zone.keySlot n.val).rolled else s.zone.keySlot n.val) ∧
      z.supv.executing = s.zone.supv.executing ∧ s.zone.BankFrame [0, 11] [.supv, .sleep, .keyring] z := by
  have hset : leAt e.args 0 4 = k.val + 1 := by rw [ha, leAt_word (by omega)]
  have hok : (Zone.wordArg e 15 (s.zone.seqTaken e) && decide (leAt e.args 0 4 ≠ 0)) = true := by
    rw [Zone.wordArg_of_leBytes ha (by omega) (by omega), hset]
    rfl
  refine completes_command _ s Code.roll e (fun s => Zone.wordArg e 15 s && decide (leAt e.args 0 4 ≠ 0)) _ _ rfl h hok ?_
  rw [hset]
  have hw := Zone.seqTaken_frame h
  obtain ⟨hrolled, hskipped, hslots, hframe⟩ := (s.zone.seqTaken e).rollSet_rolls (k.val + 1)
  generalize (s.zone.seqTaken e).rollSet (k.val + 1) = x at hrolled hskipped hslots hframe
  have hkey (n : Nat) : (s.zone.seqTaken e).keySlot n = s.zone.keySlot n := Zone.keySlot_congr (hw.part .keyring (by decide)) n
  have hin (b : Bool) : (s.zone.seqTaken e).inSet (k.val + 1) b = s.zone.inSet (k.val + 1) b := by
    funext n
    unfold Zone.inSet
    rw [hkey]
  have hsupv : x.2.2.supv = (s.zone.seqTaken e).supv := hframe.part .supv (by decide)
  rw [hin, Nat.zero_add] at hrolled hskipped
  dsimp only
  rw [hrolled, hskipped]
  refine ⟨Zone.lastAnswer_send _ _ _ _ _, fun n => ?_, ?_, ?_⟩
  · refine (Zone.keySlot_congr rfl n.val).trans ((hslots n.val).trans ?_)
    rw [if_pos (List.mem_range.mpr n.isLt)]
    unfold Zone.slotAfterRoll
    rw [hin, hkey]
    simp [Zone.inSet]
  · exact (congrArg SupervisorSt.executing hsupv).trans (Zone.seqTaken_executing h)
  · have htaken : s.zone.BankFrame [0, 11] [.supv, .sleep, .keyring] (s.zone.seqTaken e) := hw.banks (by decide) (by decide)
    exact (htaken.trans (hframe.mono (by decide) (by decide))).parts rfl rfl (Zone.SameParts.supv (by decide))

/-- An accepted LOG_FREEZE has its effect. -/
theorem completes_logFreeze (t : Nat) (h : s.zone.Accepts Code.freeze e) (ha : e.args = leBytes 4 t ++ leBytes 4 0) (ht : t ≤ 3600) :
    Completes (.logFreeze e) s (· = ((s.zone.seqTaken e).freeze t).2.send Code.freeze e.seq Status.ok
      (leBytes 4 ((s.zone.seqTaken e).freeze t).1)) := by
  have hlen : e.args.length = 8 := by rw [ha]; simp [length_leBytes]
  have hbefore : leAt e.args 0 4 = t := by rw [ha, leAt_leBytes, Nat.mod_eq_of_lt (by omega)]
  have hzero : leAt e.args 4 4 = 0 := by rw [ha, leAt_leBytes_next]; rfl
  refine completes_command _ s Code.freeze e
    (fun _ => decide (e.args.length = 8 ∧ leAt e.args 0 4 ≤ 3600 ∧ leAt e.args 4 4 = 0)) _ _ rfl h
    (decide_eq_true ⟨hlen, by omega, hzero⟩) ?_
  rw [hbefore]

/-- The answer to a freeze leaves what it has set. -/
theorem freeze_answered {x y : Zone} {k a b : Nat} (seq : BitVec 32) (h : x.ShowsExtent k a b)
    (hf : x.flag pLOG LOG0.LOG_EVENT_FREEZE = true) (hm : x.SameMemory y) :
    let z := x.send Code.freeze seq Status.ok (leBytes 4 0)
    z.extentActive k = true ∧ z.rd (Zone.extentPage k) = BitVec.ofNat 32 a ∧ z.rd (Zone.extentPage k + 8) = BitVec.ofNat 32 b ∧
      z.flag pLOG LOG0.LOG_EVENT_FREEZE = true ∧ z.lastAnswer = some (Code.freeze, seq, 0, leBytes 4 0) ∧ z.SameMemory y :=
  ⟨h.active, h.start, h.finish, hf, Zone.lastAnswer_send _ _ _ _ _, hm⟩

theorem completes_freezeSet (t : Nat) (k : Fin 4) (h : s.zone.Accepts Code.freeze e) (ha : e.args = leBytes 4 t ++ leBytes 4 0)
    (ht : t ≤ 3600) (hr : s.zone.logRuns = true) (hf : s.zone.extentActive k.val = false)
    (hmin : ∀ j : Fin 4, j.val < k.val → s.zone.extentActive j.val = true) : Completes (.logFreeze e) s fun z =>
      z.extentActive k.val = true ∧ z.rd (Zone.extentPage k.val) = BitVec.ofNat 32 ((s.zone.nowNs - t * 1000000000) % 2 ^ 64) ∧
      z.rd (Zone.extentPage k.val + 8) = BitVec.ofNat 32 (s.zone.nowNs % 2 ^ 64) ∧ z.flag pLOG LOG0.LOG_EVENT_FREEZE = true ∧
      z.lastAnswer = some (Code.freeze, e.seq, 0, leBytes 4 0) ∧ z.SameMemory s.zone := by
  refine (completes_logFreeze t h ha ht).imp fun z hz => ?_
  have hw := Zone.seqTaken_frame h
  have hnow : (s.zone.seqTaken e).nowNs = s.zone.nowNs := by
    have htime : (s.zone.seqTaken e).time = s.zone.time := hw.part .time (by decide)
    unfold Zone.nowNs
    rw [htime]
  have hfree := (s.zone.seqTaken e).freeze_free t k.isLt (by rw [Zone.seqTaken_logRuns h, hr])
    (by rw [Zone.seqTaken_extentActive h, hf])
    (fun j hj => by rw [Zone.seqTaken_extentActive h]; exact hmin ⟨j, by omega⟩ hj)
  rw [hfree, hnow] at hz
  dsimp only at hz
  rw [hz]
  have hset := Zone.BankFrame.trans ((s.zone.seqTaken e).markStreams_frame 0 2 4)
    ((Zone.setExtent_frame _ ((s.zone.nowNs - t * 1000000000) % 2 ^ 64) (s.zone.nowNs % 2 ^ 64) true k.isLt).mono (by decide) (by decide))
  exact freeze_answered e.seq ((Zone.setExtent_shows _ _ _ k.isLt).event k.isLt) (Zone.flag_event_same _ _ _ (by decide) (by decide))
    fun a => (hw.memory a).trans ((hset.event (by decide)).memory a)

theorem completes_freezeRefused (t : Nat) (h : s.zone.Accepts Code.freeze e) (ha : e.args = leBytes 4 t ++ leBytes 4 0)
    (ht : t ≤ 3600) (hn : s.zone.logRuns = false ∨ ((List.range 4).all fun k => s.zone.extentActive k) = true) :
    Completes (.logFreeze e) s fun z =>
      z.lastAnswer = some (Code.freeze, e.seq, 0, leBytes 4 (if s.zone.logRuns then 0x60 else 0x61)) ∧
      s.zone.Frame [pZONE 0 + ZONE0.SUPV_SEQ_HIGH_LO.off] [.supv, .sleep] z := by
  refine (completes_logFreeze t h ha ht).imp fun z hz => ?_
  rw [(s.zone.seqTaken e).freeze_refused t (by simpa only [Zone.seqTaken_logRuns h, Zone.seqTaken_extentActive h] using hn),
    Zone.seqTaken_logRuns h] at hz
  subst hz
  exact ⟨Zone.lastAnswer_send _ _ _ _ _, (Zone.seqTaken_frame h).send (by decide)⟩

theorem completes_readStartReasons (h : s.zone.Accepts Code.reasons e) (ha : e.args = []) :
    Completes (.readStartReasons e) s fun z =>
      z.lastAnswer = some (Code.reasons, e.seq, 0, s.zone.startReasons) ∧ z.start = s.zone.start ∧
      s.zone.Frame [pZONE 0 + ZONE0.SUPV_SEQ_HIGH_LO.off] [.supv, .sleep] z := by
  refine (completes_noArgs rfl h ha).imp fun z hz => ?_
  have hw := Zone.seqTaken_frame h
  rw [Zone.seqTaken_startReasons h] at hz
  subst hz
  exact ⟨Zone.lastAnswer_send _ _ _ _ _, hw.part .start (by decide), hw.send (by decide)⟩

theorem completes_clearStartCount (h : s.zone.Accepts Code.clear e) (ha : e.args = []) :
    Completes (.clearStartCount e) s fun z =>
      z.failedCount = 0 ∧ z.lastAnswer = some (Code.clear, e.seq, 0, leBytes 4 s.zone.failedCount) ∧
      z.start.records = (s.zone.start.records.map fun r => { r with counts := false }) ∧
      s.zone.BankFrame [0] [.supv, .sleep, .start] z := by
  refine (completes_noArgs rfl h ha).imp fun z hz => ?_
  have hw := Zone.seqTaken_frame h
  have hstart : (s.zone.seqTaken e).start = s.zone.start := hw.part .start (by decide)
  have hrecords := congrArg StartSt.records (s.zone.seqTaken e).clearCounts_start
  have hcount := (s.zone.seqTaken e).clearCounts_failedCount
  have hframe := (s.zone.seqTaken e).clearCounts_frame
  rw [Zone.seqTaken_failedCount h] at hz
  rw [hstart] at hrecords
  generalize (s.zone.seqTaken e).clearCounts = x at hz hrecords hcount hframe
  subst hz
  have htaken : s.zone.BankFrame [0] [.supv, .sleep, .start] (s.zone.seqTaken e) := hw.banks (by decide) (by decide)
  exact ⟨hcount, Zone.lastAnswer_send _ _ _ _ _, hrecords,
    (htaken.trans (hframe.mono (by decide) (by decide))).parts rfl rfl (Zone.SameParts.supv (by decide))⟩

end Effects

/-- Settles O9, command by command from the effect on the module whose highest SEQ has been raised. -/
theorem supervisorSettingsTakeEffect : Obligations.SupervisorSettingsTakeEffect := by
  unfold Obligations.SupervisorSettingsTakeEffect
  exact ⟨fun _ _ v h ha => completes_setProfile v h ha, fun _ _ d h ha hne hlo hhi => completes_forceStep d h ha hne hlo hhi,
    fun _ _ h ha => completes_forceMeasure h ha, fun _ _ v h ha hv => completes_sleepRequest v h ha hv,
    fun _ _ h ha hn => completes_sleepRefused h ha hn, fun _ _ k h ha => completes_keyRoll k h ha,
    fun _ _ t k h ha ht hr hf hmin => completes_freezeSet t k h ha ht hr hf hmin,
    fun _ _ t h ha ht hn => completes_freezeRefused t h ha ht hn, fun _ _ h ha => completes_readStartReasons h ha,
    fun _ _ h ha => completes_clearStartCount h ha⟩

end Sys2Proof.Machine
end

