-- ==== Sys2Proof/Proofs/ClockMonitors.lean ====
section
/-! SUPPORT. The clock monitors (R38, R626) and the dual-clock queues (R32 to R37), with O4. -/

namespace Sys2Proof.Machine

open Reg

set_option Elab.async false

namespace Zone

/-! ### Bits of a field -/

/-- Taking bit `n` away where it is set clears it. -/
theorem testBit_clear (v n : Nat) : (v - if v.testBit n then 2 ^ n else 0).testBit n = false := by
  cases h : v.testBit n with
  | false => simpa using h
  | true =>
    have hle : 2 ^ n ≤ v := Nat.ge_two_pow_of_testBit h
    have hdiv : (v - 2 ^ n) / 2 ^ n = v / 2 ^ n - 1 := by
      have := Nat.sub_mul_div v (2 ^ n) 1
      rwa [Nat.mul_one] at this
    rw [Nat.testBit_eq_decide_div_mod_eq, decide_eq_true_eq] at h
    rw [if_pos rfl, Nat.testBit_eq_decide_div_mod_eq, hdiv, decide_eq_false_iff_not]
    omega

theorem fldBit_setFldBit_same (s : Zone) (p : Nat) (f : Fld) {n : Nat} (b : Bool) (h : f.lo + f.w ≤ 32) (hn : n < f.w) :
    (s.setFldBit p f n b).fldBit p f n = b := by
  unfold fldBit setFldBit
  rw [fld_setFld_same _ _ _ _ h, Nat.testBit_mod_two_pow, decide_eq_true hn, Bool.true_and]
  cases b with
  | true => simp
  | false => exact testBit_clear _ _

theorem fldBit_setFld_ne (s : Zone) (p q : Nat) (f g : Fld) (v n : Nat)
    (h : q + g.off ≠ p + f.off ∨ (g.lo + g.w ≤ 32 ∧ (f.lo + f.w ≤ g.lo ∨ g.lo + g.w ≤ f.lo))) :
    (s.setFld p f v).fldBit q g n = s.fldBit q g n := by
  unfold fldBit
  rw [fld_setFld_ne _ _ _ _ _ _ h]

theorem fldBit_congr {s t : Zone} (h : s.regs = t.regs) (p : Nat) (f : Fld) (n : Nat) : s.fldBit p f n = t.fldBit p f n := by
  unfold fldBit
  rw [fld_congr h]

/-! ### What leaves the clock monitors as they are -/

/-- `t` shows the monitors' page and the windows counted so far as `s`, and has its memory. -/
structure KeepsClocks (s t : Zone) : Prop where
  rd : ∀ k, pZONE 5 ≤ k → k < pZONE 6 → t.rd k = s.rd k
  mem : t.mem = s.mem
  bad : t.safety.clockBad = s.safety.clockBad
  good : t.safety.clockGood = s.safety.clockGood

namespace KeepsClocks

variable {w s t : Zone}

theorem refl : s.KeepsClocks s := ⟨fun _ _ _ => rfl, rfl, rfl, rfl⟩

theorem fld (h : s.KeepsClocks t) {f : Fld} (hf : f.off < 0x1000) : t.fld (pZONE 5) f = s.fld (pZONE 5) f := by
  unfold Zone.fld
  rw [h.rd _ (by omega) (by simp only [pZONE, page]; omega)]

theorem fldBit (h : s.KeepsClocks t) {f : Fld} {n : Nat} (hf : f.off < 0x1000) : t.fldBit (pZONE 5) f n = s.fldBit (pZONE 5) f n := by
  unfold Zone.fldBit
  rw [h.fld hf]

/-- An update of parts other than registers and memory that keeps the windows counted. -/
theorem parts (h : w.KeepsClocks s) (hr : t.regs = s.regs) (hm : t.mem = s.mem)
    (hb : t.safety.clockBad = s.safety.clockBad) (hg : t.safety.clockGood = s.safety.clockGood) : w.KeepsClocks t :=
  ⟨fun k hlo hhi => (rd_congr hr k).trans (h.rd k hlo hhi), hm.trans h.mem, hb.trans h.bad, hg.trans h.good⟩

theorem wr {k v} (h : w.KeepsClocks s) (hk : k < pZONE 5 ∨ pZONE 6 ≤ k) : w.KeepsClocks (s.wr k v) :=
  ⟨fun l hlo hhi => (rd_wr_ne s k l v (by omega)).trans (h.rd l hlo hhi), h.mem, h.bad, h.good⟩

theorem setFld {p f v} (h : w.KeepsClocks s) (hk : p + f.off < pZONE 5 ∨ pZONE 6 ≤ p + f.off) : w.KeepsClocks (s.setFld p f v) :=
  h.wr hk

/-- A field of a page beyond bank 0. -/
theorem setPage {b c f v} (h : w.KeepsClocks s) : w.KeepsClocks (s.setFld (page (b + 1) c) f v) :=
  h.setFld (.inr (by simp only [pZONE, page]; omega))

theorem forEach {α : Type} {l : List α} {f : Zone → α → Zone} (h : w.KeepsClocks s)
    (hf : ∀ z a, w.KeepsClocks z → w.KeepsClocks (f z a)) : w.KeepsClocks (s.forEach l f) := forEach_keeps w.KeepsClocks l f hf s h

theorem ite {c : Prop} [Decidable c] (hs : w.KeepsClocks s) (ht : w.KeepsClocks t) : w.KeepsClocks (if c then s else t) := by
  split <;> assumption

theorem showLoad {m} (h : w.KeepsClocks s) : w.KeepsClocks (s.showLoad m) :=
  h.forEach fun z n h => (h.parts rfl rfl rfl rfl : w.KeepsClocks (z.setLoad n (z.switched n))).setPage

theorem refreshFollowers {g} (h : w.KeepsClocks s) : w.KeepsClocks (s.refreshFollowers g) := h.forEach fun _ _ h => h.showLoad

theorem gensStopped (h : w.KeepsClocks s) : w.KeepsClocks s.gensStopped :=
  h.forEach fun _ _ h => h.setPage.setPage.setPage.refreshFollowers

theorem setGen {g x} (h : w.KeepsClocks s) : w.KeepsClocks (s.setGen g x) := h.parts rfl rfl rfl rfl

theorem applySet {g from_} (h : w.KeepsClocks s) : w.KeepsClocks (s.applySet g from_) :=
  h.setGen.setPage.setPage.setPage.setPage.setPage.setPage.refreshFollowers

theorem gensRestarted (h : w.KeepsClocks s) : w.KeepsClocks s.gensRestarted :=
  h.forEach fun _ _ h => .ite (.ite h.setPage.applySet h.setPage) h.setPage.setGen.setPage.setPage.refreshFollowers

/-- The time-base clock stops or runs again beside the monitors. -/
theorem timeClock {stopped} (h : w.KeepsClocks s) : w.KeepsClocks (s.timeClock stopped) := by
  have htime : w.KeepsClocks { s.markTime with time := { s.markTime.time with stopped := stopped } } := h.parts rfl rfl rfl rfl
  exact .ite htime.gensStopped htime.gensRestarted

theorem setKeeper {k x} (h : w.KeepsClocks s) : w.KeepsClocks (s.setKeeper k x) := by
  cases k <;> exact h.parts rfl rfl rfl rfl

theorem setVerdict {k t} (h : w.KeepsClocks s) : w.KeepsClocks (s.setVerdict k t) := by
  cases k <;> exact h.parts rfl rfl rfl rfl

theorem report {source detail} (h : w.KeepsClocks s) : w.KeepsClocks (s.report source detail) := h.parts rfl rfl rfl rfl

theorem checkBoth (h : w.KeepsClocks s) : w.KeepsClocks s.checkBoth := .ite (h.parts rfl rfl rfl rfl) h

/-- A field of a keeper's page. -/
theorem setKeeperFld {k f v} (h : w.KeepsClocks s) (hf : f.off < 0x1000) : w.KeepsClocks (s.setFld (pKEEPER k) f v) :=
  h.setFld (.inl (by cases k <;> simp only [pKEEPER, pZONE, Keeper.idx, page] <;> omega))

/-- The failed self-check of a keeper whose clock fails stays with the keepers. -/
theorem selfCheck {k cause} (h : w.KeepsClocks s) : w.KeepsClocks (s.selfCheck k cause) :=
  .ite h ((h.setKeeperFld (by decide)).setKeeperFld (by decide)).setKeeper.setVerdict.report.checkBoth

end KeepsClocks

/-! ### A monitor's report (R38, R626) -/

/-- What the report of domain `d` with a count leaves of the module `s`. -/
structure ReportsClock (s : Zone) (d count : Nat) (z : Zone) : Prop where
  fault : z.fldBit (pZONE 5) ZONE5.CLK_EVENT_FAULT d = true
  domain : z.fld (pZONE 5) ZONE5.CLK_LAST_DOMAIN = d
  count : z.fld (pZONE 5) ZONE5.CLK_LAST_COUNT = count % 65536
  total : z.fld (pZONE 5) ZONE5.CLK_COUNTS_TOTAL = min (s.fld (pZONE 5) ZONE5.CLK_COUNTS_TOTAL + 1) 0xFFFFFFFF
  stopped : z.fldBit (pZONE 5) ZONE5.CLK_STATUS_STOPPED d = s.fldBit (pZONE 5) ZONE5.CLK_STATUS_STOPPED d
  outside : z.fldBit (pZONE 5) ZONE5.CLK_STATUS_OUT_OF_WINDOW d = s.fldBit (pZONE 5) ZONE5.CLK_STATUS_OUT_OF_WINDOW d
  mem : z.mem = s.mem

theorem ReportsClock.of_keeps {s z z' : Zone} {d count : Nat} (h : s.ReportsClock d count z) (hk : z.KeepsClocks z') :
    s.ReportsClock d count z' where
  fault := (hk.fldBit (by decide)).trans h.fault
  domain := (hk.fld (by decide)).trans h.domain
  count := (hk.fld (by decide)).trans h.count
  total := (hk.fld (by decide)).trans h.total
  stopped := (hk.fldBit (by decide)).trans h.stopped
  outside := (hk.fldBit (by decide)).trans h.outside
  mem := hk.mem.trans h.mem

/-- The words of ZONE.5 that a report writes. -/
def clockWords (s : Zone) (d count : Nat) : Zone :=
  ((((s.setFldBit (pZONE 5) ZONE5.CLK_EVENT_FAULT d true).setFld (pZONE 5) ZONE5.CLK_LAST_DOMAIN d).setFld (pZONE 5)
    ZONE5.CLK_LAST_COUNT count).count (pZONE 5) ZONE5.CLK_COUNTS_TOTAL).count (pZONE 5) ⟨ZONE5.CLK_DOMAIN_COUNT_COUNT.off + 4 * d, 0, 16⟩

theorem clockReport_eq (s : Zone) (d count : Nat) :
    let z := (s.clockWords d count).report (if [1, 2, 3, 4, 7].contains d then Src.clockCritical else Src.clockOther) (BitVec.ofNat 32 d)
    s.clockReport d count = if d = 2 then z.selfCheck .A 7 else if d = 3 then z.selfCheck .B 7 else z := rfl

theorem domainWord_ne {d : Nat} {f : Fld} (hf : f.off < 0x60) : pZONE 5 + f.off ≠ pZONE 5 + (ZONE5.CLK_DOMAIN_COUNT_COUNT.off + 4 * d) := by
  simp only
  omega

theorem clockWords_reports (s : Zone) {d : Nat} (count : Nat) (hd : d < 10) : s.ReportsClock d count (s.clockWords d count) := by
  have hfld (z : Zone) {f : Fld} (hf : f.off < 0x60) :
      (z.count (pZONE 5) ⟨ZONE5.CLK_DOMAIN_COUNT_COUNT.off + 4 * d, 0, 16⟩).fld (pZONE 5) f = z.fld (pZONE 5) f :=
    fld_setFld_ne _ _ _ _ _ _ (.inl (domainWord_ne hf))
  have hbit (z : Zone) {f : Fld} (hf : f.off < 0x60) :
      (z.count (pZONE 5) ⟨ZONE5.CLK_DOMAIN_COUNT_COUNT.off + 4 * d, 0, 16⟩).fldBit (pZONE 5) f d = z.fldBit (pZONE 5) f d :=
    fldBit_setFld_ne _ _ _ _ _ _ _ (.inl (domainWord_ne hf))
  unfold clockWords
  exact
    { fault := by
        rw [hbit _ (by decide)]
        exact (fldBit_setFld_ne _ _ _ _ _ _ _ (by decide)).trans ((fldBit_setFld_ne _ _ _ _ _ _ _ (by decide)).trans
          ((fldBit_setFld_ne _ _ _ _ _ _ _ (by decide)).trans (fldBit_setFldBit_same s _ _ true (by decide) hd)))
      domain := by
        rw [hfld _ (by decide)]
        refine (fld_setFld_ne _ _ _ _ _ _ (by decide)).trans ((fld_setFld_ne _ _ _ _ _ _ (by decide)).trans
          ((fld_setFld_same _ _ ZONE5.CLK_LAST_DOMAIN _ (by decide)).trans (Nat.mod_eq_of_lt (show d < 2 ^ 4 by omega))))
      count := by
        rw [hfld _ (by decide)]
        exact (fld_setFld_ne _ _ _ _ _ _ (by decide)).trans (fld_setFld_same _ _ ZONE5.CLK_LAST_COUNT _ (by decide))
      total := by
        rw [hfld _ (by decide), fld_count_same _ _ _ (by decide), fld_setFld_ne _ _ _ _ _ _ (by decide),
          fld_setFld_ne _ _ _ _ _ _ (by decide)]
        exact congrArg₂ min (congrArg Nat.succ (fld_setFld_ne s _ _ _ _ _ (by decide))) (by decide)
      stopped := by
        rw [hbit _ (by decide)]
        exact (fldBit_setFld_ne _ _ _ _ _ _ _ (by decide)).trans ((fldBit_setFld_ne _ _ _ _ _ _ _ (by decide)).trans
          ((fldBit_setFld_ne _ _ _ _ _ _ _ (by decide)).trans (fldBit_setFld_ne s _ _ _ _ _ _ (by decide))))
      outside := by
        rw [hbit _ (by decide)]
        exact (fldBit_setFld_ne _ _ _ _ _ _ _ (by decide)).trans ((fldBit_setFld_ne _ _ _ _ _ _ _ (by decide)).trans
          ((fldBit_setFld_ne _ _ _ _ _ _ _ (by decide)).trans (fldBit_setFld_ne s _ _ _ _ _ _ (by decide))))
      mem := rfl }

theorem clockReport_reports (s : Zone) {d : Nat} (count : Nat) (hd : d < 10) : s.ReportsClock d count (s.clockReport d count) := by
  rw [clockReport_eq]
  refine (s.clockWords_reports count hd).of_keeps ?_
  exact .ite KeepsClocks.refl.report.selfCheck (.ite KeepsClocks.refl.report.selfCheck KeepsClocks.refl.report)

theorem clockReport_frame (s : Zone) {d : Nat} (count : Nat) (hd : d < 10) (h2 : d ≠ 2) (h3 : d ≠ 3) :
    s.BankFrame [0] [.safety] (s.clockReport d count) := by
  have hword : keyBank (pZONE 5 + (ZONE5.CLK_DOMAIN_COUNT_COUNT.off + 4 * d)) ∈ [0] := by
    rw [keyBank_page (by decide) (by simp only; omega)]
    decide
  rw [clockReport_eq]
  rw [if_neg h2, if_neg h3]
  have hwords : s.BankFrame [0] [.safety] (s.clockWords d count) := by
    unfold clockWords
    refine BankFrame.count ?_ hword
    exact (((BankFrame.refl.setFldBit (by decide)).setFld (by decide)).setFld (by decide)).count (by decide)
  exact hwords.report (by decide)

/-! ### The end of a window -/

/-- A domain whose clock stops. -/
theorem clockWindow_stops (s : Zone) (d : Nat) (w : ClockWindow) (hw : w.stopped = true)
    (hs : s.fldBit (pZONE 5) ZONE5.CLK_STATUS_STOPPED d = false) :
    s.clockWindow d w = (((s.windowMark.setFldBit (pZONE 5) ZONE5.CLK_STATUS_STOPPED d true).setClockRuns d 0 0).clockReport d 0).when
      (d == 1) (·.timeClock true) := by
  unfold clockWindow
  simp only [hw, hs, if_true, Bool.false_eq_true, if_false]

theorem clockWindow_stays (s : Zone) (d : Nat) (w : ClockWindow) (hw : w.stopped = true)
    (hs : s.fldBit (pZONE 5) ZONE5.CLK_STATUS_STOPPED d = true) : s.clockWindow d w = s := by
  unfold clockWindow
  simp only [hw, hs, if_true]

/-- A domain whose clock runs no longer shows in STOPPED. -/
def clockResumed (s : Zone) (d : Nat) : Zone :=
  s.when (s.fldBit (pZONE 5) ZONE5.CLK_STATUS_STOPPED d) fun s =>
    (s.windowMark.setFldBit (pZONE 5) ZONE5.CLK_STATUS_STOPPED d false).when (d == 1) (·.timeClock false)

theorem clockResumed_of_running (s : Zone) (d : Nat) (h : s.fldBit (pZONE 5) ZONE5.CLK_STATUS_STOPPED d = false) :
    s.clockResumed d = s := by
  unfold clockResumed
  rw [h]
  rfl

/-- What a clock that runs again leaves. -/
structure Resumes (s : Zone) (d : Nat) (z : Zone) : Prop where
  stopped : z.fldBit (pZONE 5) ZONE5.CLK_STATUS_STOPPED d = false
  outside : z.fldBit (pZONE 5) ZONE5.CLK_STATUS_OUT_OF_WINDOW d = s.fldBit (pZONE 5) ZONE5.CLK_STATUS_OUT_OF_WINDOW d
  bad : z.safety.clockBad = s.safety.clockBad
  good : z.safety.clockGood = s.safety.clockGood
  mem : z.mem = s.mem
  frame : d ≠ 1 → s.Frame [pZONE 5 + ZONE5.CLK_STATUS_STOPPED.off] [.start] z

theorem clockResumed_resumes (s : Zone) {d : Nat} (hd : d < 10) : s.Resumes d (s.clockResumed d) := by
  unfold clockResumed
  cases h : s.fldBit (pZONE 5) ZONE5.CLK_STATUS_STOPPED d with
  | false => exact ⟨h, rfl, rfl, rfl, rfl, fun _ => .refl⟩
  | true =>
    have hshown : s.Resumes d (s.windowMark.setFldBit (pZONE 5) ZONE5.CLK_STATUS_STOPPED d false) :=
      { stopped := fldBit_setFldBit_same _ _ _ _ (by decide) hd
        outside := fldBit_setFld_ne s.windowMark _ _ _ _ _ _ (by decide)
        bad := rfl
        good := rfl
        mem := rfl
        frame := fun _ => (Frame.refl.parts rfl rfl (SameParts.start (by decide)) : s.Frame _ _ s.windowMark).setFld (by decide) }
    rw [when_true]
    by_cases h1 : d = 1
    · have hk := KeepsClocks.refl (s := s.windowMark.setFldBit (pZONE 5) ZONE5.CLK_STATUS_STOPPED d false)
      have htime := hk.timeClock (stopped := false)
      rw [show (d == 1) = true by simp [h1], when_true]
      exact
        { stopped := (htime.fldBit (by decide)).trans hshown.stopped
          outside := (htime.fldBit (by decide)).trans hshown.outside
          bad := htime.bad.trans hshown.bad
          good := htime.good.trans hshown.good
          mem := htime.mem.trans hshown.mem
          frame := fun hne => absurd h1 hne }
    · rw [show (d == 1) = false by simp [h1], when_false]
      exact hshown

/-- The window of a clock that runs, judged. -/
def clockJudged (s : Zone) (d : Nat) (w : ClockWindow) (outside : Bool) : Zone :=
  let out := s.fldBit (pZONE 5) ZONE5.CLK_STATUS_OUT_OF_WINDOW d
  if outside then
    let n := min 2 (SMap.get (fun _ => 0) s.safety.clockBad d + 1)
    let s := s.setClockRuns d n 0
    if n = 2 ∧ !out then (s.windowMark.setFldBit (pZONE 5) ZONE5.CLK_STATUS_OUT_OF_WINDOW d true).clockReport d w.count else s
  else
    let n := min 2 (SMap.get (fun _ => 0) s.safety.clockGood d + 1)
    (s.setClockRuns d 0 n).when (n == 2 && out) (·.windowMark.setFldBit (pZONE 5) ZONE5.CLK_STATUS_OUT_OF_WINDOW d false)

/-- Only the application cluster's window depends on the range that firmware sets. -/
theorem outsideWindow_range (d : Nat) (r r' : Nat × Nat) (w : ClockWindow) (h : d ≠ 6) : outsideWindow d r w = outsideWindow d r' w := by
  have hn : nominalCount d r w = nominalCount d r' w := by
    unfold nominalCount
    split
    · exact absurd rfl h
    all_goals rfl
  unfold outsideWindow
  rw [hn]

/-- A clock that runs again leaves the window of its own domain. -/
theorem Resumes.outsideWindow_eq {s z : Zone} {d : Nat} (h : s.Resumes d z) (w : ClockWindow) :
    outsideWindow d (z.appClock.getD (0, 0)) w = outsideWindow d (s.appClock.getD (0, 0)) w := by
  by_cases h6 : d = 6
  · have hf := h.frame (by omega)
    have happ : z.appClock = s.appClock := by
      unfold appClock figures profile
      rw [hf.flag (by decide), hf.flag (by decide), hf.flag (by decide), hf.fld (by decide), hf.mode (by decide)]
    rw [happ]
  · exact outsideWindow_range _ _ _ _ h6

theorem clockWindow_runs (s : Zone) {d : Nat} (w : ClockWindow) (hd : d < 10) (hw : w.stopped = false) :
    s.clockWindow d w = (s.clockResumed d).clockJudged d w (outsideWindow d (s.appClock.getD (0, 0)) w) := by
  rw [← (s.clockResumed_resumes hd).outsideWindow_eq w]
  unfold clockWindow
  rw [hw]
  rfl

end Zone

/-! ### The commands -/

/-- The module once the event of a key has come now. -/
def Zone.comeNow (z : Zone) (key : Nat) : Zone := { z with pace := SMap.set (fun _ => 0) z.pace key (z.mono + 1) }

theorem Zone.comeNow_frame (z : Zone) (key : Nat) : z.Frame [] [.pace] (z.comeNow key) :=
  Frame.refl.parts rfl rfl (SameParts.pace (by decide))

section Windows

variable {s : State} {d : Fin 10} {w : ClockWindow}

/-- The window of a clock that is to run is judged when it is due. -/
theorem completes_clockMonitorWindow (hl : s.zone.logicRuns = true) (h5 : d.val ≠ 5) (hc : s.zone.clockRuns d.val = true)
    (hp : s.zone.paceDue (Pace.clock d.val) 248 = true) :
    Completes (.clockMonitorWindow d w) s (· = (s.zone.comeNow (Pace.clock d.val)).clockWindow d.val w) := by
  refine ⟨_, ?_, rfl⟩
  change execClockMonitorWindow d w s = _
  unfold execClockMonitorWindow
  rw [State.runOn_runs _ _ hl, if_neg (by simp [h5, hc]), Zone.paced_due _ _ _ _ hp]
  rfl

end Windows

namespace Zone

theorem Frame.windowMark {s z : Zone} {words ps} (h : s.Frame words ps z) (hp : .start ∈ ps) : s.Frame words ps z.windowMark :=
  h.parts rfl rfl (SameParts.start hp)

theorem Frame.setClockRuns {s z : Zone} {words ps d bad good} (h : s.Frame words ps z) (hp : .safety ∈ ps) :
    s.Frame words ps (z.setClockRuns d bad good) := h.parts rfl rfl (SameParts.safety hp)

section Judged

variable {s : Zone} {d : Nat} {w : ClockWindow}

/-- A clock that stops is shown, reported and counted. -/
theorem clockWindow_stops_reports (hd : d < 10) (hw : w.stopped = true) (hs : s.fldBit (pZONE 5) ZONE5.CLK_STATUS_STOPPED d = false) :
    ∃ y, s.Frame [pZONE 5 + ZONE5.CLK_STATUS_STOPPED.off] [.start, .safety] y ∧
      y.fldBit (pZONE 5) ZONE5.CLK_STATUS_STOPPED d = true ∧ y.ReportsClock d 0 (s.clockWindow d w) ∧
      (d ≠ 1 → s.clockWindow d w = y.clockReport d 0) := by
  have hframe : s.Frame [pZONE 5 + ZONE5.CLK_STATUS_STOPPED.off] [.start, .safety]
      ((s.windowMark.setFldBit (pZONE 5) ZONE5.CLK_STATUS_STOPPED d true).setClockRuns d 0 0) :=
    ((Frame.refl.windowMark (by decide)).setFldBit (by decide)).setClockRuns (by decide)
  have hset : ((s.windowMark.setFldBit (pZONE 5) ZONE5.CLK_STATUS_STOPPED d true).setClockRuns d 0 0).fldBit (pZONE 5)
      ZONE5.CLK_STATUS_STOPPED d = true := fldBit_setFldBit_same s.windowMark _ _ _ (by decide) hd
  rw [clockWindow_stops s d w hw hs]
  generalize (s.windowMark.setFldBit (pZONE 5) ZONE5.CLK_STATUS_STOPPED d true).setClockRuns d 0 0 = y at hframe hset
  refine ⟨y, hframe, hset, ?_, fun h1 => ?_⟩
  · cases d == 1 with
    | false =>
      rw [when_false]
      exact y.clockReport_reports 0 hd
    | true =>
      rw [when_true]
      exact (y.clockReport_reports 0 hd).of_keeps KeepsClocks.refl.timeClock
  · rw [show (d == 1) = false by simp [h1], when_false]

/-- The second bad window in a row is shown, reported and counted. -/
theorem clockJudged_out (hb : SMap.get (fun _ => 0) s.safety.clockBad d = 1) (hd : d < 10)
    (ho : s.fldBit (pZONE 5) ZONE5.CLK_STATUS_OUT_OF_WINDOW d = false) :
    ∃ y, s.Frame [pZONE 5 + ZONE5.CLK_STATUS_STOPPED.off] [.start, .safety] y ∧
      y.fldBit (pZONE 5) ZONE5.CLK_STATUS_OUT_OF_WINDOW d = true ∧
      y.fldBit (pZONE 5) ZONE5.CLK_STATUS_STOPPED d = s.fldBit (pZONE 5) ZONE5.CLK_STATUS_STOPPED d ∧
      s.clockJudged d w true = y.clockReport d w.count := by
  refine ⟨(s.setClockRuns d 2 0).windowMark.setFldBit (pZONE 5) ZONE5.CLK_STATUS_OUT_OF_WINDOW d true,
    ((Frame.refl.setClockRuns (by decide)).windowMark (by decide)).setFldBit (by decide),
    fldBit_setFldBit_same _ _ _ _ (by decide) hd, fldBit_setFld_ne (s.setClockRuns d 2 0).windowMark _ _ _ _ _ _ (by decide), ?_⟩
  unfold clockJudged
  rw [hb, ho]
  rfl

/-- A first bad window is counted. -/
theorem clockJudged_bad (hb : SMap.get (fun _ => 0) s.safety.clockBad d = 0) : s.clockJudged d w true = s.setClockRuns d 1 0 := by
  unfold clockJudged
  rw [hb]
  rfl

/-- A good window is counted. -/
theorem clockJudged_good (ho : s.fldBit (pZONE 5) ZONE5.CLK_STATUS_OUT_OF_WINDOW d = false) :
    s.clockJudged d w false = s.setClockRuns d 0 (min 2 (SMap.get (fun _ => 0) s.safety.clockGood d + 1)) := by
  unfold clockJudged
  simp only [ho, Bool.false_eq_true, if_false, Bool.and_false, when_false]

/-- The second good window in a row takes the domain out of OUT_OF_WINDOW. -/
theorem clockJudged_back (hg : SMap.get (fun _ => 0) s.safety.clockGood d = 1)
    (ho : s.fldBit (pZONE 5) ZONE5.CLK_STATUS_OUT_OF_WINDOW d = true) :
    s.clockJudged d w false = (s.setClockRuns d 0 2).windowMark.setFldBit (pZONE 5) ZONE5.CLK_STATUS_OUT_OF_WINDOW d false := by
  unfold clockJudged
  rw [hg, ho]
  rfl

theorem setClockRuns_frame (s : Zone) (d bad good : Nat) : s.Frame [] [.safety, .pace] (s.setClockRuns d bad good) :=
  Frame.refl.setClockRuns (by decide)

theorem clockBad_setClockRuns (s : Zone) (d bad good : Nat) :
    SMap.get (fun _ => 0) (s.setClockRuns d bad good).safety.clockBad d = bad := SMap.get_set_same _ _ _ _

theorem clockGood_setClockRuns (s : Zone) (d bad good : Nat) :
    SMap.get (fun _ => 0) (s.setClockRuns d bad good).safety.clockGood d = good := SMap.get_set_same _ _ _ _

end Judged

end Zone

section Ends

variable {s : State} {d : Fin 10} {w : ClockWindow}

theorem completes_clockStops (hl : s.zone.logicRuns = true) (h5 : d.val ≠ 5) (hc : s.zone.clockRuns d.val = true)
    (hp : s.zone.paceDue (Pace.clock d.val) 248 = true) (hw : w.stopped = true)
    (hs : s.zone.fldBit (pZONE 5) ZONE5.CLK_STATUS_STOPPED d.val = false) : Completes (.clockMonitorWindow d w) s fun z =>
      z.fldBit (pZONE 5) ZONE5.CLK_STATUS_STOPPED d.val = true ∧ z.fldBit (pZONE 5) ZONE5.CLK_EVENT_FAULT d.val = true ∧
      z.fld (pZONE 5) ZONE5.CLK_LAST_DOMAIN = d.val ∧ z.fld (pZONE 5) ZONE5.CLK_LAST_COUNT = 0 ∧
      z.fld (pZONE 5) ZONE5.CLK_COUNTS_TOTAL = min (s.zone.fld (pZONE 5) ZONE5.CLK_COUNTS_TOTAL + 1) 0xFFFFFFFF ∧
      (d.val = 1 ∨ d.val = 2 ∨ d.val = 3 ∨ s.zone.BankFrame [0] [.start, .safety, .pace] z) ∧ z.SameMemory s.zone := by
  refine (completes_clockMonitorWindow hl h5 hc hp).imp fun z hz => ?_
  have hcome := s.zone.comeNow_frame (Pace.clock d.val)
  obtain ⟨y, hy, hstopped, hrep, hrest⟩ := Zone.clockWindow_stops_reports (s := s.zone.comeNow (Pace.clock d.val)) d.isLt hw hs
  have hframe : s.zone.Frame [pZONE 5 + ZONE5.CLK_STATUS_STOPPED.off] [.start, .safety, .pace] y :=
    (hcome.mono (by decide) (by decide)).trans (hy.mono (by decide) (by decide))
  rw [← hz] at hrep hrest
  obtain ⟨hfault, hdomain, hcount, htotal, hkept, -, hmem⟩ := hrep
  refine ⟨hkept.trans hstopped, hfault, hdomain, hcount, htotal.trans (by rw [hframe.fld (by decide)]), ?_, ?_⟩
  · by_cases h1 : d.val = 1
    · exact .inl h1
    by_cases h2 : d.val = 2
    · exact .inr (.inl h2)
    by_cases h3 : d.val = 3
    · exact .inr (.inr (.inl h3))
    have hreport := Zone.clockReport_frame y 0 d.isLt h2 h3
    rw [← hrest h1] at hreport
    exact .inr (.inr (.inr ((hframe.banks (by decide) (by decide)).trans (hreport.mono (by decide) (by decide)))))
  · exact fun a => (hframe.memory a).trans (Zone.sameMemory_of_mem hmem a)

theorem completes_clockStays (hl : s.zone.logicRuns = true) (h5 : d.val ≠ 5) (hc : s.zone.clockRuns d.val = true)
    (hp : s.zone.paceDue (Pace.clock d.val) 248 = true) (hw : w.stopped = true)
    (hs : s.zone.fldBit (pZONE 5) ZONE5.CLK_STATUS_STOPPED d.val = true) :
    Completes (.clockMonitorWindow d w) s fun z => s.zone.Frame [] [.pace] z := by
  refine (completes_clockMonitorWindow hl h5 hc hp).imp fun z hz => ?_
  rw [(s.zone.comeNow (Pace.clock d.val)).clockWindow_stays d.val w hw hs] at hz
  exact hz ▸ s.zone.comeNow_frame _

/-- A due window of a clock that runs, judged. -/
theorem completes_clockJudged (hl : s.zone.logicRuns = true) (h5 : d.val ≠ 5) (hc : s.zone.clockRuns d.val = true)
    (hp : s.zone.paceDue (Pace.clock d.val) 248 = true) (hw : w.stopped = false) {out : Bool}
    (ho : outsideWindow d.val (s.zone.appClock.getD (0, 0)) w = out) : Completes (.clockMonitorWindow d w) s fun z =>
      ∃ y, (s.zone.comeNow (Pace.clock d.val)).Resumes d.val y ∧ z = y.clockJudged d.val w out ∧
        (s.zone.fldBit (pZONE 5) ZONE5.CLK_STATUS_STOPPED d.val = false → y = s.zone.comeNow (Pace.clock d.val)) := by
  refine (completes_clockMonitorWindow hl h5 hc hp).imp fun z hz => ?_
  have happ : (s.zone.comeNow (Pace.clock d.val)).appClock = s.zone.appClock := rfl
  rw [Zone.clockWindow_runs _ _ d.isLt hw, happ, ho] at hz
  exact ⟨_, Zone.clockResumed_resumes _ d.isLt, hz, fun h => Zone.clockResumed_of_running _ _ h⟩

theorem completes_clockOut (hl : s.zone.logicRuns = true) (h5 : d.val ≠ 5) (hc : s.zone.clockRuns d.val = true)
    (hp : s.zone.paceDue (Pace.clock d.val) 248 = true) (hw : w.stopped = false)
    (ho : outsideWindow d.val (s.zone.appClock.getD (0, 0)) w = true) (hb : SMap.get (fun _ => 0) s.zone.safety.clockBad d.val = 1)
    (hs : s.zone.fldBit (pZONE 5) ZONE5.CLK_STATUS_OUT_OF_WINDOW d.val = false) : Completes (.clockMonitorWindow d w) s fun z =>
      z.fldBit (pZONE 5) ZONE5.CLK_STATUS_OUT_OF_WINDOW d.val = true ∧
      z.fldBit (pZONE 5) ZONE5.CLK_STATUS_STOPPED d.val = false ∧ z.fldBit (pZONE 5) ZONE5.CLK_EVENT_FAULT d.val = true ∧
      z.fld (pZONE 5) ZONE5.CLK_LAST_DOMAIN = d.val ∧ z.fld (pZONE 5) ZONE5.CLK_LAST_COUNT = w.count % 65536 ∧
      (d.val = 1 ∨ d.val = 2 ∨ d.val = 3 ∨ s.zone.BankFrame [0] [.start, .safety, .pace] z) ∧ z.SameMemory s.zone := by
  refine (completes_clockJudged hl h5 hc hp hw ho).imp fun z hz => ?_
  obtain ⟨x, ⟨hstopped, houtside, hbad, -, hmem, hresumed⟩, hx, -⟩ := hz
  have hcome := s.zone.comeNow_frame (Pace.clock d.val)
  obtain ⟨y, hy, hout, hkept, heq⟩ := Zone.clockJudged_out (w := w) (by rw [hbad]; exact hb) d.isLt (houtside.trans hs)
  have hrep := y.clockReport_reports w.count d.isLt
  rw [← heq, ← hx] at hrep
  obtain ⟨hfault, hdomain, hcount, -, hstays, hstaysOut, hmem'⟩ := hrep
  refine ⟨hstaysOut.trans hout, hstays.trans (hkept.trans hstopped), hfault, hdomain, hcount, ?_, ?_⟩
  · by_cases h1 : d.val = 1
    · exact .inl h1
    by_cases h2 : d.val = 2
    · exact .inr (.inl h2)
    by_cases h3 : d.val = 3
    · exact .inr (.inr (.inl h3))
    have hreport := Zone.clockReport_frame y w.count d.isLt h2 h3
    rw [← heq, ← hx] at hreport
    have hframe : s.zone.Frame [pZONE 5 + ZONE5.CLK_STATUS_STOPPED.off] [.start, .safety, .pace] y :=
      ((hcome.mono (by decide) (by decide)).trans ((hresumed h1).mono (by decide) (by decide))).trans (hy.mono (by decide) (by decide))
    exact .inr (.inr (.inr ((hframe.banks (by decide) (by decide)).trans (hreport.mono (by decide) (by decide)))))
  · exact fun a => (hcome.memory a).trans ((Zone.sameMemory_of_mem hmem a).trans ((hy.memory a).trans
      (Zone.sameMemory_of_mem hmem' a)))

theorem completes_clockBad (hl : s.zone.logicRuns = true) (h5 : d.val ≠ 5) (hc : s.zone.clockRuns d.val = true)
    (hp : s.zone.paceDue (Pace.clock d.val) 248 = true) (hw : w.stopped = false)
    (ho : outsideWindow d.val (s.zone.appClock.getD (0, 0)) w = true) (hb : SMap.get (fun _ => 0) s.zone.safety.clockBad d.val = 0)
    (hs : s.zone.fldBit (pZONE 5) ZONE5.CLK_STATUS_STOPPED d.val = false) : Completes (.clockMonitorWindow d w) s fun z =>
      SMap.get (fun _ => 0) z.safety.clockBad d.val = 1 ∧ SMap.get (fun _ => 0) z.safety.clockGood d.val = 0 ∧
      s.zone.Frame [] [.safety, .pace] z := by
  refine (completes_clockJudged hl h5 hc hp hw ho).imp fun z hz => ?_
  obtain ⟨y, -, hx, hy⟩ := hz
  have hy := hy hs
  rw [Zone.clockJudged_bad (by rw [hy]; exact hb)] at hx
  subst hx hy
  exact ⟨Zone.clockBad_setClockRuns _ _ _ _, Zone.clockGood_setClockRuns _ _ _ _,
    ((s.zone.comeNow_frame _).mono (by decide) (by decide)).trans (Zone.setClockRuns_frame _ _ _ _)⟩

theorem completes_clockBack (hl : s.zone.logicRuns = true) (h5 : d.val ≠ 5) (hc : s.zone.clockRuns d.val = true)
    (hp : s.zone.paceDue (Pace.clock d.val) 248 = true) (hw : w.stopped = false)
    (ho : outsideWindow d.val (s.zone.appClock.getD (0, 0)) w = false) (hg : SMap.get (fun _ => 0) s.zone.safety.clockGood d.val = 1)
    (hs : s.zone.fldBit (pZONE 5) ZONE5.CLK_STATUS_OUT_OF_WINDOW d.val = true) : Completes (.clockMonitorWindow d w) s fun z =>
      z.fldBit (pZONE 5) ZONE5.CLK_STATUS_OUT_OF_WINDOW d.val = false ∧
      z.fldBit (pZONE 5) ZONE5.CLK_STATUS_STOPPED d.val = false ∧ SMap.get (fun _ => 0) z.safety.clockBad d.val = 0 ∧
      z.SameMemory s.zone := by
  refine (completes_clockJudged hl h5 hc hp hw ho).imp fun z hz => ?_
  obtain ⟨y, ⟨hstopped, houtside, -, hgood, hmem, -⟩, hx, -⟩ := hz
  rw [Zone.clockJudged_back (by rw [hgood]; exact hg) (houtside.trans hs)] at hx
  subst hx
  exact ⟨Zone.fldBit_setFldBit_same _ _ _ _ (by decide) d.isLt,
    (Zone.fldBit_setFld_ne (y.setClockRuns d.val 0 2).windowMark _ _ _ _ _ _ (by decide)).trans hstopped,
    Zone.clockBad_setClockRuns y _ _ _, Zone.sameMemory_of_mem hmem⟩

theorem completes_clockGood (hl : s.zone.logicRuns = true) (h5 : d.val ≠ 5) (hc : s.zone.clockRuns d.val = true)
    (hp : s.zone.paceDue (Pace.clock d.val) 248 = true) (hw : w.stopped = false)
    (ho : outsideWindow d.val (s.zone.appClock.getD (0, 0)) w = false)
    (hs : s.zone.fldBit (pZONE 5) ZONE5.CLK_STATUS_STOPPED d.val = false)
    (hout : s.zone.fldBit (pZONE 5) ZONE5.CLK_STATUS_OUT_OF_WINDOW d.val = false) : Completes (.clockMonitorWindow d w) s fun z =>
      SMap.get (fun _ => 0) z.safety.clockBad d.val = 0 ∧
      SMap.get (fun _ => 0) z.safety.clockGood d.val = min 2 (SMap.get (fun _ => 0) s.zone.safety.clockGood d.val + 1) ∧
      s.zone.Frame [] [.safety, .pace] z := by
  refine (completes_clockJudged hl h5 hc hp hw ho).imp fun z hz => ?_
  obtain ⟨y, ⟨-, houtside, -, -, -, -⟩, hx, hy⟩ := hz
  rw [Zone.clockJudged_good (houtside.trans hout)] at hx
  subst hx
  rw [hy hs]
  exact ⟨Zone.clockBad_setClockRuns _ _ _ _, Zone.clockGood_setClockRuns _ _ _ _,
    ((s.zone.comeNow_frame _).mono (by decide) (by decide)).trans (Zone.setClockRuns_frame _ _ _ _)⟩

end Ends

end Sys2Proof.Machine
end

