-- ==== Sys2Proof/Proofs/DualClockQueues.lean ====
section
/-! SUPPORT. The dual-clock queues (R32 to R37), with O4. -/

namespace Sys2Proof.Machine

open Reg

set_option Elab.async false

namespace Zone

theorem dcq_setDcq (s : Zone) (q : Nat) (x : DcqSt) : (s.setDcq q x).dcq q = x := SMap.get_set_same _ _ _ _

theorem setDcq_frame (s : Zone) (q : Nat) (x : DcqSt) : s.Frame [] [.dcqs] (s.setDcq q x) :=
  Frame.refl.parts rfl rfl (SameParts.dcqs (by decide))

end Zone

section Queues

variable {s : State} {q : BitVec 16}

/-- What the writing side leaves of a queue whose words fit. -/
def DcqSt.written (x : DcqSt) (depth : Nat) (l : List Word) (complete : Bool) : DcqSt :=
  let y := { x with wptr := (x.wptr + l.length) % (2 * depth) }
  if complete ∧ x.beyond ++ l ≠ [] then { y with packets := x.packets ++ [x.beyond ++ l], beyond := [] }
  else { y with beyond := x.beyond ++ l }

theorem completes_dcqWrite (l : List Word) (e : Bool) (hl : s.zone.logicRuns = true)
    (hu : (s.zone.dcq q.toNat).used (dcqDepth q.toNat) + l.length ≤ dcqDepth q.toNat)
    (hp : ((s.zone.dcq q.toNat).beyond ++ l).length ≤ dcqDepth q.toNat / 2) : Completes (.dcqPacketWrite q l e) s fun z =>
      z.dcq q.toNat = (s.zone.dcq q.toNat).written (dcqDepth q.toNat) l e ∧ s.zone.Frame [] [.dcqs] z := by
  refine ⟨s.zone.setDcq q.toNat ((s.zone.dcq q.toNat).written (dcqDepth q.toNat) l e), ?_, Zone.dcq_setDcq _ _ _, Zone.setDcq_frame _ _ _⟩
  change execDcqPacketWrite q l e s = _
  unfold execDcqPacketWrite
  rw [State.runOn_runs _ _ hl]
  dsimp only
  rw [if_neg (by omega)]
  rfl

theorem completes_dcqHeld (l : List Word) (e : Bool) (hl : s.zone.logicRuns = true)
    (h : dcqDepth q.toNat < (s.zone.dcq q.toNat).used (dcqDepth q.toNat) + l.length ∨
      dcqDepth q.toNat / 2 < ((s.zone.dcq q.toNat).beyond ++ l).length) :
    Completes (.dcqPacketWrite q l e) s fun z => s.zone.Frame [] [] z := by
  refine ⟨s.zone, ?_, .refl⟩
  change execDcqPacketWrite q l e s = _
  unfold execDcqPacketWrite
  rw [State.runOn_runs _ _ hl]
  dsimp only
  rw [if_pos h]

theorem DcqSt.written_shows (x : DcqSt) (depth : Nat) (l : List Word) (e : Bool) :
    (x.written depth l e).packets = x.packets ++ (if e = true ∧ x.beyond ++ l ≠ [] then [x.beyond ++ l] else []) ∧
    (x.written depth l e).beyond = (if e = true then [] else x.beyond ++ l) ∧
    (x.written depth l e).wptr = (x.wptr + l.length) % (2 * depth) ∧ (x.written depth l e).rptr = x.rptr := by
  unfold DcqSt.written
  split
  case isTrue h => simp [h]
  case isFalse h =>
    refine ⟨by simp, ?_, rfl, rfl⟩
    by_cases he : e = true
    · have : x.beyond ++ l = [] := not_not.mp fun hne => h ⟨he, hne⟩
      rw [if_pos he]
      exact this
    · rw [if_neg he]

/-- What the reading side leaves of a queue whose first packet is `p`. -/
def DcqSt.taken (x : DcqSt) (depth : Nat) (p : List Word) (r : List (List Word)) (fixed : Bool) : DcqSt :=
  { x with packets := if (p.drop 1).isEmpty then r else p.drop 1 :: r, rptr := (x.rptr + 1) % (2 * depth),
           ce := if fixed then satU 16 (x.ce + 1) else x.ce }

theorem completes_dcqRead (e : EccResult) (p : List Word) (r : List (List Word)) (hl : s.zone.logicRuns = true)
    (hp : (s.zone.dcq q.toNat).packets = p :: r) (he : e ≠ .double) : Completes (.dcqWordRead q e) s
      (· = (s.zone.setDcq q.toNat ((s.zone.dcq q.toNat).taken (dcqDepth q.toNat) p r (e == .corrected))).when (e == .corrected)
        (·.count (pZONE 5) ZONE5.DCQ_CE_TOTAL_COUNT)) := by
  refine ⟨_, ?_, rfl⟩
  change execDcqWordRead q e s = _
  unfold execDcqWordRead
  rw [State.runOn_runs _ _ hl]
  dsimp only
  rw [hp]
  cases e with
  | double => exact absurd rfl he
  | clean => rfl
  | corrected => rfl

/-- What the reading side leaves of a queue whose first packet is discarded. -/
def DcqSt.dropped (x : DcqSt) (depth : Nat) (p : List Word) (r : List (List Word)) : DcqSt :=
  { x with packets := r, rptr := (x.rptr + p.length) % (2 * depth), ue := satU 16 (x.ue + 1) }

theorem completes_dcqDouble (p : List Word) (r : List (List Word)) (hl : s.zone.logicRuns = true)
    (hp : (s.zone.dcq q.toNat).packets = p :: r) : Completes (.dcqWordRead q .double) s
      (· = (((s.zone.setDcq q.toNat ((s.zone.dcq q.toNat).dropped (dcqDepth q.toNat) p r)).count (pZONE 5)
        ZONE5.DCQ_UE_TOTAL_COUNT).setFld (pZONE 5) ZONE5.DCQ_UE_LAST_QUEUE_ID q.toNat).report Src.eccOther 0) := by
  refine ⟨_, ?_, rfl⟩
  change execDcqWordRead q .double s = _
  unfold execDcqWordRead
  rw [State.runOn_runs _ _ hl]
  dsimp only
  rw [hp]
  rfl

theorem completes_dcqClockStop : Completes (.dcqClockStop q) s (· = s.zone.setDcq q.toNat { s.zone.dcq q.toNat with
    wptr := ((s.zone.dcq q.toNat).wptr + 2 * dcqDepth q.toNat - (s.zone.dcq q.toNat).beyond.length) % (2 * dcqDepth q.toNat)
    beyond := [] }) := ⟨_, rfl, rfl⟩

/-- A saturating counter of 32 bits that is raised. -/
theorem Zone.fld_count_word (z : Zone) (p : Nat) (f : Fld) (hlo : f.lo = 0) (hw : f.w = 32) :
    (z.count p f).fld p f = min (z.fld p f + 1) 0xFFFFFFFF := by
  rw [Zone.fld_count_same z p f (by omega), hw]
  exact congrArg₂ min rfl (by decide)

/-- A word that is read is taken, and an error that is corrected is counted. -/
theorem dcqRead_shows (z : Zone) (n : Nat) (x : DcqSt) (fixed : Bool) :
    let y := (z.setDcq n x).when fixed (·.count (pZONE 5) ZONE5.DCQ_CE_TOTAL_COUNT)
    y.dcq n = x ∧ y.fld (pZONE 5) ZONE5.DCQ_CE_TOTAL_COUNT =
      (if fixed then min (z.fld (pZONE 5) ZONE5.DCQ_CE_TOTAL_COUNT + 1) 0xFFFFFFFF else z.fld (pZONE 5) ZONE5.DCQ_CE_TOTAL_COUNT) ∧
      z.Frame [pZONE 5 + ZONE5.DCQ_CE_TOTAL_COUNT.off] [.dcqs] y := by
  have hframe : z.Frame [pZONE 5 + ZONE5.DCQ_CE_TOTAL_COUNT.off] [.dcqs] (z.setDcq n x) := (z.setDcq_frame n x).mono (by decide) (by decide)
  cases fixed with
  | false => exact ⟨z.dcq_setDcq n x, rfl, hframe⟩
  | true => exact ⟨z.dcq_setDcq n x, (z.setDcq n x).fld_count_word _ _ rfl rfl, hframe.count (by decide)⟩

/-- A report of a module whose safety monitor and time are those of `z`. -/
theorem reports_report {y z : Zone} (source : Nat) (detail : Word) (hs : y.safety = z.safety) (hm : y.mono = z.mono)
    (ht : y.time = z.time) : z.Reports (y.report source detail) source detail := by
  have h64 : y.ts64 = z.ts64 := by
    unfold Zone.ts64 Zone.nowNs
    rw [ht]
  unfold Zone.Reports Zone.report
  rw [hs, hm, h64]

/-- A packet that is discarded is counted with its queue and reported. -/
theorem dcqDouble_shows (z : Zone) (n : Nat) (x : DcqSt) (hn : n < 2 ^ 16) :
    let y := (((z.setDcq n x).count (pZONE 5) ZONE5.DCQ_UE_TOTAL_COUNT).setFld (pZONE 5) ZONE5.DCQ_UE_LAST_QUEUE_ID n).report Src.eccOther 0
    y.dcq n = x ∧ y.fld (pZONE 5) ZONE5.DCQ_UE_TOTAL_COUNT = min (z.fld (pZONE 5) ZONE5.DCQ_UE_TOTAL_COUNT + 1) 0xFFFFFFFF ∧
      y.fld (pZONE 5) ZONE5.DCQ_UE_LAST_QUEUE_ID = n ∧ z.Reports y Src.eccOther 0 ∧
      z.Frame [pZONE 5 + ZONE5.DCQ_UE_TOTAL_COUNT.off, pZONE 5 + ZONE5.DCQ_UE_LAST_QUEUE_ID.off] [.dcqs, .safety] y := by
  have hframe : z.Frame [pZONE 5 + ZONE5.DCQ_UE_TOTAL_COUNT.off, pZONE 5 + ZONE5.DCQ_UE_LAST_QUEUE_ID.off] [.dcqs, .safety] (z.setDcq n x) :=
    (z.setDcq_frame n x).mono (by decide) (by decide)
  have htotal := (z.setDcq n x).fld_count_word (pZONE 5) ZONE5.DCQ_UE_TOTAL_COUNT rfl rfl
  have hlast := Zone.fld_setFld_same ((z.setDcq n x).count (pZONE 5) ZONE5.DCQ_UE_TOTAL_COUNT) (pZONE 5) ZONE5.DCQ_UE_LAST_QUEUE_ID n (by decide)
  have hkept := Zone.fld_setFld_ne ((z.setDcq n x).count (pZONE 5) ZONE5.DCQ_UE_TOTAL_COUNT) (pZONE 5) (pZONE 5)
    ZONE5.DCQ_UE_LAST_QUEUE_ID ZONE5.DCQ_UE_TOTAL_COUNT n (by decide)
  have hreport (y : Zone) (f : Fld) : (y.report Src.eccOther 0).fld (pZONE 5) f = y.fld (pZONE 5) f := rfl
  refine ⟨z.dcq_setDcq n x, (hreport _ _).trans (hkept.trans htotal), (hreport _ _).trans (hlast.trans (Nat.mod_eq_of_lt hn)),
    reports_report _ _ ?_ ?_ ?_, ((hframe.count (by decide)).setFld (by decide)).report (by decide)⟩
  · rw [Zone.setFld_safety, Zone.count_safety]
    rfl
  · rw [Zone.setFld_mono, Zone.count_mono]
    rfl
  · rw [Zone.setFld_time, Zone.count_time]
    rfl

end Queues

/-- Settles O4: the windows by `completes_clockJudged` and its like, the queues by what `DcqSt.written` and `DcqSt.taken` show. -/
theorem clockMonitorsAndDualClockQueues : Obligations.ClockMonitorsAndDualClockQueues := by
  unfold Obligations.ClockMonitorsAndDualClockQueues
  refine ⟨?_, ?_, ?_, ?_, ?_, ?_, ?_, ?_, ?_, ?_, ?_⟩
  · exact fun s d w hl h5 hc hp hw hs => completes_clockStops hl h5 hc hp hw hs
  · exact fun s d w hl h5 hc hp hw hs => completes_clockStays hl h5 hc hp hw hs
  · exact fun s d w hl h5 hc hp hw ho hb hs => completes_clockOut hl h5 hc hp hw ho hb hs
  · exact fun s d w hl h5 hc hp hw ho hb hs => completes_clockBad hl h5 hc hp hw ho hb hs
  · exact fun s d w hl h5 hc hp hw ho hg hs => completes_clockBack hl h5 hc hp hw ho hg hs
  · exact fun s d w hl h5 hc hp hw ho hs hout => completes_clockGood hl h5 hc hp hw ho hs hout
  · exact fun s q l e hl hu hp => (completes_dcqWrite l e hl hu hp).imp fun z ⟨hz, hframe⟩ => by
      obtain ⟨hpackets, hbeyond, hwptr, hrptr⟩ := (s.zone.dcq q.toNat).written_shows (dcqDepth q.toNat) l e
      rw [hz]
      exact ⟨hpackets, hbeyond, hwptr, hrptr, hframe⟩
  · exact fun s q l e hl h => completes_dcqHeld l e hl h
  · exact fun s q e p r hl hp he => (completes_dcqRead e p r hl hp he).imp fun z hz => by
      obtain ⟨hq, htotal, hframe⟩ :=
        dcqRead_shows s.zone q.toNat ((s.zone.dcq q.toNat).taken (dcqDepth q.toNat) p r (e == .corrected)) (e == .corrected)
      rw [← hz] at hq htotal hframe
      rw [hq]
      simp only [beq_iff_eq] at htotal
      exact ⟨rfl, rfl, by simp only [DcqSt.taken, beq_iff_eq]; rfl, htotal, hframe⟩
  · exact fun s q p r hl hp => (completes_dcqDouble p r hl hp).imp fun z hz => by
      obtain ⟨hq, htotal, hlast, hreports, hframe⟩ :=
        dcqDouble_shows s.zone q.toNat ((s.zone.dcq q.toNat).dropped (dcqDepth q.toNat) p r) q.isLt
      rw [← hz] at hq htotal hlast hreports hframe
      rw [hq]
      exact ⟨rfl, rfl, htotal, hlast, hreports, hframe⟩
  · exact fun s q => completes_dcqClockStop.imp fun z hz => by
      subst hz
      have hq := s.zone.dcq_setDcq q.toNat { s.zone.dcq q.toNat with
        wptr := ((s.zone.dcq q.toNat).wptr + 2 * dcqDepth q.toNat - (s.zone.dcq q.toNat).beyond.length) % (2 * dcqDepth q.toNat)
        beyond := [] }
      rw [hq]
      exact ⟨rfl, rfl, rfl, Zone.setDcq_frame _ _ _⟩

end Sys2Proof.Machine
end

