-- ==== Sys2Proof/Proofs/StateKeptParts.lean ====
section
/-! SUPPORT. The module state and its entry cause through every operation of the model that is no transition, in the order of the
model's files: one lemma per operation, each following the branches of its definition. It is the walk of CanonicalParts for another
predicate: here each register word that is written must not be that of STATE. -/

namespace Sys2Proof.Machine

open Reg

-- One theorem after the other: the stacks of parallel ones together pass the memory limit of the check.
set_option Elab.async false

/-- `s` shows the module state and the entry cause of `s₀`. -/
structure Zone.KeepsState (s₀ s : Zone) : Prop where
  current : s.fld (pZONE 0) ZONE0.STATE_CURRENT = s₀.fld (pZONE 0) ZONE0.STATE_CURRENT
  cause : s.fld (pZONE 0) ZONE0.STATE_ENTRY_CAUSE = s₀.fld (pZONE 0) ZONE0.STATE_ENTRY_CAUSE

namespace Zone.KeepsState

variable {s₀ s t : Zone}

theorem refl : s.KeepsState s := ⟨rfl, rfl⟩

theorem mode (h : s₀.KeepsState s) : s.mode = s₀.mode := congrArg Mode.ofCode h.current

/-! ### Shapes of a meaning -/

/-- An update of any parts beside the registers. -/
theorem parts
    {mono freeNext time safety records supv tickets ticketSerial keeperSlots gens loads sagsA sagsB supply inputs cals
    bal tsq switch rings cans lins sers busMem pauses reqQs evtQs stages keeperA keeperB watch resp imsic localIrq tu
    grant txBuffers swdt gateTo hinges cores harts log keyring fuses start sleep dcqs pace mem}
    (h : s₀.KeepsState s) :
    s₀.KeepsState (Zone.mk
      mono freeNext s.regs time safety records supv tickets ticketSerial keeperSlots gens loads sagsA sagsB supply
      inputs cals bal tsq switch rings cans lins sers busMem pauses reqQs evtQs stages keeperA keeperB watch resp imsic
      localIrq tu grant txBuffers swdt gateTo hinges cores harts log keyring fuses start sleep dcqs pace mem) :=
  ⟨h.current, h.cause⟩

theorem ite {c : Prop} [Decidable c] (hs : s₀.KeepsState s) (ht : s₀.KeepsState t) : s₀.KeepsState (if c then s else t) := by
  split <;> assumption

theorem pair {α : Type} {a : α} (h : s₀.KeepsState s) : s₀.KeepsState (a, s).2 := h

theorem triple {α β : Type} {a : α} {b : β} (h : s₀.KeepsState s) : s₀.KeepsState (a, b, s).2.2 := h

theorem iteSnd {α : Type} {c : Prop} [Decidable c] {a b : α} (hs : s₀.KeepsState s) (ht : s₀.KeepsState t) :
    s₀.KeepsState (if c then (a, s) else (b, t)).2 := by
  split <;> assumption

theorem iteSndSnd {α β : Type} {c : Prop} [Decidable c] {a a' : α} {b b' : β}
    (hs : s₀.KeepsState s) (ht : s₀.KeepsState t) :
    s₀.KeepsState (if c then (a, b, s) else (a', b', t)).2.2 := by
  split <;> assumption

theorem when {b : Bool} {f : Zone → Zone} (h : s₀.KeepsState s) (hf : ∀ z, s₀.KeepsState z → s₀.KeepsState (f z)) :
    s₀.KeepsState (s.when b f) :=
  .ite (hf s h) h

theorem forEach {α : Type} {l : List α} {f : Zone → α → Zone} (h : s₀.KeepsState s)
    (hf : ∀ z a, s₀.KeepsState z → s₀.KeepsState (f z a)) : s₀.KeepsState (s.forEach l f) :=
  forEach_keeps s₀.KeepsState l f hf s h

/-- The zone that an answer ends in keeps both. As a structure, unlike `s₀.KeepsState x.2` itself, it is compared without
running `x`: the kernel would otherwise evaluate a walk of the tables or a window to find its second part. -/
structure Ends (s₀ : Zone) {α : Type} (x : α × Zone) : Prop where
  of ::
  zone : s₀.KeepsState x.2

/-- `Ends` for an answer of three parts. -/
structure Ends₂ (s₀ : Zone) {α β : Type} (x : α × β × Zone) : Prop where
  of ::
  zone : s₀.KeepsState x.2.2

theorem Ends.pair {α : Type} {a : α} (h : s₀.KeepsState s) : Ends s₀ (a, s) := ⟨h⟩

theorem Ends₂.triple {α β : Type} {a : α} {b : β} (h : s₀.KeepsState s) : Ends₂ s₀ (a, b, s) := ⟨h⟩

theorem Ends.ite {α : Type} {c : Prop} [Decidable c] {x y : α × Zone} (hx : Ends s₀ x) (hy : Ends s₀ y) :
    Ends s₀ (if c then x else y) := by
  split <;> assumption

theorem Ends₂.ite {α β : Type} {c : Prop} [Decidable c] {x y : α × β × Zone} (hx : Ends₂ s₀ x) (hy : Ends₂ s₀ y) :
    Ends₂ s₀ (if c then x else y) := by
  split <;> assumption

/-- The words that an update keeps, STATE among them. -/
theorem keepWords {p : ℕ → Bool} {z : Zone} (h : s₀.KeepsState s) (hp : p 0 = true)
    (hz : z.regs = SMap.keep p s.regs := by rfl) : s₀.KeepsState z := by
  have hrd : z.rd 0 = s.rd 0 := (congrArg (SMap.get resetWord · 0) hz).trans (SMap.get_keep _ _ _ _ hp)
  exact ⟨(congrArg ZONE0.STATE_CURRENT.get hrd).trans h.current, (congrArg ZONE0.STATE_ENTRY_CAUSE.get hrd).trans h.cause⟩

/-! ### Machine/Ops -/

/-- A register word beside STATE. Where the key is that of a page of the model, `simp` sees that it is not the key of STATE. -/
theorem wr {k v} (h : s₀.KeepsState s) (hk : k ≠ 0 := by simp) : s₀.KeepsState (s.wr k v) := by
  have hrd : (s.wr k v).rd 0 = s.rd 0 := rd_wr_ne _ _ _ _ (Ne.symm hk)
  exact ⟨(congrArg ZONE0.STATE_CURRENT.get hrd).trans h.current, (congrArg ZONE0.STATE_ENTRY_CAUSE.get hrd).trans h.cause⟩

theorem setFld {p f v} (h : s₀.KeepsState s) (hk : p + f.off ≠ 0 := by simp) : s₀.KeepsState (s.setFld p f v) := h.wr hk

theorem fresh (h : s₀.KeepsState s) : s₀.KeepsState (s.fresh).2 := .pair h.parts

theorem setFldS {p f v} (h : s₀.KeepsState s) (hk : p + f.off ≠ 0 := by simp) : s₀.KeepsState (s.setFldS p f v) :=
  .ite (h.setFld hk) (h.fresh.setFld hk)

theorem setFldU {p f v} (h : s₀.KeepsState s) (hk : p + f.off ≠ 0 := by simp) : s₀.KeepsState (s.setFldU p f v) :=
  .ite (h.setFld hk) (h.fresh.setFld hk)

theorem setFlag {p f b} (h : s₀.KeepsState s) (hk : p + f.off ≠ 0 := by simp) : s₀.KeepsState (s.setFlag p f b) := h.wr hk

theorem event {p f} (h : s₀.KeepsState s) (hk : p + f.off ≠ 0 := by simp) : s₀.KeepsState (s.event p f) := h.wr hk

theorem countBy {p f n} (h : s₀.KeepsState s) (hk : p + f.off ≠ 0 := by simp) : s₀.KeepsState (s.countBy p f n) := h.wr hk

theorem count {p f} (h : s₀.KeepsState s) (hk : p + f.off ≠ 0 := by simp) : s₀.KeepsState (s.count p f) := h.wr hk

theorem setFldBit {p f n b} (h : s₀.KeepsState s) (hk : p + f.off ≠ 0 := by simp) : s₀.KeepsState (s.setFldBit p f n b) := h.wr hk

/-- SLEEP_PENDING stands in the word of STATE, beside both. -/
theorem setPending {v} (h : s₀.KeepsState s) : s₀.KeepsState (s.setFld (pZONE 0) ZONE0.STATE_SLEEP_PENDING v) :=
  ⟨(fld_setFld_ne _ _ _ _ _ _ (by decide)).trans h.current, (fld_setFld_ne _ _ _ _ _ _ (by decide)).trans h.cause⟩

theorem paced {key period} {f : Zone → Zone} (h : s₀.KeepsState s) (hf : ∀ z, s₀.KeepsState z → s₀.KeepsState (f z)) :
    s₀.KeepsState (s.paced key period f) := by
  unfold Zone.paced
  split
  · exact hf _ h.parts
  · exact .ite (hf _ h.parts) h

theorem markTime (h : s₀.KeepsState s) : s₀.KeepsState s.markTime := h.parts

theorem heardBus (h : s₀.KeepsState s) : s₀.KeepsState s.heardBus := h.parts

theorem loseRecord (h : s₀.KeepsState s) : s₀.KeepsState s.loseRecord := h.parts.count.event

theorem addRecord {kind time payload} (h : s₀.KeepsState s) : s₀.KeepsState (s.addRecord kind time payload) :=
  .ite h.parts h.loseRecord

theorem postValue {p f data} (h : s₀.KeepsState s) : s₀.KeepsState (s.postValue p f data) := h.addRecord

theorem post {p f} (h : s₀.KeepsState s) : s₀.KeepsState (s.post p f) := h.postValue

theorem report {source detail} (h : s₀.KeepsState s) : s₀.KeepsState (s.report source detail) := h.parts

theorem reportInjected {source detail} (h : s₀.KeepsState s) : s₀.KeepsState (s.reportInjected source detail) := h.parts

/-! ### Machine/Tickets -/

theorem setTicket {k n t} (h : s₀.KeepsState s) : s₀.KeepsState (s.setTicket k n t) := h.parts.setFld

theorem issueTicket {k n at_} (h : s₀.KeepsState s) : s₀.KeepsState (s.issueTicket k n at_) := h.parts.setTicket

theorem complete {r status value} (h : s₀.KeepsState s) : s₀.KeepsState (s.complete r status value) :=
  .ite h.setTicket h.count

theorem completeOk {r value} (h : s₀.KeepsState s) : s₀.KeepsState (s.completeOk r value) := h.complete

theorem completeFail {r value} (h : s₀.KeepsState s) : s₀.KeepsState (s.completeFail r value) := h.complete

theorem completeAbort {r} (h : s₀.KeepsState s) : s₀.KeepsState (s.completeAbort r) := h.complete

/-! ### Machine/Waves -/

theorem setGen {g x} (h : s₀.KeepsState s) : s₀.KeepsState (s.setGen g x) := h.parts

/-! ### Machine/Loads -/

theorem setLoad {n x} (h : s₀.KeepsState s) : s₀.KeepsState (s.setLoad n x) := h.parts

theorem setCal {n x} (h : s₀.KeepsState s) : s₀.KeepsState (s.setCal n x) := h.parts

theorem settleSwitch {n} (h : s₀.KeepsState s) : s₀.KeepsState (s.settleSwitch n) := h.setLoad.setFlag

theorem showLoad {m} (h : s₀.KeepsState s) : s₀.KeepsState (s.showLoad m) := h.forEach fun _ _ h => h.settleSwitch

theorem settleLegs (h : s₀.KeepsState s) : s₀.KeepsState s.settleLegs := h.forEach fun _ _ h => h.settleSwitch

theorem setLState {m st} (h : s₀.KeepsState s) : s₀.KeepsState (s.setLState m st) := h.forEach fun _ _ h => h.setFld

theorem setCause {m leg cause} (h : s₀.KeepsState s) : s₀.KeepsState (s.setCause m leg cause) :=
  h.forEach fun _ _ h => h.setFld

theorem setCauseAll {m cause} (h : s₀.KeepsState s) : s₀.KeepsState (s.setCauseAll m cause) := h.forEach fun _ _ h => h.setFld

theorem applyReq {m} (h : s₀.KeepsState s) : s₀.KeepsState (s.applyReq m) := h.setLoad.showLoad

theorem stopDrive {m} (h : s₀.KeepsState s) : s₀.KeepsState (s.stopDrive m) := h.setLoad.showLoad

theorem toOff {m} (h : s₀.KeepsState s) : s₀.KeepsState (s.toOff m) := h.setLState.stopDrive

theorem toOpen {m st} (h : s₀.KeepsState s) : s₀.KeepsState (s.toOpen m st) := h.setLState.stopDrive

theorem startConducting {m} (h : s₀.KeepsState s) : s₀.KeepsState (s.startConducting m) := by
  unfold Zone.startConducting
  dsimp only
  split
  · exact h.toOpen
  · exact h.setFld.setLState.setLoad.applyReq

theorem beginGap {m} (h : s₀.KeepsState s) : s₀.KeepsState (s.beginGap m) := h.setLoad.applyReq

theorem changeMode {m} (h : s₀.KeepsState s) : s₀.KeepsState (s.changeMode m) :=
  .ite h (.ite h.beginGap (.ite h (.ite (.ite h.applyReq h.setLoad) h.applyReq)))

theorem abortDiag {n} (h : s₀.KeepsState s) : s₀.KeepsState (s.abortDiag n) := by
  unfold Zone.abortDiag
  dsimp only
  split
  · exact h
  · exact h.setLoad.completeAbort

theorem refillTimer {m} (h : s₀.KeepsState s) : s₀.KeepsState (s.refillTimer m) := by
  unfold Zone.refillTimer
  dsimp only
  split
  · split
    · exact h
    · exact h.setLoad
  · exact h.setLoad

theorem request {m} (h : s₀.KeepsState s) : s₀.KeepsState (s.request m) := by
  unfold Zone.request
  dsimp only
  split
  · exact .ite
        (h.refillTimer.when (fun _ h => h.forEach fun _ _ h => h.abortDiag)).toOff
        (h.refillTimer.when (fun _ h => h.forEach fun _ _ h => h.abortDiag)).changeMode
  · exact .ite
        (h.refillTimer.when (fun _ h => h.forEach fun _ _ h => h.abortDiag)).toOff
        (h.refillTimer.when (fun _ h => h.forEach fun _ _ h => h.abortDiag)).changeMode
  · exact .ite
        (h.refillTimer.when (fun _ h => h.forEach fun _ _ h => h.abortDiag)).toOff
        (h.refillTimer.when (fun _ h => h.forEach fun _ _ h => h.abortDiag)).changeMode
  · exact .ite
        (h.refillTimer.when (fun _ h => h.forEach fun _ _ h => h.abortDiag))
        (.ite
           (h.refillTimer.when (fun _ h => h.forEach fun _ _ h => h.abortDiag)).setLState.setFld
           (h.refillTimer.when (fun _ h => h.forEach fun _ _ h => h.abortDiag)).startConducting)
  · exact .ite
        (h.refillTimer.when (fun _ h => h.forEach fun _ _ h => h.abortDiag)).toOff
        (h.refillTimer.when (fun _ h => h.forEach fun _ _ h => h.abortDiag))
  · exact h.refillTimer.when fun _ h => h.forEach fun _ _ h => h.abortDiag

theorem enterSafe {n} (h : s₀.KeepsState s) : s₀.KeepsState (s.enterSafe n) := .ite h (.ite h h.setFld.event.request)

theorem loadSilent {n} (h : s₀.KeepsState s) : s₀.KeepsState (s.loadSilent n) := .ite h h.setLoad.enterSafe

theorem loadDemand {n} (h : s₀.KeepsState s) : s₀.KeepsState (s.loadDemand n) := .ite h (.ite h h.setLoad.enterSafe)

theorem loadRelease {n} (h : s₀.KeepsState s) : s₀.KeepsState (s.loadRelease n) := h.setLoad

theorem loadAccepted {n} (h : s₀.KeepsState s) : s₀.KeepsState (s.loadAccepted n) :=
  .ite h (.ite h.setLoad (.ite h.setLoad.setFld.request h.setLoad.setFld))

theorem forceOpen {n} (h : s₀.KeepsState s) : s₀.KeepsState (s.forceOpen n) :=
  h.abortDiag.setFld.setFld.setFld.setLoad.refillTimer.settleSwitch

theorem forceOpenAll (h : s₀.KeepsState s) : s₀.KeepsState s.forceOpenAll := h.forEach fun _ _ h => h.forceOpen

theorem chCtrlWrite {n v} (h : s₀.KeepsState s) : s₀.KeepsState (s.chCtrlWrite n v) :=
  .ite h.count (.ite h.count (.ite h.count (.ite h.count.loadAccepted h.setFld.setFld.setFld.setLoad.setFld.request)))

theorem chEvent {m f} (h : s₀.KeepsState s) : s₀.KeepsState (s.chEvent m f) := h.event

theorem setFastTrip {m} (h : s₀.KeepsState s) : s₀.KeepsState (s.setFastTrip m) := h.chEvent.count

theorem toLockedOut {m leg} (h : s₀.KeepsState s) : s₀.KeepsState (s.toLockedOut m leg) :=
  h.toOpen.setCause.chEvent.count.post

theorem takeWarmupTrip {m leg t} (h : s₀.KeepsState s) : s₀.KeepsState (s.takeWarmupTrip m leg t) :=
  .ite h.setFld.setFastTrip.toOpen.setCause.chEvent
    (.ite
       h.setFld.setFastTrip.setFld.setLState.setLoad.showLoad.chEvent.count
       (.ite h.setFld.setFastTrip.toLockedOut h.setFld.setFastTrip.setFld.setLState.setLoad.showLoad.setFld))

theorem fastTrip {n peak} (h : s₀.KeepsState s) : s₀.KeepsState (s.fastTrip n peak) := by
  unfold Zone.fastTrip
  dsimp only
  split
  · exact h
  · split
    · exact h.setLoad.setFld.setLoad.showLoad
    · exact h.setLoad.setFld.toOpen.setCause.setFastTrip.chEvent
    · exact h.setLoad

theorem softTrip {n} (h : s₀.KeepsState s) : s₀.KeepsState (s.softTrip n) := by
  unfold Zone.softTrip
  dsimp only
  split
  · exact h.toOpen.setCause.chEvent.chEvent
  · exact h.toOpen.setCause.chEvent.chEvent
  · exact h

theorem latchSet {n} (h : s₀.KeepsState s) : s₀.KeepsState (s.latchSet n) := by
  unfold Zone.latchSet
  dsimp only
  split
  · exact h.setFld.count.toOpen.setCause.setFld.chEvent
  · exact h.setFld.count.toOpen.setCause.setFld.chEvent
  · exact h.setFld.count.toOpen.setCause.setFld.chEvent
  · exact h.setFld.count

theorem latchRelease {n} (h : s₀.KeepsState s) : s₀.KeepsState (s.latchRelease n) :=
  .ite h.setFld
    (.ite h.setFld.setFld.chEvent.toOff
       (.ite h.setFld.setFld.chEvent.startConducting
          (.ite h.setFld.setFld.chEvent.toLockedOut
             (.ite h.setFld.setFld.chEvent.startConducting h.setFld.setFld.chEvent.setFld.startConducting.chEvent))))

theorem clearRetry {m} (h : s₀.KeepsState s) : s₀.KeepsState (s.clearRetry m) :=
  .ite h.setFld (.ite h.setFld.toOff (.ite h.setFld.setLState.setFld h.setFld.startConducting))

theorem feedBandChanged {m} (h : s₀.KeepsState s) : s₀.KeepsState (s.feedBandChanged m) := by
  unfold Zone.feedBandChanged
  dsimp only
  split
  · exact h.showLoad
  · split
    · exact .ite h.toOpen.setCauseAll.chEvent (.ite h.setLState.showLoad h.showLoad)
    · exact .ite h.setLState.showLoad h.showLoad

theorem feedBandAll {f} (h : s₀.KeepsState s) : s₀.KeepsState (s.feedBandAll f) := h.forEach fun _ _ h => h.feedBandChanged

theorem switchFault {s n status evt source present absent} (h : s₀.KeepsState s) :
    s₀.KeepsState (Machine.switchFault s n status evt source present absent) :=
  .ite h.setFld.event.report (.ite h.setFld h)

theorem setFeedV {f v} (h : s₀.KeepsState s) : s₀.KeepsState (s.setFeedV f v) := by
  unfold Zone.setFeedV
  split
  · exact h.setFld
  · exact h.setFld

theorem opClearRetry {n r} (h : s₀.KeepsState s) : s₀.KeepsState (s.opClearRetry n r) :=
  .ite h.count h.loadAccepted.clearRetry.completeOk

theorem opOffDiag {n r shorted} (h : s₀.KeepsState s) : s₀.KeepsState (s.opOffDiag n r shorted) :=
  .ite h.count (.ite h.loadAccepted.completeFail (.ite h.loadAccepted.completeFail h.loadAccepted.setLoad))

theorem opSnapshot {n r} (h : s₀.KeepsState s) : s₀.KeepsState (s.opSnapshot n r) := .ite h.count h.loadAccepted.completeOk

theorem opLoadOther {n r} (h : s₀.KeepsState s) : s₀.KeepsState (s.opLoadOther n r) :=
  .ite h.count h.loadAccepted.completeFail

/-! ### Machine/Chars -/

theorem refreshFollowers {g} (h : s₀.KeepsState s) : s₀.KeepsState (s.refreshFollowers g) := h.forEach fun _ _ h => h.showLoad

theorem applySet {g from_} (h : s₀.KeepsState s) : s₀.KeepsState (s.applySet g from_) :=
  h.setGen.setFld.setFld.setFld.setFld.setFld.event.refreshFollowers

theorem fadeOnly {g from_} (h : s₀.KeepsState s) : s₀.KeepsState (s.fadeOnly g from_) := h.setGen.setFld.refreshFollowers

theorem applyIfOff {g} (h : s₀.KeepsState s) : s₀.KeepsState (s.applyIfOff g) := .ite h.applySet h

theorem stagedWrite {g word v} (h : s₀.KeepsState s) : s₀.KeepsState (s.stagedWrite g word v) :=
  .ite h.count h.wr.setFld.applyIfOff

theorem holdWrite {g hold} (h : s₀.KeepsState s) : s₀.KeepsState (s.holdWrite g hold) := h.setFlag.applyIfOff

theorem gensStepped {old} (h : s₀.KeepsState s) : s₀.KeepsState (s.gensStepped old) :=
  h.forEach fun _ _ h => .ite h.setGen h.setGen.count.event.refreshFollowers

theorem followsStepped (h : s₀.KeepsState s) : s₀.KeepsState s.followsStepped := h.parts

theorem gensOff (h : s₀.KeepsState s) : s₀.KeepsState s.gensOff := h.forEach fun _ _ h => h.setGen.setFld.refreshFollowers

theorem gensStopped (h : s₀.KeepsState s) : s₀.KeepsState s.gensStopped :=
  h.forEach fun _ _ h => h.setFld.event.count.refreshFollowers

theorem gensRestarted (h : s₀.KeepsState s) : s₀.KeepsState s.gensRestarted :=
  h.forEach fun _ _ h => .ite h.setFld.applyIfOff h.setFld.setGen.count.event.refreshFollowers

/-! ### Machine/Supply -/

theorem setInput {k x} (h : s₀.KeepsState s) : s₀.KeepsState (s.setInput k x) := h.parts

theorem reportSupply (h : s₀.KeepsState s) : s₀.KeepsState s.reportSupply := h.report

theorem setFeed {f x} (h : s₀.KeepsState s) : s₀.KeepsState (s.setFeed f x) := by
  unfold Zone.setFeed
  dsimp only
  split
  · exact h.parts
  · exact h.parts

theorem windowMark (h : s₀.KeepsState s) : s₀.KeepsState s.windowMark := h.parts

theorem feedCrosses {f band volts} (h : s₀.KeepsState s) : s₀.KeepsState (s.feedCrosses f band volts) := h.windowMark.setFeed

theorem setBand {f code} (h : s₀.KeepsState s) : s₀.KeepsState (s.setBand f code) := by
  unfold Zone.setBand
  dsimp only
  refine .feedBandAll ?_
  refine .setFld ?_
  split
  · exact h.parts
  · exact h.parts

theorem supplyEvent {f a b} (h : s₀.KeepsState s) : s₀.KeepsState (s.supplyEvent f a b) := h.event

theorem leaveCrank (h : s₀.KeepsState s) : s₀.KeepsState s.leaveCrank := .ite h.windowMark.parts.setFld h

theorem showCrank (h : s₀.KeepsState s) : s₀.KeepsState s.showCrank := h.setFld.event.count.reportSupply

theorem judgeFeed {f} (h : s₀.KeepsState s) : s₀.KeepsState (s.judgeFeed f) := by
  unfold Zone.judgeFeed
  extract_lets s₁ new old s₂ s₃
  have h₁ : s₀.KeepsState s₁ := by
    dsimp only [s₁]
    split
    · exact h.setFeedV
    · exact h
  have h₂ : s₀.KeepsState s₂ := h₁.when fun _ h => h.supplyEvent
  refine .ite h₁ ?_
  dsimp only [new]
  split
  · exact h₂.supplyEvent.count.setBand.reportSupply
  · exact h₂.supplyEvent.setBand.reportSupply
  · exact h₂.supplyEvent.setBand.reportSupply
  · exact h₂.supplyEvent.setBand.reportSupply
  · exact h₂.setBand

theorem feedEvent {f band volts} (h : s₀.KeepsState s) : s₀.KeepsState (s.feedEvent f band volts) :=
  .ite h.feedCrosses.judgeFeed h.feedCrosses

theorem showActive {k} (h : s₀.KeepsState s) : s₀.KeepsState (s.showActive k) := .ite h h.setFlag

theorem takeLevel {k} (h : s₀.KeepsState s) : s₀.KeepsState (s.takeLevel k) := .ite h h.setFlag.event.count.showActive

theorem inReject {k} (h : s₀.KeepsState s) : s₀.KeepsState (s.inReject k) := h.event.count

theorem clearCapture {k} (h : s₀.KeepsState s) : s₀.KeepsState (s.clearCapture k) := h.setInput.setFld.setFld.setFld

theorem inCfgWrite {k v} (h : s₀.KeepsState s) : s₀.KeepsState (s.inCfgWrite k v) :=
  .ite h (.ite h.inReject (.ite h.wr.showActive.clearCapture h.wr.showActive))

theorem inThreshWrite {k v} (h : s₀.KeepsState s) : s₀.KeepsState (s.inThreshWrite k v) := .ite h (.ite h.inReject h.wr)

/-! ### Machine/Cal -/

theorem calDirty (h : s₀.KeepsState s) : s₀.KeepsState s.calDirty := h.parts

theorem discardBlock {n} (h : s₀.KeepsState s) : s₀.KeepsState (s.discardBlock n) := h.setCal.setFld

theorem setCalibration {n g o} (h : s₀.KeepsState s) : s₀.KeepsState (s.setCalibration n g o) := h.setCal.setFld.setFldS

theorem unconverge {n} (h : s₀.KeepsState s) : s₀.KeepsState (s.unconverge n) := h.setFld.setFld

theorem calFreeze {n cause} (h : s₀.KeepsState s) : s₀.KeepsState (s.calFreeze n cause) :=
  h.setFld.setFld.unconverge.event.post.report.calDirty

theorem calAccept {n gEst oEst dg dofs small} (h : s₀.KeepsState s) : s₀.KeepsState (s.calAccept n gEst oEst dg dofs small) :=
  .ite
    (.ite h.setCalibration.event.calDirty.setFld.setFld.event h.setCalibration.event.calDirty.setFld)
    h.setCalibration.event.calDirty.unconverge

theorem calBlock {n sxx sxy sz} (h : s₀.KeepsState s) : s₀.KeepsState (s.calBlock n sxx sxy sz) :=
  .ite h.setFldU.setFldS.count.setCal.calFreeze
    (.ite h.setFldU.setFldS.count.setCal.calFreeze
       (.ite h.setFldU.setFldS.count.setCal.calFreeze
          (.ite h.setFldU.setFldS.count.setCal.calFreeze h.setFldU.setFldS.count.setCal.calAccept)))

theorem calUpdates (h : s₀.KeepsState s) : s₀.KeepsState s.calUpdates := by
  unfold Zone.calUpdates
  split
  · exact h
  · refine h.forEach fun _ _ h => ?_
    split
    · exact h.calBlock
    · exact h

theorem calClean {n x y z} (h : s₀.KeepsState s) : s₀.KeepsState (s.calClean n x y z) :=
  .ite h.discardBlock.setCal h.setCal.setFld

theorem calRestart {n} (h : s₀.KeepsState s) : s₀.KeepsState (s.calRestart n) :=
  h.setCalibration.setFld.setFld.discardBlock.unconverge.calDirty

theorem calSave (h : s₀.KeepsState s) : s₀.KeepsState s.calSave := h.parts

theorem setBal {f run calm} (h : s₀.KeepsState s) : s₀.KeepsState (s.setBal f run calm) := by
  unfold Zone.setBal
  dsimp only
  split
  · exact h.parts
  · exact h.parts

theorem balFault {f} (h : s₀.KeepsState s) : s₀.KeepsState (s.balFault f) := h.setFld.event.count.post.report

theorem balJudge {f r} (h : s₀.KeepsState s) : s₀.KeepsState (s.balJudge f r) := by
  unfold Zone.balJudge
  dsimp only
  split
  · exact .ite
        (.setFld
           (.ite (.balFault (.setBal (.ite h.setFlag.setFldU h.setFlag))) (.setBal (.ite h.setFlag.setFldU h.setFlag))))
        (.ite (.balFault (.setBal (.ite h.setFlag.setFldU h.setFlag))) (.setBal (.ite h.setFlag.setFldU h.setFlag)))
  · exact .ite (.balFault (.setBal (.ite h.setFlag.setFldU h.setFlag))) (.setBal (.ite h.setFlag.setFldU h.setFlag))

theorem balEval {f shunt elec sat legs} (h : s₀.KeepsState s) : s₀.KeepsState (s.balEval f shunt elec sat legs) :=
  (h.setFldS.setFldU.setFlag.when (fun _ h => h.count)).setFldS.setFldU.setFlag.balJudge

theorem ringApply (h : s₀.KeepsState s) : s₀.KeepsState s.ringApply := h.setFldS.setFldS

theorem showRing (h : s₀.KeepsState s) : s₀.KeepsState s.showRing := .ite h.setFlag h.setFlag.ringApply

theorem ringCtrlWrite {v} (h : s₀.KeepsState s) : s₀.KeepsState (s.ringCtrlWrite v) := .showRing (.ite h.wr h.wr.setFld)

theorem ringRestart (h : s₀.KeepsState s) : s₀.KeepsState s.ringRestart := h.setFld.setFld.showRing

theorem breakRing (h : s₀.KeepsState s) : s₀.KeepsState s.breakRing := h.parts

theorem ringUpdate {d} (h : s₀.KeepsState s) : s₀.KeepsState (s.ringUpdate d) :=
  .ite h.setFldS.setFld.event.post.ringApply h.setFldS.setFldS.count.event.ringApply

/-! ### Machine/Gates -/

theorem sw {f : SwitchSt → SwitchSt} (h : s₀.KeepsState s) : s₀.KeepsState (s.sw f) := h.parts

theorem setVoq {i e t l} (h : s₀.KeepsState s) : s₀.KeepsState (s.setVoq i e t l) := h.sw

theorem setEgress {e x} (h : s₀.KeepsState s) : s₀.KeepsState (s.setEgress e x) := h.sw

theorem setGate {p g} (h : s₀.KeepsState s) : s₀.KeepsState (s.setGate p g) := h.sw

theorem shape {p} (h : s₀.KeepsState s) : s₀.KeepsState (s.shape p) := h.forEach fun _ _ h => .ite h.sw.setFldS h

theorem settleCredit {p} (h : s₀.KeepsState s) : s₀.KeepsState (s.settleCredit p) := h.forEach fun _ _ h => .ite h.sw.setFld h

theorem shaped {p} {f : Zone → Zone} (h : s₀.KeepsState s) (hf : ∀ z, s₀.KeepsState z → s₀.KeepsState (f z)) :
    s₀.KeepsState (s.shaped p f) :=
  (hf _ h.shape).settleCredit

theorem gateEval {p} (h : s₀.KeepsState s) : s₀.KeepsState (s.gateEval p) := by
  unfold Zone.gateEval
  extract_lets s₁ g s₂ g' s₃ x
  have h₂ : s₀.KeepsState s₂ := by
    dsimp only [s₂]
    split
    · exact .ite h.shape.setGate h.shape
    · exact h.shape
  have h₃ : s₀.KeepsState s₃ := by
    dsimp only [s₃]
    split
    · exact h₂
    · exact .ite h₂.setGate.setFld.event.setFld h₂
  exact h₃.setFld.setFld

theorem gateStepped {p} (h : s₀.KeepsState s) : s₀.KeepsState (s.gateStepped p) := h.setGate.gateEval.event

theorem gateCommit {p} (h : s₀.KeepsState s) : s₀.KeepsState (s.gateCommit p) := .ite h.event h.setGate.setFld

/-! ### Machine/Envelope -/

theorem send {code seq status result} (h : s₀.KeepsState s) : s₀.KeepsState (s.send code seq status result) := h.parts

theorem notice {code result} (h : s₀.KeepsState s) : s₀.KeepsState (s.notice code result) := .ite h.send h

theorem answer {code seq status result} (h : s₀.KeepsState s) : s₀.KeepsState (s.answer code seq status result) :=
  h.send.parts

/-! ### Machine/Segments -/

theorem setStream {n x} (h : s₀.KeepsState s) : s₀.KeepsState (s.setStream n x) := h.parts

theorem setNextSeq {n v} (h : s₀.KeepsState s) : s₀.KeepsState (s.setNextSeq n v) := h.setFld.setFld

theorem closeSegment {n cause} (h : s₀.KeepsState s) : s₀.KeepsState (s.closeSegment n cause) := by
  unfold Zone.closeSegment
  dsimp only
  split
  · exact h
  · exact .ite h.setStream.parts.setFld.setFld.setFld.setFld h.setStream.parts.setFld.setFld

theorem chainRecord {n r} (h : s₀.KeepsState s) : s₀.KeepsState (s.chainRecord n r) := by
  unfold Zone.chainRecord
  dsimp only
  refine .setFld ?_
  refine .setStream ?_
  split
  · exact .ite h h.closeSegment
  · exact h

theorem drainCloses {n l} (h : s₀.KeepsState s) : s₀.KeepsState (s.drainCloses n l) := by
  induction l generalizing s with
  | nil => exact h
  | cons x r ih =>
    cases x with
    | close c => exact ih h.closeSegment.setStream
    | _ => exact h

theorem closeAfter {n cause} (h : s₀.KeepsState s) : s₀.KeepsState (s.closeAfter n cause) :=
  .ite h (.ite h.closeSegment h.setStream)

theorem closeAll {cause} (h : s₀.KeepsState s) : s₀.KeepsState (s.closeAll cause) := h.forEach fun _ _ h => h.closeAfter

theorem hashNext {n} (h : s₀.KeepsState s) : s₀.KeepsState (s.hashNext n) := by
  unfold Zone.hashNext
  dsimp only
  split
  · exact h
  · split
    · exact h
    · exact h.setStream.chainRecord.drainCloses
    · exact h.drainCloses

/-! ### Machine/Time -/

theorem setTState {v} (h : s₀.KeepsState s) : s₀.KeepsState (s.setTState v) := h.setFld

theorem setInc {v} (h : s₀.KeepsState s) : s₀.KeepsState (s.setInc v) := h.setFld.setFld

theorem setNs {f o} (h : s₀.KeepsState s) : s₀.KeepsState (s.setNs f o) := h.setFld

theorem setTerms {r ph} (h : s₀.KeepsState s) : s₀.KeepsState (s.setTerms r ph) := h.markTime.parts.setInc.setFldS.setFlag

theorem toLocked (h : s₀.KeepsState s) : s₀.KeepsState s.toLocked :=
  .parts (.setTState (.ite (.ite h.event h) (.parts (.ite h.event h))))

theorem beginHoldover (h : s₀.KeepsState s) : s₀.KeepsState s.beginHoldover := h.setTState.event.count.setFld.parts

theorem enterHoldover (h : s₀.KeepsState s) : s₀.KeepsState s.enterHoldover := .ite h.beginHoldover.setTerms h

theorem setSlotWord {k w v} (h : s₀.KeepsState s) : s₀.KeepsState (s.setSlotWord k w v) := h.wr

theorem setSlotState {k v} (h : s₀.KeepsState s) : s₀.KeepsState (s.setSlotState k v) := h.setSlotWord.setFld

theorem globalExecuted {k} (h : s₀.KeepsState s) : s₀.KeepsState (s.globalExecuted k) := h.setSlotState.count.notice

theorem dropPending (h : s₀.KeepsState s) : s₀.KeepsState s.dropPending := h.forEach fun _ _ h => h.setSlotWord.setSlotState

theorem markLate {old} (h : s₀.KeepsState s) : s₀.KeepsState (s.markLate old) := h.parts

theorem refsStepped (h : s₀.KeepsState s) : s₀.KeepsState s.refsStepped := h.forEach fun _ _ h => h.parts

theorem timeStep {o} (h : s₀.KeepsState s) : s₀.KeepsState (s.timeStep o) :=
  h.forEach (fun _ _ h => h.gateEval)
    |>.markTime.parts.setTerms.event.count.postValue.gensStepped.followsStepped.refsStepped.parts.forEach (fun _ _ h =>
         h.gateStepped)
    |>.markLate.closeAll

theorem clearRefusal (h : s₀.KeepsState s) : s₀.KeepsState s.clearRefusal := h.setFld.parts

theorem slew {o} (h : s₀.KeepsState s) : s₀.KeepsState (s.slew o) := h.setTerms.toLocked.parts

theorem servoStep {o} (h : s₀.KeepsState s) : s₀.KeepsState (s.servoStep o) := h.timeStep.toLocked.parts

theorem refuse {o} (h : s₀.KeepsState s) : s₀.KeepsState (s.refuse o) :=
  h.setFld.event.setNs.count.parts.postValue.enterHoldover

theorem judge {o} (h : s₀.KeepsState s) : s₀.KeepsState (s.judge o) :=
  .ite h.parts.clearRefusal.servoStep.event
    (.ite h.parts.servoStep.event
       (.ite h.parts.slew
          (.ite h.parts.servoStep
             (.ite (.refuse (.parts (.ite h.parts h.parts.setTerms))) (.ite h.parts h.parts.setTerms)))))

theorem measure {o} (h : s₀.KeepsState s) : s₀.KeepsState (s.measure o) := by
  unfold Zone.measure
  dsimp only
  split
  · exact h.setNs.parts.servoStep.clearRefusal.answer
  · exact .ite (.ite (.ite h.setNs.parts.clearRefusal.judge h.setNs.parts) h.setNs.parts) h.setNs.judge

theorem sourceCheck (h : s₀.KeepsState s) : s₀.KeepsState s.sourceCheck :=
  .showRing
    (.ite
       (.enterHoldover (.ite h.setFld.setFlag.event.count.setTerms h.setFld.setFlag))
       (.ite h.setFld.setFlag.event.count.setTerms h.setFld.setFlag))

theorem leaveLocal (h : s₀.KeepsState s) : s₀.KeepsState s.leaveLocal :=
  .ite (.ite h.setTerms.beginHoldover h.setTerms.setTState) h

theorem selectSource {v} (h : s₀.KeepsState s) : s₀.KeepsState (s.selectSource v) :=
  .ite h
    (.ite
       (h.setFld.parts.setFld.parts.when (fun _ h => h.event)).setTState.sourceCheck
       h.setFld.parts.setFld.leaveLocal.sourceCheck)

theorem ptpSync {i} (h : s₀.KeepsState s) : s₀.KeepsState (s.ptpSync i) := by
  unfold Zone.ptpSync
  exact h.parts.setFlag.sourceCheck

theorem jumpWrite {v} (h : s₀.KeepsState s) : s₀.KeepsState (s.jumpWrite v) := .ite (.ite h.setFld.setFld h.setFld) h

theorem slewWrite {v} (h : s₀.KeepsState s) : s₀.KeepsState (s.slewWrite v) := .ite h.setFld h

theorem servoCfgWrite {v} (h : s₀.KeepsState s) : s₀.KeepsState (s.servoCfgWrite v) :=
  .ite
    ((h.when (fun _ h => h.setFld)).when (fun _ h => h.setFld)).setFld.sourceCheck
    ((h.when (fun _ h => h.setFld)).when (fun _ h => h.setFld)).setFld.selectSource

theorem timeSnap (h : s₀.KeepsState s) : s₀.KeepsState s.timeSnap := h.setFld.setFld.setFld.setFld

theorem showTsq {p} (h : s₀.KeepsState s) : s₀.KeepsState (s.showTsq p) :=
  (h.setFld.setFlag.when (fun _ h => h.setFld)).setFld.setFld.setFld.setFld.setFld

theorem tsqAppend {p e} (h : s₀.KeepsState s) : s₀.KeepsState (s.tsqAppend p e) :=
  .ite h.parts.count.showTsq h.setFld.event.count

theorem tsqPop {p} (h : s₀.KeepsState s) : s₀.KeepsState (s.tsqPop p) := by
  unfold Zone.tsqPop
  split
  · exact h
  · exact h.parts.showTsq

/-! ### Machine/Queues -/

theorem showHinge {j x} (h : s₀.KeepsState s) : s₀.KeepsState (s.showHinge j x) := by
  unfold Zone.showHinge
  dsimp only
  split
  · refine .wr ?_
    refine .wr ?_
    refine .wr ?_
    split
    · exact h.setFld.setFld.wr.wr.wr
    · exact h.setFld.setFld.wr.wr.wr.setFld
  · refine .setFld ?_
    refine .wr ?_
    refine .wr ?_
    refine .wr ?_
    split
    · exact h.setFld.setFld.wr.wr.wr
    · exact h.setFld.setFld.wr.wr.wr.setFld

theorem setHinge {j x} (h : s₀.KeepsState s) : s₀.KeepsState (s.setHinge j x) := h.parts.showHinge

theorem hingeEnter {j t posted} (h : s₀.KeepsState s) : s₀.KeepsState (s.hingeEnter j t posted) := .ite h.setHinge h.setHinge

theorem noticeArrives {route} (h : s₀.KeepsState s) : s₀.KeepsState (s.noticeArrives route) := .ite h.parts (.ite h.parts h)

theorem sendNotice {route} (h : s₀.KeepsState s) : s₀.KeepsState (s.sendNotice route) := .ite h.hingeEnter h.noticeArrives

theorem setKeeper {k x} (h : s₀.KeepsState s) : s₀.KeepsState (s.setKeeper k x) := by
  unfold Zone.setKeeper
  split
  · exact h.parts
  · exact h.parts

theorem setReqQ {q x} (h : s₀.KeepsState s) : s₀.KeepsState (s.setReqQ q x) := h.parts.setFld

theorem setEvtQ {q x} (h : s₀.KeepsState s) : s₀.KeepsState (s.setEvtQ q x) := h.parts.setFld

theorem dropLeft {q} (h : s₀.KeepsState s) : s₀.KeepsState (s.dropLeft q) := h.setReqQ

theorem takeReq {k q} (h : s₀.KeepsState s) : s₀.KeepsState (s.takeReq k q).2 := by
  unfold Zone.takeReq
  dsimp only
  split
  · exact h
  · exact .pair h.setReqQ.dropLeft

theorem pushEvt {k q w} (h : s₀.KeepsState s) : s₀.KeepsState (s.pushEvt k q w) := .ite h.countBy h.setEvtQ

theorem rebind {j} (h : s₀.KeepsState s) : s₀.KeepsState (s.rebind j) :=
  (h.forEach (fun _ _ h => .ite h h.countBy.setReqQ)).forEach fun _ _ h => .ite h h.countBy.setEvtQ

theorem joinQueues {old k j} (h : s₀.KeepsState s) : s₀.KeepsState (s.joinQueues old k j) :=
  .ite h (h.forEach (fun _ _ h => .ite h.setReqQ h))

theorem respond {code data} (h : s₀.KeepsState s) : s₀.KeepsState (s.respond code data) := h.parts

theorem queueRefused {q src code} (h : s₀.KeepsState s) : s₀.KeepsState (s.queueRefused q src code) :=
  h.setFld.setFld.setFlag.setFld

theorem postRefused {q src code frame} (h : s₀.KeepsState s) : s₀.KeepsState (s.postRefused q src code frame) :=
  .respond (.ite h.queueRefused.count.countBy h.queueRefused.count)

theorem frameWord {q w need words since} (h : s₀.KeepsState s) : s₀.KeepsState (s.frameWord q w need words since) :=
  .ite h.setReqQ.respond h.setReqQ.respond

theorem alienWord {q src w} (h : s₀.KeepsState s) : s₀.KeepsState (s.alienWord q src w) := h.setReqQ.postRefused

theorem postWord {q src w} (h : s₀.KeepsState s) : s₀.KeepsState (s.postWord q src w) := by
  unfold Zone.postWord
  dsimp only
  split
  · exact h.dropLeft.alienWord
  · exact .ite h.dropLeft.alienWord
        (.ite h.dropLeft.setReqQ.postRefused
           (.ite h.dropLeft.frameWord (.ite h.dropLeft.setReqQ.postRefused h.dropLeft.frameWord)))

theorem popEvt {q src} (h : s₀.KeepsState s) : s₀.KeepsState (s.popEvt q src) := by
  unfold Zone.popEvt
  dsimp only
  split
  · exact h.queueRefused.count.respond
  · split
    · exact h.queueRefused.count.respond
    · split
      · exact h.respond
      · exact h.setEvtQ.respond

/-! ### Machine/Keepers -/

theorem setRole {k r} (h : s₀.KeepsState s) : s₀.KeepsState (s.setRole k r) := h.setFld

theorem checkBoth (h : s₀.KeepsState s) : s₀.KeepsState s.checkBoth := .ite h.report.parts h

theorem setVerdict {k t} (h : s₀.KeepsState s) : s₀.KeepsState (s.setVerdict k t) := by
  unfold Zone.setVerdict
  dsimp only
  split
  · exact h.parts
  · exact h.parts

theorem selfCheck {k cause} (h : s₀.KeepsState s) : s₀.KeepsState (s.selfCheck k cause) :=
  .ite h h.setRole.setFld.setKeeper.setVerdict.report.checkBoth

theorem fence {k} (h : s₀.KeepsState s) : s₀.KeepsState (s.fence k) := .ite h h.setFld.setRole.setKeeper.checkBoth

theorem confirmFence {k} (h : s₀.KeepsState s) : s₀.KeepsState (s.confirmFence k) := h.setFld

theorem dropSched (h : s₀.KeepsState s) : s₀.KeepsState s.dropSched := by
  unfold Zone.dropSched
  dsimp only
  refine .parts ?_
  refine .setFld ?_
  split
  · exact h.parts
  · exact h

theorem declareFailed {i} (h : s₀.KeepsState s) : s₀.KeepsState (s.declareFailed i) :=
  .ite (.setFld (.dropSched (.fence (.ite h h.report))))
    (.ite (.setKeeper (.dropSched (.fence (.ite h h.report)))) (.dropSched (.fence (.ite h h.report))))

theorem judgeOther {i} (h : s₀.KeepsState s) : s₀.KeepsState (s.judgeOther i) :=
  .ite h (.ite (.declareFailed (.ite h.setKeeper h.setKeeper.count)) (.ite h.setKeeper h.setKeeper.count))

theorem showMirror {k} (h : s₀.KeepsState s) : s₀.KeepsState (s.showMirror k) := h.setFlag

theorem mirrorApply {k} (h : s₀.KeepsState s) : s₀.KeepsState (s.mirrorApply k) := by
  unfold Zone.mirrorApply
  dsimp only
  split
  · exact .ite h.setKeeper.count.setFld h.setKeeper
  · exact h.setKeeper.count.setFld

theorem sendBeacon {k} (h : s₀.KeepsState s) : s₀.KeepsState (s.sendBeacon k) := by
  unfold Zone.sendBeacon
  exact .ite h h.setKeeper

theorem setStage {i x} (h : s₀.KeepsState s) : s₀.KeepsState (s.setStage i x) := h.parts

theorem stageHear {k slot f i} (h : s₀.KeepsState s) : s₀.KeepsState (s.stageHear k slot f i) := by
  unfold Zone.stageHear
  dsimp only
  split
  · exact h
  · exact h.setStage

theorem keeperHear {k slot f} (h : s₀.KeepsState s) : s₀.KeepsState (s.keeperHear k slot f) := by
  unfold Zone.keeperHear
  dsimp only
  split
  · exact h
  · exact h.setKeeper.setFld

theorem countRefusal {k cond} (h : s₀.KeepsState s) : s₀.KeepsState (s.countRefusal k cond) := .ite h.count.count h.count

theorem stageAccept {i k} (h : s₀.KeepsState s) : s₀.KeepsState (s.stageAccept i k) := h.setStage

/-! ### Machine/Switch -/

theorem statBy {k n} (h : s₀.KeepsState s) : s₀.KeepsState (s.statBy k n) := h.sw

theorem stat {k} (h : s₀.KeepsState s) : s₀.KeepsState (s.stat k) := h.statBy

theorem swCfgReject {p} (h : s₀.KeepsState s) : s₀.KeepsState (s.swCfgReject p) := h.event.count

theorem showBuf (h : s₀.KeepsState s) : s₀.KeepsState s.showBuf :=
  (h.setFld.when (fun _ h => h.event)).setFld.forEach fun _ _ h => h.setFld

theorem wred {p t colour} (h : s₀.KeepsState s) : s₀.KeepsState (s.wred p t colour).2 := .pair h.sw

theorem enqueue {i e t c} (h : s₀.KeepsState s) : s₀.KeepsState (s.enqueue i e t c) :=
  (h.shaped (fun _ h => h.setVoq)).stat.showBuf

theorem submit {i e t c session} (h : s₀.KeepsState s) : s₀.KeepsState (s.submit i e t c session) := by
  unfold Zone.submit
  dsimp only
  split
  · exact .ite h.stat (.ite h.enqueue.stat h.stat)
  · exact .ite h.stat (.ite (.ite (.ite h.wred.stat h.wred.enqueue) h.enqueue) (.ite h.stat (.ite h.enqueue h.stat)))

theorem ageQueue {i e t} (h : s₀.KeepsState s) : s₀.KeepsState (s.ageQueue i e t) :=
  .ite h (h.shaped (fun _ h => h.setVoq)).statBy.showBuf

theorem flushPort {p} {f : Nat → Bool} (h : s₀.KeepsState s) : s₀.KeepsState (s.flushPort p f) := by
  refine .showBuf (.settleCredit (h.shape.forEach fun _ _ h => .statBy ?_))
  dsimp only
  split
  · exact .ite (.parts (h.forEach fun _ _ h => h.setVoq).setEgress) (h.forEach fun _ _ h => h.setVoq)
  · exact h.forEach fun _ _ h => h.setVoq

theorem portCheck {p} (h : s₀.KeepsState s) : s₀.KeepsState (s.portCheck p) :=
  .ite h
    (.ite (.ite h h.sw.setFld.setFld.event)
       (.ite (.ite h.event.flushPort.flushPort.setFld h.event.flushPort.sw.setFld.setFld) h))

theorem swEnableChanged (h : s₀.KeepsState s) : s₀.KeepsState s.swEnableChanged := h.setFld.sw

theorem setEntry {w i l} (h : s₀.KeepsState s) : s₀.KeepsState (s.setEntry w i l) := h.sw

theorem setSgate {g x} (h : s₀.KeepsState s) : s₀.KeepsState (s.setSgate g x) := h.sw

theorem sgateEval {g} (h : s₀.KeepsState s) : s₀.KeepsState (s.sgateEval g) := by
  unfold Zone.sgateEval
  extract_lets x s₁ s₂
  have h₂ : s₀.KeepsState s₂ := by
    dsimp only [s₂]
    split
    · exact h
    · refine .ite (.setSgate (h.forEach fun _ _ h => ?_)) h
      split
      · exact h.setEntry
      · exact h
  exact .ite h₂.fresh.setSgate h₂.setSgate

theorem setMeter {m x} (h : s₀.KeepsState s) : s₀.KeepsState (s.setMeter m x) := h.sw

theorem setRecov {f x} (h : s₀.KeepsState s) : s₀.KeepsState (s.setRecov f x) := h.sw

theorem recovReset {f} (h : s₀.KeepsState s) : s₀.KeepsState (s.recovReset f) := h.setRecov.stat

theorem entryWritten {w i old d} (h : s₀.KeepsState s) : s₀.KeepsState (s.entryWritten w i old d) := by
  unfold Zone.entryWritten
  dsimp only
  split
  · exact .ite h.setSgate.setSgate h.setSgate
  · exact .ite h.setMeter h.setMeter
  · exact .ite (.ite h.sw h) (.ite h.setRecov h)
  · exact h.sw
  · exact h

theorem winWrite {w index} (h : s₀.KeepsState s) : s₀.KeepsState (s.winWrite w index).2.2 := by
  unfold Zone.winWrite
  dsimp only
  split
  · split
    · exact h
    · split
      · exact h
      · exact .triple h.setEntry
  · exact .iteSndSnd h h.setEntry.entryWritten

theorem winRead {w index} (h : s₀.KeepsState s) : s₀.KeepsState (s.winRead w index).2.2 :=
  .iteSndSnd h (.ite (h.forEach (fun _ _ h => h.wr)).wr (h.forEach (fun _ _ h => h.wr)))

theorem winClear {w index} (h : s₀.KeepsState s) : s₀.KeepsState (s.winClear w index).2.2 := by
  unfold Zone.winClear
  dsimp only
  split
  · split
    · exact h
    · exact .triple h.setEntry
  · split
    · exact h
    · split
      · exact .ite h.setEntry.setSgate h.setEntry.setSgate
      · exact h.setEntry.setMeter
      · exact .ite h.setEntry.setRecov h.setEntry
      · exact h.setEntry

theorem winOp {r} {x : Nat × Nat × Zone} (h : s₀.KeepsState x.2.2) : s₀.KeepsState (Zone.winOp r x) := h.complete

/-! ### Machine/Ingress -/

theorem setSecA {p n a} (h : s₀.KeepsState s) : s₀.KeepsState (s.setSecA p n a) := by
  unfold Zone.setSecA
  dsimp only
  split
  · exact h.sw.wr.wr.wr.wr.wr
  · exact h.sw.wr

theorem secIn {p f} (h : s₀.KeepsState s) : s₀.KeepsState (s.secIn p f).2 := by
  unfold Zone.secIn
  dsimp only
  split
  · exact h
  · split
    · exact h
    · split
      · exact .pair h.stat
      · split
        · exact h
        · exact .iteSnd h.stat (.iteSnd (.iteSnd h.stat h) (.iteSnd h.setSecA.stat (.iteSnd h.stat h.stat)))

theorem secOut {p f} (h : s₀.KeepsState s) : s₀.KeepsState (s.secOut p f).2 := by
  unfold Zone.secOut
  dsimp only
  split
  · exact h
  · split
    · exact h
    · split
      · exact h
      · exact .iteSnd h.stat (.stat (.ite h.setSecA.event h.setSecA))

theorem mirrorTo {m i c} (h : s₀.KeepsState s) : s₀.KeepsState (s.mirrorTo m i c) := .ite h.submit h

theorem mirror {kind source i c} (h : s₀.KeepsState s) : s₀.KeepsState (s.mirror kind source i c) :=
  h.forEach fun _ _ h => .ite h.mirrorTo h

theorem shiftHistory {f n b j} (h : s₀.KeepsState s) : s₀.KeepsState (s.shiftHistory f n b j).2 := .pair (.ite h.stat h)

theorem recover {f num} (h : s₀.KeepsState s) : s₀.KeepsState (s.recover f num).2 := by
  unfold Zone.recover
  extract_lets cfg len x drop
  have hdrop {z : Zone} (h : s₀.KeepsState z) : s₀.KeepsState (drop z).2 := h.stat
  split
  · exact hdrop h
  · refine .iteSnd h.setRecov.stat (.iteSnd (.iteSnd (hdrop h) ?_) (.iteSnd (hdrop h.stat) (.iteSnd (.iteSnd (hdrop h) ?_) ?_)))
    · exact (KeepsState.ite h h.stat).setRecov.stat
    · exact h.setRecov.stat.stat
    · exact .stat (.setRecov (.shiftHistory (List.foldlRecOn (motive := fun y : List Bool × Zone => s₀.KeepsState y.2) _ _
        (.ite h h.stat) fun _ h _ _ => h.shiftHistory)))

theorem meterRun {m len inColour} (h : s₀.KeepsState s) : s₀.KeepsState (s.meterRun m len inColour).2 :=
  .iteSnd h.setMeter (.iteSnd h.setMeter (.iteSnd h.setMeter h.setMeter))

theorem streamSteps {n len colour lenient} (h : s₀.KeepsState s) : s₀.KeepsState (s.streamSteps n len colour lenient).2 :=
  .iteSnd h
    (.iteSnd h.stat
       (.iteSnd
          (.ite (.setSgate (.stat (.ite h.sgateEval h))) (.stat (.ite h.sgateEval h)))
          (.iteSnd
             (.iteSnd (.stat (.stat (.meterRun (.ite h.sgateEval h)))) (.stat (.meterRun (.ite h.sgateEval h))))
             (.ite h.sgateEval h))))

theorem resolve {i f arrived stamp tsTag lenient} (h : s₀.KeepsState s) :
    s₀.KeepsState (s.resolve i f arrived stamp tsTag lenient).2 := by
  unfold Zone.resolve
  extract_lets tg len pg pcp tagVid vid dei colour dest queue copy s₁ srcE streamOf stream copy' s₂ sw2 r x s₃
  have h₁ : s₀.KeepsState s₁ := h.mirror
  have h₂ : s₀.KeepsState s₂ := by
    dsimp only [s₂, stream]
    split
    · exact .ite h₁.stat.mirror.mirrorTo h₁.stat.mirror
    · exact h₁
  have hr : s₀.KeepsState r.2 := by
    dsimp only [r]
    split
    · exact h₂.recover
    · exact h₂
  have hx : s₀.KeepsState x.2 := by
    dsimp only [x, stream]
    split
    · exact hr.streamSteps
    · exact hr
  split
  · exact h.stat
  · split
    · exact hr
    · split
      · exact hx
      · dsimp only [dest]
        split
        · exact .pair (.ite hx.stat.mirrorTo hx.stat)
        · exact .iteSnd hx.stat (.pair (.iteSnd hx.sw hx))

theorem setAcfQueue {q l} (h : s₀.KeepsState s) : s₀.KeepsState (s.setAcfQueue q l) := h.sw.wr

theorem acfSplit {c} (h : s₀.KeepsState s) : s₀.KeepsState (s.acfSplit c) := by
  unfold Zone.acfSplit
  dsimp only
  split
  · exact h.stat
  · exact h.setAcfQueue.statBy

theorem txStamp {p c skew} (h : s₀.KeepsState s) : s₀.KeepsState (s.txStamp p c skew) := by
  unfold Zone.txStamp
  dsimp only
  split
  · exact h
  · exact .ite h.tsqAppend h

theorem beginTx {p x skew} (h : s₀.KeepsState s) : s₀.KeepsState (s.beginTx p x skew) := by
  unfold Zone.beginTx
  dsimp only
  split
  · exact .txStamp (.setEgress (.shape (.secOut (.ite h h.mirror))))
  · exact .settleCredit (.setEgress (.shape (.secOut (.ite h h.mirror))))

theorem cutBegin {i f} (h : s₀.KeepsState s) : s₀.KeepsState (s.cutBegin i f) := by
  unfold Zone.cutBegin
  split
  · exact h
  · split
    · exact h
    · exact h.forEach fun _ _ h => .ite h.shape.setEgress h

theorem cutEnd {e good} (h : s₀.KeepsState s) : s₀.KeepsState (s.cutEnd e good) := by
  unfold Zone.cutEnd
  dsimp only
  split
  · exact h.mirror.setEgress
  · exact h.setEgress.stat
  · exact h

theorem dispatch {i r} (h : s₀.KeepsState s) : s₀.KeepsState (s.dispatch i r).2 :=
  List.foldlRecOn (motive := fun y : Bool × Zone => s₀.KeepsState y.2) _ _
    (List.foldlRecOn (motive := s₀.KeepsState) _ _ h fun _ h _ _ => h.cutEnd) fun _ h _ _ => .iteSnd h.cutEnd h.submit

theorem receive {i f fcsOk ticks} (h : s₀.KeepsState s) : s₀.KeepsState (s.receive i f fcsOk ticks) := by
  unfold Zone.receive
  dsimp only
  split
  · exact h.stat.forEach fun _ _ h => h.cutEnd
  · split
    · exact h.stat.forEach fun _ _ h => h.cutEnd
    · split
      · exact h.stat.forEach fun _ _ h => h.cutEnd
      · split
        · exact h.secIn.stat.statBy
        · split
          · exact h.secIn.stat.parts
          · split
            · exact h.secIn.stat.statBy.resolve.forEach fun _ _ h => h.cutEnd
            · exact h.secIn.stat.statBy.resolve.dispatch

/-! ### Machine/Egress -/

theorem setConn {e c} (h : s₀.KeepsState s) : s₀.KeepsState (s.setConn e c) := h.sw

theorem connect {i e t} (h : s₀.KeepsState s) : s₀.KeepsState (s.connect i e t) := by
  unfold Zone.connect
  dsimp only
  refine .setConn ?_
  split
  · exact h.shape.setEgress
  · exact h

theorem compactPlan {plca} (h : s₀.KeepsState s) : s₀.KeepsState (s.compactPlan plca) := by
  unfold Zone.compactPlan
  refine .sw (h.forEach fun _ _ h => ?_)
  extract_lets e
  split
  · exact h
  · split
    · exact h
    · exact h.connect.sw

theorem fullIteration {plca first} (h : s₀.KeepsState s) : s₀.KeepsState (s.fullIteration plca first) := by
  unfold Zone.fullIteration
  dsimp only
  refine h.forEach fun _ _ h => ?_
  split
  · exact h
  · exact .ite h.connect.sw h.connect

theorem fullPlan {plca} (h : s₀.KeepsState s) : s₀.KeepsState (s.fullPlan plca) := h.forEach fun _ _ h => h.fullIteration

theorem choosePlan (h : s₀.KeepsState s) : s₀.KeepsState s.choosePlan := .ite h.setFlag.sw h

theorem dropFetch {e x} (h : s₀.KeepsState s) : s₀.KeepsState (s.dropFetch e x) :=
  .showBuf (.settleCredit (.setConn (.setEgress (.shape (.ite h.setVoq h)))))

theorem endTx {e x} (h : s₀.KeepsState s) : s₀.KeepsState (s.endTx e x) := h.shape.setEgress.settleCredit.stat.stat.statBy

theorem deliverTx {e x} (h : s₀.KeepsState s) : s₀.KeepsState (s.deliverTx e x) := .endTx (.ite h h.mirror)

theorem avtpDrain (h : s₀.KeepsState s) : s₀.KeepsState s.avtpDrain := by
  unfold Zone.avtpDrain
  split
  · exact .ite h.deliverTx.acfSplit h
  · exact h

theorem moveCells {ecc} (h : s₀.KeepsState s) : s₀.KeepsState (s.moveCells ecc) := by
  unfold Zone.moveCells
  dsimp only
  refine h.forEach fun _ _ h => ?_
  split
  · split
    · exact h.dropFetch.count.report
    · exact .ite
          (.showBuf (.setConn (.setEgress (.setVoq (.shape (.ite h.count h))))))
          (.setConn (.setEgress (.ite h.count h)))
  · exact h.setConn
  · exact h

theorem ageFetched {plca} (h : s₀.KeepsState s) : s₀.KeepsState (s.ageFetched plca) := by
  unfold Zone.ageFetched
  refine h.forEach fun _ _ h => ?_
  split
  · exact h
  · split
    · exact h.forEach fun _ _ h => h.ageQueue
    · exact h

theorem crossbar {plca ecc} (h : s₀.KeepsState s) : s₀.KeepsState (s.crossbar plca ecc) := by
  have h₁ : s₀.KeepsState (s.choosePlan.ageFetched plca) := h.choosePlan.ageFetched
  unfold Zone.crossbar
  exact .avtpDrain (.moveCells (.ite h₁.fullPlan h₁.compactPlan))

theorem counterRead {p off} (h : s₀.KeepsState s) : s₀.KeepsState (s.counterRead p off).2 := by
  unfold Zone.counterRead
  dsimp only
  split
  · exact .pair h.sw
  · split
    · exact .pair h.sw
    · exact h

theorem showLpi {p} (h : s₀.KeepsState s) : s₀.KeepsState (s.showLpi p) := h.setFlag

theorem showFigures (h : s₀.KeepsState s) : s₀.KeepsState s.showFigures := h.setFld.setFlag.forEach fun _ _ h => h.showLpi

theorem showPlca {p} (h : s₀.KeepsState s) : s₀.KeepsState (s.showPlca p) := .ite h.setFlag.setFld h

theorem plcaTurn {p} (h : s₀.KeepsState s) : s₀.KeepsState (s.plcaTurn p) := .ite h.sw h

theorem phyUp {p speed leader eee} (h : s₀.KeepsState s) : s₀.KeepsState (s.phyUp p speed leader eee) :=
  .ite h h.setFld.setFld.setFld.event.sw.showLpi.portCheck

theorem dropMasters {p} (h : s₀.KeepsState s) : s₀.KeepsState (s.dropMasters p) := h.parts

theorem phyDown {p} (h : s₀.KeepsState s) : s₀.KeepsState (s.phyDown p) :=
  .ite
    (.portCheck
       (.showLpi (.dropMasters (.ite h.setFld.setFld.setFld.event.count.breakRing h.setFld.setFld.setFld.event.count))))
    h

theorem showHold {p} (h : s₀.KeepsState s) : s₀.KeepsState (s.showHold p) := by
  unfold Zone.showHold
  split
  · exact h.setFld
  · exact h

/-! ### Machine/Monitor -/

theorem setCore {n x} (h : s₀.KeepsState s) : s₀.KeepsState (s.setCore n x) := h.parts

theorem setSafety {x} (h : s₀.KeepsState s) : s₀.KeepsState (s.setSafety x) := h.parts

theorem applyDemand (h : s₀.KeepsState s) : s₀.KeepsState s.applyDemand :=
  h.setFlag.setFlag.forEach fun _ _ h => .ite h.loadDemand (.ite h.loadRelease h)

theorem setAlarm {a x} (h : s₀.KeepsState s) : s₀.KeepsState (s.setAlarm a x) := h.setSafety

theorem beginSignals (h : s₀.KeepsState s) : s₀.KeepsState s.beginSignals :=
  h.forEach fun _ _ h => .ite (.ite h.setFld.setAlarm h.setFld.setAlarm.event) h

theorem showLog (h : s₀.KeepsState s) : s₀.KeepsState s.showLog := by
  unfold Zone.showLog
  exact h.setFld.setFlag.setFlag.setFld.setFld.setFld.setFld.setFld.when fun _ h => h.setFld

theorem appendLog {e} (h : s₀.KeepsState s) : s₀.KeepsState (s.appendLog e) := .ite h.setSafety.showLog h.setFld.count

theorem logPop (h : s₀.KeepsState s) : s₀.KeepsState s.logPop := h.setSafety.showLog

theorem demandReset {n} (h : s₀.KeepsState s) : s₀.KeepsState (s.demandReset n) := by
  unfold Zone.demandReset
  dsimp only
  split
  · exact h
  · exact h.setSafety.setFld

theorem react {n r toA toB} (h : s₀.KeepsState s) : s₀.KeepsState (s.react n r toA toB) :=
  .ite h (.ite h (.beginSignals (.applyDemand (.ite h.setSafety.demandReset h.setSafety))))

theorem reactActive (h : s₀.KeepsState s) : s₀.KeepsState s.reactActive := h.forEach fun _ _ h => h.react

theorem takeReport {r toA toB} (h : s₀.KeepsState s) : s₀.KeepsState (s.takeReport r toA toB) :=
  .react
    (.postValue
       (.appendLog
          (.countBy (.when (.count (.setFld (.setFldBit (.setSafety (.ite h.setSafety h))))) (fun _ h => h.count)))))

theorem clearFaultEvent {v} (h : s₀.KeepsState s) : s₀.KeepsState (s.clearFaultEvent v) := h.setFld.setSafety

theorem demandRelease (h : s₀.KeepsState s) : s₀.KeepsState s.demandRelease := .ite h.count h.setSafety.applyDemand

theorem alarmTest {a} (h : s₀.KeepsState s) : s₀.KeepsState (s.alarmTest a) := .ite h.count h.setAlarm.setFld.beginSignals

/-! ### Machine/HingeBase -/

theorem hingeReport {j} (h : s₀.KeepsState s) : s₀.KeepsState (s.hingeReport j) := .ite h.report h

theorem hingeError {j r} (h : s₀.KeepsState s) : s₀.KeepsState (s.hingeError j r) :=
  .ite h.hingeReport.setHinge.count h.hingeReport.setFld.count

theorem discardLine {j l cause} (h : s₀.KeepsState s) : s₀.KeepsState (s.discardLine j l cause) :=
  .ite h.setHinge (.ite h.setHinge.count.setHinge h.setHinge.count.setFld.count)

theorem lineWritten {j a n} (h : s₀.KeepsState s) : s₀.KeepsState (s.lineWritten j a n) :=
  h.forEach fun _ _ h => h.discardLine

theorem errPop {j} (h : s₀.KeepsState s) : s₀.KeepsState (s.errPop j) := h.setHinge

theorem discPop {j} (h : s₀.KeepsState s) : s₀.KeepsState (s.discPop j) := h.setHinge

theorem hingePost {j t} (h : s₀.KeepsState s) : s₀.KeepsState (s.hingePost j t) := .hingeEnter (.ite h.lineWritten h)

theorem hingeRequest {j t} (h : s₀.KeepsState s) : s₀.KeepsState (s.hingeRequest j t) := h.hingeEnter

theorem hingeAdmit {j inbound posted} (h : s₀.KeepsState s) : s₀.KeepsState (s.hingeAdmit j inbound posted) := by
  unfold Zone.hingeAdmit
  dsimp only
  split
  · exact h
  · exact .ite h.setHinge.respond h.setHinge

theorem copyEnd {state code} (h : s₀.KeepsState s) : s₀.KeepsState (s.copyEnd state code) := h.setFld.setFld.sendNotice

theorem copyStart {src} (h : s₀.KeepsState s) : s₀.KeepsState (s.copyStart src) :=
  .ite h.count
    (.ite h.setFlag.setFld.copyEnd (.ite h.setFlag.setFld.setFld.setFld.setFldBit h.setFlag.setFld.setFld.setFld))

/-! ### Machine/Worlds -/

theorem setHart {j x} (h : s₀.KeepsState s) : s₀.KeepsState (s.setHart j x) := h.parts

theorem setMemByte {a b} (h : s₀.KeepsState s) : s₀.KeepsState (s.setMemByte a b) := h.parts

theorem unreserve {a} (h : s₀.KeepsState s) : s₀.KeepsState (s.unreserve a) :=
  h.forEach fun _ _ h => by
    dsimp only
    split
    · exact .ite h.setCore h
    · exact h

theorem putByte {a b} (h : s₀.KeepsState s) : s₀.KeepsState (s.putByte a b) :=
  .ite h.setMemByte.unreserve.setMemByte h.setMemByte.unreserve

theorem storeByte {a b} (h : s₀.KeepsState s) : s₀.KeepsState (s.storeByte a b) := by
  unfold Zone.storeByte
  split
  · exact h.setCore
  · exact h.putByte

theorem storeBytes {a l} (h : s₀.KeepsState s) : s₀.KeepsState (s.storeBytes a l) := by
  induction l generalizing s a with
  | nil => exact h
  | cons b r ih => exact ih h.storeByte

theorem memWrite {a l} (h : s₀.KeepsState s) : s₀.KeepsState (s.memWrite a l) := h.storeBytes.lineWritten

theorem h0Write {src a l} (h : s₀.KeepsState s) : s₀.KeepsState (s.h0Write src a l) := .ite h.hingePost h.hingeError

theorem dmaStore {src a l} (h : s₀.KeepsState s) : s₀.KeepsState (s.dmaStore src a l).2 := by
  unfold Zone.dmaStore
  split
  · split
    · exact .iteSnd h.sendNotice h
    · exact h
  · exact .iteSnd h.h0Write h.memWrite

theorem openBytes {n} (h : s₀.KeepsState s) : s₀.KeepsState (s.openBytes n).2 := by
  induction n generalizing s with
  | zero => exact h
  | succ n ih => exact ih h.fresh

theorem dmaLoad {a n} (h : s₀.KeepsState s) : s₀.KeepsState (s.dmaLoad a n).2 := .iteSnd h.openBytes h

theorem refuse_ {c src wr a} (h : s₀.KeepsState s) : s₀.KeepsState (s.refuse_ c src wr a) :=
  .ite
    (.report (.count (.ite h.setFld.setFld.setFlag.setFlag.setFld h)))
    (.count (.ite h.setFld.setFld.setFlag.setFlag.setFld h))

theorem regionCheck {src rd wr a n} (h : s₀.KeepsState s) : s₀.KeepsState (s.regionCheck src rd wr a n).2 := by
  unfold Zone.regionCheck
  split
  · exact h
  · exact .iteSnd h h.refuse_

theorem setTu {t} (h : s₀.KeepsState s) : s₀.KeepsState (s.setTu t) := by
  unfold Zone.setTu
  dsimp only
  split
  · exact h.parts.setFld.setFlag.setFld.setFld.setFld.setFld.setFld.setFlag.setFlag.setFld
  · exact h.parts.setFld.setFlag.setFld.wr.wr.wr

theorem tuFault {f} (h : s₀.KeepsState s) : s₀.KeepsState (s.tuFault f) := .ite h.count.setTu h.count.setFld.count

theorem tuPop (h : s₀.KeepsState s) : s₀.KeepsState s.tuPop := .ite h h.setTu

theorem walkRead {a n walkUe} (h : s₀.KeepsState s) : s₀.KeepsState (s.walkRead a n walkUe).2 :=
  .iteSnd h.regionCheck h.regionCheck

theorem walkFrom {src va wr walkUe fuel a lvl} (h : s₀.KeepsState s) :
    s₀.KeepsState (s.walkFrom src va wr walkUe fuel a lvl).2.2 := by
  induction fuel generalizing s a lvl with
  | zero => exact h
  | succ fuel ih =>
    unfold Zone.walkFrom
    extract_lets x
    have hx : s₀.KeepsState x.2 := h.walkRead
    split
    · exact hx
    · exact .iteSndSnd hx (.iteSndSnd hx (.iteSndSnd (.iteSndSnd hx (ih hx))
        (.iteSndSnd hx (.iteSndSnd hx (.iteSndSnd hx (.iteSndSnd hx hx))))))

theorem walk {src va wr walkUe} (h : s₀.KeepsState s) : s₀.KeepsState (s.walk src va wr walkUe).2.2 := by
  refine Ends₂.zone ?_
  generalize hf : @Zone.walk = f
  unfold Zone.walk at hf
  subst hf
  beta_reduce
  extract_lets w x
  have hx : Ends s₀ x := (Ends.of h.walkRead :)
  split
  · exact .triple hx.zone
  · extract_lets c mode
    split
    · exact .triple hx.zone
    · split
      · exact .triple hx.zone
      · split
        · exact .triple hx.zone
        · exact (Ends₂.of hx.zone.walkFrom :)

theorem cacheAdd {e} (h : s₀.KeepsState s) : s₀.KeepsState (s.cacheAdd e) := .ite h.setTu h.fresh.setTu

theorem translate {master src va wr walkUe} (h : s₀.KeepsState s) :
    s₀.KeepsState (s.translate master src va wr walkUe).2 := by
  refine Ends.zone ?_
  generalize hf : @Zone.translate = f
  unfold Zone.translate at hf
  subst hf
  beta_reduce
  extract_lets hit stale y s₁ s₂ x
  have hy : Ends s₀ y := by
    dsimp only [y, hit]
    split
    · split
      · exact .pair h.fresh
      · exact .pair h
    · exact .pair h
  have hx : Ends₂ s₀ x := (Ends₂.of (hy.zone.count (p := pTU) (f := TU.TC_MISSES_COUNT)).walk :)
  obtain ⟨x', hx'⟩ : ∃ x', x' = x := ⟨_, rfl⟩
  rw [← hx'] at hx ⊢
  split
  · exact .pair h
  · split
    · exact .pair hy.zone
    · split
      · exact .pair (.ite hx.zone hx.zone.cacheAdd)
      · exact .pair hx.zone
      · exact .pair hx.zone.tuFault

theorem dmaPieces {master src wr walkUe fuel va n} (h : s₀.KeepsState s) :
    s₀.KeepsState (s.dmaPieces master src wr walkUe fuel va n).2.2 := by
  induction fuel generalizing s va n with
  | zero => exact h
  | succ fuel ih =>
    unfold Zone.dmaPieces
    split
    · exact h
    · dsimp only
      split
      · exact h.translate
      · have hx := h.translate (master := master) (src := src) (va := va) (wr := wr) (walkUe := walkUe)
        exact .iteSndSnd hx.regionCheck (.iteSndSnd hx.regionCheck (.iteSndSnd hx.regionCheck (ih hx.regionCheck)))

theorem dmaRead {master src va n} (h : s₀.KeepsState s) : s₀.KeepsState (s.dmaRead master src va n).2.2 :=
  .iteSndSnd h.dmaPieces
    (List.foldlRecOn (motive := fun y : List Byte × Zone => s₀.KeepsState y.2) _ _ h.dmaPieces fun _ h _ _ => h.dmaLoad)

theorem dmaWrite {master src va l} (h : s₀.KeepsState s) : s₀.KeepsState (s.dmaWrite master src va l).2 :=
  List.foldlRecOn (motive := fun y : List Byte × Nat × Zone => s₀.KeepsState y.2.2) _ _ h.dmaPieces fun _ h _ _ => h.dmaStore

theorem invalidate {kind src addr} (h : s₀.KeepsState s) : s₀.KeepsState (s.invalidate kind src addr) := .ite h.count h.setTu

theorem switchWorld {j w} (h : s₀.KeepsState s) : s₀.KeepsState (s.switchWorld j w) := .ite h h.setHart.count

theorem setGateState {b v} (h : s₀.KeepsState s) : s₀.KeepsState (s.setGateState b v) := h.setFld

theorem gateStatus {w v} (h : s₀.KeepsState s) : s₀.KeepsState (s.gateStatus w v) := h.setFld

theorem gateReq {w block action} (h : s₀.KeepsState s) : s₀.KeepsState (s.gateReq w block action) :=
  .ite h.gateStatus (.ite h.gateStatus.count (.ite h.gateStatus (.ite h.gateStatus h.gateStatus.setGateState.parts)))

theorem gateDone {block} (h : s₀.KeepsState s) : s₀.KeepsState (s.gateDone block) := by
  unfold Zone.gateDone
  dsimp only
  split
  · exact h
  · exact h.setGateState.parts

theorem secureHoldWrite {w mask set} (h : s₀.KeepsState s) : s₀.KeepsState (s.secureHoldWrite w mask set) :=
  .ite h.count h.setFld

/-! ### Machine/Rings -/

@[simp] theorem busPage_ne_zero (c : ℕ) : busPage c ≠ 0 := by
  unfold busPage
  split <;> simp

theorem setRing {c r} (h : s₀.KeepsState s) : s₀.KeepsState (s.setRing c r) := h.parts

theorem showRingHead {c} (h : s₀.KeepsState s) : s₀.KeepsState (s.showRingHead c) :=
  .ite (h.wr.wr.forEach (fun _ _ h => h.wr)) (.ite h.wr.wr.wr (h.wr.forEach (fun _ _ h => h.wr)))

theorem ringLose {c} (h : s₀.KeepsState s) : s₀.KeepsState (s.ringLose c) := h.count.event

theorem ringStore {c} {mk : ℕ → List Sys2Proof.Byte} (h : s₀.KeepsState s) : s₀.KeepsState (s.ringStore c mk) :=
  .ite h.count
    (.ite h.ringLose (.ite (.ite h.dmaWrite.ringLose h.dmaWrite.setRing.setFld) h.setRing.setFld.showRingHead))

theorem ringEmpty {c} (h : s₀.KeepsState s) : s₀.KeepsState (s.ringEmpty c) := h.setRing.setFld.setFld.showRingHead

theorem rxAck {c w v} (h : s₀.KeepsState s) : s₀.KeepsState (s.rxAck c w v) :=
  .ite (h.setFld.setFld (by simp)).showRingHead (.ite h.count h)

theorem busByte {a} (h : s₀.KeepsState s) : s₀.KeepsState (s.busByte a).2 := by
  unfold Zone.busByte
  split
  · exact h
  · exact h.fresh

theorem busBytes {a n} (h : s₀.KeepsState s) : s₀.KeepsState (s.busBytes a n).2 := by
  induction n generalizing s a with
  | zero => exact h
  | succ n ih => exact ih h.busByte

theorem busWrite {a l} (h : s₀.KeepsState s) : s₀.KeepsState (s.busWrite a l) := by
  induction l generalizing s a with
  | nil => exact h
  | cons b r ih => exact ih (h.parts)

/-! ### Machine/Can -/

theorem setCan {c x} (h : s₀.KeepsState s) : s₀.KeepsState (s.setCan c x) := h.parts.setFld.setFlag

theorem canFail {c r cause field dup} (h : s₀.KeepsState s) : s₀.KeepsState (s.canFail c r cause field dup) := by
  unfold Zone.canFail
  dsimp only
  split
  · exact h.count.setFld.completeFail
  · exact h

theorem canAbort {c} (h : s₀.KeepsState s) : s₀.KeepsState (s.canAbort c).2 :=
  .pair (h.setCan.forEach (fun _ _ h => h.completeAbort))

theorem canNotAlone {c} (h : s₀.KeepsState s) : s₀.KeepsState (s.canNotAlone c) := h.setCan.setFld

theorem canEnterBusOff {c} (h : s₀.KeepsState s) : s₀.KeepsState (s.canEnterBusOff c) :=
  h.setFld.event.count.setCan.forEach fun _ _ h => h.canFail

theorem canErrors {c tec rec_} (h : s₀.KeepsState s) : s₀.KeepsState (s.canErrors c tec rec_) :=
  .ite h.setFld.setFld
    (.ite h.setFld.setFld.canEnterBusOff
       (.ite (h.setFld.setFld.setFld.when (fun _ h => h.event)) h.setFld.setFld.setFld))

theorem canActive {c} (h : s₀.KeepsState s) : s₀.KeepsState (s.canActive c) :=
  h.setFld.setFld.setFld.setCan.forEach fun _ _ h => h.completeOk

theorem canReceived {c} (h : s₀.KeepsState s) : s₀.KeepsState (s.canReceived c) := .ite h.fresh.canErrors h.canErrors

theorem canReceive {c f ticks} (h : s₀.KeepsState s) : s₀.KeepsState (s.canReceive c f ticks) :=
  .ite h
    (.ite h.count
       (.ite h.canReceived.canNotAlone.heardBus.count
          (.ite h.canReceived.canNotAlone.heardBus.count.event h.canReceived.canNotAlone.heardBus.ringStore)))

theorem canSource {c compose b} (h : s₀.KeepsState s) : s₀.KeepsState (s.canSource c compose b).2 := h.busBytes

theorem txStart {c r variant arg} (h : s₀.KeepsState s) : s₀.KeepsState (s.txStart c r variant arg) :=
  .ite h.canFail
    (.ite h.canFail
       (.ite h.canFail (.ite h.canFail (.ite h.canSource.canFail (.ite h.canSource.canFail h.canSource.setCan)))))

theorem canArbitrate {c} (h : s₀.KeepsState s) : s₀.KeepsState (s.canArbitrate c) := by
  unfold Zone.canArbitrate
  dsimp only
  split
  · exact h
  · split
    · exact h
    · exact h.setCan

theorem canEnd {c e} (h : s₀.KeepsState s) : s₀.KeepsState (s.canEnd c e) := by
  unfold Zone.canEnd
  dsimp only
  split
  · exact h
  · split
    · split
      · exact h.setCan.canErrors.canNotAlone
      · split
        · exact h.setCan.canErrors.canNotAlone.count.setFld.setFld.completeOk
        · exact h.setCan.canErrors.canNotAlone.count.setFld.setFld
    · exact .ite h.setCan.setCan h.setCan.canFail
    · exact .canErrors
          (.canFail
             (.ite
                (.ite
                   (h.setCan.when (fun _ h => h.event.count)).count.setCan.setFld.event
                   (h.setCan.when (fun _ h => h.event.count)).count.setCan)
                (.ite
                   (h.setCan.when (fun _ h => h.event.count)).canNotAlone
                   (h.setCan.when (fun _ h => h.event.count)))))

theorem canExpire {c} (h : s₀.KeepsState s) : s₀.KeepsState (s.canExpire c) := h.setCan.forEach fun _ _ h => h.canFail

theorem tmReference {c idle} (h : s₀.KeepsState s) : s₀.KeepsState (s.tmReference c idle) :=
  .ite h (.ite h.setCan.setCan.count h.setCan.count.event)

theorem chanCfgWrite {c v} (h : s₀.KeepsState s) : s₀.KeepsState (s.chanCfgWrite c v) :=
  .ite h.wr.canNotAlone (.ite h.wr.canActive h.wr)

theorem canTimingWrite {c off v} (h : s₀.KeepsState s) : s₀.KeepsState (s.canTimingWrite c off v) := .ite h.event h.wr

theorem canOp {c r} {f : Zone → Zone} (h : s₀.KeepsState s) (hf : ∀ z, s₀.KeepsState z → s₀.KeepsState (f z)) :
    s₀.KeepsState (s.canOp c r f) :=
  .ite h.complete (hf _ h)

theorem opTxStart {c r variant arg} (h : s₀.KeepsState s) : s₀.KeepsState (s.opTxStart c r variant arg) :=
  h.canOp fun _ h => h.txStart

theorem opRecover {c r} (h : s₀.KeepsState s) : s₀.KeepsState (s.opRecover c r) :=
  h.canOp fun _ h => .ite h.completeFail h.setCan

theorem opAbortPending {c r} (h : s₀.KeepsState s) : s₀.KeepsState (s.opAbortPending c r) :=
  h.canOp fun _ h => h.canAbort.completeOk

/-! ### Machine/Keyring -/

theorem setPageByte {p off b} (h : s₀.KeepsState s) (hp : p ≠ 0 := by simp) : s₀.KeepsState (s.setPageByte p off b) :=
  h.wr (by omega)

theorem setPageBytes {p off l} (h : s₀.KeepsState s) (hp : p ≠ 0 := by simp) : s₀.KeepsState (s.setPageBytes p off l) := by
  induction l generalizing s off with
  | nil => exact h
  | cons b r ih => exact ih (h.setPageByte hp)

theorem freshBytes {n} (h : s₀.KeepsState s) : s₀.KeepsState (s.freshBytes n).2 := by
  induction n generalizing s with
  | zero => exact h
  | succ n ih => exact ih h.fresh

theorem showSlot {n k} (h : s₀.KeepsState s) : s₀.KeepsState (s.showSlot n k) :=
  .setPageBytes (.setFld (.setFld (.setFld (.setFld (.setFld (.setFld (.setFld (.ite h h.setFld.setFld.setFld))))))))

theorem setKeyring {f : KeyringSt → KeyringSt} (h : s₀.KeepsState s) : s₀.KeepsState (s.setKeyring f) := h.parts

theorem setKeySlot {n k} (h : s₀.KeepsState s) : s₀.KeepsState (s.setKeySlot n k) :=
  .ite h.setKeyring.showSlot.setFld.setFlag h.setKeyring.showSlot.setFld

theorem showEngine (h : s₀.KeepsState s) : s₀.KeepsState s.showEngine := h.setFlag.setFld

theorem writeRecord (h : s₀.KeepsState s) : s₀.KeepsState s.writeRecord := h.setKeyring.setFld

theorem endJob {j code} (h : s₀.KeepsState s) : s₀.KeepsState (s.endJob j code) :=
  .ite h.setFld.setFld.count.count h.setFld.setFld.count

theorem opWrite {n src word} (h : s₀.KeepsState s) : s₀.KeepsState (s.opWrite n src word) :=
  .ite h.parts (.ite h.count (.ite h.endJob (.ite h.endJob h.parts.setFld.showEngine)))

theorem endJobs {p : Job → Bool} {code} (h : s₀.KeepsState s) : s₀.KeepsState (s.endJobs p code) :=
  (h.setKeyring.forEach (fun _ _ h => h.endJob)).showEngine

theorem jobRun {j} (h : s₀.KeepsState s) : s₀.KeepsState (s.jobRun j).2 := by
  unfold Zone.jobRun
  dsimp only
  split
  · exact h
  · exact .iteSnd h h
  · exact h
  · exact h
  · exact h
  · exact h
  · exact .iteSnd h.setKeyring (.iteSnd h.setKeyring h.freshBytes.setKeyring)
  · exact h
  · exact h
  · exact h
  · exact h.freshBytes
  · exact h
  · exact h
  · exact h

theorem countUse {j} (h : s₀.KeepsState s) : s₀.KeepsState (s.countUse j).2 := by
  unfold Zone.countUse
  dsimp only
  split
  · exact h
  · exact .iteSnd h.setKeySlot.setKeyring h.setKeySlot

theorem jobBegin (h : s₀.KeepsState s) : s₀.KeepsState s.jobBegin := by
  unfold Zone.jobBegin
  dsimp only
  split
  · exact h
  · split
    · exact h
    · exact .ite
          (.showEngine
             (.endJob
                (.ite
                   (.ite h.setKeyring.setFldBit h.setKeyring)
                   (.setKeyring (.ite h.setKeyring.setFldBit h.setKeyring)))))
          (.showEngine
             (.setKeyring
                (.countUse
                   (.jobRun
                      (.ite
                         (.ite h.setKeyring.setFldBit h.setKeyring)
                         (.setKeyring (.ite h.setKeyring.setFldBit h.setKeyring)))))))

theorem commitChange (h : s₀.KeepsState s) : s₀.KeepsState s.commitChange := by
  unfold Zone.commitChange
  split
  · exact h
  · split
    · exact h
    · exact h.setKeySlot.setKeyring

theorem recordWrite (h : s₀.KeepsState s) : s₀.KeepsState s.recordWrite := by
  unfold Zone.recordWrite
  dsimp only
  split
  · exact h
  · refine .writeRecord ?_
    split
    · exact .ite h.commitChange.setKeyring h
    · exact h

theorem jobComplete (h : s₀.KeepsState s) : s₀.KeepsState s.jobComplete := by
  unfold Zone.jobComplete
  split
  · exact h
  · refine .ite h ?_
    extract_lets n test s₁ s₂ s₃ s₄ s₅
    have h₂ : s₀.KeepsState s₂ := (KeepsState.ite h h.commitChange : s₀.KeepsState s₁).setKeyring
    have h₃ : s₀.KeepsState s₃ := by
      dsimp only [s₃]
      split
      · exact h₂.setPageBytes
      · exact h₂
    have h₄ : s₀.KeepsState s₄ := by
      dsimp only [s₄]
      split
      · exact h₃.setPageBytes
      · exact h₃
    exact .showEngine (.endJob (.ite h₂ h₄.setFld))

theorem rollSet {set} (h : s₀.KeepsState s) : s₀.KeepsState (s.rollSet set).2.2 :=
  List.foldlRecOn (motive := fun x : Nat × Nat × Zone => s₀.KeepsState x.2.2) _ _ h fun _ h _ _ =>
    .iteSndSnd h (.iteSndSnd h.setKeySlot.setKeyring.count h.count)

theorem restoreKeys {good} (h : s₀.KeepsState s) : s₀.KeepsState (s.restoreKeys good) := by
  unfold Zone.restoreKeys
  dsimp only
  split
  · exact h.parts.setFld
  · exact .ite (h.parts.forEach (fun _ _ h => h.setKeySlot)).setFld h.parts.setFld

theorem deriveKeys (h : s₀.KeepsState s) : s₀.KeepsState s.deriveKeys :=
  .ite h.setFld.setPageBytes.parts h.setFld.setPageBytes.parts.setPageBytes.setPageBytes

theorem expireKeys (h : s₀.KeepsState s) : s₀.KeepsState s.expireKeys := by
  unfold Zone.expireKeys
  exact (h.forEach fun _ _ h => h.setKeySlot).setKeyring

theorem saInstall {p n sci an slot nextPn} (h : s₀.KeepsState s) : s₀.KeepsState (s.saInstall p n sci an slot nextPn) :=
  .ite h.setSecA h.event

/-! ### Machine/Log -/

theorem stageFull (h : s₀.KeepsState s) : s₀.KeepsState s.stageFull := h.setFld.event

theorem appendRecord {n kind time source payload} (h : s₀.KeepsState s) :
    s₀.KeepsState (s.appendRecord n kind time source payload) :=
  h.setStream.setNextSeq

theorem takeRecord {n kind time source payload} (h : s₀.KeepsState s) :
    s₀.KeepsState (s.takeRecord n kind time source payload) :=
  .appendRecord (.ite h h.appendRecord.setStream)

theorem frameIntake (h : s₀.KeepsState s) : s₀.KeepsState s.frameIntake := by
  unfold Zone.frameIntake
  dsimp only
  split
  · exact h
  · exact .ite h (.ite h.deliverTx.count (.ite h.deliverTx.setFld.takeRecord h.stageFull))

theorem postCommit {n src len} (h : s₀.KeepsState s) : s₀.KeepsState (s.postCommit n src len) :=
  .ite h.count h.setStream.setFld

theorem postTaken {n} (h : s₀.KeepsState s) : s₀.KeepsState (s.postTaken n) := by
  unfold Zone.postTaken
  dsimp only
  split
  · exact h
  · exact .ite h.setStream.setFld.setFld.setFld.takeRecord
        (h.setStream.setFld.setFld.count.when (fun _ h => h.stageFull))

theorem moduleRecord (h : s₀.KeepsState s) : s₀.KeepsState s.moduleRecord := by
  unfold Zone.moduleRecord
  dsimp only
  split
  · exact h
  · split
    · exact h
    · split
      · exact h.parts.loseRecord
      · exact .ite (.takeRecord (.ite h.parts h.parts.takeRecord.parts)) h.parts.loseRecord.stageFull

theorem markStreams {op kind cause} (h : s₀.KeepsState s) : s₀.KeepsState (s.markStreams op kind cause) :=
  h.forEach fun _ _ h => .ite h h.takeRecord.setStream

theorem snapshot {op} (h : s₀.KeepsState s) : s₀.KeepsState (s.snapshot op) := .ite h.markStreams.event h

@[simp] theorem extentPage_ne_zero (k : ℕ) : extentPage k ≠ 0 := by simp [extentPage]

theorem setExtent {k a b active} (h : s₀.KeepsState s) : s₀.KeepsState (s.setExtent k a b active) :=
  h.wr.wr.wr.wr.wr.setFldBit

theorem freeze {before} (h : s₀.KeepsState s) : s₀.KeepsState (s.freeze before).2 := by
  unfold Zone.freeze
  split
  · exact h
  · split
    · exact h
    · exact .pair h.markStreams.setExtent.event

theorem freezeRelease {mask} (h : s₀.KeepsState s) : s₀.KeepsState (s.freezeRelease mask) :=
  .ite (h.forEach (fun _ _ h => h.setExtent)) (h.forEach (fun _ _ h => h.setExtent)).setFld

theorem storeError (h : s₀.KeepsState s) : s₀.KeepsState s.storeError := h.setFld.event

theorem logLinkDown (h : s₀.KeepsState s) : s₀.KeepsState s.logLinkDown := .ite h h.parts.setFld.storeError

theorem doorbellWrite {a v} (h : s₀.KeepsState s) : s₀.KeepsState (s.doorbellWrite a v) :=
  .ite h.dmaWrite h.dmaWrite.logLinkDown

theorem nvmeCommand {id lba blocks fua} (h : s₀.KeepsState s) : s₀.KeepsState (s.nvmeCommand id lba blocks fua).2 :=
  h.freshBytes

theorem setSealed {k x} (h : s₀.KeepsState s) : s₀.KeepsState (s.setSealed k x) := h.parts

theorem placeSegment {k x} (h : s₀.KeepsState s) : s₀.KeepsState (s.placeSegment k x) := by
  unfold Zone.placeSegment
  dsimp only
  split
  · exact h.setFld.event
  · exact h.parts.setSealed.setFld

theorem issueWrite {k x a} (h : s₀.KeepsState s) : s₀.KeepsState (s.issueWrite k x a) :=
  h.nvmeCommand.dmaWrite.setSealed.parts.doorbellWrite

theorem storeStep (h : s₀.KeepsState s) : s₀.KeepsState s.storeStep := by
  unfold Zone.storeStep
  split
  · exact h
  · split
    · exact h
    · split
      · exact h
      · split
        · exact h.placeSegment
        · exact .ite h.issueWrite h

theorem nvmeSubmit (h : s₀.KeepsState s) : s₀.KeepsState s.nvmeSubmit := h.forEach fun _ _ h => h.storeStep

theorem segmentStored {c} (h : s₀.KeepsState s) : s₀.KeepsState (s.segmentStored c) := by
  unfold Zone.segmentStored
  dsimp only
  split
  · exact h
  · exact .ite h.parts.count h

theorem nvmeCompletion {id status} (h : s₀.KeepsState s) : s₀.KeepsState (s.nvmeCompletion id status) := by
  unfold Zone.nvmeCompletion
  dsimp only
  split
  · exact h
  · exact .ite h.parts.doorbellWrite.segmentStored h.parts.doorbellWrite.parts.setFld.setFld.storeError

theorem storeResume (h : s₀.KeepsState s) : s₀.KeepsState s.storeResume := .ite h.parts.setFld h

/-! ### Machine/Lin -/

theorem setLin {c x} (h : s₀.KeepsState s) : s₀.KeepsState (s.setLin c x) := h.parts

theorem linRefresh {c} (h : s₀.KeepsState s) : s₀.KeepsState (s.linRefresh c) := by
  unfold Zone.linRefresh
  dsimp only
  split
  · exact .ite h.setLin h
  · exact h

theorem linFail {c j cause bytes check data} (h : s₀.KeepsState s) :
    s₀.KeepsState (s.linFail c j cause bytes check data) := by
  unfold Zone.linFail
  dsimp only
  split
  · exact .completeFail (.ite h.setLin.event.count h.setLin.event.count.ringStore)
  · exact .ite h.setLin.event.count h.setLin.event.count.ringStore

theorem linOk {c j check data} (h : s₀.KeepsState s) : s₀.KeepsState (s.linOk c j check data) := by
  unfold Zone.linOk
  dsimp only
  split
  · exact .completeOk (.ite h.setLin.count.ringStore h.setLin.count)
  · exact .ite h.setLin.count.ringStore h.setLin.count

theorem linEnd {c j e} (h : s₀.KeepsState s) : s₀.KeepsState (s.linEnd c j e) := by
  unfold Zone.linEnd
  dsimp only
  split
  · exact h
  · split
    · exact h.linFail
    · exact h.linFail
    · split
      · exact h.linOk
      · exact .ite h (.ite h.linOk h.linFail)
      · exact h.linOk

theorem linCfgWrite {c v} (h : s₀.KeepsState s) : s₀.KeepsState (s.linCfgWrite c v) := h.wr

theorem opLinHeader {c r i idle} (h : s₀.KeepsState s) : s₀.KeepsState (s.opLinHeader c r i idle) := by
  unfold Zone.opLinHeader
  dsimp only
  split
  · exact .ite h.completeFail h.completeFail
  · exact .ite h.completeFail (.ite h.completeFail h.setFld.setFld.setLin)

theorem opLinWakeup {c r idle} (h : s₀.KeepsState s) : s₀.KeepsState (s.opLinWakeup c r idle) := by
  unfold Zone.opLinWakeup
  dsimp only
  split
  · exact h.completeFail
  · exact h.setLin

/-! ### Machine/Serial -/

theorem setSer {n x} (h : s₀.KeepsState s) : s₀.KeepsState (s.setSer n x) := h.parts.setFld.setFlag

theorem serBuffer {n k} (h : s₀.KeepsState s) : s₀.KeepsState (s.serBuffer n k).2.2 := h.busBytes.busBytes

theorem serSend {n k r} (h : s₀.KeepsState s) : s₀.KeepsState (s.serSend n k r) :=
  .ite h.completeFail (.ite h.serBuffer.completeFail (.ite h.serBuffer.completeFail h.serBuffer.setSer))

theorem serAbort {n r} (h : s₀.KeepsState s) : s₀.KeepsState (s.serAbort n r) :=
  (h.setSer.forEach (fun _ _ h => h.completeAbort)).completeOk

theorem serStore {n cont} (h : s₀.KeepsState s) : s₀.KeepsState (s.serStore n cont) := .ite h h.setSer.ringStore

theorem serReadBack {n t v framingBad} (h : s₀.KeepsState s) : s₀.KeepsState (s.serReadBack n t v framingBad) :=
  .ite h h.setSer

theorem serReceive {n v parityBad framingBad heldTicks} (h : s₀.KeepsState s) :
    s₀.KeepsState (s.serReceive n v parityBad framingBad heldTicks) :=
  .ite
    (.serStore
       (.setSer
          (.ite
             (((h.when (fun _ h => h.count)).when (fun _ h => h.count)).when (fun _ h => h.event)).serStore
             (((h.when (fun _ h => h.count)).when (fun _ h => h.count)).when (fun _ h => h.event)))))
    (.setSer
       (.ite
          (((h.when (fun _ h => h.count)).when (fun _ h => h.count)).when (fun _ h => h.event)).serStore
          (((h.when (fun _ h => h.count)).when (fun _ h => h.count)).when (fun _ h => h.event))))

@[simp] theorem serPage_ne_zero (n : ℕ) : serPage n ≠ 0 := by simp [serPage]

theorem serCfgWrite {n v} (h : s₀.KeepsState s) : s₀.KeepsState (s.serCfgWrite n v) := h.wr

theorem serTimingWrite {n v} (h : s₀.KeepsState s) : s₀.KeepsState (s.serTimingWrite n v) := h.wr

/-! ### Machine/HostPorts -/

theorem setRingHead {q kind v} (h : s₀.KeepsState s) : s₀.KeepsState (s.setRingHead q kind v) := h.sw

theorem setRingTail {q kind v} (h : s₀.KeepsState s) : s₀.KeepsState (s.setRingTail q kind v) := h.sw

theorem nextDesc {q kind} (h : s₀.KeepsState s) : s₀.KeepsState (s.nextDesc q kind).2 := by
  unfold Zone.nextDesc
  dsimp only
  split
  · exact h
  · split
    · exact h.dmaRead
    · exact h.dmaRead

theorem returnDesc {q kind len flags tag} (h : s₀.KeepsState s) : s₀.KeepsState (s.returnDesc q kind len flags tag) :=
  h.dmaWrite.setRingHead

theorem inject {i f tsTag} (h : s₀.KeepsState s) : s₀.KeepsState (s.inject i f tsTag).2 := by
  unfold Zone.inject
  dsimp only
  split
  · exact .pair h.stat
  · split
    · exact h.stat.statBy.resolve
    · exact .iteSnd h.stat.statBy.resolve.dispatch h

theorem txFetch {q} (h : s₀.KeepsState s) : s₀.KeepsState (s.txFetch q) := by
  unfold Zone.txFetch
  extract_lets p x
  have hx : s₀.KeepsState x.2 := h.nextDesc
  refine .ite h ?_
  split
  · exact hx
  · extract_lets done y
    have hy : s₀.KeepsState y.2.2 := hx.dmaRead
    have hdone {z : Zone} {b} (h : s₀.KeepsState z) : s₀.KeepsState (done z b) := h.returnDesc
    refine .ite (hdone hx.stat) (.ite (hdone hx.stat) ?_)
    split
    · exact hdone hy
    · extract_lets f z
      have hz : s₀.KeepsState z.2 := hy.inject
      refine .ite (hdone hy.stat) ?_
      split
      · exact hz
      · exact hdone hz

theorem rxWrite {q f flags tag fuel} (h : s₀.KeepsState s) : s₀.KeepsState (s.rxWrite q f flags tag fuel).2 := by
  induction fuel generalizing s with
  | zero => exact h
  | succ fuel ih =>
    unfold Zone.rxWrite
    dsimp only
    split
    · exact h.nextDesc
    · exact .iteSnd (ih h.nextDesc.returnDesc) h.nextDesc.dmaWrite.returnDesc

theorem rxDeliver {e} (h : s₀.KeepsState s) : s₀.KeepsState (s.rxDeliver e) := by
  unfold Zone.rxDeliver
  split
  · exact h
  · extract_lets own q mismatch f flags tag y
    have hmismatch {z : Zone} (h : s₀.KeepsState z) : s₀.KeepsState (mismatch z) := .ite h h.stat
    have hy : s₀.KeepsState y.2 := h.rxWrite
    refine .ite h (.ite (hmismatch h.shape.setEgress.settleCredit).count ?_)
    split
    · exact hy
    · exact (hmismatch hy.deliverTx).when fun _ h => h.count

theorem doorbell {port src q kind tail} (h : s₀.KeepsState s) : s₀.KeepsState (s.doorbell port src q kind tail) :=
  .ite h.setRingTail h.stat

theorem ringCfgWrite {src q v} (h : s₀.KeepsState s) : s₀.KeepsState (s.ringCfgWrite src q v) :=
  .ite h.count
    (.ite (.ite h.count h.setFld.setFld) (.ite h.count (.ite h.setFld.setFld.setFld.setFld h.setFld.setFld)))

theorem acfSend {r arg} (h : s₀.KeepsState s) : s₀.KeepsState (s.acfSend r arg) := by
  unfold Zone.acfSend
  dsimp only
  split
  · exact h.completeFail
  · split
    · exact h.completeFail
    · split
      · exact h.completeFail
      · split
        · exact h.completeFail
        · exact h.inject.sw.completeOk

theorem acfTake {r arg} (h : s₀.KeepsState s) : s₀.KeepsState (s.acfTake r arg) := by
  unfold Zone.acfTake
  dsimp only
  split
  · exact h.completeFail
  · exact .ite h.fresh.completeFail h.busWrite.setAcfQueue.avtpDrain.completeOk

/-! ### Machine/Grants -/

theorem returnAll {q kind} (h : s₀.KeepsState s) : s₀.KeepsState (s.returnAll q kind) := by
  refine h.forEach fun z _ h => ?_
  have hd := h.nextDesc (q := q) (kind := kind)
  split
  · rename_i heq
    rw [heq] at hd
    exact .ite hd.returnDesc hd.returnDesc
  · rename_i heq
    rw [heq] at hd
    exact hd

theorem quiesce {g} (h : s₀.KeepsState s) : s₀.KeepsState (s.quiesce g) := by
  unfold Zone.quiesce
  dsimp only
  split
  · exact h.parts.setFld.setFld.setFld
  · exact h.parts.setFld.setFld.parts.endJobs.parts.showEngine
  · exact h.parts.setFld.setFld

theorem ownerWord {k o} (h : s₀.KeepsState s) (hk : k ≠ 0 := by simp) : s₀.KeepsState (s.ownerWord k o) := h.wr hk

theorem reassignPair {q args} (h : s₀.KeepsState s) : s₀.KeepsState (s.reassignPair q args) :=
  h.returnAll.returnAll.wr.setFld.setFld.setFld.forEach (fun _ _ h => h.wr)
    |>.setFld.setFld.setFld.forEach (fun _ _ h => h.setRingHead.setRingTail)

theorem reassignBus {c args} (h : s₀.KeepsState s) : s₀.KeepsState (s.reassignBus c args) :=
  .ringEmpty (.parts (.ite h.setFld.setFld.setFld.setFld.setFld.setFld h.setFld.setFld.setFld.setFld.setFld))

theorem reassignSlot {n o} (h : s₀.KeepsState s) : s₀.KeepsState (s.reassignSlot n o) :=
  .ite h.setKeySlot.setKeyring h.setKeySlot

theorem reassign {g} (h : s₀.KeepsState s) : s₀.KeepsState (s.reassign g) := by
  unfold Zone.reassign
  dsimp only
  split
  · exact h.reassignPair
  · exact h.reassignBus
  · exact h.ownerWord
  · exact h.reassignSlot
  · exact .ite h.ownerWord.takeRecord h.ownerWord

theorem grantEnd {g code} (h : s₀.KeepsState s) : s₀.KeepsState (s.grantEnd g code) := by
  unfold Zone.grantEnd
  dsimp only
  split
  · exact .answer (.ite h.parts.setFld.setFld.count.postValue h.parts.setFld.setFld.count)
  · exact .setFld (.ite h.parts.setFld.setFld.count.postValue h.parts.setFld.setFld.count)

theorem quiesceEnd (h : s₀.KeepsState s) : s₀.KeepsState s.quiesceEnd := by
  unfold Zone.quiesceEnd
  split
  · exact h
  · exact .ite h.reassign.grantEnd h

theorem grantTimeout (h : s₀.KeepsState s) : s₀.KeepsState s.grantTimeout := by
  unfold Zone.grantTimeout
  dsimp only
  split
  · exact h
  · split
    · exact h
    · refine .grantEnd ?_
      split
      · exact h.wr
      · exact h.setFld.ringEmpty
      · exact h.ownerWord
      · exact h.setKeySlot
      · exact h.ownerWord

theorem fwGrantStart (h : s₀.KeepsState s) : s₀.KeepsState s.fwGrantStart := .ite h.setFld (.ite h.setFld h.quiesce)

theorem fwGrant {src args mode} (h : s₀.KeepsState s) : s₀.KeepsState (s.fwGrant src args mode) :=
  .ite h.setPageBytes.fwGrantStart h.refuse_

/-! ### Machine/Secure -/

theorem secureReset (h : s₀.KeepsState s) : s₀.KeepsState s.secureReset :=
  .parts
    (.setFld
       (.ite
          (h.setFld.count.post.report.forEach (fun _ _ h => .ite h.setHart h)).endJobs.copyEnd
          (h.setFld.count.post.report.forEach (fun _ _ h => .ite h.setHart h)).endJobs))

theorem swdtKick {src} (h : s₀.KeepsState s) : s₀.KeepsState (s.swdtKick src) := .ite h.parts h

theorem secureReady {src} (h : s₀.KeepsState s) : s₀.KeepsState (s.secureReady src) := .ite h.setFld.setFld.parts h

theorem swdtExpiry (h : s₀.KeepsState s) : s₀.KeepsState s.swdtExpiry := .ite h.secureReset h

theorem readyTimeout (h : s₀.KeepsState s) : s₀.KeepsState s.readyTimeout := by
  unfold Zone.readyTimeout
  dsimp only
  split
  · exact h
  · exact .ite h (.ite h.setFld.secureReset h.setFld.setFld.report.parts)

theorem ecallAbsent {j} (h : s₀.KeepsState s) : s₀.KeepsState (s.ecallAbsent j) := .ite h.setHart.count h

/-! ### Machine/Tables -/

theorem showTables {k} (h : s₀.KeepsState s) : s₀.KeepsState (s.showTables k) := by
  unfold Zone.showTables
  dsimp only
  split
  · refine .setFld ?_
    refine .setFld ?_
    split
    · exact h.setFld.setFld
    · exact h.setFld.setFld
  · refine .setFld ?_
    refine .setFld ?_
    split
    · exact h.setFld.setFld
    · exact h.setFld.setFld

theorem setResState {k v} (h : s₀.KeepsState s) : s₀.KeepsState (s.setResState k v) := h.setFld

theorem loadHalf {k t} (h : s₀.KeepsState s) : s₀.KeepsState (s.loadHalf k t) := h.setKeeper.setResState.showTables

theorem freeTickets {k} (h : s₀.KeepsState s) : s₀.KeepsState (s.freeTickets k) := h.countBy.parts.setFld

theorem beginTable {k} (h : s₀.KeepsState s) : s₀.KeepsState (s.beginTable k) := by
  unfold Zone.beginTable
  dsimp only
  split
  · exact h
  · exact h.freeTickets.setKeeper.setResState.showTables.setFld

theorem settleQueues {old} (h : s₀.KeepsState s) : s₀.KeepsState (s.settleQueues old) := by
  unfold Zone.settleQueues
  split
  · exact h.rebind.joinQueues
  · exact h

theorem setLoadResult {k w} (h : s₀.KeepsState s) : s₀.KeepsState (s.setLoadResult k w) := h.setFld.setFld

theorem answerLoad {seq a b} (h : s₀.KeepsState s) : s₀.KeepsState (s.answerLoad seq a b) :=
  h.setLoadResult.setLoadResult.answer

theorem loadDone {c a b} (h : s₀.KeepsState s) : s₀.KeepsState (s.loadDone c a b) :=
  .ite h.parts.answerLoad.loadHalf.loadHalf.parts h.parts.answerLoad

theorem loaderVerdict {k} (h : s₀.KeepsState s) : s₀.KeepsState (s.loaderVerdict k) := by
  unfold Zone.loaderVerdict
  dsimp only
  split
  · exact h
  · split
    · exact h.parts.loadDone
    · exact h.parts.setLoadResult

/-! ### Machine/Start -/

theorem setStart {f : StartSt → StartSt} (h : s₀.KeepsState s) : s₀.KeepsState (s.setStart f) := h.parts

theorem setPhase {v} (h : s₀.KeepsState s) : s₀.KeepsState (s.setPhase v) := h.setFld

theorem showFailed (h : s₀.KeepsState s) : s₀.KeepsState s.showFailed := h.setFld

theorem showRecords (h : s₀.KeepsState s) : s₀.KeepsState s.showRecords :=
  (h.forEach (fun _ _ h => h.setPageBytes)).showFailed

theorem addStartRecord {reason detail counted} (h : s₀.KeepsState s) :
    s₀.KeepsState (s.addStartRecord reason detail counted) :=
  h.setStart.setFld.setFld.setFld.showRecords

theorem clearCounts (h : s₀.KeepsState s) : s₀.KeepsState s.clearCounts := h.setStart.showRecords

theorem loseDram (h : s₀.KeepsState s) : s₀.KeepsState s.loseDram := h.parts

theorem wakePorts (h : s₀.KeepsState s) : s₀.KeepsState s.wakePorts := h.parts

theorem loadHealthy {t} (h : s₀.KeepsState s) : s₀.KeepsState (s.loadHealthy t) :=
  (h.forEach (fun _ _ h => h.when fun _ h => h.loadHalf)).parts

theorem loadLightship {l} (h : s₀.KeepsState s) : s₀.KeepsState (s.loadLightship l) := h.setFld.setFld.setStart.loadHealthy

theorem settleLightship (h : s₀.KeepsState s) : s₀.KeepsState s.settleLightship := by
  unfold Zone.settleLightship
  dsimp only
  split
  · exact h
  · split
    · exact h.parts
    · split
      · exact h
      · split
        · exact h.loadLightship
        · exact h.fresh.fresh.setFld.loadHealthy

theorem sendReport (h : s₀.KeepsState s) : s₀.KeepsState s.sendReport := by
  unfold Zone.sendReport
  dsimp only
  split
  · exact h.setStart
  · exact .ite h.setStart h.setStart.setCan.setStart

theorem reporterTakes (h : s₀.KeepsState s) : s₀.KeepsState s.reporterTakes := by
  have hc := h.canAbort (c := 0)
  unfold Zone.reporterTakes
  refine .setFld ?_
  exact hc.keepWords (p := fun k => decide (keyPage k ≠ pCAN 0 ∨ keyOff k = 0x0FC)) (by decide)

theorem firstEntry (h : s₀.KeepsState s) : s₀.KeepsState s.firstEntry := h.parts.reactActive.beginSignals

theorem bootKeys {good} (h : s₀.KeepsState s) : s₀.KeepsState (s.bootKeys good) := h.restoreKeys.deriveKeys.parts

/-! ### Machine/Boot -/

theorem showBist (h : s₀.KeepsState s) : s₀.KeepsState s.showBist := h.setFld.setFld.setFlag

@[simp] theorem bistKey_ne_zero (b w : ℕ) : bistKey b w ≠ 0 := by simp [bistKey]

theorem bistResult {b status kind rows cols fail} (h : s₀.KeepsState s) :
    s₀.KeepsState (s.bistResult b status kind rows cols fail) := by
  unfold Zone.bistResult
  extract_lets w
  have hw {z : Zone} {i v} (h : s₀.KeepsState z) : s₀.KeepsState (w z i v) := h.wr
  split
  refine .showBist ?_
  split
  · exact hw (hw (hw (hw h)))
  · exact hw (hw (hw (hw h)))

theorem memoryBist {b runs} (h : s₀.KeepsState s) : s₀.KeepsState (s.memoryBist b runs).2 := by
  unfold Zone.memoryBist
  dsimp only
  split
  · exact .pair h.setFld.setFld.bistResult
  · exact .pair h.setFld.setFld.bistResult

theorem logicBist {b failure} (h : s₀.KeepsState s) : s₀.KeepsState (s.logicBist b failure) := by
  unfold Zone.logicBist
  split
  · exact h.bistResult
  · exact h.bistResult

theorem zeroMem {lo n} (h : s₀.KeepsState s) : s₀.KeepsState (s.zeroMem lo n) := h.parts

theorem bistErases {b memory} (h : s₀.KeepsState s) : s₀.KeepsState (s.bistErases b memory) := by
  unfold Zone.bistErases
  dsimp only
  split
  · exact .ite h.setKeeper h
  · exact .ite h.setKeeper h
  · exact h.zeroMem
  · exact h.parts
  · exact h.setKeyring
  · exact h.forEach fun _ _ h => h.setKeySlot
  · exact .ite h.zeroMem.zeroMem h

theorem startBist {b x} (h : s₀.KeepsState s) : s₀.KeepsState (s.startBist b x).2.2 := by
  unfold Zone.startBist
  dsimp only
  split
  · exact .triple h.count.logicBist
  · exact .iteSndSnd h.count.memoryBist.bistErases h.count.logicBist

theorem bistKeeper {k} (h : s₀.KeepsState s) : s₀.KeepsState (s.bistKeeper k) := h.setRole.report.fence

/-- The blocks of a start are judged one after the other. -/
theorem startBists {l : List Nat} {find : Nat → BlockBist} {x : List (Nat × Option Nat) × Zone} (h : s₀.KeepsState x.2) :
    s₀.KeepsState (l.foldl (fun (x : List (Nat × Option Nat) × Zone) b =>
      match x.2.startBist b (find b) with
      | (true, _, s) => (x.1 ++ [(b, none)], s)
      | (false, some i, s) => (x.1 ++ [(b, some i)], s)
      | (false, none, s) => (x.1, s)) x).2 := by
  refine List.foldlRecOn (motive := fun x : List (Nat × Option Nat) × Zone => s₀.KeepsState x.2) _ _ h fun x h b _ => ?_
  have hb := h.startBist (b := b) (x := find b)
  split
  all_goals
    rename_i heq
    rw [heq] at hb
    exact hb

theorem releaseClusters {j secure safety} (h : s₀.KeepsState s) : s₀.KeepsState (s.releaseClusters j secure safety) :=
  (h.storeBytes.forEach (fun _ _ h => h.setCore)).storeBytes.parts

theorem lcRefuse {code} (h : s₀.KeepsState s) : s₀.KeepsState (s.lcRefuse code) := h.setFld

theorem lcBlow {bit} (h : s₀.KeepsState s) : s₀.KeepsState (s.lcBlow bit) := h.parts

theorem lcRequest {target testPort} (h : s₀.KeepsState s) : s₀.KeepsState (s.lcRequest target testPort) := by
  unfold Zone.lcRequest
  dsimp only
  split
  · exact h
  · split
    · exact .ite (.ite h.lcBlow h.lcRefuse) h.lcRefuse
    · exact .ite h.lcBlow h.lcRefuse
    · exact .ite (.ite h.lcBlow h.lcRefuse) h.lcRefuse
    · exact .ite h.lcRefuse h.setKeyring.lcBlow

theorem lsRaiseFloor (h : s₀.KeepsState s) : s₀.KeepsState s.lsRaiseFloor := by
  unfold Zone.lsRaiseFloor
  split
  · exact .ite h.setFld h
  · exact h

/-! ### Machine/Sleep -/

theorem setSleep {f : SleepSt → SleepSt} (h : s₀.KeepsState s) : s₀.KeepsState (s.setSleep f) := h.parts

theorem inputAbove {k} (h : s₀.KeepsState s) : s₀.KeepsState (s.inputAbove k).2 := by
  unfold Zone.inputAbove
  split
  · exact h
  · exact h.fresh

theorem takeReference {k} (h : s₀.KeepsState s) : s₀.KeepsState (s.takeReference k) := by
  unfold Zone.takeReference
  exact h.inputAbove.setSleep

theorem wakeRearm {k above} (h : s₀.KeepsState s) : s₀.KeepsState (s.wakeRearm k above) := h.setSleep

theorem forgetSeen (h : s₀.KeepsState s) : s₀.KeepsState s.forgetSeen := h.wr.wr

theorem wakeSeen {kind index} (h : s₀.KeepsState s) : s₀.KeepsState (s.wakeSeen kind index) := by
  unfold Zone.wakeSeen
  dsimp only
  split
  · exact h.setFldBit
  · exact h.setFldBit
  · exact h.setFldBit
  · exact h.setFld
  · exact h

theorem setWakeSrc {kind index late} (h : s₀.KeepsState s) : s₀.KeepsState (s.setWakeSrc kind index late) :=
  h.setFld.setFld.setFlag

theorem wokeCan {c} (h : s₀.KeepsState s) : s₀.KeepsState (s.wokeCan c) := h.setFld.event

theorem sleepNotice {outcome} (h : s₀.KeepsState s) : s₀.KeepsState (s.sleepNotice outcome) := h.notice

theorem sleepCancel {kind index} (h : s₀.KeepsState s) : s₀.KeepsState (s.sleepCancel kind index) :=
  (h.setPending.setFld.event.count.setWakeSrc.when (fun _ h => h.wokeCan)).setSleep.post.sleepNotice

theorem wakeCancels (h : s₀.KeepsState s) : s₀.KeepsState s.wakeCancels := by
  unfold Zone.wakeCancels
  split
  · exact .ite h.sleepCancel h
  · exact h

theorem wakeLate {kind index} (h : s₀.KeepsState s) : s₀.KeepsState (s.wakeLate kind index) := h.setWakeSrc.event.count

theorem wake {kind index} (h : s₀.KeepsState s) : s₀.KeepsState (s.wake kind index) :=
  .ite h
    (.ite
       (.ite
          (h.when (fun _ h => h.forgetSeen)).wakeSeen.setSleep.wakeLate
          ((h.when (fun _ h => h.forgetSeen)).wakeSeen.setSleep.when (fun _ h => h.setWakeSrc)))
       (h.when (fun _ h => h.forgetSeen)).wakeSeen)

theorem canSees {c seen} (h : s₀.KeepsState s) : s₀.KeepsState (s.canSees c seen).2 := by
  unfold Zone.canSees
  dsimp only
  split
  · exact h
  · exact .iteSnd h (.ite h h.setFld)
  · exact .iteSnd h h.setFld

theorem beginSleep {cause wakeAfter} (h : s₀.KeepsState s) : s₀.KeepsState (s.beginSleep cause wakeAfter) :=
  (h.setPending.setFld.setFld.event.setSleep.forEach (fun _ _ h => h.takeReference)).post.closeAll

theorem managementCancel (h : s₀.KeepsState s) : s₀.KeepsState s.managementCancel :=
  (h.when (fun _ h => h.forgetSeen)).sleepCancel

theorem networkManagement (h : s₀.KeepsState s) : s₀.KeepsState s.networkManagement := by
  unfold Zone.networkManagement
  dsimp only
  split
  · exact h.heardBus.setSleep
  · exact .ite h.heardBus.managementCancel h.heardBus
  · exact .ite h.heardBus.managementCancel h.heardBus
  · exact h.heardBus

theorem ethSleep (h : s₀.KeepsState s) : s₀.KeepsState s.ethSleep := h.setSleep.forEach fun _ _ h => h.phyDown

theorem commitSleep (h : s₀.KeepsState s) : s₀.KeepsState s.commitSleep := by
  unfold Zone.commitSleep
  dsimp only
  split
  · exact h.forceOpenAll.gensOff.forEach (fun _ _ h => h.canAbort.setFld.canNotAlone)
        |>.ethSleep.setRole.setRole.setFld.dropPending.calSave.closeAll.setSleep.wakeLate
  · exact h.forceOpenAll.gensOff.forEach (fun _ _ h => h.canAbort.setFld.canNotAlone)
        |>.ethSleep.setRole.setRole.setFld.dropPending.calSave.closeAll.setSleep

theorem keepAwake (h : s₀.KeepsState s) : s₀.KeepsState s.keepAwake := .ite h.count h.networkManagement

theorem setFallback {n b} (h : s₀.KeepsState s) : s₀.KeepsState (s.setFallback n b) := .ite h.setFldBit h.setFldBit

/-! ### Machine/Supervisor -/

theorem setSupv {f : SupervisorSt → SupervisorSt} (h : s₀.KeepsState s) : s₀.KeepsState (s.setSupv f) := h.parts

theorem accept {code seq answerDue} (h : s₀.KeepsState s) : s₀.KeepsState (s.accept code seq answerDue) := h.setSupv

theorem startNotice {again} (h : s₀.KeepsState s) : s₀.KeepsState (s.startNotice again) := by
  unfold Zone.startNotice
  dsimp only
  split
  · exact h
  · exact .ite h.notice.setSupv h

theorem judged {code seq argOk} {effect : Zone → Zone} (h : s₀.KeepsState s)
    (heffect : ∀ z, s₀.KeepsState z → s₀.KeepsState (effect z)) :
    s₀.KeepsState (s.judged code seq argOk effect) :=
  .ite h.send (.ite h.send.count (.ite h.send (.ite h.send (.ite h.send (heffect _ h)))))

theorem seqAccepted {seq} (h : s₀.KeepsState s) : s₀.KeepsState (s.seqAccepted seq) := h.setSupv.setFld.networkManagement

theorem command {code e} {argOk : Zone → Bool} {effect : Zone → Zone} (h : s₀.KeepsState s)
    (heffect : ∀ z, s₀.KeepsState z → s₀.KeepsState (effect z)) :
    s₀.KeepsState (s.command code e argOk effect) :=
  .ite h
    (.ite h.count
       (.ite h.count (.ite h.count (.ite h.setSupv.send (h.setSupv.seqAccepted.judged (fun _ h => heffect _ h))))))

theorem tableResult {code seq word} (h : s₀.KeepsState s) : s₀.KeepsState (s.tableResult code seq word) := h.send

theorem loadTable {seq stored} (h : s₀.KeepsState s) : s₀.KeepsState (s.loadTable seq stored) := by
  unfold Zone.loadTable
  dsimp only
  split
  · exact h.accept.answerLoad
  · split
    · exact h.accept.answerLoad
    · split
      · exact h.accept.answerLoad
      · exact h.accept.parts

theorem schedWatch {code seq commit raise} (h : s₀.KeepsState s) : s₀.KeepsState (s.schedWatch code seq commit raise) :=
  h.tableResult.accept.parts

theorem commitTable {seq arg} (h : s₀.KeepsState s) : s₀.KeepsState (s.commitTable seq arg) :=
  .ite h.tableResult (.ite h.tableResult (.ite h.tableResult (.ite h.tableResult h.schedWatch)))

theorem rollbackTable {seq} (h : s₀.KeepsState s) : s₀.KeepsState (s.rollbackTable seq) :=
  .ite h.tableResult h.tableResult.accept.parts

theorem watchChange {seq} (h : s₀.KeepsState s) : s₀.KeepsState (s.watchChange seq) :=
  .ite h.tableResult (.ite h.tableResult h.schedWatch)

theorem scheduleGlobal {seq args} (h : s₀.KeepsState s) : s₀.KeepsState (s.scheduleGlobal seq args) := by
  unfold Zone.scheduleGlobal
  dsimp only
  split
  · exact h.send
  · split
    · exact h.count.send
    · split
      · exact h.send
      · split
        · exact h.send
        · exact h.setSlotWord.setSlotWord.setSlotWord.setSlotWord.setSlotWord.setSlotWord.setSlotState.parts.send

theorem cancelGlobal {seq op} (h : s₀.KeepsState s) : s₀.KeepsState (s.cancelGlobal seq op) := by
  unfold Zone.cancelGlobal
  dsimp only
  split
  · exact h.setSlotState.count.send
  · exact .ite h.send h.send

theorem forceTimeStep {seq args} (h : s₀.KeepsState s) : s₀.KeepsState (s.forceTimeStep seq args) :=
  .ite h.accept.parts h.accept.parts

theorem bindSlot {seq k} (h : s₀.KeepsState s) : s₀.KeepsState (s.bindSlot seq k) := h.accept.setKeySlot.setKeyring

theorem bindSupervisor {seq args} (h : s₀.KeepsState s) : s₀.KeepsState (s.bindSupervisor seq args) :=
  .ite (.ite h.bindSlot h.send) (.ite h.bindSlot h.send)

theorem grantResource {seq args} (h : s₀.KeepsState s) : s₀.KeepsState (s.grantResource seq args) :=
  .ite h.send h.accept.quiesce

theorem sleepRequest {seq after} (h : s₀.KeepsState s) : s₀.KeepsState (s.sleepRequest seq after) :=
  .ite h.send h.send.beginSleep

/-! ### Machine/Access -/

theorem byFirmware {x} {f : Zone → Source → Zone} (h : s₀.KeepsState s) (hf : ∀ z a1, s₀.KeepsState z → s₀.KeepsState (f z a1)) :
    s₀.KeepsState (s.byFirmware x f) := by
  unfold Zone.byFirmware
  split
  · exact hf _ _ h
  · exact h

theorem writeZone0 {off x} (h : s₀.KeepsState s) (hk : off ≠ 0) : s₀.KeepsState (s.writeZone0 off x) :=
  .ite (h.when (fun _ h => h.keepAwake)) (.ite (h.wr (by simp [hk])).takeReference (h.wr (by simp [hk])))

theorem writeZone5 {off x} (h : s₀.KeepsState s) : s₀.KeepsState (s.writeZone5 off x) := by
  unfold Zone.writeZone5
  split
  · exact h.byFirmware fun _ _ h => h.gateReq
  · exact h.byFirmware fun _ _ h => h.secureHoldWrite
  · exact h.byFirmware fun _ _ h => h.secureHoldWrite
  · exact h.wr

theorem writeKeeper {k x} (h : s₀.KeepsState s) (hk : k ≠ 0) : s₀.KeepsState (s.writeKeeper k x) := .ite h (h.wr hk)

theorem writeBridge {n x} (h : s₀.KeepsState s) : s₀.KeepsState (s.writeBridge n x) := .ite h h.wr

theorem writeChCfg {n x} (h : s₀.KeepsState s) : s₀.KeepsState (s.writeChCfg n x) := h.wr

theorem writeLoad {n off x} (h : s₀.KeepsState s) : s₀.KeepsState (s.writeLoad n off x) := by
  unfold Zone.writeLoad
  dsimp only
  split
  · exact h.chCtrlWrite
  · exact h.writeChCfg
  · exact h.wr
  · exact h.wr
  · exact h.wr.setFld
  · exact h.writeBridge
  · exact h.wr

theorem writeChar {g off x} (h : s₀.KeepsState s) : s₀.KeepsState (s.writeChar g off x) :=
  .ite h.stagedWrite (.ite h.holdWrite h.wr)

theorem writeRing {off x} (h : s₀.KeepsState s) : s₀.KeepsState (s.writeRing off x) :=
  .ite (h.ringCtrlWrite.when (fun _ h => h.ringRestart)) (.ite h.wr.showRing h.wr)

theorem writePortCfg {p x} (h : s₀.KeepsState s) : s₀.KeepsState (s.writePortCfg p x) :=
  .ite h.wr h.wr.portCheck.swEnableChanged.showPlca

theorem writeGateCtrl {p x} (h : s₀.KeepsState s) : s₀.KeepsState (s.writeGateCtrl p x) :=
  .gateEval (.ite h.wr.gateCommit h.wr)

theorem writeTcCfg {p t x} (h : s₀.KeepsState s) : s₀.KeepsState (s.writeTcCfg p t x) :=
  ((h.when (fun _ h => h.event.swCfgReject)).shaped (fun _ h => .wr (.ite h h.sw))).showBuf.gateEval

theorem writeGateEntry {p off x} (h : s₀.KeepsState s) : s₀.KeepsState (s.writeGateEntry p off x) := .ite h.swCfgReject h.wr

theorem writeDoorbell {p src v} (h : s₀.KeepsState s) : s₀.KeepsState (s.writeDoorbell p src v) := .ite h.doorbell h

theorem writeSwp {p off x} (h : s₀.KeepsState s) : s₀.KeepsState (s.writeSwp p off x) :=
  .ite h.writePortCfg
    (.ite h.writeGateCtrl (.ite h.writeTcCfg (.ite (h.shaped (fun _ h => h.wr)) (.ite h.writeGateEntry h.wr))))

theorem writeSw0 {off x} (h : s₀.KeepsState s) : s₀.KeepsState (s.writeSw0 off x) := .ite h.wr.swEnableChanged h.wr

theorem writePhyCfg {p x} (h : s₀.KeepsState s) : s₀.KeepsState (s.writePhyCfg p x) := h.countBy.wr.showLpi.showPlca

theorem writePort {p off x} (h : s₀.KeepsState s) : s₀.KeepsState (s.writePort p off x) := .ite h.writePhyCfg (.ite h h.wr)

theorem writeTime0 {off x} (h : s₀.KeepsState s) : s₀.KeepsState (s.writeTime0 off x) := by
  unfold Zone.writeTime0
  dsimp only
  split
  · exact h.servoCfgWrite
  · exact h.jumpWrite
  · exact h.slewWrite
  · exact h.when fun _ h => h.timeSnap
  · exact h.wr
  · exact h.wr
  · exact h.wr

theorem writeTm {c off x} (h : s₀.KeepsState s) : s₀.KeepsState (s.writeTm c off x) := .ite h h.wr

theorem writeCan {c off x} (h : s₀.KeepsState s) : s₀.KeepsState (s.writeCan c off x) :=
  .ite h.chanCfgWrite
    (.ite h.canTimingWrite (.ite h.rxAck (.ite h.writeTm (.ite h (.ite h.busWrite (.ite h.wr h.wr))))))

theorem writeLin {c off x} (h : s₀.KeepsState s) : s₀.KeepsState (s.writeLin c off x) := by
  unfold Zone.writeLin
  split
  · exact h.linCfgWrite
  · exact h.rxAck
  · exact h.wr.linRefresh

theorem writeSer {n off x} (h : s₀.KeepsState s) : s₀.KeepsState (s.writeSer n off x) := by
  unfold Zone.writeSer
  split
  · exact h.serCfgWrite
  · exact h.serTimingWrite
  · exact h.rxAck
  · exact h.wr

theorem writeTu {off x} (h : s₀.KeepsState s) : s₀.KeepsState (s.writeTu off x) := by
  unfold Zone.writeTu
  dsimp only
  split
  · exact .ite h h.invalidate
  · exact h.when fun _ h => h.tuPop
  · exact .ite (h.byFirmware (fun _ _ h => h.swdtKick)) h
  · exact .ite (h.byFirmware (fun _ _ h => h.secureReady)) h
  · exact h.wr

theorem writeRegn {c off x} (h : s₀.KeepsState s) : s₀.KeepsState (s.writeRegn c off x) :=
  .ite h.wr (.ite h (.ite h.event h.wr))

theorem writeQpr {k src x} (h : s₀.KeepsState s) (hk : k ≠ 0) : s₀.KeepsState (s.writeQpr k src x) := by
  unfold Zone.writeQpr
  dsimp only
  split
  · exact h.count
  · split
    · exact .ite h.ringCfgWrite.setFld h.ringCfgWrite
    · exact .ite h.count (h.wr hk)
    · exact .ite h.count (h.wr hk)
    · exact .ite h.count (h.wr hk)
    · exact .ite h.count (h.wr hk)
    · exact h

theorem writeHinge {j off x} (h : s₀.KeepsState s) : s₀.KeepsState (s.writeHinge j off x) :=
  .ite (.ite h h.wr)
    (.ite (h.when (fun _ h => h.errPop))
       (.ite (h.when (fun _ h => h.discPop))
          (.ite (.ite (h.byFirmware (fun _ _ h => h.copyStart)) h) (.ite (.ite h.wr h) h.wr))))

theorem writeLog {off x} (h : s₀.KeepsState s) : s₀.KeepsState (s.writeLog off x) := by
  unfold Zone.writeLog
  dsimp only
  split
  · exact .ite h.wr h
  · exact .ite h.wr h
  · exact .ite h.wr h
  · exact h.when fun _ h => h.storeResume
  · exact h.freezeRelease
  · exact h.wr

theorem writeStream {n off x} (h : s₀.KeepsState s) : s₀.KeepsState (s.writeStream n off x) :=
  .ite (.wr (.ite h h.closeAfter)) h.wr

theorem writePost {n off src v} (h : s₀.KeepsState s) : s₀.KeepsState (s.writePost n off src v) :=
  .ite h.postCommit (.ite h.count h.wr)

theorem writeSafe {off x} (h : s₀.KeepsState s) : s₀.KeepsState (s.writeSafe off x) := by
  unfold Zone.writeSafe
  dsimp only
  split
  · exact h.clearFaultEvent
  · exact h.wr.applyDemand
  · exact h.wr.applyDemand
  · exact h.when fun _ h => h.demandRelease
  · exact h.when fun _ h => h.logPop
  · exact .ite (.ite h.wr h) h.wr

theorem writeAlarm {a off x} (h : s₀.KeepsState s) : s₀.KeepsState (s.writeAlarm a off x) :=
  .ite (h.when (fun _ h => h.alarmTest)) h.wr

theorem writeEffect {kind k x} (h : s₀.KeepsState s) (hk : k ≠ 0) (hz : kind = .zone0 → keyOff k ≠ 0) : s₀.KeepsState (s.writeEffect kind k x) := by
  unfold Zone.writeEffect
  dsimp only
  split
  · exact h.writeZone0 (hz rfl)
  · exact h.writeZone5
  · exact .ite (h.when (fun _ h => h.lsRaiseFloor)) (h.wr hk)
  · exact h.writeKeeper hk
  · exact .ite h.inCfgWrite (.ite h.inThreshWrite (h.wr hk))
  · exact h.writeLoad
  · exact h.writeChar
  · exact .ite ((h.wr hk).when (fun _ h => h.calRestart)) (h.wr hk)
  · exact h.writeRing
  · exact h.writeSw0
  · exact h.writeSwp
  · exact h.writePort
  · exact h.writeTime0
  · exact .ite (h.when (fun _ h => h.tsqPop)) (h.wr hk)
  · exact h.writeCan
  · exact h.writeLin
  · exact h.writeSer
  · exact h.writeTu
  · exact h.writeRegn
  · exact .ite (h.when (fun _ h => h.fwGrantStart)) (h.wr hk)
  · exact h
  · exact h.writeHinge
  · exact h.writeHinge
  · exact h.writeHinge
  · exact h.writeLog
  · exact h.writeStream
  · exact .ite h.lcRequest (h.wr hk)
  · exact h.writeSafe
  · exact h.writeAlarm
  · exact .ite h (h.wr hk)
  · exact .ite h (h.wr hk)
  · exact h.wr hk

theorem rangeReject {kind k} (h : s₀.KeepsState s) : s₀.KeepsState (s.rangeReject kind k) := .ite h.swCfgReject h

/-- The descriptor of the word of STATE: read-only. -/
def stateD : WordD := ⟨0, 1, 0, 0x10002, 0, 0, 0, 0, 0, [], 0⟩

theorem key_of_zone0 {k : ℕ} (hp : pageKind (keyBank k) (keyChan k) = some .zone0) : keyOff k = k := by
  obtain ⟨hb, hc⟩ := pageKind_eq_some hp
  have hb0 : k / 0x100000 = 0 := hb (by decide)
  have hc0 : k / 0x1000 % 256 = 0 := hc
  show k % 0x1000 = k
  omega

/-- Key 0 is the word of STATE. -/
theorem stateD_of_zero {kind d} (hp : pageKind (keyBank 0) (keyChan 0) = some kind) (hd : wordD kind (keyOff 0) = some d) :
    kind = .zone0 ∧ d = stateD := by
  obtain rfl : PageKind.zone0 = kind := Option.some.inj hp
  exact ⟨rfl, (Option.some.inj hd).symm⟩

/-- No writer reaches a bit of STATE. -/
theorem reached_stateD (r : Reach) : stateD.reached r = 0 := by
  obtain ⟨cfg, events, kw, counters⟩ := r
  revert cfg events kw counters
  decide

theorem regWrite {w kind d k mode v} (h : s₀.KeepsState s) (hp : pageKind (keyBank k) (keyChan k) = some kind)
    (hd : wordD kind (keyOff k) = some d) : s₀.KeepsState (s.regWrite w kind d k mode v) := by
  by_cases hk : k = 0
  · subst hk
    obtain ⟨rfl, rfl⟩ := stateD_of_zero hp hd
    unfold Zone.regWrite
    rw [if_pos (.inl (reached_stateD _))]
    exact h
  · refine .ite h (.writeEffect (.ite h h.rangeReject) hk ?_)
    rintro rfl
    rwa [key_of_zone0 hp]

theorem kwReject {k src} (h : s₀.KeepsState s) : s₀.KeepsState (s.kwReject k src) := h.count.setFld.setFlag.setFld

theorem fwWord {src kind k v} (h : s₀.KeepsState s) (hp : pageKind (keyBank k) (keyChan k) = some kind) :
    s₀.KeepsState (s.fwWord src kind k v) := by
  unfold Zone.fwWord
  dsimp only
  split
  · exact h
  · refine h.writeQpr ?_
    rintro rfl
    cases hp
  · exact .ite h.writePost (h.regWrite hp ‹_›)
  · exact .ite h.writeDoorbell (.regWrite (.ite h h.kwReject) hp ‹_›)
  · exact .regWrite (.ite h h.kwReject) hp ‹_›

theorem readWord {k} (h : s₀.KeepsState s) : s₀.KeepsState (s.readWord k).2 := by
  unfold Zone.readWord
  dsimp only
  split
  · exact h
  · split
    · exact h
    · split
      · exact .iteSnd h (.iteSnd h.busBytes h)
      · exact .iteSnd h.counterRead (.iteSnd h.gateEval (.iteSnd h.showHold (.iteSnd h.shape h)))
      · exact .iteSnd h.setFlag h
      · exact .iteSnd h.setFld h
      · exact .iteSnd h h
      · exact .iteSnd h.setFld h
      · exact .iteSnd h.setFlag h
      · split
        · exact .pair h.setFlag
        · exact h
        · exact h
        · exact h
      · split
        · exact .pair h.setFld
        · exact h
        · exact h
      · exact .iteSnd h.setFld (.iteSnd h h)
      · split
        · exact h
        · exact h
        · exact h
        · exact h
      · exact h

theorem fwRead {kind k} (h : s₀.KeepsState s) (hp : pageKind (keyBank k) (keyChan k) = some kind) :
    s₀.KeepsState (s.fwRead kind k).2 := by
  unfold Zone.fwRead
  dsimp only
  split
  · exact h
  · split
    · exact h.counterRead
    split
    · exact h.readWord
    · refine .pair (h.readWord.wr ?_)
      rintro rfl
      obtain ⟨rfl, rfl⟩ := stateD_of_zero hp ‹_›
      contradiction

theorem wordCheck {src k write v} (h : s₀.KeepsState s) : s₀.KeepsState (s.wordCheck src k write v).2 :=
  .iteSnd h (.iteSnd h (.iteSnd h.refuse_ h.regionCheck))

theorem wordWrite {src k v} (h : s₀.KeepsState s) : s₀.KeepsState (s.wordWrite src k v).2 := by
  unfold Zone.wordWrite
  dsimp only
  split
  · exact h.wordCheck
  · split
    · exact .pair (h.wordCheck.fwWord ‹_›)
    · exact h.wordCheck

theorem wordRead {src k} (h : s₀.KeepsState s) : s₀.KeepsState (s.wordRead src k).2.2 := by
  unfold Zone.wordRead
  dsimp only
  split
  · exact h.wordCheck
  · split
    · exact h.wordCheck.fwRead ‹_›
    · exact h.wordCheck

theorem spaceWrite {src k size v} (h : s₀.KeepsState s) : s₀.KeepsState (s.spaceWrite src k size v).2 :=
  .iteSnd h (.iteSnd h.lineWritten.wordWrite h.lineWritten.wordWrite.wordWrite)

theorem spaceRead {src k size} (h : s₀.KeepsState s) : s₀.KeepsState (s.spaceRead src k size).2.2 :=
  .iteSndSnd h (.iteSndSnd h.wordRead h.wordRead.wordRead)

theorem deliver {w k} (h : s₀.KeepsState s) : s₀.KeepsState (s.deliver w k).2 := by
  unfold Zone.deliver
  split
  · exact h
  · split
    · split
      · exact .pair h.countRefusal
      · exact .pair h.stageAccept
    · exact .iteSnd h h.count

theorem pageAccepted {k} (h : s₀.KeepsState s) : s₀.KeepsState (s.pageAccepted k) := .ite h.loadAccepted h

theorem keeperWrite {w k mode v} (h : s₀.KeepsState s) : s₀.KeepsState (s.keeperWrite w k mode v) := by
  unfold Zone.keeperWrite
  dsimp only
  split
  · exact h.deliver
  · split
    · exact h.deliver
    · split
      · obtain ⟨hp, hd⟩ := keyD_eq_some ‹_›
        exact h.deliver.pageAccepted.regWrite hp hd
      · exact h.deliver.pageAccepted

theorem ticketTimeouts {k} (h : s₀.KeepsState s) : s₀.KeepsState (s.ticketTimeouts k) :=
  h.forEach fun _ _ h => .ite h.complete h

/-! ### Machine/Clocks -/

theorem clockReport {d count} (h : s₀.KeepsState s) : s₀.KeepsState (s.clockReport d count) :=
  .ite
    h.setFldBit.setFld.setFld.count.count.report.selfCheck
    (.ite h.setFldBit.setFld.setFld.count.count.report.selfCheck h.setFldBit.setFld.setFld.count.count.report)

theorem timeClock {stopped} (h : s₀.KeepsState s) : s₀.KeepsState (s.timeClock stopped) :=
  .ite h.markTime.parts.gensStopped h.markTime.parts.gensRestarted

theorem setClockRuns {d bad good} (h : s₀.KeepsState s) : s₀.KeepsState (s.setClockRuns d bad good) := h.setSafety

theorem clockWindow {d w} (h : s₀.KeepsState s) : s₀.KeepsState (s.clockWindow d w) :=
  .ite
    (.ite h (h.windowMark.setFldBit.setClockRuns.clockReport.when (fun _ h => h.timeClock)))
    (.ite
       (.ite
          (h.when (fun _ h => h.windowMark.setFldBit.when fun _ h => h.timeClock)
             |>.setClockRuns.windowMark.setFldBit.clockReport)
          (h.when (fun _ h => h.windowMark.setFldBit.when fun _ h => h.timeClock)).setClockRuns)
       (h.when (fun _ h => h.windowMark.setFldBit.when fun _ h => h.timeClock)
          |>.setClockRuns.when (fun _ h => h.windowMark.setFldBit)))

theorem setDcq {q x} (h : s₀.KeepsState s) : s₀.KeepsState (s.setDcq q x) := h.parts

/-! ### Machine/Harts -/

theorem pteRead {j src a} (h : s₀.KeepsState s) : s₀.KeepsState (s.pteRead j src a).2 :=
  .iteSnd h (.iteSnd h.regionCheck h.regionCheck)

theorem tableWalk {h src va kind user sum mxr cause fuel a lvl wide} {stage : Zone → Nat → Zone.HartAddr × Zone}
    (hs : s₀.KeepsState s) (hstage : ∀ z n, s₀.KeepsState z → s₀.KeepsState (stage z n).2) :
    s₀.KeepsState (Zone.tableWalk h src va kind user sum mxr cause stage fuel a lvl wide s).2 := by
  induction fuel generalizing s a lvl wide with
  | zero => exact hs
  | succ fuel ih =>
    unfold Zone.tableWalk
    dsimp only
    split
    · exact hstage _ _ hs
    · split
      · exact (hstage _ _ hs).pteRead
      · exact .iteSnd (hstage _ _ hs).pteRead (.iteSnd
          (.iteSnd (hstage _ _ hs).pteRead (ih (hstage _ _ hs).pteRead))
          (.iteSnd (hstage _ _ hs).pteRead (hstage _ _ hs).pteRead))

theorem guestStage {h src kind mxr ga} (hs : s₀.KeepsState s) : s₀.KeepsState (Zone.guestStage h src kind mxr s ga).2 := by
  unfold Zone.guestStage
  dsimp only
  split
  · exact hs
  · exact .iteSnd hs (hs.tableWalk fun _ _ h => h)

theorem hartTranslate {k src mode kind va} (h : s₀.KeepsState s) : s₀.KeepsState (s.hartTranslate k src mode kind va).2 := by
  unfold Zone.hartTranslate
  extract_lets guest user atp st mxr second
  have hsecond {z : Zone} {kind a} (h : s₀.KeepsState z) : s₀.KeepsState (second z kind a).2 := .iteSnd h.guestStage h
  split
  · exact h
  · split
    · exact hsecond h
    · split
      · exact h
      · extract_lets x
        have hx : s₀.KeepsState x.2 := h.tableWalk fun _ _ h => hsecond h
        split
        · exact hsecond hx
        · exact hx

theorem setHartException {k cause} (h : s₀.KeepsState s) : s₀.KeepsState (s.setHartException k cause) := h.setHart

theorem checkFetched {app k kind} (h : s₀.KeepsState s) : s₀.KeepsState (s.checkFetched app k kind) :=
  h.when fun _ h => h.setHartException

theorem appCsrWrite {j n v} (h : s₀.KeepsState s) : s₀.KeepsState (s.appCsrWrite j n v) := .ite h.setHart h.setHart

theorem safetyCsrWrite {n num v} (h : s₀.KeepsState s) : s₀.KeepsState (s.safetyCsrWrite n num v) :=
  .ite h.setCore (.ite h.setCore h.setCore)

theorem oddCsrWrite {j num v} (h : s₀.KeepsState s) : s₀.KeepsState (s.oddCsrWrite j num v) := h.setHart

/-! ### Machine/Hinges -/

theorem windowCheck {src k wr} (h : s₀.KeepsState s) : s₀.KeepsState (s.windowCheck src k wr).2 := h.regionCheck

theorem keyWindowWrite {src n off v} (h : s₀.KeepsState s) : s₀.KeepsState (s.keyWindowWrite src n off v).2 := by
  unfold Zone.keyWindowWrite
  extract_lets c s₁ k
  have hc : s₀.KeepsState c.2 := .iteSnd h h.windowCheck
  refine .iteSnd h (.iteSnd hc (.iteSnd hc.opWrite (.iteSnd hc.count ?_)))
  split
  · exact hc
  · exact .pair (hc.wr (by simp [k]))

theorem keyWindowRead {src n off} (h : s₀.KeepsState s) : s₀.KeepsState (s.keyWindowRead src n off).2.2 := by
  unfold Zone.keyWindowRead
  extract_lets c s₁
  have hc : s₀.KeepsState c.2 := .iteSnd h h.windowCheck
  refine .iteSndSnd h (.iteSndSnd hc (.iteSndSnd hc ?_))
  split
  · exact hc
  · exact hc

theorem windowWrite {src k v} (h : s₀.KeepsState s) : s₀.KeepsState (s.windowWrite src k v).2 := by
  have hw : Ends s₀ (s.windowCheck src k true) := ⟨h.windowCheck⟩
  refine Ends.zone ?_
  unfold Zone.windowWrite
  extract_lets b c z
  refine .ite (.ite hw ?_) (.ite (.ite hw (.ite (.pair hw.zone.postWord) (.pair hw.zone))) (.ite ?_ ?_))
  · split
    · exact .pair hw.zone
    · exact .ite (.pair hw.zone.sendNotice) (.pair hw.zone.hingePost)
  · split
    · exact .pair h
    · extract_lets x
      have hx : Ends s₀ x := .ite (.pair h) hw
      exact .ite hx (.pair hx.zone.busWrite)
  · exact .ite (Ends.of h.keyWindowWrite :) (.pair h)

theorem windowRead {src k} (h : s₀.KeepsState s) : s₀.KeepsState (s.windowRead src k).2.2 := by
  have hw : Ends s₀ (s.windowCheck src k false) := ⟨h.windowCheck⟩
  refine Ends₂.zone ?_
  unfold Zone.windowRead
  extract_lets b c q z
  refine .ite (.ite (.triple hw.zone) ?_) (.ite (.ite (.triple hw.zone) ?_) (.ite ?_ ?_))
  · split
    · exact .triple hw.zone
    · exact .triple hw.zone.fresh
  · split
    · exact .triple hw.zone
    · exact .triple hw.zone
    · exact .triple hw.zone.popEvt
    · exact .triple hw.zone
    · exact .triple hw.zone
  · split
    · exact .triple h
    · extract_lets x y
      have hx : Ends s₀ x := .ite (.pair h) hw
      exact .ite (.triple hx.zone) (.triple hx.zone.busBytes)
  · exact .ite (Ends₂.of h.keyWindowRead :) (.triple h)

theorem spaceStore {src a l} (h : s₀.KeepsState s) : s₀.KeepsState (s.spaceStore src a l).2 := by
  refine Ends.zone ?_
  unfold Zone.spaceStore
  extract_lets k n x y
  have hx : Ends s₀ x := (Ends.of h.windowWrite :)
  have hy : Ends s₀ y := (Ends.of hx.zone.windowWrite :)
  split
  · exact .pair h
  · split
    · exact (Ends.of h.spaceWrite :)
    · split
      · exact hx
      · exact .pair hy.zone

theorem spaceLoad {src a n} (h : s₀.KeepsState s) : s₀.KeepsState (s.spaceLoad src a n).2.2 := by
  refine Ends₂.zone ?_
  unfold Zone.spaceLoad
  extract_lets k x x' y
  have hx : Ends₂ s₀ x := (Ends₂.of h.spaceRead :)
  have hx' : Ends₂ s₀ x' := (Ends₂.of h.windowRead :)
  have hy : Ends₂ s₀ y := (Ends₂.of hx'.zone.windowRead :)
  split
  · exact .triple h
  · split
    · exact .triple hx.zone
    · split
      · exact .triple hx'.zone
      · exact .triple hy.zone

theorem fabricStore {src a l} (h : s₀.KeepsState s) : s₀.KeepsState (s.fabricStore src a l).2 := by
  unfold Zone.fabricStore
  dsimp only
  split
  · exact h
  · exact h.spaceStore
  · exact .iteSnd h
        (.iteSnd h.regionCheck
           (.iteSnd h.regionCheck
              (.iteSnd h.regionCheck.h0Write (.iteSnd h.regionCheck.lineWritten.hingePost h.regionCheck.memWrite))))

theorem fabricLoad {src a n write} (h : s₀.KeepsState s) : s₀.KeepsState (s.fabricLoad src a n write).2.2 := by
  unfold Zone.fabricLoad
  dsimp only
  split
  · exact h
  · exact h.spaceLoad
  · exact .iteSndSnd h (.iteSndSnd h.regionCheck (.iteSndSnd h.regionCheck h.regionCheck.dmaLoad))

theorem holdLine {j l} (h : s₀.KeepsState s) : s₀.KeepsState (s.holdLine j l) := by
  unfold Zone.holdLine
  dsimp only
  refine .setHinge ?_
  split
  · exact h.discardLine
  · exact .ite h h.discardLine
  · exact h

theorem lineHit {j l a n} (h : s₀.KeepsState s) : s₀.KeepsState (s.lineHit j l a n) := h.setHinge.count.respond

theorem ask {j inbound src a n prefetch atomic} (h : s₀.KeepsState s) :
    s₀.KeepsState (s.ask j inbound src a n prefetch atomic) := by
  unfold Zone.ask
  split
  · exact h.lineHit
  · exact h.hingeRequest

theorem writeAnswer {before code} (h : s₀.KeepsState s) : s₀.KeepsState (s.writeAnswer before code) := by
  unfold Zone.writeAnswer
  dsimp only
  split
  · exact h.setHinge
  · exact h.respond

theorem appAccess {src kind a n data} (h : s₀.KeepsState s) : s₀.KeepsState (s.appAccess src kind a n data) := by
  unfold Zone.appAccess
  dsimp only
  split
  · exact h.fabricStore.writeAnswer
  · exact .ite h.fabricLoad.respond h.fabricLoad.fabricStore.respond
  · exact h.fabricLoad.respond
  · exact .ite h.respond
        (.ite h.regionCheck.respond
           (.ite h.regionCheck.respond
              (.ite h.regionCheck.openBytes.respond (.ite h.regionCheck.respond h.regionCheck.ask))))

theorem fetchFault {j} (h : s₀.KeepsState s) : s₀.KeepsState (s.fetchFault j) := h.setHartException

theorem safetyAccess {j src kind a n data} (h : s₀.KeepsState s) : s₀.KeepsState (s.safetyAccess j src kind a n data) := by
  unfold Zone.safetyAccess
  dsimp only
  split
  · exact h
  · split
    · exact .ite h.regionCheck.respond
          (h.regionCheck.when (fun _ h => h.forEach fun _ _ h => h.putByte)).lineWritten.respond
    · split
      · exact h.fetchFault
      · split
        · exact h.respond
        · exact .ite h.respond (.ite h.lineWritten.hingePost.writeAnswer h.ask)

theorem appHartAccess {j mode kind va n data} (h : s₀.KeepsState s) :
    s₀.KeepsState (s.appHartAccess j mode kind va n data) := by
  unfold Zone.appHartAccess
  dsimp only
  split
  · exact h.hartTranslate.setHartException
  · exact .ite h.hartTranslate.setHartException (h.hartTranslate.appAccess.when (fun _ h => h.checkFetched))

theorem safetyHartAccess {j mode kind a n data} (h : s₀.KeepsState s) :
    s₀.KeepsState (s.safetyHartAccess j mode kind a n data) :=
  .ite h (.ite h.setHartException (.ite h.fetchFault (h.safetyAccess.when (fun _ h => h.checkFetched))))

theorem h1Target {src a wr} (h : s₀.KeepsState s) : s₀.KeepsState (s.h1Target src a wr).2 := .iteSnd h h.translate

theorem forwardPosted {j t} (h : s₀.KeepsState s) : s₀.KeepsState (s.forwardPosted j t) := by
  unfold Zone.forwardPosted
  dsimp only
  split
  · exact .ite h.dmaWrite h.dmaWrite.hingeError
  · exact h
  · split
    · exact h.noticeArrives
    · exact h.storeBytes
  · split
    · exact .ite h.h1Target h.h1Target.hingeError
    · exact .ite h.h1Target.fabricStore h.h1Target.fabricStore.hingeError

theorem h1Load {src a n wr atomic} (h : s₀.KeepsState s) : s₀.KeepsState (s.h1Load src a n wr atomic).2.2 := by
  unfold Zone.h1Load
  dsimp only
  split
  · exact h.h1Target
  · split
    · exact h.h1Target.fabricLoad
    · exact .iteSndSnd h.h1Target.fabricLoad h.h1Target.fabricLoad.fabricStore

theorem h1Line {src a} (h : s₀.KeepsState s) : s₀.KeepsState (s.h1Line src a).2.2 := by
  unfold Zone.h1Line
  generalize 16 = n
  split
  · exact List.foldlRecOn (motive := fun x : Nat × List Byte × Zone => s₀.KeepsState x.2.2) _ _ h fun _ h _ _ => h.h1Load
  · exact h.h1Load

theorem h1Prefetch {t} (h : s₀.KeepsState s) : s₀.KeepsState (s.h1Prefetch t).2.2 :=
  .iteSndSnd h.h1Line (h.h1Line.holdLine.forEach (fun _ _ h => .ite h.h1Line.holdLine h.h1Line.discardLine))

theorem farAnswer {j t} (h : s₀.KeepsState s) : s₀.KeepsState (s.farAnswer j t).2 := by
  unfold Zone.farAnswer
  dsimp only
  split
  · exact h.dmaRead
  · exact h
  · exact .iteSnd h.openBytes (.ite h.storeBytes h)
  · exact .iteSnd h.h1Prefetch h.h1Load

theorem forwardWrite {j inbound} (h : s₀.KeepsState s) : s₀.KeepsState (s.forwardWrite j inbound) := by
  unfold Zone.forwardWrite
  dsimp only
  split
  · exact h
  · exact h.setHinge.hingeAdmit.forwardPosted

theorem forwardRead {j inbound} (h : s₀.KeepsState s) : s₀.KeepsState (s.forwardRead j inbound) := by
  unfold Zone.forwardRead
  dsimp only
  split
  · exact h
  · split
    · exact h
    · split
      · exact h.count
      · exact h.setHinge.hingeAdmit.farAnswer.setHinge

theorem pcieArrival {p} (h : s₀.KeepsState s) : s₀.KeepsState (s.pcieArrival p) := .ite h (.ite h.hingePost h.hingeRequest)

theorem endRequest {j r code data} (h : s₀.KeepsState s) : s₀.KeepsState (s.endRequest j r code data) :=
  .ite (.ite h.setHinge h.setHinge.hingeReport) (.respond (.ite h.setHinge h.setHinge.hingeReport))

theorem h0Lines {t lines} (h : s₀.KeepsState s) : s₀.KeepsState (s.h0Lines t lines) :=
  h.forEach fun _ _ h => .ite h.regionCheck.holdLine (.ite h.regionCheck h.regionCheck.discardLine)

theorem completion {j inbound tag late code data lines} (h : s₀.KeepsState s) :
    s₀.KeepsState (s.completion j inbound tag late code data lines) := by
  unfold Zone.completion
  dsimp only
  split
  · exact .ite h.setHinge.count h
  · split
    · exact h
    · split
      · exact .ite h h.endRequest
      · exact .ite h (h.when (fun _ h => h.h0Lines)).endRequest

theorem cplTimeout {j inbound tag} (h : s₀.KeepsState s) : s₀.KeepsState (s.cplTimeout j inbound tag) := by
  unfold Zone.cplTimeout
  dsimp only
  split
  · exact h
  · exact .ite h.count.endRequest.setHinge h

theorem linkDown (h : s₀.KeepsState s) : s₀.KeepsState s.linkDown :=
  .ite h
    (.logLinkDown
       (.ite
          (h.setFld.setFld.setFld.setFld.count.setHinge.forEach (fun _ _ h => h.hingeError)).respond
          (h.setFld.setFld.setFld.setFld.count.setHinge.forEach (fun _ _ h => h.hingeError))))

theorem linkUp {speed width} (h : s₀.KeepsState s) : s₀.KeepsState (s.linkUp speed width) :=
  .ite h.setFld.setFld.setFld.setFld h

theorem copyRun (h : s₀.KeepsState s) : s₀.KeepsState s.copyRun := by
  unfold Zone.copyRun
  dsimp only
  split
  · exact h
  · split
    · exact h.dmaRead.copyEnd
    · exact .ite h.dmaRead.dmaWrite.copyEnd h.dmaRead.dmaWrite.copyEnd

theorem writeOne {w k} (h : s₀.KeepsState s) : s₀.KeepsState (s.writeOne w k) := by
  unfold Zone.writeOne
  dsimp only
  split
  · exact h.spaceWrite.respond
  · exact h.keeperWrite

/-! ### Machine/DualPass -/

theorem setReg {n rd v} (h : s₀.KeepsState s) : s₀.KeepsState (s.setReg n rd v) := .ite h h.setCore

theorem of_safetyXzmr {k num v z} (h : s₀.KeepsState s) (hz : s.safetyXzmr k num v = some z) : s₀.KeepsState z := by
  unfold Zone.safetyXzmr at hz
  dsimp only at hz
  split at hz
  · exact Option.some.inj hz ▸ h.setHart
  · exact Option.some.inj hz ▸ h.setHart
  · cases hz

theorem zdpWrite {n num v} (h : s₀.KeepsState s) : s₀.KeepsState (s.zdpWrite n num v) :=
  .ite h (.ite (.ite h.setCore h) (.ite h.setCore h))

theorem commitCsr {n num v} (h : s₀.KeepsState s) : s₀.KeepsState (s.commitCsr n num v) := by
  refine .ite h.zdpWrite ?_
  split
  · exact h.of_safetyXzmr ‹_›
  · exact h.safetyCsrWrite

theorem commitTrap {n cause tval mstatus} (h : s₀.KeepsState s) : s₀.KeepsState (s.commitTrap n cause tval mstatus) :=
  h.forEach fun _ _ h => h.setCore

theorem commitResult {n mode r} (h : s₀.KeepsState s) : s₀.KeepsState (s.commitResult n mode r) := by
  unfold Zone.commitResult
  split
  · exact h.setReg
  · exact h
  · exact h.commitCsr
  · exact h.safetyAccess
  · exact h.commitTrap

theorem legBoundary {n} (h : s₀.KeepsState s) : s₀.KeepsState (s.legBoundary n) := h.setCore.forEach fun _ _ h => h.putByte

theorem retire {n k} (h : s₀.KeepsState s) : s₀.KeepsState (s.retire n k) := .ite h h.setCore

theorem commitLeg {n mode native} (h : s₀.KeepsState s) : s₀.KeepsState (s.commitLeg n mode native) :=
  (h.forEach (fun _ _ h => h.commitResult)).setCore.retire.legBoundary

theorem coreCsrRead {n num p} (h : s₀.KeepsState s) : s₀.KeepsState (s.coreCsrRead n num p).2 := by
  unfold Zone.coreCsrRead
  dsimp only
  split
  · exact h
  · split
    · exact h
    · split
      · exact h.fresh
      · split
        · exact h.fresh
        · split
          · exact h
          · exact h
          · exact h
          · exact h
          · exact h
          · exact h
          · exact h
          · exact h
          · exact h
          · exact h
          · exact h
          · exact h

theorem readNative {n l} (h : s₀.KeepsState s) : s₀.KeepsState (s.readNative n l).2 := by
  induction l generalizing s with
  | nil => exact h
  | cons x r ih =>
    cases x with
    | csrRead => exact ih h.coreCsrRead
    | _ => exact ih h

theorem readPasses {n native inverted} (h : s₀.KeepsState s) : s₀.KeepsState (s.readPasses n native inverted).2.2 :=
  h.readNative

theorem reportLeg {n source injected} (h : s₀.KeepsState s) : s₀.KeepsState (s.reportLeg n source injected) :=
  .ite h.reportInjected h.report

theorem mismatch {n m isAccess read} (h : s₀.KeepsState s) : s₀.KeepsState (s.mismatch n m isAccess read) :=
  h.fresh.fresh.setCore

theorem permanent {n f m} (h : s₀.KeepsState s) : s₀.KeepsState (s.permanent n f m) := h.setCore.reportLeg.legBoundary

theorem transient {n f} (h : s₀.KeepsState s) : s₀.KeepsState (s.transient n f) := h.setCore.reportLeg

theorem checkerFailure {n comparator} (h : s₀.KeepsState s) : s₀.KeepsState (s.checkerFailure n comparator) :=
  (h.forEach (fun _ _ h => h.setCore)).setCore.setFld.report.legBoundary

theorem judgeLeg {n mode native inverted checks inj rerun} (h : s₀.KeepsState s) :
    s₀.KeepsState (s.judgeLeg n mode native inverted checks inj rerun) := by
  have hs : s₀.KeepsState (s.readPasses n native inverted).2.2 := h.readPasses
  unfold Zone.judgeLeg
  split
  rename_i heq
  rw [heq] at hs
  refine .ite hs.setCore.checkerFailure (.ite hs.setCore.checkerFailure ?_)
  split
  · exact hs.setCore.mismatch
  · exact hs.setCore.permanent
  · exact hs.setCore.commitLeg
  · exact hs.setCore.commitLeg.transient

theorem leg {n mode native inverted checks} (h : s₀.KeepsState s) : s₀.KeepsState (s.leg n mode native inverted checks) := by
  unfold Zone.leg
  dsimp only
  split
  · exact h
  · split
    · exact h.readPasses.commitLeg
    · split
      · exact .ite h.setCore.judgeLeg h.judgeLeg
      · exact h.judgeLeg

theorem legRerun {n mode native inverted checks} (h : s₀.KeepsState s) :
    s₀.KeepsState (s.legRerun n mode native inverted checks) := by
  unfold Zone.legRerun
  dsimp only
  split
  · exact h
  · exact .ite h h.judgeLeg

theorem drainIn (h : s₀.KeepsState s) : s₀.KeepsState s.drainIn := h.forEach fun _ _ h => h.forwardWrite

theorem legRead {n src a size wr atomic} (h : s₀.KeepsState s) : s₀.KeepsState (s.legRead n src a size wr atomic).2.2 := by
  refine Ends₂.zone ?_
  unfold Zone.legRead
  split
  · exact .triple h
  · refine .ite (.triple h) ?_
    split
    · extract_lets x
      have hx : s₀.KeepsState x.2 := h.regionCheck
      exact .ite (.triple hx) (.triple hx)
    · extract_lets y
      have hy : Ends₂ s₀ y := .of h.drainIn.h1Load
      exact .ite (.triple hy.zone.hingeReport) (.triple hy.zone)

theorem legWrite {n src a v} (h : s₀.KeepsState s) : s₀.KeepsState (s.legWrite n src a v).2 := by
  refine Ends.zone ?_
  unfold Zone.legWrite
  dsimp only
  have hx : Ends s₀ (s.regionCheck src true true (localAddr (2 * n) a) 4) := .of h.regionCheck
  generalize s.regionCheck src true true (localAddr (2 * n) a) 4 = x at hx ⊢
  exact .ite (.ite hx (.pair (hx.zone.forEach fun _ _ h => h.putByte))) (.pair h.legRead)

theorem legAtomic {n src op a v} (h : s₀.KeepsState s) : s₀.KeepsState (s.legAtomic n src op a v).2.2 := by
  unfold Zone.legAtomic
  dsimp only
  split
  · exact .iteSndSnd h.legRead h.legRead.setCore
  · exact .iteSndSnd h.setCore.legWrite h.setCore
  · exact .iteSndSnd h.legRead h.legRead.legWrite

theorem legAccess {n mode access a size} (h : s₀.KeepsState s) : s₀.KeepsState (s.legAccess n mode access a size).2.2 := by
  unfold Zone.legAccess
  extract_lets src kind
  split
  · exact h
  · split
    · exact h.legRead
    · exact h.safetyAccess
    · exact h.legAtomic

theorem accessTrap {n mode access addr} (h : s₀.KeepsState s) : s₀.KeepsState (s.accessTrap n mode access addr) :=
  h.commitTrap.setCore

theorem accessLeg {n mode access addr inverted size flip nextPc} (h : s₀.KeepsState s) :
    s₀.KeepsState (s.accessLeg n mode access addr inverted size flip nextPc) := by
  unfold Zone.accessLeg
  extract_lets c rerun ready fail got finish s₁ c' bitOf armed s₂
  have hfail {z : Zone} {m read} (h : s₀.KeepsState z) : s₀.KeepsState (fail z m read) := by
    dsimp only [fail, rerun]
    split
    · exact h.permanent
    · exact h.mismatch
  have hgot : s₀.KeepsState s₁ := by
    dsimp only [s₁, got, rerun]
    split
    · exact h
    · exact h.legAccess
  have hfinish {z : Zone} {f} (h : s₀.KeepsState z) (hf : ∀ z, s₀.KeepsState z → s₀.KeepsState (f z)) : s₀.KeepsState (finish z f) := by
    dsimp only [finish, rerun]
    split
    · exact (hf _ h).setCore.retire.legBoundary.transient
    · exact (hf _ h).setCore.retire.legBoundary
  have h₂ : s₀.KeepsState s₂ := .ite hgot.setCore hgot
  clear_value s₂ got finish fail
  split
  · exact h
  · split
    · exact hfail h
    · split
      · exact hfinish hgot fun _ h => h.accessTrap
      · split
        · exact hfinish hgot fun _ h => h.setCore
        · exact .ite (hfail h₂) (.ite (hfail h₂) (hfinish h₂ fun _ h => h.setReg.setCore))

theorem debugAttach (h : s₀.KeepsState s) : s₀.KeepsState s.debugAttach :=
  .ite h (h.forEach (fun _ _ h => .ite h h.setCore)).setFld.setFld.report

theorem zdpCsr {n num mode v} (h : s₀.KeepsState s) : s₀.KeepsState (s.zdpCsr n num mode v) :=
  .ite h (.ite h.zdpWrite h.setHartException)

theorem moorWrite {j v12 virt mode} (h : s₀.KeepsState s) : s₀.KeepsState (s.moorWrite j v12 virt mode) :=
  .ite h.setHartException (.ite h.setHart (.ite h.setHart.count h.setHart))

theorem appCsrOp {j num mode v} (h : s₀.KeepsState s) : s₀.KeepsState (s.appCsrOp j num mode v) := by
  unfold Zone.appCsrOp
  dsimp only
  split
  · exact h.setHartException
  · split
    · exact h.setHart
    · exact h.setHart
    · exact h.moorWrite
    · exact h.moorWrite
    · exact h.appCsrWrite

theorem safetyCsrOp {k num mode v} (h : s₀.KeepsState s) : s₀.KeepsState (s.safetyCsrOp k num mode v) := by
  refine .ite h ?_
  split
  · exact h.setHartException
  · split
    · exact h.of_safetyXzmr ‹_›
    · exact .ite h.commitCsr (.ite h h.oddCsrWrite)

/-! ### Machine/Gptp -/

theorem setPtpMaster {i p m} (h : s₀.KeepsState s) : s₀.KeepsState (s.setPtpMaster i p m) := h.parts

theorem ringSample {i p offset} (h : s₀.KeepsState s) : s₀.KeepsState (s.ringSample i p offset) := by
  unfold Zone.ringSample
  refine .ite h (.ite ?_ h.parts)
  split
  · exact h.parts
  · exact h.parts

theorem showMaster {i} (h : s₀.KeepsState s) : s₀.KeepsState (s.showMaster i) := by
  unfold Zone.showMaster
  split
  · exact h
  · split
    exact .ite h.setFld.setFld (.ite h.setFld.setFld.event.count.setTerms h.setFld.setFld.event.count)

theorem ptpAnnounce {i p m utc} (h : s₀.KeepsState s) : s₀.KeepsState (s.ptpAnnounce i p m utc) := by
  unfold Zone.ptpAnnounce
  dsimp only
  split
  · exact .ite h.setPtpMaster.showMaster.setFld.setFld h.setPtpMaster.showMaster
  · exact h.setPtpMaster.showMaster

theorem ptpReceive {p i msg} (h : s₀.KeepsState s) : s₀.KeepsState (s.ptpReceive p i msg) := by
  unfold Zone.ptpReceive
  dsimp only
  split
  · exact .ite h.ptpAnnounce h
  · exact .ite h.ptpSync.ringSample h
  · exact .ite h.parts h
  · exact h

/-! ### Machine/Tamva -/

theorem setW {k n v} (h : s₀.KeepsState s) : s₀.KeepsState (s.setW k n v) := .ite h h.setKeeper

theorem setFlags {k f} (h : s₀.KeepsState s) : s₀.KeepsState (s.setFlags k f) := h.setKeeper

theorem chartSet {k a v} (h : s₀.KeepsState s) : s₀.KeepsState (s.chartSet k a v) := h.setKeeper

theorem chartStore {k a v} (h : s₀.KeepsState s) : s₀.KeepsState (s.chartStore k a v) :=
  .ite h.chartSet (.ite h.chartSet.setKeeper h)

theorem closeGroup {k} (h : s₀.KeepsState s) : s₀.KeepsState (s.closeGroup k) := .ite h h.setKeeper

theorem beginStep {k} (h : s₀.KeepsState s) : s₀.KeepsState (s.beginStep k) := h.setKeeper

theorem endStep {k} (h : s₀.KeepsState s) : s₀.KeepsState (s.endStep k) := h.setKeeper

theorem execFault {k code} (h : s₀.KeepsState s) : s₀.KeepsState (s.execFault k code) :=
  (h.closeGroup.setFld.setFld.setFld.count.post.when (fun _ h => h.count)).endStep

theorem illegal {k} (h : s₀.KeepsState s) : s₀.KeepsState (s.illegal k) := h.selfCheck

theorem perform {k cycles last} {f : Zone → Zone} (h : s₀.KeepsState s) (hf : ∀ z, s₀.KeepsState z → s₀.KeepsState (f z)) :
    s₀.KeepsState (s.perform k cycles last f) :=
  .ite h
    (.ite (.ite h.illegal h.setKeeper)
       (.ite (hf _ (.setKeeper (.ite h h.beginStep))).setKeeper (hf _ (.setKeeper (.ite h h.beginStep)))))

theorem result {k wd f r} (h : s₀.KeepsState s) : s₀.KeepsState (s.result k wd f r) := .ite h.setW.setFlags h.setW

theorem alu {k cycles wd ws wt f} {r : Sys2Proof.Word → Sys2Proof.Word → TResult} (h : s₀.KeepsState s) :
    s₀.KeepsState (s.alu k cycles wd ws wt f r) :=
  h.perform fun _ h => h.result

theorem aluImm {k wd ws f} {r : Sys2Proof.Word → TResult} (h : s₀.KeepsState s) : s₀.KeepsState (s.aluImm k wd ws f r) :=
  h.perform fun _ h => h.result

theorem opAdd {k wd ws wt f} (h : s₀.KeepsState s) : s₀.KeepsState (s.opAdd k wd ws wt f) := h.alu

theorem opSub {k wd ws wt f} (h : s₀.KeepsState s) : s₀.KeepsState (s.opSub k wd ws wt f) := h.alu

theorem opAnd {k wd ws wt f} (h : s₀.KeepsState s) : s₀.KeepsState (s.opAnd k wd ws wt f) := h.alu

theorem opOr {k wd ws wt f} (h : s₀.KeepsState s) : s₀.KeepsState (s.opOr k wd ws wt f) := h.alu

theorem opXor {k wd ws wt f} (h : s₀.KeepsState s) : s₀.KeepsState (s.opXor k wd ws wt f) := h.alu

theorem opShl {k wd ws amount f} (h : s₀.KeepsState s) : s₀.KeepsState (s.opShl k wd ws amount f) :=
  h.perform fun _ h => h.result

theorem opShr {k wd ws amount f} (h : s₀.KeepsState s) : s₀.KeepsState (s.opShr k wd ws amount f) :=
  h.perform fun _ h => h.result

theorem opSra {k wd ws amount f} (h : s₀.KeepsState s) : s₀.KeepsState (s.opSra k wd ws amount f) :=
  h.perform fun _ h => h.result

theorem opMul {k wd ws wt f u} (h : s₀.KeepsState s) : s₀.KeepsState (s.opMul k wd ws wt f u) := h.alu

theorem opMulh {k wd ws wt f u} (h : s₀.KeepsState s) : s₀.KeepsState (s.opMulh k wd ws wt f u) := h.alu

theorem opMin {k wd ws wt f u} (h : s₀.KeepsState s) : s₀.KeepsState (s.opMin k wd ws wt f u) := h.alu

theorem opMax {k wd ws wt f u} (h : s₀.KeepsState s) : s₀.KeepsState (s.opMax k wd ws wt f u) := h.alu

theorem opSat {k wd ws w f u} (h : s₀.KeepsState s) : s₀.KeepsState (s.opSat k wd ws w f u) := h.aluImm

theorem opAddi {k wd ws f imm} (h : s₀.KeepsState s) : s₀.KeepsState (s.opAddi k wd ws f imm) := h.aluImm

theorem opAndi {k wd ws f imm} (h : s₀.KeepsState s) : s₀.KeepsState (s.opAndi k wd ws f imm) := h.aluImm

theorem opOri {k wd ws f imm} (h : s₀.KeepsState s) : s₀.KeepsState (s.opOri k wd ws f imm) := h.aluImm

theorem opXori {k wd ws f imm} (h : s₀.KeepsState s) : s₀.KeepsState (s.opXori k wd ws f imm) := h.aluImm

theorem opLui {k wd imm} (h : s₀.KeepsState s) : s₀.KeepsState (s.opLui k wd imm) := h.perform fun _ h => h.setW

theorem opCmpi {k ws imm} (h : s₀.KeepsState s) : s₀.KeepsState (s.opCmpi k ws imm) := h.perform fun _ h => h.setFlags

theorem opCmp {k ws wt} (h : s₀.KeepsState s) : s₀.KeepsState (s.opCmp k ws wt) := h.perform fun _ h => h.setFlags

theorem opTst {k ws wt} (h : s₀.KeepsState s) : s₀.KeepsState (s.opTst k ws wt) := h.perform fun _ h => h.setFlags

theorem opSkip {k cc n} (h : s₀.KeepsState s) : s₀.KeepsState (s.opSkip k cc n) := h.perform fun _ h => .ite h.setKeeper h

theorem opLdc {k w addr} (h : s₀.KeepsState s) : s₀.KeepsState (s.opLdc k w addr) := h.perform fun _ h => h.setW

theorem opStc {k w addr} (h : s₀.KeepsState s) : s₀.KeepsState (s.opStc k w addr) := h.perform fun _ h => h.chartStore

theorem opLdcx {k w wx addr} (h : s₀.KeepsState s) : s₀.KeepsState (s.opLdcx k w wx addr) :=
  h.perform fun _ h => .ite h.execFault h.setW

theorem opStcx {k w wx addr} (h : s₀.KeepsState s) : s₀.KeepsState (s.opStcx k w wx addr) :=
  h.perform fun _ h => .ite h.execFault h.chartStore

theorem opMirr {k wd} (h : s₀.KeepsState s) : s₀.KeepsState (s.opMirr k wd) :=
  h.perform fun _ h => .setW (.ite h.closeGroup h)

theorem keeperRead {k key} (h : s₀.KeepsState s) : s₀.KeepsState (s.keeperRead k key).2 := by
  unfold Zone.keeperRead
  dsimp only
  split
  · exact h.readWord.fresh
  · split
    · exact .iteSnd h.readWord h.readWord
    · exact h.readWord

theorem sendWrite {k key mode v} (h : s₀.KeepsState s) : s₀.KeepsState (s.sendWrite k key mode v) :=
  .keeperWrite (.ite h.setKeeper h)

theorem opCrd {k w g word} (h : s₀.KeepsState s) : s₀.KeepsState (s.opCrd k w g word) :=
  h.perform fun _ h => .ite h.illegal h.keeperRead.setW

theorem cwr {k w mode g word} (h : s₀.KeepsState s) : s₀.KeepsState (s.cwr k w mode g word) := .ite h.illegal h.sendWrite

theorem opCwr {k w g word} (h : s₀.KeepsState s) : s₀.KeepsState (s.opCwr k w g word) := h.perform fun _ h => h.cwr

theorem opCwrSet {k w g word} (h : s₀.KeepsState s) : s₀.KeepsState (s.opCwrSet k w g word) := h.perform fun _ h => h.cwr

theorem opCwrClr {k w g word} (h : s₀.KeepsState s) : s₀.KeepsState (s.opCwrClr k w g word) := h.perform fun _ h => h.cwr

theorem opCwrTgl {k w g word} (h : s₀.KeepsState s) : s₀.KeepsState (s.opCwrTgl k w g word) := h.perform fun _ h => h.cwr

theorem opCrdx {k wd wx g arrives} (h : s₀.KeepsState s) : s₀.KeepsState (s.opCrdx k wd wx g arrives) :=
  h.perform fun _ h => .ite h.illegal (.ite h.execFault (.ite h.keeperRead.setW.setFlags h.setW.setFlags.count))

theorem opCwrx {k w wx g} (h : s₀.KeepsState s) : s₀.KeepsState (s.opCwrx k w wx g) :=
  h.perform fun _ h => .ite h.illegal (.ite h.execFault h.sendWrite)

theorem operation {kind ch off r variant arg} (h : s₀.KeepsState s) :
    s₀.KeepsState (s.operation kind ch off r variant arg) := by
  unfold Zone.operation
  dsimp only
  split
  · split
    · exact h.opClearRetry
    · exact h.fresh.opOffDiag
    · exact h.opSnapshot
    · exact h.opLoadOther
  · refine .ite h.opTxStart ?_
    split
    · exact h.opRecover
    · exact h.opAbortPending
    · exact h.canOp fun _ h => h.completeFail
  · split
    · exact h.fresh.opLinHeader
    · exact h.fresh.opLinWakeup
    · exact h.completeFail
  · split
    · exact h.serSend
    · exact h.serAbort
    · exact h.completeFail
  · refine .ite h.complete ?_
    split
    · exact h.acfSend
    · exact h.acfTake
    · exact h.completeFail
  · split
    · exact .winOp h.winWrite
    · exact .winOp h.winRead
    · exact .winOp h.winClear
    · exact h.completeFail
  · exact h.complete

theorem issueOp {k r key variant arg} (h : s₀.KeepsState s) : s₀.KeepsState (s.issueOp k r key variant arg) := by
  unfold Zone.issueOp
  dsimp only
  split
  · exact h.deliver.complete
  · exact h.deliver.setKeeper
  · split
    · exact .ite h.deliver.operation h.deliver.complete
    · exact h.deliver.complete

theorem opCop {k wd variant g word} (h : s₀.KeepsState s) : s₀.KeepsState (s.opCop k wd variant g word) := by
  unfold Zone.opCop
  dsimp only
  refine h.perform fun _ h => ?_
  split
  · exact h.illegal
  · split
    · exact h.setW.setFlags.count
    · exact h.issueTicket.setW.setFlags.issueOp

theorem opChkt {k ticket} (h : s₀.KeepsState s) : s₀.KeepsState (s.opChkt k ticket) := by
  unfold Zone.opChkt
  refine h.perform fun _ h => ?_
  split
  · exact h.execFault
  · exact h.setFlags

theorem opTkr {k wd ticket} (h : s₀.KeepsState s) : s₀.KeepsState (s.opTkr k wd ticket) := by
  unfold Zone.opTkr
  dsimp only
  refine h.perform fun _ h => ?_
  split
  · exact h.execFault
  · exact .ite h.setW.setFlags.setTicket h.setW.setFlags

theorem opQpop {k w queue} (h : s₀.KeepsState s) : s₀.KeepsState (s.opQpop k w queue) := by
  unfold Zone.opQpop
  dsimp only
  refine h.perform fun _ h => ?_
  split
  · exact h.takeReq.setW.setFlags
  · exact h.takeReq.setW.setFlags

theorem opQpush {k w queue} (h : s₀.KeepsState s) : s₀.KeepsState (s.opQpush k w queue) :=
  h.perform fun _ h => .setFlags (.ite h.pushEvt h)

theorem opQlen {k wd event queue} (h : s₀.KeepsState s) : s₀.KeepsState (s.opQlen k wd event queue) :=
  h.perform fun _ h => h.setW.setFlags

theorem opTnow {k wd} (h : s₀.KeepsState s) : s₀.KeepsState (s.opTnow k wd) := h.perform fun _ h => h.setW

theorem opTsec {k wd} (h : s₀.KeepsState s) : s₀.KeepsState (s.opTsec k wd) := h.perform fun _ h => h.setW

theorem opTslot {k wd} (h : s₀.KeepsState s) : s₀.KeepsState (s.opTslot k wd) := h.perform fun _ h => h.setW

theorem opEvt {k ws code} (h : s₀.KeepsState s) : s₀.KeepsState (s.opEvt k ws code) :=
  h.perform fun _ h => .ite h.illegal (.ite h (.ite h.count h.addRecord))

theorem opFlt {k ws code} (h : s₀.KeepsState s) : s₀.KeepsState (s.opFlt k ws code) :=
  h.perform fun _ h => .ite h.illegal (.ite h.report h.count)

theorem opNop {k} (h : s₀.KeepsState s) : s₀.KeepsState (s.opNop k) := h.perform fun _ h => h

theorem opEnd {k} (h : s₀.KeepsState s) : s₀.KeepsState (s.opEnd k) := h.perform fun _ h => h.closeGroup.endStep

theorem carryOut {i} (h : s₀.KeepsState s) : s₀.KeepsState (s.carryOut i) := by
  unfold Zone.carryOut
  split
  · exact h.opAdd
  · exact h.opSub
  · exact h.opAnd
  · exact h.opOr
  · exact h.opXor
  · exact h.opShl
  · exact h.opShr
  · exact h.opSra
  · exact h.opMul
  · exact h.opMulh
  · exact h.opMin
  · exact h.opMax
  · exact h.opSat
  · exact h.opAddi
  · exact h.opAndi
  · exact h.opOri
  · exact h.opXori
  · exact h.opLui
  · exact h.opCmpi
  · exact h.opCmp
  · exact h.opTst
  · exact h.opSkip
  · exact h.opLdc
  · exact h.opStc
  · exact h.opLdcx
  · exact h.opStcx
  · exact h.opMirr
  · exact h.opCrd
  · exact h.opCwr
  · exact h.opCwrSet
  · exact h.opCwrClr
  · exact h.opCwrTgl
  · exact h.opCop
  · exact h.opChkt
  · exact h.opTkr
  · exact h.opCrdx
  · exact h.opCwrx
  · exact h.opQpop
  · exact h.opQpush
  · exact h.opQlen
  · exact h.opTnow
  · exact h.opTsec
  · exact h.opTslot
  · exact h.opEvt
  · exact h.opFlt
  · exact h.opNop
  · exact h.opEnd
  · exact h

theorem fetchWord {k w} (h : s₀.KeepsState s) : s₀.KeepsState (s.fetchWord k w) := by
  unfold Zone.fetchWord
  dsimp only
  split
  · exact .carryOut (.ite h.fresh h)
  · exact h.perform fun _ h => h.illegal

/-! ### Machine/SlotMark -/

theorem endCommand {code seq} (h : s₀.KeepsState s) : s₀.KeepsState (s.endCommand code seq) := h.setSupv

theorem nameHolder {k} (h : s₀.KeepsState s) : s₀.KeepsState (s.nameHolder k) := h.setFld

theorem setClaim {k c} (h : s₀.KeepsState s) : s₀.KeepsState (s.setClaim k c) := h.setFld

theorem place {k} (h : s₀.KeepsState s) : s₀.KeepsState (s.place k) := h.setKeeper

theorem endPause {k} (h : s₀.KeepsState s) : s₀.KeepsState (s.endPause k) := h.parts

theorem resume {k n} (h : s₀.KeepsState s) : s₀.KeepsState (s.resume k n) := by
  unfold Zone.resume
  split
  · exact h
  · exact .ite h.endPause (.ite h.endPause.count h)

theorem countRound {k n} (h : s₀.KeepsState s) : s₀.KeepsState (s.countRound k n) :=
  .ite ((h.resume.setKeeper.when (fun _ h => h.count)).when (fun _ h => h.count)) h.resume

theorem countFailover (h : s₀.KeepsState s) : s₀.KeepsState s.countFailover := h.count.post

theorem buryLightship (h : s₀.KeepsState s) : s₀.KeepsState s.buryLightship := by
  unfold Zone.buryLightship
  refine h.forEach fun _ _ h => ?_
  split
  · exact .ite h.setResState h
  · exact h

theorem holdWatch {k n} (h : s₀.KeepsState s) : s₀.KeepsState (s.holdWatch k n) := h.setKeeper.setRole.setFld.nameHolder

theorem takeover {k} (h : s₀.KeepsState s) : s₀.KeepsState (s.takeover k) :=
  .ite h (.ite h.setKeeper (h.holdWatch.when (fun _ h => h.setFld.buryLightship)).countFailover.settleQueues)

theorem commitBegin {o raise} (h : s₀.KeepsState s) : s₀.KeepsState (s.commitBegin o raise) := by
  unfold Zone.commitBegin
  dsimp only
  split
  · exact .setFld (.setFld (.setFld (.ite h.beginTable h)))
  · exact .setFld (.setFld (.ite h.beginTable h))

theorem watchSwap (h : s₀.KeepsState s) : s₀.KeepsState s.watchSwap := by
  unfold Zone.watchSwap
  dsimp only
  split
  · exact h
  · exact .ite h.declareFailed.countFailover.setKeeper
        (.ite h.dropSched
           (h.holdWatch.when (fun _ h => h.setRole)
              |>.when (fun _ h => h.commitBegin)
              |>.count.setFld.dropSched.settleQueues))

theorem swapLapses (h : s₀.KeepsState s) : s₀.KeepsState s.swapLapses := h.parts

theorem prepareSwap {j} (h : s₀.KeepsState s) : s₀.KeepsState (s.prepareSwap j) := by
  unfold Zone.prepareSwap
  dsimp only
  split
  · exact h.setFld
  · exact .ite h.parts h.setFld

theorem applyProfile (h : s₀.KeepsState s) : s₀.KeepsState s.applyProfile := .ite h h.setFld.showFigures

theorem roundChange {k} (h : s₀.KeepsState s) : s₀.KeepsState (s.roundChange k) := by
  unfold Zone.roundChange
  dsimp only
  split
  · exact h
  · exact .ite h.setKeeper h

theorem beginAll {j} (h : s₀.KeepsState s) : s₀.KeepsState (s.beginAll j) :=
  h.forEach fun _ _ h => .ite h.beginTable.setRole h

theorem beginFirst (h : s₀.KeepsState s) : s₀.KeepsState s.beginFirst :=
  (h.beginAll.nameHolder.setClaim.when (fun _ h => h.setClaim)).parts.settleQueues

theorem beginTrial {j} (h : s₀.KeepsState s) : s₀.KeepsState (s.beginTrial j) := .ite h.beginTable.setRole.setFld.setFld h

theorem beginRollback {j} (h : s₀.KeepsState s) : s₀.KeepsState (s.beginRollback j) :=
  .ite
    (h.when (fun _ h => h.beginTable.setRole)).setResState.setResState
    (h.forEach (fun _ _ h => h.when fun _ h => h.beginTable))

theorem applyChange {j} (h : s₀.KeepsState s) : s₀.KeepsState (s.applyChange j) := by
  unfold Zone.applyChange
  dsimp only
  split
  · exact h
  · refine .settleQueues ?_
    split
    · refine .endCommand ?_
      split
      · exact h.parts.beginAll
      · exact h.parts.beginTrial
      · exact h.parts.beginRollback
    · split
      · exact h.parts.beginAll
      · exact h.parts.beginTrial
      · exact h.parts.beginRollback

theorem firstRound {j} (h : s₀.KeepsState s) : s₀.KeepsState (s.firstRound j) := .ite h.setFld.setPhase h

theorem boundary (h : s₀.KeepsState s) : s₀.KeepsState s.boundary := by
  unfold Zone.boundary
  split
  · exact h
  · exact h.firstRound.applyProfile.applyChange

theorem boundaryFirst {n} (h : s₀.KeepsState s) : s₀.KeepsState (s.boundaryFirst n) := by
  unfold Zone.boundaryFirst
  split
  · exact h
  · split
    · exact .ite h.beginFirst h
    · exact h

theorem stopInTest {k n} (h : s₀.KeepsState s) : s₀.KeepsState (s.stopInTest k n) := .ite h.setRole.setKeeper h

theorem runStep {k t n} (h : s₀.KeepsState s) : s₀.KeepsState (s.runStep k t n) :=
  .ite h
    (h.setKeeper.beginStep.forEach (fun _ _ h => h.when fun _ h => .ite h.illegal h.fetchWord)
       |>.when (fun _ h => h.illegal))

theorem runSlot {k} (h : s₀.KeepsState s) : s₀.KeepsState (s.runSlot k) := by
  unfold Zone.runSlot
  dsimp only
  split
  · exact h
  · exact .ite h (h.forEach (fun _ _ h => h.runStep))

theorem endSlot {k} (h : s₀.KeepsState s) : s₀.KeepsState (s.endSlot k) := h.sendBeacon.setKeeper

theorem receiveMirror {k} (h : s₀.KeepsState s) : s₀.KeepsState (s.receiveMirror k) := .ite h.mirrorApply h

theorem enterSlot {k n own} (h : s₀.KeepsState s) : s₀.KeepsState (s.enterSlot k n own) :=
  (h.setClaim.setFlag.setKeeper.forEach (fun _ _ h => h.complete)).ticketTimeouts

theorem mark {ks} {next : Sys2Proof.Keeper → ℕ} {own} (h : s₀.KeepsState s) : s₀.KeepsState (s.mark ks next own) := by
  unfold Zone.mark
  dsimp only
  refine .forEach ?_ (fun _ _ h => h.showMirror)
  refine .forEach ?_ (fun _ _ h => h.runSlot)
  split
  · exact h.forEach (fun _ _ h => h.endSlot)
        |>.forEach (fun _ _ h => h.countRound)
        |>.forEach (fun _ _ h => h.receiveMirror)
        |>.when (fun _ h => .ite h.watchSwap h.swapLapses)
        |>.forEach (fun _ _ h => h.takeover)
        |>.forEach (fun _ _ h => h.judgeOther)
        |>.when (fun _ h => h.parts)
        |>.forEach (fun _ _ h => h.enterSlot)
        |>.forEach (fun _ _ h => h.stopInTest)
        |>.when (fun _ h => h.boundary)
        |>.when (fun _ h => h.boundaryFirst)
        |>.forEach (fun _ _ h => h.roundChange)
        |>.forEach (fun _ _ h => h.place)
        |>.when (fun _ h => h.prepareSwap)
  · exact h.forEach (fun _ _ h => h.endSlot)
        |>.forEach (fun _ _ h => h.countRound)
        |>.forEach (fun _ _ h => h.receiveMirror)
        |>.when (fun _ h => .ite h.watchSwap h.swapLapses)
        |>.forEach (fun _ _ h => h.takeover)
        |>.forEach (fun _ _ h => h.judgeOther)
        |>.when (fun _ h => h.parts)
        |>.forEach (fun _ _ h => h.enterSlot)
        |>.forEach (fun _ _ h => h.stopInTest)
        |>.when (fun _ h => h.boundary)
        |>.when (fun _ h => h.boundaryFirst)
        |>.forEach (fun _ _ h => h.roundChange)
        |>.forEach (fun _ _ h => h.place)

theorem slotMark (h : s₀.KeepsState s) : s₀.KeepsState s.slotMark := .ite h.mark h

theorem localMark {k} (h : s₀.KeepsState s) : s₀.KeepsState (s.localMark k) := by
  unfold Zone.localMark
  dsimp only
  split
  · exact .ite (h.mark.when (fun _ h => h.report)) h
  · exact h

/-! ### Machine/Tick -/

theorem tickNet (h : s₀.KeepsState s) : s₀.KeepsState s.tickNet := .ite h.parts h

theorem tickStep (h : s₀.KeepsState s) : s₀.KeepsState s.tickStep := by
  unfold Zone.tickStep
  dsimp only
  split
  · exact h
  · exact .answer
        (.ite h.parts.timeStep.clearRefusal.parts
           (.ite h.parts.timeStep.clearRefusal
              (.ite h.parts.timeStep.clearRefusal.enterHoldover h.parts.timeStep.clearRefusal.beginHoldover)))

theorem tickAon (h : s₀.KeepsState s) : s₀.KeepsState s.tickAon := by
  unfold Zone.tickAon
  exact .ite h.parts h.parts

theorem tickLife (h : s₀.KeepsState s) : s₀.KeepsState s.tickLife := .ite h.setStart.wr.showFailed h.setStart

theorem tickCrank (h : s₀.KeepsState s) : s₀.KeepsState s.tickCrank := .ite h.parts.setFld h

theorem tickHoldover (h : s₀.KeepsState s) : s₀.KeepsState s.tickHoldover := by
  unfold Zone.tickHoldover
  split
  · exact h.setFld
  · exact h

theorem tickAwake (h : s₀.KeepsState s) : s₀.KeepsState s.tickAwake := h.setFld

theorem tick (h : s₀.KeepsState s) : s₀.KeepsState s.tick :=
  .ite h.parts
    (.ite h.parts.tickAon.tickLife
       h.parts.tickAon.tickLife.wakeCancels.tickNet.tickStep.tickCrank.tickHoldover.tickAwake.settleLegs.calUpdates)

end Zone.KeepsState

end Sys2Proof.Machine
end


-- ==== Sys2Proof/Proofs/StateTransitions.lean ====
section
/-! SUPPORT. The transitions of R39: what each entry shows as module state and entry cause, and the operations that end in one. -/

namespace Sys2Proof.Machine

open Reg

set_option Elab.async false

/-- The rows of R39: the state that is left, the state that is entered, the entry cause. -/
def transitionRows : List (Mode × Mode × Nat) :=
  [(.off, .start, Cause.supply), (.sleep, .start, Cause.wake), (.start, .lightship, Cause.startLimit),
   (.start, .service, Cause.started), (.service, .sleep, Cause.sleepCommit), (.lightship, .sleep, Cause.sleepCommit),
   (.service, .start, Cause.safetyReset), (.service, .start, Cause.reset), (.lightship, .start, Cause.reset),
   (.test, .start, Cause.reset), (.lightship, .start, Cause.lightshipExit), (.service, .test, Cause.testEntry),
   (.lightship, .test, Cause.testEntry), (.test, .start, Cause.testExit)]

/-- From `s` to `t` the module state stays, or becomes OFF, or changes by a row of R39. -/
def Zone.Moves (s t : Zone) : Prop :=
  t.mode = s.mode ∨ t.mode = .off ∨ (s.mode, t.mode, t.fld (pZONE 0) ZONE0.STATE_ENTRY_CAUSE) ∈ transitionRows

/-- An entry to `m` with `cause` is one that R39 has from state `l`, or leaves that state as it is. -/
@[reducible] def MayEnter (l m : Mode) (cause : Nat) : Prop := l = m ∨ (l, m, cause % 2 ^ 8) ∈ transitionRows

theorem mayEnter_reset {l : Mode} (h : l ∈ [Mode.start, .service, .lightship, .test]) : MayEnter l .start Cause.reset := by
  revert h
  cases l <;> decide

theorem mayEnter_sleep {l : Mode} (h : l ∈ [Mode.service, .lightship]) : MayEnter l .sleep Cause.sleepCommit := by
  revert h
  cases l <;> decide

theorem mayEnter_test {l : Mode} (h : l ∈ [Mode.service, .lightship]) : MayEnter l .test Cause.testEntry := by
  revert h
  cases l <;> decide

namespace Zone

theorem mode_of_inMode {s : Zone} {l : List Mode} (h : s.inMode l = true) : s.mode ∈ l := by
  simpa [inMode] using h

variable {s₀ s t : Zone}

theorem Moves.unless {c : Prop} [Decidable c] (hs : s₀.Moves s) (ht : ¬c → s₀.Moves t) : s₀.Moves (if c then s else t) := by
  split
  · exact hs
  · exact ht ‹_›

theorem Moves.when {c : Prop} [Decidable c] (hs : c → s₀.Moves s) (ht : s₀.Moves t) : s₀.Moves (if c then s else t) := by
  split
  · exact hs ‹_›
  · exact ht

namespace KeepsState

theorem moves (h : s₀.KeepsState s) : s₀.Moves s := .inl h.mode

/-- To show the state and the cause of an entry is a move, where the entry may happen. -/
theorem moves_of_entry {m : Mode} {cause : Nat} (h : s₀.KeepsState s) (hm : MayEnter s.mode m cause) (hmode : t.mode = m)
    (hcause : t.fld (pZONE 0) ZONE0.STATE_ENTRY_CAUSE = cause % 2 ^ 8) : s₀.Moves t := by
  rw [Zone.Moves, hmode, hcause, ← h.mode]
  exact hm.elim (fun he => .inl he.symm) fun hr => .inr (.inr hr)

/-- What follows an entry keeps what it shows. -/
theorem enters {x : Zone} {m : Mode} {cause : Nat} (h : s₀.KeepsState s) (hm : MayEnter s.mode m cause)
    (ht : (x.setState m cause).KeepsState t) : s₀.Moves t :=
  h.moves_of_entry hm (ht.mode.trans (mode_setState _ _ _)) (ht.cause.trans (entryCause_setState _ _ _))

theorem entersStartThen {x : Zone} {cause : Nat} {maint : Bool} (h : s₀.KeepsState s) (hm : MayEnter s.mode .start cause)
    (ht : (x.enterStart cause maint).KeepsState t) : s₀.Moves t :=
  have hx := x.enterStart_entersStart cause maint
  h.moves_of_entry hm (ht.mode.trans hx.mode) (ht.cause.trans hx.cause)

theorem enterStart {cause : Nat} {maint : Bool} (h : s₀.KeepsState s) (hm : MayEnter s.mode .start cause) :
    s₀.Moves (s.enterStart cause maint) :=
  h.entersStartThen hm .refl

theorem enterLightship (h : s₀.KeepsState s) (hm : s.mode = .start) : s₀.Moves s.enterLightship :=
  h.enters (.inr (by rw [hm]; decide))
    (((KeepsState.refl.when fun _ h => h.bootKeys).settleLightship.parts.setFld.loseDram.reporterTakes.sendReport.notice).firstEntry)

/-- A start that fails is tried again, which is no change, or ends in LIGHTSHIP. -/
theorem startFail {reason detail} (h : s₀.KeepsState s) : s₀.Moves (s.startFail reason detail) := by
  unfold Zone.startFail
  split
  · exact h.moves
  next hc =>
    have hstart : s.mode = .start := by
      simp only [startCounts, Bool.not_eq_true', Bool.not_eq_false, Bool.and_eq_true] at hc
      exact List.mem_singleton.1 (mode_of_inMode hc.1.1)
    have hrs : (s.addStartRecord reason detail true).mode = .start := (KeepsState.refl.addStartRecord : s.KeepsState _).mode.trans hstart
    dsimp only
    split
    · exact h.addStartRecord.enterLightship hrs
    · exact h.addStartRecord.enterStart (.inl hrs)

theorem orderlyReset {detail} : s₀.Moves (s.orderlyReset detail) := .inr (.inl (s.orderlyReset_entersOff detail).mode)

theorem judgeBist {results} (h : s₀.KeepsState s) : s₀.Moves (s.judgeBist results) := by
  unfold Zone.judgeBist
  dsimp only
  split
  · exact h.startBists.setFld.setStart.startFail
  · split
    · exact h.startBists.setFld.setStart.startFail
    · exact h.startBists.setFld.setStart.startFail
    · exact (h.startBists.setFld.setStart.when (fun _ h => h.bistKeeper)
        |>.when (fun _ h => h.bistKeeper)
        |>.wakePorts.setPhase).moves

theorem enterService (h : s₀.KeepsState s) (hm : s.mode = .start) : s₀.Moves s.enterService :=
  h.enters (.inr (by rw [hm]; decide)) (KeepsState.refl.setPhase.setFld.setStart.showFigures.firstEntry)

theorem enterTest (h : s₀.KeepsState s) (hm : s.mode ∈ [.service, .lightship]) : s₀.Moves s.enterTest :=
  h.enters (x := s.abortCommands false) (mayEnter_test hm)
    (KeepsState.refl.expireKeys.forceOpenAll.gensOff.forEach (fun _ _ h => h.canAbort.setFld.canNotAlone)
      |>.forEach (fun _ _ h => h.setFld)
      |>.forEach (fun _ _ h => (h.setSer.forEach (fun _ _ h => h.completeAbort)).setFld)
      |>.forEach (fun _ _ h => h.setFld.phyDown)
      |>.swEnableChanged.showFigures.beginSignals)

theorem supervisorReset {seq} (h : s₀.KeepsState s) (hm : s.mode ∈ [.start, .service, .lightship, .test]) :
    s₀.Moves (s.supervisorReset seq) := by
  unfold Zone.supervisorReset
  split
  · exact h.send.moves
  · refine h.addStartRecord.send.enterStart (mayEnter_reset ?_)
    rwa [(KeepsState.refl.addStartRecord.send : s.KeepsState _).mode]

theorem exitLightship {seq maint} (h : s₀.KeepsState s) (hm : s.mode = .lightship) : s₀.Moves (s.exitLightship seq maint) := by
  refine h.send.clearCounts.enterStart (.inr ?_)
  rw [(KeepsState.refl.send.clearCounts : s.KeepsState _).mode, hm]
  decide

/-- A supervisor command whose effect is a transition takes it from a state in which R46 lets the command execute. -/
theorem commandMoves {code e} {argOk : Zone → Bool} {effect : Zone → Zone} (h : s₀.KeepsState s)
    (heffect : ∀ z, s₀.KeepsState z → legalIn code z.mode = true → s₀.Moves (effect z)) :
    s₀.Moves (s.command code e argOk effect) := by
  refine .unless h.moves fun _ => .unless h.count.moves fun _ => .unless h.count.moves fun _ => .unless h.count.moves fun _ =>
    .unless h.setSupv.send.moves fun _ => ?_
  have hz := (h.setSupv (f := fun x => { x with noticeDue := none })).seqAccepted (seq := e.seq)
  refine .unless hz.send.moves fun _ => .unless hz.send.count.moves fun hl => .unless hz.send.moves fun _ =>
    .unless hz.send.moves fun _ => .unless hz.send.moves fun _ => heffect _ hz ?_
  simp only [Bool.or_eq_true, Bool.not_eq_true', not_or, Bool.not_eq_false] at hl
  exact hl.1

end KeepsState

end Zone

end Sys2Proof.Machine
end

