-- ==== Sys2Proof/Proofs/StateSteps.lean ====
section
/-! SUPPORT and O60. Every command keeps the module state or moves by the table of R39. -/

namespace Sys2Proof.Machine

open Reg

set_option Elab.async false

/-! ### Where a supervisor command may execute -/

theorem legalIn_reset {m : Mode} (h : legalIn Code.reset m = true) : m ∈ [Mode.start, .service, .lightship, .test] := by
  revert h
  cases m <;> decide

theorem legalIn_exitLightship {m : Mode} (h : legalIn Code.exitLightship m = true) : m = .lightship := by
  revert h
  cases m <;> decide

theorem legalIn_enterTest {m : Mode} (h : legalIn Code.enterTest m = true) : m ∈ [Mode.service, .lightship] := by
  revert h
  cases m <;> decide

theorem legalIn_exitTest {m : Mode} (h : legalIn Code.exitTest m = true) : m = .test := by
  revert h
  cases m <;> decide

/-! ### Commands -/

/-- `r` answers a next state with the queue of `st`, to which the module state stayed or moved by the table. -/
def MovesByTable (st : State) (r : Result) : Prop :=
  ∃ z : Zone, r = .next { st with zone := z } ∧ st.zone.Moves z

namespace MovesByTable

variable {st : State} {f : Zone → Zone}

theorem runTo (hf : ∀ z, st.zone.KeepsState z → st.zone.Moves (f z)) : MovesByTable st (st.run f) :=
  ⟨f st.zone, rfl, hf st.zone .refl⟩

theorem runOnTo (hf : ∀ z, st.zone.KeepsState z → z.logicRuns = true → st.zone.Moves (f z)) : MovesByTable st (st.runOn f) :=
  runTo fun z h => .when (hf z h) h.moves

theorem run (hf : ∀ z, st.zone.KeepsState z → st.zone.KeepsState (f z)) : MovesByTable st (st.run f) :=
  runTo fun z h => (hf z h).moves

theorem runFw (hf : ∀ z, st.zone.KeepsState z → st.zone.KeepsState (f z)) : MovesByTable st (st.runFw f) :=
  run fun z h => .ite (hf z h) h

theorem runOn (hf : ∀ z, st.zone.KeepsState z → st.zone.KeepsState (f z)) : MovesByTable st (st.runOn f) :=
  run fun z h => .ite (hf z h) h

theorem runBy {w : Writer} (hf : ∀ z, st.zone.KeepsState z → st.zone.KeepsState (f z)) : MovesByTable st (st.runBy w f) := by
  cases w with
  | firmware src => exact runFw hf
  | keeper k => exact runOn hf

theorem runLc {w : Writer} {testPort : Bool} (hf : ∀ z, st.zone.KeepsState z → st.zone.KeepsState (f z)) :
    MovesByTable st (st.runLc w testPort f) := by
  unfold State.runLc
  split
  · exact run hf
  · exact runBy fun z h => .ite (hf z h) h

theorem registerWrite {writer offset size mode value st} :
    MovesByTable st (execRegisterWrite writer offset size mode value st) := by
  refine .runBy fun _ h => ?_
  dsimp only
  split
  · exact h.spaceWrite.respond
  · exact .ite h.keeperWrite h

theorem rcRead {src offset size st} : MovesByTable st (execRcRead src offset size st) :=
  .runFw fun _ h => h.spaceRead.respond

theorem pageLock {writer page st} : MovesByTable st (execPageLock writer page st) := by
  refine .runBy fun _ h => ?_
  dsimp only
  split
  · exact h.spaceWrite.respond
  · exact h.keeperWrite

theorem dcqPacketWrite {queue words complete st} : MovesByTable st (execDcqPacketWrite queue words complete st) :=
  .runOn fun _ h => .ite h h.setDcq

theorem dcqWordRead {queue ecc st} : MovesByTable st (execDcqWordRead queue ecc st) := by
  refine .runOn fun _ h => ?_
  dsimp only
  split
  · exact h
  · split
    · exact h.setDcq.count.setFld.report
    · exact h.setDcq.when fun _ h => h.count

theorem dcqClockStop {queue st} : MovesByTable st (execDcqClockStop queue st) := .run fun _ h => h.setDcq

theorem clockMonitorWindow {domain window st} : MovesByTable st (execClockMonitorWindow domain window st) :=
  .runOn fun _ h => .ite h (h.paced (fun _ h => h.clockWindow))

theorem startNotice {st} : MovesByTable st (execStartNotice st) := .run fun _ h => h.startNotice

theorem startNoticeRepeat {st} : MovesByTable st (execStartNoticeRepeat st) := .run fun _ h => h.startNotice

theorem getStatus {env st} : MovesByTable st (execGetStatus env st) := .run fun _ h => h.command fun _ h => h.send

theorem reset {env st} : MovesByTable st (execReset env st) :=
  .runTo fun _ h => h.commandMoves fun _ h hl => h.supervisorReset (legalIn_reset hl)

theorem bindSupervisor {env st} : MovesByTable st (execBindSupervisor env st) :=
  .run fun _ h => h.command fun _ h => h.bindSupervisor

theorem setProfile {env st} : MovesByTable st (execSetProfile env st) :=
  .run fun _ h => h.command fun _ h => h.setFld.send

theorem loadTable {env stored st} : MovesByTable st (execLoadTable env stored st) :=
  .run fun _ h => h.command fun _ h => h.loadTable

theorem commitTable {env st} : MovesByTable st (execCommitTable env st) :=
  .run fun _ h => h.command fun _ h => h.commitTable

theorem rollbackTable {env st} : MovesByTable st (execRollbackTable env st) :=
  .run fun _ h => h.command fun _ h => h.rollbackTable

theorem watchChange {env st} : MovesByTable st (execWatchChange env st) :=
  .run fun _ h => h.command fun _ h => h.watchChange

theorem sleepRequest {env st} : MovesByTable st (execSleepRequest env st) :=
  .run fun _ h => h.command fun _ h => h.sleepRequest

theorem scheduleGlobal {env st} : MovesByTable st (execScheduleGlobal env st) :=
  .run fun _ h => h.command fun _ h => h.scheduleGlobal

theorem cancelGlobal {env st} : MovesByTable st (execCancelGlobal env st) :=
  .run fun _ h => h.command fun _ h => h.cancelGlobal

theorem forceTimeStep {env st} : MovesByTable st (execForceTimeStep env st) :=
  .run fun _ h => h.command fun _ h => h.forceTimeStep

theorem grantResource {env st} : MovesByTable st (execGrantResource env st) :=
  .run fun _ h => h.command fun _ h => h.grantResource

theorem keyRoll {env st} : MovesByTable st (execKeyRoll env st) := .run fun _ h => h.command fun _ h => h.rollSet.send

theorem logFreeze {env st} : MovesByTable st (execLogFreeze env st) := .run fun _ h => h.command fun _ h => h.freeze.send

theorem readStartReasons {env st} : MovesByTable st (execReadStartReasons env st) :=
  .run fun _ h => h.command fun _ h => h.send

theorem clearStartCount {env st} : MovesByTable st (execClearStartCount env st) :=
  .run fun _ h => h.command fun _ h => h.clearCounts.send

theorem exitLightship {env st} : MovesByTable st (execExitLightship env st) :=
  .runTo fun _ h => h.commandMoves fun _ h hl => h.exitLightship (legalIn_exitLightship hl)

theorem enterTest {env st} : MovesByTable st (execEnterTest env st) :=
  .runTo fun _ h => h.commandMoves fun _ h hl => h.send.enterTest (legalIn_enterTest hl)

theorem exitTest {env st} : MovesByTable st (execExitTest env st) :=
  .runTo fun z h => h.commandMoves fun z h hl => h.send.enterStart (by
    rw [show (z.send Code.exitTest env.seq Status.ok []).mode = .test from legalIn_exitTest hl]
    decide)

theorem powerUp {st} : MovesByTable st (execPowerUp st) :=
  .runTo fun _ h => .when (fun hc => h.enterStart (by rw [List.mem_singleton.1 (Zone.mode_of_inMode hc)]; decide)) h.moves

theorem orderlyReset {st} : MovesByTable st (execOrderlyReset st) :=
  .runTo fun _ h => .unless h.moves fun _ => Zone.KeepsState.orderlyReset

theorem crankHoldEntry {st} : MovesByTable st (execCrankHoldEntry st) :=
  .run fun _ h => .ite h (.ite h.windowMark.parts.showCrank h.windowMark.parts)

theorem crankHoldExit {st} : MovesByTable st (execCrankHoldExit st) := .run fun _ h => h.leaveCrank

theorem crankAccClear {st} : MovesByTable st (execCrankAccClear st) := by
  refine .run fun _ h => ?_
  dsimp only
  split
  · exact .ite h.setFld.parts h
  · exact h

theorem crankLimit {st} : MovesByTable st (execCrankLimit st) :=
  .runTo fun _ h => .unless h.moves fun _ => Zone.KeepsState.orderlyReset

theorem surgeEntry {feed volts st} : MovesByTable st (execSurgeEntry feed volts st) :=
  .run fun _ h => .ite h h.feedEvent.leaveCrank

theorem surgeLong {feed st} : MovesByTable st (execSurgeLong feed st) := by
  refine .run fun _ h => ?_
  dsimp only
  split
  · exact .ite (.ite h.setFeed.judgeFeed h.setFeed) h
  · exact h

theorem surgeExit {feed volts st} : MovesByTable st (execSurgeExit feed volts st) := .run fun _ h => .ite h.feedEvent h

theorem feedLost {feed volts st} : MovesByTable st (execFeedLost feed volts st) := .run fun _ h => .ite h h.feedEvent

theorem reverseEntry {feed volts st} : MovesByTable st (execReverseEntry feed volts st) :=
  .run fun _ h => .ite h h.feedEvent

theorem feedReturn {feed volts st} : MovesByTable st (execFeedReturn feed volts st) := .run fun _ h => .ite h.feedEvent h

theorem gndLost {feed st} : MovesByTable st (execGndLost feed st) :=
  .runOn fun _ h => .ite h h.setFld.supplyEvent.reportSupply

theorem gndRestored {feed st} : MovesByTable st (execGndRestored feed st) := .runOn fun _ h => .ite h h.setFld

theorem feedOverload {avgA avgB st} : MovesByTable st (execFeedOverload avgA avgB st) :=
  .runOn fun _ h => ((h.setFld.setFld.when (fun _ h => h.event)).when (fun _ h => h.event)).when fun _ h => h.event

theorem inputSample {input millivolts st} : MovesByTable st (execInputSample input millivolts st) :=
  .run fun _ h =>
    .ite h (h.paced (fun _ h => .ite h.setInput.setFld.showActive.takeLevel h.setInput.setFld.showActive))

theorem inputLevelChange {input st} : MovesByTable st (execInputLevelChange input st) :=
  .run fun _ h => .ite h.takeLevel h

theorem captureRise {input st} : MovesByTable st (execCaptureRise input st) := by
  refine .run fun _ h => ?_
  dsimp only
  split
  · exact h
  · split
    · exact h.setInput.setFld.setFld.setFld.setFld
    · exact h.setInput

theorem captureFall {input st} : MovesByTable st (execCaptureFall input st) := .run fun _ h => .ite h.setInput h

theorem captureTimeout {input st} : MovesByTable st (execCaptureTimeout input st) := by
  refine .run fun _ h => ?_
  split
  · exact .ite h.clearCapture h
  · exact h

theorem inCfgWrite {writer input value st} : MovesByTable st (execInCfgWrite writer input value st) :=
  .runBy fun _ h => .ite h.inCfgWrite h

theorem inThreshWrite {writer input value st} : MovesByTable st (execInThreshWrite writer input value st) :=
  .runBy fun _ h => .ite h.inThreshWrite h

theorem thermalSample {base soc switchDie powerA powerB st} :
    MovesByTable st (execThermalSample base soc switchDie powerA powerB st) :=
  .runOn fun _ h =>
    h.paced fun _ h =>
      h.setFld.setFld.setFld.setFld.setFld.when (fun _ h => h.event)
        |>.when (fun _ h => h.event.setFld)
        |>.when (fun _ h => h.event.setFld.when fun _ h => h.report)
        |>.when (fun _ h => h.setFld.setFld)

theorem opAdd {keeper wd ws wt f st} : MovesByTable st (execOpAdd keeper wd ws wt f st) := .run fun _ h => h.opAdd

theorem opSub {keeper wd ws wt f st} : MovesByTable st (execOpSub keeper wd ws wt f st) := .run fun _ h => h.opSub

theorem opAnd {keeper wd ws wt f st} : MovesByTable st (execOpAnd keeper wd ws wt f st) := .run fun _ h => h.opAnd

theorem opOr {keeper wd ws wt f st} : MovesByTable st (execOpOr keeper wd ws wt f st) := .run fun _ h => h.opOr

theorem opXor {keeper wd ws wt f st} : MovesByTable st (execOpXor keeper wd ws wt f st) := .run fun _ h => h.opXor

theorem opShl {keeper wd ws amount f st} : MovesByTable st (execOpShl keeper wd ws amount f st) :=
  .run fun _ h => h.opShl

theorem opShr {keeper wd ws amount f st} : MovesByTable st (execOpShr keeper wd ws amount f st) :=
  .run fun _ h => h.opShr

theorem opSra {keeper wd ws amount f st} : MovesByTable st (execOpSra keeper wd ws amount f st) :=
  .run fun _ h => h.opSra

theorem opMul {keeper wd ws wt f u st} : MovesByTable st (execOpMul keeper wd ws wt f u st) := .run fun _ h => h.opMul

theorem opMulh {keeper wd ws wt f u st} : MovesByTable st (execOpMulh keeper wd ws wt f u st) := .run fun _ h => h.opMulh

theorem opMin {keeper wd ws wt f u st} : MovesByTable st (execOpMin keeper wd ws wt f u st) := .run fun _ h => h.opMin

theorem opMax {keeper wd ws wt f u st} : MovesByTable st (execOpMax keeper wd ws wt f u st) := .run fun _ h => h.opMax

theorem opSat {keeper wd ws k f u st} : MovesByTable st (execOpSat keeper wd ws k f u st) := .run fun _ h => h.opSat

theorem opAddi {keeper wd ws f imm st} : MovesByTable st (execOpAddi keeper wd ws f imm st) := .run fun _ h => h.opAddi

theorem opAndi {keeper wd ws f imm st} : MovesByTable st (execOpAndi keeper wd ws f imm st) := .run fun _ h => h.opAndi

theorem opOri {keeper wd ws f imm st} : MovesByTable st (execOpOri keeper wd ws f imm st) := .run fun _ h => h.opOri

theorem opXori {keeper wd ws f imm st} : MovesByTable st (execOpXori keeper wd ws f imm st) := .run fun _ h => h.opXori

theorem opLui {keeper wd imm st} : MovesByTable st (execOpLui keeper wd imm st) := .run fun _ h => h.opLui

theorem opCmpi {keeper ws imm st} : MovesByTable st (execOpCmpi keeper ws imm st) := .run fun _ h => h.opCmpi

theorem opCmp {keeper ws wt st} : MovesByTable st (execOpCmp keeper ws wt st) := .run fun _ h => h.opCmp

theorem opTst {keeper ws wt st} : MovesByTable st (execOpTst keeper ws wt st) := .run fun _ h => h.opTst

theorem opSkip {keeper cc n st} : MovesByTable st (execOpSkip keeper cc n st) := .run fun _ h => h.opSkip

theorem opLdc {keeper w addr st} : MovesByTable st (execOpLdc keeper w addr st) := .run fun _ h => h.opLdc

theorem opStc {keeper w addr st} : MovesByTable st (execOpStc keeper w addr st) := .run fun _ h => h.opStc

theorem opLdcx {keeper w wx addr st} : MovesByTable st (execOpLdcx keeper w wx addr st) := .run fun _ h => h.opLdcx

theorem opStcx {keeper w wx addr st} : MovesByTable st (execOpStcx keeper w wx addr st) := .run fun _ h => h.opStcx

theorem opMirr {keeper wd st} : MovesByTable st (execOpMirr keeper wd st) := .run fun _ h => h.opMirr

theorem opCrd {keeper w page word st} : MovesByTable st (execOpCrd keeper w page word st) := .run fun _ h => h.opCrd

theorem opCwr {keeper w page word st} : MovesByTable st (execOpCwr keeper w page word st) := .run fun _ h => h.opCwr

theorem opCwrSet {keeper w page word st} : MovesByTable st (execOpCwrSet keeper w page word st) :=
  .run fun _ h => h.opCwrSet

theorem opCwrClr {keeper w page word st} : MovesByTable st (execOpCwrClr keeper w page word st) :=
  .run fun _ h => h.opCwrClr

theorem opCwrTgl {keeper w page word st} : MovesByTable st (execOpCwrTgl keeper w page word st) :=
  .run fun _ h => h.opCwrTgl

theorem opCop {keeper wd variant page word st} : MovesByTable st (execOpCop keeper wd variant page word st) :=
  .run fun _ h => h.opCop

theorem opChkt {keeper ticket st} : MovesByTable st (execOpChkt keeper ticket st) := .run fun _ h => h.opChkt

theorem opTkr {keeper wd ticket st} : MovesByTable st (execOpTkr keeper wd ticket st) := .run fun _ h => h.opTkr

theorem opCrdx {keeper wd wx page arrives st} : MovesByTable st (execOpCrdx keeper wd wx page arrives st) :=
  .run fun _ h => h.opCrdx

theorem opCwrx {keeper w wx page st} : MovesByTable st (execOpCwrx keeper w wx page st) := .run fun _ h => h.opCwrx

theorem opQpop {keeper w queue st} : MovesByTable st (execOpQpop keeper w queue st) := .run fun _ h => h.opQpop

theorem opQpush {keeper w queue st} : MovesByTable st (execOpQpush keeper w queue st) := .run fun _ h => h.opQpush

theorem opQlen {keeper wd event queue st} : MovesByTable st (execOpQlen keeper wd event queue st) :=
  .run fun _ h => h.opQlen

theorem opTnow {keeper wd st} : MovesByTable st (execOpTnow keeper wd st) := .run fun _ h => h.opTnow

theorem opTsec {keeper wd st} : MovesByTable st (execOpTsec keeper wd st) := .run fun _ h => h.opTsec

theorem opTslot {keeper wd st} : MovesByTable st (execOpTslot keeper wd st) := .run fun _ h => h.opTslot

theorem opEvt {keeper ws code st} : MovesByTable st (execOpEvt keeper ws code st) := .run fun _ h => h.opEvt

theorem opFlt {keeper ws code st} : MovesByTable st (execOpFlt keeper ws code st) := .run fun _ h => h.opFlt

theorem opNop {keeper st} : MovesByTable st (execOpNop keeper st) := .run fun _ h => h.opNop

theorem opEnd {keeper st} : MovesByTable st (execOpEnd keeper st) := .run fun _ h => h.opEnd

theorem ecallAbsent {hart st} : MovesByTable st (execEcallAbsent hart st) := .runFw fun _ h => h.ecallAbsent

theorem budgetOverrun {keeper st} : MovesByTable st (execBudgetOverrun keeper st) := .runOn fun _ h => .ite h.selfCheck h

theorem selfCheckFailure {keeper cause st} : MovesByTable st (execSelfCheckFailure keeper cause st) :=
  .runOn fun _ h => h.selfCheck

theorem ticketCompletion {keeper ticket serial status value st} :
    MovesByTable st (execTicketCompletion keeper ticket serial status value st) :=
  .runOn fun _ h => h.complete

theorem ticketTimeout {keeper st} : MovesByTable st (execTicketTimeout keeper st) :=
  .runOn fun _ h => .ite h.ticketTimeouts h

theorem slotMark {st} : MovesByTable st (execSlotMark st) := .runOn fun _ h => h.slotMark

theorem roundBoundary {st} : MovesByTable st (execRoundBoundary st) := .runOn fun _ h => .ite h.slotMark h

theorem requestPost {queue src word st} : MovesByTable st (execRequestPost queue src word st) :=
  .runFw fun _ h => .ite h.regionCheck.respond h.regionCheck.postWord

theorem frameTimeout {queue st} : MovesByTable st (execFrameTimeout queue st) :=
  .runOn fun _ h => .ite h.setReqQ.countBy h

theorem eventPop {queue src st} : MovesByTable st (execEventPop queue src st) :=
  .runFw fun _ h => .ite h.regionCheck.respond h.regionCheck.popEvt

theorem eventQueueNotice {queue st} : MovesByTable st (execEventQueueNotice queue st) :=
  .runOn fun _ h => .ite h.setEvtQ.sendNotice h

theorem loaderVerdict {keeper st} : MovesByTable st (execLoaderVerdict keeper st) := .runOn fun _ h => h.loaderVerdict

theorem beaconReceive {sender errors disturbed st} : MovesByTable st (execBeaconReceive sender errors disturbed st) := by
  refine .runOn fun _ h => ?_
  dsimp only
  split
  · exact h.sendBeacon
  · exact (h.sendBeacon.forEach (fun _ _ h => h.stageHear)).keeperHear.setKeeper

theorem localMark {keeper st} : MovesByTable st (execLocalMark keeper st) := .runOn fun _ h => h.localMark

theorem fenceConfirm {keeper st} : MovesByTable st (execFenceConfirm keeper st) :=
  .runOn fun _ h => .ite h.confirmFence h

theorem hardIsolation {keeper st} : MovesByTable st (execHardIsolation keeper st) := by
  refine .runOn fun _ h => ?_
  dsimp only
  split
  · exact .ite h.setFld.confirmFence.report h
  · exact h

theorem stageSilent {stage st} : MovesByTable st (execStageSilent stage st) := by
  refine .runOn fun _ h => ?_
  dsimp only
  split
  · exact h
  · exact .ite h (.ite h.setStage.report.loadSilent (.ite h.setStage.report.canAbort h.setStage.report))

theorem mirrorFrameReceive {keeper flips closingLost st} :
    MovesByTable st (execMirrorFrameReceive keeper flips closingLost st) := by
  refine .runOn fun _ h => ?_
  dsimp only
  split
  · exact h.sendBeacon
  · exact .ite h.sendBeacon h.sendBeacon.setKeeper

theorem chCtrlWrite {ch value st} : MovesByTable st (execChCtrlWrite ch value st) := .runOn fun _ h => h.chCtrlWrite

theorem fastTrip {ch peak st} : MovesByTable st (execFastTrip ch peak st) := .runOn fun _ h => h.fastTrip

theorem warmupTripTaken {ch st} : MovesByTable st (execWarmupTripTaken ch st) := by
  refine .runOn fun _ h => ?_
  dsimp only
  split
  · exact .ite h.takeWarmupTrip h
  · exact h

theorem softLimitTick {ch raw st} : MovesByTable st (execSoftLimitTick ch raw st) :=
  .runOn fun _ h => .ite h (.ite h.setFld.setFldS.setLoad.setFldU.softTrip h.setFld.setFldS.setLoad.setFldU)

theorem junctionSample {ch temp st} : MovesByTable st (execJunctionSample ch temp st) :=
  .runOn fun _ h => h.paced fun _ h => .ite h.setFld.latchSet (.ite h.setFld.latchRelease h.setFld)

theorem spacingEnd {ch st} : MovesByTable st (execSpacingEnd ch st) := by
  refine .runOn fun _ h => ?_
  dsimp only
  split
  · split
    · split
      · exact h.toOpen
      · exact h.setLState.chEvent.setLoad.applyReq
    · exact h
  · exact h

theorem windowEnd {ch st} : MovesByTable st (execWindowEnd ch st) := by
  refine .runOn fun _ h => ?_
  dsimp only
  split
  · split
    · split
      · exact h.toOpen
      · exact h.setLoad.setLState
    · exact h
  · exact h

theorem refill {ch st} : MovesByTable st (execRefill ch st) := by
  refine .runOn fun _ h => ?_
  dsimp only
  split
  · exact .ite (.ite h.setLoad.setFld.chEvent.toOff h.setLoad.setFld.chEvent) h
  · exact h

theorem reverseGapEnd {ch st} : MovesByTable st (execReverseGapEnd ch st) := by
  refine .runOn fun _ h => ?_
  dsimp only
  split
  · exact .ite (.ite h.setLoad.applyReq h.setLoad) h
  · exact h

theorem feedSag {feed st} : MovesByTable st (execFeedSag feed st) := by
  refine .runOn fun _ h => ?_
  dsimp only
  split
  · exact h
  · split
    · exact h.parts
    · exact h.parts

theorem openLoadFilter {ch low high st} : MovesByTable st (execOpenLoadFilter ch low high st) :=
  .runOn fun _ h =>
    .ite h (.ite h.setLoad (.ite h.setLoad (.ite h.setLoad.setFld.event (.ite h.setLoad.setFld h.setLoad))))

theorem switchFaultDetect {ch senseMin senseMax voutMin voutMax feedV st} :
    MovesByTable st (execSwitchFaultDetect ch senseMin senseMax voutMin voutMax feedV st) :=
  .runOn fun _ h => .ite h h.setFeedV.setFld.switchFault.switchFault.switchFault

theorem clearRetry {ch keeper ticket st} : MovesByTable st (execClearRetry ch keeper ticket st) :=
  .runOn fun _ h => h.opClearRetry

theorem offDiag {ch keeper ticket vout feedV st} : MovesByTable st (execOffDiag ch keeper ticket vout feedV st) :=
  .runOn fun _ h => h.setFeedV.opOffDiag

theorem offDiagDone {ch millivolts st} : MovesByTable st (execOffDiagDone ch millivolts st) := by
  refine .runOn fun _ h => ?_
  dsimp only
  split
  · exact .ite h.setLoad.completeOk h
  · exact h

theorem snapshot {ch keeper ticket st} : MovesByTable st (execSnapshot ch keeper ticket st) :=
  .runOn fun _ h => h.opSnapshot

theorem generatorBoundary {gen st} : MovesByTable st (execGeneratorBoundary gen st) :=
  .runOn fun _ h => .ite h (.ite h.applySet h.fadeOnly)

theorem followBoundary {ch st} : MovesByTable st (execFollowBoundary ch st) := by
  refine .runOn fun _ h => ?_
  dsimp only
  split
  · exact .ite h.applyReq h
  · exact h

theorem charStagedWrite {gen word value st} : MovesByTable st (execCharStagedWrite gen word value st) :=
  .runOn fun _ h => h.stagedWrite

theorem stageHoldWrite {gen hold st} : MovesByTable st (execStageHoldWrite gen hold st) := .runOn fun _ h => h.holdWrite

theorem calEdge {ch rawPre rawPost shuntPre shuntPost elecPre elecPost settled alone st} :
    MovesByTable st (execCalEdge ch rawPre rawPost shuntPre shuntPost elecPre elecPost settled alone st) :=
  .runOn fun _ h => .ite h.count (.ite h.count (.ite h.count (.ite h.count h.calClean)))

theorem calStale {ch st} : MovesByTable st (execCalStale ch st) := .runOn fun _ h => .ite h.unconverge.event h

theorem calRestart {writer ch st} : MovesByTable st (execCalRestart writer ch st) :=
  .runBy fun _ h => .ite h.calRestart h

theorem calRecordWrite {st} : MovesByTable st (execCalRecordWrite st) := .runOn fun _ h => .ite h.calSave h

theorem balanceEval {shuntA shuntB elecA elecB satA satB legs st} :
    MovesByTable st (execBalanceEval shuntA shuntB elecA elecB satA satB legs st) :=
  .runOn fun _ h => h.paced fun _ h => h.balEval.balEval

theorem ringUpdate {st} : MovesByTable st (execRingUpdate st) :=
  .runOn fun _ h => .ite h (.ite h.parts.ringUpdate h.parts)

theorem ringRestart {writer st} : MovesByTable st (execRingRestart writer st) := .runBy fun _ h => .ite h.ringRestart h

theorem frameReceive {port frame reception ticks st} :
    MovesByTable st (execFrameReceive port frame reception ticks st) := by
  refine .runOn fun _ h => ?_
  split
  · split
    · exact h.cutBegin
    · exact .receive (.ite h.heardBus h)
  · exact h

theorem losslessAdmit {ingress egress cls st} : MovesByTable st (execLosslessAdmit ingress egress cls st) := by
  refine .runOn fun _ h => ?_
  dsimp only
  split
  · exact h
  · exact .ite (h.shaped (fun _ h => h.setVoq)).showBuf h

theorem hostTxFetch {pair st} : MovesByTable st (execHostTxFetch pair st) := .runOn fun _ h => h.txFetch

theorem hostRxDeliver {port st} : MovesByTable st (execHostRxDeliver port st) := .runOn fun _ h => h.rxDeliver

theorem doorbell {port src pair receive tail st} : MovesByTable st (execDoorbell port src pair receive tail st) :=
  .runFw fun _ h => h.doorbell

theorem crossbarSchedule {plca ecc st} : MovesByTable st (execCrossbarSchedule plca ecc st) :=
  .runOn fun _ h => (h.forEach (fun _ _ h => h.plcaTurn)).crossbar

theorem frameTransmitStart {port plca skew st} : MovesByTable st (execFrameTransmitStart port plca skew st) := by
  refine .runOn fun _ h => ?_
  dsimp only
  split
  · exact (h.when (fun _ h => h.plcaTurn)).shape
  · exact .ite (h.when (fun _ h => h.plcaTurn)).shape.beginTx (h.when (fun _ h => h.plcaTurn)).shape

theorem gateEntryChange {port st} : MovesByTable st (execGateEntryChange port st) := .runOn fun _ h => h.gateEval

theorem gateCommit {port st} : MovesByTable st (execGateCommit port st) := .runOn fun _ h => h.gateEval.gateCommit

theorem streamGateChange {gate st} : MovesByTable st (execStreamGateChange gate st) := .runOn fun _ h => h.sgateEval

theorem ageCheck {st} : MovesByTable st (execAgeCheck st) :=
  .runOn fun _ h => (h.forEach (fun _ _ h => h.forEach fun _ _ h => h.ageQueue)).forEach fun _ _ h => h.showHold

theorem linkDown {port st} : MovesByTable st (execLinkDown port st) := .runOn fun _ h => h.phyDown

theorem linkUp {port speed leader eee st} : MovesByTable st (execLinkUp port speed leader eee st) :=
  .runOn fun _ h => .ite h h.phyUp

theorem holdExpiry {port st} : MovesByTable st (execHoldExpiry port st) := by
  refine .runOn fun _ h => ?_
  dsimp only
  split
  · exact .ite h.flushPort.sw.setFld.setFld.event h
  · exact h

theorem tableWrite {window keeper ticket index st} : MovesByTable st (execTableWrite window keeper ticket index st) :=
  .runOn fun _ h => .ite (.winOp h.winWrite) h

theorem tableRead {window keeper ticket index st} : MovesByTable st (execTableRead window keeper ticket index st) :=
  .runOn fun _ h => .ite (.winOp h.winRead) h

theorem tableClear {window keeper ticket index st} : MovesByTable st (execTableClear window keeper ticket index st) :=
  .runOn fun _ h => .ite (.winOp h.winClear) h

theorem acfSend {keeper ticket arg st} : MovesByTable st (execAcfSend keeper ticket arg st) :=
  .runOn fun _ h => h.acfSend

theorem acfTake {keeper ticket arg st} : MovesByTable st (execAcfTake keeper ticket arg st) :=
  .runOn fun _ h => h.acfTake

theorem counterRead {port offset st} : MovesByTable st (execCounterRead port offset st) :=
  .runOn fun _ h => .ite h.counterRead.parts h

theorem saInstall {writer port assoc sci an slot nextPn st} :
    MovesByTable st (execSaInstall writer port assoc sci an slot nextPn st) :=
  .runBy fun _ h => .ite h.saInstall h

theorem frerResetTimeout {function st} : MovesByTable st (execFrerResetTimeout function st) :=
  .runOn fun _ h => .ite h.recovReset h

theorem servoMeasurement {sourceTime st} : MovesByTable st (execServoMeasurement sourceTime st) := by
  refine .runOn fun _ h => ?_
  dsimp only
  split
  · exact .ite h.measure h
  · exact h

theorem sourceLost {gptpInstance st} : MovesByTable st (execSourceLost gptpInstance st) :=
  .runOn fun _ h => .ite h.parts.setFld.sourceCheck h

theorem ptpMessageReceive {port ptpInstance msg st} :
    MovesByTable st (execPtpMessageReceive port ptpInstance msg st) := by
  refine .runOn fun _ h => ?_
  dsimp only
  split
  · exact h.parts.ptpReceive
  · exact .ite h.stat.ptpReceive h

theorem ptpTransmit {port ptpInstance msg st} : MovesByTable st (execPtpTransmit port ptpInstance msg st) :=
  .runOn fun _ h => .ite h.stat.statBy h

theorem ppsEdge {stampNs st} : MovesByTable st (execPpsEdge stampNs st) :=
  .runOn fun _ h => .ite h (.ite h.count h.parts.setFld.count.sourceCheck.setFld.setFld.measure)

theorem ppsLost {st} : MovesByTable st (execPpsLost st) := by
  refine .runOn fun _ h => ?_
  dsimp only
  split
  · exact .ite h.parts.setFld.event.sourceCheck h
  · exact h

theorem integrityCheck {ticks mismatch st} : MovesByTable st (execIntegrityCheck ticks mismatch st) :=
  .runOn fun _ h => .ite (.ite h.setFld.event h.setFld.event.report) h

theorem tsqPop {writer port st} : MovesByTable st (execTsqPop writer port st) := .runBy fun _ h => .ite h.tsqPop h

theorem timeSnap {writer st} : MovesByTable st (execTimeSnap writer st) := .runBy fun _ h => .ite h.timeSnap h

theorem servoSourceWrite {writer source st} : MovesByTable st (execServoSourceWrite writer source st) :=
  .runBy fun _ h => .ite h.selectSource h

theorem forceStepTimeout {st} : MovesByTable st (execForceStepTimeout st) := by
  refine .runOn fun _ h => ?_
  dsimp only
  split
  · exact .ite h.parts.answer h
  · exact h

theorem globalLogSnapshot {st} : MovesByTable st (execGlobalLogSnapshot st) := by
  refine .runOn fun _ h => ?_
  split
  · exact h.snapshot.globalExecuted
  · exact h

theorem globalKeyRoll {st} : MovesByTable st (execGlobalKeyRoll st) := by
  refine .runOn fun _ h => ?_
  split
  · exact h.rollSet.globalExecuted
  · exact h

theorem globalReset {st} : MovesByTable st (execGlobalReset st) := by
  refine .runOnTo fun z h hl => ?_
  split
  · exact h.globalExecuted.addStartRecord.enterStart (mayEnter_reset (by
      rw [(Zone.KeepsState.refl.globalExecuted.addStartRecord : z.KeepsState _).mode]
      exact Zone.mode_of_inMode hl))
  · exact h.moves

theorem globalProfile {st} : MovesByTable st (execGlobalProfile st) := by
  refine .runOn fun _ h => ?_
  split
  · exact h.setFld.globalExecuted
  · exact h

theorem globalTableMark {st} : MovesByTable st (execGlobalTableMark st) := by
  refine .runOn fun _ h => ?_
  dsimp only
  split
  · exact h.parts.setFldBit.globalExecuted
  · exact h

theorem canFrameReceive {channel frame ticks st} : MovesByTable st (execCanFrameReceive channel frame ticks st) :=
  .runOn fun _ h => h.canReceive

theorem ringNotice {channel st} : MovesByTable st (execRingNotice channel st) :=
  .runOn fun _ h => .ite h.setRing.sendNotice h

theorem rxAckWrite {channel writer value st} : MovesByTable st (execRxAckWrite channel writer value st) :=
  .runBy fun _ h => h.rxAck

theorem txStart {channel keeper ticket variant arg st} :
    MovesByTable st (execTxStart channel keeper ticket variant arg st) :=
  .runOn fun _ h => h.opTxStart

theorem canArbitration {channel st} : MovesByTable st (execCanArbitration channel st) := .runOn fun _ h => h.canArbitrate

theorem canAttemptEnd {channel result st} : MovesByTable st (execCanAttemptEnd channel result st) :=
  .runOn fun _ h => h.canEnd

theorem txExpired {channel st} : MovesByTable st (execTxExpired channel st) := .runOn fun _ h => h.canExpire

theorem recover {channel keeper ticket st} : MovesByTable st (execRecover channel keeper ticket st) :=
  .runOn fun _ h => h.opRecover

theorem recoveryDone {channel st} : MovesByTable st (execRecoveryDone channel st) := .runOn fun _ h => .ite h.canActive h

theorem recoveryTimeout {channel st} : MovesByTable st (execRecoveryTimeout channel st) :=
  .runOn fun _ h => h.setCan.forEach fun _ _ h => h.completeFail

theorem abortPending {channel keeper ticket st} : MovesByTable st (execAbortPending channel keeper ticket st) :=
  .runOn fun _ h => h.opAbortPending

theorem tmReference {channel idle st} : MovesByTable st (execTmReference channel idle st) :=
  .runOn fun _ h => h.tmReference

theorem linHeader {channel keeper ticket arg idle st} :
    MovesByTable st (execLinHeader channel keeper ticket arg idle st) :=
  .runOn fun _ h => h.opLinHeader

theorem linFrameEnd {channel result st} : MovesByTable st (execLinFrameEnd channel result st) := by
  refine .runOn fun _ h => ?_
  split
  · exact h
  · exact h.linEnd

theorem linResponseTimeout {channel received st} : MovesByTable st (execLinResponseTimeout channel received st) := by
  refine .runOn fun _ h => ?_
  dsimp only
  split
  · exact h
  · exact .ite (.ite h.linFail h.linFail) h

theorem linBusShort {short st} : MovesByTable st (execLinBusShort short st) := by
  refine .runOn fun _ h => ?_
  dsimp only
  split
  · exact h
  · split
    · exact h.setFld.event
    · exact h.setFld.event.linFail

theorem linWakeup {channel keeper ticket idle st} : MovesByTable st (execLinWakeup channel keeper ticket idle st) :=
  .runOn fun _ h => h.opLinWakeup

theorem linWakeupDone {channel st} : MovesByTable st (execLinWakeupDone channel st) := by
  refine .runOn fun _ h => ?_
  dsimp only
  split
  · exact h
  · exact .ite h.setLin.completeOk h

theorem linHeaderReceive {channel ident parityOk sync st} :
    MovesByTable st (execLinHeaderReceive channel ident parityOk sync st) := by
  refine .runOn fun s h => .ite h ?_
  extract_lets s₁ s₂ header
  have hs₁ : st.zone.KeepsState s₁ := by
    dsimp only [s₁]
    split
    · exact .ite h.linFail h.linFail
    · exact h
  have hs₂ : st.zone.KeepsState s₂ := hs₁.setFld
  split
  · exact hs₂.ringStore
  · exact hs₂.setLin

theorem linWakeRx {channel micros st} : MovesByTable st (execLinWakeRx channel micros st) :=
  .runOn fun _ h => .ite h.ringStore.event h

theorem serSend {channel keeper ticket arg st} : MovesByTable st (execSerSend channel keeper ticket arg st) :=
  .runOn fun _ h => h.serSend

theorem serAbort {channel keeper ticket st} : MovesByTable st (execSerAbort channel keeper ticket st) :=
  .runOn fun _ h => h.serAbort

theorem serSendStart {channel st} : MovesByTable st (execSerSendStart channel st) := by
  refine .runOn fun _ h => ?_
  dsimp only
  split
  · exact h
  · exact .ite h.setSer h

theorem serSendEnd {channel st} : MovesByTable st (execSerSendEnd channel st) := by
  refine .runOn fun _ h => ?_
  dsimp only
  split
  · exact h
  · exact .ite h (.ite h.setSer.event.count.completeFail (.ite h.setSer.completeOk h))

theorem serBusyExpired {channel st} : MovesByTable st (execSerBusyExpired channel st) :=
  .runOn fun _ h => h.setSer.forEach fun _ _ h => h.completeFail

theorem serCharReceive {channel value parityBad framingBad heldTicks st} :
    MovesByTable st (execSerCharReceive channel value parityBad framingBad heldTicks st) := by
  refine .runOn fun _ h => ?_
  dsimp only
  split
  · exact h.serReadBack
  · exact .ite h.serReceive h

theorem serPacketEnd {channel st} : MovesByTable st (execSerPacketEnd channel st) := by
  refine .runOn fun _ h => ?_
  dsimp only
  split
  · exact .ite h.serStore h
  · exact h

theorem trxWatchdogServe {channel st} : MovesByTable st (execTrxWatchdogServe channel st) :=
  .run fun _ h => .ite h (h.setSleep.setFallback.when (fun _ h => h.canActive))

theorem trxFallback {channel st} : MovesByTable st (execTrxFallback channel st) :=
  .run fun _ h => .ite h h.setFallback.count

theorem fallbackWake {channel seen st} : MovesByTable st (execFallbackWake channel seen st) :=
  .run fun _ h => .ite (.ite h.canSees.setFldBit h.canSees) h

theorem drainEnd {st} : MovesByTable st (execDrainEnd st) := .run fun _ h => .ite h.setSleep h

theorem commitPoint {st} : MovesByTable st (execCommitPoint st) := .run fun _ h => .ite h.commitSleep h

theorem sleepEntryComplete {st} : MovesByTable st (execSleepEntryComplete st) :=
  .runTo fun z h => .when (fun hc => h.enters (mayEnter_sleep (Zone.mode_of_inMode hc.1))
    (Zone.KeepsState.refl.setFld.setSleep.loseDram.parts : (Zone.setState _ .sleep Cause.sleepCommit).KeepsState _)) h.moves

theorem inputWake {input level st} : MovesByTable st (execInputWake input level st) :=
  .run fun _ h => .ite h (.ite h.wakeRearm (.ite h.wake h))

theorem wakePoll {input millivolts st} : MovesByTable st (execWakePoll input millivolts st) :=
  .run fun _ h => .ite h (.ite (.ite h.setSleep.setSleep.wake h.setSleep.setSleep) h.setSleep.wakeRearm.setSleep)

theorem canWake {channel seen st} : MovesByTable st (execCanWake channel seen st) :=
  .run fun _ h => .ite h (.ite h.canSees.wake h.canSees)

theorem ethWake {port st} : MovesByTable st (execEthWake port st) := .run fun _ h => .ite h.wake h

theorem wakeTimer {st} : MovesByTable st (execWakeTimer st) := by
  refine .run fun _ h => ?_
  split
  · exact .ite h.setSleep.wake h
  · exact h

theorem wakeStart {st} : MovesByTable st (execWakeStart st) :=
  .runTo fun z h => .when (fun hc => h.entersStartThen (cause := Cause.wake) (by
    rw [List.mem_singleton.1 (Zone.mode_of_inMode (Bool.and_eq_true_iff.1 hc).1)]; decide)
    (Zone.KeepsState.refl.when fun _ h => h.wokeCan)) h.moves

theorem awakeLimit {st} : MovesByTable st (execAwakeLimit st) :=
  .run fun _ h => .ite h.event.count.sleepNotice.beginSleep h

theorem keepAwake {writer st} : MovesByTable st (execKeepAwake writer st) := .runBy fun _ h => .ite h.keepAwake h

theorem falseWakeCheck {st} : MovesByTable st (execFalseWakeCheck st) := by
  refine .run fun _ h => ?_
  dsimp only
  split
  · exact .ite (h.setSleep.when (fun _ h => h.event.count)) h
  · exact h

theorem dualpassLeg {core mode native inverted checks st} :
    MovesByTable st (execDualpassLeg core mode native inverted checks st) :=
  .runFw fun _ h => h.leg

theorem legRerun {core mode native inverted checks st} :
    MovesByTable st (execLegRerun core mode native inverted checks st) :=
  .runFw fun _ h => h.legRerun

theorem accessLeg {core mode access addr inverted size flip nextPc st} :
    MovesByTable st (execAccessLeg core mode access addr inverted size flip nextPc st) :=
  .runFw fun _ h => h.accessLeg

theorem comparatorSelftest {core ok st} : MovesByTable st (execComparatorSelftest core ok st) :=
  .runFw fun _ h => .ite h (.ite h.setCore h.setCore.checkerFailure)

theorem debugAttach {st} : MovesByTable st (execDebugAttach st) := .runOn fun _ h => h.debugAttach

theorem zdpClrCounts {core mode value st} : MovesByTable st (execZdpClrCounts core mode value st) :=
  .runFw fun _ h => h.zdpCsr

theorem zdpInjectArm {core mode value st} : MovesByTable st (execZdpInjectArm core mode value st) :=
  .runFw fun _ h => h.zdpCsr

theorem xzmrWrite {safety hart csr mode value st} : MovesByTable st (execXzmrWrite safety hart csr mode value st) :=
  .runFw fun _ h => .ite h.safetyCsrOp h.appCsrOp

theorem worldSwitch {hart world st} : MovesByTable st (execWorldSwitch hart world st) := .runFw fun _ h => h.switchWorld

theorem memoryAccess {initiator kind addr size data st} :
    MovesByTable st (execMemoryAccess initiator kind addr size data st) := by
  refine .runFw fun _ h => ?_
  dsimp only
  split
  · exact h
  · split
    · exact h.appHartAccess
    · exact h.safetyHartAccess

theorem dmaTranslate {master src addr write walkUe st} :
    MovesByTable st (execDmaTranslate master src addr write walkUe st) := by
  refine .runFw fun _ h => ?_
  dsimp only
  split
  · exact h.translate.parts
  · exact h.translate.parts

theorem tuFaultPop {writer st} : MovesByTable st (execTuFaultPop writer st) := .runBy fun _ h => .ite h.tuPop h

theorem invalAll {writer st} : MovesByTable st (execInvalAll writer st) := .runBy fun _ h => .ite h.invalidate h

theorem invalMooring {writer target st} : MovesByTable st (execInvalMooring writer target st) :=
  .runBy fun _ h => .ite h.invalidate h

theorem invalPage {writer target st} : MovesByTable st (execInvalPage writer target st) :=
  .runBy fun _ h => .ite h.invalidate h

theorem invalDone {st} : MovesByTable st (execInvalDone st) := by
  refine .runOn fun _ h => ?_
  dsimp only
  split
  · exact h
  · exact h.setTu

theorem fwGrant {src args st} : MovesByTable st (execFwGrant src args st) := .runFw fun _ h => h.fwGrant

theorem fwRelease {src args st} : MovesByTable st (execFwRelease src args st) := .runFw fun _ h => h.fwGrant

theorem fwTableGrant {src args st} : MovesByTable st (execFwTableGrant src args st) := .runFw fun _ h => h.fwGrant

theorem grantQuiesceEnd {st} : MovesByTable st (execGrantQuiesceEnd st) := .runOn fun _ h => h.quiesceEnd

theorem grantTimeout {st} : MovesByTable st (execGrantTimeout st) := .runOn fun _ h => h.grantTimeout

theorem queuePairEnable {src pair value st} : MovesByTable st (execQueuePairEnable src pair value st) :=
  .runFw fun _ h => h.ringCfgWrite

theorem swdtKick {src st} : MovesByTable st (execSwdtKick src st) := .runFw fun _ h => h.swdtKick

theorem secureReady {src st} : MovesByTable st (execSecureReady src st) := .runFw fun _ h => h.secureReady

theorem swdtExpiry {st} : MovesByTable st (execSwdtExpiry st) := .runOn fun _ h => h.swdtExpiry

theorem secureReadyTimeout {st} : MovesByTable st (execSecureReadyTimeout st) := .runOn fun _ h => h.readyTimeout

theorem gateRun {world block st} : MovesByTable st (execGateRun world block st) := .runFw fun _ h => h.gateReq

theorem gateClockOff {world block st} : MovesByTable st (execGateClockOff world block st) := .runFw fun _ h => h.gateReq

theorem gatePowerOff {world block st} : MovesByTable st (execGatePowerOff world block st) := .runFw fun _ h => h.gateReq

theorem gateChangeDone {block st} : MovesByTable st (execGateChangeDone block st) :=
  .runOn fun _ h => .ite h.gateDone.endJobs h.gateDone

theorem holdSet {world mask st} : MovesByTable st (execHoldSet world mask st) := .runFw fun _ h => h.secureHoldWrite

theorem holdClr {world mask st} : MovesByTable st (execHoldClr world mask st) := .runFw fun _ h => h.secureHoldWrite

theorem hingeForward {hinge inbound posted arrival st} :
    MovesByTable st (execHingeForward hinge inbound posted arrival st) := by
  refine .runOn fun _ h => ?_
  dsimp only
  split
  · refine .forwardWrite ?_
    split
    · exact .ite h.pcieArrival h
    · exact h
  · refine .forwardRead ?_
    split
    · exact .ite h.pcieArrival h
    · exact h

theorem hingeCompletion {hinge inbound tag late code data lines st} :
    MovesByTable st (execHingeCompletion hinge inbound tag late code data lines st) :=
  .runOn fun _ h => h.completion

theorem cplTimeout {hinge inbound tag st} : MovesByTable st (execCplTimeout hinge inbound tag st) :=
  .runOn fun _ h => h.cplTimeout

theorem h0LinkDown {st} : MovesByTable st (execH0LinkDown st) := .runOn fun _ h => h.linkDown

theorem h0LinkUp {speed width st} : MovesByTable st (execH0LinkUp speed width st) := .runOn fun _ h => h.linkUp

theorem intxMessage {st} : MovesByTable st (execIntxMessage st) := .runOn fun _ h => .ite h.count h

theorem errPop {writer hinge st} : MovesByTable st (execErrPop writer hinge st) := .runBy fun _ h => h.writeOne

theorem discPop {writer hinge st} : MovesByTable st (execDiscPop writer hinge st) := .runBy fun _ h => h.writeOne

theorem prefetchAged {hinge inbound line st} : MovesByTable st (execPrefetchAged hinge inbound line st) :=
  .runOn fun _ h => h.forEach fun _ _ h => h.discardLine

theorem copyStart {src st} : MovesByTable st (execCopyStart src st) := .runFw fun _ h => h.writeOne

theorem copyEnd {st} : MovesByTable st (execCopyEnd st) := .runOn fun _ h => h.copyRun

theorem logFrameIntake {st} : MovesByTable st (execLogFrameIntake st) := .runOn fun _ h => h.frameIntake

theorem postCommit {stream src length st} : MovesByTable st (execPostCommit stream src length st) :=
  .runFw fun _ h => h.postCommit

theorem postTaken {stream st} : MovesByTable st (execPostTaken stream st) := .runOn fun _ h => h.postTaken

theorem moduleRecord {st} : MovesByTable st (execModuleRecord st) := .runOn fun _ h => h.moduleRecord

theorem recordHash {stream st} : MovesByTable st (execRecordHash stream st) := .runOn fun _ h => h.hashNext

theorem segmentTimeClose {stream st} : MovesByTable st (execSegmentTimeClose stream st) := by
  refine .runOn fun _ h => ?_
  split
  · exact h
  · exact .ite h.closeSegment h

theorem nvmeSubmit {st} : MovesByTable st (execNvmeSubmit st) := .runOn fun _ h => h.nvmeSubmit

theorem nvmeCompletion {id status st} : MovesByTable st (execNvmeCompletion id status st) :=
  .runOn fun _ h => h.nvmeCompletion

theorem storeResume {writer st} : MovesByTable st (execStoreResume writer st) := .runBy fun _ h => .ite h.storeResume h

theorem freezeRelease {writer mask st} : MovesByTable st (execFreezeRelease writer mask st) :=
  .runBy fun _ h => .ite h.freezeRelease h

theorem gcmEncrypt {win src flags st} : MovesByTable st (execGcmEncrypt win src flags st) := .runFw fun _ h => h.opWrite

theorem gcmDecrypt {win src flags st} : MovesByTable st (execGcmDecrypt win src flags st) := .runFw fun _ h => h.opWrite

theorem macGen {win src flags st} : MovesByTable st (execMacGen win src flags st) := .runFw fun _ h => h.opWrite

theorem macVerify {win src flags st} : MovesByTable st (execMacVerify win src flags st) := .runFw fun _ h => h.opWrite

theorem sign {win src flags st} : MovesByTable st (execSign win src flags st) := .runFw fun _ h => h.opWrite

theorem verify {win src flags st} : MovesByTable st (execVerify win src flags st) := .runFw fun _ h => h.opWrite

theorem hash {win src flags st} : MovesByTable st (execHash win src flags st) := .runFw fun _ h => h.opWrite

theorem keyWrite {win src flags st} : MovesByTable st (execKeyWrite win src flags st) := .runFw fun _ h => h.opWrite

theorem derive {win src flags st} : MovesByTable st (execDerive win src flags st) := .runFw fun _ h => h.opWrite

theorem keyClear {win src flags st} : MovesByTable st (execKeyClear win src flags st) := .runFw fun _ h => h.opWrite

theorem wrap {win src flags st} : MovesByTable st (execWrap win src flags st) := .runFw fun _ h => h.opWrite

theorem unwrap {win src flags st} : MovesByTable st (execUnwrap win src flags st) := .runFw fun _ h => h.opWrite

theorem attest {win src flags st} : MovesByTable st (execAttest win src flags st) := .runFw fun _ h => h.opWrite

theorem jobBegin {st} : MovesByTable st (execJobBegin st) := .runOn fun _ h => h.jobBegin

theorem jobComplete {st} : MovesByTable st (execJobComplete st) := .runOn fun _ h => h.jobComplete

theorem keyringRecordWrite {st} : MovesByTable st (execKeyringRecordWrite st) := by
  refine .runOn fun _ h => ?_
  dsimp only
  split
  · exact h
  · split
    · exact h.recordWrite
    · exact h.recordWrite.setKeyring.answer.parts

theorem lcToFactory {writer testPort st} : MovesByTable st (execLcToFactory writer testPort st) :=
  .runLc fun _ h => h.lcRequest

theorem lcToField {writer testPort st} : MovesByTable st (execLcToField writer testPort st) :=
  .runLc fun _ h => h.lcRequest

theorem lcToReturn {writer testPort st} : MovesByTable st (execLcToReturn writer testPort st) :=
  .runLc fun _ h => h.lcRequest

theorem lcToScrap {writer testPort st} : MovesByTable st (execLcToScrap writer testPort st) :=
  .runLc fun _ h => h.lcRequest

theorem lcAdvanceDone {verified st} : MovesByTable st (execLcAdvanceDone verified st) := by
  refine .runTo fun z h => ?_
  dsimp only
  split
  · exact h.moves
  · refine .unless h.moves fun hc => (h.parts.when (fun _ h => h.lcRefuse)).enterStart (mayEnter_reset ?_)
    simp only [Bool.not_eq_true', Bool.not_eq_false] at hc
    rw [(Zone.KeepsState.refl.parts.when (fun _ h => h.lcRefuse) : z.KeepsState _).mode]
    exact Zone.mode_of_inMode hc

theorem debugOpenApp {writer st} : MovesByTable st (execDebugOpenApp writer st) := .runBy fun _ h => .ite h.setFld h

theorem debugOpenSafety {writer st} : MovesByTable st (execDebugOpenSafety writer st) :=
  .runBy fun _ h => .ite h.setFld h

theorem faultReport {toA toB st} : MovesByTable st (execFaultReport toA toB st) := by
  refine .runOnTo fun _ h _ => ?_
  split
  · exact h.moves
  · exact .when (fun _ => .when (fun _ => h.setSafety.takeReport.startFail) h.setSafety.takeReport.moves) h.setSafety.moves

theorem laneCompare {st} : MovesByTable st (execLaneCompare st) :=
  .runOn fun _ h => h.paced fun _ h => .ite (.ite h.setSafety.setFld.report h.setSafety) h.setSafety

theorem demandRelease {writer st} : MovesByTable st (execDemandRelease writer st) :=
  .runBy fun _ h => .ite h.demandRelease h

theorem safetyReset {st} : MovesByTable st (execSafetyReset st) := by
  refine .runTo fun z h => ?_
  split
  · refine .when (fun hc => h.addStartRecord.enterStart ?_) h.moves
    simp only [Bool.and_eq_true] at hc
    rw [(Zone.KeepsState.refl.addStartRecord : z.KeepsState _).mode, List.mem_singleton.1 (Zone.mode_of_inMode hc.1.1)]
    decide
  · exact h.moves

theorem monitorFence {keeper st} : MovesByTable st (execMonitorFence keeper st) := by
  refine .runOn fun _ h => ?_
  split
  · exact .ite h.setVerdict.fence.count h
  · exact h

theorem alarmPeriod {lane st} : MovesByTable st (execAlarmPeriod lane st) :=
  .runOn fun _ h => h.paced fun _ h => .ite h h.setFld.setFld.setFld.setAlarm

theorem alarmTest {writer lane st} : MovesByTable st (execAlarmTest writer lane st) :=
  .runBy fun _ h => .ite h.alarmTest h

theorem alarmTestEnd {lane st} : MovesByTable st (execAlarmTestEnd lane st) := by
  refine .runOn fun _ h => ?_
  dsimp only
  split
  · exact .ite h.setAlarm.setFld.event.count h
  · exact h

theorem alarmReadbackCheck {lane pinHigh st} : MovesByTable st (execAlarmReadbackCheck lane pinHigh st) :=
  .runOn fun _ h =>
    h.paced fun _ h =>
      .ite (.ite h.setAlarm.count.setFld.event.report h.setAlarm.count) (.ite h.setAlarm.setFld h.setAlarm)

theorem safeLogPop {writer st} : MovesByTable st (execSafeLogPop writer st) := .runBy fun _ h => .ite h.logPop h

theorem scrubRead {target ecc progress st} : MovesByTable st (execScrubRead target ecc progress st) := by
  refine .run fun _ h => ?_
  dsimp only
  split
  · exact h
  · split
    · exact (h.when (fun _ h => h.count)).setFld
    · split
      · exact (h.when (fun _ h => h.count)).setFld.count.count
      · exact (h.when (fun _ h => h.count)).setFld.count.count
      · exact (h.when (fun _ h => h.count)).setFld.count
    · split
      · exact (h.when (fun _ h => h.count)).setFld.count.selfCheck
      · exact (h.when (fun _ h => h.count)).setFld.count.selfCheck
      · exact (h.when (fun _ h => h.count)).setFld.count.report
      · exact (h.when (fun _ h => h.count)).setFld.count.report

theorem windowConfirm {block st} : MovesByTable st (execWindowConfirm block st) :=
  .run fun _ h =>
    .ite h (.ite (h.setStart.when (fun _ h => h.setPhase)).setPhase.setFld (h.setStart.when (fun _ h => h.setPhase)))

theorem windowTimeout {domain st} : MovesByTable st (execWindowTimeout domain st) :=
  .runTo fun _ h => .unless h.moves fun _ => (h.when (fun _ h => h.setPhase)).startFail

theorem bistWindowAbort {block st} : MovesByTable st (execBistWindowAbort block st) :=
  .run fun _ h => .ite h.setStart.count.bistResult h

theorem bistDone {results st} : MovesByTable st (execBistDone results st) :=
  .runTo fun _ h => .when (fun _ => h.judgeBist) h.moves

theorem bootRomDone {record image st} : MovesByTable st (execBootRomDone record image st) :=
  .run fun _ h => .ite h (.ite h.bootKeys h.bootKeys.setStart.setPhase)

theorem lsVerdict {st} : MovesByTable st (execLsVerdict st) := by
  refine .runTo fun _ h => .unless h.moves fun _ => ?_
  split
  · exact h.loadLightship.setPhase.moves
  · exact h.startFail
  · exact h.startFail

theorem bootImagesVerified {header secure safety st} :
    MovesByTable st (execBootImagesVerified header secure safety st) := by
  refine .runTo fun _ h => .unless h.moves fun _ => ?_
  split
  · exact h.startFail
  · exact .when (fun _ => h.releaseClusters.setPhase.moves) h.releaseClusters.moves

theorem serviceTableVerdict {image st} : MovesByTable st (execServiceTableVerdict image st) := by
  refine .runTo fun _ h => .unless h.moves fun _ => ?_
  split
  · exact h.startFail
  · split
    · exact h.startFail
    · exact h.loadHealthy.setPhase.moves

theorem safetyReady {writer st} : MovesByTable st (execSafetyReady writer st) := .runBy fun _ h => .ite h.setFld h

theorem startComplete {st} : MovesByTable st (execStartComplete st) :=
  .runTo fun _ h => .when (fun hc => h.enterService (List.mem_singleton.1 (Zone.mode_of_inMode (Bool.and_eq_true_iff.1 hc).1))) h.moves

theorem startDeadline {st} : MovesByTable st (execStartDeadline st) :=
  .runTo fun _ h => .when (fun _ => h.startFail) h.moves

theorem startReport {st} : MovesByTable st (execStartReport st) := by
  refine .runOn fun _ h => ?_
  split
  · exact .ite h.sendReport h
  · exact h

theorem lsRaiseFloor {writer st} : MovesByTable st (execLsRaiseFloor writer st) :=
  .runBy fun _ h => .ite h.lsRaiseFloor h

theorem lifeTimeSave {st} : MovesByTable st (execLifeTimeSave st) := .run fun _ h => .ite h.setStart h

theorem logicBistStart {writer block failure st} : MovesByTable st (execLogicBistStart writer block failure st) :=
  .runBy fun _ h => .ite h h.bistErases.count.logicBist

theorem memoryBistStart {writer block runs st} : MovesByTable st (execMemoryBistStart writer block runs st) :=
  .runBy fun _ h => .ite h h.count.memoryBist.bistErases

theorem repairProg {writer good st} : MovesByTable st (execRepairProg writer good st) :=
  .runBy fun _ h => .ite h (.ite h.setFld (.ite h.setFld (.ite h.setFld (.ite h.setFld h.parts.setFld))))

theorem malformedCommand {_fault st} : MovesByTable st (execMalformedCommand _fault st) :=
  .run fun _ h => h.when fun _ h => h.count

theorem generatorEdge {gen st} : MovesByTable st (execGeneratorEdge gen st) := .runOn fun _ h => h.refreshFollowers

theorem frameTransmitEnd {port st} : MovesByTable st (execFrameTransmitEnd port st) := by
  refine .runOn fun _ h => ?_
  split
  · exact h
  · exact .ite h.endTx h

theorem canReceiveError {channel flag st} : MovesByTable st (execCanReceiveError channel flag st) :=
  .runOn fun _ h => .ite h.canErrors h

theorem sqiLow {port sqi st} : MovesByTable st (execSqiLow port sqi st) := .runOn fun _ h => .ite h.setFld.event h.setFld

end MovesByTable

theorem exec_movesByTable (c : Instr) (st : State) : MovesByTable st (exec c st) :=
  match c with
  | .registerWrite .. => MovesByTable.registerWrite
  | .rcRead .. => MovesByTable.rcRead
  | .pageLock .. => MovesByTable.pageLock
  | .dcqPacketWrite .. => MovesByTable.dcqPacketWrite
  | .dcqWordRead .. => MovesByTable.dcqWordRead
  | .dcqClockStop .. => MovesByTable.dcqClockStop
  | .clockMonitorWindow .. => MovesByTable.clockMonitorWindow
  | .startNotice .. => MovesByTable.startNotice
  | .startNoticeRepeat .. => MovesByTable.startNoticeRepeat
  | .getStatus .. => MovesByTable.getStatus
  | .reset .. => MovesByTable.reset
  | .bindSupervisor .. => MovesByTable.bindSupervisor
  | .setProfile .. => MovesByTable.setProfile
  | .loadTable .. => MovesByTable.loadTable
  | .commitTable .. => MovesByTable.commitTable
  | .rollbackTable .. => MovesByTable.rollbackTable
  | .watchChange .. => MovesByTable.watchChange
  | .sleepRequest .. => MovesByTable.sleepRequest
  | .scheduleGlobal .. => MovesByTable.scheduleGlobal
  | .cancelGlobal .. => MovesByTable.cancelGlobal
  | .forceTimeStep .. => MovesByTable.forceTimeStep
  | .grantResource .. => MovesByTable.grantResource
  | .keyRoll .. => MovesByTable.keyRoll
  | .logFreeze .. => MovesByTable.logFreeze
  | .readStartReasons .. => MovesByTable.readStartReasons
  | .clearStartCount .. => MovesByTable.clearStartCount
  | .exitLightship .. => MovesByTable.exitLightship
  | .enterTest .. => MovesByTable.enterTest
  | .exitTest .. => MovesByTable.exitTest
  | .powerUp .. => MovesByTable.powerUp
  | .orderlyReset .. => MovesByTable.orderlyReset
  | .crankHoldEntry .. => MovesByTable.crankHoldEntry
  | .crankHoldExit .. => MovesByTable.crankHoldExit
  | .crankAccClear .. => MovesByTable.crankAccClear
  | .crankLimit .. => MovesByTable.crankLimit
  | .surgeEntry .. => MovesByTable.surgeEntry
  | .surgeLong .. => MovesByTable.surgeLong
  | .surgeExit .. => MovesByTable.surgeExit
  | .feedLost .. => MovesByTable.feedLost
  | .reverseEntry .. => MovesByTable.reverseEntry
  | .feedReturn .. => MovesByTable.feedReturn
  | .gndLost .. => MovesByTable.gndLost
  | .gndRestored .. => MovesByTable.gndRestored
  | .feedOverload .. => MovesByTable.feedOverload
  | .inputSample .. => MovesByTable.inputSample
  | .inputLevelChange .. => MovesByTable.inputLevelChange
  | .captureRise .. => MovesByTable.captureRise
  | .captureFall .. => MovesByTable.captureFall
  | .captureTimeout .. => MovesByTable.captureTimeout
  | .inCfgWrite .. => MovesByTable.inCfgWrite
  | .inThreshWrite .. => MovesByTable.inThreshWrite
  | .thermalSample .. => MovesByTable.thermalSample
  | .opAdd .. => MovesByTable.opAdd
  | .opSub .. => MovesByTable.opSub
  | .opAnd .. => MovesByTable.opAnd
  | .opOr .. => MovesByTable.opOr
  | .opXor .. => MovesByTable.opXor
  | .opShl .. => MovesByTable.opShl
  | .opShr .. => MovesByTable.opShr
  | .opSra .. => MovesByTable.opSra
  | .opMul .. => MovesByTable.opMul
  | .opMulh .. => MovesByTable.opMulh
  | .opMin .. => MovesByTable.opMin
  | .opMax .. => MovesByTable.opMax
  | .opSat .. => MovesByTable.opSat
  | .opAddi .. => MovesByTable.opAddi
  | .opAndi .. => MovesByTable.opAndi
  | .opOri .. => MovesByTable.opOri
  | .opXori .. => MovesByTable.opXori
  | .opLui .. => MovesByTable.opLui
  | .opCmpi .. => MovesByTable.opCmpi
  | .opCmp .. => MovesByTable.opCmp
  | .opTst .. => MovesByTable.opTst
  | .opSkip .. => MovesByTable.opSkip
  | .opLdc .. => MovesByTable.opLdc
  | .opStc .. => MovesByTable.opStc
  | .opLdcx .. => MovesByTable.opLdcx
  | .opStcx .. => MovesByTable.opStcx
  | .opMirr .. => MovesByTable.opMirr
  | .opCrd .. => MovesByTable.opCrd
  | .opCwr .. => MovesByTable.opCwr
  | .opCwrSet .. => MovesByTable.opCwrSet
  | .opCwrClr .. => MovesByTable.opCwrClr
  | .opCwrTgl .. => MovesByTable.opCwrTgl
  | .opCop .. => MovesByTable.opCop
  | .opChkt .. => MovesByTable.opChkt
  | .opTkr .. => MovesByTable.opTkr
  | .opCrdx .. => MovesByTable.opCrdx
  | .opCwrx .. => MovesByTable.opCwrx
  | .opQpop .. => MovesByTable.opQpop
  | .opQpush .. => MovesByTable.opQpush
  | .opQlen .. => MovesByTable.opQlen
  | .opTnow .. => MovesByTable.opTnow
  | .opTsec .. => MovesByTable.opTsec
  | .opTslot .. => MovesByTable.opTslot
  | .opEvt .. => MovesByTable.opEvt
  | .opFlt .. => MovesByTable.opFlt
  | .opNop .. => MovesByTable.opNop
  | .opEnd .. => MovesByTable.opEnd
  | .ecallAbsent .. => MovesByTable.ecallAbsent
  | .budgetOverrun .. => MovesByTable.budgetOverrun
  | .selfCheckFailure .. => MovesByTable.selfCheckFailure
  | .ticketCompletion .. => MovesByTable.ticketCompletion
  | .ticketTimeout .. => MovesByTable.ticketTimeout
  | .slotMark .. => MovesByTable.slotMark
  | .roundBoundary .. => MovesByTable.roundBoundary
  | .requestPost .. => MovesByTable.requestPost
  | .frameTimeout .. => MovesByTable.frameTimeout
  | .eventPop .. => MovesByTable.eventPop
  | .eventQueueNotice .. => MovesByTable.eventQueueNotice
  | .loaderVerdict .. => MovesByTable.loaderVerdict
  | .beaconReceive .. => MovesByTable.beaconReceive
  | .localMark .. => MovesByTable.localMark
  | .fenceConfirm .. => MovesByTable.fenceConfirm
  | .hardIsolation .. => MovesByTable.hardIsolation
  | .stageSilent .. => MovesByTable.stageSilent
  | .mirrorFrameReceive .. => MovesByTable.mirrorFrameReceive
  | .chCtrlWrite .. => MovesByTable.chCtrlWrite
  | .fastTrip .. => MovesByTable.fastTrip
  | .warmupTripTaken .. => MovesByTable.warmupTripTaken
  | .softLimitTick .. => MovesByTable.softLimitTick
  | .junctionSample .. => MovesByTable.junctionSample
  | .spacingEnd .. => MovesByTable.spacingEnd
  | .windowEnd .. => MovesByTable.windowEnd
  | .refill .. => MovesByTable.refill
  | .reverseGapEnd .. => MovesByTable.reverseGapEnd
  | .feedSag .. => MovesByTable.feedSag
  | .openLoadFilter .. => MovesByTable.openLoadFilter
  | .switchFaultDetect .. => MovesByTable.switchFaultDetect
  | .clearRetry .. => MovesByTable.clearRetry
  | .offDiag .. => MovesByTable.offDiag
  | .offDiagDone .. => MovesByTable.offDiagDone
  | .snapshot .. => MovesByTable.snapshot
  | .generatorBoundary .. => MovesByTable.generatorBoundary
  | .followBoundary .. => MovesByTable.followBoundary
  | .charStagedWrite .. => MovesByTable.charStagedWrite
  | .stageHoldWrite .. => MovesByTable.stageHoldWrite
  | .calEdge .. => MovesByTable.calEdge
  | .calStale .. => MovesByTable.calStale
  | .calRestart .. => MovesByTable.calRestart
  | .calRecordWrite .. => MovesByTable.calRecordWrite
  | .balanceEval .. => MovesByTable.balanceEval
  | .ringUpdate .. => MovesByTable.ringUpdate
  | .ringRestart .. => MovesByTable.ringRestart
  | .frameReceive .. => MovesByTable.frameReceive
  | .losslessAdmit .. => MovesByTable.losslessAdmit
  | .hostTxFetch .. => MovesByTable.hostTxFetch
  | .hostRxDeliver .. => MovesByTable.hostRxDeliver
  | .doorbell .. => MovesByTable.doorbell
  | .crossbarSchedule .. => MovesByTable.crossbarSchedule
  | .frameTransmitStart .. => MovesByTable.frameTransmitStart
  | .gateEntryChange .. => MovesByTable.gateEntryChange
  | .gateCommit .. => MovesByTable.gateCommit
  | .streamGateChange .. => MovesByTable.streamGateChange
  | .ageCheck .. => MovesByTable.ageCheck
  | .linkDown .. => MovesByTable.linkDown
  | .linkUp .. => MovesByTable.linkUp
  | .holdExpiry .. => MovesByTable.holdExpiry
  | .tableWrite .. => MovesByTable.tableWrite
  | .tableRead .. => MovesByTable.tableRead
  | .tableClear .. => MovesByTable.tableClear
  | .acfSend .. => MovesByTable.acfSend
  | .acfTake .. => MovesByTable.acfTake
  | .counterRead .. => MovesByTable.counterRead
  | .saInstall .. => MovesByTable.saInstall
  | .frerResetTimeout .. => MovesByTable.frerResetTimeout
  | .servoMeasurement .. => MovesByTable.servoMeasurement
  | .sourceLost .. => MovesByTable.sourceLost
  | .ptpMessageReceive .. => MovesByTable.ptpMessageReceive
  | .ptpTransmit .. => MovesByTable.ptpTransmit
  | .ppsEdge .. => MovesByTable.ppsEdge
  | .ppsLost .. => MovesByTable.ppsLost
  | .integrityCheck .. => MovesByTable.integrityCheck
  | .tsqPop .. => MovesByTable.tsqPop
  | .timeSnap .. => MovesByTable.timeSnap
  | .servoSourceWrite .. => MovesByTable.servoSourceWrite
  | .forceStepTimeout .. => MovesByTable.forceStepTimeout
  | .globalLogSnapshot .. => MovesByTable.globalLogSnapshot
  | .globalKeyRoll .. => MovesByTable.globalKeyRoll
  | .globalReset .. => MovesByTable.globalReset
  | .globalProfile .. => MovesByTable.globalProfile
  | .globalTableMark .. => MovesByTable.globalTableMark
  | .canFrameReceive .. => MovesByTable.canFrameReceive
  | .ringNotice .. => MovesByTable.ringNotice
  | .rxAckWrite .. => MovesByTable.rxAckWrite
  | .txStart .. => MovesByTable.txStart
  | .canArbitration .. => MovesByTable.canArbitration
  | .canAttemptEnd .. => MovesByTable.canAttemptEnd
  | .txExpired .. => MovesByTable.txExpired
  | .recover .. => MovesByTable.recover
  | .recoveryDone .. => MovesByTable.recoveryDone
  | .recoveryTimeout .. => MovesByTable.recoveryTimeout
  | .abortPending .. => MovesByTable.abortPending
  | .tmReference .. => MovesByTable.tmReference
  | .linHeader .. => MovesByTable.linHeader
  | .linFrameEnd .. => MovesByTable.linFrameEnd
  | .linResponseTimeout .. => MovesByTable.linResponseTimeout
  | .linBusShort .. => MovesByTable.linBusShort
  | .linWakeup .. => MovesByTable.linWakeup
  | .linWakeupDone .. => MovesByTable.linWakeupDone
  | .linHeaderReceive .. => MovesByTable.linHeaderReceive
  | .linWakeRx .. => MovesByTable.linWakeRx
  | .serSend .. => MovesByTable.serSend
  | .serAbort .. => MovesByTable.serAbort
  | .serSendStart .. => MovesByTable.serSendStart
  | .serSendEnd .. => MovesByTable.serSendEnd
  | .serBusyExpired .. => MovesByTable.serBusyExpired
  | .serCharReceive .. => MovesByTable.serCharReceive
  | .serPacketEnd .. => MovesByTable.serPacketEnd
  | .trxWatchdogServe .. => MovesByTable.trxWatchdogServe
  | .trxFallback .. => MovesByTable.trxFallback
  | .fallbackWake .. => MovesByTable.fallbackWake
  | .drainEnd .. => MovesByTable.drainEnd
  | .commitPoint .. => MovesByTable.commitPoint
  | .sleepEntryComplete .. => MovesByTable.sleepEntryComplete
  | .inputWake .. => MovesByTable.inputWake
  | .wakePoll .. => MovesByTable.wakePoll
  | .canWake .. => MovesByTable.canWake
  | .ethWake .. => MovesByTable.ethWake
  | .wakeTimer .. => MovesByTable.wakeTimer
  | .wakeStart .. => MovesByTable.wakeStart
  | .awakeLimit .. => MovesByTable.awakeLimit
  | .keepAwake .. => MovesByTable.keepAwake
  | .falseWakeCheck .. => MovesByTable.falseWakeCheck
  | .dualpassLeg .. => MovesByTable.dualpassLeg
  | .legRerun .. => MovesByTable.legRerun
  | .accessLeg .. => MovesByTable.accessLeg
  | .comparatorSelftest .. => MovesByTable.comparatorSelftest
  | .debugAttach .. => MovesByTable.debugAttach
  | .zdpClrCounts .. => MovesByTable.zdpClrCounts
  | .zdpInjectArm .. => MovesByTable.zdpInjectArm
  | .xzmrWrite .. => MovesByTable.xzmrWrite
  | .worldSwitch .. => MovesByTable.worldSwitch
  | .memoryAccess .. => MovesByTable.memoryAccess
  | .dmaTranslate .. => MovesByTable.dmaTranslate
  | .tuFaultPop .. => MovesByTable.tuFaultPop
  | .invalAll .. => MovesByTable.invalAll
  | .invalMooring .. => MovesByTable.invalMooring
  | .invalPage .. => MovesByTable.invalPage
  | .invalDone .. => MovesByTable.invalDone
  | .fwGrant .. => MovesByTable.fwGrant
  | .fwRelease .. => MovesByTable.fwRelease
  | .fwTableGrant .. => MovesByTable.fwTableGrant
  | .grantQuiesceEnd .. => MovesByTable.grantQuiesceEnd
  | .grantTimeout .. => MovesByTable.grantTimeout
  | .queuePairEnable .. => MovesByTable.queuePairEnable
  | .swdtKick .. => MovesByTable.swdtKick
  | .secureReady .. => MovesByTable.secureReady
  | .swdtExpiry .. => MovesByTable.swdtExpiry
  | .secureReadyTimeout .. => MovesByTable.secureReadyTimeout
  | .gateRun .. => MovesByTable.gateRun
  | .gateClockOff .. => MovesByTable.gateClockOff
  | .gatePowerOff .. => MovesByTable.gatePowerOff
  | .gateChangeDone .. => MovesByTable.gateChangeDone
  | .holdSet .. => MovesByTable.holdSet
  | .holdClr .. => MovesByTable.holdClr
  | .hingeForward .. => MovesByTable.hingeForward
  | .hingeCompletion .. => MovesByTable.hingeCompletion
  | .cplTimeout .. => MovesByTable.cplTimeout
  | .h0LinkDown .. => MovesByTable.h0LinkDown
  | .h0LinkUp .. => MovesByTable.h0LinkUp
  | .intxMessage .. => MovesByTable.intxMessage
  | .errPop .. => MovesByTable.errPop
  | .discPop .. => MovesByTable.discPop
  | .prefetchAged .. => MovesByTable.prefetchAged
  | .copyStart .. => MovesByTable.copyStart
  | .copyEnd .. => MovesByTable.copyEnd
  | .logFrameIntake .. => MovesByTable.logFrameIntake
  | .postCommit .. => MovesByTable.postCommit
  | .postTaken .. => MovesByTable.postTaken
  | .moduleRecord .. => MovesByTable.moduleRecord
  | .recordHash .. => MovesByTable.recordHash
  | .segmentTimeClose .. => MovesByTable.segmentTimeClose
  | .nvmeSubmit .. => MovesByTable.nvmeSubmit
  | .nvmeCompletion .. => MovesByTable.nvmeCompletion
  | .storeResume .. => MovesByTable.storeResume
  | .freezeRelease .. => MovesByTable.freezeRelease
  | .gcmEncrypt .. => MovesByTable.gcmEncrypt
  | .gcmDecrypt .. => MovesByTable.gcmDecrypt
  | .macGen .. => MovesByTable.macGen
  | .macVerify .. => MovesByTable.macVerify
  | .sign .. => MovesByTable.sign
  | .verify .. => MovesByTable.verify
  | .hash .. => MovesByTable.hash
  | .keyWrite .. => MovesByTable.keyWrite
  | .derive .. => MovesByTable.derive
  | .keyClear .. => MovesByTable.keyClear
  | .wrap .. => MovesByTable.wrap
  | .unwrap .. => MovesByTable.unwrap
  | .attest .. => MovesByTable.attest
  | .jobBegin .. => MovesByTable.jobBegin
  | .jobComplete .. => MovesByTable.jobComplete
  | .keyringRecordWrite .. => MovesByTable.keyringRecordWrite
  | .lcToFactory .. => MovesByTable.lcToFactory
  | .lcToField .. => MovesByTable.lcToField
  | .lcToReturn .. => MovesByTable.lcToReturn
  | .lcToScrap .. => MovesByTable.lcToScrap
  | .lcAdvanceDone .. => MovesByTable.lcAdvanceDone
  | .debugOpenApp .. => MovesByTable.debugOpenApp
  | .debugOpenSafety .. => MovesByTable.debugOpenSafety
  | .faultReport .. => MovesByTable.faultReport
  | .laneCompare .. => MovesByTable.laneCompare
  | .demandRelease .. => MovesByTable.demandRelease
  | .safetyReset .. => MovesByTable.safetyReset
  | .monitorFence .. => MovesByTable.monitorFence
  | .alarmPeriod .. => MovesByTable.alarmPeriod
  | .alarmTest .. => MovesByTable.alarmTest
  | .alarmTestEnd .. => MovesByTable.alarmTestEnd
  | .alarmReadbackCheck .. => MovesByTable.alarmReadbackCheck
  | .safeLogPop .. => MovesByTable.safeLogPop
  | .scrubRead .. => MovesByTable.scrubRead
  | .windowConfirm .. => MovesByTable.windowConfirm
  | .windowTimeout .. => MovesByTable.windowTimeout
  | .bistWindowAbort .. => MovesByTable.bistWindowAbort
  | .bistDone .. => MovesByTable.bistDone
  | .bootRomDone .. => MovesByTable.bootRomDone
  | .lsVerdict .. => MovesByTable.lsVerdict
  | .bootImagesVerified .. => MovesByTable.bootImagesVerified
  | .serviceTableVerdict .. => MovesByTable.serviceTableVerdict
  | .safetyReady .. => MovesByTable.safetyReady
  | .startComplete .. => MovesByTable.startComplete
  | .startDeadline .. => MovesByTable.startDeadline
  | .startReport .. => MovesByTable.startReport
  | .lsRaiseFloor .. => MovesByTable.lsRaiseFloor
  | .lifeTimeSave .. => MovesByTable.lifeTimeSave
  | .logicBistStart .. => MovesByTable.logicBistStart
  | .memoryBistStart .. => MovesByTable.memoryBistStart
  | .repairProg .. => MovesByTable.repairProg
  | .malformedCommand fault => MovesByTable.malformedCommand (_fault := fault)
  | .generatorEdge .. => MovesByTable.generatorEdge
  | .frameTransmitEnd .. => MovesByTable.frameTransmitEnd
  | .canReceiveError .. => MovesByTable.canReceiveError
  | .sqiLow .. => MovesByTable.sqiLow

/-- A step keeps the module state or moves by the table; a tick keeps it. -/
theorem step_movesByTable {s t : State} (ht : step s = .next t) : s.zone.Moves t.zone := by
  unfold step at ht
  split at ht
  · cases ht
    exact Zone.KeepsState.refl.tick.moves
  · next c rest _ =>
    obtain ⟨z, hz, hm⟩ := exec_movesByTable c { s with pending := rest }
    cases hz.symm.trans ht
    exact hm

/-- Settles O60: every operation beside the transitions keeps the word of STATE (`Zone.KeepsState`), and each transition is entered
from a state from which R39 has it. -/
theorem stateChangesOnlyByTheTable : Obligations.StateChangesOnlyByTheTable := by
  unfold Obligations.StateChangesOnlyByTheTable
  exact fun _ _ => step_movesByTable

end Sys2Proof.Machine
end

