-- ==== Sys2Proof/Proofs/LoadOutputFrames.lean ====
section
/-! SUPPORT. Frames of the parts that the supply monitor, the load outputs and the inputs update, and what the load outputs leave
unchanged when the band of their feed changes (R262 to R267). -/

namespace Sys2Proof.Machine

open Reg

namespace Zone

variable {s z : Zone} {words bs : List Nat} {ps : List Part}

/-! ### Updates of one part -/

theorem SameParts.supply {x} (h : .supply ∈ ps) : s.SameParts ps { s with supply := x } := fun p hn => by
  cases p <;> simp_all [Part.Same]

theorem SameParts.bal {x} (h : .bal ∈ ps) : s.SameParts ps { s with bal := x } := fun p hn => by
  cases p <;> simp_all [Part.Same]

theorem SameParts.loads {x} (h : .loads ∈ ps) : s.SameParts ps { s with loads := x } := fun p hn => by
  cases p <;> simp_all [Part.Same]

theorem SameParts.inputs {x} (h : .inputs ∈ ps) : s.SameParts ps { s with inputs := x } := fun p hn => by
  cases p <;> simp_all [Part.Same]

/-! ### Frames of one field -/

theorem Frame.setFlag {p f b} (h : s.Frame words ps z) (hk : p + f.off ∈ words) : s.Frame words ps (z.setFlag p f b) := h.wr hk

theorem Frame.event {p f} (h : s.Frame words ps z) (hk : p + f.off ∈ words) : s.Frame words ps (z.event p f) := h.wr hk

theorem Frame.when {b : Bool} {f : Zone → Zone} (h : s.Frame words ps z) (hf : s.Frame words ps (f z)) :
    s.Frame words ps (z.when b f) := by
  cases b
  · exact h
  · exact hf

/-- An event that comes where a condition holds. -/
theorem Frame.whenEvent {b : Bool} {p f} (h : s.Frame words ps z) (hk : p + f.off ∈ words) :
    s.Frame words ps (z.when b (·.event p f)) := h.when (h.event hk)

theorem BankFrame.when {b : Bool} {f : Zone → Zone} (h : s.BankFrame bs ps z) (hf : s.BankFrame bs ps (f z)) :
    s.BankFrame bs ps (z.when b f) := by
  cases b
  · exact h
  · exact hf

/-! ### Load outputs -/

/-- A field of a load output's page. -/
theorem BankFrame.setLoadFld {n f v} (h : s.BankFrame [1] [.loads] z) (hn : n < 256) (hf : f.off < 4096) :
    s.BankFrame [1] [.loads] (z.setFld (pLOAD n) f v) := h.setFld (by rw [keyBank_page hn hf]; decide)

theorem BankFrame.setLoad {n x} (h : s.BankFrame [1] [.loads] z) : s.BankFrame [1] [.loads] (z.setLoad n x) :=
  h.parts rfl rfl (SameParts.loads (by decide))

/-- What each channel of a machine keeps, the machine keeps. -/
theorem BankFrame.forMembers {w : Zone} {m : Nat} {f : Zone → Nat → Zone} (hm : m < 48) (h : s.BankFrame [1] [.loads] z)
    (hf : ∀ z n, n < 256 → s.BankFrame [1] [.loads] z → s.BankFrame [1] [.loads] (f z n)) :
    s.BankFrame [1] [.loads] (z.forEach (w.members m) f) := by
  refine h.forEach fun z n hn hz => hf z n ?_ hz
  unfold members at hn
  split at hn <;> simp at hn <;> omega

section Machines

variable {m : Nat} (hm : m < 48)

include hm

theorem BankFrame.showLoad (h : s.BankFrame [1] [.loads] z) : s.BankFrame [1] [.loads] (z.showLoad m) :=
  h.forMembers hm fun _ _ hn h => h.setLoad.setLoadFld hn (by decide)

theorem BankFrame.setLState {st} (h : s.BankFrame [1] [.loads] z) : s.BankFrame [1] [.loads] (z.setLState m st) :=
  h.forMembers hm fun _ _ hn h => h.setLoadFld hn (by decide)

theorem BankFrame.setCauseAll {c} (h : s.BankFrame [1] [.loads] z) : s.BankFrame [1] [.loads] (z.setCauseAll m c) :=
  h.forMembers hm fun _ _ hn h => h.setLoadFld hn (by decide)

theorem BankFrame.toOpen {st} (h : s.BankFrame [1] [.loads] z) : s.BankFrame [1] [.loads] (z.toOpen m st) :=
  (h.setLState hm).setLoad.showLoad hm

theorem BankFrame.feedBandChanged (h : s.BankFrame [1] [.loads] z) : s.BankFrame [1] [.loads] (z.feedBandChanged m) := by
  unfold Zone.feedBandChanged
  split
  · exact h.showLoad hm
  · split
    · split
      · exact ((h.toOpen hm).setCauseAll hm).setLoadFld (by omega) (by decide)
      · split
        · exact (h.setLState hm).showLoad hm
        · exact h.showLoad hm
    · split
      · exact (h.setLState hm).showLoad hm
      · exact h.showLoad hm

end Machines

/-- Load outputs that see the new band of their feed leave every other page and part. -/
theorem feedBandAll_frame (s : Zone) (f : Feed) : s.BankFrame [1] [.loads] (s.feedBandAll f) :=
  BankFrame.refl.forEach fun _ _ hn h => h.feedBandChanged (List.mem_range.mp (List.mem_of_mem_filter hn))

end Zone

end Sys2Proof.Machine
end

