-- ==== Sys2Proof/Proofs/SupplyMonitor.lean ====
section
/-! SUPPORT. What the supply monitor shows: fields of one page, the band of a feed, a crossing of a threshold, the end of cranking hold
(R64 to R69, R72, R98, R265). -/

namespace Sys2Proof.Machine

open Reg

/-- Fields of a page that lie in two words or beside each other in one. -/
abbrev Fld.Beside (f g : Fld) : Prop := g.off ≠ f.off ∨ (g.lo + g.w ≤ 32 ∧ (f.lo + f.w ≤ g.lo ∨ g.lo + g.w ≤ f.lo))

namespace Zone

/-! ### Fields of one page -/

section Fields

variable (s : Zone) (p : Nat) {f g : Fld} (h : f.Beside g)

include h

theorem fld_setFld_beside (v : Nat) : (s.setFld p f v).fld p g = s.fld p g :=
  fld_setFld_ne _ _ _ _ _ _ (h.imp_left fun hne => by omega)

theorem flag_setFld_beside (v : Nat) : (s.setFld p f v).flag p g = s.flag p g :=
  flag_setFld_ne _ _ _ _ _ _ (h.imp_left fun hne => by omega)

theorem fld_setFlag_beside (b : Bool) : (s.setFlag p f b).fld p g = s.fld p g := s.fld_setFld_beside p h _

theorem flag_setFlag_beside (b : Bool) : (s.setFlag p f b).flag p g = s.flag p g := s.flag_setFld_beside p h _

theorem fld_event_beside : (s.event p f).fld p g = s.fld p g := s.fld_setFld_beside p h _

theorem flag_event_beside : (s.event p f).flag p g = s.flag p g := s.flag_setFld_beside p h _

theorem fld_count_beside : (s.count p f).fld p g = s.fld p g := s.fld_setFld_beside p h _

theorem flag_count_beside : (s.count p f).flag p g = s.flag p g := s.flag_setFld_beside p h _

end Fields

@[simp] theorem fld_report (s : Zone) (source : Nat) (detail : Word) (p : Nat) (f : Fld) :
    (s.report source detail).fld p f = s.fld p f := rfl

@[simp] theorem flag_report (s : Zone) (source : Nat) (detail : Word) (p : Nat) (f : Fld) :
    (s.report source detail).flag p f = s.flag p f := rfl

theorem flag_setFld_zero (s : Zone) (p : Nat) (f : Fld) (h : f.lo + f.w ≤ 32) : (s.setFld p f 0).flag p f = false := by
  unfold flag
  rw [fld_setFld_same _ _ _ _ h, Nat.zero_mod]
  rfl

theorem flag_setFld_one (s : Zone) (p : Nat) (f : Fld) (h : f.lo + f.w ≤ 32) (hw : f.w ≠ 0) : (s.setFld p f 1).flag p f = true :=
  flag_event_same s p f h hw

/-- An event that comes where a condition holds. -/
theorem flag_when_event_same (s : Zone) (b : Bool) (p : Nat) (f : Fld) (h : f.lo + f.w ≤ 32) (hw : f.w ≠ 0) :
    (s.when b (·.event p f)).flag p f = (s.flag p f || b) := by
  cases b with
  | false => exact (Bool.or_false _).symm
  | true => exact (flag_event_same s p f h hw).trans (Bool.or_true _).symm

theorem flag_when_event_beside (s : Zone) (b : Bool) (p : Nat) {f g : Fld} (h : f.Beside g) :
    (s.when b (·.event p f)).flag p g = s.flag p g := by
  cases b with
  | false => rfl
  | true => exact flag_event_beside s p h

theorem fld_when_event_ne (s : Zone) (b : Bool) (p q : Nat) {f g : Fld} (h : q + g.off ≠ p + f.off) :
    (s.when b (·.event p f)).fld q g = s.fld q g := by
  cases b with
  | false => rfl
  | true => exact fld_setFld_ne _ _ _ _ _ _ (.inl h)

/-! ### The fields of a feed -/

/-- Where FEED_V shows the voltage of a feed. -/
def voltsFld : Feed → Fld
  | .A => ZONE3.FEED_V_BAT_A
  | .B => ZONE3.FEED_V_BAT_B

/-- The event of a surge of a feed that ends. -/
def surgeEndFld : Feed → Fld
  | .A => ZONE3.SUPPLY_EVENT_SURGE_END_A
  | .B => ZONE3.SUPPLY_EVENT_SURGE_END_B

/-- The event of a feed that enters a band, 1 to 4. -/
def bandEvent (f : Feed) (code : Nat) : Fld :=
  match code, f with
  | 1, .A => ZONE3.SUPPLY_EVENT_SURGE_A
  | 1, .B => ZONE3.SUPPLY_EVENT_SURGE_B
  | 2, .A => ZONE3.SUPPLY_EVENT_SURGE_LONG_A
  | 2, .B => ZONE3.SUPPLY_EVENT_SURGE_LONG_B
  | 3, .A => ZONE3.SUPPLY_EVENT_REVERSE_A
  | 3, .B => ZONE3.SUPPLY_EVENT_REVERSE_B
  | _, .A => ZONE3.SUPPLY_EVENT_FEED_A_LOST
  | _, .B => ZONE3.SUPPLY_EVENT_FEED_B_LOST

theorem bandEvent_off (f : Feed) (code : Nat) : (bandEvent f code).off = 0xC := by
  unfold bandEvent
  split <;> rfl

theorem bandEvent_fits (f : Feed) (code : Nat) : (bandEvent f code).lo + (bandEvent f code).w ≤ 32 ∧ (bandEvent f code).w ≠ 0 := by
  unfold bandEvent
  split <;> decide

theorem bandEvent_beside_surgeEnd (f : Feed) (code : Nat) : (bandEvent f code).Beside (surgeEndFld f) := by
  unfold bandEvent
  split <;> decide

theorem band_eq_fld (s : Zone) (f : Feed) : s.band f = s.fld (pZONE 3) (bandFld f) := by cases f <;> rfl

theorem Frame.band {s z : Zone} {words ps} (h : s.Frame words ps z) (hk : pZONE 3 ∉ words) (f : Feed) : z.band f = s.band f := by
  rw [band_eq_fld, band_eq_fld]
  cases f <;> exact h.fld hk

theorem Frame.logicRuns {s z : Zone} {words ps} (h : s.Frame words ps z) (hk : 0 ∉ words) : z.logicRuns = s.logicRuns := by
  unfold Zone.logicRuns inMode
  rw [h.mode hk]

theorem feedBand_eq (s : Zone) (f : Feed) : s.feedBand f = (s.feed f).band := by cases f <;> rfl

theorem feed_congr {s t : Zone} (h : t.supply = s.supply) (f : Feed) : t.feed f = s.feed f := by
  cases f <;> simp only [feed, h]

@[simp] theorem feed_setFeed (s : Zone) (f : Feed) (x : FeedSt) : (s.setFeed f x).feed f = x := by cases f <;> rfl

theorem setFeed_frame (s : Zone) (f : Feed) (x : FeedSt) : s.Frame [] [.supply] (s.setFeed f x) := by
  cases f <;> exact Frame.refl.parts rfl rfl (SameParts.supply (by decide))

/-! ### A feed takes a band -/

section SetBand

variable (s : Zone) (f : Feed) {code : Nat}

theorem setBand_frame : s.BankFrame [0, 1] [.bal, .loads] (s.setBand f code) := by
  have hnoted (x : BalSt) : s.BankFrame [0, 1] [.bal, .loads] { s with bal := x } :=
    BankFrame.refl.parts rfl rfl (SameParts.bal (by decide))
  have hloads (z : Zone) : z.BankFrame [0, 1] [.bal, .loads] (z.feedBandAll f) := (z.feedBandAll_frame f).mono (by decide) (by decide)
  unfold setBand
  cases f with
  | A => exact ((hnoted _).setFld (by decide)).trans (hloads _)
  | B => exact ((hnoted _).setFld (by decide)).trans (hloads _)

theorem band_setBand (hc : code < 8) : (s.setBand f code).band f = code := by
  rw [band_eq_fld]
  unfold setBand
  rw [(feedBandAll_frame _ f).fld (by cases f <;> decide), fld_setFld_same _ _ _ _ (by cases f <;> decide)]
  exact Nat.mod_eq_of_lt (by cases f <;> exact hc)

/-- A field of the monitor's page outside SUPPLY_STATUS. -/
theorem fld_setBand {g : Fld} (h0 : g.off ≠ 0) (hg : g.off < 4096) : (s.setBand f code).fld (pZONE 3) g = s.fld (pZONE 3) g := by
  unfold setBand
  rw [(feedBandAll_frame _ f).fld (by rw [keyBank_page (by decide) hg]; decide)]
  cases f <;> exact fld_setFld_beside _ _ (.inl h0) _

end SetBand

/-! ### A monitor that judges a feed (R65, R68, R98) -/

section Judge

variable (s : Zone) (f : Feed)

/-- The monitor has shown the voltage of feed f. -/
def feedShown : Zone := match (s.feed f).volts with | some v => s.setFeedV f v | none => s

theorem feedShown_frame : s.Frame [pZONE 3 + ZONE3.FEED_V_BAT_A.off] [] (s.feedShown f) := by
  unfold feedShown
  split
  · cases f <;> exact Frame.refl.setFld (by decide)
  · exact .refl

theorem fld_feedShown {v : BitVec 16} (h : (s.feed f).volts = some v) : (s.feedShown f).fld (pZONE 3) (voltsFld f) = v.toNat := by
  have hv := Nat.mod_eq_of_lt v.isLt
  unfold feedShown
  rw [h]
  cases f
  · exact (fld_setFld_same _ _ ZONE3.FEED_V_BAT_A _ (by decide)).trans hv
  · exact (fld_setFld_same _ _ ZONE3.FEED_V_BAT_B _ (by decide)).trans hv

/-- The monitor has told of the end of a surge, where the feed's new band ends one. -/
def surgeEndTold : Zone :=
  s.when (decide ((s.band f = 1 ∨ s.band f = 2) ∧ s.feedBand f ≠ 1 ∧ s.feedBand f ≠ 2)) fun s => s.event (pZONE 3) (surgeEndFld f)

theorem surgeEndTold_frame : s.Frame [pZONE 3 + ZONE3.SUPPLY_EVENT_CRANK.off] [] (s.surgeEndTold f) :=
  Frame.refl.when (by cases f <;> exact Frame.refl.event (by decide))

theorem flag_surgeEndTold (ho : s.band f = 1 ∨ s.band f = 2) (h1 : s.feedBand f ≠ 1) (h2 : s.feedBand f ≠ 2) :
    (s.surgeEndTold f).flag (pZONE 3) (surgeEndFld f) = true := by
  unfold surgeEndTold
  rw [decide_eq_true ⟨ho, h1, h2⟩, when_true]
  cases f <;> exact flag_event_same _ _ _ (by decide) (by decide)

/-- The monitor has told of a feed that enters a band, and counted a surge. -/
def bandTold (code : Nat) : Zone :=
  if code = 0 then s
  else (s.event (pZONE 3) (bandEvent f code)).when (code == 1) fun s =>
    s.count (pZONE 3) (match f with | .A => ZONE3.SURGE_COUNT_A | .B => ZONE3.SURGE_COUNT_B)

theorem bandTold_frame (code : Nat) :
    s.Frame [pZONE 3 + ZONE3.SUPPLY_EVENT_CRANK.off, pZONE 3 + ZONE3.SURGE_COUNT_A.off] [] (s.bandTold f code) := by
  unfold bandTold
  have hevent := (Frame.refl (s := s) (words := [pZONE 3 + ZONE3.SUPPLY_EVENT_CRANK.off, pZONE 3 + ZONE3.SURGE_COUNT_A.off])
    (parts := [])).event (p := pZONE 3) (f := bandEvent f code) (by rw [bandEvent_off]; decide)
  split
  · exact .refl
  · exact hevent.when (hevent.count (by cases f <;> decide))

theorem flag_bandTold {code : Nat} (h : code ≠ 0) : (s.bandTold f code).flag (pZONE 3) (bandEvent f code) = true := by
  have hevent := s.flag_event_same (pZONE 3) (bandEvent f code) (bandEvent_fits f code).1 (bandEvent_fits f code).2
  unfold bandTold
  rw [if_neg h]
  cases code == 1 with
  | false => exact hevent
  | true => exact (flag_count_beside _ _ (.inl (by rw [bandEvent_off]; cases f <;> decide))).trans hevent

theorem flag_surgeEnd_bandTold (code : Nat) :
    (s.bandTold f code).flag (pZONE 3) (surgeEndFld f) = s.flag (pZONE 3) (surgeEndFld f) := by
  have hevent := s.flag_event_beside (pZONE 3) (bandEvent_beside_surgeEnd f code)
  unfold bandTold
  split
  · rfl
  · cases code == 1 with
    | false => exact hevent
    | true => exact (flag_count_beside _ _ (by cases f <;> decide)).trans hevent

/-- The monitor has judged feed f, whose voltage it shows. -/
def shownJudged : Zone :=
  if s.feedBand f = s.band f then s
  else (((s.surgeEndTold f).bandTold f (s.feedBand f)).setBand f (s.feedBand f)).when (s.feedBand f != 0) reportSupply

theorem judgeFeed_eq (hb : s.feedBand f ≤ 4) : s.judgeFeed f = (s.feedShown f).shownJudged f := by
  have hshown : (s.feedShown f).feedBand f = s.feedBand f := by
    rw [feedBand_eq, feedBand_eq, feed_congr ((s.feedShown_frame f).part .supply (by decide))]
  rw [← hshown] at hb
  unfold judgeFeed shownJudged
  extract_lets s₁ new old s₂ s₃
  change new ≤ 4 at hb
  change (if new = old then s₁ else _) = if new = old then s₁ else (((s₂.bandTold f new).setBand f new).when (new != 0) reportSupply)
  clear_value s₂ new
  refine if_congr Iff.rfl rfl ?_
  cases f <;> interval_cases new <;> simp [bandTold, bandEvent, supplyEvent, s₃]

/-- What a monitor that judges feed f leaves of the module `s`. -/
structure JudgesFeed (z : Zone) : Prop where
  band : z.band f = s.feedBand f
  volts : ∀ v, (s.feed f).volts = some v → z.fld (pZONE 3) (voltsFld f) = v.toNat
  event : s.feedBand f ≠ 0 → s.band f ≠ s.feedBand f → z.flag (pZONE 3) (bandEvent f (s.feedBand f)) = true
  ended : s.band f = 1 ∨ s.band f = 2 → s.feedBand f ≠ 1 → s.feedBand f ≠ 2 → z.flag (pZONE 3) (surgeEndFld f) = true
  frame : s.BankFrame [0, 1] [.bal, .loads, .safety] z
  quiet : s.feedBand f = 0 → s.BankFrame [0, 1] [.bal, .loads] z

/-- A report to the safety monitor shows in no register. -/
theorem fld_when_reportSupply (z : Zone) (b : Bool) (p : Nat) (g : Fld) : (z.when b reportSupply).fld p g = z.fld p g := by
  cases b <;> rfl

theorem judgeFeed_judges (hb : s.feedBand f ≤ 4) : s.JudgesFeed f (s.judgeFeed f) := by
  have hshown := s.feedShown_frame f
  have hband : (s.feedShown f).band f = s.band f := hshown.band (by decide) f
  have hnew : (s.feedShown f).feedBand f = s.feedBand f := by
    rw [feedBand_eq, feedBand_eq, feed_congr (hshown.part .supply (by decide))]
  have hvolts (v : BitVec 16) (hv : (s.feed f).volts = some v) := s.fld_feedShown f hv
  have hended := (s.feedShown f).flag_surgeEndTold f
  rw [s.judgeFeed_eq f hb, shownJudged]
  rw [hband, hnew] at hended ⊢
  have hframe : s.BankFrame [0, 1] [.bal, .loads] (s.feedShown f) := hshown.banks (by decide) (by decide)
  by_cases h : s.feedBand f = s.band f
  · rw [if_pos h]
    exact
      { band := hband.trans h.symm
        volts := hvolts
        event := fun _ hne => absurd h.symm hne
        ended := fun ho h1 h2 => by omega
        frame := hframe.mono (by decide) (by decide)
        quiet := fun _ => hframe }
  · rw [if_neg h]
    have htold := (((s.feedShown f).surgeEndTold_frame f).mono (by decide) (by decide)).trans
      (((s.feedShown f).surgeEndTold f).bandTold_frame f (s.feedBand f))
    have hevent := ((s.feedShown f).surgeEndTold f).flag_bandTold f (code := s.feedBand f)
    have hkept := ((s.feedShown f).surgeEndTold f).flag_surgeEnd_bandTold f (s.feedBand f)
    generalize ((s.feedShown f).surgeEndTold f).bandTold f (s.feedBand f) = y at htold hevent hkept ⊢
    have hset : s.BankFrame [0, 1] [.bal, .loads] (y.setBand f (s.feedBand f)) :=
      (hframe.trans (htold.banks (by decide) (by decide))).trans (y.setBand_frame f)
    have hfld (g : Fld) (h0 : g.off ≠ 0) (hg : g.off < 4096) :
        ((y.setBand f (s.feedBand f)).when (s.feedBand f != 0) reportSupply).fld (pZONE 3) g = y.fld (pZONE 3) g :=
      (fld_when_reportSupply _ _ _ _).trans (y.fld_setBand f h0 hg)
    have hflag (g : Fld) (h0 : g.off ≠ 0) (hg : g.off < 4096) := congrArg (· == 1) (hfld g h0 hg)
    exact
      { band := by
          rw [band_eq_fld, fld_when_reportSupply, ← band_eq_fld, band_setBand _ _ (by omega)]
        volts := fun v hv => by
          rw [hfld _ (by cases f <;> decide) (by cases f <;> decide), htold.fld (by cases f <;> decide)]
          exact hvolts v hv
        event := fun h0 _ => (hflag _ (by rw [bandEvent_off]; decide) (by rw [bandEvent_off]; decide)).trans (hevent h0)
        ended := fun ho h1 h2 =>
          (hflag _ (by cases f <;> decide) (by cases f <;> decide)).trans (hkept.trans (hended ho h1 h2))
        frame := (hset.mono (by decide) (by decide)).when ((hset.mono (by decide) (by decide)).report (by decide))
        quiet := fun h0 => by
          rw [h0] at hset ⊢
          exact hset }

end Judge

/-! ### Reports of the supply (R640) -/

/-- A report that follows an effect on other parts than the safety monitor and the clocks. -/
theorem Frame.reports {s y z : Zone} {words ps source detail} (h : s.Frame words ps y) (hs : .safety ∉ ps) (hm : .mono ∉ ps)
    (ht : .time ∉ ps) (hr : y.Reports z source detail) : s.Reports z source detail := by
  have hsafety : y.safety = s.safety := h.part .safety hs
  have hmono : y.mono = s.mono := h.part .mono hm
  have htime : y.time = s.time := h.part .time ht
  have hts : y.ts64 = s.ts64 := by
    unfold ts64 nowNs
    rw [htime]
  unfold Reports at hr ⊢
  rw [hr, hsafety, hmono, hts]

/-! ### Cranking hold (R65, R66, R72) -/

/-- The electronics supply lies below cranking hold entry. -/
def crankEntered (s : Zone) : Zone := { s.windowMark with supply := { s.supply with low := true, aboveSince := none } }

theorem crankEntered_frame (s : Zone) : s.Frame [] [.supply, .start] s.crankEntered :=
  (Frame.refl.windowMark (by decide) : s.Frame _ _ s.windowMark).parts rfl rfl (SameParts.supply (by decide))

theorem showCrank_frame (s : Zone) :
    s.Frame [pZONE 3 + ZONE3.SUPPLY_STATUS_CRANK_HOLD.off, pZONE 3 + ZONE3.SUPPLY_EVENT_CRANK.off, pZONE 3 + ZONE3.CRANK_COUNT.off]
      [.safety] s.showCrank :=
  (((Frame.refl.setFld (by decide)).event (by decide)).count (by decide)).report (by decide)

theorem showCrank_shows (s : Zone) :
    s.showCrank.flag (pZONE 3) ZONE3.SUPPLY_STATUS_CRANK_HOLD = true ∧ s.showCrank.flag (pZONE 3) ZONE3.SUPPLY_EVENT_CRANK = true ∧
      s.showCrank.fld (pZONE 3) ZONE3.CRANK_COUNT = min (s.fld (pZONE 3) ZONE3.CRANK_COUNT + 1) 0xFFFF := by
  unfold showCrank reportSupply
  simp (disch := decide) only [flag_report, fld_report, flag_count_beside, flag_event_beside, flag_setFld_one, flag_event_same,
    fld_count_same, fld_event_beside, fld_setFld_beside, true_and, Nat.reducePow, Nat.reduceSub]

theorem leaveCrank_low {s : Zone} (h : s.supply.low = true) :
    s.leaveCrank.flag (pZONE 3) ZONE3.SUPPLY_STATUS_CRANK_HOLD = false ∧
      s.leaveCrank.supply = { s.supply with low := false, aboveSince := some s.mono } := by
  unfold leaveCrank
  rw [if_pos h]
  exact ⟨flag_setFld_zero _ _ _ (by decide), rfl⟩

/-- After it the module is in no cranking hold. -/
theorem low_leaveCrank (s : Zone) : s.leaveCrank.supply.low = false := by
  unfold leaveCrank
  cases h : s.supply.low
  · exact h
  · rfl

theorem feed_leaveCrank (s : Zone) (f : Feed) : s.leaveCrank.feed f = s.feed f := by
  unfold leaveCrank
  split <;> cases f <;> rfl

theorem leaveCrank_frame (s : Zone) :
    s.Frame [pZONE 3 + ZONE3.SUPPLY_STATUS_CRANK_HOLD.off] [.supply, .start] s.leaveCrank := by
  unfold leaveCrank
  have hmark : s.Frame [pZONE 3 + ZONE3.SUPPLY_STATUS_CRANK_HOLD.off] [.supply, .start] s.windowMark := Frame.refl.windowMark (by decide)
  split
  · exact Frame.setFld (hmark.parts rfl rfl (SameParts.supply (by decide))) (by decide)
  · exact .refl

theorem band_leaveCrank (s : Zone) (f : Feed) : s.leaveCrank.band f = s.band f := by
  unfold leaveCrank
  split
  · rw [band_eq_fld, band_eq_fld]
    cases f <;> exact fld_setFld_beside _ _ (by decide) _
  · rfl

/-! ### A crossing of a threshold (R65, R69) -/

section Crossing

variable (s : Zone) (f : Feed) (code : Nat) (v : BitVec 16)

theorem feedCrosses_frame : s.Frame [] [.supply, .start] (s.feedCrosses f code v) :=
  ((Frame.refl.windowMark (by decide)).trans ((s.windowMark.setFeed_frame f _).mono (by decide) (by decide)))

theorem feed_feedCrosses : (s.feedCrosses f code v).feed f = ⟨code, if code = 1 then some s.mono else none, some v⟩ := feed_setFeed _ _ _

theorem feedCrosses_logicRuns : (s.feedCrosses f code v).logicRuns = s.logicRuns := (s.feedCrosses_frame f code v).logicRuns (by decide)

theorem feedEvent_runs (h : s.logicRuns = true) : s.feedEvent f code v = (s.feedCrosses f code v).judgeFeed f :=
  if_pos (by rw [feedCrosses_logicRuns, h])

theorem feedEvent_rests (h : s.logicRuns = false) : s.feedEvent f code v = s.feedCrosses f code v :=
  if_neg (by rw [feedCrosses_logicRuns, h]; exact Bool.false_ne_true)

/-- What a crossing of feed f into a band at a voltage leaves while the logic runs. -/
structure CrossesFeed (z : Zone) : Prop where
  band : z.band f = code
  feed : z.feed f = ⟨code, if code = 1 then some s.mono else none, some v⟩
  volts : z.fld (pZONE 3) (voltsFld f) = v.toNat
  event : code ≠ 0 → s.band f ≠ code → z.flag (pZONE 3) (bandEvent f code) = true
  ended : s.band f = 1 ∨ s.band f = 2 → code ≠ 1 → code ≠ 2 → z.flag (pZONE 3) (surgeEndFld f) = true
  frame : s.BankFrame [0, 1] [.supply, .start, .bal, .loads, .safety] z
  quiet : code = 0 → s.BankFrame [0, 1] [.supply, .start, .bal, .loads] z

theorem feedEvent_crosses (hl : s.logicRuns = true) (hb : code ≤ 4) : s.CrossesFeed f code v (s.feedEvent f code v) := by
  rw [s.feedEvent_runs f code v hl]
  have hcross := s.feedCrosses_frame f code v
  have hfeed := s.feed_feedCrosses f code v
  generalize s.feedCrosses f code v = y at hcross hfeed ⊢
  have hnew : y.feedBand f = code := by rw [feedBand_eq, hfeed]
  have hold : y.band f = s.band f := hcross.band (by decide) f
  have h := y.judgeFeed_judges f (by omega)
  have hkept : (y.judgeFeed f).feed f = y.feed f := feed_congr (h.frame.part .supply (by decide)) f
  exact
    { band := h.band.trans hnew
      feed := hkept.trans hfeed
      volts := h.volts v (by rw [hfeed])
      event := fun h0 hne => by
        rw [← hnew] at h0 hne ⊢
        exact h.event h0 (by rw [hold]; exact hne)
      ended := fun ho h1 h2 => h.ended (by rw [hold]; exact ho) (by rw [hnew]; exact h1) (by rw [hnew]; exact h2)
      frame := (hcross.banks (by decide) (by decide)).trans (h.frame.mono (by decide) (by decide))
      quiet := fun h0 => (hcross.banks (by decide) (by decide)).trans ((h.quiet (by rw [hnew, h0])).mono (by decide) (by decide)) }

end Crossing

end Zone

end Sys2Proof.Machine
end

