-- ==== Sys2Proof/Proofs/SupplyEvents.lean ====
section
/-! SUPPORT. The commands of the supply monitor, clause by clause (R61, R64 to R70, R72, R265), and O1. -/

namespace Sys2Proof.Machine

open Reg

section Clauses

variable {s : State}

/-! ### Cranking hold (R65, R66) -/

theorem completes_crankHoldEntry (hlow : s.zone.supply.low = false) (ha : s.zone.inSurge .A = false) (hb : s.zone.inSurge .B = false) :
    Completes .crankHoldEntry s (· = if s.zone.logicRuns then s.zone.crankEntered.showCrank else s.zone.crankEntered) := by
  refine ⟨_, ?_, rfl⟩
  change execCrankHoldEntry s = _
  unfold execCrankHoldEntry
  rw [State.run_eq, if_neg (by simp [hlow, ha, hb])]
  rfl

theorem completes_crankShown (hl : s.zone.logicRuns = true) (hlow : s.zone.supply.low = false) (ha : s.zone.inSurge .A = false)
    (hb : s.zone.inSurge .B = false) : Completes .crankHoldEntry s fun z =>
      z.flag (pZONE 3) ZONE3.SUPPLY_STATUS_CRANK_HOLD = true ∧ z.flag (pZONE 3) ZONE3.SUPPLY_EVENT_CRANK = true ∧
      z.fld (pZONE 3) ZONE3.CRANK_COUNT = min (s.zone.fld (pZONE 3) ZONE3.CRANK_COUNT + 1) 0xFFFF ∧
      z.supply = { s.zone.supply with low := true, aboveSince := none } ∧ s.zone.Reports z Src.supply (z.rd (pZONE 3 + 0x00C)) ∧
      s.zone.Frame [pZONE 3 + ZONE3.SUPPLY_STATUS_CRANK_HOLD.off, pZONE 3 + ZONE3.SUPPLY_EVENT_CRANK.off,
        pZONE 3 + ZONE3.CRANK_COUNT.off] [.supply, .safety, .start] z := by
  refine (completes_crankHoldEntry hlow ha hb).imp fun z hz => ?_
  rw [if_pos hl] at hz
  subst hz
  obtain ⟨hhold, hevent, hcount⟩ := s.zone.crankEntered.showCrank_shows
  exact ⟨hhold, hevent, hcount, rfl, rfl,
    (s.zone.crankEntered_frame.mono (by decide) (by decide)).trans (s.zone.crankEntered.showCrank_frame.mono (by decide) (by decide))⟩

theorem completes_crankUnseen (hl : s.zone.logicRuns = false) (hlow : s.zone.supply.low = false) (ha : s.zone.inSurge .A = false)
    (hb : s.zone.inSurge .B = false) : Completes .crankHoldEntry s fun z =>
      z.supply = { s.zone.supply with low := true, aboveSince := none } ∧ s.zone.Frame [] [.supply, .start] z := by
  refine (completes_crankHoldEntry hlow ha hb).imp fun z hz => ?_
  rw [if_neg (by simp [hl])] at hz
  subst hz
  exact ⟨rfl, s.zone.crankEntered_frame⟩

theorem completes_crankHoldExit (hlow : s.zone.supply.low = true) : Completes .crankHoldExit s fun z =>
    z.flag (pZONE 3) ZONE3.SUPPLY_STATUS_CRANK_HOLD = false ∧
    z.supply = { s.zone.supply with low := false, aboveSince := some s.zone.mono } ∧
    s.zone.Frame [pZONE 3 + ZONE3.SUPPLY_STATUS_CRANK_HOLD.off] [.supply, .start] z := by
  obtain ⟨hhold, hsupply⟩ := Zone.leaveCrank_low hlow
  exact ⟨_, rfl, hhold, hsupply, s.zone.leaveCrank_frame⟩

theorem completes_crankAccClear {t : Nat} (ht : s.zone.supply.aboveSince = some t) (hp : t + 10 * 250000 ≤ s.zone.mono) :
    Completes .crankAccClear s fun z =>
      z.fld (pZONE 3) ZONE3.CRANK_ACC = 0 ∧ z.supply = { s.zone.supply with crankTicks := 0, aboveSince := none } ∧
      s.zone.Frame [pZONE 3 + ZONE3.CRANK_ACC.off] [.supply] z := by
  have hpast : s.zone.past t (10 * Zone.ticksPerMs) = true := decide_eq_true hp
  have hz : Completes .crankAccClear s
      (· = { s.zone.setFld (pZONE 3) ZONE3.CRANK_ACC 0 with supply := { s.zone.supply with crankTicks := 0, aboveSince := none } }) := by
    refine ⟨_, ?_, rfl⟩
    change execCrankAccClear s = _
    unfold execCrankAccClear
    simp only [State.run_eq, ht, hpast, if_true, Zone.setFld_supply]
  refine hz.imp fun z hz => ?_
  subst hz
  exact ⟨Zone.fld_setFld_same s.zone _ _ _ (by decide), rfl,
    (Zone.Frame.refl.setFld (by decide)).parts rfl rfl (Zone.SameParts.supply (by decide))⟩

/-! ### Grounds (R70) -/

/-- Where SUPPLY_STATUS shows the loss of the ground of a feed. -/
def groundFld : Feed → Fld
  | .A => ZONE3.SUPPLY_STATUS_GND_A_LOST
  | .B => ZONE3.SUPPLY_STATUS_GND_B_LOST

/-- The event of a lost ground. -/
def groundEvent : Feed → Fld
  | .A => ZONE3.SUPPLY_EVENT_GND_A_LOST
  | .B => ZONE3.SUPPLY_EVENT_GND_B_LOST

theorem completes_gndLost {r : GndReading} (hl : s.zone.logicRuns = true) (ht : 10000 < r.total) (hp : r.path * 50 < r.total)
    (hf : s.zone.flag (pZONE 3) (groundFld r.feed) = false) : Completes (.gndLost r) s fun z =>
      z.flag (pZONE 3) (groundFld r.feed) = true ∧ z.flag (pZONE 3) (groundEvent r.feed) = true ∧
      s.zone.Reports z Src.supply (z.rd (pZONE 3 + 0x00C)) ∧
      s.zone.Frame [pZONE 3 + ZONE3.SUPPLY_STATUS_GND_A_LOST.off, pZONE 3 + ZONE3.SUPPLY_EVENT_GND_A_LOST.off] [.safety] z := by
  have hz : Completes (.gndLost r) s
      (· = ((s.zone.setFld (pZONE 3) (groundFld r.feed) 1).event (pZONE 3) (groundEvent r.feed)).reportSupply) := by
    refine ⟨_, ?_, rfl⟩
    change execGndLost r s = _
    unfold execGndLost
    rw [State.runOn_runs _ _ hl]
    refine congrArg _ (congrArg _ (if_neg ?_))
    rintro (h | h | h)
    · exact Bool.false_ne_true (hf.symm.trans h)
    · omega
    · omega
  refine hz.imp fun z hz => ?_
  have hframe : s.zone.Frame [pZONE 3 + ZONE3.SUPPLY_STATUS_GND_A_LOST.off, pZONE 3 + ZONE3.SUPPLY_EVENT_GND_A_LOST.off] []
      ((s.zone.setFld (pZONE 3) (groundFld r.feed) 1).event (pZONE 3) (groundEvent r.feed)) :=
    (Zone.Frame.refl.setFld (by cases r.feed <;> decide)).event (by cases r.feed <;> decide)
  have hlost := (Zone.flag_event_beside _ (pZONE 3) (f := groundEvent r.feed) (g := groundFld r.feed) (by cases r.feed <;> decide)).trans
    (Zone.flag_setFld_one s.zone (pZONE 3) _ (by cases r.feed <;> decide) (by cases r.feed <;> decide))
  have hevent := Zone.flag_event_same (s.zone.setFld (pZONE 3) (groundFld r.feed) 1) (pZONE 3) (groundEvent r.feed)
    (by cases r.feed <;> decide) (by cases r.feed <;> decide)
  generalize (s.zone.setFld (pZONE 3) (groundFld r.feed) 1).event (pZONE 3) (groundEvent r.feed) = y at hz hframe hlost hevent
  subst hz
  exact ⟨hlost, hevent, hframe.reports (by decide) (by decide) (by decide) rfl,
    (hframe.mono (by decide) (by decide)).report (by decide)⟩

theorem completes_gndRestored {r : GndReading} (hl : s.zone.logicRuns = true) (ht : 10000 < r.total) (hp : r.total < r.path * 5) :
    Completes (.gndRestored r) s (· = s.zone.setFld (pZONE 3) (groundFld r.feed) 0) := by
  refine ⟨_, ?_, rfl⟩
  change execGndRestored r s = _
  unfold execGndRestored
  rw [State.runOn_runs _ _ hl]
  exact congrArg _ (congrArg _ (if_neg (by omega)))

theorem completes_gndLost_small {r : GndReading} (ht : r.total ≤ 10000) : Completes (.gndLost r) s (s.zone.Frame [] []) := by
  refine ⟨s.zone, ?_, .refl⟩
  change execGndLost r s = _
  unfold execGndLost
  cases hl : s.zone.logicRuns with
  | true =>
    rw [State.runOn_runs _ _ hl]
    exact congrArg _ (congrArg _ (if_pos (.inr (.inl ht))))
  | false => exact State.runOn_rests _ _ hl

theorem completes_gndRestored_small {r : GndReading} (ht : r.total ≤ 10000) : Completes (.gndRestored r) s (s.zone.Frame [] []) := by
  refine ⟨s.zone, ?_, .refl⟩
  change execGndRestored r s = _
  unfold execGndRestored
  cases hl : s.zone.logicRuns with
  | true =>
    rw [State.runOn_runs _ _ hl]
    exact congrArg _ (congrArg _ (if_pos (.inl ht)))
  | false => exact State.runOn_rests _ _ hl

/-! ### Overloads (R61) -/

/-- The 1 s averages of the feeds are shown and judged. -/
def Zone.feedAverages (s : Zone) (a b : Nat) : Zone :=
  let shown := (s.setFld pSHUNT SHUNT.FEED_AVG_A a).setFld pSHUNT SHUNT.FEED_AVG_B b
  ((shown.when (decide (8000 < a)) (·.event (pZONE 3) ZONE3.SUPPLY_EVENT_FEED_OVER_A)).when (decide (8000 < b))
    (·.event (pZONE 3) ZONE3.SUPPLY_EVENT_FEED_OVER_B)).when (decide (15000 < a + b)) (·.event (pZONE 3) ZONE3.SUPPLY_EVENT_TOTAL_OVER)

theorem Zone.feedAverages_frame (s : Zone) (a b : Nat) :
    s.Frame [pSHUNT + SHUNT.FEED_AVG_A.off, pSHUNT + SHUNT.FEED_AVG_B.off, pZONE 3 + ZONE3.SUPPLY_EVENT_TOTAL_OVER.off] []
      (s.feedAverages a b) :=
  ((((Frame.refl.setFld (by decide)).setFld (by decide)).whenEvent (by decide)).whenEvent (by decide)).whenEvent (by decide)

theorem completes_feedOverload (a b : BitVec 16) (hl : s.zone.logicRuns = true) : Completes (.feedOverload a b) s fun z =>
    z.fld pSHUNT SHUNT.FEED_AVG_A = a.toNat ∧ z.fld pSHUNT SHUNT.FEED_AVG_B = b.toNat ∧
    z.flag (pZONE 3) ZONE3.SUPPLY_EVENT_FEED_OVER_A = (s.zone.flag (pZONE 3) ZONE3.SUPPLY_EVENT_FEED_OVER_A || decide (8000 < a.toNat)) ∧
    z.flag (pZONE 3) ZONE3.SUPPLY_EVENT_FEED_OVER_B = (s.zone.flag (pZONE 3) ZONE3.SUPPLY_EVENT_FEED_OVER_B || decide (8000 < b.toNat)) ∧
    z.flag (pZONE 3) ZONE3.SUPPLY_EVENT_TOTAL_OVER =
      (s.zone.flag (pZONE 3) ZONE3.SUPPLY_EVENT_TOTAL_OVER || decide (15000 < a.toNat + b.toNat)) ∧
    s.zone.Frame [pSHUNT + SHUNT.FEED_AVG_A.off, pSHUNT + SHUNT.FEED_AVG_B.off, pZONE 3 + ZONE3.SUPPLY_EVENT_TOTAL_OVER.off] [] z := by
  have hz : Completes (.feedOverload a b) s (· = s.zone.feedAverages a.toNat b.toNat) := by
    refine ⟨_, ?_, rfl⟩
    change execFeedOverload a b s = _
    exact State.runOn_runs _ _ hl
  refine hz.imp fun z hz => ?_
  subst hz
  refine ⟨?_, ?_, ?_, ?_, ?_, s.zone.feedAverages_frame _ _⟩
  all_goals
    unfold Zone.feedAverages
    simp (disch := decide) only [Zone.fld_when_event_ne, Zone.flag_when_event_same, Zone.flag_when_event_beside, Zone.fld_setFld_same,
      Zone.fld_setFld_beside, Zone.flag_setFld_ne]
  · exact Nat.mod_eq_of_lt a.isLt
  · exact Nat.mod_eq_of_lt b.isLt

/-! ### Crossings of a feed (R65, R68, R69, R265) -/

section Crossings

variable {f : Feed} {v : BitVec 16}

theorem completes_surgeEntry (hf : s.zone.inSurge f = false) (hv : Threshold.surgeEntry.above v = true) :
    Completes (.surgeEntry f v) s (· = (s.zone.feedEvent f 1 v).leaveCrank) := by
  refine ⟨_, ?_, rfl⟩
  change execSurgeEntry f v s = _
  unfold execSurgeEntry
  rw [State.run_eq, if_neg (by simp [hf, hv])]

theorem completes_surgeExit (hf : s.zone.inSurge f = true) (hv : Threshold.surgeExit.below v = true) :
    Completes (.surgeExit f v) s (· = s.zone.feedEvent f 0 v) := by
  refine ⟨_, ?_, rfl⟩
  change execSurgeExit f v s = _
  unfold execSurgeExit
  rw [State.run_eq, if_pos (by simp [hf, hv])]

theorem completes_feedLost (hf : s.zone.feedBand f ≠ 4) (hv : Threshold.feedLost.below v = true) (hr : Threshold.reverse.below v = false) :
    Completes (.feedLost f v) s (· = s.zone.feedEvent f 4 v) := by
  refine ⟨_, ?_, rfl⟩
  change execFeedLost f v s = _
  unfold execFeedLost
  rw [State.run_eq, if_neg (by simp [hf, hv, hr])]

theorem completes_reverseEntry (hf : s.zone.feedBand f ≠ 3) (hv : Threshold.reverse.below v = true) :
    Completes (.reverseEntry f v) s (· = s.zone.feedEvent f 3 v) := by
  refine ⟨_, ?_, rfl⟩
  change execReverseEntry f v s = _
  unfold execReverseEntry
  rw [State.run_eq, if_neg (by simp [hf, hv])]

theorem completes_feedReturn (hf : s.zone.feedBand f = 3 ∨ s.zone.feedBand f = 4) (hv : Threshold.feedLost.below v = false) :
    Completes (.feedReturn f v) s (· = s.zone.feedEvent f 0 v) := by
  refine ⟨_, ?_, rfl⟩
  change execFeedReturn f v s = _
  unfold execFeedReturn
  rw [State.run_eq, if_pos ⟨hf, hv⟩]

theorem completes_surgeEntry_shown (hl : s.zone.logicRuns = true) (hf : s.zone.inSurge f = false)
    (hv : Threshold.surgeEntry.above v = true) : Completes (.surgeEntry f v) s fun z =>
      z.band f = 1 ∧ z.feed f = ⟨1, some s.zone.mono, some v⟩ ∧ z.fld (pZONE 3) (Zone.voltsFld f) = v.toNat ∧
      (s.zone.band f ≠ 1 → z.flag (pZONE 3) (Zone.bandEvent f 1) = true) ∧ z.supply.low = false ∧
      s.zone.BankFrame [0, 1] [.supply, .start, .bal, .loads, .safety] z := by
  refine (completes_surgeEntry hf hv).imp fun z hz => ?_
  have hcross := s.zone.feedEvent_crosses f 1 v hl (by decide)
  generalize s.zone.feedEvent f 1 v = y at hz hcross
  subst hz
  have hleft := y.leaveCrank_frame
  refine ⟨(y.band_leaveCrank f).trans hcross.band, (y.feed_leaveCrank f).trans hcross.feed,
    (hleft.fld (by cases f <;> decide)).trans hcross.volts, fun hne => ?_, y.low_leaveCrank,
    hcross.frame.trans (hleft.banks (by decide) (by decide))⟩
  rw [hleft.flag (by rw [Zone.bandEvent_off]; decide)]
  exact hcross.event (by decide) hne

theorem completes_surgeEntry_unseen (hl : s.zone.logicRuns = false) (hf : s.zone.inSurge f = false)
    (hv : Threshold.surgeEntry.above v = true) : Completes (.surgeEntry f v) s fun z =>
      z.feed f = ⟨1, some s.zone.mono, some v⟩ ∧ z.supply.low = false ∧
      s.zone.Frame [pZONE 3 + ZONE3.SUPPLY_STATUS_CRANK_HOLD.off] [.supply, .start] z := by
  refine (completes_surgeEntry hf hv).imp fun z hz => ?_
  rw [s.zone.feedEvent_rests f 1 v hl] at hz
  have hcross := s.zone.feedCrosses_frame f 1 v
  have hfeed := s.zone.feed_feedCrosses f 1 v
  generalize s.zone.feedCrosses f 1 v = y at hz hcross hfeed
  subst hz
  exact ⟨(y.feed_leaveCrank f).trans hfeed, y.low_leaveCrank, (hcross.mono (by decide) (by decide)).trans y.leaveCrank_frame⟩

theorem completes_surgeLong {t : Nat} (hf : s.zone.feed f = ⟨1, some t, (s.zone.feed f).volts⟩) (ht : t + 400 * 250000 < s.zone.mono)
    (hl : s.zone.logicRuns = true) :
    Completes (.surgeLong f) s (· = (s.zone.setFeed f ⟨2, some t, (s.zone.feed f).volts⟩).judgeFeed f) := by
  have hat : (s.zone.feed f).surgeAt = some t := by rw [hf]
  have hband : s.zone.feedBand f = 1 := by rw [Zone.feedBand_eq, hf]
  have hpast : s.zone.past t (400 * Zone.ticksPerMs + 1) = true := decide_eq_true (show t + (400 * 250000 + 1) ≤ s.zone.mono by omega)
  have hruns : (s.zone.setFeed f ⟨2, some t, (s.zone.feed f).volts⟩).logicRuns = true :=
    ((s.zone.setFeed_frame f _).logicRuns (by decide)).trans hl
  refine ⟨_, ?_, rfl⟩
  change execSurgeLong f s = _
  unfold execSurgeLong
  simp only [State.run_eq, hat, hband, hpast, hruns, and_self, if_true]

theorem completes_surgeLong_shown {t : Nat} (hl : s.zone.logicRuns = true) (hf : s.zone.feed f = ⟨1, some t, (s.zone.feed f).volts⟩)
    (ht : t + 400 * 250000 < s.zone.mono) : Completes (.surgeLong f) s fun z =>
      z.band f = 2 ∧ z.feed f = ⟨2, some t, (s.zone.feed f).volts⟩ ∧
      (s.zone.band f ≠ 2 → z.flag (pZONE 3) (Zone.bandEvent f 2) = true) ∧
      s.zone.BankFrame [0, 1] [.supply, .bal, .loads, .safety] z := by
  refine (completes_surgeLong hf ht hl).imp fun z hz => ?_
  have hset := s.zone.setFeed_frame f ⟨2, some t, (s.zone.feed f).volts⟩
  have hfeed := s.zone.feed_setFeed f ⟨2, some t, (s.zone.feed f).volts⟩
  generalize s.zone.setFeed f ⟨2, some t, (s.zone.feed f).volts⟩ = y at hz hset hfeed
  subst hz
  have hnew : y.feedBand f = 2 := by rw [Zone.feedBand_eq, hfeed]
  have h := y.judgeFeed_judges f (by omega)
  refine ⟨h.band.trans hnew, ?_, fun hne => ?_, (hset.banks (by decide) (by decide)).trans (h.frame.mono (by decide) (by decide))⟩
  · rw [Zone.feed_congr (h.frame.part .supply (by decide)), hfeed]
  · rw [← hnew] at hne ⊢
    exact h.event (by omega) (by rw [hset.band (by decide)]; exact hne)

theorem completes_surgeExit_shown (hl : s.zone.logicRuns = true) (hf : s.zone.inSurge f = true)
    (hv : Threshold.surgeExit.below v = true) : Completes (.surgeExit f v) s fun z =>
      z.band f = 0 ∧ z.feed f = ⟨0, none, some v⟩ ∧
      (s.zone.band f = 1 ∨ s.zone.band f = 2 → z.flag (pZONE 3) (Zone.surgeEndFld f) = true) ∧
      s.zone.BankFrame [0, 1] [.supply, .start, .bal, .loads] z := by
  refine (completes_surgeExit hf hv).imp fun z hz => ?_
  have h := hz ▸ s.zone.feedEvent_crosses f 0 v hl (by decide)
  exact ⟨h.band, h.feed, fun ho => h.ended ho (by decide) (by decide), h.quiet rfl⟩

theorem completes_feedLost_shown (hl : s.zone.logicRuns = true) (hf : s.zone.feedBand f ≠ 4)
    (hv : Threshold.feedLost.below v = true) (hr : Threshold.reverse.below v = false) : Completes (.feedLost f v) s fun z =>
      z.band f = 4 ∧ z.feed f = ⟨4, none, some v⟩ ∧ (s.zone.band f ≠ 4 → z.flag (pZONE 3) (Zone.bandEvent f 4) = true) ∧
      s.zone.BankFrame [0, 1] [.supply, .start, .bal, .loads, .safety] z := by
  refine (completes_feedLost hf hv hr).imp fun z hz => ?_
  have h := hz ▸ s.zone.feedEvent_crosses f 4 v hl (by decide)
  exact ⟨h.band, h.feed, h.event (by decide), h.frame⟩

theorem completes_reverseEntry_shown (hl : s.zone.logicRuns = true) (hf : s.zone.feedBand f ≠ 3)
    (hv : Threshold.reverse.below v = true) : Completes (.reverseEntry f v) s fun z =>
      z.band f = 3 ∧ z.feed f = ⟨3, none, some v⟩ ∧ (s.zone.band f ≠ 3 → z.flag (pZONE 3) (Zone.bandEvent f 3) = true) ∧
      s.zone.BankFrame [0, 1] [.supply, .start, .bal, .loads, .safety] z := by
  refine (completes_reverseEntry hf hv).imp fun z hz => ?_
  have h := hz ▸ s.zone.feedEvent_crosses f 3 v hl (by decide)
  exact ⟨h.band, h.feed, h.event (by decide), h.frame⟩

theorem completes_feedReturn_shown (hl : s.zone.logicRuns = true) (hf : s.zone.feedBand f = 3 ∨ s.zone.feedBand f = 4)
    (hv : Threshold.feedLost.below v = false) : Completes (.feedReturn f v) s fun z =>
      z.band f = 0 ∧ z.feed f = ⟨0, none, some v⟩ ∧ s.zone.BankFrame [0, 1] [.supply, .start, .bal, .loads] z := by
  refine (completes_feedReturn hf hv).imp fun z hz => ?_
  have h := hz ▸ s.zone.feedEvent_crosses f 0 v hl (by decide)
  exact ⟨h.band, h.feed, h.quiet rfl⟩

/-- On a reversed feed the high sides of the large outputs are closed, the others open, whatever the logic does. -/
theorem Zone.outputs_reversed {z : Zone} {n : Nat} (h : z.feedBand (loadFeed n) = 3) :
    z.outputs n = (decide (loadClass n = .h20 ∨ loadClass n = .h8), false) := by
  unfold Zone.outputs
  exact if_pos h

theorem completes_reverseEntry_unseen (hl : s.zone.logicRuns = false) (hf : s.zone.feedBand f ≠ 3)
    (hv : Threshold.reverse.below v = true) : Completes (.reverseEntry f v) s fun z =>
      z.feed f = ⟨3, none, some v⟩ ∧
      (∀ n : Fin 48, loadFeed n.val = f → z.outputs n.val = (decide (loadClass n.val = .h20 ∨ loadClass n.val = .h8), false)) ∧
      s.zone.Frame [] [.supply, .start] z := by
  refine (completes_reverseEntry hf hv).imp fun z hz => ?_
  rw [s.zone.feedEvent_rests f 3 v hl] at hz
  subst hz
  have hfeed := s.zone.feed_feedCrosses f 3 v
  refine ⟨hfeed, fun n hn => Zone.outputs_reversed ?_, s.zone.feedCrosses_frame f 3 v⟩
  rw [hn, Zone.feedBand_eq, hfeed]

end Crossings

end Clauses

/-- Settles O1, clause by clause: what a crossing leaves (`Zone.CrossesFeed`), cranking hold, grounds and overloads. -/
theorem supplyEventsShowAndSetTheBands : Obligations.SupplyEventsShowAndSetTheBands := by
  unfold Obligations.SupplyEventsShowAndSetTheBands
  refine ⟨fun s hl hlow ha hb => completes_crankShown hl hlow ha hb, fun s hl hlow ha hb => completes_crankUnseen hl hlow ha hb,
    fun s hlow => completes_crankHoldExit hlow, fun s t ht hp => completes_crankAccClear ht hp, ?_, ?_, ?_,
    fun s r ht => completes_gndLost_small ht, fun s r ht => completes_gndRestored_small ht,
    fun s a b hl => completes_feedOverload a b hl, ?_, ?_, ?_, ?_, ?_, fun s f v hl hf hv => completes_feedReturn_shown hl hf hv,
    fun s f v hl hf hv => completes_surgeEntry_unseen hl hf hv, fun s f v hl hf hv => completes_reverseEntry_unseen hl hf hv⟩
  · intro s r hl hr ht hp hf
    have h := completes_gndLost (r := r) hl ht hp (by rw [hr]; exact hf)
    rw [hr] at h
    exact h
  · intro s r hl hr ht hp hf
    have h := completes_gndLost (r := r) hl ht hp (by rw [hr]; exact hf)
    rw [hr] at h
    exact h
  · intro s r hl ht hp
    refine (completes_gndRestored hl ht hp).imp fun z hz => ?_
    subst hz
    cases r.feed
    · exact ⟨Zone.flag_setFld_zero _ _ _ (by decide), Zone.flag_setFld_beside _ _ (by decide) _, Zone.Frame.refl.setFld (by decide)⟩
    · exact ⟨Zone.flag_setFld_zero _ _ _ (by decide), Zone.flag_setFld_beside _ _ (by decide) _, Zone.Frame.refl.setFld (by decide)⟩
  · intro s f v hl hf hv
    have := completes_surgeEntry_shown hl hf hv
    cases f <;> exact this
  · intro s f t hl hf ht
    have := completes_surgeLong_shown hl hf ht
    cases f <;> exact this
  · intro s f v hl hf hv
    have := completes_surgeExit_shown hl hf hv
    cases f <;> exact this
  · intro s f v hl hf hv hr
    have := completes_feedLost_shown hl hf hv hr
    cases f <;> exact this
  · intro s f v hl hf hv
    have := completes_reverseEntry_shown hl hf hv
    cases f <;> exact this

end Sys2Proof.Machine
end

