-- ==== Sys2Proof/Proofs/Inputs.lean ====
section
/-! SUPPORT. What the inputs follow: samples, level, capture and configuration (R83 to R88). -/

namespace Sys2Proof.Machine

open Reg

/-- A field of a word of which a mask lets the whole field pass. -/
theorem Fld.get_and (f : Fld) (v mask : Word) (h : f.get mask = 2 ^ f.w - 1) : f.get (v &&& mask) = f.get v := by
  apply Nat.eq_of_testBit_eq
  intro i
  have hi := congrArg (Nat.testBit · i) h
  simp only [Fld.testBit_get, Nat.testBit_two_pow_sub_one] at hi
  rw [Fld.testBit_get, Fld.testBit_get, BitVec.getLsbD_and, Bool.and_left_comm, hi, Bool.and_comm]

namespace Zone

variable (s : Zone) (k : Nat)

/-! ### The state of an input -/

theorem input_setInput_same (x : InputSt) : (s.setInput k x).input k = x := SMap.get_set_same _ _ _ _

@[simp] theorem input_setFld (p : Nat) (f : Fld) (v : Nat) : (s.setFld p f v).input k = s.input k := rfl

theorem input_congr {s t : Zone} (h : t.inputs = s.inputs) (k : Nat) : t.input k = s.input k := by
  unfold input
  rw [h]

theorem Frame.setInput {s z : Zone} {words ps k x} (h : s.Frame words ps z) (hp : .inputs ∈ ps) : s.Frame words ps (z.setInput k x) :=
  h.parts rfl rfl (SameParts.inputs hp)

/-! ### ACTIVE and LEVEL (R84, R85, R89) -/

/-- What STATE.ACTIVE shows of a level. -/
abbrev activeAt (level : Bool) : Bool := level != decide (s.fld (pINPUT k) INPUT.IN_CFG_MODE = 1)

theorem showActive_eq (h : (s.input k).samples ≠ []) :
    s.showActive k = s.setFlag (pINPUT k) INPUT.STATE_ACTIVE (s.activeAt k (s.flag (pINPUT k) INPUT.STATE_LEVEL)) := by
  unfold showActive
  rw [if_neg (by simpa using h)]
  refine congrArg _ ?_
  by_cases hm : s.fld (pINPUT k) INPUT.IN_CFG_MODE = 1 <;> simp [activeAt, hm]

theorem showActive_frame : s.Frame [pINPUT k + INPUT.STATE_ACTIVE.off] [] (s.showActive k) := by
  unfold showActive
  split
  · exact .refl
  · exact Frame.refl.setFlag (by simp)

theorem flag_showActive (h : (s.input k).samples ≠ []) :
    (s.showActive k).flag (pINPUT k) INPUT.STATE_ACTIVE = s.activeAt k (s.flag (pINPUT k) INPUT.STATE_LEVEL) := by
  rw [s.showActive_eq k h]
  exact flag_setFlag_same _ _ _ _ (by decide) (by decide)

theorem level_showActive : (s.showActive k).flag (pINPUT k) INPUT.STATE_LEVEL = s.flag (pINPUT k) INPUT.STATE_LEVEL := by
  unfold showActive
  split
  · rfl
  · exact flag_setFlag_beside _ _ (by decide) _

/-- The event of a level that rises or falls. -/
def levelEvent (level : Bool) : Fld := if level then INPUT.IN_EVENT_RISE else INPUT.IN_EVENT_FALL

@[simp] theorem levelEvent_off (level : Bool) : (levelEvent level).off = 0x18 := by cases level <;> rfl

/-- What a level that follows the candidate leaves. -/
structure TakesLevel (z : Zone) : Prop where
  level : z.flag (pINPUT k) INPUT.STATE_LEVEL = (s.input k).candidate
  event : z.flag (pINPUT k) (levelEvent (s.input k).candidate) = true
  edges : z.fld (pINPUT k) INPUT.IN_COUNTS_EDGES = min (s.fld (pINPUT k) INPUT.IN_COUNTS_EDGES + 1) 0xFFFF
  active : (s.input k).samples ≠ [] → z.flag (pINPUT k) INPUT.STATE_ACTIVE = s.activeAt k (s.input k).candidate
  frame : s.Frame [pINPUT k + INPUT.STATE_LEVEL.off, pINPUT k + INPUT.IN_EVENT_RISE.off, pINPUT k + INPUT.IN_COUNTS_EDGES.off] [] z

/-- LEVEL has taken a new value, and ACTIVE does not show it yet. -/
def levelTaken (level : Bool) : Zone :=
  ((s.setFlag (pINPUT k) INPUT.STATE_LEVEL level).event (pINPUT k) (levelEvent level)).count (pINPUT k) INPUT.IN_COUNTS_EDGES

theorem levelTaken_shows (level : Bool) :
    (s.levelTaken k level).flag (pINPUT k) INPUT.STATE_LEVEL = level ∧
      (s.levelTaken k level).flag (pINPUT k) (levelEvent level) = true ∧
      (s.levelTaken k level).fld (pINPUT k) INPUT.IN_COUNTS_EDGES = min (s.fld (pINPUT k) INPUT.IN_COUNTS_EDGES + 1) 0xFFFF ∧
      (s.levelTaken k level).fld (pINPUT k) INPUT.IN_CFG_MODE = s.fld (pINPUT k) INPUT.IN_CFG_MODE := by
  unfold levelTaken
  cases level <;>
    simp (disch := decide) [levelEvent, flag_count_beside, flag_event_beside, flag_setFlag_same, flag_event_same, fld_count_same,
      fld_count_beside, fld_event_beside, fld_setFlag_beside]

theorem levelTaken_frame (level : Bool) :
    s.Frame [pINPUT k + INPUT.STATE_LEVEL.off, pINPUT k + INPUT.IN_EVENT_RISE.off, pINPUT k + INPUT.IN_COUNTS_EDGES.off] []
      (s.levelTaken k level) :=
  ((Frame.refl.setFlag (by simp)).event (by simp)).count (by simp)

theorem takeLevel_same (h : s.flag (pINPUT k) INPUT.STATE_LEVEL = (s.input k).candidate) : s.takeLevel k = s := if_pos h

theorem takeLevel_takes (h : s.flag (pINPUT k) INPUT.STATE_LEVEL ≠ (s.input k).candidate) : s.TakesLevel k (s.takeLevel k) := by
  have htake : s.takeLevel k = (s.levelTaken k (s.input k).candidate).showActive k := if_neg h
  obtain ⟨hlevel, hevent, hedges, hmode⟩ := s.levelTaken_shows k (s.input k).candidate
  have hframe := s.levelTaken_frame k (s.input k).candidate
  rw [htake]
  generalize s.levelTaken k (s.input k).candidate = y at hlevel hevent hedges hmode hframe
  have hinput : y.input k = s.input k := input_congr (hframe.part .inputs (by decide)) k
  have hshown := y.showActive_frame k
  exact
    { level := (y.level_showActive k).trans hlevel
      event := by
        rw [← hevent]
        exact hshown.flag (by simp)
      edges := (hshown.fld (by simp)).trans hedges
      active := fun hs => by
        rw [y.flag_showActive k (by rw [hinput]; exact hs), hlevel, activeAt, hmode]
      frame := hframe.trans (hshown.mono (by simp) (by simp)) }

/-! ### Samples (R83, R85) -/

/-- An input after a sample. -/
def sampledInput (mv : Nat) : InputSt :=
  let x := s.input k
  let c := if s.fld (pINPUT k) INPUT.IN_THRESH_RISE * 10 < mv then true
    else if mv < s.fld (pINPUT k) INPUT.IN_THRESH_FALL * 10 then false else x.candidate
  { x with samples := (mv :: x.samples).take 10, candidate := c, since := if c = x.candidate then x.since else s.mono }

theorem sampledInput_samples (mv : Nat) : (s.sampledInput k mv).samples ≠ [] := by simp [sampledInput]

theorem sampledInput_above {mv : Nat} (h : s.fld (pINPUT k) INPUT.IN_THRESH_RISE * 10 < mv) : (s.sampledInput k mv).candidate = true :=
  if_pos h

theorem sampledInput_below {mv : Nat} (h : mv < s.fld (pINPUT k) INPUT.IN_THRESH_FALL * 10)
    (hr : mv ≤ s.fld (pINPUT k) INPUT.IN_THRESH_RISE * 10) : (s.sampledInput k mv).candidate = false :=
  (if_neg (by omega)).trans (if_pos h)

theorem sampledInput_between {mv : Nat} (h : s.fld (pINPUT k) INPUT.IN_THRESH_FALL * 10 ≤ mv)
    (hr : mv ≤ s.fld (pINPUT k) INPUT.IN_THRESH_RISE * 10) :
    (s.sampledInput k mv).candidate = (s.input k).candidate ∧ (s.sampledInput k mv).since = (s.input k).since := by
  have hc : (s.sampledInput k mv).candidate = (s.input k).candidate := (if_neg (by omega)).trans (if_neg (by omega))
  exact ⟨hc, if_pos hc⟩

/-- The mean that VOLT_MV shows of an input's samples. -/
def meanVolts (x : InputSt) : Nat := min (x.samples.sum / x.samples.length) 65535

/-- A sample is held and shown, and LEVEL does not follow it yet. -/
def sampleShown (mv : Nat) : Zone :=
  ((s.setInput k (s.sampledInput k mv)).setFld (pINPUT k) INPUT.VOLT_MV (meanVolts (s.sampledInput k mv))).showActive k

/-- A sample of input k. -/
def sampleTaken (mv : Nat) : Zone :=
  if (s.sampleShown k mv).fld (pINPUT k) INPUT.IN_CFG_FILTER = 0 then (s.sampleShown k mv).takeLevel k else s.sampleShown k mv

/-- What a sample leaves. -/
structure FollowsSample (mv : Nat) (z : Zone) : Prop where
  input : z.input k = s.sampledInput k mv
  volts : z.fld (pINPUT k) INPUT.VOLT_MV = meanVolts (z.input k)
  level : z.flag (pINPUT k) INPUT.STATE_LEVEL =
    if s.fld (pINPUT k) INPUT.IN_CFG_FILTER = 0 then (z.input k).candidate else s.flag (pINPUT k) INPUT.STATE_LEVEL
  active : z.flag (pINPUT k) INPUT.STATE_ACTIVE = s.activeAt k (z.flag (pINPUT k) INPUT.STATE_LEVEL)
  frame : s.Frame [pINPUT k + INPUT.VOLT_MV.off, pINPUT k + INPUT.STATE_LEVEL.off, pINPUT k + INPUT.IN_EVENT_RISE.off,
    pINPUT k + INPUT.IN_COUNTS_EDGES.off] [.inputs] z

theorem sampleShown_input (mv : Nat) : (s.sampleShown k mv).input k = s.sampledInput k mv := by
  unfold sampleShown
  rw [input_congr ((showActive_frame _ k).part .inputs (by decide)), input_setFld, input_setInput_same]

theorem sampleShown_frame (mv : Nat) :
    s.Frame [pINPUT k + INPUT.VOLT_MV.off, pINPUT k + INPUT.STATE_LEVEL.off] [.inputs] (s.sampleShown k mv) :=
  ((Frame.refl.setInput (by decide)).setFld (by simp)).trans ((showActive_frame _ k).mono (by simp) (by decide))

theorem sampleShown_shows (mv : Nat) :
    (s.sampleShown k mv).fld (pINPUT k) INPUT.VOLT_MV = meanVolts (s.sampledInput k mv) ∧
      (s.sampleShown k mv).flag (pINPUT k) INPUT.STATE_LEVEL = s.flag (pINPUT k) INPUT.STATE_LEVEL ∧
      (s.sampleShown k mv).flag (pINPUT k) INPUT.STATE_ACTIVE = s.activeAt k (s.flag (pINPUT k) INPUT.STATE_LEVEL) := by
  have hinput := s.input_setInput_same k (s.sampledInput k mv)
  have hset : s.Frame [] [.inputs] (s.setInput k (s.sampledInput k mv)) := Frame.refl.setInput (by decide)
  unfold sampleShown
  generalize s.setInput k (s.sampledInput k mv) = y at hinput hset
  refine ⟨?_, ?_, ?_⟩
  · rw [(showActive_frame _ k).fld (by simp), fld_setFld_same _ _ _ _ (by decide)]
    exact Nat.mod_eq_of_lt (Nat.lt_succ_of_le (Nat.min_le_right _ _))
  · rw [level_showActive, flag_setFld_beside _ _ (by decide), hset.flag (by simp)]
  · rw [flag_showActive _ k (by rw [input_setFld, hinput]; exact s.sampledInput_samples k mv), activeAt,
      flag_setFld_beside _ _ (by decide), fld_setFld_beside _ _ (by decide), hset.flag (by simp), hset.fld (by simp)]

theorem sampleTaken_follows (mv : Nat) : s.FollowsSample k mv (s.sampleTaken k mv) := by
  have hinput := s.sampleShown_input k mv
  have hframe := s.sampleShown_frame k mv
  obtain ⟨hvolts, hlevel, hactive⟩ := s.sampleShown_shows k mv
  have hfilter : (s.sampleShown k mv).fld (pINPUT k) INPUT.IN_CFG_FILTER = s.fld (pINPUT k) INPUT.IN_CFG_FILTER := hframe.fld (by simp)
  have hmode : (s.sampleShown k mv).fld (pINPUT k) INPUT.IN_CFG_MODE = s.fld (pINPUT k) INPUT.IN_CFG_MODE := hframe.fld (by simp)
  unfold sampleTaken
  rw [hfilter]
  generalize s.sampleShown k mv = y at hinput hframe hvolts hlevel hactive hmode
  have hstays (h : s.fld (pINPUT k) INPUT.IN_CFG_FILTER = 0 → y.flag (pINPUT k) INPUT.STATE_LEVEL = (y.input k).candidate) :
      s.FollowsSample k mv y :=
    { input := hinput
      volts := by rw [hvolts, hinput]
      level := by
        split
        · next h0 => exact h h0
        · exact hlevel
      active := by rw [hactive, hlevel]
      frame := hframe.mono (by simp) (by decide) }
  by_cases h0 : s.fld (pINPUT k) INPUT.IN_CFG_FILTER = 0
  · rw [if_pos h0]
    by_cases hc : y.flag (pINPUT k) INPUT.STATE_LEVEL = (y.input k).candidate
    · rw [y.takeLevel_same k hc]
      exact hstays fun _ => hc
    · have h := y.takeLevel_takes k hc
      have hkept : (y.takeLevel k).input k = y.input k := input_congr (h.frame.part .inputs (by decide)) k
      exact
        { input := hkept.trans hinput
          volts := by rw [h.frame.fld (by simp), hvolts, hkept, hinput]
          level := by rw [if_pos h0, h.level, hkept]
          active := by
            rw [h.active (by rw [hinput]; exact s.sampledInput_samples k mv), h.level, activeAt, hmode]
          frame := (hframe.mono (by simp) (by decide)).trans (h.frame.mono (by simp) (by simp)) }
  · rw [if_neg h0]
    exact hstays fun h => absurd h h0

/-! ### Capture (R86) -/

/-- A period and its high time are shown. -/
def captureShown (period high : Nat) : Zone :=
  let valid := ((s.setFld (pINPUT k) INPUT.CAP_PERIOD_TICKS period).setFld (pINPUT k) INPUT.CAP_HIGH_TICKS high).setFld (pINPUT k)
    INPUT.STATE_CAP_VALID 1
  valid.setFld (pINPUT k) INPUT.STATE_CAP_SEQ (valid.fld (pINPUT k) INPUT.STATE_CAP_SEQ + 1)

theorem captureShown_shows {period high : Nat} (hp : period < 2 ^ 32) (hh : high < 2 ^ 32) :
    (s.captureShown k period high).fld (pINPUT k) INPUT.CAP_PERIOD_TICKS = period ∧
      (s.captureShown k period high).fld (pINPUT k) INPUT.CAP_HIGH_TICKS = high ∧
      (s.captureShown k period high).flag (pINPUT k) INPUT.STATE_CAP_VALID = true ∧
      (s.captureShown k period high).fld (pINPUT k) INPUT.STATE_CAP_SEQ = (s.fld (pINPUT k) INPUT.STATE_CAP_SEQ + 1) % 256 := by
  unfold captureShown
  simp (disch := decide) only [fld_setFld_beside, flag_setFld_beside, fld_setFld_same, flag_setFld_one, Nat.reducePow, and_true]
  exact ⟨Nat.mod_eq_of_lt hp, Nat.mod_eq_of_lt hh⟩

theorem captureShown_frame (period high : Nat) :
    s.Frame [pINPUT k + INPUT.CAP_PERIOD_TICKS.off, pINPUT k + INPUT.CAP_HIGH_TICKS.off, pINPUT k + INPUT.STATE_CAP_VALID.off] []
      (s.captureShown k period high) :=
  (((Frame.refl.setFld (by simp)).setFld (by simp)).setFld (by simp)).setFld (by simp)

theorem clearCapture_clears :
    (s.clearCapture k).flag (pINPUT k) INPUT.STATE_CAP_VALID = false ∧ (s.clearCapture k).fld (pINPUT k) INPUT.CAP_PERIOD_TICKS = 0 ∧
      (s.clearCapture k).fld (pINPUT k) INPUT.CAP_HIGH_TICKS = 0 ∧
      (s.clearCapture k).input k = { s.input k with lastRise := none, lastFall := none } := by
  unfold clearCapture
  simp (disch := decide) only [fld_setFld_beside, flag_setFld_beside, fld_setFld_same, flag_setFld_zero, Nat.zero_mod, true_and,
    input_setFld, input_setInput_same]

theorem clearCapture_frame :
    s.Frame [pINPUT k + INPUT.CAP_PERIOD_TICKS.off, pINPUT k + INPUT.CAP_HIGH_TICKS.off, pINPUT k + INPUT.STATE_CAP_VALID.off] [.inputs]
      (s.clearCapture k) :=
  (((Frame.refl.setInput (by decide)).setFld (by simp)).setFld (by simp)).setFld (by simp)

theorem flag_clearCapture {g : Fld} (hg : g = INPUT.STATE_LEVEL ∨ g = INPUT.STATE_ACTIVE) :
    (s.clearCapture k).flag (pINPUT k) g = s.flag (pINPUT k) g := by
  unfold clearCapture
  rcases hg with rfl | rfl <;> simp (disch := decide) only [flag_setFld_beside] <;> rfl

/-! ### Configuration (R84, R85, R87) -/

theorem inReject_rejects :
    (s.inReject k).flag (pINPUT k) INPUT.IN_EVENT_CFG_REJECT = true ∧
      (s.inReject k).fld (pINPUT k) INPUT.IN_COUNTS_CFG_REJECT = min (s.fld (pINPUT k) INPUT.IN_COUNTS_CFG_REJECT + 1) 0xFFFF ∧
      s.Frame [pINPUT k + INPUT.IN_EVENT_CFG_REJECT.off, pINPUT k + INPUT.IN_COUNTS_CFG_REJECT.off] [] (s.inReject k) := by
  refine ⟨?_, ?_, (Frame.refl.event (by simp)).count (by simp)⟩
  · exact (flag_count_beside _ _ (by decide)).trans (flag_event_same _ _ _ (by decide) (by decide))
  · exact (fld_count_same _ _ _ (by decide)).trans (by rw [fld_event_beside _ _ (by decide)]; rfl)

/-- What a legal write of IN_CFG leaves. -/
structure TakesInCfg (v : Word) (z : Zone) : Prop where
  cfg : z.rd (pINPUT k + INPUT.IN_CFG_MODE.off) = v &&& 0x1307FF00
  active : (s.input k).samples ≠ [] → z.flag (pINPUT k) INPUT.STATE_ACTIVE =
    (s.flag (pINPUT k) INPUT.STATE_LEVEL != decide (INPUT.IN_CFG_MODE.get v = 1))
  level : z.flag (pINPUT k) INPUT.STATE_LEVEL = s.flag (pINPUT k) INPUT.STATE_LEVEL
  frame : s.Frame [pINPUT k + INPUT.IN_CFG_MODE.off, pINPUT k + INPUT.STATE_LEVEL.off, pINPUT k + INPUT.CAP_PERIOD_TICKS.off,
    pINPUT k + INPUT.CAP_HIGH_TICKS.off] [.inputs] z

/-- The word of IN_CFG is written and ACTIVE shows it. -/
theorem inCfg_written (v : Word) : s.TakesInCfg k v ((s.wr (pINPUT k) (v &&& 0x1307FF00)).showActive k) := by
  have hcfg : (s.wr (pINPUT k) (v &&& 0x1307FF00)).rd (pINPUT k + INPUT.IN_CFG_MODE.off) = v &&& 0x1307FF00 := rd_wr_same _ _ _
  have hlevel : (s.wr (pINPUT k) (v &&& 0x1307FF00)).flag (pINPUT k) INPUT.STATE_LEVEL = s.flag (pINPUT k) INPUT.STATE_LEVEL := by
    unfold flag fld
    rw [rd_wr_ne _ _ _ _ (by simp)]
  have hinput : (s.wr (pINPUT k) (v &&& 0x1307FF00)).input k = s.input k := rfl
  have hframe : s.Frame [pINPUT k + INPUT.IN_CFG_MODE.off, pINPUT k + INPUT.STATE_LEVEL.off, pINPUT k + INPUT.CAP_PERIOD_TICKS.off,
      pINPUT k + INPUT.CAP_HIGH_TICKS.off] [.inputs] (s.wr (pINPUT k) (v &&& 0x1307FF00)) := Frame.refl.wr (by simp)
  generalize s.wr (pINPUT k) (v &&& 0x1307FF00) = y at hcfg hlevel hinput hframe ⊢
  have hshown := y.showActive_frame k
  exact
    { cfg := (hshown.rd (by simp)).trans hcfg
      active := fun hs => by
        rw [y.flag_showActive k (by rw [hinput]; exact hs), hlevel, activeAt, fld, hcfg, Fld.get_and _ _ _ (by decide)]
      level := (y.level_showActive k).trans hlevel
      frame := hframe.trans (hshown.mono (by simp) (by simp)) }

theorem inCfgWrite_takes {v : Word} (hk : s.locked (pINPUT k) = false) (hm : INPUT.IN_CFG_MODE.get v ≠ 3)
    (hw : INPUT.IN_CFG_WETTING.get v < 6) : s.TakesInCfg k v (s.inCfgWrite k v) := by
  have h := s.inCfg_written k v
  unfold inCfgWrite
  rw [if_neg (by simp [hk]), if_neg (by omega)]
  split
  · have hclear := clearCapture_frame ((s.wr (pINPUT k) (v &&& 0x1307FF00)).showActive k) k
    exact
      { cfg := (hclear.rd (by simp)).trans h.cfg
        active := fun hs => (flag_clearCapture _ k (.inr rfl)).trans (h.active hs)
        level := (flag_clearCapture _ k (.inl rfl)).trans h.level
        frame := h.frame.trans (hclear.mono (by simp) (by simp)) }
  · exact h

theorem inCfgWrite_rejects {v : Word} (hk : s.locked (pINPUT k) = false)
    (h : INPUT.IN_CFG_MODE.get v = 3 ∨ 6 ≤ INPUT.IN_CFG_WETTING.get v) : s.inCfgWrite k v = s.inReject k := by
  unfold inCfgWrite
  rw [if_neg (by simp [hk]), if_pos h]

theorem inThreshWrite_takes {v : Word} (hk : s.locked (pINPUT k) = false) (h : INPUT.IN_THRESH_FALL.get v ≤ INPUT.IN_THRESH_RISE.get v)
    (hlo : 100 ≤ INPUT.IN_THRESH_FALL.get v) (hhi : INPUT.IN_THRESH_RISE.get v ≤ 4000) :
    s.inThreshWrite k v = s.wr (pINPUT k + 4) (v &&& 0x1FFF1FFF) := by
  unfold inThreshWrite
  dsimp only
  rw [if_neg (by simp [hk]), if_neg (by omega)]

theorem inThreshWrite_rejects {v : Word} (hk : s.locked (pINPUT k) = false)
    (h : INPUT.IN_THRESH_RISE.get v < INPUT.IN_THRESH_FALL.get v ∨ INPUT.IN_THRESH_FALL.get v < 100 ∨ 4000 < INPUT.IN_THRESH_RISE.get v) :
    s.inThreshWrite k v = s.inReject k := by
  unfold inThreshWrite
  dsimp only
  rw [if_neg (by simp [hk]), if_pos (by omega)]

end Zone

/-! ### The commands -/

section Commands

variable {s : State} {k : Fin 32}

theorem completes_inputSample {mv : Nat} (hc : s.zone.convertersRun = true) (hp : s.zone.paceDue (Pace.input k.val) 2500 = true) :
    Completes (.inputSample k mv) s (· = (s.zone.comeNow (Pace.input k.val)).sampleTaken k.val mv) := by
  refine ⟨_, ?_, rfl⟩
  change execInputSample k mv s = _
  unfold execInputSample
  rw [State.run_eq, if_neg (by simp [hc]), Zone.paced_due _ _ _ _ hp]
  rfl

theorem completes_inputSample_follows {mv : Nat} (hc : s.zone.convertersRun = true)
    (hp : s.zone.paceDue (Pace.input k.val) 2500 = true) : Completes (.inputSample k mv) s fun z =>
      (z.input k.val).samples = (mv :: (s.zone.input k.val).samples).take 10 ∧
      z.fld (pINPUT k.val) INPUT.VOLT_MV = min ((z.input k.val).samples.sum / (z.input k.val).samples.length) 65535 ∧
      (s.zone.fld (pINPUT k.val) INPUT.IN_THRESH_RISE * 10 < mv → (z.input k.val).candidate = true) ∧
      (mv < s.zone.fld (pINPUT k.val) INPUT.IN_THRESH_FALL * 10 → mv ≤ s.zone.fld (pINPUT k.val) INPUT.IN_THRESH_RISE * 10 →
        (z.input k.val).candidate = false) ∧
      (s.zone.fld (pINPUT k.val) INPUT.IN_THRESH_FALL * 10 ≤ mv → mv ≤ s.zone.fld (pINPUT k.val) INPUT.IN_THRESH_RISE * 10 →
        (z.input k.val).candidate = (s.zone.input k.val).candidate ∧ (z.input k.val).since = (s.zone.input k.val).since) ∧
      (z.flag (pINPUT k.val) INPUT.STATE_LEVEL = if s.zone.fld (pINPUT k.val) INPUT.IN_CFG_FILTER = 0 then (z.input k.val).candidate
        else s.zone.flag (pINPUT k.val) INPUT.STATE_LEVEL) ∧
      z.flag (pINPUT k.val) INPUT.STATE_ACTIVE =
        (z.flag (pINPUT k.val) INPUT.STATE_LEVEL != decide (s.zone.fld (pINPUT k.val) INPUT.IN_CFG_MODE = 1)) ∧
      s.zone.Frame [pINPUT k.val + INPUT.VOLT_MV.off, pINPUT k.val + INPUT.STATE_LEVEL.off, pINPUT k.val + INPUT.IN_EVENT_RISE.off,
        pINPUT k.val + INPUT.IN_COUNTS_EDGES.off] [.inputs, .pace] z := by
  refine (completes_inputSample hc hp).imp fun z hz => ?_
  have h := hz ▸ (s.zone.comeNow (Pace.input k.val)).sampleTaken_follows k.val mv
  have hcome := s.zone.comeNow_frame (Pace.input k.val)
  refine ⟨?_, h.volts, fun hr => ?_, fun hf hr => ?_, fun hf hr => ?_, h.level, h.active,
    (hcome.mono (by simp) (by decide)).trans (h.frame.mono (by simp) (by decide))⟩
  · rw [h.input]
    rfl
  · rw [h.input]
    exact Zone.sampledInput_above _ _ hr
  · rw [h.input]
    exact Zone.sampledInput_below _ _ hf hr
  · rw [h.input]
    exact Zone.sampledInput_between _ _ hf hr

theorem completes_inputLevelChange (hc : s.zone.convertersRun = true)
    (hp : (s.zone.input k.val).since + s.zone.fld (pINPUT k.val) INPUT.IN_CFG_FILTER * 100 * 250 ≤ s.zone.mono) :
    Completes (.inputLevelChange k) s (· = s.zone.takeLevel k.val) := by
  have hpast : s.zone.past (s.zone.input k.val).since (s.zone.fld (pINPUT k.val) INPUT.IN_CFG_FILTER * 100 * Zone.ticksPerUs) = true :=
    decide_eq_true hp
  refine ⟨_, ?_, rfl⟩
  change execInputLevelChange k s = _
  unfold execInputLevelChange
  rw [State.run_eq, if_pos (by rw [hc, hpast]; rfl)]

theorem completes_captureRise {r f : Nat} (hc : s.zone.convertersRun = true)
    (he : s.zone.flag (pINPUT k.val) INPUT.IN_CFG_CAPTURE_EN = true) (hr : (s.zone.input k.val).lastRise = some r)
    (hf : (s.zone.input k.val).lastFall = some f) : Completes (.captureRise k) s
      (· = (s.zone.setInput k.val { s.zone.input k.val with lastRise := some s.zone.mono, lastFall := none }).captureShown k.val
        (s.zone.mono - r) (f - r)) := by
  refine ⟨_, ?_, rfl⟩
  change execCaptureRise k s = _
  unfold execCaptureRise
  rw [State.run_eq, if_neg (by simp [hc, he])]
  simp only [hr, hf]
  rfl

theorem completes_captureRise_first (hc : s.zone.convertersRun = true)
    (he : s.zone.flag (pINPUT k.val) INPUT.IN_CFG_CAPTURE_EN = true)
    (h : (s.zone.input k.val).lastRise = none ∨ (s.zone.input k.val).lastFall = none) : Completes (.captureRise k) s
      (· = s.zone.setInput k.val { s.zone.input k.val with lastRise := some s.zone.mono, lastFall := none }) := by
  refine ⟨_, ?_, rfl⟩
  change execCaptureRise k s = _
  unfold execCaptureRise
  rw [State.run_eq, if_neg (by simp [hc, he])]
  dsimp only
  split
  · next r f hr hf => exact absurd h (by simp [hr, hf])
  · rfl

theorem completes_captureFall {r : Nat} (hc : s.zone.convertersRun = true)
    (he : s.zone.flag (pINPUT k.val) INPUT.IN_CFG_CAPTURE_EN = true) (hr : (s.zone.input k.val).lastRise = some r) :
    Completes (.captureFall k) s (· = s.zone.setInput k.val { s.zone.input k.val with lastFall := some s.zone.mono }) := by
  refine ⟨_, ?_, rfl⟩
  change execCaptureFall k s = _
  unfold execCaptureFall
  rw [State.run_eq, if_pos (by simp [hc, he, hr])]

theorem completes_captureTimeout {t : Nat} (hc : s.zone.convertersRun = true) (ht : (s.zone.input k.val).lastRise = some t)
    (hp : t + 10000 * 250000 ≤ s.zone.mono) : Completes (.captureTimeout k) s (· = s.zone.clearCapture k.val) := by
  have hpast : s.zone.past t (10000 * Zone.ticksPerMs) = true := decide_eq_true hp
  refine ⟨_, ?_, rfl⟩
  change execCaptureTimeout k s = _
  unfold execCaptureTimeout
  simp only [State.run_eq, ht, hc, hpast, Bool.and_self, if_true]

theorem completes_inCfgWrite {x : Writer} {v : Word} (hx : s.zone.writerActs x = true) (hm : s.zone.mayConfigure x = true) :
    Completes (.inCfgWrite x k v) s (· = s.zone.inCfgWrite k.val v) := by
  refine ⟨_, ?_, rfl⟩
  change execInCfgWrite x k v s = _
  unfold execInCfgWrite
  rw [State.runBy_runs _ _ _ hx, if_pos hm]

theorem completes_inThreshWrite {x : Writer} {v : Word} (hx : s.zone.writerActs x = true) (hm : s.zone.mayConfigure x = true) :
    Completes (.inThreshWrite x k v) s (· = s.zone.inThreshWrite k.val v) := by
  refine ⟨_, ?_, rfl⟩
  change execInThreshWrite x k v s = _
  unfold execInThreshWrite
  rw [State.runBy_runs _ _ _ hx, if_pos hm]

/-! ### The clauses -/

theorem completes_levelChanged (hc : s.zone.convertersRun = true)
    (hp : (s.zone.input k.val).since + s.zone.fld (pINPUT k.val) INPUT.IN_CFG_FILTER * 100 * 250 ≤ s.zone.mono)
    (hne : (s.zone.input k.val).candidate ≠ s.zone.flag (pINPUT k.val) INPUT.STATE_LEVEL) : Completes (.inputLevelChange k) s fun z =>
      z.flag (pINPUT k.val) INPUT.STATE_LEVEL = (s.zone.input k.val).candidate ∧
      z.flag (pINPUT k.val) (Zone.levelEvent (s.zone.input k.val).candidate) = true ∧
      z.fld (pINPUT k.val) INPUT.IN_COUNTS_EDGES = min (s.zone.fld (pINPUT k.val) INPUT.IN_COUNTS_EDGES + 1) 0xFFFF ∧
      ((s.zone.input k.val).samples ≠ [] → z.flag (pINPUT k.val) INPUT.STATE_ACTIVE =
        ((s.zone.input k.val).candidate != decide (s.zone.fld (pINPUT k.val) INPUT.IN_CFG_MODE = 1))) ∧
      s.zone.Frame [pINPUT k.val + INPUT.STATE_LEVEL.off, pINPUT k.val + INPUT.IN_EVENT_RISE.off,
        pINPUT k.val + INPUT.IN_COUNTS_EDGES.off] [] z := by
  refine (completes_inputLevelChange hc hp).imp fun z hz => ?_
  have h := hz ▸ s.zone.takeLevel_takes k.val (Ne.symm hne)
  exact ⟨h.level, h.event, h.edges, h.active, h.frame⟩

theorem completes_captureRise_shown {r f : Nat} (hc : s.zone.convertersRun = true)
    (he : s.zone.flag (pINPUT k.val) INPUT.IN_CFG_CAPTURE_EN = true) (hr : (s.zone.input k.val).lastRise = some r)
    (hf : (s.zone.input k.val).lastFall = some f) (hle : r ≤ f) (hfm : f ≤ s.zone.mono) (hlt : s.zone.mono - r < 2 ^ 32) :
    Completes (.captureRise k) s fun z =>
      z.fld (pINPUT k.val) INPUT.CAP_PERIOD_TICKS = s.zone.mono - r ∧ z.fld (pINPUT k.val) INPUT.CAP_HIGH_TICKS = f - r ∧
      z.flag (pINPUT k.val) INPUT.STATE_CAP_VALID = true ∧
      z.fld (pINPUT k.val) INPUT.STATE_CAP_SEQ = (s.zone.fld (pINPUT k.val) INPUT.STATE_CAP_SEQ + 1) % 256 ∧
      z.input k.val = { s.zone.input k.val with lastRise := some s.zone.mono, lastFall := none } ∧
      s.zone.Frame [pINPUT k.val + INPUT.CAP_PERIOD_TICKS.off, pINPUT k.val + INPUT.CAP_HIGH_TICKS.off,
        pINPUT k.val + INPUT.STATE_CAP_VALID.off] [.inputs] z := by
  refine (completes_captureRise hc he hr hf).imp fun z hz => ?_
  have hinput := s.zone.input_setInput_same k.val { s.zone.input k.val with lastRise := some s.zone.mono, lastFall := none }
  have hset : s.zone.Frame [] [.inputs]
      (s.zone.setInput k.val { s.zone.input k.val with lastRise := some s.zone.mono, lastFall := none }) :=
    Zone.Frame.refl.setInput (by decide)
  generalize s.zone.setInput k.val { s.zone.input k.val with lastRise := some s.zone.mono, lastFall := none } = y at hz hinput hset
  subst hz
  have hframe := y.captureShown_frame k.val (s.zone.mono - r) (f - r)
  obtain ⟨hperiod, hhigh, hvalid, hseq⟩ := y.captureShown_shows k.val hlt (high := f - r) (by omega)
  exact ⟨hperiod, hhigh, hvalid, hseq.trans (by rw [hset.fld (by simp)]),
    (Zone.input_congr (hframe.part .inputs (by decide)) k.val).trans hinput,
    (hset.mono (by simp) (by decide)).trans (hframe.mono (by simp) (by simp))⟩

theorem completes_captureRise_begins (hc : s.zone.convertersRun = true)
    (he : s.zone.flag (pINPUT k.val) INPUT.IN_CFG_CAPTURE_EN = true)
    (h : (s.zone.input k.val).lastRise = none ∨ (s.zone.input k.val).lastFall = none) : Completes (.captureRise k) s fun z =>
      z.input k.val = { s.zone.input k.val with lastRise := some s.zone.mono, lastFall := none } ∧ s.zone.Frame [] [.inputs] z := by
  refine (completes_captureRise_first hc he h).imp fun z hz => ?_
  subst hz
  exact ⟨s.zone.input_setInput_same _ _, Zone.Frame.refl.setInput (by decide)⟩

theorem completes_captureFall_held {r : Nat} (hc : s.zone.convertersRun = true)
    (he : s.zone.flag (pINPUT k.val) INPUT.IN_CFG_CAPTURE_EN = true) (hr : (s.zone.input k.val).lastRise = some r) :
    Completes (.captureFall k) s fun z =>
      z.input k.val = { s.zone.input k.val with lastFall := some s.zone.mono } ∧ s.zone.Frame [] [.inputs] z := by
  refine (completes_captureFall hc he hr).imp fun z hz => ?_
  subst hz
  exact ⟨s.zone.input_setInput_same _ _, Zone.Frame.refl.setInput (by decide)⟩

theorem completes_captureTimeout_clears {t : Nat} (hc : s.zone.convertersRun = true) (ht : (s.zone.input k.val).lastRise = some t)
    (hp : t + 10000 * 250000 ≤ s.zone.mono) : Completes (.captureTimeout k) s fun z =>
      z.flag (pINPUT k.val) INPUT.STATE_CAP_VALID = false ∧ z.fld (pINPUT k.val) INPUT.CAP_PERIOD_TICKS = 0 ∧
      z.fld (pINPUT k.val) INPUT.CAP_HIGH_TICKS = 0 ∧
      z.input k.val = { s.zone.input k.val with lastRise := none, lastFall := none } ∧
      s.zone.Frame [pINPUT k.val + INPUT.CAP_PERIOD_TICKS.off, pINPUT k.val + INPUT.CAP_HIGH_TICKS.off,
        pINPUT k.val + INPUT.STATE_CAP_VALID.off] [.inputs] z := by
  refine (completes_captureTimeout hc ht hp).imp fun z hz => ?_
  subst hz
  obtain ⟨hvalid, hperiod, hhigh, hinput⟩ := s.zone.clearCapture_clears k.val
  exact ⟨hvalid, hperiod, hhigh, hinput, s.zone.clearCapture_frame k.val⟩

section Configuration

variable {x : Writer} {v : Word} (hx : s.zone.writerActs x = true) (hm : s.zone.mayConfigure x = true)
  (hk : s.zone.locked (pINPUT k.val) = false)

include hx hm hk

theorem completes_inCfg_taken (hmode : INPUT.IN_CFG_MODE.get v ≠ 3) (hw : INPUT.IN_CFG_WETTING.get v < 6) :
    Completes (.inCfgWrite x k v) s fun z =>
      z.rd (pINPUT k.val + INPUT.IN_CFG_MODE.off) = v &&& 0x1307FF00 ∧
      ((s.zone.input k.val).samples ≠ [] → z.flag (pINPUT k.val) INPUT.STATE_ACTIVE =
        (s.zone.flag (pINPUT k.val) INPUT.STATE_LEVEL != decide (INPUT.IN_CFG_MODE.get v = 1))) ∧
      z.flag (pINPUT k.val) INPUT.STATE_LEVEL = s.zone.flag (pINPUT k.val) INPUT.STATE_LEVEL ∧
      s.zone.Frame [pINPUT k.val + INPUT.IN_CFG_MODE.off, pINPUT k.val + INPUT.STATE_LEVEL.off,
        pINPUT k.val + INPUT.CAP_PERIOD_TICKS.off, pINPUT k.val + INPUT.CAP_HIGH_TICKS.off] [.inputs] z := by
  refine (completes_inCfgWrite hx hm).imp fun z hz => ?_
  have h := hz ▸ s.zone.inCfgWrite_takes k.val hk hmode hw
  exact ⟨h.cfg, h.active, h.level, h.frame⟩

theorem completes_inCfg_rejected (h : INPUT.IN_CFG_MODE.get v = 3 ∨ 6 ≤ INPUT.IN_CFG_WETTING.get v) :
    Completes (.inCfgWrite x k v) s fun z =>
      z.flag (pINPUT k.val) INPUT.IN_EVENT_CFG_REJECT = true ∧
      z.fld (pINPUT k.val) INPUT.IN_COUNTS_CFG_REJECT = min (s.zone.fld (pINPUT k.val) INPUT.IN_COUNTS_CFG_REJECT + 1) 0xFFFF ∧
      s.zone.Frame [pINPUT k.val + INPUT.IN_EVENT_CFG_REJECT.off, pINPUT k.val + INPUT.IN_COUNTS_CFG_REJECT.off] [] z := by
  refine (completes_inCfgWrite hx hm).imp fun z hz => ?_
  rw [s.zone.inCfgWrite_rejects k.val hk h] at hz
  exact hz ▸ s.zone.inReject_rejects k.val

theorem completes_inThresh_taken (h : INPUT.IN_THRESH_FALL.get v ≤ INPUT.IN_THRESH_RISE.get v)
    (hlo : 100 ≤ INPUT.IN_THRESH_FALL.get v) (hhi : INPUT.IN_THRESH_RISE.get v ≤ 4000) : Completes (.inThreshWrite x k v) s fun z =>
      z.rd (pINPUT k.val + INPUT.IN_THRESH_FALL.off) = v &&& 0x1FFF1FFF ∧
      s.zone.Frame [pINPUT k.val + INPUT.IN_THRESH_FALL.off] [] z := by
  refine (completes_inThreshWrite hx hm).imp fun z hz => ?_
  rw [s.zone.inThreshWrite_takes k.val hk h hlo hhi] at hz
  subst hz
  exact ⟨Zone.rd_wr_same _ _ _, Zone.Frame.refl.wr (by simp)⟩

theorem completes_inThresh_rejected (h : INPUT.IN_THRESH_RISE.get v < INPUT.IN_THRESH_FALL.get v ∨ INPUT.IN_THRESH_FALL.get v < 100 ∨
    4000 < INPUT.IN_THRESH_RISE.get v) : Completes (.inThreshWrite x k v) s fun z =>
      z.flag (pINPUT k.val) INPUT.IN_EVENT_CFG_REJECT = true ∧
      s.zone.Frame [pINPUT k.val + INPUT.IN_EVENT_CFG_REJECT.off, pINPUT k.val + INPUT.IN_COUNTS_CFG_REJECT.off] [] z := by
  refine (completes_inThreshWrite hx hm).imp fun z hz => ?_
  rw [s.zone.inThreshWrite_rejects k.val hk h] at hz
  obtain ⟨hevent, -, hframe⟩ := hz ▸ s.zone.inReject_rejects k.val
  exact ⟨hevent, hframe⟩

end Configuration

end Commands

end Sys2Proof.Machine
end

