-- ==== Sys2Proof/Proofs/Temperatures.lean ====
section
/-! SUPPORT. What a thermal sample shows and where it throttles and halts the module (R95, R96), and O2. -/

namespace Sys2Proof.Machine

open Reg

namespace Zone

variable (s : Zone)

/-! ### What the sensors show (R95) -/

/-- The five temperatures are shown. -/
def tempsShown (base soc die a b : BitVec 16) : Zone :=
  ((((s.setFld (pZONE 4) ZONE4.T_BASE_TEMP base.toNat).setFld (pZONE 4) ZONE4.T_SOC_TEMP soc.toNat).setFld (pZONE 4)
    ZONE4.T_SWITCH_TEMP die.toNat).setFld (pZONE 4) ZONE4.T_POWER_A_TEMP a.toNat).setFld (pZONE 4) ZONE4.T_POWER_B_TEMP b.toNat

theorem tempsShown_frame (base soc die a b : BitVec 16) :
    s.Frame [pZONE 4 + ZONE4.T_BASE_TEMP.off, pZONE 4 + ZONE4.T_SOC_TEMP.off, pZONE 4 + ZONE4.T_SWITCH_TEMP.off,
      pZONE 4 + ZONE4.T_POWER_A_TEMP.off, pZONE 4 + ZONE4.T_POWER_B_TEMP.off] [] (s.tempsShown base soc die a b) :=
  ((((Frame.refl.setFld (by decide)).setFld (by decide)).setFld (by decide)).setFld (by decide)).setFld (by decide)

theorem tempsShown_shows (base soc die a b : BitVec 16) :
    let z := s.tempsShown base soc die a b
    z.fld (pZONE 4) ZONE4.T_BASE_TEMP = base.toNat ∧ z.fld (pZONE 4) ZONE4.T_SOC_TEMP = soc.toNat ∧
      z.fld (pZONE 4) ZONE4.T_SWITCH_TEMP = die.toNat ∧ z.fld (pZONE 4) ZONE4.T_POWER_A_TEMP = a.toNat ∧
      z.fld (pZONE 4) ZONE4.T_POWER_B_TEMP = b.toNat := by
  unfold tempsShown
  simp (disch := decide) only [fld_setFld_beside, fld_setFld_same]
  exact ⟨Nat.mod_eq_of_lt base.isLt, Nat.mod_eq_of_lt soc.isLt, Nat.mod_eq_of_lt die.isLt, Nat.mod_eq_of_lt a.isLt,
    Nat.mod_eq_of_lt b.isLt⟩

/-! ### The limits of the SoC (R96) -/

variable (t : Int) (wasHalted : Bool)

/-- The module throttled. -/
def throttled : Zone := (s.event (pZONE 4) ZONE4.THERM_EVENT_THROTTLE).setFld (pZONE 4) ZONE4.THERM_STATUS_THROTTLED 1

/-- The application cluster halted, with a report where it was not before. -/
def appHalted : Zone :=
  ((s.event (pZONE 4) ZONE4.THERM_EVENT_HALT).setFld (pZONE 4) ZONE4.THERM_STATUS_HALTED 1).when (!wasHalted) (·.report Src.thermalHalt 0)

/-- The module neither throttled nor halted. -/
def cooled : Zone := (s.setFld (pZONE 4) ZONE4.THERM_STATUS_THROTTLED 0).setFld (pZONE 4) ZONE4.THERM_STATUS_HALTED 0

/-- The temperature of the SoC is held against the limits. -/
def heatJudged : Zone :=
  ((s.when (decide (125 * 16 ≤ t)) throttled).when (decide (135 * 16 ≤ t)) (·.appHalted wasHalted)).when (decide (t < 115 * 16)) cooled

/-- What the limits of the SoC leave of the module. -/
structure JudgesHeat (z : Zone) : Prop where
  throttled : 2000 ≤ t → z.flag (pZONE 4) ZONE4.THERM_STATUS_THROTTLED = true ∧ z.flag (pZONE 4) ZONE4.THERM_EVENT_THROTTLE = true
  halted : 2160 ≤ t → z.flag (pZONE 4) ZONE4.THERM_STATUS_HALTED = true ∧ z.flag (pZONE 4) ZONE4.THERM_EVENT_HALT = true
  reports : 2160 ≤ t → wasHalted = false → s.Reports z Src.thermalHalt 0
  quiet : t < 2160 → z.safety = s.safety
  cooled : t < 1840 → z.flag (pZONE 4) ZONE4.THERM_STATUS_THROTTLED = false ∧ z.flag (pZONE 4) ZONE4.THERM_STATUS_HALTED = false
  throttling : 1840 ≤ t → t < 2000 → z.flag (pZONE 4) ZONE4.THERM_STATUS_THROTTLED = s.flag (pZONE 4) ZONE4.THERM_STATUS_THROTTLED
  halting : 1840 ≤ t → t < 2160 → z.flag (pZONE 4) ZONE4.THERM_STATUS_HALTED = s.flag (pZONE 4) ZONE4.THERM_STATUS_HALTED
  warned : z.flag (pZONE 4) ZONE4.THERM_EVENT_WARN = s.flag (pZONE 4) ZONE4.THERM_EVENT_WARN
  frame : s.Frame [pZONE 4 + ZONE4.THERM_EVENT_WARN.off, pZONE 4 + ZONE4.THERM_STATUS_HALTED.off] [.safety] z

theorem cooled_shows :
    s.cooled.flag (pZONE 4) ZONE4.THERM_STATUS_THROTTLED = false ∧ s.cooled.flag (pZONE 4) ZONE4.THERM_STATUS_HALTED = false ∧
      s.cooled.flag (pZONE 4) ZONE4.THERM_EVENT_WARN = s.flag (pZONE 4) ZONE4.THERM_EVENT_WARN := by
  unfold cooled
  simp (disch := decide) only [flag_setFld_beside, flag_setFld_zero, and_self]

theorem throttled_shows :
    s.throttled.flag (pZONE 4) ZONE4.THERM_STATUS_THROTTLED = true ∧ s.throttled.flag (pZONE 4) ZONE4.THERM_EVENT_THROTTLE = true ∧
      s.throttled.flag (pZONE 4) ZONE4.THERM_STATUS_HALTED = s.flag (pZONE 4) ZONE4.THERM_STATUS_HALTED ∧
      s.throttled.flag (pZONE 4) ZONE4.THERM_EVENT_WARN = s.flag (pZONE 4) ZONE4.THERM_EVENT_WARN := by
  unfold throttled
  simp (disch := decide) only [flag_setFld_beside, flag_event_beside, flag_setFld_one, flag_event_same, and_self]

theorem throttled_frame :
    s.Frame [pZONE 4 + ZONE4.THERM_EVENT_WARN.off, pZONE 4 + ZONE4.THERM_STATUS_HALTED.off] [] s.throttled :=
  (Frame.refl.event (by decide)).setFld (by decide)

theorem flag_when_report (z : Zone) (c : Bool) (source : Nat) (detail : Word) (p : Nat) (f : Fld) :
    (z.when c (·.report source detail)).flag p f = z.flag p f := by cases c <;> rfl

theorem appHalted_shows :
    let z := s.appHalted wasHalted
    z.flag (pZONE 4) ZONE4.THERM_STATUS_HALTED = true ∧ z.flag (pZONE 4) ZONE4.THERM_EVENT_HALT = true ∧
      z.flag (pZONE 4) ZONE4.THERM_STATUS_THROTTLED = s.flag (pZONE 4) ZONE4.THERM_STATUS_THROTTLED ∧
      z.flag (pZONE 4) ZONE4.THERM_EVENT_THROTTLE = s.flag (pZONE 4) ZONE4.THERM_EVENT_THROTTLE ∧
      z.flag (pZONE 4) ZONE4.THERM_EVENT_WARN = s.flag (pZONE 4) ZONE4.THERM_EVENT_WARN := by
  unfold appHalted
  simp (disch := decide) only [flag_when_report, flag_setFld_beside, flag_event_beside, flag_setFld_one, flag_event_same, and_self]

theorem appHalted_frame :
    s.Frame [pZONE 4 + ZONE4.THERM_EVENT_WARN.off, pZONE 4 + ZONE4.THERM_STATUS_HALTED.off] [.safety] (s.appHalted wasHalted) := by
  have hset : s.Frame [pZONE 4 + ZONE4.THERM_EVENT_WARN.off, pZONE 4 + ZONE4.THERM_STATUS_HALTED.off] [.safety]
      ((s.event (pZONE 4) ZONE4.THERM_EVENT_HALT).setFld (pZONE 4) ZONE4.THERM_STATUS_HALTED 1) :=
    (Frame.refl.event (by decide)).setFld (by decide)
  exact hset.when (hset.report (by decide))

/-- From 125 °C on the module is throttled, from 135 °C on also halted, below 115 °C neither. -/
theorem heatJudged_judges : s.JudgesHeat t wasHalted (s.heatJudged t wasHalted) := by
  unfold heatJudged
  by_cases hcool : t < 1840
  · rw [decide_eq_false (show ¬125 * 16 ≤ t by omega), decide_eq_false (show ¬135 * 16 ≤ t by omega),
      decide_eq_true (show t < 115 * 16 by omega), when_false, when_false, when_true]
    obtain ⟨hthrottled, hhalted, hwarned⟩ := s.cooled_shows
    exact
      { throttled := fun _ => by omega
        halted := fun _ => by omega
        reports := fun _ => by omega
        quiet := fun _ => rfl
        cooled := fun _ => ⟨hthrottled, hhalted⟩
        throttling := fun _ => by omega
        halting := fun _ => by omega
        warned := hwarned
        frame := (Frame.refl.setFld (by decide)).setFld (by decide) }
  rw [decide_eq_false (show ¬t < 115 * 16 by omega), when_false]
  by_cases hthrottle : t < 2000
  · rw [decide_eq_false (show ¬125 * 16 ≤ t by omega), decide_eq_false (show ¬135 * 16 ≤ t by omega), when_false, when_false]
    exact
      { throttled := fun _ => by omega
        halted := fun _ => by omega
        reports := fun _ => by omega
        quiet := fun _ => rfl
        cooled := fun _ => by omega
        throttling := fun _ _ => rfl
        halting := fun _ _ => rfl
        warned := rfl
        frame := .refl }
  rw [decide_eq_true (show 125 * 16 ≤ t by omega), when_true]
  obtain ⟨hthrottled, hevent, hsame, hwarned⟩ := s.throttled_shows
  have hframe := s.throttled_frame
  generalize s.throttled = y at hthrottled hevent hsame hwarned hframe ⊢
  by_cases hhalt : t < 2160
  · rw [decide_eq_false (show ¬135 * 16 ≤ t by omega), when_false]
    exact
      { throttled := fun _ => ⟨hthrottled, hevent⟩
        halted := fun _ => by omega
        reports := fun _ => by omega
        quiet := fun _ => hframe.part .safety (by decide)
        cooled := fun _ => by omega
        throttling := fun _ _ => by omega
        halting := fun _ _ => hsame
        warned := hwarned
        frame := hframe.mono (by simp) (by decide) }
  · rw [decide_eq_true (show 135 * 16 ≤ t by omega), when_true]
    obtain ⟨hhalted, hhaltEvent, hkept, hkeptEvent, hkeptWarn⟩ := y.appHalted_shows wasHalted
    exact
      { throttled := fun _ => ⟨hkept.trans hthrottled, hkeptEvent.trans hevent⟩
        halted := fun _ => ⟨hhalted, hhaltEvent⟩
        reports := fun _ hw => by
          subst hw
          exact hframe.reports (by decide) (by decide) (by decide) rfl
        quiet := fun _ => by omega
        cooled := fun _ => by omega
        throttling := fun _ _ => by omega
        halting := fun _ _ => by omega
        warned := hkeptWarn.trans hwarned
        frame := (hframe.mono (by simp) (by decide)).trans (y.appHalted_frame wasHalted) }

end Zone

/-! ### The command -/

/-- A thermal sample. -/
def Zone.heatSampled (s : Zone) (base soc die a b : BitVec 16) : Zone :=
  ((s.tempsShown base soc die a b).when (decide (s.fldS (pZONE 4) ZONE4.THERM_CFG_WARN ≤ soc.toInt))
    (·.event (pZONE 4) ZONE4.THERM_EVENT_WARN)).heatJudged soc.toInt (s.flag (pZONE 4) ZONE4.THERM_STATUS_HALTED)

section Sample

variable {s : State}

theorem completes_thermalSample (base soc die a b : BitVec 16) (hl : s.zone.logicRuns = true)
    (hp : s.zone.paceDue Pace.thermal 25000 = true) :
    Completes (.thermalSample base soc die a b) s (· = (s.zone.comeNow Pace.thermal).heatSampled base soc die a b) := by
  have htemps := (s.zone.comeNow Pace.thermal).tempsShown_frame base soc die a b
  refine ⟨_, ?_, rfl⟩
  change execThermalSample base soc die a b s = _
  unfold execThermalSample Zone.heatSampled
  rw [State.runOn_runs _ _ hl, Zone.paced_due _ _ _ _ hp, Zone.fldS, ← htemps.fld (by decide), ← htemps.flag (by decide)]
  rfl

theorem completes_thermalSample_judged (base soc die a b : BitVec 16) (hl : s.zone.logicRuns = true)
    (hp : s.zone.paceDue Pace.thermal 25000 = true) : Completes (.thermalSample base soc die a b) s fun z =>
      z.fld (pZONE 4) ZONE4.T_BASE_TEMP = base.toNat ∧ z.fld (pZONE 4) ZONE4.T_SOC_TEMP = soc.toNat ∧
      z.fld (pZONE 4) ZONE4.T_SWITCH_TEMP = die.toNat ∧ z.fld (pZONE 4) ZONE4.T_POWER_A_TEMP = a.toNat ∧
      z.fld (pZONE 4) ZONE4.T_POWER_B_TEMP = b.toNat ∧
      (s.zone.fldS (pZONE 4) ZONE4.THERM_CFG_WARN ≤ soc.toInt → z.flag (pZONE 4) ZONE4.THERM_EVENT_WARN = true) ∧
      (2000 ≤ soc.toInt → z.flag (pZONE 4) ZONE4.THERM_STATUS_THROTTLED = true ∧ z.flag (pZONE 4) ZONE4.THERM_EVENT_THROTTLE = true) ∧
      (2160 ≤ soc.toInt → z.flag (pZONE 4) ZONE4.THERM_STATUS_HALTED = true ∧ z.flag (pZONE 4) ZONE4.THERM_EVENT_HALT = true) ∧
      (2160 ≤ soc.toInt → s.zone.flag (pZONE 4) ZONE4.THERM_STATUS_HALTED = false → s.zone.Reports z Src.thermalHalt 0) ∧
      (soc.toInt < 2160 → z.safety = s.zone.safety) ∧
      (soc.toInt < 1840 → z.flag (pZONE 4) ZONE4.THERM_STATUS_THROTTLED = false ∧ z.flag (pZONE 4) ZONE4.THERM_STATUS_HALTED = false) ∧
      (1840 ≤ soc.toInt → soc.toInt < 2000 →
        z.flag (pZONE 4) ZONE4.THERM_STATUS_THROTTLED = s.zone.flag (pZONE 4) ZONE4.THERM_STATUS_THROTTLED) ∧
      (1840 ≤ soc.toInt → soc.toInt < 2160 →
        z.flag (pZONE 4) ZONE4.THERM_STATUS_HALTED = s.zone.flag (pZONE 4) ZONE4.THERM_STATUS_HALTED) ∧
      s.zone.BankFrame [0] [.safety, .pace] z := by
  refine (completes_thermalSample base soc die a b hl hp).imp fun z hz => ?_
  have hcome := s.zone.comeNow_frame Pace.thermal
  have htemps := (s.zone.comeNow Pace.thermal).tempsShown_frame base soc die a b
  have hshown := (s.zone.comeNow Pace.thermal).tempsShown_shows base soc die a b
  unfold Zone.heatSampled at hz
  rw [hcome.flag (by simp), Zone.fldS, hcome.fld (by simp), ← Zone.fldS] at hz
  generalize (s.zone.comeNow Pace.thermal).tempsShown base soc die a b = y at hz htemps hshown
  have hwarn : y.Frame [pZONE 4 + ZONE4.THERM_EVENT_WARN.off] [] (y.when (decide (s.zone.fldS (pZONE 4) ZONE4.THERM_CFG_WARN ≤ soc.toInt))
      (·.event (pZONE 4) ZONE4.THERM_EVENT_WARN)) := Zone.Frame.refl.whenEvent (by decide)
  have hwarned := y.flag_when_event_same (decide (s.zone.fldS (pZONE 4) ZONE4.THERM_CFG_WARN ≤ soc.toInt)) (pZONE 4)
    ZONE4.THERM_EVENT_WARN (by decide) (by decide)
  generalize y.when (decide (s.zone.fldS (pZONE 4) ZONE4.THERM_CFG_WARN ≤ soc.toInt)) (·.event (pZONE 4) ZONE4.THERM_EVENT_WARN) = w
    at hz hwarn hwarned
  have hbefore : s.zone.Frame [pZONE 4 + ZONE4.T_BASE_TEMP.off, pZONE 4 + ZONE4.T_SOC_TEMP.off, pZONE 4 + ZONE4.T_SWITCH_TEMP.off,
      pZONE 4 + ZONE4.T_POWER_A_TEMP.off, pZONE 4 + ZONE4.T_POWER_B_TEMP.off, pZONE 4 + ZONE4.THERM_EVENT_WARN.off] [.pace] w :=
    ((hcome.mono (by simp) (by decide)).trans (htemps.mono (by simp) (by simp))).trans (hwarn.mono (by simp) (by simp))
  have h := hz ▸ w.heatJudged_judges soc.toInt (s.zone.flag (pZONE 4) ZONE4.THERM_STATUS_HALTED)
  have htemp {f : Fld} (hf : f.off ≤ 0x10) : z.fld (pZONE 4) f = y.fld (pZONE 4) f :=
    (h.frame.fld (by simp; omega)).trans (hwarn.fld (by simp; omega))
  obtain ⟨hbase, hsoc, hdie, ha, hb⟩ := hshown
  refine ⟨(htemp (by decide)).trans hbase, (htemp (by decide)).trans hsoc, (htemp (by decide)).trans hdie,
    (htemp (by decide)).trans ha, (htemp (by decide)).trans hb, fun hle => ?_, h.throttled, h.halted,
    fun hle hno => hbefore.reports (by decide) (by decide) (by decide) (h.reports hle hno),
    fun hlt => (h.quiet hlt).trans (hbefore.part .safety (by decide)), h.cooled,
    fun hlo hhi => (h.throttling hlo hhi).trans (hbefore.flag (by decide)),
    fun hlo hhi => (h.halting hlo hhi).trans (hbefore.flag (by decide)),
    (hbefore.banks (by decide) (by decide)).trans (h.frame.banks (by decide) (by decide))⟩
  rw [h.warned, hwarned, decide_eq_true hle, Bool.or_true]

end Sample

/-- Settles O2, command by command: samples (`Zone.FollowsSample`), the level (`Zone.TakesLevel`), capture, configuration and the
thermal limits (`Zone.JudgesHeat`). -/
theorem inputsAndTemperaturesAreFollowed : Obligations.InputsAndTemperaturesAreFollowed := by
  unfold Obligations.InputsAndTemperaturesAreFollowed
  exact ⟨fun _ _ _ hc hp => completes_inputSample_follows hc hp,
    fun _ _ hc hp hne => completes_levelChanged hc hp hne,
    fun _ _ _ _ hc he hr hf hle hfm hlt => completes_captureRise_shown hc he hr hf hle hfm hlt,
    fun _ _ hc he h => completes_captureRise_begins hc he h,
    fun _ _ _ hc he hr => completes_captureFall_held hc he hr,
    fun _ _ _ hc ht hp => completes_captureTimeout_clears hc ht hp,
    fun _ _ _ _ hx hm hk hmode hw => completes_inCfg_taken hx hm hk hmode hw,
    fun _ _ _ _ hx hm hk h => completes_inCfg_rejected hx hm hk h,
    fun _ _ _ _ hx hm hk h hlo hhi => completes_inThresh_taken hx hm hk h hlo hhi,
    fun _ _ _ _ hx hm hk h => completes_inThresh_rejected hx hm hk h,
    fun _ base soc die a b hl hp => completes_thermalSample_judged base soc die a b hl hp⟩

end Sys2Proof.Machine
end

