-- ==== Sys2Proof/Proofs/TamvaWords.lean ====
section
/-! SUPPORT. The words of Tamva: a word is made of its fields, format by format (R123), decoding undoes encoding and encoding undoes
decoding (O55), and the opcode selects the instruction (O54). -/

namespace Sys2Proof.Machine

set_option Elab.async false

section Fields

variable {w : Word} {op low lo m n : Nat} {d a b : Fin 16}

theorem tBits_lt : tBits w lo n < 2 ^ n := Nat.mod_lt _ (Nat.two_pow_pos n)

/-- A field is its lower bits and the bits above them. -/
theorem tBits_add : tBits w lo (m + n) = tBits w lo m + 2 ^ m * tBits w (lo + m) n := by
  unfold tBits
  rw [Nat.pow_add, Nat.mod_mul, Nat.div_div_eq_div_mul, ← Nat.pow_add]

theorem tBits_add_eq_zero : tBits w lo (m + n) = 0 ↔ tBits w lo m = 0 ∧ tBits w (lo + m) n = 0 := by
  rw [tBits_add, Nat.add_eq_zero_iff, Nat.mul_eq_zero]
  simp

theorem toNat_eq_fields : w.toNat = tOp w * 2 ^ 26 + tBits w 22 4 * 2 ^ 22 + tBits w 18 4 * 2 ^ 18 + tBits w 0 18 := by
  have := w.isLt
  unfold tOp tBits
  omega

/-- A word is made of its fields alone. -/
theorem tFields_eq_iff (hop : op < 64) (hl : b.val * 2 ^ 14 + low < 2 ^ 18) :
    tFields op d a b low = w ↔
      tOp w = op ∧ tBits w 22 4 = d ∧ tBits w 18 4 = a ∧ tBits w 0 18 = b.val * 2 ^ 14 + low := by
  rw [← BitVec.toNat_inj]
  have hw := toNat_eq_fields (w := w)
  have h0 : tOp w < 2 ^ 6 := tBits_lt
  have h1 : tBits w 22 4 < 2 ^ 4 := tBits_lt
  have h2 : tBits w 18 4 < 2 ^ 4 := tBits_lt
  have h3 : tBits w 0 18 < 2 ^ 18 := tBits_lt
  unfold tFields
  rw [BitVec.toNat_ofNat]
  omega

/-! ### The formats (R123) -/

/-- Format A with a third register. -/
theorem word_register_iff (f u : Bool) (hop : op < 64) (hl : low = optF f + optU u) : tFields op d a b low = w ↔
    tOp w = op ∧ tBits w 22 4 = d ∧ tBits w 18 4 = a ∧ tBits w 14 4 = b ∧ tBits w 13 1 = b2n f ∧ tBits w 12 1 = b2n u ∧
      tBits w 11 1 = 0 ∧ tBits w 5 6 = 0 ∧ tBits w 0 5 = 0 := by
  have := b2n_lt f
  have := b2n_lt u
  subst hl
  rw [tFields_eq_iff hop (by unfold optF optU; omega)]
  unfold tBits optF optU
  simp only [Nat.pow_zero, Nat.div_one]
  omega

/-- Format A with a constant K. -/
theorem word_constant_iff (f u : Bool) (k : Fin 32) (hop : op < 64) (hl : low = optF f + optU u + 2048 + k.val) :
    tFields op d a 0 low = w ↔
      tOp w = op ∧ tBits w 22 4 = d ∧ tBits w 18 4 = a ∧ tBits w 14 4 = 0 ∧ tBits w 13 1 = b2n f ∧ tBits w 12 1 = b2n u ∧
        tBits w 11 1 = 1 ∧ tBits w 5 6 = 0 ∧ tBits w 0 5 = k := by
  have := b2n_lt f
  have := b2n_lt u
  subst hl
  rw [tFields_eq_iff hop (by unfold optF optU; simp; omega)]
  unfold tBits optF optU
  simp only [Nat.pow_zero, Nat.div_one, Fin.val_zero]
  omega

/-- Format B, and the other forms with 16 low bits. -/
theorem word_immediate_iff (f : Bool) (i : BitVec 16) (hop : op < 64) (hl : low = b2n f * 2 ^ 17 + i.toNat) :
    tFields op d a 0 low = w ↔
      tOp w = op ∧ tBits w 22 4 = d ∧ tBits w 18 4 = a ∧ tBits w 17 1 = b2n f ∧ tBits w 16 1 = 0 ∧ tBits w 0 16 = i.toNat := by
  have := b2n_lt f
  have := i.isLt
  subst hl
  rw [tFields_eq_iff hop (by simp; omega)]
  unfold tBits
  simp only [Nat.pow_zero, Nat.div_one, Fin.val_zero]
  omega

/-- A chart address. -/
theorem word_chart_iff (c : BitVec 14) (hop : op < 64) : tFields op d a 0 c.toNat = w ↔
    tOp w = op ∧ tBits w 22 4 = d ∧ tBits w 18 4 = a ∧ tBits w 14 4 = 0 ∧ tBits w 0 14 = c.toNat := by
  have := c.isLt
  rw [tFields_eq_iff hop (by simp; omega)]
  unfold tBits
  simp only [Nat.pow_zero, Nat.div_one, Fin.val_zero]
  omega

/-- A channel operand (R112). -/
theorem word_operand_iff (g : PageArg) (o : BitVec 6) (hop : op < 64) : tFields op d a 0 (tOperand g o) = w ↔
    tOp w = op ∧ tBits w 22 4 = d ∧ tBits w 18 4 = a ∧ tBits w 14 4 = g.bank.toNat ∧ tBits w 6 8 = g.channel.toNat ∧
      tBits w 0 6 = o.toNat := by
  have := g.bank.isLt
  have := g.channel.isLt
  have := o.isLt
  unfold tOperand
  rw [tFields_eq_iff hop (by simp; omega)]
  unfold tBits
  simp only [Nat.pow_zero, Nat.div_one, Fin.val_zero]
  omega

/-- A ticket number. -/
theorem word_ticket_iff (t : Fin 128) (hop : op < 64) : tFields op d a 0 (2 ^ 17 + t.val) = w ↔
    tOp w = op ∧ tBits w 22 4 = d ∧ tBits w 18 4 = a ∧ tBits w 17 1 = 1 ∧ tBits w 7 10 = 0 ∧ tBits w 0 7 = t := by
  rw [tFields_eq_iff hop (by simp; omega)]
  unfold tBits
  simp only [Nat.pow_zero, Nat.div_one, Fin.val_zero]
  omega

/-- A queue, beside the bit that tells an event queue. -/
theorem word_queue_iff (e : Bool) (q : Fin 256) (hop : op < 64) (hl : low = b2n e * 256 + q.val) : tFields op d a 0 low = w ↔
    tOp w = op ∧ tBits w 22 4 = d ∧ tBits w 18 4 = a ∧ tBits w 9 9 = 0 ∧ tBits w 8 1 = b2n e ∧ tBits w 0 8 = q := by
  have := b2n_lt e
  subst hl
  rw [tFields_eq_iff hop (by simp; omega)]
  unfold tBits
  simp only [Nat.pow_zero, Nat.div_one, Fin.val_zero]
  omega

/-- A skip count. -/
theorem word_skip_iff (n : Fin 15) (hop : op < 64) : tFields op d a 0 (n.val + 1) = w ↔
    tOp w = op ∧ tBits w 22 4 = d ∧ tBits w 18 4 = a ∧ tBits w 4 14 = 0 ∧ tBits w 0 4 = n.val + 1 := by
  rw [tFields_eq_iff hop (by simp; omega)]
  unfold tBits
  simp only [Nat.pow_zero, Nat.div_one, Fin.val_zero]
  omega

/-- Registers alone. -/
theorem word_bare_iff (hop : op < 64) : tFields op d a b 0 = w ↔
    tOp w = op ∧ tBits w 22 4 = d ∧ tBits w 18 4 = a ∧ tBits w 14 4 = b ∧ tBits w 0 14 = 0 := by
  rw [tFields_eq_iff hop (by omega)]
  unfold tBits
  simp only [Nat.pow_zero, Nat.div_one]
  omega

/-! ### Fields that span others -/

theorem tBits_0_14 : tBits w 0 14 = 0 ↔ tBits w 0 7 = 0 ∧ tBits w 7 7 = 0 :=
  tBits_add_eq_zero (m := 7) (n := 7)
theorem tBits_7_10 : tBits w 7 10 = 0 ↔ tBits w 7 7 = 0 ∧ tBits w 14 3 = 0 :=
  tBits_add_eq_zero (m := 7) (n := 3)
theorem tBits_14_4 : tBits w 14 4 = 0 ↔ tBits w 14 3 = 0 ∧ tBits w 17 1 = 0 :=
  tBits_add_eq_zero (m := 3) (n := 1)
theorem tBits_0_22 : tBits w 0 22 = 0 ↔ tBits w 0 14 = 0 ∧ tBits w 14 4 = 0 ∧ tBits w 18 4 = 0 :=
  (tBits_add_eq_zero (m := 14) (n := 8)).trans (and_congr_right fun _ => tBits_add_eq_zero (m := 4) (n := 4))
theorem tBits_4_18 : tBits w 4 18 = 0 ↔ tBits w 4 14 = 0 ∧ tBits w 18 4 = 0 :=
  tBits_add_eq_zero (m := 14) (n := 4)
theorem tBits_14_8 : tBits w 14 8 = 0 ↔ tBits w 14 4 = 0 ∧ tBits w 18 4 = 0 :=
  tBits_add_eq_zero (m := 4) (n := 4)
theorem tBits_16_6 : tBits w 16 6 = 0 ↔ tBits w 16 1 = 0 ∧ tBits w 17 1 = 0 ∧ tBits w 18 4 = 0 :=
  (tBits_add_eq_zero (m := 1) (n := 5)).trans (and_congr_right fun _ => tBits_add_eq_zero (m := 1) (n := 4))
theorem tBits_9_13 : tBits w 9 13 = 0 ↔ tBits w 9 9 = 0 ∧ tBits w 18 4 = 0 :=
  tBits_add_eq_zero (m := 9) (n := 4)
theorem tBits_8_14 : tBits w 8 14 = 0 ↔ tBits w 8 1 = 0 ∧ tBits w 9 9 = 0 ∧ tBits w 18 4 = 0 :=
  (tBits_add_eq_zero (m := 1) (n := 13)).trans (and_congr_right fun _ => tBits_9_13)

/-! ### Operands as they are read -/

@[simp] theorem val_tWD : (tWD w).val = tBits w 22 4 := Nat.mod_eq_of_lt tBits_lt
@[simp] theorem val_tWS : (tWS w).val = tBits w 18 4 := Nat.mod_eq_of_lt tBits_lt
@[simp] theorem val_tWT : (tWT w).val = tBits w 14 4 := Nat.mod_eq_of_lt tBits_lt

@[simp] theorem b2n_bit : b2n (decide (tBits w lo 1 = 1)) = tBits w lo 1 := by
  have : tBits w lo 1 < 2 ^ 1 := tBits_lt
  unfold b2n
  split <;> simp_all
  omega

@[simp] theorem b2n_eq_one (b : Bool) : (b2n b = 1) = (b = true) := by cases b <;> simp [b2n]
@[simp] theorem b2n_false : b2n false = 0 := rfl
@[simp] theorem b2n_true : b2n true = 1 := rfl

/-- U is 0 where it does not stand. -/
theorem optF_eq (f : Bool) : optF f = optF f + optU false := by cases f <;> rfl

/-- F is 0 where it does not stand. -/
theorem toNat_eq_immediate (i : BitVec 16) : i.toNat = b2n false * 2 ^ 17 + i.toNat := by simp

end Fields

/-! ### Decoding what has been encoded -/

/-- The word of an instruction decodes to it. -/
theorem tDecode_tEncode (c : Instr) (w : Word) (h : tEncode c = some w) :
    ∃ (k : Keeper) (a : Bool), tamvaKeeper c = some k ∧ tDecode k a w = some c := by
  cases c with
  | opAdd k d a b f | opSub k d a b f | opAnd k d a b f | opOr k d a b f | opXor k d a b f =>
    simp only [tEncode, Option.some.injEq] at h
    obtain ⟨hop, hd, ha, hb, hf, hu, hi, hz, hk⟩ := (word_register_iff f false (by decide) (optF_eq f)).mp h
    refine ⟨k, false, rfl, ?_⟩
    unfold tDecode encodingOk
    simp only [hop]
    simp [formatA, tWD, tWS, tWT, hd, ha, hb, hf, hu, hi, hz, hk]
  | opMul k d a b f u | opMulh k d a b f u | opMin k d a b f u | opMax k d a b f u =>
    simp only [tEncode, Option.some.injEq] at h
    obtain ⟨hop, hd, ha, hb, hf, hu, hi, hz, hk⟩ := (word_register_iff f u (by decide) rfl).mp h
    refine ⟨k, false, rfl, ?_⟩
    unfold tDecode encodingOk
    simp only [hop]
    simp [formatA, tWD, tWS, tWT, hd, ha, hb, hf, hu, hi, hz, hk]
  | opShl k d a x f | opShr k d a x f | opSra k d a x f =>
    refine ⟨k, false, rfl, ?_⟩
    cases x with
    | reg b =>
      simp only [tEncode, Option.some.injEq] at h
      obtain ⟨hop, hd, ha, hb, hf, hu, hi, hz, hk⟩ := (word_register_iff f false (by decide) (optF_eq f)).mp h
      unfold tDecode encodingOk
      simp only [hop]
      simp [formatA, tAmount, tWD, tWS, tWT, hd, ha, hb, hf, hu, hi, hz, hk]
    | imm n =>
      simp only [tEncode, Option.some.injEq] at h
      obtain ⟨hop, hd, ha, hb, hf, hu, hi, hz, hk⟩ := (word_constant_iff f false n (by decide) (by rw [← optF_eq])).mp h
      unfold tDecode encodingOk
      simp only [hop]
      simp [formatA, tAmount, tWD, tWS, hd, ha, hb, hf, hu, hi, hz, hk]
  | opSat k d a n f u =>
    simp only [tEncode, Option.some.injEq] at h
    obtain ⟨hop, hd, ha, hb, hf, hu, hi, hz, hk⟩ := (word_constant_iff f u n (by decide) rfl).mp h
    refine ⟨k, false, rfl, ?_⟩
    unfold tDecode encodingOk
    simp only [hop]
    simp [formatA, tWD, tWS, hd, ha, hb, hf, hu, hi, hz, hk]
  | opAddi k d a f i | opAndi k d a f i | opOri k d a f i | opXori k d a f i =>
    simp only [tEncode, Option.some.injEq] at h
    obtain ⟨hop, hd, ha, hf, hz, hi⟩ := (word_immediate_iff f i (by decide) rfl).mp h
    refine ⟨k, false, rfl, ?_⟩
    unfold tDecode encodingOk
    simp only [hop]
    simp [tWD, tWS, hd, ha, hf, hz, hi]
  | opLui k d i =>
    simp only [tEncode, Option.some.injEq] at h
    obtain ⟨hop, hd, ha, hf, hz, hi⟩ := (word_immediate_iff false i (by decide) (toNat_eq_immediate i)).mp h
    refine ⟨k, false, rfl, ?_⟩
    unfold tDecode encodingOk
    simp only [hop]
    simp [tWD, hd, ha, hf, hz, hi]
  | opCmpi k a i =>
    simp only [tEncode, Option.some.injEq] at h
    obtain ⟨hop, hd, ha, hf, hz, hi⟩ := (word_immediate_iff false i (by decide) (toNat_eq_immediate i)).mp h
    refine ⟨k, false, rfl, ?_⟩
    unfold tDecode encodingOk
    simp only [hop]
    simp [tWS, hd, ha, hf, hz, hi]
  | opCmp k a b | opTst k a b =>
    simp only [tEncode, Option.some.injEq] at h
    obtain ⟨hop, hd, ha, hb, hz⟩ := (word_bare_iff (by decide)).mp h
    refine ⟨k, false, rfl, ?_⟩
    unfold tDecode encodingOk
    simp only [hop]
    simp [tWS, tWT, hd, ha, hb, hz]
  | opSkip k cc n =>
    simp only [tEncode, Option.some.injEq] at h
    obtain ⟨hop, hd, ha, hz, hn⟩ := (word_skip_iff n (by decide)).mp h
    refine ⟨k, false, rfl, ?_⟩
    unfold tDecode encodingOk
    simp only [hop]
    simp [tBits_4_18, hd, ha, hz, hn]
    omega
  | opLdc k d c | opStc k d c =>
    simp only [tEncode, Option.some.injEq] at h
    obtain ⟨hop, hd, ha, hz, hc⟩ := (word_chart_iff c (by decide)).mp h
    refine ⟨k, false, rfl, ?_⟩
    unfold tDecode encodingOk
    simp only [hop]
    simp [tBits_14_8, tWD, tCaddr, hd, ha, hz, hc]
  | opLdcx k d a c | opStcx k d a c =>
    simp only [tEncode, Option.some.injEq] at h
    obtain ⟨hop, hd, ha, hz, hc⟩ := (word_chart_iff c (by decide)).mp h
    refine ⟨k, false, rfl, ?_⟩
    unfold tDecode encodingOk
    simp only [hop]
    simp [tWD, tWS, tCaddr, hd, ha, hz, hc]
  | opMirr k d | opTnow k d | opTsec k d | opTslot k d =>
    simp only [tEncode, Option.some.injEq] at h
    obtain ⟨hop, hd, ha, hb, hz⟩ := (word_bare_iff (by decide)).mp h
    refine ⟨k, false, rfl, ?_⟩
    unfold tDecode encodingOk
    simp only [hop]
    simp [tBits_0_22, tWD, hd, ha, hb, hz]
  | opNop k | opEnd k =>
    simp only [tEncode, Option.some.injEq] at h
    obtain ⟨hop, hd, ha, hb, hz⟩ := (word_bare_iff (by decide)).mp h
    refine ⟨k, false, rfl, ?_⟩
    unfold tDecode encodingOk
    simp only [hop]
    simp [tBits_0_22, ha, hb, hz]
  | opCrd k d g o | opCwr k d g o | opCwrSet k d g o | opCwrClr k d g o | opCwrTgl k d g o =>
    simp only [tEncode, Option.some.injEq] at h
    obtain ⟨hop, hd, ha, hb, hc, ho⟩ := (word_operand_iff g o (by decide)).mp h
    refine ⟨k, false, rfl, ?_⟩
    unfold tDecode encodingOk
    simp only [hop]
    simp [tWD, tPage, tWord, hd, ha, hb, hc, ho]
  | opCop k d v g o =>
    by_cases hz : d = 0
    · simp [tEncode, hz] at h
    simp only [tEncode, if_neg hz, Option.some.injEq] at h
    obtain ⟨hop, hd, ha, hb, hc, ho⟩ := (word_operand_iff g o (by decide)).mp h
    refine ⟨k, false, rfl, ?_⟩
    unfold tDecode encodingOk
    simp only [hop]
    simp [tWD, tPage, tWord, hd, ha, hb, hc, ho, hz, Nat.mod_eq_of_lt v.isLt]
  | opCrdx k d a g r =>
    simp only [tEncode, Option.some.injEq] at h
    obtain ⟨hop, hd, ha, hb, hc, ho⟩ := (word_operand_iff g 0 (by decide)).mp h
    refine ⟨k, r, rfl, ?_⟩
    unfold tDecode encodingOk
    simp only [hop]
    simp [tWD, tWS, tPage, hd, ha, hb, hc, ho]
  | opCwrx k d a g =>
    simp only [tEncode, Option.some.injEq] at h
    obtain ⟨hop, hd, ha, hb, hc, ho⟩ := (word_operand_iff g 0 (by decide)).mp h
    refine ⟨k, false, rfl, ?_⟩
    unfold tDecode encodingOk
    simp only [hop]
    simp [tWD, tWS, tPage, hd, ha, hb, hc, ho]
  | opChkt k t =>
    refine ⟨k, false, rfl, ?_⟩
    cases t with
    | reg a =>
      simp only [tEncode, Option.some.injEq] at h
      obtain ⟨hop, hd, ha, hb, hz⟩ := (word_bare_iff (by decide)).mp h
      obtain ⟨hlow, hmid⟩ := tBits_0_14.mp hz
      obtain ⟨hhigh, hi⟩ := tBits_14_4.mp hb
      unfold tDecode encodingOk
      simp only [hop]
      simp [tTicket, tBits_7_10, tWS, hd, ha, hlow, hmid, hhigh, hi]
    | imm t =>
      simp only [tEncode, Option.some.injEq] at h
      obtain ⟨hop, hd, ha, hi, hz, ht⟩ := (word_ticket_iff t (by decide)).mp h
      unfold tDecode encodingOk
      simp only [hop]
      simp [tTicket, hd, ha, hi, hz, ht]
  | opTkr k d t =>
    refine ⟨k, false, rfl, ?_⟩
    cases t with
    | reg a =>
      simp only [tEncode, Option.some.injEq] at h
      obtain ⟨hop, hd, ha, hb, hz⟩ := (word_bare_iff (by decide)).mp h
      obtain ⟨hlow, hmid⟩ := tBits_0_14.mp hz
      obtain ⟨hhigh, hi⟩ := tBits_14_4.mp hb
      unfold tDecode encodingOk
      simp only [hop]
      simp [tTicket, tBits_7_10, tWD, tWS, hd, ha, hlow, hmid, hhigh, hi]
    | imm t =>
      simp only [tEncode, Option.some.injEq] at h
      obtain ⟨hop, hd, ha, hi, hz, ht⟩ := (word_ticket_iff t (by decide)).mp h
      unfold tDecode encodingOk
      simp only [hop]
      simp [tTicket, tWD, hd, ha, hi, hz, ht]
  | opQpop k d q | opQpush k d q =>
    simp only [tEncode, Option.some.injEq] at h
    obtain ⟨hop, hd, ha, hz, he, hq⟩ := (word_queue_iff false q (by decide) (by simp)).mp h
    refine ⟨k, false, rfl, ?_⟩
    unfold tDecode encodingOk
    simp only [hop]
    simp [tBits_8_14, tWD, hd, ha, hz, he, hq]
  | opQlen k d e q =>
    simp only [tEncode, Option.some.injEq] at h
    obtain ⟨hop, hd, ha, hz, he, hq⟩ := (word_queue_iff e q (by decide) rfl).mp h
    refine ⟨k, false, rfl, ?_⟩
    unfold tDecode encodingOk
    simp only [hop]
    simp [tBits_9_13, tWD, hd, ha, hz, he, hq]
  | opEvt k d i | opFlt k d i =>
    by_cases hn : i = 0
    · simp [tEncode, hn] at h
    simp only [tEncode, if_neg hn, Option.some.injEq] at h
    obtain ⟨hop, hd, ha, hf, hz, hi⟩ := (word_immediate_iff false i (by decide) (toNat_eq_immediate i)).mp h
    have hi' : i.toNat ≠ 0 := fun h => hn (BitVec.eq_of_toNat_eq h)
    refine ⟨k, false, rfl, ?_⟩
    unfold tDecode encodingOk
    simp only [hop]
    simp [tBits_16_6, tWD, hd, ha, hf, hz, hi, hi']
  | _ => cases h

section Operands

variable {w : Word} {lo n m : Nat}

@[simp] theorem tBits_mod (h : 2 ^ n ≤ m) : tBits w lo n % m = tBits w lo n := Nat.mod_eq_of_lt (tBits_lt.trans_le h)

theorem tBits_one_eq_zero : tBits w lo 1 = 0 ↔ ¬ tBits w lo 1 = 1 := by
  have : tBits w lo 1 < 2 ^ 1 := tBits_lt
  omega

/-- The options of format A (R130), by whether I is 1. -/
theorem formatA_iff {shift sat unsigned : Bool} : formatA w shift sat unsigned = true ↔
    tBits w 5 6 = 0 ∧ (unsigned = true ∨ tBits w 12 1 = 0) ∧
      (tBits w 11 1 = 1 ∧ (shift = true ∨ sat = true) ∧ tBits w 14 4 = 0 ∨ tBits w 11 1 = 0 ∧ sat = false ∧ tBits w 0 5 = 0) := by
  unfold formatA
  rw [tBits_one_eq_zero (lo := 11)]
  by_cases hi : tBits w 11 1 = 1
  · simp [hi]
    tauto
  · simp [hi]
    tauto

/-- A NOP and an END with the WD bits cleared. -/
theorem tFields_clear_wd (d : Fin 16) :
    tFields 0x3E d 0 0 0 &&& 0xFC3FFFFF#32 = tFields 0x3E 0 0 0 0 ∧ tFields 0x3F d 0 0 0 &&& 0xFC3FFFFF#32 = tFields 0x3F 0 0 0 0 := by
  revert d
  decide

end Operands

/-! ### Encoding what has been decoded -/

/-- What a word decodes to has that word; NOP and END leave bits [25:22] free. -/
theorem tEncode_tDecode (k : Keeper) (r : Bool) (w : Word) (c : Instr) (h : tDecode k r w = some c) : tamvaKeeper c = some k ∧
    (tEncode c = some w ∨ ((c = .opNop k ∨ c = .opEnd k) ∧ tEncode c = some (w &&& 0xFC3FFFFF#32))) := by
  unfold tDecode at h
  dsimp only at h
  split at h
  · cases h
  next hok =>
  rw [Bool.not_eq_true, Bool.not_eq_false'] at hok
  unfold encodingOk at hok
  split at h
  case h_1 hop | h_2 hop | h_3 hop | h_4 hop | h_5 hop =>
    cases h
    simp only [hop, formatA_iff] at hok
    refine ⟨rfl, .inl (congrArg some ((word_register_iff _ false (by decide) (optF_eq _)).mpr ?_))⟩
    simpa [hop, and_comm, and_assoc, and_left_comm] using hok
  case h_6 hop | h_7 hop | h_8 hop =>
    cases h
    simp only [hop, formatA_iff] at hok
    refine ⟨rfl, .inl ?_⟩
    unfold tAmount
    split
    · refine congrArg some ((word_constant_iff _ false _ (by decide) (by rw [← optF_eq])).mpr ?_)
      simp_all
    · refine congrArg some ((word_register_iff _ false (by decide) (optF_eq _)).mpr ?_)
      simp_all
  case h_9 hop | h_10 hop | h_11 hop | h_12 hop =>
    cases h
    simp only [hop, formatA_iff] at hok
    refine ⟨rfl, .inl (congrArg some ((word_register_iff _ _ (by decide) rfl).mpr ?_))⟩
    simp_all
  case h_13 hop =>
    cases h
    simp only [hop, formatA_iff] at hok
    refine ⟨rfl, .inl (congrArg some ((word_constant_iff _ _ _ (by decide) rfl).mpr ?_))⟩
    simp_all
  case h_14 hop | h_15 hop | h_16 hop | h_17 hop =>
    cases h
    simp only [hop] at hok
    refine ⟨rfl, .inl (congrArg some ((word_immediate_iff _ _ (by decide) rfl).mpr ?_))⟩
    simp_all
  case h_18 hop | h_19 hop =>
    cases h
    simp only [hop] at hok
    refine ⟨rfl, .inl (congrArg some ((word_immediate_iff false _ (by decide) (toNat_eq_immediate _)).mpr ?_))⟩
    simp_all
  case h_20 hop | h_21 hop =>
    cases h
    simp only [hop] at hok
    refine ⟨rfl, .inl (congrArg some ((word_bare_iff (by decide)).mpr ?_))⟩
    simp_all
  case h_22 hop =>
    cases h
    simp only [hop, tBits_4_18] at hok
    refine ⟨rfl, .inl (congrArg some ((word_skip_iff _ (by decide)).mpr ?_))⟩
    have hcc : tBits w 22 4 < 2 ^ 4 := tBits_lt
    have hn : tBits w 0 4 < 2 ^ 4 := tBits_lt
    simp_all
    omega
  case h_23 hop | h_24 hop =>
    cases h
    simp only [hop, tBits_14_8] at hok
    refine ⟨rfl, .inl (congrArg some ((word_chart_iff _ (by decide)).mpr ?_))⟩
    simp_all [tCaddr]
  case h_25 hop | h_26 hop =>
    cases h
    simp only [hop] at hok
    refine ⟨rfl, .inl (congrArg some ((word_chart_iff _ (by decide)).mpr ?_))⟩
    simp_all [tCaddr]
  case h_27 hop | h_38 hop | h_39 hop | h_40 hop =>
    cases h
    simp only [hop, tBits_0_22] at hok
    refine ⟨rfl, .inl (congrArg some ((word_bare_iff (by decide)).mpr ?_))⟩
    simp_all
  case h_28 hop =>
    cases h
    simp only [hop] at hok
    refine ⟨rfl, .inl (congrArg some ((word_operand_iff _ _ (by decide)).mpr ?_))⟩
    simp_all [tPage, tWord]
  case h_29 hop =>
    simp only [hop] at hok
    rw [← Option.some.inj h]
    refine ⟨?_, .inl ?_⟩
    · split <;> rfl
    split
    all_goals
      refine congrArg some ((word_operand_iff _ _ (by decide)).mpr ?_)
      simp_all [tPage, tWord]
    omega
  case h_30 hop =>
    cases h
    simp only [hop] at hok
    have hd : tWD w ≠ 0 := by
      rw [Ne, Fin.ext_iff, val_tWD]
      simpa using hok
    refine ⟨rfl, .inl ((if_neg hd).trans (congrArg some ((word_operand_iff _ _ (by decide)).mpr ?_)))⟩
    simp_all [tPage, tWord]
  case h_31 hop =>
    cases h
    simp only [hop, tBits_7_10] at hok
    refine ⟨rfl, .inl ?_⟩
    unfold tTicket
    split
    · refine congrArg some ((word_ticket_iff _ (by decide)).mpr ?_)
      simp_all [tBits_7_10]
    · refine congrArg some ((word_bare_iff (by decide)).mpr ?_)
      simp_all [tBits_0_14, tBits_14_4, tBits_one_eq_zero]
  case h_32 hop =>
    cases h
    simp only [hop, tBits_7_10] at hok
    refine ⟨rfl, .inl ?_⟩
    unfold tTicket
    split
    · refine congrArg some ((word_ticket_iff _ (by decide)).mpr ?_)
      simp_all [tBits_7_10]
    · refine congrArg some ((word_bare_iff (by decide)).mpr ?_)
      simp_all [tBits_0_14, tBits_14_4, tBits_one_eq_zero]
  case h_33 hop | h_34 hop =>
    cases h
    simp only [hop] at hok
    refine ⟨rfl, .inl (congrArg some ((word_operand_iff _ _ (by decide)).mpr ?_))⟩
    simp_all [tPage]
  case h_35 hop | h_36 hop =>
    cases h
    simp only [hop, tBits_8_14] at hok
    refine ⟨rfl, .inl (congrArg some ((word_queue_iff false (Fin.ofNat 256 (tBits w 0 8)) (by decide) (by simp)).mpr ?_))⟩
    simp_all
  case h_37 hop =>
    cases h
    simp only [hop, tBits_9_13] at hok
    refine ⟨rfl, .inl (congrArg some ((word_queue_iff _ _ (by decide) rfl).mpr ?_))⟩
    simp_all
  case h_41 hop | h_42 hop =>
    cases h
    simp only [hop, tBits_16_6] at hok
    have hi : BitVec.ofNat 16 (tBits w 0 16) ≠ 0 := by
      rw [Ne, ← BitVec.toNat_inj, BitVec.toNat_ofNat, tBits_mod (by decide)]
      simp_all
    refine ⟨rfl, .inl ((if_neg hi).trans (congrArg some ((word_immediate_iff false _ (by decide) (toNat_eq_immediate _)).mpr ?_)))⟩
    simp_all
  case h_43 hop =>
    cases h
    simp only [hop, tBits_0_22] at hok
    have hw : tFields 0x3E (tWD w) 0 0 0 = w := (word_bare_iff (by decide)).mpr (by simp_all)
    refine ⟨rfl, .inr ⟨.inl rfl, congrArg some ?_⟩⟩
    rw [← hw]
    exact (tFields_clear_wd _).1.symm
  case h_44 hop =>
    cases h
    simp only [hop, tBits_0_22] at hok
    have hw : tFields 0x3F (tWD w) 0 0 0 = w := (word_bare_iff (by decide)).mpr (by simp_all)
    refine ⟨rfl, .inr ⟨.inr rfl, congrArg some ?_⟩⟩
    rw [← hw]
    exact (tFields_clear_wd _).2.symm
  case h_45 => cases h

/-! ### Opcodes (R124) -/

theorem toNat_extractLsb' (w : Word) (lo n : Nat) : (w.extractLsb' lo n).toNat = tBits w lo n := by
  rw [BitVec.extractLsb'_toNat, Nat.shiftRight_eq_div_pow]
  rfl

theorem extractLsb'_eq (w : Word) (lo n : Nat) : w.extractLsb' lo n = BitVec.ofNat n (tBits w lo n) := by
  rw [← toNat_extractLsb', BitVec.ofNat_toNat, BitVec.setWidth_eq]

theorem getLsbD_eq (w : Word) (lo : Nat) : w.getLsbD lo = decide (tBits w lo 1 = 1) := by
  unfold BitVec.getLsbD tBits
  rw [Nat.testBit_eq_decide_div_mod_eq, Nat.pow_one]

/-- A word with an opcode that is not listed is no instruction. -/
theorem tDecode_of_unlisted (k : Keeper) (a : Bool) (w : Word) (hop : tOp w ∉
    [1, 2, 3, 4, 5, 6, 7, 8, 9, 0x0A, 0x0B, 0x0C, 0x0D, 0x10, 0x11, 0x12, 0x13, 0x14, 0x15, 0x18, 0x19, 0x1A, 0x20, 0x21, 0x22, 0x23,
     0x24, 0x28, 0x29, 0x2A, 0x2B, 0x2C, 0x2D, 0x2E, 0x30, 0x31, 0x32, 0x34, 0x35, 0x36, 0x38, 0x39, 0x3E, 0x3F]) :
    tDecode k a w = none := by
  unfold tDecode
  dsimp only
  split
  · rfl
  · split
    case h_45 => rfl
    all_goals
      next h =>
      rw [h] at hop
      exact absurd (by decide) hop

/-- Settles O54: the decoder's branches, one by one. -/
theorem opcodesSelectTheirInstruction : Obligations.OpcodesSelectTheirInstruction := by
  unfold Obligations.OpcodesSelectTheirInstruction
  refine ⟨fun k a w c h => ?_, fun k a w hop => ?_, fun k a => ?_⟩
  · simp only [toNat_extractLsb']
    simp only [extractLsb'_eq, getLsbD_eq, decide_eq_true_eq]
    unfold tDecode at h
    dsimp only at h
    split at h
    · cases h
    next hok =>
    split at h
    case h_45 => cases h
    all_goals
      rename tOp w = _ => hop
      rw [← Option.some.inj h]
    case h_22 =>
      simp [encodingOk, hop] at hok
      have hcc : tBits w 22 4 < 2 ^ 4 := tBits_lt
      have hn : tBits w 0 4 < 2 ^ 4 := tBits_lt
      replace hop : tBits w 26 6 = _ := hop
      simp only [hop, Nat.reduceEqDiff, false_and, false_or, true_and]
      exact ⟨_, _, Nat.mod_eq_of_lt (by omega), by simp; omega, rfl⟩
    case h_43 | h_44 =>
      replace hop : tBits w 26 6 = _ := hop
      simp only [hop, Nat.reduceEqDiff, false_and, or_false, true_and, or_true]
    all_goals
      replace hop : tBits w 26 6 = _ := hop
      simp only [hop, Nat.reduceEqDiff, false_and, false_or, or_false, true_and]
      rfl
  · rw [toNat_extractLsb'] at hop
    exact tDecode_of_unlisted k a w hop
  · cases k <;> cases a <;> decide

/-! ### Decoding and encoding (R123, R124) -/

/-- Whether a CRDX's word arrives is all that a keeper's decoder does not read from the word. -/
theorem tDecode_arrives {k : Keeper} {w : Word} {c c' : Instr} (h : tDecode k true w = some c) (h' : tDecode k false w = some c') :
    c = c' ∨ ∃ d x g, c = .opCrdx k d x g true ∧ c' = .opCrdx k d x g false := by
  unfold tDecode at h h'
  dsimp only at h h'
  split at h
  · cases h
  next hok =>
  rw [if_neg hok] at h'
  split at h
  case h_33 hop =>
    simp only [hop] at h'
    exact .inr ⟨_, _, _, (Option.some.inj h).symm, (Option.some.inj h').symm⟩
  case h_45 => cases h
  all_goals
    rename tOp w = _ => hop
    simp only [hop] at h'
    exact .inl (Option.some.inj (h.symm.trans h'))

/-- Settles O55: each direction by the formats of R123. -/
theorem tamvaWordsDecodeBack : Obligations.TamvaWordsDecodeBack := by
  unfold Obligations.TamvaWordsDecodeBack
  exact ⟨tDecode_tEncode, tEncode_tDecode, fun k w c c' h h' => tDecode_arrives h h'⟩

end Sys2Proof.Machine
end

