-- ==== Sys2Proof/Proofs/TamvaSteps.lean ====
section
/-! SUPPORT. What a step of a keeper does with its registers and flags (R105, R116, R133): the rules of a keeper's state, of skips and of
instructions that compute (O16, O17), of SKIP, NOP and END (O19), and of instructions without effect (O20). -/

namespace Sys2Proof.Machine

open Reg

set_option Elab.async false

namespace Zone

/-! ### The state of a keeper -/

section Keepers

variable (s : Zone) (k : Keeper) (x y : KeeperSt)

@[simp] theorem keeper_setKeeper : (s.setKeeper k x).keeper k = x := by cases k <;> rfl

@[simp] theorem keeper_other_setKeeper : (s.setKeeper k x).keeper k.other = s.keeper k.other := by cases k <;> rfl

@[simp] theorem setKeeper_setKeeper : (s.setKeeper k x).setKeeper k y = s.setKeeper k y := by cases k <;> rfl

@[simp] theorem setKeeper_keeper : s.setKeeper k (s.keeper k) = s := by cases k <;> rfl

theorem SameParts.setKeeper {s : Zone} {parts : List Part} {k : Keeper} {x : KeeperSt} (ha : .keeperA ∈ parts) (hb : .keeperB ∈ parts) :
    s.SameParts parts (s.setKeeper k x) := fun p hn => by
  cases k <;> cases p <;> simp_all [Zone.setKeeper, Part.Same]

theorem Frame.setKeeper {s z : Zone} {words ps k x} (h : s.Frame words ps z) (ha : .keeperA ∈ ps) (hb : .keeperB ∈ ps) :
    s.Frame words ps (z.setKeeper k x) := by
  cases k <;> exact h.parts rfl rfl (SameParts.setKeeper ha hb)

theorem setKeeper_frame : s.Frame [] [.keeperA, .keeperB] (s.setKeeper k x) := Frame.refl.setKeeper (by decide) (by decide)

/-- A keeper's state alone decides what its registers and flags read. -/
theorem getW_congr {s t : Zone} {k : Keeper} (h : (s.keeper k).w = (t.keeper k).w) (n : Fin 16) : s.getW k n = t.getW k n := by
  unfold getW
  rw [h]

theorem getW_setW (n m : Fin 16) (v : Word) : (s.setW k n v).getW k m = if m = n ∧ m ≠ 0 then v else s.getW k m := by
  unfold getW setW
  by_cases hm : m = 0
  · simp [hm]
  by_cases hn : n = 0
  · subst hn
    simp [hm]
  by_cases he : m = n
  · subst he
    simp [hm, SMap.get_set_same]
  · simp [hm, hn, he, SMap.get_set_ne _ _ _ _ _ (Fin.val_ne_of_ne he)]

@[simp] theorem setW_zero (v : Word) : s.setW k 0 v = s := if_pos rfl

/-- Writing a register changes the registers alone. -/
theorem setW_eq (n : Fin 16) (v : Word) : ∃ w, s.setW k n v = s.setKeeper k { s.keeper k with w := w } := by
  unfold setW
  split
  · exact ⟨(s.keeper k).w, (s.setKeeper_keeper k).symm⟩
  · exact ⟨_, rfl⟩

@[simp] theorem flags_setW (n : Fin 16) (v : Word) : (s.setW k n v).flags k = s.flags k := by
  obtain ⟨w, hw⟩ := s.setW_eq k n v
  rw [hw]
  unfold flags
  simp

@[simp] theorem setFlags_flags : s.setFlags k (s.flags k) = s := by
  unfold setFlags flags
  exact s.setKeeper_keeper k

end Keepers

/-! ### A step -/

section Step

variable {s : Zone} {k : Keeper}

/-- Keeper k has taken the cycles of an instruction. -/
def charged (s : Zone) (k : Keeper) (n : Nat) : Zone := s.setKeeper k { s.keeper k with cycles := (s.keeper k).cycles + n }

/-- Keeper k goes on to its next instruction while its step lasts. -/
def advanced (s : Zone) (k : Keeper) : Zone :=
  if (s.keeper k).inStep then s.setKeeper k { s.keeper k with index := (s.keeper k).index + 1 } else s

theorem getW_charged (s : Zone) (k : Keeper) (n : Nat) (r : Fin 16) : (s.charged k n).getW k r = s.getW k r :=
  getW_congr (by simp [charged]) r

theorem flags_charged (s : Zone) (k : Keeper) (n : Nat) : (s.charged k n).flags k = s.flags k := by simp [charged, flags]

theorem amount_charged (s : Zone) (k : Keeper) (n : Nat) (x : Amount) : (s.charged k n).amount k x = s.amount k x := by
  cases x with
  | reg w => simp only [amount, getW_charged]
  | imm i => rfl

/-- An instruction in a step that passes over nothing (R116, R133). -/
theorem perform_inStep (h : s.InStep k) (n : Nat) (last : Bool) (f : Zone → Zone) :
    s.perform k n last f = (f (s.charged k n)).advanced k := by
  obtain ⟨hexec, hin, hskip⟩ := h
  unfold perform
  rw [if_neg (by simp [hexec])]
  dsimp only
  rw [if_neg (by simp [hskip]), if_pos hin]
  rfl

/-- A keeper that executes no table does nothing (R116). -/
theorem perform_of_not_executes (h : s.executes k = false) (n : Nat) (last : Bool) (f : Zone → Zone) : s.perform k n last f = s := by
  unfold perform
  simp [h]

/-- An instruction that is passed over counts the skip down (R133). -/
theorem perform_skipped (hexec : s.executes k = true) (hin : (s.keeper k).inStep = true) (hskip : 0 < (s.keeper k).skip) (n : Nat)
    (f : Zone → Zone) : s.perform k n false f =
      s.setKeeper k { s.keeper k with skip := (s.keeper k).skip - 1, index := (s.keeper k).index + 1 } := by
  unfold perform
  rw [if_neg (by simp [hexec])]
  exact (if_pos ⟨hin, hskip⟩).trans (if_neg (by decide))

/-- An instruction that writes one register and the flags, and does nothing else. -/
theorem computes_of_perform (h : s.InStep k) {n : Nat} {f : Zone → Zone} {wd : Fin 16} {v : Word} {fl : TFlags}
    (hf : f (s.charged k n) = ((s.charged k n).setW k wd v).setFlags k fl) : s.Computes (s.perform k n false f) k n wd v fl := by
  obtain ⟨hexec, hin, hskip⟩ := id h
  obtain ⟨w, hw⟩ := (s.charged k n).setW_eq k wd v
  have hz : s.perform k n false f = s.setKeeper k { s.keeper k with
      w := w, z := fl.z, n := fl.n, c := fl.c, v := fl.v, cycles := (s.keeper k).cycles + n, index := (s.keeper k).index + 1 } := by
    rw [perform_inStep h, hf, hw]
    simp [advanced, setFlags, charged, hin]
  refine ⟨fun m => ?_, w, hz⟩
  have hget := (s.charged k n).getW_setW k wd m v
  rw [getW_charged] at hget
  rw [← hget, hz, hw]
  exact getW_congr (by simp) m

/-- The flags take effect where F is 1 (R127). -/
theorem result_eq (s : Zone) (k : Keeper) (wd : Fin 16) (f : Bool) (r : TResult) :
    s.result k wd f r = (s.setW k wd r.value).setFlags k (if f then r.flags else s.flags k) := by
  unfold result
  cases f with
  | true => rfl
  | false =>
    have := (s.setW k wd r.value).setFlags_flags k
    rw [flags_setW] at this
    exact this.symm

theorem computes_alu (h : s.InStep k) (n : Nat) (wd ws wt : Fin 16) (f : Bool) (r : Word → Word → TResult) :
    s.Computes (s.alu k n wd ws wt f r) k n wd (r (s.getW k ws) (s.getW k wt)).value
      (if f then (r (s.getW k ws) (s.getW k wt)).flags else s.flags k) :=
  computes_of_perform h (by rw [result_eq, getW_charged, getW_charged, flags_charged])

theorem computes_aluImm (h : s.InStep k) (wd ws : Fin 16) (f : Bool) (r : Word → TResult) :
    s.Computes (s.aluImm k wd ws f r) k 1 wd (r (s.getW k ws)).value (if f then (r (s.getW k ws)).flags else s.flags k) :=
  computes_of_perform h (by rw [result_eq, getW_charged, flags_charged])

theorem computes_shift (h : s.InStep k) (wd ws : Fin 16) (x : Amount) (f : Bool) (r : Word → Nat → TResult) :
    s.Computes (s.perform k 1 false fun s => s.result k wd f (r (s.getW k ws) (s.amount k x))) k 1 wd
      (r (s.getW k ws) (s.amount k x)).value (if f then (r (s.getW k ws) (s.amount k x)).flags else s.flags k) :=
  computes_of_perform h (by rw [result_eq, getW_charged, amount_charged, flags_charged])

/-- An instruction that sets flags alone. -/
theorem computes_flags (h : s.InStep k) {n : Nat} {f : Zone → Zone} {fl : TFlags}
    (hf : f (s.charged k n) = (s.charged k n).setFlags k fl) : s.Computes (s.perform k n false f) k n 0 0 fl :=
  computes_of_perform h (by rw [hf, setW_zero])

/-- An instruction that writes a register and leaves the flags. -/
theorem computes_register (h : s.InStep k) {n : Nat} {f : Zone → Zone} {wd : Fin 16} {v : Word}
    (hf : f (s.charged k n) = (s.charged k n).setW k wd v) : s.Computes (s.perform k n false f) k n wd v (s.flags k) := by
  refine computes_of_perform h (hf.trans ?_)
  rw [← flags_charged s k n, ← flags_setW _ _ wd v, setFlags_flags]

end Step

end Zone

/-! ### Results (R126 to R129) -/

theorem extractLsb'_high (x : BitVec 64) : x.extractLsb' 32 32 = BitVec.ofInt 32 (x.toInt / 2 ^ 32) := by
  rw [← BitVec.toNat_inj, BitVec.extractLsb'_toNat, Nat.shiftRight_eq_div_pow, BitVec.toNat_ofInt, BitVec.toInt_eq_toNat_cond]
  have := x.isLt
  split <;> omega

/-- The high word of the signed product. -/
theorem mulh_signed (a b : Word) : BitVec.ofInt 32 (a.toInt * b.toInt / 4294967296) =
    (a.signExtend 64 * b.signExtend 64).extractLsb' 32 32 := by
  have ha : (a.signExtend 64).toInt = a.toInt := BitVec.toInt_signExtend_of_le (by decide)
  have hb : (b.signExtend 64).toInt = b.toInt := BitVec.toInt_signExtend_of_le (by decide)
  have hla := BitVec.le_toInt a
  have hua := BitVec.toInt_lt (x := a)
  have hlb := BitVec.le_toInt b
  have hub := BitVec.toInt_lt (x := b)
  rw [extractLsb'_high, BitVec.toInt_mul, ha, hb, Int.bmod_eq_of_le]
  · rfl
  · norm_num at *
    nlinarith
  · norm_num at *
    nlinarith

/-- The high word of the unsigned product. -/
theorem mulh_unsigned (a b : Word) : BitVec.ofNat 32 (a.toNat * b.toNat / 4294967296) =
    (a.setWidth 64 * b.setWidth 64).extractLsb' 32 32 := by
  have hlt : a.toNat * b.toNat < 2 ^ 64 := lt_of_lt_of_eq (Nat.mul_lt_mul'' a.isLt b.isLt) (by norm_num)
  have ha : (a.setWidth 64).toNat = a.toNat := BitVec.toNat_setWidth_of_le (by decide)
  have hb : (b.setWidth 64).toNat = b.toNat := BitVec.toNat_setWidth_of_le (by decide)
  rw [← BitVec.toNat_inj, BitVec.extractLsb'_toNat, Nat.shiftRight_eq_div_pow, BitVec.toNat_mul, ha, hb, Nat.mod_eq_of_lt hlt]
  exact BitVec.toNat_ofNat _ _

theorem mulhResult_eq (a b : Word) (u : Bool) : mulhResult a b u =
    plainResult (if u then (a.setWidth 64 * b.setWidth 64).extractLsb' 32 32 else (a.signExtend 64 * b.signExtend 64).extractLsb' 32 32) := by
  unfold mulhResult sval
  rw [mulh_signed, mulh_unsigned]

/-- Of two words with the same rank either is the greater. -/
theorem greater_eq {α : Type} [LinearOrder α] {rank : Word → α} (hr : Function.Injective rank) (a b : Word) :
    (if rank a < rank b then b else a) = if rank a ≤ rank b then b else a := by
  rcases lt_trichotomy (rank a) (rank b) with h | h | h
  · rw [if_pos h, if_pos h.le]
  · rw [hr h, ite_self, ite_self]
  · rw [if_neg h.not_gt, if_neg h.not_ge]

theorem minResult_eq (a b : Word) (u : Bool) :
    minResult a b u = plainResult (if (if u then a.toNat ≤ b.toNat else a.toInt ≤ b.toInt) then a else b) := by
  unfold minResult below sval
  cases u <;> simp only [Bool.false_eq_true, if_true, if_false, decide_eq_true_eq, ← not_le, ite_not]

theorem maxResult_eq (a b : Word) (u : Bool) :
    maxResult a b u = plainResult (if (if u then a.toNat ≤ b.toNat else a.toInt ≤ b.toInt) then b else a) := by
  unfold maxResult below sval
  cases u <;> simp only [Bool.false_eq_true, if_true, if_false, decide_eq_true_eq]
  · rw [greater_eq fun _ _ => BitVec.toInt_inj.mp]
  · rw [greater_eq fun _ _ => BitVec.toNat_inj.mp]

/-- SAT clamps, in whichever order the bounds are taken. -/
theorem satResult_eq (a : Word) (i : Nat) (u : Bool) {r : Int}
    (hr : r = max (if u then 0 else -2 ^ i) (min (if u then 2 ^ (i + 1) - 1 else 2 ^ i - 1) a.toInt)) :
    satResult a i u = resultOf (BitVec.ofInt 32 r) false (decide (r ≠ a.toInt)) := by
  have h1 : (1 : Int) ≤ 2 ^ i := one_le_pow₀ (by decide)
  have h2 : (2 : Int) ^ (i + 1) = 2 * 2 ^ i := by ring
  have he : min (satHigh i u) (max (satLow i u) (sval a)) = r := by
    rw [hr]
    unfold satHigh satLow sval
    cases u
    · simp
      omega
    · simp
      omega
  unfold satResult
  rw [he]
  rfl

/-! ### Instructions that compute (R127 to R132) -/

/-- Settles O16. -/
theorem formatAComputes : Obligations.FormatAComputes := by
  unfold Obligations.FormatAComputes
  refine ⟨?_, ?_, ?_, ?_, ?_, ?_, ?_, ?_, ?_, ?_, ?_, ?_, ?_⟩
  · rintro s k wd ws wt f _ _ h rfl rfl
    exact ⟨_, rfl, Zone.computes_alu h 1 wd ws wt f addResult⟩
  · rintro s k wd ws wt f _ _ h rfl rfl
    exact ⟨_, rfl, Zone.computes_alu h 1 wd ws wt f subResult⟩
  · rintro s k wd ws wt f _ _ h rfl rfl
    exact ⟨_, rfl, Zone.computes_alu h 1 wd ws wt f fun a b => plainResult (a &&& b)⟩
  · rintro s k wd ws wt f _ _ h rfl rfl
    exact ⟨_, rfl, Zone.computes_alu h 1 wd ws wt f fun a b => plainResult (a ||| b)⟩
  · rintro s k wd ws wt f _ _ h rfl rfl
    exact ⟨_, rfl, Zone.computes_alu h 1 wd ws wt f fun a b => plainResult (a ^^^ b)⟩
  · rintro s k wd ws wt f u _ _ h rfl rfl
    exact ⟨_, rfl, Zone.computes_alu h 3 wd ws wt f fun a b => mulResult a b u⟩
  · rintro s k wd ws wt f u _ _ h rfl rfl
    have hc := Zone.computes_alu h 3 wd ws wt f fun a b => mulhResult a b u
    rw [mulhResult_eq] at hc
    exact ⟨_, rfl, hc⟩
  · rintro s k wd ws wt f u _ _ h rfl rfl
    have hc := Zone.computes_alu h 1 wd ws wt f fun a b => minResult a b u
    rw [minResult_eq] at hc
    exact ⟨_, rfl, hc⟩
  · rintro s k wd ws wt f u _ _ h rfl rfl
    have hc := Zone.computes_alu h 1 wd ws wt f fun a b => maxResult a b u
    rw [maxResult_eq] at hc
    exact ⟨_, rfl, hc⟩
  · rintro s k wd ws x f _ _ h rfl rfl
    exact ⟨_, rfl, Zone.computes_shift h wd ws x f shlResult⟩
  · rintro s k wd ws x f _ _ h rfl rfl
    exact ⟨_, rfl, Zone.computes_shift h wd ws x f shrResult⟩
  · rintro s k wd ws x f _ _ h rfl rfl
    exact ⟨_, rfl, Zone.computes_shift h wd ws x f sraResult⟩
  · rintro s k wd ws i f u _ r h rfl hr
    have hc := Zone.computes_aluImm h wd ws f fun a => satResult a i.val u
    rw [satResult_eq _ _ _ hr] at hc
    exact ⟨_, rfl, hc⟩

/-- Two words are equal where their difference is zero, so CMP sets Z as SUB does. -/
theorem subResult_flags (a b : Word) : (subResult a b).flags = ⟨decide (a = b), BitVec.msb (a - b), decide (b.toNat ≤ a.toNat),
    decide (a.toInt - b.toInt < -2147483648 ∨ 2147483647 < a.toInt - b.toInt)⟩ := by
  have hz : decide (a - b = 0#32) = decide (a = b) := decide_eq_decide.mpr sub_eq_zero
  rw [← hz]
  rfl

theorem toInt_immS (m : BitVec 16) : (Zone.immS m).toInt = m.toInt := BitVec.toInt_signExtend_of_le (by decide)

/-- The word of LUI: IMM above zeros (R132). -/
theorem immZ_shift (m : BitVec 16) : Zone.immZ m <<< 16 = m ++ 0#16 := by
  rw [← BitVec.toNat_inj, BitVec.toNat_append, BitVec.toNat_shiftLeft, Zone.immZ, BitVec.toNat_setWidth_of_le (by decide),
    Nat.shiftLeft_eq]
  have := m.isLt
  simp only [BitVec.toNat_ofNat, Nat.zero_mod, Nat.or_zero]
  omega

/-- Settles O17. -/
theorem immediatesAndComparesCompute : Obligations.ImmediatesAndComparesCompute := by
  unfold Obligations.ImmediatesAndComparesCompute
  refine ⟨?_, ?_, ?_, ?_, ?_, ?_, ?_, ?_⟩
  · rintro s k wd ws f m _ h rfl
    refine ⟨_, rfl, ?_⟩
    rw [← toInt_immS]
    exact Zone.computes_aluImm h wd ws f fun a => addResult a (Zone.immS m)
  · rintro s k wd ws f m _ h rfl
    exact ⟨_, rfl, Zone.computes_aluImm h wd ws f fun a => plainResult (a &&& Zone.immZ m)⟩
  · rintro s k wd ws f m _ h rfl
    exact ⟨_, rfl, Zone.computes_aluImm h wd ws f fun a => plainResult (a ||| Zone.immZ m)⟩
  · rintro s k wd ws f m _ h rfl
    exact ⟨_, rfl, Zone.computes_aluImm h wd ws f fun a => plainResult (a ^^^ Zone.immZ m)⟩
  · intro s k wd m h
    exact ⟨_, rfl, Zone.computes_register h (by rw [immZ_shift])⟩
  · rintro s k ws m _ h rfl
    refine ⟨_, rfl, Zone.computes_flags h ?_⟩
    rw [Zone.getW_charged, subResult_flags, toInt_immS]
    rfl
  · rintro s k ws wt _ _ h rfl rfl
    exact ⟨_, rfl, Zone.computes_flags h (by rw [Zone.getW_charged, Zone.getW_charged, subResult_flags])⟩
  · rintro s k ws wt _ _ h rfl rfl
    exact ⟨_, rfl, Zone.computes_flags h (by rw [Zone.getW_charged, Zone.getW_charged]; rfl)⟩

/-! ### Control of a step (R125, R133, R162) -/

/-- The conditions of R125 in a row. -/
theorem TFlags.holds_eq (f : TFlags) (cc : Fin 15) : f.holds cc.val =
    [f.z, !f.z, f.c, !f.c, f.n, !f.n, f.v, !f.v, f.c && !f.z, !f.c || f.z, f.n == f.v, f.n != f.v, !f.z && f.n == f.v,
      f.z || f.n != f.v, true].getD cc.val false := by
  fin_cases cc <;> rfl

/-- Closing a group touches the groups of its keeper alone. -/
theorem Zone.closeGroup_eq (s : Zone) (k : Keeper) : s.closeGroup k = s.setKeeper k { s.keeper k with
    group := [], groups := if (s.keeper k).group = [] then (s.keeper k).groups else (s.keeper k).groups ++ [(s.keeper k).group] } := by
  unfold Zone.closeGroup
  by_cases hg : (s.keeper k).group = []
  · rw [if_pos hg, if_pos hg, ← hg, s.setKeeper_keeper k]
  · rw [if_neg hg, if_neg hg]

/-- Settles O19. -/
theorem skipNopAndEndControlAStep : Obligations.SkipNopAndEndControlAStep := by
  unfold Obligations.SkipNopAndEndControlAStep
  refine ⟨?_, ?_, ?_⟩
  · rintro s k cc n _ h rfl
    refine ⟨_, rfl, ?_⟩
    obtain ⟨hexec, hin, hskip⟩ := id h
    have hz : s.zone.opSkip k cc n = s.zone.setKeeper k { s.zone.keeper k with
        skip := if (s.zone.flags k).holds cc.val then n.val + 1 else 0, cycles := (s.zone.keeper k).cycles + 1,
        index := (s.zone.keeper k).index + 1 } := by
      unfold Zone.opSkip
      rw [Zone.perform_inStep h, Zone.flags_charged]
      cases (s.zone.flags k).holds cc.val <;> simp [Zone.advanced, Zone.charged, hin, hskip]
    beta_reduce
    rw [hz, Zone.keeper_setKeeper, ← TFlags.holds_eq]
    exact ⟨rfl, Zone.getW_congr (by rw [Zone.keeper_setKeeper]), by simp [Zone.flags], rfl, rfl, Zone.setKeeper_frame _ _ _⟩
  · intro s k h
    exact ⟨_, rfl, Zone.computes_flags h (by rw [← Zone.flags_charged s.zone k 1, Zone.setFlags_flags])⟩
  · intro s k h
    refine ⟨_, rfl, ?_⟩
    have hz : s.zone.opEnd k = (((s.zone.charged k 1).closeGroup k).endStep k).advanced k := Zone.perform_inStep h 1 true _
    have hk : s.zone.opEnd k = s.zone.setKeeper k { s.zone.keeper k with
        cycles := (s.zone.keeper k).cycles + 1, group := [], inStep := false, skip := 0,
        groups := if (s.zone.keeper k).group = [] then (s.zone.keeper k).groups else (s.zone.keeper k).groups ++ [(s.zone.keeper k).group] } := by
      rw [hz, Zone.closeGroup_eq]
      simp [Zone.advanced, Zone.charged, Zone.endStep]
    beta_reduce
    rw [hk, Zone.keeper_setKeeper]
    exact ⟨rfl, rfl, rfl, by simp [Zone.flags], rfl, Zone.setKeeper_frame _ _ _⟩

/-! ### Instructions without effect (R116, R133) -/

/-- Command c comes to keeper k as an instruction, END where `last`. -/
def ComesTo (c : Instr) (k : Keeper) (last : Bool) : Prop := ∃ n f, ∀ s : State, exec c s = s.run fun z => z.perform k n last f

section ComesTo

variable {c : Instr} {k : Keeper}

theorem comesTo_alu {n : Nat} {wd ws wt : Fin 16} {f : Bool} {r : Word → Word → TResult}
    (h : ∀ s : State, exec c s = s.run fun z => z.alu k n wd ws wt f r) : ComesTo c k false :=
  ⟨n, fun s => s.result k wd f (r (s.getW k ws) (s.getW k wt)), h⟩

theorem comesTo_aluImm {wd ws : Fin 16} {f : Bool} {r : Word → TResult}
    (h : ∀ s : State, exec c s = s.run fun z => z.aluImm k wd ws f r) : ComesTo c k false :=
  ⟨1, fun s => s.result k wd f (r (s.getW k ws)), h⟩

/-- Every Tamva instruction but END can be passed over by a skip. -/
theorem comesTo_of_tamvaKeeper (h : tamvaKeeper c = some k) (hend : c ≠ .opEnd k) : ComesTo c k false := by
  cases c with
  | opAdd | opSub | opAnd | opOr | opXor | opMul | opMulh | opMin | opMax =>
    cases h
    exact comesTo_alu fun _ => rfl
  | opSat | opAddi | opAndi | opOri | opXori =>
    cases h
    exact comesTo_aluImm fun _ => rfl
  | opEnd =>
    cases h
    exact absurd rfl hend
  | _ =>
    cases h <;> exact ⟨_, _, fun _ => rfl⟩

theorem comesTo_opEnd : ComesTo (.opEnd k) k true := ⟨_, _, fun _ => rfl⟩

end ComesTo

/-- Settles O20. -/
theorem skippedInstructionsHaveNoEffect : Obligations.SkippedInstructionsHaveNoEffect := by
  unfold Obligations.SkippedInstructionsHaveNoEffect
  refine ⟨?_, ?_⟩
  · intro s c k hc hend hexec hin hskip
    obtain ⟨n, f, hrun⟩ := comesTo_of_tamvaKeeper hc hend
    exact ⟨_, hrun s, Zone.perform_skipped hexec hin hskip n f⟩
  · intro s c k hc hexec
    have hcomes : ∃ last, ComesTo c k last := by
      by_cases hend : c = .opEnd k
      · exact ⟨true, hend ▸ comesTo_opEnd⟩
      · exact ⟨false, comesTo_of_tamvaKeeper hc hend⟩
    obtain ⟨last, n, f, hrun⟩ := hcomes
    exact ⟨_, hrun s, Zone.perform_of_not_executes hexec n last f⟩

end Sys2Proof.Machine
end

