-- ==== Sys2Proof/Proofs/KeeperFailures.lean ====
section
/-! SUPPORT. Keepers that fail (R120, R212, R213, R215, R216, R635): what a verdict, a self-check failure and a fence change, and when
KEEPER_BOTH is reported (O24). -/

namespace Sys2Proof.Machine

open Reg

set_option Elab.async false

namespace Zone

/-! ### Verdicts -/

section Verdicts

variable {s z : Zone} {k : Keeper} {t : Option Nat}

theorem setVerdict_eq : s.setVerdict k t = { s with safety := (s.setVerdict k t).safety } := by cases k <;> rfl

theorem setVerdict_keeper (j : Keeper) : (s.setVerdict k t).keeper j = s.keeper j := by
  rw [setVerdict_eq]
  cases j <;> rfl

theorem fld_setVerdict (p : Nat) (f : Fld) : (s.setVerdict k t).fld p f = s.fld p f := by rw [setVerdict_eq, fld_set_safety]

theorem setVerdict_safety_congr (h : z.safety = s.safety) : (z.setVerdict k t).safety = (s.setVerdict k t).safety := by
  cases k <;> simp only [setVerdict, h]

theorem Frame.setVerdict {words ps} (h : s.Frame words ps z) (hp : .safety ∈ ps) : s.Frame words ps (z.setVerdict k t) := by
  rw [setVerdict_eq]
  exact h.parts rfl rfl (SameParts.safety hp)

end Verdicts

/-! ### A keeper that is out (R216) -/

section Out

variable {s z : Zone} {k : Keeper}

/-- Keeper k cannot hold the watch (R216). -/
def IsOut (s : Zone) (k : Keeper) : Prop :=
  s.role k = Role.stopped ∨ s.role k = Role.failed ∨ s.role k = Role.fenced ∨ s.fencedNow k = true

theorem isOut_iff : s.IsOut k ↔ (s.keeperDown k || decide (s.role k = Role.stopped)) = true := by
  simp only [IsOut, keeperDown, Bool.or_eq_true, decide_eq_true_eq]
  tauto

/-- The condition of `checkBoth`, from the side of either keeper. -/
theorem both_out_iff (k : Keeper) : (s.IsOut k ∧ s.IsOut k.other) ↔ ((s.keeperDown .A || decide (s.role .A = Role.stopped)) &&
    (s.keeperDown .B || decide (s.role .B = Role.stopped))) = true := by
  rw [Bool.and_eq_true, ← isOut_iff, ← isOut_iff]
  cases k with
  | A => rfl
  | B => exact and_comm

/-- KEEPER_BOTH is not reported while the other keeper can hold the watch, and once until the next START (R216). -/
theorem checkBoth_quiet (k : Keeper) (h : s.IsOut k.other → s.safety.latched.getLsbD 1 = true) : s.checkBoth = s := by
  refine if_neg fun hc => ?_
  rw [Bool.and_eq_true, Bool.not_eq_true'] at hc
  obtain ⟨hout, hlatch⟩ := hc
  obtain ⟨-, hother⟩ := (both_out_iff k).mpr hout
  exact Bool.false_ne_true (hlatch.symm.trans (h hother))

theorem checkBoth_reports (hk : s.IsOut k) (ho : s.IsOut k.other) (hl : s.safety.latched.getLsbD 1 = false) :
    s.checkBoth = { s with safety := { s.safety with
      latched := s.safety.latched ||| 2#32, reports := s.safety.reports ++ [⟨1, 0, false, s.mono, s.ts64⟩] } } := by
  refine (if_pos ?_).trans rfl
  rw [Bool.and_eq_true, Bool.not_eq_true']
  exact ⟨(both_out_iff k).mp ⟨hk, ho⟩, hl⟩

/-- Whether a keeper is out lies in its role and its fence. -/
theorem isOut_congr (hr : z.role k = s.role k) (hf : z.fencedNow k = s.fencedNow k) : z.IsOut k ↔ s.IsOut k := by
  unfold IsOut
  rw [hr, hf]

/-- An effect on the page of one keeper and on SAFE does not put the other keeper out. -/
theorem Frame.isOut_other {words ps} (h : s.Frame words ps z) (hr : pKEEPER k.other + KEEPER.KSTATUS_ROLE.off ∉ words)
    (hf : pKEEPER k.other + KEEPER.FENCE_FENCED.off ∉ words) : z.IsOut k.other ↔ s.IsOut k.other :=
  isOut_congr (h.fld hr) (h.flag hf)

end Out

/-! ### Self-check failures (R212, R213) -/

section Failures

variable {s z : Zone} {k : Keeper} {c : Nat}

/-- What a self-check failure with cause c makes of keeper k, its report included. -/
def failing (s : Zone) (k : Keeper) (c : Nat) : Zone :=
  let t := (s.setRole k Role.failed).setFld (pKEEPER k) KEEPER.SELF_CHECK_CAUSE c
  let t := (t.setKeeper k { t.keeper k with inStep := false, group := [] }).setVerdict k (some t.mono)
  t.report Src.keeperFail (t.keeperDetail k)

/-- The words of a keeper that a self-check failure sets. -/
def failureWords (k : Keeper) : List Nat := [pKEEPER k + KEEPER.KSTATUS_ROLE.off, pKEEPER k + KEEPER.SELF_CHECK_CAUSE.off]

/-- The effect of a self-check failure beside its reports. -/
structure Fails (s z : Zone) (k : Keeper) (c : Nat) : Prop where
  cause : z.fld (pKEEPER k) KEEPER.SELF_CHECK_CAUSE = c
  role : z.role k = Role.failed
  inStep : (z.keeper k).inStep = false
  group : (z.keeper k).group = []
  other : z.keeper k.other = s.keeper k.other
  frame : s.Frame (failureWords k) [.keeperA, .keeperB, .safety] z

theorem Fails.set_safety {x : SafetySt} (h : s.Fails z k c) : s.Fails { z with safety := x } k c where
  cause := h.cause
  role := h.role
  inStep := by cases k <;> exact h.inStep
  group := by cases k <;> exact h.group
  other := by cases k <;> exact h.other
  frame := h.frame.parts rfl rfl (SameParts.safety (by decide))

theorem setRole_setCause_fld (hc : c < 256) :
    ((s.setRole k Role.failed).setFld (pKEEPER k) KEEPER.SELF_CHECK_CAUSE c).fld (pKEEPER k) KEEPER.SELF_CHECK_CAUSE = c :=
  (fld_setFld_same _ _ _ _ (by decide)).trans (Nat.mod_eq_of_lt hc)

theorem fld_setKeeper (j : Keeper) (x : KeeperSt) (p : Nat) (f : Fld) : (s.setKeeper j x).fld p f = s.fld p f := by
  cases j <;> rfl

theorem failing_fails (hc : c < 256) : s.Fails (s.failing k c) k c where
  cause := by
    refine (fld_set_safety _ _ _ _).trans ?_
    rw [fld_setVerdict, fld_setKeeper, setRole_setCause_fld hc]
  role := by
    refine (fld_set_safety _ _ _ _).trans ?_
    rw [fld_setVerdict, fld_setKeeper, fld_setFld_ne _ _ _ _ _ _ (by cases k <;> decide)]
    exact role_setRole_same _ _ _
  inStep := by cases k <;> rfl
  group := by cases k <;> rfl
  other := by cases k <;> rfl
  frame := by
    refine Frame.report (Frame.setVerdict (Frame.setKeeper ?_ (by decide) (by decide)) (by decide)) (by decide)
    exact (Frame.refl.setFld List.mem_cons_self).setFld (List.mem_cons_of_mem _ List.mem_cons_self)

theorem failing_safety (hc : c < 256) : (s.failing k c).safety = { (s.setVerdict k (some s.mono)).safety with
    reports := s.safety.reports ++ [⟨0, BitVec.ofNat 32 (k.idx + c * 256), false, s.mono, s.ts64⟩] } := by
  have hd := (s.failing_fails (k := k) hc).cause
  unfold failing keeperDetail at *
  dsimp only at *
  have hd' := (fld_set_safety _ _ _ _).symm.trans hd
  rw [hd']
  cases k <;> rfl

/-- The other keeper is out after the failure where it was before it. -/
theorem Fails.isOut_other (h : s.Fails z k c) : z.IsOut k.other ↔ s.IsOut k.other :=
  h.frame.isOut_other (by cases k <;> decide) (by cases k <;> decide)

theorem selfCheck_failing (h : s.role k ≠ Role.stopped ∧ s.role k ≠ Role.failed ∧ s.role k ≠ Role.fenced) :
    s.selfCheck k c = (s.failing k c).checkBoth :=
  if_neg fun hr => by
    obtain ⟨hs, hf, hn⟩ := h
    obtain hr | hr | hr := hr
    · exact hs hr
    · exact hf hr
    · exact hn hr

theorem failing_latched : (s.failing k c).safety.latched = s.safety.latched := by cases k <;> rfl

end Failures

/-! ### Fences (R215) -/

section Fences

variable {s z : Zone} {k : Keeper}

/-- What a fence makes of keeper k. -/
def fencing (s : Zone) (k : Keeper) : Zone :=
  let t := (s.setFld (pKEEPER k) KEEPER.FENCE_FENCED 1).setRole k Role.fenced
  t.setKeeper k { t.keeper k with fenceAt := some t.mono, line := none, sent := none, inStep := false, group := [] }

/-- The words of a keeper that a fence sets. -/
def fenceWords (k : Keeper) : List Nat := [pKEEPER k + KEEPER.FENCE_FENCED.off, pKEEPER k + KEEPER.KSTATUS_ROLE.off]

theorem fencing_frame : s.Frame (fenceWords k) [.keeperA, .keeperB] (s.fencing k) :=
  ((Frame.refl.setFld List.mem_cons_self).setFld (List.mem_cons_of_mem _ List.mem_cons_self)).setKeeper (by decide) (by decide)

theorem fencing_fenced : (s.fencing k).fencedNow k = true := by
  unfold fencing fencedNow flag
  dsimp only
  rw [fld_setKeeper, setRole, fld_setFld_ne _ _ _ _ _ _ (by cases k <;> decide), fld_setFld_same _ _ _ _ (by decide)]
  rfl

theorem fencing_role : (s.fencing k).role k = Role.fenced := by
  unfold fencing role
  dsimp only
  rw [fld_setKeeper]
  exact role_setRole_same _ _ _

theorem fencing_keeper : (s.fencing k).keeper k =
    { s.keeper k with fenceAt := some s.mono, line := none, sent := none, inStep := false, group := [] } := by
  cases k <;> rfl

theorem fencing_other : (s.fencing k).keeper k.other = s.keeper k.other := by cases k <;> rfl

theorem fencing_isOut_other : (s.fencing k).IsOut k.other ↔ s.IsOut k.other :=
  fencing_frame.isOut_other (by cases k <;> decide) (by cases k <;> decide)

theorem fence_fencing (h : s.fencedNow k = false) : s.fence k = (s.fencing k).checkBoth := if_neg (by simp [h])

/-- A fence whose KEEPER_BOTH is not due. -/
theorem fence_quiet (h : s.fencedNow k = false) (hb : s.IsOut k.other → s.safety.latched.getLsbD 1 = true) :
    s.fence k = s.fencing k := by
  rw [fence_fencing h]
  refine checkBoth_quiet k fun ho => ?_
  rw [fencing_frame.part .safety (by decide)]
  exact hb (fencing_isOut_other.mp ho)

/-- What hard isolation makes of keeper k. -/
def isolated (s : Zone) (k : Keeper) : Zone :=
  let t := (s.setFld (pKEEPER k) KEEPER.FENCE_HARD 1).confirmFence k
  t.report Src.fenceHard (t.keeperDetail k)

theorem isolated_isolates : (s.isolated k).flag (pKEEPER k) KEEPER.FENCE_HARD = true ∧
    (s.isolated k).flag (pKEEPER k) KEEPER.FENCE_CONFIRMED = true ∧
    s.Reports (s.isolated k) 27 (BitVec.ofNat 32 (k.idx + s.fld (pKEEPER k) KEEPER.SELF_CHECK_CAUSE * 256)) ∧
    s.Frame [pKEEPER k + KEEPER.FENCE_HARD.off, pKEEPER k + KEEPER.FENCE_CONFIRMED.off] [.safety] (s.isolated k) := by
  have hframe : s.Frame [pKEEPER k + KEEPER.FENCE_HARD.off, pKEEPER k + KEEPER.FENCE_CONFIRMED.off] []
      ((s.setFld (pKEEPER k) KEEPER.FENCE_HARD 1).confirmFence k) :=
    (Frame.refl.setFld List.mem_cons_self).setFld (List.mem_cons_of_mem _ List.mem_cons_self)
  have hdetail : ((s.setFld (pKEEPER k) KEEPER.FENCE_HARD 1).confirmFence k).keeperDetail k = s.keeperDetail k := by
    unfold keeperDetail
    rw [hframe.fld (by cases k <;> decide)]
  unfold isolated
  dsimp only
  rw [hdetail, flag_report, flag_report]
  exact ⟨(flag_setFld_ne _ _ _ _ _ _ (by cases k <;> decide)).trans (flag_event_same _ _ _ (by decide) (by decide)),
    flag_event_same _ _ _ (by decide) (by decide), rfl, (hframe.mono (List.Subset.refl _) (List.nil_subset _)).report List.mem_cons_self⟩

theorem fencedNow_setVerdict {j : Keeper} {t : Option Nat} : (s.setVerdict k t).fencedNow j = s.fencedNow j := by
  unfold fencedNow flag
  rw [fld_setVerdict]

theorem latched_setVerdict {t : Option Nat} : (s.setVerdict k t).safety.latched = s.safety.latched := by cases k <;> rfl

theorem isOut_setVerdict {j : Keeper} {t : Option Nat} : (s.setVerdict k t).IsOut j ↔ s.IsOut j :=
  isOut_congr (fld_setVerdict _ _) fencedNow_setVerdict

/-- The monitor fences keeper k, counts it and drops the verdict (R635). -/
def monitorFencing (s : Zone) (k : Keeper) : Zone := ((s.setVerdict k none).fencing k).count pSAFE SAFE0.MISC_COUNTS_MONITOR_FENCES

/-- The words that the monitor's fence on keeper k sets. -/
def monitorWords (k : Keeper) : List Nat :=
  [pKEEPER k + KEEPER.FENCE_FENCED.off, pKEEPER k + KEEPER.KSTATUS_ROLE.off, pSAFE + SAFE0.MISC_COUNTS_MONITOR_FENCES.off]

theorem monitorFencing_count_frame :
    ((s.setVerdict k none).fencing k).Frame [pSAFE + SAFE0.MISC_COUNTS_MONITOR_FENCES.off] [] (s.monitorFencing k) :=
  Frame.refl.count List.mem_cons_self

theorem monitorFencing_fenced : (s.monitorFencing k).fencedNow k = true :=
  (monitorFencing_count_frame.flag (by cases k <;> decide)).trans fencing_fenced

theorem monitorFencing_role : (s.monitorFencing k).role k = Role.fenced :=
  (monitorFencing_count_frame.fld (by cases k <;> decide)).trans fencing_role

theorem monitorFencing_keeper : (s.monitorFencing k).keeper k =
    { s.keeper k with fenceAt := some s.mono, line := none, sent := none, inStep := false, group := [] } := by
  cases k <;> rfl

theorem monitorFencing_other : (s.monitorFencing k).keeper k.other = s.keeper k.other := by cases k <;> rfl

theorem monitorFencing_safety : (s.monitorFencing k).safety = (s.setVerdict k none).safety := by cases k <;> rfl

theorem monitorFencing_counts : (s.monitorFencing k).fld pSAFE SAFE0.MISC_COUNTS_MONITOR_FENCES =
    min (s.fld pSAFE SAFE0.MISC_COUNTS_MONITOR_FENCES + 1) 0xFF := by
  refine (fld_count_same _ _ _ (by decide)).trans ?_
  rw [fencing_frame.fld (by cases k <;> decide), fld_setVerdict]
  rfl

theorem monitorFencing_frame : s.Frame (monitorWords k) [.keeperA, .keeperB, .safety] (s.monitorFencing k) := by
  have hfence := (fencing_frame (s := s.setVerdict k none) (k := k)).mono (words' := monitorWords k)
    (ps' := [.keeperA, .keeperB, .safety]) (by simp [fenceWords, monitorWords]) (by simp)
  exact ((Frame.refl.setVerdict (by decide)).trans hfence).count (by simp [monitorWords])

end Fences

/-! ### Self-check failures and KEEPER_BOTH -/

/-- A self-check failure whose KEEPER_BOTH is not due. -/
theorem selfCheck_quiet {s : Zone} {k : Keeper} {c : Nat} (hc : c < 256)
    (h : s.role k ≠ Role.stopped ∧ s.role k ≠ Role.failed ∧ s.role k ≠ Role.fenced)
    (hb : s.IsOut k.other → s.safety.latched.getLsbD 1 = true) : s.selfCheck k c = s.failing k c := by
  rw [selfCheck_failing h]
  refine checkBoth_quiet k fun ho => ?_
  rw [failing_latched]
  exact hb ((failing_fails hc).isOut_other.mp ho)

/-- A self-check failure that leaves no keeper for the watch. -/
theorem selfCheck_both {s : Zone} {k : Keeper} {c : Nat} (hc : c < 256)
    (h : s.role k ≠ Role.stopped ∧ s.role k ≠ Role.failed ∧ s.role k ≠ Role.fenced) (ho : s.IsOut k.other)
    (hl : s.safety.latched.getLsbD 1 = false) : s.selfCheck k c = { s.failing k c with safety :=
      { (s.setVerdict k (some s.mono)).safety with
        latched := s.safety.latched ||| 2#32
        reports := s.safety.reports ++
          [⟨0, BitVec.ofNat 32 (k.idx + c * 256), false, s.mono, s.ts64⟩, ⟨1, 0, false, s.mono, s.ts64⟩] } } := by
  have hf := failing_fails (s := s) (k := k) hc
  have hts : (s.failing k c).ts64 = s.ts64 := by cases k <;> rfl
  have hmono : (s.failing k c).mono = s.mono := by cases k <;> rfl
  rw [selfCheck_failing h, checkBoth_reports (.inr (.inl hf.role)) (hf.isOut_other.mpr ho) (by rwa [failing_latched])]
  refine congrArg (fun x : SafetySt => { s.failing k c with safety := x }) ?_
  rw [failing_latched, hmono, hts, failing_safety hc]
  simp only [List.append_assoc, List.cons_append, List.nil_append]

/-- Before its time nothing is due. -/
theorem past_eq_false {s : Zone} {t n : Nat} (h : s.mono < t + n) : s.past t n = false := by
  simp [past, h]

end Zone

/-! ### The statement -/

/-- A command of the logic whose effect is nothing changes nothing, whether the logic runs or not. -/
theorem completes_idle {c : Instr} {s : State} {f : Zone → Zone} (hrun : exec c s = s.runOn f)
    (hf : s.zone.logicRuns = true → f s.zone = s.zone) : Completes c s fun z => s.zone.Frame [] [] z := by
  refine ⟨s.zone, ?_, .refl⟩
  cases hl : s.zone.logicRuns with
  | true => rw [hrun, State.runOn_runs s f hl, hf hl]
  | false => rw [hrun, State.runOn_rests s f hl]

/-- A command of the logic that runs. -/
theorem completes_runOn {c : Instr} {s : State} {f : Zone → Zone} {P : Zone → Prop} (hrun : exec c s = s.runOn f)
    (hl : s.zone.logicRuns = true) (hP : P (f s.zone)) : Completes c s P :=
  ⟨f s.zone, hrun.trans (State.runOn_runs s f hl), hP⟩

/-- Settles O24. -/
theorem keeperFailuresAreFencedAndReported : Obligations.KeeperFailuresAreFencedAndReported := by
  unfold Obligations.KeeperFailuresAreFencedAndReported
  refine ⟨?_, ?_, ?_, ?_, ?_, ?_, ?_, ?_, ?_, ?_, ?_⟩
  · intro s k c hl hr hb
    have hc : c.val + 1 < 256 := by omega
    have hf := Zone.failing_fails (s := s.zone) (k := k) hc
    refine completes_runOn (rfl : execSelfCheckFailure k c s = _) hl ?_
    rw [Zone.selfCheck_quiet hc hr hb]
    exact ⟨hf.cause, Zone.failing_safety hc, hf.role, hf.inStep, hf.group, hf.other, hf.frame⟩
  · intro s k c hl hr ho hlatch
    have hc : c.val + 1 < 256 := by omega
    refine completes_runOn (rfl : execSelfCheckFailure k c s = _) hl ?_
    rw [Zone.selfCheck_both hc hr ho hlatch]
    have hf := Zone.Fails.set_safety (x := (s.zone.selfCheck k (c.val + 1)).safety) (Zone.failing_fails (s := s.zone) (k := k) hc)
    rw [Zone.selfCheck_both hc hr ho hlatch] at hf
    exact ⟨hf.cause, rfl, hf.role, hf.inStep, hf.group, hf.other, hf.frame⟩
  · intro s k c h
    refine completes_idle (rfl : execSelfCheckFailure k c s = _) fun hl => if_pos (h.resolve_left ?_)
    simp [hl]
  · intro s k hl he hb
    have hrole : 2 ≤ s.zone.role k ∧ s.zone.role k ≤ 4 := of_decide_eq_true he
    have hr : s.zone.role k ≠ Role.stopped ∧ s.zone.role k ≠ Role.failed ∧ s.zone.role k ≠ Role.fenced := by
      refine ⟨fun e => ?_, fun e => ?_, fun e => ?_⟩ <;> rw [e] at hrole <;> exact absurd hrole (by decide)
    have hf := Zone.failing_fails (s := s.zone) (k := k) (c := 3) (by decide)
    refine completes_runOn (rfl : execBudgetOverrun k s = _) hl ?_
    rw [if_pos he, Zone.selfCheck_quiet (by decide) hr hb]
    exact ⟨hf.cause, Zone.failing_safety (by decide), hf.role, hf.inStep, hf.group, hf.other, hf.frame⟩
  · intro s k he
    exact completes_idle (rfl : execBudgetOverrun k s = _) fun _ => if_neg (by simp [he])
  · intro s k hl hf hconf
    refine completes_runOn (rfl : execFenceConfirm k s = _) hl ?_
    rw [if_pos ⟨hf, hconf⟩]
    exact ⟨Zone.flag_event_same _ _ _ (by decide) (by decide), Zone.flag_setFld_ne _ _ _ _ _ _ (by cases k <;> decide),
      Zone.Frame.refl.setFld List.mem_cons_self⟩
  · intro s k hf
    exact completes_idle (rfl : execFenceConfirm k s = _) fun _ => if_neg (by simp [hf])
  · intro s k t hl ht hf hconf hp
    refine completes_runOn (rfl : execHardIsolation k s = _) hl ?_
    rw [ht]
    dsimp only
    rw [if_pos ⟨hf, hconf, decide_eq_true hp⟩]
    exact Zone.isolated_isolates
  · intro s k ht
    refine completes_idle (rfl : execHardIsolation k s = _) fun _ => ?_
    cases he : (s.zone.keeper k).fenceAt with
    | none => rfl
    | some t => exact if_neg (by simp [Zone.past_eq_false (n := 10 * Zone.ticksPerUs) (ht t he)])
  · intro s k t hl hv hp hconf hf hb
    refine completes_runOn (rfl : execMonitorFence k s = _) hl ?_
    rw [hv]
    dsimp only
    rw [if_pos ⟨decide_eq_true hp, hconf⟩]
    rw [Zone.fence_quiet (Zone.fencedNow_setVerdict.trans hf) fun ho => by
      rw [Zone.latched_setVerdict]
      exact hb (Zone.isOut_setVerdict.mp ho)]
    have hk := Zone.monitorFencing_keeper (s := s.zone) (k := k)
    exact ⟨Zone.monitorFencing_fenced, Zone.monitorFencing_role, congrArg KeeperSt.fenceAt hk, congrArg KeeperSt.line hk,
      congrArg KeeperSt.sent hk, congrArg KeeperSt.inStep hk, Zone.monitorFencing_safety, Zone.monitorFencing_counts,
      Zone.monitorFencing_other, Zone.monitorFencing_frame⟩
  · intro s k ht
    refine completes_idle (rfl : execMonitorFence k s = _) fun _ => ?_
    cases he : s.zone.verdict k with
    | none => rfl
    | some t => exact if_neg (by simp [Zone.past_eq_false (n := 10 * Zone.ticksPerUs) (ht t he)])

end Sys2Proof.Machine
end

