-- ==== Sys2Proof/Proofs/FaultRecordLost.lean ====
section
/-! SUPPORT. An execution fault whose module record is lost, which refutes O21 and O22: the fault posts a record (R164), and the logbook
counts one that finds no room in bank 10 (R577). -/

namespace Sys2Proof.Machine

open Reg

set_option Elab.async false

/-- In SERVICE keeper A holds the watch and is in a step with 1024 in W1, and 256 module records wait for the logbook. -/
def recordsFull : Zone :=
  { Zone.reset with
    regs := [(0, 3), (0x1000, 3)]
    records := List.replicate 256 ⟨0x20, Zone.reset.slotStamp .A, [], true⟩
    keeperA := { KeeperSt.init with inStep := true, runs := some false, half0 := some emptyRound, w := [(1, 1024)] } }

theorem recordsFull_inStep : recordsFull.InStep .A := by decide +kernel

theorem recordsFull_lost : recordsFull.fld pLOG LOG0.LOG_COUNTS_MODULE_LOST = 0 := by decide +kernel

/-- CWRX into the page of load 0 with an index past 1023 loses the record of its fault. -/
theorem recordsFull_cwrx_lost : (recordsFull.opCwrx .A 0 1 ⟨1, 0⟩).fld pLOG LOG0.LOG_COUNTS_MODULE_LOST = 1 := by decide +kernel

/-- CHKT of a ticket past 127 loses the record of its fault. -/
theorem recordsFull_chkt_lost : (recordsFull.opChkt .A (.reg 1)).fld pLOG LOG0.LOG_COUNTS_MODULE_LOST = 1 := by decide +kernel

/-- No effect on bank 0 alone loses a record. -/
theorem not_bankFrame_of_lost {z : Zone} {ps : List Part} (hz : z.fld pLOG LOG0.LOG_COUNTS_MODULE_LOST = 1) :
    ¬ recordsFull.BankFrame [0] ps z := fun h =>
  absurd (hz.symm.trans ((h.fld (by decide)).trans recordsFull_lost)) (by decide)

/-- Refutes O21: a fault of CWRX changes more than bank 0, for the record that it posts can be lost, which LOG_COUNTS of bank 10
counts. -/
theorem not_channelAccessReadsAndWritesWords : ¬ Obligations.ChannelAccessReadsAndWritesWords := by
  unfold Obligations.ChannelAccessReadsAndWritesWords
  rintro ⟨-, -, -, -, -, -, -, -, hcwrx, -⟩
  have hruns : Completes (.opCwrx .A 0 1 ⟨1, 0⟩) ⟨[], recordsFull⟩ (· = recordsFull.opCwrx .A 0 1 ⟨1, 0⟩) := ⟨_, rfl, rfl⟩
  obtain ⟨-, -, -, hframe⟩ :=
    (hcwrx ⟨[], recordsFull⟩ .A 0 1 ⟨1, 0⟩ recordsFull_inStep (by decide +kernel) (by decide +kernel)).result hruns
  exact not_bankFrame_of_lost recordsFull_cwrx_lost hframe

/-- Refutes O22: a fault of CHKT changes more than bank 0, for the record that it posts can be lost, which LOG_COUNTS of bank 10
counts. -/
theorem not_ticketsAreIssuedExaminedAndRead : ¬ Obligations.TicketsAreIssuedExaminedAndRead := by
  unfold Obligations.TicketsAreIssuedExaminedAndRead
  rintro ⟨-, -, -, -, -, -, -, hchkt, -⟩
  have hruns : Completes (.opChkt .A (.reg 1)) ⟨[], recordsFull⟩ (· = recordsFull.opChkt .A (.reg 1)) := ⟨_, rfl, rfl⟩
  obtain ⟨-, -, -, hframe⟩ := (hchkt ⟨[], recordsFull⟩ .A 1 recordsFull_inStep (by decide +kernel)).result hruns
  exact not_bankFrame_of_lost recordsFull_chkt_lost hframe

end Sys2Proof.Machine
end

