-- ==== Sys2Proof/Proofs/QueueLevelShown.lean ====
section
/-! SUPPORT. A QPOP that takes the last word of a request queue, which refutes O23: HINGE.2 shows the level of the queue (R563). -/

namespace Sys2Proof.Machine

open Reg

set_option Elab.async false

/-- A table whose one queue is request queue 0, bound to the SECURE side. -/
def oneQueueTable : Table := { emptyRound with queues := [⟨false, 0, ⟨.secure, 4, 8⟩⟩] }

/-- In SERVICE keeper A holds the watch and is in a step of this table, and one word of an earlier slot lies in request queue 0. -/
def oneWordQueued : Zone :=
  { Zone.reset with
    regs := [(0, 3), (0x1000, 3)]
    keeperSlots := 1
    keeperA := { KeeperSt.init with inStep := true, runs := some false, half0 := some oneQueueTable } }.setReqQ 0
  { ReqQueue.init with bind := some ⟨.secure, 4, 8⟩, words := [⟨7, 0⟩] }

theorem oneWordQueued_inStep : oneWordQueued.InStep .A := by decide +kernel

theorem oneWordQueued_unread : oneWordQueued.unread .A 0 = [⟨7, 0⟩] := by decide +kernel

theorem oneWordQueued_level : oneWordQueued.fld (pHINGE 2) (Zone.reqFld 0 0 13) = 1 := by decide +kernel

theorem oneWordQueued_qpop_level : (oneWordQueued.opQpop .A 1 0).fld (pHINGE 2) (Zone.reqFld 0 0 13) = 0 := by decide +kernel

/-- Refutes O23: QPOP changes a register word, the one of HINGE.2 that shows the level of the queue. -/
theorem not_queuesTimeAndEventsOfATable : ¬ Obligations.QueuesTimeAndEventsOfATable := by
  unfold Obligations.QueuesTimeAndEventsOfATable
  rintro ⟨hqpop, -⟩
  have hruns : Completes (.opQpop .A 1 0) ⟨[], oneWordQueued⟩ (· = oneWordQueued.opQpop .A 1 0) := ⟨_, rfl, rfl⟩
  obtain ⟨-, -, -, -, hframe⟩ := (hqpop ⟨[], oneWordQueued⟩ .A 1 0 ⟨7, 0⟩ [] oneWordQueued_inStep oneWordQueued_unread).result hruns
  have hlevel := hframe.fld (p := pHINGE 2) (f := Zone.reqFld 0 0 13) List.not_mem_nil
  exact absurd (oneWordQueued_qpop_level.symm.trans (hlevel.trans oneWordQueued_level)) (by decide)

end Sys2Proof.Machine
end

