-- ==== Sys2Proof/Proofs/SilentStageEndsDiagnosis.lean ====
section
/-! SUPPORT. A load stage that turns silent while its channel runs an OFF_DIAG, which refutes O25: the safe state is a request, and a
REQUEST_ON ends the operation with ABORT (R269, R273). -/

namespace Sys2Proof.Machine

open Reg

set_option Elab.async false

/-- In SERVICE the stage of load 0 has heard no valid beacon for 1,000 µs; load 0 is OFF with an OFF_DIAG running under ticket 0 of
keeper A, and its safe state is ON. -/
def diagnosisUnderway : Zone :=
  ({ Zone.reset with
      mono := 250000
      regs := [(0, 3), (0x1000, 3)]
      stages := [(0, { StageSt.init with lastHeard := some 0 })]
      loads := [(0, { LoadSt.init with offDiag := some ⟨⟨.A, 0, 1⟩, false, 500000⟩ })] }.setTicket .A 0
    { state := .issued, serial := 1, issueSlot := 0, issueTick := 240000, status := 0, age := 0, value := 0 }).setFld
  (pLOAD 0) LOAD.CH_CFG_SAFE 1

/-- Load 0 enters its safe state, after the stage is marked and reported silent. -/
def diagnosisEnded : Zone :=
  ((diagnosisUnderway.setStage 0 { diagnosisUnderway.stage 0 with silent := true }).report Src.stageSilent 0).loadSilent 0

theorem diagnosisUnderway_heard : (diagnosisUnderway.stage 0).lastHeard = some 0 := by decide +kernel

theorem diagnosisUnderway_due : ((diagnosisUnderway.stage 0).silent || !diagnosisUnderway.past 0 (1000 * Zone.ticksPerUs) ||
    diagnosisUnderway.mode == .test || decide (3 ≤ diagnosisUnderway.sleep.phase)) = false := by decide +kernel

theorem diagnosisUnderway_silent : Completes (.stageSilent 0) ⟨[], diagnosisUnderway⟩ (· = diagnosisEnded) := by
  refine completes_runOn (rfl : execStageSilent 0 _ = _) (by decide +kernel) ?_
  dsimp only [Fin.val_zero]
  rw [diagnosisUnderway_heard]
  dsimp only
  rw [diagnosisUnderway_due]
  rfl

theorem diagnosisUnderway_ticket : (diagnosisUnderway.ticket .A 0).state = .issued := by decide +kernel

theorem diagnosisEnded_ticket : (diagnosisEnded.ticket .A 0).state = .done := by decide +kernel

/-- Refutes O25: a load stage that turns silent can end the ticket of an OFF_DIAG, for the safe state is a request. -/
theorem not_ticketsCompleteAndTimeOut : ¬ Obligations.TicketsCompleteAndTimeOut := by
  unfold Obligations.TicketsCompleteAndTimeOut
  rintro ⟨-, -, -, -, hsilent, -⟩
  obtain ⟨-, -, -, -, -, -, -, hframe, -⟩ := (hsilent ⟨[], diagnosisUnderway⟩ 0 0 (by decide +kernel) (by decide +kernel)
    (by decide +kernel) (by decide +kernel) (by decide +kernel) (by decide +kernel)).result diagnosisUnderway_silent
  have htickets : diagnosisEnded.tickets = diagnosisUnderway.tickets := (hframe (by decide)).part .tickets (by decide)
  have hticket : diagnosisEnded.ticket .A 0 = diagnosisUnderway.ticket .A 0 := by
    unfold Zone.ticket
    rw [htickets]
  have hstate := diagnosisEnded_ticket.symm.trans ((congrArg Ticket.state hticket).trans diagnosisUnderway_ticket)
  exact absurd hstate (by decide)

end Sys2Proof.Machine
end

