-- ==== Sys2Proof/Proofs/QueueOperations.lean ====
section
/-! SUPPORT. The request and event queues of H2: what replacing a queue, a refused access and a notice show and leave unchanged, and
what a word posted to a request queue does, case by case (R176 to R182, R549 to R553). -/

namespace Sys2Proof.Machine

open Reg

namespace Zone

variable {s z : Zone} {words : List Nat} {ps : List Part} {q : Nat}

/-! ### Updates of one part -/

theorem SameParts.reqQs {x} (h : .reqQs ∈ ps) : s.SameParts ps { s with reqQs := x } := fun p hn => by
  cases p <;> simp_all [Part.Same]

theorem SameParts.evtQs {x} (h : .evtQs ∈ ps) : s.SameParts ps { s with evtQs := x } := fun p hn => by
  cases p <;> simp_all [Part.Same]

theorem SameParts.imsic {x} (h : .imsic ∈ ps) : s.SameParts ps { s with imsic := x } := fun p hn => by
  cases p <;> simp_all [Part.Same]

/-! ### Replacing a queue -/

@[simp] theorem reqQ_setReqQ (s : Zone) (q : Nat) (x : ReqQueue) : (s.setReqQ q x).reqQ q = x := SMap.get_set_same _ _ _ _

@[simp] theorem evtQ_setEvtQ (s : Zone) (q : Nat) (x : EvtQueue) : (s.setEvtQ q x).evtQ q = x := SMap.get_set_same _ _ _ _

theorem reqQ_congr (h : z.reqQs = s.reqQs) (q : Nat) : z.reqQ q = s.reqQ q := congrArg (SMap.get _ · q) h

theorem evtQ_congr (h : z.evtQs = s.evtQs) (q : Nat) : z.evtQ q = s.evtQ q := congrArg (SMap.get _ · q) h

@[simp] theorem fld_respond (s : Zone) (code data p : Nat) (f : Fld) : (s.respond code data).fld p f = s.fld p f := rfl

/-- The word of HINGE.2 that shows request queue q (R563). -/
abbrev reqWord (q : Nat) : Nat := pHINGE 2 + (0x100 + 4 * q)

/-- The word of HINGE.2 that shows event queue q (R563). -/
abbrev evtWord (q : Nat) : Nat := pHINGE 2 + (0x500 + 4 * q)

theorem Frame.setReqQ {x} (h : s.Frame words ps z) (hk : reqWord q ∈ words) (hp : .reqQs ∈ ps) : s.Frame words ps (z.setReqQ q x) :=
  have h' : s.Frame words ps { z with reqQs := SMap.set (fun _ => ReqQueue.init) z.reqQs q x } := h.parts rfl rfl (.reqQs hp)
  h'.setFld (f := reqFld q 0 13) hk

theorem Frame.setEvtQ {x} (h : s.Frame words ps z) (hk : evtWord q ∈ words) (hp : .evtQs ∈ ps) : s.Frame words ps (z.setEvtQ q x) :=
  have h' : s.Frame words ps { z with evtQs := SMap.set (fun _ => EvtQueue.init) z.evtQs q x } := h.parts rfl rfl (.evtQs hp)
  h'.setFld (f := evtFld q 0 13) hk

/-- The counters beside the level of a request queue stay when the queue is replaced. -/
theorem fld_setReqQ (s : Zone) (q : Nat) (x : ReqQueue) {lo w : Nat} (hlo : 13 ≤ lo) (hw : lo + w ≤ 32) :
    (s.setReqQ q x).fld (pHINGE 2) (reqFld q lo w) = s.fld (pHINGE 2) (reqFld q lo w) :=
  fld_setFld_ne _ _ _ _ _ _ (.inr ⟨hw, .inl hlo⟩)

/-- A counter of a request queue saturates at 255. -/
theorem fld_countReq (s : Zone) (q : Nat) {lo : Nat} (hlo : lo + 8 ≤ 32) :
    (s.countBy (pHINGE 2) (reqFld q lo 8) 1).fld (pHINGE 2) (reqFld q lo 8) = min (s.fld (pHINGE 2) (reqFld q lo 8) + 1) 255 :=
  fld_countBy_same _ _ _ _ hlo

/-- A word of HINGE.2 below those of the queues does not show a counter of a queue. -/
theorem fld_countReq_ne (s : Zone) (q : Nat) {f : Fld} {lo w n : Nat} (hf : f.off < 0x100) :
    (s.countBy (pHINGE 2) (reqFld q lo w) n).fld (pHINGE 2) f = s.fld (pHINGE 2) f := by
  have hne : f.off ≠ (reqFld q lo w).off := by simp only [reqFld]; omega
  exact fld_setFld_ne _ _ _ _ _ _ (.inl fun e => hne (Nat.add_left_cancel e))

/-! ### Words that have left (R180) -/

theorem dropLeft_frame (s : Zone) (q : Nat) : s.Frame [reqWord q] [.reqQs] (s.dropLeft q) :=
  Frame.refl.setReqQ (List.mem_singleton_self _) (List.mem_singleton_self _)

/-- No word of a keeper's page shows a queue. -/
theorem keeperWord_ne_hinge (k : Keeper) {o p : Nat} (ho : o < 0x1000) : pKEEPER k + o ≠ pHINGE 2 + p := by
  cases k <;> simp only [pKEEPER, pHINGE, page, Keeper.idx] <;> omega

theorem holdsBack_dropLeft (s : Zone) (k : Keeper) (q : Nat) : (s.dropLeft q).holdsBack k q = s.holdsBack k q := by
  have hrole : (s.dropLeft q).role k = s.role k :=
    (s.dropLeft_frame q).fld fun hk => keeperWord_ne_hinge k (by decide) (List.mem_singleton.mp hk)
  have hdecl : (s.dropLeft q).declares k false q = s.declares k false q := by cases k <;> rfl
  have hbind : ((s.dropLeft q).reqQ q).bind = (s.reqQ q).bind := by
    unfold dropLeft
    rw [reqQ_setReqQ]
  simp only [holdsBack, executes, bindsReq, hrole, hdecl, hbind]

/-- What has left a queue no longer counts in its level, so removing it changes none. -/
theorem reqLevel_dropLeft (s : Zone) (q : Nat) : (s.dropLeft q).reqLevel q = s.reqLevel q := by
  have hq : (s.dropLeft q).reqQ q = { s.reqQ q with
    words := (s.reqQ q).words.drop (s.leftWords q), posA := (s.reqQ q).posA - s.leftWords q, posB := (s.reqQ q).posB - s.leftWords q } :=
    reqQ_setReqQ _ _ _
  have hleft : (s.dropLeft q).leftWords q = 0 := by
    unfold leftWords at hq ⊢
    simp only [holdsBack_dropLeft, hq, List.length_drop]
    split <;> split <;> omega
  unfold reqLevel
  rw [hleft, hq]
  dsimp only
  rw [List.length_drop]
  omega

theorem reqFree_dropLeft {b : QBind} (hb : ((s.dropLeft q).reqQ q).bind = some b) : (s.dropLeft q).reqFree q = b.depth - s.reqLevel q := by
  unfold reqFree
  rw [hb, reqLevel_dropLeft]

/-! ### Refused posts and pops (R552, R553, R563) -/

/-- The words of HINGE.2 that show the last refused access and the counts of refused ones. -/
abbrev refusedWords : List Nat := [pHINGE 2 + HINGE.Q_LAST_REFUSED_QUEUE.off, pHINGE 2 + HINGE.Q_COUNTS_POSTS_REFUSED.off]

/-- A refused access to queue q with this code is answered and recorded, and `counter` counts it. -/
structure Refused (s z : Zone) (q code : Nat) (counter : Fld) : Prop where
  resp : z.resp = ⟨code, 0⟩
  code : z.fld (pHINGE 2) HINGE.Q_LAST_REFUSED_CODE = code
  queue : z.fld (pHINGE 2) HINGE.Q_LAST_REFUSED_QUEUE = q
  count : z.fld (pHINGE 2) counter = min (s.fld (pHINGE 2) counter + 1) 65535

section Refusals

variable {src : Source} {code : Nat} {counter : Fld}

theorem fld_queueRefused {f : Fld} (h : f.off ≠ HINGE.Q_LAST_REFUSED_CODE.off) :
    (s.queueRefused q src code).fld (pHINGE 2) f = s.fld (pHINGE 2) f := by
  have hne : pHINGE 2 + f.off ≠ pHINGE 2 + HINGE.Q_LAST_REFUSED_CODE.off := fun e => h (Nat.add_left_cancel e)
  unfold queueRefused setFlag
  rw [fld_setFld_ne _ _ _ HINGE.Q_LAST_REFUSED_MOORING _ _ (.inl hne), fld_setFld_ne _ _ _ HINGE.Q_LAST_REFUSED_WORLD _ _ (.inl hne),
    fld_setFld_ne _ _ _ HINGE.Q_LAST_REFUSED_QUEUE _ _ (.inl hne), fld_setFld_ne _ _ _ _ _ _ (.inl hne)]

theorem code_queueRefused (hc : code < 16) : (s.queueRefused q src code).fld (pHINGE 2) HINGE.Q_LAST_REFUSED_CODE = code := by
  unfold queueRefused setFlag
  rw [fld_setFld_ne _ _ _ _ _ _ (by decide), fld_setFld_ne _ _ _ _ _ _ (by decide), fld_setFld_ne _ _ _ _ _ _ (by decide),
    fld_setFld_same _ _ _ _ (by decide)]
  exact Nat.mod_eq_of_lt hc

theorem queue_queueRefused (hq : q < 256) : (s.queueRefused q src code).fld (pHINGE 2) HINGE.Q_LAST_REFUSED_QUEUE = q := by
  unfold queueRefused setFlag
  rw [fld_setFld_ne _ _ _ _ _ _ (by decide), fld_setFld_ne _ _ _ _ _ _ (by decide), fld_setFld_same _ _ _ _ (by decide)]
  exact Nat.mod_eq_of_lt hq

theorem Frame.queueRefused (h : s.Frame words ps z) (hk : pHINGE 2 + HINGE.Q_LAST_REFUSED_QUEUE.off ∈ words) :
    s.Frame words ps (z.queueRefused q src code) :=
  (((h.setFld (f := HINGE.Q_LAST_REFUSED_CODE) hk).setFld hk).setFlag (f := HINGE.Q_LAST_REFUSED_WORLD) hk).setFld
    (f := HINGE.Q_LAST_REFUSED_MOORING) hk

/-- Recording, counting and answering a refused access. -/
theorem queueRefused_refused (hc : code < 16) (hq : q < 256) (hoff : counter.off = HINGE.Q_COUNTS_POSTS_REFUSED.off)
    (hw : counter.w = 16) (hlo : counter.lo ≤ 16) :
    Refused s (((s.queueRefused q src code).count (pHINGE 2) counter).respond code 0) q code counter where
  resp := rfl
  code := by
    rw [fld_respond, count, countBy, fld_setFld_ne _ _ _ _ _ _ (.inl (by rw [hoff]; decide)), code_queueRefused hc]
  queue := by
    rw [fld_respond, count, countBy, fld_setFld_ne _ _ _ _ _ _ (.inl (by rw [hoff]; decide)), queue_queueRefused hq]
  count := by
    rw [fld_respond, fld_count_same _ _ _ (by omega), fld_queueRefused (by rw [hoff]; decide), hw]
    rfl

theorem postRefused_counted : s.postRefused q src code true =
    (((s.queueRefused q src code).count (pHINGE 2) HINGE.Q_COUNTS_POSTS_REFUSED).countBy (pHINGE 2) (reqFld q 24 8) 1).respond code 0 :=
  rfl

/-- Counting the refused frame of a request queue changes none of this. -/
theorem postRefused_refused (frame : Bool) (hc : code < 16) (hq : q < 256) :
    Refused s (s.postRefused q src code frame) q code HINGE.Q_COUNTS_POSTS_REFUSED := by
  have h : Refused s (((s.queueRefused q src code).count (pHINGE 2) HINGE.Q_COUNTS_POSTS_REFUSED).respond code 0) q code
      HINGE.Q_COUNTS_POSTS_REFUSED := queueRefused_refused hc hq rfl rfl (by decide)
  cases frame with
  | false => exact h
  | true =>
    obtain ⟨-, hcode, hqueue, hcount⟩ := h
    rw [fld_respond] at hcode hqueue hcount
    rw [postRefused_counted]
    constructor
    case resp => rfl
    case code => rw [fld_respond, fld_countReq_ne _ _ (by decide), hcode]
    case queue => rw [fld_respond, fld_countReq_ne _ _ (by decide), hqueue]
    case count => rw [fld_respond, fld_countReq_ne _ _ (by decide), hcount]

theorem postRefused_frame (s : Zone) (q : Nat) (src : Source) (code : Nat) (frame : Bool) :
    s.Frame (reqWord q :: refusedWords) [.reqQs, .resp] (s.postRefused q src code frame) := by
  have h : s.Frame (reqWord q :: refusedWords) [.reqQs, .resp]
      ((s.queueRefused q src code).count (pHINGE 2) HINGE.Q_COUNTS_POSTS_REFUSED) :=
    (Frame.refl.queueRefused (.tail _ (.head _))).count (.tail _ (.tail _ (.head _)))
  cases frame with
  | false => exact h.respond (by decide)
  | true => exact (h.setFld (.head _)).respond (by decide)

@[simp] theorem reqQ_postRefused (s : Zone) (q r : Nat) (src : Source) (code : Nat) (frame : Bool) :
    (s.postRefused q src code frame).reqQ r = s.reqQ r := by
  cases frame <;> rfl

/-- The counter of refused frames counts a refused first word. -/
theorem fld_postRefused_frame (s : Zone) (q : Nat) (src : Source) (code : Nat) :
    (s.postRefused q src code true).fld (pHINGE 2) (reqFld q 24 8) = min (s.fld (pHINGE 2) (reqFld q 24 8) + 1) 255 := by
  have hne {o : Nat} (ho : o < 0x100) : (reqFld q 24 8).off ≠ o := by simp only [reqFld]; omega
  refine (fld_countReq _ q (by decide)).trans ?_
  rw [count, countBy, fld_setFld_ne _ _ _ _ _ _ (.inl fun e => hne (by decide) (Nat.add_left_cancel e)), fld_queueRefused (hne (by decide))]

/-- A refusal after a change of request queue q alone is one of the module before. -/
theorem Refused.after {y : Zone} {ps'} (hf : s.Frame [reqWord q] ps' y) (h : Refused y z q code counter) (hc : counter.off < 0x100) :
    Refused s z q code counter where
  resp := h.resp
  code := h.code
  queue := h.queue
  count := by
    rw [h.count, hf.fld]
    intro hk
    have := List.mem_singleton.mp hk
    simp only [pHINGE, page, reqWord] at this
    omega

end Refusals

/-! ### A posted word (R177, R178, R552) -/

section Posts

variable {src : Source} {w : Word} {b : QBind} {x : ReqQueue}

/-- A word of a source that the queue is not bound to. -/
theorem postWord_alien (hx : (s.dropLeft q).reqQ q = x) (hb : (x.bind.any fun b => b.admits src) = false) :
    s.postWord q src w = (s.dropLeft q).alienWord q src w := by
  subst hx
  unfold postWord
  dsimp only
  split
  case h_1 => rfl
  case h_2 b hbind => exact if_pos (by rw [hbind] at hb; simpa using hb)

/-- It leaves the words and the frame of the queue, and is refused QBIND. -/
theorem alienWord_eq (hx : s.reqQ q = x) : ∃ (l : List (Source × Nat)) (first : Bool),
    s.alienWord q src w = (s.setReqQ q { x with aliens := l }).postRefused q src 0xA first := by
  subst hx
  exact ⟨_, _, rfl⟩

variable (hx : (s.dropLeft q).reqQ q = x) (hb : x.bind = some b) (ha : b.admits src = true)

include hx hb ha

/-- A further word of a refused frame. -/
theorem postWord_refusing (hr : x.refuse ≠ 0) :
    s.postWord q src w = ((s.dropLeft q).setReqQ q { x with refuse := x.refuse - 1 }).postRefused q src 9 false := by
  subst hx
  simp only [postWord, hb, ha, hr, Bool.not_true, Bool.false_eq_true, ne_eq, not_false_eq_true, if_true, if_false]

/-- A further word of an incomplete frame. -/
theorem postWord_further (hr : x.refuse = 0) (hn : x.need ≠ 0) :
    s.postWord q src w = (s.dropLeft q).frameWord q w (x.need - 1) x.frame x.frameAt := by
  subst hx
  simp only [postWord, hb, ha, hr, hn, Bool.not_true, Bool.false_eq_true, ne_eq, not_true_eq_false, not_false_eq_true, if_true, if_false]

/-- A first word without room for the frame that it announces. -/
theorem postWord_full (hr : x.refuse = 0) (hn : x.need = 0) (hd : b.depth < s.reqLevel q + w.toNat / 2 ^ 30 + 1) :
    s.postWord q src w = ((s.dropLeft q).setReqQ q { x with refuse := w.toNat / 2 ^ 30 }).postRefused q src 9 true := by
  subst hx
  have hfree : (s.dropLeft q).reqFree q < w.toNat / 2 ^ 30 + 1 := by rw [reqFree_dropLeft hb]; omega
  simp only [postWord, hb, ha, hr, hn, hfree, Bool.not_true, Bool.false_eq_true, ne_eq, not_true_eq_false, if_true, if_false]

/-- A first word with room for its frame. -/
theorem postWord_first (hr : x.refuse = 0) (hn : x.need = 0) (hd : s.reqLevel q + w.toNat / 2 ^ 30 + 1 ≤ b.depth) :
    s.postWord q src w = (s.dropLeft q).frameWord q w (w.toNat / 2 ^ 30) [] s.mono := by
  subst hx
  have hfree : ¬ (s.dropLeft q).reqFree q < w.toNat / 2 ^ 30 + 1 := by rw [reqFree_dropLeft hb]; omega
  simp only [postWord, hb, ha, hr, hn, hfree, Bool.not_true, Bool.false_eq_true, ne_eq, not_true_eq_false, if_false]
  rfl

end Posts

/-! ### A word of a frame (R178) -/

theorem frameWord_resp (s : Zone) (q : Nat) (w : Word) (need : Nat) (l : List Word) (t : Nat) : (s.frameWord q w need l t).resp = ⟨0, 0⟩ := by
  unfold frameWord
  split <;> rfl

theorem frameWord_frame (s : Zone) (q : Nat) (w : Word) (need : Nat) (l : List Word) (t : Nat) :
    s.Frame [reqWord q] [.reqQs, .resp] (s.frameWord q w need l t) := by
  unfold frameWord
  split
  · exact (Frame.refl.setReqQ (.head _) (.head _)).respond (by decide)
  · exact (Frame.refl.setReqQ (.head _) (.head _)).respond (by decide)

/-- The last word puts the whole frame behind the words of the queue. -/
theorem reqQ_frameWord_last (s : Zone) (q : Nat) (w : Word) (l : List Word) (t : Nat) :
    (s.frameWord q w 0 l t).reqQ q = { s.reqQ q with
      words := (s.reqQ q).words ++ (l ++ [w]).map fun v => ⟨v, s.keeperSlots⟩, frame := [], need := 0 } :=
  reqQ_setReqQ _ _ _

/-- Another word waits with those before it. -/
theorem reqQ_frameWord_waits (s : Zone) (q : Nat) (w : Word) {need : Nat} (l : List Word) (t : Nat) (h : need ≠ 0) :
    (s.frameWord q w need l t).reqQ q = { s.reqQ q with frame := l ++ [w], need := need, frameAt := t } := by
  unfold frameWord
  rw [if_neg h]
  exact reqQ_setReqQ _ _ _

/-! ### Pops (R181, R553) -/

section Pops

variable {src : Source}

theorem popEvt_alien (hb : ((s.evtQ q).bind.any fun b => b.admits src) = false) :
    s.popEvt q src = ((s.queueRefused q src 0xA).count (pHINGE 2) HINGE.Q_COUNTS_POPS_REFUSED).respond 0xA 0 := by
  unfold popEvt
  dsimp only
  split
  case h_1 => rfl
  case h_2 b hbind => exact if_pos (by rw [hbind] at hb; simpa using hb)

/-- A pop of the bound source takes the oldest word. -/
theorem popEvt_word {b : QBind} {w : Word} {l : List Word} (hb : (s.evtQ q).bind = some b) (ha : b.admits src = true)
    (hl : (s.evtQ q).words = w :: l) : s.popEvt q src = (s.setEvtQ q { s.evtQ q with words := l }).respond 0 w.toNat := by
  simp only [popEvt, hb, ha, hl, Bool.not_true, Bool.false_eq_true, if_false]

theorem popEvt_empty {b : QBind} (hb : (s.evtQ q).bind = some b) (ha : b.admits src = true) (hl : (s.evtQ q).words = []) :
    s.popEvt q src = s.respond 0xB 0 := by
  simp only [popEvt, hb, ha, hl, Bool.not_true, Bool.false_eq_true, if_false]

end Pops

/-! ### Notices (R547 to R549) -/

theorem evtQs_showHinge (s : Zone) (h : Nat) (x : HingeSt) : (s.showHinge h x).evtQs = s.evtQs := by
  unfold showHinge
  extract_lets p put s₁ s₂
  have hput {z f v} : (put z f v).evtQs = z.evtQs := rfl
  have h₂ : s₂.evtQs = s.evtQs := by
    dsimp only [s₂]
    split
    · simp only [hput, s₁, setFld_evtQs]
    · simp only [hput, s₁, setFld_evtQs]
  clear_value s₂
  split
  · simp only [hput, h₂]
  · simp only [hput, setFld_evtQs, h₂]

theorem evtQs_setHinge (s : Zone) (h : Nat) (x : HingeSt) : (s.setHinge h x).evtQs = s.evtQs := evtQs_showHinge _ _ _

theorem evtQs_hingeEnter (s : Zone) (h : Nat) (t : HingeTxn) (posted : Bool) : (s.hingeEnter h t posted).evtQs = s.evtQs := by
  unfold hingeEnter
  dsimp only
  split <;> exact evtQs_setHinge _ _ _

theorem evtQs_noticeArrives (s : Zone) (route : Word) : (s.noticeArrives route).evtQs = s.evtQs := by
  unfold noticeArrives
  dsimp only
  split
  · rfl
  · split <;> rfl

/-- No event queue takes part in a notice. -/
theorem evtQs_sendNotice (s : Zone) (route : Word) : (s.sendNotice route).evtQs = s.evtQs := by
  unfold sendNotice
  dsimp only
  split
  · exact evtQs_hingeEnter _ _ _ _
  · exact evtQs_noticeArrives _ _

/-- A notice of kind 1 makes its identity pending at the interrupt file of its route. -/
theorem sendNotice_imsic (s : Zone) {route : Word} {h i n : Nat} (hr : route.toNat = 2 ^ 30 + h * 2 ^ 27 + i * 2 ^ 24 + n)
    (hh : h < 8) (hi : i ≤ 6) (hn : n < 2 ^ 11) (hpos : 1 ≤ n) :
    s.sendNotice route = { s with
      imsic := SMap.set (fun _ => 0) s.imsic (h * 8 + i) (SMap.get (fun _ => 0) s.imsic (h * 8 + i) ||| 2 ^ n) } := by
  have hkind : route.toNat / 2 ^ 30 = 1 := by omega
  have hhart : route.toNat / 2 ^ 27 % 8 = h := by omega
  have hfile : route.toNat / 2 ^ 24 % 8 = i := by omega
  have hident : route.toNat % 2 ^ 11 = n := by omega
  unfold sendNotice noticeArrives
  simp only [hkind, hhart, hfile, hident, hi, hpos, and_self, if_true]
  rfl

end Zone

end Sys2Proof.Machine
end

