-- ==== Sys2Proof/Proofs/QueueCommands.lean ====
section
/-! SUPPORT. Posts, pops, frame timeouts and notices of the queues of H2 (R177 to R181, R549 to R553), and O28. -/

namespace Sys2Proof.Machine

open Reg

/-! ### Posts -/

section Posts

variable {s : State} {q : Fin 256} {src : Source} {w : Word}

theorem Zone.controller_post (z : Zone) (q : Fin 256) : z.controller (0x1F3000000 + q.val * 0x1000) = some 12 := by
  have h := z.controller_registers (0x3000000 + q.val * 0x1000) (by omega)
  rwa [← Nat.add_assoc] at h

theorem completes_requestPost (hr : s.zone.start.released = true)
    (hp : s.zone.permitted 12 src false true (0x1F3000000 + q.val * 0x1000) 4 = true) :
    Completes (.requestPost q src w) s (· = s.zone.postWord q.val src w) := by
  refine ⟨_, ?_, rfl⟩
  change execRequestPost q src w s = _
  unfold execRequestPost
  rw [State.runFw_released _ _ hr]
  simp only [Zone.regionCheck, Zone.controller_post, hp, if_true, ne_eq, not_true_eq_false, if_false]

/-- A post that no region permits is recorded by controller 12 (R504). -/
theorem completes_requestPost_denied (hr : s.zone.start.released = true)
    (hp : s.zone.permitted 12 src false true (0x1F3000000 + q.val * 0x1000) 4 = false) :
    Completes (.requestPost q src w) s
      (· = (s.zone.refuse_ 12 src true (0x1F3000000 + q.val * 0x1000)).respond Err.region 0) := by
  refine ⟨_, ?_, rfl⟩
  change execRequestPost q src w s = _
  unfold execRequestPost
  rw [State.runFw_released _ _ hr]
  simp only [Zone.regionCheck, Zone.controller_post, hp, Bool.false_eq_true, if_false]
  rfl

/-- Recording a refusal of controller 12 changes its page alone. -/
theorem Zone.refuse_registers_frame (z : Zone) (src : Source) (wr : Bool) (a : Nat) : z.BankFrame [14] [] (z.refuse_ 12 src wr a) := by
  unfold refuse_
  extract_lets p s₁ s₂
  have h₁ : z.BankFrame [14] [] s₁ := by
    dsimp only [s₁]
    split
    · exact ((((BankFrame.refl.setFld (by decide)).setFld (by decide)).setFlag (by decide)).setFlag (by decide)).setFld (by decide)
    · exact .refl
  rw [if_neg (by decide)]
  exact h₁.count (by decide)

variable (hr : s.zone.start.released = true)
  (hp : s.zone.permitted 12 src false true (0x1F3000000 + q.val * 0x1000) 4 = true)

include hr hp

/-- What a word leaves that goes to the frame being posted: `need` more words follow it. -/
theorem completes_frameWord {x : ReqQueue} (need : Nat) (l : List Word) (t : Nat) (hx : (s.zone.dropLeft q.val).reqQ q.val = x)
    (hw : s.zone.postWord q.val src w = (s.zone.dropLeft q.val).frameWord q.val w need l t) :
    Completes (.requestPost q src w) s fun z =>
      (need = 0 → z.reqQ q.val = { x with words := x.words ++ (l ++ [w]).map fun v => ⟨v, s.zone.keeperSlots⟩, frame := [], need := 0 }) ∧
      (need ≠ 0 → z.reqQ q.val = { x with frame := l ++ [w], need := need, frameAt := t }) ∧
      z.resp = ⟨0, 0⟩ ∧ s.zone.Frame [Zone.reqWord q.val] [.reqQs, .resp] z := by
  refine (completes_requestPost hr hp).imp fun z hz => ?_
  rw [hz, hw]
  refine ⟨fun h => ?_, fun h => ?_, Zone.frameWord_resp _ _ _ _ _ _, ?_⟩
  · rw [h, Zone.reqQ_frameWord_last, hx]
    rfl
  · rw [Zone.reqQ_frameWord_waits _ _ _ _ _ h, hx]
  · exact ((s.zone.dropLeft_frame q.val).mono (fun _ => id) (by decide)).trans (Zone.frameWord_frame _ _ _ _ _ _)

/-- What a refused word leaves: the queue as y, and the record and the count of the refusal. -/
theorem completes_postRefused (y : ReqQueue) (code : Nat) (frame : Bool) (hc : code < 16)
    (hw : s.zone.postWord q.val src w = ((s.zone.dropLeft q.val).setReqQ q.val y).postRefused q.val src code frame) :
    Completes (.requestPost q src w) s fun z =>
      z.reqQ q.val = y ∧ Zone.Refused s.zone z q.val code HINGE.Q_COUNTS_POSTS_REFUSED ∧
      (frame = true → z.fld (pHINGE 2) (Zone.reqFld q.val 24 8) = min (s.zone.fld (pHINGE 2) (Zone.reqFld q.val 24 8) + 1) 255) ∧
      s.zone.Frame (Zone.reqWord q.val :: Zone.refusedWords) [.reqQs, .resp] z := by
  have hframe : s.zone.Frame [Zone.reqWord q.val] [.reqQs] ((s.zone.dropLeft q.val).setReqQ q.val y) :=
    (s.zone.dropLeft_frame q.val).setReqQ (List.mem_singleton_self _) (List.mem_singleton_self _)
  refine (completes_requestPost hr hp).imp fun z hz => ?_
  rw [hz, hw]
  refine ⟨?_, (Zone.postRefused_refused frame hc q.isLt).after hframe (by decide), fun h => ?_, ?_⟩
  · rw [Zone.reqQ_postRefused, Zone.reqQ_setReqQ]
  · rw [h, Zone.fld_postRefused_frame, Zone.fld_setReqQ _ _ _ (by decide) (by decide), Zone.dropLeft,
      Zone.fld_setReqQ _ _ _ (by decide) (by decide)]
  · exact (hframe.mono (fun _ h => List.mem_cons.mpr (.inl (List.mem_singleton.mp h))) (by decide)).trans (Zone.postRefused_frame _ _ _ _ _)

end Posts

/-! ### Pops -/

section Pops

variable {s : State} {q : Fin 256} {src : Source}

theorem Zone.controller_pop (z : Zone) (q : Fin 256) : z.controller (0x1F3100000 + q.val * 0x1000) = some 12 := by
  have h := z.controller_registers (0x3100000 + q.val * 0x1000) (by omega)
  rwa [← Nat.add_assoc] at h

theorem completes_eventPop (hr : s.zone.start.released = true)
    (hp : s.zone.permitted 12 src true false (0x1F3100000 + q.val * 0x1000) 4 = true) :
    Completes (.eventPop q src) s (· = s.zone.popEvt q.val src) := by
  refine ⟨_, ?_, rfl⟩
  change execEventPop q src s = _
  unfold execEventPop
  rw [State.runFw_released _ _ hr]
  simp only [Zone.regionCheck, Zone.controller_pop, hp, if_true, ne_eq, not_true_eq_false, if_false]

/-- A pop of the bound source takes the oldest word. -/
theorem completes_eventPop_word {b : QBind} {w : Word} {l : List Word} (hr : s.zone.start.released = true)
    (hp : s.zone.permitted 12 src true false (0x1F3100000 + q.val * 0x1000) 4 = true) (hb : (s.zone.evtQ q.val).bind = some b)
    (ha : b.admits src = true) (hl : (s.zone.evtQ q.val).words = w :: l) : Completes (.eventPop q src) s fun z =>
      z.evtQ q.val = { s.zone.evtQ q.val with words := l } ∧ z.resp = ⟨0, w.toNat⟩ ∧
      s.zone.Frame [Zone.evtWord q.val] [.evtQs, .resp] z := by
  refine (completes_eventPop hr hp).imp fun z hz => ?_
  rw [hz, Zone.popEvt_word hb ha hl]
  exact ⟨Zone.evtQ_setEvtQ _ _ _, rfl, (Zone.Frame.refl.setEvtQ (.head _) (.head _)).respond (by decide)⟩

/-- And is answered QEMPTY where there is none. -/
theorem completes_eventPop_empty {b : QBind} (hr : s.zone.start.released = true)
    (hp : s.zone.permitted 12 src true false (0x1F3100000 + q.val * 0x1000) 4 = true) (hb : (s.zone.evtQ q.val).bind = some b)
    (ha : b.admits src = true) (hl : (s.zone.evtQ q.val).words = []) : Completes (.eventPop q src) s fun z =>
      z.evtQ q.val = s.zone.evtQ q.val ∧ z.resp = ⟨0xB, 0⟩ ∧ s.zone.Frame [Zone.evtWord q.val] [.evtQs, .resp] z := by
  refine (completes_eventPop hr hp).imp fun z hz => ?_
  rw [hz, Zone.popEvt_empty hb ha hl]
  exact ⟨rfl, rfl, Zone.Frame.refl.respond (by decide)⟩

/-- A pop of another source is refused QBIND. -/
theorem completes_eventPop_alien (hr : s.zone.start.released = true)
    (hp : s.zone.permitted 12 src true false (0x1F3100000 + q.val * 0x1000) 4 = true)
    (hb : ((s.zone.evtQ q.val).bind.any fun b => b.admits src) = false) : Completes (.eventPop q src) s fun z =>
      Zone.Refused s.zone z q.val 0xA HINGE.Q_COUNTS_POPS_REFUSED ∧ s.zone.Frame Zone.refusedWords [.resp] z := by
  refine (completes_eventPop hr hp).imp fun z hz => ?_
  rw [hz, Zone.popEvt_alien hb]
  exact ⟨Zone.queueRefused_refused (by decide) q.isLt rfl rfl (by decide),
    ((Zone.Frame.refl.queueRefused (.head _)).count (f := HINGE.Q_COUNTS_POPS_REFUSED) (.tail _ (.head _))).respond (.head _)⟩

end Pops

/-! ### Frame timeouts -/

section Timeouts

variable {s : State} {q : Fin 256}

theorem completes_frameTimeout_due (hl : s.zone.logicRuns = true) (hn : (s.zone.reqQ q.val).need ≠ 0)
    (ht : (s.zone.reqQ q.val).frameAt + 25000 ≤ s.zone.mono) : Completes (.frameTimeout q) s fun z =>
      z.reqQ q.val = { s.zone.reqQ q.val with frame := [], need := 0 } ∧
      z.fld (pHINGE 2) (Zone.reqFld q.val 16 8) = min (s.zone.fld (pHINGE 2) (Zone.reqFld q.val 16 8) + 1) 255 ∧
      s.zone.Frame [Zone.reqWord q.val] [.reqQs] z := by
  refine ⟨(s.zone.setReqQ q.val { s.zone.reqQ q.val with frame := [], need := 0 }).countBy (pHINGE 2) (Zone.reqFld q.val 16 8) 1,
    ?_, (Zone.reqQ_congr (Zone.countBy_reqQs _ _ _ _) _).trans (Zone.reqQ_setReqQ _ _ _), ?_, ?_⟩
  · change execFrameTimeout q s = _
    unfold execFrameTimeout
    rw [State.runOn_runs _ _ hl]
    dsimp only
    rw [if_pos ⟨hn, decide_eq_true ht⟩]
  · rw [Zone.fld_countReq _ _ (by decide), Zone.fld_setReqQ _ _ _ (by decide) (by decide)]
  · exact (Zone.Frame.refl.setReqQ (.head _) (.head _)).setFld (f := Zone.reqFld q.val 16 8) (.head _)

theorem completes_frameTimeout_waits (h : (s.zone.reqQ q.val).need = 0 ∨ s.zone.mono < (s.zone.reqQ q.val).frameAt + 25000) :
    Completes (.frameTimeout q) s (s.zone.Frame [] []) := by
  refine ⟨s.zone, ?_, .refl⟩
  change execFrameTimeout q s = _
  have hdue : ¬ ((s.zone.reqQ q.val).need ≠ 0 ∧ s.zone.past (s.zone.reqQ q.val).frameAt (100 * Zone.ticksPerUs) = true) := by
    rintro ⟨hn, ht⟩
    have ht : (s.zone.reqQ q.val).frameAt + 25000 ≤ s.zone.mono := of_decide_eq_true ht
    omega
  unfold execFrameTimeout
  rw [State.runOn, State.run_eq]
  simp only [if_neg hdue, ite_self]

end Timeouts

/-! ### Notices -/

section Notices

variable {s : State} {q : Fin 256}

theorem completes_eventQueueNotice (hl : s.zone.logicRuns = true) (hd : (s.zone.evtQ q.val).noticeDue = true) :
    Completes (.eventQueueNotice q) s (· =
      (s.zone.setEvtQ q.val { s.zone.evtQ q.val with noticeDue := false }).sendNotice (s.zone.rd (pHINGE 2 + 0x900 + 4 * q.val))) := by
  refine ⟨_, ?_, rfl⟩
  change execEventQueueNotice q s = _
  unfold execEventQueueNotice
  rw [State.runOn_runs _ _ hl]
  dsimp only
  rw [if_pos hd]

/-- The notice that was owed is owed no longer, whatever its route. -/
theorem completes_eventQueueNotice_sent (hl : s.zone.logicRuns = true) (hd : (s.zone.evtQ q.val).noticeDue = true) :
    Completes (.eventQueueNotice q) s fun z => z.evtQ q.val = { s.zone.evtQ q.val with noticeDue := false } := by
  refine (completes_eventQueueNotice hl hd).imp fun z hz => ?_
  rw [hz, Zone.evtQ_congr (Zone.evtQs_sendNotice _ _), Zone.evtQ_setEvtQ]

/-- A route of kind 1 leads to the interrupt file that it names. -/
theorem completes_eventQueueNotice_imsic {h i : Fin 8} {n : BitVec 11} (hl : s.zone.logicRuns = true)
    (hd : (s.zone.evtQ q.val).noticeDue = true)
    (hr : (s.zone.rd (pHINGE 2 + 0x900 + 4 * q.val)).toNat = 2 ^ 30 + h.val * 2 ^ 27 + i.val * 2 ^ 24 + n.toNat) (hi : i.val ≤ 6)
    (hn : n ≠ 0) : Completes (.eventQueueNotice q) s fun z =>
      (SMap.get (fun _ => 0) z.imsic (h.val * 8 + i.val)).testBit n.toNat = true ∧
      z.evtQ q.val = { s.zone.evtQ q.val with noticeDue := false } ∧ s.zone.Frame [Zone.evtWord q.val] [.evtQs, .imsic] z := by
  have hpos : 1 ≤ n.toNat := Nat.one_le_iff_ne_zero.mpr fun e => hn (BitVec.eq_of_toNat_eq e)
  refine (completes_eventQueueNotice hl hd).imp fun z hz => ?_
  rw [hz, Zone.sendNotice_imsic _ hr h.isLt hi n.isLt hpos]
  refine ⟨?_, Zone.evtQ_setEvtQ _ _ _, (Zone.Frame.refl.setEvtQ (.head _) (.head _)).parts rfl rfl (.imsic (by decide))⟩
  dsimp only
  rw [SMap.get_set_same, Nat.testBit_or, Nat.testBit_two_pow_self, Bool.or_true]

theorem completes_eventQueueNotice_none (hd : (s.zone.evtQ q.val).noticeDue = false) :
    Completes (.eventQueueNotice q) s (s.zone.Frame [] []) := by
  refine ⟨s.zone, ?_, .refl⟩
  change execEventQueueNotice q s = _
  unfold execEventQueueNotice
  rw [State.runOn, State.run_eq]
  simp only [hd, Bool.false_eq_true, if_false, ite_self]

end Notices

/-- Settles O28: a post by what its word is to the queue (a frame's word, or a refused one), then pops, frame timeouts and notices. -/
theorem queuesBetweenMooringsAndTables : Obligations.QueuesBetweenMooringsAndTables := by
  unfold Obligations.QueuesBetweenMooringsAndTables
  refine ⟨?_, ?_, ?_, ?_, ?_, ?_, ?_, ?_, ?_, ?_, ?_, ?_, ?_, ?_⟩
  case refine_1 =>
    intro s q src w b x hr hp hx hb ha href hneed hw hroom
    have hlast : w.toNat / 2 ^ 30 = 0 := Nat.div_eq_of_lt hw
    refine (completes_frameWord hr hp _ _ _ hx (Zone.postWord_first hx hb ha href hneed (by omega))).imp fun z hz => ?_
    obtain ⟨hz, -, hresp, hframe⟩ := hz
    rw [hz hlast]
    exact ⟨rfl, rfl, hresp, hframe⟩
  case refine_2 =>
    intro s q src w b x hr hp hx hb ha href hneed hw hroom
    have hmore : w.toNat / 2 ^ 30 ≠ 0 := by omega
    refine (completes_frameWord hr hp _ _ _ hx (Zone.postWord_first hx hb ha href hneed hroom)).imp fun z hz => ?_
    obtain ⟨-, hz, hresp, hframe⟩ := hz
    rw [hz hmore]
    exact ⟨rfl, rfl, rfl, rfl, hresp, hframe⟩
  case refine_3 =>
    intro s q src w b x hr hp hx hb ha href hneed
    refine (completes_frameWord hr hp _ _ _ hx (Zone.postWord_further hx hb ha href hneed)).imp fun z hz => ?_
    obtain ⟨hlast, hwaits, hresp, hframe⟩ := hz
    refine ⟨fun h => ?_, fun h => ?_, fun h => ?_, hresp, hframe⟩
    · rw [hlast (by omega)]
    · rw [hlast (by omega)]
      exact ⟨rfl, rfl⟩
    · rw [hwaits (by omega)]
      exact ⟨rfl, rfl, rfl⟩
  case refine_4 =>
    intro s q src w b x hr hp hx hb ha href hneed hroom
    refine (completes_postRefused hr hp _ _ _ (by decide) (Zone.postWord_full hx hb ha href hneed hroom)).imp fun z hz => ?_
    obtain ⟨hz, ⟨hresp, hcode, hqueue, hcount⟩, hframes, hframe⟩ := hz
    exact ⟨hz, hframes rfl, hresp, hcode, hqueue, hcount, hframe⟩
  case refine_5 =>
    intro s q src w b x hr hp hx hb ha href
    refine (completes_postRefused hr hp _ _ _ (by decide) (Zone.postWord_refusing hx hb ha href)).imp fun z hz => ?_
    obtain ⟨hz, ⟨hresp, hcode, hqueue, hcount⟩, -, hframe⟩ := hz
    exact ⟨hz, hresp, hcode, hqueue, hcount, hframe⟩
  case refine_6 =>
    intro s q src w x hr hp hx hb
    obtain ⟨l, first, hword⟩ := Zone.alienWord_eq (src := src) (w := w) hx
    refine (completes_postRefused hr hp _ _ _ (by decide) ((Zone.postWord_alien hx hb).trans hword)).imp fun z hz => ?_
    obtain ⟨hz, ⟨hresp, hcode, hqueue, hcount⟩, -, hframe⟩ := hz
    rw [hz]
    exact ⟨rfl, rfl, hresp, hcode, hqueue, hcount, hframe⟩
  case refine_7 =>
    intro s q src w hr hp
    refine (completes_requestPost_denied hr hp).imp fun z hz => ?_
    have hframe := s.zone.refuse_registers_frame src true (0x1F3000000 + q.val * 0x1000)
    rw [hz]
    exact ⟨rfl, hframe.part .reqQs (by decide), (hframe.mono (fun _ => id) (by decide)).respond (by decide)⟩
  case refine_8 =>
    intro s q src l b hr hp hb ha hl
    cases l with
    | nil =>
      refine (completes_eventPop_empty hr hp hb ha hl).imp fun z hz => ?_
      obtain ⟨hz, hresp, hframe⟩ := hz
      rw [hz]
      exact ⟨hl, hresp, hb, hframe⟩
    | cons w l =>
      refine (completes_eventPop_word hr hp hb ha hl).imp fun z hz => ?_
      obtain ⟨hz, hresp, hframe⟩ := hz
      rw [hz]
      exact ⟨rfl, hresp, hb, hframe⟩
  case refine_9 =>
    intro s q src hr hp hb
    refine (completes_eventPop_alien hr hp hb).imp fun z hz => ?_
    obtain ⟨⟨hresp, hcode, -, hcount⟩, hframe⟩ := hz
    exact ⟨hresp, hcode, hcount, hframe⟩
  case refine_10 => exact fun s q => completes_frameTimeout_due
  case refine_11 => exact fun s q => completes_frameTimeout_waits
  case refine_12 => exact fun s q h i n => completes_eventQueueNotice_imsic
  case refine_13 => exact fun s q => completes_eventQueueNotice_sent
  case refine_14 => exact fun s q => completes_eventQueueNotice_none

end Sys2Proof.Machine
end

