-- ==== Sys2Proof/Proofs/LoaderVerdicts.lean ====
section
/-! SUPPORT. The verdicts of both loaders on the image of LOAD_TABLE: the word that each keeper shows, the response, and the table that
both keepers take (R198, R200, R230), with O29. -/

namespace Sys2Proof.Machine

open Reg

/-- The verdict of keeper k on the image of a LOAD_TABLE, where it has come. -/
def LoadCmd.word (c : LoadCmd) (k : Keeper) : Option Nat := match k with | .A => c.wordA | .B => c.wordB

/-- The LOAD_TABLE once keeper k has its verdict. -/
def LoadCmd.judged (c : LoadCmd) (k : Keeper) (v : Nat) : LoadCmd :=
  match k with | .A => { c with wordA := some v } | .B => { c with wordB := some v }

namespace Zone

variable {s z : Zone} {words : List Nat} {ps : List Part} {k : Keeper}

theorem SameParts.watch {x} (h : .watch ∈ ps) : s.SameParts ps { s with watch := x } := fun p hn => by
  cases p <;> simp_all [Part.Same]

theorem keyBank_keeper {o : Nat} (ho : o < 4096) : keyBank (pKEEPER k + o) = 0 := keyBank_page (by cases k <;> decide) ho

/-! ### LOAD_RESULT (R230) -/

theorem Frame.setLoadResult {w} (h : s.Frame words ps z) (hk : pKEEPER k + KEEPER.LOAD_RESULT_CODE.off ∈ words) :
    s.Frame words ps (z.setLoadResult k w) :=
  (h.setFld (f := KEEPER.LOAD_RESULT_CODE) hk).setFld (f := KEEPER.LOAD_RESULT_DETAIL) hk

/-- Code and detail together make the word. -/
theorem put_loadResult (old : Word) (v : Nat) :
    KEEPER.LOAD_RESULT_DETAIL.put (KEEPER.LOAD_RESULT_CODE.put old (v / 2 ^ 24)) v = BitVec.ofNat 32 v := by
  apply BitVec.eq_of_getLsbD_eq
  intro i hi
  rw [Fld.getLsbD_put _ _ _ _ hi, Fld.getLsbD_put _ _ _ _ hi, BitVec.getLsbD_ofNat]
  by_cases hdetail : i < 24
  · rw [if_pos (by simpa using hdetail)]
    simp [hi]
  · rw [if_neg (by simpa using hdetail), if_pos (by simp only; omega), Nat.testBit_div_two_pow]
    simp [hi, Nat.sub_add_cancel (show 24 ≤ i by omega)]

theorem rd_setLoadResult (s : Zone) (k : Keeper) (v : Nat) :
    (s.setLoadResult k v).rd (pKEEPER k + KEEPER.LOAD_RESULT_CODE.off) = BitVec.ofNat 32 v := by
  unfold setLoadResult
  exact (rd_wr_same _ _ _).trans (by rw [setFld, rd_wr_same, put_loadResult])

/-! ### A table in the half that a keeper does not run (R200) -/

section Halves

variable {t : Table}

theorem showTables_frame (s : Zone) (k : Keeper) : s.BankFrame [0] [] (s.showTables k) := by
  unfold showTables
  extract_lets p show_
  have hset {z : Zone} {f : Fld} {v : Nat} (h : s.BankFrame [0] [] z) (hf : f.off < 4096) : s.BankFrame [0] [] (z.setFld p f v) :=
    h.setFld (by rw [keyBank_keeper hf]; exact List.mem_singleton_self _)
  have hshow {z : Zone} {a b : Fld} {t : Option Table} (h : s.BankFrame [0] [] z) (ha : a.off < 4096) (hb : b.off < 4096) :
      s.BankFrame [0] [] (show_ z a b t) := by
    cases t with
    | none => exact hset (hset h ha) hb
    | some t => exact hset (hset h ha) hb
  exact hshow (hshow .refl (by decide) (by decide)) (by decide) (by decide)

theorem keeper_setFld (s : Zone) (p : Nat) (f : Fld) (v : Nat) (k : Keeper) : (s.setFld p f v).keeper k = s.keeper k := by
  cases k <;> rfl

theorem resTable_congr (h : z.keeper k = s.keeper k) : z.resTable k = s.resTable k := by
  unfold resTable
  rw [h]

theorem keeper_showTables (s : Zone) (k j : Keeper) : (s.showTables k).keeper j = s.keeper j := by
  have hf := s.showTables_frame k
  cases j with
  | A => exact hf.part .keeperA (by decide)
  | B => exact hf.part .keeperB (by decide)

theorem loadHalf_frame (s : Zone) (k : Keeper) (t : Table) : s.BankFrame [0] [.keeperA, .keeperB] (s.loadHalf k t) := by
  have hkeeper (x : KeeperSt) : s.BankFrame [0] [.keeperA, .keeperB] (s.setKeeper k x) :=
    (s.setKeeper_frame k x).banks (fun _ h => absurd h List.not_mem_nil) (fun _ => id)
  have hstate (x : KeeperSt) : s.BankFrame [0] [.keeperA, .keeperB] ((s.setKeeper k x).setResState k 1) :=
    (hkeeper x).setFld (by rw [keyBank_keeper (by decide)]; exact List.mem_singleton_self _)
  exact (hstate _).trans ((showTables_frame _ k).mono (fun _ => id) (fun _ h => absurd h List.not_mem_nil))

/-- The half that keeper k does not run holds the table. -/
theorem resTable_loadHalf (s : Zone) (k : Keeper) (t : Table) : (s.loadHalf k t).resTable k = some t := by
  have hkeeper (x : KeeperSt) : (((s.setKeeper k x).setResState k 1).showTables k).keeper k = x := by
    rw [keeper_showTables, setResState, keeper_setFld, keeper_setKeeper]
  unfold loadHalf resTable
  dsimp only
  rw [hkeeper]
  rcases (s.keeper k).runs with _ | (_ | _)
  · rfl
  · rfl
  · rfl

theorem keeper_other_loadHalf (s : Zone) (k : Keeper) (t : Table) : (s.loadHalf k t).keeper k.other = s.keeper k.other :=
  (keeper_showTables _ k _).trans ((keeper_setFld _ _ _ _ _).trans (s.keeper_other_setKeeper k _))

end Halves

/-! ### The response to LOAD_TABLE (R230) -/

theorem lastAnswer_answer (s : Zone) (code : Nat) (seq : BitVec 32) (status : Nat) (result : List Byte) :
    (s.answer code seq status result).lastAnswer = some (code, seq, status, result) := s.lastAnswer_send code seq status result

theorem answerLoad_frame (s : Zone) (seq : BitVec 32) (a b : Nat) : s.BankFrame [0] [.supv] (s.answerLoad seq a b) := by
  have h : s.Frame [pKEEPER .A + KEEPER.LOAD_RESULT_CODE.off, pKEEPER .B + KEEPER.LOAD_RESULT_CODE.off] [.supv]
      (s.answerLoad seq a b) := (((Frame.refl.setLoadResult (.head _)).setLoadResult (.tail _ (.head _))).send (.head _)).supv (.head _)
  exact h.banks (by decide) (fun _ => id)

/-- What the end of a load leaves: no load, the response with both words, and the tables by the verdicts. -/
structure EndsLoad (s z : Zone) (c : LoadCmd) (a b : Nat) : Prop where
  ended : z.watch.load = none
  answer : z.lastAnswer = some (5, c.seq, 0, leBytes 4 a ++ leBytes 4 b)
  accepted : a = 0 ∧ b = 0 → z.watch.change = some (.trial, none) ∧
    z.resTable .A = some (tableOf c.image) ∧ z.resTable .B = some (tableOf c.image)
  rejected : ¬ (a = 0 ∧ b = 0) → z.watch.change = s.watch.change ∧ z.keeperA = s.keeperA ∧ z.keeperB = s.keeperB
  mem : z.SameMemory s

theorem loadDone_endsLoad (s : Zone) (c : LoadCmd) (a b : Nat) : s.EndsLoad (s.loadDone c a b) c a b := by
  unfold loadDone
  extract_lets w s₁ s₂ t s₃
  have hf : s₁.BankFrame [0] [.supv] s₂ := s₁.answerLoad_frame c.seq a b
  have hanswer : s₂.lastAnswer = some (5, c.seq, 0, leBytes 4 a ++ leBytes 4 b) := lastAnswer_answer _ _ _ _ _
  have hwatch : s₂.watch = s₁.watch := hf.part .watch (by decide)
  by_cases hv : a = 0 ∧ b = 0
  case pos =>
    rw [if_pos hv]
    have hA := s₂.loadHalf_frame .A t
    have hB := (s₂.loadHalf .A t).loadHalf_frame .B t
    have h₃ : s₃.watch = s₁.watch := ((hA.trans hB).part .watch (by decide)).trans hwatch
    constructor
    case ended => exact congrArg WatchSt.load h₃
    case answer => exact (lastAnswer_congr ((hA.trans hB).part .supv (by decide))).trans hanswer
    case accepted =>
      exact fun _ => ⟨rfl, (resTable_congr (keeper_other_loadHalf _ .B t)).trans (s₂.resTable_loadHalf .A t), resTable_loadHalf _ .B t⟩
    case rejected => exact fun h => absurd hv h
    case mem => exact fun j => (hf.memory j).trans ((hA.trans hB).memory j)
  case neg =>
    rw [if_neg hv]
    exact
      { ended := congrArg WatchSt.load hwatch
        answer := hanswer
        accepted := fun h => absurd h hv
        rejected := fun _ => ⟨(congrArg WatchSt.change hwatch :), hf.part .keeperA (by decide), hf.part .keeperB (by decide)⟩
        mem := hf.memory }

/-! ### Verdicts (R198) -/

/-- The word of keeper k's loader on an image (R198, R230). -/
def loaderWord (s : Zone) (k : Keeper) (image : List Byte) : Nat :=
  if s.healthy k = true then (match s.loaderCheck 0 image with | none => 0 | some (e, d) => loadWord e d) else loadWord 0x20 0

theorem not_healthy_iff : (s.keeperDown k || decide (s.role k = Role.stopped)) = true ↔ ¬ s.healthy k = true := by
  unfold healthy
  cases s.keeperDown k <;> simp

variable {c : LoadCmd}

/-- A verdict is noted with the load; the second one ends it. -/
theorem loaderVerdict_eq (hl : s.watch.load = some c) : s.loaderVerdict k =
    match (c.judged k (s.loaderWord k c.image)).wordA, (c.judged k (s.loaderWord k c.image)).wordB with
    | some a, some b => Zone.loadDone { s with watch := { s.watch with load := some (c.judged k (s.loaderWord k c.image)) } }
        (c.judged k (s.loaderWord k c.image)) a b
    | _, _ => Zone.setLoadResult { s with watch := { s.watch with load := some (c.judged k (s.loaderWord k c.image)) } } k
        (s.loaderWord k c.image) := by
  unfold loaderVerdict
  simp only [hl, not_healthy_iff, ite_not] <;> rfl

theorem loaderVerdict_first (hl : s.watch.load = some c) (ho : c.word k.other = none) : s.loaderVerdict k =
    Zone.setLoadResult { s with watch := { s.watch with load := some (c.judged k (s.loaderWord k c.image)) } } k
      (s.loaderWord k c.image) := by
  rw [loaderVerdict_eq hl]
  cases k <;> (simp only [LoadCmd.word, Keeper.other] at ho; simp only [LoadCmd.judged, ho])

theorem loaderVerdict_second {o : Nat} (hl : s.watch.load = some c) (ho : c.word k.other = some o) : s.loaderVerdict k =
    Zone.loadDone { s with watch := { s.watch with load := some (c.judged k (s.loaderWord k c.image)) } }
      (c.judged k (s.loaderWord k c.image)) (match k with | .A => s.loaderWord k c.image | .B => o)
      (match k with | .A => o | .B => s.loaderWord k c.image) := by
  rw [loaderVerdict_eq hl]
  cases k <;> (simp only [LoadCmd.word, Keeper.other] at ho; simp only [LoadCmd.judged, ho])

theorem loaderVerdict_idle (hl : s.watch.load = none) : s.loaderVerdict k = s := by
  unfold loaderVerdict
  rw [hl]

end Zone

/-! ### The obligation -/

section Verdicts

variable {s : State} {k : Keeper} {c : LoadCmd}

theorem completes_loaderVerdict (hl : s.zone.logicRuns = true) : Completes (.loaderVerdict k) s (· = s.zone.loaderVerdict k) := by
  refine ⟨_, ?_, rfl⟩
  change execLoaderVerdict k s = _
  exact State.runOn_runs _ _ hl

/-- The first verdict is kept and shown. -/
theorem completes_loaderVerdict_first (hl : s.zone.logicRuns = true) (hc : s.zone.watch.load = some c) (ho : c.word k.other = none) :
    Completes (.loaderVerdict k) s fun z =>
      z.rd (pKEEPER k + KEEPER.LOAD_RESULT_CODE.off) = BitVec.ofNat 32 (s.zone.loaderWord k c.image) ∧
      z.watch = { s.zone.watch with load := some (c.judged k (s.zone.loaderWord k c.image)) } ∧
      s.zone.Frame [pKEEPER k + KEEPER.LOAD_RESULT_CODE.off] [.watch] z := by
  refine (completes_loaderVerdict hl).imp fun z hz => ?_
  rw [hz, Zone.loaderVerdict_first hc ho]
  have hload : s.zone.Frame [pKEEPER k + KEEPER.LOAD_RESULT_CODE.off] [.watch]
      { s.zone with watch := { s.zone.watch with load := some (c.judged k (s.zone.loaderWord k c.image)) } } :=
    Zone.Frame.refl.parts rfl rfl (.watch (by decide))
  exact ⟨Zone.rd_setLoadResult _ _ _, rfl, hload.setLoadResult (.head _)⟩

/-- The second one ends the load. -/
theorem completes_loaderVerdict_second {o : Nat} (hl : s.zone.logicRuns = true) (hc : s.zone.watch.load = some c)
    (ho : c.word k.other = some o) : Completes (.loaderVerdict k) s fun z =>
      s.zone.EndsLoad z c (match k with | .A => s.zone.loaderWord k c.image | .B => o)
        (match k with | .A => o | .B => s.zone.loaderWord k c.image) := by
  refine (completes_loaderVerdict hl).imp fun z hz => ?_
  rw [hz, Zone.loaderVerdict_second hc ho]
  have h := Zone.loadDone_endsLoad { s.zone with watch := { s.zone.watch with load := some (c.judged k (s.zone.loaderWord k c.image)) } }
    (c.judged k (s.zone.loaderWord k c.image)) (match k with | .A => s.zone.loaderWord k c.image | .B => o)
    (match k with | .A => o | .B => s.zone.loaderWord k c.image)
  obtain ⟨hended, hanswer, haccepted, hrejected, hmem⟩ := h
  cases k <;> exact ⟨hended, hanswer, haccepted, hrejected, hmem⟩

theorem completes_loaderVerdict_idle (hc : s.zone.watch.load = none) : Completes (.loaderVerdict k) s (s.zone.Frame [] []) := by
  refine ⟨s.zone, ?_, .refl⟩
  change execLoaderVerdict k s = _
  unfold execLoaderVerdict
  rw [State.runOn, State.run_eq, Zone.loaderVerdict_idle hc, ite_self]

end Verdicts

/-- Settles O29: the first verdict, the second one and no load, with the word of a loader as `Zone.loaderWord`. -/
theorem loaderVerdictsCloseALoad : Obligations.LoaderVerdictsCloseALoad := by
  unfold Obligations.LoaderVerdictsCloseALoad
  refine ⟨?first, ?second, fun s k => completes_loaderVerdict_idle⟩
  case first =>
    intro s k c v hl hc ho hv
    have hword : v = s.zone.loaderWord k c.image := hv
    rw [hword]
    cases k <;> exact completes_loaderVerdict_first hl hc ho
  case second =>
    intro s k c v o hl hc ho hv
    have hword : v = s.zone.loaderWord k c.image := hv
    rw [hword]
    cases k with
    | A =>
      refine (completes_loaderVerdict_second (k := .A) hl hc ho).imp fun z hz => ?_
      obtain ⟨hended, hanswer, haccepted, hrejected, hmem⟩ := hz
      exact ⟨hended, hanswer, haccepted, fun h => hrejected (by tauto), hmem⟩
    | B =>
      refine (completes_loaderVerdict_second (k := .B) hl hc ho).imp fun z hz => ?_
      obtain ⟨hended, hanswer, haccepted, hrejected, hmem⟩ := hz
      exact ⟨hended, hanswer, fun h => haccepted h.symm, fun h => hrejected (by tauto), hmem⟩

end Sys2Proof.Machine
end

