-- ==== Sys2Proof/Proofs/TableCommands.lean ====
section
/-! SUPPORT. The commands on tables and the watch: LOAD_TABLE, COMMIT_TABLE, ROLLBACK_TABLE and WATCH_CHANGE (R230 to R234), with O8. -/

namespace Sys2Proof.Machine

open Reg

namespace Zone

/-! ### What the commands find as it was -/

section Taken

variable {z : Zone} {code : Nat} {e : Envelope} (h : z.Accepts code e) (k : Keeper)

include h

theorem seqTaken_keeper : (z.seqTaken e).keeper k = z.keeper k := by
  cases k with
  | A => exact (seqTaken_frame h).part .keeperA (by decide)
  | B => exact (seqTaken_frame h).part .keeperB (by decide)

theorem seqTaken_watch : (z.seqTaken e).watch = z.watch := (seqTaken_frame h).part .watch (by decide)

/-- The highest SEQ is not on a keeper's page. -/
theorem seqTaken_fld_keeper (f : Fld) : (z.seqTaken e).fld (pKEEPER k) f = z.fld (pKEEPER k) f := by
  refine (seqTaken_frame h).fld fun hk => ?_
  have hpage : 4096 ≤ pKEEPER k := by cases k <;> decide
  have hword := List.mem_singleton.mp hk
  have hseq : pZONE 0 + ZONE0.SUPV_SEQ_HIGH_LO.off < 4096 := by decide
  omega

theorem seqTaken_flag_keeper (f : Fld) : (z.seqTaken e).flag (pKEEPER k) f = z.flag (pKEEPER k) f := by
  unfold flag
  rw [seqTaken_fld_keeper h]

theorem seqTaken_role : (z.seqTaken e).role k = z.role k := seqTaken_fld_keeper h k _

theorem seqTaken_holdsWatch : (z.seqTaken e).holdsWatch k = z.holdsWatch k := by
  unfold holdsWatch
  rw [seqTaken_fld_keeper h]

theorem seqTaken_holder : (z.seqTaken e).holder = z.holder := by
  unfold holder
  simp only [seqTaken_holdsWatch h]

theorem seqTaken_inTrial : (z.seqTaken e).inTrial = z.inTrial := by
  unfold inTrial
  simp only [seqTaken_role h, seqTaken_watch h]

theorem seqTaken_healthy : (z.seqTaken e).healthy k = z.healthy k := by
  unfold healthy keeperDown fencedNow
  simp only [seqTaken_role h, seqTaken_flag_keeper h]

theorem seqTaken_mirrorUp : (z.seqTaken e).mirrorUp k = z.mirrorUp k := by
  unfold mirrorUp missLimit fencedNow
  simp only [seqTaken_keeper h, seqTaken_holdsWatch h, seqTaken_flag_keeper h, seqTaken_fld_keeper h]

theorem seqTaken_standbyReady (commit : Bool) : (z.seqTaken e).standbyReady commit = z.standbyReady commit := by
  unfold standbyReady
  simp only [seqTaken_holder h, seqTaken_role h, seqTaken_mirrorUp h, seqTaken_flag_keeper h, seqTaken_keeper h]

theorem seqTaken_rollbackCheck : (z.seqTaken e).rollbackCheck = z.rollbackCheck := by
  have hfloor (f : Fld) : (z.seqTaken e).fld (pZONE 1) f = z.fld (pZONE 1) f := seqTaken_fld_keeper h .A f
  have hres (k : Keeper) : (z.seqTaken e).resTable k = z.resTable k := resTable_congr (seqTaken_keeper h k)
  unfold rollbackCheck resState
  simp only [seqTaken_holder h, hres, seqTaken_fld_keeper h, hfloor]

end Taken

/-! ### LOAD_TABLE (R230) -/

section Load

variable {s : Zone} {seq : BitVec 32}

theorem loadTable_begins {l : List Byte} (ht : s.inTrial = false) (ha : s.healthy .A = true) (hb : s.healthy .B = true) :
    s.loadTable seq (some l) =
      { s.accept Code.load seq true with watch := { s.watch with load := some ⟨seq, l, none, none⟩ } } := by
  unfold loadTable
  rw [if_neg (by simp [ht]), if_neg (by simp [ha, hb])]
  rfl

/-- Why LOAD_TABLE is refused: the code of both its words, by the first condition that applies. -/
def loadRefusal (s : Zone) : Nat := if s.inTrial then 0x22 else if s.healthy .A = false ∨ s.healthy .B = false then 0x20 else 0x21

theorem loadTable_refused {stored : Option (List Byte)}
    (h : s.inTrial = true ∨ s.healthy .A = false ∨ s.healthy .B = false ∨ stored = none) :
    s.loadTable seq stored =
      (s.accept Code.load seq true).answerLoad seq (loadWord s.loadRefusal 0) (loadWord s.loadRefusal 0) := by
  unfold loadTable loadRefusal
  by_cases ht : s.inTrial = true
  · rw [if_pos ht, if_pos ht]
  rw [if_neg ht, if_neg ht]
  by_cases hk : s.healthy .A = false ∨ s.healthy .B = false
  · rw [if_pos (by simpa using hk), if_pos hk]
  · rw [if_neg (by simpa using hk), if_neg hk, show stored = none by tauto]

theorem loadRefusal_seqTaken {z : Zone} {code : Nat} {e : Envelope} (h : z.Accepts code e) :
    (z.seqTaken e).loadRefusal = z.loadRefusal := by
  unfold loadRefusal
  rw [seqTaken_inTrial h, seqTaken_healthy h, seqTaken_healthy h]

theorem answerLoad_words (s : Zone) (seq : BitVec 32) (a b : Nat) :
    s.Frame [pKEEPER .A + KEEPER.LOAD_RESULT_CODE.off, pKEEPER .B + KEEPER.LOAD_RESULT_CODE.off] [.supv] (s.answerLoad seq a b) :=
  (((Frame.refl.setLoadResult (.head _)).setLoadResult (.tail _ (.head _))).send (.head _)).supv (.head _)

/-- A word with a code alone is the code in its upper byte. -/
theorem answerLoad_refusal (s : Zone) (seq : BitVec 32) (c : Nat) : (s.answerLoad seq (loadWord c 0) (loadWord c 0)).lastAnswer =
    some (Code.load, seq, 0, leBytes 4 (c * 2 ^ 24) ++ leBytes 4 (c * 2 ^ 24)) := by
  rw [show loadWord c 0 = c * 2 ^ 24 from Nat.add_zero _]
  generalize c * 2 ^ 24 = w
  exact lastAnswer_answer _ _ _ _ _

end Load

/-! ### Answers and scheduled changes -/

/-- A table command is answered with its result word, and executes no more. -/
structure AnswersWord (s z : Zone) (code : Nat) (seq : BitVec 32) (word : Nat) : Prop where
  answer : z.lastAnswer = some (code, seq, 0, leBytes 4 word)
  executing : z.supv.executing = s.supv.executing
  frame : s.Frame [pZONE 0 + ZONE0.SUPV_SEQ_HIGH_LO.off] [.supv, .sleep] z

/-- A table command is answered DONE, and executes until the change that it has left with the watch takes effect. -/
structure ExecutesOn (s z : Zone) (code : Nat) (seq : BitVec 32) (x : WatchSt) : Prop where
  watch : z.watch = x
  answer : z.lastAnswer = some (code, seq, 0, leBytes 4 0)
  executing : z.supv.executing = s.supv.executing ++ [⟨code, seq, false⟩]
  frame : s.Frame [pZONE 0 + ZONE0.SUPV_SEQ_HIGH_LO.off] [.supv, .sleep, .watch] z

section Answers

variable {z : Zone} {c : Nat} {e : Envelope} (h : z.Accepts c e) (code : Nat) (seq : BitVec 32)

include h

theorem tableResult_answersWord (word : Nat) : z.AnswersWord ((z.seqTaken e).tableResult code seq word) code seq word where
  answer := lastAnswer_send _ _ _ _ _
  executing := seqTaken_executing h
  frame := (seqTaken_frame h).send (by decide)

theorem accept_executesOn (x : WatchSt) :
    z.ExecutesOn { ((z.seqTaken e).tableResult code seq 0).accept code seq false with watch := x } code seq x where
  watch := rfl
  answer := lastAnswer_send (z.seqTaken e) _ _ _ _
  executing := congrArg (· ++ [_]) (seqTaken_executing h)
  frame :=
    have hframe : z.Frame [pZONE 0 + ZONE0.SUPV_SEQ_HIGH_LO.off] [.supv, .sleep, .watch] (z.seqTaken e) :=
      (seqTaken_frame h).mono (by decide) (by decide)
    ((hframe.send (by decide)).supv (by decide)).parts rfl rfl (.watch (by decide))

theorem schedWatch_executesOn (commit raise : Bool) : z.ExecutesOn ((z.seqTaken e).schedWatch code seq commit raise) code seq
    { z.watch with sched := some ⟨some (code, seq), commit, raise⟩ } := by
  rw [← seqTaken_watch h]
  exact accept_executesOn h code seq _

end Answers

/-! ### COMMIT_TABLE (R232) -/

section Commit

variable {s : Zone} {seq : BitVec 32} {arg : Nat} {k : Keeper}

/-- Keeper k tries the table that a commit is about: keeper B where both are in trial. -/
structure Trying (s : Zone) (k : Keeper) : Prop where
  role : s.role k = Role.trial
  only : k = .A → s.role .B ≠ Role.trial

theorem inTrial_of_role (h : s.role k = Role.trial) : s.inTrial = true := by
  have htrial : s.role .A = Role.trial ∨ s.role .B = Role.trial := by
    cases k with
    | A => exact .inl h
    | B => exact .inr h
  unfold inTrial
  rw [decide_eq_true htrial, Bool.true_or]

theorem Trying.keeper (h : s.Trying k) : (if s.role .B = Role.trial then Keeper.B else Keeper.A) = k := by
  cases k with
  | A => exact if_neg (h.only rfl)
  | B => exact if_pos h.role

theorem commitTable_noTrial (h : s.inTrial = false) : s.commitTable seq arg = s.tableResult Code.commit seq 0x23 :=
  if_pos (by simp [h])

/-- The trial has not begun, or is shorter than 64 rounds. -/
theorem commitTable_early (ht : s.inTrial = true) (hb : s.role .B = Role.trial → s.fld (pKEEPER .B) KEEPER.TRIAL_ROUNDS < 64)
    (ha : s.role .B ≠ Role.trial → s.role .A ≠ Role.trial ∨ s.fld (pKEEPER .A) KEEPER.TRIAL_ROUNDS < 64) :
    s.commitTable seq arg = s.tableResult Code.commit seq 0x24 := by
  unfold commitTable
  rw [if_neg (by simp [ht])]
  refine if_pos ?_
  by_cases hk : s.role .B = Role.trial
  · rw [if_pos hk, decide_eq_true (hb hk), Bool.or_true]
  · rw [if_neg hk]
    simpa [-not_lt] using ha hk

section Long

variable (h : s.Trying k) (hr : 64 ≤ s.fld (pKEEPER k) KEEPER.TRIAL_ROUNDS)

include h hr

/-- A trial of 64 rounds is judged by its faults and by the standby. -/
theorem commitTable_judged : s.commitTable seq arg =
    if 0 < s.fld (pKEEPER k) KEEPER.TRIAL_FAULTS ∧ ¬arg.testBit 1 then s.tableResult Code.commit seq 0x25
    else if !s.standbyReady true then s.tableResult Code.commit seq 0x28
    else s.schedWatch Code.commit seq true (arg.testBit 0) := by
  unfold commitTable
  rw [h.keeper, if_neg (by simp [inTrial_of_role h.role]), if_neg (by simp [h.role, hr])]

theorem commitTable_faulty (hf : 0 < s.fld (pKEEPER k) KEEPER.TRIAL_FAULTS) (ha : arg.testBit 1 = false) :
    s.commitTable seq arg = s.tableResult Code.commit seq 0x25 := by
  rw [commitTable_judged h hr, if_pos ⟨hf, by simp [ha]⟩]

variable (hf : s.fld (pKEEPER k) KEEPER.TRIAL_FAULTS = 0 ∨ arg.testBit 1 = true)

include hf

theorem commitTable_notReady (hs : s.standbyReady true = false) : s.commitTable seq arg = s.tableResult Code.commit seq 0x28 := by
  rw [commitTable_judged h hr, if_neg (by rintro ⟨hpos, hbit⟩; exact hf.elim (by omega) hbit), if_pos (by simp [hs])]

theorem commitTable_passed (hs : s.standbyReady true = true) :
    s.commitTable seq arg = s.schedWatch Code.commit seq true (arg.testBit 0) := by
  rw [commitTable_judged h hr, if_neg (by rintro ⟨hpos, hbit⟩; exact hf.elim (by omega) hbit), if_neg (by simp [hs])]

end Long

end Commit

/-! ### ROLLBACK_TABLE and WATCH_CHANGE (R233, R234) -/

section Changes

variable {s : Zone} {seq : BitVec 32}

theorem rollbackTable_waits (h : s.inTrial = true ∨ s.rollbackCheck = 0) : s.rollbackTable seq =
    { (s.tableResult Code.rollback seq 0).accept Code.rollback seq false with
      watch := { s.watch with change := some (.rollback, some seq) } } := by
  have hw : (if s.inTrial then 0 else s.rollbackCheck) = 0 := by
    split
    case isTrue => rfl
    case isFalse hn => exact h.resolve_left hn
  unfold rollbackTable
  rw [hw]
  rfl

theorem rollbackTable_refused (ht : s.inTrial = false) (hc : s.rollbackCheck ≠ 0) :
    s.rollbackTable seq = s.tableResult Code.rollback seq s.rollbackCheck := by
  have hw : (if s.inTrial then 0 else s.rollbackCheck) = s.rollbackCheck := if_neg (by simp [ht])
  unfold rollbackTable
  rw [hw]
  exact if_pos hc

theorem watchChange_ready (ht : s.inTrial = false) (hs : s.standbyReady false = true) :
    s.watchChange seq = s.schedWatch Code.watch seq false false := by
  unfold watchChange
  rw [if_neg (by simp [ht]), if_neg (by simp [hs])]

theorem watchChange_refused (h : s.inTrial = true ∨ s.standbyReady false = false) :
    s.watchChange seq = s.tableResult Code.watch seq (if s.inTrial then 0x22 else 0x28) := by
  unfold watchChange
  by_cases ht : s.inTrial = true
  · rw [if_pos ht, if_pos ht]
  · rw [if_neg ht, if_neg ht, if_pos (by simp [h.resolve_left ht])]

end Changes

end Zone

/-! ### The commands -/

section Commands

variable {s : State} {e : Envelope}

theorem completes_loadTable {l : Option (List Byte)} (k : Fin 16) (h : s.zone.Accepts Code.load e) (ha : e.args = leBytes 4 k.val) :
    Completes (.loadTable e l) s (· = (s.zone.seqTaken e).loadTable e.seq l) :=
  completes_word (top := 15) (effect := fun s => s.loadTable e.seq l) rfl h ha (by omega) (by omega)

theorem completes_loadTable_begins {l : List Byte} (k : Fin 16) (h : s.zone.Accepts Code.load e) (ha : e.args = leBytes 4 k.val)
    (ht : s.zone.inTrial = false) (hA : s.zone.healthy .A = true) (hB : s.zone.healthy .B = true) :
    Completes (.loadTable e (some l)) s fun z =>
      z.watch.load = some ⟨e.seq, l, none, none⟩ ∧ z.supv.executing = s.zone.supv.executing ++ [⟨Code.load, e.seq, true⟩] ∧
      z.supv.replies = s.zone.supv.replies ∧ s.zone.Frame [pZONE 0 + ZONE0.SUPV_SEQ_HIGH_LO.off] [.supv, .sleep, .watch] z := by
  refine (completes_loadTable k h ha).imp fun z hz => ?_
  rw [Zone.loadTable_begins (by rwa [Zone.seqTaken_inTrial h]) (by rwa [Zone.seqTaken_healthy h])
    (by rwa [Zone.seqTaken_healthy h])] at hz
  subst hz
  have hframe : s.zone.Frame [pZONE 0 + ZONE0.SUPV_SEQ_HIGH_LO.off] [.supv, .sleep, .watch] (s.zone.seqTaken e) :=
    (Zone.seqTaken_frame h).mono (by decide) (by decide)
  exact ⟨rfl, congrArg (· ++ [_]) (Zone.seqTaken_executing h), Zone.seqTaken_replies h,
    (hframe.supv (by decide)).parts rfl rfl (.watch (by decide))⟩

theorem completes_loadTable_refused {l : Option (List Byte)} (k : Fin 16) (h : s.zone.Accepts Code.load e)
    (ha : e.args = leBytes 4 k.val)
    (hn : s.zone.inTrial = true ∨ s.zone.healthy .A = false ∨ s.zone.healthy .B = false ∨ l = none) :
    Completes (.loadTable e l) s fun z =>
      z.lastAnswer = some (Code.load, e.seq, 0,
        leBytes 4 (s.zone.loadRefusal * 2 ^ 24) ++ leBytes 4 (s.zone.loadRefusal * 2 ^ 24)) ∧ z.watch = s.zone.watch ∧
      s.zone.Frame [pZONE 0 + ZONE0.SUPV_SEQ_HIGH_LO.off, pKEEPER .A + KEEPER.LOAD_RESULT_CODE.off,
        pKEEPER .B + KEEPER.LOAD_RESULT_CODE.off] [.supv, .sleep] z := by
  refine (completes_loadTable k h ha).imp fun z hz => ?_
  rw [Zone.loadTable_refused (by rwa [Zone.seqTaken_inTrial h, Zone.seqTaken_healthy h, Zone.seqTaken_healthy h]),
    Zone.loadRefusal_seqTaken h] at hz
  subst hz
  have hanswer := Zone.answerLoad_words ((s.zone.seqTaken e).accept Code.load e.seq true) e.seq
    (Zone.loadWord s.zone.loadRefusal 0) (Zone.loadWord s.zone.loadRefusal 0)
  have hframe : s.zone.Frame [pZONE 0 + ZONE0.SUPV_SEQ_HIGH_LO.off, pKEEPER .A + KEEPER.LOAD_RESULT_CODE.off,
      pKEEPER .B + KEEPER.LOAD_RESULT_CODE.off] [.supv, .sleep] ((s.zone.seqTaken e).accept Code.load e.seq true) :=
    ((Zone.seqTaken_frame h).mono (by decide) (by decide)).supv (by decide)
  exact ⟨Zone.answerLoad_refusal _ _ _, (hanswer.part .watch (by decide)).trans (Zone.seqTaken_watch h),
    hframe.trans (hanswer.mono (by decide) (by decide))⟩

/-- An accepted COMMIT_TABLE with its FLAGS. -/
theorem completes_commitTable (f : Fin 4) (h : s.zone.Accepts Code.commit e) (ha : e.args = leBytes 4 f.val) :
    Completes (.commitTable e) s (· = (s.zone.seqTaken e).commitTable e.seq f.val) := by
  have hruns := completes_word (c := .commitTable e) (top := 3)
    (effect := fun s => s.commitTable e.seq (leAt e.args 0 4)) rfl h ha (by omega) (by omega)
  have harg : leAt e.args 0 4 = f.val := by rw [ha, leAt_word (by omega)]
  rwa [harg] at hruns

/-- A COMMIT_TABLE that comes to a result word. -/
theorem completes_commitTable_word {f : Fin 4} {w : Nat} (h : s.zone.Accepts Code.commit e) (ha : e.args = leBytes 4 f.val)
    (hc : (s.zone.seqTaken e).commitTable e.seq f.val = (s.zone.seqTaken e).tableResult Code.commit e.seq w) :
    Completes (.commitTable e) s fun z => s.zone.AnswersWord z Code.commit e.seq w := by
  refine (completes_commitTable f h ha).imp fun z hz => ?_
  rw [hz, hc]
  exact Zone.tableResult_answersWord h _ _ _

/-- The trial of a keeper as the accepted command finds it. -/
theorem Zone.Trying.seqTaken {z : Zone} {code : Nat} {k : Keeper} (ht : z.Trying k) (h : z.Accepts code e) :
    (z.seqTaken e).Trying k where
  role := (Zone.seqTaken_role h k).trans ht.role
  only := fun hk => by
    rw [Zone.seqTaken_role h]
    exact ht.only hk

theorem completes_commitTable_passed {k : Keeper} {f : Fin 4} (h : s.zone.Accepts Code.commit e) (ha : e.args = leBytes 4 f.val)
    (ht : s.zone.Trying k) (hr : 64 ≤ s.zone.fld (pKEEPER k) KEEPER.TRIAL_ROUNDS)
    (hf : s.zone.fld (pKEEPER k) KEEPER.TRIAL_FAULTS = 0 ∨ f.val.testBit 1 = true) (hs : s.zone.standbyReady true = true) :
    Completes (.commitTable e) s fun z => s.zone.ExecutesOn z Code.commit e.seq
      { s.zone.watch with sched := some ⟨some (Code.commit, e.seq), true, f.val.testBit 0⟩ } := by
  refine (completes_commitTable f h ha).imp fun z hz => ?_
  rw [hz, Zone.commitTable_passed (ht.seqTaken h) (by rwa [Zone.seqTaken_fld_keeper h]) (by rwa [Zone.seqTaken_fld_keeper h])
    (by rwa [Zone.seqTaken_standbyReady h])]
  exact Zone.schedWatch_executesOn h _ _ _ _

theorem completes_rollbackTable_waits (h : s.zone.Accepts Code.rollback e) (ha : e.args = [])
    (hw : s.zone.inTrial = true ∨ s.zone.rollbackCheck = 0) : Completes (.rollbackTable e) s fun z =>
      s.zone.ExecutesOn z Code.rollback e.seq { s.zone.watch with change := some (.rollback, some e.seq) } := by
  refine (completes_noArgs rfl h ha).imp fun z hz => ?_
  rw [hz, Zone.rollbackTable_waits (by rwa [Zone.seqTaken_inTrial h, Zone.seqTaken_rollbackCheck h]), Zone.seqTaken_watch h]
  exact Zone.accept_executesOn h _ _ _

theorem completes_rollbackTable_refused (h : s.zone.Accepts Code.rollback e) (ha : e.args = []) (ht : s.zone.inTrial = false)
    (hc : s.zone.rollbackCheck ≠ 0) : Completes (.rollbackTable e) s fun z =>
      s.zone.AnswersWord z Code.rollback e.seq s.zone.rollbackCheck := by
  refine (completes_noArgs rfl h ha).imp fun z hz => ?_
  rw [hz, Zone.rollbackTable_refused (by rwa [Zone.seqTaken_inTrial h]) (by rwa [Zone.seqTaken_rollbackCheck h]),
    Zone.seqTaken_rollbackCheck h]
  exact Zone.tableResult_answersWord h _ _ _

theorem completes_watchChange_ready (h : s.zone.Accepts Code.watch e) (ha : e.args = []) (ht : s.zone.inTrial = false)
    (hs : s.zone.standbyReady false = true) : Completes (.watchChange e) s fun z => s.zone.ExecutesOn z Code.watch e.seq
      { s.zone.watch with sched := some ⟨some (Code.watch, e.seq), false, false⟩ } := by
  refine (completes_noArgs rfl h ha).imp fun z hz => ?_
  rw [hz, Zone.watchChange_ready (by rwa [Zone.seqTaken_inTrial h]) (by rwa [Zone.seqTaken_standbyReady h])]
  exact Zone.schedWatch_executesOn h _ _ _ _

theorem completes_watchChange_refused (h : s.zone.Accepts Code.watch e) (ha : e.args = [])
    (hn : s.zone.inTrial = true ∨ s.zone.standbyReady false = false) : Completes (.watchChange e) s fun z =>
      s.zone.AnswersWord z Code.watch e.seq (if s.zone.inTrial then 0x22 else 0x28) := by
  refine (completes_noArgs rfl h ha).imp fun z hz => ?_
  rw [hz, Zone.watchChange_refused (by rwa [Zone.seqTaken_inTrial h, Zone.seqTaken_standbyReady h]), Zone.seqTaken_inTrial h]
  exact Zone.tableResult_answersWord h _ _ _

end Commands

/-- What a refused table command leaves, as the obligation spells it. -/
theorem Completes.answersWord {c : Instr} {s : State} {code w : Nat} {seq : BitVec 32}
    (h : Completes c s fun z => s.zone.AnswersWord z code seq w) : Completes c s fun z =>
      z.lastAnswer = some (code, seq, 0, leBytes 4 w) ∧ z.supv.executing = s.zone.supv.executing ∧
      s.zone.Frame [pZONE 0 + ZONE0.SUPV_SEQ_HIGH_LO.off] [.supv, .sleep] z :=
  h.imp fun _ hz => ⟨hz.answer, hz.executing, hz.frame⟩

/-- What a table command leaves that executes on, as the obligation spells it. -/
theorem Completes.executesOn {c : Instr} {s : State} {code : Nat} {seq : BitVec 32} {x : WatchSt} {P : WatchSt → Prop}
    (h : Completes c s fun z => s.zone.ExecutesOn z code seq x) (hx : P x) : Completes c s fun z => P z.watch ∧
      z.lastAnswer = some (code, seq, 0, leBytes 4 0) ∧ z.supv.executing = s.zone.supv.executing ++ [⟨code, seq, false⟩] ∧
      s.zone.Frame [pZONE 0 + ZONE0.SUPV_SEQ_HIGH_LO.off] [.supv, .sleep, .watch] z :=
  h.imp fun _ hz => ⟨hz.watch ▸ hx, hz.answer, hz.executing, hz.frame⟩

/-- Settles O8: each command finds tables, roles and the watch as they were before its SEQ was taken. -/
theorem tableCommandsStartTheirChange : Obligations.TableCommandsStartTheirChange := by
  unfold Obligations.TableCommandsStartTheirChange
  refine ⟨?load, ?loadRefused, ?commitB, ?commitA, ?noTrial, ?early, ?faulty, ?notReady, ?rollback, ?rollbackRefused, ?watch,
    ?watchRefused⟩
  case load => exact fun s e k l h ha ht hA hB => completes_loadTable_begins k h ha ht hA hB
  case loadRefused =>
    intro s e k l c h ha hc hn
    obtain rfl : c = s.zone.loadRefusal := hc
    exact completes_loadTable_refused k h ha hn
  case commitB =>
    intro s e f h ha hB hr hf hs
    exact (completes_commitTable_passed h ha ⟨hB, fun hk => absurd hk (by decide)⟩ hr hf hs).executesOn (P := fun x => x.sched = _) rfl
  case commitA =>
    intro s e f h ha hB hA hr hf hs
    exact (completes_commitTable_passed h ha ⟨hA, fun _ => hB⟩ hr hf hs).executesOn (P := fun x => x.sched = _) rfl
  case noTrial =>
    intro s e f h ha ht
    exact (completes_commitTable_word h ha (Zone.commitTable_noTrial (by rwa [Zone.seqTaken_inTrial h]))).answersWord
  case early =>
    intro s e f h ha ht hB hA
    refine (completes_commitTable_word h ha (Zone.commitTable_early ?_ ?_ ?_)).answersWord
    · rwa [Zone.seqTaken_inTrial h]
    · rwa [Zone.seqTaken_role h, Zone.seqTaken_fld_keeper h]
    · rwa [Zone.seqTaken_role h, Zone.seqTaken_role h, Zone.seqTaken_fld_keeper h]
  case faulty =>
    intro s e f h ha hB hr hf hbit
    have ht : s.zone.Trying .B := ⟨hB, fun hk => absurd hk (by decide)⟩
    exact (completes_commitTable_word h ha (Zone.commitTable_faulty (ht.seqTaken h) (by rwa [Zone.seqTaken_fld_keeper h])
      (by rwa [Zone.seqTaken_fld_keeper h]) hbit)).answersWord
  case notReady =>
    intro s e f h ha hB hr hf hs
    have ht : s.zone.Trying .B := ⟨hB, fun hk => absurd hk (by decide)⟩
    exact (completes_commitTable_word h ha (Zone.commitTable_notReady (ht.seqTaken h) (by rwa [Zone.seqTaken_fld_keeper h])
      (by rwa [Zone.seqTaken_fld_keeper h]) (by rwa [Zone.seqTaken_standbyReady h]))).answersWord
  case rollback =>
    intro s e h ha hw
    exact (completes_rollbackTable_waits h ha hw).executesOn (P := fun x => x.change = _) rfl
  case rollbackRefused => exact fun s e h ha ht hc => (completes_rollbackTable_refused h ha ht hc).answersWord
  case watch =>
    intro s e h ha ht hs
    exact (completes_watchChange_ready h ha ht hs).executesOn (P := fun x => x.sched = _) rfl
  case watchRefused => exact fun s e h ha hn => (completes_watchChange_refused h ha hn).answersWord

end Sys2Proof.Machine
end

