-- ==== Sys2Proof/Proofs/BeaconsAndMirrorFrames.lean ====
section
/-! SUPPORT. What a keeper sends at cycle 384 of a slot, and who hears it: the stages and the other keeper its beacon, the mirror receiver
of the standby its words (R206, R207, R209, R220, R221), with O26. -/

namespace Sys2Proof.Machine

open Reg

/-- What a stage knows after it has heard keeper k's beacon. -/
def StageSt.hears (x : StageSt) (k : Keeper) (now : Nat) (h : Heard) : StageSt :=
  match k with
  | .A => { x with heardA := (h :: x.heardA).take 2, lastHeard := some now }
  | .B => { x with heardB := (h :: x.heardB).take 2, lastHeard := some now }

/-- What a keeper knows of the other one after a valid beacon `f` in slot `slot`, where it runs a table with tag `tag`. -/
def OtherSt.hears (x : OtherSt) (slot : Nat) (f : Word) (tag : Nat) : OtherSt :=
  { x with
    slot := some slot, fail := decide (f.toNat / 2 ^ 8 % 4 = 1), valid := min 64 (x.valid + 1)
    same := if decide (f.toNat / 2 ^ 16 % 256 = tag) then min 64 (x.same + 1) else 0 }

namespace Zone

variable {s : Zone} {k : Keeper}

/-! ### What a keeper sends (R206, R220) -/

/-- What holds of keeper k and of the other one holds of every keeper. -/
theorem keeper_of_keepers {P : KeeperSt → KeeperSt → Prop} {s z : Zone} (k j : Keeper) (hk : P (z.keeper k) (s.keeper k))
    (ho : P (z.keeper k.other) (s.keeper k.other)) : P (z.keeper j) (s.keeper j) := by
  cases k <;> cases j <;> assumption

/-- The beacon announces from a keeper's state and may change its count of claims with priority and its taking of the watch. -/
theorem announce_keeper (s : Zone) (k : Keeper) :
    ∃ high next, (s.announce k).2.2 = { s.keeper k with high := high, holdNext := next } := by
  unfold announce
  dsimp only
  split
  case h_1 | h_2 =>
    split
    case isTrue => exact ⟨_, _, rfl⟩
    case isFalse => split <;> exact ⟨_, _, rfl⟩
  case h_3 =>
    split
    case isTrue => exact ⟨_, _, rfl⟩
    case isFalse => split <;> exact ⟨_, _, rfl⟩
  case h_4 | h_5 => exact ⟨_, _, rfl⟩

theorem sendBeacon_idle (h : (s.keeper k).beaconDue = false) : s.sendBeacon k = s := if_pos (by simp [h])

/-- What a keeper's sending leaves of its own state. -/
structure Sends (x y : KeeperSt) : Prop where
  due : y.beaconDue = false
  slotNo : y.slotNo = x.slotNo
  markAt : y.markAt = x.markAt

theorem sendBeacon_keeper (s : Zone) (k : Keeper) :
    ∃ y, Sends (s.keeper k) y ∧ s.sendBeacon k = s.setKeeper k y := by
  cases hd : (s.keeper k).beaconDue with
  | false => exact ⟨s.keeper k, ⟨hd, rfl, rfl⟩, by rw [sendBeacon_idle hd, setKeeper_keeper]⟩
  | true =>
    obtain ⟨high, next, hy⟩ := s.announce_keeper k
    unfold sendBeacon
    generalize s.announce k = a at hy ⊢
    obtain ⟨c, w, y⟩ := a
    obtain rfl : y = _ := hy
    refine ⟨_, ?_, if_neg (by simp [hd])⟩
    exact ⟨rfl, rfl, rfl⟩

theorem sendBeacon_sends (s : Zone) (k : Keeper) : Sends (s.keeper k) ((s.sendBeacon k).keeper k) := by
  obtain ⟨y, hy, heq⟩ := s.sendBeacon_keeper k
  rwa [heq, keeper_setKeeper]

theorem sendBeacon_other (s : Zone) (k : Keeper) : (s.sendBeacon k).keeper k.other = s.keeper k.other := by
  obtain ⟨y, -, heq⟩ := s.sendBeacon_keeper k
  rw [heq, keeper_other_setKeeper]

/-- What the other keeper sends leaves keeper k as it is. -/
theorem sendBeacon_receiver (s : Zone) (k : Keeper) : (s.sendBeacon k.other).keeper k = s.keeper k := by
  cases k with
  | A => exact s.sendBeacon_other .B
  | B => exact s.sendBeacon_other .A

theorem sendBeacon_frame (s : Zone) (k : Keeper) : s.Frame [] [.keeperA, .keeperB] (s.sendBeacon k) := by
  obtain ⟨y, -, heq⟩ := s.sendBeacon_keeper k
  rw [heq]
  exact s.setKeeper_frame k y

/-- The slot that the stages expect follows the marks, which sending does not move. -/
theorem stageSlot_sendBeacon (s : Zone) (k : Keeper) : (s.sendBeacon k).stageSlot = s.stageSlot := by
  have hf := s.sendBeacon_frame k
  have ho := s.sendBeacon_other k
  have hs := s.sendBeacon_sends k
  have hslot (j : Keeper) : ((s.sendBeacon k).keeper j).slotNo = (s.keeper j).slotNo :=
    keeper_of_keepers (P := fun y x => y.slotNo = x.slotNo) k j hs.slotNo (congrArg KeeperSt.slotNo ho)
  have hmark (j : Keeper) : ((s.sendBeacon k).keeper j).markAt = (s.keeper j).markAt :=
    keeper_of_keepers (P := fun y x => y.markAt = x.markAt) k j hs.markAt (congrArg KeeperSt.markAt ho)
  have hlocal (j : Keeper) : (s.sendBeacon k).flag (pKEEPER j) KEEPER.KSTATUS_MARK_LOCAL =
      s.flag (pKEEPER j) KEEPER.KSTATUS_MARK_LOCAL := hf.flag List.not_mem_nil
  unfold stageSlot
  simp only [hslot, hmark, hlocal]

/-! ### The stages hear a beacon (R207, R209) -/

theorem stage_congr {z : Zone} (h : z.stages = s.stages) (i : Nat) : z.stage i = s.stage i := congrArg (SMap.get _ · i) h

theorem stage_setStage_same (s : Zone) (i : Nat) (x : StageSt) : (s.setStage i x).stage i = x := SMap.get_set_same _ _ _ _

theorem stage_setStage_ne (s : Zone) {i j : Nat} (x : StageSt) (h : j ≠ i) : (s.setStage i x).stage j = s.stage j :=
  SMap.get_set_ne _ _ _ _ _ h

/-- What stage i knows after keeper k's frame `f` has reached it in slot `slot`. -/
def stageAfter (s : Zone) (k : Keeper) (slot : Nat) (f : Word) (i : Nat) : StageSt :=
  match hear f slot with
  | none => s.stage i
  | some h => (s.stage i).hears k s.mono h

theorem stageAfter_deaf {slot i : Nat} {f : Word} (hh : hear f slot = none) : s.stageAfter k slot f i = s.stage i := by
  unfold stageAfter
  rw [hh]

theorem stageAfter_heard {slot i : Nat} {f : Word} {h : Heard} (hh : hear f slot = some h) :
    s.stageAfter k slot f i = (s.stage i).hears k s.mono h := by
  unfold stageAfter
  rw [hh]

theorem stageHear_frame (s : Zone) (k : Keeper) (slot : Nat) (f : Word) (i : Nat) : s.Frame [] [.stages] (s.stageHear k slot f i) := by
  unfold stageHear
  split
  case h_1 => exact .refl
  case h_2 => exact Frame.refl.setStage (by decide)

theorem stage_stageHear_same (s : Zone) (k : Keeper) (slot : Nat) (f : Word) (i : Nat) :
    (s.stageHear k slot f i).stage i = s.stageAfter k slot f i := by
  unfold stageHear
  cases hh : hear f slot with
  | none => rw [stageAfter_deaf hh]
  | some h =>
    rw [stageAfter_heard hh]
    dsimp only
    rw [stage_setStage_same]
    cases k <;> rfl

theorem stage_stageHear_ne (s : Zone) (k : Keeper) (slot : Nat) (f : Word) {i j : Nat} (h : j ≠ i) :
    (s.stageHear k slot f i).stage j = s.stage j := by
  unfold stageHear
  split
  case h_1 => rfl
  case h_2 => exact stage_setStage_ne _ _ h

/-- A frame reaches the stages of `l`, stage i as `g i`. -/
def stagesHear (s : Zone) (k : Keeper) (slot : Nat) (g : Nat → Word) (l : List Nat) : Zone :=
  s.forEach l fun s i => s.stageHear k slot (g i) i

section Stages

variable (s : Zone) (k : Keeper) (slot : Nat) (g : Nat → Word)

theorem stagesHear_frame (l : List Nat) : s.Frame [] [.stages] (s.stagesHear k slot g l) :=
  forEach_keeps _ l _ (fun z i h => h.trans (z.stageHear_frame k slot (g i) i)) s .refl

theorem stage_stagesHear_of_not_mem {l : List Nat} {i : Nat} (hi : i ∉ l) : (s.stagesHear k slot g l).stage i = s.stage i := by
  induction l generalizing s with
  | nil => rfl
  | cons j l ih =>
    obtain ⟨hj, hl⟩ := List.ne_and_not_mem_of_not_mem_cons hi
    exact (ih _ hl).trans (s.stage_stageHear_ne k slot (g j) hj)

/-- Each stage hears the frame once. -/
theorem stage_stagesHear {l : List Nat} (hd : l.Nodup) {i : Nat} (hi : i ∈ l) :
    (s.stagesHear k slot g l).stage i = s.stageAfter k slot (g i) i := by
  induction l generalizing s with
  | nil => exact absurd hi List.not_mem_nil
  | cons j l ih =>
    obtain ⟨hj, hd⟩ := List.nodup_cons.mp hd
    change ((s.stageHear k slot (g j) j).stagesHear k slot g l).stage i = _
    obtain rfl | hl := List.mem_cons.mp hi
    · rw [stage_stagesHear_of_not_mem _ _ _ _ hj, stage_stageHear_same]
    · have hne : i ≠ j := fun he => hj (he ▸ hl)
      have hmono : (s.stageHear k slot (g j) j).mono = s.mono := (s.stageHear_frame k slot (g j) j).part .mono (by decide)
      rw [ih _ hd hl]
      unfold stageAfter
      rw [s.stage_stageHear_ne k slot (g j) hne, hmono]

end Stages

/-! ### The other keeper hears a beacon (R207, R214) -/

section Other

variable {slot : Nat} {f : Word} {h : Heard}

/-- A claim has eight bits. -/
theorem claim_lt_of_hear (hh : hear f slot = some h) : h.claim < 256 := by
  unfold hear at hh
  split at hh
  case isTrue => exact Option.some.inj hh ▸ Nat.mod_lt _ (by decide)
  case isFalse => cases hh

theorem keeperHear_deaf (hh : hear f slot = none) : s.keeperHear k slot f = s := by
  unfold keeperHear
  rw [hh]

theorem keeperHear_heard (hh : hear f slot = some h) : s.keeperHear k slot f =
    (s.setKeeper k.other { s.keeper k.other with other := (s.keeper k.other).other.hears slot f (s.tableTag k.other) }).setFld
      (pKEEPER k.other) KEEPER.BEACON_OTHER_CLAIM h.claim := by
  unfold keeperHear
  rw [hh]
  rfl

theorem keeperHear_other (hh : hear f slot = some h) :
    ((s.keeperHear k slot f).keeper k.other).other = (s.keeper k.other).other.hears slot f (s.tableTag k.other) := by
  rw [keeperHear_heard hh, keeper_setFld, keeper_setKeeper]

theorem keeperHear_claim (hh : hear f slot = some h) :
    (s.keeperHear k slot f).fld (pKEEPER k.other) KEEPER.BEACON_OTHER_CLAIM = h.claim := by
  rw [keeperHear_heard hh, fld_setFld_same _ _ _ _ (by decide)]
  exact Nat.mod_eq_of_lt (claim_lt_of_hear hh)

theorem keeperHear_frame (s : Zone) (k : Keeper) (slot : Nat) (f : Word) :
    s.Frame [pKEEPER k.other + KEEPER.BEACON_OTHER_CLAIM.off] [.keeperA, .keeperB] (s.keeperHear k slot f) := by
  cases hh : hear f slot with
  | none =>
    rw [keeperHear_deaf hh]
    exact .refl
  | some h =>
    rw [keeperHear_heard hh]
    exact (Frame.refl.setKeeper (by decide) (by decide)).setFld (.head _)

theorem keeperHear_sender (s : Zone) (k : Keeper) (slot : Nat) (f : Word) : (s.keeperHear k slot f).keeper k = s.keeper k := by
  cases hh : hear f slot with
  | none => rw [keeperHear_deaf hh]
  | some h =>
    rw [keeperHear_heard hh]
    cases k <;> rfl

end Other

/-! ### A beacon on the line (R206, R209) -/

/-- The frame on keeper k's line reaches the stages and the other keeper (112), receiver i as `g i`, and leaves the line. -/
def lineHeard (s : Zone) (k : Keeper) (g : Nat → Word) : Zone :=
  let y := s.stagesHear k s.stageSlot g (List.range stageCount)
  let z := y.keeperHear k (y.keeper k.other).slotNo (g stageCount)
  z.setKeeper k { z.keeper k with line := none }

section Line

variable (s : Zone) (k : Keeper) (g : Nat → Word)

theorem lineHeard_frame : s.Frame [pKEEPER k.other + KEEPER.BEACON_OTHER_CLAIM.off] [.keeperA, .keeperB, .stages] (s.lineHeard k g) := by
  have hstages : s.Frame [pKEEPER k.other + KEEPER.BEACON_OTHER_CLAIM.off] [.keeperA, .keeperB, .stages]
      (s.stagesHear k s.stageSlot g (List.range stageCount)) :=
    (s.stagesHear_frame k s.stageSlot g _).mono (fun _ hw => absurd hw List.not_mem_nil) (by decide)
  exact (hstages.trans ((keeperHear_frame _ k _ _).mono (fun _ => id) (by decide))).setKeeper (by decide) (by decide)

theorem stagesHear_keeper (slot : Nat) (l : List Nat) (j : Keeper) : (s.stagesHear k slot g l).keeper j = s.keeper j := by
  have hframe := s.stagesHear_frame k slot g l
  cases j with
  | A => exact hframe.part .keeperA (by decide)
  | B => exact hframe.part .keeperB (by decide)

theorem stage_lineHeard (i : Fin 112) : (s.lineHeard k g).stage i.val = s.stageAfter k s.stageSlot (g i.val) i.val := by
  have hsent (z : Zone) (x : KeeperSt) : (z.setKeeper k x).stage i.val = z.stage i.val :=
    stage_congr ((z.setKeeper_frame k x).part .stages (by decide)) _
  unfold lineHeard
  dsimp only
  rw [hsent, stage_congr ((keeperHear_frame _ _ _ _).part .stages (by decide))]
  exact s.stage_stagesHear k _ g List.nodup_range (List.mem_range.mpr i.isLt)

theorem lineHeard_sender : (s.lineHeard k g).keeper k = { s.keeper k with line := none } := by
  unfold lineHeard
  dsimp only
  rw [keeper_setKeeper, keeperHear_sender, stagesHear_keeper]

theorem lineHeard_deaf (h : hear (g stageCount) (s.keeper k.other).slotNo = none) :
    (s.lineHeard k g).keeper k.other = s.keeper k.other := by
  unfold lineHeard
  dsimp only
  rw [keeper_other_setKeeper, stagesHear_keeper, keeperHear_deaf h, stagesHear_keeper]

theorem lineHeard_heard {h : Heard} (hh : hear (g stageCount) (s.keeper k.other).slotNo = some h) :
    (∃ tag, ((s.lineHeard k g).keeper k.other).other =
      (s.keeper k.other).other.hears (s.keeper k.other).slotNo (g stageCount) tag) ∧
    (s.lineHeard k g).fld (pKEEPER k.other) KEEPER.BEACON_OTHER_CLAIM = h.claim := by
  unfold lineHeard
  dsimp only
  rw [keeper_other_setKeeper, fld_setKeeper, stagesHear_keeper, keeperHear_other hh, stagesHear_keeper]
  exact ⟨⟨_, rfl⟩, keeperHear_claim hh⟩

end Line

/-! ### A beacon sent and heard -/

section Sent

variable (s : Zone) (k : Keeper) (g : Nat → Word)

theorem stage_sendBeacon_lineHeard (i : Fin 112) :
    ((s.sendBeacon k).lineHeard k g).stage i.val = s.stageAfter k s.stageSlot (g i.val) i.val := by
  have hf := s.sendBeacon_frame k
  have hmono : (s.sendBeacon k).mono = s.mono := hf.part .mono (by decide)
  rw [stage_lineHeard, stageSlot_sendBeacon]
  unfold stageAfter
  rw [hmono, stage_congr (hf.part .stages (by decide))]

theorem sender_sendBeacon_lineHeard : (((s.sendBeacon k).lineHeard k g).keeper k).line = none ∧
    (((s.sendBeacon k).lineHeard k g).keeper k).beaconDue = false := by
  rw [lineHeard_sender]
  exact ⟨rfl, (s.sendBeacon_sends k).due⟩

theorem sendBeacon_lineHeard_frame : s.Frame [pKEEPER k.other + KEEPER.BEACON_OTHER_CLAIM.off] [.keeperA, .keeperB, .stages]
    ((s.sendBeacon k).lineHeard k g) :=
  ((s.sendBeacon_frame k).mono (fun _ hw => absurd hw List.not_mem_nil) (by decide)).trans (lineHeard_frame _ k g)

end Sent

/-! ### Mirror words with flipped bits (R221) -/

/-- The word at position i after the flips that name it. -/
def flippedAt (flips : List (Nat × Word)) (i : Nat) (w : Word) : Word :=
  (flips.filter fun x => x.1 == i).foldl (fun w x => w ^^^ x.2) w

/-- The words of a mirror frame as its receiver takes them. -/
def flippedWords (flips : List (Nat × Word)) (words : List (Option Nat × Nat × Word)) : List (Option Nat × Nat × Word) :=
  (List.range words.length).zip words |>.map fun e => (e.2.1, e.2.2.1, flippedAt flips e.1 e.2.2.2)

section Flips

variable {flips : List (Nat × Word)} {words : List (Option Nat × Nat × Word)}

/-- One flip acts on its own word. -/
theorem flippedAt_single {i : Nat} {v w : Word} (h : flips = [(i, v)]) : flippedAt flips i w = w ^^^ v := by simp [flippedAt, h]

theorem length_flippedWords : (flippedWords flips words).length = words.length := by simp [flippedWords]

theorem getElem_flippedWords {i : Nat} (h : i < (flippedWords flips words).length) :
    (flippedWords flips words)[i] = ((words[i]'(length_flippedWords ▸ h)).1, (words[i]'(length_flippedWords ▸ h)).2.1,
      flippedAt flips i (words[i]'(length_flippedWords ▸ h)).2.2) := by
  simp [flippedWords]

theorem flippedWords_nil : flippedWords [] words = words :=
  List.ext_getElem length_flippedWords fun _ h _ => getElem_flippedWords h

end Flips

/-- What the receiver of keeper k takes of a frame. -/
def mirrorTaken (s : Zone) (k : Keeper) (f : MirrorFrame) (flips : List (Nat × Word)) (lost : Bool) : Zone :=
  s.setKeeper k { s.keeper k with rx := some ⟨f.slot, flippedWords flips f.words, if lost then none else f.closing⟩ }

theorem holdsWatch_sendBeacon (s : Zone) (j k : Keeper) : (s.sendBeacon j).holdsWatch k = s.holdsWatch k := by
  unfold holdsWatch
  rw [(s.sendBeacon_frame j).fld List.not_mem_nil]

end Zone

/-! ### The commands -/

section Commands

variable {s : State} {k : Keeper} {e : Word} {l : List Nat} {flips : List (Nat × Word)} {lost : Bool}

/-- The frame as receiver i takes it. -/
def receivedBy (l : List Nat) (w e : Word) (i : Nat) : Word := if l.contains i then w ^^^ e else w

theorem completes_beaconReceive {w : Word} (hl : s.zone.logicRuns = true)
    (hw : ((s.zone.sendBeacon k).keeper k).line = some w) :
    Completes (.beaconReceive k e l) s (· = (s.zone.sendBeacon k).lineHeard k (receivedBy l w e)) := by
  refine completes_runOn (rfl : execBeaconReceive k e l s = _) hl ?_
  dsimp only
  rw [hw]
  rfl

theorem completes_mirrorFrameReceive {f : MirrorFrame} (hl : s.zone.logicRuns = true)
    (hf : ((s.zone.sendBeacon k.other).keeper k.other).sent = some f) (hk : s.zone.holdsWatch k = false) :
    Completes (.mirrorFrameReceive k flips lost) s (· = (s.zone.sendBeacon k.other).mirrorTaken k f flips lost) := by
  refine completes_runOn (rfl : execMirrorFrameReceive k flips lost s = _) hl ?_
  dsimp only
  rw [hf]
  exact if_neg (by simp [Zone.holdsWatch_sendBeacon, hk])

/-- Where no frame comes, or the keeper holds the watch, nothing happens but the sending. -/
theorem completes_mirrorFrameReceive_none
    (h : s.zone.holdsWatch k = true ∨ ((s.zone.sendBeacon k.other).keeper k.other).sent = none) :
    Completes (.mirrorFrameReceive k flips lost) s fun z => z = s.zone ∨ z = s.zone.sendBeacon k.other := by
  cases hl : s.zone.logicRuns with
  | false =>
    refine ⟨s.zone, ?_, .inl rfl⟩
    change execMirrorFrameReceive k flips lost s = _
    exact State.runOn_rests _ _ hl
  | true =>
    refine completes_runOn (rfl : execMirrorFrameReceive k flips lost s = _) hl (.inr ?_)
    dsimp only
    split
    case h_1 => rfl
    case h_2 f hf => exact if_pos ((s.zone.holdsWatch_sendBeacon _ _).trans (h.resolve_right (by simp [hf])))

end Commands

/-- Settles O26: the frame on the line is the one that the sending leaves there, and each receiver judges it by the slot that it had
before. -/
theorem beaconsAndMirrorFramesAreHeard : Obligations.BeaconsAndMirrorFramesAreHeard := by
  unfold Obligations.BeaconsAndMirrorFramesAreHeard
  refine ⟨?stage, ?keeper, ?deaf, ?idle, ?mirror, ?holder⟩
  case stage =>
    rintro s k x w e h l i hl rfl hw hh
    refine (completes_beaconReceive hl hw).imp fun z hz => ?_
    subst hz
    have hstage := (s.zone.stage_sendBeacon_lineHeard k (receivedBy l w e) i).trans (Zone.stageAfter_heard hh)
    obtain ⟨hline, hdue⟩ := s.zone.sender_sendBeacon_lineHeard k (receivedBy l w e)
    have hframe := s.zone.sendBeacon_lineHeard_frame k (receivedBy l w e)
    rw [hstage]
    cases k <;> exact ⟨rfl, rfl, hline, hdue, hframe⟩
  case keeper =>
    rintro s k x w e h l hl rfl hw hh
    rw [← s.zone.sendBeacon_other k] at hh
    refine (completes_beaconReceive hl hw).imp fun z hz => ?_
    subst hz
    obtain ⟨⟨tag, hother⟩, hclaim⟩ := (s.zone.sendBeacon k).lineHeard_heard k (receivedBy l w e) hh
    rw [s.zone.sendBeacon_other k] at hother
    rw [hother]
    obtain ⟨hline, -⟩ := s.zone.sender_sendBeacon_lineHeard k (receivedBy l w e)
    exact ⟨rfl, rfl, hclaim, hline, s.zone.sendBeacon_lineHeard_frame k _⟩
  case deaf =>
    rintro s k x w e l i hl rfl hw hh
    refine (completes_beaconReceive hl hw).imp fun z hz => ?_
    subst hz
    obtain ⟨hline, -⟩ := s.zone.sender_sendBeacon_lineHeard k (receivedBy l w e)
    refine ⟨(s.zone.stage_sendBeacon_lineHeard k _ i).trans (Zone.stageAfter_deaf hh), hline, fun ho => ?_,
      s.zone.sendBeacon_lineHeard_frame k _⟩
    rw [← s.zone.sendBeacon_other k] at ho ⊢
    exact (s.zone.sendBeacon k).lineHeard_deaf k (receivedBy l w e) ho
  case idle =>
    intro s k e l hd hn
    refine completes_idle (rfl : execBeaconReceive k e l s = _) fun _ => ?_
    dsimp only
    rw [Zone.sendBeacon_idle hd, hn]
  case mirror =>
    rintro s k x f y l hl rfl hf hk
    refine (completes_mirrorFrameReceive hl hf hk).imp fun z hz => ?_
    subst hz
    have hreceiver : (s.zone.sendBeacon k.other).keeper k = s.zone.keeper k := s.zone.sendBeacon_receiver k
    unfold Zone.mirrorTaken
    rw [Zone.keeper_setKeeper, Zone.keeper_other_setKeeper, hreceiver]
    refine ⟨⟨_, rfl, Zone.length_flippedWords, ?_, fun i g hg => ?_⟩, hf, rfl,
      (s.zone.sendBeacon_frame k.other).setKeeper (by decide) (by decide)⟩
    · rintro rfl
      exact Zone.flippedWords_nil
    · obtain ⟨_, hword⟩ := List.getElem?_eq_some_iff.mp hg
      rw [Zone.getElem_flippedWords, hword]
      refine ⟨rfl, ?_⟩
      exact fun v hv => Zone.flippedAt_single hv
  case holder =>
    intro s k y l h
    have hnone : s.zone.holdsWatch k = true ∨ ((s.zone.sendBeacon k.other).keeper k.other).sent = none :=
      h.imp_right fun ⟨hsent, hdue⟩ => by rwa [Zone.sendBeacon_idle hdue]
    refine (completes_mirrorFrameReceive_none hnone).imp fun z hz => ?_
    obtain rfl | rfl := hz
    · exact ⟨rfl, .refl⟩
    · exact ⟨s.zone.sendBeacon_receiver k, s.zone.sendBeacon_frame k.other⟩

end Sys2Proof.Machine
end
